-- ==== Sys2Proof/Word.lean ====
section
/-!
DEFINITION. Word.lean: the word types of the block and the plainest arithmetic on them.
-/
namespace Sys2Proof

/-- One octet. -/
abbrev Byte := BitVec 8

/-- One register word (R11: every register is 32 bits wide). -/
abbrev Word := BitVec 32

/-- An address in the 16 MiB page space (R10): page number times 0x1000 plus the offset. -/
abbrev PageAddr := BitVec 24

/-- The signed value of the low `w` bits of `n` (R9: signed fields are two's complement). -/
def signed (w n : Nat) : Int :=
  let m := n % 2 ^ w
  if 2 * m < 2 ^ w then (m : Int) else (m : Int) - (2 ^ w : Nat)

/-- The two's complement code of `i` in `w` bits. -/
def unsigned (w : Nat) (i : Int) : Nat := (i % (2 ^ w : Nat)).toNat

end Sys2Proof
end

