-- ==== Sys2Proof/Syntax.lean ====
section
/-!
DEFINITION. Syntax.lean: the commands the block takes, one constructor per row of spec/opcode_table.json, and the
types of their operands.
Log entries: DEDUCED 5; DESIGN CHOICE 10 (notes/assumptions).
-/
namespace Sys2Proof

/-- The access ports of Table 12.1. -/
inductive Port where
  | bar0 | spi | hank | image
  deriving DecidableEq, Repr

/-- The port codes of Table 12.1. -/
def Port.code : Port → Nat
  | .bar0 => 0
  | .spi => 1
  | .hank => 2
  | .image => 3

/-- The power domains of Table 01.1. -/
inductive Domain where
  | aon | seg | core | upl | host | mem
  deriving DecidableEq, Repr

/-- The levels of the strap balls (Table 13.5) at the instant at which they are latched (R438). -/
structure Straps where
  role : BitVec 2
  bootSrc : Bool
  headless : Bool
  spiAddr : BitVec 3
  deriving DecidableEq, Repr

/-- The heavy operations of Table 02.8 that hold leave, each with what it is for. -/
inductive LeaveOp where
  /-- Index 0: the CORE wake from DEEP. -/
  | core
  /-- Index 1: the bring-up of one uplink. -/
  | uplink (n : Fin 4)
  /-- Index 2: the DRAM scrub of the channels of `mask` (cost per channel). -/
  | scrub (mask : BitVec 2)
  /-- Index 3: a rule bulk load. -/
  | ruleLoad
  /-- Index 3: a directory bulk load. -/
  | dirLoad
  /-- Index 4: BIST of one block. -/
  | bist (block : Nat)
  /-- Index 5: a fan-out burst, by the number of its command. -/
  | fanout (cmd : Nat)
  deriving DecidableEq, Repr

/-- A Sync or Follow_Up message as its frame brings it: the EtherType, whether the frame has passed checks 1 to 4 of Table 06.3, and
the fields that the servo uses (R101, R102). `corr` is correctionField, signed, in 2^-16 ns. -/
structure PtpMsg where
  etherType : BitVec 16
  checked : Bool
  domain : BitVec 8
  clockId : BitVec 64
  portNumber : BitVec 16
  seq : BitVec 16
  twoStep : Bool
  corr : BitVec 64
  originSec : BitVec 48
  originNs : BitVec 32
  deriving DecidableEq, Repr


/-- How the wire ends a fragment of a preemptable frame (R210): with a correct mCRC, a wrong one, or with the frame's FCS. -/
inductive FragTail where
  | mcrcOk | mcrcBad | final
  deriving DecidableEq, Repr

/-- The mPackets of IEEE 802.3 Clause 99 other than express frames. `stamp` is the monotonic time of the edge at the timestamp point
in 2^-32 ns, as its TDC places it (R93), `octets` run after the SMD or the fragment count, without an mCRC and with the FCS of a final fragment. -/
inductive MPacket where
  | verify
  | respond
  | start (stamp : BitVec 96) (octets : List Byte) (tail : FragTail)
  | cont (count : Fin 4) (octets : List Byte) (tail : FragTail)
  | undefined
  deriving DecidableEq, Repr

/-- What the receiver of an uplink reports of its line (Table 06.10). -/
structure LineState where
  blockLock : Bool
  fecLock : Bool
  hiBer : Bool
  localFault : Bool
  remoteFault : Bool
  deriving DecidableEq, Repr

/-- The line of uplink `n` as its receiver finds it, for how many µs it has been so, and how many FEC codewords with no frame in them
were corrected and were not correctable (R222). -/
structure LineSeen where
  n : Fin 4
  line : LineState
  heldUs : Nat
  fixed : Nat := 0
  bad : Nat := 0
  deriving DecidableEq, Repr

/-- What may be wrong with a received mPacket: a PCS error block within it, and how many of its FEC codewords were corrected and were not
correctable (check 1 of Table 06.3). -/
structure RxErr where
  pcsErr : Bool := false
  fixed : Nat := 0
  bad : Nat := 0
  deriving DecidableEq, Repr

/-- What the line does as the master would send an ACK: the instant at which carrier goes or went, in 2^-32 ns of monotonic time, none
where there was none for an inter-frame gap (R218); and whether a collision meets the ACK, and a late one (R219). -/
structure AckLine where
  free : Option (BitVec 96)
  collision : Option Bool
  deriving DecidableEq, Repr

/-- An offer of the Reel to segment `n`: `arrived` lists how many octets of each class's host head are in the packet buffer; an unlisted
head is whole (R215). -/
structure SegOffer where
  n : Fin 96
  arrived : List Nat := []
  deriving DecidableEq, Repr

/-- What takes an uplink from UP to SEARCH (Table 06.2). -/
inductive LinkCause where
  | blockLock | hiBer | localFault | remoteFault
  deriving DecidableEq, Repr

/-- What met the word of an SRAM error (Table 12.7): nothing that an action names; a packet, by its number in the block; the
frame on the wire of an uplink, at an instant; the frame on a segment; a Flyer's turn-table copy; a word of the Tally array;
a counter, by page and offset; a word of a Carder table, by the table's code in a bulk record, its bank, entry and word, or a word of
a flow context, each with the packet whose pass, recovery, generation or enqueue read it. -/
inductive EccHit where
  | nothing
  | tableWord (table : Fin 6) (bank : Fin 2) (entry word id : Nat)
  | ctxWord (ctx : BitVec 18) (word : Fin 16) (id : Nat)
  | packet (id : Nat)
  | wire (n : Fin 4) (phi : Fin 2560)
  | segFrame (n : Fin 96)
  | flyer (n : Fin 96)
  | tallyWord (w : Fin 32)
  | counter (page offset : BitVec 12)
  deriving DecidableEq, Repr

/-- The commands of the block: one constructor per row of the opcode table. -/
inductive Instr where
  -- Register accesses
  /-- A register write to a field with no behaviour of its own sets, clears or ignores the field as its access code
      gives (R17). -/
  | registerWrite (port : Port) (addr : PageAddr) (value : Word)
  /-- A BAR0 write with fewer than four byte enables is discarded and increments the PAGE_ERRCNT of the page
      addressed (R12). `enables` are the byte enables. -/
  | partialByteWrite (addr : PageAddr) (value : Word) (enables : BitVec 4)
  /-- A read of a _LO register latches its _HI partner for that access port (R14). `lanes` are the bytes of the
      aligned register that the read addresses; only BAR0 reads fewer than all four. -/
  | loReadLatch (port : Port) (addr : PageAddr) (lanes : BitVec 4)
  /-- A write of a _LO register stages its value for that access port (R15). -/
  | loWriteStage (port : Port) (addr : PageAddr) (value : Word)
  /-- A write of a _HI register commits the 64-bit value staged through the same port, or changes only the _HI half
      (R15). -/
  | hiWriteCommit (port : Port) (addr : PageAddr) (value : Word)
  /-- An access to a page whose domain is OFF or DEEP does nothing to the page, counts in OFF_DOMAIN_CNT and raises
      OFF_DOMAIN_ACCESS (R52). `write` is the data of a write, none for a read. -/
  | offDomainAccess (port : Port) (addr : PageAddr) (write : Option Word)
  /-- An access to a page whose domain is LIGHT wakes the domain and then completes normally (R52). `write` is the
      data of a write, none for a read. -/
  | lightDomainAccess (port : Port) (addr : PageAddr) (write : Option Word)
  /-- A management SPI transaction addressed to this part carries out one register access and returns its status and
      data (R410). The octets that the host clocks, from SPI_CS_N low to high; `waits` is how many octets of 0x00
      come before the access is complete. -/
  | spiTransaction (mosi : List Byte) (waits : Nat)
  -- Reset, supplies and fuses
  /-- PORST_N held low for 10 µs or more resets the whole device, AON included (R443). PORST_N has been low for
      `lowNs`. -/
  | porstAssert (lowNs : Nat)
  /-- The rise of PORST_N latches the straps and starts the fuse load (R438). `tdcOk` says that the TDC calibration
      succeeded (R94). -/
  | porstRelease (straps : Straps) (tdcOk : Bool)
  /-- VDD_AON or VDDIO_AON below its monitor threshold for 2 µs causes a device reset held until the rails recover
      (R444). A rail has been below its threshold for `lowNs`. -/
  | aonSupplyFault (lowNs : Nat)
  /-- VDD_SEG or VDDA_SEG below its monitor threshold for 1 µs disables every segment driver within 200 ns (R444). A
      rail has been below its threshold for `lowNs`. -/
  | segSupplyFault (lowNs : Nat)
  /-- After both segment rails have been within range for 100 µs the segment drivers are enabled again (R444). Both
      rails have been within range for `rangeNs`. -/
  | segSupplyRecover (rangeNs : Nat)
  /-- Completion of the fuse load takes the mode from RESET to STANDBY and sets the role from the latched straps
      (R53). -/
  | fuseLoadComplete
  -- Modes, SAFE, watchdog, PERST and role
  /-- A correctly keyed MODE_CMD DEVICE_RESET turns every domain except AON off and returns all registers to reset
      values (R54). `straps` and `tdcOk` are what the end of the reset finds. -/
  | deviceReset (port : Port) (key : BitVec 16) (straps : Straps) (tdcOk : Bool)
  /-- Command SLEEP takes the part to STANDBY when every SQ is quiescent and every uplink disabled, or from SAFE
      with SAFE_CAUSE clear (R53). -/
  | modeCmdSleep (port : Port) (key : BitVec 16)
  /-- Command ACQUIRE takes STANDBY to ACQUIRE, requesting CORE and uplink leave and waking HOST and MEM (R53). -/
  | modeCmdAcquire (port : Port) (key : BitVec 16)
  /-- Command RUN in ACQUIRE sets RUN_ARMED (R53). -/
  | modeCmdRun (port : Port) (key : BitVec 16)
  /-- A correctly keyed ENTER_SAFE sets SAFE_CAUSE.HOST_CMD in any mode outside RESET (R54). -/
  | modeCmdEnterSafe (port : Port) (key : BitVec 16)
  /-- Command EXIT_SAFE with SAFE_CAUSE clear takes SAFE to ACQUIRE with safe scenes kept in force (R53). -/
  | modeCmdExitSafe (port : Port) (key : BitVec 16)
  /-- A part with AUTO_RUN = 1 moves by itself from the STANDBY after RESET to ACQUIRE once its configuration image
      has loaded (R55). -/
  | autoStart
  /-- When RUN_ARMED, TIME_READY and DOMAINS_READY all read 1 the part enters RUN, starting gate lists and releasing
      held launch frames and fan-out commands (R57). -/
  | runEntry
  /-- When ACQUIRE_TIMEOUT.LIMIT µs pass after ACQUIRE entry without RUN, event ACQUIRE_TIMEOUT is raised once and
      the mode is unchanged (R53). -/
  | acquireTimeout
  /-- When the Whorl declares its time source lost in RUN the mode becomes HOLDOVER and runs on the free-running
      time (R53). -/
  | holdoverEntry
  /-- When the part becomes time ready in HOLDOVER the mode returns to RUN (R53). -/
  | holdoverExit
  /-- In mode HOLDOVER with HO_ERROR above HO_LIMIT and HOLDOVER_TO_SAFE = 1, SAFE_CAUSE.HOLDOVER_LIMIT is set
      (R109). -/
  | holdoverLimitSafe
  /-- A set SAFE_CAUSE bit enters SAFE, latches the cause, and stops fetch, CR writes, mirror, dispatch and
      expansion, discarding queued command payloads (R59). -/
  | safeEntry
  /-- Once each uplink finishes its frame on the wire its transmitter goes idle and its PCS is turned off (R59). -/
  | safeUplinkIdle (n : Fin 4)
  /-- From t0 + 10 µs every device turn carries its safe scene (R61). -/
  | safeSceneStart
  /-- By t0 + 50 µs the packet buffer is discarded, CORE goes DEEP, UPL OFF, DRAM into self-refresh and HOST to LINK
      (R59). -/
  | safePowerDown
  /-- After SAFE_RETRY_S s in SAFE with only WATCHDOG or HOLDOVER_LIMIT causes and AUTO_EXIT_SAFE = 1, the part
      clears those bits and enters ACQUIRE (R62). -/
  | autoExitSafe
  /-- A write of 0x0000_6B1C to WDOG_KICK reloads the watchdog; any other value counts in PAGE_ERRCNT (R60). -/
  | wdogKick (port : Port) (value : Word)
  /-- When half of PERIOD remains the watchdog raises WDOG_WARN (R60). -/
  | wdogWarn
  /-- When the watchdog count reaches zero it sets SAFE_CAUSE.WATCHDOG (R60). -/
  | watchdogExpiry
  /-- Assertion of PERST_N resets the HOST domain and aborts every SQ with completions frozen in the ledger (R56).
      -/
  | perstAssert
  /-- Release of PERST_N returns the HOSTQ page to reset values except the ledger view and raises PERST_ABORT
      (R367). -/
  | perstRelease
  /-- A write of ROLE_CMD requests a new role by compare-and-set on the epoch, incrementing the epoch on acceptance
      (R66). -/
  | roleCmd (port : Port) (value : Word)
  -- Memory training, wakes, leave and throttling
  /-- Completion of DRAM training sets the trained channels, density and usable size and raises TRAIN_DONE (R403).
      The operands say which channel trained and the density code read from each, 0 where none could be read. -/
  | dramTrainingDone (trained0 trained1 : Bool) (dens0 dens1 : Fin 5)
  /-- A domain wake completes after its latency and raises WAKE_DONE (R69). -/
  | domainWakeDone (domain : Domain)
  /-- A general lane idle for LIGHT_IDLE ns in RUN or HOLDOVER with LIGHT_SLEEP_EN = 1 enters LIGHT (R70). `lane` is
      a general lane, none is the Distaff. -/
  | laneLightEntry (lane : Option (Fin 11))
  /-- A heavy operation requests leave at its POWER.COSTn cost and priority and enters its priority FIFO (R71). -/
  | leaveRequest (op : LeaveOp)
  /-- In an AON clock the head of the highest-priority FIFO is granted when COMMITTED plus its cost fits the ceiling
      (R74). -/
  | leaveGrant
  /-- A request that has waited LEAVE_WARN µs raises LEAVE_SLOW once (R76). -/
  | leaveSlow
  /-- A write of CEILING updates LIMIT_MW and, when below COMMITTED, stops grants and raises CEILING_BELOW_COMMITTED
      (R77). -/
  | ceilingWrite (port : Port) (value : Word)
  /-- When the power estimate reaches CEILING the power manager pauses transient operations and withholds
      general-lane dispatch (R78). `estimate` is the estimate over the last 100 µs, in units of 1/160 token (R86).
      -/
  | throttleOn (estimate : BitVec 16)
  /-- When the estimate falls below CEILING throttling ends (R78). `estimate` is the estimate over the last 100 µs,
      in units of 1/160 token (R86). -/
  | throttleOff (estimate : BitVec 16)
  /-- A fan-out burst still waiting for leave when its expansion must begin keeps waiting and raises
      LEAVE_DEADLINE_MISS (R81). `share` is the number of the fan-out burst. -/
  | leaveDeadlineMiss (share : Nat)
  -- Whorl
  /-- SNAP_CMD.GO captures monotonic and network time at one interpolated instant (R126). `phi` is the TDC fraction
      of the capture. -/
  | snapCmd (port : Port) (value : Word) (phi : Fin 2560)
  /-- Every CAL_PERIOD_MS each TDC recalibrates by code density, keeping its last good table on failure (R94). `ok`
      says that the calibration succeeded. -/
  | tdcCalibration (ok : Bool)
  /-- A matching Sync message on PTP_PORT is copied to the servo, and a one-step Sync is a valid measurement on
      arrival (R101). `phi` is the TDC fraction of the receive timestamp on uplink `n`. -/
  | ptpSyncRx (n : Fin 4) (phi : Fin 2560) (m : PtpMsg)
  /-- A Follow_Up with the Sync's sequenceId before the next Sync makes a two-step measurement valid (R102). -/
  | ptpFollowUpRx (n : Fin 4) (m : PtpMsg)
  /-- No valid measurement for LOSS_COUNT × τ takes LOCKED or ACQUIRING to HOLDOVER (R106). -/
  | measurementLoss
  /-- A write that changes SERVO_CFG.SOURCE moves the lock state at the next AON tick as the source-change rows give
      (R106). -/
  | sourceChange
  /-- With SOURCE = HOST, writing HOST_LOCK 1 locks and writing it 0 from LOCKED enters HOLDOVER (R106). -/
  | hostLockWrite (port : Port) (value : Word)
  /-- A missing or out-of-range REFCLK_25M switches AON to the internal oscillator, enters HOLDOVER and sets
      HO_ERROR to its maximum (R107). The operands say for how long there was no edge, or a frequency out of range.
      -/
  | refclkFault (noEdgeNs outOfRangeNs : Nat)
  /-- REFCLK within range for 1 ms returns AON to it and clears FAULT (R107). -/
  | refclkRecovered (inRangeUs : Nat)
  /-- Every 1 ms in HOLDOVER the Whorl updates HO_ERROR from its frequency and aging terms (R108). -/
  | hoErrorUpdate
  /-- ADJ_CMD.GO requests a relative or absolute change of network time, chosen for slew, whole step or boundary
      step (R110). -/
  | adjRequest (port : Port) (value : Word)
  /-- An accepted whole change is applied to OFFSET at the next AON tick, with a hold for a backward change (R112).
      -/
  | stepApply
  /-- A waiting backward change is applied at the first common cycle boundary, with a hold under R115 (R114). -/
  | stepAtBoundary
  /-- A slew completes when the remainder is applied, raising SLEW_DONE and returning STATE to IDLE (R113). -/
  | slewDone
  /-- When monotonic time reaches the watermark the hold ends, held events fire and HOLD_END is raised (R115). -/
  | holdEnd
  /-- PPS_OUT asserts at each network-time second plus its offset as a watermarked event (R119). -/
  | ppsOutEdge
  /-- A PPS_IN edge is timestamped, sets NEW and raises PPS_IN_EDGE, or is ignored within 500 ms of the last (R120).
      -/
  | ppsInEdge (phi : Fin 2560) (rising : Bool)
  /-- 1.5 s without an accepted PPS_IN edge raises PPS_IN_MISSING once per missing second (R120). -/
  | ppsInMissing
  /-- A write of a CYCLE_MARK CTRL arms or changes its mode after any pulse in progress ends (R122). -/
  | cycleMarkArm (port : Port) (k : Fin 8) (value : Word)
  /-- A CYCLE_MARK output emits its active edge at its periodic, one-shot or segment-cycle time (R121). -/
  | cycleMarkEdge (k : Fin 8)
  /-- At each network-time microsecond boundary the Reel receives a refill tick and TICK_COUNT increments (R276). -/
  | refillTick
  -- Skein
  /-- TT_CMD COMMIT with the key checks the admin turn table and sets PENDING or REFUSED (R138). -/
  | ttCommit (port : Port) (n : Fin 96) (value : Word)
  /-- At the switch point the oper turn table takes the admin contents and TABLE_SWITCH is raised (R139). -/
  | ttSwitch (n : Fin 96)
  /-- With EN = 1 and the PHY ready a disabled engine enters PLAIN or LISTEN (R156). -/
  | segmentPhyReady (n : Fin 96)
  /-- PAGE_CTRL.EN written 0 or SEG leaving ON ends the frame in progress and disables the engine (R156). `write` is
      the write of PAGE_CTRL; none where SEG leaves ON. -/
  | segmentDisable (n : Fin 96) (write : Option (Port × Word))
  /-- A write of CFG or NODE_CFG while enabled leaves PLAIN, DUAL and NODE_CFG as they stand (R167). `nodeCfg` picks
      NODE_CFG, else CFG. -/
  | segmentCfgWrite (port : Port) (n : Fin 96) (nodeCfg : Bool) (value : Word)
  /-- Expiry of the listen timer starts a cold start when allowed, or restarts the timer (R157). `free` is the
      instant at which carrier goes or went, in 2^-32 ns of monotonic time; none: no carrier for a gap (R218). -/
  | listenTimeout (n : Fin 96) (free : Option (BitVec 96))
  /-- A COLDSTART sent under CSMA/CD without collision takes CONTEND to TRIAL (R156). -/
  | coldstartSent (n : Fin 96)
  /-- A collision on a COLDSTART is jammed and backed off, or after 16 abandons the attempt (R158). -/
  | contendCollision (n : Fin 96)
  /-- The end of a back-off lets the engine defer and retry its CSMA/CD transmission (R158). `free` is
      as for listenTimeout. -/
  | backoffExpiry (n : Fin 96) (free : Option (BitVec 96))
  /-- At each trial grid point the engine sends a trial COLDSTART, returns to LISTEN on carrier, or sends its first
      BEACON after the third (R156). `carrier` says that there was carrier from GUARD before the grid point on. -/
  | trialGridPoint (n : Fin 96) (carrier : Bool)
  /-- As cycle master the engine starts each cycle with a BEACON at its grid point, setting ACTIVE after the second
      (R117). -/
  | beaconSend (n : Fin 96)
  /-- A predicted cycle start passing without an accepted beacon counts in BEACON_MISS and may lead to takeover or
      LISTEN (R156). -/
  | beaconMiss (n : Fin 96)
  /-- A received segment frame passes the MAC checks and goes to the Skein engine (R220). `stamp` is the monotonic
      time of its timestamp point in 2^-32 ns, `octets` run from destination address to FCS, `symErr` is a PHY symbol
      error, `own` says that the Chrosal's own driver was enabled. -/
  | segmentFrameRx (n : Fin 96) (stamp : BitVec 96) (octets : List Byte) (symErr own : Bool)
  /-- A partner turn ending without an accepted frame marks it stale, ages it and may mark it absent (R153). -/
  | partnerTurnEnd (n : Fin 96) (turn : Fin 64)
  /-- A collision in turn 0 or a device turn ends the frame with a jam without retry and raises COLLISION (R151). -/
  | staticCollision (n : Fin 96) (turn : Fin 64)
  /-- At a DEV_STATE latch point the pending bank becomes the sending bank, or the last bank is resent with AGE one
      higher (R146). -/
  | devStateLatch (n : Fin 96) (turn : Fin 64)
  /-- At a DEV_QUEUE latch point the engine takes a class-7 Reel frame, a command payload or another Reel frame in
      order (R148). -/
  | devQueueLatch (n : Fin 96) (turn : Fin 64)
  /-- PUB_CMD.GO publishes the staging bank of a DEV_STATE turn for its next latch point (R146). -/
  | pubCmd (port : Port) (n : Fin 96) (value : Word)
  /-- A write of SAFE_VALID marks a safe scene valid, or is refused when LEN exceeds MAX_PAYLOAD (R150). `value` is
      the word written to TURN_STAT of `turn`. -/
  | safeValidWrite (port : Port) (n : Fin 96) (turn : Fin 65) (value : Word)
  /-- A host write through the buffer window is discarded when it hits a sending, pending or valid safe bank (R143).
      `word` is the word of the window. -/
  | bufWinWrite (port : Port) (n : Fin 96) (word : Fin 512) (value : Word)
  /-- The Reel offers the engine a frame, which is published, held for a DEV_QUEUE turn, sent in contention, or
      dropped (R147). -/
  | reelFrameOffer (n : Fin 96)
  /-- A device frame is sent in the contention turn under CSMA/CD when it fits before the turn ends (R163).
      `free` is as for listenTimeout. -/
  | contFrameTx (n : Fin 96) (free : Option (BitVec 96))
  /-- The master answers the oldest logged JOIN with one ACK in the contention turn (R165). `line` says what
      the line does. -/
  | ackSend (n : Fin 96) (line : AckLine)
  /-- JOIN_POP.GO removes the oldest JOIN log entry unanswered (R164). -/
  | joinPop (port : Port) (n : Fin 96) (value : Word)
  /-- ACK_CMD.GO queues a host-composed ACK for the oldest JOIN log entry (R165). -/
  | ackCmd (port : Port) (n : Fin 96) (value : Word)
  /-- A plain segment sends each Reel frame whole under CSMA/CD (R167). `free` is as for listenTimeout. -/
  | plainFrameTx (n : Fin 96) (free : Option (BitVec 96))
  /-- A CSMA/CD collision is jammed and backed off, or drops the frame at 16 collisions or a late collision (R219).
      `late` says that the collision came after the first 512 bits. -/
  | segmentCsmaCollision (n : Fin 96) (late : Bool)
  -- Flyer and the power chain
  /-- TT_SEAL_CMD SEAL with the key starts the seal checks of the Flyer staging slot (R173). -/
  | ttSeal (port : Port) (n : Fin 96) (value : Word)
  /-- Within 6 µs the seal checks end with DONE or FAILED, setting SEAL_DONE or SEAL_FAIL (R173). -/
  | ttSealDone (n : Fin 96)
  /-- TT_SEAL_CMD UNSEAL unseals the staging slot, or is refused with cause BUSY (R174). -/
  | ttUnseal (port : Port) (n : Fin 96) (value : Word)
  /-- EN = 1 with SEG ON takes the Flyer from OFF to OPEN or UNSYNC (R179). `write` is the write of PAGE_CTRL; none
      where SEG becomes ON. -/
  | flyerEnable (n : Fin 96) (write : Option (Port × Word))
  /-- EN = 0 or SEG not ON takes the Flyer to OFF with the driver off (R179). `write` is the write of PAGE_CTRL;
      none where SEG leaves ON. -/
  | flyerDisable (n : Fin 96) (write : Option (Port × Word))
  /-- A beacon detected by the Flyer is accepted as anchor or rejected as a BEACON_REJECT (R178). `stamp` is the
      monotonic time of its timestamp point in 2^-32 ns, to one AON tick; `octets` run from destination address to
      FCS. -/
  | flyerBeaconDetect (n : Fin 96) (stamp : BitVec 96) (octets : List Byte)
  /-- A predicted start passing without an accepted beacon increments MISS_RUN and may take the Flyer to UNSYNC
      (R179). -/
  | flyerBeaconMiss (n : Fin 96)
  /-- No beacon within 2,000 ns of a predicted start with the turn-0 window open grants one extension allowance
      (R181). -/
  | extAllowance (n : Fin 96)
  /-- Each engine transmit attempt is blocked, allowed, or later cut, with violations counted (R183). `quietNs` is
      how long carrier has been absent. -/
  | txAttempt (n : Fin 96) (quietNs : Nat)
  /-- A transmission still on at its window close or at 60,000 ns is cut and counted in TRUNCATED (R183). -/
  | windowCloseCut (n : Fin 96)
  /-- REARM with GO and the key clears the latch and VIOL_RUN (R184). -/
  | rearm (port : Port) (n : Fin 96) (value : Word)
  /-- DRIFT_CMD.GO clears one drift-table entry or all of them, keeping MAC (R189). -/
  | driftCmd (port : Port) (n : Fin 96) (value : Word)
  /-- Energy still present at the end of a partner interval is attributed to the turn owner (R191). `turn` is the turn in whose
      interval the energy began: that of turn 0 or of the contention turn, 64, has no owner. -/
  | babbleOverrun (n : Fin 96) (turn : Fin 65)
  /-- Energy beginning outside every interval is attributed by source address or counted as unknown (R191). `stamp`
      is the monotonic time at which the energy began in 2^-32 ns, `src` the source address of a frame with a correct
      FCS that it ends in, `collision` says that it is a collision in an own turn or in turn 0 as master. -/
  | strayEnergy (n : Fin 96) (stamp : BitVec 96) (src : Option (BitVec 48)) (collision : Bool)
  /-- After OFF_MS ms a timed cut restores power and zeroes the runs (R192). -/
  | cutRestore (n : Fin 96)
  /-- After CLEAN_S s in ON with no run at its limit CUTS_LEFT returns to RETRIES (R192). -/
  | cleanRenew (n : Fin 96)
  /-- A write of PWR_CTRL.ON requests or removes segment power (R193). -/
  | pwrOnWrite (port : Port) (n : Fin 96) (value : Word)
  /-- PWR_CTRL.RESTORE sets STATE to ON from CUT or HELD and renews CUTS_LEFT (R193). -/
  | pwrRestore (port : Port) (n : Fin 96) (value : Word)
  /-- A chain frame shifts 96 segment power bits after any change or every 100 ms (R194). -/
  | segpwrFrame
  /-- At the end of a chain frame SEGPWR_LAT pulses and controllers latch the bits (R453). -/
  | segpwrLatch
  -- Uplink MAC
  /-- EN = 1 in ACQUIRE, RUN or HOLDOVER requests COST1 leave and enters LEAVE_WAIT (R199). `write` is the write of
      PAGE_CTRL; none where the uplink is enabled and its mode now lets it start. -/
  | uplinkEnable (n : Fin 4) (write : Option (Port × Word))
  /-- EN = 0 or a mode of STANDBY or RESET cuts the frame in progress and takes the uplink OFF (R199). `write` is
      the write of PAGE_CTRL; none where the mode ends it. -/
  | uplinkDisable (n : Fin 4) (write : Option (Port × Word))
  /-- SerDes ready and calibration ended take the uplink to SEARCH (R199). `cal` are the CAL_TX and CAL_RX measured,
      none where they fall outside the fused range. -/
  | uplinkBringupDone (n : Fin 4) (cal : Option (Word × Word))
  /-- Block lock and no fault held for 1 ms take the uplink UP and start verify (R199). -/
  | linkUp (seen : LineSeen)
  /-- Loss of block lock, hi_ber or a fault takes UP to SEARCH, cutting the frame in progress (R199). `rxBusy` says
      that the reception of a frame had begun. -/
  | linkDown (n : Fin 4) (cause : LinkCause) (rxBusy : Bool)
  /-- A received uplink frame is checked and enters the ingress FIFO, is handled as MAC control, or is discarded
      (R203). `stamp` is the monotonic time of its timestamp point in 2^-32 ns, `phi` the instant within the tick at
      which its last octet ended, `octets` run from destination address to FCS, `pcsErr` is a PCS error block,
      `fixed` and `bad` are the FEC codewords corrected and not correctable within it. -/
  | uplinkFrameRx (n : Fin 4) (stamp : BitVec 96) (phi : Fin 2560) (octets : List Byte) (pcsErr : Bool) (fixed bad : Nat)
  /-- At te + 64 ns a received pause sets or clears PAUSED (R212). -/
  | pauseTakeEffect (n : Fin 4)
  /-- At te + q quanta PAUSED returns to 0 (R212). -/
  | pauseExpiry (n : Fin 4)
  /-- On XOFF assertion or release the MAC sends an express pause frame at the next frame boundary (R214). `phi` is
      the instant within the tick. -/
  | pauseFrameTx (n : Fin 4) (phi : Fin 2560)
  /-- While XOFF stays asserted the pause frame is repeated every PAUSE_REFRESH quanta (R214). `phi` is the instant
      within the tick. -/
  | pauseRefresh (n : Fin 4) (phi : Fin 2560)
  /-- Each verifyTime after LINK_UP a verify mPacket is sent, failing after three attempts (R206). `phi` is the
      instant within the tick. -/
  | verifySend (n : Fin 4) (phi : Fin 2560)
  /-- A received mPacket is answered, reassembled into its frame, or discarded with reassembly errors (R210). `phi`
      is the instant within the tick at which its last octet ended. -/
  | mpacketRx (n : Fin 4) (phi : Fin 2560) (m : MPacket) (err : RxErr)
  /-- At each uplink frame boundary the Reel starts the head of the highest eligible class, or a continuation
      (R294). `phi` is the instant within the tick, `arrived` lists how many octets of each class's host head are in
      the packet buffer; an unlisted head is whole. -/
  | txSelect (n : Fin 4) (phi : Fin 2560) (arrived : List Nat)
  /-- An express frame ready, a pause due, a gate close or a hold pre-empts the preemptable frame at the first
      allowed point (R208). operands as of TX_SELECT. -/
  | preemption (n : Fin 4) (phi : Fin 2560) (arrived : List Nat)
  /-- A frame sent whole returns its cells and completes its copy (R269). -/
  | uplinkFrameTxEnd (n : Fin 4)
  /-- A host frame running out of data ends with an inverted FCS and raises its class's start threshold (R216).
      `phi` is the instant within the tick. -/
  | txUnderrun (n : Fin 4) (phi : Fin 2560)
  -- Carder
  /-- The post-reset clear of rule arrays, nodes, profiles and defaults completes and INIT_DONE reads 1 (R230). -/
  | carderInitDone
  /-- Lane 11's dispatcher starts a pass from its recirculation queue or an express FIFO (R225). -/
  | lane11Dispatch
  /-- The general dispatcher starts a pass on the next lane from its recirculation queue or a general FIFO (R226).
      -/
  | generalDispatch
  /-- After 240 ns a pass yields its verdict: drop, trap, recirculate or output (R247). -/
  | passEnd
  /-- The reorder stage releases general-lane packets in arrival order once earlier tags are released (R32).
      `ingress` is the port whose window releases. -/
  | reorderRelease (ingress : BitVec 8)
  /-- BANK_CMD SWITCH with the key increments EPOCH when the other bank is free, or is refused (R256). -/
  | bankSwitch (port : Port) (value : Word)
  /-- The draining bank becomes free when its last packet ends, raising BANK_FREE (R255). -/
  | bankFree
  /-- A write of an entry word through the rule window is judged by the entry write checks (R258). -/
  | ruleEntryWrite (port : Port) (word : Fin 32) (value : Word)
  /-- A write of a node, profile or port default is refused while its bank is live (R257). `reg` is the number of
      the word in page 0x022. -/
  | bankWindowWrite (port : Port) (reg : Fin 1024) (value : Word)
  /-- BULK_CMD GO starts a rule bulk load by requesting COST3 leave (R262). -/
  | carderBulkGo (port : Port) (value : Word)
  /-- BULK_CMD ABORT ends a rule bulk load after its current record (R263). -/
  | carderBulkAbort (port : Port) (value : Word)
  /-- Each bulk record read from host memory is written word by word, or skipped, ending the load after BULK_COUNT
      or an error (R263). `rec` is the record of ten words that the host read answered, none for a PCIe read error.
      -/
  | carderBulkRecord (rec : Option (List Word))
  -- Reel
  /-- A released packet passes meter, class-7 test, generation, shaper stamp, horizon check and queue limit (R268).
      -/
  | reelEnqueue
  /-- A background sweep brings every metered or shaped context up to date within 2^22 ticks (R276). -/
  | contextSweep
  /-- CTX_CMD READ copies the 16 context words into CTX_DATA (R275). -/
  | ctxRead (port : Port) (value : Word)
  /-- CTX_CMD WRITE writes the masked context words, or is refused with a cause (R275). -/
  | ctxWrite (port : Port) (value : Word)
  /-- GATE_CTRL CONFIG_CHANGE checks the admin list and fixes its change time, or is refused (R284). -/
  | gclConfigChange (port : Port) (n : Fin 4) (value : Word)
  /-- GATE_CTRL CANCEL clears a pending configuration change (R284). -/
  | gclCancel (port : Port) (n : Fin 4) (value : Word)
  /-- At the change time the admin list becomes the oper list and GCL_ACTIVATED is raised (R287). -/
  | gclActivate (n : Fin 4)
  /-- The copy of the new oper list into the admin buffer ends and raises ADMIN_COPY_DONE (R287). -/
  | adminCopyDone (n : Fin 4)
  /-- At each oper entry start the gate states change as a watermarked event (R283). -/
  | gateEvent (n : Fin 4)
  /-- A launch-time head becomes eligible so its reference bit crosses the MDI at L (R290). `arrived` lists how many
      octets of each class's host head are in the packet buffer; an unlisted head is whole. -/
  | launchTimeReached (n : Fin 4) (cls : Fin 8) (arrived : List Nat)
  /-- A head not started by L + LATE_TOL is dropped as EXPIRED (R291). -/
  | launchExpire (n : Fin 4) (cls : Fin 8)
  /-- The Reel offers the eligible head of the highest class to a segment engine, withdrawing a lower offer (R297). -/
  | segmentOffer (o : SegOffer)
  /-- C7_ADMIT_CMD ADD admits a context toward an egress after the admission checks (R301). -/
  | c7AdmitAdd (port : Port) (value : Word)
  /-- C7_ADMIT_CMD REMOVE withdraws a context from the class-7 ledger (R301). -/
  | c7AdmitRemove (port : Port) (value : Word)
  -- Ply
  /-- A recovering context whose timer reaches RESET_MS since its last pass resets to TAKE_ANY (R318). -/
  | seqReset (ctx : BitVec 18)
  /-- Every LATENT_TEST_MS each enabled counter set is tested for a failed path (R332). -/
  | latentTest
  /-- Every LATENT_RESET_MS each enabled counter set zeroes its latent counts (R332). -/
  | latentReset
  /-- CNT_SEL CLEAR sets words 0 to 10 of the selected counter set to 0 (R333). -/
  | counterSetClear (port : Port) (value : Word)
  -- Host queues
  /-- An SQ producer doorbell sets P, is ignored, or puts the SQ in ERROR (R343). A write of BAR2 at `offset` with
      byte enables `be`. -/
  | sqDoorbell (offset : BitVec 16) (value : Word) (be : BitVec 4)
  /-- A CR head doorbell returns entries to the Chrosal or is refused (R344). A write of BAR2 at `offset` with byte
      enables `be`. -/
  | crHeadDoorbell (offset : BitVec 16) (value : Word) (be : BitVec 4)
  /-- A changed shadow word is written to host memory within 2 µs (R345). -/
  | shadowWrite (word : Fin 512)
  /-- The fetch engine reads entries from an eligible SQ, judging each one (R348). `entries` are the entries that
      the turn reads, sixteen words each; none where the read meets a PCIe error. -/
  | sqFetch (entries : List (Option (List Word)))
  /-- An operation is handed over in SQ order to the block that performs it (R351). `data` are the octets of a TX
      frame's buffers. -/
  | opHandover (sq : Fin 256) (data : List Byte)
  /-- A PCIe error on TX frame data drops or ends the frame with PCIE_ERROR (R352). `phi` is the instant of the
      error within the current tick. -/
  | txDataPcieError (tag : Fin 4096) (phi : Fin 2560)
  /-- A due completion is written to its CR, parked, or waits in the ledger (R360). -/
  | completion
  /-- A frame for port 0x80 is mapped to a CR and placed, waits, or is dropped (R359). -/
  | rxPlacement
  /-- A frame waiting RX_HOLD_LIMIT µs for placement is dropped (R359). -/
  | rxHoldTimeout (cr : Fin 64)
  /-- SQ_CMD ENABLE takes an OFF SQ to ACTIVE (R362). -/
  | sqEnable (port : Port) (value : Word)
  /-- SQ_CMD DRAIN stops fetch and lets fetched operations run on (R362). -/
  | sqDrain (port : Port) (value : Word)
  /-- SQ_CMD ABORT withdraws or stops each fetched operation (R363). -/
  | sqAbort (port : Port) (value : Word)
  /-- A DRAINING or ABORTING SQ that becomes quiescent goes OFF (R362). -/
  | sqQuiescent (sq : Fin 256)
  /-- CR_CMD ENABLE enables a CR with H = T = 0 (R364). -/
  | crEnable (port : Port) (value : Word)
  /-- CR_CMD DISABLE returns posted buffers and drops waiting frames, or is refused (R364). -/
  | crDisable (port : Port) (value : Word)
  /-- LEDGER_CMD RELEASE frees one frozen or orphaned tag (R368). -/
  | ledgerRelease (port : Port) (value : Word)
  /-- LEDGER_CMD RELEASE_ALL frees every tag that RELEASE could free (R368). -/
  | ledgerReleaseAll (port : Port) (value : Word)
  /-- LEDGER_CMD DUMP writes 4,096 ledger records to host memory (R368). -/
  | ledgerDump (port : Port) (value : Word)
  /-- The last dump write is issued and LEDGER_DUMP_DONE is raised (R368). -/
  | ledgerDumpDone
  -- Distaff, Hank and the directory
  /-- A command on a group over 4,096 requests index-5 leave 1 ms before START (R380). `share` is the number of the
      command. -/
  | fanoutLeaveRequest (share : Nat)
  /-- Expansion begins once the mode, START and any leave allow it (R380). `share` is the number of the command;
      `ecc` lists the DRAM addresses whose reads meet an error in this walk, and whether each is uncorrectable. -/
  | fanoutStart (share : Nat) (ecc : List (Nat × Bool))
  /-- A command not started by A + APPLY_LATE_TOL ends with APPLY_EXPIRED (R380). `share` is the number of the
      command. -/
  | fanoutApplyExpired (share : Nat)
  /-- A worker's open FANOUT frame is sent after 100 µs without a new item (R381). The open frame of command `share`
      for worker `w`. -/
  | fanoutFrameIdleSend (share : Nat) (w : Fin 256)
  /-- A worker accepts a BIND, records its manager and sends HELLO (R386). -/
  | bindRx
  /-- An accepted HELLO marks the worker entry BOUND and records its epoch (R387). -/
  | helloRx
  /-- A worker acknowledges a FANOUT frame and stages its items or expires them (R389). -/
  | fanoutRx
  /-- A FANOUT_ACK answers an outstanding FANOUT or CANCEL at the manager (R385). -/
  | fanoutAckRx
  /-- The manager records a worker's SHARE_DONE counts (R394). -/
  | shareDoneRx
  /-- A worker accepts a CANCEL, withdraws unlatched items and releases the share (R396). -/
  | cancelRx
  /-- A worker carries out the accesses of a REG_REQ and answers with REG_RESP (R399). -/
  | regReqRx
  /-- The manager completes a REMOTE_REG from its REG_RESP (R399). -/
  | regRespRx
  /-- An unanswered message is retransmitted with RETRY, or given up after RETRIES (R385). The message to worker `w`
      with sequence number `seq`. -/
  | hankAckTimeout (w : Fin 256) (seq : BitVec 16)
  /-- Every KEEPALIVE_MS the manager sends BIND to each valid worker entry (R387). `w` is the worker. -/
  | bindKeepalive (w : Fin 256)
  /-- An entry without HELLO for PEER_TIMEOUT_MS becomes ABSENT (R387). `w` is the worker. -/
  | workerAbsent (w : Fin 256)
  /-- No valid manager message for MGR_TIMEOUT_MS clears MGR_VALID and raises UNBOUND (R386). -/
  | mgrTimeout
  /-- Writing WT_CFG.VALID puts an entry in BINDING or returns it to EMPTY (R387). -/
  | wtValidWrite (port : Port) (value : Word)
  /-- The host writing MGR_VALID 0 unbinds the worker (R386). -/
  | mgrUnbind (port : Port) (value : Word)
  /-- A class-7 Hank frame delayed by its bucket is released to the Reel (R388). -/
  | hankBucketRelease
  /-- A staging payload 100 µs without a new item closes and is queued (R390). The staging payload of share number
      `share` for segment `n`. -/
  | stagingIdleClose (share : Nat) (n : Fin 96)
  /-- A payload held by a full command queue is queued once room appears (R390). Segment `n` has room; `ecc` lists
      the DRAM addresses whose reads meet an error in the walks that go on, and whether each is uncorrectable. -/
  | stagingResume (n : Fin 96) (ecc : List (Nat × Bool))
  /-- At A + TOL every staged or queued payload of the command expires (R392). `share` is the number of the share or
      command; `ecc` as in FANOUT_START, for a walk that goes on. -/
  | commandExpire (share : Nat) (ecc : List (Nat × Bool))
  /-- The timed apply of a command fires once at A as a watermarked event (R393). `share` is the number of the share
      or command. -/
  | applyEvent (share : Nat)
  /-- A worker sends SHARE_DONE once its share is complete and settled after the apply event (R393). `share` is the
      number of the share. -/
  | shareDoneSend (share : Nat)
  /-- SHARE_DONE is repeated ACK_TIMEOUT_US apart, RETRIES + 1 times in all (R385). `share` is the number of the
      share. -/
  | shareDoneRepeat (share : Nat)
  /-- The manager writes the completion once the apply event fired and every share reported (R394). `share` is the
      number of the command. -/
  | fanoutComplete (share : Nat)
  /-- At A + TOL + REPLY_WAIT the manager completes and counts each worker without reply (R394). `share` is the
      number of the command. -/
  | replyMissing (share : Nat)
  /-- DIR_CMD READ reads one directory entry or group descriptor into DIR_WORD (R376). `ecc` says that the read
      meets an error, and whether it is uncorrectable. -/
  | dirRead (port : Port) (value : Word) (ecc : Option Bool)
  /-- DIR_CMD WRITE writes DIR_WORD whole to one entry or descriptor (R376). -/
  | dirWrite (port : Port) (value : Word)
  /-- BULK_CMD GO starts a directory bulk load (R377). -/
  | distaffBulkGo (port : Port) (value : Word)
  /-- BULK_CMD ABORT ends a directory bulk load after its current record (R377). -/
  | distaffBulkAbort (port : Port) (value : Word)
  /-- Each directory bulk record is written whole or skipped (R377). `rec` are the six words of the record, none for
      a PCIe error. -/
  | distaffBulkRecord (rec : Option (List Word))
  /-- SCRUB_CMD GO starts a DRAM scrub of the masked channels (R403). -/
  | scrubGo (port : Port) (value : Word)
  /-- SCRUB_CMD ABORT ends a DRAM scrub (R403). `ecc` lists the DRAM addresses at which the scrub met errors, and
      whether each was uncorrectable. -/
  | scrubAbort (port : Port) (value : Word) (ecc : List (Nat × Bool))
  /-- A scrub completes and raises SCRUB_DONE (R403). `ecc` lists the DRAM addresses at which the scrub met errors,
      and whether each was uncorrectable. -/
  | scrubDone (ecc : List (Nat × Bool))
  -- Page header
  /-- PAGE_SEAL SEAL with the key seals the page's RWS fields (R415). -/
  | pageSeal (port : Port) (page : BitVec 12) (value : Word)
  /-- PAGE_SEAL ARM_UNSEAL arms an unseal for the same port (R415). -/
  | pageArmUnseal (port : Port) (page : BitVec 12) (value : Word)
  /-- PAGE_SEAL UNSEAL while armed unseals the page (R415). -/
  | pageUnseal (port : Port) (page : BitVec 12) (value : Word)
  /-- An armed unseal lapses 100 µs after arming (R415). -/
  | unsealArmExpiry (page : BitVec 12)
  /-- Writing PAGE_CTRL.LOCK 1 locks the page until device reset (R416). -/
  | pageLock (port : Port) (page : BitVec 12) (value : Word)
  /-- PAGE_CTRL.BLOCK_RESET returns an UPLINK or SEGMENT page and its state to reset values (R414). -/
  | blockReset (port : Port) (page : BitVec 12) (value : Word)
  /-- PAGE_ERRCNT.CLEAR zeroes the count and the last offset and port (R412). -/
  | errcntClear (port : Port) (page : BitVec 12) (value : Word)
  -- Errors, temperature and the Tally
  /-- An SRAM read error is corrected or handled by store, possibly setting ECC_FATAL (R419). `addr` is the word
      within the store, `hit` what met it. -/
  | sramEccError (store : Fin 8) (addr : BitVec 24) (uncorr : Bool) (hit : EccHit)
  /-- ECC_INJECT GO arms corruption of the next write to a store (R420). -/
  | eccInject (port : Port) (value : Word)
  /-- Every 100 µs the thermal monitor samples its sensors and raises warn, trip or clear (R421). The four sensors'
      temperatures, signed, in units of 0.25 °C. -/
  | thermalSample (t0 t1 t2 t3 : BitVec 12)
  /-- THERM_PEAK.CLEAR sets PEAK to the current MAX (R423). -/
  | thermPeakClear (port : Port) (value : Word)
  /-- An internal transfer unanswered for 100 µs sets SAFE_CAUSE.INTERNAL_BUS (R422). The access that timed out;
      `page` is 0xFFF for a memory transfer. -/
  | busTimeout (page offset : BitVec 12) (port : Port) (read : Bool)
  /-- Loss of CORE PLL lock while CORE is ON sets SAFE_CAUSE.CORE_PLL (R422). -/
  | corePllUnlock
  /-- A write of 1 to a TALLY.WORD bit clears the underlying event bit (R426). -/
  | tallyWordClear (port : Port) (w : Fin 32) (value : Word)
  /-- MIRROR_CMD FORCE writes the mirror at the next boundary (R427). -/
  | mirrorForce (port : Port) (value : Word)
  /-- At each mirror boundary the Tally snapshot is written with its SEQ, or skipped (R428). `busy` says that the
      last mirror write is still in progress; `err` names the write that meets a PCIe error. -/
  | tallyMirrorBoundary (busy : Bool) (err : Option (Fin 3))
  -- Configuration image
  /-- Pass 1 of the image check ends with the image loaded or an error (R464). `octets` are the octets of the flash
      from address 0 on. -/
  | imagePass1Done (octets : List Byte)
  /-- Pass 2 starts in ACQUIRE once CORE and SEG are ON and DRAM training ended (R465). `header` are the first 16
      octets of the flash as pass 2 reads them. -/
  | imagePass2Start (header : List Byte)
  /-- Each image record is applied as a write or a wait, ending pass 2 with DONE or ERROR (R465). The two words of
      the record as pass 2 reads them. -/
  | imageRecord (w0 w1 : Word)
  /-- A WAIT record's pause ends and loading resumes (R465). -/
  | imageWaitExpiry
  /-- IMAGE_CMD RETRY restarts pass 1 when STATE reads ERROR (R467). -/
  | imageRetry (port : Port) (value : Word)
  /-- IMAGE_CMD RELEASE accepts the applied records and clears HOLD (R466). -/
  | imageRelease (port : Port) (value : Word)
  -- Link, supplies and merge
  /-- The PCIe endpoint starts link training once the mode has left RESET and PERST_N is high (R446). -/
  | pcieLinkTraining
  /-- The device reset caused by the AON supply monitors ends once VDD_AON and VDDIO_AON have been within range for
      1 ms with PORST_N high, and the straps are latched again (R444). Both rails have been within range for
      `rangeNs`. -/
  | aonSupplyRecover (rangeNs : Nat) (straps : Straps) (tdcOk : Bool)
  /-- A write of MERGE_CFG.EN discards any frame under reassembly when it clears EN, and re-enables the verify
      process when EN goes from 0 back to 1 (R210). -/
  | mergeEnWrite (port : Port) (n : Fin 4) (value : Word)
  deriving DecidableEq, Repr

end Sys2Proof
end

