-- ==== Sys2Proof/Decode.lean ====
section
/-!
DEFINITION. Decode.lean: the commands that a word spells by the opcode table's bits. The table gives no bits for any row, so
no word spells a command.
-/
namespace Sys2Proof

/-- The command that the `nbits`-bit word `w` spells by the bits of the opcode table: none, since no row gives bits. -/
def decodeTableWord (_nbits _w : Nat) : Option Instr := none

end Sys2Proof
end

