-- ==== Sys2Proof/Config.lean ====
section
/-!
DEFINITION. Config.lean: what an implementation fixes and the spec gives no number for, and the free values.
Each is a constant with no body, so no proof can see a value of it.
Log entries: DESIGN CHOICE 3, 6 (notes/assumptions).
-/
namespace Sys2Proof

/-- A free value: the `k`-th value the spec leaves open during a run (assumption log, entry 3). -/
opaque Config.freeValue (k : Nat) : Nat

/-- The fused value of a register field, by the key of its cell (access code table of chapter 00: "fuse"). -/
opaque Config.fuse (key : Nat) : Nat

end Sys2Proof
end

