-- ==== Sys2Proof/Machine/Regs.lean ====
section
/-!
DEFINITION. Machine/Regs.lean: the register fields of every page of the register map, one constant per field,
written from the field tables of the spec's chapters 02 to 12 and 14. A field is a row: its page class, the byte
offset of its register, its bits, its access code (R17 to R20) and its reset value.
Log entries: DESIGN CHOICE 6 (notes/assumptions).
-/
namespace Sys2Proof.Machine

/-- The kinds of register page (Table 12.3). -/
inductive PageCls where
  | global | power | whorl | tally | uplink | carder | rulewin | bankwin | reel | reelgate | ply | hostq
  | distaff | hank | dram | segment | flyer
  deriving DecidableEq, Repr

/-- The access codes of a field (R17 to R20). -/
inductive Acc where
  | rw | ro | w1c | wo | rws
  deriving DecidableEq, Repr

/-- The reset value of a field: a constant, a fused value (the spec gives no number), or one value per array index. -/
inductive Rst where
  | const (n : Nat)
  | fuse
  | byIndex (l : List Nat)
  deriving DecidableEq, Repr

/-- Which selector register of the page picks the copy of the field that an access reaches
(R371: SQ_SEL, CR_SEL and LEDGER_SEL of the HOSTQ page; R402: WT_SEL of the HANK page). -/
inductive Sel where
  | none | sq | cr | tag | worker
  deriving DecidableEq, Repr

/-- One field of one register of a page class. `stride` and `count` describe an array of like registers. -/
structure FieldRow where
  cls : PageCls
  off : Nat
  hi : Nat
  lo : Nat
  acc : Acc
  rst : Rst := .const 0
  stride : Nat := 4
  count : Nat := 1
  sel : Sel := .none
  deriving DecidableEq, Repr

/-! ### The GLOBAL page (Tables 02.10, 02.11, 12.8, 12.9 and 14.4) -/

namespace GLOBAL

def STEPPING_LETTER : FieldRow := { cls := .global, off := 0x040, hi := 7, lo := 4, acc := .ro, rst := .const 11 }
def STEPPING_DIGIT : FieldRow := { cls := .global, off := 0x040, hi := 3, lo := 0, acc := .ro }
def MODE_MODE : FieldRow := { cls := .global, off := 0x044, hi := 2, lo := 0, acc := .ro, rst := .const 1 }
def MODE_PREV_MODE : FieldRow := { cls := .global, off := 0x044, hi := 6, lo := 4, acc := .ro }
def MODE_RUN_ARMED : FieldRow := { cls := .global, off := 0x044, hi := 8, lo := 8, acc := .ro }
def MODE_TIME_READY : FieldRow := { cls := .global, off := 0x044, hi := 9, lo := 9, acc := .ro }
def MODE_DOMAINS_READY : FieldRow := { cls := .global, off := 0x044, hi := 10, lo := 10, acc := .ro }
def MODE_CMD_CMD : FieldRow := { cls := .global, off := 0x048, hi := 3, lo := 0, acc := .wo }
def MODE_CMD_KEY : FieldRow := { cls := .global, off := 0x048, hi := 31, lo := 16, acc := .wo }
def MODE_CFG_SEG_STANDBY : FieldRow := { cls := .global, off := 0x04C, hi := 0, lo := 0, acc := .rw }
def MODE_CFG_HOLDOVER_TO_SAFE : FieldRow := { cls := .global, off := 0x04C, hi := 1, lo := 1, acc := .rw }
def MODE_CFG_AUTO_RUN : FieldRow := { cls := .global, off := 0x04C, hi := 2, lo := 2, acc := .rw }
def MODE_CFG_LIGHT_SLEEP_EN : FieldRow := { cls := .global, off := 0x04C, hi := 3, lo := 3, acc := .rw, rst := .const 1 }
def MODE_CFG_AUTO_EXIT_SAFE : FieldRow := { cls := .global, off := 0x04C, hi := 4, lo := 4, acc := .rw }
def MODE_CFG_SAFE_RETRY_S : FieldRow := { cls := .global, off := 0x04C, hi := 15, lo := 8, acc := .rw, rst := .const 60 }
def SAFE_CAUSE_HOST_CMD : FieldRow := { cls := .global, off := 0x050, hi := 0, lo := 0, acc := .w1c }
def SAFE_CAUSE_WATCHDOG : FieldRow := { cls := .global, off := 0x050, hi := 1, lo := 1, acc := .w1c }
def SAFE_CAUSE_ECC_FATAL : FieldRow := { cls := .global, off := 0x050, hi := 2, lo := 2, acc := .w1c }
def SAFE_CAUSE_THERMAL : FieldRow := { cls := .global, off := 0x050, hi := 3, lo := 3, acc := .w1c }
def SAFE_CAUSE_CORE_PLL : FieldRow := { cls := .global, off := 0x050, hi := 4, lo := 4, acc := .w1c }
def SAFE_CAUSE_INTERNAL_BUS : FieldRow := { cls := .global, off := 0x050, hi := 5, lo := 5, acc := .w1c }
def SAFE_CAUSE_HOLDOVER_LIMIT : FieldRow := { cls := .global, off := 0x050, hi := 6, lo := 6, acc := .w1c }
def ROLE_ROLE : FieldRow := { cls := .global, off := 0x054, hi := 1, lo := 0, acc := .ro }
def ROLE_STRAP_ROLE : FieldRow := { cls := .global, off := 0x054, hi := 5, lo := 4, acc := .ro }
def ROLE_SETTLED : FieldRow := { cls := .global, off := 0x054, hi := 8, lo := 8, acc := .ro, rst := .const 1 }
def ROLE_DRAM_READY : FieldRow := { cls := .global, off := 0x054, hi := 9, lo := 9, acc := .ro }
def ROLE_EPOCH : FieldRow := { cls := .global, off := 0x054, hi := 31, lo := 16, acc := .ro }
def ROLE_CMD_NEW_ROLE : FieldRow := { cls := .global, off := 0x058, hi := 1, lo := 0, acc := .wo }
def ROLE_CMD_EXPECT_EPOCH : FieldRow := { cls := .global, off := 0x058, hi := 31, lo := 16, acc := .wo }
def STRAPS_ROLE : FieldRow := { cls := .global, off := 0x05C, hi := 1, lo := 0, acc := .ro }
def STRAPS_BOOT_SRC : FieldRow := { cls := .global, off := 0x05C, hi := 2, lo := 2, acc := .ro }
def STRAPS_HEADLESS : FieldRow := { cls := .global, off := 0x05C, hi := 3, lo := 3, acc := .ro }
def STRAPS_SPI_ADDR : FieldRow := { cls := .global, off := 0x05C, hi := 6, lo := 4, acc := .ro }
def WDOG_CFG_PERIOD : FieldRow := { cls := .global, off := 0x060, hi := 23, lo := 0, acc := .rw, rst := .const 1000000 }
def WDOG_CFG_LOCK : FieldRow := { cls := .global, off := 0x060, hi := 30, lo := 30, acc := .rw }
def WDOG_CFG_EN : FieldRow := { cls := .global, off := 0x060, hi := 31, lo := 31, acc := .rw }
def WDOG_KICK_KEY : FieldRow := { cls := .global, off := 0x064, hi := 31, lo := 0, acc := .wo }
def WDOG_REMAIN_COUNT : FieldRow := { cls := .global, off := 0x068, hi := 23, lo := 0, acc := .ro, rst := .const 1000000 }
def ACQUIRE_TIMEOUT_LIMIT : FieldRow := { cls := .global, off := 0x06C, hi := 23, lo := 0, acc := .rw, rst := .const 10000000 }
def BUFFER_DISCARDS_COUNT : FieldRow := { cls := .global, off := 0x070, hi := 31, lo := 0, acc := .ro }
def SAFE_DROPPED_CMDS_COUNT : FieldRow := { cls := .global, off := 0x074, hi := 31, lo := 0, acc := .ro }
def OFF_DOMAIN_CNT_COUNT : FieldRow := { cls := .global, off := 0x078, hi := 31, lo := 0, acc := .ro }
def ECC_CFG_FATAL_MASK : FieldRow := { cls := .global, off := 0x080, hi := 7, lo := 0, acc := .rw, rst := .const 96 }
def ECC_INJECT_STORE : FieldRow := { cls := .global, off := 0x084, hi := 2, lo := 0, acc := .wo }
def ECC_INJECT_DOUBLE : FieldRow := { cls := .global, off := 0x084, hi := 4, lo := 4, acc := .wo }
def ECC_INJECT_GO : FieldRow := { cls := .global, off := 0x084, hi := 31, lo := 31, acc := .wo }
def ECC_LAST_STORE : FieldRow := { cls := .global, off := 0x088, hi := 2, lo := 0, acc := .ro }
def ECC_LAST_UNCORR : FieldRow := { cls := .global, off := 0x088, hi := 3, lo := 3, acc := .ro }
def ECC_LAST_ADDR : FieldRow := { cls := .global, off := 0x088, hi := 31, lo := 8, acc := .ro }
def ECC_CORR_COUNT : FieldRow := { cls := .global, off := 0x090, hi := 31, lo := 0, acc := .ro, stride := 4, count := 8 }
def ECC_UNCORR_COUNT : FieldRow := { cls := .global, off := 0x0B0, hi := 31, lo := 0, acc := .ro, stride := 4, count := 8 }
def THERM_TEMP_MAX : FieldRow := { cls := .global, off := 0x0D0, hi := 11, lo := 0, acc := .ro }
def THERM_TEMP_SENSOR : FieldRow := { cls := .global, off := 0x0D0, hi := 13, lo := 12, acc := .ro }
def THERM_CFG_WARN : FieldRow := { cls := .global, off := 0x0D4, hi := 11, lo := 0, acc := .rw, rst := .const 400 }
def THERM_CFG_TRIP : FieldRow := { cls := .global, off := 0x0D4, hi := 27, lo := 16, acc := .rw, rst := .const 460 }
def THERM_CFG_HYST : FieldRow := { cls := .global, off := 0x0D4, hi := 31, lo := 28, acc := .rw, rst := .const 5 }
def THERM_PEAK_MAX : FieldRow := { cls := .global, off := 0x0D8, hi := 11, lo := 0, acc := .ro }
def THERM_PEAK_CLEAR : FieldRow := { cls := .global, off := 0x0D8, hi := 31, lo := 31, acc := .wo }
def BUS_ERR_PAGE : FieldRow := { cls := .global, off := 0x0DC, hi := 11, lo := 0, acc := .ro }
def BUS_ERR_OFFSET : FieldRow := { cls := .global, off := 0x0DC, hi := 23, lo := 12, acc := .ro }
def BUS_ERR_PORT : FieldRow := { cls := .global, off := 0x0DC, hi := 25, lo := 24, acc := .ro }
def BUS_ERR_VALID : FieldRow := { cls := .global, off := 0x0DC, hi := 31, lo := 31, acc := .w1c }
def SPI_ERRORS_COUNT : FieldRow := { cls := .global, off := 0x0E0, hi := 31, lo := 0, acc := .ro }
def IMAGE_STATUS_STATE : FieldRow := { cls := .global, off := 0x0E4, hi := 2, lo := 0, acc := .ro }
def IMAGE_STATUS_CAUSE : FieldRow := { cls := .global, off := 0x0E4, hi := 7, lo := 4, acc := .ro }
def IMAGE_STATUS_HOLD : FieldRow := { cls := .global, off := 0x0E4, hi := 8, lo := 8, acc := .ro }
def IMAGE_STATUS_RECORDS : FieldRow := { cls := .global, off := 0x0E4, hi := 31, lo := 16, acc := .ro }
def IMAGE_CMD_RETRY : FieldRow := { cls := .global, off := 0x0E8, hi := 0, lo := 0, acc := .wo }
def IMAGE_CMD_RELEASE : FieldRow := { cls := .global, off := 0x0E8, hi := 1, lo := 1, acc := .wo }
def IMAGE_CMD_KEY : FieldRow := { cls := .global, off := 0x0E8, hi := 31, lo := 16, acc := .wo }

def rows0 : List FieldRow :=
  [STEPPING_LETTER, STEPPING_DIGIT, MODE_MODE, MODE_PREV_MODE,
   MODE_RUN_ARMED, MODE_TIME_READY, MODE_DOMAINS_READY, MODE_CMD_CMD,
   MODE_CMD_KEY, MODE_CFG_SEG_STANDBY, MODE_CFG_HOLDOVER_TO_SAFE, MODE_CFG_AUTO_RUN,
   MODE_CFG_LIGHT_SLEEP_EN, MODE_CFG_AUTO_EXIT_SAFE, MODE_CFG_SAFE_RETRY_S, SAFE_CAUSE_HOST_CMD,
   SAFE_CAUSE_WATCHDOG, SAFE_CAUSE_ECC_FATAL, SAFE_CAUSE_THERMAL, SAFE_CAUSE_CORE_PLL,
   SAFE_CAUSE_INTERNAL_BUS, SAFE_CAUSE_HOLDOVER_LIMIT, ROLE_ROLE, ROLE_STRAP_ROLE,
   ROLE_SETTLED, ROLE_DRAM_READY, ROLE_EPOCH, ROLE_CMD_NEW_ROLE,
   ROLE_CMD_EXPECT_EPOCH, STRAPS_ROLE]
def rows1 : List FieldRow :=
  [STRAPS_BOOT_SRC, STRAPS_HEADLESS, STRAPS_SPI_ADDR, WDOG_CFG_PERIOD,
   WDOG_CFG_LOCK, WDOG_CFG_EN, WDOG_KICK_KEY, WDOG_REMAIN_COUNT,
   ACQUIRE_TIMEOUT_LIMIT, BUFFER_DISCARDS_COUNT, SAFE_DROPPED_CMDS_COUNT, OFF_DOMAIN_CNT_COUNT,
   ECC_CFG_FATAL_MASK, ECC_INJECT_STORE, ECC_INJECT_DOUBLE, ECC_INJECT_GO,
   ECC_LAST_STORE, ECC_LAST_UNCORR, ECC_LAST_ADDR, ECC_CORR_COUNT,
   ECC_UNCORR_COUNT, THERM_TEMP_MAX, THERM_TEMP_SENSOR, THERM_CFG_WARN,
   THERM_CFG_TRIP, THERM_CFG_HYST, THERM_PEAK_MAX, THERM_PEAK_CLEAR,
   BUS_ERR_PAGE, BUS_ERR_OFFSET]
def rows2 : List FieldRow :=
  [BUS_ERR_PORT, BUS_ERR_VALID, SPI_ERRORS_COUNT, IMAGE_STATUS_STATE,
   IMAGE_STATUS_CAUSE, IMAGE_STATUS_HOLD, IMAGE_STATUS_RECORDS, IMAGE_CMD_RETRY,
   IMAGE_CMD_RELEASE, IMAGE_CMD_KEY]
/-- The fields of the GLOBAL page, in the order of the spec's tables. -/
def rows : List FieldRow := rows0 ++ rows1 ++ rows2

end GLOBAL

/-! ### The POWER page (Tables 02.12 and 02.13) -/

namespace POWER

def DOMAIN_STATE_AON : FieldRow := { cls := .power, off := 0x040, hi := 2, lo := 0, acc := .ro, rst := .const 3 }
def DOMAIN_STATE_SEG : FieldRow := { cls := .power, off := 0x040, hi := 6, lo := 4, acc := .ro }
def DOMAIN_STATE_CORE : FieldRow := { cls := .power, off := 0x040, hi := 10, lo := 8, acc := .ro, rst := .const 1 }
def DOMAIN_STATE_UPL : FieldRow := { cls := .power, off := 0x040, hi := 14, lo := 12, acc := .ro }
def DOMAIN_STATE_HOST : FieldRow := { cls := .power, off := 0x040, hi := 18, lo := 16, acc := .ro, rst := .const 4 }
def DOMAIN_STATE_MEM : FieldRow := { cls := .power, off := 0x040, hi := 22, lo := 20, acc := .ro, rst := .const 1 }
def CEILING_TOKENS : FieldRow := { cls := .power, off := 0x044, hi := 7, lo := 0, acc := .rw, rst := .const 192 }
def BASE_TOKENS : FieldRow := { cls := .power, off := 0x048, hi := 7, lo := 0, acc := .rw, rst := .const 62 }
def COMMITTED_TOKENS : FieldRow := { cls := .power, off := 0x04C, hi := 8, lo := 0, acc := .ro, rst := .const 62 }
def COMMITTED_WAITING : FieldRow := { cls := .power, off := 0x04C, hi := 23, lo := 16, acc := .ro }
def RESERVE_FANOUT_RESERVE : FieldRow := { cls := .power, off := 0x050, hi := 7, lo := 0, acc := .rw }
def RESERVE_RESERVE_USED : FieldRow := { cls := .power, off := 0x050, hi := 15, lo := 8, acc := .ro }
def ESTIMATE_AVG_MW : FieldRow := { cls := .power, off := 0x054, hi := 15, lo := 0, acc := .ro }
def ESTIMATE_LIMIT_MW : FieldRow := { cls := .power, off := 0x054, hi := 31, lo := 16, acc := .ro, rst := .const 32256 }
def THROTTLE_CNT_COUNT : FieldRow := { cls := .power, off := 0x058, hi := 31, lo := 0, acc := .ro }
def LEAVE_GRANTS_COUNT : FieldRow := { cls := .power, off := 0x05C, hi := 31, lo := 0, acc := .ro }
def COST_TOKENS : FieldRow := { cls := .power, off := 0x060, hi := 7, lo := 0, acc := .rw, rst := .byIndex [104, 3, 4, 6, 16, 8], stride := 4, count := 6 }
def COST_PRIO : FieldRow := { cls := .power, off := 0x060, hi := 9, lo := 8, acc := .rw, rst := .byIndex [0, 1, 3, 2, 3, 1], stride := 4, count := 6 }
def COST_STANDING : FieldRow := { cls := .power, off := 0x060, hi := 12, lo := 12, acc := .ro, rst := .byIndex [1, 1, 0, 0, 0, 0], stride := 4, count := 6 }
def LEAVE_WARN_LIMIT : FieldRow := { cls := .power, off := 0x078, hi := 15, lo := 0, acc := .rw, rst := .const 1000 }
def LIGHT_IDLE_NS : FieldRow := { cls := .power, off := 0x07C, hi := 11, lo := 0, acc := .rw, rst := .const 256 }
def WAIT_HEAD_INDEX : FieldRow := { cls := .power, off := 0x080, hi := 2, lo := 0, acc := .ro }
def WAIT_HEAD_PRIO : FieldRow := { cls := .power, off := 0x080, hi := 5, lo := 4, acc := .ro }
def WAIT_HEAD_VALID : FieldRow := { cls := .power, off := 0x080, hi := 8, lo := 8, acc := .ro }
def WAIT_HEAD_WAITED : FieldRow := { cls := .power, off := 0x080, hi := 31, lo := 16, acc := .ro }

def rows0 : List FieldRow :=
  [DOMAIN_STATE_AON, DOMAIN_STATE_SEG, DOMAIN_STATE_CORE, DOMAIN_STATE_UPL,
   DOMAIN_STATE_HOST, DOMAIN_STATE_MEM, CEILING_TOKENS, BASE_TOKENS,
   COMMITTED_TOKENS, COMMITTED_WAITING, RESERVE_FANOUT_RESERVE, RESERVE_RESERVE_USED,
   ESTIMATE_AVG_MW, ESTIMATE_LIMIT_MW, THROTTLE_CNT_COUNT, LEAVE_GRANTS_COUNT,
   COST_TOKENS, COST_PRIO, COST_STANDING, LEAVE_WARN_LIMIT,
   LIGHT_IDLE_NS, WAIT_HEAD_INDEX, WAIT_HEAD_PRIO, WAIT_HEAD_VALID,
   WAIT_HEAD_WAITED]
/-- The fields of the POWER page, in the order of the spec's tables. -/
def rows : List FieldRow := rows0

end POWER

/-! ### The WHORL page (Tables 03.11 to 03.13) -/

namespace WHORL

def INC_LO_FRAC : FieldRow := { cls := .whorl, off := 0x040, hi := 31, lo := 0, acc := .rw }
def INC_HI_NS : FieldRow := { cls := .whorl, off := 0x044, hi := 7, lo := 0, acc := .rw, rst := .const 40 }
def FREQ_ADJ : FieldRow := { cls := .whorl, off := 0x048, hi := 31, lo := 0, acc := .rw }
def INC_EFF_LO_FRAC : FieldRow := { cls := .whorl, off := 0x04C, hi := 31, lo := 0, acc := .ro }
def INC_EFF_HI_NS : FieldRow := { cls := .whorl, off := 0x050, hi := 7, lo := 0, acc := .ro, rst := .const 40 }
def SNAP_CMD_GO : FieldRow := { cls := .whorl, off := 0x054, hi := 0, lo := 0, acc := .wo }
def SNAP_MONO_SEC_LO_SEC : FieldRow := { cls := .whorl, off := 0x058, hi := 31, lo := 0, acc := .ro }
def SNAP_MONO_SEC_HI_SEC : FieldRow := { cls := .whorl, off := 0x05C, hi := 15, lo := 0, acc := .ro }
def SNAP_MONO_NS_NS : FieldRow := { cls := .whorl, off := 0x060, hi := 31, lo := 0, acc := .ro }
def SNAP_NET_SEC_LO_SEC : FieldRow := { cls := .whorl, off := 0x064, hi := 31, lo := 0, acc := .ro }
def SNAP_NET_SEC_HI_SEC : FieldRow := { cls := .whorl, off := 0x068, hi := 15, lo := 0, acc := .ro }
def SNAP_NET_NS_NS : FieldRow := { cls := .whorl, off := 0x06C, hi := 31, lo := 0, acc := .ro }
def SNAP_SUB_MONO_SUB : FieldRow := { cls := .whorl, off := 0x070, hi := 5, lo := 0, acc := .ro }
def SNAP_SUB_NET_SUB : FieldRow := { cls := .whorl, off := 0x070, hi := 13, lo := 8, acc := .ro }
def SNAP_SUB_DONE : FieldRow := { cls := .whorl, off := 0x070, hi := 31, lo := 31, acc := .ro }
def OFFSET_LO_NS : FieldRow := { cls := .whorl, off := 0x074, hi := 31, lo := 0, acc := .ro }
def OFFSET_HI_NS : FieldRow := { cls := .whorl, off := 0x078, hi := 31, lo := 0, acc := .ro }
def OFFSET_FRAC_FRAC : FieldRow := { cls := .whorl, off := 0x07C, hi := 31, lo := 0, acc := .ro }
def ADJ_LO_NS : FieldRow := { cls := .whorl, off := 0x080, hi := 31, lo := 0, acc := .rw }
def ADJ_HI_NS : FieldRow := { cls := .whorl, off := 0x084, hi := 31, lo := 0, acc := .rw }
def ADJ_CMD_GO : FieldRow := { cls := .whorl, off := 0x088, hi := 0, lo := 0, acc := .wo }
def ADJ_CMD_ABS : FieldRow := { cls := .whorl, off := 0x088, hi := 1, lo := 1, acc := .wo }
def STEP_CFG_POLICY : FieldRow := { cls := .whorl, off := 0x08C, hi := 0, lo := 0, acc := .rw }
def STEP_CFG_SLEW_PPM : FieldRow := { cls := .whorl, off := 0x08C, hi := 12, lo := 4, acc := .rw, rst := .const 500 }
def STEP_BOUNDARY_PERIOD_NS : FieldRow := { cls := .whorl, off := 0x090, hi := 31, lo := 0, acc := .rw, rst := .const 1000000000 }
def STEP_STATUS_STATE : FieldRow := { cls := .whorl, off := 0x094, hi := 1, lo := 0, acc := .ro }
def STEP_STATUS_BACKWARD : FieldRow := { cls := .whorl, off := 0x094, hi := 4, lo := 4, acc := .ro }
def STEP_STATUS_ORIGIN : FieldRow := { cls := .whorl, off := 0x094, hi := 5, lo := 5, acc := .ro }
def STEP_REMAIN_LO_NS : FieldRow := { cls := .whorl, off := 0x098, hi := 31, lo := 0, acc := .ro }
def STEP_REMAIN_HI_NS : FieldRow := { cls := .whorl, off := 0x09C, hi := 31, lo := 0, acc := .ro }
def FIRED_UPTO_LO_NS : FieldRow := { cls := .whorl, off := 0x0A0, hi := 31, lo := 0, acc := .ro }
def FIRED_UPTO_HI_NS : FieldRow := { cls := .whorl, off := 0x0A4, hi := 31, lo := 0, acc := .ro }
def HOLD_REMAIN_NS : FieldRow := { cls := .whorl, off := 0x0A8, hi := 31, lo := 0, acc := .ro }
def LATE_EVENTS_COUNT : FieldRow := { cls := .whorl, off := 0x0AC, hi := 31, lo := 0, acc := .ro }
def SERVO_CFG_SOURCE : FieldRow := { cls := .whorl, off := 0x0C0, hi := 1, lo := 0, acc := .rw }
def SERVO_CFG_PTP_PORT : FieldRow := { cls := .whorl, off := 0x0C0, hi := 5, lo := 4, acc := .rw }
def SERVO_CFG_KP_SHIFT : FieldRow := { cls := .whorl, off := 0x0C0, hi := 11, lo := 8, acc := .rw, rst := .const 1 }
def SERVO_CFG_KI_SHIFT : FieldRow := { cls := .whorl, off := 0x0C0, hi := 15, lo := 12, acc := .rw, rst := .const 4 }
def SERVO_CFG_LOG_SYNC : FieldRow := { cls := .whorl, off := 0x0C0, hi := 23, lo := 16, acc := .rw, rst := .const 253 }
def SERVO_CFG_LOSS_COUNT : FieldRow := { cls := .whorl, off := 0x0C0, hi := 27, lo := 24, acc := .rw, rst := .const 4 }
def SERVO_CFG_HOST_LOCK : FieldRow := { cls := .whorl, off := 0x0C0, hi := 28, lo := 28, acc := .rw }
def LOCK_CFG_LOCK_THRESH_NS : FieldRow := { cls := .whorl, off := 0x0C4, hi := 15, lo := 0, acc := .rw, rst := .const 50 }
def LOCK_CFG_LOCK_COUNT : FieldRow := { cls := .whorl, off := 0x0C4, hi := 23, lo := 16, acc := .rw, rst := .const 8 }
def LOCK_CFG_OUTLIER_MAX : FieldRow := { cls := .whorl, off := 0x0C4, hi := 31, lo := 24, acc := .rw, rst := .const 8 }
def STEP_THRESH_NS : FieldRow := { cls := .whorl, off := 0x0C8, hi := 31, lo := 0, acc := .rw, rst := .const 1000 }
def OUTLIER_NS_NS : FieldRow := { cls := .whorl, off := 0x0CC, hi := 31, lo := 0, acc := .rw, rst := .const 500 }
def LOCK_STATE_STATE : FieldRow := { cls := .whorl, off := 0x0D0, hi := 2, lo := 0, acc := .ro, rst := .const 4 }
def LOCK_STATE_LOSS_CAUSE : FieldRow := { cls := .whorl, off := 0x0D0, hi := 6, lo := 4, acc := .ro }
def LOCK_STATE_OUTLIER_RUN : FieldRow := { cls := .whorl, off := 0x0D0, hi := 15, lo := 8, acc := .ro }
def LOCK_STATE_GOOD_RUN : FieldRow := { cls := .whorl, off := 0x0D0, hi := 23, lo := 16, acc := .ro }
def LAST_OFFSET_LO_VAL : FieldRow := { cls := .whorl, off := 0x0D4, hi := 31, lo := 0, acc := .ro }
def LAST_OFFSET_HI_VAL : FieldRow := { cls := .whorl, off := 0x0D8, hi := 31, lo := 0, acc := .ro }
def MEAS_CNT_COUNT : FieldRow := { cls := .whorl, off := 0x0DC, hi := 31, lo := 0, acc := .ro }
def OUTLIER_CNT_COUNT : FieldRow := { cls := .whorl, off := 0x0E0, hi := 31, lo := 0, acc := .ro }
def PARENT_ID_0_ID : FieldRow := { cls := .whorl, off := 0x0F0, hi := 31, lo := 0, acc := .rw }
def PARENT_ID_1_ID : FieldRow := { cls := .whorl, off := 0x0F4, hi := 31, lo := 0, acc := .rw }
def PARENT_ID_2_PORT : FieldRow := { cls := .whorl, off := 0x0F8, hi := 15, lo := 0, acc := .rw }
def PARENT_ID_2_DOMAIN : FieldRow := { cls := .whorl, off := 0x0F8, hi := 23, lo := 16, acc := .rw }
def PARENT_ID_2_MATCH_EN : FieldRow := { cls := .whorl, off := 0x0F8, hi := 31, lo := 31, acc := .rw }
def LINK_DELAY_DELAY : FieldRow := { cls := .whorl, off := 0x100, hi := 31, lo := 0, acc := .rw, stride := 8, count := 4 }
def LINK_ASYM_ASYM : FieldRow := { cls := .whorl, off := 0x104, hi := 31, lo := 0, acc := .rw, stride := 8, count := 4 }
def CAL_TX_DELAY : FieldRow := { cls := .whorl, off := 0x140, hi := 31, lo := 0, acc := .ro, rst := .fuse, stride := 16, count := 4 }
def CAL_RX_DELAY : FieldRow := { cls := .whorl, off := 0x144, hi := 31, lo := 0, acc := .ro, rst := .fuse, stride := 16, count := 4 }
def BOARD_TX_DELAY : FieldRow := { cls := .whorl, off := 0x148, hi := 31, lo := 0, acc := .rw, stride := 16, count := 4 }
def BOARD_RX_DELAY : FieldRow := { cls := .whorl, off := 0x14C, hi := 31, lo := 0, acc := .rw, stride := 16, count := 4 }
def CAL_STATUS_DONE : FieldRow := { cls := .whorl, off := 0x180, hi := 3, lo := 0, acc := .ro }
def CAL_STATUS_DEFAULT : FieldRow := { cls := .whorl, off := 0x180, hi := 7, lo := 4, acc := .ro }
def PPS_CFG_OUT_EN : FieldRow := { cls := .whorl, off := 0x1A0, hi := 0, lo := 0, acc := .rw }
def PPS_CFG_OUT_POL : FieldRow := { cls := .whorl, off := 0x1A0, hi := 1, lo := 1, acc := .rw }
def PPS_CFG_IN_EN : FieldRow := { cls := .whorl, off := 0x1A0, hi := 2, lo := 2, acc := .rw }
def PPS_CFG_IN_POL : FieldRow := { cls := .whorl, off := 0x1A0, hi := 3, lo := 3, acc := .rw }
def PPS_CFG_OUT_WIDTH_NS : FieldRow := { cls := .whorl, off := 0x1A0, hi := 31, lo := 8, acc := .rw, rst := .const 100000 }
def PPS_OUT_OFFSET_NS : FieldRow := { cls := .whorl, off := 0x1A4, hi := 31, lo := 0, acc := .rw }
def PPS_IN_SEC_LO_SEC : FieldRow := { cls := .whorl, off := 0x1A8, hi := 31, lo := 0, acc := .ro }
def PPS_IN_SEC_HI_SEC : FieldRow := { cls := .whorl, off := 0x1AC, hi := 15, lo := 0, acc := .ro }
def PPS_IN_NS_NS : FieldRow := { cls := .whorl, off := 0x1B0, hi := 31, lo := 0, acc := .ro }
def PPS_IN_SUB_SUBNS : FieldRow := { cls := .whorl, off := 0x1B4, hi := 5, lo := 0, acc := .ro }
def PPS_IN_SUB_NEW : FieldRow := { cls := .whorl, off := 0x1B4, hi := 31, lo := 31, acc := .w1c }
def PPS_IN_CNT_ACCEPTED : FieldRow := { cls := .whorl, off := 0x1B8, hi := 15, lo := 0, acc := .ro }
def PPS_IN_CNT_IGNORED : FieldRow := { cls := .whorl, off := 0x1B8, hi := 31, lo := 16, acc := .ro }
def PPS_IN_DELAY_DELAY : FieldRow := { cls := .whorl, off := 0x1BC, hi := 31, lo := 0, acc := .rw }
def TDC_CFG_CAL_EN : FieldRow := { cls := .whorl, off := 0x1C0, hi := 0, lo := 0, acc := .rw, rst := .const 1 }
def TDC_CFG_CAL_PERIOD_MS : FieldRow := { cls := .whorl, off := 0x1C0, hi := 15, lo := 8, acc := .rw, rst := .const 100 }
def TDC_STATUS_CAL_OK : FieldRow := { cls := .whorl, off := 0x1C4, hi := 0, lo := 0, acc := .ro }
def TDC_STATUS_FAILS : FieldRow := { cls := .whorl, off := 0x1C4, hi := 31, lo := 16, acc := .ro }
def REFCLK_STATUS_FAULT : FieldRow := { cls := .whorl, off := 0x1C8, hi := 0, lo := 0, acc := .ro }
def REFCLK_STATUS_ON_INTERNAL : FieldRow := { cls := .whorl, off := 0x1C8, hi := 1, lo := 1, acc := .ro }
def HO_FREQ_PS_PER_S : FieldRow := { cls := .whorl, off := 0x1E0, hi := 31, lo := 0, acc := .rw, rst := .const 10000 }
def HO_AGING_FS_PER_S2 : FieldRow := { cls := .whorl, off := 0x1E4, hi := 15, lo := 0, acc := .rw }
def HO_LIMIT_NS : FieldRow := { cls := .whorl, off := 0x1E8, hi := 31, lo := 0, acc := .rw, rst := .const 1000 }
def HO_ERROR_NS : FieldRow := { cls := .whorl, off := 0x1EC, hi := 31, lo := 0, acc := .ro }
def HO_ELAPSED_S : FieldRow := { cls := .whorl, off := 0x1F0, hi := 31, lo := 0, acc := .ro }
def MARK_CTRL_MODE : FieldRow := { cls := .whorl, off := 0x200, hi := 1, lo := 0, acc := .rw, stride := 32, count := 8 }
def MARK_CTRL_POL : FieldRow := { cls := .whorl, off := 0x200, hi := 2, lo := 2, acc := .rw, stride := 32, count := 8 }
def MARK_CTRL_ACTIVE : FieldRow := { cls := .whorl, off := 0x200, hi := 3, lo := 3, acc := .ro, stride := 32, count := 8 }
def MARK_CTRL_SEG : FieldRow := { cls := .whorl, off := 0x200, hi := 14, lo := 8, acc := .rw, stride := 32, count := 8 }
def MARK_START_SEC_LO_SEC : FieldRow := { cls := .whorl, off := 0x204, hi := 31, lo := 0, acc := .rw, stride := 32, count := 8 }
def MARK_START_SEC_HI_SEC : FieldRow := { cls := .whorl, off := 0x208, hi := 15, lo := 0, acc := .rw, stride := 32, count := 8 }
def MARK_START_NS_NS : FieldRow := { cls := .whorl, off := 0x20C, hi := 31, lo := 0, acc := .rw, stride := 32, count := 8 }
def MARK_PERIOD_NS_NS : FieldRow := { cls := .whorl, off := 0x210, hi := 31, lo := 0, acc := .rw, rst := .const 10000000, stride := 32, count := 8 }
def MARK_WIDTH_NS_NS : FieldRow := { cls := .whorl, off := 0x214, hi := 23, lo := 0, acc := .rw, rst := .const 1000, stride := 32, count := 8 }
def MARK_MISSED_COUNT : FieldRow := { cls := .whorl, off := 0x218, hi := 31, lo := 0, acc := .ro, stride := 32, count := 8 }
def MARK_SEG_OFFSET_NS : FieldRow := { cls := .whorl, off := 0x21C, hi := 31, lo := 0, acc := .rw, stride := 32, count := 8 }

def rows0 : List FieldRow :=
  [INC_LO_FRAC, INC_HI_NS, FREQ_ADJ, INC_EFF_LO_FRAC,
   INC_EFF_HI_NS, SNAP_CMD_GO, SNAP_MONO_SEC_LO_SEC, SNAP_MONO_SEC_HI_SEC,
   SNAP_MONO_NS_NS, SNAP_NET_SEC_LO_SEC, SNAP_NET_SEC_HI_SEC, SNAP_NET_NS_NS,
   SNAP_SUB_MONO_SUB, SNAP_SUB_NET_SUB, SNAP_SUB_DONE, OFFSET_LO_NS,
   OFFSET_HI_NS, OFFSET_FRAC_FRAC, ADJ_LO_NS, ADJ_HI_NS,
   ADJ_CMD_GO, ADJ_CMD_ABS, STEP_CFG_POLICY, STEP_CFG_SLEW_PPM,
   STEP_BOUNDARY_PERIOD_NS, STEP_STATUS_STATE, STEP_STATUS_BACKWARD, STEP_STATUS_ORIGIN,
   STEP_REMAIN_LO_NS, STEP_REMAIN_HI_NS]
def rows1 : List FieldRow :=
  [FIRED_UPTO_LO_NS, FIRED_UPTO_HI_NS, HOLD_REMAIN_NS, LATE_EVENTS_COUNT,
   SERVO_CFG_SOURCE, SERVO_CFG_PTP_PORT, SERVO_CFG_KP_SHIFT, SERVO_CFG_KI_SHIFT,
   SERVO_CFG_LOG_SYNC, SERVO_CFG_LOSS_COUNT, SERVO_CFG_HOST_LOCK, LOCK_CFG_LOCK_THRESH_NS,
   LOCK_CFG_LOCK_COUNT, LOCK_CFG_OUTLIER_MAX, STEP_THRESH_NS, OUTLIER_NS_NS,
   LOCK_STATE_STATE, LOCK_STATE_LOSS_CAUSE, LOCK_STATE_OUTLIER_RUN, LOCK_STATE_GOOD_RUN,
   LAST_OFFSET_LO_VAL, LAST_OFFSET_HI_VAL, MEAS_CNT_COUNT, OUTLIER_CNT_COUNT,
   PARENT_ID_0_ID, PARENT_ID_1_ID, PARENT_ID_2_PORT, PARENT_ID_2_DOMAIN,
   PARENT_ID_2_MATCH_EN, LINK_DELAY_DELAY]
def rows2 : List FieldRow :=
  [LINK_ASYM_ASYM, CAL_TX_DELAY, CAL_RX_DELAY, BOARD_TX_DELAY,
   BOARD_RX_DELAY, CAL_STATUS_DONE, CAL_STATUS_DEFAULT, PPS_CFG_OUT_EN,
   PPS_CFG_OUT_POL, PPS_CFG_IN_EN, PPS_CFG_IN_POL, PPS_CFG_OUT_WIDTH_NS,
   PPS_OUT_OFFSET_NS, PPS_IN_SEC_LO_SEC, PPS_IN_SEC_HI_SEC, PPS_IN_NS_NS,
   PPS_IN_SUB_SUBNS, PPS_IN_SUB_NEW, PPS_IN_CNT_ACCEPTED, PPS_IN_CNT_IGNORED,
   PPS_IN_DELAY_DELAY, TDC_CFG_CAL_EN, TDC_CFG_CAL_PERIOD_MS, TDC_STATUS_CAL_OK,
   TDC_STATUS_FAILS, REFCLK_STATUS_FAULT, REFCLK_STATUS_ON_INTERNAL, HO_FREQ_PS_PER_S,
   HO_AGING_FS_PER_S2, HO_LIMIT_NS]
def rows3 : List FieldRow :=
  [HO_ERROR_NS, HO_ELAPSED_S, MARK_CTRL_MODE, MARK_CTRL_POL,
   MARK_CTRL_ACTIVE, MARK_CTRL_SEG, MARK_START_SEC_LO_SEC, MARK_START_SEC_HI_SEC,
   MARK_START_NS_NS, MARK_PERIOD_NS_NS, MARK_WIDTH_NS_NS, MARK_MISSED_COUNT,
   MARK_SEG_OFFSET_NS]
/-- The fields of the WHORL page, in the order of the spec's tables. -/
def rows : List FieldRow := rows0 ++ rows1 ++ rows2 ++ rows3

end WHORL

/-! ### The SEGMENT page (Tables 04.15 to 04.17 and 06.8) -/

namespace SEGMENT

def CFG_PLAIN : FieldRow := { cls := .segment, off := 0x040, hi := 0, lo := 0, acc := .rw }
def CFG_DUAL : FieldRow := { cls := .segment, off := 0x040, hi := 1, lo := 1, acc := .rw }
def CFG_CS_EN : FieldRow := { cls := .segment, off := 0x040, hi := 2, lo := 2, acc := .rw, rst := .const 1 }
def CFG_CS_ANYTIME : FieldRow := { cls := .segment, off := 0x040, hi := 3, lo := 3, acc := .rw }
def CFG_CONT_TX_EN : FieldRow := { cls := .segment, off := 0x040, hi := 4, lo := 4, acc := .rw, rst := .const 1 }
def CFG_JOIN_REQUIRED : FieldRow := { cls := .segment, off := 0x040, hi := 5, lo := 5, acc := .rw }
def CFG_JOIN_HOST : FieldRow := { cls := .segment, off := 0x040, hi := 6, lo := 6, acc := .rw }
def CFG_PRECLASS : FieldRow := { cls := .segment, off := 0x040, hi := 10, lo := 8, acc := .rw }
def NODE_CFG_NODE_ID : FieldRow := { cls := .segment, off := 0x044, hi := 5, lo := 0, acc := .rw }
def NODE_CFG_CS_PRIO : FieldRow := { cls := .segment, off := 0x044, hi := 15, lo := 8, acc := .rw, rst := .const 128 }
def MAC_LO_ADDR : FieldRow := { cls := .segment, off := 0x048, hi := 31, lo := 0, acc := .rw, rst := .fuse }
def MAC_HI_ADDR : FieldRow := { cls := .segment, off := 0x04C, hi := 15, lo := 0, acc := .rw, rst := .fuse }
def GUARD_NS : FieldRow := { cls := .segment, off := 0x050, hi := 15, lo := 0, acc := .rw, rst := .const 2000 }
def CS_CFG_MAX_CYCLE_US : FieldRow := { cls := .segment, off := 0x054, hi := 19, lo := 0, acc := .rw, rst := .const 100000 }
def SYNC_CFG_TAKEOVER_MISS : FieldRow := { cls := .segment, off := 0x058, hi := 1, lo := 0, acc := .rw, rst := .const 1 }
def SYNC_CFG_LOSS_CYCLES : FieldRow := { cls := .segment, off := 0x058, hi := 7, lo := 4, acc := .rw, rst := .const 3 }
def SYNC_CFG_STALE_LIMIT : FieldRow := { cls := .segment, off := 0x058, hi := 15, lo := 8, acc := .rw, rst := .const 3 }
def SYNC_CFG_ABSENT_LIMIT : FieldRow := { cls := .segment, off := 0x058, hi := 23, lo := 16, acc := .rw, rst := .const 64 }
def CMD_CFG_CMD_BURST : FieldRow := { cls := .segment, off := 0x05C, hi := 3, lo := 0, acc := .rw, rst := .const 4 }
def SYNC_STATUS_STATE : FieldRow := { cls := .segment, off := 0x060, hi := 2, lo := 0, acc := .ro }
def SYNC_STATUS_ACTIVE : FieldRow := { cls := .segment, off := 0x060, hi := 3, lo := 3, acc := .ro }
def SYNC_STATUS_CYCLE_VALID : FieldRow := { cls := .segment, off := 0x060, hi := 4, lo := 4, acc := .ro }
def SYNC_STATUS_EXT_PENDING : FieldRow := { cls := .segment, off := 0x060, hi := 5, lo := 5, acc := .ro }
def SYNC_STATUS_MASTER_NODE : FieldRow := { cls := .segment, off := 0x060, hi := 13, lo := 8, acc := .ro }
def SYNC_STATUS_CYCLE : FieldRow := { cls := .segment, off := 0x060, hi := 31, lo := 16, acc := .ro }
def MASTER_MAC_LO_ADDR : FieldRow := { cls := .segment, off := 0x064, hi := 31, lo := 0, acc := .ro }
def MASTER_MAC_HI_ADDR : FieldRow := { cls := .segment, off := 0x068, hi := 15, lo := 0, acc := .ro }
def CS_STATUS_COLLISIONS : FieldRow := { cls := .segment, off := 0x06C, hi := 4, lo := 0, acc := .ro }
def CS_STATUS_TRIAL_LEFT : FieldRow := { cls := .segment, off := 0x06C, hi := 9, lo := 8, acc := .ro }
def CS_STATUS_LISTEN_REMAIN : FieldRow := { cls := .segment, off := 0x06C, hi := 31, lo := 12, acc := .ro }
def TT_CTRL_VIEW_OPER : FieldRow := { cls := .segment, off := 0x070, hi := 0, lo := 0, acc := .rw }
def TT_CMD_COMMIT : FieldRow := { cls := .segment, off := 0x074, hi := 0, lo := 0, acc := .wo }
def TT_CMD_KEY : FieldRow := { cls := .segment, off := 0x074, hi := 31, lo := 16, acc := .wo }
def TT_STATUS_STATE : FieldRow := { cls := .segment, off := 0x078, hi := 1, lo := 0, acc := .ro }
def TT_STATUS_CAUSE : FieldRow := { cls := .segment, off := 0x078, hi := 7, lo := 4, acc := .ro }
def TT_STATUS_OPER_TABLE_ID : FieldRow := { cls := .segment, off := 0x078, hi := 31, lo := 16, acc := .ro }
def ADMIN_CYCLE_LEN_NS : FieldRow := { cls := .segment, off := 0x07C, hi := 26, lo := 0, acc := .rw, rst := .const 10000000 }
def ADMIN_PHASE_NS : FieldRow := { cls := .segment, off := 0x080, hi := 26, lo := 0, acc := .rw }
def ADMIN_TABLE_ID_ID : FieldRow := { cls := .segment, off := 0x084, hi := 15, lo := 0, acc := .rw }
def OPER_CYCLE_LEN_NS : FieldRow := { cls := .segment, off := 0x088, hi := 26, lo := 0, acc := .ro, rst := .const 10000000 }
def OPER_PHASE_NS : FieldRow := { cls := .segment, off := 0x08C, hi := 26, lo := 0, acc := .ro }
def PUB_CMD_TURN : FieldRow := { cls := .segment, off := 0x090, hi := 6, lo := 0, acc := .wo }
def PUB_CMD_GO : FieldRow := { cls := .segment, off := 0x090, hi := 8, lo := 8, acc := .wo }
def BUF_WIN_SECTION : FieldRow := { cls := .segment, off := 0x094, hi := 3, lo := 0, acc := .rw }
def CMDQ_STATUS_DEPTH : FieldRow := { cls := .segment, off := 0x098, hi := 6, lo := 0, acc := .ro }
def CMDQ_STATUS_FULL : FieldRow := { cls := .segment, off := 0x098, hi := 16, lo := 16, acc := .ro }
def JOIN_INFO_NODE : FieldRow := { cls := .segment, off := 0x0A0, hi := 5, lo := 0, acc := .ro }
def JOIN_INFO_ANY : FieldRow := { cls := .segment, off := 0x0A0, hi := 6, lo := 6, acc := .ro }
def JOIN_INFO_CLASS : FieldRow := { cls := .segment, off := 0x0A0, hi := 15, lo := 8, acc := .ro }
def JOIN_INFO_COUNT : FieldRow := { cls := .segment, off := 0x0A0, hi := 20, lo := 16, acc := .ro }
def JOIN_INFO_OVERFLOW : FieldRow := { cls := .segment, off := 0x0A0, hi := 30, lo := 30, acc := .w1c }
def JOIN_INFO_VALID : FieldRow := { cls := .segment, off := 0x0A0, hi := 31, lo := 31, acc := .ro }
def JOIN_MAC_LO_ADDR : FieldRow := { cls := .segment, off := 0x0A4, hi := 31, lo := 0, acc := .ro }
def JOIN_MAC_HI_ADDR : FieldRow := { cls := .segment, off := 0x0A8, hi := 15, lo := 0, acc := .ro }
def JOIN_POP_GO : FieldRow := { cls := .segment, off := 0x0AC, hi := 0, lo := 0, acc := .wo }
def ACK_CMD_NODE : FieldRow := { cls := .segment, off := 0x0B0, hi := 5, lo := 0, acc := .wo }
def ACK_CMD_TURN : FieldRow := { cls := .segment, off := 0x0B0, hi := 14, lo := 8, acc := .wo }
def ACK_CMD_STATUS : FieldRow := { cls := .segment, off := 0x0B0, hi := 18, lo := 16, acc := .wo }
def ACK_CMD_GO : FieldRow := { cls := .segment, off := 0x0B0, hi := 31, lo := 31, acc := .wo }
def CYCLES_COUNT : FieldRow := { cls := .segment, off := 0x0C0, hi := 31, lo := 0, acc := .ro }
def BEACON_MISS_COUNT : FieldRow := { cls := .segment, off := 0x0C4, hi := 31, lo := 0, acc := .ro }
def STATIC_COLL_COUNT : FieldRow := { cls := .segment, off := 0x0C8, hi := 31, lo := 0, acc := .ro }
def CONT_COLL_COUNT : FieldRow := { cls := .segment, off := 0x0CC, hi := 31, lo := 0, acc := .ro }
def CS_FAIL_COUNT : FieldRow := { cls := .segment, off := 0x0D0, hi := 31, lo := 0, acc := .ro }
def FOREIGN_MASTER_COUNT : FieldRow := { cls := .segment, off := 0x0D4, hi := 31, lo := 0, acc := .ro }
def RX_HDR_ERR_COUNT : FieldRow := { cls := .segment, off := 0x0D8, hi := 31, lo := 0, acc := .ro }
def RX_OVERSIZE_COUNT : FieldRow := { cls := .segment, off := 0x0DC, hi := 31, lo := 0, acc := .ro }
def RX_UNJOINED_COUNT : FieldRow := { cls := .segment, off := 0x0E0, hi := 31, lo := 0, acc := .ro }
def TX_DROP_COUNT : FieldRow := { cls := .segment, off := 0x0E4, hi := 31, lo := 0, acc := .ro }
def OVERWRITE_COUNT : FieldRow := { cls := .segment, off := 0x0E8, hi := 31, lo := 0, acc := .ro }
def TABLE_MISMATCH_COUNT : FieldRow := { cls := .segment, off := 0x0EC, hi := 31, lo := 0, acc := .ro }
def MAC_RX_FRAMES_COUNT : FieldRow := { cls := .segment, off := 0x0F0, hi := 31, lo := 0, acc := .ro }
def MAC_FCS_ERR_COUNT : FieldRow := { cls := .segment, off := 0x0F4, hi := 31, lo := 0, acc := .ro }
def MAC_RX_ERR_COUNT : FieldRow := { cls := .segment, off := 0x0F8, hi := 31, lo := 0, acc := .ro }
def MAC_RUNT_COUNT : FieldRow := { cls := .segment, off := 0x0FC, hi := 31, lo := 0, acc := .ro }
def MAC_OVERSIZE_COUNT : FieldRow := { cls := .segment, off := 0x100, hi := 31, lo := 0, acc := .ro }
def MAC_TX_FRAMES_COUNT : FieldRow := { cls := .segment, off := 0x104, hi := 31, lo := 0, acc := .ro }
def MAC_DEFERRED_COUNT : FieldRow := { cls := .segment, off := 0x108, hi := 31, lo := 0, acc := .ro }
def MAC_LATE_COLL_COUNT : FieldRow := { cls := .segment, off := 0x10C, hi := 31, lo := 0, acc := .ro }
def MAC_EXCESS_COLL_COUNT : FieldRow := { cls := .segment, off := 0x110, hi := 31, lo := 0, acc := .ro }
def TURN_STAT_SAFE_VALID : FieldRow := { cls := .segment, off := 0x200, hi := 0, lo := 0, acc := .rw, stride := 4, count := 65 }
def TURN_STAT_BANK : FieldRow := { cls := .segment, off := 0x200, hi := 1, lo := 1, acc := .ro, stride := 4, count := 65 }
def TURN_STAT_PUB_PENDING : FieldRow := { cls := .segment, off := 0x200, hi := 2, lo := 2, acc := .ro, stride := 4, count := 65 }
def TURN_STAT_STALE : FieldRow := { cls := .segment, off := 0x200, hi := 3, lo := 3, acc := .ro, rst := .const 1, stride := 4, count := 65 }
def TURN_STAT_JOINED : FieldRow := { cls := .segment, off := 0x200, hi := 4, lo := 4, acc := .ro, stride := 4, count := 65 }
def TURN_STAT_ABSENT : FieldRow := { cls := .segment, off := 0x200, hi := 5, lo := 5, acc := .ro, stride := 4, count := 65 }
def TURN_STAT_AGE : FieldRow := { cls := .segment, off := 0x200, hi := 15, lo := 8, acc := .ro, rst := .const 255, stride := 4, count := 65 }
def TURN_STAT_LAST_CYCLE : FieldRow := { cls := .segment, off := 0x200, hi := 31, lo := 16, acc := .ro, stride := 4, count := 65 }

def rows0 : List FieldRow :=
  [CFG_PLAIN, CFG_DUAL, CFG_CS_EN, CFG_CS_ANYTIME,
   CFG_CONT_TX_EN, CFG_JOIN_REQUIRED, CFG_JOIN_HOST, CFG_PRECLASS,
   NODE_CFG_NODE_ID, NODE_CFG_CS_PRIO, MAC_LO_ADDR, MAC_HI_ADDR,
   GUARD_NS, CS_CFG_MAX_CYCLE_US, SYNC_CFG_TAKEOVER_MISS, SYNC_CFG_LOSS_CYCLES,
   SYNC_CFG_STALE_LIMIT, SYNC_CFG_ABSENT_LIMIT, CMD_CFG_CMD_BURST, SYNC_STATUS_STATE,
   SYNC_STATUS_ACTIVE, SYNC_STATUS_CYCLE_VALID, SYNC_STATUS_EXT_PENDING, SYNC_STATUS_MASTER_NODE,
   SYNC_STATUS_CYCLE, MASTER_MAC_LO_ADDR, MASTER_MAC_HI_ADDR, CS_STATUS_COLLISIONS,
   CS_STATUS_TRIAL_LEFT, CS_STATUS_LISTEN_REMAIN]
def rows1 : List FieldRow :=
  [TT_CTRL_VIEW_OPER, TT_CMD_COMMIT, TT_CMD_KEY, TT_STATUS_STATE,
   TT_STATUS_CAUSE, TT_STATUS_OPER_TABLE_ID, ADMIN_CYCLE_LEN_NS, ADMIN_PHASE_NS,
   ADMIN_TABLE_ID_ID, OPER_CYCLE_LEN_NS, OPER_PHASE_NS, PUB_CMD_TURN,
   PUB_CMD_GO, BUF_WIN_SECTION, CMDQ_STATUS_DEPTH, CMDQ_STATUS_FULL,
   JOIN_INFO_NODE, JOIN_INFO_ANY, JOIN_INFO_CLASS, JOIN_INFO_COUNT,
   JOIN_INFO_OVERFLOW, JOIN_INFO_VALID, JOIN_MAC_LO_ADDR, JOIN_MAC_HI_ADDR,
   JOIN_POP_GO, ACK_CMD_NODE, ACK_CMD_TURN, ACK_CMD_STATUS,
   ACK_CMD_GO, CYCLES_COUNT]
def rows2 : List FieldRow :=
  [BEACON_MISS_COUNT, STATIC_COLL_COUNT, CONT_COLL_COUNT, CS_FAIL_COUNT,
   FOREIGN_MASTER_COUNT, RX_HDR_ERR_COUNT, RX_OVERSIZE_COUNT, RX_UNJOINED_COUNT,
   TX_DROP_COUNT, OVERWRITE_COUNT, TABLE_MISMATCH_COUNT, MAC_RX_FRAMES_COUNT,
   MAC_FCS_ERR_COUNT, MAC_RX_ERR_COUNT, MAC_RUNT_COUNT, MAC_OVERSIZE_COUNT,
   MAC_TX_FRAMES_COUNT, MAC_DEFERRED_COUNT, MAC_LATE_COLL_COUNT, MAC_EXCESS_COLL_COUNT,
   TURN_STAT_SAFE_VALID, TURN_STAT_BANK, TURN_STAT_PUB_PENDING, TURN_STAT_STALE,
   TURN_STAT_JOINED, TURN_STAT_ABSENT, TURN_STAT_AGE, TURN_STAT_LAST_CYCLE]
/-- The fields of the SEGMENT page, in the order of the spec's tables. -/
def rows : List FieldRow := rows0 ++ rows1 ++ rows2

end SEGMENT

/-! ### The FLYER page (Tables 05.8 and 05.9) -/

namespace FLYER

def CFG_MODE : FieldRow := { cls := .flyer, off := 0x040, hi := 0, lo := 0, acc := .rws }
def CFG_DUAL : FieldRow := { cls := .flyer, off := 0x040, hi := 1, lo := 1, acc := .rws }
def CFG_TAKEOVER_EN : FieldRow := { cls := .flyer, off := 0x040, hi := 2, lo := 2, acc := .rws }
def CFG_TAKEOVER_MISS : FieldRow := { cls := .flyer, off := 0x040, hi := 5, lo := 4, acc := .rws, rst := .const 1 }
def CFG_LOSS_CYCLES : FieldRow := { cls := .flyer, off := 0x040, hi := 11, lo := 8, acc := .rws, rst := .const 3 }
def CFG_VIEW_ACTIVE : FieldRow := { cls := .flyer, off := 0x040, hi := 16, lo := 16, acc := .rw }
def LINE_DELAY_NS : FieldRow := { cls := .flyer, off := 0x044, hi := 15, lo := 0, acc := .rws }
def UNSYNC_BUDGET_US : FieldRow := { cls := .flyer, off := 0x048, hi := 15, lo := 0, acc := .rws, rst := .const 2000 }
def CONTAIN_CFG_POLICY : FieldRow := { cls := .flyer, off := 0x04C, hi := 0, lo := 0, acc := .rws }
def CONTAIN_CFG_LIMIT : FieldRow := { cls := .flyer, off := 0x04C, hi := 11, lo := 8, acc := .rws, rst := .const 3 }
def CONTAIN_CFG_UNATTR_LIMIT : FieldRow := { cls := .flyer, off := 0x04C, hi := 19, lo := 16, acc := .rws, rst := .const 8 }
def CONTAIN_CFG_NO_CUT_IN_SAFE : FieldRow := { cls := .flyer, off := 0x04C, hi := 24, lo := 24, acc := .rws }
def CONTAIN_CFG_RETRIES : FieldRow := { cls := .flyer, off := 0x04C, hi := 30, lo := 28, acc := .rws, rst := .const 3 }
def CONTAIN_TIME_OFF_MS : FieldRow := { cls := .flyer, off := 0x050, hi := 15, lo := 0, acc := .rws, rst := .const 100 }
def CONTAIN_TIME_CLEAN_S : FieldRow := { cls := .flyer, off := 0x050, hi := 31, lo := 16, acc := .rws, rst := .const 60 }
def DRIFT_CFG_WARN_NS : FieldRow := { cls := .flyer, off := 0x054, hi := 15, lo := 0, acc := .rw, rst := .const 1000 }
def DRIFT_CFG_AVG_SHIFT : FieldRow := { cls := .flyer, off := 0x054, hi := 19, lo := 16, acc := .rw, rst := .const 3 }
def DRIFT_CMD_NODE : FieldRow := { cls := .flyer, off := 0x058, hi := 5, lo := 0, acc := .wo }
def DRIFT_CMD_ALL : FieldRow := { cls := .flyer, off := 0x058, hi := 8, lo := 8, acc := .wo }
def DRIFT_CMD_GO : FieldRow := { cls := .flyer, off := 0x058, hi := 31, lo := 31, acc := .wo }
def SYNC_STATUS_STATE : FieldRow := { cls := .flyer, off := 0x060, hi := 2, lo := 0, acc := .ro }
def SYNC_STATUS_ACTIVE_SLOT : FieldRow := { cls := .flyer, off := 0x060, hi := 4, lo := 4, acc := .ro }
def SYNC_STATUS_MASTER_SELF : FieldRow := { cls := .flyer, off := 0x060, hi := 5, lo := 5, acc := .ro }
def SYNC_STATUS_EXT_ALLOW : FieldRow := { cls := .flyer, off := 0x060, hi := 6, lo := 6, acc := .ro }
def SYNC_STATUS_CYCLE_OK : FieldRow := { cls := .flyer, off := 0x060, hi := 7, lo := 7, acc := .ro }
def SYNC_STATUS_MISS_RUN : FieldRow := { cls := .flyer, off := 0x060, hi := 11, lo := 8, acc := .ro }
def SYNC_STATUS_TABLE_ID : FieldRow := { cls := .flyer, off := 0x060, hi := 31, lo := 16, acc := .ro }
def TX_STATUS_LATCHED : FieldRow := { cls := .flyer, off := 0x064, hi := 0, lo := 0, acc := .ro }
def TX_STATUS_DRIVER_ON : FieldRow := { cls := .flyer, off := 0x064, hi := 1, lo := 1, acc := .ro }
def TX_STATUS_VIOL_RUN : FieldRow := { cls := .flyer, off := 0x064, hi := 3, lo := 2, acc := .ro }
def TX_STATUS_BUDGET_USED : FieldRow := { cls := .flyer, off := 0x064, hi := 31, lo := 16, acc := .ro }
def REARM_GO : FieldRow := { cls := .flyer, off := 0x068, hi := 0, lo := 0, acc := .wo }
def REARM_KEY : FieldRow := { cls := .flyer, off := 0x068, hi := 31, lo := 16, acc := .wo }
def PWR_CTRL_ON : FieldRow := { cls := .flyer, off := 0x06C, hi := 0, lo := 0, acc := .rw }
def PWR_CTRL_STATE : FieldRow := { cls := .flyer, off := 0x06C, hi := 5, lo := 4, acc := .ro }
def PWR_CTRL_CUTS_LEFT : FieldRow := { cls := .flyer, off := 0x06C, hi := 10, lo := 8, acc := .ro, rst := .const 3 }
def PWR_CTRL_CHAIN_BIT : FieldRow := { cls := .flyer, off := 0x06C, hi := 12, lo := 12, acc := .ro }
def PWR_CTRL_RESTORE : FieldRow := { cls := .flyer, off := 0x06C, hi := 31, lo := 31, acc := .wo }
def FAULT_STATUS_TX_VIOLATION : FieldRow := { cls := .flyer, off := 0x070, hi := 0, lo := 0, acc := .w1c }
def FAULT_STATUS_TX_LATCHED : FieldRow := { cls := .flyer, off := 0x070, hi := 1, lo := 1, acc := .w1c }
def FAULT_STATUS_BUDGET : FieldRow := { cls := .flyer, off := 0x070, hi := 2, lo := 2, acc := .w1c }
def FAULT_STATUS_SYNC_GAINED : FieldRow := { cls := .flyer, off := 0x070, hi := 3, lo := 3, acc := .w1c }
def FAULT_STATUS_SYNC_LOST : FieldRow := { cls := .flyer, off := 0x070, hi := 4, lo := 4, acc := .w1c }
def FAULT_STATUS_SLOT_SWITCH : FieldRow := { cls := .flyer, off := 0x070, hi := 5, lo := 5, acc := .w1c }
def FAULT_STATUS_SEAL_DONE : FieldRow := { cls := .flyer, off := 0x070, hi := 6, lo := 6, acc := .w1c }
def FAULT_STATUS_SEAL_FAIL : FieldRow := { cls := .flyer, off := 0x070, hi := 7, lo := 7, acc := .w1c }
def FAULT_STATUS_WIN_FAULT : FieldRow := { cls := .flyer, off := 0x070, hi := 8, lo := 8, acc := .w1c }
def FAULT_STATUS_DRIFT_WARN : FieldRow := { cls := .flyer, off := 0x070, hi := 9, lo := 9, acc := .w1c }
def FAULT_STATUS_BABBLE : FieldRow := { cls := .flyer, off := 0x070, hi := 10, lo := 10, acc := .w1c }
def FAULT_STATUS_POWER_CUT : FieldRow := { cls := .flyer, off := 0x070, hi := 11, lo := 11, acc := .w1c }
def FAULT_STATUS_POWER_HELD : FieldRow := { cls := .flyer, off := 0x070, hi := 12, lo := 12, acc := .w1c }
def FAULT_STATUS_BEACON_REJECT : FieldRow := { cls := .flyer, off := 0x070, hi := 13, lo := 13, acc := .w1c }
def TT_STAGE_HDR0_TABLE_ID : FieldRow := { cls := .flyer, off := 0x080, hi := 15, lo := 0, acc := .rw }
def TT_STAGE_HDR0_GUARD : FieldRow := { cls := .flyer, off := 0x080, hi := 31, lo := 16, acc := .rw, rst := .const 2000 }
def TT_STAGE_HDR1_CYCLE_LEN : FieldRow := { cls := .flyer, off := 0x084, hi := 26, lo := 0, acc := .rw, rst := .const 10000000 }
def TT_STAGE_CRC_CRC : FieldRow := { cls := .flyer, off := 0x088, hi := 31, lo := 0, acc := .rw }
def TT_SEAL_CMD_SEAL : FieldRow := { cls := .flyer, off := 0x08C, hi := 0, lo := 0, acc := .wo }
def TT_SEAL_CMD_UNSEAL : FieldRow := { cls := .flyer, off := 0x08C, hi := 1, lo := 1, acc := .wo }
def TT_SEAL_CMD_KEY : FieldRow := { cls := .flyer, off := 0x08C, hi := 31, lo := 16, acc := .wo }
def TT_SEAL_STATUS_STATE : FieldRow := { cls := .flyer, off := 0x090, hi := 1, lo := 0, acc := .ro }
def TT_SEAL_STATUS_CAUSE : FieldRow := { cls := .flyer, off := 0x090, hi := 7, lo := 4, acc := .ro }
def TT_SEAL_STATUS_STAGE_SLOT : FieldRow := { cls := .flyer, off := 0x090, hi := 8, lo := 8, acc := .ro }
def TT_SLOT_SEALED : FieldRow := { cls := .flyer, off := 0x094, hi := 0, lo := 0, acc := .ro, stride := 4, count := 2 }
def TT_SLOT_ACTIVE : FieldRow := { cls := .flyer, off := 0x094, hi := 1, lo := 1, acc := .ro, stride := 4, count := 2 }
def TT_SLOT_TABLE_ID : FieldRow := { cls := .flyer, off := 0x094, hi := 31, lo := 16, acc := .ro, stride := 4, count := 2 }
def BLOCKED_COUNT : FieldRow := { cls := .flyer, off := 0x0C0, hi := 31, lo := 0, acc := .ro }
def TRUNCATED_COUNT : FieldRow := { cls := .flyer, off := 0x0C4, hi := 31, lo := 0, acc := .ro }
def LATCHES_COUNT : FieldRow := { cls := .flyer, off := 0x0C8, hi := 31, lo := 0, acc := .ro }
def BEACON_REJECT_COUNT : FieldRow := { cls := .flyer, off := 0x0CC, hi := 31, lo := 0, acc := .ro }
def SYNC_LOSS_COUNT : FieldRow := { cls := .flyer, off := 0x0D0, hi := 31, lo := 0, acc := .ro }
def WIN_FAULTS_COUNT : FieldRow := { cls := .flyer, off := 0x0D4, hi := 31, lo := 0, acc := .ro }
def BABBLES_COUNT : FieldRow := { cls := .flyer, off := 0x0D8, hi := 31, lo := 0, acc := .ro }
def STRAY_UNKNOWN_COUNT : FieldRow := { cls := .flyer, off := 0x0DC, hi := 31, lo := 0, acc := .ro }
def CUTS_COUNT : FieldRow := { cls := .flyer, off := 0x0E0, hi := 31, lo := 0, acc := .ro }

def rows0 : List FieldRow :=
  [CFG_MODE, CFG_DUAL, CFG_TAKEOVER_EN, CFG_TAKEOVER_MISS,
   CFG_LOSS_CYCLES, CFG_VIEW_ACTIVE, LINE_DELAY_NS, UNSYNC_BUDGET_US,
   CONTAIN_CFG_POLICY, CONTAIN_CFG_LIMIT, CONTAIN_CFG_UNATTR_LIMIT, CONTAIN_CFG_NO_CUT_IN_SAFE,
   CONTAIN_CFG_RETRIES, CONTAIN_TIME_OFF_MS, CONTAIN_TIME_CLEAN_S, DRIFT_CFG_WARN_NS,
   DRIFT_CFG_AVG_SHIFT, DRIFT_CMD_NODE, DRIFT_CMD_ALL, DRIFT_CMD_GO,
   SYNC_STATUS_STATE, SYNC_STATUS_ACTIVE_SLOT, SYNC_STATUS_MASTER_SELF, SYNC_STATUS_EXT_ALLOW,
   SYNC_STATUS_CYCLE_OK, SYNC_STATUS_MISS_RUN, SYNC_STATUS_TABLE_ID, TX_STATUS_LATCHED,
   TX_STATUS_DRIVER_ON, TX_STATUS_VIOL_RUN]
def rows1 : List FieldRow :=
  [TX_STATUS_BUDGET_USED, REARM_GO, REARM_KEY, PWR_CTRL_ON,
   PWR_CTRL_STATE, PWR_CTRL_CUTS_LEFT, PWR_CTRL_CHAIN_BIT, PWR_CTRL_RESTORE,
   FAULT_STATUS_TX_VIOLATION, FAULT_STATUS_TX_LATCHED, FAULT_STATUS_BUDGET, FAULT_STATUS_SYNC_GAINED,
   FAULT_STATUS_SYNC_LOST, FAULT_STATUS_SLOT_SWITCH, FAULT_STATUS_SEAL_DONE, FAULT_STATUS_SEAL_FAIL,
   FAULT_STATUS_WIN_FAULT, FAULT_STATUS_DRIFT_WARN, FAULT_STATUS_BABBLE, FAULT_STATUS_POWER_CUT,
   FAULT_STATUS_POWER_HELD, FAULT_STATUS_BEACON_REJECT, TT_STAGE_HDR0_TABLE_ID, TT_STAGE_HDR0_GUARD,
   TT_STAGE_HDR1_CYCLE_LEN, TT_STAGE_CRC_CRC, TT_SEAL_CMD_SEAL, TT_SEAL_CMD_UNSEAL,
   TT_SEAL_CMD_KEY, TT_SEAL_STATUS_STATE]
def rows2 : List FieldRow :=
  [TT_SEAL_STATUS_CAUSE, TT_SEAL_STATUS_STAGE_SLOT, TT_SLOT_SEALED, TT_SLOT_ACTIVE,
   TT_SLOT_TABLE_ID, BLOCKED_COUNT, TRUNCATED_COUNT, LATCHES_COUNT,
   BEACON_REJECT_COUNT, SYNC_LOSS_COUNT, WIN_FAULTS_COUNT, BABBLES_COUNT,
   STRAY_UNKNOWN_COUNT, CUTS_COUNT]
/-- The fields of the FLYER page, in the order of the spec's tables. -/
def rows : List FieldRow := rows0 ++ rows1 ++ rows2

end FLYER

/-! ### The UPLINK page (Tables 06.9 and 06.10) -/

namespace UPLINK

def CFG_SPEED : FieldRow := { cls := .uplink, off := 0x040, hi := 0, lo := 0, acc := .rw, rst := .const 1 }
def CFG_FEC_EN : FieldRow := { cls := .uplink, off := 0x040, hi := 1, lo := 1, acc := .rw }
def CFG_LOOPBACK : FieldRow := { cls := .uplink, off := 0x040, hi := 2, lo := 2, acc := .rw }
def CFG_MAX_FRAME : FieldRow := { cls := .uplink, off := 0x040, hi := 29, lo := 16, acc := .rw, rst := .const 1522 }
def MAC_LO_ADDR : FieldRow := { cls := .uplink, off := 0x044, hi := 31, lo := 0, acc := .rw, rst := .fuse }
def MAC_HI_ADDR : FieldRow := { cls := .uplink, off := 0x048, hi := 15, lo := 0, acc := .rw, rst := .fuse }
def PRECLASS_MAP_PCP : FieldRow := { cls := .uplink, off := 0x04C, hi := 23, lo := 0, acc := .rw, rst := .const 16434824 }
def PRECLASS_MAP_DEFAULT : FieldRow := { cls := .uplink, off := 0x04C, hi := 26, lo := 24, acc := .rw }
def PAUSE_CFG_RX_EN : FieldRow := { cls := .uplink, off := 0x050, hi := 0, lo := 0, acc := .rw }
def PAUSE_CFG_TX_EN : FieldRow := { cls := .uplink, off := 0x050, hi := 1, lo := 1, acc := .rw }
def PAUSE_CFG_EXPRESS_EXEMPT : FieldRow := { cls := .uplink, off := 0x050, hi := 2, lo := 2, acc := .rw }
def PAUSE_CFG_TX_QUANTA : FieldRow := { cls := .uplink, off := 0x050, hi := 31, lo := 16, acc := .rw, rst := .const 65535 }
def PAUSE_STATUS_PAUSED : FieldRow := { cls := .uplink, off := 0x054, hi := 0, lo := 0, acc := .ro }
def PAUSE_STATUS_XOFF_SENT : FieldRow := { cls := .uplink, off := 0x054, hi := 1, lo := 1, acc := .ro }
def PAUSE_STATUS_REMAIN : FieldRow := { cls := .uplink, off := 0x054, hi := 31, lo := 16, acc := .ro }
def PAUSE_REFRESH_QUANTA : FieldRow := { cls := .uplink, off := 0x06C, hi := 15, lo := 0, acc := .rw, rst := .const 32768 }
def MERGE_CFG_EN : FieldRow := { cls := .uplink, off := 0x058, hi := 0, lo := 0, acc := .rw }
def MERGE_CFG_VERIFY_DIS : FieldRow := { cls := .uplink, off := 0x058, hi := 1, lo := 1, acc := .rw }
def MERGE_CFG_ADD_FRAG_SIZE : FieldRow := { cls := .uplink, off := 0x058, hi := 5, lo := 4, acc := .rw }
def MERGE_CFG_VERIFY_TIME_MS : FieldRow := { cls := .uplink, off := 0x058, hi := 15, lo := 8, acc := .rw, rst := .const 10 }
def MERGE_CFG_PREEMPT_CLASS : FieldRow := { cls := .uplink, off := 0x058, hi := 22, lo := 16, acc := .rw }
def MERGE_CFG_PREEMPT_CLASS7 : FieldRow := { cls := .uplink, off := 0x058, hi := 23, lo := 23, acc := .ro }
def MERGE_STATUS_VERIFY_STATE : FieldRow := { cls := .uplink, off := 0x05C, hi := 2, lo := 0, acc := .ro }
def MERGE_STATUS_ACTIVE : FieldRow := { cls := .uplink, off := 0x05C, hi := 4, lo := 4, acc := .ro }
def MERGE_STATUS_ATTEMPTS : FieldRow := { cls := .uplink, off := 0x05C, hi := 9, lo := 8, acc := .ro }
def LINK_STATUS_STATE : FieldRow := { cls := .uplink, off := 0x060, hi := 2, lo := 0, acc := .ro }
def LINK_STATUS_BLOCK_LOCK : FieldRow := { cls := .uplink, off := 0x060, hi := 4, lo := 4, acc := .ro }
def LINK_STATUS_FEC_LOCK : FieldRow := { cls := .uplink, off := 0x060, hi := 5, lo := 5, acc := .ro }
def LINK_STATUS_HI_BER : FieldRow := { cls := .uplink, off := 0x060, hi := 6, lo := 6, acc := .ro }
def LINK_STATUS_LOCAL_FAULT : FieldRow := { cls := .uplink, off := 0x060, hi := 7, lo := 7, acc := .ro }
def LINK_STATUS_REMOTE_FAULT : FieldRow := { cls := .uplink, off := 0x060, hi := 8, lo := 8, acc := .ro }
def LINK_STATUS_SPEED_IN_FORCE : FieldRow := { cls := .uplink, off := 0x060, hi := 9, lo := 9, acc := .ro }
def LINK_STATUS_FEC_IN_FORCE : FieldRow := { cls := .uplink, off := 0x060, hi := 10, lo := 10, acc := .ro }
def LINK_STATUS_NO_LEAVE : FieldRow := { cls := .uplink, off := 0x060, hi := 11, lo := 11, acc := .ro }
def LINK_STATUS_CFG_ERR : FieldRow := { cls := .uplink, off := 0x060, hi := 12, lo := 12, acc := .ro }
def SERDES_TX_PRE : FieldRow := { cls := .uplink, off := 0x064, hi := 4, lo := 0, acc := .rw }
def SERDES_TX_MAIN : FieldRow := { cls := .uplink, off := 0x064, hi := 12, lo := 8, acc := .rw, rst := .const 31 }
def SERDES_TX_POST : FieldRow := { cls := .uplink, off := 0x064, hi := 20, lo := 16, acc := .rw }
def SERDES_RX_ADAPT_EN : FieldRow := { cls := .uplink, off := 0x068, hi := 0, lo := 0, acc := .rw, rst := .const 1 }
def SERDES_RX_CTLE : FieldRow := { cls := .uplink, off := 0x068, hi := 12, lo := 8, acc := .rw, rst := .const 8 }
def TX_START_THRESH_BLOCKS : FieldRow := { cls := .uplink, off := 0x080, hi := 5, lo := 0, acc := .rw, rst := .const 2, stride := 4, count := 8 }
def TX_FRAMES_COUNT : FieldRow := { cls := .uplink, off := 0x100, hi := 31, lo := 0, acc := .ro }
def TX_OCTETS_LO_COUNT : FieldRow := { cls := .uplink, off := 0x104, hi := 31, lo := 0, acc := .ro }
def TX_OCTETS_HI_COUNT : FieldRow := { cls := .uplink, off := 0x108, hi := 31, lo := 0, acc := .ro }
def RX_FRAMES_COUNT : FieldRow := { cls := .uplink, off := 0x10C, hi := 31, lo := 0, acc := .ro }
def RX_OCTETS_LO_COUNT : FieldRow := { cls := .uplink, off := 0x110, hi := 31, lo := 0, acc := .ro }
def RX_OCTETS_HI_COUNT : FieldRow := { cls := .uplink, off := 0x114, hi := 31, lo := 0, acc := .ro }
def RX_FCS_ERR_COUNT : FieldRow := { cls := .uplink, off := 0x118, hi := 31, lo := 0, acc := .ro }
def RX_CODE_ERR_COUNT : FieldRow := { cls := .uplink, off := 0x11C, hi := 31, lo := 0, acc := .ro }
def RX_RUNT_COUNT : FieldRow := { cls := .uplink, off := 0x120, hi := 31, lo := 0, acc := .ro }
def RX_OVERSIZE_COUNT : FieldRow := { cls := .uplink, off := 0x124, hi := 31, lo := 0, acc := .ro }
def RX_NOBUF_COUNT : FieldRow := { cls := .uplink, off := 0x128, hi := 31, lo := 0, acc := .ro }
def RX_PAUSE_COUNT : FieldRow := { cls := .uplink, off := 0x12C, hi := 31, lo := 0, acc := .ro }
def RX_PAUSE_IGNORED_COUNT : FieldRow := { cls := .uplink, off := 0x130, hi := 31, lo := 0, acc := .ro }
def RX_MAC_CTRL_OTHER_COUNT : FieldRow := { cls := .uplink, off := 0x134, hi := 31, lo := 0, acc := .ro }
def TX_PAUSE_COUNT : FieldRow := { cls := .uplink, off := 0x138, hi := 31, lo := 0, acc := .ro }
def TX_UNDERRUN_COUNT : FieldRow := { cls := .uplink, off := 0x13C, hi := 31, lo := 0, acc := .ro }
def TX_LINK_ABORT_COUNT : FieldRow := { cls := .uplink, off := 0x140, hi := 31, lo := 0, acc := .ro }
def FEC_CORRECTED_COUNT : FieldRow := { cls := .uplink, off := 0x144, hi := 31, lo := 0, acc := .ro }
def FEC_UNCORRECTED_COUNT : FieldRow := { cls := .uplink, off := 0x148, hi := 31, lo := 0, acc := .ro }
def TX_PREEMPTS_COUNT : FieldRow := { cls := .uplink, off := 0x14C, hi := 31, lo := 0, acc := .ro }
def RX_ASSY_OK_COUNT : FieldRow := { cls := .uplink, off := 0x150, hi := 31, lo := 0, acc := .ro }
def RX_ASSY_ERR_COUNT : FieldRow := { cls := .uplink, off := 0x154, hi := 31, lo := 0, acc := .ro }
def RX_SMD_ERR_COUNT : FieldRow := { cls := .uplink, off := 0x158, hi := 31, lo := 0, acc := .ro }
def RX_FRAG_COUNT_ERR_COUNT : FieldRow := { cls := .uplink, off := 0x15C, hi := 31, lo := 0, acc := .ro }
def VERIFY_TX_COUNT : FieldRow := { cls := .uplink, off := 0x160, hi := 31, lo := 0, acc := .ro }
def LINK_DOWNS_COUNT : FieldRow := { cls := .uplink, off := 0x164, hi := 31, lo := 0, acc := .ro }
def PAUSED_TIME_US : FieldRow := { cls := .uplink, off := 0x168, hi := 31, lo := 0, acc := .ro }

def rows0 : List FieldRow :=
  [CFG_SPEED, CFG_FEC_EN, CFG_LOOPBACK, CFG_MAX_FRAME,
   MAC_LO_ADDR, MAC_HI_ADDR, PRECLASS_MAP_PCP, PRECLASS_MAP_DEFAULT,
   PAUSE_CFG_RX_EN, PAUSE_CFG_TX_EN, PAUSE_CFG_EXPRESS_EXEMPT, PAUSE_CFG_TX_QUANTA,
   PAUSE_STATUS_PAUSED, PAUSE_STATUS_XOFF_SENT, PAUSE_STATUS_REMAIN, PAUSE_REFRESH_QUANTA,
   MERGE_CFG_EN, MERGE_CFG_VERIFY_DIS, MERGE_CFG_ADD_FRAG_SIZE, MERGE_CFG_VERIFY_TIME_MS,
   MERGE_CFG_PREEMPT_CLASS, MERGE_CFG_PREEMPT_CLASS7, MERGE_STATUS_VERIFY_STATE, MERGE_STATUS_ACTIVE,
   MERGE_STATUS_ATTEMPTS, LINK_STATUS_STATE, LINK_STATUS_BLOCK_LOCK, LINK_STATUS_FEC_LOCK,
   LINK_STATUS_HI_BER, LINK_STATUS_LOCAL_FAULT]
def rows1 : List FieldRow :=
  [LINK_STATUS_REMOTE_FAULT, LINK_STATUS_SPEED_IN_FORCE, LINK_STATUS_FEC_IN_FORCE, LINK_STATUS_NO_LEAVE,
   LINK_STATUS_CFG_ERR, SERDES_TX_PRE, SERDES_TX_MAIN, SERDES_TX_POST,
   SERDES_RX_ADAPT_EN, SERDES_RX_CTLE, TX_START_THRESH_BLOCKS, TX_FRAMES_COUNT,
   TX_OCTETS_LO_COUNT, TX_OCTETS_HI_COUNT, RX_FRAMES_COUNT, RX_OCTETS_LO_COUNT,
   RX_OCTETS_HI_COUNT, RX_FCS_ERR_COUNT, RX_CODE_ERR_COUNT, RX_RUNT_COUNT,
   RX_OVERSIZE_COUNT, RX_NOBUF_COUNT, RX_PAUSE_COUNT, RX_PAUSE_IGNORED_COUNT,
   RX_MAC_CTRL_OTHER_COUNT, TX_PAUSE_COUNT, TX_UNDERRUN_COUNT, TX_LINK_ABORT_COUNT,
   FEC_CORRECTED_COUNT, FEC_UNCORRECTED_COUNT]
def rows2 : List FieldRow :=
  [TX_PREEMPTS_COUNT, RX_ASSY_OK_COUNT, RX_ASSY_ERR_COUNT, RX_SMD_ERR_COUNT,
   RX_FRAG_COUNT_ERR_COUNT, VERIFY_TX_COUNT, LINK_DOWNS_COUNT, PAUSED_TIME_US]
/-- The fields of the UPLINK page, in the order of the spec's tables. -/
def rows : List FieldRow := rows0 ++ rows1 ++ rows2

end UPLINK

/-! ### The CARDER page (Tables 07.12 and 07.13) -/

namespace CARDER

def CFG_MIRROR_CLASS : FieldRow := { cls := .carder, off := 0x040, hi := 2, lo := 0, acc := .rw }
def BANK_STATUS_ACTIVE : FieldRow := { cls := .carder, off := 0x044, hi := 0, lo := 0, acc := .ro }
def BANK_STATUS_BANK_FREE : FieldRow := { cls := .carder, off := 0x044, hi := 1, lo := 1, acc := .ro, rst := .const 1 }
def BANK_STATUS_INIT_DONE : FieldRow := { cls := .carder, off := 0x044, hi := 2, lo := 2, acc := .ro }
def BANK_STATUS_LAST_REFUSE : FieldRow := { cls := .carder, off := 0x044, hi := 7, lo := 4, acc := .ro }
def BANK_STATUS_EPOCH : FieldRow := { cls := .carder, off := 0x044, hi := 31, lo := 16, acc := .ro }
def BANK_CMD_EXPECT_EPOCH : FieldRow := { cls := .carder, off := 0x048, hi := 15, lo := 0, acc := .wo }
def BANK_CMD_SWITCH : FieldRow := { cls := .carder, off := 0x048, hi := 16, lo := 16, acc := .wo }
def BANK_CMD_KEY : FieldRow := { cls := .carder, off := 0x048, hi := 31, lo := 24, acc := .wo }
def INFLIGHT_BANK_A : FieldRow := { cls := .carder, off := 0x04C, hi := 15, lo := 0, acc := .ro }
def INFLIGHT_BANK_B : FieldRow := { cls := .carder, off := 0x04C, hi := 31, lo := 16, acc := .ro }
def BULK_ADDR_LO_ADDR : FieldRow := { cls := .carder, off := 0x050, hi := 31, lo := 0, acc := .rw }
def BULK_ADDR_HI_ADDR : FieldRow := { cls := .carder, off := 0x054, hi := 31, lo := 0, acc := .rw }
def BULK_COUNT_RECORDS : FieldRow := { cls := .carder, off := 0x058, hi := 23, lo := 0, acc := .rw }
def BULK_CMD_GO : FieldRow := { cls := .carder, off := 0x05C, hi := 0, lo := 0, acc := .wo }
def BULK_CMD_ABORT : FieldRow := { cls := .carder, off := 0x05C, hi := 1, lo := 1, acc := .wo }
def BULK_STATUS_STATE : FieldRow := { cls := .carder, off := 0x060, hi := 2, lo := 0, acc := .ro }
def BULK_STATUS_DONE : FieldRow := { cls := .carder, off := 0x060, hi := 31, lo := 8, acc := .ro }
def BULK_REFUSED_COUNT : FieldRow := { cls := .carder, off := 0x064, hi := 31, lo := 0, acc := .ro }
def PASSES_COUNT : FieldRow := { cls := .carder, off := 0x080, hi := 31, lo := 0, acc := .ro }
def RECIRCS_COUNT : FieldRow := { cls := .carder, off := 0x084, hi := 31, lo := 0, acc := .ro }
def TRAPS_COUNT : FieldRow := { cls := .carder, off := 0x088, hi := 31, lo := 0, acc := .ro }
def MIRRORS_COUNT : FieldRow := { cls := .carder, off := 0x08C, hi := 31, lo := 0, acc := .ro }
def MIRROR_DROP_COUNT : FieldRow := { cls := .carder, off := 0x090, hi := 31, lo := 0, acc := .ro }
def LENERR_DROP_COUNT : FieldRow := { cls := .carder, off := 0x094, hi := 31, lo := 0, acc := .ro }
def DEPTH_EXCEEDED_COUNT : FieldRow := { cls := .carder, off := 0x098, hi := 31, lo := 0, acc := .ro }
def LEN_MISMATCH_COUNT : FieldRow := { cls := .carder, off := 0x09C, hi := 31, lo := 0, acc := .ro }
def FRAG_COUNT : FieldRow := { cls := .carder, off := 0x0A0, hi := 31, lo := 0, acc := .ro }
def GRAPH_INVALID_COUNT : FieldRow := { cls := .carder, off := 0x0A4, hi := 31, lo := 0, acc := .ro }
def RECIRC_LIMIT_COUNT : FieldRow := { cls := .carder, off := 0x0A8, hi := 31, lo := 0, acc := .ro }
def INVALID_OUTPUT_COUNT : FieldRow := { cls := .carder, off := 0x0AC, hi := 31, lo := 0, acc := .ro }
def ACTION_INVALID_COUNT : FieldRow := { cls := .carder, off := 0x0B0, hi := 31, lo := 0, acc := .ro }
def EDIT_SKIPPED_COUNT : FieldRow := { cls := .carder, off := 0x0B4, hi := 31, lo := 0, acc := .ro }
def EDIT_OVERSIZE_COUNT : FieldRow := { cls := .carder, off := 0x0B8, hi := 31, lo := 0, acc := .ro }
def LANE_MISMATCH_COUNT : FieldRow := { cls := .carder, off := 0x0BC, hi := 31, lo := 0, acc := .ro }
def ECC_DROP_COUNT : FieldRow := { cls := .carder, off := 0x0C0, hi := 31, lo := 0, acc := .ro }
def HANK_FIXED_COUNT : FieldRow := { cls := .carder, off := 0x0C4, hi := 31, lo := 0, acc := .ro }
def BANK_SWITCHES_COUNT : FieldRow := { cls := .carder, off := 0x0C8, hi := 31, lo := 0, acc := .ro }
def WINDOW_STALL_COUNT : FieldRow := { cls := .carder, off := 0x0CC, hi := 31, lo := 0, acc := .ro }
def DROP_ACTION_COUNT : FieldRow := { cls := .carder, off := 0x0D0, hi := 31, lo := 0, acc := .ro }
def MISS_DROP_COUNT : FieldRow := { cls := .carder, off := 0x0D4, hi := 31, lo := 0, acc := .ro }
def MISS_DEFAULT_COUNT : FieldRow := { cls := .carder, off := 0x0D8, hi := 31, lo := 0, acc := .ro }

def rows0 : List FieldRow :=
  [CFG_MIRROR_CLASS, BANK_STATUS_ACTIVE, BANK_STATUS_BANK_FREE, BANK_STATUS_INIT_DONE,
   BANK_STATUS_LAST_REFUSE, BANK_STATUS_EPOCH, BANK_CMD_EXPECT_EPOCH, BANK_CMD_SWITCH,
   BANK_CMD_KEY, INFLIGHT_BANK_A, INFLIGHT_BANK_B, BULK_ADDR_LO_ADDR,
   BULK_ADDR_HI_ADDR, BULK_COUNT_RECORDS, BULK_CMD_GO, BULK_CMD_ABORT,
   BULK_STATUS_STATE, BULK_STATUS_DONE, BULK_REFUSED_COUNT, PASSES_COUNT,
   RECIRCS_COUNT, TRAPS_COUNT, MIRRORS_COUNT, MIRROR_DROP_COUNT,
   LENERR_DROP_COUNT, DEPTH_EXCEEDED_COUNT, LEN_MISMATCH_COUNT, FRAG_COUNT,
   GRAPH_INVALID_COUNT, RECIRC_LIMIT_COUNT]
def rows1 : List FieldRow :=
  [INVALID_OUTPUT_COUNT, ACTION_INVALID_COUNT, EDIT_SKIPPED_COUNT, EDIT_OVERSIZE_COUNT,
   LANE_MISMATCH_COUNT, ECC_DROP_COUNT, HANK_FIXED_COUNT, BANK_SWITCHES_COUNT,
   WINDOW_STALL_COUNT, DROP_ACTION_COUNT, MISS_DROP_COUNT, MISS_DEFAULT_COUNT]
/-- The fields of the CARDER page, in the order of the spec's tables. -/
def rows : List FieldRow := rows0 ++ rows1

end CARDER

/-! ### The RULEWIN page (Tables 07.14 and 07.15 (page 0x021)) -/

namespace RULEWIN

def ENTRY_SEL_INDEX : FieldRow := { cls := .rulewin, off := 0x040, hi := 16, lo := 0, acc := .rw }
def ENTRY_SEL_TABLE : FieldRow := { cls := .rulewin, off := 0x040, hi := 21, lo := 20, acc := .rw }
def ENTRY_STATUS_LAST_CAUSE : FieldRow := { cls := .rulewin, off := 0x044, hi := 3, lo := 0, acc := .ro }
def ENTRY_STATUS_LAST_REFUSED : FieldRow := { cls := .rulewin, off := 0x044, hi := 4, lo := 4, acc := .ro }
def ENTRY_WORD_DATA : FieldRow := { cls := .rulewin, off := 0x080, hi := 31, lo := 0, acc := .rw, stride := 4, count := 32 }

def rows0 : List FieldRow :=
  [ENTRY_SEL_INDEX, ENTRY_SEL_TABLE, ENTRY_STATUS_LAST_CAUSE, ENTRY_STATUS_LAST_REFUSED,
   ENTRY_WORD_DATA]
/-- The fields of the RULEWIN page, in the order of the spec's tables. -/
def rows : List FieldRow := rows0

end RULEWIN

/-! ### The BANKWIN page (Tables 07.14 and 07.15 (page 0x022)) -/

namespace BANKWIN

def BANK_SEL_BANK : FieldRow := { cls := .bankwin, off := 0x040, hi := 0, lo := 0, acc := .rw }
def BANK_SEL_NODE : FieldRow := { cls := .bankwin, off := 0x040, hi := 15, lo := 8, acc := .rw }
def NODE_WORD_DATA : FieldRow := { cls := .bankwin, off := 0x080, hi := 31, lo := 0, acc := .rw, stride := 4, count := 64 }
def PROFILE_CHUNK0 : FieldRow := { cls := .bankwin, off := 0x200, hi := 3, lo := 0, acc := .rw, stride := 4, count := 8 }
def PROFILE_CHUNK1 : FieldRow := { cls := .bankwin, off := 0x200, hi := 7, lo := 4, acc := .rw, stride := 4, count := 8 }
def PROFILE_CHUNK2 : FieldRow := { cls := .bankwin, off := 0x200, hi := 11, lo := 8, acc := .rw, stride := 4, count := 8 }
def PROFILE_EXACT_EN : FieldRow := { cls := .bankwin, off := 0x200, hi := 16, lo := 16, acc := .rw, stride := 4, count := 8 }
def PROFILE_TERN_EN : FieldRow := { cls := .bankwin, off := 0x200, hi := 17, lo := 17, acc := .rw, stride := 4, count := 8 }
def PORT_DEFAULT_START_NODE : FieldRow := { cls := .bankwin, off := 0x400, hi := 7, lo := 0, acc := .rw, stride := 4, count := 129 }
def PORT_DEFAULT_MISS_EN : FieldRow := { cls := .bankwin, off := 0x400, hi := 8, lo := 8, acc := .rw, stride := 4, count := 129 }
def PORT_DEFAULT_LENERR_MODE : FieldRow := { cls := .bankwin, off := 0x400, hi := 9, lo := 9, acc := .rw, stride := 4, count := 129 }
def PORT_DEFAULT_MISS_ACTION : FieldRow := { cls := .bankwin, off := 0x400, hi := 30, lo := 16, acc := .rw, stride := 4, count := 129 }

def rows0 : List FieldRow :=
  [BANK_SEL_BANK, BANK_SEL_NODE, NODE_WORD_DATA, PROFILE_CHUNK0,
   PROFILE_CHUNK1, PROFILE_CHUNK2, PROFILE_EXACT_EN, PROFILE_TERN_EN,
   PORT_DEFAULT_START_NODE, PORT_DEFAULT_MISS_EN, PORT_DEFAULT_LENERR_MODE, PORT_DEFAULT_MISS_ACTION]
/-- The fields of the BANKWIN page, in the order of the spec's tables. -/
def rows : List FieldRow := rows0

end BANKWIN

/-! ### The REEL page (Tables 08.11 and 08.12) -/

namespace REEL

def CFG_C7_DEMOTE_CLASS : FieldRow := { cls := .reel, off := 0x040, hi := 2, lo := 0, acc := .rw, rst := .const 6 }
def TICK_COUNT_COUNT : FieldRow := { cls := .reel, off := 0x044, hi := 31, lo := 0, acc := .ro }
def BUF_CFG_C7_RESERVE : FieldRow := { cls := .reel, off := 0x048, hi := 13, lo := 0, acc := .rw, rst := .const 512 }
def BUF_STATUS_SHARED_FREE : FieldRow := { cls := .reel, off := 0x04C, hi := 15, lo := 0, acc := .ro, rst := .const 30720 }
def BUF_STATUS_C7_USED : FieldRow := { cls := .reel, off := 0x04C, hi := 31, lo := 16, acc := .ro }
def PORT_LIMITS_UPL_LIMIT : FieldRow := { cls := .reel, off := 0x050, hi := 15, lo := 0, acc := .rw, rst := .const 8192 }
def PORT_LIMITS_HOST_LIMIT : FieldRow := { cls := .reel, off := 0x050, hi := 31, lo := 16, acc := .rw, rst := .const 4096 }
def SEG_LIMITS_SEG_ING_LIMIT : FieldRow := { cls := .reel, off := 0x054, hi := 7, lo := 0, acc := .rw, rst := .const 64 }
def SEG_LIMITS_SEG_QLIMIT : FieldRow := { cls := .reel, off := 0x054, hi := 15, lo := 8, acc := .rw, rst := .const 16 }
def HOST_QLIMIT_CELLS : FieldRow := { cls := .reel, off := 0x058, hi := 15, lo := 0, acc := .rw, rst := .const 4096 }
def XOFF_CFG_XOFF_CELLS : FieldRow := { cls := .reel, off := 0x05C, hi := 15, lo := 0, acc := .rw, rst := .const 6144 }
def XOFF_CFG_XON_CELLS : FieldRow := { cls := .reel, off := 0x05C, hi := 31, lo := 16, acc := .rw, rst := .const 4096 }
def POOL_XOFF_FREE : FieldRow := { cls := .reel, off := 0x060, hi := 15, lo := 0, acc := .rw, rst := .const 1024 }
def SHAPE_CFG_MAX_WAIT_US : FieldRow := { cls := .reel, off := 0x064, hi := 15, lo := 0, acc := .rw, rst := .const 1000 }
def CTX_SEL_INDEX : FieldRow := { cls := .reel, off := 0x068, hi := 17, lo := 0, acc := .rw }
def CTX_CMD_READ : FieldRow := { cls := .reel, off := 0x06C, hi := 0, lo := 0, acc := .wo }
def CTX_CMD_WRITE : FieldRow := { cls := .reel, off := 0x06C, hi := 1, lo := 1, acc := .wo }
def CTX_CMD_WORD_MASK : FieldRow := { cls := .reel, off := 0x06C, hi := 31, lo := 16, acc := .wo }
def CTX_STATUS_BUSY : FieldRow := { cls := .reel, off := 0x070, hi := 0, lo := 0, acc := .ro }
def CTX_STATUS_REFUSED : FieldRow := { cls := .reel, off := 0x070, hi := 1, lo := 1, acc := .ro }
def CTX_STATUS_CAUSE : FieldRow := { cls := .reel, off := 0x070, hi := 5, lo := 4, acc := .ro }
def CTX_DATA_DATA : FieldRow := { cls := .reel, off := 0x080, hi := 31, lo := 0, acc := .rw, stride := 4, count := 16 }
def C7_BUDGET_NS : FieldRow := { cls := .reel, off := 0x074, hi := 15, lo := 0, acc := .rw, rst := .const 620 }
def C7_ADMIT_CMD_CONTEXT : FieldRow := { cls := .reel, off := 0x078, hi := 17, lo := 0, acc := .wo }
def C7_ADMIT_CMD_OP : FieldRow := { cls := .reel, off := 0x078, hi := 19, lo := 18, acc := .wo }
def C7_ADMIT_CMD_EGRESS : FieldRow := { cls := .reel, off := 0x078, hi := 27, lo := 20, acc := .wo }
def C7_ADMIT_STATUS_STATE : FieldRow := { cls := .reel, off := 0x07C, hi := 1, lo := 0, acc := .ro }
def C7_ADMIT_STATUS_CAUSE : FieldRow := { cls := .reel, off := 0x07C, hi := 7, lo := 4, acc := .ro }
def METER_YELLOW_COUNT : FieldRow := { cls := .reel, off := 0x0C0, hi := 31, lo := 0, acc := .ro }
def METER_RED_COUNT : FieldRow := { cls := .reel, off := 0x0C4, hi := 31, lo := 0, acc := .ro }
def METER_DROP_COUNT : FieldRow := { cls := .reel, off := 0x0C8, hi := 31, lo := 0, acc := .ro }
def SHAPE_DROP_COUNT : FieldRow := { cls := .reel, off := 0x0CC, hi := 31, lo := 0, acc := .ro }
def C7_DEMOTED_COUNT : FieldRow := { cls := .reel, off := 0x0D0, hi := 31, lo := 0, acc := .ro }
def C7_DISPATCH_LATE_COUNT : FieldRow := { cls := .reel, off := 0x0D4, hi := 31, lo := 0, acc := .ro }
def C7_ADMITTED_COUNT : FieldRow := { cls := .reel, off := 0x0D8, hi := 17, lo := 0, acc := .ro }
def SEG_QDROP_COUNT : FieldRow := { cls := .reel, off := 0x0DC, hi := 31, lo := 0, acc := .ro }
def SEG_NOBUF_COUNT : FieldRow := { cls := .reel, off := 0x0E0, hi := 31, lo := 0, acc := .ro }
def HOST_QDROP_COUNT : FieldRow := { cls := .reel, off := 0x0E4, hi := 31, lo := 0, acc := .ro }
def BUF_DROP_COUNT : FieldRow := { cls := .reel, off := 0x0E8, hi := 31, lo := 0, acc := .ro }
def LT_IGNORED_COUNT : FieldRow := { cls := .reel, off := 0x0EC, hi := 31, lo := 0, acc := .ro }

def rows0 : List FieldRow :=
  [CFG_C7_DEMOTE_CLASS, TICK_COUNT_COUNT, BUF_CFG_C7_RESERVE, BUF_STATUS_SHARED_FREE,
   BUF_STATUS_C7_USED, PORT_LIMITS_UPL_LIMIT, PORT_LIMITS_HOST_LIMIT, SEG_LIMITS_SEG_ING_LIMIT,
   SEG_LIMITS_SEG_QLIMIT, HOST_QLIMIT_CELLS, XOFF_CFG_XOFF_CELLS, XOFF_CFG_XON_CELLS,
   POOL_XOFF_FREE, SHAPE_CFG_MAX_WAIT_US, CTX_SEL_INDEX, CTX_CMD_READ,
   CTX_CMD_WRITE, CTX_CMD_WORD_MASK, CTX_STATUS_BUSY, CTX_STATUS_REFUSED,
   CTX_STATUS_CAUSE, CTX_DATA_DATA, C7_BUDGET_NS, C7_ADMIT_CMD_CONTEXT,
   C7_ADMIT_CMD_OP, C7_ADMIT_CMD_EGRESS, C7_ADMIT_STATUS_STATE, C7_ADMIT_STATUS_CAUSE,
   METER_YELLOW_COUNT, METER_RED_COUNT]
def rows1 : List FieldRow :=
  [METER_DROP_COUNT, SHAPE_DROP_COUNT, C7_DEMOTED_COUNT, C7_DISPATCH_LATE_COUNT,
   C7_ADMITTED_COUNT, SEG_QDROP_COUNT, SEG_NOBUF_COUNT, HOST_QDROP_COUNT,
   BUF_DROP_COUNT, LT_IGNORED_COUNT]
/-- The fields of the REEL page, in the order of the spec's tables. -/
def rows : List FieldRow := rows0 ++ rows1

end REEL

/-! ### The REELGATE page (Tables 08.13 and 08.14) -/

namespace REELGATE

def GATE_CTRL_ENABLE : FieldRow := { cls := .reelgate, off := 0x040, hi := 0, lo := 0, acc := .rw }
def GATE_CTRL_CONFIG_CHANGE : FieldRow := { cls := .reelgate, off := 0x040, hi := 1, lo := 1, acc := .wo }
def GATE_CTRL_CANCEL : FieldRow := { cls := .reelgate, off := 0x040, hi := 2, lo := 2, acc := .wo }
def GATE_CTRL_FORCE : FieldRow := { cls := .reelgate, off := 0x040, hi := 3, lo := 3, acc := .wo }
def GATE_CTRL_LT_PROTECT : FieldRow := { cls := .reelgate, off := 0x040, hi := 4, lo := 4, acc := .rw, rst := .const 1 }
def GATE_CTRL_DOWN_POLICY : FieldRow := { cls := .reelgate, off := 0x040, hi := 5, lo := 5, acc := .rw }
def GATE_CTRL_LT_MODE : FieldRow := { cls := .reelgate, off := 0x040, hi := 15, lo := 8, acc := .rw }
def GATE_STATUS_PENDING : FieldRow := { cls := .reelgate, off := 0x044, hi := 0, lo := 0, acc := .ro }
def GATE_STATUS_ADMIN_BUSY : FieldRow := { cls := .reelgate, off := 0x044, hi := 1, lo := 1, acc := .ro }
def GATE_STATUS_OPER_VALID : FieldRow := { cls := .reelgate, off := 0x044, hi := 2, lo := 2, acc := .ro }
def GATE_STATUS_HOLD : FieldRow := { cls := .reelgate, off := 0x044, hi := 3, lo := 3, acc := .ro }
def GATE_STATUS_GATES : FieldRow := { cls := .reelgate, off := 0x044, hi := 15, lo := 8, acc := .ro, rst := .const 255 }
def GATE_STATUS_ENTRY : FieldRow := { cls := .reelgate, off := 0x044, hi := 25, lo := 16, acc := .ro }
def GATE_STATUS_CAUSE : FieldRow := { cls := .reelgate, off := 0x044, hi := 31, lo := 28, acc := .ro }
def ADMIN_BASE_SEC_LO_SEC : FieldRow := { cls := .reelgate, off := 0x048, hi := 31, lo := 0, acc := .rws }
def ADMIN_BASE_SEC_HI_SEC : FieldRow := { cls := .reelgate, off := 0x04C, hi := 15, lo := 0, acc := .rws }
def ADMIN_BASE_NS_NS : FieldRow := { cls := .reelgate, off := 0x050, hi := 29, lo := 0, acc := .rws }
def ADMIN_CYCLE_NS_NS : FieldRow := { cls := .reelgate, off := 0x054, hi := 29, lo := 0, acc := .rws, rst := .const 1000000 }
def ADMIN_CYCLE_EXT_NS_NS : FieldRow := { cls := .reelgate, off := 0x058, hi := 29, lo := 0, acc := .rws }
def ADMIN_LEN_LEN : FieldRow := { cls := .reelgate, off := 0x05C, hi := 10, lo := 0, acc := .rws }
def OPER_BASE_SEC_LO_SEC : FieldRow := { cls := .reelgate, off := 0x060, hi := 31, lo := 0, acc := .ro }
def OPER_BASE_SEC_HI_SEC : FieldRow := { cls := .reelgate, off := 0x064, hi := 15, lo := 0, acc := .ro }
def OPER_BASE_NS_NS : FieldRow := { cls := .reelgate, off := 0x068, hi := 29, lo := 0, acc := .ro }
def OPER_CYCLE_NS_NS : FieldRow := { cls := .reelgate, off := 0x06C, hi := 29, lo := 0, acc := .ro }
def OPER_LEN_LEN : FieldRow := { cls := .reelgate, off := 0x070, hi := 10, lo := 0, acc := .ro }
def CHANGE_SEC_LO_SEC : FieldRow := { cls := .reelgate, off := 0x074, hi := 31, lo := 0, acc := .ro }
def CHANGE_SEC_HI_SEC : FieldRow := { cls := .reelgate, off := 0x078, hi := 15, lo := 0, acc := .ro }
def CHANGE_NS_NS : FieldRow := { cls := .reelgate, off := 0x07C, hi := 29, lo := 0, acc := .ro }
def SHAPER_CFG_RATE : FieldRow := { cls := .reelgate, off := 0x080, hi := 24, lo := 0, acc := .rw, stride := 4, count := 8 }
def SHAPER_CFG_MODE : FieldRow := { cls := .reelgate, off := 0x080, hi := 31, lo := 30, acc := .rw, stride := 4, count := 8 }
def SHAPER_BURST_OCTETS : FieldRow := { cls := .reelgate, off := 0x0A0, hi := 19, lo := 0, acc := .rw, rst := .const 9600, stride := 4, count := 8 }
def QLIMIT_CELLS : FieldRow := { cls := .reelgate, off := 0x0C0, hi := 15, lo := 0, acc := .rw, rst := .const 4096, stride := 4, count := 8 }
def LATE_TOL_NS : FieldRow := { cls := .reelgate, off := 0x0E0, hi := 31, lo := 0, acc := .rw, rst := .const 1000 }
def LT_MAX_AHEAD_US : FieldRow := { cls := .reelgate, off := 0x0E4, hi := 31, lo := 0, acc := .rw, rst := .const 1000000 }
def C7_GATE_WAIT_NS : FieldRow := { cls := .reelgate, off := 0x0E8, hi := 31, lo := 0, acc := .ro }
def C7_OPEN_FRACTION : FieldRow := { cls := .reelgate, off := 0x0EC, hi := 16, lo := 0, acc := .ro, rst := .const 65536 }
def C7_RATE_SUM_KBPS : FieldRow := { cls := .reelgate, off := 0x0F0, hi := 31, lo := 0, acc := .ro }
def C7_BURST_SUM_CNS : FieldRow := { cls := .reelgate, off := 0x0F4, hi := 31, lo := 0, acc := .ro }
def C7_COND_OK : FieldRow := { cls := .reelgate, off := 0x0F8, hi := 0, lo := 0, acc := .ro }
def C7_COND_FAIL : FieldRow := { cls := .reelgate, off := 0x0F8, hi := 9, lo := 1, acc := .ro, rst := .const 1 }
def GCL_WIN_SECTION : FieldRow := { cls := .reelgate, off := 0x0FC, hi := 2, lo := 0, acc := .rw }
def GCL_WIN_VIEW_OPER : FieldRow := { cls := .reelgate, off := 0x0FC, hi := 3, lo := 3, acc := .rw }
def QDROP_COUNT : FieldRow := { cls := .reelgate, off := 0x100, hi := 31, lo := 0, acc := .ro }
def LT_ONTIME_COUNT : FieldRow := { cls := .reelgate, off := 0x104, hi := 31, lo := 0, acc := .ro }
def LT_LATE_COUNT : FieldRow := { cls := .reelgate, off := 0x108, hi := 31, lo := 0, acc := .ro }
def LT_EXPIRED_COUNT : FieldRow := { cls := .reelgate, off := 0x10C, hi := 31, lo := 0, acc := .ro }
def LT_FAR_COUNT : FieldRow := { cls := .reelgate, off := 0x110, hi := 31, lo := 0, acc := .ro }
def GATE_NOFIT_COUNT : FieldRow := { cls := .reelgate, off := 0x114, hi := 31, lo := 0, acc := .ro }
def LINK_FLUSH_COUNT : FieldRow := { cls := .reelgate, off := 0x118, hi := 31, lo := 0, acc := .ro }
def XOFF_COUNT_COUNT : FieldRow := { cls := .reelgate, off := 0x11C, hi := 31, lo := 0, acc := .ro }
def BUF_USE_SHARED : FieldRow := { cls := .reelgate, off := 0x120, hi := 15, lo := 0, acc := .ro }
def BUF_USE_HEADROOM : FieldRow := { cls := .reelgate, off := 0x120, hi := 31, lo := 16, acc := .ro }

def rows0 : List FieldRow :=
  [GATE_CTRL_ENABLE, GATE_CTRL_CONFIG_CHANGE, GATE_CTRL_CANCEL, GATE_CTRL_FORCE,
   GATE_CTRL_LT_PROTECT, GATE_CTRL_DOWN_POLICY, GATE_CTRL_LT_MODE, GATE_STATUS_PENDING,
   GATE_STATUS_ADMIN_BUSY, GATE_STATUS_OPER_VALID, GATE_STATUS_HOLD, GATE_STATUS_GATES,
   GATE_STATUS_ENTRY, GATE_STATUS_CAUSE, ADMIN_BASE_SEC_LO_SEC, ADMIN_BASE_SEC_HI_SEC,
   ADMIN_BASE_NS_NS, ADMIN_CYCLE_NS_NS, ADMIN_CYCLE_EXT_NS_NS, ADMIN_LEN_LEN,
   OPER_BASE_SEC_LO_SEC, OPER_BASE_SEC_HI_SEC, OPER_BASE_NS_NS, OPER_CYCLE_NS_NS,
   OPER_LEN_LEN, CHANGE_SEC_LO_SEC, CHANGE_SEC_HI_SEC, CHANGE_NS_NS,
   SHAPER_CFG_RATE, SHAPER_CFG_MODE]
def rows1 : List FieldRow :=
  [SHAPER_BURST_OCTETS, QLIMIT_CELLS, LATE_TOL_NS, LT_MAX_AHEAD_US,
   C7_GATE_WAIT_NS, C7_OPEN_FRACTION, C7_RATE_SUM_KBPS, C7_BURST_SUM_CNS,
   C7_COND_OK, C7_COND_FAIL, GCL_WIN_SECTION, GCL_WIN_VIEW_OPER,
   QDROP_COUNT, LT_ONTIME_COUNT, LT_LATE_COUNT, LT_EXPIRED_COUNT,
   LT_FAR_COUNT, GATE_NOFIT_COUNT, LINK_FLUSH_COUNT, XOFF_COUNT_COUNT,
   BUF_USE_SHARED, BUF_USE_HEADROOM]
/-- The fields of the REELGATE page, in the order of the spec's tables. -/
def rows : List FieldRow := rows0 ++ rows1

end REELGATE

/-! ### The PLY page (Tables 09.5 and 09.6) -/

namespace PLY

def CFG_LATENT_TEST_MS : FieldRow := { cls := .ply, off := 0x040, hi := 15, lo := 0, acc := .rw, rst := .const 2000 }
def CFG_LATENT_RESET_MS : FieldRow := { cls := .ply, off := 0x040, hi := 31, lo := 16, acc := .rw, rst := .const 30000 }
def MS_COUNT_MS : FieldRow := { cls := .ply, off := 0x044, hi := 15, lo := 0, acc := .ro }
def CNT_SEL_INDEX : FieldRow := { cls := .ply, off := 0x048, hi := 9, lo := 0, acc := .rw }
def CNT_SEL_CLEAR : FieldRow := { cls := .ply, off := 0x048, hi := 31, lo := 31, acc := .wo }
def CNT_WORD_DATA : FieldRow := { cls := .ply, off := 0x080, hi := 31, lo := 0, acc := .rw, stride := 4, count := 16 }
def PASSED_COUNT : FieldRow := { cls := .ply, off := 0x0C0, hi := 31, lo := 0, acc := .ro }
def DISCARDED_COUNT : FieldRow := { cls := .ply, off := 0x0C4, hi := 31, lo := 0, acc := .ro }
def OUT_OF_ORDER_COUNT : FieldRow := { cls := .ply, off := 0x0C8, hi := 31, lo := 0, acc := .ro }
def ROGUE_COUNT : FieldRow := { cls := .ply, off := 0x0CC, hi := 31, lo := 0, acc := .ro }
def LOST_COUNT : FieldRow := { cls := .ply, off := 0x0D0, hi := 31, lo := 0, acc := .ro }
def TAGLESS_COUNT : FieldRow := { cls := .ply, off := 0x0D4, hi := 31, lo := 0, acc := .ro }
def RESETS_COUNT : FieldRow := { cls := .ply, off := 0x0D8, hi := 31, lo := 0, acc := .ro }
def LATENT_ERRORS_COUNT : FieldRow := { cls := .ply, off := 0x0DC, hi := 31, lo := 0, acc := .ro }
def GEN_SEQS_COUNT : FieldRow := { cls := .ply, off := 0x0E0, hi := 31, lo := 0, acc := .ro }
def GEN_OVERSIZE_COUNT : FieldRow := { cls := .ply, off := 0x0E4, hi := 31, lo := 0, acc := .ro }
def GEN_SKIPPED_COUNT : FieldRow := { cls := .ply, off := 0x0E8, hi := 31, lo := 0, acc := .ro }
def REPL_COPIES_COUNT : FieldRow := { cls := .ply, off := 0x0EC, hi := 31, lo := 0, acc := .ro }
def REPL_DROP_COUNT : FieldRow := { cls := .ply, off := 0x0F0, hi := 31, lo := 0, acc := .ro }
def LINK_ERROR_COUNT : FieldRow := { cls := .ply, off := 0x0F4, hi := 31, lo := 0, acc := .ro }
def ECC_DROP_COUNT : FieldRow := { cls := .ply, off := 0x0F8, hi := 31, lo := 0, acc := .ro }
def WAKE_RESETS_COUNT : FieldRow := { cls := .ply, off := 0x0FC, hi := 31, lo := 0, acc := .ro }

def rows0 : List FieldRow :=
  [CFG_LATENT_TEST_MS, CFG_LATENT_RESET_MS, MS_COUNT_MS, CNT_SEL_INDEX,
   CNT_SEL_CLEAR, CNT_WORD_DATA, PASSED_COUNT, DISCARDED_COUNT,
   OUT_OF_ORDER_COUNT, ROGUE_COUNT, LOST_COUNT, TAGLESS_COUNT,
   RESETS_COUNT, LATENT_ERRORS_COUNT, GEN_SEQS_COUNT, GEN_OVERSIZE_COUNT,
   GEN_SKIPPED_COUNT, REPL_COPIES_COUNT, REPL_DROP_COUNT, LINK_ERROR_COUNT,
   ECC_DROP_COUNT, WAKE_RESETS_COUNT]
/-- The fields of the PLY page, in the order of the spec's tables. -/
def rows : List FieldRow := rows0

end PLY

/-! ### The HOSTQ page (Tables 10.14 and 10.15) -/

namespace HOSTQ

def SHADOW_ADDR_LO_EN : FieldRow := { cls := .hostq, off := 0x040, hi := 0, lo := 0, acc := .rw }
def SHADOW_ADDR_LO_ADDR : FieldRow := { cls := .hostq, off := 0x040, hi := 31, lo := 12, acc := .rw }
def SHADOW_ADDR_HI_ADDR : FieldRow := { cls := .hostq, off := 0x044, hi := 31, lo := 0, acc := .rw }
def RX_HOLD_LIMIT_US : FieldRow := { cls := .hostq, off := 0x048, hi := 23, lo := 0, acc := .rw, rst := .const 100 }
def STATUS_TAGS_IN_USE : FieldRow := { cls := .hostq, off := 0x04C, hi := 12, lo := 0, acc := .ro }
def STATUS_HOLD_USED : FieldRow := { cls := .hostq, off := 0x04C, hi := 27, lo := 16, acc := .ro }
def SQ_SEL_SQ : FieldRow := { cls := .hostq, off := 0x050, hi := 7, lo := 0, acc := .rw }
def SQ_BASE_LO_ADDR : FieldRow := { cls := .hostq, off := 0x054, hi := 31, lo := 12, acc := .rw, sel := .sq }
def SQ_BASE_HI_ADDR : FieldRow := { cls := .hostq, off := 0x058, hi := 31, lo := 0, acc := .rw, sel := .sq }
def SQ_CFG_SIZE_LOG2 : FieldRow := { cls := .hostq, off := 0x05C, hi := 4, lo := 0, acc := .rw, rst := .const 6, sel := .sq }
def SQ_CFG_PRECLASS : FieldRow := { cls := .hostq, off := 0x05C, hi := 7, lo := 5, acc := .rw, sel := .sq }
def SQ_CFG_WEIGHT : FieldRow := { cls := .hostq, off := 0x05C, hi := 11, lo := 8, acc := .rw, rst := .const 1, sel := .sq }
def SQ_CFG_CR : FieldRow := { cls := .hostq, off := 0x05C, hi := 17, lo := 12, acc := .rw, sel := .sq }
def SQ_CFG_MAX_INFLIGHT : FieldRow := { cls := .hostq, off := 0x05C, hi := 31, lo := 20, acc := .rw, sel := .sq }
def SQ_CMD_OP : FieldRow := { cls := .hostq, off := 0x060, hi := 2, lo := 0, acc := .wo, sel := .sq }
def SQ_CMD_KEY : FieldRow := { cls := .hostq, off := 0x060, hi := 31, lo := 16, acc := .wo, sel := .sq }
def SQ_STATUS_STATE : FieldRow := { cls := .hostq, off := 0x064, hi := 2, lo := 0, acc := .ro, sel := .sq }
def SQ_STATUS_QUIESCENT : FieldRow := { cls := .hostq, off := 0x064, hi := 3, lo := 3, acc := .ro, rst := .const 1, sel := .sq }
def SQ_STATUS_BLOCKED : FieldRow := { cls := .hostq, off := 0x064, hi := 4, lo := 4, acc := .ro, sel := .sq }
def SQ_STATUS_CAUSE : FieldRow := { cls := .hostq, off := 0x064, hi := 11, lo := 8, acc := .ro, sel := .sq }
def SQ_STATUS_INFLIGHT : FieldRow := { cls := .hostq, off := 0x064, hi := 28, lo := 16, acc := .ro, sel := .sq }
def SQ_PROD_INDEX : FieldRow := { cls := .hostq, off := 0x068, hi := 16, lo := 0, acc := .ro, sel := .sq }
def SQ_CONS_INDEX : FieldRow := { cls := .hostq, off := 0x06C, hi := 16, lo := 0, acc := .ro, sel := .sq }
def CR_SEL_CR : FieldRow := { cls := .hostq, off := 0x070, hi := 5, lo := 0, acc := .rw }
def CR_BASE_LO_ADDR : FieldRow := { cls := .hostq, off := 0x074, hi := 31, lo := 12, acc := .rw, sel := .cr }
def CR_BASE_HI_ADDR : FieldRow := { cls := .hostq, off := 0x078, hi := 31, lo := 0, acc := .rw, sel := .cr }
def CR_CFG_SIZE_LOG2 : FieldRow := { cls := .hostq, off := 0x07C, hi := 4, lo := 0, acc := .rw, rst := .const 6, sel := .cr }
def CR_CFG_PARK_LIMIT : FieldRow := { cls := .hostq, off := 0x07C, hi := 19, lo := 8, acc := .rw, rst := .const 256, sel := .cr }
def CR_RX_CFG_RX_EN : FieldRow := { cls := .hostq, off := 0x080, hi := 0, lo := 0, acc := .rw, sel := .cr }
def CR_RX_CFG_BUF_SIZE_LOG : FieldRow := { cls := .hostq, off := 0x080, hi := 3, lo := 1, acc := .rw, rst := .const 2, sel := .cr }
def CR_RX_CFG_POST_LIMIT : FieldRow := { cls := .hostq, off := 0x080, hi := 30, lo := 16, acc := .rw, rst := .const 256, sel := .cr }
def CR_CMD_OP : FieldRow := { cls := .hostq, off := 0x084, hi := 1, lo := 0, acc := .wo, sel := .cr }
def CR_CMD_KEY : FieldRow := { cls := .hostq, off := 0x084, hi := 31, lo := 16, acc := .wo, sel := .cr }
def CR_STATUS_ENABLED : FieldRow := { cls := .hostq, off := 0x088, hi := 0, lo := 0, acc := .ro, sel := .cr }
def CR_STATUS_BACKPRESSURE : FieldRow := { cls := .hostq, off := 0x088, hi := 1, lo := 1, acc := .ro, sel := .cr }
def CR_STATUS_PARKED : FieldRow := { cls := .hostq, off := 0x088, hi := 15, lo := 4, acc := .ro, sel := .cr }
def CR_STATUS_WAITING : FieldRow := { cls := .hostq, off := 0x088, hi := 28, lo := 16, acc := .ro, sel := .cr }
def CR_TAIL_INDEX : FieldRow := { cls := .hostq, off := 0x08C, hi := 16, lo := 0, acc := .ro, sel := .cr }
def CR_HEAD_INDEX : FieldRow := { cls := .hostq, off := 0x090, hi := 16, lo := 0, acc := .ro, sel := .cr }
def CR_RXBUF_POSTED : FieldRow := { cls := .hostq, off := 0x094, hi := 14, lo := 0, acc := .ro, sel := .cr }
def CR_RXBUF_NEXT_SEQ : FieldRow := { cls := .hostq, off := 0x094, hi := 31, lo := 16, acc := .ro, sel := .cr }
def LEDGER_SEL_TAG : FieldRow := { cls := .hostq, off := 0x098, hi := 11, lo := 0, acc := .rw }
def LEDGER_ENTRY0_STATE : FieldRow := { cls := .hostq, off := 0x09C, hi := 2, lo := 0, acc := .ro, sel := .tag }
def LEDGER_ENTRY0_FROZEN : FieldRow := { cls := .hostq, off := 0x09C, hi := 3, lo := 3, acc := .ro, sel := .tag }
def LEDGER_ENTRY0_PARKED : FieldRow := { cls := .hostq, off := 0x09C, hi := 4, lo := 4, acc := .ro, sel := .tag }
def LEDGER_ENTRY0_SQ : FieldRow := { cls := .hostq, off := 0x09C, hi := 15, lo := 8, acc := .ro, sel := .tag }
def LEDGER_ENTRY0_OPCODE : FieldRow := { cls := .hostq, off := 0x09C, hi := 23, lo := 16, acc := .ro, sel := .tag }
def LEDGER_ENTRY0_STATUS : FieldRow := { cls := .hostq, off := 0x09C, hi := 31, lo := 24, acc := .ro, sel := .tag }
def LEDGER_ENTRY1_PROGRESS : FieldRow := { cls := .hostq, off := 0x0A0, hi := 23, lo := 0, acc := .ro, sel := .tag }
def LEDGER_ENTRY1_CR : FieldRow := { cls := .hostq, off := 0x0A0, hi := 29, lo := 24, acc := .ro, sel := .tag }
def LEDGER_CMD_TAG : FieldRow := { cls := .hostq, off := 0x0A4, hi := 11, lo := 0, acc := .wo }
def LEDGER_CMD_OP : FieldRow := { cls := .hostq, off := 0x0A4, hi := 14, lo := 12, acc := .wo }
def LEDGER_CMD_KEY : FieldRow := { cls := .hostq, off := 0x0A4, hi := 31, lo := 16, acc := .wo }
def LEDGER_DUMP_LO_ADDR : FieldRow := { cls := .hostq, off := 0x0A8, hi := 31, lo := 6, acc := .rw }
def LEDGER_DUMP_HI_ADDR : FieldRow := { cls := .hostq, off := 0x0AC, hi := 31, lo := 0, acc := .rw }
def LEDGER_STATUS_FROZEN : FieldRow := { cls := .hostq, off := 0x0B0, hi := 12, lo := 0, acc := .ro }
def LEDGER_STATUS_DUMP_BUSY : FieldRow := { cls := .hostq, off := 0x0B0, hi := 16, lo := 16, acc := .ro }
def CR_EVT_LO_WRITTEN : FieldRow := { cls := .hostq, off := 0x0B4, hi := 31, lo := 0, acc := .w1c }
def CR_EVT_HI_WRITTEN : FieldRow := { cls := .hostq, off := 0x0B8, hi := 31, lo := 0, acc := .w1c }
def CR_EVT_EN_LO_EN : FieldRow := { cls := .hostq, off := 0x0BC, hi := 31, lo := 0, acc := .rw }
def CR_EVT_EN_HI_EN : FieldRow := { cls := .hostq, off := 0x0C0, hi := 31, lo := 0, acc := .rw }
def SQ_GRP_EVT_ATTN : FieldRow := { cls := .hostq, off := 0x0C4, hi := 31, lo := 0, acc := .w1c }
def SQ_GRP_EVT_EN_EN : FieldRow := { cls := .hostq, off := 0x0C8, hi := 31, lo := 0, acc := .rw }
def CR_BP_LO_BP : FieldRow := { cls := .hostq, off := 0x0CC, hi := 31, lo := 0, acc := .ro }
def CR_BP_HI_BP : FieldRow := { cls := .hostq, off := 0x0D0, hi := 31, lo := 0, acc := .ro }
def SQ_ATTN_ATTN : FieldRow := { cls := .hostq, off := 0x0E0, hi := 31, lo := 0, acc := .w1c, stride := 4, count := 8 }
def RX_MAP_CR0 : FieldRow := { cls := .hostq, off := 0x400, hi := 5, lo := 0, acc := .rw, stride := 4, count := 64 }
def RX_MAP_CR1 : FieldRow := { cls := .hostq, off := 0x400, hi := 13, lo := 8, acc := .rw, stride := 4, count := 64 }
def RX_MAP_CR2 : FieldRow := { cls := .hostq, off := 0x400, hi := 21, lo := 16, acc := .rw, stride := 4, count := 64 }
def RX_MAP_CR3 : FieldRow := { cls := .hostq, off := 0x400, hi := 29, lo := 24, acc := .rw, stride := 4, count := 64 }
def RX_MAP_EN0 : FieldRow := { cls := .hostq, off := 0x400, hi := 7, lo := 7, acc := .rw, stride := 4, count := 64 }
def RX_MAP_EN1 : FieldRow := { cls := .hostq, off := 0x400, hi := 15, lo := 15, acc := .rw, stride := 4, count := 64 }
def RX_MAP_EN2 : FieldRow := { cls := .hostq, off := 0x400, hi := 23, lo := 23, acc := .rw, stride := 4, count := 64 }
def RX_MAP_EN3 : FieldRow := { cls := .hostq, off := 0x400, hi := 31, lo := 31, acc := .rw, stride := 4, count := 64 }
def TX_FRAMES_COUNT : FieldRow := { cls := .hostq, off := 0x100, hi := 31, lo := 0, acc := .ro }
def RX_FRAMES_COUNT : FieldRow := { cls := .hostq, off := 0x104, hi := 31, lo := 0, acc := .ro }
def RX_HOLD_DROP_COUNT : FieldRow := { cls := .hostq, off := 0x108, hi := 31, lo := 0, acc := .ro }
def RX_UNMAPPED_COUNT : FieldRow := { cls := .hostq, off := 0x10C, hi := 31, lo := 0, acc := .ro }
def RX_TOO_BIG_COUNT : FieldRow := { cls := .hostq, off := 0x110, hi := 31, lo := 0, acc := .ro }
def DB_IGNORED_COUNT : FieldRow := { cls := .hostq, off := 0x114, hi := 31, lo := 0, acc := .ro }
def DB_ERRORS_COUNT : FieldRow := { cls := .hostq, off := 0x118, hi := 31, lo := 0, acc := .ro }
def CR_HEAD_ERRORS_COUNT : FieldRow := { cls := .hostq, off := 0x11C, hi := 31, lo := 0, acc := .ro }
def PARKS_COUNT : FieldRow := { cls := .hostq, off := 0x120, hi := 31, lo := 0, acc := .ro }
def LEDGER_WAITS_COUNT : FieldRow := { cls := .hostq, off := 0x124, hi := 31, lo := 0, acc := .ro }
def PCIE_ERRORS_COUNT : FieldRow := { cls := .hostq, off := 0x128, hi := 31, lo := 0, acc := .ro }
def BAD_DESC_COUNT : FieldRow := { cls := .hostq, off := 0x12C, hi := 31, lo := 0, acc := .ro }
def FLUSHED_COUNT : FieldRow := { cls := .hostq, off := 0x130, hi := 31, lo := 0, acc := .ro }
def PARTIALS_COUNT : FieldRow := { cls := .hostq, off := 0x134, hi := 31, lo := 0, acc := .ro }

def rows0 : List FieldRow :=
  [SHADOW_ADDR_LO_EN, SHADOW_ADDR_LO_ADDR, SHADOW_ADDR_HI_ADDR, RX_HOLD_LIMIT_US,
   STATUS_TAGS_IN_USE, STATUS_HOLD_USED, SQ_SEL_SQ, SQ_BASE_LO_ADDR,
   SQ_BASE_HI_ADDR, SQ_CFG_SIZE_LOG2, SQ_CFG_PRECLASS, SQ_CFG_WEIGHT,
   SQ_CFG_CR, SQ_CFG_MAX_INFLIGHT, SQ_CMD_OP, SQ_CMD_KEY,
   SQ_STATUS_STATE, SQ_STATUS_QUIESCENT, SQ_STATUS_BLOCKED, SQ_STATUS_CAUSE,
   SQ_STATUS_INFLIGHT, SQ_PROD_INDEX, SQ_CONS_INDEX, CR_SEL_CR,
   CR_BASE_LO_ADDR, CR_BASE_HI_ADDR, CR_CFG_SIZE_LOG2, CR_CFG_PARK_LIMIT,
   CR_RX_CFG_RX_EN, CR_RX_CFG_BUF_SIZE_LOG]
def rows1 : List FieldRow :=
  [CR_RX_CFG_POST_LIMIT, CR_CMD_OP, CR_CMD_KEY, CR_STATUS_ENABLED,
   CR_STATUS_BACKPRESSURE, CR_STATUS_PARKED, CR_STATUS_WAITING, CR_TAIL_INDEX,
   CR_HEAD_INDEX, CR_RXBUF_POSTED, CR_RXBUF_NEXT_SEQ, LEDGER_SEL_TAG,
   LEDGER_ENTRY0_STATE, LEDGER_ENTRY0_FROZEN, LEDGER_ENTRY0_PARKED, LEDGER_ENTRY0_SQ,
   LEDGER_ENTRY0_OPCODE, LEDGER_ENTRY0_STATUS, LEDGER_ENTRY1_PROGRESS, LEDGER_ENTRY1_CR,
   LEDGER_CMD_TAG, LEDGER_CMD_OP, LEDGER_CMD_KEY, LEDGER_DUMP_LO_ADDR,
   LEDGER_DUMP_HI_ADDR, LEDGER_STATUS_FROZEN, LEDGER_STATUS_DUMP_BUSY, CR_EVT_LO_WRITTEN,
   CR_EVT_HI_WRITTEN, CR_EVT_EN_LO_EN]
def rows2 : List FieldRow :=
  [CR_EVT_EN_HI_EN, SQ_GRP_EVT_ATTN, SQ_GRP_EVT_EN_EN, CR_BP_LO_BP,
   CR_BP_HI_BP, SQ_ATTN_ATTN, RX_MAP_CR0, RX_MAP_CR1,
   RX_MAP_CR2, RX_MAP_CR3, RX_MAP_EN0, RX_MAP_EN1,
   RX_MAP_EN2, RX_MAP_EN3, TX_FRAMES_COUNT, RX_FRAMES_COUNT,
   RX_HOLD_DROP_COUNT, RX_UNMAPPED_COUNT, RX_TOO_BIG_COUNT, DB_IGNORED_COUNT,
   DB_ERRORS_COUNT, CR_HEAD_ERRORS_COUNT, PARKS_COUNT, LEDGER_WAITS_COUNT,
   PCIE_ERRORS_COUNT, BAD_DESC_COUNT, FLUSHED_COUNT, PARTIALS_COUNT]
/-- The fields of the HOSTQ page, in the order of the spec's tables. -/
def rows : List FieldRow := rows0 ++ rows1 ++ rows2

end HOSTQ

/-! ### The DISTAFF page (Tables 11.15 and 11.16) -/

namespace DISTAFF

def CFG_DEFAULT_LEAD_MS : FieldRow := { cls := .distaff, off := 0x040, hi := 15, lo := 0, acc := .rw, rst := .const 50 }
def CFG_LATCH_GUARD_US : FieldRow := { cls := .distaff, off := 0x040, hi := 31, lo := 16, acc := .rw, rst := .const 1000 }
def APPLY_LATE_TOL_NS : FieldRow := { cls := .distaff, off := 0x044, hi := 31, lo := 0, acc := .rw, rst := .const 1000000 }
def REPLY_WAIT_MS : FieldRow := { cls := .distaff, off := 0x048, hi := 15, lo := 0, acc := .rw, rst := .const 100 }
def DIR_BASE_PAGE : FieldRow := { cls := .distaff, off := 0x04C, hi := 20, lo := 0, acc := .rw }
def GROUP_BASE_PAGE : FieldRow := { cls := .distaff, off := 0x050, hi := 20, lo := 0, acc := .rw, rst := .const 131072 }
def STATUS_CMDS : FieldRow := { cls := .distaff, off := 0x054, hi := 8, lo := 0, acc := .ro }
def STATUS_SHARES : FieldRow := { cls := .distaff, off := 0x054, hi := 24, lo := 16, acc := .ro }
def NEXT_CMD_ID_ID : FieldRow := { cls := .distaff, off := 0x058, hi := 31, lo := 0, acc := .ro }
def DIR_SEL_INDEX : FieldRow := { cls := .distaff, off := 0x05C, hi := 24, lo := 0, acc := .rw }
def DIR_SEL_KIND : FieldRow := { cls := .distaff, off := 0x05C, hi := 28, lo := 28, acc := .rw }
def DIR_CMD_READ : FieldRow := { cls := .distaff, off := 0x060, hi := 0, lo := 0, acc := .wo }
def DIR_CMD_WRITE : FieldRow := { cls := .distaff, off := 0x060, hi := 1, lo := 1, acc := .wo }
def DIR_STATUS_BUSY : FieldRow := { cls := .distaff, off := 0x064, hi := 0, lo := 0, acc := .ro }
def DIR_STATUS_ERROR : FieldRow := { cls := .distaff, off := 0x064, hi := 1, lo := 1, acc := .ro }
def DIR_WORD_DATA : FieldRow := { cls := .distaff, off := 0x068, hi := 31, lo := 0, acc := .rw, stride := 4, count := 4 }
def BULK_ADDR_LO_ADDR : FieldRow := { cls := .distaff, off := 0x078, hi := 31, lo := 0, acc := .rw }
def BULK_ADDR_HI_ADDR : FieldRow := { cls := .distaff, off := 0x07C, hi := 31, lo := 0, acc := .rw }
def BULK_COUNT_RECORDS : FieldRow := { cls := .distaff, off := 0x080, hi := 25, lo := 0, acc := .rw }
def BULK_CMD_GO : FieldRow := { cls := .distaff, off := 0x084, hi := 0, lo := 0, acc := .wo }
def BULK_CMD_ABORT : FieldRow := { cls := .distaff, off := 0x084, hi := 1, lo := 1, acc := .wo }
def BULK_STATUS_STATE : FieldRow := { cls := .distaff, off := 0x088, hi := 2, lo := 0, acc := .ro }
def BULK_STATUS_DONE : FieldRow := { cls := .distaff, off := 0x088, hi := 31, lo := 6, acc := .ro }
def ITEMS_OUT_COUNT : FieldRow := { cls := .distaff, off := 0x0C0, hi := 31, lo := 0, acc := .ro }
def ITEMS_ON_TIME_COUNT : FieldRow := { cls := .distaff, off := 0x0C4, hi := 31, lo := 0, acc := .ro }
def ITEMS_LATE_COUNT : FieldRow := { cls := .distaff, off := 0x0C8, hi := 31, lo := 0, acc := .ro }
def ITEMS_EXPIRED_COUNT : FieldRow := { cls := .distaff, off := 0x0CC, hi := 31, lo := 0, acc := .ro }
def DIR_INVALID_COUNT : FieldRow := { cls := .distaff, off := 0x0D0, hi := 31, lo := 0, acc := .ro }
def DIR_ERRORS_COUNT : FieldRow := { cls := .distaff, off := 0x0D4, hi := 31, lo := 0, acc := .ro }
def NO_WORKER_COUNT : FieldRow := { cls := .distaff, off := 0x0D8, hi := 31, lo := 0, acc := .ro }
def NO_TURN_COUNT : FieldRow := { cls := .distaff, off := 0x0DC, hi := 31, lo := 0, acc := .ro }
def QUEUE_STALLS_COUNT : FieldRow := { cls := .distaff, off := 0x0E0, hi := 31, lo := 0, acc := .ro }
def STALE_DISCARDS_COUNT : FieldRow := { cls := .distaff, off := 0x0E4, hi := 31, lo := 0, acc := .ro }
def REPLY_MISSING_COUNT : FieldRow := { cls := .distaff, off := 0x0E8, hi := 31, lo := 0, acc := .ro }
def SHARE_FULL_COUNT : FieldRow := { cls := .distaff, off := 0x0EC, hi := 31, lo := 0, acc := .ro }

def rows0 : List FieldRow :=
  [CFG_DEFAULT_LEAD_MS, CFG_LATCH_GUARD_US, APPLY_LATE_TOL_NS, REPLY_WAIT_MS,
   DIR_BASE_PAGE, GROUP_BASE_PAGE, STATUS_CMDS, STATUS_SHARES,
   NEXT_CMD_ID_ID, DIR_SEL_INDEX, DIR_SEL_KIND, DIR_CMD_READ,
   DIR_CMD_WRITE, DIR_STATUS_BUSY, DIR_STATUS_ERROR, DIR_WORD_DATA,
   BULK_ADDR_LO_ADDR, BULK_ADDR_HI_ADDR, BULK_COUNT_RECORDS, BULK_CMD_GO,
   BULK_CMD_ABORT, BULK_STATUS_STATE, BULK_STATUS_DONE, ITEMS_OUT_COUNT,
   ITEMS_ON_TIME_COUNT, ITEMS_LATE_COUNT, ITEMS_EXPIRED_COUNT, DIR_INVALID_COUNT,
   DIR_ERRORS_COUNT, NO_WORKER_COUNT]
def rows1 : List FieldRow :=
  [NO_TURN_COUNT, QUEUE_STALLS_COUNT, STALE_DISCARDS_COUNT, REPLY_MISSING_COUNT,
   SHARE_FULL_COUNT]
/-- The fields of the DISTAFF page, in the order of the spec's tables. -/
def rows : List FieldRow := rows0 ++ rows1

end DISTAFF

/-! ### The HANK page (Tables 11.17 and 11.18) -/

namespace HANK

def CFG_REMOTE_EN : FieldRow := { cls := .hank, off := 0x040, hi := 0, lo := 0, acc := .rw }
def CFG_LEARN : FieldRow := { cls := .hank, off := 0x040, hi := 1, lo := 1, acc := .rw, rst := .const 1 }
def TX_CFG_CLASS : FieldRow := { cls := .hank, off := 0x044, hi := 2, lo := 0, acc := .rw, rst := .const 6 }
def TX_CFG_VLAN_EN : FieldRow := { cls := .hank, off := 0x044, hi := 3, lo := 3, acc := .rw }
def TX_CFG_VID : FieldRow := { cls := .hank, off := 0x044, hi := 15, lo := 4, acc := .rw }
def TX_CFG_PCP : FieldRow := { cls := .hank, off := 0x044, hi := 18, lo := 16, acc := .rw }
def C7_RES_CIR : FieldRow := { cls := .hank, off := 0x048, hi := 23, lo := 0, acc := .rw, rst := .const 10000 }
def C7_RES_CBS : FieldRow := { cls := .hank, off := 0x048, hi := 31, lo := 24, acc := .rw, rst := .const 4 }
def TIMERS_ACK_TIMEOUT_US : FieldRow := { cls := .hank, off := 0x04C, hi := 11, lo := 0, acc := .rw, rst := .const 200 }
def TIMERS_RETRIES : FieldRow := { cls := .hank, off := 0x04C, hi := 15, lo := 12, acc := .rw, rst := .const 3 }
def TIMERS_KEEPALIVE_MS : FieldRow := { cls := .hank, off := 0x04C, hi := 31, lo := 16, acc := .rw, rst := .const 100 }
def TIMEOUTS_MGR_TIMEOUT_MS : FieldRow := { cls := .hank, off := 0x050, hi := 15, lo := 0, acc := .rw, rst := .const 1000 }
def TIMEOUTS_PEER_TIMEOUT_MS : FieldRow := { cls := .hank, off := 0x050, hi := 31, lo := 16, acc := .rw, rst := .const 500 }
def MGR_MAC_LO_ADDR : FieldRow := { cls := .hank, off := 0x054, hi := 31, lo := 0, acc := .rw }
def MGR_MAC_HI_ADDR : FieldRow := { cls := .hank, off := 0x058, hi := 15, lo := 0, acc := .rw }
def BIND_STATUS_MGR_VALID : FieldRow := { cls := .hank, off := 0x05C, hi := 0, lo := 0, acc := .rw }
def BIND_STATUS_MGR_UPLINK : FieldRow := { cls := .hank, off := 0x05C, hi := 5, lo := 4, acc := .rw }
def BIND_STATUS_MY_ID : FieldRow := { cls := .hank, off := 0x05C, hi := 15, lo := 8, acc := .rw }
def BIND_STATUS_MGR_EPOCH : FieldRow := { cls := .hank, off := 0x05C, hi := 31, lo := 16, acc := .rw }
def WT_SEL_WORKER : FieldRow := { cls := .hank, off := 0x060, hi := 7, lo := 0, acc := .rw, rst := .const 1 }
def WT_MAC_LO_ADDR : FieldRow := { cls := .hank, off := 0x064, hi := 31, lo := 0, acc := .rw, sel := .worker }
def WT_MAC_HI_ADDR : FieldRow := { cls := .hank, off := 0x068, hi := 15, lo := 0, acc := .rw, sel := .worker }
def WT_CFG_VALID : FieldRow := { cls := .hank, off := 0x06C, hi := 0, lo := 0, acc := .rw, sel := .worker }
def WT_CFG_UPLINK : FieldRow := { cls := .hank, off := 0x06C, hi := 5, lo := 4, acc := .rw, sel := .worker }
def WT_STATUS_STATE : FieldRow := { cls := .hank, off := 0x070, hi := 1, lo := 0, acc := .ro, sel := .worker }
def WT_STATUS_EPOCH : FieldRow := { cls := .hank, off := 0x070, hi := 31, lo := 16, acc := .ro, sel := .worker }
def TX_MSGS_COUNT : FieldRow := { cls := .hank, off := 0x0C0, hi := 31, lo := 0, acc := .ro }
def RX_MSGS_COUNT : FieldRow := { cls := .hank, off := 0x0C4, hi := 31, lo := 0, acc := .ro }
def ROLE_STALE_COUNT : FieldRow := { cls := .hank, off := 0x0C8, hi := 31, lo := 0, acc := .ro }
def HDR_ERR_COUNT : FieldRow := { cls := .hank, off := 0x0CC, hi := 31, lo := 0, acc := .ro }
def RETRANSMITS_COUNT : FieldRow := { cls := .hank, off := 0x0D0, hi := 31, lo := 0, acc := .ro }
def GIVE_UPS_COUNT : FieldRow := { cls := .hank, off := 0x0D4, hi := 31, lo := 0, acc := .ro }
def TX_STALE_COUNT : FieldRow := { cls := .hank, off := 0x0D8, hi := 31, lo := 0, acc := .ro }
def DUPLICATES_COUNT : FieldRow := { cls := .hank, off := 0x0DC, hi := 31, lo := 0, acc := .ro }
def NOT_FOR_ME_COUNT : FieldRow := { cls := .hank, off := 0x0E0, hi := 31, lo := 0, acc := .ro }
def REMOTE_ACCESSES_COUNT : FieldRow := { cls := .hank, off := 0x0E4, hi := 31, lo := 0, acc := .ro }
def REMOTE_REFUSED_COUNT : FieldRow := { cls := .hank, off := 0x0E8, hi := 31, lo := 0, acc := .ro }
def C7_THROTTLED_COUNT : FieldRow := { cls := .hank, off := 0x0EC, hi := 31, lo := 0, acc := .ro }

def rows0 : List FieldRow :=
  [CFG_REMOTE_EN, CFG_LEARN, TX_CFG_CLASS, TX_CFG_VLAN_EN,
   TX_CFG_VID, TX_CFG_PCP, C7_RES_CIR, C7_RES_CBS,
   TIMERS_ACK_TIMEOUT_US, TIMERS_RETRIES, TIMERS_KEEPALIVE_MS, TIMEOUTS_MGR_TIMEOUT_MS,
   TIMEOUTS_PEER_TIMEOUT_MS, MGR_MAC_LO_ADDR, MGR_MAC_HI_ADDR, BIND_STATUS_MGR_VALID,
   BIND_STATUS_MGR_UPLINK, BIND_STATUS_MY_ID, BIND_STATUS_MGR_EPOCH, WT_SEL_WORKER,
   WT_MAC_LO_ADDR, WT_MAC_HI_ADDR, WT_CFG_VALID, WT_CFG_UPLINK,
   WT_STATUS_STATE, WT_STATUS_EPOCH, TX_MSGS_COUNT, RX_MSGS_COUNT,
   ROLE_STALE_COUNT, HDR_ERR_COUNT]
def rows1 : List FieldRow :=
  [RETRANSMITS_COUNT, GIVE_UPS_COUNT, TX_STALE_COUNT, DUPLICATES_COUNT,
   NOT_FOR_ME_COUNT, REMOTE_ACCESSES_COUNT, REMOTE_REFUSED_COUNT, C7_THROTTLED_COUNT]
/-- The fields of the HANK page, in the order of the spec's tables. -/
def rows : List FieldRow := rows0 ++ rows1

end HANK

/-! ### The DRAM page (Tables 11.19 and 11.20) -/

namespace DRAM

def CFG_CH_EN : FieldRow := { cls := .dram, off := 0x040, hi := 1, lo := 0, acc := .rw, rst := .const 3 }
def STATUS_TRAINED0 : FieldRow := { cls := .dram, off := 0x044, hi := 0, lo := 0, acc := .ro }
def STATUS_TRAINED1 : FieldRow := { cls := .dram, off := 0x044, hi := 1, lo := 1, acc := .ro }
def STATUS_SELF_REFRESH : FieldRow := { cls := .dram, off := 0x044, hi := 2, lo := 2, acc := .ro }
def STATUS_DENS0 : FieldRow := { cls := .dram, off := 0x044, hi := 7, lo := 4, acc := .ro }
def STATUS_DENS1 : FieldRow := { cls := .dram, off := 0x044, hi := 11, lo := 8, acc := .ro }
def STATUS_USABLE_MIB : FieldRow := { cls := .dram, off := 0x044, hi := 28, lo := 16, acc := .ro }
def SCRUB_CMD_GO : FieldRow := { cls := .dram, off := 0x048, hi := 0, lo := 0, acc := .wo }
def SCRUB_CMD_ABORT : FieldRow := { cls := .dram, off := 0x048, hi := 1, lo := 1, acc := .wo }
def SCRUB_CMD_CH_MASK : FieldRow := { cls := .dram, off := 0x048, hi := 5, lo := 4, acc := .wo }
def SCRUB_STATUS_STATE : FieldRow := { cls := .dram, off := 0x04C, hi := 2, lo := 0, acc := .ro }
def SCRUB_STATUS_DONE_MIB : FieldRow := { cls := .dram, off := 0x04C, hi := 31, lo := 8, acc := .ro }
def ECC_CORR_COUNT : FieldRow := { cls := .dram, off := 0x050, hi := 31, lo := 0, acc := .ro }
def ECC_UNCORR_COUNT : FieldRow := { cls := .dram, off := 0x054, hi := 31, lo := 0, acc := .ro }
def ERR_ADDR_LINE : FieldRow := { cls := .dram, off := 0x058, hi := 31, lo := 0, acc := .ro }

def rows0 : List FieldRow :=
  [CFG_CH_EN, STATUS_TRAINED0, STATUS_TRAINED1, STATUS_SELF_REFRESH,
   STATUS_DENS0, STATUS_DENS1, STATUS_USABLE_MIB, SCRUB_CMD_GO,
   SCRUB_CMD_ABORT, SCRUB_CMD_CH_MASK, SCRUB_STATUS_STATE, SCRUB_STATUS_DONE_MIB,
   ECC_CORR_COUNT, ECC_UNCORR_COUNT, ERR_ADDR_LINE]
/-- The fields of the DRAM page, in the order of the spec's tables. -/
def rows : List FieldRow := rows0

end DRAM

/-! ### The TALLY page (Tables 12.13 and 12.14) -/

namespace TALLY

def SUMMARY_WORDS : FieldRow := { cls := .tally, off := 0x040, hi := 31, lo := 0, acc := .ro }
def MIRROR_CFG_EN : FieldRow := { cls := .tally, off := 0x044, hi := 0, lo := 0, acc := .rw }
def MIRROR_CFG_KEEPALIVE : FieldRow := { cls := .tally, off := 0x044, hi := 15, lo := 8, acc := .rw }
def MIRROR_ADDR_LO_ADDR : FieldRow := { cls := .tally, off := 0x048, hi := 31, lo := 6, acc := .rw }
def MIRROR_ADDR_HI_ADDR : FieldRow := { cls := .tally, off := 0x04C, hi := 31, lo := 0, acc := .rw }
def MIRROR_PERIOD_US : FieldRow := { cls := .tally, off := 0x050, hi := 19, lo := 0, acc := .rw, rst := .const 100 }
def MIRROR_CMD_FORCE : FieldRow := { cls := .tally, off := 0x054, hi := 0, lo := 0, acc := .wo }
def MIRROR_SEQ_SEQ : FieldRow := { cls := .tally, off := 0x058, hi := 31, lo := 0, acc := .ro }
def MIRROR_STATUS_ERR : FieldRow := { cls := .tally, off := 0x05C, hi := 0, lo := 0, acc := .w1c }
def MIRROR_SKIPS_COUNT : FieldRow := { cls := .tally, off := 0x060, hi := 31, lo := 0, acc := .ro }
def MIRROR_ERRORS_COUNT : FieldRow := { cls := .tally, off := 0x064, hi := 31, lo := 0, acc := .ro }
def WORD_SOURCES : FieldRow := { cls := .tally, off := 0x080, hi := 31, lo := 0, acc := .w1c, stride := 4, count := 32 }
def EN_EN : FieldRow := { cls := .tally, off := 0x100, hi := 31, lo := 0, acc := .rw, stride := 4, count := 32 }
def RAW_EVENTS : FieldRow := { cls := .tally, off := 0x180, hi := 31, lo := 0, acc := .ro, stride := 4, count := 32 }

def rows0 : List FieldRow :=
  [SUMMARY_WORDS, MIRROR_CFG_EN, MIRROR_CFG_KEEPALIVE, MIRROR_ADDR_LO_ADDR,
   MIRROR_ADDR_HI_ADDR, MIRROR_PERIOD_US, MIRROR_CMD_FORCE, MIRROR_SEQ_SEQ,
   MIRROR_STATUS_ERR, MIRROR_SKIPS_COUNT, MIRROR_ERRORS_COUNT, WORD_SOURCES,
   EN_EN, RAW_EVENTS]
/-- The fields of the TALLY page, in the order of the spec's tables. -/
def rows : List FieldRow := rows0

end TALLY

end Sys2Proof.Machine
end

