-- ==== Sys2Proof/Machine/Pages.lean ====
section
/-!
DEFINITION. Machine/Pages.lean: the page map (Table 12.5), the common page header (Tables 12.3 and 12.4), and which
registers form 64-bit pairs (R14).
-/
namespace Sys2Proof.Machine

/-- The first page number of a class (Table 12.5). -/
def PageCls.base : PageCls → Nat
  | .global => 0x000
  | .power => 0x001
  | .whorl => 0x002
  | .tally => 0x003
  | .uplink => 0x010
  | .carder => 0x020
  | .rulewin => 0x021
  | .bankwin => 0x022
  | .reel => 0x030
  | .reelgate => 0x031
  | .ply => 0x040
  | .hostq => 0x050
  | .distaff => 0x060
  | .hank => 0x061
  | .dram => 0x070
  | .segment => 0x100
  | .flyer => 0x180

/-- How many pages carry a class (Table 12.5, PAGE_COUNT). -/
def PageCls.count : PageCls → Nat
  | .uplink | .reelgate => 4
  | .segment | .flyer => 96
  | _ => 1

/-- The block code of a class (Table 12.5). -/
def PageCls.block : PageCls → Nat
  | .global => 0x01
  | .power => 0x02
  | .whorl => 0x03
  | .tally => 0x04
  | .uplink => 0x10
  | .carder => 0x20
  | .rulewin => 0x21
  | .bankwin => 0x22
  | .reel => 0x30
  | .reelgate => 0x31
  | .ply => 0x40
  | .hostq => 0x50
  | .distaff => 0x60
  | .hank => 0x61
  | .dram => 0x70
  | .segment => 0x80
  | .flyer => 0x81

/-- The domain whose state decides whether a page answers (Table 12.5). -/
def PageCls.domain : PageCls → Domain
  | .carder | .rulewin | .bankwin | .reel | .reelgate | .ply | .distaff | .hank => .core
  | .hostq => .host
  | .segment => .seg
  | _ => .aon

/-- PAGE_CAPS.HAS_EN (Table 12.5). -/
def PageCls.hasEn : PageCls → Bool
  | .uplink | .segment | .flyer => true
  | _ => false

/-- PAGE_CAPS.HAS_RESET (Table 12.5). -/
def PageCls.hasReset : PageCls → Bool
  | .uplink | .segment => true
  | _ => false

/-- PAGE_CAPS.HAS_RWS (Table 12.5). -/
def PageCls.hasRws : PageCls → Bool
  | .reelgate | .flyer => true
  | _ => false

/-- PAGE_CAPS.EVT_BITS: how many PAGE_EVT bits can be raised (R84 with R424, R87, R128, R171, R196, R223, R266, R309,
R337, R372, R405). -/
def PageCls.evtBits : PageCls → Nat
  | .global => 24
  | .power => 8
  | .whorl => 16
  | .uplink => 12
  | .carder => 16
  | .reel => 32
  | .ply => 12
  | .hostq => 15
  | .distaff => 12
  | .hank => 15
  | .dram => 4
  | .segment => 6
  | .flyer => 1
  | .tally | .rulewin | .bankwin | .reelgate => 0

/-- The class and the instance of a page number; none where Table 12.5 lists no page (R417). -/
def pageOf (p : Nat) : Option (PageCls × Nat) :=
  if p < 0x004 then
    some ((if p = 0 then .global else if p = 1 then .power else if p = 2 then .whorl else .tally), 0)
  else if 0x010 ≤ p ∧ p < 0x014 then some (.uplink, p - 0x010)
  else if p = 0x020 then some (.carder, 0)
  else if p = 0x021 then some (.rulewin, 0)
  else if p = 0x022 then some (.bankwin, 0)
  else if p = 0x030 then some (.reel, 0)
  else if 0x031 ≤ p ∧ p < 0x035 then some (.reelgate, p - 0x031)
  else if p = 0x040 then some (.ply, 0)
  else if p = 0x050 then some (.hostq, 0)
  else if p = 0x060 then some (.distaff, 0)
  else if p = 0x061 then some (.hank, 0)
  else if p = 0x070 then some (.dram, 0)
  else if 0x100 ≤ p ∧ p < 0x160 then some (.segment, p - 0x100)
  else if 0x180 ≤ p ∧ p < 0x1E0 then some (.flyer, p - 0x180)
  else none

/-- The fields of a page class past the header. -/
def PageCls.rows : PageCls → List FieldRow
  | .global => GLOBAL.rows
  | .power => POWER.rows
  | .whorl => WHORL.rows
  | .tally => TALLY.rows
  | .uplink => UPLINK.rows
  | .carder => CARDER.rows
  | .rulewin => RULEWIN.rows
  | .bankwin => BANKWIN.rows
  | .reel => REEL.rows
  | .reelgate => REELGATE.rows
  | .ply => PLY.rows
  | .hostq => HOSTQ.rows
  | .distaff => DISTAFF.rows
  | .hank => HANK.rows
  | .dram => DRAM.rows
  | .segment => SEGMENT.rows
  | .flyer => FLYER.rows

/-- One stored field of the page header (Table 12.4). -/
structure HdrRow where
  off : Nat
  hi : Nat
  lo : Nat
  deriving DecidableEq, Repr

namespace HDR
def CTRL_EN : HdrRow := { off := 0x008, hi := 0, lo := 0 }
def CTRL_LOCK : HdrRow := { off := 0x008, hi := 2, lo := 2 }
def EVT : HdrRow := { off := 0x010, hi := 31, lo := 0 }
def EVT_EN : HdrRow := { off := 0x014, hi := 31, lo := 0 }
def ERRCNT_COUNT : HdrRow := { off := 0x018, hi := 15, lo := 0 }
def ERRCNT_LAST_OFFSET : HdrRow := { off := 0x018, hi := 27, lo := 16 }
def ERRCNT_LAST_PORT : HdrRow := { off := 0x018, hi := 29, lo := 28 }
def SEAL_SEALED : HdrRow := { off := 0x01C, hi := 0, lo := 0 }
def SEAL_ARMED : HdrRow := { off := 0x01C, hi := 1, lo := 1 }
end HDR

/-- The offsets of the _LO registers of a class whose _HI partner, four octets above, holds the other half of one
64-bit value (R14). CR_EVT, CR_EVT_EN and CR_BP are pairs of independent bitmaps and are not listed. -/
def PageCls.loOffsets : PageCls → List Nat
  | .whorl => [0x040, 0x04C, 0x058, 0x064, 0x074, 0x080, 0x098, 0x0A0, 0x0D4, 0x1A8, 0x204, 0x224, 0x244, 0x264, 0x284,
      0x2A4, 0x2C4, 0x2E4]
  | .segment => [0x048, 0x064, 0x0A4]
  | .uplink => [0x044, 0x104, 0x110]
  | .carder => [0x050]
  | .reelgate => [0x048, 0x060, 0x074]
  | .hostq => [0x040, 0x054, 0x074, 0x0A8]
  | .distaff => [0x078]
  | .hank => [0x054, 0x064]
  | .tally => [0x048]
  | _ => []

end Sys2Proof.Machine
end

