-- ==== Sys2Proof/Machine/Events.lean ====
section
/-!
DEFINITION. Machine/Events.lean: the events of the block, each a bit of the PAGE_EVT register of a page class.
-/
namespace Sys2Proof.Machine

/-- An event: the class of the page that carries it and its PAGE_EVT bit. -/
structure Evt where
  cls : PageCls
  bit : Nat
  deriving DecidableEq, Repr

/-! GLOBAL.PAGE_EVT (R84 and Table 12.10) -/
def EV.GLOBAL_MODE_CHANGE : Evt := { cls := .global, bit := 0 }
def EV.GLOBAL_SAFE_ENTRY : Evt := { cls := .global, bit := 1 }
def EV.GLOBAL_MODE_CMD_REFUSED : Evt := { cls := .global, bit := 2 }
def EV.GLOBAL_ROLE_CHANGE : Evt := { cls := .global, bit := 3 }
def EV.GLOBAL_MANAGER_REFUSED : Evt := { cls := .global, bit := 4 }
def EV.GLOBAL_ROLE_CMD_STALE : Evt := { cls := .global, bit := 5 }
def EV.GLOBAL_STRAP_INVALID : Evt := { cls := .global, bit := 6 }
def EV.GLOBAL_WDOG_WARN : Evt := { cls := .global, bit := 7 }
def EV.GLOBAL_ACQUIRE_TIMEOUT : Evt := { cls := .global, bit := 8 }
def EV.GLOBAL_OFF_DOMAIN_ACCESS : Evt := { cls := .global, bit := 9 }
def EV.GLOBAL_ROLE_CMD_REFUSED : Evt := { cls := .global, bit := 10 }
def EV.GLOBAL_ECC_CORR : Evt := { cls := .global, bit := 11 }
def EV.GLOBAL_ECC_UNCORR : Evt := { cls := .global, bit := 12 }
def EV.GLOBAL_ECC_FATAL : Evt := { cls := .global, bit := 13 }
def EV.GLOBAL_THERMAL_WARN : Evt := { cls := .global, bit := 14 }
def EV.GLOBAL_THERMAL_TRIP : Evt := { cls := .global, bit := 15 }
def EV.GLOBAL_THERMAL_CLEAR : Evt := { cls := .global, bit := 16 }
def EV.GLOBAL_BUS_TIMEOUT : Evt := { cls := .global, bit := 17 }
def EV.GLOBAL_CORE_PLL_UNLOCK : Evt := { cls := .global, bit := 18 }
def EV.GLOBAL_SPI_ERROR : Evt := { cls := .global, bit := 19 }
def EV.GLOBAL_SEALED_WRITE : Evt := { cls := .global, bit := 20 }
def EV.GLOBAL_MIRROR_ERROR : Evt := { cls := .global, bit := 21 }
def EV.GLOBAL_IMAGE_DONE : Evt := { cls := .global, bit := 22 }
def EV.GLOBAL_IMAGE_ERROR : Evt := { cls := .global, bit := 23 }

/-! POWER.PAGE_EVT (R87) -/
def EV.POWER_LEAVE_SLOW : Evt := { cls := .power, bit := 0 }
def EV.POWER_LEAVE_IMPOSSIBLE : Evt := { cls := .power, bit := 1 }
def EV.POWER_CEILING_BELOW_COMMITTED : Evt := { cls := .power, bit := 2 }
def EV.POWER_THROTTLE_ON : Evt := { cls := .power, bit := 3 }
def EV.POWER_OVER_LIMIT : Evt := { cls := .power, bit := 4 }
def EV.POWER_WAKE_DONE : Evt := { cls := .power, bit := 5 }
def EV.POWER_LEAVE_DEADLINE_MISS : Evt := { cls := .power, bit := 6 }
def EV.POWER_RESERVE_SHORT : Evt := { cls := .power, bit := 7 }

/-! WHORL.PAGE_EVT (R128) -/
def EV.WHORL_LOCKED : Evt := { cls := .whorl, bit := 0 }
def EV.WHORL_SOURCE_LOST : Evt := { cls := .whorl, bit := 1 }
def EV.WHORL_HOLDOVER_LIMIT : Evt := { cls := .whorl, bit := 2 }
def EV.WHORL_STEP_APPLIED : Evt := { cls := .whorl, bit := 3 }
def EV.WHORL_SLEW_DONE : Evt := { cls := .whorl, bit := 4 }
def EV.WHORL_HOLD_END : Evt := { cls := .whorl, bit := 5 }
def EV.WHORL_LATE_EVENTS : Evt := { cls := .whorl, bit := 6 }
def EV.WHORL_SERVO_SAT : Evt := { cls := .whorl, bit := 7 }
def EV.WHORL_OUTLIER : Evt := { cls := .whorl, bit := 8 }
def EV.WHORL_PPS_IN_EDGE : Evt := { cls := .whorl, bit := 9 }
def EV.WHORL_PPS_IN_MISSING : Evt := { cls := .whorl, bit := 10 }
def EV.WHORL_CAL_FAIL : Evt := { cls := .whorl, bit := 11 }
def EV.WHORL_TDC_CAL_FAIL : Evt := { cls := .whorl, bit := 12 }
def EV.WHORL_REFCLK_FAULT : Evt := { cls := .whorl, bit := 13 }
def EV.WHORL_MARK_MISSED : Evt := { cls := .whorl, bit := 14 }
def EV.WHORL_STEP_REFUSED : Evt := { cls := .whorl, bit := 15 }

/-! SEGMENT.PAGE_EVT (R171) -/
def EV.SEGMENT_SYNC_CHANGE : Evt := { cls := .segment, bit := 0 }
def EV.SEGMENT_MASTER_CHANGE : Evt := { cls := .segment, bit := 1 }
def EV.SEGMENT_PARTNER_CHANGE : Evt := { cls := .segment, bit := 2 }
def EV.SEGMENT_COLLISION : Evt := { cls := .segment, bit := 3 }
def EV.SEGMENT_FRAME_ERROR : Evt := { cls := .segment, bit := 4 }
def EV.SEGMENT_TABLE_SWITCH : Evt := { cls := .segment, bit := 5 }

/-! FLYER.PAGE_EVT (R196) -/
def EV.FLYER_GUARD_EVENT : Evt := { cls := .flyer, bit := 0 }

/-! UPLINK.PAGE_EVT (R223) -/
def EV.UPLINK_LINK_UP : Evt := { cls := .uplink, bit := 0 }
def EV.UPLINK_LINK_DOWN : Evt := { cls := .uplink, bit := 1 }
def EV.UPLINK_REMOTE_FAULT : Evt := { cls := .uplink, bit := 2 }
def EV.UPLINK_HI_BER : Evt := { cls := .uplink, bit := 3 }
def EV.UPLINK_FEC_UNCORRECTABLE : Evt := { cls := .uplink, bit := 4 }
def EV.UPLINK_RX_ERROR : Evt := { cls := .uplink, bit := 5 }
def EV.UPLINK_REASM_ERROR : Evt := { cls := .uplink, bit := 6 }
def EV.UPLINK_VERIFY_DONE : Evt := { cls := .uplink, bit := 7 }
def EV.UPLINK_VERIFY_FAILED : Evt := { cls := .uplink, bit := 8 }
def EV.UPLINK_PAUSE_RX : Evt := { cls := .uplink, bit := 9 }
def EV.UPLINK_TX_UNDERRUN : Evt := { cls := .uplink, bit := 10 }
def EV.UPLINK_MAC_CTRL_UNSUPPORTED : Evt := { cls := .uplink, bit := 11 }

/-! CARDER.PAGE_EVT (R266) -/
def EV.CARDER_BANK_SWITCHED : Evt := { cls := .carder, bit := 0 }
def EV.CARDER_BANK_FREE : Evt := { cls := .carder, bit := 1 }
def EV.CARDER_WRITE_REFUSED : Evt := { cls := .carder, bit := 2 }
def EV.CARDER_BULK_DONE : Evt := { cls := .carder, bit := 3 }
def EV.CARDER_BULK_ERROR : Evt := { cls := .carder, bit := 4 }
def EV.CARDER_MISS_DROP : Evt := { cls := .carder, bit := 5 }
def EV.CARDER_LENERR_DROP : Evt := { cls := .carder, bit := 6 }
def EV.CARDER_DEPTH_EXCEEDED : Evt := { cls := .carder, bit := 7 }
def EV.CARDER_RECIRC_LIMIT : Evt := { cls := .carder, bit := 8 }
def EV.CARDER_INVALID_OUTPUT : Evt := { cls := .carder, bit := 9 }
def EV.CARDER_ACTION_INVALID : Evt := { cls := .carder, bit := 10 }
def EV.CARDER_EDIT_ERROR : Evt := { cls := .carder, bit := 11 }
def EV.CARDER_LANE_MISMATCH : Evt := { cls := .carder, bit := 12 }
def EV.CARDER_MIRROR_DROP : Evt := { cls := .carder, bit := 13 }
def EV.CARDER_GRAPH_INVALID : Evt := { cls := .carder, bit := 14 }
def EV.CARDER_WINDOW_STALL : Evt := { cls := .carder, bit := 15 }

/-! REEL.PAGE_EVT (Table 08.15) -/
def EV.REEL_GCL_ACTIVATED0 : Evt := { cls := .reel, bit := 0 }
def EV.REEL_GCL_ACTIVATED1 : Evt := { cls := .reel, bit := 1 }
def EV.REEL_GCL_ACTIVATED2 : Evt := { cls := .reel, bit := 2 }
def EV.REEL_GCL_ACTIVATED3 : Evt := { cls := .reel, bit := 3 }
def EV.REEL_GCL_ERROR0 : Evt := { cls := .reel, bit := 4 }
def EV.REEL_GCL_ERROR1 : Evt := { cls := .reel, bit := 5 }
def EV.REEL_GCL_ERROR2 : Evt := { cls := .reel, bit := 6 }
def EV.REEL_GCL_ERROR3 : Evt := { cls := .reel, bit := 7 }
def EV.REEL_LT_EXPIRED0 : Evt := { cls := .reel, bit := 8 }
def EV.REEL_LT_EXPIRED1 : Evt := { cls := .reel, bit := 9 }
def EV.REEL_LT_EXPIRED2 : Evt := { cls := .reel, bit := 10 }
def EV.REEL_LT_EXPIRED3 : Evt := { cls := .reel, bit := 11 }
def EV.REEL_C7_LOST0 : Evt := { cls := .reel, bit := 12 }
def EV.REEL_C7_LOST1 : Evt := { cls := .reel, bit := 13 }
def EV.REEL_C7_LOST2 : Evt := { cls := .reel, bit := 14 }
def EV.REEL_C7_LOST3 : Evt := { cls := .reel, bit := 15 }
def EV.REEL_XOFF0 : Evt := { cls := .reel, bit := 16 }
def EV.REEL_XOFF1 : Evt := { cls := .reel, bit := 17 }
def EV.REEL_XOFF2 : Evt := { cls := .reel, bit := 18 }
def EV.REEL_XOFF3 : Evt := { cls := .reel, bit := 19 }
def EV.REEL_C7_ADMIT_DONE : Evt := { cls := .reel, bit := 20 }
def EV.REEL_C7_ADMIT_REFUSED : Evt := { cls := .reel, bit := 21 }
def EV.REEL_C7_DEMOTED : Evt := { cls := .reel, bit := 22 }
def EV.REEL_C7_DISPATCH_LATE : Evt := { cls := .reel, bit := 23 }
def EV.REEL_METER_RED : Evt := { cls := .reel, bit := 24 }
def EV.REEL_QUEUE_DROP : Evt := { cls := .reel, bit := 25 }
def EV.REEL_SHAPE_DROP : Evt := { cls := .reel, bit := 26 }
def EV.REEL_HEADROOM_EXHAUSTED : Evt := { cls := .reel, bit := 27 }
def EV.REEL_POOL_LOW : Evt := { cls := .reel, bit := 28 }
def EV.REEL_LINK_FLUSH : Evt := { cls := .reel, bit := 29 }
def EV.REEL_CTX_REFUSED : Evt := { cls := .reel, bit := 30 }
def EV.REEL_ADMIN_COPY_DONE : Evt := { cls := .reel, bit := 31 }

/-! PLY.PAGE_EVT (R337) -/
def EV.PLY_SEQ_RESET : Evt := { cls := .ply, bit := 0 }
def EV.PLY_ROGUE : Evt := { cls := .ply, bit := 1 }
def EV.PLY_TAGLESS : Evt := { cls := .ply, bit := 2 }
def EV.PLY_OUT_OF_ORDER : Evt := { cls := .ply, bit := 3 }
def EV.PLY_LOST : Evt := { cls := .ply, bit := 4 }
def EV.PLY_LATENT_ERROR : Evt := { cls := .ply, bit := 5 }
def EV.PLY_GEN_OVERSIZE : Evt := { cls := .ply, bit := 6 }
def EV.PLY_GEN_SKIPPED : Evt := { cls := .ply, bit := 7 }
def EV.PLY_REPL_DROP : Evt := { cls := .ply, bit := 8 }
def EV.PLY_LINK_ERROR : Evt := { cls := .ply, bit := 9 }
def EV.PLY_ECC_DROP : Evt := { cls := .ply, bit := 10 }
def EV.PLY_WAKE_RESET : Evt := { cls := .ply, bit := 11 }

/-! HOSTQ.PAGE_EVT (R372) -/
def EV.HOSTQ_CR_BACKPRESSURE : Evt := { cls := .hostq, bit := 0 }
def EV.HOSTQ_CR_RELEASED : Evt := { cls := .hostq, bit := 1 }
def EV.HOSTQ_RX_HOLD_DROP : Evt := { cls := .hostq, bit := 2 }
def EV.HOSTQ_RX_UNMAPPED : Evt := { cls := .hostq, bit := 3 }
def EV.HOSTQ_RX_TOO_BIG : Evt := { cls := .hostq, bit := 4 }
def EV.HOSTQ_HOLD_FULL : Evt := { cls := .hostq, bit := 5 }
def EV.HOSTQ_LEDGER_WAIT : Evt := { cls := .hostq, bit := 6 }
def EV.HOSTQ_DB_ERROR : Evt := { cls := .hostq, bit := 7 }
def EV.HOSTQ_CR_HEAD_ERROR : Evt := { cls := .hostq, bit := 8 }
def EV.HOSTQ_PCIE_ERROR : Evt := { cls := .hostq, bit := 9 }
def EV.HOSTQ_BAD_DESC : Evt := { cls := .hostq, bit := 10 }
def EV.HOSTQ_LEDGER_DUMP_DONE : Evt := { cls := .hostq, bit := 11 }
def EV.HOSTQ_ALL_QUIESCENT : Evt := { cls := .hostq, bit := 12 }
def EV.HOSTQ_PERST_ABORT : Evt := { cls := .hostq, bit := 13 }
def EV.HOSTQ_SAFE_FREEZE : Evt := { cls := .hostq, bit := 14 }

/-! DISTAFF.PAGE_EVT (R405) -/
def EV.DISTAFF_LATE_APPLY : Evt := { cls := .distaff, bit := 0 }
def EV.DISTAFF_EXPIRED : Evt := { cls := .distaff, bit := 1 }
def EV.DISTAFF_DIR_ERROR : Evt := { cls := .distaff, bit := 2 }
def EV.DISTAFF_GROUP_LOOP : Evt := { cls := .distaff, bit := 3 }
def EV.DISTAFF_NO_WORKER : Evt := { cls := .distaff, bit := 4 }
def EV.DISTAFF_NO_TURN : Evt := { cls := .distaff, bit := 5 }
def EV.DISTAFF_QUEUE_STALL : Evt := { cls := .distaff, bit := 6 }
def EV.DISTAFF_STALE_DISCARD : Evt := { cls := .distaff, bit := 7 }
def EV.DISTAFF_BULK_DONE : Evt := { cls := .distaff, bit := 8 }
def EV.DISTAFF_BULK_ERROR : Evt := { cls := .distaff, bit := 9 }
def EV.DISTAFF_REPLY_MISSING : Evt := { cls := .distaff, bit := 10 }
def EV.DISTAFF_SHARE_FULL : Evt := { cls := .distaff, bit := 11 }

/-! HANK.PAGE_EVT (R405) -/
def EV.HANK_BOUND : Evt := { cls := .hank, bit := 0 }
def EV.HANK_UNBOUND : Evt := { cls := .hank, bit := 1 }
def EV.HANK_WORKER_UP : Evt := { cls := .hank, bit := 2 }
def EV.HANK_WORKER_ABSENT : Evt := { cls := .hank, bit := 3 }
def EV.HANK_ROLE_STALE : Evt := { cls := .hank, bit := 4 }
def EV.HANK_HDR_ERR : Evt := { cls := .hank, bit := 5 }
def EV.HANK_RETRANSMIT : Evt := { cls := .hank, bit := 6 }
def EV.HANK_GIVE_UP : Evt := { cls := .hank, bit := 7 }
def EV.HANK_TX_STALE : Evt := { cls := .hank, bit := 8 }
def EV.HANK_DUPLICATE : Evt := { cls := .hank, bit := 9 }
def EV.HANK_NOT_FOR_ME : Evt := { cls := .hank, bit := 10 }
def EV.HANK_REMOTE_REFUSED : Evt := { cls := .hank, bit := 11 }
def EV.HANK_CANCEL_RX : Evt := { cls := .hank, bit := 12 }
def EV.HANK_C7_THROTTLED : Evt := { cls := .hank, bit := 13 }
def EV.HANK_MGR_EPOCH_CHANGE : Evt := { cls := .hank, bit := 14 }

/-! DRAM.PAGE_EVT (R405) -/
def EV.DRAM_TRAIN_DONE : Evt := { cls := .dram, bit := 0 }
def EV.DRAM_SCRUB_DONE : Evt := { cls := .dram, bit := 1 }
def EV.DRAM_ECC_CORR : Evt := { cls := .dram, bit := 2 }
def EV.DRAM_ECC_UNCORR : Evt := { cls := .dram, bit := 3 }

end Sys2Proof.Machine
end

