-- ==== Sys2Proof/Machine/Tab.lean ====
section
/-!
DEFINITION. Machine/Tab.lean: sparse tables, the one form in which the model keeps every array and memory of the block.
A table is a list of (key, value) pairs with strictly rising keys and no entry equal to what an unlisted key reads as.
Log entries: DESIGN CHOICE 7 (notes/assumptions).
-/
namespace Sys2Proof.Machine

/-- A sparse table from natural-number keys. -/
abbrev Tab (V : Type) := List (Nat × V)

/-- The value at `k`; `d` where the table lists none. -/
def Tab.get {V : Type} (d : V) : Tab V → Nat → V
  | [], _ => d
  | (j, v) :: r, k => if j = k then v else Tab.get d r k

/-- The table without `k`. -/
def Tab.del {V : Type} (t : Tab V) (k : Nat) : Tab V := t.filter fun e => !decide (e.1 = k)

/-- The table with the entry `v` at `k`. -/
def Tab.ins {V : Type} : Tab V → Nat → V → Tab V
  | [], k, v => [(k, v)]
  | (j, w) :: r, k, v => if j < k then (j, w) :: Tab.ins r k v else if j = k then (k, v) :: r else (k, v) :: (j, w) :: r

/-- The table with `v` at `k`. Writing the value an unlisted key reads as removes the entry. -/
def Tab.put {V : Type} [DecidableEq V] (d : V) (t : Tab V) (k : Nat) (v : V) : Tab V :=
  if v = d then Tab.del t k else Tab.ins t k v

/-- Every key of the table lies above `b`, the keys rise strictly, and no entry equals the default. -/
def Tab.wfAbove {V : Type} [DecidableEq V] (d : V) : Option Nat → Tab V → Bool
  | _, [] => true
  | b, (j, v) :: r => (match b with | none => true | some x => decide (x < j)) && decide (v ≠ d) && Tab.wfAbove d (some j) r

/-- The canonical form of a table. -/
def Tab.wf {V : Type} [DecidableEq V] (d : V) (t : Tab V) : Bool := Tab.wfAbove d none t

/-- The table without the entries whose key lies in `lo ≤ k < hi`. -/
def Tab.clearRange {V : Type} (t : Tab V) (lo hi : Nat) : Tab V :=
  t.filter fun e => !(decide (lo ≤ e.1) && decide (e.1 < hi))

/-- One entry changed by a function. -/
def Tab.upd {V : Type} [DecidableEq V] (d : V) (t : Tab V) (k : Nat) (f : V → V) : Tab V :=
  Tab.put d t k (f (Tab.get d t k))

/-- Every value changed by a function that leaves the default as it is. -/
def Tab.mapV {V : Type} [DecidableEq V] (d : V) (t : Tab V) (f : V → V) : Tab V :=
  (t.map fun e => (e.1, f e.2)).filter fun e => decide (e.2 ≠ d)

/-- The values at `k`, `k + 1`, … of `n` consecutive keys. -/
def Tab.slice {V : Type} (d : V) (t : Tab V) (k : Nat) : Nat → List V
  | 0 => []
  | n + 1 => Tab.get d t k :: Tab.slice d t (k + 1) n

/-- The values of `l` written at `k`, `k + 1`, …. -/
def Tab.putList {V : Type} [DecidableEq V] (d : V) (t : Tab V) (k : Nat) : List V → Tab V
  | [] => t
  | v :: r => Tab.putList d (Tab.put d t k v) (k + 1) r

/-- The canonical form of a memory: addresses strictly rising, and no entry that reads as an unlisted address does (0). -/
def Memory.wf (m : List Host.Cell) : Bool := Tab.wf (0 : Byte) m

end Sys2Proof.Machine
end

