-- ==== Sys2Proof/Machine/State.lean ====
section
/-!
DEFINITION. Machine/State.lean: everything the block holds, the queue of waiting commands, the reasons a step can stop,
and the state right after reset. Every register field that the spec's field tables give has its one home in `regs`
(Machine/Regs.lean names the fields); the other fields hold what the spec gives the block besides registers.
Times are in units of 2^-32 ns (R88) unless a field says otherwise.
Log entries: DEDUCED 4, 5, 12, 14; DESIGN CHOICE 7, 8, 9, 87, 92 (notes/assumptions).
-/
namespace Sys2Proof.Machine

/-! ### Register ports and pages -/

/-- What one access port holds: the staged _LO values and the latched _HI values (R408), by page-space address, and what
its last read returned. `status` is the last status octet of the SPI target (R410). -/
structure PortState where
  staged : Tab (Option Nat) := []
  latched : Tab (Option Nat) := []
  data : Nat := 0
  status : Nat := 0
  deriving DecidableEq, Repr

/-! ### Modes and power -/

/-- What the mode machine holds besides the GLOBAL registers. -/
structure Modes where
  /-- What holds the block in RESET: PORST_N, the AON supply monitors (R443, R444). -/
  holdPorst : Bool := false
  holdSupply : Bool := false
  /-- The STANDBY in force is the one that followed RESET (R55). -/
  freshStandby : Bool := true
  /-- The image counts as loaded in the sense of R55 and the automatic start has not been judged yet. -/
  autoStartDue : Bool := false
  /-- When ACQUIRE was entered, the limit read then, and whether its event was raised (R53). -/
  acquireAt : Nat := 0
  acquireLimit : Nat := 0
  acquireRaised : Bool := false
  /-- When SAFE was entered (t0 of Table 02.5). -/
  safeAt : Nat := 0
  /-- Safe scenes are in force from SAFE_SCENE_START on, up to `sceneEnd` (R61). -/
  safeScene : Bool := false
  /-- Step 6 of Table 02.5 has been carried out. -/
  safePowered : Bool := false
  /-- From this instant on the normal turn buffers are back: 10 µs after RUN entry (R61). -/
  sceneEnd : Option Nat := none
  /-- Monotonic time that the watchdog has counted and not yet taken off its count (R60). -/
  wdogAcc : Nat := 0
  wdogWarned : Bool := false
  /-- PERST_N is asserted (R56). -/
  perst : Bool := false
  /-- The PCIe endpoint has begun link training (R446). -/
  linkTraining : Bool := false
  /-- A thermal trip has happened and MAX has not fallen below the release point (R421). -/
  thermTripped : Bool := false
  thermWarned : Bool := false
  /-- When the sensors were last sampled (R421). -/
  thermAt : Nat := 0
  /-- The CORE PLL is locked (R422). -/
  corePllLock : Bool := true
  /-- The segment drivers are disabled by the supply monitors (R444). -/
  segSupplyBad : Bool := false
  /-- DRAM has been trained since reset (R64, R403). -/
  dramTrainingDone : Bool := false
  /-- CFG.CH_EN as the first ACQUIRE read it. -/
  chEn : Nat := 3
  /-- No lane has been idle since before this instant. -/
  lightFrom : Nat := 0
  /-- The idle start of each general lane (0 to 10) and of the Distaff (11), and which of them are in LIGHT (R70). -/
  laneIdleSince : Tab Nat := []
  laneLight : Tab Bool := []
  /-- The AON clock in which the wake of each general lane from LIGHT completes (R69), 0 for none. -/
  laneWake : Tab Nat := []
  deriving DecidableEq, Repr

/-- A request for leave that waits in a FIFO (R74). -/
structure LeaveReq where
  op : LeaveOp
  prio : Nat
  cost : Nat
  since : Nat
  warnUs : Nat
  slow : Bool := false
  deriving DecidableEq, Repr

/-- A leave that is held (R73), and whether it is held in the fan-out reserve (R80). -/
structure LeaveHeld where
  op : LeaveOp
  cost : Nat
  reserve : Bool := false
  deriving DecidableEq, Repr

/-- What the power manager holds besides the POWER registers. -/
structure PowerMgr where
  /-- Waiting requests, oldest first; those of one priority form its FIFO. -/
  waiting : List LeaveReq := []
  held : List LeaveHeld := []
  /-- Operations whose request ended with NO_LEAVE and whose owner has not taken note yet. -/
  refused : List LeaveOp := []
  /-- Throttling is in force, and the time it has counted short of a whole µs (R78). -/
  throttling : Bool := false
  throttleAcc : Nat := 0
  /-- A write of CEILING has set it below COMMITTED, and COMMITTED has not fallen to it since (R77). -/
  ceilingCut : Bool := false
  /-- Domain wakes in progress and the time each completes (R69). -/
  wakes : List (Domain × Nat) := []
  deriving DecidableEq, Repr

/-! ### The Whorl -/

/-- A two-step Sync that waits for its Follow_Up (R102): its sequence number, θ without the Follow_Up's terms is
computed from the corrected receive time (1/64 ns) and the Sync's correction (2^-16 ns). -/
structure SyncRec where
  seq : Nat
  t2 : Int
  corr : Int
  deriving DecidableEq, Repr

/-- A change of network time in progress (R110 to R114). `remain` is the signed part not yet applied. -/
structure StepChange where
  remain : Int := 0
  /-- To be applied whole at the next tick (Table 03.6). -/
  whole : Bool := false
  /-- Read at acceptance (R118): the slew rate in ppm and the boundary period in ns. -/
  slewPpm : Nat := 500
  periodNs : Nat := 1000000000
  /-- The boundary that the waiting part is applied at (R114), and the AON clock from which a whole part is applied (R112). -/
  boundary : Int := 0
  due : Nat := 0
  deriving DecidableEq, Repr

/-- One CYCLE_MARK output (R121, R122). Times are network time in 2^-32 ns. -/
structure Mark where
  /-- The mode, segment, start, period, width and segment offset in effect. -/
  mode : Nat := 0
  seg : Nat := 0
  start : Int := 0
  period : Nat := 0
  width : Nat := 0
  segOffset : Int := 0
  /-- When the mode took effect, in monotonic time. -/
  armedAt : Nat := 0
  /-- The next edge. -/
  next : Int := 0
  /-- Where the last pulse was placed (R93), and where it ends, in monotonic time; 0 when none. -/
  pulseAt : Nat := 0
  pulseEnd : Nat := 0
  /-- A CTRL write waits for the end of the pulse in progress. -/
  waiting : Bool := false
  /-- The cycle start the last SEGMENT-mode edge belongs to, in monotonic time. -/
  lastCycle : Nat := 0
  deriving DecidableEq, Repr

/-- What was in force before a change of OFFSET or of the increment: the tick at which the change came, the tick before it, and the
increment and the OFFSET in use until then (R89, R93, R96). -/
structure TimeRec where
  at_ : Nat := 0
  last : Nat := 0
  inc : Nat := 0
  offset : Int := 0
  deriving DecidableEq, Repr

/-- What the Whorl holds besides the WHORL registers. -/
structure Whorl where
  /-- Monotonic time (R91), the increment of the last advance, which is the one in use (R88, R89), and the times of the last
  changes of it and of OFFSET, newest first. -/
  mono : Nat := 0
  inc : Nat := 0x2800000000
  past : List TimeRec := []
  /-- OFFSET (R92). -/
  offset : Int := 0
  /-- The fired-up-to watermark W (R115). -/
  mark : Nat := 0
  /-- The servo's integrator in ppb (R104), and its last FREQ values, newest first, at most 16. -/
  integ : Int := 0
  freqLog : List Int := []
  step : StepChange := {}
  /-- The SOURCE in force, which a write changes at the next tick (R100). -/
  source : Nat := 0
  sync : Option SyncRec := none
  /-- When the last valid measurement was made, or the lock state last began to wait for one (R106). -/
  lastMeas : Nat := 0
  /-- The holdover in progress: its start, E0 in ns, the 1 ms updates made, whether it is faulted, whether its limit event
  was raised, and whether a REFCLK fault declared outside HOLDOVER keeps HO_ERROR at its maximum (R108, R109). -/
  hoStart : Nat := 0
  hoE0 : Nat := 0
  hoMs : Nat := 0
  hoFaulted : Bool := false
  hoLimitRaised : Bool := false
  /-- PPS_IN: the monotonic time of the last accepted edge, and from when the next missing second counts (R120). -/
  ppsLast : Option Nat := none
  ppsMissFrom : Nat := 0
  /-- PPS_OUT: the second after the last that was emitted (R115, R119), and where the last pulse was placed and ends, in
  monotonic time (R93). -/
  ppsNext : Int := 0
  ppsAt : Nat := 0
  ppsEnd : Nat := 0
  marks : Tab Mark := []
  /-- The last network-time microsecond that gave a refill tick or was passed over (R116). -/
  refillUs : Int := 0
  /-- When each TDC last calibrated (R94). -/
  tdcAt : Nat := 0
  deriving DecidableEq, Repr

/-! ### Packets and the packet buffer -/

/-- The cells that a packet holds, by pool (R269): of the shared pool, of the class-7 reserve, of the headroom. -/
structure Cells where
  shared : Nat := 0
  c7 : Nat := 0
  head : Nat := 0
  deriving DecidableEq, Repr

/-- A packet in the block. `bytes` is the frame without its FCS (R202). -/
structure Packet where
  id : Nat := 0
  /-- The ingress port number (Table 01.2). -/
  ingress : Nat := 0
  bytes : List Byte := []
  /-- The receive timestamp in 1/64 ns of network time. -/
  stamp : Int := 0
  preclass : Nat := 0
  /-- When it entered its ingress FIFO, in monotonic time. -/
  since : Nat := 0
  cells : Cells := {}
  /-- The pass it is in, the tag of its recirculate action, its rule bank, and whether it is stamped (R231, R254). -/
  pass : Nat := 0
  recircTag : Nat := 0
  bank : Nat := 0
  /-- The header-offset vector of its last parse. -/
  hov : List (Option Nat) := []
  /-- What the Carder gave it: output port, class, flow context, and what the frame goes to. -/
  out : Nat := 0xFF
  cls : Nat := 0
  ctx : Nat := 0
  /-- Drop eligible: coloured yellow by the meter (R278). -/
  yellow : Bool := false
  green : Bool := true
  /-- Launch time and its flags for a host frame (R290), in 2^-32 ns of network time. -/
  launch : Option Int := none
  /-- The eligibility tick of the per-flow shaper (R280). -/
  eligible : Option Nat := none
  /-- The host operation tag whose copy this is, and whether the host frame bypasses classification. -/
  tag : Option Nat := none
  /-- The R-TAG sequence number (R320, R326). -/
  seqNum : Option Nat := none
  /-- A Hank frame of the local Hank block: the number of its message (R27). -/
  hank : Option Nat := none
  /-- The copy is a mirror copy (R251). -/
  mirror : Bool := false
  /-- The copy whose fate its operation reports (R355). -/
  primary : Bool := true
  /-- A host frame asks for one-step operation (R99). -/
  oneStep : Bool := false
  /-- The trap reason (R252), and the flags of key octet 2 of the last pass (Table 10.9). -/
  reason : Nat := 0
  keyFlags : Nat := 0
  /-- The packet has been counted in WINDOW_STALL (R226). -/
  stalled : Bool := false
  /-- The frame has been counted in GATE_NOFIT (R294). -/
  nofit : Bool := false
  /-- A frame in the host queue that reached the placement engine: its CR, and when (R359). -/
  rxWait : Option (Nat × Nat) := none
  deriving DecidableEq, Repr

/-- One operation of the host whose tag is in use (R349, R365), besides its ledger entry. -/
structure TxOp where
  /-- The sixteen words of its entry; none while the tag is free. -/
  words : List Nat := []
  /-- Its completion is not written when the status is OK or ON_TIME (Table 10.4). -/
  quiet : Bool := false
  /-- It has been handed over (R351). -/
  handed : Bool := false
  /-- ABORT or PERST_N took units from it, or waits for its answer (R363); its completion stays frozen (R367). -/
  aborted : Bool := false
  perst : Bool := false
  /-- A fan-out command that was accepted (R379). -/
  fan : Bool := false
  /-- TX: copies without a final fate, copies sent whole, and what the completion says of the primary copy: status and detail
  (Table 10.10), egress, and the transmit timestamp (R355). -/
  open_ : Nat := 0
  sent : Nat := 0
  status : Nat := 0
  detail : Nat := 0
  egress : Nat := 0xFF
  stamp : Option Int := none
  /-- The RESULT words (Table 10.8). -/
  r6 : Nat := 0
  r7 : Nat := 0
  deriving DecidableEq, Repr

/-- The packet buffer (R269 to R271) and the ingress FIFOs (R224). -/
structure Buffer where
  /-- Cells of the shared pool charged to each ingress port. -/
  charge : Tab Nat := []
  /-- Cells of the class-7 reserve in use, and of each uplink's headroom. -/
  c7Used : Nat := 0
  /-- The size of the class-7 reserve, read at CORE wake. -/
  c7Size : Nat := 512
  headUsed : Tab Nat := []
  /-- XOFF is asserted toward the uplink's MAC. -/
  xoff : Tab Bool := []
  /-- The express and the general ingress FIFO of each port. -/
  express : Tab (List Packet) := []
  general : Tab (List Packet) := []
  /-- The number the next packet takes. -/
  nextId : Nat := 1
  deriving DecidableEq, Repr

/-! ### Uplink MACs -/

/-- A frame that an uplink MAC has started (R200, R208). Instants are network time in 2^-32 ns. -/
structure UplTx where
  pkt : Packet
  cls : Nat
  /-- The start of the preamble of the current fragment, and the data octets that earlier fragments carried. -/
  start : Int
  done : Nat := 0
  /-- The data octets of the frame, padded to 60 (R202). -/
  total : Nat
  /-- Sent by the preemptable MAC. -/
  preempt : Bool := false
  /-- A host frame that started before its tail had arrived (R215). -/
  early : Bool := false
  /-- The transmit timestamp in 1/64 ns, and the completion status of the start (0 OK, 1 ON_TIME, 2 LATE). -/
  stamp : Int
  status : Nat := 0
  deriving DecidableEq, Repr

/-- The preemptable frame under reassembly (R210): its octets so far, the next fragment count, and its timestamp. -/
structure Reasm where
  bytes : List Byte := []
  nextCount : Nat := 0
  stamp : Int := 0
  /-- A fragment held a PCS error block or an uncorrectable FEC codeword: the frame fails check 1 (R203). -/
  err : Bool := false
  deriving DecidableEq, Repr

/-- What an uplink MAC holds besides the UPLINK registers. -/
structure Uplink where
  /-- The frame on the wire, and the preemptable frame whose continuation waits (R296). -/
  cur : Option UplTx := none
  cont : Option UplTx := none
  /-- The start and the pause_time of a pause frame of the MAC's own that is on the wire (R214), in network time of 2^-32 ns. -/
  ctrl : Option (Int × Nat) := none
  /-- The uplink has left UP at this monotonic time, and a frame whose reception had begun has not been judged (R203). -/
  rxCut : Option Nat := none
  /-- The next frame boundary (R294), in network time of 2^-32 ns. -/
  freeAt : Int := 0
  /-- A received pause that has not taken effect yet: when it does and its end, and the end of the pause in force (R212), in
  monotonic time. A pause of q = 0 ends at its own start. -/
  pausePend : Option (Nat × Nat) := none
  pauseEnd : Nat := 0
  /-- The monotonic time counted with PAUSED = 1 and not yet in PAUSED_TIME (R213). -/
  pausedAcc : Nat := 0
  /-- When the last pause frame on XOFF was sent (R214), in monotonic time. -/
  lastPauseTx : Nat := 0
  /-- When the next verify mPacket is due (R206), in monotonic time. -/
  verifyAt : Nat := 0
  /-- Respond mPackets that wait to be sent (R207). -/
  responds : Nat := 0
  /-- LINK_FLUSH has been raised in this down interval (R273). -/
  flushed : Bool := false
  reasm : Option Reasm := none
  deriving DecidableEq, Repr

/-! ### Skein engines and Flyers -/

/-- A command payload of the Distaff (R390): the share it belongs to, the host operation of a manager's command, the apply
time A in 1/64 ns of network time, its items, and the payload octets. -/
structure CmdPayload where
  share : Nat := 0
  tag : Option Nat := none
  apply : Int := 0
  count : Nat := 0
  bytes : List Byte := []
  deriving DecidableEq, Repr

/-- A JOIN log entry (R164). -/
structure JoinEntry where
  mac : Nat
  node : Nat
  cls : Nat
  deriving DecidableEq, Repr

/-- What an engine holds for one turn besides TURN_STAT. -/
structure TurnRec where
  /-- Partner turn: consecutive cycles without an accepted frame (R153), and the MAC that joined (R165). -/
  run : Nat := 0
  mac : Nat := 0
  /-- Device turn: it has had a payload (R150); the destination that bank A and bank B go to, broadcast unless the Reel's
  frame gave one (R133). -/
  ever : Bool := false
  dstA : Nat := 0xFFFFFFFFFFFF
  dstB : Nat := 0xFFFFFFFFFFFF
  /-- DEV_QUEUE: TYPE and destination of the last frame sent, whose payload is in the bank in force; and whether a collision took
  it (R151). -/
  lastType : Nat := 2
  lastDst : Nat := 0xFFFFFFFFFFFF
  lost : Bool := false
  /-- DEV_STATE: the pending publish came from a frame of the Reel, not from a write of PUB_CMD (R57, R146). -/
  fromReel : Bool := false
  /-- Partner turn: SEQ of the last accepted frame (R152). -/
  seq : Nat := 0
  deriving DecidableEq, Repr

/-- A frame that an engine asks its MAC to drive: its start in monotonic time, and its octets with the FCS. -/
structure SegTx where
  start : Nat := 0
  octets : List Byte := []
  deriving DecidableEq, Repr

/-- A frame that an engine sends under CSMA/CD in the contention turn or on a plain segment (R163, R167, R219): its octets
without the FCS, the collisions it has met, whether it waits to be sent again, and whether it has counted in MAC_DEFERRED. -/
structure Csma where
  bytes : List Byte := []
  attempts : Nat := 0
  retry : Bool := false
  deferred : Bool := false
  deriving DecidableEq, Repr

/-- One Skein engine (chapter 04) with its segment MAC's CSMA/CD state. Times are monotonic unless said otherwise. -/
structure SegEng where
  /-- The start of the cycle in progress, and its length in ns as adopted or in force. -/
  cycleStart : Nat := 0
  cycleLen : Nat := 10000000
  /-- A cycle start is known: the engine predicts cycle starts (R161). -/
  anchored : Bool := false
  /-- The next predicted cycle start of a follower. -/
  predicted : Nat := 0
  /-- As master, or in TRIAL: the next start of the grid, in network time. -/
  nextGrid : Int := 0
  /-- The last cycle in progress was opened by an accepted BEACON (R156, R161). -/
  opened : Bool := false
  /-- The turns of the cycle in progress are open: its beacon was sent or accepted. -/
  turnsOpen : Bool := false
  /-- Beacons sent since the engine became master, and consecutive beacons missed. -/
  beacons : Nat := 0
  missRun : Nat := 0
  /-- The predicted start of the last missed beacon, while an EXT beacon may still follow it (R162). -/
  lastMiss : Option Nat := none
  /-- The end of the listen timer while it runs (R157). -/
  listenEnd : Option Nat := none
  /-- The end of the back-off in progress (R158), the frame in the CSMA/CD discipline, and whether the attempt is over for
  this contention turn (R219). -/
  backoffEnd : Option Nat := none
  csma : Option Csma := none
  contSkip : Bool := false
  /-- The end of the last transmission that the engine started. -/
  txEnd : Nat := 0
  /-- The frame on offer, the ACK, or the COLDSTART has deferred to carrier and counted in MAC_DEFERRED (R221). -/
  deferred : Bool := false
  ackDeferred : Bool := false
  coldDeferred : Bool := false
  /-- The TABLE_ID taken from the last beacon or COLDSTART of another node (R161). -/
  tableId : Nat := 0
  /-- The next beacon carries EXT: its cycle starts later than the cycle before it predicted (Table 04.3); and the instant from
  which the idle extension before it runs (R117, R139, R160, R162). -/
  ext : Bool := false
  extFrom : Option Nat := none
  /-- The next beacon is the first of a takeover (R160). -/
  takeover : Bool := false
  /-- The start of the cycle before the one in progress. -/
  prevStart : Nat := 0
  /-- The cycles that began where the engine had predicted it, newest first, each with the start before it, as far back as
  SEG_OFFSET reaches; and since when CYCLE_VALID reads 1 (R121). -/
  starts : List (Nat × Nat) := []
  validFrom : Nat := 0
  /-- The collisions that the ACK being sent has met. -/
  ackAttempts : Nat := 0
  /-- An ACK was sent, or lost to a collision, in this contention turn (R163, R165). -/
  ackDone : Bool := false
  /-- The host's ACK for the oldest entry: NODE, STATUS and TURN (R165). -/
  hostAck : Option (Nat × Nat × Nat) := none
  joinLog : List JoinEntry := []
  /-- Command payloads in order of arrival (R149), and the command payloads taken in a row while another frame waited
  (R148). -/
  cmdq : List CmdPayload := []
  burst : Nat := 0
  /-- The frame that the Reel offers, with its class (R147). -/
  offer : Option (Packet × Nat) := none
  /-- The turns in which a frame has started in this cycle, those in which one was accepted, those whose end has been
  judged, and the device turns whose latch point has passed (R152, R153, R145). -/
  seen : List Nat := []
  accepted : List Nat := []
  ended : List Nat := []
  latched : List Nat := []
  turns : Tab TurnRec := []
  /-- As MASTER, the pending switch waits for the end of a cycle, after which an idle extension runs (R139). -/
  switchEnd : Bool := false
  /-- The frame that the Flyer has still to judge (R183). -/
  lastTx : Option SegTx := none
  deriving DecidableEq, Repr

/-- One drift-table entry (Table 05.5). -/
structure Drift where
  last : Int := 0
  avg : Int := 0
  min_ : Int := 0
  max_ : Int := 0
  early : Nat := 0
  late : Nat := 0
  babble : Nat := 0
  babbleRun : Nat := 0
  valid : Bool := false
  warn : Bool := false
  cutCause : Bool := false
  mac : Nat := 0
  samples : Nat := 0
  deriving DecidableEq, Repr

/-- A transmission of the engine as the Flyer judges it (R183). -/
structure FlyTx where
  start : Nat
  /-- The computed close of the window that it started in, none in OPEN; the allowances close 60,000 ns after the start. The
  driver goes off at the first AON tick at or after it (R180). -/
  close : Option Nat
  /-- The frame ends here unless it is cut. -/
  endAt : Nat
  /-- It counts against the budget of R182. -/
  unsync : Bool := false
  deriving DecidableEq, Repr

/-- What a Flyer holds besides the FLYER registers. Times are monotonic: the window counter runs at the rate of monotonic
time, and only an accepted beacon sets its phase (R176). -/
structure Flyer where
  /-- The cycle start that the window counter is anchored to, and the predicted start of the next cycle. -/
  anchor : Nat := 0
  predicted : Nat := 0
  /-- The slot in force, none in OFF and OPEN and before a first activation (R175). -/
  active : Option Nat := none
  /-- The predicted start that passed without an accepted beacon last, while an EXT beacon may still follow it (R178). -/
  lastMiss : Option Nat := none
  /-- The end of the extension allowance, and whether its one transmission has started (R181). -/
  extEnd : Option Nat := none
  extUsed : Bool := false
  /-- The predicted start whose allowance has been judged. -/
  extJudged : Option Nat := none
  /-- The transmission that is on. -/
  tx : Option FlyTx := none
  /-- The 100 ms block that BUDGET_USED counts in, and the time used in it (R182). -/
  budgetBlock : Nat := 0
  budgetUsed : Nat := 0
  /-- The seal check that runs: its slot, and its image and CRC at the command (R173, R174). -/
  sealing : Option Nat := none
  sealImage : List Nat := []
  sealCrc : Nat := 0
  /-- Babbling: the unattributed run, the nodes with an episode in this cycle, and whether an unknown one fell in it. -/
  unattrRun : Nat := 0
  episodes : List Nat := []
  unknown : Bool := false
  /-- The cuts made since the count was last renewed (R192). -/
  cutCount : Nat := 0
  /-- When the cut in progress began; since when the segment has been ON with no run at its limit (R192). -/
  cutAt : Nat := 0
  cleanFrom : Nat := 0
  deriving DecidableEq, Repr

/-- The SEGPWR chain (R194): the frame in progress, the bits it shifts, and the last frame's start. -/
structure Chain where
  /-- The end of the shift of the frame in progress. -/
  latchAt : Option Nat := none
  bits : List Nat := []
  /-- A bit has changed since the last frame started; a frame is due at reset release. -/
  dirty : Bool := true
  /-- From when the next frame may start, and when the last one started. -/
  freeFrom : Nat := 0
  lastStart : Nat := 0
  deriving DecidableEq, Repr

/-! ### Configuration image and the Tally mirror -/

/-- The loader of the configuration image (R461 to R467). -/
structure Image where
  /-- The records counted by the header, and the CRC word of the header, as pass 1 read them. -/
  count : Nat := 0
  crc : Nat := 0
  /-- The CRC register over the octets that pass 2 has read so far. -/
  crcRun : Nat := 0
  /-- The end of the WAIT in progress. -/
  waitUntil : Option Nat := none
  deriving DecidableEq, Repr

/-- The Tally mirror (R427, R428). -/
structure Mirror where
  force : Bool := false
  /-- The last snapshot written (SUMMARY and the words), none before the first. -/
  last : Option (List Nat) := none
  /-- The last write is still in progress: until the boundary that finds it done (R428). -/
  busy : Bool := false
  /-- Boundaries since the last write. -/
  since : Nat := 0
  /-- The next boundary writes whatever the snapshot (R427, R428). -/
  first : Bool := true
  /-- Words of the Tally array that an uncorrectable error has left all ones (Table 12.7). -/
  bad : List Nat := []
  /-- The last boundary that was judged, in µs of monotonic time. -/
  boundaryUs : Nat := 0
  /-- The period and address in force (R429). -/
  periodUs : Nat := 100
  addr : Nat := 0
  deriving DecidableEq, Repr

/-- One write of the block to host memory, in the order of issue (R369). -/
structure HostWrite where
  addr : Nat
  bytes : List Byte
  deriving DecidableEq, Repr

/-! ### Fates of command items -/

/-- The items of one local share by their fate (R393): staged or queued so far, sent on time, sent late, lost. -/
structure Fates where
  taken : Nat := 0
  onTime : Nat := 0
  late : Nat := 0
  lost : Nat := 0
  deriving DecidableEq, Repr

/-! ### The Carder -/

/-- A pass in a lane (R227): its packet, its lane, and the AON clock at whose edge its verdict falls. -/
structure Pass where
  pkt : Packet
  lane : Nat
  stop : Nat
  clk : Nat := 0
  deriving DecidableEq, Repr

/-- A sequence tag of the reorder stage (R32): the packet it is given to, whether its passes have ended, whether the tag is
released and only keeps the place of mirror copies (R33, R251), and what leaves at its place. -/
structure SeqTag where
  id : Nat
  ended : Bool := false
  freed : Bool := false
  out : List Packet := []
  deriving DecidableEq, Repr

/-- What the Carder holds besides the registers of its three pages. -/
structure Carder where
  /-- The tables (R232, R239 to R246), by word: exact entry `i` at 8i, ternary entry `i` at 32i, action entry `i` at 8i with
  its hit count in `hits`, node `k` of bank `b` at (256b + k) × 64, profile `k` at 8b + k, port default `p` at 256b + p. -/
  exact : Tab Nat := []
  tern : Tab Nat := []
  action : Tab Nat := []
  hits : Tab Nat := []
  nodes : Tab Nat := []
  profiles : Tab Nat := []
  portDef : Tab Nat := []
  /-- Passes in flight, the two recirculation queues (R228), and the reorder windows by port (R32). -/
  passes : List Pass := []
  recirc11 : List Packet := []
  recirc : List Packet := []
  order : Tab (List SeqTag) := []
  /-- Mirror copies by the packet at whose place they leave (R251). -/
  copies : Tab (List Packet) := []
  /-- The lane whose turn it is, the port each dispatcher served last, and the AON clock from which each lane accepts
  (R225 to R227). -/
  lane : Nat := 0
  lastX : Nat := 0x80
  lastG : Nat := 0x80
  laneFree : Tab Nat := []
  /-- From when the host path may admit the next frame, in 1/12 of an AON clock (R36). -/
  hostFree : Nat := 0
  /-- From when the dispatcher may serve the host port again, in 1/12 of an AON clock (R36, R226). -/
  hostNext : Nat := 0
  /-- The bulk load: the records still to come (R262). -/
  bulkLeft : Nat := 0
  deriving DecidableEq, Repr

/-! ### The Reel -/

/-- Where the gate list of an uplink stands (R283): it runs, the network time of its next entry start, the change time C of a pending
request (R285), and the oper cycle start that the request keeps from starting (R286), in whole ns. -/
structure Gate where
  run : Bool := false
  next : Int := 0
  change : Int := 0
  stay : Option Int := none
  deriving DecidableEq, Repr

/-- What the Reel holds besides the REEL and REELGATE registers. -/
structure Reel where
  /-- The result of the C7_ADMIT_CMD that C7_ADMIT_STATUS shows as BUSY: 0 accepted, else the cause of the refusal (R301). -/
  admitResult : Option Nat := none
  /-- The output queues, oldest first: class `k` of output port `p` at 8p + k. -/
  queues : Tab (List Packet) := []
  /-- Packets that the Carder has released and that wait for the enqueue steps (R268), oldest first. -/
  incoming : List Packet := []
  /-- The flow context store: word `w` of context `i` at 16i + w (Tables 08.3 and 09.1); SHAPE_BUCKET, word 6, is kept less one packet
  (0x01000000), which is what it holds in a context that nothing has written. -/
  ctx : Tab Nat := []
  /-- The admitted contexts (R301), lowest first. -/
  admitted : List Nat := []
  /-- Class shapers (R281): the credit of class `k` of uplink `n` in millibits at 8n + k, and the MODE in force. -/
  credit : Tab Int := []
  shMode : Tab Nat := []
  /-- Gate lists: word `w` of entry `i` of list `which` (0 admin, 1 oper) of uplink `n` at ((2n + which) × 1024 + i) × 4 + w. -/
  gcl : Tab Nat := []
  gates : Tab Gate := []
  deriving DecidableEq, Repr

/-! ### The Ply -/

/-- What the Ply holds besides the PLY registers and the contexts: the counter sets (word `w` of set `k` at 16k + w), and its
timers (R317, R332). -/
structure Ply where
  sets : Tab Nat := []
  /-- CORE has been ON since reset, and the monotonic time short of the next millisecond. -/
  started : Bool := false
  msAcc : Nat := 0
  /-- Milliseconds counted in the two latent periods in progress, and their lengths. -/
  testMs : Nat := 0
  testPer : Nat := 2000
  resetMs : Nat := 0
  resetPer : Nat := 30000
  deriving DecidableEq, Repr

/-! ### SRAM errors -/

/-- The arrays of Table 12.7 whose words go by a number in the model: flow contexts (16 words a context), segment turn buffers (8
octets a word), directory cache (an entry of 16 octets), gate lists, turn tables, drift tables, progress ledger (by tag), Flyer
turn-table copies, counter sets, hit counters, and counters in registers (by cell). -/
inductive SramArray where
  | ctx | segBuf | dir | gateList | turns | drift | ledger | flyTurns | sets | hits | counter
  deriving DecidableEq, Repr

/-- A word of an SRAM store (Table 12.7). -/
inductive SramWord where
  /-- A word of a Carder table: the table as a bulk record names it (R263), the bank of a node, profile or port default. -/
  | table (table bank entry word : Nat)
  /-- The working store of the lane that a packet's pass is on (R253). -/
  | work (id : Nat)
  /-- The packet buffer, where a packet lies in it. -/
  | frame (id : Nat)
  | cell (a : SramArray) (key : Nat)
  deriving DecidableEq, Repr

/-- A word that its next read finds bad (R419, R420): its store, whether two bits are flipped, which makes it uncorrectable, and the
address that ECC_LAST takes, none where it is free. `told` is the packet whose read SRAM_ECC_ERROR has reported already. -/
structure BadWord where
  store : Nat
  word : SramWord
  two : Bool
  addr : Option Nat := none
  told : Option Nat := none
  deriving DecidableEq, Repr

/-- What the SECDED logic holds (R419, R420): the injection that waits for a write to its store, a store and whether two bits are
flipped, and the words that are bad. -/
structure Ecc where
  inject : Option (Nat × Bool) := none
  bad : List BadWord := []
  deriving DecidableEq, Repr

/-! ### Host queues -/

/-- What the host queues hold besides the HOSTQ registers and the ledger entries. -/
structure HostQ where
  /-- The tags of each SQ that are in use, in fetch order. -/
  live : Tab (List Nat) := []
  /-- The SQ that the fetch engine served last (R348). -/
  last : Nat := 255
  /-- Producer indices written while HOST is LINK (R342). -/
  pdb : Tab (List Nat) := []
  /-- Operations that are DONE: those whose completion is due, in the order in which they became DONE; those that are parked,
  oldest first; and those that wait in the ledger (R360). -/
  due : List Nat := []
  parked : List Nat := []
  waiting : List Nat := []
  /-- The buffer list of each CR, with the sequence number of each buffer, and the next number (R358). -/
  bufs : Tab (List (Nat × Nat)) := []
  seq : Tab Nat := []
  /-- The words of the shadow block as last written; none before (R345). -/
  shadow : Tab (Option Nat) := []
  /-- PAGE_STATUS.QUIESCENT at the end of the last step (R362). -/
  allQ : Bool := true
  /-- Where the DUMP in progress writes (R368). -/
  dumpAddr : Nat := 0
  deriving DecidableEq, Repr

/-! ### Hank and the Distaff -/

/-- A message that the Hank block has built and is not done with (R382, R385). -/
structure HankMsg where
  typ : Nat
  /-- The worker it goes to; 0 for a worker's own message to its manager. -/
  worker : Nat
  seq : Nat
  /-- Header and body. -/
  octets : List Byte
  /-- The tag control information of its VLAN tag, none where it was built without one; a retransmission keeps it (R382). -/
  vlan : Option Nat := none
  /-- The share or command, and the host operation, that it belongs to; how many items it carries and whether they count. -/
  share : Nat := 0
  tag : Option Nat := none
  count : Nat := 0
  handed : Bool := false
  /-- It draws an answer; its retransmissions so far; when its last frame left, none while one waits (R385). -/
  acks : Bool := false
  tries : Nat := 0
  left : Option Nat := none
  /-- Its command has ended while this frame of it is on the wire: the message goes with the frame (R363, R397). -/
  closing : Bool := false
  deriving DecidableEq, Repr

/-- What the Hank block holds besides the HANK registers. -/
structure Hank where
  nextId : Nat := 1
  msgs : Tab (Option HankMsg) := []
  /-- Frames that the class-7 bucket delays, each with its uplink; what the bucket lacks of being full, where a packet counts
  as many units as a second of monotonic time, and when that was brought up to date (R388). -/
  held : List (Nat × Packet) := []
  spent : Nat := 0
  spentAt : Nat := 0
  /-- The SEQ count of each worker, and the last 32 SEQ accepted from the manager (R384, R385). -/
  seqs : Tab Nat := []
  history : List Nat := []
  /-- When a message from the manager last passed check 5 (R386). -/
  lastMgr : Nat := 0
  /-- When each worker's last HELLO was accepted, or its entry began to wait for one, and when its last BIND was sent
  (R387). -/
  helloAt : Tab Nat := []
  bindAt : Tab Nat := []
  /-- The stored REG_RESP and the SEQ that it answers (R385), and the REMOTE_REG operations that wait, by worker. -/
  resp : Option (Nat × List Byte) := none
  regQ : Tab (List Nat) := []
  /-- The accesses of a REG_REQ are being carried out (R399). -/
  carrying : Bool := false
  deriving DecidableEq, Repr

/-- One command item (R383). -/
structure Item where
  seg : Nat
  node : Nat
  obj : Nat
  value : Nat
  deriving DecidableEq, Repr

/-- A staging payload (R390): its item capacity, its items, when the last one came, and whether it waits for the command
queue. -/
structure Stage where
  cap : Nat
  items : List Item := []
  last : Nat := 0
  closed : Bool := false
  deriving DecidableEq, Repr

/-- What is left of a walk (R374): a group to walk; the next member of a group's chain, how many are left, and the first
child; the rest of a list of siblings after child `c`. -/
inductive WalkItem where
  | group (g depth : Nat)
  | member (e left g child depth : Nat)
  | sibling (c depth : Nat)
  deriving DecidableEq, Repr

/-- An open FANOUT frame of a worker (R381): its items, the next part, and when its last item came. -/
structure OpenFrame where
  items : List Item := []
  part : Nat := 0
  last : Nat := 0
  deriving DecidableEq, Repr

/-- What the manager knows of a worker that was sent a part: whether it has sent SHARE_DONE, and its counts. -/
structure Reply where
  sent : Bool := false
  done : Bool := false
  onTime : Nat := 0
  late : Nat := 0
  deriving DecidableEq, Repr

/-- Where a fan-out command stands: accepted, walking, or walked. -/
inductive FanPhase where
  | waiting | walking | walked
  deriving DecidableEq, Repr

/-- The manager's side of a fan-out command (R378 to R381, R394). -/
structure FanCmd where
  tag : Nat
  group : Nat
  typ : Nat
  noDesc : Bool
  value : Nat
  leadMs : Nat
  phase : FanPhase := .waiting
  walk : List WalkItem := []
  seen : Nat := 0
  matched : Nat := 0
  groupInvalid : Bool := false
  noWorker : Bool := false
  dirError : Bool := false
  loop : Bool := false
  noTurn : Bool := false
  opens : Tab OpenFrame := []
  replies : Tab Reply := []
  deriving DecidableEq, Repr

/-- A share of a command at this part (R389): a worker's, or the manager's own with its command. -/
structure Share where
  cmdId : Nat
  /-- A in 1/64 ns of network time. -/
  apply : Int
  ramp : Nat
  /-- Items not yet staged, and how many have been. -/
  pending : List Item := []
  staged : Nat := 0
  /-- Staging has stopped on a full command queue; the leave has been asked for, and refused. -/
  stalled : Bool := false
  asked : Bool := false
  /-- LEAVE_DEADLINE_MISS has been raised for it (R81). -/
  missed : Bool := false
  /-- The apply event has fired (R393); A + TOL has passed (R392). -/
  fired : Bool := false
  expired : Bool := false
  /-- Worker: the parts received, the number of the LAST one, and the SHARE_DONE copies still to send, with the time of the
  next. -/
  parts : List Nat := []
  lastPart : Option Nat := none
  repeats : Option Nat := none
  nextAt : Nat := 0
  doneMsg : List Byte := []
  cmd : Option FanCmd := none
  deriving DecidableEq, Repr

/-- What the Distaff holds besides the DISTAFF and DRAM registers. -/
structure Distaff where
  nextKey : Nat := 1
  shares : Tab (Option Share) := []
  /-- The staging payload of share `k` for segment `n` at 96k + n. -/
  stages : Tab (Option Stage) := []
  /-- Records of the directory load still to come (R377), and the channels of the scrub (R403). -/
  bulkLeft : Nat := 0
  scrub : Nat := 0
  deriving DecidableEq, Repr

/-- Everything the block holds but the queue of commands. -/
structure Chip where
  /-- Every register field that does not read as its reset value, by cell key. -/
  regs : Tab Nat := []
  ports : Tab PortState := []
  /-- When the unseal of a page was armed through a port (R415), by page number times 4 plus the port's code. -/
  arms : Tab (Option Nat) := []
  /-- The W1C bits that hardware has set in this AON clock, by the key of their cell (R18). -/
  hwSet : Tab Nat := []
  ecc : Ecc := {}
  /-- The pages whose BLOCK_RESET has begun in this AON clock (R414, R418). -/
  resetting : List Nat := []
  /-- How many free values have been drawn (the model's own field; assumption log, entry 3). -/
  freeCtr : Nat := 0
  modes : Modes := {}
  power : PowerMgr := {}
  whorl : Whorl := {}
  image : Image := {}
  buffer : Buffer := {}
  /-- Operations whose tag is in use, by tag (R349). -/
  txOps : Tab TxOp := []
  reel : Reel := {}
  /-- AON clocks since reset. -/
  aon : Nat := 0
  carder : Carder := {}
  /-- Frames that the Carder has delivered to the Hank block, oldest first. -/
  hankIn : List Packet := []
  uplinks : Tab Uplink := []
  ply : Ply := {}
  hostq : HostQ := {}
  hank : Hank := {}
  distaff : Distaff := {}
  /-- The items of each share by their fate, by share number. -/
  fates : Tab Fates := []
  /-- The DRAM, octet by octet (R373). -/
  dram : List Host.Cell := []
  segs : Tab SegEng := []
  /-- The turn tables: word `w` of turn `t` of engine `n` at ((2n + which) × 65 + t) × 4 + w; `which` 0 admin, 1 oper. -/
  segTables : Tab Nat := []
  /-- The turn buffers: 32 KiB for each segment (R142). -/
  segBuf : List Host.Cell := []
  flyers : Tab Flyer := []
  /-- The Flyer tables: word `w` of slot `k` of Flyer `n` at (2n + k) × 132 + w (Table 05.1). -/
  flyTables : Tab Nat := []
  /-- The drift tables: node `k` of segment `n` at 64n + k. -/
  drift : Tab Drift := []
  chain : Chain := {}
  mirror : Mirror := {}
  /-- Writes issued to host memory, oldest first. -/
  hostWrites : List HostWrite := []
  deriving DecidableEq, Repr

/-- The block: what it holds, and the commands that wait, first in, first out. -/
structure State where
  chip : Chip := {}
  pending : List Instr := []
  deriving DecidableEq, Repr

/-- Why the block can stop. -/
inductive Fault where
  /-- The host broke a "must" of the spec and R5 leaves the response undefined: raised by the register-access commands on
  an address that is not word-aligned (R11). Safe: the spec gives no effect. -/
  | outsideContract
  deriving DecidableEq, Repr

/-- Why the model has no meaning for a command. -/
inductive Refusal where
  /-- The command is not modelled; raised by arms of `exec` only. Safe. -/
  | notModelled (mnemonic : String)
  /-- The operands are no command of this kind (WellFormed.lean says when); raised by `exec`'s meanings before any effect.
  Safe: such a command does not exist. -/
  | illFormed
  deriving DecidableEq, Repr

/-- The state right after reset: mode STANDBY, every register at the value of its Reset column, nothing waiting. -/
def State.reset : State := {}

end Sys2Proof.Machine
end

