-- ==== Sys2Proof/Machine/Ops.lean ====
section
/-!
DEFINITION. Machine/Ops.lean: the named operations on the block's registers, events and counters, and how a meaning on
the block becomes a meaning on the whole state.
Log entries: DEDUCED 24, 78; DESIGN CHOICE 2, 3, 84, 89 (notes/assumptions).
-/
namespace Sys2Proof.Machine

/-! ### Cells -/

/-- The key of a register cell: page, offset, low bit and index. -/
def cellKey (page off lo idx : Nat) : Nat := ((page * 4096 + off) * 32 + lo) * 65536 + idx

def FieldRow.width (r : FieldRow) : Nat := r.hi - r.lo + 1

/-- The cell of field `r` on page instance `n`, copy `i`. -/
def FieldRow.key (r : FieldRow) (n i : Nat) : Nat := cellKey (r.cls.base + n) r.off r.lo i

/-- The reset value of a cell of field `r`. -/
def FieldRow.reset (r : FieldRow) (n i : Nat) : Nat :=
  match r.rst with
  | .const v => v
  | .fuse => Config.fuse (r.key n i) % 2 ^ r.width
  | .byIndex l => l.getD i 0

/-- The value of field `r` of page instance `n`, copy `i`. -/
def Chip.fld (c : Chip) (r : FieldRow) (n : Nat := 0) (i : Nat := 0) : Nat :=
  Tab.get (r.reset n i) c.regs (r.key n i)

/-- The field set to `v`, cut to its width. -/
def Chip.setFld (c : Chip) (r : FieldRow) (v : Nat) (n : Nat := 0) (i : Nat := 0) : Chip :=
  { c with regs := Tab.put (r.reset n i) c.regs (r.key n i) (v % 2 ^ r.width) }

/-- The field as a truth value. -/
def Chip.on (c : Chip) (r : FieldRow) (n : Nat := 0) (i : Nat := 0) : Bool := c.fld r n i != 0

/-- A one-bit field set from a truth value. -/
def Chip.setBit (c : Chip) (r : FieldRow) (b : Bool) (n : Nat := 0) (i : Nat := 0) : Chip :=
  c.setFld r (if b then 1 else 0) n i

/-- A counter raised by `k`, saturating at its width. -/
def Chip.bumpBy (c : Chip) (r : FieldRow) (k : Nat) (n : Nat := 0) (i : Nat := 0) : Chip :=
  c.setFld r (min (c.fld r n i + k) (2 ^ r.width - 1)) n i

/-- A counter raised by one, saturating at its width. -/
def Chip.bump (c : Chip) (r : FieldRow) (n : Nat := 0) (i : Nat := 0) : Chip := c.bumpBy r 1 n i

/-- A counter raised by one that wraps. -/
def Chip.bumpWrap (c : Chip) (r : FieldRow) (n : Nat := 0) (i : Nat := 0) : Chip := c.setFld r (c.fld r n i + 1) n i

/-- A 64-bit value held in a pair of fields. -/
def Chip.fld64 (c : Chip) (lo hi : FieldRow) (n : Nat := 0) (i : Nat := 0) : Nat :=
  c.fld lo n i + 2 ^ 32 * c.fld hi n i

/-- A pair of fields set from one value. -/
def Chip.setFld64 (c : Chip) (lo hi : FieldRow) (v : Nat) (n : Nat := 0) (i : Nat := 0) : Chip :=
  (c.setFld lo v n i).setFld hi (v / 2 ^ 32) n i

/-- A 64-bit counter held in a pair of fields, raised by `k`, saturating. -/
def Chip.bump64 (c : Chip) (lo hi : FieldRow) (k : Nat) (n : Nat := 0) : Chip :=
  c.setFld64 lo hi (min (c.fld64 lo hi n + k) (2 ^ 64 - 1)) n

/-- A field of the page header. -/
def Chip.hdr (c : Chip) (r : HdrRow) (page : Nat) : Nat := Tab.get 0 c.regs (cellKey page r.off r.lo 0)

def Chip.setHdr (c : Chip) (r : HdrRow) (page v : Nat) : Chip :=
  { c with regs := Tab.put 0 c.regs (cellKey page r.off r.lo 0) (v % 2 ^ (r.hi - r.lo + 1)) }

/-- Every cell of a page back at its reset value, but for the offsets that `keep` keeps; an unseal of the page that is armed lapses
with PAGE_SEAL. -/
def Chip.resetPage (c : Chip) (page : Nat) (keep : Nat → Bool) : Chip :=
  { c with regs := c.regs.filter fun e =>
             e.1 / (4096 * 32 * 65536) != page || keep (e.1 / (32 * 65536) % 4096),
           arms := c.arms.filter fun e => e.1 / 4 != page || keep 0x01C }

/-! ### Free values -/

/-- The next free value. -/
def Chip.freeVal (c : Chip) : Nat := Config.freeValue c.freeCtr

/-- The block after drawing a free value. -/
def Chip.drawn (c : Chip) : Chip := { c with freeCtr := c.freeCtr + 1 }

/-! ### Domains and events -/

/-- The field of POWER.DOMAIN_STATE for a domain (R85). -/
def Domain.row : Domain → FieldRow
  | .aon => POWER.DOMAIN_STATE_AON
  | .seg => POWER.DOMAIN_STATE_SEG
  | .core => POWER.DOMAIN_STATE_CORE
  | .upl => POWER.DOMAIN_STATE_UPL
  | .host => POWER.DOMAIN_STATE_HOST
  | .mem => POWER.DOMAIN_STATE_MEM

/-- The domain state codes (R85). -/
abbrev domOFF : Nat := 0
abbrev domDEEP : Nat := 1
abbrev domLIGHT : Nat := 2
abbrev domON : Nat := 3
abbrev domLINK : Nat := 4

def Chip.dom (c : Chip) (d : Domain) : Nat := c.fld (Domain.row d)

def Chip.setDom (c : Chip) (d : Domain) (v : Nat) : Chip := c.setFld (Domain.row d) v

/-- The domain is neither OFF nor DEEP. -/
def Chip.domUp (c : Chip) (d : Domain) : Bool := c.dom d != domOFF && c.dom d != domDEEP

/-- Hardware has set the bits `v` of the W1C cell `key` in this clock (R18). -/
def Chip.hwMark (c : Chip) (key v : Nat) : Chip := { c with hwSet := Tab.upd 0 c.hwSet key (· ||| v) }

/-- What a host write of `v` leaves of a W1C cell that holds `cur`: a bit that hardware has set in the same clock ends set
(R17, R18). -/
def Chip.w1cLeft (c : Chip) (key cur v : Nat) : Nat :=
  let clear := v ^^^ (v &&& Tab.get 0 c.hwSet key)
  cur ^^^ (cur &&& clear)

/-- Hardware sets the bits `v` of a W1C field. -/
def Chip.flag (c : Chip) (r : FieldRow) (v : Nat := 1) (n : Nat := 0) (i : Nat := 0) : Chip :=
  (c.setFld r (c.fld r n i ||| v) n i).hwMark (r.key n i) v

/-- The key of a page's PAGE_EVT cell. -/
def evtKey (page : Nat) : Nat := cellKey page HDR.EVT.off HDR.EVT.lo 0

/-- Event `e` of page instance `n` is raised, unless its block's domain is OFF or DEEP (R413). -/
def Chip.raise (c : Chip) (e : Evt) (n : Nat := 0) : Chip :=
  if c.domUp e.cls.domain then
    (c.setHdr HDR.EVT (e.cls.base + n) (c.hdr HDR.EVT (e.cls.base + n) ||| 2 ^ e.bit)).hwMark (evtKey (e.cls.base + n)) (2 ^ e.bit)
  else c

/-- Event `e` of page instance `n` reads raised. -/
def Chip.raised (c : Chip) (e : Evt) (n : Nat := 0) : Bool := (c.hdr HDR.EVT (e.cls.base + n)).testBit e.bit

/-- PAGE_ERRCNT counts an access to the page (Table 12.4). -/
def Chip.errcnt (c : Chip) (page off : Nat) (port : Port) : Chip :=
  ((c.setHdr HDR.ERRCNT_COUNT page (min (c.hdr HDR.ERRCNT_COUNT page + 1) 65535)).setHdr
    HDR.ERRCNT_LAST_OFFSET page off).setHdr HDR.ERRCNT_LAST_PORT page port.code

/-- PAGE_ERRCNT of the page of a register field counts a refused write of it. -/
def Chip.refuse (c : Chip) (r : FieldRow) (port : Port) (n : Nat := 0) : Chip := c.errcnt (r.cls.base + n) r.off port

/-! ### Time -/

/-- One nanosecond, microsecond, millisecond and second in the unit of time, 2^-32 ns (R88). -/
abbrev nsQ : Nat := 2 ^ 32
abbrev usQ : Nat := 1000 * nsQ
abbrev msQ : Nat := 1000 * usQ
abbrev secQ : Nat := 1000 * msQ

/-- Monotonic time now. -/
def Chip.now (c : Chip) : Nat := c.whorl.mono

/-- Network time now (R92). -/
def Chip.net (c : Chip) : Int := c.whorl.mono + c.whorl.offset

/-- Network time now in whole nanoseconds. -/
def Chip.netNs (c : Chip) : Int := c.net / (nsQ : Int)

/-- The monotonic time since `t`. -/
def Chip.since (c : Chip) (t : Nat) : Nat := c.now - t

/-! ### Levels that follow other state -/

/-- The part is time ready (R49, R106): the lock state reads LOCKED or FREE. -/
def Chip.timeReady (c : Chip) : Bool := c.fld WHORL.LOCK_STATE_STATE == 2 || c.fld WHORL.LOCK_STATE_STATE == 4

/-- An uplink is ON: its bring-up is done (Table 02.7), so its link state is SEARCH or UP. -/
def Chip.uplinkOn (c : Chip) (n : Nat) : Bool := decide (3 ≤ c.fld UPLINK.LINK_STATUS_STATE n)

/-- An uplink is administratively enabled. -/
def Chip.uplinkEn (c : Chip) (n : Nat) : Bool := c.hdr HDR.CTRL_EN (PageCls.uplink.base + n) != 0

/-- DOMAINS_READY (Table 02.11): CORE, HOST, MEM and every enabled uplink are ON, and no image hold is in force. -/
def Chip.domainsReady (c : Chip) : Bool :=
  c.dom .core == domON && c.dom .host == domON && c.dom .mem == domON &&
    (List.range 4).all (fun n => !c.uplinkEn n || c.uplinkOn n) && !c.on GLOBAL.IMAGE_STATUS_HOLD

/-- The operation index of Table 02.8. -/
def LeaveOp.index : LeaveOp → Nat
  | .core => 0
  | .uplink _ => 1
  | .scrub _ => 2
  | .ruleLoad => 3
  | .dirLoad => 3
  | .bist _ => 4
  | .fanout _ => 5

/-- The sum of R73. -/
def Chip.committed (c : Chip) : Nat :=
  c.fld POWER.BASE_TOKENS + c.fld POWER.RESERVE_FANOUT_RESERVE +
    ((c.power.held.filter (fun h => !h.reserve)).map (·.cost)).sum

/-- Grants stop and R78 is suspended: a write of CEILING has set it below COMMITTED, which has not fallen to it since (R77). -/
def Chip.grantsStopped (c : Chip) : Bool := c.power.ceilingCut && decide (c.fld POWER.CEILING_TOKENS < c.committed)

/-- Throttling is in force: R78, where R77 does not suspend it. -/
def Chip.throttled (c : Chip) : Bool := c.power.throttling && !c.grantsStopped

/-- COMMITTED at CEILING or below ends the interval of R77. -/
def Chip.ceilingJudge (c : Chip) : Chip :=
  if c.fld POWER.CEILING_TOKENS < c.committed then c else { c with power := { c.power with ceilingCut := false } }

/-- The reserve tokens now granted (R80). -/
def Chip.reserveUsed (c : Chip) : Nat := ((c.power.held.filter (·.reserve)).map (·.cost)).sum

/-- The head of the highest-priority non-empty FIFO (R74). -/
def Chip.headReq (c : Chip) : Option LeaveReq :=
  match c.power.waiting.find? (·.prio == 0) with
  | some r => some r
  | none => match c.power.waiting.find? (·.prio == 1) with
    | some r => some r
    | none => match c.power.waiting.find? (·.prio == 2) with
      | some r => some r
      | none => c.power.waiting.find? (·.prio == 3)

/-- DRAM is trained and out of self-refresh. -/
def Chip.dramReady (c : Chip) : Bool :=
  (c.on DRAM.STATUS_TRAINED0 || c.on DRAM.STATUS_TRAINED1) && !c.on DRAM.STATUS_SELF_REFRESH && c.dom .mem == domON

/-- The thermal cause persists (R421): a trip has happened and MAX has not fallen below TRIP − HYST. -/
def Chip.thermalHolds (c : Chip) : Bool := c.modes.thermTripped

/-! ### Quiescence of the submission queues (R362) -/

/-- A tag lets its SQ be quiescent: it is FREE, or DONE and frozen. -/
def Chip.tagQuiet (c : Chip) (t : Nat) : Bool :=
  let st := c.fld HOSTQ.LEDGER_ENTRY0_STATE 0 t
  st == 0 || (st == 4 && c.on HOSTQ.LEDGER_ENTRY0_FROZEN 0 t)

def Chip.sqQuiescent (c : Chip) (q : Nat) : Bool := (Tab.get [] c.hostq.live q).all c.tagQuiet

/-- PAGE_STATUS.QUIESCENT of the HOSTQ page. -/
def Chip.allQuiescent (c : Chip) : Bool := c.hostq.live.all fun e => e.2.all c.tagQuiet

/-- The rise of the bit raises ALL_QUIESCENT. -/
def Chip.quiescentRise (c : Chip) : Chip :=
  let a := c.allQuiescent
  let c := if a && !c.hostq.allQ then c.raise EV.HOSTQ_ALL_QUIESCENT else c
  { c with hostq := { c.hostq with allQ := a } }

/-- Several single-copy fields set, one after another. -/
def Chip.setAll (c : Chip) (l : List (FieldRow × Nat)) : Chip := l.foldl (fun d e => d.setFld e.1 e.2) c

/-- The levels and the state they follow: the MODE and ROLE levels, the POWER sums and head, the limit of R86. A sum that does
not fit its field is cut to it (DESIGN CHOICE, assumption log, entry 89). -/
def Chip.levelValues (c : Chip) : List (FieldRow × Nat) :=
  let h := c.headReq
  let bit (b : Bool) : Nat := if b then 1 else 0
  [(POWER.DOMAIN_STATE_UPL, if (List.range 4).any (fun n => c.uplinkOn n) then domON else domOFF),
   (POWER.COMMITTED_TOKENS, c.committed), (POWER.COMMITTED_WAITING, c.power.waiting.length),
   (POWER.RESERVE_RESERVE_USED, c.reserveUsed), (POWER.ESTIMATE_LIMIT_MW, 168 * c.fld POWER.CEILING_TOKENS),
   (POWER.WAIT_HEAD_VALID, bit h.isSome),
   (POWER.WAIT_HEAD_INDEX, match h with | some r => LeaveOp.index r.op | none => 0),
   (POWER.WAIT_HEAD_PRIO, match h with | some r => r.prio | none => 0), (GLOBAL.ROLE_DRAM_READY, bit c.dramReady),
   (GLOBAL.MODE_TIME_READY, bit c.timeReady), (GLOBAL.MODE_DOMAINS_READY, bit c.domainsReady)]

/-- The SAFE causes that persist (R58). -/
def Chip.heldCauses (c : Chip) : List (FieldRow × Nat) :=
  (if c.modes.thermTripped then [(GLOBAL.SAFE_CAUSE_THERMAL, 1)] else []) ++
    (if !c.modes.corePllLock && c.dom .core == domON then [(GLOBAL.SAFE_CAUSE_CORE_PLL, 1)] else [])

/-- The levels brought in line with the state they follow. -/
def Chip.levels (c : Chip) : Chip := c.setAll (c.levelValues ++ c.heldCauses)

/-- Every step ends with the levels, and with the common quiescence of the SQs, brought up to date. -/
def Chip.settle (c : Chip) : Chip := c.quiescentRise.levels

/-! ### Meanings -/

/-- What a command answers. -/
abbrev Result := Host.Outcome State Fault Refusal

/-! ### Injected SRAM errors (R420) -/

/-- A write to word `w` of a store: the word is good again, and a pending injection for the store corrupts it. -/
def Ecc.write (e : Ecc) (store : Nat) (w : SramWord) : Ecc :=
  let bad := e.bad.filter (·.word != w)
  match e.inject with
  | some (k, two) => if k = store then { inject := none, bad := bad ++ [{ store := store, word := w, two := two }] } else { e with bad := bad }
  | none => { e with bad := bad }

def Chip.sramWrite (c : Chip) (store : Nat) (w : SramWord) : Chip := { c with ecc := c.ecc.write store w }

/-- The first key, of those in `ok`, whose entry differs between two tables. -/
def Tab.changed {V : Type} [DecidableEq V] (a b : Tab V) (ok : Nat → Bool) : Option Nat :=
  if a = b then none else ((a ++ b).find? fun e => ok e.1 && (a.contains e != b.contains e)).map (·.1)

/-- The key is that of a 32-bit counter, or of PAGE_ERRCNT (R412, R423). -/
def counterKey (k : Nat) : Bool :=
  let (page, off) := (k / 65536 / 32 / 4096, k / 65536 / 32 % 4096)
  match pageOf page with
  | some (cls, n) =>
    k == cellKey page HDR.ERRCNT_COUNT.off HDR.ERRCNT_COUNT.lo 0 || (decide (0x040 ≤ off) && cls.rows.any fun r => r.acc == .ro && r.lo == 0 && r.hi == 31 && k == r.key n (k % 65536))
  | none => false

/-- The key is that of a ledger entry. -/
def ledgerKey (k : Nat) : Bool :=
  [HOSTQ.LEDGER_ENTRY0_STATE, HOSTQ.LEDGER_ENTRY0_FROZEN, HOSTQ.LEDGER_ENTRY0_PARKED, HOSTQ.LEDGER_ENTRY0_SQ, HOSTQ.LEDGER_ENTRY0_OPCODE,
    HOSTQ.LEDGER_ENTRY0_STATUS, HOSTQ.LEDGER_ENTRY1_PROGRESS, HOSTQ.LEDGER_ENTRY1_CR].any fun r => k == r.key 0 (k % 65536)

/-- The word of a store that the block has written between `c` and `d`, as a change of its contents shows it. A write of equal data is
seen where it is made (`sramWrite`). The directory cache is part of the DRAM's contents in the model. -/
def Chip.sramWritten (c d : Chip) : Nat → Option SramWord
  | 0 => (Tab.changed c.reel.ctx d.reel.ctx fun _ => true).map (.cell .ctx)
  | 1 => if c.buffer.nextId = d.buffer.nextId then none else some (.frame c.buffer.nextId)
  | 2 =>
    match Tab.changed c.carder.exact d.carder.exact fun _ => true with
    | some k => some (.table 0 0 (k / 8) (k % 8))
    | none => match Tab.changed c.carder.tern d.carder.tern fun _ => true with
      | some k => some (.table 1 0 (k / 32) (k % 32))
      | none => (Tab.changed c.carder.action d.carder.action fun _ => true).map fun k => .table 2 0 (k / 8) (k % 8)
  | 3 => (Tab.changed c.segBuf d.segBuf fun _ => true).map fun k => .cell .segBuf (k / 8)
  | 4 => (Tab.changed c.dram d.dram fun _ => true).map fun k => .cell .dir (k / 16)
  | 5 =>
    match Tab.changed c.segTables d.segTables fun _ => true with
    | some k => some (.cell .turns k)
    | none => match Tab.changed c.reel.gcl d.reel.gcl fun _ => true with
      | some k => some (.cell .gateList k)
      | none => (Tab.changed c.drift d.drift fun _ => true).map (.cell .drift)
  | 6 =>
    match Tab.changed c.txOps d.txOps fun _ => true with
    | some k => some (.cell .ledger k)
    | none => (Tab.changed c.regs d.regs ledgerKey).map fun k => .cell .ledger (k % 65536)
  | _ =>
    match Tab.changed c.carder.nodes d.carder.nodes fun _ => true with
    | some k => some (.table 3 (k / 64 / 256) (k / 64 % 256) (k % 64))
    | none => match Tab.changed c.carder.profiles d.carder.profiles fun _ => true with
      | some k => some (.table 4 (k / 8) (k % 8) 0)
      | none => match Tab.changed c.carder.portDef d.carder.portDef fun _ => true with
        | some k => some (.table 5 (k / 256) (k % 256) 0)
        | none => match Tab.changed c.flyTables d.flyTables fun _ => true with
          | some k => some (.cell .flyTurns k)
          | none => match Tab.changed c.ply.sets d.ply.sets fun _ => true with
            | some k => some (.cell .sets k)
            | none => match Tab.changed c.carder.hits d.carder.hits fun _ => true with
              | some k => some (.cell .hits k)
              | none => (Tab.changed c.regs d.regs counterKey).map (.cell .counter)

/-- The block after a change from `c`: an injection pending since before it has corrupted the first write to its store. -/
def Chip.eccTake (c d : Chip) : Chip :=
  { d with ecc := match c.ecc.inject with
    | some (k, two) =>
      if d.ecc.inject = some (k, two) then (match c.sramWritten d k with | some w => d.ecc.write k w | none => d.ecc) else d.ecc
    | none => d.ecc }

/-- A command that changes the block by `f`. -/
def run (f : Chip → Chip) (s : State) : Result := .next { s with chip := (s.chip.eccTake (f s.chip)).settle }

/-- `f` where the happening has come about; otherwise the block is as it was. -/
def Chip.whenDue (c : Chip) (b : Bool) (f : Chip → Chip) : Chip := if b then f c else c

/-! ### Bits and octets -/

/-- Bits hi to lo of a word (R6). -/
def bitsOf (w hi lo : Nat) : Nat := (w >>> lo) % 2 ^ (hi - lo + 1)

/-- The value of octets sent most significant first (R8). -/
def beNat : List Byte → Nat
  | l => l.foldl (fun a b => a * 256 + b.toNat) 0

/-- The value of octets held least significant first (R7). -/
def leNat : List Byte → Nat
  | [] => 0
  | b :: r => b.toNat + 256 * leNat r

/-- `n` octets of a value, most significant first. -/
def beBytes (n v : Nat) : List Byte := (List.range n).map fun i => BitVec.ofNat 8 (v >>> (8 * (n - 1 - i)))

/-- `n` octets of a value, least significant first. -/
def leBytes (n v : Nat) : List Byte := (List.range n).map fun i => BitVec.ofNat 8 (v >>> (8 * i))

/-- One step of the CRC-32 of the IEEE 802.3 FCS, one bit, in the reflected form. -/
def crcBit (r : Nat) : Nat := if r % 2 = 1 then (r / 2) ^^^ 0xEDB88320 else r / 2

/-- The CRC register after one octet. -/
def crcByte (r : Nat) (b : Byte) : Nat :=
  crcBit (crcBit (crcBit (crcBit (crcBit (crcBit (crcBit (crcBit (r ^^^ b.toNat))))))))

/-- The CRC register after a list of octets. -/
def crcRun (r : Nat) (l : List Byte) : Nat := l.foldl crcByte r

/-- The CRC-32 of the IEEE 802.3 FCS of a list of octets, with the octet that the FCS sends first in bits 7 to 0. -/
def crc32 (l : List Byte) : Nat := crcRun 0xFFFFFFFF l ^^^ 0xFFFFFFFF

end Sys2Proof.Machine
end

