-- ==== Sys2Proof/Machine/Access.lean ====
section
/-!
DEFINITION. Machine/Access.lean: the register path that every access port shares (R406, R407): whether an access reaches
its page, the off-domain and LIGHT rules of R52, the unseal that an access disarms (R415), and the plain reading and
writing of fields by their access codes (R17 to R20).
Log entries: DEDUCED 14, 16, 18, 23; DESIGN CHOICE 84 (notes/assumptions).
-/
namespace Sys2Proof.Machine

/-- The mode codes of Table 02.1. -/
abbrev mRESET : Nat := 0
abbrev mSTANDBY : Nat := 1
abbrev mACQUIRE : Nat := 2
abbrev mRUN : Nat := 3
abbrev mHOLDOVER : Nat := 4
abbrev mSAFE : Nat := 5

/-- The mode in force. -/
def Chip.mode (c : Chip) : Nat := c.fld GLOBAL.MODE_MODE

/-- CORE takes frames: it is ON, and the mode is not SAFE, in which R470 counts it as not ON. -/
def Chip.coreOpen (c : Chip) : Bool := c.dom .core == domON && c.mode != mSAFE

def Chip.portState (c : Chip) (p : Port) : PortState := Tab.get {} c.ports p.code

def Chip.setPort (c : Chip) (p : Port) (st : PortState) : Chip := { c with ports := Tab.put {} c.ports p.code st }

/-- The port reaches the page space now (Table 12.1): BAR0 while the endpoint is in service (R56), Hank at a worker with
REMOTE_EN or within a request that it has begun (R399), the image loader in pass 2 (R465). -/
def Chip.reaches (c : Chip) (p : Port) : Bool :=
  c.mode != mRESET &&
    match p with
    | .bar0 => (c.dom .host == domON || c.dom .host == domLINK) && !c.modes.perst
    | .spi => true
    | .hank => (c.fld GLOBAL.ROLE_ROLE == 1 && c.on HANK.CFG_REMOTE_EN) || c.hank.carrying
    | .image => c.fld GLOBAL.IMAGE_STATUS_STATE == 3

/-- When port `p` armed an unseal of the page that is still armed (R415). -/
def Chip.armOf (c : Chip) (p : Port) (page : Nat) : Option Nat := Tab.get none c.arms (4 * page + p.code)

/-- The unseal that port `p` has armed lapses; ARMED reads 1 while another port's is armed. -/
def Chip.disarm (c : Chip) (p : Port) (page : Nat) : Chip :=
  let arms := Tab.put none c.arms (4 * page + p.code) none
  { c.setHdr HDR.SEAL_ARMED page (if arms.any fun e => e.1 / 4 == page then 1 else 0) with arms := arms }

/-- Any other access of the port that armed the page's unseal disarms it (R415). -/
def Chip.disarmBy (c : Chip) (p : Port) (page : Nat) : Chip :=
  if (c.armOf p page).isSome then c.disarm p page else c

/-- The count and the event of an access to a page whose domain is OFF or DEEP (R52). -/
def Chip.offDomain (c : Chip) : Chip := (c.bump GLOBAL.OFF_DOMAIN_CNT_COUNT).raise EV.GLOBAL_OFF_DOMAIN_ACCESS

/-- Some general lane or the Distaff is in LIGHT (R70). -/
def Chip.coreLight (c : Chip) : Bool := c.modes.laneLight != []

/-- The page's domain is LIGHT (R52, R70). -/
def Chip.pageLight (c : Chip) (cls : PageCls) : Bool :=
  c.dom cls.domain == domLIGHT || (cls.domain == .core && c.coreLight)

/-- A domain in LIGHT is woken (R69, R70); other domains are left alone. -/
def Chip.wakeLight (c : Chip) (cls : PageCls) : Chip :=
  if c.pageLight cls then
    let c := if c.dom cls.domain == domLIGHT then c.setDom cls.domain domON else c
    { c with modes := { c.modes with laneLight := [], lightFrom := c.whorl.mono } }.raise EV.POWER_WAKE_DONE
  else c

/-- One access through a port: nothing where the port does not reach the page space or no page has the number; the count of
R52 where the page's domain is down; else `f`, after a LIGHT domain is woken. `keepArm` is for PAGE_SEAL writes, which judge
the armed unseal themselves. -/
def Chip.access (c : Chip) (p : Port) (page : Nat) (keepArm : Bool) (f : Chip → Chip) : Chip :=
  if c.reaches p then
    match pageOf page with
    | none => c
    | some (cls, _) =>
      let up := c.domUp cls.domain
      let c := if keepArm && up then c else c.disarmBy p page
      if up then f (c.wakeLight cls) else c.offDomain
  else c

/-- An access to the page of a register field. -/
def Chip.accessField (c : Chip) (p : Port) (r : FieldRow) (n : Nat) (f : Chip → Chip) : Chip :=
  c.access p (r.cls.base + n) false f

/-! ### Fields by their access codes -/

/-- The copy that a selector register picks. -/
def Chip.selected (c : Chip) : Sel → Nat
  | .none => 0
  | .sq => c.fld HOSTQ.SQ_SEL_SQ
  | .cr => c.fld HOSTQ.CR_SEL_CR
  | .tag => c.fld HOSTQ.LEDGER_SEL_TAG
  | .worker => max 1 (c.fld HANK.WT_SEL_WORKER)

/-- Which copy of field `r` the offset addresses; none where it addresses another register. -/
def Chip.copyAt (c : Chip) (r : FieldRow) (off : Nat) : Option Nat :=
  if r.sel ≠ .none then (if off = r.off then some (c.selected r.sel) else none)
  else if r.count = 1 then (if off = r.off then some 0 else none)
  else if r.off ≤ off ∧ off < r.off + r.stride * r.count ∧ (off - r.off) % r.stride = 0 then
    some ((off - r.off) / r.stride)
  else none

/-- The fields at an offset of a page class, each with the copy addressed. -/
def Chip.fieldsAt (c : Chip) (cls : PageCls) (off : Nat) : List (FieldRow × Nat) :=
  cls.rows.filterMap fun r => (c.copyAt r off).map fun i => (r, i)

/-- One field of a write, by its access code (R17). -/
def Chip.writeField (c : Chip) (r : FieldRow) (n i v : Nat) (sealed : Bool) : Chip :=
  let b := bitsOf v r.hi r.lo
  match r.acc with
  | .rw => c.setFld r b n i
  | .w1c => c.setFld r (c.w1cLeft (r.key n i) (c.fld r n i) b) n i
  | .rws => if sealed then c else c.setFld r b n i
  | .ro => c
  | .wo => c

/-- The page is sealed, and the register at the offset has an RWS field (R19). -/
def Chip.sealedAt (c : Chip) (cls : PageCls) (n off : Nat) : Bool :=
  c.hdr HDR.SEAL_SEALED (cls.base + n) != 0 && (c.fieldsAt cls off).any (fun h => h.1.acc == .rws)

/-- A write of a register whose fields have no behaviour of their own, field by field (R17 to R20). A write to an RWS field of
a sealed page is refused and counted (R19). -/
def Chip.plainWrite (c : Chip) (cls : PageCls) (n off v : Nat) (p : Port) : Chip :=
  let sealed := c.hdr HDR.SEAL_SEALED (cls.base + n) != 0
  let c' := (c.fieldsAt cls off).foldl (fun d h => d.writeField h.1 n h.2 v sealed) c
  if c.sealedAt cls n off then (c'.errcnt (cls.base + n) off p).raise EV.GLOBAL_SEALED_WRITE else c'

/-- The word that the stored fields of a register read as (WO fields and reserved bits read 0). -/
def Chip.plainRead (c : Chip) (cls : PageCls) (n off : Nat) : Nat :=
  (c.fieldsAt cls off).foldl (fun w h => if h.1.acc == .wo then w else w ||| (c.fld h.1 n h.2 <<< h.1.lo)) 0

/-! ### SRAM errors (R419) -/

/-- The store is fatal; the bits of stores 5 and 6 always read 1. -/
def Chip.eccFatal (c : Chip) (store : Nat) : Bool := (c.fld GLOBAL.ECC_CFG_FATAL_MASK ||| 0x60).testBit store

/-- An error of a store is counted and recorded; an uncorrectable one of a fatal store sets SAFE_CAUSE.ECC_FATAL (R419). -/
def Chip.eccReport (c : Chip) (store addr : Nat) (uncorr : Bool) : Chip :=
  let c := ((c.setFld GLOBAL.ECC_LAST_STORE store).setBit GLOBAL.ECC_LAST_UNCORR uncorr).setFld GLOBAL.ECC_LAST_ADDR addr
  if !uncorr then (c.bump GLOBAL.ECC_CORR_COUNT 0 store).raise EV.GLOBAL_ECC_CORR
  else
    let c := (c.bump GLOBAL.ECC_UNCORR_COUNT 0 store).raise EV.GLOBAL_ECC_UNCORR
    if c.eccFatal store then (c.flag GLOBAL.SAFE_CAUSE_ECC_FATAL).raise EV.GLOBAL_ECC_FATAL else c

/-- The address of a bad word, as far as it is known: of a word of the ledger it is the tag (Table 12.7). -/
def BadWord.place (b : BadWord) : Option Nat :=
  match b.addr, b.word with
  | some a, _ => some a
  | none, .cell .ledger t => some t
  | none, _ => none

/-- The read of a bad word, by packet `id` where it is one's, is reported, unless SRAM_ECC_ERROR has reported this read already; an
address that the spec does not give is free (assumption log, entry 84). A corrected word is good again, and so is what held a packet
that is dropped for it, or a line of the directory cache, which is filled again (R419, R420). -/
def Chip.tellBad (id : Option Nat) (c : Chip) (b : BadWord) : Chip :=
  let stays := b.two && (match b.word with | .frame _ | .work _ | .cell .dir _ => false | _ => true)
  let c := { c with ecc := { c.ecc with
    bad := if stays then c.ecc.bad.map fun x => if x = b then { b with told := none } else x else c.ecc.bad.erase b } }
  if b.told.isSome && b.told == id then c
  else match b.place with
    | some a => c.eccReport b.store a b.two
    | none => c.drawn.eccReport b.store (c.freeVal % 2 ^ 24) b.two

/-- Words of an SRAM are read: each bad one of them is reported, and the uncorrectable ones are the answer. -/
def Chip.sramRead (c : Chip) (id : Option Nat) (reads : SramWord → Bool) : Chip × List BadWord :=
  let l := c.ecc.bad.filter fun b => reads b.word
  (l.foldl (Chip.tellBad id) c, l.filter (·.two))

end Sys2Proof.Machine
end

