-- ==== Sys2Proof/Machine/Ledger.lean ====
section
/-!
DEFINITION. Machine/Ledger.lean: the progress ledger (R363, R365, R367), how far an operation has got, and the Hank block's
record of the frames that it has in the Reel (R385).
Log entries: DEDUCED 72, 73, 78 (notes/assumptions).
-/
namespace Sys2Proof.Machine

/-- The ledger states of Table 10.13. -/
abbrev lgFREE : Nat := 0
abbrev lgNOT : Nat := 1
abbrev lgSTARTED : Nat := 2
abbrev lgPARTIAL : Nat := 3
abbrev lgDONE : Nat := 4

/-- The opcodes of Table 10.5. -/
abbrev opNOP : Nat := 0
abbrev opTX : Nat := 1
abbrev opRXPOST : Nat := 2
abbrev opFANOUT : Nat := 3
abbrev opREMOTE : Nat := 4

/-- The completion statuses of Tables 10.10 and 11.10. -/
abbrev csOK : Nat := 0
abbrev csONTIME : Nat := 1
abbrev csLATE : Nat := 2
abbrev csEXPIRED : Nat := 3
abbrev csTOOEARLY : Nat := 4
abbrev csUNDERRUN : Nat := 5
abbrev csLINKABORT : Nat := 6
abbrev csDROPPED : Nat := 7
abbrev csDUPLICATE : Nat := 8
abbrev csFLUSHED : Nat := 9
abbrev csPARTIAL : Nat := 10
abbrev csBADDESC : Nat := 11
abbrev csPCIEERROR : Nat := 12
abbrev csRXFULL : Nat := 13
abbrev csAPPLIEDLATE : Nat := 0x20
abbrev csAPPLIEDPART : Nat := 0x21
abbrev csAPPLYEXPIRED : Nat := 0x22
abbrev csROLELOST : Nat := 0x23
abbrev csNOTMANAGER : Nat := 0x24
abbrev csGROUPINVALID : Nat := 0x25
abbrev csNOLEAVE : Nat := 0x26
abbrev csRRNOWORKER : Nat := 0x28
abbrev csRRTIMEOUT : Nat := 0x29
abbrev csRRACCESS : Nat := 0x2A

/-! ### The ledger entry of a tag -/

def Chip.op (c : Chip) (t : Nat) : TxOp := Tab.get {} c.txOps t
def Chip.updOp (c : Chip) (t : Nat) (f : TxOp → TxOp) : Chip := { c with txOps := Tab.upd {} c.txOps t f }

def Chip.tagState (c : Chip) (t : Nat) : Nat := c.fld HOSTQ.LEDGER_ENTRY0_STATE 0 t
def Chip.setTagState (c : Chip) (t v : Nat) : Chip := c.setFld HOSTQ.LEDGER_ENTRY0_STATE v 0 t
def Chip.tagFrozen (c : Chip) (t : Nat) : Bool := c.on HOSTQ.LEDGER_ENTRY0_FROZEN 0 t
def Chip.freezeTag (c : Chip) (t : Nat) : Chip := c.setFld HOSTQ.LEDGER_ENTRY0_FROZEN 1 0 t
def Chip.tagSq (c : Chip) (t : Nat) : Nat := c.fld HOSTQ.LEDGER_ENTRY0_SQ 0 t
def Chip.tagCr (c : Chip) (t : Nat) : Nat := c.fld HOSTQ.LEDGER_ENTRY1_CR 0 t

/-- The operation is in flight: it is not final, and not frozen. -/
def Chip.opLive (c : Chip) (t : Nat) : Bool :=
  decide (1 ≤ c.tagState t) && decide (c.tagState t ≤ 3) && !c.tagFrozen t

def Chip.updHostq (c : Chip) (f : HostQ → HostQ) : Chip := { c with hostq := f c.hostq }

/-- The operation is final (Table 10.13): its completion is due, or stays frozen (R367). -/
def Chip.opDone (c : Chip) (t status : Nat) : Chip :=
  let c := (c.setTagState t lgDONE).setFld HOSTQ.LEDGER_ENTRY0_STATUS status 0 t
  if (c.op t).perst then c.freezeTag t else c.updHostq fun h => { h with due := h.due ++ [t] }

/-- Some effect of the operation may have appeared outside the Chrosal (Table 10.13). -/
def Chip.opStarted (c : Chip) (t : Nat) : Chip :=
  if c.opLive t && c.tagState t == lgNOT then c.setTagState t lgSTARTED else c

/-- `k` more units of the operation are complete; PROGRESS saturates. -/
def Chip.opProgress (c : Chip) (t k : Nat) : Chip :=
  if c.opLive t ∧ 0 < k then (c.bumpBy HOSTQ.LEDGER_ENTRY1_PROGRESS k 0 t).setTagState t lgPARTIAL else c

/-- An operation that ABORT ended after units of it were complete or begun (R363). -/
def Chip.opPartial (c : Chip) (t : Nat) : Chip := (c.bump HOSTQ.PARTIALS_COUNT).opDone t csPARTIAL

/-- An operation that ABORT withdrew unstarted (R363). -/
def Chip.opFlushed (c : Chip) (t : Nat) : Chip := (c.bump HOSTQ.FLUSHED_COUNT).opDone t csFLUSHED

/-- A TX operation whose last copy has its fate completes (R355); one that ABORT took copies from is PARTIAL (R363). -/
def Chip.txJudge (c : Chip) (t : Nat) : Chip :=
  let o := c.op t
  if c.opLive t && o.handed && o.open_ == 0 then (if o.aborted then c.opPartial t else c.opDone t o.status) else c

/-- A copy of a TX operation has its final fate: it was sent whole or not; the primary copy gives status, detail and egress
(R354, R355). -/
def Chip.opCopy (c : Chip) (t : Nat) (whole primary : Bool) (status detail egress : Nat) : Chip :=
  if c.opLive t then
    let c := c.updOp t fun o =>
      let o := { o with open_ := o.open_ - 1, sent := o.sent + (if whole then 1 else 0) }
      if primary then { o with status := status, detail := detail, egress := egress } else o
    (if whole then c.opProgress t 1 else c).txJudge t
  else c

/-- How many tags are in use. -/
def Chip.tagsUsed (c : Chip) : Nat := (c.txOps.filter fun e => e.2.words != []).length

/-- The tag becomes FREE. -/
def Chip.opFree (c : Chip) (t : Nat) : Chip :=
  let q := c.tagSq t
  let rows := [HOSTQ.LEDGER_ENTRY0_STATE, HOSTQ.LEDGER_ENTRY0_FROZEN, HOSTQ.LEDGER_ENTRY0_PARKED, HOSTQ.LEDGER_ENTRY0_SQ,
    HOSTQ.LEDGER_ENTRY0_OPCODE, HOSTQ.LEDGER_ENTRY0_STATUS, HOSTQ.LEDGER_ENTRY1_PROGRESS, HOSTQ.LEDGER_ENTRY1_CR]
  let c := rows.foldl (fun d r => d.setFld r 0 0 t) c
  let c := { c with txOps := Tab.put {} c.txOps t {} }
  c.updHostq fun h =>
    { h with live := Tab.put [] h.live q ((Tab.get [] h.live q).erase t), due := h.due.erase t, parked := h.parked.erase t,
             waiting := h.waiting.erase t }

/-! ### Shares and messages -/

def Chip.share? (c : Chip) (k : Nat) : Option Share := Tab.get none c.distaff.shares k
def Chip.setShare (c : Chip) (k : Nat) (v : Option Share) : Chip :=
  { c with distaff := { c.distaff with shares := Tab.put none c.distaff.shares k v } }
def Chip.updShare (c : Chip) (k : Nat) (f : Share → Share) : Chip :=
  match c.share? k with
  | some h => c.setShare k (some (f h))
  | none => c

/-- A change of a command's manager side. -/
def Share.updCmd (h : Share) (f : FanCmd → FanCmd) : Share := { h with cmd := h.cmd.map f }

/-- Items are handed over (R378). -/
def Chip.itemsOut (c : Chip) (tag : Option Nat) (k : Nat) : Chip :=
  let c := c.setFld DISTAFF.ITEMS_OUT_COUNT (c.fld DISTAFF.ITEMS_OUT_COUNT + k)
  match tag with
  | some t => c.opProgress t k
  | none => c

def Chip.msg (c : Chip) (id : Nat) : Option HankMsg := Tab.get none c.hank.msgs id
def Chip.updHank (c : Chip) (f : Hank → Hank) : Chip := { c with hank := f c.hank }
def Chip.setMsg (c : Chip) (id : Nat) (m : Option HankMsg) : Chip :=
  c.updHank fun h => { h with msgs := Tab.put none h.msgs id m }

/-- A worker has been sent a part of a command. -/
def Chip.partSent (c : Chip) (key w : Nat) : Chip :=
  c.updShare key fun h => h.updCmd fun m =>
    { m with replies := Tab.upd {} m.replies w fun r => { r with sent := true } }

/-- A frame of operation `t` that its ABORT waits for is on the wire. -/
def Chip.abortWaits (c : Chip) (t : Nat) : Bool :=
  c.hank.msgs.any fun e => match e.2 with | some m => m.closing && m.tag == some t | none => false

/-- An aborted FANOUT whose last unit in progress has finished completes (R363, R396). -/
def Chip.abortEnd (c : Chip) (t : Nat) : Chip := if c.opLive t && !c.abortWaits t then c.opPartial t else c

/-- The frame of message `id` has left the chip, whole or not: a whole one counts, and the first whole frame of a FANOUT hands
its items over; the answer is awaited from now on (R378, R385), or the message goes with the frame where its command has ended. -/
def Chip.hankLeft (c : Chip) (id : Nat) (whole : Bool) : Chip :=
  let c := if whole then c.bumpWrap HANK.TX_MSGS_COUNT else c
  match c.msg id with
  | none => c
  | some m =>
    if !m.acks then c.setMsg id none
    else
      let out := whole && m.count != 0 && !m.handed
      let c := c.setMsg id (if m.closing then none else some { m with left := some c.now, handed := m.handed || out })
      let c := if out then (c.itemsOut m.tag m.count).partSent m.share m.worker else c
      match m.tag with
      | some t => if m.closing then c.abortEnd t else c
      | none => c

/-- The frame of message `id` begins on the wire: a REMOTE_REG is STARTED (R398). -/
def Chip.hankBegins (c : Chip) (id : Nat) : Chip :=
  match c.msg id with
  | some m => if m.typ = 7 then (match m.tag with | some t => c.opStarted t | none => c) else c
  | none => c

end Sys2Proof.Machine
end

