-- ==== Sys2Proof/Machine/Power.lean ====
section
/-!
DEFINITION. Machine/Power.lean: leave, its FIFOs and grants, the fan-out reserve, the ceiling and throttling
(R71 to R81).
Log entries: DESIGN CHOICE 38 (notes/assumptions).
-/
namespace Sys2Proof.Machine

/-- How many channels a mask names. -/
def maskCount (m : BitVec 2) : Nat := (if m.getLsbD 0 then 1 else 0) + (if m.getLsbD 1 then 1 else 0)

/-- The cost of an operation, read when its request is made (R71); a scrub costs its COST per channel (Table 02.8). -/
def Chip.leaveCost (c : Chip) (op : LeaveOp) : Nat :=
  let t := c.fld POWER.COST_TOKENS 0 (LeaveOp.index op)
  match op with
  | .scrub m => t * maskCount m
  | _ => t

def Chip.leavePrio (c : Chip) (op : LeaveOp) : Nat := c.fld POWER.COST_PRIO 0 (LeaveOp.index op)

/-- The operation is a fan-out burst (index 5). -/
def LeaveOp.isFanout : LeaveOp → Bool
  | .fanout _ => true
  | _ => false

/-- CEILING − BASE − FANOUT_RESERVE (R75). -/
def Chip.generalBudget (c : Chip) : Int :=
  (c.fld POWER.CEILING_TOKENS : Int) - c.fld POWER.BASE_TOKENS - c.fld POWER.RESERVE_FANOUT_RESERVE

/-- The reserve not yet in use holds a cost (R80). -/
def Chip.reserveFits (c : Chip) (cost : Nat) : Bool :=
  decide (cost + c.reserveUsed ≤ c.fld POWER.RESERVE_FANOUT_RESERVE)

/-- What becomes of a request when it is made (R75, R80). -/
inductive LeaveAnswer where
  | granted | refused | queued
  deriving DecidableEq, Repr

def Chip.leaveAnswer (c : Chip) (op : LeaveOp) : LeaveAnswer :=
  let cost := c.leaveCost op
  if LeaveOp.isFanout op then
    if c.reserveFits cost && !c.grantsStopped then .granted
    else if c.generalBudget < cost ∧ c.fld POWER.RESERVE_FANOUT_RESERVE < cost then .refused
    else .queued
  else if c.generalBudget < cost then .refused
  else .queued

/-- A leave is held from now on. -/
def Chip.holdLeave (c : Chip) (op : LeaveOp) (cost : Nat) (reserve : Bool) : Chip :=
  ({ c with power := { c.power with held := c.power.held ++ [({ op := op, cost := cost, reserve := reserve } : LeaveHeld)] } }).bumpWrap
    POWER.LEAVE_GRANTS_COUNT

/-- A request for leave (R71, R74 to R76, R80). -/
def Chip.requestLeave (c : Chip) (op : LeaveOp) : Chip :=
  match c.leaveAnswer op with
  | .granted => c.holdLeave op (c.leaveCost op) true
  | .refused => c.raise EV.POWER_LEAVE_IMPOSSIBLE
  | .queued =>
    let r : LeaveReq := { op := op, prio := c.leavePrio op, cost := c.leaveCost op, since := c.now,
                          warnUs := c.fld POWER.LEAVE_WARN_LIMIT }
    let c := { c with power := { c.power with waiting := c.power.waiting ++ [r] } }
    if LeaveOp.isFanout op then c.raise EV.POWER_RESERVE_SHORT else c

/-- The operation waits for leave, or holds it. -/
def Chip.leaveWaiting (c : Chip) (op : LeaveOp) : Bool := c.power.waiting.any (·.op == op)
def Chip.leaveHeld (c : Chip) (op : LeaveOp) : Bool := c.power.held.any (·.op == op)

/-- The leave of an operation is released (R72), or its request withdrawn. -/
def Chip.releaseLeave (c : Chip) (op : LeaveOp) : Chip :=
  ({ c with power := { c.power with held := c.power.held.filter (·.op != op),
                                    waiting := c.power.waiting.filter (·.op != op) } }).ceilingJudge

/-- Throttling pauses a fan-out burst that holds leave; one that needs none goes on (R78). -/
def Chip.burstPaused (c : Chip) (key : Nat) : Bool := c.throttled && c.leaveHeld (.fanout key)

/-- The operation is a self-test of a block (index 4). -/
def LeaveOp.isBist : LeaveOp → Bool
  | .bist _ => true
  | _ => false

/-- A self-test that holds leave and is not paused (R78) may end with this clock, and its leave is released (R72). The spec gives
no length of a self-test: which clock ends it is free (DESIGN CHOICE, assumption log, entry 38). -/
def Chip.bistTick (c : Chip) : Chip :=
  match c.power.held.find? fun h => LeaveOp.isBist h.op with
  | some h => if c.throttled then c else if c.freeVal % 2 = 1 then c.drawn.releaseLeave h.op else c.drawn
  | none => c

/-- How the head is granted, if it can be: `some true` from the reserve, `some false` from the general budget (R74, R80). -/
def Chip.grantable (c : Chip) (r : LeaveReq) : Option Bool :=
  let general := decide (c.committed + r.cost ≤ c.fld POWER.CEILING_TOKENS)
  if c.grantsStopped then none
  else if LeaveOp.isFanout r.op then
    if c.reserveFits r.cost then some true
    else if c.generalBudget < r.cost then none
    else if general then some false else none
  else if general then some false else none

/-- The head is granted: it leaves its FIFO and its leave is held. -/
def Chip.grantHead (c : Chip) (r : LeaveReq) (reserve : Bool) : Chip :=
  ({ c with power := { c.power with waiting := c.power.waiting.erase r } }).holdLeave r.op r.cost reserve

/-- Some request has waited LEAVE_WARN µs without its event (R76). -/
def Chip.slowDue (c : Chip) : Bool := c.power.waiting.any fun r => !r.slow && decide (r.warnUs * usQ ≤ c.since r.since)

/-- LEAVE_SLOW is raised once for each request that has waited its LEAVE_WARN. -/
def Chip.leaveSlow (c : Chip) : Chip :=
  ({ c with power := { c.power with
      waiting := c.power.waiting.map fun (r : LeaveReq) => if r.warnUs * usQ ≤ c.since r.since then { r with slow := true } else r } }).raise
    EV.POWER_LEAVE_SLOW

def execLeaveSlow (s : State) : Result := run (fun c => c.whenDue c.slowDue Chip.leaveSlow) s

/-- A write of CEILING (R77, R86). -/
def Chip.ceilingWrite (c : Chip) (p : Port) (v : Nat) : Chip :=
  let c := c.plainWrite .power 0 POWER.CEILING_TOKENS.off v p
  if c.fld POWER.CEILING_TOKENS < c.committed then
    ({ c with power := { c.power with ceilingCut := true } }).raise EV.POWER_CEILING_BELOW_COMMITTED
  else c.ceilingJudge

def execCeilingWrite (port : Port) (value : Word) (s : State) : Result :=
  run (fun c => c.accessField port POWER.CEILING_TOKENS 0 fun d => d.ceilingWrite port value.toNat) s

/-- The power manager's estimate, in units of 1/160 token (R86), and the event of R78 above 1.05 × CEILING. -/
def Chip.newEstimate (c : Chip) (est : Nat) : Chip :=
  let c := c.setFld POWER.ESTIMATE_AVG_MW est
  if !c.grantsStopped && decide (168 * c.fld POWER.CEILING_TOKENS < est) then c.raise EV.POWER_OVER_LIMIT else c

/-- The estimate has reached CEILING. -/
def Chip.estimateHigh (c : Chip) (est : Nat) : Bool := decide (160 * c.fld POWER.CEILING_TOKENS ≤ est)

/-- The start of a throttling interval (R78, R87). -/
def Chip.throttleOn (c : Chip) (est : Nat) : Chip :=
  let c := c.newEstimate est
  if c.estimateHigh est && !c.power.throttling && !c.grantsStopped then
    ({ c with power := { c.power with throttling := true, throttleAcc := 0 } }).raise EV.POWER_THROTTLE_ON
  else c

def execThrottleOn (estimate : BitVec 16) (s : State) : Result := run (fun c => c.throttleOn estimate.toNat) s

/-- The end of a throttling interval. -/
def Chip.throttleOff (c : Chip) (est : Nat) : Chip :=
  let c := c.newEstimate est
  if !c.estimateHigh est then { c with power := { c.power with throttling := false } } else c

/-- Throttling counts each microsecond (R78). -/
def Chip.throttleTick (c : Chip) (eff : Nat) : Chip :=
  if c.throttled then
    let a := c.power.throttleAcc + eff
    if usQ ≤ a then
      ({ c with power := { c.power with throttleAcc := a - usQ } }).bump POWER.THROTTLE_CNT_COUNT
    else { c with power := { c.power with throttleAcc := a } }
  else c

/-- The microseconds that the head has waited, saturating (WAIT_HEAD.WAITED). -/
def Chip.headWaited (c : Chip) : Nat :=
  match c.headReq with
  | some r => min (c.since r.since / usQ) 0xFFFF
  | none => 0

/-- WAIT_HEAD with the time its head has waited; other POWER registers read as stored. -/
def Chip.powerRead (c : Chip) (off : Nat) : Nat :=
  if off = POWER.WAIT_HEAD_INDEX.off then c.plainRead .power 0 off % 2 ^ 16 + c.headWaited * 2 ^ 16
  else c.plainRead .power 0 off

end Sys2Proof.Machine
end

