-- ==== Sys2Proof/Machine/Buffer.lean ====
section
/-!
DEFINITION. Machine/Buffer.lean: the packet buffer and its pools (R269, R270), XOFF (R271), the ingress FIFOs (R224), and
the final fate of a copy (R269, R355).
-/
namespace Sys2Proof.Machine

/-- The port numbers of Table 01.2. -/
abbrev portHost : Nat := 0x80
abbrev portHank : Nat := 0x81
def isUplinkPort (p : Nat) : Bool := decide (p < 4)
def isSegPort (p : Nat) : Bool := decide (0x10 ≤ p ∧ p < 0x70)

/-- The cells that a frame of `f` octets occupies (R269). -/
def cellsOf (f : Nat) : Nat := (f + 255) / 256

/-- The shared pool: its size and its free cells (Table 08.2). -/
def Chip.sharedSize (c : Chip) : Nat := 32768 - 4 * 384 - c.buffer.c7Size
def Chip.sharedUsed (c : Chip) : Nat := (c.buffer.charge.map (·.2)).sum
def Chip.sharedFree (c : Chip) : Nat := c.sharedSize - c.sharedUsed

/-- The shared charge of an ingress port. -/
def Chip.chargeOf (c : Chip) (p : Nat) : Nat := Tab.get 0 c.buffer.charge p

/-- The limit of an ingress port's shared charge (R270). -/
def Chip.ingressLimit (c : Chip) (p : Nat) : Nat :=
  if isUplinkPort p then c.fld REEL.PORT_LIMITS_UPL_LIMIT
  else if isSegPort p then c.fld REEL.SEG_LIMITS_SEG_ING_LIMIT
  else c.fld REEL.PORT_LIMITS_HOST_LIMIT

/-- Headroom is open to uplink `p`: it may send pause frames and has sent XOFF (R270, step 3). -/
def Chip.headroomOpen (c : Chip) (p : Nat) : Bool :=
  isUplinkPort p && c.on UPLINK.PAUSE_CFG_TX_EN p && c.on UPLINK.PAUSE_STATUS_XOFF_SENT p

/-- The cells that a frame of `k` cells from port `p` takes, by the first step of R270 that applies; none when refused. -/
def Chip.cellsFor (c : Chip) (p k preclass : Nat) : Option Cells :=
  if k ≤ c.sharedFree ∧ c.chargeOf p + k ≤ c.ingressLimit p then some { shared := k }
  else if preclass = 7 ∧ c.buffer.c7Used + k ≤ c.buffer.c7Size then some { c7 := k }
  else if c.headroomOpen p ∧ Tab.get 0 c.buffer.headUsed p + k ≤ 384 then some { head := k }
  else none

/-- The conditions of R271 that assert and that release XOFF toward uplink `n`. -/
def Chip.xoffNeeded (c : Chip) (n : Nat) : Bool :=
  c.on UPLINK.PAUSE_CFG_TX_EN n &&
    (decide (c.fld REEL.XOFF_CFG_XOFF_CELLS ≤ c.chargeOf n) || decide (c.sharedFree < c.fld REEL.POOL_XOFF_FREE))
def Chip.xoffOver (c : Chip) (n : Nat) : Bool :=
  decide (c.chargeOf n ≤ c.fld REEL.XOFF_CFG_XON_CELLS) && decide (2 * c.fld REEL.POOL_XOFF_FREE ≤ c.sharedFree)

/-- The event XOFFn (Table 08.15). -/
def evXoff (n : Nat) : Evt := { cls := .reel, bit := 16 + n }

/-- XOFF toward uplink `n` is judged. -/
def Chip.xoffJudge (c : Chip) (n : Nat) : Chip :=
  let on := Tab.get false c.buffer.xoff n
  if !on && c.xoffNeeded n then
    (({ c with buffer := { c.buffer with xoff := Tab.put false c.buffer.xoff n true } }).bump REELGATE.XOFF_COUNT_COUNT n).raise
      (evXoff n)
  else if on && c.xoffOver n then
    { c with buffer := { c.buffer with xoff := Tab.put false c.buffer.xoff n false } }
  else c

def Chip.xoffJudgeAll (c : Chip) : Chip := (List.range 4).foldl Chip.xoffJudge c

/-- The cells are charged to ingress port `p`. The pool that falls below POOL_XOFF raises POOL_LOW (R271). -/
def Chip.chargeCells (c : Chip) (p : Nat) (k : Cells) : Chip :=
  let free0 := c.sharedFree
  let b := c.buffer
  let c := { c with buffer := { b with charge := Tab.put 0 b.charge p (Tab.get 0 b.charge p + k.shared),
                                       c7Used := b.c7Used + k.c7,
                                       headUsed := Tab.put 0 b.headUsed p (Tab.get 0 b.headUsed p + k.head) } }
  let lim := c.fld REEL.POOL_XOFF_FREE
  (if lim ≤ free0 ∧ c.sharedFree < lim then c.raise EV.REEL_POOL_LOW else c).xoffJudgeAll

/-- The cells return to their pools (R269). -/
def Chip.returnCells (c : Chip) (p : Nat) (k : Cells) : Chip :=
  let b := c.buffer
  ({ c with buffer := { b with charge := Tab.put 0 b.charge p (Tab.get 0 b.charge p - k.shared),
                               c7Used := b.c7Used - k.c7,
                               headUsed := Tab.put 0 b.headUsed p (Tab.get 0 b.headUsed p - k.head) } }).xoffJudgeAll

/-- The last octet of a copy was sent or taken (`whole`), or the copy was dropped: its cells return, and the operation or the
Hank message it belongs to takes note (R269, R355, R385). -/
def Chip.copyFate (c : Chip) (p : Packet) (whole : Bool) (status detail : Nat) : Chip :=
  let c := c.returnCells p.ingress p.cells
  match p.tag, p.hank with
  | some t, _ => c.opCopy t whole p.primary status detail p.out
  | none, some id => c.hankLeft id whole
  | none, none => c

/-- A copy is dropped with status DROPPED. -/
def Chip.dropCopy (c : Chip) (p : Packet) (detail : Nat) : Chip := c.copyFate p false csDROPPED detail

/-- A packet joins the express FIFO of its port when its pre-class is 7, else the general one (R224). -/
def Chip.enqueueIngress (c : Chip) (p : Packet) : Chip :=
  let b := c.buffer
  if p.preclass = 7 then
    { c with buffer := { b with express := Tab.put [] b.express p.ingress (Tab.get [] b.express p.ingress ++ [p]) } }
  else
    { c with buffer := { b with general := Tab.put [] b.general p.ingress (Tab.get [] b.general p.ingress ++ [p]) } }

/-- A frame enters from port `p` with the cells it was given. -/
def Chip.admitFrame (c : Chip) (p preclass : Nat) (bytes : List Byte) (stamp : Int) (k : Cells) (tag : Option Nat) : Chip :=
  let pk : Packet := { id := c.buffer.nextId, ingress := p, bytes := bytes, stamp := stamp, preclass := preclass,
                       since := c.now, cells := k, tag := tag }
  (({ c with buffer := { c.buffer with nextId := c.buffer.nextId + 1 } }).chargeCells p k).enqueueIngress pk

/-- A segment's frame goes to the Carder (R24): only while CORE is ON (R470), and only with cells for it (R270). -/
def Chip.segToCarder (c : Chip) (n : Nat) (bytes : List Byte) (stamp : Int) : Chip :=
  if c.coreOpen then
    let pre := c.fld SEGMENT.CFG_PRECLASS n
    match c.cellsFor (0x10 + n) (cellsOf bytes.length) pre with
    | some k => c.admitFrame (0x10 + n) pre bytes stamp k none
    | none => c.bump REEL.SEG_NOBUF_COUNT
  else c

end Sys2Proof.Machine
end

