-- ==== Sys2Proof/Machine/Seg.lean ====
section
/-!
DEFINITION. Machine/Seg.lean: what the Skein engines and the Flyers share: their records and tables (Tables 04.7 and 05.1),
the turn buffers (R142), the frames a segment carries (R131 to R136), and the drift table (R186 to R189).
Log entries: DEDUCED 41; DESIGN CHOICE 95 (notes/assumptions).
-/
namespace Sys2Proof.Machine

/-! ### Records -/

def Chip.eng (c : Chip) (n : Nat) : SegEng := Tab.get {} c.segs n
def Chip.setEng (c : Chip) (n : Nat) (e : SegEng) : Chip := { c with segs := Tab.put {} c.segs n e }
def Chip.updEng (c : Chip) (n : Nat) (f : SegEng → SegEng) : Chip := c.setEng n (f (c.eng n))

def Chip.fly (c : Chip) (n : Nat) : Flyer := Tab.get {} c.flyers n
def Chip.setFly (c : Chip) (n : Nat) (f : Flyer) : Chip := { c with flyers := Tab.put {} c.flyers n f }
def Chip.updFly (c : Chip) (n : Nat) (f : Flyer → Flyer) : Chip := c.setFly n (f (c.fly n))

def Chip.turnRec (c : Chip) (n t : Nat) : TurnRec := Tab.get {} (c.eng n).turns t
def Chip.updTurn (c : Chip) (n t : Nat) (f : TurnRec → TurnRec) : Chip :=
  c.updEng n fun e => { e with turns := Tab.upd {} e.turns t f }

/-- The engine states of Table 04.12. -/
abbrev sgDISABLED : Nat := 0
abbrev sgLISTEN : Nat := 1
abbrev sgCONTEND : Nat := 2
abbrev sgTRIAL : Nat := 3
abbrev sgMASTER : Nat := 4
abbrev sgFOLLOWWAIT : Nat := 5
abbrev sgFOLLOWER : Nat := 6
abbrev sgPLAIN : Nat := 7

def Chip.seg (c : Chip) (n : Nat) : Nat := c.fld SEGMENT.SYNC_STATUS_STATE n

/-! ### Turn tables (Table 04.7) -/

/-- Word `w` of turn `t` of a reset turn table (R137). -/
def turnDefault (t w : Nat) : Nat := if (t = 0 ∧ w = 1) ∨ (t = 64 ∧ w = 0) then 72000 else 0

def turnKey (n which t w : Nat) : Nat := ((2 * n + which) * 65 + t) * 4 + w

/-- Word `w` of turn `t`; `which` is 0 for the admin and 1 for the oper table. -/
def Chip.turnW (c : Chip) (n which t w : Nat) : Nat := Tab.get (turnDefault t w) c.segTables (turnKey n which t w)
def Chip.setTurnW (c : Chip) (n which t w v : Nat) : Chip :=
  { c with segTables := Tab.put (turnDefault t w) c.segTables (turnKey n which t w) v }

/-- The bits of a turn table word that Table 04.7 assigns; the others are reserved (R20). -/
def turnMask : Nat → Nat
  | 0 => 0x07FFFFFF
  | 1 => 0x00FFFFFF
  | 2 => 0x0FFF3F07
  | _ => 0x000107FF

/-- One turn of a table, its fields apart. -/
structure Turn where
  offset : Nat
  len : Nat
  kind : Nat
  owner : Nat
  base : Nat
  blocks : Nat
  maxPay : Nat
  asCommand : Bool
  deriving DecidableEq, Repr

def Chip.turn (c : Chip) (n which t : Nat) : Turn :=
  let a := c.turnW n which t 2
  let b := c.turnW n which t 3
  { offset := bitsOf (c.turnW n which t 0) 26 0, len := bitsOf (c.turnW n which t 1) 23 0,
    kind := bitsOf a 2 0, owner := bitsOf a 13 8, base := bitsOf a 23 16, blocks := bitsOf a 27 24,
    maxPay := bitsOf b 10 0, asCommand := bitsOf b 16 16 == 1 }

/-- Turn `t` of the oper table. -/
def Chip.oper (c : Chip) (n t : Nat) : Turn := c.turn n 1 t

def Turn.isDev (t : Turn) : Bool := t.kind == 2 || t.kind == 3
def Turn.isPartner (t : Turn) : Bool := t.kind == 1

/-- The static turns of the oper table that partners own. -/
def Chip.partnerTurns (c : Chip) (n : Nat) : List Nat := ((List.range 64).drop 1).filter fun t => (c.oper n t).isPartner

/-- The guard in force (Table 04.16). -/
def Chip.segGuard (c : Chip) (n : Nat) : Nat := max 500 (min 10000 (c.fld SEGMENT.GUARD_NS n))

/-- The airtime of a frame of `k` octets in ns (R131). -/
def airtime (k : Nat) : Nat := (k + 9) * 800

/-- The octets of a Skein frame with a payload of `p` octets (R131). -/
def skeinOctets (p : Nat) : Nat := max 64 (p + 26)

/-! ### The Flyer's slots (Table 05.1) -/

/-- Word `w` of a slot at reset (Table 05.9). -/
def flyDefault (w : Nat) : Nat := if w = 0 then 0x07D00000 else if w = 1 then 10000000 else 0

def Chip.flyW (c : Chip) (n slot w : Nat) : Nat := Tab.get (flyDefault w) c.flyTables ((2 * n + slot) * 132 + w)
def Chip.setFlyW (c : Chip) (n slot w v : Nat) : Chip :=
  { c with flyTables := Tab.put (flyDefault w) c.flyTables ((2 * n + slot) * 132 + w) v }

def Chip.slotId (c : Chip) (n slot : Nat) : Nat := bitsOf (c.flyW n slot 0) 15 0
def Chip.slotLen (c : Chip) (n slot : Nat) : Nat := bitsOf (c.flyW n slot 1) 26 0
def Chip.slotSealed (c : Chip) (n slot : Nat) : Bool := c.on FLYER.TT_SLOT_SEALED n slot

/-- A sealed slot of Flyer `n` has the TABLE_ID (check 7 of Table 04.8). -/
def Chip.flyHas (c : Chip) (n id : Nat) : Bool :=
  (c.slotSealed n 0 && c.slotId n 0 == id) || (c.slotSealed n 1 && c.slotId n 1 == id)

/-- A bit of FAULT_STATUS set by hardware, with GUARD_EVENT (R196). -/
def Chip.fault (c : Chip) (r : FieldRow) (n : Nat) : Chip := (c.flag r 1 n).raise EV.FLYER_GUARD_EVENT n

/-- The line delay in 2^-32 ns (R177). -/
def Chip.lineDelay (c : Chip) (n : Nat) : Nat := c.fld FLYER.LINE_DELAY_NS n * nsQ

/-! ### Turn buffers (R142, Table 04.9) -/

def Chip.bufByte (c : Chip) (n a : Nat) : Byte := Tab.get 0 c.segBuf (32768 * n + a)
def Chip.bufWord (c : Chip) (n a : Nat) : Nat := leNat (Tab.slice 0 c.segBuf (32768 * n + a) 4)
def Chip.putBuf (c : Chip) (n a : Nat) (l : List Byte) : Chip :=
  { c with segBuf := Tab.putList 0 c.segBuf (32768 * n + a) l }

/-- The address of bank `b` (0 A, 1 B, 2 safe) of a turn (R140). -/
def Turn.bank (t : Turn) (b : Nat) : Nat := 128 * (t.base + b * t.blocks)

/-- The LEN that a bank's header gives, and its payload. -/
def Chip.bankLen (c : Chip) (n : Nat) (t : Turn) (b : Nat) : Nat := bitsOf (c.bufWord n (t.bank b + 16)) 10 0
def Chip.bankPayload (c : Chip) (n : Nat) (t : Turn) (b : Nat) : List Byte :=
  Tab.slice 0 c.segBuf (32768 * n + t.bank b + 32) (c.bankLen n t b)

/-! ### Frames -/

/-- The MAC of SEGMENT `n`. -/
def Chip.segMac (c : Chip) (n : Nat) : Nat := c.fld SEGMENT.MAC_HI_ADDR n * 2 ^ 32 + c.fld SEGMENT.MAC_LO_ADDR n

abbrev macBroadcast : Nat := 0xFFFFFFFFFFFF

/-- The frame types of Table 04.2. -/
abbrev ftBEACON : Nat := 1
abbrev ftSTATE : Nat := 2
abbrev ftCOMMAND : Nat := 3
abbrev ftJOIN : Nat := 4
abbrev ftACK : Nat := 5
abbrev ftCOLDSTART : Nat := 6

/-- A Skein frame as the Chrosal sends it, with padding and FCS (R131, R133, R134). -/
def Chip.skeinFrame (c : Chip) (n dst typ flags cycle turn age : Nat) (body : List Byte) : List Byte :=
  let f := beBytes 6 dst ++ beBytes 6 (c.segMac n) ++ beBytes 2 0x88B5 ++ beBytes 1 (0x10 + typ) ++ beBytes 1 flags ++
    beBytes 2 cycle ++ beBytes 1 turn ++ beBytes 1 age ++ beBytes 2 body.length ++ body
  let f := f ++ List.replicate (60 - f.length) 0
  f ++ leBytes 4 (crc32 f)

/-- The flags that every frame of the engine carries: MASTER, SAFE and DUAL (Table 04.3). In a Skein frame from the Reel R147 rewrites
these three; the other FLAGS bits that the frame came with are sent as 0 (DESIGN CHOICE, assumption log, entry 95). -/
def Chip.segFlags (c : Chip) (n : Nat) (safe : Bool) : Nat :=
  (if c.seg n = sgMASTER then 0x80 else 0) + (if safe then 0x40 else 0) + (if c.on SEGMENT.CFG_DUAL n then 0x04 else 0)

/-- The flags of a BEACON or COLDSTART. -/
def Chip.beaconFlags (c : Chip) (n : Nat) (ext beacon : Bool) : Nat :=
  c.segFlags n false + (if ext then 0x20 else 0) +
    (if beacon && c.fld WHORL.LOCK_STATE_STATE == 3 then 0x10 else 0) + (if c.timeReady then 0 else 0x08)

/-- The body of Table 04.4 for a cycle that starts at network time `start` (2^-32 ns). -/
def Chip.beaconBody (c : Chip) (n : Nat) (start : Int) (trialLeft : Nat) : List Byte :=
  let ns := start / (nsQ : Int)
  beBytes 6 (unsigned 48 (ns / 1000000000)) ++ beBytes 4 (ns % 1000000000).toNat ++
    beBytes 4 (c.fld SEGMENT.OPER_CYCLE_LEN_NS n) ++ beBytes 2 (c.fld SEGMENT.TT_STATUS_OPER_TABLE_ID n) ++
    beBytes 1 (c.fld SEGMENT.NODE_CFG_NODE_ID n) ++ beBytes 1 (c.fld SEGMENT.NODE_CFG_CS_PRIO n) ++
    beBytes 1 trialLeft ++ [0]

/-- The engine asks its MAC to drive a frame from monotonic time `start` on; the Flyer judges the attempt (R183). The MAC
counts it whatever the Flyer does (R221). -/
def Chip.transmit (c : Chip) (n start : Nat) (octets : List Byte) : Chip :=
  (c.updEng n fun e => { e with lastTx := some { start := start, octets := octets },
                                txEnd := start + airtime octets.length * nsQ }).bump SEGMENT.MAC_TX_FRAMES_COUNT n

/-- A received segment frame, its parts apart; `body` is LEN octets, none where LEN reaches past the frame. -/
structure SegFrame where
  src : Nat
  dst : Nat
  skein : Bool
  ver : Nat
  typ : Nat
  flags : Nat
  cycle : Nat
  turn : Nat
  age : Nat
  len : Nat
  body : Option (List Byte)
  deriving DecidableEq, Repr

/-- The parts of a frame without its FCS. -/
def parseSeg (f : List Byte) : SegFrame :=
  let len := beNat ((f.drop 20).take 2)
  { dst := beNat (f.take 6), src := beNat ((f.drop 6).take 6), skein := beNat ((f.drop 12).take 2) == 0x88B5,
    ver := (f.getD 14 0).toNat / 16, typ := (f.getD 14 0).toNat % 16, flags := (f.getD 15 0).toNat,
    cycle := beNat ((f.drop 16).take 2), turn := (f.getD 18 0).toNat, age := (f.getD 19 0).toNat, len := len,
    body := if 22 + len ≤ f.length then some ((f.drop 22).take len) else none }

/-- The body of a received BEACON or COLDSTART (Table 04.4). -/
structure BeaconBody where
  cycleLen : Nat
  tableId : Nat
  node : Nat
  prio : Nat
  trialLeft : Nat
  deriving DecidableEq, Repr

/-- A well-formed body has the 20 octets of Table 04.4. -/
def parseBeacon (b : List Byte) : Option BeaconBody :=
  if b.length = 20 then
    some { cycleLen := beNat ((b.drop 10).take 4), tableId := beNat ((b.drop 14).take 2), node := (b.getD 16 0).toNat,
           prio := (b.getD 17 0).toNat, trialLeft := (b.getD 18 0).toNat }
  else none

/-! ### The frame that the Reel offers -/

/-- Queue `k` of output port `p`. -/
def Chip.queue (c : Chip) (p k : Nat) : List Packet := Tab.get [] c.reel.queues (8 * p + k)
def Chip.setQueue (c : Chip) (p k : Nat) (l : List Packet) : Chip :=
  { c with reel := { c.reel with queues := Tab.put [] c.reel.queues (8 * p + k) l } }

/-- The frame on offer leaves the Reel; `taken` says that the engine took it (R355). -/
def Chip.endOffer (c : Chip) (n : Nat) (taken : Bool) : Chip :=
  match (c.eng n).offer with
  | some (p, k) =>
    let c := c.updEng n fun e => { e with offer := none, deferred := false }
    (c.setQueue (0x10 + n) k ((c.queue (0x10 + n) k).erase p)).copyFate p taken (if taken then csOK else csDROPPED) (if taken then 0 else 7)
  | none => c

/-! ### Command payloads -/

/-- The command queue of segment `n`, with its two status fields (R149). -/
def Chip.setCmdq (c : Chip) (n : Nat) (q : List CmdPayload) : Chip :=
  ((c.updEng n fun e => { e with cmdq := q }).setFld SEGMENT.CMDQ_STATUS_DEPTH q.length n).setBit
    SEGMENT.CMDQ_STATUS_FULL (decide (64 ≤ q.length)) n

/-- Items of a local share meet their fate (R393). -/
def Chip.fateLost (c : Chip) (share k : Nat) : Chip :=
  { c with fates := Tab.upd {} c.fates share fun f => { f with lost := f.lost + k } }
def Chip.fateSent (c : Chip) (share k : Nat) (late : Bool) : Chip :=
  { c with fates := Tab.upd {} c.fates share fun f =>
      if late then { f with late := f.late + k } else { f with onTime := f.onTime + k } }

/-- A command payload is discarded and counted in TX_DROP (R148, R167). -/
def Chip.dropPayload (c : Chip) (n : Nat) (p : CmdPayload) : Chip :=
  (c.bump SEGMENT.TX_DROP_COUNT n).fateLost p.share p.count

/-! ### The drift table (R186 to R189) -/

def Chip.driftRec (c : Chip) (n k : Nat) : Drift := Tab.get {} c.drift (64 * n + k)
def Chip.setDrift (c : Chip) (n k : Nat) (d : Drift) : Chip := { c with drift := Tab.put {} c.drift (64 * n + k) d }

/-- One update of entry `k` with the measured `d` (R188, R189); `src` is the source address of an accepted frame. WARN is judged here and
not at a write of DRIFT_CFG.WARN_NS (DESIGN CHOICE, assumption log, entry 95). -/
def Chip.driftUpdate (c : Chip) (n k : Nat) (d : Int) (src : Option Nat) : Chip :=
  let r := c.driftRec n k
  let sh := min 8 (c.fld FLYER.DRIFT_CFG_AVG_SHIFT n)
  let avg := if r.valid then r.avg + (d - r.avg) / (2 ^ sh : Nat) else d
  let warn := decide (c.fld FLYER.DRIFT_CFG_WARN_NS n < avg.natAbs)
  let r' : Drift := { r with last := d, min_ := if r.valid then min r.min_ d else d,
                             max_ := if r.valid then max r.max_ d else d, avg := avg, valid := true, warn := warn,
                             samples := (r.samples + 1) % 65536,
                             mac := match src with | some m => m | none => r.mac }
  let c := c.setDrift n k r'
  if warn && !r.warn then c.fault FLYER.FAULT_STATUS_DRIFT_WARN n else c

/-- A window fault of node `k` (R187). -/
def Chip.windowFault (c : Chip) (n k : Nat) (d : Int) : Chip :=
  let c := c.driftUpdate n k d none
  let r := c.driftRec n k
  let r := if d < 0 then { r with early := min 65535 (r.early + 1) } else { r with late := min 65535 (r.late + 1) }
  ((c.setDrift n k r).bump FLYER.WIN_FAULTS_COUNT n).fault FLYER.FAULT_STATUS_WIN_FAULT n

/-- `d` lies in the acceptance window (R187). -/
def Chip.inWindow (c : Chip) (n : Nat) (d : Int) : Bool := decide (d.natAbs ≤ c.segGuard n)

/-- A DRIFT_CMD with GO = 1: an entry, or every entry, keeps its MAC and nothing else (R189). -/
def Chip.driftCmd (c : Chip) (n v : Nat) : Chip :=
  if bitsOf v 31 31 = 1 then
    let clear (c : Chip) (k : Nat) : Chip := c.setDrift n k { mac := (c.driftRec n k).mac }
    if bitsOf v 8 8 = 1 then (List.range 64).foldl clear c else clear c (bitsOf v 5 0)
  else c

def execDriftCmd (port : Port) (n : Fin 96) (value : Word) (s : State) : Result :=
  run (fun c => c.accessField port FLYER.DRIFT_CMD_GO n.val fun d => d.driftCmd n.val value.toNat) s

end Sys2Proof.Machine
end

