-- ==== Sys2Proof/Machine/Ctx.lean ====
section
/-!
DEFINITION. Machine/Ctx.lean: the flow contexts (R274, R275), refill (R276, R277), meters (R278, R279), per-flow shapers
(R280), and the ledger of class 7 with its conditions (R300 to R303).
Log entries: DEDUCED 30, 41, 61, 62, 63, 65, 67 (notes/assumptions).
-/
namespace Sys2Proof.Machine

/-! ### The context store -/

/-- A context word as the store keeps it: SHAPE_BUCKET, word 6, less one packet. A context of zeros has SHAPE_BURST acting as 1, and
its bucket is full since CORE left DEEP (R276, Table 08.3), so a context that the store does not list has the bucket 0x01000000. -/
def ctxKept (w v : Nat) : Nat := if w = 6 then (v + 0xFF000000) % 2 ^ 32 else v % 2 ^ 32

def Chip.ctxW (c : Chip) (i w : Nat) : Nat :=
  let v := Tab.get 0 c.reel.ctx (16 * i + w)
  if w = 6 then (v + 0x01000000) % 2 ^ 32 else v
def Chip.setCtxW (c : Chip) (i w v : Nat) : Chip :=
  { c with reel := { c.reel with ctx := Tab.put 0 c.reel.ctx (16 * i + w) (ctxKept w v) } }

/-- Bits hi to lo of word `w` of context `i`. -/
def Chip.ctxF (c : Chip) (i w hi lo : Nat) : Nat := bitsOf (c.ctxW i w) hi lo

/-- A word with bits hi to lo set to `v`. -/
def withBits (word hi lo v : Nat) : Nat :=
  word - bitsOf word hi lo * 2 ^ lo + v % 2 ^ (hi - lo + 1) * 2 ^ lo

def Chip.setCtxF (c : Chip) (i w hi lo v : Nat) : Chip := c.setCtxW i w (withBits (c.ctxW i w) hi lo v)

/-- inc(r) of R278. -/
def incOf (r : Nat) : Nat := r * 2 ^ 24 / 1000000

/-- One packet in a bucket. -/
abbrev onePkt : Nat := 2 ^ 24

def Chip.ctxCir (c : Chip) (i : Nat) : Nat := c.ctxF i 1 23 0
def Chip.ctxCbs (c : Chip) (i : Nat) : Nat := c.ctxF i 1 31 24
/-- PIR below CIR acts as CIR, PBS below CBS as CBS (Table 08.3). -/
def Chip.ctxPir (c : Chip) (i : Nat) : Nat := max (c.ctxF i 2 23 0) (c.ctxCir i)
def Chip.ctxPbs (c : Chip) (i : Nat) : Nat := max (c.ctxF i 2 31 24) (c.ctxCbs i)
def Chip.ctxBurst (c : Chip) (i : Nat) : Nat := max 1 (c.ctxF i 5 30 24)
def Chip.ctxBucket (c : Chip) (i : Nat) : Int := signed 32 (c.ctxW i 6)

/-- The low 24 bits of TICK_COUNT. -/
def Chip.tick24 (c : Chip) : Nat := c.fld REEL.TICK_COUNT_COUNT % 2 ^ 24

/-- The context brought up to date: the ticks since LAST_TICK applied at once (R276). -/
def Chip.ctxRefresh (c : Chip) (i : Nat) : Chip :=
  let n := (c.tick24 + 2 ^ 24 - c.ctxF i 7 23 0) % 2 ^ 24
  if n = 0 then c
  else
    let tc := min (c.ctxW i 3 + n * incOf (c.ctxCir i)) (c.ctxCbs i * onePkt)
    let tp := min (c.ctxW i 4 + n * incOf (c.ctxPir i)) (c.ctxPbs i * onePkt)
    let b := min (c.ctxBucket i + (n * incOf (c.ctxF i 5 23 0) : Nat)) (c.ctxBurst i * onePkt : Nat)
    (((c.setCtxW i 3 tc).setCtxW i 4 tp).setCtxW i 6 (unsigned 32 b)).setCtxW i 7 c.tick24

/-- The contexts that the store lists. -/
def Chip.ctxListed (c : Chip) : List Nat := (c.reel.ctx.map (·.1 / 16)).dedup

/-- The background sweep over every context with METER_EN or SHAPE_EN (R276). -/
def Chip.ctxSweep (c : Chip) : Chip :=
  c.ctxListed.foldl (fun d i => if d.ctxF i 0 1 0 = 0 then d else d.ctxRefresh i) c

def execContextSweep (s : State) : Result := run (fun c => c.whenDue (c.dom .core == domON) Chip.ctxSweep) s

/-- When CORE leaves DEEP, every bucket is at its cap (R276). -/
def Chip.ctxWake (c : Chip) : Chip :=
  c.ctxListed.foldl (fun d i =>
    (((d.setCtxW i 3 (d.ctxCbs i * onePkt)).setCtxW i 4 (d.ctxPbs i * onePkt)).setCtxW i 6 (d.ctxBurst i * onePkt)).setCtxW
      i 7 d.tick24) c

/-! ### Meter and shaper -/

/-- The colours of R278. -/
inductive Colour where
  | green | yellow | red
  deriving DecidableEq, Repr

/-- The meter at one packet (R278). -/
def Chip.meter (c : Chip) (i : Nat) : Chip × Colour :=
  let c := c.ctxRefresh i
  let tc := c.ctxW i 3
  let tp := c.ctxW i 4
  if tp < onePkt then (c, .red)
  else if tc < onePkt then (c.setCtxW i 4 (tp - onePkt), .yellow)
  else ((c.setCtxW i 4 (tp - onePkt)).setCtxW i 3 (tc - onePkt), .green)

/-- The shaper's bucket gives up one packet. A bucket that would fall out of the signed 8.24 format takes a free value: the
spec states none (assumption log, entry 3). -/
def Chip.shaperCharge (c : Chip) (i : Nat) : Chip :=
  let b := c.ctxBucket i - (onePkt : Int)
  if b < -(2 ^ 31) then (c.setCtxW i 6 c.freeVal).drawn else c.setCtxW i 6 (unsigned 32 b)

/-- The shaper at one packet: the eligibility tick E, none for a drop (R280). -/
def Chip.shaper (c : Chip) (i : Nat) : Chip × Option Nat :=
  let c := c.ctxRefresh i
  let b := c.ctxBucket i
  let t := c.fld REEL.TICK_COUNT_COUNT
  let inc := incOf (c.ctxF i 5 23 0)
  if (onePkt : Int) ≤ b then (c.shaperCharge i, some t)
  else if inc = 0 then (c, none)
  else
    let w := (((onePkt : Int) - b).toNat + inc - 1) / inc
    if c.fld REEL.SHAPE_CFG_MAX_WAIT_US < w then (c, none)
    else (c.shaperCharge i, some ((t + w) % 2 ^ 32))

/-- TICK_COUNT has reached E (the count wraps). -/
def Chip.tickReached (c : Chip) (e : Nat) : Bool :=
  decide ((c.fld REEL.TICK_COUNT_COUNT + 2 ^ 32 - e % 2 ^ 32) % 2 ^ 32 < 2 ^ 31)

/-! ### The gate lists as they stand (R282, R283) -/

/-- Word `w` of entry `i` of list `which` (0 admin, 1 oper) of uplink `n`. -/
def gclKey (n which i w : Nat) : Nat := ((2 * n + which) * 1024 + i) * 4 + w
def Chip.gclW (c : Chip) (n which i w : Nat) : Nat := Tab.get 0 c.reel.gcl (gclKey n which i w)

/-- An entry that has an effect: its start in the cycle in ns, its number, its gates and its operation. -/
structure GEntry where
  off : Nat
  idx : Nat
  gates : Nat
  op : Nat
  deriving DecidableEq, Repr

/-- A list: its base and cycle in ns, and the entries of a cycle that have an effect. -/
structure GList where
  base : Int
  cycle : Nat
  entries : List GEntry
  deriving DecidableEq, Repr

/-- The entries from number `i` on, `f` of them, the first starting at `cum`. -/
def Chip.gclFrom (c : Chip) (n which cycle : Nat) : Nat → Nat → Nat → List GEntry
  | 0, _, _ => []
  | f + 1, i, cum =>
    let w := c.gclW n which i 0
    let iv := c.gclW n which i 1
    let r := c.gclFrom n which cycle f (i + 1) (cum + iv)
    if iv ≠ 0 ∧ cum < cycle then { off := cum, idx := i, gates := bitsOf w 7 0, op := bitsOf w 9 8 } :: r else r

/-- Base time of a list in ns from its three registers. -/
def baseNs (hi lo ns : Nat) : Int := signed 48 (hi * 2 ^ 32 + lo) * 1000000000 + (ns : Int)

def Chip.operList (c : Chip) (n : Nat) : GList :=
  let t := c.fld REELGATE.OPER_CYCLE_NS_NS n
  { base := baseNs (c.fld REELGATE.OPER_BASE_SEC_HI_SEC n) (c.fld REELGATE.OPER_BASE_SEC_LO_SEC n)
      (c.fld REELGATE.OPER_BASE_NS_NS n)
    cycle := t, entries := c.gclFrom n 1 t (min 1024 (c.fld REELGATE.OPER_LEN_LEN n)) 0 0 }

def Chip.adminList (c : Chip) (n : Nat) : GList :=
  let t := c.fld REELGATE.ADMIN_CYCLE_NS_NS n
  { base := baseNs (c.fld REELGATE.ADMIN_BASE_SEC_HI_SEC n) (c.fld REELGATE.ADMIN_BASE_SEC_LO_SEC n)
      (c.fld REELGATE.ADMIN_BASE_NS_NS n)
    cycle := t, entries := c.gclFrom n 0 t (min 1024 (c.fld REELGATE.ADMIN_LEN_LEN n)) 0 0 }

/-- The list that governs class 7, none where every gate is open (R283). -/
def Chip.governing (c : Chip) (n : Nat) : Option GList :=
  if c.on REELGATE.GATE_STATUS_OPER_VALID n && c.on REELGATE.GATE_CTRL_ENABLE n && (c.operList n).entries != [] then
    some (c.operList n)
  else none

/-! ### Class 7: the ledger (R302) -/

/-- The stretches of a cycle in which class 7's gate is open, as (start, length) in ns: neighbours joined. -/
def openRuns (cycle : Nat) : List GEntry → List (Nat × Nat)
  | [] => []
  | e :: r =>
    let stop := match r with | [] => cycle | f :: _ => f.off
    let rest := openRuns cycle r
    if e.gates.testBit 7 then
      match rest with
      | (a, l) :: t => if a = stop then (e.off, stop - e.off + l) :: t else (e.off, stop - e.off) :: rest
      | [] => [(e.off, stop - e.off)]
    else rest

/-- The open stretches around the cycle: one that reaches the cycle's end joins one at its start. -/
def openCyclic (cycle : Nat) (l : List GEntry) : List (Nat × Nat) :=
  let r := openRuns cycle l
  match r, r.getLast? with
  | (0, a) :: t, some (b, m) => if 2 ≤ r.length ∧ b + m = cycle then t.dropLast ++ [(b, m + a)] else r
  | _, _ => r

/-- The largest gap between the start windows, in 0.01 ns: `first` is the start of the first window, `prev` the end of the
one before. -/
def gapMax (cycle first : Nat) : Nat → List (Nat × Nat) → Nat
  | prev, [] => first + cycle * 100 - prev
  | prev, (a, b) :: r => max (a - prev) (gapMax cycle first b r)

/-- The octet time of uplink `n` in 0.01 ns: of the speed in use, or of the configured one while the uplink is OFF (Table 06.1,
R198). -/
def Chip.c7Octet (c : Chip) (n : Nat) : Nat :=
  if (if c.fld UPLINK.LINK_STATUS_STATE n = 0 then c.on UPLINK.CFG_SPEED n else c.on UPLINK.LINK_STATUS_SPEED_IN_FORCE n) then 32 else 80

/-- What the fit test asks of a class-7 frame of 1,522 octets, 1,530 octet times, in 0.01 ns (R295). -/
def Chip.fit1522 (c : Chip) (n : Nat) : Nat := 1530 * c.c7Octet n

/-- G7 in 0.01 ns, none when no start fits (WINDOW fails), where a frame needs `fit` before the gate closes; and the open ns of a
cycle (R302). -/
def gateWait (fit : Nat) (g : Option GList) : Option Nat × Nat × Nat :=
  match g with
  | none => (some 0, 1, 1)
  | some l =>
    let runs := openCyclic l.cycle l.entries
    let opened := (runs.map (·.2)).sum
    if opened = l.cycle then (some 0, 1, 1)
    else
      let ok := (runs.filter fun r => fit ≤ r.2 * 100).map fun r => (r.1 * 100, (r.1 + r.2) * 100 - fit)
      match ok with
      | [] => (none, opened, l.cycle)
      | (a, b) :: r => (some (gapMax l.cycle a b r), opened, l.cycle)

/-- One flow of the ledger: CIR, CBS and wire octets per packet. -/
structure Flow where
  cir : Nat
  cbs : Nat
  w : Nat
  deriving DecidableEq, Repr

/-- The flow of context `i`. -/
def Chip.flowOf (c : Chip) (i : Nat) : Flow := { cir := c.ctxCir i, cbs := c.ctxCbs i, w := c.ctxF i 0 31 18 + 20 }

/-- The Hank class of the uplinks (R388). -/
def Chip.hankClass (c : Chip) : Nat := c.fld HANK.TX_CFG_CLASS

/-- The ledger of uplink `n`: its admitted contexts, and the Hank reservation when the Hank class is 7 (R302, R388). -/
def Chip.ledger (c : Chip) (n : Nat) : List Flow :=
  ((c.reel.admitted.filter fun i => c.ctxF i 0 17 10 = n).map c.flowOf) ++
    (if c.hankClass = 7 then [{ cir := c.fld HANK.C7_RES_CIR, cbs := max 1 (c.fld HANK.C7_RES_CBS), w := 1538 }] else [])

/-- S in b/s, and the burst part of B in 0.01 ns. -/
def rateSum (l : List Flow) : Nat := (l.map fun f => f.cir * f.w * 8).sum
def burstPart (l : List Flow) : Nat := (l.map fun f => f.cbs * f.w * 32).sum

/-- RATE fails: S > 0.5 × 25 × 10^9 × O7. -/
def rateFails (l : List Flow) (opened cycle : Nat) : Bool := decide (25000000000 * opened < 2 * rateSum l * cycle)

/-- BURST fails: B > C7_BUDGET. -/
def burstFails (l : List Flow) (g7 : Option Nat) (budgetNs : Nat) : Bool :=
  match g7 with
  | some g => decide (budgetNs * 100 * 25000000000 < burstPart l * 25000000000 + rateSum l * g)
  | none => decide (0 < rateSum l) || decide (budgetNs * 100 < burstPart l)

/-- The classes whose frames are express, as a mask without class 7 (R205, R300 bit [5]). -/
def Chip.expressMask (c : Chip) (n : Nat) : Nat :=
  let pre := if c.on UPLINK.MERGE_STATUS_ACTIVE n then c.fld UPLINK.MERGE_CFG_PREEMPT_CLASS n else 0
  (0x7F - pre) ||| (if c.hankClass = 7 then 0 else 2 ^ c.hankClass)

/-- EXPRESS fails: an express class other than 7 is open in some entry that has class 7 open. Where every gate is open, that
is so whenever there is such a class (R300). -/
def expressFails (g : Option GList) (mask : Nat) : Bool :=
  match g with
  | none => mask != 0
  | some l => l.entries.any fun e => e.gates.testBit 7 && (e.gates &&& mask) != 0

/-- Bits [9:1] of C7_COND (Table 08.8), bit [1] at weight 1. -/
def Chip.c7Fail (c : Chip) (n : Nat) : Nat :=
  let g := c.governing n
  let (g7, opened, cycle) := gateWait (c.fit1522 n) g
  let l := c.ledger n
  let mode7 := c.fld REELGATE.SHAPER_CFG_MODE n 7
  let bit (k : Nat) (b : Bool) : Nat := if b then 2 ^ (k - 1) else 0
  bit 1 (c.mode != mRUN) +
  bit 2 !(c.fld UPLINK.LINK_STATUS_STATE n == 4 && c.on UPLINK.LINK_STATUS_SPEED_IN_FORCE n) +
  bit 3 (c.on UPLINK.PAUSE_CFG_RX_EN n && !c.on UPLINK.PAUSE_CFG_EXPRESS_EXEMPT n) +
  bit 4 (mode7 == 1 || mode7 == 2 || (c.fld REELGATE.GATE_CTRL_LT_MODE n).testBit 7 ||
    (c.on UPLINK.MERGE_STATUS_ACTIVE n && c.fld UPLINK.MERGE_CFG_ADD_FRAG_SIZE n != 0)) +
  bit 5 (expressFails g (c.expressMask n)) +
  bit 6 (decide (c.fld REELGATE.QLIMIT_CELLS n 7 < 64) || decide (c.fld REEL.BUF_CFG_C7_RESERVE < 64)) +
  bit 7 g7.isNone + bit 8 (rateFails l opened cycle) + bit 9 (burstFails l g7 (c.fld REEL.C7_BUDGET_NS))

/-- The class-7 registers of uplink `n` re-evaluated (R300, R302, R303): C7_LOST is raised when OK falls. -/
def Chip.c7Eval (c : Chip) (n : Nat) : Chip :=
  let ok0 := c.on REELGATE.C7_COND_OK n
  let f := c.c7Fail n
  let (g7, opened, cycle) := gateWait (c.fit1522 n) (c.governing n)
  let l := c.ledger n
  let s := rateSum l
  let b := match g7 with
    | some g => burstPart l + (s * g + 24999999999) / 25000000000
    | none => if s = 0 then burstPart l else 0xFFFFFFFF
  let c := c.setFld REELGATE.C7_COND_FAIL f n
  let c := c.setBit REELGATE.C7_COND_OK (f == 0) n
  let c := c.setFld REELGATE.C7_GATE_WAIT_NS (match g7 with | some g => min ((g + 99) / 100) 0xFFFFFFFF | none => 0xFFFFFFFF) n
  let c := c.setFld REELGATE.C7_OPEN_FRACTION (opened * 65536 / cycle) n
  let c := c.setFld REELGATE.C7_RATE_SUM_KBPS (min ((s + 999) / 1000) 0xFFFFFFFF) n
  let c := c.setFld REELGATE.C7_BURST_SUM_CNS (min b 0xFFFFFFFF) n
  if ok0 && f != 0 then c.raise { cls := .reel, bit := 12 + n } else c

def Chip.c7EvalAll (c : Chip) : Chip := (List.range 4).foldl Chip.c7Eval c

/-! ### Admission (R301) -/

/-- The MAX_PAYLOADs of the DEV_QUEUE turns of segment `n`'s oper table. -/
def Chip.queueTurns (c : Chip) (n : Nat) : List Nat :=
  ((List.range 64).filter fun t => (c.oper n t).kind == 3).map fun t => (c.oper n t).maxPay

/-- The first check of Table 08.10 that refuses an ADD of context `i` toward `e`; 0 where it is accepted. -/
def Chip.addCause (c : Chip) (i e : Nat) : Nat :=
  let len := c.ctxF i 0 31 18
  if i = 0 ∨ c.ctxF i 0 9 9 = 1 then 1
  else if c.ctxF i 0 0 0 = 0 ∨ c.ctxCir i = 0 ∨ c.ctxCbs i = 0 then 2
  else if ¬ (isUplinkPort e ∨ isSegPort e) then 3
  else if len < 64 ∨ 1522 < len then 4
  else if isUplinkPort e then
    let (g7, opened, cycle) := gateWait (c.fit1522 e) (c.governing e)
    let l := c.ledger e ++ [c.flowOf i]
    if rateFails l opened cycle then 5
    else if burstFails l g7 (c.fld REEL.C7_BUDGET_NS) then 6 else 0
  else
    let n := e - 0x10
    let turns := c.queueTurns n
    let flows := (c.reel.admitted.filter fun j => c.ctxF j 0 17 10 = e) ++ [i]
    let cbs := (flows.map c.ctxCbs).sum
    let cir := (flows.map c.ctxCir).sum
    if turns.all fun m => decide (m + 26 < len) then 4
    else if turns.length * 1000000000 < cbs * 1000000000 + cir * c.fld SEGMENT.OPER_CYCLE_LEN_NS n then 7 else 0

/-- A judged request: STATE reads BUSY, and the result waits for the next AON tick (assumption log, entry 30). -/
def Chip.admitJudged (c : Chip) (cause : Nat) : Chip :=
  ({ c with reel := { c.reel with admitResult := some cause } }).setFld REEL.C7_ADMIT_STATUS_STATE 1

/-- The result of a judged request shows: DONE, or REFUSED with the cause (R301). -/
def Chip.admitShow (c : Chip) : Chip :=
  match c.reel.admitResult with
  | none => c
  | some cause =>
    let c := { c with reel := { c.reel with admitResult := none } }
    let c := (c.setFld REEL.C7_ADMIT_STATUS_STATE (if cause = 0 then 2 else 3)).setFld REEL.C7_ADMIT_STATUS_CAUSE cause
    c.raise (if cause = 0 then EV.REEL_C7_ADMIT_DONE else EV.REEL_C7_ADMIT_REFUSED)

/-- What an accepted request changes besides the context. -/
def Chip.admitDone (c : Chip) : Chip :=
  ((c.setFld REEL.C7_ADMITTED_COUNT c.reel.admitted.length).c7EvalAll).admitJudged 0

/-- An accepted ADD. -/
def Chip.admitAdd (c : Chip) (i e : Nat) : Chip :=
  let c := (c.setCtxF i 0 9 9 1).setCtxF i 0 17 10 e
  let a := c.reel.admitted
  ({ c with reel := { c.reel with admitted := a.filter (· < i) ++ [i] ++ a.filter (i < ·) } }).admitDone

/-- An accepted REMOVE. -/
def Chip.admitRemove (c : Chip) (i : Nat) : Chip :=
  let c := (c.setCtxF i 0 9 9 0).setCtxF i 0 17 10 0
  ({ c with reel := { c.reel with admitted := c.reel.admitted.filter (· ≠ i) } }).admitDone

/-- A write of C7_ADMIT_CMD (R301). It is judged and carried out in the step of the write, and STATE reads BUSY until the next AON tick
(assumption log, entry 30). -/
def Chip.admitCmd (c : Chip) (p : Port) (v : Nat) : Chip :=
  if c.fld REEL.C7_ADMIT_STATUS_STATE = 1 then c.refuse REEL.C7_ADMIT_CMD_CONTEXT p
  else
    let i := bitsOf v 17 0
    match bitsOf v 19 18 with
    | 1 =>
      let e := bitsOf v 27 20
      let cause := c.addCause i e
      if cause = 0 then c.admitAdd i e else c.admitJudged cause
    | 2 => if i = 0 ∨ c.ctxF i 0 9 9 = 0 then c.admitJudged 1 else c.admitRemove i
    | _ => c.admitJudged 1

def execC7AdmitAdd (port : Port) (value : Word) (s : State) : Result :=
  run (fun c => c.accessField port REEL.C7_ADMIT_CMD_CONTEXT 0 fun d => d.admitCmd port value.toNat) s

def execC7AdmitRemove (port : Port) (value : Word) (s : State) : Result :=
  run (fun c => c.accessField port REEL.C7_ADMIT_CMD_CONTEXT 0 fun d => d.admitCmd port value.toNat) s

/-! ### CTX_CMD (R275, R316) -/

/-- The bits of a context word that are assigned (Tables 08.3 and 09.2). -/
def ctxMask : Nat → Nat
  | 5 => 0x7FFFFFFF
  | 7 => 0x00FFFFFF
  | 9 => 0x0FFFFFFF
  | _ => 0xFFFFFFFF

/-- A replica output that Table 09.2 allows. -/
def replOutOk (o : Nat) : Bool := o == 0xFF || decide (o < 4) || isSegPort o || o == portHost

/-- The Ply words break R316. -/
def plyBad (i : Nat) (w : Nat → Nat) : Bool :=
  decide (128 < bitsOf (w 8) 19 12) ||
    (bitsOf (w 8) 2 2 == 1 && (bitsOf (w 9) 17 0 == 0 || bitsOf (w 9) 17 0 == i)) ||
    !replOutOk (bitsOf (w 11) 23 16) || !replOutOk (bitsOf (w 11) 31 24)

/-- HISTLEN in force (Table 09.2). -/
def Chip.histLen (c : Chip) (i : Nat) : Nat := max 1 (min 128 (c.ctxF i 8 19 12))

/-- HIST of a context, and HIST set with the bits at or above HISTLEN held at 0. -/
def Chip.hist (c : Chip) (i : Nat) : Nat :=
  c.ctxW i 12 + 2 ^ 32 * c.ctxW i 13 + 2 ^ 64 * c.ctxW i 14 + 2 ^ 96 * c.ctxW i 15
def Chip.setHist (c : Chip) (i h : Nat) : Chip :=
  let h := h % 2 ^ c.histLen i
  (((c.setCtxW i 12 h).setCtxW i 13 (h / 2 ^ 32)).setCtxW i 14 (h / 2 ^ 64)).setCtxW i 15 (h / 2 ^ 96)

/-- The words that a WRITE asks for: masked words from CTX_DATA, the others as they are. -/
def Chip.ctxWanted (c : Chip) (i mask w : Nat) : Nat :=
  let old := c.ctxW i w
  if mask.testBit w then
    let d := c.fld REEL.CTX_DATA_DATA 0 w &&& ctxMask w
    if w = 0 then withBits (withBits d 9 9 (bitsOf old 9 9)) 17 10 (bitsOf old 17 10)
    else if w = 7 then old else d
  else old

/-- The cause that refuses a WRITE, 0 for none. -/
def Chip.ctxCause (c : Chip) (i mask : Nat) : Nat :=
  let w := c.ctxWanted i mask
  if i = 0 then 1
  else if c.ctxF i 0 9 9 = 1 ∧
      (bitsOf (w 0) 0 0 ≠ c.ctxF i 0 0 0 ∨ bitsOf (w 0) 31 18 ≠ c.ctxF i 0 31 18 ∨ w 1 ≠ c.ctxW i 1) then 2
  else if 0x100 ≤ mask ∧ plyBad i w then 3
  else 0

/-- The WRITE of CTX_CMD. The context is first brought up to date at its old rates (R276, R277). -/
def Chip.ctxWrite (c : Chip) (i mask : Nat) (p : Port) : Chip :=
  let cause := c.ctxCause i mask
  if cause ≠ 0 then
    ((((c.setFld REEL.CTX_STATUS_REFUSED 1).setFld REEL.CTX_STATUS_CAUSE cause).refuse REEL.CTX_CMD_READ p).raise
      EV.REEL_CTX_REFUSED)
  else
    let c := c.ctxRefresh i
    let w := (List.range 16).map fun k => ctxKept k (c.ctxWanted i mask k)
    let c := { c with reel := { c.reel with ctx := Tab.putList 0 c.reel.ctx (16 * i) w } }
    let c := ((List.range 16).filter mask.testBit).foldl (fun d k => d.sramWrite 0 (.cell .ctx (16 * i + k))) c
    let c := if mask / 8 % 4 = 0 ∧ mask.testBit 6 = false then c else c.setCtxW i 7 c.tick24
    let c := if 0x100 ≤ mask then c.setHist i (c.hist i) else c
    ((c.setFld REEL.CTX_STATUS_REFUSED 0).setFld REEL.CTX_STATUS_CAUSE 0).c7EvalAll

/-- The READ of CTX_CMD. -/
def Chip.ctxRead (c : Chip) (i : Nat) : Chip :=
  let c := (c.sramRead none fun w => match w with | .cell .ctx k => k / 16 == i | _ => false).1.ctxRefresh i
  (List.range 16).foldl (fun d w => d.setFld REEL.CTX_DATA_DATA (d.ctxW i w) 0 w) c

/-- A write of CTX_CMD: the WRITE first, then the READ. It completes within 200 ns; in the model it completes with the
write, and BUSY reads 1 until the next AON tick (assumption log, entry 30). -/
def Chip.ctxCmd (c : Chip) (p : Port) (v : Nat) : Chip :=
  if c.on REEL.CTX_STATUS_BUSY then c.refuse REEL.CTX_CMD_READ p
  else
    let i := c.fld REEL.CTX_SEL_INDEX
    let c := if bitsOf v 1 1 = 1 then c.ctxWrite i (bitsOf v 31 16) p else c
    let c := if bitsOf v 0 0 = 1 then c.ctxRead i else c
    if bitsOf v 1 0 = 0 then c else c.setFld REEL.CTX_STATUS_BUSY 1

def execCtxRead (port : Port) (value : Word) (s : State) : Result :=
  run (fun c => c.accessField port REEL.CTX_CMD_READ 0 fun d => d.ctxCmd port value.toNat) s

def execCtxWrite (port : Port) (value : Word) (s : State) : Result :=
  run (fun c => c.accessField port REEL.CTX_CMD_READ 0 fun d => d.ctxCmd port value.toNat) s

end Sys2Proof.Machine
end

