-- ==== Sys2Proof/Machine/Whorl.lean ====
section
/-!
DEFINITION. Machine/Whorl.lean: the timebase (chapter 03): the increment, timestamps, the servo and its lock states,
holdover, changes of network time with the fired-up-to watermark, PPS and the cycle marks.
Log entries: DEDUCED 31, 32, 33, 34, 35, 36, 37; DESIGN CHOICE 90, 94 (notes/assumptions).
-/
namespace Sys2Proof.Machine

/-! ### The increment (R88, R89) -/

/-- The limits of the effective increment, 40 ns ± 1,000 ppm, in 2^-32 ns. -/
abbrev incMin : Int := 0x27F5C28F5C
abbrev incMax : Int := 0x280A3D70A4

/-- INC plus FREQ. -/
def Chip.incSum (c : Chip) : Int :=
  (c.fld WHORL.INC_LO_FRAC + 2 ^ 32 * c.fld WHORL.INC_HI_NS : Nat) + signed 32 (c.fld WHORL.FREQ_ADJ)

/-- The effective increment from the next AON tick on: the sum clamped to its limits. The one in use is `whorl.inc` (R89). -/
def Chip.incEff (c : Chip) : Nat := (max incMin (min incMax c.incSum)).toNat

/-- A new INC or FREQ: a sum outside the limits raises SERVO_SAT (R88), once for the write or the servo update, and not again at the
clocks while it stays outside (DESIGN CHOICE, assumption log, entry 94). -/
def Chip.rateChanged (c : Chip) : Chip :=
  if c.incSum < incMin ∨ incMax < c.incSum then c.raise EV.WHORL_SERVO_SAT else c

/-- FREQ set by the servo or by the host. A result that the signed 32-bit register cannot hold is set to the nearer end of its range
(DESIGN CHOICE, assumption log, entry 90: R104 gives no width, and R88 clamps the sum only). -/
def Chip.setFreq (c : Chip) (f : Int) : Chip :=
  (c.setFld WHORL.FREQ_ADJ (unsigned 32 (max (-(2 ^ 31)) (min (2 ^ 31 - 1) f)))).rateChanged

/-! ### Timestamps (R93 to R97). A timestamp is counted in 1/64 ns. -/

/-- A time in 2^-32 ns rounded to 1/64 ns (R93). -/
def round64 (t : Int) : Int := (t + 2 ^ 25) / 2 ^ 26

/-- How far into the current tick a TDC fraction lies, of 2,560 (R93). -/
def Chip.withinTick (c : Chip) (phi : Fin 2560) : Int := (phi.val * c.whorl.inc : Nat) / 2560

/-- The last tick not after monotonic time `m` of those `inc` apart of which `t` is one. -/
def tickAt (t inc m : Nat) : Nat := if t ≤ m then t + (m - t) / inc * inc else t - (t - m + inc - 1) / inc * inc

/-- The tick in which monotonic time `m` lies, with the increment and the OFFSET in use in it. -/
def tickOf (m t inc : Nat) (offset : Int) : List TimeRec → Nat × Nat × Int
  | [] => (tickAt t inc m, inc, offset)
  | r :: rest => if r.at_ ≤ m then (tickAt t inc m, inc, offset) else tickOf m r.last r.inc r.offset rest

def Chip.tickOf (c : Chip) (m : Nat) : Nat × Nat × Int :=
  Machine.tickOf m c.whorl.mono c.whorl.inc c.whorl.offset c.whorl.past

/-- The monotonic time that a TDC gives an edge at monotonic time `m`: its tick's counter value and the fraction φ of that tick,
resolved to 1/2,560. A scheduled output at `m` is placed there by the inverse operation: at the last position not after it (R93; DESIGN
CHOICE, assumption log, entry 90: the spec names no rounding). -/
def Chip.edgeMono (c : Chip) (m : Nat) : Nat :=
  let (t, inc, _) := c.tickOf m
  t + min 2559 ((m - t) * 2560 / inc) * inc / 2560

/-- The network time that a TDC gives the edge, by the OFFSET in force in the edge's own tick (R93, R96, Table 03.7). -/
def Chip.edgeNet (c : Chip) (m : Nat) : Int := c.edgeMono m + (c.tickOf m).2.2

/-- The reach of the record of changes: longer than any frame lasts on its line. -/
abbrev pastQ : Nat := 2 * msQ

/-- A change of OFFSET or of the increment at tick `at_` is put on record, once a tick. -/
def Whorl.note (w : Whorl) (at_ last : Nat) : Whorl :=
  if w.past.head?.any fun r => r.at_ == at_ then w
  else { w with past := { at_ := at_, last := last, inc := w.inc, offset := w.offset } ::
                  w.past.filter fun r => decide (at_ < r.at_ + pastQ) }

/-- How far into a tick of increment `inc` a scheduled output at `t` after its start is placed: at the last of the 2,560 positions not
after it (R93; DESIGN CHOICE, assumption log, entry 90: the spec names no rounding for the inverse operation). -/
def placeIn (inc t : Nat) : Nat := t * 2560 / inc * inc / 2560

/-- The monotonic time at which an output due at monotonic time `e`, in the tick that ends now, is placed; an output that is later
than that is placed now (R93, R115). -/
def Chip.placed (c : Chip) (e : Int) : Nat :=
  let t0 : Int := (c.whorl.mono : Int) - c.whorl.inc
  if e ≤ t0 ∨ (c.whorl.mono : Int) ≤ e then c.whorl.mono else (t0 + (placeIn c.whorl.inc (e - t0).toNat : Nat)).toNat

/-- The network time, and the monotonic time, of an edge at fraction `phi` of the current tick. -/
def Chip.netStamp (c : Chip) (phi : Fin 2560) : Int := round64 (c.net + c.withinTick phi)
def Chip.monoStamp (c : Chip) (phi : Fin 2560) : Int := round64 (c.whorl.mono + c.withinTick phi)

/-- The seconds (48 bits), nanoseconds and 1/64 ns of a timestamp (R90, R95). -/
def stampSec (t : Int) : Nat := unsigned 48 (t / 64 / 1000000000)
def stampNs (t : Int) : Nat := (t / 64 % 1000000000).toNat
def stampSub (t : Int) : Nat := (t % 64).toNat

/-- The three words of TS96 (Table 03.2): `form` 0 network, 1 monotonic time. -/
def ts96 (t : Int) (form : Nat) : List Nat :=
  [stampNs t, stampSec t % 2 ^ 32,
   stampSec t / 2 ^ 32 + stampSub t * 2 ^ 16 + form * 2 ^ 30 + 2 ^ 31]

/-- The corrected receive and transmit timestamps of uplink `n` (R97). -/
def Chip.rxStamp (c : Chip) (n : Nat) (phi : Fin 2560) : Int :=
  c.netStamp phi - ((c.fld WHORL.CAL_RX_DELAY 0 n : Nat) + signed 32 (c.fld WHORL.BOARD_RX_DELAY 0 n))
def Chip.txStamp (c : Chip) (n : Nat) (phi : Fin 2560) : Int :=
  c.netStamp phi + ((c.fld WHORL.CAL_TX_DELAY 0 n : Nat) + signed 32 (c.fld WHORL.BOARD_TX_DELAY 0 n))

/-- SNAP_CMD with GO = 1 captures both forms of time at one instant (Table 03.12). -/
def Chip.snapCmd (c : Chip) (v : Nat) (phi : Fin 2560) : Chip :=
  if bitsOf v 0 0 = 1 then
    let m := c.monoStamp phi
    let n := c.netStamp phi
    let c := c.setFld64 WHORL.SNAP_MONO_SEC_LO_SEC WHORL.SNAP_MONO_SEC_HI_SEC (stampSec m)
    let c := c.setFld WHORL.SNAP_MONO_NS_NS (stampNs m)
    let c := c.setFld64 WHORL.SNAP_NET_SEC_LO_SEC WHORL.SNAP_NET_SEC_HI_SEC (stampSec n)
    let c := c.setFld WHORL.SNAP_NET_NS_NS (stampNs n)
    let c := c.setFld WHORL.SNAP_SUB_MONO_SUB (stampSub m)
    let c := c.setFld WHORL.SNAP_SUB_NET_SUB (stampSub n)
    c.setFld WHORL.SNAP_SUB_DONE 1
  else c

def execSnapCmd (port : Port) (value : Word) (phi : Fin 2560) (s : State) : Result :=
  run (fun c => c.accessField port WHORL.SNAP_CMD_GO 0 fun d => d.snapCmd value.toNat phi) s

/-- The end of one calibration of the TDCs (R94). -/
def Chip.tdcResult (c : Chip) (ok : Bool) : Chip :=
  let c := { c with whorl := { c.whorl with tdcAt := c.now } }
  if ok then c.setFld WHORL.TDC_STATUS_CAL_OK 1
  else ((c.setFld WHORL.TDC_STATUS_CAL_OK 0).bump WHORL.TDC_STATUS_FAILS).raise EV.WHORL_TDC_CAL_FAIL

/-- A background calibration is due. -/
def Chip.tdcDue (c : Chip) : Bool :=
  c.mode != mRESET && c.on WHORL.TDC_CFG_CAL_EN &&
    decide (max 1 (c.fld WHORL.TDC_CFG_CAL_PERIOD_MS) * msQ ≤ c.since c.whorl.tdcAt)

def execTdcCalibration (ok : Bool) (s : State) : Result :=
  run (fun c => c.whenDue c.tdcDue fun d => d.tdcResult ok) s

/-! ### Lock state (R106) -/

abbrev lkUNLOCKED : Nat := 0
abbrev lkACQUIRING : Nat := 1
abbrev lkLOCKED : Nat := 2
abbrev lkHOLDOVER : Nat := 3
abbrev lkFREE : Nat := 4

def Chip.lock (c : Chip) : Nat := c.fld WHORL.LOCK_STATE_STATE

def Chip.setLock (c : Chip) (s : Nat) : Chip := c.setFld WHORL.LOCK_STATE_STATE s

/-- The time source is declared lost, with its cause. -/
def Chip.sourceLost (c : Chip) (cause : Nat) : Chip :=
  (c.setFld WHORL.LOCK_STATE_LOSS_CAUSE cause).raise EV.WHORL_SOURCE_LOST

/-- The first time in a holdover that HO_ERROR exceeds HO_LIMIT, HOLDOVER_LIMIT is raised once (R109). -/
def Chip.hoLimitCheck (c : Chip) : Chip :=
  if c.lock = lkHOLDOVER ∧ ¬ c.whorl.hoLimitRaised ∧ c.fld WHORL.HO_LIMIT_NS < c.fld WHORL.HO_ERROR_NS then
    { c with whorl := { c.whorl with hoLimitRaised := true } }.raise EV.WHORL_HOLDOVER_LIMIT
  else c

/-- The declared error after `ms` updates (R108), in ns. -/
def Chip.hoErrorAt (c : Chip) (e0 ms : Nat) : Nat :=
  min (e0 + (c.fld WHORL.HO_FREQ_PS_PER_S * ms * 2000000 + c.fld WHORL.HO_AGING_FS_PER_S2 * ms * ms) / 2000000000000)
    0xFFFFFFFF

/-- The mean of the servo's last FREQ values, toward zero. -/
def meanFreq (l : List Int) : Int := Int.tdiv l.sum l.length

/-- Entry to the HOLDOVER lock state (R108). FREQ is kept as it stands where the servo has made no update yet, and where SOURCE becomes
HOST before the host has written any FREQ (DESIGN CHOICE, assumption log, entry 94). -/
def Chip.enterHoldover (c : Chip) : Chip :=
  let c := c.setLock lkHOLDOVER
  let c := if (c.whorl.source = 1 ∨ c.whorl.source = 2) ∧ c.whorl.freqLog ≠ [] then c.setFreq (meanFreq c.whorl.freqLog)
    else c
  let last := signed 64 (c.fld64 WHORL.LAST_OFFSET_LO_VAL WHORL.LAST_OFFSET_HI_VAL)
  let e0 := (last.natAbs + 63) / 64
  let fault := c.on WHORL.REFCLK_STATUS_FAULT
  let c := { c with whorl := { c.whorl with hoStart := c.now, hoE0 := e0, hoMs := 0, hoFaulted := fault, hoLimitRaised := false } }
  let c := c.setFld WHORL.HO_ELAPSED_S 0
  let c := c.setFld WHORL.HO_ERROR_NS (if fault then 0xFFFFFFFF else c.hoErrorAt e0 0)
  c.hoLimitCheck

/-- The 1 ms update of HO_ERROR and HO_ELAPSED (R108). -/
def Chip.hoUpdate (c : Chip) : Chip :=
  let ms := c.whorl.hoMs + 1
  let c := { c with whorl := { c.whorl with hoMs := ms } }
  let c := c.setFld WHORL.HO_ELAPSED_S (min (ms / 1000) 0xFFFFFFFF)
  let c := if c.whorl.hoFaulted then c else c.setFld WHORL.HO_ERROR_NS (c.hoErrorAt c.whorl.hoE0 ms)
  c.hoLimitCheck

def Chip.hoUpdateDue (c : Chip) : Bool :=
  c.lock == lkHOLDOVER && decide ((c.whorl.hoMs + 1) * msQ ≤ c.since c.whorl.hoStart)

def execHoErrorUpdate (s : State) : Result := run (fun c => c.whenDue c.hoUpdateDue Chip.hoUpdate) s

/-! ### Changes of network time (R110 to R118) -/

abbrev stIDLE : Nat := 0
abbrev stSLEWING : Nat := 1
abbrev stWAIT : Nat := 2
abbrev stHOLDING : Nat := 3

def Chip.stepState (c : Chip) : Nat := c.fld WHORL.STEP_STATUS_STATE

/-- A change is pending (R111). -/
def Chip.stepPending (c : Chip) : Bool := c.stepState != stIDLE || c.whorl.step.whole

/-- The mode is RUN or HOLDOVER. -/
def Chip.running (c : Chip) : Bool := c.mode == mRUN || c.mode == mHOLDOVER

/-- The common cycle period in force for a written PERIOD_NS: a divisor of 10^9, else 10^9 (R114). -/
def boundaryPeriod (p : Nat) : Nat := if p ≠ 0 ∧ 1000000000 % p = 0 then p else 1000000000

/-- The first common cycle boundary later than network time `t` (R114), in 2^-32 ns. -/
def nextBoundary (t : Int) (periodNs : Nat) : Int := (t / (periodNs * nsQ : Nat) + 1) * (periodNs * nsQ : Nat)

/-- An accepted change of `d` (2^-32 ns) is set up by the row of Table 03.6 that applies; `origin` 0 host, 1 servo. While STATE is
IDLE, STEP_STATUS.BACKWARD and ORIGIN keep the values of the last change (DESIGN CHOICE, assumption log, entry 90). A change of 0
completes at once and raises no SLEW_DONE (DESIGN CHOICE, assumption log, entry 94). -/
def Chip.acceptChange (c : Chip) (d : Int) (origin : Nat) : Chip :=
  if d = 0 then c
  else
    let c := c.setBit WHORL.STEP_STATUS_BACKWARD (decide (d < 0))
    let c := c.setFld WHORL.STEP_STATUS_ORIGIN origin
    let ppm := c.fld WHORL.STEP_CFG_SLEW_PPM
    let p := boundaryPeriod (c.fld WHORL.STEP_BOUNDARY_PERIOD_NS)
    let st : StepChange := { remain := d, whole := false, slewPpm := max 1 (min 500 ppm), periodNs := p, boundary := 0, due := c.aon + 1 }
    if d.natAbs < usQ then
      ({ c with whorl := { c.whorl with step := st } }).setFld WHORL.STEP_STATUS_STATE stSLEWING
    else if 0 < d then
      { c with whorl := { c.whorl with step := { st with whole := true } } }
    else if c.running then
      if c.on WHORL.STEP_CFG_POLICY then
        ({ c with whorl := { c.whorl with step := { st with boundary := nextBoundary c.net p } } }).setFld
          WHORL.STEP_STATUS_STATE stWAIT
      else ({ c with whorl := { c.whorl with step := st } }).setFld WHORL.STEP_STATUS_STATE stSLEWING
    else
      ({ c with whorl := { c.whorl with step := { st with whole := true } } }).setFld WHORL.STEP_STATUS_STATE stHOLDING

/-- The change that an ADJ_CMD asks for (R110). -/
def Chip.adjChange (c : Chip) (abs : Bool) : Int :=
  let a := c.fld64 WHORL.ADJ_LO_NS WHORL.ADJ_HI_NS
  if abs then (a * nsQ : Nat) - c.net else signed 64 a * (nsQ : Int)

/-- A write of ADJ_CMD: accepted, or refused under R111. -/
def Chip.adjCmd (c : Chip) (p : Port) (v : Nat) : Chip :=
  if bitsOf v 0 0 = 1 then
    if c.whorl.source = 1 ∨ c.stepPending then (c.refuse WHORL.ADJ_CMD_GO p).raise EV.WHORL_STEP_REFUSED
    else c.acceptChange (c.adjChange (bitsOf v 1 1 == 1)) 0
  else c

def execAdjRequest (port : Port) (value : Word) (s : State) : Result :=
  run (fun c => c.accessField port WHORL.ADJ_CMD_GO 0 fun d => d.adjCmd port value.toNat) s

/-- A backward part of size `d` is applied: OFFSET falls, and the hold of R115 begins. -/
def Chip.applyBackward (c : Chip) (d : Nat) : Chip :=
  let w := c.whorl.note c.whorl.mono (c.whorl.mono - c.whorl.inc)
  let w := { w with offset := w.offset - d, mark := max w.mark w.mono + d,
                    step := { w.step with remain := w.step.remain + d, whole := false } }
  let w := { w with refillUs := ((w.mono : Int) + w.offset) / (usQ : Int) }
  (({ c with whorl := w }).setFld WHORL.STEP_STATUS_STATE stHOLDING).raise EV.WHORL_STEP_APPLIED

/-- A forward change is applied to OFFSET. A microsecond boundary on which network time lands exactly is still to give its
refill tick (Table 03.7). -/
def Chip.applyForward (c : Chip) : Chip :=
  let w := c.whorl.note c.whorl.mono (c.whorl.mono - c.whorl.inc)
  let off := w.offset + w.step.remain
  let t : Int := w.mono + off
  let w := { w with offset := off, step := {}, refillUs := (if t % (usQ : Int) = 0 then t / (usQ : Int) - 1 else t / (usQ : Int)) }
  ({ c with whorl := w }).raise EV.WHORL_STEP_APPLIED

/-- A whole change is applied at the tick after it was accepted, or after RUN and HOLDOVER were left (R112, R114). -/
def Chip.wholeDue (c : Chip) : Bool := c.whorl.step.whole && decide (c.whorl.step.due ≤ c.aon)

/-- The waiting change reaches its boundary: it is applied, at most one period of it (R114). -/
def Chip.boundaryDue (c : Chip) : Bool :=
  c.stepState == stWAIT && c.running && !c.whorl.step.whole && decide (c.whorl.step.boundary ≤ c.net)

def Chip.stepAtBoundary (c : Chip) : Chip :=
  c.applyBackward (min c.whorl.step.remain.natAbs (c.whorl.step.periodNs * nsQ))

/-- A slew whose remainder is applied is done (R113). -/
def Chip.slewOver (c : Chip) : Bool := c.stepState == stSLEWING && c.whorl.step.remain == 0

def Chip.slewDone (c : Chip) : Chip :=
  (({ c with whorl := { c.whorl with step := {} } }).setFld WHORL.STEP_STATUS_STATE stIDLE).raise EV.WHORL_SLEW_DONE

def execSlewDone (s : State) : Result := run (fun c => c.whenDue c.slewOver Chip.slewDone) s

/-- The hold ends when monotonic time reaches the watermark (R115); a remainder waits for the next boundary, or is applied at the next
tick where RUN and HOLDOVER have been left (R114; DEDUCED, assumption log, entry 90). -/
def Chip.holdOver (c : Chip) : Bool :=
  c.stepState == stHOLDING && !c.whorl.step.whole && decide (c.whorl.mark ≤ c.whorl.mono)

def Chip.holdEnd (c : Chip) : Chip :=
  let w := { c.whorl with mark := c.whorl.mono }
  if w.step.remain = 0 then
    (({ c with whorl := { w with step := {} } }).setFld WHORL.STEP_STATUS_STATE stIDLE).raise EV.WHORL_HOLD_END
  else
    (({ c with whorl := { w with step := { w.step with boundary := nextBoundary c.net w.step.periodNs, whole := !c.running,
                                                       due := c.aon + 1 } } }).setFld
      WHORL.STEP_STATUS_STATE stWAIT).raise EV.WHORL_HOLD_END

def execHoldEnd (s : State) : Result := run (fun c => c.whenDue c.holdOver Chip.holdEnd) s

/-- A backward part is applied in this tick. -/
def Chip.backwardNow (c : Chip) : Bool := c.boundaryDue || (c.wholeDue && decide (c.whorl.step.remain < 0))

/-- The network time of the next tick, and whether a backward part will be applied in it. -/
def Chip.nextNet (c : Chip) : Int := c.net + (c.incEff : Nat)
def Chip.backwardNext (c : Chip) : Bool :=
  (c.stepState == stWAIT && c.running && !c.whorl.step.whole && decide (c.whorl.step.boundary ≤ c.nextNet)) ||
    (c.whorl.step.whole && decide (c.whorl.step.remain < 0) && decide (c.whorl.step.due ≤ c.aon + 1))

/-- A watermarked event may fire now: the watermark is not ahead, and no backward part is applied in this tick (R114, R115). -/
def Chip.fires (c : Chip) : Bool := decide (c.whorl.mark ≤ c.whorl.mono) && !c.backwardNow

/-- A watermarked event of network time `t` may fire: at or before this tick's network time where the tick fires events, and further on
in the tick where the next tick, whose network time first reaches it, applies no backward part (R114, R115; DEDUCED, assumption log,
entry 94). -/
def Chip.firesAt (c : Chip) (t : Int) : Bool := c.fires && (decide (t ≤ c.net) || !c.backwardNext)

/-! ### The servo (R102 to R106) -/

/-- One servo update from a measured offset in 2^-32 ns (R104); `logTau` is log2 of τ in seconds. -/
def Chip.servoUpdate (c : Chip) (theta : Int) (logTau : Int) : Chip :=
  let ns := Int.tdiv theta nsQ
  let e := if 0 ≤ logTau then Int.tdiv ns (2 ^ logTau.toNat : Nat) else ns * (2 ^ (-logTau).toNat : Nat)
  let integ := c.whorl.integ + e / (2 ^ c.fld WHORL.SERVO_CFG_KI_SHIFT : Nat)
  let y := integ + e / (2 ^ c.fld WHORL.SERVO_CFG_KP_SHIFT : Nat)
  let f := Int.tdiv (-(y * 40 * 4294967296)) 1000000000
  let c := { c with whorl := { c.whorl with integ := integ } }
  let c := c.setFreq f
  { c with whorl := { c.whorl with freqLog := (signed 32 (c.fld WHORL.FREQ_ADJ) :: c.whorl.freqLog).take 16 } }

/-- log2 of τ (R104): LOG_SYNC for PTP, 0 for PPS. -/
def Chip.logTau (c : Chip) : Int := if c.whorl.source = 1 then signed 8 (c.fld WHORL.SERVO_CFG_LOG_SYNC) else 0

/-- τ in 2^-32 ns. -/
def Chip.tauQ (c : Chip) : Nat :=
  if 0 ≤ c.logTau then secQ * 2 ^ c.logTau.toNat else secQ / 2 ^ (-c.logTau).toNat

/-- The request of a step of −θ where R105 applies, else a servo update. -/
def Chip.stepOrServo (c : Chip) (theta : Int) : Chip :=
  if max 1000 (c.fld WHORL.STEP_THRESH_NS) * nsQ ≤ theta.natAbs ∧ ¬ c.stepPending then c.acceptChange (-theta) 1
  else c.servoUpdate theta c.logTau

/-- A valid measurement of θ (2^-32 ns) drives the lock state machine (Table 03.5, R103). R105 applies to every measurement in
ACQUIRING, also to the one that locks; the outlier-loss row ends in ACQUIRING. LAST_OFFSET takes θ + R rounded down to 1/64 ns, and
with LOCK_COUNT = 0 any measurement in ACQUIRING locks (DESIGN CHOICE, assumption log, entry 90). GOOD_RUN runs on across changes of the
lock state and of SOURCE (DESIGN CHOICE, assumption log, entry 94). -/
def Chip.measurement (c : Chip) (theta0 : Int) : Chip :=
  let theta := theta0 + c.whorl.step.remain
  let c := c.bumpWrap WHORL.MEAS_CNT_COUNT
  let c := c.setFld64 WHORL.LAST_OFFSET_LO_VAL WHORL.LAST_OFFSET_HI_VAL (unsigned 64 (theta / 2 ^ 26))
  let c := { c with whorl := { c.whorl with lastMeas := c.now } }
  let good := if theta.natAbs < c.fld WHORL.LOCK_CFG_LOCK_THRESH_NS * nsQ then
    min 255 (c.fld WHORL.LOCK_STATE_GOOD_RUN + 1) else 0
  let c := c.setFld WHORL.LOCK_STATE_GOOD_RUN good
  if c.lock = lkLOCKED then
    if theta.natAbs ≤ c.fld WHORL.OUTLIER_NS_NS * nsQ then
      (c.setFld WHORL.LOCK_STATE_OUTLIER_RUN 0).servoUpdate theta c.logTau
    else if c.fld WHORL.LOCK_STATE_OUTLIER_RUN + 1 < max 1 (c.fld WHORL.LOCK_CFG_OUTLIER_MAX) then
      ((c.bump WHORL.LOCK_STATE_OUTLIER_RUN).bump WHORL.OUTLIER_CNT_COUNT).raise EV.WHORL_OUTLIER
    else ((c.sourceLost 2).setLock lkACQUIRING).stepOrServo theta
  else if c.lock = lkACQUIRING then
    if c.fld WHORL.LOCK_CFG_LOCK_COUNT ≤ good ∧ ¬ c.stepPending then
      ((c.stepOrServo theta).setLock lkLOCKED).raise EV.WHORL_LOCKED
    else c.stepOrServo theta
  else if c.lock = lkUNLOCKED ∨ c.lock = lkHOLDOVER then (c.stepOrServo theta).setLock lkACQUIRING
  else c

/-- The servo's copy of a message (R101): SOURCE is PTP, the port is PTP_PORT and UP, the frame has EtherType 0x88F7 and has passed
checks 1 to 4 of Table 06.3, and the parent matches. -/
def Chip.ptpForServo (c : Chip) (n : Nat) (m : PtpMsg) : Bool :=
  c.whorl.source == 1 && c.fld WHORL.SERVO_CFG_PTP_PORT == n && c.fld UPLINK.LINK_STATUS_STATE n == 4 &&
    m.etherType == 0x88F7 && m.checked &&
    m.domain.toNat == c.fld WHORL.PARENT_ID_2_DOMAIN &&
    (!c.on WHORL.PARENT_ID_2_MATCH_EN ||
      (m.clockId.toNat == c.fld WHORL.PARENT_ID_0_ID * 2 ^ 32 + c.fld WHORL.PARENT_ID_1_ID &&
        m.portNumber.toNat == c.fld WHORL.PARENT_ID_2_PORT))

/-- θ of R102 for PTP, in 2^-32 ns: `t2` in 1/64 ns, `corr` in 2^-16 ns. -/
def Chip.ptpTheta (c : Chip) (t2 : Int) (sec ns : Nat) (corr : Int) : Int :=
  let n := c.fld WHORL.SERVO_CFG_PTP_PORT
  t2 * 2 ^ 26 - (((sec * 1000000000 + ns) * nsQ : Nat) + corr * 2 ^ 16 +
    ((c.fld WHORL.LINK_DELAY_DELAY 0 n : Nat) + signed 32 (c.fld WHORL.LINK_ASYM_ASYM 0 n)) * 2 ^ 26)

/-- A Sync received with corrected timestamp `t2`, in 1/64 ns (R101, R102). -/
def Chip.ptpSync (c : Chip) (t2 : Int) (m : PtpMsg) : Chip :=
  let corr := signed 64 m.corr.toNat
  if m.twoStep then
    { c with whorl := { c.whorl with sync := some { seq := m.seq.toNat, t2 := t2, corr := corr } } }
  else
    ({ c with whorl := { c.whorl with sync := none } }).measurement
      (c.ptpTheta t2 m.originSec.toNat m.originNs.toNat corr)

def execPtpSyncRx (n : Fin 4) (phi : Fin 2560) (m : PtpMsg) (s : State) : Result :=
  run (fun c => c.whenDue (c.ptpForServo n.val m) fun d => d.ptpSync (d.rxStamp n.val phi) m) s

/-- A Follow_Up makes the waiting Sync of the same sequenceId a measurement (R102). -/
def Chip.ptpFollowUp (c : Chip) (m : PtpMsg) : Chip :=
  match c.whorl.sync with
  | some r =>
    if r.seq = m.seq.toNat then
      ({ c with whorl := { c.whorl with sync := none } }).measurement
        (c.ptpTheta r.t2 m.originSec.toNat m.originNs.toNat (r.corr + signed 64 m.corr.toNat))
    else c
  | none => c

def execPtpFollowUpRx (n : Fin 4) (m : PtpMsg) (s : State) : Result :=
  run (fun c => c.whenDue (c.ptpForServo n.val m) fun d => d.ptpFollowUp m) s

/-- No valid measurement for LOSS_COUNT × τ in LOCKED or ACQUIRING (R106). -/
def Chip.measLost (c : Chip) : Bool :=
  (c.whorl.source == 1 || c.whorl.source == 2) && (c.lock == lkLOCKED || c.lock == lkACQUIRING) &&
    decide (max 1 (c.fld WHORL.SERVO_CFG_LOSS_COUNT) * c.tauQ ≤ c.since c.whorl.lastMeas)

def Chip.measLoss (c : Chip) : Chip :=
  (if c.lock = lkLOCKED then c.sourceLost 1 else c).enterHoldover

def execMeasurementLoss (s : State) : Result := run (fun c => c.whenDue c.measLost Chip.measLoss) s

/-- The rows of Table 03.5 for a change of SOURCE, taken at the next AON tick (R100, R106). -/
def Chip.sourceChange (c : Chip) : Chip :=
  let new := c.fld WHORL.SERVO_CFG_SOURCE
  let lk := c.lock
  let c := { c with whorl := { c.whorl with source := new, sync := none, lastMeas := c.now } }
  if new = 0 then c.setLock lkFREE
  else if new = 1 ∨ new = 2 then
    if lk = lkLOCKED then (c.sourceLost 4).setLock lkUNLOCKED
    else if lk = lkHOLDOVER then c
    else ({ c with whorl := { c.whorl with integ := 0 } }).setLock lkUNLOCKED
  else if c.on WHORL.SERVO_CFG_HOST_LOCK then c.setLock lkLOCKED
  else if lk = lkLOCKED then (c.sourceLost 4).enterHoldover
  else if lk = lkHOLDOVER then c
  else c.setLock lkUNLOCKED

def execSourceChange (s : State) : Result :=
  run (fun c => c.whenDue (c.fld WHORL.SERVO_CFG_SOURCE != c.whorl.source) Chip.sourceChange) s

/-- A write of SERVO_CFG. With SOURCE = HOST in force, HOST_LOCK written 1 locks and written 0 from LOCKED enters HOLDOVER
(Table 03.5). Where the same write moves SOURCE away from HOST, this row comes first, and the change of SOURCE follows at the next
tick (R100; DESIGN CHOICE, assumption log, entry 90). -/
def Chip.servoCfgWrite (c : Chip) (p : Port) (v : Nat) : Chip :=
  let c := c.plainWrite .whorl 0 WHORL.SERVO_CFG_SOURCE.off v p
  if c.whorl.source = 3 then
    if bitsOf v 28 28 = 1 then
      if c.lock ≠ lkLOCKED ∧ ¬ c.on WHORL.REFCLK_STATUS_FAULT then (c.setLock lkLOCKED).raise EV.WHORL_LOCKED else c
    else if c.lock = lkLOCKED then (c.sourceLost 3).enterHoldover else c
  else c

def execHostLockWrite (port : Port) (value : Word) (s : State) : Result :=
  run (fun c => c.accessField port WHORL.SERVO_CFG_SOURCE 0 fun d => d.servoCfgWrite port value.toNat) s

/-! ### REFCLK (R107) -/

/-- A REFCLK fault is declared. With SOURCE = HOST no row of Table 03.5 applies to it (R106). -/
def Chip.refclkFault (c : Chip) : Chip :=
  let c := (c.setFld WHORL.REFCLK_STATUS_FAULT 1).setFld WHORL.REFCLK_STATUS_ON_INTERNAL 1
  let c := c.raise EV.WHORL_REFCLK_FAULT
  let c :=
    if c.lock = lkHOLDOVER then { c with whorl := { c.whorl with hoFaulted := true } }
    else if c.whorl.source = 1 ∨ c.whorl.source = 2 then
      (if c.lock = lkLOCKED then c.sourceLost 5 else c).enterHoldover
    else c
  let c := c.setFld WHORL.HO_ERROR_NS 0xFFFFFFFF
  if c.lock = lkHOLDOVER ∧ c.whorl.hoLimitRaised then c
  else ({ c with whorl := { c.whorl with hoLimitRaised := decide (c.lock = lkHOLDOVER) } }).raise EV.WHORL_HOLDOVER_LIMIT

/-- The conditions that declare a fault: no edge for 200 ns, or a frequency out of range for 10 µs. -/
def Chip.refclkBad (c : Chip) (noEdgeNs outOfRangeNs : Nat) : Bool :=
  !c.on WHORL.REFCLK_STATUS_FAULT && (decide (200 ≤ noEdgeNs) || decide (10000 ≤ outOfRangeNs))

/-- REFCLK has been within range for 1 ms. -/
def Chip.refclkRecovered (c : Chip) : Chip :=
  (c.setFld WHORL.REFCLK_STATUS_FAULT 0).setFld WHORL.REFCLK_STATUS_ON_INTERNAL 0

def execRefclkRecovered (inRangeUs : Nat) (s : State) : Result :=
  run (fun c => c.whenDue (c.on WHORL.REFCLK_STATUS_FAULT && decide (1000 ≤ inRangeUs)) Chip.refclkRecovered) s

/-! ### PPS (R119, R120) -/

/-- The network time of the PPS_OUT edge of second `k`. -/
def Chip.ppsEdgeAt (c : Chip) (k : Int) : Int :=
  k * (secQ : Int) + signed 32 (c.fld WHORL.PPS_OUT_OFFSET_NS) * (nsQ : Int)

/-- The first second whose PPS_OUT edge lies at or after network time `t`. -/
def Chip.ppsFirst (c : Chip) (t : Int) : Int :=
  -((-(t - signed 32 (c.fld WHORL.PPS_OUT_OFFSET_NS) * (nsQ : Int))) / (secQ : Int))

/-- A write of PPS_CFG: enabling PPS_OUT makes the next edge the first to come, enabling PPS_IN starts the missing-edge
watch. -/
def Chip.ppsCfgWrite (c : Chip) (p : Port) (v : Nat) : Chip :=
  let out0 := c.on WHORL.PPS_CFG_OUT_EN
  let in0 := c.on WHORL.PPS_CFG_IN_EN
  let c := c.plainWrite .whorl 0 WHORL.PPS_CFG_OUT_EN.off v p
  let c := if !out0 && c.on WHORL.PPS_CFG_OUT_EN then { c with whorl := { c.whorl with ppsNext := c.ppsFirst c.net } } else c
  if !in0 && c.on WHORL.PPS_CFG_IN_EN then { c with whorl := { c.whorl with ppsMissFrom := c.now, ppsLast := none } } else c

def Chip.ppsOutDue (c : Chip) : Bool :=
  c.mode != mRESET && c.on WHORL.PPS_CFG_OUT_EN && c.fires && decide (c.ppsEdgeAt c.whorl.ppsNext ≤ c.net)

/-- PPS_OUT asserts for OUT_WIDTH_NS; the next edge is that of the next second. -/
def Chip.ppsOutEdge (c : Chip) : Chip :=
  let at_ := c.placed (c.ppsEdgeAt c.whorl.ppsNext - c.whorl.offset)
  { c with whorl := { c.whorl with ppsNext := c.whorl.ppsNext + 1, ppsAt := at_,
                                   ppsEnd := at_ + c.fld WHORL.PPS_CFG_OUT_WIDTH_NS * nsQ } }

def execPpsOutEdge (s : State) : Result := run (fun c => c.whenDue c.ppsOutDue Chip.ppsOutEdge) s

/-- PPS_IN is enabled and the edge has the polarity of IN_POL. -/
def Chip.ppsInTaken (c : Chip) (rising : Bool) : Bool :=
  c.mode != mRESET && c.on WHORL.PPS_CFG_IN_EN && (rising != c.on WHORL.PPS_CFG_IN_POL)

/-- The nearest whole second to a time in 1/64 ns, in the same unit. -/
def nearestSec64 (t : Int) : Int := (t + 32000000000) / 64000000000 * 64000000000

/-- A PPS_IN edge at fraction `phi` of the current tick (R120, R102). -/
def Chip.ppsInEdge (c : Chip) (phi : Fin 2560) : Chip :=
  let m := c.whorl.mono + (c.withinTick phi).toNat
  let early := match c.whorl.ppsLast with
    | some t => decide (m < t + 500 * msQ)
    | none => false
  if early then c.bump WHORL.PPS_IN_CNT_IGNORED
  else
    let t := c.netStamp phi
    let c := c.setFld64 WHORL.PPS_IN_SEC_LO_SEC WHORL.PPS_IN_SEC_HI_SEC (stampSec t)
    let c := c.setFld WHORL.PPS_IN_NS_NS (stampNs t)
    let c := c.setFld WHORL.PPS_IN_SUB_SUBNS (stampSub t)
    let c := c.flag WHORL.PPS_IN_SUB_NEW
    let c := c.bumpWrap WHORL.PPS_IN_CNT_ACCEPTED
    let c := { c with whorl := { c.whorl with ppsLast := some m, ppsMissFrom := m } }
    let c := c.raise EV.WHORL_PPS_IN_EDGE
    if c.whorl.source = 2 then
      let x := t - signed 32 (c.fld WHORL.PPS_IN_DELAY_DELAY)
      c.measurement ((x - nearestSec64 x) * 2 ^ 26)
    else c

def execPpsInEdge (phi : Fin 2560) (rising : Bool) (s : State) : Result :=
  run (fun c => c.whenDue (c.ppsInTaken rising) fun d => d.ppsInEdge phi) s

def Chip.ppsInMissingDue (c : Chip) : Bool :=
  c.mode != mRESET && c.on WHORL.PPS_CFG_IN_EN && decide (3 * secQ ≤ 2 * c.since c.whorl.ppsMissFrom)

/-- 1.5 s without an accepted edge; the next missing second is one second later. -/
def Chip.ppsInMissing (c : Chip) : Chip :=
  ({ c with whorl := { c.whorl with ppsMissFrom := c.whorl.ppsMissFrom + secQ } }).raise EV.WHORL_PPS_IN_MISSING

def execPpsInMissing (s : State) : Result := run (fun c => c.whenDue c.ppsInMissingDue Chip.ppsInMissing) s

/-! ### Cycle marks (R121, R122) -/

def Chip.markRec (c : Chip) (k : Nat) : Mark := Tab.get {} c.whorl.marks k

def Chip.setMark (c : Chip) (k : Nat) (m : Mark) : Chip :=
  { c with whorl := { c.whorl with marks := Tab.put {} c.whorl.marks k m } }

/-- START of mark `k` as written, in 2^-32 ns of network time. -/
def Chip.markStart (c : Chip) (k : Nat) : Int :=
  (signed 48 (c.fld64 WHORL.MARK_START_SEC_LO_SEC WHORL.MARK_START_SEC_HI_SEC 0 k) * 1000000000 +
    (c.fld WHORL.MARK_START_NS_NS 0 k : Nat)) * (nsQ : Int)

/-- The period and the width in force, in ns (R122). -/
def Chip.markPeriod (c : Chip) (k : Nat) : Nat := max 100 (c.fld WHORL.MARK_PERIOD_NS_NS 0 k)
def Chip.markWidth (c : Chip) (k : Nat) : Nat :=
  let w := max 8 (c.fld WHORL.MARK_WIDTH_NS_NS 0 k)
  if c.markPeriod k ≤ w then c.markPeriod k / 2 else w

/-- The first of START + k × period that lies at or after START and strictly after `t`, or START where it is not past. -/
def firstEdge (start t : Int) (period : Nat) : Int :=
  if t ≤ start then start else start + ((t - start) / (period : Int) + 1) * (period : Int)

/-- The written mode of mark `k` takes effect. -/
def Chip.markArm (c : Chip) (k : Nat) : Chip :=
  let m := c.markRec k
  let mode := c.fld WHORL.MARK_CTRL_MODE 0 k
  let seg := c.fld WHORL.MARK_CTRL_SEG 0 k
  let period := c.markPeriod k * nsQ
  let m := { m with mode := mode, seg := seg, period := period, width := c.markWidth k * nsQ,
                    segOffset := signed 32 (c.fld WHORL.MARK_SEG_OFFSET_NS 0 k) * (nsQ : Int),
                    armedAt := c.now, waiting := false }
  if mode = 1 then
    (c.setMark k { m with next := firstEdge m.start c.net period }).setFld WHORL.MARK_CTRL_ACTIVE 1 0 k
  else if mode = 2 then
    if m.start < c.net then
      (((((c.setMark k { m with mode := 0 }).bump WHORL.MARK_MISSED_COUNT 0 k).setFld WHORL.MARK_CTRL_MODE 0 0 k).setFld
        WHORL.MARK_CTRL_ACTIVE 0 0 k)).raise EV.WHORL_MARK_MISSED
    else (c.setMark k { m with next := m.start }).setFld WHORL.MARK_CTRL_ACTIVE 1 0 k
  else if mode = 3 ∧ seg ≤ 95 then (c.setMark k m).setFld WHORL.MARK_CTRL_ACTIVE 1 0 k
  else (c.setMark k { m with mode := 0 }).setFld WHORL.MARK_CTRL_ACTIVE 0 0 k

/-- A write of a CYCLE_MARK CTRL: at once, or after the pulse in progress (R122). START is taken at the write. -/
def Chip.markCtrlWrite (c : Chip) (p : Port) (k v : Nat) : Chip :=
  let c := c.plainWrite .whorl 0 (WHORL.MARK_CTRL_MODE.off + 32 * k) v p
  let m := { c.markRec k with start := c.markStart k }
  if c.now < m.pulseEnd then c.setMark k { m with waiting := true }
  else (c.setMark k m).markArm k

def execCycleMarkArm (port : Port) (k : Fin 8) (value : Word) (s : State) : Result :=
  run (fun c => c.accessField port WHORL.MARK_CTRL_MODE 0 fun d => d.markCtrlWrite port k.val value.toNat) s

/-- A CTRL write that waited for the end of its pulse takes effect at the first tick after it. -/
def Chip.marksTick (c : Chip) : Chip :=
  (List.range 8).foldl (fun d k =>
    if (d.markRec k).waiting && decide ((d.markRec k).pulseEnd ≤ d.now) then d.markArm k else d) c

/-- The edge of mark `k` in mode PERIODIC or ONE_SHOT is due. -/
def Chip.markDue (c : Chip) (k : Nat) : Bool :=
  c.on WHORL.MARK_CTRL_ACTIVE 0 k && ((c.markRec k).mode == 1 || (c.markRec k).mode == 2) && c.fires &&
    decide ((c.markRec k).next ≤ c.net)

/-- The active edge of mark `k`; a ONE_SHOT is no longer armed after it. -/
def Chip.markEdge (c : Chip) (k : Nat) : Chip :=
  let m := c.markRec k
  let at_ := c.placed (m.next - c.whorl.offset)
  let m := { m with pulseAt := at_, pulseEnd := at_ + m.width }
  if m.mode = 1 then c.setMark k { m with next := m.next + m.period }
  else (c.setMark k { m with mode := 0 }).setFld WHORL.MARK_CTRL_ACTIVE 0 0 k

/-- How many of the times `a`, `a + p`, … lie after network time `t0` and before `t1`. -/
def edgesBetween (a : Int) (p : Nat) (t0 t1 : Int) : Nat :=
  let first := if t0 < a then a else a + ((t0 - a) / (p : Int) + 1) * (p : Int)
  if first < t1 then ((t1 - 1 - first) / (p : Int) + 1).toNat else 0

/-- The first of `a`, `a + p`, … that does not lie before `t`. -/
def edgeFrom (a : Int) (p : Nat) (t : Int) : Int := if t ≤ a then a else a - (a - t) / (p : Int) * (p : Int)

/-- The edges of marks in the modes PERIODIC and ONE_SHOT that a forward step from `t0` to `t1` passes over: each counts in MISSED
(Table 03.7). The result is the block and the number of edges. -/
def Chip.marksSkip (c : Chip) (t0 t1 : Int) : Chip × Nat :=
  (List.range 8).foldl (fun (d, total) k =>
    let m := d.markRec k
    if d.on WHORL.MARK_CTRL_ACTIVE 0 k then
      if m.mode = 1 then
        let e := edgesBetween m.next m.period t0 t1
        let next := if e = 0 then m.next else edgeFrom m.next m.period t1
        ((d.setMark k { m with next := next }).bumpBy WHORL.MARK_MISSED_COUNT e 0 k, total + e)
      else if m.mode = 2 ∧ t0 < m.next ∧ m.next < t1 then
        (((d.setMark k { m with mode := 0 }).setFld WHORL.MARK_CTRL_ACTIVE 0 0 k).bump WHORL.MARK_MISSED_COUNT 0 k, total + 1)
      else (d, total)
    else (d, total)) (c, 0)

/-- The PPS_OUT edges that a forward step passes over. -/
def Chip.ppsSkip (c : Chip) (t0 t1 : Int) : Chip × Nat :=
  if c.on WHORL.PPS_CFG_OUT_EN then
    let e := edgesBetween (c.ppsEdgeAt c.whorl.ppsNext) secQ t0 t1
    ({ c with whorl := { c.whorl with ppsNext := c.whorl.ppsNext + (e : Int) } }, e)
  else (c, 0)

/-- Skipped watermarked events are counted, and the first raises LATE_EVENTS (R116). -/
def Chip.lateEvents (c : Chip) (k : Nat) : Chip :=
  if k = 0 then c else (c.bumpBy WHORL.LATE_EVENTS_COUNT k).raise EV.WHORL_LATE_EVENTS

/-! ### Register writes of the WHORL page -/

/-- A write of FREQ: refused while the servo owns it (R126). -/
def Chip.freqWrite (c : Chip) (p : Port) (v : Nat) : Chip :=
  if c.whorl.source = 1 ∨ c.whorl.source = 2 then c.refuse WHORL.FREQ_ADJ p
  else (c.setFld WHORL.FREQ_ADJ v).rateChanged

/-- A write of a WHORL register with a _LO half already in place. The registers named have behaviour of their own. -/
def Chip.whorlWrite (c : Chip) (p : Port) (off v : Nat) (phi : Fin 2560) : Chip :=
  if off = WHORL.INC_HI_NS.off then (c.plainWrite .whorl 0 off v p).rateChanged
  else if off = WHORL.FREQ_ADJ.off then c.freqWrite p v
  else if off = WHORL.HO_LIMIT_NS.off then (c.plainWrite .whorl 0 off v p).hoLimitCheck
  else if off = WHORL.SNAP_CMD_GO.off then c.snapCmd v phi
  else if off = WHORL.ADJ_CMD_GO.off then c.adjCmd p v
  else if off = WHORL.SERVO_CFG_SOURCE.off then c.servoCfgWrite p v
  else if off = WHORL.PPS_CFG_OUT_EN.off then c.ppsCfgWrite p v
  else if 0x200 ≤ off ∧ off < 0x300 ∧ (off - 0x200) % 32 = 0 then c.markCtrlWrite p ((off - 0x200) / 32) v
  else c.plainWrite .whorl 0 off v p

/-- The WHORL registers that show what the Whorl holds elsewhere (Table 03.12); other registers read as stored. -/
def Chip.whorlRead (c : Chip) (off : Nat) : Nat :=
  let offNs := c.whorl.offset / (nsQ : Int)
  let rem := Int.tdiv c.whorl.step.remain nsQ
  let w := c.whorl.mark / nsQ
  if off = WHORL.OFFSET_LO_NS.off then unsigned 32 offNs
  else if off = WHORL.OFFSET_HI_NS.off then unsigned 32 (offNs / 2 ^ 32)
  else if off = WHORL.OFFSET_FRAC_FRAC.off then (c.whorl.offset % (nsQ : Int)).toNat
  else if off = WHORL.STEP_REMAIN_LO_NS.off then unsigned 32 rem
  else if off = WHORL.STEP_REMAIN_HI_NS.off then unsigned 32 (rem / 2 ^ 32)
  else if off = WHORL.FIRED_UPTO_LO_NS.off then w % 2 ^ 32
  else if off = WHORL.FIRED_UPTO_HI_NS.off then w / 2 ^ 32 % 2 ^ 32
  else if off = WHORL.HOLD_REMAIN_NS.off then min ((c.whorl.mark - c.whorl.mono) / nsQ) 0xFFFFFFFF
  else if off = WHORL.INC_EFF_LO_FRAC.off then c.whorl.inc % 2 ^ 32
  else if off = WHORL.INC_EFF_HI_NS.off then c.whorl.inc / 2 ^ 32
  else c.plainRead .whorl 0 off

end Sys2Proof.Machine
end

