-- ==== Sys2Proof/Machine/Gates.lean ====
section
/-!
DEFINITION. Machine/Gates.lean: the gate control lists of the uplinks (R282 to R289), and the refill tick with the class
shapers (R276, R281).
Log entries: DEDUCED 34, 41, 64 (notes/assumptions).
-/
namespace Sys2Proof.Machine

def Chip.gate (c : Chip) (n : Nat) : Gate := Tab.get {} c.reel.gates n
def Chip.setGate (c : Chip) (n : Nat) (g : Gate) : Chip :=
  { c with reel := { c.reel with gates := Tab.put {} c.reel.gates n g } }

/-- The oper list governs the gates of uplink `n`: RUN or HOLDOVER, ENABLE and OPER_VALID (R57, R283, R288). -/
def Chip.gateRun (c : Chip) (n : Nat) : Bool :=
  c.running && c.on REELGATE.GATE_CTRL_ENABLE n && c.on REELGATE.GATE_STATUS_OPER_VALID n

/-- The last entry that starts at or before `p` ns into a cycle. -/
def entryAt (p : Nat) : List GEntry → Option GEntry
  | [] => none
  | e :: r => if p < e.off then none else match entryAt p r with | some f => some f | none => some e

/-- The first entry start after `p` ns into a cycle, the cycle's end where there is none. -/
def startAfter (cycle p : Nat) (l : List GEntry) : Nat := ((l.find? fun e => p < e.off).map (·.off)).getD cycle

/-- The entry in force at `t` ns of network time, and the next entry start. -/
def GList.place (l : GList) (t : Int) : Option GEntry × Int :=
  let p := ((t - l.base) % (l.cycle : Int)).toNat
  (entryAt p l.entries, t - (p : Int) + (startAfter l.cycle p l.entries : Nat))

/-- The last entry at or before number `i` that begins or ends a hold, going round the cycle; whether it begins one. -/
def holdAt (l : List GEntry) (i : Nat) : Bool :=
  let ops := (l.filter fun e => i < e.idx) ++ l.filter fun e => e.idx ≤ i
  match (ops.filter fun e => e.op = 1 ∨ e.op = 2).getLast? with
  | some e => e.op == 1
  | none => false

/-- An entry comes into force (R283, R289). -/
def Chip.applyEntry (c : Chip) (n : Nat) (e : GEntry) : Chip :=
  let c := (c.setFld REELGATE.GATE_STATUS_GATES e.gates n).setFld REELGATE.GATE_STATUS_ENTRY e.idx n
  if e.op = 1 then c.setFld REELGATE.GATE_STATUS_HOLD 1 n
  else if e.op = 2 then c.setFld REELGATE.GATE_STATUS_HOLD 0 n else c

/-- The cycle that would start at `s` ns does not start: it is the one that a pending change keeps from starting (R286). -/
def Chip.suppressed (c : Chip) (n : Nat) (s : Int) : Bool := c.on REELGATE.GATE_STATUS_PENDING n && (c.gate n).stay == some s

/-- The start of the cycle of the list that holds `t` ns. -/
def GList.cycleOf (l : GList) (t : Int) : Int := t - (t - l.base) % (l.cycle : Int)

/-- The oper cycle start of uplink `n` that a change at `ch` ns keeps from starting: that of the cycle in progress at `ch`, where it lies
less than ADMIN_CYCLE_EXT_NS before `ch` and the cycle has not begun yet (R286; DEDUCED, assumption log, entry 64). -/
def Chip.stayStart (c : Chip) (n : Nat) (ch : Int) : Option Int :=
  let s := (c.operList n).cycleOf ch
  let ahead := if (c.gate n).run then decide ((c.gate n).next ≤ s) else decide (c.net < s * (nsQ : Int))
  if c.on REELGATE.GATE_STATUS_OPER_VALID n && ahead && decide (0 < ch - s ∧ ch - s < (c.fld REELGATE.ADMIN_CYCLE_EXT_NS_NS n : Nat))
  then some s else none

/-- Where the oper list of uplink `n` places `t` ns: in a cycle that does not start, the entry just before it holds (R286). -/
def Chip.placeTime (c : Chip) (n : Nat) (t : Int) : Int :=
  let s := (c.operList n).cycleOf t
  if c.suppressed n s then s - 1 else t

/-- The gates of uplink `n` brought to what its list places now (R283, R288): every gate open and no hold where no list
governs them. A list that comes into force again takes the hold that its cycle places, too. -/
def Chip.gateResume (c : Chip) (n : Nat) : Chip :=
  let g := c.gate n
  if c.gateRun n then
    let l := c.operList n
    match l.place (c.placeTime n c.netNs) with
    | (some e, next) =>
      let c := (c.setGate n { g with run := true, next := next }).applyEntry n e
      if g.run then c else c.setBit REELGATE.GATE_STATUS_HOLD (holdAt l.entries e.idx) n
    | (none, _) => (c.setGate n { g with run := false }).setFld REELGATE.GATE_STATUS_GATES 0xFF n
  else
    (((c.setGate n { g with run := false }).setFld REELGATE.GATE_STATUS_GATES 0xFF n).setFld REELGATE.GATE_STATUS_HOLD 0
      n).setFld REELGATE.GATE_STATUS_ENTRY 0 n

def Chip.gateResumeAll (c : Chip) : Chip := (List.range 4).foldl Chip.gateResume c

/-- `t` is the start of a cycle of the list. -/
def GList.isCycleStart (l : GList) (t : Int) : Bool := decide ((t - l.base) % (l.cycle : Int) = 0)

/-- The next entry start of uplink `n` is due (R115, R286). -/
def Chip.gateDue (c : Chip) (n : Nat) : Bool :=
  let g := c.gate n
  g.run && c.fires && decide (g.next * (nsQ : Int) ≤ c.net) &&
    !((c.operList n).isCycleStart g.next && c.suppressed n g.next)

/-- The entry start fires; a bad word of the entry is reported, and used as read (Table 12.7). -/
def Chip.gateEvent (c : Chip) (n : Nat) : Chip :=
  let g := c.gate n
  match (c.operList n).place g.next with
  | (some e, next) =>
    ((c.sramRead none fun w => match w with | .cell .gateList k => k / 4 == gclKey n 1 e.idx 0 / 4 | _ => false).1.setGate n
      { g with next := next }).applyEntry n e
  | (none, _) => c

def execGateEvent (n : Fin 4) (s : State) : Result := run (fun c => c.whenDue (c.gateDue n.val) fun d => d.gateEvent n.val) s

/-- The gate events that a forward step from `t0` to `t1` passes over; the list moves to the entry in force at the new time
(Table 03.7). A pending change ends the list it replaces, and the cycle that it keeps from starting has no entry starts (R286). -/
def Chip.gatesSkip (c : Chip) (t0 t1 : Int) : Chip × Nat :=
  (List.range 4).foldl (fun (d, total) n =>
    if (d.gate n).run then
      let l := d.operList n
      let stop := if d.on REELGATE.GATE_STATUS_PENDING n then min t1 (((d.gate n).stay.getD (d.gate n).change) * (nsQ : Int)) else t1
      let k := (l.entries.map fun e => edgesBetween ((l.base + (e.off : Nat)) * (nsQ : Int) -
        ((l.cycle * nsQ : Nat) : Int) * (max 0 ((l.base * (nsQ : Int) - t0) / ((l.cycle * nsQ : Nat) : Int) + 1)))
        (l.cycle * nsQ) t0 stop).sum
      (d.gateResume n, total + k)
    else (d, total)) (c, 0)

/-! ### Configuration changes (R284 to R288) -/

/-- One of the first ADMIN_LEN entries breaks check 4. -/
def Chip.entryBad (c : Chip) (n : Nat) : Bool :=
  (List.range (c.fld REELGATE.ADMIN_LEN_LEN n)).any fun i =>
    decide (0x300 ≤ c.gclW n 0 i 0) || decide (1000000000 < c.gclW n 0 i 1) || c.gclW n 0 i 2 != 0 || c.gclW n 0 i 3 != 0

/-- The admin list fails RATE, BURST, WINDOW or EXPRESS (check 5). -/
def Chip.adminC7Bad (c : Chip) (n : Nat) : Bool :=
  let l := c.adminList n
  let g := if l.entries = [] then none else some l
  let (g7, opened, cycle) := gateWait (c.fit1522 n) g
  let led := c.ledger n
  led != [] && (g7.isNone || rateFails led opened cycle || burstFails led g7 (c.fld REEL.C7_BUDGET_NS) ||
    expressFails g (c.expressMask n))

/-- The first check of Table 08.5 that refuses a request, 0 for none. -/
def Chip.gclCause (c : Chip) (n : Nat) (force : Bool) : Nat :=
  let t := c.fld REELGATE.ADMIN_CYCLE_NS_NS n
  let len := c.fld REELGATE.ADMIN_LEN_LEN n
  if c.on REELGATE.GATE_STATUS_PENDING n ∨ c.on REELGATE.GATE_STATUS_ADMIN_BUSY n then 1
  else if t < 1000 ∨ 1000000000 < t ∨ t < c.fld REELGATE.ADMIN_CYCLE_EXT_NS_NS n then 2
  else if len = 0 ∨ 1024 < len then 3
  else if c.entryBad n then 4
  else if !force && c.adminC7Bad n then 5 else 0

/-- The change time (R285), in ns. -/
def Chip.changeTime (c : Chip) (n : Nat) : Int :=
  let l := c.adminList n
  if c.net < l.base * (nsQ : Int) then l.base
  else l.base + ((c.netNs - l.base) / (l.cycle : Int) + 1) * (l.cycle : Int)

/-- A request for a configuration change (R284). -/
def Chip.gclRequest (c : Chip) (p : Port) (n : Nat) (force : Bool) : Chip :=
  let cause := c.gclCause n force
  if cause ≠ 0 then
    ((c.setFld REELGATE.GATE_STATUS_CAUSE cause n).refuse REELGATE.GATE_CTRL_ENABLE p n).raise { cls := .reel, bit := 4 + n }
  else
    let t := c.changeTime n
    let c := (c.setGate n { c.gate n with change := t, stay := c.stayStart n t }).setFld REELGATE.GATE_STATUS_PENDING 1 n
    let sec := unsigned 48 (t / 1000000000)
    (c.setFld64 REELGATE.CHANGE_SEC_LO_SEC REELGATE.CHANGE_SEC_HI_SEC sec n).setFld REELGATE.CHANGE_NS_NS
      (t % 1000000000).toNat n

/-- A write of GATE_CTRL: its settings, CANCEL, and then CONFIG_CHANGE. -/
def Chip.gateCtrlWrite (c : Chip) (p : Port) (n v : Nat) : Chip :=
  let c := c.plainWrite .reelgate n REELGATE.GATE_CTRL_ENABLE.off v p
  let c := if bitsOf v 2 2 = 1 then c.setFld REELGATE.GATE_STATUS_PENDING 0 n else c
  let c := if bitsOf v 1 1 = 1 then c.gclRequest p n (bitsOf v 3 3 == 1) else c
  (if c.gateRun n = (c.gate n).run then c else c.gateResume n).c7Eval n

def execGclConfigChange (port : Port) (n : Fin 4) (value : Word) (s : State) : Result :=
  run (fun c => c.accessField port REELGATE.GATE_CTRL_ENABLE n.val fun d => d.gateCtrlWrite port n.val value.toNat) s

def execGclCancel (port : Port) (n : Fin 4) (value : Word) (s : State) : Result :=
  run (fun c => c.accessField port REELGATE.GATE_CTRL_ENABLE n.val fun d => d.gateCtrlWrite port n.val value.toNat) s

/-- The entries of the two lists of uplink `n`, keys from 0 within each list, and the rest of the table around them. -/
def Chip.gclParts (c : Chip) (n : Nat) : Tab Nat × Tab Nat × Tab Nat × Tab Nat :=
  let a := gclKey n 0 0 0
  let b := gclKey n 1 0 0
  let t := c.reel.gcl
  (t.filter (·.1 < a), (t.filter fun e => a ≤ e.1 ∧ e.1 < b).map fun e => (e.1 - a, e.2),
   (t.filter fun e => b ≤ e.1 ∧ e.1 < b + 4096).map fun e => (e.1 - b, e.2), t.filter (b + 4096 ≤ ·.1))

/-- The table with the given admin and oper lists of uplink `n`. -/
def Chip.setGcl (c : Chip) (n : Nat) (admin oper : Tab Nat) : Chip :=
  let (lo, _, _, hi) := c.gclParts n
  let a := gclKey n 0 0 0
  let b := gclKey n 1 0 0
  { c with reel := { c.reel with
      gcl := lo ++ admin.map (fun e => (e.1 + a, e.2)) ++ oper.map (fun e => (e.1 + b, e.2)) ++ hi } }

/-- The change time of a pending request has come (R286, R288). -/
def Chip.activateDue (c : Chip) (n : Nat) : Bool :=
  c.on REELGATE.GATE_STATUS_PENDING n && (c.mode == mACQUIRE || c.running) && c.fires && c.dom .core == domON &&
    decide ((c.gate n).change * (nsQ : Int) ≤ c.net)

/-- The new list starts its entry 0 at its change time `t`; where the change is found only in a later tick, as on a return to RUN or
after a forward step, the entry that its cycle places now applies (R286, R288, Table 03.7). -/
def Chip.gclStart (c : Chip) (n : Nat) (t : Int) : Chip :=
  if c.gateRun n ∧ c.net < t * (nsQ : Int) + (c.whorl.inc : Nat) then
    match (c.operList n).place t with
    | (some e, next) => (c.setGate n { c.gate n with run := true, next := next }).applyEntry n e
    | (none, _) => c.gateResume n
  else c.gateResume n

/-- Activation: the buffers exchange roles, and the OPER registers take the ADMIN values (R287). -/
def Chip.gclActivate (c : Chip) (n : Nat) : Chip :=
  let (_, a, o, _) := c.gclParts n
  let c := c.setGcl n o a
  let c := c.setFld REELGATE.OPER_BASE_SEC_LO_SEC (c.fld REELGATE.ADMIN_BASE_SEC_LO_SEC n) n
  let c := c.setFld REELGATE.OPER_BASE_SEC_HI_SEC (c.fld REELGATE.ADMIN_BASE_SEC_HI_SEC n) n
  let c := c.setFld REELGATE.OPER_BASE_NS_NS (c.fld REELGATE.ADMIN_BASE_NS_NS n) n
  let c := c.setFld REELGATE.OPER_CYCLE_NS_NS (c.fld REELGATE.ADMIN_CYCLE_NS_NS n) n
  let c := c.setFld REELGATE.OPER_LEN_LEN (c.fld REELGATE.ADMIN_LEN_LEN n) n
  let c := ((c.setFld REELGATE.GATE_STATUS_PENDING 0 n).setFld REELGATE.GATE_STATUS_OPER_VALID 1 n).setFld
    REELGATE.GATE_STATUS_ADMIN_BUSY 1 n
  ((c.raise { cls := .reel, bit := n }).gclStart n (c.gate n).change).c7Eval n

def execGclActivate (n : Fin 4) (s : State) : Result :=
  run (fun c => c.whenDue (c.activateDue n.val) fun d => d.gclActivate n.val) s

/-- The copy of the oper list into the admin buffer ends (R287). -/
def Chip.adminCopyDone (c : Chip) (n : Nat) : Chip :=
  let (_, _, o, _) := c.gclParts n
  ((c.setGcl n o o).setFld REELGATE.GATE_STATUS_ADMIN_BUSY 0 n).raise EV.REEL_ADMIN_COPY_DONE

def execAdminCopyDone (n : Fin 4) (s : State) : Result :=
  run (fun c => c.whenDue (c.on REELGATE.GATE_STATUS_ADMIN_BUSY n.val) fun d => d.adminCopyDone n.val) s

/-- The admin side of uplink `n` takes no writes (R284, R287). -/
def Chip.adminBusy (c : Chip) (n : Nat) : Bool :=
  c.on REELGATE.GATE_STATUS_PENDING n || c.on REELGATE.GATE_STATUS_ADMIN_BUSY n

/-- The list and entry word that an offset of the window addresses. -/
def Chip.gclWinKey (c : Chip) (n off : Nat) : Nat :=
  gclKey n (c.fld REELGATE.GCL_WIN_VIEW_OPER n) (128 * c.fld REELGATE.GCL_WIN_SECTION n) 0 + (off - 0x800) / 4

/-- The assigned bits of word `w` of a list entry (Table 08.4): a reserved bit reads 0 (R20), also where the entry holds a 1 that
the checks of Table 08.5 refuse. -/
def gclMask : Nat → Nat
  | 0 => 0x3FF
  | 1 => 0xFFFFFFFF
  | _ => 0

/-- A write through the list window (R282, R284, R287). The window has no RWS field, so a seal of the page does not reach it (R415). -/
def Chip.gclWinWrite (c : Chip) (p : Port) (n off v : Nat) : Chip :=
  let page := PageCls.reelgate.base + n
  if c.on REELGATE.GCL_WIN_VIEW_OPER n || c.adminBusy n then c.errcnt page off p
  else
    ({ c with reel := { c.reel with gcl := Tab.put 0 c.reel.gcl (c.gclWinKey n off) v } }).sramWrite 5 (.cell .gateList (c.gclWinKey n off))

/-! ### The gates at an instant, and when they close (R115, R283, R295) -/

/-- The entry starts of three cycles from the cycle that holds `t` ns on, each with its entry. -/
def GList.upcoming (l : GList) (t : Int) : List (Int × GEntry) :=
  let s := l.cycleOf t
  [0, 1, 2].flatMap fun k => l.entries.map fun e => (s + (k * l.cycle + e.off : Nat), e)

/-- The entry starts to come on uplink `n`, in network ns: of the oper list, and of a pending list from its change time on. -/
def Chip.gateChanges (c : Chip) (n : Nat) : List (Int × GEntry) :=
  let g := c.gate n
  let l := c.operList n
  let oper := if g.run then (l.upcoming g.next).filter fun e => g.next ≤ e.1 else []
  if c.on REELGATE.GATE_STATUS_PENDING n && c.running && c.on REELGATE.GATE_CTRL_ENABLE n then
    let a := c.adminList n
    (oper.filter fun e => decide (e.1 < g.change) && !c.suppressed n (l.cycleOf e.1)) ++
      (a.upcoming g.change).filter fun e => g.change ≤ e.1
  else oper

/-- The entry start `e` has fired by network time `inst` of the current tick: each fires at its own network time (R115). -/
def Chip.gateFired (c : Chip) (inst : Int) (e : Int × GEntry) : Bool :=
  decide (e.1 * (nsQ : Int) ≤ inst) && c.firesAt (e.1 * (nsQ : Int))

/-- The gates of uplink `n`, and whether a hold is in force, at network time `inst` of the current tick. GATE_STATUS shows them from
the tick's end on (R283, R289). -/
def Chip.gateView (c : Chip) (n : Nat) (inst : Int) : Nat × Bool :=
  ((c.gateChanges n).takeWhile (c.gateFired inst)).foldl
    (fun (_, hold) e => (e.2.gates, if e.2.op = 1 then true else if e.2.op = 2 then false else hold))
    (c.fld REELGATE.GATE_STATUS_GATES n, c.on REELGATE.GATE_STATUS_HOLD n)

/-- X of R295 for class `k` and a start at `inst`, in 2^-32 ns of network time; none where its gate never closes. What a hold of R115
keeps from firing fires at its end. -/
def Chip.closeAt (c : Chip) (n k : Nat) (inst : Int) : Option Int :=
  (((c.gateChanges n).dropWhile (c.gateFired inst)).find? fun e => !e.2.gates.testBit k).map fun e =>
    if c.whorl.mark ≤ c.whorl.mono then e.1 * (nsQ : Int) else max (e.1 * (nsQ : Int)) (c.whorl.mark + c.whorl.offset)

/-- The gates that will be in force at network time `t` (2^-32 ns), however far ahead: those of a pending list from its change time
on, before it those of the oper list. -/
def Chip.gatesAt (c : Chip) (n : Nat) (t : Int) : Nat :=
  let g := c.gate n
  let ns := t / (nsQ : Int)
  let now := c.fld REELGATE.GATE_STATUS_GATES n
  if c.on REELGATE.GATE_STATUS_PENDING n && c.running && c.on REELGATE.GATE_CTRL_ENABLE n && decide (g.change ≤ ns) then
    (((c.adminList n).place ns).1.map (·.gates)).getD now
  else if g.run && decide (g.next ≤ c.placeTime n ns) then
    (((c.operList n).place (c.placeTime n ns)).1.map (·.gates)).getD now
  else now

/-! ### Uplink records and refill -/

def Chip.upl (c : Chip) (n : Nat) : Uplink := Tab.get {} c.uplinks n
def Chip.setUpl (c : Chip) (n : Nat) (u : Uplink) : Chip := { c with uplinks := Tab.put {} c.uplinks n u }
def Chip.updUpl (c : Chip) (n : Nat) (f : Uplink → Uplink) : Chip := c.setUpl n (f (c.upl n))

def Chip.creditOf (c : Chip) (n k : Nat) : Int := Tab.get 0 c.reel.credit (8 * n + k)
def Chip.setCredit (c : Chip) (n k : Nat) (v : Int) : Chip :=
  { c with reel := { c.reel with credit := Tab.put 0 c.reel.credit (8 * n + k) v } }

/-- The shaper mode in force for class `k`: 0 NONE, 1 CREDIT, 2 TOKEN (R277). -/
def Chip.shaperMode (c : Chip) (n k : Nat) : Nat := Tab.get 0 c.reel.shMode (8 * n + k)

/-- A frame of class `k` waits in its queue or is on the wire (R281). -/
def Chip.classWaiting (c : Chip) (n k : Nat) : Bool :=
  c.queue n k != [] || (match (c.upl n).cur with | some t => t.cls == k | none => false)

/-- One refill tick of a class shaper (R281). -/
def Chip.shaperTick (c : Chip) (n k : Nat) : Chip :=
  let m := c.fld REELGATE.SHAPER_CFG_MODE n k % 3
  if m ≠ c.shaperMode n k then
    { c.setCredit n k 0 with reel := { (c.setCredit n k 0).reel with shMode := Tab.put 0 c.reel.shMode (8 * n + k) m } }
  else
    let cr := c.creditOf n k
    let up := min (cr + (c.fld REELGATE.SHAPER_CFG_RATE n k : Nat)) (c.fld REELGATE.SHAPER_BURST_OCTETS n k * 8000 : Nat)
    if m = 1 then
      if c.classWaiting n k || decide (cr < 0) then c.setCredit n k up
      else if 0 < cr then c.setCredit n k 0 else c
    else if m = 2 then c.setCredit n k up
    else c

/-- Network time has reached a microsecond boundary that has not given its tick yet (R276, Table 03.7). -/
def Chip.refillDue (c : Chip) : Bool := c.dom .core == domON && decide (c.whorl.refillUs < c.net / (usQ : Int))

/-- One refill tick. -/
def Chip.refill (c : Chip) : Chip :=
  let c := { c with whorl := { c.whorl with refillUs := c.whorl.refillUs + 1 } }
  let c := c.bumpWrap REEL.TICK_COUNT_COUNT
  (List.range 4).foldl (fun d n => (List.range 8).foldl (fun e k => e.shaperTick n k) d) c

def execRefillTick (s : State) : Result := run (fun c => c.whenDue c.refillDue Chip.refill) s

end Sys2Proof.Machine
end

