-- ==== Sys2Proof/Machine/Ply.lean ====
section
/-!
DEFINITION. Machine/Ply.lean: recovery, its timers and sweep, the counter sets and the latent tests (chapter 09). Generation
and replication stand with the enqueue steps (Machine/Enqueue.lean).
Log entries: DEDUCED 59; DESIGN CHOICE 84 (notes/assumptions).
-/
namespace Sys2Proof.Machine

/-! ### Counter sets (R331, R333) -/

def Chip.setW (c : Chip) (k w : Nat) : Nat := Tab.get 0 c.ply.sets (16 * k + w)
def Chip.setSetW (c : Chip) (k w v : Nat) : Chip :=
  { c with ply := { c.ply with sets := Tab.put 0 c.ply.sets (16 * k + w) v } }

/-- Word `w` of set `k` raised, saturating. -/
def Chip.setAdd (c : Chip) (k w v : Nat) : Chip := c.setSetW k w (min (c.setW k w + v) 0xFFFFFFFF)

/-- The counter set of context `i` (Table 09.2). -/
def Chip.cntSet (c : Chip) (i : Nat) : Nat := c.ctxF i 9 27 18

/-- A count of context `i`: in its set, and in the total (R323). -/
def Chip.plyCount (c : Chip) (i w : Nat) (total : FieldRow) (k : Nat) : Chip :=
  (c.setAdd (c.cntSet i) w k).bumpBy total k

/-! ### Recovery (R318, R320 to R325) -/

/-- The timer of context `i` has run out (R318). -/
def Chip.recovDue (c : Chip) (i : Nat) : Bool :=
  let ms := c.ctxF i 8 31 20
  c.ctxF i 8 0 0 == 1 && ms != 0 && c.ctxF i 8 7 7 == 0 &&
    decide (ms ≤ (c.fld PLY.MS_COUNT_MS + 65536 - c.ctxF i 11 15 0) % 65536)

/-- A reset of recovery by its timer. -/
def Chip.recovReset (c : Chip) (i : Nat) : Chip :=
  (((c.setCtxF i 8 7 7 1).setHist i 0).plyCount i 6 PLY.RESETS_COUNT 1).raise EV.PLY_SEQ_RESET

def execSeqReset (ctx : BitVec 18) (s : State) : Result :=
  run (fun c => c.whenDue (c.dom .core == domON && c.recovDue ctx.toNat) fun d => d.recovReset ctx.toNat) s

/-- The sweep of R319: every reset that is due. -/
def Chip.recovRefresh (c : Chip) (i : Nat) : Chip := if c.recovDue i then c.recovReset i else c

/-- A packet is passed: PASSED, L_PASSED and LAST_MS. -/
def Chip.plyPass (c : Chip) (i : Nat) : Chip :=
  ((c.plyCount i 0 PLY.PASSED_COUNT 1).setAdd (c.cntSet i) 9 1).setCtxF i 11 15 0 (c.fld PLY.MS_COUNT_MS)

/-- A duplicate is discarded: DISCARDED and L_DISCARDED. -/
def Chip.plyDup (c : Chip) (i : Nat) : Chip :=
  (c.plyCount i 1 PLY.DISCARDED_COUNT 1).setAdd (c.cntSet i) 10 1

def Chip.plyOutOfOrder (c : Chip) (i : Nat) : Chip :=
  (c.plyCount i 2 PLY.OUT_OF_ORDER_COUNT 1).raise EV.PLY_OUT_OF_ORDER

/-- How many of the `k` bits from bit `n − k` up are 0 in `h`. -/
def zerosLeaving (h n k : Nat) : Nat := ((List.range k).filter fun j => !h.testBit (n - 1 - j)).length

/-- The vector algorithm (R320); the answer says whether the packet is passed. -/
def Chip.vectorRecovery (c : Chip) (i seq : Nat) : Chip × Bool :=
  let n := c.histLen i
  let h := c.hist i
  let delta := signed 16 (seq + 65536 - c.ctxF i 10 15 0)
  if c.ctxF i 8 7 7 = 1 then
    ((((c.setCtxF i 10 15 0 seq).setHist i (2 ^ n - 1)).setCtxF i 8 7 7 0).plyPass i, true)
  else if (n : Int) ≤ delta ∨ delta ≤ -(n : Int) then
    ((c.plyCount i 3 PLY.ROGUE_COUNT 1).raise EV.PLY_ROGUE, false)
  else if delta ≤ 0 then
    let b := delta.natAbs
    if h.testBit b then (c.plyDup i, false)
    else (((c.setHist i (h ||| 2 ^ b)).plyOutOfOrder i).plyPass i, true)
  else
    let d := delta.toNat
    let lost := zerosLeaving h n d
    let c := if lost = 0 then c else (c.plyCount i 4 PLY.LOST_COUNT lost).raise EV.PLY_LOST
    let c := (c.setHist i (h * 2 ^ d + 1)).setCtxF i 10 15 0 seq
    let c := if d = 1 then c else c.plyOutOfOrder i
    (c.plyPass i, true)

/-- The match algorithm (R321). -/
def Chip.matchRecovery (c : Chip) (i seq : Nat) : Chip × Bool :=
  let delta := (seq + 65536 - c.ctxF i 10 15 0) % 65536
  if c.ctxF i 8 7 7 = 1 then (((c.setCtxF i 10 15 0 seq).setCtxF i 8 7 7 0).plyPass i, true)
  else if delta = 0 then (c.plyDup i, false)
  else
    let c := c.setCtxF i 10 15 0 seq
    ((if delta = 1 then c else c.plyOutOfOrder i).plyPass i, true)

/-- One recovery stage at one packet, whose sequence number is `seq` where it carries an R-TAG. -/
def Chip.recovStage (c : Chip) (i : Nat) (seq : Option Nat) : Chip × Bool :=
  let c := c.recovRefresh i
  match seq with
  | none => ((c.plyCount i 5 PLY.TAGLESS_COUNT 1).raise EV.PLY_TAGLESS, c.ctxF i 8 3 3 == 1)
  | some q => if c.ctxF i 8 1 1 = 1 then c.matchRecovery i q else c.vectorRecovery i q

/-- Recovery of a packet with context `i`: the context it goes on with, none where it is discarded (R312, R324, R325). `seq` is the
sequence number that a context reads from the packet (R311): each stage reads it by its own RTAG_HOV. -/
def Chip.recover (c : Chip) (i : Nat) (seq : Nat → Option Nat) : Chip × Option Nat :=
  if i = 0 ∨ c.ctxF i 8 0 0 = 0 then (c, some i)
  else
    let (c, pass) := c.recovStage i (seq i)
    if !pass then (c, none)
    else if c.ctxF i 8 2 2 = 0 then (c, some i)
    else
      let j := c.ctxF i 9 17 0
      if c.ctxF j 8 0 0 = 0 ∨ c.ctxF j 8 2 2 = 1 then
        ((c.bump PLY.LINK_ERROR_COUNT).raise EV.PLY_LINK_ERROR, some j)
      else
        let (c, pass) := c.recovStage j (seq j)
        (c, if pass then some j else none)

/-- Words `lo` to `lo + 7` of context `i` are read for packet `id`; the answer says whether one of them is uncorrectable. -/
def Chip.ctxWords (c : Chip) (id i lo : Nat) : Chip × Bool :=
  match c.sramRead (some id) fun w => match w with
    | .cell .ctx k => decide (16 * i + lo ≤ k) && decide (k < 16 * i + lo + 8)
    | _ => false with
  | (c, bad) => (c, bad != [])

/-- How recovery ends for a packet: it goes on with a context, is discarded, or is dropped for a bad word (R334). -/
inductive RecovEnd where
  | passed (ctx : Nat)
  | discarded
  | bad
  deriving DecidableEq, Repr

/-- Recovery of a packet with context `i`: a stage that reads an uncorrectable word of its context drops the packet, and leaves the
context's words as they are; the linked stage reads its words once the individual one has passed the packet (R324, R334). -/
def Chip.recovery (c : Chip) (id i : Nat) (seq : Nat → Option Nat) : Chip × RecovEnd :=
  if i = 0 ∨ c.ctxF i 8 0 0 = 0 then (c, .passed i)
  else match c.ctxWords id i 8 with
    | (c, true) => (c, .bad)
    | (c, false) =>
      let linked := c.ctxF i 8 2 2 == 1 && (c.recovStage i (seq i)).2
      match (if linked then c.ctxWords id (c.ctxF i 9 17 0) 8 else (c, false)) with
      | (c, true) => ((c.recovStage i (seq i)).1, .bad)
      | (c, false) => match c.recover i seq with
        | (c, some k) => (c, .passed k)
        | (c, none) => (c, .discarded)

/-- A packet is dropped for a bad word of a context (R334, Table 12.7): it counts, and its DETAIL is free. -/
def Chip.plyEcc (c : Chip) : Chip := (c.bump PLY.ECC_DROP_COUNT).raise EV.PLY_ECC_DROP

/-! ### Latent errors (R332) -/

/-- The sets with LATENT_EN. -/
def Chip.latentSets (c : Chip) : List Nat := (List.range 1024).filter fun k => bitsOf (c.setW k 11) 7 7 = 1

def Chip.latentTest (c : Chip) : Chip :=
  let p := c.ply
  let c := { c with ply := { p with testMs := p.testMs - p.testPer, testPer := max 1 (c.fld PLY.CFG_LATENT_TEST_MS) } }
  c.latentSets.foldl (fun d k =>
    let w := d.setW k 11
    let paths := max 2 (min 8 (bitsOf w 3 0))
    let diff : Int := ((paths - 1) * d.setW k 9 : Nat) - (d.setW k 10 : Int)
    if bitsOf w 31 8 < diff.natAbs then
      ((d.setAdd k 7 1).bump PLY.LATENT_ERRORS_COUNT).raise EV.PLY_LATENT_ERROR
    else d) c

/-- The end of a latent test period; the counter sets keep their contents while CORE is not ON (R335). -/
def Chip.latentTestDue (c : Chip) : Bool := c.dom .core == domON && decide (c.ply.testPer ≤ c.ply.testMs)

def execLatentTest (s : State) : Result := run (fun c => c.whenDue c.latentTestDue Chip.latentTest) s

def Chip.latentReset (c : Chip) : Chip :=
  let p := c.ply
  let c := { c with ply := { p with resetMs := p.resetMs - p.resetPer, resetPer := max 1 (c.fld PLY.CFG_LATENT_RESET_MS) } }
  c.latentSets.foldl (fun d k => ((d.setSetW k 9 0).setSetW k 10 0).setAdd k 8 1) c

/-- The end of a latent reset period; a test of the same millisecond runs first. -/
def Chip.latentResetDue (c : Chip) : Bool :=
  c.dom .core == domON && decide (c.ply.resetPer ≤ c.ply.resetMs) && !c.latentTestDue

def execLatentReset (s : State) : Result := run (fun c => c.whenDue c.latentResetDue Chip.latentReset) s

/-- MS_COUNT and the latent periods at one AON tick of `eff` (R317, R335). -/
def Chip.plyTick (c : Chip) (eff : Nat) : Chip :=
  let p := c.ply
  if p.started then
    if p.msAcc + eff < msQ then { c with ply := { p with msAcc := p.msAcc + eff } }
    else
      let k := if c.dom .core = domDEEP then 0 else 1
      ({ c with ply := { p with msAcc := p.msAcc + eff - msQ, testMs := p.testMs + k, resetMs := p.resetMs + k } }).bumpWrap
        PLY.MS_COUNT_MS
  else c

/-- CORE becomes ON from DEEP (R317, R332, R335). -/
def Chip.plyWake (c : Chip) : Chip :=
  let p := c.ply
  let c := if p.started then c
    else { c with ply := { p with started := true, testPer := max 1 (c.fld PLY.CFG_LATENT_TEST_MS),
                                  resetPer := max 1 (c.fld PLY.CFG_LATENT_RESET_MS) } }
  let c := c.ctxListed.foldl (fun d i => if d.ctxF i 8 0 0 = 1 then (d.setCtxF i 8 7 7 1).setHist i 0 else d) c
  (c.bump PLY.WAKE_RESETS_COUNT).raise EV.PLY_WAKE_RESET

/-! ### Registers of the PLY page -/

/-- A write of CNT_SEL (R333). -/
def Chip.cntSelWrite (c : Chip) (v : Nat) : Chip :=
  let k := bitsOf v 9 0
  let c := c.setFld PLY.CNT_SEL_INDEX k
  if bitsOf v 31 31 = 1 then (List.range 11).foldl (fun d w => d.setSetW k w 0) c else c

def execCounterSetClear (port : Port) (value : Word) (s : State) : Result :=
  run (fun c => c.accessField port PLY.CNT_SEL_INDEX 0 fun d => d.cntSelWrite value.toNat) s

/-- A write of a PLY register: of the counter set words only word 11 is written by the host. -/
def Chip.plyWrite (c : Chip) (p : Port) (off v : Nat) : Chip :=
  if off = PLY.CNT_SEL_INDEX.off then c.cntSelWrite v
  else if off = 0x0AC then c.setSetW (c.fld PLY.CNT_SEL_INDEX) 11 (v &&& 0xFFFFFF8F)
  else if 0x080 ≤ off ∧ off < 0x0C0 then c
  else c.plainWrite .ply 0 off v p

/-- A PLY register as it reads. -/
def Chip.plyRead (c : Chip) (off : Nat) : Nat :=
  if 0x080 ≤ off ∧ off < 0x0C0 then c.setW (c.fld PLY.CNT_SEL_INDEX) ((off - 0x080) / 4)
  else c.plainRead .ply 0 off

end Sys2Proof.Machine
end

