-- ==== Sys2Proof/Machine/Enqueue.lean ====
section
/-!
DEFINITION. Machine/Enqueue.lean: the way of a released packet into its output queue (R268): meter, class-7 test, sequence
generation and replication (R326 to R330), shaper stamp, horizon and queue limit, and the link-down policy (R273).
Log entries: DEDUCED 60, 61, 66; DESIGN CHOICE 7, 84 (notes/assumptions).
-/
namespace Sys2Proof.Machine

/-- A class that R304, R330 and R279 must not set to 7. -/
def below7 (k : Nat) : Nat := min k 6

/-- A class-7 packet is demoted (R304). -/
def Chip.demote (c : Chip) (p : Packet) : Chip × Packet :=
  ((c.bump REEL.C7_DEMOTED_COUNT).raise EV.REEL_C7_DEMOTED, { p with cls := below7 (c.fld REEL.CFG_C7_DEMOTE_CLASS) })

/-- A drop at the meter (R279). -/
def Chip.meterDrop (c : Chip) (p : Packet) : Chip := (c.bump REEL.METER_DROP_COUNT).dropCopy p 2

/-- Step 1 of R268 (R278, R279): the packet that goes on, none for a drop. The colour actions are left to R304 for a class-7
packet of an admitted context. -/
def Chip.enqMeter (c : Chip) (p : Packet) : Chip × Option Packet :=
  let i := p.ctx
  if i = 0 ∨ c.ctxF i 0 0 0 = 0 then (c, some { p with yellow := false, green := true })
  else
    let (c, col) := c.meter i
    match col with
    | .green => (c, some { p with yellow := false, green := true })
    | _ =>
      let red := col == .red
      let c := if red then (c.bump REEL.METER_RED_COUNT).raise EV.REEL_METER_RED else c.bump REEL.METER_YELLOW_COUNT
      let p := { p with yellow := !red, green := false }
      let act := if red then c.ctxF i 0 5 4 else c.ctxF i 0 3 2
      if c.ctxF i 0 9 9 = 1 ∧ p.cls = 7 then (c, some p)
      else if act = 0 then (c, some p)
      else if act = 1 then (c, some { p with cls := below7 (c.ctxF i 0 8 6) })
      else (c.meterDrop p, none)

/-- The insertion point of the R-TAG (R327). -/
def rtagAt (pos : Nat) (f : List Byte) : Nat :=
  let t := beNat ((f.drop 12).take 2)
  if pos = 1 ∧ (t = 0x8100 ∨ t = 0x88A8) then 16 else 12

/-- The context overwrites an R-TAG that stands at the insertion point already. -/
def Chip.rtagOver (c : Chip) (i : Nat) (f : List Byte) : Bool :=
  c.ctxF i 8 5 5 == 1 && beNat ((f.drop (rtagAt (c.ctxF i 8 6 6) f)).take 2) == 0xF1C1

/-- A copy for this output carries the number. -/
def taggable (out : Nat) : Bool := isUplinkPort out || out == portHost

/-- The octets that numbering under context `i` adds to a copy for `out` (R329). -/
def Chip.tagGrowth (c : Chip) (i out : Nat) (f : List Byte) : Nat :=
  if i ≠ 0 ∧ c.ctxF i 8 4 4 = 1 ∧ taggable out ∧ ¬ c.rtagOver i f then 6 else 0

/-- Step 2 of R268 (R304). -/
def Chip.enqC7 (c : Chip) (p : Packet) : Chip × Option Packet :=
  if p.cls ≠ 7 then (c, some p)
  else
    let i := p.ctx
    if i ≠ 0 ∧ c.ctxF i 0 9 9 = 1 ∧ c.ctxF i 0 17 10 = p.out ∧
        p.bytes.length + c.tagGrowth i p.out p.bytes + 4 ≤ c.ctxF i 0 31 18 ∧ p.green then (c, some p)
    else if i ≠ 0 ∧ ¬ p.green ∧ ¬ p.yellow ∧ 2 ≤ c.ctxF i 0 5 4 then (c.meterDrop p, none)
    else
      let (c, p) := c.demote p
      (c, some p)

/-- One more cell for a frame that grows to `len` octets, where it needs one (R270); none when it is refused. -/
def Chip.growCells (c : Chip) (p : Packet) (len : Nat) : Option (Chip × Packet) :=
  let have_ := p.cells.shared + p.cells.c7 + p.cells.head
  let need := cellsOf len
  if need ≤ have_ then some (c, p)
  else match c.cellsFor p.ingress (need - have_) p.preclass with
    | some k => some (c.chargeCells p.ingress k, { p with cells :=
        { shared := p.cells.shared + k.shared, c7 := p.cells.c7 + k.c7, head := p.cells.head + k.head } })
    | none => none

/-- A copy takes its number `seq` of context `i` (R327, R328); none where it is dropped. -/
def Chip.tagCopy (c : Chip) (i seq : Nat) (p : Packet) : Chip × Option Packet :=
  if !taggable p.out then (c, some p)
  else
    let f := p.bytes
    let at_ := rtagAt (c.ctxF i 8 6 6) f
    let tag := beBytes 2 0xF1C1 ++ [0, 0] ++ beBytes 2 seq
    if c.rtagOver i f then (c, some { p with bytes := f.take at_ ++ tag ++ f.drop (at_ + 6), seqNum := some seq })
    else if 9600 < f.length + 6 then
      (((c.bump PLY.GEN_OVERSIZE_COUNT).raise EV.PLY_GEN_OVERSIZE).dropCopy p 6, none)
    else match c.growCells p (f.length + 6) with
      | some (c, p) => (c, some { p with bytes := f.take at_ ++ tag ++ f.drop at_, seqNum := some seq })
      | none => ((c.bump REEL.BUF_DROP_COUNT).dropCopy p 5, none)

/-- The replica outputs of context `i`, with their numbers k (R330). -/
def Chip.replOuts (c : Chip) (i : Nat) : List (Nat × Nat) :=
  ([(1, c.ctxF i 11 23 16), (2, c.ctxF i 11 31 24)]).filter fun r => r.2 ≠ 0xFF

/-- One more copy of an operation is on its way; `opClose` takes one off and judges the operation (R355). -/
def Chip.opOpen (c : Chip) : Option Nat → Chip
  | some t => if c.opLive t then c.updOp t fun o => { o with open_ := o.open_ + 1 } else c
  | none => c
def Chip.opClose (c : Chip) : Option Nat → Chip
  | some t => if c.opLive t then (c.updOp t fun o => { o with open_ := o.open_ - 1 }).txJudge t else c
  | none => c

/-- The length of a copy for `out` that carries a number of context `i`, as far as the frame may grow (R327, R328). -/
def Chip.taggedLen (c : Chip) (i out : Nat) (f : List Byte) : Nat :=
  let n := f.length + c.tagGrowth i out f
  if n ≤ 9600 then n else f.length

/-- Replica `k` of a packet, as it is before its number is put in, with the cells of the copy that carries it where the packet
has a number (`num`); none where it is refused cells (R330). -/
def Chip.makeReplica (c : Chip) (p : Packet) (num : Bool) (k out : Nat) : Chip × Option Packet :=
  let i := (p.ctx + k) % 262144
  let q := { p with id := c.buffer.nextId, out := out, ctx := i, primary := false, cells := {} }
  let len := if num then c.taggedLen p.ctx out p.bytes else p.bytes.length
  match c.cellsFor p.ingress (cellsOf len) p.preclass with
  | none => ((c.bump PLY.REPL_DROP_COUNT).raise EV.PLY_REPL_DROP, none)
  | some cl =>
    let c := { c with buffer := { c.buffer with nextId := c.buffer.nextId + 1 } }
    let c := ((c.chargeCells p.ingress cl).bump PLY.REPL_COPIES_COUNT).opOpen p.tag
    let q := { q with cells := cl }
    if p.cls = 7 ∧ ¬ (i ≠ 0 ∧ c.ctxF i 0 9 9 = 1 ∧ c.ctxF i 0 17 10 = out ∧
        p.bytes.length + c.tagGrowth p.ctx out p.bytes + 4 ≤ c.ctxF i 0 31 18) then
      let (c, q) := c.demote q
      (c, some q)
    else (c, some q)

/-- The packet takes the next number of its context, where it has a copy that carries one (R326). -/
def Chip.takeNumber (c : Chip) (p : Packet) : Chip × Option Nat :=
  let i := p.ctx
  if c.ctxF i 8 4 4 = 0 then (c, none)
  else if !(taggable p.out || (c.replOuts i).any fun r => taggable r.2) then
    ((c.bump PLY.GEN_SKIPPED_COUNT).raise EV.PLY_GEN_SKIPPED, none)
  else
    let seq := c.ctxF i 10 31 16
    ((c.setCtxF i 10 31 16 (seq + 1)).bump PLY.GEN_SEQS_COUNT, some seq)

/-- A copy takes the packet's number, where it has one. -/
def Chip.numberCopy (c : Chip) (i : Nat) (num : Option Nat) (p : Packet) : Chip × Option Packet :=
  match num with
  | some seq => c.tagCopy i seq p
  | none => (c, some p)

/-- The replica for one output, numbered, joins the copies that go on. -/
def Chip.addReplica (c : Chip) (p : Packet) (num : Option Nat) (l : List Packet) (r : Nat × Nat) : Chip × List Packet :=
  match c.makeReplica p num.isSome r.1 r.2 with
  | (c, none) => (c, l)
  | (c, some q) =>
    let (c, q) := c.numberCopy p.ctx num q
    (c, l ++ q.toList)

/-- A copy is dropped for an uncorrectable word of its context: generation under R334, and the Reel likewise (Table 12.7). -/
def Chip.eccDrop (c : Chip) (p : Packet) : Chip := c.plyEcc.drawn.dropCopy p (c.freeVal % 256)

/-- Generation or replication reads the Ply words of the packet's context. -/
def Chip.genReads (c : Chip) (p : Packet) : Bool := p.ctx != 0 && (c.ctxF p.ctx 8 4 4 == 1 || c.replOuts p.ctx != [])

/-- Step 3 of R268: the copies that go on, the packet itself first (R326, R330). The packet takes its number, then its own tag,
and its replicas are made after that; its operation stays open until all are made. -/
def Chip.enqPly (c : Chip) (p : Packet) : Chip × List Packet :=
  if p.ctx = 0 then (c, [p])
  else
    let outs := c.replOuts p.ctx
    let tag := if outs = [] then none else p.tag
    let (c, num) := c.takeNumber p
    let (c, q) := (c.opOpen tag).numberCopy p.ctx num p
    let (c, l) := outs.foldl (fun d r => d.1.addReplica p num d.2 r) (c, q.toList)
    (c.opClose tag, l)

/-- The cells of the packets of a queue. -/
def queueCells (l : List Packet) : Nat := (l.map fun p => cellsOf p.bytes.length).sum

/-- Drops under FLUSH (R273). -/
def Chip.flushDrop (c : Chip) (n : Nat) (p : Packet) : Chip :=
  let c := c.bump REELGATE.LINK_FLUSH_COUNT n
  let c := if (c.upl n).flushed then c else (c.updUpl n fun u => { u with flushed := true }).raise EV.REEL_LINK_FLUSH
  c.copyFate p false csLINKABORT 0

/-- The queue of a packet: HOST has one. -/
def Packet.queueCls (p : Packet) : Nat := if p.out = portHost then 0 else p.cls

/-- Step 6 of R268: the queue limit (R272), then the link-down policy for an uplink that is not UP. -/
def Chip.enqQueue (c : Chip) (p : Packet) : Chip :=
  let k := p.queueCls
  let q := c.queue p.out k
  let lim := if isUplinkPort p.out then c.fld REELGATE.QLIMIT_CELLS p.out k
    else if isSegPort p.out then c.fld REEL.SEG_LIMITS_SEG_QLIMIT else c.fld REEL.HOST_QLIMIT_CELLS
  if max 1 lim < queueCells q + cellsOf p.bytes.length then
    let c := if isUplinkPort p.out then c.bump REELGATE.QDROP_COUNT p.out
      else if isSegPort p.out then c.bump REEL.SEG_QDROP_COUNT else c.bump REEL.HOST_QDROP_COUNT
    (c.raise EV.REEL_QUEUE_DROP).dropCopy p 4
  else if isUplinkPort p.out ∧ c.fld UPLINK.LINK_STATUS_STATE p.out ≠ 4 ∧ ¬ c.on REELGATE.GATE_CTRL_DOWN_POLICY p.out then
    c.flushDrop p.out p
  else c.setQueue p.out k (q ++ [p])

/-- The class queue of uplink `n` is a launch-time queue (R290). -/
def Chip.ltQueue (c : Chip) (n k : Nat) : Bool := (c.fld REELGATE.GATE_CTRL_LT_MODE n).testBit k

/-- Step 5 of R268 (R290, R292), then step 6. -/
def Chip.enqLaunch (c : Chip) (p : Packet) : Chip :=
  match p.launch with
  | none => c.enqQueue p
  | some l =>
    if isUplinkPort p.out ∧ c.ltQueue p.out p.cls then
      if c.net + (c.fld REELGATE.LT_MAX_AHEAD_US p.out * usQ : Nat) < l then
        (c.bump REELGATE.LT_FAR_COUNT p.out).copyFate p false csTOOEARLY 0
      else c.enqQueue p
    else (c.bump REEL.LT_IGNORED_COUNT).enqQueue { p with launch := none }

/-- The Reel reads the words of the packet's context that are its own, 0 to 7; the answer says whether one is uncorrectable. -/
def Chip.reelReads (c : Chip) (p : Packet) : Chip × Bool := if p.ctx = 0 then (c, false) else c.ctxWords p.id p.ctx 0

/-- Steps 4 to 6 of R268 for one copy. -/
def Chip.enqRest (c : Chip) (p : Packet) : Chip :=
  if p.ctx ≠ 0 ∧ c.ctxF p.ctx 0 1 1 = 1 then
    match c.reelReads p with
    | (c, true) => c.eccDrop p
    | (c, false) => match c.shaper p.ctx with
      | (c, some e) => c.enqLaunch { p with eligible := some e }
      | (c, none) => ((c.bump REEL.SHAPE_DROP_COUNT).raise EV.REEL_SHAPE_DROP).dropCopy p 3
  else c.enqLaunch p

/-- Steps 1 and 2 of R268: the packet that goes on. -/
def Chip.enqJudge (c : Chip) (p : Packet) : Chip × Option Packet :=
  match c.enqMeter p with
  | (c, none) => (c, none)
  | (c, some p) => c.enqC7 p

/-- The enqueue steps of one packet (R268). -/
def Chip.enqueue (c : Chip) (p : Packet) : Chip :=
  match c.reelReads p with
  | (c, true) => c.eccDrop p
  | (c, false) => match c.enqJudge p with
    | (c, none) => c
    | (c, some p) => match (if c.genReads p then c.ctxWords p.id p.ctx 8 else (c, false)) with
      | (c, true) => c.eccDrop p
      | (c, false) =>
        let (c, l) := c.enqPly p
        l.foldl Chip.enqRest c

/-- The oldest released packet is taken. -/
def Chip.reelEnqueue (c : Chip) : Chip :=
  match c.reel.incoming with
  | [] => c
  | p :: r => ({ c with reel := { c.reel with incoming := r } }).enqueue p

def execReelEnqueue (s : State) : Result := run (fun c => c.whenDue (c.dom .core == domON) Chip.reelEnqueue) s

/-! ### Segments (R297) -/

/-- The octets of a host head of class `k` that are in the packet buffer; other frames are whole (R215). -/
def arrivedOf (arrived : List Nat) (k : Nat) (p : Packet) : Nat :=
  if p.ingress = portHost then min (arrived.getD k p.bytes.length) p.bytes.length else p.bytes.length

/-- The highest class of segment `n` with an eligible head (R280, R297); a host frame is handed over only when whole (R215). -/
def Chip.segHead (c : Chip) (n : Nat) (arrived : List Nat) : Option (Packet × Nat) :=
  ([7, 6, 5, 4, 3, 2, 1, 0]).findSome? fun k =>
    match c.queue (0x10 + n) k with
    | p :: _ =>
      if (match p.eligible with | some e => c.tickReached e | none => true) && arrivedOf arrived k p == p.bytes.length then some (p, k)
      else none
    | [] => none

/-- The head of the highest class is put on offer; a lower offer is withdrawn, and stays at its queue's head. In SAFE the
Reel offers nothing (R59). -/
def Chip.segmentOffer (c : Chip) (n : Nat) (arrived : List Nat) : Chip :=
  if c.mode = mSAFE ∨ c.dom .core ≠ domON then c
  else match c.segHead n arrived, (c.eng n).offer with
    | some (p, k), none => c.updEng n fun e => { e with offer := some (p, k), deferred := false }
    | some (p, k), some (_, j) => if j < k then c.updEng n fun e => { e with offer := some (p, k), deferred := false } else c
    | none, _ => c

def execSegmentOffer (o : SegOffer) (s : State) : Result := run (fun c => c.segmentOffer o.n.val o.arrived) s

end Sys2Proof.Machine
end

