-- ==== Sys2Proof/Machine/Parse.lean ====
section
/-!
DEFINITION. Machine/Parse.lean: the Carder's parse graph, key and lookup (R231 to R245).
Log entries: DESIGN CHOICE 92 (notes/assumptions).
-/
namespace Sys2Proof.Machine

def Chip.nodeW (c : Chip) (bank node w : Nat) : Nat := Tab.get 0 c.carder.nodes ((256 * bank + node) * 64 + w)
def Chip.profileW (c : Chip) (bank k : Nat) : Nat := Tab.get 0 c.carder.profiles (8 * bank + k)
def Chip.portDefW (c : Chip) (bank p : Nat) : Nat := Tab.get 0 c.carder.portDef (256 * bank + p)
def Chip.exactW (c : Chip) (i w : Nat) : Nat := Tab.get 0 c.carder.exact (8 * i + w)
def Chip.ternW (c : Chip) (i w : Nat) : Nat := Tab.get 0 c.carder.tern (32 * i + w)
def Chip.actionW (c : Chip) (i w : Nat) : Nat := Tab.get 0 c.carder.action (8 * i + w)

/-- What a parse builds (R231, R234): the extracts (key octets by number), the header-offset vector, the flags, and the nodes it
has visited. -/
structure Parse where
  key : Tab Nat := []
  hov : Tab (Option Nat) := []
  depth : Bool := false
  lenMis : Bool := false
  frag : Bool := false
  flags : Nat := 0
  profile : Nat := 0
  graphBad : Nat := 0
  seen : List Nat := []
  deriving DecidableEq, Repr

/-- One bit of the frame, counted from the most significant bit of octet 0; a bit past the frame or past octet 255 reads 0
(R235). -/
def frameBit (f : List Byte) (b : Nat) : Nat :=
  let q := b / 8
  if f.length ≤ q ∨ 256 ≤ q then 0 else (f.getD q 0).toNat / 2 ^ (7 - b % 8) % 2

/-- `w` bits of the frame from bit `b` on. -/
def frameBits (f : List Byte) (b w : Nat) : Nat := (List.range w).foldl (fun acc j => 2 * acc + frameBit f (b + j)) 0

/-- A field of `w` bits from bit `b` on has been read: it sets LEN_MISMATCH where it reaches past the frame, and DEPTH_EXCEEDED
where it lies within the frame and reaches past octet 255 (R235). -/
def Parse.field (s : Parse) (f : List Byte) (b w : Nat) : Parse :=
  if w = 0 then s
  else if 8 * f.length < b + w then { s with lenMis := true }
  else if 8 * 256 < b + w then { s with depth := true } else s

/-- rd of R234. -/
def Parse.rd (s : Parse) (f : List Byte) (h o b w : Nat) : Parse × Nat :=
  (s.field f (8 * (h + o) + b) w, frameBits f (8 * (h + o) + b) w)

/-- One extract: `k` octets from octet `q` of the frame to key octet `d`, as far as key octet 63 (R234, R235). -/
def Parse.extract (s : Parse) (f : List Byte) (q d k : Nat) : Parse :=
  let n := min k (64 - d)
  let s := s.field f (8 * q) (8 * n)
  { s with key := (List.range n).foldl (fun t j => Tab.put 0 t (d + j) (frameBits f (8 * (q + j)) 8)) s.key }

/-- The effect of visiting a node on everything but the way on: `w` are its words. -/
def Parse.visit (s : Parse) (f : List Byte) (h : Nat) (w : Nat → Nat) : Parse :=
  let w3 := w 3
  let s := if bitsOf w3 4 4 = 1 then { s with hov := Tab.put none s.hov (bitsOf w3 3 0) (some h) } else s
  let s := if bitsOf w3 21 21 = 1 then
      let (s, v) := s.rd f h (bitsOf (w 5) 5 0) 0 16
      let exp := v * 2 ^ bitsOf (w 5) 9 8 + bitsOf (w 5) 31 16
      let rem := f.length - h
      if rem < exp ∨ (bitsOf w3 22 22 = 1 ∧ exp ≠ rem) then { s with lenMis := true } else s
    else s
  let s := if bitsOf w3 20 20 = 1 then { s with frag := true }
    else if bitsOf (w 4) 8 8 = 1 then
      let (s, v) := s.rd f h (bitsOf (w 4) 5 0) 0 16
      if v &&& bitsOf (w 4) 31 16 ≠ 0 then { s with frag := true } else s
    else s
  let s := [6, 7, 8, 9].foldl (fun s j =>
    let len := bitsOf (w j) 12 8
    let dst := bitsOf (w j) 21 16
    if 16 < len ∨ (len ≠ 0 ∧ dst < 4) then { s with graphBad := s.graphBad + 1 }
    else s.extract f (h + bitsOf (w j) 5 0) dst len) s
  let s := { s with flags := s.flags ||| bitsOf w3 15 8 }
  if bitsOf w3 19 19 = 1 then { s with profile := bitsOf w3 18 16 } else s

/-- The transition word that a node's select picks (R233, R234). -/
def Parse.transition (s : Parse) (f : List Byte) (h : Nat) (w : Nat → Nat) : Parse × Nat :=
  let width := bitsOf (w 0) 21 16
  let s := if 32 < width then { s with graphBad := s.graphBad + 1 } else s
  if 1 ≤ width ∧ width ≤ 32 then
    let (s, v) := s.rd f h (bitsOf (w 0) 5 0) (bitsOf (w 0) 12 8) width
    let sel := v &&& w 1
    match (List.range 16).find? fun t => (w (17 + 2 * t)).testBit 31 && w (16 + 2 * t) == sel with
    | some t => (s, w (17 + 2 * t))
    | none => (s, w 49)
  else (s, w 49)

/-- The walk through the graph of bank `bank` from `node` at offset `h`; the number counts the visits that are left. -/
def Chip.parseFrom (c : Chip) (bank : Nat) (f : List Byte) : Nat → Parse → Nat → Nat → Parse
  | 0, s, _, _ => { s with depth := true }
  | k + 1, s, node, h =>
    if 256 ≤ h then { s with depth := true }
    else
      let w := c.nodeW bank node
      let s := { s with seen := node :: s.seen }
      if !(w 0).testBit 24 then { s with graphBad := s.graphBad + 1 }
      else
        let s' := ({ s with frag := false }).visit f h w
        if s'.frag then s'
        else
          let (s', t) := s'.transition f h w
          if !t.testBit 31 || t.testBit 8 then s'
          else
            let (s', adv) : Parse × Nat :=
              if t.testBit 9 then
                let (s'', v) := s'.rd f h (bitsOf (w 2) 5 0) (bitsOf (w 2) 12 8) (min 16 (bitsOf (w 2) 20 16))
                (s'', v * 2 ^ bitsOf t 11 10 + bitsOf t 23 16)
              else (s', bitsOf t 23 16)
            c.parseFrom bank f k s' (bitsOf t 7 0) (h + adv)

/-- The parse of a packet's pass (R231, R234): 16 visits. -/
def Chip.parse (c : Chip) (p : Packet) : Parse :=
  c.parseFrom p.bank p.bytes 16 {} (bitsOf (c.portDefW p.bank p.ingress) 7 0) 0

/-- The key of Table 07.1, 64 octets. -/
def Parse.octets (s : Parse) (p : Packet) : List Byte :=
  let head := [p.ingress, (if p.pass = 0 then 0 else 0x80) + p.preclass * 16 + p.recircTag,
    (if s.depth then 0x80 else 0) + (if s.lenMis then 0x40 else 0) + (if s.frag then 0x20 else 0) + s.profile, s.flags]
  (head ++ (List.range 60).map fun i => Tab.get 0 s.key (i + 4)).map (BitVec.ofNat 8)

/-- The exact key under a profile word: 24 octets (R239). -/
def exactKey (key : List Byte) (profile : Nat) : List Byte :=
  let chunk (v : Nat) : List Byte := (key.drop (4 * min 14 v)).take 8
  chunk (bitsOf profile 3 0) ++ chunk (bitsOf profile 7 4) ++ chunk (bitsOf profile 11 8)

/-- h0 and h1 of R240. -/
def exactHash (k : List Byte) (profile : Nat) : Nat × Nat :=
  let s := k ++ [BitVec.ofNat 8 profile]
  (crc32 s, crc32 s.reverse)

/-- Word `i` of a key: octet 4i + j in bits [8j + 7:8j] (R241). -/
def keyWord (k : List Byte) (i : Nat) : Nat := leNat ((k.drop (4 * i)).take 4)

/-- An exact entry hits (R243). -/
def Chip.exactHit (c : Chip) (bank profile : Nat) (k : List Byte) (i : Nat) : Bool :=
  let v := c.exactW i 7
  v.testBit 0 && v.testBit (1 + bank) && bitsOf (c.exactW i 6) 18 16 == profile &&
    (List.range 6).all fun w => c.exactW i w == keyWord k w

/-- The eight exact entries that a key can lie in (R240). -/
def exactSlots (k : List Byte) (profile : Nat) : List Nat :=
  let (h0, h1) := exactHash k profile
  (List.range 4).map (fun j => h0 % 16384 * 4 + j) ++ (List.range 4).map fun j => 65536 + h1 % 16384 * 4 + j

/-- The exact winner's action. -/
def Chip.exactFind (c : Chip) (bank profile : Nat) (k : List Byte) : Option Nat :=
  ((exactSlots k profile).find? (c.exactHit bank profile k)).map fun i => bitsOf (c.exactW i 6) 14 0

/-- The ternary winner (R243): only slots with a word 7 listed can be valid. -/
def Chip.ternFind (c : Chip) (bank : Nat) (key : List Byte) : Option Nat :=
  let slots := (c.carder.action.filter fun e => e.1 < 65536 ∧ e.1 % 8 = 7 ∧ e.2.testBit 0 ∧ e.2.testBit (1 + bank)).map (·.1 / 8)
  slots.find? fun t => (List.range 16).all fun i =>
    keyWord key i &&& c.ternW t (16 + i) == c.ternW t i &&& c.ternW t (16 + i)

/-- What a lookup yields (R243 to R245): an action entry, a miss without action, or a named entry that is not valid. -/
inductive Verdict where
  | action (i : Nat) (miss : Bool)
  | missDrop
  | invalid (miss : Bool)
  deriving DecidableEq, Repr

/-- A general action entry named by an exact entry or a port default (R245). -/
def Chip.generalAction (c : Chip) (i : Nat) (miss : Bool) : Verdict :=
  if 8192 ≤ i ∧ i ≤ 32767 ∧ (c.actionW i 7).testBit 0 then .action i miss else .invalid miss

/-- The lookup of a key (R243, R244). -/
def Chip.lookup (c : Chip) (bank port profile : Nat) (key : List Byte) : Verdict :=
  let pw := c.profileW bank profile
  let ek := exactKey key pw
  let ex := if pw.testBit 16 then c.exactFind bank profile ek else none
  let te := if pw.testBit 17 then c.ternFind bank key else none
  match ex, te with
  | some a, some t => if (c.actionW t 0).testBit 7 then .action t false else c.generalAction a false
  | some a, none => c.generalAction a false
  | none, some t => .action t false
  | none, none =>
    let d := c.portDefW bank port
    if d.testBit 8 then c.generalAction (bitsOf d 30 16) true else .missDrop

/-- The words of the Carder's tables that this pass reads (R253, R419; DESIGN CHOICE, assumption log, entry 92): the nodes visited and
the port's default; and where a lookup was made (`look`), the profile, the exact entries the key can lie in, the ternary
entries with their last words, and the entry of the action that won. -/
def Chip.readsWord (c : Chip) (p : Packet) (ps : Parse) (look : Option (List Byte × Verdict)) : SramWord → Bool
  | .table t bank entry word =>
    let pw := c.profileW p.bank ps.profile
    if t = 3 then bank == p.bank && ps.seen.contains entry
    else if t = 5 then bank == p.bank && entry == p.ingress
    else match look with
      | none => false
      | some (key, v) =>
        if t = 4 then bank == p.bank && entry == ps.profile
        else if t = 0 then pw.testBit 16 && (exactSlots (exactKey key pw) ps.profile).contains entry
        else if t = 1 then pw.testBit 17
        else (pw.testBit 17 && word == 7 && decide (entry < 8192)) ||
          (match v with | .action a _ => a == entry | _ => false)
  | .work _ | .frame _ | .cell _ _ => false

end Sys2Proof.Machine
end

