-- ==== Sys2Proof/Machine/Carder.lean ====
section
/-!
DEFINITION. Machine/Carder.lean: dispatch, passes, edits, verdicts, mirror copies and the reorder stage (R29 to R36, R224 to
R230, R246 to R255). A lane takes one pass every 48 clocks of 1.2 GHz, which is one AON clock, and a pass takes six (R227).
Log entries: DEDUCED 56, 57; DESIGN CHOICE 38, 84, 92 (notes/assumptions).
-/
namespace Sys2Proof.Machine

def Chip.updCarder (c : Chip) (f : Carder → Carder) : Chip := { c with carder := f c.carder }

/-- Every word of the Carder's tables is rewritten, so none is bad. -/
def Chip.tablesGood (c : Chip) : Chip :=
  { c with ecc := { c.ecc with bad := c.ecc.bad.filter fun b => match b.word with | .table _ _ _ _ => false | _ => true } }

/-- CORE first becomes ON: every table is cleared (R230). -/
def Chip.carderInit (c : Chip) : Chip :=
  (c.updCarder fun d => { d with exact := [], tern := [], action := [], hits := [], nodes := [], profiles := [],
                                 portDef := [] }).tablesGood.setFld CARDER.BANK_STATUS_INIT_DONE 1

def execCarderInitDone (s : State) : Result :=
  run (fun c => c.whenDue (c.dom .core == domON && !c.on CARDER.BANK_STATUS_INIT_DONE) Chip.carderInit) s

/-- The Carder dispatches: CORE is ON, INIT_DONE, and not SAFE (R230, R59). -/
def Chip.dispatching (c : Chip) : Bool :=
  c.dom .core == domON && c.on CARDER.BANK_STATUS_INIT_DONE && c.mode != mSAFE

/-- Lane `l` can accept a pass. -/
def Chip.laneReady (c : Chip) (l : Nat) : Bool := decide (Tab.get 0 c.carder.laneFree l ≤ c.aon)

/-- The reorder window of a port (R32). -/
def Chip.window (c : Chip) (port : Nat) : List SeqTag := Tab.get [] c.carder.order port

/-- How many sequence tags of a port are in use (R32, R33). -/
def Chip.seqTagsUsed (c : Chip) (port : Nat) : Nat := ((c.window port).filter (!·.freed)).length

/-! ### Banks (R254, R255) -/

def Chip.epoch (c : Chip) : Nat := c.fld CARDER.BANK_STATUS_EPOCH
def Chip.activeBank (c : Chip) : Nat := c.epoch % 2
def inflightRow (bank : Nat) : FieldRow := if bank = 0 then CARDER.INFLIGHT_BANK_A else CARDER.INFLIGHT_BANK_B

/-- The other bank holds no packet. -/
def Chip.otherEmpty (c : Chip) : Bool := c.fld (inflightRow (1 - c.activeBank)) == 0

/-- The draining bank becomes free. -/
def Chip.bankFree (c : Chip) : Chip := (c.setFld CARDER.BANK_STATUS_BANK_FREE 1).raise EV.CARDER_BANK_FREE

def execBankFree (s : State) : Result :=
  run (fun c => c.whenDue (!c.on CARDER.BANK_STATUS_BANK_FREE && c.otherEmpty) Chip.bankFree) s

/-! ### Dispatch (R224 to R229) -/

/-- The fixed Hank entry matches (R25, R229). -/
def hankFixed (p : Packet) : Bool :=
  isUplinkPort p.ingress && (beNat ((p.bytes.drop 12).take 2) == 0x88B6 ||
    (beNat ((p.bytes.drop 12).take 2) == 0x8100 && beNat ((p.bytes.drop 16).take 2) == 0x88B6))

/-- How many passes the general lanes have accepted in this AON clock: the dispatcher gives out one in each clock of 1.2 GHz
(R226), so this numbers the clock of the next. -/
def Chip.clkNow (c : Chip) : Nat := (c.carder.passes.filter fun a => a.stop == c.aon + 6 && a.lane != 11).length

/-- A lane accepts a pass of a packet; the fixed Hank entry is tested then (R229). -/
def Chip.startPass (c : Chip) (l : Nat) (p : Packet) : Chip :=
  let c := if hankFixed p then c.bump CARDER.HANK_FIXED_COUNT else c
  let clk := if l = 11 then 0 else c.clkNow
  (c.updCarder fun d => { d with passes := d.passes ++ [{ pkt := p, lane := l, stop := c.aon + 6, clk := clk }],
                                 laneFree := Tab.put 0 d.laneFree l (c.aon + 1) }).bumpWrap CARDER.PASSES_COUNT

/-- The first pass of a packet begins: it is stamped (R254). -/
def Chip.stampPacket (c : Chip) (p : Packet) : Chip × Packet :=
  (c.bump (inflightRow c.activeBank), { p with bank := c.activeBank, pass := 0, recircTag := 0, cls := p.preclass, out := 0xFF, ctx := 0 })

/-- The ports in the order in which a round-robin that served `last` before serves them. -/
def rrPorts (fifos : Tab (List Packet)) (last : Nat) : List Nat :=
  let l := fifos.map (·.1)
  l.filter (last < ·) ++ l.filter (· ≤ last)

/-- A frame of port `port` is dispatched: one of the host port, whichever dispatcher serves it, counts for the rate of all SQs together
(R36, R226). -/
def Chip.hostServed (c : Chip) (port : Nat) : Chip :=
  if port = portHost then c.updCarder fun d => { d with hostNext := max d.hostNext (12 * c.aon) + 125 } else c

/-- Lane 11 serves its recirculation queue, then the express FIFOs round-robin (R225); a wait of more than 160 ns counts
(R306). -/
def Chip.dispatch11 (c : Chip) : Chip :=
  match c.carder.recirc11 with
  | p :: r => (c.updCarder fun d => { d with recirc11 := r }).startPass 11 p
  | [] =>
    match rrPorts c.buffer.express c.carder.lastX with
    | port :: _ =>
      match Tab.get [] c.buffer.express port with
      | p :: r =>
        let c := { c with buffer := { c.buffer with express := Tab.put [] c.buffer.express port r } }
        let c := (c.updCarder fun d => { d with lastX := port }).hostServed port
        let c := if 160 * nsQ < c.since p.since then
          (c.bump REEL.C7_DISPATCH_LATE_COUNT).raise EV.REEL_C7_DISPATCH_LATE else c
        let (c, p) := c.stampPacket p
        c.startPass 11 p
      | [] => c
    | [] => c

def execLane11Dispatch (s : State) : Result := run (fun c => c.whenDue (c.dispatching && c.laneReady 11) Chip.dispatch11) s

/-- A port whose general FIFO may be served now (R226): its window is not full, and the host port is not over its rate. -/
def Chip.servable (c : Chip) (port : Nat) : Bool :=
  decide (c.seqTagsUsed port < 512) && (port != portHost || decide (c.carder.hostNext ≤ 12 * c.aon))

/-- Heads held for a full window count once each in WINDOW_STALL (R226). -/
def Chip.countStalls (c : Chip) : Chip :=
  c.buffer.general.foldl (fun d e =>
    match e.2 with
    | p :: r =>
      if 512 ≤ d.seqTagsUsed e.1 ∧ ¬ p.stalled then
        (({ d with buffer := { d.buffer with general := Tab.put [] d.buffer.general e.1 ({ p with stalled := true } :: r) } }).bump
          CARDER.WINDOW_STALL_COUNT).raise EV.CARDER_WINDOW_STALL
      else d
    | [] => d) c

/-- A packet of a general FIFO begins its first pass on lane `l`, with a sequence tag of its port (R32). -/
def Chip.startGeneral (c : Chip) (l port : Nat) (p : Packet) (rest : List Packet) : Chip :=
  let c := { c with buffer := { c.buffer with general := Tab.put [] c.buffer.general port rest } }
  let c := (c.updCarder fun d =>
    { d with lastG := port, order := Tab.put [] d.order port (Tab.get [] d.order port ++ [{ id := p.id }]) }).hostServed port
  let (c, p) := c.stampPacket p
  c.startPass l p

/-- A lane in LIGHT begins to wake, which takes 200 ns, five AON clocks (R69, R70). -/
def Chip.wakeLane (c : Chip) (l : Nat) : Chip :=
  ({ c with modes := { c.modes with laneLight := Tab.put false c.modes.laneLight l false,
                                    laneWake := Tab.put 0 c.modes.laneWake l (c.aon + 5) } }).updCarder fun k =>
    { k with laneFree := Tab.put 0 k.laneFree l (c.aon + 5) }

/-- The general dispatcher gives the next lane its work (R226). A lane in LIGHT is woken first. -/
def Chip.dispatchGeneral (c : Chip) : Chip :=
  let l := c.carder.lane
  let c := c.countStalls
  let turn (d : Chip) : Chip := d.updCarder fun k => { k with lane := (l + 1) % 11 }
  let light := Tab.get false c.modes.laneLight l
  match c.carder.recirc with
  | p :: r => if light then c.wakeLane l else turn ((c.updCarder fun d => { d with recirc := r }).startPass l p)
  | [] =>
    match (rrPorts c.buffer.general c.carder.lastG).find? c.servable with
    | some port =>
      match Tab.get [] c.buffer.general port with
      | p :: r => if light then c.wakeLane l else turn (c.startGeneral l port p r)
      | [] => c
    | none => c

/-- General-lane dispatch is withheld while the power manager throttles (R78). -/
def execGeneralDispatch (s : State) : Result :=
  run (fun c => c.whenDue (c.dispatching && !c.throttled && c.laneReady c.carder.lane) Chip.dispatchGeneral) s

/-! ### Edits (R248, R249) -/

/-- The HOV entries that an edit leaves recorded. -/
def hovMap (hov : Tab (Option Nat)) (f : Nat → Nat → Option Nat) : Tab (Option Nat) :=
  hov.filterMap fun e => match e.2 with
    | some h => (f e.1 h).map fun v => (e.1, some v)
    | none => none

/-- One edit: the frame and the HOV after it, none where it is skipped. -/
def editOnce (f : List Byte) (hov : Tab (Option Nat)) (ctl data : Nat) : Option (List Byte × Tab (Option Nat)) :=
  let hdr := bitsOf ctl 5 2
  let len := bitsOf ctl 15 12
  let lim := min f.length 256
  match Tab.get none hov hdr with
  | none => none
  | some h =>
    let p := h + bitsOf ctl 11 6
    let octs := (beBytes 4 data).take len
    match bitsOf ctl 1 0 with
    | 1 => if len = 0 ∨ 4 < len ∨ lim < p + len then none else some (f.take p ++ octs ++ f.drop (p + len), hov)
    | 2 =>
      if len = 0 ∨ 4 < len ∨ lim < p then none
      else some (f.take p ++ octs ++ f.drop p,
        hovMap hov fun e v => some (if p < v ∨ (v = p ∧ e ≠ hdr) then v + len else v))
    | _ =>
      let n := 2 * len
      if len = 0 ∨ lim < p + n then none
      else some (f.take p ++ f.drop (p + n),
        hovMap hov fun e v => if p + n ≤ v then some (v - n) else if e ≠ hdr ∧ p ≤ v then none else some v)

/-- The three edits of an action, in order; the number is of those skipped. -/
def editAll (f : List Byte) (hov : Tab (Option Nat)) (edits : List (Nat × Nat)) : List Byte × Nat :=
  let (f, _, n) := edits.foldl (fun (f, hov, n) e =>
    if bitsOf e.1 1 0 = 0 then (f, hov, n)
    else match editOnce f hov e.1 e.2 with
      | some (f', hov') => (f', hov', n)
      | none => (f, hov, n + 1)) (f, hov, 0)
  (f, n)

/-! ### The end of a packet's passes -/

/-- A port that Table 01.2 defines. -/
def portDefined (p : Nat) : Bool := isUplinkPort p || isSegPort p || p == portHost || p == portHank

/-- A packet or copy leaves the Carder (R267): to the Hank block, or toward the enqueue steps. -/
def Chip.carderOut (c : Chip) (p : Packet) : Chip :=
  if p.out = portHank then ({ c with hankIn := c.hankIn ++ [p] }).copyFate p true csOK 0
  else { c with reel := { c.reel with incoming := c.reel.incoming ++ [p] } }

/-- A packet's passes have ended: it leaves its bank, and its copies and itself (`out`) take its place (R32, R251, R255). The
tag of a packet that is dropped, or trapped to the host, is released now: a trapped packet leaves at once, with its copies ahead
of it, and the copies of a dropped one keep its place without a tag (R33, R251; DEDUCED, assumption log, entry 57). -/
def Chip.passesEnd (c : Chip) (p : Packet) (out : List Packet) : Chip :=
  let row := inflightRow p.bank
  let c := c.setFld row (c.fld row - 1)
  let leave := Tab.get [] c.carder.copies p.id ++ out
  let c := c.updCarder fun d => { d with copies := Tab.put [] d.copies p.id [] }
  let trapped := out.any fun q => q.reason != 0
  if p.preclass = 7 then leave.foldl Chip.carderOut c
  else if leave = [] ∨ trapped then
    leave.foldl Chip.carderOut (c.updCarder fun d =>
      { d with order := Tab.put [] d.order p.ingress ((Tab.get [] d.order p.ingress).filter (·.id != p.id)) })
  else
    let tags := (c.window p.ingress).map fun t =>
      if t.id = p.id then { t with ended := true, freed := out == [], out := leave } else t
    c.updCarder fun d => { d with order := Tab.put [] d.order p.ingress tags }

/-- A packet is dropped in the Carder: its copies take its place. -/
def Chip.carderDrop (c : Chip) (p : Packet) (status detail : Nat) : Chip :=
  (c.copyFate p false status detail).passesEnd p []

/-- A drop that a Carder counter names (Table 10.10). -/
def Chip.carderCountDrop (c : Chip) (p : Packet) (r : FieldRow) (e : Option Evt) : Chip :=
  let c := c.bump r
  (match e with | some e => c.raise e | none => c).carderDrop { p with out := 0xFF } csDROPPED 1

/-- The sequence number that recovery reads in context `i` (R311): from the frame as the last pass found it. -/
def Chip.rtagOf (c : Chip) (i : Nat) (f : List Byte) (hov : Tab (Option Nat)) : Option Nat :=
  match Tab.get none hov (c.ctxF i 8 11 8) with
  | some h =>
    if 2 ≤ h ∧ beNat ((f.drop (h - 2)).take 2) = 0xF1C1 ∧ h + 3 < f.length then some (beNat ((f.drop (h + 2)).take 2)) else none
  | none => none

/-- The packet ends its passes with its output: check of the port, recovery, lane mismatch (R23, R30, R35). `f` and `hov` are
the frame and the parse of the last pass. -/
def Chip.carderFinish (c : Chip) (p : Packet) (f : List Byte) (hov : Tab (Option Nat)) : Chip :=
  if !portDefined p.out then c.carderCountDrop p CARDER.INVALID_OUTPUT_COUNT (some EV.CARDER_INVALID_OUTPUT)
  else
    match c.recovery p.id p.ctx fun i => c.rtagOf i f hov with
    | (c, .discarded) => c.carderDrop p csDUPLICATE 0
    | (c, .bad) => c.plyEcc.drawn.carderDrop p csDROPPED (c.freeVal % 256)
    | (c, .passed i) =>
      let c := if p.cls = p.preclass then c else (c.bump CARDER.LANE_MISMATCH_COUNT).raise EV.CARDER_LANE_MISMATCH
      c.passesEnd p [{ p with ctx := i }]

/-- A mirror copy of the frame as its pass began (R251). -/
def Chip.mirrorCopy (c : Chip) (p : Packet) (port : Nat) : Chip :=
  if !portDefined port then (c.bump CARDER.INVALID_OUTPUT_COUNT).raise EV.CARDER_INVALID_OUTPUT
  else match c.cellsFor p.ingress (cellsOf p.bytes.length) p.preclass with
    | none => (c.bump CARDER.MIRROR_DROP_COUNT).raise EV.CARDER_MIRROR_DROP
    | some k =>
      let q := { p with id := c.buffer.nextId, cells := k, ctx := 0, cls := below7 (c.fld CARDER.CFG_MIRROR_CLASS),
                        out := port, tag := none, mirror := true, primary := false, launch := none, reason := 0xFE }
      let c := ({ c with buffer := { c.buffer with nextId := c.buffer.nextId + 1 } }).chargeCells p.ingress k
      (c.updCarder fun d => { d with copies := Tab.put [] d.copies p.id (Tab.get [] d.copies p.id ++ [q]) }).bump CARDER.MIRRORS_COUNT

/-- The winning action after MIRROR and DROP: edits, settings, trap, recirculation or output (R247). -/
def Chip.actionRest (c : Chip) (a : Nat) (p : Packet) (ps : Parse) (key : List Byte) : Chip :=
  let w := c.actionW a
  let (f, skipped) := editAll p.bytes ps.hov [(bitsOf (w 2) 15 0, w 3), (bitsOf (w 2) 31 16, w 4), (bitsOf (w 5) 15 0, w 6)]
  let c := if skipped = 0 then c else (c.bumpBy CARDER.EDIT_SKIPPED_COUNT skipped).raise EV.CARDER_EDIT_ERROR
  if 9600 < f.length then c.carderCountDrop p CARDER.EDIT_OVERSIZE_COUNT (some EV.CARDER_EDIT_ERROR)
  else
    let f := f ++ List.replicate (60 - f.length) 0
    match c.growCells p f.length with
    | none => (c.bump REEL.BUF_DROP_COUNT).carderDrop { p with out := 0xFF } csDROPPED 5
    | some (c, p) =>
      let w0 := w 0
      let p := if w0.testBit 4 then { p with cls := bitsOf w0 10 8 } else p
      let p := if w0.testBit 5 then { p with out := bitsOf w0 23 16, reason := 0 } else p
      let h0 := (exactHash (exactKey key (c.profileW p.bank ps.profile)) ps.profile).1
      let p := if w0.testBit 6 then
        { p with ctx := (bitsOf (w 1) 17 0 + h0 % 2 ^ min 18 (bitsOf (w 1) 22 18)) % 262144 } else p
      let p0 := p.bytes
      let p := { p with bytes := f, hov := [] }
      if w0.testBit 1 then
        let r := bitsOf (w 1) 31 24
        let p := { p with out := portHost, reason := if r = 0 ∨ r = 0xFE then 0xFF else r }
        (c.bump CARDER.TRAPS_COUNT).carderFinish p p0 ps.hov
      else if w0.testBit 2 then
        if p.pass = 0 then
          let p := { p with pass := 1, recircTag := bitsOf w0 15 12 }
          let c := c.bump CARDER.RECIRCS_COUNT
          if p.preclass = 7 then c.updCarder fun d => { d with recirc11 := d.recirc11 ++ [p] }
          else c.updCarder fun d => { d with recirc := d.recirc ++ [p] }
        else c.carderCountDrop p CARDER.RECIRC_LIMIT_COUNT (some EV.CARDER_RECIRC_LIMIT)
      else c.carderFinish p p0 ps.hov

/-- The hit counter of action `a` is read; one that reads uncorrectable becomes 0 (Table 12.7). -/
def Chip.hitRead (c : Chip) (p : Packet) (a : Nat) : Chip :=
  match c.sramRead (some p.id) (· == .cell .hits a) with
  | (c, []) => c
  | (c, _) => (c.updCarder fun d => { d with hits := Tab.put 0 d.hits a 0 }).sramWrite 7 (.cell .hits a)

/-- The winning action (R247): its hit counts (R265), MIRROR, DROP, and the rest. -/
def Chip.applyAction (c : Chip) (a : Nat) (p : Packet) (ps : Parse) (key : List Byte) : Chip :=
  let c := c.hitRead p a
  let c := c.updCarder fun d => { d with hits := Tab.put 0 d.hits a ((Tab.get 0 d.hits a + 1) % 2 ^ 64) }
  let w0 := c.actionW a 0
  let c := if w0.testBit 3 then c.mirrorCopy p (bitsOf w0 31 24) else c
  if w0.testBit 0 then c.carderCountDrop p CARDER.DROP_ACTION_COUNT none
  else c.actionRest a p ps key

/-- The counts of a parse (R234, R235, R237). -/
def Chip.parseCounts (c : Chip) (ps : Parse) : Chip :=
  let c := if ps.lenMis then c.bump CARDER.LEN_MISMATCH_COUNT else c
  let c := if ps.depth then (c.bump CARDER.DEPTH_EXCEEDED_COUNT).raise EV.CARDER_DEPTH_EXCEEDED else c
  let c := if ps.frag then c.bump CARDER.FRAG_COUNT else c
  if ps.graphBad = 0 then c else (c.bumpBy CARDER.GRAPH_INVALID_COUNT ps.graphBad).raise EV.CARDER_GRAPH_INVALID

/-- A miss that MISS_ACTION serves counts in MISS_DEFAULT. -/
def Chip.missCount (c : Chip) (miss : Bool) : Chip := if miss then c.bump CARDER.MISS_DEFAULT_COUNT else c

/-- What a lookup yields is carried out (R243 to R247). -/
def Chip.obey (c : Chip) (p : Packet) (ps : Parse) (key : List Byte) : Verdict → Chip
  | .action a miss => (c.missCount miss).applyAction a p ps key
  | .missDrop => c.carderCountDrop p CARDER.MISS_DROP_COUNT (some EV.CARDER_MISS_DROP)
  | .invalid miss => (c.missCount miss).carderCountDrop p CARDER.ACTION_INVALID_COUNT (some EV.CARDER_ACTION_INVALID)

/-- The store of a table's word (Table 12.7): the rule and action tables are store 2, the parse graph is in store 7. -/
def tableStore (t : Nat) : Nat := if t < 3 then 2 else 7

/-- The pass has read an uncorrectable word: a word of the packet itself drops it as Table 12.7 says, with a free DETAIL, and any
other counts in ECC_DROP (R253). -/
def Chip.badDrop (c : Chip) (p : Packet) (b : BadWord) : Chip :=
  match b.word with
  | .frame _ => c.drawn.carderDrop { p with out := 0xFF } csDROPPED (c.freeVal % 256)
  | _ => c.carderCountDrop p CARDER.ECC_DROP_COUNT none

/-- A length mismatch that its port does not let pass: no lookup is made (R234). -/
def Chip.lenDrop (c : Chip) (p : Packet) (ps : Parse) : Bool := ps.lenMis && !(c.portDefW p.bank p.ingress).testBit 9

/-- KEY_FLAGS of a packet whose parse is `ps`. -/
def Packet.flagged (p : Packet) (ps : Parse) : Packet :=
  { p with keyFlags := (if ps.depth then 1 else 0) + (if ps.lenMis then 2 else 0) + (if ps.frag then 4 else 0) }

/-- What the lookup of a flagged packet yields, with its key; none where no lookup is made. -/
def Chip.lookOf (c : Chip) (p : Packet) (ps : Parse) : Option (List Byte × Verdict) :=
  if c.lenDrop p ps then none
  else
    let key := ps.octets p
    some (key, c.lookup p.bank p.ingress ps.profile key)

/-- The SRAM words that the pass of a flagged packet reads. -/
def Chip.passReads (c : Chip) (p : Packet) (ps : Parse) : SramWord → Bool
  | .frame id => id == p.id
  | .work id => id == p.id
  | w => !hankFixed p && c.readsWord p ps (c.lookOf p ps) w

/-- The verdict of a pass (R229, R234, R237, R243 to R247). -/
def Chip.verdict (c : Chip) (p : Packet) : Chip :=
  let ps := c.parse p
  let fixed := hankFixed p
  let q := if fixed then p else p.flagged ps
  let look := c.lookOf q ps
  let (c, bad) := c.sramRead (some p.id) (c.passReads q ps)
  let c := if fixed then c else c.parseCounts ps
  match bad, look with
  | b :: _, _ => c.badDrop q b
  | [], some (key, v) => if fixed then c.passesEnd p [{ p with out := portHank, ctx := 0 }] else c.obey q ps key v
  | [], none =>
    if fixed then c.passesEnd p [{ p with out := portHank, ctx := 0 }]
    else c.carderCountDrop q CARDER.LENERR_DROP_COUNT (some EV.CARDER_LENERR_DROP)

/-- The pass that ends first: by AON clock, by the clock of 1.2 GHz within it, and of two in one clock the one on the lower lane
(R314; DEDUCED, assumption log, entry 57). -/
def firstPass : List Pass → Option Pass
  | [] => none
  | a :: r => match firstPass r with
    | none => some a
    | some b => 
      if b.stop < a.stop ∨ (b.stop = a.stop ∧ (b.clk < a.clk ∨ (b.clk = a.clk ∧ b.lane < a.lane))) then some b else some a

/-- The pass that is due ends. A lane with no other pass is idle from now on (R70). -/
def Chip.passEnd (c : Chip) : Chip :=
  match firstPass c.carder.passes with
  | some a =>
    if a.stop ≤ c.aon then
      let left := c.carder.passes.erase a
      let c := c.updCarder fun d => { d with passes := left }
      let c := if left.any (·.lane == a.lane) then c
        else { c with modes := { c.modes with laneIdleSince := Tab.put 0 c.modes.laneIdleSince a.lane c.now } }
      c.verdict a.pkt
    else c
  | none => c

def execPassEnd (s : State) : Result := run (fun c => c.whenDue (c.dom .core == domON) Chip.passEnd) s

/-- The tags at the front of a window whose packets have ended are released (R32). -/
def releaseTags : List SeqTag → List Packet × List SeqTag
  | [] => ([], [])
  | t :: r => if t.ended then let (o, l) := releaseTags r; (t.out ++ o, l) else ([], t :: r)

/-- The reorder stage releases what it can of port `port`. -/
def Chip.reorderRelease (c : Chip) (port : Nat) : Chip :=
  let (out, left) := releaseTags (c.window port)
  out.foldl Chip.carderOut (c.updCarder fun d => { d with order := Tab.put [] d.order port left })

def execReorderRelease (ingress : BitVec 8) (s : State) : Result :=
  run (fun c => c.whenDue (c.dom .core == domON) fun d => d.reorderRelease ingress.toNat) s

end Sys2Proof.Machine
end

