-- ==== Sys2Proof/Machine/CarderTab.lean ====
section
/-!
DEFINITION. Machine/CarderTab.lean: rule banks and their switch (R255, R256), the judged table writes (R257 to R260), the
windows (R265) and the bulk load (R261 to R263).
Log entries: DESIGN CHOICE 58 (notes/assumptions).
-/
namespace Sys2Proof.Machine

/-! ### Bank switch (R256) -/

/-- The cause that refuses a switch, 0 for none, in the order of R256. -/
def Chip.switchCause (c : Chip) (v : Nat) : Nat :=
  if bitsOf v 31 24 ≠ 0xCB then 1
  else if !c.on CARDER.BANK_STATUS_INIT_DONE then 4
  else if bitsOf v 15 0 ≠ c.epoch then 2
  else if !c.on CARDER.BANK_STATUS_BANK_FREE then 3 else 0

/-- An accepted switch. -/
def Chip.bankSwitch (c : Chip) : Chip :=
  let e := (c.epoch + 1) % 65536
  let c := (c.setFld CARDER.BANK_STATUS_EPOCH e).setFld CARDER.BANK_STATUS_ACTIVE (e % 2)
  let c := ((c.setFld CARDER.BANK_STATUS_BANK_FREE 0).bump CARDER.BANK_SWITCHES_COUNT).raise EV.CARDER_BANK_SWITCHED
  if c.otherEmpty then c.bankFree else c

/-- A write of BANK_CMD. -/
def Chip.bankCmd (c : Chip) (p : Port) (v : Nat) : Chip :=
  if bitsOf v 16 16 = 0 then c
  else
    let cause := c.switchCause v
    if cause = 0 then c.bankSwitch
    else ((c.setFld CARDER.BANK_STATUS_LAST_REFUSE cause).refuse CARDER.BANK_CMD_SWITCH p).raise EV.CARDER_WRITE_REFUSED

def execBankSwitch (port : Port) (value : Word) (s : State) : Result :=
  run (fun c => c.accessField port CARDER.BANK_CMD_SWITCH 0 fun d => d.bankCmd port value.toNat) s

/-! ### Judged writes (R257, R258) -/

/-- The tables of Table 07.11. -/
inductive Tbl where
  | exact | tern | action | node | profile | portDef
  deriving DecidableEq, Repr

/-- The table's code in a bulk record (R263). -/
def Tbl.code : Tbl → Nat
  | .exact => 0
  | .tern => 1
  | .action => 2
  | .node => 3
  | .profile => 4
  | .portDef => 5

/-- The page and the offset at which a window shows word `w` of entry `i` (R265). -/
def Tbl.place (t : Tbl) (i w : Nat) : Nat × Nat :=
  match t with
  | .exact | .tern | .action => (PageCls.rulewin.base, 0x080 + 4 * w)
  | .node => (PageCls.bankwin.base, 0x080 + 4 * w)
  | .profile => (PageCls.bankwin.base, 0x200 + 4 * i)
  | .portDef => (PageCls.bankwin.base, 0x400 + 4 * i)

def Tbl.words : Tbl → Nat
  | .exact | .action => 8
  | .tern => 32
  | .node => 64
  | .profile | .portDef => 1

def Tbl.entries : Tbl → Nat
  | .exact => 131072
  | .tern => 8192
  | .action => 32768
  | .node => 256
  | .profile => 8
  | .portDef => 0x81

/-- The assigned bits of a word (Tables 07.2, 07.3, 07.6, 07.7, 07.15). -/
def Tbl.mask (t : Tbl) (i w : Nat) : Nat :=
  match t with
  | .exact => if w < 6 then 0xFFFFFFFF else if w = 6 then 0x00077FFF else 7
  | .tern => 0xFFFFFFFF
  | .action =>
    if w = 0 then 0xFFFFF7FF else if w = 1 then 0xFF7FFFFF else if w = 5 then 0x0000FFFF
    else if w = 7 then (if i < 8192 then 7 else 1) else 0xFFFFFFFF
  | .node =>
    if w = 0 then 0x013F1F3F else if w = 1 then 0xFFFFFFFF else if w = 2 then 0x001F1F3F else if w = 3 then 0x007FFF1F
    else if w = 4 then 0xFFFF013F else if w = 5 then 0xFFFF033F else if w < 10 then 0x003F1F3F else if w < 16 then 0
    else if w < 50 then (if w % 2 = 0 then 0xFFFFFFFF else 0x80FF0FFF) else 0
  | .profile => 0x00030FFF
  | .portDef => 0x7FFF03FF

/-- A word of a table stored. -/
def Chip.putTbl (c : Chip) (t : Tbl) (bank i w v : Nat) : Chip :=
  let v := v &&& t.mask i w
  c.updCarder fun d =>
    match t with
    | .exact => { d with exact := Tab.put 0 d.exact (8 * i + w) v }
    | .tern => { d with tern := Tab.put 0 d.tern (32 * i + w) v }
    | .action => { d with action := Tab.put 0 d.action (8 * i + w) v }
    | .node => { d with nodes := Tab.put 0 d.nodes ((256 * bank + i) * 64 + w) v }
    | .profile => { d with profiles := Tab.put 0 d.profiles (8 * bank + i) v }
    | .portDef => { d with portDef := Tab.put 0 d.portDef (256 * bank + i) v }

def Chip.tblW (c : Chip) (t : Tbl) (bank i w : Nat) : Nat :=
  match t with
  | .exact => c.exactW i w
  | .tern => c.ternW i w
  | .action => c.actionW i w
  | .node => c.nodeW bank i w
  | .profile => c.profileW bank i
  | .portDef => c.portDefW bank i

/-- A bank is live: active or draining (R255). -/
def Chip.bankLive (c : Chip) (b : Nat) : Bool := b == c.activeBank || !c.on CARDER.BANK_STATUS_BANK_FREE

/-- The membership that a last word gives in bank `b` (R258). -/
def memberIn (general : Bool) (last b : Nat) : Bool := last.testBit 0 && (general || last.testBit (1 + b))

/-- The first check of Table 07.9 that refuses a write of word `w` of entry `i`, 0 for none. -/
def Chip.writeCause (c : Chip) (t : Tbl) (bank i w v : Nat) : Nat :=
  if !c.on CARDER.BANK_STATUS_INIT_DONE then 1
  else if t.entries ≤ i ∨ t.words ≤ w then 2
  else
    match t with
    | .exact | .tern | .action =>
      let general := t == .action && decide (8192 ≤ i)
      let isLast := t != .tern && w == 7
      let old := if t = .exact then c.exactW i 7 else c.actionW i 7
      if !isLast then
        if [0, 1].any fun b => memberIn general old b && c.bankLive b then 3 else 0
      else if c.on CARDER.BANK_STATUS_BANK_FREE then 0
      else
        let b := 1 - c.activeBank
        if general then (if old.testBit 0 ∧ ¬ v.testBit 0 then 4 else 0)
        else if memberIn false old b != memberIn false v b then 4 else 0
    | _ => if c.bankLive bank then 5 else 0

/-- An accepted word is good again (R419): a general action entry whose VALID goes from 0 to 1 starts its hit counter again (R260). -/
def Chip.acceptWord (c : Chip) (t : Tbl) (bank i w v : Nat) : Chip :=
  let c := if t = .action ∧ 8192 ≤ i ∧ w = 7 ∧ v.testBit 0 ∧ ¬ (c.actionW i 7).testBit 0 then
    c.updCarder fun d => { d with hits := Tab.put 0 d.hits i 0 } else c
  (c.putTbl t bank i w v).sramWrite (tableStore t.code) (.table t.code (if t.code < 3 then 0 else bank) i w)

/-- A write through page 0x021 or 0x022, judged and reported in ENTRY_STATUS (R258, Table 07.15). `cause` is its cause. -/
def Chip.judgedWrite (c : Chip) (page off : Nat) (p : Port) (cause : Nat) (f : Chip → Chip) : Chip :=
  if cause = 0 then (f c).setFld RULEWIN.ENTRY_STATUS_LAST_REFUSED 0
  else (((c.setFld RULEWIN.ENTRY_STATUS_LAST_REFUSED 1).setFld RULEWIN.ENTRY_STATUS_LAST_CAUSE cause).errcnt page off p).raise
    EV.CARDER_WRITE_REFUSED

/-- The table that ENTRY_SEL names; 3 is reserved. -/
def Chip.selTable (c : Chip) : Option Tbl :=
  match c.fld RULEWIN.ENTRY_SEL_TABLE with
  | 0 => some .exact
  | 1 => some .tern
  | 2 => some .action
  | _ => none

/-- A write of ENTRY_WORD `w` (R258, R265). -/
def Chip.ruleWrite (c : Chip) (p : Port) (w v : Nat) : Chip :=
  let i := c.fld RULEWIN.ENTRY_SEL_INDEX
  let off := 0x080 + 4 * w
  match c.selTable with
  | none =>
    c.judgedWrite PageCls.rulewin.base off p (if c.on CARDER.BANK_STATUS_INIT_DONE then 2 else 1) id
  | some t => c.judgedWrite PageCls.rulewin.base off p (c.writeCause t 0 i w v) fun d => d.acceptWord t 0 i w v

def execRuleEntryWrite (port : Port) (word : Fin 32) (value : Word) (s : State) : Result :=
  run (fun c => c.accessField port RULEWIN.ENTRY_WORD_DATA 0 fun d => d.ruleWrite port word.val value.toNat) s

/-- ENTRY_WORD `w` as it reads: words 8 and 9 of an action entry are its hit counter (R265). -/
def Chip.ruleRead (c : Chip) (w : Nat) : Nat :=
  let i := c.fld RULEWIN.ENTRY_SEL_INDEX
  match c.selTable with
  | none => 0
  | some t =>
    if t.entries ≤ i then 0
    else if w < t.words then c.tblW t 0 i w
    else if t = .action ∧ w = 8 then Tab.get 0 c.carder.hits i % 2 ^ 32
    else if t = .action ∧ w = 9 then Tab.get 0 c.carder.hits i / 2 ^ 32 else 0

/-- The table, entry and word at an offset of the bank window (Table 07.14). -/
def Chip.bankAt (c : Chip) (off : Nat) : Option (Tbl × Nat × Nat) :=
  if 0x080 ≤ off ∧ off < 0x180 then some (.node, c.fld BANKWIN.BANK_SEL_NODE, (off - 0x080) / 4)
  else if 0x200 ≤ off ∧ off < 0x220 then some (.profile, (off - 0x200) / 4, 0)
  else if 0x400 ≤ off ∧ off < 0x604 then some (.portDef, (off - 0x400) / 4, 0)
  else none

/-- A write in the bank window (R257). -/
def Chip.bankWrite (c : Chip) (p : Port) (off v : Nat) : Chip :=
  match c.bankAt off with
  | some (t, i, w) =>
    let b := c.fld BANKWIN.BANK_SEL_BANK
    c.judgedWrite PageCls.bankwin.base off p (c.writeCause t b i w v) fun d => d.acceptWord t b i w v
  | none => c.plainWrite .bankwin 0 off v p

def Chip.bankRead (c : Chip) (off : Nat) : Nat :=
  match c.bankAt off with
  | some (t, i, w) => c.tblW t (c.fld BANKWIN.BANK_SEL_BANK) i w
  | none => c.plainRead .bankwin 0 off

/-- `reg` is the number of the word in the page: its offset is 4 × `reg`. -/
def execBankWindowWrite (port : Port) (reg : Fin 1024) (value : Word) (s : State) : Result :=
  run (fun c => c.accessField port BANKWIN.NODE_WORD_DATA 0 fun d =>
    d.whenDue (d.bankAt (4 * reg.val)).isSome fun e => e.bankWrite port (4 * reg.val) value.toNat) s

/-! ### Bulk load (R261 to R263) -/

abbrev bkIDLE : Nat := 0
abbrev bkLEAVE : Nat := 1
abbrev bkRUNNING : Nat := 2
abbrev bkDONE : Nat := 3
abbrev bkERROR : Nat := 4
abbrev bkABORTED : Nat := 5
abbrev bkNOLEAVE : Nat := 6

def Chip.bulkSt (c : Chip) : Nat := c.fld CARDER.BULK_STATUS_STATE

/-- The load ends: its leave is released. -/
def Chip.bulkEnd (c : Chip) (st : Nat) : Chip := (c.setFld CARDER.BULK_STATUS_STATE st).releaseLeave .ruleLoad

/-- GO starts a load, or is refused (R262). -/
def Chip.bulkGo (c : Chip) (p : Port) : Chip :=
  if !c.on CARDER.BANK_STATUS_INIT_DONE ∨ c.bulkSt = bkLEAVE ∨ c.bulkSt = bkRUNNING then c.refuse CARDER.BULK_CMD_GO p
  else
    let c := (c.updCarder fun d => { d with bulkLeft := c.fld CARDER.BULK_COUNT_RECORDS }).setFld CARDER.BULK_STATUS_DONE 0
    match c.leaveAnswer .ruleLoad with
    | .refused => ((c.requestLeave .ruleLoad).setFld CARDER.BULK_STATUS_STATE bkNOLEAVE).raise EV.CARDER_BULK_ERROR
    | _ => (c.requestLeave .ruleLoad).setFld CARDER.BULK_STATUS_STATE bkLEAVE

/-- The load's leave is granted. -/
def Chip.bulkGranted (c : Chip) : Chip :=
  let c := c.setFld CARDER.BULK_STATUS_STATE bkRUNNING
  if c.carder.bulkLeft = 0 then (c.bulkEnd bkDONE).raise EV.CARDER_BULK_DONE else c

/-- ABORT, and entry to STANDBY or SAFE, end a load (R263). -/
def Chip.bulkAbort (c : Chip) : Chip := if c.bulkSt = bkLEAVE ∨ c.bulkSt = bkRUNNING then c.bulkEnd bkABORTED else c

/-- A write of BULK_CMD. -/
def Chip.bulkCmd (c : Chip) (p : Port) (v : Nat) : Chip :=
  let c := if bitsOf v 0 0 = 1 then c.bulkGo p else c
  if bitsOf v 1 1 = 1 then c.bulkAbort else c

def execCarderBulkGo (port : Port) (value : Word) (s : State) : Result :=
  run (fun c => c.accessField port CARDER.BULK_CMD_GO 0 fun d => d.bulkCmd port value.toNat) s

def execCarderBulkAbort (port : Port) (value : Word) (s : State) : Result :=
  run (fun c => c.accessField port CARDER.BULK_CMD_GO 0 fun d => d.bulkCmd port value.toNat) s

/-- The table that a record names. -/
def recordTable : Nat → Option Tbl
  | 0 => some .exact
  | 1 => some .tern
  | 2 => some .action
  | 3 => some .node
  | 4 => some .profile
  | 5 => some .portDef
  | _ => none

/-- One record of ten words is carried out, word by word, or skipped (R263). A refused word counts in PAGE_ERRCNT of the page
whose window shows it, as if over PCIe, and raises WRITE_REFUSED (R258; DESIGN CHOICE, assumption log, entry 58). -/
def Chip.bulkApply (c : Chip) (r : List Nat) : Chip :=
  let w0 := r.getD 0 0
  let first := bitsOf (r.getD 1 0) 5 0
  let count := bitsOf (r.getD 1 0) 11 8
  match recordTable (bitsOf w0 2 0) with
  | some t =>
    if count = 0 ∨ 8 < count ∨ t.words < first + count then c.bump CARDER.BULK_REFUSED_COUNT
    else (List.range count).foldl (fun d j =>
      let i := bitsOf w0 24 8
      let b := bitsOf w0 3 3
      let v := r.getD (2 + j) 0
      if d.writeCause t b i (first + j) v = 0 then d.acceptWord t b i (first + j) v
      else
        let (page, off) := t.place i (first + j)
        ((d.bump CARDER.BULK_REFUSED_COUNT).errcnt page off .bar0).raise EV.CARDER_WRITE_REFUSED) c
  | none => c.bump CARDER.BULK_REFUSED_COUNT

/-- The next record has been read from host memory, or its read failed. -/
def Chip.bulkRecord (c : Chip) (r : Option (List Nat)) : Chip :=
  match r with
  | none => (c.bulkEnd bkERROR).raise EV.CARDER_BULK_ERROR
  | some r =>
    let c := (c.bulkApply r).bumpWrap CARDER.BULK_STATUS_DONE
    let c := c.updCarder fun d => { d with bulkLeft := d.bulkLeft - 1 }
    if c.carder.bulkLeft = 0 then (c.bulkEnd bkDONE).raise EV.CARDER_BULK_DONE else c

/-- A throttled power manager pauses the load (R78). -/
def execCarderBulkRecord (rec : Option (List Word)) (s : State) : Result :=
  run (fun c => c.whenDue (c.bulkSt == bkRUNNING && !c.throttled)
    fun d => d.bulkRecord (rec.map fun l => l.map (·.toNat))) s

end Sys2Proof.Machine
end

