-- ==== Sys2Proof/Machine/Uplink.lean ====
section
/-!
DEFINITION. Machine/Uplink.lean: the uplink MACs (chapter 06): link states, the receive checks, MAC control and pause, the
MAC merge receiver, and the end of what an uplink has in flight when it leaves UP.
Log entries: DEDUCED 51, 52, 53, 54; DESIGN CHOICE 90, 93, 95 (notes/assumptions).
-/
namespace Sys2Proof.Machine

/-- The link states of Table 06.2. -/
abbrev ulOFF : Nat := 0
abbrev ulLEAVE : Nat := 1
abbrev ulBRINGUP : Nat := 2
abbrev ulSEARCH : Nat := 3
abbrev ulUP : Nat := 4

def Chip.ulSt (c : Chip) (n : Nat) : Nat := c.fld UPLINK.LINK_STATUS_STATE n
def Chip.setUlSt (c : Chip) (n v : Nat) : Chip := c.setFld UPLINK.LINK_STATUS_STATE v n
def Chip.ulUp (c : Chip) (n : Nat) : Bool := c.ulSt n == ulUP

/-- The wire time of `k` octets in 2^-32 ns (Table 06.1). -/
def Chip.octs (c : Chip) (n k : Nat) : Nat :=
  k * (if c.on UPLINK.LINK_STATUS_SPEED_IN_FORCE n then 32 else 80) * nsQ / 100

/-- The calibrated delays of uplink `n` in 1/64 ns (R97). -/
def Chip.txDelay (c : Chip) (n : Nat) : Int := (c.fld WHORL.CAL_TX_DELAY 0 n : Nat) + signed 32 (c.fld WHORL.BOARD_TX_DELAY 0 n)
def Chip.rxDelay (c : Chip) (n : Nat) : Int := (c.fld WHORL.CAL_RX_DELAY 0 n : Nat) + signed 32 (c.fld WHORL.BOARD_RX_DELAY 0 n)

/-- The corrected receive timestamp, in 1/64 ns of network time, of an edge at monotonic time `stamp` in 2^-32 ns (R93, R96, R97). -/
def Chip.uplStamp (c : Chip) (n : Nat) (stamp : BitVec 96) : Int :=
  round64 (c.edgeNet stamp.toNat) - c.rxDelay n

/-! ### The end of what is in flight (R200, R210, R273) -/

/-- The frame on the wire, a pre-empted one and the MAC's own pause frame are cut (R200). -/
def Chip.cutTx (c : Chip) (n : Nat) : Chip :=
  let u := c.upl n
  let cut (d : Chip) (t : Option UplTx) : Chip :=
    match t with
    | some t => (d.bump UPLINK.TX_LINK_ABORT_COUNT n).copyFate t.pkt false csLINKABORT 0
    | none => d
  let c := c.setUpl n { u with cur := none, cont := none, ctrl := none, responds := 0 }
  let c := if u.ctrl.isSome then c.bump UPLINK.TX_LINK_ABORT_COUNT n else c
  cut (cut c u.cur) u.cont

/-- The frame under reassembly is discarded (R210). -/
def Chip.reasmDrop (c : Chip) (n : Nat) : Chip :=
  match (c.upl n).reasm with
  | some _ => ((c.updUpl n fun u => { u with reasm := none }).bump UPLINK.RX_ASSY_ERR_COUNT n).raise EV.UPLINK_REASM_ERROR n
  | none => c

/-- Every queued frame of uplink `n` is dropped under FLUSH (R273). -/
def Chip.flushQueues (c : Chip) (n : Nat) : Chip :=
  if c.on REELGATE.GATE_CTRL_DOWN_POLICY n then c
  else (List.range 8).foldl (fun d k => (d.queue n k).foldl (fun e p => e.flushDrop n p) (d.setQueue n k [])) c

/-- The verify state is reset (R206, Table 06.2). -/
def Chip.verifyReset (c : Chip) (n : Nat) : Chip :=
  let c := (c.setFld UPLINK.MERGE_STATUS_ACTIVE 0 n).setFld UPLINK.MERGE_STATUS_ATTEMPTS 0 n
  c.setFld UPLINK.MERGE_STATUS_VERIFY_STATE (if c.on UPLINK.MERGE_CFG_EN n then 1 else 0) n

/-- FEC codewords corrected and not correctable, within a frame or on an idle line, with Clause 108 in force (R197, R223). -/
def Chip.fecCount (c : Chip) (n fixed bad : Nat) : Chip :=
  if !c.on UPLINK.LINK_STATUS_FEC_IN_FORCE n then c
  else
    let c := c.bumpBy UPLINK.FEC_CORRECTED_COUNT fixed n
    if bad = 0 then c else (c.bumpBy UPLINK.FEC_UNCORRECTED_COUNT bad n).raise EV.UPLINK_FEC_UNCORRECTABLE n

/-- The status bits that describe the line read 0 (R201). -/
def Chip.lineClear (c : Chip) (n : Nat) : Chip :=
  (((((c.setFld UPLINK.LINK_STATUS_BLOCK_LOCK 0 n).setFld UPLINK.LINK_STATUS_FEC_LOCK 0 n).setFld
    UPLINK.LINK_STATUS_HI_BER 0 n).setFld UPLINK.LINK_STATUS_LOCAL_FAULT 0 n).setFld UPLINK.LINK_STATUS_REMOTE_FAULT 0 n)

/-- A frame whose reception had begun when the uplink left UP fails check 1 (R203). -/
def Chip.rxCutOff (c : Chip) (n : Nat) : Chip :=
  ((c.updUpl n fun u => { u with rxCut := none }).bump UPLINK.RX_CODE_ERR_COUNT n).raise EV.UPLINK_RX_ERROR n

/-- What leaving UP does, whatever the cause; `rxBusy` says whether the reception of a frame had begun, none where only the frame's
own end will tell. LINK_DOWNS counts every transition from UP (Table 06.10; DEDUCED, assumption log, entry 93). -/
def Chip.leaveUp (c : Chip) (n : Nat) (rxBusy : Option Bool) : Chip :=
  let c := ((c.cutTx n).reasmDrop n).bump UPLINK.LINK_DOWNS_COUNT n
  let c := match rxBusy with
    | some true => c.rxCutOff n
    | some false => c
    | none => c.updUpl n fun u => { u with rxCut := some c.now }
  c.flushQueues n

/-- The uplink goes OFF by EN = 0 or by STANDBY or RESET (Table 06.2). -/
def Chip.uplinkOff (c : Chip) (n : Nat) : Chip :=
  let c := if c.ulUp n then c.leaveUp n none else c
  let c := if h : n < 4 then c.releaseLeave (.uplink ⟨n, h⟩) else c
  (((c.setUlSt n ulOFF).verifyReset n).lineClear n).c7Eval n

/-- An enabled uplink in OFF starts its bring-up (Table 06.2): SPEED and FEC are read, and leave is requested. -/
def Chip.uplinkTry (c : Chip) (n : Nat) : Chip :=
  if c.ulSt n = ulOFF ∧ c.uplinkEn n ∧ (c.mode = mACQUIRE ∨ c.running) ∧ ¬ c.on UPLINK.LINK_STATUS_NO_LEAVE n then
    let sp := c.fld UPLINK.CFG_SPEED n
    let fec := c.fld UPLINK.CFG_FEC_EN n
    if sp = 0 ∧ fec = 1 then c.setFld UPLINK.LINK_STATUS_CFG_ERR 1 n
    else
      let c := c.setFld UPLINK.LINK_STATUS_CFG_ERR 0 n
      let c := (c.setFld UPLINK.LINK_STATUS_SPEED_IN_FORCE sp n).setFld UPLINK.LINK_STATUS_FEC_IN_FORCE fec n
      if h : n < 4 then
        let op := LeaveOp.uplink ⟨n, h⟩
        match c.leaveAnswer op with
        | .refused => (c.requestLeave op).setFld UPLINK.LINK_STATUS_NO_LEAVE 1 n
        | _ => (c.requestLeave op).setUlSt n ulLEAVE
      else c
  else c

/-- EN of an UPLINK page is now `en` (R199). -/
def Chip.uplinkEnChanged (c : Chip) (n : Nat) (en : Bool) : Chip :=
  if en then c.uplinkTry n
  else (if c.ulSt n = ulOFF then c else c.uplinkOff n).setFld UPLINK.LINK_STATUS_NO_LEAVE 0 n

/-- The end of the loopback calibration (R98): the measured constants, none where they fall outside the fused range. A failure also
clears DONE[n], and a later success clears DEFAULT[n] (DESIGN CHOICE, assumption log, entry 90). -/
def Chip.calResult (c : Chip) (n : Nat) (cal : Option (Word × Word)) : Chip :=
  let done := c.fld WHORL.CAL_STATUS_DONE
  let dflt := c.fld WHORL.CAL_STATUS_DEFAULT
  match cal with
  | some (tx, rx) =>
    let c := (c.setFld WHORL.CAL_TX_DELAY tx.toNat 0 n).setFld WHORL.CAL_RX_DELAY rx.toNat 0 n
    (c.setFld WHORL.CAL_STATUS_DONE (done ||| 2 ^ n)).setFld WHORL.CAL_STATUS_DEFAULT (dflt &&& (0xF - 2 ^ n))
  | none =>
    let c := c.setFld WHORL.CAL_TX_DELAY (WHORL.CAL_TX_DELAY.reset 0 n) 0 n
    let c := c.setFld WHORL.CAL_RX_DELAY (WHORL.CAL_RX_DELAY.reset 0 n) 0 n
    ((c.setFld WHORL.CAL_STATUS_DEFAULT (dflt ||| 2 ^ n)).setFld WHORL.CAL_STATUS_DONE (done &&& (0xF - 2 ^ n))).raise
      EV.WHORL_CAL_FAIL

/-- BRINGUP ends (Table 06.2): the uplink counts as ON, and its wake is complete (R87). -/
def Chip.bringupDone (c : Chip) (n : Nat) (cal : Option (Word × Word)) : Chip :=
  ((c.calResult n cal).setUlSt n ulSEARCH).raise EV.POWER_WAKE_DONE

def execUplinkBringupDone (n : Fin 4) (cal : Option (Word × Word)) (s : State) : Result :=
  run (fun c => c.whenDue (c.ulSt n.val == ulBRINGUP) fun d => d.bringupDone n.val cal) s

/-- verifyTime in 2^-32 ns (R206). -/
def Chip.verifyTime (c : Chip) (n : Nat) : Nat := max 1 (min 128 (c.fld UPLINK.MERGE_CFG_VERIFY_TIME_MS n)) * msQ

/-- The verify process starts (R206). -/
def Chip.verifyStart (c : Chip) (n : Nat) : Chip :=
  let c := c.verifyReset n
  if !c.on UPLINK.MERGE_CFG_EN n then c
  else if c.on UPLINK.MERGE_CFG_VERIFY_DIS n then
    (c.setFld UPLINK.MERGE_STATUS_VERIFY_STATE 5 n).setFld UPLINK.MERGE_STATUS_ACTIVE 1 n
  else (c.updUpl n fun u => { u with verifyAt := c.now + c.verifyTime n }).setFld UPLINK.MERGE_STATUS_VERIFY_STATE 2 n

/-- The status bits that describe the line, as the receiver finds it; HI_BER is raised when its bit becomes 1 (R222, R223). -/
def Chip.lineShow (c : Chip) (n : Nat) (l : LineState) : Chip :=
  let rose := l.hiBer && !c.on UPLINK.LINK_STATUS_HI_BER n
  let c := c.setBit UPLINK.LINK_STATUS_BLOCK_LOCK l.blockLock n
  let c := c.setBit UPLINK.LINK_STATUS_FEC_LOCK (l.fecLock && c.on UPLINK.LINK_STATUS_FEC_IN_FORCE n) n
  let c := c.setBit UPLINK.LINK_STATUS_HI_BER l.hiBer n
  let c := c.setBit UPLINK.LINK_STATUS_LOCAL_FAULT l.localFault n
  let c := c.setBit UPLINK.LINK_STATUS_REMOTE_FAULT l.remoteFault n
  if rose then c.raise EV.UPLINK_HI_BER n else c

/-- The line meets the conditions of UP (Table 06.2). -/
def Chip.lineGood (c : Chip) (n : Nat) (l : LineState) : Bool :=
  l.blockLock && (l.fecLock || !c.on UPLINK.LINK_STATUS_FEC_IN_FORCE n) && !l.hiBer && !l.localFault && !l.remoteFault

/-- SEARCH becomes UP. -/
def Chip.linkUp (c : Chip) (n : Nat) : Chip :=
  let c := c.updUpl n fun u => { u with flushed := false, freeAt := c.net, rxCut := none }
  ((((c.setUlSt n ulUP).raise EV.UPLINK_LINK_UP n).verifyStart n).c7Eval n)

/-- The line of an uplink in SEARCH: its bits are shown, and once it has been good for 1 ms the uplink becomes UP. -/
def Chip.lineSeen (c : Chip) (n : Nat) (l : LineState) (heldUs : Nat) : Chip :=
  let c := c.lineShow n l
  if c.lineGood n l ∧ 1000 ≤ heldUs then c.linkUp n else c

/-- The codewords of an idle line count in SEARCH and in UP, where the line is as it was (R222). -/
def execLinkUp (seen : LineSeen) (s : State) : Result :=
  run (fun c =>
    let n := seen.n.val
    c.whenDue (c.ulSt n == ulSEARCH || c.ulUp n) fun d =>
      let d := d.fecCount n seen.fixed seen.bad
      if d.ulSt n = ulSEARCH then d.lineSeen n seen.line seen.heldUs else d) s

/-- UP becomes SEARCH. -/
def Chip.linkDown (c : Chip) (n : Nat) (cause : LinkCause) (rxBusy : Bool) : Chip :=
  let c := (c.setUlSt n ulSEARCH).leaveUp n (some rxBusy)
  let c := c.raise EV.UPLINK_LINK_DOWN n
  let c := match cause with
    | .blockLock => (c.setFld UPLINK.LINK_STATUS_BLOCK_LOCK 0 n).setFld UPLINK.LINK_STATUS_FEC_LOCK 0 n
    | .hiBer => (c.setFld UPLINK.LINK_STATUS_HI_BER 1 n).raise EV.UPLINK_HI_BER n
    | .localFault => c.setFld UPLINK.LINK_STATUS_LOCAL_FAULT 1 n
    | .remoteFault => (c.setFld UPLINK.LINK_STATUS_REMOTE_FAULT 1 n).raise EV.UPLINK_REMOTE_FAULT n
  c.c7Eval n

def execLinkDown (n : Fin 4) (cause : LinkCause) (rxBusy : Bool) (s : State) : Result :=
  run (fun c => c.whenDue (c.ulUp n.val) fun d => d.linkDown n.val cause rxBusy) s

/-! ### Pause (R211 to R213) -/

/-- A pause frame with time `q` whose last octet ended at monotonic `te` (Table 06.5). PAUSE_RX is raised where it sets or extends a
pause (R223). -/
def Chip.pauseRx (c : Chip) (n q te : Nat) : Chip :=
  if !c.on UPLINK.PAUSE_CFG_RX_EN n then c.bump UPLINK.RX_PAUSE_IGNORED_COUNT n
  else
    let c := c.bump UPLINK.RX_PAUSE_COUNT n
    let stop := te + q * c.octs n 64
    let u := c.upl n
    if 0 < q then
      let paused := c.on UPLINK.PAUSE_STATUS_PAUSED n
      let old := if paused then some u.pauseEnd else u.pausePend.map (·.2)
      let c := if (match old with | some t => decide (t < stop) | none => true) then c.raise EV.UPLINK_PAUSE_RX n else c
      if paused then c.setUpl n { u with pauseEnd := stop, pausePend := none }
      else
        let start := match u.pausePend with | some (a, b) => if a < b then a else te + 64 * nsQ | none => te + 64 * nsQ
        c.setUpl n { u with pausePend := some (start, stop) }
    else if c.on UPLINK.PAUSE_STATUS_PAUSED n then
      c.setUpl n { u with pausePend := some (te + 64 * nsQ, te + 64 * nsQ) }
    else c

/-- A received pause takes effect (Table 06.5). -/
def Chip.pauseTakeDue (c : Chip) (n : Nat) : Bool :=
  match (c.upl n).pausePend with
  | some p => decide (p.1 ≤ c.now)
  | none => false

/-- PAUSED follows. PAUSED_TIME counts whole microseconds of one pause: the part of one that an earlier pause left is dropped (DESIGN
CHOICE, assumption log, entry 95: R213 does not say). -/
def Chip.pauseTake (c : Chip) (n : Nat) : Chip :=
  match (c.upl n).pausePend with
  | some (a, b) =>
    (c.updUpl n fun u => { u with pausePend := none, pauseEnd := b, pausedAcc := 0 }).setBit
      UPLINK.PAUSE_STATUS_PAUSED (decide (a < b)) n
  | none => c

def execPauseTakeEffect (n : Fin 4) (s : State) : Result :=
  run (fun c => c.whenDue (c.pauseTakeDue n.val) fun d => d.pauseTake n.val) s

/-- The pause in force ends. -/
def Chip.pauseOver (c : Chip) (n : Nat) : Bool :=
  c.on UPLINK.PAUSE_STATUS_PAUSED n && decide ((c.upl n).pauseEnd ≤ c.now)

/-- PAUSED returns to 0; a q = 0 that was still to end the pause has no effect any more. -/
def Chip.pauseEnds (c : Chip) (n : Nat) : Chip :=
  (c.updUpl n fun u => { u with pausePend := none }).setFld UPLINK.PAUSE_STATUS_PAUSED 0 n

def execPauseExpiry (n : Fin 4) (s : State) : Result :=
  run (fun c => c.whenDue (c.pauseOver n.val) fun d => d.pauseEnds n.val) s

/-- Each microsecond with PAUSED = 1 counts (R213). -/
def Chip.pauseTick (c : Chip) (n eff : Nat) : Chip :=
  if c.on UPLINK.PAUSE_STATUS_PAUSED n then
    let a := (c.upl n).pausedAcc + eff
    if usQ ≤ a then (c.updUpl n fun u => { u with pausedAcc := a - usQ }).bump UPLINK.PAUSED_TIME_US n
    else c.updUpl n fun u => { u with pausedAcc := a }
  else c

/-- Quanta left in the received pause, rounded up. -/
def Chip.pauseRemain (c : Chip) (n : Nat) : Nat :=
  if c.on UPLINK.PAUSE_STATUS_PAUSED n then
    min (((c.upl n).pauseEnd - c.now + c.octs n 64 - 1) / c.octs n 64) 0xFFFF
  else 0

/-- A MAC control frame is consumed (R211); `express` says how it arrived. -/
def Chip.macControl (c : Chip) (n : Nat) (f : List Byte) (te : Nat) (express : Bool) : Chip :=
  let op := beNat ((f.drop 14).take 2)
  let dst := beNat (f.take 6)
  let mac := c.fld UPLINK.MAC_HI_ADDR n * 2 ^ 32 + c.fld UPLINK.MAC_LO_ADDR n
  if op ≠ 1 then (c.bump UPLINK.RX_MAC_CTRL_OTHER_COUNT n).raise EV.UPLINK_MAC_CTRL_UNSUPPORTED n
  else if express ∧ (dst = 0x0180C2000001 ∨ dst = mac) then c.pauseRx n (beNat ((f.drop 16).take 2)) te
  else c.bump UPLINK.RX_MAC_CTRL_OTHER_COUNT n

/-! ### Receive checks (R203, R204) -/

/-- The pre-class of a frame (R204). -/
def Chip.uplPreclass (c : Chip) (n : Nat) (f : List Byte) : Nat :=
  let t := beNat ((f.drop 12).take 2)
  if t = 0x8100 ∨ t = 0x88A8 then
    let pcp := (f.getD 14 0).toNat / 32
    bitsOf (c.fld UPLINK.PRECLASS_MAP_PCP n) (3 * pcp + 2) (3 * pcp)
  else c.fld UPLINK.PRECLASS_MAP_DEFAULT n

/-- MAX_FRAME in force (Table 06.10). -/
def Chip.maxFrame (c : Chip) (n : Nat) : Nat := max 1518 (min 9600 (c.fld UPLINK.CFG_MAX_FRAME n))

/-- A 64-bit octet counter, which wraps (R222). -/
def Chip.bumpOctets (c : Chip) (lo hi : FieldRow) (k n : Nat) : Chip := c.setFld64 lo hi (c.fld64 lo hi n + k) n

/-- A frame that passed checks 1 to 5 is offered to the packet buffer (check 6, R270, R470). -/
def Chip.uplAdmit (c : Chip) (n : Nat) (octets : List Byte) (stamp : Int) : Chip :=
  let f := octets.take (octets.length - 4)
  let pre := c.uplPreclass n f
  if !c.coreOpen then (c.bump UPLINK.RX_NOBUF_COUNT n).raise EV.UPLINK_RX_ERROR n
  else match c.cellsFor n (cellsOf f.length) pre with
    | some k =>
      ((c.bump UPLINK.RX_FRAMES_COUNT n).bumpOctets UPLINK.RX_OCTETS_LO_COUNT UPLINK.RX_OCTETS_HI_COUNT octets.length
        n).admitFrame n pre f stamp k none
    | none =>
      let c := c.bump UPLINK.RX_NOBUF_COUNT n
      if c.headroomOpen n then c.raise EV.REEL_HEADROOM_EXHAUSTED else c

/-- A Sync (messageType 0) or Follow_Up (8) of IEEE 1588 directly over Ethernet, as its frame brings it (R101); none for any other
frame. The places of the fields are those of the IEEE 1588 header (PRESUMED, assumption log, entry 90). -/
def parsePtp (f : List Byte) : Option (Bool × PtpMsg) :=
  let at_ (i n : Nat) : Nat := beNat ((f.drop (14 + i)).take n)
  let ty := at_ 0 1 % 16
  if beNat ((f.drop 12).take 2) = 0x88F7 ∧ (ty = 0 ∨ ty = 8) ∧ 58 ≤ f.length then
    some (ty == 8, { etherType := 0x88F7, checked := true, domain := BitVec.ofNat 8 (at_ 4 1), clockId := BitVec.ofNat 64 (at_ 20 8),
                     portNumber := BitVec.ofNat 16 (at_ 28 2), seq := BitVec.ofNat 16 (at_ 30 2), twoStep := (at_ 6 1).testBit 1,
                     corr := BitVec.ofNat 64 (at_ 8 8), originSec := BitVec.ofNat 48 (at_ 34 6),
                     originNs := BitVec.ofNat 32 (at_ 40 4) })
  else none

/-- The servo's copy of a frame that has passed checks 1 to 4, whether or not the packet buffer accepts it (R101). -/
def Chip.ptpCopy (c : Chip) (n : Nat) (f : List Byte) (stamp : Int) : Chip :=
  match parsePtp f with
  | some (follow, m) => if !c.ptpForServo n m then c else if follow then c.ptpFollowUp m else c.ptpSync stamp m
  | none => c

/-- A received frame is checked in the order of Table 06.3. -/
def Chip.uplChecks (c : Chip) (n : Nat) (octets : List Byte) (stamp : Int) (te : Nat) (codeErr express : Bool) : Chip :=
  let k := octets.length
  let bad (r : FieldRow) : Chip := (c.bump r n).raise EV.UPLINK_RX_ERROR n
  if codeErr then bad UPLINK.RX_CODE_ERR_COUNT
  else if k < 4 ∨ crc32 (octets.take (k - 4)) ≠ leNat (octets.drop (k - 4)) then bad UPLINK.RX_FCS_ERR_COUNT
  else if k < 64 then bad UPLINK.RX_RUNT_COUNT
  else if c.maxFrame n < k then bad UPLINK.RX_OVERSIZE_COUNT
  else if beNat ((octets.drop 12).take 2) = 0x8808 then c.macControl n octets te express
  else (c.ptpCopy n (octets.take (k - 4)) stamp).uplAdmit n octets stamp

/-- A frame that the uplink has sent comes back through the near-end loopback of its PCS (CFG.LOOPBACK; DESIGN CHOICE, assumption
log, entry 93: it is received whole at its end, stamped as it was sent). -/
def Chip.loopback (c : Chip) (n : Nat) (f : List Byte) (stamp : Int) (express : Bool) : Chip :=
  if c.on UPLINK.CFG_LOOPBACK n then c.uplChecks n (f ++ leBytes 4 (crc32 f)) stamp c.now false express else c

/-- The end of an instant within the current tick, in monotonic time. -/
def Chip.monoAt (c : Chip) (phi : Fin 2560) : Nat := c.now + (c.withinTick phi).toNat

/-- A frame with an ordinary SFD is received. -/
def Chip.uplFrameRx (c : Chip) (n : Nat) (stamp : BitVec 96) (phi : Fin 2560) (octets : List Byte) (pcsErr : Bool)
    (fixed bad : Nat) : Chip :=
  let codeErr := pcsErr || (c.on UPLINK.LINK_STATUS_FEC_IN_FORCE n && bad != 0)
  (c.fecCount n fixed bad).uplChecks n octets (c.uplStamp n stamp) (c.monoAt phi) codeErr true

/-- The frame came from the line, and the line is not cut off by the loopback. -/
def Chip.lineOpen (c : Chip) (n : Nat) : Bool := c.ulUp n && !c.on UPLINK.CFG_LOOPBACK n

/-- A frame that began before the uplink left UP ends after it (R203). -/
def Chip.cutFrameEnds (c : Chip) (n : Nat) (stamp : BitVec 96) : Bool :=
  match (c.upl n).rxCut with
  | some t => !c.ulUp n && decide (stamp.toNat ≤ t)
  | none => false

def execUplinkFrameRx (n : Fin 4) (stamp : BitVec 96) (phi : Fin 2560) (octets : List Byte) (pcsErr : Bool)
    (fixed bad : Nat) (s : State) : Result :=
  run (fun c => if c.cutFrameEnds n.val stamp then c.rxCutOff n.val
    else c.whenDue (c.lineOpen n.val) fun d => d.uplFrameRx n.val stamp phi octets pcsErr fixed bad) s

/-! ### MAC merge (R206, R207, R210) -/

/-- A fragment's end: the frame goes on, is discarded, or is complete. -/
def Chip.fragEnd (c : Chip) (n : Nat) (r : Reasm) (tail : FragTail) (te : Nat) : Chip :=
  match tail with
  | .mcrcOk => c.updUpl n fun u => { u with reasm := some r }
  | .mcrcBad => (c.updUpl n fun u => { u with reasm := some r }).reasmDrop n
  | .final =>
    let c := c.updUpl n fun u => { u with reasm := none }
    let k := r.bytes.length
    let c := if 4 ≤ k ∧ crc32 (r.bytes.take (k - 4)) = leNat (r.bytes.drop (k - 4)) then c.bump UPLINK.RX_ASSY_OK_COUNT n else c
    c.uplChecks n r.bytes r.stamp te r.err false

/-- A respond mPacket within an attempt (R206). -/
def Chip.respondRx (c : Chip) (n : Nat) : Chip :=
  if c.fld UPLINK.MERGE_STATUS_VERIFY_STATE n = 2 ∧ 1 ≤ c.fld UPLINK.MERGE_STATUS_ATTEMPTS n then
    ((c.setFld UPLINK.MERGE_STATUS_VERIFY_STATE 3 n).setFld UPLINK.MERGE_STATUS_ACTIVE 1 n).raise EV.UPLINK_VERIFY_DONE n
      |>.c7Eval n
  else c

/-- A received mPacket whose SMD is not an ordinary SFD. -/
def Chip.mpacketRx (c : Chip) (n : Nat) (phi : Fin 2560) (m : MPacket) (e : RxErr) : Chip :=
  let pcsErr := e.pcsErr || (c.on UPLINK.LINK_STATUS_FEC_IN_FORCE n && e.bad != 0)
  let c := c.fecCount n e.fixed e.bad
  let smdErr := c.bump UPLINK.RX_SMD_ERR_COUNT n
  if !c.on UPLINK.MERGE_CFG_EN n then smdErr
  else
    let te := c.monoAt phi
    match m with
    | .undefined => smdErr
    | .verify => c.updUpl n fun u => { u with responds := u.responds + 1 }
    | .respond => c.respondRx n
    | .start stamp octets tail =>
      (c.reasmDrop n).fragEnd n { bytes := octets, nextCount := 0, stamp := c.uplStamp n stamp, err := pcsErr } tail te
    | .cont count octets tail =>
      match (c.upl n).reasm with
      | none => (c.bump UPLINK.RX_ASSY_ERR_COUNT n).raise EV.UPLINK_REASM_ERROR n
      | some r =>
        if r.nextCount ≠ count.val then (c.reasmDrop n).bump UPLINK.RX_FRAG_COUNT_ERR_COUNT n
        else c.fragEnd n { r with bytes := r.bytes ++ octets, nextCount := (r.nextCount + 1) % 4, err := r.err || pcsErr } tail te

def execMpacketRx (n : Fin 4) (phi : Fin 2560) (m : MPacket) (err : RxErr) (s : State) : Result :=
  run (fun c => c.whenDue (c.lineOpen n.val) fun d => d.mpacketRx n.val phi m err) s

/-- A write of MERGE_CFG. -/
def Chip.mergeCfgWrite (c : Chip) (p : Port) (n v : Nat) : Chip :=
  let was := c.on UPLINK.MERGE_CFG_EN n
  let c := c.plainWrite .uplink n UPLINK.MERGE_CFG_EN.off v p
  let en := c.on UPLINK.MERGE_CFG_EN n
  let c := if was && !en then ((c.reasmDrop n).updUpl n fun u => { u with responds := 0 }).verifyReset n
    else if !was && en then (if c.ulUp n then c.verifyStart n else c.verifyReset n) else c
  c.c7Eval n

def execMergeEnWrite (port : Port) (n : Fin 4) (value : Word) (s : State) : Result :=
  run (fun c => c.accessField port UPLINK.MERGE_CFG_EN n.val fun d => d.mergeCfgWrite port n.val value.toNat) s

end Sys2Proof.Machine
end

