-- ==== Sys2Proof/Machine/TxSel.lean ====
section
/-!
DEFINITION. Machine/TxSel.lean: what an uplink sends (R290 to R296, R205 to R209, R213 to R216): transmission selection, the
start and the end of a frame, pre-emption, underrun, pause and verify.
Instants are network time in 2^-32 ns; a command names its instant by its fraction of the current tick.
Log entries: DEDUCED 53, 54, 55, 66, 67; DESIGN CHOICE 10, 90 (notes/assumptions).
-/
namespace Sys2Proof.Machine

/-- The instant at fraction `phi` of the current tick. -/
def Chip.instAt (c : Chip) (phi : Fin 2560) : Int := c.net + c.withinTick phi

/-- The end of the current tick. -/
def Chip.tickEnd (c : Chip) : Int := c.net + (c.whorl.inc : Nat)

/-- MIN_FRAG (R208). -/
def Chip.minFrag (c : Chip) (n : Nat) : Nat := 64 * (1 + c.fld UPLINK.MERGE_CFG_ADD_FRAG_SIZE n)

/-- A frame of class `k` goes through the preemptable MAC (R205). -/
def Chip.preemptable (c : Chip) (n k : Nat) (p : Packet) : Bool :=
  c.on UPLINK.MERGE_STATUS_ACTIVE n && k != 7 && (c.fld UPLINK.MERGE_CFG_PREEMPT_CLASS n).testBit k && p.hank.isNone

/-- A hold holds the preemptable MAC back at `inst`; without pre-emption in force it has no effect (R289). -/
def Chip.holdInForce (c : Chip) (n : Nat) (inst : Int) : Bool := (c.gateView n inst).2 && c.on UPLINK.MERGE_STATUS_ACTIVE n

/-- A frame boundary of uplink `n` at which a frame may start (R59, R200, R294). -/
def Chip.boundary (c : Chip) (n : Nat) (inst : Int) : Bool :=
  c.ulUp n && (c.mode == mACQUIRE || c.running) && (c.upl n).cur.isNone && (c.upl n).ctrl.isNone && decide ((c.upl n).freeAt ≤ inst)

/-! ### Launch time (R290, R291) -/

/-- s − L for a frame whose preamble starts at `inst` (Table 08.6). -/
def Chip.launchLag (c : Chip) (n : Nat) (inst l : Int) : Int := inst + (c.octs n 8 : Nat) + c.txDelay n * 2 ^ 26 - l

/-- The preamble start that carries the reference bit across the MDI at `l` (R97, R290). -/
def Chip.launchStart (c : Chip) (n : Nat) (l : Int) : Int := l - c.txDelay n * 2 ^ 26 - (c.octs n 8 : Nat)

/-- Where a start at `st` is placed: in the current tick at the last TDC position not after it (R93). -/
def Chip.launchPlace (c : Chip) (st : Int) : Int :=
  if c.net ≤ st ∧ st < c.tickEnd then c.net + (placeIn c.whorl.inc (st - c.net).toNat : Nat) else st

/-- LATE_TOL in 2^-32 ns. -/
def Chip.lateTol (c : Chip) (n : Nat) : Nat := c.fld REELGATE.LATE_TOL_NS n * nsQ

/-- The event LT_EXPIREDn (Table 08.15). -/
def evLtExpired (n : Nat) : Evt := { cls := .reel, bit := 8 + n }

/-- An expired launch-time frame is dropped (Table 08.6). -/
def Chip.ltDrop (c : Chip) (n : Nat) (p : Packet) : Chip :=
  ((c.bump REELGATE.LT_EXPIRED_COUNT n).raise (evLtExpired n)).copyFate p false csEXPIRED 0

/-- The heads of a launch-time queue that `late` finds expired are dropped; none is judged before RUN entry (R57). -/
def Chip.ltExpire (c : Chip) (n k : Nat) (late : Int → Bool) : Chip :=
  if c.running && c.ltQueue n k then
    let q := c.queue n k
    let gone := q.takeWhile fun p => match p.launch with | some l => late l | none => false
    gone.foldl (fun d p => d.ltDrop n p) (c.setQueue n k (q.drop gone.length))
  else c

/-- Network time has passed L + LATE_TOL. -/
def Chip.pastTol (c : Chip) (n : Nat) (l : Int) : Bool := decide (l + (c.lateTol n : Nat) < c.net)

/-- A frame that started at `inst` would be more than LATE_TOL late. -/
def Chip.tooLate (c : Chip) (n : Nat) (inst l : Int) : Bool := decide ((c.lateTol n : Int) < c.launchLag n inst l)

def Chip.launchExpire (c : Chip) (n k : Nat) : Chip := c.ltExpire n k (c.pastTol n)

def execLaunchExpire (n : Fin 4) (cls : Fin 8) (s : State) : Result := run (fun c => c.launchExpire n.val cls.val) s

/-! ### The conditions of R294 -/

/-- The head may start as far as its data goes (R215). -/
def Chip.dataReady (c : Chip) (n k : Nat) (arrived : List Nat) (p : Packet) : Bool :=
  let a := arrivedOf arrived k p
  let thr := 256 * max 1 (c.fld UPLINK.TX_START_THRESH_BLOCKS n k)
  decide (a = p.bytes.length) || (decide (thr < p.bytes.length) && decide (thr ≤ a))

/-- Conditions 1 to 4 for class `k` (R294). -/
def Chip.headEligible (c : Chip) (n k : Nat) (inst : Int) (arrived : List Nat) : Option Packet :=
  match c.queue n k with
  | [] => none
  | p :: _ =>
    let gate := (c.gateView n inst).1.testBit k
    let shaped := c.shaperMode n k == 0 || decide (0 ≤ c.creditOf n k)
    let tick := match p.eligible with | some e => c.tickReached e | none => true
    let launch := if c.ltQueue n k then
        c.running && (match p.launch with | some l => c.firesAt (c.launchStart n l) && decide (c.launchPlace (c.launchStart n l) ≤ inst) | none => true)
      else true
    if gate && shaped && tick && launch && c.dataReady n k arrived p then some p else none

/-- The fit test (R295). -/
def Chip.fitTest (c : Chip) (n k : Nat) (inst : Int) (p : Packet) : Bool :=
  let f := p.bytes.length
  match c.closeAt n k inst with
  | none => true
  | some x =>
    decide (inst + (c.octs n (max f 60 + 12) : Nat) ≤ x) ||
      (c.preemptable n k p && decide (c.minFrag n + 56 ≤ f) && decide (inst + (c.octs n (c.minFrag n + 8) : Nat) ≤ x))

/-- A launch-time head of an express class must start while a frame that starts at `inst` would be on the wire (R293). -/
def Chip.launchProtects (c : Chip) (n k : Nat) (inst : Int) (p : Packet) : Bool :=
  c.on REELGATE.GATE_CTRL_LT_PROTECT n && k != 7 && !c.preemptable n k p && c.running &&
    (List.range 8).any fun j =>
      j != k && c.ltQueue n j && (match c.queue n j with
        | q :: _ => !c.preemptable n j q && (match q.launch with
          | some l =>
            let st := c.launchStart n l
            (c.gatesAt n l).testBit j && decide (inst ≤ st) &&
              decide (st < inst + (c.octs n (max p.bytes.length 60 + 24) : Nat))
          | none => false)
        | [] => false)

/-- Conditions 6 to 8, and no second preemptable frame while a continuation waits (R213, R289, R293, R296). -/
def Chip.notHeld (c : Chip) (n k : Nat) (inst : Int) (p : Packet) : Bool :=
  let pre := c.preemptable n k p
  !c.launchProtects n k inst p &&
    (!c.on UPLINK.PAUSE_STATUS_PAUSED n || (c.on UPLINK.PAUSE_CFG_EXPRESS_EXEMPT n && !pre)) &&
    !(pre && (c.holdInForce n inst || (c.upl n).cont.isSome))

/-- The head that R294 selects, with its class. -/
def Chip.selectHead (c : Chip) (n : Nat) (inst : Int) (arrived : List Nat) (expressOnly : Bool) : Option (Packet × Nat) :=
  ([7, 6, 5, 4, 3, 2, 1, 0]).findSome? fun k =>
    match c.headEligible n k inst arrived with
    | some p =>
      if c.fitTest n k inst p && c.notHeld n k inst p && !(expressOnly && c.preemptable n k p) then some (p, k) else none
    | none => none

/-- Heads that fail condition 5 count once in GATE_NOFIT. -/
def Chip.countNofit (c : Chip) (n : Nat) (inst : Int) (arrived : List Nat) : Chip :=
  (List.range 8).foldl (fun d k =>
    match d.headEligible n k inst arrived with
    | some p =>
      if p.nofit || d.fitTest n k inst p then d
      else (d.setQueue n k ({ p with nofit := true } :: (d.queue n k).tail)).bump REELGATE.GATE_NOFIT_COUNT n
    | none => d) c

/-! ### MAC control, verify and respond (R206, R207, R214) -/

/-- A pause frame is due on an assertion or a release of XOFF. -/
def Chip.pauseDue (c : Chip) (n : Nat) : Bool :=
  c.on UPLINK.PAUSE_CFG_TX_EN n && (Tab.get false c.buffer.xoff n != c.on UPLINK.PAUSE_STATUS_XOFF_SENT n)

/-- The repeat of R214 is due. -/
def Chip.refreshDue (c : Chip) (n : Nat) : Bool :=
  c.on UPLINK.PAUSE_CFG_TX_EN n && Tab.get false c.buffer.xoff n && c.on UPLINK.PAUSE_STATUS_XOFF_SENT n &&
    decide ((c.upl n).lastPauseTx + max 1 (c.fld UPLINK.PAUSE_REFRESH_QUANTA n) * c.octs n 64 ≤ c.now)

/-- A minimum frame or mPacket of the MAC's own occupies the wire from `inst` on, preamble and gap included. -/
def Chip.wireBusy (c : Chip) (n : Nat) (inst : Int) : Chip :=
  c.updUpl n fun u => { u with freeAt := inst + (c.octs n 84 : Nat) }

/-- The frame and its octets count as sent (R222). -/
def Chip.countSent (c : Chip) (n octets : Nat) : Chip :=
  (c.bump UPLINK.TX_FRAMES_COUNT n).bumpOctets UPLINK.TX_OCTETS_LO_COUNT UPLINK.TX_OCTETS_HI_COUNT octets n

/-- A pause frame of the Chrosal's own starts on the wire (R214). -/
def Chip.sendPause (c : Chip) (n : Nat) (inst : Int) : Chip :=
  let xoff := Tab.get false c.buffer.xoff n
  let q := if xoff then c.fld UPLINK.PAUSE_CFG_TX_QUANTA n else 0
  ((c.updUpl n fun u => { u with lastPauseTx := c.now, ctrl := some (inst, q) }).wireBusy n inst).setBit
    UPLINK.PAUSE_STATUS_XOFF_SENT xoff n

/-- The pause frame of uplink `n` without its FCS (R211, R214). -/
def Chip.pauseBytes (c : Chip) (n q : Nat) : List Byte :=
  beBytes 6 0x0180C2000001 ++ beBytes 2 (c.fld UPLINK.MAC_HI_ADDR n) ++ beBytes 4 (c.fld UPLINK.MAC_LO_ADDR n) ++
    beBytes 2 0x8808 ++ beBytes 2 1 ++ beBytes 2 q ++ List.replicate 42 0

/-- The pause frame on the wire has been sent whole: it counts. -/
def Chip.ctrlSent (c : Chip) (n : Nat) : Chip :=
  match (c.upl n).ctrl with
  | some (st, q) =>
    let c := ((c.updUpl n fun u => { u with ctrl := none }).bump UPLINK.TX_PAUSE_COUNT n).countSent n 64
    c.loopback n (c.pauseBytes n q) (round64 (st + (c.octs n 8 : Nat)) + c.txDelay n) true
  | none => c

def execPauseFrameTx (n : Fin 4) (phi : Fin 2560) (s : State) : Result :=
  run (fun c => c.whenDue (c.boundary n.val (c.instAt phi) && c.pauseDue n.val) fun d => d.sendPause n.val (c.instAt phi)) s

def execPauseRefresh (n : Fin 4) (phi : Fin 2560) (s : State) : Result :=
  run (fun c => c.whenDue (c.boundary n.val (c.instAt phi) && c.refreshDue n.val) fun d => d.sendPause n.val (c.instAt phi)) s

/-- A verify mPacket, or the failure after three attempts (R206). -/
def Chip.verifySend (c : Chip) (n : Nat) (inst : Int) : Chip :=
  if c.fld UPLINK.MERGE_STATUS_ATTEMPTS n < 3 then
    if c.boundary n inst then
      let c := (c.updUpl n fun u => { u with verifyAt := u.verifyAt + c.verifyTime n }).wireBusy n inst
      let c := (c.bump UPLINK.VERIFY_TX_COUNT n).bump UPLINK.MERGE_STATUS_ATTEMPTS n
      if c.on UPLINK.CFG_LOOPBACK n then c.mpacketRx n 0 .verify {} else c
    else c
  else (c.setFld UPLINK.MERGE_STATUS_VERIFY_STATE 4 n).raise EV.UPLINK_VERIFY_FAILED n

/-- The next attempt, or the failure, is due. -/
def Chip.verifyDue (c : Chip) (n : Nat) : Bool :=
  c.ulUp n && c.fld UPLINK.MERGE_STATUS_VERIFY_STATE n == 2 && decide ((c.upl n).verifyAt ≤ c.now)

def execVerifySend (n : Fin 4) (phi : Fin 2560) (s : State) : Result :=
  run (fun c => c.whenDue (c.verifyDue n.val) fun d => d.verifySend n.val (c.instAt phi)) s

/-! ### The start of a frame -/

/-- The octets with those from `at_` on replaced. -/
def overlay (f : List Byte) (at_ : Nat) (l : List Byte) : List Byte := f.take at_ ++ l ++ f.drop (at_ + l.length)

/-- One-step operation on a Sync message (R99): the frame as it is sent with transmit timestamp `t` (1/64 ns). -/
def oneStepFrame (f : List Byte) (t : Int) : List Byte :=
  let ty := beNat ((f.drop 12).take 2)
  let at_ := if ty = 0x88F7 then 14
    else if (ty = 0x8100 ∨ ty = 0x88A8) ∧ beNat ((f.drop 16).take 2) = 0x88F7 then 18 else 0
  if at_ = 0 ∨ (f.getD at_ 0).toNat % 16 ≠ 0 ∨ f.length < at_ + 44 then f
  else
    let f := overlay f (at_ + 34) (beBytes 6 (stampSec t) ++ beBytes 4 (stampNs t))
    overlay f (at_ + 8) (beBytes 8 (beNat ((f.drop (at_ + 8)).take 8) + stampSub t * 1024))

/-- A copy begins on the wire: its operation is STARTED, and takes the transmit timestamp of its primary copy (R365,
Table 10.8); a Hank message begins (R398). -/
def Chip.copyStarts (c : Chip) (p : Packet) (stamp : Int) : Chip :=
  match p.tag, p.hank with
  | some t, _ =>
    let c := c.opStarted t
    if p.primary && c.opLive t then c.updOp t fun o => { o with stamp := some stamp } else c
  | none, some id => c.hankBegins id
  | none, none => c

/-- The head of class `k` starts at `inst`. -/
def Chip.startFrame (c : Chip) (n k : Nat) (p : Packet) (inst : Int) (arrived : List Nat) : Chip :=
  let pre := c.preemptable n k p
  let stamp := round64 (inst + (c.octs n 8 : Nat)) + c.txDelay n
  let total := max p.bytes.length 60
  let c := c.setQueue n k (c.queue n k).tail
  let c := if c.shaperMode n k = 0 then c else c.setCredit n k (c.creditOf n k - ((total + 24) * 8000 : Nat))
  let (c, status) : Chip × Nat :=
    match p.launch with
    | some l =>
      if c.launchLag n inst l ≤ 0 then (c.bump REELGATE.LT_ONTIME_COUNT n, csONTIME)
      else (c.bump REELGATE.LT_LATE_COUNT n, csLATE)
    | none => (c, csOK)
  let p' := if p.oneStep then { p with bytes := oneStepFrame p.bytes stamp } else p
  let t : UplTx := { pkt := p', cls := k, start := inst, total := total, preempt := pre,
                     early := decide (arrivedOf arrived k p < p.bytes.length), stamp := stamp, status := status }
  (c.updUpl n fun u => { u with cur := some t }).copyStarts p stamp

/-- The octet of a Hank frame at which its header begins (R382). -/
def hankHdrAt (f : List Byte) : Nat := if beNat ((f.drop 12).take 2) = 0x8100 then 18 else 14

/-- A Hank frame built under an epoch that is no longer in force (Table 11.13). -/
def Chip.hankStale (c : Chip) (p : Packet) : Bool :=
  p.hank.isSome && beNat ((p.bytes.drop (hankHdrAt p.bytes + 6)).take 2) != c.fld GLOBAL.ROLE_EPOCH

/-- A stale Hank frame is dropped at its start. -/
def Chip.staleDrop (c : Chip) (n k : Nat) (p : Packet) : Chip :=
  (((c.setQueue n k (c.queue n k).tail).bump HANK.TX_STALE_COUNT).raise EV.HANK_TX_STALE).copyFate p false csDROPPED 0

/-- The head that R294 selects, after stale Hank frames that would start have been dropped; `fuel` bounds their number. -/
def Chip.freshHead (c : Chip) (n : Nat) (inst : Int) (arrived : List Nat) (expressOnly : Bool) :
    Nat → Chip × Option (Packet × Nat)
  | 0 => (c, none)
  | fuel + 1 =>
    match c.selectHead n inst arrived expressOnly with
    | some (p, k) =>
      if c.hankStale p then (c.staleDrop n k p).freshHead n inst arrived expressOnly fuel else (c, some (p, k))
    | none => (c, none)

/-- How many frames wait for uplink `n`. -/
def Chip.queuedFrames (c : Chip) (n : Nat) : Nat := ((List.range 8).map fun k => (c.queue n k).length).sum

/-- A continuation may resume at `inst` (R296). -/
def Chip.contReady (c : Chip) (n : Nat) (t : UplTx) (inst : Int) : Bool :=
  (c.gateView n inst).1.testBit t.cls && !c.holdInForce n inst

/-- In SAFE only the rest of a frame that has begun is sent (R59, R200). -/
def Chip.safeCont (c : Chip) (n : Nat) (inst : Int) : Chip :=
  match (c.upl n).cont with
  | some t =>
    if c.mode == mSAFE && c.ulUp n && (c.upl n).cur.isNone && (c.upl n).ctrl.isNone && decide ((c.upl n).freeAt ≤ inst) then
      c.updUpl n fun u => { u with cur := some { t with start := inst }, cont := none }
    else c
  | none => c

/-- Transmission selection at a frame boundary (R294, R296). -/
def Chip.selectAt (c : Chip) (n : Nat) (inst : Int) (arrived : List Nat) : Chip :=
  if !c.boundary n inst then c.safeCont n inst
  else if c.pauseDue n || c.refreshDue n then c.sendPause n inst
  else if (c.upl n).responds ≠ 0 then
    let c := (c.updUpl n fun u => { u with responds := u.responds - 1 }).wireBusy n inst
    if c.on UPLINK.CFG_LOOPBACK n then c.mpacketRx n 0 .respond {} else c
  else
    let c := (List.range 8).foldl (fun d k => d.ltExpire n k (d.tooLate n inst)) c
    let c := c.countNofit n inst arrived
    let fuel := c.queuedFrames n + 1
    match (c.upl n).cont with
    | some t =>
      match c.freshHead n inst arrived true fuel with
      | (c, some (p, k)) => c.startFrame n k p inst arrived
      | (c, none) =>
        if c.contReady n t inst then c.updUpl n fun u => { u with cur := some { t with start := inst }, cont := none }
        else c
    | none =>
      match c.freshHead n inst arrived false fuel with
      | (c, some (p, k)) => c.startFrame n k p inst arrived
      | (c, none) => c

def execTxSelect (n : Fin 4) (phi : Fin 2560) (arrived : List Nat) (s : State) : Result :=
  run (fun c => c.selectAt n.val (c.instAt phi) arrived) s

/-- The start of the launch-time head of class `k`, where it falls into the current tick (R290). -/
def Chip.launchNow (c : Chip) (n k : Nat) : Option Int :=
  if c.ltQueue n k then
    match c.queue n k with
    | p :: _ => match p.launch with
      | some l =>
        let st := c.launchStart n l
        if c.net ≤ st ∧ st < c.tickEnd then some (c.launchPlace st) else none
      | none => none
    | [] => none
  else none

def Chip.launchReached (c : Chip) (n k : Nat) (arrived : List Nat) : Chip :=
  match c.launchNow n k with
  | some st => c.selectAt n st arrived
  | none => c

def execLaunchTimeReached (n : Fin 4) (cls : Fin 8) (arrived : List Nat) (s : State) : Result :=
  run (fun c => c.launchReached n.val cls.val arrived) s

/-! ### While a frame is on the wire -/

/-- Data octets that the fragment on the wire has carried by `inst`, the octet in progress included. -/
def Chip.fragData (c : Chip) (n : Nat) (t : UplTx) (inst : Int) : Nat :=
  ((inst - t.start).toNat + c.octs n 1 - 1) / c.octs n 1 - 8

/-- What holds the preemptable MAC back at `inst`: an express frame ready to start, a pause frame due, a closed gate or a
hold (R208, R289, R296). -/
def Chip.preemptWanted (c : Chip) (n : Nat) (t : UplTx) (inst : Int) (arrived : List Nat) : Bool :=
  c.pauseDue n || c.refreshDue n || !c.contReady n t inst ||
    (c.selectHead n (inst + (c.octs n 16 : Nat)) arrived true).isSome

/-- Pre-emption of the frame in progress (R208): only while pre-emption is in force (R205), and not in SAFE, where no frame may start
for it (R59). -/
def Chip.preemptAt (c : Chip) (n : Nat) (inst : Int) (arrived : List Nat) : Chip :=
  match (c.upl n).cur with
  | some t =>
    let k := c.fragData n t inst
    if c.ulUp n && (c.mode == mACQUIRE || c.running) && t.preempt && c.on UPLINK.MERGE_STATUS_ACTIVE n && decide (t.start ≤ inst) && decide (c.minFrag n - 4 ≤ k) && decide (t.done + k + 60 ≤ t.total) &&
        c.preemptWanted n t inst arrived then
      (c.updUpl n fun u => { u with cur := none, cont := some { t with done := t.done + k },
                                    freeAt := t.start + (c.octs n (8 + k + 4 + 12) : Nat) }).bump UPLINK.TX_PREEMPTS_COUNT n
    else c
  | none => c

def execPreemption (n : Fin 4) (phi : Fin 2560) (arrived : List Nat) (s : State) : Result :=
  run (fun c => c.preemptAt n.val (c.instAt phi) arrived) s

/-- The end of the frame on the wire: preamble, the data left, and the FCS. -/
def Chip.txEndAt (c : Chip) (n : Nat) (t : UplTx) : Int := t.start + (c.octs n (8 + (t.total - t.done) + 4) : Nat)

/-- A frame sent whole (R269, R355), or a pause frame. -/
def Chip.frameSent (c : Chip) (n : Nat) : Chip :=
  match (c.upl n).cur, (c.upl n).ctrl with
  | some t, _ =>
    if c.txEndAt n t < c.tickEnd then
      let c := c.updUpl n fun u => { u with cur := none, freeAt := c.txEndAt n t + (c.octs n 12 : Nat) }
      let f := t.pkt.bytes ++ List.replicate (60 - t.pkt.bytes.length) 0
      ((c.countSent n (t.total + 4)).copyFate t.pkt true t.status 0).loopback n f t.stamp (!t.preempt)
    else c
  | none, some (st, _) => if st + (c.octs n 72 : Nat) < c.tickEnd then c.ctrlSent n else c
  | none, none => c

def execUplinkFrameTxEnd (n : Fin 4) (s : State) : Result := run (fun c => c.frameSent n.val) s

/-- A host frame runs out of data (R216). -/
def Chip.underrun (c : Chip) (n : Nat) (inst : Int) : Chip :=
  match (c.upl n).cur with
  | some t =>
    if t.early && decide (t.start ≤ inst) && decide (inst < c.txEndAt n t) then
      let c := c.updUpl n fun u => { u with cur := none, freeAt := inst + (c.octs n 16 : Nat) }
      let v := c.fld UPLINK.TX_START_THRESH_BLOCKS n t.cls
      let c := if v < 38 then c.setFld UPLINK.TX_START_THRESH_BLOCKS (v + 1) n t.cls else c
      ((c.bump UPLINK.TX_UNDERRUN_COUNT n).raise EV.UPLINK_TX_UNDERRUN n).copyFate t.pkt false csUNDERRUN 0
    else c
  | none => c

def execTxUnderrun (n : Fin 4) (phi : Fin 2560) (s : State) : Result := run (fun c => c.underrun n.val (c.instAt phi)) s

end Sys2Proof.Machine
end

