-- ==== Sys2Proof/Machine/HankTx.lean ====
section
/-!
DEFINITION. Machine/HankTx.lean: the messages that the Hank block sends (R382, R383, R385, R387, R388, R398): their frames, the
class-7 bucket, retransmission, BIND keepalives and REMOTE_REG requests.
Log entries: DEDUCED 29, 60, 68, 69 (notes/assumptions).
-/
namespace Sys2Proof.Machine

/-- The role codes of Table 02.6. -/
abbrev roleSTANDALONE : Nat := 0
abbrev roleWORKER : Nat := 1
abbrev roleMANAGER : Nat := 2

def Chip.role (c : Chip) : Nat := c.fld GLOBAL.ROLE_ROLE
def Chip.isManager (c : Chip) : Bool := c.role == roleMANAGER
def Chip.isWorker (c : Chip) : Bool := c.role == roleWORKER
def Chip.roleEpoch (c : Chip) : Nat := c.fld GLOBAL.ROLE_EPOCH

/-- The message types of Table 11.5. -/
abbrev hkBIND : Nat := 1
abbrev hkHELLO : Nat := 2
abbrev hkFANOUT : Nat := 3
abbrev hkFANOUTACK : Nat := 4
abbrev hkSHAREDONE : Nat := 5
abbrev hkCANCEL : Nat := 6
abbrev hkREGREQ : Nat := 7
abbrev hkREGRESP : Nat := 8

/-- The states of a worker-table entry (Table 11.18). -/
abbrev wtEMPTY : Nat := 0
abbrev wtBINDING : Nat := 1
abbrev wtBOUND : Nat := 2
abbrev wtABSENT : Nat := 3

def Chip.wtState (c : Chip) (w : Nat) : Nat := c.fld HANK.WT_STATUS_STATE 0 w
def Chip.wtMac (c : Chip) (w : Nat) : Nat := c.fld64 HANK.WT_MAC_LO_ADDR HANK.WT_MAC_HI_ADDR 0 w
def Chip.mgrMac (c : Chip) : Nat := c.fld64 HANK.MGR_MAC_LO_ADDR HANK.MGR_MAC_HI_ADDR

/-- The uplink and the destination of a message for worker `w`, or for the manager when `w` is 0 (R382, R388). -/
def Chip.hankUplink (c : Chip) (w : Nat) : Nat :=
  if w = 0 then c.fld HANK.BIND_STATUS_MGR_UPLINK else c.fld HANK.WT_CFG_UPLINK 0 w
def Chip.hankDst (c : Chip) (w : Nat) : Nat := if w = 0 then c.mgrMac else c.wtMac w

/-- The header of Table 11.4 under the role and epoch in force, and the body. -/
def Chip.hankOctets (c : Chip) (typ w seq cmdId : Nat) (last : Bool) (body : List Byte) : List Byte :=
  let target := if w = 0 then roleMANAGER else roleWORKER
  let me := if w = 0 then c.fld HANK.BIND_STATUS_MY_ID else 0
  let epoch := if w = 0 then c.fld HANK.BIND_STATUS_MGR_EPOCH else c.fld HANK.WT_STATUS_EPOCH 0 w
  beBytes 1 (0x10 + typ) ++ beBytes 1 (if last then 0x80 else 0) ++ beBytes 1 (c.role * 64 + target * 16) ++ beBytes 1 me ++
    beBytes 1 w ++ beBytes 1 0 ++ beBytes 2 c.roleEpoch ++ beBytes 2 epoch ++ beBytes 2 seq ++ beBytes 4 cmdId ++
    beBytes 2 body.length ++ beBytes 2 0 ++ body

/-- The tag control information of a message built now, none where frames go untagged. A message keeps what it was built with, so
that a frame sent again is as long as the first (R382, R383). -/
def Chip.hankVlan (c : Chip) : Option Nat :=
  if c.on HANK.TX_CFG_VLAN_EN then some (c.fld HANK.TX_CFG_PCP * 8192 + c.fld HANK.TX_CFG_VID) else none

/-- The frame that carries a message on uplink `n` (R382); it ends without its FCS. -/
def Chip.hankFrame (c : Chip) (n dst : Nat) (vlan : Option Nat) (octets : List Byte) : List Byte :=
  let tag := match vlan with | some v => beBytes 2 0x8100 ++ beBytes 2 v | none => []
  let src := c.fld64 UPLINK.MAC_LO_ADDR UPLINK.MAC_HI_ADDR n
  let f := beBytes 6 dst ++ beBytes 6 src ++ tag ++ beBytes 2 0x88B6 ++ octets
  f ++ List.replicate (60 - f.length) 0

/-- A Hank frame enters the class queue of its uplink (R27, R267, R273). -/
def Chip.reelPost (c : Chip) (n : Nat) (p : Packet) : Chip :=
  if c.ulUp n ∨ c.on REELGATE.GATE_CTRL_DOWN_POLICY n then c.setQueue n p.cls (c.queue n p.cls ++ [p]) else c.flushDrop n p

/-- What the class-7 bucket lacks of being full now (R388). -/
def Chip.bucketSpent (c : Chip) : Nat := c.hank.spent - c.fld HANK.C7_RES_CIR * c.since c.hank.spentAt

/-- The bucket holds a packet. -/
def Chip.bucketFits (c : Chip) : Bool :=
  decide (c.bucketSpent + secQ ≤ max 1 (c.fld HANK.C7_RES_CBS) * secQ)

def Chip.bucketTake (c : Chip) : Chip :=
  c.updHank fun h => { h with spent := c.bucketSpent + secQ, spentAt := c.now }

/-- The frame of message `id` goes toward the Reel; in class 7 it may wait for the bucket. -/
def Chip.hankPost (c : Chip) (id n dst : Nat) (octets : List Byte) : Chip :=
  let cls := c.fld HANK.TX_CFG_CLASS
  let p : Packet := { id := c.buffer.nextId, ingress := portHank, bytes := c.hankFrame n dst ((c.msg id).bind (·.vlan)) octets, since := c.now,
                      preclass := cls, cls := cls, out := n, hank := some id }
  let c := { c with buffer := { c.buffer with nextId := c.buffer.nextId + 1 } }
  if cls ≠ 7 then c.reelPost n p
  else if c.hank.held == [] && c.bucketFits then c.bucketTake.reelPost n p
  else ((c.updHank fun h => { h with held := h.held ++ [(n, p)] }).bump HANK.C7_THROTTLED_COUNT).raise EV.HANK_C7_THROTTLED

/-- A delayed frame is released. -/
def Chip.bucketRelease (c : Chip) : Chip :=
  match c.hank.held with
  | (n, p) :: r => (c.updHank fun h => { h with held := r }).bucketTake.reelPost n p
  | [] => c

def execHankBucketRelease (s : State) : Result :=
  run (fun c => c.whenDue (c.dom .core == domON && c.hank.held != [] && c.bucketFits) Chip.bucketRelease) s

/-- A message is built and sent for the first time. -/
def Chip.hankSend (c : Chip) (m : HankMsg) : Chip :=
  let id := c.hank.nextId
  ((c.updHank fun h => { h with nextId := id + 1 }).setMsg id (some { m with vlan := c.hankVlan })).hankPost id (c.hankUplink m.worker) (c.hankDst m.worker)
    m.octets

/-- The next SEQ of worker `w` (R385). -/
def Chip.nextSeq (c : Chip) (w : Nat) : Nat := Tab.get 0 c.hank.seqs w

/-- The manager numbers a message for worker `w` and sends it. -/
def Chip.toWorker (c : Chip) (typ w cmdId : Nat) (last : Bool) (body : List Byte) (share : Nat) (tag : Option Nat)
    (count : Nat) : Chip :=
  let seq := c.nextSeq w
  let m : HankMsg := { typ := typ, worker := w, seq := seq, octets := c.hankOctets typ w seq cmdId last body, share := share,
                       tag := tag, count := count, acks := typ != hkBIND }
  (c.updHank fun h => { h with seqs := Tab.put 0 h.seqs w ((seq + 1) % 65536) }).hankSend m

/-- A worker's message to its manager. -/
def Chip.toManager (c : Chip) (typ seq cmdId : Nat) (body : List Byte) : Chip :=
  c.hankSend { typ := typ, worker := 0, seq := seq, octets := c.hankOctets typ 0 seq cmdId false body }

/-- A worker's message whose SEQ the spec does not give carries a free one. -/
def Chip.toManagerFree (c : Chip) (typ cmdId : Nat) (body : List Byte) : Chip :=
  c.drawn.toManager typ (c.freeVal % 65536) cmdId body

/-! ### BIND (R387) -/

def Chip.sendBind (c : Chip) (w : Nat) : Chip :=
  (c.updHank fun h => { h with bindAt := Tab.put 0 h.bindAt w c.now }).toWorker hkBIND w 0 false
    (beBytes 1 w ++ beBytes 3 0) 0 none 0

/-- A keepalive for worker `w` is due, or its entry has had no BIND yet. -/
def Chip.bindDue (c : Chip) (w : Nat) : Bool :=
  c.isManager && c.on GLOBAL.ROLE_SETTLED && c.dom .core == domON && decide (1 ≤ w) && c.on HANK.WT_CFG_VALID 0 w &&
    (Tab.get 0 c.hank.bindAt w == 0 ||
      decide (Tab.get 0 c.hank.bindAt w + max 1 (c.fld HANK.TIMERS_KEEPALIVE_MS) * msQ ≤ c.now))

def execBindKeepalive (w : Fin 256) (s : State) : Result := run (fun c => c.whenDue (c.bindDue w.val) fun d => d.sendBind w.val) s

def Chip.setWtState (c : Chip) (w v : Nat) : Chip := c.setFld HANK.WT_STATUS_STATE v 0 w

/-- An entry begins to wait for a HELLO. -/
def Chip.wtBind (c : Chip) (w : Nat) : Chip :=
  (c.updHank fun h => { h with helloAt := Tab.put 0 h.helloAt w c.now, bindAt := Tab.put 0 h.bindAt w 0 }).setWtState w wtBINDING

/-- The part has entered the MANAGER role: every entry is back in BINDING or EMPTY (R387). -/
def Chip.wtRestart (c : Chip) : Chip :=
  ((List.range 256).drop 1).foldl (fun d w => if d.on HANK.WT_CFG_VALID 0 w then d.wtBind w else d.setWtState w wtEMPTY) c

/-- An entry without HELLO for PEER_TIMEOUT_MS. -/
def Chip.absentDue (c : Chip) (w : Nat) : Bool :=
  let ms := max (c.fld HANK.TIMEOUTS_PEER_TIMEOUT_MS) (2 * max 1 (c.fld HANK.TIMERS_KEEPALIVE_MS))
  c.isManager && (c.wtState w == wtBINDING || c.wtState w == wtBOUND) &&
    decide (Tab.get 0 c.hank.helloAt w + ms * msQ ≤ c.now)

def execWorkerAbsent (w : Fin 256) (s : State) : Result :=
  run (fun c => c.whenDue (c.absentDue w.val) fun d => (d.setWtState w.val wtABSENT).raise EV.HANK_WORKER_ABSENT) s

/-- A write of WT_CFG for the selected entry (R387, R402): UPLINK stands while VALID = 1, and every write of it then counts. -/
def Chip.wtCfgWrite (c : Chip) (p : Port) (v : Nat) : Chip :=
  let w := max 1 (c.fld HANK.WT_SEL_WORKER)
  let valid := bitsOf v 0 0 = 1
  let up := bitsOf v 5 4
  if c.on HANK.WT_CFG_VALID 0 w then
    let c := c.refuse HANK.WT_CFG_UPLINK p
    if valid then c else (c.setFld HANK.WT_CFG_VALID 0 0 w).setWtState w wtEMPTY
  else
    let c := c.setFld HANK.WT_CFG_UPLINK up 0 w
    if !valid then c
    else
      let c := c.setFld HANK.WT_CFG_VALID 1 0 w
      if c.isManager then
        let c := c.wtBind w
        if c.bindDue w then c.sendBind w else c
      else c

def execWtValidWrite (port : Port) (value : Word) (s : State) : Result :=
  run (fun c => c.accessField port HANK.WT_CFG_VALID 0 fun d => d.wtCfgWrite port value.toNat) s

/-! ### The binding of a worker (R386) -/

/-- MGR_VALID becomes 0. -/
def Chip.unbind (c : Chip) : Chip :=
  if c.on HANK.BIND_STATUS_MGR_VALID then (c.setFld HANK.BIND_STATUS_MGR_VALID 0).raise EV.HANK_UNBOUND else c

/-- No message from the manager has passed check 5 for MGR_TIMEOUT_MS. -/
def Chip.mgrTimeoutDue (c : Chip) : Bool :=
  let ms := c.fld HANK.TIMEOUTS_MGR_TIMEOUT_MS
  c.on HANK.BIND_STATUS_MGR_VALID && ms != 0 && decide (c.hank.lastMgr + ms * msQ ≤ c.now)

def execMgrTimeout (s : State) : Result := run (fun c => c.whenDue c.mgrTimeoutDue Chip.unbind) s

/-- A write of BIND_STATUS (R386, R402): the other fields stand while MGR_VALID = 1, and every write then counts. -/
def Chip.bindStatusWrite (c : Chip) (p : Port) (v : Nat) : Chip :=
  let rows := [HANK.BIND_STATUS_MGR_UPLINK, HANK.BIND_STATUS_MY_ID, HANK.BIND_STATUS_MGR_EPOCH]
  if c.on HANK.BIND_STATUS_MGR_VALID then
    let c := c.refuse HANK.BIND_STATUS_MGR_VALID p
    if bitsOf v 0 0 = 0 then c.unbind else c
  else
    let c := rows.foldl (fun d r => d.setFld r (bitsOf v r.hi r.lo)) c
    if bitsOf v 0 0 = 1 then (c.setFld HANK.BIND_STATUS_MGR_VALID 1).updHank fun h => { h with lastMgr := c.now } else c

def execMgrUnbind (port : Port) (value : Word) (s : State) : Result :=
  run (fun c => c.accessField port HANK.BIND_STATUS_MGR_VALID 0 fun d => d.bindStatusWrite port value.toNat) s

/-! ### REMOTE_REG requests (R385, R398) -/

/-- A REG_REQ to worker `w` awaits its answer. -/
def Chip.regBusy (c : Chip) (w : Nat) : Bool :=
  c.hank.msgs.any fun e => match e.2 with | some m => m.typ == hkREGREQ && !m.closing && m.worker == w | none => false

/-- The body of a REG_REQ for the entry words of a REMOTE_REG (Table 11.14). -/
def regReqBody (w : List Nat) : List Byte :=
  let w1 := w.getD 1 0
  let n := bitsOf w1 14 12
  beBytes 1 (bitsOf w1 8 8) ++ beBytes 1 n ++ beBytes 2 0 ++
    (List.range n).flatMap fun k => beBytes 4 (w.getD (2 + 2 * k) 0) ++ beBytes 4 (w.getD (3 + 2 * k) 0)

/-- The oldest waiting REMOTE_REG of worker `w` is sent, unless one is outstanding (R385). -/
def Chip.regNext (c : Chip) (w : Nat) : Chip :=
  if c.regBusy w then c
  else match Tab.get [] c.hank.regQ w with
    | t :: r =>
      (c.updHank fun h => { h with regQ := Tab.put [] h.regQ w r }).toWorker hkREGREQ w 0 false (regReqBody (c.op t).words) 0
        (some t) 0
    | [] => c

/-- The Hank block accepts a REMOTE_REG (R351, R379, R398). -/
def Chip.regAccept (c : Chip) (t : Nat) : Chip :=
  let w := bitsOf ((c.op t).words.getD 1 0) 7 0
  let c := c.updOp t fun o => { o with handed := true }
  if !c.isManager then c.opDone t csNOTMANAGER
  else if c.wtState w ≠ wtBOUND then c.opDone t csRRNOWORKER
  else (c.updHank fun h => { h with regQ := Tab.upd [] h.regQ w fun l => l ++ [t] }).regNext w

/-- A REMOTE_REG ends; the next one for its worker goes out. -/
def Chip.regEnd (c : Chip) (t w status : Nat) : Chip :=
  (if c.opLive t then (if (c.op t).aborted ∧ status ≠ csOK then c.opPartial t else c.opDone t status) else c).regNext w

/-! ### Retransmission (R385) -/

/-- The message for worker `w` with SEQ `seq` that awaits an answer. -/
def Chip.awaiting (c : Chip) (w seq : Nat) : Option (Nat × HankMsg) :=
  c.hank.msgs.findSome? fun e => match e.2 with
    | some m => if m.acks && !m.closing && m.worker == w && m.seq == seq then some (e.1, m) else none
    | none => none

/-- The header with RETRY = 1. -/
def withRetry (o : List Byte) : List Byte := o.take 1 ++ [(o.getD 1 0) ||| 0x40] ++ o.drop 2

/-- No answer came in time: the message is sent again, or given up. -/
def Chip.ackTimeout (c : Chip) (id : Nat) (m : HankMsg) : Chip :=
  if m.tries < c.fld HANK.TIMERS_RETRIES then
    let o := withRetry m.octets
    (((c.setMsg id (some { m with tries := m.tries + 1, left := none })).bump HANK.RETRANSMITS_COUNT).raise
      EV.HANK_RETRANSMIT).hankPost id (c.hankUplink m.worker) (c.hankDst m.worker) o
  else
    let c := ((c.setMsg id none).bump HANK.GIVE_UPS_COUNT).raise EV.HANK_GIVE_UP
    match m.tag with
    | some t => if m.typ = hkREGREQ then c.regEnd t m.worker csRRTIMEOUT else c
    | none => c

/-- Its last frame left ACK_TIMEOUT_US ago. -/
def Chip.ackDue (c : Chip) (m : HankMsg) : Bool :=
  match m.left with
  | some t => decide (t + max 1 (c.fld HANK.TIMERS_ACK_TIMEOUT_US) * usQ ≤ c.now)
  | none => false

def Chip.ackJudge (c : Chip) (w seq : Nat) : Chip :=
  match c.awaiting w seq with
  | some (id, m) => if c.ackDue m then c.ackTimeout id m else c
  | none => c

def execHankAckTimeout (w : Fin 256) (seq : BitVec 16) (s : State) : Result :=
  run (fun c => c.whenDue (c.dom .core == domON) fun d => d.ackJudge w.val seq.toNat) s

end Sys2Proof.Machine
end

