-- ==== Sys2Proof/Machine/Skein.lean ====
section
/-!
DEFINITION. Machine/Skein.lean: the Skein engines as senders (chapter 04): states, cycles, the turn table and its switch,
beacons, device turns, the contention turn and plain CSMA/CD.
Log entries: DEDUCED 41, 43, 44, 45, 46, 48, 86; DESIGN CHOICE 84, 95 (notes/assumptions).
-/
namespace Sys2Proof.Machine

/-! ### State changes (R155, R156) -/

/-- STATE and ACTIVE set; a change of either raises SYNC_CHANGE. -/
def Chip.setSync (c : Chip) (n st : Nat) (active : Bool) : Chip :=
  let changed := c.seg n != st || c.on SEGMENT.SYNC_STATUS_ACTIVE n != active
  let c := (c.setFld SEGMENT.SYNC_STATUS_STATE st n).setBit SEGMENT.SYNC_STATUS_ACTIVE active n
  if changed then c.raise EV.SEGMENT_SYNC_CHANGE n else c

/-- The length of the listen timer in ns (R157). -/
def Chip.listenSpan (c : Chip) (n : Nat) : Nat :=
  2 * max (min (c.fld SEGMENT.CS_CFG_MAX_CYCLE_US n) 100000 * 1000) (c.fld SEGMENT.OPER_CYCLE_LEN_NS n) +
    c.fld SEGMENT.NODE_CFG_NODE_ID n * 10000

/-- The listen timer starts anew. -/
def Chip.startListenTimer (c : Chip) (n : Nat) : Chip :=
  c.updEng n fun e => { e with listenEnd := some (c.now + c.listenSpan n * nsQ) }

/-- No cycle is held any more. -/
def Chip.dropCycle (c : Chip) (n : Nat) : Chip :=
  (c.updEng n fun e => { e with anchored := false, opened := false, turnsOpen := false, missRun := 0, lastMiss := none,
                                starts := [], ext := false, extFrom := none, takeover := false, listenEnd := none, backoffEnd := none }).setFld
    SEGMENT.SYNC_STATUS_CYCLE_VALID 0 n

/-- The engine enters LISTEN and its listen timer starts. -/
def Chip.enterListen (c : Chip) (n : Nat) : Chip :=
  let c := (c.dropCycle n).setFld SEGMENT.CS_STATUS_TRIAL_LEFT 0 n
  (c.setSync n sgLISTEN false).startListenTimer n

/-- The frame on the line ends at `t` at the latest (R156). -/
def Chip.endFrameAt (c : Chip) (n t : Nat) : Chip :=
  (c.updFly n fun f => { f with tx := f.tx.map fun x => { x with endAt := min x.endAt t } }).updEng n fun e =>
    { e with txEnd := min e.txEnd t }

/-- A collision: the frame on the line ends with a jam of 3,200 ns, which is part of the transmission even where it runs past the
frame's own end (R151, R158, R183, R217). -/
def Chip.jam (c : Chip) (n : Nat) : Chip :=
  let stop := c.now + 3200 * nsQ
  (c.updFly n fun f => { f with tx := f.tx.map fun x => if c.now ≤ x.endAt then { x with endAt := stop } else x }).updEng n fun e =>
    { e with txEnd := stop }

/-- The engine becomes DISABLED: the frame in progress ends and JOINED is cleared everywhere (R156, R166). -/
def Chip.segDisable (c : Chip) (n : Nat) : Chip :=
  if c.seg n = sgDISABLED then c
  else
    let c := (c.endFrameAt n c.now).dropCycle n
    let c := c.updEng n fun e => { e with lastTx := none, csma := none }
    let c := (List.range 64).foldl (fun d t => d.setFld SEGMENT.TURN_STAT_JOINED 0 n t) c
    (c.setFld SEGMENT.CS_STATUS_TRIAL_LEFT 0 n).setSync n sgDISABLED false

/-- A command payload that no DEV_QUEUE turn of the oper table can hold, or that a plain segment gets (R148, R167). -/
def Chip.unholdable (c : Chip) (n : Nat) (p : CmdPayload) : Bool :=
  c.seg n == sgPLAIN || !(List.range 64).any fun t => (c.oper n t).kind == 3 && decide (p.bytes.length ≤ (c.oper n t).maxPay)

/-- The command payloads that cannot be held leave the queue, counted in TX_DROP (R148, R167). -/
def Chip.dropUnheld (c : Chip) (n : Nat) : Chip :=
  let q := (c.eng n).cmdq
  if q.any (c.unholdable n) then
    ((q.filter (c.unholdable n)).foldl (fun d p => d.dropPayload n p) c).setCmdq n (q.filter fun p => !c.unholdable n p)
  else c

/-- The PHY of an enabled segment is ready (R156). -/
def Chip.phyReady (c : Chip) (n : Nat) : Chip :=
  if c.on SEGMENT.CFG_PLAIN n then (c.setSync n sgPLAIN false).dropUnheld n else c.enterListen n

def Chip.segEnabled (c : Chip) (n : Nat) : Bool := c.hdr HDR.CTRL_EN (PageCls.segment.base + n) != 0 && c.dom .seg == domON

def execSegmentPhyReady (n : Fin 96) (s : State) : Result :=
  run (fun c => c.whenDue (c.segEnabled n.val && c.seg n.val == sgDISABLED) fun d => d.phyReady n.val) s

/-! ### Partner turns (R153) -/

/-- A partner turn ended without an accepted frame, or its cycle had no beacon. -/
def Chip.turnStale (c : Chip) (n t : Nat) : Chip :=
  let run := (c.turnRec n t).run + 1
  let c := (c.updTurn n t fun r => { r with run := run }).setFld SEGMENT.TURN_STAT_STALE 1 n t
  let c := c.bump SEGMENT.TURN_STAT_AGE n t
  let c := if run = max 1 (c.fld SEGMENT.SYNC_CFG_STALE_LIMIT n) then c.raise EV.SEGMENT_PARTNER_CHANGE n else c
  if run = c.fld SEGMENT.SYNC_CFG_ABSENT_LIMIT n then
    ((c.setFld SEGMENT.TURN_STAT_ABSENT 1 n t).setFld SEGMENT.TURN_STAT_JOINED 0 n t).raise EV.SEGMENT_PARTNER_CHANGE n
  else c

/-- The engine holds a cycle (R154). -/
def Chip.holdsCycle (c : Chip) (n : Nat) : Bool :=
  c.seg n == sgMASTER || c.seg n == sgFOLLOWER || (c.seg n == sgFOLLOWWAIT && (c.eng n).anchored)

/-- The end of turn `t` of the cycle in progress, in monotonic time. -/
def Chip.turnEndAt (c : Chip) (n t : Nat) : Nat :=
  (c.eng n).cycleStart + ((c.oper n t).offset + (c.oper n t).len) * nsQ

/-- Partner turn `t` of the cycle in progress has ended and its end has not been judged. -/
def Chip.turnEndDue (c : Chip) (n t : Nat) : Bool :=
  c.holdsCycle n && decide (0 < t ∧ t < 64) && (c.oper n t).isPartner && !(c.eng n).ended.contains t &&
    decide (c.turnEndAt n t ≤ c.now)

/-- The end of a partner turn. -/
def Chip.turnEnd (c : Chip) (n t : Nat) : Chip :=
  let ok := (c.eng n).accepted.contains t
  let c := c.updEng n fun e => { e with ended := t :: e.ended }
  if ok then c else c.turnStale n t

def execPartnerTurnEnd (n : Fin 96) (turn : Fin 64) (s : State) : Result :=
  run (fun c => c.whenDue (c.turnEndDue n.val turn.val) fun d => d.turnEnd n.val turn.val) s

/-- Every partner turn whose end has passed is judged before the cycle is left. -/
def Chip.closeTurns (c : Chip) (n : Nat) : Chip :=
  (c.partnerTurns n).foldl (fun d t => d.whenDue (d.turnEndDue n t) fun d => d.turnEnd n t) c

/-- The reach of SEG_OFFSET, in 2^-32 ns. -/
abbrev segOffsetReach : Nat := 2 ^ 31 * nsQ

/-- The engine had predicted a cycle start at `start`: as master its own grid did, unless an idle extension came between; else the
cycle before it did, within GUARD (R121). -/
def Chip.wasPredicted (c : Chip) (n start : Nat) : Bool :=
  let e := c.eng n
  if c.seg n = sgMASTER ∧ ¬ e.takeover then !e.ext
  else e.anchored && decide (((start : Int) - e.predicted).natAbs ≤ c.segGuard n * nsQ)

/-- A cycle starts at monotonic time `start`; `valid` says that its beacon was sent or accepted. -/
def Chip.openCycle (c : Chip) (n start len : Nat) (valid : Bool) : Chip :=
  let c := c.closeTurns n
  let known := c.wasPredicted n start
  let since := if c.on SEGMENT.SYNC_STATUS_CYCLE_VALID n then (c.eng n).validFrom else c.now
  let c := c.updEng n fun e =>
    { e with starts := (if known && valid then [(start, e.cycleStart)] else []) ++ e.starts.filter (fun x => decide (c.now ≤ x.1 + segOffsetReach)),
             validFrom := since, prevStart := e.cycleStart, cycleStart := start, cycleLen := len, predicted := start + len * nsQ,
             turnsOpen := valid, seen := [], accepted := [], ended := [], latched := [], ackDone := false,
             contSkip := false, ext := false, extFrom := none, anchored := true }
  (c.setBit SEGMENT.SYNC_STATUS_CYCLE_VALID valid n).bumpWrap SEGMENT.CYCLES_COUNT n

/-! ### The grid (R129) -/

/-- The first grid point at or after network time `t`. -/
def gridFrom (t : Int) (lenNs phaseNs : Nat) : Int :=
  let l : Int := (lenNs * nsQ : Nat)
  let p : Int := (phaseNs * nsQ : Nat)
  p + (t - p + l - 1) / l * l

/-- The first point of the grid in force at or after `t`. -/
def Chip.grid (c : Chip) (n : Nat) (t : Int) : Int :=
  gridFrom t (c.fld SEGMENT.OPER_CYCLE_LEN_NS n) (c.fld SEGMENT.OPER_PHASE_NS n)

/-- The end of the cycle in progress, in monotonic time: a master's contention turn runs up to the next grid point (R117). -/
def Chip.cycleEnd (c : Chip) (n : Nat) : Nat :=
  let e := c.eng n
  if c.seg n = sgMASTER ∧ ¬ e.ext then (c.now + (e.nextGrid - c.net)).toNat else e.cycleStart + e.cycleLen * nsQ

/-- After a step the cycle in progress is finished; the next one starts at the first grid point, in the new network time, at
or after its end (R117, R162). In TRIAL before its first grid point no cycle is in progress, and the next grid point is the first. -/
def Chip.skeinStep (c : Chip) (n : Nat) : Chip :=
  let e := c.eng n
  if c.seg n = sgMASTER ∧ e.takeover then c.setEng n { e with nextGrid := e.predicted + c.whorl.offset }
  else if c.seg n = sgTRIAL ∧ c.fld SEGMENT.CS_STATUS_TRIAL_LEFT n = 3 then
    c.setEng n { e with nextGrid := c.grid n c.net, ext := false, extFrom := none }
  else if c.seg n = sgMASTER ∨ c.seg n = sgTRIAL then
    let stop : Int := (e.cycleStart + e.cycleLen * nsQ : Nat) + c.whorl.offset
    let g := c.grid n (max stop c.net)
    c.setEng n { e with nextGrid := g, ext := decide (stop < g),
                        extFrom := (if stop < g then some (e.cycleStart + e.cycleLen * nsQ) else none) }
  else c

/-- An idle extension is running: the cycle before it has ended, and no beacon has followed (R117, R162, Table 04.16). -/
def Chip.extRunning (c : Chip) (n : Nat) : Bool :=
  match (c.eng n).extFrom with
  | some t => decide (t ≤ c.now)
  | none => false

/-- Every engine follows a step. -/
def Chip.skeinStepAll (c : Chip) : Chip := (List.range 96).foldl Chip.skeinStep c

/-! ### The turn table: commit and switch (R138 to R141) -/

/-- A cycle length keeps R129. -/
def cycleLenOk (l : Nat) : Bool := decide (250000 ≤ l) && decide (l ≤ 100000000) && 1000000000 % l == 0

/-- The used turns of the admin table, turn 0 among them. -/
def Chip.adminUsed (c : Chip) (n : Nat) : List Nat := (List.range 64).filter fun t => t == 0 || (c.turn n 0 t).kind != 0

/-- The starts and ends of turns, in order of their numbers, do not overlap, and none ends after `last`. -/
def inOrder : List (Nat × Nat) → Nat → Nat → Bool
  | [], e, last => decide (e ≤ last)
  | (o, l) :: r, e, last => decide (e ≤ o) && inOrder r (max e (o + l)) last

/-- The least length of a static turn, and of turn 0 (R132). -/
def Chip.turnNeed (c : Chip) (n t : Nat) : Nat :=
  let e := c.turn n 0 t
  let pay := airtime (skeinOctets e.maxPay) + 9600
  let g := 2 * c.segGuard n
  if t = 0 then airtime 64 + 9600 + g + (if e.isDev then pay else 0) else pay + g

/-- The blocks of a turn's banks (R140). -/
def Turn.bankCount (t : Turn) : Nat := if t.isDev then 3 else if t.isPartner then 2 else 0
def Turn.span (t : Turn) : Nat × Nat := (t.base, t.base + t.bankCount * t.blocks)

/-- No two of the block ranges overlap. -/
def disjointSpans : List (Nat × Nat) → Bool
  | [] => true
  | (a, b) :: r => r.all (fun (x, y) => decide (b ≤ x) || decide (y ≤ a)) && disjointSpans r

/-- A used turn's buffers and fields keep check 5 of Table 04.8. Turn 0 of kind NONE is a used turn without banks, and the check exempts it
(DESIGN CHOICE, assumption log, entry 95). -/
def Turn.bufferOk (t : Turn) : Bool :=
  decide (t.kind ≤ 3) &&
    (t.bankCount == 0 ||
      (decide (t.maxPay ≤ 1492) && decide (1 ≤ t.blocks ∧ t.blocks ≤ 12) && decide (t.span.2 ≤ 256) &&
        decide (t.maxPay + 32 ≤ 128 * t.blocks)))

/-- The first check of Table 04.8 that the admin table fails, 0 when it passes them all. -/
def Chip.adminCause (c : Chip) (n : Nat) : Nat :=
  let len := c.fld SEGMENT.ADMIN_CYCLE_LEN_NS n
  let used := c.adminUsed n
  let node := c.fld SEGMENT.NODE_CFG_NODE_ID n
  let cont := (c.turn n 0 64).offset
  if !cycleLenOk len || decide (len ≤ c.fld SEGMENT.ADMIN_PHASE_NS n) then 1
  else if (c.turn n 0 0).offset != 0 || !inOrder (used.map fun t => ((c.turn n 0 t).offset, (c.turn n 0 t).len)) 0 cont then 2
  else if used.any fun t => decide ((c.turn n 0 t).len < c.turnNeed n t) then 3
  else if decide (2000 * len < 2000 * cont + 320000000 + len) then 4
  else if used.any (fun t => !(c.turn n 0 t).bufferOk) ||
      !disjointSpans ((used.map fun t => c.turn n 0 t).filter (fun e => e.bankCount != 0) |>.map Turn.span) then 5
  else if (c.turn n 0 0).isPartner || (used.filter (· != 0)).any (fun t =>
      ((c.turn n 0 t).isDev && (c.turn n 0 t).owner != node) || ((c.turn n 0 t).isPartner && (c.turn n 0 t).owner == node)) then 6
  else if !c.flyHas n (c.fld SEGMENT.ADMIN_TABLE_ID_ID n) then 7
  else 0

/-- A start of a cycle of the old grid within 1 s that also lies on the new grid (R139). -/
def Chip.commonPoint (c : Chip) (n : Nat) : Bool :=
  let l := c.fld SEGMENT.OPER_CYCLE_LEN_NS n
  (List.range 4001).any fun k =>
    let g := (c.eng n).nextGrid + (k * l * nsQ : Nat)
    decide (g ≤ c.net + (secQ : Int)) &&
      gridFrom g (c.fld SEGMENT.ADMIN_CYCLE_LEN_NS n) (c.fld SEGMENT.ADMIN_PHASE_NS n) == g

/-- A write of TT_CMD (R138). -/
def Chip.ttCommit (c : Chip) (n : Nat) (p : Port) (v : Nat) : Chip :=
  if bitsOf v 31 16 ≠ 0x5454 ∨ (bitsOf v 0 0 = 1 ∧ c.fld SEGMENT.TT_STATUS_STATE n = 1) then c.refuse SEGMENT.TT_CMD_COMMIT p n
  else if bitsOf v 0 0 = 1 then
    let cause := c.adminCause n
    let c := c.setFld SEGMENT.TT_STATUS_CAUSE cause n
    if cause = 0 then
      (c.setFld SEGMENT.TT_STATUS_STATE 1 n).updEng n fun e => { e with switchEnd := !c.commonPoint n }
    else (c.setFld SEGMENT.TT_STATUS_STATE 3 n).raise EV.SEGMENT_TABLE_SWITCH n
  else c

def execTtCommit (port : Port) (n : Fin 96) (value : Word) (s : State) : Result :=
  run (fun c => c.accessField port SEGMENT.TT_CMD_COMMIT n.val fun d => d.ttCommit n.val port value.toNat) s

/-- The fields that a turn must keep to keep its banks and state (R141). -/
def Turn.key (t : Turn) : Nat × Nat × Nat × Nat × Nat := (t.kind, t.owner, t.base, t.blocks, t.maxPay)

/-- What a switch does to one turn: `old` is its entry before (R141). -/
def Chip.turnChanged (c : Chip) (n t : Nat) (old : Turn) : Chip :=
  let new := c.oper n t
  if old.key = new.key then c
  else
    let c := if c.on SEGMENT.TURN_STAT_PUB_PENDING n t then
      (c.setFld SEGMENT.TURN_STAT_PUB_PENDING 0 n t).bump SEGMENT.OVERWRITE_COUNT n else c
    let c := c.setFld SEGMENT.TURN_STAT_SAFE_VALID 0 n t
    let c := c.updTurn n t fun r => { r with mac := 0, ever := false, lastType := ftSTATE, lastDst := macBroadcast,
                                             lost := false, fromReel := false }
    let c := if new.isDev then c.setFld SEGMENT.TURN_STAT_AGE 255 n t else c
    if new.isPartner then (c.setFld SEGMENT.TURN_STAT_STALE 1 n t).setFld SEGMENT.TURN_STAT_JOINED 0 n t else c

/-- The monotonic instant of the next grid point (R117, R129). -/
def Chip.gridInstant (c : Chip) (n : Nat) : Nat := ((c.eng n).nextGrid - c.whorl.offset).toNat

/-- The grid of the new table. A master switches at the end of a cycle: nobody sends before its next beacon, which comes after an
idle extension where the new grid's first point lies later (R139, R162). The cycle that an idle extension replaces ages no partner turn
of the master, and those of a follower where the follower counted the missed beacon before the EXT beacon came (R153; DESIGN CHOICE,
assumption log, entry 95). -/
def Chip.switchGrid (c : Chip) (n : Nat) : Chip :=
  let e := c.eng n
  let g := c.grid n e.nextGrid
  let late := decide (e.nextGrid < g)
  if c.seg n = sgMASTER then
    c.setEng n { e with nextGrid := g, ext := e.ext || late, switchEnd := false, turnsOpen := false, ended := List.range 64,
                        extFrom := (if late ∧ e.extFrom = none then some (c.gridInstant n) else e.extFrom) }
  else if c.seg n = sgTRIAL ∨ c.seg n = sgCONTEND then
    c.setEng n { e with nextGrid := g, ext := e.ext || (late && c.seg n == sgTRIAL), switchEnd := false }
  else c.setEng n { e with switchEnd := false }

/-- The oper table takes the admin contents (R139, R141). -/
def Chip.ttSwitch (c : Chip) (n : Nat) : Chip :=
  let c := if c.seg n = sgMASTER then c.closeTurns n else c
  let old := (List.range 64).map fun t => (t, c.oper n t)
  let c := (List.range 65).foldl (fun d t =>
    (List.range 4).foldl (fun d w => d.setTurnW n 1 t w (d.turnW n 0 t w)) d) c
  let c := old.foldl (fun d (t, o) => d.turnChanged n t o) c
  let c := c.setFld SEGMENT.OPER_CYCLE_LEN_NS (c.fld SEGMENT.ADMIN_CYCLE_LEN_NS n) n
  let c := c.setFld SEGMENT.OPER_PHASE_NS (c.fld SEGMENT.ADMIN_PHASE_NS n) n
  let c := c.setFld SEGMENT.TT_STATUS_OPER_TABLE_ID (c.fld SEGMENT.ADMIN_TABLE_ID_ID n) n
  (((c.setFld SEGMENT.TT_STATUS_STATE 2 n).raise EV.SEGMENT_TABLE_SWITCH n).dropUnheld n).switchGrid n

/-- The switch point of a pending commit has come (R139). -/
def Chip.ttSwitchDue (c : Chip) (n : Nat) : Bool :=
  c.fld SEGMENT.TT_STATUS_STATE n == 1 &&
    (c.seg n != sgMASTER ||
      (decide ((c.eng n).nextGrid ≤ c.net) &&
        ((c.eng n).switchEnd ||
          gridFrom (c.eng n).nextGrid (c.fld SEGMENT.ADMIN_CYCLE_LEN_NS n) (c.fld SEGMENT.ADMIN_PHASE_NS n) ==
            (c.eng n).nextGrid)))

def execTtSwitch (n : Fin 96) (s : State) : Result :=
  run (fun c => c.whenDue (c.ttSwitchDue n.val) fun d => d.ttSwitch n.val) s

/-! ### Cold start and beacons (R156 to R160) -/

/-- The earliest start of a CSMA/CD frame: one inter-frame gap after carrier goes, and after the engine's own last frame; `free` is
the instant at which carrier goes or went, none where there was none for a gap (R158, R217, R218). -/
def Chip.lineFree (c : Chip) (n : Nat) (free : Option (BitVec 96)) : Nat :=
  let e := c.eng n
  let own := if e.txEnd = 0 then 0 else e.txEnd + 9600 * nsQ
  match free with
  | some t => max own (t.toNat + 9600 * nsQ)
  | none => own

/-- There is carrier now, so that a CSMA/CD frame defers. -/
def Chip.carrierNow (c : Chip) (free : Option (BitVec 96)) : Bool :=
  match free with
  | some t => decide (c.now < t.toNat)
  | none => false

/-- MAC_DEFERRED counts a COLDSTART that defers to carrier, once (R221). -/
def Chip.countDeferred (c : Chip) (n : Nat) (free : Option (BitVec 96)) : Chip :=
  if c.carrierNow free && !(c.eng n).coldDeferred then
    (c.updEng n fun e => { e with coldDeferred := true }).bump SEGMENT.MAC_DEFERRED_COUNT n
  else c

/-- CONTEND sends its COLDSTART, which announces the first grid point after its own end (R158). -/
def Chip.sendColdstart (c : Chip) (n : Nat) : Chip :=
  let g := c.grid n (c.net + (airtime 64 * nsQ : Nat) + 1)
  let f := c.skeinFrame n macBroadcast ftCOLDSTART (c.beaconFlags n false false) 0 0 0 (c.beaconBody n g 4)
  (c.updEng n fun e => { e with nextGrid := g, backoffEnd := none }).transmit n c.now f

/-- CONTEND sends its COLDSTART where the line lets it; otherwise it waits until one inter-frame gap after carrier, as for the end of
a back-off (R158). -/
def Chip.tryColdstart (c : Chip) (n : Nat) (free : Option (BitVec 96)) : Chip :=
  let start := c.lineFree n free
  if c.now < start then (c.countDeferred n free).updEng n fun e => { e with backoffEnd := some start } else c.sendColdstart n

/-- A cold start or a takeover is allowed now (Table 04.13). -/
def Chip.mayStart (c : Chip) (n : Nat) : Bool :=
  c.on SEGMENT.CFG_CS_EN n && (c.timeReady || c.on SEGMENT.CFG_CS_ANYTIME n)

/-- The listen timer has run out. -/
def Chip.listenOver (c : Chip) (n : Nat) : Bool :=
  match (c.eng n).listenEnd with
  | some t => (c.seg n == sgLISTEN || c.seg n == sgFOLLOWWAIT) && decide (t ≤ c.now)
  | none => false

def Chip.listenTimeout (c : Chip) (n : Nat) (free : Option (BitVec 96)) : Chip :=
  if c.seg n = sgLISTEN ∧ c.mayStart n then
    let c := c.updEng n fun e => { e with listenEnd := none, coldDeferred := false }
    ((c.setFld SEGMENT.CS_STATUS_COLLISIONS 0 n).setSync n sgCONTEND false).tryColdstart n free
  else c.enterListen n

def execListenTimeout (n : Fin 96) (free : Option (BitVec 96)) (s : State) : Result :=
  run (fun c => c.whenDue (c.listenOver n.val) fun d => d.listenTimeout n.val free) s

/-- The COLDSTART has been sent without collision. -/
def Chip.coldstartSentDue (c : Chip) (n : Nat) : Bool :=
  c.seg n == sgCONTEND && (c.eng n).backoffEnd.isNone && decide ((c.eng n).txEnd ≤ c.now)

def execColdstartSent (n : Fin 96) (s : State) : Result :=
  run (fun c => c.whenDue (c.coldstartSentDue n.val) fun d =>
    (d.setFld SEGMENT.CS_STATUS_TRIAL_LEFT 3 n.val).setSync n.val sgTRIAL false) s

/-- The jam, and the back-off after the `k`-th collision (R158): r is drawn at random, a free value of the model. -/
def Chip.backOff (c : Chip) (n k : Nat) : Chip :=
  let r := c.freeVal % 2 ^ min k 10
  let stop := c.now + 3200 * nsQ
  (c.drawn.jam n).updEng n fun e => { e with backoffEnd := some (stop + r * 51200 * nsQ) }

/-- A collision on a COLDSTART, in CONTEND or on a trial COLDSTART (Table 04.13). -/
def Chip.contendCollision (c : Chip) (n : Nat) : Chip :=
  let k := c.fld SEGMENT.CS_STATUS_COLLISIONS n + 1
  let c := c.bump SEGMENT.CS_STATUS_COLLISIONS n
  if c.seg n = sgCONTEND ∧ 16 ≤ k then
    (((c.jam n).bump SEGMENT.CS_FAIL_COUNT n).raise EV.SEGMENT_COLLISION n).enterListen n
  else
    let c := c.updEng n fun e => { e with ext := false, extFrom := none }
    ((c.setFld SEGMENT.CS_STATUS_TRIAL_LEFT 0 n).setSync n sgCONTEND false).backOff n k

def execContendCollision (n : Fin 96) (s : State) : Result :=
  run (fun c => c.whenDue ((c.seg n.val == sgCONTEND && (c.eng n.val).backoffEnd.isNone || c.seg n.val == sgTRIAL) &&
    decide (c.now ≤ (c.eng n.val).txEnd)) fun d => d.contendCollision n.val) s

/-- The back-off in progress has run out. -/
def Chip.backoffOver (c : Chip) (n : Nat) : Bool :=
  match (c.eng n).backoffEnd with
  | some t => decide (t ≤ c.now)
  | none => false

/-- The end of a back-off: CONTEND sends its COLDSTART again; any other frame may be tried again from now on. -/
def Chip.backoffExpiry (c : Chip) (n : Nat) (free : Option (BitVec 96)) : Chip :=
  if c.seg n = sgCONTEND then c.tryColdstart n free else c.updEng n fun e => { e with backoffEnd := none }

def execBackoffExpiry (n : Fin 96) (free : Option (BitVec 96)) (s : State) : Result :=
  run (fun c => c.whenDue (c.backoffOver n.val) fun d => d.backoffExpiry n.val free) s

/-- The engine is cycle master from now on. -/
def Chip.becomeMaster (c : Chip) (n : Nat) (active : Bool) : Chip :=
  let c := (c.setSync n sgMASTER active).raise EV.SEGMENT_MASTER_CHANGE n
  let c := c.setFld SEGMENT.SYNC_STATUS_MASTER_NODE (c.fld SEGMENT.NODE_CFG_NODE_ID n) n
  c.setFld64 SEGMENT.MASTER_MAC_LO_ADDR SEGMENT.MASTER_MAC_HI_ADDR (c.segMac n) n

/-- The beacon at the grid point, or at the predicted start of a takeover, with the cycle it opens and the next grid point
(R117, R135, R160). Its start on the line is placed by its TDC (R93). -/
def Chip.emitBeacon (c : Chip) (n cycle : Nat) : Chip :=
  let e := c.eng n
  let g := e.nextGrid
  let len := c.fld SEGMENT.OPER_CYCLE_LEN_NS n
  let c := c.setFld SEGMENT.SYNC_STATUS_CYCLE cycle n
  let f := c.skeinFrame n macBroadcast ftBEACON (c.beaconFlags n e.ext true) (cycle % 65536) 0 0 (c.beaconBody n g 0)
  let at_ := c.gridInstant n
  let c := (c.openCycle n at_ len true).transmit n (c.edgeMono at_) f
  let after := g + (len * nsQ : Nat)
  let near := c.grid n (g - (c.segGuard n * nsQ : Nat))
  let next := if e.takeover then
      (if near ≤ g + (c.segGuard n * nsQ : Nat) then near + (len * nsQ : Nat) else c.grid n after)
    else after
  let late := e.takeover && decide (after + (c.segGuard n * nsQ : Nat) < next)
  let c := c.updEng n fun e => { e with nextGrid := next, beacons := e.beacons + 1, takeover := false,
                                        opened := true, ext := late, extFrom := (if late then some (at_ + len * nsQ) else none) }
  if 2 ≤ (c.eng n).beacons then c.setSync n sgMASTER true else c

/-- A grid point of TRIAL (Table 04.13, R158). -/
def Chip.trialPoint (c : Chip) (n : Nat) (carrier : Bool) : Chip :=
  let left := c.fld SEGMENT.CS_STATUS_TRIAL_LEFT n
  if left = 0 then
    ((c.updEng n fun e => { e with beacons := 0, ended := List.range 64 }).becomeMaster n false).emitBeacon n 3
  else if carrier then c.enterListen n
  else
    let len := c.fld SEGMENT.OPER_CYCLE_LEN_NS n
    let g := (c.eng n).nextGrid
    let f := c.skeinFrame n macBroadcast ftCOLDSTART (c.beaconFlags n false false) (3 - left) 0 0 (c.beaconBody n g left)
    let at_ := c.gridInstant n
    let c := (c.setFld SEGMENT.SYNC_STATUS_CYCLE (3 - left) n).setFld SEGMENT.CS_STATUS_TRIAL_LEFT (left - 1) n
    let c := c.updEng n fun e => { e with cycleStart := at_, cycleLen := len, nextGrid := g + (len * nsQ : Nat), ext := false,
                                          extFrom := none }
    c.transmit n (c.edgeMono at_) f

def execTrialGridPoint (n : Fin 96) (carrier : Bool) (s : State) : Result :=
  run (fun c => c.whenDue (c.seg n.val == sgTRIAL && decide ((c.eng n.val).nextGrid ≤ c.net)) fun d =>
    d.trialPoint n.val carrier) s

/-- The master's grid point: a pending switch comes first; the beacon follows unless an idle extension begins. -/
def Chip.beaconSend (c : Chip) (n : Nat) : Chip :=
  let c := c.whenDue (c.ttSwitchDue n) fun d => d.ttSwitch n
  c.whenDue (decide ((c.eng n).nextGrid ≤ c.net)) fun d => d.emitBeacon n (d.fld SEGMENT.SYNC_STATUS_CYCLE n + 1)

def execBeaconSend (n : Fin 96) (s : State) : Result :=
  run (fun c => c.whenDue (c.seg n.val == sgMASTER && decide ((c.eng n.val).nextGrid ≤ c.net)) fun d => d.beaconSend n.val) s

/-- LOSS_CYCLES and TAKEOVER_MISS in force (Table 04.16). -/
def Chip.lossCycles (c : Chip) (n : Nat) : Nat := max 2 (c.fld SEGMENT.SYNC_CFG_LOSS_CYCLES n)
def Chip.takeoverMiss (c : Chip) (n : Nat) : Nat := min (max 1 (c.fld SEGMENT.SYNC_CFG_TAKEOVER_MISS n)) (c.lossCycles n - 1)

/-- A beacon of the predicted start can no longer be accepted within its window. -/
def Chip.beaconMissDue (c : Chip) (n : Nat) : Bool :=
  (c.seg n == sgFOLLOWWAIT || c.seg n == sgFOLLOWER) && (c.eng n).anchored &&
    decide ((c.eng n).predicted + (c.segGuard n + airtime 64) * nsQ + c.lineDelay n < c.now)

/-- A missed beacon: takeover, loss, or one more cycle without a beacon, which ages every partner turn (R153, R156, R160). -/
def Chip.beaconMiss (c : Chip) (n : Nat) : Chip :=
  let c := c.bump SEGMENT.BEACON_MISS_COUNT n
  let p := (c.eng n).predicted
  let runs := (c.eng n).missRun + 1
  let take := c.seg n == sgFOLLOWER && c.on SEGMENT.CFG_DUAL n && c.mayStart n && decide (c.takeoverMiss n ≤ runs)
  if !take && decide (c.lossCycles n ≤ runs) then
    ((c.partnerTurns n).foldl (fun d t => d.turnStale n t) (c.closeTurns n)).enterListen n
  else
    let c := c.openCycle n p (c.eng n).cycleLen false
    let c := c.updEng n fun e => { e with missRun := runs, lastMiss := some p, opened := false }
    let c := c.setFld SEGMENT.SYNC_STATUS_CYCLE (c.fld SEGMENT.SYNC_STATUS_CYCLE n + 1) n
    let c := (c.partnerTurns n).foldl (fun d t =>
      (d.turnStale n t).updEng n fun e => { e with ended := t :: e.ended }) c
    if take then
      (c.updEng n fun e => { e with takeover := true, beacons := 1, nextGrid := e.predicted + c.whorl.offset,
                                    missRun := 0, lastMiss := none }).becomeMaster n (c.on SEGMENT.SYNC_STATUS_ACTIVE n)
    else c

def execBeaconMiss (n : Fin 96) (s : State) : Result :=
  run (fun c => c.whenDue (c.beaconMissDue n.val) fun d => d.beaconMiss n.val) s

/-! ### Device turns (R144 to R151) -/

/-- A frame that starts at monotonic time `start` carries a safe scene (R61). -/
def Chip.safeSceneAt (c : Chip) (start : Nat) : Bool :=
  (c.modes.safeScene && (match c.modes.sceneEnd with | some t => decide (start < t) | none => true)) ||
    (c.mode == mSAFE && decide (c.modes.safeAt + 10 * usQ ≤ start))

/-- The start of device turn `t` in the cycle in progress; turn 0 carries its payload 68,000 ns after the cycle start (R144). -/
def Chip.devStart (c : Chip) (n t : Nat) : Nat :=
  (c.eng n).cycleStart + (if t = 0 then 68000 else (c.oper n t).offset) * nsQ

/-- The engine may send in static turns of the cycle in progress (R155, R156). -/
def Chip.maySend (c : Chip) (n : Nat) : Bool :=
  c.on SEGMENT.SYNC_STATUS_ACTIVE n && (c.eng n).turnsOpen && (c.seg n == sgMASTER || c.seg n == sgFOLLOWER)

/-- The latch point of device turn `t` of kind `kind` has come (R145). -/
def Chip.latchDue (c : Chip) (n t kind : Nat) : Bool :=
  c.maySend n && (c.oper n t).kind == kind && (t != 0 || c.seg n == sgMASTER) && !(c.eng n).latched.contains t &&
    decide (c.devStart n t ≤ c.now + 2000 * nsQ)

/-- The word is one of a transmit bank at `at_` with `len` octets of payload. -/
def inBankWords (n at_ len : Nat) : SramWord → Bool
  | .cell .segBuf k => decide (32768 * n + at_ < 8 * k + 8) && decide (8 * k < 32768 * n + at_ + 32 + len)
  | _ => false

/-- The words of a transmit bank are read; whether one is uncorrectable. -/
def Chip.segBankRead (c : Chip) (n at_ len : Nat) : Chip × Bool :=
  let (c, l) := c.sramRead none (inBankWords n at_ len)
  (c, l != [])

/-- A frame that ends with an inverted FCS (R216, Table 12.7). -/
def invertFcs (f : List Byte) : List Byte := f.take (f.length - 4) ++ (f.drop (f.length - 4)).map fun b => ~~~b

/-- The engine reads the oper table's entry of turn `t`: a bad word is reported, and used as read (Table 12.7). -/
def Chip.turnRead (c : Chip) (n t : Nat) : Chip :=
  (c.sramRead none fun w => match w with | .cell .turns k => k / 4 == turnKey n 1 t 0 / 4 | _ => false).1

/-- The frame of a device turn, with what TURN_STAT shows of it (R170); one read from an uncorrectable word ends with an inverted FCS
(Table 12.7). -/
def Chip.sendTurn (c : Chip) (n t typ dst age : Nat) (safe : Bool) (body : List Byte) : Chip :=
  let (c, bad) := if body = [] then (c.turnRead n t, false)
    else (c.turnRead n t).segBankRead n ((c.oper n t).bank (if safe then 2 else c.fld SEGMENT.TURN_STAT_BANK n t)) body.length
  let cyc := c.fld SEGMENT.SYNC_STATUS_CYCLE n
  let c := (c.setFld SEGMENT.TURN_STAT_AGE age n t).setFld SEGMENT.TURN_STAT_LAST_CYCLE cyc n t
  let c := c.updEng n fun e => { e with latched := t :: e.latched }
  let f := c.skeinFrame n dst typ (c.segFlags n safe) cyc t age body
  c.transmit n (c.edgeMono (c.devStart n t)) (if bad then invertFcs f else f)

/-- The safe scene of a device turn (R61, R150), sent to the broadcast address (DESIGN CHOICE, assumption log, entry 95). -/
def Chip.sendSafe (c : Chip) (n t : Nat) : Chip :=
  let e := c.oper n t
  c.sendTurn n t (if e.asCommand then ftCOMMAND else ftSTATE) macBroadcast 0 true (c.bankPayload n e 2)

/-- The type of a DEV_STATE turn's frames (Table 04.7). -/
def Turn.stateType (t : Turn) : Nat := if t.asCommand then ftCOMMAND else ftSTATE

/-- The latch point of a DEV_STATE turn. In STANDBY only what the host published over the SEGMENT page is sent anew (R57, R146,
R150). -/
def Chip.devStateLatch (c : Chip) (n t : Nat) : Chip :=
  let e := c.oper n t
  let safe := c.safeSceneAt (c.devStart n t)
  if safe && c.on SEGMENT.TURN_STAT_SAFE_VALID n t then c.sendSafe n t
  else
    let fresh := c.on SEGMENT.TURN_STAT_PUB_PENDING n t && !safe && !(c.mode == mSTANDBY && (c.turnRec n t).fromReel)
    let c := if fresh then
        ((c.setFld SEGMENT.TURN_STAT_BANK (1 - c.fld SEGMENT.TURN_STAT_BANK n t) n t).setFld
          SEGMENT.TURN_STAT_PUB_PENDING 0 n t).updTurn n t fun r => { r with ever := true, fromReel := false }
      else c
    let b := c.fld SEGMENT.TURN_STAT_BANK n t
    let r := c.turnRec n t
    if r.ever then
      c.sendTurn n t e.stateType (if b = 0 then r.dstA else r.dstB)
        (if fresh then 0 else min 255 (c.fld SEGMENT.TURN_STAT_AGE n t + 1)) false (c.bankPayload n e b)
    else c.sendTurn n t ftSTATE macBroadcast 255 false []

def execDevStateLatch (n : Fin 96) (turn : Fin 64) (s : State) : Result :=
  run (fun c => c.whenDue (c.latchDue n.val turn.val 2) fun d => d.devStateLatch n.val turn.val) s

/-- The offered frame where it is a Skein STATE or COMMAND frame with TURN = 0xFF, with its class (R147, R148). -/
def Chip.queueOffer (c : Chip) (n : Nat) : Option (SegFrame × Nat) :=
  match (c.eng n).offer with
  | some (p, k) =>
    let f := parseSeg p.bytes
    if f.skein && f.ver == 1 && (f.typ == ftSTATE || f.typ == ftCOMMAND) && f.turn == 255 && f.body.isSome then some (f, k)
    else none
  | none => none

/-- The end of a command payload's frame, in network time (R392). -/
def Chip.payloadEnd (c : Chip) (n t : Nat) (p : CmdPayload) : Int :=
  (c.edgeMono (c.devStart n t) + airtime (skeinOctets p.bytes.length) * nsQ : Nat) + c.whorl.offset

/-- Payloads at the head of the command queue that are discarded or expired at this latch point leave it (R148, R392). -/
def Chip.cleanCmdq (c : Chip) (n t : Nat) : List CmdPayload → Chip
  | [] => c.setCmdq n []
  | p :: r =>
    if c.unholdable n p then (c.dropPayload n p).cleanCmdq n t r
    else if p.apply * (2 ^ 26 : Int) + (c.fld DISTAFF.APPLY_LATE_TOL_NS * nsQ : Nat) < c.payloadEnd n t p then
      (((c.bumpBy DISTAFF.ITEMS_EXPIRED_COUNT p.count).raise EV.DISTAFF_EXPIRED).fateLost p.share p.count).cleanCmdq n t r
    else c.setCmdq n (p :: r)

/-- A command payload is sent on time or late (Table 11.9). -/
def Chip.judgeSent (c : Chip) (n t : Nat) (p : CmdPayload) : Chip :=
  let guardQ : Int := (c.fld DISTAFF.CFG_LATCH_GUARD_US * usQ : Nat)
  let c := c.itemsOut p.tag p.count
  if c.payloadEnd n t p ≤ p.apply * (2 ^ 26 : Int) - guardQ then
    (c.bumpBy DISTAFF.ITEMS_ON_TIME_COUNT p.count).fateSent p.share p.count false
  else ((c.bumpBy DISTAFF.ITEMS_LATE_COUNT p.count).raise EV.DISTAFF_LATE_APPLY).fateSent p.share p.count true

/-- LEN and the payload of a transmit bank (Table 04.9). Its words are good again (R420). -/
def Chip.fillBank (c : Chip) (n : Nat) (e : Turn) (b : Nat) (body : List Byte) : Chip :=
  let c := { c with ecc := { c.ecc with bad := c.ecc.bad.filter fun w => !inBankWords n (e.bank b) body.length w.word } }
  (c.putBuf n (e.bank b + 16) (leBytes 4 body.length)).putBuf n (e.bank b + 32) body

/-- A DEV_QUEUE turn takes and sends a new frame, from the bank that was not being sent (R140, R170). -/
def Chip.sendQueued (c : Chip) (n t typ dst : Nat) (body : List Byte) : Chip :=
  let b := 1 - c.fld SEGMENT.TURN_STAT_BANK n t
  let c := (c.fillBank n (c.oper n t) b body).setFld SEGMENT.TURN_STAT_BANK b n t
  (c.updTurn n t fun r => { r with ever := true, lastType := typ, lastDst := dst, lost := false }).sendTurn
    n t typ dst 0 false body

/-- The Reel's offered frame is taken in a DEV_QUEUE turn. -/
def Chip.takeQueueOffer (c : Chip) (n t : Nat) (f : SegFrame) : Chip :=
  let c := (c.endOffer n true).updEng n fun e => { e with burst := 0 }
  c.sendQueued n t f.typ f.dst (f.body.getD [])

/-- The last frame of a DEV_QUEUE turn again, one cycle older (R148, R150, R151). -/
def Chip.resendQueued (c : Chip) (n t : Nat) : Chip :=
  let r := c.turnRec n t
  let c := (c.updTurn n t fun r => { r with lost := false }).updEng n fun e => { e with burst := 0 }
  if r.ever then c.sendTurn n t r.lastType r.lastDst (min 255 (c.fld SEGMENT.TURN_STAT_AGE n t + 1)) false
    (c.bankPayload n (c.oper n t) (c.fld SEGMENT.TURN_STAT_BANK n t))
  else c.sendTurn n t ftSTATE macBroadcast 255 false []

/-- The waiting frame where it fits, else the last frame again. -/
def Chip.takeOtherOrResend (c : Chip) (n t : Nat) : Option SegFrame → Chip
  | some f => if f.len ≤ (c.oper n t).maxPay then c.takeQueueOffer n t f else c.resendQueued n t
  | none => c.resendQueued n t

/-- The head of the command queue, then a waiting frame of another class (R148). The frame of a command payload, like that of a safe
scene and the empty frame of a turn that never had a payload, goes to the broadcast address: R133 names one for host-published and Reel
frames only (DESIGN CHOICE, assumption log, entry 95). -/
def Chip.takeCommand (c : Chip) (n t : Nat) (other : Option SegFrame) : Chip :=
  let burst := (c.eng n).burst
  let c := c.cleanCmdq n t (c.eng n).cmdq
  match (c.eng n).cmdq with
  | p :: r =>
    if p.bytes.length ≤ (c.oper n t).maxPay then
      let c := ((c.setCmdq n r).judgeSent n t p).updEng n fun e => { e with burst := if other.isSome then burst + 1 else 0 }
      c.sendQueued n t ftCOMMAND macBroadcast p.bytes
    else c.takeOtherOrResend n t other
  | [] => c.takeOtherOrResend n t other

/-- The candidates of a DEV_QUEUE latch point after class 7, in their order: after CMD_BURST command payloads in a row a
waiting frame goes first once (R148). -/
def Chip.takeCommandOrOther (c : Chip) (n t : Nat) (other : Option SegFrame) : Chip :=
  match other with
  | some f =>
    if max 1 (c.fld SEGMENT.CMD_CFG_CMD_BURST n) ≤ (c.eng n).burst ∧ f.len ≤ (c.oper n t).maxPay then c.takeQueueOffer n t f
    else c.takeCommand n t other
  | none => c.takeCommand n t none

/-- The latch point of a DEV_QUEUE turn; in STANDBY it repeats its last payload (R57, R148, R150, R151). -/
def Chip.devQueueLatch (c : Chip) (n t : Nat) : Chip :=
  let safe := c.safeSceneAt (c.devStart n t)
  if safe && c.on SEGMENT.TURN_STAT_SAFE_VALID n t then c.sendSafe n t
  else if safe || c.mode == mSTANDBY || (c.turnRec n t).lost then c.resendQueued n t
  else
    match c.queueOffer n with
    | some (f, 7) => if f.len ≤ (c.oper n t).maxPay then c.takeQueueOffer n t f else c.takeCommandOrOther n t none
    | some (f, _) => c.takeCommandOrOther n t (some f)
    | none => c.takeCommandOrOther n t none

def execDevQueueLatch (n : Fin 96) (turn : Fin 64) (s : State) : Result :=
  run (fun c => c.whenDue (c.latchDue n.val turn.val 3) fun d => d.devQueueLatch n.val turn.val) s

/-- A collision in turn 0, in a device turn that the Chrosal sends in, or in a partner turn (R151, R153). -/
def Chip.staticCollision (c : Chip) (n t : Nat) : Chip :=
  let own := t = 0 ∧ c.seg n = sgMASTER ∨ (c.eng n).latched.contains t
  let c := if own then c.jam n else c.updEng n fun e => { e with seen := t :: e.seen, accepted := e.accepted.filter (· != t) }
  let c := if (c.oper n t).kind = 3 ∧ (c.eng n).latched.contains t then c.updTurn n t fun r => { r with lost := r.ever } else c
  (c.bump SEGMENT.STATIC_COLL_COUNT n).raise EV.SEGMENT_COLLISION n

/-- A collision can be seen in turn `t`: the engine sends in it, or it is a partner turn. -/
def Chip.staticCollisionIn (c : Chip) (n t : Nat) : Bool :=
  c.holdsCycle n && ((t == 0 && c.seg n == sgMASTER) || (c.eng n).latched.contains t || (c.oper n t).isPartner)

def execStaticCollision (n : Fin 96) (turn : Fin 64) (s : State) : Result :=
  run (fun c => c.whenDue (c.staticCollisionIn n.val turn.val) fun d => d.staticCollision n.val turn.val) s

/-! ### Publishing and the host's side (R143, R146, R150) -/

/-- The staging bank of DEV_STATE turn `t` is marked pending; a pending publish is replaced and counted (R146). -/
def Chip.publish (c : Chip) (n t dst : Nat) (reel : Bool) : Chip :=
  let staging := 1 - c.fld SEGMENT.TURN_STAT_BANK n t
  let c := if c.on SEGMENT.TURN_STAT_PUB_PENDING n t then c.bump SEGMENT.OVERWRITE_COUNT n else c
  (c.setFld SEGMENT.TURN_STAT_PUB_PENDING 1 n t).updTurn n t fun r =>
    if staging = 0 then { r with dstA := dst, fromReel := reel } else { r with dstB := dst, fromReel := reel }

/-- A write of PUB_CMD (R146). -/
def Chip.pubCmd (c : Chip) (n : Nat) (p : Port) (v : Nat) : Chip :=
  let t := bitsOf v 6 0
  let e := c.oper n t
  if bitsOf v 8 8 = 1 then
    if t < 64 ∧ e.kind = 2 ∧ c.bankLen n e (1 - c.fld SEGMENT.TURN_STAT_BANK n t) ≤ e.maxPay then
      c.publish n t macBroadcast false
    else c.refuse SEGMENT.PUB_CMD_TURN p n
  else c

def execPubCmd (port : Port) (n : Fin 96) (value : Word) (s : State) : Result :=
  run (fun c => c.accessField port SEGMENT.PUB_CMD_TURN n.val fun d => d.pubCmd n.val port value.toNat) s

/-- A write of TURN_STATt: SAFE_VALID of a device turn (R150, R170). -/
def Chip.turnStatWrite (c : Chip) (n t : Nat) (p : Port) (v : Nat) : Chip :=
  let e := c.oper n t
  if t < 64 ∧ e.isDev then
    if bitsOf v 0 0 = 1 ∧ e.maxPay < c.bankLen n e 2 then c.errcnt (PageCls.segment.base + n) (0x200 + 4 * t) p
    else c.setFld SEGMENT.TURN_STAT_SAFE_VALID (bitsOf v 0 0) n t
  else c

def execSafeValidWrite (port : Port) (n : Fin 96) (turn : Fin 65) (value : Word) (s : State) : Result :=
  run (fun c => c.accessField port SEGMENT.TURN_STAT_SAFE_VALID n.val fun d => d.turnStatWrite n.val turn.val port value.toNat) s

/-- The block belongs to a bank that host writes are kept from (R143). -/
def Chip.bankHeld (c : Chip) (n block : Nat) : Bool :=
  (List.range 64).any fun t =>
    let e := c.oper n t
    let inBank (b : Nat) : Bool := decide (e.base + b * e.blocks ≤ block ∧ block < e.base + (b + 1) * e.blocks)
    let bank := c.fld SEGMENT.TURN_STAT_BANK n t
    e.isDev && (inBank bank || (c.on SEGMENT.TURN_STAT_PUB_PENDING n t && inBank (1 - bank)) ||
      (c.on SEGMENT.TURN_STAT_SAFE_VALID n t && inBank 2))

/-- The bits of word `w` of a bank header that Table 04.9 assigns; the others are reserved (R20). -/
def bankHdrMask : Nat → Nat
  | 3 => 0x0FFFFFFF
  | 4 => 0xFF0007FF
  | 6 => 0
  | 7 => 0
  | _ => 0xFFFFFFFF

/-- A bank of the oper table begins with the block. -/
def Chip.bankStarts (c : Chip) (n block : Nat) : Bool :=
  (List.range 64).any fun t => (List.range (c.oper n t).bankCount).any fun b => (c.oper n t).base + b * (c.oper n t).blocks == block

/-- The assigned bits of the word at address `a` of the turn buffers: all of them outside the bank headers (R20, R142). -/
def Chip.bufMask (c : Chip) (n a : Nat) : Nat :=
  if a % 128 < 32 ∧ c.bankStarts n (a / 128) then bankHdrMask (a % 128 / 4) else 0xFFFFFFFF

/-- The address of word `w` of the buffer window (R142). -/
def Chip.bufAddr (c : Chip) (n w : Nat) : Nat := c.fld SEGMENT.BUF_WIN_SECTION n * 2048 + 4 * w

/-- A host read of word `w` of the buffer window. -/
def Chip.bufRead (c : Chip) (n w : Nat) : Nat := c.bufWord n (c.bufAddr n w) &&& c.bufMask n (c.bufAddr n w)

/-- A host write of word `w` of the buffer window (R142, R143). -/
def Chip.bufWrite (c : Chip) (n w : Nat) (p : Port) (v : Nat) : Chip :=
  let a := c.bufAddr n w
  if c.bankHeld n (a / 128) then c.errcnt (PageCls.segment.base + n) (0x800 + 4 * w) p
  else (c.putBuf n a (leBytes 4 (v &&& c.bufMask n a))).sramWrite 3 (.cell .segBuf ((32768 * n + a) / 8))

def execBufWinWrite (port : Port) (n : Fin 96) (word : Fin 512) (value : Word) (s : State) : Result :=
  run (fun c => c.accessField port SEGMENT.BUF_WIN_SECTION n.val fun d => d.bufWrite n.val word.val port value.toNat) s

/-- The octets on the line of a frame of the Reel. -/
def lineOctets (b : List Byte) : List Byte :=
  let f := b ++ List.replicate (60 - b.length) 0
  f ++ leBytes 4 (crc32 f)

/-- The segment MAC can send the frame: 1,522 octets with its FCS at most (Table 06.7). -/
def lineLenOk (b : List Byte) : Bool := decide (b.length + 4 ≤ 1522)

/-- A non-Skein frame fits some contention turn of the oper table (R163). -/
def Chip.fitsContention (c : Chip) (n : Nat) (b : List Byte) : Bool :=
  decide (airtime (max 60 b.length + 4) + c.segGuard n + (c.oper n 64).offset + 80000 < c.fld SEGMENT.OPER_CYCLE_LEN_NS n)

/-- The frame on offer is dropped by the engine (Table 04.10). -/
def Chip.dropOffer (c : Chip) (n : Nat) : Chip :=
  ((c.endOffer n false).bump SEGMENT.TX_DROP_COUNT n).raise EV.SEGMENT_FRAME_ERROR n

/-- The payload of a Reel frame is written to the staging bank of its DEV_STATE turn and published (Table 04.10). -/
def Chip.publishOffer (c : Chip) (n : Nat) (f : SegFrame) (body : List Byte) : Chip :=
  let c := c.fillBank n (c.oper n f.turn) (1 - c.fld SEGMENT.TURN_STAT_BANK n f.turn) body
  (c.publish n f.turn f.dst true).endOffer n true

/-- The engine treats the frame on offer by its kind (Table 04.10). -/
def Chip.judgeOffer (c : Chip) (n : Nat) (p : Packet) : Chip :=
  let f := parseSeg p.bytes
  if f.skein then
    match f.body with
    | some body =>
      if f.ver = 1 ∧ (f.typ = ftSTATE ∨ f.typ = ftCOMMAND) then
        if f.turn < 64 ∧ (c.oper n f.turn).kind = 2 ∧ f.len ≤ (c.oper n f.turn).maxPay then c.publishOffer n f body
        else if f.turn = 255 ∧ (List.range 64).any (fun t => (c.oper n t).kind == 3 && decide (f.len ≤ (c.oper n t).maxPay)) then c
        else c.dropOffer n
      else c.dropOffer n
    | none => c.dropOffer n
  else if c.on SEGMENT.CFG_CONT_TX_EN n && c.fitsContention n p.bytes && lineLenOk p.bytes then c
  else c.dropOffer n

/-- A DISABLED engine takes nothing, and a plain segment holds every frame that its MAC can send for CSMA/CD (R167, R217). -/
def Chip.reelFrameOffer (c : Chip) (n : Nat) : Chip :=
  match (c.eng n).offer with
  | some (p, _) =>
    if c.seg n = sgDISABLED ∨ (c.seg n = sgPLAIN ∧ lineLenOk p.bytes) then c
    else if c.seg n = sgPLAIN then c.dropOffer n
    else c.judgeOffer n p
  | none => c

def execReelFrameOffer (n : Fin 96) (s : State) : Result := run (fun c => c.reelFrameOffer n.val) s

/-! ### CSMA/CD: the contention turn and plain segments (R163 to R167, R219) -/

/-- The frame whose turn it is under CSMA/CD: one that waits to be sent again, else the frame on offer where `ok` takes it. -/
def Chip.csmaNext (c : Chip) (n : Nat) (ok : List Byte → Bool) : Option (Csma × Bool) :=
  let e := c.eng n
  if e.backoffEnd.isSome || decide (c.now < e.txEnd) then none
  else match e.csma with
    | some f => if f.retry then some ({ f with retry := false }, false) else offered e
    | none => offered e
where
  offered (e : SegEng) : Option (Csma × Bool) :=
    match e.offer with
    | some (p, _) => if ok p.bytes && lineLenOk p.bytes then some ({ bytes := p.bytes, deferred := e.deferred }, true) else none
    | none => none

/-- A frame goes out under CSMA/CD; a new one is taken from the Reel. -/
def Chip.csmaSend (c : Chip) (n : Nat) (f : Csma) (fresh : Bool) : Chip :=
  let c := if fresh then c.endOffer n true else c
  (c.updEng n fun e => { e with csma := some f }).transmit n c.now (lineOctets f.bytes)

/-- The frame `f` goes out where the line lets it; a frame that defers to carrier counts once (R218, R221). -/
def Chip.csmaTry (c : Chip) (n : Nat) (free : Option (BitVec 96)) (f : Csma) (fresh : Bool) : Chip :=
  if c.now < c.lineFree n free then
    if c.carrierNow free && !f.deferred then
      (c.updEng n fun e => if fresh then { e with deferred := true } else { e with csma := some { f with retry := true, deferred := true } }).bump
        SEGMENT.MAC_DEFERRED_COUNT n
    else c
  else c.csmaSend n f fresh

/-- A frame of `k` octets that starts now, and ends GUARD before the end of the contention turn (R163). -/
def Chip.contFits (c : Chip) (n start k : Nat) : Bool :=
  decide (start + (airtime (max 60 k + 4) + c.segGuard n) * nsQ < c.cycleEnd n)

/-- Device frames may start in the contention turn now (R163). -/
def Chip.contOpen (c : Chip) (n : Nat) : Bool :=
  c.maySend n && !(c.eng n).contSkip && c.on SEGMENT.CFG_CONT_TX_EN n &&
    decide ((c.eng n).cycleStart + ((c.oper n 64).offset + 80000) * nsQ ≤ c.now)

def Chip.contFrameTx (c : Chip) (n : Nat) (free : Option (BitVec 96)) : Chip :=
  if c.contOpen n then
    match c.csmaNext n (fun b => !(parseSeg b).skein) with
    | some (f, fresh) => if c.contFits n c.now f.bytes.length then c.csmaTry n free f fresh else c
    | none => c
  else c

def execContFrameTx (n : Fin 96) (free : Option (BitVec 96)) (s : State) : Result := run (fun c => c.contFrameTx n.val free) s

/-- A plain segment sends each Reel frame whole, and nothing in SAFE (R61, R167). -/
def Chip.plainFrameTx (c : Chip) (n : Nat) (free : Option (BitVec 96)) : Chip :=
  if c.seg n = sgPLAIN ∧ c.mode ≠ mSAFE then
    match c.csmaNext n (fun _ => true) with
    | some (f, fresh) => c.csmaTry n free f fresh
    | none => c
  else c

def execPlainFrameTx (n : Fin 96) (free : Option (BitVec 96)) (s : State) : Result := run (fun c => c.plainFrameTx n.val free) s

/-- A frame of the CSMA/CD discipline is dropped. -/
def Chip.csmaDrop (c : Chip) (n : Nat) (late : Bool) : Chip :=
  let c := (c.updEng n fun e => { e with csma := none }).bump SEGMENT.TX_DROP_COUNT n
  if late then c.bump SEGMENT.MAC_LATE_COLL_COUNT n else c.bump SEGMENT.MAC_EXCESS_COLL_COUNT n

/-- A collision on the frame that CSMA/CD sends (R219). -/
def Chip.csmaCollision (c : Chip) (n : Nat) (f : Csma) (late : Bool) : Chip :=
  let k := f.attempts + 1
  let c := if c.seg n = sgPLAIN then c else c.bump SEGMENT.CONT_COLL_COUNT n
  if late ∨ 16 ≤ k then (c.jam n).csmaDrop n late
  else
    let c := (c.backOff n k).updEng n fun e => { e with csma := some { f with attempts := k, retry := true } }
    let again := (c.eng n).backoffEnd.getD c.now
    if c.seg n = sgPLAIN || c.contFits n again f.bytes.length then c
    else c.updEng n fun e => { e with backoffEnd := none, contSkip := true }

/-- The contention turn of the cycle in progress runs now (R163). -/
def Chip.inContention (c : Chip) (n : Nat) : Bool :=
  c.holdsCycle n && decide ((c.eng n).cycleStart + (c.oper n 64).offset * nsQ ≤ c.now ∧ c.now < c.cycleEnd n)

/-- A collision that the segment MAC detects outside the static turns: of the frame that CSMA/CD sends, or, with nothing of the engine's
own on the line, of other nodes, which CONT_COLL counts in the contention turn (R163). That of an ACK or of a COLDSTART comes with its
own command. -/
def Chip.csmaCollided (c : Chip) (n : Nat) (late : Bool) : Chip :=
  if c.now ≤ (c.eng n).txEnd then
    match (c.eng n).csma with
    | some f => if f.retry then c else c.csmaCollision n f late
    | none => c
  else if c.inContention n then c.bump SEGMENT.CONT_COLL_COUNT n
  else c

def execSegmentCsmaCollision (n : Fin 96) (late : Bool) (s : State) : Result :=
  run (fun c => c.csmaCollided n.val late) s

/-- JOIN_INFO and JOIN_MAC show the oldest entry of the JOIN log (Table 04.16). -/
def Chip.setJoinLog (c : Chip) (n : Nat) (l : List JoinEntry) : Chip :=
  let c := c.updEng n fun e => { e with joinLog := l }
  let c := c.setFld SEGMENT.JOIN_INFO_COUNT l.length n
  let c := c.setBit SEGMENT.JOIN_INFO_VALID (l != []) n
  match l with
  | j :: _ =>
    let c := (c.setFld SEGMENT.JOIN_INFO_NODE j.node n).setBit SEGMENT.JOIN_INFO_ANY (j.node == 255) n
    (c.setFld SEGMENT.JOIN_INFO_CLASS j.cls n).setFld64 SEGMENT.JOIN_MAC_LO_ADDR SEGMENT.JOIN_MAC_HI_ADDR j.mac n
  | [] =>
    let c := (c.setFld SEGMENT.JOIN_INFO_NODE 0 n).setFld SEGMENT.JOIN_INFO_ANY 0 n
    (c.setFld SEGMENT.JOIN_INFO_CLASS 0 n).setFld64 SEGMENT.JOIN_MAC_LO_ADDR SEGMENT.JOIN_MAC_HI_ADDR 0 n

/-- The oldest entry leaves the JOIN log, and with it any ACK that the host queued for it. -/
def Chip.popJoin (c : Chip) (n : Nat) : Chip :=
  (c.setJoinLog n ((c.eng n).joinLog.drop 1)).updEng n fun e => { e with hostAck := none, ackAttempts := 0, ackDeferred := false }

/-- Every PARTNER turn that a node owns reads JOINED, with the partner's MAC (R165). -/
def Chip.setJoined (c : Chip) (n node mac : Nat) : Chip :=
  ((c.partnerTurns n).filter fun t => (c.oper n t).owner == node).foldl (fun d t =>
    (d.setFld SEGMENT.TURN_STAT_JOINED 1 n t).updTurn n t fun r => { r with mac := mac }) c

/-- The lowest static turn that a node owns; 0 if none (Table 04.6). -/
def Chip.lowestTurn (c : Chip) (n node : Nat) : Nat :=
  (((List.range 64).drop 1).find? fun t => (c.oper n t).kind != 0 && (c.oper n t).owner == node).getD 0

/-- The answer to the oldest JOIN: node, status and turn (R165). None where the host has still to give it. -/
def Chip.ackAnswer (c : Chip) (n : Nat) (j : JoinEntry) : Option (Nat × Nat × Nat) :=
  if c.on SEGMENT.CFG_JOIN_HOST n then (c.eng n).hostAck
  else
    let turns := (c.partnerTurns n).filter fun t => (c.oper n t).owner == j.node
    let status := if turns.any (fun t => c.on SEGMENT.TURN_STAT_JOINED n t && (c.turnRec n t).mac != j.mac) then 2
      else if turns != [] then 0 else 1
    some (j.node, status, c.lowestTurn n j.node)

/-- The ACK may be sent now: in the first 80,000 ns of the contention turn, once per cycle (R163). -/
def Chip.ackOpen (c : Chip) (n : Nat) : Bool :=
  let o := (c.eng n).cycleStart + (c.oper n 64).offset * nsQ
  c.seg n == sgMASTER && c.maySend n && !(c.eng n).ackDone && decide (o ≤ c.now ∧ c.now < o + 80000 * nsQ)

/-- The ACK goes out, with what becomes of it (R163, R165, R219). -/
def Chip.ackOut (c : Chip) (n : Nat) (j : JoinEntry) (node status turn : Nat) (collision : Option Bool) : Chip :=
  let body := beBytes 6 j.mac ++ beBytes 1 node ++ beBytes 1 status ++ beBytes 1 turn ++ [0] ++
    beBytes 2 (c.fld SEGMENT.TT_STATUS_OPER_TABLE_ID n)
  let f := c.skeinFrame n macBroadcast ftACK (c.segFlags n false) (c.fld SEGMENT.SYNC_STATUS_CYCLE n) 64 0 body
  let c := (c.updEng n fun e => { e with ackDone := true }).transmit n c.now f
  match collision with
  | none => if status = 0 then (c.popJoin n).setJoined n node j.mac else c.popJoin n
  | some late =>
    let k := (c.eng n).ackAttempts + 1
    let c := (c.jam n).bump SEGMENT.CONT_COLL_COUNT n
    if late ∨ 16 ≤ k then
      let c := (c.updEng n fun e => { e with ackAttempts := 0, ackDeferred := false, hostAck := none }).bump SEGMENT.TX_DROP_COUNT n
      if late then c.bump SEGMENT.MAC_LATE_COLL_COUNT n else c.bump SEGMENT.MAC_EXCESS_COLL_COUNT n
    else c.updEng n fun e => { e with ackAttempts := k }

/-- The master's ACK, where the line lets it go; one that defers to carrier counts once (R163, R165, R218, R221). -/
def Chip.ackSend (c : Chip) (n : Nat) (l : AckLine) : Chip :=
  match (c.eng n).joinLog with
  | j :: _ =>
    match c.ackAnswer n j with
    | some (node, status, turn) =>
      if c.now < c.lineFree n l.free then
        if c.carrierNow l.free && !(c.eng n).ackDeferred then
          (c.updEng n fun e => { e with ackDeferred := true }).bump SEGMENT.MAC_DEFERRED_COUNT n
        else c
      else c.ackOut n j node status turn l.collision
    | none => c
  | [] => c

def execAckSend (n : Fin 96) (line : AckLine) (s : State) : Result :=
  run (fun c => c.whenDue (c.ackOpen n.val) fun d => d.ackSend n.val line) s

/-- A write of JOIN_POP (Table 04.16). -/
def Chip.joinPop (c : Chip) (n v : Nat) : Chip := if bitsOf v 0 0 = 1 then c.popJoin n else c

def execJoinPop (port : Port) (n : Fin 96) (value : Word) (s : State) : Result :=
  run (fun c => c.accessField port SEGMENT.JOIN_POP_GO n.val fun d => d.joinPop n.val value.toNat) s

/-- A write of ACK_CMD (R165, Table 04.16). -/
def Chip.ackCmd (c : Chip) (n : Nat) (p : Port) (v : Nat) : Chip :=
  if bitsOf v 31 31 = 1 then
    if (c.eng n).joinLog = [] ∨ ¬ c.on SEGMENT.CFG_JOIN_HOST n then c.refuse SEGMENT.ACK_CMD_GO p n
    else c.updEng n fun e => { e with hostAck := some (bitsOf v 5 0, bitsOf v 18 16, bitsOf v 14 8) }
  else c

def execAckCmd (port : Port) (n : Fin 96) (value : Word) (s : State) : Result :=
  run (fun c => c.accessField port SEGMENT.ACK_CMD_GO n.val fun d => d.ackCmd n.val port value.toNat) s

/-! ### CFG and NODE_CFG (R167) -/

/-- A write of CFG or NODE_CFG. While EN = 1, PLAIN, DUAL and NODE_CFG stay as they stand, and a write that would have changed
one of them counts once. -/
def Chip.segCfgWrite (c : Chip) (n : Nat) (node : Bool) (p : Port) (v : Nat) : Chip :=
  let off := if node then SEGMENT.NODE_CFG_NODE_ID.off else SEGMENT.CFG_PLAIN.off
  let old := c.plainRead .segment n off
  let held := if node then 0x0000FF3F else 3
  if c.hdr HDR.CTRL_EN (PageCls.segment.base + n) = 1 then
    let d := c.plainWrite .segment n off ((v &&& (0xFFFFFFFF ^^^ held)) ||| (old &&& held)) p
    if old &&& held ≠ v &&& held then d.errcnt (PageCls.segment.base + n) off p else d
  else c.plainWrite .segment n off v p

def execSegmentCfgWrite (port : Port) (n : Fin 96) (nodeCfg : Bool) (value : Word) (s : State) : Result :=
  run (fun c => c.accessField port SEGMENT.CFG_PLAIN n.val fun d => d.segCfgWrite n.val nodeCfg port value.toNat) s

end Sys2Proof.Machine
end

