-- ==== Sys2Proof/Machine/Stage.lean ====
section
/-!
DEFINITION. Machine/Stage.lean: the shares of commands at this part and their segment staging (R389, R390, R392, R393, R396).
A share is a worker's, or the manager's own with its command.
Log entries: DEDUCED 72; DESIGN CHOICE 38 (notes/assumptions).
-/
namespace Sys2Proof.Machine

/-- A in 2^-32 ns. -/
def Share.applyQ (h : Share) : Int := h.apply * 2 ^ 26

/-- APPLY_LATE_TOL (R392). -/
def Chip.applyTol (c : Chip) : Nat := c.fld DISTAFF.APPLY_LATE_TOL_NS * nsQ

/-- Network time is past A + APPLY_LATE_TOL. -/
def Chip.shareLate (c : Chip) (h : Share) : Bool := h.expired || decide (h.applyQ + (c.applyTol : Nat) < c.net)

def Chip.updDistaff (c : Chip) (f : Distaff → Distaff) : Chip := { c with distaff := f c.distaff }
def Chip.stage? (c : Chip) (k n : Nat) : Option Stage := Tab.get none c.distaff.stages (96 * k + n)
def Chip.setStage (c : Chip) (k n : Nat) (v : Option Stage) : Chip :=
  c.updDistaff fun d => { d with stages := Tab.put none d.stages (96 * k + n) v }

def Chip.fatesOf (c : Chip) (k : Nat) : Fates := Tab.get {} c.fates k

/-- How many shares this part holds as worker (STATUS.SHARES). -/
def Chip.shareCount (c : Chip) : Nat :=
  (c.distaff.shares.filter fun e => match e.2 with | some h => h.cmd.isNone | none => false).length

/-- Work for the Distaff wakes it from LIGHT (R70). -/
def Chip.wakeDistaff (c : Chip) : Chip :=
  let light := Tab.get false c.modes.laneLight 11
  let c := { c with modes := { c.modes with laneLight := Tab.put false c.modes.laneLight 11 false,
                                            laneIdleSince := Tab.put 0 c.modes.laneIdleSince 11 c.now } }
  if light then c.raise EV.POWER_WAKE_DONE else c

/-- A new share takes the next number. -/
def Chip.addShare (c : Chip) (h : Share) : Chip :=
  (c.wakeDistaff.updDistaff fun d => { d with nextKey := d.nextKey + 1 }).setShare c.distaff.nextKey (some h)

/-- The worker's share of command `id`. -/
def Chip.findShare (c : Chip) (id : Nat) : Option (Nat × Share) :=
  c.distaff.shares.findSome? fun e => match e.2 with
    | some h => if h.cmd.isNone && h.cmdId == id then some (e.1, h) else none
    | none => none

/-! ### Staging payloads (R390) -/

/-- The command payload of a staging payload (Table 11.8). -/
def Share.payload (h : Share) (key : Nat) (items : List Item) : CmdPayload :=
  { share := key, tag := h.cmd.map (·.tag), apply := h.apply, count := items.length,
    bytes := beBytes 1 0x11 ++ beBytes 1 0 ++ beBytes 2 items.length ++ beBytes 6 (stampSec h.apply) ++
      beBytes 4 (stampNs h.apply) ++ beBytes 2 h.ramp ++ beBytes 4 h.cmdId ++
      items.flatMap fun i => beBytes 1 i.node ++ beBytes 1 i.obj ++ beBytes 2 i.value }

/-- A payload closes: it is queued, or discarded where the segment cannot hold it (R148, R167), or waits while the command queue is
full, and staging of its share stops. -/
def Chip.closeStage (c : Chip) (key n : Nat) : Chip :=
  match c.share? key, c.stage? key n with
  | some h, some g =>
    if c.unholdable n (h.payload key g.items) then (c.setStage key n none).dropPayload n (h.payload key g.items)
    else if (c.eng n).cmdq.length < 64 then
      (c.setStage key n none).setCmdq n ((c.eng n).cmdq ++ [h.payload key g.items])
    else
      let c := if g.closed then c else (c.bump DISTAFF.QUEUE_STALLS_COUNT).raise EV.DISTAFF_QUEUE_STALL
      (c.setStage key n (some { g with closed := true })).updShare key fun h => { h with stalled := true }
  | _, _ => c

/-- The item capacity of a payload that opens now for segment `n`; 0 where it can carry none. -/
def Chip.stageCap (c : Chip) (n : Nat) : Nat :=
  if 96 ≤ n ∨ c.seg n = sgPLAIN then 0
  else
    let turns := (List.range 64).filter fun t => (c.oper n t).kind == 3
    match (turns.map fun t => (c.oper n t).maxPay).min? with
    | some m => (m - 20) / 4
    | none => 0

/-- Items expire (Table 11.9, R389). -/
def Chip.itemsExpire (c : Chip) (key k : Nat) : Chip :=
  if k = 0 then c
  else ((c.bumpBy DISTAFF.ITEMS_EXPIRED_COUNT k).raise EV.DISTAFF_EXPIRED).fateLost key k

/-- One item goes to segment staging. -/
def Chip.stageItem (c : Chip) (key : Nat) (h : Share) (it : Item) : Chip :=
  let c := { c with fates := Tab.upd {} c.fates key fun f => { f with taken := f.taken + 1 } }
  let c := c.updShare key fun h => { h with staged := h.staged + 1 }
  if c.shareLate h then c.itemsExpire key 1
  else
    let g : Stage := match c.stage? key it.seg with
      | some g => g
      | none => { cap := c.stageCap it.seg }
    if g.cap = 0 then
      ((((c.bump DISTAFF.NO_TURN_COUNT).raise EV.DISTAFF_NO_TURN).fateLost key 1).updShare key fun h =>
        h.updCmd fun m => { m with noTurn := true })
    else
      let g := { g with items := g.items ++ [it], last := c.now }
      let c := c.setStage key it.seg (some g)
      if g.cap ≤ g.items.length then c.closeStage key it.seg else c

/-- Every open payload of the share closes. -/
def Chip.closeAll (c : Chip) (key : Nat) : Chip :=
  (List.range 96).foldl (fun d n =>
    match d.stage? key n with
    | some g => if g.closed then d else d.closeStage key n
    | none => d) c

/-- The share's LAST part and every lower one have been received (R389). -/
def Share.complete (h : Share) : Bool :=
  match h.lastPart with
  | some l => (List.range (l + 1)).all h.parts.contains
  | none => false

/-- No more items will come to the share: it is complete, or the manager's walk has ended. -/
def Share.closing (h : Share) : Bool :=
  match h.cmd with
  | some m => m.phase == .walked
  | none => h.complete

/-- A worker's share has 4,096 items staged and needs leave for the next (R389). -/
def Share.needsLeave (h : Share) : Bool := h.cmd.isNone && decide (4096 ≤ h.staged)

/-- Items of the share are staged while nothing stops it. -/
def Chip.pump (c : Chip) (key : Nat) : List Item → Chip
  | [] => c.updShare key fun h => { h with pending := [] }
  | it :: r =>
    match c.share? key with
    | none => c
    | some h =>
      let hold := c.updShare key fun h => { h with pending := it :: r }
      if h.stalled then hold
      else if h.needsLeave && !c.leaveHeld (.fanout key) then
        if h.asked then hold
        else
          let c := (c.updShare key fun h => { h with asked := true }).requestLeave (.fanout key)
          if c.leaveHeld (.fanout key) && !c.throttled then (c.stageItem key h it).pump key r
          else c.updShare key fun h => { h with pending := it :: r }
      else if c.burstPaused key then hold
      else (c.stageItem key h it).pump key r

/-- The items of a share past A + APPLY_LATE_TOL that are still to be staged expire at once, whatever holds staging (R389). -/
def Chip.expirePending (c : Chip) (key : Nat) : Chip :=
  match c.share? key with
  | some h =>
    if c.shareLate h then
      let k := h.pending.length
      let c := { c with fates := Tab.upd {} c.fates key fun f => { f with taken := f.taken + k } }
      (c.updShare key fun h => { h with staged := h.staged + k, pending := [] }).itemsExpire key k
    else c
  | none => c

/-- The share's items are staged as far as they can be; a share that gets no more items closes its payloads, and a worker
then releases its leave. Nothing is expanded outside RUN and HOLDOVER (R57), and a share that holds leave stages nothing while the
power manager throttles (R78). -/
def Chip.runShare (c : Chip) (key : Nat) : Chip :=
  let c := if c.running then c.expirePending key else c
  match c.share? key with
  | none => c
  | some h =>
    if !c.running || c.burstPaused key then c
    else
      let c := c.pump key h.pending
      match c.share? key with
      | some h =>
        if h.pending == [] && h.closing then
          let c := c.closeAll key
          if h.cmd.isNone then c.releaseLeave (.fanout key) else c
        else c
      | none => c

/-- Every share goes on, the oldest first. -/
def Chip.runShares (c : Chip) : Chip := (c.distaff.shares.map (·.1)).foldl Chip.runShare c

/-- 100 µs have passed without a new item (R390). -/
def Chip.stageIdle (c : Chip) (key n : Nat) : Bool :=
  match c.stage? key n with
  | some g => !g.closed && decide (g.last + 100 * usQ ≤ c.now)
  | none => false

def execStagingIdleClose (share : Nat) (n : Fin 96) (s : State) : Result :=
  run (fun c => c.whenDue (c.dom .core == domON && c.stageIdle share n.val) fun d => d.closeStage share n.val) s

/-- Payloads that wait for segment `n`'s command queue are queued while it has room, the oldest share first; a share none of
whose payloads waits may stage again. -/
def Chip.unstall (c : Chip) (n : Nat) : Chip :=
  let keys := c.distaff.shares.map (·.1)
  let c := keys.foldl (fun d k => match d.stage? k n with
    | some g => if g.closed then d.closeStage k n else d
    | none => d) c
  keys.foldl (fun d k =>
    if (List.range 96).any fun m => (match d.stage? k m with | some g => g.closed | none => false) then d
    else d.updShare k fun h => { h with stalled := false }) c

/-! ### Withdrawal, expiry, the apply event -/

/-- The items of the share that are staged, queued or still to be staged leave; their number. -/
def Chip.takeItems (c : Chip) (key : Nat) : Chip × Nat :=
  let pend := match c.share? key with | some h => h.pending.length | none => 0
  let (c, k) := (List.range 96).foldl (fun (d, k) n =>
    let st := match d.stage? key n with | some g => g.items.length | none => 0
    let mine := ((d.eng n).cmdq.filter (·.share == key))
    let d := if st = 0 then d else d.setStage key n none
    let d := if mine == [] then d else d.setCmdq n ((d.eng n).cmdq.filter (·.share != key))
    (d, k + st + (mine.map (·.count)).sum)) (c, 0)
  let c := { c with fates := Tab.upd {} c.fates key fun f => { f with taken := f.taken + pend, lost := f.lost + k + pend } }
  (c.updShare key fun h => { h with pending := [], stalled := false }, k + pend)

/-- Items withdrawn by CANCEL or a role change count (R396, R397). -/
def Chip.staleDiscard (c : Chip) (key : Nat) : Chip :=
  let (c, k) := c.takeItems key
  if k = 0 then c else (c.bumpBy DISTAFF.STALE_DISCARDS_COUNT k).raise EV.DISTAFF_STALE_DISCARD

/-- The share is no longer held: its leave and its fates go with it. -/
def Chip.dropShare (c : Chip) (key : Nat) : Chip :=
  let c := (c.releaseLeave (.fanout key)).setShare key none
  { c with fates := Tab.put {} c.fates key {} }

/-- At A + TOL every payload of the share expires (R392). -/
def Chip.expireShare (c : Chip) (key : Nat) : Chip :=
  let (c, k) := c.takeItems key
  let c := if k = 0 then c else (c.bumpBy DISTAFF.ITEMS_EXPIRED_COUNT k).raise EV.DISTAFF_EXPIRED
  c.updShare key fun h => { h with expired := true }

/-- A + TOL has come. -/
def Chip.expireDue (c : Chip) (h : Share) : Bool := decide (h.applyQ + (c.applyTol : Nat) ≤ c.net)

/-- The apply event of a share fires once, as a watermarked event (R393, R115). -/
def Chip.applyEvent (c : Chip) (key : Nat) : Chip :=
  match c.share? key with
  | some h => if !h.fired && c.fires && decide (h.applyQ ≤ c.net) then c.updShare key fun h => { h with fired := true } else c
  | none => c

def execApplyEvent (share : Nat) (s : State) : Result := run (fun c => c.applyEvent share) s

/-! ### SHARE_DONE (R385, R393) -/

/-- Every item of the share has its fate. -/
def Chip.settled (c : Chip) (key : Nat) (h : Share) : Bool :=
  let f := c.fatesOf key
  h.pending == [] && f.taken == f.onTime + f.late + f.lost

/-- One copy of SHARE_DONE, where the worker is bound. -/
def Chip.shareDoneCopy (c : Chip) (key : Nat) (h : Share) (left : Nat) : Chip :=
  let c := if c.on HANK.BIND_STATUS_MGR_VALID then
      c.hankSend { typ := hkSHAREDONE, worker := 0, seq := 0, octets := h.doneMsg } else c
  if left = 0 then c.dropShare key
  else c.setShare key (some { h with repeats := some left, nextAt := c.now + max 1 (c.fld HANK.TIMERS_ACK_TIMEOUT_US) * usQ })

/-- SHARE_DONE is due: never before the apply event, at A + TOL at the latest. -/
def Chip.shareDoneDue (c : Chip) (key : Nat) (h : Share) : Bool :=
  h.cmd.isNone && h.repeats.isNone && h.fired && ((h.complete && c.settled key h) || c.expireDue h)

def Chip.shareDoneSend (c : Chip) (key : Nat) : Chip :=
  match c.share? key with
  | some h =>
    if c.shareDoneDue key h then
      let c := if c.expireDue h then c.expireShare key else c
      let f := c.fatesOf key
      let body := beBytes 4 f.onTime ++ beBytes 4 f.late ++ beBytes 4 f.lost
      let h := { h with expired := true, pending := [],
                        doneMsg := c.hankOctets hkSHAREDONE 0 (c.freeVal % 65536) h.cmdId false body }
      c.drawn.shareDoneCopy key h (c.fld HANK.TIMERS_RETRIES)
    else c
  | none => c

def execShareDoneSend (share : Nat) (s : State) : Result :=
  run (fun c => c.whenDue (c.dom .core == domON) fun d => d.shareDoneSend share) s

def Chip.shareDoneRepeat (c : Chip) (key : Nat) : Chip :=
  match c.share? key with
  | some h => match h.repeats with
    | some k => if h.nextAt ≤ c.now then c.shareDoneCopy key h (k - 1) else c
    | none => c
  | none => c

def execShareDoneRepeat (share : Nat) (s : State) : Result :=
  run (fun c => c.whenDue (c.dom .core == domON) fun d => d.shareDoneRepeat share) s

end Sys2Proof.Machine
end

