-- ==== Sys2Proof/Machine/Fanout.lean ====
section
/-!
DEFINITION. Machine/Fanout.lean: fan-out commands at the manager (R373 to R381, R394, R396, R397): the directory in DRAM, the
walk, the workers' frames, completion and abort.
Log entries: DEDUCED 39, 70, 73, 75; DESIGN CHOICE 8, 11 (notes/assumptions).
-/
namespace Sys2Proof.Machine

/-! ### The directory and the group table in DRAM (R373, R403) -/

/-- The usable DRAM in octets. -/
def Chip.dramSize (c : Chip) : Nat := c.fld DRAM.STATUS_USABLE_MIB * 2 ^ 20

def Chip.dirAddr (c : Chip) (i : Nat) : Nat := c.fld DISTAFF.DIR_BASE_PAGE * 4096 + 16 * i
def Chip.groupAddr (c : Chip) (g : Nat) : Nat := c.fld DISTAFF.GROUP_BASE_PAGE * 4096 + 16 * g

/-- The four words of the entry at `a`. -/
def Chip.dramEntry (c : Chip) (a : Nat) : List Nat := (List.range 4).map fun j => leNat (Tab.slice 0 c.dram (a + 4 * j) 4)

/-- Four words written whole; nothing lies beyond the usable space. -/
def Chip.dramWrite (c : Chip) (a : Nat) (w : List Nat) : Chip :=
  if a + 16 ≤ c.dramSize then
    ({ c with dram := Tab.putList 0 c.dram a ((List.range 4).flatMap fun j => leBytes 4 (w.getD j 0)) }).sramWrite 4 (.cell .dir (a / 16))
  else c

/-- A DRAM error at `a` counts (R403). -/
def Chip.dramError (c : Chip) (a : Nat) (uncorr : Bool) : Chip :=
  if uncorr then ((c.bump DRAM.ECC_UNCORR_COUNT).setFld DRAM.ERR_ADDR_LINE (a / 64)).raise EV.DRAM_ECC_UNCORR
  else (c.bump DRAM.ECC_CORR_COUNT).raise EV.DRAM_ECC_CORR

/-- A read of the entry at `a`, none where it is uncorrectable or lies beyond the usable space. A bad line of the cache is reported, and
read again from DRAM where it is uncorrectable (Table 12.7). `ecc` lists the addresses
whose reads meet an error, and whether it is uncorrectable. -/
def Chip.dramRead (c : Chip) (ecc : List (Nat × Bool)) (a : Nat) : Chip × Option (List Nat) :=
  if c.dramSize < a + 16 then (c, none)
  else
    let c := (c.sramRead none (· == .cell .dir (a / 16))).1
    match ecc.find? (·.1 == a) with
    | some (_, bad) => (c.dramError a bad, if bad then none else some (c.dramEntry a))
    | none => (c, some (c.dramEntry a))

/-- TOTAL of a group, for the leave decision (R380). -/
def Chip.groupTotal (c : Chip) (g : Nat) : Nat :=
  if c.dramSize < c.groupAddr g + 16 then 0 else bitsOf ((c.dramEntry (c.groupAddr g)).getD 3 0) 25 0

/-! ### Commands in flight -/

/-- How many fan-out commands are in flight (STATUS.CMDS, R379). -/
def Chip.cmdCount (c : Chip) : Nat := (c.txOps.filter (·.2.fan)).length

def Chip.updFan (c : Chip) (key : Nat) (f : FanCmd → FanCmd) : Chip := c.updShare key fun h => h.updCmd f

/-- The instant of a TS96 in 1/64 ns (R95). -/
def ts96Of (ns lo hi : Nat) : Int := (signed 48 (lo + bitsOf hi 15 0 * 2 ^ 32) * 1000000000 + ns) * 64 + bitsOf hi 21 16

/-- The Distaff accepts a FANOUT (R379); none while 256 commands are in flight. -/
def Chip.fanAccept (c : Chip) (t : Nat) : Option Chip :=
  if !c.isManager then some ((c.updOp t fun o => { o with handed := true }).opDone t csNOTMANAGER)
  else if 256 ≤ c.cmdCount then none
  else
    let w := (c.op t).words
    let lead := bitsOf (w.getD 6 0) 15 0
    let m : FanCmd := { tag := t, group := bitsOf (w.getD 1 0) 15 0, typ := bitsOf (w.getD 1 0) 23 16,
                        noDesc := (w.getD 1 0).testBit 24, value := bitsOf (w.getD 2 0) 15 0,
                        leadMs := if lead = 0 then c.fld DISTAFF.CFG_DEFAULT_LEAD_MS else lead }
    let h : Share := { cmdId := c.fld DISTAFF.NEXT_CMD_ID_ID, apply := ts96Of (w.getD 3 0) (w.getD 4 0) (w.getD 5 0),
                       ramp := bitsOf (w.getD 2 0) 31 16, cmd := some m }
    some (((c.updOp t fun o => { o with handed := true, fan := true }).bumpWrap DISTAFF.NEXT_CMD_ID_ID).addShare h)

/-- START = A − LEAD_MS, in 2^-32 ns (R380). -/
def Share.startQ (h : Share) (m : FanCmd) : Int := h.applyQ - (m.leadMs * msQ : Nat)

/-- How many workers that were sent a part have not replied. -/
def FanCmd.missing (m : FanCmd) : Nat := (m.replies.filter fun e => e.2.sent && !e.2.done).length

/-- The counts of a command: items ON_TIME and LATE, here and at the workers. -/
def Chip.fanOnTime (c : Chip) (key : Nat) (m : FanCmd) : Nat := (c.fatesOf key).onTime + (m.replies.map (·.2.onTime)).sum
def Chip.fanLate (c : Chip) (key : Nat) (m : FanCmd) : Nat := (c.fatesOf key).late + (m.replies.map (·.2.late)).sum

/-- The RESULT words (R394). -/
def Chip.fanResult (c : Chip) (key : Nat) (m : FanCmd) : Chip :=
  let bit (b : Bool) (i : Nat) : Nat := if b then 2 ^ i else 0
  c.updOp m.tag fun o =>
    { o with r6 := c.fanOnTime key m % 2 ^ 25 + bit m.noWorker 25 + bit m.dirError 26 + bit m.loop 27 + bit m.noTurn 28,
             r7 := c.fanLate key m % 2 ^ 25 + min 127 m.missing * 2 ^ 25 }

/-- The status of a command that has run (Table 11.10). -/
def Chip.fanStatus (c : Chip) (key : Nat) (m : FanCmd) : Nat :=
  let on := c.fanOnTime key m
  let late := c.fanLate key m
  if m.groupInvalid then csGROUPINVALID
  else if on + late < m.matched || m.noWorker || m.dirError || m.loop || m.noTurn || m.missing != 0 then csAPPLIEDPART
  else if 0 < late then csAPPLIEDLATE else csOK

/-- Messages of a command that has ended belong to no operation any more; the items of a frame that goes out whole are still
handed over (R378). -/
def Chip.orphanMsgs (c : Chip) (key : Nat) : Chip :=
  c.updHank fun h => { h with msgs := h.msgs.map fun e => (e.1, e.2.map fun (m : HankMsg) =>
    if m.share = key then { m with tag := none } else m) }

/-- The command ends with a status: its completion is due, and its share, leave and messages are let go. -/
def Chip.fanEnd (c : Chip) (key : Nat) (m : FanCmd) (status : Nat) : Chip :=
  let c := c.fanResult key m
  let c := if c.opLive m.tag then c.opDone m.tag status else c
  (c.orphanMsgs key).dropShare key

/-- A change of the command at `key`, where there is one. -/
def Chip.onFan (c : Chip) (key : Nat) (f : Chip → Share → FanCmd → Chip) : Chip :=
  match c.share? key with
  | some h => match h.cmd with
    | some m => f c h m
    | none => c
  | none => c

/-! ### Leave and expiry (R380) -/

/-- The command needs leave: its group's TOTAL exceeds 4,096. -/
def Chip.fanHeavy (c : Chip) (m : FanCmd) : Bool := decide (4096 < c.groupTotal m.group)

def Chip.fanLeave (c : Chip) (key : Nat) : Chip :=
  c.onFan key fun c h m =>
    if m.phase == .waiting && !h.asked && c.fanHeavy m && decide (h.startQ m - (msQ : Nat) ≤ c.net) then
      let refused := c.leaveAnswer (.fanout key) == .refused
      let c := (c.updShare key fun h => { h with asked := true }).requestLeave (.fanout key)
      if refused then c.fanEnd key m csNOLEAVE else c
    else c

def execFanoutLeaveRequest (share : Nat) (s : State) : Result :=
  run (fun c => c.whenDue (c.dom .core == domON) fun d => d.fanLeave share) s

def Chip.fanExpired (c : Chip) (key : Nat) : Chip :=
  c.onFan key fun c h m => if m.phase == .waiting && c.shareLate h then c.fanEnd key m csAPPLYEXPIRED else c

def execFanoutApplyExpired (share : Nat) (s : State) : Result := run (fun c => c.fanExpired share) s

/-! ### The walk (R374, R375, R381) -/

/-- The largest number of items of a FANOUT frame (R383). -/
def Chip.frameItems (c : Chip) : Nat := if c.on HANK.TX_CFG_VLAN_EN then 291 else 292

/-- A worker's open FANOUT frame is sent (R381, Table 11.6). -/
def Chip.sendOpen (c : Chip) (key w : Nat) (last : Bool) : Chip :=
  c.onFan key fun c h m =>
    let o := Tab.get {} m.opens w
    let body := beBytes 6 (stampSec h.apply) ++ beBytes 4 (stampNs h.apply) ++ beBytes 2 h.ramp ++ beBytes 2 o.part ++
      beBytes 2 o.items.length ++ beBytes 2 0 ++
      o.items.flatMap fun i => beBytes 1 i.seg ++ beBytes 1 i.node ++ beBytes 1 i.obj ++ beBytes 2 i.value
    let c := c.updFan key fun m => { m with opens := Tab.put {} m.opens w { o with items := [], part := o.part + 1 } }
    c.toWorker hkFANOUT w h.cmdId last body key (some m.tag) o.items.length

/-- An item for worker `w`: an open frame that holds as many as its limit is sent before and after (R381, R383). -/
def Chip.workerItem (c : Chip) (key w : Nat) (it : Item) : Chip :=
  if c.wtState w ≠ wtBOUND then
    ((c.bump DISTAFF.NO_WORKER_COUNT).raise EV.DISTAFF_NO_WORKER).updFan key fun m => { m with noWorker := true }
  else
    let full (c : Chip) : Chip :=
      c.onFan key fun c _ m => if c.frameItems ≤ (Tab.get {} m.opens w).items.length then c.sendOpen key w false else c
    full ((full c).updFan key fun m =>
      { m with opens := Tab.upd {} m.opens w fun o => { o with items := o.items ++ [it], last := c.now } })

/-- A member is skipped or matched (R375); `e` is its index and `w` its entry. -/
def Chip.visit (c : Chip) (key : Nat) (h : Share) (m : FanCmd) (e : Nat) (w : List Nat) : Chip :=
  let w0 := w.getD 0 0
  let w1 := w.getD 1 0
  let w2 := w.getD 2 0
  if bitsOf w1 31 31 = 0 ∨ 95 < bitsOf w1 14 8 then c.bump DISTAFF.DIR_INVALID_COUNT
  else if m.typ ≠ 0xFF ∧ m.typ ≠ bitsOf w0 31 25 then c
  else
    let v := min 0xFFFF (m.value * bitsOf w2 15 0 / 32768)
    let c := c.dramWrite (c.dirAddr e) [w0, w1, bitsOf w2 15 0 + v * 65536, w.getD 3 0]
    let c := c.updFan key fun m => { m with matched := m.matched + 1 }
    let it : Item := { seg := bitsOf w1 14 8, node := bitsOf w1 20 15, obj := bitsOf w1 26 21, value := v }
    if bitsOf w1 7 0 = 0 then c.stageItem key h it else c.workerItem key (bitsOf w1 7 0) it

/-- The walk goes on with `l`. -/
def Chip.setWalk (c : Chip) (key : Nat) (l : List WalkItem) : Chip := c.updFan key fun m => { m with walk := l }

/-- The walk meets a loop (R374). -/
def Chip.walkLoop (c : Chip) (key : Nat) (l : List WalkItem) : Chip :=
  ((c.updFan key fun m => { m with loop := true }).raise EV.DISTAFF_GROUP_LOOP).setWalk key l

/-- The children of group `g` at `depth`, after its own chain. -/
def childItems (m : FanCmd) (g child depth : Nat) (r : List WalkItem) : List WalkItem :=
  if m.noDesc ∨ child = g then r else .group child (depth + 1) :: .sibling child (depth + 1) :: r

/-- A group descriptor that is not valid (R374). -/
def Chip.walkBad (c : Chip) (key depth : Nat) (r : List WalkItem) : Chip :=
  (c.updFan key fun m => if depth = 0 then { m with groupInvalid := true } else { m with dirError := true }).setWalk key r

/-- A chain ends at an entry whose ENDPOINT_ID does not match (R374). -/
def Chip.walkDirError (c : Chip) (key : Nat) (rest : List WalkItem) : Chip :=
  (((c.bump DISTAFF.DIR_ERRORS_COUNT).raise EV.DISTAFF_DIR_ERROR).updFan key fun m => { m with dirError := true }).setWalk key rest

/-- One item of the walk (R374). A child list at depth 16 sets LOOP and reaches no member, so the rest of it is left out; past
65,536 groups every further group only sets LOOP. -/
def Chip.walkStep (c : Chip) (key : Nat) (ecc : List (Nat × Bool)) (h : Share) (m : FanCmd) (it : WalkItem)
    (r : List WalkItem) : Chip :=
  match it with
  | .group g depth =>
    if depth = 16 then c.walkLoop key r.tail
    else if 65536 ≤ m.seen then c.walkLoop key []
    else
      let c := c.updFan key fun m => { m with seen := m.seen + 1 }
      match c.dramRead ecc (c.groupAddr g) with
      | (c, some w) =>
        if bitsOf (w.getD 0 0) 31 31 = 1 then
          c.setWalk key (.member (bitsOf (w.getD 0 0) 24 0) (bitsOf (w.getD 1 0) 25 0) g (bitsOf (w.getD 2 0) 15 0) depth :: r)
        else c.walkBad key depth r
      | (c, none) => c.walkBad key depth r
  | .member e left g child depth =>
    let rest := childItems m g child depth r
    if left = 0 then c.setWalk key rest
    else
      match c.dramRead ecc (c.dirAddr e) with
      | (c, some w) =>
        if bitsOf (w.getD 0 0) 24 0 ≠ e then c.walkDirError key rest
        else
          let next := bitsOf (w.getD 3 0) 24 0
          (c.visit key h m e w).setWalk key (if next = e then rest else .member next (left - 1) g child depth :: r)
      | (c, none) => c.walkDirError key rest
  | .sibling k depth =>
    match c.dramRead ecc (c.groupAddr k) with
    | (c, some w) =>
      let next := bitsOf (w.getD 2 0) 31 16
      c.setWalk key (if next = k then r else .group next depth :: .sibling next depth :: r)
    | (c, none) => c.setWalk key r

/-- The walk goes on until it ends or its staging stops; `fuel` is more than any walk takes. -/
def Chip.walkGo (key : Nat) (ecc : List (Nat × Bool)) : Nat → Chip → Chip
  | 0, c => c
  | fuel + 1, c =>
    match c.share? key with
    | some h => match h.cmd with
      | some m =>
        if h.stalled then c
        else match m.walk with
          | [] => c
          | it :: r => Chip.walkGo key ecc fuel (c.walkStep key ecc h m it r)
      | none => c
    | none => c

/-- The walk has ended: its leave is released, every open frame is sent with LAST, and every payload closes. -/
def Chip.walkEnd (c : Chip) (key : Nat) : Chip :=
  c.onFan key fun c _ m =>
    if m.phase == .walking && m.walk == [] then
      let c := (c.updFan key fun m => { m with phase := .walked }).releaseLeave (.fanout key)
      let c := m.opens.foldl (fun d e => if e.2.items == [] then d else d.sendOpen key e.1 true) c
      c.closeAll key
    else c

/-- A walk in progress goes on. A throttled power manager pauses one that holds leave (R78), and nothing is expanded in SAFE. -/
def Chip.walkOn (c : Chip) (key : Nat) (ecc : List (Nat × Bool)) : Chip :=
  c.onFan key fun c _ m =>
    if m.phase == .walking && c.running && !c.burstPaused key then
      Chip.walkEnd (Chip.walkGo key ecc (2 ^ 64) c) key
    else c

/-- The expansion begins (R380). -/
def Chip.fanStart (c : Chip) (key : Nat) (ecc : List (Nat × Bool)) : Chip :=
  c.onFan key fun c h m =>
    if m.phase == .waiting && c.running && !c.burstPaused key && decide (h.startQ m ≤ c.net) && !c.shareLate h &&
        (!c.fanHeavy m || c.leaveHeld (.fanout key)) then
      (c.wakeDistaff.updFan key fun m => { m with phase := .walking, walk := [.group m.group 0] }).walkOn key ecc
    else c

def execFanoutStart (share : Nat) (ecc : List (Nat × Bool)) (s : State) : Result :=
  run (fun c => c.whenDue (c.dom .core == domON) fun d => d.fanStart share ecc) s

/-- 100 µs have passed without a new item for worker `w` (R381). -/
def Chip.openIdle (c : Chip) (key w : Nat) : Bool :=
  match c.share? key with
  | some h => match h.cmd with
    | some m =>
      let o := Tab.get {} m.opens w
      o.items != [] && decide (o.last + 100 * usQ ≤ c.now)
    | none => false
  | none => false

def execFanoutFrameIdleSend (share : Nat) (w : Fin 256) (s : State) : Result :=
  run (fun c => c.whenDue (c.dom .core == domON && c.openIdle share w.val) fun d => d.sendOpen share w.val false) s

/-- Every walk in progress goes on, and every share. -/
def Chip.resumeAll (c : Chip) (ecc : List (Nat × Bool)) : Chip :=
  ((c.distaff.shares.map (·.1)).foldl (fun d k => d.walkOn k ecc) c).runShares

/-- Room in a command queue (R390): waiting payloads are queued, and what stopped on them goes on. -/
def execStagingResume (n : Fin 96) (ecc : List (Nat × Bool)) (s : State) : Result :=
  run (fun c => c.whenDue (c.dom .core == domON) fun d => (d.unstall n.val).resumeAll ecc) s

/-- A + TOL (R392); a walk that had stopped on expired payloads goes on. -/
def Chip.commandExpire (c : Chip) (key : Nat) (ecc : List (Nat × Bool)) : Chip :=
  match c.share? key with
  | some h => if !h.expired && c.expireDue h then (c.expireShare key).walkOn key ecc else c
  | none => c

def execCommandExpire (share : Nat) (ecc : List (Nat × Bool)) (s : State) : Result := run (fun c => c.commandExpire share ecc) s

/-! ### Completion (R394) -/

/-- The apply event has fired, every local item has a fate, and every worker that was sent a part has replied. -/
def Chip.fanReady (c : Chip) (key : Nat) (h : Share) (m : FanCmd) : Bool :=
  m.phase == .walked && h.fired && c.settled key h && m.missing == 0

def Chip.fanComplete (c : Chip) (key : Nat) : Chip :=
  c.onFan key fun c h m => if c.fanReady key h m then c.fanEnd key m (c.fanStatus key m) else c

def execFanoutComplete (share : Nat) (s : State) : Result :=
  run (fun c => c.whenDue (c.dom .core == domON) fun d => d.fanComplete share) s

/-- A + TOL + REPLY_WAIT has come for a command that has begun. -/
def Chip.replyLate (c : Chip) (h : Share) (m : FanCmd) : Bool :=
  m.phase != .waiting && decide (h.applyQ + (c.applyTol + c.fld DISTAFF.REPLY_WAIT_MS * msQ : Nat) ≤ c.net)

/-- The command completes without the replies that are missing. -/
def Chip.replyMissing (c : Chip) (key : Nat) : Chip :=
  c.onFan key fun c h m =>
    if c.replyLate h m then
      let c := if h.expired then c else c.expireShare key
      let c := if m.missing = 0 then c
        else (c.bumpBy DISTAFF.REPLY_MISSING_COUNT m.missing).raise EV.DISTAFF_REPLY_MISSING
      c.fanEnd key m (c.fanStatus key m)
    else c

def execReplyMissing (share : Nat) (s : State) : Result := run (fun c => c.replyMissing share) s

/-! ### Abort and loss of the role (R396, R397) -/

/-- The numbers of the FANOUT messages of a command, with their workers. -/
def Chip.fanMsgs (c : Chip) (key : Nat) : List (Nat × Nat) :=
  c.hank.msgs.filterMap fun e => match e.2 with
    | some m => if m.share == key && m.typ == hkFANOUT then some (e.1, m.worker) else none
    | none => none

/-- The frame of message `id` is on the wire. -/
def Chip.onWire (c : Chip) (id : Nat) : Bool :=
  (List.range 4).any fun n =>
    let is (t : Option UplTx) : Bool := match t with | some t => t.pkt.hank == some id | none => false
    is (c.upl n).cur || is (c.upl n).cont

/-- The messages `ids` end, for operation `tag`: one whose first frame is on the wire goes when that frame ends, and the others
at once. -/
def Chip.closeMsgs (c : Chip) (ids : List Nat) (tag : Option Nat) : Chip :=
  let wire := (c.hank.msgs.map (·.1)).filter c.onWire
  let left (e : Nat × Option HankMsg) : Option (Nat × Option HankMsg) :=
    if ids.contains e.1 then
      match e.2 with
      | some m => if wire.contains e.1 && !m.handed then some (e.1, some { m with tag := tag, closing := true }) else none
      | none => none
    else some e
  c.updHank fun h => { h with msgs := h.msgs.filterMap left }

/-- Messages that no longer are: their frames that have not started leave the queues. -/
def Chip.pullHank (c : Chip) (ids : List Nat) (tag : Option Nat) : Chip :=
  let keep (p : Packet) : Bool := match p.hank with | some i => !ids.contains i | none => true
  let c := (List.range 4).foldl (fun d n => (List.range 8).foldl (fun e k => e.setQueue n k ((e.queue n k).filter keep)) d) c
  (c.updHank fun h => { h with held := h.held.filter fun e => keep e.2 }).closeMsgs ids tag

/-- ABORT of an accepted FANOUT: nothing more goes out, local items are withdrawn, and CANCEL goes to each worker that was
sent a part (R396). A frame on the wire finishes; a command that has started completes when the last of them has (R363). -/
def Chip.fanAbort (c : Chip) (key : Nat) : Chip :=
  c.onFan key fun c h m =>
    let started := c.tagState m.tag != lgNOT
    let msgs := c.fanMsgs key
    let wire := (msgs.filter fun e => c.onWire e.1).map (·.2)
    let ws := (m.replies.filter (·.2.sent)).map (·.1)
    let ws := ws ++ (wire.filter fun w => !ws.contains w).eraseDups
    let c := ((c.pullHank (msgs.map (·.1)) (if started then some m.tag else none)).takeItems key).1.fanResult key m
    let c := ws.foldl (fun d w => d.toWorker hkCANCEL w h.cmdId false [] 0 none 0) c
    let c := if started then c.abortEnd m.tag else c.opFlushed m.tag
    c.dropShare key

/-- The command whose operation has the tag. -/
def Chip.fanOfTag (c : Chip) (t : Nat) : Option Nat :=
  c.distaff.shares.findSome? fun e => match e.2 with
    | some h => match h.cmd with
      | some m => if m.tag == t then some e.1 else none
      | none => none
    | none => none

/-- The part leaves MANAGER: every FANOUT and REMOTE_REG in flight completes with ROLE_LOST, and a frame on the wire finishes
(Table 11.13). -/
def Chip.managerLost (c : Chip) : Chip :=
  let c := (c.distaff.shares.map (·.1)).foldl (fun d k => d.onFan k fun d _ m =>
    let d := d.fanResult k m
    let d := if d.opLive m.tag then d.opDone m.tag csROLELOST else d
    (d.staleDiscard k).dropShare k) c
  let c := c.txOps.foldl (fun d e =>
    let oc := d.fld HOSTQ.LEDGER_ENTRY0_OPCODE 0 e.1
    if d.opLive e.1 && e.2.handed && (oc == opREMOTE || oc == opFANOUT) then d.opDone e.1 csROLELOST else d) c
  (c.closeMsgs (c.hank.msgs.map (·.1)) none).updHank fun h => { h with regQ := [] }

/-- A worker's shares are withdrawn (Table 11.13). -/
def Chip.sharesLost (c : Chip) : Chip :=
  let c := (c.distaff.shares.map (·.1)).foldl (fun d k => match d.share? k with
    | some h => if h.cmd.isNone then (d.staleDiscard k).dropShare k else d
    | none => d) c
  c.updHank fun h => { h with resp := none }

/-- The role has changed from `old` (Table 11.13, R386, R387). -/
def Chip.roleChanged (c : Chip) (old : Nat) : Chip :=
  let c := if old = roleMANAGER then c.managerLost else if old = roleWORKER then c.sharesLost else c
  let c := c.unbind
  if c.isManager then c.wtRestart else c

end Sys2Proof.Machine
end

