-- ==== Sys2Proof/Machine/Dir.lean ====
section
/-!
DEFINITION. Machine/Dir.lean: host access to the directory (R376), directory bulk loads (R377) and the DRAM scrub (R403).
Log entries: DEDUCED 71, 74; DESIGN CHOICE 38 (notes/assumptions).
-/
namespace Sys2Proof.Machine

/-! ### DIR_CMD (R376) -/

/-- The address that DIR_SEL names, none where the group table has no such entry. -/
def Chip.dirSelAddr (c : Chip) : Nat :=
  let i := c.fld DISTAFF.DIR_SEL_INDEX
  if c.on DISTAFF.DIR_SEL_KIND then c.groupAddr (i % 65536) else c.dirAddr i

/-- READ copies the entry into DIR_WORD0 to DIR_WORD3. -/
def Chip.dirRead (c : Chip) (ecc : Option Bool) : Chip :=
  let a := c.dirSelAddr
  if !c.on GLOBAL.ROLE_DRAM_READY then c.setFld DISTAFF.DIR_STATUS_ERROR 1
  else match c.dramRead (match ecc with | some b => [(a, b)] | none => []) a with
    | (c, some w) =>
      (List.range 4).foldl (fun d j => d.setFld DISTAFF.DIR_WORD_DATA (w.getD j 0) 0 j) (c.setFld DISTAFF.DIR_STATUS_ERROR 0)
    | (c, none) => c.setFld DISTAFF.DIR_STATUS_ERROR 1

/-- WRITE writes the entry whole. -/
def Chip.dirWrite (c : Chip) : Chip :=
  let a := c.dirSelAddr
  if !c.on GLOBAL.ROLE_DRAM_READY ∨ c.dramSize < a + 16 then c.setFld DISTAFF.DIR_STATUS_ERROR 1
  else (c.dramWrite a ((List.range 4).map fun j => c.fld DISTAFF.DIR_WORD_DATA 0 j)).setFld DISTAFF.DIR_STATUS_ERROR 0

/-- A write of DIR_CMD; a write with both bits set writes, then reads. BUSY reads 1 until the next AON tick. -/
def Chip.dirCmd (c : Chip) (p : Port) (v : Nat) (ecc : Option Bool) : Chip :=
  if c.on DISTAFF.DIR_STATUS_BUSY then c.refuse DISTAFF.DIR_CMD_READ p
  else
    let c := if bitsOf v 1 1 = 1 then c.dirWrite else c
    let c := if bitsOf v 0 0 = 1 then c.dirRead ecc else c
    if bitsOf v 1 0 = 0 then c else c.setFld DISTAFF.DIR_STATUS_BUSY 1

def execDirRead (port : Port) (value : Word) (ecc : Option Bool) (s : State) : Result :=
  run (fun c => c.accessField port DISTAFF.DIR_CMD_READ 0 fun d => d.dirCmd port value.toNat ecc) s

def execDirWrite (port : Port) (value : Word) (s : State) : Result :=
  run (fun c => c.accessField port DISTAFF.DIR_CMD_WRITE 0 fun d => d.dirCmd port value.toNat none) s

/-! ### Bulk load (R377) -/

def Chip.dirBulkSt (c : Chip) : Nat := c.fld DISTAFF.BULK_STATUS_STATE

/-- The load ends: its leave is released. -/
def Chip.dirBulkEnd (c : Chip) (st : Nat) : Chip := (c.setFld DISTAFF.BULK_STATUS_STATE st).releaseLeave .dirLoad

/-- GO starts a load, or is refused. -/
def Chip.dirBulkGo (c : Chip) (p : Port) : Chip :=
  if c.dirBulkSt = bkLEAVE ∨ c.dirBulkSt = bkRUNNING then c.refuse DISTAFF.BULK_CMD_GO p
  else
    let c := (c.updDistaff fun d => { d with bulkLeft := c.fld DISTAFF.BULK_COUNT_RECORDS }).setFld DISTAFF.BULK_STATUS_DONE 0
    match c.leaveAnswer .dirLoad with
    | .refused => ((c.requestLeave .dirLoad).setFld DISTAFF.BULK_STATUS_STATE bkNOLEAVE).raise EV.DISTAFF_BULK_ERROR
    | _ => (c.requestLeave .dirLoad).setFld DISTAFF.BULK_STATUS_STATE bkLEAVE

/-- The load's leave is granted: it is work for the Distaff (R70). -/
def Chip.dirBulkGranted (c : Chip) : Chip :=
  let c := c.wakeDistaff.setFld DISTAFF.BULK_STATUS_STATE bkRUNNING
  if c.distaff.bulkLeft = 0 then (c.dirBulkEnd bkDONE).raise EV.DISTAFF_BULK_DONE else c

/-- ABORT, and entry to STANDBY or SAFE, end a load. -/
def Chip.dirBulkAbort (c : Chip) : Chip :=
  if c.dirBulkSt = bkLEAVE ∨ c.dirBulkSt = bkRUNNING then c.dirBulkEnd bkABORTED else c

/-- A write of BULK_CMD. -/
def Chip.dirBulkCmd (c : Chip) (p : Port) (v : Nat) : Chip :=
  let c := if bitsOf v 0 0 = 1 then c.dirBulkGo p else c
  if bitsOf v 1 1 = 1 then c.dirBulkAbort else c

def execDistaffBulkGo (port : Port) (value : Word) (s : State) : Result :=
  run (fun c => c.accessField port DISTAFF.BULK_CMD_GO 0 fun d => d.dirBulkCmd port value.toNat) s

def execDistaffBulkAbort (port : Port) (value : Word) (s : State) : Result :=
  run (fun c => c.accessField port DISTAFF.BULK_CMD_ABORT 0 fun d => d.dirBulkCmd port value.toNat) s

/-- One record of six words is written whole, or skipped. -/
def Chip.dirRecord (c : Chip) (w : List Nat) : Chip :=
  let w0 := w.getD 0 0
  let i := bitsOf w0 24 0
  let group := bitsOf w0 31 31 = 1
  let words := (List.range 4).map fun j => w.getD (2 + j) 0
  if w.getD 1 0 ≠ 0 ∨ (group ∧ 65535 < i) then c
  else c.dramWrite (if group then c.groupAddr i else c.dirAddr i) words

/-- The next record has been read from host memory, or its read failed. -/
def Chip.dirBulkRecord (c : Chip) (r : Option (List Nat)) : Chip :=
  match r with
  | none => (c.dirBulkEnd bkERROR).raise EV.DISTAFF_BULK_ERROR
  | some w =>
    let c := (c.dirRecord w).bumpWrap DISTAFF.BULK_STATUS_DONE
    let c := c.updDistaff fun d => { d with bulkLeft := d.bulkLeft - 1 }
    if c.distaff.bulkLeft = 0 then (c.dirBulkEnd bkDONE).raise EV.DISTAFF_BULK_DONE else c

def execDistaffBulkRecord (rec : Option (List Word)) (s : State) : Result :=
  run (fun c => c.whenDue (c.dirBulkSt == bkRUNNING && !c.throttled)
    fun d => d.dirBulkRecord (rec.map fun l => l.map (·.toNat))) s

/-- The Distaff works (R70): a walk is in progress, items of a share are to be staged, or a directory load runs. -/
def Chip.distaffBusy (c : Chip) : Bool :=
  c.dirBulkSt == bkRUNNING || c.distaff.shares.any fun e => match e.2 with
    | some h => h.pending != [] || (match h.cmd with | some m => m.phase == .walking | none => false)
    | none => false

/-- The Distaff has been idle since the last clock at which it worked (R70). -/
def Chip.distaffTick (c : Chip) : Chip :=
  if c.distaffBusy then { c with modes := { c.modes with laneIdleSince := Tab.put 0 c.modes.laneIdleSince 11 c.now } } else c

/-! ### The scrub (R403) -/

def Chip.scrubSt (c : Chip) : Nat := c.fld DRAM.SCRUB_STATUS_STATE

/-- The leave operation of the scrub in progress: its channels. -/
def Chip.scrubOp (c : Chip) : LeaveOp := .scrub (BitVec.ofNat 2 c.distaff.scrub)

/-- The capacity in MiB that a density code gives (Table 11.20). -/
def densMib (d : Nat) : Nat := if d = 0 then 0 else 256 * 2 ^ d

/-- The MiB that the scrub of the masked channels covers. -/
def Chip.scrubMib (c : Chip) : Nat :=
  (if c.distaff.scrub % 2 = 1 ∧ c.on DRAM.STATUS_TRAINED0 then densMib (c.fld DRAM.STATUS_DENS0) else 0) +
    (if c.distaff.scrub / 2 = 1 ∧ c.on DRAM.STATUS_TRAINED1 then densMib (c.fld DRAM.STATUS_DENS1) else 0)

def Chip.scrubEnd (c : Chip) (st : Nat) : Chip := (c.setFld DRAM.SCRUB_STATUS_STATE st).releaseLeave c.scrubOp

def Chip.scrubGo (c : Chip) (p : Port) (mask : Nat) : Chip :=
  if c.scrubSt = bkLEAVE ∨ c.scrubSt = bkRUNNING then c.refuse DRAM.SCRUB_CMD_GO p
  else
    let c := (c.updDistaff fun d => { d with scrub := mask }).setFld DRAM.SCRUB_STATUS_DONE_MIB 0
    match c.leaveAnswer c.scrubOp with
    | .refused => (c.requestLeave c.scrubOp).setFld DRAM.SCRUB_STATUS_STATE bkNOLEAVE
    | _ => (c.requestLeave c.scrubOp).setFld DRAM.SCRUB_STATUS_STATE bkLEAVE

/-- ABORT, and entry to STANDBY or SAFE. How far a running scrub has got is a free value up to its whole range. -/
def Chip.scrubAbort (c : Chip) : Chip :=
  if c.scrubSt = bkRUNNING then
    (c.drawn.setFld DRAM.SCRUB_STATUS_DONE_MIB (c.freeVal % (c.scrubMib + 1))).scrubEnd bkABORTED
  else if c.scrubSt = bkLEAVE then c.scrubEnd bkABORTED
  else c

/-- Errors that the scrub's reads have met. -/
def Chip.dramErrors (c : Chip) (ecc : List (Nat × Bool)) : Chip := ecc.foldl (fun d e => d.dramError e.1 e.2) c

/-- A write of SCRUB_CMD. -/
def Chip.scrubCmd (c : Chip) (p : Port) (v : Nat) (ecc : List (Nat × Bool)) : Chip :=
  let c := if bitsOf v 0 0 = 1 then c.scrubGo p (bitsOf v 5 4) else c
  if bitsOf v 1 1 = 1 then
    (if c.scrubSt = bkRUNNING then c.dramErrors ecc else c).scrubAbort
  else c

def execScrubGo (port : Port) (value : Word) (s : State) : Result :=
  run (fun c => c.accessField port DRAM.SCRUB_CMD_GO 0 fun d => d.scrubCmd port value.toNat []) s

def execScrubAbort (port : Port) (value : Word) (ecc : List (Nat × Bool)) (s : State) : Result :=
  run (fun c => c.accessField port DRAM.SCRUB_CMD_ABORT 0 fun d => d.scrubCmd port value.toNat ecc) s

/-- The scrub's leave is granted. -/
def Chip.scrubGranted (c : Chip) : Chip := c.setFld DRAM.SCRUB_STATUS_STATE bkRUNNING

/-- The scrub has rewritten every word. -/
def Chip.scrubDone (c : Chip) (ecc : List (Nat × Bool)) : Chip :=
  let c := c.dramErrors ecc
  ((c.setFld DRAM.SCRUB_STATUS_DONE_MIB c.scrubMib).scrubEnd bkDONE).raise EV.DRAM_SCRUB_DONE

def execScrubDone (ecc : List (Nat × Bool)) (s : State) : Result :=
  run (fun c => c.whenDue (c.scrubSt == bkRUNNING && !c.throttled) fun d => d.scrubDone ecc) s


end Sys2Proof.Machine
end

