-- ==== Sys2Proof/Machine/SkeinRx.lean ====
section
/-!
DEFINITION. Machine/SkeinRx.lean: segment reception (R152 to R162, R186, R187, R220): the MAC checks, the placing of a frame
in its turn, receive slots, beacons and COLDSTARTs of other nodes, JOINs and ACKs.
Log entries: DEDUCED 42, 43, 44; DESIGN CHOICE 91 (notes/assumptions).
-/
namespace Sys2Proof.Machine

/-- The start of a frame in 2^-32 ns of monotonic time, from the instant of its timestamp point, which is stamped to 1/64 ns (R93,
R130, R186). -/
def Chip.frameStart (c : Chip) (stamp : Nat) : Int := round64 (c.edgeMono stamp) * 2 ^ 26 - (6400 * nsQ : Nat)

/-- The receive timestamp in 1/64 ns of network time (R93, R96). -/
def Chip.netOf (c : Chip) (stamp : Nat) : Int := round64 (c.edgeNet stamp)

/-! ### Adopting a cycle (R159, R161) -/

/-- The other node wins under R159. -/
def Chip.otherWins (c : Chip) (n : Nat) (b : BeaconBody) (src : Nat) : Bool :=
  let mine := c.fld SEGMENT.NODE_CFG_CS_PRIO n
  decide (b.prio < mine) || (b.prio == mine && decide (src < c.segMac n))

/-- MASTER_NODE and MASTER_MAC taken from a frame. -/
def Chip.noteMaster (c : Chip) (n : Nat) (b : BeaconBody) (src : Nat) : Chip :=
  (c.setFld SEGMENT.SYNC_STATUS_MASTER_NODE b.node n).setFld64 SEGMENT.MASTER_MAC_LO_ADDR SEGMENT.MASTER_MAC_HI_ADDR src n

/-- TABLE_ID and CYCLE_LEN match the oper table. -/
def Chip.tableMatches (c : Chip) (n : Nat) (b : BeaconBody) : Bool :=
  b.tableId == c.fld SEGMENT.TT_STATUS_OPER_TABLE_ID n && b.cycleLen == c.fld SEGMENT.OPER_CYCLE_LEN_NS n

/-- The cycle is anchored to a frame that starts at `start`: the adopted cycle start lies the line delay before it (R161, R177). `valid`
says that it is a BEACON of the oper table. -/
def Chip.anchorTo (c : Chip) (n : Nat) (f : SegFrame) (b : BeaconBody) (start : Int) (valid : Bool) : Chip :=
  let c := c.noteMaster n b f.src
  let c := c.openCycle n (start - c.lineDelay n).toNat b.cycleLen valid
  let c := c.updEng n fun e => { e with missRun := 0, lastMiss := none, opened := valid, tableId := b.tableId, listenEnd := none }
  c.setFld SEGMENT.SYNC_STATUS_CYCLE f.cycle n

/-- A BEACON, or a COLDSTART sent at a grid point, is adopted with its start; a COLDSTART sent under CSMA/CD without one, and
the listen timer restarts (R161). -/
def Chip.adopt (c : Chip) (n : Nat) (f : SegFrame) (b : BeaconBody) (start : Int) : Chip :=
  let c := ((c.dropCycle n).setFld SEGMENT.CS_STATUS_TRIAL_LEFT 0 n).setSync n sgFOLLOWWAIT false
  if f.typ = ftCOLDSTART ∧ b.trialLeft = 4 then
    ((c.noteMaster n b f.src).updEng n fun e => { e with cycleLen := b.cycleLen, tableId := b.tableId }).startListenTimer n
  else c.anchorTo n f b start (f.typ == ftBEACON && c.tableMatches n b)

/-! ### Beacons and COLDSTARTs (Table 04.13) -/

/-- A start lies within one cycle length `len` (2^-32 ns) after a predicted one (R162, R178). -/
def withinCycleAfter (len : Nat) (start : Int) (predicted : Nat) : Bool :=
  decide ((predicted : Int) ≤ start) && decide (start ≤ predicted + (len : Int))

/-- An EXT beacon follows the predicted start that was just missed within one cycle length; or the next one (R162). -/
def Chip.extAfterMiss (c : Chip) (n : Nat) (start : Int) : Bool :=
  (c.eng n).lastMiss.any (withinCycleAfter ((c.eng n).cycleLen * nsQ) start)
def Chip.extAccepts (c : Chip) (n : Nat) (start : Int) : Bool :=
  c.extAfterMiss n start || withinCycleAfter ((c.eng n).cycleLen * nsQ) start (c.eng n).predicted

/-- A beacon that a follower accepts: its table is compared, the full-cycle rule applied, a new master noted. -/
def Chip.acceptBeacon (c : Chip) (n : Nat) (f : SegFrame) (b : BeaconBody) (start : Int) : Chip :=
  if c.tableMatches n b then
    let other := c.seg n == sgFOLLOWER && c.fld64 SEGMENT.MASTER_MAC_LO_ADDR SEGMENT.MASTER_MAC_HI_ADDR n != f.src
    let c := if c.seg n = sgFOLLOWWAIT ∧ (c.eng n).anchored ∧ (c.eng n).opened then c.setSync n sgFOLLOWER true else c
    (if other then c.raise EV.SEGMENT_MASTER_CHANGE n else c).anchorTo n f b start true
  else
    let c := ((c.setSync n sgFOLLOWWAIT false).bump SEGMENT.TABLE_MISMATCH_COUNT n).raise EV.SEGMENT_FRAME_ERROR n
    c.anchorTo n f b start false

/-- A BEACON or COLDSTART that a follower hears. -/
def Chip.followRx (c : Chip) (n : Nat) (f : SegFrame) (b : BeaconBody) (start : Int) : Chip :=
  let e := c.eng n
  let d := (start - e.predicted) / (nsQ : Int)
  if f.typ = ftCOLDSTART ∧ b.trialLeft = 4 then (if e.anchored then c else c.adopt n f b start)
  else if f.typ = ftCOLDSTART then
    if c.seg n = sgFOLLOWWAIT ∧ (¬ e.anchored ∨ c.inWindow n d) then
      c.anchorTo n f b start false
    else c
  else if ¬ e.anchored then c.acceptBeacon n f b start
  else if c.inWindow n d then (c.driftUpdate n (b.node % 64) d (some f.src)).acceptBeacon n f b start
  else if f.flags.testBit 5 && c.extAccepts n start then
    let c := if c.extAfterMiss n start then c.setFld SEGMENT.BEACON_MISS_COUNT (c.fld SEGMENT.BEACON_MISS_COUNT n - 1) n else c
    c.acceptBeacon n f b start
  else
    let d' := (start - e.cycleStart) / (nsQ : Int)
    c.windowFault n (b.node % 64) (if d'.natAbs < d.natAbs then d' else d)

/-- A valid BEACON or COLDSTART of another node (Table 04.13). -/
def Chip.syncRx (c : Chip) (n : Nat) (f : SegFrame) (b : BeaconBody) (start : Int) : Chip :=
  let st := c.seg n
  if st = sgLISTEN ∨ st = sgCONTEND then c.adopt n f b start
  else if st = sgTRIAL then
    if f.typ = ftBEACON ∨ c.otherWins n b f.src then c.adopt n f b start else c.bump SEGMENT.FOREIGN_MASTER_COUNT n
  else if st = sgMASTER then
    if f.typ = ftBEACON ∧ c.otherWins n b f.src then (c.adopt n f b start).raise EV.SEGMENT_MASTER_CHANGE n
    else (c.bump SEGMENT.FOREIGN_MASTER_COUNT n).raise EV.SEGMENT_MASTER_CHANGE n
  else if st = sgFOLLOWWAIT ∨ st = sgFOLLOWER then c.followRx n f b start
  else c

/-! ### JOIN and ACK (R161, R164) -/

/-- A valid JOIN is logged, or lost to a full log. -/
def Chip.joinRx (c : Chip) (n : Nat) (f : SegFrame) (body : List Byte) : Chip :=
  let node := (body.getD 0 0).toNat
  if body.length = 8 ∧ (node < 64 ∨ node = 255) then
    let l := (c.eng n).joinLog
    if l.length < 16 then
      (c.setJoinLog n (l ++ [{ mac := f.src, node := node, cls := (body.getD 1 0).toNat }])).raise EV.SEGMENT_PARTNER_CHANGE n
    else (c.flag SEGMENT.JOIN_INFO_OVERFLOW 1 n).bump SEGMENT.TX_DROP_COUNT n
  else c

/-- A follower on a dual-homed segment records the ACKs that the master sends. -/
def Chip.ackRx (c : Chip) (n : Nat) (f : SegFrame) (body : List Byte) : Chip :=
  if c.on SEGMENT.CFG_DUAL n ∧ (c.seg n = sgFOLLOWWAIT ∨ c.seg n = sgFOLLOWER) ∧ body.length = 12 ∧
      f.src = c.fld64 SEGMENT.MASTER_MAC_LO_ADDR SEGMENT.MASTER_MAC_HI_ADDR n ∧ (body.getD 7 0).toNat = 0 then
    c.setJoined n (body.getD 6 0).toNat (beNat (body.take 6))
  else c

/-! ### Turns (R152, R154, R186) -/

/-- The nominal starts of the used turns, in ns from the cycle start: turn 0 has those of the beacon and of the payload. -/
def Chip.nominals (c : Chip) (n : Nat) : List (Nat × Nat) :=
  [(0, 0), (0, 68000)] ++
    (((List.range 64).drop 1).filter fun t => (c.oper n t).kind != 0).map fun t => (t, (c.oper n t).offset)

/-- The turn that a frame starting at `start` belongs to; 64 is the contention turn (R186). -/
def Chip.placeFrame (c : Chip) (n : Nat) (start : Int) : Nat :=
  let e := c.eng n
  let cont : Int := ((c.oper n 64).offset * nsQ : Nat)
  let off := start - e.cycleStart
  if cont ≤ off ∨ (off < 0 ∧ cont ≤ start - e.prevStart ∧ e.prevStart < e.cycleStart) then 64
  else
    ((c.nominals n).foldl (fun (best : Nat × Nat) (x : Nat × Nat) =>
      let dist := (off - ((x.2 * nsQ : Nat) : Int)).natAbs
      if dist ≤ best.2 then (x.1, dist) else best) (0, off.natAbs)).1

/-- A header error (R152, R154). -/
def Chip.headerError (c : Chip) (n : Nat) : Chip := (c.bump SEGMENT.RX_HDR_ERR_COUNT n).raise EV.SEGMENT_FRAME_ERROR n

/-- The frame is written to the inactive receive bank of its turn, which becomes current (R152, R153, Table 04.9). -/
def Chip.storeSlot (c : Chip) (n t : Nat) (f : SegFrame) (body : List Byte) (stamp : Int) : Chip :=
  let e := c.oper n t
  let r := c.turnRec n t
  let b := 1 - c.fld SEGMENT.TURN_STAT_BANK n t
  let words := ts96 stamp 0 ++ [f.cycle + f.age * 2 ^ 16 + f.typ * 2 ^ 24, f.len + f.flags * 2 ^ 24, (r.seq + 1) % 2 ^ 32, 0, 0]
  let c := c.putBuf n (e.bank b) ((words.map (leBytes 4)).flatten ++ body)
  let c := if max 1 (c.fld SEGMENT.SYNC_CFG_STALE_LIMIT n) ≤ r.run then c.raise EV.SEGMENT_PARTNER_CHANGE n else c
  let c := c.updTurn n t fun r => { r with seq := (r.seq + 1) % 2 ^ 32, run := 0 }
  let c := (c.setFld SEGMENT.TURN_STAT_BANK b n t).setFld SEGMENT.TURN_STAT_STALE 0 n t
  let c := (c.setFld SEGMENT.TURN_STAT_ABSENT 0 n t).setFld SEGMENT.TURN_STAT_AGE 0 n t
  (c.setFld SEGMENT.TURN_STAT_LAST_CYCLE f.cycle n t).updEng n fun e => { e with accepted := t :: e.accepted }

/-- A Skein frame whose VER is not 0x1 or whose TYPE is reserved, where BEACON, COLDSTART, JOIN and ACK are taken already (R154). -/
def SegFrame.badHeader (f : SegFrame) : Bool := f.skein && (f.ver != 1 || (f.typ != ftSTATE && f.typ != ftCOMMAND))

/-- The first frame of a partner turn, or a payload frame of the master in turn 0, against Table 04.11; in turn 0 the header is checked
before the window (R154). -/
def Chip.judgeTurn (c : Chip) (n t : Nat) (f : SegFrame) (bytes : List Byte) (start stamp : Int) : Chip :=
  let e := c.oper n t
  let owner := if t = 0 then c.fld SEGMENT.SYNC_STATUS_MASTER_NODE n else e.owner
  let nominal : Int := ((c.eng n).cycleStart + (if t = 0 then 68000 else e.offset) * nsQ : Nat)
  let d := (start - nominal) / (nsQ : Int)
  let c := c.updEng n fun e => { e with seen := t :: e.seen }
  if t = 0 ∧ f.badHeader then c.headerError n
  else if !c.inWindow n d then c.windowFault n owner d
  else
    match f.body with
    | some body =>
      if !(f.skein && f.ver == 1 && (f.typ == ftSTATE || f.typ == ftCOMMAND) && f.turn == t &&
          f.cycle == c.fld SEGMENT.SYNC_STATUS_CYCLE n) then (c.driftUpdate n owner d none).headerError n
      else if t = 0 then (c.driftUpdate n owner d (some f.src)).segToCarder n bytes stamp
      else if e.maxPay < f.len then
        ((c.driftUpdate n owner d none).bump SEGMENT.RX_OVERSIZE_COUNT n).raise EV.SEGMENT_FRAME_ERROR n
      else if c.on SEGMENT.CFG_JOIN_REQUIRED n && !c.on SEGMENT.TURN_STAT_JOINED n t then
        ((c.driftUpdate n owner d none).bump SEGMENT.RX_UNJOINED_COUNT n).raise EV.SEGMENT_FRAME_ERROR n
      else ((c.driftUpdate n owner d (some f.src)).storeSlot n t f body stamp).segToCarder n bytes stamp
    | none => (c.driftUpdate n owner d none).headerError n

/-- A frame other than BEACON, COLDSTART, JOIN and ACK (R152, R154). -/
def Chip.turnRx (c : Chip) (n : Nat) (f : SegFrame) (bytes : List Byte) (start stamp : Int) : Chip :=
  let t := if c.holdsCycle n then c.placeFrame n start else 64
  if t = 64 then
    if f.badHeader then c.headerError n
    else c.segToCarder n bytes stamp
  else if (c.eng n).seen.contains t || (t != 0 && !(c.oper n t).isPartner) || (t == 0 && c.seg n == sgMASTER) then
    c.headerError n
  else c.judgeTurn n t f bytes start stamp

/-- The turn that a frame starting at `start` falls in is one of the Chrosal's own: a device turn, or turn 0 of a master (R154). -/
def Chip.inOwnTurn (c : Chip) (n : Nat) (start : Int) : Bool :=
  let t := c.placeFrame n start
  c.holdsCycle n && t != 64 && (if t = 0 then c.seg n == sgMASTER else (c.oper n t).isDev)

/-- A frame that passed the MAC, without its FCS. A plain segment logs a JOIN as every engine does (R164), and passes the frame on
all the same (R167). A JOIN or ACK that starts in an own turn is a header error (R154); one in a PARTNER turn is consumed, and is not
that turn's first frame, as a BEACON or COLDSTART there (DESIGN CHOICE, assumption log, entry 91). -/
def Chip.engineRx (c : Chip) (n stamp : Nat) (bytes : List Byte) : Chip :=
  let net := c.netOf stamp
  let f := parseSeg bytes
  let start := c.frameStart stamp
  if c.seg n = sgPLAIN then
    (if f.skein ∧ f.ver = 1 ∧ f.typ = ftJOIN then c.joinRx n f (f.body.getD []) else c).segToCarder n bytes net
  else
    if f.skein ∧ f.ver = 1 ∧ (f.typ = ftBEACON ∨ f.typ = ftCOLDSTART) then
      match f.body.bind parseBeacon with
      | some b => if f.src = c.segMac n then c else c.syncRx n f b start
      | none => c
    else if f.skein ∧ f.ver = 1 ∧ (f.typ = ftJOIN ∨ f.typ = ftACK) ∧ c.inOwnTurn n start then c.headerError n
    else if f.skein ∧ f.ver = 1 ∧ f.typ = ftJOIN then c.joinRx n f (f.body.getD [])
    else if f.skein ∧ f.ver = 1 ∧ f.typ = ftACK then c.ackRx n f (f.body.getD [])
    else c.turnRx n f bytes start net

/-- A received segment frame with its FCS, against the checks of R220 in their order. -/
def Chip.segmentRx (c : Chip) (n stamp : Nat) (octets : List Byte) (symErr : Bool) : Chip :=
  let body := octets.take (octets.length - 4)
  if symErr then c.bump SEGMENT.MAC_RX_ERR_COUNT n
  else if octets.length < 64 then c.bump SEGMENT.MAC_RUNT_COUNT n
  else if crc32 body ≠ leNat (octets.drop (octets.length - 4)) then c.bump SEGMENT.MAC_FCS_ERR_COUNT n
  else if 1522 < octets.length then c.bump SEGMENT.MAC_OVERSIZE_COUNT n
  else (c.bump SEGMENT.MAC_RX_FRAMES_COUNT n).engineRx n stamp body

def execSegmentFrameRx (n : Fin 96) (stamp : BitVec 96) (octets : List Byte) (symErr own : Bool) (s : State) : Result :=
  run (fun c => c.whenDue (!own && c.seg n.val != sgDISABLED) fun d => d.segmentRx n.val stamp.toNat octets symErr) s

end Sys2Proof.Machine
end

