-- ==== Sys2Proof/Machine/Flyer.lean ====
section
/-!
DEFINITION. Machine/Flyer.lean: the Flyers (chapter 05): sealing, beacon tracking, driver windows, violations and the latch,
babbling and containment, and the SEGPWR chain.
Log entries: DEDUCED 41, 47, 48, 49, 50; DESIGN CHOICE 95 (notes/assumptions).
-/
namespace Sys2Proof.Machine

/-- The Flyer states of Table 05.9. -/
abbrev fyOFF : Nat := 0
abbrev fyUNSYNC : Nat := 1
abbrev fySYNCWAIT : Nat := 2
abbrev fySYNC : Nat := 3
abbrev fyOPEN : Nat := 4

def Chip.flySt (c : Chip) (n : Nat) : Nat := c.fld FLYER.SYNC_STATUS_STATE n

/-! ### Sealing (R172 to R174) -/

/-- The slot now staging. -/
def Chip.stageSlot (c : Chip) (n : Nat) : Nat := c.fld FLYER.TT_SEAL_STATUS_STAGE_SLOT n

/-- The 132 words of a slot. -/
def Chip.slotImage (c : Chip) (n slot : Nat) : List Nat := (List.range 132).map fun w => c.flyW n slot w

/-- A write of TT_SEAL_CMD. -/
def Chip.sealCmd (c : Chip) (n : Nat) (p : Port) (v : Nat) : Chip :=
  let doSeal := bitsOf v 0 0 == 1
  let doUnseal := bitsOf v 1 1 == 1
  let k := c.stageSlot n
  if bitsOf v 31 16 ≠ 0x5345 ∨ (doSeal ∧ doUnseal) then c.refuse FLYER.TT_SEAL_CMD_SEAL p n
  else if doSeal then
    if c.fld FLYER.TT_SEAL_STATUS_STATE n = 1 then c.refuse FLYER.TT_SEAL_CMD_SEAL p n
    else if c.slotSealed n k then c
    else
      (c.setFld FLYER.TT_SEAL_STATUS_STATE 1 n).updFly n fun f =>
        { f with sealing := some k, sealImage := c.slotImage n k, sealCrc := c.fld FLYER.TT_STAGE_CRC_CRC n }
  else if doUnseal then
    if c.fld SEGMENT.TT_STATUS_STATE n = 1 ∨ (c.fly n).active = some k then
      (c.refuse FLYER.TT_SEAL_CMD_SEAL p n).setFld FLYER.TT_SEAL_STATUS_CAUSE 6 n
    else c.setFld FLYER.TT_SLOT_SEALED 0 n k
  else c

def execTtSeal (port : Port) (n : Fin 96) (value : Word) (s : State) : Result :=
  run (fun c => c.accessField port FLYER.TT_SEAL_CMD_SEAL n.val fun d => d.sealCmd n.val port value.toNat) s

def execTtUnseal (port : Port) (n : Fin 96) (value : Word) (s : State) : Result :=
  run (fun c => c.accessField port FLYER.TT_SEAL_CMD_SEAL n.val fun d => d.sealCmd n.val port value.toNat) s

/-- The first check of Table 05.2 that an image fails, 0 when it passes them all. -/
def Chip.sealCause (c : Chip) (n k : Nat) (img : List Nat) (crc : Nat) : Nat :=
  let w (i : Nat) : Nat := img.getD i 0
  let len := bitsOf (w 1) 26 0
  let guard := bitsOf (w 0) 31 16
  let role (t : Nat) : Nat := bitsOf (w (2 + 2 * t)) 31 30
  let used := (List.range 64).filter fun t => t == 0 || role t != 0
  let spans := used.map fun t => (bitsOf (w (2 + 2 * t)) 26 0, bitsOf (w (3 + 2 * t)) 23 0)
  let cont := bitsOf (w 130) 26 0
  if crc32 ((img.map (leBytes 4)).flatten) ≠ crc then 1
  else if !cycleLenOk len || decide (guard < 500 ∨ 10000 < guard) then 2
  else if bitsOf (w 2) 26 0 != 0 || !inOrder spans 0 cont || spans.any (fun (o, l) => decide (len < o + l)) then 3
  else if c.slotSealed n (1 - k) && c.slotId n (1 - k) == bitsOf (w 0) 15 0 then 4
  else if (List.range 65).any (fun t => bitsOf (w (2 + 2 * t)) 29 27 != 0 || bitsOf (w (3 + 2 * t)) 31 30 != 0 || role t == 3)
      || bitsOf (w 1) 31 27 != 0 then 5
  else 0

/-- The end of the seal checks. -/
def Chip.sealDone (c : Chip) (n : Nat) : Chip :=
  let f := c.fly n
  match f.sealing with
  | some k =>
    let cause := c.sealCause n k f.sealImage f.sealCrc
    let c := c.setFly n { f with sealing := none, sealImage := [], sealCrc := 0 }
    if cause = 0 then
      ((c.setFld FLYER.TT_SEAL_STATUS_STATE 2 n).setFld FLYER.TT_SLOT_SEALED 1 n k).fault FLYER.FAULT_STATUS_SEAL_DONE n
    else
      ((c.setFld FLYER.TT_SEAL_STATUS_STATE 3 n).setFld FLYER.TT_SEAL_STATUS_CAUSE cause n).fault
        FLYER.FAULT_STATUS_SEAL_FAIL n
  | none => c

def execTtSealDone (n : Fin 96) (s : State) : Result := run (fun c => c.sealDone n.val) s

/-- Writes to the staging slot are ignored and counted while it is sealed or under check (R174). -/
def Chip.stageHeld (c : Chip) (n : Nat) : Bool := c.slotSealed n (c.stageSlot n) || c.fld FLYER.TT_SEAL_STATUS_STATE n == 1

/-- A write of a staging register or of a word of the entry window: `w` is the word of the slot (R173, R195). -/
def Chip.stageWrite (c : Chip) (n w off : Nat) (p : Port) (v : Nat) : Chip :=
  if c.stageHeld n ∨ (2 ≤ w ∧ c.on FLYER.CFG_VIEW_ACTIVE n) then c.errcnt (PageCls.flyer.base + n) off p
  else c.setFlyW n (c.stageSlot n) w (if w = 1 then bitsOf v 26 0 else v)

/-! ### Beacon tracking (R175 to R179) -/

/-- LOSS_CYCLES and TAKEOVER_MISS of the Flyer in force (Table 05.9). -/
def Chip.flyLoss (c : Chip) (n : Nat) : Nat := max 2 (c.fld FLYER.CFG_LOSS_CYCLES n)
def Chip.flyTakeover (c : Chip) (n : Nat) : Nat := max 1 (c.fld FLYER.CFG_TAKEOVER_MISS n)

/-- The cycle length that the Flyer runs on, in 2^-32 ns. -/
def Chip.flyLen (c : Chip) (n : Nat) : Nat :=
  match (c.fly n).active with
  | some k => c.slotLen n k * nsQ
  | none => 0

/-- A cycle of a Flyer in SYNC ends: a node, or the unknown, with no episode in it has its run set to 0 (R191). -/
def Chip.babbleCycle (c : Chip) (n : Nat) : Chip :=
  let f := c.fly n
  let c := if c.flySt n = fySYNC then
      (List.range 64).foldl (fun d k =>
        if f.episodes.contains k then d else d.setDrift n k { d.driftRec n k with babbleRun := 0 }) c
    else c
  c.setFly n { f with episodes := [], unknown := false,
                      unattrRun := if c.flySt n = fySYNC ∧ ¬ f.unknown then 0 else f.unattrRun }

/-- The sealed slot that a beacon matches, the active one first. -/
def Chip.matchSlot (c : Chip) (n id len : Nat) : Option Nat :=
  let ok (k : Nat) : Bool := c.slotSealed n k && c.slotId n k == id && c.slotLen n k == len
  match (c.fly n).active with
  | some a => if ok a then some a else if ok (1 - a) then some (1 - a) else none
  | none => if ok 0 then some 0 else if ok 1 then some 1 else none

/-- Slot `k` is active from now on; the other one is staging (R175). -/
def Chip.activateSlot (c : Chip) (n k : Nat) : Chip :=
  let old := (c.fly n).active
  let c := c.updFly n fun f => { f with active := some k }
  let c := (c.setFld FLYER.TT_SLOT_ACTIVE 1 n k).setFld FLYER.TT_SLOT_ACTIVE 0 n (1 - k)
  let c := (c.setFld FLYER.SYNC_STATUS_ACTIVE_SLOT k n).setFld FLYER.SYNC_STATUS_TABLE_ID (c.slotId n k) n
  let c := c.setFld FLYER.TT_SEAL_STATUS_STAGE_SLOT (1 - k) n
  if old = some k then c else c.fault FLYER.FAULT_STATUS_SLOT_SWITCH n

/-- An accepted beacon anchors the window counter (R177, R179). -/
def Chip.flyAccept (c : Chip) (n k start : Nat) (own : Bool) : Chip :=
  let c := (c.babbleCycle n).activateSlot n k
  let c := c.updFly n fun f => { f with anchor := start, predicted := start + c.slotLen n k * nsQ, lastMiss := none, extEnd := none }
  let c := (c.setFld FLYER.SYNC_STATUS_MISS_RUN 0 n).setBit FLYER.SYNC_STATUS_MASTER_SELF own n
  let c := (c.setFld FLYER.SYNC_STATUS_CYCLE_OK 1 n).setFld FLYER.SYNC_STATUS_EXT_ALLOW 0 n
  if c.flySt n = fyUNSYNC then c.setFld FLYER.SYNC_STATUS_STATE fySYNCWAIT n
  else if c.flySt n = fySYNCWAIT then (c.setFld FLYER.SYNC_STATUS_STATE fySYNC n).fault FLYER.FAULT_STATUS_SYNC_GAINED n
  else c

/-- A beacon is where and what R178 accepts; `start` is its cycle start, `ext` its EXT flag. -/
def Chip.flyTakes (c : Chip) (n : Nat) (start : Int) (ext : Bool) : Bool :=
  let f := c.fly n
  let near (p : Nat) : Bool := decide ((start - p).natAbs ≤ 2000 * nsQ)
  c.flySt n == fyUNSYNC || near f.predicted || (ext && (f.lastMiss.toList ++ [f.predicted]).any (withinCycleAfter (c.flyLen n) start))

/-- The start of a frame as the Flyer's detector finds it: its timestamp point is resolved to the AON tick in which it lies (R177;
DEDUCED, assumption log, entry 95). -/
def Chip.flyStart (c : Chip) (stamp : Nat) : Int := (c.tickOf stamp).1 - (6400 * nsQ : Nat)

/-- A frame that the Flyer's detector sees whole, with its FCS; `stamp` is its timestamp point in 2^-32 ns (R177, R178). A frame of TYPE
BEACON whose body has not its 20 octets is no detected beacon: it is ignored, and counts in nothing (DESIGN CHOICE, assumption log,
entry 95). -/
def Chip.flyDetect (c : Chip) (n stamp : Nat) (octets : List Byte) : Chip :=
  let body := octets.take (octets.length - 4)
  let f := parseSeg body
  let own := c.on FLYER.TX_STATUS_DRIVER_ON n
  if crc32 body = leNat (octets.drop (octets.length - 4)) ∧ f.skein ∧ f.ver = 1 ∧ f.typ = ftBEACON then
    match f.body.bind parseBeacon with
    | some b =>
      let start := c.flyStart stamp - (if own then 0 else c.lineDelay n : Nat)
      if c.flySt n = fyUNSYNC ∧ c.on WHORL.REFCLK_STATUS_FAULT then c
      else
        match c.matchSlot n b.tableId b.cycleLen with
        | some k =>
          if c.flyTakes n start (f.flags.testBit 5) then c.flyAccept n k start.toNat own
          else (c.bump FLYER.BEACON_REJECT_COUNT n).fault FLYER.FAULT_STATUS_BEACON_REJECT n
        | none => (c.bump FLYER.BEACON_REJECT_COUNT n).fault FLYER.FAULT_STATUS_BEACON_REJECT n
    | none => c
  else c

def execFlyerBeaconDetect (n : Fin 96) (stamp : BitVec 96) (octets : List Byte) (s : State) : Result :=
  run (fun c => c.whenDue (c.flySt n.val != fyOFF && c.flySt n.val != fyOPEN) fun d => d.flyDetect n.val stamp.toNat octets) s

/-- The Flyer leaves OFF (Table 05.3). -/
def Chip.flyEnable (c : Chip) (n : Nat) : Chip :=
  if c.flySt n = fyOFF ∧ c.hdr HDR.CTRL_EN (PageCls.flyer.base + n) = 1 ∧ c.dom .seg = domON then
    c.setFld FLYER.SYNC_STATUS_STATE (if c.on FLYER.CFG_MODE n then fyOPEN else fyUNSYNC) n
  else c

/-- The first AON tick at or after an instant, at the present rate (R180). -/
def Chip.tickFrom (c : Chip) (t : Int) : Int :=
  let inc : Int := (c.whorl.inc : Nat)
  (c.now : Int) - ((c.now : Int) - t) / inc * inc

/-- What the driver has used of the budget of R182 in the current 100 ms block: what is counted of it, and the cold-start
transmission that is on. -/
def Chip.budgetUsed (c : Chip) (n : Nat) : Nat :=
  let f := c.fly n
  let block := c.now / (100 * msQ)
  let counted := if f.budgetBlock = block then f.budgetUsed else 0
  match f.tx with
  | some x =>
    let stop := min c.now (match x.close with | some e => min (c.tickFrom e).toNat x.endAt | none => x.endAt)
    if x.unsync then counted + (stop - max x.start (block * (100 * msQ))) else counted
  | none => counted

/-- The budget counts what the transmission that is on has used of the current block. -/
def Chip.budgetCount (c : Chip) (n : Nat) : Chip :=
  c.updFly n fun f => { f with budgetBlock := c.now / (100 * msQ), budgetUsed := c.budgetUsed n }

/-! ### Violations and the latch (R183, R184) -/

/-- The transmission that is on ends: the driver is off. -/
def Chip.driverOff (c : Chip) (n : Nat) : Chip :=
  ((c.budgetCount n).updFly n fun f => { f with tx := none }).setFld FLYER.TX_STATUS_DRIVER_ON 0 n

/-- The transmitter latches: the driver goes off (R184). -/
def Chip.latchTx (c : Chip) (n : Nat) : Chip :=
  if c.on FLYER.TX_STATUS_LATCHED n then c
  else
    let c := if (c.fly n).tx.isSome then c.driverOff n else c
    ((c.setFld FLYER.TX_STATUS_LATCHED 1 n).bump FLYER.LATCHES_COUNT n).fault FLYER.FAULT_STATUS_TX_LATCHED n

/-- One more violation since the last clean transmission. -/
def Chip.violation (c : Chip) (n : Nat) : Chip :=
  let c := (c.bump FLYER.TX_STATUS_VIOL_RUN n).fault FLYER.FAULT_STATUS_TX_VIOLATION n
  if 3 ≤ c.fld FLYER.TX_STATUS_VIOL_RUN n then c.latchTx n else c

/-- An attempt is blocked whole; `counts` says that it advances VIOL_RUN. A latched Flyer counts it in BLOCKED only. -/
def Chip.blockTx (c : Chip) (n : Nat) (counts : Bool) : Chip :=
  let c := c.bump FLYER.BLOCKED_COUNT n
  if c.on FLYER.TX_STATUS_LATCHED n then c
  else if counts then c.violation n
  else c.fault FLYER.FAULT_STATUS_TX_VIOLATION n

/-! ### Driver windows (R180 to R182) -/

/-- Roles of the active slot's turns. -/
def Chip.flyRole (c : Chip) (n k t : Nat) : Nat := bitsOf (c.flyW n k (2 + 2 * t)) 31 30
def Chip.flyOffset (c : Chip) (n k t : Nat) : Nat := bitsOf (c.flyW n k (2 + 2 * t)) 26 0
def Chip.flyTurnLen (c : Chip) (n k t : Nat) : Nat := bitsOf (c.flyW n k (3 + 2 * t)) 23 0

/-- The turn-0 windows are open to this part (Table 05.4). -/
def Chip.turn0Open (c : Chip) (n : Nat) : Bool :=
  (c.flySt n == fySYNCWAIT || c.flySt n == fySYNC) &&
    (c.on FLYER.SYNC_STATUS_MASTER_SELF n ||
      (c.on FLYER.CFG_TAKEOVER_EN n && decide (c.flyTakeover n ≤ c.fld FLYER.SYNC_STATUS_MISS_RUN n)))

/-- The windows of Table 05.4 for slot `k`, as (opens, closes) as computed, in 2^-32 ns: those of the cycle in progress, and turn 0 of the
next one. -/
def Chip.windows (c : Chip) (n k : Nat) : List (Int × Int) :=
  let base : Int := (c.fly n).predicted - c.flyLen n
  let span (b : Int) (o l : Nat) : Int × Int := (b + (o : Int) * nsQ - (1000 * nsQ : Nat), b + (o + l : Nat) * (nsQ : Int) + (1000 * nsQ : Nat))
  let turn0 := if c.turn0Open n then [span base 0 (c.flyTurnLen n k 0), span (c.fly n).predicted 0 (c.flyTurnLen n k 0)] else []
  let own := if c.flySt n = fySYNC ∧ c.on FLYER.SYNC_STATUS_CYCLE_OK n then
      (((List.range 64).drop 1).filter fun t => c.flyRole n k t == 2).map (fun t => span base (c.flyOffset n k t) (c.flyTurnLen n k t)) ++
        [((span base (c.flyOffset n k 64) 0).1, (span base (c.slotLen n k) 0).2)]
    else []
  turn0 ++ own

/-- The computed close of the windows that are open at `t`, none where every one is closed. Edges fall on the first AON tick at or
after the computed instant (R180). -/
def Chip.windowClose (c : Chip) (n : Nat) (t : Nat) : Option Nat :=
  match (c.fly n).active with
  | some k =>
    let open_ := (c.windows n k).filter fun (a, b) => decide (c.tickFrom a ≤ (t : Int)) && decide ((t : Int) < c.tickFrom b)
    match open_ with
    | [] => none
    | w :: r => some (r.foldl (fun m x => max m x.2) w.2).toNat
  | none => none

/-- The driver is enabled for a frame. -/
def Chip.allowTx (c : Chip) (n : Nat) (x : FlyTx) : Chip :=
  (c.updFly n fun f => { f with tx := some x }).setFld FLYER.TX_STATUS_DRIVER_ON 1 n

/-- The extension allowance lasts at `t` (R181). -/
def Chip.extLasts (c : Chip) (n t : Nat) : Bool :=
  match (c.fly n).extEnd with
  | some e => decide (t < e)
  | none => false

/-- It covers a start at `t`: it permits one transmission. -/
def Chip.extCovers (c : Chip) (n t : Nat) : Bool := c.extLasts n t && !(c.fly n).extUsed

/-- The one transmission of the allowance: on until `close` at the latest. A start inside another open window too has the later of the two
closes (R181; DEDUCED, assumption log, entry 95). -/
def Chip.extTx (c : Chip) (n t close stop : Nat) : Chip :=
  (c.updFly n fun f => { f with extUsed := true }).allowTx n { start := t, close := some close, endAt := stop }

/-- An attempt of the engine to drive the line from `t` to `stop`; `quiet` is how long carrier has been absent, in ns
(R180 to R184, R444, R471). -/
def Chip.judgeTx (c : Chip) (n t stop quiet : Nat) : Chip :=
  let st := c.flySt n
  if st = fyOFF then c.blockTx n (c.hdr HDR.CTRL_EN (PageCls.flyer.base + n) == 1)
  else if c.modes.segSupplyBad then c.blockTx n false
  else if st ≠ fyOPEN ∧ c.on WHORL.REFCLK_STATUS_FAULT then c.blockTx n false
  else if c.on FLYER.TX_STATUS_LATCHED n then c.blockTx n true
  else if st = fyOPEN then c.allowTx n { start := t, close := none, endAt := stop }
  else if st = fyUNSYNC then
    if c.fld FLYER.UNSYNC_BUDGET_US n * usQ ≤ c.budgetUsed n then (c.fault FLYER.FAULT_STATUS_BUDGET n).blockTx n true
    else if quiet < 9600 then c.blockTx n true
    else c.allowTx n { start := t, close := some (t + 60000 * nsQ), endAt := stop, unsync := true }
  else
    let ext := c.extCovers n t
    match c.windowClose n t, ext with
    | some e, false => c.allowTx n { start := t, close := some e, endAt := stop }
    | some e, true => c.extTx n t (max e (t + 60000 * nsQ)) stop
    | none, true => c.extTx n t (t + 60000 * nsQ) stop
    | none, false => c.blockTx n true

/-- The engine asserts its transmit enable for the frame that it handed to its MAC. -/
def Chip.txAttempt (c : Chip) (n quiet : Nat) : Chip :=
  match (c.eng n).lastTx with
  | some x =>
    if x.start ≤ c.now then
      (c.updEng n fun e => { e with lastTx := none }).judgeTx n x.start (c.eng n).txEnd quiet
    else c
  | none => c

def execTxAttempt (n : Fin 96) (quietNs : Nat) (s : State) : Result := run (fun c => c.txAttempt n.val quietNs) s

/-- A transmission still on at its close is cut (R181 to R183). -/
def Chip.windowCut (c : Chip) (n : Nat) : Chip :=
  match (c.fly n).tx with
  | some x =>
    match x.close with
    | some e => if c.tickFrom e < (x.endAt : Int) ∧ e ≤ c.now then ((c.driverOff n).bump FLYER.TRUNCATED_COUNT n).violation n else c
    | none => c
  | none => c

def execWindowCloseCut (n : Fin 96) (s : State) : Result := run (fun c => c.windowCut n.val) s

/-- A transmission that ended inside its window was clean (R183, R184). -/
def Chip.cleanEnd (c : Chip) (n : Nat) : Chip :=
  match (c.fly n).tx with
  | some x =>
    let inside := match x.close with | some e => decide ((x.endAt : Int) ≤ c.tickFrom e) | none => true
    if inside && decide (x.endAt ≤ c.now) then (c.driverOff n).setFld FLYER.TX_STATUS_VIOL_RUN 0 n else c
  | none => c

/-- A transmission that is on when every window closes is cut, a violation; one that has ended was clean (R180, R183). -/
def Chip.windowsShut (c : Chip) (n : Nat) : Chip :=
  let c := c.cleanEnd n
  if (c.fly n).tx.isSome then ((c.driverOff n).bump FLYER.TRUNCATED_COUNT n).violation n else c

/-- Synchronization is lost: the Flyer is in UNSYNC (Table 05.3), with every window but the cold-start allowance shut (R180). The active
slot stays active (R175). -/
def Chip.flyLost (c : Chip) (n : Nat) : Chip :=
  let c := ((c.windowsShut n).setFld FLYER.SYNC_STATUS_STATE fyUNSYNC n).setFld FLYER.SYNC_STATUS_CYCLE_OK 0 n
  let c := (c.setFld FLYER.SYNC_STATUS_EXT_ALLOW 0 n).updFly n fun f => { f with extEnd := none, lastMiss := none }
  (c.bump FLYER.SYNC_LOSS_COUNT n).fault FLYER.FAULT_STATUS_SYNC_LOST n

/-- The predicted start has passed without an accepted beacon. -/
def Chip.flyMissDue (c : Chip) (n : Nat) : Bool :=
  (c.flySt n == fySYNCWAIT || c.flySt n == fySYNC) &&
    decide ((c.fly n).predicted + (2000 + airtime 64) * nsQ + c.lineDelay n < c.now)

def Chip.flyMiss (c : Chip) (n : Nat) : Chip :=
  let c := (c.babbleCycle n).bump FLYER.SYNC_STATUS_MISS_RUN n
  let c := c.setFld FLYER.SYNC_STATUS_CYCLE_OK 0 n
  let c := c.updFly n fun f => { f with lastMiss := some f.predicted, predicted := f.predicted + c.flyLen n }
  if c.flyLoss n ≤ c.fld FLYER.SYNC_STATUS_MISS_RUN n then c.flyLost n else c

def execFlyerBeaconMiss (n : Fin 96) (s : State) : Result :=
  run (fun c => c.whenDue (c.flyMissDue n.val) fun d => d.flyMiss n.val) s

/-- The Flyer goes OFF: the driver is off, no window is open and no slot is active (R175, R180). MISS_RUN and TABLE_ID stay: only an
accepted beacon changes them (R179, R469). That no slot is active any more sets no SLOT_SWITCH (DESIGN CHOICE, assumption log, entry
95). -/
def Chip.flyOff (c : Chip) (n : Nat) : Chip :=
  if c.flySt n = fyOFF then c
  else
    let c := (c.windowsShut n).updFly n fun f => { f with active := none, extEnd := none, lastMiss := none, episodes := [], unknown := false }
    let c := (c.setFld FLYER.SYNC_STATUS_STATE fyOFF n).setFld FLYER.SYNC_STATUS_CYCLE_OK 0 n
    let c := c.setFld FLYER.SYNC_STATUS_EXT_ALLOW 0 n
    (c.setFld FLYER.TT_SLOT_ACTIVE 0 n 0).setFld FLYER.TT_SLOT_ACTIVE 0 n 1

/-- A write of REARM (R184). -/
def Chip.rearm (c : Chip) (n : Nat) (p : Port) (v : Nat) : Chip :=
  if bitsOf v 0 0 = 1 ∧ bitsOf v 31 16 = 0x4652 then
    (c.setFld FLYER.TX_STATUS_LATCHED 0 n).setFld FLYER.TX_STATUS_VIOL_RUN 0 n
  else c.refuse FLYER.REARM_GO p n

def execRearm (port : Port) (n : Fin 96) (value : Word) (s : State) : Result :=
  run (fun c => c.accessField port FLYER.REARM_GO n.val fun d => d.rearm n.val port value.toNat) s

/-- No beacon came within 2,000 ns of a predicted start with the turn-0 window open: one extension allowance (R181). -/
def Chip.extDue (c : Chip) (n : Nat) : Bool :=
  let f := c.fly n
  c.turn0Open n && decide (f.predicted + 2000 * nsQ ≤ c.now) && decide (c.now < f.predicted + c.flyLen n) &&
    f.extJudged != some f.predicted

def Chip.extGrant (c : Chip) (n : Nat) : Chip :=
  (c.updFly n fun f => { f with extJudged := some f.predicted, extEnd := some (f.predicted + c.flyLen n), extUsed := false }).setFld
    FLYER.SYNC_STATUS_EXT_ALLOW 1 n

def execExtAllowance (n : Fin 96) (s : State) : Result :=
  run (fun c => c.whenDue (c.extDue n.val) fun d => d.extGrant n.val) s

/-! ### A REFCLK fault (R179, R471) -/

/-- A transmission in progress is cut at once, and a synchronized Flyer is in UNSYNC. -/
def Chip.flyRefFault (c : Chip) (n : Nat) : Chip :=
  if c.flySt n = fyOFF ∨ c.flySt n = fyOPEN then c
  else
    let c := if (c.fly n).tx.isSome then
        ((c.driverOff n).bump FLYER.TRUNCATED_COUNT n).fault FLYER.FAULT_STATUS_TX_VIOLATION n
      else c
    if c.flySt n = fyUNSYNC then c else c.flyLost n

def execRefclkFault (noEdgeNs outOfRangeNs : Nat) (s : State) : Result :=
  run (fun c => c.whenDue (c.refclkBad noEdgeNs outOfRangeNs) fun d =>
    (List.range 96).foldl Chip.flyRefFault d.refclkFault) s

/-! ### Segment power (R192 to R194) -/

abbrev pwOFF : Nat := 0
abbrev pwON : Nat := 1
abbrev pwCUT : Nat := 2
abbrev pwHELD : Nat := 3

/-- The chain bit of a segment (R193). -/
def Chip.chainBit (c : Chip) (n : Nat) : Bool := c.on FLYER.PWR_CTRL_ON n && c.fld FLYER.PWR_CTRL_STATE n == pwON

/-- A change of PWR_CTRL, with the chain frame that a changed bit asks for (R194). -/
def Chip.power1 (c : Chip) (n : Nat) (f : Chip → Chip) : Chip :=
  let d := f c
  if d.chainBit n = c.chainBit n then d else { d with chain := { d.chain with dirty := true } }

/-- Every BABBLE_RUN and the unattributed run are 0. -/
def Chip.zeroRuns (c : Chip) (n : Nat) : Chip :=
  let c := (List.range 64).foldl (fun d k => d.setDrift n k { d.driftRec n k with babbleRun := 0 }) c
  c.updFly n fun f => { f with unattrRun := 0 }

/-- A run has reached its limit: segment power is cut, or held off, where the policy has it so (R192). `node` is none for the
unattributed run. -/
def Chip.contain (c : Chip) (n : Nat) (node : Option Nat) : Chip :=
  let c := c.updFly n fun f => { f with cleanFrom := c.now }
  if c.on FLYER.CONTAIN_CFG_POLICY n && c.fld FLYER.PWR_CTRL_STATE n == pwON &&
      !(c.mode == mSAFE && c.on FLYER.CONTAIN_CFG_NO_CUT_IN_SAFE n) then
    let held := decide (c.fld FLYER.CONTAIN_CFG_RETRIES n ≤ (c.fly n).cutCount)
    let c := c.power1 n fun d => d.setFld FLYER.PWR_CTRL_STATE (if held then pwHELD else pwCUT) n
    let c := (c.bump FLYER.CUTS_COUNT n).updFly n fun f => { f with cutCount := f.cutCount + 1, cutAt := c.now }
    let c := (List.range 64).foldl (fun d k => d.setDrift n k { d.driftRec n k with cutCause := some k == node }) c
    let c := c.fault FLYER.FAULT_STATUS_POWER_CUT n
    if held then c.fault FLYER.FAULT_STATUS_POWER_HELD n else c
  else c

/-- An episode attributed to a node (R191). -/
def Chip.babbleBy (c : Chip) (n k : Nat) : Chip :=
  let c := (c.bump FLYER.BABBLES_COUNT n).fault FLYER.FAULT_STATUS_BABBLE n
  if (c.fly n).episodes.contains k then c
  else
    let r := c.driftRec n k
    let run := min 255 (r.babbleRun + 1)
    let c := c.setDrift n k { r with babble := min 65535 (r.babble + 1), babbleRun := run }
    let c := c.updFly n fun f => { f with episodes := k :: f.episodes }
    if run = max 1 (c.fld FLYER.CONTAIN_CFG_LIMIT n) then c.contain n (some k) else c

/-- An unattributed episode (R191). -/
def Chip.babbleUnknown (c : Chip) (n : Nat) : Chip :=
  let c := (c.bump FLYER.STRAY_UNKNOWN_COUNT n).fault FLYER.FAULT_STATUS_BABBLE n
  if (c.fly n).unknown then c
  else
    let run := (c.fly n).unattrRun + 1
    let c := c.updFly n fun f => { f with unknown := true, unattrRun := run }
    if run = max 1 (c.fld FLYER.CONTAIN_CFG_UNATTR_LIMIT n) then c.contain n none else c

/-- The Flyer looks for babbling now (R190). -/
def Chip.babbleOn (c : Chip) (n : Nat) : Bool := c.flySt n == fySYNC && c.on FLYER.SYNC_STATUS_CYCLE_OK n

/-- Partners may put energy on the line in turn 0 (Table 05.6). -/
def Chip.partnerTurn0 (c : Chip) (n : Nat) : Bool := !c.on FLYER.SYNC_STATUS_MASTER_SELF n || c.on FLYER.CFG_DUAL n

/-- The intervals of Table 05.6 for slot `k`, in ns from the cycle start; that of turn 0 opens before the cycle starts, so the next
cycle's is among them. -/
def Chip.partnerIntervals (c : Chip) (n k : Nat) : List (Int × Int) :=
  let g : Int := (bitsOf (c.flyW n k 0) 31 16 : Nat)
  let parts := (((List.range 64).drop 1).filter fun t => c.flyRole n k t == 1).map fun t =>
    (((c.flyOffset n k t : Nat) : Int) - g - 1000, ((c.flyOffset n k t + c.flyTurnLen n k t : Nat) : Int) - 9600)
  let turn0 (start : Int) : Int × Int := (start - g - 1000, start + ((c.flyTurnLen n k 0 : Nat) : Int) - 9600)
  let t0 := if c.partnerTurn0 n then [turn0 0, turn0 (c.slotLen n k : Nat)] else []
  parts ++ t0 ++ [(((c.flyOffset n k 64 : Nat) : Int), ((c.slotLen n k : Nat) : Int) - g)]

/-- Energy that begins at `start` (2^-32 ns) lies outside every interval. -/
def Chip.isStray (c : Chip) (n : Nat) (start : Int) : Bool :=
  match (c.fly n).active with
  | some k =>
    let off := start - ((c.fly n).anchor : Int)
    !(c.partnerIntervals n k).any fun (a, b) => decide (a * (nsQ : Int) ≤ off) && decide (off < b * (nsQ : Int))
  | none => false

/-- The end of the interval of turn `t` in which partners may put energy on the line, in ns from the cycle start. -/
def Chip.intervalEnd (c : Chip) (n k t : Nat) : Int :=
  if t = 64 then ((c.slotLen n k : Nat) : Int) - (bitsOf (c.flyW n k 0) 31 16 : Nat)
  else ((c.flyOffset n k t + c.flyTurnLen n k t : Nat) : Int) - 9600

/-- Energy that began inside the interval of turn `t` is still present at its end: that of a PARTNER turn is the OWNER's; that of
turn 0 and of the contention turn is unattributed, where no other interval goes on (R190, R191). -/
def Chip.babbleOverrun (c : Chip) (n t : Nat) : Chip :=
  match (c.fly n).active with
  | some k =>
    let stop : Int := ((c.fly n).anchor : Int) + c.intervalEnd n k t * (nsQ : Int)
    if c.babbleOn n ∧ stop ≤ (c.now : Int) then
      if 0 < t ∧ t < 64 then
        if c.flyRole n k t = 1 then c.babbleBy n (bitsOf (c.flyW n k (3 + 2 * t)) 29 24) else c
      else if (t = 64 ∨ c.partnerTurn0 n) ∧ c.isStray n stop then c.babbleUnknown n
      else c
    else c
  | none => c

def execBabbleOverrun (n : Fin 96) (turn : Fin 65) (s : State) : Result := run (fun c => c.babbleOverrun n.val turn.val) s

/-- The node of a valid drift-table entry with a MAC. -/
def Chip.nodeOfMac (c : Chip) (n mac : Nat) : Option Nat :=
  (List.range 64).find? fun k => (c.driftRec n k).valid && (c.driftRec n k).mac == mac

/-- Energy outside every interval, or a collision in an own turn: attributed by the source address of a frame with a correct
FCS, else unknown (R190, R191). -/
def Chip.strayEnergy (c : Chip) (n : Nat) (start : Int) (src : Option Nat) (collision : Bool) : Chip :=
  if c.babbleOn n && (collision || c.isStray n start) then
    match src.bind (c.nodeOfMac n) with
    | some k => if c.isStray n start then c.babbleBy n k else c.babbleUnknown n
    | none => c.babbleUnknown n
  else c

def execStrayEnergy (n : Fin 96) (stamp : BitVec 96) (src : Option (BitVec 48)) (collision : Bool) (s : State) : Result :=
  run (fun c => c.strayEnergy n.val (stamp.toNat : Int) (src.map BitVec.toNat) collision) s

/-- The cut has lasted OFF_MS ms (R192). -/
def Chip.cutOver (c : Chip) (n : Nat) : Bool :=
  c.fld FLYER.PWR_CTRL_STATE n == pwCUT && decide (max 1 (c.fld FLYER.CONTAIN_TIME_OFF_MS n) * msQ ≤ c.since (c.fly n).cutAt)

def Chip.cutRestore (c : Chip) (n : Nat) : Chip :=
  ((c.power1 n fun d => d.setFld FLYER.PWR_CTRL_STATE pwON n).zeroRuns n).updFly n fun f => { f with cleanFrom := c.now }

def execCutRestore (n : Fin 96) (s : State) : Result :=
  run (fun c => c.whenDue (c.cutOver n.val) fun d => d.cutRestore n.val) s

/-- CLEAN_S s have passed in STATE ON with no run reaching its limit (R192). -/
def Chip.cleanDue (c : Chip) (n : Nat) : Bool :=
  c.fld FLYER.PWR_CTRL_STATE n == pwON && decide (c.fld FLYER.CONTAIN_TIME_CLEAN_S n * secQ ≤ c.since (c.fly n).cleanFrom)

def execCleanRenew (n : Fin 96) (s : State) : Result :=
  run (fun c => c.whenDue (c.cleanDue n.val) fun d => d.updFly n.val fun f => { f with cutCount := 0, cleanFrom := d.now }) s

/-- A write of PWR_CTRL: ON = 0 removes power in any state; RESTORE renews CUTS_LEFT and zeroes the runs whatever the state (R193). -/
def Chip.pwrWrite (c : Chip) (n v : Nat) : Chip :=
  c.power1 n fun c =>
    let on := bitsOf v 0 0
    let st := c.fld FLYER.PWR_CTRL_STATE n
    let restore := bitsOf v 31 31 == 1
    let c := c.setFld FLYER.PWR_CTRL_ON on n
    let c := if restore then (c.zeroRuns n).updFly n fun f => { f with cutCount := 0 } else c
    if on = 0 then c.setFld FLYER.PWR_CTRL_STATE pwOFF n
    else if st = pwOFF ∨ restore then (c.setFld FLYER.PWR_CTRL_STATE pwON n).updFly n fun f => { f with cleanFrom := c.now }
    else c

def execPwrOnWrite (port : Port) (n : Fin 96) (value : Word) (s : State) : Result :=
  run (fun c => c.accessField port FLYER.PWR_CTRL_ON n.val fun d => d.pwrWrite n.val value.toNat) s

def execPwrRestore (port : Port) (n : Fin 96) (value : Word) (s : State) : Result :=
  run (fun c => c.accessField port FLYER.PWR_CTRL_ON n.val fun d => d.pwrWrite n.val value.toNat) s

/-- The bits of a chain frame that starts now: the segments whose bit is 1. -/
def Chip.chainBits (c : Chip) : List Nat := (List.range 96).filter fun n => c.chainBit n

/-- A chain frame starts: after a change, and every 100 ms without one, in every mode but RESET (R194). -/
def Chip.chainDue (c : Chip) : Bool :=
  c.mode != mRESET && c.chain.latchAt.isNone && decide (c.chain.freeFrom ≤ c.now) &&
    (c.chain.dirty || decide (100 * msQ ≤ c.since c.chain.lastStart))

def Chip.chainFrame (c : Chip) : Chip :=
  { c with chain := { latchAt := some (c.now + 15360 * nsQ), bits := c.chainBits, dirty := false,
                      freeFrom := c.now + 15520 * nsQ, lastStart := c.now } }

def execSegpwrFrame (s : State) : Result := run (fun c => c.whenDue c.chainDue Chip.chainFrame) s

/-- SEGPWR_LAT pulses at the end of the 96 bits; CHAIN_BIT shows what was latched (R194, R453). -/
def Chip.chainLatch (c : Chip) : Chip :=
  match c.chain.latchAt with
  | some t =>
    if t ≤ c.now then
      { (List.range 96).foldl (fun d n => d.setBit FLYER.PWR_CTRL_CHAIN_BIT (c.chain.bits.contains n) n) c with
        chain := { c.chain with latchAt := none } }
    else c
  | none => c

def execSegpwrLatch (s : State) : Result := run Chip.chainLatch s

end Sys2Proof.Machine
end

