-- ==== Sys2Proof/Machine/HankRx.lean ====
section
/-!
DEFINITION. Machine/HankRx.lean: the messages that the Hank block takes from port 0x81 (R384 to R387, R389, R394, R396, R399):
the receive checks and what an accepted message does. REG_REQ is in Machine/Remote.lean.
Log entries: DEDUCED 69 (notes/assumptions).
-/
namespace Sys2Proof.Machine

/-- A received message (Table 11.4), its source address, and the port it came in by. -/
structure HankRx where
  typ : Nat
  last : Bool
  senderRole : Nat
  targetRole : Nat
  sender : Nat
  target : Nat
  senderEpoch : Nat
  targetEpoch : Nat
  seq : Nat
  cmdId : Nat
  body : List Byte
  src : Nat
  ingress : Nat
  deriving DecidableEq, Repr

/-- The octet `i` of a list as a number. -/
def octAt (l : List Byte) (i : Nat) : Nat := (l.getD i 0).toNat

/-- The body is well formed for its type (Tables 11.5, 11.6). -/
def bodyOk (typ : Nat) (b : List Byte) : Bool :=
  match typ with
  | 1 | 2 => b.length == 4
  | 3 =>
    let n := beNat ((b.drop 14).take 2)
    decide (18 ≤ b.length) && decide (1 ≤ n) && decide (n ≤ 292) && b.length == 18 + 5 * n
  | 4 | 6 => b.length == 0
  | 5 => b.length == 12
  | 7 =>
    let op := octAt b 0
    let n := octAt b 1
    decide (4 ≤ b.length) && decide (op ≤ 1) && decide (1 ≤ n) && decide (n ≤ if op = 1 then 6 else 2) && b.length == 4 + 8 * n
  | 8 => decide (4 ≤ b.length) && (b.length == 4 || b.length == 4 + 4 * octAt b 0)
  | _ => false

/-- The TYPE that a frame carries; 0 where it carries no Hank header. -/
def hankTypeOf (f : List Byte) : Nat :=
  let at_ := hankHdrAt f
  if beNat ((f.drop (at_ - 2)).take 2) = 0x88B6 ∧ at_ + 20 ≤ f.length ∧ octAt f at_ / 16 = 1 then octAt f at_ % 16 else 0

/-- Check 1 of Table 11.7: the message of a frame that passes it. -/
def parseHank (p : Packet) : Option HankRx :=
  let f := p.bytes
  let at_ := hankHdrAt f
  let typ := hankTypeOf f
  let h := f.drop at_
  let len := beNat ((h.drop 16).take 2)
  let b := (h.drop 20).take len
  if typ ≠ 0 ∧ 20 + len ≤ h.length ∧ bodyOk typ b then
    some { typ := typ, last := (octAt h 1).testBit 7, senderRole := octAt h 2 / 64, targetRole := octAt h 2 / 16 % 4,
           sender := octAt h 3, target := octAt h 4, senderEpoch := beNat ((h.drop 6).take 2),
           targetEpoch := beNat ((h.drop 8).take 2), seq := beNat ((h.drop 10).take 2), cmdId := beNat ((h.drop 12).take 4),
           body := b, src := beNat ((f.drop 6).take 6), ingress := p.ingress }
  else none

/-- What the checks of Table 11.7 say of a message. -/
inductive HankVerdict where
  | rejected
  | duplicate (m : HankRx)
  | passed (m : HankRx)
  deriving DecidableEq, Repr

/-- Check 5 of Table 11.7. -/
def Chip.senderOk (c : Chip) (m : HankRx) : Bool :=
  if c.isWorker then
    m.senderRole == roleMANAGER &&
      if m.typ = hkBIND then
        (!c.on HANK.BIND_STATUS_MGR_VALID && c.on HANK.CFG_LEARN) || m.src == c.mgrMac
      else c.on HANK.BIND_STATUS_MGR_VALID && m.src == c.mgrMac && m.senderEpoch == c.fld HANK.BIND_STATUS_MGR_EPOCH
  else if c.isManager then
    m.senderRole == roleWORKER && decide (1 ≤ m.sender) && c.on HANK.WT_CFG_VALID 0 m.sender && m.src == c.wtMac m.sender &&
      (m.typ == hkHELLO || m.senderEpoch == c.fld HANK.WT_STATUS_EPOCH 0 m.sender)
  else false

/-- Messages whose SEQ a worker keeps (check 6). -/
def seqKept (typ : Nat) : Bool := typ == hkBIND || typ == hkFANOUT || typ == hkCANCEL || typ == hkREGREQ

/-- A message is rejected under a role or epoch that does not hold. -/
def Chip.roleStale (c : Chip) : Chip := (c.bump HANK.ROLE_STALE_COUNT).raise EV.HANK_ROLE_STALE

/-- The checks of Table 11.7, in order. -/
def Chip.hankCheck (c : Chip) (p : Packet) : Chip × HankVerdict :=
  match parseHank p with
  | none => ((c.bump HANK.HDR_ERR_COUNT).raise EV.HANK_HDR_ERR, .rejected)
  | some m =>
    if !c.on GLOBAL.ROLE_SETTLED then (c.roleStale, .rejected)
    else if m.targetRole ≠ c.role ∨ (m.typ ≠ hkBIND ∧ m.targetEpoch ≠ c.roleEpoch) then (c.roleStale, .rejected)
    else if (c.isWorker ∧ m.typ ≠ hkBIND ∧ m.target ≠ c.fld HANK.BIND_STATUS_MY_ID) ∨ (c.isManager ∧ m.target ≠ 0) then
      ((c.bump HANK.NOT_FOR_ME_COUNT).raise EV.HANK_NOT_FOR_ME, .rejected)
    else if !c.senderOk m then (c.roleStale, .rejected)
    else
      let c := if c.isWorker then c.updHank fun h => { h with lastMgr := c.now } else c
      if c.isWorker ∧ seqKept m.typ ∧ c.hank.history.contains m.seq then
        ((c.bump HANK.DUPLICATES_COUNT).raise EV.HANK_DUPLICATE, .duplicate m)
      else (c, .passed m)

/-- The message is accepted: it counts, and a worker keeps its SEQ. -/
def Chip.hankAccept (c : Chip) (m : HankRx) : Chip :=
  let c := c.bumpWrap HANK.RX_MSGS_COUNT
  if c.isWorker ∧ seqKept m.typ then c.updHank fun h => { h with history := (m.seq :: h.history).take 32 } else c

/-- The oldest frame from port 0x81 is a message of type `typ`, or of none that the Hank block knows. -/
def Chip.hankFront (c : Chip) (typ : Nat) : Option Packet :=
  match c.hankIn with
  | p :: _ =>
    let t := hankTypeOf p.bytes
    if t = typ ∨ t = 0 ∨ 8 < t then some p else none
  | [] => none

/-- The Hank block takes the oldest frame: `acts` is what a message that passes does, `again` what answers a duplicate. -/
def Chip.hankTake (c : Chip) (typ : Nat) (acts again : Chip → HankRx → Chip) : Chip :=
  if c.dom .core ≠ domON then c
  else match c.hankFront typ with
    | some p =>
      match ({ c with hankIn := c.hankIn.tail }).hankCheck p with
      | (c, .rejected) => c
      | (c, .duplicate m) => again c m
      | (c, .passed m) => acts c m
    | none => c

/-- A duplicate that is not answered. -/
def Chip.noAnswer (c : Chip) (_ : HankRx) : Chip := c

/-- FANOUT and CANCEL are acknowledged (R385, R389). -/
def Chip.ackFanout (c : Chip) (m : HankRx) : Chip := c.toManager hkFANOUTACK m.seq m.cmdId []

/-! ### BIND and HELLO (R386, R387) -/

/-- The uplink by which a BIND came in. -/
def Chip.bindUplink (c : Chip) (m : HankRx) : Chip :=
  if isUplinkPort m.ingress then c.setFld HANK.BIND_STATUS_MGR_UPLINK m.ingress
  else c.drawn.setFld HANK.BIND_STATUS_MGR_UPLINK c.freeVal

/-- A worker accepts a BIND. -/
def Chip.bindAccept (c : Chip) (m : HankRx) : Chip :=
  let newEpoch := m.senderEpoch != c.fld HANK.BIND_STATUS_MGR_EPOCH
  let c := if newEpoch || m.src != c.mgrMac then (c.updHank fun h => { h with history := [] }).sharesLost else c
  let c := c.hankAccept m
  let c := (c.setFld64 HANK.MGR_MAC_LO_ADDR HANK.MGR_MAC_HI_ADDR m.src).setFld HANK.BIND_STATUS_MGR_EPOCH m.senderEpoch
  let c := (c.setFld HANK.BIND_STATUS_MY_ID (octAt m.body 0)).bindUplink m
  let c := (c.setFld HANK.BIND_STATUS_MGR_VALID 1).raise EV.HANK_BOUND
  let c := if newEpoch then c.raise EV.HANK_MGR_EPOCH_CHANGE else c
  c.toManagerFree hkHELLO 0 (beBytes 1 c.mode ++ beBytes 3 0)

def execBindRx (s : State) : Result :=
  run (fun c => c.hankTake hkBIND (fun d m => if d.isWorker then d.bindAccept m else d.hankAccept m) Chip.noAnswer) s

/-- The manager accepts a HELLO. -/
def Chip.helloAccept (c : Chip) (m : HankRx) : Chip :=
  let w := m.sender
  let c := (c.hankAccept m).setFld HANK.WT_STATUS_EPOCH m.senderEpoch 0 w
  let c := if c.wtState w = wtBOUND then c else c.raise EV.HANK_WORKER_UP
  (c.setWtState w wtBOUND).updHank fun h => { h with helloAt := Tab.put 0 h.helloAt w c.now }

def execHelloRx (s : State) : Result :=
  run (fun c => c.hankTake hkHELLO (fun d m => if d.isManager then d.helloAccept m else d.hankAccept m) Chip.noAnswer) s

/-! ### FANOUT and CANCEL at a worker (R389, R396) -/

/-- The items of a FANOUT body (R383). -/
def fanItems (b : List Byte) : List Item :=
  (List.range (beNat ((b.drop 14).take 2))).map fun i =>
    let o := 18 + 5 * i
    { seg := octAt b o, node := octAt b (o + 1), obj := octAt b (o + 2), value := beNat ((b.drop (o + 3)).take 2) }

/-- A part of a share arrives. -/
def Chip.partIn (c : Chip) (key : Nat) (m : HankRx) : Chip :=
  let part := beNat ((m.body.drop 12).take 2)
  let c := c.updShare key fun h =>
    let h := if m.last then { h with lastPart := some part } else h
    if h.parts.contains part then h else { h with parts := part :: h.parts, pending := h.pending ++ fanItems m.body }
  c.wakeDistaff.runShare key

/-- A worker accepts a FANOUT frame, unless it would open a share too many. -/
def Chip.fanoutRx (c : Chip) (m : HankRx) : Chip :=
  match c.findShare m.cmdId with
  | some (key, _) => ((c.hankAccept m).ackFanout m).partIn key m
  | none =>
    if 256 ≤ c.shareCount then (c.bump DISTAFF.SHARE_FULL_COUNT).raise EV.DISTAFF_SHARE_FULL
    else
      let key := c.distaff.nextKey
      let sec := signed 48 (beNat (m.body.take 6))
      let h : Share := { cmdId := m.cmdId, apply := (sec * 1000000000 + beNat ((m.body.drop 6).take 4)) * 64,
                         ramp := beNat ((m.body.drop 10).take 2) }
      (((c.hankAccept m).ackFanout m).addShare h).partIn key m

def execFanoutRx (s : State) : Result :=
  run (fun c => c.hankTake hkFANOUT (fun d m => if d.isWorker then d.fanoutRx m else d.hankAccept m) Chip.ackFanout) s

/-- A worker accepts a CANCEL. -/
def Chip.cancelRx (c : Chip) (m : HankRx) : Chip :=
  let c := ((c.hankAccept m).raise EV.HANK_CANCEL_RX).ackFanout m
  match c.findShare m.cmdId with
  | some (key, _) => (c.staleDiscard key).dropShare key
  | none => c

def execCancelRx (s : State) : Result :=
  run (fun c => c.hankTake hkCANCEL (fun d m => if d.isWorker then d.cancelRx m else d.hankAccept m) Chip.ackFanout) s

/-! ### Answers at the manager (R385, R394, R399) -/

/-- A FANOUT_ACK answers a FANOUT or a CANCEL. -/
def Chip.hankAckRx (c : Chip) (m : HankRx) : Chip :=
  let c := c.hankAccept m
  match c.awaiting m.sender m.seq with
  | some (id, q) => if q.typ = hkFANOUT ∨ q.typ = hkCANCEL then c.setMsg id none else c
  | none => c

def execFanoutAckRx (s : State) : Result :=
  run (fun c => c.hankTake hkFANOUTACK (fun d m => if d.isManager then d.hankAckRx m else d.hankAccept m) Chip.noAnswer) s

/-- The manager's command with a CMD_ID. -/
def Chip.findCmd (c : Chip) (id : Nat) : Option Nat :=
  c.distaff.shares.findSome? fun e => match e.2 with
    | some h => if h.cmd.isSome && h.cmdId == id then some e.1 else none
    | none => none

/-- The first SHARE_DONE of a worker is acted on (R385, R393). -/
def Chip.shareDoneRx (c : Chip) (m : HankRx) : Chip :=
  let c := c.hankAccept m
  match c.findCmd m.cmdId with
  | some key => c.updFan key fun k =>
      { k with replies := Tab.upd {} k.replies m.sender fun r =>
          if r.done then r
          else { r with done := true, onTime := beNat (m.body.take 4), late := beNat ((m.body.drop 4).take 4) } }
  | none => c

def execShareDoneRx (s : State) : Result :=
  run (fun c => c.hankTake hkSHAREDONE (fun d m => if d.isManager then d.shareDoneRx m else d.hankAccept m) Chip.noAnswer) s

/-- A REG_RESP completes the REMOTE_REG it answers (R398, R399). -/
def Chip.regRespRx (c : Chip) (m : HankRx) : Chip :=
  let c := c.hankAccept m
  match c.awaiting m.sender m.seq with
  | some (id, q) =>
    if q.typ ≠ hkREGREQ then c
    else
      let c := c.setMsg id none
      match q.tag with
      | some t =>
        let n := octAt m.body 0
        let word (i : Nat) : Nat := beNat ((m.body.drop (4 + 4 * i)).take 4)
        let c := (c.opProgress t n).updOp t fun o => { o with r6 := word 0, r7 := word 1 }
        c.regEnd t m.sender (if octAt m.body 1 = 0 then csOK else csRRACCESS)
      | none => c.regNext m.sender
  | none => c

def execRegRespRx (s : State) : Result :=
  run (fun c => c.hankTake hkREGRESP (fun d m => if d.isManager then d.regRespRx m else d.hankAccept m) Chip.noAnswer) s

end Sys2Proof.Machine
end

