-- ==== Sys2Proof/Machine/Ring.lean ====
section
/-!
DEFINITION. Machine/Ring.lean: ring indices (R339), the shadow block (R345), completion entries (R341, R353, R356), the
holding buffer and back-pressure (R360, R361), and the order of the writes to host memory (R369, R370).
Log entries: DEDUCED 77; DESIGN CHOICE 9 (notes/assumptions).
-/
namespace Sys2Proof.Machine

/-! ### Indices (R338, R339) -/

/-- The size of a ring: SIZE_LOG2 outside 6 to 16 acts as 6. -/
def ringSize (log : Nat) : Nat := if 6 ≤ log ∧ log ≤ 16 then 2 ^ log else 64

def idxSlot (i : Nat) : Nat := i % 65536
def idxWrap (i : Nat) : Nat := i / 65536 % 2

/-- count(a, b) of R339. -/
def idxCount (size a b : Nat) : Int :=
  (if idxWrap a ≠ idxWrap b then (size : Int) else 0) + idxSlot b - idxSlot a

/-- An index advanced by one. -/
def idxNext (size i : Nat) : Nat := if idxSlot i + 1 = size then (1 - idxWrap i) * 65536 else i + 1

/-! ### Registers of the queues -/

/-- The SQ states of Table 10.12. -/
abbrev sqOFF : Nat := 0
abbrev sqACTIVE : Nat := 1
abbrev sqDRAINING : Nat := 2
abbrev sqABORTING : Nat := 3
abbrev sqERROR : Nat := 4

def Chip.sqState (c : Chip) (q : Nat) : Nat := c.fld HOSTQ.SQ_STATUS_STATE 0 q
def Chip.sqSize (c : Chip) (q : Nat) : Nat := ringSize (c.fld HOSTQ.SQ_CFG_SIZE_LOG2 0 q)
def Chip.sqProd (c : Chip) (q : Nat) : Nat := c.fld HOSTQ.SQ_PROD_INDEX 0 q
def Chip.sqCons (c : Chip) (q : Nat) : Nat := c.fld HOSTQ.SQ_CONS_INDEX 0 q
def Chip.sqCr (c : Chip) (q : Nat) : Nat := c.fld HOSTQ.SQ_CFG_CR 0 q
def Chip.crOn (c : Chip) (r : Nat) : Bool := c.on HOSTQ.CR_STATUS_ENABLED 0 r
def Chip.crSize (c : Chip) (r : Nat) : Nat := ringSize (c.fld HOSTQ.CR_CFG_SIZE_LOG2 0 r)
def Chip.crTail (c : Chip) (r : Nat) : Nat := c.fld HOSTQ.CR_TAIL_INDEX 0 r
def Chip.crHead (c : Chip) (r : Nat) : Nat := c.fld HOSTQ.CR_HEAD_INDEX 0 r
def Chip.crBp (c : Chip) (r : Nat) : Bool := c.on HOSTQ.CR_STATUS_BACKPRESSURE 0 r

/-- The tags of an SQ in use, in fetch order. -/
def Chip.liveTags (c : Chip) (q : Nat) : List Nat := Tab.get [] c.hostq.live q

/-- The HOST domain writes and reads host memory. -/
def Chip.hostUp (c : Chip) : Bool := c.dom .host == domON && !c.modes.perst

/-- One bit of a bitmap held in a pair of registers, 32 to each. -/
def Chip.setBitmap (c : Chip) (lo hi : FieldRow) (r : Nat) (b : Bool) : Chip :=
  let row := if r < 32 then lo else hi
  let m := 2 ^ (r % 32)
  let v := c.fld row
  c.setFld row (if b then v ||| m else v ^^^ (v &&& m))

/-- The SQ has entered ERROR or OFF (R362, R370). -/
def Chip.sqAttn (c : Chip) (q : Nat) : Chip :=
  let c := c.flag HOSTQ.SQ_ATTN_ATTN (2 ^ (q % 32)) 0 (q / 32)
  c.flag HOSTQ.SQ_GRP_EVT_ATTN (2 ^ (q / 8))

def Chip.setSqState (c : Chip) (q v : Nat) : Chip := c.setFld HOSTQ.SQ_STATUS_STATE v 0 q

/-- ACTIVE becomes ERROR (Table 10.12). -/
def Chip.sqError (c : Chip) (q cause : Nat) : Chip :=
  ((c.setSqState q sqERROR).setFld HOSTQ.SQ_STATUS_CAUSE cause 0 q).sqAttn q

/-- The SQ goes OFF. -/
def Chip.sqGoOff (c : Chip) (q : Nat) : Chip := (c.setSqState q sqOFF).sqAttn q

/-! ### Writes to host memory -/

/-- A write to host memory is issued (R369). -/
def Chip.hostWrite (c : Chip) (addr : Nat) (bytes : List Byte) : Chip :=
  { c with hostWrites := c.hostWrites ++ [{ addr := addr % 2 ^ 64, bytes := bytes }] }

/-- Word `k` of the shadow block (Table 10.3). -/
def Chip.shadowWord (c : Chip) (k : Nat) : Nat :=
  if k < 256 then
    c.sqCons k + c.sqState k * 2 ^ 24 + (if c.sqQuiescent k then 2 ^ 27 else 0)
  else if k < 320 then c.crTail (k - 256) + (if c.crBp (k - 256) then 2 ^ 24 else 0)
  else 0

/-- Word `k` of the shadow block is to be written. -/
def Chip.shadowDue (c : Chip) (k : Nat) : Bool :=
  c.on HOSTQ.SHADOW_ADDR_LO_EN && c.hostUp && Tab.get none c.hostq.shadow k != some (c.shadowWord k)

/-- A shadow word is written. -/
def Chip.shadowEmit (c : Chip) (k : Nat) : Chip :=
  let base := c.fld HOSTQ.SHADOW_ADDR_LO_ADDR * 4096 + c.fld HOSTQ.SHADOW_ADDR_HI_ADDR * 2 ^ 32
  let w := c.shadowWord k
  (c.updHostq fun h => { h with shadow := Tab.put none h.shadow k (some w) }).hostWrite (base + 4 * k) (leBytes 4 w)

def execShadowWrite (word : Fin 512) (s : State) : Result :=
  run (fun c => c.whenDue (c.shadowDue word.val) fun d => d.shadowEmit word.val) s

/-! ### Completion entries (R341, R353, R356) -/

/-- CR entries are written: the CR is enabled, and the mode is not SAFE (R59). -/
def Chip.crWritable (c : Chip) (r : Nat) : Bool := c.crOn r && c.hostUp && c.mode != mSAFE

/-- The CR has a free entry. -/
def Chip.crFree (c : Chip) (r : Nat) : Bool := decide (idxCount (c.crSize r) (c.crHead r) (c.crTail r) < c.crSize r)

/-- An entry is written at the tail; `w0` is word 0 without PHASE. -/
def Chip.crEntry (c : Chip) (r w0 : Nat) (rest : List Nat) : Chip :=
  let t := c.crTail r
  let base := c.fld HOSTQ.CR_BASE_LO_ADDR 0 r * 4096 + c.fld HOSTQ.CR_BASE_HI_ADDR 0 r * 2 ^ 32
  let c := c.hostWrite (base + 32 * idxSlot t) (((w0 + (1 - idxWrap t)) :: rest).flatMap fun w => leBytes 4 w)
  (c.setFld HOSTQ.CR_TAIL_INDEX (idxNext (c.crSize r) t) 0 r).flag
    (if r < 32 then HOSTQ.CR_EVT_LO_WRITTEN else HOSTQ.CR_EVT_HI_WRITTEN) (2 ^ (r % 32))

/-- Words 0 (without PHASE) and 1 to 7 of the completion of tag `t` (Table 10.8). -/
def Chip.opEntry (c : Chip) (t : Nat) : Nat × List Nat :=
  let o := c.op t
  let st := c.fld HOSTQ.LEDGER_ENTRY0_STATUS 0 t
  let oc := c.fld HOSTQ.LEDGER_ENTRY0_OPCODE 0 t
  let tx := oc == opTX
  let ts := match o.stamp with
    | some x => if tx && (o.words.getD 0 0).testBit 10 then ts96 x 0 else [0, 0, 0]
    | none => [0, 0, 0]
  (st * 2 ^ 8 + t * 2 ^ 16,
   [c.fld HOSTQ.LEDGER_ENTRY1_PROGRESS 0 t + (if st = csDROPPED then o.detail else 0) * 2 ^ 24] ++ ts ++
   [c.tagSq t + oc * 2 ^ 8 + (if tx then o.egress else 0) * 2 ^ 16, o.r6, o.r7])

/-- A completion of which nothing is written (R356). -/
def Chip.silent (c : Chip) (t : Nat) : Bool :=
  let st := c.fld HOSTQ.LEDGER_ENTRY0_STATUS 0 t
  (c.op t).quiet && (st == csOK || st == csONTIME)

/-- The completion of tag `t` is written to its CR, after the shadow word that shows C past its entry (R369), and the tag
becomes FREE. A bad word of its ledger entry is reported, and used as read (Table 12.7). -/
def Chip.deliver (c : Chip) (t : Nat) : Chip :=
  let c := (c.sramRead none (· == .cell .ledger t)).1
  if c.silent t then c.opFree t
  else
    let q := c.tagSq t
    let c := if c.shadowDue q then c.shadowEmit q else c
    let (w0, rest) := c.opEntry t
    (c.crEntry (c.tagCr t) w0 rest).opFree t

/-! ### The holding buffer and back-pressure (R360, R361) -/

def Chip.parkedOf (c : Chip) (r : Nat) : List Nat := c.hostq.parked.filter fun t => c.tagCr t == r
def Chip.waitingOf (c : Chip) (r : Nat) : List Nat := c.hostq.waiting.filter fun t => c.tagCr t == r

/-- How many completions CR `r` owes from the holding buffer and the ledger. -/
def Chip.owed (c : Chip) (r : Nat) : Nat := (c.parkedOf r).length + (c.waitingOf r).length

/-- PARK_LIMIT in force. -/
def Chip.parkLimit (c : Chip) (r : Nat) : Nat := min 2048 (max 1 (c.fld HOSTQ.CR_CFG_PARK_LIMIT 0 r))

def Chip.setBp (c : Chip) (r : Nat) (b : Bool) : Chip :=
  (c.setBit HOSTQ.CR_STATUS_BACKPRESSURE b 0 r).setBitmap HOSTQ.CR_BP_LO_BP HOSTQ.CR_BP_HI_BP r b

/-- Back-pressure of CR `r` is judged. -/
def Chip.bpJudge (c : Chip) (r : Nat) : Chip :=
  if !c.crBp r && decide (c.parkLimit r ≤ c.owed r) then (c.setBp r true).raise EV.HOSTQ_CR_BACKPRESSURE
  else if c.crBp r && c.owed r == 0 then (c.setBp r false).raise EV.HOSTQ_CR_RELEASED
  else c

/-- A completion parks, or waits in the ledger. -/
def Chip.park (c : Chip) (t : Nat) : Chip :=
  if c.hostq.parked.length < 2048 then
    let c := ((c.updHostq fun h => { h with parked := h.parked ++ [t] }).setFld HOSTQ.LEDGER_ENTRY0_PARKED 1 0 t).bump
      HOSTQ.PARKS_COUNT
    (if c.hostq.parked.length = 2048 then c.raise EV.HOSTQ_HOLD_FULL else c).bpJudge (c.tagCr t)
  else
    (((c.updHostq fun h => { h with waiting := h.waiting ++ [t] }).bump HOSTQ.LEDGER_WAITS_COUNT).raise
      EV.HOSTQ_LEDGER_WAIT).bpJudge (c.tagCr t)

/-- The completion that has been due longest, of those whose CR can be written. -/
def Chip.dueTag (c : Chip) : Option Nat := c.hostq.due.find? fun t => c.crWritable (c.tagCr t)

/-- A due completion is handled (R360). -/
def Chip.complete (c : Chip) : Chip :=
  match c.dueTag with
  | some t =>
    let r := c.tagCr t
    let c := c.updHostq fun h => { h with due := h.due.erase t }
    if c.crFree r && c.owed r == 0 then c.deliver t else c.park t
  | none => c

def execCompletion (s : State) : Result := run Chip.complete s

/-- The oldest completion that CR `r` owes: parked ones before waiting ones. -/
def Chip.owedHead (c : Chip) (r : Nat) : Option Nat := (c.parkedOf r ++ c.waitingOf r).head?

/-- Completions that CR `r` owes are written while it has free entries; `fuel` is at least their number. -/
def Chip.drainGo (r : Nat) : Nat → Chip → Chip
  | 0, c => c
  | fuel + 1, c =>
    if c.crWritable r && c.crFree r then
      match c.owedHead r with
      | some t => Chip.drainGo r fuel (c.deliver t)
      | none => c
    else c

def Chip.drain (c : Chip) (r : Nat) : Chip := (Chip.drainGo r (c.owed r) c).bpJudge r

end Sys2Proof.Machine
end

