-- ==== Sys2Proof/Machine/HostRx.lean ====
section
/-!
DEFINITION. Machine/HostRx.lean: receive placement (R357 to R359) and the CR head doorbell (R344).
Log entries: DEDUCED 76, 79 (notes/assumptions).
-/
namespace Sys2Proof.Machine

/-- The CR that RX_MAP gives a trap reason, where its entry has EN = 1. -/
def Chip.rxMap (c : Chip) (reason : Nat) : Option Nat :=
  let k := reason / 4
  let (en, cr) := match reason % 4 with
    | 0 => (HOSTQ.RX_MAP_EN0, HOSTQ.RX_MAP_CR0)
    | 1 => (HOSTQ.RX_MAP_EN1, HOSTQ.RX_MAP_CR1)
    | 2 => (HOSTQ.RX_MAP_EN2, HOSTQ.RX_MAP_CR2)
    | _ => (HOSTQ.RX_MAP_EN3, HOSTQ.RX_MAP_CR3)
  if c.on en 0 k then some (c.fld cr 0 k) else none

/-- BUF_SIZE of a CR. -/
def Chip.bufSize (c : Chip) (r : Nat) : Nat := 256 * 2 ^ min 6 (c.fld HOSTQ.CR_RX_CFG_BUF_SIZE_LOG 0 r)

/-- POST_LIMIT in force. -/
def Chip.postLimit (c : Chip) (r : Nat) : Nat := min 16384 (max 1 (c.fld HOSTQ.CR_RX_CFG_POST_LIMIT 0 r))

/-- The buffers that a frame needs on CR `r`. -/
def Chip.bufsNeeded (c : Chip) (r : Nat) (p : Packet) : Nat := (p.bytes.length + c.bufSize r - 1) / c.bufSize r

/-- The buffer list of CR `r`: addresses and sequence numbers. -/
def Chip.crBufs (c : Chip) (r : Nat) : List (Nat × Nat) := Tab.get [] c.hostq.bufs r
def Chip.setCrBufs (c : Chip) (r : Nat) (l : List (Nat × Nat)) : Chip :=
  c.updHostq fun h => { h with bufs := Tab.put [] h.bufs r l }

/-- A frame that needs `n` buffers of CR `r` can be placed (R359). -/
def Chip.placeable (c : Chip) (r n : Nat) : Bool :=
  c.crWritable r && decide (n ≤ (c.crBufs r).length) && c.crFree r && c.owed r == 0

def Chip.hostQueue (c : Chip) : List Packet := c.queue portHost 0

/-- The octets of a frame, buffer by buffer. -/
def Chip.fillBufs (size : Nat) : List (Nat × Nat) → List Byte → Chip → Chip
  | [], _, c => c
  | (a, _) :: r, f, c => Chip.fillBufs size r (f.drop size) (c.hostWrite a (f.take size))

/-- Words 0 (without PHASE) and 1 to 7 of a receive completion (Table 10.9). -/
def rxEntry (p : Packet) (n first : Nat) : Nat × List Nat :=
  let ts := if p.ingress = portHost then [0, 0, 0] else ts96 p.stamp 0
  (2 + p.reason * 2 ^ 8,
   [p.bytes.length + n * 2 ^ 16 + p.ingress * 2 ^ 24] ++ ts ++ [first + p.cls * 2 ^ 16 + p.keyFlags * 2 ^ 19, p.ctx, 0])

/-- A frame leaves the host queue with its fate. -/
def Chip.rxDrop (c : Chip) (p : Packet) : Chip := (c.setQueue portHost 0 (c.hostQueue.erase p)).dropCopy p 8

/-- A frame is dropped under R359 or R364. -/
def Chip.rxHoldDrop (c : Chip) (p : Packet) : Chip :=
  ((c.bump HOSTQ.RX_HOLD_DROP_COUNT).raise EV.HOSTQ_RX_HOLD_DROP).rxDrop p

/-- A frame is placed on CR `r`: its data, then its completion (R358, R369). -/
def Chip.place (c : Chip) (r : Nat) (p : Packet) : Chip :=
  let n := c.bufsNeeded r p
  let l := c.crBufs r
  let first := match l with | (_, q) :: _ => q | [] => 0
  let c := (c.setQueue portHost 0 (c.hostQueue.erase p)).setCrBufs r (l.drop n)
  let c : Chip := match p.tag with | some t => c.opStarted t | none => c
  let c := Chip.fillBufs (c.bufSize r) (l.take n) p.bytes c
  let (w0, rest) := rxEntry p n first
  ((c.crEntry r w0 rest).bump HOSTQ.RX_FRAMES_COUNT).copyFate p true csOK 0

/-- The oldest frame that waits for CR `r`, with when it began to. -/
def Chip.rxWaiter (c : Chip) (r : Nat) : Option (Packet × Nat) :=
  c.hostQueue.findSome? fun p => match p.rxWait with
    | some (x, t) => if x = r then some (p, t) else none
    | none => none

/-- Frames that wait for CR `r` are placed in order, as far as they can be. -/
def Chip.rxRetryGo (r : Nat) : Nat → Chip → Chip
  | 0, c => c
  | fuel + 1, c =>
    match c.rxWaiter r with
    | some (p, _) => if c.placeable r (c.bufsNeeded r p) then Chip.rxRetryGo r fuel (c.place r p) else c
    | none => c

def Chip.rxRetry (c : Chip) (r : Nat) : Chip := Chip.rxRetryGo r c.hostQueue.length c

/-- A frame joins the wait list of CR `r`; a limit of 0 drops it. -/
def Chip.rxHold (c : Chip) (r : Nat) (p : Packet) : Chip :=
  if c.fld HOSTQ.RX_HOLD_LIMIT_US = 0 then c.rxHoldDrop p
  else c.setQueue portHost 0 (c.hostQueue.map fun x => if x.id = p.id then { x with rxWait := some (r, c.now) } else x)

/-- The placement engine takes a frame (R357 to R359). -/
def Chip.rxPlace (c : Chip) (p : Packet) : Chip :=
  let unmapped := ((c.bump HOSTQ.RX_UNMAPPED_COUNT).raise EV.HOSTQ_RX_UNMAPPED).rxDrop p
  match c.rxMap p.reason with
  | some r =>
    if !(c.crOn r && c.on HOSTQ.CR_RX_CFG_RX_EN 0 r) then unmapped
    else if c.postLimit r < c.bufsNeeded r p then ((c.bump HOSTQ.RX_TOO_BIG_COUNT).raise EV.HOSTQ_RX_TOO_BIG).rxDrop p
    else if (c.rxWaiter r).isNone && c.placeable r (c.bufsNeeded r p) then c.place r p
    else c.rxHold r p
  | none => unmapped

/-- The next frame that the host queue releases: the first that waits for no CR, once its eligibility tick has come (R280). -/
def Chip.rxNext (c : Chip) : Option Packet :=
  match c.hostQueue.find? (·.rxWait.isNone) with
  | some p => if (match p.eligible with | some e => c.tickReached e | none => true) then some p else none
  | none => none

/-- Placement goes on while host memory can be written and the mode is not SAFE (R59). -/
def Chip.rxStep (c : Chip) : Chip :=
  if c.hostUp && c.dom .core == domON && c.mode != mSAFE then
    match c.rxNext with
    | some p => c.rxPlace p
    | none => c
  else c

def execRxPlacement (s : State) : Result := run Chip.rxStep s

/-- The oldest frame waiting for CR `r` has waited RX_HOLD_LIMIT µs. -/
def Chip.rxTimeout (c : Chip) (r : Nat) : Chip :=
  match c.rxWaiter r with
  | some (p, t) => if t + c.fld HOSTQ.RX_HOLD_LIMIT_US * usQ ≤ c.now then (c.rxHoldDrop p).rxRetry r else c
  | none => c

def execRxHoldTimeout (cr : Fin 64) (s : State) : Result := run (fun c => c.rxTimeout cr.val) s

/-! ### Doorbells (R342 to R344) -/

/-- A CR head doorbell. -/
def Chip.crDoorbell (c : Chip) (r v : Nat) : Chip :=
  let size := c.crSize r
  if c.crOn r ∧ idxSlot v < size ∧ idxCount size (c.crHead r) v ≤ idxCount size (c.crHead r) (c.crTail r) then
    ((c.setFld HOSTQ.CR_HEAD_INDEX v 0 r).drain r).rxRetry r
  else (c.bump HOSTQ.CR_HEAD_ERRORS_COUNT).raise EV.HOSTQ_CR_HEAD_ERROR

/-- An SQ doorbell is judged (R343). -/
def Chip.sqDoorbell (c : Chip) (q v : Nat) : Chip :=
  let size := c.sqSize q
  let k := idxCount size (c.sqCons q) v
  if c.sqState q ≠ sqACTIVE then c.bump HOSTQ.DB_IGNORED_COUNT
  else if idxSlot v < size ∧ k ≤ size ∧ idxCount size (c.sqCons q) (c.sqProd q) ≤ k then c.setFld HOSTQ.SQ_PROD_INDEX v 0 q
  else ((c.sqError q 1).bump HOSTQ.DB_ERRORS_COUNT).raise EV.HOSTQ_DB_ERROR

/-- BAR2 writes are accepted while HOST is ON or LINK (R342). -/
def Chip.bar2Open (c : Chip) : Bool := c.reaches .bar0 && !c.modes.perst

/-- A write of BAR2 (Table 10.2). -/
def Chip.bar2Write (c : Chip) (off v : Nat) (be : BitVec 4) : Chip :=
  let i := v % 2 ^ 17
  if !c.bar2Open then c
  else if be ≠ 0xF ∨ off % 128 ≠ 0 ∨ 0xA000 ≤ off then c.bump HOSTQ.DB_IGNORED_COUNT
  else if off < 0x8000 then
    let q := off / 128
    if c.dom .host = domON then c.sqDoorbell q i
    else c.updHostq fun h => { h with pdb := Tab.upd [] h.pdb q (· ++ [i]) }
  else c.crDoorbell ((off - 0x8000) / 128) i

def execSqDoorbell (offset : BitVec 16) (value : Word) (be : BitVec 4) (s : State) : Result :=
  run (fun c => c.bar2Write offset.toNat value.toNat be) s

def execCrHeadDoorbell (offset : BitVec 16) (value : Word) (be : BitVec 4) (s : State) : Result :=
  run (fun c => c.bar2Write offset.toNat value.toNat be) s

/-- HOST has become ON: the indices written before are judged, those of an SQ in their order, and what the CRs owe is written (R342,
R360). -/
def Chip.hostWake (c : Chip) : Chip :=
  let l := c.hostq.pdb
  let c := c.updHostq fun h => { h with pdb := [] }
  let c := l.foldl (fun d e => e.2.foldl (fun d v => d.sqDoorbell e.1 v) d) c
  (List.range 64).foldl (fun d r => (d.drain r).rxRetry r) c

end Sys2Proof.Machine
end

