-- ==== Sys2Proof/Machine/HostTx.lean ====
section
/-!
DEFINITION. Machine/HostTx.lean: submission entries (R346, R347), fetch (R348 to R350), handover (R351, R36), data errors (R352),
and withdrawing the copies of an operation (R363).
Log entries: DEDUCED 79, 80 (notes/assumptions).
-/
namespace Sys2Proof.Machine

/-! ### The judgement of an entry (R347) -/

/-- A TS96 in network form with VALID = 1 (Table 03.2). -/
def netTs96 (ns hi : Nat) : Bool := decide (ns < 1000000000) && bitsOf hi 31 29 == 4 && bitsOf hi 29 22 == 0

/-- A TX entry is good (Table 10.6). -/
def txGood (w : Nat → Nat) : Bool :=
  let len := bitsOf (w 1) 13 0
  let n := bitsOf (w 1) 17 16
  bitsOf (w 1) 15 14 == 0 && bitsOf (w 1) 31 18 == 0 && decide (14 ≤ len ∧ len ≤ 9600) && decide (1 ≤ n) &&
    (!(w 0).testBit 12 || netTs96 (w 2) (w 4)) && bitsOf (w 7) 31 14 == 0 && bitsOf (w 10) 31 14 == 0 &&
    bitsOf (w 13) 31 14 == 0 && ((List.range n).map fun k => bitsOf (w (7 + 3 * k)) 13 0).sum == len &&
    w 14 == 0 && w 15 == 0

/-- An RX_POST entry is good (Table 10.7). -/
def Chip.rxPostGood (c : Chip) (w : Nat → Nat) : Bool :=
  let n := bitsOf (w 1) 10 8
  let r := bitsOf (w 1) 5 0
  bitsOf (w 1) 7 6 == 0 && bitsOf (w 1) 31 11 == 0 && decide (1 ≤ n) &&
    (List.range n).all (fun k => bitsOf (w (2 + 2 * k)) 5 0 == 0) && c.crOn r && c.on HOSTQ.CR_RX_CFG_RX_EN 0 r

/-- A FANOUT entry is good (Table 11.3). -/
def fanoutGood (w : Nat → Nat) : Bool :=
  let ty := bitsOf (w 1) 23 16
  (decide (ty < 128) || ty == 0xFF) && bitsOf (w 1) 31 25 == 0 && netTs96 (w 3) (w 5) && bitsOf (w 6) 31 16 == 0 &&
    (List.range 9).all fun k => w (7 + k) == 0

/-- A REMOTE_REG entry is good (Table 11.14). -/
def remoteGood (w : Nat → Nat) : Bool :=
  let wr := (w 1).testBit 8
  let n := bitsOf (w 1) 14 12
  decide (1 ≤ bitsOf (w 1) 7 0) && bitsOf (w 1) 11 9 == 0 && bitsOf (w 1) 31 15 == 0 && decide (1 ≤ n) &&
    decide (n ≤ if wr then 6 else 2) && (List.range 6).all (fun k => bitsOf (w (2 + 2 * k)) 31 24 == 0) &&
    (List.range n).all (fun k => w (2 + 2 * k) % 4 == 0) && (wr || (List.range 6).all fun k => w (3 + 2 * k) == 0) &&
    w 14 == 0 && w 15 == 0

/-- The entry is not BAD_DESC. -/
def Chip.entryGood (c : Chip) (l : List Nat) : Bool :=
  let w (k : Nat) : Nat := l.getD k 0
  let oc := bitsOf (w 0) 7 0
  bitsOf (w 0) 15 13 == 0 && bitsOf (w 0) 31 28 == 0 && (oc == opTX || bitsOf (w 0) 12 10 == 0) &&
    if oc = opNOP then (List.range 15).all fun k => w (1 + k) == 0
    else if oc = opTX then txGood w
    else if oc = opRXPOST then c.rxPostGood w
    else if oc = opFANOUT then fanoutGood w
    else if oc = opREMOTE then remoteGood w
    else false

/-- The buffers that fetched RX_POSTs not yet handed over will post to CR `r`. -/
def Chip.postsAhead (c : Chip) (r : Nat) : Nat :=
  (c.txOps.map fun e =>
    let w1 := e.2.words.getD 1 0
    if c.opLive e.1 && !e.2.handed && bitsOf (e.2.words.getD 0 0) 7 0 == opRXPOST && bitsOf w1 5 0 == r then bitsOf w1 10 8
    else 0).sum

/-- An RX_POST that would raise the posted count of its CR above POST_LIMIT. -/
def Chip.rxFull (c : Chip) (l : List Nat) : Bool :=
  let r := bitsOf (l.getD 1 0) 5 0
  bitsOf (l.getD 0 0) 7 0 == opRXPOST &&
    decide (c.postLimit r < (c.crBufs r).length + c.postsAhead r + bitsOf (l.getD 1 0) 10 8)

/-! ### Fetch (R348 to R350) -/

/-- MAX_INFLIGHT in force. -/
def Chip.maxInflight (c : Chip) (q : Nat) : Nat :=
  let m := c.fld HOSTQ.SQ_CFG_MAX_INFLIGHT 0 q
  if m = 0 then 4096 else m

/-- The SQ is eligible for fetch (R348). -/
def Chip.sqEligible (c : Chip) (q : Nat) : Bool :=
  (c.mode == mACQUIRE || c.running) && c.hostUp && c.sqState q == sqACTIVE && c.sqProd q != c.sqCons q && !c.crBp (c.sqCr q) &&
    decide ((c.liveTags q).length < c.maxInflight q) && decide (c.tagsUsed < 4096)

/-- The SQ that the round-robin serves next. -/
def Chip.nextSq (c : Chip) : Option Nat :=
  ((List.range 256).map fun k => (c.hostq.last + 1 + k) % 256).find? c.sqEligible

/-- The tag of an entry becomes NOT_STARTED, and C advances past it (R349). -/
def Chip.takeTag (c : Chip) (q t : Nat) (l : List Nat) : Chip :=
  let w0 := l.getD 0 0
  let c := (c.setTagState t lgNOT).setFld HOSTQ.LEDGER_ENTRY0_SQ q 0 t
  let c := (c.setFld HOSTQ.LEDGER_ENTRY0_OPCODE (bitsOf w0 7 0) 0 t).setFld HOSTQ.LEDGER_ENTRY1_CR (c.sqCr q) 0 t
  let c := c.updOp t fun _ => { words := l, quiet := w0.testBit 8 }
  (c.updHostq fun h => { h with live := Tab.upd [] h.live q fun m => m ++ [t] }).setFld HOSTQ.SQ_CONS_INDEX
    (idxNext (c.sqSize q) (c.sqCons q)) 0 q

/-- An entry that has no effect completes, whatever QUIET says (R347). -/
def Chip.entryFails (c : Chip) (t status : Nat) : Chip :=
  (c.updOp t fun o => { o with handed := true, quiet := false }).opDone t status

/-- One entry is fetched and judged. -/
def Chip.fetchEntry (c : Chip) (q : Nat) (e : List Word) : Chip :=
  let l := (List.range 16).map fun k => (e.getD k 0).toNat
  let t := bitsOf (l.getD 0 0) 27 16
  if c.tagState t ≠ lgFREE then c.sqError q 2
  else
    let good := c.entryGood l
    let full := c.rxFull l
    let c := c.takeTag q t l
    if !good then ((c.entryFails t csBADDESC).bump HOSTQ.BAD_DESC_COUNT).raise EV.HOSTQ_BAD_DESC
    else if full then c.entryFails t csRXFULL
    else c

/-- A PCIe error on an entry read (R350). -/
def Chip.fetchError (c : Chip) (q : Nat) : Chip :=
  ((c.sqError q 3).bump HOSTQ.PCIE_ERRORS_COUNT).raise EV.HOSTQ_PCIE_ERROR

/-- The entries of one turn, as long as the SQ stays eligible. -/
def Chip.fetchGo (q : Nat) : List (Option (List Word)) → Chip → Chip
  | [], c => c
  | none :: _, c => if c.sqEligible q then c.fetchError q else c
  | some e :: r, c => if c.sqEligible q then Chip.fetchGo q r (c.fetchEntry q e) else c

/-- The turn of the next eligible SQ: up to WEIGHT entries (R348). -/
def Chip.fetch (c : Chip) (entries : List (Option (List Word))) : Chip :=
  match c.nextSq with
  | some q =>
    Chip.fetchGo q (entries.take (max 1 (c.fld HOSTQ.SQ_CFG_WEIGHT 0 q))) (c.updHostq fun h => { h with last := q })
  | none => c

def execSqFetch (entries : List (Option (List Word))) (s : State) : Result := run (fun c => c.fetch entries) s

/-! ### Handover (R351) -/

/-- The buffers of an RX_POST entry. -/
def postBufs (w : List Nat) : List Nat :=
  (List.range (bitsOf (w.getD 1 0) 10 8)).map fun k => w.getD (2 + 2 * k) 0 + w.getD (3 + 2 * k) 0 * 2 ^ 32

/-- Buffers join the list of CR `r`, each with the next sequence number (R358); a CR that has been disabled since takes
none. -/
def Chip.postTo (c : Chip) (r : Nat) (l : List Nat) : Chip :=
  if c.crOn r then
    let q := Tab.get 0 c.hostq.seq r
    (c.setCrBufs r (c.crBufs r ++ l.zipIdx.map fun e => (e.1, (q + e.2) % 65536))).updHostq fun h =>
      { h with seq := Tab.put 0 h.seq r ((q + l.length) % 65536) }
  else c

/-- An RX_POST is done at once (R355). -/
def Chip.rxPost (c : Chip) (t : Nat) : Chip :=
  let w := (c.op t).words
  let l := postBufs w
  let r := bitsOf (w.getD 1 0) 5 0
  let c := (c.updOp t fun o => { o with handed := true }).postTo r l
  ((c.setFld HOSTQ.LEDGER_ENTRY1_PROGRESS l.length 0 t).opDone t csOK).rxRetry r

/-- A TX frame enters the Carder as port 0x80, within the rate of the host path and with cells for it (R36, R270). -/
def Chip.txEnter (c : Chip) (t : Nat) (data : List Byte) : Chip :=
  let w := (c.op t).words
  let w0 := w.getD 0 0
  let f := data ++ List.replicate (60 - data.length) 0
  let pre := c.fld HOSTQ.SQ_CFG_PRECLASS 0 (c.tagSq t)
  if data.length ≠ bitsOf (w.getD 1 0) 13 0 ∨ ¬ c.hostUp ∨ c.dom .core ≠ domON ∨ 12 * c.aon < c.carder.hostFree then c
  else match c.cellsFor portHost (cellsOf f.length) pre with
    | some k =>
      let p : Packet := { id := c.buffer.nextId, ingress := portHost, bytes := f, preclass := pre, since := c.now, cells := k,
                          tag := some t, oneStep := w0.testBit 11,
                          launch := if w0.testBit 12 then some (ts96Of (w.getD 2 0) (w.getD 3 0) (w.getD 4 0) * 2 ^ 26) else none }
      let c := { c with buffer := { c.buffer with nextId := c.buffer.nextId + 1 } }
      let c := c.updCarder fun d => { d with hostFree := max d.hostFree (12 * c.aon) + 125 }
      let c := c.updOp t fun o => { o with handed := true, open_ := 1 }
      ((c.chargeCells portHost k).enqueueIngress p).bump HOSTQ.TX_FRAMES_COUNT
    | none => c

/-- The operation that SQ `q` hands over next. -/
def Chip.nextOp (c : Chip) (q : Nat) : Option Nat := (c.liveTags q).find? fun t => c.opLive t && !(c.op t).handed

/-- FENCE lets operation `t` of SQ `q` go: every earlier one is DONE (or FREE, and so no longer listed). -/
def Chip.fenceOpen (c : Chip) (q t : Nat) : Bool :=
  !((c.op t).words.getD 0 0).testBit 9 || ((c.liveTags q).takeWhile (· != t)).all fun u => c.tagState u == lgDONE

/-- Operation `t` is handed over, where its block takes it. -/
def Chip.handOver (c : Chip) (t : Nat) (data : List Byte) : Chip :=
  let oc := c.fld HOSTQ.LEDGER_ENTRY0_OPCODE 0 t
  if oc = opTX then c.txEnter t data
  else if oc = opRXPOST then c.rxPost t
  else if oc = opFANOUT then (if c.dom .core = domON then (c.fanAccept t).getD c else c)
  else if oc = opREMOTE then (if c.dom .core = domON then c.regAccept t else c)
  else (c.updOp t fun o => { o with handed := true }).opDone t csOK

def Chip.opHandover (c : Chip) (q : Nat) (data : List Byte) : Chip :=
  match c.nextOp q with
  | some t => if c.fenceOpen q t then c.handOver t data else c
  | none => c

def execOpHandover (sq : Fin 256) (data : List Byte) (s : State) : Result := run (fun c => c.opHandover sq.val data) s

/-! ### Withdrawing copies (R352, R363) -/

/-- The packet is a copy of operation `t`. -/
def Packet.isOf (p : Packet) (t : Nat) : Bool := p.tag == some t

/-- The packets of a table of lists. -/
def tabPackets (t : Tab (List Packet)) : List Packet := t.flatMap (·.2)

/-- The packets whose Carder passes have not ended. -/
def Chip.inPasses (c : Chip) : List Packet := c.carder.passes.map (·.pkt) ++ c.carder.recirc11 ++ c.carder.recirc

/-- The packets of the block that are on no wire: in the ingress FIFOs, the Carder and the Reel. -/
def Chip.stored (c : Chip) : List Packet :=
  tabPackets c.buffer.express ++ tabPackets c.buffer.general ++ c.inPasses ++ tabPackets c.carder.copies ++
    c.carder.order.flatMap (fun e => e.2.flatMap (·.out)) ++ c.reel.incoming ++ tabPackets c.reel.queues

/-- The copies of operation `t` that have not begun to leave the chip. -/
def Chip.unstarted (c : Chip) (t : Nat) : List Packet := c.stored.filter (·.isOf t)

/-- Every packet that `drop` names leaves the FIFOs, the Carder and the Reel, without a fate. -/
def Chip.pullPackets (c : Chip) (drop : Packet → Bool) : Chip :=
  let keep (l : List Packet) : List Packet := l.filter fun p => !drop p
  let ended := c.inPasses.filter drop
  let c := { c with buffer := { c.buffer with express := Tab.mapV [] c.buffer.express keep,
                                              general := Tab.mapV [] c.buffer.general keep } }
  let c := { c with reel := { c.reel with incoming := keep c.reel.incoming, queues := Tab.mapV [] c.reel.queues keep } }
  let c := c.updCarder fun d =>
    { d with passes := d.passes.filter fun a => !drop a.pkt, recirc11 := keep d.recirc11, recirc := keep d.recirc,
             copies := Tab.mapV [] d.copies keep,
             order := Tab.mapV [] d.order fun l => l.map fun g => { g with out := keep g.out } }
  let c := (List.range 96).foldl (fun d n => match (d.eng n).offer with
    | some (p, _) => if drop p then d.updEng n fun e => { e with offer := none, deferred := false } else d
    | none => d) c
  ended.foldl (fun d p => d.passesEnd p []) c

/-- The unstarted copies of operation `t` are withdrawn, and their cells return; the number is of the copies. -/
def Chip.withdraw (c : Chip) (t : Nat) : Chip × Nat :=
  let gone := c.unstarted t
  let c := gone.foldl (fun d p => d.returnCells p.ingress p.cells) (c.pullPackets (·.isOf t))
  (c.updOp t fun o => { o with open_ := o.open_ - gone.length }, gone.length)

/-! ### Data errors (R352) -/

/-- The uplinks on which a copy of operation `t` is still being read from host memory, on the wire or pre-empted (R352). -/
def Chip.reading (c : Chip) (t : Nat) : List Nat :=
  let mine (x : Option UplTx) : Bool := match x with | some u => u.early && u.pkt.isOf t | none => false
  (List.range 4).filter fun n => mine (c.upl n).cur || mine (c.upl n).cont

/-- A frame that has started is ended as an underrun ends it (R216), but for the threshold and the status. -/
def Chip.underrunEnd (c : Chip) (n : Nat) (u : UplTx) (status : Nat) : Chip :=
  ((c.bump UPLINK.TX_UNDERRUN_COUNT n).raise EV.UPLINK_TX_UNDERRUN n).copyFate u.pkt false status 0

/-- The frame on the wire is ended at once. -/
def Chip.badFcs (inst : Int) (status : Nat) (c : Chip) (n : Nat) : Chip :=
  match (c.upl n).cur with
  | some u => (c.updUpl n fun x => { x with cur := none, freeAt := inst + (c.octs n 16 : Nat) }).underrunEnd n u status
  | none => c

/-- What has started of operation `t` on uplink `n` ends: the frame on the wire at once, and a pre-empted one, which has no more
fragments. -/
def Chip.endReads (t : Nat) (inst : Int) (status : Nat) (c : Chip) (n : Nat) : Chip :=
  let mine (x : Option UplTx) : Bool := match x with | some u => u.pkt.isOf t | none => false
  let c := if mine (c.upl n).cur then Chip.badFcs inst status c n else c
  match (c.upl n).cont with
  | some u => if u.pkt.isOf t then (c.updUpl n fun x => { x with cont := none }).underrunEnd n u status else c
  | none => c

/-- A PCIe error on the data of operation `t`. -/
def Chip.txDataError (c : Chip) (t : Nat) (inst : Int) : Chip :=
  if c.opLive t && c.fld HOSTQ.LEDGER_ENTRY0_OPCODE 0 t == opTX then
    let count (d : Chip) : Chip := (d.bump HOSTQ.PCIE_ERRORS_COUNT).raise EV.HOSTQ_PCIE_ERROR
    if c.tagState t = lgNOT then
      count (((c.withdraw t).1.updOp t fun o => { o with handed := true, open_ := 0 }).opDone t csPCIEERROR)
    else
      let ns := c.reading t
      if ns == [] then c
      else
        let c := (c.withdraw t).1.updOp t fun o => { o with status := csPCIEERROR, detail := 0 }
        (ns.foldl (Chip.endReads t inst csPCIEERROR) (count c)).txJudge t
  else c

def execTxDataPcieError (tag : Fin 4096) (phi : Fin 2560) (s : State) : Result :=
  run (fun c => c.txDataError tag.val (c.instAt phi)) s

end Sys2Proof.Machine
end

