-- ==== Sys2Proof/Machine/QueueCmd.lean ====
section
/-!
DEFINITION. Machine/QueueCmd.lean: enabling and disabling queues (R362, R364), ABORT (R363, R396), the freezes of SAFE and of
PERST_N (R366, R367), and the ledger commands (R368).
Log entries: DEDUCED 28, 73, 77, 78, 80, 81, 82; DESIGN CHOICE 84 (notes/assumptions).
-/
namespace Sys2Proof.Machine

/-! ### ABORT (R363) -/

/-- ABORT of a TX operation that was handed over. -/
def Chip.txAbort (c : Chip) (t : Nat) : Chip :=
  let started := c.tagState t != lgNOT
  let (c, k) := c.withdraw t
  if !started then c.opFlushed t
  else (c.updOp t fun o => { o with aborted := o.aborted || k != 0 }).txJudge t

/-- The REG_REQ of operation `t` that has been built. -/
def Chip.regMsg (c : Chip) (t : Nat) : Option (Nat × HankMsg) :=
  c.hank.msgs.findSome? fun e => match e.2 with
    | some m => if m.tag == some t && m.typ == hkREGREQ then some (e.1, m) else none
    | none => none

/-- ABORT of a REMOTE_REG that was handed over: one that is not STARTED is withdrawn; one that is waits for its answer, which
ends its unit. -/
def Chip.regAbort (c : Chip) (t : Nat) : Chip :=
  let w := bitsOf ((c.op t).words.getD 1 0) 7 0
  if c.tagState t = lgNOT then
    let c := c.updHank fun h => { h with regQ := Tab.upd [] h.regQ w fun l => l.filter (· != t) }
    let c := match c.regMsg t with
      | some (id, _) => c.pullHank [id] none
      | none => c
    (c.opFlushed t).regNext w
  else c.updOp t fun o => { o with aborted := true }

/-- ABORT of one fetched operation. -/
def Chip.abortOp (c : Chip) (t : Nat) : Chip :=
  if !c.opLive t then c
  else if !(c.op t).handed then (c.updOp t fun o => { o with handed := true }).opFlushed t
  else
    let oc := c.fld HOSTQ.LEDGER_ENTRY0_OPCODE 0 t
    if oc = opTX then c.txAbort t
    else if oc = opFANOUT then (match c.fanOfTag t with | some k => c.fanAbort k | none => c)
    else if oc = opREMOTE then c.regAbort t
    else c

def Chip.abortTags (c : Chip) (q : Nat) : Chip := (c.liveTags q).foldl Chip.abortOp c

/-! ### SQ_CMD (R362) -/

/-- A DRAINING or ABORTING SQ that is quiescent goes OFF. -/
def Chip.sqSettle (c : Chip) (q : Nat) : Chip :=
  if (c.sqState q = sqDRAINING ∨ c.sqState q = sqABORTING) ∧ c.sqQuiescent q then c.sqGoOff q else c

def Chip.sqEnable (c : Chip) (q : Nat) (p : Port) : Chip :=
  if c.sqState q = sqOFF ∧ c.crOn (c.sqCr q) then
    let c := (c.setFld HOSTQ.SQ_PROD_INDEX 0 0 q).setFld HOSTQ.SQ_CONS_INDEX 0 0 q
    (c.setFld HOSTQ.SQ_STATUS_CAUSE 0 0 q).setSqState q sqACTIVE
  else c.refuse HOSTQ.SQ_CMD_OP p

def Chip.sqDrain (c : Chip) (q : Nat) (p : Port) : Chip :=
  if c.sqState q = sqACTIVE ∨ c.sqState q = sqERROR then (c.setSqState q sqDRAINING).sqSettle q
  else c.refuse HOSTQ.SQ_CMD_OP p

def Chip.sqAbort (c : Chip) (q : Nat) (p : Port) : Chip :=
  if c.sqState q = sqACTIVE ∨ c.sqState q = sqERROR ∨ c.sqState q = sqDRAINING then
    ((c.setSqState q sqABORTING).abortTags q).sqSettle q
  else c.refuse HOSTQ.SQ_CMD_OP p

/-- A write of SQ_CMD, for the SQ that SQ_SEL names. -/
def Chip.sqCmd (c : Chip) (p : Port) (v : Nat) : Chip :=
  let q := c.fld HOSTQ.SQ_SEL_SQ
  if bitsOf v 31 16 ≠ 0x5351 then c.refuse HOSTQ.SQ_CMD_OP p
  else match bitsOf v 2 0 with
    | 1 => c.sqEnable q p
    | 2 => c.sqDrain q p
    | 3 => c.sqAbort q p
    | _ => c.refuse HOSTQ.SQ_CMD_OP p

def execSqEnable (port : Port) (value : Word) (s : State) : Result :=
  run (fun c => c.accessField port HOSTQ.SQ_CMD_OP 0 fun d => d.sqCmd port value.toNat) s

def execSqDrain (port : Port) (value : Word) (s : State) : Result :=
  run (fun c => c.accessField port HOSTQ.SQ_CMD_OP 0 fun d => d.sqCmd port value.toNat) s

def execSqAbort (port : Port) (value : Word) (s : State) : Result :=
  run (fun c => c.accessField port HOSTQ.SQ_CMD_OP 0 fun d => d.sqCmd port value.toNat) s

def execSqQuiescent (sq : Fin 256) (s : State) : Result := run (fun c => c.sqSettle sq.val) s

/-! ### CR_CMD (R364) -/

/-- The frames that wait for CR `r`. -/
def Chip.crWaiters (c : Chip) (r : Nat) : List Packet :=
  c.hostQueue.filter fun p => match p.rxWait with | some (x, _) => x == r | none => false

/-- The CR is disabled: its buffers return to the host, and its waiting frames are dropped. -/
def Chip.crOff (c : Chip) (r : Nat) : Chip :=
  (c.crWaiters r).foldl Chip.rxHoldDrop ((c.setCrBufs r []).setFld HOSTQ.CR_STATUS_ENABLED 0 0 r)

def Chip.crEnable (c : Chip) (r : Nat) (p : Port) : Chip :=
  if c.crOn r then c.refuse HOSTQ.CR_CMD_OP p
  else
    let c := (c.setFld HOSTQ.CR_TAIL_INDEX 0 0 r).setFld HOSTQ.CR_HEAD_INDEX 0 0 r
    let c := c.updHostq fun h => { h with seq := Tab.put 0 h.seq r 0 }
    (c.setCrBufs r []).setFld HOSTQ.CR_STATUS_ENABLED 1 0 r

/-- An SQ that is not OFF names the CR. -/
def Chip.crNamed (c : Chip) (r : Nat) : Bool := (List.range 256).any fun q => c.sqState q != sqOFF && c.sqCr q == r

def Chip.crDisable (c : Chip) (r : Nat) (p : Port) : Chip :=
  if c.crNamed r || c.owed r != 0 then c.refuse HOSTQ.CR_CMD_OP p
  else if c.crOn r then c.crOff r else c

/-- A write of CR_CMD, for the CR that CR_SEL names. -/
def Chip.crCmd (c : Chip) (p : Port) (v : Nat) : Chip :=
  let r := c.fld HOSTQ.CR_SEL_CR
  if bitsOf v 31 16 ≠ 0x4352 then c.refuse HOSTQ.CR_CMD_OP p
  else match bitsOf v 1 0 with
    | 1 => c.crEnable r p
    | 2 => c.crDisable r p
    | _ => c.refuse HOSTQ.CR_CMD_OP p

def execCrEnable (port : Port) (value : Word) (s : State) : Result :=
  run (fun c => c.accessField port HOSTQ.CR_CMD_OP 0 fun d => d.crCmd port value.toNat) s

def execCrDisable (port : Port) (value : Word) (s : State) : Result :=
  run (fun c => c.accessField port HOSTQ.CR_CMD_OP 0 fun d => d.crCmd port value.toNat) s

/-! ### The freezes (R366, R367) -/

/-- The tags in use. -/
def Chip.tagsInUse (c : Chip) : List Nat := (c.txOps.filter fun e => e.2.words != []).map (·.1)

/-- Frozen tags (LEDGER_STATUS.FROZEN). -/
def Chip.frozenCount (c : Chip) : Nat := (c.tagsInUse.filter c.tagFrozen).length

/-- No completion is owed any more: every back-pressure ends (R361). -/
def Chip.owedClear (c : Chip) : Chip :=
  (List.range 64).foldl Chip.bpJudge (c.updHostq fun h => { h with due := [], parked := [], waiting := [] })

/-- The SAFE freeze (R366). -/
def Chip.safeFreeze (c : Chip) : Chip :=
  let c := (c.tagsInUse.foldl Chip.freezeTag c).owedClear
  let c := (List.range 256).foldl (fun d q =>
    if d.sqState q = sqOFF then d else (d.setFld HOSTQ.SQ_STATUS_CAUSE 4 0 q).sqGoOff q) c
  let c := (List.range 64).foldl (fun d r => if d.crOn r then d.crOff r else d) c
  c.raise EV.HOSTQ_SAFE_FREEZE

/-- PERST_N is asserted: every SQ is treated as ABORT treats it, and every completion stays frozen in its entry (R367). -/
def Chip.perstFreeze (c : Chip) : Chip :=
  let owed := c.hostq.due ++ c.hostq.parked ++ c.hostq.waiting
  let c := (owed.foldl Chip.freezeTag c).owedClear
  let c := c.tagsInUse.foldl (fun d t => d.updOp t fun o => { o with perst := true }) c
  (List.range 256).foldl (fun d q =>
    if d.sqState q = sqACTIVE ∨ d.sqState q = sqERROR ∨ d.sqState q = sqDRAINING then
      ((d.setSqState q sqABORTING).abortTags q).sqSettle q
    else d.abortTags q) c

/-- PERST_N is released: the HOSTQ page takes its reset values but for the view of the ledger (R367) and LOCK, which stays 1 until
device reset (R416). -/
def Chip.perstReset (c : Chip) : Chip :=
  let ledger := [HDR.CTRL_LOCK.off, HOSTQ.LEDGER_SEL_TAG.off, HOSTQ.LEDGER_ENTRY0_STATE.off, HOSTQ.LEDGER_ENTRY1_PROGRESS.off,
    HOSTQ.LEDGER_STATUS_FROZEN.off]
  let waiters := c.hostQueue.filter (·.rxWait.isSome)
  let c := waiters.foldl Chip.rxDrop c
  let c := c.resetPage PageCls.hostq.base ledger.contains
  (c.updHostq fun h => { h with last := 255, bufs := [], seq := [], shadow := [] }).raise EV.HOSTQ_PERST_ABORT

/-! ### LEDGER_CMD (R368) -/

/-- RELEASE may free the tag. -/
def Chip.releasable (c : Chip) (t : Nat) : Bool :=
  c.tagState t != lgFREE && (c.tagFrozen t || (c.tagState t == lgDONE && !c.crOn (c.tagCr t)))

/-- The record of a tag: LEDGER_ENTRY0, then LEDGER_ENTRY1. -/
def Chip.ledgerRecord (c : Chip) (t : Nat) : List Byte :=
  leBytes 4 (c.tagState t + c.fld HOSTQ.LEDGER_ENTRY0_FROZEN 0 t * 2 ^ 3 + c.fld HOSTQ.LEDGER_ENTRY0_PARKED 0 t * 2 ^ 4 +
      c.tagSq t * 2 ^ 8 + c.fld HOSTQ.LEDGER_ENTRY0_OPCODE 0 t * 2 ^ 16 + c.fld HOSTQ.LEDGER_ENTRY0_STATUS 0 t * 2 ^ 24) ++
    leBytes 4 (c.fld HOSTQ.LEDGER_ENTRY1_PROGRESS 0 t + c.tagCr t * 2 ^ 24)

/-- The ledger entries that `ok` names are read: a bad word is reported, and used as read (Table 12.7). -/
def Chip.ledgerReads (c : Chip) (ok : Nat → Bool) : Chip :=
  (c.sramRead none fun w => match w with | .cell .ledger t => ok t | _ => false).1

/-- DUMP: every record but the last is written now, and the last one at its end. -/
def Chip.ledgerDump (c : Chip) (p : Port) : Chip :=
  if c.on HOSTQ.LEDGER_STATUS_DUMP_BUSY || !c.hostUp then c.refuse HOSTQ.LEDGER_CMD_OP p
  else
    let a := c.fld HOSTQ.LEDGER_DUMP_LO_ADDR * 64 + c.fld HOSTQ.LEDGER_DUMP_HI_ADDR * 2 ^ 32
    let c := ((c.updHostq fun h => { h with dumpAddr := a }).setFld HOSTQ.LEDGER_STATUS_DUMP_BUSY 1).ledgerReads (decide <| · < 4095)
    c.hostWrite a ((List.range 4095).flatMap c.ledgerRecord)

/-- The last write of a DUMP is issued. -/
def Chip.ledgerDumpEnd (c : Chip) : Chip :=
  let c := c.ledgerReads (· == 4095)
  ((c.hostWrite (c.hostq.dumpAddr + 8 * 4095) (c.ledgerRecord 4095)).setFld HOSTQ.LEDGER_STATUS_DUMP_BUSY 0).raise
    EV.HOSTQ_LEDGER_DUMP_DONE

/-- A write of LEDGER_CMD. -/
def Chip.ledgerCmd (c : Chip) (p : Port) (v : Nat) : Chip :=
  let t := bitsOf v 11 0
  if bitsOf v 31 16 ≠ 0x4C44 then c.refuse HOSTQ.LEDGER_CMD_OP p
  else match bitsOf v 14 12 with
    | 1 => if c.releasable t then c.opFree t else c.refuse HOSTQ.LEDGER_CMD_OP p
    | 2 => (c.tagsInUse.filter c.releasable).foldl Chip.opFree c
    | 3 => c.ledgerDump p
    | _ => c.refuse HOSTQ.LEDGER_CMD_OP p

def execLedgerRelease (port : Port) (value : Word) (s : State) : Result :=
  run (fun c => c.accessField port HOSTQ.LEDGER_CMD_OP 0 fun d => d.ledgerCmd port value.toNat) s

def execLedgerReleaseAll (port : Port) (value : Word) (s : State) : Result :=
  run (fun c => c.accessField port HOSTQ.LEDGER_CMD_OP 0 fun d => d.ledgerCmd port value.toNat) s

def execLedgerDump (port : Port) (value : Word) (s : State) : Result :=
  run (fun c => c.accessField port HOSTQ.LEDGER_CMD_OP 0 fun d => d.ledgerCmd port value.toNat) s

def execLedgerDumpDone (s : State) : Result :=
  run (fun c => c.whenDue (c.on HOSTQ.LEDGER_STATUS_DUMP_BUSY && c.hostUp) Chip.ledgerDumpEnd) s

end Sys2Proof.Machine
end

