-- ==== Sys2Proof/Machine/Tally.lean ====
section
/-!
DEFINITION. Machine/Tally.lean: the Tally's sources and windows (R425, R426) and its mirror (R427 to R429).
Log entries: DEDUCED 83; DESIGN CHOICE 11 (notes/assumptions).
-/
namespace Sys2Proof.Machine

/-! ### Sources (Table 12.11) -/

/-- Where source `i` has its event bit and its enable: bit of a page's PAGE_EVT, a CR, or a group of SQs. -/
inductive TallySrc where
  | evt (page bit : Nat)
  | cr (r : Nat)
  | sqGroup (g : Nat)
  | reserved
  deriving DecidableEq, Repr

def tallySrc (i : Nat) : TallySrc :=
  let pageBit (page b n : Nat) : TallySrc := if b < n then .evt page b else .reserved
  if i < 576 then .evt (0x100 + i / 6) (i % 6)
  else if i < 672 then .evt (0x180 + (i - 576)) 0
  else if i < 720 then .evt (0x010 + (i - 672) / 12) ((i - 672) % 12)
  else if i < 736 then .evt 0x002 (i - 720)
  else if i < 768 then pageBit 0x020 (i - 736) 16
  else if i < 800 then .evt 0x030 (i - 768)
  else if i < 816 then pageBit 0x040 (i - 800) 12
  else if i < 832 then pageBit 0x001 (i - 816) 8
  else if i < 864 then pageBit 0x050 (i - 832) 15
  else if i < 928 then .cr (i - 864)
  else if i < 960 then .sqGroup (i - 928)
  else if i < 972 then .evt 0x060 (i - 960)
  else if i < 988 then pageBit 0x061 (i - 972) 15
  else if i < 992 then .evt 0x070 (i - 988)
  else pageBit 0x000 (i - 992) 24

/-- The event bit of a source. -/
def Chip.srcEvt (c : Chip) : TallySrc → Bool
  | .evt p b => (c.hdr HDR.EVT p).testBit b
  | .cr r => (c.fld (if r < 32 then HOSTQ.CR_EVT_LO_WRITTEN else HOSTQ.CR_EVT_HI_WRITTEN)).testBit (r % 32)
  | .sqGroup g => (c.fld HOSTQ.SQ_GRP_EVT_ATTN).testBit g
  | .reserved => false

/-- The enable of a source. -/
def Chip.srcEn (c : Chip) : TallySrc → Bool
  | .evt p b => (c.hdr HDR.EVT_EN p).testBit b
  | .cr r => (c.fld (if r < 32 then HOSTQ.CR_EVT_EN_LO_EN else HOSTQ.CR_EVT_EN_HI_EN)).testBit (r % 32)
  | .sqGroup g => (c.fld HOSTQ.SQ_GRP_EVT_EN_EN).testBit g
  | .reserved => false

/-- A word with one bit set or cleared. -/
def withBit (v b : Nat) (on : Bool) : Nat := if on then v ||| 2 ^ b else v ^^^ (v &&& 2 ^ b)

/-- The event bit of a source is cleared. -/
def Chip.srcClear (c : Chip) : TallySrc → Chip
  | .evt p b => c.setHdr HDR.EVT p (c.w1cLeft (evtKey p) (c.hdr HDR.EVT p) (2 ^ b))
  | .cr r =>
    let row := if r < 32 then HOSTQ.CR_EVT_LO_WRITTEN else HOSTQ.CR_EVT_HI_WRITTEN
    c.setFld row (c.w1cLeft (row.key 0 0) (c.fld row) (2 ^ (r % 32)))
  | .sqGroup g =>
    let row := HOSTQ.SQ_GRP_EVT_ATTN
    c.setFld row (c.w1cLeft (row.key 0 0) (c.fld row) (2 ^ g))
  | .reserved => c

/-- The enable of a source is written. -/
def Chip.srcSetEn (c : Chip) (on : Bool) : TallySrc → Chip
  | .evt p b => c.setHdr HDR.EVT_EN p (withBit (c.hdr HDR.EVT_EN p) b on)
  | .cr r => c.setBitmap HOSTQ.CR_EVT_EN_LO_EN HOSTQ.CR_EVT_EN_HI_EN r on
  | .sqGroup g => c.setFld HOSTQ.SQ_GRP_EVT_EN_EN (withBit (c.fld HOSTQ.SQ_GRP_EVT_EN_EN) g on)
  | .reserved => c

/-- The sources of Tally word `w`, bit by bit. -/
def wordSrcs (w : Nat) : List (Nat × TallySrc) := (List.range 32).map fun b => (b, tallySrc (32 * w + b))

/-- A word made of one truth value for each source. -/
def srcWord (w : Nat) (f : TallySrc → Bool) : Nat :=
  (wordSrcs w).foldl (fun v e => if f e.2 then v + 2 ^ e.1 else v) 0

def Chip.tallyWord (c : Chip) (w : Nat) : Nat :=
  if c.mirror.bad.contains w then 0xFFFFFFFF else srcWord w fun s => c.srcEvt s && c.srcEn s
def Chip.tallyRaw (c : Chip) (w : Nat) : Nat := if c.mirror.bad.contains w then 0xFFFFFFFF else srcWord w c.srcEvt
def Chip.tallyEn (c : Chip) (w : Nat) : Nat := srcWord w c.srcEn

/-- SUMMARY (R426). -/
def Chip.tallySummary (c : Chip) : Nat :=
  (List.range 32).foldl (fun v w => if c.tallyWord w != 0 then v + 2 ^ w else v) 0

/-- A write of WORDw clears the event bits it names; a word left all ones by an error is cleared by it, too. -/
def Chip.tallyClear (c : Chip) (w v : Nat) : Chip :=
  let c := if v = 0 then c else { c with mirror := { c.mirror with bad := c.mirror.bad.filter (· != w) } }
  (wordSrcs w).foldl (fun d e => if v.testBit e.1 then d.srcClear e.2 else d) c

/-- A write of ENw. -/
def Chip.tallyEnWrite (c : Chip) (w v : Nat) : Chip :=
  (wordSrcs w).foldl (fun d e => d.srcSetEn (v.testBit e.1) e.2) c

def execTallyWordClear (port : Port) (w : Fin 32) (value : Word) (s : State) : Result :=
  run (fun c => c.accessField port TALLY.WORD_SOURCES 0 fun d => d.tallyClear w.val value.toNat) s

/-! ### The mirror (R427, R428) -/

def Chip.updMirror (c : Chip) (f : Mirror → Mirror) : Chip := { c with mirror := f c.mirror }

/-- A write of MIRROR_CMD. -/
def Chip.mirrorCmd (c : Chip) (v : Nat) : Chip :=
  if bitsOf v 0 0 = 1 then c.updMirror fun m => { m with force := true } else c

def execMirrorForce (port : Port) (value : Word) (s : State) : Result :=
  run (fun c => c.accessField port TALLY.MIRROR_CMD_FORCE 0 fun d => d.mirrorCmd value.toNat) s

/-- A write of MIRROR_CFG: the first boundary after EN goes from 0 to 1 writes. -/
def Chip.mirrorCfgWrite (c : Chip) (p : Port) (v : Nat) : Chip :=
  let was := c.on TALLY.MIRROR_CFG_EN
  let c := c.plainWrite .tally 0 TALLY.MIRROR_CFG_EN.off v p
  if !was && c.on TALLY.MIRROR_CFG_EN then c.updMirror fun m => { m with first := true } else c

/-- The last boundary at or before now, in µs of monotonic time. -/
def Chip.mirrorBoundary (c : Chip) : Nat := c.now / usQ / c.mirror.periodUs * c.mirror.periodUs

/-- The snapshot: SUMMARY, then the words. -/
def Chip.snapshot (c : Chip) : List Nat := c.tallySummary :: (List.range 32).map c.tallyWord

/-- The header of the mirror block with a SEQ (Table 12.12). -/
def Chip.mirrorHeader (c : Chip) (seq summary : Nat) : List Byte :=
  let l := ((seq % 2 ^ 32) :: summary :: ts96 (c.now / 2 ^ 26 : Nat) 1 ++ [c.plainRead .global 0 GLOBAL.MODE_MODE.off]).flatMap
    fun w => leBytes 4 w
  l ++ List.replicate (64 - l.length) 0

/-- A mirror is written as three memory writes; `err` names the one that meets a PCIe error. -/
def Chip.mirrorWrite (c : Chip) (snap : List Nat) (err : Option (Fin 3)) : Chip :=
  let q := c.fld TALLY.MIRROR_SEQ_SEQ
  let a := c.mirror.addr
  let sum := snap.headD 0
  let put (d : Chip) (k addr : Nat) (l : List Byte) : Chip := if err.map (·.val) = some k then d else d.hostWrite addr l
  let c := put c 0 a (c.mirrorHeader (q + 1) sum)
  let c := put c 1 (a + 64) (snap.tail.flatMap fun w => leBytes 4 w)
  let c := put c 2 a (c.mirrorHeader (q + 2) sum)
  let c := c.setFld TALLY.MIRROR_SEQ_SEQ (q + 2)
  let c := c.updMirror fun m => { m with force := false, last := some snap, since := 0, first := err.isSome, busy := true }
  if err.isSome then
    ((c.flag TALLY.MIRROR_STATUS_ERR).bump TALLY.MIRROR_ERRORS_COUNT).raise EV.GLOBAL_MIRROR_ERROR
  else c

/-- A boundary is judged; `busy` says that the last mirror write is still in progress. -/
def Chip.mirrorJudge (c : Chip) (busy : Bool) (err : Option (Fin 3)) : Chip :=
  let b := c.mirrorBoundary
  let us := max 1 (min 1000000 (c.fld TALLY.MIRROR_PERIOD_US))
  let addr := c.fld TALLY.MIRROR_ADDR_LO_ADDR * 64 + c.fld TALLY.MIRROR_ADDR_HI_ADDR * 2 ^ 32
  let c := c.updMirror fun m => { m with boundaryUs := b, periodUs := us, addr := addr, since := m.since + 1, busy := busy }
  if !(c.on TALLY.MIRROR_CFG_EN && c.hostUp && c.mode != mSAFE) then c
  else if busy then c.bump TALLY.MIRROR_SKIPS_COUNT
  else
    let snap := c.snapshot
    let keep := c.fld TALLY.MIRROR_CFG_KEEPALIVE
    let m := c.mirror
    if m.last != some snap || (keep != 0 && decide (keep ≤ m.since)) || m.force || m.first then c.mirrorWrite snap err
    else c

def execTallyMirrorBoundary (busy : Bool) (err : Option (Fin 3)) (s : State) : Result :=
  run (fun c => c.whenDue (decide (c.mirror.boundaryUs < c.mirrorBoundary)) fun d => d.mirrorJudge busy err) s

end Sys2Proof.Machine
end

