-- ==== Sys2Proof/Machine/Faults.lean ====
section
/-!
DEFINITION. Machine/Faults.lean: SRAM errors and their injection (R419, R420, R253, R334), the thermal monitor (R421), bus timeouts
and the CORE PLL (R422).
Log entries: DEDUCED 85; DESIGN CHOICE 84 (notes/assumptions).
-/
namespace Sys2Proof.Machine

/-! ### SRAM errors (Table 12.7) -/

/-- A stored packet is dropped for an error of a store. -/
def Chip.dropStored (c : Chip) (id detail : Nat) : Chip :=
  let gone := c.stored.filter (·.id == id)
  gone.foldl (fun d p => d.dropCopy p detail) (c.pullPackets (·.id == id))

/-- The packet is in the block. -/
def Chip.holdsPacket (c : Chip) (id : Nat) : Bool := c.stored.any (·.id == id)

/-- A Flyer latches as if by three violations (R184, Table 12.7). -/
def Chip.flyEccLatch (c : Chip) (n : Nat) : Chip :=
  ((c.setFld FLYER.TX_STATUS_VIOL_RUN 3 n).fault FLYER.FAULT_STATUS_TX_VIOLATION n).latchTx n

/-- The offsets at which a page class shows the halves of one 64-bit counter (Table 06.8). -/
def counterHalves (cls : PageCls) (off : Nat) : List Nat :=
  if cls = .uplink ∧ (off = UPLINK.TX_OCTETS_LO_COUNT.off ∨ off = UPLINK.TX_OCTETS_HI_COUNT.off) then
    [UPLINK.TX_OCTETS_LO_COUNT.off, UPLINK.TX_OCTETS_HI_COUNT.off]
  else if cls = .uplink ∧ (off = UPLINK.RX_OCTETS_LO_COUNT.off ∨ off = UPLINK.RX_OCTETS_HI_COUNT.off) then
    [UPLINK.RX_OCTETS_LO_COUNT.off, UPLINK.RX_OCTETS_HI_COUNT.off]
  else [off]

/-- A counter becomes 0: PAGE_ERRCNT, a word of the counter set that CNT_SEL selects, the hit counter that ENTRY_SEL selects, or
the RO fields at the offset, with the other half of a 64-bit counter. -/
def Chip.zeroCounter (c : Chip) (page off : Nat) : Chip :=
  match pageOf page with
  | some (cls, n) =>
    if off = HDR.ERRCNT_COUNT.off then c.setHdr HDR.ERRCNT_COUNT page 0
    else if cls = .ply ∧ 0x080 ≤ off ∧ off < 0x0AC then c.setSetW (c.fld PLY.CNT_SEL_INDEX) ((off - 0x080) / 4) 0
    else if cls = .rulewin ∧ (off = 0x0A0 ∨ off = 0x0A4) ∧ c.fld RULEWIN.ENTRY_SEL_TABLE = 2 then
      c.updCarder fun d => { d with hits := Tab.put 0 d.hits (c.fld RULEWIN.ENTRY_SEL_INDEX) 0 }
    else ((counterHalves cls off).flatMap (c.fieldsAt cls)).foldl (fun d h => if h.1.acc == .ro then d.setFld h.1 0 n h.2 else d) c
  | none => c

/-- Word `w` of a store is bad from now on: the read of packet `id` found it so, and its error has been reported. -/
def Chip.badWord (c : Chip) (store : Nat) (w : SramWord) (addr id : Nat) : Chip :=
  { c with ecc := { c.ecc with bad := c.ecc.bad.filter (·.word != w) ++
      [{ store := store, word := w, two := true, addr := some addr, told := some id }] } }

/-- The packet is on a lane: a pass of it is in progress. -/
def Chip.onLane (c : Chip) (id : Nat) : Bool := c.carder.passes.any (·.pkt.id == id)

/-- The action of Table 12.7 on an uncorrectable read. A bad word of a table or of a context drops the packets that read it, and a bad
word of a lane's working store the packet on that lane, when they do (R253, R334). The spec gives no DETAIL for a packet that store 1
drops: it is free. -/
def Chip.eccAction (c : Chip) (store addr : Nat) (hit : EccHit) : Chip :=
  match hit with
  | .nothing => c
  | .tableWord t bank i w id =>
    if store = tableStore t.val then c.badWord store (.table t.val (if t.val < 3 then 0 else bank.val) i w) addr id else c
  | .ctxWord i w id => if store = 0 then c.badWord store (.cell .ctx (16 * i.toNat + w.val)) addr id else c
  | .packet id =>
    if store = 1 then (if c.holdsPacket id then c.drawn.dropStored id (c.freeVal % 256) else c)
    else if store = 7 ∧ c.onLane id = true then c.badWord store (.work id) addr id
    else c
  | .wire n phi => if store = 1 then Chip.badFcs (c.instAt phi) csUNDERRUN c n.val else c
  | .segFrame n => if store = 3 then c.endFrameAt n.val c.now else c
  | .flyer n => if store = 7 then c.flyEccLatch n.val else c
  | .tallyWord w => if store = 7 then c.updMirror fun m => { m with bad := w.val :: m.bad.filter (· != w.val) } else c
  | .counter page off => if store = 7 then c.zeroCounter page.toNat off.toNat else c

/-- The read that an error reports met the first word of the store that an injection has corrupted in this way, if there is one (R420;
DESIGN CHOICE, assumption log, entry 84): a corrected word is good again, and an uncorrectable one has its address from now on. -/
def Chip.injectionMet (c : Chip) (store addr : Nat) (two : Bool) : Chip :=
  match c.ecc.bad.find? fun b => b.store == store && b.two == two && b.addr.isNone with
  | some b => { c with ecc := { c.ecc with
      bad := if two then c.ecc.bad.map fun x => if x = b then { b with addr := some addr } else x else c.ecc.bad.erase b } }
  | none => c

/-- An error is counted and recorded (R419). -/
def Chip.eccError (c : Chip) (store addr : Nat) (uncorr : Bool) (hit : EccHit) : Chip :=
  let c := (c.injectionMet store addr uncorr).eccReport store addr uncorr
  if uncorr then c.eccAction store addr hit else c

def execSramEccError (store : Fin 8) (addr : BitVec 24) (uncorr : Bool) (hit : EccHit) (s : State) : Result :=
  run (fun c => c.eccError store.val addr.toNat uncorr hit) s

/-- A write of ECC_INJECT (R420). -/
def Chip.eccInjectWrite (c : Chip) (v : Nat) : Chip :=
  if bitsOf v 31 31 = 1 then { c with ecc := { c.ecc with inject := some (bitsOf v 2 0, v.testBit 4) } } else c

def execEccInject (port : Port) (value : Word) (s : State) : Result :=
  run (fun c => c.accessField port GLOBAL.ECC_INJECT_GO 0 fun d => d.eccInjectWrite value.toNat) s

/-! ### Temperature (R421) -/

/-- The hottest of the sensors, the first of them where several are, and its index. -/
def hottest (l : List Int) : Int × Nat :=
  l.zipIdx.foldl (fun (m, i) e => if m < e.1 then e else (m, i)) (l.headD 0, 0)

/-- The trip point, and the point below which a trip is over. -/
def Chip.tripPoint (c : Chip) : Int := (min 0x1CC (c.fld GLOBAL.THERM_CFG_TRIP) : Nat)
def Chip.clearPoint (c : Chip) : Int := c.tripPoint - (4 * max 1 (c.fld GLOBAL.THERM_CFG_HYST) : Nat)

/-- The monitor samples (R421). -/
def Chip.thermalSample (c : Chip) (l : List Int) : Chip :=
  let prev := signed 12 (c.fld GLOBAL.THERM_TEMP_MAX)
  let (m, i) := hottest l
  let c := (c.setFld GLOBAL.THERM_TEMP_MAX (unsigned 12 m)).setFld GLOBAL.THERM_TEMP_SENSOR i
  let c := if signed 12 (c.fld GLOBAL.THERM_PEAK_MAX) < m then c.setFld GLOBAL.THERM_PEAK_MAX (unsigned 12 m) else c
  let warn := decide ((c.fld GLOBAL.THERM_CFG_WARN : Int) ≤ m)
  let c := if warn && !c.modes.thermWarned then c.raise EV.GLOBAL_THERMAL_WARN else c
  let c := { c with modes := { c.modes with thermWarned := warn, thermAt := c.now } }
  if c.tripPoint ≤ m then
    let c := if prev < c.tripPoint ∨ ¬ c.modes.thermTripped then c.raise EV.GLOBAL_THERMAL_TRIP else c
    { c with modes := { c.modes with thermTripped := true } }
  else if c.modes.thermTripped && decide (m < c.clearPoint) then
    ({ c with modes := { c.modes with thermTripped := false } }).raise EV.GLOBAL_THERMAL_CLEAR
  else c

def execThermalSample (t0 t1 t2 t3 : BitVec 12) (s : State) : Result :=
  run (fun c => c.whenDue (c.mode != mRESET && decide (c.modes.thermAt + 100 * usQ ≤ c.now)) fun d =>
    d.thermalSample [t0.toInt, t1.toInt, t2.toInt, t3.toInt]) s

/-- A write of THERM_PEAK. -/
def Chip.peakWrite (c : Chip) (v : Nat) : Chip :=
  if bitsOf v 31 31 = 1 then c.setFld GLOBAL.THERM_PEAK_MAX (c.fld GLOBAL.THERM_TEMP_MAX) else c

def execThermPeakClear (port : Port) (value : Word) (s : State) : Result :=
  run (fun c => c.accessField port GLOBAL.THERM_PEAK_CLEAR 0 fun d => d.peakWrite value.toNat) s

/-! ### Bus timeouts and the CORE PLL (R422) -/

/-- A transfer was not answered within 100 µs: a read returns 0 to its port, a write is discarded. -/
def Chip.busTimeout (c : Chip) (page off : Nat) (p : Port) (read : Bool) : Chip :=
  let c := if read then c.setPort p { c.portState p with data := 0 } else c
  let c := ((c.setFld GLOBAL.BUS_ERR_PAGE page).setFld GLOBAL.BUS_ERR_OFFSET off).setFld GLOBAL.BUS_ERR_PORT p.code
  ((c.flag GLOBAL.BUS_ERR_VALID).flag GLOBAL.SAFE_CAUSE_INTERNAL_BUS).raise EV.GLOBAL_BUS_TIMEOUT

def execBusTimeout (page offset : BitVec 12) (port : Port) (read : Bool) (s : State) : Result :=
  run (fun c => c.busTimeout page.toNat offset.toNat port read) s

/-- The CORE PLL loses lock while CORE is ON. -/
def Chip.corePllUnlock (c : Chip) : Chip :=
  ((({ c with modes := { c.modes with corePllLock := false } }).flag GLOBAL.SAFE_CAUSE_CORE_PLL).raise
    EV.GLOBAL_CORE_PLL_UNLOCK)

def execCorePllUnlock (s : State) : Result := run (fun c => c.whenDue (c.dom .core == domON) Chip.corePllUnlock) s

end Sys2Proof.Machine
end

