-- ==== Sys2Proof/Machine/Header.lean ====
section
/-!
DEFINITION. Machine/Header.lean: the common page header (R412 to R416, R418): seal and lock, block reset, events, errors and
status.
Log entries: DEDUCED 16; DESIGN CHOICE 11 (notes/assumptions).
-/
namespace Sys2Proof.Machine

/-! ### PAGE_SEAL (R415, R416) -/

/-- A write of PAGE_SEAL. Whatever it is, it ends an unseal that its own port has armed, but for the UNSEAL that uses it. -/
def Chip.sealWrite (c : Chip) (p : Port) (page v : Nat) : Chip :=
  let armed := (c.armOf p page).isSome
  let c := c.disarmBy p page
  let refused := c.errcnt page HDR.SEAL_SEALED.off p
  if c.hdr HDR.CTRL_LOCK page != 0 || bitsOf v 31 16 != 0x5EA1 then refused
  else match bitsOf v 3 2 with
    | 1 => c.setHdr HDR.SEAL_SEALED page 1
    | 2 => ({ c with arms := Tab.put none c.arms (4 * page + p.code) (some c.now) }).setHdr HDR.SEAL_ARMED page 1
    | 3 => if armed then c.setHdr HDR.SEAL_SEALED page 0 else refused
    | _ => refused

def execPageSeal (port : Port) (page : BitVec 12) (value : Word) (s : State) : Result :=
  run (fun c => c.access port page.toNat true fun d => d.sealWrite port page.toNat value.toNat) s

def execPageArmUnseal (port : Port) (page : BitVec 12) (value : Word) (s : State) : Result :=
  run (fun c => c.access port page.toNat true fun d => d.sealWrite port page.toNat value.toNat) s

def execPageUnseal (port : Port) (page : BitVec 12) (value : Word) (s : State) : Result :=
  run (fun c => c.access port page.toNat true fun d => d.sealWrite port page.toNat value.toNat) s

/-- The unseal that port `p` armed was armed 100 µs ago. -/
def Chip.armOver (c : Chip) (p : Port) (page : Nat) : Bool :=
  match c.armOf p page with
  | some t => decide (t + 100 * usQ ≤ c.now)
  | none => false

/-- Every unseal of the page whose time is over lapses. -/
def Chip.armsExpire (c : Chip) (page : Nat) : Chip :=
  [Port.bar0, .spi, .hank, .image].foldl (fun d p => if d.armOver p page then d.disarm p page else d) c

def execUnsealArmExpiry (page : BitVec 12) (s : State) : Result := run (fun c => c.armsExpire page.toNat) s

/-! ### PAGE_CTRL (R414, R416) -/

/-- Segment `n` back in its reset state (R414, R469): its page but for the offsets that `keep` keeps, its turn tables, buffers,
JOIN log and command queue. -/
def Chip.segReset (c : Chip) (n : Nat) (keep : List Nat) : Chip :=
  let c := (c.eng n).cmdq.foldl (fun d p => d.fateLost p.share p.count) c
  let c := { c with segs := Tab.put {} c.segs n {},
                    segTables := Tab.clearRange c.segTables (turnKey n 0 0 0) (turnKey (n + 1) 0 0 0),
                    segBuf := Tab.clearRange c.segBuf (32768 * n) (32768 * (n + 1)) }
  c.resetPage (PageCls.segment.base + n) keep.contains

/-- What a BLOCK_RESET keeps. -/
def blockKeeps : List Nat := [HDR.EVT.off, HDR.EVT_EN.off, HDR.ERRCNT_COUNT.off]

/-- A BLOCK_RESET is carried out (R414). -/
def Chip.blockReset (c : Chip) (cls : PageCls) (n : Nat) : Chip :=
  let c := { c with resetting := (cls.base + n) :: c.resetting.filter (· != cls.base + n) }
  if cls = .segment then c.segReset n blockKeeps
  else ((c.setUpl n {}).resetPage (cls.base + n) blockKeeps.contains).c7Eval n

/-- A BLOCK_RESET of the page is in progress: it takes the AON clock in which it was accepted. -/
def Chip.inReset (c : Chip) (cls : PageCls) (n : Nat) : Bool := c.resetting.contains (cls.base + n)

/-- EN of a page has been written. -/
def Chip.enWritten (c : Chip) (cls : PageCls) (n : Nat) (en : Bool) : Chip :=
  match cls with
  | .uplink => c.uplinkEnChanged n en
  | .segment => if en then c else c.segDisable n
  | .flyer => if en then c.flyEnable n else c.flyOff n
  | _ => c

/-- A write of PAGE_CTRL: BLOCK_RESET first, judged on the values before; then LOCK and EN. -/
def Chip.ctrlWrite (c : Chip) (cls : PageCls) (n : Nat) (p : Port) (v : Nat) : Chip :=
  let page := cls.base + n
  let ok := cls.hasReset && c.hdr HDR.CTRL_EN page == 0 && c.hdr HDR.CTRL_LOCK page == 0
  let c := if v.testBit 1 then (if ok then c.blockReset cls n else c.errcnt page HDR.CTRL_EN.off p) else c
  let c := if v.testBit 2 then c.setHdr HDR.CTRL_LOCK page 1 else c
  if cls.hasEn then (c.setHdr HDR.CTRL_EN page (bitsOf v 0 0)).enWritten cls n (v.testBit 0) else c

/-- A write of PAGE_CTRL by page number. -/
def Chip.ctrlAccess (c : Chip) (p : Port) (page v : Nat) : Chip :=
  c.access p page false fun d => match pageOf page with
    | some (cls, n) => d.ctrlWrite cls n p v
    | none => d

def execPageLock (port : Port) (page : BitVec 12) (value : Word) (s : State) : Result :=
  run (fun c => c.ctrlAccess port page.toNat value.toNat) s

def execBlockReset (port : Port) (page : BitVec 12) (value : Word) (s : State) : Result :=
  run (fun c => c.ctrlAccess port page.toNat value.toNat) s

/-! ### PAGE_EVT, PAGE_EVT_EN and PAGE_ERRCNT -/

/-- A write of PAGE_ERRCNT. -/
def Chip.errcntWrite (c : Chip) (page v : Nat) : Chip :=
  if bitsOf v 31 31 = 1 then
    ((c.setHdr HDR.ERRCNT_COUNT page 0).setHdr HDR.ERRCNT_LAST_OFFSET page 0).setHdr HDR.ERRCNT_LAST_PORT page 0
  else c

def execErrcntClear (port : Port) (page : BitVec 12) (value : Word) (s : State) : Result :=
  run (fun c => c.access port page.toNat false fun d => d.errcntWrite page.toNat value.toNat) s

/-- The PAGE_EVT bits of a class that can be raised (R413). -/
def PageCls.evtMask (cls : PageCls) : Nat := 2 ^ cls.evtBits - 1

/-- A write of a header register. -/
def Chip.headerWrite (c : Chip) (cls : PageCls) (n off : Nat) (p : Port) (v : Nat) : Chip :=
  let page := cls.base + n
  if off = 0x008 then c.ctrlWrite cls n p v
  else if off = 0x010 then
    c.setHdr HDR.EVT page (c.w1cLeft (evtKey page) (c.hdr HDR.EVT page) v)
  else if off = 0x014 then c.setHdr HDR.EVT_EN page (v &&& cls.evtMask)
  else if off = 0x018 then c.errcntWrite page v
  else if off = 0x01C then c.sealWrite p page v
  else c

/-! ### PAGE_STATUS (Table 12.6) -/

/-- No packet waits in the queues of output port `p`. -/
def Chip.queuesEmpty (c : Chip) (p : Nat) : Bool := (List.range 8).all fun k => c.queue p k == []

/-- A message awaits its answer. -/
def Chip.msgWaits (c : Chip) (ok : HankMsg → Bool) : Bool :=
  c.hank.msgs.any fun e => match e.2 with | some m => m.acks && !m.closing && ok m | none => false

/-- A bulk load or scrub in LEAVE_WAIT or RUNNING. -/
def bulkBusy (st : Nat) : Bool := st == bkLEAVE || st == bkRUNNING

/-- A channel in CFG.CH_EN failed training. -/
def Chip.trainFailed (c : Chip) : Bool :=
  c.modes.dramTrainingDone &&
    (((c.fld DRAM.CFG_CH_EN).testBit 0 && !c.on DRAM.STATUS_TRAINED0) ||
      ((c.fld DRAM.CFG_CH_EN).testBit 1 && !c.on DRAM.STATUS_TRAINED1))

/-- SAFE_CAUSE as a word. -/
def Chip.safeCause (c : Chip) : Nat := c.plainRead .global 0 GLOBAL.SAFE_CAUSE_HOST_CMD.off

/-- BUSY, QUIESCENT and FAULT of a page. -/
def Chip.pageStatus (c : Chip) (cls : PageCls) (n : Nat) : Bool × Bool × Bool :=
  match cls with
  | .global => (false, true, c.safeCause != 0)
  | .power =>
    (c.headReq.isSome, !(c.power.held.any fun h => 2 ≤ LeaveOp.index h.op),
      decide (c.fld POWER.CEILING_TOKENS < c.committed))
  | .whorl =>
    let idle := c.fld WHORL.STEP_STATUS_STATE == stIDLE
    (!idle, idle, c.on WHORL.REFCLK_STATUS_FAULT || !c.on WHORL.TDC_STATUS_CAL_OK)
  | .tally => (c.mirror.busy, !c.mirror.busy, c.on TALLY.MIRROR_STATUS_ERR)
  | .uplink =>
    (c.ulSt n == ulLEAVE || c.ulSt n == ulBRINGUP || c.inReset cls n, c.ulSt n == ulOFF,
      c.on UPLINK.LINK_STATUS_CFG_ERR n || c.on UPLINK.LINK_STATUS_NO_LEAVE n)
  | .carder =>
    let busy := bulkBusy c.bulkSt
    (busy, c.fld CARDER.INFLIGHT_BANK_A == 0 && c.fld CARDER.INFLIGHT_BANK_B == 0 && !busy,
      c.dom .core == domON && !c.on CARDER.BANK_STATUS_INIT_DONE)
  | .reel => (c.on REEL.CTX_STATUS_BUSY || c.fld REEL.C7_ADMIT_STATUS_STATE == 1, c.reel.queues == [], false)
  | .reelgate =>
    (c.on REELGATE.GATE_STATUS_ADMIN_BUSY n, c.queuesEmpty n,
      c.reel.admitted.any (fun i => c.ctxF i 0 17 10 == n) && !c.on REELGATE.C7_COND_OK n)
  | .hostq => (c.on HOSTQ.LEDGER_STATUS_DUMP_BUSY, c.allQuiescent, (List.range 256).any fun q => c.sqState q == sqERROR)
  | .distaff => (c.on DISTAFF.DIR_STATUS_BUSY || bulkBusy c.dirBulkSt, c.cmdCount == 0 && c.shareCount == 0, false)
  | .hank =>
    (c.msgWaits (·.typ == hkREGREQ), !c.msgWaits (fun _ => true), (List.range 256).any fun w => c.wtState w == wtABSENT)
  | .dram => (bulkBusy c.scrubSt, !bulkBusy c.scrubSt, c.trainFailed)
  | .segment => (c.inReset cls n, c.seg n == sgDISABLED, c.fld SEGMENT.TT_STATUS_STATE n == 3)
  | .flyer =>
    (c.fld FLYER.TT_SEAL_STATUS_STATE n == 1, c.flySt n == fyOFF,
      c.on FLYER.TX_STATUS_LATCHED n || c.fld FLYER.PWR_CTRL_STATE n == 2)
  | _ => (false, true, false)

/-- The code of a domain in PAGE_CAPS (Table 12.4). -/
def Domain.code : Domain → Nat
  | .aon => 0
  | .seg => 1
  | .core => 2
  | .upl => 3
  | .host => 4
  | .mem => 5

/-- What a header register reads as. -/
def Chip.headerRead (c : Chip) (cls : PageCls) (n off : Nat) : Nat :=
  let page := cls.base + n
  let bit (b : Bool) (i : Nat) : Nat := if b then 2 ^ i else 0
  if off = 0x000 then cls.block + n * 2 ^ 8 + 2 ^ 16 + cls.count * 2 ^ 20
  else if off = 0x004 then
    cls.evtBits + bit cls.hasEn 8 + bit cls.hasReset 9 + bit cls.hasRws 10 + Domain.code cls.domain * 2 ^ 12
  else if off = 0x008 then
    (if cls.hasEn then c.hdr HDR.CTRL_EN page else 1) + c.hdr HDR.CTRL_LOCK page * 2 ^ 2
  else if off = 0x00C then
    let (b, q, f) := c.pageStatus cls n
    bit b 0 + bit q 1 + bit f 2
  else if off = 0x010 then c.hdr HDR.EVT page
  else if off = 0x014 then c.hdr HDR.EVT_EN page
  else if off = 0x018 then
    c.hdr HDR.ERRCNT_COUNT page + c.hdr HDR.ERRCNT_LAST_OFFSET page * 2 ^ 16 + c.hdr HDR.ERRCNT_LAST_PORT page * 2 ^ 28
  else if off = 0x01C then c.hdr HDR.SEAL_SEALED page + c.hdr HDR.SEAL_ARMED page * 2
  else 0

end Sys2Proof.Machine
end

