-- ==== Sys2Proof/Machine/Image.lean ====
section
/-!
DEFINITION. Machine/Image.lean: the configuration image (R461 to R467), but for the records of pass 2.
Log entries: DEDUCED 22 (notes/assumptions).
-/
namespace Sys2Proof.Machine

/-- The states of IMAGE_STATUS (Table 14.4). -/
abbrev imNONE : Nat := 0
abbrev imVERIFYING : Nat := 1
abbrev imWAIT : Nat := 2
abbrev imAPPLYING : Nat := 3
abbrev imDONE : Nat := 4
abbrev imERROR : Nat := 5

def Chip.imSt (c : Chip) : Nat := c.fld GLOBAL.IMAGE_STATUS_STATE
def Chip.setIm (c : Chip) (v : Nat) : Chip := c.setFld GLOBAL.IMAGE_STATUS_STATE v
def Chip.updImage (c : Chip) (f : Image → Image) : Chip := { c with image := f c.image }

/-- Word `i` of the image. -/
def imageWord (b : List Byte) (i : Nat) : Nat := leNat ((b.drop (4 * i)).take 4)

/-- A record as Table 14.2 allows it. -/
def recordOk (w0 w1 : Nat) : Bool :=
  bitsOf w0 31 28 == 0 && bitsOf w0 1 0 == 0 &&
    (bitsOf w0 27 24 == 0 || (bitsOf w0 27 24 == 1 && bitsOf w0 23 0 == 0 && decide (1 ≤ w1) && decide (w1 ≤ 1000000)))

/-- The cause of the first check of pass 1 that fails (Table 14.3); 0 where all pass. -/
def imageCause (b : List Byte) : Nat :=
  let count := bitsOf (imageWord b 2) 15 0
  if imageWord b 0 ≠ 0x47525A31 ∨ imageWord b 1 ≠ 1 ∨ bitsOf (imageWord b 2) 31 16 ≠ 0 then 1
  else if count = 0 then 2
  else if (List.range count).any fun k => !recordOk (imageWord b (4 + 2 * k)) (imageWord b (5 + 2 * k)) then 3
  else if crc32 (b.take 12 ++ (List.range (8 * count)).map fun i => b.getD (16 + i) 0) ≠ imageWord b 3 then 4
  else 0

/-- The image load ends in an error (R464, R466). -/
def Chip.imageError (c : Chip) (cause : Nat) : Chip :=
  (((c.updImage fun i => { i with waitUntil := none }).setIm imERROR).setFld GLOBAL.IMAGE_STATUS_CAUSE cause).raise
    EV.GLOBAL_IMAGE_ERROR

/-- The image counts as loaded: the automatic start of R55 is judged by AUTO_RUN now. -/
def Chip.imageLoaded (c : Chip) : Chip :=
  { c with modes := { c.modes with
      autoStartDue := c.mode == mSTANDBY && c.modes.freshStandby && c.on GLOBAL.MODE_CFG_AUTO_RUN } }

/-- Pass 1 starts. -/
def Chip.pass1Start (c : Chip) : Chip :=
  ((c.setIm imVERIFYING).setFld GLOBAL.IMAGE_STATUS_CAUSE 0).setFld GLOBAL.IMAGE_STATUS_RECORDS 0

/-- Pass 1 ends; `b` are the octets of the flash. -/
def Chip.pass1Done (c : Chip) (b : List Byte) : Chip :=
  let k := imageCause b
  if k ≠ 0 then { c with modes := { c.modes with freshStandby := false } }.imageError k
  else
    let c := c.updImage fun i => { i with count := bitsOf (imageWord b 2) 15 0, crc := imageWord b 3 }
    let c := if c.mode = mACQUIRE then c.setFld GLOBAL.IMAGE_STATUS_HOLD 1 else c
    (c.setIm imWAIT).imageLoaded

def execImagePass1Done (octets : List Byte) (s : State) : Result :=
  run (fun c => c.whenDue (c.imSt == imVERIFYING) fun d => d.pass1Done octets) s

/-- The conditions of pass 2 (R465). -/
def Chip.pass2Due (c : Chip) : Bool :=
  c.mode == mACQUIRE && c.imSt == imWAIT && c.dom .core == domON && c.dom .seg == domON && c.modes.dramTrainingDone

/-- Pass 2 starts; `header` is the header as it reads it. -/
def Chip.pass2Start (c : Chip) (header : List Byte) : Chip :=
  ((c.updImage fun i => { i with crcRun := crcRun 0xFFFFFFFF (header.take 12), waitUntil := none }).setIm imAPPLYING).setFld
    GLOBAL.IMAGE_STATUS_RECORDS 0

def execImagePass2Start (header : List Byte) (s : State) : Result :=
  run (fun c => c.whenDue c.pass2Due fun d => d.pass2Start header) s

/-- After the last record the CRC is judged (R465, R466). -/
def Chip.imageFinish (c : Chip) : Chip :=
  if c.fld GLOBAL.IMAGE_STATUS_RECORDS < c.image.count then c
  else if c.image.crcRun ^^^ 0xFFFFFFFF = c.image.crc then
    ((c.setIm imDONE).setFld GLOBAL.IMAGE_STATUS_HOLD 0).raise EV.GLOBAL_IMAGE_DONE
  else c.imageError 6

/-- The end of a WAIT (R465). -/
def Chip.waitOver (c : Chip) : Bool :=
  c.imSt == imAPPLYING && (match c.image.waitUntil with | some t => decide (t ≤ c.now) | none => false)

def execImageWaitExpiry (s : State) : Result :=
  run (fun c => c.whenDue c.waitOver fun d => (d.updImage fun i => { i with waitUntil := none }).imageFinish) s

/-- A write of IMAGE_CMD (R466, R467). -/
def Chip.imageCmd (c : Chip) (p : Port) (v : Nat) : Chip :=
  let key := bitsOf v 31 16 == 0x494D
  let retry := key && bitsOf v 0 0 == 1 && c.imSt == imERROR && (c.mode == mSTANDBY || c.mode == mACQUIRE)
  let release := key && bitsOf v 1 1 == 1 && c.on GLOBAL.IMAGE_STATUS_HOLD && c.imSt == imERROR
  if retry || release then
    let c := if release then c.setFld GLOBAL.IMAGE_STATUS_HOLD 0 else c
    if retry then c.pass1Start else c
  else c.refuse GLOBAL.IMAGE_CMD_KEY p

def execImageRetry (port : Port) (value : Word) (s : State) : Result :=
  run (fun c => c.accessField port GLOBAL.IMAGE_CMD_KEY 0 fun d => d.imageCmd port value.toNat) s

def execImageRelease (port : Port) (value : Word) (s : State) : Result :=
  run (fun c => c.accessField port GLOBAL.IMAGE_CMD_KEY 0 fun d => d.imageCmd port value.toNat) s

/-- ACQUIRE is entered: an image that waits to be applied holds the part there (R465), and one whose pass 2 was broken off is
applied anew (R466). -/
def Chip.imageAcquire (c : Chip) : Chip :=
  if c.imSt = imERROR ∧ c.fld GLOBAL.IMAGE_STATUS_CAUSE = 7 then
    ((c.setIm imWAIT).setFld GLOBAL.IMAGE_STATUS_CAUSE 0).setFld GLOBAL.IMAGE_STATUS_HOLD 1
  else if c.imSt = imWAIT then c.setFld GLOBAL.IMAGE_STATUS_HOLD 1 else c

/-- ACQUIRE is left (Table 14.3, R466). -/
def Chip.imageLeave (c : Chip) : Chip :=
  if c.imSt = imAPPLYING then (c.imageError 7).setFld GLOBAL.IMAGE_STATUS_HOLD 0
  else if c.imSt = imWAIT then c.setFld GLOBAL.IMAGE_STATUS_HOLD 0 else c

end Sys2Proof.Machine
end

