-- ==== Sys2Proof/Machine/Modes.lean ====
section
/-!
DEFINITION. Machine/Modes.lean: the six modes and their transitions (R47 to R62, R469), the resets (R438, R443, R444), the
watchdog (R60) and the power domains (R50, R69, R70).
Log entries: DEDUCED 4, 24, 25, 26, 27, 28, 29, 39, 40, 55; DESIGN CHOICE 20, 38, 88, 89 (notes/assumptions).
-/
namespace Sys2Proof.Machine

def Chip.updModes (c : Chip) (f : Modes → Modes) : Chip := { c with modes := f c.modes }

/-! ### A change of mode (R48, R49, R53) -/

/-- A SAFE cause is set, and the entry to SAFE goes before any other transition (R49, R58). -/
def Chip.safeDue (c : Chip) : Bool := c.safeCause != 0 && c.mode != mSAFE && c.mode != mRESET

/-- The mode becomes `m`: PREV_MODE takes the old one, and MODE_CHANGE is raised. A change of network time that waits for a
boundary is applied at the next tick once RUN and HOLDOVER are left (R114). -/
def Chip.setMode (c : Chip) (m : Nat) : Chip :=
  let old := c.mode
  if old = m then c
  else
    let c := ((c.setFld GLOBAL.MODE_PREV_MODE old).setFld GLOBAL.MODE_MODE m).raise EV.GLOBAL_MODE_CHANGE
    let c := if old = mACQUIRE then (c.setFld GLOBAL.MODE_RUN_ARMED 0).imageLeave else c
    let c := if c.stepState = stWAIT ∧ ¬ c.running then
        { c with whorl := { c.whorl with step := { c.whorl.step with whole := true, due := c.aon + 1 } } } else c
    c.c7EvalAll

/-- PERIOD in force. -/
def Chip.wdogPeriod (c : Chip) : Nat := max 100 (c.fld GLOBAL.WDOG_CFG_PERIOD)

/-- The watchdog is reloaded (R60). -/
def Chip.wdogReload (c : Chip) : Chip :=
  (c.setFld GLOBAL.WDOG_REMAIN_COUNT c.wdogPeriod).updModes fun m => { m with wdogAcc := 0, wdogWarned := false }

/-! ### Domains (R50, R51, R69, R469) -/

/-- A domain begins to wake; it is ON `lat` later. -/
def Chip.startWake (c : Chip) (d : Domain) (lat : Nat) : Chip :=
  if c.dom d = domON ∨ c.power.wakes.any (·.1 == d) then c
  else { c with power := { c.power with wakes := c.power.wakes ++ [(d, c.now + lat)] } }

/-- The packet buffer is discarded, and every packet counts (R51); both INFLIGHT counts become 0 (R255). -/
def Chip.bufferDiscard (c : Chip) : Chip :=
  let l := c.stored
  let c := c.bumpBy GLOBAL.BUFFER_DISCARDS_COUNT (l.filter (·.hank.isNone)).length
  let c := c.pullPackets fun _ => true
  let c := l.foldl (fun d p => d.dropCopy p 0) c
  let c := (c.setFld CARDER.INFLIGHT_BANK_A 0).setFld CARDER.INFLIGHT_BANK_B 0
  let c := c.updCarder fun d => { d with order := [] }
  if c.on CARDER.BANK_STATUS_BANK_FREE then c else c.bankFree

/-- CORE goes DEEP, HOST to LINK and DRAM into self-refresh (Table 02.2). -/
def Chip.powerDown (c : Chip) : Chip :=
  let c := if c.dom .core = domON then c.bufferDiscard else c
  let c := { c with power := { c.power with wakes := c.power.wakes.filter fun w => w.1 == Domain.seg } }
  let c := ((c.releaseLeave .core).setDom .core domDEEP).setDom .host domLINK
  ((c.setDom .mem domDEEP).setFld DRAM.STATUS_SELF_REFRESH 1).updModes fun m => { m with laneLight := [], laneWake := [] }

/-- SEG goes OFF (R469). -/
def Chip.segOff (c : Chip) : Chip :=
  let c := (List.range 96).foldl (fun d n =>
    (((d.segDisable n).flyOff n).segReset n [HDR.EVT.off, HDR.EVT_EN.off, HDR.CTRL_LOCK.off]).setHdr HDR.CTRL_EN (PageCls.segment.base + n) 0) c
  ({ c with power := { c.power with wakes := c.power.wakes.filter fun w => w.1 != Domain.seg } }).setDom .seg domOFF

/-- SEG's 40 µs wake begins. -/
def Chip.segWake (c : Chip) : Chip := c.startWake .seg (40 * usQ)

/-- What a domain does once it is ON. -/
def Chip.wakeEffect (c : Chip) (d : Domain) : Chip :=
  match d with
  | .core =>
    let c := (c.ctxWake).plyWake
    let c := { c with buffer := { c.buffer with c7Size := min (c.fld REEL.BUF_CFG_C7_RESERVE) 8192 } }
    let c := { c with whorl := { c.whorl with refillUs := c.net / (usQ : Int) } }
    c.updModes fun m => { m with corePllLock := true, lightFrom := c.now, laneLight := [], laneWake := [] }
  | .seg => (List.range 96).foldl Chip.flyEnable c
  | .host => (c.updMirror fun m => { m with first := true }).hostWake
  | .mem => c.setFld DRAM.STATUS_SELF_REFRESH 0
  | _ => c

/-- A wake is complete (R87). -/
def Chip.wakeDone (c : Chip) (d : Domain) : Chip :=
  let c := { c with power := { c.power with wakes := c.power.wakes.filter fun w => w.1 != d } }
  (((c.setDom d domON).wakeEffect d).raise EV.POWER_WAKE_DONE)

def Chip.wakeDue (c : Chip) (d : Domain) : Bool := c.power.wakes.any fun w => w.1 == d && decide (w.2 ≤ c.now)

def execDomainWakeDone (domain : Domain) (s : State) : Result :=
  run (fun c => c.whenDue (c.wakeDue domain) fun d => d.wakeDone domain) s

/-! ### Work that stops outside RUN -/

/-- Gate lists keep their place and open no more entries (R288). -/
def Chip.gatesStop (c : Chip) : Chip := (List.range 4).foldl (fun d n => d.setGate n { d.gate n with run := false }) c

/-- Bulk loads and the scrub end (R262, R377, R403). -/
def Chip.bulksEnd (c : Chip) : Chip := c.bulkAbort.dirBulkAbort.scrubAbort

/-- Every frame that the Reel offers to a segment is withdrawn (R297). -/
def Chip.offersEnd (c : Chip) : Chip := (List.range 96).foldl (fun d n => d.updEng n fun e => { e with offer := none, deferred := false }) c

/-! ### Entry to ACQUIRE and STANDBY -/

/-- Leave is asked for CORE, where it is not ON (R82). -/
def Chip.coreTry (c : Chip) : Chip :=
  if c.dom .core = domDEEP ∧ ¬ c.leaveWaiting .core ∧ ¬ c.leaveHeld .core then c.requestLeave .core else c

/-- ACQUIRE is entered from STANDBY or SAFE (Table 02.3). -/
def Chip.enterAcquire (c : Chip) : Chip :=
  let c := (c.setMode mACQUIRE).updModes fun m =>
    { m with freshStandby := false, autoStartDue := false, acquireAt := c.now,
             acquireLimit := c.fld GLOBAL.ACQUIRE_TIMEOUT_LIMIT, acquireRaised := false,
             chEn := if m.dramTrainingDone then m.chEn else c.fld DRAM.CFG_CH_EN }
  let c := c.setFld GLOBAL.MODE_RUN_ARMED (c.fld GLOBAL.MODE_CFG_AUTO_RUN)
  let c := (c.wdogReload.segWake.coreTry).startWake .host (2 * usQ)
  let c := if c.modes.dramTrainingDone then c.startWake .mem (40 * usQ) else c
  let c := (List.range 4).foldl Chip.uplinkTry c
  c.gateResumeAll.imageAcquire

/-- STANDBY is entered by command SLEEP. From SAFE, safe scenes stay in force until RUN entry, as R61 says, though R57 says of
STANDBY that a turn repeats its last payload (DESIGN CHOICE, assumption log, entry 89). -/
def Chip.enterStandby (c : Chip) : Chip :=
  let c := c.updModes fun m => { m with freshStandby := false, autoStartDue := false, safeScene := m.safeScene || c.mode == mSAFE }
  let c := (c.setMode mSTANDBY).wdogReload.gatesStop.bulksEnd.offersEnd
  let c := ((List.range 4).foldl Chip.uplinkOff c).powerDown
  if c.on GLOBAL.MODE_CFG_SEG_STANDBY then c.segWake else c.segOff

/-! ### SAFE (R58 to R62) -/

/-- The command payloads that wait in the command queues are discarded and counted (Table 02.5). -/
def Chip.cmdqDiscard (c : Chip) : Chip :=
  (List.range 96).foldl (fun d n =>
    let q := (d.eng n).cmdq
    if q == [] then d
    else ((q.foldl (fun e p => e.fateLost p.share p.count) d).setCmdq n []).bumpBy GLOBAL.SAFE_DROPPED_CMDS_COUNT q.length) c

/-- The manager's commands are frozen: nothing of them is expanded any more, and their shares here are let go (R366, R396). -/
def Chip.commandsEnd (c : Chip) : Chip :=
  c.distaff.shares.foldl (fun d e => match e.2 with
    | some h => if h.cmd.isSome then ((d.takeItems e.1).1.orphanMsgs e.1).dropShare e.1 else d
    | none => d) c

/-- SAFE is entered: steps 1 to 3 of Table 02.5. -/
def Chip.safeEnter (c : Chip) : Chip :=
  let still := c.modes.safeScene && (match c.modes.sceneEnd with | some t => decide (c.now < t) | none => true)
  let c := (c.setMode mSAFE).raise EV.GLOBAL_SAFE_ENTRY
  let c := c.updModes fun m => { m with safeAt := c.now, safeScene := still, safePowered := false, sceneEnd := none,
                                        freshStandby := false, autoStartDue := false }
  (((((c.wdogReload.safeFreeze).cmdqDiscard).commandsEnd).gatesStop.bulksEnd).offersEnd).segWake

def execSafeEntry (s : State) : Result := run (fun c => c.whenDue c.safeDue Chip.safeEnter) s

/-- Nothing of a frame of uplink `n` is left to be sent. -/
def Chip.wireDone (c : Chip) (n : Nat) : Bool := (c.upl n).cur.isNone && (c.upl n).cont.isNone && (c.upl n).ctrl.isNone

/-- Step 4: the transmitter is idle, and its PCS is turned off. -/
def execSafeUplinkIdle (n : Fin 4) (s : State) : Result :=
  run (fun c => c.whenDue (c.mode == mSAFE && c.wireDone n.val) fun d => d.uplinkOff n.val) s

/-- Step 5: safe scenes from t0 + 10 µs on (R61). -/
def execSafeSceneStart (s : State) : Result :=
  run (fun c => c.whenDue (c.mode == mSAFE && decide (c.modes.safeAt + 10 * usQ ≤ c.now)) fun d =>
    d.updModes fun m => { m with safeScene := true }) s

/-- Step 6. -/
def Chip.safePower (c : Chip) : Chip := c.powerDown.updModes fun m => { m with safePowered := true }

def Chip.uplinksOff (c : Chip) : Bool := (List.range 4).all fun n => c.ulSt n == ulOFF

def execSafePowerDown (s : State) : Result :=
  run (fun c => c.whenDue (c.mode == mSAFE && !c.modes.safePowered && c.uplinksOff) Chip.safePower) s

/-- A frame on the wire finishes whole (R200). -/
def Chip.wireFinish (c : Chip) (n : Nat) : Chip :=
  let finish (c : Chip) (t : Option UplTx) : Chip := match t with
    | some t => (c.countSent n (t.total + 4)).copyFate t.pkt true t.status 0
    | none => c
  let u := c.upl n
  let c := c.ctrlSent n
  finish (finish (c.setUpl n { u with cur := none, cont := none, ctrl := none }) u.cur) u.cont

/-- SAFE is left for ACQUIRE: what is left of Table 02.5 is carried out first, and safe scenes stay in force (R61). -/
def Chip.exitSafe (c : Chip) : Chip :=
  let c := if c.modes.safePowered then c
    else ((List.range 4).foldl (fun d n => (d.wireFinish n).uplinkOff n) c).safePower
  (c.updModes fun m => { m with safeScene := true }).enterAcquire

/-- The automatic exit (R62). -/
def Chip.autoExitDue (c : Chip) : Bool :=
  c.mode == mSAFE && c.on GLOBAL.MODE_CFG_AUTO_EXIT_SAFE &&
    decide (max 1 (c.fld GLOBAL.MODE_CFG_SAFE_RETRY_S) * secQ ≤ c.since c.modes.safeAt) && (c.safeCause &&& 0x3D) == 0

def Chip.autoExit (c : Chip) : Chip :=
  ((c.setFld GLOBAL.SAFE_CAUSE_WATCHDOG 0).setFld GLOBAL.SAFE_CAUSE_HOLDOVER_LIMIT 0).exitSafe

def execAutoExitSafe (s : State) : Result := run (fun c => c.whenDue c.autoExitDue Chip.autoExit) s

/-! ### RUN and HOLDOVER -/

/-- The conditions of RUN (Table 02.3). -/
def Chip.runDue (c : Chip) : Bool :=
  c.mode == mACQUIRE && c.on GLOBAL.MODE_RUN_ARMED && c.timeReady && c.domainsReady && !c.safeDue

/-- RUN is entered: gate lists start, held launch-time frames are judged, and shares go on (R57, R61). Safe scenes end 10 µs
after the first RUN entry that follows the exit from SAFE. -/
def Chip.enterRun (c : Chip) : Chip :=
  let c := (c.setMode mRUN).updModes fun m =>
    { m with sceneEnd := if m.safeScene && m.sceneEnd.isNone then some (c.now + 10 * usQ) else m.sceneEnd }
  let c := c.gateResumeAll
  let c := (List.range 4).foldl (fun d n => (List.range 8).foldl (fun e k => e.launchExpire n k) d) c
  c.resumeAll []

def execRunEntry (s : State) : Result := run (fun c => c.whenDue c.runDue Chip.enterRun) s

/-- The event of a stay in ACQUIRE that lasts too long (R53). -/
def Chip.acquireOver (c : Chip) : Bool :=
  c.mode == mACQUIRE && !c.modes.acquireRaised && decide (c.modes.acquireAt + c.modes.acquireLimit * usQ ≤ c.now)

def execAcquireTimeout (s : State) : Result :=
  run (fun c => c.whenDue c.acquireOver fun d =>
    (d.updModes fun m => { m with acquireRaised := true }).raise EV.GLOBAL_ACQUIRE_TIMEOUT) s

/-- RUN goes to HOLDOVER whenever time readiness is lost, whatever lost it: R106 does not call every such change a loss of the
time source (DESIGN CHOICE, assumption log, entry 89). -/
def execHoldoverEntry (s : State) : Result :=
  run (fun c => c.whenDue (c.mode == mRUN && !c.timeReady && !c.safeDue) fun d => d.setMode mHOLDOVER) s

def execHoldoverExit (s : State) : Result :=
  run (fun c => c.whenDue (c.mode == mHOLDOVER && c.timeReady && !c.safeDue) fun d => d.setMode mRUN) s

/-- The holdover error has passed its limit in mode HOLDOVER (R109). -/
def Chip.holdoverLimitDue (c : Chip) : Bool :=
  c.mode == mHOLDOVER && c.on GLOBAL.MODE_CFG_HOLDOVER_TO_SAFE && decide (c.fld WHORL.HO_LIMIT_NS < c.fld WHORL.HO_ERROR_NS)

def execHoldoverLimitSafe (s : State) : Result :=
  run (fun c => c.whenDue c.holdoverLimitDue fun d => (d.flag GLOBAL.SAFE_CAUSE_HOLDOVER_LIMIT).safeEnter) s

/-! ### The watchdog (R60) -/

def Chip.wdogKick (c : Chip) (p : Port) (v : Nat) : Chip :=
  if v = 0x6B1C then c.wdogReload else c.refuse GLOBAL.WDOG_KICK_KEY p

def execWdogKick (port : Port) (value : Word) (s : State) : Result :=
  run (fun c => c.accessField port GLOBAL.WDOG_KICK_KEY 0 fun d => d.wdogKick port value.toNat) s

/-- The watchdog counts. -/
def Chip.wdogRuns (c : Chip) : Bool := (c.mode == mACQUIRE || c.running) && c.on GLOBAL.WDOG_CFG_EN

/-- The watchdog counts the microseconds of an AON tick of length `eff`. -/
def Chip.wdogTick (c : Chip) (eff : Nat) : Chip :=
  if c.wdogRuns then
    let a := c.modes.wdogAcc + eff
    if usQ ≤ a then
      (c.setFld GLOBAL.WDOG_REMAIN_COUNT (c.fld GLOBAL.WDOG_REMAIN_COUNT - 1)).updModes fun m => { m with wdogAcc := a - usQ }
    else c.updModes fun m => { m with wdogAcc := a }
  else c

/-- Half of PERIOD remains. Of an odd PERIOD the half is rounded down (DESIGN CHOICE, assumption log, entry 89). -/
def Chip.wdogHalf (c : Chip) : Bool :=
  c.wdogRuns && !c.modes.wdogWarned && decide (2 * c.fld GLOBAL.WDOG_REMAIN_COUNT ≤ c.wdogPeriod)

def execWdogWarn (s : State) : Result :=
  run (fun c => c.whenDue c.wdogHalf fun d => (d.updModes fun m => { m with wdogWarned := true }).raise EV.GLOBAL_WDOG_WARN) s

def execWatchdogExpiry (s : State) : Result :=
  run (fun c => c.whenDue (c.wdogRuns && c.fld GLOBAL.WDOG_REMAIN_COUNT == 0) fun d => d.flag GLOBAL.SAFE_CAUSE_WATCHDOG) s

/-- A write of WDOG_CFG: ignored while LOCK and EN are both 1. -/
def Chip.wdogCfgWrite (c : Chip) (p : Port) (v : Nat) : Chip :=
  if c.on GLOBAL.WDOG_CFG_LOCK && c.on GLOBAL.WDOG_CFG_EN then c
  else c.plainWrite .global 0 GLOBAL.WDOG_CFG_PERIOD.off v p

/-! ### Reset (R54, R438, R443, R444) -/

/-- The block in mode RESET: every register at its reset value, every domain but AON OFF. What the world outside holds stays:
the levels of PERST_N and of the supplies, and what has been written to host memory. -/
def Chip.resetAll (c : Chip) : Chip :=
  let m : Modes := { perst := c.modes.perst, holdPorst := c.modes.holdPorst, holdSupply := c.modes.holdSupply,
                     segSupplyBad := c.modes.segSupplyBad }
  let d : Chip := { freeCtr := c.freeCtr, hostWrites := c.hostWrites, modes := m }
  let d := (d.setFld GLOBAL.MODE_MODE mRESET).setDom .core domOFF
  (d.setDom .host domOFF).setDom .mem domOFF

/-- The role that the straps give (R63, R64). -/
def Chip.roleFromStraps (c : Chip) : Chip :=
  let r := c.fld GLOBAL.STRAPS_ROLE
  let c := ((c.setFld GLOBAL.ROLE_STRAP_ROLE r).setFld GLOBAL.ROLE_ROLE (if r = 1 then 1 else 0)).setBit GLOBAL.ROLE_SETTLED (r != 2)
  if r = 3 then c.raise EV.GLOBAL_STRAP_INVALID else c

/-- The straps are latched (R438, R55, R400). -/
def Chip.strapTake (c : Chip) (st : Straps) : Chip :=
  let c := ((c.setFld GLOBAL.STRAPS_ROLE st.role.toNat).setBit GLOBAL.STRAPS_BOOT_SRC st.bootSrc).setBit
    GLOBAL.STRAPS_HEADLESS st.headless
  let c := (c.setFld GLOBAL.STRAPS_SPI_ADDR st.spiAddr.toNat).setBit GLOBAL.MODE_CFG_AUTO_RUN st.headless
  let c := (c.setBit GLOBAL.MODE_CFG_AUTO_EXIT_SAFE st.headless).setBit HANK.CFG_REMOTE_EN st.headless
  c.roleFromStraps

/-- The straps are latched, and the TDCs calibrate (R94). -/
def Chip.strapLatch (c : Chip) (st : Straps) (tdcOk : Bool) : Chip := (c.strapTake st).tdcResult tdcOk

/-- Strap levels from the bits of a free value, for a reset whose command does not say them. -/
def freeStraps (v : Nat) : Straps :=
  { role := BitVec.ofNat 2 v, bootSrc := v.testBit 2, headless := v.testBit 3, spiAddr := BitVec.ofNat 3 (v / 16) }

/-- PORST_N has been low for `ns`: 10 µs reset the device, less than 1 µs does not, and what lies between is free (R443). -/
def Chip.porstAssert (c : Chip) (ns : Nat) : Chip :=
  let go (c : Chip) : Chip := (c.updModes fun m => { m with holdPorst := true }).resetAll
  if 10000 ≤ ns then go c
  else if ns < 1000 then c
  else if c.freeVal % 2 = 1 then go c.drawn else c.drawn

def execPorstAssert (lowNs : Nat) (s : State) : Result := run (fun c => c.porstAssert lowNs) s

/-- PORST_N rises: the straps are latched. The reset ends, and the TDCs calibrate, unless the supply monitors still hold it. -/
def Chip.porstRelease (c : Chip) (st : Straps) (tdcOk : Bool) : Chip :=
  let c := c.updModes fun m => { m with holdPorst := false }
  if c.modes.holdSupply then c.strapTake st else c.strapLatch st tdcOk

def execPorstRelease (straps : Straps) (tdcOk : Bool) (s : State) : Result :=
  run (fun c => c.whenDue (c.mode == mRESET && c.modes.holdPorst) fun d => d.porstRelease straps tdcOk) s

/-- An AON rail has been too low for `ns` (R444). -/
def execAonSupplyFault (lowNs : Nat) (s : State) : Result :=
  run (fun c => c.whenDue (decide (2000 ≤ lowNs)) fun d => (d.updModes fun m => { m with holdSupply := true }).resetAll) s

/-- Both AON rails have been within range for `ns`: the reset ends once PORST_N is high (R438, R444). -/
def Chip.supplyRecover (c : Chip) (st : Straps) (tdcOk : Bool) : Chip :=
  let c := c.updModes fun m => { m with holdSupply := false }
  if c.modes.holdPorst then c else c.strapLatch st tdcOk

def execAonSupplyRecover (rangeNs : Nat) (straps : Straps) (tdcOk : Bool) (s : State) : Result :=
  run (fun c => c.whenDue (c.mode == mRESET && c.modes.holdSupply && decide (1000000 ≤ rangeNs)) fun d =>
    d.supplyRecover straps tdcOk) s

/-- Every segment driver is disabled (R444). -/
def Chip.driversOff (c : Chip) : Chip :=
  (List.range 96).foldl (fun d n => if (d.fly n).tx.isSome then (d.endFrameAt n d.now).driverOff n else d)
    (c.updModes fun m => { m with segSupplyBad := true })

def execSegSupplyFault (lowNs : Nat) (s : State) : Result :=
  run (fun c => c.whenDue (decide (1000 ≤ lowNs)) Chip.driversOff) s

def execSegSupplyRecover (rangeNs : Nat) (s : State) : Result :=
  run (fun c => c.whenDue (decide (100000 ≤ rangeNs)) fun d => d.updModes fun m => { m with segSupplyBad := false }) s

/-- The fuse load is complete: RESET is left for STANDBY (R53, R63, R464). -/
def Chip.leaveReset (c : Chip) : Chip :=
  let c := (((c.setDom .core domDEEP).setDom .host domLINK).setDom .mem domDEEP).setMode mSTANDBY
  let c := c.roleFromStraps
  if c.on GLOBAL.STRAPS_BOOT_SRC then c.pass1Start else c.imageLoaded

def Chip.fuseDue (c : Chip) : Bool := c.mode == mRESET && !c.modes.holdPorst && !c.modes.holdSupply

def execFuseLoadComplete (s : State) : Result := run (fun c => c.whenDue c.fuseDue Chip.leaveReset) s

/-- The automatic start (R55). -/
def Chip.autoStartReady (c : Chip) : Bool :=
  c.mode == mSTANDBY && c.modes.freshStandby && c.modes.autoStartDue && !c.safeDue

def execAutoStart (s : State) : Result := run (fun c => c.whenDue c.autoStartReady Chip.enterAcquire) s

/-! ### MODE_CMD (R53, R54) -/

/-- Every SQ is quiescent and every uplink is administratively disabled. -/
def Chip.maySleep (c : Chip) : Bool := c.allQuiescent && (List.range 4).all fun n => !c.uplinkEn n

/-- What a mode command does, none where its row of Table 02.3 does not apply; `reset` is DEVICE_RESET. -/
def Chip.modeRow (c : Chip) (code : Nat) (reset : Chip → Chip) : Option Chip :=
  if code = 0x5 then some (c.flag GLOBAL.SAFE_CAUSE_HOST_CMD)
  else if code = 0xF then some (reset c)
  else if c.safeDue then none
  else if code = 0x1 then
    if ((c.mode = mACQUIRE ∨ c.running) ∧ c.maySleep) ∨ (c.mode = mSAFE ∧ c.safeCause = 0) then some c.enterStandby else none
  else if code = 0x2 then (if c.mode = mSTANDBY then some c.enterAcquire else none)
  else if code = 0x3 then (if c.mode = mACQUIRE then some (c.setFld GLOBAL.MODE_RUN_ARMED 1) else none)
  else if code = 0x6 then (if c.mode = mSAFE ∧ c.safeCause = 0 then some c.exitSafe else none)
  else none

/-- A write of MODE_CMD: carried out, or refused under R54. -/
def Chip.modeCmd (c : Chip) (p : Port) (v : Nat) (reset : Chip → Chip) : Chip :=
  match (if bitsOf v 31 16 = 0x4D44 then c.modeRow (bitsOf v 3 0) reset else none) with
  | some d => d
  | none => (c.refuse GLOBAL.MODE_CMD_KEY p).raise EV.GLOBAL_MODE_CMD_REFUSED

/-- A device reset by command: the straps are latched again at its end (R438). -/
def Chip.deviceReset (c : Chip) (st : Straps) (tdcOk : Bool) : Chip := c.resetAll.strapLatch st tdcOk

/-- A device reset whose command does not say the strap levels nor how the TDCs calibrate: what the straps read when they are
latched again (R438), and the calibration, are free (DESIGN CHOICE, assumption log, entry 88). -/
def Chip.deviceResetFree (c : Chip) : Chip := c.drawn.deviceReset (freeStraps c.freeVal) (c.freeVal.testBit 7)

/-- A mode command by its code and key. -/
def Chip.modeCode (c : Chip) (p : Port) (code : Nat) (key : BitVec 16) (reset : Chip → Chip) : Chip :=
  c.accessField p GLOBAL.MODE_CMD_KEY 0 fun d => d.modeCmd p (key.toNat * 2 ^ 16 + code) reset

def execDeviceReset (port : Port) (key : BitVec 16) (straps : Straps) (tdcOk : Bool) (s : State) : Result :=
  run (fun c => c.modeCode port 0xF key fun d => d.deviceReset straps tdcOk) s

def execModeCmdSleep (port : Port) (key : BitVec 16) (s : State) : Result :=
  run (fun c => c.modeCode port 0x1 key Chip.deviceResetFree) s

def execModeCmdAcquire (port : Port) (key : BitVec 16) (s : State) : Result :=
  run (fun c => c.modeCode port 0x2 key Chip.deviceResetFree) s

def execModeCmdRun (port : Port) (key : BitVec 16) (s : State) : Result :=
  run (fun c => c.modeCode port 0x3 key Chip.deviceResetFree) s

def execModeCmdEnterSafe (port : Port) (key : BitVec 16) (s : State) : Result :=
  run (fun c => c.modeCode port 0x5 key Chip.deviceResetFree) s

def execModeCmdExitSafe (port : Port) (key : BitVec 16) (s : State) : Result :=
  run (fun c => c.modeCode port 0x6 key Chip.deviceResetFree) s

/-- A write of MODE_CFG. In STANDBY, SEG follows SEG_STANDBY (Table 02.2). -/
def Chip.modeCfgWrite (c : Chip) (p : Port) (v : Nat) : Chip :=
  let c := c.plainWrite .global 0 GLOBAL.MODE_CFG_SEG_STANDBY.off v p
  if c.mode = mSTANDBY then
    if c.on GLOBAL.MODE_CFG_SEG_STANDBY then c.segWake
    else if c.dom .seg = domON ∨ c.power.wakes.any (·.1 == .seg) then c.segOff else c
  else c

/-! ### PERST_N and the PCIe link (R56, R367, R446) -/

def Chip.perstAssert (c : Chip) : Chip :=
  let c := c.updModes fun m => { m with perst := true, linkTraining := false }
  if c.mode = mRESET then c else c.perstFreeze

def execPerstAssert (s : State) : Result := run (fun c => c.whenDue (!c.modes.perst) Chip.perstAssert) s

def Chip.perstRelease (c : Chip) : Chip :=
  let c := c.updModes fun m => { m with perst := false }
  if c.mode = mRESET then c else c.perstReset

def execPerstRelease (s : State) : Result := run (fun c => c.whenDue c.modes.perst Chip.perstRelease) s

def execPcieLinkTraining (s : State) : Result :=
  run (fun c => c.whenDue (c.mode != mRESET && !c.modes.perst) fun d => d.updModes fun m => { m with linkTraining := true }) s

/-! ### Role (R64, R66, R67) -/

/-- Some DRAM channel is trained (R41); it may be in self-refresh. -/
def Chip.dramTrained (c : Chip) : Bool := c.on DRAM.STATUS_TRAINED0 || c.on DRAM.STATUS_TRAINED1

/-- A write of ROLE_CMD. -/
def Chip.roleCmd (c : Chip) (p : Port) (v : Nat) : Chip :=
  let new := bitsOf v 1 0
  let refused (e : Evt) : Chip := (c.refuse GLOBAL.ROLE_CMD_NEW_ROLE p).raise e
  if bitsOf v 31 16 ≠ c.roleEpoch then refused EV.GLOBAL_ROLE_CMD_STALE
  else if new = roleMANAGER ∧ ¬ c.dramTrained then refused EV.GLOBAL_MANAGER_REFUSED
  else if new = 3 ∨ ¬ c.on GLOBAL.ROLE_SETTLED ∨ ¬ (c.mode = mSTANDBY ∨ c.mode = mACQUIRE ∨ c.running) ∨
      (new = roleMANAGER ∧ ¬ c.on GLOBAL.ROLE_DRAM_READY) then refused EV.GLOBAL_ROLE_CMD_REFUSED
  else if new = c.role then c
  else
    let old := c.role
    let c := (c.setFld GLOBAL.ROLE_ROLE new).setFld GLOBAL.ROLE_EPOCH (c.roleEpoch + 1)
    (c.raise EV.GLOBAL_ROLE_CHANGE).roleChanged old

def execRoleCmd (port : Port) (value : Word) (s : State) : Result :=
  run (fun c => c.accessField port GLOBAL.ROLE_CMD_NEW_ROLE 0 fun d => d.roleCmd port value.toNat) s

/-- A part strapped as MANAGER settles its role (R64). -/
def Chip.roleSettle (c : Chip) : Chip :=
  if c.fld GLOBAL.ROLE_STRAP_ROLE = 2 ∧ ¬ c.on GLOBAL.ROLE_SETTLED then
    if c.dramTrained then
      ((c.setFld GLOBAL.ROLE_ROLE roleMANAGER).setFld GLOBAL.ROLE_SETTLED 1).wtRestart
    else (c.setFld GLOBAL.ROLE_SETTLED 1).raise EV.GLOBAL_MANAGER_REFUSED
  else c

/-- DRAM training ends in the first ACQUIRE (R403): what trained, and the density codes read. -/
def Chip.trainingDone (c : Chip) (t0 t1 : Bool) (d0 d1 : Nat) : Chip :=
  let en := c.modes.chEn
  let t0 := t0 && en.testBit 0
  let t1 := t1 && en.testBit 1
  let c := (c.setBit DRAM.STATUS_TRAINED0 t0).setBit DRAM.STATUS_TRAINED1 t1
  let c := (c.setFld DRAM.STATUS_DENS0 (if en.testBit 0 then d0 else 0)).setFld DRAM.STATUS_DENS1 (if en.testBit 1 then d1 else 0)
  let mib := (if t0 then densMib d0 else 0) + (if t1 then densMib d1 else 0)
  let c := (c.setFld DRAM.STATUS_USABLE_MIB (mib * 7 / 8)).updModes fun m => { m with dramTrainingDone := true }
  (((c.raise EV.DRAM_TRAIN_DONE).wakeDone .mem).roleSettle)

def execDramTrainingDone (trained0 trained1 : Bool) (dens0 dens1 : Fin 5) (s : State) : Result :=
  run (fun c => c.whenDue (c.mode == mACQUIRE && !c.modes.dramTrainingDone) fun d =>
    d.trainingDone trained0 trained1 dens0.val dens1.val) s

/-! ### LIGHT (R70) -/

/-- The lane has had no work for LIGHT_IDLE ns; lane 11 stands for the Distaff. -/
def Chip.laneIdle (c : Chip) (l : Nat) : Bool :=
  let busy := if l = 11 then c.distaffBusy else c.carder.passes.any (·.lane == l) || Tab.get 0 c.modes.laneWake l != 0
  !busy && decide (max (Tab.get 0 c.modes.laneIdleSince l) c.modes.lightFrom + c.fld POWER.LIGHT_IDLE_NS * nsQ ≤ c.now)

def Chip.lightDue (c : Chip) (l : Nat) : Bool :=
  c.running && c.on GLOBAL.MODE_CFG_LIGHT_SLEEP_EN && c.dom .core == domON && !Tab.get false c.modes.laneLight l && c.laneIdle l

def execLaneLightEntry (lane : Option (Fin 11)) (s : State) : Result :=
  let l := match lane with | some k => k.val | none => 11
  run (fun c => c.whenDue (c.lightDue l) fun d =>
    d.updModes fun m => { m with laneLight := Tab.put false m.laneLight l true }) s

/-! ### Leave, by its owners (R71 to R81) -/

/-- What an operation does with the leave it is granted. -/
def Chip.leaveUsed (c : Chip) (op : LeaveOp) : Chip :=
  match op with
  | .core => c.startWake .core (40 * usQ)
  | .uplink n => if c.ulSt n.val = ulLEAVE then c.setUlSt n.val ulBRINGUP else c
  | .scrub _ => c.scrubGranted
  | .ruleLoad => c.bulkGranted
  | .dirLoad => c.dirBulkGranted
  | .bist _ => c
  | .fanout k => c.runShare k

/-- A heavy operation asks for leave where it has none and waits for none. -/
def Chip.leaveAsk (c : Chip) (op : LeaveOp) : Chip :=
  if c.leaveWaiting op || c.leaveHeld op then c
  else match op with
    | .core => if c.mode = mACQUIRE then c.coreTry else c
    | .uplink n => c.uplinkTry n.val
    | .bist _ => c.requestLeave op
    | .fanout k => (c.fanLeave k).runShare k
    | .scrub _ => c
    | .ruleLoad => c
    | .dirLoad => c

def execLeaveRequest (op : LeaveOp) (s : State) : Result := run (fun c => c.leaveAsk op) s

/-- One AON clock of the power manager: the head is granted, or nothing is (R74). -/
def Chip.leaveGrant (c : Chip) : Chip :=
  match c.headReq with
  | some r => match c.grantable r with
    | some reserve => (c.grantHead r reserve).leaveUsed r.op
    | none => c
  | none => c

def execLeaveGrant (s : State) : Result := run Chip.leaveGrant s

/-- A fan-out burst waits for leave though its expansion must begin (R81). -/
def Chip.deadlineMissed (c : Chip) (key : Nat) : Bool :=
  c.leaveWaiting (.fanout key) &&
    match c.share? key with
    | some h => !h.missed && decide ((match h.cmd with | some m => h.startQ m | none => h.applyQ) ≤ c.net)
    | none => false

def execLeaveDeadlineMiss (share : Nat) (s : State) : Result :=
  run (fun c => c.whenDue (c.deadlineMissed share) fun d =>
    (d.updShare share fun h => { h with missed := true }).raise EV.POWER_LEAVE_DEADLINE_MISS) s

/-- The end of a throttling interval (R78): what it paused goes on. -/
def Chip.throttleEnd (c : Chip) (est : Nat) : Chip :=
  let on := c.power.throttling
  let c := c.throttleOff est
  if on && !c.power.throttling then c.resumeAll [] else c

def execThrottleOff (estimate : BitVec 16) (s : State) : Result := run (fun c => c.throttleEnd estimate.toNat) s

end Sys2Proof.Machine
end

