-- ==== Sys2Proof/Machine/Steps.lean ====
section
/-!
DEFINITION. Machine/Steps.lean: how a change of network time is applied with all that follows it (R112 to R118), the edges of
the cycle marks (R121), and the enables of the UPLINK, SEGMENT and FLYER pages.
Log entries: DEDUCED 86 (notes/assumptions).
-/
namespace Sys2Proof.Machine

/-! ### Cycle marks in SEGMENT mode (R121) -/

/-- The predicted start of the next cycle, in monotonic time. -/
def Chip.nextStart (c : Chip) (n : Nat) : Nat :=
  if c.seg n = sgMASTER then c.gridInstant n else (c.eng n).predicted

/-- Half a cycle of segment `n`: edges of one cycle belong to starts that lie less than this apart. -/
def Chip.halfCycle (c : Chip) (n : Nat) : Nat := (c.eng n).cycleLen * nsQ / 2

/-- The cycles whose edges mark `k` has still to emit in SEGMENT mode, by their starts, oldest first (R121): those that began as they
had been predicted, and the next one. An edge whose instant has passed when its cycle's start is predicted, when the mark is armed, or
before the segment holds a valid cycle, is none. -/
def Chip.segEdges (c : Chip) (k : Nat) : List Nat :=
  let m := c.markRec k
  let n := m.seg
  let e := c.eng n
  if c.on WHORL.MARK_CTRL_ACTIVE 0 k && m.mode == 3 && c.holdsCycle n && c.on SEGMENT.SYNC_STATUS_CYCLE_VALID n then
    (e.starts.reverse ++ [(c.nextStart n, e.cycleStart)]).filterMap fun (start, from_) =>
      let edge : Int := start + m.segOffset
      if (from_ : Int) < edge ∧ (max m.armedAt e.validFrom : Int) ≤ edge ∧ m.lastCycle + c.halfCycle n ≤ start then some start else none
  else []

/-- The cycle whose edge mark `k` emits now, if any. -/
def Chip.segEdge (c : Chip) (k : Nat) : Option Nat :=
  if c.fires then (c.segEdges k).find? fun start => decide ((start : Int) + (c.markRec k).segOffset ≤ c.now) else none

/-- The active edge of a mark, in whatever mode it runs. -/
def Chip.anyMarkEdge (c : Chip) (k : Nat) : Chip :=
  if c.markDue k then c.markEdge k
  else match c.segEdge k with
    | some start =>
      let m := c.markRec k
      let at_ := c.placed (start + m.segOffset)
      c.setMark k { m with pulseAt := at_, pulseEnd := at_ + m.width, lastCycle := start }
    | none => c

def execCycleMarkEdge (k : Fin 8) (s : State) : Result :=
  run (fun c => c.whenDue (c.mode != mRESET) fun d => d.anyMarkEdge k.val) s

/-! ### Changes of network time -/

/-- The edges that are due are emitted. -/
def Chip.edgesDue (c : Chip) : Chip :=
  let c := (List.range 8).foldl Chip.anyMarkEdge c
  if c.ppsOutDue then c.ppsOutEdge else c

/-- The edges of mark `k` in SEGMENT mode that a forward step by `d` passes over: each counts in MISSED and is not emitted
(R116, Table 03.7). -/
def Chip.segMarkSkip (c : Chip) (d : Nat) (k : Nat) : Chip × Nat :=
  let m := c.markRec k
  let gone := (c.segEdges k).filter fun (start : Nat) =>
    decide ((c.now : Int) < start + m.segOffset) && decide ((start : Int) + m.segOffset < c.now + d)
  match gone.getLast? with
  | some last => ((c.setMark k { m with lastCycle := last }).bumpBy WHORL.MARK_MISSED_COUNT gone.length 0 k, gone.length)
  | none => (c, 0)

/-- A whole forward change is applied, and what it passes over is counted (R116, Table 03.7). Edges due by then are emitted first. -/
def Chip.stepForward (c : Chip) : Chip :=
  let c := c.edgesDue
  let t0 := c.net
  let (c, s) := (List.range 8).foldl (fun (d, total) k =>
    let (d, e) := d.segMarkSkip c.whorl.step.remain.toNat k
    (d, total + e)) (c, 0)
  let c := c.applyForward
  let t1 := c.net
  let (c, a) := c.marksSkip t0 t1
  let c := if a + s = 0 then c else c.raise EV.WHORL_MARK_MISSED
  let (c, b) := c.ppsSkip t0 t1
  let (c, g) := c.gatesSkip t0 t1
  (c.lateEvents (a + s + b + g)).skeinStepAll

/-- A whole change is applied (R112, R114). -/
def Chip.stepApply (c : Chip) : Chip :=
  if 0 ≤ c.whorl.step.remain then c.stepForward else (c.applyBackward c.whorl.step.remain.natAbs).skeinStepAll

def execStepApply (s : State) : Result := run (fun c => c.whenDue c.wholeDue Chip.stepApply) s

def execStepAtBoundary (s : State) : Result :=
  run (fun c => c.whenDue c.boundaryDue fun d => d.stepAtBoundary.skeinStepAll) s

/-! ### The enables of UPLINK, SEGMENT and FLYER pages (R156, R179, R199) -/

/-- A PAGE_CTRL write, or what the block does by itself where there is none. -/
def Chip.enableCmd (c : Chip) (page : Nat) (write : Option (Port × Word)) (own : Chip → Chip) : Chip :=
  match write with
  | some (p, v) => c.ctrlAccess p page v.toNat
  | none => own c

def execUplinkEnable (n : Fin 4) (write : Option (Port × Word)) (s : State) : Result :=
  run (fun c => c.enableCmd (PageCls.uplink.base + n.val) write fun d => d.uplinkTry n.val) s

def execUplinkDisable (n : Fin 4) (write : Option (Port × Word)) (s : State) : Result :=
  run (fun c => c.enableCmd (PageCls.uplink.base + n.val) write fun d =>
    d.whenDue ((!d.uplinkEn n.val || d.mode == mSTANDBY) && d.ulSt n.val != ulOFF) fun e => e.uplinkOff n.val) s

def execSegmentDisable (n : Fin 96) (write : Option (Port × Word)) (s : State) : Result :=
  run (fun c => c.enableCmd (PageCls.segment.base + n.val) write fun d =>
    d.whenDue (!d.segEnabled n.val) fun e => e.segDisable n.val) s

def execFlyerEnable (n : Fin 96) (write : Option (Port × Word)) (s : State) : Result :=
  run (fun c => c.enableCmd (PageCls.flyer.base + n.val) write fun d => d.flyEnable n.val) s

def execFlyerDisable (n : Fin 96) (write : Option (Port × Word)) (s : State) : Result :=
  run (fun c => c.enableCmd (PageCls.flyer.base + n.val) write fun d =>
    d.whenDue (d.hdr HDR.CTRL_EN (PageCls.flyer.base + n.val) == 0 || d.dom .seg != domON) fun e => e.flyOff n.val) s

end Sys2Proof.Machine
end

