-- ==== Sys2Proof/Machine/RegRead.lean ====
section
/-!
DEFINITION. Machine/RegRead.lean: what every register reads as (Table 00.3): as stored, or, where a register shows what the
block holds elsewhere, computed at the read.
Log entries: DEDUCED 13, 15, 41, 74, 78; DESIGN CHOICE 84 (notes/assumptions).
-/
namespace Sys2Proof.Machine

/-- A word with one field replaced. -/
def patch (r : FieldRow) (v w : Nat) : Nat := w - bitsOf w r.hi r.lo * 2 ^ r.lo + v % 2 ^ r.width * 2 ^ r.lo

/-- A truth value as a field. -/
def bitNat (b : Bool) : Nat := if b then 1 else 0

/-! ### Windows -/

/-- A word of the drift table (Table 05.5). -/
def Drift.word (d : Drift) : Nat → Nat
  | 0 => unsigned 32 d.last
  | 1 => unsigned 32 d.avg
  | 2 => unsigned 32 d.min_
  | 3 => unsigned 32 d.max_
  | 4 => d.early + d.late * 2 ^ 16
  | 5 => d.babble + d.babbleRun * 2 ^ 16 + bitNat d.valid * 2 ^ 24 + bitNat d.warn * 2 ^ 25 + bitNat d.cutCause * 2 ^ 26
  | 6 => d.mac % 2 ^ 32
  | _ => d.mac / 2 ^ 32 + d.samples * 2 ^ 16

/-- The assigned bits of word `w` of a Flyer table image (Table 05.1). -/
def flyMask : Nat → Nat
  | 0 => 0xFFFFFFFF
  | 1 => 0x07FFFFFF
  | w => if w % 2 = 0 then 0xC7FFFFFF else 0x3FFFFFFF

/-- The entry window of a Flyer (R195): the active slot, or the staging slot. A reserved bit reads 0 (R20), also where the slot
holds a 1 that the seal check refuses. -/
def Chip.flyWindow (c : Chip) (n w : Nat) : Nat :=
  if c.on FLYER.CFG_VIEW_ACTIVE n then
    match (c.fly n).active with
    | some k => c.flyW n k w &&& flyMask w
    | none => 0
  else c.flyW n (c.stageSlot n) w &&& flyMask w

/-- The register at an offset of a FLYER page shows word `k` of the turn-table copies (R195). -/
def Chip.flyShows (c : Chip) (n off k : Nat) : Bool :=
  let slot := if c.on FLYER.CFG_VIEW_ACTIVE n then (c.fly n).active else some (c.stageSlot n)
  (decide (0x200 ≤ off ∧ off < 0x408) && slot.any fun s => k == (2 * n + s) * 132 + 2 + (off - 0x200) / 4) ||
    (off == FLYER.TT_STAGE_HDR0_TABLE_ID.off && k == (2 * n + c.stageSlot n) * 132) ||
    (off == FLYER.TT_STAGE_HDR1_CYCLE_LEN.off && k == (2 * n + c.stageSlot n) * 132 + 1)

/-- The µs left on the listen timer, rounded up (CS_STATUS.LISTEN_REMAIN). -/
def Chip.listenRemain (c : Chip) (n : Nat) : Nat :=
  match (c.eng n).listenEnd with
  | some t => (t - c.now + (usQ - 1)) / usQ
  | none => 0

/-! ### The pages -/

def Chip.tallyRead (c : Chip) (off : Nat) : Nat :=
  if off = TALLY.SUMMARY_WORDS.off then c.tallySummary
  else if 0x080 ≤ off ∧ off < 0x100 then c.tallyWord ((off - 0x080) / 4)
  else if 0x100 ≤ off ∧ off < 0x180 then c.tallyEn ((off - 0x100) / 4)
  else if 0x180 ≤ off ∧ off < 0x200 then c.tallyRaw ((off - 0x180) / 4)
  else c.plainRead .tally 0 off

def Chip.uplinkRead (c : Chip) (n off : Nat) : Nat :=
  let w := c.plainRead .uplink n off
  if off = UPLINK.PAUSE_STATUS_REMAIN.off then patch UPLINK.PAUSE_STATUS_REMAIN (c.pauseRemain n) w else w

def Chip.reelRead (c : Chip) (off : Nat) : Nat :=
  if off = REEL.BUF_STATUS_SHARED_FREE.off then c.sharedFree % 2 ^ 16 + c.buffer.c7Used % 2 ^ 16 * 2 ^ 16
  else c.plainRead .reel 0 off

def Chip.reelgateRead (c : Chip) (n off : Nat) : Nat :=
  if 0x800 ≤ off then Tab.get 0 c.reel.gcl (c.gclWinKey n off) &&& gclMask ((off - 0x800) / 4 % 4)
  else if off = REELGATE.BUF_USE_SHARED.off then c.chargeOf n % 2 ^ 16 + Tab.get 0 c.buffer.headUsed n % 2 ^ 16 * 2 ^ 16
  else c.plainRead .reelgate n off

/-- Completions of CR `r` in a list of tags. -/
def Chip.crCount (c : Chip) (r : Nat) (l : List Nat) : Nat := (l.filter fun t => c.tagCr t == r).length

/-- The sequence number of the next buffer that CR `r` fills (CR_RXBUF.NEXT_SEQ). -/
def Chip.nextBufSeq (c : Chip) (r : Nat) : Nat :=
  match c.crBufs r with
  | (_, k) :: _ => k
  | [] => Tab.get 0 c.hostq.seq r

def Chip.hostqRead (c : Chip) (off : Nat) : Nat :=
  let w := c.plainRead .hostq 0 off
  let q := c.fld HOSTQ.SQ_SEL_SQ
  let r := c.fld HOSTQ.CR_SEL_CR
  if off = HOSTQ.STATUS_TAGS_IN_USE.off then
    patch HOSTQ.STATUS_HOLD_USED c.hostq.parked.length (patch HOSTQ.STATUS_TAGS_IN_USE c.tagsUsed w)
  else if off = HOSTQ.SQ_STATUS_STATE.off then
    let w := patch HOSTQ.SQ_STATUS_QUIESCENT (bitNat (c.sqQuiescent q)) w
    let w := patch HOSTQ.SQ_STATUS_BLOCKED (bitNat (c.crBp (c.sqCr q))) w
    patch HOSTQ.SQ_STATUS_INFLIGHT (c.liveTags q).length w
  else if off = HOSTQ.CR_STATUS_ENABLED.off then
    let w := patch HOSTQ.CR_STATUS_PARKED (c.crCount r c.hostq.parked) w
    patch HOSTQ.CR_STATUS_WAITING (c.crCount r c.hostq.waiting) w
  else if off = HOSTQ.CR_RXBUF_POSTED.off then
    patch HOSTQ.CR_RXBUF_NEXT_SEQ (c.nextBufSeq r) (patch HOSTQ.CR_RXBUF_POSTED (c.crBufs r).length w)
  else if off = HOSTQ.LEDGER_STATUS_FROZEN.off then patch HOSTQ.LEDGER_STATUS_FROZEN c.frozenCount w
  else w

def Chip.distaffRead (c : Chip) (off : Nat) : Nat :=
  let w := c.plainRead .distaff 0 off
  if off = DISTAFF.STATUS_CMDS.off then patch DISTAFF.STATUS_SHARES c.shareCount (patch DISTAFF.STATUS_CMDS c.cmdCount w)
  else w

/-- DRAM: how far a running scrub has got is a free value up to its whole range. -/
def Chip.dramPageRead (c : Chip) (off : Nat) : Nat :=
  let w := c.plainRead .dram 0 off
  if off = DRAM.SCRUB_STATUS_STATE.off ∧ c.scrubSt = bkRUNNING then
    patch DRAM.SCRUB_STATUS_DONE_MIB (c.freeVal % (c.scrubMib + 1)) w
  else w

def Chip.segmentRead (c : Chip) (n off : Nat) : Nat :=
  if 0x800 ≤ off then c.bufRead n ((off - 0x800) / 4)
  else if 0x380 ≤ off ∧ off < 0x790 then
    c.turnW n (c.fld SEGMENT.TT_CTRL_VIEW_OPER n) ((off - 0x380) / 16) ((off - 0x380) / 4 % 4)
  else
    let w := c.plainRead .segment n off
    if off = SEGMENT.SYNC_STATUS_STATE.off then patch SEGMENT.SYNC_STATUS_EXT_PENDING (bitNat (c.extRunning n)) w
    else if off = SEGMENT.CS_STATUS_COLLISIONS.off then patch SEGMENT.CS_STATUS_LISTEN_REMAIN (c.listenRemain n) w
    else w

def Chip.flyerRead (c : Chip) (n off : Nat) : Nat :=
  if 0x800 ≤ off then (c.driftRec n ((off - 0x800) / 32)).word ((off - 0x800) / 4 % 8)
  else if 0x200 ≤ off ∧ off < 0x408 then c.flyWindow n (2 + (off - 0x200) / 4)
  else
    let w := c.plainRead .flyer n off
    if off = FLYER.TX_STATUS_LATCHED.off then patch FLYER.TX_STATUS_BUDGET_USED (min (c.budgetUsed n / usQ) 0xFFFF) w
    else if off = FLYER.SYNC_STATUS_STATE.off then patch FLYER.SYNC_STATUS_EXT_ALLOW (bitNat (c.extLasts n c.now)) w
    else if off = FLYER.PWR_CTRL_ON.off then
      patch FLYER.PWR_CTRL_CUTS_LEFT (c.fld FLYER.CONTAIN_CFG_RETRIES n - (c.fly n).cutCount) w
    else if off = FLYER.TT_STAGE_HDR0_TABLE_ID.off then c.flyW n (c.stageSlot n) 0
    else if off = FLYER.TT_STAGE_HDR1_CYCLE_LEN.off then c.flyW n (c.stageSlot n) 1 &&& flyMask 1
    else if off = FLYER.TT_SLOT_SEALED.off then patch FLYER.TT_SLOT_TABLE_ID (c.slotId n 0) w
    else if off = FLYER.TT_SLOT_SEALED.off + 4 then patch FLYER.TT_SLOT_TABLE_ID (c.slotId n 1) w
    else w

/-- What the register at an offset of a page reads as; 0 where none is assigned (R16). -/
def Chip.readValue (c : Chip) (cls : PageCls) (n off : Nat) : Nat :=
  if off < 0x040 then c.headerRead cls n off
  else match cls with
    | .global => c.plainRead .global n off
    | .power => c.powerRead off
    | .whorl => c.whorlRead off
    | .tally => c.tallyRead off
    | .uplink => c.uplinkRead n off
    | .carder => c.plainRead .carder n off
    | .rulewin =>
      if 0x080 ≤ off ∧ off < 0x100 then c.ruleRead ((off - 0x080) / 4) else c.plainRead .rulewin n off
    | .bankwin => c.bankRead off
    | .reel => c.reelRead off
    | .reelgate => c.reelgateRead n off
    | .ply => c.plyRead off
    | .hostq => c.hostqRead off
    | .distaff => c.distaffRead off
    | .hank => c.plainRead .hank n off
    | .dram => c.dramPageRead off
    | .segment => c.segmentRead n off
    | .flyer => c.flyerRead n off

/-! ### Reads outside the page space -/

/-- What the Interrupt Pin register of the PCIe configuration space reads as: the block signals no interrupt (R409). -/
def Chip.interruptPin (_ : Chip) : Nat := 0x00

/-- What a read of BAR2 answers, at whatever address (R342). -/
def Chip.bar2Read (_ : Chip) (_addr : Nat) : Nat := 0

/-! ### A read through a port (R13, R14) -/

/-- The offset has a _HI partner four octets above it, or is one. -/
def PageCls.isLo (cls : PageCls) (off : Nat) : Bool := cls.loOffsets.contains off
def PageCls.isHi (cls : PageCls) (off : Nat) : Bool := decide (4 ≤ off) && cls.isLo (off - 4)

/-- A read at the offset latches its partner: as above, and the hit counter of an action entry in ENTRY_WORD8 and 9 (R265). -/
def Chip.readsLo (c : Chip) (cls : PageCls) (off : Nat) : Bool :=
  cls.isLo off || (cls == .rulewin && off == 0x0A0 && c.fld RULEWIN.ENTRY_SEL_TABLE == 2)
def Chip.readsHi (c : Chip) (cls : PageCls) (off : Nat) : Bool := decide (4 ≤ off) && c.readsLo cls (off - 4)

/-- The value that an earlier read has latched for the register, if any. -/
def Chip.latchedFor (c : Chip) (p : Port) (cls : PageCls) (n off : Nat) : Option Nat :=
  if c.readsHi cls off then Tab.get none (c.portState p).latched ((cls.base + n) * 4096 + off) else none

/-- What the read of an assigned page answers through a port: the register, or the value latched for it. -/
def Chip.portValue (c : Chip) (p : Port) (cls : PageCls) (n off : Nat) : Nat :=
  match c.latchedFor p cls n off with
  | some v => v
  | none => c.readValue cls n off

/-- What the port latches: a _LO read latches the _HI partner, and a _HI read uses its latch up. -/
def Chip.portLatch (c : Chip) (p : Port) (cls : PageCls) (n off : Nat) : Tab (Option Nat) :=
  let l := (c.portState p).latched
  let a := (cls.base + n) * 4096 + off
  if c.readsLo cls off then Tab.put none l (a + 4) (some (c.readValue cls n (off + 4)))
  else if c.readsHi cls off then Tab.put none l a none
  else l

/-! ### SRAM words behind a register (R419, R420) -/

/-- The register shows word `w` of an SRAM store: an entry behind a window, a ledger entry, or a counter. -/
def Chip.shows (c : Chip) (cls : PageCls) (n off : Nat) : SramWord → Bool
  | .table t bank i w => match cls with
    | .rulewin => c.selTable.any fun x => x.code == t && bank == 0 && c.fld RULEWIN.ENTRY_SEL_INDEX == i && off == 0x080 + 4 * w &&
        decide (w < x.words)
    | .bankwin => (c.bankAt off).any fun x => x.1.code == t && x.2 == (i, w) && c.fld BANKWIN.BANK_SEL_BANK == bank
    | _ => false
  | .frame _ | .work _ => false
  | .cell a k => match a, cls with
    | .segBuf, .segment => decide (0x800 ≤ off) && k == (32768 * n + c.bufAddr n ((off - 0x800) / 4)) / 8
    | .turns, .segment => decide (0x380 ≤ off ∧ off < 0x790) &&
        k == turnKey n (c.fld SEGMENT.TT_CTRL_VIEW_OPER n) ((off - 0x380) / 16) ((off - 0x380) / 4 % 4)
    | .drift, .flyer => decide (0x800 ≤ off) && k == 64 * n + (off - 0x800) / 32
    | .flyTurns, .flyer => c.flyShows n off k
    | .gateList, .reelgate => decide (0x800 ≤ off) && k == c.gclWinKey n off
    | .sets, .ply => decide (0x080 ≤ off ∧ off < 0x0C0) && k == 16 * c.fld PLY.CNT_SEL_INDEX + (off - 0x080) / 4
    | .hits, .rulewin => (off == 0x0A0 || off == 0x0A4) && c.fld RULEWIN.ENTRY_SEL_TABLE == 2 && k == c.fld RULEWIN.ENTRY_SEL_INDEX
    | .ledger, .hostq => (off == HOSTQ.LEDGER_ENTRY0_STATE.off || off == HOSTQ.LEDGER_ENTRY1_PROGRESS.off) && k == c.fld HOSTQ.LEDGER_SEL_TAG
    | .counter, _ => (off == HDR.ERRCNT_COUNT.off && k == cellKey (cls.base + n) HDR.ERRCNT_COUNT.off HDR.ERRCNT_COUNT.lo 0) ||
        (c.fieldsAt cls off).any fun h => h.1.acc == .ro && h.1.key n h.2 == k
    | _, _ => false

/-- What Table 12.7 does on the uncorrectable read of a word that a register shows: a counter becomes 0, and a Flyer whose turn-table
copy it is latches. Every other word is used as read, since no packet, frame or entry of an engine is at stake. -/
def Chip.shownBad (c : Chip) (cls : PageCls) (n off : Nat) (w : SramWord) : Chip :=
  let zero := (c.zeroCounter (cls.base + n) off).sramWrite 7 w
  match w with
  | .cell .flyTurns _ => c.flyEccLatch n
  | .cell .counter _ => zero
  | .cell .sets _ => zero
  | .cell .hits _ => zero
  | _ => c

/-- The read of a register reads the SRAM words that it, or the partner that it latches, shows. -/
def Chip.windowRead (c : Chip) (cls : PageCls) (n off : Nat) : Chip :=
  let (c, l) := c.sramRead none fun w => c.shows cls n off w || (c.readsLo cls off && c.shows cls n (off + 4) w)
  l.foldl (fun d b => d.shownBad cls n off b.word) c

/-- The read of a register on a page that answers. A free value that it may have shown is used up. -/
def Chip.pageRead (c : Chip) (p : Port) (cls : PageCls) (n off : Nat) : Chip :=
  let c := if (c.latchedFor p cls n off).isSome then c else c.windowRead cls n off
  let v := c.portValue p cls n off
  let l := c.portLatch p cls n off
  (if cls = .dram then c.drawn else c).setPort p { c.portState p with latched := l, data := v }

/-- A read through a port at a word-aligned address of the page space: it answers 0 where no page, or a page that is down,
has the address (R16, R52). -/
def Chip.regRead (c : Chip) (p : Port) (addr : Nat) : Chip :=
  let c := if c.reaches p then c.setPort p { c.portState p with data := 0 } else c
  c.access p (addr / 4096) false fun d =>
    match pageOf (addr / 4096) with
    | some (cls, n) => d.pageRead p cls n (addr % 4096)
    | none => d

end Sys2Proof.Machine
end

