-- ==== Sys2Proof/WellFormed.lean ====
section
/-!
DEFINITION. WellFormed.lean: which operands make a command of its kind. The types of the operands bound every other command:
an index past the last segment, uplink or queue cannot be written down.
Log entries: DEDUCED 12 (notes/assumptions).
-/
namespace Sys2Proof

/-- A partial write lacks one of the four byte enables (R12). -/
def partialForm (enables : BitVec 4) : Bool := enables != 15

/-- Only BAR0 reads fewer than the four bytes of a register (R13). -/
def readForm (port : Port) (lanes : BitVec 4) : Bool := port == .bar0 || lanes == 15

/-- The form checks of a command. -/
def Instr.wf : Instr → Bool
  | .partialByteWrite _ _ enables => partialForm enables
  | .loReadLatch port _ lanes => readForm port lanes
  | _ => true

/-- The register that a command addresses is word-aligned (R11). -/
def Instr.aligned : Instr → Bool
  | .registerWrite _ addr _ => addr.toNat % 4 == 0
  | .partialByteWrite addr _ _ => addr.toNat % 4 == 0
  | .loReadLatch _ addr _ => addr.toNat % 4 == 0
  | .loWriteStage _ addr _ => addr.toNat % 4 == 0
  | .hiWriteCommit _ addr _ => addr.toNat % 4 == 0
  | .offDomainAccess _ addr _ => addr.toNat % 4 == 0
  | .lightDomainAccess _ addr _ => addr.toNat % 4 == 0
  | _ => true

end Sys2Proof
end

