-- ==== Sys2Proof/Machine/RegWrite.lean ====
section
/-!
DEFINITION. Machine/RegWrite.lean: what a write of any register does, by page, and the register commands (R11 to R20, R52,
R406 to R408).
Log entries: DEDUCED 13, 17, 19; DESIGN CHOICE 20 (notes/assumptions).
-/
namespace Sys2Proof.Machine

/-! ### Registers that ignore writes at times -/

/-- The register, a _HI or one of a single word, ignores a write now, and the write counts in PAGE_ERRCNT (R169, R174, R284, R287, R364, R402). -/
def Chip.regHeld (c : Chip) (cls : PageCls) (n off : Nat) : Bool :=
  match cls with
  | .hostq =>
    ((off == HOSTQ.SQ_BASE_HI_ADDR.off || off == HOSTQ.SQ_CFG_SIZE_LOG2.off) && c.sqState (c.selected .sq) != sqOFF) ||
      ((off == HOSTQ.CR_BASE_HI_ADDR.off || off == HOSTQ.CR_CFG_SIZE_LOG2.off || off == HOSTQ.CR_RX_CFG_RX_EN.off) &&
        c.crOn (c.selected .cr))
  | .hank =>
    (off == HANK.WT_MAC_HI_ADDR.off && c.on HANK.WT_CFG_VALID 0 (c.selected .worker)) ||
      (off == HANK.MGR_MAC_HI_ADDR.off && c.on HANK.BIND_STATUS_MGR_VALID)
  | .reelgate => decide (0x048 ≤ off) && decide (off < 0x060) && c.adminBusy n
  | .segment => decide (0x380 ≤ off) && decide (off < 0x790) && c.on SEGMENT.TT_CTRL_VIEW_OPER n
  | .flyer => off == FLYER.TT_STAGE_CRC_CRC.off && c.fld FLYER.TT_SEAL_STATUS_STATE n == 1
  | _ => false

/-! ### The pages -/

def Chip.globalWrite (c : Chip) (p : Port) (off v : Nat) : Chip :=
  if off = GLOBAL.MODE_CMD_KEY.off then c.modeCmd p v Chip.deviceResetFree
  else if off = GLOBAL.MODE_CFG_AUTO_RUN.off then c.modeCfgWrite p v
  else if off = GLOBAL.ROLE_CMD_NEW_ROLE.off then c.roleCmd p v
  else if off = GLOBAL.WDOG_CFG_PERIOD.off then c.wdogCfgWrite p v
  else if off = GLOBAL.WDOG_KICK_KEY.off then c.wdogKick p v
  else if off = GLOBAL.ECC_CFG_FATAL_MASK.off then c.plainWrite .global 0 off (v ||| 0x60) p
  else if off = GLOBAL.ECC_INJECT_GO.off then c.eccInjectWrite v
  else if off = GLOBAL.THERM_PEAK_MAX.off then c.peakWrite v
  else if off = GLOBAL.IMAGE_CMD_KEY.off then c.imageCmd p v
  else c.plainWrite .global 0 off v p

/-- The TDC fraction of a capture that the command does not give is free. -/
def Chip.whorlPageWrite (c : Chip) (p : Port) (off v : Nat) : Chip :=
  let phi : Fin 2560 := ⟨c.freeVal % 2560, Nat.mod_lt _ (by decide)⟩
  if off = WHORL.SNAP_CMD_GO.off then c.drawn.snapCmd v phi else c.whorlWrite p off v phi

def Chip.tallyWrite (c : Chip) (p : Port) (off v : Nat) : Chip :=
  if off = TALLY.MIRROR_CFG_EN.off then c.mirrorCfgWrite p v
  else if off = TALLY.MIRROR_CMD_FORCE.off then c.mirrorCmd v
  else if 0x080 ≤ off ∧ off < 0x100 then c.tallyClear ((off - 0x080) / 4) v
  else if 0x100 ≤ off ∧ off < 0x180 then c.tallyEnWrite ((off - 0x100) / 4) v
  else c.plainWrite .tally 0 off v p

def Chip.carderWrite (c : Chip) (p : Port) (off v : Nat) : Chip :=
  if off = CARDER.BANK_CMD_KEY.off then c.bankCmd p v
  else if off = CARDER.BULK_CMD_GO.off then c.bulkCmd p v
  else if off = CARDER.BULK_ADDR_LO_ADDR.off then c.plainWrite .carder 0 off (v / 8 * 8) p
  else c.plainWrite .carder 0 off v p

def Chip.reelWrite (c : Chip) (p : Port) (off v : Nat) : Chip :=
  if off = REEL.CTX_CMD_WRITE.off then c.ctxCmd p v
  else if off = REEL.C7_ADMIT_CMD_OP.off then c.admitCmd p v
  else (c.plainWrite .reel 0 off v p).c7EvalAll.xoffJudgeAll

def Chip.reelgateWrite (c : Chip) (p : Port) (n off v : Nat) : Chip :=
  if off = REELGATE.GATE_CTRL_ENABLE.off then c.gateCtrlWrite p n v
  else if 0x800 ≤ off then c.gclWinWrite p n off v
  else (c.plainWrite .reelgate n off v p).c7Eval n

def Chip.hostqWrite (c : Chip) (p : Port) (off v : Nat) : Chip :=
  if off = HOSTQ.SQ_CMD_OP.off then c.sqCmd p v
  else if off = HOSTQ.CR_CMD_OP.off then c.crCmd p v
  else if off = HOSTQ.LEDGER_CMD_OP.off then c.ledgerCmd p v
  else c.plainWrite .hostq 0 off v p

def Chip.distaffWrite (c : Chip) (p : Port) (off v : Nat) : Chip :=
  if off = DISTAFF.DIR_CMD_READ.off then c.dirCmd p v none
  else if off = DISTAFF.BULK_CMD_GO.off then c.dirBulkCmd p v
  else c.plainWrite .distaff 0 off v p

def Chip.hankWrite (c : Chip) (p : Port) (off v : Nat) : Chip :=
  if off = HANK.WT_CFG_VALID.off then c.wtCfgWrite p v
  else if off = HANK.BIND_STATUS_MGR_VALID.off then c.bindStatusWrite p v
  else (c.plainWrite .hank 0 off v p).c7EvalAll

def Chip.segmentWrite (c : Chip) (p : Port) (n off v : Nat) : Chip :=
  if off = SEGMENT.CFG_PLAIN.off then c.segCfgWrite n false p v
  else if off = SEGMENT.NODE_CFG_NODE_ID.off then c.segCfgWrite n true p v
  else if off = SEGMENT.TT_CMD_COMMIT.off then c.ttCommit n p v
  else if off = SEGMENT.PUB_CMD_TURN.off then c.pubCmd n p v
  else if off = SEGMENT.JOIN_POP_GO.off then c.joinPop n v
  else if off = SEGMENT.ACK_CMD_GO.off then c.ackCmd n p v
  else if 0x200 ≤ off ∧ off < 0x304 then c.turnStatWrite n ((off - 0x200) / 4) p v
  else if 0x380 ≤ off ∧ off < 0x790 then
    let w := (off - 0x380) / 4 % 4
    c.setTurnW n 0 ((off - 0x380) / 16) w (v &&& turnMask w)
  else if 0x800 ≤ off then c.bufWrite n ((off - 0x800) / 4) p v
  else c.plainWrite .segment n off v p

def Chip.flyerWrite (c : Chip) (p : Port) (n off v : Nat) : Chip :=
  if off = FLYER.TT_SEAL_CMD_SEAL.off then c.sealCmd n p v
  else if off = FLYER.TT_STAGE_HDR0_GUARD.off then c.stageWrite n 0 off p v
  else if off = FLYER.TT_STAGE_HDR1_CYCLE_LEN.off then c.stageWrite n 1 off p v
  else if 0x200 ≤ off ∧ off < 0x408 then c.stageWrite n (2 + (off - 0x200) / 4) off p v
  else if off = FLYER.REARM_GO.off then c.rearm n p v
  else if off = FLYER.PWR_CTRL_ON.off then c.pwrWrite n v
  else if off = FLYER.DRIFT_CMD_GO.off then c.driftCmd n v
  else c.plainWrite .flyer n off v p

/-- A write of a register past the header, whose _LO half, if it has one, is in place. -/
def Chip.pageWrite (c : Chip) (p : Port) (cls : PageCls) (n off v : Nat) : Chip :=
  match cls with
  | .global => c.globalWrite p off v
  | .power => if off = POWER.CEILING_TOKENS.off then c.ceilingWrite p v else (c.plainWrite .power 0 off v p).ceilingJudge
  | .whorl => c.whorlPageWrite p off v
  | .tally => c.tallyWrite p off v
  | .uplink =>
    if off = UPLINK.MERGE_CFG_EN.off then c.mergeCfgWrite p n v
    else
      let c := c.plainWrite .uplink n off v p
      let c := (if off = UPLINK.CFG_SPEED.off then c.uplinkTry n else c).c7Eval n
      if off = UPLINK.PAUSE_CFG_RX_EN.off then c.xoffJudge n else c
  | .carder => c.carderWrite p off v
  | .rulewin =>
    if 0x080 ≤ off ∧ off < 0x100 then c.ruleWrite p ((off - 0x080) / 4) v else c.plainWrite .rulewin 0 off v p
  | .bankwin => c.bankWrite p off v
  | .reel => c.reelWrite p off v
  | .reelgate => c.reelgateWrite p n off v
  | .ply => c.plyWrite p off v
  | .hostq => c.hostqWrite p off v
  | .distaff => c.distaffWrite p off v
  | .hank => c.hankWrite p off v
  | .dram => if off = DRAM.SCRUB_CMD_GO.off then c.scrubCmd p v [] else c.plainWrite .dram 0 off v p
  | .segment => c.segmentWrite p n off v
  | .flyer => c.flyerWrite p n off v

/-- The same, where the register takes writes now. -/
def Chip.judgedRegWrite (c : Chip) (p : Port) (cls : PageCls) (n off v : Nat) : Chip :=
  if c.regHeld cls n off then c.errcnt (cls.base + n) off p else c.pageWrite p cls n off v

/-! ### _LO and _HI (R15, R408) -/

/-- What the port has staged for the _LO register at `addr`. -/
def Chip.stagedAt (c : Chip) (p : Port) (addr : Nat) : Option Nat := Tab.get none (c.portState p).staged addr

def Chip.setStaged (c : Chip) (p : Port) (addr : Nat) (v : Option Nat) : Chip :=
  c.setPort p { c.portState p with staged := Tab.put none (c.portState p).staged addr v }

/-- The _LO half of a commit: its fields take their values, by their access codes. The low three bits of the bulk addresses
read 0 (Tables 07.13 and 11.16). -/
def Chip.loCommit (c : Chip) (cls : PageCls) (n off v : Nat) : Chip :=
  let sealed := c.hdr HDR.SEAL_SEALED (cls.base + n) != 0
  let v := if cls = .carder ∨ cls = .distaff then v / 8 * 8 else v
  (c.fieldsAt cls off).foldl (fun d h => d.writeField h.1 n h.2 v sealed) c

/-- The first word of the shadow block is written anew when EN has gone from 0 to 1 (R345). -/
def Chip.shadowStart (c : Chip) (was : Bool) : Chip :=
  if !was && c.on HOSTQ.SHADOW_ADDR_LO_EN then c.updHostq fun h => { h with shadow := [] } else c

/-- A _LO write is staged, unless the pair ignores writes now (R284, R287, R364, R402) or its page is sealed (R19): then it is
counted and stages nothing. -/
def Chip.loWrite (c : Chip) (p : Port) (cls : PageCls) (n off v : Nat) : Chip :=
  if c.regHeld cls n (off + 4) then c.errcnt (cls.base + n) off p
  else if c.sealedAt cls n off then (c.errcnt (cls.base + n) off p).raise EV.GLOBAL_SEALED_WRITE
  else c.setStaged p ((cls.base + n) * 4096 + off) (some v)

/-- A _HI write commits what its port has staged, or changes only the _HI half. One that is ignored or refused commits nothing,
and the staged value stays (R408). -/
def Chip.hiWrite (c : Chip) (p : Port) (cls : PageCls) (n off v : Nat) : Chip :=
  let lo := off - 4
  let addr := (cls.base + n) * 4096 + lo
  if c.regHeld cls n off then c.errcnt (cls.base + n) off p
  else if c.sealedAt cls n off then c.pageWrite p cls n off v
  else
    let staged := c.stagedAt p addr
    let c := c.setStaged p addr none
    let was := c.on HOSTQ.SHADOW_ADDR_LO_EN
    let c := match staged with
      | some l => c.loCommit cls n lo l
      | none => c
    let c := c.pageWrite p cls n off v
    if cls = .hostq then c.shadowStart was else c

/-- A write of a register on a page that answers. -/
def Chip.portWrite (c : Chip) (p : Port) (cls : PageCls) (n off v : Nat) : Chip :=
  if off < 0x040 then c.headerWrite cls n off p v
  else if cls.isLo off then c.loWrite p cls n off v
  else if cls.isHi off then c.hiWrite p cls n off v
  else c.judgedRegWrite p cls n off v

/-- A write through a port at a word-aligned address of the page space. A write of PAGE_SEAL judges the armed unseal itself. -/
def Chip.regWrite (c : Chip) (p : Port) (addr v : Nat) : Chip :=
  c.access p (addr / 4096) (addr % 4096 == 0x01C) fun d =>
    match pageOf (addr / 4096) with
    | some (cls, n) => d.portWrite p cls n (addr % 4096) v
    | none => d

/-- A write, or a read where there is no data. -/
def Chip.regAccess (c : Chip) (p : Port) (addr : Nat) (write : Option Word) : Chip :=
  match write with
  | some v => c.regWrite p addr v.toNat
  | none => c.regRead p addr

/-! ### The register commands -/

/-- A command that accesses one register at a word-aligned address (R11). -/
def runAligned (addr : PageAddr) (f : Chip → Chip) (s : State) : Result :=
  if addr.toNat % 4 = 0 then run f s else .fault .outsideContract

def execRegisterWrite (port : Port) (addr : PageAddr) (value : Word) (s : State) : Result :=
  runAligned addr (fun c => c.regWrite port addr.toNat value.toNat) s

def execLoWriteStage (port : Port) (addr : PageAddr) (value : Word) (s : State) : Result :=
  runAligned addr (fun c => c.regWrite port addr.toNat value.toNat) s

def execHiWriteCommit (port : Port) (addr : PageAddr) (value : Word) (s : State) : Result :=
  runAligned addr (fun c => c.regWrite port addr.toNat value.toNat) s

def execOffDomainAccess (port : Port) (addr : PageAddr) (write : Option Word) (s : State) : Result :=
  runAligned addr (fun c => c.regAccess port addr.toNat write) s

def execLightDomainAccess (port : Port) (addr : PageAddr) (write : Option Word) (s : State) : Result :=
  runAligned addr (fun c => c.regAccess port addr.toNat write) s

/-- The bits of the byte lanes that a read addresses. -/
def laneMask (lanes : BitVec 4) : Nat :=
  ((List.range 4).map fun i => if lanes.getLsbD i then 0xFF * 2 ^ (8 * i) else 0).sum

/-- A read narrower than a word has the effects of a full one and returns the bytes that it addresses (R13). -/
def Chip.laneRead (c : Chip) (p : Port) (addr : Nat) (lanes : BitVec 4) : Chip :=
  let c := c.regRead p addr
  c.setPort p { c.portState p with data := (c.portState p).data &&& laneMask lanes }

/-- `lanes` are the bytes of the aligned register that the read addresses; only BAR0 reads less than all four. -/
def execLoReadLatch (port : Port) (addr : PageAddr) (lanes : BitVec 4) (s : State) : Result :=
  if readForm port lanes then runAligned addr (fun c => c.laneRead port addr.toNat lanes) s else .refused .illFormed

/-- A BAR0 write without all four byte enables (R12). -/
def Chip.partialWrite (c : Chip) (addr : Nat) : Chip :=
  c.access .bar0 (addr / 4096) false fun d => d.errcnt (addr / 4096) (addr % 4096) .bar0

/-- With all four byte enables the command is no partial write. -/
def execPartialByteWrite (addr : PageAddr) (_value : Word) (enables : BitVec 4) (s : State) : Result :=
  if partialForm enables then runAligned addr (fun c => c.partialWrite addr.toNat) s else .refused .illFormed

/-! ### The management SPI target (R410, R411) -/

/-- An error of a transaction is counted. -/
def Chip.spiError (c : Chip) : Chip := (c.bump GLOBAL.SPI_ERRORS_COUNT).raise EV.GLOBAL_SPI_ERROR

/-- The status octet of the last transaction. -/
def Chip.spiStatus (c : Chip) (v : Nat) : Chip := c.setPort .spi { c.portState .spi with status := v }

/-- The rest of a transaction whose header is good: `len` octets in all, and `waits` octets until the access is complete. -/
def Chip.spiAccess (c : Chip) (addr len waits : Nat) (write : Option Word) : Chip :=
  let head := if write.isSome then 8 else 4
  let old := (c.portState .spi).data
  let c := c.regAccess .spi addr write
  if 32 ≤ waits ∧ head + 33 ≤ len then
    ((c.setPort .spi { c.portState .spi with data := old }).spiStatus 0xE2).spiError
  else
    let c := if waits < 32 ∧ head + waits + 1 ≤ len then c.spiStatus 0xA5 else c
    if write.isNone ∧ len < head + waits + 5 then (c.setPort .spi { c.portState .spi with data := old }).spiError else c

/-- One transaction of the SPI target. -/
def Chip.spi (c : Chip) (mosi : List Byte) (waits : Nat) : Chip :=
  let o := (mosi.getD 0 0).toNat
  let addr := beNat ((mosi.drop 1).take 3)
  if c.mode = mRESET ∨ mosi = [] ∨ o / 32 ≠ c.fld GLOBAL.STRAPS_SPI_ADDR then c
  else if bitsOf o 4 1 ≠ 0 ∨ (4 ≤ mosi.length ∧ addr % 4 ≠ 0) then
    (if (if o % 2 = 1 then 9 else 5) ≤ mosi.length then c.spiStatus 0xE1 else c).spiError
  else if o % 2 = 1 then
    if mosi.length < 8 then c.spiError
    else c.spiAccess addr mosi.length waits (some (BitVec.ofNat 32 (beNat ((mosi.drop 4).take 4))))
  else if mosi.length < 4 then c
  else c.spiAccess addr mosi.length waits none

def execSpiTransaction (mosi : List Byte) (waits : Nat) (s : State) : Result := run (fun c => c.spi mosi waits) s

end Sys2Proof.Machine
end

