-- ==== Sys2Proof/Machine/Remote.lean ====
section
/-!
DEFINITION. Machine/Remote.lean: the accesses that the block carries out by itself: those of a REG_REQ at a worker (R385, R397,
R399) and the records of a configuration image (R462, R465, R466).
Log entries: DEDUCED 21, 22 (notes/assumptions).
-/
namespace Sys2Proof.Machine

/-- The page at an address is in a domain that is OFF or DEEP. -/
def Chip.meetsDown (c : Chip) (addr : Nat) : Bool :=
  match pageOf (addr / 4096) with
  | some (cls, _) => !c.domUp cls.domain
  | none => false

/-- The access increments the PAGE_ERRCNT of its page: judged on the count from 0, so that saturation hides nothing. -/
def Chip.meetsRefusal (c : Chip) (p : Port) (addr : Nat) (write : Option Word) : Bool :=
  (pageOf (addr / 4096)).isSome &&
    ((c.setHdr HDR.ERRCNT_COUNT (addr / 4096) 0).regAccess p addr write).hdr HDR.ERRCNT_COUNT (addr / 4096) != 0

/-! ### REG_REQ (R399) -/

/-- The accesses of a REG_REQ body: address and data; a read has no data. -/
def regReqAccesses (b : List Byte) : List (Nat × Option Word) :=
  (List.range (octAt b 1)).map fun k =>
    (beNat ((b.drop (4 + 8 * k)).take 4) % 2 ^ 24 / 4 * 4,
     if octAt b 0 = 1 then some (BitVec.ofNat 32 (beNat ((b.drop (8 + 8 * k)).take 4))) else none)

/-- The accesses are carried out until one fails: the block after them, DONE, STATUS, and the data read. -/
def Chip.regAccesses (c : Chip) : List (Nat × Option Word) → Nat → List Byte → Chip × Nat × Nat × List Byte
  | [], done, data => (c, done, 0, data)
  | (a, w) :: r, done, data =>
    let down := c.meetsDown a
    let bad := c.meetsRefusal .hank a w
    let d := (c.regAccess .hank a w).bump HANK.REMOTE_ACCESSES_COUNT
    if down then (d, done, 1, data)
    else if bad then (d, done, 2, data)
    else d.regAccesses r (done + 1) (if w.isNone then data ++ beBytes 4 (d.portState .hank).data else data)

/-- The answer of a worker, built with the binding and the epoch of the request, is stored and sent; a part that has left
WORKER, or whose CORE has gone down, sends nothing (R397). -/
def Chip.regAnswer (c : Chip) (before : Chip) (m : HankRx) (body : List Byte) : Chip :=
  let octets := before.hankOctets hkREGRESP 0 m.seq 0 false body
  if c.isWorker && c.dom .core == domON then
    let id := c.hank.nextId
    let msg : HankMsg := { typ := hkREGRESP, worker := 0, seq := m.seq, octets := octets, vlan := c.hankVlan }
    let c := c.updHank fun h => { h with nextId := id + 1, resp := some (m.seq, octets) }
    (c.setMsg id (some msg)).hankPost id (before.hankUplink 0) (before.hankDst 0) octets
  else c

/-- A worker acts on a REG_REQ. -/
def Chip.regReqRx (c : Chip) (m : HankRx) : Chip :=
  let c := c.hankAccept m
  if c.on HANK.CFG_REMOTE_EN then
    let (d, done, status, data) := (c.updHank fun h => { h with carrying := true }).regAccesses (regReqAccesses m.body) 0 []
    let d := d.updHank fun h => { h with carrying := false }
    d.regAnswer c m (beBytes 1 done ++ beBytes 1 status ++ beBytes 2 0 ++ data)
  else ((c.bump HANK.REMOTE_REFUSED_COUNT).raise EV.HANK_REMOTE_REFUSED).regAnswer c m (beBytes 1 0 ++ beBytes 1 3 ++ beBytes 2 0)

/-- A duplicate REG_REQ is answered by the stored REG_RESP, where it is the one stored. -/
def Chip.regReqAgain (c : Chip) (m : HankRx) : Chip :=
  if m.typ = hkREGREQ then
    match c.hank.resp with
    | some (q, o) =>
      if q = m.seq then c.hankSend { typ := hkREGRESP, worker := 0, seq := m.seq, octets := o } else c
    | none => c
  else c

def execRegReqRx (s : State) : Result :=
  run (fun c => c.hankTake hkREGREQ (fun d m => if d.isWorker then d.regReqRx m else d.hankAccept m) Chip.regReqAgain) s

/-! ### Image records (R462, R465, R466) -/

/-- The loader takes the record that comes next in pass 2. -/
def Chip.recordDue (c : Chip) : Bool :=
  c.mode == mACQUIRE && c.imSt == imAPPLYING && c.image.waitUntil.isNone

/-- One record is counted. -/
def Chip.recordCounted (c : Chip) : Chip :=
  c.setFld GLOBAL.IMAGE_STATUS_RECORDS (c.fld GLOBAL.IMAGE_STATUS_RECORDS + 1)

/-- A WRITE record. Where it ends pass 2 by what it writes, a command that leaves ACQUIRE, it counts as applied, and nothing more
follows (R466). -/
def Chip.recordWrite (c : Chip) (addr : Nat) (v : Word) : Chip :=
  let bad := c.meetsDown addr || c.meetsRefusal .image addr (some v)
  let d := c.regWrite .image addr v.toNat
  if d.imSt = imERROR then d.recordCounted
  else if d.imSt ≠ imAPPLYING then d
  else if bad then d.imageError 5
  else d.recordCounted.imageFinish

/-- The next record of pass 2, as its eight octets arrive. -/
def Chip.imageRecord (c : Chip) (w0 w1 : Word) : Chip :=
  let c := c.updImage fun i => { i with crcRun := crcRun i.crcRun (leBytes 4 w0.toNat ++ leBytes 4 w1.toNat) }
  if bitsOf w0.toNat 27 24 = 1 then
    (c.updImage fun i => { i with waitUntil := some (c.now + w1.toNat * usQ) }).recordCounted
  else c.recordWrite (bitsOf w0.toNat 23 0 / 4 * 4) w1

def execImageRecord (w0 w1 : Word) (s : State) : Result := run (fun c => c.whenDue c.recordDue fun d => d.imageRecord w0 w1) s

end Sys2Proof.Machine
end

