-- ==== Sys2Proof/Machine/Dispatch.lean ====
section
/-!
DEFINITION. Machine/Dispatch.lean: one arm per command, each one direct call of the command's meaning.
-/
namespace Sys2Proof.Machine

def exec (i : Instr) (s : State) : Host.Outcome State Fault Refusal :=
  match i with
  | .registerWrite port addr value => Sys2Proof.Machine.execRegisterWrite port addr value s
  | .partialByteWrite addr value enables => Sys2Proof.Machine.execPartialByteWrite addr value enables s
  | .loReadLatch port addr lanes => Sys2Proof.Machine.execLoReadLatch port addr lanes s
  | .loWriteStage port addr value => Sys2Proof.Machine.execLoWriteStage port addr value s
  | .hiWriteCommit port addr value => Sys2Proof.Machine.execHiWriteCommit port addr value s
  | .offDomainAccess port addr write => Sys2Proof.Machine.execOffDomainAccess port addr write s
  | .lightDomainAccess port addr write => Sys2Proof.Machine.execLightDomainAccess port addr write s
  | .spiTransaction mosi waits => Sys2Proof.Machine.execSpiTransaction mosi waits s
  | .porstAssert lowNs => Sys2Proof.Machine.execPorstAssert lowNs s
  | .porstRelease straps tdcOk => Sys2Proof.Machine.execPorstRelease straps tdcOk s
  | .aonSupplyFault lowNs => Sys2Proof.Machine.execAonSupplyFault lowNs s
  | .segSupplyFault lowNs => Sys2Proof.Machine.execSegSupplyFault lowNs s
  | .segSupplyRecover rangeNs => Sys2Proof.Machine.execSegSupplyRecover rangeNs s
  | .fuseLoadComplete => Sys2Proof.Machine.execFuseLoadComplete s
  | .deviceReset port key straps tdcOk => Sys2Proof.Machine.execDeviceReset port key straps tdcOk s
  | .modeCmdSleep port key => Sys2Proof.Machine.execModeCmdSleep port key s
  | .modeCmdAcquire port key => Sys2Proof.Machine.execModeCmdAcquire port key s
  | .modeCmdRun port key => Sys2Proof.Machine.execModeCmdRun port key s
  | .modeCmdEnterSafe port key => Sys2Proof.Machine.execModeCmdEnterSafe port key s
  | .modeCmdExitSafe port key => Sys2Proof.Machine.execModeCmdExitSafe port key s
  | .autoStart => Sys2Proof.Machine.execAutoStart s
  | .runEntry => Sys2Proof.Machine.execRunEntry s
  | .acquireTimeout => Sys2Proof.Machine.execAcquireTimeout s
  | .holdoverEntry => Sys2Proof.Machine.execHoldoverEntry s
  | .holdoverExit => Sys2Proof.Machine.execHoldoverExit s
  | .holdoverLimitSafe => Sys2Proof.Machine.execHoldoverLimitSafe s
  | .safeEntry => Sys2Proof.Machine.execSafeEntry s
  | .safeUplinkIdle n => Sys2Proof.Machine.execSafeUplinkIdle n s
  | .safeSceneStart => Sys2Proof.Machine.execSafeSceneStart s
  | .safePowerDown => Sys2Proof.Machine.execSafePowerDown s
  | .autoExitSafe => Sys2Proof.Machine.execAutoExitSafe s
  | .wdogKick port value => Sys2Proof.Machine.execWdogKick port value s
  | .wdogWarn => Sys2Proof.Machine.execWdogWarn s
  | .watchdogExpiry => Sys2Proof.Machine.execWatchdogExpiry s
  | .perstAssert => Sys2Proof.Machine.execPerstAssert s
  | .perstRelease => Sys2Proof.Machine.execPerstRelease s
  | .roleCmd port value => Sys2Proof.Machine.execRoleCmd port value s
  | .dramTrainingDone trained0 trained1 dens0 dens1 => Sys2Proof.Machine.execDramTrainingDone trained0 trained1 dens0 dens1 s
  | .domainWakeDone domain => Sys2Proof.Machine.execDomainWakeDone domain s
  | .laneLightEntry lane => Sys2Proof.Machine.execLaneLightEntry lane s
  | .leaveRequest op => Sys2Proof.Machine.execLeaveRequest op s
  | .leaveGrant => Sys2Proof.Machine.execLeaveGrant s
  | .leaveSlow => Sys2Proof.Machine.execLeaveSlow s
  | .ceilingWrite port value => Sys2Proof.Machine.execCeilingWrite port value s
  | .throttleOn estimate => Sys2Proof.Machine.execThrottleOn estimate s
  | .throttleOff estimate => Sys2Proof.Machine.execThrottleOff estimate s
  | .leaveDeadlineMiss share => Sys2Proof.Machine.execLeaveDeadlineMiss share s
  | .snapCmd port value phi => Sys2Proof.Machine.execSnapCmd port value phi s
  | .tdcCalibration ok => Sys2Proof.Machine.execTdcCalibration ok s
  | .ptpSyncRx n phi m => Sys2Proof.Machine.execPtpSyncRx n phi m s
  | .ptpFollowUpRx n m => Sys2Proof.Machine.execPtpFollowUpRx n m s
  | .measurementLoss => Sys2Proof.Machine.execMeasurementLoss s
  | .sourceChange => Sys2Proof.Machine.execSourceChange s
  | .hostLockWrite port value => Sys2Proof.Machine.execHostLockWrite port value s
  | .refclkFault noEdgeNs outOfRangeNs => Sys2Proof.Machine.execRefclkFault noEdgeNs outOfRangeNs s
  | .refclkRecovered inRangeUs => Sys2Proof.Machine.execRefclkRecovered inRangeUs s
  | .hoErrorUpdate => Sys2Proof.Machine.execHoErrorUpdate s
  | .adjRequest port value => Sys2Proof.Machine.execAdjRequest port value s
  | .stepApply => Sys2Proof.Machine.execStepApply s
  | .stepAtBoundary => Sys2Proof.Machine.execStepAtBoundary s
  | .slewDone => Sys2Proof.Machine.execSlewDone s
  | .holdEnd => Sys2Proof.Machine.execHoldEnd s
  | .ppsOutEdge => Sys2Proof.Machine.execPpsOutEdge s
  | .ppsInEdge phi rising => Sys2Proof.Machine.execPpsInEdge phi rising s
  | .ppsInMissing => Sys2Proof.Machine.execPpsInMissing s
  | .cycleMarkArm port k value => Sys2Proof.Machine.execCycleMarkArm port k value s
  | .cycleMarkEdge k => Sys2Proof.Machine.execCycleMarkEdge k s
  | .refillTick => Sys2Proof.Machine.execRefillTick s
  | .ttCommit port n value => Sys2Proof.Machine.execTtCommit port n value s
  | .ttSwitch n => Sys2Proof.Machine.execTtSwitch n s
  | .segmentPhyReady n => Sys2Proof.Machine.execSegmentPhyReady n s
  | .segmentDisable n write => Sys2Proof.Machine.execSegmentDisable n write s
  | .segmentCfgWrite port n nodeCfg value => Sys2Proof.Machine.execSegmentCfgWrite port n nodeCfg value s
  | .listenTimeout n free => Sys2Proof.Machine.execListenTimeout n free s
  | .coldstartSent n => Sys2Proof.Machine.execColdstartSent n s
  | .contendCollision n => Sys2Proof.Machine.execContendCollision n s
  | .backoffExpiry n free => Sys2Proof.Machine.execBackoffExpiry n free s
  | .trialGridPoint n carrier => Sys2Proof.Machine.execTrialGridPoint n carrier s
  | .beaconSend n => Sys2Proof.Machine.execBeaconSend n s
  | .beaconMiss n => Sys2Proof.Machine.execBeaconMiss n s
  | .segmentFrameRx n stamp octets symErr own => Sys2Proof.Machine.execSegmentFrameRx n stamp octets symErr own s
  | .partnerTurnEnd n turn => Sys2Proof.Machine.execPartnerTurnEnd n turn s
  | .staticCollision n turn => Sys2Proof.Machine.execStaticCollision n turn s
  | .devStateLatch n turn => Sys2Proof.Machine.execDevStateLatch n turn s
  | .devQueueLatch n turn => Sys2Proof.Machine.execDevQueueLatch n turn s
  | .pubCmd port n value => Sys2Proof.Machine.execPubCmd port n value s
  | .safeValidWrite port n turn value => Sys2Proof.Machine.execSafeValidWrite port n turn value s
  | .bufWinWrite port n word value => Sys2Proof.Machine.execBufWinWrite port n word value s
  | .reelFrameOffer n => Sys2Proof.Machine.execReelFrameOffer n s
  | .contFrameTx n free => Sys2Proof.Machine.execContFrameTx n free s
  | .ackSend n line => Sys2Proof.Machine.execAckSend n line s
  | .joinPop port n value => Sys2Proof.Machine.execJoinPop port n value s
  | .ackCmd port n value => Sys2Proof.Machine.execAckCmd port n value s
  | .plainFrameTx n free => Sys2Proof.Machine.execPlainFrameTx n free s
  | .segmentCsmaCollision n late => Sys2Proof.Machine.execSegmentCsmaCollision n late s
  | .ttSeal port n value => Sys2Proof.Machine.execTtSeal port n value s
  | .ttSealDone n => Sys2Proof.Machine.execTtSealDone n s
  | .ttUnseal port n value => Sys2Proof.Machine.execTtUnseal port n value s
  | .flyerEnable n write => Sys2Proof.Machine.execFlyerEnable n write s
  | .flyerDisable n write => Sys2Proof.Machine.execFlyerDisable n write s
  | .flyerBeaconDetect n stamp octets => Sys2Proof.Machine.execFlyerBeaconDetect n stamp octets s
  | .flyerBeaconMiss n => Sys2Proof.Machine.execFlyerBeaconMiss n s
  | .extAllowance n => Sys2Proof.Machine.execExtAllowance n s
  | .txAttempt n quietNs => Sys2Proof.Machine.execTxAttempt n quietNs s
  | .windowCloseCut n => Sys2Proof.Machine.execWindowCloseCut n s
  | .rearm port n value => Sys2Proof.Machine.execRearm port n value s
  | .driftCmd port n value => Sys2Proof.Machine.execDriftCmd port n value s
  | .babbleOverrun n turn => Sys2Proof.Machine.execBabbleOverrun n turn s
  | .strayEnergy n stamp src collision => Sys2Proof.Machine.execStrayEnergy n stamp src collision s
  | .cutRestore n => Sys2Proof.Machine.execCutRestore n s
  | .cleanRenew n => Sys2Proof.Machine.execCleanRenew n s
  | .pwrOnWrite port n value => Sys2Proof.Machine.execPwrOnWrite port n value s
  | .pwrRestore port n value => Sys2Proof.Machine.execPwrRestore port n value s
  | .segpwrFrame => Sys2Proof.Machine.execSegpwrFrame s
  | .segpwrLatch => Sys2Proof.Machine.execSegpwrLatch s
  | .uplinkEnable n write => Sys2Proof.Machine.execUplinkEnable n write s
  | .uplinkDisable n write => Sys2Proof.Machine.execUplinkDisable n write s
  | .uplinkBringupDone n cal => Sys2Proof.Machine.execUplinkBringupDone n cal s
  | .linkUp seen => Sys2Proof.Machine.execLinkUp seen s
  | .linkDown n cause rxBusy => Sys2Proof.Machine.execLinkDown n cause rxBusy s
  | .uplinkFrameRx n stamp phi octets pcsErr fixed bad => Sys2Proof.Machine.execUplinkFrameRx n stamp phi octets pcsErr fixed bad s
  | .pauseTakeEffect n => Sys2Proof.Machine.execPauseTakeEffect n s
  | .pauseExpiry n => Sys2Proof.Machine.execPauseExpiry n s
  | .pauseFrameTx n phi => Sys2Proof.Machine.execPauseFrameTx n phi s
  | .pauseRefresh n phi => Sys2Proof.Machine.execPauseRefresh n phi s
  | .verifySend n phi => Sys2Proof.Machine.execVerifySend n phi s
  | .mpacketRx n phi m err => Sys2Proof.Machine.execMpacketRx n phi m err s
  | .txSelect n phi arrived => Sys2Proof.Machine.execTxSelect n phi arrived s
  | .preemption n phi arrived => Sys2Proof.Machine.execPreemption n phi arrived s
  | .uplinkFrameTxEnd n => Sys2Proof.Machine.execUplinkFrameTxEnd n s
  | .txUnderrun n phi => Sys2Proof.Machine.execTxUnderrun n phi s
  | .carderInitDone => Sys2Proof.Machine.execCarderInitDone s
  | .lane11Dispatch => Sys2Proof.Machine.execLane11Dispatch s
  | .generalDispatch => Sys2Proof.Machine.execGeneralDispatch s
  | .passEnd => Sys2Proof.Machine.execPassEnd s
  | .reorderRelease ingress => Sys2Proof.Machine.execReorderRelease ingress s
  | .bankSwitch port value => Sys2Proof.Machine.execBankSwitch port value s
  | .bankFree => Sys2Proof.Machine.execBankFree s
  | .ruleEntryWrite port word value => Sys2Proof.Machine.execRuleEntryWrite port word value s
  | .bankWindowWrite port reg value => Sys2Proof.Machine.execBankWindowWrite port reg value s
  | .carderBulkGo port value => Sys2Proof.Machine.execCarderBulkGo port value s
  | .carderBulkAbort port value => Sys2Proof.Machine.execCarderBulkAbort port value s
  | .carderBulkRecord rec => Sys2Proof.Machine.execCarderBulkRecord rec s
  | .reelEnqueue => Sys2Proof.Machine.execReelEnqueue s
  | .contextSweep => Sys2Proof.Machine.execContextSweep s
  | .ctxRead port value => Sys2Proof.Machine.execCtxRead port value s
  | .ctxWrite port value => Sys2Proof.Machine.execCtxWrite port value s
  | .gclConfigChange port n value => Sys2Proof.Machine.execGclConfigChange port n value s
  | .gclCancel port n value => Sys2Proof.Machine.execGclCancel port n value s
  | .gclActivate n => Sys2Proof.Machine.execGclActivate n s
  | .adminCopyDone n => Sys2Proof.Machine.execAdminCopyDone n s
  | .gateEvent n => Sys2Proof.Machine.execGateEvent n s
  | .launchTimeReached n cls arrived => Sys2Proof.Machine.execLaunchTimeReached n cls arrived s
  | .launchExpire n cls => Sys2Proof.Machine.execLaunchExpire n cls s
  | .segmentOffer o => Sys2Proof.Machine.execSegmentOffer o s
  | .c7AdmitAdd port value => Sys2Proof.Machine.execC7AdmitAdd port value s
  | .c7AdmitRemove port value => Sys2Proof.Machine.execC7AdmitRemove port value s
  | .seqReset ctx => Sys2Proof.Machine.execSeqReset ctx s
  | .latentTest => Sys2Proof.Machine.execLatentTest s
  | .latentReset => Sys2Proof.Machine.execLatentReset s
  | .counterSetClear port value => Sys2Proof.Machine.execCounterSetClear port value s
  | .sqDoorbell offset value be => Sys2Proof.Machine.execSqDoorbell offset value be s
  | .crHeadDoorbell offset value be => Sys2Proof.Machine.execCrHeadDoorbell offset value be s
  | .shadowWrite word => Sys2Proof.Machine.execShadowWrite word s
  | .sqFetch entries => Sys2Proof.Machine.execSqFetch entries s
  | .opHandover sq data => Sys2Proof.Machine.execOpHandover sq data s
  | .txDataPcieError tag phi => Sys2Proof.Machine.execTxDataPcieError tag phi s
  | .completion => Sys2Proof.Machine.execCompletion s
  | .rxPlacement => Sys2Proof.Machine.execRxPlacement s
  | .rxHoldTimeout cr => Sys2Proof.Machine.execRxHoldTimeout cr s
  | .sqEnable port value => Sys2Proof.Machine.execSqEnable port value s
  | .sqDrain port value => Sys2Proof.Machine.execSqDrain port value s
  | .sqAbort port value => Sys2Proof.Machine.execSqAbort port value s
  | .sqQuiescent sq => Sys2Proof.Machine.execSqQuiescent sq s
  | .crEnable port value => Sys2Proof.Machine.execCrEnable port value s
  | .crDisable port value => Sys2Proof.Machine.execCrDisable port value s
  | .ledgerRelease port value => Sys2Proof.Machine.execLedgerRelease port value s
  | .ledgerReleaseAll port value => Sys2Proof.Machine.execLedgerReleaseAll port value s
  | .ledgerDump port value => Sys2Proof.Machine.execLedgerDump port value s
  | .ledgerDumpDone => Sys2Proof.Machine.execLedgerDumpDone s
  | .fanoutLeaveRequest share => Sys2Proof.Machine.execFanoutLeaveRequest share s
  | .fanoutStart share ecc => Sys2Proof.Machine.execFanoutStart share ecc s
  | .fanoutApplyExpired share => Sys2Proof.Machine.execFanoutApplyExpired share s
  | .fanoutFrameIdleSend share w => Sys2Proof.Machine.execFanoutFrameIdleSend share w s
  | .bindRx => Sys2Proof.Machine.execBindRx s
  | .helloRx => Sys2Proof.Machine.execHelloRx s
  | .fanoutRx => Sys2Proof.Machine.execFanoutRx s
  | .fanoutAckRx => Sys2Proof.Machine.execFanoutAckRx s
  | .shareDoneRx => Sys2Proof.Machine.execShareDoneRx s
  | .cancelRx => Sys2Proof.Machine.execCancelRx s
  | .regReqRx => Sys2Proof.Machine.execRegReqRx s
  | .regRespRx => Sys2Proof.Machine.execRegRespRx s
  | .hankAckTimeout w seq => Sys2Proof.Machine.execHankAckTimeout w seq s
  | .bindKeepalive w => Sys2Proof.Machine.execBindKeepalive w s
  | .workerAbsent w => Sys2Proof.Machine.execWorkerAbsent w s
  | .mgrTimeout => Sys2Proof.Machine.execMgrTimeout s
  | .wtValidWrite port value => Sys2Proof.Machine.execWtValidWrite port value s
  | .mgrUnbind port value => Sys2Proof.Machine.execMgrUnbind port value s
  | .hankBucketRelease => Sys2Proof.Machine.execHankBucketRelease s
  | .stagingIdleClose share n => Sys2Proof.Machine.execStagingIdleClose share n s
  | .stagingResume n ecc => Sys2Proof.Machine.execStagingResume n ecc s
  | .commandExpire share ecc => Sys2Proof.Machine.execCommandExpire share ecc s
  | .applyEvent share => Sys2Proof.Machine.execApplyEvent share s
  | .shareDoneSend share => Sys2Proof.Machine.execShareDoneSend share s
  | .shareDoneRepeat share => Sys2Proof.Machine.execShareDoneRepeat share s
  | .fanoutComplete share => Sys2Proof.Machine.execFanoutComplete share s
  | .replyMissing share => Sys2Proof.Machine.execReplyMissing share s
  | .dirRead port value ecc => Sys2Proof.Machine.execDirRead port value ecc s
  | .dirWrite port value => Sys2Proof.Machine.execDirWrite port value s
  | .distaffBulkGo port value => Sys2Proof.Machine.execDistaffBulkGo port value s
  | .distaffBulkAbort port value => Sys2Proof.Machine.execDistaffBulkAbort port value s
  | .distaffBulkRecord rec => Sys2Proof.Machine.execDistaffBulkRecord rec s
  | .scrubGo port value => Sys2Proof.Machine.execScrubGo port value s
  | .scrubAbort port value ecc => Sys2Proof.Machine.execScrubAbort port value ecc s
  | .scrubDone ecc => Sys2Proof.Machine.execScrubDone ecc s
  | .pageSeal port page value => Sys2Proof.Machine.execPageSeal port page value s
  | .pageArmUnseal port page value => Sys2Proof.Machine.execPageArmUnseal port page value s
  | .pageUnseal port page value => Sys2Proof.Machine.execPageUnseal port page value s
  | .unsealArmExpiry page => Sys2Proof.Machine.execUnsealArmExpiry page s
  | .pageLock port page value => Sys2Proof.Machine.execPageLock port page value s
  | .blockReset port page value => Sys2Proof.Machine.execBlockReset port page value s
  | .errcntClear port page value => Sys2Proof.Machine.execErrcntClear port page value s
  | .sramEccError store addr uncorr hit => Sys2Proof.Machine.execSramEccError store addr uncorr hit s
  | .eccInject port value => Sys2Proof.Machine.execEccInject port value s
  | .thermalSample t0 t1 t2 t3 => Sys2Proof.Machine.execThermalSample t0 t1 t2 t3 s
  | .thermPeakClear port value => Sys2Proof.Machine.execThermPeakClear port value s
  | .busTimeout page offset port read => Sys2Proof.Machine.execBusTimeout page offset port read s
  | .corePllUnlock => Sys2Proof.Machine.execCorePllUnlock s
  | .tallyWordClear port w value => Sys2Proof.Machine.execTallyWordClear port w value s
  | .mirrorForce port value => Sys2Proof.Machine.execMirrorForce port value s
  | .tallyMirrorBoundary busy err => Sys2Proof.Machine.execTallyMirrorBoundary busy err s
  | .imagePass1Done octets => Sys2Proof.Machine.execImagePass1Done octets s
  | .imagePass2Start header => Sys2Proof.Machine.execImagePass2Start header s
  | .imageRecord w0 w1 => Sys2Proof.Machine.execImageRecord w0 w1 s
  | .imageWaitExpiry => Sys2Proof.Machine.execImageWaitExpiry s
  | .imageRetry port value => Sys2Proof.Machine.execImageRetry port value s
  | .imageRelease port value => Sys2Proof.Machine.execImageRelease port value s
  | .pcieLinkTraining => Sys2Proof.Machine.execPcieLinkTraining s
  | .aonSupplyRecover rangeNs straps tdcOk => Sys2Proof.Machine.execAonSupplyRecover rangeNs straps tdcOk s
  | .mergeEnWrite port n value => Sys2Proof.Machine.execMergeEnWrite port n value s

end Sys2Proof.Machine
end

