-- ==== Sys2Proof/Machine/Tick.lean ====
section
/-!
DEFINITION. Machine/Tick.lean: what one AON clock does by itself: time advances (R88, R91, R113, R115), and the counters that
follow time count.
Log entries: DEDUCED 30; DESIGN CHOICE 1, 11, 38, 90 (notes/assumptions).
-/
namespace Sys2Proof.Machine

/-- The part of a slew that falls into one tick (R113), rounded down to 2^-32 ns (DESIGN CHOICE, assumption log, entry 90: the spec
names no rounding). -/
def Chip.slewTick (c : Chip) (eff : Nat) : Chip :=
  let w := c.whorl
  if c.stepState = stSLEWING then
    let d := eff * w.step.slewPpm / 1000000
    let part := if w.step.remain.natAbs ≤ d then w.step.remain else if 0 < w.step.remain then (d : Int) else -(d : Int)
    let w := if part = 0 then w else w.note w.mono (w.mono - w.inc)
    { c with whorl := { w with offset := w.offset + part, step := { w.step with remain := w.step.remain - part } } }
  else c

/-- Monotonic time advances by the effective increment; the watermark follows it outside a hold (R115). -/
def Chip.timeTick (c : Chip) (eff : Nat) : Chip :=
  let w := c.whorl
  let mono := w.mono + eff
  let w := if eff = w.inc then w else w.note mono w.mono
  { c with aon := c.aon + 1,
           whorl := { w with mono := mono, inc := eff, mark := if w.mark ≤ mono ∧ c.stepState ≠ stHOLDING then mono else w.mark } }

/-- A new AON clock: no W1C bit has been set in it yet (R18), and the directory, context and admission commands and the block resets
of the last clock are complete (R275, R301, R376, R414; DESIGN CHOICE, assumption log, entries 11 and 30). -/
def Chip.clockTick (c : Chip) : Chip :=
  (({ c with hwSet := [], resetting := [] }.setFld DISTAFF.DIR_STATUS_BUSY 0).setFld REEL.CTX_STATUS_BUSY 0).admitShow

/-- The wake of general lane `l` from LIGHT completes (R69, R87). -/
def Chip.laneWakeTick (c : Chip) (l : Nat) : Chip :=
  let t := Tab.get 0 c.modes.laneWake l
  if t ≠ 0 ∧ t ≤ c.aon then
    ({ c with modes := { c.modes with laneWake := Tab.put 0 c.modes.laneWake l 0,
                                      laneIdleSince := Tab.put 0 c.modes.laneIdleSince l c.now } }).raise EV.POWER_WAKE_DONE
  else c

/-- One AON clock. Nothing runs in RESET. -/
def Chip.tick (c : Chip) : Chip :=
  if c.mode = mRESET then c
  else
    let eff := c.incEff
    let c := c.clockTick
    let c := ((c.timeTick eff).slewTick eff).marksTick
    let c := ((List.range 11).foldl Chip.laneWakeTick c).distaffTick
    let c := (((c.wdogTick eff).throttleTick eff).bistTick).plyTick eff
    let c := (List.range 4).foldl (fun d n => d.pauseTick n eff) c
    (List.range 96).foldl Chip.cleanEnd c

end Sys2Proof.Machine
end

