-- ==== Sys2Proof/Laws/State.lean ====
section
/-!
SUPPORT. Laws/State.lean: what each update of the block leaves as it was, field by field; every lemma is true by unfolding the
update.
-/
namespace Sys2Proof.Machine

variable (c : Chip)

/-! ### setPort -/

@[simp] theorem Chip.setPort_regs (p : Port) (st : PortState) : (c.setPort p st).regs = c.regs := rfl
@[simp] theorem Chip.setPort_ports (p : Port) (st : PortState) : (c.setPort p st).ports = Tab.put {} c.ports p.code st := rfl
@[simp] theorem Chip.setPort_arms (p : Port) (st : PortState) : (c.setPort p st).arms = c.arms := rfl
@[simp] theorem Chip.setPort_hwSet (p : Port) (st : PortState) : (c.setPort p st).hwSet = c.hwSet := rfl
@[simp] theorem Chip.setPort_ecc (p : Port) (st : PortState) : (c.setPort p st).ecc = c.ecc := rfl
@[simp] theorem Chip.setPort_resetting (p : Port) (st : PortState) : (c.setPort p st).resetting = c.resetting := rfl
@[simp] theorem Chip.setPort_freeCtr (p : Port) (st : PortState) : (c.setPort p st).freeCtr = c.freeCtr := rfl
@[simp] theorem Chip.setPort_modes (p : Port) (st : PortState) : (c.setPort p st).modes = c.modes := rfl
@[simp] theorem Chip.setPort_power (p : Port) (st : PortState) : (c.setPort p st).power = c.power := rfl
@[simp] theorem Chip.setPort_whorl (p : Port) (st : PortState) : (c.setPort p st).whorl = c.whorl := rfl
@[simp] theorem Chip.setPort_image (p : Port) (st : PortState) : (c.setPort p st).image = c.image := rfl
@[simp] theorem Chip.setPort_buffer (p : Port) (st : PortState) : (c.setPort p st).buffer = c.buffer := rfl
@[simp] theorem Chip.setPort_txOps (p : Port) (st : PortState) : (c.setPort p st).txOps = c.txOps := rfl
@[simp] theorem Chip.setPort_reel (p : Port) (st : PortState) : (c.setPort p st).reel = c.reel := rfl
@[simp] theorem Chip.setPort_aon (p : Port) (st : PortState) : (c.setPort p st).aon = c.aon := rfl
@[simp] theorem Chip.setPort_carder (p : Port) (st : PortState) : (c.setPort p st).carder = c.carder := rfl
@[simp] theorem Chip.setPort_hankIn (p : Port) (st : PortState) : (c.setPort p st).hankIn = c.hankIn := rfl
@[simp] theorem Chip.setPort_uplinks (p : Port) (st : PortState) : (c.setPort p st).uplinks = c.uplinks := rfl
@[simp] theorem Chip.setPort_ply (p : Port) (st : PortState) : (c.setPort p st).ply = c.ply := rfl
@[simp] theorem Chip.setPort_hostq (p : Port) (st : PortState) : (c.setPort p st).hostq = c.hostq := rfl
@[simp] theorem Chip.setPort_hank (p : Port) (st : PortState) : (c.setPort p st).hank = c.hank := rfl
@[simp] theorem Chip.setPort_distaff (p : Port) (st : PortState) : (c.setPort p st).distaff = c.distaff := rfl
@[simp] theorem Chip.setPort_fates (p : Port) (st : PortState) : (c.setPort p st).fates = c.fates := rfl
@[simp] theorem Chip.setPort_dram (p : Port) (st : PortState) : (c.setPort p st).dram = c.dram := rfl
@[simp] theorem Chip.setPort_segs (p : Port) (st : PortState) : (c.setPort p st).segs = c.segs := rfl
@[simp] theorem Chip.setPort_segTables (p : Port) (st : PortState) : (c.setPort p st).segTables = c.segTables := rfl
@[simp] theorem Chip.setPort_segBuf (p : Port) (st : PortState) : (c.setPort p st).segBuf = c.segBuf := rfl
@[simp] theorem Chip.setPort_flyers (p : Port) (st : PortState) : (c.setPort p st).flyers = c.flyers := rfl
@[simp] theorem Chip.setPort_flyTables (p : Port) (st : PortState) : (c.setPort p st).flyTables = c.flyTables := rfl
@[simp] theorem Chip.setPort_drift (p : Port) (st : PortState) : (c.setPort p st).drift = c.drift := rfl
@[simp] theorem Chip.setPort_chain (p : Port) (st : PortState) : (c.setPort p st).chain = c.chain := rfl
@[simp] theorem Chip.setPort_mirror (p : Port) (st : PortState) : (c.setPort p st).mirror = c.mirror := rfl
@[simp] theorem Chip.setPort_hostWrites (p : Port) (st : PortState) : (c.setPort p st).hostWrites = c.hostWrites := rfl
@[simp] theorem Chip.setPort_fld (p : Port) (st : PortState) (r : FieldRow) (m i : Nat) : (c.setPort p st).fld r m i = c.fld r m i := rfl
@[simp] theorem Chip.setPort_hdr (p : Port) (st : PortState) (r : HdrRow) (page : Nat) : (c.setPort p st).hdr r page = c.hdr r page := rfl

/-! ### drawn -/

@[simp] theorem Chip.drawn_regs : c.drawn.regs = c.regs := rfl
@[simp] theorem Chip.drawn_ports : c.drawn.ports = c.ports := rfl
@[simp] theorem Chip.drawn_arms : c.drawn.arms = c.arms := rfl
@[simp] theorem Chip.drawn_hwSet : c.drawn.hwSet = c.hwSet := rfl
@[simp] theorem Chip.drawn_ecc : c.drawn.ecc = c.ecc := rfl
@[simp] theorem Chip.drawn_resetting : c.drawn.resetting = c.resetting := rfl
@[simp] theorem Chip.drawn_freeCtr : c.drawn.freeCtr = c.freeCtr + 1 := rfl
@[simp] theorem Chip.drawn_modes : c.drawn.modes = c.modes := rfl
@[simp] theorem Chip.drawn_power : c.drawn.power = c.power := rfl
@[simp] theorem Chip.drawn_whorl : c.drawn.whorl = c.whorl := rfl
@[simp] theorem Chip.drawn_image : c.drawn.image = c.image := rfl
@[simp] theorem Chip.drawn_buffer : c.drawn.buffer = c.buffer := rfl
@[simp] theorem Chip.drawn_txOps : c.drawn.txOps = c.txOps := rfl
@[simp] theorem Chip.drawn_reel : c.drawn.reel = c.reel := rfl
@[simp] theorem Chip.drawn_aon : c.drawn.aon = c.aon := rfl
@[simp] theorem Chip.drawn_carder : c.drawn.carder = c.carder := rfl
@[simp] theorem Chip.drawn_hankIn : c.drawn.hankIn = c.hankIn := rfl
@[simp] theorem Chip.drawn_uplinks : c.drawn.uplinks = c.uplinks := rfl
@[simp] theorem Chip.drawn_ply : c.drawn.ply = c.ply := rfl
@[simp] theorem Chip.drawn_hostq : c.drawn.hostq = c.hostq := rfl
@[simp] theorem Chip.drawn_hank : c.drawn.hank = c.hank := rfl
@[simp] theorem Chip.drawn_distaff : c.drawn.distaff = c.distaff := rfl
@[simp] theorem Chip.drawn_fates : c.drawn.fates = c.fates := rfl
@[simp] theorem Chip.drawn_dram : c.drawn.dram = c.dram := rfl
@[simp] theorem Chip.drawn_segs : c.drawn.segs = c.segs := rfl
@[simp] theorem Chip.drawn_segTables : c.drawn.segTables = c.segTables := rfl
@[simp] theorem Chip.drawn_segBuf : c.drawn.segBuf = c.segBuf := rfl
@[simp] theorem Chip.drawn_flyers : c.drawn.flyers = c.flyers := rfl
@[simp] theorem Chip.drawn_flyTables : c.drawn.flyTables = c.flyTables := rfl
@[simp] theorem Chip.drawn_drift : c.drawn.drift = c.drift := rfl
@[simp] theorem Chip.drawn_chain : c.drawn.chain = c.chain := rfl
@[simp] theorem Chip.drawn_mirror : c.drawn.mirror = c.mirror := rfl
@[simp] theorem Chip.drawn_hostWrites : c.drawn.hostWrites = c.hostWrites := rfl
@[simp] theorem Chip.drawn_fld (r : FieldRow) (m i : Nat) : c.drawn.fld r m i = c.fld r m i := rfl
@[simp] theorem Chip.drawn_hdr (r : HdrRow) (page : Nat) : c.drawn.hdr r page = c.hdr r page := rfl

/-! ### updModes -/

@[simp] theorem Chip.updModes_regs (f : Modes → Modes) : (c.updModes f).regs = c.regs := rfl
@[simp] theorem Chip.updModes_ports (f : Modes → Modes) : (c.updModes f).ports = c.ports := rfl
@[simp] theorem Chip.updModes_arms (f : Modes → Modes) : (c.updModes f).arms = c.arms := rfl
@[simp] theorem Chip.updModes_hwSet (f : Modes → Modes) : (c.updModes f).hwSet = c.hwSet := rfl
@[simp] theorem Chip.updModes_ecc (f : Modes → Modes) : (c.updModes f).ecc = c.ecc := rfl
@[simp] theorem Chip.updModes_resetting (f : Modes → Modes) : (c.updModes f).resetting = c.resetting := rfl
@[simp] theorem Chip.updModes_freeCtr (f : Modes → Modes) : (c.updModes f).freeCtr = c.freeCtr := rfl
@[simp] theorem Chip.updModes_modes (f : Modes → Modes) : (c.updModes f).modes = f c.modes := rfl
@[simp] theorem Chip.updModes_power (f : Modes → Modes) : (c.updModes f).power = c.power := rfl
@[simp] theorem Chip.updModes_whorl (f : Modes → Modes) : (c.updModes f).whorl = c.whorl := rfl
@[simp] theorem Chip.updModes_image (f : Modes → Modes) : (c.updModes f).image = c.image := rfl
@[simp] theorem Chip.updModes_buffer (f : Modes → Modes) : (c.updModes f).buffer = c.buffer := rfl
@[simp] theorem Chip.updModes_txOps (f : Modes → Modes) : (c.updModes f).txOps = c.txOps := rfl
@[simp] theorem Chip.updModes_reel (f : Modes → Modes) : (c.updModes f).reel = c.reel := rfl
@[simp] theorem Chip.updModes_aon (f : Modes → Modes) : (c.updModes f).aon = c.aon := rfl
@[simp] theorem Chip.updModes_carder (f : Modes → Modes) : (c.updModes f).carder = c.carder := rfl
@[simp] theorem Chip.updModes_hankIn (f : Modes → Modes) : (c.updModes f).hankIn = c.hankIn := rfl
@[simp] theorem Chip.updModes_uplinks (f : Modes → Modes) : (c.updModes f).uplinks = c.uplinks := rfl
@[simp] theorem Chip.updModes_ply (f : Modes → Modes) : (c.updModes f).ply = c.ply := rfl
@[simp] theorem Chip.updModes_hostq (f : Modes → Modes) : (c.updModes f).hostq = c.hostq := rfl
@[simp] theorem Chip.updModes_hank (f : Modes → Modes) : (c.updModes f).hank = c.hank := rfl
@[simp] theorem Chip.updModes_distaff (f : Modes → Modes) : (c.updModes f).distaff = c.distaff := rfl
@[simp] theorem Chip.updModes_fates (f : Modes → Modes) : (c.updModes f).fates = c.fates := rfl
@[simp] theorem Chip.updModes_dram (f : Modes → Modes) : (c.updModes f).dram = c.dram := rfl
@[simp] theorem Chip.updModes_segs (f : Modes → Modes) : (c.updModes f).segs = c.segs := rfl
@[simp] theorem Chip.updModes_segTables (f : Modes → Modes) : (c.updModes f).segTables = c.segTables := rfl
@[simp] theorem Chip.updModes_segBuf (f : Modes → Modes) : (c.updModes f).segBuf = c.segBuf := rfl
@[simp] theorem Chip.updModes_flyers (f : Modes → Modes) : (c.updModes f).flyers = c.flyers := rfl
@[simp] theorem Chip.updModes_flyTables (f : Modes → Modes) : (c.updModes f).flyTables = c.flyTables := rfl
@[simp] theorem Chip.updModes_drift (f : Modes → Modes) : (c.updModes f).drift = c.drift := rfl
@[simp] theorem Chip.updModes_chain (f : Modes → Modes) : (c.updModes f).chain = c.chain := rfl
@[simp] theorem Chip.updModes_mirror (f : Modes → Modes) : (c.updModes f).mirror = c.mirror := rfl
@[simp] theorem Chip.updModes_hostWrites (f : Modes → Modes) : (c.updModes f).hostWrites = c.hostWrites := rfl
@[simp] theorem Chip.updModes_fld (f : Modes → Modes) (r : FieldRow) (m i : Nat) : (c.updModes f).fld r m i = c.fld r m i := rfl
@[simp] theorem Chip.updModes_hdr (f : Modes → Modes) (r : HdrRow) (page : Nat) : (c.updModes f).hdr r page = c.hdr r page := rfl

/-! ### updImage -/

@[simp] theorem Chip.updImage_regs (f : Image → Image) : (c.updImage f).regs = c.regs := rfl
@[simp] theorem Chip.updImage_ports (f : Image → Image) : (c.updImage f).ports = c.ports := rfl
@[simp] theorem Chip.updImage_arms (f : Image → Image) : (c.updImage f).arms = c.arms := rfl
@[simp] theorem Chip.updImage_hwSet (f : Image → Image) : (c.updImage f).hwSet = c.hwSet := rfl
@[simp] theorem Chip.updImage_ecc (f : Image → Image) : (c.updImage f).ecc = c.ecc := rfl
@[simp] theorem Chip.updImage_resetting (f : Image → Image) : (c.updImage f).resetting = c.resetting := rfl
@[simp] theorem Chip.updImage_freeCtr (f : Image → Image) : (c.updImage f).freeCtr = c.freeCtr := rfl
@[simp] theorem Chip.updImage_modes (f : Image → Image) : (c.updImage f).modes = c.modes := rfl
@[simp] theorem Chip.updImage_power (f : Image → Image) : (c.updImage f).power = c.power := rfl
@[simp] theorem Chip.updImage_whorl (f : Image → Image) : (c.updImage f).whorl = c.whorl := rfl
@[simp] theorem Chip.updImage_image (f : Image → Image) : (c.updImage f).image = f c.image := rfl
@[simp] theorem Chip.updImage_buffer (f : Image → Image) : (c.updImage f).buffer = c.buffer := rfl
@[simp] theorem Chip.updImage_txOps (f : Image → Image) : (c.updImage f).txOps = c.txOps := rfl
@[simp] theorem Chip.updImage_reel (f : Image → Image) : (c.updImage f).reel = c.reel := rfl
@[simp] theorem Chip.updImage_aon (f : Image → Image) : (c.updImage f).aon = c.aon := rfl
@[simp] theorem Chip.updImage_carder (f : Image → Image) : (c.updImage f).carder = c.carder := rfl
@[simp] theorem Chip.updImage_hankIn (f : Image → Image) : (c.updImage f).hankIn = c.hankIn := rfl
@[simp] theorem Chip.updImage_uplinks (f : Image → Image) : (c.updImage f).uplinks = c.uplinks := rfl
@[simp] theorem Chip.updImage_ply (f : Image → Image) : (c.updImage f).ply = c.ply := rfl
@[simp] theorem Chip.updImage_hostq (f : Image → Image) : (c.updImage f).hostq = c.hostq := rfl
@[simp] theorem Chip.updImage_hank (f : Image → Image) : (c.updImage f).hank = c.hank := rfl
@[simp] theorem Chip.updImage_distaff (f : Image → Image) : (c.updImage f).distaff = c.distaff := rfl
@[simp] theorem Chip.updImage_fates (f : Image → Image) : (c.updImage f).fates = c.fates := rfl
@[simp] theorem Chip.updImage_dram (f : Image → Image) : (c.updImage f).dram = c.dram := rfl
@[simp] theorem Chip.updImage_segs (f : Image → Image) : (c.updImage f).segs = c.segs := rfl
@[simp] theorem Chip.updImage_segTables (f : Image → Image) : (c.updImage f).segTables = c.segTables := rfl
@[simp] theorem Chip.updImage_segBuf (f : Image → Image) : (c.updImage f).segBuf = c.segBuf := rfl
@[simp] theorem Chip.updImage_flyers (f : Image → Image) : (c.updImage f).flyers = c.flyers := rfl
@[simp] theorem Chip.updImage_flyTables (f : Image → Image) : (c.updImage f).flyTables = c.flyTables := rfl
@[simp] theorem Chip.updImage_drift (f : Image → Image) : (c.updImage f).drift = c.drift := rfl
@[simp] theorem Chip.updImage_chain (f : Image → Image) : (c.updImage f).chain = c.chain := rfl
@[simp] theorem Chip.updImage_mirror (f : Image → Image) : (c.updImage f).mirror = c.mirror := rfl
@[simp] theorem Chip.updImage_hostWrites (f : Image → Image) : (c.updImage f).hostWrites = c.hostWrites := rfl
@[simp] theorem Chip.updImage_fld (f : Image → Image) (r : FieldRow) (m i : Nat) : (c.updImage f).fld r m i = c.fld r m i := rfl
@[simp] theorem Chip.updImage_hdr (f : Image → Image) (r : HdrRow) (page : Nat) : (c.updImage f).hdr r page = c.hdr r page := rfl

/-! ### updOp -/

@[simp] theorem Chip.updOp_regs (t : Nat) (f : TxOp → TxOp) : (c.updOp t f).regs = c.regs := rfl
@[simp] theorem Chip.updOp_ports (t : Nat) (f : TxOp → TxOp) : (c.updOp t f).ports = c.ports := rfl
@[simp] theorem Chip.updOp_arms (t : Nat) (f : TxOp → TxOp) : (c.updOp t f).arms = c.arms := rfl
@[simp] theorem Chip.updOp_hwSet (t : Nat) (f : TxOp → TxOp) : (c.updOp t f).hwSet = c.hwSet := rfl
@[simp] theorem Chip.updOp_ecc (t : Nat) (f : TxOp → TxOp) : (c.updOp t f).ecc = c.ecc := rfl
@[simp] theorem Chip.updOp_resetting (t : Nat) (f : TxOp → TxOp) : (c.updOp t f).resetting = c.resetting := rfl
@[simp] theorem Chip.updOp_freeCtr (t : Nat) (f : TxOp → TxOp) : (c.updOp t f).freeCtr = c.freeCtr := rfl
@[simp] theorem Chip.updOp_modes (t : Nat) (f : TxOp → TxOp) : (c.updOp t f).modes = c.modes := rfl
@[simp] theorem Chip.updOp_power (t : Nat) (f : TxOp → TxOp) : (c.updOp t f).power = c.power := rfl
@[simp] theorem Chip.updOp_whorl (t : Nat) (f : TxOp → TxOp) : (c.updOp t f).whorl = c.whorl := rfl
@[simp] theorem Chip.updOp_image (t : Nat) (f : TxOp → TxOp) : (c.updOp t f).image = c.image := rfl
@[simp] theorem Chip.updOp_buffer (t : Nat) (f : TxOp → TxOp) : (c.updOp t f).buffer = c.buffer := rfl
@[simp] theorem Chip.updOp_txOps (t : Nat) (f : TxOp → TxOp) : (c.updOp t f).txOps = Tab.upd {} c.txOps t f := rfl
@[simp] theorem Chip.updOp_reel (t : Nat) (f : TxOp → TxOp) : (c.updOp t f).reel = c.reel := rfl
@[simp] theorem Chip.updOp_aon (t : Nat) (f : TxOp → TxOp) : (c.updOp t f).aon = c.aon := rfl
@[simp] theorem Chip.updOp_carder (t : Nat) (f : TxOp → TxOp) : (c.updOp t f).carder = c.carder := rfl
@[simp] theorem Chip.updOp_hankIn (t : Nat) (f : TxOp → TxOp) : (c.updOp t f).hankIn = c.hankIn := rfl
@[simp] theorem Chip.updOp_uplinks (t : Nat) (f : TxOp → TxOp) : (c.updOp t f).uplinks = c.uplinks := rfl
@[simp] theorem Chip.updOp_ply (t : Nat) (f : TxOp → TxOp) : (c.updOp t f).ply = c.ply := rfl
@[simp] theorem Chip.updOp_hostq (t : Nat) (f : TxOp → TxOp) : (c.updOp t f).hostq = c.hostq := rfl
@[simp] theorem Chip.updOp_hank (t : Nat) (f : TxOp → TxOp) : (c.updOp t f).hank = c.hank := rfl
@[simp] theorem Chip.updOp_distaff (t : Nat) (f : TxOp → TxOp) : (c.updOp t f).distaff = c.distaff := rfl
@[simp] theorem Chip.updOp_fates (t : Nat) (f : TxOp → TxOp) : (c.updOp t f).fates = c.fates := rfl
@[simp] theorem Chip.updOp_dram (t : Nat) (f : TxOp → TxOp) : (c.updOp t f).dram = c.dram := rfl
@[simp] theorem Chip.updOp_segs (t : Nat) (f : TxOp → TxOp) : (c.updOp t f).segs = c.segs := rfl
@[simp] theorem Chip.updOp_segTables (t : Nat) (f : TxOp → TxOp) : (c.updOp t f).segTables = c.segTables := rfl
@[simp] theorem Chip.updOp_segBuf (t : Nat) (f : TxOp → TxOp) : (c.updOp t f).segBuf = c.segBuf := rfl
@[simp] theorem Chip.updOp_flyers (t : Nat) (f : TxOp → TxOp) : (c.updOp t f).flyers = c.flyers := rfl
@[simp] theorem Chip.updOp_flyTables (t : Nat) (f : TxOp → TxOp) : (c.updOp t f).flyTables = c.flyTables := rfl
@[simp] theorem Chip.updOp_drift (t : Nat) (f : TxOp → TxOp) : (c.updOp t f).drift = c.drift := rfl
@[simp] theorem Chip.updOp_chain (t : Nat) (f : TxOp → TxOp) : (c.updOp t f).chain = c.chain := rfl
@[simp] theorem Chip.updOp_mirror (t : Nat) (f : TxOp → TxOp) : (c.updOp t f).mirror = c.mirror := rfl
@[simp] theorem Chip.updOp_hostWrites (t : Nat) (f : TxOp → TxOp) : (c.updOp t f).hostWrites = c.hostWrites := rfl
@[simp] theorem Chip.updOp_fld (t : Nat) (f : TxOp → TxOp) (r : FieldRow) (m i : Nat) : (c.updOp t f).fld r m i = c.fld r m i := rfl
@[simp] theorem Chip.updOp_hdr (t : Nat) (f : TxOp → TxOp) (r : HdrRow) (page : Nat) : (c.updOp t f).hdr r page = c.hdr r page := rfl

/-! ### updCarder -/

@[simp] theorem Chip.updCarder_regs (f : Carder → Carder) : (c.updCarder f).regs = c.regs := rfl
@[simp] theorem Chip.updCarder_ports (f : Carder → Carder) : (c.updCarder f).ports = c.ports := rfl
@[simp] theorem Chip.updCarder_arms (f : Carder → Carder) : (c.updCarder f).arms = c.arms := rfl
@[simp] theorem Chip.updCarder_hwSet (f : Carder → Carder) : (c.updCarder f).hwSet = c.hwSet := rfl
@[simp] theorem Chip.updCarder_ecc (f : Carder → Carder) : (c.updCarder f).ecc = c.ecc := rfl
@[simp] theorem Chip.updCarder_resetting (f : Carder → Carder) : (c.updCarder f).resetting = c.resetting := rfl
@[simp] theorem Chip.updCarder_freeCtr (f : Carder → Carder) : (c.updCarder f).freeCtr = c.freeCtr := rfl
@[simp] theorem Chip.updCarder_modes (f : Carder → Carder) : (c.updCarder f).modes = c.modes := rfl
@[simp] theorem Chip.updCarder_power (f : Carder → Carder) : (c.updCarder f).power = c.power := rfl
@[simp] theorem Chip.updCarder_whorl (f : Carder → Carder) : (c.updCarder f).whorl = c.whorl := rfl
@[simp] theorem Chip.updCarder_image (f : Carder → Carder) : (c.updCarder f).image = c.image := rfl
@[simp] theorem Chip.updCarder_buffer (f : Carder → Carder) : (c.updCarder f).buffer = c.buffer := rfl
@[simp] theorem Chip.updCarder_txOps (f : Carder → Carder) : (c.updCarder f).txOps = c.txOps := rfl
@[simp] theorem Chip.updCarder_reel (f : Carder → Carder) : (c.updCarder f).reel = c.reel := rfl
@[simp] theorem Chip.updCarder_aon (f : Carder → Carder) : (c.updCarder f).aon = c.aon := rfl
@[simp] theorem Chip.updCarder_carder (f : Carder → Carder) : (c.updCarder f).carder = f c.carder := rfl
@[simp] theorem Chip.updCarder_hankIn (f : Carder → Carder) : (c.updCarder f).hankIn = c.hankIn := rfl
@[simp] theorem Chip.updCarder_uplinks (f : Carder → Carder) : (c.updCarder f).uplinks = c.uplinks := rfl
@[simp] theorem Chip.updCarder_ply (f : Carder → Carder) : (c.updCarder f).ply = c.ply := rfl
@[simp] theorem Chip.updCarder_hostq (f : Carder → Carder) : (c.updCarder f).hostq = c.hostq := rfl
@[simp] theorem Chip.updCarder_hank (f : Carder → Carder) : (c.updCarder f).hank = c.hank := rfl
@[simp] theorem Chip.updCarder_distaff (f : Carder → Carder) : (c.updCarder f).distaff = c.distaff := rfl
@[simp] theorem Chip.updCarder_fates (f : Carder → Carder) : (c.updCarder f).fates = c.fates := rfl
@[simp] theorem Chip.updCarder_dram (f : Carder → Carder) : (c.updCarder f).dram = c.dram := rfl
@[simp] theorem Chip.updCarder_segs (f : Carder → Carder) : (c.updCarder f).segs = c.segs := rfl
@[simp] theorem Chip.updCarder_segTables (f : Carder → Carder) : (c.updCarder f).segTables = c.segTables := rfl
@[simp] theorem Chip.updCarder_segBuf (f : Carder → Carder) : (c.updCarder f).segBuf = c.segBuf := rfl
@[simp] theorem Chip.updCarder_flyers (f : Carder → Carder) : (c.updCarder f).flyers = c.flyers := rfl
@[simp] theorem Chip.updCarder_flyTables (f : Carder → Carder) : (c.updCarder f).flyTables = c.flyTables := rfl
@[simp] theorem Chip.updCarder_drift (f : Carder → Carder) : (c.updCarder f).drift = c.drift := rfl
@[simp] theorem Chip.updCarder_chain (f : Carder → Carder) : (c.updCarder f).chain = c.chain := rfl
@[simp] theorem Chip.updCarder_mirror (f : Carder → Carder) : (c.updCarder f).mirror = c.mirror := rfl
@[simp] theorem Chip.updCarder_hostWrites (f : Carder → Carder) : (c.updCarder f).hostWrites = c.hostWrites := rfl
@[simp] theorem Chip.updCarder_fld (f : Carder → Carder) (r : FieldRow) (m i : Nat) : (c.updCarder f).fld r m i = c.fld r m i := rfl
@[simp] theorem Chip.updCarder_hdr (f : Carder → Carder) (r : HdrRow) (page : Nat) : (c.updCarder f).hdr r page = c.hdr r page := rfl

/-! ### setUpl -/

@[simp] theorem Chip.setUpl_regs (n : Nat) (u : Uplink) : (c.setUpl n u).regs = c.regs := rfl
@[simp] theorem Chip.setUpl_ports (n : Nat) (u : Uplink) : (c.setUpl n u).ports = c.ports := rfl
@[simp] theorem Chip.setUpl_arms (n : Nat) (u : Uplink) : (c.setUpl n u).arms = c.arms := rfl
@[simp] theorem Chip.setUpl_hwSet (n : Nat) (u : Uplink) : (c.setUpl n u).hwSet = c.hwSet := rfl
@[simp] theorem Chip.setUpl_ecc (n : Nat) (u : Uplink) : (c.setUpl n u).ecc = c.ecc := rfl
@[simp] theorem Chip.setUpl_resetting (n : Nat) (u : Uplink) : (c.setUpl n u).resetting = c.resetting := rfl
@[simp] theorem Chip.setUpl_freeCtr (n : Nat) (u : Uplink) : (c.setUpl n u).freeCtr = c.freeCtr := rfl
@[simp] theorem Chip.setUpl_modes (n : Nat) (u : Uplink) : (c.setUpl n u).modes = c.modes := rfl
@[simp] theorem Chip.setUpl_power (n : Nat) (u : Uplink) : (c.setUpl n u).power = c.power := rfl
@[simp] theorem Chip.setUpl_whorl (n : Nat) (u : Uplink) : (c.setUpl n u).whorl = c.whorl := rfl
@[simp] theorem Chip.setUpl_image (n : Nat) (u : Uplink) : (c.setUpl n u).image = c.image := rfl
@[simp] theorem Chip.setUpl_buffer (n : Nat) (u : Uplink) : (c.setUpl n u).buffer = c.buffer := rfl
@[simp] theorem Chip.setUpl_txOps (n : Nat) (u : Uplink) : (c.setUpl n u).txOps = c.txOps := rfl
@[simp] theorem Chip.setUpl_reel (n : Nat) (u : Uplink) : (c.setUpl n u).reel = c.reel := rfl
@[simp] theorem Chip.setUpl_aon (n : Nat) (u : Uplink) : (c.setUpl n u).aon = c.aon := rfl
@[simp] theorem Chip.setUpl_carder (n : Nat) (u : Uplink) : (c.setUpl n u).carder = c.carder := rfl
@[simp] theorem Chip.setUpl_hankIn (n : Nat) (u : Uplink) : (c.setUpl n u).hankIn = c.hankIn := rfl
@[simp] theorem Chip.setUpl_uplinks (n : Nat) (u : Uplink) : (c.setUpl n u).uplinks = Tab.put {} c.uplinks n u := rfl
@[simp] theorem Chip.setUpl_ply (n : Nat) (u : Uplink) : (c.setUpl n u).ply = c.ply := rfl
@[simp] theorem Chip.setUpl_hostq (n : Nat) (u : Uplink) : (c.setUpl n u).hostq = c.hostq := rfl
@[simp] theorem Chip.setUpl_hank (n : Nat) (u : Uplink) : (c.setUpl n u).hank = c.hank := rfl
@[simp] theorem Chip.setUpl_distaff (n : Nat) (u : Uplink) : (c.setUpl n u).distaff = c.distaff := rfl
@[simp] theorem Chip.setUpl_fates (n : Nat) (u : Uplink) : (c.setUpl n u).fates = c.fates := rfl
@[simp] theorem Chip.setUpl_dram (n : Nat) (u : Uplink) : (c.setUpl n u).dram = c.dram := rfl
@[simp] theorem Chip.setUpl_segs (n : Nat) (u : Uplink) : (c.setUpl n u).segs = c.segs := rfl
@[simp] theorem Chip.setUpl_segTables (n : Nat) (u : Uplink) : (c.setUpl n u).segTables = c.segTables := rfl
@[simp] theorem Chip.setUpl_segBuf (n : Nat) (u : Uplink) : (c.setUpl n u).segBuf = c.segBuf := rfl
@[simp] theorem Chip.setUpl_flyers (n : Nat) (u : Uplink) : (c.setUpl n u).flyers = c.flyers := rfl
@[simp] theorem Chip.setUpl_flyTables (n : Nat) (u : Uplink) : (c.setUpl n u).flyTables = c.flyTables := rfl
@[simp] theorem Chip.setUpl_drift (n : Nat) (u : Uplink) : (c.setUpl n u).drift = c.drift := rfl
@[simp] theorem Chip.setUpl_chain (n : Nat) (u : Uplink) : (c.setUpl n u).chain = c.chain := rfl
@[simp] theorem Chip.setUpl_mirror (n : Nat) (u : Uplink) : (c.setUpl n u).mirror = c.mirror := rfl
@[simp] theorem Chip.setUpl_hostWrites (n : Nat) (u : Uplink) : (c.setUpl n u).hostWrites = c.hostWrites := rfl
@[simp] theorem Chip.setUpl_fld (n : Nat) (u : Uplink) (r : FieldRow) (m i : Nat) : (c.setUpl n u).fld r m i = c.fld r m i := rfl
@[simp] theorem Chip.setUpl_hdr (n : Nat) (u : Uplink) (r : HdrRow) (page : Nat) : (c.setUpl n u).hdr r page = c.hdr r page := rfl

/-! ### updHostq -/

@[simp] theorem Chip.updHostq_regs (f : HostQ → HostQ) : (c.updHostq f).regs = c.regs := rfl
@[simp] theorem Chip.updHostq_ports (f : HostQ → HostQ) : (c.updHostq f).ports = c.ports := rfl
@[simp] theorem Chip.updHostq_arms (f : HostQ → HostQ) : (c.updHostq f).arms = c.arms := rfl
@[simp] theorem Chip.updHostq_hwSet (f : HostQ → HostQ) : (c.updHostq f).hwSet = c.hwSet := rfl
@[simp] theorem Chip.updHostq_ecc (f : HostQ → HostQ) : (c.updHostq f).ecc = c.ecc := rfl
@[simp] theorem Chip.updHostq_resetting (f : HostQ → HostQ) : (c.updHostq f).resetting = c.resetting := rfl
@[simp] theorem Chip.updHostq_freeCtr (f : HostQ → HostQ) : (c.updHostq f).freeCtr = c.freeCtr := rfl
@[simp] theorem Chip.updHostq_modes (f : HostQ → HostQ) : (c.updHostq f).modes = c.modes := rfl
@[simp] theorem Chip.updHostq_power (f : HostQ → HostQ) : (c.updHostq f).power = c.power := rfl
@[simp] theorem Chip.updHostq_whorl (f : HostQ → HostQ) : (c.updHostq f).whorl = c.whorl := rfl
@[simp] theorem Chip.updHostq_image (f : HostQ → HostQ) : (c.updHostq f).image = c.image := rfl
@[simp] theorem Chip.updHostq_buffer (f : HostQ → HostQ) : (c.updHostq f).buffer = c.buffer := rfl
@[simp] theorem Chip.updHostq_txOps (f : HostQ → HostQ) : (c.updHostq f).txOps = c.txOps := rfl
@[simp] theorem Chip.updHostq_reel (f : HostQ → HostQ) : (c.updHostq f).reel = c.reel := rfl
@[simp] theorem Chip.updHostq_aon (f : HostQ → HostQ) : (c.updHostq f).aon = c.aon := rfl
@[simp] theorem Chip.updHostq_carder (f : HostQ → HostQ) : (c.updHostq f).carder = c.carder := rfl
@[simp] theorem Chip.updHostq_hankIn (f : HostQ → HostQ) : (c.updHostq f).hankIn = c.hankIn := rfl
@[simp] theorem Chip.updHostq_uplinks (f : HostQ → HostQ) : (c.updHostq f).uplinks = c.uplinks := rfl
@[simp] theorem Chip.updHostq_ply (f : HostQ → HostQ) : (c.updHostq f).ply = c.ply := rfl
@[simp] theorem Chip.updHostq_hostq (f : HostQ → HostQ) : (c.updHostq f).hostq = f c.hostq := rfl
@[simp] theorem Chip.updHostq_hank (f : HostQ → HostQ) : (c.updHostq f).hank = c.hank := rfl
@[simp] theorem Chip.updHostq_distaff (f : HostQ → HostQ) : (c.updHostq f).distaff = c.distaff := rfl
@[simp] theorem Chip.updHostq_fates (f : HostQ → HostQ) : (c.updHostq f).fates = c.fates := rfl
@[simp] theorem Chip.updHostq_dram (f : HostQ → HostQ) : (c.updHostq f).dram = c.dram := rfl
@[simp] theorem Chip.updHostq_segs (f : HostQ → HostQ) : (c.updHostq f).segs = c.segs := rfl
@[simp] theorem Chip.updHostq_segTables (f : HostQ → HostQ) : (c.updHostq f).segTables = c.segTables := rfl
@[simp] theorem Chip.updHostq_segBuf (f : HostQ → HostQ) : (c.updHostq f).segBuf = c.segBuf := rfl
@[simp] theorem Chip.updHostq_flyers (f : HostQ → HostQ) : (c.updHostq f).flyers = c.flyers := rfl
@[simp] theorem Chip.updHostq_flyTables (f : HostQ → HostQ) : (c.updHostq f).flyTables = c.flyTables := rfl
@[simp] theorem Chip.updHostq_drift (f : HostQ → HostQ) : (c.updHostq f).drift = c.drift := rfl
@[simp] theorem Chip.updHostq_chain (f : HostQ → HostQ) : (c.updHostq f).chain = c.chain := rfl
@[simp] theorem Chip.updHostq_mirror (f : HostQ → HostQ) : (c.updHostq f).mirror = c.mirror := rfl
@[simp] theorem Chip.updHostq_hostWrites (f : HostQ → HostQ) : (c.updHostq f).hostWrites = c.hostWrites := rfl
@[simp] theorem Chip.updHostq_fld (f : HostQ → HostQ) (r : FieldRow) (m i : Nat) : (c.updHostq f).fld r m i = c.fld r m i := rfl
@[simp] theorem Chip.updHostq_hdr (f : HostQ → HostQ) (r : HdrRow) (page : Nat) : (c.updHostq f).hdr r page = c.hdr r page := rfl

/-! ### updHank -/

@[simp] theorem Chip.updHank_regs (f : Hank → Hank) : (c.updHank f).regs = c.regs := rfl
@[simp] theorem Chip.updHank_ports (f : Hank → Hank) : (c.updHank f).ports = c.ports := rfl
@[simp] theorem Chip.updHank_arms (f : Hank → Hank) : (c.updHank f).arms = c.arms := rfl
@[simp] theorem Chip.updHank_hwSet (f : Hank → Hank) : (c.updHank f).hwSet = c.hwSet := rfl
@[simp] theorem Chip.updHank_ecc (f : Hank → Hank) : (c.updHank f).ecc = c.ecc := rfl
@[simp] theorem Chip.updHank_resetting (f : Hank → Hank) : (c.updHank f).resetting = c.resetting := rfl
@[simp] theorem Chip.updHank_freeCtr (f : Hank → Hank) : (c.updHank f).freeCtr = c.freeCtr := rfl
@[simp] theorem Chip.updHank_modes (f : Hank → Hank) : (c.updHank f).modes = c.modes := rfl
@[simp] theorem Chip.updHank_power (f : Hank → Hank) : (c.updHank f).power = c.power := rfl
@[simp] theorem Chip.updHank_whorl (f : Hank → Hank) : (c.updHank f).whorl = c.whorl := rfl
@[simp] theorem Chip.updHank_image (f : Hank → Hank) : (c.updHank f).image = c.image := rfl
@[simp] theorem Chip.updHank_buffer (f : Hank → Hank) : (c.updHank f).buffer = c.buffer := rfl
@[simp] theorem Chip.updHank_txOps (f : Hank → Hank) : (c.updHank f).txOps = c.txOps := rfl
@[simp] theorem Chip.updHank_reel (f : Hank → Hank) : (c.updHank f).reel = c.reel := rfl
@[simp] theorem Chip.updHank_aon (f : Hank → Hank) : (c.updHank f).aon = c.aon := rfl
@[simp] theorem Chip.updHank_carder (f : Hank → Hank) : (c.updHank f).carder = c.carder := rfl
@[simp] theorem Chip.updHank_hankIn (f : Hank → Hank) : (c.updHank f).hankIn = c.hankIn := rfl
@[simp] theorem Chip.updHank_uplinks (f : Hank → Hank) : (c.updHank f).uplinks = c.uplinks := rfl
@[simp] theorem Chip.updHank_ply (f : Hank → Hank) : (c.updHank f).ply = c.ply := rfl
@[simp] theorem Chip.updHank_hostq (f : Hank → Hank) : (c.updHank f).hostq = c.hostq := rfl
@[simp] theorem Chip.updHank_hank (f : Hank → Hank) : (c.updHank f).hank = f c.hank := rfl
@[simp] theorem Chip.updHank_distaff (f : Hank → Hank) : (c.updHank f).distaff = c.distaff := rfl
@[simp] theorem Chip.updHank_fates (f : Hank → Hank) : (c.updHank f).fates = c.fates := rfl
@[simp] theorem Chip.updHank_dram (f : Hank → Hank) : (c.updHank f).dram = c.dram := rfl
@[simp] theorem Chip.updHank_segs (f : Hank → Hank) : (c.updHank f).segs = c.segs := rfl
@[simp] theorem Chip.updHank_segTables (f : Hank → Hank) : (c.updHank f).segTables = c.segTables := rfl
@[simp] theorem Chip.updHank_segBuf (f : Hank → Hank) : (c.updHank f).segBuf = c.segBuf := rfl
@[simp] theorem Chip.updHank_flyers (f : Hank → Hank) : (c.updHank f).flyers = c.flyers := rfl
@[simp] theorem Chip.updHank_flyTables (f : Hank → Hank) : (c.updHank f).flyTables = c.flyTables := rfl
@[simp] theorem Chip.updHank_drift (f : Hank → Hank) : (c.updHank f).drift = c.drift := rfl
@[simp] theorem Chip.updHank_chain (f : Hank → Hank) : (c.updHank f).chain = c.chain := rfl
@[simp] theorem Chip.updHank_mirror (f : Hank → Hank) : (c.updHank f).mirror = c.mirror := rfl
@[simp] theorem Chip.updHank_hostWrites (f : Hank → Hank) : (c.updHank f).hostWrites = c.hostWrites := rfl
@[simp] theorem Chip.updHank_fld (f : Hank → Hank) (r : FieldRow) (m i : Nat) : (c.updHank f).fld r m i = c.fld r m i := rfl
@[simp] theorem Chip.updHank_hdr (f : Hank → Hank) (r : HdrRow) (page : Nat) : (c.updHank f).hdr r page = c.hdr r page := rfl

/-! ### updDistaff -/

@[simp] theorem Chip.updDistaff_regs (f : Distaff → Distaff) : (c.updDistaff f).regs = c.regs := rfl
@[simp] theorem Chip.updDistaff_ports (f : Distaff → Distaff) : (c.updDistaff f).ports = c.ports := rfl
@[simp] theorem Chip.updDistaff_arms (f : Distaff → Distaff) : (c.updDistaff f).arms = c.arms := rfl
@[simp] theorem Chip.updDistaff_hwSet (f : Distaff → Distaff) : (c.updDistaff f).hwSet = c.hwSet := rfl
@[simp] theorem Chip.updDistaff_ecc (f : Distaff → Distaff) : (c.updDistaff f).ecc = c.ecc := rfl
@[simp] theorem Chip.updDistaff_resetting (f : Distaff → Distaff) : (c.updDistaff f).resetting = c.resetting := rfl
@[simp] theorem Chip.updDistaff_freeCtr (f : Distaff → Distaff) : (c.updDistaff f).freeCtr = c.freeCtr := rfl
@[simp] theorem Chip.updDistaff_modes (f : Distaff → Distaff) : (c.updDistaff f).modes = c.modes := rfl
@[simp] theorem Chip.updDistaff_power (f : Distaff → Distaff) : (c.updDistaff f).power = c.power := rfl
@[simp] theorem Chip.updDistaff_whorl (f : Distaff → Distaff) : (c.updDistaff f).whorl = c.whorl := rfl
@[simp] theorem Chip.updDistaff_image (f : Distaff → Distaff) : (c.updDistaff f).image = c.image := rfl
@[simp] theorem Chip.updDistaff_buffer (f : Distaff → Distaff) : (c.updDistaff f).buffer = c.buffer := rfl
@[simp] theorem Chip.updDistaff_txOps (f : Distaff → Distaff) : (c.updDistaff f).txOps = c.txOps := rfl
@[simp] theorem Chip.updDistaff_reel (f : Distaff → Distaff) : (c.updDistaff f).reel = c.reel := rfl
@[simp] theorem Chip.updDistaff_aon (f : Distaff → Distaff) : (c.updDistaff f).aon = c.aon := rfl
@[simp] theorem Chip.updDistaff_carder (f : Distaff → Distaff) : (c.updDistaff f).carder = c.carder := rfl
@[simp] theorem Chip.updDistaff_hankIn (f : Distaff → Distaff) : (c.updDistaff f).hankIn = c.hankIn := rfl
@[simp] theorem Chip.updDistaff_uplinks (f : Distaff → Distaff) : (c.updDistaff f).uplinks = c.uplinks := rfl
@[simp] theorem Chip.updDistaff_ply (f : Distaff → Distaff) : (c.updDistaff f).ply = c.ply := rfl
@[simp] theorem Chip.updDistaff_hostq (f : Distaff → Distaff) : (c.updDistaff f).hostq = c.hostq := rfl
@[simp] theorem Chip.updDistaff_hank (f : Distaff → Distaff) : (c.updDistaff f).hank = c.hank := rfl
@[simp] theorem Chip.updDistaff_distaff (f : Distaff → Distaff) : (c.updDistaff f).distaff = f c.distaff := rfl
@[simp] theorem Chip.updDistaff_fates (f : Distaff → Distaff) : (c.updDistaff f).fates = c.fates := rfl
@[simp] theorem Chip.updDistaff_dram (f : Distaff → Distaff) : (c.updDistaff f).dram = c.dram := rfl
@[simp] theorem Chip.updDistaff_segs (f : Distaff → Distaff) : (c.updDistaff f).segs = c.segs := rfl
@[simp] theorem Chip.updDistaff_segTables (f : Distaff → Distaff) : (c.updDistaff f).segTables = c.segTables := rfl
@[simp] theorem Chip.updDistaff_segBuf (f : Distaff → Distaff) : (c.updDistaff f).segBuf = c.segBuf := rfl
@[simp] theorem Chip.updDistaff_flyers (f : Distaff → Distaff) : (c.updDistaff f).flyers = c.flyers := rfl
@[simp] theorem Chip.updDistaff_flyTables (f : Distaff → Distaff) : (c.updDistaff f).flyTables = c.flyTables := rfl
@[simp] theorem Chip.updDistaff_drift (f : Distaff → Distaff) : (c.updDistaff f).drift = c.drift := rfl
@[simp] theorem Chip.updDistaff_chain (f : Distaff → Distaff) : (c.updDistaff f).chain = c.chain := rfl
@[simp] theorem Chip.updDistaff_mirror (f : Distaff → Distaff) : (c.updDistaff f).mirror = c.mirror := rfl
@[simp] theorem Chip.updDistaff_hostWrites (f : Distaff → Distaff) : (c.updDistaff f).hostWrites = c.hostWrites := rfl
@[simp] theorem Chip.updDistaff_fld (f : Distaff → Distaff) (r : FieldRow) (m i : Nat) : (c.updDistaff f).fld r m i = c.fld r m i := rfl
@[simp] theorem Chip.updDistaff_hdr (f : Distaff → Distaff) (r : HdrRow) (page : Nat) : (c.updDistaff f).hdr r page = c.hdr r page := rfl

/-! ### setEng -/

@[simp] theorem Chip.setEng_regs (n : Nat) (e : SegEng) : (c.setEng n e).regs = c.regs := rfl
@[simp] theorem Chip.setEng_ports (n : Nat) (e : SegEng) : (c.setEng n e).ports = c.ports := rfl
@[simp] theorem Chip.setEng_arms (n : Nat) (e : SegEng) : (c.setEng n e).arms = c.arms := rfl
@[simp] theorem Chip.setEng_hwSet (n : Nat) (e : SegEng) : (c.setEng n e).hwSet = c.hwSet := rfl
@[simp] theorem Chip.setEng_ecc (n : Nat) (e : SegEng) : (c.setEng n e).ecc = c.ecc := rfl
@[simp] theorem Chip.setEng_resetting (n : Nat) (e : SegEng) : (c.setEng n e).resetting = c.resetting := rfl
@[simp] theorem Chip.setEng_freeCtr (n : Nat) (e : SegEng) : (c.setEng n e).freeCtr = c.freeCtr := rfl
@[simp] theorem Chip.setEng_modes (n : Nat) (e : SegEng) : (c.setEng n e).modes = c.modes := rfl
@[simp] theorem Chip.setEng_power (n : Nat) (e : SegEng) : (c.setEng n e).power = c.power := rfl
@[simp] theorem Chip.setEng_whorl (n : Nat) (e : SegEng) : (c.setEng n e).whorl = c.whorl := rfl
@[simp] theorem Chip.setEng_image (n : Nat) (e : SegEng) : (c.setEng n e).image = c.image := rfl
@[simp] theorem Chip.setEng_buffer (n : Nat) (e : SegEng) : (c.setEng n e).buffer = c.buffer := rfl
@[simp] theorem Chip.setEng_txOps (n : Nat) (e : SegEng) : (c.setEng n e).txOps = c.txOps := rfl
@[simp] theorem Chip.setEng_reel (n : Nat) (e : SegEng) : (c.setEng n e).reel = c.reel := rfl
@[simp] theorem Chip.setEng_aon (n : Nat) (e : SegEng) : (c.setEng n e).aon = c.aon := rfl
@[simp] theorem Chip.setEng_carder (n : Nat) (e : SegEng) : (c.setEng n e).carder = c.carder := rfl
@[simp] theorem Chip.setEng_hankIn (n : Nat) (e : SegEng) : (c.setEng n e).hankIn = c.hankIn := rfl
@[simp] theorem Chip.setEng_uplinks (n : Nat) (e : SegEng) : (c.setEng n e).uplinks = c.uplinks := rfl
@[simp] theorem Chip.setEng_ply (n : Nat) (e : SegEng) : (c.setEng n e).ply = c.ply := rfl
@[simp] theorem Chip.setEng_hostq (n : Nat) (e : SegEng) : (c.setEng n e).hostq = c.hostq := rfl
@[simp] theorem Chip.setEng_hank (n : Nat) (e : SegEng) : (c.setEng n e).hank = c.hank := rfl
@[simp] theorem Chip.setEng_distaff (n : Nat) (e : SegEng) : (c.setEng n e).distaff = c.distaff := rfl
@[simp] theorem Chip.setEng_fates (n : Nat) (e : SegEng) : (c.setEng n e).fates = c.fates := rfl
@[simp] theorem Chip.setEng_dram (n : Nat) (e : SegEng) : (c.setEng n e).dram = c.dram := rfl
@[simp] theorem Chip.setEng_segs (n : Nat) (e : SegEng) : (c.setEng n e).segs = Tab.put {} c.segs n e := rfl
@[simp] theorem Chip.setEng_segTables (n : Nat) (e : SegEng) : (c.setEng n e).segTables = c.segTables := rfl
@[simp] theorem Chip.setEng_segBuf (n : Nat) (e : SegEng) : (c.setEng n e).segBuf = c.segBuf := rfl
@[simp] theorem Chip.setEng_flyers (n : Nat) (e : SegEng) : (c.setEng n e).flyers = c.flyers := rfl
@[simp] theorem Chip.setEng_flyTables (n : Nat) (e : SegEng) : (c.setEng n e).flyTables = c.flyTables := rfl
@[simp] theorem Chip.setEng_drift (n : Nat) (e : SegEng) : (c.setEng n e).drift = c.drift := rfl
@[simp] theorem Chip.setEng_chain (n : Nat) (e : SegEng) : (c.setEng n e).chain = c.chain := rfl
@[simp] theorem Chip.setEng_mirror (n : Nat) (e : SegEng) : (c.setEng n e).mirror = c.mirror := rfl
@[simp] theorem Chip.setEng_hostWrites (n : Nat) (e : SegEng) : (c.setEng n e).hostWrites = c.hostWrites := rfl
@[simp] theorem Chip.setEng_fld (n : Nat) (e : SegEng) (r : FieldRow) (m i : Nat) : (c.setEng n e).fld r m i = c.fld r m i := rfl
@[simp] theorem Chip.setEng_hdr (n : Nat) (e : SegEng) (r : HdrRow) (page : Nat) : (c.setEng n e).hdr r page = c.hdr r page := rfl

/-! ### setTurnW -/

@[simp] theorem Chip.setTurnW_regs (n which t w v : Nat) : (c.setTurnW n which t w v).regs = c.regs := rfl
@[simp] theorem Chip.setTurnW_ports (n which t w v : Nat) : (c.setTurnW n which t w v).ports = c.ports := rfl
@[simp] theorem Chip.setTurnW_arms (n which t w v : Nat) : (c.setTurnW n which t w v).arms = c.arms := rfl
@[simp] theorem Chip.setTurnW_hwSet (n which t w v : Nat) : (c.setTurnW n which t w v).hwSet = c.hwSet := rfl
@[simp] theorem Chip.setTurnW_ecc (n which t w v : Nat) : (c.setTurnW n which t w v).ecc = c.ecc := rfl
@[simp] theorem Chip.setTurnW_resetting (n which t w v : Nat) : (c.setTurnW n which t w v).resetting = c.resetting := rfl
@[simp] theorem Chip.setTurnW_freeCtr (n which t w v : Nat) : (c.setTurnW n which t w v).freeCtr = c.freeCtr := rfl
@[simp] theorem Chip.setTurnW_modes (n which t w v : Nat) : (c.setTurnW n which t w v).modes = c.modes := rfl
@[simp] theorem Chip.setTurnW_power (n which t w v : Nat) : (c.setTurnW n which t w v).power = c.power := rfl
@[simp] theorem Chip.setTurnW_whorl (n which t w v : Nat) : (c.setTurnW n which t w v).whorl = c.whorl := rfl
@[simp] theorem Chip.setTurnW_image (n which t w v : Nat) : (c.setTurnW n which t w v).image = c.image := rfl
@[simp] theorem Chip.setTurnW_buffer (n which t w v : Nat) : (c.setTurnW n which t w v).buffer = c.buffer := rfl
@[simp] theorem Chip.setTurnW_txOps (n which t w v : Nat) : (c.setTurnW n which t w v).txOps = c.txOps := rfl
@[simp] theorem Chip.setTurnW_reel (n which t w v : Nat) : (c.setTurnW n which t w v).reel = c.reel := rfl
@[simp] theorem Chip.setTurnW_aon (n which t w v : Nat) : (c.setTurnW n which t w v).aon = c.aon := rfl
@[simp] theorem Chip.setTurnW_carder (n which t w v : Nat) : (c.setTurnW n which t w v).carder = c.carder := rfl
@[simp] theorem Chip.setTurnW_hankIn (n which t w v : Nat) : (c.setTurnW n which t w v).hankIn = c.hankIn := rfl
@[simp] theorem Chip.setTurnW_uplinks (n which t w v : Nat) : (c.setTurnW n which t w v).uplinks = c.uplinks := rfl
@[simp] theorem Chip.setTurnW_ply (n which t w v : Nat) : (c.setTurnW n which t w v).ply = c.ply := rfl
@[simp] theorem Chip.setTurnW_hostq (n which t w v : Nat) : (c.setTurnW n which t w v).hostq = c.hostq := rfl
@[simp] theorem Chip.setTurnW_hank (n which t w v : Nat) : (c.setTurnW n which t w v).hank = c.hank := rfl
@[simp] theorem Chip.setTurnW_distaff (n which t w v : Nat) : (c.setTurnW n which t w v).distaff = c.distaff := rfl
@[simp] theorem Chip.setTurnW_fates (n which t w v : Nat) : (c.setTurnW n which t w v).fates = c.fates := rfl
@[simp] theorem Chip.setTurnW_dram (n which t w v : Nat) : (c.setTurnW n which t w v).dram = c.dram := rfl
@[simp] theorem Chip.setTurnW_segs (n which t w v : Nat) : (c.setTurnW n which t w v).segs = c.segs := rfl
@[simp] theorem Chip.setTurnW_segTables (n which t w v : Nat) : (c.setTurnW n which t w v).segTables = Tab.put (turnDefault t w) c.segTables (turnKey n which t w) v := rfl
@[simp] theorem Chip.setTurnW_segBuf (n which t w v : Nat) : (c.setTurnW n which t w v).segBuf = c.segBuf := rfl
@[simp] theorem Chip.setTurnW_flyers (n which t w v : Nat) : (c.setTurnW n which t w v).flyers = c.flyers := rfl
@[simp] theorem Chip.setTurnW_flyTables (n which t w v : Nat) : (c.setTurnW n which t w v).flyTables = c.flyTables := rfl
@[simp] theorem Chip.setTurnW_drift (n which t w v : Nat) : (c.setTurnW n which t w v).drift = c.drift := rfl
@[simp] theorem Chip.setTurnW_chain (n which t w v : Nat) : (c.setTurnW n which t w v).chain = c.chain := rfl
@[simp] theorem Chip.setTurnW_mirror (n which t w v : Nat) : (c.setTurnW n which t w v).mirror = c.mirror := rfl
@[simp] theorem Chip.setTurnW_hostWrites (n which t w v : Nat) : (c.setTurnW n which t w v).hostWrites = c.hostWrites := rfl
@[simp] theorem Chip.setTurnW_fld (n which t w v : Nat) (r : FieldRow) (m i : Nat) : (c.setTurnW n which t w v).fld r m i = c.fld r m i := rfl
@[simp] theorem Chip.setTurnW_hdr (n which t w v : Nat) (r : HdrRow) (page : Nat) : (c.setTurnW n which t w v).hdr r page = c.hdr r page := rfl

/-! ### putBuf -/

@[simp] theorem Chip.putBuf_regs (n a : Nat) (l : List Byte) : (c.putBuf n a l).regs = c.regs := rfl
@[simp] theorem Chip.putBuf_ports (n a : Nat) (l : List Byte) : (c.putBuf n a l).ports = c.ports := rfl
@[simp] theorem Chip.putBuf_arms (n a : Nat) (l : List Byte) : (c.putBuf n a l).arms = c.arms := rfl
@[simp] theorem Chip.putBuf_hwSet (n a : Nat) (l : List Byte) : (c.putBuf n a l).hwSet = c.hwSet := rfl
@[simp] theorem Chip.putBuf_ecc (n a : Nat) (l : List Byte) : (c.putBuf n a l).ecc = c.ecc := rfl
@[simp] theorem Chip.putBuf_resetting (n a : Nat) (l : List Byte) : (c.putBuf n a l).resetting = c.resetting := rfl
@[simp] theorem Chip.putBuf_freeCtr (n a : Nat) (l : List Byte) : (c.putBuf n a l).freeCtr = c.freeCtr := rfl
@[simp] theorem Chip.putBuf_modes (n a : Nat) (l : List Byte) : (c.putBuf n a l).modes = c.modes := rfl
@[simp] theorem Chip.putBuf_power (n a : Nat) (l : List Byte) : (c.putBuf n a l).power = c.power := rfl
@[simp] theorem Chip.putBuf_whorl (n a : Nat) (l : List Byte) : (c.putBuf n a l).whorl = c.whorl := rfl
@[simp] theorem Chip.putBuf_image (n a : Nat) (l : List Byte) : (c.putBuf n a l).image = c.image := rfl
@[simp] theorem Chip.putBuf_buffer (n a : Nat) (l : List Byte) : (c.putBuf n a l).buffer = c.buffer := rfl
@[simp] theorem Chip.putBuf_txOps (n a : Nat) (l : List Byte) : (c.putBuf n a l).txOps = c.txOps := rfl
@[simp] theorem Chip.putBuf_reel (n a : Nat) (l : List Byte) : (c.putBuf n a l).reel = c.reel := rfl
@[simp] theorem Chip.putBuf_aon (n a : Nat) (l : List Byte) : (c.putBuf n a l).aon = c.aon := rfl
@[simp] theorem Chip.putBuf_carder (n a : Nat) (l : List Byte) : (c.putBuf n a l).carder = c.carder := rfl
@[simp] theorem Chip.putBuf_hankIn (n a : Nat) (l : List Byte) : (c.putBuf n a l).hankIn = c.hankIn := rfl
@[simp] theorem Chip.putBuf_uplinks (n a : Nat) (l : List Byte) : (c.putBuf n a l).uplinks = c.uplinks := rfl
@[simp] theorem Chip.putBuf_ply (n a : Nat) (l : List Byte) : (c.putBuf n a l).ply = c.ply := rfl
@[simp] theorem Chip.putBuf_hostq (n a : Nat) (l : List Byte) : (c.putBuf n a l).hostq = c.hostq := rfl
@[simp] theorem Chip.putBuf_hank (n a : Nat) (l : List Byte) : (c.putBuf n a l).hank = c.hank := rfl
@[simp] theorem Chip.putBuf_distaff (n a : Nat) (l : List Byte) : (c.putBuf n a l).distaff = c.distaff := rfl
@[simp] theorem Chip.putBuf_fates (n a : Nat) (l : List Byte) : (c.putBuf n a l).fates = c.fates := rfl
@[simp] theorem Chip.putBuf_dram (n a : Nat) (l : List Byte) : (c.putBuf n a l).dram = c.dram := rfl
@[simp] theorem Chip.putBuf_segs (n a : Nat) (l : List Byte) : (c.putBuf n a l).segs = c.segs := rfl
@[simp] theorem Chip.putBuf_segTables (n a : Nat) (l : List Byte) : (c.putBuf n a l).segTables = c.segTables := rfl
@[simp] theorem Chip.putBuf_segBuf (n a : Nat) (l : List Byte) : (c.putBuf n a l).segBuf = Tab.putList 0 c.segBuf (32768 * n + a) l := rfl
@[simp] theorem Chip.putBuf_flyers (n a : Nat) (l : List Byte) : (c.putBuf n a l).flyers = c.flyers := rfl
@[simp] theorem Chip.putBuf_flyTables (n a : Nat) (l : List Byte) : (c.putBuf n a l).flyTables = c.flyTables := rfl
@[simp] theorem Chip.putBuf_drift (n a : Nat) (l : List Byte) : (c.putBuf n a l).drift = c.drift := rfl
@[simp] theorem Chip.putBuf_chain (n a : Nat) (l : List Byte) : (c.putBuf n a l).chain = c.chain := rfl
@[simp] theorem Chip.putBuf_mirror (n a : Nat) (l : List Byte) : (c.putBuf n a l).mirror = c.mirror := rfl
@[simp] theorem Chip.putBuf_hostWrites (n a : Nat) (l : List Byte) : (c.putBuf n a l).hostWrites = c.hostWrites := rfl
@[simp] theorem Chip.putBuf_fld (n a : Nat) (l : List Byte) (r : FieldRow) (m i : Nat) : (c.putBuf n a l).fld r m i = c.fld r m i := rfl
@[simp] theorem Chip.putBuf_hdr (n a : Nat) (l : List Byte) (r : HdrRow) (page : Nat) : (c.putBuf n a l).hdr r page = c.hdr r page := rfl

/-! ### setFly -/

@[simp] theorem Chip.setFly_regs (n : Nat) (f : Flyer) : (c.setFly n f).regs = c.regs := rfl
@[simp] theorem Chip.setFly_ports (n : Nat) (f : Flyer) : (c.setFly n f).ports = c.ports := rfl
@[simp] theorem Chip.setFly_arms (n : Nat) (f : Flyer) : (c.setFly n f).arms = c.arms := rfl
@[simp] theorem Chip.setFly_hwSet (n : Nat) (f : Flyer) : (c.setFly n f).hwSet = c.hwSet := rfl
@[simp] theorem Chip.setFly_ecc (n : Nat) (f : Flyer) : (c.setFly n f).ecc = c.ecc := rfl
@[simp] theorem Chip.setFly_resetting (n : Nat) (f : Flyer) : (c.setFly n f).resetting = c.resetting := rfl
@[simp] theorem Chip.setFly_freeCtr (n : Nat) (f : Flyer) : (c.setFly n f).freeCtr = c.freeCtr := rfl
@[simp] theorem Chip.setFly_modes (n : Nat) (f : Flyer) : (c.setFly n f).modes = c.modes := rfl
@[simp] theorem Chip.setFly_power (n : Nat) (f : Flyer) : (c.setFly n f).power = c.power := rfl
@[simp] theorem Chip.setFly_whorl (n : Nat) (f : Flyer) : (c.setFly n f).whorl = c.whorl := rfl
@[simp] theorem Chip.setFly_image (n : Nat) (f : Flyer) : (c.setFly n f).image = c.image := rfl
@[simp] theorem Chip.setFly_buffer (n : Nat) (f : Flyer) : (c.setFly n f).buffer = c.buffer := rfl
@[simp] theorem Chip.setFly_txOps (n : Nat) (f : Flyer) : (c.setFly n f).txOps = c.txOps := rfl
@[simp] theorem Chip.setFly_reel (n : Nat) (f : Flyer) : (c.setFly n f).reel = c.reel := rfl
@[simp] theorem Chip.setFly_aon (n : Nat) (f : Flyer) : (c.setFly n f).aon = c.aon := rfl
@[simp] theorem Chip.setFly_carder (n : Nat) (f : Flyer) : (c.setFly n f).carder = c.carder := rfl
@[simp] theorem Chip.setFly_hankIn (n : Nat) (f : Flyer) : (c.setFly n f).hankIn = c.hankIn := rfl
@[simp] theorem Chip.setFly_uplinks (n : Nat) (f : Flyer) : (c.setFly n f).uplinks = c.uplinks := rfl
@[simp] theorem Chip.setFly_ply (n : Nat) (f : Flyer) : (c.setFly n f).ply = c.ply := rfl
@[simp] theorem Chip.setFly_hostq (n : Nat) (f : Flyer) : (c.setFly n f).hostq = c.hostq := rfl
@[simp] theorem Chip.setFly_hank (n : Nat) (f : Flyer) : (c.setFly n f).hank = c.hank := rfl
@[simp] theorem Chip.setFly_distaff (n : Nat) (f : Flyer) : (c.setFly n f).distaff = c.distaff := rfl
@[simp] theorem Chip.setFly_fates (n : Nat) (f : Flyer) : (c.setFly n f).fates = c.fates := rfl
@[simp] theorem Chip.setFly_dram (n : Nat) (f : Flyer) : (c.setFly n f).dram = c.dram := rfl
@[simp] theorem Chip.setFly_segs (n : Nat) (f : Flyer) : (c.setFly n f).segs = c.segs := rfl
@[simp] theorem Chip.setFly_segTables (n : Nat) (f : Flyer) : (c.setFly n f).segTables = c.segTables := rfl
@[simp] theorem Chip.setFly_segBuf (n : Nat) (f : Flyer) : (c.setFly n f).segBuf = c.segBuf := rfl
@[simp] theorem Chip.setFly_flyers (n : Nat) (f : Flyer) : (c.setFly n f).flyers = Tab.put {} c.flyers n f := rfl
@[simp] theorem Chip.setFly_flyTables (n : Nat) (f : Flyer) : (c.setFly n f).flyTables = c.flyTables := rfl
@[simp] theorem Chip.setFly_drift (n : Nat) (f : Flyer) : (c.setFly n f).drift = c.drift := rfl
@[simp] theorem Chip.setFly_chain (n : Nat) (f : Flyer) : (c.setFly n f).chain = c.chain := rfl
@[simp] theorem Chip.setFly_mirror (n : Nat) (f : Flyer) : (c.setFly n f).mirror = c.mirror := rfl
@[simp] theorem Chip.setFly_hostWrites (n : Nat) (f : Flyer) : (c.setFly n f).hostWrites = c.hostWrites := rfl
@[simp] theorem Chip.setFly_fld (n : Nat) (f : Flyer) (r : FieldRow) (m i : Nat) : (c.setFly n f).fld r m i = c.fld r m i := rfl
@[simp] theorem Chip.setFly_hdr (n : Nat) (f : Flyer) (r : HdrRow) (page : Nat) : (c.setFly n f).hdr r page = c.hdr r page := rfl

/-! ### setFlyW -/

@[simp] theorem Chip.setFlyW_regs (n slot w v : Nat) : (c.setFlyW n slot w v).regs = c.regs := rfl
@[simp] theorem Chip.setFlyW_ports (n slot w v : Nat) : (c.setFlyW n slot w v).ports = c.ports := rfl
@[simp] theorem Chip.setFlyW_arms (n slot w v : Nat) : (c.setFlyW n slot w v).arms = c.arms := rfl
@[simp] theorem Chip.setFlyW_hwSet (n slot w v : Nat) : (c.setFlyW n slot w v).hwSet = c.hwSet := rfl
@[simp] theorem Chip.setFlyW_ecc (n slot w v : Nat) : (c.setFlyW n slot w v).ecc = c.ecc := rfl
@[simp] theorem Chip.setFlyW_resetting (n slot w v : Nat) : (c.setFlyW n slot w v).resetting = c.resetting := rfl
@[simp] theorem Chip.setFlyW_freeCtr (n slot w v : Nat) : (c.setFlyW n slot w v).freeCtr = c.freeCtr := rfl
@[simp] theorem Chip.setFlyW_modes (n slot w v : Nat) : (c.setFlyW n slot w v).modes = c.modes := rfl
@[simp] theorem Chip.setFlyW_power (n slot w v : Nat) : (c.setFlyW n slot w v).power = c.power := rfl
@[simp] theorem Chip.setFlyW_whorl (n slot w v : Nat) : (c.setFlyW n slot w v).whorl = c.whorl := rfl
@[simp] theorem Chip.setFlyW_image (n slot w v : Nat) : (c.setFlyW n slot w v).image = c.image := rfl
@[simp] theorem Chip.setFlyW_buffer (n slot w v : Nat) : (c.setFlyW n slot w v).buffer = c.buffer := rfl
@[simp] theorem Chip.setFlyW_txOps (n slot w v : Nat) : (c.setFlyW n slot w v).txOps = c.txOps := rfl
@[simp] theorem Chip.setFlyW_reel (n slot w v : Nat) : (c.setFlyW n slot w v).reel = c.reel := rfl
@[simp] theorem Chip.setFlyW_aon (n slot w v : Nat) : (c.setFlyW n slot w v).aon = c.aon := rfl
@[simp] theorem Chip.setFlyW_carder (n slot w v : Nat) : (c.setFlyW n slot w v).carder = c.carder := rfl
@[simp] theorem Chip.setFlyW_hankIn (n slot w v : Nat) : (c.setFlyW n slot w v).hankIn = c.hankIn := rfl
@[simp] theorem Chip.setFlyW_uplinks (n slot w v : Nat) : (c.setFlyW n slot w v).uplinks = c.uplinks := rfl
@[simp] theorem Chip.setFlyW_ply (n slot w v : Nat) : (c.setFlyW n slot w v).ply = c.ply := rfl
@[simp] theorem Chip.setFlyW_hostq (n slot w v : Nat) : (c.setFlyW n slot w v).hostq = c.hostq := rfl
@[simp] theorem Chip.setFlyW_hank (n slot w v : Nat) : (c.setFlyW n slot w v).hank = c.hank := rfl
@[simp] theorem Chip.setFlyW_distaff (n slot w v : Nat) : (c.setFlyW n slot w v).distaff = c.distaff := rfl
@[simp] theorem Chip.setFlyW_fates (n slot w v : Nat) : (c.setFlyW n slot w v).fates = c.fates := rfl
@[simp] theorem Chip.setFlyW_dram (n slot w v : Nat) : (c.setFlyW n slot w v).dram = c.dram := rfl
@[simp] theorem Chip.setFlyW_segs (n slot w v : Nat) : (c.setFlyW n slot w v).segs = c.segs := rfl
@[simp] theorem Chip.setFlyW_segTables (n slot w v : Nat) : (c.setFlyW n slot w v).segTables = c.segTables := rfl
@[simp] theorem Chip.setFlyW_segBuf (n slot w v : Nat) : (c.setFlyW n slot w v).segBuf = c.segBuf := rfl
@[simp] theorem Chip.setFlyW_flyers (n slot w v : Nat) : (c.setFlyW n slot w v).flyers = c.flyers := rfl
@[simp] theorem Chip.setFlyW_flyTables (n slot w v : Nat) : (c.setFlyW n slot w v).flyTables = Tab.put (flyDefault w) c.flyTables ((2 * n + slot) * 132 + w) v := rfl
@[simp] theorem Chip.setFlyW_drift (n slot w v : Nat) : (c.setFlyW n slot w v).drift = c.drift := rfl
@[simp] theorem Chip.setFlyW_chain (n slot w v : Nat) : (c.setFlyW n slot w v).chain = c.chain := rfl
@[simp] theorem Chip.setFlyW_mirror (n slot w v : Nat) : (c.setFlyW n slot w v).mirror = c.mirror := rfl
@[simp] theorem Chip.setFlyW_hostWrites (n slot w v : Nat) : (c.setFlyW n slot w v).hostWrites = c.hostWrites := rfl
@[simp] theorem Chip.setFlyW_fld (n slot w v : Nat) (r : FieldRow) (m i : Nat) : (c.setFlyW n slot w v).fld r m i = c.fld r m i := rfl
@[simp] theorem Chip.setFlyW_hdr (n slot w v : Nat) (r : HdrRow) (page : Nat) : (c.setFlyW n slot w v).hdr r page = c.hdr r page := rfl

/-! ### setDrift -/

@[simp] theorem Chip.setDrift_regs (n k : Nat) (d : Drift) : (c.setDrift n k d).regs = c.regs := rfl
@[simp] theorem Chip.setDrift_ports (n k : Nat) (d : Drift) : (c.setDrift n k d).ports = c.ports := rfl
@[simp] theorem Chip.setDrift_arms (n k : Nat) (d : Drift) : (c.setDrift n k d).arms = c.arms := rfl
@[simp] theorem Chip.setDrift_hwSet (n k : Nat) (d : Drift) : (c.setDrift n k d).hwSet = c.hwSet := rfl
@[simp] theorem Chip.setDrift_ecc (n k : Nat) (d : Drift) : (c.setDrift n k d).ecc = c.ecc := rfl
@[simp] theorem Chip.setDrift_resetting (n k : Nat) (d : Drift) : (c.setDrift n k d).resetting = c.resetting := rfl
@[simp] theorem Chip.setDrift_freeCtr (n k : Nat) (d : Drift) : (c.setDrift n k d).freeCtr = c.freeCtr := rfl
@[simp] theorem Chip.setDrift_modes (n k : Nat) (d : Drift) : (c.setDrift n k d).modes = c.modes := rfl
@[simp] theorem Chip.setDrift_power (n k : Nat) (d : Drift) : (c.setDrift n k d).power = c.power := rfl
@[simp] theorem Chip.setDrift_whorl (n k : Nat) (d : Drift) : (c.setDrift n k d).whorl = c.whorl := rfl
@[simp] theorem Chip.setDrift_image (n k : Nat) (d : Drift) : (c.setDrift n k d).image = c.image := rfl
@[simp] theorem Chip.setDrift_buffer (n k : Nat) (d : Drift) : (c.setDrift n k d).buffer = c.buffer := rfl
@[simp] theorem Chip.setDrift_txOps (n k : Nat) (d : Drift) : (c.setDrift n k d).txOps = c.txOps := rfl
@[simp] theorem Chip.setDrift_reel (n k : Nat) (d : Drift) : (c.setDrift n k d).reel = c.reel := rfl
@[simp] theorem Chip.setDrift_aon (n k : Nat) (d : Drift) : (c.setDrift n k d).aon = c.aon := rfl
@[simp] theorem Chip.setDrift_carder (n k : Nat) (d : Drift) : (c.setDrift n k d).carder = c.carder := rfl
@[simp] theorem Chip.setDrift_hankIn (n k : Nat) (d : Drift) : (c.setDrift n k d).hankIn = c.hankIn := rfl
@[simp] theorem Chip.setDrift_uplinks (n k : Nat) (d : Drift) : (c.setDrift n k d).uplinks = c.uplinks := rfl
@[simp] theorem Chip.setDrift_ply (n k : Nat) (d : Drift) : (c.setDrift n k d).ply = c.ply := rfl
@[simp] theorem Chip.setDrift_hostq (n k : Nat) (d : Drift) : (c.setDrift n k d).hostq = c.hostq := rfl
@[simp] theorem Chip.setDrift_hank (n k : Nat) (d : Drift) : (c.setDrift n k d).hank = c.hank := rfl
@[simp] theorem Chip.setDrift_distaff (n k : Nat) (d : Drift) : (c.setDrift n k d).distaff = c.distaff := rfl
@[simp] theorem Chip.setDrift_fates (n k : Nat) (d : Drift) : (c.setDrift n k d).fates = c.fates := rfl
@[simp] theorem Chip.setDrift_dram (n k : Nat) (d : Drift) : (c.setDrift n k d).dram = c.dram := rfl
@[simp] theorem Chip.setDrift_segs (n k : Nat) (d : Drift) : (c.setDrift n k d).segs = c.segs := rfl
@[simp] theorem Chip.setDrift_segTables (n k : Nat) (d : Drift) : (c.setDrift n k d).segTables = c.segTables := rfl
@[simp] theorem Chip.setDrift_segBuf (n k : Nat) (d : Drift) : (c.setDrift n k d).segBuf = c.segBuf := rfl
@[simp] theorem Chip.setDrift_flyers (n k : Nat) (d : Drift) : (c.setDrift n k d).flyers = c.flyers := rfl
@[simp] theorem Chip.setDrift_flyTables (n k : Nat) (d : Drift) : (c.setDrift n k d).flyTables = c.flyTables := rfl
@[simp] theorem Chip.setDrift_drift (n k : Nat) (d : Drift) : (c.setDrift n k d).drift = Tab.put {} c.drift (64 * n + k) d := rfl
@[simp] theorem Chip.setDrift_chain (n k : Nat) (d : Drift) : (c.setDrift n k d).chain = c.chain := rfl
@[simp] theorem Chip.setDrift_mirror (n k : Nat) (d : Drift) : (c.setDrift n k d).mirror = c.mirror := rfl
@[simp] theorem Chip.setDrift_hostWrites (n k : Nat) (d : Drift) : (c.setDrift n k d).hostWrites = c.hostWrites := rfl
@[simp] theorem Chip.setDrift_fld (n k : Nat) (d : Drift) (r : FieldRow) (m i : Nat) : (c.setDrift n k d).fld r m i = c.fld r m i := rfl
@[simp] theorem Chip.setDrift_hdr (n k : Nat) (d : Drift) (r : HdrRow) (page : Nat) : (c.setDrift n k d).hdr r page = c.hdr r page := rfl

/-! ### updMirror -/

@[simp] theorem Chip.updMirror_regs (f : Mirror → Mirror) : (c.updMirror f).regs = c.regs := rfl
@[simp] theorem Chip.updMirror_ports (f : Mirror → Mirror) : (c.updMirror f).ports = c.ports := rfl
@[simp] theorem Chip.updMirror_arms (f : Mirror → Mirror) : (c.updMirror f).arms = c.arms := rfl
@[simp] theorem Chip.updMirror_hwSet (f : Mirror → Mirror) : (c.updMirror f).hwSet = c.hwSet := rfl
@[simp] theorem Chip.updMirror_ecc (f : Mirror → Mirror) : (c.updMirror f).ecc = c.ecc := rfl
@[simp] theorem Chip.updMirror_resetting (f : Mirror → Mirror) : (c.updMirror f).resetting = c.resetting := rfl
@[simp] theorem Chip.updMirror_freeCtr (f : Mirror → Mirror) : (c.updMirror f).freeCtr = c.freeCtr := rfl
@[simp] theorem Chip.updMirror_modes (f : Mirror → Mirror) : (c.updMirror f).modes = c.modes := rfl
@[simp] theorem Chip.updMirror_power (f : Mirror → Mirror) : (c.updMirror f).power = c.power := rfl
@[simp] theorem Chip.updMirror_whorl (f : Mirror → Mirror) : (c.updMirror f).whorl = c.whorl := rfl
@[simp] theorem Chip.updMirror_image (f : Mirror → Mirror) : (c.updMirror f).image = c.image := rfl
@[simp] theorem Chip.updMirror_buffer (f : Mirror → Mirror) : (c.updMirror f).buffer = c.buffer := rfl
@[simp] theorem Chip.updMirror_txOps (f : Mirror → Mirror) : (c.updMirror f).txOps = c.txOps := rfl
@[simp] theorem Chip.updMirror_reel (f : Mirror → Mirror) : (c.updMirror f).reel = c.reel := rfl
@[simp] theorem Chip.updMirror_aon (f : Mirror → Mirror) : (c.updMirror f).aon = c.aon := rfl
@[simp] theorem Chip.updMirror_carder (f : Mirror → Mirror) : (c.updMirror f).carder = c.carder := rfl
@[simp] theorem Chip.updMirror_hankIn (f : Mirror → Mirror) : (c.updMirror f).hankIn = c.hankIn := rfl
@[simp] theorem Chip.updMirror_uplinks (f : Mirror → Mirror) : (c.updMirror f).uplinks = c.uplinks := rfl
@[simp] theorem Chip.updMirror_ply (f : Mirror → Mirror) : (c.updMirror f).ply = c.ply := rfl
@[simp] theorem Chip.updMirror_hostq (f : Mirror → Mirror) : (c.updMirror f).hostq = c.hostq := rfl
@[simp] theorem Chip.updMirror_hank (f : Mirror → Mirror) : (c.updMirror f).hank = c.hank := rfl
@[simp] theorem Chip.updMirror_distaff (f : Mirror → Mirror) : (c.updMirror f).distaff = c.distaff := rfl
@[simp] theorem Chip.updMirror_fates (f : Mirror → Mirror) : (c.updMirror f).fates = c.fates := rfl
@[simp] theorem Chip.updMirror_dram (f : Mirror → Mirror) : (c.updMirror f).dram = c.dram := rfl
@[simp] theorem Chip.updMirror_segs (f : Mirror → Mirror) : (c.updMirror f).segs = c.segs := rfl
@[simp] theorem Chip.updMirror_segTables (f : Mirror → Mirror) : (c.updMirror f).segTables = c.segTables := rfl
@[simp] theorem Chip.updMirror_segBuf (f : Mirror → Mirror) : (c.updMirror f).segBuf = c.segBuf := rfl
@[simp] theorem Chip.updMirror_flyers (f : Mirror → Mirror) : (c.updMirror f).flyers = c.flyers := rfl
@[simp] theorem Chip.updMirror_flyTables (f : Mirror → Mirror) : (c.updMirror f).flyTables = c.flyTables := rfl
@[simp] theorem Chip.updMirror_drift (f : Mirror → Mirror) : (c.updMirror f).drift = c.drift := rfl
@[simp] theorem Chip.updMirror_chain (f : Mirror → Mirror) : (c.updMirror f).chain = c.chain := rfl
@[simp] theorem Chip.updMirror_mirror (f : Mirror → Mirror) : (c.updMirror f).mirror = f c.mirror := rfl
@[simp] theorem Chip.updMirror_hostWrites (f : Mirror → Mirror) : (c.updMirror f).hostWrites = c.hostWrites := rfl
@[simp] theorem Chip.updMirror_fld (f : Mirror → Mirror) (r : FieldRow) (m i : Nat) : (c.updMirror f).fld r m i = c.fld r m i := rfl
@[simp] theorem Chip.updMirror_hdr (f : Mirror → Mirror) (r : HdrRow) (page : Nat) : (c.updMirror f).hdr r page = c.hdr r page := rfl

/-! ### hostWrite -/

@[simp] theorem Chip.hostWrite_regs (a : Nat) (b : List Byte) : (c.hostWrite a b).regs = c.regs := rfl
@[simp] theorem Chip.hostWrite_ports (a : Nat) (b : List Byte) : (c.hostWrite a b).ports = c.ports := rfl
@[simp] theorem Chip.hostWrite_arms (a : Nat) (b : List Byte) : (c.hostWrite a b).arms = c.arms := rfl
@[simp] theorem Chip.hostWrite_hwSet (a : Nat) (b : List Byte) : (c.hostWrite a b).hwSet = c.hwSet := rfl
@[simp] theorem Chip.hostWrite_ecc (a : Nat) (b : List Byte) : (c.hostWrite a b).ecc = c.ecc := rfl
@[simp] theorem Chip.hostWrite_resetting (a : Nat) (b : List Byte) : (c.hostWrite a b).resetting = c.resetting := rfl
@[simp] theorem Chip.hostWrite_freeCtr (a : Nat) (b : List Byte) : (c.hostWrite a b).freeCtr = c.freeCtr := rfl
@[simp] theorem Chip.hostWrite_modes (a : Nat) (b : List Byte) : (c.hostWrite a b).modes = c.modes := rfl
@[simp] theorem Chip.hostWrite_power (a : Nat) (b : List Byte) : (c.hostWrite a b).power = c.power := rfl
@[simp] theorem Chip.hostWrite_whorl (a : Nat) (b : List Byte) : (c.hostWrite a b).whorl = c.whorl := rfl
@[simp] theorem Chip.hostWrite_image (a : Nat) (b : List Byte) : (c.hostWrite a b).image = c.image := rfl
@[simp] theorem Chip.hostWrite_buffer (a : Nat) (b : List Byte) : (c.hostWrite a b).buffer = c.buffer := rfl
@[simp] theorem Chip.hostWrite_txOps (a : Nat) (b : List Byte) : (c.hostWrite a b).txOps = c.txOps := rfl
@[simp] theorem Chip.hostWrite_reel (a : Nat) (b : List Byte) : (c.hostWrite a b).reel = c.reel := rfl
@[simp] theorem Chip.hostWrite_aon (a : Nat) (b : List Byte) : (c.hostWrite a b).aon = c.aon := rfl
@[simp] theorem Chip.hostWrite_carder (a : Nat) (b : List Byte) : (c.hostWrite a b).carder = c.carder := rfl
@[simp] theorem Chip.hostWrite_hankIn (a : Nat) (b : List Byte) : (c.hostWrite a b).hankIn = c.hankIn := rfl
@[simp] theorem Chip.hostWrite_uplinks (a : Nat) (b : List Byte) : (c.hostWrite a b).uplinks = c.uplinks := rfl
@[simp] theorem Chip.hostWrite_ply (a : Nat) (b : List Byte) : (c.hostWrite a b).ply = c.ply := rfl
@[simp] theorem Chip.hostWrite_hostq (a : Nat) (b : List Byte) : (c.hostWrite a b).hostq = c.hostq := rfl
@[simp] theorem Chip.hostWrite_hank (a : Nat) (b : List Byte) : (c.hostWrite a b).hank = c.hank := rfl
@[simp] theorem Chip.hostWrite_distaff (a : Nat) (b : List Byte) : (c.hostWrite a b).distaff = c.distaff := rfl
@[simp] theorem Chip.hostWrite_fates (a : Nat) (b : List Byte) : (c.hostWrite a b).fates = c.fates := rfl
@[simp] theorem Chip.hostWrite_dram (a : Nat) (b : List Byte) : (c.hostWrite a b).dram = c.dram := rfl
@[simp] theorem Chip.hostWrite_segs (a : Nat) (b : List Byte) : (c.hostWrite a b).segs = c.segs := rfl
@[simp] theorem Chip.hostWrite_segTables (a : Nat) (b : List Byte) : (c.hostWrite a b).segTables = c.segTables := rfl
@[simp] theorem Chip.hostWrite_segBuf (a : Nat) (b : List Byte) : (c.hostWrite a b).segBuf = c.segBuf := rfl
@[simp] theorem Chip.hostWrite_flyers (a : Nat) (b : List Byte) : (c.hostWrite a b).flyers = c.flyers := rfl
@[simp] theorem Chip.hostWrite_flyTables (a : Nat) (b : List Byte) : (c.hostWrite a b).flyTables = c.flyTables := rfl
@[simp] theorem Chip.hostWrite_drift (a : Nat) (b : List Byte) : (c.hostWrite a b).drift = c.drift := rfl
@[simp] theorem Chip.hostWrite_chain (a : Nat) (b : List Byte) : (c.hostWrite a b).chain = c.chain := rfl
@[simp] theorem Chip.hostWrite_mirror (a : Nat) (b : List Byte) : (c.hostWrite a b).mirror = c.mirror := rfl
@[simp] theorem Chip.hostWrite_hostWrites (a : Nat) (b : List Byte) : (c.hostWrite a b).hostWrites = c.hostWrites ++ [{ addr := a % 2 ^ 64, bytes := b }] := rfl
@[simp] theorem Chip.hostWrite_fld (a : Nat) (b : List Byte) (r : FieldRow) (m i : Nat) : (c.hostWrite a b).fld r m i = c.fld r m i := rfl
@[simp] theorem Chip.hostWrite_hdr (a : Nat) (b : List Byte) (r : HdrRow) (page : Nat) : (c.hostWrite a b).hdr r page = c.hdr r page := rfl

/-! ### setFld -/

@[simp] theorem Chip.setFld_ports (r : FieldRow) (v n i : Nat) : (c.setFld r v n i).ports = c.ports := rfl
@[simp] theorem Chip.setFld_arms (r : FieldRow) (v n i : Nat) : (c.setFld r v n i).arms = c.arms := rfl
@[simp] theorem Chip.setFld_hwSet (r : FieldRow) (v n i : Nat) : (c.setFld r v n i).hwSet = c.hwSet := rfl
@[simp] theorem Chip.setFld_ecc (r : FieldRow) (v n i : Nat) : (c.setFld r v n i).ecc = c.ecc := rfl
@[simp] theorem Chip.setFld_resetting (r : FieldRow) (v n i : Nat) : (c.setFld r v n i).resetting = c.resetting := rfl
@[simp] theorem Chip.setFld_freeCtr (r : FieldRow) (v n i : Nat) : (c.setFld r v n i).freeCtr = c.freeCtr := rfl
@[simp] theorem Chip.setFld_modes (r : FieldRow) (v n i : Nat) : (c.setFld r v n i).modes = c.modes := rfl
@[simp] theorem Chip.setFld_power (r : FieldRow) (v n i : Nat) : (c.setFld r v n i).power = c.power := rfl
@[simp] theorem Chip.setFld_whorl (r : FieldRow) (v n i : Nat) : (c.setFld r v n i).whorl = c.whorl := rfl
@[simp] theorem Chip.setFld_image (r : FieldRow) (v n i : Nat) : (c.setFld r v n i).image = c.image := rfl
@[simp] theorem Chip.setFld_buffer (r : FieldRow) (v n i : Nat) : (c.setFld r v n i).buffer = c.buffer := rfl
@[simp] theorem Chip.setFld_txOps (r : FieldRow) (v n i : Nat) : (c.setFld r v n i).txOps = c.txOps := rfl
@[simp] theorem Chip.setFld_reel (r : FieldRow) (v n i : Nat) : (c.setFld r v n i).reel = c.reel := rfl
@[simp] theorem Chip.setFld_aon (r : FieldRow) (v n i : Nat) : (c.setFld r v n i).aon = c.aon := rfl
@[simp] theorem Chip.setFld_carder (r : FieldRow) (v n i : Nat) : (c.setFld r v n i).carder = c.carder := rfl
@[simp] theorem Chip.setFld_hankIn (r : FieldRow) (v n i : Nat) : (c.setFld r v n i).hankIn = c.hankIn := rfl
@[simp] theorem Chip.setFld_uplinks (r : FieldRow) (v n i : Nat) : (c.setFld r v n i).uplinks = c.uplinks := rfl
@[simp] theorem Chip.setFld_ply (r : FieldRow) (v n i : Nat) : (c.setFld r v n i).ply = c.ply := rfl
@[simp] theorem Chip.setFld_hostq (r : FieldRow) (v n i : Nat) : (c.setFld r v n i).hostq = c.hostq := rfl
@[simp] theorem Chip.setFld_hank (r : FieldRow) (v n i : Nat) : (c.setFld r v n i).hank = c.hank := rfl
@[simp] theorem Chip.setFld_distaff (r : FieldRow) (v n i : Nat) : (c.setFld r v n i).distaff = c.distaff := rfl
@[simp] theorem Chip.setFld_fates (r : FieldRow) (v n i : Nat) : (c.setFld r v n i).fates = c.fates := rfl
@[simp] theorem Chip.setFld_dram (r : FieldRow) (v n i : Nat) : (c.setFld r v n i).dram = c.dram := rfl
@[simp] theorem Chip.setFld_segs (r : FieldRow) (v n i : Nat) : (c.setFld r v n i).segs = c.segs := rfl
@[simp] theorem Chip.setFld_segTables (r : FieldRow) (v n i : Nat) : (c.setFld r v n i).segTables = c.segTables := rfl
@[simp] theorem Chip.setFld_segBuf (r : FieldRow) (v n i : Nat) : (c.setFld r v n i).segBuf = c.segBuf := rfl
@[simp] theorem Chip.setFld_flyers (r : FieldRow) (v n i : Nat) : (c.setFld r v n i).flyers = c.flyers := rfl
@[simp] theorem Chip.setFld_flyTables (r : FieldRow) (v n i : Nat) : (c.setFld r v n i).flyTables = c.flyTables := rfl
@[simp] theorem Chip.setFld_drift (r : FieldRow) (v n i : Nat) : (c.setFld r v n i).drift = c.drift := rfl
@[simp] theorem Chip.setFld_chain (r : FieldRow) (v n i : Nat) : (c.setFld r v n i).chain = c.chain := rfl
@[simp] theorem Chip.setFld_mirror (r : FieldRow) (v n i : Nat) : (c.setFld r v n i).mirror = c.mirror := rfl
@[simp] theorem Chip.setFld_hostWrites (r : FieldRow) (v n i : Nat) : (c.setFld r v n i).hostWrites = c.hostWrites := rfl

/-! ### setHdr -/

@[simp] theorem Chip.setHdr_ports (r : HdrRow) (page v : Nat) : (c.setHdr r page v).ports = c.ports := rfl
@[simp] theorem Chip.setHdr_arms (r : HdrRow) (page v : Nat) : (c.setHdr r page v).arms = c.arms := rfl
@[simp] theorem Chip.setHdr_hwSet (r : HdrRow) (page v : Nat) : (c.setHdr r page v).hwSet = c.hwSet := rfl
@[simp] theorem Chip.setHdr_ecc (r : HdrRow) (page v : Nat) : (c.setHdr r page v).ecc = c.ecc := rfl
@[simp] theorem Chip.setHdr_resetting (r : HdrRow) (page v : Nat) : (c.setHdr r page v).resetting = c.resetting := rfl
@[simp] theorem Chip.setHdr_freeCtr (r : HdrRow) (page v : Nat) : (c.setHdr r page v).freeCtr = c.freeCtr := rfl
@[simp] theorem Chip.setHdr_modes (r : HdrRow) (page v : Nat) : (c.setHdr r page v).modes = c.modes := rfl
@[simp] theorem Chip.setHdr_power (r : HdrRow) (page v : Nat) : (c.setHdr r page v).power = c.power := rfl
@[simp] theorem Chip.setHdr_whorl (r : HdrRow) (page v : Nat) : (c.setHdr r page v).whorl = c.whorl := rfl
@[simp] theorem Chip.setHdr_image (r : HdrRow) (page v : Nat) : (c.setHdr r page v).image = c.image := rfl
@[simp] theorem Chip.setHdr_buffer (r : HdrRow) (page v : Nat) : (c.setHdr r page v).buffer = c.buffer := rfl
@[simp] theorem Chip.setHdr_txOps (r : HdrRow) (page v : Nat) : (c.setHdr r page v).txOps = c.txOps := rfl
@[simp] theorem Chip.setHdr_reel (r : HdrRow) (page v : Nat) : (c.setHdr r page v).reel = c.reel := rfl
@[simp] theorem Chip.setHdr_aon (r : HdrRow) (page v : Nat) : (c.setHdr r page v).aon = c.aon := rfl
@[simp] theorem Chip.setHdr_carder (r : HdrRow) (page v : Nat) : (c.setHdr r page v).carder = c.carder := rfl
@[simp] theorem Chip.setHdr_hankIn (r : HdrRow) (page v : Nat) : (c.setHdr r page v).hankIn = c.hankIn := rfl
@[simp] theorem Chip.setHdr_uplinks (r : HdrRow) (page v : Nat) : (c.setHdr r page v).uplinks = c.uplinks := rfl
@[simp] theorem Chip.setHdr_ply (r : HdrRow) (page v : Nat) : (c.setHdr r page v).ply = c.ply := rfl
@[simp] theorem Chip.setHdr_hostq (r : HdrRow) (page v : Nat) : (c.setHdr r page v).hostq = c.hostq := rfl
@[simp] theorem Chip.setHdr_hank (r : HdrRow) (page v : Nat) : (c.setHdr r page v).hank = c.hank := rfl
@[simp] theorem Chip.setHdr_distaff (r : HdrRow) (page v : Nat) : (c.setHdr r page v).distaff = c.distaff := rfl
@[simp] theorem Chip.setHdr_fates (r : HdrRow) (page v : Nat) : (c.setHdr r page v).fates = c.fates := rfl
@[simp] theorem Chip.setHdr_dram (r : HdrRow) (page v : Nat) : (c.setHdr r page v).dram = c.dram := rfl
@[simp] theorem Chip.setHdr_segs (r : HdrRow) (page v : Nat) : (c.setHdr r page v).segs = c.segs := rfl
@[simp] theorem Chip.setHdr_segTables (r : HdrRow) (page v : Nat) : (c.setHdr r page v).segTables = c.segTables := rfl
@[simp] theorem Chip.setHdr_segBuf (r : HdrRow) (page v : Nat) : (c.setHdr r page v).segBuf = c.segBuf := rfl
@[simp] theorem Chip.setHdr_flyers (r : HdrRow) (page v : Nat) : (c.setHdr r page v).flyers = c.flyers := rfl
@[simp] theorem Chip.setHdr_flyTables (r : HdrRow) (page v : Nat) : (c.setHdr r page v).flyTables = c.flyTables := rfl
@[simp] theorem Chip.setHdr_drift (r : HdrRow) (page v : Nat) : (c.setHdr r page v).drift = c.drift := rfl
@[simp] theorem Chip.setHdr_chain (r : HdrRow) (page v : Nat) : (c.setHdr r page v).chain = c.chain := rfl
@[simp] theorem Chip.setHdr_mirror (r : HdrRow) (page v : Nat) : (c.setHdr r page v).mirror = c.mirror := rfl
@[simp] theorem Chip.setHdr_hostWrites (r : HdrRow) (page v : Nat) : (c.setHdr r page v).hostWrites = c.hostWrites := rfl

/-! ### raise -/

@[simp] theorem Chip.raise_ports (e : Evt) (n : Nat) : (c.raise e n).ports = c.ports := by unfold Chip.raise; split <;> rfl
@[simp] theorem Chip.raise_arms (e : Evt) (n : Nat) : (c.raise e n).arms = c.arms := by unfold Chip.raise; split <;> rfl
@[simp] theorem Chip.raise_ecc (e : Evt) (n : Nat) : (c.raise e n).ecc = c.ecc := by unfold Chip.raise; split <;> rfl
@[simp] theorem Chip.raise_resetting (e : Evt) (n : Nat) : (c.raise e n).resetting = c.resetting := by unfold Chip.raise; split <;> rfl
@[simp] theorem Chip.raise_freeCtr (e : Evt) (n : Nat) : (c.raise e n).freeCtr = c.freeCtr := by unfold Chip.raise; split <;> rfl
@[simp] theorem Chip.raise_modes (e : Evt) (n : Nat) : (c.raise e n).modes = c.modes := by unfold Chip.raise; split <;> rfl
@[simp] theorem Chip.raise_power (e : Evt) (n : Nat) : (c.raise e n).power = c.power := by unfold Chip.raise; split <;> rfl
@[simp] theorem Chip.raise_whorl (e : Evt) (n : Nat) : (c.raise e n).whorl = c.whorl := by unfold Chip.raise; split <;> rfl
@[simp] theorem Chip.raise_image (e : Evt) (n : Nat) : (c.raise e n).image = c.image := by unfold Chip.raise; split <;> rfl
@[simp] theorem Chip.raise_buffer (e : Evt) (n : Nat) : (c.raise e n).buffer = c.buffer := by unfold Chip.raise; split <;> rfl
@[simp] theorem Chip.raise_txOps (e : Evt) (n : Nat) : (c.raise e n).txOps = c.txOps := by unfold Chip.raise; split <;> rfl
@[simp] theorem Chip.raise_reel (e : Evt) (n : Nat) : (c.raise e n).reel = c.reel := by unfold Chip.raise; split <;> rfl
@[simp] theorem Chip.raise_aon (e : Evt) (n : Nat) : (c.raise e n).aon = c.aon := by unfold Chip.raise; split <;> rfl
@[simp] theorem Chip.raise_carder (e : Evt) (n : Nat) : (c.raise e n).carder = c.carder := by unfold Chip.raise; split <;> rfl
@[simp] theorem Chip.raise_hankIn (e : Evt) (n : Nat) : (c.raise e n).hankIn = c.hankIn := by unfold Chip.raise; split <;> rfl
@[simp] theorem Chip.raise_uplinks (e : Evt) (n : Nat) : (c.raise e n).uplinks = c.uplinks := by unfold Chip.raise; split <;> rfl
@[simp] theorem Chip.raise_ply (e : Evt) (n : Nat) : (c.raise e n).ply = c.ply := by unfold Chip.raise; split <;> rfl
@[simp] theorem Chip.raise_hostq (e : Evt) (n : Nat) : (c.raise e n).hostq = c.hostq := by unfold Chip.raise; split <;> rfl
@[simp] theorem Chip.raise_hank (e : Evt) (n : Nat) : (c.raise e n).hank = c.hank := by unfold Chip.raise; split <;> rfl
@[simp] theorem Chip.raise_distaff (e : Evt) (n : Nat) : (c.raise e n).distaff = c.distaff := by unfold Chip.raise; split <;> rfl
@[simp] theorem Chip.raise_fates (e : Evt) (n : Nat) : (c.raise e n).fates = c.fates := by unfold Chip.raise; split <;> rfl
@[simp] theorem Chip.raise_dram (e : Evt) (n : Nat) : (c.raise e n).dram = c.dram := by unfold Chip.raise; split <;> rfl
@[simp] theorem Chip.raise_segs (e : Evt) (n : Nat) : (c.raise e n).segs = c.segs := by unfold Chip.raise; split <;> rfl
@[simp] theorem Chip.raise_segTables (e : Evt) (n : Nat) : (c.raise e n).segTables = c.segTables := by unfold Chip.raise; split <;> rfl
@[simp] theorem Chip.raise_segBuf (e : Evt) (n : Nat) : (c.raise e n).segBuf = c.segBuf := by unfold Chip.raise; split <;> rfl
@[simp] theorem Chip.raise_flyers (e : Evt) (n : Nat) : (c.raise e n).flyers = c.flyers := by unfold Chip.raise; split <;> rfl
@[simp] theorem Chip.raise_flyTables (e : Evt) (n : Nat) : (c.raise e n).flyTables = c.flyTables := by unfold Chip.raise; split <;> rfl
@[simp] theorem Chip.raise_drift (e : Evt) (n : Nat) : (c.raise e n).drift = c.drift := by unfold Chip.raise; split <;> rfl
@[simp] theorem Chip.raise_chain (e : Evt) (n : Nat) : (c.raise e n).chain = c.chain := by unfold Chip.raise; split <;> rfl
@[simp] theorem Chip.raise_mirror (e : Evt) (n : Nat) : (c.raise e n).mirror = c.mirror := by unfold Chip.raise; split <;> rfl
@[simp] theorem Chip.raise_hostWrites (e : Evt) (n : Nat) : (c.raise e n).hostWrites = c.hostWrites := by unfold Chip.raise; split <;> rfl

/-! ### errcnt -/

@[simp] theorem Chip.errcnt_ports (page off : Nat) (p : Port) : (c.errcnt page off p).ports = c.ports := rfl
@[simp] theorem Chip.errcnt_arms (page off : Nat) (p : Port) : (c.errcnt page off p).arms = c.arms := rfl
@[simp] theorem Chip.errcnt_hwSet (page off : Nat) (p : Port) : (c.errcnt page off p).hwSet = c.hwSet := rfl
@[simp] theorem Chip.errcnt_ecc (page off : Nat) (p : Port) : (c.errcnt page off p).ecc = c.ecc := rfl
@[simp] theorem Chip.errcnt_resetting (page off : Nat) (p : Port) : (c.errcnt page off p).resetting = c.resetting := rfl
@[simp] theorem Chip.errcnt_freeCtr (page off : Nat) (p : Port) : (c.errcnt page off p).freeCtr = c.freeCtr := rfl
@[simp] theorem Chip.errcnt_modes (page off : Nat) (p : Port) : (c.errcnt page off p).modes = c.modes := rfl
@[simp] theorem Chip.errcnt_power (page off : Nat) (p : Port) : (c.errcnt page off p).power = c.power := rfl
@[simp] theorem Chip.errcnt_whorl (page off : Nat) (p : Port) : (c.errcnt page off p).whorl = c.whorl := rfl
@[simp] theorem Chip.errcnt_image (page off : Nat) (p : Port) : (c.errcnt page off p).image = c.image := rfl
@[simp] theorem Chip.errcnt_buffer (page off : Nat) (p : Port) : (c.errcnt page off p).buffer = c.buffer := rfl
@[simp] theorem Chip.errcnt_txOps (page off : Nat) (p : Port) : (c.errcnt page off p).txOps = c.txOps := rfl
@[simp] theorem Chip.errcnt_reel (page off : Nat) (p : Port) : (c.errcnt page off p).reel = c.reel := rfl
@[simp] theorem Chip.errcnt_aon (page off : Nat) (p : Port) : (c.errcnt page off p).aon = c.aon := rfl
@[simp] theorem Chip.errcnt_carder (page off : Nat) (p : Port) : (c.errcnt page off p).carder = c.carder := rfl
@[simp] theorem Chip.errcnt_hankIn (page off : Nat) (p : Port) : (c.errcnt page off p).hankIn = c.hankIn := rfl
@[simp] theorem Chip.errcnt_uplinks (page off : Nat) (p : Port) : (c.errcnt page off p).uplinks = c.uplinks := rfl
@[simp] theorem Chip.errcnt_ply (page off : Nat) (p : Port) : (c.errcnt page off p).ply = c.ply := rfl
@[simp] theorem Chip.errcnt_hostq (page off : Nat) (p : Port) : (c.errcnt page off p).hostq = c.hostq := rfl
@[simp] theorem Chip.errcnt_hank (page off : Nat) (p : Port) : (c.errcnt page off p).hank = c.hank := rfl
@[simp] theorem Chip.errcnt_distaff (page off : Nat) (p : Port) : (c.errcnt page off p).distaff = c.distaff := rfl
@[simp] theorem Chip.errcnt_fates (page off : Nat) (p : Port) : (c.errcnt page off p).fates = c.fates := rfl
@[simp] theorem Chip.errcnt_dram (page off : Nat) (p : Port) : (c.errcnt page off p).dram = c.dram := rfl
@[simp] theorem Chip.errcnt_segs (page off : Nat) (p : Port) : (c.errcnt page off p).segs = c.segs := rfl
@[simp] theorem Chip.errcnt_segTables (page off : Nat) (p : Port) : (c.errcnt page off p).segTables = c.segTables := rfl
@[simp] theorem Chip.errcnt_segBuf (page off : Nat) (p : Port) : (c.errcnt page off p).segBuf = c.segBuf := rfl
@[simp] theorem Chip.errcnt_flyers (page off : Nat) (p : Port) : (c.errcnt page off p).flyers = c.flyers := rfl
@[simp] theorem Chip.errcnt_flyTables (page off : Nat) (p : Port) : (c.errcnt page off p).flyTables = c.flyTables := rfl
@[simp] theorem Chip.errcnt_drift (page off : Nat) (p : Port) : (c.errcnt page off p).drift = c.drift := rfl
@[simp] theorem Chip.errcnt_chain (page off : Nat) (p : Port) : (c.errcnt page off p).chain = c.chain := rfl
@[simp] theorem Chip.errcnt_mirror (page off : Nat) (p : Port) : (c.errcnt page off p).mirror = c.mirror := rfl
@[simp] theorem Chip.errcnt_hostWrites (page off : Nat) (p : Port) : (c.errcnt page off p).hostWrites = c.hostWrites := rfl

/-! ### settle -/

/-- `d` is `c` but for its registers and the record of the W1C bits set in this clock. -/
def Chip.RegsOnly (d : Chip) : Prop := ∃ regs h, d = { c with regs := regs, hwSet := h }

variable {c}

theorem Chip.RegsOnly.refl : c.RegsOnly c := ⟨c.regs, c.hwSet, rfl⟩
theorem Chip.RegsOnly.trans {d e : Chip} (h1 : c.RegsOnly d) (h2 : d.RegsOnly e) : c.RegsOnly e := by
  obtain ⟨r1, g1, rfl⟩ := h1
  obtain ⟨r2, g2, rfl⟩ := h2
  exact ⟨r2, g2, rfl⟩
theorem Chip.RegsOnly.setFld {d : Chip} (h : c.RegsOnly d) (r : FieldRow) (v n i : Nat) : c.RegsOnly (d.setFld r v n i) :=
  h.trans ⟨_, d.hwSet, rfl⟩
theorem Chip.RegsOnly.setHdr {d : Chip} (h : c.RegsOnly d) (r : HdrRow) (page v : Nat) : c.RegsOnly (d.setHdr r page v) :=
  h.trans ⟨_, d.hwSet, rfl⟩
theorem Chip.RegsOnly.hwMark {d : Chip} (h : c.RegsOnly d) (key v : Nat) : c.RegsOnly (d.hwMark key v) :=
  h.trans ⟨d.regs, _, rfl⟩
theorem Chip.RegsOnly.raise {d : Chip} (h : c.RegsOnly d) (e : Evt) (n : Nat) : c.RegsOnly (d.raise e n) := by
  unfold Chip.raise
  split
  · exact (h.setHdr _ _ _).hwMark _ _
  · exact h
theorem Chip.RegsOnly.ite {d e : Chip} {p : Prop} [Decidable p] (h1 : c.RegsOnly d) (h2 : c.RegsOnly e) :
    c.RegsOnly (if p then d else e) := by
  split
  · exact h1
  · exact h2

variable (c)

theorem Chip.setAll_regsOnly (l : List (FieldRow × Nat)) : c.RegsOnly (c.setAll l) := by
  induction l generalizing c with
  | nil => exact Chip.RegsOnly.refl
  | cons e r ih => exact Chip.RegsOnly.trans (Chip.RegsOnly.refl.setFld e.1 e.2 0 0) (ih _)

theorem Chip.levels_regsOnly : c.RegsOnly c.levels := c.setAll_regsOnly _

/-- `settle` writes registers, and notes whether the queues are quiescent. -/
theorem Chip.settle_frame : ∃ regs q h, c.settle = { c with regs := regs, hostq := { c.hostq with allQ := q }, hwSet := h } := by
  have h1 : ∃ regs q h, c.quiescentRise = { c with regs := regs, hostq := { c.hostq with allQ := q }, hwSet := h } := by
    refine ⟨c.quiescentRise.regs, c.allQuiescent, c.quiescentRise.hwSet, ?_⟩
    unfold Chip.quiescentRise Chip.raise
    simp only
    split_ifs <;> rfl
  obtain ⟨r1, q, g1, h1⟩ := h1
  obtain ⟨r2, g2, h2⟩ := c.quiescentRise.levels_regsOnly
  exact ⟨r2, q, g2, by rw [Chip.settle, h2, h1]⟩

@[simp] theorem Chip.settle_ports : c.settle.ports = c.ports := by obtain ⟨_, _, _, h⟩ := c.settle_frame; rw [h]
@[simp] theorem Chip.settle_arms : c.settle.arms = c.arms := by obtain ⟨_, _, _, h⟩ := c.settle_frame; rw [h]
@[simp] theorem Chip.settle_ecc : c.settle.ecc = c.ecc := by obtain ⟨_, _, _, h⟩ := c.settle_frame; rw [h]
@[simp] theorem Chip.settle_resetting : c.settle.resetting = c.resetting := by obtain ⟨_, _, _, h⟩ := c.settle_frame; rw [h]
@[simp] theorem Chip.settle_freeCtr : c.settle.freeCtr = c.freeCtr := by obtain ⟨_, _, _, h⟩ := c.settle_frame; rw [h]
@[simp] theorem Chip.settle_modes : c.settle.modes = c.modes := by obtain ⟨_, _, _, h⟩ := c.settle_frame; rw [h]
@[simp] theorem Chip.settle_power : c.settle.power = c.power := by obtain ⟨_, _, _, h⟩ := c.settle_frame; rw [h]
@[simp] theorem Chip.settle_whorl : c.settle.whorl = c.whorl := by obtain ⟨_, _, _, h⟩ := c.settle_frame; rw [h]
@[simp] theorem Chip.settle_image : c.settle.image = c.image := by obtain ⟨_, _, _, h⟩ := c.settle_frame; rw [h]
@[simp] theorem Chip.settle_buffer : c.settle.buffer = c.buffer := by obtain ⟨_, _, _, h⟩ := c.settle_frame; rw [h]
@[simp] theorem Chip.settle_txOps : c.settle.txOps = c.txOps := by obtain ⟨_, _, _, h⟩ := c.settle_frame; rw [h]
@[simp] theorem Chip.settle_reel : c.settle.reel = c.reel := by obtain ⟨_, _, _, h⟩ := c.settle_frame; rw [h]
@[simp] theorem Chip.settle_aon : c.settle.aon = c.aon := by obtain ⟨_, _, _, h⟩ := c.settle_frame; rw [h]
@[simp] theorem Chip.settle_carder : c.settle.carder = c.carder := by obtain ⟨_, _, _, h⟩ := c.settle_frame; rw [h]
@[simp] theorem Chip.settle_hankIn : c.settle.hankIn = c.hankIn := by obtain ⟨_, _, _, h⟩ := c.settle_frame; rw [h]
@[simp] theorem Chip.settle_uplinks : c.settle.uplinks = c.uplinks := by obtain ⟨_, _, _, h⟩ := c.settle_frame; rw [h]
@[simp] theorem Chip.settle_ply : c.settle.ply = c.ply := by obtain ⟨_, _, _, h⟩ := c.settle_frame; rw [h]
@[simp] theorem Chip.settle_hank : c.settle.hank = c.hank := by obtain ⟨_, _, _, h⟩ := c.settle_frame; rw [h]
@[simp] theorem Chip.settle_distaff : c.settle.distaff = c.distaff := by obtain ⟨_, _, _, h⟩ := c.settle_frame; rw [h]
@[simp] theorem Chip.settle_fates : c.settle.fates = c.fates := by obtain ⟨_, _, _, h⟩ := c.settle_frame; rw [h]
@[simp] theorem Chip.settle_dram : c.settle.dram = c.dram := by obtain ⟨_, _, _, h⟩ := c.settle_frame; rw [h]
@[simp] theorem Chip.settle_segs : c.settle.segs = c.segs := by obtain ⟨_, _, _, h⟩ := c.settle_frame; rw [h]
@[simp] theorem Chip.settle_segTables : c.settle.segTables = c.segTables := by obtain ⟨_, _, _, h⟩ := c.settle_frame; rw [h]
@[simp] theorem Chip.settle_segBuf : c.settle.segBuf = c.segBuf := by obtain ⟨_, _, _, h⟩ := c.settle_frame; rw [h]
@[simp] theorem Chip.settle_flyers : c.settle.flyers = c.flyers := by obtain ⟨_, _, _, h⟩ := c.settle_frame; rw [h]
@[simp] theorem Chip.settle_flyTables : c.settle.flyTables = c.flyTables := by obtain ⟨_, _, _, h⟩ := c.settle_frame; rw [h]
@[simp] theorem Chip.settle_drift : c.settle.drift = c.drift := by obtain ⟨_, _, _, h⟩ := c.settle_frame; rw [h]
@[simp] theorem Chip.settle_chain : c.settle.chain = c.chain := by obtain ⟨_, _, _, h⟩ := c.settle_frame; rw [h]
@[simp] theorem Chip.settle_mirror : c.settle.mirror = c.mirror := by obtain ⟨_, _, _, h⟩ := c.settle_frame; rw [h]
@[simp] theorem Chip.settle_hostWrites : c.settle.hostWrites = c.hostWrites := by obtain ⟨_, _, _, h⟩ := c.settle_frame; rw [h]

end Sys2Proof.Machine
end

