-- ==== Sys2Proof/Laws/Tab.lean ====
section
/-!
SUPPORT. Laws/Tab.lean: reading a table after it has been changed, and that every table operation keeps the canonical form.
-/
namespace Sys2Proof.Machine

variable {V : Type}

theorem Tab.get_del_self (d : V) (t : Tab V) (k : Nat) : Tab.get d (Tab.del t k) k = d := by
  induction t with
  | nil => rfl
  | cons e r ih =>
    obtain ⟨j, w⟩ := e
    by_cases h : j = k <;> simp_all [Tab.del, Tab.get]

theorem Tab.get_del_ne (d : V) (t : Tab V) {k j : Nat} (h : j ≠ k) : Tab.get d (Tab.del t k) j = Tab.get d t j := by
  induction t with
  | nil => rfl
  | cons e r ih =>
    obtain ⟨i, w⟩ := e
    by_cases h1 : i = k
    · subst h1; simp_all [Tab.del, Tab.get, Ne.symm h]
    · by_cases h2 : i = j <;> simp_all [Tab.del, Tab.get]

theorem Tab.get_ins_self (d : V) (t : Tab V) (k : Nat) (v : V) : Tab.get d (Tab.ins t k v) k = v := by
  induction t with
  | nil => simp [Tab.ins, Tab.get]
  | cons e r ih =>
    obtain ⟨j, w⟩ := e
    simp only [Tab.ins]
    split
    · rename_i h; simp [Tab.get, Nat.ne_of_lt h, ih]
    · split <;> simp [Tab.get]

theorem Tab.get_ins_ne (d : V) (t : Tab V) {k j : Nat} (v : V) (h : j ≠ k) :
    Tab.get d (Tab.ins t k v) j = Tab.get d t j := by
  induction t with
  | nil => simp [Tab.ins, Tab.get, Ne.symm h]
  | cons e r ih =>
    obtain ⟨i, w⟩ := e
    simp only [Tab.ins]
    split
    · simp [Tab.get, ih]
    · split
      · rename_i h2; subst h2; simp [Tab.get, Ne.symm h]
      · simp [Tab.get, Ne.symm h]

variable [DecidableEq V]

@[simp] theorem Tab.get_put_self (d : V) (t : Tab V) (k : Nat) (v : V) : Tab.get d (Tab.put d t k v) k = v := by
  unfold Tab.put
  split
  · rename_i h; rw [Tab.get_del_self, h]
  · exact Tab.get_ins_self d t k v

theorem Tab.get_put_ne (d e : V) (t : Tab V) {k j : Nat} (v : V) (h : j ≠ k) :
    Tab.get e (Tab.put d t k v) j = Tab.get e t j := by
  unfold Tab.put
  split
  · exact Tab.get_del_ne e t h
  · exact Tab.get_ins_ne e t v h

theorem Tab.get_put (d : V) (t : Tab V) (k j : Nat) (v : V) :
    Tab.get d (Tab.put d t k v) j = if j = k then v else Tab.get d t j := by
  split
  · rename_i h; subst h; simp
  · rename_i h; exact Tab.get_put_ne d d t v h

/-! ### The canonical form -/

/-- What a table must keep for a longer one in front of it. -/
theorem Tab.wfAbove_mono (d : V) {b c : Option Nat} {t : Tab V} (h : Tab.wfAbove d b t = true)
    (hbc : ∀ x, c = some x → ∃ y, b = some y ∧ x ≤ y) : Tab.wfAbove d c t = true := by
  cases t with
  | nil => rfl
  | cons e r =>
    obtain ⟨j, w⟩ := e
    cases c with
    | none => simp_all [Tab.wfAbove]
    | some x =>
      obtain ⟨y, rfl, hxy⟩ := hbc x rfl
      simp only [Tab.wfAbove, Bool.and_eq_true, decide_eq_true_eq] at h ⊢
      exact ⟨⟨by omega, h.1.2⟩, h.2⟩

theorem Tab.wfAbove_filter (d : V) (p : Nat × V → Bool) (b : Option Nat) (t : Tab V) (h : Tab.wfAbove d b t = true) :
    Tab.wfAbove d b (t.filter p) = true := by
  induction t generalizing b with
  | nil => rfl
  | cons e r ih =>
    obtain ⟨j, w⟩ := e
    simp only [Tab.wfAbove, Bool.and_eq_true] at h
    by_cases hp : p (j, w)
    · simp only [List.filter_cons, hp, if_true, Tab.wfAbove, Bool.and_eq_true]
      exact ⟨h.1, ih _ h.2⟩
    · simp only [List.filter_cons, hp]
      refine Tab.wfAbove_mono d (ih _ h.2) ?_
      rintro x rfl
      simp only [decide_eq_true_eq] at h
      exact ⟨j, rfl, Nat.le_of_lt h.1.1⟩

theorem Tab.wfAbove_ins (d : V) (b : Option Nat) (t : Tab V) (k : Nat) (v : V) (hv : v ≠ d)
    (hb : ∀ x, b = some x → x < k) (h : Tab.wfAbove d b t = true) : Tab.wfAbove d b (Tab.ins t k v) = true := by
  induction t generalizing b with
  | nil => cases b <;> simp_all [Tab.ins, Tab.wfAbove]
  | cons e r ih =>
    obtain ⟨j, w⟩ := e
    simp only [Tab.wfAbove, Bool.and_eq_true] at h
    simp only [Tab.ins]
    split
    · rename_i hj
      simp only [Tab.wfAbove, Bool.and_eq_true]
      exact ⟨h.1, ih _ (by simp; omega) h.2⟩
    · split
      · rename_i hj
        subst hj
        cases b <;> simp_all [Tab.wfAbove]
      · rename_i h1 h2
        have hk : k < j := by omega
        cases b <;> simp_all [Tab.wfAbove]

/-- A write keeps the canonical form. -/
theorem Tab.wf_put (d : V) (t : Tab V) (k : Nat) (v : V) (h : Tab.wf d t = true) : Tab.wf d (Tab.put d t k v) = true := by
  unfold Tab.put
  split
  · exact Tab.wfAbove_filter d _ none t h
  · rename_i hv; exact Tab.wfAbove_ins d none t k v hv (by simp) h

theorem Tab.wf_clearRange (d : V) (t : Tab V) (lo hi : Nat) (h : Tab.wf d t = true) :
    Tab.wf d (Tab.clearRange t lo hi) = true := Tab.wfAbove_filter d _ none t h

theorem Tab.wf_putList (d : V) (t : Tab V) (k : Nat) (l : List V) (h : Tab.wf d t = true) :
    Tab.wf d (Tab.putList d t k l) = true := by
  induction l generalizing t k with
  | nil => exact h
  | cons v r ih => exact ih _ _ (Tab.wf_put d t k v h)

/-- Every write of memory keeps its canonical form. -/
theorem Memory.wf_put (m : List Host.Cell) (k : Nat) (v : Byte) (h : Memory.wf m = true) :
    Memory.wf (Tab.put (0 : Byte) m k v) = true := Tab.wf_put _ _ _ _ h

theorem Memory.wf_putList (m : List Host.Cell) (k : Nat) (l : List Byte) (h : Memory.wf m = true) :
    Memory.wf (Tab.putList (0 : Byte) m k l) = true := Tab.wf_putList _ _ _ _ h

theorem Memory.wf_clearRange (m : List Host.Cell) (lo hi : Nat) (h : Memory.wf m = true) :
    Memory.wf (Tab.clearRange m lo hi) = true := Tab.wf_clearRange _ _ _ _ h

/-! ### Runs of cells -/

theorem Tab.get_putList_out (d e : V) (t : Tab V) (k j : Nat) (l : List V) (h : j < k ∨ k + l.length ≤ j) :
    Tab.get e (Tab.putList d t k l) j = Tab.get e t j := by
  induction l generalizing t k with
  | nil => rfl
  | cons v r ih =>
    simp only [Tab.putList]
    rw [ih _ _ (by simp at h; omega), Tab.get_put_ne d e t v (by simp at h; omega)]

theorem Tab.get_putList_in (d : V) (t : Tab V) (k i : Nat) (l : List V) (h : i < l.length) :
    Tab.get d (Tab.putList d t k l) (k + i) = l[i] := by
  induction l generalizing t k i with
  | nil => simp at h
  | cons v r ih =>
    simp only [Tab.putList]
    cases i with
    | zero => rw [Nat.add_zero, Tab.get_putList_out d d _ _ _ _ (Or.inl (by omega))]; simp
    | succ i =>
      have := ih (Tab.put d t k v) (k + 1) i (by simpa using h)
      rw [show k + (i + 1) = k + 1 + i by omega, this]; simp

theorem Tab.slice_putList (d : V) (t : Tab V) (k : Nat) (l : List V) :
    Tab.slice d (Tab.putList d t k l) k l.length = l := by
  induction l generalizing t k with
  | nil => rfl
  | cons v r ih =>
    simp only [List.length_cons, Tab.slice, Tab.putList]
    rw [ih, Tab.get_putList_out d d _ _ _ _ (Or.inl (by omega))]; simp

omit [DecidableEq V] in
theorem Tab.get_clearRange (d : V) (t : Tab V) (lo hi k : Nat) :
    Tab.get d (Tab.clearRange t lo hi) k = if lo ≤ k ∧ k < hi then d else Tab.get d t k := by
  induction t with
  | nil => simp [Tab.clearRange, Tab.get]
  | cons e r ih =>
    obtain ⟨j, w⟩ := e
    by_cases hj : lo ≤ j ∧ j < hi
    · have : Tab.clearRange ((j, w) :: r) lo hi = Tab.clearRange r lo hi := by simp [Tab.clearRange, hj]
      rw [this, ih]
      split
      · rfl
      · rename_i h; rw [Tab.get, if_neg]; rintro rfl; exact h hj
    · have : Tab.clearRange ((j, w) :: r) lo hi = (j, w) :: Tab.clearRange r lo hi := by
        simp [Tab.clearRange, List.filter_cons]; omega
      rw [this]
      simp only [Tab.get, ih]
      by_cases hk : j = k
      · subst hk; simp [hj]
      · simp [hk]

end Sys2Proof.Machine
end

