-- ==== Sys2Proof/Safety.lean ====
section
/-!
DEFINITION. Safety.lean: the terms in which the claims are stated: what a step answers, which register cells follow other state,
what a command may change, and when an access meets nothing on its way.
-/
namespace Sys2Proof.Machine

/-- One step answers a next state. -/
def Steps (s t : State) : Prop := step s = .next t

/-- A step that neither faults nor is refused. -/
def SafeStep (s : State) : Prop := ∃ t, Steps s t

/-- The cells that `settle` brings in line with other state at the end of every step: the levels of GLOBAL and POWER, the two
SAFE causes that persist, and the event of the queues' common quiescence. -/
def levelKeys : List Nat :=
  [POWER.DOMAIN_STATE_UPL, POWER.COMMITTED_TOKENS, POWER.COMMITTED_WAITING, POWER.RESERVE_RESERVE_USED, POWER.ESTIMATE_LIMIT_MW,
   POWER.WAIT_HEAD_VALID, POWER.WAIT_HEAD_INDEX, POWER.WAIT_HEAD_PRIO, GLOBAL.ROLE_DRAM_READY, GLOBAL.MODE_TIME_READY,
   GLOBAL.MODE_DOMAINS_READY, GLOBAL.SAFE_CAUSE_THERMAL, GLOBAL.SAFE_CAUSE_CORE_PLL].map (fun r => r.key 0 0) ++
    [cellKey 0x050 0x010 0 0]

/-- The cell of a header field of a page. -/
def HdrRow.key (r : HdrRow) (page : Nat) : Nat := cellKey page r.off r.lo 0

/-- The cell of the PAGE_EVT word of an event's page. -/
def Evt.key (e : Evt) (n : Nat) : Nat := HDR.EVT.key (e.cls.base + n)

/-- Every register cell but those of `own`, and the levels, reads in `d` as it reads in `c`. -/
def Chip.KeepsCells (c d : Chip) (own : List Nat) : Prop :=
  ∀ k v, k ∉ own → k ∉ levelKeys → Tab.get v d.regs k = Tab.get v c.regs k

/-- `d` is `c` but for the register cells of `own` and the levels: every memory, queue, buffer and timer of the block is as it
was. Not named are the record of the W1C bits that hardware has set in this clock (R18) and the SRAM error record (R420),
which go with the cells and the memories that a command writes. -/
def Chip.OnlyRegs (c d : Chip) (own : List Nat) : Prop :=
  (∃ regs q h e, d = { c with regs := regs, hostq := { c.hostq with allQ := q }, hwSet := h, ecc := e }) ∧ c.KeepsCells d own

/-- The command answers a next state: its queue is as it was, its block is `d` but for the register cells of `own` and the
levels, and `ok` holds of its block. -/
def Becomes (i : Instr) (s : State) (d : Chip) (own : List Nat) (ok : Chip → Prop) : Prop :=
  ∃ t, exec i s = .next t ∧ t.pending = s.pending ∧ d.OnlyRegs t.chip own ∧ ok t.chip

/-- The command answers a next state `t` that differs from `s` in register cells only: those of `own`, of which `ok` holds, and
the levels. -/
def SetsRegs (i : Instr) (s : State) (own : List Nat) (ok : Chip → Prop) : Prop := Becomes i s s.chip own ok

/-- The command answers a next state that differs from `s` in the state `st` of port `p`, in the register cells of `own` and in
the levels only, and `ok` holds of its block. -/
def SetsPort (i : Instr) (s : State) (p : Port) (st : PortState) (own : List Nat) (ok : Chip → Prop) : Prop :=
  ∃ t, exec i s = .next t ∧ t.pending = s.pending ∧ ({ s.chip with ports := t.chip.ports } : Chip).OnlyRegs t.chip own ∧
    t.chip.portState p = st ∧ (∀ q, q ≠ p → t.chip.portState q = s.chip.portState q) ∧ ok t.chip

/-- The command answers a next state with the same queue, and `ok` holds of its block. -/
def Ends (i : Instr) (s : State) (ok : Chip → Prop) : Prop := ∃ t, exec i s = .next t ∧ t.pending = s.pending ∧ ok t.chip

/-- The command answers a next state in which nothing has changed but the levels. -/
def Idles (i : Instr) (s : State) : Prop := SetsRegs i s [] fun _ => True

/-- The cell that holds the event bit of a Tally source. -/
def TallySrc.cell : TallySrc → Option Nat
  | .evt p _ => some (evtKey p)
  | .cr r => some ((if r < 32 then HOSTQ.CR_EVT_LO_WRITTEN else HOSTQ.CR_EVT_HI_WRITTEN).key 0 0)
  | .sqGroup _ => some (HOSTQ.SQ_GRP_EVT_ATTN.key 0 0)
  | .reserved => none

/-- Hardware has set the event bit of a Tally source in this clock (R18). -/
def Chip.srcSet (c : Chip) (s : TallySrc) : Bool :=
  match s with
  | .evt p b => (Tab.get 0 c.hwSet (evtKey p)).testBit b
  | .cr r => (Tab.get 0 c.hwSet ((if r < 32 then HOSTQ.CR_EVT_LO_WRITTEN else HOSTQ.CR_EVT_HI_WRITTEN).key 0 0)).testBit (r % 32)
  | .sqGroup g => (Tab.get 0 c.hwSet (HOSTQ.SQ_GRP_EVT_ATTN.key 0 0)).testBit g
  | .reserved => false

/-- Event `e` is raised in `d`, unless its domain was down in `c` (R413). -/
def Chip.Tells (c d : Chip) (e : Evt) (n : Nat := 0) : Prop := c.domUp e.cls.domain = true → d.raised e n = true

/-- The cells that re-evaluating the class-7 registers writes (R300, R302, R303). -/
def c7Keys : List Nat :=
  EV.REEL_C7_LOST0.key 0 :: (List.range 4).flatMap fun n =>
    [REELGATE.C7_COND_FAIL, REELGATE.C7_COND_OK, REELGATE.C7_GATE_WAIT_NS, REELGATE.C7_OPEN_FRACTION,
     REELGATE.C7_RATE_SUM_KBPS, REELGATE.C7_BURST_SUM_CNS].map fun r => r.key n 0

/-- The two memories of the block, the port state, the tables that hosts load, and what has been written to the host are in `d` as
they are in `c`. -/
def Chip.SameStores (c d : Chip) : Prop :=
  d.dram = c.dram ∧ d.segBuf = c.segBuf ∧ d.segTables = c.segTables ∧ d.flyTables = c.flyTables ∧ d.drift = c.drift ∧
    d.ports = c.ports ∧ d.hostWrites = c.hostWrites ∧ d.aon = c.aon ∧ d.now = c.now

/-- BUS_ERR records an access to offset `off` of a page through port `p` (Table 12.9). -/
def Chip.BusErrIs (d : Chip) (page off : Nat) (p : Port) : Prop :=
  d.fld GLOBAL.BUS_ERR_PAGE = page ∧ d.fld GLOBAL.BUS_ERR_OFFSET = off ∧ d.fld GLOBAL.BUS_ERR_PORT = p.code ∧ d.fld GLOBAL.BUS_ERR_VALID = 1

/-- No SRAM word that the register shows is bad. -/
def Chip.ReadsGood (c : Chip) (cls : PageCls) (n off : Nat) : Prop := ∀ b ∈ c.ecc.bad, c.shows cls n off b.word = false

/-- A word for PAGE_SEAL with the key and operation `op` (Table 12.4). -/
def sealWord (op : Nat) (v : Word) : Prop := bitsOf v.toNat 31 16 = 0x5EA1 ∧ bitsOf v.toNat 3 2 = op

/-- The cells of a page's PAGE_ERRCNT. -/
def errKeys (page : Nat) : List Nat := [HDR.ERRCNT_COUNT.key page, HDR.ERRCNT_LAST_OFFSET.key page, HDR.ERRCNT_LAST_PORT.key page]

/-- PAGE_ERRCNT of the page counts one access more (Table 12.4). -/
def Chip.Counted (c d : Chip) (page off : Nat) (p : Port) : Prop :=
  d.hdr HDR.ERRCNT_COUNT page = min (c.hdr HDR.ERRCNT_COUNT page + 1) 65535 ∧ d.hdr HDR.ERRCNT_LAST_OFFSET page = off ∧
    d.hdr HDR.ERRCNT_LAST_PORT page = p.code

/-- An access through port `p` reaches the page and meets nothing on its way: its domain is ON, and no unseal is armed. -/
structure Chip.Open (c : Chip) (p : Port) (cls : PageCls) (n : Nat) : Prop where
  reaches : c.reaches p = true
  page : pageOf (cls.base + n) = some (cls, n)
  unarmed : c.armOf p (cls.base + n) = none
  up : c.domUp cls.domain = true
  awake : c.pageLight cls = false

/-- The registers that follow other state agree with it: those of GLOBAL and POWER (R49, R53, R58, R73, R74, R80, R85, R86, Tables 02.7,
02.10 and 02.11), and the quiescence of the submission queues, of each as SQ_STATUS reads it and of all (R362). -/
structure Chip.LevelsAgree (c : Chip) : Prop where
  committed : c.fld POWER.COMMITTED_TOKENS = c.committed % 512
  waiting : c.fld POWER.COMMITTED_WAITING = c.power.waiting.length % 256
  reserveUsed : c.fld POWER.RESERVE_RESERVE_USED = c.reserveUsed % 256
  limit : c.fld POWER.ESTIMATE_LIMIT_MW = 168 * c.fld POWER.CEILING_TOKENS % 65536
  headValid : c.on POWER.WAIT_HEAD_VALID = c.headReq.isSome
  headIndex : ∀ r, c.headReq = some r → c.fld POWER.WAIT_HEAD_INDEX = LeaveOp.index r.op
  headPrio : ∀ r, c.headReq = some r → c.fld POWER.WAIT_HEAD_PRIO = r.prio % 4
  uplinks : c.dom .upl = if (List.range 4).any fun n => c.uplinkOn n then domON else domOFF
  timeReady : c.on GLOBAL.MODE_TIME_READY = c.timeReady
  dramReady : c.on GLOBAL.ROLE_DRAM_READY = c.dramReady
  domainsReady : c.on GLOBAL.MODE_DOMAINS_READY = c.domainsReady
  thermal : c.modes.thermTripped = true → c.fld GLOBAL.SAFE_CAUSE_THERMAL = 1
  corePll : c.modes.corePllLock = false → c.dom .core = domON → c.fld GLOBAL.SAFE_CAUSE_CORE_PLL = 1
  allQuiescent : c.hostq.allQ = c.allQuiescent
  quiescent : (c.readValue .hostq 0 HOSTQ.SQ_STATUS_STATE.off).testBit HOSTQ.SQ_STATUS_QUIESCENT.lo =
    c.sqQuiescent (c.fld HOSTQ.SQ_SEL_SQ)

/-- The cells that a latch of the straps writes (R55, R63, R400, R438), and those that a calibration of the TDCs writes (R94). -/
def strapKeys : List Nat :=
  EV.GLOBAL_STRAP_INVALID.key 0 :: [GLOBAL.STRAPS_ROLE, GLOBAL.STRAPS_BOOT_SRC, GLOBAL.STRAPS_HEADLESS, GLOBAL.STRAPS_SPI_ADDR,
    GLOBAL.MODE_CFG_AUTO_RUN, GLOBAL.MODE_CFG_AUTO_EXIT_SAFE, HANK.CFG_REMOTE_EN, GLOBAL.ROLE_STRAP_ROLE, GLOBAL.ROLE_ROLE,
    GLOBAL.ROLE_SETTLED].map fun r => r.key 0 0
def tdcKeys : List Nat :=
  EV.WHORL_TDC_CAL_FAIL.key 0 :: [WHORL.TDC_STATUS_CAL_OK, WHORL.TDC_STATUS_FAILS].map fun r => r.key 0 0

/-- The straps as latched: STRAPS, the role that follows them, and what the headless strap sets (R55, R63, R400, R438). -/
structure Chip.Latched (c d : Chip) (st : Straps) : Prop where
  role : d.fld GLOBAL.STRAPS_ROLE = st.role.toNat
  bootSrc : d.on GLOBAL.STRAPS_BOOT_SRC = st.bootSrc
  headless : d.on GLOBAL.STRAPS_HEADLESS = st.headless
  spiAddr : d.fld GLOBAL.STRAPS_SPI_ADDR = st.spiAddr.toNat
  strapRole : d.fld GLOBAL.ROLE_STRAP_ROLE = st.role.toNat
  newRole : d.fld GLOBAL.ROLE_ROLE = if st.role = 1 then 1 else 0
  settled : d.on GLOBAL.ROLE_SETTLED = (st.role != 2)
  autoRun : d.on GLOBAL.MODE_CFG_AUTO_RUN = st.headless
  autoExit : d.on GLOBAL.MODE_CFG_AUTO_EXIT_SAFE = st.headless
  remote : d.on HANK.CFG_REMOTE_EN = st.headless
  invalid : st.role = 3 → c.Tells d EV.GLOBAL_STRAP_INVALID

/-- The block as it is when power is applied, but for what lies outside it: the levels of PERST_N and of the supplies, what has been
written to host memory, and how many free values have been drawn. -/
def Chip.cleared (c : Chip) (free : Nat) : Chip :=
  { freeCtr := free, hostWrites := c.hostWrites,
    modes := { perst := c.modes.perst, holdPorst := c.modes.holdPorst, holdSupply := c.modes.holdSupply,
               segSupplyBad := c.modes.segSupplyBad } }

/-- The cells that mode RESET gives another value than their reset value: the mode, and the domains, all OFF but AON (Table 02.2). -/
def resetKeys : List Nat :=
  [GLOBAL.MODE_MODE, POWER.DOMAIN_STATE_CORE, POWER.DOMAIN_STATE_HOST, POWER.DOMAIN_STATE_MEM].map fun r => r.key 0 0
def Chip.InReset (d : Chip) : Prop := d.mode = mRESET ∧ ∀ dm, dm ≠ .aon → d.dom dm = domOFF

/-- Every register of a page in the domains AON and SEG reads as it did, but for the levels. -/
def Chip.KeepsAon (c d : Chip) : Prop :=
  ∀ page cls n k v, pageOf page = some (cls, n) → cls.domain = .aon ∨ cls.domain = .seg → k / 2 ^ 33 = page → k ∉ levelKeys →
    Tab.get v d.regs k = Tab.get v c.regs k

/-- Counter `r` of the page instance has counted `k` more, up to its largest value. -/
def Chip.Counts (c d : Chip) (r : FieldRow) (n : Nat := 0) (k : Nat := 1) : Prop :=
  d.fld r n = min (c.fld r n + k) (2 ^ r.width - 1)

/-- Every register cell outside the pages reads in `d` as in `c`, but for the levels. -/
def Chip.KeepsPages (c d : Chip) (pages : List Nat) : Prop :=
  ∀ k v, k / 2 ^ 33 ∉ pages → k ∉ levelKeys → Tab.get v d.regs k = Tab.get v c.regs k

/-- Engine `n` has asked its MAC for a frame of Skein type `typ` from time `start` on. -/
def Chip.Sends (d : Chip) (n start typ : Nat) : Prop :=
  ∃ f, (d.eng n).lastTx = some { start := start, octets := f } ∧ (f.getD 14 0).toNat = 0x10 + typ ∧
    (d.eng n).txEnd = start + airtime f.length * nsQ

/-- The last frame that engine `n` has asked its MAC for carries `body`. -/
def Chip.Carries (d : Chip) (n : Nat) (body : List Byte) : Prop :=
  ∃ f, (d.eng n).lastTx = some f ∧ (f.octets.drop 22).take body.length = body

/-- Entry `k` of the drift table of segment `n` after one more frame that started `x` ns from its nominal start; `src` is the source
address of an accepted frame (R188, R189). -/
def Chip.DriftTakes (c d : Chip) (n k : Nat) (x : Int) (src : Option Nat) : Prop :=
  let r := c.driftRec n k
  let r' := d.driftRec n k
  r'.valid = true ∧ r'.last = x ∧ r'.samples = (r.samples + 1) % 65536 ∧ r'.mac = src.getD r.mac ∧
    r'.min_ = (if r.valid then min r.min_ x else x) ∧ r'.max_ = (if r.valid then max r.max_ x else x) ∧
    r'.avg = (if r.valid then r.avg + (x - r.avg) / (2 ^ min 8 (c.fld FLYER.DRIFT_CFG_AVG_SHIFT n) : Nat) else x) ∧
    (r'.warn = true ↔ c.fld FLYER.DRIFT_CFG_WARN_NS n < r'.avg.natAbs) ∧
    (r'.warn = true → r.warn = false → d.fld FLYER.FAULT_STATUS_DRIFT_WARN n = 1 ∧ c.Tells d EV.FLYER_GUARD_EVENT n)

/-- A window fault of node `k`, whose frame started `x` ns from its nominal start (R187). -/
def Chip.FaultsWindow (c d : Chip) (n k : Nat) (x : Int) : Prop :=
  c.DriftTakes d n k x none ∧ c.Counts d FLYER.WIN_FAULTS_COUNT n ∧ d.fld FLYER.FAULT_STATUS_WIN_FAULT n = 1 ∧
    c.Tells d EV.FLYER_GUARD_EVENT n ∧
    (x < 0 → (d.driftRec n k).early = min 65535 ((c.driftRec n k).early + 1) ∧ (d.driftRec n k).late = (c.driftRec n k).late) ∧
    (0 ≤ x → (d.driftRec n k).late = min 65535 ((c.driftRec n k).late + 1) ∧ (d.driftRec n k).early = (c.driftRec n k).early)

/-- A received segment frame that keeps the MAC's checks and is a Skein frame of VER 1 and type `typ` (R220, R131). -/
def SegFrameOk (octets : List Byte) (typ : Nat) : Prop :=
  let f := parseSeg (octets.take (octets.length - 4))
  64 ≤ octets.length ∧ octets.length ≤ 1522 ∧
    crc32 (octets.take (octets.length - 4)) = leNat (octets.drop (octets.length - 4)) ∧ f.skein = true ∧ f.ver = 1 ∧ f.typ = typ

/-- The engine is in LISTEN with no cycle, and its listen timer runs from now (R157). -/
def Chip.Listens (c d : Chip) (n : Nat) : Prop :=
  d.seg n = sgLISTEN ∧ d.on SEGMENT.SYNC_STATUS_ACTIVE n = false ∧ (d.eng n).anchored = false ∧ d.fld SEGMENT.CS_STATUS_TRIAL_LEFT n = 0 ∧
    (d.eng n).listenEnd = some (c.now + (2 * max (min (c.fld SEGMENT.CS_CFG_MAX_CYCLE_US n) 100000 * 1000)
      (c.fld SEGMENT.OPER_CYCLE_LEN_NS n) + c.fld SEGMENT.NODE_CFG_NODE_ID n * 10000) * nsQ)

end Sys2Proof.Machine
end

