-- ==== Sys2Proof/Laws/Ops.lean ====
section
/-!
SUPPORT. Laws/Ops.lean: what a register field reads as after each named operation, and what the shared operations do.
-/
namespace Sys2Proof.Machine

variable (c : Chip)

/-! ### Cells -/

theorem cellKey_inj {p p' o o' l l' i i' : Nat} (ho : o < 4096) (ho' : o' < 4096) (hl : l < 32) (hl' : l' < 32)
    (hi : i < 65536) (hi' : i' < 65536) :
    cellKey p o l i = cellKey p' o' l' i' ↔ p = p' ∧ o = o' ∧ l = l' ∧ i = i' := by
  unfold cellKey
  omega

@[simp] theorem Chip.fld_setFld_self (r : FieldRow) (v n i : Nat) : (c.setFld r v n i).fld r n i = v % 2 ^ r.width :=
  Tab.get_put_self _ _ _ _

theorem Chip.get_setFld_ne (r : FieldRow) (v n i e : Nat) {k : Nat} (h : k ≠ r.key n i) :
    Tab.get e (c.setFld r v n i).regs k = Tab.get e c.regs k := Tab.get_put_ne _ _ _ _ h

theorem Chip.get_setHdr_ne (r : HdrRow) (page v e : Nat) {k : Nat} (h : k ≠ r.key page) :
    Tab.get e (c.setHdr r page v).regs k = Tab.get e c.regs k := Tab.get_put_ne _ _ _ _ h

theorem Chip.fld_setFld_ne (r q : FieldRow) (v n i m j : Nat) (h : q.key m j ≠ r.key n i) :
    (c.setFld r v n i).fld q m j = c.fld q m j := c.get_setFld_ne r v n i _ h

theorem Chip.fld_setHdr_ne (r : HdrRow) (q : FieldRow) (page v m j : Nat) (h : q.key m j ≠ r.key page) :
    (c.setHdr r page v).fld q m j = c.fld q m j := c.get_setHdr_ne r page v _ h

@[simp] theorem Chip.hdr_setHdr_self (r : HdrRow) (page v : Nat) : (c.setHdr r page v).hdr r page = v % 2 ^ (r.hi - r.lo + 1) :=
  Tab.get_put_self _ _ _ _

theorem Chip.hdr_setHdr_ne (r q : HdrRow) (page v page' : Nat) (h : q.key page' ≠ r.key page) :
    (c.setHdr r page v).hdr q page' = c.hdr q page' := c.get_setHdr_ne r page v _ h

theorem Chip.hdr_setFld_ne (r : FieldRow) (q : HdrRow) (v n i page : Nat) (h : q.key page ≠ r.key n i) :
    (c.setFld r v n i).hdr q page = c.hdr q page := c.get_setFld_ne r v n i _ h

/-! ### Events -/

@[simp] theorem Chip.hwMark_regs (key v : Nat) : (c.hwMark key v).regs = c.regs := rfl
@[simp] theorem Chip.fld_hwMark (key v : Nat) (q : FieldRow) (m j : Nat) : (c.hwMark key v).fld q m j = c.fld q m j := rfl
@[simp] theorem Chip.hdr_hwMark (key v : Nat) (q : HdrRow) (page : Nat) : (c.hwMark key v).hdr q page = c.hdr q page := rfl

/-- What a host write leaves of a W1C cell of which hardware has set no bit in this clock: the bits written as 1 are 0, the others
are as they were. -/
theorem Chip.w1cLeft_quiet (key cur v : Nat) (h : Tab.get 0 c.hwSet key = 0) : c.w1cLeft key cur v = cur ^^^ (cur &&& v) := by
  simp [Chip.w1cLeft, h]

theorem Chip.get_raise_ne (e : Evt) (n v : Nat) {k : Nat} (h : k ≠ e.key n) :
    Tab.get v (c.raise e n).regs k = Tab.get v c.regs k := by
  unfold Chip.raise
  split
  · exact c.get_setHdr_ne _ _ _ _ h
  · rfl

theorem Chip.fld_raise_ne (e : Evt) (n : Nat) (q : FieldRow) (m j : Nat) (h : q.key m j ≠ e.key n) :
    (c.raise e n).fld q m j = c.fld q m j := c.get_raise_ne e n _ h

/-- An event of a block that is up is raised. -/
theorem Chip.raised_raise (e : Evt) (n : Nat) (hb : e.bit < 32) (hup : c.domUp e.cls.domain = true) :
    (c.raise e n).raised e n = true := by
  unfold Chip.raise Chip.raised
  rw [if_pos hup, Chip.hdr_hwMark, Chip.hdr_setHdr_self, Nat.testBit_mod_two_pow, Nat.testBit_or, Nat.testBit_two_pow_self]
  simpa [HDR.EVT] using hb

/-! ### SRAM words -/

@[simp] theorem Chip.sramWrite_regs (store : Nat) (w : SramWord) : (c.sramWrite store w).regs = c.regs := rfl
@[simp] theorem Chip.fld_sramWrite (store : Nat) (w : SramWord) (q : FieldRow) (m j : Nat) :
    (c.sramWrite store w).fld q m j = c.fld q m j := rfl
@[simp] theorem Chip.hdr_sramWrite (store : Nat) (w : SramWord) (q : HdrRow) (page : Nat) :
    (c.sramWrite store w).hdr q page = c.hdr q page := rfl

/-- A read that meets no bad word reports none and changes nothing. -/
theorem Chip.sramRead_good (id : Option Nat) (reads : SramWord → Bool) (h : ∀ b ∈ c.ecc.bad, reads b.word = false) :
    c.sramRead id reads = (c, []) := by
  have hl : (c.ecc.bad.filter fun b => reads b.word) = [] := List.filter_eq_nil_iff.mpr fun b hb => by simp [h b hb]
  simp only [Chip.sramRead, hl, List.foldl_nil, List.filter_nil]

/-- The read of a register that shows no bad word, and latches none, finds none. -/
theorem Chip.windowRead_good (cls : PageCls) (n off : Nat) (h : c.ReadsGood cls n off) (h4 : c.ReadsGood cls n (off + 4)) :
    c.windowRead cls n off = c := by
  rw [Chip.windowRead, c.sramRead_good none _ fun b hb => by simp [h b hb, h4 b hb]]
  rfl

/-! ### settle -/

/-- A cell that is none of those set keeps its value. -/
theorem Chip.get_setAll (l : List (FieldRow × Nat)) (k v : Nat) (h : ∀ e ∈ l, k ≠ e.1.key 0 0) :
    Tab.get v (c.setAll l).regs k = Tab.get v c.regs k := by
  induction l generalizing c with
  | nil => rfl
  | cons e r ih =>
    rw [Chip.setAll, List.foldl_cons]
    exact (ih _ (fun x hx => h x (by simp [hx]))).trans (c.get_setFld_ne _ _ _ _ _ (h e (by simp)))

/-- A field that is set once reads as it was set. -/
theorem Chip.fld_setAll (l : List (FieldRow × Nat)) (r : FieldRow) (v : Nat) (hm : (r, v) ∈ l)
    (hn : (l.map fun e => e.1.key 0 0).Nodup) : (c.setAll l).fld r = v % 2 ^ r.width := by
  induction l generalizing c with
  | nil => simp at hm
  | cons e l ih =>
    rw [List.map_cons, List.nodup_cons] at hn
    rw [Chip.setAll, List.foldl_cons]
    rcases List.mem_cons.mp hm with rfl | hm
    · have : ∀ x ∈ l, r.key 0 0 ≠ x.1.key 0 0 := fun x hx e => hn.1 (by rw [e]; exact List.mem_map.mpr ⟨x, hx, rfl⟩)
      exact (Chip.get_setAll _ l _ _ this).trans (c.fld_setFld_self r v 0 0)
    · exact ih _ hm hn.2

/-- The levels that are always brought in line, and the causes that may be held. -/
def levelRows : List FieldRow := [POWER.DOMAIN_STATE_UPL, POWER.COMMITTED_TOKENS, POWER.COMMITTED_WAITING,
  POWER.RESERVE_RESERVE_USED, POWER.ESTIMATE_LIMIT_MW, POWER.WAIT_HEAD_VALID, POWER.WAIT_HEAD_INDEX,
  POWER.WAIT_HEAD_PRIO, GLOBAL.ROLE_DRAM_READY, GLOBAL.MODE_TIME_READY, GLOBAL.MODE_DOMAINS_READY]

def causeRows : List FieldRow := [GLOBAL.SAFE_CAUSE_THERMAL, GLOBAL.SAFE_CAUSE_CORE_PLL]

theorem levelRows_nodup : ((levelRows ++ causeRows).map fun r => r.key 0 0).Nodup := by decide

theorem levelRows_keys : ∀ r ∈ levelRows ++ causeRows, r.key 0 0 ∈ levelKeys := by decide

theorem Chip.levelValues_rows : c.levelValues.map Prod.fst = levelRows := rfl

theorem Chip.heldCauses_rows : (c.heldCauses.map Prod.fst).Sublist causeRows := by
  unfold Chip.heldCauses
  split_ifs <;> simp [causeRows]

theorem Chip.levels_rows : ((c.levelValues ++ c.heldCauses).map Prod.fst).Sublist (levelRows ++ causeRows) := by
  rw [List.map_append, c.levelValues_rows]
  exact (List.Sublist.refl _).append c.heldCauses_rows

/-- The keys of the levels are distinct. -/
theorem Chip.levels_nodup : ((c.levelValues ++ c.heldCauses).map fun e => e.1.key 0 0).Nodup := by
  have h := (c.levels_rows.map fun r => r.key 0 0).nodup levelRows_nodup
  rwa [List.map_map] at h

theorem Chip.levels_mem {k : Nat} (h : k ∉ levelKeys) : ∀ e ∈ c.levelValues ++ c.heldCauses, k ≠ e.1.key 0 0 :=
  fun _ he hk => h (by rw [hk]; exact levelRows_keys _ (c.levels_rows.subset (List.mem_map_of_mem he)))

/-- The levels change their own cells only. -/
theorem Chip.levels_keeps (k v : Nat) (h : k ∉ levelKeys) : Tab.get v c.levels.regs k = Tab.get v c.regs k :=
  c.get_setAll _ k v (c.levels_mem h)

/-- What a level reads as after a step. -/
theorem Chip.fld_levels (r : FieldRow) (v : Nat) (h : (r, v) ∈ c.levelValues ++ c.heldCauses) :
    c.levels.fld r = v % 2 ^ r.width := c.fld_setAll _ r v h c.levels_nodup

/-- `settle` changes the cells of `levelKeys` only. -/
theorem Chip.get_settle (k v : Nat) (h : k ∉ levelKeys) : Tab.get v c.settle.regs k = Tab.get v c.regs k := by
  rw [Chip.settle, Chip.levels_keeps _ k v h]
  unfold Chip.quiescentRise
  simp only
  split_ifs
  · exact c.get_raise_ne _ _ _ (fun e => h (e ▸ by decide))
  · rfl

theorem Chip.fld_settle (q : FieldRow) (m j : Nat) (h : q.key m j ∉ levelKeys) : c.settle.fld q m j = c.fld q m j :=
  c.get_settle _ _ h

theorem Chip.hdr_settle (q : HdrRow) (page : Nat) (h : q.key page ∉ levelKeys) : c.settle.hdr q page = c.hdr q page :=
  c.get_settle _ _ h

/-! ### Commands -/

theorem run_eq (f : Chip → Chip) (s : State) : run f s = .next { s with chip := (s.chip.eccTake (f s.chip)).settle } := rfl

/-- What an SRAM error injection takes of a change is its own record. -/
theorem Chip.eccTake_frame (d : Chip) : ∃ e, c.eccTake d = { d with ecc := e } := ⟨(c.eccTake d).ecc, rfl⟩

@[simp] theorem Chip.eccTake_regs (d : Chip) : (c.eccTake d).regs = d.regs := rfl
@[simp] theorem Chip.eccTake_fld (d : Chip) (q : FieldRow) (m j : Nat) : (c.eccTake d).fld q m j = d.fld q m j := rfl
@[simp] theorem Chip.eccTake_hdr (d : Chip) (q : HdrRow) (page : Nat) : (c.eccTake d).hdr q page = d.hdr q page := rfl

/-- With no injection pending a change is taken as it is. -/
theorem Chip.eccTake_none (d : Chip) (h : c.ecc.inject = none) : c.eccTake d = d := by simp [Chip.eccTake, h]

theorem Chip.whenDue_true (f : Chip → Chip) {b : Bool} (h : b = true) : c.whenDue b f = f c := by simp [Chip.whenDue, h]
theorem Chip.whenDue_false (f : Chip → Chip) {b : Bool} (h : b = false) : c.whenDue b f = c := by simp [Chip.whenDue, h]

/-- An access that meets nothing on its way does what the register does. -/
theorem Chip.access_open {p : Port} {cls : PageCls} {n : Nat} (h : c.Open p cls n) (keepArm : Bool) (f : Chip → Chip) :
    c.access p (cls.base + n) keepArm f = f c := by
  have hd : c.disarmBy p (cls.base + n) = c := by simp [Chip.disarmBy, h.unarmed]
  have hw : c.wakeLight cls = c := by simp [Chip.wakeLight, h.awake]
  simp [Chip.access, h.reaches, h.page, hd, h.up, hw]

theorem Chip.accessField_open {p : Port} {r : FieldRow} {n : Nat} (h : c.Open p r.cls n) (f : Chip → Chip) :
    c.accessField p r n f = f c := c.access_open h false f

/-! ### Register-only changes -/

theorem Chip.OnlyRegs.refl (own : List Nat) : c.OnlyRegs c own := ⟨⟨c.regs, c.hostq.allQ, c.hwSet, c.ecc, rfl⟩, fun _ _ _ _ => rfl⟩

variable {c}

theorem Chip.OnlyRegs.setFld {d : Chip} {own : List Nat} (h : c.OnlyRegs d own) (r : FieldRow) (v n i : Nat)
    (hk : r.key n i ∈ own) : c.OnlyRegs (d.setFld r v n i) own := by
  obtain ⟨⟨g, q, w, x, e⟩, hc⟩ := h
  refine ⟨⟨(d.setFld r v n i).regs, q, w, x, by subst e; rfl⟩, fun k w h1 h2 => ?_⟩
  rw [Chip.get_setFld_ne _ _ _ _ _ _ (fun e => h1 (by rw [e]; exact hk)), hc k w h1 h2]

theorem Chip.OnlyRegs.setHdr {d : Chip} {own : List Nat} (h : c.OnlyRegs d own) (r : HdrRow) (page v : Nat)
    (hk : r.key page ∈ own) : c.OnlyRegs (d.setHdr r page v) own := by
  obtain ⟨⟨g, q, w, x, e⟩, hc⟩ := h
  refine ⟨⟨(d.setHdr r page v).regs, q, w, x, by subst e; rfl⟩, fun k w h1 h2 => ?_⟩
  rw [Chip.get_setHdr_ne _ _ _ _ _ (fun e => h1 (by rw [e]; exact hk)), hc k w h1 h2]

theorem Chip.OnlyRegs.hwMark {d : Chip} {own : List Nat} (h : c.OnlyRegs d own) (key v : Nat) :
    c.OnlyRegs (d.hwMark key v) own := by
  obtain ⟨⟨g, q, w, x, e⟩, hc⟩ := h
  exact ⟨⟨d.regs, q, (d.hwMark key v).hwSet, x, by subst e; rfl⟩, hc⟩

theorem Chip.OnlyRegs.raise {d : Chip} {own : List Nat} (h : c.OnlyRegs d own) (e : Evt) (n : Nat)
    (hk : e.key n ∈ own) : c.OnlyRegs (d.raise e n) own := by
  unfold Chip.raise
  split
  · exact (h.setHdr _ _ _ hk).hwMark _ _
  · exact h

theorem Chip.OnlyRegs.eccTake {b d : Chip} {own : List Nat} (h : c.OnlyRegs d own) : c.OnlyRegs (b.eccTake d) own := by
  obtain ⟨⟨g, q, w, x, e⟩, hc⟩ := h
  exact ⟨⟨d.regs, q, w, (b.eccTake d).ecc, by subst e; rfl⟩, hc⟩

theorem Chip.OnlyRegs.settle {d : Chip} {own : List Nat} (h : c.OnlyRegs d own) : c.OnlyRegs d.settle own := by
  obtain ⟨⟨g, q, w, x, e⟩, hc⟩ := h
  obtain ⟨g', q', w', e'⟩ := d.settle_frame
  refine ⟨⟨g', q', w', x, by rw [e', e]⟩, fun k w h1 h2 => ?_⟩
  rw [Chip.get_settle _ _ _ h2, hc k w h1 h2]

end Sys2Proof.Machine
end

