-- ==== Sys2Proof/Certificates/Slice0/Obligations.lean ====
section
/-!
DEFINITION. Certificates/Slice0/Obligations.lean: the statements for the provers.
-/
open Sys2Proof Sys2Proof.Machine

/-! ### Steps, the queue, and what every command answers -/

/-- A step takes the command at the front of the queue and runs it with the queue's rest. -/
def Obligations.StepTakesFront : Prop :=
  ∀ (c : Instr) (rest : List Instr) (s : State), step { s with pending := c :: rest } = exec c { s with pending := rest }

/-- On an empty queue one AON clock passes: monotonic time advances by INC + FREQ, clamped to 40 ns ± 1,000 ppm (R88). That the clock
passes on an empty queue is the model's choice (assumption log, entry 1). -/
def Obligations.EmptyQueueTicks : Prop :=
  ∀ s : State, s.pending = [] → s.chip.mode ≠ mRESET →
    ∃ t, step s = .next t ∧ t.pending = [] ∧ t.chip.aon = s.chip.aon + 1 ∧
      t.chip.now = s.chip.now + (max 0x27F5C28F5C (min 0x280A3D70A4
        ((s.chip.fld64 WHORL.INC_LO_FRAC WHORL.INC_HI_NS : Int) + signed 32 (s.chip.fld WHORL.FREQ_ADJ)))).toNat ∧
      t.chip.hostWrites = s.chip.hostWrites ∧ t.chip.dram = s.chip.dram ∧ t.chip.segBuf = s.chip.segBuf

/-- Every well-formed command on a word-aligned register answers a next state, and leaves the rest of the queue as it was. A command
stops only where its form does not exist, or where it breaks the alignment rule of R11. That these two stop, and how, is the model's
choice: R5 leaves the response undefined (assumption log, entry 12). -/
def Obligations.CommandsAnswerOrStop : Prop :=
  (∀ (c : Instr) (s : State), c.wf = true → c.aligned = true → ∃ t, exec c s = .next t ∧ t.pending = s.pending) ∧
  (∀ (c : Instr) (s : State),
    (c.wf = false → exec c s = .refused .illFormed) ∧
    (c.wf = true → c.aligned = false → exec c s = .fault .outsideContract))

/-- After every step, whatever the state before it, the registers that follow other state agree with it: the levels of GLOBAL
and POWER, TIME_READY, DOMAIN_STATE.UPL and WAIT_HEAD among them, and SQ_STATUS.QUIESCENT as it reads (R49, R53, R58, R73, R74, R80,
R85, R86, R362). -/
def Obligations.LevelsAgreeAfterEveryStep : Prop := ∀ s t : State, step s = .next t → t.chip.LevelsAgree

/-- The levels agree right after reset. That they do rests on the state at reset, which the model chooses where the spec gives no value
(assumption log, entries 4 and 24), and on the supply levels that the model takes to be good then (entry 87). -/
def Obligations.LevelsAgreeAtReset : Prop := State.reset.chip.LevelsAgree

/-! ### The register path (chapters 00 and 12) -/

/-- A write does to each field what its access code gives (R17, R19, R20). On the POWER page: every RW field takes the bits written, and
nothing else changes, but that the interval of R77 ends where COMMITTED is then at most CEILING. W1C, on FAULT_STATUS of a FLYER page and on PAGE_EVT: a bit written 1 clears, one written 0 stays, and a bit that
hardware has set in the same clock ends set (R18). WO, on WDOG_KICK, SNAP_CMD and DRIFT_CMD: it reads 0. RWS, on FLYER pages: unsealed
it takes the bits written; sealed it keeps what it holds, the write is counted, and SEALED_WRITE is raised; of CFG, which mixes RWS
and RW fields, the RW field takes what is written even then. A page number that Table 12.5 does not list has no registers: writes have no
effect, and reads answer 0 (R16, R417). -/
def Obligations.WritesFollowAccessCodes : Prop :=
  (∀ (s : State) (p : Port) (addr : PageAddr) (v : Word) (off : Nat), s.chip.Open p .power 0 →
    addr.toNat = PageCls.power.base * 4096 + off → 0x040 ≤ off → off < 4096 → off % 4 = 0 → off ≠ POWER.CEILING_TOKENS.off →
    ∃ cut, Becomes (.registerWrite p addr v) s { s.chip with power := { s.chip.power with ceilingCut := cut } }
      (((s.chip.fieldsAt .power off).filter fun h => h.1.acc == .rw).map fun h => h.1.key 0 h.2) fun d =>
      cut = (s.chip.power.ceilingCut && decide (d.fld POWER.CEILING_TOKENS < d.committed)) ∧
        ∀ h ∈ s.chip.fieldsAt .power off, h.1.acc = .rw → d.fld h.1 0 h.2 = bitsOf v.toNat h.1.hi h.1.lo) ∧
  (∀ (s : State) (p : Port) (n : Fin 96) (addr : PageAddr) (v : Word) (off : Nat), s.chip.Open p .flyer n.val →
    addr.toNat = (PageCls.flyer.base + n.val) * 4096 + off →
    (off = FLYER.FAULT_STATUS_TX_VIOLATION.off →
      let rows := FLYER.rows.filter fun r => r.off == off && r.acc == .w1c;
      SetsRegs (.registerWrite p addr v) s (rows.map fun r => r.key n.val 0) fun d => ∀ r ∈ rows, s.chip.fld r n.val < 2 →
        (v.toNat.testBit r.lo = false → d.fld r n.val = s.chip.fld r n.val) ∧
        (v.toNat.testBit r.lo = true →
          d.fld r n.val = if (Tab.get 0 s.chip.hwSet (r.key n.val 0)).testBit 0 then s.chip.fld r n.val else 0)) ∧
    (off = HDR.EVT.off →
      let page := PageCls.flyer.base + n.val;
      let old := s.chip.hdr HDR.EVT page;
      SetsRegs (.registerWrite p addr v) s [HDR.EVT.key page] fun d => ∀ b, b < 32 →
        (d.hdr HDR.EVT page).testBit b = (old.testBit b && (!v.toNat.testBit b || (Tab.get 0 s.chip.hwSet (evtKey page)).testBit b))) ∧
    (off ∈ [0x040, 0x044, 0x048, 0x04C, 0x050] →
      (s.chip.hdr HDR.SEAL_SEALED (PageCls.flyer.base + n.val) = 0 →
        SetsRegs (.registerWrite p addr v) s ((FLYER.rows.filter fun r => r.off == off).map fun r => r.key n.val 0) fun d =>
          ∀ r ∈ FLYER.rows, r.off = off → d.fld r n.val = bitsOf v.toNat r.hi r.lo) ∧
      (s.chip.hdr HDR.SEAL_SEALED (PageCls.flyer.base + n.val) ≠ 0 →
        SetsRegs (.registerWrite p addr v) s (EV.GLOBAL_SEALED_WRITE.key 0 :: (errKeys (PageCls.flyer.base + n.val) ++
          (FLYER.rows.filter fun r => r.off == off && r.acc == .rw).map fun r => r.key n.val 0)) fun d =>
          s.chip.Counted d (PageCls.flyer.base + n.val) off p ∧ s.chip.Tells d EV.GLOBAL_SEALED_WRITE ∧
            (∀ r ∈ FLYER.rows, r.off = off → r.acc = .rws → d.fld r n.val = s.chip.fld r n.val) ∧
            ∀ r ∈ FLYER.rows, r.off = off → r.acc = .rw → d.fld r n.val = bitsOf v.toNat r.hi r.lo))) ∧
  (∀ c : Chip, c.readValue .global 0 GLOBAL.WDOG_KICK_KEY.off = 0 ∧ c.readValue .whorl 0 WHORL.SNAP_CMD_GO.off = 0 ∧
    ∀ n, c.readValue .flyer n FLYER.DRIFT_CMD_GO.off = 0) ∧
  (∀ (s : State) (p : Port) (addr : PageAddr) (v : Word), s.chip.reaches p = true → addr.toNat % 4 = 0 →
    pageOf (addr.toNat / 4096) = none →
    Idles (.registerWrite p addr v) s ∧
    SetsPort (.loReadLatch p addr 15) s p { s.chip.portState p with data := 0 } [] (fun _ => True))

/-- A read of a _LO register answers it and latches its _HI partner for this port, and the next read of the partner through this port
answers the latched value, whatever the register holds by then (R14, R408). A write of a _LO register stages its value for the port and
changes nothing else (R15, R408); where the pair ignores writes, or is sealed, the write is counted and stages nothing (R19, R402). The
value that a port has staged for a _LO register takes effect, with the upper half, when the port writes the _HI register, and is used
up; a port that has staged nothing changes the upper half only (R15, R408). So for every pair: each writable field of either half takes
its bits, and the bulk addresses are multiples of 8 (Tables 07.13 and 11.16); for MIRROR_ADDR nothing else changes. A _HI write that is
ignored or refused leaves what is staged. When a latch and a staged value are used up, and that a _LO write is judged, too, is the
model's reading (assumption log, entries 13, 14 and 15). -/
def Obligations.PairedRegisters : Prop :=
  (∀ (s : State) (p : Port) (cls : PageCls) (n off : Nat) (addr : PageAddr), s.chip.Open p cls n → cls ≠ .dram →
    addr.toNat = (cls.base + n) * 4096 + off → 0x040 ≤ off → off < 4096 → off % 4 = 0 →
    (cls.isLo off = true → s.chip.ReadsGood cls n off → s.chip.ReadsGood cls n (off + 4) →
      SetsPort (.loReadLatch p addr 15) s p
        { s.chip.portState p with
          data := s.chip.readValue cls n off &&& 0xFFFFFFFF,
          latched := Tab.put none (s.chip.portState p).latched (addr.toNat + 4) (some (s.chip.readValue cls n (off + 4))) }
        [] fun _ => True) ∧
    (cls.isHi off = true → ∀ v, Tab.get none (s.chip.portState p).latched addr.toNat = some v →
      SetsPort (.loReadLatch p addr 15) s p
        { s.chip.portState p with
          data := v &&& 0xFFFFFFFF, latched := Tab.put none (s.chip.portState p).latched addr.toNat none }
        [] fun _ => True)) ∧
  (∀ (s : State) (p : Port) (cls : PageCls) (n off : Nat) (addr : PageAddr) (v : Word), s.chip.Open p cls n →
    addr.toNat = (cls.base + n) * 4096 + off → 0x040 ≤ off → off < 4096 → off % 4 = 0 → cls.isLo off = true →
    ∀ i ∈ [Instr.loWriteStage p addr v, Instr.registerWrite p addr v],
      (s.chip.regHeld cls n (off + 4) = false → s.chip.sealedAt cls n off = false →
        SetsPort i s p { s.chip.portState p with
          staged := Tab.put none (s.chip.portState p).staged addr.toNat (some v.toNat) } [] fun _ => True) ∧
      (s.chip.regHeld cls n (off + 4) = true → SetsRegs i s (errKeys (cls.base + n)) fun d => s.chip.Counted d (cls.base + n) off p) ∧
      (s.chip.regHeld cls n (off + 4) = false → s.chip.sealedAt cls n off = true →
        SetsRegs i s (EV.GLOBAL_SEALED_WRITE.key 0 :: errKeys (cls.base + n)) fun d => s.chip.Counted d (cls.base + n) off p ∧
          s.chip.Tells d EV.GLOBAL_SEALED_WRITE)) ∧
  (∀ (s : State) (p : Port) (cls : PageCls) (n off : Nat) (addr : PageAddr) (v : Word), s.chip.Open p cls n →
    addr.toNat = (cls.base + n) * 4096 + off → 0x040 ≤ off → off < 4096 → off % 4 = 0 → cls.isLo off = false → cls.isHi off = true →
    s.chip.regHeld cls n off = true →
    SetsRegs (.hiWriteCommit p addr v) s (errKeys (cls.base + n)) fun d => s.chip.Counted d (cls.base + n) off p) ∧
  (∀ (s : State) (p : Port) (cls : PageCls) (n off : Nat) (addr : PageAddr) (v : Word), s.chip.Open p cls n →
    addr.toNat = (cls.base + n) * 4096 + off → 0x040 ≤ off → off < 4096 → off % 4 = 0 → cls.isLo off = false → cls.isHi off = true →
    s.chip.regHeld cls n off = false →
    (s.chip.sealedAt cls n off = true → Ends (.hiWriteCommit p addr v) s fun d => s.chip.Counted d (cls.base + n) off p ∧
      d.portState p = s.chip.portState p ∧ ∀ h ∈ s.chip.fieldsAt cls off, h.1.acc = .rws → d.fld h.1 n h.2 = s.chip.fld h.1 n h.2) ∧
    (s.chip.sealedAt cls n off = false → Ends (.hiWriteCommit p addr v) s fun d =>
      d.portState p = { s.chip.portState p with staged := Tab.put none (s.chip.portState p).staged (addr.toNat - 4) none } ∧
      (∀ h ∈ s.chip.fieldsAt cls off, h.1.acc = .rw ∨ h.1.acc = .rws → d.fld h.1 n h.2 = bitsOf v.toNat h.1.hi h.1.lo) ∧
      ∀ h ∈ s.chip.fieldsAt cls (off - 4), h.1.acc = .rw ∨ h.1.acc = .rws →
        d.fld h.1 n h.2 = match Tab.get none (s.chip.portState p).staged (addr.toNat - 4) with
          | some l => bitsOf (if cls = .carder ∨ cls = .distaff then l / 8 * 8 else l) h.1.hi h.1.lo
          | none => s.chip.fld h.1 n h.2)) ∧
  (∀ (s : State) (p : Port) (addr : PageAddr) (v : Word), s.chip.Open p .tally 0 →
    addr.toNat = PageCls.tally.base * 4096 + TALLY.MIRROR_ADDR_LO_ADDR.off + 4 →
    SetsPort (.hiWriteCommit p addr v) s p
      { s.chip.portState p with staged := Tab.put none (s.chip.portState p).staged (addr.toNat - 4) none }
      [TALLY.MIRROR_ADDR_LO_ADDR.key 0 0, TALLY.MIRROR_ADDR_HI_ADDR.key 0 0] fun d =>
        d.fld TALLY.MIRROR_ADDR_HI_ADDR = v.toNat ∧
        d.fld TALLY.MIRROR_ADDR_LO_ADDR = match Tab.get none (s.chip.portState p).staged (addr.toNat - 4) with
          | some l => bitsOf l TALLY.MIRROR_ADDR_LO_ADDR.hi TALLY.MIRROR_ADDR_LO_ADDR.lo
          | none => s.chip.fld TALLY.MIRROR_ADDR_LO_ADDR)

/-- A BAR0 write with fewer than four byte enables is discarded and counted in the page's PAGE_ERRCNT (R12). -/
def Obligations.PartialWritesAreDiscarded : Prop :=
  ∀ (s : State) (cls : PageCls) (n off : Nat) (addr : PageAddr) (v : Word) (be : BitVec 4), s.chip.Open .bar0 cls n →
    addr.toNat = (cls.base + n) * 4096 + off → off < 4096 → off % 4 = 0 → be ≠ 15 →
    SetsRegs (.partialByteWrite addr v be) s (errKeys (cls.base + n)) fun d => s.chip.Counted d (cls.base + n) off .bar0

/-- An access to a page whose domain is OFF or DEEP does nothing to the page: a read answers 0 and a write is discarded, and either is
counted and raises OFF_DOMAIN_ACCESS (R52). An access to a page of CORE while a lane is in LIGHT wakes the lanes, raises WAKE_DONE, and
then completes: it does what it would do with the lanes awake (R52, R69, R70), here spelt out for a read of CARDER.PAGE_ID. That it is
carried out within the same command is the model's choice (assumption log, entry 18). -/
def Obligations.DownAndLightDomains : Prop :=
  (∀ (s : State) (p : Port) (cls : PageCls) (n off : Nat) (addr : PageAddr) (w : Option Word),
    s.chip.reaches p = true → pageOf (cls.base + n) = some (cls, n) → s.chip.armOf p (cls.base + n) = none →
    s.chip.domUp cls.domain = false → addr.toNat = (cls.base + n) * 4096 + off → off < 4096 → off % 4 = 0 →
    SetsPort (.offDomainAccess p addr w) s p
      (if w.isNone then { s.chip.portState p with data := 0 } else s.chip.portState p)
      [GLOBAL.OFF_DOMAIN_CNT_COUNT.key 0 0, EV.GLOBAL_OFF_DOMAIN_ACCESS.key 0] fun d =>
        d.fld GLOBAL.OFF_DOMAIN_CNT_COUNT = min (s.chip.fld GLOBAL.OFF_DOMAIN_CNT_COUNT + 1) (2 ^ 32 - 1) ∧
          s.chip.Tells d EV.GLOBAL_OFF_DOMAIN_ACCESS) ∧
  (∀ (s : State) (p : Port) (cls : PageCls) (n off : Nat) (addr : PageAddr) (w : Option Word), s.chip.reaches p = true →
    pageOf (cls.base + n) = some (cls, n) → cls.domain = .core → s.chip.dom .core = domON → s.chip.coreLight = true →
    s.chip.armOf p (cls.base + n) = none → addr.toNat = (cls.base + n) * 4096 + off → off < 4096 → off % 4 = 0 →
    let awake := ({ s.chip with modes := { s.chip.modes with laneLight := [], lightFrom := s.chip.now } }).raise EV.POWER_WAKE_DONE;
    ∃ t u, exec (.lightDomainAccess p addr w) s = .next t ∧ exec (.lightDomainAccess p addr w) { s with chip := awake } = .next u ∧
      t.pending = s.pending ∧ t.chip = { u.chip with ecc := t.chip.ecc }) ∧
  (∀ (s : State) (p : Port) (addr : PageAddr), s.chip.reaches p = true → s.chip.dom .core = domON → s.chip.coreLight = true →
    s.chip.armOf p PageCls.carder.base = none → addr.toNat = PageCls.carder.base * 4096 →
    Ends (.lightDomainAccess p addr none) s fun d =>
      d.modes = { s.chip.modes with laneLight := [], lightFrom := s.chip.now } ∧ (d.portState p).data = 0x20 + 2 ^ 16 + 2 ^ 20 ∧
        s.chip.Tells d EV.POWER_WAKE_DONE ∧ s.chip.KeepsCells d [EV.POWER_WAKE_DONE.key 0] ∧
        d.dram = s.chip.dram ∧ d.segBuf = s.chip.segBuf ∧ d.buffer = s.chip.buffer ∧ d.power = s.chip.power)

/-- A transaction of the SPI target whose DEV field is another part's is ignored (R410). One whose header is good carries its access out
once: a read and a write of any register have the effects they have as a register command through the port SPI, and status 0xA5 once
the octet that returns it is clocked; a read returns its data when the octets for it are clocked, and counts as an error otherwise. An
access that is not complete after 32 status octets has its effects, returns status 0xE2 and no data, and counts. One with a nonzero
reserved bit or a misaligned address is not carried out, returns status 0xE1 where the transaction reaches its status octet, and
counts; so does, without a status, a write cut short of its data (R410, R411). -/
def Obligations.SpiTransactionsAreJudged : Prop :=
  ∀ (s : State) (mosi : List Byte) (waits : Nat), s.chip.mode ≠ mRESET → mosi ≠ [] →
    let o := (mosi.getD 0 0).toNat
    let write := o % 2 = 1
    let addr := beNat ((mosi.drop 1).take 3)
    let access : Instr := if write then .registerWrite .spi (BitVec.ofNat _ addr) (BitVec.ofNat 32 (beNat ((mosi.drop 4).take 4)))
      else .loReadLatch .spi (BitVec.ofNat _ addr) 15
    let head := if write then 8 else 4
    let bad := bitsOf o 4 1 ≠ 0 ∨ (4 ≤ mosi.length ∧ addr % 4 ≠ 0)
    let err := [GLOBAL.SPI_ERRORS_COUNT.key 0 0, EV.GLOBAL_SPI_ERROR.key 0]
    let errs (c d : Chip) : Prop :=
      d.fld GLOBAL.SPI_ERRORS_COUNT = min (c.fld GLOBAL.SPI_ERRORS_COUNT + 1) (2 ^ 32 - 1) ∧ c.Tells d EV.GLOBAL_SPI_ERROR
    let carries (own : List Nat) (ok : State → State → Prop) : Prop :=
      ∃ t u, exec (.spiTransaction mosi waits) s = .next t ∧ exec access s = .next u ∧ t.pending = s.pending ∧
        ({ u.chip with ports := t.chip.ports } : Chip).OnlyRegs t.chip own ∧
        (∀ q, q ≠ .spi → t.chip.portState q = u.chip.portState q) ∧
        (t.chip.portState .spi).latched = (u.chip.portState .spi).latched ∧
        (t.chip.portState .spi).staged = (u.chip.portState .spi).staged ∧ ok t u
    let data (t : State) : Nat := (t.chip.portState .spi).data
    let status (t : State) : Nat := (t.chip.portState .spi).status
    (o / 32 ≠ s.chip.fld GLOBAL.STRAPS_SPI_ADDR → Idles (.spiTransaction mosi waits) s) ∧
    (o / 32 = s.chip.fld GLOBAL.STRAPS_SPI_ADDR → ¬ bad → head ≤ mosi.length →
      ((waits < 32 ∨ mosi.length < head + 33) → (write ∨ 9 + waits ≤ mosi.length) → carries [] fun t u =>
        data t % 2 ^ 32 = data u % 2 ^ 32 ∧
          status t = if waits < 32 ∧ head + waits + 1 ≤ mosi.length then 0xA5 else status u) ∧
      ((waits < 32 ∨ mosi.length < head + 33) → ¬ write → mosi.length < 9 + waits → carries err fun t u =>
        data t = data s ∧ errs u.chip t.chip ∧ status t = if waits < 32 ∧ 5 + waits ≤ mosi.length then 0xA5 else status u) ∧
      (32 ≤ waits → head + 33 ≤ mosi.length → carries err fun t u => data t = data s ∧ status t = 0xE2 ∧ errs u.chip t.chip)) ∧
    (o / 32 = s.chip.fld GLOBAL.STRAPS_SPI_ADDR → ¬ bad → ¬ write → mosi.length < 4 → Idles (.spiTransaction mosi waits) s) ∧
    (o / 32 = s.chip.fld GLOBAL.STRAPS_SPI_ADDR → (bad ∨ (write ∧ mosi.length < 8)) →
      SetsPort (.spiTransaction mosi waits) s .spi
        (if bad ∧ head + 1 ≤ mosi.length then { s.chip.portState .spi with status := 0xE1 } else s.chip.portState .spi) err fun d =>
          errs s.chip d)

/-! ### The page header (R412 to R418) -/

/-- One keyed write seals a page; an unseal needs two through the same port, ARM_UNSEAL and then UNSEAL; any other write of PAGE_SEAL,
or any on a locked page, is counted and changes nothing but what it disarms (R415, R416). ARMED reads 1 while the unseal of some port is
armed. An armed unseal lapses 100 µs after the arming write, and at any other access of its port to the page, also to one whose domain
is down; another port's access leaves it armed (R415). That arms are kept for each port and page, that ARMED shows any of them, and
that an access that is discarded disarms, too, is the model's choice (assumption log, entry 16); so it is that a lapse that is not due
changes nothing (entry 2). -/
def Obligations.PageSeal : Prop :=
  (∀ (s : State) (p : Port) (page : BitVec 12) (cls : PageCls) (n : Nat) (v : Word),
    s.chip.reaches p = true → pageOf page.toNat = some (cls, n) → s.chip.domUp cls.domain = true → s.chip.pageLight cls = false →
    let key := 4 * page.toNat + p.code;
    let left := Tab.put none s.chip.arms key none;
    let armed : Nat := if left.any fun e => e.1 / 4 == page.toNat then 1 else 0;
    ∀ i ∈ [Instr.pageSeal p page v, Instr.pageArmUnseal p page v, Instr.pageUnseal p page v],
    (s.chip.armOf p page.toNat = none → s.chip.hdr HDR.CTRL_LOCK page.toNat = 0 → sealWord 1 v →
      SetsRegs i s [HDR.SEAL_SEALED.key page.toNat] fun d => d.hdr HDR.SEAL_SEALED page.toNat = 1) ∧
    (s.chip.armOf p page.toNat = none → s.chip.hdr HDR.CTRL_LOCK page.toNat = 0 → sealWord 2 v →
      Becomes i s { s.chip with arms := Tab.put none s.chip.arms key (some s.chip.now) }
        [HDR.SEAL_ARMED.key page.toNat] fun d => d.hdr HDR.SEAL_ARMED page.toNat = 1) ∧
    (∀ t, s.chip.armOf p page.toNat = some t → s.chip.hdr HDR.CTRL_LOCK page.toNat = 0 → sealWord 3 v →
      Becomes i s { s.chip with arms := left } [HDR.SEAL_SEALED.key page.toNat, HDR.SEAL_ARMED.key page.toNat] fun d =>
        d.hdr HDR.SEAL_SEALED page.toNat = 0 ∧ d.hdr HDR.SEAL_ARMED page.toNat = armed) ∧
    ((s.chip.hdr HDR.CTRL_LOCK page.toNat ≠ 0 ∨ bitsOf v.toNat 31 16 ≠ 0x5EA1 ∨ bitsOf v.toNat 3 2 = 0) →
      (s.chip.armOf p page.toNat = none →
        SetsRegs i s (errKeys page.toNat) fun d => s.chip.Counted d page.toNat 0x01C p) ∧
      (∀ t, s.chip.armOf p page.toNat = some t →
        Becomes i s { s.chip with arms := left } (HDR.SEAL_ARMED.key page.toNat :: errKeys page.toNat) fun d =>
          s.chip.Counted d page.toNat 0x01C p ∧ d.hdr HDR.SEAL_ARMED page.toNat = armed)) ∧
    (s.chip.armOf p page.toNat = none → sealWord 3 v →
      SetsRegs i s (errKeys page.toNat) fun d => s.chip.Counted d page.toNat 0x01C p)) ∧
  (∀ (s : State) (page : BitVec 12), let c := s.chip;
    Ends (.unsealArmExpiry page) s (fun d => ({ c with arms := d.arms } : Chip).OnlyRegs d [HDR.SEAL_ARMED.key page.toNat] ∧
      (∀ p t, c.armOf p page.toNat = some t → d.armOf p page.toNat = if t + 100 * usQ ≤ c.now then none else some t) ∧
      ∀ q j, j ≠ page.toNat → d.armOf q j = c.armOf q j) ∧
    ((∀ p t, c.armOf p page.toNat = some t → c.now < t + 100 * usQ) → Idles (.unsealArmExpiry page) s)) ∧
  (∀ (s : State) (p : Port) (page : BitVec 12) (t : Nat) (cls : PageCls) (n : Nat) (v : Word), s.chip.armOf p page.toNat = some t →
    pageOf page.toNat = some (cls, n) → s.chip.reaches p = true →
    let left := Tab.put none s.chip.arms (4 * page.toNat + p.code) none;
    let armed : Nat := if left.any fun e => e.1 / 4 == page.toNat then 1 else 0;
    (s.chip.domUp cls.domain = true → s.chip.pageLight cls = false →
      Becomes (.errcntClear p page v) s { s.chip with arms := left }
        (HDR.SEAL_ARMED.key page.toNat :: errKeys page.toNat) fun d => d.hdr HDR.SEAL_ARMED page.toNat = armed) ∧
    (s.chip.domUp cls.domain = false →
      Becomes (.pageSeal p page v) s { s.chip with arms := left }
        [HDR.SEAL_ARMED.key page.toNat, GLOBAL.OFF_DOMAIN_CNT_COUNT.key 0 0, EV.GLOBAL_OFF_DOMAIN_ACCESS.key 0] fun d =>
          d.hdr HDR.SEAL_ARMED page.toNat = armed) ∧
    (∀ q, s.chip.Open q cls n → page.toNat = cls.base + n → bitsOf v.toNat 31 31 = 1 →
      SetsRegs (.errcntClear q page v) s (errKeys page.toNat) fun d => d.armOf p page.toNat = some t))

/-- A write of PAGE_CTRL with LOCK sets LOCK, and one without leaves it; LOCK, once set, refuses PAGE_SEAL and BLOCK_RESET, which are
counted, and stays 1 until device reset; EN, where the page has one, follows every write of PAGE_CTRL (R414, R416). A BLOCK_RESET of a
page without one, or of an enabled page, is refused and counted (R414). A write of PAGE_ERRCNT with bit 31 clears the register (Table
12.4). A BLOCK_RESET of a disabled, unlocked UPLINK or SEGMENT page returns its registers to their reset values, but for PAGE_EVT,
PAGE_EVT_EN and PAGE_ERRCNT; on a SEGMENT page also its turn tables, buffers, JOIN log and command queue (R414). BUSY then reads 1, until
the next AON clock; R414 makes no difference between a BLOCK_RESET while BUSY reads 1 and any other. A FLYER page, which has EN and no
BLOCK_RESET, counts one and keeps its tables and drift entries, and EN takes its bit (R414). That segment buffers read 0 after a
reset is the model's choice (assumption log, entry 7). -/
def Obligations.LockAndBlockReset : Prop :=
  (∀ (s : State) (p : Port) (page : BitVec 12) (cls : PageCls) (n : Nat) (v : Word), page.toNat = cls.base + n → s.chip.Open p cls n →
    (cls.hasEn = false → v.toNat.testBit 1 = false → v.toNat.testBit 2 = true →
      SetsRegs (.pageLock p page v) s [HDR.CTRL_LOCK.key page.toNat] fun d => d.hdr HDR.CTRL_LOCK page.toNat = 1) ∧
    (cls.hasEn = false → v.toNat.testBit 1 = false → v.toNat.testBit 2 = false → Idles (.pageLock p page v) s) ∧
    (cls.hasEn = false → v.toNat.testBit 1 = true → v.toNat.testBit 2 = false →
      SetsRegs (.blockReset p page v) s (errKeys page.toNat) fun d => s.chip.Counted d page.toNat 0x008 p) ∧
    (cls.hasEn = true → v.toNat.testBit 1 = false → Ends (.pageLock p page v) s fun d =>
      d.hdr HDR.CTRL_EN page.toNat = bitsOf v.toNat 0 0 ∧
        d.hdr HDR.CTRL_LOCK page.toNat = if v.toNat.testBit 2 then 1 else s.chip.hdr HDR.CTRL_LOCK page.toNat) ∧
    (s.chip.hdr HDR.CTRL_LOCK page.toNat = 1 →
      (cls.hasEn = false → v.toNat.testBit 1 = false → Idles (.pageLock p page v) s) ∧
      (v.toNat.testBit 1 = true → ∀ i ∈ [Instr.blockReset p page v, Instr.pageLock p page v], Ends i s fun d =>
        s.chip.Counted d page.toNat 0x008 p ∧ d.hdr HDR.CTRL_LOCK page.toNat = 1 ∧
          (cls.hasEn = true → d.hdr HDR.CTRL_EN page.toNat = bitsOf v.toNat 0 0) ∧
          (cls.hasEn = false → s.chip.OnlyRegs d (errKeys page.toNat))) ∧
      (∀ i ∈ [Instr.pageSeal p page v, Instr.pageArmUnseal p page v, Instr.pageUnseal p page v],
        SetsRegs i s (errKeys page.toNat) fun d => s.chip.Counted d page.toNat 0x01C p ∧
          d.hdr HDR.SEAL_SEALED page.toNat = s.chip.hdr HDR.SEAL_SEALED page.toNat ∧ d.hdr HDR.CTRL_LOCK page.toNat = 1)) ∧
    (cls.hasReset = true → s.chip.hdr HDR.CTRL_EN page.toNat ≠ 0 → v.toNat.testBit 1 = true → Ends (.blockReset p page v) s fun d =>
      s.chip.Counted d page.toNat 0x008 p ∧ d.hdr HDR.CTRL_EN page.toNat = bitsOf v.toNat 0 0) ∧
    (cls = .flyer → v.toNat.testBit 1 = true → ∀ i ∈ [Instr.blockReset p page v, Instr.pageLock p page v], Ends i s fun d =>
      s.chip.Counted d page.toNat 0x008 p ∧ d.hdr HDR.CTRL_EN page.toNat = bitsOf v.toNat 0 0 ∧ d.flyTables = s.chip.flyTables ∧
        d.drift = s.chip.drift ∧ d.resetting = s.chip.resetting ∧
        d.hdr HDR.CTRL_LOCK page.toNat = if v.toNat.testBit 2 then 1 else s.chip.hdr HDR.CTRL_LOCK page.toNat) ∧
    (cls.hasReset = true → s.chip.hdr HDR.CTRL_EN page.toNat = 0 → s.chip.hdr HDR.CTRL_LOCK page.toNat = 0 → v.toNat.testBit 1 = true →
      Ends (.blockReset p page v) s fun d => d.inReset cls n = true ∧
        d.hdr HDR.ERRCNT_COUNT page.toNat = s.chip.hdr HDR.ERRCNT_COUNT page.toNat) ∧
    (bitsOf v.toNat 31 31 = 1 →
      SetsRegs (.errcntClear p page v) s (errKeys page.toNat) fun d =>
        d.hdr HDR.ERRCNT_COUNT page.toNat = 0 ∧ d.hdr HDR.ERRCNT_LAST_OFFSET page.toNat = 0 ∧
          d.hdr HDR.ERRCNT_LAST_PORT page.toNat = 0) ∧
    (bitsOf v.toNat 31 31 = 0 → Idles (.errcntClear p page v) s)) ∧
  (∀ (s : State) (p : Port) (page : BitVec 12) (v : Word), v.toNat.testBit 0 = false → v.toNat.testBit 1 = true → v.toNat.testBit 2 = false →
    s.chip.hdr HDR.CTRL_EN page.toNat = 0 → s.chip.hdr HDR.CTRL_LOCK page.toNat = 0 →
    (∀ n : Fin 4, s.chip.Open p .uplink n.val → page.toNat = PageCls.uplink.base + n.val →
      Ends (.blockReset p page v) s fun d => d.upl n.val = {} ∧ (∀ r ∈ UPLINK.rows, d.fld r n.val = r.reset n.val 0) ∧
        d.hdr HDR.EVT page.toNat = s.chip.hdr HDR.EVT page.toNat ∧ d.hdr HDR.EVT_EN page.toNat = s.chip.hdr HDR.EVT_EN page.toNat ∧
        d.hdr HDR.ERRCNT_COUNT page.toNat = s.chip.hdr HDR.ERRCNT_COUNT page.toNat) ∧
    (∀ n : Fin 96, s.chip.Open p .segment n.val → page.toNat = PageCls.segment.base + n.val →
      Ends (.blockReset p page v) s fun d => (d.eng n.val).joinLog = [] ∧ (d.eng n.val).cmdq = [] ∧
        (∀ r ∈ SEGMENT.rows, r.count = 1 → d.fld r n.val = r.reset n.val 0) ∧
        d.hdr HDR.EVT page.toNat = s.chip.hdr HDR.EVT page.toNat ∧ d.hdr HDR.EVT_EN page.toNat = s.chip.hdr HDR.EVT_EN page.toNat ∧
        (∀ which t w, which < 2 → t < 65 → w < 4 → d.turnW n.val which t w = turnDefault t w) ∧
        (∀ a, 32768 * n.val ≤ a → a < 32768 * (n.val + 1) → Tab.get 0 d.segBuf a = 0) ∧
        (∀ a, ¬ (32768 * n.val ≤ a ∧ a < 32768 * (n.val + 1)) → Tab.get 0 d.segBuf a = Tab.get 0 s.chip.segBuf a)))

/-! ### Modes, resets, power and roles (chapter 02) -/

/-- A mode command with a wrong key or a reserved code, or whose row of Table 02.3 does not apply, changes nothing; it is counted, and
MODE_CMD_REFUSED is raised (R54). ENTER_SAFE sets the cause HOST_CMD, RUN sets RUN_ARMED in ACQUIRE; neither changes the mode itself
(R54, R58, Table 02.3). -/
def Obligations.ModeCommands : Prop :=
  (∀ (s : State) (p : Port) (key : BitVec 16) (st : Straps) (ok : Bool) (i : Instr), s.chip.Open p .global 0 →
    ((key ≠ 0x4D44 ∧ i ∈ [.modeCmdSleep p key, .modeCmdAcquire p key, .modeCmdRun p key, .modeCmdEnterSafe p key,
        .modeCmdExitSafe p key, .deviceReset p key st ok]) ∨
      (∃ v : Word, i = .registerWrite p 0x48 v ∧ bitsOf v.toNat 3 0 ∉ [0x1, 0x2, 0x3, 0x5, 0x6, 0xF]) ∨
      (i = .modeCmdRun p key ∧ s.chip.mode ≠ mACQUIRE) ∨ (i = .modeCmdAcquire p key ∧ s.chip.mode ≠ mSTANDBY) ∨
      (i = .modeCmdExitSafe p key ∧ (s.chip.mode ≠ mSAFE ∨ s.chip.safeCause ≠ 0)) ∨
      (i = .modeCmdSleep p key ∧ (s.chip.mode = mSTANDBY ∨ (s.chip.mode = mSAFE ∧ s.chip.safeCause ≠ 0) ∨
        (s.chip.mode ≠ mSAFE ∧ s.chip.maySleep = false)))) →
    SetsRegs i s (EV.GLOBAL_MODE_CMD_REFUSED.key 0 :: errKeys 0) fun d =>
      s.chip.Counted d 0 0x048 p ∧ s.chip.Tells d EV.GLOBAL_MODE_CMD_REFUSED) ∧
  (∀ (s : State) (p : Port), s.chip.Open p .global 0 →
    SetsRegs (.modeCmdEnterSafe p 0x4D44) s [GLOBAL.SAFE_CAUSE_HOST_CMD.key 0 0] (fun d => d.fld GLOBAL.SAFE_CAUSE_HOST_CMD = 1) ∧
    (s.chip.mode = mACQUIRE → s.chip.safeCause = 0 →
      SetsRegs (.modeCmdRun p 0x4D44) s [GLOBAL.MODE_RUN_ARMED.key 0 0] fun d => d.fld GLOBAL.MODE_RUN_ARMED = 1))

/-- DEVICE_RESET, and PORST_N low for 10 µs or an AON rail too low for 2 µs, put the block into mode RESET: the state after it is the
state at power-on, with every register at its reset value and every memory empty, but for the mode, the domains, which are OFF but AON,
what holds the reset, and, after DEVICE_RESET, the straps and the TDCs (R54, R438, R443, R444). Shorter pulses change nothing; between
1 µs and 10 µs PORST_N resets or not, at a free choice (assumption log, entry 25). What the straps read when a register write of
DEVICE_RESET latches them is free (entry 88). At the release of what holds the reset the straps are latched: the role follows them,
MANAGER settling later, and the headless strap sets AUTO_RUN, AUTO_EXIT_SAFE and REMOTE_EN; the TDCs calibrate (R55, R63, R94, R438).
The other holder keeps the block in RESET. Once the fuses are loaded and nothing holds the reset, RESET is left for STANDBY with CORE
and MEM in DEEP and HOST at LINK; with the flash as boot source the image load begins (R53, R63, R464, Table 02.2). A part held in RESET
stays there; a command that is not due changes nothing (entry 2). The values of registers and memories that the spec gives no reset
value, and which of them a reset returns, are the model's choices (entries 7, 8 and 26). -/
def Obligations.ResetAndItsRelease : Prop :=
  (∀ (s : State) (p : Port) (st : Straps) (ok : Bool) (ns : Nat) (v : Word),
    let c := s.chip;
    let porst : Chip := { c with modes := { c.modes with holdPorst := true } };
    let tdc (d : Chip) (ok : Bool) : Prop := d.on WHORL.TDC_STATUS_CAL_OK = ok ∧ d.fld WHORL.TDC_STATUS_FAILS = (if ok then 0 else 1) ∧
      d.raised EV.WHORL_TDC_CAL_FAIL = !ok;
    (c.Open p .global 0 →
      Becomes (.deviceReset p 0x4D44 st ok) s (c.cleared c.freeCtr) (resetKeys ++ strapKeys ++ tdcKeys) fun d =>
        d.InReset ∧ d.Latched d st ∧ tdc d ok) ∧
    (c.Open p .global 0 → bitsOf v.toNat 31 16 = 0x4D44 → bitsOf v.toNat 3 0 = 0xF →
      ∃ st' ok', Becomes (.registerWrite p 0x48 v) s (c.cleared (c.freeCtr + 1)) (resetKeys ++ strapKeys ++ tdcKeys) fun d =>
        d.InReset ∧ d.Latched d st' ∧ tdc d ok') ∧
    (10000 ≤ ns → Becomes (.porstAssert ns) s (porst.cleared c.freeCtr) resetKeys Chip.InReset) ∧
    (ns < 1000 → Idles (.porstAssert ns) s) ∧
    (1000 ≤ ns → ns < 10000 →
      Becomes (.porstAssert ns) s (porst.cleared (c.freeCtr + 1)) resetKeys Chip.InReset ∨
        Becomes (.porstAssert ns) s { c with freeCtr := c.freeCtr + 1 } [] fun _ => True) ∧
    (2000 ≤ ns → Becomes (.aonSupplyFault ns) s
      (({ c with modes := { c.modes with holdSupply := true } } : Chip).cleared c.freeCtr) resetKeys Chip.InReset) ∧
    (ns < 2000 → Idles (.aonSupplyFault ns) s)) ∧
  (∀ (s : State) (st : Straps) (ok : Bool) (ns : Nat), s.chip.mode = mRESET →
    let c := s.chip;
    let tdc (d : Chip) : Prop := d.on WHORL.TDC_STATUS_CAL_OK = ok ∧
      (ok = false → c.Counts d WHORL.TDC_STATUS_FAILS ∧ c.Tells d EV.WHORL_TDC_CAL_FAIL);
    let calibrated : Whorl := { c.whorl with tdcAt := c.now };
    (c.modes.holdPorst = true → c.modes.holdSupply = false →
      Becomes (.porstRelease st ok) s { c with modes := { c.modes with holdPorst := false }, whorl := calibrated } (strapKeys ++ tdcKeys)
        fun d => c.Latched d st ∧ tdc d) ∧
    (c.modes.holdPorst = true → c.modes.holdSupply = true →
      Becomes (.porstRelease st ok) s { c with modes := { c.modes with holdPorst := false } } strapKeys fun d => c.Latched d st) ∧
    (c.modes.holdPorst = false → Idles (.porstRelease st ok) s) ∧
    (c.modes.holdSupply = true → c.modes.holdPorst = false → 1000000 ≤ ns →
      Becomes (.aonSupplyRecover ns st ok) s { c with modes := { c.modes with holdSupply := false }, whorl := calibrated }
        (strapKeys ++ tdcKeys) fun d => c.Latched d st ∧ tdc d) ∧
    (c.modes.holdSupply = true → c.modes.holdPorst = true → 1000000 ≤ ns →
      Becomes (.aonSupplyRecover ns st ok) s { c with modes := { c.modes with holdSupply := false } } [] fun _ => True) ∧
    ((c.modes.holdSupply = false ∨ ns < 1000000) → Idles (.aonSupplyRecover ns st ok) s)) ∧
  (∀ s : State,
    (s.chip.mode = mRESET → s.chip.modes.holdPorst = false → s.chip.modes.holdSupply = false →
      Ends .fuseLoadComplete s fun d => d.mode = mSTANDBY ∧ d.fld GLOBAL.MODE_PREV_MODE = mRESET ∧ d.dom .core = domDEEP ∧
        d.dom .host = domLINK ∧ d.dom .mem = domDEEP ∧ s.chip.Tells d EV.GLOBAL_MODE_CHANGE ∧
        (s.chip.on GLOBAL.STRAPS_BOOT_SRC = true → d.imSt = imVERIFYING) ∧ s.chip.SameStores d) ∧
    ((s.chip.mode ≠ mRESET ∨ s.chip.modes.holdPorst = true ∨ s.chip.modes.holdSupply = true) → Idles .fuseLoadComplete s))

/-- Between RUN and HOLDOVER the mode follows time ready, MODE_CHANGE is raised and PREV_MODE takes the old mode (R53, Table 02.3).
ACQUIRE is entered by command ACQUIRE, by the automatic start, by EXIT_SAFE and by the automatic exit (R53, R55, R62). RUN is entered
from ACQUIRE once RUN_ARMED, TIME_READY and DOMAINS_READY read 1; safe scenes, where they are in force, last 10 µs more, from the first
RUN entry after the exit from SAFE (R53, R57, R61). That RUN goes to HOLDOVER whatever made the part lose time readiness is the model's
choice (assumption log, entry 89), as it is that a command which is not due changes nothing (entry 2). -/
def Obligations.WorkingModes : Prop :=
  (∀ s : State, s.chip.safeCause = 0 →
    let own := [GLOBAL.MODE_MODE.key 0 0, GLOBAL.MODE_PREV_MODE.key 0 0, EV.GLOBAL_MODE_CHANGE.key 0] ++ c7Keys;
    (s.chip.mode = mRUN → s.chip.timeReady = false → SetsRegs .holdoverEntry s own fun d =>
      d.mode = mHOLDOVER ∧ d.fld GLOBAL.MODE_PREV_MODE = mRUN ∧ s.chip.Tells d EV.GLOBAL_MODE_CHANGE) ∧
    (s.chip.mode = mHOLDOVER → s.chip.timeReady = true → SetsRegs .holdoverExit s own fun d =>
      d.mode = mRUN ∧ d.fld GLOBAL.MODE_PREV_MODE = mHOLDOVER ∧ s.chip.Tells d EV.GLOBAL_MODE_CHANGE) ∧
    (s.chip.timeReady = true → Idles .holdoverEntry s) ∧ (s.chip.timeReady = false → Idles .holdoverExit s)) ∧
  (∀ (s : State) (p : Port),
    let entered (d : Chip) (old : Nat) : Prop := d.mode = mACQUIRE ∧ d.fld GLOBAL.MODE_PREV_MODE = old ∧
      d.fld GLOBAL.MODE_RUN_ARMED = s.chip.fld GLOBAL.MODE_CFG_AUTO_RUN % 2 ∧ d.modes.acquireAt = s.chip.now ∧
      d.modes.acquireLimit = s.chip.fld GLOBAL.ACQUIRE_TIMEOUT_LIMIT ∧ d.fld GLOBAL.WDOG_REMAIN_COUNT = max 100 (s.chip.fld GLOBAL.WDOG_CFG_PERIOD) % 2 ^ 24;
    (s.chip.Open p .global 0 → s.chip.mode = mSTANDBY → s.chip.safeCause = 0 →
      Ends (.modeCmdAcquire p 0x4D44) s fun d => entered d mSTANDBY) ∧
    (s.chip.autoStartReady = true → Ends .autoStart s fun d => entered d mSTANDBY) ∧
    (s.chip.Open p .global 0 → s.chip.mode = mSAFE → s.chip.safeCause = 0 →
      Ends (.modeCmdExitSafe p 0x4D44) s fun d => entered d mSAFE ∧ d.modes.safeScene = true) ∧
    (s.chip.autoExitDue = true → Ends .autoExitSafe s fun d => entered d mSAFE ∧ d.modes.safeScene = true ∧
      d.fld GLOBAL.SAFE_CAUSE_WATCHDOG = 0 ∧ d.fld GLOBAL.SAFE_CAUSE_HOLDOVER_LIMIT = 0)) ∧
  (∀ s : State,
    (s.chip.mode = mACQUIRE → s.chip.on GLOBAL.MODE_RUN_ARMED = true → s.chip.timeReady = true → s.chip.domainsReady = true →
      s.chip.safeCause = 0 → Ends .runEntry s fun d => d.mode = mRUN ∧ d.fld GLOBAL.MODE_PREV_MODE = mACQUIRE ∧
        d.fld GLOBAL.MODE_RUN_ARMED = 0 ∧
        d.modes = { s.chip.modes with sceneEnd :=
          if s.chip.modes.safeScene && s.chip.modes.sceneEnd.isNone then some (s.chip.now + 10 * usQ) else s.chip.modes.sceneEnd }) ∧
    ((s.chip.mode ≠ mACQUIRE ∨ s.chip.on GLOBAL.MODE_RUN_ARMED = false ∨ s.chip.timeReady = false ∨ s.chip.domainsReady = false) →
      Idles .runEntry s))

/-- SAFE is entered when a cause is set, or when the holdover error passes its limit with HOLDOVER_TO_SAFE (R53, R58, R59). The entry
freezes every tag in use, turns the submission queues and completion rings off with SAFE_FREEZE, discards the command payloads and counts
them in SAFE_DROPPED_CMDS, ends every command of this manager, stops the gate lists, and withdraws every frame offered to a segment
(Table 02.5, R59, R366). In SAFE nothing is fetched, completed, placed, mirrored, dispatched or pre-empted, and an uplink begins no
frame (R59); an idle uplink transmitter is turned off, and safe scenes begin 10 µs after the entry (Table 02.5, R61). The order of the
entry's effects, and that a manager's commands end where R366 and R396 speak of frozen ones, is the model's reading (assumption log,
entries 27 and 28). A command that is not due changes nothing (entry 2). -/
def Obligations.SafeMode : Prop :=
  (∀ s : State,
    let dropped := ((List.range 96).map fun n => (s.chip.eng n).cmdq.length).sum;
    let entered (d : Chip) : Prop := d.mode = mSAFE ∧ d.fld GLOBAL.MODE_PREV_MODE = s.chip.mode ∧ d.modes.safeAt = s.chip.now ∧
      s.chip.Tells d EV.GLOBAL_SAFE_ENTRY ∧ s.chip.Tells d EV.GLOBAL_MODE_CHANGE ∧ s.chip.Tells d EV.HOSTQ_SAFE_FREEZE ∧
      (∀ t, t < 4096 → t ∈ s.chip.tagsInUse → d.tagFrozen t = true) ∧ (∀ q, q < 256 → d.sqState q = sqOFF) ∧
      (∀ r, r < 64 → d.crOn r = false) ∧ d.hostq.due = [] ∧ d.hostq.parked = [] ∧ d.hostq.waiting = [] ∧
      (∀ n, n < 96 → (d.eng n).cmdq = [] ∧ (d.eng n).offer = none) ∧ (∀ n, n < 4 → (d.gate n).run = false) ∧
      (dropped = 0 → d.fld GLOBAL.SAFE_DROPPED_CMDS_COUNT = s.chip.fld GLOBAL.SAFE_DROPPED_CMDS_COUNT) ∧
      (dropped ≠ 0 → s.chip.Counts d GLOBAL.SAFE_DROPPED_CMDS_COUNT 0 dropped) ∧ (∀ k h, d.share? k = some h → h.cmd = none);
    (s.chip.safeCause ≠ 0 → s.chip.mode ∈ [mSTANDBY, mACQUIRE, mRUN, mHOLDOVER] → Ends .safeEntry s entered) ∧
    ((s.chip.safeCause = 0 ∨ s.chip.mode = mSAFE ∨ s.chip.mode = mRESET) → Idles .safeEntry s) ∧
    (s.chip.mode = mHOLDOVER → s.chip.on GLOBAL.MODE_CFG_HOLDOVER_TO_SAFE = true →
      s.chip.fld WHORL.HO_LIMIT_NS < s.chip.fld WHORL.HO_ERROR_NS →
      Ends .holdoverLimitSafe s fun d => entered d ∧ d.fld GLOBAL.SAFE_CAUSE_HOLDOVER_LIMIT = 1)) ∧
  (∀ (s : State) (n : Fin 4) (entries : List (Option (List Word))) (phi : Fin 2560) (arrived : List Nat) (busy : Bool)
      (err : Option (Fin 3)), s.chip.mode = mSAFE →
    Idles (.sqFetch entries) s ∧ Idles .completion s ∧ Idles .rxPlacement s ∧ Idles .lane11Dispatch s ∧ Idles .generalDispatch s ∧
    Idles (.preemption n phi arrived) s ∧ ((s.chip.upl n.val).cont = none → Idles (.txSelect n phi arrived) s) ∧
    Ends (.tallyMirrorBoundary busy err) s (fun d => d.hostWrites = s.chip.hostWrites) ∧
    (s.chip.wireDone n.val = true → Ends (.safeUplinkIdle n) s fun d => d.fld UPLINK.LINK_STATUS_STATE n.val = ulOFF) ∧
    (s.chip.wireDone n.val = false → Idles (.safeUplinkIdle n) s) ∧
    (s.chip.modes.safeAt + 10 * usQ ≤ s.chip.now →
      Becomes .safeSceneStart s { s.chip with modes := { s.chip.modes with safeScene := true } } [] fun _ => True) ∧
    (s.chip.now < s.chip.modes.safeAt + 10 * usQ → Idles .safeSceneStart s))

/-- STANDBY is entered by SLEEP; afterwards CORE and MEM are in DEEP, HOST is at LINK, and SEG is OFF unless SEG_STANDBY keeps it (R53,
Table 02.2). Step 6 of the SAFE entry puts the same domains down (Table 02.5). A domain whose wake is complete is ON, and WAKE_DONE is
raised; before that nothing happens (R69, R87; assumption log, entry 2). Safe scenes that are in force outlast a SLEEP, and a SLEEP from
SAFE begins them (R61; the model's choice where R57 differs, entry 89). -/
def Obligations.DomainsGoDownAndWake : Prop :=
  (∀ (s : State) (p : Port),
    let down (d : Chip) : Prop := d.dom .core = domDEEP ∧ d.dom .host = domLINK ∧ d.dom .mem = domDEEP ∧
      d.on DRAM.STATUS_SELF_REFRESH = true;
    (s.chip.Open p .global 0 → s.chip.safeCause = 0 →
      (((s.chip.mode = mACQUIRE ∨ s.chip.mode = mRUN ∨ s.chip.mode = mHOLDOVER) ∧ s.chip.maySleep = true) ∨ s.chip.mode = mSAFE) →
      Ends (.modeCmdSleep p 0x4D44) s fun d => down d ∧ d.mode = mSTANDBY ∧ d.fld GLOBAL.MODE_PREV_MODE = s.chip.mode ∧
        d.modes.safeScene = (s.chip.modes.safeScene || s.chip.mode == mSAFE) ∧
        d.dom .seg = (if s.chip.on GLOBAL.MODE_CFG_SEG_STANDBY then s.chip.dom .seg else domOFF)) ∧
    (s.chip.mode = mSAFE → s.chip.modes.safePowered = false → s.chip.uplinksOff = true →
      Ends .safePowerDown s fun d => down d ∧ d.modes.safePowered = true ∧ d.dom .seg = s.chip.dom .seg) ∧
    ((s.chip.mode ≠ mSAFE ∨ s.chip.modes.safePowered = true) → Idles .safePowerDown s)) ∧
  (∀ (s : State) (dm : Domain),
    (s.chip.wakeDue dm = true → dm ≠ .upl → Ends (.domainWakeDone dm) s fun d => d.dom dm = domON ∧
      s.chip.Tells d EV.POWER_WAKE_DONE ∧ d.power.wakes = s.chip.power.wakes.filter fun w => w.1 != dm) ∧
    (s.chip.wakeDue .mem = true →
      Becomes (.domainWakeDone .mem) s
        { s.chip with power := { s.chip.power with wakes := s.chip.power.wakes.filter fun w => w.1 != Domain.mem } }
        [POWER.DOMAIN_STATE_MEM.key 0 0, DRAM.STATUS_SELF_REFRESH.key 0 0, EV.POWER_WAKE_DONE.key 0] fun d =>
          d.fld DRAM.STATUS_SELF_REFRESH = 0) ∧
    (s.chip.wakeDue dm = false → Idles (.domainWakeDone dm) s))

/-- The watchdog: the key reloads it and any other word is counted; its warning at half its period comes once, and at 0 it sets its SAFE
cause (R60; of an odd period the half is rounded down, assumption log, entry 89). ACQUIRE_TIMEOUT is raised once in a stay, LIMIT µs
after its start (R53). A command that is not due changes nothing (entry 2). -/
def Obligations.WatchdogAndTimeout : Prop :=
  ∀ (s : State) (p : Port) (v : Word),
    let c := s.chip
    (c.Open p .global 0 → v = 0x6B1C →
      Becomes (.wdogKick p v) s { c with modes := { c.modes with wdogAcc := 0, wdogWarned := false } } [GLOBAL.WDOG_REMAIN_COUNT.key 0 0]
        fun d => d.fld GLOBAL.WDOG_REMAIN_COUNT = max 100 (c.fld GLOBAL.WDOG_CFG_PERIOD) % 2 ^ 24) ∧
    (c.Open p .global 0 → v ≠ 0x6B1C →
      SetsRegs (.wdogKick p v) s (errKeys 0) fun d => c.Counted d 0 GLOBAL.WDOG_KICK_KEY.off p) ∧
    (c.wdogRuns = true → c.modes.wdogWarned = false → 2 * c.fld GLOBAL.WDOG_REMAIN_COUNT ≤ max 100 (c.fld GLOBAL.WDOG_CFG_PERIOD) →
      Becomes .wdogWarn s { c with modes := { c.modes with wdogWarned := true } } [EV.GLOBAL_WDOG_WARN.key 0]
        fun d => c.Tells d EV.GLOBAL_WDOG_WARN) ∧
    (c.wdogRuns = true → c.fld GLOBAL.WDOG_REMAIN_COUNT = 0 →
      SetsRegs .watchdogExpiry s [GLOBAL.SAFE_CAUSE_WATCHDOG.key 0 0] fun d => d.fld GLOBAL.SAFE_CAUSE_WATCHDOG = 1) ∧
    (c.wdogRuns = false → Idles .wdogWarn s ∧ Idles .watchdogExpiry s) ∧
    (c.mode = mACQUIRE → c.modes.acquireRaised = false → c.modes.acquireAt + c.modes.acquireLimit * usQ ≤ c.now →
      Becomes .acquireTimeout s { c with modes := { c.modes with acquireRaised := true } } [EV.GLOBAL_ACQUIRE_TIMEOUT.key 0]
        fun d => c.Tells d EV.GLOBAL_ACQUIRE_TIMEOUT) ∧
    ((c.mode ≠ mACQUIRE ∨ c.modes.acquireRaised = true) → Idles .acquireTimeout s)

/-- The end of DRAM training: what trained in the channels that CH_EN named, the usable size, MEM is ON; and a part strapped as MANAGER
settles its role with the epoch as it was (R64, R403). A role request that is not accepted changes nothing and raises the one event of
its cause: MANAGER_REFUSED where a part without trained DRAM is to be MANAGER, ROLE_CMD_REFUSED where its DRAM is in self-refresh (R41,
R67); an accepted one changes the role, raises the epoch by one and raises ROLE_CHANGE; one for the role in force changes nothing
(R66, R67). Which cause counts where several hold is the model's choice (assumption log, entry 29). -/
def Obligations.RolesAreSettled : Prop :=
  (∀ (s : State) (t0 t1 : Bool) (d0 d1 : Fin 5), s.chip.mode = mACQUIRE → s.chip.modes.dramTrainingDone = false →
    let a := t0 && s.chip.modes.chEn.testBit 0;
    let b := t1 && s.chip.modes.chEn.testBit 1;
    Ends (.dramTrainingDone t0 t1 d0 d1) s fun d =>
      d.on DRAM.STATUS_TRAINED0 = a ∧ d.on DRAM.STATUS_TRAINED1 = b ∧
      d.fld DRAM.STATUS_USABLE_MIB = ((if a then densMib d0.val else 0) + (if b then densMib d1.val else 0)) * 7 / 8 ∧
      d.dom .mem = domON ∧ d.modes.dramTrainingDone = true ∧ s.chip.Tells d EV.DRAM_TRAIN_DONE ∧
      d.fld GLOBAL.ROLE_EPOCH = s.chip.fld GLOBAL.ROLE_EPOCH ∧
      (s.chip.fld GLOBAL.ROLE_STRAP_ROLE = 2 → s.chip.on GLOBAL.ROLE_SETTLED = false →
        d.fld GLOBAL.ROLE_SETTLED = 1 ∧
        ((a || b) = true → d.fld GLOBAL.ROLE_ROLE = roleMANAGER) ∧
        ((a || b) = false → d.fld GLOBAL.ROLE_ROLE = s.chip.fld GLOBAL.ROLE_ROLE ∧ s.chip.Tells d EV.GLOBAL_MANAGER_REFUSED))) ∧
  (∀ (s : State) (p : Port) (v : Word), s.chip.Open p .global 0 →
    let new := bitsOf v.toNat 1 0;
    let fits := bitsOf v.toNat 31 16 = s.chip.fld GLOBAL.ROLE_EPOCH;
    let refused (e : Evt) : Prop := SetsRegs (.roleCmd p v) s (e.key 0 :: errKeys 0) fun d =>
      s.chip.Counted d 0 GLOBAL.ROLE_CMD_NEW_ROLE.off p ∧ s.chip.Tells d e;
    (¬ fits → refused EV.GLOBAL_ROLE_CMD_STALE) ∧
    (fits → new = roleMANAGER → s.chip.dramTrained = false → refused EV.GLOBAL_MANAGER_REFUSED) ∧
    (fits → (new = roleMANAGER → s.chip.dramTrained = true) →
      (new = 3 ∨ s.chip.on GLOBAL.ROLE_SETTLED = false ∨ s.chip.mode = mSAFE ∨
        (new = roleMANAGER ∧ s.chip.on GLOBAL.ROLE_DRAM_READY = false)) → refused EV.GLOBAL_ROLE_CMD_REFUSED) ∧
    (fits → new ≠ 3 → (new = roleMANAGER → s.chip.dramTrained = true ∧ s.chip.on GLOBAL.ROLE_DRAM_READY = true) → s.chip.on GLOBAL.ROLE_SETTLED = true →
      s.chip.mode ∈ [mSTANDBY, mACQUIRE, mRUN, mHOLDOVER] →
      (new = s.chip.fld GLOBAL.ROLE_ROLE → Idles (.roleCmd p v) s) ∧
      (new ≠ s.chip.fld GLOBAL.ROLE_ROLE → Ends (.roleCmd p v) s fun d => d.fld GLOBAL.ROLE_ROLE = new ∧
        d.fld GLOBAL.ROLE_EPOCH = (s.chip.fld GLOBAL.ROLE_EPOCH + 1) % 65536 ∧ s.chip.Tells d EV.GLOBAL_ROLE_CHANGE)))

/-- PERST_N resets the HOST domain only. While it is low no SQ stays in service and no completion is owed to a ring; at its release every
register of the HOSTQ page has its reset value, but for the view of the ledger, which stays, LOCK, and the PERST_ABORT that is raised
then (R56, R367, R416). The mode, the domains, every register of the pages in AON and SEG, the Whorl, the segments' tables and buffers,
the Flyers, the image, the DRAM and what the access ports hold stay as they were (R56). Link training is noted (R446). A general lane, or
the Distaff, that has been idle for LIGHT_IDLE ns in RUN or HOLDOVER with LIGHT_SLEEP_EN enters LIGHT; in other modes, with the switch
off, or with work to do, none does (R70). A command that is not due changes nothing (assumption log, entry 2). -/
def Obligations.PerstAndLight : Prop :=
  (∀ s : State,
    let view := [HDR.CTRL_LOCK.off, HOSTQ.LEDGER_SEL_TAG.off, HOSTQ.LEDGER_ENTRY0_STATE.off, HOSTQ.LEDGER_ENTRY1_PROGRESS.off,
      HOSTQ.LEDGER_STATUS_FROZEN.off];
    let hostOnly (d : Chip) : Prop := s.chip.SameStores d ∧ s.chip.KeepsAon d ∧ d.mode = s.chip.mode ∧ d.whorl = s.chip.whorl ∧
      d.image = s.chip.image ∧ d.flyers = s.chip.flyers ∧ d.chain = s.chip.chain ∧ d.mirror = s.chip.mirror ∧ d.ply = s.chip.ply ∧
      (∀ p j, j ≠ PageCls.hostq.base → d.armOf p j = s.chip.armOf p j) ∧ ∀ dm, dm ≠ .upl → d.dom dm = s.chip.dom dm;
    (s.chip.modes.perst = false → s.chip.mode ≠ mRESET → Ends .perstAssert s fun d => hostOnly d ∧
      d.modes = { s.chip.modes with perst := true, linkTraining := false } ∧ d.hostq.parked = [] ∧ d.hostq.waiting = [] ∧
      ∀ q, q < 256 → d.sqState q ∉ [sqACTIVE, sqERROR, sqDRAINING]) ∧
    (s.chip.modes.perst = false → s.chip.mode = mRESET →
      Becomes .perstAssert s { s.chip with modes := { s.chip.modes with perst := true, linkTraining := false } } [] fun _ => True) ∧
    (s.chip.modes.perst = true → s.chip.mode ≠ mRESET → Ends .perstRelease s fun d => hostOnly d ∧
      d.modes = { s.chip.modes with perst := false } ∧ s.chip.Tells d EV.HOSTQ_PERST_ABORT ∧
      (∀ r ∈ HOSTQ.rows, r.off ∉ view → ∀ i, i < 65536 → d.fld r 0 i = r.reset 0 i) ∧
      (∀ r ∈ [HDR.EVT_EN, HDR.ERRCNT_COUNT, HDR.ERRCNT_LAST_OFFSET, HDR.ERRCNT_LAST_PORT, HDR.SEAL_SEALED, HDR.SEAL_ARMED],
        d.hdr r PageCls.hostq.base = 0) ∧
      (∀ b, b ∉ [EV.HOSTQ_PERST_ABORT.bit, EV.HOSTQ_ALL_QUIESCENT.bit] → (d.hdr HDR.EVT PageCls.hostq.base).testBit b = false) ∧
      d.hdr HDR.CTRL_LOCK PageCls.hostq.base = s.chip.hdr HDR.CTRL_LOCK PageCls.hostq.base ∧
      d.fld HOSTQ.LEDGER_SEL_TAG = s.chip.fld HOSTQ.LEDGER_SEL_TAG ∧
      d.hostq.bufs = [] ∧ d.hostq.seq = [] ∧ d.hostq.shadow = [] ∧ d.hostq.last = 255) ∧
    (s.chip.modes.perst = false → Idles .perstRelease s) ∧ (s.chip.modes.perst = true → Idles .perstAssert s) ∧
    (s.chip.mode ≠ mRESET → s.chip.modes.perst = false →
      Becomes .pcieLinkTraining s { s.chip with modes := { s.chip.modes with linkTraining := true } } [] fun _ => True)) ∧
  (∀ (s : State) (lane : Option (Fin 11)),
    let l := match lane with | some k => k.val | none => 11;
    (s.chip.mode = mRUN ∨ s.chip.mode = mHOLDOVER → s.chip.on GLOBAL.MODE_CFG_LIGHT_SLEEP_EN = true → s.chip.dom .core = domON →
      Tab.get false s.chip.modes.laneLight l = false → s.chip.laneIdle l = true →
      Becomes (.laneLightEntry lane) s
        { s.chip with modes := { s.chip.modes with laneLight := Tab.put false s.chip.modes.laneLight l true } } [] fun _ => True) ∧
    ((s.chip.on GLOBAL.MODE_CFG_LIGHT_SLEEP_EN = false ∨ s.chip.laneIdle l = false ∨
      s.chip.mode ∉ [mRUN, mHOLDOVER]) → Idles (.laneLightEntry lane) s))

/-- A request for leave is refused, granted from the reserve, or queued with its cost and priority of that moment (R71, R74, R75, R80): for
a self-test, an uplink that would come up, a bulk load and a fan-out burst. One AON clock of the power manager grants the head of the
highest-priority FIFO when COMMITTED and its cost stay within CEILING, a burst first from the reserve that is not in use, and otherwise
nothing; the operation goes on with it (R74, R80). A write of CEILING below COMMITTED raises CEILING_BELOW_COMMITTED; until COMMITTED is
at most CEILING again nothing is granted, from the reserve neither, and R78 is suspended (R77). LEAVE_SLOW is raised once for each
request that has waited LEAVE_WARN µs, which keeps its place (R76); LEAVE_DEADLINE_MISS once for a burst that still waits when its
expansion must begin (R81). Throttling begins when the estimate reaches CEILING while R78 is not suspended, and ends when it falls below;
an estimate above 1.05 × CEILING raises OVER_LIMIT, also during throttling (R78, R86). A command that is not due changes nothing
(assumption log, entry 2). -/
def Obligations.LeaveAndCeiling : Prop :=
  (∀ (s : State), let c := s.chip;
    let budget : Int := (c.fld POWER.CEILING_TOKENS : Int) - c.fld POWER.BASE_TOKENS - c.fld POWER.RESERVE_FANOUT_RESERVE;
    let cost (i : Nat) := c.fld POWER.COST_TOKENS 0 i;
    let queued (op : LeaveOp) (i : Nat) : PowerMgr := { c.power with waiting := c.power.waiting ++
      [{ op := op, prio := c.fld POWER.COST_PRIO 0 i, cost := cost i, since := c.now, warnUs := c.fld POWER.LEAVE_WARN_LIMIT }] };
    let fits (i : Nat) : Prop := (cost i : Int) ≤ budget;
    (∀ b, c.leaveWaiting (.bist b) = false → c.leaveHeld (.bist b) = false →
      (¬ fits 4 → SetsRegs (.leaveRequest (.bist b)) s [EV.POWER_LEAVE_IMPOSSIBLE.key 0] fun d => c.Tells d EV.POWER_LEAVE_IMPOSSIBLE) ∧
      (fits 4 → Becomes (.leaveRequest (.bist b)) s { c with power := queued (.bist b) 4 } []
        fun d => d.fld POWER.COMMITTED_WAITING = (c.power.waiting.length + 1) % 256)) ∧
    (∀ n : Fin 4, let fec := c.fld UPLINK.CFG_FEC_EN n.val
      c.leaveWaiting (.uplink n) = false → c.leaveHeld (.uplink n) = false → c.fld UPLINK.LINK_STATUS_STATE n.val = ulOFF →
      c.uplinkEn n.val = true → (c.mode = mACQUIRE ∨ c.running = true) → c.on UPLINK.LINK_STATUS_NO_LEAVE n.val = false →
      ¬ (c.fld UPLINK.CFG_SPEED n.val = 0 ∧ fec = 1) →
      (¬ fits 1 → Ends (.leaveRequest (.uplink n)) s fun d => d.power = c.power ∧ d.fld UPLINK.LINK_STATUS_NO_LEAVE n.val = 1 ∧
        d.fld UPLINK.LINK_STATUS_STATE n.val = ulOFF ∧ c.Tells d EV.POWER_LEAVE_IMPOSSIBLE) ∧
      (fits 1 → Ends (.leaveRequest (.uplink n)) s fun d => d.power = queued (.uplink n) 1 ∧
        d.fld UPLINK.LINK_STATUS_STATE n.val = ulLEAVE)) ∧
    (∀ (p : Port) (v : Word), v.toNat % 4 = 1 →
      (c.Open p .carder 0 → c.fld CARDER.BANK_STATUS_INIT_DONE ≠ 0 → c.fld CARDER.BULK_STATUS_STATE ∉ [bkLEAVE, bkRUNNING] →
        (¬ fits 3 → Ends (.carderBulkGo p v) s fun d => d.power = c.power ∧ d.fld CARDER.BULK_STATUS_STATE = bkNOLEAVE ∧
          c.Tells d EV.POWER_LEAVE_IMPOSSIBLE) ∧
        (fits 3 → Ends (.carderBulkGo p v) s fun d => d.power = queued .ruleLoad 3 ∧ d.fld CARDER.BULK_STATUS_STATE = bkLEAVE)) ∧
      (c.Open p .distaff 0 → c.fld DISTAFF.BULK_STATUS_STATE ∉ [bkLEAVE, bkRUNNING] →
        (¬ fits 3 → Ends (.distaffBulkGo p v) s fun d => d.power = c.power ∧ d.fld DISTAFF.BULK_STATUS_STATE = bkNOLEAVE ∧
          c.Tells d EV.POWER_LEAVE_IMPOSSIBLE) ∧
        (fits 3 → Ends (.distaffBulkGo p v) s fun d => d.power = queued .dirLoad 3 ∧ d.fld DISTAFF.BULK_STATUS_STATE = bkLEAVE))) ∧
    (∀ (k : Nat) (h : Share) (m : FanCmd), c.share? k = some h → h.cmd = some m → c.dom .core = domON → m.phase = .waiting →
      h.asked = false → 4096 < c.groupTotal m.group → h.applyQ - (m.leadMs * msQ : Nat) - (msQ : Nat) ≤ c.net →
      let free := cost 5 + c.reserveUsed ≤ c.fld POWER.RESERVE_FANOUT_RESERVE ∧
        ¬ (c.power.ceilingCut = true ∧ c.fld POWER.CEILING_TOKENS < c.committed)
      let never := ¬ fits 5 ∧ c.fld POWER.RESERVE_FANOUT_RESERVE < cost 5
      (free → Ends (.fanoutLeaveRequest k) s fun d => d.fld POWER.LEAVE_GRANTS_COUNT = (c.fld POWER.LEAVE_GRANTS_COUNT + 1) % 2 ^ 32 ∧
        d.power = { c.power with held := c.power.held ++ [{ op := .fanout k, cost := cost 5, reserve := true }] }) ∧
      (¬ free → ¬ never → Ends (.fanoutLeaveRequest k) s fun d => d.power = queued (.fanout k) 5 ∧ c.Tells d EV.POWER_RESERVE_SHORT) ∧
      (¬ free → never → Ends (.fanoutLeaveRequest k) s fun d => d.share? k = none ∧ c.Tells d EV.POWER_LEAVE_IMPOSSIBLE))) ∧
  (∀ (s : State) (r : LeaveReq), let c := s.chip;
    let granted (d : Chip) : Prop := d.fld POWER.LEAVE_GRANTS_COUNT = (c.fld POWER.LEAVE_GRANTS_COUNT + 1) % 2 ^ 32;
    let takes (reserve : Bool) (d : Chip) : Prop := granted d ∧ d.power.waiting = c.power.waiting.erase r ∧
      d.power.held = c.power.held ++ [{ op := r.op, cost := r.cost, reserve := reserve }];
    let fits := c.committed + r.cost ≤ c.fld POWER.CEILING_TOKENS;
    c.headReq = some r →
    (LeaveOp.isFanout r.op = false → r.op ≠ .ruleLoad → r.op ≠ .dirLoad →
      (fits → Ends .leaveGrant s fun d => takes false d ∧
        ∀ n : Fin 4, r.op = .uplink n → c.fld UPLINK.LINK_STATUS_STATE n.val = ulLEAVE → d.fld UPLINK.LINK_STATUS_STATE n.val = ulBRINGUP)) ∧
    (LeaveOp.isFanout r.op = false → ¬ fits → Idles .leaveGrant s) ∧
    (r.op = .ruleLoad → fits →
      (c.carder.bulkLeft ≠ 0 → Ends .leaveGrant s fun d => takes false d ∧ d.fld CARDER.BULK_STATUS_STATE = bkRUNNING) ∧
      (c.carder.bulkLeft = 0 → Ends .leaveGrant s fun d => granted d ∧ d.leaveHeld .ruleLoad = false ∧
        d.fld CARDER.BULK_STATUS_STATE = bkDONE ∧ c.Tells d EV.CARDER_BULK_DONE)) ∧
    (r.op = .dirLoad → fits →
      (c.distaff.bulkLeft ≠ 0 → Ends .leaveGrant s fun d => takes false d ∧ d.fld DISTAFF.BULK_STATUS_STATE = bkRUNNING) ∧
      (c.distaff.bulkLeft = 0 → Ends .leaveGrant s fun d => granted d ∧ d.leaveHeld .dirLoad = false ∧
        d.fld DISTAFF.BULK_STATUS_STATE = bkDONE ∧ c.Tells d EV.DISTAFF_BULK_DONE)) ∧
    (∀ k, r.op = .fanout k → ¬ (c.power.ceilingCut = true ∧ c.fld POWER.CEILING_TOKENS < c.committed) →
      let idle := ∀ h, c.share? k = some h → h.pending = [] ∧ h.closing = false
      let spare := r.cost + c.reserveUsed ≤ c.fld POWER.RESERVE_FANOUT_RESERVE
      (spare → idle → Ends .leaveGrant s (takes true)) ∧
      (¬ spare → c.generalBudget < r.cost → Idles .leaveGrant s) ∧
      (¬ spare → (r.cost : Int) ≤ c.generalBudget → (fits → idle → Ends .leaveGrant s (takes false)) ∧ (¬ fits → Idles .leaveGrant s)))) ∧
  (∀ (s : State) (est : BitVec 16), s.chip.power.ceilingCut = true → s.chip.fld POWER.CEILING_TOKENS < s.chip.committed →
    Idles .leaveGrant s ∧
    SetsRegs (.throttleOn est) s [POWER.ESTIMATE_AVG_MW.key 0 0] (fun d => d.fld POWER.ESTIMATE_AVG_MW = est.toNat)) ∧
  (∀ (s : State) (k : Nat) (h : Share), let c := s.chip;
    (c.slowDue = true → Becomes .leaveSlow s
      { c with power := { c.power with waiting := c.power.waiting.map fun r =>
          if r.warnUs * usQ ≤ c.now - r.since then { r with slow := true } else r } }
      [EV.POWER_LEAVE_SLOW.key 0] fun d => c.Tells d EV.POWER_LEAVE_SLOW) ∧
    (c.slowDue = false → Idles .leaveSlow s) ∧
    (c.deadlineMissed k = true → c.share? k = some h → Ends (.leaveDeadlineMiss k) s fun d =>
      d.share? k = some { h with missed := true } ∧ c.Tells d EV.POWER_LEAVE_DEADLINE_MISS ∧ c.SameStores d ∧ d.power = c.power ∧
      c.KeepsCells d [EV.POWER_LEAVE_DEADLINE_MISS.key 0]) ∧
    (c.deadlineMissed k = false → Idles (.leaveDeadlineMiss k) s)) ∧
  (∀ (s : State) (p : Port) (v : Word) (est : BitVec 16), let c := s.chip;
    let suspended := c.power.ceilingCut = true ∧ c.fld POWER.CEILING_TOKENS < c.committed;
    let start := 160 * c.fld POWER.CEILING_TOKENS ≤ est.toNat ∧ c.power.throttling = false ∧ ¬ suspended;
    let beyond (d : Chip) : Prop := ¬ suspended → 168 * c.fld POWER.CEILING_TOKENS < est.toNat → c.Tells d EV.POWER_OVER_LIMIT;
    (c.Open p .power 0 → ∃ cut, Becomes (.ceilingWrite p v) s { c with power := { c.power with ceilingCut := cut } }
      [POWER.CEILING_TOKENS.key 0 0, EV.POWER_CEILING_BELOW_COMMITTED.key 0] fun d =>
        cut = decide (d.fld POWER.CEILING_TOKENS < c.committed) ∧
        d.fld POWER.CEILING_TOKENS = bitsOf v.toNat POWER.CEILING_TOKENS.hi POWER.CEILING_TOKENS.lo ∧
        (d.fld POWER.CEILING_TOKENS < c.committed → c.Tells d EV.POWER_CEILING_BELOW_COMMITTED)) ∧
    (start → Becomes (.throttleOn est) s { c with power := { c.power with throttling := true, throttleAcc := 0 } }
      [POWER.ESTIMATE_AVG_MW.key 0 0, EV.POWER_THROTTLE_ON.key 0] fun d => d.fld POWER.ESTIMATE_AVG_MW = est.toNat ∧
        c.Tells d EV.POWER_THROTTLE_ON ∧ beyond d) ∧
    (¬ start → SetsRegs (.throttleOn est) s [POWER.ESTIMATE_AVG_MW.key 0 0, EV.POWER_OVER_LIMIT.key 0] fun d =>
      d.fld POWER.ESTIMATE_AVG_MW = est.toNat ∧ beyond d) ∧
    (est.toNat < 160 * c.fld POWER.CEILING_TOKENS → Ends (.throttleOff est) s fun d => d.power.throttling = false) ∧
    (160 * c.fld POWER.CEILING_TOKENS ≤ est.toNat →
      SetsRegs (.throttleOff est) s [POWER.ESTIMATE_AVG_MW.key 0 0, EV.POWER_OVER_LIMIT.key 0] fun d =>
        d.fld POWER.ESTIMATE_AVG_MW = est.toNat ∧ beyond d))

/-! ### The Whorl (chapter 03) -/

/-- SNAP_CMD with GO = 1 captures monotonic and network time at one instant of the current tick; without GO it does nothing. A
calibration of the TDCs sets CAL_OK, or clears it, counts and raises TDC_CAL_FAIL (R94). REFCLK within range for 1 ms clears FAULT and
ON_INTERNAL; a fault, with its edge conditions, sets them and HO_ERROR to its maximum (R107). The rows of Table 03.5 for a change of
SOURCE, for HOST_LOCK, and for the loss of measurements (R100, R106, R108). In the HOLDOVER lock state HO_ERROR grows each millisecond
by the formula of R108, HO_ELAPSED follows, and HOLDOVER_LIMIT is raised once (R109). How a tick is divided for a stamp, what a change of
SOURCE keeps and the rounding of HO_ERROR are the model's readings (assumption log, entries 31, 90 and 94); so it is that a command
which is not due changes nothing (entry 2). -/
def Obligations.ClockAndLockState : Prop :=
  (∀ (s : State) (p : Port) (v : Word) (phi : Fin 2560), let c := s.chip;
    c.Open p .whorl 0 →
    (bitsOf v.toNat 0 0 = 1 →
      SetsRegs (.snapCmd p v phi) s
        ([WHORL.SNAP_MONO_SEC_LO_SEC, WHORL.SNAP_MONO_SEC_HI_SEC, WHORL.SNAP_MONO_NS_NS, WHORL.SNAP_NET_SEC_LO_SEC,
          WHORL.SNAP_NET_SEC_HI_SEC, WHORL.SNAP_NET_NS_NS, WHORL.SNAP_SUB_MONO_SUB, WHORL.SNAP_SUB_NET_SUB,
          WHORL.SNAP_SUB_DONE].map fun r => r.key 0 0) fun d =>
        d.fld64 WHORL.SNAP_MONO_SEC_LO_SEC WHORL.SNAP_MONO_SEC_HI_SEC = stampSec (c.monoStamp phi) ∧
        d.fld WHORL.SNAP_MONO_NS_NS = stampNs (c.monoStamp phi) ∧ d.fld WHORL.SNAP_SUB_MONO_SUB = stampSub (c.monoStamp phi) ∧
        d.fld64 WHORL.SNAP_NET_SEC_LO_SEC WHORL.SNAP_NET_SEC_HI_SEC = stampSec (c.netStamp phi) ∧
        d.fld WHORL.SNAP_NET_NS_NS = stampNs (c.netStamp phi) ∧ d.fld WHORL.SNAP_SUB_NET_SUB = stampSub (c.netStamp phi) ∧
        d.fld WHORL.SNAP_SUB_DONE = 1) ∧
    (bitsOf v.toNat 0 0 = 0 → Idles (.snapCmd p v phi) s)) ∧
  (∀ (s : State) (a b us : Nat), let c := s.chip;
    (c.tdcDue = true →
      Becomes (.tdcCalibration true) s { c with whorl := { c.whorl with tdcAt := c.now } } [WHORL.TDC_STATUS_CAL_OK.key 0 0]
        (fun d => d.fld WHORL.TDC_STATUS_CAL_OK = 1) ∧
      Becomes (.tdcCalibration false) s { c with whorl := { c.whorl with tdcAt := c.now } }
        [WHORL.TDC_STATUS_CAL_OK.key 0 0, WHORL.TDC_STATUS_FAILS.key 0 0, EV.WHORL_TDC_CAL_FAIL.key 0]
        fun d => d.fld WHORL.TDC_STATUS_CAL_OK = 0 ∧ c.Tells d EV.WHORL_TDC_CAL_FAIL ∧
          d.fld WHORL.TDC_STATUS_FAILS = min (c.fld WHORL.TDC_STATUS_FAILS + 1) 65535) ∧
    (c.on WHORL.REFCLK_STATUS_FAULT = true → 1000 ≤ us →
      SetsRegs (.refclkRecovered us) s [WHORL.REFCLK_STATUS_FAULT.key 0 0, WHORL.REFCLK_STATUS_ON_INTERNAL.key 0 0] fun d =>
        d.fld WHORL.REFCLK_STATUS_FAULT = 0 ∧ d.fld WHORL.REFCLK_STATUS_ON_INTERNAL = 0) ∧
    (us < 1000 → Idles (.refclkRecovered us) s) ∧
    (c.on WHORL.REFCLK_STATUS_FAULT = false → (200 ≤ a ∨ 10000 ≤ b) → Ends (.refclkFault a b) s fun d =>
      d.fld WHORL.REFCLK_STATUS_FAULT = 1 ∧ d.fld WHORL.REFCLK_STATUS_ON_INTERNAL = 1 ∧ d.fld WHORL.HO_ERROR_NS = 0xFFFFFFFF ∧
      c.Tells d EV.WHORL_REFCLK_FAULT ∧ (c.lock = lkFREE → c.whorl.source = 0 → d.lock = lkFREE) ∧
      (c.lock = lkLOCKED → c.whorl.source = 1 → d.lock = lkHOLDOVER ∧ d.fld WHORL.LOCK_STATE_LOSS_CAUSE = 5)) ∧
    (a < 200 → b < 10000 → Idles (.refclkFault a b) s)) ∧
  (∀ (s : State) (p : Port) (v : Word), let c := s.chip;
    let new := c.fld WHORL.SERVO_CFG_SOURCE;
    (new = c.whorl.source → Idles .sourceChange s) ∧
    (new ≠ c.whorl.source → Ends .sourceChange s fun d => d.whorl.source = new ∧ d.now = c.now ∧ d.whorl.offset = c.whorl.offset ∧
      (new = 0 → d.lock = lkFREE) ∧
      ((new = 1 ∨ new = 2) → c.lock = lkLOCKED → d.lock = lkUNLOCKED ∧ d.fld WHORL.LOCK_STATE_LOSS_CAUSE = 4 ∧ c.Tells d EV.WHORL_SOURCE_LOST) ∧
      ((new = 1 ∨ new = 2) → c.lock ∈ [lkFREE, lkUNLOCKED, lkACQUIRING] → d.lock = lkUNLOCKED ∧ d.whorl.integ = 0) ∧
      ((new = 1 ∨ new = 2) → c.lock = lkHOLDOVER → d.lock = lkHOLDOVER) ∧
      (new = 3 → c.on WHORL.SERVO_CFG_HOST_LOCK = true → d.lock = lkLOCKED) ∧
      (new = 3 → c.on WHORL.SERVO_CFG_HOST_LOCK = false → c.lock = lkLOCKED → d.lock = lkHOLDOVER ∧ d.fld WHORL.LOCK_STATE_LOSS_CAUSE = 4) ∧
      (new = 3 → c.on WHORL.SERVO_CFG_HOST_LOCK = false → c.lock ∈ [lkFREE, lkUNLOCKED, lkACQUIRING] → d.lock = lkUNLOCKED)) ∧
    (c.Open p .whorl 0 → c.whorl.source = 3 →
      (bitsOf v.toNat 28 28 = 1 → c.lock ≠ lkLOCKED → c.on WHORL.REFCLK_STATUS_FAULT = false → Ends (.hostLockWrite p v) s fun d =>
        d.lock = lkLOCKED ∧ c.Tells d EV.WHORL_LOCKED ∧ d.whorl = c.whorl) ∧
      (bitsOf v.toNat 28 28 = 0 → c.lock = lkLOCKED → Ends (.hostLockWrite p v) s fun d =>
        d.lock = lkHOLDOVER ∧ d.fld WHORL.LOCK_STATE_LOSS_CAUSE = 3 ∧ d.fld WHORL.HO_ELAPSED_S = 0)) ∧
    (c.measLost = true → Ends .measurementLoss s fun d => d.lock = lkHOLDOVER ∧ d.fld WHORL.HO_ELAPSED_S = 0 ∧
      d.whorl.hoStart = c.now ∧ (c.lock = lkLOCKED → d.fld WHORL.LOCK_STATE_LOSS_CAUSE = 1 ∧ c.Tells d EV.WHORL_SOURCE_LOST)) ∧
    (c.measLost = false → Idles .measurementLoss s)) ∧
  (∀ s : State, let c := s.chip;
    let ms := c.whorl.hoMs + 1;
    let e := min (c.whorl.hoE0 + (c.fld WHORL.HO_FREQ_PS_PER_S * ms * 2000000 + c.fld WHORL.HO_AGING_FS_PER_S2 * ms * ms) / 2000000000000) 0xFFFFFFFF;
    (c.hoUpdateDue = true → c.whorl.hoFaulted = false → Ends .hoErrorUpdate s fun d =>
      d.fld WHORL.HO_ELAPSED_S = min (ms / 1000) 0xFFFFFFFF ∧ d.fld WHORL.HO_ERROR_NS = e ∧ d.whorl.hoMs = ms ∧ d.lock = lkHOLDOVER ∧
      (c.whorl.hoLimitRaised = false → c.fld WHORL.HO_LIMIT_NS < e → d.whorl.hoLimitRaised = true ∧ c.Tells d EV.WHORL_HOLDOVER_LIMIT) ∧
      c.KeepsCells d [WHORL.HO_ELAPSED_S.key 0 0, WHORL.HO_ERROR_NS.key 0 0, EV.WHORL_HOLDOVER_LIMIT.key 0] ∧ c.SameStores d) ∧
    (c.hoUpdateDue = true → c.whorl.hoFaulted = true → Ends .hoErrorUpdate s fun d => d.fld WHORL.HO_ERROR_NS = c.fld WHORL.HO_ERROR_NS) ∧
    (c.hoUpdateDue = false → Idles .hoErrorUpdate s))

/-- A valid measurement, from a one-step Sync or from the Follow_Up of the waiting Sync, counts, fills LAST_OFFSET, and in LOCKED within
OUTLIER_NS updates FREQ by the code of R104; a two-step Sync waits for its Follow_Up (R102 to R104, R106). In LOCKED an outlier counts and
changes nothing else, and the last of OUTLIER_MAX in a row loses the source: the state becomes ACQUIRING. In ACQUIRING the state becomes
LOCKED when GOOD_RUN reaches LOCK_COUNT and no change is pending; UNLOCKED and HOLDOVER become ACQUIRING (Table 03.5, R106). Outside
LOCKED an offset of at least STEP_THRESH_NS asks for a step of −θ, and the servo keeps its integrator and FREQ (R105). A message that
is not the servo's changes nothing (R101; assumption log, entry 2). The arithmetic of the measurement, as far as R102 to R104 leave it
open, is the model's reading (entry 31); the rounding of LAST_OFFSET, the saturation of FREQ, LOCK_COUNT = 0, and that GOOD_RUN runs on
across lock states are its choices (entries 90 and 94). -/
def Obligations.PtpMeasurements : Prop :=
  ∀ (s : State) (n : Fin 4) (phi : Fin 2560) (m : PtpMsg), let c := s.chip
    (c.ptpForServo n.val m = false → Idles (.ptpSyncRx n phi m) s ∧ Idles (.ptpFollowUpRx n m) s) ∧
    (c.ptpForServo n.val m = true →
      let good (theta : Int) (d : Chip) : Prop :=
        let run := if theta.natAbs < c.fld WHORL.LOCK_CFG_LOCK_THRESH_NS * nsQ then min 255 (c.fld WHORL.LOCK_STATE_GOOD_RUN + 1) else 0
        let fits := theta.natAbs ≤ c.fld WHORL.OUTLIER_NS_NS * nsQ
        let last := max 1 (c.fld WHORL.LOCK_CFG_OUTLIER_MAX) ≤ c.fld WHORL.LOCK_STATE_OUTLIER_RUN + 1
        let steps := max 1000 (c.fld WHORL.STEP_THRESH_NS) * nsQ ≤ theta.natAbs ∧ c.stepPending = false
        d.fld WHORL.MEAS_CNT_COUNT = (c.fld WHORL.MEAS_CNT_COUNT + 1) % 2 ^ 32 ∧
        d.fld64 WHORL.LAST_OFFSET_LO_VAL WHORL.LAST_OFFSET_HI_VAL = unsigned 64 (theta / 2 ^ 26) ∧ d.whorl.lastMeas = c.now ∧
        d.fld WHORL.LOCK_STATE_GOOD_RUN = run ∧
        (c.lock = lkLOCKED → fits →
          let ns := Int.tdiv theta nsQ
          let e := if 0 ≤ c.logTau then Int.tdiv ns (2 ^ c.logTau.toNat : Nat) else ns * (2 ^ (-c.logTau).toNat : Nat)
          let integ := c.whorl.integ + e / (2 ^ c.fld WHORL.SERVO_CFG_KI_SHIFT : Nat)
          let y := integ + e / (2 ^ c.fld WHORL.SERVO_CFG_KP_SHIFT : Nat)
          d.whorl.integ = integ ∧ d.lock = lkLOCKED ∧ d.fld WHORL.LOCK_STATE_OUTLIER_RUN = 0 ∧
            d.fld WHORL.FREQ_ADJ = unsigned 32 (max (-(2 ^ 31)) (min (2 ^ 31 - 1) (Int.tdiv (-(y * 40 * 4294967296)) 1000000000)))) ∧
        (c.lock = lkLOCKED → ¬ fits → ¬ last → d.lock = lkLOCKED ∧ c.Counts d WHORL.LOCK_STATE_OUTLIER_RUN ∧
          c.Counts d WHORL.OUTLIER_CNT_COUNT ∧ c.Tells d EV.WHORL_OUTLIER ∧ d.fld WHORL.FREQ_ADJ = c.fld WHORL.FREQ_ADJ ∧
          d.whorl.integ = c.whorl.integ) ∧
        (c.lock = lkLOCKED → ¬ fits → last → d.lock = lkACQUIRING ∧ d.fld WHORL.LOCK_STATE_LOSS_CAUSE = 2 ∧
          c.Tells d EV.WHORL_SOURCE_LOST) ∧
        (c.lock = lkACQUIRING → c.fld WHORL.LOCK_CFG_LOCK_COUNT ≤ run → c.stepPending = false →
          d.lock = lkLOCKED ∧ c.Tells d EV.WHORL_LOCKED) ∧
        (c.lock = lkACQUIRING → (run < c.fld WHORL.LOCK_CFG_LOCK_COUNT ∨ c.stepPending = true) → d.lock = lkACQUIRING) ∧
        ((c.lock = lkUNLOCKED ∨ c.lock = lkHOLDOVER) → d.lock = lkACQUIRING) ∧
        (c.lock ∈ [lkUNLOCKED, lkACQUIRING, lkHOLDOVER] → steps → d.whorl.step.remain = -theta ∧ d.fld WHORL.STEP_STATUS_ORIGIN = 1 ∧
          d.on WHORL.STEP_STATUS_BACKWARD = decide (0 < theta) ∧ d.whorl.integ = c.whorl.integ ∧
          d.fld WHORL.FREQ_ADJ = c.fld WHORL.FREQ_ADJ)
      (m.twoStep = false → Ends (.ptpSyncRx n phi m) s fun d => d.whorl.sync = none ∧
        good (c.ptpTheta (c.rxStamp n.val phi) m.originSec.toNat m.originNs.toNat (signed 64 m.corr.toNat) + c.whorl.step.remain) d) ∧
      (m.twoStep = true → Becomes (.ptpSyncRx n phi m) s
        { c with whorl := { c.whorl with sync := some { seq := m.seq.toNat, t2 := c.rxStamp n.val phi, corr := signed 64 m.corr.toNat } } }
        [] fun _ => True) ∧
      (∀ r, c.whorl.sync = some r → r.seq = m.seq.toNat → Ends (.ptpFollowUpRx n m) s fun d => d.whorl.sync = none ∧
        good (c.ptpTheta r.t2 m.originSec.toNat m.originNs.toNat (r.corr + signed 64 m.corr.toNat) + c.whorl.step.remain) d) ∧
      ((c.whorl.sync = none ∨ ∃ r, c.whorl.sync = some r ∧ r.seq ≠ m.seq.toNat) → Idles (.ptpFollowUpRx n m) s))

/-- A host request to change network time is refused with SOURCE = PTP or while a change is pending; else a change below 1 µs is slewed,
one forward of at least 1 µs is applied whole at the next tick, and one backward waits, slews or holds by Table 03.6 (R110 to R112,
R114). A forward change moves OFFSET by the whole of it; a backward one moves it back, raises the watermark by as much and holds; the
slew and the hold end when nothing is left of them. A part that waits when RUN and HOLDOVER are left, or that a hold then leaves over, is
applied whole at the next tick (R114; for the remainder the model's reading, assumption log, entry 90). Monotonic time never moves (R91,
R113 to R115). When a step or a slew takes effect and how a hold ends are the model's readings (entries 32 and 33), and that a change of
0 raises nothing is its choice (entry 94); so it is that a command which is not due changes nothing (entry 2). -/
def Obligations.NetworkTimeChanges : Prop :=
  (∀ (s : State) (p : Port) (v : Word), let c := s.chip;
    let t := c.adjChange (bitsOf v.toNat 1 1 == 1);
    let st (whole : Bool) (boundary : Int) : StepChange :=
      { remain := t, whole := whole, slewPpm := max 1 (min 500 (c.fld WHORL.STEP_CFG_SLEW_PPM)),
        periodNs := boundaryPeriod (c.fld WHORL.STEP_BOUNDARY_PERIOD_NS), boundary := boundary, due := c.aon + 1 };
    let takes (whole : Bool) (boundary : Int) (state : Nat) : Prop :=
      Becomes (.adjRequest p v) s { c with whorl := { c.whorl with step := st whole boundary } }
        [WHORL.STEP_STATUS_BACKWARD.key 0 0, WHORL.STEP_STATUS_ORIGIN.key 0 0, WHORL.STEP_STATUS_STATE.key 0 0] fun d =>
        d.on WHORL.STEP_STATUS_BACKWARD = decide (t < 0) ∧ d.fld WHORL.STEP_STATUS_ORIGIN = 0 ∧ d.stepState = state;
    c.Open p .whorl 0 → bitsOf v.toNat 0 0 = 1 →
    ((c.whorl.source = 1 ∨ c.stepPending = true) →
      SetsRegs (.adjRequest p v) s (EV.WHORL_STEP_REFUSED.key 0 :: errKeys 2) fun d =>
        c.Counted d 2 WHORL.ADJ_CMD_GO.off p ∧ c.Tells d EV.WHORL_STEP_REFUSED) ∧
    (c.whorl.source ≠ 1 → c.stepPending = false →
      (t = 0 → Idles (.adjRequest p v) s) ∧
      (t ≠ 0 → t.natAbs < usQ → takes false 0 stSLEWING) ∧
      ((usQ : Int) ≤ t → takes true 0 stIDLE) ∧
      (t ≤ -(usQ : Int) → c.running = true → c.on WHORL.STEP_CFG_POLICY = false → takes false 0 stSLEWING) ∧
      (t ≤ -(usQ : Int) → c.running = true → c.on WHORL.STEP_CFG_POLICY = true →
        takes false (nextBoundary c.net (boundaryPeriod (c.fld WHORL.STEP_BOUNDARY_PERIOD_NS))) stWAIT) ∧
      (t ≤ -(usQ : Int) → c.running = false → takes true 0 stHOLDING))) ∧
  (∀ s : State, let c := s.chip;
    let back (b : Nat) (d : Chip) : Prop := d.whorl.offset = c.whorl.offset - b ∧ d.whorl.mark = max c.whorl.mark c.now + b ∧
      d.now = c.now ∧ d.stepState = stHOLDING ∧ d.whorl.step.remain = c.whorl.step.remain + b ∧ c.Tells d EV.WHORL_STEP_APPLIED;
    (c.wholeDue = true → 0 ≤ c.whorl.step.remain → Ends .stepApply s fun d =>
      d.whorl.offset = c.whorl.offset + c.whorl.step.remain ∧ d.now = c.now ∧ d.whorl.step = {} ∧ c.Tells d EV.WHORL_STEP_APPLIED) ∧
    (c.wholeDue = true → c.whorl.step.remain < 0 → Ends .stepApply s (back c.whorl.step.remain.natAbs)) ∧
    (c.wholeDue = false → Idles .stepApply s) ∧
    (c.boundaryDue = true → Ends .stepAtBoundary s (back (min c.whorl.step.remain.natAbs (c.whorl.step.periodNs * nsQ)))) ∧
    (c.boundaryDue = false → Idles .stepAtBoundary s) ∧
    (c.stepState = stSLEWING → c.whorl.step.remain = 0 →
      Becomes .slewDone s { c with whorl := { c.whorl with step := {} } } [WHORL.STEP_STATUS_STATE.key 0 0, EV.WHORL_SLEW_DONE.key 0]
        fun d => d.stepState = stIDLE ∧ c.Tells d EV.WHORL_SLEW_DONE) ∧
    ((c.stepState ≠ stSLEWING ∨ c.whorl.step.remain ≠ 0) → Idles .slewDone s) ∧
    (c.holdOver = true → c.whorl.step.remain = 0 →
      Becomes .holdEnd s { c with whorl := { c.whorl with mark := c.now, step := {} } }
        [WHORL.STEP_STATUS_STATE.key 0 0, EV.WHORL_HOLD_END.key 0] fun d => d.stepState = stIDLE ∧ c.Tells d EV.WHORL_HOLD_END) ∧
    (c.holdOver = true → c.whorl.step.remain ≠ 0 →
      Becomes .holdEnd s { c with whorl := { c.whorl with mark := c.now, step := { c.whorl.step with
          boundary := nextBoundary c.net c.whorl.step.periodNs, whole := !c.running, due := c.aon + 1 } } }
        [WHORL.STEP_STATUS_STATE.key 0 0, EV.WHORL_HOLD_END.key 0] fun d => d.stepState = stWAIT ∧ c.Tells d EV.WHORL_HOLD_END) ∧
    (c.holdOver = false → Idles .holdEnd s) ∧
    (c.stepState = stWAIT → c.running = true → c.safeCause ≠ 0 → Ends .safeEntry s fun d =>
      d.whorl = { c.whorl with step := { c.whorl.step with whole := true, due := c.aon + 1 } } ∧ d.stepState = stWAIT))

/-- PPS_OUT asserts once for each second, while the watermark allows it; an edge of PPS_IN of the right polarity is captured, or ignored
within 500 ms of the last; a missing one is told after 1.5 s (R115, R119, R120). A write of a CYCLE_MARK's CTRL takes effect at once, or
after the pulse in progress; a periodic mark finds its next edge from START, and a one-shot whose START is past is missed (R121, R122).
The edge of a mark starts a pulse of its width; a one-shot is then no longer armed. An edge is placed at its instant to 1/2,560 of a tick,
and its pulse lasts from there (R93; which point, assumption log, entry 90). Nothing fires in a tick that applies a backward part (R114,
R115). That START is latched at the write of CTRL and PERIOD and WIDTH when it takes effect, that PPS_IN_MISSING comes again each second,
and which edges SEGMENT mode has are the model's choices (assumption log, entries 35, 37 and 86); so it is that a command which is not
due changes nothing (entry 2). -/
def Obligations.PpsAndCycleMarks : Prop :=
  (∀ (s : State) (phi : Fin 2560) (rising : Bool), let c := s.chip;
    let m := c.now + (c.withinTick phi).toNat;
    let near := ∃ t, c.whorl.ppsLast = some t ∧ m < t + 500 * msQ;
    let at_ := c.placed (c.ppsEdgeAt c.whorl.ppsNext - c.whorl.offset);
    (c.ppsOutDue = true → Becomes .ppsOutEdge s
      { c with whorl := { c.whorl with ppsNext := c.whorl.ppsNext + 1, ppsAt := at_,
                                       ppsEnd := at_ + c.fld WHORL.PPS_CFG_OUT_WIDTH_NS * nsQ } }
      [] fun _ => True) ∧
    (c.ppsOutDue = false → Idles .ppsOutEdge s) ∧
    (c.backwardNow = true → Idles .ppsOutEdge s ∧ ∀ k, Idles (.cycleMarkEdge k) s) ∧
    (c.ppsInTaken rising = true → near →
      SetsRegs (.ppsInEdge phi rising) s [WHORL.PPS_IN_CNT_IGNORED.key 0 0] fun d =>
        d.fld WHORL.PPS_IN_CNT_IGNORED = min (c.fld WHORL.PPS_IN_CNT_IGNORED + 1) 65535) ∧
    (c.ppsInTaken rising = true → ¬ near → c.whorl.source ≠ 2 →
      Becomes (.ppsInEdge phi rising) s { c with whorl := { c.whorl with ppsLast := some m, ppsMissFrom := m } }
        [WHORL.PPS_IN_SEC_LO_SEC.key 0 0, WHORL.PPS_IN_SEC_HI_SEC.key 0 0, WHORL.PPS_IN_NS_NS.key 0 0, WHORL.PPS_IN_SUB_SUBNS.key 0 0,
         WHORL.PPS_IN_SUB_NEW.key 0 0, WHORL.PPS_IN_CNT_ACCEPTED.key 0 0, EV.WHORL_PPS_IN_EDGE.key 0] fun d =>
        d.fld64 WHORL.PPS_IN_SEC_LO_SEC WHORL.PPS_IN_SEC_HI_SEC = stampSec (c.netStamp phi) ∧
        d.fld WHORL.PPS_IN_NS_NS = stampNs (c.netStamp phi) ∧ d.fld WHORL.PPS_IN_SUB_SUBNS = stampSub (c.netStamp phi) ∧
        d.fld WHORL.PPS_IN_SUB_NEW = 1 ∧ c.Tells d EV.WHORL_PPS_IN_EDGE ∧
        d.fld WHORL.PPS_IN_CNT_ACCEPTED = (c.fld WHORL.PPS_IN_CNT_ACCEPTED + 1) % 65536) ∧
    (c.ppsInTaken rising = true → ¬ near → c.whorl.source = 2 → Ends (.ppsInEdge phi rising) s fun d =>
      d.fld WHORL.MEAS_CNT_COUNT = (c.fld WHORL.MEAS_CNT_COUNT + 1) % 2 ^ 32 ∧ d.fld WHORL.PPS_IN_NS_NS = stampNs (c.netStamp phi)) ∧
    (c.ppsInTaken rising = false → Idles (.ppsInEdge phi rising) s) ∧
    (c.ppsInMissingDue = true → Becomes .ppsInMissing s
      { c with whorl := { c.whorl with ppsMissFrom := c.whorl.ppsMissFrom + secQ } } [EV.WHORL_PPS_IN_MISSING.key 0] fun d =>
        c.Tells d EV.WHORL_PPS_IN_MISSING) ∧
    (c.ppsInMissingDue = false → Idles .ppsInMissing s)) ∧
  (∀ (s : State) (p : Port) (k : Fin 8) (v : Word), let c := s.chip;
    let m := c.markRec k.val;
    let mode := bitsOf v.toNat 1 0;
    let start := c.markStart k.val;
    let stays (d : Chip) : Prop := d.now = c.now ∧ d.whorl.offset = c.whorl.offset ∧ ∀ j, j ≠ k.val → d.markRec j = c.markRec j;
    (c.Open p .whorl 0 → c.now < m.pulseEnd → Ends (.cycleMarkArm p k v) s fun d =>
      d.markRec k.val = { m with start := start, waiting := true } ∧ stays d) ∧
    (c.Open p .whorl 0 → m.pulseEnd ≤ c.now → Ends (.cycleMarkArm p k v) s fun d => stays d ∧
      (mode = 1 → (d.markRec k.val).mode = 1 ∧ d.fld WHORL.MARK_CTRL_ACTIVE 0 k.val = 1 ∧
        (d.markRec k.val).period = c.markPeriod k.val * nsQ ∧ (d.markRec k.val).width = c.markWidth k.val * nsQ ∧
        (d.markRec k.val).next = firstEdge start c.net (c.markPeriod k.val * nsQ)) ∧
      (mode = 2 → start < c.net → (d.markRec k.val).mode = 0 ∧ d.fld WHORL.MARK_CTRL_ACTIVE 0 k.val = 0 ∧
        d.fld WHORL.MARK_MISSED_COUNT 0 k.val = min (c.fld WHORL.MARK_MISSED_COUNT 0 k.val + 1) (2 ^ 32 - 1) ∧
        c.Tells d EV.WHORL_MARK_MISSED) ∧
      (mode = 2 → c.net ≤ start → (d.markRec k.val).next = start ∧ d.fld WHORL.MARK_CTRL_ACTIVE 0 k.val = 1) ∧
      (mode = 3 → d.fld WHORL.MARK_CTRL_ACTIVE 0 k.val = if bitsOf v.toNat 14 8 ≤ 95 then 1 else 0) ∧
      (mode = 0 → (d.markRec k.val).mode = 0 ∧ d.fld WHORL.MARK_CTRL_ACTIVE 0 k.val = 0)) ∧
    (c.mode ≠ mRESET → c.markDue k.val = true → Ends (.cycleMarkEdge k) s fun d => stays d ∧
      (d.markRec k.val).pulseAt = c.placed (m.next - c.whorl.offset) ∧
      (d.markRec k.val).pulseEnd = c.placed (m.next - c.whorl.offset) + m.width ∧
      (m.mode = 1 → (d.markRec k.val).next = m.next + m.period) ∧
      (m.mode = 2 → (d.markRec k.val).mode = 0 ∧ d.fld WHORL.MARK_CTRL_ACTIVE 0 k.val = 0)) ∧
    (∀ cyc, c.mode ≠ mRESET → c.markDue k.val = false → c.segEdge k.val = some cyc → Ends (.cycleMarkEdge k) s fun d => stays d ∧
      d.markRec k.val = { m with pulseAt := c.placed (cyc + m.segOffset), pulseEnd := c.placed (cyc + m.segOffset) + m.width,
                                 lastCycle := cyc }) ∧
    (c.markDue k.val = false → c.segEdge k.val = none → Idles (.cycleMarkEdge k) s))

/-! ### The Skein (chapter 04) -/

/-- The engine's start: DISABLED to LISTEN or PLAIN when the PHY is ready, a cold start when the listen timer runs out and it is
allowed, back-off after a collision, LISTEN again after sixteen, TRIAL after a COLDSTART without one, and DISABLED again when its page
or its domain is off (R156 to R158, R166). A COLDSTART waits for one inter-frame gap after carrier and after the engine's own last
frame; one that defers counts once (R158, R221). A plain segment drops the command payloads that wait, and so does a table that has no
turn for them (R148, R167). TT_CMD with the key judges the admin table and sets PENDING, or REFUSED with the first check
of Table 04.8 that it fails; at the switch point the oper table is the admin table, and a master sends in no turn before its next beacon (R138, R139, R162). PLAIN,
DUAL and NODE_CFG stay while EN = 1, and a write that would change one counts (R167). When the engine starts, what counts as carrier, and
that the back-off is a free draw are the model's choices (assumption log, entries 3, 43 and 45); so it is that a command which is not
due changes nothing (entry 2). -/
def Obligations.SegmentStartAndTables : Prop :=
  (∀ (s : State) (n : Fin 96) (free : Option (BitVec 96)) (p : Port) (v : Word), let c := s.chip;
    let e := c.eng n.val;
    let disabled (d : Chip) : Prop := d.seg n.val = sgDISABLED ∧ (d.eng n.val).lastTx = none ∧ (d.eng n.val).csma = none ∧
      (d.eng n.val).anchored = false ∧ ∀ t, t < 64 → d.fld SEGMENT.TURN_STAT_JOINED n.val t = 0;
    (c.segEnabled n.val = true → c.seg n.val = sgDISABLED →
      (c.on SEGMENT.CFG_PLAIN n.val = true → e.cmdq = [] → SetsRegs (.segmentPhyReady n) s
        [SEGMENT.SYNC_STATUS_STATE.key n.val 0, SEGMENT.SYNC_STATUS_ACTIVE.key n.val 0, EV.SEGMENT_SYNC_CHANGE.key n.val]
        fun d => d.seg n.val = sgPLAIN ∧ c.Tells d EV.SEGMENT_SYNC_CHANGE n.val) ∧
      (c.on SEGMENT.CFG_PLAIN n.val = true → e.cmdq ≠ [] → Ends (.segmentPhyReady n) s fun d =>
        d.seg n.val = sgPLAIN ∧ c.Tells d EV.SEGMENT_SYNC_CHANGE n.val ∧ (d.eng n.val).cmdq = [] ∧
        c.Counts d SEGMENT.TX_DROP_COUNT n.val e.cmdq.length ∧ d.fld SEGMENT.CMDQ_STATUS_DEPTH n.val = 0 ∧
        d.fld SEGMENT.CMDQ_STATUS_FULL n.val = 0) ∧
      (c.on SEGMENT.CFG_PLAIN n.val = false → Ends (.segmentPhyReady n) s fun d =>
        c.Listens d n.val ∧ c.Tells d EV.SEGMENT_SYNC_CHANGE n.val)) ∧
    ((c.segEnabled n.val = false ∨ c.seg n.val ≠ sgDISABLED) → Idles (.segmentPhyReady n) s) ∧
    (c.segEnabled n.val = false → c.seg n.val ≠ sgDISABLED → Ends (.segmentDisable n none) s disabled) ∧
    (c.segEnabled n.val = true → Idles (.segmentDisable n none) s) ∧
    (c.Open p .segment n.val → v.toNat % 8 = 0 → c.seg n.val ≠ sgDISABLED → Ends (.segmentDisable n (some (p, v))) s fun d =>
      disabled d ∧ d.hdr HDR.CTRL_EN (PageCls.segment.base + n.val) = 0) ∧
    (c.listenOver n.val = true →
      (c.seg n.val = sgLISTEN → c.mayStart n.val = true → Ends (.listenTimeout n free) s fun d =>
        d.seg n.val = sgCONTEND ∧ d.fld SEGMENT.CS_STATUS_COLLISIONS n.val = 0 ∧
        (c.lineFree n.val free ≤ c.now → d.Sends n.val c.now ftCOLDSTART ∧ (d.eng n.val).backoffEnd = none) ∧
        (c.now < c.lineFree n.val free → (d.eng n.val).backoffEnd = some (c.lineFree n.val free) ∧ (d.eng n.val).lastTx = e.lastTx ∧
          (c.carrierNow free = true → c.Counts d SEGMENT.MAC_DEFERRED_COUNT n.val))) ∧
      ((c.seg n.val ≠ sgLISTEN ∨ c.mayStart n.val = false) → Ends (.listenTimeout n free) s fun d => c.Listens d n.val)) ∧
    (c.listenOver n.val = false → Idles (.listenTimeout n free) s) ∧
    (c.coldstartSentDue n.val = true → SetsRegs (.coldstartSent n) s
      [SEGMENT.CS_STATUS_TRIAL_LEFT.key n.val 0, SEGMENT.SYNC_STATUS_STATE.key n.val 0, SEGMENT.SYNC_STATUS_ACTIVE.key n.val 0,
       EV.SEGMENT_SYNC_CHANGE.key n.val] fun d => d.seg n.val = sgTRIAL ∧ d.fld SEGMENT.CS_STATUS_TRIAL_LEFT n.val = 3) ∧
    (c.coldstartSentDue n.val = false → Idles (.coldstartSent n) s) ∧
    (c.seg n.val = sgTRIAL → c.now ≤ e.txEnd → Ends (.contendCollision n) s fun d => d.seg n.val = sgCONTEND ∧
      d.fld SEGMENT.CS_STATUS_TRIAL_LEFT n.val = 0 ∧ (d.eng n.val).txEnd = c.now + 3200 * nsQ ∧ d.freeCtr = c.freeCtr + 1 ∧
      (d.eng n.val).backoffEnd = some (c.now + 3200 * nsQ +
        Config.freeValue c.freeCtr % 2 ^ min (c.fld SEGMENT.CS_STATUS_COLLISIONS n.val + 1) 10 * 51200 * nsQ)) ∧
    (c.seg n.val = sgCONTEND → e.backoffEnd = none → c.now ≤ e.txEnd → let k := c.fld SEGMENT.CS_STATUS_COLLISIONS n.val + 1
      (16 ≤ k → Ends (.contendCollision n) s fun d => c.Listens d n.val ∧ c.Counts d SEGMENT.CS_FAIL_COUNT n.val ∧
        c.Tells d EV.SEGMENT_COLLISION n.val) ∧
      (k < 16 → Ends (.contendCollision n) s fun d => d.seg n.val = sgCONTEND ∧ d.fld SEGMENT.CS_STATUS_COLLISIONS n.val = k ∧
        d.freeCtr = c.freeCtr + 1 ∧ (d.eng n.val).txEnd = c.now + 3200 * nsQ ∧
        (d.eng n.val).backoffEnd = some (c.now + 3200 * nsQ + Config.freeValue c.freeCtr % 2 ^ min k 10 * 51200 * nsQ))) ∧
    ((c.seg n.val ≠ sgCONTEND → c.seg n.val ≠ sgTRIAL → Idles (.contendCollision n) s) ∧
      (e.txEnd < c.now → Idles (.contendCollision n) s)) ∧
    (c.backoffOver n.val = true →
      (c.seg n.val = sgCONTEND → c.lineFree n.val free ≤ c.now → Ends (.backoffExpiry n free) s fun d =>
        d.Sends n.val c.now ftCOLDSTART ∧ (d.eng n.val).backoffEnd = none) ∧
      (c.seg n.val = sgCONTEND → c.now < c.lineFree n.val free → Ends (.backoffExpiry n free) s fun d => d.seg n.val = sgCONTEND ∧
        (d.eng n.val).backoffEnd = some (c.lineFree n.val free) ∧ (d.eng n.val).lastTx = e.lastTx ∧
        (c.carrierNow free = true → e.coldDeferred = false → c.Counts d SEGMENT.MAC_DEFERRED_COUNT n.val)) ∧
      (c.seg n.val ≠ sgCONTEND → Becomes (.backoffExpiry n free) s (c.setEng n.val { e with backoffEnd := none }) [] fun _ => True)) ∧
    (c.backoffOver n.val = false → Idles (.backoffExpiry n free) s)) ∧
  (∀ (s : State) (n : Fin 96) (p : Port) (v : Word) (nodeCfg : Bool), let c := s.chip;
    let page := PageCls.segment.base + n.val;
    let e := c.eng n.val;
    let held := [SEGMENT.NODE_CFG_NODE_ID.key n.val 0, SEGMENT.NODE_CFG_CS_PRIO.key n.val 0];
    let stays (d : Chip) : Prop := d.fld SEGMENT.NODE_CFG_NODE_ID n.val = c.fld SEGMENT.NODE_CFG_NODE_ID n.val ∧
      d.fld SEGMENT.NODE_CFG_CS_PRIO n.val = c.fld SEGMENT.NODE_CFG_CS_PRIO n.val;
    (c.Open p .segment n.val →
      ((bitsOf v.toNat 31 16 ≠ 0x5454 ∨ (bitsOf v.toNat 0 0 = 1 ∧ c.fld SEGMENT.TT_STATUS_STATE n.val = 1)) →
        SetsRegs (.ttCommit p n v) s (errKeys page) fun d => c.Counted d page 0x074 p) ∧
      (bitsOf v.toNat 31 16 = 0x5454 → bitsOf v.toNat 0 0 = 0 → Idles (.ttCommit p n v) s) ∧
      (bitsOf v.toNat 31 16 = 0x5454 → bitsOf v.toNat 0 0 = 1 → c.fld SEGMENT.TT_STATUS_STATE n.val ≠ 1 →
        (c.adminCause n.val = 0 → Ends (.ttCommit p n v) s fun d => d.fld SEGMENT.TT_STATUS_STATE n.val = 1 ∧
          d.fld SEGMENT.TT_STATUS_CAUSE n.val = 0 ∧ (d.eng n.val).switchEnd = !c.commonPoint n.val ∧
          c.KeepsCells d [SEGMENT.TT_STATUS_STATE.key n.val 0, SEGMENT.TT_STATUS_CAUSE.key n.val 0] ∧ d.segTables = c.segTables) ∧
        (c.adminCause n.val ≠ 0 → SetsRegs (.ttCommit p n v) s
          [SEGMENT.TT_STATUS_STATE.key n.val 0, SEGMENT.TT_STATUS_CAUSE.key n.val 0, EV.SEGMENT_TABLE_SWITCH.key n.val] fun d =>
          d.fld SEGMENT.TT_STATUS_STATE n.val = 3 ∧ d.fld SEGMENT.TT_STATUS_CAUSE n.val = c.adminCause n.val ∧
          c.Tells d EV.SEGMENT_TABLE_SWITCH n.val)) ∧
      (c.hdr HDR.CTRL_EN page = 1 → c.fld SEGMENT.CFG_PLAIN n.val < 2 → c.fld SEGMENT.CFG_DUAL n.val < 2 →
        Ends (.segmentCfgWrite p n nodeCfg v) s fun d =>
        d.fld SEGMENT.CFG_PLAIN n.val = c.fld SEGMENT.CFG_PLAIN n.val ∧ d.fld SEGMENT.CFG_DUAL n.val = c.fld SEGMENT.CFG_DUAL n.val ∧
        (nodeCfg = false → d.fld SEGMENT.CFG_CONT_TX_EN n.val = bitsOf v.toNat 4 4 ∧
          ((bitsOf v.toNat 0 0 ≠ c.fld SEGMENT.CFG_PLAIN n.val ∨ bitsOf v.toNat 1 1 ≠ c.fld SEGMENT.CFG_DUAL n.val) →
            c.Counted d page 0x040 p) ∧
          (bitsOf v.toNat 0 0 = c.fld SEGMENT.CFG_PLAIN n.val → bitsOf v.toNat 1 1 = c.fld SEGMENT.CFG_DUAL n.val →
            c.KeepsCells d ([SEGMENT.CFG_PLAIN, SEGMENT.CFG_DUAL, SEGMENT.CFG_CS_EN, SEGMENT.CFG_CS_ANYTIME, SEGMENT.CFG_CONT_TX_EN, SEGMENT.CFG_JOIN_REQUIRED,
              SEGMENT.CFG_JOIN_HOST, SEGMENT.CFG_PRECLASS].map fun r => r.key n.val 0)))) ∧
      (c.hdr HDR.CTRL_EN page = 1 → c.fld SEGMENT.NODE_CFG_NODE_ID n.val < 64 → c.fld SEGMENT.NODE_CFG_CS_PRIO n.val < 256 →
        ((bitsOf v.toNat 5 0 ≠ c.fld SEGMENT.NODE_CFG_NODE_ID n.val ∨ bitsOf v.toNat 15 8 ≠ c.fld SEGMENT.NODE_CFG_CS_PRIO n.val) →
          SetsRegs (.segmentCfgWrite p n true v) s (held ++ errKeys page) fun d => c.Counted d page 0x044 p ∧ stays d) ∧
        (bitsOf v.toNat 5 0 = c.fld SEGMENT.NODE_CFG_NODE_ID n.val → bitsOf v.toNat 15 8 = c.fld SEGMENT.NODE_CFG_CS_PRIO n.val →
          SetsRegs (.segmentCfgWrite p n true v) s held stays)) ∧
      (c.hdr HDR.CTRL_EN page ≠ 1 → Ends (.segmentCfgWrite p n true v) s fun d =>
        d.fld SEGMENT.NODE_CFG_NODE_ID n.val = bitsOf v.toNat 5 0 ∧ d.fld SEGMENT.NODE_CFG_CS_PRIO n.val = bitsOf v.toNat 15 8)) ∧
    (c.ttSwitchDue n.val = true → Ends (.ttSwitch n) s fun d => (∀ t w, t < 65 → w < 4 → d.turnW n.val 1 t w = c.turnW n.val 0 t w) ∧
      d.fld SEGMENT.TT_STATUS_STATE n.val = 2 ∧ c.Tells d EV.SEGMENT_TABLE_SWITCH n.val ∧ d.segBuf = c.segBuf ∧
      (d.eng n.val).cmdq = e.cmdq.filter (fun x => !d.unholdable n.val x) ∧
      (c.seg n.val = sgMASTER → (d.eng n.val).turnsOpen = false) ∧
      d.fld SEGMENT.OPER_CYCLE_LEN_NS n.val = c.fld SEGMENT.ADMIN_CYCLE_LEN_NS n.val % 2 ^ 27 ∧
      d.fld SEGMENT.OPER_PHASE_NS n.val = c.fld SEGMENT.ADMIN_PHASE_NS n.val % 2 ^ 27 ∧
      d.fld SEGMENT.TT_STATUS_OPER_TABLE_ID n.val = c.fld SEGMENT.ADMIN_TABLE_ID_ID n.val % 2 ^ 16) ∧
    (c.ttSwitchDue n.val = false → Idles (.ttSwitch n) s))

/-- At each grid point of TRIAL a COLDSTART is sent, or LISTEN entered when there is carrier, and after the third the engine is master;
a master sends a BEACON at each grid point; a follower that misses one counts it, and after LOSS_CYCLES of them listens again, or takes
over; every cycle without a beacon is one that each partner turn ends stale in (R117, R153, R156, R158, R160). A frame starts on the line
where its TDC places it, at most 1/2,560 of a tick before the grid point (R93; which point, the model's choice: assumption log, entry
90). A command that is not due changes nothing (the model's choice, too: entry 2). -/
def Obligations.CyclesAreKept : Prop :=
  ∀ (s : State) (n : Fin 96) (carrier : Bool), let c := s.chip
    let e := c.eng n.val
    let left := c.fld SEGMENT.CS_STATUS_TRIAL_LEFT n.val
    let runs := e.missRun + 1
    let take := c.seg n.val = sgFOLLOWER ∧ c.on SEGMENT.CFG_DUAL n.val = true ∧ c.mayStart n.val = true ∧ c.takeoverMiss n.val ≤ runs
    let point := (e.nextGrid - c.whorl.offset).toNat
    let placed := c.edgeMono point
    (c.seg n.val = sgTRIAL → e.nextGrid ≤ c.net →
      (left = 0 → Ends (.trialGridPoint n carrier) s fun d => d.seg n.val = sgMASTER ∧ d.on SEGMENT.SYNC_STATUS_ACTIVE n.val = false ∧
        d.Sends n.val placed ftBEACON ∧ d.fld SEGMENT.SYNC_STATUS_CYCLE n.val = 3 ∧ c.Tells d EV.SEGMENT_MASTER_CHANGE n.val) ∧
      (left ≠ 0 → carrier = true → Ends (.trialGridPoint n carrier) s fun d => c.Listens d n.val) ∧
      (left ≠ 0 → left < 4 → carrier = false → Ends (.trialGridPoint n carrier) s fun d => d.Sends n.val placed ftCOLDSTART ∧
        d.seg n.val = sgTRIAL ∧ d.fld SEGMENT.SYNC_STATUS_CYCLE n.val = 3 - left ∧ d.fld SEGMENT.CS_STATUS_TRIAL_LEFT n.val = left - 1 ∧
        (d.eng n.val).nextGrid = e.nextGrid + (c.fld SEGMENT.OPER_CYCLE_LEN_NS n.val * nsQ : Nat))) ∧
    ((c.seg n.val ≠ sgTRIAL ∨ c.net < e.nextGrid) → Idles (.trialGridPoint n carrier) s) ∧
    (c.seg n.val = sgMASTER → e.nextGrid ≤ c.net → c.fld SEGMENT.TT_STATUS_STATE n.val ≠ 1 → Ends (.beaconSend n) s fun d =>
      d.Sends n.val placed ftBEACON ∧ d.fld SEGMENT.SYNC_STATUS_CYCLE n.val = (c.fld SEGMENT.SYNC_STATUS_CYCLE n.val + 1) % 65536 ∧
      d.fld SEGMENT.SYNC_STATUS_CYCLE_VALID n.val = 1 ∧ (d.eng n.val).cycleStart = point ∧
      (e.takeover = false → (d.eng n.val).nextGrid = e.nextGrid + (c.fld SEGMENT.OPER_CYCLE_LEN_NS n.val * nsQ : Nat)) ∧
      (1 ≤ e.beacons → d.on SEGMENT.SYNC_STATUS_ACTIVE n.val = true)) ∧
    ((c.seg n.val ≠ sgMASTER ∨ c.net < e.nextGrid) → Idles (.beaconSend n) s) ∧
    (c.beaconMissDue n.val = true →
      (¬ take → c.lossCycles n.val ≤ runs → Ends (.beaconMiss n) s fun d =>
        c.Counts d SEGMENT.BEACON_MISS_COUNT n.val ∧ c.Listens d n.val ∧
        ∀ t ∈ c.partnerTurns n.val, d.fld SEGMENT.TURN_STAT_STALE n.val t = 1) ∧
      (¬ take → runs < c.lossCycles n.val → Ends (.beaconMiss n) s fun d => c.Counts d SEGMENT.BEACON_MISS_COUNT n.val ∧
        d.seg n.val = c.seg n.val ∧ (d.eng n.val).missRun = runs ∧ (d.eng n.val).cycleStart = e.predicted ∧
        d.fld SEGMENT.SYNC_STATUS_CYCLE_VALID n.val = 0 ∧ (∀ t ∈ c.partnerTurns n.val, d.fld SEGMENT.TURN_STAT_STALE n.val t = 1) ∧
        d.fld SEGMENT.SYNC_STATUS_CYCLE n.val = (c.fld SEGMENT.SYNC_STATUS_CYCLE n.val + 1) % 65536) ∧
      (take → Ends (.beaconMiss n) s fun d => d.seg n.val = sgMASTER ∧ (d.eng n.val).takeover = true ∧
        c.Tells d EV.SEGMENT_MASTER_CHANGE n.val)) ∧
    (c.beaconMissDue n.val = false → Idles (.beaconMiss n) s)

/-- PUB_CMD, TURN_STAT.SAFE_VALID, the buffer window, JOIN_POP and ACK_CMD each do what their registers say, or are counted (R143, R146,
R150, R164, R165). The reserved bits of the header of a bank of the oper table stay 0 (R20, Table 04.9). A write without the bit that gives the command changes nothing (the model's choice: assumption log, entry 2). -/
def Obligations.SegmentRegistersCommand : Prop :=
  ∀ (s : State) (n : Fin 96) (p : Port) (v : Word) (t : Fin 64) (w : Fin 512), let c := s.chip
    let page := PageCls.segment.base + n.val
    let e := c.oper n.val (bitsOf v.toNat 6 0)
    let staging := 1 - c.fld SEGMENT.TURN_STAT_BANK n.val (bitsOf v.toNat 6 0)
    let a := c.fld SEGMENT.BUF_WIN_SECTION n.val * 2048 + 4 * w.val
    let inHeader := a % 128 < 32 ∧ ∃ t < 64, ∃ b < (c.oper n.val t).bankCount, (c.oper n.val t).base + b * (c.oper n.val t).blocks = a / 128
    let counted (i : Instr) (off : Nat) : Prop := SetsRegs i s (errKeys page) fun d => c.Counted d page off p
    c.Open p .segment n.val →
    (bitsOf v.toNat 8 8 = 0 → Idles (.pubCmd p n v) s) ∧
    (bitsOf v.toNat 8 8 = 1 → (64 ≤ bitsOf v.toNat 6 0 ∨ e.kind ≠ 2 ∨ e.maxPay < c.bankLen n.val e staging) →
      counted (.pubCmd p n v) 0x090) ∧
    (bitsOf v.toNat 8 8 = 1 → bitsOf v.toNat 6 0 < 64 → e.kind = 2 → c.bankLen n.val e staging ≤ e.maxPay →
      Ends (.pubCmd p n v) s fun d => d.fld SEGMENT.TURN_STAT_PUB_PENDING n.val (bitsOf v.toNat 6 0) = 1 ∧ d.segBuf = c.segBuf ∧
        (c.on SEGMENT.TURN_STAT_PUB_PENDING n.val (bitsOf v.toNat 6 0) = true → c.Counts d SEGMENT.OVERWRITE_COUNT n.val) ∧
        c.KeepsCells d [SEGMENT.TURN_STAT_PUB_PENDING.key n.val (bitsOf v.toNat 6 0), SEGMENT.OVERWRITE_COUNT.key n.val 0]) ∧
    ((c.oper n.val t.val).isDev = true →
      (bitsOf v.toNat 0 0 = 1 → (c.oper n.val t.val).maxPay < c.bankLen n.val (c.oper n.val t.val) 2 →
        counted (.safeValidWrite p n ⟨t.val, by omega⟩ v) (0x200 + 4 * t.val)) ∧
      ((bitsOf v.toNat 0 0 = 0 ∨ c.bankLen n.val (c.oper n.val t.val) 2 ≤ (c.oper n.val t.val).maxPay) →
        SetsRegs (.safeValidWrite p n ⟨t.val, by omega⟩ v) s [SEGMENT.TURN_STAT_SAFE_VALID.key n.val t.val] fun d =>
          d.fld SEGMENT.TURN_STAT_SAFE_VALID n.val t.val = bitsOf v.toNat 0 0)) ∧
    ((c.oper n.val t.val).isDev = false → Idles (.safeValidWrite p n ⟨t.val, by omega⟩ v) s) ∧
    (c.bankHeld n.val (a / 128) = true → counted (.bufWinWrite p n w v) (0x800 + 4 * w.val)) ∧
    (∀ word, (inHeader → word = v.toNat &&& ([0xFFFFFFFF, 0xFFFFFFFF, 0xFFFFFFFF, 0x0FFFFFFF, 0xFF0007FF, 0xFFFFFFFF, 0, 0].getD (a % 128 / 4) 0)) →
      (¬ inHeader → word = v.toNat) → c.bankHeld n.val (a / 128) = false →
      Becomes (.bufWinWrite p n w v) s (c.putBuf n.val a (leBytes 4 word)) [] fun d =>
        (∀ j, j < 4 → d.bufByte n.val (a + j) = BitVec.ofNat 8 (word >>> (8 * j))) ∧
        ∀ x, ¬ (32768 * n.val + a ≤ x ∧ x < 32768 * n.val + a + 4) → Tab.get 0 d.segBuf x = Tab.get 0 c.segBuf x) ∧
    (bitsOf v.toNat 0 0 = 1 → Ends (.joinPop p n v) s fun d => (d.eng n.val).joinLog = (c.eng n.val).joinLog.drop 1 ∧
      (d.eng n.val).hostAck = none ∧ (d.eng n.val).ackAttempts = 0 ∧ ∀ m, m ≠ n.val → d.eng m = c.eng m) ∧
    (bitsOf v.toNat 0 0 = 0 → Idles (.joinPop p n v) s) ∧
    (bitsOf v.toNat 31 31 = 1 → ((c.eng n.val).joinLog = [] ∨ c.on SEGMENT.CFG_JOIN_HOST n.val = false) → counted (.ackCmd p n v) 0x0B0) ∧
    (bitsOf v.toNat 31 31 = 1 → (c.eng n.val).joinLog ≠ [] → c.on SEGMENT.CFG_JOIN_HOST n.val = true → Becomes (.ackCmd p n v) s
      (c.setEng n.val { c.eng n.val with hostAck := some (bitsOf v.toNat 5 0, bitsOf v.toNat 18 16, bitsOf v.toNat 14 8) }) [] fun _ => True) ∧
    (bitsOf v.toNat 31 31 = 0 → Idles (.ackCmd p n v) s)

/-- What a device turn sends at its latch point: the safe scene, a published payload with AGE 0, or the last one with AGE one higher, from
the bank that TURN_STAT shows (R57, R140, R145, R146, R150). A DEV_QUEUE turn takes a class-7 frame that is offered, then the head of
the command queue, then another frame, which goes first once after CMD_BURST command payloads (R148). A command payload counts on time or
late by the end of its frame, or as expired; one that no turn holds is dropped (R148, R392). A frame offered by the Reel is held,
published or dropped; a partner turn that ends without a frame is STALE; a collision in a static turn ends an own frame with a jam,
without retry, and leaves a partner's turn without a frame (R147, R151, R153). The first frame of a partner turn is judged by Table
04.11: accepted, it goes to the receive bank, and the turn is neither STALE nor ABSENT; else it is a window fault, a header error, too
long, or unjoined; each updates the drift table (R152, R153, R186 to R189). A frame starts on the line where its TDC places it (R93;
which point, the model's choice: assumption log, entry 90). A command that is not due changes nothing (the model's choice: entry 2). -/
def Obligations.StaticTurns : Prop :=
  (∀ (s : State) (n : Fin 96) (stamp : BitVec 96) (octets : List Byte) (typ : Nat), let c := s.chip;
    let f := parseSeg (octets.take (octets.length - 4));
    let rx := Instr.segmentFrameRx n stamp octets false false;
    let start := c.frameStart stamp.toNat;
    let t := c.placeFrame n.val start;
    let e := c.oper n.val t;
    let x := (start - ((c.eng n.val).cycleStart + e.offset * nsQ : Nat)) / (nsQ : Int);
    let bank := c.fld SEGMENT.TURN_STAT_BANK n.val t;
    let failed (r : FieldRow) : Prop := Ends rx s fun d => c.Counts d r n.val ∧ c.Tells d EV.SEGMENT_FRAME_ERROR n.val ∧
      c.DriftTakes d n.val e.owner x none ∧ t ∈ (d.eng n.val).seen ∧ (d.eng n.val).accepted = (c.eng n.val).accepted;
    typ ∈ [ftSTATE, ftCOMMAND] → SegFrameOk octets typ → c.seg n.val ∉ [sgDISABLED, sgPLAIN] → c.holdsCycle n.val = true → 0 < t → t < 64 →
    ((t ∈ (c.eng n.val).seen ∨ e.isPartner = false) → SetsRegs rx s [SEGMENT.MAC_RX_FRAMES_COUNT.key n.val 0,
      SEGMENT.RX_HDR_ERR_COUNT.key n.val 0, EV.SEGMENT_FRAME_ERROR.key n.val] fun d =>
        c.Counts d SEGMENT.RX_HDR_ERR_COUNT n.val ∧ c.Tells d EV.SEGMENT_FRAME_ERROR n.val) ∧
    (∀ body, t ∉ (c.eng n.val).seen → e.isPartner = true → f.body = some body →
      let hdrOk := f.turn = t ∧ f.cycle = c.fld SEGMENT.SYNC_STATUS_CYCLE n.val;
      let joined := c.on SEGMENT.CFG_JOIN_REQUIRED n.val = true → c.on SEGMENT.TURN_STAT_JOINED n.val t = true;
      (c.inWindow n.val x = false → Ends rx s fun d => c.FaultsWindow d n.val e.owner x ∧ t ∈ (d.eng n.val).seen ∧
        (d.eng n.val).accepted = (c.eng n.val).accepted ∧ d.segBuf = c.segBuf) ∧
      (c.inWindow n.val x = true → ¬ hdrOk → failed SEGMENT.RX_HDR_ERR_COUNT) ∧
      (c.inWindow n.val x = true → hdrOk → e.maxPay < f.len → failed SEGMENT.RX_OVERSIZE_COUNT) ∧
      (c.inWindow n.val x = true → hdrOk → f.len ≤ e.maxPay → ¬ joined → failed SEGMENT.RX_UNJOINED_COUNT) ∧
      (c.inWindow n.val x = true → hdrOk → f.len ≤ e.maxPay → joined → Ends rx s fun d =>
        c.DriftTakes d n.val e.owner x (some f.src) ∧ t ∈ (d.eng n.val).accepted ∧ (d.turnRec n.val t).run = 0 ∧
        d.fld SEGMENT.TURN_STAT_BANK n.val t = 1 - bank ∧ d.bankPayload n.val e (1 - bank) = body ∧
        d.fld SEGMENT.TURN_STAT_STALE n.val t = 0 ∧ d.fld SEGMENT.TURN_STAT_ABSENT n.val t = 0 ∧
        d.fld SEGMENT.TURN_STAT_AGE n.val t = 0 ∧ d.fld SEGMENT.TURN_STAT_LAST_CYCLE n.val t = f.cycle % 65536 ∧
        (max 1 (c.fld SEGMENT.SYNC_CFG_STALE_LIMIT n.val) ≤ (c.turnRec n.val t).run → c.Tells d EV.SEGMENT_PARTNER_CHANGE n.val)))) ∧
  ∀ (s : State) (n : Fin 96) (t : Fin 64), let c := s.chip
    let e := c.oper n.val t.val
    let g := c.eng n.val
    let r := c.turnRec n.val t.val
    let safe := c.safeSceneAt (c.devStart n.val t.val)
    let scene := safe = true ∧ c.on SEGMENT.TURN_STAT_SAFE_VALID n.val t.val = true
    let age := c.fld SEGMENT.TURN_STAT_AGE n.val t.val
    let bank := c.fld SEGMENT.TURN_STAT_BANK n.val t.val
    let sent (typ a : Nat) (body : List Byte) (d : Chip) : Prop := d.Sends n.val (c.edgeMono (c.devStart n.val t.val)) typ ∧ d.Carries n.val body ∧
      d.fld SEGMENT.TURN_STAT_AGE n.val t.val = a ∧ t.val ∈ (d.eng n.val).latched ∧
      d.fld SEGMENT.TURN_STAT_LAST_CYCLE n.val t.val = c.fld SEGMENT.SYNC_STATUS_CYCLE n.val % 65536
    let again (typ : Nat) (d : Chip) : Prop :=
      (r.ever = true → sent typ (min 255 (age + 1)) (c.bankPayload n.val e bank) d) ∧ (r.ever = false → sent ftSTATE 255 [] d)
    let taken (typ : Nat) (body : List Byte) (d : Chip) : Prop := sent typ 0 body d ∧
      d.fld SEGMENT.TURN_STAT_BANK n.val t.val = 1 - bank ∧ d.bankPayload n.val e (1 - bank) = body
    (c.latchDue n.val t.val 2 = true →
      let fresh := c.on SEGMENT.TURN_STAT_PUB_PENDING n.val t.val = true ∧ safe = false ∧ ¬ (c.mode = mSTANDBY ∧ r.fromReel = true)
      (scene → Ends (.devStateLatch n t) s (sent e.stateType 0 (c.bankPayload n.val e 2))) ∧
      (¬ scene → fresh → Ends (.devStateLatch n t) s fun d => sent e.stateType 0 (c.bankPayload n.val e (1 - bank)) d ∧
        d.fld SEGMENT.TURN_STAT_PUB_PENDING n.val t.val = 0 ∧ d.fld SEGMENT.TURN_STAT_BANK n.val t.val = 1 - bank) ∧
      (¬ scene → ¬ fresh → Ends (.devStateLatch n t) s (again e.stateType))) ∧
    (c.latchDue n.val t.val 2 = false → Idles (.devStateLatch n t) s) ∧
    (c.latchDue n.val t.val 3 = true →
      let held := safe = true ∨ c.mode = mSTANDBY ∨ r.lost = true
      let late (p : CmdPayload) : Prop :=
        p.apply * (2 ^ 26 : Int) + (c.fld DISTAFF.APPLY_LATE_TOL_NS * nsQ : Nat) < c.payloadEnd n.val t.val p
      let fits (p : CmdPayload) : Prop := c.unholdable n.val p = false ∧ ¬ late p ∧ p.bytes.length ≤ e.maxPay
      let judged (p : CmdPayload) (d : Chip) : Prop :=
        (c.payloadEnd n.val t.val p ≤ p.apply * (2 ^ 26 : Int) - (c.fld DISTAFF.CFG_LATCH_GUARD_US * usQ : Nat) →
          c.Counts d DISTAFF.ITEMS_ON_TIME_COUNT 0 p.count) ∧
        (p.apply * (2 ^ 26 : Int) - (c.fld DISTAFF.CFG_LATCH_GUARD_US * usQ : Nat) < c.payloadEnd n.val t.val p →
          c.Counts d DISTAFF.ITEMS_LATE_COUNT 0 p.count ∧ c.Tells d EV.DISTAFF_LATE_APPLY)
      (scene → Ends (.devQueueLatch n t) s (sent e.stateType 0 (c.bankPayload n.val e 2))) ∧
      (¬ scene → held → r.lastType < 16 → Ends (.devQueueLatch n t) s fun d => again r.lastType d ∧
        (d.turnRec n.val t.val).lost = false ∧ (d.eng n.val).cmdq = g.cmdq) ∧
      (¬ held →
        (∀ f, c.queueOffer n.val = some (f, 7) → f.len ≤ e.maxPay → Ends (.devQueueLatch n t) s fun d =>
          taken f.typ (f.body.getD []) d ∧ (d.eng n.val).offer = none ∧ (d.eng n.val).cmdq = g.cmdq) ∧
        (c.queueOffer n.val = none →
          (g.cmdq = [] → r.lastType < 16 → Ends (.devQueueLatch n t) s (again r.lastType)) ∧
          (∀ p q, g.cmdq = p :: q → fits p → Ends (.devQueueLatch n t) s fun d => taken ftCOMMAND p.bytes d ∧ judged p d ∧
            (d.eng n.val).cmdq = q ∧ (d.eng n.val).burst = 0) ∧
          (∀ p, g.cmdq = [p] → c.unholdable n.val p = false → late p → Ends (.devQueueLatch n t) s fun d => (d.eng n.val).cmdq = [] ∧
            c.Counts d DISTAFF.ITEMS_EXPIRED_COUNT 0 p.count ∧ c.Tells d EV.DISTAFF_EXPIRED) ∧
          (∀ p, g.cmdq = [p] → c.unholdable n.val p = true → Ends (.devQueueLatch n t) s fun d => (d.eng n.val).cmdq = [] ∧
            c.Counts d SEGMENT.TX_DROP_COUNT n.val)) ∧
        (∀ f k, c.queueOffer n.val = some (f, k) → k ≠ 7 → f.len ≤ e.maxPay →
          ((g.cmdq = [] ∨ max 1 (c.fld SEGMENT.CMD_CFG_CMD_BURST n.val) ≤ g.burst) → Ends (.devQueueLatch n t) s fun d =>
            taken f.typ (f.body.getD []) d ∧ (d.eng n.val).offer = none ∧ (d.eng n.val).cmdq = g.cmdq ∧ (d.eng n.val).burst = 0) ∧
          (∀ p q, g.cmdq = p :: q → fits p → g.burst < max 1 (c.fld SEGMENT.CMD_CFG_CMD_BURST n.val) →
            Ends (.devQueueLatch n t) s fun d => taken ftCOMMAND p.bytes d ∧ judged p d ∧ (d.eng n.val).cmdq = q ∧
              (d.eng n.val).offer = g.offer ∧ (d.eng n.val).burst = g.burst + 1)))) ∧
    (c.latchDue n.val t.val 3 = false → Idles (.devQueueLatch n t) s) ∧
    (c.turnEndDue n.val t.val = true → let run := r.run + 1
      (t.val ∈ g.accepted → Becomes (.partnerTurnEnd n t) s (c.setEng n.val { g with ended := t.val :: g.ended }) [] fun _ => True) ∧
      (t.val ∉ g.accepted → Ends (.partnerTurnEnd n t) s fun d => d.fld SEGMENT.TURN_STAT_STALE n.val t.val = 1 ∧
        d.fld SEGMENT.TURN_STAT_AGE n.val t.val = min (age + 1) 255 ∧ (d.turnRec n.val t.val).run = run ∧
        (run = max 1 (c.fld SEGMENT.SYNC_CFG_STALE_LIMIT n.val) → c.Tells d EV.SEGMENT_PARTNER_CHANGE n.val) ∧
        (run = c.fld SEGMENT.SYNC_CFG_ABSENT_LIMIT n.val → d.fld SEGMENT.TURN_STAT_ABSENT n.val t.val = 1 ∧
          d.fld SEGMENT.TURN_STAT_JOINED n.val t.val = 0))) ∧
    (c.turnEndDue n.val t.val = false → Idles (.partnerTurnEnd n t) s) ∧
    (c.staticCollisionIn n.val t.val = true → let own := t.val = 0 ∧ c.seg n.val = sgMASTER ∨ t.val ∈ g.latched
      Ends (.staticCollision n t) s fun d => c.Counts d SEGMENT.STATIC_COLL_COUNT n.val ∧ c.Tells d EV.SEGMENT_COLLISION n.val ∧
        (own → (d.eng n.val).txEnd = c.now + 3200 * nsQ) ∧
        (t.val ∈ g.latched → e.kind = 3 → (d.turnRec n.val t.val).lost = r.ever) ∧
        (¬ own → t.val ∉ (d.eng n.val).accepted ∧ t.val ∈ (d.eng n.val).seen ∧ (d.eng n.val).txEnd = g.txEnd)) ∧
    (c.staticCollisionIn n.val t.val = false → Idles (.staticCollision n t) s) ∧
    (∀ pk k, g.offer = some (pk, k) → c.seg n.val ≠ sgDISABLED → c.seg n.val ≠ sgPLAIN →
      let f := parseSeg pk.bytes
      (∀ body, f.skein = true → f.body = some body → f.ver = 1 → (f.typ = ftSTATE ∨ f.typ = ftCOMMAND) → f.turn = 255 →
        ((List.range 64).any fun t => (c.oper n.val t).kind == 3 && decide (f.len ≤ (c.oper n.val t).maxPay)) = true →
        Idles (.reelFrameOffer n) s) ∧
      (∀ body, f.skein = true → f.body = some body → f.ver = 1 → (f.typ = ftSTATE ∨ f.typ = ftCOMMAND) → f.turn < 64 →
        (c.oper n.val f.turn).kind = 2 → f.len ≤ (c.oper n.val f.turn).maxPay → Ends (.reelFrameOffer n) s fun d =>
          (d.eng n.val).offer = none ∧ d.fld SEGMENT.TURN_STAT_PUB_PENDING n.val f.turn = 1 ∧
          d.bankPayload n.val (c.oper n.val f.turn) (1 - c.fld SEGMENT.TURN_STAT_BANK n.val f.turn) = body) ∧
      (f.skein = false → (c.on SEGMENT.CFG_CONT_TX_EN n.val = false ∨ 1518 < pk.bytes.length) → Ends (.reelFrameOffer n) s fun d =>
        (d.eng n.val).offer = none ∧ c.Counts d SEGMENT.TX_DROP_COUNT n.val ∧ c.Tells d EV.SEGMENT_FRAME_ERROR n.val)) ∧
    ((g.offer = none ∨ c.seg n.val = sgDISABLED) → Idles (.reelFrameOffer n) s)

/-- The contention turn and plain segments under CSMA/CD: a frame goes out when the line lets it, is retried after a collision, or dropped
at the sixteenth or a late one; the master answers a JOIN with one ACK (R163, R165, R167, R218, R219, R221). A received frame is judged by
its MAC in the order of R220. A BEACON or COLDSTART of another node is treated by Table 04.13 in each state: adopted (LISTEN, CONTEND,
TRIAL, a master that loses), accepted, compared with the table and followed (FOLLOW_WAIT, FOLLOWER), a foreign master, or a window fault
(R159, R161, R162, R187). A JOIN is logged or overflows, and a dual-homed follower records the master's ACKs (R161, R164); either in an
own turn is a header error (R154). CONT_COLL also counts a collision of other nodes in the contention turn (R163). A frame is placed by its
own start, and the line delay is off an adopted cycle start only (R161, R186). When a frame may start, what counts as carrier, that a
back-off is a free draw, and how a listener adopts are the model's readings (assumption log, entries 3, 42, 43 and 45); so it is that a
frame which is not due changes nothing (entry 2). -/
def Obligations.ContentionAndReception : Prop :=
  (∀ (s : State) (n : Fin 96) (late : Bool) (free : Option (BitVec 96)), let c := s.chip;
    let e := c.eng n.val;
    let open_ := c.lineFree n.val free ≤ c.now;
    let goes (i : Instr) (f : Csma) : Prop := Ends i s fun d => (d.eng n.val).csma = some { f with retry := false } ∧
      (d.eng n.val).lastTx = some { start := c.now, octets := lineOctets f.bytes } ∧ c.Counts d SEGMENT.MAC_TX_FRAMES_COUNT n.val;
    let waits (i : Instr) (f : Csma) : Prop :=
      (c.carrierNow free = true → f.deferred = false → Becomes i s
        (c.setEng n.val { e with csma := some { f with retry := true, deferred := true } }) [SEGMENT.MAC_DEFERRED_COUNT.key n.val 0]
        fun d => c.Counts d SEGMENT.MAC_DEFERRED_COUNT n.val) ∧
      ((c.carrierNow free = false ∨ f.deferred = true) → Idles i s);
    (∀ f, c.contOpen n.val = true → e.backoffEnd = none → e.txEnd ≤ c.now → e.csma = some f → f.retry = true →
      c.contFits n.val c.now f.bytes.length = true →
      (open_ → goes (.contFrameTx n free) f) ∧ (¬ open_ → waits (.contFrameTx n free) f)) ∧
    (∀ p k, c.contOpen n.val = true → e.backoffEnd = none → e.txEnd ≤ c.now → e.csma = none → e.offer = some (p, k) →
      (parseSeg p.bytes).skein = false → p.bytes.length ≤ 1518 → c.contFits n.val c.now p.bytes.length = true → open_ →
      Ends (.contFrameTx n free) s fun d => (d.eng n.val).offer = none ∧
        (d.eng n.val).lastTx = some { start := c.now, octets := lineOctets p.bytes } ∧ c.Counts d SEGMENT.MAC_TX_FRAMES_COUNT n.val) ∧
    (c.contOpen n.val = false → Idles (.contFrameTx n free) s) ∧
    (∀ f, c.seg n.val = sgPLAIN → c.mode ≠ mSAFE → e.backoffEnd = none → e.txEnd ≤ c.now → e.csma = some f → f.retry = true →
      (open_ → goes (.plainFrameTx n free) f) ∧ (¬ open_ → waits (.plainFrameTx n free) f)) ∧
    ((c.seg n.val ≠ sgPLAIN ∨ c.mode = mSAFE) → Idles (.plainFrameTx n free) s) ∧
    (∀ f, e.csma = some f → f.retry = false → c.now ≤ e.txEnd →
      ((late = true ∨ 16 ≤ f.attempts + 1) → Ends (.segmentCsmaCollision n late) s fun d => (d.eng n.val).csma = none ∧
        (d.eng n.val).txEnd = c.now + 3200 * nsQ ∧ c.Counts d SEGMENT.TX_DROP_COUNT n.val ∧
        (late = true → c.Counts d SEGMENT.MAC_LATE_COLL_COUNT n.val) ∧ (late = false → c.Counts d SEGMENT.MAC_EXCESS_COLL_COUNT n.val)) ∧
      (late = false → f.attempts + 1 < 16 → Ends (.segmentCsmaCollision n late) s fun d =>
        (d.eng n.val).csma = some { f with attempts := f.attempts + 1, retry := true } ∧ d.freeCtr = c.freeCtr + 1)) ∧
    (c.now ≤ e.txEnd → (∀ f, e.csma = some f → f.retry = true) → Idles (.segmentCsmaCollision n late) s) ∧
    (e.txEnd < c.now →
      (c.inContention n.val = true → SetsRegs (.segmentCsmaCollision n late) s [SEGMENT.CONT_COLL_COUNT.key n.val 0] fun d =>
        c.Counts d SEGMENT.CONT_COLL_COUNT n.val) ∧
      (c.inContention n.val = false → Idles (.segmentCsmaCollision n late) s)) ∧
    (∀ j r node status turn, c.ackOpen n.val = true → e.joinLog = j :: r → c.ackAnswer n.val j = some (node, status, turn) →
      (open_ → Ends (.ackSend n { free := free, collision := none }) s fun d => d.Sends n.val c.now ftACK ∧
        (d.eng n.val).joinLog = r ∧ (d.eng n.val).ackDone = true ∧
        (status = 0 → ∀ t ∈ c.partnerTurns n.val, (c.oper n.val t).owner = node → d.fld SEGMENT.TURN_STAT_JOINED n.val t = 1)) ∧
      (¬ open_ → c.carrierNow free = true → e.ackDeferred = false → Becomes (.ackSend n { free := free, collision := none }) s
        (c.setEng n.val { e with ackDeferred := true }) [SEGMENT.MAC_DEFERRED_COUNT.key n.val 0] fun d =>
          c.Counts d SEGMENT.MAC_DEFERRED_COUNT n.val)) ∧
    ((c.ackOpen n.val = false ∨ e.joinLog = []) → Idles (.ackSend n { free := free, collision := none }) s)) ∧
  (∀ (s : State) (n : Fin 96) (sym : Bool) (stamp : BitVec 96) (octets : List Byte), let c := s.chip;
    let e := c.eng n.val;
    let st := c.seg n.val;
    let counts (i : Instr) (r : FieldRow) : Prop := SetsRegs i s [r.key n.val 0] fun d => c.Counts d r n.val;
    let rx := Instr.segmentFrameRx n stamp octets;
    let fcsBad := crc32 (octets.take (octets.length - 4)) ≠ leNat (octets.drop (octets.length - 4));
    let f := parseSeg (octets.take (octets.length - 4));
    let received (d : Chip) : Prop := c.Counts d SEGMENT.MAC_RX_FRAMES_COUNT n.val;
    let only (l : List Nat) (ok : Chip → Prop) : Prop :=
      SetsRegs (rx false false) s (SEGMENT.MAC_RX_FRAMES_COUNT.key n.val 0 :: l) fun d => received d ∧ ok d;
    let at_ := c.frameStart stamp.toNat;
    let start := at_ - (c.lineDelay n.val : Nat);
    let foreign (l : List Nat) (ok : Chip → Prop) : Prop := only (SEGMENT.FOREIGN_MASTER_COUNT.key n.val 0 :: l) fun d =>
      c.Counts d SEGMENT.FOREIGN_MASTER_COUNT n.val ∧ ok d;
    let headerError : Prop := only [SEGMENT.RX_HDR_ERR_COUNT.key n.val 0, EV.SEGMENT_FRAME_ERROR.key n.val] fun d =>
      c.Counts d SEGMENT.RX_HDR_ERR_COUNT n.val ∧ c.Tells d EV.SEGMENT_FRAME_ERROR n.val;
    let dualFollower := c.on SEGMENT.CFG_DUAL n.val = true ∧ st ∈ [sgFOLLOWWAIT, sgFOLLOWER];
    (st = sgDISABLED → Idles (rx sym false) s) ∧ Idles (rx sym true) s ∧
    (st ≠ sgDISABLED → counts (rx true false) SEGMENT.MAC_RX_ERR_COUNT ∧
      (octets.length < 64 → counts (rx false false) SEGMENT.MAC_RUNT_COUNT) ∧
      (64 ≤ octets.length → fcsBad → counts (rx false false) SEGMENT.MAC_FCS_ERR_COUNT) ∧
      (1522 < octets.length → ¬ fcsBad → counts (rx false false) SEGMENT.MAC_OVERSIZE_COUNT)) ∧
    (∀ typ b, typ ∈ [ftBEACON, ftCOLDSTART] → SegFrameOk octets typ → f.body.bind parseBeacon = some b → f.src ≠ c.segMac n.val →
      let anchored (cycle : Nat) (d : Chip) : Prop := received d ∧ (d.eng n.val).anchored = true ∧ (d.eng n.val).cycleStart = start.toNat ∧
        (d.eng n.val).cycleLen = b.cycleLen ∧ (d.eng n.val).predicted = start.toNat + b.cycleLen * nsQ ∧ (d.eng n.val).missRun = 0 ∧
        d.fld SEGMENT.SYNC_STATUS_MASTER_NODE n.val = b.node % 64 ∧ d.fld SEGMENT.SYNC_STATUS_CYCLE n.val = cycle % 65536
      let adopted (d : Chip) : Prop := received d ∧ d.seg n.val = sgFOLLOWWAIT ∧ d.fld SEGMENT.CS_STATUS_TRIAL_LEFT n.val = 0 ∧
        (¬ (typ = ftCOLDSTART ∧ b.trialLeft = 4) → anchored f.cycle d) ∧
        (typ = ftCOLDSTART → b.trialLeft = 4 → (d.eng n.val).anchored = false ∧ (d.eng n.val).cycleLen = b.cycleLen ∧
          d.fld SEGMENT.SYNC_STATUS_MASTER_NODE n.val = b.node % 64 ∧ (d.eng n.val).listenEnd = some (c.now + c.listenSpan n.val * nsQ))
      let x := (at_ - e.predicted) / (nsQ : Int)
      let near := e.anchored = false ∨ c.inWindow n.val x = true
      let ext := f.flags.testBit 5 = true ∧ c.extAccepts n.val at_ = true
      (st ∈ [sgLISTEN, sgCONTEND] → Ends (rx false false) s adopted) ∧
      (st = sgTRIAL → (typ = ftBEACON ∨ c.otherWins n.val b f.src = true) → Ends (rx false false) s adopted) ∧
      (st = sgTRIAL → typ ≠ ftBEACON → c.otherWins n.val b f.src = false → foreign [] fun _ => True) ∧
      (st = sgMASTER → typ = ftBEACON → c.otherWins n.val b f.src = true → Ends (rx false false) s fun d => adopted d ∧
        c.Tells d EV.SEGMENT_MASTER_CHANGE n.val) ∧
      (st = sgMASTER → (typ ≠ ftBEACON ∨ c.otherWins n.val b f.src = false) → foreign [EV.SEGMENT_MASTER_CHANGE.key n.val] fun d =>
        c.Tells d EV.SEGMENT_MASTER_CHANGE n.val) ∧
      (st ∈ [sgFOLLOWWAIT, sgFOLLOWER] → typ = ftBEACON → (near ∨ ext) → c.tableMatches n.val b = true →
        Ends (rx false false) s fun d => anchored f.cycle d ∧ d.fld SEGMENT.SYNC_STATUS_CYCLE_VALID n.val = 1 ∧
          d.seg n.val = (if st = sgFOLLOWWAIT ∧ ¬ (e.anchored = true ∧ e.opened = true) then sgFOLLOWWAIT else sgFOLLOWER) ∧
          (st = sgFOLLOWWAIT → e.anchored = true → e.opened = true → d.on SEGMENT.SYNC_STATUS_ACTIVE n.val = true)) ∧
      (st ∈ [sgFOLLOWWAIT, sgFOLLOWER] → typ = ftBEACON → (near ∨ ext) → c.tableMatches n.val b = false →
        Ends (rx false false) s fun d => anchored f.cycle d ∧ d.fld SEGMENT.SYNC_STATUS_CYCLE_VALID n.val = 0 ∧ d.seg n.val = sgFOLLOWWAIT ∧
          c.Counts d SEGMENT.TABLE_MISMATCH_COUNT n.val ∧ c.Tells d EV.SEGMENT_FRAME_ERROR n.val) ∧
      (st ∈ [sgFOLLOWWAIT, sgFOLLOWER] → typ = ftBEACON → ¬ near → ¬ ext → Ends (rx false false) s fun d => received d ∧
        d.segs = c.segs ∧ d.seg n.val = st ∧ c.Counts d FLYER.WIN_FAULTS_COUNT n.val ∧ d.fld FLYER.FAULT_STATUS_WIN_FAULT n.val = 1) ∧
      (st ∈ [sgFOLLOWWAIT, sgFOLLOWER] → typ = ftCOLDSTART → b.trialLeft = 4 → e.anchored = false → Ends (rx false false) s adopted) ∧
      (st ∈ [sgFOLLOWWAIT, sgFOLLOWER] → typ = ftCOLDSTART → b.trialLeft = 4 → e.anchored = true → only [] fun _ => True) ∧
      (st = sgFOLLOWWAIT → typ = ftCOLDSTART → b.trialLeft ≠ 4 → near → Ends (rx false false) s fun d => anchored f.cycle d ∧
        d.seg n.val = sgFOLLOWWAIT ∧ d.fld SEGMENT.SYNC_STATUS_CYCLE_VALID n.val = 0) ∧
      (st ∈ [sgFOLLOWWAIT, sgFOLLOWER] → typ = ftCOLDSTART → b.trialLeft ≠ 4 → (st = sgFOLLOWER ∨ ¬ near) → only [] fun _ => True)) ∧
    (∀ typ ∈ [ftJOIN, ftACK], SegFrameOk octets typ → st ∉ [sgDISABLED, sgPLAIN] →
      c.inOwnTurn n.val (c.frameStart stamp.toNat) = true → headerError) ∧
    (SegFrameOk octets ftJOIN → (st = sgPLAIN ∨ (st ≠ sgDISABLED ∧ c.inOwnTurn n.val (c.frameStart stamp.toNat) = false)) →
      ∀ b, f.body = some b → b.length = 8 → let node := (b.getD 0 0).toNat
      (node < 64 ∨ node = 255) →
        (e.joinLog.length < 16 → Ends (rx false false) s fun d => received d ∧ c.Tells d EV.SEGMENT_PARTNER_CHANGE n.val ∧
          (d.eng n.val).joinLog = e.joinLog ++ [{ mac := f.src, node := node, cls := (b.getD 1 0).toNat }] ∧
          d.fld SEGMENT.JOIN_INFO_COUNT n.val = e.joinLog.length + 1) ∧
        (16 ≤ e.joinLog.length → Ends (rx false false) s fun d => received d ∧ (d.eng n.val).joinLog = e.joinLog ∧
          d.fld SEGMENT.JOIN_INFO_OVERFLOW n.val = 1 ∧ c.Counts d SEGMENT.TX_DROP_COUNT n.val)) ∧
    (SegFrameOk octets ftACK → st ∉ [sgDISABLED, sgPLAIN] → c.inOwnTurn n.val (c.frameStart stamp.toNat) = false →
      (∀ b, f.body = some b → dualFollower → b.length = 12 → (b.getD 7 0).toNat = 0 →
        f.src = c.fld64 SEGMENT.MASTER_MAC_LO_ADDR SEGMENT.MASTER_MAC_HI_ADDR n.val → Ends (rx false false) s fun d => received d ∧
          ∀ t ∈ c.partnerTurns n.val, (c.oper n.val t).owner = (b.getD 6 0).toNat → d.fld SEGMENT.TURN_STAT_JOINED n.val t = 1 ∧
            (d.turnRec n.val t).mac = beNat (b.take 6)) ∧
      (¬ dualFollower → only [] fun _ => True)))

/-! ### The Flyer (chapter 05) -/

/-- Sealing and unsealing a staging slot, REARM, DRIFT_CMD and PWR_CTRL do what their registers say, or are counted (R173, R174, R184,
R189, R193). The Flyer's own state: OFF, OPEN and UNSYNC by EN, CFG.MODE and SEG; SYNC_WAIT and SYNC by accepted beacons; UNSYNC again
by missed ones, which cuts a transmission that is on (R180). The seal checks end with DONE or with the first cause of Table 05.2 (R173,
R175, R177 to R179, R181, R469). Which slot an EXT beacon must match and when a miss is due, what a cut transmission counts as, and what
PWR_CTRL does to a cut that is held are the model's readings (assumption log, entries 47, 48 and 50); so are that a detected start is
resolved to its AON tick and which beacon is ignored (entry 95). That a command which is not due changes nothing is its choice (entry
2). -/
def Obligations.FlyerControlAndTracking : Prop :=
  (∀ (s : State) (n : Fin 96) (p : Port) (v : Word), let c := s.chip;
    let page := PageCls.flyer.base + n.val;
    let f := c.fly n.val;
    let k := c.stageSlot n.val;
    let st := c.fld FLYER.PWR_CTRL_STATE n.val;
    let counted (i : Instr) (off : Nat) : Prop := SetsRegs i s (errKeys page) fun d => c.Counted d page off p;
    let key := bitsOf v.toNat 31 16 = 0x5345;
    let doSeal := bitsOf v.toNat 0 0 = 1 ∧ bitsOf v.toNat 1 1 = 0;
    let undo := bitsOf v.toNat 0 0 = 0 ∧ bitsOf v.toNat 1 1 = 1;
    let zeroed (d : Chip) : Prop := (d.fly n.val).unattrRun = 0 ∧ ∀ j, j < 64 → (d.driftRec n.val j).babbleRun = 0;
    c.Open p .flyer n.val →
    (∀ i ∈ [Instr.ttSeal p n v, Instr.ttUnseal p n v],
      ((¬ key ∨ (bitsOf v.toNat 0 0 = 1 ∧ bitsOf v.toNat 1 1 = 1)) → counted i 0x08C) ∧
      (key → doSeal → c.fld FLYER.TT_SEAL_STATUS_STATE n.val = 1 → counted i 0x08C) ∧
      (key → doSeal → c.fld FLYER.TT_SEAL_STATUS_STATE n.val ≠ 1 → c.slotSealed n.val k = true → Idles i s) ∧
      (key → doSeal → c.fld FLYER.TT_SEAL_STATUS_STATE n.val ≠ 1 → c.slotSealed n.val k = false → Becomes i s
        (c.setFly n.val { f with sealing := some k, sealImage := c.slotImage n.val k, sealCrc := c.fld FLYER.TT_STAGE_CRC_CRC n.val })
        [FLYER.TT_SEAL_STATUS_STATE.key n.val 0] fun d => d.fld FLYER.TT_SEAL_STATUS_STATE n.val = 1) ∧
      (key → undo → (c.fld SEGMENT.TT_STATUS_STATE n.val = 1 ∨ f.active = some k) →
        SetsRegs i s (FLYER.TT_SEAL_STATUS_CAUSE.key n.val 0 :: errKeys page) fun d =>
          c.Counted d page 0x08C p ∧ d.fld FLYER.TT_SEAL_STATUS_CAUSE n.val = 6) ∧
      (key → undo → c.fld SEGMENT.TT_STATUS_STATE n.val ≠ 1 → f.active ≠ some k → SetsRegs i s [FLYER.TT_SLOT_SEALED.key n.val k]
        fun d => c.slotSealed n.val k = true → d.slotSealed n.val k = false)) ∧
    (bitsOf v.toNat 0 0 = 1 → bitsOf v.toNat 31 16 = 0x4652 →
      SetsRegs (.rearm p n v) s [FLYER.TX_STATUS_LATCHED.key n.val 0, FLYER.TX_STATUS_VIOL_RUN.key n.val 0] fun d =>
        d.fld FLYER.TX_STATUS_LATCHED n.val = 0 ∧ d.fld FLYER.TX_STATUS_VIOL_RUN n.val = 0) ∧
    ((bitsOf v.toNat 0 0 = 0 ∨ bitsOf v.toNat 31 16 ≠ 0x4652) → counted (.rearm p n v) 0x068) ∧
    (bitsOf v.toNat 31 31 = 1 → bitsOf v.toNat 8 8 = 0 → Becomes (.driftCmd p n v) s
      (c.setDrift n.val (bitsOf v.toNat 5 0) { mac := (c.driftRec n.val (bitsOf v.toNat 5 0)).mac }) [] fun _ => True) ∧
    (bitsOf v.toNat 31 31 = 1 → bitsOf v.toNat 8 8 = 1 → Ends (.driftCmd p n v) s fun d =>
      (∀ j, j < 64 → d.driftRec n.val j = { mac := (c.driftRec n.val j).mac }) ∧
      ∀ m j, m ≠ n.val → j < 64 → d.driftRec m j = c.driftRec m j) ∧
    (bitsOf v.toNat 31 31 = 0 → Idles (.driftCmd p n v) s) ∧
    (∀ i ∈ [Instr.pwrOnWrite p n v, Instr.pwrRestore p n v],
      (bitsOf v.toNat 31 31 = 1 → Ends i s fun d => (d.fly n.val).cutCount = 0 ∧ zeroed d) ∧
      (bitsOf v.toNat 0 0 = 0 → Ends i s fun d => d.fld FLYER.PWR_CTRL_ON n.val = 0 ∧ d.fld FLYER.PWR_CTRL_STATE n.val = pwOFF ∧
        d.chain = { c.chain with dirty := c.chain.dirty || c.chainBit n.val } ∧
        c.KeepsCells d [FLYER.PWR_CTRL_ON.key n.val 0, FLYER.PWR_CTRL_STATE.key n.val 0]) ∧
      (bitsOf v.toNat 0 0 = 1 → st = pwOFF → Ends i s fun d => d.fld FLYER.PWR_CTRL_ON n.val = 1 ∧ d.fld FLYER.PWR_CTRL_STATE n.val = pwON ∧
        d.chain.dirty = true) ∧
      (bitsOf v.toNat 0 0 = 1 → bitsOf v.toNat 31 31 = 1 → st ≠ pwOFF → Ends i s fun d =>
        d.fld FLYER.PWR_CTRL_STATE n.val = pwON ∧ (d.fly n.val).cutCount = 0 ∧ zeroed d ∧ (st ≠ pwON → d.chain.dirty = true)) ∧
      (bitsOf v.toNat 0 0 = 1 → st ≠ pwOFF → (bitsOf v.toNat 31 31 = 0 ∨ st = pwON) → Ends i s fun d =>
        d.fld FLYER.PWR_CTRL_STATE n.val = st ∧ d.fld FLYER.PWR_CTRL_ON n.val = 1))) ∧
  (∀ (s : State) (n : Fin 96) (p : Port) (v : Word) (stamp : BitVec 96) (octets : List Byte), let c := s.chip;
    let f := c.fly n.val;
    let st := c.flySt n.val;
    let en := c.hdr HDR.CTRL_EN (PageCls.flyer.base + n.val);
    let faults (d : Chip) (r : FieldRow) : Prop := d.fld r n.val = 1 ∧ c.Tells d EV.FLYER_GUARD_EVENT n.val;
    let on (d : Chip) : Prop := d.flySt n.val = if c.on FLYER.CFG_MODE n.val then fyOPEN else fyUNSYNC;
    let off (d : Chip) : Prop := d.flySt n.val = fyOFF ∧ (d.fly n.val).active = none ∧ (d.fly n.val).tx = none ∧
      (f.tx ≠ none → d.fld FLYER.TX_STATUS_DRIVER_ON n.val = 0) ∧ d.fld FLYER.SYNC_STATUS_MISS_RUN n.val = c.fld FLYER.SYNC_STATUS_MISS_RUN n.val ∧
      d.fld FLYER.SYNC_STATUS_TABLE_ID n.val = c.fld FLYER.SYNC_STATUS_TABLE_ID n.val ∧
      (∀ x, f.tx = some x → c.now < x.endAt → c.Counts d FLYER.TRUNCATED_COUNT n.val);
    let body := octets.take (octets.length - 4);
    let m := parseSeg body;
    let rx := Instr.flyerBeaconDetect n stamp octets;
    let start := c.flyStart stamp.toNat - (if c.on FLYER.TX_STATUS_DRIVER_ON n.val then 0 else c.lineDelay n.val : Nat);
    let fcsOk := crc32 body = leNat (octets.drop (octets.length - 4));
    (st = fyOFF → en = 1 → c.dom .seg = domON → SetsRegs (.flyerEnable n none) s [FLYER.SYNC_STATUS_STATE.key n.val 0] on) ∧
    ((st ≠ fyOFF ∨ en ≠ 1 ∨ c.dom .seg ≠ domON) → Idles (.flyerEnable n none) s) ∧
    (c.Open p .flyer n.val → c.dom .seg = domON →
      (st = fyOFF → v.toNat % 8 = 1 → Ends (.flyerEnable n (some (p, v))) s on) ∧
      (st ≠ fyOFF → v.toNat % 8 = 0 → Ends (.flyerDisable n (some (p, v))) s off)) ∧
    (st ≠ fyOFF → (en = 0 ∨ c.dom .seg ≠ domON) → Ends (.flyerDisable n none) s off) ∧
    (en ≠ 0 → c.dom .seg = domON → Idles (.flyerDisable n none) s) ∧
    ((st = fyOFF ∨ st = fyOPEN ∨ ¬ fcsOk) → Idles rx s) ∧
    (∀ b, fcsOk → m.skein = true → m.ver = 1 → m.typ = ftBEACON → m.body.bind parseBeacon = some b →
      (∀ k, c.matchSlot n.val b.tableId b.cycleLen = some k →
        ((st = fyUNSYNC ∧ c.on WHORL.REFCLK_STATUS_FAULT = false) ∨ (st ∈ [fySYNCWAIT, fySYNC] ∧ c.flyTakes n.val start (m.flags.testBit 5) = true) →
          Ends rx s fun d => (d.fly n.val).active = some k ∧ (d.fly n.val).anchor = start.toNat ∧
            (d.fly n.val).predicted = start.toNat + c.slotLen n.val k * nsQ ∧ d.fld FLYER.SYNC_STATUS_MISS_RUN n.val = 0 ∧
            d.fld FLYER.SYNC_STATUS_CYCLE_OK n.val = 1 ∧
            d.fld FLYER.SYNC_STATUS_MASTER_SELF n.val = (if c.on FLYER.TX_STATUS_DRIVER_ON n.val then 1 else 0) ∧
            d.flySt n.val = (if st = fyUNSYNC then fySYNCWAIT else fySYNC))) ∧
      (c.matchSlot n.val b.tableId b.cycleLen = none → st ∈ [fySYNCWAIT, fySYNC] →
        SetsRegs rx s [FLYER.BEACON_REJECT_COUNT.key n.val 0, FLYER.FAULT_STATUS_BEACON_REJECT.key n.val 0, EV.FLYER_GUARD_EVENT.key n.val]
          fun d => c.Counts d FLYER.BEACON_REJECT_COUNT n.val ∧ faults d FLYER.FAULT_STATUS_BEACON_REJECT)) ∧
    (c.flyMissDue n.val = true → let run := min (c.fld FLYER.SYNC_STATUS_MISS_RUN n.val + 1) 15
      Ends (.flyerBeaconMiss n) s fun d => d.fld FLYER.SYNC_STATUS_MISS_RUN n.val = run ∧ d.fld FLYER.SYNC_STATUS_CYCLE_OK n.val = 0 ∧
        (d.fly n.val).predicted = f.predicted + c.flyLen n.val ∧
        (run < c.flyLoss n.val → d.flySt n.val = st) ∧
        (c.flyLoss n.val ≤ run → d.flySt n.val = fyUNSYNC ∧ c.Counts d FLYER.SYNC_LOSS_COUNT n.val ∧ faults d FLYER.FAULT_STATUS_SYNC_LOST ∧
          (d.fly n.val).tx = none ∧ (∀ x, f.tx = some x → c.now < x.endAt → c.Counts d FLYER.TRUNCATED_COUNT n.val))) ∧
    (c.flyMissDue n.val = false → Idles (.flyerBeaconMiss n) s) ∧
    (c.extDue n.val = true → Becomes (.extAllowance n) s
      (c.setFly n.val { f with extJudged := some f.predicted, extEnd := some (f.predicted + c.flyLen n.val),
                               extUsed := false })
      [FLYER.SYNC_STATUS_EXT_ALLOW.key n.val 0] fun d => d.fld FLYER.SYNC_STATUS_EXT_ALLOW n.val = 1) ∧
    (c.extDue n.val = false → Idles (.extAllowance n) s) ∧
    (∀ k, f.sealing = some k → let cause := c.sealCause n.val k f.sealImage f.sealCrc
      (cause = 0 → Ends (.ttSealDone n) s fun d => d.fld FLYER.TT_SEAL_STATUS_STATE n.val = 2 ∧ d.slotSealed n.val k = true ∧
        faults d FLYER.FAULT_STATUS_SEAL_DONE) ∧
      (cause ≠ 0 → Ends (.ttSealDone n) s fun d => d.fld FLYER.TT_SEAL_STATUS_STATE n.val = 3 ∧
        d.fld FLYER.TT_SEAL_STATUS_CAUSE n.val = cause ∧ faults d FLYER.FAULT_STATUS_SEAL_FAIL)) ∧
    (f.sealing = none → Idles (.ttSealDone n) s))

/-- A transmission that the Flyer allows turns the driver on; one outside every window is blocked and is a violation; one still on at
its close is cut; one that ends inside its window was clean, and its clock sets VIOL_RUN to 0; the extension allowance permits one, with
the later of two closes inside another window; UNSYNC has its budget; a latched Flyer blocks every one, and the third violation latches
it; an attempt with EN = 0 is blocked and leaves VIOL_RUN (R180 to R184, R471). Which close holds where the allowance and a window overlap
is the model's reading (assumption log, entry 95), and that what is not due changes nothing its choice (entry 2). -/
def Obligations.DriverWindowsGuard : Prop :=
  ∀ (s : State) (n : Fin 96) (quiet : Nat), let c := s.chip
    let f := c.fly n.val
    let st := c.flySt n.val
    let viol := min (c.fld FLYER.TX_STATUS_VIOL_RUN n.val + 1) 3
    let violates (d : Chip) : Prop := d.fld FLYER.TX_STATUS_VIOL_RUN n.val = viol ∧ d.fld FLYER.FAULT_STATUS_TX_VIOLATION n.val = 1 ∧
      c.Tells d EV.FLYER_GUARD_EVENT n.val ∧ (viol = 3 → c.on FLYER.TX_STATUS_LATCHED n.val = false →
        d.fld FLYER.TX_STATUS_LATCHED n.val = 1 ∧ c.Counts d FLYER.LATCHES_COUNT n.val)
    (∀ x, (c.eng n.val).lastTx = some x → x.start ≤ c.now → let stop := (c.eng n.val).txEnd
      let allowed (close : Option Nat) : Prop := Ends (.txAttempt n quiet) s fun d => d.fld FLYER.TX_STATUS_DRIVER_ON n.val = 1 ∧
        (d.fly n.val).tx = some { start := x.start, close := close, endAt := stop } ∧ (d.eng n.val).lastTx = none
      let free := c.modes.segSupplyBad = false ∧ c.on FLYER.TX_STATUS_LATCHED n.val = false ∧ c.on WHORL.REFCLK_STATUS_FAULT = false
      (st = fyOPEN → c.modes.segSupplyBad = false → c.on FLYER.TX_STATUS_LATCHED n.val = false → allowed none) ∧
      (st = fyUNSYNC → free → 9600 ≤ quiet → c.budgetUsed n.val < c.fld FLYER.UNSYNC_BUDGET_US n.val * usQ →
        Ends (.txAttempt n quiet) s fun d => d.fld FLYER.TX_STATUS_DRIVER_ON n.val = 1 ∧
          (d.fly n.val).tx = some { start := x.start, close := some (x.start + 60000 * nsQ), endAt := stop, unsync := true }) ∧
      (st = fyUNSYNC → free → c.fld FLYER.UNSYNC_BUDGET_US n.val * usQ ≤ c.budgetUsed n.val → Ends (.txAttempt n quiet) s fun d =>
        d.fld FLYER.FAULT_STATUS_BUDGET n.val = 1 ∧ c.Counts d FLYER.BLOCKED_COUNT n.val ∧ violates d) ∧
      (st = fyUNSYNC → free → c.budgetUsed n.val < c.fld FLYER.UNSYNC_BUDGET_US n.val * usQ → quiet < 9600 →
        Ends (.txAttempt n quiet) s fun d => c.Counts d FLYER.BLOCKED_COUNT n.val ∧ violates d) ∧
      (st ∈ [fySYNCWAIT, fySYNC] → free → c.windowClose n.val x.start = none → c.extCovers n.val x.start = true →
        Ends (.txAttempt n quiet) s fun d => d.fld FLYER.TX_STATUS_DRIVER_ON n.val = 1 ∧ (d.fly n.val).extUsed = true ∧
          (d.fly n.val).extEnd = f.extEnd ∧
          (d.fly n.val).tx = some { start := x.start, close := some (x.start + 60000 * nsQ), endAt := stop }) ∧
      (∀ e, st ∈ [fySYNCWAIT, fySYNC] → free → c.windowClose n.val x.start = some e →
        (c.extCovers n.val x.start = false → allowed (some e)) ∧
        (c.extCovers n.val x.start = true → Ends (.txAttempt n quiet) s fun d => (d.fly n.val).extUsed = true ∧
          (d.fly n.val).tx = some { start := x.start, close := some (max e (x.start + 60000 * nsQ)), endAt := stop })) ∧
      (st = fyOFF → c.on FLYER.TX_STATUS_LATCHED n.val = false →
        (c.hdr HDR.CTRL_EN (PageCls.flyer.base + n.val) ≠ 1 → Ends (.txAttempt n quiet) s fun d =>
          c.Counts d FLYER.BLOCKED_COUNT n.val ∧ d.fld FLYER.FAULT_STATUS_TX_VIOLATION n.val = 1 ∧ (d.eng n.val).lastTx = none ∧
          d.fld FLYER.TX_STATUS_VIOL_RUN n.val = c.fld FLYER.TX_STATUS_VIOL_RUN n.val ∧ d.flyers = c.flyers) ∧
        (c.hdr HDR.CTRL_EN (PageCls.flyer.base + n.val) = 1 → Ends (.txAttempt n quiet) s fun d =>
          c.Counts d FLYER.BLOCKED_COUNT n.val ∧ violates d ∧ (d.eng n.val).lastTx = none)) ∧
      (st ∈ [fySYNCWAIT, fySYNC] → free → c.windowClose n.val x.start = none → c.extCovers n.val x.start = false →
        Ends (.txAttempt n quiet) s fun d => c.Counts d FLYER.BLOCKED_COUNT n.val ∧ violates d ∧ (d.eng n.val).lastTx = none) ∧
      (st ≠ fyOFF → c.on FLYER.TX_STATUS_LATCHED n.val = true → Becomes (.txAttempt n quiet) s
        (c.setEng n.val { c.eng n.val with lastTx := none }) [FLYER.BLOCKED_COUNT.key n.val 0] fun d => c.Counts d FLYER.BLOCKED_COUNT n.val) ∧
      (st ∈ [fyUNSYNC, fySYNCWAIT, fySYNC] → c.on WHORL.REFCLK_STATUS_FAULT = true → Ends (.txAttempt n quiet) s fun d =>
        c.Counts d FLYER.BLOCKED_COUNT n.val ∧ d.fld FLYER.TX_STATUS_VIOL_RUN n.val = c.fld FLYER.TX_STATUS_VIOL_RUN n.val)) ∧
    ((c.eng n.val).lastTx = none → Idles (.txAttempt n quiet) s) ∧
    (∀ x e, f.tx = some x → x.close = some e → ((x.endAt : Int) ≤ c.tickFrom e ∨ c.now < e) → Idles (.windowCloseCut n) s) ∧
    (∀ x e, f.tx = some x → x.close = some e → c.tickFrom e < x.endAt → e ≤ c.now → Ends (.windowCloseCut n) s fun d =>
      (d.fly n.val).tx = none ∧ d.fld FLYER.TX_STATUS_DRIVER_ON n.val = 0 ∧ c.Counts d FLYER.TRUNCATED_COUNT n.val ∧ violates d) ∧
    (f.tx = none → Idles (.windowCloseCut n) s) ∧
    (∀ x, f.tx = some x → s.pending = [] → c.mode ≠ mRESET → ∃ t, step s = .next t ∧
      (x.endAt ≤ t.chip.now → (∀ e, x.close = some e → (x.endAt : Int) ≤ t.chip.tickFrom e) → (t.chip.fly n.val).tx = none ∧
        t.chip.fld FLYER.TX_STATUS_DRIVER_ON n.val = 0 ∧ t.chip.fld FLYER.TX_STATUS_VIOL_RUN n.val = 0 ∧
        t.chip.fld FLYER.TRUNCATED_COUNT n.val = c.fld FLYER.TRUNCATED_COUNT n.val))

/-- Energy where no partner may speak is counted, by node where it can be attributed; a run that reaches its limit cuts segment power
under POLICY = CUT; a timed cut ends after OFF_MS, and the chain carries the bits of all segments (R190 to R192, R194). How energy is
told and attributed, and how the runs of a cut count, is the model's reading (assumption log, entry 50); that a command which is not due
changes nothing is its choice (entry 2). -/
def Obligations.BabblingAndSegmentPower : Prop :=
  ∀ (s : State) (n : Fin 96) (t : Fin 65) (stamp : BitVec 96), let c := s.chip
    let f := c.fly n.val
    let start : Int := stamp.toNat
    let babbled (d : Chip) : Prop := d.fld FLYER.FAULT_STATUS_BABBLE n.val = 1 ∧ c.Tells d EV.FLYER_GUARD_EVENT n.val
    let mayCut := c.on FLYER.CONTAIN_CFG_POLICY n.val = true ∧ c.fld FLYER.PWR_CTRL_STATE n.val = pwON ∧
      ¬ (c.mode = mSAFE ∧ c.on FLYER.CONTAIN_CFG_NO_CUT_IN_SAFE n.val = true)
    let cut (d : Chip) : Prop := c.Counts d FLYER.CUTS_COUNT n.val ∧ d.fld FLYER.FAULT_STATUS_POWER_CUT n.val = 1 ∧
      d.fld FLYER.PWR_CTRL_STATE n.val = if c.fld FLYER.CONTAIN_CFG_RETRIES n.val ≤ f.cutCount then pwHELD else pwCUT
    (∀ k, f.active = some k → c.babbleOn n.val = true → 0 < t.val → t.val < 64 → c.flyRole n.val k t.val = 1 →
      f.anchor + (c.flyOffset n.val k t.val + c.flyTurnLen n.val k t.val) * nsQ ≤ c.now + 9600 * nsQ →
      let node := bitsOf (c.flyW n.val k (3 + 2 * t.val)) 29 24
      let run := min 255 ((c.driftRec n.val node).babbleRun + 1)
      Ends (.babbleOverrun n t) s fun d => c.Counts d FLYER.BABBLES_COUNT n.val ∧ babbled d ∧
        (node ∉ f.episodes → (d.driftRec n.val node).babbleRun = run ∧
          (run = max 1 (c.fld FLYER.CONTAIN_CFG_LIMIT n.val) → mayCut → cut d ∧ (d.driftRec n.val node).cutCause = true))) ∧
    (∀ k, f.active = some k → c.babbleOn n.val = true → t.val = 64 →
      let stop : Int := f.anchor + ((c.slotLen n.val k : Int) - (bitsOf (c.flyW n.val k 0) 31 16 : Nat)) * (nsQ : Nat)
      stop ≤ c.now → c.isStray n.val stop = true → Ends (.babbleOverrun n t) s fun d =>
        c.Counts d FLYER.STRAY_UNKNOWN_COUNT n.val ∧ babbled d) ∧
    (∀ k, f.active = some k → c.babbleOn n.val = true → t.val = 0 → c.partnerTurn0 n.val = true →
      let stop : Int := f.anchor + (((c.flyOffset n.val k 0 + c.flyTurnLen n.val k 0 : Nat) : Int) - 9600) * (nsQ : Nat)
      stop ≤ c.now → c.isStray n.val stop = true → Ends (.babbleOverrun n t) s fun d =>
        c.Counts d FLYER.STRAY_UNKNOWN_COUNT n.val ∧ babbled d) ∧
    (c.babbleOn n.val = true → Ends (.strayEnergy n stamp none true) s fun d => c.Counts d FLYER.STRAY_UNKNOWN_COUNT n.val ∧ babbled d) ∧
    (c.babbleOn n.val = false → Idles (.babbleOverrun n t) s ∧ Idles (.strayEnergy n stamp none false) s) ∧
    (c.babbleOn n.val = true → c.isStray n.val start = true → Ends (.strayEnergy n stamp none false) s fun d =>
      c.Counts d FLYER.STRAY_UNKNOWN_COUNT n.val ∧ babbled d ∧ (f.unknown = false → (d.fly n.val).unattrRun = f.unattrRun + 1 ∧
        (f.unattrRun + 1 = max 1 (c.fld FLYER.CONTAIN_CFG_UNATTR_LIMIT n.val) → mayCut → cut d))) ∧
    (∀ mac k, c.babbleOn n.val = true → c.isStray n.val start = true → c.nodeOfMac n.val mac.toNat = some k →
      Ends (.strayEnergy n stamp (some mac) false) s fun d => c.Counts d FLYER.BABBLES_COUNT n.val ∧ babbled d) ∧
    (c.cutOver n.val = true → Ends (.cutRestore n) s fun d => d.fld FLYER.PWR_CTRL_STATE n.val = pwON ∧ (d.fly n.val).unattrRun = 0 ∧
      ∀ j, j < 64 → (d.driftRec n.val j).babbleRun = 0) ∧
    (c.cutOver n.val = false → Idles (.cutRestore n) s) ∧
    (c.cleanDue n.val = true → Becomes (.cleanRenew n) s (c.setFly n.val { f with cutCount := 0, cleanFrom := c.now }) [] fun _ => True) ∧
    (c.cleanDue n.val = false → Idles (.cleanRenew n) s) ∧
    (c.chainDue = true → Becomes .segpwrFrame s
      { c with chain := { latchAt := some (c.now + 15360 * nsQ), bits := (List.range 96).filter fun n => c.chainBit n, dirty := false,
                          freeFrom := c.now + 15520 * nsQ, lastStart := c.now } } [] fun _ => True) ∧
    (c.chainDue = false → Idles .segpwrFrame s) ∧
    (∀ at_, c.chain.latchAt = some at_ → at_ ≤ c.now → Becomes .segpwrLatch s { c with chain := { c.chain with latchAt := none } }
      ((List.range 96).map fun n => FLYER.PWR_CTRL_CHAIN_BIT.key n 0) fun d =>
        ∀ m, m < 96 → d.on FLYER.PWR_CTRL_CHAIN_BIT m = c.chain.bits.contains m) ∧
    (c.chain.latchAt = none → Idles .segpwrLatch s)

/-! ### The uplink MACs (chapter 06) -/

/-- The link states of Table 06.2: an enabled uplink waits for leave, searches after its bring-up, is UP when its line is good, and is
OFF when it is disabled; what it had in flight when it left UP is cut, and the transition counts (R198 to R201, R222; that LINK_DOWNS
counts every transition from UP is the model's reading, assumption log, entry 93). In SEARCH the line bits follow the line, and the FEC
codewords of an idle line count there and in UP (R222, R223). MERGE_CFG.EN and the verify process (R206). How the bring-up's commands are
cut, the line's 1 ms, what ends with a link, and when verify starts and responds are the model's choices (entries 51, 52, 53 and 54); so
it is that a command which is not due changes nothing (entry 2). -/
def Obligations.UplinkLinkStates : Prop :=
  ∀ (s : State) (n : Fin 4) (p : Port) (v : Word) (phi : Fin 2560) (cal : Option (Word × Word)) (cause : LinkCause) (busy : Bool)
    (line : LineState) (us a b : Nat), let c := s.chip
    let st := c.ulSt n.val
    let seen := Instr.linkUp { n := n, line := line, heldUs := us, fixed := a, bad := b }
    let fecOn := c.on UPLINK.LINK_STATUS_FEC_IN_FORCE n.val = true
    let fecKeys := [UPLINK.FEC_CORRECTED_COUNT.key n.val 0, UPLINK.FEC_UNCORRECTED_COUNT.key n.val 0, EV.UPLINK_FEC_UNCORRECTABLE.key n.val]
    let fecs (d : Chip) : Prop := c.Counts d UPLINK.FEC_CORRECTED_COUNT n.val a ∧ (0 < b →
      c.Counts d UPLINK.FEC_UNCORRECTED_COUNT n.val b ∧ c.Tells d EV.UPLINK_FEC_UNCORRECTABLE n.val)
    let u := c.upl n.val
    let sp := c.fld UPLINK.CFG_SPEED n.val
    let fec := c.fld UPLINK.CFG_FEC_EN n.val
    let may := st = ulOFF ∧ c.uplinkEn n.val = true ∧ c.mode ∈ [mACQUIRE, mRUN, mHOLDOVER] ∧ c.fld UPLINK.LINK_STATUS_NO_LEAVE n.val = 0
    let off (d : Chip) : Prop := d.ulSt n.val = ulOFF ∧ d.fld UPLINK.MERGE_STATUS_ACTIVE n.val = 0 ∧
      d.fld UPLINK.LINK_STATUS_BLOCK_LOCK n.val = 0 ∧
      (st = ulUP → (d.upl n.val).cur = none ∧ (d.upl n.val).cont = none ∧ (d.upl n.val).ctrl = none ∧ (d.upl n.val).reasm = none ∧
        (d.upl n.val).rxCut = some c.now ∧ c.Counts d UPLINK.LINK_DOWNS_COUNT n.val)
    let inFlight := (if u.cur.isSome then 1 else 0) + (if u.cont.isSome then 1 else 0) + (if u.ctrl.isSome then 1 else 0)
    let lineBits : List (FieldRow × Bool) := [(UPLINK.LINK_STATUS_BLOCK_LOCK, line.blockLock),
      (UPLINK.LINK_STATUS_FEC_LOCK, line.fecLock && c.on UPLINK.LINK_STATUS_FEC_IN_FORCE n.val), (UPLINK.LINK_STATUS_HI_BER, line.hiBer),
      (UPLINK.LINK_STATUS_LOCAL_FAULT, line.localFault), (UPLINK.LINK_STATUS_REMOTE_FAULT, line.remoteFault)]
    let shown (d : Chip) : Prop := (∀ e ∈ lineBits, d.on e.1 n.val = e.2) ∧
      (line.hiBer = true → c.on UPLINK.LINK_STATUS_HI_BER n.val = false → c.Tells d EV.UPLINK_HI_BER n.val)
    let good := line.blockLock = true ∧ (line.fecLock = true ∨ c.on UPLINK.LINK_STATUS_FEC_IN_FORCE n.val = false) ∧
      line.hiBer = false ∧ line.localFault = false ∧ line.remoteFault = false
    (may → sp = 0 → fec = 1 → SetsRegs (.uplinkEnable n none) s [UPLINK.LINK_STATUS_CFG_ERR.key n.val 0] fun d =>
      d.fld UPLINK.LINK_STATUS_CFG_ERR n.val = 1) ∧
    (may → ¬ (sp = 0 ∧ fec = 1) → Ends (.uplinkEnable n none) s fun d => d.fld UPLINK.LINK_STATUS_SPEED_IN_FORCE n.val = sp % 2 ∧
      d.fld UPLINK.LINK_STATUS_FEC_IN_FORCE n.val = fec % 2 ∧ d.fld UPLINK.LINK_STATUS_CFG_ERR n.val = 0 ∧
      (c.leaveAnswer (.uplink n) = .refused → d.ulSt n.val = ulOFF ∧ d.fld UPLINK.LINK_STATUS_NO_LEAVE n.val = 1) ∧
      (c.leaveAnswer (.uplink n) = .queued → d.ulSt n.val = ulLEAVE ∧ d.leaveWaiting (.uplink n) = true)) ∧
    ((st ≠ ulOFF ∨ c.uplinkEn n.val = false ∨ c.mode ∉ [mACQUIRE, mRUN, mHOLDOVER]) → Idles (.uplinkEnable n none) s) ∧
    (c.Open p .uplink n.val → st ≠ ulOFF →
      (v.toNat % 8 = 1 → SetsRegs (.uplinkEnable n (some (p, v))) s [HDR.CTRL_EN.key (PageCls.uplink.base + n.val)] fun d =>
        d.uplinkEn n.val = true) ∧
      (v.toNat % 8 = 0 → Ends (.uplinkDisable n (some (p, v))) s fun d => off d ∧ d.uplinkEn n.val = false ∧
        d.fld UPLINK.LINK_STATUS_NO_LEAVE n.val = 0)) ∧
    (st ≠ ulOFF → (c.uplinkEn n.val = false ∨ c.mode = mSTANDBY) → Ends (.uplinkDisable n none) s off) ∧
    ((st = ulOFF ∨ (c.uplinkEn n.val = true ∧ c.mode ≠ mSTANDBY)) → Idles (.uplinkDisable n none) s) ∧
    (st = ulBRINGUP → Ends (.uplinkBringupDone n cal) s fun d => d.ulSt n.val = ulSEARCH ∧ c.Tells d EV.POWER_WAKE_DONE ∧
      (∀ tx rx, cal = some (tx, rx) → d.fld WHORL.CAL_TX_DELAY 0 n.val = tx.toNat ∧ d.fld WHORL.CAL_RX_DELAY 0 n.val = rx.toNat) ∧
      (cal = none → c.Tells d EV.WHORL_CAL_FAIL)) ∧
    (st ≠ ulBRINGUP → Idles (.uplinkBringupDone n cal) s) ∧
    (st = ulSEARCH → ¬ (good ∧ 1000 ≤ us) → SetsRegs seen s
      (EV.UPLINK_HI_BER.key n.val :: lineBits.map (fun e => e.1.key n.val 0) ++ if c.on UPLINK.LINK_STATUS_FEC_IN_FORCE n.val then fecKeys else [])
      fun d => shown d ∧ (fecOn → fecs d)) ∧
    (st = ulSEARCH → good → 1000 ≤ us → Ends seen s fun d => shown d ∧ (fecOn → fecs d) ∧
      d.ulSt n.val = ulUP ∧ c.Tells d EV.UPLINK_LINK_UP n.val ∧ (d.upl n.val).rxCut = none ∧
      d.fld UPLINK.MERGE_STATUS_ATTEMPTS n.val = 0 ∧
      d.fld UPLINK.MERGE_STATUS_VERIFY_STATE n.val = (if c.on UPLINK.MERGE_CFG_EN n.val then
        (if c.on UPLINK.MERGE_CFG_VERIFY_DIS n.val then 5 else 2) else 0)) ∧
    (st = ulUP → fecOn → SetsRegs seen s fecKeys fecs) ∧
    (st ≠ ulSEARCH → (st ≠ ulUP ∨ ¬ fecOn) → Idles seen s) ∧
    (st = ulUP → Ends (.linkDown n cause busy) s fun d => d.ulSt n.val = ulSEARCH ∧ c.Counts d UPLINK.LINK_DOWNS_COUNT n.val ∧
      c.Tells d EV.UPLINK_LINK_DOWN n.val ∧ (d.upl n.val).cur = none ∧ (d.upl n.val).cont = none ∧ (d.upl n.val).ctrl = none ∧
      (d.upl n.val).reasm = none ∧ (0 < inFlight → c.Counts d UPLINK.TX_LINK_ABORT_COUNT n.val inFlight) ∧
      (busy = true → c.Counts d UPLINK.RX_CODE_ERR_COUNT n.val ∧ c.Tells d EV.UPLINK_RX_ERROR n.val) ∧
      (cause = .remoteFault → d.fld UPLINK.LINK_STATUS_REMOTE_FAULT n.val = 1 ∧ c.Tells d EV.UPLINK_REMOTE_FAULT n.val) ∧
      (cause = .hiBer → d.fld UPLINK.LINK_STATUS_HI_BER n.val = 1 ∧ c.Tells d EV.UPLINK_HI_BER n.val)) ∧
    (st ≠ ulUP → Idles (.linkDown n cause busy) s) ∧
    (c.Open p .uplink n.val → c.on UPLINK.MERGE_CFG_EN n.val = true → bitsOf v.toNat 0 0 = 0 → Ends (.mergeEnWrite p n v) s fun d =>
      d.fld UPLINK.MERGE_CFG_EN n.val = 0 ∧ d.fld UPLINK.MERGE_STATUS_VERIFY_STATE n.val = 0 ∧
      d.fld UPLINK.MERGE_STATUS_ACTIVE n.val = 0 ∧ (d.upl n.val).reasm = none ∧ (d.upl n.val).responds = 0) ∧
    (c.Open p .uplink n.val → st = ulOFF → v.toNat % 8 = 0 → Ends (.uplinkDisable n (some (p, v))) s fun d => d.ulSt n.val = ulOFF ∧
      d.uplinkEn n.val = false ∧ d.fld UPLINK.LINK_STATUS_NO_LEAVE n.val = 0) ∧
    (c.Open p .uplink n.val → c.on UPLINK.MERGE_CFG_EN n.val = false → bitsOf v.toNat 0 0 = 1 → Ends (.mergeEnWrite p n v) s fun d =>
      d.fld UPLINK.MERGE_CFG_EN n.val = 1 ∧ d.fld UPLINK.MERGE_STATUS_VERIFY_STATE n.val =
        (if st = ulUP then (if bitsOf v.toNat 1 1 = 1 then 5 else 2) else 1)) ∧
    (c.verifyDue n.val = true → c.boundary n.val (c.instAt phi) = true → c.fld UPLINK.MERGE_STATUS_ATTEMPTS n.val < 3 →
      Ends (.verifySend n phi) s fun d => c.Counts d UPLINK.VERIFY_TX_COUNT n.val ∧
        d.fld UPLINK.MERGE_STATUS_ATTEMPTS n.val = c.fld UPLINK.MERGE_STATUS_ATTEMPTS n.val + 1 ∧
        (d.upl n.val).freeAt = c.instAt phi + (c.octs n.val 84 : Nat)) ∧
    (c.verifyDue n.val = true → 3 ≤ c.fld UPLINK.MERGE_STATUS_ATTEMPTS n.val → SetsRegs (.verifySend n phi) s
      [UPLINK.MERGE_STATUS_VERIFY_STATE.key n.val 0, EV.UPLINK_VERIFY_FAILED.key n.val] fun d =>
        d.fld UPLINK.MERGE_STATUS_VERIFY_STATE n.val = 4 ∧ c.Tells d EV.UPLINK_VERIFY_FAILED n.val) ∧
    (c.verifyDue n.val = false → Idles (.verifySend n phi) s)

/-- A frame received while the uplink is UP is judged by the first check of Table 06.3 that it fails, and counted there; MAC control is
consumed, a pause for the uplink's own or the pause address takes effect 64 ns later and is told where it sets or extends one, and one
that comes preemptable is not taken as a pause; mPackets are answered, reassembled or discarded (R203, R207, R210 to R212, R223). A frame that fails check 6 because the domain CORE is not open to it counts in RX_NOBUF and raises
RX_ERROR (R470). A frame whose reception had begun when the uplink left UP fails check 1, at its own end (the model's choice: assumption
log, entry 93). FEC codewords count with every frame and mPacket (R222). The servo gets its copy of a Sync or Follow_Up whatever the buffer
does (R101; the places of its fields are the model's, entry 90). What is not due changes nothing (entry 2). -/
def Obligations.UplinkReceives : Prop :=
  ∀ (s : State) (n : Fin 4) (stamp : BitVec 96) (phi : Fin 2560) (f : List Byte) (pcs : Bool) (a b : Nat), let c := s.chip
    let u := c.upl n.val
    let k := f.length
    let te := c.monoAt phi
    let rx (e : Bool) := Instr.uplinkFrameRx n stamp phi f e 0 0
    let mp (m : MPacket) := Instr.mpacketRx n phi m { pcsErr := pcs }
    let da := beNat (f.take 6)
    let forUs := da = 0x0180C2000001 ∨ da = c.fld UPLINK.MAC_HI_ADDR n.val * 2 ^ 32 + c.fld UPLINK.MAC_LO_ADDR n.val
    let noFec := c.on UPLINK.LINK_STATUS_FEC_IN_FORCE n.val = false
    let fec (d : Chip) : Prop := c.Counts d UPLINK.FEC_CORRECTED_COUNT n.val a ∧ (0 < b → c.Counts d UPLINK.FEC_UNCORRECTED_COUNT n.val b ∧
      c.Tells d EV.UPLINK_FEC_UNCORRECTABLE n.val)
    let fcsOk := 4 ≤ k ∧ crc32 (f.take (k - 4)) = leNat (f.drop (k - 4))
    let bad (e : Bool) (r : FieldRow) : Prop := SetsRegs (rx e) s [r.key n.val 0, EV.UPLINK_RX_ERROR.key n.val] fun d =>
      c.Counts d r n.val ∧ c.Tells d EV.UPLINK_RX_ERROR n.val
    let op := beNat ((f.drop 14).take 2)
    let q := beNat ((f.drop 16).take 2)
    (c.lineOpen n.val = false → (c.cutFrameEnds n.val stamp = false → Idles (rx pcs) s) ∧ ∀ m, Idles (mp m) s) ∧
    (∀ t0, c.ulUp n.val = false → u.rxCut = some t0 → stamp.toNat ≤ t0 → Becomes (rx pcs) s (c.setUpl n.val { u with rxCut := none })
      [UPLINK.RX_CODE_ERR_COUNT.key n.val 0, EV.UPLINK_RX_ERROR.key n.val] fun d =>
        c.Counts d UPLINK.RX_CODE_ERR_COUNT n.val ∧ c.Tells d EV.UPLINK_RX_ERROR n.val) ∧
    (c.lineOpen n.val = true → ¬ noFec → 0 < a → (∀ m, Ends (.mpacketRx n phi m { pcsErr := pcs, fixed := a, bad := b }) s fec) ∧
      Ends (.uplinkFrameRx n stamp phi f pcs a b) s fun d => fec d ∧
        (0 < b → c.Counts d UPLINK.RX_CODE_ERR_COUNT n.val ∧ c.Tells d EV.UPLINK_RX_ERROR n.val)) ∧
    (c.lineOpen n.val = true → noFec →
      bad true UPLINK.RX_CODE_ERR_COUNT ∧ (¬ fcsOk → bad false UPLINK.RX_FCS_ERR_COUNT) ∧
      (fcsOk → k < 64 → bad false UPLINK.RX_RUNT_COUNT) ∧
      (fcsOk → 64 ≤ k → max 1518 (min 9600 (c.fld UPLINK.CFG_MAX_FRAME n.val)) < k → bad false UPLINK.RX_OVERSIZE_COUNT) ∧
      (fcsOk → 64 ≤ k → k ≤ c.maxFrame n.val → beNat ((f.drop 12).take 2) = 0x8808 →
        (op ≠ 1 → SetsRegs (rx false) s [UPLINK.RX_MAC_CTRL_OTHER_COUNT.key n.val 0, EV.UPLINK_MAC_CTRL_UNSUPPORTED.key n.val] fun d =>
          c.Counts d UPLINK.RX_MAC_CTRL_OTHER_COUNT n.val ∧ c.Tells d EV.UPLINK_MAC_CTRL_UNSUPPORTED n.val) ∧
        (op = 1 → forUs → c.on UPLINK.PAUSE_CFG_RX_EN n.val = false →
          SetsRegs (rx false) s [UPLINK.RX_PAUSE_IGNORED_COUNT.key n.val 0] fun d => c.Counts d UPLINK.RX_PAUSE_IGNORED_COUNT n.val) ∧
        (op = 1 → forUs → c.on UPLINK.PAUSE_CFG_RX_EN n.val = true →
          c.on UPLINK.PAUSE_STATUS_PAUSED n.val = true → 0 < q → Becomes (rx false) s
            (c.setUpl n.val { u with pauseEnd := te + q * c.octs n.val 64, pausePend := none })
            (UPLINK.RX_PAUSE_COUNT.key n.val 0 :: if u.pauseEnd < te + q * c.octs n.val 64 then [EV.UPLINK_PAUSE_RX.key n.val] else [])
            fun d => c.Counts d UPLINK.RX_PAUSE_COUNT n.val ∧
              (u.pauseEnd < te + q * c.octs n.val 64 → c.Tells d EV.UPLINK_PAUSE_RX n.val)) ∧
        (op = 1 → forUs → c.on UPLINK.PAUSE_CFG_RX_EN n.val = true →
          c.on UPLINK.PAUSE_STATUS_PAUSED n.val = false →
          (q = 0 → SetsRegs (rx false) s [UPLINK.RX_PAUSE_COUNT.key n.val 0] fun d => c.Counts d UPLINK.RX_PAUSE_COUNT n.val) ∧
          (0 < q → u.pausePend = none → Becomes (rx false) s
            (c.setUpl n.val { u with pausePend := some (te + 64 * nsQ, te + q * c.octs n.val 64) })
            [UPLINK.RX_PAUSE_COUNT.key n.val 0, EV.UPLINK_PAUSE_RX.key n.val] fun d =>
              c.Counts d UPLINK.RX_PAUSE_COUNT n.val ∧ c.Tells d EV.UPLINK_PAUSE_RX n.val) ∧
          (∀ from_ to_, 0 < q → u.pausePend = some (from_, to_) → Becomes (rx false) s
            (c.setUpl n.val { u with pausePend := some (if from_ < to_ then from_ else te + 64 * nsQ, te + q * c.octs n.val 64) })
            (UPLINK.RX_PAUSE_COUNT.key n.val 0 :: if to_ < te + q * c.octs n.val 64 then [EV.UPLINK_PAUSE_RX.key n.val] else [])
            fun d => c.Counts d UPLINK.RX_PAUSE_COUNT n.val ∧ (to_ < te + q * c.octs n.val 64 → c.Tells d EV.UPLINK_PAUSE_RX n.val))) ∧
        (op = 1 → forUs → c.on UPLINK.PAUSE_CFG_RX_EN n.val = true → c.on UPLINK.PAUSE_STATUS_PAUSED n.val = true → q = 0 →
          Becomes (rx false) s (c.setUpl n.val { u with pausePend := some (te + 64 * nsQ, te + 64 * nsQ) })
            [UPLINK.RX_PAUSE_COUNT.key n.val 0] fun d => c.Counts d UPLINK.RX_PAUSE_COUNT n.val) ∧
        (op = 1 → ¬ forUs → SetsRegs (rx false) s [UPLINK.RX_MAC_CTRL_OTHER_COUNT.key n.val 0] fun d =>
          c.Counts d UPLINK.RX_MAC_CTRL_OTHER_COUNT n.val) ∧
        (op = 1 → c.on UPLINK.MERGE_CFG_EN n.val = true → u.reasm = none →
          Becomes (.mpacketRx n phi (.start stamp f .final) {}) s (c.setUpl n.val { u with reasm := none })
            [UPLINK.RX_ASSY_OK_COUNT.key n.val 0, UPLINK.RX_MAC_CTRL_OTHER_COUNT.key n.val 0] fun d =>
              c.Counts d UPLINK.RX_ASSY_OK_COUNT n.val ∧ c.Counts d UPLINK.RX_MAC_CTRL_OTHER_COUNT n.val)) ∧
      (fcsOk → 64 ≤ k → k ≤ c.maxFrame n.val → beNat ((f.drop 12).take 2) ≠ 0x8808 →
        (c.coreOpen = false → (parsePtp (f.take (k - 4)) = none → bad false UPLINK.RX_NOBUF_COUNT) ∧
          Ends (rx false) s fun d => c.Counts d UPLINK.RX_NOBUF_COUNT n.val ∧ c.Tells d EV.UPLINK_RX_ERROR n.val ∧
            d.buffer.nextId = c.buffer.nextId) ∧
        (c.coreOpen = true → c.cellsFor n.val (cellsOf (k - 4)) (c.uplPreclass n.val (f.take (k - 4))) = none →
          Ends (rx false) s fun d => c.Counts d UPLINK.RX_NOBUF_COUNT n.val ∧ d.buffer.nextId = c.buffer.nextId) ∧
        (∀ m, parsePtp (f.take (k - 4)) = some (false, m) → c.ptpForServo n.val m = true → m.twoStep = true → Ends (rx false) s fun d =>
          d.whorl.sync = some { seq := m.seq.toNat, t2 := c.uplStamp n.val stamp, corr := signed 64 m.corr.toNat }) ∧
        (∀ cl, c.coreOpen = true → c.cellsFor n.val (cellsOf (k - 4)) (c.uplPreclass n.val (f.take (k - 4))) = some cl →
          Ends (rx false) s fun d => c.Counts d UPLINK.RX_FRAMES_COUNT n.val ∧
            d.fld64 UPLINK.RX_OCTETS_LO_COUNT UPLINK.RX_OCTETS_HI_COUNT n.val =
              (c.fld64 UPLINK.RX_OCTETS_LO_COUNT UPLINK.RX_OCTETS_HI_COUNT n.val + k) % 2 ^ 64 ∧
            d.buffer.nextId = c.buffer.nextId + 1))) ∧
    (c.lineOpen n.val = true → noFec → c.on UPLINK.MERGE_CFG_EN n.val = false → ∀ m, SetsRegs (mp m) s [UPLINK.RX_SMD_ERR_COUNT.key n.val 0] fun d =>
      c.Counts d UPLINK.RX_SMD_ERR_COUNT n.val) ∧
    (c.lineOpen n.val = true → noFec → c.on UPLINK.MERGE_CFG_EN n.val = true →
      SetsRegs (mp .undefined) s [UPLINK.RX_SMD_ERR_COUNT.key n.val 0] (fun d => c.Counts d UPLINK.RX_SMD_ERR_COUNT n.val) ∧
      Becomes (mp .verify) s (c.setUpl n.val { u with responds := u.responds + 1 }) [] (fun _ => True) ∧
      (c.fld UPLINK.MERGE_STATUS_VERIFY_STATE n.val = 2 → 1 ≤ c.fld UPLINK.MERGE_STATUS_ATTEMPTS n.val → Ends (mp .respond) s fun d =>
        d.fld UPLINK.MERGE_STATUS_VERIFY_STATE n.val = 3 ∧ d.fld UPLINK.MERGE_STATUS_ACTIVE n.val = 1 ∧ c.Tells d EV.UPLINK_VERIFY_DONE n.val) ∧
      (u.reasm = none → Becomes (mp (.start stamp f .mcrcOk)) s
        (c.setUpl n.val { u with reasm := some { bytes := f, nextCount := 0, stamp := c.uplStamp n.val stamp, err := pcs } }) [] fun _ => True) ∧
      (∀ count tail, u.reasm = none → SetsRegs (mp (.cont count f tail)) s [UPLINK.RX_ASSY_ERR_COUNT.key n.val 0, EV.UPLINK_REASM_ERROR.key n.val]
        fun d => c.Counts d UPLINK.RX_ASSY_ERR_COUNT n.val ∧ c.Tells d EV.UPLINK_REASM_ERROR n.val) ∧
      (∀ count tail r, u.reasm = some r → r.nextCount ≠ count.val → Becomes (mp (.cont count f tail)) s (c.setUpl n.val { u with reasm := none })
        [UPLINK.RX_ASSY_ERR_COUNT.key n.val 0, UPLINK.RX_FRAG_COUNT_ERR_COUNT.key n.val 0, EV.UPLINK_REASM_ERROR.key n.val]
        fun d => c.Counts d UPLINK.RX_FRAG_COUNT_ERR_COUNT n.val ∧ c.Counts d UPLINK.RX_ASSY_ERR_COUNT n.val)) ∧
    (∀ a b, u.pausePend = some (a, b) → a ≤ c.now → Becomes (.pauseTakeEffect n) s
      (c.setUpl n.val { u with pausePend := none, pauseEnd := b, pausedAcc := 0 }) [UPLINK.PAUSE_STATUS_PAUSED.key n.val 0] fun d =>
        d.on UPLINK.PAUSE_STATUS_PAUSED n.val = decide (a < b)) ∧
    (u.pausePend = none → Idles (.pauseTakeEffect n) s) ∧
    (c.pauseOver n.val = true → Becomes (.pauseExpiry n) s (c.setUpl n.val { u with pausePend := none }) [UPLINK.PAUSE_STATUS_PAUSED.key n.val 0] fun d =>
      d.fld UPLINK.PAUSE_STATUS_PAUSED n.val = 0) ∧
    (c.pauseOver n.val = false → Idles (.pauseExpiry n) s)

/-- What an uplink sends: pause frames at the next boundary, ahead of every queue; respond mPackets; the head that R294 selects, at the
boundary or at its launch time; the frame is counted at its end, pre-empted by R208, or ended by an underrun, which raises its class's
threshold; launch frames expire (R200, R205, R207, R208, R214 to R216, R291). A pause frame counts at its end, as a frame does. In SAFE
only the rest of a frame that has begun is sent (R59). In what order the MAC's own frames go, what pre-emption looks at, and when a pause
frame is due are the model's readings (assumption log, entries 53, 54 and 55); so it is that what is not due changes nothing (entry 2). -/
def Obligations.UplinkSends : Prop :=
  ∀ (s : State) (n : Fin 4) (phi : Fin 2560) (arrived : List Nat) (k : Fin 8), let c := s.chip
    let u := c.upl n.val
    let inst := c.instAt phi
    let idle := c.pauseDue n.val = false ∧ c.refreshDue n.val = false ∧ u.responds = 0 ∧ u.cont = none
    let paused (i : Instr) : Prop := Becomes i s
      (c.setUpl n.val { u with lastPauseTx := c.now, freeAt := inst + (c.octs n.val 84 : Nat),
                               ctrl := some (inst, if Tab.get false c.buffer.xoff n.val then c.fld UPLINK.PAUSE_CFG_TX_QUANTA n.val else 0) })
      [UPLINK.PAUSE_STATUS_XOFF_SENT.key n.val 0] fun d =>
        d.on UPLINK.PAUSE_STATUS_XOFF_SENT n.val = Tab.get false c.buffer.xoff n.val
    let starts (i : Instr) (t : Int) : Prop := c.boundary n.val t = true → idle →
      let e := ((List.range 8).foldl (fun d j => d.ltExpire n.val j (d.tooLate n.val t)) c).countNofit n.val t arrived
      ∀ pk j, e.selectHead n.val t arrived false = some (pk, j) → e.hankStale pk = false → Ends i s fun d =>
        d.queue n.val j = (e.queue n.val j).tail ∧
        ∃ x, (d.upl n.val).cur = some x ∧ x.pkt.id = pk.id ∧ x.cls = j ∧ x.start = t ∧ x.total = max pk.bytes.length 60
    (c.boundary n.val inst = true → c.pauseDue n.val = true → paused (.pauseFrameTx n phi) ∧ paused (.txSelect n phi arrived)) ∧
    (c.boundary n.val inst = true → c.refreshDue n.val = true → paused (.pauseRefresh n phi)) ∧
    ((c.boundary n.val inst = false ∨ c.pauseDue n.val = false) → Idles (.pauseFrameTx n phi) s) ∧
    ((c.boundary n.val inst = false ∨ c.refreshDue n.val = false) → Idles (.pauseRefresh n phi) s) ∧
    (c.boundary n.val inst = false → c.mode ≠ mSAFE → Idles (.txSelect n phi arrived) s) ∧
    (c.boundary n.val inst = true → c.pauseDue n.val = false → c.refreshDue n.val = false → u.responds ≠ 0 →
      c.on UPLINK.CFG_LOOPBACK n.val = false → Becomes (.txSelect n phi arrived) s
        ((c.setUpl n.val { u with responds := u.responds - 1 }).setUpl n.val
          { u with responds := u.responds - 1, freeAt := inst + (c.octs n.val 84 : Nat) }) [] fun _ => True) ∧
    (∀ t, c.mode = mSAFE → c.ulUp n.val = true → u.cur = none → u.ctrl = none → u.freeAt ≤ inst → u.cont = some t →
      Becomes (.txSelect n phi arrived) s (c.setUpl n.val { u with cur := some { t with start := inst }, cont := none }) [] fun _ => True) ∧
    (∀ st q, u.cur = none → u.ctrl = some (st, q) → st + (c.octs n.val 72 : Nat) < c.tickEnd → Ends (.uplinkFrameTxEnd n) s fun d =>
      (d.upl n.val).ctrl = none ∧ c.Counts d UPLINK.TX_PAUSE_COUNT n.val ∧ c.Counts d UPLINK.TX_FRAMES_COUNT n.val) ∧
    starts (.txSelect n phi arrived) inst ∧
    (∀ t, c.launchNow n.val k.val = some t → starts (.launchTimeReached n k arrived) t) ∧
    (c.launchNow n.val k.val = none → Idles (.launchTimeReached n k arrived) s) ∧
    (∀ t, u.cur = some t →
      (let m := c.fragData n.val t inst;
        c.ulUp n.val = true → c.mode ∈ [mACQUIRE, mRUN, mHOLDOVER] → c.on UPLINK.MERGE_STATUS_ACTIVE n.val = true → t.preempt = true → t.start ≤ inst → c.minFrag n.val - 4 ≤ m → t.done + m + 60 ≤ t.total →
        c.preemptWanted n.val t inst arrived = true → Becomes (.preemption n phi arrived) s
          (c.setUpl n.val { u with cur := none, cont := some { t with done := t.done + m },
                                   freeAt := t.start + (c.octs n.val (8 + m + 4 + 12) : Nat) })
          [UPLINK.TX_PREEMPTS_COUNT.key n.val 0] fun d => c.Counts d UPLINK.TX_PREEMPTS_COUNT n.val) ∧
      ((t.preempt = false ∨ c.on UPLINK.MERGE_STATUS_ACTIVE n.val = false ∨ c.mode = mSAFE) → Idles (.preemption n phi arrived) s) ∧
      (c.txEndAt n.val t < c.tickEnd → Ends (.uplinkFrameTxEnd n) s fun d => (d.upl n.val).cur = none ∧
        (d.upl n.val).freeAt = c.txEndAt n.val t + (c.octs n.val 12 : Nat) ∧ c.Counts d UPLINK.TX_FRAMES_COUNT n.val) ∧
      (t.early = true → t.start ≤ inst → inst < c.txEndAt n.val t → t.cls < 8 → Ends (.txUnderrun n phi) s fun d => (d.upl n.val).cur = none ∧
        c.Counts d UPLINK.TX_UNDERRUN_COUNT n.val ∧ c.Tells d EV.UPLINK_TX_UNDERRUN n.val ∧
        (c.fld UPLINK.TX_START_THRESH_BLOCKS n.val t.cls < 38 →
          d.fld UPLINK.TX_START_THRESH_BLOCKS n.val t.cls = c.fld UPLINK.TX_START_THRESH_BLOCKS n.val t.cls + 1)) ∧
      (t.early = false → Idles (.txUnderrun n phi) s)) ∧
    (u.cur = none → (u.ctrl = none → Idles (.uplinkFrameTxEnd n) s) ∧ Idles (.txUnderrun n phi) s) ∧
    (∀ pk l, c.running = true → c.ltQueue n.val k.val = true → c.queue n.val k.val = [pk] → pk.launch = some l →
      l + (c.fld REELGATE.LATE_TOL_NS n.val * nsQ : Nat) < c.net → Ends (.launchExpire n k) s fun d => d.queue n.val k.val = [] ∧
        c.Counts d REELGATE.LT_EXPIRED_COUNT n.val ∧ c.Tells d (evLtExpired n.val)) ∧
    (c.running = false → Idles (.launchExpire n k) s)

/-! ### The Carder (chapters 01 and 07) -/

/-- Dispatch: once the tables are cleared, lane 11 serves its recirculation queue and then the express FIFOs, and the general dispatcher
the other lanes in turn, the host port of both no faster than its rate; a pass that a lane accepts ends six clocks later, and the fixed Hank
entry counts when the lane accepts it (R32, R36, R70, R225 to R230, R254, R306). The order within a dispatch and when a lane in LIGHT is
woken are the model's choices (assumption log, entries 56 and 38); so it is that a dispatch which is not due changes nothing (entry 2). -/
def Obligations.LanesTakePasses : Prop :=
  ∀ (s : State) (p : Packet) (r : List Packet), let c := s.chip
    let runs := c.dom .core = domON ∧ c.fld CARDER.BANK_STATUS_INIT_DONE = 1 ∧ c.mode ≠ mSAFE
    let bank := c.fld CARDER.BANK_STATUS_EPOCH % 2
    let l := c.carder.lane
    let first (q : Packet) : Packet := { q with bank := bank, pass := 0, recircTag := 0, cls := q.preclass, out := 0xFF, ctx := 0 }
    let begun (d : Chip) (lane : Nat) (q : Packet) : Prop :=
      d.carder.passes = c.carder.passes ++ [{ pkt := q, lane := lane, stop := c.aon + 6, clk := if lane = 11 then 0 else c.clkNow }] ∧
      (hankFixed q = true → c.Counts d CARDER.HANK_FIXED_COUNT) ∧
      Tab.get 0 d.carder.laneFree lane = c.aon + 1 ∧ d.fld CARDER.PASSES_COUNT = (c.fld CARDER.PASSES_COUNT + 1) % 2 ^ 32
    let ready (lane : Nat) : Prop := Tab.get 0 c.carder.laneFree lane ≤ c.aon
    (c.dom .core = domON → c.fld CARDER.BANK_STATUS_INIT_DONE = 0 →
      Becomes .carderInitDone s { c with carder := { c.carder with exact := [], tern := [], action := [], hits := [], nodes := [],
                                                                   profiles := [], portDef := [] } }
        [CARDER.BANK_STATUS_INIT_DONE.key 0 0] fun d => d.fld CARDER.BANK_STATUS_INIT_DONE = 1) ∧
    ((c.dom .core ≠ domON ∨ c.fld CARDER.BANK_STATUS_INIT_DONE ≠ 0) → Idles .carderInitDone s) ∧
    (runs → ready 11 → c.carder.recirc11 = p :: r → Ends .lane11Dispatch s fun d => begun d 11 p ∧ d.carder.recirc11 = r) ∧
    (∀ port ps, runs → ready 11 → c.carder.recirc11 = [] → rrPorts c.buffer.express c.carder.lastX = port :: ps →
      Tab.get [] c.buffer.express port = p :: r → Ends .lane11Dispatch s fun d => begun d 11 (first p) ∧
        Tab.get [] d.buffer.express port = r ∧ d.carder.lastX = port ∧ c.Counts d (inflightRow bank) ∧
        (port = portHost → d.carder.hostNext = max c.carder.hostNext (12 * c.aon) + 125) ∧
        (160 * nsQ < c.now - p.since → c.Counts d REEL.C7_DISPATCH_LATE_COUNT ∧ c.Tells d EV.REEL_C7_DISPATCH_LATE)) ∧
    ((¬ runs ∨ ¬ ready 11 ∨ (c.carder.recirc11 = [] ∧ c.buffer.express = [])) → c.fld CARDER.BANK_STATUS_INIT_DONE ≤ 1 →
      Idles .lane11Dispatch s) ∧
    (runs → c.throttled = false → ready l → c.carder.recirc = p :: r → Tab.get false c.modes.laneLight l = false →
      Ends .generalDispatch s fun d => begun d l p ∧ d.carder.recirc = r ∧ d.carder.lane = (l + 1) % 11) ∧
    (runs → c.throttled = false → ready l → c.carder.recirc = p :: r → Tab.get false c.modes.laneLight l = true →
      Ends .generalDispatch s fun d => d.carder.passes = c.carder.passes ∧ d.carder.recirc = c.carder.recirc ∧
        Tab.get false d.modes.laneLight l = false ∧ Tab.get 0 d.carder.laneFree l = c.aon + 5 ∧
        Tab.get 0 d.modes.laneWake l = c.aon + 5 ∧ d.raised EV.POWER_WAKE_DONE = c.raised EV.POWER_WAKE_DONE) ∧
    (∀ port, let e := c.countStalls
      runs → c.throttled = false → ready l → c.carder.recirc = [] → Tab.get false c.modes.laneLight l = false →
      (rrPorts e.buffer.general c.carder.lastG).find? e.servable = some port → Tab.get [] e.buffer.general port = p :: r →
      Ends .generalDispatch s fun d => begun d l (first p) ∧ Tab.get [] d.buffer.general port = r ∧
        d.carder.lane = (l + 1) % 11 ∧ d.carder.lastG = port ∧ d.window port = c.window port ++ [{ id := p.id }] ∧
        (port = portHost → d.carder.hostNext = max c.carder.hostNext (12 * c.aon) + 125) ∧
        c.Counts d (inflightRow bank)) ∧
    ((¬ runs ∨ c.throttled = true ∨ ¬ ready l ∨ (c.carder.recirc = [] ∧ c.buffer.general = [])) →
      c.fld CARDER.BANK_STATUS_INIT_DONE ≤ 1 → Idles .generalDispatch s)

/-- A pass whose time has come ends with its verdict: the fixed Hank entry; a drop for a length mismatch, a miss, an invalid action or
the DROP action, counted, with no output; a mirror copy, a trap to the host, recirculation once and a drop the second time; or the
output, with the class and the frame as edited (R229, R237, R244 to R252). The packet leaves its bank when its passes end, and the tag of
a dropped or trapped one is released (R32, R33, R255). The reorder stage releases, in order, every packet before the first whose passes
have not ended (R32). The edits change the frame as R248 and R249 say. A packet whose pass reads an uncorrectable word is dropped, and a
hit counter that reads so becomes 0 (R253, R419). What releases a tag, which pass ends first, in what order a dispatcher serves, which
words a pass reads, and which word of several drops the packet are the model's choices (assumption log, entries 57, 56, 92 and 84); so it
is that what is not due changes nothing (entry 2). -/
def Obligations.PassesEndWithAVerdict : Prop :=
  (∀ (s : State) (a : Pass) (ingress : BitVec 8), let c := s.chip;
    let p := a.pkt;
    let port := ingress.toNat;
    let due := c.dom .core = domON ∧ firstPass c.carder.passes = some a ∧ a.stop ≤ c.aon;
    let ps := c.parse p;
    let flags := (if ps.depth then 1 else 0) + (if ps.lenMis then 2 else 0) + (if ps.frag then 4 else 0);
    let pk := { p with keyFlags := flags };
    let look := c.lookup p.bank p.ingress ps.profile (ps.octets pk);
    let free := p.preclass ≠ 7 ∧ p.tag = none ∧ p.hank = none ∧ Tab.get [] c.carder.copies p.id = [];
    let left (d : Chip) : Prop := d.carder.passes = c.carder.passes.erase a ∧
      d.fld (inflightRow p.bank) = (c.fld (inflightRow p.bank) - 1) % 2 ^ 16;
    let gone (d : Chip) : Prop := left d ∧ (free → d.window p.ingress = (c.window p.ingress).filter fun t => t.id != p.id);
    let place (freed : Bool) (q : Packet) (d : Chip) : Prop := left d ∧ (free → d.window p.ingress = (c.window p.ingress).map fun t =>
      if t.id = p.id then { t with ended := true, freed := freed, out := [q] } else t);
    let lenErr := ps.lenMis = true ∧ (c.portDefW p.bank p.ingress).testBit 9 = false;
    let bads := c.ecc.bad.filter fun b => c.passReads pk ps b.word && b.two;
    let judged := hankFixed p = false ∧ ¬ lenErr ∧ bads = [];
    (due → hankFixed p = true → bads = [] → p.reason = 0 → Ends .passEnd s fun d => place false { p with out := portHank, ctx := 0 } d ∧
      d.fld CARDER.HANK_FIXED_COUNT = c.fld CARDER.HANK_FIXED_COUNT) ∧
    (due → hankFixed p = false → lenErr → bads = [] → Ends .passEnd s fun d =>
      c.Counts d CARDER.LENERR_DROP_COUNT ∧ c.Counts d CARDER.LEN_MISMATCH_COUNT ∧ c.Tells d EV.CARDER_LENERR_DROP ∧ gone d) ∧
    (∀ b r, due → bads = b :: r → Ends .passEnd s fun d => gone d ∧ (b.word ≠ .frame p.id → c.Counts d CARDER.ECC_DROP_COUNT) ∧
      (b.told ≠ some p.id → c.Tells d EV.GLOBAL_ECC_UNCORR)) ∧
    (due → judged → look = .missDrop → Ends .passEnd s fun d =>
      c.Counts d CARDER.MISS_DROP_COUNT ∧ c.Tells d EV.CARDER_MISS_DROP ∧ gone d) ∧
    (∀ miss, due → judged → look = .invalid miss → Ends .passEnd s fun d =>
      c.Counts d CARDER.ACTION_INVALID_COUNT ∧ (miss = true → c.Counts d CARDER.MISS_DEFAULT_COUNT) ∧
      c.Tells d EV.CARDER_ACTION_INVALID ∧ gone d) ∧
    (∀ k miss, due → judged → look = .action k miss → let w := c.actionW k
      let w0 := w 0
      let ed := editAll p.bytes ps.hov [(bitsOf (w 2) 15 0, w 3), (bitsOf (w 2) 31 16, w 4), (bitsOf (w 5) 15 0, w 6)]
      let frame := ed.1 ++ List.replicate (60 - ed.1.length) 0
      let edited := ed.1.length ≤ 9600 ∧ cellsOf frame.length ≤ p.cells.shared + p.cells.c7 + p.cells.head
      let skips (d : Chip) : Prop := 0 < ed.2 → c.Counts d CARDER.EDIT_SKIPPED_COUNT 0 ed.2 ∧ c.Tells d EV.CARDER_EDIT_ERROR
      let cls := if w0.testBit 4 then bitsOf w0 10 8 else p.cls
      let out := if w0.testBit 5 then bitsOf w0 23 16 else p.out
      let noCtx := p.ctx = 0 ∧ w0.testBit 6 = false
      let mport := bitsOf w0 31 24
      (w0.testBit 0 = true → w0.testBit 3 = false → Ends .passEnd s fun d => c.Counts d CARDER.DROP_ACTION_COUNT ∧ gone d ∧
        let hitBad := ∃ b ∈ c.ecc.bad, b.two = true ∧ b.word = .cell .hits k
        (¬ hitBad → Tab.get 0 d.carder.hits k = (Tab.get 0 c.carder.hits k + 1) % 2 ^ 64) ∧
        (hitBad → Tab.get 0 d.carder.hits k = 1)) ∧
      (bitsOf w0 3 0 = 9 → portDefined mport = false → Ends .passEnd s fun d => c.Counts d CARDER.INVALID_OUTPUT_COUNT ∧
        c.Tells d EV.CARDER_INVALID_OUTPUT ∧ c.Counts d CARDER.DROP_ACTION_COUNT ∧ gone d) ∧
      (bitsOf w0 3 0 = 9 → portDefined mport = true → c.cellsFor p.ingress (cellsOf p.bytes.length) p.preclass = none →
        Ends .passEnd s fun d => c.Counts d CARDER.MIRROR_DROP_COUNT ∧ c.Tells d EV.CARDER_MIRROR_DROP ∧ gone d) ∧
      (∀ cl, bitsOf w0 3 0 = 9 → portDefined mport = true → c.cellsFor p.ingress (cellsOf p.bytes.length) p.preclass = some cl →
        Ends .passEnd s fun d => c.Counts d CARDER.MIRRORS_COUNT ∧ d.buffer.nextId = c.buffer.nextId + 1 ∧ ∃ q, place true q d ∧
          q.id = c.buffer.nextId ∧ q.bytes = p.bytes ∧ q.out = mport ∧ q.mirror = true ∧ q.ctx = 0) ∧
      (w0.testBit 0 = false → w0.testBit 3 = false → 9600 < ed.1.length → Ends .passEnd s fun d =>
        c.Counts d CARDER.EDIT_OVERSIZE_COUNT ∧ c.Tells d EV.CARDER_EDIT_ERROR ∧ gone d) ∧
      (bitsOf w0 3 0 = 0 → edited → portDefined out = false → Ends .passEnd s fun d => skips d ∧
        c.Counts d CARDER.INVALID_OUTPUT_COUNT ∧ c.Tells d EV.CARDER_INVALID_OUTPUT ∧ gone d) ∧
      (bitsOf w0 3 0 = 0 → edited → noCtx → portDefined out = true → (p.reason = 0 ∨ w0.testBit 5 = true) → Ends .passEnd s fun d => skips d ∧
        (cls ≠ p.preclass → c.Counts d CARDER.LANE_MISMATCH_COUNT ∧ c.Tells d EV.CARDER_LANE_MISMATCH) ∧
        ∃ q, place false q d ∧ q.id = p.id ∧ q.bytes = frame ∧ q.out = out ∧ q.cls = cls) ∧
      (bitsOf w0 3 0 % 4 = 2 → bitsOf w0 3 0 < 8 → edited → noCtx → Ends .passEnd s fun d => skips d ∧ c.Counts d CARDER.TRAPS_COUNT ∧
        gone d ∧ (free → ∃ q, d.reel.incoming = c.reel.incoming ++ [q] ∧ q.id = p.id ∧ q.bytes = frame ∧ q.out = portHost ∧
          q.reason = (let r := bitsOf (w 1) 31 24; if r = 0 ∨ r = 0xFE then 0xFF else r))) ∧
      (bitsOf w0 3 0 = 4 → edited → p.pass = 0 → p.preclass ≠ 7 → Ends .passEnd s fun d => skips d ∧ c.Counts d CARDER.RECIRCS_COUNT ∧
        d.carder.passes = c.carder.passes.erase a ∧ ∃ q, d.carder.recirc = c.carder.recirc ++ [q] ∧ q.id = p.id ∧ q.bytes = frame ∧
          q.pass = 1 ∧ q.recircTag = bitsOf w0 15 12) ∧
      (bitsOf w0 3 0 = 4 → edited → p.pass ≠ 0 → Ends .passEnd s fun d => skips d ∧ c.Counts d CARDER.RECIRC_LIMIT_COUNT ∧
        c.Tells d EV.CARDER_RECIRC_LIMIT ∧ gone d)) ∧
    ((c.dom .core ≠ domON ∨ c.carder.passes = []) → Idles .passEnd s) ∧
    (c.dom .core = domON → (∀ t ∈ c.window port, ∀ q ∈ t.out, q.tag = none ∧ q.hank = none) → Ends (.reorderRelease ingress) s fun d =>
      let out := ((c.window port).takeWhile (·.ended)).flatMap (·.out)
      d.window port = (c.window port).dropWhile (·.ended) ∧ (∀ q, q ≠ port → d.window q = c.window q) ∧
      d.reel.incoming = c.reel.incoming ++ out.filter (fun q => q.out ≠ portHank) ∧
      d.hankIn = c.hankIn ++ out.filter (fun q => q.out = portHank)) ∧
    (c.dom .core ≠ domON → Idles (.reorderRelease ingress) s)) ∧
  (∀ (f : List Byte) (hov : Tab (Option Nat)) (ctl data h : Nat), let hdr := bitsOf ctl 5 2;
    let len := bitsOf ctl 15 12;
    let lim := min f.length 256;
    let at_ := h + bitsOf ctl 11 6;
    let octet (j : Nat) : Byte := BitVec.ofNat 8 (data >>> (8 * (3 - j)));
    let becomes (size : Nat) (g : Nat → Byte) (e : Nat → Nat → Nat) : Prop := ∃ f' hov', editOnce f hov ctl data = some (f', hov') ∧
      f'.length = size ∧ (∀ i, i < size → f'.getD i 0 = g i) ∧
      ∀ x v, Tab.wf none hov = true → Tab.get none hov x = some v → Tab.get none hov' x =
        if bitsOf ctl 1 0 = 3 ∧ x ≠ hdr ∧ at_ ≤ v ∧ v < at_ + 2 * len then none else some (e x v);
    (Tab.get none hov hdr = none → editOnce f hov ctl data = none) ∧
    (Tab.get none hov hdr = some h →
      (bitsOf ctl 1 0 = 1 → (len = 0 ∨ 4 < len ∨ lim < at_ + len) → editOnce f hov ctl data = none) ∧
      (bitsOf ctl 1 0 = 1 → 1 ≤ len → len ≤ 4 → at_ + len ≤ lim →
        becomes f.length (fun i => if at_ ≤ i ∧ i < at_ + len then octet (i - at_) else f.getD i 0) fun _ v => v) ∧
      (bitsOf ctl 1 0 = 2 → (len = 0 ∨ 4 < len ∨ lim < at_) → editOnce f hov ctl data = none) ∧
      (bitsOf ctl 1 0 = 2 → 1 ≤ len → len ≤ 4 → at_ ≤ lim →
        becomes (f.length + len) (fun i => if i < at_ then f.getD i 0 else if i < at_ + len then octet (i - at_) else f.getD (i - len) 0)
          fun x v => if at_ < v ∨ (v = at_ ∧ x ≠ hdr) then v + len else v) ∧
      (bitsOf ctl 1 0 = 3 → (len = 0 ∨ lim < at_ + 2 * len) → editOnce f hov ctl data = none) ∧
      (bitsOf ctl 1 0 = 3 → 1 ≤ len → at_ + 2 * len ≤ lim →
        becomes (f.length - 2 * len) (fun i => if i < at_ then f.getD i 0 else f.getD (i + 2 * len) 0)
          fun _ v => if at_ + 2 * len ≤ v then v - 2 * len else v)))

/-- BANK_CMD switches the banks, or is refused for the first of its four causes; a draining bank becomes free when it holds no packet
(R255, R256). A write of an entry word, or of a node, profile or port default word, is judged by Table 07.9: an accepted word reads back
by its assigned bits, and a refused one changes only ENTRY_STATUS, PAGE_ERRCNT and WRITE_REFUSED (R257 to R260, R265). What is not due changes nothing (assumption log,
entry 2). -/
def Obligations.RuleTables : Prop :=
  (∀ (s : State) (p : Port) (v : Word), let c := s.chip;
    let page := PageCls.carder.base;
    let epoch := c.fld CARDER.BANK_STATUS_EPOCH;
    let key := bitsOf v.toNat 31 24 = 0xCB;
    let init := c.fld CARDER.BANK_STATUS_INIT_DONE ≠ 0;
    let fits := bitsOf v.toNat 15 0 = epoch;
    let free := c.fld CARDER.BANK_STATUS_BANK_FREE ≠ 0;
    let refused (cause : Nat) : Prop := SetsRegs (.bankSwitch p v) s
      (CARDER.BANK_STATUS_LAST_REFUSE.key 0 0 :: EV.CARDER_WRITE_REFUSED.key 0 :: errKeys page) fun d =>
        d.fld CARDER.BANK_STATUS_LAST_REFUSE = cause ∧ c.Counted d page CARDER.BANK_CMD_SWITCH.off p ∧ c.Tells d EV.CARDER_WRITE_REFUSED;
    (c.Open p .carder 0 → v.toNat.testBit 16 = true →
      (¬ key → refused 1) ∧ (key → ¬ init → refused 4) ∧ (key → init → ¬ fits → refused 2) ∧ (key → init → fits → ¬ free → refused 3) ∧
      (key → init → fits → free → SetsRegs (.bankSwitch p v) s
        [CARDER.BANK_STATUS_EPOCH.key 0 0, CARDER.BANK_STATUS_ACTIVE.key 0 0, CARDER.BANK_STATUS_BANK_FREE.key 0 0,
         CARDER.BANK_SWITCHES_COUNT.key 0 0, EV.CARDER_BANK_SWITCHED.key 0] fun d =>
          d.fld CARDER.BANK_STATUS_EPOCH = (epoch + 1) % 65536 ∧ d.fld CARDER.BANK_STATUS_ACTIVE = (epoch + 1) % 2 ∧
          d.fld CARDER.BANK_STATUS_BANK_FREE = (if c.fld (inflightRow (epoch % 2)) = 0 then 1 else 0) ∧
          c.Counts d CARDER.BANK_SWITCHES_COUNT ∧ c.Tells d EV.CARDER_BANK_SWITCHED)) ∧
    (c.Open p .carder 0 → v.toNat.testBit 16 = false → Idles (.bankSwitch p v) s) ∧
    (¬ free → c.fld (inflightRow (1 - epoch % 2)) = 0 →
      SetsRegs .bankFree s [CARDER.BANK_STATUS_BANK_FREE.key 0 0, EV.CARDER_BANK_FREE.key 0] fun d =>
        d.fld CARDER.BANK_STATUS_BANK_FREE = 1 ∧ c.Tells d EV.CARDER_BANK_FREE) ∧
    ((free ∨ c.fld (inflightRow (1 - epoch % 2)) ≠ 0) → Idles .bankFree s)) ∧
  (∀ (s : State) (p : Port) (w : Fin 32) (reg : Fin 1024) (v : Word), let c := s.chip;
    let init := c.fld CARDER.BANK_STATUS_INIT_DONE ≠ 0;
    let active := c.fld CARDER.BANK_STATUS_EPOCH % 2;
    let free := c.fld CARDER.BANK_STATUS_BANK_FREE ≠ 0;
    let i := c.fld RULEWIN.ENTRY_SEL_INDEX;
    let refused (ins : Instr) (page off cause : Nat) : Prop := SetsRegs ins s
      (RULEWIN.ENTRY_STATUS_LAST_REFUSED.key 0 0 :: RULEWIN.ENTRY_STATUS_LAST_CAUSE.key 0 0 :: EV.CARDER_WRITE_REFUSED.key 0 :: errKeys page)
      fun d => d.fld RULEWIN.ENTRY_STATUS_LAST_REFUSED = 1 ∧ d.fld RULEWIN.ENTRY_STATUS_LAST_CAUSE = cause ∧ c.Counted d page off p ∧
        c.Tells d EV.CARDER_WRITE_REFUSED;
    let taken (ins : Instr) (t : Tbl) (b k x : Nat) : Prop := Ends ins s fun d => d.tblW t b k x = v.toNat &&& t.mask k x ∧
      d.fld RULEWIN.ENTRY_STATUS_LAST_REFUSED = 0 ∧ c.KeepsCells d [RULEWIN.ENTRY_STATUS_LAST_REFUSED.key 0 0] ∧
      (∀ t' b' k' x', (t' ≠ t ∨ b' ≠ b ∨ k' ≠ k ∨ x' ≠ x) → x' < t'.words → x < t.words → b' < 2 → k < t.entries →
        (t ∈ [.exact, .tern, .action] → t' = t → b' = b) → k' < t'.entries → d.tblW t' b' k' x' = c.tblW t' b' k' x');
    let rule (cause : Nat) : Prop := refused (.ruleEntryWrite p w v) PageCls.rulewin.base (0x080 + 4 * w.val) cause;
    let old := c.exactW i 7;
    let memberOf (last b : Nat) : Prop := last.testBit 0 = true ∧ last.testBit (1 + b) = true;
    (c.Open p .rulewin 0 →
      (¬ init → rule 1) ∧ (init → c.fld RULEWIN.ENTRY_SEL_TABLE = 3 → rule 2) ∧
      (∀ t, init → c.selTable = some t → (t.entries ≤ i ∨ t.words ≤ w.val) → rule 2) ∧
      (init → c.fld RULEWIN.ENTRY_SEL_TABLE = 0 → i < 131072 → w.val < 7 →
        ((memberOf old active ∨ (¬ free ∧ memberOf old (1 - active))) → rule 3) ∧
        (¬ memberOf old active → (free ∨ ¬ memberOf old (1 - active)) → taken (.ruleEntryWrite p w v) .exact 0 i w.val)) ∧
      (init → c.fld RULEWIN.ENTRY_SEL_TABLE = 0 → i < 131072 → w.val = 7 →
        (free → taken (.ruleEntryWrite p w v) .exact 0 i 7) ∧
        (¬ free → (memberOf old (1 - active) ↔ memberOf v.toNat (1 - active)) → taken (.ruleEntryWrite p w v) .exact 0 i 7) ∧
        (¬ free → ¬ (memberOf old (1 - active) ↔ memberOf v.toNat (1 - active)) → rule 4)) ∧
      (∀ t, init → c.selTable = some t → c.writeCause t 0 i w.val v.toNat ≠ 0 → rule (c.writeCause t 0 i w.val v.toNat)) ∧
      (∀ t, init → c.selTable = some t → c.writeCause t 0 i w.val v.toNat = 0 → taken (.ruleEntryWrite p w v) t 0 i w.val)) ∧
    (c.Open p .bankwin 0 → c.bankAt (4 * reg.val) = none → Idles (.bankWindowWrite p reg v) s) ∧
    (∀ t k x, c.Open p .bankwin 0 → c.bankAt (4 * reg.val) = some (t, k, x) → k < t.entries →
      let b := c.fld BANKWIN.BANK_SEL_BANK;
      let bank (cause : Nat) : Prop := refused (.bankWindowWrite p reg v) PageCls.bankwin.base (4 * reg.val) cause;
      (¬ init → bank 1) ∧ (init → (b = active ∨ ¬ free) → bank 5) ∧
      (init → b ≠ active → free → taken (.bankWindowWrite p reg v) t b k x)))

/-- A rule bulk load: GO asks for leave with the record count it read, a GO that cannot start is counted, each record is carried out
word by word or refused whole, the last one ends the load, and ABORT or a failed read ends it at once (R261 to R263). That the count is
latched at GO, where a refused word counts, and that ABORT acts at once are the model's choices (assumption log, entry 58); so it is that
what is not due changes nothing (entry 2). -/
def Obligations.RuleBulkLoad : Prop :=
  ∀ (s : State) (p : Port) (v : Word) (rec : List Word), let c := s.chip
    let st := c.fld CARDER.BULK_STATUS_STATE
    let busy := st = 1 ∨ st = 2
    let given (d : Chip) : Prop := d.leaveHeld .ruleLoad = false ∧ d.leaveWaiting .ruleLoad = false
    let lift := rec.map (·.toNat)
    let run := Instr.carderBulkRecord (some rec)
    let going := st = 2 ∧ c.throttled = false
    (c.Open p .carder 0 → v.toNat % 4 = 1 →
      ((c.fld CARDER.BANK_STATUS_INIT_DONE = 0 ∨ busy) → SetsRegs (.carderBulkGo p v) s (errKeys PageCls.carder.base) fun d =>
        c.Counted d PageCls.carder.base CARDER.BULK_CMD_GO.off p) ∧
      (c.fld CARDER.BANK_STATUS_INIT_DONE ≠ 0 → ¬ busy → Ends (.carderBulkGo p v) s fun d =>
        d.carder.bulkLeft = c.fld CARDER.BULK_COUNT_RECORDS ∧ d.fld CARDER.BULK_STATUS_DONE = 0 ∧
        (c.leaveAnswer .ruleLoad = .refused → d.fld CARDER.BULK_STATUS_STATE = 6 ∧ d.power.waiting = c.power.waiting ∧
          c.Tells d EV.CARDER_BULK_ERROR ∧ c.Tells d EV.POWER_LEAVE_IMPOSSIBLE) ∧
        (c.leaveAnswer .ruleLoad = .queued → d.fld CARDER.BULK_STATUS_STATE = 1 ∧ d.leaveWaiting .ruleLoad = true))) ∧
    (c.Open p .carder 0 → v.toNat % 4 = 2 →
      (busy → Ends (.carderBulkAbort p v) s fun d => d.fld CARDER.BULK_STATUS_STATE = 5 ∧ given d ∧ d.carder = c.carder) ∧
      (¬ busy → Idles (.carderBulkAbort p v) s)) ∧
    (going → Ends (.carderBulkRecord none) s fun d => d.fld CARDER.BULK_STATUS_STATE = 4 ∧ given d ∧ c.Tells d EV.CARDER_BULK_ERROR ∧
      d.carder = c.carder) ∧
    (going → Ends run s fun d => d.carder.bulkLeft = c.carder.bulkLeft - 1 ∧
      d.fld CARDER.BULK_STATUS_DONE = (c.fld CARDER.BULK_STATUS_DONE + 1) % 2 ^ 24 ∧
      (c.carder.bulkLeft ≤ 1 → d.fld CARDER.BULK_STATUS_STATE = 3 ∧ given d ∧ c.Tells d EV.CARDER_BULK_DONE) ∧
      (1 < c.carder.bulkLeft → d.fld CARDER.BULK_STATUS_STATE = 2 ∧ d.power = c.power)) ∧
    (let table := bitsOf (lift.getD 0 0) 2 0
      let count := bitsOf (lift.getD 1 0) 11 8
      let first := bitsOf (lift.getD 1 0) 5 0
      let i := bitsOf (lift.getD 0 0) 24 8
      (going → (5 < table ∨ count = 0 ∨ 8 < count) → Ends run s fun d => c.Counts d CARDER.BULK_REFUSED_COUNT ∧
        d.carder = { c.carder with bulkLeft := c.carder.bulkLeft - 1 }) ∧
      (going → table = 0 → count = 1 → i < 131072 → first < 8 → c.writeCause .exact 0 i first (lift.getD 2 0) = 0 → Ends run s fun d =>
        d.exactW i first = lift.getD 2 0 &&& Tbl.exact.mask i first ∧
        d.fld CARDER.BULK_REFUSED_COUNT = c.fld CARDER.BULK_REFUSED_COUNT) ∧
      (going → table = 0 → count = 1 → i < 131072 → first < 8 → (c.exactW i 7).testBit 0 = true → (c.exactW i 7).testBit (1 + c.activeBank) = true →
        first < 7 → c.on CARDER.BANK_STATUS_INIT_DONE = true → Ends run s fun d => c.Counts d CARDER.BULK_REFUSED_COUNT ∧
          c.Tells d EV.CARDER_WRITE_REFUSED ∧ d.exactW i first = c.exactW i first ∧
          c.Counted d PageCls.rulewin.base (0x080 + 4 * first) .bar0)) ∧
    (¬ going → Idles run s ∧ Idles (.carderBulkRecord none) s)

/-! ### The Reel and the Ply (chapters 08 and 09) -/

/-- A refill tick counts, and gives every class shaper its credit by its mode (R276, R277, R281); the background sweep brings every
context with a meter or a shaper up to date, SHAPE_BUCKET among its words (R276, R280). That a sweep brings up to date the buckets of a
context whatever of the two it enables, and in one step, is the model's reading (assumption log, entry 61); so it is that what is not due
changes nothing (entry 2). -/
def Obligations.RefillTicks : Prop :=
  ∀ (s : State), let c := s.chip
    (c.dom .core = domON → c.whorl.refillUs < c.net / (usQ : Int) → Ends .refillTick s fun d =>
      d.fld REEL.TICK_COUNT_COUNT = (c.fld REEL.TICK_COUNT_COUNT + 1) % 2 ^ 32 ∧ d.whorl.refillUs = c.whorl.refillUs + 1 ∧
      ∀ n k, n < 4 → k < 8 →
        let m := c.fld REELGATE.SHAPER_CFG_MODE n k
        let cr := c.creditOf n k
        let up := min (cr + (c.fld REELGATE.SHAPER_CFG_RATE n k : Nat)) (c.fld REELGATE.SHAPER_BURST_OCTETS n k * 8000 : Nat)
        (m % 3 ≠ c.shaperMode n k → d.creditOf n k = 0 ∧ d.shaperMode n k = m % 3) ∧
        (m % 3 = c.shaperMode n k → d.shaperMode n k = m % 3 ∧
          (m % 3 = 0 → d.creditOf n k = cr) ∧ (m % 3 = 2 → d.creditOf n k = up) ∧
          (m % 3 = 1 → (c.classWaiting n k = true ∨ cr < 0) → d.creditOf n k = up) ∧
          (m % 3 = 1 → c.classWaiting n k = false → 0 ≤ cr → d.creditOf n k = 0))) ∧
    ((c.dom .core ≠ domON ∨ c.net / (usQ : Int) ≤ c.whorl.refillUs) → Idles .refillTick s) ∧
    (c.dom .core = domON → Ends .contextSweep s fun d => ∀ i,
      let n := (c.fld REEL.TICK_COUNT_COUNT % 2 ^ 24 + 2 ^ 24 - c.ctxF i 7 23 0) % 2 ^ 24
      (c.ctxF i 0 1 0 ≠ 0 → d.ctxF i 7 23 0 = c.fld REEL.TICK_COUNT_COUNT % 2 ^ 24 ∧ d.ctxW i 0 = c.ctxW i 0 ∧
        (n ≠ 0 → d.ctxW i 3 = min (c.ctxW i 3 + n * incOf (c.ctxCir i)) (c.ctxCbs i * 2 ^ 24) ∧
          d.ctxW i 4 = min (c.ctxW i 4 + n * incOf (c.ctxPir i)) (c.ctxPbs i * 2 ^ 24) ∧
          d.ctxBucket i = min (c.ctxBucket i + (n * incOf (c.ctxF i 5 23 0) : Nat)) (max 1 (c.ctxF i 5 30 24) * 2 ^ 24 : Nat)) ∧
        (n = 0 → ∀ w, w < 16 → d.ctxW i w = c.ctxW i w)) ∧
      (c.ctxF i 0 1 0 = 0 → ∀ w, w < 16 → d.ctxW i w = c.ctxW i w)) ∧
    (c.dom .core ≠ domON → Idles .contextSweep s)

/-- CTX_CMD: a WRITE is refused whole for the first of its causes, or writes the words of its mask, leaving the admission and every
other context alone; a READ copies the context, brought up to date, into CTX_DATA; and a command of both carries out the WRITE first
(R274 to R276). The Ply words of a WRITE are refused where the words that result break R316, and HIST keeps HISTLEN bits. While BUSY is set
a write of CTX_CMD is counted and does nothing else; that it is set until the next AON tick is the model's choice (assumption log,
entry 30). -/
def Obligations.ContextCommands : Prop :=
  ∀ (s : State) (p : Port) (v : Word), let c := s.chip
    let i := c.fld REEL.CTX_SEL_INDEX
    let mask := bitsOf v.toNat 31 16
    let data (w : Nat) := c.fld REEL.CTX_DATA_DATA 0 w
    let changes (w : Nat) : Prop := mask.testBit w = true
    let admitted := c.ctxF i 0 9 9 = 1
    let frozen := admitted ∧ ((changes 0 ∧ (bitsOf (data 0) 0 0 ≠ c.ctxF i 0 0 0 ∨ bitsOf (data 0) 31 18 ≠ c.ctxF i 0 31 18)) ∨
      (changes 1 ∧ data 1 ≠ c.ctxW i 1))
    let want (w : Nat) := if mask.testBit w then data w else c.ctxW i w
    let plyOk := bitsOf (want 8) 19 12 ≤ 128 ∧ ((want 8).testBit 2 = true → bitsOf (want 9) 17 0 ≠ 0 ∧ bitsOf (want 9) 17 0 ≠ i) ∧
      replOutOk (bitsOf (want 11) 23 16) = true ∧ replOutOk (bitsOf (want 11) 31 24) = true
    let others (d : Chip) : Prop := ∀ j w, j ≠ i → w < 16 → d.ctxW j w = c.ctxW j w
    let shows (d : Chip) : Prop := ∀ w, w < 16 → d.fld REEL.CTX_DATA_DATA 0 w = d.ctxW i w % 2 ^ 32
    let refused (cause : Nat) : Prop := SetsRegs (.ctxWrite p v) s
      (REEL.CTX_STATUS_BUSY.key 0 0 :: REEL.CTX_STATUS_REFUSED.key 0 0 :: REEL.CTX_STATUS_CAUSE.key 0 0 :: EV.REEL_CTX_REFUSED.key 0 :: errKeys PageCls.reel.base) fun d =>
        d.fld REEL.CTX_STATUS_BUSY = 1 ∧ d.fld REEL.CTX_STATUS_REFUSED = 1 ∧ d.fld REEL.CTX_STATUS_CAUSE = cause ∧
        c.Counted d PageCls.reel.base REEL.CTX_CMD_READ.off p ∧ c.Tells d EV.REEL_CTX_REFUSED
    c.Open p .reel 0 → (∀ w, w < 16 → data w < 2 ^ 32 ∧ c.ctxW i w < 2 ^ 32) →
    (c.fld REEL.CTX_STATUS_BUSY ≠ 0 →
      SetsRegs (.ctxWrite p v) s (errKeys PageCls.reel.base) fun d => c.Counted d PageCls.reel.base REEL.CTX_CMD_READ.off p) ∧
    (c.fld REEL.CTX_STATUS_BUSY = 0 → v.toNat % 4 = 2 →
      (i = 0 → refused 1) ∧ (i ≠ 0 → frozen → refused 2) ∧
      (i ≠ 0 → ¬ frozen → mask < 256 → Ends (.ctxWrite p v) s fun d => d.fld REEL.CTX_STATUS_REFUSED = 0 ∧
        (∀ w, w < 16 → changes w → w ∉ [0, 5, 7] → d.ctxW i w = data w) ∧ (changes 5 → d.ctxW i 5 = data 5 % 2 ^ 31) ∧
        (∀ w, w < 16 → ¬ changes w → w ∉ [3, 4, 6, 7] → d.ctxW i w = c.ctxW i w) ∧
        (changes 0 → d.ctxF i 0 31 18 = bitsOf (data 0) 31 18 ∧ d.ctxF i 0 8 0 = bitsOf (data 0) 8 0) ∧
        d.ctxF i 0 9 9 = c.ctxF i 0 9 9 ∧ d.ctxF i 0 17 10 = c.ctxF i 0 17 10 ∧
        ((changes 3 ∨ changes 4 ∨ changes 6) → d.ctxW i 7 = c.fld REEL.TICK_COUNT_COUNT % 2 ^ 24) ∧
        others d ∧ d.fld REEL.CTX_STATUS_BUSY = 1) ∧
      (i ≠ 0 → ¬ frozen → 256 ≤ mask → plyOk → Ends (.ctxWrite p v) s fun d => d.fld REEL.CTX_STATUS_REFUSED = 0 ∧
        (∀ w, w ∈ [1, 2, 8, 10, 11] → d.ctxW i w = want w) ∧ d.ctxW i 9 = (if mask.testBit 9 then data 9 % 2 ^ 28 else c.ctxW i 9) ∧
        d.hist i = (want 12 + 2 ^ 32 * want 13 + 2 ^ 64 * want 14 + 2 ^ 96 * want 15) % 2 ^ max 1 (min 128 (bitsOf (want 8) 19 12)) ∧
        d.ctxF i 0 9 9 = c.ctxF i 0 9 9 ∧ others d ∧ d.fld REEL.CTX_STATUS_BUSY = 1) ∧
      (i ≠ 0 → ¬ frozen → 256 ≤ mask → ¬ plyOk → refused 3)) ∧
    (c.fld REEL.CTX_STATUS_BUSY = 0 → v.toNat % 4 = 3 →
      (i = 0 → Ends (.ctxWrite p v) s fun d => d.fld REEL.CTX_STATUS_REFUSED = 1 ∧ d.fld REEL.CTX_STATUS_CAUSE = 1 ∧ shows d ∧ others d) ∧
      (i ≠ 0 → frozen → Ends (.ctxWrite p v) s fun d => d.fld REEL.CTX_STATUS_REFUSED = 1 ∧ d.fld REEL.CTX_STATUS_CAUSE = 2 ∧ shows d ∧
        others d ∧ ∀ w, w ∈ [0, 1, 2, 5] → d.ctxW i w = c.ctxW i w) ∧
      (i ≠ 0 → ¬ frozen → (mask < 256 ∨ plyOk) → Ends (.ctxWrite p v) s fun d => d.fld REEL.CTX_STATUS_REFUSED = 0 ∧ shows d ∧ others d ∧
        (∀ w, w ∈ [1, 2, 8, 10, 11] → d.fld REEL.CTX_DATA_DATA 0 w = want w) ∧
        d.ctxF i 7 23 0 = c.fld REEL.TICK_COUNT_COUNT % 2 ^ 24)) ∧
    (c.fld REEL.CTX_STATUS_BUSY = 0 → v.toNat % 4 = 1 → Ends (.ctxRead p v) s fun d =>
      shows d ∧ (∀ w, w < 16 → w ∉ [3, 4, 6, 7] → d.fld REEL.CTX_DATA_DATA 0 w = c.ctxW i w) ∧
      d.ctxF i 7 23 0 = c.fld REEL.TICK_COUNT_COUNT % 2 ^ 24 ∧ others d ∧ d.fld REEL.CTX_STATUS_BUSY = 1)

/-- C7_ADMIT_CMD: an ADD is refused for the first check of Table 08.10 that it fails, or admits its context and no other; a REMOVE
clears the admission. STATE reads BUSY at first, then DONE, or REFUSED with the cause, and its event is raised; a write while BUSY is
counted and does nothing else (R301; that a request is judged in the step of its write, and that BUSY lasts until the next AON tick, are
the model's choices: assumption log, entry 30). -/
def Obligations.Class7Admission : Prop :=
  (∀ (s : State) (cause : Nat), s.pending = [] → s.chip.mode ≠ mRESET → s.chip.reel.admitResult = some cause →
    ∃ t, step s = .next t ∧ t.chip.reel.admitResult = none ∧ t.chip.fld REEL.C7_ADMIT_STATUS_STATE = (if cause = 0 then 2 else 3) ∧
      t.chip.fld REEL.C7_ADMIT_STATUS_CAUSE = cause % 16 ∧
      s.chip.Tells t.chip (if cause = 0 then EV.REEL_C7_ADMIT_DONE else EV.REEL_C7_ADMIT_REFUSED)) ∧
  (∀ (s : State) (p : Port) (v : Word), let c := s.chip
    let i := bitsOf v.toNat 17 0
    let e := bitsOf v.toNat 27 20
    let op := bitsOf v.toNat 19 18
    let len := c.ctxF i 0 31 18
    let refused (ins : Instr) (cause : Nat) : Prop := Becomes ins s { c with reel := { c.reel with admitResult := some cause } }
      [REEL.C7_ADMIT_STATUS_STATE.key 0 0] fun d => d.fld REEL.C7_ADMIT_STATUS_STATE = 1
    let done (d : Chip) : Prop := d.fld REEL.C7_ADMIT_STATUS_STATE = 1 ∧ d.reel.admitResult = some 0 ∧
      d.fld REEL.C7_ADMITTED_COUNT = d.reel.admitted.length % 2 ^ 18 ∧
      (∀ j, j ≠ i → (j ∈ d.reel.admitted ↔ j ∈ c.reel.admitted)) ∧ (∀ j w, j ≠ i → w < 16 → d.ctxW j w = c.ctxW j w) ∧
      (∀ w, 1 ≤ w → w < 16 → d.ctxW i w = c.ctxW i w) ∧ d.ctxF i 0 31 18 = len ∧ d.ctxF i 0 8 0 = c.ctxF i 0 8 0
    let metered := c.ctxF i 0 0 0 = 1 ∧ c.ctxCir i ≠ 0 ∧ c.ctxCbs i ≠ 0
    c.Open p .reel 0 →
    (c.fld REEL.C7_ADMIT_STATUS_STATE = 1 →
      SetsRegs (.c7AdmitAdd p v) s (errKeys PageCls.reel.base) fun d => c.Counted d PageCls.reel.base REEL.C7_ADMIT_CMD_CONTEXT.off p) ∧
    (c.fld REEL.C7_ADMIT_STATUS_STATE ≠ 1 →
    (op = 1 → let add := Instr.c7AdmitAdd p v
      ((i = 0 ∨ c.ctxF i 0 9 9 = 1) → refused add 1) ∧
      (i ≠ 0 → c.ctxF i 0 9 9 = 0 →
        (¬ metered → refused add 2) ∧
        (metered → 4 ≤ e → (e < 0x10 ∨ 0x70 ≤ e) → refused add 3) ∧
        (metered → (e < 4 ∨ (0x10 ≤ e ∧ e < 0x70)) → (len < 64 ∨ 1522 < len) → refused add 4) ∧
        (metered → e < 4 → 64 ≤ len → len ≤ 1522 →
          let g := gateWait (c.fit1522 e) (c.governing e)
          let flows := c.ledger e ++ [{ cir := c.ctxCir i, cbs := c.ctxCbs i, w := len + 20 }]
          (25000000000 * g.2.1 < 2 * rateSum flows * g.2.2 → refused add 5) ∧
          (2 * rateSum flows * g.2.2 ≤ 25000000000 * g.2.1 → ∀ g7, g.1 = some g7 →
            c.fld REEL.C7_BUDGET_NS * 100 * 25000000000 < burstPart flows * 25000000000 + rateSum flows * g7 → refused add 6))) ∧
      (c.addCause i e ≠ 0 → refused add (c.addCause i e)) ∧
      (c.addCause i e = 0 → Ends add s fun d => done d ∧ i ∈ d.reel.admitted ∧ d.ctxF i 0 9 9 = 1 ∧ d.ctxF i 0 17 10 = e)) ∧
    (op = 2 → let rem := Instr.c7AdmitRemove p v
      ((i = 0 ∨ c.ctxF i 0 9 9 = 0) → refused rem 1) ∧
      (i ≠ 0 → c.ctxF i 0 9 9 = 1 → Ends rem s fun d => done d ∧ i ∉ d.reel.admitted ∧ d.ctxF i 0 9 9 = 0 ∧ d.ctxF i 0 17 10 = 0)) ∧
    ((op = 0 ∨ op = 3) → refused (.c7AdmitAdd p v) 1)))

/-- A request for a configuration change is refused for the first check of Table 08.5 that it fails, or fixes its change time at the
base, or at the first start of its cycle after now; CANCEL withdraws it and changes no list (R284, R285). At its change time the pending
list becomes the oper list, and the admin buffer takes a copy of it; at an entry start of the oper list the gates and the hold are what
the entry says (R283, R286, R287, R289). The cycle in progress at the change time does not start where it would start less than
ADMIN_CYCLE_EXT_NS before it: its entry starts change nothing (R286; that a cycle which has begun by the request runs on is the model's
reading, assumption log, entry 64). What is not due changes nothing (entry 2). -/
def Obligations.GateLists : Prop :=
  (∀ (s : State) (p : Port) (n : Fin 4) (v : Word), let c := s.chip;
    let page := PageCls.reelgate.base + n.val;
    let T := c.fld REELGATE.ADMIN_CYCLE_NS_NS n.val;
    let B := baseNs (c.fld REELGATE.ADMIN_BASE_SEC_HI_SEC n.val) (c.fld REELGATE.ADMIN_BASE_SEC_LO_SEC n.val) (c.fld REELGATE.ADMIN_BASE_NS_NS n.val);
    let len := c.fld REELGATE.ADMIN_LEN_LEN n.val;
    let idle := c.fld REELGATE.GATE_STATUS_PENDING n.val = 0 ∧ c.fld REELGATE.GATE_STATUS_ADMIN_BUSY n.val = 0;
    let force := v.toNat.testBit 3;
    let lists (d : Chip) : Prop := (∀ m which k w, d.gclW m which k w = c.gclW m which k w) ∧
      d.fld REELGATE.GATE_CTRL_ENABLE n.val = v.toNat % 2;
    let refused (cause : Nat) : Prop := Ends (.gclConfigChange p n v) s fun d => lists d ∧
      d.fld REELGATE.GATE_STATUS_CAUSE n.val = cause ∧ c.Counted d page REELGATE.GATE_CTRL_ENABLE.off p ∧
      c.Tells d { cls := .reel, bit := 4 + n.val } ∧ d.fld REELGATE.GATE_STATUS_PENDING n.val = c.fld REELGATE.GATE_STATUS_PENDING n.val;
    let cycleBad := T < 1000 ∨ 1000000000 < T ∨ T < c.fld REELGATE.ADMIN_CYCLE_EXT_NS_NS n.val;
    c.Open p .reelgate n.val →
    (bitsOf v.toNat 2 1 = 1 →
      (¬ idle → refused 1) ∧ (idle → cycleBad → refused 2) ∧ (idle → ¬ cycleBad → (len = 0 ∨ 1024 < len) → refused 3) ∧
      (idle → ¬ cycleBad → len ≠ 0 → len ≤ 1024 →
        let bad := ∃ k, k < len ∧ (0x300 ≤ c.gclW n.val 0 k 0 ∨ 1000000000 < c.gclW n.val 0 k 1 ∨ c.gclW n.val 0 k 2 ≠ 0 ∨ c.gclW n.val 0 k 3 ≠ 0);
        (bad → refused 4) ∧ (¬ bad → force = false → c.adminC7Bad n.val = true → refused 5) ∧
        (¬ bad → (force = true ∨ c.ledger n.val = []) → Ends (.gclConfigChange p n v) s fun d => lists d ∧
          d.fld REELGATE.GATE_STATUS_PENDING n.val = 1 ∧
          let C := (d.gate n.val).change;
          let S := (c.operList n.val).cycleOf C;
          let ahead := if (c.gate n.val).run then (c.gate n.val).next ≤ S else c.net < S * (nsQ : Int);
          let bars := c.fld REELGATE.GATE_STATUS_OPER_VALID n.val ≠ 0 ∧ ahead ∧ 0 < C - S ∧
            C - S < (c.fld REELGATE.ADMIN_CYCLE_EXT_NS_NS n.val : Nat);
          (bars → (d.gate n.val).stay = some S) ∧ (¬ bars → (d.gate n.val).stay = none) ∧
          (c.net < B * (nsQ : Int) → C = B) ∧
          (B * (nsQ : Int) ≤ c.net → (∃ k : Nat, C = B + k * T) ∧ c.net < C * (nsQ : Int) ∧ (C - T) * (nsQ : Int) ≤ c.net) ∧
          (d.fld64 REELGATE.CHANGE_SEC_LO_SEC REELGATE.CHANGE_SEC_HI_SEC n.val : Int) = C / 1000000000 % 2 ^ 48 ∧
          (d.fld REELGATE.CHANGE_NS_NS n.val : Int) = C % 1000000000))) ∧
    (bitsOf v.toNat 2 1 = 2 → Ends (.gclCancel p n v) s fun d => lists d ∧ d.fld REELGATE.GATE_STATUS_PENDING n.val = 0 ∧
      (d.gate n.val).change = (c.gate n.val).change)) ∧
  (∀ (s : State) (n : Fin 4), let c := s.chip;
    let m := n.val;
    let due := c.fld REELGATE.GATE_STATUS_PENDING m ≠ 0 ∧ (c.mode = mACQUIRE ∨ c.running = true) ∧ c.fires = true ∧ c.dom .core = domON ∧
      (c.gate m).change * (nsQ : Int) ≤ c.net;
    let others (d : Chip) : Prop := ∀ k which i w, k ≠ m → k < 4 → which < 2 → i < 1024 → w < 4 → d.gclW k which i w = c.gclW k which i w;
    (due → Ends (.gclActivate n) s fun d => (∀ i w, i < 1024 → w < 4 → d.gclW m 1 i w = c.gclW m 0 i w ∧ d.gclW m 0 i w = c.gclW m 1 i w) ∧
      others d ∧ d.fld REELGATE.OPER_BASE_SEC_LO_SEC m = c.fld REELGATE.ADMIN_BASE_SEC_LO_SEC m % 2 ^ 32 ∧
      d.fld REELGATE.OPER_BASE_SEC_HI_SEC m = c.fld REELGATE.ADMIN_BASE_SEC_HI_SEC m % 2 ^ 16 ∧
      d.fld REELGATE.OPER_BASE_NS_NS m = c.fld REELGATE.ADMIN_BASE_NS_NS m % 2 ^ 30 ∧
      d.fld REELGATE.OPER_CYCLE_NS_NS m = c.fld REELGATE.ADMIN_CYCLE_NS_NS m % 2 ^ 30 ∧
      d.fld REELGATE.OPER_LEN_LEN m = c.fld REELGATE.ADMIN_LEN_LEN m % 2 ^ 11 ∧
      d.fld REELGATE.GATE_STATUS_PENDING m = 0 ∧ d.fld REELGATE.GATE_STATUS_OPER_VALID m = 1 ∧
      d.fld REELGATE.GATE_STATUS_ADMIN_BUSY m = 1 ∧ c.Tells d { cls := .reel, bit := m } ∧
      (d.gateRun m = true → c.net < (c.gate m).change * (nsQ : Int) + (c.whorl.inc : Nat) →
        ∀ e next, (d.operList m).place (c.gate m).change = (some e, next) → d.fld REELGATE.GATE_STATUS_GATES m = e.gates % 256 ∧
          d.fld REELGATE.GATE_STATUS_ENTRY m = e.idx % 1024 ∧ (d.gate m).next = next)) ∧
    (¬ due → Idles (.gclActivate n) s) ∧
    (c.fld REELGATE.GATE_STATUS_ADMIN_BUSY m ≠ 0 → Ends (.adminCopyDone n) s fun d =>
      (∀ i w, i < 1024 → w < 4 → d.gclW m 0 i w = c.gclW m 1 i w ∧ d.gclW m 1 i w = c.gclW m 1 i w) ∧ others d ∧
      d.fld REELGATE.GATE_STATUS_ADMIN_BUSY m = 0 ∧ c.Tells d EV.REEL_ADMIN_COPY_DONE) ∧
    (c.fld REELGATE.GATE_STATUS_ADMIN_BUSY m = 0 → Idles (.adminCopyDone n) s) ∧
    (c.gateDue m = false → Idles (.gateEvent n) s) ∧
    (c.fld REELGATE.GATE_STATUS_PENDING m ≠ 0 → ((c.gate m).next - (c.operList m).base) % ((c.operList m).cycle : Int) = 0 →
      (c.gate m).stay = some (c.gate m).next → Idles (.gateEvent n) s) ∧
    (∀ e next, c.gateDue m = true → (c.operList m).place (c.gate m).next = (some e, next) → Ends (.gateEvent n) s fun d =>
      d.fld REELGATE.GATE_STATUS_GATES m = e.gates % 256 ∧ d.fld REELGATE.GATE_STATUS_ENTRY m = e.idx % 1024 ∧
      (d.gate m).next = next ∧ (e.op = 1 → d.fld REELGATE.GATE_STATUS_HOLD m = 1) ∧ (e.op = 2 → d.fld REELGATE.GATE_STATUS_HOLD m = 0) ∧
      (e.op = 0 → d.fld REELGATE.GATE_STATUS_HOLD m = c.fld REELGATE.GATE_STATUS_HOLD m)))

/-- A packet on its way into its queue: it is dropped at its queue's limit, or flushed where its uplink is not UP, or queued; a class-7
packet without admission is demoted; a red packet is dropped where its context says so; a packet past the horizon is dropped (R268,
R272, R273, R278, R279, R292, R304). A packet of a context that generates takes the next number, and each copy that can carry it has its
R-TAG put in, or overwritten, or is dropped where it grows too long (R326 to R329); a replica joins the queue of its own output, with
its own context and cells, or is dropped without cells (R330). The engine of a segment is offered its eligible head of the highest
class, a host frame only when it is whole (R215, R280, R297). A shaped packet is stamped with its eligibility tick, or dropped (R280). A
packet whose context reads uncorrectable is dropped (R334, Table 12.7). In what order a packet's copies are made, numbered and dropped
is the model's reading (assumption log, entry 66), and that the Reel's own words count as the Ply's do (entry 84); so it is that what is
not due changes nothing (entry 2). -/
def Obligations.PacketsJoinQueues : Prop :=
  ∀ (s : State) (p : Packet) (r : List Packet) (n : Fin 96) (arr : List Nat), let c := s.chip
    let i := p.ctx
    let room (o k add : Nat) : Prop := ((c.queue o k).map fun q => cellsOf q.bytes.length).sum + add ≤
      max 1 (if isUplinkPort o then c.fld REELGATE.QLIMIT_CELLS o k
        else if isSegPort o then c.fld REEL.SEG_LIMITS_SEG_QLIMIT else c.fld REEL.HOST_QLIMIT_CELLS)
    let fits (len : Nat) := room p.out p.queueCls (cellsOf len)
    let upAt (o : Nat) : Prop := isUplinkPort o = true → c.fld UPLINK.LINK_STATUS_STATE o = 4 ∨ c.fld REELGATE.GATE_CTRL_DOWN_POLICY o ≠ 0
    let up := upAt p.out
    let counts (d : Chip) : Prop := (isUplinkPort p.out = true → c.Counts d REELGATE.QDROP_COUNT p.out) ∧
      (isSegPort p.out = true → c.Counts d REEL.SEG_QDROP_COUNT) ∧ (p.out = portHost → c.Counts d REEL.HOST_QDROP_COUNT)
    let gone (d : Chip) : Prop := d.reel.incoming = r ∧ ∀ o k, d.queue o k = c.queue o k
    let joins (d : Chip) (q : Packet) : Prop := d.queue p.out p.queueCls = c.queue p.out p.queueCls ++ [q]
    let green := { p with yellow := false, green := true }
    let plain := i ≠ 0 ∧ c.ctxF i 0 0 0 = 0 ∧ c.ctxF i 0 1 1 = 0 ∧ p.cls < 7 ∧ p.launch = none
    let seq := c.ctxF i 10 31 16
    let numbered (d : Chip) : Prop := d.ctxF i 10 31 16 = (seq + 1) % 65536 ∧ c.Counts d PLY.GEN_SEQS_COUNT
    let at_ := rtagAt (c.ctxF i 8 6 6) p.bytes
    let rtag := beBytes 2 0xF1C1 ++ [0, 0] ++ beBytes 2 seq
    let stands := c.rtagOver i p.bytes = true
    let len := p.bytes.length
    let alone := c.ctxF i 11 23 16 = 0xFF ∧ c.ctxF i 11 31 24 = 0xFF
    let offered := (c.eng n.val).offer
    let offer := Instr.segmentOffer { n := n, arrived := arr }
    let T := c.fld REEL.TICK_COUNT_COUNT
    let inc := incOf (c.ctxF i 5 23 0)
    let behind := (T % 2 ^ 24 + 2 ^ 24 - c.ctxF i 7 23 0) % 2 ^ 24
    let B : Int := if behind = 0 then c.ctxBucket i else min (c.ctxBucket i + (behind * inc : Nat)) (max 1 (c.ctxF i 5 30 24) * 2 ^ 24 : Nat)
    let wait := ((2 ^ 24 - B).toNat + inc - 1) / inc
    let shaped := i ≠ 0 ∧ c.ctxF i 0 0 0 = 0 ∧ c.ctxF i 0 1 1 = 1 ∧ p.cls < 7 ∧ p.launch = none ∧ c.ctxF i 8 4 4 = 0 ∧ alone
    let sound := ∀ b ∈ c.ecc.bad, b.two = true → ∀ k, b.word ≠ .cell .ctx k
    (∀ b ∈ c.ecc.bad, ∀ w, c.dom .core = domON → c.reel.incoming = p :: r → p.tag = none → p.hank = none → i ≠ 0 → b.two = true → w < 8 →
      b.word = .cell .ctx (16 * i + w) → Ends .reelEnqueue s fun d => gone d ∧ c.Counts d PLY.ECC_DROP_COUNT ∧ c.Tells d EV.PLY_ECC_DROP ∧
        ∀ w, d.ctxW i w = c.ctxW i w) ∧
    (c.dom .core = domON → c.reel.incoming = p :: r → p.tag = none → p.hank = none → portDefined p.out = true → sound →
      (shaped → fits len → up →
        (2 ^ 24 ≤ B → Ends .reelEnqueue s fun d => joins d { green with eligible := some T } ∧ d.ctxBucket i = B - 2 ^ 24) ∧
        (B < 2 ^ 24 → -(2 ^ 31) ≤ B - 2 ^ 24 → inc ≠ 0 → wait ≤ c.fld REEL.SHAPE_CFG_MAX_WAIT_US → Ends .reelEnqueue s fun d =>
          joins d { green with eligible := some ((T + wait) % 2 ^ 32) } ∧ d.ctxBucket i = B - 2 ^ 24)) ∧
      (shaped → B < 2 ^ 24 → (inc = 0 ∨ c.fld REEL.SHAPE_CFG_MAX_WAIT_US < wait) → Ends .reelEnqueue s fun d => gone d ∧
        c.Counts d REEL.SHAPE_DROP_COUNT ∧ c.Tells d EV.REEL_SHAPE_DROP ∧ d.ctxBucket i = B) ∧
      (i = 0 → p.launch = none → p.cls ≠ 7 →
        (fits len → up → Ends .reelEnqueue s fun d => d.reel.incoming = r ∧ joins d green ∧
          (∀ o k, (o ≠ p.out ∨ k ≠ p.queueCls) → k < 8 → p.queueCls < 8 → d.queue o k = c.queue o k) ∧ d.buffer = c.buffer) ∧
        (¬ fits len → Ends .reelEnqueue s fun d => gone d ∧ counts d ∧ c.Tells d EV.REEL_QUEUE_DROP) ∧
        (fits len → ¬ up → Ends .reelEnqueue s fun d => gone d ∧ c.Counts d REELGATE.LINK_FLUSH_COUNT p.out ∧
          ((c.upl p.out).flushed = false → c.Tells d EV.REEL_LINK_FLUSH))) ∧
      (i = 0 → p.launch = none → p.cls = 7 → Ends .reelEnqueue s fun d => d.reel.incoming = r ∧ c.Counts d REEL.C7_DEMOTED_COUNT ∧
        c.Tells d EV.REEL_C7_DEMOTED ∧ (p.out ≠ portHost → ∀ o, d.queue o 7 = c.queue o 7)) ∧
      (i ≠ 0 → c.ctxF i 0 0 0 = 1 → c.ctxF i 7 23 0 = c.fld REEL.TICK_COUNT_COUNT % 2 ^ 24 → c.ctxW i 4 < 2 ^ 24 → 2 ≤ c.ctxF i 0 5 4 →
        Ends .reelEnqueue s fun d => gone d ∧ c.Counts d REEL.METER_RED_COUNT ∧ c.Counts d REEL.METER_DROP_COUNT ∧
          c.Tells d EV.REEL_METER_RED) ∧
      (∀ l, i = 0 → p.cls < 7 → p.launch = some l → isUplinkPort p.out = true → c.ltQueue p.out p.cls = true →
        c.net + (c.fld REELGATE.LT_MAX_AHEAD_US p.out * usQ : Nat) < l →
        Ends .reelEnqueue s fun d => gone d ∧ c.Counts d REELGATE.LT_FAR_COUNT p.out) ∧
      (plain → c.ctxF i 8 4 4 = 1 → alone →
        ((isUplinkPort p.out = true ∨ p.out = portHost) →
          (stands → fits (p.bytes.take at_ ++ rtag ++ p.bytes.drop (at_ + 6)).length → up → Ends .reelEnqueue s fun d => numbered d ∧
            joins d { green with bytes := p.bytes.take at_ ++ rtag ++ p.bytes.drop (at_ + 6), seqNum := some seq }) ∧
          (¬ stands → len + 6 ≤ 9600 → cellsOf (len + 6) ≤ p.cells.shared + p.cells.c7 + p.cells.head →
            fits (p.bytes.take at_ ++ rtag ++ p.bytes.drop at_).length → up → Ends .reelEnqueue s fun d => numbered d ∧
              joins d { green with bytes := p.bytes.take at_ ++ rtag ++ p.bytes.drop at_, seqNum := some seq }) ∧
          (¬ stands → 9600 < len + 6 → Ends .reelEnqueue s fun d => gone d ∧ numbered d ∧ c.Counts d PLY.GEN_OVERSIZE_COUNT ∧
            c.Tells d EV.PLY_GEN_OVERSIZE)) ∧
        (isUplinkPort p.out = false → p.out ≠ portHost → Ends .reelEnqueue s fun d => c.Counts d PLY.GEN_SKIPPED_COUNT ∧
          c.Tells d EV.PLY_GEN_SKIPPED ∧ d.ctxF i 10 31 16 = seq ∧ (fits len → joins d green))) ∧
      (∀ out, plain → c.ctxF i 8 4 4 = 0 → c.ctxF i 11 23 16 = out → out ≠ 0xFF → c.ctxF i 11 31 24 = 0xFF → out ≠ p.out →
        fits len → up → let j := (i + 1) % 262144
        let k := if out = portHost then 0 else p.cls
        (c.cellsFor p.ingress (cellsOf len) p.preclass = none → Ends .reelEnqueue s fun d => joins d green ∧
          c.Counts d PLY.REPL_DROP_COUNT ∧ c.Tells d EV.PLY_REPL_DROP ∧ d.queue out k = c.queue out k) ∧
        (∀ cl, c.cellsFor p.ingress (cellsOf len) p.preclass = some cl → (j = 0 ∨ c.ctxF j 0 1 1 = 0) → room out k (cellsOf len) →
          upAt out → Ends .reelEnqueue s fun d => joins d green ∧ c.Counts d PLY.REPL_COPIES_COUNT ∧ d.queue out k = c.queue out k ++
            [{ green with id := c.buffer.nextId, out := out, ctx := j, primary := false, cells := cl }]))) ∧
    ((c.dom .core ≠ domON ∨ c.reel.incoming = []) → Idles .reelEnqueue s) ∧
    (∀ q k, c.mode ≠ mSAFE → c.dom .core = domON → c.segHead n.val arr = some (q, k) →
      (∃ x, c.queue (0x10 + n.val) k = q :: x) ∧ (q.ingress = portHost → q.bytes.length ≤ arr.getD k q.bytes.length) ∧
      (∀ j x l, k < j → j < 8 → c.queue (0x10 + n.val) j = x :: l →
        (∃ e, x.eligible = some e ∧ c.tickReached e = false) ∨ (x.ingress = portHost ∧ arr.getD j x.bytes.length < x.bytes.length)) ∧
      ((offered = none ∨ ∃ x j, offered = some (x, j) ∧ j < k) → Becomes offer s
        (c.updEng n.val fun e => { e with offer := some (q, k), deferred := false }) [] fun _ => True) ∧
      ((∃ x j, offered = some (x, j) ∧ k ≤ j) → Idles offer s)) ∧
    ((c.mode = mSAFE ∨ c.dom .core ≠ domON ∨ c.segHead n.val arr = none) → Idles offer s)

/-- The vector and the match algorithm of recovery, a packet without an R-TAG, the second stage by a compound context, and a
context without recovery (R320 to R325); its timers, latent tests and periods, the clearing of a counter set (R318, R332, R333), and
the resets as CORE leaves DEEP, over which the counter sets keep their contents (R335; that the first wake counts in WAKE_RESETS, too,
is the model's reading: assumption log, entry 59). What is not due changes nothing (entry 2). -/
def Obligations.PlyTimersAndSets : Prop :=
  (∀ (s : State) (ctx : BitVec 18) (p : Port) (v : Word), let c := s.chip;
    let i := ctx.toNat;
    let set := c.ctxF i 9 27 18;
    let ms := c.ctxF i 8 31 20;
    let due := c.ctxF i 8 0 0 = 1 ∧ ms ≠ 0 ∧ c.ctxF i 8 7 7 = 0 ∧ ms ≤ (c.fld PLY.MS_COUNT_MS + 65536 - c.ctxF i 11 15 0) % 65536;
    let latent (k : Nat) : Prop := k < 1024 ∧ bitsOf (c.setW k 11) 7 7 = 1;
    let paths (k : Nat) := max 2 (min 8 (bitsOf (c.setW k 11) 3 0));
    let diff (k : Nat) := (((paths k - 1) * c.setW k 9 : Nat) - (c.setW k 10 : Int)).natAbs;
    let fails (k : Nat) : Prop := latent k ∧ bitsOf (c.setW k 11) 31 8 < diff k;
    (c.dom .core = domON → due → Ends (.seqReset ctx) s fun d => d.ctxF i 8 7 7 = 1 ∧ d.hist i = 0 ∧
      d.setW set 6 = min (c.setW set 6 + 1) 0xFFFFFFFF ∧ c.Counts d PLY.RESETS_COUNT ∧ c.Tells d EV.PLY_SEQ_RESET ∧
      (∀ j w, j ≠ i → w < 16 → d.ctxW j w = c.ctxW j w) ∧ ∀ w, w < 8 → d.ctxW i w = c.ctxW i w) ∧
    ((c.dom .core ≠ domON ∨ ¬ due) → Idles (.seqReset ctx) s) ∧
    (c.dom .core = domON → c.ply.testPer ≤ c.ply.testMs → Ends .latentTest s fun d =>
      d.ply.testMs = c.ply.testMs - c.ply.testPer ∧ d.ply.testPer = max 1 (c.fld PLY.CFG_LATENT_TEST_MS) ∧
      (∀ k, fails k → d.setW k 7 = min (c.setW k 7 + 1) 0xFFFFFFFF ∧ c.Tells d EV.PLY_LATENT_ERROR) ∧
      (∀ k, ¬ fails k → d.setW k 7 = c.setW k 7) ∧ (∀ k w, w < 16 → w ≠ 7 → d.setW k w = c.setW k w)) ∧
    ((c.dom .core ≠ domON ∨ c.ply.testMs < c.ply.testPer) → Idles .latentTest s) ∧
    (c.dom .core = domON → c.ply.resetPer ≤ c.ply.resetMs → c.ply.testMs < c.ply.testPer → Ends .latentReset s fun d =>
      d.ply.resetMs = c.ply.resetMs - c.ply.resetPer ∧
      (∀ k, latent k → d.setW k 9 = 0 ∧ d.setW k 10 = 0 ∧ d.setW k 8 = min (c.setW k 8 + 1) 0xFFFFFFFF) ∧
      (∀ k w, w < 16 → (¬ latent k ∨ w ∉ [8, 9, 10]) → d.setW k w = c.setW k w)) ∧
    ((c.dom .core ≠ domON ∨ c.ply.resetMs < c.ply.resetPer ∨ c.ply.testPer ≤ c.ply.testMs) → Idles .latentReset s) ∧
    (c.Open p .ply 0 → Ends (.counterSetClear p v) s fun d =>
      let k := bitsOf v.toNat 9 0
      d.fld PLY.CNT_SEL_INDEX = k ∧
      (∀ w, w < 11 → d.setW k w = if v.toNat.testBit 31 then 0 else c.setW k w) ∧
      (∀ j w, w < 16 → (j ≠ k ∨ 11 ≤ w) → d.setW j w = c.setW j w)) ∧
    (c.wakeDue .core = true → Ends (.domainWakeDone .core) s fun d => d.dom .core = domON ∧
      (∀ j, c.ctxF j 8 0 0 = 1 → d.ctxF j 8 7 7 = 1 ∧ d.hist j = 0) ∧
      (∀ j w, c.ctxF j 8 0 0 = 0 → 8 ≤ w → w < 16 → d.ctxW j w = c.ctxW j w) ∧ (∀ k w, d.setW k w = c.setW k w) ∧
      c.Counts d PLY.WAKE_RESETS_COUNT)) ∧
  (∀ (c : Chip) (i : Nat) (q : Nat → Option Nat), let n := c.histLen i;
    let h := c.hist i;
    let set := c.ctxF i 9 27 18;
    let taking := c.ctxF i 8 7 7 = 1;
    let d := (c.recover i q).1;
    let answer := (c.recover i q).2;
    let counts (w : Nat) (r : FieldRow) (k : Nat) : Prop := d.setW set w = min (c.setW set w + k) 0xFFFFFFFF ∧ c.Counts d r 0 k;
    let passed : Prop := answer = some i ∧ counts 0 PLY.PASSED_COUNT 1 ∧ d.setW set 9 = min (c.setW set 9 + 1) 0xFFFFFFFF ∧
      d.ctxF i 11 15 0 = c.fld PLY.MS_COUNT_MS % 65536;
    let late : Prop := counts 2 PLY.OUT_OF_ORDER_COUNT 1 ∧ c.Tells d EV.PLY_OUT_OF_ORDER;
    let dup : Prop := answer = none ∧ counts 1 PLY.DISCARDED_COUNT 1 ∧ d.setW set 10 = min (c.setW set 10 + 1) 0xFFFFFFFF ∧ d.reel = c.reel;
    let recov (j : Nat) : Prop := j ≠ 0 ∧ c.ctxF j 8 0 0 = 1 ∧ c.recovDue j = false;
    ((i = 0 ∨ c.ctxF i 8 0 0 = 0) → c.recover i q = (c, some i)) ∧
    (recov i → q i = none → c.ctxF i 8 2 2 = 0 → answer = (if c.ctxF i 8 3 3 = 1 then some i else none) ∧
      counts 5 PLY.TAGLESS_COUNT 1 ∧ c.Tells d EV.PLY_TAGLESS ∧ d.reel = c.reel) ∧
    (∀ x, recov i → q i = some x → c.ctxF i 8 2 2 = 0 → let delta := signed 16 (x + 65536 - c.ctxF i 10 15 0)
      (c.ctxF i 8 1 1 = 0 →
        (taking → passed ∧ d.ctxF i 10 15 0 = x % 65536 ∧ d.hist i = 2 ^ n - 1 ∧ d.ctxF i 8 7 7 = 0) ∧
        (¬ taking → ((n : Int) ≤ delta ∨ delta ≤ -(n : Int)) → answer = none ∧ counts 3 PLY.ROGUE_COUNT 1 ∧ c.Tells d EV.PLY_ROGUE ∧
          d.reel = c.reel) ∧
        (¬ taking → -(n : Int) < delta → delta ≤ 0 → h.testBit delta.natAbs = true → dup) ∧
        (¬ taking → -(n : Int) < delta → delta ≤ 0 → h.testBit delta.natAbs = false → passed ∧ late ∧
          d.hist i = (h ||| 2 ^ delta.natAbs) % 2 ^ n ∧ d.ctxF i 10 15 0 = c.ctxF i 10 15 0) ∧
        (¬ taking → 0 < delta → delta < (n : Int) → let k := delta.toNat
          let lost := ((List.range k).filter fun b => h.testBit (n - 1 - b) = false).length
          passed ∧ d.hist i = (h * 2 ^ k + 1) % 2 ^ n ∧ d.ctxF i 10 15 0 = x % 65536 ∧ (1 < k → late) ∧
            (lost ≠ 0 → counts 4 PLY.LOST_COUNT lost ∧ c.Tells d EV.PLY_LOST) ∧ (lost = 0 → d.setW set 4 = c.setW set 4))) ∧
      (c.ctxF i 8 1 1 = 1 → let step := (x + 65536 - c.ctxF i 10 15 0) % 65536
        (taking → passed ∧ d.ctxF i 10 15 0 = x % 65536 ∧ d.ctxF i 8 7 7 = 0) ∧
        (¬ taking → step = 0 → dup) ∧
        (¬ taking → step ≠ 0 → passed ∧ d.ctxF i 10 15 0 = x % 65536 ∧ (step ≠ 1 → late)))) ∧
    (∀ x, recov i → q i = some x → taking → c.ctxF i 8 2 2 = 1 → let j := c.ctxF i 9 17 0
      j ≠ i →
      ((c.ctxF j 8 0 0 = 0 ∨ c.ctxF j 8 2 2 = 1) → answer = some j ∧ c.Counts d PLY.LINK_ERROR_COUNT ∧ c.Tells d EV.PLY_LINK_ERROR) ∧
      (recov j → c.ctxF j 8 2 2 = 0 → c.ctxF j 8 1 1 = 1 → c.ctxF j 8 7 7 = 0 → ∀ y, q j = some y →
        (y + 65536 - c.ctxF j 10 15 0) % 65536 = 0 → answer = none)))

/-! ### Host queues (chapter 10) -/

/-- Doorbells: what BAR2 takes at all, when a producer or a head index is valid, and what an invalid one does (R342 to R344); a word of
the shadow block is written when its content has changed (R345); the indices that BAR2 wrote while HOST was at LINK are judged in their
order once it is ON (R342); back-pressure ends, and CR_RELEASED is raised, when a CR owes nothing more (R361). SQ_CMD, CR_CMD and
LEDGER_CMD: each needs its key and a row that applies, and is counted otherwise; ENABLE starts a queue at index 0, DRAIN and ABORT end an
SQ when it is quiescent, DISABLE returns the buffers, RELEASE frees tags, DUMP writes the ledger (R362 to R364, R368). Which CR and LEDGER
commands count, and how a dump is cut into its two commands, are the model's readings (assumption log, entry 81), and so is what makes a
head index valid and how indices of LINK are kept (entry 76); so it is that what is not due changes nothing (entry 2). -/
def Obligations.QueueControl : Prop :=
  (∀ (s : State) (offset : BitVec 16) (v : Word) (be : BitVec 4) (k : Fin 512), let c := s.chip;
    let off := offset.toNat;
    let i := v.toNat % 2 ^ 17;
    let q := off / 128;
    let r := (off - 0x8000) / 128;
    let sq := Instr.sqDoorbell offset v be;
    let cr := Instr.crHeadDoorbell offset v be;
    let taken := c.mode ≠ mRESET ∧ c.modes.perst = false ∧ (c.dom .host = domON ∨ c.dom .host = domLINK);
    let good := be = 0xF ∧ off % 128 = 0 ∧ off < 0xA000;
    let ignored (ins : Instr) : Prop := SetsRegs ins s [HOSTQ.DB_IGNORED_COUNT.key 0 0] fun d => c.Counts d HOSTQ.DB_IGNORED_COUNT;
    let sqOkAt (i : Nat) : Prop := i < 2 ^ 17 ∧ i % 65536 < c.sqSize q ∧ idxCount (c.sqSize q) (c.sqCons q) i ≤ c.sqSize q ∧
      idxCount (c.sqSize q) (c.sqCons q) (c.sqProd q) ≤ idxCount (c.sqSize q) (c.sqCons q) i;
    let sqOk := sqOkAt i;
    let crOk := c.crOn r = true ∧ i % 65536 < c.crSize r ∧
      idxCount (c.crSize r) (c.crHead r) i ≤ idxCount (c.crSize r) (c.crHead r) (c.crTail r);
    let at_ := (c.fld HOSTQ.SHADOW_ADDR_LO_ADDR * 4096 + c.fld HOSTQ.SHADOW_ADDR_HI_ADDR * 2 ^ 32 + 4 * k.val) % 2 ^ 64;
    let word := if k.val < 256 then c.sqCons k.val + c.sqState k.val * 2 ^ 24 + (if c.sqQuiescent k.val then 2 ^ 27 else 0)
      else if k.val < 320 then c.crTail (k.val - 256) + (if c.crBp (k.val - 256) then 2 ^ 24 else 0) else 0;
    let due := c.fld HOSTQ.SHADOW_ADDR_LO_EN ≠ 0 ∧ c.hostUp = true ∧ Tab.get none c.hostq.shadow k.val ≠ some word;
    (¬ taken → Idles sq s ∧ Idles cr s) ∧
    (taken → ¬ good → ignored sq ∧ ignored cr) ∧
    (taken → good → off < 0x8000 → c.dom .host = domON →
      (c.sqState q ≠ sqACTIVE → ignored sq) ∧
      (c.sqState q = sqACTIVE → sqOk → SetsRegs sq s [HOSTQ.SQ_PROD_INDEX.key 0 q] fun d => d.sqProd q = i) ∧
      (c.sqState q = sqACTIVE → ¬ sqOk → SetsRegs sq s
        [HOSTQ.SQ_STATUS_STATE.key 0 q, HOSTQ.SQ_STATUS_CAUSE.key 0 q, HOSTQ.SQ_ATTN_ATTN.key 0 (q / 32), HOSTQ.SQ_GRP_EVT_ATTN.key 0 0,
         HOSTQ.DB_ERRORS_COUNT.key 0 0, EV.HOSTQ_DB_ERROR.key 0] fun d =>
          d.sqState q = sqERROR ∧ d.fld HOSTQ.SQ_STATUS_CAUSE 0 q = 1 ∧ (d.fld HOSTQ.SQ_ATTN_ATTN 0 (q / 32)).testBit (q % 32) = true ∧
          c.Counts d HOSTQ.DB_ERRORS_COUNT ∧ c.Tells d EV.HOSTQ_DB_ERROR)) ∧
    (taken → good → off < 0x8000 → c.dom .host = domLINK →
      Becomes sq s { c with hostq := { c.hostq with pdb := Tab.put [] c.hostq.pdb q (Tab.get [] c.hostq.pdb q ++ [i]) } } [] fun _ => True) ∧
    (c.wakeDue .host = true → Ends (.domainWakeDone .host) s fun d => d.dom .host = domON ∧ d.hostq.pdb = [] ∧
      (∀ x, c.hostq.pdb = [(q, [x])] → c.sqState q = sqACTIVE → sqOkAt x → d.sqProd q = x) ∧
      (∀ x y, c.hostq.pdb = [(q, [x, y])] → c.sqState q = sqACTIVE → x < 2 ^ 17 → ¬ sqOkAt x → d.sqState q = sqERROR ∧
        d.sqProd q = c.sqProd q)) ∧
    (taken → good → 0x8000 ≤ off →
      (¬ crOk → SetsRegs cr s [HOSTQ.CR_HEAD_ERRORS_COUNT.key 0 0, EV.HOSTQ_CR_HEAD_ERROR.key 0] fun d =>
        c.Counts d HOSTQ.CR_HEAD_ERRORS_COUNT ∧ c.Tells d EV.HOSTQ_CR_HEAD_ERROR) ∧
      (crOk → Ends cr s fun d => d.crHead r = i) ∧
      (crOk → c.crBp r = true → c.owed r = 0 → Ends cr s fun d => d.crBp r = false ∧ c.Tells d EV.HOSTQ_CR_RELEASED) ∧
      (crOk → c.owed r = 0 → c.crBp r = false → c.rxWaiter r = none → SetsRegs cr s [HOSTQ.CR_HEAD_INDEX.key 0 r] fun d => d.crHead r = i)) ∧
    (due → Becomes (.shadowWrite k) s { c with hostq := { c.hostq with shadow := Tab.put none c.hostq.shadow k.val (some word) },
                                               hostWrites := c.hostWrites ++ [{ addr := at_, bytes := leBytes 4 word }] } [] fun _ => True) ∧
    (¬ due → Idles (.shadowWrite k) s)) ∧
  (∀ (s : State) (p : Port) (v : Word) (sq : Fin 256), let c := s.chip;
    let q := c.fld HOSTQ.SQ_SEL_SQ;
    let r := c.fld HOSTQ.CR_SEL_CR;
    let t := bitsOf v.toNat 11 0;
    let st := c.sqState q;
    let sqKey := bitsOf v.toNat 31 16 = 0x5351;
    let crKey := bitsOf v.toNat 31 16 = 0x4352;
    let lgKey := bitsOf v.toNat 31 16 = 0x4C44;
    let op3 := bitsOf v.toNat 2 0;
    let op2 := bitsOf v.toNat 1 0;
    let lop := bitsOf v.toNat 14 12;
    let refused (ins : Instr) (row : FieldRow) : Prop := SetsRegs ins s (errKeys PageCls.hostq.base) fun d =>
      c.Counted d PageCls.hostq.base row.off p;
    let offKeys (q : Nat) := [HOSTQ.SQ_STATUS_STATE.key 0 q, HOSTQ.SQ_ATTN_ATTN.key 0 (q / 32), HOSTQ.SQ_GRP_EVT_ATTN.key 0 0];
    let off (d : Chip) (q : Nat) : Prop := d.sqState q = sqOFF ∧ (d.fld HOSTQ.SQ_ATTN_ATTN 0 (q / 32)).testBit (q % 32) = true;
    let record (c : Chip) (t : Nat) := c.ledgerRecord t;
    let base := c.fld HOSTQ.LEDGER_DUMP_LO_ADDR * 64 + c.fld HOSTQ.LEDGER_DUMP_HI_ADDR * 2 ^ 32;
    (c.Open p .hostq 0 →
      (¬ sqKey → refused (.sqEnable p v) HOSTQ.SQ_CMD_OP) ∧
      (sqKey → op3 = 1 →
        (st = sqOFF → c.crOn (c.sqCr q) = true → SetsRegs (.sqEnable p v) s
          [HOSTQ.SQ_PROD_INDEX.key 0 q, HOSTQ.SQ_CONS_INDEX.key 0 q, HOSTQ.SQ_STATUS_CAUSE.key 0 q, HOSTQ.SQ_STATUS_STATE.key 0 q] fun d =>
            d.sqProd q = 0 ∧ d.sqCons q = 0 ∧ d.fld HOSTQ.SQ_STATUS_CAUSE 0 q = 0 ∧ d.sqState q = sqACTIVE) ∧
        ((st ≠ sqOFF ∨ c.crOn (c.sqCr q) = false) → refused (.sqEnable p v) HOSTQ.SQ_CMD_OP)) ∧
      (sqKey → op3 = 2 →
        ((st = sqACTIVE ∨ st = sqERROR) → c.sqQuiescent q = false → SetsRegs (.sqDrain p v) s [HOSTQ.SQ_STATUS_STATE.key 0 q] fun d =>
          d.sqState q = sqDRAINING) ∧
        ((st = sqACTIVE ∨ st = sqERROR) → c.sqQuiescent q = true → SetsRegs (.sqDrain p v) s (offKeys q) fun d => off d q) ∧
        (st ≠ sqACTIVE → st ≠ sqERROR → refused (.sqDrain p v) HOSTQ.SQ_CMD_OP)) ∧
      (sqKey → op3 = 3 →
        ((st = sqACTIVE ∨ st = sqERROR ∨ st = sqDRAINING) → c.liveTags q = [] → SetsRegs (.sqAbort p v) s (offKeys q) fun d => off d q) ∧
        (∀ u, (st = sqACTIVE ∨ st = sqERROR ∨ st = sqDRAINING) → c.liveTags q = [u] → c.opLive u = true → (c.op u).handed = false →
          (c.op u).perst = false → Ends (.sqAbort p v) s fun d => d.sqState q = sqABORTING ∧ d.tagState u = lgDONE ∧
            d.fld HOSTQ.LEDGER_ENTRY0_STATUS 0 u = csFLUSHED ∧ c.Counts d HOSTQ.FLUSHED_COUNT ∧ d.hostq.due = c.hostq.due ++ [u] ∧
            d.fld HOSTQ.LEDGER_ENTRY1_PROGRESS 0 u = c.fld HOSTQ.LEDGER_ENTRY1_PROGRESS 0 u) ∧
        (st ∉ [sqACTIVE, sqERROR, sqDRAINING] → refused (.sqAbort p v) HOSTQ.SQ_CMD_OP)) ∧
      (crKey → op2 = 1 →
        (c.crOn r = false → Becomes (.crEnable p v) s { c with hostq := { c.hostq with seq := Tab.put 0 c.hostq.seq r 0,
                                                                                        bufs := Tab.put [] c.hostq.bufs r [] } }
          [HOSTQ.CR_TAIL_INDEX.key 0 r, HOSTQ.CR_HEAD_INDEX.key 0 r, HOSTQ.CR_STATUS_ENABLED.key 0 r] fun d =>
            d.crTail r = 0 ∧ d.crHead r = 0 ∧ d.crOn r = true) ∧
        (c.crOn r = true → refused (.crEnable p v) HOSTQ.CR_CMD_OP)) ∧
      (crKey → op2 = 2 →
        ((c.crNamed r = true ∨ c.owed r ≠ 0) → refused (.crDisable p v) HOSTQ.CR_CMD_OP) ∧
        (c.crNamed r = false → c.owed r = 0 → c.crOn r = true → Ends (.crDisable p v) s fun d => d.crOn r = false ∧ d.crBufs r = []) ∧
        (c.crNamed r = false → c.owed r = 0 → c.crOn r = true → c.crWaiters r = [] → Becomes (.crDisable p v) s
          { c with hostq := { c.hostq with bufs := Tab.put [] c.hostq.bufs r [] } } [HOSTQ.CR_STATUS_ENABLED.key 0 r] fun _ => True)) ∧
      (¬ crKey → refused (.crEnable p v) HOSTQ.CR_CMD_OP) ∧
      (¬ lgKey → refused (.ledgerRelease p v) HOSTQ.LEDGER_CMD_OP) ∧
      (lgKey → lop = 1 →
        (c.tagState t ≠ lgFREE → (c.tagFrozen t = true ∨ (c.tagState t = lgDONE ∧ c.crOn (c.tagCr t) = false)) →
          Ends (.ledgerRelease p v) s fun d => d.tagState t = lgFREE ∧ (d.op t).words = [] ∧
            ∀ u, u ≠ t → u < 4096 → d.tagState u = c.tagState u ∧ d.op u = c.op u) ∧
        ((c.tagState t = lgFREE ∨ (c.tagFrozen t = false ∧ (c.tagState t ≠ lgDONE ∨ c.crOn (c.tagCr t) = true))) →
          refused (.ledgerRelease p v) HOSTQ.LEDGER_CMD_OP)) ∧
      (lgKey → lop = 2 → Ends (.ledgerReleaseAll p v) s fun d => ∀ u, u < 4096 → (c.op u).words ≠ [] →
        d.tagState u = if c.releasable u then lgFREE else c.tagState u) ∧
      (lgKey → lop = 3 →
        ((c.fld HOSTQ.LEDGER_STATUS_DUMP_BUSY ≠ 0 ∨ c.hostUp = false) → refused (.ledgerDump p v) HOSTQ.LEDGER_CMD_OP) ∧
        (c.fld HOSTQ.LEDGER_STATUS_DUMP_BUSY = 0 → c.hostUp = true → Ends (.ledgerDump p v) s fun d =>
          d.fld HOSTQ.LEDGER_STATUS_DUMP_BUSY = 1 ∧ d.hostq.dumpAddr = base ∧
          d.hostWrites = c.hostWrites ++ [{ addr := base % 2 ^ 64, bytes := (List.range 4095).flatMap (record d) }]))) ∧
    (c.fld HOSTQ.LEDGER_STATUS_DUMP_BUSY ≠ 0 → c.hostUp = true → Ends .ledgerDumpDone s fun d =>
      d.fld HOSTQ.LEDGER_STATUS_DUMP_BUSY = 0 ∧ c.Tells d EV.HOSTQ_LEDGER_DUMP_DONE ∧
      d.hostWrites = c.hostWrites ++ [{ addr := (c.hostq.dumpAddr + 8 * 4095) % 2 ^ 64, bytes := record c 4095 }]) ∧
    ((c.fld HOSTQ.LEDGER_STATUS_DUMP_BUSY = 0 ∨ c.hostUp = false) → Idles .ledgerDumpDone s) ∧
    ((c.sqState sq.val = sqDRAINING ∨ c.sqState sq.val = sqABORTING) → c.sqQuiescent sq.val = true →
      SetsRegs (.sqQuiescent sq) s (offKeys sq.val) fun d => off d sq.val) ∧
    ((c.sqState sq.val ∉ [sqDRAINING, sqABORTING] ∨ c.sqQuiescent sq.val = false) → Idles (.sqQuiescent sq) s))

/-- Fetch judges one entry: its tag becomes NOT_STARTED and C advances, or it is BAD_DESC, RX_FULL, or an error of its SQ; a turn takes
up to WEIGHT entries, one after another, while the SQ stays eligible. Handover starts a NOP, an RX_POST and a TX; a FANOUT, which the
Distaff accepts while fewer than 256 are in flight (R379); and a REMOTE_REG, whose REG_REQ goes out unless one is outstanding (R398); it
holds behind FENCE. A PCIe error drops a TX not started, and ends one whose data is still being read, also where it has been pre-empted.
A due completion is written, parked, or waits in the ledger (R341, R347 to R352, R355, R356, R360, R369). That a PCIe error of a frame on
the wire counts as TX_UNDERRUN is the model's reading (assumption log, entry 80); so it is that what is not due changes nothing
(entry 2). -/
def Obligations.HostEntries : Prop :=
  ∀ (s : State) (sq : Fin 256) (e : List Word) (data : List Byte) (tag : Fin 4096) (phi : Fin 2560), let c := s.chip
    let l := (List.range 16).map fun k => (e.getD k 0).toNat
    let t := bitsOf (l.getD 0 0) 27 16
    let get (x : Option (List Word)) := Instr.sqFetch [x]
    let errKeysOf (q : Nat) := [HOSTQ.SQ_STATUS_STATE.key 0 q, HOSTQ.SQ_STATUS_CAUSE.key 0 q, HOSTQ.SQ_ATTN_ATTN.key 0 (q / 32),
      HOSTQ.SQ_GRP_EVT_ATTN.key 0 0]
    let served (q : Nat) : Chip := { c with hostq := { c.hostq with last := q } }
    let done (d : Chip) (t status : Nat) : Prop := d.tagState t = lgDONE ∧ d.fld HOSTQ.LEDGER_ENTRY0_STATUS 0 t = status ∧
      d.hostq.due = c.hostq.due ++ [t]
    let hand := Instr.opHandover sq data
    (c.nextSq = none → Idles (get (some e)) s) ∧
    (∀ q, c.nextSq = some q →
      (Becomes (get none) s (served q) (errKeysOf q ++ [HOSTQ.PCIE_ERRORS_COUNT.key 0 0, EV.HOSTQ_PCIE_ERROR.key 0]) fun d =>
        d.sqState q = sqERROR ∧ d.fld HOSTQ.SQ_STATUS_CAUSE 0 q = 3 ∧ c.Counts d HOSTQ.PCIE_ERRORS_COUNT ∧ c.Tells d EV.HOSTQ_PCIE_ERROR) ∧
      (c.tagState t ≠ lgFREE → Becomes (get (some e)) s (served q) (errKeysOf q) fun d =>
        d.sqState q = sqERROR ∧ d.fld HOSTQ.SQ_STATUS_CAUSE 0 q = 2) ∧
      (c.tagState t = lgFREE → Ends (get (some e)) s fun d => d.sqCons q = idxNext (c.sqSize q) (c.sqCons q) % 2 ^ 17 ∧
        d.tagSq t = q % 256 ∧ d.tagCr t = c.sqCr q % 64 ∧ d.fld HOSTQ.LEDGER_ENTRY0_OPCODE 0 t = bitsOf (l.getD 0 0) 7 0 ∧
        d.liveTags q = c.liveTags q ++ [t] ∧ (d.op t).words = l ∧
        (c.entryGood l = false → done d t csBADDESC ∧ c.Counts d HOSTQ.BAD_DESC_COUNT ∧ c.Tells d EV.HOSTQ_BAD_DESC) ∧
        (c.entryGood l = true → c.rxFull l = true → done d t csRXFULL) ∧
        (c.entryGood l = true → c.rxFull l = false → d.tagState t = lgNOT ∧ d.hostq.due = c.hostq.due)) ∧
      (let weight := max 1 (c.fld HOSTQ.SQ_CFG_WEIGHT 0 q);
        (∀ es r, weight ≤ es.length → exec (.sqFetch (es ++ r)) s = exec (.sqFetch es) s) ∧
        (∀ es, es.length < weight → let d := c.fetch es
          c.fetch (es ++ [some e]) = if d.sqEligible q then d.fetchEntry q e else d))) ∧
    ((c.nextOp sq.val = none ∨ ∃ u, c.nextOp sq.val = some u ∧ c.fenceOpen sq.val u = false) → Idles hand s) ∧
    (∀ u, c.nextOp sq.val = some u → c.fenceOpen sq.val u = true → (c.op u).perst = false →
      let w := (c.op u).words
      let oc := c.fld HOSTQ.LEDGER_ENTRY0_OPCODE 0 u
      let frame := data ++ List.replicate (60 - data.length) 0
      let pre := c.fld HOSTQ.SQ_CFG_PRECLASS 0 (c.tagSq u)
      let r := bitsOf (w.getD 1 0) 5 0
      (oc = opNOP → Ends hand s fun d => done d u csOK) ∧
      (oc = opRXPOST → c.crOn r = true → c.rxWaiter r = none → Ends hand s fun d => done d u csOK ∧
        d.fld HOSTQ.LEDGER_ENTRY1_PROGRESS 0 u = bitsOf (w.getD 1 0) 10 8 ∧
        (d.crBufs r).map (·.1) = (c.crBufs r).map (·.1) ++ postBufs w) ∧
      (∀ cl, oc = opTX → data.length = bitsOf (w.getD 1 0) 13 0 → c.hostUp = true → c.dom .core = domON →
        c.carder.hostFree ≤ 12 * c.aon → c.cellsFor portHost (cellsOf frame.length) pre = some cl → Ends hand s fun d =>
          c.Counts d HOSTQ.TX_FRAMES_COUNT ∧ (d.op u).handed = true ∧ d.tagState u = c.tagState u ∧
          ∃ p : Packet, p.bytes = frame ∧ p.tag = some u ∧ p.ingress = portHost ∧ p.preclass = pre ∧ p.cells = cl ∧
            (pre = 7 → Tab.get [] d.buffer.express portHost = Tab.get [] c.buffer.express portHost ++ [p]) ∧
            (pre ≠ 7 → Tab.get [] d.buffer.general portHost = Tab.get [] c.buffer.general portHost ++ [p])) ∧
      (oc = opTX → (c.cellsFor portHost (cellsOf frame.length) pre = none ∨ 12 * c.aon < c.carder.hostFree ∨ c.dom .core ≠ domON) →
        Idles hand s) ∧
      ((oc = opFANOUT ∨ oc = opREMOTE) → (c.dom .core ≠ domON → Idles hand s) ∧
        (c.dom .core = domON → c.role ≠ roleMANAGER → Ends hand s fun d => done d u csNOTMANAGER)) ∧
      (oc = opFANOUT → c.dom .core = domON → c.role = roleMANAGER → (256 ≤ c.cmdCount → Idles hand s) ∧
        (c.cmdCount < 256 → Ends hand s fun d => d.tagState u = c.tagState u ∧ (d.op u).handed = true ∧ (d.op u).fan = true ∧
          d.fld DISTAFF.NEXT_CMD_ID_ID = (c.fld DISTAFF.NEXT_CMD_ID_ID + 1) % 2 ^ 32 ∧
          ∃ h m, d.share? c.distaff.nextKey = some h ∧ h.cmd = some m ∧ h.cmdId = c.fld DISTAFF.NEXT_CMD_ID_ID ∧ m.tag = u ∧
            h.apply = ts96Of (w.getD 3 0) (w.getD 4 0) (w.getD 5 0) ∧ h.ramp = bitsOf (w.getD 2 0) 31 16 ∧ m.phase = .waiting ∧
            m.group = bitsOf (w.getD 1 0) 15 0 ∧ m.typ = bitsOf (w.getD 1 0) 23 16 ∧ m.value = bitsOf (w.getD 2 0) 15 0 ∧
            m.leadMs = (let lead := bitsOf (w.getD 6 0) 15 0; if lead = 0 then c.fld DISTAFF.CFG_DEFAULT_LEAD_MS else lead))) ∧
      (oc = opREMOTE → c.dom .core = domON → c.role = roleMANAGER → let k := bitsOf (w.getD 1 0) 7 0
        (c.wtState k ≠ wtBOUND → Ends hand s fun d => done d u csRRNOWORKER) ∧
        (c.wtState k = wtBOUND → c.regBusy k = true → Ends hand s fun d => (d.op u).handed = true ∧
          Tab.get [] d.hank.regQ k = Tab.get [] c.hank.regQ k ++ [u] ∧ d.hank.msgs = c.hank.msgs) ∧
        (c.wtState k = wtBOUND → c.regBusy k = false → Tab.get [] c.hank.regQ k = [] → Ends hand s fun d =>
          (d.op u).handed = true ∧ d.nextSeq k = (c.nextSeq k + 1) % 65536 ∧ ∃ id m, d.msg id = some m ∧ m.typ = hkREGREQ ∧
            m.worker = k ∧ m.seq = c.nextSeq k ∧ m.tag = some u ∧ m.octets.drop 20 = regReqBody w))) ∧
    (let live := c.opLive tag.val = true ∧ c.fld HOSTQ.LEDGER_ENTRY0_OPCODE 0 tag.val = opTX;
      (¬ live → Idles (.txDataPcieError tag phi) s) ∧
      (live → c.tagState tag.val = lgNOT → (c.op tag.val).perst = false → Ends (.txDataPcieError tag phi) s fun d =>
        d.tagState tag.val = lgDONE ∧ d.fld HOSTQ.LEDGER_ENTRY0_STATUS 0 tag.val = csPCIEERROR ∧ c.Counts d HOSTQ.PCIE_ERRORS_COUNT ∧
        c.Tells d EV.HOSTQ_PCIE_ERROR) ∧
      (live → c.tagState tag.val ≠ lgNOT → c.reading tag.val = [] → Idles (.txDataPcieError tag phi) s) ∧
      (∀ n, live → c.tagState tag.val ≠ lgNOT → c.reading tag.val = [n] → (c.upl n).cur = none → Ends (.txDataPcieError tag phi) s fun d =>
        c.Counts d HOSTQ.PCIE_ERRORS_COUNT ∧ c.Tells d EV.HOSTQ_PCIE_ERROR ∧ (d.upl n).cont = none ∧
        c.Counts d UPLINK.TX_UNDERRUN_COUNT n ∧ c.Tells d EV.UPLINK_TX_UNDERRUN n)) ∧
    (c.dueTag = none → Idles .completion s) ∧
    (∀ u, c.dueTag = some u →
      let r := c.tagCr u
      let w := c.opEntry u
      let entry : HostWrite := { addr := (c.fld HOSTQ.CR_BASE_LO_ADDR 0 r * 4096 + c.fld HOSTQ.CR_BASE_HI_ADDR 0 r * 2 ^ 32 +
        32 * idxSlot (c.crTail r)) % 2 ^ 64, bytes := ((w.1 + (1 - idxWrap (c.crTail r))) :: w.2).flatMap fun x => leBytes 4 x }
      let room := c.crFree r = true ∧ c.owed r = 0
      (room → c.silent u = true → Ends .completion s fun d => d.tagState u = lgFREE ∧ d.hostWrites = c.hostWrites ∧ d.crTail r = c.crTail r) ∧
      (room → c.silent u = false → Ends .completion s fun d => d.tagState u = lgFREE ∧ d.hostWrites.getLast? = some entry ∧
        d.hostWrites.length = c.hostWrites.length + (if c.shadowDue (c.tagSq u) then 2 else 1) ∧
        d.crTail r = idxNext (c.crSize r) (c.crTail r) % 2 ^ 17 ∧
        (r < 32 → (d.fld HOSTQ.CR_EVT_LO_WRITTEN).testBit r = true) ∧ (32 ≤ r → r < 64 → (d.fld HOSTQ.CR_EVT_HI_WRITTEN).testBit (r % 32) = true)) ∧
      (¬ room → c.hostq.parked.length < 2048 → Ends .completion s fun d => d.hostq.parked = c.hostq.parked ++ [u] ∧
        d.hostq.due = c.hostq.due.erase u ∧ d.fld HOSTQ.LEDGER_ENTRY0_PARKED 0 u = 1 ∧ c.Counts d HOSTQ.PARKS_COUNT ∧
        d.tagState u = c.tagState u ∧ d.hostWrites = c.hostWrites) ∧
      (¬ room → 2048 ≤ c.hostq.parked.length → Ends .completion s fun d => d.hostq.waiting = c.hostq.waiting ++ [u] ∧
        d.hostq.due = c.hostq.due.erase u ∧ c.Counts d HOSTQ.LEDGER_WAITS_COUNT ∧ c.Tells d EV.HOSTQ_LEDGER_WAIT ∧
        d.hostWrites = c.hostWrites))

/-- Receive placement: a frame goes, whole, into the buffers of the CR that its reason maps to, with its completion after its data; it
is dropped where no CR takes it or it can never fit, and else waits, for RX_HOLD_LIMIT µs at most (R357 to R359, R369). What is not due changes nothing
(assumption log, entry 2). -/
def Obligations.ReceivePlacement : Prop :=
  ∀ (s : State) (p : Packet) (cr : Fin 64), let c := s.chip
    let ready := c.hostUp = true ∧ c.dom .core = domON ∧ c.mode ≠ mSAFE
    let plain := p.tag = none ∧ p.hank = none
    let takes (r : Nat) : Prop := c.rxMap p.reason = some r ∧ c.crOn r = true ∧ c.fld HOSTQ.CR_RX_CFG_RX_EN 0 r ≠ 0
    let n (r : Nat) := c.bufsNeeded r p
    let fits (r : Nat) : Prop := c.rxWaiter r = none ∧ n r ≤ (c.crBufs r).length ∧ c.crFree r = true ∧ c.owed r = 0
    let dropped (d : Chip) (x : Packet) (row : FieldRow) (e : Evt) : Prop :=
      d.hostQueue = c.hostQueue.erase x ∧ c.Counts d row ∧ c.Tells d e ∧ d.hostWrites = c.hostWrites
    let size (r : Nat) := 256 * 2 ^ min 6 (c.fld HOSTQ.CR_RX_CFG_BUF_SIZE_LOG 0 r)
    (ready → c.rxNext = some p → plain →
      ((¬ ∃ r, takes r) → Ends .rxPlacement s fun d => dropped d p HOSTQ.RX_UNMAPPED_COUNT EV.HOSTQ_RX_UNMAPPED) ∧
      (∀ r, takes r →
        (c.postLimit r < n r → Ends .rxPlacement s fun d => dropped d p HOSTQ.RX_TOO_BIG_COUNT EV.HOSTQ_RX_TOO_BIG) ∧
        (n r ≤ c.postLimit r → fits r → Ends .rxPlacement s fun d => d.hostQueue = c.hostQueue.erase p ∧
          c.Counts d HOSTQ.RX_FRAMES_COUNT ∧ d.crBufs r = (c.crBufs r).drop (n r) ∧
          d.crTail r = idxNext (c.crSize r) (c.crTail r) % 2 ^ 17 ∧
          ∃ entry : HostWrite, entry.bytes.length = 32 ∧ entry.addr = (c.fld HOSTQ.CR_BASE_LO_ADDR 0 r * 4096 +
              c.fld HOSTQ.CR_BASE_HI_ADDR 0 r * 2 ^ 32 + 32 * idxSlot (c.crTail r)) % 2 ^ 64 ∧
            d.hostWrites = c.hostWrites ++ (((c.crBufs r).take (n r)).zipIdx.map fun b =>
              { addr := b.1.1 % 2 ^ 64, bytes := (p.bytes.drop (size r * b.2)).take (size r) }) ++ [entry]) ∧
        (n r ≤ c.postLimit r → ¬ fits r → c.fld HOSTQ.RX_HOLD_LIMIT_US = 0 → Ends .rxPlacement s fun d =>
          dropped d p HOSTQ.RX_HOLD_DROP_COUNT EV.HOSTQ_RX_HOLD_DROP) ∧
        (n r ≤ c.postLimit r → ¬ fits r → c.fld HOSTQ.RX_HOLD_LIMIT_US ≠ 0 → Becomes .rxPlacement s
          (c.setQueue portHost 0 (c.hostQueue.map fun x => if x.id = p.id then { x with rxWait := some (r, c.now) } else x)) [] fun _ => True))) ∧
    ((¬ ready ∨ c.rxNext = none) → Idles .rxPlacement s) ∧
    (∀ t, c.rxWaiter cr.val = some (p, t) → plain → t + c.fld HOSTQ.RX_HOLD_LIMIT_US * usQ ≤ c.now → Ends (.rxHoldTimeout cr) s fun d =>
      c.Counts d HOSTQ.RX_HOLD_DROP_COUNT ∧ c.Tells d EV.HOSTQ_RX_HOLD_DROP ∧ d.hostQueue.length < c.hostQueue.length) ∧
    (∀ t, c.rxWaiter cr.val = some (p, t) → c.now < t + c.fld HOSTQ.RX_HOLD_LIMIT_US * usQ → Idles (.rxHoldTimeout cr) s) ∧
    (c.rxWaiter cr.val = none → Idles (.rxHoldTimeout cr) s)

/-! ### Hank and the Distaff (chapter 11) -/

/-- The receive checks of Table 11.7 decide the fate of the oldest frame from port 0x81, and what each accepted message does: BIND,
HELLO, FANOUT, FANOUT_ACK, SHARE_DONE, CANCEL, REG_REQ and REG_RESP (R384 to R387, R389, R394, R396, R398, R399). A duplicate is counted
and acts no more, a share too many is refused, a part of a share already held joins it, and a BIND of another manager or epoch withdraws
every share. What is not due changes nothing (the model's choice: assumption log, entry 2). -/
def Obligations.HankReceives : Prop :=
  ∀ (s : State) (e : Instr × Nat) (p : Packet) (m : HankRx), let c := s.chip
    let rx := [(Instr.bindRx, 1), (.helloRx, 2), (.fanoutRx, 3), (.fanoutAckRx, 4), (.shareDoneRx, 5), (.cancelRx, 6), (.regReqRx, 7),
      (.regRespRx, 8)]
    let popped : Chip := { c with hankIn := c.hankIn.tail }
    let settled := c.fld GLOBAL.ROLE_SETTLED ≠ 0
    let epochOk := m.typ = 1 ∨ m.targetEpoch = c.roleEpoch
    let forMe := (c.role = roleWORKER → m.typ ≠ 1 → m.target = c.fld HANK.BIND_STATUS_MY_ID) ∧ (c.role = roleMANAGER → m.target = 0)
    let rejects (r : FieldRow) (ev : Evt) : Prop := Becomes e.1 s popped [r.key 0 0, ev.key 0] fun d => c.Counts d r ∧ c.Tells d ev
    let fresh := c.hank.history.contains m.seq = false
    let other := m.senderEpoch ≠ c.fld HANK.BIND_STATUS_MGR_EPOCH ∨ m.src ≠ c.mgrMac
    let wfShares := Tab.wf none c.distaff.shares = true
    let part := beNat ((m.body.drop 12).take 2)
    let heard : Chip := { popped with hank := { c.hank with lastMgr := c.now } }
    let passes := settled ∧ m.targetRole = c.role ∧ epochOk ∧ forMe ∧ c.senderOk m = true
    let twice (d : Chip) : Prop := c.Counts d HANK.DUPLICATES_COUNT ∧ c.Tells d EV.HANK_DUPLICATE
    let accepted (i : Instr) (typ : Nat) (ok : Chip → Prop) : Prop :=
      e = (i, typ) → settled → m.targetRole = c.role → epochOk → forMe → c.senderOk m = true → Ends i s fun d => ok d ∧
        d.fld HANK.RX_MSGS_COUNT = (c.fld HANK.RX_MSGS_COUNT + 1) % 2 ^ 32 ∧ d.hankIn = c.hankIn.tail
    e ∈ rx →
    ((c.dom .core ≠ domON ∨ c.hankFront e.2 = none) → Idles e.1 s) ∧
    (c.dom .core = domON → c.hankFront e.2 = some p →
      (parseHank p = none → rejects HANK.HDR_ERR_COUNT EV.HANK_HDR_ERR) ∧
      (parseHank p = some m →
        (¬ settled → rejects HANK.ROLE_STALE_COUNT EV.HANK_ROLE_STALE) ∧
        (settled → (m.targetRole ≠ c.role ∨ ¬ epochOk) → rejects HANK.ROLE_STALE_COUNT EV.HANK_ROLE_STALE) ∧
        (settled → m.targetRole = c.role → epochOk → ¬ forMe → rejects HANK.NOT_FOR_ME_COUNT EV.HANK_NOT_FOR_ME) ∧
        (settled → m.targetRole = c.role → epochOk → forMe → c.senderOk m = false → rejects HANK.ROLE_STALE_COUNT EV.HANK_ROLE_STALE) ∧
        (c.role = roleWORKER → fresh →
          accepted .bindRx 1 (fun d => d.mgrMac = m.src ∧ d.fld HANK.BIND_STATUS_MGR_EPOCH = m.senderEpoch ∧
            d.fld HANK.BIND_STATUS_MY_ID = octAt m.body 0 ∧ d.fld HANK.BIND_STATUS_MGR_VALID = 1 ∧ c.Tells d EV.HANK_BOUND ∧
            (m.ingress < 4 → d.fld HANK.BIND_STATUS_MGR_UPLINK = m.ingress) ∧
            (other → d.hank.history = [m.seq] ∧ ∀ k h, wfShares → c.share? k = some h → h.cmd = none → d.share? k = none) ∧
            (¬ other → d.distaff.shares = c.distaff.shares) ∧
            (m.senderEpoch ≠ c.fld HANK.BIND_STATUS_MGR_EPOCH → c.Tells d EV.HANK_MGR_EPOCH_CHANGE)) ∧
          (c.findShare m.cmdId = none → c.shareCount < 256 → accepted .fanoutRx 3 fun d => ∃ key h, d.findShare m.cmdId = some (key, h) ∧
            h.apply = (signed 48 (beNat (m.body.take 6)) * 1000000000 + beNat ((m.body.drop 6).take 4)) * 64 ∧
            h.ramp = beNat ((m.body.drop 10).take 2) ∧ h.parts = [beNat ((m.body.drop 12).take 2)]) ∧
          (∀ key h, c.findShare m.cmdId = some (key, h) → wfShares → c.share? key = some h → accepted .fanoutRx 3 fun d =>
            ∃ h', d.share? key = some h' ∧ h'.cmdId = h.cmdId ∧ h'.parts = (if h.parts.contains part then h.parts else part :: h.parts) ∧
              h'.lastPart = (if m.last then some part else h.lastPart)) ∧
          (e = (.fanoutRx, 3) → passes → c.findShare m.cmdId = none → 256 ≤ c.shareCount → Becomes .fanoutRx s heard
            [DISTAFF.SHARE_FULL_COUNT.key 0 0, EV.DISTAFF_SHARE_FULL.key 0] fun d =>
              c.Counts d DISTAFF.SHARE_FULL_COUNT ∧ c.Tells d EV.DISTAFF_SHARE_FULL) ∧
          (∀ key h, c.findShare m.cmdId = some (key, h) → accepted .cancelRx 6 fun d => d.share? key = none ∧ c.Tells d EV.HANK_CANCEL_RX) ∧
          (c.fld HANK.CFG_REMOTE_EN = 0 → accepted .regReqRx 7 fun d => c.Counts d HANK.REMOTE_REFUSED_COUNT ∧
            d.fld HANK.REMOTE_ACCESSES_COUNT = c.fld HANK.REMOTE_ACCESSES_COUNT ∧
            ∃ o, d.hank.resp = some (m.seq, o) ∧ o.drop 20 = beBytes 4 0x00030000) ∧
          (c.fld HANK.CFG_REMOTE_EN ≠ 0 → c.mode ≠ mRESET → c.domUp .aon = true → regReqAccesses m.body = [(GLOBAL.MODE_MODE.off, none)] →
            accepted .regReqRx 7 fun d => c.Counts d HANK.REMOTE_ACCESSES_COUNT ∧
              ∃ o, d.hank.resp = some (m.seq, o) ∧ o.drop 20 = beBytes 4 0x01000000 ++ beBytes 4 (c.plainRead .global 0 GLOBAL.MODE_MODE.off))) ∧
        (c.role = roleWORKER → ¬ fresh → passes →
          (e = (.bindRx, 1) → Becomes .bindRx s heard [HANK.DUPLICATES_COUNT.key 0 0, EV.HANK_DUPLICATE.key 0] twice) ∧
          ((e = (.fanoutRx, 3) ∨ e = (.cancelRx, 6)) → Ends e.1 s fun d => twice d ∧ d.distaff.shares = c.distaff.shares ∧
            d.hank.history = c.hank.history ∧ d.fld HANK.RX_MSGS_COUNT = c.fld HANK.RX_MSGS_COUNT ∧
            (c.ulUp (c.hankUplink 0) = true → ∃ x, d.msg c.hank.nextId = some x ∧ x.typ = hkFANOUTACK ∧ x.seq = m.seq)) ∧
          (e = (.regReqRx, 7) → Ends .regReqRx s fun d => twice d ∧ d.hank.history = c.hank.history ∧
            d.fld HANK.REMOTE_ACCESSES_COUNT = c.fld HANK.REMOTE_ACCESSES_COUNT ∧
            ∀ o, c.ulUp (c.hankUplink 0) = true → c.hank.resp = some (m.seq, o) →
              ∃ x, d.msg c.hank.nextId = some x ∧ x.typ = hkREGRESP ∧ x.octets = o)) ∧
        (c.role = roleMANAGER →
          accepted .helloRx 2 (fun d => d.wtState m.sender = wtBOUND ∧ d.fld HANK.WT_STATUS_EPOCH 0 m.sender = m.senderEpoch ∧
            (c.wtState m.sender ≠ wtBOUND → c.Tells d EV.HANK_WORKER_UP)) ∧
          (∀ id q, c.awaiting m.sender m.seq = some (id, q) → (q.typ = hkFANOUT ∨ q.typ = hkCANCEL) →
            accepted .fanoutAckRx 4 fun d => d.msg id = none) ∧
          (∀ key h k, c.findCmd m.cmdId = some key → c.share? key = some h → h.cmd = some k → (Tab.get {} k.replies m.sender).done = false →
            accepted .shareDoneRx 5 fun d => ∃ h' k', d.share? key = some h' ∧ h'.cmd = some k' ∧
              (Tab.get {} k'.replies m.sender).done = true ∧ (Tab.get {} k'.replies m.sender).onTime = beNat (m.body.take 4) ∧
              (Tab.get {} k'.replies m.sender).late = beNat ((m.body.drop 4).take 4)) ∧
          (∀ id q t, c.awaiting m.sender m.seq = some (id, q) → id ≠ c.hank.nextId → q.typ = hkREGREQ → q.tag = some t → c.opLive t = true →
            (c.op t).aborted = false → (c.op t).perst = false → accepted .regRespRx 8 fun d => d.msg id = none ∧ d.tagState t = lgDONE ∧
              d.fld HOSTQ.LEDGER_ENTRY0_STATUS 0 t = (if octAt m.body 1 = 0 then csOK else csRRACCESS) ∧
              (d.op t).r6 = beNat ((m.body.drop 4).take 4) ∧ (d.op t).r7 = beNat ((m.body.drop 8).take 4)))))

/-- Retransmission and giving up, BIND keepalives, absent workers, the loss of a binding, the worker table and BIND_STATUS, and the
release of frames that the class-7 bucket delays (R385 to R388). Every write of a word whose fields stand while VALID, or MGR_VALID, is 1
counts in PAGE_ERRCNT (R402; that a write that changes none of them counts, too, is the model's reading: assumption log, entry 69). One
class-7 bucket for the part, in monotonic time, and the instant from which an answer is awaited are the model's readings, too (entry 68);
so it is that what is not due changes nothing (entry 2). -/
def Obligations.HankTimers : Prop :=
  ∀ (s : State) (p : Port) (v : Word) (w : Fin 256) (seq : BitVec 16), let c := s.chip
    let k := max 1 (c.fld HANK.WT_SEL_WORKER)
    let page := PageCls.hank.base
    let up := bitsOf v.toNat 5 4
    let gone := c.fld HANK.BIND_STATUS_MGR_VALID ≠ 0 ∧ c.fld HANK.TIMEOUTS_MGR_TIMEOUT_MS ≠ 0 ∧
      c.hank.lastMgr + c.fld HANK.TIMEOUTS_MGR_TIMEOUT_MS * msQ ≤ c.now
    let unbound (i : Instr) (own : List Nat) (ok : Chip → Prop) : Prop :=
      SetsRegs i s ([HANK.BIND_STATUS_MGR_VALID.key 0 0, EV.HANK_UNBOUND.key 0] ++ own) fun d =>
        d.fld HANK.BIND_STATUS_MGR_VALID = 0 ∧ c.Tells d EV.HANK_UNBOUND ∧ ok d
    (∀ id m, c.dom .core = domON → c.awaiting w.val seq.toNat = some (id, m) → id ≠ c.hank.nextId → c.ackDue m = true →
      (m.tries < c.fld HANK.TIMERS_RETRIES → Ends (.hankAckTimeout w seq) s fun d => c.Counts d HANK.RETRANSMITS_COUNT ∧
        c.Tells d EV.HANK_RETRANSMIT ∧ ∃ x, d.msg id = some x ∧ x.tries = m.tries + 1 ∧ x.octets = m.octets) ∧
      (c.fld HANK.TIMERS_RETRIES ≤ m.tries → Ends (.hankAckTimeout w seq) s fun d => c.Counts d HANK.GIVE_UPS_COUNT ∧
        c.Tells d EV.HANK_GIVE_UP ∧ d.msg id = none ∧
        (∀ t, m.tag = some t → m.typ = hkREGREQ → c.opLive t = true → (c.op t).aborted = false → d.tagState t = lgDONE ∧
          d.fld HOSTQ.LEDGER_ENTRY0_STATUS 0 t = csRRTIMEOUT))) ∧
    ((c.dom .core ≠ domON ∨ c.awaiting w.val seq.toNat = none ∨ ∃ e, c.awaiting w.val seq.toNat = some e ∧ c.ackDue e.2 = false) →
      Idles (.hankAckTimeout w seq) s) ∧
    (c.bindDue w.val = true → Ends (.bindKeepalive w) s fun d => Tab.get 0 d.hank.bindAt w.val = c.now ∧
      d.nextSeq w.val = (c.nextSeq w.val + 1) % 65536) ∧
    (c.bindDue w.val = false → Idles (.bindKeepalive w) s) ∧
    (c.absentDue w.val = true → SetsRegs (.workerAbsent w) s [HANK.WT_STATUS_STATE.key 0 w.val, EV.HANK_WORKER_ABSENT.key 0] fun d =>
      d.wtState w.val = wtABSENT ∧ c.Tells d EV.HANK_WORKER_ABSENT) ∧
    (c.absentDue w.val = false → Idles (.workerAbsent w) s) ∧
    (gone → unbound .mgrTimeout [] fun _ => True) ∧ (¬ gone → Idles .mgrTimeout s) ∧
    (c.Open p .hank 0 → c.fld HANK.WT_SEL_WORKER < 256 →
      (c.fld HANK.WT_CFG_VALID 0 k ≠ 0 →
        (v.toNat % 2 = 0 → SetsRegs (.wtValidWrite p v) s ([HANK.WT_CFG_VALID.key 0 k, HANK.WT_STATUS_STATE.key 0 k] ++ errKeys page)
          fun d => d.fld HANK.WT_CFG_VALID 0 k = 0 ∧ d.wtState k = wtEMPTY ∧ c.Counted d page HANK.WT_CFG_UPLINK.off p) ∧
        (v.toNat % 2 = 1 → SetsRegs (.wtValidWrite p v) s (errKeys page) fun d => c.Counted d page HANK.WT_CFG_UPLINK.off p)) ∧
      (c.fld HANK.WT_CFG_VALID 0 k = 0 → v.toNat % 2 = 0 → SetsRegs (.wtValidWrite p v) s [HANK.WT_CFG_UPLINK.key 0 k] fun d =>
        d.fld HANK.WT_CFG_UPLINK 0 k = up) ∧
      (c.fld HANK.WT_CFG_VALID 0 k = 0 → v.toNat % 2 = 1 → c.role = roleMANAGER → Ends (.wtValidWrite p v) s fun d =>
        d.fld HANK.WT_CFG_VALID 0 k = 1 ∧ d.fld HANK.WT_CFG_UPLINK 0 k = up ∧ d.wtState k = wtBINDING ∧
        Tab.get 0 d.hank.helloAt k = c.now ∧
        (c.dom .core = domON → c.fld GLOBAL.ROLE_SETTLED ≠ 0 → d.nextSeq k = (c.nextSeq k + 1) % 65536)) ∧
      (c.fld HANK.BIND_STATUS_MGR_VALID ≠ 0 → v.toNat % 2 = 0 → unbound (.mgrUnbind p v) (errKeys page) fun d =>
        c.Counted d page HANK.BIND_STATUS_MGR_VALID.off p) ∧
      (c.fld HANK.BIND_STATUS_MGR_VALID ≠ 0 → v.toNat % 2 = 1 → SetsRegs (.mgrUnbind p v) s (errKeys page) fun d =>
        c.Counted d page HANK.BIND_STATUS_MGR_VALID.off p) ∧
      (c.fld HANK.BIND_STATUS_MGR_VALID = 0 → v.toNat % 2 = 1 →
        Becomes (.mgrUnbind p v) s { c with hank := { c.hank with lastMgr := c.now } }
          [HANK.BIND_STATUS_MGR_UPLINK.key 0 0, HANK.BIND_STATUS_MY_ID.key 0 0, HANK.BIND_STATUS_MGR_EPOCH.key 0 0,
           HANK.BIND_STATUS_MGR_VALID.key 0 0] fun d => d.fld HANK.BIND_STATUS_MGR_VALID = 1 ∧
            d.fld HANK.BIND_STATUS_MGR_UPLINK = bitsOf v.toNat 5 4 ∧ d.fld HANK.BIND_STATUS_MY_ID = bitsOf v.toNat 15 8 ∧
            d.fld HANK.BIND_STATUS_MGR_EPOCH = bitsOf v.toNat 31 16)) ∧
    (let spent := c.hank.spent - c.fld HANK.C7_RES_CIR * (c.now - c.hank.spentAt);
      let fits := spent + secQ ≤ max 1 (c.fld HANK.C7_RES_CBS) * secQ
      (∀ n q r, c.dom .core = domON → c.hank.held = (n, q) :: r → fits → Ends .hankBucketRelease s fun d => d.hank.held = r ∧
        d.hank.spent = spent + secQ ∧ d.hank.spentAt = c.now ∧
        ((c.ulUp n = true ∨ c.fld REELGATE.GATE_CTRL_DOWN_POLICY n ≠ 0) → d.queue n q.cls = c.queue n q.cls ++ [q])) ∧
      ((c.dom .core ≠ domON ∨ c.hank.held = [] ∨ ¬ fits) → Idles .hankBucketRelease s))

/-- Fan-out commands at the manager: leave is asked for, the expansion starts at START and visits the group's members, a command
expires, an idle FANOUT frame goes out, and the command completes when every fate is known, or at A + TOL + REPLY_WAIT (R373 to R375,
R380, R381, R394). A Distaff in LIGHT is woken by the start (R70, R87), and throttling holds back only a burst that holds leave (R78).
That this wake takes no time, how a walk ends, and that it goes on within one step are the model's choices (assumption log, entries 38,
70 and 11); so it is that what is not due changes nothing (entry 2). -/
def Obligations.FanoutCommands : Prop :=
  ∀ (s : State) (k : Nat) (w : Fin 256) (h : Share) (m : FanCmd), let c := s.chip
    c.share? k = some h → h.cmd = some m →
    let live := c.opLive m.tag = true ∧ (c.op m.tag).perst = false
    let ended (d : Chip) (status : Nat) : Prop := d.share? k = none ∧
      (live → d.tagState m.tag = lgDONE ∧ d.fld HOSTQ.LEDGER_ENTRY0_STATUS 0 m.tag = status)
    let waits := m.phase = .waiting
    let start : Int := h.apply * 2 ^ 26 - (m.leadMs * msQ : Nat)
    let late := h.expired = true ∨ h.apply * 2 ^ 26 + (c.fld DISTAFF.APPLY_LATE_TOL_NS * nsQ : Nat) < c.net
    let heavy := 4096 < c.groupTotal m.group
    let asks := c.dom .core = domON ∧ waits ∧ h.asked = false ∧ heavy ∧ start - (msQ : Nat) ≤ c.net
    let starts := c.dom .core = domON ∧ waits ∧ c.running = true ∧ ¬ (c.throttled = true ∧ c.leaveHeld (.fanout k) = true) ∧
      start ≤ c.net ∧ ¬ late ∧ (heavy → c.leaveHeld (.fanout k) = true)
    let ga := c.groupAddr m.group
    let gw (j : Nat) := leNat (Tab.slice 0 c.dram (ga + 4 * j) 4)
    let first := bitsOf (gw 0) 24 0
    let ea := c.dirAddr first
    let ew (j : Nat) := leNat (Tab.slice 0 c.dram (ea + 4 * j) 4)
    let value := min 0xFFFF (m.value * bitsOf (ew 2) 15 0 / 32768)
    let walked (d : Chip) (f : FanCmd → Prop) : Prop := ∃ h' m', d.share? k = some h' ∧ h'.cmd = some m' ∧ m'.phase = .walked ∧
      m'.seen = m.seen + 1 ∧ f m'
    let replyBy : Int := h.apply * 2 ^ 26 + (c.fld DISTAFF.APPLY_LATE_TOL_NS * nsQ + c.fld DISTAFF.REPLY_WAIT_MS * msQ : Nat)
    (asks → Ends (.fanoutLeaveRequest k) s fun d =>
      (c.leaveAnswer (.fanout k) = .refused → ended d csNOLEAVE ∧ c.Tells d EV.POWER_LEAVE_IMPOSSIBLE) ∧
      (c.leaveAnswer (.fanout k) = .queued → d.share? k = some { h with asked := true } ∧ d.leaveWaiting (.fanout k) = true) ∧
      (c.leaveAnswer (.fanout k) = .granted → d.share? k = some { h with asked := true } ∧ d.leaveHeld (.fanout k) = true)) ∧
    (¬ asks → Idles (.fanoutLeaveRequest k) s) ∧
    (waits → late → Ends (.fanoutApplyExpired k) s fun d => ended d csAPPLYEXPIRED ∧ d.leaveWaiting (.fanout k) = false) ∧
    (¬ (waits ∧ late) → Idles (.fanoutApplyExpired k) s) ∧
    (starts → h.stalled = false → m.seen < 65536 → m.opens = [] → ga + 16 ≤ c.dramSize →
      (bitsOf (gw 0) 31 31 = 0 → Ends (.fanoutStart k []) s fun d => walked d (fun x => x.groupInvalid = true) ∧ d.dram = c.dram ∧
        d.leaveHeld (.fanout k) = false ∧ Tab.get false d.modes.laneLight 11 = false ∧
        (Tab.get false c.modes.laneLight 11 = true → c.Tells d EV.POWER_WAKE_DONE)) ∧
      (bitsOf (gw 0) 31 31 = 1 → bitsOf (gw 1) 25 0 = 1 → (m.noDesc = true ∨ bitsOf (gw 2) 15 0 = m.group) → ea + 16 ≤ c.dramSize →
        bitsOf (ew 0) 24 0 = first → bitsOf (ew 3) 24 0 = first →
        (bitsOf (ew 1) 31 31 = 0 → Ends (.fanoutStart k []) s fun d => c.Counts d DISTAFF.DIR_INVALID_COUNT ∧ d.dram = c.dram ∧
          walked d fun x => x.matched = m.matched) ∧
        (bitsOf (ew 1) 31 31 = 1 → bitsOf (ew 1) 14 8 ≤ 95 → (m.typ = 0xFF ∨ m.typ = bitsOf (ew 0) 31 25) → bitsOf (ew 1) 7 0 = 0 →
          Ends (.fanoutStart k []) s fun d => (walked d fun x => x.matched = m.matched + 1) ∧
            leNat (Tab.slice 0 d.dram (ea + 8) 4) / 65536 = value ∧
            ∀ a, (a < ea ∨ ea + 16 ≤ a) → Tab.get 0 d.dram a = Tab.get 0 c.dram a))) ∧
    (¬ starts → Idles (.fanoutStart k []) s) ∧
    (let o := Tab.get {} m.opens w.val;
      let idle := c.dom .core = domON ∧ o.items ≠ [] ∧ o.last + 100 * usQ ≤ c.now
      (idle → Ends (.fanoutFrameIdleSend k w) s fun d => d.nextSeq w.val = (c.nextSeq w.val + 1) % 65536 ∧
        ∃ h' m', d.share? k = some h' ∧ h'.cmd = some m' ∧ (Tab.get {} m'.opens w.val).items = [] ∧
          (Tab.get {} m'.opens w.val).part = o.part + 1) ∧
      (¬ idle → Idles (.fanoutFrameIdleSend k w) s)) ∧
    (c.dom .core = domON → c.fanReady k h m = true → Ends (.fanoutComplete k) s fun d => ended d (c.fanStatus k m)) ∧
    ((c.dom .core ≠ domON ∨ c.fanReady k h m = false) → Idles (.fanoutComplete k) s) ∧
    (m.phase ≠ .waiting → replyBy ≤ c.net → h.expired = true → Ends (.replyMissing k) s fun d => ended d (c.fanStatus k m) ∧
      d.fld DISTAFF.REPLY_MISSING_COUNT = (if m.missing = 0 then c.fld DISTAFF.REPLY_MISSING_COUNT
        else min (c.fld DISTAFF.REPLY_MISSING_COUNT + m.missing) (2 ^ 32 - 1)) ∧
      (m.missing ≠ 0 → c.Tells d EV.DISTAFF_REPLY_MISSING)) ∧
    ((m.phase = .waiting ∨ c.net < replyBy) → Idles (.replyMissing k) s)

/-- The shares of commands at a part: the apply event fires once at A, items expire at A + TOL, an idle payload closes into its command
queue or stalls on a full one, or is discarded and counted in TX_DROP where the segment can hold none of its size (R148, R167), room lets
it go on, and SHARE_DONE is sent RETRIES + 1 times (R385, R390, R392, R393). That a share is released after the last copy of its
SHARE_DONE is the model's reading (assumption log, entry 72); so it is that what is not due changes nothing (entry 2). -/
def Obligations.SharesRun : Prop :=
  ∀ (s : State) (k : Nat) (n : Fin 96) (h : Share), let c := s.chip
    c.share? k = some h →
    let applyNs : Int := h.apply * 2 ^ 26
    let expires := applyNs + (c.fld DISTAFF.APPLY_LATE_TOL_NS * nsQ : Nat) ≤ c.net
    let fires := h.fired = false ∧ c.fires = true ∧ applyNs ≤ c.net
    let queue (d : Chip) := (d.eng n.val).cmdq
    let done := c.dom .core = domON ∧ c.shareDoneDue k h = true
    let retries := c.fld HANK.TIMERS_RETRIES
    let again := c.dom .core = domON ∧ ∃ j, h.repeats = some j ∧ h.nextAt ≤ c.now
    (fires → Becomes (.applyEvent k) s (c.setShare k (some { h with fired := true })) [] fun _ => True) ∧
    (¬ fires → Idles (.applyEvent k) s) ∧
    (h.expired = false → expires → h.cmd = none → Ends (.commandExpire k []) s fun d =>
      (∃ h', d.share? k = some h' ∧ h'.expired = true ∧ h'.pending = []) ∧ (∀ n' g, n' < 96 → d.stage? k n' = some g → g.items = []) ∧
      (∀ n', n' < 96 → ∀ x ∈ (d.eng n').cmdq, x.share ≠ k)) ∧
    ((h.expired = true ∨ ¬ expires) → Idles (.commandExpire k []) s) ∧
    (∀ g, c.dom .core = domON → c.stage? k n.val = some g → g.closed = false → g.last + 100 * usQ ≤ c.now →
      (c.unholdable n.val (h.payload k g.items) = true → Ends (.stagingIdleClose k n) s fun d => d.stage? k n.val = none ∧
        c.Counts d SEGMENT.TX_DROP_COUNT n.val ∧ queue d = queue c ∧ (d.fatesOf k).lost = (c.fatesOf k).lost + g.items.length) ∧
      (c.unholdable n.val (h.payload k g.items) = false → (queue c).length < 64 → Ends (.stagingIdleClose k n) s fun d => d.stage? k n.val = none ∧ queue d = queue c ++ [h.payload k g.items]) ∧
      (c.unholdable n.val (h.payload k g.items) = false → 64 ≤ (queue c).length → Ends (.stagingIdleClose k n) s fun d => d.stage? k n.val = some { g with closed := true } ∧
        d.share? k = some { h with stalled := true } ∧ c.Counts d DISTAFF.QUEUE_STALLS_COUNT ∧ c.Tells d EV.DISTAFF_QUEUE_STALL ∧
        queue d = queue c)) ∧
    ((c.dom .core ≠ domON ∨ c.stage? k n.val = none ∨ ∃ g, c.stage? k n.val = some g ∧ (g.closed = true ∨ c.now < g.last + 100 * usQ)) →
      Idles (.stagingIdleClose k n) s) ∧
    (∀ g, c.dom .core = domON → c.distaff.shares = [(k, some h)] → c.stage? k n.val = some g → g.closed = true → (queue c).length < 64 →
      c.unholdable n.val (h.payload k g.items) = false → Ends (.stagingResume n []) s fun d => h.payload k g.items ∈ queue d) ∧
    (c.dom .core ≠ domON → Idles (.stagingResume n []) s) ∧
    (done → Ends (.shareDoneSend k) s fun d =>
      (retries = 0 → d.share? k = none) ∧
      (retries ≠ 0 → ∃ h', d.share? k = some h' ∧ h'.repeats = some retries ∧ h'.pending = [] ∧
        h'.nextAt = c.now + max 1 (c.fld HANK.TIMERS_ACK_TIMEOUT_US) * usQ)) ∧
    (¬ done → Idles (.shareDoneSend k) s) ∧
    (∀ j, c.dom .core = domON → h.repeats = some j → h.nextAt ≤ c.now → Ends (.shareDoneRepeat k) s fun d =>
      (j ≤ 1 → d.share? k = none) ∧ (1 < j → ∃ h', d.share? k = some h' ∧ h'.repeats = some (j - 1) ∧ h'.doneMsg = h.doneMsg)) ∧
    (¬ again → Idles (.shareDoneRepeat k) s)

/-! ### The directory, DRAM, errors, the Tally and the configuration image (chapters 11, 12 and 14) -/

/-- DIR_CMD reads or writes one entry whole at the place that DIR_SEL names; without DRAM, beyond the usable space, or on an
uncorrectable read it sets ERROR; BUSY reads 1 from then until the next AON tick, and while it does a command is counted and does nothing
else (R373, R376, R403; how long BUSY reads 1, and that a WRITE beyond the usable space sets ERROR, are the model's choices: assumption
log, entry 71). A bulk load begins with leave or is refused, writes record by record, and ends with
its last record, with ABORT or with a failed read (R377). The DRAM scrub asks for leave by the channels it names, runs, and ends when
every word is rewritten or at ABORT, which gives the leave back; no word changes its value (R71, R78, R403). How far a scrub had got at
ABORT is free within its range (entry 74), and that a read beyond the usable space counts nowhere is the model's reading (entry 70); so
it is that what is not due changes nothing (entry 2). -/
def Obligations.DirectoryAndScrub : Prop :=
  (∀ (s : State) (p : Port) (v : Word) (rec : List Word), let c := s.chip;
    let i := c.fld DISTAFF.DIR_SEL_INDEX;
    let a := if c.fld DISTAFF.DIR_SEL_KIND ≠ 0 then c.fld DISTAFF.GROUP_BASE_PAGE * 4096 + 16 * (i % 65536)
      else c.fld DISTAFF.DIR_BASE_PAGE * 4096 + 16 * i;
    let size := c.fld DRAM.STATUS_USABLE_MIB * 2 ^ 20;
    let reached := c.fld GLOBAL.ROLE_DRAM_READY ≠ 0 ∧ a + 16 ≤ size;
    let word (d : Chip) (b j : Nat) := leNat (Tab.slice 0 d.dram (b + 4 * j) 4);
    let st := c.fld DISTAFF.BULK_STATUS_STATE;
    let busy := st = 1 ∨ st = 2;
    let idle := c.fld DISTAFF.DIR_STATUS_BUSY = 0;
    let dirKeys := [DISTAFF.DIR_STATUS_ERROR.key 0 0, DISTAFF.DIR_STATUS_BUSY.key 0 0];
    let page := PageCls.distaff.base;
    let given (d : Chip) : Prop := d.leaveHeld .dirLoad = false ∧ d.leaveWaiting .dirLoad = false;
    let going := st = 2 ∧ c.throttled = false;
    let run := Instr.distaffBulkRecord (some rec);
    let lift := rec.map (·.toNat);
    let w0 := lift.getD 0 0;
    let at_ := if bitsOf w0 31 31 = 1 then c.groupAddr (bitsOf w0 24 0) else c.dirAddr (bitsOf w0 24 0);
    let skipped := lift.getD 1 0 ≠ 0 ∨ (bitsOf w0 31 31 = 1 ∧ 65535 < bitsOf w0 24 0) ∨ size < at_ + 16;
    (c.Open p .distaff 0 →
      (¬ idle → ∀ e, SetsRegs (.dirWrite p v) s (errKeys page) (fun d => c.Counted d page DISTAFF.DIR_CMD_READ.off p) ∧
        SetsRegs (.dirRead p v e) s (errKeys page) fun d => c.Counted d page DISTAFF.DIR_CMD_READ.off p) ∧
      (v.toNat % 4 = 2 → idle → reached → Ends (.dirWrite p v) s fun d => d.fld DISTAFF.DIR_STATUS_ERROR = 0 ∧
        d.fld DISTAFF.DIR_STATUS_BUSY = 1 ∧
        (∀ j, j < 4 → word d a j = c.fld DISTAFF.DIR_WORD_DATA 0 j % 2 ^ 32) ∧
        (∀ x, (x < a ∨ a + 16 ≤ x) → Tab.get 0 d.dram x = Tab.get 0 c.dram x) ∧ c.KeepsCells d dirKeys) ∧
      (v.toNat % 4 = 2 → idle → ¬ reached → SetsRegs (.dirWrite p v) s dirKeys fun d =>
        d.fld DISTAFF.DIR_STATUS_ERROR = 1) ∧
      (v.toNat % 4 = 1 → idle → reached → ∀ e : Option Bool, e ≠ some true → Ends (.dirRead p v e) s fun d => d.dram = c.dram ∧
        d.fld DISTAFF.DIR_STATUS_BUSY = 1 ∧
        d.fld DISTAFF.DIR_STATUS_ERROR = 0 ∧ (∀ j, j < 4 → d.fld DISTAFF.DIR_WORD_DATA 0 j = word c a j) ∧
        (e = some false → c.Counts d DRAM.ECC_CORR_COUNT ∧ c.Tells d EV.DRAM_ECC_CORR)) ∧
      (v.toNat % 4 = 1 → idle → reached → (∀ b ∈ c.ecc.bad, b.word ≠ .cell .dir (a / 16)) → SetsRegs (.dirRead p v (some true)) s
        (dirKeys ++ [DRAM.ECC_UNCORR_COUNT.key 0 0, DRAM.ERR_ADDR_LINE.key 0 0, EV.DRAM_ECC_UNCORR.key 0]) fun d =>
          d.fld DISTAFF.DIR_STATUS_ERROR = 1 ∧ c.Counts d DRAM.ECC_UNCORR_COUNT ∧ c.Tells d EV.DRAM_ECC_UNCORR) ∧
      (v.toNat % 4 = 1 → idle → ¬ reached → SetsRegs (.dirRead p v none) s dirKeys fun d =>
        d.fld DISTAFF.DIR_STATUS_ERROR = 1) ∧
      (v.toNat % 4 = 1 → busy → SetsRegs (.distaffBulkGo p v) s (errKeys page) fun d => c.Counted d page DISTAFF.BULK_CMD_GO.off p) ∧
      (v.toNat % 4 = 1 → ¬ busy → Ends (.distaffBulkGo p v) s fun d => d.distaff.bulkLeft = c.fld DISTAFF.BULK_COUNT_RECORDS ∧
        d.fld DISTAFF.BULK_STATUS_DONE = 0 ∧
        (c.leaveAnswer .dirLoad = .refused → d.fld DISTAFF.BULK_STATUS_STATE = 6 ∧ c.Tells d EV.DISTAFF_BULK_ERROR ∧
          c.Tells d EV.POWER_LEAVE_IMPOSSIBLE) ∧
        (c.leaveAnswer .dirLoad = .queued → d.fld DISTAFF.BULK_STATUS_STATE = 1 ∧ d.leaveWaiting .dirLoad = true)) ∧
      (v.toNat % 4 = 2 → busy → Ends (.distaffBulkAbort p v) s fun d => d.fld DISTAFF.BULK_STATUS_STATE = 5 ∧ given d ∧ d.dram = c.dram) ∧
      (v.toNat % 4 = 2 → ¬ busy → Idles (.distaffBulkAbort p v) s)) ∧
    (going → Ends (.distaffBulkRecord none) s fun d => d.fld DISTAFF.BULK_STATUS_STATE = 4 ∧ given d ∧ c.Tells d EV.DISTAFF_BULK_ERROR ∧
      d.dram = c.dram) ∧
    (going → Ends run s fun d => d.distaff.bulkLeft = c.distaff.bulkLeft - 1 ∧
      d.fld DISTAFF.BULK_STATUS_DONE = (c.fld DISTAFF.BULK_STATUS_DONE + 1) % 2 ^ 26 ∧ (skipped → d.dram = c.dram) ∧
      (¬ skipped → (∀ j, j < 4 → word d at_ j = lift.getD (2 + j) 0) ∧
        ∀ x, (x < at_ ∨ at_ + 16 ≤ x) → Tab.get 0 d.dram x = Tab.get 0 c.dram x) ∧
      (c.distaff.bulkLeft ≤ 1 → d.fld DISTAFF.BULK_STATUS_STATE = 3 ∧ given d ∧ c.Tells d EV.DISTAFF_BULK_DONE) ∧
      (1 < c.distaff.bulkLeft → d.fld DISTAFF.BULK_STATUS_STATE = 2 ∧ d.power = c.power)) ∧
    (¬ going → Idles run s ∧ Idles (.distaffBulkRecord none) s)) ∧
  (∀ (s : State) (p : Port) (v : Word) (ecc : List (Nat × Bool)), let c := s.chip;
    let page := PageCls.dram.base;
    let st := c.fld DRAM.SCRUB_STATUS_STATE;
    let mask := bitsOf v.toNat 5 4;
    let op := LeaveOp.scrub (BitVec.ofNat 2 mask);
    let ends (i : Instr) (fin : Nat) (ok : Chip → Prop) : Prop := Ends i s fun d => d.fld DRAM.SCRUB_STATUS_STATE = fin ∧
      d.leaveHeld c.scrubOp = false ∧ d.leaveWaiting c.scrubOp = false ∧ d.dram = c.dram ∧ ok d;
    let counted (d : Chip) : Prop := ∀ a bad, ecc = [(a, bad)] →
      c.Counts d (if bad then DRAM.ECC_UNCORR_COUNT else DRAM.ECC_CORR_COUNT) ∧
      c.Tells d (if bad then EV.DRAM_ECC_UNCORR else EV.DRAM_ECC_CORR);
    let runs := st = 2 ∧ c.throttled = false;
    (c.Open p .dram 0 →
      (v.toNat % 4 = 1 → (st = 1 ∨ st = 2) → SetsRegs (.scrubGo p v) s (errKeys page) fun d => c.Counted d page DRAM.SCRUB_CMD_GO.off p) ∧
      (v.toNat % 4 = 1 → st ≠ 1 → st ≠ 2 → Ends (.scrubGo p v) s fun d => d.distaff.scrub = mask ∧ d.fld DRAM.SCRUB_STATUS_DONE_MIB = 0 ∧
        (c.leaveAnswer op = .refused → d.fld DRAM.SCRUB_STATUS_STATE = 6 ∧ c.Tells d EV.POWER_LEAVE_IMPOSSIBLE) ∧
        (c.leaveAnswer op = .queued → d.fld DRAM.SCRUB_STATUS_STATE = 1 ∧ d.leaveWaiting op = true)) ∧
      (v.toNat % 4 = 2 → st = 2 → ends (.scrubAbort p v ecc) 5 fun d => d.fld DRAM.SCRUB_STATUS_DONE_MIB ≤ c.scrubMib ∧ counted d) ∧
      (v.toNat % 4 = 2 → st = 1 → ends (.scrubAbort p v ecc) 5 fun _ => True) ∧
      (v.toNat % 4 = 2 → st ≠ 1 → st ≠ 2 → Idles (.scrubAbort p v ecc) s)) ∧
    (runs → ends (.scrubDone ecc) 3 fun d => d.fld DRAM.SCRUB_STATUS_DONE_MIB = c.scrubMib % 2 ^ 24 ∧ counted d ∧
      c.Tells d EV.DRAM_SCRUB_DONE) ∧
    (¬ runs → Idles (.scrubDone ecc) s))

/-- SRAM errors are counted and recorded, and do what Table 12.7 says; a store that is fatal sets its SAFE cause (R419): a Flyer is
latched and its driver goes off, a Tally word reads all ones, a counter becomes 0 - PAGE_ERRCNT, a word of a counter set, the hit counter
that is selected, or RO fields, a 64-bit counter whole -, a packet of the buffer leaves it, and a word of a rule table, of a context or of
a lane's working store is bad for the packet whose read met it. ECC_INJECT with GO holds one injection, in place of one still pending; a
directory write takes the one for its store, and the word is bad from then on: a read of the register that shows it reports it, and answers
what is stored, or 0 for a counter (R419, R420). Which bad word a reported error met, what the read
of a bad word leaves of it, and that a packet drops where its own pass reads the word are the model's choices (assumption log, entry 84).
The segment supply monitors disable every driver, and let it be enabled again (R444). A loss of lock of the CORE PLL sets its SAFE cause
while CORE is ON (R58). What is not due changes nothing, nor does such a loss that is told of while CORE is not ON (entry 2). -/
def Obligations.ErrorsAreRecorded : Prop :=
  ∀ (s : State) (store : Fin 8) (addr : BitVec 24) (p : Port) (v : Word) (page off : BitVec 12) (n : Fin 96) (w : Fin 32) (ns : Nat), let c := s.chip
    let met (two : Bool) := c.ecc.bad.find? fun b => b.store == store.val && b.two == two && b.addr.isNone
    let taken (two : Bool) (d : Chip) : Prop := c.ecc.inject = none → d.ecc.inject = none ∧ (met two = none → d.ecc.bad = c.ecc.bad) ∧
      ∀ b, met two = some b → d.ecc.bad = if two then c.ecc.bad.map fun x => if x = b then { b with addr := some addr.toNat } else x
        else c.ecc.bad.erase b
    let isBad (d : Chip) (w : SramWord) (id : Nat) : Prop :=
      ({ store := store.val, word := w, two := true, addr := some addr.toNat, told := some id } : BadWord) ∈ d.ecc.bad
    let last (d : Chip) (uncorr : Nat) : Prop := d.fld GLOBAL.ECC_LAST_STORE = store.val ∧ d.fld GLOBAL.ECC_LAST_UNCORR = uncorr ∧
      d.fld GLOBAL.ECC_LAST_ADDR = addr.toNat
    let lastKeys := [GLOBAL.ECC_LAST_STORE.key 0 0, GLOBAL.ECC_LAST_UNCORR.key 0 0, GLOBAL.ECC_LAST_ADDR.key 0 0]
    let one (r : FieldRow) (d : Chip) : Prop := d.fld r 0 store.val = min (c.fld r 0 store.val + 1) (2 ^ 32 - 1)
    let fatal := (store.val = 5 ∨ store.val = 6) ∨ (c.fld GLOBAL.ECC_CFG_FATAL_MASK).testBit store.val = true
    SetsRegs (.sramEccError store addr false .nothing) s
      (lastKeys ++ [GLOBAL.ECC_CORR_COUNT.key 0 store.val, EV.GLOBAL_ECC_CORR.key 0]) (fun d => last d 0 ∧ taken false d ∧ one GLOBAL.ECC_CORR_COUNT d ∧
        c.Tells d EV.GLOBAL_ECC_CORR) ∧
    SetsRegs (.sramEccError store addr true .nothing) s
      (lastKeys ++ [GLOBAL.ECC_UNCORR_COUNT.key 0 store.val, EV.GLOBAL_ECC_UNCORR.key 0, GLOBAL.SAFE_CAUSE_ECC_FATAL.key 0 0]) (fun d =>
        last d 1 ∧ taken true d ∧ one GLOBAL.ECC_UNCORR_COUNT d ∧ c.Tells d EV.GLOBAL_ECC_UNCORR ∧
        (fatal → d.fld GLOBAL.SAFE_CAUSE_ECC_FATAL = 1 ∧ c.Tells d EV.GLOBAL_ECC_FATAL) ∧
        (¬ fatal → d.fld GLOBAL.SAFE_CAUSE_ECC_FATAL = c.fld GLOBAL.SAFE_CAUSE_ECC_FATAL)) ∧
    (store.val = 7 →
      Ends (.sramEccError store addr true (.flyer n)) s (fun d => last d 1 ∧ d.fld FLYER.TX_STATUS_LATCHED n.val ≠ 0 ∧
        (c.fld FLYER.TX_STATUS_LATCHED n.val = 0 → c.Counts d FLYER.LATCHES_COUNT n.val ∧ d.fld FLYER.FAULT_STATUS_TX_LATCHED n.val = 1 ∧
          (d.fly n.val).tx = none ∧ ((c.fly n.val).tx.isSome = true → d.fld FLYER.TX_STATUS_DRIVER_ON n.val = 0))) ∧
      Ends (.sramEccError store addr true (.tallyWord w)) s (fun d => last d 1 ∧ d.tallyWord w.val = 0xFFFFFFFF) ∧
      (∀ cls m, pageOf page.toNat = some (cls, m) → let o := off.toNat
        let set := cls = .ply ∧ 0x080 ≤ o ∧ o < 0x0AC
        let hit := cls = .rulewin ∧ (o = 0x0A0 ∨ o = 0x0A4) ∧ c.fld RULEWIN.ENTRY_SEL_TABLE = 2
        Ends (.sramEccError store addr true (.counter page off)) s fun d =>
          (o = HDR.ERRCNT_COUNT.off → d.hdr HDR.ERRCNT_COUNT page.toNat = 0) ∧
          (set → d.setW (c.fld PLY.CNT_SEL_INDEX) ((o - 0x080) / 4) = 0) ∧
          (hit → Tab.get 0 d.carder.hits (c.fld RULEWIN.ENTRY_SEL_INDEX) = 0) ∧
          (o ≠ HDR.ERRCNT_COUNT.off → ¬ set → ¬ hit → ∀ h ∈ c.fieldsAt cls o, h.1.acc = .ro → h.1.key m h.2 ∉ levelKeys →
            d.fld h.1 m h.2 = 0) ∧
          (cls = .uplink → o = 0x104 ∨ o = 0x108 → d.fld UPLINK.TX_OCTETS_LO_COUNT m = 0 ∧ d.fld UPLINK.TX_OCTETS_HI_COUNT m = 0) ∧
          (cls = .uplink → o = 0x110 ∨ o = 0x114 → d.fld UPLINK.RX_OCTETS_LO_COUNT m = 0 ∧ d.fld UPLINK.RX_OCTETS_HI_COUNT m = 0))) ∧
    (∀ (t : Fin 6) (bank : Fin 2) (i x id : Nat), store.val = tableStore t.val →
      Ends (.sramEccError store addr true (.tableWord t bank i x id)) s fun d => last d 1 ∧ d.carder = c.carder ∧
        isBad d (.table t.val (if t.val < 3 then 0 else bank.val) i x) id) ∧
    (∀ (i : BitVec 18) (x : Fin 16) (id : Nat), store.val = 0 →
      Ends (.sramEccError store addr true (.ctxWord i x id)) s fun d => last d 1 ∧ d.reel = c.reel ∧
        isBad d (.cell .ctx (16 * i.toNat + x.val)) id) ∧
    (∀ id, (store.val = 1 → c.holdsPacket id = true → Ends (.sramEccError store addr true (.packet id)) s fun d => last d 1 ∧
        d.holdsPacket id = false) ∧
      (store.val = 7 → c.onLane id = true → Ends (.sramEccError store addr true (.packet id)) s fun d => last d 1 ∧
        d.carder = c.carder ∧ isBad d (.work id) id)) ∧
    (c.Open p .distaff 0 → c.fld DISTAFF.DIR_STATUS_BUSY = 0 → v.toNat % 4 = 2 → ∀ two, c.ecc.inject = some (4, two) →
      let a := c.dirSelAddr
      let reached := c.fld GLOBAL.ROLE_DRAM_READY ≠ 0 ∧ a + 16 ≤ c.fld DRAM.STATUS_USABLE_MIB * 2 ^ 20
      Ends (.dirWrite p v) s fun d => (reached → d.ecc.inject = none ∧
        d.ecc.bad = c.ecc.bad.filter (·.word != .cell .dir (a / 16)) ++ [{ store := 4, word := .cell .dir (a / 16), two := two }]) ∧
        (¬ reached → d.ecc = c.ecc)) ∧
    (∀ (cls : PageCls) (m o : Nat) (pa : PageAddr) (b : BadWord) (a : Nat), c.Open p cls m → cls ∉ [.global, .dram] →
      pa.toNat = (cls.base + m) * 4096 + o → o < 4096 → o % 4 = 0 → c.readsLo cls o = false → c.latchedFor p cls m o = none →
      c.ecc.bad.filter (fun x => c.shows cls m o x.word) = [b] → b.store = store.val → b.place = some a → b.told = none →
      Ends (.loReadLatch p pa 15) s fun d =>
        d.fld GLOBAL.ECC_LAST_STORE = store.val ∧ d.fld GLOBAL.ECC_LAST_ADDR = a % 2 ^ 24 ∧
        (b.two = false → one GLOBAL.ECC_CORR_COUNT d ∧ c.Tells d EV.GLOBAL_ECC_CORR ∧ b ∉ d.ecc.bad) ∧
        (b.two = true → one GLOBAL.ECC_UNCORR_COUNT d ∧ c.Tells d EV.GLOBAL_ECC_UNCORR) ∧
        (cls = .segment → 0x800 ≤ o → (d.portState p).data = c.readValue cls m o &&& 0xFFFFFFFF) ∧
        (cls = .ply → 0x080 ≤ o → o < 0x0AC → b.two = true → (∃ k, b.word = .cell .sets k) →
          d.setW (c.fld PLY.CNT_SEL_INDEX) ((o - 0x080) / 4) = 0 ∧ (d.portState p).data = 0) ∧
        (cls = .flyer → b.two = true → (∃ k, b.word = .cell .flyTurns k) → d.fld FLYER.TX_STATUS_LATCHED m ≠ 0)) ∧
    (c.Open p .global 0 →
      (bitsOf v.toNat 31 31 = 1 → SetsRegs (.eccInject p v) s [] fun d =>
        d.ecc = { c.ecc with inject := some (bitsOf v.toNat 2 0, v.toNat.testBit 4) }) ∧
      (bitsOf v.toNat 31 31 = 0 → Idles (.eccInject p v) s)) ∧
    (1000 ≤ ns → Ends (.segSupplyFault ns) s fun d => d.modes = { c.modes with segSupplyBad := true } ∧
      (∀ k, k < 96 → (d.fly k).tx = none) ∧ d.segBuf = c.segBuf ∧ d.hdr HDR.EVT PageCls.global.base = c.hdr HDR.EVT PageCls.global.base) ∧
    (ns < 1000 → Idles (.segSupplyFault ns) s) ∧
    (100000 ≤ ns → Becomes (.segSupplyRecover ns) s { c with modes := { c.modes with segSupplyBad := false } } [] fun _ => True) ∧
    (ns < 100000 → Idles (.segSupplyRecover ns) s) ∧
    (c.dom .core = domON → Becomes .corePllUnlock s { c with modes := { c.modes with corePllLock := false } }
      [GLOBAL.SAFE_CAUSE_CORE_PLL.key 0 0, EV.GLOBAL_CORE_PLL_UNLOCK.key 0] fun d => d.fld GLOBAL.SAFE_CAUSE_CORE_PLL = 1 ∧
        c.Tells d EV.GLOBAL_CORE_PLL_UNLOCK) ∧
    (c.dom .core ≠ domON → Idles .corePllUnlock s)

/-- A bus timeout sets its SAFE cause, records the access in BUS_ERR, and raises BUS_TIMEOUT; a read that times out answers 0 to its port,
and a write that times out changes nothing else. A loss of lock of the CORE PLL raises CORE_PLL_UNLOCK in the step in which it sets its
cause (R422). -/
def Obligations.BusTimeoutsAndThePll : Prop :=
  ∀ (s : State) (page off : BitVec 12) (p : Port), let c := s.chip
    let own := [GLOBAL.BUS_ERR_PAGE, GLOBAL.BUS_ERR_OFFSET, GLOBAL.BUS_ERR_PORT, GLOBAL.BUS_ERR_VALID,
      GLOBAL.SAFE_CAUSE_INTERNAL_BUS].map (fun r => r.key 0 0) ++ [EV.GLOBAL_BUS_TIMEOUT.key 0]
    let told (d : Chip) : Prop := d.BusErrIs page.toNat off.toNat p ∧ d.fld GLOBAL.SAFE_CAUSE_INTERNAL_BUS = 1 ∧
      c.Tells d EV.GLOBAL_BUS_TIMEOUT
    SetsPort (.busTimeout page off p true) s p { c.portState p with data := 0 } own told ∧
    SetsRegs (.busTimeout page off p false) s own told ∧
    Ends .corePllUnlock s fun d => c.fld GLOBAL.SAFE_CAUSE_CORE_PLL = 0 → d.fld GLOBAL.SAFE_CAUSE_CORE_PLL ≠ 0 →
      c.Tells d EV.GLOBAL_CORE_PLL_UNLOCK

/-- The thermal monitor keeps the highest of four sensors and its peak; it warns, trips and clears at its thresholds, and the SAFE cause
holds until MAX falls below TRIP − HYST (R58, R421). THERM_PEAK with CLEAR takes MAX. Temperatures are read as signed (Table 12.9),
the thresholds as numbers from 0 up (the model's reading: assumption log, entry 85). A sample that is not due changes nothing
(entry 2). -/
def Obligations.ThermalMonitor : Prop :=
  ∀ (s : State) (t0 t1 t2 t3 : BitVec 12) (p : Port) (v : Word), let c := s.chip
    let l := [t0.toInt, t1.toInt, t2.toInt, t3.toInt]
    let m := max (max t0.toInt t1.toInt) (max t2.toInt t3.toInt)
    let due := c.mode ≠ mRESET ∧ c.modes.thermAt + 100 * usQ ≤ c.now
    let trip : Int := (min 460 (c.fld GLOBAL.THERM_CFG_TRIP) : Nat)
    let clr : Int := trip - (4 * max 1 (c.fld GLOBAL.THERM_CFG_HYST) : Nat)
    let prev := signed 12 (c.fld GLOBAL.THERM_TEMP_MAX)
    (due → Ends (.thermalSample t0 t1 t2 t3) s fun d => signed 12 (d.fld GLOBAL.THERM_TEMP_MAX) = m ∧
      l.getD (d.fld GLOBAL.THERM_TEMP_SENSOR) 0 = m ∧ signed 12 (d.fld GLOBAL.THERM_PEAK_MAX) = max (signed 12 (c.fld GLOBAL.THERM_PEAK_MAX)) m ∧
      ((c.fld GLOBAL.THERM_CFG_WARN : Int) ≤ m → c.modes.thermWarned = false → c.Tells d EV.GLOBAL_THERMAL_WARN) ∧
      (trip ≤ m → d.fld GLOBAL.SAFE_CAUSE_THERMAL = 1 ∧ (prev < trip → c.Tells d EV.GLOBAL_THERMAL_TRIP)) ∧
      (c.modes.thermTripped = true → clr ≤ m → d.fld GLOBAL.SAFE_CAUSE_THERMAL = 1) ∧
      (c.modes.thermTripped = true → m < clr → d.modes.thermTripped = false ∧ c.Tells d EV.GLOBAL_THERMAL_CLEAR) ∧
      ((m < (c.fld GLOBAL.THERM_CFG_WARN : Int) ∨ c.modes.thermWarned = true) → m < trip → (c.modes.thermTripped = false ∨ clr ≤ m) →
        d.hdr HDR.EVT PageCls.global.base = c.hdr HDR.EVT PageCls.global.base) ∧
      c.SameStores d ∧ d.power = c.power) ∧
    (¬ due → Idles (.thermalSample t0 t1 t2 t3) s) ∧
    (c.Open p .global 0 →
      (bitsOf v.toNat 31 31 = 1 → SetsRegs (.thermPeakClear p v) s [GLOBAL.THERM_PEAK_MAX.key 0 0] fun d =>
        d.fld GLOBAL.THERM_PEAK_MAX = c.fld GLOBAL.THERM_TEMP_MAX % 2 ^ 12) ∧
      (bitsOf v.toNat 31 31 = 0 → Idles (.thermPeakClear p v) s))

/-- A write of 1 to a bit of WORDw clears the event bit of its source, whether or not it is enabled, unless hardware has set it in this
clock (R18), and nothing else: no other source, no other register, and of the Tally array only the mark of this word (R426). At a
boundary the mirror writes header, words, header with SEQ S + 1 and S + 2 when the snapshot has changed, KEEPALIVE is over, FORCE is
pending or it is the first; a boundary that falls in a write is skipped and counted; an error is reported, and the next boundary writes
(R427, R428). That a write of 1 to any bit clears the mark of a bad word, and that BUSY reads 1 until the next boundary, are the model's
choices (assumption log, entry 83); so it is that what is not due changes nothing (entry 2). -/
def Obligations.TallyAndMirror : Prop :=
  ∀ (s : State) (p : Port) (w : Fin 32) (v : Word) (err : Fin 3), let c := s.chip
    let b := c.mirrorBoundary
    let due := c.mirror.boundaryUs < b
    let us := max 1 (min 1000000 (c.fld TALLY.MIRROR_PERIOD_US))
    let a := c.fld TALLY.MIRROR_ADDR_LO_ADDR * 64 + c.fld TALLY.MIRROR_ADDR_HI_ADDR * 2 ^ 32
    let next : Mirror := { c.mirror with boundaryUs := b, periodUs := us, addr := a, since := c.mirror.since + 1 }
    let on := c.fld TALLY.MIRROR_CFG_EN ≠ 0 ∧ c.dom .host = domON ∧ c.modes.perst = false ∧ c.mode ≠ mSAFE
    let snap := c.tallySummary :: (List.range 32).map c.tallyWord
    let keep := c.fld TALLY.MIRROR_CFG_KEEPALIVE
    let writes := c.mirror.last ≠ some snap ∨ (keep ≠ 0 ∧ keep ≤ c.mirror.since + 1) ∨ c.mirror.force = true ∨ c.mirror.first = true
    let q := c.fld TALLY.MIRROR_SEQ_SEQ
    let header (k : Nat) : HostWrite := { addr := a % 2 ^ 64, bytes := c.mirrorHeader (q + k) c.tallySummary }
    let words : HostWrite := { addr := (a + 64) % 2 ^ 64, bytes := ((List.range 32).map c.tallyWord).flatMap fun x => leBytes 4 x }
    (c.Open p .tally 0 →
      (c.hostq.allQ = c.allQuiescent → Becomes (.tallyWordClear p w v) s
        (if v = 0 then c else { c with mirror := { c.mirror with bad := c.mirror.bad.filter (· ≠ w.val) } })
        ((wordSrcs w.val).filterMap fun e => e.2.cell) fun d =>
          (∀ e ∈ wordSrcs w.val, (v.toNat.testBit e.1 = true → d.srcEvt e.2 = (c.srcEvt e.2 && c.srcSet e.2)) ∧
            (v.toNat.testBit e.1 = false → d.srcEvt e.2 = c.srcEvt e.2)) ∧
          ∀ w' e, w' < 32 → e ∈ wordSrcs w' → e.2 ∉ (wordSrcs w.val).map (·.2) → d.srcEvt e.2 = c.srcEvt e.2) ∧
      (v.toNat % 2 = 1 → Becomes (.mirrorForce p v) s { c with mirror := { c.mirror with force := true } } [] fun _ => True) ∧
      (v.toNat % 2 = 0 → Idles (.mirrorForce p v) s)) ∧
    (¬ due → ∀ busy e, Idles (.tallyMirrorBoundary busy e) s) ∧
    (due → ¬ on → ∀ busy e, Becomes (.tallyMirrorBoundary busy e) s { c with mirror := { next with busy := busy } } [] fun _ => True) ∧
    (due → on → ∀ e, Becomes (.tallyMirrorBoundary true e) s { c with mirror := { next with busy := true } } [TALLY.MIRROR_SKIPS_COUNT.key 0 0] fun d =>
      c.Counts d TALLY.MIRROR_SKIPS_COUNT) ∧
    (due → on → ¬ writes → ∀ e, Becomes (.tallyMirrorBoundary false e) s { c with mirror := { next with busy := false } } [] fun _ => True) ∧
    (due → on → writes → Becomes (.tallyMirrorBoundary false none) s
      { c with mirror := { next with force := false, last := some snap, since := 0, first := false, busy := true },
               hostWrites := c.hostWrites ++ [header 1, words, header 2] } [TALLY.MIRROR_SEQ_SEQ.key 0 0] fun d =>
        d.fld TALLY.MIRROR_SEQ_SEQ = (q + 2) % 2 ^ 32) ∧
    (due → on → writes → Ends (.tallyMirrorBoundary false (some err)) s fun d => d.fld TALLY.MIRROR_STATUS_ERR = 1 ∧
      c.Counts d TALLY.MIRROR_ERRORS_COUNT ∧ c.Tells d EV.GLOBAL_MIRROR_ERROR ∧ d.mirror.first = true ∧ d.mirror.force = false)

/-- Pass 1 ends in WAIT or in the first error of Table 14.3; pass 2 begins when CORE, the segments and DRAM are ready; each record is
carried out and counted, and the CRC is judged after the last; a WRITE that meets a page that is down ends the load, and so does one of
SLEEP, which leaves ACQUIRE and counts as applied. RETRY and RELEASE need the key and an error (R462 to R467). A part whose image failed pass 1 starts no more by itself (R55, R464). What is not due changes
nothing (assumption log, entry 2). -/
def Obligations.ImageLoads : Prop :=
  ∀ (s : State) (p : Port) (octets : List Byte) (w0 w1 : Word) (v : Word), let c := s.chip
    let st := c.fld GLOBAL.IMAGE_STATUS_STATE
    let k := imageCause octets
    let failed (d : Chip) (cause : Nat) : Prop := d.fld GLOBAL.IMAGE_STATUS_STATE = 5 ∧ d.fld GLOBAL.IMAGE_STATUS_CAUSE = cause ∧
      c.Tells d EV.GLOBAL_IMAGE_ERROR
    let due2 := c.mode = mACQUIRE ∧ st = 2 ∧ c.dom .core = domON ∧ c.dom .seg = domON ∧ c.modes.dramTrainingDone = true
    let takes := c.mode = mACQUIRE ∧ st = 3 ∧ c.image.waitUntil = none
    let crc := crcRun c.image.crcRun (leBytes 4 w0.toNat ++ leBytes 4 w1.toNat)
    let count := c.fld GLOBAL.IMAGE_STATUS_RECORDS
    let done (d : Chip) : Prop := d.fld GLOBAL.IMAGE_STATUS_STATE = 4 ∧ d.fld GLOBAL.IMAGE_STATUS_HOLD = 0 ∧ c.Tells d EV.GLOBAL_IMAGE_DONE
    let good (x : Nat) := x ^^^ 0xFFFFFFFF = c.image.crc
    let ended := st = 3 ∧ ∃ t, c.image.waitUntil = some t ∧ t ≤ c.now
    let key := bitsOf v.toNat 31 16 = 0x494D
    let refused (i : Instr) : Prop := SetsRegs i s (errKeys 0) fun d => c.Counted d 0 GLOBAL.IMAGE_CMD_KEY.off p
    (st = 1 → Ends (.imagePass1Done octets) s fun d => d.SameStores c ∧
      (k ≠ 0 → failed d k ∧ d.modes.freshStandby = false) ∧
      (k = 0 → d.fld GLOBAL.IMAGE_STATUS_STATE = 2 ∧ d.image.count = bitsOf (imageWord octets 2) 15 0 ∧ d.image.crc = imageWord octets 3 ∧
        (c.mode = mACQUIRE → d.fld GLOBAL.IMAGE_STATUS_HOLD = 1) ∧
        d.modes.autoStartDue = (c.mode == mSTANDBY && c.modes.freshStandby && c.on GLOBAL.MODE_CFG_AUTO_RUN))) ∧
    (st ≠ 1 → Idles (.imagePass1Done octets) s) ∧
    (due2 → Becomes (.imagePass2Start octets) s
      { c with image := { c.image with crcRun := crcRun 0xFFFFFFFF (octets.take 12), waitUntil := none } }
      [GLOBAL.IMAGE_STATUS_STATE.key 0 0, GLOBAL.IMAGE_STATUS_RECORDS.key 0 0] fun d => d.fld GLOBAL.IMAGE_STATUS_STATE = 3 ∧
        d.fld GLOBAL.IMAGE_STATUS_RECORDS = 0) ∧
    (¬ due2 → Idles (.imagePass2Start octets) s) ∧
    (takes → bitsOf w0.toNat 27 24 = 1 → Becomes (.imageRecord w0 w1) s
      { c with image := { c.image with crcRun := crc, waitUntil := some (c.now + w1.toNat * usQ) } }
      [GLOBAL.IMAGE_STATUS_RECORDS.key 0 0] fun d => d.fld GLOBAL.IMAGE_STATUS_RECORDS = (count + 1) % 65536) ∧
    (∀ off, takes → bitsOf w0.toNat 27 24 = 0 → c.Open .image .power 0 → bitsOf w0.toNat 23 0 = PageCls.power.base * 4096 + off →
      0x040 ≤ off → off < 4096 → off % 4 = 0 → off ≠ POWER.CEILING_TOKENS.off → count < 65535 → Ends (.imageRecord w0 w1) s fun d =>
        (∀ h ∈ c.fieldsAt .power off, h.1.acc = .rw → d.fld h.1 0 h.2 = bitsOf w1.toNat h.1.hi h.1.lo) ∧
        d.fld GLOBAL.IMAGE_STATUS_RECORDS = count + 1 ∧ d.image.crcRun = crc ∧
        (count + 1 < c.image.count → d.fld GLOBAL.IMAGE_STATUS_STATE = 3) ∧ (c.image.count ≤ count + 1 → good crc → done d) ∧
        (c.image.count ≤ count + 1 → ¬ good crc → failed d 6)) ∧
    (takes → bitsOf w0.toNat 27 24 = 0 → c.meetsDown (bitsOf w0.toNat 23 0 / 4 * 4) = true → Ends (.imageRecord w0 w1) s fun d =>
      failed d 5 ∧ d.fld GLOBAL.IMAGE_STATUS_RECORDS = count) ∧
    (takes → w0.toNat = GLOBAL.MODE_CMD_KEY.off → w1.toNat = 0x4D440001 → c.Open .image .global 0 → c.safeDue = false → c.maySleep = true →
      Ends (.imageRecord w0 w1) s fun d => d.mode = mSTANDBY ∧ failed d 7 ∧ d.fld GLOBAL.IMAGE_STATUS_HOLD = 0 ∧
        d.fld GLOBAL.IMAGE_STATUS_RECORDS = (count + 1) % 65536) ∧
    (¬ takes → Idles (.imageRecord w0 w1) s) ∧
    (ended → Ends .imageWaitExpiry s fun d => d.image.waitUntil = none ∧
      (count < c.image.count → d.fld GLOBAL.IMAGE_STATUS_STATE = 3) ∧ (c.image.count ≤ count → good c.image.crcRun → done d) ∧
      (c.image.count ≤ count → ¬ good c.image.crcRun → failed d 6)) ∧
    (¬ ended → Idles .imageWaitExpiry s) ∧
    (c.Open p .global 0 →
      (key → v.toNat % 4 = 1 → st = 5 → (c.mode = mSTANDBY ∨ c.mode = mACQUIRE) → SetsRegs (.imageRetry p v) s
        [GLOBAL.IMAGE_STATUS_STATE.key 0 0, GLOBAL.IMAGE_STATUS_CAUSE.key 0 0, GLOBAL.IMAGE_STATUS_RECORDS.key 0 0] fun d =>
          d.fld GLOBAL.IMAGE_STATUS_STATE = 1 ∧ d.fld GLOBAL.IMAGE_STATUS_CAUSE = 0 ∧ d.fld GLOBAL.IMAGE_STATUS_RECORDS = 0) ∧
      (key → v.toNat % 4 = 2 → st = 5 → c.fld GLOBAL.IMAGE_STATUS_HOLD ≠ 0 → SetsRegs (.imageRelease p v) s
        [GLOBAL.IMAGE_STATUS_HOLD.key 0 0] fun d => d.fld GLOBAL.IMAGE_STATUS_HOLD = 0) ∧
      ((¬ key ∨ st ≠ 5) → refused (.imageRetry p v) ∧ refused (.imageRelease p v)))

/-- Right after reset the queue is empty, no event is raised, no error counted, and these registers hold the values of their Reset
column: the part is in STANDBY, its domains as Table 02.2 has them, its power and time registers at their defaults, no lock, no segment
joined, no queue in service. That no event of the power-on reset and of the release of RESET is in EVT, and that the state after reset is
the STANDBY that the release leaves, are the model's choices (assumption log, entries 4 and 87). -/
def Obligations.ResetValues : Prop :=
  State.reset.pending = [] ∧ State.reset.chip.now = 0 ∧ State.reset.chip.hostWrites = [] ∧
    (∀ page, State.reset.chip.hdr HDR.EVT page = 0 ∧ State.reset.chip.hdr HDR.ERRCNT_COUNT page = 0) ∧
    (∀ n, n < 96 → State.reset.chip.seg n = sgDISABLED ∧ State.reset.chip.fld FLYER.TX_STATUS_LATCHED n = 0) ∧
    (∀ n, n < 4 → State.reset.chip.fld UPLINK.LINK_STATUS_STATE n = 0 ∧ State.reset.chip.fld REELGATE.ADMIN_CYCLE_NS_NS n = 1000000) ∧
    (∀ q, q < 256 → State.reset.chip.fld HOSTQ.SQ_STATUS_STATE 0 q = 0) ∧
    ∀ e ∈ [(GLOBAL.MODE_MODE, 1), (GLOBAL.WDOG_REMAIN_COUNT, 1000000), (GLOBAL.ECC_CFG_FATAL_MASK, 96), (GLOBAL.THERM_CFG_TRIP, 460),
        (POWER.DOMAIN_STATE_AON, 3), (POWER.DOMAIN_STATE_CORE, 1), (POWER.DOMAIN_STATE_HOST, 4), (POWER.COMMITTED_TOKENS, 62),
        (WHORL.STEP_CFG_SLEW_PPM, 500), (WHORL.LOCK_CFG_LOCK_THRESH_NS, 50), (TALLY.MIRROR_PERIOD_US, 100), (TALLY.MIRROR_SEQ_SEQ, 0),
        (CARDER.BANK_STATUS_BANK_FREE, 1), (CARDER.BANK_STATUS_INIT_DONE, 0), (REEL.PORT_LIMITS_UPL_LIMIT, 8192),
        (REEL.XOFF_CFG_XON_CELLS, 4096), (DISTAFF.CFG_LATCH_GUARD_US, 1000), (HANK.C7_RES_CIR, 10000),
        (HANK.TIMEOUTS_PEER_TIMEOUT_MS, 500), (HANK.WT_SEL_WORKER, 1)],
      State.reset.chip.fld e.1 = e.2
end

