-- ==== Sys2Proof/Laws/Exec.lean ====
section
/-!
SUPPORT. Laws/Exec.lean: what `exec` and `step` can answer at all: a settled change of the block with the queue left alone, the
fault of a misaligned access, or the refusal of an ill-formed command.
-/
namespace Sys2Proof.Machine

/-- A well-formed command on a word-aligned register answers a settled block, with the queue left alone. -/
theorem exec_answers (c : Instr) (s : State) (hw : c.wf = true) (ha : c.aligned = true) :
    ∃ d : Chip, exec c s = .next { s with chip := d.settle } := by
  cases c <;> first
    | exact ⟨_, rfl⟩
    | (simp only [exec, Instr.wf, Instr.aligned, execRegisterWrite, execPartialByteWrite, execLoReadLatch, execLoWriteStage,
         execHiWriteCommit, execOffDomainAccess, execLightDomainAccess, runAligned, beq_iff_eq] at *
       simp only [hw, ha, if_true]
       exact ⟨_, rfl⟩)

/-- An ill-formed command is refused. -/
theorem exec_illFormed (c : Instr) (s : State) (hw : c.wf = false) : exec c s = .refused .illFormed := by
  cases c <;> first
    | (simp [Instr.wf] at hw; done)
    | (simp only [exec, execPartialByteWrite, execLoReadLatch, Instr.wf] at hw ⊢
       simp [hw])

/-- A command on a register address that is not word-aligned faults. -/
theorem exec_misaligned (c : Instr) (s : State) (hw : c.wf = true) (ha : c.aligned = false) :
    exec c s = .fault .outsideContract := by
  cases c <;> first
    | (simp [Instr.aligned] at ha; done)
    | (simp only [exec, Instr.wf, Instr.aligned, execRegisterWrite, execPartialByteWrite, execLoReadLatch, execLoWriteStage,
         execHiWriteCommit, execOffDomainAccess, execLightDomainAccess, runAligned] at *
       simp_all)

/-- A next state of a command is a settled block with the same queue. -/
theorem exec_next (c : Instr) (s t : State) (h : exec c s = .next t) : ∃ d : Chip, t = { s with chip := d.settle } := by
  cases hw : c.wf
  · rw [exec_illFormed c s hw] at h; cases h
  · cases ha : c.aligned
    · rw [exec_misaligned c s hw ha] at h; cases h
    · obtain ⟨d, e⟩ := exec_answers c s hw ha
      rw [e] at h
      cases h
      exact ⟨d, rfl⟩

theorem State.chip_with (s : State) (d : Chip) : ({ s with chip := d } : State).chip = d := rfl

/-- A change of the block answers a settled block. -/
theorem run_chip {f : Chip → Chip} {s t : State} (h : run f s = .next t) : t.chip = (s.chip.eccTake (f s.chip)).settle := by
  rw [run_eq] at h
  have e := Host.Outcome.next.inj h
  rw [← e, State.chip_with]

theorem step_nil {s : State} (h : s.pending = []) : step s = run Chip.tick s := by rw [step, h]

theorem step_cons {s : State} {i : Instr} {r : List Instr} (h : s.pending = i :: r) : step s = exec i { s with pending := r } := by
  rw [step, h]

/-- So is a next state of a step. -/
theorem step_next (s t : State) (h : step s = .next t) : ∃ d : Chip, t.chip = d.settle := by
  cases hp : s.pending with
  | nil =>
    rw [step_nil hp] at h
    exact ⟨_, run_chip h⟩
  | cons i r =>
    rw [step_cons hp] at h
    obtain ⟨d, e⟩ := exec_next _ _ _ h
    exact ⟨d, (congrArg State.chip e).trans (State.chip_with _ _)⟩

/-! ### From a change of the block to what a command answers -/

theorem becomes_of_next {i : Instr} {s : State} {d x : Chip} {own : List Nat} {ok : Chip → Prop} (h : exec i s = .next { s with chip := x })
    (hd : d.OnlyRegs x own) (hok : ok x) : Becomes i s d own ok := ⟨_, h, rfl, hd, hok⟩

theorem ends_of_next {i : Instr} {s : State} {x : Chip} {ok : Chip → Prop} (h : exec i s = .next { s with chip := x }) (hok : ok x) :
    Ends i s ok := ⟨_, h, rfl, hok⟩

theorem becomes_of_run {i : Instr} {s : State} {f : Chip → Chip} {d : Chip} {own : List Nat} {ok : Chip → Prop}
    (h : exec i s = run f s) (hd : d.OnlyRegs (f s.chip) own) (hok : ok (s.chip.eccTake (f s.chip)).settle) :
    Becomes i s d own ok := becomes_of_next (h.trans (run_eq f s)) hd.eccTake.settle hok

theorem ends_of_run {i : Instr} {s : State} {f : Chip → Chip} {ok : Chip → Prop}
    (h : exec i s = run f s) (hok : ok (s.chip.eccTake (f s.chip)).settle) : Ends i s ok := ends_of_next (h.trans (run_eq f s)) hok

theorem runAligned_eq {addr : PageAddr} (h : addr.toNat % 4 = 0) (f : Chip → Chip) (s : State) : runAligned addr f s = run f s := by
  rw [runAligned, if_pos h]

theorem Chip.raised_settle (c : Chip) (e : Evt) (n : Nat) (h : e.key n ∉ levelKeys) : c.settle.raised e n = c.raised e n := by
  unfold Chip.raised
  rw [c.hdr_settle HDR.EVT _ h]

/-- An event that is raised is told. -/
theorem Chip.tells_raise {c d : Chip} (e : Evt) (n : Nat) (hb : e.bit < 32) (h : d.domUp e.cls.domain = c.domUp e.cls.domain) :
    c.Tells (d.raise e n) e n := fun hu => d.raised_raise e n hb (h.trans hu)

/-- PAGE_ERRCNT after an access has been counted. -/
theorem Chip.counted_errcnt (c : Chip) (page off : Nat) (p : Port) (ho : off < 4096) : c.Counted (c.errcnt page off p) page off p := by
  have e1 : HDR.ERRCNT_COUNT.key page ≠ HDR.ERRCNT_LAST_OFFSET.key page := by simp [HdrRow.key, cellKey, HDR.ERRCNT_COUNT, HDR.ERRCNT_LAST_OFFSET]
  have e2 : HDR.ERRCNT_COUNT.key page ≠ HDR.ERRCNT_LAST_PORT.key page := by simp [HdrRow.key, cellKey, HDR.ERRCNT_COUNT, HDR.ERRCNT_LAST_PORT]
  have e3 : HDR.ERRCNT_LAST_OFFSET.key page ≠ HDR.ERRCNT_LAST_PORT.key page := by simp [HdrRow.key, cellKey, HDR.ERRCNT_LAST_OFFSET, HDR.ERRCNT_LAST_PORT]
  refine ⟨?_, ?_, ?_⟩
  · rw [Chip.errcnt, Chip.hdr_setHdr_ne _ _ _ _ _ _ e2, Chip.hdr_setHdr_ne _ _ _ _ _ _ e1, Chip.hdr_setHdr_self]
    exact Nat.mod_eq_of_lt (by show _ < 2 ^ 16; omega)
  · rw [Chip.errcnt, Chip.hdr_setHdr_ne _ _ _ _ _ _ e3, Chip.hdr_setHdr_self]
    exact Nat.mod_eq_of_lt (by show _ < 2 ^ 12; omega)
  · rw [Chip.errcnt, Chip.hdr_setHdr_self]
    exact Nat.mod_eq_of_lt (by cases p <;> decide)

/-- The cells of PAGE_ERRCNT are no levels. -/
theorem errKeys_levels (page : Nat) : ∀ k ∈ errKeys page, k ∉ levelKeys := by
  intro k hk hl
  simp only [errKeys, List.mem_cons, List.not_mem_nil, or_false, HdrRow.key, cellKey, HDR.ERRCNT_COUNT, HDR.ERRCNT_LAST_OFFSET,
    HDR.ERRCNT_LAST_PORT] at hk
  have : ∀ x ∈ levelKeys, x / 65536 / 32 % 4096 ≠ 24 := by decide
  exact this k hl (by omega)

theorem Chip.counted_settle {c d : Chip} {page off : Nat} {p : Port} (h : c.Counted d page off p) : c.Counted d.settle page off p := by
  have hk := errKeys_levels page
  obtain ⟨h1, h2, h3⟩ := h
  exact ⟨(d.hdr_settle _ _ (hk _ (by simp [errKeys]))).trans h1, (d.hdr_settle _ _ (hk _ (by simp [errKeys]))).trans h2,
    (d.hdr_settle _ _ (hk _ (by simp [errKeys]))).trans h3⟩

theorem Chip.OnlyRegs.errcnt {c d : Chip} {own : List Nat} (h : c.OnlyRegs d own) (page off : Nat) (p : Port)
    (hk : ∀ k ∈ errKeys page, k ∈ own) : c.OnlyRegs (d.errcnt page off p) own :=
  ((h.setHdr _ _ _ (hk _ (by simp [errKeys]))).setHdr _ _ _ (hk _ (by simp [errKeys]))).setHdr _ _ _ (hk _ (by simp [errKeys]))

end Sys2Proof.Machine
end

