-- ==== Sys2Proof/Tests/Slice0.lean ====
section
/-!
SUPPORT. Tests/Slice0.lean: the smoke tests of the form checks, worked examples of the spec, and for every statement states that
meet its hypotheses. Each expected result comes from the rule that the test's comment names.
-/
namespace Sys2Proof.Tests
set_option Elab.async false
open Sys2Proof Sys2Proof.Machine

/-! ### Helpers -/

/-- The state whose block is the reset block changed by `f`. -/
def tOf (f : Chip → Chip) : State := { chip := f {} }

/-- The reset state with register fields changed. -/
def tSet (l : List (FieldRow × Nat)) : State := tOf fun c => c.setAll l

/-- A part in mode `m` with every domain ON and the rule tables cleared, and more fields changed. -/
def tLive (m : Nat) (l : List (FieldRow × Nat) := []) : State :=
  tSet ([(GLOBAL.MODE_MODE, m), (POWER.DOMAIN_STATE_SEG, 3), (POWER.DOMAIN_STATE_CORE, 3), (POWER.DOMAIN_STATE_HOST, 3),
    (POWER.DOMAIN_STATE_MEM, 3), (CARDER.BANK_STATUS_INIT_DONE, 1)] ++ l)

/-- A state with its block changed. -/
def tMod (s : State) (f : Chip → Chip) : State := { s with chip := f s.chip }

/-- The time `n` ns after reset. -/
def tAt (s : State) (n : Nat) : State := tMod s fun c => { c with whorl := { c.whorl with mono := n * nsQ } }

/-- The block after a command; as before where it stops. -/
def tAfter (i : Instr) (s : State) : Chip :=
  match exec i s with
  | .next t => t.chip
  | _ => s.chip

/-- The command answers a next state. -/
def tGoes (i : Instr) (s : State) : Bool :=
  match exec i s with
  | .next _ => true
  | _ => false

/-- The command is refused as ill-formed, or faults outside the contract. -/
def tIllFormed (i : Instr) (s : State) : Bool :=
  match exec i s with
  | .refused r => r == .illFormed
  | _ => false
def tOutside (i : Instr) (s : State) : Bool :=
  match exec i s with
  | .fault f => f == .outsideContract
  | _ => false

/-- `Chip.Open` as a truth value. -/
def tOpen (s : State) (p : Port) (cls : PageCls) (n : Nat) : Bool :=
  s.chip.reaches p && decide (pageOf (cls.base + n) = some (cls, n)) && decide (s.chip.armOf p (cls.base + n) = none) &&
    s.chip.domUp cls.domain && !s.chip.pageLight cls

theorem open_of_tOpen {s : State} {p : Port} {cls : PageCls} {n : Nat} (h : tOpen s p cls n = true) : s.chip.Open p cls n := by
  simp only [tOpen, Bool.and_eq_true, decide_eq_true_eq, Bool.not_eq_true'] at h
  exact ⟨h.1.1.1.1, h.1.1.1.2, h.1.1.2, h.1.2, h.2⟩

/-- `sealWord` as a truth value. -/
def tSeal (op : Nat) (v : Word) : Bool := decide (bitsOf v.toNat 31 16 = 0x5EA1 ∧ bitsOf v.toNat 3 2 = op)

theorem sealWord_of_tSeal {op : Nat} {v : Word} (h : tSeal op v = true) : sealWord op v := by simpa [tSeal, sealWord] using h

/-! ### The form checks (R11 to R13) -/

/-- All four byte enables are no partial write (R12). -/
theorem test_wf_partial : (Instr.partialByteWrite 0 0 15).wf = false ∧ (Instr.partialByteWrite 0 0 7).wf = true ∧
    tIllFormed (.partialByteWrite 0 0 15) State.reset = true := by decide

/-- Only BAR0 reads fewer than four bytes (R13). -/
theorem test_wf_read : (Instr.loReadLatch .spi 0 3).wf = false ∧ (Instr.loReadLatch .bar0 0 3).wf = true ∧
    tIllFormed (.loReadLatch .spi 0 3) State.reset = true := by decide

/-- An address that is not word-aligned breaks R11. -/
theorem test_aligned : (Instr.registerWrite .bar0 0x46 0).aligned = false ∧
    tOutside (.registerWrite .bar0 0x46 0) State.reset = true := by decide

/-! ### Steps -/

/-- The rest of the queue stays. -/
theorem witness_StepTakesFront : (match step { State.reset with pending := [.leaveSlow, .slewDone] } with
    | .next t => t.pending | _ => []) = [.slewDone] := by decide

/-- Table 03.1: INC is 40 ns after reset, so one AON clock is 40 ns. -/
theorem witness_EmptyQueueTicks : State.reset.pending = [] ∧ State.reset.chip.mode ≠ mRESET ∧
    (match step State.reset with | .next t => t.chip.now | _ => 0) = 40 * nsQ := by decide +kernel

theorem witness_CommandsAnswerOrStop : Instr.leaveSlow.wf = true ∧ Instr.leaveSlow.aligned = true ∧ tGoes .leaveSlow State.reset = true ∧
    (Instr.partialByteWrite 2 0 7).wf = true ∧ (Instr.partialByteWrite 2 0 7).aligned = false := by decide

theorem witness_LevelsAgreeAfterEveryStep : ∃ t, step State.reset = .next t := ⟨_, rfl⟩

/-! ### The register path -/

/-- POWER.COST0 (0x010 + ... ) takes what is written to its fields. -/
theorem witness_WritesFollowAccessCodes :
    (tOpen State.reset .bar0 .power 0 = true ∧ (0x001050 : PageAddr).toNat = PageCls.power.base * 4096 + 0x50) ∧
    (let s := tMod (tLive mRUN) fun c => c.setHdr HDR.SEAL_SEALED 0x180 1
     tOpen s .spi .flyer 0 = true ∧ s.chip.hdr HDR.SEAL_SEALED (PageCls.flyer.base + 0) ≠ 0 ∧
       (0x18004C : PageAddr).toNat = (PageCls.flyer.base + 0) * 4096 + 0x4C ∧
       (tAfter (.registerWrite .spi 0x18004C 0xFFFFFFFF) s).fld FLYER.CONTAIN_CFG_LIMIT 0 = 3 ∧
       (tAfter (.registerWrite .spi 0x180040 0xFFFFFFFF) s).fld FLYER.CFG_VIEW_ACTIVE 0 = 1 ∧
       (tAfter (.registerWrite .spi 0x180040 0xFFFFFFFF) s).fld FLYER.CFG_MODE 0 = 0 ∧
       (tAfter (.registerWrite .spi 0x180040 0xFFFFFFFF) s).hdr HDR.ERRCNT_COUNT 0x180 = 1) ∧
    (let s := tMod (tLive mRUN [(FLYER.FAULT_STATUS_TX_VIOLATION, 1), (FLYER.FAULT_STATUS_BUDGET, 1)]) fun c => c.setHdr HDR.EVT 0x180 3
     tOpen s .bar0 .flyer 0 = true ∧ s.chip.hdr HDR.SEAL_SEALED (PageCls.flyer.base + 0) = 0 ∧
       (0x180000 : PageAddr).toNat = (PageCls.flyer.base + 0) * 4096 ∧
       (tAfter (.registerWrite .bar0 (BitVec.ofNat 24 (0x180000 + FLYER.FAULT_STATUS_TX_VIOLATION.off)) 1) s).fld FLYER.FAULT_STATUS_TX_VIOLATION = 0 ∧
       (tAfter (.registerWrite .bar0 (BitVec.ofNat 24 (0x180000 + FLYER.FAULT_STATUS_TX_VIOLATION.off)) 1) s).fld FLYER.FAULT_STATUS_BUDGET = 1 ∧
       (tAfter (.registerWrite .bar0 (BitVec.ofNat 24 (0x180000 + HDR.EVT.off)) 2) s).hdr HDR.EVT 0x180 = 1 ∧
       (tAfter (.registerWrite .bar0 0x18004C 0xFFFFFFFF) s).fld FLYER.CONTAIN_CFG_LIMIT 0 = 15) ∧
    (State.reset.chip.reaches .spi = true ∧ pageOf ((0xFFF000 : PageAddr).toNat / 4096) = none) := by decide +kernel

/-- MIRROR_ADDR_LO is written through one port and committed by the same port's write of MIRROR_ADDR_HI (R15, R408). -/
theorem witness_PairedRegisters :
    (tOpen State.reset .spi .tally 0 = true ∧ PageCls.tally.isLo 0x048 = true ∧ PageCls.tally.isHi 0x04C = true ∧
      (0x003048 : PageAddr).toNat = (PageCls.tally.base + 0) * 4096 + 0x048) ∧
    (let s := tOf fun c => tAfter (.loReadLatch .spi 0x003048 15) { chip := c }
     Tab.get none (s.chip.portState .spi).latched (0x00304C : PageAddr).toNat = some 0 ∧ tOpen s .spi .tally 0 = true) ∧
    (let s := tOf fun c => tAfter (.loWriteStage .spi 0x003048 0x1240) { chip := c }
     tOpen s .spi .tally 0 = true ∧
       (tAfter (.hiWriteCommit .spi 0x00304C 7) s).fld TALLY.MIRROR_ADDR_LO_ADDR = 0x1240 / 64 ∧
       (tAfter (.hiWriteCommit .bar0 0x00304C 7) s).fld TALLY.MIRROR_ADDR_LO_ADDR = 0 ∧
       (tAfter (.hiWriteCommit .bar0 0x00304C 7) s).fld TALLY.MIRROR_ADDR_HI_ADDR = 7) := by decide

/-- A bound worker's MGR_MAC pair is ignored and counted (R402); ADMIN_BASE_SEC of a sealed REELGATE page is refused (R19). -/
theorem witness_PairedRegisters_refused :
    (let s := tLive mRUN [(HANK.BIND_STATUS_MGR_VALID, 1)]
     let a : PageAddr := BitVec.ofNat 24 (PageCls.hank.base * 4096 + HANK.MGR_MAC_LO_ADDR.off)
     tOpen s .spi .hank 0 = true ∧ PageCls.hank.isLo HANK.MGR_MAC_LO_ADDR.off = true ∧
       s.chip.regHeld .hank 0 (HANK.MGR_MAC_LO_ADDR.off + 4) = true ∧ PageCls.hank.isHi HANK.MGR_MAC_HI_ADDR.off = true ∧
       PageCls.hank.isLo HANK.MGR_MAC_HI_ADDR.off = false ∧ s.chip.regHeld .hank 0 HANK.MGR_MAC_HI_ADDR.off = true ∧
       (tAfter (.registerWrite .spi a 1) s).hdr HDR.ERRCNT_COUNT PageCls.hank.base = 1 ∧
       (tAfter (.loWriteStage .spi a 1) s).hdr HDR.ERRCNT_COUNT PageCls.hank.base = 1) ∧
    (let s := tMod (tLive mRUN) fun c => c.setHdr HDR.SEAL_SEALED PageCls.reelgate.base 1
     let a : PageAddr := BitVec.ofNat 24 (PageCls.reelgate.base * 4096 + 0x048)
     tOpen s .spi .reelgate 0 = true ∧ PageCls.reelgate.isLo 0x048 = true ∧ s.chip.regHeld .reelgate 0 0x04C = false ∧
       s.chip.sealedAt .reelgate 0 0x048 = true ∧ (tAfter (.loWriteStage .spi a 1) s).hdr HDR.ERRCNT_COUNT PageCls.reelgate.base = 1) := by
  decide +kernel

/-- R12: counted on the page addressed. -/
theorem witness_PartialWritesAreDiscarded :
    (let s := tSet [(POWER.DOMAIN_STATE_HOST, 3)]
     tOpen s .bar0 .power 0 = true ∧ (0x001044 : PageAddr).toNat = (PageCls.power.base + 0) * 4096 + 0x044 ∧
       (tAfter (.partialByteWrite 0x001044 5 7) s).hdr HDR.ERRCNT_COUNT 1 = 1 ∧
       (tAfter (.partialByteWrite 0x001044 5 7) s).hdr HDR.ERRCNT_LAST_OFFSET 1 = 0x044) := by decide

theorem witness_DownAndLightDomains :
    (State.reset.chip.reaches .spi = true ∧ State.reset.chip.domUp PageCls.carder.domain = false ∧
      pageOf (PageCls.carder.base + 0) = some (.carder, 0) ∧ State.reset.chip.armOf .spi (PageCls.carder.base + 0) = none ∧
      (tAfter (.offDomainAccess .spi 0x020040 none) State.reset).fld GLOBAL.OFF_DOMAIN_CNT_COUNT = 1) ∧
    (let s := tMod (tLive mRUN) fun c => { c with modes := { c.modes with laneLight := [(3, true)] } }
     s.chip.reaches .spi = true ∧ s.chip.dom .core = domON ∧ s.chip.coreLight = true ∧
       s.chip.armOf .spi PageCls.carder.base = none ∧ (0x020000 : PageAddr).toNat = PageCls.carder.base * 4096 ∧
       (tAfter (.lightDomainAccess .spi 0x020000 none) s).coreLight = false) := by decide

/-- Table 12.2: octet 0 holds DEV in bits 7 to 5 and WRITE in bit 0. -/
theorem witness_SpiTransactionsAreJudged :
    (State.reset.chip.mode ≠ mRESET ∧ (0x20 : Byte).toNat / 32 ≠ State.reset.chip.fld GLOBAL.STRAPS_SPI_ADDR) ∧
    (let mosi : List Byte := [0x00, 0x00, 0x30, 0x00, 0, 0, 0, 0, 0]
     mosi ≠ [] ∧ (mosi.getD 0 0).toNat / 32 = State.reset.chip.fld GLOBAL.STRAPS_SPI_ADDR ∧ beNat ((mosi.drop 1).take 3) = 0x003000 ∧
       9 + 0 ≤ mosi.length ∧ tOpen State.reset .spi .tally 0 = true ∧ PageCls.tally.isLo 0 = false ∧ PageCls.tally.isHi 0 = false ∧
       ((tAfter (.spiTransaction mosi 0) State.reset).portState .spi).status = 0xA5) ∧
    (let mosi : List Byte := [0x01, 0x00, 0x30, 0x48, 0x12, 0x34, 0x56, 0x40, 0]
     beNat ((mosi.drop 1).take 3) = 0x003048 ∧ (mosi.getD 0 0).toNat % 2 = 1 ∧ PageCls.tally.isLo 0x048 = true ∧
       Tab.get none ((tAfter (.spiTransaction mosi 0) State.reset).portState .spi).staged 0x003048 = some 0x12345640) ∧
    (let mosi : List Byte := [0x02, 0, 0, 0, 0, 0, 0, 0, 0]
     bitsOf (mosi.getD 0 0).toNat 4 1 ≠ 0 ∧ (tAfter (.spiTransaction mosi 0) State.reset).fld GLOBAL.SPI_ERRORS_COUNT = 1) ∧
    (let mosi : List Byte := [0x01, 0, 0x30, 0x48]
     (mosi.getD 0 0).toNat % 2 = 1 ∧ mosi.length < 8 ∧ (tAfter (.spiTransaction mosi 0) State.reset).fld GLOBAL.SPI_ERRORS_COUNT = 1) ∧
    (let mosi : List Byte := [0x00, 0, 0x30, 0x49]
     beNat ((mosi.drop 1).take 3) % 4 ≠ 0 ∧ (tAfter (.spiTransaction mosi 0) State.reset).fld GLOBAL.SPI_ERRORS_COUNT = 1) := by decide

/-- KEY 0x5EA1, OP in bits 3 to 2: SEAL 1, ARM_UNSEAL 2, UNSEAL 3 (Table 12.4). -/
theorem witness_PageSeal :
    (let s := tLive mRUN
     s.chip.reaches .spi = true ∧ pageOf 0x180 = some (.flyer, 0) ∧ s.chip.domUp PageCls.flyer.domain = true ∧
       s.chip.pageLight .flyer = false ∧ s.chip.armOf .spi 0x180 = none ∧ s.chip.hdr HDR.CTRL_LOCK 0x180 = 0 ∧
       tSeal 1 0x5EA10004 = true ∧ tSeal 2 0x5EA10008 = true ∧ tSeal 3 0x5EA1000C = true ∧ bitsOf (0x5EA00004 : Word).toNat 31 16 ≠ 0x5EA1 ∧
       (tAfter (.pageSeal .spi 0x180 0x5EA10004) s).hdr HDR.SEAL_SEALED 0x180 = 1 ∧
       (tAfter (.pageSeal .spi 0x180 0x5EA00004) s).hdr HDR.SEAL_SEALED 0x180 = 0 ∧
       (tAfter (.pageUnseal .spi 0x180 0x5EA1000C) s).hdr HDR.ERRCNT_COUNT 0x180 = 1) ∧
    (let s := tMod (tLive mRUN) fun c => tAfter (.pageArmUnseal .spi 0x180 0x5EA10008) { chip := c }
     s.chip.armOf .spi (0x180 : BitVec 12).toNat = some 0 ∧
       s.chip.hdr HDR.SEAL_ARMED 0x180 = 1 ∧ (tAfter (.pageUnseal .spi 0x180 0x5EA1000C) s).hdr HDR.SEAL_ARMED 0x180 = 0 ∧
       s.chip.now < 0 + 100 * usQ ∧ 0 + 100 * usQ ≤ (tAt s 100000).chip.now ∧ s.chip.reaches .spi = true ∧
       (tAfter (.unsealArmExpiry 0x180) (tAt s 100000)).hdr HDR.SEAL_ARMED 0x180 = 0 ∧
       (tAfter (.unsealArmExpiry 0x180) (tAt s 99999)).hdr HDR.SEAL_ARMED 0x180 = 1 ∧
       (tAfter (.errcntClear .spi 0x180 0x80000000) s).hdr HDR.SEAL_ARMED 0x180 = 0 ∧
       tOpen s .bar0 .flyer 0 = true ∧ (tAfter (.errcntClear .bar0 0x180 0x80000000) s).hdr HDR.SEAL_ARMED 0x180 = 1) ∧
    (let s := tMod (tLive mRUN) fun c => (tAfter (.pageArmUnseal .spi 0x100 0x5EA10008) { chip := c }).setDom .seg domOFF
     s.chip.domUp PageCls.segment.domain = false ∧ pageOf 0x100 = some (.segment, 0) ∧ s.chip.armOf .spi 0x100 = some 0 ∧
       (tAfter (.pageSeal .spi 0x100 0x5EA10004) s).hdr HDR.SEAL_ARMED 0x100 = 0) := by decide

/-- PAGE_CTRL: EN bit 0, BLOCK_RESET bit 1, LOCK bit 2. -/
theorem witness_LockAndBlockReset :
    (tOpen State.reset .bar0 .power 0 = true ∧ tOpen State.reset .spi .power 0 = true ∧ PageCls.power.hasEn = false ∧
      (4 : Word).toNat.testBit 2 = true ∧ (4 : Word).toNat.testBit 1 = false ∧ (2 : Word).toNat.testBit 1 = true ∧
      bitsOf (0x80000000 : Word).toNat 31 31 = 1 ∧
      (tAfter (.pageLock .spi 1 4) State.reset).hdr HDR.CTRL_LOCK 1 = 1 ∧ (tAfter (.blockReset .spi 1 2) State.reset).hdr HDR.ERRCNT_COUNT 1 = 1) ∧
    (let s := tMod (tLive mRUN) fun c => c.setDom .upl domON
     tOpen s .spi .uplink 2 = true ∧ (0x012 : BitVec 12).toNat = PageCls.uplink.base + 2 ∧ s.chip.hdr HDR.CTRL_EN 0x012 = 0 ∧
       s.chip.hdr HDR.CTRL_LOCK 0x012 = 0 ∧ PageCls.uplink.hasReset = true ∧ PageCls.uplink.hasEn = true) ∧
    (tOpen (tLive mRUN) .spi .segment 95 = true ∧ (0x15F : BitVec 12).toNat = PageCls.segment.base + 95) := by decide

/-- LOCK = 1 refuses PAGE_SEAL and BLOCK_RESET, and EN follows the write all the same (R414, R416). -/
theorem witness_LockAndBlockReset_locked :
    (let s := tMod (tLive mRUN) fun c => (c.setDom .upl domON).setHdr HDR.CTRL_LOCK 0x012 1
     tOpen s .spi .uplink 2 = true ∧ s.chip.hdr HDR.CTRL_LOCK 0x012 = 1 ∧
       (tAfter (.blockReset .spi 0x012 3) s).hdr HDR.ERRCNT_COUNT 0x012 = 1 ∧ (tAfter (.blockReset .spi 0x012 3) s).hdr HDR.CTRL_EN 0x012 = 1 ∧
       (tAfter (.pageLock .spi 0x012 0) s).hdr HDR.CTRL_LOCK 0x012 = 1) ∧
    (let s := tMod (tLive mRUN) fun c => c.setHdr HDR.CTRL_LOCK 0x180 1
     tOpen s .spi .flyer 0 = true ∧ (tAfter (.pageSeal .spi 0x180 0x5EA10004) s).hdr HDR.SEAL_SEALED 0x180 = 0 ∧
       (tAfter (.pageSeal .spi 0x180 0x5EA10004) s).hdr HDR.ERRCNT_COUNT 0x180 = 1) ∧
    (let s := tMod (tLive mRUN) fun c => (c.setDom .upl domON).setHdr HDR.CTRL_EN 0x012 1
     (tAfter (.blockReset .spi 0x012 3) s).hdr HDR.ERRCNT_COUNT 0x012 = 1) := by decide

/-! ### Modes, resets, power and roles -/

/-- Table 02.3; the key is 0x4D44. -/
theorem witness_ModeCommands :
    (tOpen State.reset .spi .global 0 = true ∧ (0x1234 : BitVec 16) ≠ 0x4D44 ∧ bitsOf (0x4D440007 : Word).toNat 3 0 ∉ [0x1, 0x2, 0x3, 0x5, 0x6, 0xF] ∧
      State.reset.chip.mode ≠ mACQUIRE ∧ State.reset.chip.mode = mSTANDBY ∧ State.reset.chip.mode ≠ mSAFE ∧
      (tAfter (.modeCmdRun .spi 0x4D44) State.reset).hdr HDR.ERRCNT_COUNT 0 = 1 ∧
      (tAfter (.modeCmdAcquire .spi 0x4D44) State.reset).hdr HDR.ERRCNT_COUNT 0 = 0) ∧
    (let s := tLive mSAFE [(GLOBAL.SAFE_CAUSE_HOST_CMD, 1)]
     tOpen s .spi .global 0 = true ∧ s.chip.mode ≠ mSTANDBY ∧ s.chip.safeCause ≠ 0 ∧
       (tAfter (.modeCmdExitSafe .spi 0x4D44) s).mode = mSAFE) ∧
    (let s := tMod (tLive mRUN) fun c => c.setHdr HDR.CTRL_EN 0x010 1
     tOpen s .spi .global 0 = true ∧ s.chip.mode ≠ mSAFE ∧ s.chip.maySleep = false) ∧
    (let s := tLive mACQUIRE
     tOpen s .spi .global 0 = true ∧ s.chip.safeCause = 0 ∧ (tAfter (.modeCmdRun .spi 0x4D44) s).fld GLOBAL.MODE_RUN_ARMED = 1 ∧
       (tAfter (.modeCmdEnterSafe .spi 0x4D44) s).fld GLOBAL.SAFE_CAUSE_HOST_CMD = 1) := by decide +kernel

/-- The straps of a headless worker that boots from flash. -/
def tStraps : Straps := { role := 1, bootSrc := true, headless := true, spiAddr := 5 }

theorem witness_ResetAndItsRelease :
    (tOpen State.reset .spi .global 0 = true ∧ (tAfter (.deviceReset .spi 0x4D44 tStraps true) State.reset).mode = mRESET ∧
      (tAfter (.porstAssert 10000) (tLive mRUN)).mode = mRESET ∧ (tAfter (.porstAssert 999) (tLive mRUN)).mode = mRUN ∧
      (tAfter (.aonSupplyFault 2000) (tLive mRUN)).mode = mRESET ∧ (tAfter (.aonSupplyFault 1999) (tLive mRUN)).mode = mRUN) ∧
    (let s := tOf fun c => tAfter (.porstAssert 10000) { chip := c }
     s.chip.mode = mRESET ∧ s.chip.modes.holdPorst = true ∧ s.chip.modes.holdSupply = false ∧
       (tAfter (.porstRelease tStraps true) s).fld GLOBAL.STRAPS_SPI_ADDR = 5 ∧
       (tAfter (.porstRelease tStraps true) s).on GLOBAL.MODE_CFG_AUTO_RUN = true) ∧
    (let s := tOf fun c => tAfter (.aonSupplyFault 2000) { chip := c }
     s.chip.mode = mRESET ∧ s.chip.modes.holdSupply = true ∧ s.chip.modes.holdPorst = false ∧
       (tAfter (.aonSupplyRecover 1000000 tStraps true) s).modes.holdSupply = false) ∧
    (let s := tMod (tOf fun c => tAfter (.porstAssert 10000) { chip := c }) fun c => tAfter (.aonSupplyFault 2000) { chip := c }
     s.chip.mode = mRESET ∧ s.chip.modes.holdSupply = true ∧ s.chip.modes.holdPorst = true) ∧
    (let s := tOf fun c => tAfter (.deviceReset .spi 0x4D44 tStraps true) { chip := c }
     s.chip.mode = mRESET ∧ s.chip.modes.holdPorst = false ∧ s.chip.modes.holdSupply = false ∧ s.chip.on GLOBAL.STRAPS_BOOT_SRC = true ∧
       (tAfter .fuseLoadComplete s).mode = mSTANDBY ∧ (tAfter .fuseLoadComplete s).imSt = imVERIFYING) := by decide +kernel

theorem witness_WorkingModes :
    (let s := tLive mRUN [(WHORL.LOCK_STATE_STATE, 3)]
     s.chip.safeCause = 0 ∧ s.chip.mode = mRUN ∧ s.chip.timeReady = false ∧ (tAfter .holdoverEntry s).mode = mHOLDOVER) ∧
    (let s := tLive mHOLDOVER
     s.chip.safeCause = 0 ∧ s.chip.mode = mHOLDOVER ∧ s.chip.timeReady = true ∧ (tAfter .holdoverExit s).mode = mRUN) ∧
    (tOpen State.reset .spi .global 0 = true ∧ State.reset.chip.mode = mSTANDBY ∧ State.reset.chip.safeCause = 0 ∧
      (tAfter (.modeCmdAcquire .spi 0x4D44) State.reset).mode = mACQUIRE) ∧
    (let s := tMod State.reset fun c => { c with modes := { c.modes with autoStartDue := true } }
     s.chip.autoStartReady = true ∧ (tAfter .autoStart s).mode = mACQUIRE) ∧
    (let s := tLive mSAFE
     tOpen s .spi .global 0 = true ∧ s.chip.mode = mSAFE ∧ s.chip.safeCause = 0 ∧ (tAfter (.modeCmdExitSafe .spi 0x4D44) s).mode = mACQUIRE) ∧
    (let s := tAt (tLive mSAFE [(GLOBAL.MODE_CFG_AUTO_EXIT_SAFE, 1), (GLOBAL.SAFE_CAUSE_WATCHDOG, 1)]) 300000000000
     s.chip.autoExitDue = true ∧ (tAfter .autoExitSafe s).mode = mACQUIRE ∧ (tAfter .autoExitSafe s).fld GLOBAL.SAFE_CAUSE_WATCHDOG = 0) ∧
    (let s := tLive mACQUIRE [(GLOBAL.MODE_RUN_ARMED, 1)]
     s.chip.mode = mACQUIRE ∧ s.chip.on GLOBAL.MODE_RUN_ARMED = true ∧ s.chip.timeReady = true ∧ s.chip.domainsReady = true ∧
       s.chip.safeCause = 0 ∧ (tAfter .runEntry s).mode = mRUN) ∧
    (State.reset.chip.mode ≠ mACQUIRE) := by decide +kernel

theorem witness_SafeMode :
    (let s := tLive mRUN [(GLOBAL.SAFE_CAUSE_ECC_FATAL, 1)]
     s.chip.safeCause ≠ 0 ∧ s.chip.mode ∈ [mSTANDBY, mACQUIRE, mRUN, mHOLDOVER] ∧ (tAfter .safeEntry s).mode = mSAFE) ∧
    (State.reset.chip.safeCause = 0) ∧
    (let s := tLive mHOLDOVER [(GLOBAL.MODE_CFG_HOLDOVER_TO_SAFE, 1), (WHORL.HO_LIMIT_NS, 1000), (WHORL.HO_ERROR_NS, 1001)]
     s.chip.mode = mHOLDOVER ∧ s.chip.on GLOBAL.MODE_CFG_HOLDOVER_TO_SAFE = true ∧ s.chip.fld WHORL.HO_LIMIT_NS < s.chip.fld WHORL.HO_ERROR_NS ∧
       (tAfter .holdoverLimitSafe s).fld GLOBAL.SAFE_CAUSE_HOLDOVER_LIMIT = 1) ∧
    (let s := tAt (tLive mSAFE) 10000
     s.chip.mode = mSAFE ∧ s.chip.wireDone 3 = true ∧ s.chip.modes.safeAt + 10 * usQ ≤ s.chip.now ∧
       (tAfter .safeSceneStart s).modes.safeScene = true ∧ (tAfter (.safeUplinkIdle 3) s).fld UPLINK.LINK_STATUS_STATE 3 = ulOFF) ∧
    (let s := tMod (tLive mSAFE) fun c => c.updUpl 1 fun u => { u with cur := some { pkt := {}, cls := 0, start := 0, total := 60, stamp := 0 } }
     s.chip.mode = mSAFE ∧ s.chip.wireDone 1 = false ∧ s.chip.now < s.chip.modes.safeAt + 10 * usQ) := by decide +kernel

theorem witness_DomainsGoDownAndWake :
    (let s := tLive mRUN
     tOpen s .spi .global 0 = true ∧ s.chip.safeCause = 0 ∧ s.chip.mode = mRUN ∧ s.chip.maySleep = true ∧
       (tAfter (.modeCmdSleep .spi 0x4D44) s).dom .core = domDEEP ∧ (tAfter (.modeCmdSleep .spi 0x4D44) s).dom .seg = domOFF) ∧
    (let s := tLive mSAFE
     s.chip.mode = mSAFE ∧ s.chip.modes.safePowered = false ∧ s.chip.uplinksOff = true ∧ (tAfter .safePowerDown s).dom .core = domDEEP ∧
       (tAfter .safePowerDown s).dom .seg = domON) ∧
    (State.reset.chip.mode ≠ mSAFE) ∧
    (let s := tAt (tMod (tLive mACQUIRE [(POWER.DOMAIN_STATE_MEM, 1)]) fun c => { c with power := { c.power with wakes := [(.mem, 40 * usQ)] } }) 40000
     s.chip.wakeDue .mem = true ∧ s.chip.wakeDue .core = false ∧ (tAfter (.domainWakeDone .mem) s).dom .mem = domON) := by decide +kernel

/-- R60 and R53. -/
theorem witness_WatchdogAndTimeout :
    (tOpen State.reset .spi .global 0 = true ∧ (0x6B1D : Word) ≠ 0x6B1C ∧ State.reset.chip.wdogRuns = false ∧
      (tAfter (.wdogKick .spi 0x6B1D) State.reset).hdr HDR.ERRCNT_COUNT 0 = 1) ∧
    (let s := tLive mRUN [(GLOBAL.WDOG_CFG_EN, 1), (GLOBAL.WDOG_REMAIN_COUNT, 0)]
     s.chip.wdogRuns = true ∧ s.chip.modes.wdogWarned = false ∧
       2 * s.chip.fld GLOBAL.WDOG_REMAIN_COUNT ≤ max 100 (s.chip.fld GLOBAL.WDOG_CFG_PERIOD) ∧ s.chip.fld GLOBAL.WDOG_REMAIN_COUNT = 0 ∧
       (tAfter .watchdogExpiry s).fld GLOBAL.SAFE_CAUSE_WATCHDOG = 1 ∧ (tAfter .wdogWarn s).modes.wdogWarned = true ∧
       (tAfter (.wdogKick .spi 0x6B1C) s).fld GLOBAL.WDOG_REMAIN_COUNT = 1000000) ∧
    (let s := tLive mACQUIRE
     s.chip.mode = mACQUIRE ∧ s.chip.modes.acquireRaised = false ∧ s.chip.modes.acquireAt + s.chip.modes.acquireLimit * usQ ≤ s.chip.now ∧
       (tAfter .acquireTimeout s).modes.acquireRaised = true) := by decide +kernel

/-- R64, R66, R67, R403: two channels of 1 GiB leave 7/8 of 2,048 MiB. -/
theorem witness_RolesAreSettled :
    (let s := tMod (tLive mACQUIRE [(GLOBAL.ROLE_STRAP_ROLE, 2), (GLOBAL.ROLE_SETTLED, 0)]) id
     s.chip.mode = mACQUIRE ∧ s.chip.modes.dramTrainingDone = false ∧ s.chip.fld GLOBAL.ROLE_STRAP_ROLE = 2 ∧
       s.chip.on GLOBAL.ROLE_SETTLED = false ∧ (tAfter (.dramTrainingDone true true 2 2) s).fld DRAM.STATUS_USABLE_MIB = 1792 ∧
       (tAfter (.dramTrainingDone true true 2 2) s).fld GLOBAL.ROLE_ROLE = roleMANAGER ∧
       (tAfter (.dramTrainingDone false false 0 0) s).fld GLOBAL.ROLE_ROLE ≠ roleMANAGER) ∧
    (let s := tLive mRUN [(GLOBAL.ROLE_SETTLED, 1), (GLOBAL.ROLE_EPOCH, 7)]
     tOpen s .spi .global 0 = true ∧ bitsOf (0x00080001 : Word).toNat 31 16 ≠ s.chip.fld GLOBAL.ROLE_EPOCH ∧
       bitsOf (0x00070002 : Word).toNat 31 16 = s.chip.fld GLOBAL.ROLE_EPOCH ∧ bitsOf (0x00070002 : Word).toNat 1 0 = roleMANAGER ∧
       s.chip.on GLOBAL.ROLE_DRAM_READY = false ∧ bitsOf (0x00070003 : Word).toNat 1 0 = 3 ∧ s.chip.on GLOBAL.ROLE_SETTLED = true ∧
       s.chip.mode ∈ [mSTANDBY, mACQUIRE, mRUN, mHOLDOVER] ∧ bitsOf (0x00070001 : Word).toNat 1 0 ≠ s.chip.fld GLOBAL.ROLE_ROLE ∧
       bitsOf (0x00070000 : Word).toNat 1 0 = s.chip.fld GLOBAL.ROLE_ROLE ∧
       (tAfter (.roleCmd .spi 0x00070001) s).fld GLOBAL.ROLE_EPOCH = 8 ∧ (tAfter (.roleCmd .spi 0x00070001) s).fld GLOBAL.ROLE_ROLE = 1 ∧
       (tAfter (.roleCmd .spi 0x00080001) s).raised EV.GLOBAL_ROLE_CMD_STALE = true) := by decide +kernel

theorem witness_PerstAndLight :
    (State.reset.chip.modes.perst = false ∧ State.reset.chip.mode ≠ mRESET ∧ (tAfter .perstAssert State.reset).modes.perst = true) ∧
    (let s := tOf fun c => tAfter (.porstAssert 10000) { chip := c }
     s.chip.modes.perst = false ∧ s.chip.mode = mRESET) ∧
    (let s := tOf fun c => tAfter .perstAssert { chip := c }
     s.chip.modes.perst = true ∧ s.chip.mode ≠ mRESET ∧ (tAfter .perstRelease s).modes.perst = false) ∧
    (let s := tAt (tLive mRUN [(GLOBAL.MODE_CFG_LIGHT_SLEEP_EN, 1)]) 1000000000
     s.chip.mode = mRUN ∧ s.chip.on GLOBAL.MODE_CFG_LIGHT_SLEEP_EN = true ∧ s.chip.dom .core = domON ∧
       Tab.get false s.chip.modes.laneLight 10 = false ∧ s.chip.laneIdle 10 = true ∧ s.chip.laneIdle 11 = true ∧
       Tab.get false (tAfter (.laneLightEntry (some 10)) s).modes.laneLight 10 = true) ∧
    (State.reset.chip.mode ∉ [mRUN, mHOLDOVER]) := by decide +kernel

/-- R71, R74 to R78, R80, R81, R86. -/
theorem witness_LeaveAndCeiling :
    (State.reset.chip.leaveWaiting (.bist 1) = false ∧ State.reset.chip.leaveHeld (.bist 1) = false ∧
      State.reset.chip.leaveAnswer (.bist 1) = .queued ∧
      (State.reset.chip.fld POWER.COST_TOKENS 0 4 : Int) ≤ (State.reset.chip.fld POWER.CEILING_TOKENS : Int) -
        State.reset.chip.fld POWER.BASE_TOKENS - State.reset.chip.fld POWER.RESERVE_FANOUT_RESERVE) ∧
    (let s := tSet [(POWER.CEILING_TOKENS, 62)]
     s.chip.leaveWaiting (.bist 1) = false ∧ s.chip.leaveHeld (.bist 1) = false ∧
       (s.chip.fld POWER.CEILING_TOKENS : Int) - s.chip.fld POWER.BASE_TOKENS - s.chip.fld POWER.RESERVE_FANOUT_RESERVE <
         s.chip.fld POWER.COST_TOKENS 0 4 ∧ (tAfter (.leaveRequest (.bist 1)) s).raised EV.POWER_LEAVE_IMPOSSIBLE = true) ∧
    (let s := tOf fun c => tAfter (.leaveRequest (.bist 1)) { chip := c }
     let r : LeaveReq := { op := .bist 1, prio := s.chip.fld POWER.COST_PRIO 0 4, cost := s.chip.fld POWER.COST_TOKENS 0 4, since := 0,
                           warnUs := s.chip.fld POWER.LEAVE_WARN_LIMIT }
     s.chip.headReq = some r ∧ LeaveOp.isFanout r.op = false ∧ r.op ≠ .ruleLoad ∧ r.op ≠ .dirLoad ∧
       s.chip.committed + r.cost ≤ s.chip.fld POWER.CEILING_TOKENS ∧ (tAfter .leaveGrant s).leaveHeld (.bist 1) = true ∧
       (let u := tMod s fun c => c.setFld POWER.CEILING_TOKENS 62
        u.chip.headReq = some r ∧ u.chip.fld POWER.CEILING_TOKENS < u.chip.committed + r.cost) ∧
       s.chip.slowDue = false ∧
       (let u := tAt s (1000 * s.chip.fld POWER.LEAVE_WARN_LIMIT)
        u.chip.slowDue = true ∧ (tAfter .leaveSlow u).raised EV.POWER_LEAVE_SLOW = true ∧ (tAfter .leaveSlow u).slowDue = false)) ∧
    (let m : FanCmd := { tag := 1, group := 0, typ := 0xFF, noDesc := true, value := 1, leadMs := 1 }
     let h : Share := { cmdId := 0, apply := 64000000, ramp := 0, asked := true, cmd := some m }
     let s := tAt (tMod (tLive mRUN) fun c => { c.setShare 5 (some h) with power := { c.power with
        waiting := [{ op := .fanout 5, prio := 0, cost := 8, since := 0, warnUs := 1000 }] } }) 0
     s.chip.deadlineMissed 5 = true ∧ s.chip.share? 5 = some h ∧ (tAfter (.leaveDeadlineMiss 5) s).raised EV.POWER_LEAVE_DEADLINE_MISS = true) ∧
    (State.reset.chip.deadlineMissed 5 = false) ∧
    (tOpen State.reset .spi .power 0 = true ∧ (tAfter (.ceilingWrite .spi 61) State.reset).raised EV.POWER_CEILING_BELOW_COMMITTED = true ∧
      160 * State.reset.chip.fld POWER.CEILING_TOKENS ≤ (0xFFFF : BitVec 16).toNat ∧ State.reset.chip.power.throttling = false ∧
      State.reset.chip.committed ≤ State.reset.chip.fld POWER.CEILING_TOKENS ∧ (0 : BitVec 16).toNat < 160 * State.reset.chip.fld POWER.CEILING_TOKENS ∧
      (tAfter (.throttleOn 0xFFFF) State.reset).power.throttling = true ∧ (tAfter (.throttleOff 0) State.reset).power.throttling = false) := by
  decide +kernel

/-- A pulse of 1 µs to 10 µs, a DEVICE_RESET written to MODE_CMD, and releases while the other holder holds (R54, R438). -/
theorem witness_ResetAndItsRelease_more :
    (tGoes (.porstAssert 1000) (tLive mRUN) = true ∧
      bitsOf (0x4D44000F : Word).toNat 31 16 = 0x4D44 ∧ bitsOf (0x4D44000F : Word).toNat 3 0 = 0xF ∧
      tGoes (.registerWrite .spi 0x48 0x4D44000F) State.reset = true) ∧
    (let s := tMod (tOf fun c => tAfter (.porstAssert 10000) { chip := c }) fun c => tAfter (.aonSupplyFault 2000) { chip := c }
     s.chip.modes.holdPorst = true ∧ s.chip.modes.holdSupply = true ∧
       (tAfter (.porstRelease tStraps true) s).fld GLOBAL.STRAPS_SPI_ADDR = 5 ∧
       (tAfter (.porstRelease tStraps true) s).modes.holdPorst = false ∧
       (tAfter (.aonSupplyRecover 1000000 tStraps true) s).fld GLOBAL.STRAPS_SPI_ADDR = 0 ∧
       (tAfter (.aonSupplyRecover 999999 tStraps true) s).modes.holdSupply = true) := by decide +kernel

/-- Two command payloads and a fan-out command of this manager when SAFE is entered (R59); the wakes of the other domains (R69), a SLEEP
from SAFE (R61), and a role request while the DRAM is in self-refresh (R41, R67). -/
theorem witness_SafeMode_more :
    (let m : FanCmd := { tag := 1, group := 0, typ := 0xFF, noDesc := true, value := 1, leadMs := 1 }
     let h : Share := { cmdId := 0, apply := 64000000, ramp := 0, asked := true, cmd := some m }
     let s := tMod (tLive mRUN [(GLOBAL.SAFE_CAUSE_ECC_FATAL, 1)]) fun c =>
       (c.setEng 95 { cmdq := [{}, {}] }).setShare 5 (some h)
     s.chip.safeCause ≠ 0 ∧ s.chip.mode = mRUN ∧ ((List.range 96).map fun n => (s.chip.eng n).cmdq.length).sum = 2 ∧
       (tAfter .safeEntry s).fld GLOBAL.SAFE_DROPPED_CMDS_COUNT = 2 ∧ ((tAfter .safeEntry s).share? 5).isNone = true) ∧
    (let s := tLive mSAFE
     tOpen s .spi .global 0 = true ∧ s.chip.safeCause = 0 ∧ (tAfter (.modeCmdSleep .spi 0x4D44) s).mode = mSTANDBY ∧
       (tAfter (.modeCmdSleep .spi 0x4D44) s).modes.safeScene = true) ∧
    (let s := tAt (tMod (tLive mACQUIRE) fun c => { c with power := { c.power with wakes := [(.core, 40 * usQ)] } }) 40000
     s.chip.wakeDue .core = true ∧ (tAfter (.domainWakeDone .core) s).dom .core = domON) ∧
    (let s := tMod (tLive mSTANDBY [(GLOBAL.ROLE_SETTLED, 1), (GLOBAL.ROLE_EPOCH, 7), (DRAM.STATUS_TRAINED0, 1), (DRAM.STATUS_SELF_REFRESH, 1)]) id
     tOpen s .spi .global 0 = true ∧ s.chip.dramTrained = true ∧ s.chip.on GLOBAL.ROLE_DRAM_READY = false ∧
       (tAfter (.roleCmd .spi 0x00070002) s).raised EV.GLOBAL_ROLE_CMD_REFUSED = true ∧
       (tAfter (.roleCmd .spi 0x00070002) (tLive mSTANDBY [(GLOBAL.ROLE_SETTLED, 1), (GLOBAL.ROLE_EPOCH, 7)])).raised EV.GLOBAL_MANAGER_REFUSED = true) ∧
    (let s := tMod State.reset fun c => { c.setFld POWER.CEILING_TOKENS 10 with power := { c.power with ceilingCut := true, held := [{ op := .bist 0, cost := 12, reserve := false }] } }
     s.chip.fld POWER.CEILING_TOKENS < s.chip.committed ∧ (tAfter (.throttleOn 0xFFFF) s).power.throttling = false) := by decide +kernel

/-! ### The Whorl -/

/-- A state with its Whorl changed, or with register fields changed. -/
def tWh (s : State) (f : Whorl → Whorl) : State := tMod s fun c => { c with whorl := f c.whorl }
def tF (s : State) (l : List (FieldRow × Nat)) : State := tMod s fun c => c.setAll l

/-- R88, R94, R100, R106 to R109; the loss causes are 1 lost measurements, 3 HOST_LOCK, 4 SOURCE, 5 REFCLK. -/
theorem witness_ClockAndLockState :
    (tOpen State.reset .spi .whorl 0 = true ∧ bitsOf (1 : Word).toNat 0 0 = 1 ∧
      (tAfter (.snapCmd .spi 1 0) (tAt State.reset 2000000040)).fld WHORL.SNAP_MONO_SEC_LO_SEC = 2 ∧
      (tAfter (.snapCmd .spi 1 0) (tAt State.reset 2000000040)).fld WHORL.SNAP_MONO_NS_NS = 40) ∧
    (let s := tAt State.reset 100000000
     s.chip.tdcDue = true ∧ (tAfter (.tdcCalibration false) s).fld WHORL.TDC_STATUS_FAILS = 1 ∧
       (tAfter (.tdcCalibration true) s).fld WHORL.TDC_STATUS_CAL_OK = 1 ∧ (tAt State.reset 99999999).chip.tdcDue = false) ∧
    (let s := tOf fun c => tAfter (.refclkFault 200 0) { chip := c }
     State.reset.chip.on WHORL.REFCLK_STATUS_FAULT = false ∧ s.chip.on WHORL.REFCLK_STATUS_FAULT = true ∧
       (tAfter (.refclkRecovered 1000) s).fld WHORL.REFCLK_STATUS_FAULT = 0 ∧ (tAfter (.refclkRecovered 999) s).fld WHORL.REFCLK_STATUS_FAULT = 1 ∧
       (tAfter (.refclkFault 199 9999) State.reset).fld WHORL.REFCLK_STATUS_FAULT = 0 ∧
       State.reset.chip.lock = lkFREE ∧ State.reset.chip.whorl.source = 0 ∧ s.chip.lock = lkFREE) ∧
    (let s := tWh (tSet [(WHORL.LOCK_STATE_STATE, lkLOCKED)]) fun w => { w with source := 1 }
     s.chip.on WHORL.REFCLK_STATUS_FAULT = false ∧ s.chip.lock = lkLOCKED ∧ s.chip.whorl.source = 1 ∧
       (tAfter (.refclkFault 0 10000) s).lock = lkHOLDOVER) ∧
    (State.reset.chip.fld WHORL.SERVO_CFG_SOURCE = State.reset.chip.whorl.source) ∧
    (let s := tSet [(WHORL.SERVO_CFG_SOURCE, 1)]
     s.chip.fld WHORL.SERVO_CFG_SOURCE ≠ s.chip.whorl.source ∧ s.chip.lock = lkFREE ∧ (tAfter .sourceChange s).lock = lkUNLOCKED) ∧
    (let s := tWh (tSet [(WHORL.SERVO_CFG_SOURCE, 2), (WHORL.LOCK_STATE_STATE, lkLOCKED)]) fun w => { w with source := 1 }
     s.chip.lock = lkLOCKED ∧ (tAfter .sourceChange s).fld WHORL.LOCK_STATE_LOSS_CAUSE = 4) ∧
    (let s := tSet [(WHORL.SERVO_CFG_SOURCE, 2), (WHORL.LOCK_STATE_STATE, lkHOLDOVER)]
     s.chip.lock = lkHOLDOVER ∧ (tAfter .sourceChange s).lock = lkHOLDOVER) ∧
    (let s := tWh (tSet [(WHORL.LOCK_STATE_STATE, lkLOCKED)]) fun w => { w with source := 2 }
     s.chip.fld WHORL.SERVO_CFG_SOURCE = 0 ∧ (tAfter .sourceChange s).lock = lkFREE) ∧
    (let s := tSet [(WHORL.SERVO_CFG_SOURCE, 3), (WHORL.SERVO_CFG_HOST_LOCK, 1)]
     s.chip.on WHORL.SERVO_CFG_HOST_LOCK = true ∧ (tAfter .sourceChange s).lock = lkLOCKED) ∧
    (let s := tWh (tSet [(WHORL.SERVO_CFG_SOURCE, 3), (WHORL.LOCK_STATE_STATE, lkLOCKED)]) fun w => { w with source := 2 }
     s.chip.on WHORL.SERVO_CFG_HOST_LOCK = false ∧ s.chip.lock = lkLOCKED ∧ (tAfter .sourceChange s).lock = lkHOLDOVER) ∧
    ((tAfter .sourceChange (tSet [(WHORL.SERVO_CFG_SOURCE, 3)])).lock = lkUNLOCKED) ∧
    (let s := tWh (tSet [(WHORL.SERVO_CFG_SOURCE, 3)]) fun w => { w with source := 3 }
     tOpen s .spi .whorl 0 = true ∧ s.chip.whorl.source = 3 ∧ bitsOf (0x10000003 : Word).toNat 28 28 = 1 ∧ s.chip.lock ≠ lkLOCKED ∧
       s.chip.on WHORL.REFCLK_STATUS_FAULT = false ∧ (tAfter (.hostLockWrite .spi 0x10000003) s).lock = lkLOCKED) ∧
    (let s := tWh (tSet [(WHORL.SERVO_CFG_SOURCE, 3), (WHORL.LOCK_STATE_STATE, lkLOCKED)]) fun w => { w with source := 3 }
     tOpen s .spi .whorl 0 = true ∧ bitsOf (3 : Word).toNat 28 28 = 0 ∧ (tAfter (.hostLockWrite .spi 3) s).fld WHORL.LOCK_STATE_LOSS_CAUSE = 3) ∧
    (let s := tAt (tWh (tSet [(WHORL.LOCK_STATE_STATE, lkLOCKED), (WHORL.SERVO_CFG_LOG_SYNC, 0)]) fun w => { w with source := 1 }) 4000000000
     s.chip.measLost = true ∧ s.chip.lock = lkLOCKED ∧ (tAfter .measurementLoss s).lock = lkHOLDOVER ∧
       (tAt s 3999999999).chip.measLost = false) ∧
    (let s := tAt (tSet [(WHORL.LOCK_STATE_STATE, lkHOLDOVER)]) 1000000
     s.chip.hoUpdateDue = true ∧ s.chip.whorl.hoFaulted = false ∧ s.chip.whorl.hoLimitRaised = false ∧
       (tWh s fun w => { w with hoFaulted := true }).chip.hoUpdateDue = true ∧ State.reset.chip.hoUpdateDue = false) ∧
    (let s := tAt (tWh (tSet [(WHORL.LOCK_STATE_STATE, lkHOLDOVER), (WHORL.HO_LIMIT_NS, 2)]) fun w => { w with hoE0 := 3 }) 1000000
     s.chip.fld WHORL.HO_LIMIT_NS < 3 ∧ (tAfter .hoErrorUpdate s).whorl.hoLimitRaised = true) := by decide +kernel

/-- A Sync of domain 0. -/
def tSync (two : Bool) : PtpMsg :=
  { etherType := 0x88F7, checked := true, domain := 0, clockId := 0, portNumber := 0, seq := 7, twoStep := two, corr := 0, originSec := 0, originNs := 0 }

/-- A part that takes PTP through uplink 0, in lock state `lk`, with a Sync of t2 = 40 ns waiting for its Follow_Up. -/
def tPtp (lk : Nat) (l : List (FieldRow × Nat) := []) : State :=
  tAt (tWh (tSet ([(WHORL.LOCK_STATE_STATE, lk), (UPLINK.LINK_STATUS_STATE, 4)] ++ l)) fun w =>
    { w with source := 1, sync := some { seq := 7, t2 := 2560, corr := 0 } }) 40

/-- R102 to R106: t2 is 40 ns and the origin is 0, so θ is 40 ns. -/
theorem witness_PtpMeasurements :
    (let s := tPtp lkLOCKED
     s.chip.ptpForServo 0 (tSync false) = true ∧ s.chip.lock = lkLOCKED ∧ (tSync false).twoStep = false ∧ (tSync true).twoStep = true ∧
       s.chip.whorl.sync = some { seq := (tSync true).seq.toNat, t2 := 2560, corr := 0 } ∧
       s.chip.ptpTheta 2560 0 0 0 + s.chip.whorl.step.remain = 40 * nsQ ∧ 40 * nsQ ≤ s.chip.fld WHORL.OUTLIER_NS_NS * nsQ ∧
       (let d := tAfter (.ptpFollowUpRx 0 (tSync true)) s
        d.fld WHORL.MEAS_CNT_COUNT = 1 ∧ d.lock = lkLOCKED ∧ d.whorl.sync = none)) ∧
    (let s := tPtp lkUNLOCKED
     s.chip.lock = lkUNLOCKED ∧ (tAfter (.ptpFollowUpRx 0 (tSync true)) s).lock = lkACQUIRING) ∧
    (let s := tWh (tSet [(UPLINK.LINK_STATUS_STATE, 4)]) fun w => { w with source := 1 }
     s.chip.ptpForServo 0 (tSync true) = true ∧ s.chip.whorl.sync = none ∧ s.chip.ptpForServo 0 { tSync true with checked := false } = false ∧
       s.chip.ptpForServo 0 { tSync true with etherType := 0x0800 } = false ∧ State.reset.chip.ptpForServo 0 (tSync true) = false) ∧
    (let s := tPtp lkLOCKED [(WHORL.OUTLIER_NS_NS, 39), (WHORL.LOCK_CFG_OUTLIER_MAX, 2)]
     s.chip.fld WHORL.OUTLIER_NS_NS * nsQ < 40 * nsQ ∧ s.chip.fld WHORL.LOCK_STATE_OUTLIER_RUN + 1 < max 1 (s.chip.fld WHORL.LOCK_CFG_OUTLIER_MAX) ∧
       (tAfter (.ptpFollowUpRx 0 (tSync true)) s).lock = lkLOCKED ∧
       (let u := tF s [(WHORL.LOCK_STATE_OUTLIER_RUN, 1)]
        max 1 (u.chip.fld WHORL.LOCK_CFG_OUTLIER_MAX) ≤ u.chip.fld WHORL.LOCK_STATE_OUTLIER_RUN + 1 ∧
        (tAfter (.ptpFollowUpRx 0 (tSync true)) u).lock = lkACQUIRING ∧
        (tAfter (.ptpFollowUpRx 0 (tSync true)) u).fld WHORL.LOCK_STATE_LOSS_CAUSE = 2)) ∧
    (let s := tPtp lkACQUIRING [(WHORL.LOCK_CFG_LOCK_COUNT, 8), (WHORL.LOCK_CFG_LOCK_THRESH_NS, 41), (WHORL.LOCK_STATE_GOOD_RUN, 7)]
     s.chip.lock = lkACQUIRING ∧ s.chip.fld WHORL.LOCK_CFG_LOCK_COUNT ≤ s.chip.fld WHORL.LOCK_STATE_GOOD_RUN + 1 ∧ s.chip.stepPending = false ∧
       (tAfter (.ptpFollowUpRx 0 (tSync true)) s).lock = lkLOCKED ∧
       (tAfter (.ptpFollowUpRx 0 (tSync true)) (tF s [(WHORL.LOCK_STATE_GOOD_RUN, 6)])).lock = lkACQUIRING) ∧
    (let s := tPtp lkHOLDOVER
     let m := { tSync true with originSec := 1 }
     max 1000 (s.chip.fld WHORL.STEP_THRESH_NS) * nsQ ≤ (s.chip.ptpTheta 2560 1 0 0).natAbs ∧ s.chip.stepPending = false ∧
       (tAfter (.ptpFollowUpRx 0 m) s).whorl.step.remain = 999999960 * (nsQ : Int) ∧
       (tAfter (.ptpFollowUpRx 0 m) s).fld WHORL.STEP_STATUS_ORIGIN = 1) := by
  decide +kernel

/-- R110 to R114 and Table 03.6; the change is ADJ ns. -/
theorem witness_NetworkTimeChanges :
    (let fwd (x : Nat) := tSet [(WHORL.ADJ_LO_NS, x)]
     let bwd (x m : Nat) := tLive m [(WHORL.ADJ_LO_NS, 2 ^ 32 - x), (WHORL.ADJ_HI_NS, 2 ^ 32 - 1)]
     tOpen (fwd 999) .spi .whorl 0 = true ∧ bitsOf (1 : Word).toNat 0 0 = 1 ∧
     (fwd 0).chip.adjChange false = 0 ∧
     ((fwd 999).chip.adjChange false).natAbs < usQ ∧ (tAfter (.adjRequest .spi 1) (fwd 999)).stepState = stSLEWING ∧
     (usQ : Int) ≤ (fwd 1000).chip.adjChange false ∧ (tAfter (.adjRequest .spi 1) (fwd 1000)).whorl.step.whole = true ∧
     (bwd 1000 mRUN).chip.adjChange false ≤ -(usQ : Int) ∧ (bwd 1000 mRUN).chip.running = true ∧
     (tAfter (.adjRequest .spi 1) (bwd 1000 mRUN)).stepState = stSLEWING ∧
     (tAfter (.adjRequest .spi 1) (tF (bwd 1000 mRUN) [(WHORL.STEP_CFG_POLICY, 1)])).stepState = stWAIT ∧
     (bwd 1000 mACQUIRE).chip.running = false ∧ (tAfter (.adjRequest .spi 1) (bwd 1000 mACQUIRE)).stepState = stHOLDING ∧
     ((tAfter (.adjRequest .spi 1) (tWh (fwd 999) fun w => { w with source := 1 })).raised EV.WHORL_STEP_REFUSED = true)) ∧
    (let s := tAt (tWh State.reset fun w => { w with step := { remain := 1000 * nsQ, whole := true } }) 5000
     s.chip.stepPending = true ∧ s.chip.whorl.step.whole = true ∧ 0 ≤ s.chip.whorl.step.remain ∧
       (tAfter .stepApply s).whorl.offset = 1000 * nsQ ∧ State.reset.chip.whorl.step.whole = false) ∧
    (let s := tAt (tWh (tLive mACQUIRE [(WHORL.STEP_STATUS_STATE, stHOLDING)]) fun w => { w with step := { remain := -1000 * nsQ, whole := true } }) 5000
     s.chip.whorl.step.remain < 0 ∧ (tAfter .stepApply s).whorl.offset = -1000 * nsQ ∧ (tAfter .stepApply s).whorl.mark = 6000 * nsQ) ∧
    (let s := tAt (tWh (tLive mRUN [(WHORL.STEP_STATUS_STATE, stWAIT)]) fun w => { w with step := { remain := -2000 * nsQ, boundary := 5000 * nsQ, periodNs := 1000 } }) 5000
     s.chip.boundaryDue = true ∧ (tAfter .stepAtBoundary s).whorl.offset = -1000 * nsQ ∧
       (tAt s 4999).chip.boundaryDue = false) ∧
    (let s := tSet [(WHORL.STEP_STATUS_STATE, stSLEWING)]
     s.chip.stepState = stSLEWING ∧ s.chip.whorl.step.remain = 0 ∧ (tAfter .slewDone s).stepState = stIDLE) ∧
    (let s := tAt (tWh (tSet [(WHORL.STEP_STATUS_STATE, stHOLDING)]) fun w => { w with mark := 5000 * nsQ }) 5000
     s.chip.holdOver = true ∧ s.chip.whorl.step.remain = 0 ∧ (tAfter .holdEnd s).stepState = stIDLE ∧ (tAt s 4999).chip.holdOver = false ∧
       (let u := tWh s fun w => { w with step := { remain := -1 } }
        u.chip.holdOver = true ∧ u.chip.whorl.step.remain ≠ 0 ∧ (tAfter .holdEnd u).stepState = stWAIT)) := by decide +kernel

/-- R115, R119 to R122. -/
theorem witness_PpsAndCycleMarks :
    (let s := tSet [(WHORL.PPS_CFG_OUT_EN, 1)]
     s.chip.ppsOutDue = true ∧ (tAfter .ppsOutEdge s).whorl.ppsNext = 1 ∧ State.reset.chip.ppsOutDue = false) ∧
    (let s := tAt (tSet [(WHORL.PPS_CFG_IN_EN, 1)]) 1500000000
     s.chip.ppsInTaken true = true ∧ s.chip.ppsInTaken false = false ∧ s.chip.whorl.ppsLast = none ∧ s.chip.whorl.source ≠ 2 ∧
       s.chip.ppsInMissingDue = true ∧ (tAt s 1499999999).chip.ppsInMissingDue = false ∧
       (tAfter (.ppsInEdge 0 true) s).fld WHORL.PPS_IN_CNT_ACCEPTED = 1 ∧
       (let u := tWh s fun w => { w with ppsLast := some (1000000001 * nsQ) }
        u.chip.now < 1000000001 * nsQ + 500 * msQ ∧ (tAfter (.ppsInEdge 0 true) u).fld WHORL.PPS_IN_CNT_IGNORED = 1) ∧
       (tAfter (.ppsInEdge 0 true) (tWh s fun w => { w with source := 2 })).fld WHORL.MEAS_CNT_COUNT = 1) ∧
    (let s := tAt State.reset 5000
     tOpen s .spi .whorl 0 = true ∧ (s.chip.markRec 7).pulseEnd ≤ s.chip.now ∧ s.chip.markStart 7 < s.chip.net ∧
       (tAfter (.cycleMarkArm .spi 7 1) s).fld WHORL.MARK_CTRL_ACTIVE 0 7 = 1 ∧ (tAfter (.cycleMarkArm .spi 7 2) s).fld WHORL.MARK_MISSED_COUNT 0 7 = 1 ∧
       (tAfter (.cycleMarkArm .spi 7 2) (tF s [(WHORL.MARK_START_NS_NS, 0)])).fld WHORL.MARK_CTRL_ACTIVE 0 7 = 0 ∧
       (tAfter (.cycleMarkArm .spi 0 2) (tF s [(WHORL.MARK_START_NS_NS, 5000)])).fld WHORL.MARK_CTRL_ACTIVE 0 0 = 1 ∧
       (tAfter (.cycleMarkArm .spi 7 0x5F03) s).fld WHORL.MARK_CTRL_ACTIVE 0 7 = 1 ∧
       (tAfter (.cycleMarkArm .spi 7 0x6003) s).fld WHORL.MARK_CTRL_ACTIVE 0 7 = 0) ∧
    (let s := tMod State.reset fun c => c.setMark 3 { pulseEnd := 1 }
     s.chip.now < (s.chip.markRec 3).pulseEnd ∧ ((tAfter (.cycleMarkArm .spi 3 1) s).markRec 3).waiting = true) ∧
    (let s (m : Nat) := tMod (tAt State.reset 5000) fun c => (c.setMark 3 { mode := m, next := 5000 * nsQ, period := 1000 * nsQ, width := 40 * nsQ }).setFld WHORL.MARK_CTRL_ACTIVE 1 0 3
     (s 1).chip.mode ≠ mRESET ∧ (s 1).chip.markDue 3 = true ∧ (s 2).chip.markDue 3 = true ∧ State.reset.chip.markDue 3 = false ∧
       ((tAfter (.cycleMarkEdge 3) (s 1)).markRec 3).next = 6000 * nsQ ∧ ((tAfter (.cycleMarkEdge 3) (s 2)).markRec 3).mode = 0) ∧
    (let s := tMod (tAt (tLive mRUN) 20000000) fun c => (((((c.setMark 3 { mode := 3, seg := 95 }).setFld WHORL.MARK_CTRL_ACTIVE 1 0 3).setFld
        SEGMENT.SYNC_STATUS_STATE sgMASTER 95).setFld SEGMENT.SYNC_STATUS_CYCLE_VALID 1 95).setEng 95
        { cycleStart := 20000000 * nsQ, starts := [(20000000 * nsQ, 10000000 * nsQ)], nextGrid := 30000000 * nsQ })
     s.chip.mode ≠ mRESET ∧ s.chip.markDue 3 = false ∧ s.chip.segEdge 3 = some (20000000 * nsQ) ∧ State.reset.chip.segEdge 3 = none) := by
  decide +kernel

/-- A part that waits when RUN is left goes whole, and nothing fires in the tick that applies it (R114, R115). -/
theorem witness_NetworkTimeChanges_more :
    (let s := tWh (tLive mRUN [(WHORL.STEP_STATUS_STATE, stWAIT), (GLOBAL.SAFE_CAUSE_ECC_FATAL, 1)]) fun w =>
       { w with step := { remain := -2000 * nsQ, boundary := 5000 * nsQ, periodNs := 1000 } }
     s.chip.stepState = stWAIT ∧ s.chip.running = true ∧ s.chip.safeCause ≠ 0 ∧ (tAfter .safeEntry s).whorl.step.whole = true) ∧
    (let s := tAt (tWh (tLive mRUN [(WHORL.STEP_STATUS_STATE, stWAIT), (WHORL.PPS_CFG_OUT_EN, 1)]) fun w =>
       { w with step := { remain := -2000 * nsQ, boundary := 5000 * nsQ, periodNs := 1000 } }) 5000
     s.chip.backwardNow = true ∧ (tAfter .ppsOutEdge s).whorl.ppsNext = 0) := by decide +kernel

/-! ### The Skein -/

/-- A fused field given a value of its own. -/
def tFuse (s : State) (r : FieldRow) (n v : Nat) : State := tMod s fun c => { c with regs := Tab.put 0 c.regs (r.key n 0) v }

/-- Segment 95 of a part in RUN: EN = 1, its engine in state `st` with record `e`, and more fields of segment 95 changed. -/
def tSeg (st : Nat) (e : SegEng) (l : List (FieldRow × Nat) := []) : State :=
  tMod (tLive mRUN) fun c =>
    let c := ((c.setHdr HDR.CTRL_EN (PageCls.segment.base + 95) 1).setFld SEGMENT.SYNC_STATUS_STATE st 95).setEng 95 e
    l.foldl (fun d x => d.setFld x.1 x.2 95) c

/-- Turn `t` of the oper table of segment 95: its four words. -/
def tTurn (s : State) (t : Nat) (w : List Nat) : State :=
  tMod s fun c => (w.zipIdx).foldl (fun d x => d.setTurnW 95 1 t x.2 x.1) c

/-- R156 to R158, R166: LISTEN is 1, CONTEND 2, PLAIN 7. -/
theorem witness_SegmentStartAndTables :
    (let s := tSeg sgDISABLED {}
     s.chip.segEnabled 95 = true ∧ s.chip.seg 95 = sgDISABLED ∧ s.chip.on SEGMENT.CFG_PLAIN 95 = false ∧
       (tAfter (.segmentPhyReady 95) s).seg 95 = sgLISTEN ∧ State.reset.chip.segEnabled 95 = false) ∧
    ((tAfter (.segmentPhyReady 95) (tSeg sgDISABLED {} [(SEGMENT.CFG_PLAIN, 1)])).seg 95 = sgPLAIN) ∧
    (let s := tMod (tSeg sgLISTEN {}) fun c => c.setHdr HDR.CTRL_EN (PageCls.segment.base + 95) 0
     s.chip.segEnabled 95 = false ∧ s.chip.seg 95 ≠ sgDISABLED ∧ (tAfter (.segmentDisable 95 none) s).seg 95 = sgDISABLED) ∧
    (let s := tSeg sgLISTEN {}
     tOpen s .spi .segment 95 = true ∧ (0 : Word).toNat % 8 = 0 ∧ (tAfter (.segmentDisable 95 (some (.spi, 0))) s).seg 95 = sgDISABLED) ∧
    (let s := tSeg sgLISTEN { listenEnd := some 0 } [(SEGMENT.CFG_CS_EN, 1), (SEGMENT.CFG_CS_ANYTIME, 1)]
     s.chip.listenOver 95 = true ∧ s.chip.mayStart 95 = true ∧ (tAfter (.listenTimeout 95 none) s).seg 95 = sgCONTEND) ∧
    (let s := tSeg sgFOLLOWWAIT { listenEnd := some 0 }
     s.chip.listenOver 95 = true ∧ s.chip.seg 95 ≠ sgLISTEN ∧ (tAfter (.listenTimeout 95 none) s).seg 95 = sgLISTEN ∧
       State.reset.chip.listenOver 95 = false) ∧
    (let s := tSeg sgCONTEND {}
     s.chip.coldstartSentDue 95 = true ∧ (tAfter (.coldstartSent 95) s).seg 95 = sgTRIAL ∧ (s.chip.eng 95).backoffEnd = none ∧
       s.chip.now ≤ (s.chip.eng 95).txEnd ∧ s.chip.fld SEGMENT.CS_STATUS_COLLISIONS 95 + 1 < 16 ∧
       (tAfter (.contendCollision 95) s).seg 95 = sgCONTEND ∧ (tAfter (.contendCollision 95) s).freeCtr = s.chip.freeCtr + 1) ∧
    ((tAfter (.contendCollision 95) (tSeg sgCONTEND {} [(SEGMENT.CS_STATUS_COLLISIONS, 15)])).seg 95 = sgLISTEN) ∧
    (let s := tSeg sgCONTEND { backoffEnd := some 0 }
     s.chip.backoffOver 95 = true ∧ s.chip.seg 95 = sgCONTEND ∧ ((tAfter (.backoffExpiry 95 none) s).eng 95).backoffEnd = none) ∧
    ((tSeg sgPLAIN { backoffEnd := some 0 }).chip.backoffOver 95 = true) ∧
    (let s := tSeg sgLISTEN {}
     tOpen s .spi .segment 95 = true ∧ bitsOf (0x54530001 : Word).toNat 31 16 ≠ 0x5454 ∧ bitsOf (0x54540001 : Word).toNat 31 16 = 0x5454 ∧
       bitsOf (0x54540001 : Word).toNat 0 0 = 1 ∧ bitsOf (0x54540000 : Word).toNat 0 0 = 0 ∧ s.chip.fld SEGMENT.TT_STATUS_STATE 95 ≠ 1 ∧
       s.chip.adminCause 95 ≠ 0 ∧ (tAfter (.ttCommit .spi 95 0x54540001) s).fld SEGMENT.TT_STATUS_STATE 95 = 3 ∧
       (tAfter (.ttCommit .spi 95 0x54530001) s).hdr HDR.ERRCNT_COUNT (PageCls.segment.base + 95) = 1 ∧
       s.chip.hdr HDR.CTRL_EN (PageCls.segment.base + 95) = 1 ∧ s.chip.fld SEGMENT.CFG_PLAIN 95 < 2 ∧ s.chip.fld SEGMENT.CFG_DUAL 95 < 2 ∧
       (tAfter (.segmentCfgWrite .spi 95 false 0x13) s).fld SEGMENT.CFG_PLAIN 95 = 0 ∧
       (tAfter (.segmentCfgWrite .spi 95 false 0x13) s).fld SEGMENT.CFG_CONT_TX_EN 95 = 1 ∧ s.chip.ttSwitchDue 95 = false) ∧
    (let s := tSeg sgLISTEN {} [(FLYER.TT_SLOT_SEALED, 1)]
     s.chip.adminCause 95 = 0 ∧ (tAfter (.ttCommit .spi 95 0x54540001) s).fld SEGMENT.TT_STATUS_STATE 95 = 1) ∧
    (let s := tSeg sgLISTEN {} [(SEGMENT.TT_STATUS_STATE, 1), (SEGMENT.ADMIN_TABLE_ID_ID, 7)]
     s.chip.ttSwitchDue 95 = true ∧ (tAfter (.ttSwitch 95) s).fld SEGMENT.TT_STATUS_OPER_TABLE_ID 95 = 7) ∧
    (let s := tMod (tSeg sgDISABLED {}) fun c => c.setHdr HDR.CTRL_EN (PageCls.segment.base + 95) 0
     tOpen s .spi .segment 95 = true ∧ s.chip.hdr HDR.CTRL_EN (PageCls.segment.base + 95) ≠ 1 ∧
       (tAfter (.segmentCfgWrite .spi 95 true 0xFFFF) s).fld SEGMENT.NODE_CFG_NODE_ID 95 = 63) := by decide +kernel

/-- R117, R156, R158, R160. -/
theorem witness_CyclesAreKept :
    (let s := tSeg sgTRIAL {} [(SEGMENT.CS_STATUS_TRIAL_LEFT, 3)]
     s.chip.seg 95 = sgTRIAL ∧ (s.chip.eng 95).nextGrid ≤ s.chip.net ∧ s.chip.fld SEGMENT.CS_STATUS_TRIAL_LEFT 95 ≠ 0 ∧
       (tAfter (.trialGridPoint 95 true) s).seg 95 = sgLISTEN ∧ (tAfter (.trialGridPoint 95 false) s).fld SEGMENT.CS_STATUS_TRIAL_LEFT 95 = 2 ∧
       s.chip.beaconMissDue 95 = false) ∧
    (let s := tSeg sgTRIAL {}
     s.chip.seg 95 = sgTRIAL ∧ s.chip.fld SEGMENT.CS_STATUS_TRIAL_LEFT 95 = 0) ∧
    (let s := tSeg sgMASTER {} [(SEGMENT.SYNC_STATUS_CYCLE, 65535)]
     s.chip.seg 95 = sgMASTER ∧ (s.chip.eng 95).nextGrid ≤ s.chip.net ∧ s.chip.fld SEGMENT.TT_STATUS_STATE 95 ≠ 1 ∧
       (tAfter (.beaconSend 95) s).fld SEGMENT.SYNC_STATUS_CYCLE 95 = 0 ∧ (tSeg sgMASTER { nextGrid := 1 }).chip.net < 1) ∧
    ((tAfter (.beaconSend 95) (tSeg sgMASTER { beacons := 1 })).on SEGMENT.SYNC_STATUS_ACTIVE 95 = true) ∧
    (let s (k : Nat) (dual : Nat) := tAt (tSeg sgFOLLOWER { anchored := true, predicted := 10000000 * nsQ, missRun := k }
       [(SEGMENT.CFG_DUAL, dual), (SEGMENT.CFG_CS_EN, 1), (SEGMENT.CFG_CS_ANYTIME, 1)]) 20000000
     (s 0 0).chip.beaconMissDue 95 = true ∧ (s 0 0).chip.on SEGMENT.CFG_DUAL 95 = false ∧ 0 + 1 < (s 0 0).chip.lossCycles 95 ∧
       (tAfter (.beaconMiss 95) (s 0 0)).seg 95 = sgFOLLOWER ∧ (s 0 0).chip.lossCycles 95 ≤ 14 + 1 ∧
       (tAfter (.beaconMiss 95) (s 14 0)).seg 95 = sgLISTEN ∧
       (s 14 1).chip.mayStart 95 = true ∧ (s 14 1).chip.takeoverMiss 95 ≤ 14 + 1 ∧ (s 14 1).chip.on SEGMENT.CFG_DUAL 95 = true) := by
  decide +kernel

/-- PUB_CMD: TURN in bits 6 to 0, GO bit 8 (Table 04.16). Turn 1: DEV_STATE of block 4, one block a bank, MAX_PAYLOAD 96. -/
theorem witness_SegmentRegistersCommand :
    (let s := tTurn (tSeg sgFOLLOWER {}) 1 [200000, 100000, 0x01040002, 96]
     tOpen s .spi .segment 95 = true ∧ (s.chip.oper 95 1).kind = 2 ∧ (s.chip.oper 95 1).isDev = true ∧ (s.chip.oper 95 2).isDev = false ∧
       bitsOf (0x140 : Word).toNat 8 8 = 1 ∧ 64 ≤ bitsOf (0x140 : Word).toNat 6 0 ∧
       (tAfter (.pubCmd .spi 95 0x140) s).hdr HDR.ERRCNT_COUNT (PageCls.segment.base + 95) = 1 ∧
       s.chip.bankLen 95 (s.chip.oper 95 1) 1 ≤ (s.chip.oper 95 1).maxPay ∧
       (tAfter (.pubCmd .spi 95 0x101) s).fld SEGMENT.TURN_STAT_PUB_PENDING 95 1 = 1 ∧
       (tAfter (.safeValidWrite .spi 95 1 1) s).fld SEGMENT.TURN_STAT_SAFE_VALID 95 1 = 1 ∧
       s.chip.bankHeld 95 4 = true ∧ s.chip.bankHeld 95 5 = false ∧
       (tAfter (.bufWinWrite .spi 95 128 5) s).hdr HDR.ERRCNT_COUNT (PageCls.segment.base + 95) = 1 ∧
       (tAfter (.bufWinWrite .spi 95 160 5) s).bufByte 95 640 = 5) ∧
    (let s := tMod (tTurn (tSeg sgFOLLOWER {}) 1 [200000, 100000, 0x01040002, 96]) fun c => c.putBuf 95 (6 * 128 + 16) [97, 0, 0, 0]
     (s.chip.oper 95 1).maxPay < s.chip.bankLen 95 (s.chip.oper 95 1) 2 ∧
       (tAfter (.safeValidWrite .spi 95 1 1) s).fld SEGMENT.TURN_STAT_SAFE_VALID 95 1 = 0) ∧
    (let s := tSeg sgMASTER { joinLog := [{ mac := 0x112233445566, node := 63, cls := 1 }] } [(SEGMENT.CFG_JOIN_HOST, 1)]
     tOpen s .spi .segment 95 = true ∧ bitsOf (0x8000003F : Word).toNat 31 31 = 1 ∧ (s.chip.eng 95).joinLog ≠ [] ∧ s.chip.on SEGMENT.CFG_JOIN_HOST 95 = true ∧
       ((tAfter (.joinPop .spi 95 1) s).eng 95).joinLog = [] ∧ ((tAfter (.ackCmd .spi 95 0x8000003F) s).eng 95).hostAck = some (63, 0, 0)) ∧
    ((tAfter (.ackCmd .spi 95 0x8000003F) (tSeg sgMASTER {})).hdr HDR.ERRCNT_COUNT (PageCls.segment.base + 95) = 1) := by decide +kernel

/-- A Skein STATE frame of node 1 with an empty body, cycle 0, TURN = `turn` (R133, R134). -/
def tFrame (typ turn : Nat) (body : List Byte) : List Byte :=
  let f : List Byte := List.replicate 6 0xFF ++ [2, 0, 0, 0, 0, 1, 0x88, 0xB5, BitVec.ofNat 8 (0x10 + typ), 0, 0, 0, BitVec.ofNat 8 turn, 0] ++
    beBytes 2 body.length ++ body
  f ++ List.replicate (60 - f.length) 0

/-- R145 to R148, R150, R151, R153: turn 1 starts 200,000 ns after the cycle start. -/
theorem witness_StaticTurns :
    (let s (kind : Nat) (l : List (FieldRow × Nat)) (f : SegEng → SegEng) :=
       tAt (tTurn (tSeg sgFOLLOWER (f { turnsOpen := true }) ((SEGMENT.SYNC_STATUS_ACTIVE, 1) :: l)) 1 [200000, 100000, 0x01040000 + kind, 96]) 198000
     let safe (s : State) := tMod s fun c => ({ c with modes := { c.modes with safeScene := true } }).setFld SEGMENT.TURN_STAT_SAFE_VALID 1 95 1
     let pub (s : State) := tMod s fun c => c.setFld SEGMENT.TURN_STAT_PUB_PENDING 1 95 1
     let ever (s : State) (x : Bool) := tMod s fun c => (c.setFld SEGMENT.TURN_STAT_AGE 7 95 1).updTurn 95 1 fun r => { r with ever := true, lost := x }
     let s2 := s 2 [] id
     let s3 := s 3 [] id
     s2.chip.latchDue 95 1 2 = true ∧ s2.chip.latchDue 95 1 3 = false ∧ (tAt s2 197999).chip.latchDue 95 1 2 = false ∧
     (safe s2).chip.safeSceneAt ((safe s2).chip.devStart 95 1) = true ∧ (safe s2).chip.on SEGMENT.TURN_STAT_SAFE_VALID 95 1 = true ∧
     (tAfter (.devStateLatch 95 1) (safe s2)).fld SEGMENT.TURN_STAT_AGE 95 1 = 0 ∧
     s2.chip.safeSceneAt (s2.chip.devStart 95 1) = false ∧
     (tAfter (.devStateLatch 95 1) (pub s2)).fld SEGMENT.TURN_STAT_BANK 95 1 = 1 ∧
     ((ever s2 false).chip.turnRec 95 1).ever = true ∧ (tAfter (.devStateLatch 95 1) (ever s2 false)).fld SEGMENT.TURN_STAT_AGE 95 1 = 8 ∧
     (tAfter (.devStateLatch 95 1) s2).fld SEGMENT.TURN_STAT_AGE 95 1 = 255 ∧
     s3.chip.latchDue 95 1 3 = true ∧ (tAfter (.devQueueLatch 95 1) (safe s3)).fld SEGMENT.TURN_STAT_AGE 95 1 = 0 ∧
     (safe s3).chip.latchDue 95 1 3 = true ∧
     ((ever s3 true).chip.turnRec 95 1).lost = true ∧ ((ever s3 true).chip.turnRec 95 1).lastType < 16 ∧
     (tAfter (.devQueueLatch 95 1) (ever s3 true)).fld SEGMENT.TURN_STAT_AGE 95 1 = 8 ∧
     (s3.chip.eng 95).offer = none ∧ (s3.chip.eng 95).cmdq = [] ∧ (tAfter (.devQueueLatch 95 1) s3).fld SEGMENT.TURN_STAT_AGE 95 1 = 255) ∧
    (let s := tAt (tTurn (tSeg sgFOLLOWER { turnsOpen := true, offer := some ({ bytes := tFrame 2 255 [] }, 7) } [(SEGMENT.SYNC_STATUS_ACTIVE, 1)])
        1 [200000, 100000, 0x01040003, 96]) 198000
     s.chip.latchDue 95 1 3 = true ∧ (s.chip.queueOffer 95).map (fun x => (x.1.typ, x.1.len, x.2)) = some (2, 0, 7) ∧
       (tAfter (.devQueueLatch 95 1) s).fld SEGMENT.TURN_STAT_AGE 95 1 = 0 ∧ ((tAfter (.devQueueLatch 95 1) s).eng 95).offer = none ∧
       ((List.range 64).any fun t => (s.chip.oper 95 t).kind == 3 && decide (0 ≤ (s.chip.oper 95 t).maxPay)) = true) ∧
    (let s (k acc : List Nat) (run : Nat) := tMod (tAt (tTurn (tSeg sgFOLLOWER { turnsOpen := true, accepted := acc, ended := k }
        [(SEGMENT.SYNC_CFG_STALE_LIMIT, 1), (SEGMENT.SYNC_CFG_ABSENT_LIMIT, 4)]) 63 [200000, 100000, 0x01040501, 96]) 300000) fun c =>
          c.updTurn 95 63 fun r => { r with run := run }
     (s [] [] 0).chip.turnEndDue 95 63 = true ∧ (s [63] [] 0).chip.turnEndDue 95 63 = false ∧ (tAt (s [] [] 0) 299999).chip.turnEndDue 95 63 = false ∧
       ((tAfter (.partnerTurnEnd 95 63) (s [] [63] 0)).eng 95).ended = [63] ∧ 63 ∈ ((s [] [63] 0).chip.eng 95).accepted ∧
       (tAfter (.partnerTurnEnd 95 63) (s [] [] 0)).raised EV.SEGMENT_PARTNER_CHANGE 95 = true ∧
       (tAfter (.partnerTurnEnd 95 63) (s [] [] 3)).fld SEGMENT.TURN_STAT_ABSENT 95 63 = 1 ∧
       (s [] [] 0).chip.staticCollisionIn 95 63 = true ∧ (s [] [] 0).chip.staticCollisionIn 95 62 = false ∧
       (tAfter (.staticCollision 95 63) (s [] [] 0)).fld SEGMENT.STATIC_COLL_COUNT 95 = 1) ∧
    (let s (b : List Byte) := tTurn (tSeg sgFOLLOWER { offer := some ({ bytes := b }, 5) } [(SEGMENT.CFG_CONT_TX_EN, 0)]) 1 [200000, 100000, 0x01040002, 96]
     let f := parseSeg (tFrame 2 1 [7])
     f.skein = true ∧ f.body = some [7] ∧ f.ver = 1 ∧ f.typ = ftSTATE ∧ f.turn = 1 ∧ f.len ≤ ((s []).chip.oper 95 1).maxPay ∧
       ((s []).chip.oper 95 1).kind = 2 ∧ (s []).chip.seg 95 ≠ sgDISABLED ∧ (s []).chip.seg 95 ≠ sgPLAIN ∧
       (tAfter (.reelFrameOffer 95) (s (tFrame 2 1 [7]))).fld SEGMENT.TURN_STAT_PUB_PENDING 95 1 = 1 ∧
       (parseSeg (List.replicate 60 0)).skein = false ∧ (s []).chip.on SEGMENT.CFG_CONT_TX_EN 95 = false ∧
       (tAfter (.reelFrameOffer 95) (s (List.replicate 60 0))).fld SEGMENT.TX_DROP_COUNT 95 = 1) := by decide +kernel

/-- A frame with its FCS (R220). -/
def tFcs (b : List Byte) : List Byte := b ++ leBytes 4 (crc32 b)

/-- The body of a beacon of node 3: CYCLE_LEN 10,000,000 ns, TABLE_ID 9 (Table 04.4). -/
def tBeacon : List Byte := List.replicate 10 0 ++ beBytes 4 10000000 ++ [0, 9, 3, 128, 0, 0]

theorem tCrc_zeros (n : Nat) : crcRun 0 (List.replicate n 0) = 0 := by
  induction n with
  | zero => rfl
  | succ n ih =>
    rw [List.replicate_succ, crcRun, List.foldl_cons, show crcByte 0 0 = 0 by decide]
    exact ih

/-- A frame of `n` + 8 octets with the FCS that it should have: the octets FF at its head leave the CRC register 0. -/
def tBig (n : Nat) : List Byte := [0xFF, 0xFF, 0xFF, 0xFF] ++ List.replicate n 0 ++ [0xFF, 0xFF, 0xFF, 0xFF]

theorem tBig_fcs (n : Nat) : (tBig n).length = n + 8 ∧
    crc32 ((tBig n).take ((tBig n).length - 4)) = leNat ((tBig n).drop ((tBig n).length - 4)) := by
  have h : (tBig n).length = n + 8 := by simp [tBig]
  have h1 : (tBig n).take (n + 4) = [0xFF, 0xFF, 0xFF, 0xFF] ++ List.replicate n 0 := by
    rw [tBig]; exact List.take_left' (by simp)
  have h2 : (tBig n).drop (n + 4) = [0xFF, 0xFF, 0xFF, 0xFF] := by
    rw [tBig]; exact List.drop_left' (by simp)
  refine ⟨h, ?_⟩
  rw [h, show n + 8 - 4 = n + 4 by omega, h1, h2, crc32, crcRun, List.foldl_append,
    show List.foldl crcByte 0xFFFFFFFF [0xFF, 0xFF, 0xFF, 0xFF] = 0 by decide]
  have := tCrc_zeros n
  rw [crcRun] at this
  rw [this]; decide

/-- R163, R165, R167, R219, R220 and Table 04.13. -/
theorem witness_ContentionAndReception :
    ((tBig 1515).length = 1515 + 8 ∧ crc32 ((tBig 1515).take ((tBig 1515).length - 4)) = leNat ((tBig 1515).drop ((tBig 1515).length - 4))) ∧
    (let f : Csma := { bytes := List.replicate 60 0, retry := true }
     let s := tAt (tSeg sgFOLLOWER { turnsOpen := true, csma := some f, cycleLen := 10000000 } [(SEGMENT.SYNC_STATUS_ACTIVE, 1), (SEGMENT.CFG_CONT_TX_EN, 1)]) 152000
     s.chip.contOpen 95 = true ∧ (tAt s 151999).chip.contOpen 95 = false ∧ s.chip.contFits 95 s.chip.now f.bytes.length = true ∧
       (s.chip.eng 95).backoffEnd = none ∧ (s.chip.eng 95).txEnd ≤ s.chip.now ∧
       (tAfter (.contFrameTx 95 none) s).fld SEGMENT.MAC_TX_FRAMES_COUNT 95 = 1 ∧
       (let u := tSeg sgPLAIN { csma := some f }
        u.chip.seg 95 = sgPLAIN ∧ u.chip.mode ≠ mSAFE ∧ (tAfter (.plainFrameTx 95 none) u).fld SEGMENT.MAC_TX_FRAMES_COUNT 95 = 1) ∧
       (let u (k : Nat) := tSeg sgPLAIN { csma := some { f with retry := false, attempts := k } }
        (u 0).chip.now ≤ ((u 0).chip.eng 95).txEnd ∧ (tAfter (.segmentCsmaCollision 95 true) (u 0)).fld SEGMENT.MAC_LATE_COLL_COUNT 95 = 1 ∧
        (tAfter (.segmentCsmaCollision 95 false) (u 15)).fld SEGMENT.MAC_EXCESS_COLL_COUNT 95 = 1 ∧
        (tAfter (.segmentCsmaCollision 95 false) (u 14)).freeCtr = (u 14).chip.freeCtr + 1)) ∧
    (let s := tAt (tSeg sgMASTER { turnsOpen := true, nextGrid := 10000000 * nsQ, joinLog := [{ mac := 0x112233445566, node := 63, cls := 1 }] }
        [(SEGMENT.SYNC_STATUS_ACTIVE, 1)]) 72000
     s.chip.ackOpen 95 = true ∧ (tAt s 152000).chip.ackOpen 95 = false ∧ s.chip.ackAnswer 95 { mac := 0x112233445566, node := 63, cls := 1 } = some (63, 1, 0) ∧
       ((tAfter (.ackSend 95 { free := none, collision := none }) s).eng 95).ackDone = true ∧ ((tAfter (.ackSend 95 { free := none, collision := none }) s).eng 95).joinLog = []) ∧
    (let s := tFuse (tFuse (tSeg sgLISTEN {}) SEGMENT.MAC_LO_ADDR 95 1) SEGMENT.MAC_HI_ADDR 95 1
     let bad := List.replicate 64 (0 : Byte)
     let good := tFcs (tFrame 1 0 tBeacon)
     s.chip.seg 95 ≠ sgDISABLED ∧ State.reset.chip.seg 95 = sgDISABLED ∧ (bad.drop 1).length < 64 ∧ 64 ≤ bad.length ∧
       crc32 (bad.take 60) ≠ leNat (bad.drop 60) ∧
       64 ≤ good.length ∧ good.length ≤ 1522 ∧ crc32 (good.take (good.length - 4)) = leNat (good.drop (good.length - 4)) ∧
       (let f := parseSeg (good.take (good.length - 4))
        f.skein = true ∧ f.ver = 1 ∧ f.typ = ftBEACON ∧ (f.body.bind parseBeacon).map (·.node) = some 3 ∧ f.src ≠ s.chip.segMac 95) ∧
       (tAfter (.segmentFrameRx 95 1000000 bad true false) s).fld SEGMENT.MAC_RX_ERR_COUNT 95 = 1 ∧
       (tAfter (.segmentFrameRx 95 1000000 (bad.drop 1) false false) s).fld SEGMENT.MAC_RUNT_COUNT 95 = 1 ∧
       (tAfter (.segmentFrameRx 95 1000000 bad false false) s).fld SEGMENT.MAC_FCS_ERR_COUNT 95 = 1 ∧
       (tAfter (.segmentFrameRx 95 1000000 good false false) s).fld SEGMENT.SYNC_STATUS_MASTER_NODE 95 = 3 ∧
       (tAfter (.segmentFrameRx 95 1000000 good false false) s).seg 95 = sgFOLLOWWAIT) := by
  refine ⟨tBig_fcs 1515, ?_⟩
  decide +kernel

/-- R148, R167, R158, R221: carrier until 20,000 ns; R139: a table without a DEV_QUEUE turn drops what waits; R167: a write at EN = 1. -/
theorem witness_SegmentStartAndTables_more :
    (let s := tSeg sgDISABLED { cmdq := [{}, {}] } [(SEGMENT.CFG_PLAIN, 1)]
     s.chip.segEnabled 95 = true ∧ s.chip.on SEGMENT.CFG_PLAIN 95 = true ∧ (s.chip.eng 95).cmdq ≠ [] ∧
       (tAfter (.segmentPhyReady 95) s).fld SEGMENT.TX_DROP_COUNT 95 = 2 ∧ ((tAfter (.segmentPhyReady 95) s).eng 95).cmdq = []) ∧
    (let free : Option (BitVec 96) := some (BitVec.ofNat 96 (20000 * nsQ))
     let s := tSeg sgLISTEN { listenEnd := some 0 } [(SEGMENT.CFG_CS_EN, 1), (SEGMENT.CFG_CS_ANYTIME, 1)]
     s.chip.now < s.chip.lineFree 95 free ∧ s.chip.lineFree 95 free = 29600 * nsQ ∧ s.chip.carrierNow free = true ∧
       s.chip.lineFree 95 none ≤ s.chip.now ∧ (tAfter (.listenTimeout 95 free) s).fld SEGMENT.MAC_DEFERRED_COUNT 95 = 1 ∧
       ((tAfter (.listenTimeout 95 none) s).eng 95).backoffEnd = none ∧
       (let u := tSeg sgCONTEND { backoffEnd := some 0 }
        u.chip.backoffOver 95 = true ∧ u.chip.now < u.chip.lineFree 95 free ∧ (u.chip.eng 95).deferred = false ∧
          ((tAfter (.backoffExpiry 95 free) u).eng 95).backoffEnd = some (29600 * nsQ))) ∧
    (let s := tSeg sgTRIAL {} [(SEGMENT.CS_STATUS_TRIAL_LEFT, 2)]
     s.chip.seg 95 = sgTRIAL ∧ s.chip.now ≤ (s.chip.eng 95).txEnd ∧ (tAfter (.contendCollision 95) s).fld SEGMENT.CS_STATUS_TRIAL_LEFT 95 = 0) ∧
    (let s := tSeg sgLISTEN {} [(SEGMENT.NODE_CFG_NODE_ID, 5)]
     tOpen s .spi .segment 95 = true ∧ s.chip.hdr HDR.CTRL_EN (PageCls.segment.base + 95) = 1 ∧ s.chip.fld SEGMENT.NODE_CFG_NODE_ID 95 < 64 ∧
       s.chip.fld SEGMENT.NODE_CFG_CS_PRIO 95 < 256 ∧ bitsOf (6 : Word).toNat 5 0 ≠ s.chip.fld SEGMENT.NODE_CFG_NODE_ID 95 ∧
       (tAfter (.segmentCfgWrite .spi 95 true 6) s).fld SEGMENT.NODE_CFG_NODE_ID 95 = 5 ∧
       (tAfter (.segmentCfgWrite .spi 95 true 6) s).hdr HDR.ERRCNT_COUNT (PageCls.segment.base + 95) = 1 ∧
       (let v := 256 * s.chip.fld SEGMENT.NODE_CFG_CS_PRIO 95 + 5
        (tAfter (.segmentCfgWrite .spi 95 true (BitVec.ofNat 32 v)) s).hdr HDR.ERRCNT_COUNT (PageCls.segment.base + 95) = 0)) ∧
    (let s := tSeg sgMASTER { cmdq := [{}], turnsOpen := true, switchEnd := true } [(SEGMENT.TT_STATUS_STATE, 1)]
     s.chip.ttSwitchDue 95 = true ∧ ((tAfter (.ttSwitch 95) s).eng 95).cmdq = [] ∧ ((tAfter (.ttSwitch 95) s).eng 95).turnsOpen = false ∧
       (tAfter (.ttSwitch 95) s).fld SEGMENT.TX_DROP_COUNT 95 = 1) := by decide +kernel

/-- `SegFrameOk` as a truth value. -/
def tOk (octets : List Byte) (typ : Nat) : Bool :=
  let f := parseSeg (octets.take (octets.length - 4))
  decide (64 ≤ octets.length ∧ octets.length ≤ 1522 ∧
    crc32 (octets.take (octets.length - 4)) = leNat (octets.drop (octets.length - 4)) ∧ f.skein = true ∧ f.ver = 1 ∧ f.typ = typ)

theorem segFrameOk_of_tOk {o : List Byte} {typ : Nat} (h : tOk o typ = true) : SegFrameOk o typ := by
  simpa [tOk, SegFrameOk] using h

/-- The stamp of a frame that starts `k` ns after reset (R101). -/
def tStamp (k : Nat) : BitVec 96 := BitVec.ofNat 96 ((k + 6400) * nsQ)

/-- R152, R186 to R189 and Table 04.11, turn 63 of node 5 at 200,000 ns. -/
theorem witness_StaticTurns_received :
    let s (e : SegEng → SegEng) (l : List (FieldRow × Nat)) :=
      tTurn (tTurn (tSeg sgFOLLOWER (e { turnsOpen := true, anchored := true }) l) 64 [5000000]) 63 [200000, 100000, 0x01040501, 96]
    let go (t k : Nat) (s : State) := tAfter (.segmentFrameRx 95 (tStamp k) (tFcs (tFrame ftSTATE t [7])) false false) s
    let f := tFcs (tFrame ftSTATE 63 [7])
    ftSTATE ∈ [ftSTATE, ftCOMMAND] ∧ tOk f ftSTATE = true ∧ (s id []).chip.seg 95 ∉ [sgDISABLED, sgPLAIN] ∧ (s id []).chip.holdsCycle 95 = true ∧
    (s id []).chip.placeFrame 95 ((s id []).chip.frameStart (tStamp 200000).toNat) = 63 ∧ ((s id []).chip.oper 95 63).isPartner = true ∧
    (parseSeg (f.take (f.length - 4))).body = some [7] ∧
    (go 63 200000 (s (fun e => { e with seen := [63] }) [])).fld SEGMENT.RX_HDR_ERR_COUNT 95 = 1 ∧
    (s id []).chip.inWindow 95 0 = true ∧ (s id []).chip.inWindow 95 20000 = false ∧ (s id []).chip.placeFrame 95 ((s id []).chip.frameStart (tStamp 220000).toNat) = 63 ∧
    (go 63 220000 (s id [])).fld FLYER.WIN_FAULTS_COUNT 95 = 1 ∧
    (go 62 200000 (s id [])).fld SEGMENT.RX_HDR_ERR_COUNT 95 = 1 ∧
    (go 63 200000 (tTurn (s id []) 63 [200000, 100000, 0x01040501, 0])).fld SEGMENT.RX_OVERSIZE_COUNT 95 = 1 ∧
    (go 63 200000 (s id [(SEGMENT.CFG_JOIN_REQUIRED, 1)])).fld SEGMENT.RX_UNJOINED_COUNT 95 = 1 ∧
    (go 63 200000 (s id [])).bankPayload 95 ((s id []).chip.oper 95 63) 1 = [7] ∧
    ((go 63 200000 (s id [])).driftRec 95 5).valid = true ∧ ((go 63 200000 (s id [])).eng 95).accepted = [63] := by decide +kernel

/-- R57, R148 and R392 at the DEV_QUEUE latch of turn 1. -/
theorem witness_StaticTurns_queue :
    let s (e : SegEng → SegEng) :=
      tAt (tTurn (tSeg sgFOLLOWER (e { turnsOpen := true }) [(SEGMENT.SYNC_STATUS_ACTIVE, 1)]) 1 [200000, 100000, 0x01040003, 96]) 198000
    let ps (a : Int) : CmdPayload := { apply := a, count := 2, bytes := [1, 2] }
    let ok := ps (64 * 10000000)
    let go (s : State) := tAfter (.devQueueLatch 95 1) s
    let late (s : State) (p : CmdPayload) := decide (p.apply * (2 ^ 26 : Int) + (s.chip.fld DISTAFF.APPLY_LATE_TOL_NS * nsQ : Nat) < s.chip.payloadEnd 95 1 p)
    let frame : Option (Packet × Nat) := some ({ bytes := tFrame ftSTATE 255 [] }, 5)
    (let u := s (fun e => { e with cmdq := [ok, ok] })
     u.chip.latchDue 95 1 3 = true ∧ u.chip.queueOffer 95 = none ∧ u.chip.unholdable 95 ok = false ∧ late u ok = false ∧
       ok.bytes.length ≤ (u.chip.oper 95 1).maxPay ∧ ((go u).eng 95).cmdq = [ok] ∧ (go u).fld DISTAFF.ITEMS_ON_TIME_COUNT = 2 ∧
       (let w := tMod u fun c => c.setFld GLOBAL.MODE_MODE mSTANDBY
        w.chip.mode = mSTANDBY ∧ (w.chip.turnRec 95 1).lastType < 16)) ∧
    (let old := ps (-64000000000)
     let u := s (fun e => { e with cmdq := [old] })
     late u old = true ∧ u.chip.unholdable 95 old = false ∧ ((go u).eng 95).cmdq = [] ∧ (go u).fld DISTAFF.ITEMS_EXPIRED_COUNT = 2) ∧
    (let big := { ps 0 with bytes := List.replicate 97 0 }
     let u := s (fun e => { e with cmdq := [big] })
     u.chip.unholdable 95 big = true ∧ (go u).fld SEGMENT.TX_DROP_COUNT 95 = 1) ∧
    (let u := s (fun e => { e with offer := frame, cmdq := [ok] })
     (u.chip.queueOffer 95).map (·.2) = some 5 ∧ (u.chip.eng 95).burst < max 1 (u.chip.fld SEGMENT.CMD_CFG_CMD_BURST 95) ∧
       ((go u).eng 95).burst = 1 ∧ ((go u).eng 95).offer = frame ∧
       (let w := tMod u fun c => (c.setFld SEGMENT.CMD_CFG_CMD_BURST 4 95).setEng 95 { c.eng 95 with burst := 4 }
        max 1 (w.chip.fld SEGMENT.CMD_CFG_CMD_BURST 95) ≤ (w.chip.eng 95).burst ∧ ((go w).eng 95).offer = none ∧ ((go w).eng 95).cmdq = [ok])) ∧
    (let u := tAt (tTurn (tSeg sgFOLLOWER { turnsOpen := true, latched := [1] }) 1 [200000, 100000, 0x01040003, 96]) 250000
     u.chip.staticCollisionIn 95 1 = true ∧ 1 ∈ (u.chip.eng 95).latched ∧ (u.chip.oper 95 1).kind = 3 ∧
       ((tAfter (.staticCollision 95 1) u).eng 95).txEnd = 253200 * nsQ) := by decide +kernel

/-- R163, R165, R167, R218, R221: what the line makes the frames of CSMA/CD do. -/
theorem witness_ContentionAndReception_line :
    let free : Option (BitVec 96) := some (BitVec.ofNat 96 (1000000 * nsQ))
    let f : Csma := { bytes := List.replicate 60 0, retry := true }
    (let s (e : SegEng → SegEng) := tAt (tSeg sgFOLLOWER (e { turnsOpen := true, cycleLen := 10000000 }) [(SEGMENT.SYNC_STATUS_ACTIVE, 1), (SEGMENT.CFG_CONT_TX_EN, 1)]) 152000
     let a := s fun e => { e with csma := some f }
     let b := s fun e => { e with offer := some ({ bytes := List.replicate 60 0 }, 5) }
     a.chip.contOpen 95 = true ∧ a.chip.now < a.chip.lineFree 95 free ∧ a.chip.carrierNow free = true ∧ f.deferred = false ∧
       (tAfter (.contFrameTx 95 free) a).fld SEGMENT.MAC_DEFERRED_COUNT 95 = 1 ∧
       (b.chip.eng 95).csma = none ∧ (parseSeg (List.replicate 60 0)).skein = false ∧ b.chip.contFits 95 b.chip.now 60 = true ∧
       b.chip.lineFree 95 none ≤ b.chip.now ∧ ((tAfter (.contFrameTx 95 none) b).eng 95).offer = none) ∧
    (let u := tSeg sgPLAIN { csma := some f }
     u.chip.now < u.chip.lineFree 95 free ∧ (tAfter (.plainFrameTx 95 free) u).fld SEGMENT.MAC_DEFERRED_COUNT 95 = 1 ∧
       (let w := tSeg sgPLAIN { csma := some { f with deferred := true } }
        (tAfter (.plainFrameTx 95 free) w).fld SEGMENT.MAC_DEFERRED_COUNT 95 = 0)) ∧
    (let s := tAt (tSeg sgMASTER { turnsOpen := true, nextGrid := 10000000 * nsQ, joinLog := [{ mac := 0x112233445566, node := 63, cls := 1 }] }
        [(SEGMENT.SYNC_STATUS_ACTIVE, 1)]) 72000
     s.chip.now < s.chip.lineFree 95 free ∧ s.chip.carrierNow free = true ∧ (s.chip.eng 95).ackDeferred = false ∧
       (tAfter (.ackSend 95 { free := free, collision := none }) s).fld SEGMENT.MAC_DEFERRED_COUNT 95 = 1) := by decide +kernel

/-- A BEACON or COLDSTART of node 3 with TRIAL_LEFT `left`, CS_PRIO 128 and the oper table's TABLE_ID 0 or not. -/
def tCycleFrame (typ left id : Nat) : List Byte :=
  tFcs (tFrame typ 0 (List.replicate 10 0 ++ beBytes 4 10000000 ++ beBytes 2 id ++ [3, 128, BitVec.ofNat 8 left, 0]))

/-- R159, R161, R162 and Table 04.13 in TRIAL, MASTER, FOLLOW_WAIT and FOLLOWER. -/
theorem witness_ContentionAndReception_cycles :
    let s (st : Nat) (e : SegEng → SegEng) (prio : Nat) :=
      tFuse (tFuse (tSeg st (e {}) [(SEGMENT.NODE_CFG_CS_PRIO, prio), (SEGMENT.OPER_CYCLE_LEN_NS, 10000000)]) SEGMENT.MAC_LO_ADDR 95 1)
        SEGMENT.MAC_HI_ADDR 95 1
    let go (f : List Byte) (s : State) := tAfter (.segmentFrameRx 95 (tStamp 100000) f false false) s
    let b := tCycleFrame ftBEACON 0 0
    let k (left : Nat) := tCycleFrame ftCOLDSTART left 0
    let body : BeaconBody := { cycleLen := 10000000, tableId := 0, node := 3, prio := 128, trialLeft := 0 }
    let old (e : SegEng) : SegEng := { e with anchored := true, predicted := 50000 * nsQ, cycleLen := 10000 }
    let near (e : SegEng) : SegEng := { e with anchored := true, opened := true, predicted := 100000 * nsQ, cycleLen := 10000 }
    tOk b ftBEACON = true ∧ tOk (k 4) ftCOLDSTART = true ∧ tOk (k 2) ftCOLDSTART = true ∧
    ((parseSeg (b.take (b.length - 4))).body.bind parseBeacon) = some body ∧ (parseSeg (b.take (b.length - 4))).src ≠ (s sgTRIAL id 200).chip.segMac 95 ∧
    (s sgTRIAL id 200).chip.otherWins 95 body 0x020000000001 = true ∧ (s sgTRIAL id 100).chip.otherWins 95 body 0x020000000001 = false ∧
    (go (k 4) (s sgTRIAL id 200)).seg 95 = sgFOLLOWWAIT ∧ (go (k 2) (s sgTRIAL id 100)).fld SEGMENT.FOREIGN_MASTER_COUNT 95 = 1 ∧
    (go b (s sgMASTER id 200)).seg 95 = sgFOLLOWWAIT ∧ (go b (s sgMASTER id 100)).fld SEGMENT.FOREIGN_MASTER_COUNT 95 = 1 ∧
    (s sgFOLLOWWAIT id 100).chip.tableMatches 95 body = true ∧ (s sgFOLLOWWAIT id 100).chip.tableMatches 95 { body with tableId := 9 } = false ∧
    (go b (s sgFOLLOWWAIT id 100)).fld SEGMENT.SYNC_STATUS_CYCLE_VALID 95 = 1 ∧ (go b (s sgFOLLOWWAIT near 100)).seg 95 = sgFOLLOWER ∧
    (go (tCycleFrame ftBEACON 0 9) (s sgFOLLOWER near 100)).fld SEGMENT.TABLE_MISMATCH_COUNT 95 = 1 ∧
    (s sgFOLLOWER old 100).chip.inWindow 95 50000 = false ∧ (go b (s sgFOLLOWER old 100)).fld FLYER.WIN_FAULTS_COUNT 95 = 1 ∧
    (go (k 4) (s sgFOLLOWWAIT id 100)).fld SEGMENT.SYNC_STATUS_MASTER_NODE 95 = 3 ∧ (go (k 4) (s sgFOLLOWER near 100)).seg 95 = sgFOLLOWER ∧
    ((go (k 2) (s sgFOLLOWWAIT near 100)).eng 95).cycleLen = 10000000 ∧ (go (k 2) (s sgFOLLOWER near 100)).fld SEGMENT.MAC_RX_FRAMES_COUNT 95 = 1 := by
  decide +kernel

/-- R154, R161, R164: a JOIN of node 63 and an ACK for it. -/
theorem witness_ContentionAndReception_joins :
    let join := tFcs (tFrame ftJOIN 64 [63, 1, 0, 0, 0, 0, 0, 0])
    let ack := tFcs (tFrame ftACK 64 [0x11, 0x22, 0x33, 0x44, 0x55, 0x66, 63, 0, 1, 0, 0, 0])
    let go (f : List Byte) (s : State) := tAfter (.segmentFrameRx 95 (tStamp 200000) f false false) s
    let j : JoinEntry := { mac := 1, node := 1, cls := 0 }
    let own := tTurn (tTurn (tSeg sgFOLLOWER { anchored := true }) 64 [5000000]) 1 [200000, 100000, 0x01040002, 96]
    let dual := tMod (tTurn (tSeg sgFOLLOWER { anchored := true } [(SEGMENT.CFG_DUAL, 1)]) 1 [200000, 100000, 0x01043F01, 96]) fun c =>
      c.setFld64 SEGMENT.MASTER_MAC_LO_ADDR SEGMENT.MASTER_MAC_HI_ADDR 0x020000000001 95
    tOk join ftJOIN = true ∧ tOk ack ftACK = true ∧ (tSeg sgPLAIN {}).chip.seg 95 = sgPLAIN ∧
    ((go join (tSeg sgPLAIN {})).eng 95).joinLog = [{ mac := 0x020000000001, node := 63, cls := 1 }] ∧
    (go join (tSeg sgLISTEN { joinLog := List.replicate 16 j })).fld SEGMENT.JOIN_INFO_OVERFLOW 95 = 1 ∧
    (tSeg sgLISTEN {}).chip.inOwnTurn 95 ((tSeg sgLISTEN {}).chip.frameStart (tStamp 200000).toNat) = false ∧
    own.chip.inOwnTurn 95 (own.chip.frameStart (tStamp 200000).toNat) = true ∧ (go join own).fld SEGMENT.RX_HDR_ERR_COUNT 95 = 1 ∧
    dual.chip.on SEGMENT.CFG_DUAL 95 = true ∧ dual.chip.seg 95 ∈ [sgFOLLOWWAIT, sgFOLLOWER] ∧ 1 ∈ dual.chip.partnerTurns 95 ∧
    (dual.chip.oper 95 1).owner = 63 ∧ dual.chip.fld64 SEGMENT.MASTER_MAC_LO_ADDR SEGMENT.MASTER_MAC_HI_ADDR 95 = 0x020000000001 ∧
    dual.chip.inOwnTurn 95 (dual.chip.frameStart (tStamp 200000).toNat) = false ∧ (go ack dual).fld SEGMENT.TURN_STAT_JOINED 95 1 = 1 ∧
    ((go ack dual).turnRec 95 1).mac = 0x112233445566 := by decide +kernel

/-! ### The Flyer -/

/-- Flyer 95 of a part in RUN: EN = 1, state `st`, record `f`, slot 0 sealed with CYCLE_LEN 10,000,000 ns and TABLE_ID 9, and more of
its fields changed. -/
def tFly (st : Nat) (f : Flyer) (l : List (FieldRow × Nat) := []) : State :=
  tMod (tLive mRUN) fun c =>
    let c := (((c.setHdr HDR.CTRL_EN (PageCls.flyer.base + 95) 1).setFld FLYER.SYNC_STATUS_STATE st 95).setFly 95 f).setFld FLYER.TT_SLOT_SEALED 1 95 0
    l.foldl (fun d x => d.setFld x.1 x.2 95) (c.setFlyW 95 0 0 0x07D00009)

/-- Words of slot 0 of Flyer 95. -/
def tSlot (s : State) (l : List (Nat × Nat)) : State := tMod s fun c => l.foldl (fun d x => d.setFlyW 95 0 x.1 x.2) c

/-- Slot 0 of Flyer 95 is staging. -/
def tStage0 (s : State) : State := tMod s fun c => c.setFld FLYER.TT_SEAL_STATUS_STAGE_SLOT 0 95

/-- The seal check of the reset contents of slot 1, with the CRC that they have. -/
def tSealing (ok : Bool) : State :=
  tMod (tFly fyUNSYNC {}) fun c =>
    let img := c.slotImage 95 1
    c.setFly 95 { sealing := some 1, sealImage := img, sealCrc := if ok then crc32 ((img.map (leBytes 4)).flatten) else 0 }

theorem tSealing_ok : (tSealing true).chip.sealCause 95 1 ((tSealing true).chip.slotImage 95 1)
    (crc32 ((((tSealing true).chip.slotImage 95 1).map (leBytes 4)).flatten)) = 0 := by
  unfold Chip.sealCause
  simp only [ne_eq, not_true_eq_false, if_false]
  decide +kernel

/-- R173 to R179, R181, R184, R189, R193: the keys are 0x5345 and 0x4652. -/
theorem witness_FlyerControlAndTracking :
    ((tSealing true).chip.sealCause 95 1 ((tSealing true).chip.slotImage 95 1)
      (crc32 ((((tSealing true).chip.slotImage 95 1).map (leBytes 4)).flatten)) = 0) ∧
    (let s := tFly fyUNSYNC {} [(FLYER.TT_SEAL_STATUS_STAGE_SLOT, 1)]
     tOpen s .spi .flyer 95 = true ∧ bitsOf (0x53450001 : Word).toNat 31 16 = 0x5345 ∧ bitsOf (0x53450001 : Word).toNat 0 0 = 1 ∧
       bitsOf (0x53450001 : Word).toNat 1 1 = 0 ∧ bitsOf (0x53450002 : Word).toNat 1 1 = 1 ∧
       (tAfter (.ttSeal .spi 95 0x53460001) s).hdr HDR.ERRCNT_COUNT (PageCls.flyer.base + 95) = 1 ∧
       s.chip.fld FLYER.TT_SEAL_STATUS_STATE 95 ≠ 1 ∧ s.chip.stageSlot 95 = 1 ∧ s.chip.slotSealed 95 1 = false ∧ s.chip.slotSealed 95 0 = true ∧
       (tAfter (.ttSeal .spi 95 0x53450001) s).fld FLYER.TT_SEAL_STATUS_STATE 95 = 1 ∧
       s.chip.fld SEGMENT.TT_STATUS_STATE 95 ≠ 1 ∧ (s.chip.fly 95).active ≠ some 1 ∧
       (tAfter (.ttUnseal .spi 95 0x53450002) (tStage0 s)).slotSealed 95 0 = false ∧ (tStage0 s).chip.stageSlot 95 = 0 ∧
       (tFly fyUNSYNC { active := some 0 }).chip.stageSlot 95 = 0 ∧
       (tAfter (.ttUnseal .spi 95 0x53450002) (tFly fyUNSYNC { active := some 0 })).fld FLYER.TT_SEAL_STATUS_CAUSE 95 = 6 ∧
       (tFly fyUNSYNC {} [(FLYER.TT_SEAL_STATUS_STATE, 1)]).chip.fld FLYER.TT_SEAL_STATUS_STATE 95 = 1) ∧
    (let s := tFly fyUNSYNC {} [(FLYER.TT_SEAL_STATUS_STAGE_SLOT, 1)]
     bitsOf (0x46520001 : Word).toNat 31 16 = 0x4652 ∧
       (tAfter (.rearm .spi 95 0x46520001) (tFly fyUNSYNC {} [(FLYER.TX_STATUS_LATCHED, 1)])).fld FLYER.TX_STATUS_LATCHED 95 = 0 ∧
       (tAfter (.driftCmd .spi 95 0x8000003F) (tMod s fun c => c.setDrift 95 63 { last := 9 })).driftRec 95 63 = {} ∧
       bitsOf (0x8000003F : Word).toNat 31 31 = 1 ∧ bitsOf (0x8000003F : Word).toNat 8 8 = 0 ∧ bitsOf (0x80000100 : Word).toNat 8 8 = 1 ∧
       s.chip.fld FLYER.PWR_CTRL_STATE 95 = pwOFF ∧ (tAfter (.pwrOnWrite .spi 95 0) s).fld FLYER.PWR_CTRL_STATE 95 = pwOFF ∧
       (tAfter (.pwrOnWrite .spi 95 1) (tFly fyUNSYNC {} [(FLYER.PWR_CTRL_STATE, pwOFF)])).fld FLYER.PWR_CTRL_STATE 95 = pwON ∧
       (tAfter (.pwrRestore .spi 95 0x80000001) (tFly fyUNSYNC {} [(FLYER.PWR_CTRL_STATE, pwHELD)])).fld FLYER.PWR_CTRL_STATE 95 = pwON ∧
       (tAfter (.pwrRestore .spi 95 1) (tFly fyUNSYNC {} [(FLYER.PWR_CTRL_STATE, pwHELD)])).fld FLYER.PWR_CTRL_STATE 95 = pwHELD ∧
       ((tAfter (.pwrRestore .spi 95 0x80000001) (tFly fyUNSYNC { cutCount := 2 } [(FLYER.PWR_CTRL_STATE, pwON)])).fly 95).cutCount = 0) ∧
    (let s := tFly fyOFF {}
     s.chip.flySt 95 = fyOFF ∧ s.chip.hdr HDR.CTRL_EN (PageCls.flyer.base + 95) = 1 ∧ s.chip.dom .seg = domON ∧
       (tAfter (.flyerEnable 95 none) s).flySt 95 = fyUNSYNC ∧ tOpen s .spi .flyer 95 = true ∧ (1 : Word).toNat % 8 = 1 ∧
       (tAfter (.flyerEnable 95 (some (.spi, 1))) s).flySt 95 = fyUNSYNC ∧
       (tAfter (.flyerDisable 95 (some (.spi, 0))) (tFly fySYNC {})).flySt 95 = fyOFF ∧ (tFly fySYNC {}).chip.flySt 95 ≠ fyOFF ∧
       (let u := tMod (tFly fySYNC {}) fun c => c.setHdr HDR.CTRL_EN (PageCls.flyer.base + 95) 0
        u.chip.hdr HDR.CTRL_EN (PageCls.flyer.base + 95) = 0 ∧ (tAfter (.flyerDisable 95 none) u).flySt 95 = fyOFF)) ∧
    (let good := tFcs (tFrame 1 0 tBeacon)
     let s := tFly fyUNSYNC {}
     let m := parseSeg (good.take (good.length - 4))
     crc32 (good.take (good.length - 4)) = leNat (good.drop (good.length - 4)) ∧ m.skein = true ∧ m.ver = 1 ∧ m.typ = ftBEACON ∧
       (m.body.bind parseBeacon).map (fun b => (b.tableId, b.cycleLen)) = some (9, 10000000) ∧ s.chip.matchSlot 95 9 10000000 = some 0 ∧
       s.chip.on WHORL.REFCLK_STATUS_FAULT = false ∧ (tAfter (.flyerBeaconDetect 95 (tStamp 100) good) s).flySt 95 = fySYNCWAIT ∧
       (let u := tFly fySYNCWAIT { active := some 0, predicted := (s.chip.flyStart (tStamp 100).toNat).toNat + 2000 * nsQ }
        u.chip.flyTakes 95 (u.chip.flyStart (tStamp 100).toNat) (m.flags.testBit 5) = true ∧ (tAfter (.flyerBeaconDetect 95 (tStamp 100) good) u).flySt 95 = fySYNC) ∧
       (let u := tStage0 (tSlot (tFly fySYNC { active := some 0 }) [(0, 0x07D00008)])
        u.chip.matchSlot 95 9 10000000 = none ∧ (tAfter (.flyerBeaconDetect 95 (tStamp 100) good) u).fld FLYER.BEACON_REJECT_COUNT 95 = 1)) ∧
    (let s (r : Nat) := tAt (tFly fySYNC { active := some 0, predicted := 1000000 * nsQ } [(FLYER.SYNC_STATUS_MISS_RUN, r), (FLYER.CFG_LOSS_CYCLES, 4)]) 1060401
     (s 0).chip.flyMissDue 95 = true ∧ (tAt (s 0) 1060400).chip.flyMissDue 95 = false ∧ 1 < (s 0).chip.flyLoss 95 ∧ (s 3).chip.flyLoss 95 ≤ 4 ∧
       (tAfter (.flyerBeaconMiss 95) (s 0)).flySt 95 = fySYNC ∧ (tAfter (.flyerBeaconMiss 95) (s 3)).flySt 95 = fyUNSYNC) ∧
    (let s := tAt (tFly fySYNC { active := some 0, predicted := 1000000 * nsQ } [(FLYER.SYNC_STATUS_MASTER_SELF, 1)]) 1002000
     s.chip.extDue 95 = true ∧ (tAt s 1001999).chip.extDue 95 = false ∧ (tAfter (.extAllowance 95) s).fld FLYER.SYNC_STATUS_EXT_ALLOW 95 = 1) ∧
    (((tSealing false).chip.fly 95).sealing = some 1 ∧ ((tSealing false).chip.fly 95).sealCrc = 0 ∧ (tFly fySYNC {}).chip.fly 95 = {}) := by
  refine ⟨tSealing_ok, ?_, ?_, ?_, ?_⟩ <;> decide +kernel

/-- R180, R183, R184, R471: turn 3 of the slot is SELF, from 200,000 ns on for 100,000 ns, 1,000 ns wider at each end. -/
theorem witness_DriverWindowsGuard :
    (let s (st t : Nat) (l : List (FieldRow × Nat)) := tAt (tSlot (tMod (tFly st { active := some 0, predicted := 10000000 * nsQ }
        ((FLYER.SYNC_STATUS_CYCLE_OK, 1) :: l)) fun c => c.setEng 95 { lastTx := some { start := t * nsQ, octets := List.replicate 64 0 }, txEnd := (t + 58400) * nsQ })
        [(8, 0x80000000 + 200000), (9, 100000), (130, 400000)]) 300960
     (s fyOPEN 5 []).chip.modes.segSupplyBad = false ∧ (s fyOPEN 5 []).chip.on FLYER.TX_STATUS_LATCHED 95 = false ∧ 5 * nsQ ≤ (s fyOPEN 5 []).chip.now ∧
       (tAfter (.txAttempt 95 0) (s fyOPEN 5 [])).fld FLYER.TX_STATUS_DRIVER_ON 95 = 1 ∧
       (s fySYNC 199000 []).chip.windowClose 95 (199000 * nsQ) = some (301000 * nsQ) ∧ (s fySYNC 300960 []).chip.windowClose 95 (300960 * nsQ) = some (301000 * nsQ) ∧
       (s fySYNC 199000 []).chip.on WHORL.REFCLK_STATUS_FAULT = false ∧
       (tAfter (.txAttempt 95 0) (s fySYNC 199000 [])).fld FLYER.TX_STATUS_DRIVER_ON 95 = 1 ∧
       (s fySYNC 198999 []).chip.windowClose 95 (198999 * nsQ) = none ∧ (s fySYNC 198999 []).chip.extCovers 95 (198999 * nsQ) = false ∧
       (tAfter (.txAttempt 95 0) (s fySYNC 198999 [])).fld FLYER.TX_STATUS_VIOL_RUN 95 = 1 ∧
       (tAfter (.txAttempt 95 0) (s fySYNC 198999 [(FLYER.TX_STATUS_VIOL_RUN, 2)])).fld FLYER.TX_STATUS_LATCHED 95 = 1 ∧
       (s fySYNC 199000 [(FLYER.TX_STATUS_LATCHED, 1)]).chip.on FLYER.TX_STATUS_LATCHED 95 = true ∧
       (tAfter (.txAttempt 95 0) (s fySYNC 199000 [(FLYER.TX_STATUS_LATCHED, 1)])).fld FLYER.BLOCKED_COUNT 95 = 1 ∧
       (let u := tF (s fySYNC 199000 []) [(WHORL.REFCLK_STATUS_FAULT, 1)]
        u.chip.on WHORL.REFCLK_STATUS_FAULT = true ∧ (tAfter (.txAttempt 95 0) u).fld FLYER.BLOCKED_COUNT 95 = 1) ∧
       (let u := s fyUNSYNC 100000 []
        (tAfter (.txAttempt 95 9600) u).fld FLYER.TX_STATUS_DRIVER_ON 95 = 1 ∧ u.chip.budgetUsed 95 = 0 ∧
          u.chip.fld FLYER.UNSYNC_BUDGET_US 95 = 2000 ∧ (tAfter (.txAttempt 95 9599) u).fld FLYER.BLOCKED_COUNT 95 = 1 ∧
          (tAfter (.txAttempt 95 9600) u).budgetUsed 95 = 58400 * nsQ ∧
          (let v := tF (tMod u fun c => c.updFly 95 fun f => { f with budgetUsed := 2000 * usQ }) []
           v.chip.budgetUsed 95 = 2000 * usQ ∧ (tAfter (.txAttempt 95 9600) v).fld FLYER.FAULT_STATUS_BUDGET 95 = 1))) ∧
    (let s := tFly fySYNC { tx := some { start := 0, close := some 0, endAt := 1 } }
     (s.chip.eng 95).lastTx = none ∧ (tAfter (.windowCloseCut 95) s).fld FLYER.TRUNCATED_COUNT 95 = 1 ∧ ((tFly fySYNC {}).chip.fly 95).tx = none) := by
  decide +kernel

/-- R190 to R192, R194: turn 63 of the slot is a PARTNER turn of node 5, from 200,000 ns on for 100,000 ns. -/
theorem witness_BabblingAndSegmentPower :
    (let s (l : List (FieldRow × Nat)) (f : Flyer) := tAt (tSlot (tFly fySYNC { f with active := some 0, predicted := 10000000 * nsQ }
        ((FLYER.SYNC_STATUS_CYCLE_OK, 1) :: (FLYER.PWR_CTRL_STATE, pwON) :: (FLYER.CONTAIN_CFG_POLICY, 1) :: (FLYER.CONTAIN_CFG_LIMIT, 1) :: (FLYER.CONTAIN_CFG_UNATTR_LIMIT, 1) :: l))
        [(128, 0x40000000 + 200000), (129, 0x05000000 + 100000), (130, 400000)]) 290400
     (s [] {}).chip.babbleOn 95 = true ∧ (s [] {}).chip.flyRole 95 0 63 = 1 ∧ (0 + (200000 + 100000) * nsQ ≤ (s [] {}).chip.now + 9600 * nsQ) ∧
       bitsOf ((s [] {}).chip.flyW 95 0 (3 + 2 * 63)) 29 24 = 5 ∧ 5 ∉ ((s [] {}).chip.fly 95).episodes ∧
       (s [] {}).chip.on FLYER.CONTAIN_CFG_POLICY 95 = true ∧ (s [] {}).chip.fld FLYER.PWR_CTRL_STATE 95 = pwON ∧ (s [] {}).chip.mode ≠ mSAFE ∧
       (tAfter (.babbleOverrun 95 63) (s [(FLYER.CONTAIN_CFG_RETRIES, 1)] {})).fld FLYER.PWR_CTRL_STATE 95 = pwCUT ∧
       (tAfter (.babbleOverrun 95 63) (s [(FLYER.CONTAIN_CFG_RETRIES, 1)] { cutCount := 1 })).fld FLYER.PWR_CTRL_STATE 95 = pwHELD ∧
       (s [] {}).chip.isStray 95 ((100000 * nsQ : Nat) : Int) = true ∧
       (tAfter (.strayEnergy 95 (BitVec.ofNat 96 (100000 * nsQ)) none false) (s [] {})).fld FLYER.STRAY_UNKNOWN_COUNT 95 = 1 ∧
       (let u := tMod (s [] {}) fun c => c.setDrift 95 5 { valid := true, mac := 0x112233445566 }
        u.chip.nodeOfMac 95 0x112233445566 = some 5 ∧ (tAfter (.strayEnergy 95 (BitVec.ofNat 96 (100000 * nsQ)) (some 0x112233445566) false) u).fld FLYER.BABBLES_COUNT 95 = 1) ∧
       (tFly fySYNC {}).chip.babbleOn 95 = false) ∧
    (let s := tAt (tSlot (tFly fySYNC { active := some 0, predicted := 10000000 * nsQ }
        [(FLYER.SYNC_STATUS_CYCLE_OK, 1), (FLYER.SYNC_STATUS_MASTER_SELF, 1)]) [(0, 2000 * 65536), (1, 10000000)]) 9998000
     s.chip.babbleOn 95 = true ∧ s.chip.slotLen 95 0 = 10000000 ∧ bitsOf (s.chip.flyW 95 0 0) 31 16 = 2000 ∧
       s.chip.isStray 95 ((9998000 * nsQ : Nat) : Int) = true ∧
       (tAfter (.babbleOverrun 95 64) s).fld FLYER.STRAY_UNKNOWN_COUNT 95 = 1 ∧
       (tAfter (.babbleOverrun 95 64) (tAt s 9997999)).fld FLYER.STRAY_UNKNOWN_COUNT 95 = 0) ∧
    (let s := tAt (tFly fySYNC {} [(FLYER.PWR_CTRL_STATE, pwCUT), (FLYER.CONTAIN_TIME_OFF_MS, 1)]) 1000000
     s.chip.cutOver 95 = true ∧ (tAt s 999999).chip.cutOver 95 = false ∧ (tAfter (.cutRestore 95) s).fld FLYER.PWR_CTRL_STATE 95 = pwON) ∧
    (let s := tAt (tFly fySYNC { cutCount := 3 } [(FLYER.PWR_CTRL_STATE, pwON), (FLYER.CONTAIN_TIME_CLEAN_S, 1)]) 1000000000
     s.chip.cleanDue 95 = true ∧ (tAt s 999999999).chip.cleanDue 95 = false ∧ ((tAfter (.cleanRenew 95) s).fly 95).cutCount = 0) ∧
    (State.reset.chip.chainDue = true ∧ (tAfter .segpwrFrame State.reset).chain.dirty = false ∧
      (let s := tMod State.reset fun c => { c with chain := { latchAt := some 0, bits := [95] } }
       s.chip.chain.latchAt = some 0 ∧ s.chip.chainDue = false ∧ (tAfter .segpwrLatch s).on FLYER.PWR_CTRL_CHAIN_BIT 95 = true ∧
         State.reset.chip.chain.latchAt = none)) := by decide +kernel

/-- R183, R190, R193 and R469: RESTORE with ON = 0, a transmission under way when SEG goes down, stray energy in turn 0, and the extension. -/
theorem witness_FlyerControlAndTracking_more :
    (let s := tFly fyUNSYNC { cutCount := 2, unattrRun := 1 } [(FLYER.PWR_CTRL_STATE, pwON)]
     bitsOf (0x80000000 : Word).toNat 31 31 = 1 ∧ bitsOf (0x80000000 : Word).toNat 0 0 = 0 ∧
       ((tAfter (.pwrRestore .spi 95 0x80000000) s).fly 95).cutCount = 0 ∧ ((tAfter (.pwrRestore .spi 95 0x80000000) s).fly 95).unattrRun = 0 ∧
       (tAfter (.pwrRestore .spi 95 0x80000000) s).fld FLYER.PWR_CTRL_STATE 95 = pwOFF ∧
       (tAfter (.driftCmd .spi 95 0x80000100) (tMod s fun c => c.setDrift 95 63 { last := 9, mac := 7 })).driftRec 95 63 = { mac := 7 }) ∧
    (let s := tMod (tFly fySYNC { tx := some { start := 0, close := none, endAt := 1 } } [(FLYER.TX_STATUS_DRIVER_ON, 1)]) fun c =>
       c.setHdr HDR.CTRL_EN (PageCls.flyer.base + 95) 0
     (s.chip.fly 95).tx = some { start := 0, close := none, endAt := 1 } ∧ s.chip.now < 1 ∧
       (tAfter (.flyerDisable 95 none) s).fld FLYER.TRUNCATED_COUNT 95 = 1) ∧
    (let s := tAt (tMod (tFly fySYNC { active := some 0, predicted := 10000000 * nsQ, extEnd := some (20000000 * nsQ) } [(FLYER.SYNC_STATUS_MASTER_SELF, 1),
        (FLYER.SYNC_STATUS_EXT_ALLOW, 1)]) fun c => c.setEng 95 { lastTx := some { start := 10002000 * nsQ, octets := List.replicate 64 0 }, txEnd := 10060400 * nsQ }) 10002000
     s.chip.windowClose 95 (10002000 * nsQ) = none ∧ s.chip.extCovers 95 (10002000 * nsQ) = true ∧
       (tAfter (.txAttempt 95 0) s).fld FLYER.TX_STATUS_DRIVER_ON 95 = 1 ∧ (tAfter (.txAttempt 95 0) s).fld FLYER.SYNC_STATUS_EXT_ALLOW 95 = 1) ∧
    (let s := tFly fySYNC { tx := some { start := 0, close := some 0, endAt := 0 } }
     ((0 : Nat) : Int) ≤ s.chip.tickFrom 0 ∧ (tAfter (.windowCloseCut 95) s).fld FLYER.TRUNCATED_COUNT 95 = 0) ∧
    (let s := tAt (tSlot (tFly fySYNC { active := some 0, predicted := 10000000 * nsQ } [(FLYER.SYNC_STATUS_CYCLE_OK, 1)])
        [(2, 0x40000000), (3, 0x05000000 + 70000), (130, 400000)]) 60400
     s.chip.babbleOn 95 = true ∧ s.chip.partnerTurn0 95 = true ∧ s.chip.isStray 95 ((60400 * nsQ : Nat) : Int) = true ∧
       (tAfter (.babbleOverrun 95 0) s).fld FLYER.STRAY_UNKNOWN_COUNT 95 = 1) := by decide +kernel

/-! ### The uplink MACs -/

/-- Uplink 3 of a part in RUN in link state `st`, enabled, without delays, with record `u`, and more of its fields changed. -/
def tUpl (st : Nat) (u : Uplink := {}) (l : List (FieldRow × Nat) := []) : State :=
  tMod (tLive mRUN) fun c =>
    let c := { c with regs := Tab.put 0 (Tab.put 0 c.regs (WHORL.CAL_TX_DELAY.key 0 3) 64) (WHORL.CAL_RX_DELAY.key 0 3) 64 }
    let c := ((c.setHdr HDR.CTRL_EN (PageCls.uplink.base + 3) 1).setFld UPLINK.LINK_STATUS_STATE st 3).setUpl 3 u
    l.foldl (fun d x => d.setFld x.1 x.2 3) c

/-- A good line. -/
def tGood : LineState := { blockLock := true, fecLock := true, hiBer := false, localFault := false, remoteFault := false }

/-- Table 06.2: OFF 0, LEAVE_WAIT 1, BRINGUP 2, SEARCH 3, UP 4. -/
theorem witness_UplinkLinkStates :
    (let s := tUpl ulOFF
     s.chip.ulSt 3 = ulOFF ∧ s.chip.uplinkEn 3 = true ∧ s.chip.mode ∈ [mACQUIRE, mRUN, mHOLDOVER] ∧
       s.chip.fld UPLINK.LINK_STATUS_NO_LEAVE 3 = 0 ∧ s.chip.leaveAnswer (.uplink 3) = .queued ∧
       (tAfter (.uplinkEnable 3 none) s).ulSt 3 = ulLEAVE ∧
       (let u := tUpl ulOFF {} [(UPLINK.CFG_SPEED, 0), (UPLINK.CFG_FEC_EN, 1)]
        u.chip.fld UPLINK.CFG_SPEED 3 = 0 ∧ u.chip.fld UPLINK.CFG_FEC_EN 3 = 1 ∧ (tAfter (.uplinkEnable 3 none) u).fld UPLINK.LINK_STATUS_CFG_ERR 3 = 1) ∧
       (let u := tF s [(POWER.CEILING_TOKENS, 61)]
        u.chip.leaveAnswer (.uplink 3) = .refused ∧ (tAfter (.uplinkEnable 3 none) u).fld UPLINK.LINK_STATUS_NO_LEAVE 3 = 1)) ∧
    (let s := tUpl ulUP
     tOpen s .spi .uplink 3 = true ∧ s.chip.ulSt 3 ≠ ulOFF ∧ (1 : Word).toNat % 8 = 1 ∧ (0 : Word).toNat % 8 = 0 ∧
       (tAfter (.uplinkDisable 3 (some (.spi, 0))) s).ulSt 3 = ulOFF ∧
       (let u := tF s [(GLOBAL.MODE_MODE, mSTANDBY)]
        u.chip.mode = mSTANDBY ∧ (tAfter (.uplinkDisable 3 none) u).ulSt 3 = ulOFF) ∧
       (tAfter (.linkDown 3 .hiBer true) s).ulSt 3 = ulSEARCH ∧ (tAfter (.linkDown 3 .remoteFault false) s).fld UPLINK.LINK_STATUS_REMOTE_FAULT 3 = 1 ∧
       (tAfter (.linkDown 3 .hiBer false) (tUpl ulUP { cur := some { pkt := {}, cls := 0, start := 0, total := 60, stamp := 0 } })).fld
         UPLINK.TX_LINK_ABORT_COUNT 3 = 1) ∧
    ((tUpl ulBRINGUP).chip.ulSt 3 = ulBRINGUP) ∧
    (let s := tUpl ulSEARCH {} [(UPLINK.MERGE_CFG_EN, 1)]
     s.chip.ulSt 3 = ulSEARCH ∧ (tAfter (.linkUp { n := 3, line := tGood, heldUs := 1000 }) s).ulSt 3 = ulUP ∧ (tAfter (.linkUp { n := 3, line := tGood, heldUs := 1000 }) s).fld UPLINK.MERGE_STATUS_VERIFY_STATE 3 = 2 ∧
       s.chip.on UPLINK.MERGE_CFG_EN 3 = true ∧ tOpen s .spi .uplink 3 = true ∧
       (tAfter (.mergeEnWrite .spi 3 0) s).fld UPLINK.MERGE_STATUS_VERIFY_STATE 3 = 0) ∧
    (let s := tUpl ulUP
     tOpen s .spi .uplink 3 = true ∧ s.chip.on UPLINK.MERGE_CFG_EN 3 = false ∧ bitsOf (3 : Word).toNat 0 0 = 1 ∧
       (tAfter (.mergeEnWrite .spi 3 3) s).fld UPLINK.MERGE_STATUS_VERIFY_STATE 3 = 5 ∧ s.chip.verifyDue 3 = false) ∧
    (let s (a : Nat) := tAt (tUpl ulUP { verifyAt := 10 * msQ } [(UPLINK.MERGE_CFG_EN, 1), (UPLINK.MERGE_STATUS_VERIFY_STATE, 2), (UPLINK.MERGE_STATUS_ATTEMPTS, a)]) 10000000
     (s 2).chip.verifyDue 3 = true ∧ (tAt (s 2) 9999999).chip.verifyDue 3 = false ∧ (s 2).chip.boundary 3 ((s 2).chip.instAt 0) = true ∧
       (tAfter (.verifySend 3 0) (s 2)).fld UPLINK.VERIFY_TX_COUNT 3 = 1 ∧ (tAfter (.verifySend 3 0) (s 3)).fld UPLINK.MERGE_STATUS_VERIFY_STATE 3 = 4) := by
  decide +kernel

/-- A pause frame with its FCS (R211, R212). -/
def tPause (op q : Nat) : List Byte :=
  let f : List Byte := [0x01, 0x80, 0xC2, 0, 0, 1, 2, 0, 0, 0, 0, 1, 0x88, 0x08] ++ beBytes 2 op ++ beBytes 2 q
  tFcs (f ++ List.replicate (60 - f.length) 0)

/-- Table 06.3. -/
theorem witness_UplinkReceives :
    ((tBig 1515).length = 1515 + 8 ∧ crc32 ((tBig 1515).take ((tBig 1515).length - 4)) = leNat ((tBig 1515).drop ((tBig 1515).length - 4))) ∧
    (let s := tUpl ulUP
     let ok (k : Nat) := tFcs (List.replicate k 0)
     s.chip.ulUp 3 = true ∧ (tUpl ulSEARCH).chip.ulUp 3 = false ∧ s.chip.on UPLINK.LINK_STATUS_FEC_IN_FORCE 3 = false ∧
       max 1518 (min 9600 (s.chip.fld UPLINK.CFG_MAX_FRAME 3)) = 1522 ∧
       (tAfter (.uplinkFrameRx 3 0 0 (ok 60) true 0 0) s).fld UPLINK.RX_CODE_ERR_COUNT 3 = 1 ∧
       (tAfter (.uplinkFrameRx 3 0 0 (List.replicate 64 0) false 0 0) s).fld UPLINK.RX_FCS_ERR_COUNT 3 = 1 ∧
       (ok 59).length < 64 ∧ (tAfter (.uplinkFrameRx 3 0 0 (ok 59) false 0 0) s).fld UPLINK.RX_RUNT_COUNT 3 = 1 ∧
       64 ≤ (ok 60).length ∧ (ok 60).length ≤ s.chip.maxFrame 3 ∧ beNat (((ok 60).drop 12).take 2) ≠ 0x8808 ∧ s.chip.dom .core = domON ∧
       (s.chip.cellsFor 3 (cellsOf 60) (s.chip.uplPreclass 3 (List.replicate 60 0))).isSome = true ∧
       (tAfter (.uplinkFrameRx 3 0 0 (ok 60) false 0 0) s).fld UPLINK.RX_OCTETS_LO_COUNT 3 = 64 ∧
       (tAfter (.uplinkFrameRx 3 0 0 (ok 60) false 0 0) (tF s [(POWER.DOMAIN_STATE_CORE, 1)])).fld UPLINK.RX_NOBUF_COUNT 3 = 1 ∧
       (tF s [(POWER.DOMAIN_STATE_CORE, 1)]).chip.dom .core ≠ domON) ∧
    (let s := tUpl ulUP {} [(UPLINK.PAUSE_CFG_RX_EN, 1)]
     (tPause 1 2).length = 64 ∧ beNat (((tPause 1 2).drop 12).take 2) = 0x8808 ∧ beNat (((tPause 1 2).drop 14).take 2) = 1 ∧ beNat ((tPause 1 2).take 6) = 0x0180C2000001 ∧
       s.chip.on UPLINK.PAUSE_CFG_RX_EN 3 = true ∧ s.chip.on UPLINK.PAUSE_STATUS_PAUSED 3 = false ∧ (s.chip.upl 3).pausePend = none ∧
       (tAfter (.uplinkFrameRx 3 0 0 (tPause 1 0) false 0 0) s).fld UPLINK.RX_PAUSE_COUNT 3 = 1 ∧
       ((tAfter (.uplinkFrameRx 3 0 0 (tPause 1 2) false 0 0) s).upl 3).pausePend.isSome = true ∧
       (tAfter (.uplinkFrameRx 3 0 0 (tPause 2 2) false 0 0) s).fld UPLINK.RX_MAC_CTRL_OTHER_COUNT 3 = 1 ∧
       (tAfter (.uplinkFrameRx 3 0 0 (tPause 1 2) false 0 0) (tUpl ulUP)).fld UPLINK.RX_PAUSE_IGNORED_COUNT 3 = 1) ∧
    (let s (u : Uplink) := tUpl ulUP u [(UPLINK.MERGE_CFG_EN, 1), (UPLINK.MERGE_STATUS_VERIFY_STATE, 2), (UPLINK.MERGE_STATUS_ATTEMPTS, 1)]
     (tAfter (.mpacketRx 3 0 .verify { pcsErr := false }) (tUpl ulUP)).fld UPLINK.RX_SMD_ERR_COUNT 3 = 1 ∧ (tUpl ulUP).chip.on UPLINK.MERGE_CFG_EN 3 = false ∧
       (s {}).chip.on UPLINK.MERGE_CFG_EN 3 = true ∧ ((tAfter (.mpacketRx 3 0 .verify { pcsErr := false }) (s {})).upl 3).responds = 1 ∧
       (tAfter (.mpacketRx 3 0 .respond { pcsErr := false }) (s {})).fld UPLINK.MERGE_STATUS_VERIFY_STATE 3 = 3 ∧
       ((tAfter (.mpacketRx 3 0 (.start 64 [1] .mcrcOk) { pcsErr := false }) (s {})).upl 3).reasm.isSome = true ∧ ((s {}).chip.upl 3).reasm = none ∧
       (tAfter (.mpacketRx 3 0 (.cont 3 [1] .mcrcOk) { pcsErr := false }) (s {})).fld UPLINK.RX_ASSY_ERR_COUNT 3 = 1 ∧
       (tAfter (.mpacketRx 3 0 (.cont 3 [1] .mcrcOk) { pcsErr := false }) (s { reasm := some {} })).fld UPLINK.RX_FRAG_COUNT_ERR_COUNT 3 = 1) ∧
    (let s := tAt (tUpl ulUP { pausePend := some (64 * nsQ, 65 * nsQ) }) 64
     (s.chip.upl 3).pausePend = some (64 * nsQ, 65 * nsQ) ∧ 64 * nsQ ≤ s.chip.now ∧ (tAfter (.pauseTakeEffect 3) s).fld UPLINK.PAUSE_STATUS_PAUSED 3 = 1) ∧
    (let s := tAt (tUpl ulUP { pauseEnd := 65 * nsQ } [(UPLINK.PAUSE_STATUS_PAUSED, 1)]) 65
     s.chip.pauseOver 3 = true ∧ (tAt s 64).chip.pauseOver 3 = false ∧ (tAfter (.pauseExpiry 3) s).fld UPLINK.PAUSE_STATUS_PAUSED 3 = 0 ∧
       (s.chip.upl 3).pausePend = none) := by
  refine ⟨tBig_fcs 1515, ?_⟩
  decide +kernel

/-- A packet of 60 octets in queue 7 of uplink 3. -/
def tHead (p : Packet) (s : State) : State := tMod s fun c => c.setQueue 3 7 [p]

theorem witness_UplinkSends :
    (let s := tMod (tUpl ulUP {} [(UPLINK.PAUSE_CFG_TX_EN, 1)]) fun c => { c with buffer := { c.buffer with xoff := [(3, true)] } }
     s.chip.boundary 3 (s.chip.instAt 0) = true ∧ s.chip.pauseDue 3 = true ∧ s.chip.refreshDue 3 = false ∧
       ((tAfter (.pauseFrameTx 3 0) s).upl 3).ctrl.isSome = true ∧ ((tAfter (.txSelect 3 0 []) s).upl 3).ctrl.isSome = true ∧
       (tUpl ulUP).chip.pauseDue 3 = false ∧ (tUpl ulSEARCH).chip.boundary 3 0 = false ∧ (tUpl ulSEARCH).chip.mode ≠ mSAFE ∧
       (let u := tAt (tMod s fun c => c.setFld UPLINK.PAUSE_STATUS_XOFF_SENT 1 3) 1000000000
        u.chip.refreshDue 3 = true ∧ u.chip.boundary 3 (u.chip.instAt 0) = true ∧ ((tAfter (.pauseRefresh 3 0) u).upl 3).ctrl.isSome = true)) ∧
    (let s := tUpl ulUP { responds := 1 }
     s.chip.boundary 3 (s.chip.instAt 0) = true ∧ (s.chip.upl 3).responds ≠ 0 ∧ ((tAfter (.txSelect 3 0 []) s).upl 3).responds = 0) ∧
    (let p : Packet := { id := 5, bytes := List.replicate 60 0 }
     let s := tHead p (tUpl ulUP)
     let e := ((List.range 8).foldl (fun d j => d.ltExpire 3 j (d.tooLate 3 0)) s.chip).countNofit 3 0 []
     s.chip.boundary 3 0 = true ∧ s.chip.pauseDue 3 = false ∧ s.chip.refreshDue 3 = false ∧ (s.chip.upl 3).responds = 0 ∧ (s.chip.upl 3).cont = none ∧
       e.selectHead 3 0 [] false = some (p, 7) ∧ e.hankStale p = false ∧ (tAfter (.txSelect 3 0 []) s).queue 3 7 = [] ∧
       s.chip.launchNow 3 7 = none) ∧
    (let p : Packet := { id := 5, bytes := List.replicate 60 0, launch := some (1000 * nsQ) }
     let s := tAt (tHead p (tUpl ulUP {} [(REELGATE.GATE_CTRL_LT_MODE, 0x80)])) 960
     s.chip.ltQueue 3 7 = true ∧ (s.chip.launchNow 3 7).isSome = true ∧ (tAfter (.launchTimeReached 3 7 []) s).queue 3 7 = []) ∧
    (let t : UplTx := { pkt := { bytes := List.replicate 200 0 }, cls := 0, start := 0, total := 200, preempt := true, stamp := 0 }
     let s := tAt (tUpl ulUP { cur := some t } [(REELGATE.GATE_STATUS_GATES, 0), (UPLINK.MERGE_STATUS_ACTIVE, 1)]) 60
     s.chip.ulUp 3 = true ∧ s.chip.mode ∈ [mACQUIRE, mRUN, mHOLDOVER] ∧ s.chip.on UPLINK.MERGE_STATUS_ACTIVE 3 = true ∧
       s.chip.minFrag 3 - 4 ≤ s.chip.fragData 3 t (s.chip.instAt 0) ∧ t.done + s.chip.fragData 3 t (s.chip.instAt 0) + 60 ≤ t.total ∧
       t.start ≤ s.chip.instAt 0 ∧ s.chip.preemptWanted 3 t (s.chip.instAt 0) [] = true ∧ (tAfter (.preemption 3 0 []) s).fld UPLINK.TX_PREEMPTS_COUNT 3 = 1) ∧
    (let t : UplTx := { pkt := { bytes := List.replicate 60 0 }, cls := 7, start := 0, total := 60, early := true, stamp := 0 }
     let s := tUpl ulUP { cur := some t }
     (s.chip.upl 3).cur = some t ∧ t.preempt = false ∧ t.start ≤ s.chip.instAt 0 ∧ s.chip.instAt 0 < s.chip.txEndAt 3 t ∧
       s.chip.fld UPLINK.TX_START_THRESH_BLOCKS 3 7 < 38 ∧ (tAfter (.txUnderrun 3 0) s).fld UPLINK.TX_UNDERRUN_COUNT 3 = 1 ∧
       (let u := tAt s 58
        u.chip.txEndAt 3 t < u.chip.tickEnd ∧ (tAfter (.uplinkFrameTxEnd 3) u).fld UPLINK.TX_FRAMES_COUNT 3 = 1) ∧
       ((tUpl ulUP).chip.upl 3).cur = none) ∧
    (let p : Packet := { launch := some 0 }
     let s := tAt (tHead p (tUpl ulUP {} [(REELGATE.GATE_CTRL_LT_MODE, 0x80)])) 1000000000
     s.chip.running = true ∧ s.chip.ltQueue 3 7 = true ∧ s.chip.queue 3 7 = [p] ∧ 0 + (s.chip.fld REELGATE.LATE_TOL_NS 3 * nsQ : Nat) < s.chip.net ∧
       (tAfter (.launchExpire 3 7) s).fld REELGATE.LT_EXPIRED_COUNT 3 = 1 ∧ State.reset.chip.running = false) := by decide +kernel

/-- R200, R203, R222: a bad line in SEARCH, a pause frame cut by a link loss, and a frame that had begun. -/
theorem witness_UplinkLinkStates_more :
    (let s := tUpl ulSEARCH
     let bad := { tGood with hiBer := true }
     (tAfter (.linkUp { n := 3, line := bad, heldUs := 1000 }) s).ulSt 3 = ulSEARCH ∧
       (tAfter (.linkUp { n := 3, line := bad, heldUs := 1000 }) s).fld UPLINK.LINK_STATUS_HI_BER 3 = 1 ∧
       (tAfter (.linkUp { n := 3, line := tGood, heldUs := 999 }) s).ulSt 3 = ulSEARCH) ∧
    (let s := tUpl ulUP { ctrl := some (0, 1) }
     (tAfter (.linkDown 3 .hiBer false) s).fld UPLINK.TX_LINK_ABORT_COUNT 3 = 1 ∧ ((tAfter (.linkDown 3 .hiBer false) s).upl 3).ctrl = none) ∧
    (let s := tUpl ulOFF
     tOpen s .spi .uplink 3 = true ∧ s.chip.ulSt 3 = ulOFF ∧ (tAfter (.uplinkDisable 3 (some (.spi, 0))) s).uplinkEn 3 = false) := by decide +kernel

/-- A Sync with its FCS: EtherType 0x88F7, twoStepFlag, sequenceId 7. -/
def tSyncFrame : List Byte :=
  let f : List Byte := List.replicate 12 2 ++ [0x88, 0xF7, 0, 2, 0, 44, 0, 0, 2] ++ List.replicate 23 0 ++ [0, 7] ++ List.replicate 22 0
  tFcs f

/-- R101, R203, R212, R222. -/
theorem witness_UplinkReceives_more :
    (let s := tUpl ulSEARCH { rxCut := some 5 }
     s.chip.lineOpen 3 = false ∧ s.chip.cutFrameEnds 3 6 = false ∧ s.chip.cutFrameEnds 3 5 = true ∧ s.chip.ulUp 3 = false ∧
       (tAfter (.uplinkFrameRx 3 5 0 [] false 0 0) s).fld UPLINK.RX_CODE_ERR_COUNT 3 = 1) ∧
    (let s := tUpl ulUP {} [(UPLINK.LINK_STATUS_FEC_IN_FORCE, 1)]
     s.chip.lineOpen 3 = true ∧ s.chip.on UPLINK.LINK_STATUS_FEC_IN_FORCE 3 = true ∧
       (tAfter (.mpacketRx 3 0 .verify { fixed := 2, bad := 1 }) s).fld UPLINK.FEC_CORRECTED_COUNT 3 = 2 ∧
       (tAfter (.uplinkFrameRx 3 0 0 [] false 2 1) s).fld UPLINK.FEC_UNCORRECTED_COUNT 3 = 1 ∧
       (tAfter (.uplinkFrameRx 3 0 0 [] false 2 1) s).fld UPLINK.RX_CODE_ERR_COUNT 3 = 1) ∧
    (let s := tUpl ulUP { pauseEnd := 3 } [(UPLINK.PAUSE_CFG_RX_EN, 1), (UPLINK.PAUSE_STATUS_PAUSED, 1)]
     s.chip.on UPLINK.PAUSE_STATUS_PAUSED 3 = true ∧ (s.chip.upl 3).pauseEnd < s.chip.monoAt 0 + 2 * s.chip.octs 3 64 ∧
       (tAfter (.uplinkFrameRx 3 0 0 (tPause 1 2) false 0 0) s).raised EV.UPLINK_PAUSE_RX 3 = true ∧
       (tAfter (.uplinkFrameRx 3 0 0 (tPause 1 2) false 0 0) (tUpl ulUP { pauseEnd := 10 ^ 15 } [(UPLINK.PAUSE_CFG_RX_EN, 1), (UPLINK.PAUSE_STATUS_PAUSED, 1)])).raised
         EV.UPLINK_PAUSE_RX 3 = false) ∧
    (let s := tMod (tUpl ulUP) fun c => { c.setAll [(WHORL.SERVO_CFG_PTP_PORT, 3)] with whorl := { c.whorl with source := 1 } }
     let m := parsePtp (tSyncFrame.take (tSyncFrame.length - 4))
     64 ≤ tSyncFrame.length ∧ beNat ((tSyncFrame.drop 12).take 2) ≠ 0x8808 ∧ m.map (·.1) = some false ∧
       m.any (fun x => s.chip.ptpForServo 3 x.2) = true ∧ m.any (fun x => x.2.twoStep) = true ∧
       ((tAfter (.uplinkFrameRx 3 6400 0 tSyncFrame false 0 0) s).whorl.sync).map (·.seq) = some 7) ∧
    (let s := tMod (tUpl ulUP) fun c => { c with buffer := { c.buffer with charge := [(3, 100000)] } }
     let f := tFcs (List.replicate 60 0)
     s.chip.coreOpen = true ∧ s.chip.cellsFor 3 (cellsOf 60) (s.chip.uplPreclass 3 (List.replicate 60 0)) = none ∧
       (tAfter (.uplinkFrameRx 3 0 0 f false 0 0) s).fld UPLINK.RX_NOBUF_COUNT 3 = 1) := by decide +kernel

/-- R59, R200, R207, R215: the rest of a frame in SAFE, the end of a pause frame, a respond. -/
theorem witness_UplinkSends_more :
    (let t : UplTx := { pkt := { bytes := List.replicate 200 0 }, cls := 0, start := 0, total := 200, done := 60, preempt := true, stamp := 0 }
     let s := tMod (tUpl ulUP { cont := some t }) fun c => c.setFld GLOBAL.MODE_MODE mSAFE
     s.chip.mode = mSAFE ∧ s.chip.ulUp 3 = true ∧ (s.chip.upl 3).freeAt ≤ s.chip.instAt 0 ∧ (s.chip.upl 3).cont = some t ∧
       ((tAfter (.txSelect 3 0 []) s).upl 3).cont = none ∧ ((tAfter (.txSelect 3 0 []) s).upl 3).cur.isSome = true) ∧
    (let s := tAt (tUpl ulUP { ctrl := some (0, 1) }) 58
     (s.chip.upl 3).cur = none ∧ 0 + (s.chip.octs 3 72 : Nat) < s.chip.tickEnd ∧ (tAfter (.uplinkFrameTxEnd 3) s).fld UPLINK.TX_PAUSE_COUNT 3 = 1 ∧
       ((tAfter (.uplinkFrameTxEnd 3) s).upl 3).ctrl = none) ∧
    ((tUpl ulUP { responds := 1 }).chip.on UPLINK.CFG_LOOPBACK 3 = false) := by decide +kernel

/-! ### The Carder -/

/-- A state with its Carder changed. -/
def tCar (s : State) (f : Carder → Carder) : State := tMod s fun c => c.updCarder f

/-- A plain frame of 60 octets without a tag. -/
def tPlain : Packet := { id := 5, ingress := 0, bytes := List.replicate 12 2 ++ [0x90, 0] ++ List.replicate 46 0 }

/-- R224 to R228, R230, R306. -/
theorem witness_LanesTakePasses :
    (let s := tF (tLive mRUN) [(CARDER.BANK_STATUS_INIT_DONE, 0)]
     s.chip.dom .core = domON ∧ s.chip.fld CARDER.BANK_STATUS_INIT_DONE = 0 ∧ (tAfter .carderInitDone s).fld CARDER.BANK_STATUS_INIT_DONE = 1 ∧
       State.reset.chip.dom .core ≠ domON) ∧
    (let s := tCar (tLive mRUN) fun d => { d with recirc11 := [tPlain] }
     s.chip.fld CARDER.BANK_STATUS_INIT_DONE = 1 ∧ s.chip.mode ≠ mSAFE ∧ Tab.get 0 s.chip.carder.laneFree 11 ≤ s.chip.aon ∧
       s.chip.carder.recirc11 = [tPlain] ∧ (tAfter .lane11Dispatch s).fld CARDER.PASSES_COUNT = 1) ∧
    (let s := tAt (tMod (tLive mRUN) fun c => { c with buffer := { c.buffer with express := [(3, [tPlain])] } }) 161
     s.chip.carder.recirc11 = [] ∧ rrPorts s.chip.buffer.express s.chip.carder.lastX = [3] ∧ Tab.get [] s.chip.buffer.express 3 = [tPlain] ∧
       160 * nsQ < s.chip.now - tPlain.since ∧ (tAfter .lane11Dispatch s).fld REEL.C7_DISPATCH_LATE_COUNT = 1 ∧
       (tAfter .lane11Dispatch (tAt s 160)).fld REEL.C7_DISPATCH_LATE_COUNT = 0) ∧
    (let s (x : Bool) := tMod (tCar (tLive mRUN) fun d => { d with recirc := [tPlain], lane := 10 }) fun c =>
        { c with modes := { c.modes with laneLight := if x then [(10, true)] else [] } }
     (s false).chip.throttled = false ∧ Tab.get 0 (s false).chip.carder.laneFree 10 ≤ (s false).chip.aon ∧
       Tab.get false (s false).chip.modes.laneLight 10 = false ∧ (tAfter .generalDispatch (s false)).carder.lane = 0 ∧
       Tab.get false (s true).chip.modes.laneLight 10 = true ∧ Tab.get 0 (tAfter .generalDispatch (s true)).carder.laneFree 10 = 5) ∧
    (let s := tMod (tLive mRUN) fun c => { c with buffer := { c.buffer with general := [(0x80, [tPlain])] } }
     let e := s.chip.countStalls
     s.chip.carder.recirc = [] ∧ (rrPorts e.buffer.general s.chip.carder.lastG).find? e.servable = some 0x80 ∧
       Tab.get [] e.buffer.general 0x80 = [tPlain] ∧ (tAfter .generalDispatch s).carder.lastG = 0x80) ∧
    ((tLive mRUN).chip.carder.recirc11 = [] ∧ (tLive mRUN).chip.buffer.express = [] ∧ (tLive mRUN).chip.fld CARDER.BANK_STATUS_INIT_DONE ≤ 1) := by
  decide +kernel

/-- A pass of a packet that ends now, with cells of tables changed. -/
def tPass (p : Packet) (f : Carder → Carder := id) : State :=
  tCar (tLive mRUN) fun d => f { d with passes := [{ pkt := p, lane := 10, stop := 0 }], order := [(0, [{ id := p.id }])] }

/-- R32, R229, R237, R244 to R247, R255: port 0 misses to action 8,192; an action word 0 has DROP in bit 0 and RECIRC in bit 2. -/
theorem witness_PassesEndWithAVerdict :
    (let s := tPass { tPlain with bytes := List.replicate 12 2 ++ [0x88, 0xB6] ++ List.replicate 46 0 }
     s.chip.dom .core = domON ∧ (firstPass s.chip.carder.passes).map (·.stop) = some 0 ∧ 0 ≤ s.chip.aon ∧
       ((firstPass s.chip.carder.passes).map fun a => hankFixed a.pkt) = some true ∧ (tAfter .passEnd s).carder.passes = []) ∧
    (let s := tPass tPlain
     let ps := s.chip.parse tPlain
     let key := ps.octets { tPlain with keyFlags := (if ps.depth then 1 else 0) + (if ps.lenMis then 2 else 0) + (if ps.frag then 4 else 0) }
     hankFixed tPlain = false ∧ ps.lenMis = false ∧ s.chip.lookup 0 0 ps.profile key = .missDrop ∧ tPlain.preclass ≠ 7 ∧
       tPlain.tag = none ∧ tPlain.hank = none ∧ Tab.get [] s.chip.carder.copies 5 = [] ∧
       (tAfter .passEnd s).fld CARDER.MISS_DROP_COUNT = 1 ∧ (tAfter .passEnd s).window 0 = [] ∧
       (let u (w7 w0 : Nat) := tPass tPlain fun d => { d with portDef := [(0, 0x20000100)], action := Tab.put 0 (Tab.put 0 [] 65536 w0) 65543 w7 }
        (u 0 0).chip.lookup 0 0 ps.profile key = .invalid true ∧ (tAfter .passEnd (u 0 0)).fld CARDER.ACTION_INVALID_COUNT = 1 ∧
        (u 1 1).chip.lookup 0 0 ps.profile key = .action 8192 true ∧ ((u 1 1).chip.actionW 8192 0).testBit 0 = true ∧
        ((u 1 1).chip.actionW 8192 0).testBit 3 = false ∧ (tAfter .passEnd (u 1 1)).fld CARDER.DROP_ACTION_COUNT = 1 ∧
        bitsOf ((u 1 4).chip.actionW 8192 0) 3 0 = 4 ∧ (u 1 4).chip.actionW 8192 5 % 4 = 0 ∧ (u 1 4).chip.actionW 8192 2 % 4 = 0 ∧
        bitsOf ((u 1 4).chip.actionW 8192 2) 17 16 = 0 ∧ 60 ≤ tPlain.bytes.length ∧ tPlain.pass = 0 ∧
        (tAfter .passEnd (u 1 4)).fld CARDER.RECIRCS_COUNT = 1)) ∧
    (let s := tPass tPlain fun d => { d with nodes := [(0, 0x01000000), (3, 0x00200000), (5, 12)] }
     (s.chip.parse tPlain).lenMis = true ∧ (s.chip.portDefW 0 0).testBit 9 = false ∧ (tAfter .passEnd s).fld CARDER.LENERR_DROP_COUNT = 1) ∧
    (let s := tCar (tLive mRUN) fun d => { d with order := [(3, [{ id := 1, ended := true, out := [{ out := 1 }] }, { id := 2 }])] }
     (∀ t ∈ s.chip.window 3, ∀ q ∈ t.out, q.tag = none ∧ q.hank = none) ∧ (tAfter (.reorderRelease 3) s).window 3 = [{ id := 2 }] ∧
       (tAfter (.reorderRelease 3) s).reel.incoming.length = 1 ∧ (tLive mRUN).chip.carder.passes = []) := by decide +kernel

/-- R255 to R260, R265: BANK_CMD has KEY 0xCB in bits 31 to 24 and SWITCH in bit 16. -/
theorem witness_RuleTables :
    (let s := tLive mRUN
     tOpen s .spi .carder 0 = true ∧ (0xCB010000 : Word).toNat.testBit 16 = true ∧ (0xCB000000 : Word).toNat.testBit 16 = false ∧
       bitsOf (0xCB010000 : Word).toNat 31 24 = 0xCB ∧ bitsOf (0xCA010000 : Word).toNat 31 24 ≠ 0xCB ∧ s.chip.fld CARDER.BANK_STATUS_EPOCH = 0 ∧
       s.chip.fld CARDER.BANK_STATUS_BANK_FREE ≠ 0 ∧ (tAfter (.bankSwitch .spi 0xCA010000) s).fld CARDER.BANK_STATUS_LAST_REFUSE = 1 ∧
       (tAfter (.bankSwitch .spi 0xCB010001) s).fld CARDER.BANK_STATUS_LAST_REFUSE = 2 ∧ (tAfter (.bankSwitch .spi 0xCB010000) s).fld CARDER.BANK_STATUS_EPOCH = 1 ∧
       (tAfter (.bankSwitch .spi 0xCB010000) (tF s [(CARDER.BANK_STATUS_INIT_DONE, 0)])).fld CARDER.BANK_STATUS_LAST_REFUSE = 4 ∧
       (tAfter (.bankSwitch .spi 0xCB010000) (tF s [(CARDER.BANK_STATUS_BANK_FREE, 0)])).fld CARDER.BANK_STATUS_LAST_REFUSE = 3 ∧
       (tF s [(CARDER.BANK_STATUS_BANK_FREE, 0)]).chip.fld (inflightRow 1) = 0 ∧
       (tAfter .bankFree (tF s [(CARDER.BANK_STATUS_BANK_FREE, 0)])).fld CARDER.BANK_STATUS_BANK_FREE = 1) ∧
    (let s (t i : Nat) (l : List (FieldRow × Nat)) := tF (tLive mRUN) ((RULEWIN.ENTRY_SEL_TABLE, t) :: (RULEWIN.ENTRY_SEL_INDEX, i) :: l)
     let busy := [(CARDER.BANK_STATUS_BANK_FREE, 0)]
     let with7 (u : State) (v : Nat) := tCar u fun d => { d with exact := [(8 * 131071 + 7, v)] }
     tOpen (s 0 0 []) .spi .rulewin 0 = true ∧
       (tAfter (.ruleEntryWrite .spi 6 1) (s 0 0 [(CARDER.BANK_STATUS_INIT_DONE, 0)])).fld RULEWIN.ENTRY_STATUS_LAST_CAUSE = 1 ∧
       (tAfter (.ruleEntryWrite .spi 6 1) (s 3 0 [])).fld RULEWIN.ENTRY_STATUS_LAST_CAUSE = 2 ∧
       (s 1 8192 []).chip.selTable = some .tern ∧ Tbl.tern.entries ≤ 8192 ∧ (tAfter (.ruleEntryWrite .spi 31 1) (s 1 8192 [])).fld RULEWIN.ENTRY_STATUS_LAST_CAUSE = 2 ∧
       (with7 (s 0 131071 []) 3).chip.exactW 131071 7 = 3 ∧ (tAfter (.ruleEntryWrite .spi 6 1) (with7 (s 0 131071 []) 3)).fld RULEWIN.ENTRY_STATUS_LAST_CAUSE = 3 ∧
       (tAfter (.ruleEntryWrite .spi 6 1) (with7 (s 0 131071 []) 5)).exactW 131071 6 = 1 ∧
       (tAfter (.ruleEntryWrite .spi 6 1) (with7 (s 0 131071 busy) 5)).fld RULEWIN.ENTRY_STATUS_LAST_CAUSE = 3 ∧
       (tAfter (.ruleEntryWrite .spi 7 7) (s 0 131071 [])).exactW 131071 7 = 7 ∧
       (tAfter (.ruleEntryWrite .spi 7 7) (s 0 131071 busy)).fld RULEWIN.ENTRY_STATUS_LAST_CAUSE = 4 ∧
       (tAfter (.ruleEntryWrite .spi 7 3) (s 0 131071 busy)).exactW 131071 7 = 3 ∧
       (s 2 32767 []).chip.writeCause .action 0 32767 7 1 = 0 ∧ (tAfter (.ruleEntryWrite .spi 7 1) (s 2 32767 [])).actionW 32767 7 = 1) ∧
    (let s (b : Nat) := tF (tLive mRUN) [(BANKWIN.BANK_SEL_BANK, b), (BANKWIN.BANK_SEL_NODE, 255)]
     tOpen (s 1) .spi .bankwin 0 = true ∧ (s 1).chip.bankAt (4 * 0x5F) = some (.node, 255, 63) ∧ (s 1).chip.bankAt (4 * 0x60) = none ∧
       (tAfter (.bankWindowWrite .spi 0x20 0xFFFFFFFF) (s 1)).nodeW 1 255 0 = 0x013F1F3F ∧
       (tAfter (.bankWindowWrite .spi 0x20 0xFFFFFFFF) (s 0)).fld RULEWIN.ENTRY_STATUS_LAST_CAUSE = 5 ∧
       (tAfter (.bankWindowWrite .spi 0x20 1) (tF (s 1) [(CARDER.BANK_STATUS_INIT_DONE, 0)])).fld RULEWIN.ENTRY_STATUS_LAST_CAUSE = 1) := by
  decide +kernel

/-- R261 to R263: a record of exact entry 131,071, first word 6, one word. -/
theorem witness_RuleBulkLoad :
    (let s := tF (tLive mRUN) [(CARDER.BULK_COUNT_RECORDS, 2)]
     tOpen s .spi .carder 0 = true ∧ (1 : Word).toNat % 4 = 1 ∧ s.chip.leaveAnswer .ruleLoad = .queued ∧
       (tAfter (.carderBulkGo .spi 1) s).fld CARDER.BULK_STATUS_STATE = bkLEAVE ∧
       (tAfter (.carderBulkGo .spi 1) (tF s [(POWER.CEILING_TOKENS, 61)])).fld CARDER.BULK_STATUS_STATE = bkNOLEAVE ∧
       (tF s [(POWER.CEILING_TOKENS, 61)]).chip.leaveAnswer .ruleLoad = .refused ∧
       (tAfter (.carderBulkGo .spi 1) (tF s [(CARDER.BANK_STATUS_INIT_DONE, 0)])).hdr HDR.ERRCNT_COUNT PageCls.carder.base = 1 ∧
       (tAfter (.carderBulkGo .spi 1) (tF s [(CARDER.BULK_STATUS_STATE, 2)])).hdr HDR.ERRCNT_COUNT PageCls.carder.base = 1 ∧
       (2 : Word).toNat % 4 = 2 ∧ (tAfter (.carderBulkAbort .spi 2) (tF s [(CARDER.BULK_STATUS_STATE, 1)])).fld CARDER.BULK_STATUS_STATE = bkABORTED) ∧
    (let s (n : Nat) := tCar (tF (tLive mRUN) [(CARDER.BULK_STATUS_STATE, 2)]) fun d => { d with bulkLeft := n }
     let good : List Word := [BitVec.ofNat 32 (131071 * 256), 0x106, 1, 0, 0, 0, 0, 0, 0, 0]
     let bad : List Word := [6, 0x106, 1, 0, 0, 0, 0, 0, 0, 0]
     (s 2).chip.throttled = false ∧ (tAfter (.carderBulkRecord none) (s 2)).fld CARDER.BULK_STATUS_STATE = bkERROR ∧
       (tAfter (.carderBulkRecord (some good)) (s 2)).carder.bulkLeft = 1 ∧ (tAfter (.carderBulkRecord (some good)) (s 1)).fld CARDER.BULK_STATUS_STATE = bkDONE ∧
       bitsOf (0x106 : Word).toNat 11 8 = 1 ∧ bitsOf (0x106 : Word).toNat 5 0 = 6 ∧ (s 2).chip.writeCause .exact 0 131071 6 1 = 0 ∧
       (tAfter (.carderBulkRecord (some good)) (s 2)).exactW 131071 6 = 1 ∧ 5 < bitsOf (6 : Word).toNat 2 0 ∧
       (tAfter (.carderBulkRecord (some bad)) (s 2)).fld CARDER.BULK_REFUSED_COUNT = 1 ∧
       (let u := tCar (s 2) fun d => { d with exact := [(8 * 131071 + 7, 3)] }
        (u.chip.exactW 131071 7).testBit (1 + u.chip.activeBank) = true ∧ u.chip.on CARDER.BANK_STATUS_INIT_DONE = true ∧
          (tAfter (.carderBulkRecord (some good)) u).fld CARDER.BULK_REFUSED_COUNT = 1)) := by decide +kernel

/-- R36, R226, R229: the fixed Hank entry counts as the lane takes the packet, and the host port waits for its rate. -/
theorem witness_LanesTakePasses_more :
    (let q := { tPlain with bytes := List.replicate 12 2 ++ [0x88, 0xB6] ++ List.replicate 46 0 }
     let s := tCar (tLive mRUN) fun d => { d with recirc11 := [q] }
     hankFixed q = true ∧ (tAfter .lane11Dispatch s).fld CARDER.HANK_FIXED_COUNT = 1) ∧
    (let s (k : Nat) := tMod (tCar (tLive mRUN) fun d => { d with hostNext := k }) fun c => { c with buffer := { c.buffer with general := [(portHost, [tPlain])] } }
     let e := (s 0).chip.countStalls
     (rrPorts e.buffer.general (s 0).chip.carder.lastG).find? e.servable = some portHost ∧
       (tAfter .generalDispatch (s 0)).carder.hostNext = 125 ∧ (tAfter .generalDispatch (s 13)).fld CARDER.PASSES_COUNT = 0) := by decide +kernel

/-- Action 8,192, the miss action of port 0, with the words of `l`. -/
def tAct (p : Packet) (l : List (Nat × Nat)) : State :=
  tPass p fun d => { d with portDef := [(0, 0x20000100)], nodes := [(0, 0x01000000), (3, 0x10)],
                            action := (l ++ [(7, 1)]).foldl (fun t (w, v) => Tab.put 0 t (65536 + w) v) [] }

/-- R33, R247 to R253, R419: the outcomes of an action. -/
theorem witness_PassesEndWithAVerdict_actions :
    let go (p : Packet) (l : List (Nat × Nat)) := tAfter .passEnd (tAct p l)
    let cells : Packet := { tPlain with cells := { shared := 1 } }
    let mir (port : Nat) := [(0, port * 2 ^ 24 + 9)]
    let full := tMod (tAct tPlain (mir 0)) fun c => { c with buffer := { c.buffer with charge := [(0, 100000)] } }
    ((tAct cells []).chip.lookup 0 0 ((tAct cells []).chip.parse cells).profile
      (((tAct cells []).chip.parse cells).octets { cells with keyFlags := 0 })) = .action 8192 true ∧
    (tAct cells []).chip.ecc.bad = [] ∧
    portDefined 4 = false ∧ portDefined 0 = true ∧ bitsOf 9 3 0 = 9 ∧
    (go cells (mir 4)).fld CARDER.INVALID_OUTPUT_COUNT = 1 ∧ (go cells (mir 0)).fld CARDER.MIRRORS_COUNT = 1 ∧
    full.chip.cellsFor 0 (cellsOf 60) 0 = none ∧ (tAfter .passEnd full).fld CARDER.MIRROR_DROP_COUNT = 1 ∧
    (go cells [(0, 0x00040020)]).fld CARDER.INVALID_OUTPUT_COUNT = 1 ∧
    ((go cells [(0, 0x00020720), (2, 0x1001), (3, 0xAB000000)]).window 0).flatMap (fun t => t.out.map fun q => (q.id, q.out, q.cls, q.bytes)) =
      [(5, 2, 0, 0xAB :: tPlain.bytes.drop 1)] ∧
    (go cells [(0, 0x00020020), (2, 0x0001)]).fld CARDER.EDIT_SKIPPED_COUNT = 1 ∧
    (go cells [(0, 0x00020730)]).fld CARDER.LANE_MISMATCH_COUNT = 1 ∧
    (go cells [(0, 2), (1, 0x21000000)]).fld CARDER.TRAPS_COUNT = 1 ∧ (go cells [(0, 2)]).reel.incoming.length = 1 ∧
    (go { cells with pass := 1 } [(0, 4)]).fld CARDER.RECIRC_LIMIT_COUNT = 1 ∧
    (let s := tMod (tAct cells [(0, 0)]) fun c => { c with ecc := { c.ecc with bad := [{ store := 2, word := .table 2 0 8192 0, two := true, addr := some 0 }] } }
     (tAfter .passEnd s).fld CARDER.ECC_DROP_COUNT = 1) := by decide +kernel

/-- The parse of a frame with that graph: header 0 starts at octet 0. -/
theorem tAct_parse (p : Packet) (l : List (Nat × Nat)) (hb : p.bank = 0) (hi : p.ingress = 0) :
    (tAct p l).chip.parse p = { hov := [(0, some 0)], seen := [0] } := by
  have h : (tAct p l).chip.nodeW 0 0 = fun w => if w = 0 then 0x01000000 else if w = 3 then 0x10 else 0 := by
    funext w
    show Tab.get 0 [(0, 0x01000000), (3, 0x10)] ((256 * 0 + 0) * 64 + w) = _
    by_cases h0 : w = 0 <;> by_cases h3 : w = 3 <;> simp_all [Tab.get, eq_comm]
  rw [Chip.parse, hb, hi, show bitsOf ((tAct p l).chip.portDefW 0 0) 7 0 = 0 from by show bitsOf 0x20000100 7 0 = 0; decide]
  unfold Chip.parseFrom
  rw [if_neg (by decide), h]
  simp [Parse.visit, Parse.transition, bitsOf, Nat.testBit, Tab.put, Parse.extract, Parse.field]
  rfl

/-- R247, R249: an insertion into a frame of 9,600 octets, such as 9,600 zeros; the action's words do not depend on the packet. -/
theorem witness_PassesEndWithAVerdict_oversize (f : List Byte) (h : f.length = 9600) :
    ((tAct { tPlain with bytes := f } [(0, 0x20), (2, 0x1002)]).chip.parse { tPlain with bytes := f }).hov = [(0, some 0)] ∧
      9600 < (editAll f [(0, some 0)] [(0x1002, 0), (0, 0), (0, 0)]).1.length := by
  refine ⟨by rw [tAct_parse _ _ rfl rfl], ?_⟩
  simp [editAll, editOnce, bitsOf, Tab.get, h, beBytes]

theorem test_oversize_words : let s := tAct tPlain [(0, 0x20), (2, 0x1002)]
    s.chip.lookup 0 0 (s.chip.parse tPlain).profile ((s.chip.parse tPlain).octets tPlain) = .action 8192 true ∧ s.chip.ecc.bad = [] ∧
      bitsOf (s.chip.actionW 8192 0) 3 0 = 0 ∧ s.chip.actionW 8192 2 = 0x1002 ∧ s.chip.actionW 8192 3 = 0 ∧ s.chip.actionW 8192 4 = 0 ∧
      s.chip.actionW 8192 5 = 0 ∧ s.chip.actionW 8192 6 = 0 := by decide +kernel

/-- R248, R249: REPLACE 1, INSERT 2 and REMOVE 3 at octet 2 of the second header, which starts at octet 14. -/
theorem witness_PassesEndWithAVerdict_edits :
    let f : List Byte := (List.range 40).map (BitVec.ofNat 8)
    let hov : Tab (Option Nat) := [(0, some 0), (1, some 14), (2, some 20)]
    let ctl (op len : Nat) := op + 4 * 1 + 64 * 2 + 4096 * len
    Tab.wf none hov = true ∧ Tab.get none hov 1 = some 14 ∧ editOnce f hov (ctl 1 2 + 4 * 4) 0 = none ∧
    (editOnce f hov (ctl 1 2) 0xAABBCCDD).map (fun x => (x.1.drop 15).take 4) = some [15, 0xAA, 0xBB, 18] ∧
    editOnce f hov (ctl 1 5) 0 = none ∧
    (editOnce f hov (ctl 2 4) 0xAABBCCDD).map (fun x => (x.1.length, Tab.get none x.2 2, Tab.get none x.2 1)) = some (44, some 24, some 14) ∧
    editOnce f hov (ctl 2 0) 0 = none ∧
    (editOnce f hov (ctl 3 3) 0).map (fun x => (x.1.length, x.1.getD 16 0, Tab.get none x.2 2)) = some (34, 22, none) ∧
    editOnce f hov (ctl 3 15) 0 = none := by decide +kernel

/-! ### The Reel and the Ply -/

/-- A state with its Reel changed, and one with words of flow contexts as listed. -/
def tReel (s : State) (f : Reel → Reel) : State := tMod s fun c => { c with reel := f c.reel }
def tCtx (s : State) (l : List (Nat × Nat × Nat)) : State := tMod s fun c => l.foldl (fun d x => d.setCtxW x.1 x.2.1 x.2.2) c

/-- Context 9: a meter of CIR 1,000,000 and CBS 1, last refilled at tick 0; a refill of one tick fills it. -/
def tMetered (l : List (Nat × Nat × Nat) := []) : State := tCtx (tLive mRUN) ([(9, 0, 0x01000001), (9, 1, 0x010F4240)] ++ l)

/-- R276, R277, R281. -/
theorem witness_RefillTicks :
    (let u (m mode : Nat) (cr : Int) := tMod (tAt (tReel (tLive mRUN) fun r => { r with credit := [(31, cr)], shMode := [(31, mode)] }) 1000) fun c =>
        ((c.setFld REELGATE.SHAPER_CFG_MODE m 3 7).setFld REELGATE.SHAPER_CFG_RATE 500 3 7).setFld REELGATE.SHAPER_BURST_OCTETS 1 3 7
     (u 1 2 9).chip.dom .core = domON ∧ (u 1 2 9).chip.whorl.refillUs < (u 1 2 9).chip.net / (usQ : Int) ∧
       (tAfter .refillTick (u 1 2 9)).creditOf 3 7 = 0 ∧ (tAfter .refillTick (u 2 2 9)).creditOf 3 7 = 509 ∧
       (tAfter .refillTick (u 2 2 7900)).creditOf 3 7 = 8000 ∧ (tAfter .refillTick (u 0 0 9)).creditOf 3 7 = 9 ∧
       (tAfter .refillTick (u 1 1 (-9))).creditOf 3 7 = 491 ∧ (u 1 1 9).chip.classWaiting 3 7 = false ∧
       (tAfter .refillTick (u 1 1 9)).creditOf 3 7 = 0 ∧ (tAfter .refillTick (u 2 2 9)).fld REEL.TICK_COUNT_COUNT = 1) ∧
    ((tLive mRUN).chip.net / (usQ : Int) ≤ (tLive mRUN).chip.whorl.refillUs ∧ State.reset.chip.dom .core ≠ domON) ∧
    (let s := tF (tMetered [(9, 7, 0xFFFFFF)]) [(REEL.TICK_COUNT_COUNT, 0)]
     s.chip.ctxF 9 0 1 0 ≠ 0 ∧ s.chip.ctxF 9 7 23 0 = 0xFFFFFF ∧ (tAfter .contextSweep s).ctxW 9 3 = 2 ^ 24 ∧
       (tAfter .contextSweep s).ctxF 9 7 23 0 = 0 ∧ s.chip.ctxF 8 0 1 0 = 0) := by decide +kernel

/-- R274, R275, R316: CTX_CMD has WRITE in bit 1, READ in bit 0 and the mask in bits 31 to 16. -/
theorem witness_ContextCommands :
    (let s (i : Nat) (l : List (FieldRow × Nat)) := tF (tMetered) ((REEL.CTX_SEL_INDEX, i) :: l)
     let data (u : State) (w v : Nat) := tMod u fun c => c.setFld REEL.CTX_DATA_DATA v 0 w
     tOpen (s 9 []) .spi .reel 0 = true ∧ (s 9 []).chip.fld REEL.CTX_STATUS_BUSY = 0 ∧ (s 9 []).chip.fld REEL.CTX_DATA_DATA 0 15 < 2 ^ 32 ∧
       (s 9 []).chip.ctxW 9 15 < 2 ^ 32 ∧ (tAfter (.ctxWrite .spi 2) (s 9 [(REEL.CTX_STATUS_BUSY, 1)])).hdr HDR.ERRCNT_COUNT PageCls.reel.base = 1 ∧
       (0x00020002 : Word).toNat % 4 = 2 ∧ (tAfter (.ctxWrite .spi 0x00020002) (s 0 [])).fld REEL.CTX_STATUS_CAUSE = 1 ∧
       (let a := tCtx (s 9 []) [(9, 0, 0x01000201)]
        a.chip.ctxF 9 0 9 9 = 1 ∧ (tAfter (.ctxWrite .spi 0x00020002) a).fld REEL.CTX_STATUS_CAUSE = 2) ∧
       bitsOf (0x00020002 : Word).toNat 31 16 < 256 ∧ (tAfter (.ctxWrite .spi 0x00020002) (data (s 262143 []) 1 7)).ctxW 262143 1 = 7 ∧
       (tAfter (.ctxWrite .spi 0x00200002) (data (s 262143 []) 5 0xFFFFFFFF)).ctxW 262143 5 = 0x7FFFFFFF ∧
       (0x0F000002 : Word).toNat % 4 = 2 ∧ (tAfter (.ctxWrite .spi 0x0F000002) (data (s 9 []) 8 0x81000)).fld REEL.CTX_STATUS_CAUSE = 3 ∧
       bitsOf 0x81000 19 12 = 129 ∧ (tAfter (.ctxWrite .spi 0x0F000002) (data (s 9 []) 8 4)).fld REEL.CTX_STATUS_CAUSE = 3 ∧
       (tAfter (.ctxWrite .spi 0x0F000002) (data (s 9 []) 11 0xFF050000)).fld REEL.CTX_STATUS_CAUSE = 3 ∧ replOutOk 5 = false ∧
       (1 : Word).toNat % 4 = 1 ∧ (tAfter (.ctxRead .spi 1) (s 9 [])).fld REEL.CTX_DATA_DATA 0 1 = 0x010F4240) := by decide +kernel

/-- The list of the worked examples of chapter 08 in the oper list of uplink 1: 80,000 ns with GATES 0x7F and 20,000 ns with 0x80. -/
def tGated (l : List (FieldRow × Nat) := []) : State :=
  tReel (tMod (tLive mRUN) fun c => List.foldl (fun (d : Chip) (x : FieldRow × Nat) => d.setFld x.1 x.2 1) c
      ([(REELGATE.OPER_CYCLE_NS_NS, 100000), (REELGATE.OPER_LEN_LEN, 2), (REELGATE.GATE_STATUS_OPER_VALID, 1), (REELGATE.GATE_CTRL_ENABLE, 1)] ++ l))
    fun r => { r with gcl := [(gclKey 1 1 0 0, 0x7F), (gclKey 1 1 0 1, 80000), (gclKey 1 1 1 0, 0x80), (gclKey 1 1 1 1, 20000)] }

/-- Contexts A (7), B (8) and C (9) of the worked example of chapter 08; A and B are admitted to uplink 1. -/
def tLedger : State :=
  tReel (tCtx (tF tGated [(REEL.C7_BUDGET_NS, 620)]) [(7, 0, 0x04000601), (7, 1, 0x02004E20), (8, 0, 0x08000601), (8, 1, 0x01001388),
    (9, 0, 0x02000001), (9, 1, 0x01002710)]) fun r => { r with admitted := [7, 8] }

/-- The worked example of chapter 08: G7 = 80,489.6 ns, O7 = 0.2, S = 65,440 kb/s, B = 557.57 ns, and ADD C is refused for cause 6. -/
theorem test_admission_example :
    (let c := tLedger.chip.c7Eval 1
     tLedger.chip.governing 1 ≠ none ∧ gateWait (tLedger.chip.fit1522 1) (tLedger.chip.governing 1) = (some 8048960, 20000, 100000) ∧
       c.fld REELGATE.C7_RATE_SUM_KBPS 1 = 65440 ∧ c.fld REELGATE.C7_BURST_SUM_CNS 1 / 10 = 5575 ∧
       (tAfter (.c7AdmitAdd .spi 0x00140009) tLedger).reel.admitResult = some 6) := by decide +kernel

/-- R301: C7_ADMIT_CMD has CONTEXT in bits 17 to 0, OP in bits 19 to 18 (1 ADD, 2 REMOVE) and EGRESS in bits 27 to 20. -/
theorem witness_Class7Admission :
    (let s := tLedger
     let add (v : Word) (u : State := tLedger) := (tAfter (.c7AdmitAdd .spi v) u).reel.admitResult.getD 0
     let w (l : List (Nat × Nat × Nat)) := tCtx s l
     tOpen s .spi .reel 0 = true ∧ (tAfter (.c7AdmitAdd .spi 0) (tF s [(REEL.C7_ADMIT_STATUS_STATE, 1)])).hdr HDR.ERRCNT_COUNT PageCls.reel.base = 1 ∧
       s.chip.fld REEL.C7_ADMIT_STATUS_STATE ≠ 1 ∧ bitsOf (0x00140009 : Word).toNat 19 18 = 1 ∧ bitsOf (0x00140009 : Word).toNat 27 20 = 1 ∧
       add 0x00140000 = 1 ∧ add 0x00140007 = 1 ∧ add 0x0014000A = 2 ∧ add 0x00440009 = 3 ∧ add 0x07040009 = 3 ∧
       add 0x00140009 (w [(9, 0, 63 * 2 ^ 18 + 1)]) = 4 ∧ add 0x00140009 (w [(9, 0, 1523 * 2 ^ 18 + 1)]) = 4 ∧
       add 0x00140009 (w [(9, 0, 1522 * 2 ^ 18 + 1), (9, 1, 0x01FFFFFF)]) = 5 ∧ add 0x00140009 = 6 ∧
       s.chip.addCause 9 0 = 0 ∧ (tAfter (.c7AdmitAdd .spi 0x00040009) s).reel.admitted = [7, 8, 9] ∧
       (tAfter (.c7AdmitAdd .spi 0x00040009) s).ctxF 9 0 9 9 = 1 ∧ bitsOf (0x00080009 : Word).toNat 19 18 = 2 ∧
       (tAfter (.c7AdmitRemove .spi 0x00080009) s).reel.admitResult = some 1 ∧ s.chip.ctxF 8 0 9 9 = 1 ∧
       (tAfter (.c7AdmitRemove .spi 0x00080008) s).reel.admitted = [7] ∧ (tAfter (.c7AdmitAdd .spi 0x000C0008) s).reel.admitResult = some 1 ∧
       (match step (tReel s fun r => { r with admitResult := some 6 }) with | .next t => (t.chip.fld REEL.C7_ADMIT_STATUS_STATE, t.chip.fld REEL.C7_ADMIT_STATUS_CAUSE) | _ => (0, 0)) = (3, 6)) := by
  decide +kernel

/-- R283 to R289: GATE_CTRL has ENABLE, CONFIG_CHANGE, CANCEL and FORCE in bits 0 to 3. -/
theorem witness_GateLists :
    (let s (t ext len : Nat) (e : Nat) (l : List (FieldRow × Nat)) := tMod (tLive mRUN) fun c =>
        let c := ([(REELGATE.ADMIN_CYCLE_NS_NS, t), (REELGATE.ADMIN_CYCLE_EXT_NS_NS, ext), (REELGATE.ADMIN_LEN_LEN, len)] ++ l).foldl
          (fun d x => d.setFld x.1 x.2 3) c
        { c with reel := { c.reel with gcl := [(gclKey 3 0 0 0, e), (gclKey 3 0 0 1, t)] } }
     let cause (u : State) := (tAfter (.gclConfigChange .spi 3 3) u).fld REELGATE.GATE_STATUS_CAUSE 3
     tOpen (s 1000 0 1 0xFF []) .spi .reelgate 3 = true ∧ bitsOf (3 : Word).toNat 2 1 = 1 ∧ bitsOf (4 : Word).toNat 2 1 = 2 ∧
       (3 : Word).toNat.testBit 3 = false ∧ cause (s 1000 0 1 0xFF [(REELGATE.GATE_STATUS_PENDING, 1)]) = 1 ∧ cause (s 999 0 1 0xFF []) = 2 ∧
       cause (s 1000000001 0 1 0xFF []) = 2 ∧ cause (s 1000 1001 1 0xFF []) = 2 ∧ cause (s 1000 1000 0 0xFF []) = 3 ∧ cause (s 1000 0 1025 0xFF []) = 3 ∧
       0x300 ≤ (s 1000 0 1 0x300 []).chip.gclW 3 0 0 0 ∧ cause (s 1000 0 1 0x300 []) = 4 ∧ (s 1000 0 1 0xFF []).chip.ledger 3 = [] ∧
       (let u := tAt (s 1000 0 1 0xFF [(REELGATE.ADMIN_BASE_NS_NS, 500)]) 1500
        u.chip.net = 1500 * nsQ ∧ cause u = 0 ∧ ((tAfter (.gclConfigChange .spi 3 3) u).gate 3).change = 2500) ∧
       ((tAfter (.gclConfigChange .spi 3 3) (s 1000 0 1 0xFF [(REELGATE.ADMIN_BASE_NS_NS, 500)])).gate 3).change = 500 ∧
       (let u := tReel (tF (s 1000 0 1 0x7F []) [(HANK.TX_CFG_CLASS, 7)]) fun r => { r with admitted := [7] }
        u.chip.adminC7Bad 3 = true ∧ cause u = 5) ∧
       (tAfter (.gclCancel .spi 3 4) (s 1000 0 1 0xFF [(REELGATE.GATE_STATUS_PENDING, 1)])).fld REELGATE.GATE_STATUS_PENDING 3 = 0) ∧
    (let s := tReel (tGated [(REELGATE.GATE_STATUS_PENDING, 1), (REELGATE.ADMIN_LEN_LEN, 1), (REELGATE.ADMIN_CYCLE_NS_NS, 5000)]) fun r =>
        { r with gcl := (gclKey 1 0 0 0, 0x55) :: r.gcl, gates := [(1, { change := 0 })] }
     s.chip.fld REELGATE.GATE_STATUS_PENDING 1 ≠ 0 ∧ s.chip.running = true ∧ s.chip.fires = true ∧ s.chip.dom .core = domON ∧
       (s.chip.gate 1).change * (nsQ : Int) ≤ s.chip.net ∧ (tAfter (.gclActivate 1) s).gclW 1 1 0 0 = 0x55 ∧
       (tAfter (.gclActivate 1) s).gclW 1 0 0 0 = 0x7F ∧ s.chip.fld REELGATE.GATE_STATUS_PENDING 0 = 0 ∧
       (tAfter (.adminCopyDone 1) (tGated [(REELGATE.GATE_STATUS_ADMIN_BUSY, 1)])).gclW 1 0 1 0 = 0x80 ∧
       s.chip.fld REELGATE.GATE_STATUS_ADMIN_BUSY 1 = 0) ∧
    (let s := tReel (tAt (tGated []) 80000) fun r => { r with gates := [(1, { run := true, next := 80000 })] }
     s.chip.gateDue 1 = true ∧ (s.chip.operList 1).place (s.chip.gate 1).next = (some { off := 80000, idx := 1, gates := 0x80, op := 0 }, 100000) ∧
       (tAfter (.gateEvent 1) s).fld REELGATE.GATE_STATUS_GATES 1 = 0x80 ∧ (tLive mRUN).chip.gateDue 1 = false) := by decide +kernel

/-- R268, R272, R273, R278, R292, R297, R304. -/
theorem witness_PacketsJoinQueues :
    (let s (p : Packet) (l : List (FieldRow × Nat × Nat)) := tReel (tMod (tMetered) fun c => l.foldl (fun d x => d.setFld x.1 x.2.1 3 x.2.2)
        (c.setFld UPLINK.LINK_STATUS_STATE 4 3)) fun r => { r with incoming := [p] }
     let p : Packet := { tPlain with out := 3, cls := 6 }
     (s p []).chip.dom .core = domON ∧ p.tag = none ∧ p.hank = none ∧ portDefined p.out = true ∧ p.ctx = 0 ∧ p.launch = none ∧
       (s p []).chip.fld UPLINK.LINK_STATUS_STATE 3 = 4 ∧ cellsOf p.bytes.length ≤ max 1 ((s p []).chip.fld REELGATE.QLIMIT_CELLS 3 6) ∧
       ((tAfter .reelEnqueue (s p [])).queue 3 6).length = 1 ∧
       (let u := tMod (s p [(REELGATE.QLIMIT_CELLS, 0, 6)]) fun c => c.setQueue 3 6 [tPlain]
        ¬ (((u.chip.queue 3 6).map fun q => cellsOf q.bytes.length).sum + cellsOf p.bytes.length ≤ max 1 (u.chip.fld REELGATE.QLIMIT_CELLS 3 6)) ∧
          (tAfter .reelEnqueue u).fld REELGATE.QDROP_COUNT 3 = 1) ∧
       (tAfter .reelEnqueue (s p [(REELGATE.GATE_CTRL_DOWN_POLICY, 0, 0), (UPLINK.LINK_STATUS_STATE, 3, 0)])).fld REELGATE.LINK_FLUSH_COUNT 3 = 1 ∧
       (tAfter .reelEnqueue (s { p with cls := 7 } [])).fld REEL.C7_DEMOTED_COUNT = 1 ∧
       (let u := tCtx (s { p with ctx := 9 } []) [(9, 0, 0x01000021)]
        u.chip.ctxF 9 0 0 0 = 1 ∧ u.chip.ctxF 9 7 23 0 = u.chip.fld REEL.TICK_COUNT_COUNT % 2 ^ 24 ∧ u.chip.ctxW 9 4 < 2 ^ 24 ∧
          u.chip.ctxF 9 0 5 4 = 2 ∧ (tAfter .reelEnqueue u).fld REEL.METER_DROP_COUNT = 1) ∧
       (let u := s { p with launch := some (2 ^ 60) } [(REELGATE.GATE_CTRL_LT_MODE, 0x40, 0), (REELGATE.LT_MAX_AHEAD_US, 1, 0)]
        isUplinkPort p.out = true ∧ u.chip.ltQueue 3 6 = true ∧ u.chip.net + (u.chip.fld REELGATE.LT_MAX_AHEAD_US 3 * usQ : Nat) < 2 ^ 60 ∧
          (tAfter .reelEnqueue u).fld REELGATE.LT_FAR_COUNT 3 = 1)) ∧
    (let s := tMod (tLive mRUN) fun c => c.setQueue 0x6F 5 [tPlain]
     s.chip.mode ≠ mSAFE ∧ s.chip.segHead 95 [] = some (tPlain, 5) ∧ (s.chip.eng 95).offer = none ∧
       ((tAfter (.segmentOffer { n := 95, arrived := [] }) s).eng 95).offer = some (tPlain, 5) ∧
       (let u := tMod s fun c => c.updEng 95 fun e => { e with offer := some (tPlain, 4) }
        ((tAfter (.segmentOffer { n := 95, arrived := [] }) u).eng 95).offer = some (tPlain, 5)) ∧
       (let u := tMod s fun c => c.updEng 95 fun e => { e with offer := some (tPlain, 5) }
        (u.chip.eng 95).offer = some (tPlain, 5)) ∧ s.chip.segHead 94 [] = none ∧
       (tLive mRUN).chip.reel.incoming = []) := by decide +kernel

/-- R318, R332, R333. -/
theorem witness_PlyTimersAndSets :
    (let s (ms : Nat) := tF (tCtx (tLive mRUN) [(262143, 8, 0x00507001), (262143, 9, 1023 * 2 ^ 18), (262143, 12, 5)]) [(PLY.MS_COUNT_MS, ms)]
     (s 5).chip.dom .core = domON ∧ (s 5).chip.ctxF 262143 8 0 0 = 1 ∧ (s 5).chip.ctxF 262143 8 31 20 = 5 ∧ (s 5).chip.ctxF 262143 8 7 7 = 0 ∧
       (tAfter (.seqReset 262143) (s 5)).hist 262143 = 0 ∧ (tAfter (.seqReset 262143) (s 5)).setW 1023 6 = 1 ∧
       ¬ (5 ≤ ((s 4).chip.fld PLY.MS_COUNT_MS + 65536 - (s 4).chip.ctxF 262143 11 15 0) % 65536)) ∧
    (let s (d : Nat) := tMod (tLive mRUN) fun c => { c with ply := { c.ply with testMs := 2000, resetMs := 30000, sets :=
        [(16 * 1023 + 9, 10), (16 * 1023 + 10, 10 - d), (16 * 1023 + 11, 0x182)] } }
     let u := tMod (s 2) fun c => { c with ply := { c.ply with testMs := 0 } }
     (s 2).chip.ply.testPer ≤ (s 2).chip.ply.testMs ∧ bitsOf ((s 2).chip.setW 1023 11) 7 7 = 1 ∧
       (tAfter .latentTest (s 2)).setW 1023 7 = 1 ∧ (tAfter .latentTest (s 1)).setW 1023 7 = 0 ∧ u.chip.ply.testMs < u.chip.ply.testPer ∧
       u.chip.ply.resetPer ≤ u.chip.ply.resetMs ∧ (tAfter .latentReset u).setW 1023 9 = 0 ∧ (tAfter .latentReset u).setW 1023 8 = 1 ∧
       bitsOf (u.chip.setW 0 11) 7 7 = 0) ∧
    (let s := tMod (tLive mRUN) fun c => { c with ply := { c.ply with sets := [(16 * 1023, 9), (16 * 1023 + 10, 8), (16 * 1023 + 11, 7)] } }
     tOpen s .spi .ply 0 = true ∧ bitsOf (0x800003FF : Word).toNat 9 0 = 1023 ∧ (0x800003FF : Word).toNat.testBit 31 = true ∧
       (tAfter (.counterSetClear .spi 0x800003FF) s).setW 1023 10 = 0 ∧ (tAfter (.counterSetClear .spi 0x800003FF) s).setW 1023 11 = 7 ∧
       (tAfter (.counterSetClear .spi 0x3FF) s).setW 1023 10 = 8) := by decide +kernel


/-- R283, R286: entry 0 of the new list is in force at its start; the cycle before a change that is less than its extension away does
not start. -/
theorem witness_GateLists_more :
    (let s := tReel (tGated [(REELGATE.GATE_STATUS_PENDING, 1), (REELGATE.ADMIN_LEN_LEN, 1), (REELGATE.ADMIN_CYCLE_NS_NS, 5000)]) fun r =>
        { r with gcl := [(gclKey 1 0 0 0, 0x55), (gclKey 1 0 0 1, 5000)] ++ r.gcl, gates := [(1, { change := 0, run := true })] }
     let d := tAfter (.gclActivate 1) s
     d.gateRun 1 = true ∧ s.chip.net < (s.chip.gate 1).change * (nsQ : Int) + (s.chip.whorl.inc : Nat) ∧
       ((d.operList 1).place (s.chip.gate 1).change).1 = some { off := 0, idx := 0, gates := 0x55, op := 0 } ∧
       d.fld REELGATE.GATE_STATUS_GATES 1 = 0x55) ∧
    (let s := tReel (tGated [(REELGATE.GATE_STATUS_PENDING, 1), (REELGATE.ADMIN_CYCLE_EXT_NS_NS, 5000)]) fun r =>
        { r with gates := [(1, { run := true, next := 100000, change := 104999 })] }
     ((s.chip.gate 1).next - (s.chip.operList 1).base) % ((s.chip.operList 1).cycle : Int) = 0 ∧ (s.chip.gate 1).next < (s.chip.gate 1).change ∧
       (s.chip.gate 1).change - (s.chip.gate 1).next < (s.chip.fld REELGATE.ADMIN_CYCLE_EXT_NS_NS 1 : Nat)) := by decide +kernel

/-- A packet of context 20, whose words are `l`, on its way to output `out`. -/
def tJoin (p : Packet) (out : Nat) (l : List (Nat × Nat × Nat)) : State :=
  tReel (tMod (tCtx (tLive mRUN) l) fun c => c.setFld UPLINK.LINK_STATUS_STATE 4 3) fun r => { r with incoming := [{ p with out := out, ctx := 20 }] }

/-- R215, R326 to R330: numbers, R-TAGs, replicas and host frames. -/
theorem witness_PacketsJoinQueues_more :
    (let go (p : Packet) (out : Nat) (l : List (Nat × Nat × Nat)) := tAfter .reelEnqueue (tJoin p out ((20, 11, 0xFFFF0000) :: l))
     let cells : Packet := { tPlain with cells := { shared := 1 } }
     let tagged : Packet := { tPlain with bytes := List.replicate 12 2 ++ [0xF1, 0xC1] ++ List.replicate 46 0 }
     let s := tJoin cells 3 [(20, 8, 0x10), (20, 11, 0xFFFF0000)]
     s.chip.ctxF 20 0 0 0 = 0 ∧ s.chip.ctxF 20 0 1 1 = 0 ∧ s.chip.ctxF 20 8 4 4 = 1 ∧ s.chip.ctxF 20 11 23 16 = 0xFF ∧ s.chip.ctxF 20 11 31 24 = 0xFF ∧
       s.chip.rtagOver 20 cells.bytes = false ∧ cellsOf (cells.bytes.length + 6) ≤ cells.cells.shared ∧ portDefined 3 = true ∧
       ((go cells 3 [(20, 8, 0x10), (20, 10, 0xFFFF0000)]).queue 3 0).map (fun q => (q.bytes.length, (q.bytes.drop 12).take 6)) =
         [(66, [0xF1, 0xC1, 0, 0, 0xFF, 0xFF])] ∧
       (go cells 3 [(20, 8, 0x10), (20, 10, 0xFFFF0000)]).ctxF 20 10 31 16 = 0 ∧
       (tJoin tagged 3 [(20, 8, 0x30)]).chip.rtagOver 20 tagged.bytes = true ∧
       ((go tagged 3 [(20, 8, 0x30), (20, 10, 7 * 65536)]).queue 3 0).map (fun q => (q.bytes.length, (q.bytes.drop 12).take 6)) =
         [(60, [0xF1, 0xC1, 0, 0, 0, 7])] ∧
       isUplinkPort 0x10 = false ∧ (go cells 0x10 [(20, 8, 0x10)]).fld PLY.GEN_SKIPPED_COUNT = 1 ∧
       ((go cells 0x10 [(20, 8, 0x10)]).queue 0x10 0).length = 1) ∧
    (let s := tJoin tPlain 3 [(20, 11, 0xFF120000)]
     let full := tMod s fun c => { c with buffer := { c.buffer with charge := [(0, 100000)] } }
     s.chip.ctxF 20 8 4 4 = 0 ∧ s.chip.ctxF 20 11 23 16 = 0x12 ∧ s.chip.ctxF 20 11 31 24 = 0xFF ∧ s.chip.ctxF 21 0 1 1 = 0 ∧
       (s.chip.cellsFor 0 (cellsOf 60) 0).isSome = true ∧ (tAfter .reelEnqueue s).fld PLY.REPL_COPIES_COUNT = 1 ∧
       ((tAfter .reelEnqueue s).queue 0x12 0).map (fun q => (q.ctx, q.out)) = [(21, 0x12)] ∧
       full.chip.cellsFor 0 (cellsOf 60) 0 = none ∧ (tAfter .reelEnqueue full).fld PLY.REPL_DROP_COUNT = 1 ∧
       ((tAfter .reelEnqueue full).queue 3 0).length = 1) ∧
    (let s := tMod (tLive mRUN) fun c => (c.setQueue 0x6F 5 [{ tPlain with ingress := portHost }]).setQueue 0x6F 4 [tPlain]
     s.chip.segHead 95 [0, 0, 0, 0, 60, 59] = some (tPlain, 4) ∧ s.chip.segHead 95 [0, 0, 0, 0, 60, 60] = some ({ tPlain with ingress := portHost }, 5)) := by
  decide +kernel

/-- R329: 9,595 octets of an untagged frame, whose R-TAG does not fit. -/
theorem witness_PacketsJoinQueues_oversize (f : List Byte) (h : f.length = 9595) :
    let s := tJoin { tPlain with bytes := f } 3 [(20, 8, 0x10), (20, 11, 0xFFFF0000)]
    9600 < f.length + 6 ∧ s.chip.rtagOver 20 f = false := by
  intro s
  refine ⟨by omega, ?_⟩
  have h5 : s.chip.ctxF 20 8 5 5 = 0 := by show bitsOf 0x10 5 5 = 0; decide
  simp [Chip.rtagOver, h5]

/-- Context 20 recovers with counter set 3 and HISTLEN 8; `w8` is the rest of its word 8 and `w10` its word 10, with history `h`. -/
def tRecover (w8 w10 h : Nat) (l : List (Nat × Nat × Nat) := []) : Chip :=
  (tCtx (tLive mRUN) ([(20, 8, 0x8000 + w8), (20, 9, 3 * 2 ^ 18), (20, 10, w10)] ++ l)).chip.setHist 20 h

/-- R318 to R325, R335. -/
theorem witness_PlyTimersAndSets_more :
    (let q (v : Nat) : Nat → Option Nat := fun _ => some v
     let go (w8 w10 h v : Nat) := (tRecover w8 w10 h).recover 20 (q v)
     let n := (tRecover 1 0 0).histLen 20
     (tRecover 0 0 0).ctxF 20 8 0 0 = 0 ∧ (tRecover 1 0 0).recovDue 20 = false ∧ 1 < n ∧ n < 32768 ∧
       ((tRecover 9 0 0).recover 20 fun _ => none).2 = some 20 ∧ ((tRecover 1 0 0).recover 20 fun _ => none).2 = none ∧
       (go 0x81 0 0 65535).1.ctxF 20 10 15 0 = 65535 ∧ (go 0x81 0 0 5).1.ctxF 20 8 7 7 = 0 ∧
       (go 1 10 1 (10 + n)).2 = none ∧ (go 1 10 1 (10 + n)).1.setW 3 3 = 1 ∧
       (go 1 10 1 10).2 = none ∧ (go 1 10 1 10).1.setW 3 1 = 1 ∧ (go 1 10 1 9).2 = some 20 ∧ (go 1 10 1 9).1.hist 20 = 3 ∧
       (go 1 10 1 12).2 = some 20 ∧ (go 1 10 1 12).1.ctxF 20 10 15 0 = 12 ∧ (go 1 10 1 12).1.hist 20 = 5 ∧ (go 1 10 1 12).1.setW 3 4 = 2 ∧
       (go 1 10 (2 ^ n - 1) 11).1.setW 3 4 = 0 ∧
       (go 3 10 0 10).2 = none ∧ (go 3 10 0 11).2 = some 20 ∧ (go 0x83 10 0 10).2 = some 20 ∧ (go 3 10 0 9).1.setW 3 2 = 1) ∧
    (let c (l : List (Nat × Nat × Nat)) := tRecover 0x85 0 0 ((20, 9, 3 * 2 ^ 18 + 30) :: l)
     let go (l : List (Nat × Nat × Nat)) := (c l).recover 20 fun i => if i = 20 then some 4 else some 10
     (c []).ctxF 20 8 2 2 = 1 ∧ (c []).ctxF 20 9 17 0 = 30 ∧ (go []).2 = some 30 ∧ (go []).1.fld PLY.LINK_ERROR_COUNT = 1 ∧
       (go [(30, 8, 3), (30, 10, 10)]).2 = none ∧ (go [(30, 8, 3), (30, 10, 9)]).2 = some 30) ∧
    (let s := tMod (tF (tLive mRUN) [(POWER.DOMAIN_STATE_CORE, 0)]) fun c =>
        { c.setCtxW 20 8 1 with power := { c.power with wakes := [(.core, 0)] } }
     s.chip.wakeDue .core = true ∧ (tAfter (.domainWakeDone .core) s).dom .core = domON ∧
       (tAfter (.domainWakeDone .core) s).ctxF 20 8 7 7 = 1 ∧ (tAfter (.domainWakeDone .core) s).fld PLY.WAKE_RESETS_COUNT = 1) := by
  decide +kernel

/-! ### Host queues -/

/-- Indexed fields changed: row, index, value. -/
def tK (s : State) (l : List (FieldRow × Nat × Nat)) : State := tMod s fun c => l.foldl (fun d x => d.setFld x.1 x.2.2 0 x.2.1) c

/-- SQ 255 and CR 63 enabled, SQ 255 naming CR 63, and more fields changed. -/
def tHostQ (l : List (FieldRow × Nat × Nat) := []) : State :=
  tK (tLive mRUN) ([(HOSTQ.SQ_STATUS_STATE, 255, 1), (HOSTQ.SQ_CFG_CR, 255, 63), (HOSTQ.CR_STATUS_ENABLED, 63, 1), (HOSTQ.SQ_SEL_SQ, 0, 255),
    (HOSTQ.CR_SEL_CR, 0, 63)] ++ l)

/-- Operation 4095 of SQ 255 with its ledger state, opcode and record. -/
def tOp (s : State) (st oc : Nat) (o : TxOp) : State :=
  tMod (tK s [(HOSTQ.LEDGER_ENTRY0_STATE, 4095, st), (HOSTQ.LEDGER_ENTRY0_OPCODE, 4095, oc), (HOSTQ.LEDGER_ENTRY0_SQ, 4095, 255),
    (HOSTQ.LEDGER_ENTRY1_CR, 4095, 63)]) fun c => { c with txOps := [(4095, o)], hostq := { c.hostq with live := [(255, [4095])] } }

/-- R342 to R345: SQ 255 is at 0x7F80 of BAR2 and CR 63 at 0x9F80; a ring of 64 entries takes index 64 as wrap 1, entry 0. -/
theorem witness_QueueControl :
    (let s := tHostQ
     let a (off : BitVec 16) (v : Word) (be : BitVec 4) (u : State := s) := tAfter (.sqDoorbell off v be) u
     let b (off : BitVec 16) (v : Word) (u : State := s) := tAfter (.crHeadDoorbell off v 15) u
     (tSet [(POWER.DOMAIN_STATE_HOST, 0)]).chip.dom .host = domOFF ∧ s.chip.mode ≠ mRESET ∧ s.chip.modes.perst = false ∧
       s.chip.dom .host = domON ∧ (a 0xA000 0 15).fld HOSTQ.DB_IGNORED_COUNT = 1 ∧ (a 0x7F84 0 15).fld HOSTQ.DB_IGNORED_COUNT = 1 ∧
       (a 0x7F80 0 7).fld HOSTQ.DB_IGNORED_COUNT = 1 ∧ (a 0x7F00 0 15).fld HOSTQ.DB_IGNORED_COUNT = 1 ∧ s.chip.sqState 254 ≠ sqACTIVE ∧
       s.chip.sqState 255 = sqACTIVE ∧ s.chip.sqSize 255 = 64 ∧ idxCount 64 0 0x10000 = 64 ∧ (a 0x7F80 0x10000 15).sqProd 255 = 0x10000 ∧
       (a 0x7F80 64 15).fld HOSTQ.DB_ERRORS_COUNT = 1 ∧ (a 0x7F80 0x10001 15).fld HOSTQ.DB_ERRORS_COUNT = 1 ∧
       (a 0x7F80 9 15 (tF s [(POWER.DOMAIN_STATE_HOST, 4)])).hostq.pdb = [(255, [9])] ∧
       (tF s [(POWER.DOMAIN_STATE_HOST, 4)]).chip.dom .host = domLINK ∧
       (let u := tK s [(HOSTQ.CR_TAIL_INDEX, 63, 2)]
        idxCount 64 0 2 = 2 ∧ (b 0x9F80 2 u).crHead 63 = 2 ∧ u.chip.owed 63 = 0 ∧ u.chip.crBp 63 = false ∧ u.chip.rxWaiter 63 = none ∧
          (b 0x9F80 3 u).fld HOSTQ.CR_HEAD_ERRORS_COUNT = 1) ∧ (b 0x9F00 0).fld HOSTQ.CR_HEAD_ERRORS_COUNT = 1 ∧ s.chip.crOn 62 = false ∧
       (let u := tF s [(HOSTQ.SHADOW_ADDR_LO_EN, 1), (HOSTQ.SHADOW_ADDR_LO_ADDR, 1)]
        u.chip.hostUp = true ∧ (tAfter (.shadowWrite 255) u).hostWrites.map (·.addr) = [0x1000 + 4 * 255] ∧
          (tAfter (.shadowWrite 511) u).hostWrites.map (·.addr) = [0x1000 + 4 * 511] ∧ s.chip.fld HOSTQ.SHADOW_ADDR_LO_EN = 0)) ∧
    (let s := tHostQ
     let off := tK s [(HOSTQ.SQ_STATUS_STATE, 255, 0)]
     let one := tOp s 1 1 { words := [0] }
     let cnt (i : Instr) (u : State := s) := (tAfter i u).hdr HDR.ERRCNT_COUNT PageCls.hostq.base
     tOpen s .spi .hostq 0 = true ∧ bitsOf (0x53510001 : Word).toNat 31 16 = 0x5351 ∧ cnt (.sqEnable .spi 1) = 1 ∧
       s.chip.fld HOSTQ.SQ_SEL_SQ = 255 ∧ s.chip.sqCr 255 = 63 ∧ s.chip.crOn 63 = true ∧ (tAfter (.sqEnable .spi 0x53510001) off).sqState 255 = sqACTIVE ∧
       cnt (.sqEnable .spi 0x53510001) = 1 ∧ s.chip.sqQuiescent 255 = true ∧ one.chip.sqQuiescent 255 = false ∧
       (tAfter (.sqDrain .spi 0x53510002) s).sqState 255 = sqOFF ∧ (tAfter (.sqDrain .spi 0x53510002) one).sqState 255 = sqDRAINING ∧
       cnt (.sqDrain .spi 0x53510002) off = 1 ∧ s.chip.liveTags 255 = [] ∧ (tAfter (.sqAbort .spi 0x53510003) s).sqState 255 = sqOFF ∧
       one.chip.liveTags 255 = [4095] ∧ one.chip.opLive 4095 = true ∧ (one.chip.op 4095).handed = false ∧ (one.chip.op 4095).perst = false ∧
       (tAfter (.sqAbort .spi 0x53510003) one).fld HOSTQ.FLUSHED_COUNT = 1 ∧ cnt (.sqAbort .spi 0x53510003) off = 1) ∧
    (let s := tHostQ
     let cnt (i : Instr) (u : State := s) := (tAfter i u).hdr HDR.ERRCNT_COUNT PageCls.hostq.base
     let u := tK s [(HOSTQ.CR_SEL_CR, 0, 62)]
     let free := tK s [(HOSTQ.SQ_CFG_CR, 255, 0)]
     bitsOf (0x43520001 : Word).toNat 31 16 = 0x4352 ∧ u.chip.crOn 62 = false ∧ (tAfter (.crEnable .spi 0x43520001) u).crOn 62 = true ∧
       cnt (.crEnable .spi 0x43520001) = 1 ∧ s.chip.crNamed 63 = true ∧ cnt (.crDisable .spi 0x43520002) = 1 ∧ free.chip.crNamed 63 = false ∧
       free.chip.owed 63 = 0 ∧ free.chip.crWaiters 63 = [] ∧ (tAfter (.crDisable .spi 0x43520002) free).crOn 63 = false ∧ cnt (.crEnable .spi 1) = 1) ∧
    (let s := tHostQ
     let cnt (i : Instr) (u : State := s) := (tAfter i u).hdr HDR.ERRCNT_COUNT PageCls.hostq.base
     let fz := tK (tOp s 1 1 { words := [0] }) [(HOSTQ.LEDGER_ENTRY0_FROZEN, 4095, 1)]
     bitsOf (0x4C441FFF : Word).toNat 31 16 = 0x4C44 ∧ bitsOf (0x4C441FFF : Word).toNat 14 12 = 1 ∧ cnt (.ledgerRelease .spi 0x1FFF) = 1 ∧
       fz.chip.tagState 4095 ≠ lgFREE ∧ fz.chip.tagFrozen 4095 = true ∧ (tAfter (.ledgerRelease .spi 0x4C441FFF) fz).tagState 4095 = lgFREE ∧
       cnt (.ledgerRelease .spi 0x4C441FFF) = 1 ∧ (fz.chip.op 4095).words ≠ [] ∧ fz.chip.releasable 4095 = true ∧
       (tAfter (.ledgerReleaseAll .spi 0x4C442000) fz).tagState 4095 = lgFREE ∧ s.chip.fld HOSTQ.LEDGER_STATUS_DUMP_BUSY = 0 ∧
       (tAfter (.ledgerDump .spi 0x4C443000) s).fld HOSTQ.LEDGER_STATUS_DUMP_BUSY = 1 ∧
       (let u := tF s [(HOSTQ.LEDGER_STATUS_DUMP_BUSY, 1)]
        cnt (.ledgerDump .spi 0x4C443000) u = 1 ∧ (tAfter .ledgerDumpDone u).hostWrites.map (·.addr) = [8 * 4095]) ∧
       (let u := tOp (tK s [(HOSTQ.SQ_STATUS_STATE, 255, 2)]) 4 1 { words := [0] }
        let v := tMod u fun c => { c with hostq := { c.hostq with live := [] } }
        v.chip.sqState 255 = sqDRAINING ∧ v.chip.sqQuiescent 255 = true ∧ (tAfter (.sqQuiescent 255) v).sqState 255 = sqOFF ∧
          s.chip.sqState 255 = sqACTIVE)) := by
  refine ⟨?_, ?_, ?_, ?_⟩ <;> decide +kernel

/-- Sixteen words of an entry from its first ones. -/
def tWords (l : List Nat) : List Nat := l ++ List.replicate (16 - l.length) 0

/-- R347 to R352, R355, R360: word 0 has OPCODE in bits 7 to 0 and TAG in bits 27 to 16. -/
theorem witness_HostEntries :
    (let s := tK tHostQ [(HOSTQ.SQ_PROD_INDEX, 255, 1)]
     let e (l : List Nat) : List Word := (tWords l).map (BitVec.ofNat 32)
     let after (u : State) (l : List Nat) := tAfter (.sqFetch [some (e l)]) u
     tHostQ.chip.nextSq = none ∧ s.chip.nextSq = some 255 ∧ (tAfter (.sqFetch [none]) s).fld HOSTQ.SQ_STATUS_CAUSE 0 255 = 3 ∧
       (let u := tOp s 1 1 { words := [0] }
        u.chip.nextSq = some 255 ∧ u.chip.tagState 4095 ≠ lgFREE ∧ (after u [0x0FFF0000]).fld HOSTQ.SQ_STATUS_CAUSE 0 255 = 2) ∧
       s.chip.tagState 4095 = lgFREE ∧ (after s [0x0FFF0000]).tagState 4095 = lgNOT ∧ (after s [0x0FFF0000]).sqCons 255 = 1 ∧
       s.chip.entryGood (tWords [0x0FFF0000]) = true ∧ s.chip.entryGood (tWords [0x0FFF0005]) = false ∧
       (after s [0x0FFF0005]).fld HOSTQ.BAD_DESC_COUNT = 1 ∧
       (let u := tMod (tK s [(HOSTQ.CR_RX_CFG_RX_EN, 63, 1), (HOSTQ.CR_RX_CFG_POST_LIMIT, 63, 1)]) fun c => c.setCrBufs 63 [(64, 0)]
        u.chip.entryGood (tWords [0x0FFF0002, 0x13F, 64]) = true ∧ u.chip.rxFull (tWords [0x0FFF0002, 0x13F, 64]) = true ∧
          (after u [0x0FFF0002, 0x13F, 64]).fld HOSTQ.LEDGER_ENTRY0_STATUS 0 4095 = csRXFULL)) ∧
    (let s (oc : Nat) (l : List Nat) := tOp tHostQ 1 oc { words := tWords l }
     let hand (data : List Byte) (u : State) := tAfter (.opHandover 255 data) u
     (s 0 [0]).chip.nextOp 255 = some 4095 ∧ (s 0 [0]).chip.fenceOpen 255 4095 = true ∧ ((s 0 [0]).chip.op 4095).perst = false ∧
       tHostQ.chip.nextOp 255 = none ∧ (hand [] (s 0 [0])).tagState 4095 = lgDONE ∧
       (let u := tMod (tOp tHostQ 1 0 { words := [0x200] }) fun c =>
          { c with hostq := { c.hostq with live := [(255, [7, 4095])] }, txOps := [(7, { words := [0], handed := true }), (4095, { words := [0x200] })] }
        u.chip.nextOp 255 = some 4095 ∧ u.chip.fenceOpen 255 4095 = false) ∧
       (s 2 [2, 0x13F, 64]).chip.crOn 63 = true ∧ (hand [] (s 2 [2, 0x13F, 64])).crBufs 63 = [(64, 0)] ∧
       (let u := s 1 [1, 0x1000E]
        let d : List Byte := List.replicate 14 1
        bitsOf 0x1000E 13 0 = 14 ∧ u.chip.hostUp = true ∧ u.chip.dom .core = domON ∧ u.chip.carder.hostFree ≤ 12 * u.chip.aon ∧
          (u.chip.cellsFor portHost (cellsOf 60) (u.chip.fld HOSTQ.SQ_CFG_PRECLASS 0 255)).isSome = true ∧
          (hand d u).fld HOSTQ.TX_FRAMES_COUNT = 1 ∧ (tMod u fun c => c.updCarder fun k => { k with hostFree := 1 }).chip.carder.hostFree = 1 ∧
          12 * u.chip.aon < 1)) ∧
    (let s (st : Nat) := tOp tHostQ st 1 { words := [1] }
     (s 1).chip.opLive 4095 = true ∧ (s 1).chip.fld HOSTQ.LEDGER_ENTRY0_OPCODE 0 4095 = opTX ∧ (s 1).chip.tagState 4095 = lgNOT ∧
       (tAfter (.txDataPcieError 4095 0) (s 1)).fld HOSTQ.PCIE_ERRORS_COUNT = 1 ∧ (s 2).chip.tagState 4095 ≠ lgNOT ∧
       (s 2).chip.reading 4095 = [] ∧ tHostQ.chip.opLive 4095 = false) ∧
    (let s (o : TxOp) (parked : List Nat) (l : List (FieldRow × Nat × Nat)) := tMod (tK (tOp tHostQ 4 0 o) l) fun c =>
        { c with hostq := { c.hostq with due := [4095], parked := parked } }
     let room := s { words := [0] } [] []
     let full := [(HOSTQ.CR_TAIL_INDEX, 63, 0x10000)]
     tHostQ.chip.dueTag = none ∧ room.chip.dueTag = some 4095 ∧ room.chip.crFree 63 = true ∧ room.chip.owed 63 = 0 ∧ room.chip.silent 4095 = false ∧
       (tAfter .completion room).crTail 63 = 1 ∧ (tAfter .completion room).hostWrites.length = 1 ∧
       (s { words := [0], quiet := true } [] []).chip.silent 4095 = true ∧ (tAfter .completion (s { words := [0], quiet := true } [] [])).hostWrites = [] ∧
       (s { words := [0] } [] full).chip.crFree 63 = false ∧ (tAfter .completion (s { words := [0] } [] full)).hostq.parked = [4095] ∧
       (s { words := [0] } (List.replicate 2048 9) full).chip.hostq.parked.length = 2048 ∧
       (tAfter .completion (s { words := [0] } (List.replicate 2048 9) full)).hostq.waiting = [4095]) := by
  refine ⟨?_, ?_, ?_, ?_⟩ <;> decide +kernel

/-- R357 to R359: reason 0 goes to CR 63, whose buffers hold 256 octets each. -/
theorem witness_ReceivePlacement :
    (let s (p : Packet) (l : List (FieldRow × Nat × Nat)) (bufs : List (Nat × Nat)) := tMod (tK tHostQ ([(HOSTQ.RX_MAP_EN0, 0, 1), (HOSTQ.RX_MAP_CR0, 0, 63),
        (HOSTQ.CR_RX_CFG_RX_EN, 63, 1), (HOSTQ.CR_RX_CFG_BUF_SIZE_LOG, 63, 0)] ++ l)) fun c => (c.setQueue portHost 0 [p]).setCrBufs 63 bufs
     let p : Packet := { tPlain with out := portHost }
     let ok := s p [] [(4096, 0)]
     ok.chip.hostUp = true ∧ ok.chip.dom .core = domON ∧ ok.chip.mode ≠ mSAFE ∧ ok.chip.rxNext = some p ∧ p.tag = none ∧ p.hank = none ∧
       ok.chip.rxMap 0 = some 63 ∧ ok.chip.crOn 63 = true ∧ ok.chip.fld HOSTQ.CR_RX_CFG_RX_EN 0 63 ≠ 0 ∧ ok.chip.bufsNeeded 63 p = 1 ∧
       ok.chip.rxWaiter 63 = none ∧ ok.chip.crFree 63 = true ∧ ok.chip.owed 63 = 0 ∧ (tAfter .rxPlacement ok).hostWrites.length = 2 ∧
       (s p [(HOSTQ.RX_MAP_EN0, 0, 0)] []).chip.rxMap 0 = none ∧ (tAfter .rxPlacement (s p [(HOSTQ.RX_MAP_EN0, 0, 0)] [])).fld HOSTQ.RX_UNMAPPED_COUNT = 1 ∧
       (let q := { p with bytes := List.replicate 257 0 }
        (s q [(HOSTQ.CR_RX_CFG_POST_LIMIT, 63, 1)] []).chip.bufsNeeded 63 q = 2 ∧
          (tAfter .rxPlacement (s q [(HOSTQ.CR_RX_CFG_POST_LIMIT, 63, 1)] [])).fld HOSTQ.RX_TOO_BIG_COUNT = 1) ∧
       (s p [] []).chip.bufsNeeded 63 p ≤ (s p [] []).chip.postLimit 63 ∧ (s p [] []).chip.crBufs 63 = [] ∧
       (tAfter .rxPlacement (s p [(HOSTQ.RX_HOLD_LIMIT_US, 0, 0)] [])).fld HOSTQ.RX_HOLD_DROP_COUNT = 1 ∧
       (let u := s p [(HOSTQ.RX_HOLD_LIMIT_US, 0, 1)] []
        u.chip.fld HOSTQ.RX_HOLD_LIMIT_US ≠ 0 ∧ ((tAfter .rxPlacement u).hostQueue.map (·.rxWait)) = [some (63, 0)]) ∧
       tHostQ.chip.rxNext = none) ∧
    (let p : Packet := { tPlain with out := portHost, rxWait := some (63, 0) }
     let s := tMod (tK tHostQ [(HOSTQ.RX_HOLD_LIMIT_US, 0, 1)]) fun c => c.setQueue portHost 0 [p]
     s.chip.rxWaiter 63 = some (p, 0) ∧ (tAt s 1000).chip.rxWaiter 63 = some (p, 0) ∧ 0 + 1 * usQ ≤ (tAt s 1000).chip.now ∧
       (tAfter (.rxHoldTimeout 63) (tAt s 1000)).fld HOSTQ.RX_HOLD_DROP_COUNT = 1 ∧ s.chip.now < 0 + 1 * usQ ∧ s.chip.rxWaiter 62 = none) := by
  decide +kernel

/-- R342, R361: the indices that BAR2 wrote at LINK, in their order; the end of back-pressure. -/
theorem witness_QueueControl_more :
    (let s (l : List Nat) := tMod (tF tHostQ [(POWER.DOMAIN_STATE_HOST, 4)]) fun c =>
        { c with hostq := { c.hostq with pdb := [(255, l)] }, power := { c.power with wakes := [(.host, 0)] } }
     let d (l : List Nat) := tAfter (.domainWakeDone .host) (s l)
     (s []).chip.wakeDue .host = true ∧ (s []).chip.sqState 255 = sqACTIVE ∧ idxCount 64 0 9 ≤ 64 ∧ (d [9]).sqProd 255 = 9 ∧ (d [9]).dom .host = domON ∧
       (d [65, 9]).sqState 255 = sqERROR ∧ (d [65, 9]).sqProd 255 = 0 ∧ (d [65, 9]).hostq.pdb = []) ∧
    (let s := tK tHostQ [(HOSTQ.CR_TAIL_INDEX, 63, 2), (HOSTQ.CR_STATUS_BACKPRESSURE, 63, 1)]
     s.chip.crBp 63 = true ∧ s.chip.owed 63 = 0 ∧ (tAfter (.crHeadDoorbell 0x9F80 2 15) s).crBp 63 = false ∧
       ((tAfter (.crHeadDoorbell 0x9F80 2 15) s).hdr HDR.EVT PageCls.hostq.base).testBit EV.HOSTQ_CR_RELEASED.bit = true) := by decide +kernel

/-! ### Hank and the Distaff -/

/-- A settled part in RUN with a role, indexed fields changed, and its Hank block and Distaff changed. -/
def tRole (role : Nat) (l : List (FieldRow × Nat × Nat) := []) (f : Chip → Chip := id) : State :=
  tMod (tK (tF (tLive mRUN) [(GLOBAL.ROLE_SETTLED, 1), (GLOBAL.ROLE_ROLE, role)]) l) f

/-- A worker bound as worker 5 to manager 02-00-00-00-00-01 of epoch 0. -/
def tWorker (l : List (FieldRow × Nat × Nat) := []) : State :=
  tRole roleWORKER ([(HANK.BIND_STATUS_MGR_VALID, 0, 1), (HANK.BIND_STATUS_MY_ID, 0, 5), (HANK.MGR_MAC_LO_ADDR, 0, 1), (HANK.MGR_MAC_HI_ADDR, 0, 0x200)] ++ l)

/-- A manager whose worker 255 is valid, at 02-00-00-00-00-01, and BOUND. -/
def tManager (l : List (FieldRow × Nat × Nat) := []) : State :=
  tRole roleMANAGER ([(HANK.WT_SEL_WORKER, 0, 255), (HANK.WT_CFG_VALID, 255, 1), (HANK.WT_MAC_LO_ADDR, 255, 1), (HANK.WT_MAC_HI_ADDR, 255, 0x200),
    (HANK.WT_STATUS_STATE, 255, wtBOUND)] ++ l)

/-- A Hank frame of SEQ 9 and CMD_ID 7: type, SENDER_ROLE and TARGET_ROLE, SENDER, TARGET, TARGET_EPOCH and body (Table 11.4). -/
def tMsg (typ roles sender target epoch : Nat) (body : List Byte) : Packet :=
  { bytes := List.replicate 6 0 ++ [2, 0, 0, 0, 0, 1, 0x88, 0xB6, BitVec.ofNat 8 (0x10 + typ), 0x80, BitVec.ofNat 8 roles, BitVec.ofNat 8 sender,
      BitVec.ofNat 8 target, 0, 0, 0] ++ beBytes 2 epoch ++ [0, 9, 0, 0, 0, 7] ++ beBytes 2 body.length ++ [0, 0] ++ body, ingress := 3 }

/-- A state with one frame from port 0x81, and what the checks of Table 11.7 look at for it. -/
def tIn (s : State) (p : Packet) : State := tMod s fun c => { c with hankIn := [p] }
def tPasses (s : State) (typ : Nat) (p : Packet) : Bool :=
  let c := (tIn s p).chip
  match parseHank p with
  | some m => c.dom .core == domON && c.hankFront typ == some p && c.on GLOBAL.ROLE_SETTLED && m.typ == typ && m.targetRole == c.role &&
      (m.typ == 1 || m.targetEpoch == c.roleEpoch) && (!(c.role == roleWORKER) || m.typ == 1 || m.target == c.fld HANK.BIND_STATUS_MY_ID) &&
      (!(c.role == roleMANAGER) || m.target == 0) && c.senderOk m && !c.hank.history.contains m.seq
  | none => false

/-- A message of type `typ` for worker 255 with SEQ 9 that awaits its answer, with its tag, tries and when it left. -/
def tSent (typ : Nat) (tag : Option Nat) (tries : Nat) (at_ : Nat) : Chip → Chip := fun c =>
  let m : HankMsg := { typ := typ, worker := 255, seq := 9, octets := [0x10, 0], tag := tag, acks := true, tries := tries, left := some at_ }
  c.updHank fun h => { h with nextId := 9, msgs := [(8, some m)] }

/-- R384 to R387, R389, R394, R396, R399: roles 0x90 are MANAGER to WORKER, 0x60 WORKER to MANAGER. -/
theorem witness_HankReceives :
    (let w := tWorker
     let m := tManager
     let aft (i : Instr) (s : State) (p : Packet) := tAfter i (tIn s p)
     let bind := tMsg 1 0x90 0 5 0 [6, 0, 0, 0]
     let fan := tMsg 3 0x90 0 5 0 (beBytes 6 1 ++ beBytes 4 2 ++ beBytes 2 3 ++ beBytes 2 4 ++ beBytes 2 1 ++ [0, 0, 95, 1, 1, 0, 1])
     let req := tMsg 7 0x90 0 5 0 ([0, 1, 0, 0] ++ beBytes 4 GLOBAL.MODE_MODE.off ++ [0, 0, 0, 0])
     (.bindRx, 1) ∈ [(Instr.bindRx, 1)] ∧ w.chip.hankFront 1 = none ∧ parseHank tPlain = none ∧ (tIn w tPlain).chip.hankFront 1 = some tPlain ∧
       (aft .bindRx w tPlain).fld HANK.HDR_ERR_COUNT = 1 ∧ (aft .bindRx (tF w [(GLOBAL.ROLE_SETTLED, 0)]) bind).fld HANK.ROLE_STALE_COUNT = 1 ∧
       (aft .fanoutRx w (tMsg 3 0x90 0 5 1 [])).fld HANK.HDR_ERR_COUNT = 1 ∧ (aft .cancelRx w (tMsg 6 0x90 0 5 1 [])).fld HANK.ROLE_STALE_COUNT = 1 ∧
       (aft .cancelRx w (tMsg 6 0x60 0 5 0 [])).fld HANK.ROLE_STALE_COUNT = 1 ∧ (aft .cancelRx w (tMsg 6 0x90 0 6 0 [])).fld HANK.NOT_FOR_ME_COUNT = 1 ∧
       (aft .cancelRx (tF w [(HANK.MGR_MAC_LO_ADDR, 2)]) (tMsg 6 0x90 0 5 0 [])).fld HANK.ROLE_STALE_COUNT = 1 ∧
       tPasses w 1 bind = true ∧ (aft .bindRx w bind).fld HANK.BIND_STATUS_MY_ID = 6 ∧ (aft .bindRx w bind).fld HANK.BIND_STATUS_MGR_UPLINK = 3 ∧
       tPasses w 3 fan = true ∧ w.chip.findShare 7 = none ∧ w.chip.shareCount < 256 ∧
       ((aft .fanoutRx w fan).findShare 7).map (fun e => (e.2.apply, e.2.ramp, e.2.parts)) = some (64000000128, 3, [4]) ∧
       (let u := tMod w fun c => c.addShare { cmdId := 7, apply := 0, ramp := 0 }
        tPasses u 6 (tMsg 6 0x90 0 5 0 []) = true ∧ (u.chip.findShare 7).isSome = true ∧ ((aft .cancelRx u (tMsg 6 0x90 0 5 0 [])).findShare 7) = none) ∧
       tPasses w 7 req = true ∧ (aft .regReqRx (tF w [(HANK.CFG_REMOTE_EN, 0)]) req).fld HANK.REMOTE_REFUSED_COUNT = 1 ∧
       (let u := tF w [(HANK.CFG_REMOTE_EN, 1)]
        u.chip.mode ≠ mRESET ∧ u.chip.domUp .aon = true ∧ (aft .regReqRx u req).fld HANK.REMOTE_ACCESSES_COUNT = 1 ∧
          ((aft .regReqRx u req).hank.resp.map fun r => r.2.drop 20) = some [1, 0, 0, 0, 0, 0, 0, 3] ∧ u.chip.plainRead .global 0 0x044 = 3) ∧
       tPasses m 2 (tMsg 2 0x60 255 0 0 [0, 0, 0, 0]) = true ∧ (aft .helloRx m (tMsg 2 0x60 255 0 0 [0, 0, 0, 0])).wtState 255 = wtBOUND) ∧
    (let aft (i : Instr) (s : State) (p : Packet) := tAfter i (tIn s p)
     let m := tMod (tOp tManager 2 4 { words := [4] }) (tSent 7 (some 4095) 0 0)
     let k (typ : Nat) := tMod tManager (tSent typ none 0 0)
     let ack := tMsg 4 0x60 255 0 0 []
     let done := tMsg 5 0x60 255 0 0 (beBytes 4 3 ++ beBytes 4 2 ++ beBytes 4 1)
     let sh : Share := { cmdId := 7, apply := 0, ramp := 0, cmd := some { tag := 0, group := 0, typ := 0, noDesc := false, value := 0, leadMs := 0 } }
     let d := tMod tManager fun c => c.addShare sh
     tPasses (k 3) 4 ack = true ∧ ((k 3).chip.awaiting 255 9).map (·.1) = some 8 ∧ (aft .fanoutAckRx (k 3) ack).msg 8 = none ∧
       (aft .fanoutAckRx (k 6) ack).msg 8 = none ∧ tPasses d 5 done = true ∧ d.chip.findCmd 7 = some 1 ∧ d.chip.share? 1 = some sh ∧
       ((aft .shareDoneRx d done).share? 1).map (fun h => h.cmd.map fun q => (Tab.get {} q.replies 255).onTime) = some (some 3) ∧
       tPasses m 8 (tMsg 8 0x60 255 0 0 [1, 0, 0, 0, 0, 0, 0, 5]) = true ∧ (m.chip.awaiting 255 9).map (·.1) = some 8 ∧ 8 ≠ m.chip.hank.nextId ∧
       m.chip.opLive 4095 = true ∧ (m.chip.op 4095).aborted = false ∧ (m.chip.op 4095).perst = false ∧
       ((aft .regRespRx m (tMsg 8 0x60 255 0 0 [1, 0, 0, 0, 0, 0, 0, 5])).op 4095).r6 = 5 ∧
       (aft .regRespRx m (tMsg 8 0x60 255 0 0 [0, 1, 0, 0])).fld HOSTQ.LEDGER_ENTRY0_STATUS 0 4095 = csRRACCESS) := by
  refine ⟨?_, ?_⟩ <;> decide +kernel

/-- R385 to R388: ACK_TIMEOUT_US is 200, RETRIES 3, KEEPALIVE_MS 100, PEER_TIMEOUT_MS 500 and MGR_TIMEOUT_MS 1,000 after reset. -/
theorem witness_HankTimers :
    (let s (typ : Nat) (tag : Option Nat) (tries : Nat) (ns : Nat) := tAt (tMod (tOp tManager 2 4 { words := [4] }) (tSent typ tag tries 0)) ns
     (s 3 none 2 200000).chip.dom .core = domON ∧ ((s 3 none 2 200000).chip.awaiting 255 9).map (fun e => (e.1, (s 3 none 2 200000).chip.ackDue e.2)) =
       some (8, true) ∧ (s 3 none 2 200000).chip.hank.nextId = 9 ∧ (tAfter (.hankAckTimeout 255 9) (s 3 none 2 200000)).fld HANK.RETRANSMITS_COUNT = 1 ∧
       (tAfter (.hankAckTimeout 255 9) (s 7 (some 4095) 3 200000)).fld HANK.GIVE_UPS_COUNT = 1 ∧ (s 7 (some 4095) 3 0).chip.opLive 4095 = true ∧
       ((s 7 (some 4095) 3 0).chip.op 4095).aborted = false ∧
       (tAfter (.hankAckTimeout 255 9) (s 7 (some 4095) 3 200000)).fld HOSTQ.LEDGER_ENTRY0_STATUS 0 4095 = csRRTIMEOUT ∧
       ((s 3 none 2 199960).chip.awaiting 255 9).map (fun e => (s 3 none 2 199960).chip.ackDue e.2) = some false ∧ tManager.chip.awaiting 255 9 = none) ∧
    (let s (ms : Nat) := tAt (tMod tManager fun c => c.updHank fun h => { h with helloAt := [(255, 1)], bindAt := [(255, 1)] }) (ms * 1000000 + 40)
     (s 100).chip.bindDue 255 = true ∧ (s 99).chip.bindDue 255 = false ∧ (tAfter (.bindKeepalive 255) (s 100)).nextSeq 255 = 1 ∧
       (s 500).chip.absentDue 255 = true ∧ (s 499).chip.absentDue 255 = false ∧ (tAfter (.workerAbsent 255) (s 500)).wtState 255 = wtABSENT) ∧
    (let s := tAt tWorker 1000000000
     s.chip.fld HANK.BIND_STATUS_MGR_VALID = 1 ∧ s.chip.hank.lastMgr + s.chip.fld HANK.TIMEOUTS_MGR_TIMEOUT_MS * msQ ≤ s.chip.now ∧
       (tAfter .mgrTimeout s).fld HANK.BIND_STATUS_MGR_VALID = 0 ∧
       tWorker.chip.now < tWorker.chip.hank.lastMgr + tWorker.chip.fld HANK.TIMEOUTS_MGR_TIMEOUT_MS * msQ ∧ tOpen tWorker .spi .hank 0 = true ∧
       tWorker.chip.fld HANK.WT_SEL_WORKER < 256 ∧ bitsOf (0x00000500 : Word).toNat 15 8 = 5 ∧
       (tAfter (.mgrUnbind .spi 0x00000500) tWorker).fld HANK.BIND_STATUS_MGR_VALID = 0 ∧
       (tAfter (.mgrUnbind .spi 0x00000601) tWorker).hdr HDR.ERRCNT_COUNT PageCls.hank.base = 1 ∧
       (tRole 1).chip.fld HANK.BIND_STATUS_MGR_VALID = 0 ∧ (tAfter (.mgrUnbind .spi 0xFFFF0631) (tRole 1)).fld HANK.BIND_STATUS_MY_ID = 6) ∧
    (let w (v : Word) (s : State) := tAfter (.wtValidWrite .spi v) s
     let e := tManager [(HANK.WT_CFG_VALID, 255, 0)]
     tOpen tManager .spi .hank 0 = true ∧ tManager.chip.fld HANK.WT_CFG_VALID 0 255 ≠ 0 ∧ tManager.chip.fld HANK.WT_CFG_UPLINK 0 255 = 0 ∧
       (w 0 tManager).wtState 255 = wtEMPTY ∧ (w 0x31 tManager).hdr HDR.ERRCNT_COUNT PageCls.hank.base = 1 ∧ (w 0x30 e).fld HANK.WT_CFG_UPLINK 0 255 = 3 ∧
       e.chip.role = roleMANAGER ∧ (w 0x31 e).wtState 255 = wtBINDING ∧ e.chip.dom .core = domON ∧ (w 0x31 e).nextSeq 255 = 1) ∧
    (let s (spent : Nat) := tMod (tLive mRUN) fun c => (c.setFld UPLINK.LINK_STATUS_STATE 4 3).updHank fun h =>
        { h with held := [(3, { tPlain with cls := 7, hank := some 1 })], spent := spent }
     (s 0).chip.dom .core = domON ∧ (s 0).chip.hank.held.length = 1 ∧ 0 + secQ ≤ max 1 ((s 0).chip.fld HANK.C7_RES_CBS) * secQ ∧
       (s 0).chip.ulUp 3 = true ∧ ((tAfter .hankBucketRelease (s 0)).queue 3 7).length = 1 ∧
       max 1 ((s 0).chip.fld HANK.C7_RES_CBS) * secQ < (s (256 * secQ)).chip.hank.spent + secQ) := by
  refine ⟨?_, ?_, ?_, ?_, ?_⟩ <;> decide +kernel

/-- R341, R352, R379, R398: a turn of two entries; FANOUT and REMOTE_REG; a frame that has been pre-empted. -/
theorem witness_HostEntries_more :
    (let e (t : Nat) : List Word := (tWords [t * 65536]).map (BitVec.ofNat 32)
     let s (w : Nat) := tK tHostQ [(HOSTQ.SQ_PROD_INDEX, 255, 3), (HOSTQ.SQ_CFG_WEIGHT, 255, w)]
     (s 2).chip.nextSq = some 255 ∧ ((s 2).chip.fetch [some (e 9)]).sqEligible 255 = true ∧ (tAfter (.sqFetch [some (e 9), some (e 8)]) (s 2)).sqCons 255 = 2 ∧
       (tAfter (.sqFetch [some (e 9), some (e 8), some (e 7)]) (s 2)).sqCons 255 = 2 ∧ (tAfter (.sqFetch [some (e 9), some (e 8)]) (s 1)).sqCons 255 = 1) ∧
    (let hand (u : State) := tAfter (.opHandover 255 []) u
     let fan (role : Nat) := tOp (tRole role [(HOSTQ.SQ_STATUS_STATE, 255, 1), (HOSTQ.SQ_CFG_CR, 255, 63), (HOSTQ.CR_STATUS_ENABLED, 63, 1)]) 1 3
        { words := tWords [3, 0x00010005, 0x00030004, 0, 1] }
     let reg (role : Nat) (f : Chip → Chip) := tMod (tOp (tRole role [(HOSTQ.SQ_STATUS_STATE, 255, 1), (HOSTQ.SQ_CFG_CR, 255, 63), (HOSTQ.CR_STATUS_ENABLED, 63, 1),
        (HANK.WT_STATUS_STATE, 255, wtBOUND)]) 1 4 { words := tWords [4, 0x000000FF] }) f
     let shares (d : Chip) := d.distaff.shares.filterMap fun x => x.2.bind fun h => h.cmd.map fun m => (h.ramp, m.group, m.typ, m.value, m.tag)
     (fan roleMANAGER).chip.role = roleMANAGER ∧ (fan roleMANAGER).chip.nextOp 255 = some 4095 ∧ (fan roleMANAGER).chip.fenceOpen 255 4095 = true ∧
       (hand (fan roleWORKER)).fld HOSTQ.LEDGER_ENTRY0_STATUS 0 4095 = csNOTMANAGER ∧ (fan roleMANAGER).chip.cmdCount = 0 ∧
       shares (hand (fan roleMANAGER)) = [(3, 5, 1, 4, 4095)] ∧ (hand (fan roleMANAGER)).fld DISTAFF.NEXT_CMD_ID_ID = (fan roleMANAGER).chip.fld DISTAFF.NEXT_CMD_ID_ID + 1 ∧
       (reg roleMANAGER id).chip.wtState 255 = wtBOUND ∧ (reg roleMANAGER id).chip.regBusy 255 = false ∧
       ((hand (reg roleMANAGER id)).hank.msgs.filterMap fun x => x.2.map fun m => (m.typ, m.worker, m.tag)) = [(hkREGREQ, 255, some 4095)] ∧
       (reg roleMANAGER (tSent 7 none 0 0)).chip.regBusy 255 = true ∧ Tab.get [] (hand (reg roleMANAGER (tSent 7 none 0 0))).hank.regQ 255 = [4095] ∧
       (hand (reg roleWORKER id)).fld HOSTQ.LEDGER_ENTRY0_STATUS 0 4095 = csNOTMANAGER ∧
       (hand (reg roleMANAGER fun c => c.setWtState 255 0)).fld HOSTQ.LEDGER_ENTRY0_STATUS 0 4095 = csRRNOWORKER) ∧
    (let s := tMod (tOp tHostQ 2 1 { words := [1] }) fun c => c.updUpl 3 fun x => { x with cont := some { pkt := { tPlain with tag := some 4095 }, cls := 0, start := 0, total := 60, stamp := 0, early := true } }
     s.chip.tagState 4095 ≠ lgNOT ∧ s.chip.reading 4095 = [3] ∧ (s.chip.upl 3).cur = none ∧
       (tAfter (.txDataPcieError 4095 0) s).fld UPLINK.TX_UNDERRUN_COUNT 3 = 1 ∧ ((tAfter (.txDataPcieError 4095 0) s).upl 3).cont = none) := by
  refine ⟨?_, ?_, ?_⟩ <;> decide +kernel

/-- A manager with DRAM of 1 MiB: the groups begin at 0x1000 and the directory at 0x2000; group 0 and entry 0 have the words listed. -/
def tDram (g e : List Nat) (f : Chip → Chip := id) : State :=
  tMod (tOp (tManager [(DISTAFF.GROUP_BASE_PAGE, 0, 1), (DISTAFF.DIR_BASE_PAGE, 0, 2), (DRAM.STATUS_USABLE_MIB, 0, 1), (GLOBAL.ROLE_DRAM_READY, 0, 1)])
    2 3 { words := [3] }) fun c => f ((c.dramWrite 0x1000 g).dramWrite 0x2000 e)

/-- Share 1 at apply time 0, of command 4095 where it has one. -/
def tShare (h : Share) (f : Chip → Chip := id) : Chip → Chip := fun c => f { c with distaff := { c.distaff with shares := [(1, some h)], nextKey := 2 } }
def tFan (m : FanCmd) (h : Share := { cmdId := 7, apply := 0, ramp := 0 }) : Chip → Chip := tShare { h with cmd := some m }
def tCmd : FanCmd := { tag := 4095, group := 0, typ := 0xFF, noDesc := true, value := 16384, leadMs := 0 }

/-- R373 to R375, R380, R381, R394: a group descriptor has VALID in bit 31 of word 0, and an entry in bit 31 of word 1. -/
theorem witness_FanoutCommands :
    (let s (total : Nat) (l : List (FieldRow × Nat)) := tF (tDram [0, 0, 0, total] [] (tFan tCmd)) l
     let live (s : State) := s.chip.opLive 4095 == true && (s.chip.op 4095).perst == false && ((s.chip.share? 1).map fun h => h.cmd) == some (some tCmd)
     let ask (s : State) := tAfter (.fanoutLeaveRequest 1) s
     let no := [(POWER.CEILING_TOKENS, 69)]
     let yes := [(POWER.RESERVE_FANOUT_RESERVE, 8)]
     live (s 4097 []) = true ∧ (s 4097 []).chip.dom .core = domON ∧ 4096 < (s 4097 []).chip.groupTotal 0 ∧ (0 : Int) - (msQ : Nat) ≤ (s 4097 []).chip.net ∧
       (s 4097 no).chip.leaveAnswer (.fanout 1) = .refused ∧ (ask (s 4097 no)).fld HOSTQ.LEDGER_ENTRY0_STATUS 0 4095 = csNOLEAVE ∧
       (s 4097 []).chip.leaveAnswer (.fanout 1) = .queued ∧ (ask (s 4097 [])).leaveWaiting (.fanout 1) = true ∧
       (s 4097 yes).chip.leaveAnswer (.fanout 1) = .granted ∧ (ask (s 4097 yes)).leaveHeld (.fanout 1) = true ∧ (s 4096 []).chip.groupTotal 0 = 4096 ∧
       (let u := tAt (s 0 [(DISTAFF.APPLY_LATE_TOL_NS, 40)]) 80
        (0 : Int) * 2 ^ 26 + (u.chip.fld DISTAFF.APPLY_LATE_TOL_NS * nsQ : Nat) < u.chip.net ∧
          (tAfter (.fanoutApplyExpired 1) u).fld HOSTQ.LEDGER_ENTRY0_STATUS 0 4095 = csAPPLYEXPIRED)) ∧
    (let s (g0 e1 : Nat) := tDram [g0, 1, 0, 1] [0, e1, 16384, 0] (tFan tCmd)
     let m (s : State) := ((tAfter (.fanoutStart 1 []) s).share? 1).map fun h => h.cmd.map fun m => (m.groupInvalid, m.matched)
     (s 0 0).chip.running = true ∧ (s 0 0).chip.throttled = false ∧ tCmd.seen < 65536 ∧ (s 0 0).chip.groupAddr 0 + 16 ≤ (s 0 0).chip.dramSize ∧
       (s 0 0).chip.net ≤ (1000000 * nsQ : Nat) ∧ m (s 0 0) = some (some (true, 0)) ∧ bitsOf 0x80000000 31 31 = 1 ∧
       leNat (Tab.slice 0 (s 0x80000000 0).chip.dram 0x1000 4) = 0x80000000 ∧ leNat (Tab.slice 0 (s 0x80000000 0).chip.dram 0x1004 4) = 1 ∧
       m (s 0x80000000 0) = some (some (false, 0)) ∧ bitsOf 0x80005F00 14 8 = 95 ∧ bitsOf 0x80005F00 7 0 = 0 ∧
       m (s 0x80000000 0x80005F00) = some (some (false, 1)) ∧
       leNat (Tab.slice 0 (tAfter (.fanoutStart 1 []) (s 0x80000000 0x80005F00)).dram 0x2008 4) / 65536 = 16384 * 16384 / 32768) ∧
    (let it : Item := { seg := 0, node := 0, obj := 0, value := 0 }
     let s (ns : Nat) := tAt (tDram [] [] (tFan { tCmd with phase := .walking, opens := [(255, { items := [it] })] })) ns
     (s 100000).chip.dom .core = domON ∧ 0 + 100 * usQ ≤ (s 100000).chip.now ∧ (tAfter (.fanoutFrameIdleSend 1 255) (s 100000)).nextSeq 255 = 1 ∧
       (s 99960).chip.now < 0 + 100 * usQ) ∧
    (let h : Share := { cmdId := 7, apply := 0, ramp := 0, fired := true, expired := true }
     let m : FanCmd := { tCmd with phase := .walked, replies := [(255, { sent := true })] }
     let s := tDram [] [] (tFan { m with replies := [] } h)
     let u := tF (tDram [] [] (tFan m h)) [(DISTAFF.APPLY_LATE_TOL_NS, 0), (DISTAFF.REPLY_WAIT_MS, 0)]
     s.chip.fanReady 1 { h with cmd := some { m with replies := [] } } { m with replies := [] } = true ∧
       (tAfter (.fanoutComplete 1) s).fld HOSTQ.LEDGER_ENTRY0_STATUS 0 4095 = csOK ∧ u.chip.fanReady 1 { h with cmd := some m } m = false ∧
       (0 : Int) * 2 ^ 26 + (u.chip.fld DISTAFF.APPLY_LATE_TOL_NS * nsQ + u.chip.fld DISTAFF.REPLY_WAIT_MS * msQ : Nat) ≤ u.chip.net ∧ m.missing = 1 ∧
       (tAfter (.replyMissing 1) u).fld DISTAFF.REPLY_MISSING_COUNT = 1 ∧ s.chip.net < (0 : Int) + (s.chip.fld DISTAFF.REPLY_WAIT_MS * msQ : Nat)) := by
  refine ⟨?_, ?_, ?_, ?_⟩ <;> decide +kernel

/-- R385, R390, R392, R393. -/
theorem witness_SharesRun :
    (let h : Share := { cmdId := 7, apply := 0, ramp := 0 }
     let it : Item := { seg := 95, node := 0, obj := 0, value := 0 }
     let s (h : Share) (g : Option Stage) (q : Nat) := tMod (tTurn tWorker 1 [200000, 100000, 0x01040003, 96]) (tShare h fun c =>
        (match g with | some x => c.setStage 1 95 (some x) | none => c).setCmdq 95 (List.replicate q {}))
     let g : Stage := { cap := 4, items := [it] }
     (s h none 0).chip.share? 1 = some h ∧ h.fired = false ∧ (s h none 0).chip.fires = true ∧ (0 : Int) * 2 ^ 26 ≤ (s h none 0).chip.net ∧
       ((tAfter (.applyEvent 1) (s h none 0)).share? 1).map (·.fired) = some true ∧
       (let u := tF (s h (some g) 1) [(DISTAFF.APPLY_LATE_TOL_NS, 0)]
        (0 : Int) * 2 ^ 26 + (u.chip.fld DISTAFF.APPLY_LATE_TOL_NS * nsQ : Nat) ≤ u.chip.net ∧
          (tAfter (.commandExpire 1 []) u).fld DISTAFF.ITEMS_EXPIRED_COUNT = 1 ∧ (s h none 0).chip.net < (0 : Int) + (1000000 * nsQ : Nat)) ∧
       (let u (q : Nat) := tAt (s h (some g) q) 100000
        (u 63).chip.dom .core = domON ∧ (u 63).chip.stage? 1 95 = some g ∧ g.last + 100 * usQ ≤ (u 63).chip.now ∧ ((u 63).chip.eng 95).cmdq.length = 63 ∧
          ((tAfter (.stagingIdleClose 1 95) (u 63)).eng 95).cmdq.length = 64 ∧ ((u 64).chip.eng 95).cmdq.length = 64 ∧
          (tAfter (.stagingIdleClose 1 95) (u 64)).fld DISTAFF.QUEUE_STALLS_COUNT = 1 ∧ (s h none 0).chip.stage? 1 95 = none) ∧
       (let u := s { h with stalled := true } (some { g with closed := true }) 63
        u.chip.stage? 1 95 = some { g with closed := true } ∧ ((tAfter (.stagingResume 95 []) u).eng 95).cmdq.length = 64)) ∧
    (let h : Share := { cmdId := 7, apply := 0, ramp := 0, fired := true, parts := [0], lastPart := some 0 }
     let s (h : Share) (n : Nat) := tF (tMod tWorker (tShare h)) [(HANK.TIMERS_RETRIES, n)]
     (s h 0).chip.dom .core = domON ∧ (s h 0).chip.shareDoneDue 1 h = true ∧ (tAfter (.shareDoneSend 1) (s h 0)).share? 1 = none ∧
       ((tAfter (.shareDoneSend 1) (s h 2)).share? 1).map (·.repeats) = some (some 2) ∧ (s { h with fired := false } 0).chip.shareDoneDue 1 { h with fired := false } = false ∧
       (tAfter (.shareDoneRepeat 1) (s { h with repeats := some 1 } 2)).share? 1 = none ∧
       ((tAfter (.shareDoneRepeat 1) (s { h with repeats := some 2 } 2)).share? 1).map (·.repeats) = some (some 1) ∧
       h.repeats = none) := by
  refine ⟨?_, ?_⟩ <;> decide +kernel

/-! ### The directory, DRAM, errors, the Tally and the configuration image -/

/-- R376, R377, R403. -/
theorem witness_DirectoryAndScrub :
    (let s (k i : Nat) (l : List (FieldRow × Nat)) := tF (tDram [1, 2, 3, 4] [5, 6, 7, 8]) ([(DISTAFF.DIR_SEL_KIND, k), (DISTAFF.DIR_SEL_INDEX, i)] ++ l)
     let rd (s : State) (e : Option Bool) := tAfter (.dirRead .spi 1 e) s
     tOpen (s 0 0 []) .spi .distaff 0 = true ∧ (2 : Word).toNat % 4 = 2 ∧ (1 : Word).toNat % 4 = 1 ∧ (s 0 0 []).chip.fld GLOBAL.ROLE_DRAM_READY ≠ 0 ∧
       (s 0 65022 []).chip.fld DISTAFF.DIR_BASE_PAGE * 4096 + 16 * 65023 + 16 = (s 0 0 []).chip.fld DRAM.STATUS_USABLE_MIB * 2 ^ 20 ∧
       (rd (s 0 0 []) none).fld DISTAFF.DIR_WORD_DATA 0 3 = 8 ∧ (rd (s 1 65536 []) none).fld DISTAFF.DIR_WORD_DATA 0 3 = 4 ∧
       (rd (s 0 65024 []) none).fld DISTAFF.DIR_STATUS_ERROR = 1 ∧ (rd (s 0 0 []) (some false)).fld DRAM.ECC_CORR_COUNT = 1 ∧
       (rd (s 0 0 []) (some true)).fld DRAM.ECC_UNCORR_COUNT = 1 ∧ (tAfter (.dirWrite .spi 2) (s 0 65024 [])).fld DISTAFF.DIR_STATUS_ERROR = 1 ∧
       (let u := tAfter (.dirWrite .spi 2) (tMod (s 0 65023 []) fun c => c.setFld DISTAFF.DIR_WORD_DATA 9 0 3)
        leNat (Tab.slice 0 u.dram 0xFFFFC 4) = 9)) ∧
    (let s (st left : Nat) := tMod (tF (tDram [] []) [(DISTAFF.BULK_STATUS_STATE, st), (DISTAFF.BULK_COUNT_RECORDS, 3)]) fun c =>
        c.updDistaff fun d => { d with bulkLeft := left }
     let r : List Word := [0, 0, 1, 2, 3, 4]
     (tAfter (.distaffBulkGo .spi 1) (s 1 0)).hdr HDR.ERRCNT_COUNT PageCls.distaff.base = 1 ∧ (s 0 0).chip.leaveAnswer .dirLoad = .queued ∧
       (tAfter (.distaffBulkGo .spi 1) (s 0 0)).fld DISTAFF.BULK_STATUS_STATE = 1 ∧ (tF (s 0 0) [(POWER.CEILING_TOKENS, 61)]).chip.leaveAnswer .dirLoad = .refused ∧
       (tAfter (.distaffBulkGo .spi 1) (tF (s 0 0) [(POWER.CEILING_TOKENS, 61)])).fld DISTAFF.BULK_STATUS_STATE = 6 ∧
       (tAfter (.distaffBulkAbort .spi 2) (s 2 1)).fld DISTAFF.BULK_STATUS_STATE = 5 ∧ (s 2 1).chip.throttled = false ∧
       (tAfter (.distaffBulkRecord none) (s 2 1)).fld DISTAFF.BULK_STATUS_STATE = 4 ∧ (tAfter (.distaffBulkRecord (some r)) (s 2 1)).fld DISTAFF.BULK_STATUS_STATE = 3 ∧
       (tAfter (.distaffBulkRecord (some r)) (s 2 2)).fld DISTAFF.BULK_STATUS_STATE = 2 ∧
       leNat (Tab.slice 0 (tAfter (.distaffBulkRecord (some r)) (s 2 2)).dram 0x200C 4) = 4 ∧ bitsOf 0x80010000 24 0 = 65536 ∧
       (tAfter (.distaffBulkRecord (some [0x80010000, 0, 1, 2, 3, 4])) (s 2 2)).dram = (s 2 2).chip.dram) ∧
    (let s (st : Nat) := tF (tDram [] []) [(DRAM.SCRUB_STATUS_STATE, st)]
     tOpen (s 0) .spi .dram 0 = true ∧ (tAfter (.scrubGo .spi 0x31) (s 1)).hdr HDR.ERRCNT_COUNT PageCls.dram.base = 1 ∧
       (s 0).chip.leaveAnswer (.scrub 3) = .queued ∧ (tAfter (.scrubGo .spi 0x31) (s 0)).fld DRAM.SCRUB_STATUS_STATE = 1 ∧
       (tF (s 0) [(POWER.CEILING_TOKENS, 69)]).chip.leaveAnswer (.scrub 3) = .refused ∧
       (tAfter (.scrubGo .spi 0x31) (tF (s 0) [(POWER.CEILING_TOKENS, 69)])).fld DRAM.SCRUB_STATUS_STATE = 6 ∧
       (s 2).chip.fld DRAM.SCRUB_STATUS_STATE = 2 ∧ (tAfter (.scrubAbort .spi 2 []) (s 1)).fld DRAM.SCRUB_STATUS_STATE = 5 ∧
       (tAfter (.scrubDone []) (s 2)).fld DRAM.SCRUB_STATUS_STATE = 3 ∧ (s 2).chip.throttled = false) := by
  refine ⟨?_, ?_, ?_⟩ <;> decide +kernel

/-- R419, R420, R444; store 7 is the configuration store, 3 s_segbuf. -/
theorem witness_ErrorsAreRecorded :
    State.reset.chip.dom .core ≠ domON ∧
    (let s := tLive mRUN
     let e (st : Fin 8) (h : EccHit) (s : State) := tAfter (.sramEccError st 0xABCDEF true h) s
     (e 5 .nothing s).fld GLOBAL.SAFE_CAUSE_ECC_FATAL = 1 ∧ (s.chip.fld GLOBAL.ECC_CFG_FATAL_MASK).testBit 7 = false ∧
       (e 7 .nothing s).fld GLOBAL.SAFE_CAUSE_ECC_FATAL = 0 ∧ (e 7 .nothing s).fld GLOBAL.ECC_LAST_ADDR = 0xABCDEF ∧
       (e 7 (.flyer 95) s).fld FLYER.TX_STATUS_LATCHED 95 = 1 ∧ (e 7 (.tallyWord 31) s).tallyWord 31 = 0xFFFFFFFF ∧
       pageOf (0x030 : BitVec 12).toNat = some (.reel, 0) ∧ s.chip.fieldsAt .reel 0x0C4 = [(REEL.METER_RED_COUNT, 0)] ∧
       (e 7 (.counter 0x030 0x0C4) (tF s [(REEL.METER_RED_COUNT, 9)])).fld REEL.METER_RED_COUNT = 0 ∧
       tOpen s .spi .global 0 = true ∧ (tAfter (.eccInject .spi 0x80000017) s).ecc.inject = some (7, true) ∧
       (tAfter (.eccInject .spi 0x17) s).ecc.inject = none ∧
       (tAfter (.segSupplyFault 1000) s).modes.segSupplyBad = true ∧ (tAfter (.segSupplyFault 999) s).modes.segSupplyBad = false ∧
       (tAfter (.segSupplyRecover 100000) (tMod s fun c => { c with modes := { c.modes with segSupplyBad := true } })).modes.segSupplyBad = false) := by
  decide +kernel

theorem witness_BusTimeoutsAndThePll :
    (tAfter (.busTimeout 0x1DF 0xFFC .hank true) State.reset).fld GLOBAL.BUS_ERR_PAGE = 0x1DF ∧
      (tAfter (.busTimeout 0x1DF 0xFFC .hank false) State.reset).fld GLOBAL.BUS_ERR_OFFSET = 0xFFC ∧ (tLive mRUN).chip.dom .core = domON ∧
      (tAfter .corePllUnlock (tLive mRUN)).fld GLOBAL.SAFE_CAUSE_CORE_PLL = 1 := by decide +kernel

/-- R421, in units of 0.25 °C: WARN, TRIP 460 and HYST 5 °C after reset unless set here. -/
theorem witness_ThermalMonitor :
    (let s (tripped : Bool) := tAt (tMod (tF (tLive mRUN) [(GLOBAL.THERM_CFG_WARN, 400), (GLOBAL.THERM_CFG_TRIP, 460), (GLOBAL.THERM_CFG_HYST, 5)]) fun c =>
        { c with modes := { c.modes with thermTripped := tripped } }) 100000
     let a (t : BitVec 12) (s : State) := tAfter (.thermalSample 0 t 0xFFF t) s
     let ev (c : Chip) (b : Nat) := (c.hdr HDR.EVT PageCls.global.base).testBit b
     (s false).chip.mode ≠ mRESET ∧ (s false).chip.modes.thermAt + 100 * usQ ≤ (s false).chip.now ∧ (a 399 (s false)).fld GLOBAL.THERM_TEMP_MAX = 399 ∧
       (a 399 (s false)).fld GLOBAL.THERM_TEMP_SENSOR = 1 ∧ ev (a 399 (s false)) EV.GLOBAL_THERMAL_WARN.bit = false ∧
       ev (a 400 (s false)) EV.GLOBAL_THERMAL_WARN.bit = true ∧ (s false).chip.modes.thermWarned = false ∧
       (a 460 (s false)).fld GLOBAL.SAFE_CAUSE_THERMAL = 1 ∧ (a 459 (s false)).fld GLOBAL.SAFE_CAUSE_THERMAL = 0 ∧
       (a 440 (s true)).modes.thermTripped = true ∧ (a 439 (s true)).modes.thermTripped = false ∧ (tLive mRUN).chip.now < 100 * usQ) ∧
    (let s := tF (tLive mRUN) [(GLOBAL.THERM_TEMP_MAX, 0xFFF), (GLOBAL.THERM_PEAK_MAX, 9)]
     tOpen s .spi .global 0 = true ∧ (tAfter (.thermPeakClear .spi 0x80000000) s).fld GLOBAL.THERM_PEAK_MAX = 0xFFF ∧
       (tAfter (.thermPeakClear .spi 0) s).fld GLOBAL.THERM_PEAK_MAX = 9) := by decide +kernel

/-- R70, R87, R148, R167: a Distaff in LIGHT wakes at the start; a payload that no turn can hold. -/
theorem witness_SharesRun_more :
    (let s := tMod (tDram [0, 1, 0, 1] [] (tFan tCmd)) fun c => { c with modes := { c.modes with laneLight := [(11, true)] } }
     s.chip.running = true ∧ Tab.get false s.chip.modes.laneLight 11 = true ∧ Tab.get false (tAfter (.fanoutStart 1 []) s).modes.laneLight 11 = false ∧
       ((tAfter (.fanoutStart 1 []) s).hdr HDR.EVT PageCls.power.base).testBit EV.POWER_WAKE_DONE.bit = true) ∧
    (let h : Share := { cmdId := 7, apply := 0, ramp := 0 }
     let g : Stage := { cap := 4, items := [{ seg := 95, node := 0, obj := 0, value := 0 }] }
     let s := tAt (tMod tWorker (tShare h fun c => c.setStage 1 95 (some g))) 100000
     s.chip.unholdable 95 (h.payload 1 g.items) = true ∧ (tAfter (.stagingIdleClose 1 95) s).fld SEGMENT.TX_DROP_COUNT 95 = 1 ∧
       ((tAfter (.stagingIdleClose 1 95) s).fatesOf 1).lost = 1) := by decide +kernel

/-- R376: BUSY, and a command given while it is set. -/
theorem witness_DirectoryAndScrub_more :
    (let s (b : Nat) := tF (tDram [1, 2, 3, 4] [5, 6, 7, 8]) [(DISTAFF.DIR_STATUS_BUSY, b)]
     tOpen (s 1) .spi .distaff 0 = true ∧ (tAfter (.dirWrite .spi 2) (s 0)).fld DISTAFF.DIR_STATUS_BUSY = 1 ∧
       (tAfter (.dirWrite .spi 2) (s 1)).hdr HDR.ERRCNT_COUNT PageCls.distaff.base = 1 ∧
       (tAfter (.dirRead .spi 1 none) (s 1)).hdr HDR.ERRCNT_COUNT PageCls.distaff.base = 1) := by decide +kernel

/-- R419, R420: counters by their places, bad words, packets, and an injection that a write takes. -/
theorem witness_ErrorsAreRecorded_more :
    (let s := tMod (tF (tLive mRUN) [(PLY.CNT_SEL_INDEX, 3), (RULEWIN.ENTRY_SEL_TABLE, 2), (RULEWIN.ENTRY_SEL_INDEX, 9)]) fun c =>
        ({ c with carder := { c.carder with hits := [(9, 4)] }, ply := { c.ply with sets := [(16 * 3 + 10, 7)] },
                  buffer := { c.buffer with general := [(0, [tPlain])] } }).setHdr HDR.ERRCNT_COUNT PageCls.power.base 5
     let e (st : Fin 8) (h : EccHit) := tAfter (.sramEccError st 0xABCDEF true h) s
     let at_ (cls : PageCls) : BitVec 12 := BitVec.ofNat 12 cls.base
     pageOf (at_ .power).toNat = some (.power, 0) ∧ (e 7 (.counter (at_ .power) (BitVec.ofNat 12 HDR.ERRCNT_COUNT.off))).hdr HDR.ERRCNT_COUNT PageCls.power.base = 0 ∧
       pageOf (at_ .ply).toNat = some (.ply, 0) ∧ (e 7 (.counter (at_ .ply) 0x0A8)).setW 3 10 = 0 ∧
       pageOf (at_ .rulewin).toNat = some (.rulewin, 0) ∧ Tab.get 0 (e 7 (.counter (at_ .rulewin) 0x0A0)).carder.hits 9 = 0 ∧
       tableStore 4 = 7 ∧ (e 7 (.tableWord 4 1 9 3 5)).ecc.bad = [{ store := 7, word := .table 4 1 9 3, two := true, addr := some 0xABCDEF, told := some 5 }] ∧
       (e 0 (.ctxWord 9 3 5)).ecc.bad.map (·.word) = [.cell .ctx (16 * 9 + 3)] ∧ s.chip.holdsPacket 5 = true ∧ (e 1 (.packet 5)).holdsPacket 5 = false) ∧
    (let s := tMod (tF (tDram [] []) [(DISTAFF.DIR_WORD_DATA, 9)]) fun c => { c with ecc := { inject := some (4, true) } }
     tOpen s .spi .distaff 0 = true ∧ s.chip.fld DISTAFF.DIR_STATUS_BUSY = 0 ∧ (tAfter (.dirWrite .spi 2) s).ecc = { bad := [{ store := 4, word := .cell .dir (s.chip.dirSelAddr / 16), two := true }] }) := by
  decide +kernel

/-- R426 to R428: WORD3 holds sources 96 to 127, of which bit 8 is PARTNER_CHANGE of SEGMENT17. -/
theorem witness_TallyAndMirror :
    (let s := tMod (tLive mRUN) fun c => c.setHdr HDR.EVT (PageCls.segment.base + 17) 7
     let seg := TallySrc.evt (PageCls.segment.base + 17) 2
     tOpen s .spi .tally 0 = true ∧ s.chip.hostq.allQ = s.chip.allQuiescent ∧ (8, seg) ∈ wordSrcs 3 ∧ (0x100 : Word).toNat.testBit 8 = true ∧
       (tAfter (.tallyWordClear .spi 3 0x100) s).hdr HDR.EVT (PageCls.segment.base + 17) = 3 ∧ (tAfter (.mirrorForce .spi 1) s).mirror.force = true ∧
       (tAfter (.mirrorForce .spi 0) s).mirror.force = false) ∧
    (let s (en : Nat) (m : Mirror) := tAt (tMod (tF (tLive mRUN) [(TALLY.MIRROR_CFG_EN, en)]) fun c => { c with mirror := m }) 100000
     let snap := (s 1 {}).chip.tallySummary :: (List.range 32).map (s 1 {}).chip.tallyWord
     let old : Mirror := { last := some snap, first := false }
     let go (busy : Bool) (e : Option (Fin 3)) (s : State) := tAfter (.tallyMirrorBoundary busy e) s
     (s 1 {}).chip.mirror.boundaryUs < (s 1 {}).chip.mirrorBoundary ∧ (tLive mRUN).chip.mirrorBoundary = 0 ∧ (s 1 {}).chip.fld TALLY.MIRROR_CFG_EN ≠ 0 ∧
       (s 1 {}).chip.dom .host = domON ∧ (s 1 {}).chip.modes.perst = false ∧ (s 1 {}).chip.mode ≠ mSAFE ∧ (s 0 {}).chip.fld TALLY.MIRROR_CFG_EN = 0 ∧
       (go true none (s 1 {})).fld TALLY.MIRROR_SKIPS_COUNT = 1 ∧ (s 1 {}).chip.mirror.first = true ∧ (go false none (s 1 {})).hostWrites.length = 3 ∧
       (go false none (s 1 {})).fld TALLY.MIRROR_SEQ_SEQ = 2 ∧ (go false (some 1) (s 1 {})).fld TALLY.MIRROR_ERRORS_COUNT = 1 ∧
       snap = (s 1 old).chip.tallySummary :: (List.range 32).map (s 1 old).chip.tallyWord ∧ (s 1 old).chip.fld TALLY.MIRROR_CFG_KEEPALIVE = 0 ∧
       (go false none (s 1 old)).hostWrites = [] ∧ (go false none (tF (s 1 old) [(TALLY.MIRROR_CFG_KEEPALIVE, 1)])).hostWrites.length = 3) := by
  refine ⟨?_, ?_⟩ <;> decide +kernel

/-- An image of one record, with its CRC. -/
def tImage (w0 w1 : Nat) : List Byte :=
  let h := [0x47525A31, 1, 1].flatMap fun w => leBytes 4 w
  let r := [w0, w1].flatMap fun w => leBytes 4 w
  h ++ leBytes 4 (crc32 (h ++ r)) ++ r

/-- R462 to R467: a record of type 0 writes BASE (0x001048), one of type 1 waits. -/
theorem witness_ImageLoads :
    (let s (mode st : Nat) (l : List (FieldRow × Nat) := []) := tF (tLive mode) ((GLOBAL.IMAGE_STATUS_STATE, st) :: l)
     let im := tImage 0x00001048 0x55
     imageCause im = 0 ∧ imageCause [] = 1 ∧ imageCause (tImage 0x00001049 0) = 3 ∧ imageCause (tImage 0x01000000 1000001) = 3 ∧
       imageCause (im.take 20 ++ [0, 0, 0, 0]) = 4 ∧ (s mACQUIRE 1).chip.fld GLOBAL.IMAGE_STATUS_STATE = 1 ∧
       (tAfter (.imagePass1Done im) (s mACQUIRE 1)).fld GLOBAL.IMAGE_STATUS_STATE = 2 ∧ (tAfter (.imagePass1Done im) (s mACQUIRE 1)).image.count = 1 ∧
       (tAfter (.imagePass1Done []) (s mACQUIRE 1)).fld GLOBAL.IMAGE_STATUS_CAUSE = 1 ∧
       (let u := tMod (s mACQUIRE 2) fun c => { c with modes := { c.modes with dramTrainingDone := true } }
        u.chip.mode = mACQUIRE ∧ u.chip.dom .core = domON ∧ u.chip.dom .seg = domON ∧ (tAfter (.imagePass2Start im) u).fld GLOBAL.IMAGE_STATUS_STATE = 3)) ∧
    (let s (crc : Nat) (t : Option Nat) (n : Nat) := tMod (tF (tLive mACQUIRE) [(GLOBAL.IMAGE_STATUS_STATE, 3), (GLOBAL.IMAGE_STATUS_RECORDS, n)]) fun c =>
        { c with image := { count := 1, crc := crc, crcRun := crcRun 0xFFFFFFFF ((tImage 0x00001048 0x55).take 12), waitUntil := t } }
     let crc := leNat (((tImage 0x00001048 0x55).drop 12).take 4)
     let good : Word := 0x00001048
     (s crc none 0).chip.mode = mACQUIRE ∧ (s crc none 0).chip.image.waitUntil = none ∧ bitsOf (0x01000000 : Word).toNat 27 24 = 1 ∧
       (tAfter (.imageRecord 0x01000000 5) (s crc none 0)).image.waitUntil = some (5 * usQ) ∧ tOpen (s crc none 0) .image .power 0 = true ∧
       bitsOf good.toNat 23 0 = PageCls.power.base * 4096 + 0x048 ∧ bitsOf good.toNat 27 24 = 0 ∧ 0x048 ≠ POWER.CEILING_TOKENS.off ∧
       (tAfter (.imageRecord good 0x55) (s crc none 0)).fld POWER.BASE_TOKENS = 0x55 ∧
       (tAfter (.imageRecord good 0x55) (s crc none 0)).fld GLOBAL.IMAGE_STATUS_STATE = 4 ∧
       (tAfter (.imageRecord good 0x56) (s crc none 0)).fld GLOBAL.IMAGE_STATUS_CAUSE = 6 ∧
       (let u := tF (s crc none 0) [(POWER.DOMAIN_STATE_CORE, 1)]
        u.chip.meetsDown (bitsOf (0x00020044 : Word).toNat 23 0 / 4 * 4) = true ∧
          (tAfter (.imageRecord 0x00020044 0) u).fld GLOBAL.IMAGE_STATUS_CAUSE = 5) ∧
       (let x := crcRun 0xFFFFFFFF ((tImage 0x00001048 0x55).take 12) ^^^ 0xFFFFFFFF
        (tAfter .imageWaitExpiry (s x (some 0) 1)).fld GLOBAL.IMAGE_STATUS_STATE = 4 ∧ (tAfter .imageWaitExpiry (s (x + 1) (some 0) 1)).fld GLOBAL.IMAGE_STATUS_CAUSE = 6 ∧
          (tAfter .imageWaitExpiry (s x (some 0) 0)).fld GLOBAL.IMAGE_STATUS_STATE = 3 ∧ (s x (some 1) 1).chip.now < 1)) ∧
    (let s (st : Nat) := tF (tLive mACQUIRE) [(GLOBAL.IMAGE_STATUS_STATE, st), (GLOBAL.IMAGE_STATUS_HOLD, 1)]
     tOpen (s 5) .spi .global 0 = true ∧ bitsOf (0x494D0001 : Word).toNat 31 16 = 0x494D ∧ (s 5).chip.mode = mACQUIRE ∧
       (tAfter (.imageRetry .spi 0x494D0001) (s 5)).fld GLOBAL.IMAGE_STATUS_STATE = 1 ∧ (tAfter (.imageRelease .spi 0x494D0002) (s 5)).fld GLOBAL.IMAGE_STATUS_HOLD = 0 ∧
       (tAfter (.imageRetry .spi 1) (s 5)).hdr HDR.ERRCNT_COUNT 0 = 1 ∧ (tAfter (.imageRelease .spi 0x494D0002) (s 4)).hdr HDR.ERRCNT_COUNT 0 = 1) := by
  refine ⟨?_, ?_, ?_⟩ <;> decide +kernel

/-- R426, R428: the mark of a word whose read failed; a mirror write in progress; R55, R464: a part whose image failed pass 1. -/
theorem witness_TallyAndMirror_more :
    (let s := tMod (tLive mRUN) fun c => { c with mirror := { c.mirror with bad := [3, 9] } }
     (tAfter (.tallyWordClear .spi 3 1) s).mirror.bad = [9] ∧ (tAfter (.tallyWordClear .spi 3 0) s).mirror.bad = [3, 9]) ∧
    (let s := tAt (tF (tLive mRUN) [(TALLY.MIRROR_CFG_EN, 1)]) 100000
     (tAfter (.tallyMirrorBoundary false none) s).mirror.busy = true ∧ (tAfter (.tallyMirrorBoundary true none) s).mirror.busy = true) ∧
    (let s := tMod (tF (tLive mSTANDBY) [(GLOBAL.IMAGE_STATUS_STATE, 1), (GLOBAL.MODE_CFG_AUTO_RUN, 1)]) fun c =>
        { c with modes := { c.modes with freshStandby := true } }
     s.chip.on GLOBAL.MODE_CFG_AUTO_RUN = true ∧ (tAfter (.imagePass1Done []) s).modes.freshStandby = false ∧
       (tAfter (.imagePass1Done (tImage 0x00001048 0x55)) s).modes.autoStartDue = true) := by decide +kernel

/-! ### Worked examples -/

/-- Table 12.15: sources 104, 593, 697 and 869. -/
theorem test_tally_example :
    (let c := ([(0x111, 2), (0x191, 0), (0x012, 1)].foldl (fun d x => (d.setHdr HDR.EVT x.1 (2 ^ x.2)).setHdr HDR.EVT_EN x.1 (2 ^ x.2)) (tLive mRUN).chip).setAll
        [(HOSTQ.CR_EVT_LO_WRITTEN, 32), (HOSTQ.CR_EVT_EN_LO_EN, 32)]
     c.tallySummary = 0x08240008 ∧ [3, 18, 21, 27].map c.tallyWord = [0x100, 0x00020000, 0x02000000, 0x20] ∧
       (c.tallyClear 3 0x100).tallySummary = 0x08240000) := by decide +kernel

/-- Table 09.3: the eleven packets, with H and the outcome of each, and the counts. -/
theorem test_vector_recovery_example :
    (let c := (tCtx (tLive mRUN) [(5000, 8, 100 * 2 ^ 20 + 4 * 2 ^ 12 + 0x81)]).chip
     let r := [1000, 1000, 1002, 1001, 1002, 1004, 1004, 1005, 1006, 1007, 1012].foldl (fun (d, l) q =>
        let (e, o) := Chip.recover d 5000 fun _ => some q; (e, l ++ [(e.hist 5000, o.isSome)])) (c, [])
     r.2 = [(15, true), (15, false), (13, true), (15, true), (15, false), (13, true), (13, false), (11, true), (7, true), (15, true), (15, false)] ∧
       [PLY.PASSED_COUNT, PLY.DISCARDED_COUNT, PLY.OUT_OF_ORDER_COUNT, PLY.LOST_COUNT, PLY.ROGUE_COUNT].map (r.1.fld ·) = [7, 3, 3, 1, 1]) := by
  decide +kernel

/-- The worked example of chapter 03: E0 = 3 ns, 500 ps/s and 12 fs/s² give 999.77 ns at 1,948 s and 1,000.29 ns at 1,949 s. -/
theorem test_holdover_example :
    (let c := (tSet [(WHORL.HO_FREQ_PS_PER_S, 500), (WHORL.HO_AGING_FS_PER_S2, 12)]).chip
     c.hoErrorAt 3 1948000 = 999 ∧ c.hoErrorAt 3 1949000 = 1000) := by decide +kernel

/-! ### More clauses, each at a state that meets its hypotheses -/

/-- The block after one AON clock. -/
def tTick (s : State) : Chip :=
  match step s with
  | .next t => t.chip
  | _ => s.chip

/-- R15 on a sealed page; R52 of a write; R410: status 0xE1, and 0xE2 after 32 octets; R414: a FLYER page has no BLOCK_RESET. -/
theorem witness_RegisterPath_third :
    (let s := tMod (tLive mRUN) fun c => c.setHdr HDR.SEAL_SEALED PageCls.reelgate.base 1
     let a : PageAddr := BitVec.ofNat 24 (PageCls.reelgate.base * 4096 + 0x04C)
     tOpen s .spi .reelgate 0 = true ∧ PageCls.reelgate.isLo 0x04C = false ∧ PageCls.reelgate.isHi 0x04C = true ∧ s.chip.regHeld .reelgate 0 0x04C = false ∧
       s.chip.sealedAt .reelgate 0 0x04C = true ∧ (tAfter (.hiWriteCommit .spi a 1) s).hdr HDR.ERRCNT_COUNT PageCls.reelgate.base = 1) ∧
    (let s := tMod (tLive mRUN) fun c => { c with modes := { c.modes with laneLight := [(3, true)] } }
     PageCls.reel.domain = .core ∧ pageOf (PageCls.reel.base + 0) = some (.reel, 0) ∧ s.chip.armOf .spi PageCls.reel.base = none ∧
       (tAfter (.lightDomainAccess .spi (BitVec.ofNat 24 (PageCls.reel.base * 4096 + REEL.C7_BUDGET_NS.off)) (some 7)) s).fld REEL.C7_BUDGET_NS = 7) ∧
    (let rd : List Byte := [0x00, 0, 0x30, 0x48]
     let wr : List Byte := [0x01, 0, 0x30, 0x48, 0, 0, 0, 0]
     let go (l : List Byte) (w : Nat) := tAfter (.spiTransaction l w) State.reset
     let st (l : List Byte) (w : Nat) := ((go l w).portState .spi).status
     (0 : Nat) = State.reset.chip.fld GLOBAL.STRAPS_SPI_ADDR ∧ st (wr ++ List.replicate 33 0) 32 = 0xE2 ∧
       (go (wr ++ List.replicate 33 0) 32).fld GLOBAL.SPI_ERRORS_COUNT = 1 ∧ st (rd ++ List.replicate 33 0) 32 = 0xE2 ∧
       st (rd ++ [0]) 0 = 0xA5 ∧ (go (rd ++ [0]) 0).fld GLOBAL.SPI_ERRORS_COUNT = 1 ∧
       st [0x02, 0, 0x30, 0x48, 0] 0 = 0xE1 ∧ st [0x00, 0, 0x30, 0x49, 0] 0 = 0xE1 ∧ st [0x00, 0, 0x30, 0x49] 0 ≠ 0xE1 ∧
       (go [0x00, 0, 0x30] 0).fld GLOBAL.SPI_ERRORS_COUNT = 0) ∧
    (let s := tLive mRUN
     tOpen s .spi .flyer 95 = true ∧ (0x1DF : BitVec 12).toNat = PageCls.flyer.base + 95 ∧ (3 : Word).toNat.testBit 1 = true ∧
       (tAfter (.blockReset .spi 0x1DF 3) s).hdr HDR.ERRCNT_COUNT 0x1DF = 1 ∧ (tAfter (.blockReset .spi 0x1DF 3) s).hdr HDR.CTRL_EN 0x1DF = 1 ∧
       PageCls.flyer.hasReset = false ∧ (tAfter (.blockReset .spi 0x15F 2) s).inReset .segment 95 = true) := by decide +kernel

/-- R71, R74, R75, R80: leave of an uplink, of bulk loads and of a fan-out burst; R86 while the throttle is on. -/
theorem witness_LeaveAndCeiling_third :
    (let s (l : List (FieldRow × Nat)) := tF (tUpl ulOFF) l
     let low := [(POWER.CEILING_TOKENS, 62)]
     (s []).chip.leaveWaiting (.uplink 3) = false ∧ (s []).chip.leaveHeld (.uplink 3) = false ∧ (s []).chip.ulSt 3 = ulOFF ∧
       (s []).chip.uplinkEn 3 = true ∧ (s []).chip.running = true ∧ (s []).chip.on UPLINK.LINK_STATUS_NO_LEAVE 3 = false ∧
       (s []).chip.fld UPLINK.CFG_FEC_EN 3 = 0 ∧
       (tAfter (.leaveRequest (.uplink 3)) (s [])).ulSt 3 = ulLEAVE ∧
       (tAfter (.leaveRequest (.uplink 3)) (s low)).fld UPLINK.LINK_STATUS_NO_LEAVE 3 = 1) ∧
    (let s := tF (tLive mRUN) [(DISTAFF.BULK_COUNT_RECORDS, 1)]
     tOpen s .spi .distaff 0 = true ∧ (tAfter (.distaffBulkGo .spi 1) s).leaveWaiting .dirLoad = true ∧
       (tAfter (.distaffBulkGo .spi 1) (tF s [(POWER.CEILING_TOKENS, 62)])).fld DISTAFF.BULK_STATUS_STATE = bkNOLEAVE) ∧
    (let q (op : LeaveOp) : LeaveReq := { op := op, prio := 0, cost := 8, since := 0, warnUs := 1000 }
     let s (op : LeaveOp) (l : List (FieldRow × Nat)) := tMod (tF (tLive mRUN) l) fun c => { c with power := { c.power with waiting := [q op] } }
     let yes := [(POWER.RESERVE_FANOUT_RESERVE, 8)]
     (s .dirLoad []).chip.headReq = some (q .dirLoad) ∧ (s .dirLoad []).chip.committed + 8 ≤ (s .dirLoad []).chip.fld POWER.CEILING_TOKENS ∧
       (tAfter .leaveGrant (s .dirLoad [])).fld DISTAFF.BULK_STATUS_STATE = bkDONE ∧
       (tAfter .leaveGrant (tMod (s .dirLoad []) fun c => { c with distaff := { c.distaff with bulkLeft := 1 } })).fld DISTAFF.BULK_STATUS_STATE = bkRUNNING ∧
       (tAfter .leaveGrant (tCar (s .ruleLoad []) fun d => { d with bulkLeft := 1 })).fld CARDER.BULK_STATUS_STATE = bkRUNNING ∧
       (tAfter .leaveGrant (s .ruleLoad [])).fld CARDER.BULK_STATUS_STATE = bkDONE ∧
       (s (.fanout 9) []).chip.share? 9 = none ∧ 8 + (s (.fanout 9) yes).chip.reserveUsed ≤ 8 ∧
       ((tAfter .leaveGrant (s (.fanout 9) yes)).power.held.map fun h => h.reserve) = [true] ∧
       ((tAfter .leaveGrant (s (.fanout 9) [])).power.held.map fun h => h.reserve) = [false] ∧
       (tAfter .leaveGrant (s (.fanout 9) [(POWER.CEILING_TOKENS, 62)])).power.held = []) ∧
    (let s := tMod (tLive mRUN) fun c => { c with power := { c.power with throttling := true } }
     168 * s.chip.fld POWER.CEILING_TOKENS < (0xFFFF : BitVec 16).toNat ∧ (tAfter (.throttleOn 0xFFFF) s).raised EV.POWER_OVER_LIMIT = true ∧
       (tAfter (.throttleOn 0xFFFF) s).raised EV.POWER_THROTTLE_ON = false ∧ (tAfter (.throttleOff 0xFFFF) s).raised EV.POWER_OVER_LIMIT = true) := by
  decide +kernel

/-- R20 and Table 04.9; R163: a collision of other nodes; R182 to R184: an attempt with EN = 0, an extension beacon in a window that is
open, and a clean transmission. -/
theorem witness_SegmentsAndFlyer_third :
    (let s := tTurn (tSeg sgFOLLOWER {}) 1 [200000, 100000, 0x01040102, 96]
     let put (w : Fin 512) := (tAfter (.bufWinWrite .spi 95 w 0xFFFFFFFF) s).segBuf.map (·.1 % 32768)
     tOpen s .spi .segment 95 = true ∧ (s.chip.oper 95 1).bankCount = 3 ∧ (s.chip.oper 95 1).base + (s.chip.oper 95 1).blocks = 5 ∧
       s.chip.bankHeld 95 5 = false ∧ put 166 = [] ∧ put 167 = [] ∧ (tAfter (.bufWinWrite .spi 95 163 0xFFFFFFFF) s).bufByte 95 655 = 0x0F ∧
       put 168 = [672, 673, 674, 675]) ∧
    (let s (x : Nat) := tAt (tSeg sgFOLLOWER { turnsOpen := true, cycleLen := 10000000, txEnd := x } [(SEGMENT.SYNC_STATUS_ACTIVE, 1)]) 152000
     (s 0).chip.inContention 95 = true ∧ (s 0).chip.eng 95 = { turnsOpen := true, cycleLen := 10000000 } ∧
       (tAfter (.segmentCsmaCollision 95 false) (s 0)).fld SEGMENT.CONT_COLL_COUNT 95 = 1 ∧ (tSeg sgLISTEN {}).chip.inContention 95 = false) ∧
    (let tx : SegTx := { start := 5 * nsQ, octets := List.replicate 64 0 }
     let s (en : Nat) := tAt (tMod (tFly fyOFF {}) fun c => (c.setHdr HDR.CTRL_EN (PageCls.flyer.base + 95) en).setEng 95 { lastTx := some tx, txEnd := 58405 * nsQ }) 10
     (s 0).chip.flySt 95 = fyOFF ∧ (tAfter (.txAttempt 95 0) (s 0)).fld FLYER.BLOCKED_COUNT 95 = 1 ∧
       (tAfter (.txAttempt 95 0) (s 0)).fld FLYER.TX_STATUS_VIOL_RUN 95 = 0 ∧ (tAfter (.txAttempt 95 0) (s 1)).fld FLYER.TX_STATUS_VIOL_RUN 95 = 1) ∧
    (let s := tFly fySYNC { tx := some { start := 0, close := some (80 * nsQ), endAt := 40 * nsQ } } [(FLYER.TX_STATUS_DRIVER_ON, 1), (FLYER.TX_STATUS_VIOL_RUN, 2)]
     s.pending = [] ∧ s.chip.mode ≠ mRESET ∧ 40 * nsQ ≤ (tTick s).now ∧ ((40 * nsQ : Nat) : Int) ≤ (tTick s).tickFrom (80 * nsQ) ∧
       (tTick s).fld FLYER.TX_STATUS_VIOL_RUN 95 = 0) := by decide +kernel

/-- A pause frame for `da` of two quanta (R211). -/
def tPauseFor (da : List Byte) : List Byte :=
  let f : List Byte := da ++ [2, 0, 0, 0, 0, 1, 0x88, 0x08, 0, 1, 0, 2]
  tFcs (f ++ List.replicate (60 - f.length) 0)

/-- R211, R212, R222: an idle line's FEC codewords; pause frames for the uplink's own address and for another, over one that is pending
already, and preemptable. -/
theorem witness_Uplinks_third :
    (let s (st : Nat) := tUpl st {} [(UPLINK.LINK_STATUS_FEC_IN_FORCE, 1)]
     let seen : Instr := .linkUp { n := 3, line := tGood, heldUs := 1000, fixed := 2, bad := 1 }
     (tAfter seen (s ulUP)).fld UPLINK.FEC_CORRECTED_COUNT 3 = 2 ∧ (tAfter seen (s ulUP)).fld UPLINK.FEC_UNCORRECTED_COUNT 3 = 1 ∧
       (tAfter seen (s ulSEARCH)).fld UPLINK.FEC_UNCORRECTED_COUNT 3 = 1 ∧ (tAfter seen (s ulSEARCH)).ulSt 3 = ulUP ∧
       (tAfter seen (s ulOFF)).fld UPLINK.FEC_UNCORRECTED_COUNT 3 = 0) ∧
    (let own : List Byte := [2, 0, 0, 0, 0, 9]
     let s (u : Uplink) (l : List (FieldRow × Nat)) := tMod (tUpl ulUP u ((UPLINK.PAUSE_CFG_RX_EN, 1) :: l)) fun c =>
       { c with regs := Tab.put 0 (Tab.put 0 c.regs (UPLINK.MAC_LO_ADDR.key 3 0) 9) (UPLINK.MAC_HI_ADDR.key 3 0) 0x200 }
     let f := tPauseFor own
     beNat (f.take 6) = (s {} []).chip.fld UPLINK.MAC_HI_ADDR 3 * 2 ^ 32 + (s {} []).chip.fld UPLINK.MAC_LO_ADDR 3 ∧
       (tAfter (.uplinkFrameRx 3 0 0 f false 0 0) (s {} [])).fld UPLINK.RX_PAUSE_COUNT 3 = 1 ∧
       (tAfter (.uplinkFrameRx 3 0 0 (tPauseFor [2, 0, 0, 0, 0, 8]) false 0 0) (s {} [])).fld UPLINK.RX_MAC_CTRL_OTHER_COUNT 3 = 1 ∧
       ((tAfter (.uplinkFrameRx 3 0 0 f false 0 0) (s { pausePend := some (5, 10 ^ 15) } [])).upl 3).pausePend.map (·.1) = some 5 ∧
       ((tAfter (.uplinkFrameRx 3 0 0 f false 0 0) (s { pausePend := some (5, 5) } [])).upl 3).pausePend.map (·.1) =
         some ((s {} []).chip.monoAt 0 + 64 * nsQ) ∧
       ((s {} [(UPLINK.MERGE_CFG_EN, 1)]).chip.upl 3).reasm = none ∧
       (tAfter (.mpacketRx 3 0 (.start 0 f .final) {}) (s {} [(UPLINK.MERGE_CFG_EN, 1)])).fld UPLINK.RX_MAC_CTRL_OTHER_COUNT 3 = 1 ∧
       (tAfter (.mpacketRx 3 0 (.start 0 f .final) {}) (s {} [(UPLINK.MERGE_CFG_EN, 1)])).fld UPLINK.RX_ASSY_OK_COUNT 3 = 1) := by decide +kernel

/-- R36 on lane 11; R253 for a bad word of the lane, of the frame and of a hit counter. -/
theorem witness_Carder_third :
    (let s := tMod (tLive mRUN) fun c => { c with buffer := { c.buffer with express := [(portHost, [tPlain])] } }
     rrPorts s.chip.buffer.express s.chip.carder.lastX = [portHost] ∧ (tAfter .lane11Dispatch s).carder.hostNext = 125) ∧
    (let s (w : SramWord) (told : Option Nat) := tMod (tAct tPlain [(0, 0)]) fun c =>
       { c with ecc := { c.ecc with bad := [{ store := 7, word := w, two := true, addr := some 9, told := told }] } }
     let c := (s (.work 5) none).chip
     (c.ecc.bad.filter fun b => c.passReads tPlain (c.parse tPlain) b.word && b.two) = c.ecc.bad ∧
       (tAfter .passEnd (s (.work 5) none)).fld CARDER.ECC_DROP_COUNT = 1 ∧ (tAfter .passEnd (s (.work 5) none)).raised EV.GLOBAL_ECC_UNCORR = true ∧
       (tAfter .passEnd (s (.work 5) (some 5))).raised EV.GLOBAL_ECC_UNCORR = false ∧
       (tAfter .passEnd (s (.work 6) none)).fld CARDER.ECC_DROP_COUNT = 0 ∧
       (tAfter .passEnd (s (.frame 5) none)).fld CARDER.ECC_DROP_COUNT = 0 ∧ (tAfter .passEnd (s (.frame 5) none)).carder.passes = []) ∧
    (let s (h : Bool) := tMod (tLive mRUN) fun c => { c with carder := { c.carder with hits := [(9, 4)] }, ecc := { bad := if h then
        [{ store := 7, word := .cell .hits 9, two := true }] else [] } }
     (∃ b ∈ (s true).chip.ecc.bad, b.two = true ∧ b.word = .cell .hits 9) ∧ (s false).chip.ecc.bad = []) := by decide +kernel

/-- R275, R276, R280, R316: the Ply words of a WRITE; a command of READ and WRITE; a shaper that is refilled. -/
theorem witness_Contexts_third :
    (let s (i : Nat) (l : List (Nat × Nat)) := tMod (tF tMetered [(REEL.CTX_SEL_INDEX, i)]) fun c => l.foldl (fun d x => d.setFld REEL.CTX_DATA_DATA x.2 0 x.1) c
     let w (m : Nat) (op : Nat) : Word := BitVec.ofNat 32 (m * 65536 + op)
     let ply := tAfter (.ctxWrite .spi (w 0xFF00 2)) (s 9 [(8, 0x7F000), (9, 0xFFFFFFFF), (10, 5), (11, 0xFFFF0000), (12, 6), (15, 0xFFFFFFFF)])
     256 ≤ bitsOf (w 0xFF00 2).toNat 31 16 ∧ bitsOf 0x7F000 19 12 = 127 ∧ replOutOk 0xFF = true ∧
       ply.fld REEL.CTX_STATUS_REFUSED = 0 ∧ ply.ctxW 9 8 = 0x7F000 ∧ ply.ctxW 9 9 = 0x0FFFFFFF ∧ ply.hist 9 = 6 + 0x7FFFFFFF * 2 ^ 96 ∧
       (w 0x0002 3).toNat % 4 = 3 ∧ (tAfter (.ctxWrite .spi (w 0x0002 3)) (s 9 [(1, 7)])).fld REEL.CTX_DATA_DATA 0 1 = 7 ∧
       (tAfter (.ctxWrite .spi (w 0x0002 3)) (s 0 [(1, 7)])).fld REEL.CTX_STATUS_CAUSE = 1 ∧
       (tAfter (.ctxWrite .spi (w 0x0002 3)) (tCtx (s 9 [(1, 7)]) [(9, 0, 0x01000201)])).fld REEL.CTX_STATUS_CAUSE = 2) ∧
    (let p : Packet := { tPlain with out := 3, cls := 6, ctx := 9 }
     let s (bucket : Nat) (l : List (FieldRow × Nat)) := tReel (tMod (tF (tCtx (tLive mRUN) [(9, 0, 2), (9, 5, 0x01000000 + 1000), (9, 6, bucket), (9, 7, 0),
        (9, 11, 0xFFFF0000)]) l) fun c => c.setFld UPLINK.LINK_STATUS_STATE 4 3) fun r => { r with incoming := [p] }
     let c := (s (2 ^ 24) []).chip
     c.ctxF 9 0 1 1 = 1 ∧ c.ctxF 9 8 4 4 = 0 ∧ incOf (c.ctxF 9 5 23 0) ≠ 0 ∧ c.ctxF 9 11 31 16 = 0xFFFF ∧ c.ctxBucket 9 = 2 ^ 24 ∧
       ((tAfter .reelEnqueue (s (2 ^ 24) [])).queue 3 6).map (·.eligible) = [some 0] ∧ (tAfter .reelEnqueue (s (2 ^ 24) [])).ctxBucket 9 = 0 ∧
       (s 0 []).chip.ctxBucket 9 = 0 ∧ (tAfter .reelEnqueue (s 0 [])).fld REEL.SHAPE_DROP_COUNT = 1 ∧
       ((tAfter .reelEnqueue (s 0 [(REEL.SHAPE_CFG_MAX_WAIT_US, 2000)])).queue 3 6).map (·.eligible) = [some 1001] ∧
       (tAfter .reelEnqueue (s 0 [(REEL.SHAPE_CFG_MAX_WAIT_US, 0)])).fld REEL.SHAPE_DROP_COUNT = 1 ∧
       (let u := tMod (s (2 ^ 24) []) fun c => { c with ecc := { c.ecc with bad := [{ store := 0, word := .cell .ctx (16 * 9 + 7), two := true, addr := some 9 }] } }
        (tAfter .reelEnqueue u).fld PLY.ECC_DROP_COUNT = 1 ∧ ((tAfter .reelEnqueue u).queue 3 6) = [])) ∧
    (let s := tReel (tGated [(REELGATE.GATE_STATUS_PENDING, 1)]) fun r => { r with gates := [(1, { run := true, next := 100000, change := 104999, stay := some 100000 })] }
     s.chip.fld REELGATE.GATE_STATUS_PENDING 1 ≠ 0 ∧ (100000 - (s.chip.operList 1).base) % ((s.chip.operList 1).cycle : Int) = 0 ∧
       (tAfter (.gateEvent 1) (tAt s 100000)).fld REELGATE.GATE_STATUS_ENTRY 1 = 0 ∧ ((tAfter (.gateEvent 1) (tAt s 100000)).gate 1).next = 100000) := by decide +kernel

/-- R384, R389, R394, R396, R399: duplicates; a part of a share that is held; no room for a share; a BIND of a new epoch. -/
theorem witness_HankReceives_third :
    (let aft (i : Instr) (s : State) (p : Packet) := tAfter i (tIn s p)
     let fan := tMsg 3 0x90 0 5 0 (beBytes 6 1 ++ beBytes 4 2 ++ beBytes 2 3 ++ beBytes 2 4 ++ beBytes 2 1 ++ [0, 0, 95, 1, 1, 0, 1])
     let req := tMsg 7 0x90 0 5 0 ([0, 1, 0, 0] ++ beBytes 4 GLOBAL.MODE_MODE.off ++ [0, 0, 0, 0])
     let bind (e : Byte) := tMsg 1 0x90 0 5 0 [e, 0, 0, 0]
     let old (o : List Byte) := tMod tWorker fun c => (c.setFld UPLINK.LINK_STATUS_STATE 4 0).updHank fun h =>
       { h with history := [9], resp := some (9, o), nextId := 8 }
     let held := tMod tWorker fun c => c.addShare { cmdId := 7, apply := 0, ramp := 0, parts := [3] }
     let full := tMod tWorker fun c => c.updDistaff fun d => { d with
       shares := (List.range 256).map fun i => (i + 1, some { cmdId := 100 + i, apply := 0, ramp := 0 }), nextKey := 257 }
     (old []).chip.hank.history.contains 9 = true ∧ (old []).chip.ulUp ((old []).chip.hankUplink 0) = true ∧
       (aft .bindRx (old []) (bind 6)).fld HANK.DUPLICATES_COUNT = 1 ∧ (aft .bindRx (old []) (bind 6)).fld HANK.BIND_STATUS_MY_ID = 5 ∧
       (aft .fanoutRx (old []) fan).fld HANK.DUPLICATES_COUNT = 1 ∧ ((aft .fanoutRx (old []) fan).msg 8).map (fun x => (x.typ, x.seq)) = some (hkFANOUTACK, 9) ∧
       (aft .regReqRx (old [1, 2]) req).fld HANK.DUPLICATES_COUNT = 1 ∧ ((aft .regReqRx (old [1, 2]) req).msg 8).map (·.octets) = some [1, 2] ∧
       (held.chip.findShare 7).map (·.1) = some 1 ∧ ((aft .fanoutRx held fan).findShare 7).map (fun e => (e.2.parts, e.2.lastPart)) = some ([4, 3], some 4) ∧
       full.chip.findShare 7 = none ∧ full.chip.shareCount = 256 ∧ Tab.wf none full.chip.distaff.shares = true ∧
       (aft .fanoutRx full fan).fld DISTAFF.SHARE_FULL_COUNT = 1 ∧
       (parseHank (bind 6)).map (·.senderEpoch) = some 0 ∧ (aft .bindRx held (bind 6)).findShare 7 = held.chip.findShare 7 ∧
       (let u := tK held [(HANK.BIND_STATUS_MGR_EPOCH, 0, 3)]
        (parseHank (bind 6)).any u.chip.senderOk = true ∧ ((aft .bindRx u (bind 6)).findShare 7) = none)) := by decide +kernel

/-- R419, R420, R422: the word that an injection has corrupted; octet counters; a packet on a lane; a later bus timeout. -/
theorem witness_ErrorsAreRecorded_third :
    (let x : BadWord := { store := 2, word := .table 1 0 9 3, two := true }
     let y : BadWord := { store := 2, word := .table 0 0 9 3, two := false }
     let s := tMod (tLive mRUN) fun c => { c with ecc := { bad := [x, y] } }
     let e (two : Bool) := (tAfter (.sramEccError 2 0xABCDEF two .nothing) s).ecc.bad
     s.chip.ecc.inject = none ∧ (s.chip.ecc.bad.find? fun b => b.store == 2 && b.two == true && b.addr.isNone) = some x ∧
       e true = [{ x with addr := some 0xABCDEF }, y] ∧ e false = [x] ∧
       (tAfter (.sramEccError 3 0 true .nothing) s).ecc.bad = [x, y]) ∧
    (let s := tMod (tLive mRUN) fun c => [UPLINK.TX_OCTETS_LO_COUNT, UPLINK.TX_OCTETS_HI_COUNT, UPLINK.RX_OCTETS_LO_COUNT, UPLINK.RX_OCTETS_HI_COUNT].foldl
        (fun d r => d.setFld r 5 3) c
     let pg : BitVec 12 := BitVec.ofNat 12 (PageCls.uplink.base + 3)
     let e (o : BitVec 12) := tAfter (.sramEccError 7 0 true (.counter pg o)) s
     pageOf pg.toNat = some (.uplink, 3) ∧ [UPLINK.TX_OCTETS_LO_COUNT, UPLINK.TX_OCTETS_HI_COUNT].map ((e 0x108).fld · 3) = [0, 0] ∧
       [UPLINK.TX_OCTETS_LO_COUNT, UPLINK.RX_OCTETS_HI_COUNT].map ((e 0x110).fld · 3) = [5, 0]) ∧
    (let s := tAct tPlain []
     s.chip.onLane 5 = true ∧ (tAfter (.sramEccError 7 9 true (.packet 5)) s).carder = s.chip.carder ∧
       (tAfter (.sramEccError 7 9 true (.packet 5)) s).ecc.bad = [{ store := 7, word := .work 5, two := true, addr := some 9, told := some 5 }]) ∧
    (let s := tMod (tF (tDram [] []) [(DISTAFF.DIR_WORD_DATA, 9), (DISTAFF.DIR_SEL_INDEX, 65024)]) fun c => { c with ecc := { inject := some (4, true) } }
     ¬ s.chip.dirSelAddr + 16 ≤ s.chip.fld DRAM.STATUS_USABLE_MIB * 2 ^ 20 ∧ (tAfter (.dirWrite .spi 2) s).ecc = s.chip.ecc) ∧
    (let s := tF (tLive mRUN) [(GLOBAL.BUS_ERR_VALID, 1), (GLOBAL.BUS_ERR_PAGE, 3)]
     s.chip.fld GLOBAL.BUS_ERR_VALID ≠ 0 ∧ (tAfter (.busTimeout 0x1DF 0xFFC .hank true) s).fld GLOBAL.BUS_ERR_PAGE = 0x1DF ∧
       s.chip.dom .core = domON ∧ (tAfter .corePllUnlock s).modes.corePllLock = false) := by decide +kernel

/-- R419, R420: an injection into the turn buffers of segment 5 and into counter set 3, met by the read of the window. -/
theorem witness_ErrorsAreRecorded_window :
    (let s := tMod (tF (tLive mRUN) [(PLY.CNT_SEL_INDEX, 3)]) fun c =>
        { c with ply := { c.ply with sets := [(16 * 3 + 4, 7)] }, ecc := { bad := [{ store := 7, word := .cell .sets (16 * 3 + 4), two := true, addr := some 9 }] } }
     let pa : PageAddr := BitVec.ofNat 24 (PageCls.ply.base * 4096 + 0x090)
     tOpen s .spi .ply 0 = true ∧ s.chip.readsLo .ply 0x090 = false ∧ s.chip.latchedFor .spi .ply 0 0x090 = none ∧
       s.chip.ecc.bad.filter (fun x => s.chip.shows .ply 0 0x090 x.word) = s.chip.ecc.bad ∧
       (tAfter (.loReadLatch .spi pa 15) s).setW 3 4 = 0 ∧ ((tAfter (.loReadLatch .spi pa 15) s).portState .spi).data = 0 ∧
       (tAfter (.loReadLatch .spi pa 15) s).ecc.bad = [] ∧ (tAfter (.loReadLatch .spi pa 15) s).fld GLOBAL.ECC_LAST_ADDR = 9) ∧
    (let s (two : Bool) := tMod (tLive mRUN) fun c => { c with ecc := { inject := some (3, two) } }
     let w (two : Bool) := tMod (s two) fun _ => tAfter (.bufWinWrite .spi 5 9 0x1234) (s two)
     let pa : PageAddr := BitVec.ofNat 24 ((PageCls.segment.base + 5) * 4096 + 0x824)
     let c (two : Bool) := tAfter (.loReadLatch .spi pa 15) (tMod (w two) fun c => { c with ecc := { bad := c.ecc.bad.map fun b => { b with addr := some 20484 } } })
     tOpen (w true) .spi .segment 5 = true ∧ (w true).chip.ecc = { bad := [{ store := 3, word := .cell .segBuf ((32768 * 5 + 36) / 8), two := true }] } ∧
       (w true).chip.shows .segment 5 0x824 (.cell .segBuf ((32768 * 5 + 36) / 8)) = true ∧
       ((c true).portState .spi).data = 0x1234 ∧ (c true).fld GLOBAL.ECC_UNCORR_COUNT 0 3 = 1 ∧ (c false).fld GLOBAL.ECC_CORR_COUNT 0 3 = 1 ∧
       (c false).ecc.bad = []) ∧
    (let s := tMod (tF (tLive mRUN) [(HOSTQ.LEDGER_SEL_TAG, 4095)]) fun c =>
        { c with ecc := { bad := [{ store := 6, word := .cell .ledger 4095, two := true }] } }
     s.chip.shows .hostq 0 HOSTQ.LEDGER_ENTRY0_STATE.off (.cell .ledger 4095) = true ∧
       (tAfter (.loReadLatch .spi (BitVec.ofNat 24 (PageCls.hostq.base * 4096 + HOSTQ.LEDGER_ENTRY0_STATE.off)) 15) s).fld GLOBAL.ECC_LAST_ADDR = 4095) ∧
    (let s := tMod (tLive mRUN) fun c => { c with ecc := { bad := [{ store := 7, word := .cell .flyTurns 0, two := true, addr := some 0 }] } }
     s.chip.shows .flyer 0 FLYER.TT_STAGE_HDR0_TABLE_ID.off (.cell .flyTurns 0) = true ∧
       (tAfter (.loReadLatch .spi (BitVec.ofNat 24 (PageCls.flyer.base * 4096 + FLYER.TT_STAGE_HDR0_TABLE_ID.off)) 15) s).fld FLYER.TX_STATUS_LATCHED ≠ 0) := by
  decide +kernel

/-- R456, R466: a record that gives SLEEP, 0x4D440001 to MODE_CMD at 0x000048. -/
theorem witness_ImageLoads_third :
    let s := tMod (tF (tLive mACQUIRE) [(GLOBAL.IMAGE_STATUS_STATE, 3), (GLOBAL.IMAGE_STATUS_RECORDS, 4), (GLOBAL.IMAGE_STATUS_HOLD, 1)]) fun c =>
      { c with image := { count := 9, crc := 0, crcRun := 0, waitUntil := none } }
    tOpen s .image .global 0 = true ∧ GLOBAL.MODE_CMD_KEY.off = 0x048 ∧ s.chip.safeDue = false ∧ s.chip.maySleep = true ∧
      (tAfter (.imageRecord 0x048 0x4D440001) s).mode = mSTANDBY ∧ (tAfter (.imageRecord 0x048 0x4D440001) s).fld GLOBAL.IMAGE_STATUS_RECORDS = 5 ∧
      (tAfter (.imageRecord 0x048 0x4D440001) s).fld GLOBAL.IMAGE_STATUS_CAUSE = 7 ∧
      (tAfter (.imageRecord 0x048 0x4D440001) s).fld GLOBAL.IMAGE_STATUS_HOLD = 0 := by decide +kernel

end Sys2Proof.Tests
end

section
/-!
PROOF. Partial BAR0 writes (R12): one without all four byte enables leaves the register alone, and is an access that PAGE_ERRCNT of
the page addressed counts.
-/
namespace Sys2Proof.Machine

/-- Where BAR0 meets nothing on its way to the page, all that a partial write does is the count (R12). -/
theorem Chip.partialWrite_open {c : Chip} {cls : PageCls} {n off addr : Nat} (h : c.Open .bar0 cls n)
    (ha : addr = (cls.base + n) * 4096 + off) (ho : off < 4096) : c.partialWrite addr = c.errcnt (cls.base + n) off .bar0 := by
  have hpage : addr / 4096 = cls.base + n := by omega
  have hoff : addr % 4096 = off := by omega
  rw [Chip.partialWrite, hpage, hoff, c.access_open h]

/-- A well-formed partial write at a word-aligned address is the change `Chip.partialWrite` of the block. -/
theorem exec_partialByteWrite_eq {addr : PageAddr} {be : BitVec 4} (v : Word) (s : State) (hbe : be ≠ 15) (h4 : addr.toNat % 4 = 0) :
    exec (.partialByteWrite addr v be) s = run (fun c => c.partialWrite addr.toNat) s := by
  have hform : partialForm be = true := bne_iff_ne.mpr hbe
  rw [exec, execPartialByteWrite, if_pos hform, runAligned_eq h4]

/-- Settles O8: on an open page the command is one count of PAGE_ERRCNT, whose cells it alone writes; neither the SRAM error record
nor the levels touch them. -/
theorem partialWritesAreDiscarded : Obligations.PartialWritesAreDiscarded := by
  intro s cls n off addr v be hopen haddr ho hal hbe
  have h4 : addr.toNat % 4 = 0 := by omega
  have hcount := Chip.partialWrite_open hopen haddr ho
  refine becomes_of_run (exec_partialByteWrite_eq v s hbe h4) ?_ (Chip.counted_settle ?_)
  · -- the frame: only the cells of PAGE_ERRCNT are written
    rw [hcount]
    exact (Chip.OnlyRegs.refl s.chip _).errcnt _ _ _ fun _ hk => hk
  · -- the count, which the SRAM error record leaves as it is
    rw [hcount]
    exact s.chip.counted_errcnt (cls.base + n) off .bar0 ho

end Sys2Proof.Machine
end

section
/-!
PROOF. Bus timeouts and the CORE PLL (R422): what hardware's setting of a W1C flag does, what a change that touches one port and the
registers answers, and from these the record of the access and the events told.
-/
namespace Sys2Proof.Machine

/-! ### Flags that hardware sets -/

/-- A one-bit flag reads 1 once hardware has set it. -/
theorem Chip.fld_flag_self (c : Chip) (r : FieldRow) (n i : Nat) (hw : r.width = 1) : (c.flag r 1 n i).fld r n i = 1 := by
  rw [Chip.flag, Chip.fld_hwMark, Chip.fld_setFld_self, hw, pow_one, Nat.or_mod_two_eq_one]
  exact Or.inr rfl

theorem Chip.fld_flag_ne (c : Chip) (r q : FieldRow) (v n i m j : Nat) (h : q.key m j ≠ r.key n i) :
    (c.flag r v n i).fld q m j = c.fld q m j := c.fld_setFld_ne r q _ n i m j h

theorem Chip.OnlyRegs.flag {c d : Chip} {own : List Nat} (h : c.OnlyRegs d own) (r : FieldRow) (v n i : Nat)
    (hk : r.key n i ∈ own) : c.OnlyRegs (d.flag r v n i) own := (h.setFld r _ n i hk).hwMark _ _

/-! ### What a register-only change keeps -/

theorem Chip.OnlyRegs.fld_eq {c d : Chip} {own : List Nat} (h : c.OnlyRegs d own) (q : FieldRow) (m j : Nat)
    (ho : q.key m j ∉ own) (hl : q.key m j ∉ levelKeys) : d.fld q m j = c.fld q m j := h.2 _ _ ho hl

theorem Chip.OnlyRegs.ports_eq {c d : Chip} {own : List Nat} (h : c.OnlyRegs d own) : d.ports = c.ports := by
  obtain ⟨⟨_, _, _, _, hd⟩, _⟩ := h
  rw [hd]

/-- A domain whose state is no cell of `own`, and no level, is up as before. -/
theorem Chip.OnlyRegs.domUp_eq {c d : Chip} {own : List Nat} (h : c.OnlyRegs d own) (dm : Domain)
    (ho : (Domain.row dm).key 0 0 ∉ own) (hl : (Domain.row dm).key 0 0 ∉ levelKeys) : d.domUp dm = c.domUp dm := by
  have hdom : d.dom dm = c.dom dm := h.fld_eq _ 0 0 ho hl
  rw [Chip.domUp, Chip.domUp, hdom]

/-- The end of a step does not take back an event that is told. -/
theorem Chip.Tells.settle {c d : Chip} {e : Evt} {n : Nat} (h : c.Tells d e n) (hk : e.key n ∉ levelKeys) : c.Tells d.settle e n :=
  fun hu => (d.raised_settle e n hk).trans (h hu)

/-! ### Ports -/

theorem Port.code_injective : Function.Injective Port.code := by
  intro p q h
  cases p <;> cases q <;> simp_all [Port.code]

theorem Chip.portState_setPort_self (c : Chip) (p : Port) (st : PortState) : (c.setPort p st).portState p = st :=
  Tab.get_put_self _ _ _ _

theorem Chip.portState_setPort_ne (c : Chip) {p q : Port} (st : PortState) (h : q ≠ p) :
    (c.setPort p st).portState q = c.portState q := Tab.get_put_ne _ _ _ _ fun e => h (Port.code_injective e)

/-- A next state whose block is that with port `p` in state `st`, but for cells of `own`, is a `SetsPort`. -/
theorem setsPort_of_next {i : Instr} {s : State} {x : Chip} {p : Port} {st : PortState} {own : List Nat} {ok : Chip → Prop}
    (h : exec i s = .next { s with chip := x }) (hd : (s.chip.setPort p st).OnlyRegs x own) (hok : ok x) : SetsPort i s p st own ok := by
  have hports : x.ports = (s.chip.setPort p st).ports := hd.ports_eq
  have hstate (q : Port) : x.portState q = (s.chip.setPort p st).portState q := by
    rw [Chip.portState, hports, Chip.portState]
  refine ⟨_, h, rfl, ?_, (hstate p).trans (s.chip.portState_setPort_self p st),
    fun q hq => (hstate q).trans (s.chip.portState_setPort_ne st hq), hok⟩
  rw [State.chip_with, hports]
  exact hd

theorem setsPort_of_run {i : Instr} {s : State} {f : Chip → Chip} {p : Port} {st : PortState} {own : List Nat} {ok : Chip → Prop}
    (h : exec i s = run f s) (hd : (s.chip.setPort p st).OnlyRegs (f s.chip) own)
    (hok : ok (s.chip.eccTake (f s.chip)).settle) : SetsPort i s p st own ok :=
  setsPort_of_next (h.trans (run_eq f s)) hd.eccTake.settle hok

/-! ### The bus timeout -/

/-- The register cells that a bus timeout writes: BUS_ERR, its SAFE cause, and the events of the GLOBAL page. -/
def busTimeoutKeys : List Nat :=
  [GLOBAL.BUS_ERR_PAGE, GLOBAL.BUS_ERR_OFFSET, GLOBAL.BUS_ERR_PORT, GLOBAL.BUS_ERR_VALID, GLOBAL.SAFE_CAUSE_INTERNAL_BUS].map
    (fun r => r.key 0 0) ++ [EV.GLOBAL_BUS_TIMEOUT.key 0]

/-- A read that times out is the discarded write, after its port's data has become 0. -/
theorem Chip.busTimeout_read (c : Chip) (page off : Nat) (p : Port) :
    c.busTimeout page off p true = (c.setPort p { c.portState p with data := 0 }).busTimeout page off p false := rfl

/-- The block before BUS_TIMEOUT is raised: the access stands in BUS_ERR, and the SAFE cause is set. -/
def Chip.busRecorded (c : Chip) (page off : Nat) (p : Port) : Chip :=
  ((((c.setFld GLOBAL.BUS_ERR_PAGE page).setFld GLOBAL.BUS_ERR_OFFSET off).setFld GLOBAL.BUS_ERR_PORT p.code).flag
    GLOBAL.BUS_ERR_VALID).flag GLOBAL.SAFE_CAUSE_INTERNAL_BUS

theorem Chip.busTimeout_write (c : Chip) (page off : Nat) (p : Port) :
    c.busTimeout page off p false = (c.busRecorded page off p).raise EV.GLOBAL_BUS_TIMEOUT := rfl

theorem Chip.onlyRegs_busRecorded (c : Chip) (page off : Nat) (p : Port) : c.OnlyRegs (c.busRecorded page off p) busTimeoutKeys :=
  (((((Chip.OnlyRegs.refl c _).setFld _ _ _ _ (by decide)).setFld _ _ _ _ (by decide)).setFld _ _ _ _ (by decide)).flag
    _ _ _ _ (by decide)).flag _ _ _ _ (by decide)

theorem Chip.onlyRegs_busTimeout_write (c : Chip) (page off : Nat) (p : Port) :
    c.OnlyRegs (c.busTimeout page off p false) busTimeoutKeys :=
  (c.onlyRegs_busRecorded page off p).raise _ _ (by decide)

/-- BUS_ERR and the SAFE cause read as recorded; page and offset fit their 12 bits, and the port's code its two. -/
theorem Chip.busErrIs_busRecorded (c : Chip) {page off : Nat} (p : Port) (hp : page < 4096) (ho : off < 4096) :
    (c.busRecorded page off p).BusErrIs page off p ∧ (c.busRecorded page off p).fld GLOBAL.SAFE_CAUSE_INTERNAL_BUS = 1 := by
  have hcode : p.code < 4 := by cases p <;> decide
  unfold Chip.busRecorded
  refine ⟨⟨?_, ?_, ?_, ?_⟩, Chip.fld_flag_self _ _ _ _ rfl⟩
  · simp (disch := decide) only [Chip.fld_flag_ne, Chip.fld_setFld_ne, Chip.fld_setFld_self]
    exact Nat.mod_eq_of_lt hp
  · simp (disch := decide) only [Chip.fld_flag_ne, Chip.fld_setFld_ne, Chip.fld_setFld_self]
    exact Nat.mod_eq_of_lt ho
  · simp (disch := decide) only [Chip.fld_flag_ne, Chip.fld_setFld_self]
    exact Nat.mod_eq_of_lt hcode
  · rw [Chip.fld_flag_ne _ _ _ _ _ _ _ _ (by decide)]
    exact Chip.fld_flag_self _ _ _ _ rfl

/-- What R422 has a bus timeout tell: the record in BUS_ERR, the SAFE cause, and BUS_TIMEOUT unless the GLOBAL page was down in `c`. -/
def Chip.BusTold (c d : Chip) (page off : Nat) (p : Port) : Prop :=
  d.BusErrIs page off p ∧ d.fld GLOBAL.SAFE_CAUSE_INTERNAL_BUS = 1 ∧ c.Tells d EV.GLOBAL_BUS_TIMEOUT

theorem Chip.busTold_busTimeout_write (c : Chip) {page off : Nat} (p : Port) (hp : page < 4096) (ho : off < 4096) :
    c.BusTold (c.busTimeout page off p false) page off p := by
  obtain ⟨⟨hpage, hoff, hport, hvalid⟩, hcause⟩ := c.busErrIs_busRecorded p hp ho
  have hup := (c.onlyRegs_busRecorded page off p).domUp_eq .aon (by decide) (by decide)
  rw [c.busTimeout_write]
  -- raising the event leaves the fields as recorded
  have keep (q : FieldRow) (hq : q.key 0 0 ≠ EV.GLOBAL_BUS_TIMEOUT.key 0) := Chip.fld_raise_ne (c.busRecorded page off p) _ 0 q 0 0 hq
  exact ⟨⟨(keep _ (by decide)).trans hpage, (keep _ (by decide)).trans hoff, (keep _ (by decide)).trans hport,
    (keep _ (by decide)).trans hvalid⟩, (keep _ (by decide)).trans hcause, Chip.tells_raise _ _ (by decide) hup⟩

/-- None of what is told is a level, so the end of the step keeps it. -/
theorem Chip.BusTold.settle {c d : Chip} {page off : Nat} {p : Port} (h : c.BusTold d page off p) : c.BusTold d.settle page off p := by
  obtain ⟨⟨hpage, hoff, hport, hvalid⟩, hcause, htells⟩ := h
  have keep (q : FieldRow) (hq : q.key 0 0 ∉ levelKeys) := d.fld_settle q 0 0 hq
  exact ⟨⟨(keep _ (by decide)).trans hpage, (keep _ (by decide)).trans hoff, (keep _ (by decide)).trans hport,
    (keep _ (by decide)).trans hvalid⟩, (keep _ (by decide)).trans hcause, htells.settle (by decide)⟩

/-! ### The CORE PLL -/

theorem exec_corePllUnlock_eq (s : State) :
    exec .corePllUnlock s = run (fun c => c.whenDue (c.dom .core == domON) Chip.corePllUnlock) s := rfl

/-- With CORE not ON the CORE PLL holds no SAFE cause. -/
theorem Chip.heldCauses_core_off (c : Chip) (h : c.dom .core ≠ domON) :
    ∀ e ∈ c.heldCauses, GLOBAL.SAFE_CAUSE_CORE_PLL.key 0 0 ≠ e.1.key 0 0 := by
  intro e he
  have hoff : (!c.modes.corePllLock && c.dom .core == domON) = false := by rw [beq_eq_false_iff_ne.mpr h, Bool.and_false]
  rw [Chip.heldCauses, hoff] at he
  cases htrip : c.modes.thermTripped <;> rw [htrip] at he
  · cases he
  · obtain rfl : e = (GLOBAL.SAFE_CAUSE_THERMAL, 1) := List.mem_singleton.mp he
    decide

theorem Chip.quiescentRise_fld (c : Chip) (q : FieldRow) (h : q.key 0 0 ≠ EV.HOSTQ_ALL_QUIESCENT.key 0) :
    c.quiescentRise.fld q = c.fld q := by
  unfold Chip.quiescentRise
  simp only
  split
  · exact c.fld_raise_ne _ _ q 0 0 h
  · rfl

/-- The end of a step sets the SAFE cause of the CORE PLL only while CORE is ON. -/
theorem Chip.corePllCause_settle (c : Chip) (h : c.dom .core ≠ domON) :
    c.settle.fld GLOBAL.SAFE_CAUSE_CORE_PLL = c.fld GLOBAL.SAFE_CAUSE_CORE_PLL := by
  have hcore : c.quiescentRise.dom .core ≠ domON := by
    rwa [Chip.dom, c.quiescentRise_fld _ (by decide)]
  have hlevels : ∀ e ∈ c.quiescentRise.levelValues, GLOBAL.SAFE_CAUSE_CORE_PLL.key 0 0 ≠ e.1.key 0 0 := by
    intro e he
    have hrow : e.1 ∈ levelRows := c.quiescentRise.levelValues_rows ▸ List.mem_map_of_mem he
    have hne : ∀ r ∈ levelRows, GLOBAL.SAFE_CAUSE_CORE_PLL.key 0 0 ≠ r.key 0 0 := by decide
    exact hne _ hrow
  rw [Chip.settle, Chip.levels, ← c.quiescentRise_fld GLOBAL.SAFE_CAUSE_CORE_PLL (by decide)]
  exact Chip.get_setAll _ _ _ _ fun e he =>
    (List.mem_append.mp he).elim (hlevels e) (c.quiescentRise.heldCauses_core_off hcore e)

/-- The loss of lock raises CORE_PLL_UNLOCK with the cause. -/
theorem Chip.tells_corePllUnlock (c : Chip) : c.Tells c.corePllUnlock EV.GLOBAL_CORE_PLL_UNLOCK :=
  Chip.tells_raise _ _ (by decide) <|
    ((Chip.OnlyRegs.refl { c with modes := { c.modes with corePllLock := false } } [GLOBAL.SAFE_CAUSE_CORE_PLL.key 0 0]).flag
      GLOBAL.SAFE_CAUSE_CORE_PLL 1 0 0 (by decide)).domUp_eq .aon (by decide) (by decide)

/-- The step of a loss of lock either raises CORE_PLL_UNLOCK, where CORE is ON, or leaves the cause as it was. -/
theorem corePllUnlock_ends (s : State) :
    Ends .corePllUnlock s fun d => s.chip.fld GLOBAL.SAFE_CAUSE_CORE_PLL = 0 → d.fld GLOBAL.SAFE_CAUSE_CORE_PLL ≠ 0 →
      s.chip.Tells d EV.GLOBAL_CORE_PLL_UNLOCK := by
  refine ends_of_run (exec_corePllUnlock_eq s) ?_
  by_cases hon : s.chip.dom .core = domON
  · rw [s.chip.whenDue_true _ (beq_iff_eq.mpr hon)]
    have htells : s.chip.Tells (s.chip.eccTake s.chip.corePllUnlock) EV.GLOBAL_CORE_PLL_UNLOCK := s.chip.tells_corePllUnlock
    exact fun _ _ => htells.settle (by decide)
  · rw [s.chip.whenDue_false _ (beq_eq_false_iff_ne.mpr hon)]
    have hkept := (s.chip.eccTake s.chip).corePllCause_settle hon
    exact fun hclear hset => absurd (hkept.trans hclear) hset

theorem exec_busTimeout_eq (page off : BitVec 12) (p : Port) (read : Bool) (s : State) :
    exec (.busTimeout page off p read) s = run (fun c => c.busTimeout page.toNat off.toNat p read) s := rfl

/-- Settles O56: both forms of a bus timeout write the same record, the read form after its port's data has become 0; the levels that
end the step touch none of it. The CORE PLL's cause appears only in a step that raises its event. -/
theorem busTimeoutsAndThePll : Obligations.BusTimeoutsAndThePll := by
  intro s page off p
  have told (c b : Chip) : c.BusTold (b.eccTake (c.busTimeout page.toNat off.toNat p false)).settle page.toNat off.toNat p :=
    Chip.BusTold.settle (c.busTold_busTimeout_write p page.isLt off.isLt)
  refine ⟨setsPort_of_run (exec_busTimeout_eq page off p true s) ?_ ?_, becomes_of_run (exec_busTimeout_eq page off p false s) ?_ ?_,
    corePllUnlock_ends s⟩
  · rw [s.chip.busTimeout_read]
    exact Chip.onlyRegs_busTimeout_write _ _ _ _
  · rw [s.chip.busTimeout_read]
    exact told _ _
  · exact s.chip.onlyRegs_busTimeout_write _ _ _
  · exact told _ _

end Sys2Proof.Machine
end

section
/-!
PROOF. What a change of the block leaves alone: a relation between the block before and after, by the parts of the block and the register
cells that may differ. One lemma for each named operation; the frame of a meaning is put together from them.
-/
namespace Sys2Proof.Machine

/-- The parts of the block besides its register cells and the record of the W1C bits set in this clock. -/
inductive Part where
  | ports | arms | ecc | resetting | freeCtr | modes | power | whorl | image | buffer | txOps | reel | aon | carder | hankIn | uplinks | ply | hostq | hank | distaff | fates | dram | segs | segTables | segBuf | flyers | flyTables | drift | chain | mirror | hostWrites
  deriving DecidableEq

/-- The part is in `d` as it is in `c`. -/
def Part.Same (c d : Chip) : Part → Prop
  | .ports => d.ports = c.ports
  | .arms => d.arms = c.arms
  | .ecc => d.ecc = c.ecc
  | .resetting => d.resetting = c.resetting
  | .freeCtr => d.freeCtr = c.freeCtr
  | .modes => d.modes = c.modes
  | .power => d.power = c.power
  | .whorl => d.whorl = c.whorl
  | .image => d.image = c.image
  | .buffer => d.buffer = c.buffer
  | .txOps => d.txOps = c.txOps
  | .reel => d.reel = c.reel
  | .aon => d.aon = c.aon
  | .carder => d.carder = c.carder
  | .hankIn => d.hankIn = c.hankIn
  | .uplinks => d.uplinks = c.uplinks
  | .ply => d.ply = c.ply
  | .hostq => d.hostq = c.hostq
  | .hank => d.hank = c.hank
  | .distaff => d.distaff = c.distaff
  | .fates => d.fates = c.fates
  | .dram => d.dram = c.dram
  | .segs => d.segs = c.segs
  | .segTables => d.segTables = c.segTables
  | .segBuf => d.segBuf = c.segBuf
  | .flyers => d.flyers = c.flyers
  | .flyTables => d.flyTables = c.flyTables
  | .drift => d.drift = c.drift
  | .chain => d.chain = c.chain
  | .mirror => d.mirror = c.mirror
  | .hostWrites => d.hostWrites = c.hostWrites

theorem Part.Same.refl (c : Chip) (p : Part) : p.Same c c := by cases p <;> rfl

theorem Part.Same.trans {a b c : Chip} {p : Part} (h : p.Same a b) (h' : p.Same b c) : p.Same a c := by
  cases p <;> exact Eq.trans h' h

/-- `d` differs from `c` in the parts `S` and the register cells `K` only. -/
structure Chip.Frame (c : Chip) (S : List Part) (K : Nat → Prop) (d : Chip) : Prop where
  part : ∀ p, p ∉ S → p.Same c d
  cell : ∀ k, ¬ K k → ∀ v, Tab.get v d.regs k = Tab.get v c.regs k

section
variable {a c d e : Chip} {S T : List Part} {K L : Nat → Prop}

theorem Chip.Frame.refl (c : Chip) : c.Frame S K c := ⟨fun p _ => Part.Same.refl c p, fun _ _ _ => rfl⟩

theorem Chip.Frame.trans (h : c.Frame S K d) (h' : d.Frame S K e) : c.Frame S K e :=
  ⟨fun p hp => (h.part p hp).trans (h'.part p hp), fun k hk v => (h'.cell k hk v).trans (h.cell k hk v)⟩

theorem Chip.Frame.mono (h : c.Frame S K d) (hS : S ⊆ T) (hK : ∀ k, K k → L k) : c.Frame T L d :=
  ⟨fun p hp => h.part p fun hs => hp (hS hs), fun k hk v => h.cell k (fun hl => hk (hK k hl)) v⟩

/-- One more change, within the same parts and cells. -/
theorem Chip.Frame.andThen (h : c.Frame S K d) (h' : d.Frame T L e) (hS : T ⊆ S) (hK : ∀ k, L k → K k) : c.Frame S K e :=
  h.trans (h'.mono hS hK)

/-- A change of parts only. -/
theorem Chip.Frame.parts (h : c.Frame S K d) (hr : e.regs = d.regs) (hp : ∀ p, p ∉ S → p.Same d e) : c.Frame S K e :=
  h.trans ⟨hp, fun _ _ _ => by rw [hr]⟩

/-- A change of register cells, and of the record of the W1C bits, only. -/
theorem Chip.Frame.regs (h : c.Frame S K d) (g w : Tab Nat) (hk : ∀ k, ¬ K k → ∀ v, Tab.get v g k = Tab.get v d.regs k) :
    c.Frame S K { d with regs := g, hwSet := w } := h.trans ⟨fun p _ => by cases p <;> rfl, hk⟩

theorem Chip.Frame.setFld (h : c.Frame S K d) (r : FieldRow) (v n i : Nat) (hk : K (r.key n i)) : c.Frame S K (d.setFld r v n i) :=
  h.regs _ d.hwSet fun _ hk' _ => d.get_setFld_ne r v n i _ fun e => hk' (e ▸ hk)

theorem Chip.Frame.setHdr (h : c.Frame S K d) (r : HdrRow) (page v : Nat) (hk : K (r.key page)) : c.Frame S K (d.setHdr r page v) :=
  h.regs _ d.hwSet fun _ hk' _ => d.get_setHdr_ne r page v _ fun e => hk' (e ▸ hk)

theorem Chip.Frame.hwMark (h : c.Frame S K d) (key v : Nat) : c.Frame S K (d.hwMark key v) := h.regs d.regs _ fun _ _ _ => rfl

theorem Chip.Frame.bump (h : c.Frame S K d) (r : FieldRow) (n i : Nat) (hk : K (r.key n i)) : c.Frame S K (d.bump r n i) :=
  h.setFld r _ n i hk

theorem Chip.Frame.bumpBy (h : c.Frame S K d) (r : FieldRow) (k n i : Nat) (hk : K (r.key n i)) : c.Frame S K (d.bumpBy r k n i) :=
  h.setFld r _ n i hk

theorem Chip.Frame.setBit (h : c.Frame S K d) (r : FieldRow) (b : Bool) (n i : Nat) (hk : K (r.key n i)) : c.Frame S K (d.setBit r b n i) :=
  h.setFld r _ n i hk

theorem Chip.Frame.setFld64 (h : c.Frame S K d) (lo hi : FieldRow) (v n i : Nat) (hl : K (lo.key n i)) (hh : K (hi.key n i)) :
    c.Frame S K (d.setFld64 lo hi v n i) := (h.setFld lo _ n i hl).setFld hi _ n i hh

theorem Chip.Frame.flag (h : c.Frame S K d) (r : FieldRow) (v n i : Nat) (hk : K (r.key n i)) : c.Frame S K (d.flag r v n i) :=
  (h.setFld r _ n i hk).hwMark _ _

theorem Chip.Frame.raise (h : c.Frame S K d) (e : Evt) (n : Nat) (hk : K (e.key n)) : c.Frame S K (d.raise e n) := by
  unfold Chip.raise
  split
  · exact (h.setHdr _ _ _ hk).hwMark _ _
  · exact h

theorem Chip.Frame.errcnt (h : c.Frame S K d) (page off : Nat) (p : Port) (hk : ∀ k ∈ errKeys page, K k) :
    c.Frame S K (d.errcnt page off p) :=
  ((h.setHdr _ _ _ (hk _ (by simp [errKeys]))).setHdr _ _ _ (hk _ (by simp [errKeys]))).setHdr _ _ _ (hk _ (by simp [errKeys]))

theorem Chip.Frame.ite {p : Prop} [Decidable p] (h : p → c.Frame S K d) (h' : ¬ p → c.Frame S K e) :
    c.Frame S K (if p then d else e) := by
  split
  · exact h ‹_›
  · exact h' ‹_›

theorem Chip.Frame.foldl {α : Type} (h : c.Frame S K d) {f : Chip → α → Chip} (l : List α) (hf : ∀ d : Chip, ∀ x ∈ l, d.Frame S K (f d x)) :
    c.Frame S K (l.foldl f d) := by
  induction l generalizing d with
  | nil => exact h
  | cons x r ih => exact ih (h.trans (hf d x (by simp))) fun e y hy => hf e y (by simp [hy])

/-! ### One part replaced -/


theorem Chip.Frame.withPorts (h : c.Frame S K d) (x : Tab PortState) (hp : .ports ∈ S) : c.Frame S K { d with ports := x } :=
  h.parts rfl fun q hq => by cases q <;> first | exact absurd hp hq | rfl
theorem Chip.Frame.withArms (h : c.Frame S K d) (x : Tab (Option Nat)) (hp : .arms ∈ S) : c.Frame S K { d with arms := x } :=
  h.parts rfl fun q hq => by cases q <;> first | exact absurd hp hq | rfl
theorem Chip.Frame.withEcc (h : c.Frame S K d) (x : Ecc) (hp : .ecc ∈ S) : c.Frame S K { d with ecc := x } :=
  h.parts rfl fun q hq => by cases q <;> first | exact absurd hp hq | rfl
theorem Chip.Frame.withResetting (h : c.Frame S K d) (x : List Nat) (hp : .resetting ∈ S) : c.Frame S K { d with resetting := x } :=
  h.parts rfl fun q hq => by cases q <;> first | exact absurd hp hq | rfl
theorem Chip.Frame.withFreeCtr (h : c.Frame S K d) (x : Nat) (hp : .freeCtr ∈ S) : c.Frame S K { d with freeCtr := x } :=
  h.parts rfl fun q hq => by cases q <;> first | exact absurd hp hq | rfl
theorem Chip.Frame.withModes (h : c.Frame S K d) (x : Modes) (hp : .modes ∈ S) : c.Frame S K { d with modes := x } :=
  h.parts rfl fun q hq => by cases q <;> first | exact absurd hp hq | rfl
theorem Chip.Frame.withPower (h : c.Frame S K d) (x : PowerMgr) (hp : .power ∈ S) : c.Frame S K { d with power := x } :=
  h.parts rfl fun q hq => by cases q <;> first | exact absurd hp hq | rfl
theorem Chip.Frame.withWhorl (h : c.Frame S K d) (x : Whorl) (hp : .whorl ∈ S) : c.Frame S K { d with whorl := x } :=
  h.parts rfl fun q hq => by cases q <;> first | exact absurd hp hq | rfl
theorem Chip.Frame.withImage (h : c.Frame S K d) (x : Image) (hp : .image ∈ S) : c.Frame S K { d with image := x } :=
  h.parts rfl fun q hq => by cases q <;> first | exact absurd hp hq | rfl
theorem Chip.Frame.withBuffer (h : c.Frame S K d) (x : Buffer) (hp : .buffer ∈ S) : c.Frame S K { d with buffer := x } :=
  h.parts rfl fun q hq => by cases q <;> first | exact absurd hp hq | rfl
theorem Chip.Frame.withTxOps (h : c.Frame S K d) (x : Tab TxOp) (hp : .txOps ∈ S) : c.Frame S K { d with txOps := x } :=
  h.parts rfl fun q hq => by cases q <;> first | exact absurd hp hq | rfl
theorem Chip.Frame.withReel (h : c.Frame S K d) (x : Reel) (hp : .reel ∈ S) : c.Frame S K { d with reel := x } :=
  h.parts rfl fun q hq => by cases q <;> first | exact absurd hp hq | rfl
theorem Chip.Frame.withAon (h : c.Frame S K d) (x : Nat) (hp : .aon ∈ S) : c.Frame S K { d with aon := x } :=
  h.parts rfl fun q hq => by cases q <;> first | exact absurd hp hq | rfl
theorem Chip.Frame.withCarder (h : c.Frame S K d) (x : Carder) (hp : .carder ∈ S) : c.Frame S K { d with carder := x } :=
  h.parts rfl fun q hq => by cases q <;> first | exact absurd hp hq | rfl
theorem Chip.Frame.withHankIn (h : c.Frame S K d) (x : List Packet) (hp : .hankIn ∈ S) : c.Frame S K { d with hankIn := x } :=
  h.parts rfl fun q hq => by cases q <;> first | exact absurd hp hq | rfl
theorem Chip.Frame.withUplinks (h : c.Frame S K d) (x : Tab Uplink) (hp : .uplinks ∈ S) : c.Frame S K { d with uplinks := x } :=
  h.parts rfl fun q hq => by cases q <;> first | exact absurd hp hq | rfl
theorem Chip.Frame.withPly (h : c.Frame S K d) (x : Ply) (hp : .ply ∈ S) : c.Frame S K { d with ply := x } :=
  h.parts rfl fun q hq => by cases q <;> first | exact absurd hp hq | rfl
theorem Chip.Frame.withHostq (h : c.Frame S K d) (x : HostQ) (hp : .hostq ∈ S) : c.Frame S K { d with hostq := x } :=
  h.parts rfl fun q hq => by cases q <;> first | exact absurd hp hq | rfl
theorem Chip.Frame.withHank (h : c.Frame S K d) (x : Hank) (hp : .hank ∈ S) : c.Frame S K { d with hank := x } :=
  h.parts rfl fun q hq => by cases q <;> first | exact absurd hp hq | rfl
theorem Chip.Frame.withDistaff (h : c.Frame S K d) (x : Distaff) (hp : .distaff ∈ S) : c.Frame S K { d with distaff := x } :=
  h.parts rfl fun q hq => by cases q <;> first | exact absurd hp hq | rfl
theorem Chip.Frame.withFates (h : c.Frame S K d) (x : Tab Fates) (hp : .fates ∈ S) : c.Frame S K { d with fates := x } :=
  h.parts rfl fun q hq => by cases q <;> first | exact absurd hp hq | rfl
theorem Chip.Frame.withDram (h : c.Frame S K d) (x : List Host.Cell) (hp : .dram ∈ S) : c.Frame S K { d with dram := x } :=
  h.parts rfl fun q hq => by cases q <;> first | exact absurd hp hq | rfl
theorem Chip.Frame.withSegs (h : c.Frame S K d) (x : Tab SegEng) (hp : .segs ∈ S) : c.Frame S K { d with segs := x } :=
  h.parts rfl fun q hq => by cases q <;> first | exact absurd hp hq | rfl
theorem Chip.Frame.withSegTables (h : c.Frame S K d) (x : Tab Nat) (hp : .segTables ∈ S) : c.Frame S K { d with segTables := x } :=
  h.parts rfl fun q hq => by cases q <;> first | exact absurd hp hq | rfl
theorem Chip.Frame.withSegBuf (h : c.Frame S K d) (x : List Host.Cell) (hp : .segBuf ∈ S) : c.Frame S K { d with segBuf := x } :=
  h.parts rfl fun q hq => by cases q <;> first | exact absurd hp hq | rfl
theorem Chip.Frame.withFlyers (h : c.Frame S K d) (x : Tab Flyer) (hp : .flyers ∈ S) : c.Frame S K { d with flyers := x } :=
  h.parts rfl fun q hq => by cases q <;> first | exact absurd hp hq | rfl
theorem Chip.Frame.withFlyTables (h : c.Frame S K d) (x : Tab Nat) (hp : .flyTables ∈ S) : c.Frame S K { d with flyTables := x } :=
  h.parts rfl fun q hq => by cases q <;> first | exact absurd hp hq | rfl
theorem Chip.Frame.withDrift (h : c.Frame S K d) (x : Tab Drift) (hp : .drift ∈ S) : c.Frame S K { d with drift := x } :=
  h.parts rfl fun q hq => by cases q <;> first | exact absurd hp hq | rfl
theorem Chip.Frame.withChain (h : c.Frame S K d) (x : Chain) (hp : .chain ∈ S) : c.Frame S K { d with chain := x } :=
  h.parts rfl fun q hq => by cases q <;> first | exact absurd hp hq | rfl
theorem Chip.Frame.withMirror (h : c.Frame S K d) (x : Mirror) (hp : .mirror ∈ S) : c.Frame S K { d with mirror := x } :=
  h.parts rfl fun q hq => by cases q <;> first | exact absurd hp hq | rfl
theorem Chip.Frame.withHostWrites (h : c.Frame S K d) (x : List HostWrite) (hp : .hostWrites ∈ S) : c.Frame S K { d with hostWrites := x } :=
  h.parts rfl fun q hq => by cases q <;> first | exact absurd hp hq | rfl

/-! ### What a frame says of one part, one field, one event -/

theorem Chip.Frame.fld (h : c.Frame S K d) (q : FieldRow) (m j : Nat) (hk : ¬ K (q.key m j)) : d.fld q m j = c.fld q m j := h.cell _ hk _

theorem Chip.Frame.on (h : c.Frame S K d) (q : FieldRow) (m j : Nat) (hk : ¬ K (q.key m j)) : d.on q m j = c.on q m j := by
  rw [Chip.on, Chip.on, h.fld q m j hk]

theorem Chip.Frame.hdr (h : c.Frame S K d) (q : HdrRow) (page : Nat) (hk : ¬ K (q.key page)) : d.hdr q page = c.hdr q page := h.cell _ hk _

theorem Chip.Frame.raised (h : c.Frame S K d) (e : Evt) (n : Nat) (hk : ¬ K (e.key n)) : d.raised e n = c.raised e n := by
  rw [Chip.raised, Chip.raised, h.hdr HDR.EVT _ hk]

theorem Chip.Frame.dom (h : c.Frame S K d) (dm : Domain) (hk : ¬ K ((Domain.row dm).key 0 0)) : d.dom dm = c.dom dm := h.fld _ 0 0 hk

theorem Chip.Frame.domUp (h : c.Frame S K d) (dm : Domain) (hk : ¬ K ((Domain.row dm).key 0 0)) : d.domUp dm = c.domUp dm := by
  rw [Chip.domUp, Chip.domUp, h.dom dm hk]

theorem Chip.Frame.ports (h : c.Frame S K d) (hp : .ports ∉ S) : d.ports = c.ports := h.part .ports hp
theorem Chip.Frame.arms (h : c.Frame S K d) (hp : .arms ∉ S) : d.arms = c.arms := h.part .arms hp
theorem Chip.Frame.ecc (h : c.Frame S K d) (hp : .ecc ∉ S) : d.ecc = c.ecc := h.part .ecc hp
theorem Chip.Frame.resetting (h : c.Frame S K d) (hp : .resetting ∉ S) : d.resetting = c.resetting := h.part .resetting hp
theorem Chip.Frame.freeCtr (h : c.Frame S K d) (hp : .freeCtr ∉ S) : d.freeCtr = c.freeCtr := h.part .freeCtr hp
theorem Chip.Frame.modes (h : c.Frame S K d) (hp : .modes ∉ S) : d.modes = c.modes := h.part .modes hp
theorem Chip.Frame.power (h : c.Frame S K d) (hp : .power ∉ S) : d.power = c.power := h.part .power hp
theorem Chip.Frame.whorl (h : c.Frame S K d) (hp : .whorl ∉ S) : d.whorl = c.whorl := h.part .whorl hp
theorem Chip.Frame.image (h : c.Frame S K d) (hp : .image ∉ S) : d.image = c.image := h.part .image hp
theorem Chip.Frame.buffer (h : c.Frame S K d) (hp : .buffer ∉ S) : d.buffer = c.buffer := h.part .buffer hp
theorem Chip.Frame.txOps (h : c.Frame S K d) (hp : .txOps ∉ S) : d.txOps = c.txOps := h.part .txOps hp
theorem Chip.Frame.reel (h : c.Frame S K d) (hp : .reel ∉ S) : d.reel = c.reel := h.part .reel hp
theorem Chip.Frame.aon (h : c.Frame S K d) (hp : .aon ∉ S) : d.aon = c.aon := h.part .aon hp
theorem Chip.Frame.carder (h : c.Frame S K d) (hp : .carder ∉ S) : d.carder = c.carder := h.part .carder hp
theorem Chip.Frame.hankIn (h : c.Frame S K d) (hp : .hankIn ∉ S) : d.hankIn = c.hankIn := h.part .hankIn hp
theorem Chip.Frame.uplinks (h : c.Frame S K d) (hp : .uplinks ∉ S) : d.uplinks = c.uplinks := h.part .uplinks hp
theorem Chip.Frame.ply (h : c.Frame S K d) (hp : .ply ∉ S) : d.ply = c.ply := h.part .ply hp
theorem Chip.Frame.hostq (h : c.Frame S K d) (hp : .hostq ∉ S) : d.hostq = c.hostq := h.part .hostq hp
theorem Chip.Frame.hank (h : c.Frame S K d) (hp : .hank ∉ S) : d.hank = c.hank := h.part .hank hp
theorem Chip.Frame.distaff (h : c.Frame S K d) (hp : .distaff ∉ S) : d.distaff = c.distaff := h.part .distaff hp
theorem Chip.Frame.fates (h : c.Frame S K d) (hp : .fates ∉ S) : d.fates = c.fates := h.part .fates hp
theorem Chip.Frame.dram (h : c.Frame S K d) (hp : .dram ∉ S) : d.dram = c.dram := h.part .dram hp
theorem Chip.Frame.segs (h : c.Frame S K d) (hp : .segs ∉ S) : d.segs = c.segs := h.part .segs hp
theorem Chip.Frame.segTables (h : c.Frame S K d) (hp : .segTables ∉ S) : d.segTables = c.segTables := h.part .segTables hp
theorem Chip.Frame.segBuf (h : c.Frame S K d) (hp : .segBuf ∉ S) : d.segBuf = c.segBuf := h.part .segBuf hp
theorem Chip.Frame.flyers (h : c.Frame S K d) (hp : .flyers ∉ S) : d.flyers = c.flyers := h.part .flyers hp
theorem Chip.Frame.flyTables (h : c.Frame S K d) (hp : .flyTables ∉ S) : d.flyTables = c.flyTables := h.part .flyTables hp
theorem Chip.Frame.drift (h : c.Frame S K d) (hp : .drift ∉ S) : d.drift = c.drift := h.part .drift hp
theorem Chip.Frame.chain (h : c.Frame S K d) (hp : .chain ∉ S) : d.chain = c.chain := h.part .chain hp
theorem Chip.Frame.mirror (h : c.Frame S K d) (hp : .mirror ∉ S) : d.mirror = c.mirror := h.part .mirror hp
theorem Chip.Frame.hostWrites (h : c.Frame S K d) (hp : .hostWrites ∉ S) : d.hostWrites = c.hostWrites := h.part .hostWrites hp

/-- A change of register cells and of the SRAM error record is a change of those cells only. -/
theorem Chip.Frame.onlyRegs {own : List Nat} (h : c.Frame [.ecc] (· ∈ own) d) : c.OnlyRegs d own := by
  refine ⟨⟨d.regs, d.hostq.allQ, d.hwSet, d.ecc, ?_⟩, fun k v hk _ => h.cell k hk v⟩
  have hq := h.hostq (by decide)
  obtain ⟨hpart, -⟩ := h
  cases d
  simp only [Chip.mk.injEq]
  exact ⟨trivial, hpart .ports (by decide), hpart .arms (by decide), trivial, trivial, hpart .resetting (by decide), hpart .freeCtr (by decide), hpart .modes (by decide), hpart .power (by decide), hpart .whorl (by decide), hpart .image (by decide), hpart .buffer (by decide), hpart .txOps (by decide), hpart .reel (by decide), hpart .aon (by decide), hpart .carder (by decide), hpart .hankIn (by decide), hpart .uplinks (by decide), hpart .ply (by decide), (by rw [← hq]), hpart .hank (by decide), hpart .distaff (by decide), hpart .fates (by decide), hpart .dram (by decide), hpart .segs (by decide), hpart .segTables (by decide), hpart .segBuf (by decide), hpart .flyers (by decide), hpart .flyTables (by decide), hpart .drift (by decide), hpart .chain (by decide), hpart .mirror (by decide), hpart .hostWrites (by decide)⟩
end

end Sys2Proof.Machine
end

section
/-!
PROOF. Steps and levels: a step takes the front of the queue, every command answers or stops, and the registers that follow other state
agree with it at reset and after every step.
-/
namespace Sys2Proof.Machine

/-- Settles O1: both sides are the same arm of `step`. -/
theorem stepTakesFront : Obligations.StepTakesFront := fun _ _ _ => rfl

/-- Settles O3, by what `exec` can answer at all. -/
theorem commandsAnswerOrStop : Obligations.CommandsAnswerOrStop := by
  refine ⟨fun i s hw ha => ?_, fun i s => ⟨exec_illFormed i s, exec_misaligned i s⟩⟩
  obtain ⟨d, hd⟩ := exec_answers i s hw ha
  exact ⟨_, hd, rfl⟩

/-! ### The levels after a step -/

variable (c : Chip)

theorem Chip.quiescentRise_frame : ∃ regs h, c.quiescentRise = { c with regs := regs, hostq := { c.hostq with allQ := c.allQuiescent }, hwSet := h } := by
  refine ⟨c.quiescentRise.regs, c.quiescentRise.hwSet, ?_⟩
  unfold Chip.quiescentRise Chip.raise
  simp only
  split_ifs <;> rfl

theorem Chip.get_quiescentRise (k v : Nat) (h : k ∉ levelKeys) : Tab.get v c.quiescentRise.regs k = Tab.get v c.regs k := by
  unfold Chip.quiescentRise
  simp only
  split
  · exact c.get_raise_ne _ _ _ fun e => h (e ▸ by decide)
  · rfl

/-- The levels leave everything but the registers as it was. -/
theorem Chip.levels_parts : c.levels.power = c.power ∧ c.levels.modes = c.modes ∧ c.levels.hostq = c.hostq := by
  obtain ⟨_, _, h⟩ := c.levels_regsOnly
  rw [h]
  exact ⟨rfl, rfl, rfl⟩

theorem Chip.fld_levels_ne (q : FieldRow) (m j : Nat) (h : q.key m j ∉ levelKeys) : c.levels.fld q m j = c.fld q m j :=
  c.levels_keeps _ _ h

theorem Chip.hdr_levels_ne (q : HdrRow) (page : Nat) (h : q.key page ∉ levelKeys) : c.levels.hdr q page = c.hdr q page :=
  c.levels_keeps _ _ h

/-- No cell of the ledger is a level: ledger cells lie above every one of them. -/
theorem ledgerKey_not_level (r : FieldRow) (hcls : r.cls = .hostq) (hoff : 0x11 ≤ r.off) (t : Nat) : r.key 0 t ∉ levelKeys := by
  intro h
  have hmax : ∀ k ∈ levelKeys, k < cellKey 0x050 0x011 0 0 := by decide
  have := hmax _ h
  rw [FieldRow.key, hcls] at this
  simp only [cellKey, PageCls.base] at this
  omega

theorem Chip.tagQuiet_levels : c.levels.tagQuiet = c.tagQuiet := by
  funext t
  unfold Chip.tagQuiet Chip.on
  rw [c.fld_levels_ne HOSTQ.LEDGER_ENTRY0_STATE 0 t (ledgerKey_not_level _ rfl (by decide) t),
    c.fld_levels_ne HOSTQ.LEDGER_ENTRY0_FROZEN 0 t (ledgerKey_not_level _ rfl (by decide) t)]

theorem Chip.tagQuiet_quiescentRise : c.quiescentRise.tagQuiet = c.tagQuiet := by
  funext t
  unfold Chip.tagQuiet Chip.on Chip.fld
  rw [c.get_quiescentRise _ _ (ledgerKey_not_level HOSTQ.LEDGER_ENTRY0_STATE rfl (by decide) t),
    c.get_quiescentRise _ _ (ledgerKey_not_level HOSTQ.LEDGER_ENTRY0_FROZEN rfl (by decide) t)]

theorem Chip.uplinkOn_levels (n : Nat) (hn : n < 4) : c.levels.uplinkOn n = c.uplinkOn n := by
  have hk : ∀ n < 4, UPLINK.LINK_STATUS_STATE.key n 0 ∉ levelKeys := by decide
  rw [Chip.uplinkOn, Chip.uplinkOn, c.fld_levels_ne _ _ _ (hk n hn)]

theorem Chip.uplinkEn_levels (n : Nat) (hn : n < 4) : c.levels.uplinkEn n = c.uplinkEn n := by
  have hk : ∀ n < 4, HDR.CTRL_EN.key (PageCls.uplink.base + n) ∉ levelKeys := by decide
  rw [Chip.uplinkEn, Chip.uplinkEn, c.hdr_levels_ne _ _ (hk n hn)]

theorem Chip.committed_levels : c.levels.committed = c.committed := by
  unfold Chip.committed
  rw [c.fld_levels_ne POWER.BASE_TOKENS 0 0 (by decide), c.fld_levels_ne POWER.RESERVE_FANOUT_RESERVE 0 0 (by decide), c.levels_parts.1]

theorem Chip.dramReady_levels : c.levels.dramReady = c.dramReady := by
  unfold Chip.dramReady Chip.on Chip.dom
  simp (disch := decide) only [Chip.fld_levels_ne]

theorem Chip.domainsReady_levels : c.levels.domainsReady = c.domainsReady := by
  have hall : ((List.range 4).all fun n => !c.levels.uplinkEn n || c.levels.uplinkOn n) =
      (List.range 4).all fun n => !c.uplinkEn n || c.uplinkOn n := by
    refine Bool.eq_iff_iff.mpr ?_
    simp only [List.all_eq_true, List.mem_range]
    exact forall₂_congr fun n hn => by rw [c.uplinkEn_levels n hn, c.uplinkOn_levels n hn]
  unfold Chip.domainsReady Chip.on Chip.dom
  simp (disch := decide) only [Chip.fld_levels_ne, hall]

theorem Chip.anyUplinkOn_levels : ((List.range 4).any fun n => c.levels.uplinkOn n) = (List.range 4).any fun n => c.uplinkOn n := by
  refine Bool.eq_iff_iff.mpr ?_
  simp only [List.any_eq_true, List.mem_range]
  exact exists_congr fun n => and_congr_right fun hn => by rw [c.uplinkOn_levels n hn]

theorem LeaveOp.index_lt (op : LeaveOp) : LeaveOp.index op < 8 := by cases op <;> simp only [LeaveOp.index] <;> decide

/-- One bit set from a truth value reads as that value. -/
theorem bit_mod_bne (b : Bool) : ((if b then 1 else 0) % 2 ^ 1 != 0) = b := by cases b <;> rfl

theorem Chip.quiescent_read : (c.readValue .hostq 0 HOSTQ.SQ_STATUS_STATE.off).testBit HOSTQ.SQ_STATUS_QUIESCENT.lo =
    c.sqQuiescent (c.fld HOSTQ.SQ_SEL_SQ) := by
  have hr : c.readValue .hostq 0 HOSTQ.SQ_STATUS_STATE.off =
    patch HOSTQ.SQ_STATUS_INFLIGHT (c.liveTags (c.fld HOSTQ.SQ_SEL_SQ)).length
      (patch HOSTQ.SQ_STATUS_BLOCKED (bitNat (c.crBp (c.sqCr (c.fld HOSTQ.SQ_SEL_SQ))))
        (patch HOSTQ.SQ_STATUS_QUIESCENT (bitNat (c.sqQuiescent (c.fld HOSTQ.SQ_SEL_SQ))) (c.plainRead .hostq 0 HOSTQ.SQ_STATUS_STATE.off))) := rfl
  rw [hr]
  generalize (c.liveTags (c.fld HOSTQ.SQ_SEL_SQ)).length = a
  generalize bitNat (c.crBp (c.sqCr (c.fld HOSTQ.SQ_SEL_SQ))) = b
  generalize c.plainRead .hostq 0 HOSTQ.SQ_STATUS_STATE.off = w
  cases hq : c.sqQuiescent (c.fld HOSTQ.SQ_SEL_SQ)
  all_goals
    rw [Nat.testBit, Nat.shiftRight_eq_div_pow]
    simp only [patch, bitsOf, bitNat, FieldRow.width, Nat.shiftRight_eq_div_pow, Nat.and_comm 1, Nat.and_one_is_mod, HOSTQ.SQ_STATUS_INFLIGHT, HOSTQ.SQ_STATUS_BLOCKED, HOSTQ.SQ_STATUS_QUIESCENT]
    simp
    omega

/-- The end of a step brings the levels in line with the state they follow. -/
theorem Chip.settle_levelsAgree : c.settle.LevelsAgree := by
  rw [Chip.settle]
  have hq : c.quiescentRise.hostq.allQ = c.quiescentRise.allQuiescent := by
    obtain ⟨g, w, h⟩ := c.quiescentRise_frame
    have hl : c.quiescentRise.hostq = { c.hostq with allQ := c.allQuiescent } := by rw [h]
    rw [Chip.allQuiescent, hl, c.tagQuiet_quiescentRise]
    rfl
  generalize c.quiescentRise = d at hq
  obtain ⟨hpower, hmodes, hhostq⟩ := d.levels_parts
  have hhead : d.levels.headReq = d.headReq := by rw [Chip.headReq, Chip.headReq, hpower]
  have lev (r : FieldRow) (v : Nat) (h : (r, v) ∈ d.levelValues) : d.levels.fld r = v % 2 ^ r.width :=
    d.fld_levels r v (List.mem_append_left _ h)
  refine { committed := ?_, waiting := ?_, reserveUsed := ?_, limit := ?_, headValid := ?_, headIndex := ?_, headPrio := ?_,
           uplinks := ?_, timeReady := ?_, dramReady := ?_, domainsReady := ?_, thermal := ?_, corePll := ?_, allQuiescent := ?_,
           quiescent := d.levels.quiescent_read }
  · rw [d.committed_levels]
    exact lev _ _ (by simp [Chip.levelValues])
  · rw [hpower]
    exact lev _ _ (by simp [Chip.levelValues])
  · rw [Chip.reserveUsed, hpower]
    exact lev POWER.RESERVE_RESERVE_USED d.reserveUsed (by simp [Chip.levelValues])
  · rw [d.fld_levels_ne POWER.CEILING_TOKENS 0 0 (by decide)]
    exact lev _ _ (by simp [Chip.levelValues])
  · rw [hhead, Chip.on, lev POWER.WAIT_HEAD_VALID (if d.headReq.isSome then 1 else 0) (by simp [Chip.levelValues])]
    exact bit_mod_bne _
  · intro r hr
    rw [lev POWER.WAIT_HEAD_INDEX (LeaveOp.index r.op) (by rw [hhead] at hr; simp [Chip.levelValues, hr])]
    exact Nat.mod_eq_of_lt (LeaveOp.index_lt _)
  · intro r hr
    exact lev POWER.WAIT_HEAD_PRIO r.prio (by rw [hhead] at hr; simp [Chip.levelValues, hr])
  · rw [d.anyUplinkOn_levels, Chip.dom, Domain.row, lev _ (if (List.range 4).any (fun n => d.uplinkOn n) then domON else domOFF) (by simp [Chip.levelValues])]
    split <;> rfl
  · have : d.levels.timeReady = d.timeReady := by
      unfold Chip.timeReady
      rw [d.fld_levels_ne _ 0 0 (by decide)]
    rw [this, Chip.on, lev GLOBAL.MODE_TIME_READY (if d.timeReady then 1 else 0) (by simp [Chip.levelValues])]
    exact bit_mod_bne _
  · rw [d.dramReady_levels, Chip.on, lev GLOBAL.ROLE_DRAM_READY (if d.dramReady then 1 else 0) (by simp [Chip.levelValues])]
    exact bit_mod_bne _
  · rw [d.domainsReady_levels, Chip.on, lev GLOBAL.MODE_DOMAINS_READY (if d.domainsReady then 1 else 0) (by simp [Chip.levelValues])]
    exact bit_mod_bne _
  · intro h
    rw [hmodes] at h
    exact d.fld_levels GLOBAL.SAFE_CAUSE_THERMAL 1 (by simp [Chip.heldCauses, h])
  · intro hl hd
    rw [hmodes] at hl
    rw [Chip.dom, Domain.row, d.fld_levels_ne _ 0 0 (by decide)] at hd
    exact d.fld_levels GLOBAL.SAFE_CAUSE_CORE_PLL 1 (by simp [Chip.heldCauses, hl, Chip.dom, Domain.row, hd])
  · rw [Chip.allQuiescent, hhostq, hq, d.tagQuiet_levels]
    rfl

/-- Settles O4: every next state is a settled block. -/
theorem levelsAgreeAfterEveryStep : Obligations.LevelsAgreeAfterEveryStep := by
  intro s t h
  obtain ⟨d, hd⟩ := step_next s t h
  rw [hd]
  exact d.settle_levelsAgree

/-- Settles O60: the state after reset lists no register cell, so each field reads its reset value. -/
theorem resetValues : Obligations.ResetValues := by
  refine ⟨rfl, rfl, rfl, fun _ => ⟨rfl, rfl⟩, fun _ _ => ⟨rfl, rfl⟩, fun _ _ => ⟨rfl, rfl⟩, fun _ _ => rfl, ?_⟩
  decide

/-- Refutes O5: right after reset the lock state reads FREE, with which the part is time ready (R106), while TIME_READY reads 0 until the
first step (assumption log, entry 24). -/
theorem not_levelsAgreeAtReset : ¬ Obligations.LevelsAgreeAtReset := fun h =>
  absurd h.timeReady (by decide)

end Sys2Proof.Machine
end

section
/-!
PROOF. One AON clock (R88): the counters that follow time leave time itself, the memories and what has been written to the host alone.
-/
namespace Sys2Proof.Machine

/-- `d` differs from `c` in the parts and cells that the counters of a clock write, and time stands in it as in `c`. -/
structure Chip.InClock (c d : Chip) : Prop where
  frame : c.Frame [.modes, .power, .whorl, .reel, .uplinks, .ply, .flyers, .freeCtr, .resetting] (fun _ => True) d
  now : d.now = c.now

variable {c d e : Chip}

theorem Chip.InClock.refl (c : Chip) : c.InClock c := ⟨.refl c, rfl⟩

theorem Chip.InClock.trans (h : c.InClock d) (h' : d.InClock e) : c.InClock e := ⟨h.frame.trans h'.frame, h'.now.trans h.now⟩

theorem Chip.InClock.setFld (h : c.InClock d) (r : FieldRow) (v n i : Nat) : c.InClock (d.setFld r v n i) :=
  ⟨h.frame.setFld _ _ _ _ trivial, h.now⟩

theorem Chip.InClock.raise (h : c.InClock d) (e : Evt) (n : Nat) : c.InClock (d.raise e n) :=
  ⟨h.frame.raise e n trivial, (congrArg Whorl.mono (d.raise_whorl e n)).trans h.now⟩

theorem Chip.InClock.withModes (h : c.InClock d) (x : Modes) : c.InClock { d with modes := x } := ⟨h.frame.withModes x (by decide), h.now⟩
theorem Chip.InClock.withPower (h : c.InClock d) (x : PowerMgr) : c.InClock { d with power := x } := ⟨h.frame.withPower x (by decide), h.now⟩
theorem Chip.InClock.withReel (h : c.InClock d) (x : Reel) : c.InClock { d with reel := x } := ⟨h.frame.withReel x (by decide), h.now⟩
theorem Chip.InClock.withPly (h : c.InClock d) (x : Ply) : c.InClock { d with ply := x } := ⟨h.frame.withPly x (by decide), h.now⟩
theorem Chip.InClock.withUplinks (h : c.InClock d) (x : Tab Uplink) : c.InClock { d with uplinks := x } :=
  ⟨h.frame.withUplinks x (by decide), h.now⟩
theorem Chip.InClock.withFlyers (h : c.InClock d) (x : Tab Flyer) : c.InClock { d with flyers := x } :=
  ⟨h.frame.withFlyers x (by decide), h.now⟩
theorem Chip.InClock.drawn (h : c.InClock d) : c.InClock d.drawn := ⟨h.frame.withFreeCtr _ (by decide), h.now⟩
theorem Chip.InClock.withWhorl (h : c.InClock d) (x : Whorl) (hm : x.mono = d.whorl.mono) : c.InClock { d with whorl := x } :=
  ⟨h.frame.withWhorl x (by decide), hm.trans h.now⟩

theorem Chip.InClock.foldl {α : Type} {f : Chip → α → Chip} (hf : ∀ (d : Chip) x, d.InClock (f d x)) (l : List α) (c : Chip) :
    c.InClock (l.foldl f c) := by
  induction l generalizing c with
  | nil => exact .refl c
  | cons x r ih => exact (hf c x).trans (ih _)

variable (c)

theorem Whorl.note_mono (w : Whorl) (a l : Nat) : (w.note a l).mono = w.mono := by
  unfold Whorl.note
  split <;> rfl

theorem Chip.slewTick_inClock (eff : Nat) : c.InClock (c.slewTick eff) := by
  unfold Chip.slewTick
  split
  · refine (Chip.InClock.refl c).withWhorl _ ?_
    simp only
    split_ifs <;> simp only [Whorl.note_mono]
  · exact .refl c

theorem Chip.markArm_inClock (k : Nat) : c.InClock (c.markArm k) := by
  have hset (m : Mark) : c.InClock (c.setMark k m) := (Chip.InClock.refl c).withWhorl _ rfl
  unfold Chip.markArm
  simp only
  split_ifs
  · exact (hset _).setFld _ _ _ _
  · exact ((((hset _).setFld _ _ _ _).setFld _ _ _ _).setFld _ _ _ _).raise _ _
  all_goals exact (hset _).setFld _ _ _ _

theorem Chip.marksTick_inClock : c.InClock c.marksTick := by
  refine .foldl (fun d k => ?_) _ c
  split
  · exact d.markArm_inClock k
  · exact .refl d

theorem Chip.laneWakeTick_inClock (l : Nat) : c.InClock (c.laneWakeTick l) := by
  unfold Chip.laneWakeTick
  simp only
  split
  · exact ((Chip.InClock.refl c).withModes _).raise _ _
  · exact .refl c

theorem Chip.distaffTick_inClock : c.InClock c.distaffTick := by
  unfold Chip.distaffTick
  split
  · exact (Chip.InClock.refl c).withModes _
  · exact .refl c

theorem Chip.wdogTick_inClock (eff : Nat) : c.InClock (c.wdogTick eff) := by
  unfold Chip.wdogTick
  simp only
  split_ifs
  · exact ((Chip.InClock.refl c).setFld _ _ _ _).withModes _
  · exact (Chip.InClock.refl c).withModes _
  · exact .refl c

theorem Chip.throttleTick_inClock (eff : Nat) : c.InClock (c.throttleTick eff) := by
  unfold Chip.throttleTick
  simp only
  split_ifs
  · exact ((Chip.InClock.refl c).withPower _).setFld _ _ _ _
  · exact (Chip.InClock.refl c).withPower _
  · exact .refl c

theorem Chip.releaseLeave_inClock (op : LeaveOp) : c.InClock (c.releaseLeave op) := by
  unfold Chip.releaseLeave Chip.ceilingJudge
  split
  · exact (Chip.InClock.refl c).withPower _
  · exact (Chip.InClock.refl c).withPower _

theorem Chip.bistTick_inClock : c.InClock c.bistTick := by
  unfold Chip.bistTick
  split
  · split_ifs
    · exact .refl c
    · exact (Chip.InClock.refl c).drawn.trans (Chip.releaseLeave_inClock _ _)
    · exact (Chip.InClock.refl c).drawn
  · exact .refl c

theorem Chip.plyTick_inClock (eff : Nat) : c.InClock (c.plyTick eff) := by
  unfold Chip.plyTick
  simp only
  split_ifs
  · exact (Chip.InClock.refl c).withPly _
  · exact ((Chip.InClock.refl c).withPly _).setFld _ _ _ _
  · exact ((Chip.InClock.refl c).withPly _).setFld _ _ _ _
  · exact .refl c

theorem Chip.pauseTick_inClock (n eff : Nat) : c.InClock (c.pauseTick n eff) := by
  unfold Chip.pauseTick
  simp only
  split_ifs
  · exact ((Chip.InClock.refl c).withUplinks _).setFld _ _ _ _
  · exact (Chip.InClock.refl c).withUplinks _
  · exact .refl c

theorem Chip.driverOff_inClock (n : Nat) : c.InClock (c.driverOff n) :=
  (((Chip.InClock.refl c).withFlyers _).withFlyers _).setFld _ _ _ _

theorem Chip.cleanEnd_inClock (n : Nat) : c.InClock (c.cleanEnd n) := by
  have hend (b : Prop) [Decidable b] : c.InClock (if b then (c.driverOff n).setFld FLYER.TX_STATUS_VIOL_RUN 0 n else c) := by
    split
    · exact (c.driverOff_inClock n).setFld _ _ _ _
    · exact .refl c
  unfold Chip.cleanEnd
  split
  · exact hend _
  · exact .refl c

theorem Chip.admitShow_inClock : c.InClock c.admitShow := by
  unfold Chip.admitShow
  split
  · exact .refl c
  · exact ((((Chip.InClock.refl c).withReel _).setFld _ _ _ _).setFld _ _ _ _).raise _ _

theorem Chip.clockTick_inClock : c.InClock c.clockTick := by
  have hclear : c.InClock { c with hwSet := [], resetting := [] } :=
    ⟨((Chip.Frame.refl c).regs c.regs [] fun _ _ _ => rfl).withResetting _ (by decide), rfl⟩
  exact ((hclear.setFld _ _ _ _).setFld _ _ _ _).trans (Chip.admitShow_inClock _)

/-- All that follows the advance of time in a clock keeps it. -/
theorem Chip.tick_inClock (h : c.mode ≠ mRESET) : (c.clockTick.timeTick c.incEff).InClock c.tick := by
  rw [Chip.tick, if_neg h]
  simp only
  generalize c.clockTick.timeTick c.incEff = t
  have lanes := Chip.InClock.foldl Chip.laneWakeTick_inClock (List.range 11)
  have pauses := Chip.InClock.foldl (fun d n => d.pauseTick_inClock n c.incEff) (List.range 4)
  have cleans := Chip.InClock.foldl Chip.cleanEnd_inClock (List.range 96)
  have hmarks := (t.slewTick_inClock c.incEff).trans (Chip.marksTick_inClock _)
  have hpower := ((hmarks.trans (lanes _)).trans (Chip.distaffTick_inClock _)).trans (Chip.wdogTick_inClock _ c.incEff)
  have hply := ((hpower.trans (Chip.throttleTick_inClock _ c.incEff)).trans (Chip.bistTick_inClock _)).trans (Chip.plyTick_inClock _ c.incEff)
  exact (hply.trans (pauses _)).trans (cleans _)

/-- Settles O2: the clock advances time by the clamped increment, and nothing after that moves it. -/
theorem emptyQueueTicks : Obligations.EmptyQueueTicks := by
  intro s hp hm
  obtain ⟨htick, hnow⟩ := s.chip.tick_inClock hm
  obtain ⟨hclock, hnow'⟩ := s.chip.clockTick_inClock
  have hinc : s.chip.incEff = (max 0x27F5C28F5C (min 0x280A3D70A4
      ((s.chip.fld64 WHORL.INC_LO_FRAC WHORL.INC_HI_NS : Int) + signed 32 (s.chip.fld WHORL.FREQ_ADJ)))).toNat := by
    simp only [Chip.incEff, Chip.incSum, Chip.fld64, incMin, incMax]
  have hstep := (step_nil hp).trans (run_eq Chip.tick s)
  refine ⟨_, hstep, hp, ?_⟩
  rw [State.chip_with, Chip.now, Chip.settle_aon, Chip.settle_whorl, Chip.settle_hostWrites, Chip.settle_dram, Chip.settle_segBuf]
  refine ⟨?_, ?_, ?_, ?_, ?_⟩
  · exact (htick.aon (by decide)).trans (congrArg (· + 1) (hclock.aon (by decide)))
  · rw [← hinc]
    exact hnow.trans (congrArg (· + s.chip.incEff) hnow')
  · exact (htick.hostWrites (by decide)).trans (hclock.hostWrites (by decide))
  · exact (htick.dram (by decide)).trans (hclock.dram (by decide))
  · exact (htick.segBuf (by decide)).trans (hclock.segBuf (by decide))

end Sys2Proof.Machine
end

section
/-!
PROOF. The end of a command: the SRAM injection takes its share of the change, and the levels are brought up to date. What both leave
alone, and how a change of the block becomes what a command answers.
-/
namespace Sys2Proof.Machine

/-- The block at the end of a command that has changed it from `b` to `d`. -/
def Chip.ended (b d : Chip) : Chip := (b.eccTake d).settle

section
variable (b d : Chip)

theorem run_ended (f : Chip → Chip) (s : State) : run f s = .next { s with chip := s.chip.ended (f s.chip) } := rfl

theorem Chip.ended_cell (k v : Nat) (h : k ∉ levelKeys) : Tab.get v (b.ended d).regs k = Tab.get v d.regs k := Chip.get_settle _ k v h

theorem Chip.ended_fld (q : FieldRow) (m j : Nat) (h : q.key m j ∉ levelKeys) : (b.ended d).fld q m j = d.fld q m j := b.ended_cell d _ _ h

theorem Chip.ended_on (q : FieldRow) (m j : Nat) (h : q.key m j ∉ levelKeys) : (b.ended d).on q m j = d.on q m j := by
  rw [Chip.on, Chip.on, b.ended_fld d q m j h]

theorem Chip.ended_hdr (q : HdrRow) (page : Nat) (h : q.key page ∉ levelKeys) : (b.ended d).hdr q page = d.hdr q page := b.ended_cell d _ _ h

theorem Chip.ended_raised (e : Evt) (n : Nat) (h : e.key n ∉ levelKeys) : (b.ended d).raised e n = d.raised e n :=
  Chip.raised_settle _ e n h

theorem Chip.ended_dom (dm : Domain) (h : (Domain.row dm).key 0 0 ∉ levelKeys) : (b.ended d).dom dm = d.dom dm := b.ended_fld d _ 0 0 h

@[simp] theorem Chip.ended_ports : (b.ended d).ports = d.ports := Chip.settle_ports _
@[simp] theorem Chip.ended_arms : (b.ended d).arms = d.arms := Chip.settle_arms _
@[simp] theorem Chip.ended_resetting : (b.ended d).resetting = d.resetting := Chip.settle_resetting _
@[simp] theorem Chip.ended_freeCtr : (b.ended d).freeCtr = d.freeCtr := Chip.settle_freeCtr _
@[simp] theorem Chip.ended_modes : (b.ended d).modes = d.modes := Chip.settle_modes _
@[simp] theorem Chip.ended_power : (b.ended d).power = d.power := Chip.settle_power _
@[simp] theorem Chip.ended_whorl : (b.ended d).whorl = d.whorl := Chip.settle_whorl _
@[simp] theorem Chip.ended_image : (b.ended d).image = d.image := Chip.settle_image _
@[simp] theorem Chip.ended_buffer : (b.ended d).buffer = d.buffer := Chip.settle_buffer _
@[simp] theorem Chip.ended_txOps : (b.ended d).txOps = d.txOps := Chip.settle_txOps _
@[simp] theorem Chip.ended_reel : (b.ended d).reel = d.reel := Chip.settle_reel _
@[simp] theorem Chip.ended_aon : (b.ended d).aon = d.aon := Chip.settle_aon _
@[simp] theorem Chip.ended_carder : (b.ended d).carder = d.carder := Chip.settle_carder _
@[simp] theorem Chip.ended_hankIn : (b.ended d).hankIn = d.hankIn := Chip.settle_hankIn _
@[simp] theorem Chip.ended_uplinks : (b.ended d).uplinks = d.uplinks := Chip.settle_uplinks _
@[simp] theorem Chip.ended_ply : (b.ended d).ply = d.ply := Chip.settle_ply _
@[simp] theorem Chip.ended_hank : (b.ended d).hank = d.hank := Chip.settle_hank _
@[simp] theorem Chip.ended_distaff : (b.ended d).distaff = d.distaff := Chip.settle_distaff _
@[simp] theorem Chip.ended_fates : (b.ended d).fates = d.fates := Chip.settle_fates _
@[simp] theorem Chip.ended_dram : (b.ended d).dram = d.dram := Chip.settle_dram _
@[simp] theorem Chip.ended_segs : (b.ended d).segs = d.segs := Chip.settle_segs _
@[simp] theorem Chip.ended_segTables : (b.ended d).segTables = d.segTables := Chip.settle_segTables _
@[simp] theorem Chip.ended_segBuf : (b.ended d).segBuf = d.segBuf := Chip.settle_segBuf _
@[simp] theorem Chip.ended_flyers : (b.ended d).flyers = d.flyers := Chip.settle_flyers _
@[simp] theorem Chip.ended_flyTables : (b.ended d).flyTables = d.flyTables := Chip.settle_flyTables _
@[simp] theorem Chip.ended_drift : (b.ended d).drift = d.drift := Chip.settle_drift _
@[simp] theorem Chip.ended_chain : (b.ended d).chain = d.chain := Chip.settle_chain _
@[simp] theorem Chip.ended_mirror : (b.ended d).mirror = d.mirror := Chip.settle_mirror _
@[simp] theorem Chip.ended_hostWrites : (b.ended d).hostWrites = d.hostWrites := Chip.settle_hostWrites _

/-- The queues of the host are as they were, but for the note of their quiescence. -/
theorem Chip.ended_hostq : ∃ q, (b.ended d).hostq = { d.hostq with allQ := q } := by
  obtain ⟨_, q, _, h⟩ := (b.eccTake d).settle_frame
  exact ⟨q, congrArg Chip.hostq h⟩

theorem Chip.ended_levelsAgree : (b.ended d).LevelsAgree := Chip.settle_levelsAgree _
end

section
variable {b c d : Chip} {i : Instr} {s : State} {f : Chip → Chip} {own : List Nat} {ok : Chip → Prop} {p : Port} {st : PortState}

theorem Chip.Tells.ended {e : Evt} {n : Nat} (h : c.Tells d e n) (hk : e.key n ∉ levelKeys) : c.Tells (b.ended d) e n :=
  Chip.Tells.settle h hk

theorem Chip.Counted.ended {page off : Nat} (h : c.Counted d page off p) : c.Counted (b.ended d) page off p := Chip.counted_settle h

theorem Chip.OnlyRegs.ended (h : c.OnlyRegs d own) : c.OnlyRegs (b.ended d) own := h.eccTake.settle

/-- An event raised after a change that leaves its domain alone is told. -/
theorem Chip.Frame.tells_raise {S : List Part} {K : Nat → Prop} (h : c.Frame S K d) (e : Evt) (n : Nat) (hb : e.bit < 32)
    (hk : ¬ K ((Domain.row e.cls.domain).key 0 0)) : c.Tells (d.raise e n) e n := Chip.tells_raise e n hb (h.domUp _ hk)

/-- An event that is told stays told in a change that does not clear it. -/
theorem Chip.Frame.tells {S : List Part} {K : Nat → Prop} {e : Chip} {v : Evt} {n : Nat} (h : d.Frame S K e) (ht : c.Tells d v n)
    (hk : ¬ K (v.key n)) : c.Tells e v n := fun hu => (h.raised v n hk).trans (ht hu)

theorem Chip.raised_raise_of_raised (e v : Evt) (n m : Nat) (hb : v.bit < 32) (h : d.raised v m = true) : (d.raise e n).raised v m = true := by
  unfold Chip.raise
  split
  · by_cases hpage : v.cls.base + m = e.cls.base + n
    · rw [Chip.raised, Chip.hdr_hwMark, hpage, Chip.hdr_setHdr_self, Nat.testBit_mod_two_pow, Nat.testBit_or]
      rw [Chip.raised, hpage] at h
      rw [h, Bool.true_or, Bool.and_true]
      exact decide_eq_true hb
    · rw [Chip.raised, Chip.hdr_hwMark, Chip.hdr_setHdr_ne]
      · exact h
      · simp only [HdrRow.key, cellKey, HDR.EVT]
        omega
  · exact h

/-- An event that is told stays told when another is raised. -/
theorem Chip.Tells.raise {v : Evt} {m : Nat} (h : c.Tells d v m) (hb : v.bit < 32) (e : Evt) (n : Nat) : c.Tells (d.raise e n) v m :=
  fun hu => d.raised_raise_of_raised e v n m hb (h hu)

theorem Chip.Tells.of_regs {e : Chip} {v : Evt} {m : Nat} (h : c.Tells d v m) (hr : e.regs = d.regs) : c.Tells e v m :=
  fun hu => by rw [Chip.raised, Chip.hdr, hr]; exact h hu

theorem Chip.Frame.now {S : List Part} {K : Nat → Prop} (h : c.Frame S K d) (hp : .whorl ∉ S) : d.now = c.now :=
  congrArg Whorl.mono (h.whorl hp)

theorem Chip.Frame.sameStores {S : List Part} {K : Nat → Prop} (h : c.Frame S K d)
    (hS : ∀ p ∈ [Part.dram, .segBuf, .segTables, .flyTables, .drift, .ports, .hostWrites, .aon], p ∉ S) (hnow : d.now = c.now) :
    c.SameStores d :=
  ⟨h.dram (hS _ (by simp)), h.segBuf (hS _ (by simp)), h.segTables (hS _ (by simp)), h.flyTables (hS _ (by simp)),
    h.drift (hS _ (by simp)), h.ports (hS _ (by simp)), h.hostWrites (hS _ (by simp)), h.aon (hS _ (by simp)), hnow⟩

theorem Chip.SameStores.ended (h : c.SameStores d) : c.SameStores (b.ended d) := by
  obtain ⟨h1, h2, h3, h4, h5, h6, h7, h8, h9⟩ := h
  exact ⟨(b.ended_dram d).trans h1, (b.ended_segBuf d).trans h2, (b.ended_segTables d).trans h3, (b.ended_flyTables d).trans h4,
    (b.ended_drift d).trans h5, (b.ended_ports d).trans h6, (b.ended_hostWrites d).trans h7, (b.ended_aon d).trans h8,
    (congrArg Whorl.mono (b.ended_whorl d)).trans h9⟩

theorem ends_of (h : exec i s = run f s) (hok : ok (s.chip.ended (f s.chip))) : Ends i s ok := ends_of_run h hok

theorem becomes_of (h : exec i s = run f s) (hd : c.Frame [.ecc] (· ∈ own) (f s.chip)) (hok : ok (s.chip.ended (f s.chip))) :
    Becomes i s c own ok := becomes_of_run h hd.onlyRegs hok

theorem setsRegs_of (h : exec i s = run f s) (hd : s.chip.Frame [.ecc] (· ∈ own) (f s.chip)) (hok : ok (s.chip.ended (f s.chip))) :
    SetsRegs i s own ok := becomes_of h hd hok

theorem setsPort_of (h : exec i s = run f s) (hd : (s.chip.setPort p st).Frame [.ecc] (· ∈ own) (f s.chip))
    (hok : ok (s.chip.ended (f s.chip))) : SetsPort i s p st own ok := setsPort_of_run h hd.onlyRegs hok

theorem idles_of (h : exec i s = run f s) (hf : f s.chip = s.chip) : Idles i s :=
  setsRegs_of h (by rw [hf]; exact .refl _) trivial

/-- A happening that has not come about changes nothing. -/
theorem idles_of_not_due {due : Chip → Bool} {g : Chip → Chip} (h : exec i s = run (fun c => c.whenDue (due c) g) s)
    (hdue : due s.chip = false) : Idles i s := idles_of h (s.chip.whenDue_false g hdue)
end

end Sys2Proof.Machine
end

section
/-!
PROOF. The thermal monitor (R421): a sample records the hottest sensor, warns, and judges the trip.
-/
namespace Sys2Proof.Machine

/-- A number that fits `w` bits as a signed one reads back from its code. -/
theorem signed_unsigned (w : Nat) (i : Int) (hlo : -(2 ^ w : Nat) ≤ 2 * i) (hhi : 2 * i < (2 ^ w : Nat)) : signed w (unsigned w i) = i := by
  have hpos : (0 : Int) < (2 ^ w : Nat) := by positivity
  have hcode : (unsigned w i : Int) = i % (2 ^ w : Nat) := Int.toNat_of_nonneg (Int.emod_nonneg _ hpos.ne')
  have hlt : unsigned w i < 2 ^ w := by
    have := Int.emod_lt_of_pos i hpos
    omega
  rw [signed, Nat.mod_eq_of_lt hlt]
  rcases lt_or_ge i 0 with hneg | hnn
  · have hwrap : i % (2 ^ w : Nat) = i + (2 ^ w : Nat) := by
      rw [← Int.add_emod_right, Int.emod_eq_of_lt (by omega) (by omega)]
    split <;> omega
  · have hsame : i % (2 ^ w : Nat) = i := Int.emod_eq_of_lt hnn (by omega)
    split <;> omega

theorem unsigned_lt (w : Nat) (i : Int) : unsigned w i < 2 ^ w := by
  have hpos : (0 : Int) < (2 ^ w : Nat) := by positivity
  have := Int.emod_lt_of_pos i hpos
  have := Int.emod_nonneg i hpos.ne'
  rw [unsigned]
  omega

/-- Of four sensors the hottest is found, with the number of the sensor that reads it. -/
theorem hottest_four (a b c d : Int) :
    let h := hottest [a, b, c, d]
    h.1 = max (max a b) (max c d) ∧ [a, b, c, d].getD h.2 0 = h.1 ∧ h.2 < 4 := by
  simp only [hottest, List.zipIdx_cons, List.zipIdx_nil, List.foldl_cons, List.foldl_nil, List.headD_cons]
  split_ifs <;> simp <;> omega

theorem toInt_bounds12 (t : BitVec 12) : -2048 ≤ t.toInt ∧ t.toInt < 2048 := by
  have := t.toInt_lt
  have := t.le_toInt
  omega

variable (c : Chip)

/-- The sample `m` of sensor `i` in THERM_TEMP, and the peak. -/
def Chip.thermRecorded (m : Int) (i : Nat) : Chip :=
  let c := (c.setFld GLOBAL.THERM_TEMP_MAX (unsigned 12 m)).setFld GLOBAL.THERM_TEMP_SENSOR i
  if signed 12 (c.fld GLOBAL.THERM_PEAK_MAX) < m then c.setFld GLOBAL.THERM_PEAK_MAX (unsigned 12 m) else c

/-- The warning that the sample `m` gives, and the note of it and of the sample's time. -/
def Chip.thermToldWarm (m : Int) : Chip :=
  let warn := decide ((c.fld GLOBAL.THERM_CFG_WARN : Int) ≤ m)
  let c := if warn && !c.modes.thermWarned then c.raise EV.GLOBAL_THERMAL_WARN else c
  { c with modes := { c.modes with thermWarned := warn, thermAt := c.now } }

/-- The judgement of the trip point after a sample `m` that follows `prev`. -/
def Chip.thermJudged (prev m : Int) : Chip :=
  if c.tripPoint ≤ m then
    let c := if prev < c.tripPoint ∨ ¬ c.modes.thermTripped then c.raise EV.GLOBAL_THERMAL_TRIP else c
    { c with modes := { c.modes with thermTripped := true } }
  else if c.modes.thermTripped && decide (m < c.clearPoint) then
    ({ c with modes := { c.modes with thermTripped := false } }).raise EV.GLOBAL_THERMAL_CLEAR
  else c

theorem Chip.thermalSample_eq (l : List Int) : c.thermalSample l =
    ((c.thermRecorded (hottest l).1 (hottest l).2).thermToldWarm (hottest l).1).thermJudged (signed 12 (c.fld GLOBAL.THERM_TEMP_MAX)) (hottest l).1 := rfl

theorem Chip.thermRecorded_frame (m : Int) (i : Nat) : c.Frame []
    (· ∈ [GLOBAL.THERM_TEMP_MAX, GLOBAL.THERM_TEMP_SENSOR, GLOBAL.THERM_PEAK_MAX].map fun r => r.key 0 0) (c.thermRecorded m i) := by
  unfold Chip.thermRecorded
  have h := ((Chip.Frame.refl c).setFld GLOBAL.THERM_TEMP_MAX (unsigned 12 m) 0 0 (K := (· ∈ [GLOBAL.THERM_TEMP_MAX, GLOBAL.THERM_TEMP_SENSOR, GLOBAL.THERM_PEAK_MAX].map fun r => r.key 0 0)) (S := []) (by decide)).setFld GLOBAL.THERM_TEMP_SENSOR i 0 0 (by decide)
  exact .ite (fun _ => h.setFld _ _ _ _ (by decide)) fun _ => h

theorem Chip.thermToldWarm_frame (m : Int) : c.Frame [.modes] (· = HDR.EVT.key 0) (c.thermToldWarm m) := by
  have htold (p : Prop) [Decidable p] : c.Frame [.modes] (· = HDR.EVT.key 0) (if p then c.raise EV.GLOBAL_THERMAL_WARN else c) :=
    .ite (fun _ => (Chip.Frame.refl c).raise _ _ rfl) fun _ => .refl c
  exact (htold _).withModes _ (by decide)

theorem Chip.thermJudged_frame (prev m : Int) : c.Frame [.modes] (· = HDR.EVT.key 0) (c.thermJudged prev m) := by
  have htold (p : Prop) [Decidable p] : c.Frame [.modes] (· = HDR.EVT.key 0) (if p then c.raise EV.GLOBAL_THERMAL_TRIP else c) :=
    .ite (fun _ => (Chip.Frame.refl c).raise _ _ rfl) fun _ => .refl c
  unfold Chip.thermJudged
  refine .ite (fun _ => (htold _).withModes _ (by decide)) fun _ => .ite (fun _ => ?_) fun _ => .refl c
  refine .raise ?_ _ _ rfl
  exact (Chip.Frame.refl c).withModes _ (by decide)

/-- The sample, its sensor and the peak, as their registers read. -/
theorem Chip.thermRecorded_reads (m : Int) (i : Nat) (hlo : -2048 ≤ m) (hhi : m < 2048) (hi : i < 4) :
    let d := c.thermRecorded m i
    signed 12 (d.fld GLOBAL.THERM_TEMP_MAX) = m ∧ d.fld GLOBAL.THERM_TEMP_SENSOR = i ∧
      signed 12 (d.fld GLOBAL.THERM_PEAK_MAX) = max (signed 12 (c.fld GLOBAL.THERM_PEAK_MAX)) m := by
  have hcode : signed 12 (unsigned 12 m % 2 ^ 12) = m := by
    rw [Nat.mod_eq_of_lt (unsigned_lt 12 m), signed_unsigned 12 m (by omega) (by omega)]
  have hpeak : ((c.setFld GLOBAL.THERM_TEMP_MAX (unsigned 12 m)).setFld GLOBAL.THERM_TEMP_SENSOR i).fld GLOBAL.THERM_PEAK_MAX =
      c.fld GLOBAL.THERM_PEAK_MAX := by
    simp (disch := decide) only [Chip.fld_setFld_ne]
  unfold Chip.thermRecorded
  simp only [hpeak]
  split
  all_goals
    simp (disch := decide) only [Chip.fld_setFld_ne, Chip.fld_setFld_self]
    refine ⟨hcode, Nat.mod_eq_of_lt hi, ?_⟩
  · rw [max_eq_right (by omega)]
    exact hcode
  · rw [max_eq_left (by omega)]

/-- What is told of the warning. -/
theorem Chip.thermToldWarm_tells (m : Int) (hw : (c.fld GLOBAL.THERM_CFG_WARN : Int) ≤ m) (hn : c.modes.thermWarned = false) :
    c.Tells (c.thermToldWarm m) EV.GLOBAL_THERMAL_WARN := by
  have ht : c.Tells (c.raise EV.GLOBAL_THERMAL_WARN) EV.GLOBAL_THERMAL_WARN := Chip.tells_raise _ _ (by decide) rfl
  unfold Chip.thermToldWarm
  simp only [hw, hn, decide_true, Bool.not_false, Bool.and_self, if_true]
  exact ht

theorem Chip.thermToldWarm_quiet (m : Int) (h : m < (c.fld GLOBAL.THERM_CFG_WARN : Int) ∨ c.modes.thermWarned = true) :
    (c.thermToldWarm m).regs = c.regs := by
  have hno : (decide ((c.fld GLOBAL.THERM_CFG_WARN : Int) ≤ m) && !c.modes.thermWarned) = false := by
    rcases h with h | h <;> simp [h]
  simp only [Chip.thermToldWarm, hno, Bool.false_eq_true, if_false]

theorem Chip.thermToldWarm_tripped (m : Int) : (c.thermToldWarm m).modes.thermTripped = c.modes.thermTripped := by
  unfold Chip.thermToldWarm
  simp only
  split
  · exact congrArg Modes.thermTripped (c.raise_modes _ _)
  · rfl

/-- At the trip point or above the trip is held, and told where the sample before lay below. -/
theorem Chip.thermJudged_trip (prev m : Int) (h : c.tripPoint ≤ m) : (c.thermJudged prev m).modes.thermTripped = true ∧
    (prev < c.tripPoint → c.Tells (c.thermJudged prev m) EV.GLOBAL_THERMAL_TRIP) := by
  unfold Chip.thermJudged
  rw [if_pos h]
  refine ⟨rfl, fun hp => ?_⟩
  have ht : c.Tells (c.raise EV.GLOBAL_THERMAL_TRIP) EV.GLOBAL_THERMAL_TRIP := Chip.tells_raise _ _ (by decide) rfl
  rw [if_pos (Or.inl hp)]
  exact ht

/-- A trip is held down to the clear point, and below it ends. -/
theorem Chip.thermJudged_hold (prev m : Int) (h : c.modes.thermTripped = true) :
    (c.clearPoint ≤ m → (c.thermJudged prev m).modes.thermTripped = true) ∧
      (m < c.clearPoint → c.clearPoint ≤ c.tripPoint → (c.thermJudged prev m).modes.thermTripped = false ∧
        c.Tells (c.thermJudged prev m) EV.GLOBAL_THERMAL_CLEAR) := by
  unfold Chip.thermJudged
  refine ⟨fun hc => ?_, fun hc hct => ?_⟩
  · split
    · rfl
    · rw [if_neg (by simp [hc])]
      exact h
  · rw [if_neg (by omega), if_pos (by simp [h, hc])]
    refine ⟨congrArg Modes.thermTripped (Chip.raise_modes _ _ _), ?_⟩
    exact Chip.Frame.tells_raise ((Chip.Frame.refl c).withModes (S := [.modes]) (K := fun _ => False) _ (by decide)) _ _ (by decide) not_false

theorem Chip.thermJudged_keeps_told {b : Chip} {e : Evt} (prev m : Int) (hb : e.bit < 32) (h : b.Tells c e) : b.Tells (c.thermJudged prev m) e := by
  unfold Chip.thermJudged
  split
  · refine Chip.Tells.of_regs (d := if prev < c.tripPoint ∨ ¬c.modes.thermTripped then c.raise EV.GLOBAL_THERMAL_TRIP else c) ?_ rfl
    split
    · exact h.raise hb _ _
    · exact h
  · split
    · refine Chip.Tells.raise ?_ hb _ _
      exact h.of_regs rfl
    · exact h

theorem Chip.thermJudged_quiet (prev m : Int) (h : m < c.tripPoint) (h' : c.modes.thermTripped = false ∨ c.clearPoint ≤ m) :
    c.thermJudged prev m = c := by
  unfold Chip.thermJudged
  rw [if_neg (by omega), if_neg (by rcases h' with h' | h' <;> simp [h'])]

theorem Chip.clearPoint_le : c.clearPoint ≤ c.tripPoint := by
  unfold Chip.clearPoint
  omega

theorem exec_thermalSample_eq (t0 t1 t2 t3 : BitVec 12) (s : State) : exec (.thermalSample t0 t1 t2 t3) s =
    run (fun c => c.whenDue (c.mode != mRESET && decide (c.modes.thermAt + 100 * usQ ≤ c.now)) fun d =>
      d.thermalSample [t0.toInt, t1.toInt, t2.toInt, t3.toInt]) s := rfl

theorem exec_thermPeakClear_eq (p : Port) (v : Word) (s : State) : exec (.thermPeakClear p v) s =
    run (fun c => c.accessField p GLOBAL.THERM_PEAK_CLEAR 0 fun d => d.peakWrite v.toNat) s := rfl

/-- Settles O57. -/
theorem thermalMonitor : Obligations.ThermalMonitor := by
  intro s t0 t1 t2 t3 p v c l m due trip clr prev
  refine ⟨fun hdue => ?_, fun hdue => ?_, fun hopen => ⟨fun hv => ?_, fun hv => ?_⟩⟩
  · obtain ⟨hmax, hsensor, hi⟩ := hottest_four t0.toInt t1.toInt t2.toInt t3.toInt
    have h0 := toInt_bounds12 t0
    have h1 := toInt_bounds12 t1
    have h2 := toInt_bounds12 t2
    have h3 := toInt_bounds12 t3
    have hdue' : (c.mode != mRESET && decide (c.modes.thermAt + 100 * usQ ≤ c.now)) = true := by simpa using hdue
    refine ends_of (exec_thermalSample_eq t0 t1 t2 t3 s) ?_
    rw [s.chip.whenDue_true _ hdue', Chip.thermalSample_eq]
    generalize hottest [t0.toInt, t1.toInt, t2.toInt, t3.toInt] = h at hmax hsensor hi ⊢
    obtain ⟨hm, i⟩ := h
    simp only at hmax hsensor hi ⊢
    subst hmax
    have hrec := s.chip.thermRecorded_frame m i
    have hreads := s.chip.thermRecorded_reads m i (by omega) (by omega) hi
    generalize s.chip.thermRecorded m i = r at hrec hreads ⊢
    have hwarm := r.thermToldWarm_frame m
    have htold := r.thermToldWarm_tells m
    have hquiet := r.thermToldWarm_quiet m
    have htrip' := r.thermToldWarm_tripped m
    generalize r.thermToldWarm m = w at hwarm htold hquiet htrip' ⊢
    have hjudged := w.thermJudged_frame prev m
    have hjtrip := w.thermJudged_trip prev m
    have hjhold := w.thermJudged_hold prev m
    have hjquiet := w.thermJudged_quiet prev m
    have hpoint : w.tripPoint = trip := by
      rw [Chip.tripPoint, hwarm.fld _ 0 0 (by decide), hrec.fld _ 0 0 (by decide)]
    have hclear : w.clearPoint = clr := by
      rw [Chip.clearPoint, hpoint, hwarm.fld _ 0 0 (by decide), hrec.fld _ 0 0 (by decide)]
    have htripped : w.modes.thermTripped = c.modes.thermTripped := by rw [htrip', hrec.modes (by decide)]
    have hle := w.clearPoint_le
    rw [hpoint, hclear] at hle
    rw [hpoint] at hjtrip
    rw [hclear, hpoint, htripped] at hjhold
    rw [hpoint, hclear, htripped] at hjquiet
    rw [hrec.fld GLOBAL.THERM_CFG_WARN 0 0 (by decide), hrec.modes (by decide)] at htold hquiet
    have hquiet' (h : m < (c.fld GLOBAL.THERM_CFG_WARN : Int) ∨ c.modes.thermWarned = true) (h' : m < trip)
        (h'' : c.modes.thermTripped = false ∨ clr ≤ m) : (w.thermJudged prev m).hdr HDR.EVT 0 = r.hdr HDR.EVT 0 := by
      rw [hjquiet h' h'', Chip.hdr, Chip.hdr, hquiet h]
    have tells {e : Evt} (h : w.Tells (w.thermJudged prev m) e) (hd : w.domUp e.cls.domain = c.domUp e.cls.domain) : c.Tells (w.thermJudged prev m) e :=
      fun hu => h (hd.trans hu)
    have hkeep (hw : (c.fld GLOBAL.THERM_CFG_WARN : Int) ≤ m) (hn : c.modes.thermWarned = false) :
        c.Tells (w.thermJudged prev m) EV.GLOBAL_THERMAL_WARN :=
      w.thermJudged_keeps_told prev m (by decide) fun hu => htold hw hn ((hrec.domUp .aon (by decide)).trans hu)
    change let d := s.chip.ended (w.thermJudged prev m); _
    generalize w.thermJudged prev m = j at hjudged hjtrip hjhold hquiet' tells hkeep ⊢
    have hall := hwarm.trans hjudged
    have hup : w.domUp .aon = c.domUp .aon := (hwarm.domUp .aon (by decide)).trans (hrec.domUp .aon (by decide))
    have hcause (h : j.modes.thermTripped = true) : (c.ended j).fld GLOBAL.SAFE_CAUSE_THERMAL = 1 :=
      (c.ended_levelsAgree j).thermal (by rw [Chip.ended_modes, h])
    refine ⟨?_, ?_, ?_, fun hw hn => ?_, fun ht => ⟨hcause (hjtrip ht).1, fun hp => ?_⟩, fun ht hc => hcause ((hjhold ht).1 hc),
      fun ht hc => ⟨?_, ?_⟩, fun h h' h'' => ?_, ?_, ?_⟩
    · rw [Chip.ended_fld _ _ _ _ _ (by decide), hall.fld _ 0 0 (by decide)]
      exact hreads.1
    · rw [Chip.ended_fld _ _ _ _ _ (by decide), hall.fld _ 0 0 (by decide), hreads.2.1]
      exact hsensor
    · rw [Chip.ended_fld _ _ _ _ _ (by decide), hall.fld _ 0 0 (by decide)]
      exact hreads.2.2
    · exact Chip.Tells.ended (hkeep hw hn) (by decide)
    · exact Chip.Tells.ended (tells ((hjtrip ht).2 hp) hup) (by decide)
    · rw [Chip.ended_modes]
      exact ((hjhold ht).2 hc hle).1
    · exact Chip.Tells.ended (tells ((hjhold ht).2 hc hle).2 hup) (by decide)
    · rw [Chip.ended_hdr _ _ _ _ (by decide)]
      exact (hquiet' h h' h'').trans (hrec.hdr _ _ (by decide))
    · exact Chip.SameStores.ended (((hrec.mono (by decide) fun _ h => Or.inl h).trans (hall.mono (L := fun k => _ ∨ k = HDR.EVT.key 0) (by decide) fun _ h => Or.inr h)).sameStores (S := [.modes]) (by decide) ((hall.now (by decide)).trans (hrec.now (by decide))))
    · rw [Chip.ended_power, hall.power (by decide), hrec.power (by decide)]
  · have hdue' : (c.mode != mRESET && decide (c.modes.thermAt + 100 * usQ ≤ c.now)) = false := by
      simp only [Bool.and_eq_false_iff, bne_eq_false_iff_eq, decide_eq_false_iff_not]
      exact not_and_or.mp (by simpa [due] using hdue) |>.imp (fun h => not_not.mp h) id
    exact idles_of_not_due (exec_thermalSample_eq t0 t1 t2 t3 s) hdue'
  · have hwrite : c.accessField p GLOBAL.THERM_PEAK_CLEAR 0 (fun d => d.peakWrite v.toNat) = c.setFld GLOBAL.THERM_PEAK_MAX (c.fld GLOBAL.THERM_TEMP_MAX) := by
      rw [c.accessField_open hopen, Chip.peakWrite, if_pos hv]
    refine setsRegs_of (exec_thermPeakClear_eq p v s) ?_ ?_
    · rw [hwrite]
      exact (Chip.Frame.refl c).setFld _ _ _ _ (by decide)
    · rw [hwrite, Chip.ended_fld _ _ _ _ _ (by decide)]
      exact Chip.fld_setFld_self _ _ _ _ _
  · refine idles_of (exec_thermPeakClear_eq p v s) ?_
    rw [s.chip.accessField_open hopen, Chip.peakWrite, if_neg (by omega)]

end Sys2Proof.Machine
end

section
/-!
PROOF. The register path where nothing is in its way: an access to an open page is the page's own, and a refused write is one count and one
event.
-/
namespace Sys2Proof.Machine

variable {c d : Chip} {p : Port} {cls : PageCls} {n : Nat}

/-- A write through an open page is the write of the page's register. -/
theorem Chip.regWrite_open (h : c.Open p cls n) {addr off : Nat} (ha : addr = (cls.base + n) * 4096 + off) (ho : off < 4096) (v : Nat) :
    c.regWrite p addr v = c.portWrite p cls n off v := by
  have hpage : addr / 4096 = cls.base + n := by omega
  have hoff : addr % 4096 = off := by omega
  rw [Chip.regWrite, hpage, hoff, c.access_open h]
  simp only [h.page]

theorem exec_registerWrite_eq {addr : PageAddr} (h4 : addr.toNat % 4 = 0) (p : Port) (v : Word) (s : State) :
    exec (.registerWrite p addr v) s = run (fun c => c.regWrite p addr.toNat v.toNat) s := by
  rw [exec, execRegisterWrite, runAligned_eq h4]

theorem exec_hiWriteCommit_eq {addr : PageAddr} (h4 : addr.toNat % 4 = 0) (p : Port) (v : Word) (s : State) :
    exec (.hiWriteCommit p addr v) s = run (fun c => c.regWrite p addr.toNat v.toNat) s := by
  rw [exec, execHiWriteCommit, runAligned_eq h4]

theorem exec_loWriteStage_eq {addr : PageAddr} (h4 : addr.toNat % 4 = 0) (p : Port) (v : Word) (s : State) :
    exec (.loWriteStage p addr v) s = run (fun c => c.regWrite p addr.toNat v.toNat) s := by
  rw [exec, execLoWriteStage, runAligned_eq h4]

/-- A write of a register past the header that is half of no pair. -/
theorem Chip.portWrite_single {off : Nat} (ho : 0x040 ≤ off) (hlo : cls.isLo off = false) (hhi : cls.isHi off = false) (v : Nat) :
    c.portWrite p cls n off v = c.judgedRegWrite p cls n off v := by
  rw [Chip.portWrite, if_neg (by omega), hlo, hhi]
  rfl

/-! ### A refused write -/

theorem evt_not_errKeys (e : Evt) (m page : Nat) : e.key m ∉ errKeys page := by
  intro h
  simp only [errKeys, List.mem_cons, List.not_mem_nil, or_false, Evt.key, HdrRow.key, cellKey, HDR.ERRCNT_COUNT, HDR.ERRCNT_LAST_OFFSET,
    HDR.ERRCNT_LAST_PORT, HDR.EVT] at h
  omega

theorem Chip.Counted.raise {page off : Nat} (h : c.Counted d page off p) (e : Evt) (m : Nat) : c.Counted (d.raise e m) page off p := by
  have keep (r : HdrRow) (hr : r.key page ∈ errKeys page) : (d.raise e m).hdr r page = d.hdr r page :=
    d.get_raise_ne e m _ fun hk => evt_not_errKeys e m page (hk ▸ hr)
  obtain ⟨h1, h2, h3⟩ := h
  exact ⟨(keep _ (by simp [errKeys])).trans h1, (keep _ (by simp [errKeys])).trans h2, (keep _ (by simp [errKeys])).trans h3⟩

/-- No domain's state is a cell of a PAGE_ERRCNT. -/
theorem domRow_not_errKeys (dm : Domain) (page : Nat) : (Domain.row dm).key 0 0 ∉ errKeys page := by
  intro h
  have hoff : (Domain.row dm).key 0 0 / 65536 / 32 % 4096 = 0x40 := by cases dm <;> decide
  simp only [errKeys, List.mem_cons, List.not_mem_nil, or_false, HdrRow.key, cellKey, HDR.ERRCNT_COUNT, HDR.ERRCNT_LAST_OFFSET,
    HDR.ERRCNT_LAST_PORT] at h
  omega

/-- A refused write is counted, and its event raised. -/
theorem Chip.refused_frame (c : Chip) (e : Evt) (m page off : Nat) (p : Port) :
    c.Frame [.ecc] (· ∈ e.key m :: errKeys page) ((c.errcnt page off p).raise e m) :=
  ((Chip.Frame.refl c).errcnt page off p fun _ hk => List.mem_cons_of_mem _ hk).raise e m List.mem_cons_self

theorem Chip.refused_tells (c : Chip) (e : Evt) (m page off : Nat) (p : Port) (hb : e.bit < 32) :
    c.Tells ((c.errcnt page off p).raise e m) e m :=
  ((Chip.Frame.refl c).errcnt (S := []) (K := (· ∈ errKeys page)) page off p fun _ hk => hk).tells_raise e m hb (domRow_not_errKeys _ _)

section
variable {i : Instr} {s : State} {f : Chip → Chip}

theorem setsRegs_of_refused {e : Evt} {m page off : Nat} (h : exec i s = run f s) (hf : f s.chip = (s.chip.errcnt page off p).raise e m)
    (hb : e.bit < 32) (ho : off < 4096) (hk : e.key m ∉ levelKeys) :
    SetsRegs i s (e.key m :: errKeys page) fun d => s.chip.Counted d page off p ∧ s.chip.Tells d e m := by
  refine setsRegs_of h ?_ ⟨?_, ?_⟩
  · rw [hf]
    exact s.chip.refused_frame e m page off p
  · rw [hf]
    exact ((s.chip.counted_errcnt page off p ho).raise e m).ended
  · rw [hf]
    exact (s.chip.refused_tells e m page off p hb).ended hk

theorem setsRegs_of_counted {page off : Nat} (h : exec i s = run f s) (hf : f s.chip = s.chip.errcnt page off p) (ho : off < 4096) :
    SetsRegs i s (errKeys page) fun d => s.chip.Counted d page off p := by
  refine setsRegs_of h ?_ ?_
  · rw [hf]
    exact (Chip.Frame.refl _).errcnt page off p fun _ hk => hk
  · rw [hf]
    exact (s.chip.counted_errcnt page off p ho).ended

/-- A one-bit flag that hardware sets. -/
theorem setsRegs_of_flag {r : FieldRow} {n j : Nat} (h : exec i s = run f s) (hf : f s.chip = s.chip.flag r 1 n j)
    (hw : r.width = 1) (hk : r.key n j ∉ levelKeys) :
    SetsRegs i s [r.key n j] fun d => d.fld r n j = 1 := by
  refine setsRegs_of h ?_ ?_
  · rw [hf]
    exact (Chip.Frame.refl _).flag r 1 n j (List.mem_singleton.mpr rfl)
  · rw [hf, Chip.ended_fld _ _ _ _ _ hk]
    exact Chip.fld_flag_self _ _ _ _ hw

/-- One field that takes a value. -/
theorem setsRegs_of_setFld {r : FieldRow} {v n j : Nat} (h : exec i s = run f s) (hf : f s.chip = s.chip.setFld r v n j)
    (hk : r.key n j ∉ levelKeys) : SetsRegs i s [r.key n j] fun d => d.fld r n j = v % 2 ^ r.width := by
  refine setsRegs_of h ?_ ?_
  · rw [hf]
    exact (Chip.Frame.refl _).setFld r v n j (List.mem_singleton.mpr rfl)
  · rw [hf, Chip.ended_fld _ _ _ _ _ hk]
    exact Chip.fld_setFld_self _ _ _ _ _
end

end Sys2Proof.Machine
end

section
/-!
PROOF. Mode commands (R54): what they are refused for, and what ENTER_SAFE and RUN set.
-/
namespace Sys2Proof.Machine

theorem bitsOf_mode_key (key : BitVec 16) (code : Nat) (hc : code < 16) : bitsOf (key.toNat * 2 ^ 16 + code) 31 16 = key.toNat := by
  have := key.isLt
  rw [bitsOf, Nat.shiftRight_eq_div_pow]
  omega

theorem bitsOf_mode_code (key : BitVec 16) (code : Nat) (hc : code < 16) : bitsOf (key.toNat * 2 ^ 16 + code) 3 0 = code := by
  rw [bitsOf, Nat.shiftRight_zero]
  omega

variable {c : Chip} {p : Port}

theorem Chip.modeCmd_wrongKey (v : Nat) (reset : Chip → Chip) (h : bitsOf v 31 16 ≠ 0x4D44) :
    c.modeCmd p v reset = (c.refuse GLOBAL.MODE_CMD_KEY p).raise EV.GLOBAL_MODE_CMD_REFUSED := by
  rw [Chip.modeCmd, if_neg h]

theorem Chip.modeCmd_noRow (v : Nat) (reset : Chip → Chip) (h : c.modeRow (bitsOf v 3 0) reset = none) :
    c.modeCmd p v reset = (c.refuse GLOBAL.MODE_CMD_KEY p).raise EV.GLOBAL_MODE_CMD_REFUSED := by
  rw [Chip.modeCmd, h, ite_self]

theorem Chip.modeCmd_row {d : Chip} (v : Nat) (reset : Chip → Chip) (hk : bitsOf v 31 16 = 0x4D44)
    (h : c.modeRow (bitsOf v 3 0) reset = some d) : c.modeCmd p v reset = d := by
  rw [Chip.modeCmd, if_pos hk, h]

/-- The rows of Table 02.3 that do not apply. -/
theorem Chip.modeRow_reserved (code : Nat) (reset : Chip → Chip) (h : code ∉ [0x1, 0x2, 0x3, 0x5, 0x6, 0xF]) : c.modeRow code reset = none := by
  simp only [List.mem_cons, List.not_mem_nil, or_false, not_or] at h
  obtain ⟨h1, h2, h3, h5, h6, hF⟩ := h
  simp only [Chip.modeRow, h1, h2, h3, h5, h6, hF, if_false, ite_self]

theorem Chip.modeRow_run (reset : Chip → Chip) (h : c.mode ≠ mACQUIRE) : c.modeRow 0x3 reset = none := by
  simp [Chip.modeRow, h]

theorem Chip.modeRow_acquire (reset : Chip → Chip) (h : c.mode ≠ mSTANDBY) : c.modeRow 0x2 reset = none := by
  simp [Chip.modeRow, h]

theorem Chip.modeRow_exitSafe (reset : Chip → Chip) (h : c.mode ≠ mSAFE ∨ c.safeCause ≠ 0) : c.modeRow 0x6 reset = none := by
  have : ¬ (c.mode = mSAFE ∧ c.safeCause = 0) := fun ⟨h1, h2⟩ => h.elim (· h1) (· h2)
  simp [Chip.modeRow, this]

theorem Chip.modeRow_sleep (reset : Chip → Chip) (h : c.mode = mSTANDBY ∨ (c.mode = mSAFE ∧ c.safeCause ≠ 0) ∨
    (c.mode ≠ mSAFE ∧ c.maySleep = false)) : c.modeRow 0x1 reset = none := by
  have : ¬ (((c.mode = mACQUIRE ∨ c.running) ∧ c.maySleep) ∨ (c.mode = mSAFE ∧ c.safeCause = 0)) := by
    rintro (⟨hm, hs⟩ | ⟨hm, hs⟩)
    · have hrun : c.running = true → c.mode = mRUN ∨ c.mode = mHOLDOVER := by simp [Chip.running]
      rcases h with h | ⟨h, -⟩ | ⟨-, h⟩
      · rcases hm with hm | hm
        · rw [h] at hm; exact absurd hm (by decide)
        · rcases hrun hm with hm | hm <;> (rw [h] at hm; exact absurd hm (by decide))
      · rcases hm with hm | hm
        · rw [h] at hm; exact absurd hm (by decide)
        · rcases hrun hm with hm | hm <;> (rw [h] at hm; exact absurd hm (by decide))
      · rw [h] at hs; exact absurd hs (by decide)
    · rcases h with h | ⟨-, h⟩ | ⟨h, -⟩
      · rw [h] at hm; exact absurd hm (by decide)
      · exact h hs
      · exact h hm
  simp [Chip.modeRow, this]

/-- A mode command of the opcode table on an open page. -/
theorem Chip.modeCode_open (h : c.Open p .global 0) (code : Nat) (key : BitVec 16) (reset : Chip → Chip) :
    c.modeCode p code key reset = c.modeCmd p (key.toNat * 2 ^ 16 + code) reset := c.accessField_open h _

/-- A write of MODE_CMD through the register path. -/
theorem Chip.regWrite_modeCmd (h : c.Open p .global 0) (v : Nat) : c.regWrite p 0x48 v = c.modeCmd p v Chip.deviceResetFree := by
  rw [Chip.regWrite_open h (addr := 0x48) (off := 0x48) rfl (by decide), Chip.portWrite_single (by decide) (by decide) (by decide)]
  rfl

section
variable {s : State} {i : Instr}

/-- A command whose code or key has no row is refused. -/
theorem setsRegs_of_modeRefused {f : Chip → Chip} (h : exec i s = run f s)
    (hf : f s.chip = (s.chip.refuse GLOBAL.MODE_CMD_KEY p).raise EV.GLOBAL_MODE_CMD_REFUSED) :
    SetsRegs i s (EV.GLOBAL_MODE_CMD_REFUSED.key 0 :: errKeys 0) fun d =>
      s.chip.Counted d 0 0x048 p ∧ s.chip.Tells d EV.GLOBAL_MODE_CMD_REFUSED :=
  setsRegs_of_refused h hf (by decide) (by decide) (by decide)

theorem setsRegs_of_modeCode_refused {code : Nat} {key : BitVec 16} {reset : Chip → Chip}
    (hopen : s.chip.Open p .global 0) (h : exec i s = run (fun c => c.modeCode p code key reset) s) (hc : code < 16)
    (hno : key ≠ 0x4D44 ∨ s.chip.modeRow code reset = none) :
    SetsRegs i s (EV.GLOBAL_MODE_CMD_REFUSED.key 0 :: errKeys 0) fun d =>
      s.chip.Counted d 0 0x048 p ∧ s.chip.Tells d EV.GLOBAL_MODE_CMD_REFUSED := by
  refine setsRegs_of_modeRefused h ?_
  rw [Chip.modeCode_open hopen]
  rcases hno with hk | hrow
  · refine Chip.modeCmd_wrongKey _ _ ?_
    rw [bitsOf_mode_key key code hc]
    exact fun h => hk (BitVec.eq_of_toNat_eq h)
  · exact Chip.modeCmd_noRow _ _ (by rw [bitsOf_mode_code key code hc]; exact hrow)
end

theorem exec_modeCmdSleep_eq (p : Port) (key : BitVec 16) (s : State) :
    exec (.modeCmdSleep p key) s = run (fun c => c.modeCode p 0x1 key Chip.deviceResetFree) s := rfl
theorem exec_modeCmdAcquire_eq (p : Port) (key : BitVec 16) (s : State) :
    exec (.modeCmdAcquire p key) s = run (fun c => c.modeCode p 0x2 key Chip.deviceResetFree) s := rfl
theorem exec_modeCmdRun_eq (p : Port) (key : BitVec 16) (s : State) :
    exec (.modeCmdRun p key) s = run (fun c => c.modeCode p 0x3 key Chip.deviceResetFree) s := rfl
theorem exec_modeCmdEnterSafe_eq (p : Port) (key : BitVec 16) (s : State) :
    exec (.modeCmdEnterSafe p key) s = run (fun c => c.modeCode p 0x5 key Chip.deviceResetFree) s := rfl
theorem exec_modeCmdExitSafe_eq (p : Port) (key : BitVec 16) (s : State) :
    exec (.modeCmdExitSafe p key) s = run (fun c => c.modeCode p 0x6 key Chip.deviceResetFree) s := rfl
theorem exec_deviceReset_eq (p : Port) (key : BitVec 16) (st : Straps) (ok : Bool) (s : State) :
    exec (.deviceReset p key st ok) s = run (fun c => c.modeCode p 0xF key fun d => d.deviceReset st ok) s := rfl

/-- A mode command with the key, whose row applies. -/
theorem Chip.modeCode_row {d : Chip} (h : c.Open p .global 0) {code : Nat} (hc : code < 16) {reset : Chip → Chip}
    (hrow : c.modeRow code reset = some d) : c.modeCode p code 0x4D44 reset = d := by
  rw [Chip.modeCode_open h]
  exact Chip.modeCmd_row _ _ (bitsOf_mode_key _ code hc) (by rw [bitsOf_mode_code _ code hc]; exact hrow)

/-- Settles O13: by the key or the row that a command lacks. -/
theorem modeCommands : Obligations.ModeCommands := by
  refine ⟨fun s p key st ok i hopen hcase => ?_, fun s p hopen => ⟨?_, fun hm hs => ?_⟩⟩
  · rcases hcase with ⟨hkey, hi⟩ | ⟨v, rfl, hcode⟩ | ⟨rfl, hm⟩ | ⟨rfl, hm⟩ | ⟨rfl, hm⟩ | ⟨rfl, hm⟩
    · simp only [List.mem_cons, List.not_mem_nil, or_false] at hi
      rcases hi with rfl | rfl | rfl | rfl | rfl | rfl
      · exact setsRegs_of_modeCode_refused hopen (exec_modeCmdSleep_eq p key s) (by decide) (Or.inl hkey)
      · exact setsRegs_of_modeCode_refused hopen (exec_modeCmdAcquire_eq p key s) (by decide) (Or.inl hkey)
      · exact setsRegs_of_modeCode_refused hopen (exec_modeCmdRun_eq p key s) (by decide) (Or.inl hkey)
      · exact setsRegs_of_modeCode_refused hopen (exec_modeCmdEnterSafe_eq p key s) (by decide) (Or.inl hkey)
      · exact setsRegs_of_modeCode_refused hopen (exec_modeCmdExitSafe_eq p key s) (by decide) (Or.inl hkey)
      · exact setsRegs_of_modeCode_refused hopen (exec_deviceReset_eq p key st ok s) (by decide) (Or.inl hkey)
    · refine setsRegs_of_modeRefused (exec_registerWrite_eq rfl p v s) ?_
      exact (Chip.regWrite_modeCmd hopen v.toNat).trans (Chip.modeCmd_noRow _ _ (Chip.modeRow_reserved _ _ hcode))
    · exact setsRegs_of_modeCode_refused hopen (exec_modeCmdRun_eq p key s) (by decide) (Or.inr (Chip.modeRow_run _ hm))
    · exact setsRegs_of_modeCode_refused hopen (exec_modeCmdAcquire_eq p key s) (by decide) (Or.inr (Chip.modeRow_acquire _ hm))
    · exact setsRegs_of_modeCode_refused hopen (exec_modeCmdExitSafe_eq p key s) (by decide) (Or.inr (Chip.modeRow_exitSafe _ hm))
    · exact setsRegs_of_modeCode_refused hopen (exec_modeCmdSleep_eq p key s) (by decide) (Or.inr (Chip.modeRow_sleep _ hm))
  · exact setsRegs_of_flag (exec_modeCmdEnterSafe_eq p _ s) (Chip.modeCode_row hopen (by decide) rfl) rfl (by decide)
  · refine setsRegs_of_setFld (v := 1) (exec_modeCmdRun_eq p _ s) (Chip.modeCode_row hopen (by decide) ?_) (by decide)
    simp [Chip.modeRow, Chip.safeDue, hs, hm]

end Sys2Proof.Machine
end

section
/-!
PROOF. Accesses to pages whose domain is down, or asleep in LIGHT (R52, R69, R70).
-/
namespace Sys2Proof.Machine

variable {c d : Chip} {p : Port} {cls : PageCls} {n : Nat}

/-- A change of a port's data and of registers, seen from the block with the new data. -/
theorem Chip.Frame.sincePorts {K : Nat → Prop} (h : c.Frame [.ecc, .ports] K d) : ({ c with ports := d.ports } : Chip).Frame [.ecc] K d := by
  refine ⟨fun q hq => ?_, h.cell⟩
  by_cases hp : q = .ports
  · subst hp
    exact rfl
  · have hsame : q.Same c d := h.part q (by simp only [List.mem_cons, List.not_mem_nil, or_false, not_or] at hq ⊢; exact ⟨hq, hp⟩)
    cases q <;> first | exact absurd rfl hp | exact hsame

theorem setsPort_of_frame {i : Instr} {s : State} {f : Chip → Chip} {own : List Nat} {ok : Chip → Prop} {st : PortState}
    (h : exec i s = run f s) (hd : s.chip.Frame [.ecc, .ports] (· ∈ own) (f s.chip)) (hst : (f s.chip).portState p = st)
    (hq : ∀ q, q ≠ p → (f s.chip).portState q = s.chip.portState q) (hok : ok (s.chip.ended (f s.chip))) : SetsPort i s p st own ok := by
  have hstate (q : Port) : (s.chip.ended (f s.chip)).portState q = (f s.chip).portState q := by
    rw [Chip.portState, Chip.ended_ports, Chip.portState]
  have honly : ({ s.chip with ports := (s.chip.ended (f s.chip)).ports } : Chip).OnlyRegs (s.chip.ended (f s.chip)) own := by
    rw [Chip.ended_ports]
    exact Chip.OnlyRegs.ended hd.sincePorts.onlyRegs
  rw [SetsPort, h, run_ended]
  refine ⟨_, rfl, rfl, honly, ?_, ?_, hok⟩
  · rw [State.chip_with, hstate, hst]
  · intro q hp
    rw [State.chip_with, hstate, hq q hp]

/-! ### Domains that are down -/

/-- An access to a page that is down does nothing but the count of R52, where no unseal is armed. -/
theorem Chip.access_down (hr : c.reaches p = true) (hpage : pageOf (cls.base + n) = some (cls, n)) (harm : c.armOf p (cls.base + n) = none)
    (hdown : c.domUp cls.domain = false) (keepArm : Bool) (f : Chip → Chip) : c.access p (cls.base + n) keepArm f = c.offDomain := by
  have hd : c.disarmBy p (cls.base + n) = c := by simp [Chip.disarmBy, harm]
  simp [Chip.access, hr, hpage, hdown, hd]

theorem Chip.offDomain_frame (c : Chip) :
    c.Frame [] (· ∈ [GLOBAL.OFF_DOMAIN_CNT_COUNT.key 0 0, EV.GLOBAL_OFF_DOMAIN_ACCESS.key 0]) c.offDomain :=
  ((Chip.Frame.refl c).bump _ _ _ (by decide)).raise _ _ (by decide)

theorem Chip.offDomain_counts (c : Chip) :
    c.offDomain.fld GLOBAL.OFF_DOMAIN_CNT_COUNT = min (c.fld GLOBAL.OFF_DOMAIN_CNT_COUNT + 1) (2 ^ 32 - 1) ∧
      c.Tells c.offDomain EV.GLOBAL_OFF_DOMAIN_ACCESS := by
  constructor
  · rw [Chip.offDomain, Chip.fld_raise_ne _ _ _ _ _ _ (by decide)]
    exact (c.fld_setFld_self _ _ _ _).trans (Nat.mod_eq_of_lt (Nat.lt_of_le_of_lt (Nat.min_le_right _ _) (by decide)))
  · exact ((Chip.Frame.refl c).bump (S := []) (K := (· = GLOBAL.OFF_DOMAIN_CNT_COUNT.key 0 0)) _ _ _ rfl).tells_raise _ _ (by decide) (by decide)

theorem exec_offDomainAccess_eq {addr : PageAddr} (h4 : addr.toNat % 4 = 0) (p : Port) (w : Option Word) (s : State) :
    exec (.offDomainAccess p addr w) s = run (fun c => c.regAccess p addr.toNat w) s := by
  rw [exec, execOffDomainAccess, runAligned_eq h4]

theorem exec_lightDomainAccess_eq {addr : PageAddr} (h4 : addr.toNat % 4 = 0) (p : Port) (w : Option Word) (s : State) :
    exec (.lightDomainAccess p addr w) s = run (fun c => c.regAccess p addr.toNat w) s := by
  rw [exec, execLightDomainAccess, runAligned_eq h4]

/-- The port's data after an access: a read clears it before anything else happens. -/
def Chip.readCleared (c : Chip) (p : Port) (w : Option Word) : Chip :=
  if w.isNone then c.setPort p { c.portState p with data := 0 } else c

theorem Chip.regAccess_down (hr : c.reaches p = true) (hpage : pageOf (cls.base + n) = some (cls, n))
    (harm : c.armOf p (cls.base + n) = none) (hdown : c.domUp cls.domain = false) {addr off : Nat}
    (ha : addr = (cls.base + n) * 4096 + off) (ho : off < 4096) (w : Option Word) :
    c.regAccess p addr w = (c.readCleared p w).offDomain := by
  have hdiv : addr / 4096 = cls.base + n := by omega
  cases w with
  | none =>
    have hr' : (c.setPort p { c.portState p with data := 0 }).reaches p = true := hr
    rw [Chip.regAccess, Chip.regRead, hdiv]
    simp only [hr, if_true]
    exact Chip.access_down hr' hpage harm hdown _ _
  | some v =>
    rw [Chip.regAccess, Chip.regWrite, hdiv]
    exact Chip.access_down hr hpage harm hdown _ _

theorem Chip.readCleared_frame (c : Chip) (p : Port) (w : Option Word) (K : Nat → Prop) : c.Frame [.ecc, .ports] K (c.readCleared p w) :=
  .ite (fun _ => (Chip.Frame.refl c).withPorts _ (by decide)) fun _ => .refl c

theorem Chip.readCleared_portState (c : Chip) (p : Port) (w : Option Word) :
    (c.readCleared p w).portState p = (if w.isNone then { c.portState p with data := 0 } else c.portState p) ∧
      ∀ q, q ≠ p → (c.readCleared p w).portState q = c.portState q := by
  unfold Chip.readCleared
  split
  · exact ⟨c.portState_setPort_self _ _, fun q hq => c.portState_setPort_ne _ hq⟩
  · exact ⟨rfl, fun _ _ => rfl⟩

theorem Chip.offDomain_portState (c : Chip) (q : Port) : c.offDomain.portState q = c.portState q := by
  rw [Chip.portState, c.offDomain_frame.ports (by decide), Chip.portState]

/-! ### LIGHT -/

/-- The block with the lanes of CORE awake, and WAKE_DONE raised. -/
def Chip.awake (c : Chip) : Chip :=
  ({ c with modes := { c.modes with laneLight := [], lightFrom := c.now } }).raise EV.POWER_WAKE_DONE

theorem Chip.awake_frame (c : Chip) : c.Frame [.modes] (· = EV.POWER_WAKE_DONE.key 0) c.awake := by
  refine .raise ?_ _ _ rfl
  exact (Chip.Frame.refl c).withModes _ (by decide)

theorem Chip.awake_modes (c : Chip) : c.awake.modes = { c.modes with laneLight := [], lightFrom := c.now } := Chip.raise_modes _ _ _

theorem Chip.wakeLight_core (hcls : cls.domain = .core) (hon : c.dom .core = domON) (hl : c.coreLight = true) :
    c.wakeLight cls = c.awake := by
  have hp : c.pageLight cls = true := by simp [Chip.pageLight, hcls, hl]
  have hnl : (c.dom cls.domain == domLIGHT) = false := by rw [hcls, hon]; rfl
  simp only [Chip.wakeLight, hp, if_true, hnl, Bool.false_eq_true, if_false]
  rfl

theorem Chip.awake_tells (c : Chip) : c.Tells c.awake EV.POWER_WAKE_DONE :=
  ((Chip.Frame.refl c).withModes (S := [.modes]) (K := fun _ => False) { c.modes with laneLight := [], lightFrom := c.now } (by decide)).tells_raise
    _ _ (by decide) id

theorem Chip.awake_core (hon : c.dom .core = domON) : c.awake.dom .core = domON := (c.awake_frame.dom _ (by decide)).trans hon

theorem Chip.awake_reaches (c : Chip) (p : Port) : c.awake.reaches p = c.reaches p := by
  have hf := c.awake_frame
  have hmode : c.awake.mode = c.mode := hf.fld _ 0 0 (by decide)
  simp only [Chip.reaches, hmode, c.awake_modes]
  cases p
  · simp only [hf.dom .host (by decide)]
  · rfl
  · simp only [hf.fld GLOBAL.ROLE_ROLE 0 0 (by decide), hf.on HANK.CFG_REMOTE_EN 0 0 (by decide), hf.hank (by decide)]
  · simp only [hf.fld GLOBAL.IMAGE_STATUS_STATE 0 0 (by decide)]

/-- Raising an event and a change of a port's data are independent. -/
theorem Chip.raise_setPort (c : Chip) (p : Port) (st : PortState) (e : Evt) (n : Nat) :
    (c.setPort p st).raise e n = (c.raise e n).setPort p st := by
  unfold Chip.raise
  have hup : (c.setPort p st).domUp e.cls.domain = c.domUp e.cls.domain := rfl
  rw [hup]
  cases c.domUp e.cls.domain <;> rfl

/-- Waking the lanes and clearing a port's data are independent. -/
theorem Chip.awake_setPort (c : Chip) (p : Port) (st : PortState) : (c.setPort p st).awake = c.awake.setPort p st :=
  Chip.raise_setPort { c with modes := { c.modes with laneLight := [], lightFrom := c.now } } p st EV.POWER_WAKE_DONE 0

theorem Chip.awake_portState (c : Chip) (p : Port) : c.awake.portState p = c.portState p := by
  rw [Chip.portState, c.awake_frame.ports (by decide), Chip.portState]

/-- A page of CORE is open once its lanes are awake. -/
theorem Chip.awake_open (hr : c.reaches p = true) (hpage : pageOf (cls.base + n) = some (cls, n)) (hcls : cls.domain = .core)
    (hon : c.dom .core = domON) (harm : c.armOf p (cls.base + n) = none) : c.awake.Open p cls n where
  reaches := (c.awake_reaches p).trans hr
  page := hpage
  unarmed := by rw [Chip.armOf, c.awake_frame.arms (by decide)]; exact harm
  up := by rw [Chip.domUp, hcls, Chip.awake_core hon]; rfl
  awake := by rw [Chip.pageLight, hcls, Chip.awake_core hon, Chip.coreLight, Chip.awake_modes]; rfl

/-- An access to an asleep page of CORE is what the same access does once the lanes are awake. -/
theorem Chip.access_light (hr : c.reaches p = true) (hpage : pageOf (cls.base + n) = some (cls, n)) (hcls : cls.domain = .core)
    (hon : c.dom .core = domON) (hl : c.coreLight = true) (harm : c.armOf p (cls.base + n) = none) (keepArm : Bool) (f : Chip → Chip) :
    c.access p (cls.base + n) keepArm f = c.awake.access p (cls.base + n) keepArm f := by
  rw [Chip.access_open _ (Chip.awake_open hr hpage hcls hon harm)]
  have hup : c.domUp cls.domain = true := by rw [Chip.domUp, hcls, hon]; rfl
  have hd : c.disarmBy p (cls.base + n) = c := by simp [Chip.disarmBy, harm]
  simp [Chip.access, hr, hpage, hup, hd, Chip.wakeLight_core hcls hon hl]

theorem Chip.regAccess_light (hr : c.reaches p = true) (hpage : pageOf (cls.base + n) = some (cls, n)) (hcls : cls.domain = .core)
    (hon : c.dom .core = domON) (hl : c.coreLight = true) (harm : c.armOf p (cls.base + n) = none) {addr off : Nat}
    (ha : addr = (cls.base + n) * 4096 + off) (ho : off < 4096) (w : Option Word) :
    c.regAccess p addr w = c.awake.regAccess p addr w := by
  have hdiv : addr / 4096 = cls.base + n := by omega
  cases w with
  | none =>
    have hr' : (c.setPort p { c.portState p with data := 0 }).reaches p = true := hr
    rw [Chip.regAccess, Chip.regAccess, Chip.regRead, Chip.regRead, hdiv]
    simp only [hr, c.awake_reaches, if_true]
    rw [c.awake_portState, ← c.awake_setPort]
    exact Chip.access_light hr' hpage hcls hon hl harm _ _
  | some v =>
    rw [Chip.regAccess, Chip.regAccess, Chip.regWrite, Chip.regWrite, hdiv]
    exact Chip.access_light hr hpage hcls hon hl harm _ _

/-! ### The end of a step and the SRAM error record -/

theorem Chip.raise_withEcc (c : Chip) (x : Ecc) (e : Evt) (n : Nat) :
    ({ c with ecc := x } : Chip).raise e n = { c.raise e n with ecc := x } := by
  unfold Chip.raise
  have hup : ({ c with ecc := x } : Chip).domUp e.cls.domain = c.domUp e.cls.domain := rfl
  rw [hup]
  cases c.domUp e.cls.domain <;> rfl

theorem Chip.setAll_withEcc (c : Chip) (e : Ecc) (l : List (FieldRow × Nat)) :
    ({ c with ecc := e } : Chip).setAll l = { c.setAll l with ecc := e } := by
  induction l generalizing c with
  | nil => rfl
  | cons x r ih => exact ih (c.setFld x.1 x.2)

/-- The levels follow nothing of the SRAM error record. -/
theorem Chip.settle_withEcc (c : Chip) (e : Ecc) : ({ c with ecc := e } : Chip).settle = { c.settle with ecc := e } := by
  have hq : ({ c with ecc := e } : Chip).quiescentRise = { c.quiescentRise with ecc := e } := by
    have ha : ({ c with ecc := e } : Chip).allQuiescent = c.allQuiescent := rfl
    cases hr : c.allQuiescent && !c.hostq.allQ <;>
      simp only [Chip.quiescentRise, ha, hr, if_true, Bool.false_eq_true, if_false, Chip.raise_withEcc]
  rw [Chip.settle, hq, Chip.settle, Chip.levels]
  exact Chip.setAll_withEcc _ _ _

theorem Chip.ended_ecc_eq (b b' d : Chip) : b.ended d = { b'.ended d with ecc := (b.ended d).ecc } := by
  have h (x : Chip) : x.ended d = { d.settle with ecc := (x.eccTake d).ecc } := Chip.settle_withEcc d _
  rw [h b, h b']

/-! ### PAGE_ID of the CARDER page -/

/-- A read of CARDER.PAGE_ID with the lanes awake. -/
theorem Chip.pageRead_carderId (c : Chip) (p : Port) :
    c.pageRead p .carder 0 0 = c.setPort p { c.portState p with data := 0x20 + 2 ^ 16 + 2 ^ 20 } := by
  have hgood : ∀ w, c.shows .carder 0 0 w = false := by
    intro w
    cases w with
    | table => rfl
    | frame => rfl
    | work => rfl
    | cell a k => cases a <;> rfl
  have hwin : c.windowRead .carder 0 0 = c := by
    rw [Chip.windowRead, c.sramRead_good none _ fun b _ => by rw [hgood]; rfl]
    rfl
  rw [Chip.pageRead, hwin]
  rfl

/-- A read of CARDER.PAGE_ID where the page is open: the port's data is cleared, then filled. -/
theorem Chip.regAccess_carderId (h : c.Open p .carder 0) :
    ∃ (x : Tab PortState) (st : PortState), c.regAccess p (PageCls.carder.base * 4096) none = { c with ports := x } ∧
      (c.regAccess p (PageCls.carder.base * 4096) none).portState p = { st with data := 0x20 + 2 ^ 16 + 2 ^ 20 } := by
  have h' : (c.setPort p { c.portState p with data := 0 }).Open p .carder 0 := ⟨h.reaches, h.page, h.unarmed, h.up, h.awake⟩
  have hread : c.regAccess p (PageCls.carder.base * 4096) none = (c.setPort p { c.portState p with data := 0 }).setPort p
      { (c.setPort p { c.portState p with data := 0 }).portState p with data := 0x20 + 2 ^ 16 + 2 ^ 20 } := by
    rw [Chip.regAccess, Chip.regRead]
    simp only [h.reaches, if_true]
    exact (Chip.access_open _ h' false _).trans (Chip.pageRead_carderId _ p)
  rw [hread]
  exact ⟨_, _, rfl, Chip.portState_setPort_self _ _ _⟩

/-- Settles O9: a page that is down does nothing but count, and a page of CORE in LIGHT is accessed as if its lanes were awake. -/
theorem downAndLightDomains : Obligations.DownAndLightDomains := by
  unfold Obligations.DownAndLightDomains
  refine ⟨?_, ?_, ?_⟩
  · intro s p cls n off addr w hr hpage harm hdown ha ho h4
    have hf := Chip.regAccess_down hr hpage harm hdown ha ho w
    obtain ⟨hself, hother⟩ := s.chip.readCleared_portState p w
    obtain ⟨hcount, htells⟩ := (s.chip.readCleared p w).offDomain_counts
    have hclear (K : Nat → Prop) := s.chip.readCleared_frame p w K
    refine setsPort_of_frame (exec_offDomainAccess_eq (by omega) p w s) ?_ ?_ ?_ ?_
    · rw [hf]
      exact (hclear _).andThen (Chip.offDomain_frame _) (by simp) fun _ hk => hk
    · rw [hf, Chip.offDomain_portState, hself]
    · intro q hq
      rw [hf, Chip.offDomain_portState, hother q hq]
    · rw [hf]
      refine ⟨?_, Chip.Tells.ended ?_ (by decide)⟩
      · rw [Chip.ended_fld _ _ _ _ _ (by decide), hcount, (hclear fun _ => False).fld _ _ _ id]
      · intro hu
        exact htells (((hclear fun _ => False).domUp _ id).trans hu)
  · intro s p cls n off addr w hr hpage hcls hon hl harm ha ho h4
    have hf := Chip.regAccess_light hr hpage hcls hon hl harm ha ho w
    have hmod : addr.toNat % 4 = 0 := by omega
    refine ⟨_, _, (exec_lightDomainAccess_eq hmod p w s).trans (run_ended _ _), (exec_lightDomainAccess_eq hmod p w _).trans (run_ended _ _),
      rfl, ?_⟩
    simp only
    rw [hf]
    exact Chip.ended_ecc_eq _ _ _
  · intro s p addr hr hon hl harm ha
    obtain ⟨x, st, hread, hdata⟩ := Chip.regAccess_carderId (Chip.awake_open (cls := .carder) (n := 0) hr rfl rfl hon harm)
    have hf : s.chip.regAccess p addr.toNat none = s.chip.awake.regAccess p (PageCls.carder.base * 4096) none := by
      rw [← ha]
      exact Chip.regAccess_light (cls := .carder) (n := 0) hr rfl rfl hon hl harm (off := 0) ha (by decide) none
    have hframe : s.chip.Frame [.modes, .ports] (· = EV.POWER_WAKE_DONE.key 0) (s.chip.regAccess p addr.toNat none) := by
      rw [hf, hread]
      exact (s.chip.awake_frame.mono (by simp) fun _ hk => hk).withPorts _ (by decide)
    refine ends_of (exec_lightDomainAccess_eq (by omega) p none s) ⟨?_, ?_, ?_, ?_, ?_⟩
    · rw [Chip.ended_modes, hf, hread]
      exact s.chip.awake_modes
    · rw [Chip.portState, Chip.ended_ports, ← Chip.portState, hf, hdata]
    · refine Chip.Tells.ended ?_ (by decide)
      rw [hf, hread]
      exact Chip.Tells.of_regs (s.chip.awake_tells) rfl
    · intro k v hk hl
      rw [Chip.ended_cell _ _ _ _ hl]
      exact hframe.cell k (by simpa using hk) v
    · exact ⟨(Chip.ended_dram _ _).trans (hframe.dram (by decide)), (Chip.ended_segBuf _ _).trans (hframe.segBuf (by decide)),
        (Chip.ended_buffer _ _).trans (hframe.buffer (by decide)), (Chip.ended_power _ _).trans (hframe.power (by decide))⟩

end Sys2Proof.Machine
end

section
/-!
PROOF. The SPI target (R410, R411): a transaction with a good header has the effects of its access through the port SPI.
-/
namespace Sys2Proof.Machine

variable {c d : Chip}

/-! ### Changes of the port's own data and status -/

/-- `x` is `d` but for the data and the status of the port SPI. -/
structure Chip.SpiSame (d x : Chip) : Prop where
  ports : ∃ q : Tab PortState, x = { d with ports := q }
  others : ∀ q, q ≠ .spi → x.portState q = d.portState q
  latched : (x.portState .spi).latched = (d.portState .spi).latched
  staged : (x.portState .spi).staged = (d.portState .spi).staged

theorem Chip.SpiSame.refl (d : Chip) : d.SpiSame d := ⟨⟨d.ports, rfl⟩, fun _ _ => rfl, rfl, rfl⟩

/-- The port's state takes another data word or status. -/
theorem Chip.SpiSame.setPort {x : Chip} (h : d.SpiSame x) (st : PortState) (hl : st.latched = (x.portState .spi).latched)
    (hs : st.staged = (x.portState .spi).staged) : d.SpiSame (x.setPort .spi st) := by
  obtain ⟨⟨q, rfl⟩, hothers, hlatched, hstaged⟩ := h
  refine ⟨⟨_, rfl⟩, fun q hq => (Chip.portState_setPort_ne _ _ hq).trans (hothers q hq), ?_, ?_⟩
  · rw [Chip.portState_setPort_self, hl, hlatched]
  · rw [Chip.portState_setPort_self, hs, hstaged]

theorem Chip.SpiSame.frame {x : Chip} (h : d.SpiSame x) (K : Nat → Prop) : d.Frame [.ecc, .ports] K x := by
  obtain ⟨⟨q, rfl⟩, -⟩ := h
  exact (Chip.Frame.refl d).withPorts q (by decide)

theorem Part.Same.symm {q : Part} (h : q.Same c d) : q.Same d c := by
  cases q <;> exact Eq.symm h

theorem Chip.Frame.symm {S : List Part} {K : Nat → Prop} (h : c.Frame S K d) : d.Frame S K c :=
  ⟨fun q hq => (h.part q hq).symm, fun k hk v => (h.cell k hk v).symm⟩

/-- What a command's end adds on one side is nothing but levels. -/
theorem Chip.OnlyRegs.fromEnded {own : List Nat} {b x : Chip} (q : Tab PortState) (h : ({ x with ports := q } : Chip).OnlyRegs d own) :
    ({ b.ended x with ports := q } : Chip).OnlyRegs d own := by
  obtain ⟨⟨g, a, w, e, hx⟩, hcells⟩ := h
  obtain ⟨⟨g', a', w', e', hx'⟩, hcells'⟩ := (Chip.OnlyRegs.refl x []).ended (b := b)
  refine ⟨⟨g, a, w, e, ?_⟩, fun k v hk hl => (hcells k v hk hl).trans (hcells' k v (by simp) hl).symm⟩
  rw [hx, hx']

/-- The transaction `i` has the effects of the access `j`, but for the data and status of the port SPI and the cells `own`. -/
def SpiCarries (i j : Instr) (s : State) (own : List Nat) (ok : State → State → Prop) : Prop :=
  ∃ t u, exec i s = .next t ∧ exec j s = .next u ∧ t.pending = s.pending ∧
    ({ u.chip with ports := t.chip.ports } : Chip).OnlyRegs t.chip own ∧
    (∀ q, q ≠ .spi → t.chip.portState q = u.chip.portState q) ∧
    (t.chip.portState .spi).latched = (u.chip.portState .spi).latched ∧
    (t.chip.portState .spi).staged = (u.chip.portState .spi).staged ∧ ok t u

theorem Chip.ended_portState (b d : Chip) (q : Port) : (b.ended d).portState q = d.portState q := by
  rw [Chip.portState, Chip.ended_ports, Chip.portState]

section
variable {i j : Instr} {s : State} {f g : Chip → Chip} {own : List Nat} {ok : State → State → Prop}

/-- A transaction whose access changes the block as the access alone does, with the port's own answer `x`, and cells of `own`. -/
theorem spiCarries_of {a x : Chip} (hi : exec i s = run f s) (hj : exec j s = run g s) (hg : a.SpiSame (g s.chip)) (hx : a.SpiSame x)
    (hf : x.Frame [.ecc] (· ∈ own) (f s.chip))
    (hok : ok { s with chip := s.chip.ended (f s.chip) } { s with chip := s.chip.ended (g s.chip) }) : SpiCarries i j s own ok := by
  have hstate (q : Port) : (f s.chip).portState q = x.portState q := by
    rw [Chip.portState, hf.ports (by decide), Chip.portState]
  have hframe : (g s.chip).Frame [.ecc, .ports] (· ∈ own) (f s.chip) :=
    ((hg.frame _).symm.trans (hx.frame _)).andThen hf (by simp) fun _ hk => hk
  have honly : ({ s.chip.ended (g s.chip) with ports := (s.chip.ended (f s.chip)).ports } : Chip).OnlyRegs (s.chip.ended (f s.chip)) own := by
    rw [Chip.ended_ports]
    exact Chip.OnlyRegs.fromEnded _ (Chip.OnlyRegs.ended hframe.sincePorts.onlyRegs)
  refine ⟨_, _, hi.trans (run_ended f s), hj.trans (run_ended g s), rfl, honly, ?_, ?_, ?_, hok⟩
  · intro q hq
    rw [State.chip_with, State.chip_with, Chip.ended_portState, Chip.ended_portState, hstate, hx.others q hq, hg.others q hq]
  · rw [State.chip_with, State.chip_with, Chip.ended_portState, Chip.ended_portState, hstate, hx.latched, hg.latched]
  · rw [State.chip_with, State.chip_with, Chip.ended_portState, Chip.ended_portState, hstate, hx.staged, hg.staged]
end

/-! ### A transaction's answer -/

theorem Chip.portState_spiStatus (c : Chip) (v : Nat) : (c.spiStatus v).portState .spi = { c.portState .spi with status := v } :=
  Chip.portState_setPort_self _ _ _

/-- The answer of an access that has its status octet, or has not got so far. -/
def Chip.spiAnswered (c : Chip) (p : Prop) [Decidable p] : Chip := if p then c.spiStatus 0xA5 else c

theorem Chip.spiAnswered_same (c : Chip) (p : Prop) [Decidable p] : c.SpiSame (c.spiAnswered p) := by
  unfold Chip.spiAnswered
  split
  · exact (Chip.SpiSame.refl c).setPort _ rfl rfl
  · exact .refl c

theorem Chip.portState_spiAnswered (c : Chip) (p : Prop) [Decidable p] :
    (c.spiAnswered p).portState .spi = { c.portState .spi with status := if p then 0xA5 else (c.portState .spi).status } := by
  unfold Chip.spiAnswered
  split
  · exact c.portState_spiStatus _
  · rfl

/-- The port keeps the data it had before the access. -/
def Chip.spiData (c : Chip) (old : Nat) : Chip := c.setPort .spi { c.portState .spi with data := old }

theorem Chip.portState_spiData (c : Chip) (old : Nat) : (c.spiData old).portState .spi = { c.portState .spi with data := old } :=
  Chip.portState_setPort_self _ _ _

theorem Chip.SpiSame.spiData {x : Chip} (h : d.SpiSame x) (old : Nat) : d.SpiSame (x.spiData old) := h.setPort _ rfl rfl

theorem Chip.SpiSame.spiStatus {x : Chip} (h : d.SpiSame x) (v : Nat) : d.SpiSame (x.spiStatus v) := h.setPort _ rfl rfl

section
variable {addr len waits : Nat} {w : Option Word}

/-- The octets before the status: address, and a write's data. -/
def spiHead (w : Option Word) : Nat := if w.isSome then 8 else 4

theorem Chip.spiAccess_done (h : waits < 32 ∨ len < spiHead w + 33) (hw : w.isSome ∨ 9 + waits ≤ len) :
    c.spiAccess addr len waits w = (c.regAccess .spi addr w).spiAnswered (waits < 32 ∧ spiHead w + waits + 1 ≤ len) := by
  unfold spiHead at *
  unfold Chip.spiAccess Chip.spiAnswered
  rw [if_neg (by omega)]
  simp only
  rw [if_neg]
  cases w with
  | none => simp at hw ⊢; omega
  | some v => simp

theorem Chip.spiAccess_cut (h : waits < 32 ∨ len < 37) (hw : len < 9 + waits) :
    c.spiAccess addr len waits none =
      (((c.regAccess .spi addr none).spiAnswered (waits < 32 ∧ 4 + waits + 1 ≤ len)).spiData (c.portState .spi).data).spiError := by
  unfold Chip.spiAccess Chip.spiAnswered Chip.spiData
  rw [if_neg (by simp; omega)]
  simp only
  rw [if_pos (by simp; omega)]
  rfl

theorem Chip.spiAccess_late (h : 32 ≤ waits) (hl : spiHead w + 33 ≤ len) :
    c.spiAccess addr len waits w = (((c.regAccess .spi addr w).spiData (c.portState .spi).data).spiStatus 0xE2).spiError := by
  unfold Chip.spiAccess
  exact if_pos ⟨h, hl⟩
end

/-! ### The error count -/

def spiErrKeys : List Nat := [GLOBAL.SPI_ERRORS_COUNT.key 0 0, EV.GLOBAL_SPI_ERROR.key 0]

theorem Chip.spiError_frame (c : Chip) : c.Frame [.ecc] (· ∈ spiErrKeys) c.spiError :=
  ((Chip.Frame.refl c).bump _ _ _ (by decide)).raise _ _ (by decide)

theorem Chip.spiError_counts (c : Chip) :
    c.spiError.fld GLOBAL.SPI_ERRORS_COUNT = min (c.fld GLOBAL.SPI_ERRORS_COUNT + 1) (2 ^ 32 - 1) ∧
      c.Tells c.spiError EV.GLOBAL_SPI_ERROR := by
  constructor
  · rw [Chip.spiError, Chip.fld_raise_ne _ _ _ _ _ _ (by decide)]
    exact (c.fld_setFld_self _ _ _ _).trans (Nat.mod_eq_of_lt (Nat.lt_of_le_of_lt (Nat.min_le_right _ _) (by decide)))
  · exact ((Chip.Frame.refl c).bump (S := []) (K := (· = GLOBAL.SPI_ERRORS_COUNT.key 0 0)) _ _ _ rfl).tells_raise _ _ (by decide) (by decide)

/-- One more error than `c` counts, and told. -/
def Chip.SpiErred (c d : Chip) : Prop :=
  d.fld GLOBAL.SPI_ERRORS_COUNT = min (c.fld GLOBAL.SPI_ERRORS_COUNT + 1) (2 ^ 32 - 1) ∧ c.Tells d EV.GLOBAL_SPI_ERROR

theorem Chip.SpiErred.ended {b b' u x : Chip} (h : u.Frame [.ecc, .ports] (fun _ => False) x) :
    (b.ended u).SpiErred (b'.ended x.spiError) := by
  obtain ⟨hcount, htells⟩ := x.spiError_counts
  constructor
  · rw [Chip.ended_fld _ _ _ _ _ (by decide), Chip.ended_fld _ _ _ _ _ (by decide), hcount, h.fld _ _ _ id]
  · refine Chip.Tells.ended (fun hu => htells ?_) (by decide)
    rw [Chip.domUp, Chip.ended_dom _ _ _ (by decide), ← Chip.domUp] at hu
    rw [h.domUp _ id]
    exact hu

/-! ### The access alone -/

theorem beNat_foldl_lt (l : List Byte) (a : Nat) : l.foldl (fun a b => a * 256 + b.toNat) a < (a + 1) * 256 ^ l.length := by
  induction l generalizing a with
  | nil => simp
  | cons b r ih =>
    have hb := b.isLt
    calc r.foldl (fun a b => a * 256 + b.toNat) (a * 256 + b.toNat) < (a * 256 + b.toNat + 1) * 256 ^ r.length := ih _
      _ ≤ ((a + 1) * 256) * 256 ^ r.length := Nat.mul_le_mul_right _ (by omega)
      _ = (a + 1) * 256 ^ (b :: r).length := by rw [List.length_cons, Nat.pow_succ, Nat.mul_assoc, Nat.mul_comm 256]

theorem beNat_lt (l : List Byte) : beNat l < 256 ^ l.length := (beNat_foldl_lt l 0).trans_eq (by rw [Nat.zero_add, Nat.one_mul])

/-- The access that a transaction carries, as a command of its own. -/
def spiAlone (addr : Nat) : Option Word → Instr
  | some v => .registerWrite .spi (BitVec.ofNat _ addr) v
  | none => .loReadLatch .spi (BitVec.ofNat _ addr) 15

/-- What that command does. -/
def Chip.spiAloneDone (c : Chip) (addr : Nat) : Option Word → Chip
  | some v => c.regWrite .spi addr v.toNat
  | none => c.laneRead .spi addr 15

theorem exec_spiAlone_eq {addr : Nat} (ha : addr < 2 ^ 24) (h4 : addr % 4 = 0) (w : Option Word) (s : State) :
    exec (spiAlone addr w) s = run (fun c => c.spiAloneDone addr w) s := by
  have hto : (BitVec.ofNat 24 addr).toNat = addr := by rw [BitVec.toNat_ofNat, Nat.mod_eq_of_lt ha]
  cases w with
  | some v =>
    refine (exec_registerWrite_eq (addr := BitVec.ofNat 24 addr) (by rw [hto]; exact h4) .spi v s).trans ?_
    rw [hto]
    rfl
  | none =>
    rw [spiAlone, exec, execLoReadLatch, if_pos (show readForm .spi 15 = true from rfl), runAligned_eq (addr := BitVec.ofNat 24 addr) (by rw [hto]; exact h4), hto]
    rfl

theorem laneMask_all : laneMask 15 = 2 ^ 32 - 1 := by decide

theorem Chip.spiAloneDone_same (c : Chip) (addr : Nat) (w : Option Word) : (c.regAccess .spi addr w).SpiSame (c.spiAloneDone addr w) := by
  cases w with
  | some v => exact .refl _
  | none => exact (Chip.SpiSame.refl _).setPort _ rfl rfl

theorem Chip.portState_spiAloneDone (c : Chip) (addr : Nat) (w : Option Word) :
    ((c.spiAloneDone addr w).portState .spi).data % 2 ^ 32 = ((c.regAccess .spi addr w).portState .spi).data % 2 ^ 32 ∧
      ((c.spiAloneDone addr w).portState .spi).status = ((c.regAccess .spi addr w).portState .spi).status := by
  cases w with
  | some v => exact ⟨rfl, rfl⟩
  | none =>
    rw [Chip.spiAloneDone, Chip.laneRead, Chip.portState_setPort_self, laneMask_all]
    refine ⟨?_, rfl⟩
    rw [Nat.and_two_pow_sub_one_eq_mod, Nat.mod_mod]
    rfl

/-! ### The transaction -/

theorem exec_spiTransaction_eq (mosi : List Byte) (waits : Nat) (s : State) :
    exec (.spiTransaction mosi waits) s = run (fun c => c.spi mosi waits) s := rfl

section
variable {mosi : List Byte} {waits : Nat}

/-- The first octet, and the address. -/
def spiOctet (mosi : List Byte) : Nat := (mosi.getD 0 0).toNat
def spiAddr (mosi : List Byte) : Nat := beNat ((mosi.drop 1).take 3)

/-- A header that is not carried out: a reserved bit, or a misaligned address. -/
abbrev spiBad (mosi : List Byte) : Prop := bitsOf (spiOctet mosi) 4 1 ≠ 0 ∨ (4 ≤ mosi.length ∧ spiAddr mosi % 4 ≠ 0)

/-- The data of a write. -/
def spiWrite (mosi : List Byte) : Option Word :=
  if spiOctet mosi % 2 = 1 then some (BitVec.ofNat 32 (beNat ((mosi.drop 4).take 4))) else none

theorem spiAddr_lt (mosi : List Byte) : spiAddr mosi < 2 ^ 24 := by
  refine (beNat_lt _).trans_le ?_
  calc 256 ^ ((mosi.drop 1).take 3).length ≤ 256 ^ 3 := Nat.pow_le_pow_right (by decide) (by simp)
    _ = 2 ^ 24 := by decide

theorem Chip.spi_other (h : spiOctet mosi / 32 ≠ c.fld GLOBAL.STRAPS_SPI_ADDR) : c.spi mosi waits = c := if_pos (.inr (.inr h))

theorem Chip.spi_eq (c : Chip) (mosi : List Byte) (waits : Nat) : c.spi mosi waits =
    if c.mode = mRESET ∨ mosi = [] ∨ spiOctet mosi / 32 ≠ c.fld GLOBAL.STRAPS_SPI_ADDR then c
    else if spiBad mosi then (if (if spiOctet mosi % 2 = 1 then 9 else 5) ≤ mosi.length then c.spiStatus 0xE1 else c).spiError
    else if spiOctet mosi % 2 = 1 then
      if mosi.length < 8 then c.spiError
      else c.spiAccess (spiAddr mosi) mosi.length waits (some (BitVec.ofNat 32 (beNat ((mosi.drop 4).take 4))))
    else if mosi.length < 4 then c
    else c.spiAccess (spiAddr mosi) mosi.length waits none := rfl

/-- The octets before the status of a transaction. -/
def spiHeadOf (mosi : List Byte) : Nat := if spiOctet mosi % 2 = 1 then 8 else 4

theorem spiHead_write (mosi : List Byte) : spiHead (spiWrite mosi) = spiHeadOf mosi := by
  unfold spiWrite spiHeadOf
  split <;> rfl

/-- A transaction for this part, by its header and its length. -/
theorem Chip.spi_addressed (hm : c.mode ≠ mRESET) (hne : mosi ≠ []) (h : spiOctet mosi / 32 = c.fld GLOBAL.STRAPS_SPI_ADDR) :
    (spiBad mosi → c.spi mosi waits = (if spiHeadOf mosi + 1 ≤ mosi.length then c.spiStatus 0xE1 else c).spiError) ∧
    (¬ spiBad mosi → spiHeadOf mosi ≤ mosi.length → c.spi mosi waits = c.spiAccess (spiAddr mosi) mosi.length waits (spiWrite mosi)) ∧
    (¬ spiBad mosi → mosi.length < spiHeadOf mosi → c.spi mosi waits = if spiOctet mosi % 2 = 1 then c.spiError else c) := by
  have hmine : ¬ (c.mode = mRESET ∨ mosi = [] ∨ spiOctet mosi / 32 ≠ c.fld GLOBAL.STRAPS_SPI_ADDR) := by simp [hm, hne, h]
  rw [c.spi_eq, if_neg hmine]
  unfold spiHeadOf spiWrite
  refine ⟨fun hb => ?_, fun hb hl => ?_, fun hb hl => ?_⟩
  · rw [if_pos hb]
    split <;> rfl
  · rw [if_neg hb]
    by_cases hw : spiOctet mosi % 2 = 1
    · rw [if_pos hw] at hl
      rw [if_pos hw, if_pos hw, if_neg (by omega)]
    · rw [if_neg hw] at hl
      rw [if_neg hw, if_neg hw, if_neg (by omega)]
  · rw [if_neg hb]
    by_cases hw : spiOctet mosi % 2 = 1
    · rw [if_pos hw] at hl
      rw [if_pos hw, if_pos hw, if_pos hl]
    · rw [if_neg hw] at hl
      rw [if_neg hw, if_neg hw, if_pos hl]
end

/-! ### What a transaction carries out -/

section
variable {mosi : List Byte} {waits : Nat} {s : State}

/-- The data and the status that the port SPI shows. -/
def State.spiData (s : State) : Nat := (s.chip.portState .spi).data
def State.spiStatus (s : State) : Nat := (s.chip.portState .spi).status

theorem exec_spiAlone_of (hb : ¬ spiBad mosi) (hl : spiHeadOf mosi ≤ mosi.length) (s : State) :
    exec (spiAlone (spiAddr mosi) (spiWrite mosi)) s = run (fun c => c.spiAloneDone (spiAddr mosi) (spiWrite mosi)) s := by
  have h4 : 4 ≤ mosi.length := by
    unfold spiHeadOf at hl
    split at hl <;> omega
  have halign : spiAddr mosi % 4 = 0 := by
    unfold spiBad at hb
    omega
  exact exec_spiAlone_eq (spiAddr_lt mosi) halign _ s

/-- The whole of a transaction that is answered in time. -/
theorem spi_carries_done (hf : s.chip.spi mosi waits = s.chip.spiAccess (spiAddr mosi) mosi.length waits (spiWrite mosi))
    (hj : exec (spiAlone (spiAddr mosi) (spiWrite mosi)) s = run (fun c => c.spiAloneDone (spiAddr mosi) (spiWrite mosi)) s)
    (h : waits < 32 ∨ mosi.length < spiHeadOf mosi + 33) (hw : spiOctet mosi % 2 = 1 ∨ 9 + waits ≤ mosi.length) :
    SpiCarries (.spiTransaction mosi waits) (spiAlone (spiAddr mosi) (spiWrite mosi)) s [] fun t u =>
      t.spiData % 2 ^ 32 = u.spiData % 2 ^ 32 ∧
        t.spiStatus = if waits < 32 ∧ spiHeadOf mosi + waits + 1 ≤ mosi.length then 0xA5 else u.spiStatus := by
  have hsome : (spiWrite mosi).isSome ∨ 9 + waits ≤ mosi.length := hw.imp (fun h => by rw [spiWrite, if_pos h]; rfl) id
  have hx : s.chip.spi mosi waits = _ := hf.trans (Chip.spiAccess_done (by rwa [spiHead_write]) hsome)
  have hd := Chip.portState_spiAloneDone s.chip (spiAddr mosi) (spiWrite mosi)
  refine spiCarries_of (exec_spiTransaction_eq _ _ _) hj (Chip.spiAloneDone_same _ _ _) (Chip.spiAnswered_same _ _)
    (by rw [hx]; exact .refl _) ?_
  simp only [State.spiData, State.spiStatus, Chip.ended_portState, hx, Chip.portState_spiAnswered, spiHead_write, hd]
  exact ⟨trivial, trivial⟩

/-- What the error of a transaction adds to its access alone. -/
theorem Chip.SpiErred.ofSame {b b' D U x : Chip} (hu : D.SpiSame U) (hx : D.SpiSame x) : (b.ended U).SpiErred (b'.ended x.spiError) :=
  Chip.SpiErred.ended ((hu.frame _).symm.trans (hx.frame _))

/-- A read that is cut short of its data. -/
theorem spi_carries_cut (hf : s.chip.spi mosi waits = s.chip.spiAccess (spiAddr mosi) mosi.length waits (spiWrite mosi))
    (hj : exec (spiAlone (spiAddr mosi) (spiWrite mosi)) s = run (fun c => c.spiAloneDone (spiAddr mosi) (spiWrite mosi)) s)
    (h : waits < 32 ∨ mosi.length < spiHeadOf mosi + 33) (hr : ¬ spiOctet mosi % 2 = 1) (hw : mosi.length < 9 + waits) :
    SpiCarries (.spiTransaction mosi waits) (spiAlone (spiAddr mosi) (spiWrite mosi)) s spiErrKeys fun t u =>
      t.spiData = s.spiData ∧ u.chip.SpiErred t.chip ∧
        t.spiStatus = if waits < 32 ∧ 5 + waits ≤ mosi.length then 0xA5 else u.spiStatus := by
  have hnone : spiWrite mosi = none := if_neg hr
  rw [spiHeadOf, if_neg hr] at h
  rw [hnone] at hf hj ⊢
  have hx := hf.trans (Chip.spiAccess_cut h hw)
  have hsame : (s.chip.regAccess .spi (spiAddr mosi) none).SpiSame _ :=
    (Chip.spiAnswered_same _ (waits < 32 ∧ 4 + waits + 1 ≤ mosi.length)).spiData (s.chip.portState .spi).data
  have hu := Chip.spiAloneDone_same s.chip (spiAddr mosi) none
  have hd := (Chip.portState_spiAloneDone s.chip (spiAddr mosi) none).2
  have hports (c : Chip) : c.spiError.portState .spi = c.portState .spi := by
    rw [Chip.portState, c.spiError_frame.ports (by decide), Chip.portState]
  have hlen : 4 + waits + 1 = 5 + waits := by omega
  refine spiCarries_of (exec_spiTransaction_eq _ _ _) hj hu hsame (by rw [hx]; exact Chip.spiError_frame _) ⟨?_, ?_, ?_⟩
  · simp only [State.spiData, Chip.ended_portState, hx, hports, Chip.portState_spiData]
  · simp only [hx]
    exact Chip.SpiErred.ofSame hu hsame
  · simp only [State.spiStatus, Chip.ended_portState, hx, hports, Chip.portState_spiData, Chip.portState_spiAnswered, hd, hlen]

/-- An access that is not complete after 32 status octets. -/
theorem spi_carries_late (hf : s.chip.spi mosi waits = s.chip.spiAccess (spiAddr mosi) mosi.length waits (spiWrite mosi))
    (hj : exec (spiAlone (spiAddr mosi) (spiWrite mosi)) s = run (fun c => c.spiAloneDone (spiAddr mosi) (spiWrite mosi)) s)
    (h : 32 ≤ waits) (hl : spiHeadOf mosi + 33 ≤ mosi.length) :
    SpiCarries (.spiTransaction mosi waits) (spiAlone (spiAddr mosi) (spiWrite mosi)) s spiErrKeys fun t u =>
      t.spiData = s.spiData ∧ t.spiStatus = 0xE2 ∧ u.chip.SpiErred t.chip := by
  have hx := hf.trans (Chip.spiAccess_late h (by rwa [spiHead_write]))
  have hsame : (s.chip.regAccess .spi (spiAddr mosi) (spiWrite mosi)).SpiSame _ :=
    ((Chip.SpiSame.refl _).spiData (s.chip.portState .spi).data).spiStatus 0xE2
  have hu := Chip.spiAloneDone_same s.chip (spiAddr mosi) (spiWrite mosi)
  have hports (c : Chip) : c.spiError.portState .spi = c.portState .spi := by
    rw [Chip.portState, c.spiError_frame.ports (by decide), Chip.portState]
  refine spiCarries_of (exec_spiTransaction_eq _ _ _) hj hu hsame (by rw [hx]; exact Chip.spiError_frame _) ⟨?_, ?_, ?_⟩
  · simp only [State.spiData, Chip.ended_portState, hx, hports, Chip.portState_spiStatus, Chip.portState_spiData]
  · simp only [State.spiStatus, Chip.ended_portState, hx, hports, Chip.portState_spiStatus]
  · simp only [hx]
    exact Chip.SpiErred.ofSame hu hsame

/-- A transaction that is not carried out: its status, and the count. -/
theorem spi_errs (p : Prop) [Decidable p] (hf : s.chip.spi mosi waits = (if p then s.chip.spiStatus 0xE1 else s.chip).spiError) :
    SetsPort (.spiTransaction mosi waits) s .spi (if p then { s.chip.portState .spi with status := 0xE1 } else s.chip.portState .spi)
      spiErrKeys fun d => s.chip.SpiErred d := by
  have hports (c : Chip) (q : Port) : c.spiError.portState q = c.portState q := by
    rw [Chip.portState, c.spiError_frame.ports (by decide), Chip.portState]
  have hframe (K : Nat → Prop) : s.chip.Frame [.ecc, .ports] K (if p then s.chip.spiStatus 0xE1 else s.chip) :=
    .ite (fun _ => (Chip.Frame.refl _).withPorts _ (by decide)) fun _ => .refl _
  refine setsPort_of_frame (exec_spiTransaction_eq _ _ _) ?_ ?_ ?_ ?_
  · simp only [hf]
    exact (hframe _).andThen (Chip.spiError_frame _) (by simp) fun _ hk => hk
  · simp only [hf, hports]
    by_cases hp : p
    · simp only [if_pos hp, Chip.portState_spiStatus]
    · simp only [if_neg hp]
  · intro q hq
    simp only [hf, hports]
    by_cases hp : p
    · simp only [if_pos hp, Chip.spiStatus, Chip.portState_setPort_ne _ _ hq]
    · simp only [if_neg hp]
  · simp only [hf]
    obtain ⟨hcount, htells⟩ := Chip.spiError_counts (if p then s.chip.spiStatus 0xE1 else s.chip)
    constructor
    · rw [Chip.ended_fld _ _ _ _ _ (by decide), hcount, (hframe fun _ => False).fld _ _ _ id]
    · exact Chip.Tells.ended (fun hu => htells (((hframe fun _ => False).domUp _ id).trans hu)) (by decide)
end

theorem spiAlone_write (mosi : List Byte) : spiAlone (spiAddr mosi) (spiWrite mosi) =
    if spiOctet mosi % 2 = 1 then .registerWrite .spi (BitVec.ofNat _ (spiAddr mosi)) (BitVec.ofNat 32 (beNat ((mosi.drop 4).take 4)))
    else .loReadLatch .spi (BitVec.ofNat _ (spiAddr mosi)) 15 := by
  unfold spiWrite
  split <;> rfl

/-- Settles O10: the SPI target carries out one access of a good header, and counts what it cannot answer. -/
theorem spiTransactionsAreJudged : Obligations.SpiTransactionsAreJudged := by
  unfold Obligations.SpiTransactionsAreJudged
  intro s mosi waits hm hne
  have hmine (h : spiOctet mosi / 32 = s.chip.fld GLOBAL.STRAPS_SPI_ADDR) := Chip.spi_addressed (waits := waits) hm hne h
  refine ⟨fun h => idles_of (exec_spiTransaction_eq _ _ _) (Chip.spi_other h), fun h hb hl => ?_, fun h hb hr hl => ?_, fun h hbad => ?_⟩
  · obtain ⟨-, hf, -⟩ := hmine h
    have hj := exec_spiAlone_of hb hl s
    have hdone := spi_carries_done (s := s) (hf hb hl) hj
    have hcut := spi_carries_cut (s := s) (hf hb hl) hj
    have hlate := spi_carries_late (s := s) (hf hb hl) hj
    rw [spiAlone_write] at hdone hcut hlate
    exact ⟨hdone, hcut, hlate⟩
  · obtain ⟨-, -, hf⟩ := hmine h
    have hr : ¬ spiOctet mosi % 2 = 1 := hr
    have hshort : mosi.length < spiHeadOf mosi := by rwa [spiHeadOf, if_neg hr]
    exact idles_of (exec_spiTransaction_eq _ _ _) ((hf hb hshort).trans (if_neg hr))
  · obtain ⟨hf, -, hf'⟩ := hmine h
    refine spi_errs (spiBad mosi ∧ spiHeadOf mosi + 1 ≤ mosi.length) ?_
    by_cases hb : spiBad mosi
    · simp only [hf hb, hb, true_and]
    · obtain ⟨hw, hl⟩ := hbad.resolve_left hb
      have hw : spiOctet mosi % 2 = 1 := hw
      have hshort : mosi.length < spiHeadOf mosi := by rwa [spiHeadOf, if_pos hw]
      rw [hf' hb hshort, if_pos hw, if_neg fun h : spiBad mosi ∧ _ => hb h.1]

end Sys2Proof.Machine
end

section
/-!
PROOF. PAGE_SEAL (R415, R416): what a write of it does by its word, and when an armed unseal lapses.
-/
namespace Sys2Proof.Machine

variable {c d : Chip} {p : Port} {page : Nat}

/-! ### Cells of the page header -/

/-- No level is a header cell, but PAGE_EVT of HOSTQ. -/
theorem hdrKey_not_level (r : HdrRow) (page : Nat) (ho : r.off < 0x040) (hevt : r.off ≠ 0x010) (hlo : r.lo < 32) : r.key page ∉ levelKeys := by
  intro h
  have hlow : ∀ k ∈ levelKeys, 0x040 ≤ k / 2097152 % 4096 ∨ k / 2097152 % 4096 = 0x010 := by decide
  have := hlow _ h
  simp only [HdrRow.key, cellKey] at this
  omega

/-- Header cells of different places are different cells. -/
theorem hdrKey_ne (r q : HdrRow) (page page' : Nat) (hr : r.off < 4096 ∧ r.lo < 32) (hq : q.off < 4096 ∧ q.lo < 32)
    (h : (r.off, r.lo) ≠ (q.off, q.lo)) : r.key page ≠ q.key page' := by
  intro he
  simp only [HdrRow.key, cellKey] at he
  exact h (Prod.ext (by show r.off = q.off; omega) (by show r.lo = q.lo; omega))

/-- A header cell is no register past the header. -/
theorem hdrKey_ne_fldKey (r : HdrRow) (page : Nat) (q : FieldRow) (m j : Nat) (hr : r.off < 0x040 ∧ r.lo < 32)
    (hq : 0x040 ≤ q.off ∧ q.off < 4096 ∧ q.lo < 32 ∧ j < 65536) : r.key page ≠ q.key m j := by
  intro he
  simp only [HdrRow.key, FieldRow.key, cellKey] at he
  omega

/-! ### Arms -/

theorem portKey_inj {q : Port} {j : Nat} (h : 4 * j + q.code = 4 * page + p.code) : j = page ∧ q = p := by
  have hq : q.code < 4 := by cases q <;> decide
  have hp : p.code < 4 := by cases p <;> decide
  refine ⟨by omega, ?_⟩
  have hc : q.code = p.code := by omega
  revert hc
  cases q <;> cases p <;> decide

/-- What is left of the arms when a port's unseal of a page is no longer armed. -/
def Chip.armsLeft (c : Chip) (p : Port) (page : Nat) : Tab (Option Nat) := Tab.put none c.arms (4 * page + p.code) none

/-- ARMED of a page, by the arms. -/
def armedBit (arms : Tab (Option Nat)) (page : Nat) : Nat := if arms.any fun e => e.1 / 4 == page then 1 else 0

theorem Chip.disarm_eq (c : Chip) (p : Port) (page : Nat) : c.disarm p page =
    ({ c with arms := c.armsLeft p page } : Chip).setHdr HDR.SEAL_ARMED page (armedBit (c.armsLeft p page) page) := rfl

theorem Chip.disarm_frame (c : Chip) (p : Port) (page : Nat) (S : List Part) :
    ({ c with arms := c.armsLeft p page } : Chip).Frame S (· = HDR.SEAL_ARMED.key page) (c.disarm p page) := by
  rw [c.disarm_eq]
  exact (Chip.Frame.refl _).setHdr _ _ _ rfl

theorem Chip.hdr_disarm (c : Chip) (p : Port) (page : Nat) :
    (c.disarm p page).hdr HDR.SEAL_ARMED page = armedBit (c.armsLeft p page) page := by
  rw [c.disarm_eq, Chip.hdr_setHdr_self]
  unfold armedBit
  split <;> rfl

theorem Chip.disarmBy_none (h : c.armOf p page = none) : c.disarmBy p page = c := by rw [Chip.disarmBy, h]; rfl

theorem Chip.disarmBy_some {t : Nat} (h : c.armOf p page = some t) : c.disarmBy p page = c.disarm p page := by rw [Chip.disarmBy, h]; rfl

theorem Chip.armOf_disarm (c : Chip) (p : Port) (page : Nat) (q : Port) (j : Nat) :
    (c.disarm p page).armOf q j = if j = page ∧ q = p then none else c.armOf q j := by
  split
  · rename_i h
    rw [h.1, h.2]
    exact Tab.get_put_self none c.arms (4 * page + p.code) none
  · rename_i h
    exact Tab.get_put_ne none none c.arms none fun he => h (portKey_inj he)

/-! ### A write of PAGE_SEAL -/

/-- A write of PAGE_SEAL, once what its port had armed is disarmed. -/
def Chip.sealJudged (c : Chip) (armed : Bool) (p : Port) (page v : Nat) : Chip :=
  let refused := c.errcnt page HDR.SEAL_SEALED.off p
  if c.hdr HDR.CTRL_LOCK page != 0 || bitsOf v 31 16 != 0x5EA1 then refused
  else match bitsOf v 3 2 with
    | 1 => c.setHdr HDR.SEAL_SEALED page 1
    | 2 => ({ c with arms := Tab.put none c.arms (4 * page + p.code) (some c.now) }).setHdr HDR.SEAL_ARMED page 1
    | 3 => if armed then c.setHdr HDR.SEAL_SEALED page 0 else refused
    | _ => refused

theorem Chip.sealWrite_eq (c : Chip) (p : Port) (page v : Nat) :
    c.sealWrite p page v = (c.disarmBy p page).sealJudged (c.armOf p page).isSome p page v := rfl

theorem Chip.sealWrite_none (h : c.armOf p page = none) (v : Nat) : c.sealWrite p page v = c.sealJudged false p page v := by
  rw [c.sealWrite_eq, Chip.disarmBy_none h, h]
  rfl

theorem Chip.sealWrite_some {t : Nat} (h : c.armOf p page = some t) (v : Nat) :
    c.sealWrite p page v = (c.disarm p page).sealJudged true p page v := by
  rw [c.sealWrite_eq, Chip.disarmBy_some h, h]
  rfl

theorem Chip.sealJudged_ops {armed : Bool} {v : Nat} (hlock : c.hdr HDR.CTRL_LOCK page = 0) (hkey : bitsOf v 31 16 = 0x5EA1) :
    (bitsOf v 3 2 = 0 → c.sealJudged armed p page v = c.errcnt page 0x01C p) ∧
    (bitsOf v 3 2 = 1 → c.sealJudged armed p page v = c.setHdr HDR.SEAL_SEALED page 1) ∧
    (bitsOf v 3 2 = 2 → c.sealJudged armed p page v =
      ({ c with arms := Tab.put none c.arms (4 * page + p.code) (some c.now) } : Chip).setHdr HDR.SEAL_ARMED page 1) ∧
    (bitsOf v 3 2 = 3 → c.sealJudged armed p page v = if armed then c.setHdr HDR.SEAL_SEALED page 0 else c.errcnt page 0x01C p) := by
  refine ⟨?_, ?_, ?_, ?_⟩ <;>
  · intro hop
    simp only [Chip.sealJudged, hlock, hkey, hop]
    rfl

theorem Chip.sealJudged_refused {armed : Bool} {v : Nat}
    (h : c.hdr HDR.CTRL_LOCK page ≠ 0 ∨ bitsOf v 31 16 ≠ 0x5EA1 ∨ bitsOf v 3 2 = 0) :
    c.sealJudged armed p page v = c.errcnt page HDR.SEAL_SEALED.off p := by
  by_cases hg : c.hdr HDR.CTRL_LOCK page = 0 ∧ bitsOf v 31 16 = 0x5EA1
  · obtain ⟨hlock, hkey⟩ := hg
    have hop : bitsOf v 3 2 = 0 := (h.resolve_left (· hlock)).resolve_left (· hkey)
    exact (Chip.sealJudged_ops hlock hkey).1 hop
  · exact if_pos (by simpa only [Bool.or_eq_true, bne_iff_ne, ← not_and_or] using hg)

/-! ### The commands -/

section
variable {cls : PageCls} {n : Nat} {i : Instr} {s : State} {pg : BitVec 12} {v : Word}

/-- A write of PAGE_SEAL on a page that is awake goes to the page, armed or not. -/
theorem Chip.access_keepArm (hr : c.reaches p = true) (hpage : pageOf page = some (cls, n)) (hup : c.domUp cls.domain = true)
    (hl : c.pageLight cls = false) (f : Chip → Chip) : c.access p page true f = f c := by
  have hw : c.wakeLight cls = c := by simp [Chip.wakeLight, hl]
  simp [Chip.access, hr, hpage, hup, hw]

/-- A write of PAGE_SEAL on a page that is open to it. -/
theorem exec_seal_eq (hi : i ∈ [Instr.pageSeal p pg v, Instr.pageArmUnseal p pg v, Instr.pageUnseal p pg v]) (s : State) :
    exec i s = run (fun c => c.access p pg.toNat true fun d => d.sealWrite p pg.toNat v.toNat) s := by
  simp only [List.mem_cons, List.not_mem_nil, or_false] at hi
  obtain rfl | rfl | rfl := hi <;> rfl

theorem setsRegs_of_setHdr {r : HdrRow} {w : Nat} {f : Chip → Chip} (h : exec i s = run f s) (hf : f s.chip = s.chip.setHdr r page w)
    (hk : r.key page ∉ levelKeys) : SetsRegs i s [r.key page] fun d => d.hdr r page = w % 2 ^ (r.hi - r.lo + 1) := by
  refine setsRegs_of h ?_ ?_
  · rw [hf]
    exact (Chip.Frame.refl _).setHdr _ _ _ (List.mem_singleton.mpr rfl)
  · rw [hf, Chip.ended_hdr _ _ _ _ hk, Chip.hdr_setHdr_self]

theorem armedKey_not_level (page : Nat) : HDR.SEAL_ARMED.key page ∉ levelKeys := hdrKey_not_level _ _ (by decide) (by decide) (by decide)

theorem sealedKey_not_level (page : Nat) : HDR.SEAL_SEALED.key page ∉ levelKeys := hdrKey_not_level _ _ (by decide) (by decide) (by decide)

theorem armedKey_not_errKeys (page page' : Nat) : HDR.SEAL_ARMED.key page ∉ errKeys page' := by
  simp only [errKeys, List.mem_cons, List.not_mem_nil, or_false, not_or]
  exact ⟨hdrKey_ne _ _ _ _ (by decide) (by decide) (by decide), hdrKey_ne _ _ _ _ (by decide) (by decide) (by decide),
    hdrKey_ne _ _ _ _ (by decide) (by decide) (by decide)⟩

theorem Chip.errcnt_frame (c : Chip) (page off : Nat) (p : Port) : c.Frame [] (· ∈ errKeys page) (c.errcnt page off p) :=
  (Chip.Frame.refl c).errcnt page off p fun _ hk => hk

/-- Counting is the same once a port is disarmed. -/
theorem Chip.counted_disarm {off : Nat} {q q' : Port} (h : (c.disarm q page).Counted d page off q') : c.Counted d page off q' := by
  have hk (r : HdrRow) (hr : r.key page ∈ errKeys page) : (c.disarm q page).hdr r page = c.hdr r page :=
    (c.disarm_frame q page []).hdr r page fun he => armedKey_not_errKeys page page (he ▸ hr)
  obtain ⟨h1, h2, h3⟩ := h
  exact ⟨h1.trans (by rw [hk _ (by simp [errKeys])]), h2, h3⟩

/-- A write of PAGE_SEAL that is counted after an unseal was armed. -/
theorem becomes_of_disarmed {f g : Chip → Chip} {own : List Nat} {ok : Chip → Prop} (h : exec i s = run f s)
    (hf : f s.chip = g (s.chip.disarm p page)) (hg : (s.chip.disarm p page).Frame [] (· ∈ own) (g (s.chip.disarm p page)))
    (hown : HDR.SEAL_ARMED.key page ∉ own) (hok : ok (s.chip.ended (g (s.chip.disarm p page)))) :
    Becomes i s { s.chip with arms := s.chip.armsLeft p page } (HDR.SEAL_ARMED.key page :: own) fun d =>
      ok d ∧ d.hdr HDR.SEAL_ARMED page = armedBit (s.chip.armsLeft p page) page := by
  refine becomes_of h ?_ ?_
  · rw [hf]
    exact ((s.chip.disarm_frame p page _).mono (fun _ hp => hp) fun _ hk => hk ▸ List.mem_cons_self).trans
      (hg.mono (by simp) fun _ hk => List.mem_cons_of_mem _ hk)
  · rw [hf]
    refine ⟨hok, ?_⟩
    rw [Chip.ended_hdr _ _ _ _ (armedKey_not_level page), hg.hdr _ _ hown, Chip.hdr_disarm]
end

/-! ### Arms that lapse -/

theorem exec_unsealArmExpiry_eq (pg : BitVec 12) (s : State) : exec (.unsealArmExpiry pg) s = run (fun c => c.armsExpire pg.toNat) s := rfl

/-- The arms of the ports `l` lapse where their time is over. -/
def Chip.armsExpireOf (c : Chip) (page : Nat) (l : List Port) : Chip :=
  l.foldl (fun d p => if d.armOver p page then d.disarm p page else d) c

theorem Chip.armsExpireOf_frame (c : Chip) (page : Nat) (l : List Port) :
    c.Frame [.arms] (· = HDR.SEAL_ARMED.key page) (c.armsExpireOf page l) := by
  refine (Chip.Frame.refl c).foldl l fun d p _ => .ite (fun _ => ?_) fun _ => .refl d
  exact ((Chip.Frame.refl d).withArms _ (by decide)).trans (d.disarm_frame p page _)

theorem Chip.armOver_congr (harm : d.armOf p page = c.armOf p page) (hnow : d.now = c.now) : d.armOver p page = c.armOver p page := by
  rw [Chip.armOver, Chip.armOver, harm, hnow]

theorem Chip.armOf_armsExpireOf (c : Chip) (page : Nat) (l : List Port) (q : Port) (j : Nat) :
    (c.armsExpireOf page l).armOf q j = if j = page ∧ q ∈ l ∧ c.armOver q page = true then none else c.armOf q j := by
  induction l generalizing c with
  | nil => simp [Chip.armsExpireOf]
  | cons p r ih =>
    have hstep : c.armsExpireOf page (p :: r) = (if c.armOver p page then c.disarm p page else c).armsExpireOf page r := rfl
    rw [hstep, ih]
    by_cases hp : c.armOver p page = true
    · rw [if_pos hp]
      by_cases hq : q = p
      · subst hq
        simp only [Chip.armOf_disarm, hp, List.mem_cons, true_or, and_true]
        by_cases hj : j = page
        · simp [hj]
        · simp [hj]
      · have harm : (c.disarm p page).armOf q page = c.armOf q page := by rw [c.armOf_disarm, if_neg fun h => hq h.2]
        have hover : (c.disarm p page).armOver q page = c.armOver q page := Chip.armOver_congr harm rfl
        simp only [Chip.armOf_disarm, hover, hq, List.mem_cons, false_or, and_false, if_false]
    · rw [if_neg hp]
      by_cases hq : q = p
      · subst hq
        simp [hp]
      · simp only [hq, List.mem_cons, false_or]

theorem Chip.armsExpireOf_none (h : ∀ p, c.armOver p page = false) (l : List Port) : c.armsExpireOf page l = c := by
  induction l with
  | nil => rfl
  | cons p r ih =>
    have hstep : c.armsExpireOf page (p :: r) = (if c.armOver p page then c.disarm p page else c).armsExpireOf page r := rfl
    rw [hstep, h p, if_neg Bool.false_ne_true, ih]

/-- A change of the arms and of registers, seen from the block with the new arms. -/
theorem Chip.Frame.sinceArms {K : Nat → Prop} (h : c.Frame [.ecc, .arms] K d) : ({ c with arms := d.arms } : Chip).Frame [.ecc] K d := by
  refine ⟨fun q hq => ?_, h.cell⟩
  by_cases hp : q = .arms
  · subst hp
    exact rfl
  · have hsame : q.Same c d := h.part q (by simp only [List.mem_cons, List.not_mem_nil, or_false, not_or] at hq ⊢; exact ⟨hq, hp⟩)
    cases q <;> first | exact absurd rfl hp | exact hsame

theorem Chip.armOver_iff {t : Nat} (h : c.armOf p page = some t) : c.armOver p page = true ↔ t + 100 * usQ ≤ c.now := by
  rw [Chip.armOver, h]
  exact decide_eq_true_iff

theorem unsealArmExpiry_lapses (s : State) (pg : BitVec 12) :
    Ends (.unsealArmExpiry pg) s fun d => ({ s.chip with arms := d.arms } : Chip).OnlyRegs d [HDR.SEAL_ARMED.key pg.toNat] ∧
      (∀ p t, s.chip.armOf p pg.toNat = some t → d.armOf p pg.toNat = if t + 100 * usQ ≤ s.chip.now then none else some t) ∧
      ∀ q j, j ≠ pg.toNat → d.armOf q j = s.chip.armOf q j := by
  have harm (q : Port) (j : Nat) : (s.chip.ended (s.chip.armsExpire pg.toNat)).armOf q j =
      if j = pg.toNat ∧ q ∈ [Port.bar0, .spi, .hank, .image] ∧ s.chip.armOver q pg.toNat = true then none else s.chip.armOf q j := by
    rw [Chip.armOf, Chip.ended_arms, ← Chip.armOf]
    exact Chip.armOf_armsExpireOf _ _ _ q j
  refine ends_of (exec_unsealArmExpiry_eq pg s) ⟨?_, fun p t ht => ?_, fun q j hj => ?_⟩
  · rw [Chip.ended_arms]
    have hframe := (s.chip.armsExpireOf_frame pg.toNat [.bar0, .spi, .hank, .image]).mono (T := [.ecc, .arms])
      (L := (· ∈ [HDR.SEAL_ARMED.key pg.toNat])) (by simp) fun _ hk => List.mem_singleton.mpr hk
    exact Chip.OnlyRegs.ended hframe.sinceArms.onlyRegs
  · have hmem : p ∈ [Port.bar0, .spi, .hank, .image] := by cases p <;> decide
    rw [harm, ht]
    simp only [hmem, Chip.armOver_iff ht, true_and]
  · rw [harm, if_neg fun h => hj h.1]

/-! ### The statement -/

section
variable {cls : PageCls} {n : Nat} {i : Instr} {s : State} {pg : BitVec 12} {v : Word}

theorem exec_errcntClear_eq (p : Port) (pg : BitVec 12) (v : Word) (s : State) : exec (.errcntClear p pg v) s =
    run (fun c => c.access p pg.toNat false fun d => d.errcntWrite pg.toNat v.toNat) s := rfl

theorem Chip.errcntWrite_frame (c : Chip) (page v : Nat) : c.Frame [] (· ∈ errKeys page) (c.errcntWrite page v) := by
  refine .ite (fun _ => ?_) fun _ => .refl c
  exact (((Chip.Frame.refl c).setHdr _ _ _ (by simp [errKeys])).setHdr _ _ _ (by simp [errKeys])).setHdr _ _ _ (by simp [errKeys])

/-- A write of PAGE_SEAL on a page that is awake, as a change of the block. -/
theorem exec_seal_write (hr : s.chip.reaches p = true) (hpage : pageOf pg.toNat = some (cls, n)) (hup : s.chip.domUp cls.domain = true)
    (hl : s.chip.pageLight cls = false) (hi : i ∈ [Instr.pageSeal p pg v, Instr.pageArmUnseal p pg v, Instr.pageUnseal p pg v]) :
    ∃ f, exec i s = run f s ∧ f s.chip = s.chip.sealWrite p pg.toNat v.toNat :=
  ⟨_, exec_seal_eq hi s, Chip.access_keepArm hr hpage hup hl _⟩

/-- A write of PAGE_SEAL that is refused: counted, and what its port had armed is disarmed. -/
theorem pageSeal_refused {f : Chip → Chip} (hexec : exec i s = run f s) (hf : f s.chip = s.chip.sealWrite p page v.toNat)
    (hbad : s.chip.hdr HDR.CTRL_LOCK page ≠ 0 ∨ bitsOf v.toNat 31 16 ≠ 0x5EA1 ∨ bitsOf v.toNat 3 2 = 0) :
    (s.chip.armOf p page = none → SetsRegs i s (errKeys page) fun d => s.chip.Counted d page 0x01C p) ∧
    (∀ t, s.chip.armOf p page = some t → Becomes i s { s.chip with arms := s.chip.armsLeft p page } (HDR.SEAL_ARMED.key page :: errKeys page)
      fun d => s.chip.Counted d page 0x01C p ∧ d.hdr HDR.SEAL_ARMED page = armedBit (s.chip.armsLeft p page) page) := by
  refine ⟨fun harm => ?_, fun t harm => ?_⟩
  · rw [Chip.sealWrite_none harm, Chip.sealJudged_refused hbad] at hf
    exact setsRegs_of_counted hexec hf (by decide)
  · have hlock : (s.chip.disarm p page).hdr HDR.CTRL_LOCK page = s.chip.hdr HDR.CTRL_LOCK page :=
      (s.chip.disarm_frame p page []).hdr _ _ (hdrKey_ne _ _ _ _ (by decide) (by decide) (by decide))
    rw [Chip.sealWrite_some harm, Chip.sealJudged_refused (by rwa [hlock])] at hf
    exact becomes_of_disarmed (g := fun d => d.errcnt page 0x01C p) hexec hf (Chip.errcnt_frame _ _ _ _) (armedKey_not_errKeys _ _)
      (Chip.counted_disarm (Chip.counted_errcnt _ _ _ _ (by decide))).ended

/-- An unseal that is armed, and its UNSEAL. -/
theorem pageUnseal_armed {f : Chip → Chip} {t : Nat} (hexec : exec i s = run f s) (hf : f s.chip = s.chip.sealWrite p page v.toNat)
    (harm : s.chip.armOf p page = some t) (hlock : s.chip.hdr HDR.CTRL_LOCK page = 0) (hv : sealWord 3 v) :
    Becomes i s { s.chip with arms := s.chip.armsLeft p page } [HDR.SEAL_SEALED.key page, HDR.SEAL_ARMED.key page] fun d =>
      d.hdr HDR.SEAL_SEALED page = 0 ∧ d.hdr HDR.SEAL_ARMED page = armedBit (s.chip.armsLeft p page) page := by
  obtain ⟨hkey, hop⟩ := hv
  have hne : HDR.SEAL_ARMED.key page ≠ HDR.SEAL_SEALED.key page := hdrKey_ne _ _ _ _ (by decide) (by decide) (by decide)
  have hlock' : (s.chip.disarm p page).hdr HDR.CTRL_LOCK page = 0 :=
    ((s.chip.disarm_frame p page []).hdr _ _ (hdrKey_ne _ _ _ _ (by decide) (by decide) (by decide))).trans hlock
  have hdo : f s.chip = (s.chip.disarm p page).setHdr HDR.SEAL_SEALED page 0 := by
    rw [hf, Chip.sealWrite_some harm, (Chip.sealJudged_ops hlock' hkey).2.2.2 hop, if_pos rfl]
  refine becomes_of hexec ?_ ⟨?_, ?_⟩
  · rw [hdo]
    exact ((s.chip.disarm_frame p page _).mono (fun _ hp => hp) fun _ hk => by rw [hk]; simp).setHdr _ _ _ (by simp)
  · rw [hdo, Chip.ended_hdr _ _ _ _ (sealedKey_not_level page), Chip.hdr_setHdr_self]
    rfl
  · rw [hdo, Chip.ended_hdr _ _ _ _ (armedKey_not_level page), Chip.hdr_setHdr_ne _ _ _ _ _ _ hne, Chip.hdr_disarm]

/-- A command that arms. -/
theorem pageArm_armed {f : Chip → Chip} (hexec : exec i s = run f s) (hf : f s.chip = s.chip.sealWrite p page v.toNat)
    (harm : s.chip.armOf p page = none) (hlock : s.chip.hdr HDR.CTRL_LOCK page = 0) (hv : sealWord 2 v) :
    Becomes i s { s.chip with arms := Tab.put none s.chip.arms (4 * page + p.code) (some s.chip.now) } [HDR.SEAL_ARMED.key page] fun d =>
      d.hdr HDR.SEAL_ARMED page = 1 := by
  obtain ⟨hkey, hop⟩ := hv
  have hdo : f s.chip = _ := hf.trans ((Chip.sealWrite_none harm _).trans ((Chip.sealJudged_ops hlock hkey).2.2.1 hop))
  refine becomes_of hexec ?_ ?_
  · rw [hdo]
    exact (Chip.Frame.refl _).setHdr _ _ _ (by simp)
  · rw [hdo, Chip.ended_hdr _ _ _ _ (armedKey_not_level page), Chip.hdr_setHdr_self]
    rfl
end

theorem Becomes.imp {i : Instr} {s : State} {own : List Nat} {ok ok' : Chip → Prop} (h : Becomes i s c own ok) (himp : ∀ d, ok d → ok' d) :
    Becomes i s c own ok' := by
  obtain ⟨t, hexec, hpend, honly, hok⟩ := h
  exact ⟨t, hexec, hpend, honly, himp _ hok⟩

theorem domRow_ne_armedKey (dm : Domain) (page : Nat) : (Domain.row dm).key 0 0 ≠ HDR.SEAL_ARMED.key page :=
  (hdrKey_ne_fldKey _ _ _ _ _ (by decide) (by cases dm <;> decide)).symm

theorem Chip.pageLight_disarm (c : Chip) (p : Port) (page : Nat) (cls : PageCls) : (c.disarm p page).pageLight cls = c.pageLight cls := by
  have hdom : (c.disarm p page).dom cls.domain = c.dom cls.domain := (c.disarm_frame p page []).dom _ (domRow_ne_armedKey _ page)
  rw [Chip.pageLight, hdom]
  rfl

/-- An access of an armed port to the page disarms, and then does what it does. -/
theorem Chip.access_armed {cls : PageCls} {n t : Nat} (hr : c.reaches p = true) (hpage : pageOf page = some (cls, n))
    (harm : c.armOf p page = some t) (f : Chip → Chip) :
    (c.domUp cls.domain = true → c.pageLight cls = false → c.access p page false f = f (c.disarm p page)) ∧
    (c.domUp cls.domain = false → c.access p page true f = (c.disarm p page).offDomain) := by
  refine ⟨fun hup hl => ?_, fun hdown => ?_⟩
  · have hw : (c.disarm p page).wakeLight cls = c.disarm p page := by simp [Chip.wakeLight, c.pageLight_disarm, hl]
    simp [Chip.access, hr, hpage, hup, Chip.disarmBy_some harm, hw]
  · simp [Chip.access, hr, hpage, hdown, Chip.disarmBy_some harm]

/-- Settles O11: PAGE_SEAL follows its word, and an armed unseal lapses in time or at another access of its port. -/
theorem pageSeal : Obligations.PageSeal := by
  unfold Obligations.PageSeal
  refine ⟨?_, ?_, ?_⟩
  · intro s p pg cls n v hr hpage hup hl key left armed i hi
    obtain ⟨f, hexec, hf⟩ := exec_seal_write hr hpage hup hl hi
    refine ⟨fun harm hlock hv => ?_, fun harm hlock hv => pageArm_armed hexec hf harm hlock hv,
      fun t harm hlock hv => pageUnseal_armed hexec hf harm hlock hv, fun hbad => pageSeal_refused hexec hf hbad, fun harm hv => ?_⟩
    · obtain ⟨hkey, hop⟩ := hv
      exact setsRegs_of_setHdr hexec (hf.trans ((Chip.sealWrite_none harm _).trans ((Chip.sealJudged_ops hlock hkey).2.1 hop)))
        (sealedKey_not_level _)
    · obtain ⟨hkey, hop⟩ := hv
      by_cases hlock : s.chip.hdr HDR.CTRL_LOCK pg.toNat = 0
      · have hdo : f s.chip = _ := hf.trans ((Chip.sealWrite_none harm _).trans ((Chip.sealJudged_ops hlock hkey).2.2.2 hop))
        exact setsRegs_of_counted hexec (hdo.trans (if_neg Bool.false_ne_true)) (by decide)
      · exact (pageSeal_refused hexec hf (.inl hlock)).1 harm
  · intro s pg c
    refine ⟨unsealArmExpiry_lapses s pg, fun h => idles_of (exec_unsealArmExpiry_eq pg s) (Chip.armsExpireOf_none (fun p => ?_) _)⟩
    cases ha : s.chip.armOf p pg.toNat with
    | none => rw [Chip.armOver, ha]
    | some t =>
      rw [Bool.eq_false_iff, Ne, Chip.armOver_iff ha]
      exact Nat.not_le.mpr (h p t ha)
  · intro s p pg t cls n v harm hpage hr left armed
    refine ⟨fun hup hl => ?_, fun hdown => ?_, fun q hopen hpg hv => ?_⟩
    · exact (becomes_of_disarmed (ok := fun _ => True) (exec_errcntClear_eq p pg v s) ((Chip.access_armed hr hpage harm _).1 hup hl)
        (Chip.errcntWrite_frame _ _ _) (armedKey_not_errKeys _ _) trivial).imp fun _ hd => hd.2
    · have hexec : exec (.pageSeal p pg v) s = run (fun c => c.access p pg.toNat true fun d => d.sealWrite p pg.toNat v.toNat) s := rfl
      refine (becomes_of_disarmed (ok := fun _ => True) hexec ((Chip.access_armed hr hpage harm _).2 hdown)
        (Chip.offDomain_frame _) ?_ trivial).imp fun _ hd => hd.2
      simp only [List.mem_cons, List.not_mem_nil, or_false, not_or]
      exact ⟨hdrKey_ne_fldKey _ _ _ _ _ (by decide) (by decide), hdrKey_ne _ _ _ _ (by decide) (by decide) (by decide)⟩
    · have hacc : (s.chip.access q pg.toNat false fun d => d.errcntWrite pg.toNat v.toNat) = s.chip.errcntWrite pg.toNat v.toNat := by
        rw [hpg]
        exact s.chip.access_open hopen _ _
      refine setsRegs_of (exec_errcntClear_eq q pg v s) ?_ ?_
      · rw [hacc]
        exact (Chip.errcntWrite_frame _ _ _).mono (by simp) fun _ hk => hk
      · rw [hacc, Chip.armOf, Chip.ended_arms, (Chip.errcntWrite_frame _ _ _).arms (by decide), ← Chip.armOf]
        exact harm

end Sys2Proof.Machine
end

section
/-!
PROOF. What a block looks like away from some parts and some rows of cells. Two blocks that differ only there look the same, so rewriting
shows what a composed change leaves alone.
-/
namespace Sys2Proof.Machine

/-- A row of register cells: the one cell of a field on each page, the cells of a field with many, at an index that is bounded or not, or the
event word of a page class. -/
inductive Spot where
  | one (r : FieldRow)
  | upto (r : FieldRow)
  | many (r : FieldRow)
  | evt (cls : PageCls)
  deriving DecidableEq

/-- The cells of a row. -/
def Spot.Has (k : Nat) : Spot → Prop
  | .one r => ∃ n, n < r.cls.count ∧ k = r.key n 0
  | .upto r => ∃ n i, n < r.cls.count ∧ i < 65536 ∧ k = r.key n i
  | .many r => ∃ n i, n < r.cls.count ∧ k = r.key n i
  | .evt cls => ∃ n, n < cls.count ∧ k = evtKey (cls.base + n)

/-- The cells of some rows. -/
def Touched (R : List Spot) (k : Nat) : Prop := ∃ x ∈ R, x.Has k

/-- Blocks that differ in the parts `S` and the cells of `R` only are alike. -/
def Chip.alike (S : List Part) (R : List Spot) : Setoid Chip where
  r c d := c.Frame S (Touched R) d
  iseqv := ⟨fun c => .refl c, fun h => h.symm, fun h h' => h.trans h'⟩

/-- The block away from the parts `S` and the cells of `R`. -/
def Chip.away (S : List Part) (R : List Spot) (c : Chip) : Quotient (Chip.alike S R) := Quotient.mk _ c

section
variable {c d e : Chip} {S : List Part} {R : List Spot} {r : FieldRow} {n i v : Nat}

theorem Chip.away_eq_iff : d.away S R = c.away S R ↔ c.Frame S (Touched R) d :=
  ⟨fun h => Chip.Frame.symm (Quotient.exact h), fun h => Quotient.sound h.symm⟩

theorem Chip.Frame.away (h : c.Frame S (Touched R) d) : d.away S R = c.away S R := Chip.away_eq_iff.mpr h

theorem cells_one (h : Spot.one r ∈ R) (hn : n < r.cls.count) : Touched R (r.key n 0) := ⟨_, h, n, hn, rfl⟩
theorem cells_many (h : Spot.many r ∈ R) (hn : n < r.cls.count) (i : Nat) : Touched R (r.key n i) := ⟨_, h, n, i, hn, rfl⟩
theorem cells_upto (h : Spot.upto r ∈ R) (hn : n < r.cls.count) (hi : i < 65536) : Touched R (r.key n i) := ⟨_, h, n, i, hn, hi, rfl⟩
theorem cells_evt {cls : PageCls} (h : Spot.evt cls ∈ R) (hn : n < cls.count) : Touched R (evtKey (cls.base + n)) := ⟨_, h, n, hn, rfl⟩

theorem mem_of_sub {α : Type} {l R : List α} {x : α} (h : l ⊆ R) (hx : x ∈ l) : x ∈ R := h hx

theorem Chip.away_setFld (h : Spot.one r ∈ R) (hn : n < r.cls.count) : (d.setFld r v n).away S R = d.away S R :=
  ((Chip.Frame.refl d).setFld r v n 0 (cells_one h hn)).away
theorem Chip.away_setFld_many (h : Spot.many r ∈ R) (hn : n < r.cls.count) : (d.setFld r v n i).away S R = d.away S R :=
  ((Chip.Frame.refl d).setFld r v n i (cells_many h hn i)).away
theorem Chip.away_setFld_upto (h : Spot.upto r ∈ R) (hn : n < r.cls.count) (hi : i < 65536) : (d.setFld r v n i).away S R = d.away S R :=
  ((Chip.Frame.refl d).setFld r v n i (cells_upto h hn hi)).away
theorem Chip.away_bump_upto (h : Spot.upto r ∈ R) (hn : n < r.cls.count) (hi : i < 65536) : (d.bump r n i).away S R = d.away S R :=
  Chip.away_setFld_upto h hn hi
theorem Chip.away_bump (h : Spot.one r ∈ R) (hn : n < r.cls.count) : (d.bump r n).away S R = d.away S R := Chip.away_setFld h hn
theorem Chip.away_bumpBy (h : Spot.one r ∈ R) (hn : n < r.cls.count) : (d.bumpBy r v n).away S R = d.away S R := Chip.away_setFld h hn
theorem Chip.away_bumpWrap (h : Spot.one r ∈ R) (hn : n < r.cls.count) : (d.bumpWrap r n).away S R = d.away S R := Chip.away_setFld h hn
theorem Chip.away_setBit {b : Bool} (h : Spot.one r ∈ R) (hn : n < r.cls.count) : (d.setBit r b n).away S R = d.away S R :=
  Chip.away_setFld h hn
theorem Chip.away_bump_many (h : Spot.many r ∈ R) (hn : n < r.cls.count) : (d.bump r n i).away S R = d.away S R :=
  Chip.away_setFld_many h hn
theorem Chip.away_bumpBy_many (h : Spot.many r ∈ R) (hn : n < r.cls.count) : (d.bumpBy r v n i).away S R = d.away S R :=
  Chip.away_setFld_many h hn
theorem Chip.away_bumpWrap_many (h : Spot.many r ∈ R) (hn : n < r.cls.count) : (d.bumpWrap r n i).away S R = d.away S R :=
  Chip.away_setFld_many h hn
theorem Chip.away_setBit_many {b : Bool} (h : Spot.many r ∈ R) (hn : n < r.cls.count) : (d.setBit r b n i).away S R = d.away S R :=
  Chip.away_setFld_many h hn
theorem Chip.away_flag (h : Spot.one r ∈ R) (hn : n < r.cls.count) : (d.flag r v n).away S R = d.away S R :=
  ((Chip.Frame.refl d).flag r v n 0 (cells_one h hn)).away
theorem Chip.away_flag_many (h : Spot.many r ∈ R) (hn : n < r.cls.count) : (d.flag r v n i).away S R = d.away S R :=
  ((Chip.Frame.refl d).flag r v n i (cells_many h hn i)).away
theorem Chip.away_setFld64 {lo hi : FieldRow} (h : Spot.one lo ∈ R) (h' : Spot.one hi ∈ R) (hn : n < lo.cls.count) (hn' : n < hi.cls.count) :
    (d.setFld64 lo hi v n).away S R = d.away S R :=
  ((Chip.Frame.refl d).setFld64 lo hi v n 0 (cells_one h hn) (cells_one h' hn')).away
theorem Chip.away_raise {v : Evt} (h : Spot.evt v.cls ∈ R) (hn : n < v.cls.count) : (d.raise v n).away S R = d.away S R :=
  ((Chip.Frame.refl d).raise v n (cells_evt h hn)).away

theorem Chip.away_raise_reel {b : Nat} (h : Spot.evt .reel ∈ R) : (d.raise { cls := .reel, bit := b }).away S R = d.away S R :=
  ((Chip.Frame.refl d).raise { cls := .reel, bit := b } 0 (cells_evt (cls := .reel) (n := 0) h Nat.one_pos)).away
theorem Chip.away_fault (h : Spot.one r ∈ R) (he : Spot.evt .flyer ∈ R) (hn : n < r.cls.count) (hn' : n < 96) :
    (d.fault r n).away S R = d.away S R := (Chip.away_raise (v := EV.FLYER_GUARD_EVENT) he hn').trans (Chip.away_flag h hn)

theorem Chip.away_ite {p : Prop} [Decidable p] : (if p then d else e).away S R = if p then d.away S R else e.away S R := apply_ite _ _ _ _

theorem Chip.away_foldl {α : Type} {f : Chip → α → Chip} {l : List α} (h : ∀ d : Chip, ∀ x ∈ l, (f d x).away S R = d.away S R) :
    (l.foldl f d).away S R = d.away S R :=
  ((Chip.Frame.refl d).foldl l fun d x hx => Chip.away_eq_iff.mp (h d x hx)).away
theorem Chip.away_withPorts {x : Tab PortState} (h : .ports ∈ S) : ({ d with ports := x } : Chip).away S R = d.away S R :=
  ((Chip.Frame.refl d).withPorts x h).away
theorem Chip.away_withArms {x : Tab (Option Nat)} (h : .arms ∈ S) : ({ d with arms := x } : Chip).away S R = d.away S R :=
  ((Chip.Frame.refl d).withArms x h).away
theorem Chip.away_withEcc {x : Ecc} (h : .ecc ∈ S) : ({ d with ecc := x } : Chip).away S R = d.away S R :=
  ((Chip.Frame.refl d).withEcc x h).away
theorem Chip.away_withResetting {x : List Nat} (h : .resetting ∈ S) : ({ d with resetting := x } : Chip).away S R = d.away S R :=
  ((Chip.Frame.refl d).withResetting x h).away
theorem Chip.away_withFreeCtr {x : Nat} (h : .freeCtr ∈ S) : ({ d with freeCtr := x } : Chip).away S R = d.away S R :=
  ((Chip.Frame.refl d).withFreeCtr x h).away
theorem Chip.away_withModes {x : Modes} (h : .modes ∈ S) : ({ d with modes := x } : Chip).away S R = d.away S R :=
  ((Chip.Frame.refl d).withModes x h).away
theorem Chip.away_withPower {x : PowerMgr} (h : .power ∈ S) : ({ d with power := x } : Chip).away S R = d.away S R :=
  ((Chip.Frame.refl d).withPower x h).away
theorem Chip.away_withWhorl {x : Whorl} (h : .whorl ∈ S) : ({ d with whorl := x } : Chip).away S R = d.away S R :=
  ((Chip.Frame.refl d).withWhorl x h).away
theorem Chip.away_withImage {x : Image} (h : .image ∈ S) : ({ d with image := x } : Chip).away S R = d.away S R :=
  ((Chip.Frame.refl d).withImage x h).away
theorem Chip.away_withBuffer {x : Buffer} (h : .buffer ∈ S) : ({ d with buffer := x } : Chip).away S R = d.away S R :=
  ((Chip.Frame.refl d).withBuffer x h).away
theorem Chip.away_withTxOps {x : Tab TxOp} (h : .txOps ∈ S) : ({ d with txOps := x } : Chip).away S R = d.away S R :=
  ((Chip.Frame.refl d).withTxOps x h).away
theorem Chip.away_withReel {x : Reel} (h : .reel ∈ S) : ({ d with reel := x } : Chip).away S R = d.away S R :=
  ((Chip.Frame.refl d).withReel x h).away
theorem Chip.away_withAon {x : Nat} (h : .aon ∈ S) : ({ d with aon := x } : Chip).away S R = d.away S R :=
  ((Chip.Frame.refl d).withAon x h).away
theorem Chip.away_withCarder {x : Carder} (h : .carder ∈ S) : ({ d with carder := x } : Chip).away S R = d.away S R :=
  ((Chip.Frame.refl d).withCarder x h).away
theorem Chip.away_withHankIn {x : List Packet} (h : .hankIn ∈ S) : ({ d with hankIn := x } : Chip).away S R = d.away S R :=
  ((Chip.Frame.refl d).withHankIn x h).away
theorem Chip.away_withUplinks {x : Tab Uplink} (h : .uplinks ∈ S) : ({ d with uplinks := x } : Chip).away S R = d.away S R :=
  ((Chip.Frame.refl d).withUplinks x h).away
theorem Chip.away_withPly {x : Ply} (h : .ply ∈ S) : ({ d with ply := x } : Chip).away S R = d.away S R :=
  ((Chip.Frame.refl d).withPly x h).away
theorem Chip.away_withHostq {x : HostQ} (h : .hostq ∈ S) : ({ d with hostq := x } : Chip).away S R = d.away S R :=
  ((Chip.Frame.refl d).withHostq x h).away
theorem Chip.away_withHank {x : Hank} (h : .hank ∈ S) : ({ d with hank := x } : Chip).away S R = d.away S R :=
  ((Chip.Frame.refl d).withHank x h).away
theorem Chip.away_withDistaff {x : Distaff} (h : .distaff ∈ S) : ({ d with distaff := x } : Chip).away S R = d.away S R :=
  ((Chip.Frame.refl d).withDistaff x h).away
theorem Chip.away_withFates {x : Tab Fates} (h : .fates ∈ S) : ({ d with fates := x } : Chip).away S R = d.away S R :=
  ((Chip.Frame.refl d).withFates x h).away
theorem Chip.away_withDram {x : List Host.Cell} (h : .dram ∈ S) : ({ d with dram := x } : Chip).away S R = d.away S R :=
  ((Chip.Frame.refl d).withDram x h).away
theorem Chip.away_withSegs {x : Tab SegEng} (h : .segs ∈ S) : ({ d with segs := x } : Chip).away S R = d.away S R :=
  ((Chip.Frame.refl d).withSegs x h).away
theorem Chip.away_withSegTables {x : Tab Nat} (h : .segTables ∈ S) : ({ d with segTables := x } : Chip).away S R = d.away S R :=
  ((Chip.Frame.refl d).withSegTables x h).away
theorem Chip.away_withSegBuf {x : List Host.Cell} (h : .segBuf ∈ S) : ({ d with segBuf := x } : Chip).away S R = d.away S R :=
  ((Chip.Frame.refl d).withSegBuf x h).away
theorem Chip.away_withFlyers {x : Tab Flyer} (h : .flyers ∈ S) : ({ d with flyers := x } : Chip).away S R = d.away S R :=
  ((Chip.Frame.refl d).withFlyers x h).away
theorem Chip.away_withFlyTables {x : Tab Nat} (h : .flyTables ∈ S) : ({ d with flyTables := x } : Chip).away S R = d.away S R :=
  ((Chip.Frame.refl d).withFlyTables x h).away
theorem Chip.away_withDrift {x : Tab Drift} (h : .drift ∈ S) : ({ d with drift := x } : Chip).away S R = d.away S R :=
  ((Chip.Frame.refl d).withDrift x h).away
theorem Chip.away_withChain {x : Chain} (h : .chain ∈ S) : ({ d with chain := x } : Chip).away S R = d.away S R :=
  ((Chip.Frame.refl d).withChain x h).away
theorem Chip.away_withMirror {x : Mirror} (h : .mirror ∈ S) : ({ d with mirror := x } : Chip).away S R = d.away S R :=
  ((Chip.Frame.refl d).withMirror x h).away
theorem Chip.away_withHostWrites {x : List HostWrite} (h : .hostWrites ∈ S) : ({ d with hostWrites := x } : Chip).away S R = d.away S R :=
  ((Chip.Frame.refl d).withHostWrites x h).away
end

/-! ### Cells that a change does not touch -/

/-- The place of a row's cells on its first page. -/
def FieldRow.placed (r : FieldRow) : Bool := decide (r.off < 4096) && decide (r.lo < 32)

/-- The pages of one class lie below those of another. -/
def PageCls.below (a b : PageCls) : Bool := decide (a.base + a.count ≤ b.base)

/-- No cell of `x`, at an index below 65536, is one of the spot. A row whose index is not bounded is apart from lower pages only. -/
def FieldRow.apart (x : FieldRow) : Spot → Bool
  | .one r | .upto r => r.placed && (r.off != x.off || r.lo != x.lo || r.cls.below x.cls || x.cls.below r.cls)
  | .many r => r.placed && x.cls.below r.cls
  | .evt _ => x.off != 0x010

/-- A cell of row `x` is none of those touched. -/
theorem not_touched {x : FieldRow} {R : List Spot} (hR : (x.placed && R.all x.apart) = true) (m j : Nat) (hm : m < x.cls.count) (hj : j < 65536) :
    ¬ Touched R (x.key m j) := by
  rintro ⟨s, hs, hk⟩
  simp only [Bool.and_eq_true, List.all_eq_true, FieldRow.placed, decide_eq_true_eq] at hR
  obtain ⟨⟨hoff, hlo⟩, hall⟩ := hR
  have hsep := hall s hs
  cases s with
  | one r =>
    obtain ⟨n, hn, hk⟩ := hk
    simp only [FieldRow.apart, FieldRow.placed, PageCls.below, Bool.and_eq_true, Bool.or_eq_true, bne_iff_ne, decide_eq_true_eq] at hsep
    simp only [FieldRow.key, cellKey] at hk
    omega
  | upto r =>
    obtain ⟨n, i, hn, hi, hk⟩ := hk
    simp only [FieldRow.apart, FieldRow.placed, PageCls.below, Bool.and_eq_true, Bool.or_eq_true, bne_iff_ne, decide_eq_true_eq] at hsep
    simp only [FieldRow.key, cellKey] at hk
    omega
  | many r =>
    obtain ⟨n, i, hn, hk⟩ := hk
    simp only [FieldRow.apart, FieldRow.placed, PageCls.below, Bool.and_eq_true, decide_eq_true_eq] at hsep
    simp only [FieldRow.key, cellKey] at hk
    omega
  | evt cls =>
    obtain ⟨n, hn, hk⟩ := hk
    simp only [FieldRow.apart, bne_iff_ne] at hsep
    simp only [FieldRow.key, evtKey, cellKey, HDR.EVT] at hk
    omega

section
variable {c d : Chip} {S : List Part} {R : List Spot}

theorem Chip.Frame.fld_apart (h : c.Frame S (Touched R) d) (x : FieldRow) (m j : Nat) (hR : (x.placed && R.all x.apart) = true)
    (hm : m < x.cls.count) (hj : j < 65536) : d.fld x m j = c.fld x m j := h.fld x m j (not_touched hR m j hm hj)

/-- A header field of the pages of a class, as a row. -/
def HdrRow.row (h : HdrRow) (cls : PageCls) : FieldRow := { cls := cls, off := h.off, hi := h.hi, lo := h.lo, acc := .ro }

theorem Chip.Frame.hdr_apart (h : c.Frame S (Touched R) d) (x : HdrRow) (cls : PageCls) (m : Nat)
    (hR : ((x.row cls).placed && R.all (x.row cls).apart) = true) (hm : m < cls.count) :
    d.hdr x (cls.base + m) = c.hdr x (cls.base + m) := h.hdr x _ (not_touched (x := x.row cls) hR m 0 hm (by decide))
end

end Sys2Proof.Machine
end

section
namespace Sys2Proof.Machine

section
variable {c : Chip} {S : List Part} {R : List Spot}

theorem Chip.away_xoffJudge {n : Nat} (hS : [.buffer] ⊆ S) (hR : [.evt .reel, .one REELGATE.XOFF_COUNT_COUNT] ⊆ R) (hn : n < 4) :
    (c.xoffJudge n).away S R = c.away S R := by
  unfold Chip.xoffJudge evXoff
  simp (disch := first
      | (apply mem_of_sub hS; decide) | (refine List.Subset.trans ?_ hS; decide) | (apply mem_of_sub hR; decide)
      | (refine List.Subset.trans ?_ hR; decide) | with_unfolding_all exact id hn | decide) only [Chip.away_ite, ite_self, Chip.away_bump,
      Chip.away_raise_reel, Chip.away_withBuffer]

theorem Chip.away_xoffJudgeAll  (hS : [.buffer] ⊆ S) (hR : [.evt .reel, .one REELGATE.XOFF_COUNT_COUNT] ⊆ R) :
    (c.xoffJudgeAll).away S R = c.away S R := by
  refine Chip.away_foldl fun d n hn => ?_
  exact Chip.away_xoffJudge hS hR (List.mem_range.mp hn)

theorem Chip.away_returnCells {p : Nat} {k : Cells} (hS : [.buffer] ⊆ S) (hR : [.evt .reel, .one REELGATE.XOFF_COUNT_COUNT] ⊆ R) :
    (c.returnCells p k).away S R = c.away S R := by
  unfold Chip.returnCells
  simp only [Chip.away_xoffJudgeAll hS hR]
  simp (disch := first | (apply mem_of_sub hS; decide)) only [Chip.away_withBuffer]

theorem Chip.away_updOp {t : Nat} {f : TxOp → TxOp} (hS : [.txOps] ⊆ S) :
    (c.updOp t f).away S R = c.away S R := by
  unfold Chip.updOp
  simp (disch := first | (apply mem_of_sub hS; decide) | (refine List.Subset.trans ?_ hS; decide) | decide) only [Chip.away_withTxOps]

theorem Chip.away_setTagState {t : Nat} {v : Nat} (hR : [.many HOSTQ.LEDGER_ENTRY0_STATE] ⊆ R) :
    (c.setTagState t v).away S R = c.away S R := by
  unfold Chip.setTagState
  simp (disch := first | (apply mem_of_sub hR; decide) | (refine List.Subset.trans ?_ hR; decide) | decide) only [Chip.away_setFld_many]

theorem Chip.away_opProgress {t : Nat} {k : Nat} (hR : [.many HOSTQ.LEDGER_ENTRY0_STATE, .many HOSTQ.LEDGER_ENTRY1_PROGRESS] ⊆ R) :
    (c.opProgress t k).away S R = c.away S R := by
  unfold Chip.opProgress
  simp (disch := first
      | (apply mem_of_sub hR; decide) | (refine List.Subset.trans ?_ hR; decide) | decide) only [Chip.away_ite, ite_self, Chip.away_bumpBy_many,
      Chip.away_setTagState]

theorem Chip.away_freezeTag {t : Nat} (hR : [.many HOSTQ.LEDGER_ENTRY0_FROZEN] ⊆ R) :
    (c.freezeTag t).away S R = c.away S R := by
  unfold Chip.freezeTag
  simp (disch := first | (apply mem_of_sub hR; decide) | (refine List.Subset.trans ?_ hR; decide) | decide) only [Chip.away_setFld_many]

theorem Chip.away_updHostq {f : HostQ → HostQ} (hS : [.hostq] ⊆ S) :
    (c.updHostq f).away S R = c.away S R := by
  unfold Chip.updHostq
  simp (disch := first | (apply mem_of_sub hS; decide) | (refine List.Subset.trans ?_ hS; decide) | decide) only [Chip.away_withHostq]

theorem Chip.away_opDone {t : Nat} {status : Nat} (hS : [.hostq] ⊆ S) (hR : [.many HOSTQ.LEDGER_ENTRY0_FROZEN, .many HOSTQ.LEDGER_ENTRY0_STATE,
    .many HOSTQ.LEDGER_ENTRY0_STATUS] ⊆ R) :
    (c.opDone t status).away S R = c.away S R := by
  unfold Chip.opDone
  simp (disch := first
      | (apply mem_of_sub hS; decide) | (refine List.Subset.trans ?_ hS; decide) | (apply mem_of_sub hR; decide)
      | (refine List.Subset.trans ?_ hR; decide) | decide) only [Chip.away_ite, ite_self, Chip.away_setFld_many, Chip.away_setTagState,
      Chip.away_freezeTag, Chip.away_updHostq]

theorem Chip.away_opPartial {t : Nat} (hS : [.hostq] ⊆ S) (hR : [.many HOSTQ.LEDGER_ENTRY0_FROZEN, .many HOSTQ.LEDGER_ENTRY0_STATE,
    .many HOSTQ.LEDGER_ENTRY0_STATUS, .one HOSTQ.PARTIALS_COUNT] ⊆ R) :
    (c.opPartial t).away S R = c.away S R := by
  unfold Chip.opPartial
  simp (disch := first
      | (apply mem_of_sub hS; decide) | (refine List.Subset.trans ?_ hS; decide) | (apply mem_of_sub hR; decide)
      | (refine List.Subset.trans ?_ hR; decide) | decide) only [Chip.away_bump, Chip.away_opDone]

theorem Chip.away_txJudge {t : Nat} (hS : [.hostq] ⊆ S) (hR : [.many HOSTQ.LEDGER_ENTRY0_FROZEN, .many HOSTQ.LEDGER_ENTRY0_STATE,
    .many HOSTQ.LEDGER_ENTRY0_STATUS, .one HOSTQ.PARTIALS_COUNT] ⊆ R) :
    (c.txJudge t).away S R = c.away S R := by
  unfold Chip.txJudge
  simp (disch := first
      | (apply mem_of_sub hS; decide) | (refine List.Subset.trans ?_ hS; decide) | (apply mem_of_sub hR; decide)
      | (refine List.Subset.trans ?_ hR; decide) | decide) only [Chip.away_ite, ite_self, Chip.away_opPartial, Chip.away_opDone]

theorem Chip.away_opCopy {t : Nat} {whole : Bool} {primary : Bool} {status : Nat} {detail : Nat} {egress : Nat} (hS : [.txOps, .hostq] ⊆ S)
    (hR : [.many HOSTQ.LEDGER_ENTRY0_FROZEN, .many HOSTQ.LEDGER_ENTRY0_STATE, .many HOSTQ.LEDGER_ENTRY0_STATUS,
    .many HOSTQ.LEDGER_ENTRY1_PROGRESS, .one HOSTQ.PARTIALS_COUNT] ⊆ R) :
    (c.opCopy t whole primary status detail egress).away S R = c.away S R := by
  unfold Chip.opCopy
  simp (disch := first
      | (apply mem_of_sub hS; decide) | (refine List.Subset.trans ?_ hS; decide) | (apply mem_of_sub hR; decide)
      | (refine List.Subset.trans ?_ hR; decide) | decide) only [Chip.away_ite, ite_self, Chip.away_updOp, Chip.away_opProgress, Chip.away_txJudge]

theorem Chip.away_updHank {f : Hank → Hank} (hS : [.hank] ⊆ S) :
    (c.updHank f).away S R = c.away S R := by
  unfold Chip.updHank
  simp (disch := first | (apply mem_of_sub hS; decide) | (refine List.Subset.trans ?_ hS; decide) | decide) only [Chip.away_withHank]

theorem Chip.away_setMsg {id : Nat} {m : Option HankMsg} (hS : [.hank] ⊆ S) :
    (c.setMsg id m).away S R = c.away S R := by
  unfold Chip.setMsg
  simp (disch := first | (apply mem_of_sub hS; decide) | (refine List.Subset.trans ?_ hS; decide) | decide) only [Chip.away_updHank]

theorem Chip.away_itemsOut {tag : Option Nat} {k : Nat} (hR : [.one DISTAFF.ITEMS_OUT_COUNT, .many HOSTQ.LEDGER_ENTRY0_STATE,
    .many HOSTQ.LEDGER_ENTRY1_PROGRESS] ⊆ R) :
    (c.itemsOut tag k).away S R = c.away S R := by
  unfold Chip.itemsOut
  repeat' (first | simp (disch := first
      | (apply mem_of_sub hR; decide) | (refine List.Subset.trans ?_ hR; decide) | decide) only [Chip.away_setFld, Chip.away_opProgress] | split)

theorem Chip.away_setShare {k : Nat} {v : Option Share} (hS : [.distaff] ⊆ S) :
    (c.setShare k v).away S R = c.away S R := by
  unfold Chip.setShare
  simp (disch := first | (apply mem_of_sub hS; decide) | (refine List.Subset.trans ?_ hS; decide) | decide) only [Chip.away_withDistaff]

theorem Chip.away_updShare {k : Nat} {f : Share → Share} (hS : [.distaff] ⊆ S) :
    (c.updShare k f).away S R = c.away S R := by
  unfold Chip.updShare
  repeat' (first | simp (disch := first
      | (apply mem_of_sub hS; decide) | (refine List.Subset.trans ?_ hS; decide) | decide) only [Chip.away_setShare] | split)

theorem Chip.away_partSent {key : Nat} {w : Nat} (hS : [.distaff] ⊆ S) :
    (c.partSent key w).away S R = c.away S R := by
  unfold Chip.partSent
  simp (disch := first | (apply mem_of_sub hS; decide) | (refine List.Subset.trans ?_ hS; decide) | decide) only [Chip.away_updShare]

theorem Chip.away_abortEnd {t : Nat} (hS : [.hostq] ⊆ S) (hR : [.many HOSTQ.LEDGER_ENTRY0_FROZEN, .many HOSTQ.LEDGER_ENTRY0_STATE,
    .many HOSTQ.LEDGER_ENTRY0_STATUS, .one HOSTQ.PARTIALS_COUNT] ⊆ R) :
    (c.abortEnd t).away S R = c.away S R := by
  unfold Chip.abortEnd
  simp (disch := first
      | (apply mem_of_sub hS; decide) | (refine List.Subset.trans ?_ hS; decide) | (apply mem_of_sub hR; decide)
      | (refine List.Subset.trans ?_ hR; decide) | decide) only [Chip.away_ite, ite_self, Chip.away_opPartial]

theorem Chip.away_hankLeft {id : Nat} {whole : Bool} (hS : [.hostq, .hank, .distaff] ⊆ S) (hR : [.one DISTAFF.ITEMS_OUT_COUNT,
    .one HANK.TX_MSGS_COUNT, .many HOSTQ.LEDGER_ENTRY0_FROZEN, .many HOSTQ.LEDGER_ENTRY0_STATE, .many HOSTQ.LEDGER_ENTRY0_STATUS,
    .many HOSTQ.LEDGER_ENTRY1_PROGRESS, .one HOSTQ.PARTIALS_COUNT] ⊆ R) :
    (c.hankLeft id whole).away S R = c.away S R := by
  unfold Chip.hankLeft
  repeat' (first | simp (disch := first
      | (apply mem_of_sub hS; decide) | (refine List.Subset.trans ?_ hS; decide) | (apply mem_of_sub hR; decide)
      | (refine List.Subset.trans ?_ hR; decide) | decide) only [Chip.away_ite, ite_self, Chip.away_bumpWrap, Chip.away_setMsg,
      Chip.away_itemsOut, Chip.away_partSent, Chip.away_abortEnd] | split)

theorem Chip.away_copyFate {p : Packet} {whole : Bool} {status : Nat} {detail : Nat} (hS : [.buffer, .txOps, .hostq, .hank, .distaff] ⊆ S)
    (hR : [.evt .reel, .one DISTAFF.ITEMS_OUT_COUNT, .one HANK.TX_MSGS_COUNT, .many HOSTQ.LEDGER_ENTRY0_FROZEN, .many HOSTQ.LEDGER_ENTRY0_STATE,
    .many HOSTQ.LEDGER_ENTRY0_STATUS, .many HOSTQ.LEDGER_ENTRY1_PROGRESS, .one HOSTQ.PARTIALS_COUNT, .one REELGATE.XOFF_COUNT_COUNT] ⊆ R) :
    (c.copyFate p whole status detail).away S R = c.away S R := by
  unfold Chip.copyFate
  repeat' (first | simp (disch := first
      | (apply mem_of_sub hS; decide) | (refine List.Subset.trans ?_ hS; decide) | (apply mem_of_sub hR; decide)
      | (refine List.Subset.trans ?_ hR; decide) | decide) only [Chip.away_returnCells, Chip.away_opCopy, Chip.away_hankLeft] | split)

theorem Chip.away_setUpl {n : Nat} {u : Uplink} (hS : [.uplinks] ⊆ S) :
    (c.setUpl n u).away S R = c.away S R := by
  unfold Chip.setUpl
  simp (disch := first | (apply mem_of_sub hS; decide) | (refine List.Subset.trans ?_ hS; decide) | decide) only [Chip.away_withUplinks]

theorem Chip.away_cutTx {n : Nat} (hS : [.buffer, .txOps, .uplinks, .hostq, .hank, .distaff] ⊆ S) (hR : [.evt .reel,
    .one DISTAFF.ITEMS_OUT_COUNT, .one HANK.TX_MSGS_COUNT, .many HOSTQ.LEDGER_ENTRY0_FROZEN, .many HOSTQ.LEDGER_ENTRY0_STATE,
    .many HOSTQ.LEDGER_ENTRY0_STATUS, .many HOSTQ.LEDGER_ENTRY1_PROGRESS, .one HOSTQ.PARTIALS_COUNT, .one REELGATE.XOFF_COUNT_COUNT,
    .one UPLINK.TX_LINK_ABORT_COUNT] ⊆ R) (hn : n < 4) :
    (c.cutTx n).away S R = c.away S R := by
  unfold Chip.cutTx
  repeat' (first | simp (disch := first
      | (apply mem_of_sub hS; decide) | (refine List.Subset.trans ?_ hS; decide) | (apply mem_of_sub hR; decide)
      | (refine List.Subset.trans ?_ hR; decide) | with_unfolding_all exact id hn | decide) only [Chip.away_ite, ite_self, Chip.away_bump,
      Chip.away_copyFate, Chip.away_setUpl] | split)

theorem Chip.away_updUpl {n : Nat} {f : Uplink → Uplink} (hS : [.uplinks] ⊆ S) :
    (c.updUpl n f).away S R = c.away S R := by
  unfold Chip.updUpl
  simp (disch := first | (apply mem_of_sub hS; decide) | (refine List.Subset.trans ?_ hS; decide) | decide) only [Chip.away_setUpl]

theorem Chip.away_reasmDrop {n : Nat} (hS : [.uplinks] ⊆ S) (hR : [.evt .uplink, .one UPLINK.RX_ASSY_ERR_COUNT] ⊆ R) (hn : n < 4) :
    (c.reasmDrop n).away S R = c.away S R := by
  unfold Chip.reasmDrop
  repeat' (first | simp (disch := first
      | (apply mem_of_sub hS; decide) | (refine List.Subset.trans ?_ hS; decide) | (apply mem_of_sub hR; decide)
      | (refine List.Subset.trans ?_ hR; decide) | with_unfolding_all exact id hn | decide) only [Chip.away_bump, Chip.away_raise,
      Chip.away_updUpl] | split)

theorem Chip.away_rxCutOff {n : Nat} (hS : [.uplinks] ⊆ S) (hR : [.evt .uplink, .one UPLINK.RX_CODE_ERR_COUNT] ⊆ R) (hn : n < 4) :
    (c.rxCutOff n).away S R = c.away S R := by
  unfold Chip.rxCutOff
  simp (disch := first
      | (apply mem_of_sub hS; decide) | (refine List.Subset.trans ?_ hS; decide) | (apply mem_of_sub hR; decide)
      | (refine List.Subset.trans ?_ hR; decide) | with_unfolding_all exact id hn | decide) only [Chip.away_bump, Chip.away_raise, Chip.away_updUpl]

theorem Chip.away_flushDrop {n : Nat} {p : Packet} (hS : [.buffer, .txOps, .uplinks, .hostq, .hank, .distaff] ⊆ S) (hR : [.evt .reel,
    .one DISTAFF.ITEMS_OUT_COUNT, .one HANK.TX_MSGS_COUNT, .many HOSTQ.LEDGER_ENTRY0_FROZEN, .many HOSTQ.LEDGER_ENTRY0_STATE,
    .many HOSTQ.LEDGER_ENTRY0_STATUS, .many HOSTQ.LEDGER_ENTRY1_PROGRESS, .one HOSTQ.PARTIALS_COUNT, .one REELGATE.LINK_FLUSH_COUNT,
    .one REELGATE.XOFF_COUNT_COUNT] ⊆ R) (hn : n < 4) :
    (c.flushDrop n p).away S R = c.away S R := by
  unfold Chip.flushDrop
  simp (disch := first
      | (apply mem_of_sub hS; decide) | (refine List.Subset.trans ?_ hS; decide) | (apply mem_of_sub hR; decide)
      | (refine List.Subset.trans ?_ hR; decide) | with_unfolding_all exact id hn | decide) only [Chip.away_ite, ite_self, Chip.away_bump,
      Chip.away_raise, Chip.away_updUpl, Chip.away_copyFate]

theorem Chip.away_setQueue {p : Nat} {k : Nat} {l : List Packet} (hS : [.reel] ⊆ S) :
    (c.setQueue p k l).away S R = c.away S R := by
  unfold Chip.setQueue
  simp (disch := first | (apply mem_of_sub hS; decide) | (refine List.Subset.trans ?_ hS; decide) | decide) only [Chip.away_withReel]

theorem Chip.away_flushQueues {n : Nat} (hS : [.buffer, .txOps, .reel, .uplinks, .hostq, .hank, .distaff] ⊆ S) (hR : [.evt .reel,
    .one DISTAFF.ITEMS_OUT_COUNT, .one HANK.TX_MSGS_COUNT, .many HOSTQ.LEDGER_ENTRY0_FROZEN, .many HOSTQ.LEDGER_ENTRY0_STATE,
    .many HOSTQ.LEDGER_ENTRY0_STATUS, .many HOSTQ.LEDGER_ENTRY1_PROGRESS, .one HOSTQ.PARTIALS_COUNT, .one REELGATE.LINK_FLUSH_COUNT,
    .one REELGATE.XOFF_COUNT_COUNT] ⊆ R) (hn : n < 4) :
    (c.flushQueues n).away S R = c.away S R := by
  unfold Chip.flushQueues
  split
  · rfl
  · refine Chip.away_foldl fun d k _ => (Chip.away_foldl fun e p _ => ?_).trans ?_
    · exact Chip.away_flushDrop (List.Subset.trans (by decide) hS) (List.Subset.trans (by decide) hR) hn
    · exact Chip.away_setQueue (List.Subset.trans (by decide) hS)

theorem Chip.away_leaveUp {n : Nat} {rxBusy : Option Bool} (hS : [.buffer, .txOps, .reel, .uplinks, .hostq, .hank, .distaff] ⊆ S)
    (hR : [.evt .reel, .evt .uplink, .one DISTAFF.ITEMS_OUT_COUNT, .one HANK.TX_MSGS_COUNT, .many HOSTQ.LEDGER_ENTRY0_FROZEN,
    .many HOSTQ.LEDGER_ENTRY0_STATE, .many HOSTQ.LEDGER_ENTRY0_STATUS, .many HOSTQ.LEDGER_ENTRY1_PROGRESS, .one HOSTQ.PARTIALS_COUNT,
    .one REELGATE.LINK_FLUSH_COUNT, .one REELGATE.XOFF_COUNT_COUNT, .one UPLINK.LINK_DOWNS_COUNT, .one UPLINK.RX_ASSY_ERR_COUNT,
    .one UPLINK.RX_CODE_ERR_COUNT, .one UPLINK.TX_LINK_ABORT_COUNT] ⊆ R) (hn : n < 4) :
    (c.leaveUp n rxBusy).away S R = c.away S R := by
  unfold Chip.leaveUp
  repeat' (first | simp (disch := first
      | (apply mem_of_sub hS; decide) | (refine List.Subset.trans ?_ hS; decide) | (apply mem_of_sub hR; decide)
      | (refine List.Subset.trans ?_ hR; decide) | with_unfolding_all exact id hn | decide) only [Chip.away_bump, Chip.away_cutTx,
      Chip.away_reasmDrop, Chip.away_rxCutOff, Chip.away_updUpl, Chip.away_flushQueues] | split)

theorem Chip.away_ceilingJudge  (hS : [.power] ⊆ S) :
    (c.ceilingJudge).away S R = c.away S R := by
  unfold Chip.ceilingJudge
  simp (disch := first
      | (apply mem_of_sub hS; decide) | (refine List.Subset.trans ?_ hS; decide) | decide) only [Chip.away_ite, ite_self, Chip.away_withPower]

theorem Chip.away_releaseLeave {op : LeaveOp} (hS : [.power] ⊆ S) :
    (c.releaseLeave op).away S R = c.away S R := by
  unfold Chip.releaseLeave
  simp (disch := first
      | (apply mem_of_sub hS; decide) | (refine List.Subset.trans ?_ hS; decide) | decide) only [Chip.away_withPower, Chip.away_ceilingJudge]

theorem Chip.away_setUlSt {n : Nat} {v : Nat} (hR : [.one UPLINK.LINK_STATUS_STATE] ⊆ R) (hn : n < 4) :
    (c.setUlSt n v).away S R = c.away S R := by
  unfold Chip.setUlSt
  simp (disch := first
      | (apply mem_of_sub hR; decide) | (refine List.Subset.trans ?_ hR; decide) | with_unfolding_all exact id hn | decide) only [Chip.away_setFld]

theorem Chip.away_verifyReset {n : Nat} (hR : [.one UPLINK.MERGE_STATUS_ACTIVE, .one UPLINK.MERGE_STATUS_ATTEMPTS,
    .one UPLINK.MERGE_STATUS_VERIFY_STATE] ⊆ R) (hn : n < 4) :
    (c.verifyReset n).away S R = c.away S R := by
  unfold Chip.verifyReset
  simp (disch := first
      | (apply mem_of_sub hR; decide) | (refine List.Subset.trans ?_ hR; decide) | with_unfolding_all exact id hn | decide) only [Chip.away_setFld]

theorem Chip.away_lineClear {n : Nat} (hR : [.one UPLINK.LINK_STATUS_BLOCK_LOCK, .one UPLINK.LINK_STATUS_FEC_LOCK,
    .one UPLINK.LINK_STATUS_HI_BER, .one UPLINK.LINK_STATUS_LOCAL_FAULT, .one UPLINK.LINK_STATUS_REMOTE_FAULT] ⊆ R) (hn : n < 4) :
    (c.lineClear n).away S R = c.away S R := by
  unfold Chip.lineClear
  simp (disch := first
      | (apply mem_of_sub hR; decide) | (refine List.Subset.trans ?_ hR; decide) | with_unfolding_all exact id hn | decide) only [Chip.away_setFld]

theorem Chip.away_c7Eval {n : Nat} (hR : [.evt .reel, .one REELGATE.C7_BURST_SUM_CNS, .one REELGATE.C7_COND_FAIL, .one REELGATE.C7_COND_OK,
    .one REELGATE.C7_GATE_WAIT_NS, .one REELGATE.C7_OPEN_FRACTION, .one REELGATE.C7_RATE_SUM_KBPS] ⊆ R) (hn : n < 4) :
    (c.c7Eval n).away S R = c.away S R := by
  unfold Chip.c7Eval
  split
  simp (disch := first
      | (apply mem_of_sub hR; decide) | (refine List.Subset.trans ?_ hR; decide) | with_unfolding_all exact id hn | decide) only [Chip.away_ite,
      ite_self, Chip.away_raise_reel, Chip.away_setBit, Chip.away_setFld]

theorem Chip.away_uplinkOff {n : Nat} (hS : [.power, .buffer, .txOps, .reel, .uplinks, .hostq, .hank, .distaff] ⊆ S) (hR : [.evt .reel,
    .evt .uplink, .one DISTAFF.ITEMS_OUT_COUNT, .one HANK.TX_MSGS_COUNT, .many HOSTQ.LEDGER_ENTRY0_FROZEN, .many HOSTQ.LEDGER_ENTRY0_STATE,
    .many HOSTQ.LEDGER_ENTRY0_STATUS, .many HOSTQ.LEDGER_ENTRY1_PROGRESS, .one HOSTQ.PARTIALS_COUNT, .one REELGATE.C7_BURST_SUM_CNS,
    .one REELGATE.C7_COND_FAIL, .one REELGATE.C7_COND_OK, .one REELGATE.C7_GATE_WAIT_NS, .one REELGATE.C7_OPEN_FRACTION,
    .one REELGATE.C7_RATE_SUM_KBPS, .one REELGATE.LINK_FLUSH_COUNT, .one REELGATE.XOFF_COUNT_COUNT, .one UPLINK.LINK_DOWNS_COUNT,
    .one UPLINK.LINK_STATUS_BLOCK_LOCK, .one UPLINK.LINK_STATUS_FEC_LOCK, .one UPLINK.LINK_STATUS_HI_BER, .one UPLINK.LINK_STATUS_LOCAL_FAULT,
    .one UPLINK.LINK_STATUS_REMOTE_FAULT, .one UPLINK.LINK_STATUS_STATE, .one UPLINK.MERGE_STATUS_ACTIVE, .one UPLINK.MERGE_STATUS_ATTEMPTS,
    .one UPLINK.MERGE_STATUS_VERIFY_STATE, .one UPLINK.RX_ASSY_ERR_COUNT, .one UPLINK.RX_CODE_ERR_COUNT, .one UPLINK.TX_LINK_ABORT_COUNT] ⊆ R)
    (hn : n < 4) :
    (c.uplinkOff n).away S R = c.away S R := by
  unfold Chip.uplinkOff
  repeat' (first | simp (disch := first
      | (apply mem_of_sub hS; decide) | (refine List.Subset.trans ?_ hS; decide) | (apply mem_of_sub hR; decide)
      | (refine List.Subset.trans ?_ hR; decide) | with_unfolding_all exact id hn | decide) only [Chip.away_ite, ite_self, Chip.away_leaveUp,
      Chip.away_releaseLeave, Chip.away_setUlSt, Chip.away_verifyReset, Chip.away_lineClear, Chip.away_c7Eval] | split)

theorem Chip.away_holdLeave {op : LeaveOp} {cost : Nat} {reserve : Bool} (hS : [.power] ⊆ S) (hR : [.one POWER.LEAVE_GRANTS_COUNT] ⊆ R) :
    (c.holdLeave op cost reserve).away S R = c.away S R := by
  unfold Chip.holdLeave
  simp (disch := first
      | (apply mem_of_sub hS; decide) | (refine List.Subset.trans ?_ hS; decide) | (apply mem_of_sub hR; decide)
      | (refine List.Subset.trans ?_ hR; decide) | decide) only [Chip.away_bumpWrap, Chip.away_withPower]

theorem Chip.away_requestLeave {op : LeaveOp} (hS : [.power] ⊆ S) (hR : [.evt .power, .one POWER.LEAVE_GRANTS_COUNT] ⊆ R) :
    (c.requestLeave op).away S R = c.away S R := by
  unfold Chip.requestLeave
  repeat' (first | simp (disch := first
      | (apply mem_of_sub hS; decide) | (refine List.Subset.trans ?_ hS; decide) | (apply mem_of_sub hR; decide)
      | (refine List.Subset.trans ?_ hR; decide) | decide) only [Chip.away_ite, ite_self, Chip.away_raise, Chip.away_withPower,
      Chip.away_holdLeave] | split)

theorem Chip.away_uplinkTry {n : Nat} (hS : [.power] ⊆ S) (hR : [.evt .power, .one POWER.LEAVE_GRANTS_COUNT, .one UPLINK.LINK_STATUS_CFG_ERR,
    .one UPLINK.LINK_STATUS_FEC_IN_FORCE, .one UPLINK.LINK_STATUS_NO_LEAVE, .one UPLINK.LINK_STATUS_SPEED_IN_FORCE,
    .one UPLINK.LINK_STATUS_STATE] ⊆ R) (hn : n < 4) :
    (c.uplinkTry n).away S R = c.away S R := by
  unfold Chip.uplinkTry
  repeat' (first | simp (disch := first
      | (apply mem_of_sub hS; decide) | (refine List.Subset.trans ?_ hS; decide) | (apply mem_of_sub hR; decide)
      | (refine List.Subset.trans ?_ hR; decide) | with_unfolding_all exact id hn | decide) only [Chip.away_ite, Chip.away_setFld,
      Chip.away_requestLeave, Chip.away_setUlSt] | split)

theorem Chip.away_setFly {n : Nat} {f : Flyer} (hS : [.flyers] ⊆ S) :
    (c.setFly n f).away S R = c.away S R := by
  unfold Chip.setFly
  simp (disch := first | (apply mem_of_sub hS; decide) | (refine List.Subset.trans ?_ hS; decide) | decide) only [Chip.away_withFlyers]

theorem Chip.away_updFly {n : Nat} {f : Flyer → Flyer} (hS : [.flyers] ⊆ S) :
    (c.updFly n f).away S R = c.away S R := by
  unfold Chip.updFly
  simp (disch := first | (apply mem_of_sub hS; decide) | (refine List.Subset.trans ?_ hS; decide) | decide) only [Chip.away_setFly]

theorem Chip.away_setEng {n : Nat} {e : SegEng} (hS : [.segs] ⊆ S) :
    (c.setEng n e).away S R = c.away S R := by
  unfold Chip.setEng
  simp (disch := first | (apply mem_of_sub hS; decide) | (refine List.Subset.trans ?_ hS; decide) | decide) only [Chip.away_withSegs]

theorem Chip.away_updEng {n : Nat} {f : SegEng → SegEng} (hS : [.segs] ⊆ S) :
    (c.updEng n f).away S R = c.away S R := by
  unfold Chip.updEng
  simp (disch := first | (apply mem_of_sub hS; decide) | (refine List.Subset.trans ?_ hS; decide) | decide) only [Chip.away_setEng]

theorem Chip.away_endFrameAt {n : Nat} {t : Nat} (hS : [.segs, .flyers] ⊆ S) :
    (c.endFrameAt n t).away S R = c.away S R := by
  unfold Chip.endFrameAt
  simp (disch := first | (apply mem_of_sub hS; decide) | (refine List.Subset.trans ?_ hS; decide) | decide) only [Chip.away_updFly, Chip.away_updEng]

theorem Chip.away_dropCycle {n : Nat} (hS : [.segs] ⊆ S) (hR : [.one SEGMENT.SYNC_STATUS_CYCLE_VALID] ⊆ R) (hn : n < 96) :
    (c.dropCycle n).away S R = c.away S R := by
  unfold Chip.dropCycle
  simp (disch := first
      | (apply mem_of_sub hS; decide) | (refine List.Subset.trans ?_ hS; decide) | (apply mem_of_sub hR; decide)
      | (refine List.Subset.trans ?_ hR; decide) | with_unfolding_all exact id hn | decide) only [Chip.away_setFld, Chip.away_updEng]

theorem Chip.away_setSync {n : Nat} {st : Nat} {active : Bool} (hR : [.evt .segment, .one SEGMENT.SYNC_STATUS_ACTIVE,
    .one SEGMENT.SYNC_STATUS_STATE] ⊆ R) (hn : n < 96) :
    (c.setSync n st active).away S R = c.away S R := by
  unfold Chip.setSync
  simp (disch := first
      | (apply mem_of_sub hR; decide) | (refine List.Subset.trans ?_ hR; decide) | with_unfolding_all exact id hn | decide) only [Chip.away_ite,
      ite_self, Chip.away_raise, Chip.away_setBit, Chip.away_setFld]

theorem Chip.away_segDisable {n : Nat} (hS : [.segs, .flyers] ⊆ S) (hR : [.evt .segment, .one SEGMENT.CS_STATUS_TRIAL_LEFT,
    .one SEGMENT.SYNC_STATUS_ACTIVE, .one SEGMENT.SYNC_STATUS_CYCLE_VALID, .one SEGMENT.SYNC_STATUS_STATE, .upto SEGMENT.TURN_STAT_JOINED] ⊆ R)
    (hn : n < 96) :
    (c.segDisable n).away S R = c.away S R := by
  have hjoin (d : Chip) : ((List.range 64).foldl (fun d t => d.setFld SEGMENT.TURN_STAT_JOINED 0 n t) d).away S R = d.away S R :=
    Chip.away_foldl fun d t ht =>
      Chip.away_setFld_upto (mem_of_sub hR (by decide)) hn ((List.mem_range.mp ht).trans (by decide))
  unfold Chip.segDisable
  simp (disch := first
      | (apply mem_of_sub hS; decide) | (refine List.Subset.trans ?_ hS; decide) | (apply mem_of_sub hR; decide)
      | (refine List.Subset.trans ?_ hR; decide) | with_unfolding_all exact id hn | decide) only [Chip.away_ite, ite_self, hjoin,
      Chip.away_setFld, Chip.away_endFrameAt, Chip.away_dropCycle, Chip.away_setSync, Chip.away_updEng]

theorem Chip.away_flyEnable {n : Nat} (hR : [.one FLYER.SYNC_STATUS_STATE] ⊆ R) (hn : n < 96) :
    (c.flyEnable n).away S R = c.away S R := by
  unfold Chip.flyEnable
  simp (disch := first
      | (apply mem_of_sub hR; decide) | (refine List.Subset.trans ?_ hR; decide) | with_unfolding_all exact id hn | decide) only [Chip.away_ite,
      ite_self, Chip.away_setFld]

theorem Chip.away_budgetCount {n : Nat} (hS : [.flyers] ⊆ S) :
    (c.budgetCount n).away S R = c.away S R := by
  unfold Chip.budgetCount
  simp (disch := first | (apply mem_of_sub hS; decide) | (refine List.Subset.trans ?_ hS; decide) | decide) only [Chip.away_updFly]

theorem Chip.away_driverOff {n : Nat} (hS : [.flyers] ⊆ S) (hR : [.one FLYER.TX_STATUS_DRIVER_ON] ⊆ R) (hn : n < 96) :
    (c.driverOff n).away S R = c.away S R := by
  unfold Chip.driverOff
  simp (disch := first
      | (apply mem_of_sub hS; decide) | (refine List.Subset.trans ?_ hS; decide) | (apply mem_of_sub hR; decide)
      | (refine List.Subset.trans ?_ hR; decide) | with_unfolding_all exact id hn | decide) only [Chip.away_setFld, Chip.away_budgetCount,
      Chip.away_updFly]

theorem Chip.away_cleanEnd {n : Nat} (hS : [.flyers] ⊆ S) (hR : [.one FLYER.TX_STATUS_DRIVER_ON, .one FLYER.TX_STATUS_VIOL_RUN] ⊆ R) (hn : n < 96) :
    (c.cleanEnd n).away S R = c.away S R := by
  unfold Chip.cleanEnd
  repeat' (first | simp (disch := first
      | (apply mem_of_sub hS; decide) | (refine List.Subset.trans ?_ hS; decide) | (apply mem_of_sub hR; decide)
      | (refine List.Subset.trans ?_ hR; decide) | with_unfolding_all exact id hn | decide) only [Chip.away_ite, ite_self, Chip.away_setFld,
      Chip.away_driverOff] | split)

theorem Chip.away_latchTx {n : Nat} (hS : [.flyers] ⊆ S) (hR : [.evt .flyer, .one FLYER.FAULT_STATUS_TX_LATCHED, .one FLYER.LATCHES_COUNT,
    .one FLYER.TX_STATUS_DRIVER_ON, .one FLYER.TX_STATUS_LATCHED] ⊆ R) (hn : n < 96) :
    (c.latchTx n).away S R = c.away S R := by
  unfold Chip.latchTx
  simp (disch := first
      | (apply mem_of_sub hS; decide) | (refine List.Subset.trans ?_ hS; decide) | (apply mem_of_sub hR; decide)
      | (refine List.Subset.trans ?_ hR; decide) | with_unfolding_all exact id hn | decide) only [Chip.away_ite, ite_self, Chip.away_bump,
      Chip.away_fault, Chip.away_setFld, Chip.away_driverOff]

theorem Chip.away_violation {n : Nat} (hS : [.flyers] ⊆ S) (hR : [.evt .flyer, .one FLYER.FAULT_STATUS_TX_LATCHED,
    .one FLYER.FAULT_STATUS_TX_VIOLATION, .one FLYER.LATCHES_COUNT, .one FLYER.TX_STATUS_DRIVER_ON, .one FLYER.TX_STATUS_LATCHED,
    .one FLYER.TX_STATUS_VIOL_RUN] ⊆ R) (hn : n < 96) :
    (c.violation n).away S R = c.away S R := by
  unfold Chip.violation
  simp (disch := first
      | (apply mem_of_sub hS; decide) | (refine List.Subset.trans ?_ hS; decide) | (apply mem_of_sub hR; decide)
      | (refine List.Subset.trans ?_ hR; decide) | with_unfolding_all exact id hn | decide) only [Chip.away_ite, ite_self, Chip.away_bump,
      Chip.away_fault, Chip.away_latchTx]

theorem Chip.away_windowsShut {n : Nat} (hS : [.flyers] ⊆ S) (hR : [.evt .flyer, .one FLYER.FAULT_STATUS_TX_LATCHED,
    .one FLYER.FAULT_STATUS_TX_VIOLATION, .one FLYER.LATCHES_COUNT, .one FLYER.TRUNCATED_COUNT, .one FLYER.TX_STATUS_DRIVER_ON,
    .one FLYER.TX_STATUS_LATCHED, .one FLYER.TX_STATUS_VIOL_RUN] ⊆ R) (hn : n < 96) :
    (c.windowsShut n).away S R = c.away S R := by
  unfold Chip.windowsShut
  simp (disch := first
      | (apply mem_of_sub hS; decide) | (refine List.Subset.trans ?_ hS; decide) | (apply mem_of_sub hR; decide)
      | (refine List.Subset.trans ?_ hR; decide) | with_unfolding_all exact id hn | decide) only [Chip.away_ite, ite_self, Chip.away_bump,
      Chip.away_cleanEnd, Chip.away_driverOff, Chip.away_violation]

theorem Chip.away_flyOff {n : Nat} (hS : [.flyers] ⊆ S) (hR : [.evt .flyer, .one FLYER.FAULT_STATUS_TX_LATCHED,
    .one FLYER.FAULT_STATUS_TX_VIOLATION, .one FLYER.LATCHES_COUNT, .one FLYER.SYNC_STATUS_CYCLE_OK, .one FLYER.SYNC_STATUS_EXT_ALLOW,
    .one FLYER.SYNC_STATUS_STATE, .one FLYER.TRUNCATED_COUNT, .upto FLYER.TT_SLOT_ACTIVE, .one FLYER.TX_STATUS_DRIVER_ON,
    .one FLYER.TX_STATUS_LATCHED, .one FLYER.TX_STATUS_VIOL_RUN] ⊆ R) (hn : n < 96) :
    (c.flyOff n).away S R = c.away S R := by
  unfold Chip.flyOff
  simp (disch := first
      | (apply mem_of_sub hS; decide) | (refine List.Subset.trans ?_ hS; decide) | (apply mem_of_sub hR; decide)
      | (refine List.Subset.trans ?_ hR; decide) | with_unfolding_all exact id hn | decide) only [Chip.away_ite, ite_self, Chip.away_setFld,
      Chip.away_setFld_upto, Chip.away_windowsShut, Chip.away_updFly]

theorem Chip.away_uplinkEnChanged {n : Nat} {en : Bool} (hS : [.power, .buffer, .txOps, .reel, .uplinks, .hostq, .hank, .distaff] ⊆ S)
    (hR : [.evt .power, .evt .reel, .evt .uplink, .one DISTAFF.ITEMS_OUT_COUNT, .one HANK.TX_MSGS_COUNT, .many HOSTQ.LEDGER_ENTRY0_FROZEN,
    .many HOSTQ.LEDGER_ENTRY0_STATE, .many HOSTQ.LEDGER_ENTRY0_STATUS, .many HOSTQ.LEDGER_ENTRY1_PROGRESS, .one HOSTQ.PARTIALS_COUNT,
    .one POWER.LEAVE_GRANTS_COUNT, .one REELGATE.C7_BURST_SUM_CNS, .one REELGATE.C7_COND_FAIL, .one REELGATE.C7_COND_OK,
    .one REELGATE.C7_GATE_WAIT_NS, .one REELGATE.C7_OPEN_FRACTION, .one REELGATE.C7_RATE_SUM_KBPS, .one REELGATE.LINK_FLUSH_COUNT,
    .one REELGATE.XOFF_COUNT_COUNT, .one UPLINK.LINK_DOWNS_COUNT, .one UPLINK.LINK_STATUS_BLOCK_LOCK, .one UPLINK.LINK_STATUS_CFG_ERR,
    .one UPLINK.LINK_STATUS_FEC_IN_FORCE, .one UPLINK.LINK_STATUS_FEC_LOCK, .one UPLINK.LINK_STATUS_HI_BER, .one UPLINK.LINK_STATUS_LOCAL_FAULT,
    .one UPLINK.LINK_STATUS_NO_LEAVE, .one UPLINK.LINK_STATUS_REMOTE_FAULT, .one UPLINK.LINK_STATUS_SPEED_IN_FORCE,
    .one UPLINK.LINK_STATUS_STATE, .one UPLINK.MERGE_STATUS_ACTIVE, .one UPLINK.MERGE_STATUS_ATTEMPTS, .one UPLINK.MERGE_STATUS_VERIFY_STATE,
    .one UPLINK.RX_ASSY_ERR_COUNT, .one UPLINK.RX_CODE_ERR_COUNT, .one UPLINK.TX_LINK_ABORT_COUNT] ⊆ R) (hn : n < 4) :
    (c.uplinkEnChanged n en).away S R = c.away S R := by
  unfold Chip.uplinkEnChanged
  simp (disch := first
      | (apply mem_of_sub hS; decide) | (refine List.Subset.trans ?_ hS; decide) | (apply mem_of_sub hR; decide)
      | (refine List.Subset.trans ?_ hR; decide) | with_unfolding_all exact id hn | decide) only [Chip.away_ite, ite_self, Chip.away_setFld,
      Chip.away_uplinkTry, Chip.away_uplinkOff]

end

end Sys2Proof.Machine
end

section
/-!
PROOF. PAGE_CTRL (R414, R416): LOCK, EN, and what a BLOCK_RESET does.
-/
namespace Sys2Proof.Machine

variable {c d : Chip} {p : Port} {cls : PageCls} {n v : Nat}

theorem pageOf_beyond {page : Nat} (h : 480 ≤ page) : pageOf page = none := by
  unfold pageOf
  rw [if_neg (by omega), if_neg (by omega), if_neg (by omega), if_neg (by omega), if_neg (by omega), if_neg (by omega), if_neg (by omega),
    if_neg (by omega), if_neg (by omega), if_neg (by omega), if_neg (by omega), if_neg (by omega), if_neg (by omega), if_neg (by omega)]

/-- Whether a page is where its class and number put it. -/
def pagePlaced (page : Nat) : Bool :=
  match pageOf page with
  | some (cls, n) => decide (n < cls.count) && page == cls.base + n
  | none => true

/-- A page number names one page of one class. -/
theorem pageOf_some {page : Nat} (h : pageOf page = some (cls, n)) : n < cls.count ∧ page = cls.base + n := by
  have hlt : page < 480 := by
    by_contra hge
    rw [pageOf_beyond (by omega)] at h
    exact absurd h (by simp)
  have hall : (List.range 480).all pagePlaced = true := by decide +kernel
  have hpage := List.all_eq_true.mp hall page (List.mem_range.mpr hlt)
  rw [pagePlaced, h] at hpage
  simpa using hpage

theorem Chip.Open.count (h : c.Open p cls n) : n < cls.count := (pageOf_some h.page).1

/-! ### EN -/

/-- The header fields that a write of PAGE_CTRL is about. -/
def ctrlRows : List HdrRow := [HDR.CTRL_EN, HDR.CTRL_LOCK, HDR.ERRCNT_COUNT, HDR.ERRCNT_LAST_OFFSET, HDR.ERRCNT_LAST_PORT]

theorem Chip.hdr_of_away {S : List Part} {R : List Spot} (h : d.away S R = c.away S R) {r : HdrRow} (hr : r ∈ ctrlRows) (hn : n < cls.count)
    (hR : (ctrlRows.all fun r => (r.row cls).placed && R.all (r.row cls).apart) = true) : d.hdr r (cls.base + n) = c.hdr r (cls.base + n) :=
  (Chip.away_eq_iff.mp h).hdr_apart r cls n (List.all_eq_true.mp hR r hr) hn

theorem Chip.hdr_enWritten {r : HdrRow} (hr : r ∈ ctrlRows) (hn : n < cls.count) (en : Bool) :
    (c.enWritten cls n en).hdr r (cls.base + n) = c.hdr r (cls.base + n) := by
  have hS {l : List Part} : l ⊆ l := List.Subset.refl l
  have hR {l : List Spot} : l ⊆ l := List.Subset.refl l
  cases cls with
  | uplink => exact Chip.hdr_of_away (Chip.away_uplinkEnChanged hS hR hn) hr hn (by decide)
  | segment =>
    cases en with
    | true => rfl
    | false => exact Chip.hdr_of_away (Chip.away_segDisable hS hR hn) hr hn (by decide)
  | flyer =>
    cases en with
    | true => exact Chip.hdr_of_away (Chip.away_flyEnable (S := []) hR hn) hr hn (by decide)
    | false => exact Chip.hdr_of_away (Chip.away_flyOff hS hR hn) hr hn (by decide)
  | _ => rfl

theorem Chip.resetting_of_away {S : List Part} {R : List Spot} (h : d.away S R = c.away S R) (hS : .resetting ∉ S) : d.resetting = c.resetting :=
  (Chip.away_eq_iff.mp h).resetting hS

theorem Chip.resetting_enWritten (hn : n < cls.count) (c : Chip) (en : Bool) : (c.enWritten cls n en).resetting = c.resetting := by
  have hS {l : List Part} : l ⊆ l := List.Subset.refl l
  have hR {l : List Spot} : l ⊆ l := List.Subset.refl l
  cases cls with
  | uplink => exact Chip.resetting_of_away (Chip.away_uplinkEnChanged hS hR hn) (by decide)
  | segment =>
    cases en with
    | true => rfl
    | false => exact Chip.resetting_of_away (Chip.away_segDisable hS hR hn) (by decide)
  | flyer =>
    cases en with
    | true => exact Chip.resetting_of_away (Chip.away_flyEnable (S := []) hR hn) (by decide)
    | false => exact Chip.resetting_of_away (Chip.away_flyOff hS hR hn) (by decide)
  | _ => rfl

/-! ### A write of PAGE_CTRL, in its steps -/

/-- BLOCK_RESET: carried out, or counted. -/
def Chip.ctrlReset (c : Chip) (cls : PageCls) (n : Nat) (p : Port) (v : Nat) : Chip :=
  if v.testBit 1 then
    (if cls.hasReset && c.hdr HDR.CTRL_EN (cls.base + n) == 0 && c.hdr HDR.CTRL_LOCK (cls.base + n) == 0 then c.blockReset cls n
     else c.errcnt (cls.base + n) 0x008 p)
  else c

/-- LOCK, once set, stays. -/
def Chip.ctrlLock (c : Chip) (page v : Nat) : Chip := if v.testBit 2 then c.setHdr HDR.CTRL_LOCK page 1 else c

/-- EN follows the write. -/
def Chip.ctrlEn (c : Chip) (cls : PageCls) (n v : Nat) : Chip :=
  if cls.hasEn then (c.setHdr HDR.CTRL_EN (cls.base + n) (bitsOf v 0 0)).enWritten cls n (v.testBit 0) else c

theorem Chip.ctrlWrite_eq (c : Chip) (cls : PageCls) (n : Nat) (p : Port) (v : Nat) :
    c.ctrlWrite cls n p v = ((c.ctrlReset cls n p v).ctrlLock (cls.base + n) v).ctrlEn cls n v := rfl

theorem exec_ctrl_eq {i : Instr} {pg : BitVec 12} {w : Word} (hi : i ∈ [Instr.blockReset p pg w, Instr.pageLock p pg w]) (s : State) :
    exec i s = run (fun c => c.ctrlAccess p pg.toNat w.toNat) s := by
  simp only [List.mem_cons, List.not_mem_nil, or_false] at hi
  obtain rfl | rfl := hi <;> rfl

theorem Chip.ctrlAccess_open {page : Nat} (h : c.Open p cls n) (hpage : page = cls.base + n) (v : Nat) :
    c.ctrlAccess p page v = c.ctrlWrite cls n p v := by
  rw [Chip.ctrlAccess, hpage, c.access_open h]
  simp only [h.page]

/-! ### What the steps leave of the header -/

theorem lockKey_ne {r : HdrRow} (hr : r ∈ ctrlRows) (h : r ≠ HDR.CTRL_LOCK) (page : Nat) : r.key page ≠ HDR.CTRL_LOCK.key page := by
  revert h
  revert r
  simp only [ctrlRows, List.forall_mem_cons, List.not_mem_nil, false_imp_iff, implies_true, and_true]
  refine ⟨?_, ?_, ?_, ?_, ?_⟩ <;> intro h
  all_goals first | exact absurd rfl h | exact hdrKey_ne _ _ _ _ (by decide) (by decide) (by decide)

theorem Chip.hdr_ctrlLock_ne {r : HdrRow} (hr : r ∈ ctrlRows) (h : r ≠ HDR.CTRL_LOCK) (page v : Nat) :
    (c.ctrlLock page v).hdr r page = c.hdr r page := by
  unfold Chip.ctrlLock
  split
  · exact Chip.hdr_setHdr_ne _ _ _ _ _ _ (lockKey_ne hr h page)
  · rfl

theorem Chip.hdr_ctrlLock (page v : Nat) :
    (c.ctrlLock page v).hdr HDR.CTRL_LOCK page = if v.testBit 2 then 1 else c.hdr HDR.CTRL_LOCK page := by
  unfold Chip.ctrlLock
  split
  · exact Chip.hdr_setHdr_self _ _ _ _
  · rfl

theorem Chip.ctrlEn_none (h : cls.hasEn = false) (v : Nat) : c.ctrlEn cls n v = c := by
  rw [Chip.ctrlEn, h]
  rfl

theorem enKey_ne {r : HdrRow} (hr : r ∈ ctrlRows) (h : r ≠ HDR.CTRL_EN) (page : Nat) : r.key page ≠ HDR.CTRL_EN.key page := by
  revert h
  revert r
  simp only [ctrlRows, List.forall_mem_cons, List.not_mem_nil, false_imp_iff, implies_true, and_true]
  refine ⟨?_, ?_, ?_, ?_, ?_⟩ <;> intro h
  all_goals first | exact absurd rfl h | exact hdrKey_ne _ _ _ _ (by decide) (by decide) (by decide)

theorem Chip.hdr_ctrlEn_ne {r : HdrRow} (hr : r ∈ ctrlRows) (h : r ≠ HDR.CTRL_EN) (hn : n < cls.count) (v : Nat) :
    (c.ctrlEn cls n v).hdr r (cls.base + n) = c.hdr r (cls.base + n) := by
  unfold Chip.ctrlEn
  split
  · rw [Chip.hdr_enWritten hr hn, Chip.hdr_setHdr_ne _ _ _ _ _ _ (enKey_ne hr h _)]
  · rfl

theorem bit_lt_two (v : Nat) : bitsOf v 0 0 % 2 = bitsOf v 0 0 := by simp [bitsOf]

theorem Chip.hdr_ctrlEn (h : cls.hasEn = true) (hn : n < cls.count) (v : Nat) :
    (c.ctrlEn cls n v).hdr HDR.CTRL_EN (cls.base + n) = bitsOf v 0 0 := by
  rw [Chip.ctrlEn, if_pos h, Chip.hdr_enWritten (by simp [ctrlRows]) hn, Chip.hdr_setHdr_self]
  exact bit_lt_two v

/-- After BLOCK_RESET, LOCK and EN follow the write, and the count of errors stands. -/
theorem Chip.hdr_ctrlSet (d : Chip) (hn : n < cls.count) (v : Nat) :
    (cls.hasEn = true → ((d.ctrlLock (cls.base + n) v).ctrlEn cls n v).hdr HDR.CTRL_EN (cls.base + n) = bitsOf v 0 0) ∧
    ((d.ctrlLock (cls.base + n) v).ctrlEn cls n v).hdr HDR.CTRL_LOCK (cls.base + n) =
      (if v.testBit 2 then 1 else d.hdr HDR.CTRL_LOCK (cls.base + n)) ∧
    ∀ r ∈ [HDR.ERRCNT_COUNT, HDR.ERRCNT_LAST_OFFSET, HDR.ERRCNT_LAST_PORT],
      ((d.ctrlLock (cls.base + n) v).ctrlEn cls n v).hdr r (cls.base + n) = d.hdr r (cls.base + n) := by
  refine ⟨fun h => Chip.hdr_ctrlEn h hn v, ?_, fun r hr => ?_⟩
  · rw [Chip.hdr_ctrlEn_ne (by simp [ctrlRows]) (by decide) hn, Chip.hdr_ctrlLock]
  · have hmem : r ∈ ctrlRows := List.mem_cons_of_mem _ (List.mem_cons_of_mem _ hr)
    have hen : r ≠ HDR.CTRL_EN := by rintro rfl; revert hr; decide
    have hlock : r ≠ HDR.CTRL_LOCK := by rintro rfl; revert hr; decide
    rw [Chip.hdr_ctrlEn_ne hmem hen hn, Chip.hdr_ctrlLock_ne hmem hlock]

theorem Chip.Counted.ctrlSet {off : Nat} (h : c.Counted d (cls.base + n) off p) (hn : n < cls.count) (v : Nat) :
    c.Counted ((d.ctrlLock (cls.base + n) v).ctrlEn cls n v) (cls.base + n) off p := by
  obtain ⟨-, -, hkeep⟩ := Chip.hdr_ctrlSet d hn v
  obtain ⟨h1, h2, h3⟩ := h
  exact ⟨(hkeep _ (by simp)).trans h1, (hkeep _ (by simp)).trans h2, (hkeep _ (by simp)).trans h3⟩

/-! ### A BLOCK_RESET that is refused, or not asked for -/

theorem Chip.ctrlReset_none (h : v.testBit 1 = false) : c.ctrlReset cls n p v = c := by
  rw [Chip.ctrlReset, h]
  rfl

theorem Chip.ctrlReset_refused (h : v.testBit 1 = true)
    (hno : cls.hasReset = false ∨ c.hdr HDR.CTRL_EN (cls.base + n) ≠ 0 ∨ c.hdr HDR.CTRL_LOCK (cls.base + n) ≠ 0) :
    c.ctrlReset cls n p v = c.errcnt (cls.base + n) 0x008 p := by
  rw [Chip.ctrlReset, if_pos h, if_neg]
  rcases hno with hno | hno | hno <;> simp [hno]

theorem Chip.ctrlReset_done (h : v.testBit 1 = true) (hres : cls.hasReset = true) (hen : c.hdr HDR.CTRL_EN (cls.base + n) = 0)
    (hlock : c.hdr HDR.CTRL_LOCK (cls.base + n) = 0) : c.ctrlReset cls n p v = c.blockReset cls n := by
  rw [Chip.ctrlReset, if_pos h, if_pos (by simp [hres, hen, hlock])]

theorem Tab.get_of_set {t : Tab Nat} {k x : Nat} (h : Tab.get 0 t k = x) (hx : x ≠ 0) (e : Nat) : Tab.get e t k = x := by
  induction t with
  | nil => exact absurd h.symm hx
  | cons a r ih =>
    unfold Tab.get at h ⊢
    split
    · rename_i ha
      rwa [if_pos ha] at h
    · rename_i ha
      rw [if_neg ha] at h
      exact ih h

/-- LOCK written where it is set changes nothing. -/
theorem Chip.ctrlLock_locked {page : Nat} (h : c.hdr HDR.CTRL_LOCK page = 1) (v : Nat) (S : List Part) (K : Nat → Prop) :
    c.Frame S K (c.ctrlLock page v) := by
  refine .ite (fun _ => (Chip.Frame.refl c).regs _ c.hwSet fun k _ e => ?_) fun _ => .refl c
  by_cases hk : k = HDR.CTRL_LOCK.key page
  · rw [hk]
    exact (Tab.get_of_set (Tab.get_put_self 0 c.regs _ _) (by decide) e).trans (Tab.get_of_set h (by decide) e).symm
  · exact c.get_setHdr_ne HDR.CTRL_LOCK page 1 e hk

/-! ### A BLOCK_RESET that is carried out -/

theorem Tab.get_filterKey {V : Type} (P : Nat → Bool) (t : Tab V) (d : V) (k : Nat) :
    Tab.get d (t.filter fun e => P e.1) k = if P k then Tab.get d t k else d := by
  induction t with
  | nil => simp [Tab.get]
  | cons a r ih =>
    obtain ⟨j, w⟩ := a
    rw [List.filter_cons]
    by_cases hj : P j = true
    · rw [if_pos hj]
      simp only [Tab.get, ih]
      by_cases hk : j = k
      · simp [← hk, hj]
      · simp [hk]
    · rw [if_neg hj, ih]
      by_cases hk : j = k
      · simp [← hk, hj]
      · simp [Tab.get, hk]

/-- The page of a cell, and its offset. -/
def cellPage (k : Nat) : Nat := k / (4096 * 32 * 65536)
def cellOff (k : Nat) : Nat := k / (32 * 65536) % 4096

theorem cellPage_row (r : FieldRow) (h : r.placed = true) (n i : Nat) (hi : i < 65536) :
    cellPage (r.key n i) = r.cls.base + n ∧ cellOff (r.key n i) = r.off := by
  simp only [FieldRow.placed, Bool.and_eq_true, decide_eq_true_eq] at h
  simp only [cellPage, cellOff, FieldRow.key, cellKey]
  omega

theorem cellPage_hdr (r : HdrRow) (h : r.off < 4096 ∧ r.lo < 32) (page : Nat) :
    cellPage (r.key page) = page ∧ cellOff (r.key page) = r.off := by
  simp only [cellPage, cellOff, HdrRow.key, cellKey]
  omega

/-- A cell of the page reads its default, unless it is kept. -/
theorem Chip.get_resetPage (c : Chip) (page : Nat) (keep : Nat → Bool) (e k : Nat) :
    Tab.get e (c.resetPage page keep).regs k = if cellPage k ≠ page ∨ keep (cellOff k) = true then Tab.get e c.regs k else e := by
  refine (Tab.get_filterKey (fun k => cellPage k != page || keep (cellOff k)) c.regs e k).trans ?_
  simp only [Bool.or_eq_true, bne_iff_ne]

/-- The levels stand on three pages. -/
theorem page_not_level {k : Nat} (h : cellPage k ∉ [0, 1, 0x050]) : k ∉ levelKeys := by
  have hall : ∀ k ∈ levelKeys, cellPage k ∈ [0, 1, 0x050] := by decide
  exact fun hk => h (hall k hk)

/-- What `d` holds is back in reset on a page, but for PAGE_EVT, PAGE_EVT_EN and the count of errors, which are as in `c`. -/
def Chip.PageReset (c d : Chip) (page : Nat) : Prop :=
  ∀ k e, cellPage k = page → Tab.get e d.regs k = if cellOff k ∈ blockKeeps then Tab.get e c.regs k else e

theorem Chip.pageReset_resetPage (h : d.regs = c.regs) (page : Nat) : c.PageReset (d.resetPage page blockKeeps.contains) page := by
  intro k e hk
  rw [Chip.get_resetPage, hk, h]
  simp only [ne_eq, not_true_eq_false, false_or, List.contains_iff_mem]

theorem Chip.PageReset.frame {page : Nat} {S : List Part} {K : Nat → Prop} {e : Chip} (h : c.PageReset d page) (hf : d.Frame S K e)
    (hK : ∀ k, cellPage k = page → ¬ K k) : c.PageReset e page :=
  fun k v hk => (hf.cell k (hK k hk) v).trans (h k v hk)

/-- A cell that is kept, and one that is not. -/
theorem Chip.PageReset.kept {page : Nat} (h : c.PageReset d page) {r : HdrRow} (hr : r.off < 4096 ∧ r.lo < 32) (hk : r.off ∈ blockKeeps) :
    d.hdr r page = c.hdr r page := by
  obtain ⟨hpage, hoff⟩ := cellPage_hdr r hr page
  exact (h _ 0 hpage).trans (if_pos (by rwa [hoff]))

theorem Chip.PageReset.fld {r : FieldRow} {n : Nat} (h : c.PageReset d (r.cls.base + n)) (hr : r.placed = true) (hk : 0x040 ≤ r.off) (i : Nat)
    (hi : i < 65536) : d.fld r n i = r.reset n i := by
  obtain ⟨hpage, hoff⟩ := cellPage_row r hr n i hi
  refine (h _ _ hpage).trans (if_neg ?_)
  rw [hoff]
  simp only [blockKeeps, HDR.EVT, HDR.EVT_EN, HDR.ERRCNT_COUNT, List.mem_cons, List.not_mem_nil, or_false]
  omega

/-- The cells of the spot stand on pages from `lo` to below `hi`. -/
def Spot.within (lo hi : Nat) : Spot → Bool
  | .one r | .upto r => r.placed && decide (lo ≤ r.cls.base) && decide (r.cls.base + r.cls.count ≤ hi)
  | .many _ => false
  | .evt cls => decide (lo ≤ cls.base) && decide (cls.base + cls.count ≤ hi)

theorem touched_within {R : List Spot} {lo hi k : Nat} (h : R.all (Spot.within lo hi) = true) (hk : Touched R k) :
    lo ≤ cellPage k ∧ cellPage k < hi := by
  obtain ⟨s, hs, hhas⟩ := hk
  have hin := List.all_eq_true.mp h s hs
  cases s with
  | one r =>
    obtain ⟨n, hn, rfl⟩ := hhas
    simp only [Spot.within, Bool.and_eq_true, decide_eq_true_eq] at hin
    rw [(cellPage_row r hin.1.1 n 0 (by decide)).1]
    omega
  | upto r =>
    obtain ⟨n, i, hn, hi, rfl⟩ := hhas
    simp only [Spot.within, Bool.and_eq_true, decide_eq_true_eq] at hin
    rw [(cellPage_row r hin.1.1 n i hi).1]
    omega
  | many r => exact absurd hin (by simp [Spot.within])
  | evt cls =>
    obtain ⟨n, hn, rfl⟩ := hhas
    simp only [Spot.within, Bool.and_eq_true, decide_eq_true_eq] at hin
    have : cellPage (evtKey (cls.base + n)) = cls.base + n := (cellPage_hdr HDR.EVT (by decide) _).1
    omega

/-- Judging class 7 touches REEL and REELGATE pages only. -/
theorem Chip.c7Eval_frame (c : Chip) (hn : n < 4) : c.Frame [] (fun k => 0x030 ≤ cellPage k ∧ cellPage k < 0x035) (c.c7Eval n) :=
  (Chip.away_eq_iff.mp (Chip.away_c7Eval (List.Subset.refl _) hn)).mono (List.Subset.refl _) fun _ => touched_within (by decide)

/-- The BLOCK_RESET of a page is noted. -/
def Chip.resetNoted (c : Chip) (page : Nat) : Chip := { c with resetting := page :: c.resetting.filter (· != page) }

theorem Chip.blockReset_uplink (c : Chip) (n : Nat) : c.blockReset .uplink n =
    (((c.resetNoted (PageCls.uplink.base + n)).setUpl n {}).resetPage (PageCls.uplink.base + n) blockKeeps.contains).c7Eval n := rfl

/-- An uplink that is reset: its page, and what it had in flight. -/
theorem Chip.uplink_blockReset (c : Chip) (hn : n < 4) :
    c.PageReset (c.blockReset .uplink n) (PageCls.uplink.base + n) ∧ (c.blockReset .uplink n).upl n = {} ∧
      (c.blockReset .uplink n).inReset .uplink n = true := by
  rw [c.blockReset_uplink]
  have hreset : c.PageReset (((c.resetNoted (PageCls.uplink.base + n)).setUpl n {}).resetPage (PageCls.uplink.base + n) blockKeeps.contains)
    (PageCls.uplink.base + n) := Chip.pageReset_resetPage rfl _
  have hupl : (((c.resetNoted (PageCls.uplink.base + n)).setUpl n {}).resetPage (PageCls.uplink.base + n) blockKeeps.contains).upl n = {} :=
    Tab.get_put_self ({} : Uplink) c.uplinks n {}
  have hin : (((c.resetNoted (PageCls.uplink.base + n)).setUpl n {}).resetPage (PageCls.uplink.base + n) blockKeeps.contains).inReset
    .uplink n = true := by simp [Chip.inReset, Chip.resetPage, Chip.setUpl, Chip.resetNoted]
  revert hreset hupl hin
  generalize ((c.resetNoted (PageCls.uplink.base + n)).setUpl n {}).resetPage (PageCls.uplink.base + n) blockKeeps.contains = d
  intro hreset hupl hin
  have hc7 := d.c7Eval_frame hn
  refine ⟨hreset.frame hc7 fun k hk => ?_, ?_, ?_⟩
  · simp only [hk, PageCls.base]
    omega
  · rw [Chip.upl, hc7.uplinks (by decide)]
    exact hupl
  · rw [Chip.inReset, hc7.resetting (by decide)]
    exact hin

theorem Chip.fateLost_foldl (c : Chip) (l : List CmdPayload) : ∃ f, l.foldl (fun d p => d.fateLost p.share p.count) c = { c with fates := f } := by
  induction l generalizing c with
  | nil => exact ⟨c.fates, rfl⟩
  | cons p r ih => exact ih (c.fateLost p.share p.count)

/-- A segment engine, its tables and its buffers are empty. -/
def Chip.segCleared (c : Chip) (n : Nat) : Chip :=
  { c with segs := Tab.put {} c.segs n {}, segTables := Tab.clearRange c.segTables (turnKey n 0 0 0) (turnKey (n + 1) 0 0 0),
           segBuf := Tab.clearRange c.segBuf (32768 * n) (32768 * (n + 1)) }

theorem Chip.blockReset_segment (c : Chip) (n : Nat) : ∃ f, c.blockReset .segment n =
    (({ c.resetNoted (PageCls.segment.base + n) with fates := f } : Chip).segCleared n).resetPage (PageCls.segment.base + n)
      blockKeeps.contains := by
  obtain ⟨f, hf⟩ := (c.resetNoted (PageCls.segment.base + n)).fateLost_foldl (c.eng n).cmdq
  refine ⟨f, ?_⟩
  rw [← hf]
  rfl

/-- A segment that is reset: its page, its engine, its turn tables and its buffers. -/
theorem Chip.segment_blockReset (c : Chip) (n : Nat) :
    c.PageReset (c.blockReset .segment n) (PageCls.segment.base + n) ∧ (c.blockReset .segment n).eng n = {} ∧
      (c.blockReset .segment n).inReset .segment n = true ∧
      (∀ which t w, which < 2 → t < 65 → w < 4 → (c.blockReset .segment n).turnW n which t w = turnDefault t w) ∧
      ∀ a, Tab.get 0 (c.blockReset .segment n).segBuf a = if 32768 * n ≤ a ∧ a < 32768 * (n + 1) then 0 else Tab.get 0 c.segBuf a := by
  obtain ⟨f, hf⟩ := c.blockReset_segment n
  rw [hf]
  refine ⟨Chip.pageReset_resetPage rfl _, Tab.get_put_self ({} : SegEng) c.segs n {}, ?_, fun which t w hwhich ht hw => ?_, fun a => ?_⟩
  · simp [Chip.inReset, Chip.resetPage, Chip.segCleared, Chip.resetNoted]
  · refine (Tab.get_clearRange _ _ _ _ _).trans (if_pos ?_)
    simp only [turnKey]
    omega
  · exact Tab.get_clearRange _ _ _ _ _

/-! ### What follows a BLOCK_RESET in the same write -/

/-- Where EN is 0, an uplink stays off. -/
theorem Chip.uplink_ctrlEn (hst : c.ulSt n = ulOFF) (h0 : v.testBit 0 = false) : c.ctrlEn .uplink n v =
    (c.setHdr HDR.CTRL_EN (PageCls.uplink.base + n) (bitsOf v 0 0)).setFld UPLINK.LINK_STATUS_NO_LEAVE 0 n := by
  have hst' : (c.setHdr HDR.CTRL_EN (PageCls.uplink.base + n) (bitsOf v 0 0)).ulSt n = ulOFF := by
    rw [Chip.ulSt, Chip.fld, Chip.get_setHdr_ne]
    · exact hst
    · exact (hdrKey_ne_fldKey _ _ _ _ _ (by decide) (by decide)).symm
  rw [Chip.ctrlEn, if_pos (by decide), Chip.enWritten, h0, Chip.uplinkEnChanged, if_neg Bool.false_ne_true, if_pos hst']

theorem Chip.segment_ctrlEn (hst : c.seg n = sgDISABLED) (h0 : v.testBit 0 = false) : c.ctrlEn .segment n v =
    c.setHdr HDR.CTRL_EN (PageCls.segment.base + n) (bitsOf v 0 0) := by
  have hst' : (c.setHdr HDR.CTRL_EN (PageCls.segment.base + n) (bitsOf v 0 0)).seg n = sgDISABLED := by
    rw [Chip.seg, Chip.fld, Chip.get_setHdr_ne]
    · exact hst
    · exact (hdrKey_ne_fldKey _ _ _ _ _ (by decide) (by decide)).symm
  rw [Chip.ctrlEn, if_pos (by decide), Chip.enWritten, h0, if_neg Bool.false_ne_true, Chip.segDisable, if_pos hst']

theorem Chip.ctrlLock_none (h : v.testBit 2 = false) (page : Nat) : c.ctrlLock page v = c := by
  rw [Chip.ctrlLock, h]
  rfl

theorem Chip.ctrlWrite_reset (h1 : v.testBit 1 = true) (h2 : v.testBit 2 = false) (hres : cls.hasReset = true)
    (hen : c.hdr HDR.CTRL_EN (cls.base + n) = 0) (hlock : c.hdr HDR.CTRL_LOCK (cls.base + n) = 0) :
    c.ctrlWrite cls n p v = (c.blockReset cls n).ctrlEn cls n v := by
  rw [c.ctrlWrite_eq, Chip.ctrlReset_done h1 hres hen hlock, Chip.ctrlLock_none h2]

/-- A field written with its reset value reads as in reset. -/
theorem Chip.get_setFld_reset (r : FieldRow) (n e : Nat) (h : r.rst = .const 0) : Tab.get e (c.setFld r 0 n).regs (r.key n 0) = e := by
  have hzero : r.reset n 0 = 0 := by rw [FieldRow.reset, h]
  rw [Chip.setFld, Nat.zero_mod, Tab.put, if_pos hzero.symm]
  exact Tab.get_del_self _ _ _

/-- The header fields that a BLOCK_RESET keeps. -/
def keptRows : List HdrRow := [HDR.EVT, HDR.EVT_EN, HDR.ERRCNT_COUNT]

theorem keptRow_facts : ∀ r ∈ keptRows, (r.off < 0x040 ∧ r.lo < 32) ∧ r.off ∈ blockKeeps ∧ (r.off, r.lo) ≠ (HDR.CTRL_EN.off, HDR.CTRL_EN.lo) := by
  decide

/-- EN does not touch what a BLOCK_RESET keeps, nor a field past the header. -/
theorem Chip.PageReset.setEn {page : Nat} (h : c.PageReset d page) (w : Nat) :
    (∀ r ∈ keptRows, (d.setHdr HDR.CTRL_EN page w).hdr r page = c.hdr r page) ∧
    ∀ r : FieldRow, r.cls.base + n = page → r.placed = true → 0x040 ≤ r.off → (d.setHdr HDR.CTRL_EN page w).fld r n = r.reset n 0 := by
  refine ⟨fun r hr => ?_, fun r hpage hplaced hoff => ?_⟩
  · obtain ⟨hsmall, hkeep, hne⟩ := keptRow_facts r hr
    rw [Chip.hdr_setHdr_ne _ _ _ _ _ _ (hdrKey_ne _ _ _ _ (by omega) (by decide) hne)]
    exact h.kept (by omega) hkeep
  · have hp := hplaced
    simp only [FieldRow.placed, Bool.and_eq_true, decide_eq_true_eq] at hp
    rw [Chip.fld, Chip.get_setHdr_ne]
    · subst hpage
      exact h.fld hplaced hoff 0 (by decide)
    · exact (hdrKey_ne_fldKey _ _ _ _ _ (by decide) (by omega)).symm

theorem uplinkRows_facts : ∀ r ∈ UPLINK.rows, r.cls = .uplink ∧ r.placed = true ∧ 0x040 ≤ r.off := by decide

theorem segmentRows_facts : ∀ r ∈ SEGMENT.rows, r.cls = .segment ∧ r.placed = true ∧ 0x040 ≤ r.off := by decide

/-- The whole write of PAGE_CTRL that resets an uplink. -/
theorem Chip.uplink_reset (hn : n < 4) (h0 : v.testBit 0 = false) (h1 : v.testBit 1 = true) (h2 : v.testBit 2 = false)
    (hen : c.hdr HDR.CTRL_EN (PageCls.uplink.base + n) = 0) (hlock : c.hdr HDR.CTRL_LOCK (PageCls.uplink.base + n) = 0) :
    (c.ctrlWrite .uplink n p v).upl n = {} ∧ (∀ r ∈ UPLINK.rows, (c.ctrlWrite .uplink n p v).fld r n = r.reset n 0) ∧
      ∀ r ∈ keptRows, (c.ctrlWrite .uplink n p v).hdr r (PageCls.uplink.base + n) = c.hdr r (PageCls.uplink.base + n) := by
  obtain ⟨hreset, hupl, -⟩ := c.uplink_blockReset hn
  have hst : (c.blockReset .uplink n).ulSt n = ulOFF := hreset.fld (r := UPLINK.LINK_STATUS_STATE) (by decide) (by decide) 0 (by decide)
  obtain ⟨hkept, hfld⟩ := hreset.setEn (n := n) (bitsOf v 0 0)
  rw [Chip.ctrlWrite_reset h1 h2 rfl hen hlock, Chip.uplink_ctrlEn hst h0]
  refine ⟨hupl, fun r hr => ?_, fun r hr => ?_⟩
  · obtain ⟨hcls, hplaced, hoff⟩ := uplinkRows_facts r hr
    by_cases hk : r.key n 0 = UPLINK.LINK_STATUS_NO_LEAVE.key n 0
    · rw [Chip.fld, hk]
      exact Chip.get_setFld_reset _ _ _ rfl
    · rw [Chip.fld, Chip.get_setFld_ne _ _ _ _ _ _ hk]
      exact hfld r (by rw [hcls]) hplaced hoff
  · obtain ⟨hsmall, -, -⟩ := keptRow_facts r hr
    have hne := hdrKey_ne_fldKey r (PageCls.uplink.base + n) UPLINK.LINK_STATUS_NO_LEAVE n 0 hsmall (by decide)
    exact (Chip.get_setFld_ne _ UPLINK.LINK_STATUS_NO_LEAVE 0 n 0 0 hne).trans (hkept r hr)

/-- The whole write of PAGE_CTRL that resets a segment. -/
theorem Chip.segment_reset (h0 : v.testBit 0 = false) (h1 : v.testBit 1 = true) (h2 : v.testBit 2 = false)
    (hen : c.hdr HDR.CTRL_EN (PageCls.segment.base + n) = 0) (hlock : c.hdr HDR.CTRL_LOCK (PageCls.segment.base + n) = 0) :
    c.ctrlWrite .segment n p v = (c.blockReset .segment n).setHdr HDR.CTRL_EN (PageCls.segment.base + n) (bitsOf v 0 0) := by
  obtain ⟨hreset, -⟩ := c.segment_blockReset n
  have hst : (c.blockReset .segment n).seg n = sgDISABLED := hreset.fld (r := SEGMENT.SYNC_STATUS_STATE) (by decide) (by decide) 0 (by decide)
  rw [Chip.ctrlWrite_reset h1 h2 rfl hen hlock, Chip.segment_ctrlEn hst h0]

/-! ### The statement -/

theorem ctrlKey_not_level {r : HdrRow} (hr : r ∈ ctrlRows) (page : Nat) : r.key page ∉ levelKeys := by
  have hfacts : ∀ r ∈ ctrlRows, r.off < 0x040 ∧ r.off ≠ 0x010 ∧ r.lo < 32 := by decide
  obtain ⟨ho, hevt, hlo⟩ := hfacts r hr
  exact hdrKey_not_level r page ho hevt hlo

section
variable {s : State} {pg : BitVec 12} {w : Word} {i : Instr}

/-- A write of PAGE_CTRL on an open page, as a change of the block. -/
theorem exec_ctrl_write (hpage : pg.toNat = cls.base + n) (h : s.chip.Open p cls n) (hi : i ∈ [Instr.blockReset p pg w, Instr.pageLock p pg w]) :
    ∃ f, exec i s = run f s ∧ f s.chip = s.chip.ctrlWrite cls n p w.toNat := by
  refine ⟨_, exec_ctrl_eq hi s, ?_⟩
  exact Chip.ctrlAccess_open h hpage _

/-- What a refused BLOCK_RESET leaves. -/
theorem ctrl_refused (hpage : pg.toNat = cls.base + n) (h : s.chip.Open p cls n) (hi : i ∈ [Instr.blockReset p pg w, Instr.pageLock p pg w])
    (h1 : w.toNat.testBit 1 = true)
    (hno : cls.hasReset = false ∨ s.chip.hdr HDR.CTRL_EN pg.toNat ≠ 0 ∨ s.chip.hdr HDR.CTRL_LOCK pg.toNat ≠ 0) :
    Ends i s fun d => s.chip.Counted d pg.toNat 0x008 p ∧ (cls.hasEn = true → d.hdr HDR.CTRL_EN pg.toNat = bitsOf w.toNat 0 0) ∧
      d.hdr HDR.CTRL_LOCK pg.toNat = (if w.toNat.testBit 2 then 1 else s.chip.hdr HDR.CTRL_LOCK pg.toNat) := by
  obtain ⟨f, hexec, hf⟩ := exec_ctrl_write hpage h hi
  rw [hpage] at hno ⊢
  have hcount := s.chip.counted_errcnt (cls.base + n) 0x008 p (by decide)
  have hlock : (s.chip.errcnt (cls.base + n) 0x008 p).hdr HDR.CTRL_LOCK (cls.base + n) = s.chip.hdr HDR.CTRL_LOCK (cls.base + n) := by
    refine (s.chip.errcnt_frame _ _ _).hdr _ _ ?_
    simp only [errKeys, List.mem_cons, List.not_mem_nil, or_false, not_or]
    exact ⟨hdrKey_ne _ _ _ _ (by decide) (by decide) (by decide), hdrKey_ne _ _ _ _ (by decide) (by decide) (by decide),
      hdrKey_ne _ _ _ _ (by decide) (by decide) (by decide)⟩
  obtain ⟨hen, hlck, -⟩ := Chip.hdr_ctrlSet (s.chip.errcnt (cls.base + n) 0x008 p) h.count w.toNat
  have hw : f s.chip = _ := hf.trans ((s.chip.ctrlWrite_eq cls n p w.toNat).trans
    (by rw [Chip.ctrlReset_refused (p := p) h1 hno]))
  refine ends_of hexec ⟨?_, fun hh => ?_, ?_⟩
  · rw [hw]
    exact (hcount.ctrlSet h.count _).ended
  · rw [hw, Chip.ended_hdr _ _ _ _ (ctrlKey_not_level (by simp [ctrlRows]) _)]
    exact hen hh
  · rw [hw, Chip.ended_hdr _ _ _ _ (ctrlKey_not_level (by simp [ctrlRows]) _), hlck, hlock]

/-- A write of PAGE_CTRL of a FLYER page keeps the tables, the drift and what is in reset. -/
theorem Chip.flyer_ctrlWrite (c : Chip) (hn : n < 96) (p : Port) (v : Nat) (h1 : v.testBit 1 = true) :
    (c.ctrlWrite .flyer n p v).flyTables = c.flyTables ∧ (c.ctrlWrite .flyer n p v).drift = c.drift ∧
      (c.ctrlWrite .flyer n p v).resetting = c.resetting := by
  have hen (d : Chip) : d.Frame [.flyers] (fun _ => True) (d.enWritten .flyer n (v.testBit 0)) := by
    cases v.testBit 0 with
    | true => exact (Chip.away_eq_iff.mp (Chip.away_flyEnable (S := [.flyers]) (List.Subset.refl _) hn)).mono (List.Subset.refl _) fun _ _ => trivial
    | false => exact (Chip.away_eq_iff.mp (Chip.away_flyOff (List.Subset.refl _) (List.Subset.refl _) hn)).mono (List.Subset.refl _) fun _ _ => trivial
  have hframe : c.Frame [.flyers] (fun _ => True) (c.ctrlWrite .flyer n p v) := by
    rw [c.ctrlWrite_eq, Chip.ctrlReset_refused h1 (.inl rfl)]
    have herr := (Chip.Frame.refl c).errcnt (S := [.flyers]) (K := fun _ => True) (PageCls.flyer.base + n) 0x008 p fun _ _ => trivial
    have hlock := herr.trans (Chip.Frame.ite (p := v.testBit 2 = true) (fun _ => (Chip.Frame.refl _).setHdr HDR.CTRL_LOCK (PageCls.flyer.base + n) 1 trivial)
      fun _ => .refl _)
    exact (hlock.setHdr HDR.CTRL_EN _ _ trivial).trans (hen _)
  exact ⟨hframe.flyTables (by decide), hframe.drift (by decide), hframe.resetting (by decide)⟩

/-- A write of PAGE_CTRL without BLOCK_RESET, on a page without EN, sets LOCK or changes nothing. -/
theorem Chip.ctrlWrite_lock (h1 : v.testBit 1 = false) (hen : cls.hasEn = false) : c.ctrlWrite cls n p v = c.ctrlLock (cls.base + n) v := by
  rw [c.ctrlWrite_eq, Chip.ctrlReset_none h1, Chip.ctrlEn_none hen]

theorem Chip.ctrlWrite_counted (h1 : v.testBit 1 = true) (hen : cls.hasEn = false) :
    c.ctrlWrite cls n p v = (c.errcnt (cls.base + n) 0x008 p).ctrlLock (cls.base + n) v := by
  have hres : cls.hasReset = false := by
    revert hen
    cases cls <;> decide
  rw [c.ctrlWrite_eq, Chip.ctrlReset_refused h1 (.inl hres), Chip.ctrlEn_none hen]

/-- A page whose LOCK is set. -/
theorem ctrl_locked (hpage : pg.toNat = cls.base + n) (h : s.chip.Open p cls n) (hlock : s.chip.hdr HDR.CTRL_LOCK pg.toNat = 1) :
    (cls.hasEn = false → w.toNat.testBit 1 = false → Idles (.pageLock p pg w) s) ∧
    (w.toNat.testBit 1 = true → ∀ i ∈ [Instr.blockReset p pg w, Instr.pageLock p pg w], Ends i s fun d =>
      s.chip.Counted d pg.toNat 0x008 p ∧ d.hdr HDR.CTRL_LOCK pg.toNat = 1 ∧
        (cls.hasEn = true → d.hdr HDR.CTRL_EN pg.toNat = bitsOf w.toNat 0 0) ∧
        (cls.hasEn = false → s.chip.OnlyRegs d (errKeys pg.toNat))) ∧
    (∀ i ∈ [Instr.pageSeal p pg w, Instr.pageArmUnseal p pg w, Instr.pageUnseal p pg w],
      SetsRegs i s (errKeys pg.toNat) fun d => s.chip.Counted d pg.toNat 0x01C p ∧
        d.hdr HDR.SEAL_SEALED pg.toNat = s.chip.hdr HDR.SEAL_SEALED pg.toNat ∧ d.hdr HDR.CTRL_LOCK pg.toNat = 1) := by
  refine ⟨fun hen h1 => ?_, fun h1 i hi => ?_, fun i hi => ?_⟩
  · obtain ⟨f, hexec, hf⟩ := exec_ctrl_write (i := .pageLock p pg w) hpage h (List.mem_cons_of_mem _ List.mem_cons_self)
    refine setsRegs_of hexec ?_ trivial
    rw [hf, Chip.ctrlWrite_lock h1 hen, ← hpage]
    exact Chip.ctrlLock_locked hlock _ _ _
  · obtain ⟨f, hexec, hf⟩ := exec_ctrl_write hpage h hi
    obtain ⟨t, ht, hpend, hcount, hen, hlck⟩ := ctrl_refused hpage h hi h1 (.inr (.inr (by rw [hlock]; decide)))
    refine ⟨t, ht, hpend, hcount, ?_, hen, fun hno => ?_⟩
    · rw [hlck, hlock, ite_self]
    · have htc : t.chip = s.chip.ended (f s.chip) := by
        rw [hexec, run_ended] at ht
        injection ht with ht
        rw [← ht]
      rw [htc, hf, Chip.ctrlWrite_counted h1 hno, hpage]
      have hlock' : (s.chip.errcnt (cls.base + n) 0x008 p).hdr HDR.CTRL_LOCK (cls.base + n) = 1 := by
        rw [hpage] at hlock
        refine ((s.chip.errcnt_frame _ _ _).hdr _ _ ?_).trans hlock
        simp only [errKeys, List.mem_cons, List.not_mem_nil, or_false, not_or]
        exact ⟨hdrKey_ne _ _ _ _ (by decide) (by decide) (by decide), hdrKey_ne _ _ _ _ (by decide) (by decide) (by decide),
          hdrKey_ne _ _ _ _ (by decide) (by decide) (by decide)⟩
      exact ((((s.chip.errcnt_frame _ _ _).mono (by simp) fun _ hk => hk).trans
        (Chip.ctrlLock_locked hlock' _ _ _)).onlyRegs).ended
  · obtain ⟨f, hexec, hf⟩ := exec_seal_write h.reaches (by rw [hpage]; exact h.page) h.up h.awake hi
    rw [Chip.sealWrite_none (by rw [hpage]; exact h.unarmed), Chip.sealJudged_refused (.inl (by rw [hlock]; decide))] at hf
    have hkeep (r : HdrRow) (hr : r.off < 4096 ∧ r.lo < 32) (hne : r.off ≠ 0x018) (hk : r.key pg.toNat ∉ levelKeys) :
        (s.chip.ended (f s.chip)).hdr r pg.toNat = s.chip.hdr r pg.toNat := by
      rw [Chip.ended_hdr _ _ _ _ hk, hf]
      refine (s.chip.errcnt_frame _ _ _).hdr _ _ ?_
      simp only [errKeys, List.mem_cons, List.not_mem_nil, or_false, not_or]
      exact ⟨hdrKey_ne _ _ _ _ hr (by decide) (by simp [HDR.ERRCNT_COUNT, hne]), hdrKey_ne _ _ _ _ hr (by decide) (by simp [HDR.ERRCNT_LAST_OFFSET, hne]),
        hdrKey_ne _ _ _ _ hr (by decide) (by simp [HDR.ERRCNT_LAST_PORT, hne])⟩
    refine setsRegs_of hexec ?_ ⟨?_, ?_, ?_⟩
    · rw [hf]
      exact (s.chip.errcnt_frame _ _ _).mono (by simp) fun _ hk => hk
    · rw [hf]
      exact (Chip.counted_errcnt _ _ _ _ (by decide)).ended
    · exact hkeep _ (by decide) (by decide) (sealedKey_not_level _)
    · rw [hkeep _ (by decide) (by decide) (ctrlKey_not_level (by simp [ctrlRows]) _), hlock]

theorem errcntClear_open (hpage : pg.toNat = cls.base + n) (h : s.chip.Open p cls n) :
    (s.chip.access p pg.toNat false fun d => d.errcntWrite pg.toNat w.toNat) = s.chip.errcntWrite pg.toNat w.toNat := by
  rw [hpage]
  exact s.chip.access_open h _ _

/-- PAGE_ERRCNT with bit 31 written 1, and without. -/
theorem errcntClear_judged (hpage : pg.toNat = cls.base + n) (h : s.chip.Open p cls n) :
    (bitsOf w.toNat 31 31 = 1 → SetsRegs (.errcntClear p pg w) s (errKeys pg.toNat) fun d =>
      d.hdr HDR.ERRCNT_COUNT pg.toNat = 0 ∧ d.hdr HDR.ERRCNT_LAST_OFFSET pg.toNat = 0 ∧ d.hdr HDR.ERRCNT_LAST_PORT pg.toNat = 0) ∧
    (bitsOf w.toNat 31 31 = 0 → Idles (.errcntClear p pg w) s) := by
  have hf := errcntClear_open (w := w) hpage h
  refine ⟨fun hb => ?_, fun hb => idles_of (exec_errcntClear_eq p pg w s) ?_⟩
  · have e1 : HDR.ERRCNT_COUNT.key pg.toNat ≠ HDR.ERRCNT_LAST_OFFSET.key pg.toNat := hdrKey_ne _ _ _ _ (by decide) (by decide) (by decide)
    have e2 : HDR.ERRCNT_COUNT.key pg.toNat ≠ HDR.ERRCNT_LAST_PORT.key pg.toNat := hdrKey_ne _ _ _ _ (by decide) (by decide) (by decide)
    have e3 : HDR.ERRCNT_LAST_OFFSET.key pg.toNat ≠ HDR.ERRCNT_LAST_PORT.key pg.toNat := hdrKey_ne _ _ _ _ (by decide) (by decide) (by decide)
    have hw : s.chip.errcntWrite pg.toNat w.toNat = _ := if_pos hb
    have hk (r : HdrRow) (hr : r ∈ ctrlRows) := ctrlKey_not_level hr pg.toNat
    refine setsRegs_of (exec_errcntClear_eq p pg w s) ?_ ⟨?_, ?_, ?_⟩
    · rw [hf]
      exact (Chip.errcntWrite_frame _ _ _).mono (by simp) fun _ hk => hk
    · rw [Chip.ended_hdr _ _ _ _ (hk _ (by simp [ctrlRows])), hf, hw, Chip.hdr_setHdr_ne _ _ _ _ _ _ e2, Chip.hdr_setHdr_ne _ _ _ _ _ _ e1,
        Chip.hdr_setHdr_self]
      rfl
    · rw [Chip.ended_hdr _ _ _ _ (hk _ (by simp [ctrlRows])), hf, hw, Chip.hdr_setHdr_ne _ _ _ _ _ _ e3, Chip.hdr_setHdr_self]
      rfl
    · rw [Chip.ended_hdr _ _ _ _ (hk _ (by simp [ctrlRows])), hf, hw, Chip.hdr_setHdr_self]
      rfl
  · rw [hf]
    exact if_neg (by omega)

theorem Chip.resetting_ctrlSet (hn : n < cls.count) (d : Chip) (v : Nat) :
    ((d.ctrlLock (cls.base + n) v).ctrlEn cls n v).resetting = d.resetting := by
  have hlock : (d.ctrlLock (cls.base + n) v).resetting = d.resetting := by
    unfold Chip.ctrlLock
    split <;> rfl
  unfold Chip.ctrlEn
  split
  · exact (Chip.resetting_enWritten hn _ _).trans hlock
  · exact hlock

/-- A BLOCK_RESET that is carried out, whatever else the write asks for. -/
theorem blockReset_done (hpage : pg.toNat = cls.base + n) (h : s.chip.Open p cls n) (hres : cls.hasReset = true)
    (hen : s.chip.hdr HDR.CTRL_EN pg.toNat = 0) (hlock : s.chip.hdr HDR.CTRL_LOCK pg.toNat = 0) (h1 : w.toNat.testBit 1 = true) :
    Ends (.blockReset p pg w) s fun d => d.inReset cls n = true ∧ d.hdr HDR.ERRCNT_COUNT pg.toNat = s.chip.hdr HDR.ERRCNT_COUNT pg.toNat := by
  obtain ⟨f, hexec, hf⟩ := exec_ctrl_write (i := .blockReset p pg w) hpage h List.mem_cons_self
  rw [hpage] at hen hlock ⊢
  have hreset : s.chip.PageReset (s.chip.blockReset cls n) (cls.base + n) ∧ (s.chip.blockReset cls n).inReset cls n = true := by
    cases cls with
    | uplink =>
      obtain ⟨hpr, -, hin⟩ := s.chip.uplink_blockReset h.count
      exact ⟨hpr, hin⟩
    | segment =>
      obtain ⟨hpr, -, hin, -⟩ := s.chip.segment_blockReset n
      exact ⟨hpr, hin⟩
    | _ => exact absurd hres (by decide)
  obtain ⟨hpr, hin⟩ := hreset
  have hw : f s.chip = ((s.chip.blockReset cls n).ctrlLock (cls.base + n) w.toNat).ctrlEn cls n w.toNat := by
    rw [hf, s.chip.ctrlWrite_eq, Chip.ctrlReset_done h1 hres hen hlock]
  obtain ⟨-, -, hkeep⟩ := Chip.hdr_ctrlSet (s.chip.blockReset cls n) h.count w.toNat
  refine ends_of hexec ⟨?_, ?_⟩
  · rw [Chip.inReset, Chip.ended_resetting, hw, Chip.resetting_ctrlSet h.count]
    exact hin
  · rw [Chip.ended_hdr _ _ _ _ (ctrlKey_not_level (by simp [ctrlRows]) _), hw, hkeep _ (by simp)]
    exact hpr.kept (by decide) (by decide)
end

/-- Settles O12: LOCK, EN and PAGE_ERRCNT follow the write, and BLOCK_RESET of a disabled, unlocked page returns it to reset. -/
theorem lockAndBlockReset : Obligations.LockAndBlockReset := by
  unfold Obligations.LockAndBlockReset
  refine ⟨fun s p page cls n v hpage h => ?_, fun s p page v h0 h1 h2 hen hlock => ⟨fun n h hpage => ?_, fun n h hpage => ?_⟩⟩
  · have hlocked := ctrl_locked (w := v) hpage h
    have hclear := errcntClear_judged (w := v) hpage h
    have hctrl (i : Instr) (hi : i ∈ [Instr.blockReset p page v, Instr.pageLock p page v]) := exec_ctrl_write hpage h hi
    have hreset : Instr.blockReset p page v ∈ [Instr.blockReset p page v, Instr.pageLock p page v] := List.mem_cons_self
    have hlk : Instr.pageLock p page v ∈ [Instr.blockReset p page v, Instr.pageLock p page v] := List.mem_cons_of_mem _ List.mem_cons_self
    refine ⟨fun hen h1 h2 => ?_, fun hen h1 h2 => ?_, fun hen h1 h2 => ?_, fun hen h1 => ?_, hlocked, fun hres hen h1 => ?_, fun hf h1 i hi => ?_,
      fun hres hen hlock h1 => blockReset_done hpage h hres hen hlock h1, hclear.1, hclear.2⟩
    · obtain ⟨f, hexec, hf⟩ := hctrl _ hlk
      rw [Chip.ctrlWrite_lock h1 hen, ← hpage] at hf
      exact setsRegs_of_setHdr hexec (hf.trans (if_pos h2)) (ctrlKey_not_level (by simp [ctrlRows]) _)
    · obtain ⟨f, hexec, hf⟩ := hctrl _ hlk
      rw [Chip.ctrlWrite_lock h1 hen, Chip.ctrlLock_none h2] at hf
      exact idles_of hexec hf
    · obtain ⟨f, hexec, hf⟩ := hctrl _ hreset
      rw [Chip.ctrlWrite_counted h1 hen, Chip.ctrlLock_none h2, ← hpage] at hf
      exact setsRegs_of_counted hexec hf (by decide)
    · obtain ⟨f, hexec, hf⟩ := hctrl _ hlk
      rw [s.chip.ctrlWrite_eq, Chip.ctrlReset_none h1] at hf
      obtain ⟨hEn, hLock, -⟩ := Chip.hdr_ctrlSet s.chip h.count v.toNat
      rw [← hpage] at hEn hLock
      refine ends_of hexec ⟨?_, ?_⟩
      · rw [Chip.ended_hdr _ _ _ _ (ctrlKey_not_level (by simp [ctrlRows]) _), hf, ← hpage]
        exact hEn hen
      · rw [Chip.ended_hdr _ _ _ _ (ctrlKey_not_level (by simp [ctrlRows]) _), hf, ← hpage]
        exact hLock
    · have hEn : cls.hasEn = true := by
        revert hres
        cases cls <;> decide
      obtain ⟨t, ht, hpend, hcount, hen', -⟩ := ctrl_refused hpage h hreset h1 (.inr (.inl hen))
      exact ⟨t, ht, hpend, hcount, hen' hEn⟩
    · subst hf
      obtain ⟨f, hexec, hf⟩ := hctrl i hi
      obtain ⟨t, ht, hpend, hcount, hen', hLock⟩ := ctrl_refused hpage h hi h1 (.inl rfl)
      have htc : t.chip = s.chip.ended (f s.chip) := by
        rw [hexec, run_ended] at ht
        injection ht with ht
        rw [← ht]
      obtain ⟨htab, hdrift, hres⟩ := s.chip.flyer_ctrlWrite h.count p v.toNat h1
      refine ⟨t, ht, hpend, hcount, hen' rfl, ?_, ?_, ?_, hLock⟩
      · rw [htc, Chip.ended_flyTables, hf, htab]
      · rw [htc, Chip.ended_drift, hf, hdrift]
      · rw [htc, Chip.ended_resetting, hf, hres]
  · have hn : n.val < 4 := n.isLt
    obtain ⟨f, hexec, hf⟩ := exec_ctrl_write (i := .blockReset p page v) hpage h List.mem_cons_self
    rw [hpage] at hen hlock ⊢
    obtain ⟨hupl, hrows, hkept⟩ := Chip.uplink_reset (p := p) hn h0 h1 h2 hen hlock
    have hlow (k : Nat) (hk : cellPage k = PageCls.uplink.base + n.val) : k ∉ levelKeys := page_not_level (by
      simp only [hk, PageCls.base, List.mem_cons, List.not_mem_nil, or_false]
      omega)
    have hhdr (r : HdrRow) (hr : r ∈ keptRows) :
        (s.chip.ended (f s.chip)).hdr r (PageCls.uplink.base + n.val) = s.chip.hdr r (PageCls.uplink.base + n.val) := by
      obtain ⟨hsmall, -, -⟩ := keptRow_facts r hr
      rw [Chip.ended_hdr _ _ _ _ (hlow _ (cellPage_hdr r (by omega) _).1), hf, hkept r hr]
    refine ends_of hexec ⟨?_, fun r hr => ?_, hhdr _ (by simp [keptRows]), hhdr _ (by simp [keptRows]), hhdr _ (by simp [keptRows])⟩
    · rw [Chip.upl, Chip.ended_uplinks, hf]
      exact hupl
    · obtain ⟨hcls, hplaced, -⟩ := uplinkRows_facts r hr
      rw [Chip.ended_fld _ _ _ _ _ (hlow _ (by rw [(cellPage_row r hplaced n.val 0 (by decide)).1, hcls])), hf]
      exact hrows r hr
  · obtain ⟨f, hexec, hf⟩ := exec_ctrl_write (i := .blockReset p page v) hpage h List.mem_cons_self
    rw [hpage] at hen hlock ⊢
    rw [Chip.segment_reset h0 h1 h2 hen hlock] at hf
    obtain ⟨hreset, heng, -, htab, hbuf⟩ := s.chip.segment_blockReset n.val
    obtain ⟨hkept, hfld⟩ := hreset.setEn (n := n.val) (bitsOf v.toNat 0 0)
    have hlow (k : Nat) (hk : cellPage k = PageCls.segment.base + n.val) : k ∉ levelKeys := page_not_level (by
      simp only [hk, PageCls.base, List.mem_cons, List.not_mem_nil, or_false]
      omega)
    have hhdr (r : HdrRow) (hr : r ∈ keptRows) :
        (s.chip.ended (f s.chip)).hdr r (PageCls.segment.base + n.val) = s.chip.hdr r (PageCls.segment.base + n.val) := by
      obtain ⟨hsmall, -, -⟩ := keptRow_facts r hr
      rw [Chip.ended_hdr _ _ _ _ (hlow _ (cellPage_hdr r (by omega) _).1), hf, hkept r hr]
    have heng' : (s.chip.ended (f s.chip)).eng n.val = {} := by
      rw [Chip.eng, Chip.ended_segs, hf]
      exact heng
    refine ends_of hexec ⟨?_, ?_, fun r hr _ => ?_, hhdr _ (by simp [keptRows]), hhdr _ (by simp [keptRows]),
      fun which t w hwhich ht hw => ?_, fun a hlo hhi => ?_, fun a hout => ?_⟩
    · rw [heng']
    · rw [heng']
    · obtain ⟨hcls, hplaced, hoff⟩ := segmentRows_facts r hr
      rw [Chip.ended_fld _ _ _ _ _ (hlow _ (by rw [(cellPage_row r hplaced n.val 0 (by decide)).1, hcls])), hf]
      exact hfld r (by rw [hcls]) hplaced hoff
    · rw [Chip.turnW, Chip.ended_segTables, hf]
      exact htab which t w hwhich ht hw
    · rw [Chip.ended_segBuf, hf]
      exact (hbuf a).trans (if_pos ⟨hlo, hhi⟩)
    · rw [Chip.ended_segBuf, hf]
      exact (hbuf a).trans (if_neg hout)

end Sys2Proof.Machine
end

section
/-!
PROOF. A plain write, field by field: the fields of one register lie in cells of their own, so each takes what its access code gives, and no
other cell changes.
-/
namespace Sys2Proof.Machine

variable {c d : Chip} {cls : PageCls} {n off v : Nat} {p : Port}

/-! ### The cells of one register -/

/-- Which copy of a field that no selector picks the offset addresses. -/
def FieldRow.arrayAt (r : FieldRow) (off : Nat) : Option Nat :=
  if r.count = 1 then (if off = r.off then some 0 else none)
  else if r.off ≤ off ∧ off < r.off + r.stride * r.count ∧ (off - r.off) % r.stride = 0 then some ((off - r.off) / r.stride)
  else none

theorem Chip.copyAt_eq (c : Chip) (r : FieldRow) (off : Nat) :
    c.copyAt r off = if r.sel ≠ .none then (if off = r.off then some (c.selected r.sel) else none) else r.arrayAt off := rfl

/-- Two fields whose copies at one offset lie in two cells. -/
def FieldRow.unlike (r q : FieldRow) : Bool :=
  (r.off, r.lo) != (q.off, q.lo) &&
    if r.sel = .none then decide (q.sel = .none) || (r.arrayAt q.off).isNone
    else if q.sel = .none then (q.arrayAt r.off).isNone
    else r.off != q.off || decide (r.sel = q.sel)

/-- The field is one of its class, with its cells below those of the next. -/
def FieldRow.homed (r : FieldRow) (cls : PageCls) : Bool := decide (r.cls = cls) && r.placed && decide (r.count < 65536)

def PageCls.rowsUnlike (cls : PageCls) : Bool := decide (cls.rows.Pairwise fun r q => r.unlike q = true) && cls.rows.all (·.homed cls)

theorem rowsUnlike_all (cls : PageCls) : cls.rowsUnlike = true := by
  cases cls <;> decide +kernel

theorem row_homed {r : FieldRow} (h : r ∈ cls.rows) : r.cls = cls ∧ r.placed = true ∧ r.count < 65536 := by
  have hall := rowsUnlike_all cls
  simp only [PageCls.rowsUnlike, Bool.and_eq_true, List.all_eq_true] at hall
  have hr := hall.2 r h
  simp only [FieldRow.homed, Bool.and_eq_true, decide_eq_true_eq] at hr
  obtain ⟨⟨h1, h2⟩, h3⟩ := hr
  exact ⟨h1, h2, h3⟩

theorem FieldRow.arrayAt_lt {r : FieldRow} {i : Nat} (h : r.arrayAt off = some i) : i < r.count := by
  unfold FieldRow.arrayAt at h
  split at h
  · split at h
    · injection h with h
      omega
    · exact absurd h (by simp)
  · split at h
    · next hat =>
      obtain ⟨_, hlt, _⟩ := hat
      injection h with h
      rw [← h]
      exact Nat.div_lt_of_lt_mul (by omega)
    · exact absurd h (by simp)

theorem key_ne_of_small {r q : FieldRow} {i j : Nat} (hr : r.placed = true) (hq : q.placed = true) (hne : (r.off, r.lo) ≠ (q.off, q.lo))
    (hcls : r.cls = q.cls) (hi : i < 65536) (hj : j < 65536) : r.key n i ≠ q.key n j := by
  simp only [FieldRow.placed, Bool.and_eq_true, decide_eq_true_eq] at hr hq
  intro h
  simp only [FieldRow.key, cellKey, hcls] at h
  exact hne (Prod.ext (by simp only; omega) (by simp only; omega))

theorem key_ne_of_same {r q : FieldRow} {i : Nat} (hr : r.placed = true) (hq : q.placed = true) (hne : (r.off, r.lo) ≠ (q.off, q.lo))
    (hcls : r.cls = q.cls) : r.key n i ≠ q.key n i := by
  simp only [FieldRow.placed, Bool.and_eq_true, decide_eq_true_eq] at hr hq
  intro h
  simp only [FieldRow.key, cellKey, hcls] at h
  exact hne (Prod.ext (by simp only; omega) (by simp only; omega))

/-- The copies of two fields of a class that one offset addresses lie in two cells. -/
theorem key_ne_of_unlike {r q : FieldRow} {i j : Nat} (h : r.unlike q = true) (hr : r ∈ cls.rows) (hq : q ∈ cls.rows)
    (hi : c.copyAt r off = some i) (hj : c.copyAt q off = some j) : r.key n i ≠ q.key n j := by
  obtain ⟨hrc, hrp, hr2⟩ := row_homed hr
  obtain ⟨hqc, hqp, hq2⟩ := row_homed hq
  simp only [FieldRow.unlike, Bool.and_eq_true, bne_iff_ne] at h
  obtain ⟨hne, h⟩ := h
  have hcls : r.cls = q.cls := hrc.trans hqc.symm
  rw [Chip.copyAt_eq] at hi hj
  by_cases hrs : r.sel = .none
  · rw [if_pos hrs] at h
    rw [if_neg (by simpa using hrs)] at hi
    by_cases hqs : q.sel = .none
    · rw [if_neg (by simpa using hqs)] at hj
      exact key_ne_of_small hrp hqp hne hcls (Nat.lt_trans (FieldRow.arrayAt_lt hi) hr2) (Nat.lt_trans (FieldRow.arrayAt_lt hj) hq2)
    · rw [if_pos hqs] at hj
      split at hj
      · next hoff =>
        rw [hoff] at hi
        simp [hqs, hi] at h
      · exact absurd hj (by simp)
  · rw [if_neg hrs] at h
    rw [if_pos hrs] at hi
    split at hi
    · next hoff =>
      by_cases hqs : q.sel = .none
      · rw [if_pos hqs] at h
        rw [if_neg (by simpa using hqs), hoff] at hj
        simp [hj] at h
      · rw [if_neg hqs] at h
        rw [if_pos hqs] at hj
        split at hj
        · next hoff' =>
          have hsel : r.sel = q.sel := by
            rw [show r.off = q.off by omega] at h
            simpa using h
          have hij : i = j := by
            rw [hsel] at hi
            injection hi with hi
            injection hj with hj
            omega
          rw [hij]
          exact key_ne_of_same hrp hqp hne hcls
        · exact absurd hj (by simp)
    · exact absurd hi (by simp)

theorem mem_fieldsAt {h : FieldRow × Nat} : h ∈ c.fieldsAt cls off ↔ h.1 ∈ cls.rows ∧ c.copyAt h.1 off = some h.2 := by
  obtain ⟨r, i⟩ := h
  simp only [Chip.fieldsAt, List.mem_filterMap, Option.map_eq_some_iff, Prod.mk.injEq]
  constructor
  · rintro ⟨q, hq, j, hj, rfl, rfl⟩
    exact ⟨hq, hj⟩
  · rintro ⟨hr, hi⟩
    exact ⟨r, hr, i, hi, rfl, rfl⟩

/-- The fields of a register lie in cells of their own. -/
theorem Chip.fieldsAt_pairwise (c : Chip) (cls : PageCls) (n off : Nat) :
    (c.fieldsAt cls off).Pairwise fun h g => h.1.key n h.2 ≠ g.1.key n g.2 := by
  have hall := rowsUnlike_all cls
  simp only [PageCls.rowsUnlike, Bool.and_eq_true, decide_eq_true_eq] at hall
  rw [Chip.fieldsAt, List.pairwise_filterMap]
  refine (List.Pairwise.and_mem.mp hall.1).imp fun hrq h hh g hg => ?_
  obtain ⟨hr, hq, hun⟩ := hrq
  obtain ⟨i, hi, rfl⟩ := Option.map_eq_some_iff.mp hh
  obtain ⟨j, hj, rfl⟩ := Option.map_eq_some_iff.mp hg
  exact key_ne_of_unlike hun hr hq hi hj

/-! ### What the fields take -/

/-- What a write leaves in a field, by its access code (R17). -/
def Chip.written (c : Chip) (r : FieldRow) (n i v : Nat) (sealed : Bool) : Nat :=
  match r.acc with
  | .rw => bitsOf v r.hi r.lo
  | .w1c => c.w1cLeft (r.key n i) (c.fld r n i) (bitsOf v r.hi r.lo) % 2 ^ r.width
  | .rws => if sealed then c.fld r n i else bitsOf v r.hi r.lo
  | .ro => c.fld r n i
  | .wo => c.fld r n i

/-- Whether a write changes a field. -/
def FieldRow.takes (r : FieldRow) (sealed : Bool) : Bool :=
  match r.acc with
  | .rw => true
  | .w1c => true
  | .rws => !sealed
  | .ro => false
  | .wo => false

theorem bitsOf_width (v : Nat) (r : FieldRow) : bitsOf v r.hi r.lo % 2 ^ r.width = bitsOf v r.hi r.lo := Nat.mod_mod _ _

theorem Chip.writeField_frame (c : Chip) (r : FieldRow) (n i v : Nat) (sealed : Bool) (S : List Part) :
    c.Frame S (fun k => r.takes sealed = true ∧ k = r.key n i) (c.writeField r n i v sealed) := by
  unfold Chip.writeField FieldRow.takes
  cases r.acc with
  | rw => exact (Chip.Frame.refl c).setFld _ _ _ _ ⟨rfl, rfl⟩
  | w1c => exact (Chip.Frame.refl c).setFld _ _ _ _ ⟨rfl, rfl⟩
  | rws => exact Chip.Frame.ite (fun _ => .refl c) fun h => (Chip.Frame.refl c).setFld _ _ _ _ ⟨by simpa using h, rfl⟩
  | ro => exact .refl c
  | wo => exact .refl c

theorem Chip.fld_writeField (c : Chip) (r : FieldRow) (n i v : Nat) (sealed : Bool) :
    (c.writeField r n i v sealed).fld r n i = c.written r n i v sealed := by
  unfold Chip.writeField Chip.written
  cases r.acc with
  | rw => exact (Chip.fld_setFld_self _ _ _ _ _).trans (bitsOf_width v r)
  | w1c => exact Chip.fld_setFld_self _ _ _ _ _
  | rws =>
    simp only
    split
    · rfl
    · exact (Chip.fld_setFld_self _ _ _ _ _).trans (bitsOf_width v r)
  | ro => rfl
  | wo => rfl

theorem Chip.hwSet_writeField (c : Chip) (r : FieldRow) (n i v : Nat) (sealed : Bool) : (c.writeField r n i v sealed).hwSet = c.hwSet := by
  unfold Chip.writeField
  cases r.acc with
  | rws =>
    simp only
    split <;> rfl
  | _ => rfl

theorem Chip.written_congr (hf : d.fld r n i = c.fld r n i) (hw : d.hwSet = c.hwSet) (v : Nat) (sealed : Bool) :
    d.written r n i v sealed = c.written r n i v sealed := by
  unfold Chip.written Chip.w1cLeft
  rw [hf, hw]

/-- The write of some fields, one after another. -/
def Chip.writeFields (c : Chip) (l : List (FieldRow × Nat)) (n v : Nat) (sealed : Bool) : Chip :=
  l.foldl (fun d h => d.writeField h.1 n h.2 v sealed) c

theorem Chip.writeFields_frame (c : Chip) (l : List (FieldRow × Nat)) (n v : Nat) (sealed : Bool) (S : List Part) :
    c.Frame S (· ∈ (l.filter fun h => h.1.takes sealed).map fun h => h.1.key n h.2) (c.writeFields l n v sealed) :=
  (Chip.Frame.refl c).foldl l fun d h hh => (d.writeField_frame h.1 n h.2 v sealed S).mono (List.Subset.refl _) fun _ hk =>
    List.mem_map.mpr ⟨h, List.mem_filter.mpr ⟨hh, hk.1⟩, hk.2.symm⟩

theorem Chip.hwSet_writeFields (c : Chip) (l : List (FieldRow × Nat)) (n v : Nat) (sealed : Bool) :
    (c.writeFields l n v sealed).hwSet = c.hwSet := by
  induction l generalizing c with
  | nil => rfl
  | cons h l ih => exact (ih (c.writeField h.1 n h.2 v sealed)).trans (c.hwSet_writeField _ _ _ _ _)

theorem Chip.fld_writeFields {l : List (FieldRow × Nat)} (hl : l.Pairwise fun h g => h.1.key n h.2 ≠ g.1.key n g.2) {h : FieldRow × Nat}
    (hh : h ∈ l) (v : Nat) (sealed : Bool) : (c.writeFields l n v sealed).fld h.1 n h.2 = c.written h.1 n h.2 v sealed := by
  induction l generalizing c with
  | nil => exact absurd hh (by simp)
  | cons g l ih =>
    obtain ⟨hg, hl⟩ := List.pairwise_cons.mp hl
    have hcons : c.writeFields (g :: l) n v sealed = (c.writeField g.1 n g.2 v sealed).writeFields l n v sealed := rfl
    rw [hcons]
    rcases List.mem_cons.mp hh with rfl | hh
    · have hkeep := (Chip.writeFields_frame (c.writeField h.1 n h.2 v sealed) l n v sealed []).fld h.1 n h.2 (by
        rw [List.mem_map]
        rintro ⟨g, hmem, hk⟩
        exact hg g (List.mem_filter.mp hmem).1 hk.symm)
      rw [hkeep, Chip.fld_writeField]
    · rw [ih hl hh, Chip.written_congr _ (c.hwSet_writeField _ _ _ _ _)]
      exact (c.writeField_frame g.1 n g.2 v sealed []).fld _ _ _ fun hk => hg h hh hk.2.symm

/-! ### A plain write -/

def Chip.sealedPage (c : Chip) (cls : PageCls) (n : Nat) : Bool := c.hdr HDR.SEAL_SEALED (cls.base + n) != 0

/-- What is written of a register. -/
def Chip.plainFields (c : Chip) (cls : PageCls) (n off v : Nat) : Chip := c.writeFields (c.fieldsAt cls off) n v (c.sealedPage cls n)

theorem Chip.plainWrite_eq (c : Chip) (cls : PageCls) (n off v : Nat) (p : Port) : c.plainWrite cls n off v p =
    if c.sealedAt cls n off then ((c.plainFields cls n off v).errcnt (cls.base + n) off p).raise EV.GLOBAL_SEALED_WRITE
    else c.plainFields cls n off v := rfl

/-- The cells that a write of a register changes. -/
def Chip.takenKeys (c : Chip) (cls : PageCls) (n off : Nat) : List Nat :=
  ((c.fieldsAt cls off).filter fun h => h.1.takes (c.sealedPage cls n)).map fun h => h.1.key n h.2

theorem Chip.plainFields_frame (c : Chip) (cls : PageCls) (n off v : Nat) (S : List Part) :
    c.Frame S (· ∈ c.takenKeys cls n off) (c.plainFields cls n off v) := c.writeFields_frame _ _ _ _ _

theorem Chip.fld_plainFields {h : FieldRow × Nat} (hh : h ∈ c.fieldsAt cls off) (v : Nat) :
    (c.plainFields cls n off v).fld h.1 n h.2 = c.written h.1 n h.2 v (c.sealedPage cls n) :=
  Chip.fld_writeFields (c.fieldsAt_pairwise cls n off) hh v _

theorem Chip.sealedAt_unsealed (h : c.sealedPage cls n = false) (off : Nat) : c.sealedAt cls n off = false := by
  rw [Chip.sealedAt, show (c.hdr HDR.SEAL_SEALED (cls.base + n) != 0) = false from h]
  rfl

theorem Chip.sealedAt_open (h : ∀ r ∈ cls.rows, r.acc ≠ .rws) (n off : Nat) : c.sealedAt cls n off = false := by
  have hany : (c.fieldsAt cls off).any (fun h => h.1.acc == .rws) = false :=
    List.any_eq_false.mpr fun g hg => by simpa using h g.1 (mem_fieldsAt.mp hg).1
  rw [Chip.sealedAt, hany, Bool.and_false]

theorem Chip.plainWrite_open (h : c.sealedAt cls n off = false) (v : Nat) (p : Port) : c.plainWrite cls n off v p = c.plainFields cls n off v := by
  rw [c.plainWrite_eq, h]
  rfl

end Sys2Proof.Machine
end

section
/-!
PROOF. A frame read from a later state: once some parts have taken their new values, only the rest of the change is left.
-/
namespace Sys2Proof.Machine

/-- `c` with one part as `d` has it. -/
def Part.put (q : Part) (d c : Chip) : Chip :=
  match q with
  | .ports => { c with ports := d.ports }
  | .arms => { c with arms := d.arms }
  | .ecc => { c with ecc := d.ecc }
  | .resetting => { c with resetting := d.resetting }
  | .freeCtr => { c with freeCtr := d.freeCtr }
  | .modes => { c with modes := d.modes }
  | .power => { c with power := d.power }
  | .whorl => { c with whorl := d.whorl }
  | .image => { c with image := d.image }
  | .buffer => { c with buffer := d.buffer }
  | .txOps => { c with txOps := d.txOps }
  | .reel => { c with reel := d.reel }
  | .aon => { c with aon := d.aon }
  | .carder => { c with carder := d.carder }
  | .hankIn => { c with hankIn := d.hankIn }
  | .uplinks => { c with uplinks := d.uplinks }
  | .ply => { c with ply := d.ply }
  | .hostq => { c with hostq := d.hostq }
  | .hank => { c with hank := d.hank }
  | .distaff => { c with distaff := d.distaff }
  | .fates => { c with fates := d.fates }
  | .dram => { c with dram := d.dram }
  | .segs => { c with segs := d.segs }
  | .segTables => { c with segTables := d.segTables }
  | .segBuf => { c with segBuf := d.segBuf }
  | .flyers => { c with flyers := d.flyers }
  | .flyTables => { c with flyTables := d.flyTables }
  | .drift => { c with drift := d.drift }
  | .chain => { c with chain := d.chain }
  | .mirror => { c with mirror := d.mirror }
  | .hostWrites => { c with hostWrites := d.hostWrites }

theorem Part.same_put {q r : Part} {c d : Chip} (hne : r ≠ q) (h : r.Same c d) : r.Same (q.put d c) d := by
  cases q <;> cases r <;> first | exact h | exact absurd rfl hne

theorem Part.same_put_self (q : Part) (c d : Chip) : q.Same (q.put d c) d := by cases q <;> rfl

theorem Part.regs_put (q : Part) (c d : Chip) : (q.put d c).regs = c.regs := by cases q <;> rfl

/-- The change after a part has taken its new value. -/
theorem Chip.Frame.since {c d : Chip} {S T : List Part} {K : Nat → Prop} (q : Part) (h : c.Frame S K d) (hT : ∀ r ∈ S, r ≠ q → r ∈ T) :
    (q.put d c).Frame T K d := by
  refine ⟨fun r hr => ?_, fun k hk v => ?_⟩
  · by_cases hq : r = q
    · subst hq
      exact r.same_put_self c d
    · exact Part.same_put hq (h.part r fun hs => hr (hT r hs hq))
  · rw [Part.regs_put]
    exact h.cell k hk v

end Sys2Proof.Machine
end

section
/-!
PROOF. Writes follow the access codes of the fields (R17 to R20).
-/
namespace Sys2Proof.Machine

variable {c d : Chip} {cls : PageCls} {n off : Nat} {p : Port} {s : State} {addr : PageAddr} {v : Word}

/-- A write of a register of an open page that is half of no pair, and that nothing holds, is the page's own. -/
theorem regWrite_page (h : s.chip.Open p cls n) (ha : addr.toNat = (cls.base + n) * 4096 + off) (h4 : off % 4 = 0) (ho : 0x040 ≤ off ∧ off < 4096)
    (hlo : cls.isLo off = false) (hhi : cls.isHi off = false) (hheld : s.chip.regHeld cls n off = false) :
    ∃ f, exec (.registerWrite p addr v) s = run f s ∧ f s.chip = s.chip.pageWrite p cls n off v.toNat := by
  refine ⟨_, exec_registerWrite_eq (by omega) p v s, ?_⟩
  rw [Chip.regWrite_open h ha ho.2, Chip.portWrite_single ho.1 hlo hhi, Chip.judgedRegWrite, hheld]
  rfl

/-! ### POWER -/

theorem powerRows_acc : ∀ r ∈ PageCls.power.rows, r.acc = .rw ∨ r.acc = .ro := by decide

theorem powerTaken (c : Chip) (off : Nat) : c.takenKeys .power 0 off =
    (((c.fieldsAt .power off).filter fun h => h.1.acc == .rw).map fun h => h.1.key 0 h.2) := by
  rw [Chip.takenKeys, List.filter_congr fun h hh => ?_]
  have hacc := powerRows_acc h.1 (mem_fieldsAt.mp hh).1
  rcases hacc with hacc | hacc <;> rw [FieldRow.takes, hacc] <;> rfl

theorem levelKeys_power : ∀ r ∈ POWER.rows, r.acc = .rw → ∀ k ∈ levelKeys, k / 65536 ≠ r.key 0 0 / 65536 := by decide

theorem powerKey_not_level {r : FieldRow} {i : Nat} (hr : r ∈ POWER.rows) (hacc : r.acc = .rw) (hi : i < 65536) : r.key 0 i ∉ levelKeys := by
  intro h
  refine levelKeys_power r hr hacc _ h ?_
  simp only [FieldRow.key, cellKey]
  omega

theorem Chip.ended_committed (b d : Chip) : (b.ended d).committed = d.committed := by
  rw [Chip.committed, Chip.committed, Chip.ended_fld _ _ _ _ _ (by decide), Chip.ended_fld _ _ _ _ _ (by decide), Chip.ended_power]

theorem Chip.ceilingJudge_eq (c : Chip) : c.ceilingJudge =
    { c with power := { c.power with ceilingCut := c.power.ceilingCut && decide (c.fld POWER.CEILING_TOKENS < c.committed) } } := by
  unfold Chip.ceilingJudge
  split
  · next h => rw [decide_eq_true h, Bool.and_true]
  · next h => rw [decide_eq_false h, Bool.and_false]

theorem copy_small {h : FieldRow × Nat} (hh : h ∈ c.fieldsAt .power off) : h.2 < 65536 := by
  obtain ⟨hr, hi⟩ := mem_fieldsAt.mp hh
  have hsel : ∀ r ∈ PageCls.power.rows, r.sel = .none := by decide
  rw [Chip.copyAt_eq, if_neg (by simpa using hsel _ hr)] at hi
  exact Nat.lt_trans (FieldRow.arrayAt_lt hi) (row_homed hr).2.2

theorem powerWrite (h : s.chip.Open p .power 0) (ha : addr.toNat = PageCls.power.base * 4096 + off) (ho : 0x040 ≤ off) (ho' : off < 4096)
    (h4 : off % 4 = 0) (hne : off ≠ POWER.CEILING_TOKENS.off) :
    ∃ cut, Becomes (.registerWrite p addr v) s { s.chip with power := { s.chip.power with ceilingCut := cut } }
      (((s.chip.fieldsAt .power off).filter fun h => h.1.acc == .rw).map fun h => h.1.key 0 h.2) fun d =>
      cut = (s.chip.power.ceilingCut && decide (d.fld POWER.CEILING_TOKENS < d.committed)) ∧
        ∀ h ∈ s.chip.fieldsAt .power off, h.1.acc = .rw → d.fld h.1 0 h.2 = bitsOf v.toNat h.1.hi h.1.lo := by
  obtain ⟨f, hexec, hf⟩ := regWrite_page (v := v) h ha h4 ⟨ho, ho'⟩ rfl (by simp [PageCls.isHi, PageCls.isLo, PageCls.loOffsets]) rfl
  have hopen : s.chip.sealedAt .power 0 off = false :=
    Chip.sealedAt_open (fun r hr => by rcases powerRows_acc r hr with h | h <;> rw [h] <;> decide) 0 off
  have hpw : s.chip.pageWrite p .power 0 off v.toNat = (s.chip.plainFields .power 0 off v.toNat).ceilingJudge := by
    rw [Chip.pageWrite, if_neg hne, Chip.plainWrite_open hopen]
  rw [hpw] at hf
  have hframe := s.chip.plainFields_frame .power 0 off v.toNat []
  rw [powerTaken] at hframe
  have hfld (g : FieldRow × Nat) (hg : g ∈ s.chip.fieldsAt .power off) := Chip.fld_plainFields (n := 0) hg v.toNat
  have hpower : (s.chip.plainFields .power 0 off v.toNat).power = s.chip.power := hframe.power (by simp)
  generalize s.chip.plainFields .power 0 off v.toNat = d at hf hframe hfld hpower
  rw [Chip.ceilingJudge_eq] at hf
  refine ⟨_, becomes_of hexec (c := { s.chip with power := { s.chip.power with
    ceilingCut := d.power.ceilingCut && decide (d.fld POWER.CEILING_TOKENS < d.committed) } }) ?_ ⟨?_, fun g hg hacc => ?_⟩⟩
  · rw [hf]
    have hall := (hframe.mono (T := [.power]) (List.nil_subset _) fun _ hk => hk).withPower
      { d.power with ceilingCut := d.power.ceilingCut && decide (d.fld POWER.CEILING_TOKENS < d.committed) } List.mem_cons_self
    have hsince := hall.since (T := [.ecc]) .power (by simp)
    rw [Part.put, hpower] at hsince
    rw [hpower]
    exact hsince
  · rw [Chip.ended_committed, Chip.ended_fld _ _ _ _ _ (by decide), hf, ← hpower]
    rfl
  · rw [Chip.ended_fld _ _ _ _ _ (powerKey_not_level (mem_fieldsAt.mp hg).1 hacc (copy_small hg)), hf]
    refine (hfld g hg).trans ?_
    rw [Chip.written, hacc]

/-! ### FLYER -/

theorem flyerWrite (n : Fin 96) (h : s.chip.Open p .flyer n.val) (ha : addr.toNat = (PageCls.flyer.base + n.val) * 4096 + off)
    (ho : off ∈ [0x040, 0x044, 0x048, 0x04C, 0x050, 0x070]) :
    ∃ f, exec (.registerWrite p addr v) s = run f s ∧ f s.chip = s.chip.plainWrite .flyer n.val off v.toNat p := by
  have hfacts : ∀ off ∈ [0x040, 0x044, 0x048, 0x04C, 0x050, 0x070], off % 4 = 0 ∧ 0x040 ≤ off ∧ off < 4096 ∧
      PageCls.flyer.isLo off = false ∧ PageCls.flyer.isHi off = false ∧ (off == FLYER.TT_STAGE_CRC_CRC.off) = false := by decide
  obtain ⟨h4, h1, h2, hlo, hhi, hcrc⟩ := hfacts off ho
  obtain ⟨f, hexec, hf⟩ := regWrite_page (v := v) h ha h4 ⟨h1, h2⟩ hlo hhi (by
    rw [Chip.regHeld, hcrc]
    rfl)
  refine ⟨f, hexec, hf.trans ?_⟩
  simp only [List.mem_cons, List.not_mem_nil, or_false] at ho
  rcases ho with rfl | rfl | rfl | rfl | rfl | rfl <;> rfl

/-- The fields at an offset, where no field of the page has a selector or copies there. -/
theorem flyerFields (hoff : off ∈ [0x040, 0x044, 0x048, 0x04C, 0x050, 0x070]) :
    c.fieldsAt .flyer off = (FLYER.rows.filter fun r => r.off == off).map fun r => (r, 0) := by
  simp only [List.mem_cons, List.not_mem_nil, or_false] at hoff
  rcases hoff with rfl | rfl | rfl | rfl | rfl | rfl <;> rfl

/-- A cell of a FLYER page is no level. -/
theorem flyerKey_not_level {r : FieldRow} (hr : r ∈ FLYER.rows) (n : Fin 96) : r.key n.val 0 ∉ levelKeys := by
  obtain ⟨hcls, hplaced, -⟩ := row_homed (cls := .flyer) hr
  refine page_not_level ?_
  rw [(cellPage_row r hplaced n.val 0 (by decide)).1, hcls]
  simp only [PageCls.base, List.mem_cons, List.not_mem_nil, or_false]
  omega

theorem mem_flyerFields {r : FieldRow} (hoff : off ∈ [0x040, 0x044, 0x048, 0x04C, 0x050, 0x070]) (hr : r ∈ FLYER.rows) (ho : r.off = off) :
    (r, 0) ∈ c.fieldsAt .flyer off := by
  rw [flyerFields hoff]
  exact List.mem_map_of_mem (List.mem_filter.mpr ⟨hr, by simpa using ho⟩)

theorem flyerTaken (hoff : off ∈ [0x040, 0x044, 0x048, 0x04C, 0x050, 0x070]) :
    c.takenKeys .flyer n off = ((FLYER.rows.filter fun r => r.off == off && r.takes (c.sealedPage .flyer n)).map fun r => r.key n 0) := by
  rw [Chip.takenKeys, flyerFields hoff, List.filter_map, List.map_map, List.filter_filter]
  congr 1
  exact List.filter_congr fun r _ => Bool.and_comm _ _

/-- What a write of a register leaves in each of its fields. -/
theorem fld_flyerFields {r : FieldRow} (hoff : off ∈ [0x040, 0x044, 0x048, 0x04C, 0x050, 0x070]) (hr : r ∈ FLYER.rows) (ho : r.off = off) (v : Nat) :
    (c.plainFields .flyer n off v).fld r n = c.written r n 0 v (c.sealedPage .flyer n) :=
  Chip.fld_plainFields (mem_flyerFields hoff hr ho) v

theorem settingAcc : ∀ r ∈ FLYER.rows, r.off ∈ [0x040, 0x044, 0x048, 0x04C, 0x050] → r.acc = .rw ∨ r.acc = .rws := by decide

theorem faultAcc : ∀ r ∈ FLYER.rows, r.off = 0x070 → r.acc = .w1c ∧ r.hi = r.lo := by decide

theorem Chip.sealedPage_iff (c : Chip) (n : Nat) : c.sealedPage cls n = true ↔ c.hdr HDR.SEAL_SEALED (cls.base + n) ≠ 0 := by simp [Chip.sealedPage]

/-- A bit of a W1C flag: written 0 it stays, written 1 it clears, unless hardware has set it in this clock. -/
theorem w1c_flag {r : FieldRow} {key : Nat} (hw : r.hi = r.lo) {x : Nat} (hx : x < 2) (v : Nat) :
    (v.testBit r.lo = false → c.w1cLeft key x (bitsOf v r.hi r.lo) % 2 ^ r.width = x) ∧
    (v.testBit r.lo = true → c.w1cLeft key x (bitsOf v r.hi r.lo) % 2 ^ r.width = if (Tab.get 0 c.hwSet key).testBit 0 then x else 0) := by
  have hwidth : r.width = 1 := by simp [FieldRow.width, hw]
  have hbit : bitsOf v r.hi r.lo = (v.testBit r.lo).toNat := by
    rw [bitsOf, hw, Nat.sub_self, Nat.zero_add, pow_one, Nat.shiftRight_eq_div_pow, ← Nat.toNat_testBit]
  rw [hbit, hwidth, pow_one, Chip.w1cLeft]
  have hhw : 1 &&& Tab.get 0 c.hwSet key = ((Tab.get 0 c.hwSet key).testBit 0).toNat := by
    rw [Nat.one_and_eq_mod_two, Nat.testBit_zero]
    rcases Nat.mod_two_eq_zero_or_one (Tab.get 0 c.hwSet key) with h | h <;> simp [h]
  have hx' : x = 0 ∨ x = 1 := by omega
  refine ⟨fun h => ?_, fun h => ?_⟩
  · rw [h]
    simp [Nat.mod_eq_of_lt hx]
  · rw [h, Bool.toNat_true, hhw]
    cases (Tab.get 0 c.hwSet key).testBit 0 <;> rcases hx' with rfl | rfl <;> rfl

theorem flyerFaults (n : Fin 96) (h : s.chip.Open p .flyer n.val) (ha : addr.toNat = (PageCls.flyer.base + n.val) * 4096 + off)
    (ho : off = FLYER.FAULT_STATUS_TX_VIOLATION.off) :
    let rows := FLYER.rows.filter fun r => r.off == off && r.acc == .w1c
    SetsRegs (.registerWrite p addr v) s (rows.map fun r => r.key n.val 0) fun d => ∀ r ∈ rows, s.chip.fld r n.val < 2 →
      (v.toNat.testBit r.lo = false → d.fld r n.val = s.chip.fld r n.val) ∧
      (v.toNat.testBit r.lo = true →
        d.fld r n.val = if (Tab.get 0 s.chip.hwSet (r.key n.val 0)).testBit 0 then s.chip.fld r n.val else 0) := by
  have hoff : off ∈ [0x040, 0x044, 0x048, 0x04C, 0x050, 0x070] := by
    rw [ho]
    decide
  obtain ⟨f, hexec, hf⟩ := flyerWrite (v := v) n h ha hoff
  have hrow (r : FieldRow) (hr : r ∈ FLYER.rows) (hro : r.off = off) := faultAcc r hr (hro.trans ho)
  have hany : (s.chip.fieldsAt .flyer off).any (fun h => h.1.acc == .rws) = false := by
    rw [flyerFields hoff, ho]
    rfl
  rw [Chip.plainWrite_open (by rw [Chip.sealedAt, hany, Bool.and_false])] at hf
  refine setsRegs_of hexec ?_ fun r hr => ?_
  · rw [hf]
    have hframe := s.chip.plainFields_frame .flyer n.val off v.toNat [.ecc]
    rw [flyerTaken hoff] at hframe
    rw [List.filter_congr (q := fun r => r.off == off && r.takes (s.chip.sealedPage .flyer n.val)) fun r hr => ?_]
    · exact hframe
    · by_cases hro : r.off = off
      · rw [FieldRow.takes, (hrow r hr hro).1]
        rfl
      · rw [beq_eq_false_iff_ne.mpr hro, Bool.false_and, Bool.false_and]
  · obtain ⟨hr, hrow'⟩ := List.mem_filter.mp hr
    simp only [Bool.and_eq_true, beq_iff_eq] at hrow'
    obtain ⟨hro, hacc⟩ := hrow'
    have hval : (s.chip.ended (f s.chip)).fld r n.val =
        s.chip.w1cLeft (r.key n.val 0) (s.chip.fld r n.val) (bitsOf v.toNat r.hi r.lo) % 2 ^ r.width := by
      rw [Chip.ended_fld _ _ _ _ _ (flyerKey_not_level hr n), hf, fld_flyerFields hoff hr hro, Chip.written, hacc]
    intro hx
    rw [hval]
    exact w1c_flag (hrow r hr hro).2 hx _

theorem flyerEvents (n : Fin 96) (h : s.chip.Open p .flyer n.val) (ha : addr.toNat = (PageCls.flyer.base + n.val) * 4096 + off)
    (ho : off = HDR.EVT.off) :
    let page := PageCls.flyer.base + n.val
    let old := s.chip.hdr HDR.EVT page
    SetsRegs (.registerWrite p addr v) s [HDR.EVT.key page] fun d => ∀ b, b < 32 →
      (d.hdr HDR.EVT page).testBit b = (old.testBit b && (!v.toNat.testBit b || (Tab.get 0 s.chip.hwSet (evtKey page)).testBit b)) := by
  have hev : HDR.EVT.off = 0x010 := rfl
  rw [hev] at ho
  have hf : s.chip.regWrite p addr.toNat v.toNat = s.chip.setHdr HDR.EVT (PageCls.flyer.base + n.val)
      (s.chip.w1cLeft (evtKey (PageCls.flyer.base + n.val)) (s.chip.hdr HDR.EVT (PageCls.flyer.base + n.val)) v.toNat) := by
    rw [Chip.regWrite_open h ha (by omega), ho]
    rfl
  have hlow : HDR.EVT.key (PageCls.flyer.base + n.val) ∉ levelKeys := page_not_level (by
    rw [(cellPage_hdr HDR.EVT (by decide) _).1]
    simp only [PageCls.base, List.mem_cons, List.not_mem_nil, or_false]
    omega)
  refine setsRegs_of (exec_registerWrite_eq (by omega) p v s) ?_ fun b hb => ?_
  · rw [hf]
    exact (Chip.Frame.refl _).setHdr _ _ _ (List.mem_singleton.mpr rfl)
  · rw [Chip.ended_hdr _ _ _ _ hlow, hf, Chip.hdr_setHdr_self]
    rw [show HDR.EVT.hi - HDR.EVT.lo + 1 = 32 from rfl]
    simp only [Nat.testBit_mod_two_pow, hb, decide_true, Bool.true_and, Chip.w1cLeft, Nat.testBit_xor, Nat.testBit_and]
    cases (s.chip.hdr HDR.EVT (PageCls.flyer.base + n.val)).testBit b <;> cases v.toNat.testBit b <;>
      cases (Tab.get 0 s.chip.hwSet (evtKey (PageCls.flyer.base + n.val))).testBit b <;> rfl

/-- A count after a change that leaves the page's PAGE_ERRCNT alone. -/
theorem Chip.Frame.counted {S : List Part} {K : Nat → Prop} {e : Chip} {page : Nat} (h : c.Frame S K d) (hk : ∀ k ∈ errKeys page, ¬ K k)
    (hc : d.Counted e page off p) : c.Counted e page off p := by
  obtain ⟨h1, h2, h3⟩ := hc
  exact ⟨h1.trans (by rw [h.hdr HDR.ERRCNT_COUNT page (hk _ (by simp [errKeys]))]), h2, h3⟩

theorem Chip.sealedAt_setting (hseal : c.sealedPage .flyer n = true) (hoff : off ∈ [0x040, 0x044, 0x048, 0x04C, 0x050]) :
    c.sealedAt .flyer n off = true := by
  have hmem : off ∈ [0x040, 0x044, 0x048, 0x04C, 0x050, 0x070] := by
    simp only [List.mem_cons, List.not_mem_nil, or_false] at hoff ⊢
    omega
  rw [Chip.sealedAt, show (c.hdr HDR.SEAL_SEALED (PageCls.flyer.base + n) != 0) = true from hseal, flyerFields hmem, Bool.true_and]
  have hall : ∀ off ∈ [0x040, 0x044, 0x048, 0x04C, 0x050],
      ((FLYER.rows.filter fun r => r.off == off).map fun r => (r, 0)).any (fun h : FieldRow × Nat => h.1.acc == .rws) = true := by decide
  exact hall off hoff

theorem flyerSettings (n : Fin 96) (h : s.chip.Open p .flyer n.val) (ha : addr.toNat = (PageCls.flyer.base + n.val) * 4096 + off)
    (ho : off ∈ [0x040, 0x044, 0x048, 0x04C, 0x050]) :
    (s.chip.hdr HDR.SEAL_SEALED (PageCls.flyer.base + n.val) = 0 →
      SetsRegs (.registerWrite p addr v) s ((FLYER.rows.filter fun r => r.off == off).map fun r => r.key n.val 0) fun d =>
        ∀ r ∈ FLYER.rows, r.off = off → d.fld r n.val = bitsOf v.toNat r.hi r.lo) ∧
    (s.chip.hdr HDR.SEAL_SEALED (PageCls.flyer.base + n.val) ≠ 0 →
      SetsRegs (.registerWrite p addr v) s (EV.GLOBAL_SEALED_WRITE.key 0 :: (errKeys (PageCls.flyer.base + n.val) ++
        (FLYER.rows.filter fun r => r.off == off && r.acc == .rw).map fun r => r.key n.val 0)) fun d =>
        s.chip.Counted d (PageCls.flyer.base + n.val) off p ∧ s.chip.Tells d EV.GLOBAL_SEALED_WRITE ∧
          (∀ r ∈ FLYER.rows, r.off = off → r.acc = .rws → d.fld r n.val = s.chip.fld r n.val) ∧
          ∀ r ∈ FLYER.rows, r.off = off → r.acc = .rw → d.fld r n.val = bitsOf v.toNat r.hi r.lo) := by
  have hoff : off ∈ [0x040, 0x044, 0x048, 0x04C, 0x050, 0x070] := by
    simp only [List.mem_cons, List.not_mem_nil, or_false] at ho ⊢
    omega
  have hlt : off < 4096 := by
    simp only [List.mem_cons, List.not_mem_nil, or_false] at ho
    omega
  obtain ⟨f, hexec, hf⟩ := flyerWrite (v := v) n h ha hoff
  have hacc (r : FieldRow) (hr : r ∈ FLYER.rows) (hro : r.off = off) := settingAcc r hr (hro ▸ ho)
  refine ⟨fun hseal => ?_, fun hseal => ?_⟩
  · have hopen : s.chip.sealedPage .flyer n.val = false := by simpa [Chip.sealedPage] using hseal
    rw [Chip.plainWrite_open (Chip.sealedAt_unsealed hopen off)] at hf
    refine setsRegs_of hexec ?_ fun r hr hro => ?_
    · rw [hf]
      have hframe := s.chip.plainFields_frame .flyer n.val off v.toNat [.ecc]
      rw [flyerTaken hoff] at hframe
      refine hframe.mono (List.Subset.refl _) fun k hk => ?_
      obtain ⟨r, hr, rfl⟩ := List.mem_map.mp hk
      obtain ⟨hr, hro⟩ := List.mem_filter.mp hr
      exact List.mem_map_of_mem (List.mem_filter.mpr ⟨hr, (Bool.and_eq_true _ _ ▸ hro).1⟩)
    · rw [Chip.ended_fld _ _ _ _ _ (flyerKey_not_level hr n), hf, fld_flyerFields hoff hr hro, hopen, Chip.written]
      rcases hacc r hr hro with hacc | hacc
      · rw [hacc]
      · rw [hacc]
        rfl
  · have hsealed : s.chip.sealedPage .flyer n.val = true := (s.chip.sealedPage_iff n.val).mpr hseal
    rw [Chip.plainWrite_eq, Chip.sealedAt_setting hsealed ho, if_pos rfl] at hf
    have hframe := s.chip.plainFields_frame .flyer n.val off v.toNat []
    rw [flyerTaken hoff, hsealed] at hframe
    have hown (k : Nat) (hk : k ∈ (FLYER.rows.filter fun r => r.off == off && r.takes true).map fun r => r.key n.val 0) :
        k ∈ (FLYER.rows.filter fun r => r.off == off && r.acc == .rw).map fun r => r.key n.val 0 := by
      obtain ⟨r, hr, rfl⟩ := List.mem_map.mp hk
      obtain ⟨hr, hro⟩ := List.mem_filter.mp hr
      rw [Bool.and_eq_true, beq_iff_eq] at hro
      refine List.mem_map_of_mem (List.mem_filter.mpr ⟨hr, ?_⟩)
      rcases hacc r hr hro.1 with hacc | hacc
      · rw [hacc, hro.1, beq_self_eq_true]
        rfl
      · rw [FieldRow.takes, hacc] at hro
        exact absurd hro.2 (by decide)
    have hapart {r : FieldRow} (hr : r ∈ FLYER.rows) (hro : r.off = off) (e : HdrRow) (he : e.off < 0x040 ∧ e.lo < 32) (page : Nat) :
        r.key n.val 0 ≠ e.key page := by
      obtain ⟨-, hplaced, -⟩ := row_homed (cls := .flyer) hr
      simp only [FieldRow.placed, Bool.and_eq_true, decide_eq_true_eq] at hplaced
      simp only [List.mem_cons, List.not_mem_nil, or_false] at ho
      simp only [FieldRow.key, HdrRow.key, cellKey]
      omega
    have herr {r : FieldRow} (hr : r ∈ FLYER.rows) (hro : r.off = off) : r.key n.val 0 ∉ errKeys (PageCls.flyer.base + n.val) := by
      simp only [errKeys, List.mem_cons, List.not_mem_nil, or_false, not_or]
      exact ⟨hapart hr hro _ (by decide) _, hapart hr hro _ (by decide) _, hapart hr hro _ (by decide) _⟩
    have hnot (k : Nat) (hk : k ∈ errKeys (PageCls.flyer.base + n.val)) :
        k ∉ (FLYER.rows.filter fun r => r.off == off && r.takes true).map fun r => r.key n.val 0 := by
      intro hmem
      obtain ⟨r, hr, rfl⟩ := List.mem_map.mp hmem
      obtain ⟨hr, hro⟩ := List.mem_filter.mp hr
      rw [Bool.and_eq_true, beq_iff_eq] at hro
      exact herr hr hro.1 hk
    have hfields (r : FieldRow) (hr : r ∈ FLYER.rows) (hro : r.off = off) := fld_flyerFields (c := s.chip) (n := n.val) hoff hr hro v.toNat
    rw [hsealed] at hfields
    generalize s.chip.plainFields .flyer n.val off v.toNat = e at hf hframe hfields
    have hrefused := e.refused_frame EV.GLOBAL_SEALED_WRITE 0 (PageCls.flyer.base + n.val) off p
    have hfld (r : FieldRow) (hr : r ∈ FLYER.rows) (hro : r.off = off) :
        (s.chip.ended (f s.chip)).fld r n.val = s.chip.written r n.val 0 v.toNat true := by
      rw [Chip.ended_fld _ _ _ _ _ (flyerKey_not_level hr n), hf, hrefused.fld _ _ _ ?_, hfields r hr hro]
      rw [List.mem_cons, not_or]
      exact ⟨hapart hr hro HDR.EVT (by decide) 0, herr hr hro⟩
    refine setsRegs_of hexec ?_ ⟨?_, ?_, fun r hr hro hacc => ?_, fun r hr hro hacc => ?_⟩
    · rw [hf]
      refine (hframe.mono (List.nil_subset _) fun k hk => ?_).andThen hrefused (List.Subset.refl _) fun k hk => ?_
      · exact List.mem_cons_of_mem _ (List.mem_append_right _ (hown k hk))
      · rcases List.mem_cons.mp hk with rfl | hk
        · exact List.mem_cons_self
        · exact List.mem_cons_of_mem _ (List.mem_append_left _ hk)
    · rw [hf]
      exact (hframe.counted hnot ((e.counted_errcnt _ _ _ hlt).raise _ _)).ended
    · rw [hf]
      have hdom : e.domUp .aon = s.chip.domUp .aon := hframe.domUp .aon fun hk => by
        obtain ⟨r, hr, hk⟩ := List.mem_map.mp hk
        obtain ⟨hcls, hplaced, -⟩ := row_homed (cls := .flyer) (List.mem_filter.mp hr).1
        have hpage := (cellPage_row r hplaced n.val 0 (by decide)).1
        rw [hk, hcls, show cellPage ((Domain.row .aon).key 0 0) = 1 from by decide] at hpage
        simp only [PageCls.base] at hpage
        omega
      exact Chip.Tells.ended (fun hup => e.refused_tells EV.GLOBAL_SEALED_WRITE 0 _ _ _ (by decide) (hdom.trans hup)) (by decide)
    · rw [hfld r hr hro, Chip.written, hacc]
      rfl
    · rw [hfld r hr hro, Chip.written, hacc]

/-! ### Command registers, and pages that Table 12.5 does not list -/

theorem unlisted_write (hreach : s.chip.reaches p = true) (h4 : addr.toNat % 4 = 0) (hpage : pageOf (addr.toNat / 4096) = none) :
    Idles (.registerWrite p addr v) s := by
  refine idles_of (exec_registerWrite_eq h4 p v s) ?_
  rw [Chip.regWrite, Chip.access, if_pos hreach, hpage]

theorem unlisted_read (hreach : s.chip.reaches p = true) (h4 : addr.toNat % 4 = 0) (hpage : pageOf (addr.toNat / 4096) = none) :
    SetsPort (.loReadLatch p addr 15) s p { s.chip.portState p with data := 0 } [] (fun _ => True) := by
  have hexec : exec (.loReadLatch p addr 15) s = run (fun c => c.laneRead p addr.toNat 15) s := by
    rw [exec, execLoReadLatch, readForm, beq_self_eq_true, Bool.or_true, if_pos rfl, runAligned_eq h4]
  have hread : s.chip.regRead p addr.toNat = s.chip.setPort p { s.chip.portState p with data := 0 } := by
    rw [Chip.regRead, hreach, if_pos rfl, Chip.access, hpage]
    simp
  have hf : s.chip.laneRead p addr.toNat 15 = (s.chip.setPort p { s.chip.portState p with data := 0 }).setPort p
      { s.chip.portState p with data := 0 } := by
    rw [Chip.laneRead, hread, Chip.portState_setPort_self, Nat.zero_and]
  refine setsPort_of_frame hexec ?_ ?_ (fun q hq => ?_) trivial
  · rw [hf]
    exact ((Chip.Frame.refl _).withPorts _ (by simp)).withPorts _ (by simp)
  · rw [hf, Chip.portState_setPort_self]
  · rw [hf, Chip.portState_setPort_ne _ _ hq, Chip.portState_setPort_ne _ _ hq]

/-- Settles O6, page by page: what a write leaves in each field of the register, and in no other cell. -/
theorem writesFollowAccessCodes : Obligations.WritesFollowAccessCodes := by
  unfold Obligations.WritesFollowAccessCodes
  refine ⟨fun s p addr v off h ha ho ho' h4 hne => powerWrite h ha ho ho' h4 hne,
    fun s p n addr v off h ha => ⟨flyerFaults n h ha, flyerEvents n h ha, flyerSettings n h ha⟩,
    fun c => ⟨rfl, rfl, fun n => rfl⟩,
    fun s p addr v hreach h4 hpage => ⟨unlisted_write hreach h4 hpage, unlisted_read hreach h4 hpage⟩⟩

end Sys2Proof.Machine
end

section
/-!
PROOF. The 64-bit pairs (R14, R15, R408): a read of _LO latches _HI, a write of _LO waits in the port, and a write of _HI commits both.
-/
namespace Sys2Proof.Machine

variable {c d e : Chip} {cls : PageCls} {n off : Nat} {p : Port} {s : State} {addr : PageAddr} {v : Word}

/-! ### Reads -/

theorem exec_loReadLatch_eq (h4 : addr.toNat % 4 = 0) (p : Port) (s : State) :
    exec (.loReadLatch p addr 15) s = run (fun c => c.laneRead p addr.toNat 15) s := by
  rw [exec, execLoReadLatch, readForm, beq_self_eq_true, Bool.or_true, if_pos rfl, runAligned_eq h4]

/-- The port before a read: its data is cleared. -/
def Chip.blankPort (c : Chip) (p : Port) : Chip := c.setPort p { c.portState p with data := 0 }

theorem Chip.laneRead_open (h : c.Open p cls n) {a : Nat} (ha : a = (cls.base + n) * 4096 + off) (ho : off < 4096) :
    c.laneRead p a 15 = ((c.blankPort p).pageRead p cls n off).setPort p
      { ((c.blankPort p).pageRead p cls n off).portState p with data := (((c.blankPort p).pageRead p cls n off).portState p).data &&& laneMask 15 } := by
  have h' : (c.blankPort p).Open p cls n := ⟨h.reaches, h.page, h.unarmed, h.up, h.awake⟩
  have hpage : a / 4096 = cls.base + n := by omega
  have hoff : a % 4096 = off := by omega
  have hread : c.regRead p a = (c.blankPort p).pageRead p cls n off := by
    rw [Chip.regRead, hpage, hoff, h.reaches, if_pos rfl]
    refine ((c.blankPort p).access_open h' false _).trans ?_
    simp only [h.page]
  rw [Chip.laneRead, hread]

/-- A read that shows no bad word, or the latch, changes the port only. -/
theorem setsPort_of_read (h : s.chip.Open p cls n) (ha : addr.toNat = (cls.base + n) * 4096 + off) (ho : off < 4096) (h4 : off % 4 = 0)
    {st : PortState} (hread : (s.chip.blankPort p).pageRead p cls n off = (s.chip.blankPort p).setPort p st) :
    SetsPort (.loReadLatch p addr 15) s p { st with data := st.data &&& 0xFFFFFFFF } [] fun _ => True := by
  have hf : s.chip.laneRead p addr.toNat 15 = ((s.chip.blankPort p).setPort p st).setPort p { st with data := st.data &&& 0xFFFFFFFF } := by
    rw [Chip.laneRead_open h ha ho, hread, Chip.portState_setPort_self]
    rfl
  refine setsPort_of_frame (exec_loReadLatch_eq (by omega) p s) ?_ ?_ (fun q hq => ?_) trivial
  · rw [hf]
    exact (((Chip.Frame.refl _).withPorts _ (by simp)).withPorts _ (by simp)).withPorts _ (by simp)
  · rw [hf, Chip.portState_setPort_self]
  · rw [hf, Chip.portState_setPort_ne _ _ hq, Chip.portState_setPort_ne _ _ hq, Chip.blankPort, Chip.portState_setPort_ne _ _ hq]

theorem Chip.readsLo_of_isLo (h : cls.isLo off = true) : c.readsLo cls off = true := by rw [Chip.readsLo, h, Bool.true_or]

theorem isLo_facts : ∀ off ∈ cls.loOffsets, 0x040 ≤ off ∧ off + 4 < 4096 ∧ off % 4 = 0 ∧ cls.isLo (off + 4) = false ∧ cls.isHi off = false ∧
    cls ≠ .rulewin ∧ cls ≠ .dram := by
  cases cls <;> decide

theorem isLo_mem (h : cls.isLo off = true) : off ∈ cls.loOffsets := by simpa [PageCls.isLo] using h

theorem Chip.readsLo_of_not_rulewin (hcls : cls ≠ .rulewin) (off : Nat) : c.readsLo cls off = cls.isLo off := by
  rw [Chip.readsLo, show (cls == PageCls.rulewin) = false from by simpa using hcls]
  simp

theorem Chip.readsHi_of_not_rulewin (hcls : cls ≠ .rulewin) (off : Nat) : c.readsHi cls off = cls.isHi off := by
  rw [Chip.readsHi, Chip.readsLo_of_not_rulewin hcls]
  rfl

/-- A read of _LO. -/
theorem Chip.pageRead_lo (hlo : cls.isLo off = true) (hgood : c.ReadsGood cls n off) (hgood' : c.ReadsGood cls n (off + 4)) :
    c.pageRead p cls n off = c.setPort p { c.portState p with
      latched := Tab.put none (c.portState p).latched ((cls.base + n) * 4096 + off + 4) (some (c.readValue cls n (off + 4)))
      data := c.readValue cls n off } := by
  obtain ⟨-, -, -, -, hhi, hrw, hdram⟩ := isLo_facts off (isLo_mem hlo)
  have hlatch : c.latchedFor p cls n off = none := by
    rw [Chip.latchedFor, Chip.readsHi_of_not_rulewin hrw, hhi]
    rfl
  have hwin : (if (c.latchedFor p cls n off).isSome = true then c else c.windowRead cls n off) = c := by
    rw [hlatch, c.windowRead_good _ _ _ hgood hgood']
    rfl
  have hval : c.portValue p cls n off = c.readValue cls n off := by rw [Chip.portValue, hlatch]
  rw [Chip.pageRead, hwin, hval, Chip.portLatch, Chip.readsLo_of_isLo hlo, if_pos rfl, if_neg hdram]

/-- A read of _HI whose value a read of _LO has latched. -/
theorem Chip.pageRead_hi (hhi : cls.isHi off = true) {w : Nat} (hw : Tab.get none (c.portState p).latched ((cls.base + n) * 4096 + off) = some w) :
    c.pageRead p cls n off = c.setPort p { c.portState p with
      latched := Tab.put none (c.portState p).latched ((cls.base + n) * 4096 + off) none, data := w } := by
  have hhi' := hhi
  simp only [PageCls.isHi, Bool.and_eq_true, decide_eq_true_eq] at hhi'
  obtain ⟨h4, hlo⟩ := hhi'
  obtain ⟨-, -, -, hnot, -, hrw, hdram⟩ := isLo_facts _ (isLo_mem hlo)
  rw [Nat.sub_add_cancel h4] at hnot
  have hlatch : c.latchedFor p cls n off = some w := by
    rw [Chip.latchedFor, Chip.readsHi_of_not_rulewin hrw, hhi, if_pos rfl, hw]
  have hwin : (if (c.latchedFor p cls n off).isSome = true then c else c.windowRead cls n off) = c := by
    rw [hlatch]
    rfl
  have hval : c.portValue p cls n off = w := by rw [Chip.portValue, hlatch]
  rw [Chip.pageRead, hwin, hval, Chip.portLatch, Chip.readsLo_of_not_rulewin hrw, hnot, Chip.readsHi_of_not_rulewin hrw, hhi, if_neg hdram]
  rfl

/-- What a port holds is not what a register reads as. -/
theorem Chip.readValue_setPort (c : Chip) (p : Port) (st : PortState) (cls : PageCls) (n off : Nat) :
    (c.setPort p st).readValue cls n off = c.readValue cls n off := by
  cases cls <;> rfl

theorem pairReads (h : s.chip.Open p cls n) (ha : addr.toNat = (cls.base + n) * 4096 + off) (ho : off < 4096) (h4 : off % 4 = 0) :
    (cls.isLo off = true → s.chip.ReadsGood cls n off → s.chip.ReadsGood cls n (off + 4) →
      SetsPort (.loReadLatch p addr 15) s p
        { s.chip.portState p with
          data := s.chip.readValue cls n off &&& 0xFFFFFFFF,
          latched := Tab.put none (s.chip.portState p).latched (addr.toNat + 4) (some (s.chip.readValue cls n (off + 4))) }
        [] fun _ => True) ∧
    (cls.isHi off = true → ∀ v, Tab.get none (s.chip.portState p).latched addr.toNat = some v →
      SetsPort (.loReadLatch p addr 15) s p
        { s.chip.portState p with
          data := v &&& 0xFFFFFFFF, latched := Tab.put none (s.chip.portState p).latched addr.toNat none }
        [] fun _ => True) := by
  have hst : (s.chip.blankPort p).portState p = { s.chip.portState p with data := 0 } := Chip.portState_setPort_self _ _ _
  refine ⟨fun hlo hgood hgood' => ?_, fun hhi w hw => ?_⟩
  · have hread := (s.chip.blankPort p).pageRead_lo (p := p) (n := n) hlo hgood hgood'
    rw [hst, Chip.blankPort, Chip.readValue_setPort, Chip.readValue_setPort, ← Chip.blankPort] at hread
    rw [ha]
    exact setsPort_of_read h ha ho h4 hread
  · have hread := (s.chip.blankPort p).pageRead_hi (p := p) (n := n) hhi (w := w) (by rw [hst, ← ha, hw])
    rw [hst] at hread
    rw [ha]
    exact setsPort_of_read h ha ho h4 hread

/-! ### Writes of _LO, and of _HI where the pair is held -/

theorem exec_pair_write {i : Instr} (hi : i ∈ [Instr.loWriteStage p addr v, Instr.registerWrite p addr v]) (h4 : addr.toNat % 4 = 0) (s : State) :
    exec i s = run (fun c => c.regWrite p addr.toNat v.toNat) s := by
  simp only [List.mem_cons, List.not_mem_nil, or_false] at hi
  obtain rfl | rfl := hi
  · exact exec_loWriteStage_eq h4 p v s
  · exact exec_registerWrite_eq h4 p v s

theorem Chip.portWrite_lo (hlo : cls.isLo off = true) (w : Nat) : c.portWrite p cls n off w = c.loWrite p cls n off w := by
  obtain ⟨h40, -⟩ := isLo_facts off (isLo_mem hlo)
  rw [Chip.portWrite, if_neg (by omega), hlo, if_pos rfl]

theorem Chip.portWrite_hi (hlo : cls.isLo off = false) (hhi : cls.isHi off = true) (h40 : 0x040 ≤ off) (w : Nat) :
    c.portWrite p cls n off w = c.hiWrite p cls n off w := by
  rw [Chip.portWrite, if_neg (by omega), hlo, hhi]
  rfl

theorem loWrites (h : s.chip.Open p cls n) (ha : addr.toNat = (cls.base + n) * 4096 + off) (ho : off < 4096) (h4 : off % 4 = 0)
    (hlo : cls.isLo off = true) {i : Instr} (hi : i ∈ [Instr.loWriteStage p addr v, Instr.registerWrite p addr v]) :
    (s.chip.regHeld cls n (off + 4) = false → s.chip.sealedAt cls n off = false →
      SetsPort i s p { s.chip.portState p with
        staged := Tab.put none (s.chip.portState p).staged addr.toNat (some v.toNat) } [] fun _ => True) ∧
    (s.chip.regHeld cls n (off + 4) = true → SetsRegs i s (errKeys (cls.base + n)) fun d => s.chip.Counted d (cls.base + n) off p) ∧
    (s.chip.regHeld cls n (off + 4) = false → s.chip.sealedAt cls n off = true →
      SetsRegs i s (EV.GLOBAL_SEALED_WRITE.key 0 :: errKeys (cls.base + n)) fun d => s.chip.Counted d (cls.base + n) off p ∧
        s.chip.Tells d EV.GLOBAL_SEALED_WRITE) := by
  have hexec := exec_pair_write hi (by omega) s
  have hf : s.chip.regWrite p addr.toNat v.toNat = s.chip.loWrite p cls n off v.toNat := by
    rw [Chip.regWrite_open h ha ho, Chip.portWrite_lo hlo]
  refine ⟨fun hheld hseal => ?_, fun hheld => ?_, fun hheld hseal => ?_⟩
  · rw [Chip.loWrite, hheld, hseal, ← ha] at hf
    refine setsPort_of_frame hexec ?_ ?_ (fun q hq => ?_) trivial
    · rw [hf]
      exact (Chip.Frame.refl _).withPorts _ (by simp)
    · rw [hf]
      exact Chip.portState_setPort_self _ _ _
    · rw [hf]
      exact Chip.portState_setPort_ne _ _ hq
  · rw [Chip.loWrite, hheld, if_pos rfl] at hf
    exact setsRegs_of_counted hexec hf ho
  · rw [Chip.loWrite, hheld, hseal] at hf
    exact setsRegs_of_refused hexec hf (by decide) ho (by decide)

theorem hiWrite_held (h : s.chip.Open p cls n) (ha : addr.toNat = (cls.base + n) * 4096 + off) (h40 : 0x040 ≤ off) (ho : off < 4096)
    (h4 : off % 4 = 0) (hlo : cls.isLo off = false) (hhi : cls.isHi off = true) (hheld : s.chip.regHeld cls n off = true) :
    SetsRegs (.hiWriteCommit p addr v) s (errKeys (cls.base + n)) fun d => s.chip.Counted d (cls.base + n) off p := by
  have hf : s.chip.regWrite p addr.toNat v.toNat = s.chip.errcnt (cls.base + n) off p := by
    rw [Chip.regWrite_open h ha ho, Chip.portWrite_hi hlo hhi h40, Chip.hiWrite, hheld]
    rfl
  exact setsRegs_of_counted (exec_hiWriteCommit_eq (by omega) p v s) hf ho

/-! ### The two halves -/

theorem isLo_of_mem (h : off ∈ cls.loOffsets) : cls.isLo off = true := by
  rw [PageCls.isLo]
  simpa using h

theorem isHi_of_mem (h : off ∈ cls.loOffsets) : cls.isHi (off + 4) = true := by
  rw [PageCls.isHi, Nat.add_sub_cancel, isLo_of_mem h, Bool.and_true]
  simp

/-- The field is at the offset, whatever a selector picks. -/
def FieldRow.isAt (r : FieldRow) (off : Nat) : Bool := if r.sel ≠ .none then off == r.off else (r.arrayAt off).isSome

theorem isAt_of_copyAt {r : FieldRow} {i : Nat} (h : c.copyAt r off = some i) : r.isAt off = true := by
  rw [Chip.copyAt_eq] at h
  unfold FieldRow.isAt
  split at h
  · next hs =>
    rw [if_pos hs]
    split at h
    · next ho => simpa using ho
    · exact absurd h (by simp)
  · next hs =>
    rw [if_neg hs, h]
    rfl

/-- The register that names the copy, where one does. -/
def Sel.row : Sel → Option FieldRow
  | .none => Option.none
  | .sq => some HOSTQ.SQ_SEL_SQ
  | .cr => some HOSTQ.CR_SEL_CR
  | .tag => some HOSTQ.LEDGER_SEL_TAG
  | .worker => some HANK.WT_SEL_WORKER

/-- Where a selector names the copy, it is below the pair. -/
def Sel.below (sel : Sel) (cls : PageCls) (off : Nat) : Bool := sel.row.all fun r => decide (r.cls = cls) && decide (r.off < off) && decide (r.lo < 32)

/-- The two halves of a pair have their fields apart and in one copy. -/
def FieldRow.pairs (r q : FieldRow) : Bool := decide ((r.off, r.lo) ≠ (q.off, q.lo)) && decide (r.sel = q.sel)

def PageCls.pairGood (cls : PageCls) : Bool := cls.loOffsets.all fun o =>
  (cls.rows.filter (·.isAt o)).all fun r => r.sel.below cls o && (cls.rows.filter (·.isAt (o + 4))).all fun q => r.pairs q

theorem pairGood_all (cls : PageCls) : cls.pairGood = true := by
  cases cls <;> decide +kernel

theorem pair_rows {r q : FieldRow} (hlo : cls.isLo off = true) (hr : r ∈ cls.rows) (hro : r.isAt off = true) (hq : q ∈ cls.rows)
    (hqo : q.isAt (off + 4) = true) : r.sel.below cls off = true ∧ (r.off, r.lo) ≠ (q.off, q.lo) ∧ r.sel = q.sel := by
  have hall := pairGood_all cls
  simp only [PageCls.pairGood, List.all_eq_true, Bool.and_eq_true, List.mem_filter, FieldRow.pairs, decide_eq_true_eq] at hall
  obtain ⟨hbelow, hpairs⟩ := hall off (isLo_mem hlo) r ⟨hr, hro⟩
  exact ⟨hbelow, hpairs q ⟨hq, hqo⟩⟩

/-- The cells of the two halves are apart. -/
theorem pairKey_ne (hlo : cls.isLo off = true) {h g : FieldRow × Nat} (hh : h ∈ c.fieldsAt cls off) (hg : g ∈ c.fieldsAt cls (off + 4)) :
    h.1.key n h.2 ≠ g.1.key n g.2 := by
  obtain ⟨hr, hi⟩ := mem_fieldsAt.mp hh
  obtain ⟨hq, hj⟩ := mem_fieldsAt.mp hg
  obtain ⟨-, hne, hsel⟩ := pair_rows hlo hr (isAt_of_copyAt hi) hq (isAt_of_copyAt hj)
  obtain ⟨hrc, hrp, hr2⟩ := row_homed hr
  obtain ⟨hqc, hqp, hq2⟩ := row_homed hq
  have hcls : h.1.cls = g.1.cls := hrc.trans hqc.symm
  rw [Chip.copyAt_eq] at hi hj
  by_cases hs : h.1.sel = .none
  · rw [if_neg (by simpa using hs)] at hi
    rw [if_neg (by simpa using hsel ▸ hs)] at hj
    exact key_ne_of_small hrp hqp hne hcls (Nat.lt_trans (FieldRow.arrayAt_lt hi) hr2) (Nat.lt_trans (FieldRow.arrayAt_lt hj) hq2)
  · rw [if_pos hs] at hi
    rw [if_pos (hsel ▸ hs), ← hsel] at hj
    have hij : h.2 = g.2 := by
      split at hi
      · split at hj
        · injection hi with hi
          injection hj with hj
          omega
        · exact absurd hj (by simp)
      · exact absurd hi (by simp)
    rw [hij]
    exact key_ne_of_same hrp hqp hne hcls

theorem Chip.selected_congr {sel : Sel} (h : ∀ r ∈ sel.row, d.fld r = c.fld r) : d.selected sel = c.selected sel := by
  cases sel with
  | none => rfl
  | worker => exact congrArg (max 1) (h _ rfl)
  | _ => exact h _ rfl

theorem Chip.copyAt_congr {r : FieldRow} (h : r.sel ≠ .none → d.selected r.sel = c.selected r.sel) (off : Nat) : d.copyAt r off = c.copyAt r off := by
  rw [Chip.copyAt_eq, Chip.copyAt_eq]
  by_cases hs : r.sel = .none
  · rw [if_neg (by simpa using hs), if_neg (by simpa using hs)]
  · rw [if_pos hs, if_pos hs, h hs]

theorem Chip.fieldsAt_congr (h : ∀ r ∈ cls.rows, d.copyAt r off = c.copyAt r off) : d.fieldsAt cls off = c.fieldsAt cls off :=
  List.filterMap_congr fun r hr => by rw [h r hr]

theorem Chip.copyAt_of_not_isAt {r : FieldRow} (h : r.isAt off = false) : c.copyAt r off = none := by
  by_contra hne
  obtain ⟨i, hi⟩ := Option.ne_none_iff_exists'.mp hne
  rw [isAt_of_copyAt hi] at h
  exact absurd h (by decide)

/-- A selector of the page lies below every field that it has a copy of picked. -/
theorem selKey_lt {r q : FieldRow} {i : Nat} (hq : q ∈ cls.rows) (hi : c.copyAt q off = some i) (hs : q.sel ≠ .none) (hr : r ∈ q.sel.row)
    (hbelow : q.sel.below cls off = true) : r.key 0 0 < q.key n i := by
  obtain ⟨hqc, -, -⟩ := row_homed hq
  rw [Chip.copyAt_eq, if_pos hs] at hi
  split at hi
  · next ho =>
    rw [Sel.below, Option.all_eq_true] at hbelow
    have hb := hbelow r hr
    simp only [Bool.and_eq_true, decide_eq_true_eq] at hb
    obtain ⟨⟨hrc, hro⟩, hrl⟩ := hb
    simp only [FieldRow.key, cellKey, hrc, hqc, ← ho]
    omega
  · exact absurd hi (by simp)

/-- A write of one half leaves the fields of the other where they are. -/
theorem fieldsAt_hi {S : List Part} (hlo : cls.isLo off = true) (h : c.Frame S (· ∈ c.takenKeys cls n off) d) :
    d.fieldsAt cls (off + 4) = c.fieldsAt cls (off + 4) := by
  refine Chip.fieldsAt_congr fun q hq => ?_
  by_cases hqo : q.isAt (off + 4) = true
  · refine Chip.copyAt_congr (fun hs => Chip.selected_congr fun r hr => h.fld r 0 0 fun hk => ?_) _
    obtain ⟨g, hg, hk⟩ := List.mem_map.mp hk
    obtain ⟨hgr, hgi⟩ := mem_fieldsAt.mp (List.mem_filter.mp hg).1
    obtain ⟨hbelow, -, hsel⟩ := pair_rows hlo hgr (isAt_of_copyAt hgi) hq hqo
    rw [← hsel] at hs hr
    exact absurd hk (Nat.ne_of_gt (selKey_lt hgr hgi hs hr hbelow))
  · rw [Chip.copyAt_of_not_isAt (by simpa using hqo), Chip.copyAt_of_not_isAt (by simpa using hqo)]

/-- A cell of a header is no cell of a register past it. -/
theorem hdrKey_ne_field {h : FieldRow × Nat} (hh : h ∈ c.fieldsAt cls off) (h40 : 0x040 ≤ h.1.off) (r : HdrRow) (hr : r.off < 0x040 ∧ r.lo < 32) :
    h.1.key n h.2 ≠ r.key (cls.base + n) := by
  obtain ⟨hcls, -, -⟩ := row_homed (mem_fieldsAt.mp hh).1
  simp only [FieldRow.key, HdrRow.key, cellKey, hcls]
  omega

theorem rows_above : ∀ r ∈ cls.rows, 0x040 ≤ r.off := by
  have hall : cls.rows.all (fun r => decide (0x040 ≤ r.off)) = true := by cases cls <;> decide
  simpa using hall

theorem hdrKey_not_taken (r : HdrRow) (hr : r.off < 0x040 ∧ r.lo < 32) : r.key (cls.base + n) ∉ c.takenKeys cls n off := by
  intro hk
  obtain ⟨g, hg, hk⟩ := List.mem_map.mp hk
  have hg := (List.mem_filter.mp hg).1
  exact hdrKey_ne_field hg (rows_above _ (mem_fieldsAt.mp hg).1) r hr hk

/-- Nor is the seal of the page touched. -/
theorem sealedPage_of_frame {S : List Part} (h : c.Frame S (· ∈ c.takenKeys cls n off) d) : d.sealedPage cls n = c.sealedPage cls n := by
  rw [Chip.sealedPage, Chip.sealedPage, h.hdr _ _ (hdrKey_not_taken _ (by decide))]

/-! ### What goes with the commit -/

/-- What else a write of the upper half of a pair brings up to date. -/
def Chip.pairTail (c : Chip) (cls : PageCls) (n off : Nat) : Chip :=
  match cls with
  | .whorl => if off = WHORL.INC_HI_NS.off then c.rateChanged else c
  | .uplink => c.c7Eval n
  | .reelgate => c.c7Eval n
  | .hank => c.c7EvalAll
  | _ => c

theorem isHi_mem (h : cls.isHi off = true) : ∃ o ∈ cls.loOffsets, off = o + 4 := by
  simp only [PageCls.isHi, Bool.and_eq_true, decide_eq_true_eq] at h
  exact ⟨off - 4, isLo_mem h.2, by omega⟩

theorem pageWrite_hi (hhi : cls.isHi off = true) (hn : n < cls.count) (w : Nat) :
    c.pageWrite p cls n off w = (c.plainWrite cls n off w p).pairTail cls n off := by
  obtain ⟨o, ho, rfl⟩ := isHi_mem hhi
  have hzero (h1 : cls.count = 1) : n = 0 := by omega
  cases cls <;> simp only [PageCls.loOffsets, List.mem_cons, List.not_mem_nil, or_false] at ho
  case whorl =>
    obtain rfl := hzero rfl
    rcases ho with rfl | rfl | rfl | rfl | rfl | rfl | rfl | rfl | rfl | rfl | rfl | rfl | rfl | rfl | rfl | rfl | rfl | rfl <;> rfl
  case tally => 
    obtain rfl := hzero rfl
    obtain rfl := ho
    rfl
  case uplink => rcases ho with rfl | rfl | rfl <;> rfl
  case carder => 
    obtain rfl := hzero rfl
    obtain rfl := ho
    rfl
  case reelgate => rcases ho with rfl | rfl | rfl <;> rfl
  case hostq => 
    obtain rfl := hzero rfl
    rcases ho with rfl | rfl | rfl | rfl <;> rfl
  case distaff => 
    obtain rfl := hzero rfl
    obtain rfl := ho
    rfl
  case hank => 
    obtain rfl := hzero rfl
    rcases ho with rfl | rfl <;> rfl
  case segment => rcases ho with rfl | rfl | rfl <;> rfl

/-- The cells that the tail touches. -/
def PageCls.tailSpots : PageCls → List Spot
  | .whorl => [.evt .whorl]
  | .uplink | .reelgate | .hank =>
    [.evt .reel, .one REELGATE.C7_BURST_SUM_CNS, .one REELGATE.C7_COND_FAIL, .one REELGATE.C7_COND_OK, .one REELGATE.C7_GATE_WAIT_NS,
      .one REELGATE.C7_OPEN_FRACTION, .one REELGATE.C7_RATE_SUM_KBPS]
  | _ => []

theorem pairTail_frame (hn : n < cls.count) : c.Frame [] (Touched cls.tailSpots) (c.pairTail cls n off) := by
  cases cls
  case whorl =>
    refine Chip.Frame.ite (fun _ => ?_) fun _ => .refl c
    refine Chip.Frame.ite (fun _ => (Chip.Frame.refl c).raise _ _ ?_) fun _ => .refl c
    exact cells_evt (cls := .whorl) (n := 0) List.mem_cons_self (by decide)
  case uplink => exact Chip.away_eq_iff.mp (Chip.away_c7Eval (List.Subset.refl _) hn)
  case reelgate => exact Chip.away_eq_iff.mp (Chip.away_c7Eval (List.Subset.refl _) hn)
  case hank =>
    exact (Chip.Frame.refl c).foldl _ fun d x hx => Chip.away_eq_iff.mp (Chip.away_c7Eval (List.Subset.refl _) (List.mem_range.mp hx))
  all_goals exact .refl c

/-- What the tail of a commit needs of the fields of a pair. -/
def PageCls.tailGood (cls : PageCls) : Bool := cls.loOffsets.all fun o =>
  (cls.rows.filter fun r => r.isAt o || r.isAt (o + 4)).all fun r => r.placed && cls.tailSpots.all r.apart &&
    (decide (r.sel = .none) || cls.tailSpots.all (Spot.within 0 0x050) && decide (0x050 ≤ cls.base)) && decide (2 ≤ cls.base)

theorem tailGood_all (cls : PageCls) : cls.tailGood = true := by
  cases cls <;> decide +kernel

/-- A field of one of the halves. -/
def Chip.inPair (c : Chip) (cls : PageCls) (o : Nat) (h : FieldRow × Nat) : Prop := h ∈ c.fieldsAt cls o ∨ h ∈ c.fieldsAt cls (o + 4)

theorem inPair_facts {o : Nat} {h : FieldRow × Nat} (ho : o ∈ cls.loOffsets) (hh : c.inPair cls o h) :
    h.1.cls = cls ∧ 0x040 ≤ h.1.off ∧ (h.1.placed && cls.tailSpots.all h.1.apart) = true ∧ 2 ≤ cls.base ∧
      (h.2 < 65536 ∨ cls.tailSpots.all (Spot.within 0 0x050) = true ∧ 0x050 ≤ cls.base) := by
  have hmem : h.1 ∈ cls.rows ∧ (h.1.isAt o || h.1.isAt (o + 4)) = true ∧ ∃ o', c.copyAt h.1 o' = some h.2 := by
    rcases hh with hh | hh
    · obtain ⟨hr, hi⟩ := mem_fieldsAt.mp hh
      exact ⟨hr, by rw [isAt_of_copyAt hi, Bool.true_or], _, hi⟩
    · obtain ⟨hr, hi⟩ := mem_fieldsAt.mp hh
      exact ⟨hr, by rw [isAt_of_copyAt hi, Bool.or_true], _, hi⟩
  obtain ⟨hr, hat, o', hi⟩ := hmem
  obtain ⟨hcls, -, hcount⟩ := row_homed hr
  have hall := tailGood_all cls
  simp only [PageCls.tailGood, List.all_eq_true (l := cls.loOffsets), List.all_eq_true (l := List.filter _ _), List.mem_filter] at hall
  have hgood := hall o ho h.1 ⟨hr, hat⟩
  rw [Bool.and_eq_true, Bool.and_eq_true, Bool.or_eq_true, Bool.and_eq_true (List.all _ (Spot.within 0 0x050)), decide_eq_true_eq, decide_eq_true_eq,
    decide_eq_true_eq] at hgood
  obtain ⟨⟨hsafe, hsel⟩, hbase⟩ := hgood
  refine ⟨hcls, rows_above _ hr, hsafe, hbase, hsel.imp (fun hs => ?_) id⟩
  rw [Chip.copyAt_eq, if_neg (by simpa using hs)] at hi
  exact Nat.lt_trans (FieldRow.arrayAt_lt hi) hcount

theorem page_of_key (r : FieldRow) (hcls : r.cls = cls) (n i : Nat) : cls.base ≤ cellPage (r.key n i) := by
  simp only [cellPage, FieldRow.key, cellKey, hcls]
  omega

/-- The tail leaves the halves alone. -/
theorem pairTail_fld {o : Nat} {h : FieldRow × Nat} (ho : o ∈ cls.loOffsets) (hh : d.inPair cls o h) (hn : n < cls.count) :
    (c.pairTail cls n off).fld h.1 n h.2 = c.fld h.1 n h.2 := by
  obtain ⟨hcls, -, hsafe, -, hidx⟩ := inPair_facts ho hh
  rcases hidx with hidx | ⟨hwithin, hbase⟩
  · exact (pairTail_frame hn).fld_apart h.1 n h.2 hsafe (hcls ▸ hn) hidx
  · refine (pairTail_frame hn).fld _ _ _ fun hk => ?_
    have hpage := touched_within hwithin hk
    have hlow := page_of_key h.1 hcls n h.2
    omega

theorem level_low : ∀ k ∈ levelKeys, k < 2 * 4096 * 32 * 65536 ∨ k = cellKey 0x050 0x010 0 0 := by decide

theorem pairKey_not_level {o : Nat} {h : FieldRow × Nat} (ho : o ∈ cls.loOffsets) (hh : c.inPair cls o h) : h.1.key n h.2 ∉ levelKeys := by
  obtain ⟨hcls, h40, hsafe, hbase, hidx⟩ := inPair_facts ho hh
  simp only [Bool.and_eq_true, FieldRow.placed, decide_eq_true_eq] at hsafe
  intro hk
  rcases level_low _ hk with hk | hk
  · simp only [FieldRow.key, cellKey, hcls] at hk
    omega
  · simp only [FieldRow.key, cellKey, hcls] at hk
    omega

/-! ### A write of _HI to a sealed pair -/

theorem rws_reelgate {r : FieldRow} (ho : off ∈ cls.loOffsets) (hr : r ∈ cls.rows) (hat : r.isAt (off + 4) = true) (hacc : r.acc = .rws) :
    cls = .reelgate := by
  have hall : cls.loOffsets.all (fun o => (cls.rows.filter fun r => r.isAt (o + 4)).all fun r => r.acc != .rws || cls == .reelgate) = true := by
    cases cls <;> decide +kernel
  simp only [List.all_eq_true, List.mem_filter] at hall
  simpa [hacc] using hall off ho r ⟨hr, hat⟩

theorem sealedPage_of_sealedAt (h : c.sealedAt cls n off = true) : c.sealedPage cls n = true := (Bool.and_eq_true _ _ ▸ h).1

theorem hiWrite_sealed (h : s.chip.Open p cls n) (ha : addr.toNat = (cls.base + n) * 4096 + off) (h40 : 0x040 ≤ off) (ho : off < 4096)
    (h4 : off % 4 = 0) (hlo : cls.isLo off = false) (hhi : cls.isHi off = true) (hheld : s.chip.regHeld cls n off = false)
    (hseal : s.chip.sealedAt cls n off = true) :
    Ends (.hiWriteCommit p addr v) s fun d => s.chip.Counted d (cls.base + n) off p ∧
      d.portState p = s.chip.portState p ∧ ∀ h ∈ s.chip.fieldsAt cls off, h.1.acc = .rws → d.fld h.1 n h.2 = s.chip.fld h.1 n h.2 := by
  have hf : s.chip.regWrite p addr.toNat v.toNat =
      (((s.chip.plainFields cls n off v.toNat).errcnt (cls.base + n) off p).raise EV.GLOBAL_SEALED_WRITE).pairTail cls n off := by
    rw [Chip.regWrite_open h ha ho, Chip.portWrite_hi hlo hhi h40, Chip.hiWrite, hheld, hseal]
    simp only [if_true, if_false, Bool.false_eq_true]
    rw [pageWrite_hi hhi h.count, Chip.plainWrite_eq, hseal, if_pos rfl]
  obtain ⟨o, hmem, rfl⟩ := isHi_mem hhi
  have hcls : cls = .reelgate := by
    obtain ⟨g, hg, hacc⟩ := List.any_eq_true.mp (Bool.and_eq_true _ _ ▸ hseal).2
    obtain ⟨hr, hi⟩ := mem_fieldsAt.mp hg
    exact rws_reelgate hmem hr (isAt_of_copyAt hi) (by simpa using hacc)
  have hfields (g : FieldRow × Nat) (hg : g ∈ s.chip.fieldsAt cls (o + 4)) := Chip.fld_plainFields (n := n) hg v.toNat
  rw [sealedPage_of_sealedAt hseal] at hfields
  have hplain := s.chip.plainFields_frame cls n (o + 4) v.toNat []
  generalize s.chip.plainFields cls n (o + 4) v.toNat = e at hf hfields hplain
  have hrefused := e.refused_frame EV.GLOBAL_SEALED_WRITE 0 (cls.base + n) (o + 4) p
  have hcount : s.chip.Counted ((e.errcnt (cls.base + n) (o + 4) p).raise EV.GLOBAL_SEALED_WRITE) (cls.base + n) (o + 4) p := by
    refine hplain.counted (fun k hk => ?_) ((e.counted_errcnt _ _ _ ho).raise _ _)
    simp only [errKeys, List.mem_cons, List.not_mem_nil, or_false] at hk
    rcases hk with rfl | rfl | rfl <;> exact hdrKey_not_taken _ (by decide)
  generalize (e.errcnt (cls.base + n) (o + 4) p).raise EV.GLOBAL_SEALED_WRITE = d at hf hrefused hcount
  have htail : d.Frame [] (Touched cls.tailSpots) (d.pairTail cls n (o + 4)) := pairTail_frame h.count
  refine ends_of (exec_hiWriteCommit_eq (by omega) p v s) ⟨?_, ?_, fun g hg hacc => ?_⟩
  · rw [hf]
    subst hcls
    obtain ⟨h1, h2, h3⟩ := hcount
    exact Chip.Counted.ended ⟨(htail.hdr_apart _ _ _ (by decide) h.count).trans h1, (htail.hdr_apart _ _ _ (by decide) h.count).trans h2,
      (htail.hdr_apart _ _ _ (by decide) h.count).trans h3⟩
  · rw [Chip.portState, Chip.ended_ports, hf, htail.ports (by simp), hrefused.ports (by simp), hplain.ports (by simp), Chip.portState]
  · have hin : s.chip.inPair cls o g := .inr hg
    have hside : g.1.key n g.2 ∉ EV.GLOBAL_SEALED_WRITE.key 0 :: errKeys (cls.base + n) := by
      obtain ⟨hgcls, hg40, -, -, hidx⟩ := inPair_facts hmem hin
      have hidx : g.2 < 65536 := hidx.resolve_right (by rw [hcls]; decide)
      simp only [errKeys, List.mem_cons, List.not_mem_nil, or_false, not_or, Evt.key, HDR.EVT, HDR.ERRCNT_COUNT, HDR.ERRCNT_LAST_OFFSET,
        HDR.ERRCNT_LAST_PORT, HdrRow.key, FieldRow.key, cellKey, hgcls, hcls, PageCls.base]
      obtain ⟨-, hplaced, -⟩ := row_homed (mem_fieldsAt.mp hg).1
      simp only [FieldRow.placed, Bool.and_eq_true, decide_eq_true_eq] at hplaced
      have hev : EV.GLOBAL_SEALED_WRITE.cls.base = 0 := rfl
      omega
    rw [Chip.ended_fld _ _ _ _ _ (pairKey_not_level hmem hin), hf, pairTail_fld hmem hin h.count, hrefused.fld _ _ _ hside, hfields g hg, Chip.written,
      hacc]
    rfl

/-! ### A write of _HI that commits the pair -/

/-- The lower half, where the port has staged it. -/
def Chip.loTaken (c : Chip) (cls : PageCls) (n o : Nat) (staged : Option Nat) : Chip :=
  match staged with
  | some l => c.plainFields cls n o (if cls = .carder ∨ cls = .distaff then l / 8 * 8 else l)
  | none => c

/-- A change of the shadow address starts the shadow block anew. -/
def Chip.shadowTail (c : Chip) (cls : PageCls) (was : Bool) : Chip := if cls = .hostq then c.shadowStart was else c

theorem Chip.hiWrite_open (hheld : c.regHeld cls n off = false) (hseal : c.sealedAt cls n off = false) (w : Nat) :
    ∃ was, c.hiWrite p cls n off w = ((((c.setStaged p ((cls.base + n) * 4096 + (off - 4)) none).loTaken cls n (off - 4)
      (c.stagedAt p ((cls.base + n) * 4096 + (off - 4)))).pageWrite p cls n off w).shadowTail cls was) := by
  refine ⟨(c.setStaged p ((cls.base + n) * 4096 + (off - 4)) none).on HOSTQ.SHADOW_ADDR_LO_EN, ?_⟩
  rw [Chip.hiWrite, hheld, hseal]
  simp only [if_false, Bool.false_eq_true]
  unfold Chip.loTaken Chip.shadowTail
  cases c.stagedAt p ((cls.base + n) * 4096 + (off - 4)) <;> rfl

theorem loTaken_frame (c : Chip) (cls : PageCls) (n o : Nat) (staged : Option Nat) :
    c.Frame [] (· ∈ c.takenKeys cls n o) (c.loTaken cls n o staged) := by
  cases staged with
  | some l => exact c.plainFields_frame cls n o _ []
  | none => exact .refl c

theorem shadowTail_frame (c : Chip) (cls : PageCls) (was : Bool) : c.Frame [.hostq] (fun _ => False) (c.shadowTail cls was) :=
  Chip.Frame.ite (fun _ => Chip.Frame.ite (fun _ => (Chip.Frame.refl c).withHostq _ List.mem_cons_self) fun _ => .refl c) fun _ => .refl c

/-- A field of either half that the seal would refuse is one of ADMIN_BASE, whose halves are sealed together. -/
theorem rws_pair {r : FieldRow} {o : Nat} (ho : o ∈ cls.loOffsets) (hr : r ∈ cls.rows) (hat : (r.isAt o || r.isAt (o + 4)) = true)
    (hacc : r.acc = .rws) : cls = .reelgate ∧ o = 0x048 := by
  have hall : cls.loOffsets.all (fun o => (cls.rows.filter fun r => r.isAt o || r.isAt (o + 4)).all fun r =>
      r.acc != .rws || cls == .reelgate && o == 0x048) = true := by
    cases cls <;> decide +kernel
  simp only [List.all_eq_true, List.mem_filter] at hall
  simpa [hacc] using hall o ho r ⟨hr, hat⟩

theorem written_open {o : Nat} {g : FieldRow × Nat} (ho : o ∈ cls.loOffsets) (hg : c.inPair cls o g) (hseal : c.sealedAt cls n (o + 4) = false)
    (hacc : g.1.acc = .rw ∨ g.1.acc = .rws) (d : Chip) (w : Nat) :
    d.written g.1 n g.2 w (c.sealedPage cls n) = bitsOf w g.1.hi g.1.lo := by
  rcases hacc with hacc | hacc
  · rw [Chip.written, hacc]
  · have hat : g.1 ∈ cls.rows ∧ (g.1.isAt o || g.1.isAt (o + 4)) = true := by
      rcases hg with hg | hg <;> obtain ⟨hr, hi⟩ := mem_fieldsAt.mp hg
      · exact ⟨hr, by rw [isAt_of_copyAt hi, Bool.true_or]⟩
      · exact ⟨hr, by rw [isAt_of_copyAt hi, Bool.or_true]⟩
    obtain ⟨rfl, rfl⟩ := rws_pair ho hat.1 hat.2 hacc
    have hany : (c.fieldsAt .reelgate (0x048 + 4)).any (fun h => h.1.acc == .rws) = true := rfl
    rw [Chip.sealedAt, hany, Bool.and_true] at hseal
    rw [show c.sealedPage .reelgate n = false from hseal, Chip.written, hacc]
    rfl

/-- The pair after the staged lower half and the upper half are taken. -/
def Chip.pairTaken (c : Chip) (p : Port) (cls : PageCls) (n o : Nat) (staged : Option Nat) (w : Nat) : Chip :=
  (c.loTaken cls n o staged).pageWrite p cls n (o + 4) w

section
variable {o : Nat} {staged : Option Nat}

theorem sealedAt_loTaken (ho : o ∈ cls.loOffsets) (hseal : c.sealedAt cls n (o + 4) = false) (staged : Option Nat) :
    (c.loTaken cls n o staged).sealedAt cls n (o + 4) = false := by
  have hlow := loTaken_frame c cls n o staged
  rw [Chip.sealedAt, fieldsAt_hi (isLo_of_mem ho) hlow]
  have hpage := sealedPage_of_frame hlow
  simp only [Chip.sealedPage] at hpage
  rw [hpage]
  exact hseal

theorem pairTaken_eq (ho : o ∈ cls.loOffsets) (hn : n < cls.count) (hseal : c.sealedAt cls n (o + 4) = false) (w : Nat) :
    c.pairTaken p cls n o staged w = ((c.loTaken cls n o staged).plainFields cls n (o + 4) w).pairTail cls n (o + 4) := by
  rw [Chip.pairTaken, pageWrite_hi (isHi_of_mem ho) hn, Chip.plainWrite_open (sealedAt_loTaken ho hseal staged)]

theorem pairTaken_ports (ho : o ∈ cls.loOffsets) (hn : n < cls.count) (hseal : c.sealedAt cls n (o + 4) = false) (w : Nat) :
    (c.pairTaken p cls n o staged w).ports = c.ports := by
  rw [pairTaken_eq ho hn hseal, (pairTail_frame hn).ports (by simp), (Chip.plainFields_frame _ cls n (o + 4) w []).ports (by simp),
    (loTaken_frame c cls n o staged).ports (by simp)]

theorem fld_pairTaken_hi (ho : o ∈ cls.loOffsets) (hn : n < cls.count) (hseal : c.sealedAt cls n (o + 4) = false) {g : FieldRow × Nat}
    (hg : g ∈ c.fieldsAt cls (o + 4)) (hacc : g.1.acc = .rw ∨ g.1.acc = .rws) (w : Nat) :
    (c.pairTaken p cls n o staged w).fld g.1 n g.2 = bitsOf w g.1.hi g.1.lo := by
  have hlow := loTaken_frame c cls n o staged
  have hg' : g ∈ (c.loTaken cls n o staged).fieldsAt cls (o + 4) := by
    rw [fieldsAt_hi (isLo_of_mem ho) hlow]
    exact hg
  rw [pairTaken_eq ho hn hseal, pairTail_fld ho (.inr hg) hn, Chip.fld_plainFields hg', sealedPage_of_frame hlow]
  exact written_open ho (.inr hg) hseal hacc _ _

theorem fld_pairTaken_lo (ho : o ∈ cls.loOffsets) (hn : n < cls.count) (hseal : c.sealedAt cls n (o + 4) = false) {g : FieldRow × Nat}
    (hg : g ∈ c.fieldsAt cls o) (hacc : g.1.acc = .rw ∨ g.1.acc = .rws) (w : Nat) :
    (c.pairTaken p cls n o staged w).fld g.1 n g.2 = match staged with
      | some l => bitsOf (if cls = .carder ∨ cls = .distaff then l / 8 * 8 else l) g.1.hi g.1.lo
      | none => c.fld g.1 n g.2 := by
  have hkeep : ((c.loTaken cls n o staged).plainFields cls n (o + 4) w).fld g.1 n g.2 = (c.loTaken cls n o staged).fld g.1 n g.2 := by
    refine (Chip.plainFields_frame _ cls n (o + 4) w []).fld _ _ _ fun hk => ?_
    obtain ⟨g', hg', hk⟩ := List.mem_map.mp hk
    have hg' := (List.mem_filter.mp hg').1
    rw [fieldsAt_hi (isLo_of_mem ho) (loTaken_frame c cls n o staged)] at hg'
    exact pairKey_ne (isLo_of_mem ho) hg hg' hk.symm
  rw [pairTaken_eq ho hn hseal, pairTail_fld ho (.inl hg) hn, hkeep]
  cases staged with
  | some l => exact (Chip.fld_plainFields hg _).trans (written_open ho (.inl hg) hseal hacc _ _)
  | none => rfl
end

theorem hiWrite_exec (h : s.chip.Open p cls n) (ha : addr.toNat = (cls.base + n) * 4096 + off) (h40 : 0x040 ≤ off) (ho : off < 4096)
    (hlo : cls.isLo off = false) (hhi : cls.isHi off = true) (hheld : s.chip.regHeld cls n off = false) (hseal : s.chip.sealedAt cls n off = false) :
    ∃ was, s.chip.regWrite p addr.toNat v.toNat = ((s.chip.setStaged p (addr.toNat - 4) none).pairTaken p cls n (off - 4)
      (Tab.get none (s.chip.portState p).staged (addr.toNat - 4)) v.toNat).shadowTail cls was := by
  obtain ⟨o, -, rfl⟩ := isHi_mem hhi
  obtain ⟨was, hw⟩ := Chip.hiWrite_open (p := p) hheld hseal v.toNat
  refine ⟨was, ?_⟩
  have haddr : (cls.base + n) * 4096 + (o + 4 - 4) = addr.toNat - 4 := by omega
  rw [haddr] at hw
  rw [Chip.regWrite_open h ha ho, Chip.portWrite_hi hlo hhi h40, hw]
  rfl

/-- A pair as a write of its upper half leaves it. -/
theorem hiWrite_commit (h : s.chip.Open p cls n) (ha : addr.toNat = (cls.base + n) * 4096 + off) (h40 : 0x040 ≤ off) (ho : off < 4096)
    (h4 : off % 4 = 0) (hlo : cls.isLo off = false) (hhi : cls.isHi off = true) (hheld : s.chip.regHeld cls n off = false)
    (hseal : s.chip.sealedAt cls n off = false) :
    Ends (.hiWriteCommit p addr v) s fun d =>
      d.portState p = { s.chip.portState p with staged := Tab.put none (s.chip.portState p).staged (addr.toNat - 4) none } ∧
      (∀ h ∈ s.chip.fieldsAt cls off, h.1.acc = .rw ∨ h.1.acc = .rws → d.fld h.1 n h.2 = bitsOf v.toNat h.1.hi h.1.lo) ∧
      ∀ h ∈ s.chip.fieldsAt cls (off - 4), h.1.acc = .rw ∨ h.1.acc = .rws →
        d.fld h.1 n h.2 = match Tab.get none (s.chip.portState p).staged (addr.toNat - 4) with
          | some l => bitsOf (if cls = .carder ∨ cls = .distaff then l / 8 * 8 else l) h.1.hi h.1.lo
          | none => s.chip.fld h.1 n h.2 := by
  obtain ⟨was, hf⟩ := hiWrite_exec (v := v) h ha h40 ho hlo hhi hheld hseal
  obtain ⟨o, hmem, rfl⟩ := isHi_mem hhi
  rw [Nat.add_sub_cancel] at hf ⊢
  have hn := h.count
  have hopen : (s.chip.setStaged p (addr.toNat - 4) none).sealedAt cls n (o + 4) = false := hseal
  have hshadow := shadowTail_frame ((s.chip.setStaged p (addr.toNat - 4) none).pairTaken p cls n o
    (Tab.get none (s.chip.portState p).staged (addr.toNat - 4)) v.toNat) cls was
  rw [← hf] at hshadow
  have hend (g : FieldRow × Nat) (hg : s.chip.inPair cls o g) :
      (s.chip.ended (s.chip.regWrite p addr.toNat v.toNat)).fld g.1 n g.2 = _ :=
    (Chip.ended_fld _ _ _ _ _ (pairKey_not_level hmem hg)).trans (hshadow.fld g.1 n g.2 (by simp))
  refine ends_of (exec_hiWriteCommit_eq (by omega) p v s) ⟨?_, fun g hg hacc => ?_, fun g hg hacc => ?_⟩
  · rw [Chip.portState, Chip.ended_ports, hshadow.ports (by simp), pairTaken_ports hmem hn hopen]
    exact Chip.portState_setPort_self _ _ _
  · exact (hend g (.inr hg)).trans (fld_pairTaken_hi hmem hn hopen hg hacc _)
  · exact (hend g (.inl hg)).trans (fld_pairTaken_lo hmem hn hopen hg hacc _)

/-! ### MIRROR_ADDR -/

theorem mirrorLo_fields : c.fieldsAt .tally 0x048 = [(TALLY.MIRROR_ADDR_LO_ADDR, 0)] := rfl

theorem mirrorHi_fields : c.fieldsAt .tally (0x048 + 4) = [(TALLY.MIRROR_ADDR_HI_ADDR, 0)] := rfl

theorem mirror_taken (staged : Option Nat) (w : Nat) (S : List Part) :
    c.Frame S (· ∈ [TALLY.MIRROR_ADDR_LO_ADDR.key 0 0, TALLY.MIRROR_ADDR_HI_ADDR.key 0 0]) ((c.loTaken .tally 0 0x048 staged).plainFields .tally 0
      (0x048 + 4) w) := by
  refine ((loTaken_frame c .tally 0 0x048 staged).mono (List.nil_subset _) fun k hk => ?_).andThen
    (Chip.plainFields_frame _ .tally 0 (0x048 + 4) w S) (List.Subset.refl _) fun k hk => ?_
  · rw [Chip.takenKeys, mirrorLo_fields] at hk
    exact List.mem_cons.mpr (.inl (List.mem_singleton.mp hk))
  · rw [Chip.takenKeys, mirrorHi_fields] at hk
    exact List.mem_cons_of_mem _ hk

theorem mirrorAddr (h : s.chip.Open p .tally 0) (ha : addr.toNat = PageCls.tally.base * 4096 + TALLY.MIRROR_ADDR_LO_ADDR.off + 4) :
    SetsPort (.hiWriteCommit p addr v) s p
      { s.chip.portState p with staged := Tab.put none (s.chip.portState p).staged (addr.toNat - 4) none }
      [TALLY.MIRROR_ADDR_LO_ADDR.key 0 0, TALLY.MIRROR_ADDR_HI_ADDR.key 0 0] fun d =>
        d.fld TALLY.MIRROR_ADDR_HI_ADDR = v.toNat ∧
        d.fld TALLY.MIRROR_ADDR_LO_ADDR = match Tab.get none (s.chip.portState p).staged (addr.toNat - 4) with
          | some l => bitsOf l TALLY.MIRROR_ADDR_LO_ADDR.hi TALLY.MIRROR_ADDR_LO_ADDR.lo
          | none => s.chip.fld TALLY.MIRROR_ADDR_LO_ADDR := by
  have ha' : addr.toNat = (PageCls.tally.base + 0) * 4096 + (0x048 + 4) := ha
  have hheld : s.chip.regHeld .tally 0 (0x048 + 4) = false := rfl
  have hseal : s.chip.sealedAt .tally 0 (0x048 + 4) = false := by
    rw [Chip.sealedAt, mirrorHi_fields]
    exact Bool.and_false _
  have hmem : 0x048 ∈ PageCls.tally.loOffsets := by decide
  obtain ⟨was, hf⟩ := hiWrite_exec (v := v) h ha' (by omega) (by omega) (by decide) (by decide) hheld hseal
  have hn : 0 < PageCls.tally.count := by decide
  have hopen : (s.chip.setStaged p (addr.toNat - 4) none).sealedAt .tally 0 (0x048 + 4) = false := hseal
  have hports := Chip.portState_setPort_self s.chip p
    { s.chip.portState p with staged := Tab.put none (s.chip.portState p).staged (addr.toNat - 4) none }
  have hother (q : Port) (hq : q ≠ p) := Chip.portState_setPort_ne s.chip
    { s.chip.portState p with staged := Tab.put none (s.chip.portState p).staged (addr.toNat - 4) none } hq
  have hframe0 := (Chip.Frame.refl (S := [.ecc, .ports]) (K := (· ∈ [TALLY.MIRROR_ADDR_LO_ADDR.key 0 0, TALLY.MIRROR_ADDR_HI_ADDR.key 0 0]))
    s.chip).withPorts (s.chip.setStaged p (addr.toNat - 4) none).ports (by simp)
  have hlo0 : (s.chip.setStaged p (addr.toNat - 4) none).fld TALLY.MIRROR_ADDR_LO_ADDR = s.chip.fld TALLY.MIRROR_ADDR_LO_ADDR := rfl
  have hf : s.chip.regWrite p addr.toNat v.toNat = (s.chip.setStaged p (addr.toNat - 4) none).pairTaken p .tally 0 0x048
    (Tab.get none (s.chip.portState p).staged (addr.toNat - 4)) v.toNat := hf
  rw [← hlo0]
  refine setsPort_of_frame (exec_hiWriteCommit_eq (by omega) p v s) ?_ ?_ (fun q hq => ?_) ⟨?_, ?_⟩
  · rw [hf, pairTaken_eq hmem hn hopen]
    exact hframe0.trans (mirror_taken _ _ _)
  · rw [Chip.portState, hf, pairTaken_ports hmem hn hopen]
    exact hports
  · rw [Chip.portState, hf, pairTaken_ports hmem hn hopen]
    exact hother q hq
  · rw [Chip.ended_fld _ _ _ _ _ (by decide), hf,
      fld_pairTaken_hi hmem hn hopen (g := (TALLY.MIRROR_ADDR_HI_ADDR, 0)) (by rw [mirrorHi_fields]; exact List.mem_singleton.mpr rfl) (.inl rfl)]
    exact Nat.mod_eq_of_lt v.isLt
  · rw [Chip.ended_fld _ _ _ _ _ (by decide), hf,
      fld_pairTaken_lo hmem hn hopen (g := (TALLY.MIRROR_ADDR_LO_ADDR, 0)) (by rw [mirrorLo_fields]; exact List.mem_singleton.mpr rfl) (.inl rfl)]
    rfl

/-- Settles O7: reads latch, writes of _LO are staged or refused, and writes of _HI commit what the port has staged. -/
theorem pairedRegisters : Obligations.PairedRegisters := by
  unfold Obligations.PairedRegisters
  refine ⟨fun s p cls n off addr h _ ha _ ho h4 => pairReads h ha ho h4,
    fun s p cls n off addr v h ha _ ho h4 hlo i hi => loWrites h ha ho h4 hlo hi,
    fun s p cls n off addr v h ha h40 ho h4 hlo hhi hheld => hiWrite_held h ha h40 ho h4 hlo hhi hheld,
    fun s p cls n off addr v h ha h40 ho h4 hlo hhi hheld =>
      ⟨hiWrite_sealed h ha h40 ho h4 hlo hhi hheld, hiWrite_commit h ha h40 ho h4 hlo hhi hheld⟩,
    fun s p addr v h ha => mirrorAddr h ha⟩

end Sys2Proof.Machine
end

section
/-!
PROOF. What a block looks like but for some parts and some cells. A composed change is shown to stay within them by rewriting.
-/
namespace Sys2Proof.Machine

/-- Blocks that differ in the parts `S` and the cells of `own` only. -/
def Chip.alikeBut (S : List Part) (own : List Nat) : Setoid Chip where
  r c d := c.Frame S (· ∈ own) d
  iseqv := ⟨fun c => .refl c, fun h => h.symm, fun h h' => h.trans h'⟩

/-- The block but for the parts `S` and the cells of `own`. -/
def Chip.but (S : List Part) (own : List Nat) (c : Chip) : Quotient (Chip.alikeBut S own) := Quotient.mk _ c

section
variable {c d e : Chip} {S : List Part} {own : List Nat} {r : FieldRow} {n i v : Nat}

theorem Chip.but_eq_iff : d.but S own = c.but S own ↔ c.Frame S (· ∈ own) d :=
  ⟨fun h => Chip.Frame.symm (Quotient.exact h), fun h => Quotient.sound h.symm⟩

theorem Chip.Frame.but (h : c.Frame S (· ∈ own) d) : d.but S own = c.but S own := Chip.but_eq_iff.mpr h

theorem Chip.but_setFld (h : r.key n i ∈ own) : (d.setFld r v n i).but S own = d.but S own := ((Chip.Frame.refl d).setFld r v n i h).but
theorem Chip.but_setBit {b : Bool} (h : r.key n i ∈ own) : (d.setBit r b n i).but S own = d.but S own := Chip.but_setFld h
theorem Chip.but_bump (h : r.key n i ∈ own) : (d.bump r n i).but S own = d.but S own := Chip.but_setFld h
theorem Chip.but_bumpBy (h : r.key n i ∈ own) : (d.bumpBy r v n i).but S own = d.but S own := Chip.but_setFld h
theorem Chip.but_bumpWrap (h : r.key n i ∈ own) : (d.bumpWrap r n i).but S own = d.but S own := Chip.but_setFld h
theorem Chip.but_flag (h : r.key n i ∈ own) : (d.flag r v n i).but S own = d.but S own := ((Chip.Frame.refl d).flag r v n i h).but
theorem Chip.but_setFld64 {lo hi : FieldRow} (h : lo.key n i ∈ own) (h' : hi.key n i ∈ own) :
    (d.setFld64 lo hi v n i).but S own = d.but S own := ((Chip.Frame.refl d).setFld64 lo hi v n i h h').but
theorem Chip.but_setHdr {q : HdrRow} {page : Nat} (h : q.key page ∈ own) : (d.setHdr q page v).but S own = d.but S own :=
  ((Chip.Frame.refl d).setHdr q page v h).but
theorem Chip.but_hwMark {key : Nat} : (d.hwMark key v).but S own = d.but S own := ((Chip.Frame.refl d).hwMark key v).but
theorem Chip.but_raise {x : Evt} (h : x.key n ∈ own) : (d.raise x n).but S own = d.but S own := ((Chip.Frame.refl d).raise x n h).but
theorem Chip.but_errcnt {page off : Nat} {p : Port} (h : ∀ k ∈ errKeys page, k ∈ own) : (d.errcnt page off p).but S own = d.but S own :=
  ((Chip.Frame.refl d).errcnt page off p h).but
theorem Chip.but_ite {p : Prop} [Decidable p] : (if p then d else e).but S own = if p then d.but S own else e.but S own := apply_ite _ _ _ _
theorem Chip.but_foldl {α : Type} {f : Chip → α → Chip} {l : List α} (h : ∀ d : Chip, ∀ x ∈ l, (f d x).but S own = d.but S own) :
    (l.foldl f d).but S own = d.but S own := ((Chip.Frame.refl d).foldl l fun d x hx => Chip.but_eq_iff.mp (h d x hx)).but
theorem Chip.but_withPorts {x : Tab PortState} (h : .ports ∈ S) : ({ d with ports := x } : Chip).but S own = d.but S own :=
  ((Chip.Frame.refl d).withPorts x h).but
theorem Chip.but_withArms {x : Tab (Option Nat)} (h : .arms ∈ S) : ({ d with arms := x } : Chip).but S own = d.but S own :=
  ((Chip.Frame.refl d).withArms x h).but
theorem Chip.but_withEcc {x : Ecc} (h : .ecc ∈ S) : ({ d with ecc := x } : Chip).but S own = d.but S own :=
  ((Chip.Frame.refl d).withEcc x h).but
theorem Chip.but_withResetting {x : List Nat} (h : .resetting ∈ S) : ({ d with resetting := x } : Chip).but S own = d.but S own :=
  ((Chip.Frame.refl d).withResetting x h).but
theorem Chip.but_withFreeCtr {x : Nat} (h : .freeCtr ∈ S) : ({ d with freeCtr := x } : Chip).but S own = d.but S own :=
  ((Chip.Frame.refl d).withFreeCtr x h).but
theorem Chip.but_withModes {x : Modes} (h : .modes ∈ S) : ({ d with modes := x } : Chip).but S own = d.but S own :=
  ((Chip.Frame.refl d).withModes x h).but
theorem Chip.but_withPower {x : PowerMgr} (h : .power ∈ S) : ({ d with power := x } : Chip).but S own = d.but S own :=
  ((Chip.Frame.refl d).withPower x h).but
theorem Chip.but_withWhorl {x : Whorl} (h : .whorl ∈ S) : ({ d with whorl := x } : Chip).but S own = d.but S own :=
  ((Chip.Frame.refl d).withWhorl x h).but
theorem Chip.but_withImage {x : Image} (h : .image ∈ S) : ({ d with image := x } : Chip).but S own = d.but S own :=
  ((Chip.Frame.refl d).withImage x h).but
theorem Chip.but_withBuffer {x : Buffer} (h : .buffer ∈ S) : ({ d with buffer := x } : Chip).but S own = d.but S own :=
  ((Chip.Frame.refl d).withBuffer x h).but
theorem Chip.but_withTxOps {x : Tab TxOp} (h : .txOps ∈ S) : ({ d with txOps := x } : Chip).but S own = d.but S own :=
  ((Chip.Frame.refl d).withTxOps x h).but
theorem Chip.but_withReel {x : Reel} (h : .reel ∈ S) : ({ d with reel := x } : Chip).but S own = d.but S own :=
  ((Chip.Frame.refl d).withReel x h).but
theorem Chip.but_withAon {x : Nat} (h : .aon ∈ S) : ({ d with aon := x } : Chip).but S own = d.but S own :=
  ((Chip.Frame.refl d).withAon x h).but
theorem Chip.but_withCarder {x : Carder} (h : .carder ∈ S) : ({ d with carder := x } : Chip).but S own = d.but S own :=
  ((Chip.Frame.refl d).withCarder x h).but
theorem Chip.but_withHankIn {x : List Packet} (h : .hankIn ∈ S) : ({ d with hankIn := x } : Chip).but S own = d.but S own :=
  ((Chip.Frame.refl d).withHankIn x h).but
theorem Chip.but_withUplinks {x : Tab Uplink} (h : .uplinks ∈ S) : ({ d with uplinks := x } : Chip).but S own = d.but S own :=
  ((Chip.Frame.refl d).withUplinks x h).but
theorem Chip.but_withPly {x : Ply} (h : .ply ∈ S) : ({ d with ply := x } : Chip).but S own = d.but S own :=
  ((Chip.Frame.refl d).withPly x h).but
theorem Chip.but_withHostq {x : HostQ} (h : .hostq ∈ S) : ({ d with hostq := x } : Chip).but S own = d.but S own :=
  ((Chip.Frame.refl d).withHostq x h).but
theorem Chip.but_withHank {x : Hank} (h : .hank ∈ S) : ({ d with hank := x } : Chip).but S own = d.but S own :=
  ((Chip.Frame.refl d).withHank x h).but
theorem Chip.but_withDistaff {x : Distaff} (h : .distaff ∈ S) : ({ d with distaff := x } : Chip).but S own = d.but S own :=
  ((Chip.Frame.refl d).withDistaff x h).but
theorem Chip.but_withFates {x : Tab Fates} (h : .fates ∈ S) : ({ d with fates := x } : Chip).but S own = d.but S own :=
  ((Chip.Frame.refl d).withFates x h).but
theorem Chip.but_withDram {x : List Host.Cell} (h : .dram ∈ S) : ({ d with dram := x } : Chip).but S own = d.but S own :=
  ((Chip.Frame.refl d).withDram x h).but
theorem Chip.but_withSegs {x : Tab SegEng} (h : .segs ∈ S) : ({ d with segs := x } : Chip).but S own = d.but S own :=
  ((Chip.Frame.refl d).withSegs x h).but
theorem Chip.but_withSegTables {x : Tab Nat} (h : .segTables ∈ S) : ({ d with segTables := x } : Chip).but S own = d.but S own :=
  ((Chip.Frame.refl d).withSegTables x h).but
theorem Chip.but_withSegBuf {x : List Host.Cell} (h : .segBuf ∈ S) : ({ d with segBuf := x } : Chip).but S own = d.but S own :=
  ((Chip.Frame.refl d).withSegBuf x h).but
theorem Chip.but_withFlyers {x : Tab Flyer} (h : .flyers ∈ S) : ({ d with flyers := x } : Chip).but S own = d.but S own :=
  ((Chip.Frame.refl d).withFlyers x h).but
theorem Chip.but_withFlyTables {x : Tab Nat} (h : .flyTables ∈ S) : ({ d with flyTables := x } : Chip).but S own = d.but S own :=
  ((Chip.Frame.refl d).withFlyTables x h).but
theorem Chip.but_withDrift {x : Tab Drift} (h : .drift ∈ S) : ({ d with drift := x } : Chip).but S own = d.but S own :=
  ((Chip.Frame.refl d).withDrift x h).but
theorem Chip.but_withChain {x : Chain} (h : .chain ∈ S) : ({ d with chain := x } : Chip).but S own = d.but S own :=
  ((Chip.Frame.refl d).withChain x h).but
theorem Chip.but_withMirror {x : Mirror} (h : .mirror ∈ S) : ({ d with mirror := x } : Chip).but S own = d.but S own :=
  ((Chip.Frame.refl d).withMirror x h).but
theorem Chip.but_withHostWrites {x : List HostWrite} (h : .hostWrites ∈ S) : ({ d with hostWrites := x } : Chip).but S own = d.but S own :=
  ((Chip.Frame.refl d).withHostWrites x h).but
end

/-! ### Reads through a change -/

section
variable {c : Chip} {r q : FieldRow} {v n i m j : Nat}

theorem Chip.fld_setBit_self (b : Bool) (hw : r.width = 1) : (c.setBit r b n i).fld r n i = if b then 1 else 0 := by
  rw [Chip.setBit, Chip.fld_setFld_self, hw]
  cases b <;> rfl

/-- A field of one bit as a Bool sets it. -/
theorem Chip.on_setBit_self (b : Bool) (hw : r.width = 1) : (c.setBit r b n i).on r n i = b := by
  rw [Chip.on, Chip.fld_setBit_self b hw]
  cases b <;> rfl

theorem Chip.fld_setBit_ne (b : Bool) (h : q.key m j ≠ r.key n i) : (c.setBit r b n i).fld q m j = c.fld q m j := c.fld_setFld_ne _ _ _ _ _ _ _ h
theorem Chip.on_setFld_ne (h : q.key m j ≠ r.key n i) : (c.setFld r v n i).on q m j = c.on q m j := by
  rw [Chip.on, c.fld_setFld_ne _ _ _ _ _ _ _ h, Chip.on]
theorem Chip.on_setBit_ne (b : Bool) (h : q.key m j ≠ r.key n i) : (c.setBit r b n i).on q m j = c.on q m j := Chip.on_setFld_ne h
theorem Chip.fld_bump_ne (h : q.key m j ≠ r.key n i) : (c.bump r n i).fld q m j = c.fld q m j := c.fld_setFld_ne _ _ _ _ _ _ _ h
theorem Chip.on_bump_ne (h : q.key m j ≠ r.key n i) : (c.bump r n i).on q m j = c.on q m j := Chip.on_setFld_ne h
theorem Chip.fld_bumpBy_ne (h : q.key m j ≠ r.key n i) : (c.bumpBy r v n i).fld q m j = c.fld q m j := c.fld_setFld_ne _ _ _ _ _ _ _ h
theorem Chip.on_raise_ne {e : Evt} (h : q.key m j ≠ e.key n) : (c.raise e n).on q m j = c.on q m j := by
  rw [Chip.on, c.fld_raise_ne _ _ _ _ _ h, Chip.on]
theorem Chip.on_flag_ne (h : q.key m j ≠ r.key n i) : (c.flag r v n i).on q m j = c.on q m j := Chip.on_setFld_ne (c := c) h

/-- A counter that saturates. -/
theorem Chip.counts_bump (c : Chip) (r : FieldRow) (n : Nat) : c.Counts (c.bump r n) r n := by
  rw [Chip.Counts, Chip.bump, Chip.bumpBy, Chip.fld_setFld_self]
  refine Nat.mod_eq_of_lt ?_
  have := Nat.two_pow_pos r.width
  omega
end

end Sys2Proof.Machine
end

section
/-!
PROOF. Reset (R54, R438, R443, R444): what puts the block in mode RESET, what its release latches, and how RESET is left.
-/
namespace Sys2Proof.Machine

variable {c d e : Chip} {st : Straps} {s : State} {p : Port}

/-! ### The straps -/

theorem strapKeys_not_levels : ∀ k ∈ strapKeys, k ∉ levelKeys := by decide

theorem strapKeys_not_tdc : ∀ k ∈ strapKeys, k ∉ tdcKeys := by decide

theorem strapKeys_not_reset : ∀ k ∈ strapKeys, k ∉ resetKeys := by decide

/-- What the straps left stays while their cells do. -/
theorem Chip.Latched.congr (h : c.Latched d st) (hk : ∀ k ∈ strapKeys, ∀ v, Tab.get v e.regs k = Tab.get v d.regs k) : c.Latched e st := by
  have hf (r : FieldRow) (hr : r.key 0 0 ∈ strapKeys) : e.fld r = d.fld r := hk _ hr _
  have ho (r : FieldRow) (hr : r.key 0 0 ∈ strapKeys) : e.on r = d.on r := by rw [Chip.on, hf r hr, Chip.on]
  exact ⟨(hf _ (by decide)).trans h.role, (ho _ (by decide)).trans h.bootSrc, (ho _ (by decide)).trans h.headless,
    (hf _ (by decide)).trans h.spiAddr, (hf _ (by decide)).trans h.strapRole, (hf _ (by decide)).trans h.newRole,
    (ho _ (by decide)).trans h.settled, (ho _ (by decide)).trans h.autoRun, (ho _ (by decide)).trans h.autoExit,
    (ho _ (by decide)).trans h.remote, fun hr hu => by
      have hev : e.raised EV.GLOBAL_STRAP_INVALID = d.raised EV.GLOBAL_STRAP_INVALID := by
        have hcell := hk (EV.GLOBAL_STRAP_INVALID.key 0) (by decide) 0
        exact congrArg (Nat.testBit · EV.GLOBAL_STRAP_INVALID.bit) hcell
      exact hev.trans (h.invalid hr hu)⟩

theorem Chip.Latched.frame {S : List Part} {K : Nat → Prop} (h : c.Latched d st) (hf : d.Frame S K e) (hK : ∀ k ∈ strapKeys, ¬ K k) : c.Latched e st :=
  h.congr fun k hk v => hf.cell k (hK k hk) v

theorem Chip.Latched.ended {b : Chip} (h : c.Latched d st) : c.Latched (b.ended d) st :=
  h.congr fun k hk v => b.ended_cell d k v (strapKeys_not_levels k hk)

theorem Chip.strapTake_frame (c : Chip) (st : Straps) (S : List Part) : c.Frame S (· ∈ strapKeys) (c.strapTake st) := by
  refine Chip.but_eq_iff.mp ?_
  unfold Chip.strapTake Chip.roleFromStraps
  simp (disch := decide) only [Chip.but_ite, Chip.but_raise, Chip.but_setFld, Chip.but_setBit, ite_self]

/-- The straps in place, before the role follows them. -/
def Chip.strapsIn (c : Chip) (st : Straps) : Chip :=
  ((((((c.setFld GLOBAL.STRAPS_ROLE st.role.toNat).setBit GLOBAL.STRAPS_BOOT_SRC st.bootSrc).setBit GLOBAL.STRAPS_HEADLESS st.headless).setFld
    GLOBAL.STRAPS_SPI_ADDR st.spiAddr.toNat).setBit GLOBAL.MODE_CFG_AUTO_RUN st.headless).setBit GLOBAL.MODE_CFG_AUTO_EXIT_SAFE
    st.headless).setBit HANK.CFG_REMOTE_EN st.headless

/-- The role as the straps say it. -/
def Chip.roleIn (c : Chip) (r : Nat) : Chip :=
  ((c.setFld GLOBAL.ROLE_STRAP_ROLE r).setFld GLOBAL.ROLE_ROLE (if r = 1 then 1 else 0)).setBit GLOBAL.ROLE_SETTLED (r != 2)

theorem Chip.fld_strapsIn_role (c : Chip) (st : Straps) : (c.strapsIn st).fld GLOBAL.STRAPS_ROLE = st.role.toNat := by
  unfold Chip.strapsIn
  simp (disch := decide) only [Chip.fld_setBit_ne, Chip.fld_setFld_ne, Chip.fld_setFld_self]
  exact Nat.mod_eq_of_lt st.role.isLt

theorem Chip.strapTake_eq (c : Chip) (st : Straps) : c.strapTake st =
    if st.role = 3 then ((c.strapsIn st).roleIn st.role.toNat).raise EV.GLOBAL_STRAP_INVALID else (c.strapsIn st).roleIn st.role.toNat := by
  have heq : c.strapTake st = if (c.strapsIn st).fld GLOBAL.STRAPS_ROLE = 3 then
      ((c.strapsIn st).roleIn ((c.strapsIn st).fld GLOBAL.STRAPS_ROLE)).raise EV.GLOBAL_STRAP_INVALID
      else (c.strapsIn st).roleIn ((c.strapsIn st).fld GLOBAL.STRAPS_ROLE) := rfl
  rw [heq, c.fld_strapsIn_role]
  have h3 : st.role.toNat = 3 ↔ st.role = 3 := by rw [← BitVec.toNat_inj]; rfl
  simp only [h3]

theorem Chip.fld_strapTake (c : Chip) (st : Straps) (r : FieldRow) (h : r.key 0 0 ≠ EV.GLOBAL_STRAP_INVALID.key 0) :
    (c.strapTake st).fld r = ((c.strapsIn st).roleIn st.role.toNat).fld r := by
  rw [Chip.strapTake_eq]
  split
  · exact Chip.fld_raise_ne _ _ _ _ _ _ h
  · rfl

theorem Chip.on_strapTake (c : Chip) (st : Straps) (r : FieldRow) (h : r.key 0 0 ≠ EV.GLOBAL_STRAP_INVALID.key 0) :
    (c.strapTake st).on r = ((c.strapsIn st).roleIn st.role.toNat).on r := by
  rw [Chip.on, Chip.fld_strapTake _ _ _ h, Chip.on]

theorem Chip.latched_strapTake (c : Chip) (st : Straps) : c.Latched (c.strapTake st) st := by
  have hlt := st.role.isLt
  have h1 : st.role.toNat = 1 ↔ st.role = 1 := by rw [← BitVec.toNat_inj]; rfl
  have h2 : (st.role.toNat != 2) = (st.role != 2) := by
    rw [Bool.eq_iff_iff, bne_iff_ne, bne_iff_ne, ne_eq, ne_eq, ← BitVec.toNat_inj]
    rfl
  constructor
  case role | strapRole =>
    rw [Chip.fld_strapTake _ _ _ (by decide), Chip.roleIn, Chip.strapsIn]
    simp (disch := decide) only [Chip.fld_setBit_ne, Chip.fld_setFld_ne, Chip.fld_setFld_self]
    exact Nat.mod_eq_of_lt hlt
  case newRole =>
    rw [Chip.fld_strapTake _ _ _ (by decide), Chip.roleIn]
    simp (disch := decide) only [Chip.fld_setBit_ne, Chip.fld_setFld_self, h1]
    split <;> rfl
  case spiAddr =>
    rw [Chip.fld_strapTake _ _ _ (by decide), Chip.roleIn, Chip.strapsIn]
    simp (disch := decide) only [Chip.fld_setBit_ne, Chip.fld_setFld_ne, Chip.fld_setFld_self]
    exact Nat.mod_eq_of_lt st.spiAddr.isLt
  case settled =>
    rw [Chip.on_strapTake _ _ _ (by decide), Chip.roleIn, Chip.on_setBit_self _ (by decide), h2]
  case bootSrc | headless | autoRun | autoExit | remote =>
    rw [Chip.on_strapTake _ _ _ (by decide), Chip.roleIn, Chip.strapsIn]
    simp (disch := decide) only [Chip.on_setBit_ne, Chip.on_setFld_ne, Chip.on_setBit_self]
  case invalid =>
    intro h3
    rw [Chip.strapTake_eq, if_pos h3]
    have hframe : c.Frame [] (· ∈ strapKeys) ((c.strapsIn st).roleIn st.role.toNat) := by
      refine Chip.but_eq_iff.mp ?_
      unfold Chip.roleIn Chip.strapsIn
      simp (disch := decide) only [Chip.but_setFld, Chip.but_setBit]
    exact hframe.tells_raise _ _ (by decide) (by decide)

/-! ### The calibration of the TDCs -/

theorem Chip.tdcResult_frame (c : Chip) (ok : Bool) (S : List Part) :
    ({ c with whorl := { c.whorl with tdcAt := c.now } } : Chip).Frame S (· ∈ tdcKeys) (c.tdcResult ok) := by
  refine Chip.but_eq_iff.mp ?_
  unfold Chip.tdcResult
  simp (disch := decide) only [Chip.but_ite, Chip.but_raise, Chip.but_setFld, Chip.but_bump, ite_self]

theorem Chip.on_tdcResult (c : Chip) (ok : Bool) : (c.tdcResult ok).on WHORL.TDC_STATUS_CAL_OK = ok := by
  unfold Chip.tdcResult
  cases ok with
  | true => rw [if_pos rfl, Chip.on, Chip.fld_setFld_self]; rfl
  | false =>
    simp only [Bool.false_eq_true, if_false]
    rw [Chip.on_raise_ne (by decide), Chip.on_bump_ne (by decide), Chip.on, Chip.fld_setFld_self]
    rfl

theorem Chip.counts_tdcResult (c : Chip) : c.Counts (c.tdcResult false) WHORL.TDC_STATUS_FAILS := by
  unfold Chip.tdcResult
  simp only [Bool.false_eq_true, if_false]
  rw [Chip.Counts, Chip.fld_raise_ne _ _ _ _ _ _ (by decide), Chip.counts_bump, Chip.fld_setFld_ne _ _ _ _ _ _ _ _ (by decide)]
  rfl

theorem Chip.tells_tdcResult (c : Chip) : c.Tells (c.tdcResult false) EV.WHORL_TDC_CAL_FAIL := by
  have hframe : c.Frame [.whorl] (· ∈ tdcKeys) ((({ c with whorl := { c.whorl with tdcAt := c.now } } : Chip).setFld
      WHORL.TDC_STATUS_CAL_OK 0).bump WHORL.TDC_STATUS_FAILS) := by
    refine Chip.but_eq_iff.mp ?_
    simp (disch := decide) only [Chip.but_setFld, Chip.but_bump, Chip.but_withWhorl]
  exact hframe.tells_raise _ _ (by decide) (by decide)

/-! ### The state in reset -/

theorem Chip.resetAll_frame (c : Chip) (S : List Part) : (c.cleared c.freeCtr).Frame S (· ∈ resetKeys) c.resetAll := by
  refine Chip.but_eq_iff.mp ?_
  unfold Chip.resetAll Chip.setDom
  simp (disch := decide) only [Chip.but_setFld]
  rfl

/-- The cells that tell a block in reset: the mode, the domains, and the uplinks' states. -/
def resetRows : List (FieldRow × Nat) :=
  [(GLOBAL.MODE_MODE, 0), (POWER.DOMAIN_STATE_SEG, 0), (POWER.DOMAIN_STATE_CORE, 0), (POWER.DOMAIN_STATE_HOST, 0), (POWER.DOMAIN_STATE_MEM, 0),
    (UPLINK.LINK_STATUS_STATE, 0), (UPLINK.LINK_STATUS_STATE, 1), (UPLINK.LINK_STATUS_STATE, 2), (UPLINK.LINK_STATUS_STATE, 3)]

theorem Chip.fld_resetAll (c : Chip) : ∀ x ∈ resetRows, c.resetAll.fld x.1 x.2 = if x.1 = GLOBAL.MODE_MODE then mRESET else domOFF := by
  simp only [resetRows, List.forall_mem_cons, List.not_mem_nil, false_imp_iff, implies_true, and_true, Chip.resetAll, Chip.setDom, Domain.row]
  simp (disch := decide) only [Chip.fld_setFld_ne, Chip.fld_setFld_self]
  exact ⟨rfl, rfl, rfl, rfl, rfl, rfl, rfl, rfl, rfl⟩

/-- Mode RESET, whatever goes with it. -/
theorem Chip.inReset_ended {b : Chip} (h : ∀ x ∈ resetRows, d.fld x.1 x.2 = if x.1 = GLOBAL.MODE_MODE then mRESET else domOFF) :
    (b.ended d).InReset := by
  have hfld (x : FieldRow × Nat) (hx : x ∈ resetRows) : (b.ended d).fld x.1 x.2 = if x.1 = GLOBAL.MODE_MODE then mRESET else domOFF := by
    have hlow : ∀ x ∈ resetRows, x.1.key x.2 0 ∉ levelKeys := by decide
    exact (b.ended_fld d _ _ _ (hlow x hx)).trans (h x hx)
  have hup (n : Nat) (hn : (UPLINK.LINK_STATUS_STATE, n) ∈ resetRows) : (b.ended d).uplinkOn n = false := by
    rw [Chip.uplinkOn, hfld _ hn, if_neg (by simp [UPLINK.LINK_STATUS_STATE, GLOBAL.MODE_MODE])]
    decide
  refine ⟨hfld _ (by decide : (GLOBAL.MODE_MODE, 0) ∈ resetRows), fun dm hdm => ?_⟩
  cases dm with
  | aon => exact absurd rfl hdm
  | upl =>
    rw [b.ended_levelsAgree d |>.uplinks, if_neg]
    simp [List.range, List.range.loop, hup 0 (by decide), hup 1 (by decide), hup 2 (by decide), hup 3 (by decide)]
  | seg => exact hfld _ (by decide : (POWER.DOMAIN_STATE_SEG, 0) ∈ resetRows)
  | core => exact hfld _ (by decide : (POWER.DOMAIN_STATE_CORE, 0) ∈ resetRows)
  | host => exact hfld _ (by decide : (POWER.DOMAIN_STATE_HOST, 0) ∈ resetRows)
  | mem => exact hfld _ (by decide : (POWER.DOMAIN_STATE_MEM, 0) ∈ resetRows)

theorem tdcKeys_not_levels : ∀ k ∈ tdcKeys, k ∉ levelKeys := by decide

theorem Chip.Latched.base (h : c.Latched d st) (hdom : e.domUp .aon = c.domUp .aon) : e.Latched d st :=
  ⟨h.role, h.bootSrc, h.headless, h.spiAddr, h.strapRole, h.newRole, h.settled, h.autoRun, h.autoExit, h.remote,
    fun hr hu => h.invalid hr (hdom.symm.trans hu)⟩

/-- The frame of a whole where a part that may differ does not. -/
theorem Chip.Frame.whorlSame {S T : List Part} {K : Nat → Prop} (h : c.Frame S K d) (hw : d.whorl = c.whorl) (hT : ∀ r ∈ S, r ≠ .whorl → r ∈ T) :
    c.Frame T K d := by
  have hs := h.since .whorl hT
  rw [Part.put, hw] at hs
  exact hs

/-! ### DEVICE_RESET -/

theorem Chip.deviceReset_frame (c : Chip) (st : Straps) (ok : Bool) :
    (c.cleared c.freeCtr).Frame [.ecc] (· ∈ resetKeys ++ strapKeys ++ tdcKeys) (c.deviceReset st ok) := by
  have h1 := (c.resetAll_frame [.ecc, .whorl]).mono (L := (· ∈ resetKeys ++ strapKeys ++ tdcKeys)) (List.Subset.refl _) fun k hk => by simp [hk]
  have h2 := h1.andThen (c.resetAll.strapTake_frame st [.ecc, .whorl]) (List.Subset.refl _) fun k hk => by simp [hk]
  have h3 := (h2.withWhorl { (c.resetAll.strapTake st).whorl with tdcAt := (c.resetAll.strapTake st).now } (by simp)).andThen
    ((c.resetAll.strapTake st).tdcResult_frame ok [.ecc, .whorl]) (List.Subset.refl _) fun k hk => by simp [hk]
  have hw : (c.resetAll.strapTake st).whorl = {} := ((c.resetAll.strapTake_frame st []).whorl (by simp)).trans ((c.resetAll_frame []).whorl (by simp))
  have hw' : ((c.resetAll.strapTake st).tdcResult ok).whorl = {} := by
    rw [((c.resetAll.strapTake st).tdcResult_frame ok []).whorl (by simp), Chip.now, hw]
  exact h3.whorlSame hw' (by simp)

theorem resetRows_apart : ∀ x ∈ resetRows, x.1.key x.2 0 ∉ strapKeys ++ tdcKeys := by decide

theorem Chip.fld_strapLatch_ne (c : Chip) (st : Straps) (ok : Bool) (r : FieldRow) (n : Nat) (h : r.key n 0 ∉ strapKeys ++ tdcKeys) :
    (c.strapLatch st ok).fld r n = c.fld r n := by
  rw [List.mem_append, not_or] at h
  exact (((c.strapTake st).tdcResult_frame ok []).fld _ _ _ h.2).trans ((c.strapTake_frame st []).fld _ _ _ h.1)

theorem aon_apart : (Domain.row .aon).key 0 0 ∉ strapKeys ++ tdcKeys ∧ (Domain.row .aon).key 0 0 ∉ levelKeys ∧
    (Domain.row .aon).key 0 0 ∉ resetKeys := by decide

theorem Chip.domUp_strapLatch (c : Chip) (st : Straps) (ok : Bool) : (c.strapLatch st ok).domUp .aon = c.domUp .aon := by
  rw [Chip.domUp, Chip.dom, c.fld_strapLatch_ne st ok _ _ aon_apart.1, Chip.domUp, Chip.dom]

theorem Chip.latched_strapLatch (c : Chip) (st : Straps) (ok : Bool) : c.Latched (c.strapLatch st ok) st :=
  (c.latched_strapTake st).frame (((Chip.Frame.refl _).withWhorl (S := [.whorl]) (K := (· ∈ tdcKeys)) _ List.mem_cons_self).andThen
    ((c.strapTake st).tdcResult_frame ok []) (List.nil_subset _) fun _ hk => hk) strapKeys_not_tdc

theorem Chip.domUp_ended_aon (b d : Chip) : (b.ended d).domUp .aon = d.domUp .aon := by
  rw [Chip.domUp, Chip.ended_dom _ _ _ aon_apart.2.1, Chip.domUp]

/-- The cells of the TDCs are as the reset leaves them until the calibration. -/
theorem Chip.get_resetStraps (c : Chip) (st : Straps) (k v : Nat) (h : k ∉ resetKeys) (h' : k ∉ strapKeys) :
    Tab.get v (c.resetAll.strapTake st).regs k = v := by
  rw [(c.resetAll.strapTake_frame st []).cell k h' v, (c.resetAll_frame []).cell k h v]
  rfl

theorem Chip.domUp_resetAll (c : Chip) : c.resetAll.domUp .aon = true := by
  rw [(c.resetAll_frame []).domUp _ aon_apart.2.2]
  rfl

/-- How a calibration right after a reset shows. -/
theorem Chip.tdc_deviceReset (b c : Chip) (st : Straps) (ok : Bool) :
    (b.ended (c.deviceReset st ok)).on WHORL.TDC_STATUS_CAL_OK = ok ∧
      (b.ended (c.deviceReset st ok)).fld WHORL.TDC_STATUS_FAILS = (if ok then 0 else 1) ∧
      (b.ended (c.deviceReset st ok)).raised EV.WHORL_TDC_CAL_FAIL = !ok := by
  have hfails : (c.resetAll.strapTake st).fld WHORL.TDC_STATUS_FAILS = 0 := c.get_resetStraps st _ _ (by decide) (by decide)
  have hevt : (c.resetAll.strapTake st).hdr HDR.EVT 2 = 0 := c.get_resetStraps st _ _ (by decide) (by decide)
  have hup : (c.resetAll.strapTake st).domUp .aon = true := by
    rw [(c.resetAll.strapTake_frame st []).domUp _ (by decide), c.domUp_resetAll]
  have hd : c.deviceReset st ok = (c.resetAll.strapTake st).tdcResult ok := rfl
  rw [hd]
  refine ⟨?_, ?_, ?_⟩
  · rw [Chip.ended_on _ _ _ _ _ (by decide), Chip.on_tdcResult]
  · rw [Chip.ended_fld _ _ _ _ _ (by decide)]
    cases ok with
    | true => exact (Chip.fld_setFld_ne _ _ _ _ _ _ _ _ (by decide)).trans hfails
    | false =>
      rw [(c.resetAll.strapTake st).counts_tdcResult, hfails]
      rfl
  · rw [Chip.ended_raised _ _ _ _ (by decide)]
    cases ok with
    | true =>
      have hsame : ((c.resetAll.strapTake st).tdcResult true).hdr HDR.EVT 2 = (c.resetAll.strapTake st).hdr HDR.EVT 2 :=
        Chip.get_setFld_ne _ _ _ _ _ _ (by decide)
      rw [Chip.raised, show EV.WHORL_TDC_CAL_FAIL.cls.base + 0 = 2 from rfl, hsame, hevt]
      rfl
    | false => exact (c.resetAll.strapTake st).tells_tdcResult hup

/-- A reset by command, as it leaves the block. -/
theorem Chip.deviceReset_ends (b c : Chip) (st : Straps) (ok : Bool) :
    (b.ended (c.deviceReset st ok)).InReset ∧ (b.ended (c.deviceReset st ok)).Latched (b.ended (c.deviceReset st ok)) st := by
  have hd : c.deviceReset st ok = c.resetAll.strapLatch st ok := rfl
  rw [hd]
  refine ⟨Chip.inReset_ended fun x hx => ?_, ((c.resetAll.latched_strapLatch st ok).ended).base ?_⟩
  · exact (c.resetAll.fld_strapLatch_ne st ok _ _ (resetRows_apart x hx)).trans (c.fld_resetAll x hx)
  · rw [Chip.domUp_ended_aon, Chip.domUp_strapLatch]

section
variable {i : Instr} {f : Chip → Chip}

theorem becomes_deviceReset {ok : Bool} {b : Chip} (hexec : exec i s = run f s) (hf : f s.chip = b.deviceReset st ok)
    (hb : b.cleared b.freeCtr = s.chip.cleared b.freeCtr) :
    Becomes i s (s.chip.cleared b.freeCtr) (resetKeys ++ strapKeys ++ tdcKeys) fun d => d.InReset ∧ d.Latched d st ∧
      d.on WHORL.TDC_STATUS_CAL_OK = ok ∧ d.fld WHORL.TDC_STATUS_FAILS = (if ok then 0 else 1) ∧ d.raised EV.WHORL_TDC_CAL_FAIL = !ok := by
  obtain ⟨hreset, hlatched⟩ := Chip.deviceReset_ends s.chip b st ok
  refine becomes_of hexec ?_ ?_
  · rw [hf, ← hb]
    exact b.deviceReset_frame st ok
  · rw [hf]
    exact ⟨hreset, hlatched, Chip.tdc_deviceReset _ _ _ _⟩

theorem becomes_reset {b : Chip} {free : Nat} (hexec : exec i s = run f s) (hf : f s.chip = b.resetAll) (hfree : b.freeCtr = free) :
    Becomes i s (b.cleared free) resetKeys Chip.InReset := by
  refine becomes_of hexec ?_ ?_
  · rw [hf, ← hfree]
    exact b.resetAll_frame _
  · rw [hf]
    exact Chip.inReset_ended b.fld_resetAll

theorem exec_porstAssert_eq (ns : Nat) (s : State) : exec (.porstAssert ns) s = run (fun c => c.porstAssert ns) s := rfl

/-- What asserts a reset. -/
theorem resets (s : State) (p : Port) (st : Straps) (ok : Bool) (ns : Nat) (v : Word) :
    let c := s.chip
    let porst : Chip := { c with modes := { c.modes with holdPorst := true } }
    let tdc (d : Chip) (ok : Bool) : Prop := d.on WHORL.TDC_STATUS_CAL_OK = ok ∧ d.fld WHORL.TDC_STATUS_FAILS = (if ok then 0 else 1) ∧
      d.raised EV.WHORL_TDC_CAL_FAIL = !ok
    (c.Open p .global 0 →
      Becomes (.deviceReset p 0x4D44 st ok) s (c.cleared c.freeCtr) (resetKeys ++ strapKeys ++ tdcKeys) fun d =>
        d.InReset ∧ d.Latched d st ∧ tdc d ok) ∧
    (c.Open p .global 0 → bitsOf v.toNat 31 16 = 0x4D44 → bitsOf v.toNat 3 0 = 0xF →
      ∃ st' ok', Becomes (.registerWrite p 0x48 v) s (c.cleared (c.freeCtr + 1)) (resetKeys ++ strapKeys ++ tdcKeys) fun d =>
        d.InReset ∧ d.Latched d st' ∧ tdc d ok') ∧
    (10000 ≤ ns → Becomes (.porstAssert ns) s (porst.cleared c.freeCtr) resetKeys Chip.InReset) ∧
    (ns < 1000 → Idles (.porstAssert ns) s) ∧
    (1000 ≤ ns → ns < 10000 →
      Becomes (.porstAssert ns) s (porst.cleared (c.freeCtr + 1)) resetKeys Chip.InReset ∨
        Becomes (.porstAssert ns) s { c with freeCtr := c.freeCtr + 1 } [] fun _ => True) ∧
    (2000 ≤ ns → Becomes (.aonSupplyFault ns) s
      (({ c with modes := { c.modes with holdSupply := true } } : Chip).cleared c.freeCtr) resetKeys Chip.InReset) ∧
    (ns < 2000 → Idles (.aonSupplyFault ns) s) := by
  refine ⟨fun h => ?_, fun h hkey hcode => ?_, fun hns => ?_, fun hns => ?_, fun hns hns' => ?_, fun hns => ?_, fun hns => ?_⟩
  · have hf : (s.chip.modeCode p 0xF 0x4D44 fun d => d.deviceReset st ok) = s.chip.deviceReset st ok := by
      rw [Chip.modeCode_open h]
      exact Chip.modeCmd_row _ _ (bitsOf_mode_key 0x4D44 0xF (by decide)) (by rw [bitsOf_mode_code 0x4D44 0xF (by decide)]; rfl)
    exact becomes_deviceReset (f := fun c => c.modeCode p 0xF 0x4D44 fun d => d.deviceReset st ok) rfl hf rfl
  · have hf : s.chip.regWrite p 0x48 v.toNat = s.chip.drawn.deviceReset (freeStraps s.chip.freeVal) (s.chip.freeVal.testBit 7) := by
      rw [Chip.regWrite_modeCmd h, Chip.modeCmd_row (d := s.chip.deviceResetFree) _ _ hkey (by rw [hcode]; rfl)]
      rfl
    exact ⟨_, _, becomes_deviceReset (exec_registerWrite_eq (addr := 0x48) rfl p v s) hf rfl⟩
  · exact becomes_reset (exec_porstAssert_eq ns s) (if_pos hns) rfl
  · exact idles_of (exec_porstAssert_eq ns s) ((if_neg (by omega)).trans (if_pos hns))
  · have hmid : s.chip.porstAssert ns = if s.chip.freeVal % 2 = 1 then
        (s.chip.drawn.updModes fun m => { m with holdPorst := true }).resetAll else s.chip.drawn := (if_neg (by omega)).trans (if_neg (by omega))
    by_cases hfree : s.chip.freeVal % 2 = 1
    · rw [if_pos hfree] at hmid
      exact .inl (becomes_reset (b := s.chip.drawn.updModes fun m => { m with holdPorst := true }) (exec_porstAssert_eq ns s) hmid rfl)
    · rw [if_neg hfree] at hmid
      refine .inr (becomes_of (exec_porstAssert_eq ns s) ?_ trivial)
      rw [hmid]
      exact .refl _
  · exact becomes_reset (f := fun c => c.whenDue (decide (2000 ≤ ns)) fun d => (d.updModes fun m => { m with holdSupply := true }).resetAll) rfl
      (s.chip.whenDue_true _ (by simpa using hns)) rfl
  · exact idles_of_not_due (due := fun _ => decide (2000 ≤ ns)) (g := fun d => (d.updModes fun m => { m with holdSupply := true }).resetAll) rfl
      (by simpa using hns)
end

end Sys2Proof.Machine
end

section
/-!
PROOF. What the composed changes of the modes, the domains, the carder's end of a packet and the host's rings leave alone.
-/
namespace Sys2Proof.Machine

section
variable {c : Chip} {S : List Part} {R : List Spot}

theorem Chip.away_updImage {f : Image → Image} (hS : [.image] ⊆ S) :
    (c.updImage f).away S R = c.away S R := by
  unfold Chip.updImage
  simp (disch := first | (apply mem_of_sub hS; decide) | (refine List.Subset.trans ?_ hS; decide) | decide) only [Chip.away_withImage]

theorem Chip.away_setIm {v : Nat} (hR : [.one GLOBAL.IMAGE_STATUS_STATE] ⊆ R) :
    (c.setIm v).away S R = c.away S R := by
  unfold Chip.setIm
  simp (disch := first | (apply mem_of_sub hR; decide) | (refine List.Subset.trans ?_ hR; decide) | decide) only [Chip.away_setFld]

theorem Chip.away_imageError {cause : Nat} (hS : [.image] ⊆ S) (hR : [.evt .global, .one GLOBAL.IMAGE_STATUS_CAUSE,
    .one GLOBAL.IMAGE_STATUS_STATE] ⊆ R) :
    (c.imageError cause).away S R = c.away S R := by
  unfold Chip.imageError
  simp (disch := first
      | (apply mem_of_sub hS; decide) | (refine List.Subset.trans ?_ hS; decide) | (apply mem_of_sub hR; decide)
      | (refine List.Subset.trans ?_ hR; decide) | decide) only [Chip.away_raise, Chip.away_setFld, Chip.away_updImage, Chip.away_setIm]

theorem Chip.away_imageLeave  (hS : [.image] ⊆ S) (hR : [.evt .global, .one GLOBAL.IMAGE_STATUS_CAUSE, .one GLOBAL.IMAGE_STATUS_HOLD,
    .one GLOBAL.IMAGE_STATUS_STATE] ⊆ R) :
    (c.imageLeave).away S R = c.away S R := by
  unfold Chip.imageLeave
  simp (disch := first
      | (apply mem_of_sub hS; decide) | (refine List.Subset.trans ?_ hS; decide) | (apply mem_of_sub hR; decide)
      | (refine List.Subset.trans ?_ hR; decide) | decide) only [Chip.away_ite, ite_self, Chip.away_setFld, Chip.away_imageError]

theorem Chip.away_c7EvalAll  (hR : [.evt .reel, .one REELGATE.C7_BURST_SUM_CNS, .one REELGATE.C7_COND_FAIL, .one REELGATE.C7_COND_OK,
    .one REELGATE.C7_GATE_WAIT_NS, .one REELGATE.C7_OPEN_FRACTION, .one REELGATE.C7_RATE_SUM_KBPS] ⊆ R) :
    (c.c7EvalAll).away S R = c.away S R := by
  exact Chip.away_foldl fun d n hn => Chip.away_c7Eval hR (List.mem_range.mp hn)

theorem Chip.away_setMode {m : Nat} (hS : [.whorl, .image] ⊆ S) (hR : [.evt .global, .evt .reel, .one GLOBAL.IMAGE_STATUS_CAUSE,
    .one GLOBAL.IMAGE_STATUS_HOLD, .one GLOBAL.IMAGE_STATUS_STATE, .one GLOBAL.MODE_MODE, .one GLOBAL.MODE_PREV_MODE, .one GLOBAL.MODE_RUN_ARMED,
    .one REELGATE.C7_BURST_SUM_CNS, .one REELGATE.C7_COND_FAIL, .one REELGATE.C7_COND_OK, .one REELGATE.C7_GATE_WAIT_NS,
    .one REELGATE.C7_OPEN_FRACTION, .one REELGATE.C7_RATE_SUM_KBPS] ⊆ R) :
    (c.setMode m).away S R = c.away S R := by
  unfold Chip.setMode
  extract_lets old c1 c2 src1 src2 c3
  split
  · rfl
  have h1 : c1.away S R = c.away S R := by simp (disch := first
      | (apply mem_of_sub hS; decide) | (refine List.Subset.trans ?_ hS; decide) | (apply mem_of_sub hR; decide)
      | (refine List.Subset.trans ?_ hR; decide) | decide) only [c1, Chip.away_raise, Chip.away_setFld]
  clear_value c1
  have h2 : c2.away S R = c1.away S R := by simp (disch := first
      | (apply mem_of_sub hS; decide) | (refine List.Subset.trans ?_ hS; decide) | (apply mem_of_sub hR; decide)
      | (refine List.Subset.trans ?_ hR; decide) | decide) only [c2, Chip.away_ite, ite_self, Chip.away_setFld, Chip.away_imageLeave]
  clear_value c2
  have h3 : c3.away S R = c2.away S R := by simp (disch := first
      | (apply mem_of_sub hS; decide) | (refine List.Subset.trans ?_ hS; decide) | (apply mem_of_sub hR; decide)
      | (refine List.Subset.trans ?_ hR; decide) | decide) only [c3, Chip.away_ite, ite_self, Chip.away_withWhorl]
  clear_value c3
  simp (disch := first
      | (apply mem_of_sub hS; decide) | (refine List.Subset.trans ?_ hS; decide) | (apply mem_of_sub hR; decide)
      | (refine List.Subset.trans ?_ hR; decide) | decide) only [h3, h2, h1, Chip.away_c7EvalAll]

theorem Chip.away_updModes {f : Modes → Modes} (hS : [.modes] ⊆ S) :
    (c.updModes f).away S R = c.away S R := by
  unfold Chip.updModes
  simp (disch := first | (apply mem_of_sub hS; decide) | (refine List.Subset.trans ?_ hS; decide) | decide) only [Chip.away_withModes]

theorem Chip.away_wdogReload  (hS : [.modes] ⊆ S) (hR : [.one GLOBAL.WDOG_REMAIN_COUNT] ⊆ R) :
    (c.wdogReload).away S R = c.away S R := by
  unfold Chip.wdogReload
  simp (disch := first
      | (apply mem_of_sub hS; decide) | (refine List.Subset.trans ?_ hS; decide) | (apply mem_of_sub hR; decide)
      | (refine List.Subset.trans ?_ hR; decide) | decide) only [Chip.away_setFld, Chip.away_updModes]

theorem Chip.away_setGate {n : Nat} {g : Gate} (hS : [.reel] ⊆ S) :
    (c.setGate n g).away S R = c.away S R := by
  unfold Chip.setGate
  simp (disch := first | (apply mem_of_sub hS; decide) | (refine List.Subset.trans ?_ hS; decide) | decide) only [Chip.away_withReel]

theorem Chip.away_gatesStop  (hS : [.reel] ⊆ S) :
    (c.gatesStop).away S R = c.away S R := by
  unfold Chip.gatesStop
  simp (disch := first
      | (apply mem_of_sub hS; decide) | (refine List.Subset.trans ?_ hS; decide) | (intro _ _ _; simp (disch := first
        | (apply mem_of_sub hS; decide) | (refine List.Subset.trans ?_ hS; decide) | decide) only [Chip.away_ite, ite_self, Chip.away_foldl,
        Chip.away_setGate]) | decide) only [Chip.away_foldl]

theorem Chip.away_bulkEnd {st : Nat} (hS : [.power] ⊆ S) (hR : [.one CARDER.BULK_STATUS_STATE] ⊆ R) :
    (c.bulkEnd st).away S R = c.away S R := by
  unfold Chip.bulkEnd
  simp (disch := first
      | (apply mem_of_sub hS; decide) | (refine List.Subset.trans ?_ hS; decide) | (apply mem_of_sub hR; decide)
      | (refine List.Subset.trans ?_ hR; decide) | decide) only [Chip.away_setFld, Chip.away_releaseLeave]

theorem Chip.away_bulkAbort  (hS : [.power] ⊆ S) (hR : [.one CARDER.BULK_STATUS_STATE] ⊆ R) :
    (c.bulkAbort).away S R = c.away S R := by
  unfold Chip.bulkAbort
  simp (disch := first
      | (apply mem_of_sub hS; decide) | (refine List.Subset.trans ?_ hS; decide) | (apply mem_of_sub hR; decide)
      | (refine List.Subset.trans ?_ hR; decide) | decide) only [Chip.away_ite, ite_self, Chip.away_bulkEnd]

theorem Chip.away_dirBulkEnd {st : Nat} (hS : [.power] ⊆ S) (hR : [.one DISTAFF.BULK_STATUS_STATE] ⊆ R) :
    (c.dirBulkEnd st).away S R = c.away S R := by
  unfold Chip.dirBulkEnd
  simp (disch := first
      | (apply mem_of_sub hS; decide) | (refine List.Subset.trans ?_ hS; decide) | (apply mem_of_sub hR; decide)
      | (refine List.Subset.trans ?_ hR; decide) | decide) only [Chip.away_setFld, Chip.away_releaseLeave]

theorem Chip.away_dirBulkAbort  (hS : [.power] ⊆ S) (hR : [.one DISTAFF.BULK_STATUS_STATE] ⊆ R) :
    (c.dirBulkAbort).away S R = c.away S R := by
  unfold Chip.dirBulkAbort
  simp (disch := first
      | (apply mem_of_sub hS; decide) | (refine List.Subset.trans ?_ hS; decide) | (apply mem_of_sub hR; decide)
      | (refine List.Subset.trans ?_ hR; decide) | decide) only [Chip.away_ite, ite_self, Chip.away_dirBulkEnd]

theorem Chip.away_drawn  (hS : [.freeCtr] ⊆ S) :
    (c.drawn).away S R = c.away S R := by
  unfold Chip.drawn
  simp (disch := first | (apply mem_of_sub hS; decide) | (refine List.Subset.trans ?_ hS; decide) | decide) only [Chip.away_withFreeCtr]

theorem Chip.away_scrubEnd {st : Nat} (hS : [.power] ⊆ S) (hR : [.one DRAM.SCRUB_STATUS_STATE] ⊆ R) :
    (c.scrubEnd st).away S R = c.away S R := by
  unfold Chip.scrubEnd
  simp (disch := first
      | (apply mem_of_sub hS; decide) | (refine List.Subset.trans ?_ hS; decide) | (apply mem_of_sub hR; decide)
      | (refine List.Subset.trans ?_ hR; decide) | decide) only [Chip.away_setFld, Chip.away_releaseLeave]

theorem Chip.away_scrubAbort  (hS : [.freeCtr, .power] ⊆ S) (hR : [.one DRAM.SCRUB_STATUS_DONE_MIB, .one DRAM.SCRUB_STATUS_STATE] ⊆ R) :
    (c.scrubAbort).away S R = c.away S R := by
  unfold Chip.scrubAbort
  simp (disch := first
      | (apply mem_of_sub hS; decide) | (refine List.Subset.trans ?_ hS; decide) | (apply mem_of_sub hR; decide)
      | (refine List.Subset.trans ?_ hR; decide) | decide) only [Chip.away_ite, ite_self, Chip.away_setFld, Chip.away_drawn, Chip.away_scrubEnd]

theorem Chip.away_bulksEnd  (hS : [.freeCtr, .power] ⊆ S) (hR : [.one CARDER.BULK_STATUS_STATE, .one DISTAFF.BULK_STATUS_STATE,
    .one DRAM.SCRUB_STATUS_DONE_MIB, .one DRAM.SCRUB_STATUS_STATE] ⊆ R) :
    (c.bulksEnd).away S R = c.away S R := by
  unfold Chip.bulksEnd
  simp (disch := first
      | (apply mem_of_sub hS; decide) | (refine List.Subset.trans ?_ hS; decide) | (apply mem_of_sub hR; decide)
      | (refine List.Subset.trans ?_ hR; decide) | decide) only [Chip.away_bulkAbort, Chip.away_dirBulkAbort, Chip.away_scrubAbort]

theorem Chip.away_offersEnd  (hS : [.segs] ⊆ S) :
    (c.offersEnd).away S R = c.away S R := by
  unfold Chip.offersEnd
  simp (disch := first
      | (apply mem_of_sub hS; decide) | (refine List.Subset.trans ?_ hS; decide) | (intro _ _ _; simp (disch := first
        | (apply mem_of_sub hS; decide) | (refine List.Subset.trans ?_ hS; decide) | decide) only [Chip.away_ite, ite_self, Chip.away_foldl,
        Chip.away_updEng]) | decide) only [Chip.away_foldl]

theorem Chip.away_updCarder {f : Carder → Carder} (hS : [.carder] ⊆ S) :
    (c.updCarder f).away S R = c.away S R := by
  unfold Chip.updCarder
  simp (disch := first | (apply mem_of_sub hS; decide) | (refine List.Subset.trans ?_ hS; decide) | decide) only [Chip.away_withCarder]

theorem Chip.away_carderOut {p : Packet} (hS : [.buffer, .txOps, .reel, .hankIn, .hostq, .hank, .distaff] ⊆ S) (hR : [.evt .reel,
    .one DISTAFF.ITEMS_OUT_COUNT, .one HANK.TX_MSGS_COUNT, .many HOSTQ.LEDGER_ENTRY0_FROZEN, .many HOSTQ.LEDGER_ENTRY0_STATE,
    .many HOSTQ.LEDGER_ENTRY0_STATUS, .many HOSTQ.LEDGER_ENTRY1_PROGRESS, .one HOSTQ.PARTIALS_COUNT, .one REELGATE.XOFF_COUNT_COUNT] ⊆ R) :
    (c.carderOut p).away S R = c.away S R := by
  unfold Chip.carderOut
  simp (disch := first
      | (apply mem_of_sub hS; decide) | (refine List.Subset.trans ?_ hS; decide) | (apply mem_of_sub hR; decide)
      | (refine List.Subset.trans ?_ hR; decide) | decide) only [Chip.away_ite, ite_self, Chip.away_withHankIn, Chip.away_withReel,
      Chip.away_copyFate]

theorem Chip.away_passesEnd {p : Packet} {out : List Packet} (hS : [.buffer, .txOps, .reel, .carder, .hankIn, .hostq, .hank, .distaff] ⊆ S)
    (hR : [.evt .reel, .one CARDER.INFLIGHT_BANK_A, .one CARDER.INFLIGHT_BANK_B, .one DISTAFF.ITEMS_OUT_COUNT, .one HANK.TX_MSGS_COUNT,
    .many HOSTQ.LEDGER_ENTRY0_FROZEN, .many HOSTQ.LEDGER_ENTRY0_STATE, .many HOSTQ.LEDGER_ENTRY0_STATUS, .many HOSTQ.LEDGER_ENTRY1_PROGRESS,
    .one HOSTQ.PARTIALS_COUNT, .one REELGATE.XOFF_COUNT_COUNT] ⊆ R) :
    (c.passesEnd p out).away S R = c.away S R := by
  unfold Chip.passesEnd
  extract_lets row c1 leave c2 trapped
  have hrow : (c1.away S R = c.away S R) := by
    have h : Spot.one row ∈ R := by
      unfold row inflightRow
      split <;> (apply mem_of_sub hR; decide)
    have hc : 0 < row.cls.count := by
      unfold row inflightRow
      split <;> decide
    exact Chip.away_setFld h hc
  have h2 : c2.away S R = c1.away S R := by simp (disch := first
      | (apply mem_of_sub hS; decide) | (refine List.Subset.trans ?_ hS; decide) | (apply mem_of_sub hR; decide)
      | (refine List.Subset.trans ?_ hR; decide) | decide) only [c2, Chip.away_updCarder]
  clear_value c2 c1
  have hf (l : List Packet) (d : Chip) : (l.foldl Chip.carderOut d).away S R = d.away S R := Chip.away_foldl fun d p _ => by simp (disch := first
      | (apply mem_of_sub hS; decide) | (refine List.Subset.trans ?_ hS; decide) | (apply mem_of_sub hR; decide)
      | (refine List.Subset.trans ?_ hR; decide) | decide) only [Chip.away_carderOut]
  split
  · rw [hf, h2, hrow]
  split
  · rw [hf]
    simp (disch := first
        | (apply mem_of_sub hS; decide) | (refine List.Subset.trans ?_ hS; decide) | (apply mem_of_sub hR; decide)
        | (refine List.Subset.trans ?_ hR; decide) | decide) only [h2, hrow, Chip.away_updCarder]
  · simp (disch := first
      | (apply mem_of_sub hS; decide) | (refine List.Subset.trans ?_ hS; decide) | (apply mem_of_sub hR; decide)
      | (refine List.Subset.trans ?_ hR; decide) | decide) only [h2, hrow, Chip.away_updCarder]

theorem Chip.away_pullPackets {drop : Packet → Bool} (hS : [.buffer, .txOps, .reel, .carder, .hankIn, .hostq, .hank, .distaff, .segs] ⊆ S)
    (hR : [.evt .reel, .one CARDER.INFLIGHT_BANK_A, .one CARDER.INFLIGHT_BANK_B, .one DISTAFF.ITEMS_OUT_COUNT, .one HANK.TX_MSGS_COUNT,
    .many HOSTQ.LEDGER_ENTRY0_FROZEN, .many HOSTQ.LEDGER_ENTRY0_STATE, .many HOSTQ.LEDGER_ENTRY0_STATUS, .many HOSTQ.LEDGER_ENTRY1_PROGRESS,
    .one HOSTQ.PARTIALS_COUNT, .one REELGATE.XOFF_COUNT_COUNT] ⊆ R) :
    (c.pullPackets drop).away S R = c.away S R := by
  unfold Chip.pullPackets
  extract_lets keep ended src1 c1 src2 c2 c3 c4
  have h1 : c1.away S R = c.away S R := by simp (disch := first
      | (apply mem_of_sub hS; decide) | (refine List.Subset.trans ?_ hS; decide) | (apply mem_of_sub hR; decide)
      | (refine List.Subset.trans ?_ hR; decide) | decide) only [c1, Chip.away_withBuffer]
  clear_value c1
  have h2 : c2.away S R = c1.away S R := by simp (disch := first
      | (apply mem_of_sub hS; decide) | (refine List.Subset.trans ?_ hS; decide) | (apply mem_of_sub hR; decide)
      | (refine List.Subset.trans ?_ hR; decide) | decide) only [c2, Chip.away_withReel]
  clear_value c2
  have h3 : c3.away S R = c2.away S R := by simp (disch := first
      | (apply mem_of_sub hS; decide) | (refine List.Subset.trans ?_ hS; decide) | (apply mem_of_sub hR; decide)
      | (refine List.Subset.trans ?_ hR; decide) | decide) only [c3, Chip.away_updCarder]
  clear_value c3
  have h4 : c4.away S R = c3.away S R := Chip.away_foldl fun d n _ => by
    split
    · simp (disch := first
        | (apply mem_of_sub hS; decide) | (refine List.Subset.trans ?_ hS; decide) | (apply mem_of_sub hR; decide)
        | (refine List.Subset.trans ?_ hR; decide) | decide) only [Chip.away_ite, ite_self, Chip.away_updEng]
    · rfl
  clear_value c4
  have h5 : ((ended.foldl (fun d p => d.passesEnd p []) c4).away S R) = c4.away S R := Chip.away_foldl fun d p _ => by simp (disch := first
      | (apply mem_of_sub hS; decide) | (refine List.Subset.trans ?_ hS; decide) | (apply mem_of_sub hR; decide)
      | (refine List.Subset.trans ?_ hR; decide) | decide) only [Chip.away_passesEnd]
  rw [h5, h4, h3, h2, h1]

theorem Chip.away_dropCopy {p : Packet} {detail : Nat} (hS : [.buffer, .txOps, .hostq, .hank, .distaff] ⊆ S) (hR : [.evt .reel,
    .one DISTAFF.ITEMS_OUT_COUNT, .one HANK.TX_MSGS_COUNT, .many HOSTQ.LEDGER_ENTRY0_FROZEN, .many HOSTQ.LEDGER_ENTRY0_STATE,
    .many HOSTQ.LEDGER_ENTRY0_STATUS, .many HOSTQ.LEDGER_ENTRY1_PROGRESS, .one HOSTQ.PARTIALS_COUNT, .one REELGATE.XOFF_COUNT_COUNT] ⊆ R) :
    (c.dropCopy p detail).away S R = c.away S R := by
  unfold Chip.dropCopy
  simp (disch := first
      | (apply mem_of_sub hS; decide) | (refine List.Subset.trans ?_ hS; decide) | (apply mem_of_sub hR; decide)
      | (refine List.Subset.trans ?_ hR; decide) | decide) only [Chip.away_copyFate]

theorem Chip.away_bankFree  (hR : [.evt .carder, .one CARDER.BANK_STATUS_BANK_FREE] ⊆ R) :
    (c.bankFree).away S R = c.away S R := by
  unfold Chip.bankFree
  simp (disch := first | (apply mem_of_sub hR; decide) | (refine List.Subset.trans ?_ hR; decide) | decide) only [Chip.away_raise, Chip.away_setFld]

theorem Chip.away_bufferDiscard  (hS : [.buffer, .txOps, .reel, .carder, .hankIn, .hostq, .hank, .distaff, .segs] ⊆ S) (hR : [.evt .carder,
    .evt .reel, .one CARDER.BANK_STATUS_BANK_FREE, .one CARDER.INFLIGHT_BANK_A, .one CARDER.INFLIGHT_BANK_B, .one DISTAFF.ITEMS_OUT_COUNT,
    .one GLOBAL.BUFFER_DISCARDS_COUNT, .one HANK.TX_MSGS_COUNT, .many HOSTQ.LEDGER_ENTRY0_FROZEN, .many HOSTQ.LEDGER_ENTRY0_STATE,
    .many HOSTQ.LEDGER_ENTRY0_STATUS, .many HOSTQ.LEDGER_ENTRY1_PROGRESS, .one HOSTQ.PARTIALS_COUNT, .one REELGATE.XOFF_COUNT_COUNT] ⊆ R) :
    (c.bufferDiscard).away S R = c.away S R := by
  unfold Chip.bufferDiscard
  simp (disch := first
      | (apply mem_of_sub hS; decide) | (refine List.Subset.trans ?_ hS; decide) | (apply mem_of_sub hR; decide)
      | (refine List.Subset.trans ?_ hR; decide) | (intro _ _ _; simp (disch := first
        | (apply mem_of_sub hS; decide) | (refine List.Subset.trans ?_ hS; decide) | (apply mem_of_sub hR; decide)
        | (refine List.Subset.trans ?_ hR; decide) | decide) only [Chip.away_ite, ite_self, Chip.away_foldl, Chip.away_bumpBy, Chip.away_setFld,
        Chip.away_pullPackets, Chip.away_dropCopy, Chip.away_updCarder, Chip.away_bankFree]) | decide) only [Chip.away_ite, ite_self,
        Chip.away_foldl, Chip.away_bumpBy, Chip.away_setFld, Chip.away_pullPackets, Chip.away_updCarder, Chip.away_bankFree]

theorem Chip.away_powerDown  (hS : [.modes, .power, .buffer, .txOps, .reel, .carder, .hankIn, .hostq, .hank, .distaff, .segs] ⊆ S)
    (hR : [.evt .carder, .evt .reel, .one CARDER.BANK_STATUS_BANK_FREE, .one CARDER.INFLIGHT_BANK_A, .one CARDER.INFLIGHT_BANK_B,
    .one DISTAFF.ITEMS_OUT_COUNT, .one DRAM.STATUS_SELF_REFRESH, .one GLOBAL.BUFFER_DISCARDS_COUNT, .one HANK.TX_MSGS_COUNT,
    .many HOSTQ.LEDGER_ENTRY0_FROZEN, .many HOSTQ.LEDGER_ENTRY0_STATE, .many HOSTQ.LEDGER_ENTRY0_STATUS, .many HOSTQ.LEDGER_ENTRY1_PROGRESS,
    .one HOSTQ.PARTIALS_COUNT, .one POWER.DOMAIN_STATE_CORE, .one POWER.DOMAIN_STATE_HOST, .one POWER.DOMAIN_STATE_MEM,
    .one REELGATE.XOFF_COUNT_COUNT] ⊆ R) :
    (c.powerDown).away S R = c.away S R := by
  unfold Chip.powerDown
  extract_lets c1 src c2 c3
  have h1 : c1.away S R = c.away S R := by simp (disch := first
      | (apply mem_of_sub hS; decide) | (refine List.Subset.trans ?_ hS; decide) | (apply mem_of_sub hR; decide)
      | (refine List.Subset.trans ?_ hR; decide) | decide) only [c1, Chip.away_ite, ite_self, Chip.away_bufferDiscard]
  clear_value c1
  have h2 : c2.away S R = c1.away S R := by simp (disch := first
      | (apply mem_of_sub hS; decide) | (refine List.Subset.trans ?_ hS; decide) | (apply mem_of_sub hR; decide)
      | (refine List.Subset.trans ?_ hR; decide) | decide) only [c2, Chip.away_withPower]
  clear_value c2
  have h3 : c3.away S R = c2.away S R := by simp (disch := first
      | (apply mem_of_sub hS; decide) | (refine List.Subset.trans ?_ hS; decide) | (apply mem_of_sub hR; decide)
      | (refine List.Subset.trans ?_ hR; decide) | decide) only [c3, Chip.setDom, Domain.row, Chip.away_setFld, Chip.away_releaseLeave]
  clear_value c3
  simp (disch := first
      | (apply mem_of_sub hS; decide) | (refine List.Subset.trans ?_ hS; decide) | (apply mem_of_sub hR; decide)
      | (refine List.Subset.trans ?_ hR; decide) | decide) only [h3, h2, h1, Chip.setDom, Domain.row, Chip.away_setFld, Chip.away_updModes]

theorem Chip.away_startWake {d : Domain} {lat : Nat} (hS : [.power] ⊆ S) :
    (c.startWake d lat).away S R = c.away S R := by
  unfold Chip.startWake
  simp (disch := first
      | (apply mem_of_sub hS; decide) | (refine List.Subset.trans ?_ hS; decide) | decide) only [Chip.away_ite, ite_self, Chip.away_withPower]

theorem Chip.away_segWake  (hS : [.power] ⊆ S) :
    (c.segWake).away S R = c.away S R := by
  unfold Chip.segWake
  simp (disch := first | (apply mem_of_sub hS; decide) | (refine List.Subset.trans ?_ hS; decide) | decide) only [Chip.away_startWake]

theorem Chip.away_setBitmap {lo hi : FieldRow} {r : Nat} {b : Bool} (hlo : Spot.one lo ∈ R) (hhi : Spot.one hi ∈ R) (hl : 0 < lo.cls.count)
    (hh : 0 < hi.cls.count) :
    (c.setBitmap lo hi r b).away S R = c.away S R := by
  unfold Chip.setBitmap
  extract_lets row m v
  refine Chip.away_setFld ?_ ?_
  · unfold row
    split
    · exact hlo
    · exact hhi
  · unfold row
    split
    · exact hl
    · exact hh

theorem Chip.away_setBp {r : Nat} {b : Bool} (hR : [.one HOSTQ.CR_BP_HI_BP, .one HOSTQ.CR_BP_LO_BP, .many HOSTQ.CR_STATUS_BACKPRESSURE] ⊆ R) :
    (c.setBp r b).away S R = c.away S R := by
  unfold Chip.setBp
  simp (disch := first
      | (apply mem_of_sub hR; decide) | (refine List.Subset.trans ?_ hR; decide) | decide) only [Chip.away_setBit_many, Chip.away_setBitmap]

theorem Chip.away_bpJudge {r : Nat} (hR : [.evt .hostq, .one HOSTQ.CR_BP_HI_BP, .one HOSTQ.CR_BP_LO_BP, .many HOSTQ.CR_STATUS_BACKPRESSURE] ⊆ R) :
    (c.bpJudge r).away S R = c.away S R := by
  unfold Chip.bpJudge
  simp (disch := first
      | (apply mem_of_sub hR; decide) | (refine List.Subset.trans ?_ hR; decide) | decide) only [Chip.away_ite, ite_self, Chip.away_raise,
      Chip.away_setBp]

theorem Chip.away_owedClear  (hS : [.hostq] ⊆ S) (hR : [.evt .hostq, .one HOSTQ.CR_BP_HI_BP, .one HOSTQ.CR_BP_LO_BP,
    .many HOSTQ.CR_STATUS_BACKPRESSURE] ⊆ R) :
    (c.owedClear).away S R = c.away S R := by
  unfold Chip.owedClear
  simp (disch := first
      | (apply mem_of_sub hS; decide) | (refine List.Subset.trans ?_ hS; decide) | (apply mem_of_sub hR; decide)
      | (refine List.Subset.trans ?_ hR; decide) | (intro _ _ _; simp (disch := first
        | (apply mem_of_sub hS; decide) | (refine List.Subset.trans ?_ hS; decide) | (apply mem_of_sub hR; decide)
        | (refine List.Subset.trans ?_ hR; decide) | decide) only [Chip.away_ite, ite_self, Chip.away_foldl, Chip.away_bpJudge,
        Chip.away_updHostq]) | decide) only [Chip.away_foldl, Chip.away_updHostq]

theorem Chip.away_setSqState {q : Nat} {v : Nat} (hR : [.many HOSTQ.SQ_STATUS_STATE] ⊆ R) :
    (c.setSqState q v).away S R = c.away S R := by
  unfold Chip.setSqState
  simp (disch := first | (apply mem_of_sub hR; decide) | (refine List.Subset.trans ?_ hR; decide) | decide) only [Chip.away_setFld_many]

theorem Chip.away_sqAttn {q : Nat} (hR : [.many HOSTQ.SQ_ATTN_ATTN, .one HOSTQ.SQ_GRP_EVT_ATTN] ⊆ R) :
    (c.sqAttn q).away S R = c.away S R := by
  unfold Chip.sqAttn
  simp (disch := first | (apply mem_of_sub hR; decide) | (refine List.Subset.trans ?_ hR; decide) | decide) only [Chip.away_flag, Chip.away_flag_many]

theorem Chip.away_sqGoOff {q : Nat} (hR : [.many HOSTQ.SQ_ATTN_ATTN, .one HOSTQ.SQ_GRP_EVT_ATTN, .many HOSTQ.SQ_STATUS_STATE] ⊆ R) :
    (c.sqGoOff q).away S R = c.away S R := by
  unfold Chip.sqGoOff
  simp (disch := first
      | (apply mem_of_sub hR; decide) | (refine List.Subset.trans ?_ hR; decide) | decide) only [Chip.away_setSqState, Chip.away_sqAttn]

theorem Chip.away_rxDrop {p : Packet} (hS : [.buffer, .txOps, .reel, .hostq, .hank, .distaff] ⊆ S) (hR : [.evt .reel,
    .one DISTAFF.ITEMS_OUT_COUNT, .one HANK.TX_MSGS_COUNT, .many HOSTQ.LEDGER_ENTRY0_FROZEN, .many HOSTQ.LEDGER_ENTRY0_STATE,
    .many HOSTQ.LEDGER_ENTRY0_STATUS, .many HOSTQ.LEDGER_ENTRY1_PROGRESS, .one HOSTQ.PARTIALS_COUNT, .one REELGATE.XOFF_COUNT_COUNT] ⊆ R) :
    (c.rxDrop p).away S R = c.away S R := by
  unfold Chip.rxDrop
  simp (disch := first
      | (apply mem_of_sub hS; decide) | (refine List.Subset.trans ?_ hS; decide) | (apply mem_of_sub hR; decide)
      | (refine List.Subset.trans ?_ hR; decide) | decide) only [Chip.away_setQueue, Chip.away_dropCopy]

theorem Chip.away_rxHoldDrop {p : Packet} (hS : [.buffer, .txOps, .reel, .hostq, .hank, .distaff] ⊆ S) (hR : [.evt .hostq, .evt .reel,
    .one DISTAFF.ITEMS_OUT_COUNT, .one HANK.TX_MSGS_COUNT, .many HOSTQ.LEDGER_ENTRY0_FROZEN, .many HOSTQ.LEDGER_ENTRY0_STATE,
    .many HOSTQ.LEDGER_ENTRY0_STATUS, .many HOSTQ.LEDGER_ENTRY1_PROGRESS, .one HOSTQ.PARTIALS_COUNT, .one HOSTQ.RX_HOLD_DROP_COUNT,
    .one REELGATE.XOFF_COUNT_COUNT] ⊆ R) :
    (c.rxHoldDrop p).away S R = c.away S R := by
  unfold Chip.rxHoldDrop
  simp (disch := first
      | (apply mem_of_sub hS; decide) | (refine List.Subset.trans ?_ hS; decide) | (apply mem_of_sub hR; decide)
      | (refine List.Subset.trans ?_ hR; decide) | decide) only [Chip.away_bump, Chip.away_raise, Chip.away_rxDrop]

theorem Chip.away_setCrBufs {r : Nat} {l : List (Nat × Nat)} (hS : [.hostq] ⊆ S) :
    (c.setCrBufs r l).away S R = c.away S R := by
  unfold Chip.setCrBufs
  simp (disch := first | (apply mem_of_sub hS; decide) | (refine List.Subset.trans ?_ hS; decide) | decide) only [Chip.away_updHostq]

theorem Chip.away_crOff {r : Nat} (hS : [.buffer, .txOps, .reel, .hostq, .hank, .distaff] ⊆ S) (hR : [.evt .hostq, .evt .reel,
    .one DISTAFF.ITEMS_OUT_COUNT, .one HANK.TX_MSGS_COUNT, .many HOSTQ.CR_STATUS_ENABLED, .many HOSTQ.LEDGER_ENTRY0_FROZEN,
    .many HOSTQ.LEDGER_ENTRY0_STATE, .many HOSTQ.LEDGER_ENTRY0_STATUS, .many HOSTQ.LEDGER_ENTRY1_PROGRESS, .one HOSTQ.PARTIALS_COUNT,
    .one HOSTQ.RX_HOLD_DROP_COUNT, .one REELGATE.XOFF_COUNT_COUNT] ⊆ R) :
    (c.crOff r).away S R = c.away S R := by
  unfold Chip.crOff
  simp (disch := first
      | (apply mem_of_sub hS; decide) | (refine List.Subset.trans ?_ hS; decide) | (apply mem_of_sub hR; decide)
      | (refine List.Subset.trans ?_ hR; decide) | (intro _ _ _; simp (disch := first
        | (apply mem_of_sub hS; decide) | (refine List.Subset.trans ?_ hS; decide) | (apply mem_of_sub hR; decide)
        | (refine List.Subset.trans ?_ hR; decide) | decide) only [Chip.away_ite, ite_self, Chip.away_foldl, Chip.away_setFld,
        Chip.away_setFld_many, Chip.away_rxHoldDrop, Chip.away_setCrBufs]) | decide) only [Chip.away_foldl, Chip.away_setFld_many,
        Chip.away_setCrBufs]

theorem Chip.away_safeFreeze  (hS : [.buffer, .txOps, .reel, .hostq, .hank, .distaff] ⊆ S) (hR : [.evt .hostq, .evt .reel,
    .one DISTAFF.ITEMS_OUT_COUNT, .one HANK.TX_MSGS_COUNT, .one HOSTQ.CR_BP_HI_BP, .one HOSTQ.CR_BP_LO_BP, .many HOSTQ.CR_STATUS_BACKPRESSURE,
    .many HOSTQ.CR_STATUS_ENABLED, .many HOSTQ.LEDGER_ENTRY0_FROZEN, .many HOSTQ.LEDGER_ENTRY0_STATE, .many HOSTQ.LEDGER_ENTRY0_STATUS,
    .many HOSTQ.LEDGER_ENTRY1_PROGRESS, .one HOSTQ.PARTIALS_COUNT, .one HOSTQ.RX_HOLD_DROP_COUNT, .many HOSTQ.SQ_ATTN_ATTN,
    .one HOSTQ.SQ_GRP_EVT_ATTN, .many HOSTQ.SQ_STATUS_CAUSE, .many HOSTQ.SQ_STATUS_STATE, .one REELGATE.XOFF_COUNT_COUNT] ⊆ R) :
    (c.safeFreeze).away S R = c.away S R := by
  unfold Chip.safeFreeze
  simp (disch := first
      | (apply mem_of_sub hS; decide) | (refine List.Subset.trans ?_ hS; decide) | (apply mem_of_sub hR; decide)
      | (refine List.Subset.trans ?_ hR; decide) | (intro _ _ _; simp (disch := first
        | (apply mem_of_sub hS; decide) | (refine List.Subset.trans ?_ hS; decide) | (apply mem_of_sub hR; decide)
        | (refine List.Subset.trans ?_ hR; decide) | decide) only [Chip.away_ite, ite_self, Chip.away_foldl, Chip.away_raise, Chip.away_setFld,
        Chip.away_setFld_many, Chip.away_freezeTag, Chip.away_owedClear, Chip.away_sqGoOff, Chip.away_crOff]) | decide) only [Chip.away_foldl,
        Chip.away_raise, Chip.away_owedClear]

theorem Chip.away_coreTry  (hS : [.power] ⊆ S) (hR : [.evt .power, .one POWER.LEAVE_GRANTS_COUNT] ⊆ R) :
    (c.coreTry).away S R = c.away S R := by
  unfold Chip.coreTry
  simp (disch := first
      | (apply mem_of_sub hS; decide) | (refine List.Subset.trans ?_ hS; decide) | (apply mem_of_sub hR; decide)
      | (refine List.Subset.trans ?_ hR; decide) | decide) only [Chip.away_ite, ite_self, Chip.away_requestLeave]

theorem Chip.away_safePower  (hS : [.modes, .power, .buffer, .txOps, .reel, .carder, .hankIn, .hostq, .hank, .distaff, .segs] ⊆ S)
    (hR : [.evt .carder, .evt .reel, .one CARDER.BANK_STATUS_BANK_FREE, .one CARDER.INFLIGHT_BANK_A, .one CARDER.INFLIGHT_BANK_B,
    .one DISTAFF.ITEMS_OUT_COUNT, .one DRAM.STATUS_SELF_REFRESH, .one GLOBAL.BUFFER_DISCARDS_COUNT, .one HANK.TX_MSGS_COUNT,
    .many HOSTQ.LEDGER_ENTRY0_FROZEN, .many HOSTQ.LEDGER_ENTRY0_STATE, .many HOSTQ.LEDGER_ENTRY0_STATUS, .many HOSTQ.LEDGER_ENTRY1_PROGRESS,
    .one HOSTQ.PARTIALS_COUNT, .one POWER.DOMAIN_STATE_CORE, .one POWER.DOMAIN_STATE_HOST, .one POWER.DOMAIN_STATE_MEM,
    .one REELGATE.XOFF_COUNT_COUNT] ⊆ R) :
    (c.safePower).away S R = c.away S R := by
  unfold Chip.safePower
  simp (disch := first
      | (apply mem_of_sub hS; decide) | (refine List.Subset.trans ?_ hS; decide) | (apply mem_of_sub hR; decide)
      | (refine List.Subset.trans ?_ hR; decide) | decide) only [Chip.away_powerDown, Chip.away_updModes]

theorem Chip.away_setCtxW {i : Nat} {w : Nat} {v : Nat} (hS : [.reel] ⊆ S) :
    (c.setCtxW i w v).away S R = c.away S R := by
  unfold Chip.setCtxW
  simp (disch := first | (apply mem_of_sub hS; decide) | (refine List.Subset.trans ?_ hS; decide) | decide) only [Chip.away_withReel]

theorem Chip.away_ctxWake  (hS : [.reel] ⊆ S) :
    (c.ctxWake).away S R = c.away S R := by
  unfold Chip.ctxWake
  simp (disch := first
      | (apply mem_of_sub hS; decide) | (refine List.Subset.trans ?_ hS; decide) | (intro _ _ _; simp (disch := first
        | (apply mem_of_sub hS; decide) | (refine List.Subset.trans ?_ hS; decide) | decide) only [Chip.away_ite, ite_self, Chip.away_foldl,
        Chip.away_setCtxW]) | decide) only [Chip.away_foldl]

theorem Chip.away_setCtxF {i : Nat} {w : Nat} {hi : Nat} {lo : Nat} {v : Nat} (hS : [.reel] ⊆ S) :
    (c.setCtxF i w hi lo v).away S R = c.away S R := by
  unfold Chip.setCtxF
  simp (disch := first | (apply mem_of_sub hS; decide) | (refine List.Subset.trans ?_ hS; decide) | decide) only [Chip.away_setCtxW]

theorem Chip.away_setHist {i : Nat} {h : Nat} (hS : [.reel] ⊆ S) :
    (c.setHist i h).away S R = c.away S R := by
  unfold Chip.setHist
  simp (disch := first | (apply mem_of_sub hS; decide) | (refine List.Subset.trans ?_ hS; decide) | decide) only [Chip.away_setCtxW]

theorem Chip.away_plyWake  (hS : [.reel, .ply] ⊆ S) (hR : [.evt .ply, .one PLY.WAKE_RESETS_COUNT] ⊆ R) :
    (c.plyWake).away S R = c.away S R := by
  unfold Chip.plyWake
  simp (disch := first
      | (apply mem_of_sub hS; decide) | (refine List.Subset.trans ?_ hS; decide) | (apply mem_of_sub hR; decide)
      | (refine List.Subset.trans ?_ hR; decide) | (intro _ _ _; simp (disch := first
        | (apply mem_of_sub hS; decide) | (refine List.Subset.trans ?_ hS; decide) | (apply mem_of_sub hR; decide)
        | (refine List.Subset.trans ?_ hR; decide) | decide) only [Chip.away_ite, ite_self, Chip.away_foldl, Chip.away_bump, Chip.away_raise,
        Chip.away_withPly, Chip.away_setCtxF, Chip.away_setHist]) | decide) only [Chip.away_ite, ite_self, Chip.away_foldl, Chip.away_bump,
        Chip.away_raise, Chip.away_withPly]

theorem Chip.away_updMirror {f : Mirror → Mirror} (hS : [.mirror] ⊆ S) :
    (c.updMirror f).away S R = c.away S R := by
  unfold Chip.updMirror
  simp (disch := first | (apply mem_of_sub hS; decide) | (refine List.Subset.trans ?_ hS; decide) | decide) only [Chip.away_withMirror]

theorem Chip.away_sqError {q : Nat} {cause : Nat} (hR : [.many HOSTQ.SQ_ATTN_ATTN, .one HOSTQ.SQ_GRP_EVT_ATTN, .many HOSTQ.SQ_STATUS_CAUSE,
    .many HOSTQ.SQ_STATUS_STATE] ⊆ R) :
    (c.sqError q cause).away S R = c.away S R := by
  unfold Chip.sqError
  simp (disch := first
      | (apply mem_of_sub hR; decide) | (refine List.Subset.trans ?_ hR; decide) | decide) only [Chip.away_setFld_many, Chip.away_setSqState,
      Chip.away_sqAttn]

theorem Chip.away_sqDoorbell {q : Nat} {v : Nat} (hR : [.evt .hostq, .one HOSTQ.DB_ERRORS_COUNT, .one HOSTQ.DB_IGNORED_COUNT,
    .many HOSTQ.SQ_ATTN_ATTN, .one HOSTQ.SQ_GRP_EVT_ATTN, .many HOSTQ.SQ_PROD_INDEX, .many HOSTQ.SQ_STATUS_CAUSE, .many HOSTQ.SQ_STATUS_STATE] ⊆ R) :
    (c.sqDoorbell q v).away S R = c.away S R := by
  unfold Chip.sqDoorbell
  simp (disch := first
      | (apply mem_of_sub hR; decide) | (refine List.Subset.trans ?_ hR; decide) | decide) only [Chip.away_ite, ite_self, Chip.away_bump,
      Chip.away_raise, Chip.away_setFld_many, Chip.away_sqError]

theorem Chip.away_eccReport {store : Nat} {addr : Nat} {uncorr : Bool} (hR : [.evt .global, .many GLOBAL.ECC_CORR_COUNT,
    .one GLOBAL.ECC_LAST_ADDR, .one GLOBAL.ECC_LAST_STORE, .one GLOBAL.ECC_LAST_UNCORR, .many GLOBAL.ECC_UNCORR_COUNT,
    .one GLOBAL.SAFE_CAUSE_ECC_FATAL] ⊆ R) :
    (c.eccReport store addr uncorr).away S R = c.away S R := by
  unfold Chip.eccReport
  simp (disch := first
      | (apply mem_of_sub hR; decide) | (refine List.Subset.trans ?_ hR; decide) | decide) only [Chip.away_ite, ite_self, Chip.away_bump_many,
      Chip.away_flag, Chip.away_raise, Chip.away_setBit, Chip.away_setFld]

theorem Chip.away_tellBad {id : Option Nat} {b : BadWord} (hS : [.ecc, .freeCtr] ⊆ S) (hR : [.evt .global, .many GLOBAL.ECC_CORR_COUNT,
    .one GLOBAL.ECC_LAST_ADDR, .one GLOBAL.ECC_LAST_STORE, .one GLOBAL.ECC_LAST_UNCORR, .many GLOBAL.ECC_UNCORR_COUNT,
    .one GLOBAL.SAFE_CAUSE_ECC_FATAL] ⊆ R) :
    (Chip.tellBad id c b).away S R = c.away S R := by
  unfold Chip.tellBad
  extract_lets stays src c1
  have h1 : c1.away S R = c.away S R := by simp (disch := first
      | (apply mem_of_sub hS; decide) | (refine List.Subset.trans ?_ hS; decide) | (apply mem_of_sub hR; decide)
      | (refine List.Subset.trans ?_ hR; decide) | decide) only [c1, Chip.away_withEcc]
  clear_value c1
  split
  · exact h1
  split
  · simp (disch := first
      | (apply mem_of_sub hS; decide) | (refine List.Subset.trans ?_ hS; decide) | (apply mem_of_sub hR; decide)
      | (refine List.Subset.trans ?_ hR; decide) | decide) only [h1, Chip.away_eccReport]
  · simp (disch := first
      | (apply mem_of_sub hS; decide) | (refine List.Subset.trans ?_ hS; decide) | (apply mem_of_sub hR; decide)
      | (refine List.Subset.trans ?_ hR; decide) | decide) only [h1, Chip.away_drawn, Chip.away_eccReport]

theorem Chip.away_sramRead {id : Option Nat} {reads : SramWord → Bool} (hS : [.ecc, .freeCtr] ⊆ S) (hR : [.evt .global,
    .many GLOBAL.ECC_CORR_COUNT, .one GLOBAL.ECC_LAST_ADDR, .one GLOBAL.ECC_LAST_STORE, .one GLOBAL.ECC_LAST_UNCORR,
    .many GLOBAL.ECC_UNCORR_COUNT, .one GLOBAL.SAFE_CAUSE_ECC_FATAL] ⊆ R) :
    (c.sramRead id reads).1.away S R = c.away S R := by
  unfold Chip.sramRead
  exact Chip.away_foldl fun d b _ => by simp (disch := first
      | (apply mem_of_sub hS; decide) | (refine List.Subset.trans ?_ hS; decide) | (apply mem_of_sub hR; decide)
      | (refine List.Subset.trans ?_ hR; decide) | decide) only [Chip.away_tellBad]

theorem Chip.away_opFree {t : Nat} (hS : [.txOps, .hostq] ⊆ S) (hR : [.many HOSTQ.LEDGER_ENTRY0_FROZEN, .many HOSTQ.LEDGER_ENTRY0_OPCODE,
    .many HOSTQ.LEDGER_ENTRY0_PARKED, .many HOSTQ.LEDGER_ENTRY0_SQ, .many HOSTQ.LEDGER_ENTRY0_STATE, .many HOSTQ.LEDGER_ENTRY0_STATUS,
    .many HOSTQ.LEDGER_ENTRY1_CR, .many HOSTQ.LEDGER_ENTRY1_PROGRESS] ⊆ R) :
    (c.opFree t).away S R = c.away S R := by
  unfold Chip.opFree
  extract_lets q rows c1 c2
  have h1 : c1.away S R = c.away S R := by simp (disch := first
      | (apply mem_of_sub hS; decide) | (refine List.Subset.trans ?_ hS; decide) | (apply mem_of_sub hR; decide)
      | (refine List.Subset.trans ?_ hR; decide) | decide) only [c1, rows, List.foldl, Chip.away_setFld_many]
  clear_value c1
  have h2 : c2.away S R = c1.away S R := by simp (disch := first
      | (apply mem_of_sub hS; decide) | (refine List.Subset.trans ?_ hS; decide) | (apply mem_of_sub hR; decide)
      | (refine List.Subset.trans ?_ hR; decide) | decide) only [c2, Chip.away_withTxOps]
  clear_value c2
  simp (disch := first
      | (apply mem_of_sub hS; decide) | (refine List.Subset.trans ?_ hS; decide) | (apply mem_of_sub hR; decide)
      | (refine List.Subset.trans ?_ hR; decide) | decide) only [h2, h1, Chip.away_updHostq]

theorem Chip.away_hostWrite {addr : Nat} {bytes : List Byte} (hS : [.hostWrites] ⊆ S) :
    (c.hostWrite addr bytes).away S R = c.away S R := by
  unfold Chip.hostWrite
  simp (disch := first | (apply mem_of_sub hS; decide) | (refine List.Subset.trans ?_ hS; decide) | decide) only [Chip.away_withHostWrites]

theorem Chip.away_shadowEmit {k : Nat} (hS : [.hostq, .hostWrites] ⊆ S) :
    (c.shadowEmit k).away S R = c.away S R := by
  unfold Chip.shadowEmit
  simp (disch := first
      | (apply mem_of_sub hS; decide) | (refine List.Subset.trans ?_ hS; decide) | decide) only [Chip.away_updHostq, Chip.away_hostWrite]

theorem Chip.away_crEntry {r : Nat} {w0 : Nat} {rest : List Nat} (hS : [.hostWrites] ⊆ S) (hR : [.one HOSTQ.CR_EVT_HI_WRITTEN,
    .one HOSTQ.CR_EVT_LO_WRITTEN, .many HOSTQ.CR_TAIL_INDEX] ⊆ R) :
    (c.crEntry r w0 rest).away S R = c.away S R := by
  unfold Chip.crEntry
  extract_lets t base c1
  have h1 : c1.away S R = c.away S R := by simp (disch := first
      | (apply mem_of_sub hS; decide) | (refine List.Subset.trans ?_ hS; decide) | (apply mem_of_sub hR; decide)
      | (refine List.Subset.trans ?_ hR; decide) | decide) only [c1, Chip.away_hostWrite]
  clear_value c1
  split
  · simp (disch := first
      | (apply mem_of_sub hS; decide) | (refine List.Subset.trans ?_ hS; decide) | (apply mem_of_sub hR; decide)
      | (refine List.Subset.trans ?_ hR; decide) | decide) only [h1, Chip.away_flag, Chip.away_setFld_many]
  · simp (disch := first
      | (apply mem_of_sub hS; decide) | (refine List.Subset.trans ?_ hS; decide) | (apply mem_of_sub hR; decide)
      | (refine List.Subset.trans ?_ hR; decide) | decide) only [h1, Chip.away_flag, Chip.away_setFld_many]

theorem Chip.away_deliver {t : Nat} (hS : [.ecc, .freeCtr, .txOps, .hostq, .hostWrites] ⊆ S) (hR : [.evt .global, .many GLOBAL.ECC_CORR_COUNT,
    .one GLOBAL.ECC_LAST_ADDR, .one GLOBAL.ECC_LAST_STORE, .one GLOBAL.ECC_LAST_UNCORR, .many GLOBAL.ECC_UNCORR_COUNT,
    .one GLOBAL.SAFE_CAUSE_ECC_FATAL, .one HOSTQ.CR_EVT_HI_WRITTEN, .one HOSTQ.CR_EVT_LO_WRITTEN, .many HOSTQ.CR_TAIL_INDEX,
    .many HOSTQ.LEDGER_ENTRY0_FROZEN, .many HOSTQ.LEDGER_ENTRY0_OPCODE, .many HOSTQ.LEDGER_ENTRY0_PARKED, .many HOSTQ.LEDGER_ENTRY0_SQ,
    .many HOSTQ.LEDGER_ENTRY0_STATE, .many HOSTQ.LEDGER_ENTRY0_STATUS, .many HOSTQ.LEDGER_ENTRY1_CR, .many HOSTQ.LEDGER_ENTRY1_PROGRESS] ⊆ R) :
    (c.deliver t).away S R = c.away S R := by
  unfold Chip.deliver
  extract_lets c1 q c2
  have h1 : c1.away S R = c.away S R := by simp (disch := first
      | (apply mem_of_sub hS; decide) | (refine List.Subset.trans ?_ hS; decide) | (apply mem_of_sub hR; decide)
      | (refine List.Subset.trans ?_ hR; decide) | decide) only [c1, Chip.away_sramRead]
  have h2 : c2.away S R = c1.away S R := by simp (disch := first
      | (apply mem_of_sub hS; decide) | (refine List.Subset.trans ?_ hS; decide) | (apply mem_of_sub hR; decide)
      | (refine List.Subset.trans ?_ hR; decide) | decide) only [c2, Chip.away_ite, ite_self, Chip.away_shadowEmit]
  clear_value c2 c1
  split
  · simp (disch := first
      | (apply mem_of_sub hS; decide) | (refine List.Subset.trans ?_ hS; decide) | (apply mem_of_sub hR; decide)
      | (refine List.Subset.trans ?_ hR; decide) | decide) only [h1, Chip.away_opFree]
  split
  simp (disch := first
      | (apply mem_of_sub hS; decide) | (refine List.Subset.trans ?_ hS; decide) | (apply mem_of_sub hR; decide)
      | (refine List.Subset.trans ?_ hR; decide) | decide) only [h2, h1, Chip.away_opFree, Chip.away_crEntry]

theorem Chip.away_drainGo {r fuel : Nat} (hS : [.ecc, .freeCtr, .txOps, .hostq, .hostWrites] ⊆ S) (hR : [.evt .global,
    .many GLOBAL.ECC_CORR_COUNT, .one GLOBAL.ECC_LAST_ADDR, .one GLOBAL.ECC_LAST_STORE, .one GLOBAL.ECC_LAST_UNCORR,
    .many GLOBAL.ECC_UNCORR_COUNT, .one GLOBAL.SAFE_CAUSE_ECC_FATAL, .one HOSTQ.CR_EVT_HI_WRITTEN, .one HOSTQ.CR_EVT_LO_WRITTEN,
    .many HOSTQ.CR_TAIL_INDEX, .many HOSTQ.LEDGER_ENTRY0_FROZEN, .many HOSTQ.LEDGER_ENTRY0_OPCODE, .many HOSTQ.LEDGER_ENTRY0_PARKED,
    .many HOSTQ.LEDGER_ENTRY0_SQ, .many HOSTQ.LEDGER_ENTRY0_STATE, .many HOSTQ.LEDGER_ENTRY0_STATUS, .many HOSTQ.LEDGER_ENTRY1_CR,
    .many HOSTQ.LEDGER_ENTRY1_PROGRESS] ⊆ R) :
    (Chip.drainGo r fuel c).away S R = c.away S R := by
  induction fuel generalizing c with
  | zero => rfl
  | succ fuel ih =>
    unfold Chip.drainGo
    split
    · split
      · rw [ih]
        simp (disch := first
            | (apply mem_of_sub hS; decide) | (refine List.Subset.trans ?_ hS; decide) | (apply mem_of_sub hR; decide)
            | (refine List.Subset.trans ?_ hR; decide) | decide) only [Chip.away_deliver]
      · rfl
    · rfl

theorem Chip.away_drain {r : Nat} (hS : [.ecc, .freeCtr, .txOps, .hostq, .hostWrites] ⊆ S) (hR : [.evt .global, .evt .hostq,
    .many GLOBAL.ECC_CORR_COUNT, .one GLOBAL.ECC_LAST_ADDR, .one GLOBAL.ECC_LAST_STORE, .one GLOBAL.ECC_LAST_UNCORR,
    .many GLOBAL.ECC_UNCORR_COUNT, .one GLOBAL.SAFE_CAUSE_ECC_FATAL, .one HOSTQ.CR_BP_HI_BP, .one HOSTQ.CR_BP_LO_BP,
    .one HOSTQ.CR_EVT_HI_WRITTEN, .one HOSTQ.CR_EVT_LO_WRITTEN, .many HOSTQ.CR_STATUS_BACKPRESSURE, .many HOSTQ.CR_TAIL_INDEX,
    .many HOSTQ.LEDGER_ENTRY0_FROZEN, .many HOSTQ.LEDGER_ENTRY0_OPCODE, .many HOSTQ.LEDGER_ENTRY0_PARKED, .many HOSTQ.LEDGER_ENTRY0_SQ,
    .many HOSTQ.LEDGER_ENTRY0_STATE, .many HOSTQ.LEDGER_ENTRY0_STATUS, .many HOSTQ.LEDGER_ENTRY1_CR, .many HOSTQ.LEDGER_ENTRY1_PROGRESS] ⊆ R) :
    (c.drain r).away S R = c.away S R := by
  unfold Chip.drain
  simp (disch := first
      | (apply mem_of_sub hS; decide) | (refine List.Subset.trans ?_ hS; decide) | (apply mem_of_sub hR; decide)
      | (refine List.Subset.trans ?_ hR; decide) | decide) only [Chip.away_drainGo, Chip.away_bpJudge]

theorem Chip.away_fillBufs {size : Nat} {l : List (Nat × Nat)} {f : List Byte} (hS : [.hostWrites] ⊆ S) :
    (Chip.fillBufs size l f c).away S R = c.away S R := by
  induction l generalizing c f with
  | nil => rfl
  | cons x l ih =>
    rw [Chip.fillBufs, ih]
    simp (disch := first | (apply mem_of_sub hS; decide) | (refine List.Subset.trans ?_ hS; decide) | decide) only [Chip.away_hostWrite]

theorem Chip.away_opStarted {t : Nat} (hR : [.many HOSTQ.LEDGER_ENTRY0_STATE] ⊆ R) :
    (c.opStarted t).away S R = c.away S R := by
  unfold Chip.opStarted
  simp (disch := first
      | (apply mem_of_sub hR; decide) | (refine List.Subset.trans ?_ hR; decide) | decide) only [Chip.away_ite, ite_self, Chip.away_setTagState]

theorem Chip.away_place {r : Nat} {p : Packet} (hS : [.buffer, .txOps, .reel, .hostq, .hank, .distaff, .hostWrites] ⊆ S) (hR : [.evt .reel,
    .one DISTAFF.ITEMS_OUT_COUNT, .one HANK.TX_MSGS_COUNT, .one HOSTQ.CR_EVT_HI_WRITTEN, .one HOSTQ.CR_EVT_LO_WRITTEN, .many HOSTQ.CR_TAIL_INDEX,
    .many HOSTQ.LEDGER_ENTRY0_FROZEN, .many HOSTQ.LEDGER_ENTRY0_STATE, .many HOSTQ.LEDGER_ENTRY0_STATUS, .many HOSTQ.LEDGER_ENTRY1_PROGRESS,
    .one HOSTQ.PARTIALS_COUNT, .one HOSTQ.RX_FRAMES_COUNT, .one REELGATE.XOFF_COUNT_COUNT] ⊆ R) :
    (c.place r p).away S R = c.away S R := by
  unfold Chip.place
  extract_lets n l first c1 c2 c3
  have h1 : c1.away S R = c.away S R := by simp (disch := first
      | (apply mem_of_sub hS; decide) | (refine List.Subset.trans ?_ hS; decide) | (apply mem_of_sub hR; decide)
      | (refine List.Subset.trans ?_ hR; decide) | decide) only [c1, Chip.away_setQueue, Chip.away_setCrBufs]
  clear_value c1
  have h2 : c2.away S R = c1.away S R := by
    unfold c2
    split
    · simp (disch := first
        | (apply mem_of_sub hS; decide) | (refine List.Subset.trans ?_ hS; decide) | (apply mem_of_sub hR; decide)
        | (refine List.Subset.trans ?_ hR; decide) | decide) only [Chip.away_opStarted]
    · rfl
  clear_value c2
  have h3 : c3.away S R = c2.away S R := by simp (disch := first
      | (apply mem_of_sub hS; decide) | (refine List.Subset.trans ?_ hS; decide) | (apply mem_of_sub hR; decide)
      | (refine List.Subset.trans ?_ hR; decide) | decide) only [c3, Chip.away_fillBufs]
  clear_value c3
  split
  simp (disch := first
      | (apply mem_of_sub hS; decide) | (refine List.Subset.trans ?_ hS; decide) | (apply mem_of_sub hR; decide)
      | (refine List.Subset.trans ?_ hR; decide) | decide) only [h3, h2, h1, Chip.away_bump, Chip.away_crEntry, Chip.away_copyFate]

theorem Chip.away_rxRetryGo {r fuel : Nat} (hS : [.buffer, .txOps, .reel, .hostq, .hank, .distaff, .hostWrites] ⊆ S) (hR : [.evt .reel,
    .one DISTAFF.ITEMS_OUT_COUNT, .one HANK.TX_MSGS_COUNT, .one HOSTQ.CR_EVT_HI_WRITTEN, .one HOSTQ.CR_EVT_LO_WRITTEN, .many HOSTQ.CR_TAIL_INDEX,
    .many HOSTQ.LEDGER_ENTRY0_FROZEN, .many HOSTQ.LEDGER_ENTRY0_STATE, .many HOSTQ.LEDGER_ENTRY0_STATUS, .many HOSTQ.LEDGER_ENTRY1_PROGRESS,
    .one HOSTQ.PARTIALS_COUNT, .one HOSTQ.RX_FRAMES_COUNT, .one REELGATE.XOFF_COUNT_COUNT] ⊆ R) :
    (Chip.rxRetryGo r fuel c).away S R = c.away S R := by
  induction fuel generalizing c with
  | zero => rfl
  | succ fuel ih =>
    unfold Chip.rxRetryGo
    split
    · split
      · rw [ih]
        simp (disch := first
            | (apply mem_of_sub hS; decide) | (refine List.Subset.trans ?_ hS; decide) | (apply mem_of_sub hR; decide)
            | (refine List.Subset.trans ?_ hR; decide) | decide) only [Chip.away_place]
      · rfl
    · rfl

theorem Chip.away_rxRetry {r : Nat} (hS : [.buffer, .txOps, .reel, .hostq, .hank, .distaff, .hostWrites] ⊆ S) (hR : [.evt .reel,
    .one DISTAFF.ITEMS_OUT_COUNT, .one HANK.TX_MSGS_COUNT, .one HOSTQ.CR_EVT_HI_WRITTEN, .one HOSTQ.CR_EVT_LO_WRITTEN, .many HOSTQ.CR_TAIL_INDEX,
    .many HOSTQ.LEDGER_ENTRY0_FROZEN, .many HOSTQ.LEDGER_ENTRY0_STATE, .many HOSTQ.LEDGER_ENTRY0_STATUS, .many HOSTQ.LEDGER_ENTRY1_PROGRESS,
    .one HOSTQ.PARTIALS_COUNT, .one HOSTQ.RX_FRAMES_COUNT, .one REELGATE.XOFF_COUNT_COUNT] ⊆ R) :
    (c.rxRetry r).away S R = c.away S R := by
  unfold Chip.rxRetry
  simp (disch := first
      | (apply mem_of_sub hS; decide) | (refine List.Subset.trans ?_ hS; decide) | (apply mem_of_sub hR; decide)
      | (refine List.Subset.trans ?_ hR; decide) | decide) only [Chip.away_rxRetryGo]

theorem Chip.away_hostWake  (hS : [.ecc, .freeCtr, .buffer, .txOps, .reel, .hostq, .hank, .distaff, .hostWrites] ⊆ S) (hR : [.evt .global,
    .evt .hostq, .evt .reel, .one DISTAFF.ITEMS_OUT_COUNT, .many GLOBAL.ECC_CORR_COUNT, .one GLOBAL.ECC_LAST_ADDR, .one GLOBAL.ECC_LAST_STORE,
    .one GLOBAL.ECC_LAST_UNCORR, .many GLOBAL.ECC_UNCORR_COUNT, .one GLOBAL.SAFE_CAUSE_ECC_FATAL, .one HANK.TX_MSGS_COUNT,
    .one HOSTQ.CR_BP_HI_BP, .one HOSTQ.CR_BP_LO_BP, .one HOSTQ.CR_EVT_HI_WRITTEN, .one HOSTQ.CR_EVT_LO_WRITTEN,
    .many HOSTQ.CR_STATUS_BACKPRESSURE, .many HOSTQ.CR_TAIL_INDEX, .one HOSTQ.DB_ERRORS_COUNT, .one HOSTQ.DB_IGNORED_COUNT,
    .many HOSTQ.LEDGER_ENTRY0_FROZEN, .many HOSTQ.LEDGER_ENTRY0_OPCODE, .many HOSTQ.LEDGER_ENTRY0_PARKED, .many HOSTQ.LEDGER_ENTRY0_SQ,
    .many HOSTQ.LEDGER_ENTRY0_STATE, .many HOSTQ.LEDGER_ENTRY0_STATUS, .many HOSTQ.LEDGER_ENTRY1_CR, .many HOSTQ.LEDGER_ENTRY1_PROGRESS,
    .one HOSTQ.PARTIALS_COUNT, .one HOSTQ.RX_FRAMES_COUNT, .many HOSTQ.SQ_ATTN_ATTN, .one HOSTQ.SQ_GRP_EVT_ATTN, .many HOSTQ.SQ_PROD_INDEX,
    .many HOSTQ.SQ_STATUS_CAUSE, .many HOSTQ.SQ_STATUS_STATE, .one REELGATE.XOFF_COUNT_COUNT] ⊆ R) :
    (c.hostWake).away S R = c.away S R := by
  unfold Chip.hostWake
  extract_lets l c1 c2
  have h1 : c1.away S R = c.away S R := by simp (disch := first
      | (apply mem_of_sub hS; decide) | (refine List.Subset.trans ?_ hS; decide) | (apply mem_of_sub hR; decide)
      | (refine List.Subset.trans ?_ hR; decide) | decide) only [c1, Chip.away_updHostq]
  clear_value c1
  have h2 : c2.away S R = c1.away S R := Chip.away_foldl fun d e _ => Chip.away_foldl fun d v _ => by simp (disch := first
      | (apply mem_of_sub hS; decide) | (refine List.Subset.trans ?_ hS; decide) | (apply mem_of_sub hR; decide)
      | (refine List.Subset.trans ?_ hR; decide) | decide) only [Chip.away_sqDoorbell]
  clear_value c2
  have h3 : ((List.range 64).foldl (fun d r => (d.drain r).rxRetry r) c2).away S R = c2.away S R := Chip.away_foldl fun d r _ => by simp (disch := first
      | (apply mem_of_sub hS; decide) | (refine List.Subset.trans ?_ hS; decide) | (apply mem_of_sub hR; decide)
      | (refine List.Subset.trans ?_ hR; decide) | decide) only [Chip.away_drain, Chip.away_rxRetry]
  rw [h3, h2, h1]

theorem Chip.away_wakeEffect {d : Domain} (hS : [.ecc, .freeCtr, .modes, .whorl, .buffer, .txOps, .reel, .ply, .hostq, .hank, .distaff, .mirror,
    .hostWrites] ⊆ S) (hR : [.evt .global, .evt .hostq, .evt .ply, .evt .reel, .one DISTAFF.ITEMS_OUT_COUNT, .one DRAM.STATUS_SELF_REFRESH,
    .one FLYER.SYNC_STATUS_STATE, .many GLOBAL.ECC_CORR_COUNT, .one GLOBAL.ECC_LAST_ADDR, .one GLOBAL.ECC_LAST_STORE,
    .one GLOBAL.ECC_LAST_UNCORR, .many GLOBAL.ECC_UNCORR_COUNT, .one GLOBAL.SAFE_CAUSE_ECC_FATAL, .one HANK.TX_MSGS_COUNT,
    .one HOSTQ.CR_BP_HI_BP, .one HOSTQ.CR_BP_LO_BP, .one HOSTQ.CR_EVT_HI_WRITTEN, .one HOSTQ.CR_EVT_LO_WRITTEN,
    .many HOSTQ.CR_STATUS_BACKPRESSURE, .many HOSTQ.CR_TAIL_INDEX, .one HOSTQ.DB_ERRORS_COUNT, .one HOSTQ.DB_IGNORED_COUNT,
    .many HOSTQ.LEDGER_ENTRY0_FROZEN, .many HOSTQ.LEDGER_ENTRY0_OPCODE, .many HOSTQ.LEDGER_ENTRY0_PARKED, .many HOSTQ.LEDGER_ENTRY0_SQ,
    .many HOSTQ.LEDGER_ENTRY0_STATE, .many HOSTQ.LEDGER_ENTRY0_STATUS, .many HOSTQ.LEDGER_ENTRY1_CR, .many HOSTQ.LEDGER_ENTRY1_PROGRESS,
    .one HOSTQ.PARTIALS_COUNT, .one HOSTQ.RX_FRAMES_COUNT, .many HOSTQ.SQ_ATTN_ATTN, .one HOSTQ.SQ_GRP_EVT_ATTN, .many HOSTQ.SQ_PROD_INDEX,
    .many HOSTQ.SQ_STATUS_CAUSE, .many HOSTQ.SQ_STATUS_STATE, .one PLY.WAKE_RESETS_COUNT, .one REELGATE.XOFF_COUNT_COUNT] ⊆ R) :
    (c.wakeEffect d).away S R = c.away S R := by
  unfold Chip.wakeEffect
  split
  · extract_lets c1 src1 c2 src2 c3
    have h1 : c1.away S R = c.away S R := by simp (disch := first
        | (apply mem_of_sub hS; decide) | (refine List.Subset.trans ?_ hS; decide) | (apply mem_of_sub hR; decide)
        | (refine List.Subset.trans ?_ hR; decide) | decide) only [c1, Chip.away_ctxWake, Chip.away_plyWake]
    clear_value c1
    have h2 : c2.away S R = c1.away S R := by simp (disch := first
        | (apply mem_of_sub hS; decide) | (refine List.Subset.trans ?_ hS; decide) | (apply mem_of_sub hR; decide)
        | (refine List.Subset.trans ?_ hR; decide) | decide) only [c2, Chip.away_withBuffer]
    clear_value c2
    have h3 : c3.away S R = c2.away S R := by simp (disch := first
        | (apply mem_of_sub hS; decide) | (refine List.Subset.trans ?_ hS; decide) | (apply mem_of_sub hR; decide)
        | (refine List.Subset.trans ?_ hR; decide) | decide) only [c3, Chip.away_withWhorl]
    clear_value c3
    simp (disch := first
        | (apply mem_of_sub hS; decide) | (refine List.Subset.trans ?_ hS; decide) | (apply mem_of_sub hR; decide)
        | (refine List.Subset.trans ?_ hR; decide) | decide) only [h3, h2, h1, Chip.away_updModes]
  · exact Chip.away_foldl fun d n hn => Chip.away_flyEnable (List.Subset.trans (by decide) hR) (List.mem_range.mp hn)
  · simp (disch := first
      | (apply mem_of_sub hS; decide) | (refine List.Subset.trans ?_ hS; decide) | (apply mem_of_sub hR; decide)
      | (refine List.Subset.trans ?_ hR; decide) | decide) only [Chip.away_updMirror, Chip.away_hostWake]
  · simp (disch := first
      | (apply mem_of_sub hS; decide) | (refine List.Subset.trans ?_ hS; decide) | (apply mem_of_sub hR; decide)
      | (refine List.Subset.trans ?_ hR; decide) | decide) only [Chip.away_setFld]
  · rfl

theorem Chip.away_pass1Start  (hR : [.one GLOBAL.IMAGE_STATUS_CAUSE, .one GLOBAL.IMAGE_STATUS_RECORDS, .one GLOBAL.IMAGE_STATUS_STATE] ⊆ R) :
    (c.pass1Start).away S R = c.away S R := by
  unfold Chip.pass1Start
  simp (disch := first | (apply mem_of_sub hR; decide) | (refine List.Subset.trans ?_ hR; decide) | decide) only [Chip.away_setFld, Chip.away_setIm]

theorem Chip.away_imageLoaded  (hS : [.modes] ⊆ S) :
    (c.imageLoaded).away S R = c.away S R := by
  unfold Chip.imageLoaded
  simp (disch := first | (apply mem_of_sub hS; decide) | (refine List.Subset.trans ?_ hS; decide) | decide) only [Chip.away_withModes]

theorem Chip.away_roleFromStraps  (hR : [.evt .global, .one GLOBAL.ROLE_ROLE, .one GLOBAL.ROLE_SETTLED, .one GLOBAL.ROLE_STRAP_ROLE] ⊆ R) :
    (c.roleFromStraps).away S R = c.away S R := by
  unfold Chip.roleFromStraps
  simp (disch := first
      | (apply mem_of_sub hR; decide) | (refine List.Subset.trans ?_ hR; decide) | decide) only [Chip.away_ite, ite_self, Chip.away_raise,
      Chip.away_setBit, Chip.away_setFld]

end

end Sys2Proof.Machine
end

section
/-!
PROOF. A change of mode (R53), and the end of a reset.
-/
namespace Sys2Proof.Machine

variable {c d e : Chip} {st : Straps} {s : State} {p : Port}

/-- The event word of a class is none of the spot. -/
def PageCls.evtApart (a : PageCls) : Spot → Bool
  | .evt b => a.below b || b.below a
  | .one r => (HDR.EVT.row a).apart (.one r)
  | .upto r => (HDR.EVT.row a).apart (.upto r)
  | .many r => (HDR.EVT.row a).apart (.many r)

theorem evt_not_touched {a : PageCls} {R : List Spot} (h : R.all a.evtApart = true) {m : Nat} (hm : m < a.count) : ¬ Touched R (evtKey (a.base + m)) := by
  rintro ⟨x, hx, hk⟩
  have hsep := List.all_eq_true.mp h x hx
  have hother (hev : (HDR.EVT.row a).apart x = true) : False :=
    not_touched (x := HDR.EVT.row a) (R := [x]) (by rw [List.all_cons, hev]; rfl) m 0 hm (by decide) ⟨x, List.mem_singleton.mpr rfl, hk⟩
  cases x with
  | evt b =>
    obtain ⟨n, hn, hk⟩ := hk
    simp only [PageCls.evtApart, PageCls.below, Bool.or_eq_true, decide_eq_true_eq] at hsep
    simp only [evtKey, cellKey, HDR.EVT] at hk
    omega
  | one r => exact hother hsep
  | upto r => exact hother hsep
  | many r => exact hother hsep

/-- An event of a class whose event word is left alone. -/
theorem Chip.Frame.raised_apart {S : List Part} {R : List Spot} (h : c.Frame S (Touched R) d) (v : Evt) (hR : R.all v.cls.evtApart = true) {m : Nat}
    (hm : m < v.cls.count) : d.raised v m = c.raised v m := h.raised v m (evt_not_touched hR hm)

/-- The mode and PREV_MODE change, and MODE_CHANGE is raised. -/
def Chip.modeSet (c : Chip) (m : Nat) : Chip := ((c.setFld GLOBAL.MODE_PREV_MODE c.mode).setFld GLOBAL.MODE_MODE m).raise EV.GLOBAL_MODE_CHANGE

/-- What goes with leaving ACQUIRE. -/
def Chip.acquireLeft (c : Chip) (old : Nat) : Chip := if old = mACQUIRE then (c.setFld GLOBAL.MODE_RUN_ARMED 0).imageLeave else c

/-- What goes with leaving RUN and HOLDOVER: a change of network time that waits is applied whole. -/
def Chip.stepWhole (c : Chip) : Chip :=
  if c.stepState = stWAIT ∧ ¬ c.running then { c with whorl := { c.whorl with step := { c.whorl.step with whole := true, due := c.aon + 1 } } } else c

theorem Chip.setMode_eq {m : Nat} (h : c.mode ≠ m) : c.setMode m = ((c.modeSet m).acquireLeft c.mode).stepWhole.c7EvalAll := if_neg h

theorem Chip.acquireLeft_frame (c : Chip) (old : Nat) : c.Frame [.image] (Touched [.evt .global, .one GLOBAL.IMAGE_STATUS_CAUSE,
    .one GLOBAL.IMAGE_STATUS_HOLD, .one GLOBAL.IMAGE_STATUS_STATE, .one GLOBAL.MODE_RUN_ARMED]) (c.acquireLeft old) := by
  refine Chip.away_eq_iff.mp ?_
  unfold Chip.acquireLeft
  simp (disch := decide) only [Chip.away_ite, Chip.away_imageLeave, Chip.away_setFld, ite_self]

theorem Chip.stepWhole_frame (c : Chip) (K : Nat → Prop) : c.Frame [.whorl] K c.stepWhole :=
  Chip.Frame.ite (fun _ => (Chip.Frame.refl c).withWhorl _ List.mem_cons_self) fun _ => .refl c

theorem Chip.c7EvalAll_frame (c : Chip) : c.Frame [] (Touched [.evt .reel, .one REELGATE.C7_BURST_SUM_CNS, .one REELGATE.C7_COND_FAIL,
    .one REELGATE.C7_COND_OK, .one REELGATE.C7_GATE_WAIT_NS, .one REELGATE.C7_OPEN_FRACTION, .one REELGATE.C7_RATE_SUM_KBPS]) c.c7EvalAll :=
  Chip.away_eq_iff.mp (Chip.away_c7EvalAll (List.Subset.refl _))

/-- An event stays raised while events are only raised. -/
theorem Chip.raised_acquireLeft {v : Evt} {n old : Nat} (hb : v.bit < 32) (h : c.raised v n = true) : (c.acquireLeft old).raised v n = true := by
  have hset (d : Chip) (r : FieldRow) (x : Nat) (hr : 0x040 ≤ r.off ∧ r.off < 4096 ∧ r.lo < 32) (hd : d.raised v n = true) :
      (d.setFld r x).raised v n = true := by
    rw [Chip.raised, Chip.hdr, Chip.get_setFld_ne, ← Chip.hdr, ← Chip.raised]
    · exact hd
    · simp only [FieldRow.key, cellKey, HDR.EVT]
      omega
  unfold Chip.acquireLeft
  split
  · unfold Chip.imageLeave
    have h0 := hset c GLOBAL.MODE_RUN_ARMED 0 (by decide) h
    split
    · refine hset _ _ _ (by decide) (Chip.raised_raise_of_raised _ _ _ _ hb (hset _ _ _ (by decide) (hset _ _ _ (by decide) ?_)))
      exact h0
    · split
      · exact hset _ _ _ (by decide) h0
      · exact h0
  · exact h

theorem mode_lt {m : Nat} (h : m < 8) : m % 2 ^ GLOBAL.MODE_MODE.width = m := Nat.mod_eq_of_lt h

/-- What a change of mode leaves: the mode, PREV_MODE, and its event. -/
theorem Chip.setMode_reads {m : Nat} (h : c.mode ≠ m) (hm : m < 8) (hold : c.mode < 8) :
    (c.setMode m).mode = m ∧ (c.setMode m).fld GLOBAL.MODE_PREV_MODE = c.mode ∧ c.Tells (c.setMode m) EV.GLOBAL_MODE_CHANGE := by
  have hread (r : FieldRow) (hr : r ∈ [GLOBAL.MODE_MODE, GLOBAL.MODE_PREV_MODE]) : (c.setMode m).fld r = (c.modeSet m).fld r := by
    rw [Chip.setMode_eq h]
    have h1 := ((c.modeSet m).acquireLeft_frame c.mode).fld_apart r 0 0
    have h3 := (((c.modeSet m).acquireLeft c.mode).stepWhole.c7EvalAll_frame).fld_apart r 0 0
    have h2 := (((c.modeSet m).acquireLeft c.mode).stepWhole_frame (fun _ => False)).fld r 0 0 (by simp)
    simp only [List.mem_cons, List.not_mem_nil, or_false] at hr
    rcases hr with rfl | rfl
    · rw [h3 (by decide) (by decide) (by decide), h2, h1 (by decide) (by decide) (by decide)]
    · rw [h3 (by decide) (by decide) (by decide), h2, h1 (by decide) (by decide) (by decide)]
  refine ⟨?_, ?_, fun hup => ?_⟩
  · rw [Chip.mode, hread _ (by simp), Chip.modeSet, Chip.fld_raise_ne _ _ _ _ _ _ (by decide), Chip.fld_setFld_self]
    exact Nat.mod_eq_of_lt hm
  · rw [hread _ (by simp), Chip.modeSet, Chip.fld_raise_ne _ _ _ _ _ _ (by decide), Chip.fld_setFld_ne _ _ _ _ _ _ _ _ (by decide),
      Chip.fld_setFld_self]
    exact Nat.mod_eq_of_lt hold
  · have hframe : c.Frame [] (· ∈ [GLOBAL.MODE_PREV_MODE.key 0 0, GLOBAL.MODE_MODE.key 0 0])
        ((c.setFld GLOBAL.MODE_PREV_MODE c.mode).setFld GLOBAL.MODE_MODE m) := by
      refine Chip.but_eq_iff.mp ?_
      simp (disch := decide) only [Chip.but_setFld]
    have hset : (c.modeSet m).raised EV.GLOBAL_MODE_CHANGE = true := hframe.tells_raise _ _ (by decide) (by decide) hup
    rw [Chip.setMode_eq h]
    have h2 := ((c.modeSet m).acquireLeft c.mode).stepWhole_frame (fun _ => False)
    rw [((((c.modeSet m).acquireLeft c.mode).stepWhole).c7EvalAll_frame).raised_apart _ (by decide) (by decide), h2.raised _ _ (by simp)]
    exact Chip.raised_acquireLeft (by decide) hset

theorem Chip.now_setMode (c : Chip) (m : Nat) : (c.setMode m).now = c.now := by
  by_cases h : c.mode = m
  · rw [Chip.setMode, if_pos h]
  · have h0 : (c.modeSet m).whorl = c.whorl := by
      unfold Chip.modeSet
      exact (((Chip.Frame.refl (S := []) (K := fun _ => True) c).setFld _ _ _ _ trivial).setFld _ _ _ _ trivial |>.raise _ _ trivial).whorl (by simp)
    have h2 : ((c.modeSet m).acquireLeft c.mode).stepWhole.now = ((c.modeSet m).acquireLeft c.mode).now := by
      unfold Chip.stepWhole
      split <;> rfl
    rw [Chip.setMode_eq h, (Chip.c7EvalAll_frame _).now (by simp), h2, (Chip.acquireLeft_frame _ _).now (by simp), Chip.now, h0, Chip.now]

/-! ### The release of a reset -/

theorem Chip.strapLatch_frame (c : Chip) (st : Straps) (ok : Bool) (S : List Part) :
    ({ c with whorl := { c.whorl with tdcAt := c.now } } : Chip).Frame S (· ∈ strapKeys ++ tdcKeys) (c.strapLatch st ok) := by
  have hw := (c.strapTake_frame st []).whorl (by simp)
  have h1 := ((c.strapTake_frame st (.whorl :: S)).mono (L := (· ∈ strapKeys ++ tdcKeys)) (List.Subset.refl _) fun k hk => List.mem_append_left _ hk)
  have h2 := (h1.withWhorl { (c.strapTake st).whorl with tdcAt := (c.strapTake st).now } List.mem_cons_self).andThen
    ((c.strapTake st).tdcResult_frame ok (.whorl :: S)) (List.Subset.refl _) fun k hk => List.mem_append_right _ hk
  have hs := h2.since (T := S) .whorl fun r hr hne => (List.mem_cons.mp hr).resolve_left hne
  have hfin : ((c.strapTake st).tdcResult ok).whorl = { c.whorl with tdcAt := c.now } := by
    rw [((c.strapTake st).tdcResult_frame ok []).whorl (by simp), Chip.now, hw, Chip.now]
  rw [Part.put, hfin] at hs
  exact hs

/-- How a calibration shows. -/
theorem Chip.tdc_strapLatch (b c : Chip) (st : Straps) (ok : Bool) :
    (b.ended (c.strapLatch st ok)).on WHORL.TDC_STATUS_CAL_OK = ok ∧
      (ok = false → c.Counts (b.ended (c.strapLatch st ok)) WHORL.TDC_STATUS_FAILS ∧ c.Tells (b.ended (c.strapLatch st ok)) EV.WHORL_TDC_CAL_FAIL) := by
  have hd : c.strapLatch st ok = (c.strapTake st).tdcResult ok := rfl
  rw [hd]
  refine ⟨by rw [Chip.ended_on _ _ _ _ _ (by decide), Chip.on_tdcResult], fun hok => ?_⟩
  subst hok
  refine ⟨?_, ?_⟩
  · rw [Chip.Counts, Chip.ended_fld _ _ _ _ _ (by decide), (c.strapTake st).counts_tdcResult, (c.strapTake_frame st []).fld _ _ _ (by decide)]
  · refine Chip.Tells.ended (fun hup => (c.strapTake st).tells_tdcResult ?_) (by decide)
    rw [(c.strapTake_frame st []).domUp _ (by decide)]
    exact hup

section
variable {i : Instr} {f : Chip → Chip} {b : Chip} {ok : Bool}

theorem becomes_strapLatch (hexec : exec i s = run f s) (hf : f s.chip = b.strapLatch st ok) (hreg : b.regs = s.chip.regs) :
    Becomes i s { b with whorl := { b.whorl with tdcAt := b.now } } (strapKeys ++ tdcKeys) fun d => s.chip.Latched d st ∧
      d.on WHORL.TDC_STATUS_CAL_OK = ok ∧
      (ok = false → s.chip.Counts d WHORL.TDC_STATUS_FAILS ∧ s.chip.Tells d EV.WHORL_TDC_CAL_FAIL) := by
  have hdom (dm : Domain) : s.chip.domUp dm = b.domUp dm := by rw [Chip.domUp, Chip.dom, Chip.fld, ← hreg, ← Chip.fld, ← Chip.dom, ← Chip.domUp]
  have hfld (r : FieldRow) : s.chip.fld r = b.fld r := by rw [Chip.fld, ← hreg, ← Chip.fld]
  refine becomes_of hexec ?_ ?_
  · rw [hf]
    exact b.strapLatch_frame st ok _
  · rw [hf]
    obtain ⟨hcal, hfail⟩ := Chip.tdc_strapLatch s.chip b st ok
    refine ⟨(b.latched_strapLatch st ok).ended.base (hdom _), hcal, fun hok => ?_⟩
    obtain ⟨hcount, htell⟩ := hfail hok
    exact ⟨by rw [Chip.Counts, hfld]; exact hcount, fun hup => htell ((hdom _).symm.trans hup)⟩

theorem releases (s : State) (st : Straps) (ok : Bool) (ns : Nat) (hmode : s.chip.mode = mRESET) :
    let c := s.chip
    let tdc (d : Chip) : Prop := d.on WHORL.TDC_STATUS_CAL_OK = ok ∧
      (ok = false → c.Counts d WHORL.TDC_STATUS_FAILS ∧ c.Tells d EV.WHORL_TDC_CAL_FAIL)
    let calibrated : Whorl := { c.whorl with tdcAt := c.now }
    (c.modes.holdPorst = true → c.modes.holdSupply = false →
      Becomes (.porstRelease st ok) s { c with modes := { c.modes with holdPorst := false }, whorl := calibrated } (strapKeys ++ tdcKeys)
        fun d => c.Latched d st ∧ tdc d) ∧
    (c.modes.holdPorst = true → c.modes.holdSupply = true →
      Becomes (.porstRelease st ok) s { c with modes := { c.modes with holdPorst := false } } strapKeys fun d => c.Latched d st) ∧
    (c.modes.holdPorst = false → Idles (.porstRelease st ok) s) ∧
    (c.modes.holdSupply = true → c.modes.holdPorst = false → 1000000 ≤ ns →
      Becomes (.aonSupplyRecover ns st ok) s { c with modes := { c.modes with holdSupply := false }, whorl := calibrated }
        (strapKeys ++ tdcKeys) fun d => c.Latched d st ∧ tdc d) ∧
    (c.modes.holdSupply = true → c.modes.holdPorst = true → 1000000 ≤ ns →
      Becomes (.aonSupplyRecover ns st ok) s { c with modes := { c.modes with holdSupply := false } } [] fun _ => True) ∧
    ((c.modes.holdSupply = false ∨ ns < 1000000) → Idles (.aonSupplyRecover ns st ok) s) := by
  have hm : (s.chip.mode == mRESET) = true := by rw [hmode]; rfl
  have hporst : exec (.porstRelease st ok) s = run (fun c => c.whenDue (c.mode == mRESET && c.modes.holdPorst) fun d => d.porstRelease st ok) s := rfl
  have hsup : exec (.aonSupplyRecover ns st ok) s = run (fun c => c.whenDue (c.mode == mRESET && c.modes.holdSupply && decide (1000000 ≤ ns)) fun d =>
    d.supplyRecover st ok) s := rfl
  have hporstDue (h : s.chip.modes.holdPorst = true) := s.chip.whenDue_true (b := s.chip.mode == mRESET && s.chip.modes.holdPorst)
    (fun d => d.porstRelease st ok) (by rw [hm, h]; rfl)
  have hsupDue (h : s.chip.modes.holdSupply = true) (hns : 1000000 ≤ ns) := s.chip.whenDue_true
    (b := s.chip.mode == mRESET && s.chip.modes.holdSupply && decide (1000000 ≤ ns)) (fun d => d.supplyRecover st ok) (by rw [hm, h]; simpa using hns)
  refine ⟨fun h1 h2 => ?_, fun h1 h2 => ?_, fun h1 => ?_, fun h1 h2 hns => ?_, fun h1 h2 hns => ?_, fun h => ?_⟩
  · refine becomes_strapLatch (b := s.chip.updModes fun m => { m with holdPorst := false }) hporst ((hporstDue h1).trans (if_neg ?_)) rfl
    rw [Chip.updModes, h2]
    decide
  · have hf := (hporstDue h1).trans (if_pos (show (s.chip.updModes fun m => { m with holdPorst := false }).modes.holdSupply = true from h2))
    refine becomes_of hporst ?_ ?_
    · rw [hf]
      exact Chip.strapTake_frame _ st _
    · rw [hf]
      exact (Chip.latched_strapTake _ st).ended.base rfl
  · exact idles_of_not_due hporst (by rw [h1, Bool.and_false])
  · refine becomes_strapLatch (b := s.chip.updModes fun m => { m with holdSupply := false }) hsup ((hsupDue h1 hns).trans (if_neg ?_)) rfl
    rw [Chip.updModes, h2]
    decide
  · have hf := (hsupDue h1 hns).trans (if_pos (show (s.chip.updModes fun m => { m with holdSupply := false }).modes.holdPorst = true from h2))
    refine becomes_of hsup ?_ trivial
    rw [hf]
    exact .refl _
  · refine idles_of_not_due hsup ?_
    rcases h with h | h
    · rw [h, Bool.and_false, Bool.false_and]
    · rw [decide_eq_false (by omega), Bool.and_false]
end

/-! ### RESET is left -/

/-- The domains as a reset leaves them to STANDBY. -/
def Chip.resetDoms (c : Chip) : Chip := ((c.setDom .core domDEEP).setDom .host domLINK).setDom .mem domDEEP

/-- What goes with the entry: the role as strapped, and the start of the image load. -/
def Chip.resetLeft (c : Chip) : Chip :=
  if c.roleFromStraps.on GLOBAL.STRAPS_BOOT_SRC then c.roleFromStraps.pass1Start else c.roleFromStraps.imageLoaded

theorem Chip.leaveReset_eq (c : Chip) : c.leaveReset = (c.resetDoms.setMode mSTANDBY).resetLeft := rfl

theorem Chip.raised_setFld (r : FieldRow) (x n i : Nat) (hr : 0x040 ≤ r.off ∧ r.off < 4096 ∧ r.lo < 32) (hi : i < 65536) (v : Evt) (m : Nat) :
    (c.setFld r x n i).raised v m = c.raised v m := by
  rw [Chip.raised, Chip.hdr, Chip.get_setFld_ne, ← Chip.hdr, ← Chip.raised]
  simp only [FieldRow.key, cellKey, HDR.EVT]
  omega

theorem Chip.raised_roleFromStraps {v : Evt} {m : Nat} (hb : v.bit < 32) (h : c.raised v m = true) : c.roleFromStraps.raised v m = true := by
  have hin (r : Nat) : (c.roleIn r).raised v m = true := by
    unfold Chip.roleIn Chip.setBit
    simp (disch := decide) only [Chip.raised_setFld, h]
  rw [show c.roleFromStraps = if c.fld GLOBAL.STRAPS_ROLE = 3 then (c.roleIn (c.fld GLOBAL.STRAPS_ROLE)).raise EV.GLOBAL_STRAP_INVALID
    else c.roleIn (c.fld GLOBAL.STRAPS_ROLE) from rfl]
  split
  · exact Chip.raised_raise_of_raised _ _ _ _ hb (hin _)
  · exact hin _

/-- The cells that follow the entry. -/
def resetLeftSpots : List Spot :=
  [.evt .global, .one GLOBAL.ROLE_STRAP_ROLE, .one GLOBAL.ROLE_ROLE, .one GLOBAL.ROLE_SETTLED, .one GLOBAL.IMAGE_STATUS_STATE,
    .one GLOBAL.IMAGE_STATUS_CAUSE, .one GLOBAL.IMAGE_STATUS_RECORDS]

theorem Chip.resetLeft_frame (c : Chip) : c.Frame [.modes] (Touched resetLeftSpots) c.resetLeft := by
  refine Chip.away_eq_iff.mp ?_
  unfold Chip.resetLeft resetLeftSpots
  simp (disch := decide) only [Chip.away_ite, Chip.away_pass1Start, Chip.away_imageLoaded, Chip.away_roleFromStraps, ite_self]

theorem Chip.raised_resetLeft {v : Evt} {m : Nat} (hb : v.bit < 32) (h : c.raised v m = true) : c.resetLeft.raised v m = true := by
  have hrole := Chip.raised_roleFromStraps hb h
  unfold Chip.resetLeft
  split
  · unfold Chip.pass1Start Chip.setIm
    simp (disch := decide) only [Chip.raised_setFld, hrole]
  · exact hrole

theorem Chip.resetLeft_image (h : c.on GLOBAL.STRAPS_BOOT_SRC = true) : c.resetLeft.imSt = imVERIFYING := by
  have hkeep : c.roleFromStraps.on GLOBAL.STRAPS_BOOT_SRC = c.on GLOBAL.STRAPS_BOOT_SRC :=
    (Chip.away_eq_iff.mp (Chip.away_roleFromStraps (S := []) (List.Subset.refl _))).on _ _ _ (not_touched (by decide) 0 0 (by decide) (by decide))
  rw [Chip.resetLeft, hkeep, h, if_pos rfl, Chip.pass1Start, Chip.setIm, Chip.imSt]
  simp (disch := decide) only [Chip.fld_setFld_ne, Chip.fld_setFld_self]
  rfl

theorem Chip.resetDoms_frame (c : Chip) (S : List Part) :
    c.Frame S (· ∈ [POWER.DOMAIN_STATE_CORE.key 0 0, POWER.DOMAIN_STATE_HOST.key 0 0, POWER.DOMAIN_STATE_MEM.key 0 0]) c.resetDoms := by
  refine Chip.but_eq_iff.mp ?_
  unfold Chip.resetDoms Chip.setDom Domain.row
  simp (disch := decide) only [Chip.but_setFld]

theorem Chip.setMode_frame (c : Chip) (m : Nat) : c.Frame [.whorl, .image] (Touched [.evt .global, .evt .reel, .one GLOBAL.IMAGE_STATUS_CAUSE,
    .one GLOBAL.IMAGE_STATUS_HOLD, .one GLOBAL.IMAGE_STATUS_STATE, .one GLOBAL.MODE_MODE, .one GLOBAL.MODE_PREV_MODE, .one GLOBAL.MODE_RUN_ARMED,
    .one REELGATE.C7_BURST_SUM_CNS, .one REELGATE.C7_COND_FAIL, .one REELGATE.C7_COND_OK, .one REELGATE.C7_GATE_WAIT_NS,
    .one REELGATE.C7_OPEN_FRACTION, .one REELGATE.C7_RATE_SUM_KBPS]) (c.setMode m) :=
  Chip.away_eq_iff.mp (Chip.away_setMode (List.Subset.refl _) (List.Subset.refl _))

theorem fuseLoad_ends (h : s.chip.mode = mRESET) (hporst : s.chip.modes.holdPorst = false) (hsup : s.chip.modes.holdSupply = false) :
    Ends .fuseLoadComplete s fun d => d.mode = mSTANDBY ∧ d.fld GLOBAL.MODE_PREV_MODE = mRESET ∧ d.dom .core = domDEEP ∧
      d.dom .host = domLINK ∧ d.dom .mem = domDEEP ∧ s.chip.Tells d EV.GLOBAL_MODE_CHANGE ∧
      (s.chip.on GLOBAL.STRAPS_BOOT_SRC = true → d.imSt = imVERIFYING) ∧ s.chip.SameStores d := by
  have hdue : s.chip.fuseDue = true := by rw [Chip.fuseDue, h, hporst, hsup]; rfl
  have hf := (s.chip.whenDue_true Chip.leaveReset hdue).trans s.chip.leaveReset_eq
  have h0 := s.chip.resetDoms_frame []
  have hmode0 : s.chip.resetDoms.mode = mRESET := (h0.fld _ _ _ (by decide)).trans h
  obtain ⟨hmode, hprev, htell⟩ := Chip.setMode_reads (c := s.chip.resetDoms) (m := mSTANDBY) (by rw [hmode0]; decide) (by decide) (by rw [hmode0]; decide)
  have h1 := s.chip.resetDoms.setMode_frame mSTANDBY
  have hnow := s.chip.resetDoms.now_setMode mSTANDBY
  have hdoms : s.chip.resetDoms.dom .core = domDEEP ∧ s.chip.resetDoms.dom .host = domLINK ∧ s.chip.resetDoms.dom .mem = domDEEP := by
    unfold Chip.resetDoms Chip.setDom Chip.dom Domain.row
    simp (disch := decide) only [Chip.fld_setFld_ne, Chip.fld_setFld_self]
    exact ⟨rfl, rfl, rfl⟩
  generalize s.chip.resetDoms.setMode mSTANDBY = e at hf hmode hprev htell h1 hnow
  have h2 := e.resetLeft_frame
  have hkeep (r : FieldRow) (hk : r.key 0 0 ∉ levelKeys) (hr : (r.placed && resetLeftSpots.all r.apart) = true) (hc : 0 < r.cls.count) :
      (s.chip.ended e.resetLeft).fld r = e.fld r := (Chip.ended_fld _ _ _ _ _ hk).trans (h2.fld_apart r 0 0 hr hc (by decide))
  have hkeep1 (dm : Domain) (hr : ((Domain.row dm).placed && resetLeftSpots.all (Domain.row dm).apart) = true)
      (hk : (Domain.row dm).key 0 0 ∉ levelKeys) (hnot : ¬ Touched _ ((Domain.row dm).key 0 0)) :
      (s.chip.ended e.resetLeft).dom dm = s.chip.resetDoms.dom dm :=
    (hkeep _ hk hr (by cases dm <;> decide)).trans (h1.fld _ 0 0 hnot)
  obtain ⟨hcore, hhost, hmem⟩ := hdoms
  refine ends_of (f := fun c => c.whenDue c.fuseDue Chip.leaveReset) rfl ?_
  rw [hf]
  refine ⟨?_, ?_, ?_, ?_, ?_, ?_, fun hboot => ?_, ?_⟩
  · exact (hkeep GLOBAL.MODE_MODE (by decide) (by decide) (by decide)).trans hmode
  · exact (hkeep GLOBAL.MODE_PREV_MODE (by decide) (by decide) (by decide)).trans (hprev.trans hmode0)
  · exact (hkeep1 .core (by decide) (by decide) (not_touched (by decide) 0 0 (by decide) (by decide))).trans hcore
  · exact (hkeep1 .host (by decide) (by decide) (not_touched (by decide) 0 0 (by decide) (by decide))).trans hhost
  · exact (hkeep1 .mem (by decide) (by decide) (not_touched (by decide) 0 0 (by decide) (by decide))).trans hmem
  · refine Chip.Tells.ended (fun hup => Chip.raised_resetLeft (by decide) (htell ?_)) (by decide)
    rw [h0.domUp _ (by decide)]
    exact hup
  · rw [Chip.imSt, Chip.ended_fld _ _ _ _ _ (by decide)]
    refine Chip.resetLeft_image ?_
    rw [h1.on _ _ _ (not_touched (by decide) 0 0 (by decide) (by decide)), h0.on _ _ _ (by decide)]
    exact hboot
  · have hall : s.chip.Frame [.whorl, .image, .modes] (fun _ => True) e.resetLeft :=
      ((h0.mono (by decide) fun _ _ => trivial).trans (h1.mono (by decide) fun _ _ => trivial)).trans (h2.mono (by decide) fun _ _ => trivial)
    exact (hall.sameStores (by decide) ((h2.now (by decide)).trans (hnow.trans (h0.now (by decide))))).ended

/-- Settles O14: a reset is the cleared state with the levels and straps of its cause; a release takes away what held the reset and latches
the straps where the part is released; the fuse load ends in STANDBY unless something still holds the reset. -/
theorem resetAndItsRelease : Obligations.ResetAndItsRelease := by
  unfold Obligations.ResetAndItsRelease
  refine ⟨resets, fun s st ok ns => releases s st ok ns, fun s => ⟨fuseLoad_ends, fun h => ?_⟩⟩
  have hdue : s.chip.fuseDue = false := by
    rw [Chip.fuseDue]
    rcases h with h | h | h
    · rw [beq_eq_false_iff_ne.mpr h]
      rfl
    · rw [h]
      simp
    · rw [h]
      simp
  exact idles_of_not_due (due := Chip.fuseDue) (g := Chip.leaveReset) rfl hdue

end Sys2Proof.Machine
end

section
/-!
PROOF. What an instruction answers whose happening is due, or whose register access reaches an open page; and reads of 64-bit pairs.
-/
namespace Sys2Proof.Machine

section
variable {c d : Chip} {i : Instr} {s : State} {own : List Nat} {ok : Chip → Prop} {p : Port} {r : FieldRow} {n : Nat}
variable {due : Chip → Bool} {g : Chip → Chip}

theorem ends_of_due (h : exec i s = run (fun c => c.whenDue (due c) g) s) (hdue : due s.chip = true)
    (hok : ok (s.chip.ended (g s.chip))) : Ends i s ok := by
  refine ends_of h ?_
  rw [s.chip.whenDue_true g hdue]
  exact hok

theorem becomes_of_due (h : exec i s = run (fun c => c.whenDue (due c) g) s) (hdue : due s.chip = true)
    (hd : c.Frame [.ecc] (· ∈ own) (g s.chip)) (hok : ok (s.chip.ended (g s.chip))) : Becomes i s c own ok := by
  refine becomes_of h ?_ ?_ <;> rw [s.chip.whenDue_true g hdue]
  · exact hd
  · exact hok

theorem ends_of_access (h : exec i s = run (fun c => c.accessField p r n g) s) (hopen : s.chip.Open p r.cls n)
    (hok : ok (s.chip.ended (g s.chip))) : Ends i s ok := by
  refine ends_of h ?_
  rw [s.chip.accessField_open hopen]
  exact hok

theorem becomes_of_access (h : exec i s = run (fun c => c.accessField p r n g) s) (hopen : s.chip.Open p r.cls n)
    (hd : c.Frame [.ecc] (· ∈ own) (g s.chip)) (hok : ok (s.chip.ended (g s.chip))) : Becomes i s c own ok := by
  refine becomes_of h ?_ ?_ <;> rw [s.chip.accessField_open hopen]
  · exact hd
  · exact hok

theorem idles_of_access (h : exec i s = run (fun c => c.accessField p r n g) s) (hopen : s.chip.Open p r.cls n)
    (hg : g s.chip = s.chip) : Idles i s := idles_of h ((s.chip.accessField_open hopen g).trans hg)

/-- A register access that is refused counts, and raises its event. -/
theorem setsRegs_of_access_refused {e : Evt} {page off : Nat} (h : exec i s = run (fun c => c.accessField p r n g) s)
    (hopen : s.chip.Open p r.cls n) (hg : g s.chip = (s.chip.errcnt page off p).raise e) (hb : e.bit < 32) (ho : off < 4096)
    (hk : e.key 0 ∉ levelKeys) :
    SetsRegs i s (e.key 0 :: errKeys page) fun d => s.chip.Counted d page off p ∧ s.chip.Tells d e :=
  setsRegs_of_refused h ((s.chip.accessField_open hopen g).trans hg) hb ho hk
end

section
variable {c : Chip} {lo hi : FieldRow} {n i v : Nat}

theorem Chip.fld64_setFld64 (hlo : lo.width = 32) (hv : v < 2 ^ (32 + hi.width)) (hne : lo.key n i ≠ hi.key n i) :
    (c.setFld64 lo hi v n i).fld64 lo hi n i = v := by
  have hdiv : v / 2 ^ 32 < 2 ^ hi.width := Nat.div_lt_of_lt_mul (by rw [← Nat.pow_add]; exact hv)
  rw [Chip.fld64, Chip.setFld64, Chip.fld_setFld_self, Chip.fld_setFld_ne _ _ _ _ _ _ _ _ hne, Chip.fld_setFld_self, hlo,
    Nat.mod_eq_of_lt hdiv]
  exact Nat.mod_add_div v (2 ^ 32)

theorem Chip.fld64_setFld_ne {q : FieldRow} {m j : Nat} (h : lo.key n i ≠ q.key m j) (h' : hi.key n i ≠ q.key m j) :
    (c.setFld q v m j).fld64 lo hi n i = c.fld64 lo hi n i := by
  rw [Chip.fld64, Chip.fld64, Chip.fld_setFld_ne _ _ _ _ _ _ _ _ h, Chip.fld_setFld_ne _ _ _ _ _ _ _ _ h']

theorem Chip.fld64_setFld64_ne {lo' hi' : FieldRow} {m j : Nat} (h : lo.key n i ≠ lo'.key m j) (h' : lo.key n i ≠ hi'.key m j)
    (g : hi.key n i ≠ lo'.key m j) (g' : hi.key n i ≠ hi'.key m j) :
    (c.setFld64 lo' hi' v m j).fld64 lo hi n i = c.fld64 lo hi n i := by
  rw [Chip.setFld64, Chip.fld64_setFld_ne h' g', Chip.fld64_setFld_ne h g]

theorem Chip.fld_setFld64_ne {q : FieldRow} {m j : Nat} (h : q.key m j ≠ lo.key n i) (h' : q.key m j ≠ hi.key n i) :
    (c.setFld64 lo hi v n i).fld q m j = c.fld q m j := by
  rw [Chip.setFld64, Chip.fld_setFld_ne _ _ _ _ _ _ _ _ h', Chip.fld_setFld_ne _ _ _ _ _ _ _ _ h]

theorem Chip.fld64_raise_ne {e : Evt} {m : Nat} (h : lo.key n i ≠ e.key m) (h' : hi.key n i ≠ e.key m) :
    (c.raise e m).fld64 lo hi n i = c.fld64 lo hi n i := by
  rw [Chip.fld64, Chip.fld64, Chip.fld_raise_ne _ _ _ _ _ _ h, Chip.fld_raise_ne _ _ _ _ _ _ h']

theorem Chip.ended_fld64 (b : Chip) (h : lo.key n i ∉ levelKeys) (h' : hi.key n i ∉ levelKeys) :
    (b.ended c).fld64 lo hi n i = c.fld64 lo hi n i := by
  rw [Chip.fld64, b.ended_fld c _ _ _ h, b.ended_fld c _ _ _ h', Chip.fld64]

theorem Chip.Frame.fld64 {d : Chip} {S : List Part} {K : Nat → Prop} (h : c.Frame S K d) (hl : ¬ K (lo.key n i)) (hh : ¬ K (hi.key n i)) :
    d.fld64 lo hi n i = c.fld64 lo hi n i := by
  rw [Chip.fld64, h.fld _ _ _ hl, h.fld _ _ _ hh, Chip.fld64]

/-- A saturating counter, read. -/
theorem Chip.fld_bump_self (c : Chip) (r : FieldRow) (n i : Nat) : (c.bump r n i).fld r n i = min (c.fld r n i + 1) (2 ^ r.width - 1) := by
  rw [Chip.bump, Chip.bumpBy, Chip.fld_setFld_self]
  refine Nat.mod_eq_of_lt ?_
  have := Nat.two_pow_pos r.width
  omega

theorem Chip.fld_bumpWrap_self (c : Chip) (r : FieldRow) (n i : Nat) : (c.bumpWrap r n i).fld r n i = (c.fld r n i + 1) % 2 ^ r.width :=
  c.fld_setFld_self _ _ _ _

theorem Chip.fld_bumpWrap_ne {q : FieldRow} {m j : Nat} {r : FieldRow} (h : q.key m j ≠ r.key n i) :
    (c.bumpWrap r n i).fld q m j = c.fld q m j := c.fld_setFld_ne _ _ _ _ _ _ _ h
end

end Sys2Proof.Machine
end

section
/-!
PROOF. The timebase: what the operations of the servo, of the lock state, of holdover and of changes of network time leave alone, and
what they make of the registers they set (chapter 03).
-/
namespace Sys2Proof.Machine

/-- The cells of the WHORL page that the servo, the lock state and changes of network time move. -/
def servoKeys : List Nat := [WHORL.FREQ_ADJ.key 0 0, EV.WHORL_LOCKED.key 0]
def changeKeys : List Nat := [WHORL.STEP_STATUS_BACKWARD.key 0 0, WHORL.STEP_STATUS_ORIGIN.key 0 0, WHORL.STEP_STATUS_STATE.key 0 0]
def holdKeys : List Nat := [WHORL.LOCK_STATE_STATE.key 0 0, WHORL.FREQ_ADJ.key 0 0, EV.WHORL_LOCKED.key 0, WHORL.HO_ELAPSED_S.key 0 0,
  WHORL.HO_ERROR_NS.key 0 0]

section
variable {c d : Chip} {S : List Part} {own : List Nat}

theorem Chip.but_setLock {v : Nat} (h : WHORL.LOCK_STATE_STATE.key 0 0 ∈ own) : (d.setLock v).but S own = d.but S own := Chip.but_setFld h

theorem Chip.but_setFreq {f : Int} (h : servoKeys ⊆ own) : (d.setFreq f).but S own = d.but S own := by
  unfold Chip.setFreq Chip.rateChanged
  rw [Chip.but_ite, Chip.but_raise (h (by decide)), Chip.but_setFld (h (by decide)), ite_self]

theorem Chip.but_servoUpdate {theta tau : Int} (hS : .whorl ∈ S) (h : servoKeys ⊆ own) :
    (d.servoUpdate theta tau).but S own = d.but S own := by
  unfold Chip.servoUpdate
  exact (Chip.but_withWhorl hS).trans ((Chip.but_setFreq h).trans (Chip.but_withWhorl hS))

theorem Chip.but_acceptChange {t : Int} {o : Nat} (hS : .whorl ∈ S) (h : changeKeys ⊆ own) :
    (d.acceptChange t o).but S own = d.but S own := by
  have hb : WHORL.STEP_STATUS_BACKWARD.key 0 0 ∈ own := h (by decide)
  have ho : WHORL.STEP_STATUS_ORIGIN.key 0 0 ∈ own := h (by decide)
  have hs : WHORL.STEP_STATUS_STATE.key 0 0 ∈ own := h (by decide)
  unfold Chip.acceptChange
  extract_lets c1 c2 ppm p st
  have h2 : c2.but S own = d.but S own := (Chip.but_setFld ho).trans (Chip.but_setBit hb)
  clear_value c2 st
  simp only [Chip.but_ite, Chip.but_setFld hs, Chip.but_withWhorl hS, h2, ite_self]

theorem Chip.but_stepOrServo {theta : Int} (hS : .whorl ∈ S) (h : servoKeys ⊆ own) (h' : changeKeys ⊆ own) :
    (d.stepOrServo theta).but S own = d.but S own := by
  unfold Chip.stepOrServo
  rw [Chip.but_ite, Chip.but_acceptChange hS h', Chip.but_servoUpdate hS h, ite_self]

theorem Chip.but_sourceLost {k : Nat} (h : WHORL.LOCK_STATE_LOSS_CAUSE.key 0 0 ∈ own) (h' : EV.WHORL_LOCKED.key 0 ∈ own) :
    (d.sourceLost k).but S own = d.but S own := (Chip.but_raise (x := EV.WHORL_SOURCE_LOST) h').trans (Chip.but_setFld h)

theorem Chip.but_hoLimitCheck (hS : .whorl ∈ S) (h : EV.WHORL_LOCKED.key 0 ∈ own) : d.hoLimitCheck.but S own = d.but S own := by
  unfold Chip.hoLimitCheck
  rw [Chip.but_ite, Chip.but_raise (x := EV.WHORL_HOLDOVER_LIMIT) h, Chip.but_withWhorl hS, ite_self]

theorem Chip.but_enterHoldover (hS : .whorl ∈ S) (h : holdKeys ⊆ own) : d.enterHoldover.but S own = d.but S own := by
  have hs : servoKeys ⊆ own := List.Subset.trans (by decide) h
  unfold Chip.enterHoldover
  extract_lets c1 c2 last e0 fault src c3 c4 c5
  have h2 : c2.but S own = d.but S own := by
    rw [show c2 = if _ then _ else _ from rfl, Chip.but_ite, Chip.but_setFreq hs, Chip.but_setLock (h (by decide)), ite_self]
  have h4 : c4.but S own = d.but S own := (Chip.but_setFld (h (by decide))).trans ((Chip.but_withWhorl hS).trans h2)
  exact (Chip.but_hoLimitCheck hS (h (by decide))).trans ((Chip.but_setFld (h (by decide))).trans h4)
end

end Sys2Proof.Machine
end

section
/-!
PROOF. O23: measurements of the servo (R101 to R106).
-/
namespace Sys2Proof.Machine

section
variable {c d : Chip} {theta : Int}

@[simp] theorem Chip.setFreq_whorl (c : Chip) (f : Int) : (c.setFreq f).whorl = c.whorl := by
  unfold Chip.setFreq Chip.rateChanged
  rw [apply_ite Chip.whorl]
  simp

@[simp] theorem Chip.bump_whorl (c : Chip) (r : FieldRow) (n i : Nat) : (c.bump r n i).whorl = c.whorl := rfl
@[simp] theorem Chip.setLock_whorl (c : Chip) (v : Nat) : (c.setLock v).whorl = c.whorl := rfl
@[simp] theorem Chip.sourceLost_whorl (c : Chip) (k : Nat) : (c.sourceLost k).whorl = c.whorl := Chip.raise_whorl _ _ _

/-- The control code of R104 for an integrator `y` in the unit of the servo. -/
def freqOf (y : Int) : Nat := unsigned 32 (max (-(2 ^ 31)) (min (2 ^ 31 - 1) (Int.tdiv (-(y * 40 * 4294967296)) 1000000000)))

/-- The error of R104 that a measurement of `theta` gives at `tau`. -/
def servoError (theta tau : Int) : Int :=
  if 0 ≤ tau then Int.tdiv (Int.tdiv theta nsQ) (2 ^ tau.toNat : Nat) else Int.tdiv theta nsQ * (2 ^ (-tau).toNat : Nat)

def Chip.nextInteg (c : Chip) (theta tau : Int) : Int := c.whorl.integ + servoError theta tau / (2 ^ c.fld WHORL.SERVO_CFG_KI_SHIFT : Nat)

theorem Chip.servoUpdate_integ (c : Chip) (theta tau : Int) : (c.servoUpdate theta tau).whorl.integ = c.nextInteg theta tau := by
  unfold Chip.servoUpdate
  simp only [Chip.setFreq_whorl]
  rfl

theorem Chip.servoUpdate_lastMeas (c : Chip) (theta tau : Int) : (c.servoUpdate theta tau).whorl.lastMeas = c.whorl.lastMeas := by
  unfold Chip.servoUpdate
  simp only [Chip.setFreq_whorl]

theorem Chip.servoUpdate_sync (c : Chip) (theta tau : Int) : (c.servoUpdate theta tau).whorl.sync = c.whorl.sync := by
  unfold Chip.servoUpdate
  simp only [Chip.setFreq_whorl]

theorem Chip.fld_setFreq (c : Chip) (f : Int) : (c.setFreq f).fld WHORL.FREQ_ADJ = unsigned 32 (max (-(2 ^ 31)) (min (2 ^ 31 - 1) f)) := by
  have h : ∀ e : Chip, e.rateChanged.fld WHORL.FREQ_ADJ = e.fld WHORL.FREQ_ADJ := fun e => by
    unfold Chip.rateChanged
    split
    · exact e.fld_raise_ne _ _ _ _ _ (by decide)
    · rfl
  rw [Chip.setFreq, h, Chip.fld_setFld_self]
  exact Nat.mod_eq_of_lt (unsigned_lt 32 _)

theorem Chip.servoUpdate_freq (c : Chip) (theta tau : Int) : (c.servoUpdate theta tau).fld WHORL.FREQ_ADJ =
    freqOf (c.nextInteg theta tau + servoError theta tau / (2 ^ c.fld WHORL.SERVO_CFG_KP_SHIFT : Nat)) := by
  unfold Chip.servoUpdate
  exact Chip.fld_setFreq _ _

/-- A change of network time on its way to be set up: its sign and its origin are noted. -/
def Chip.changeNoted (c : Chip) (t : Int) (o : Nat) : Chip :=
  (c.setBit WHORL.STEP_STATUS_BACKWARD (decide (t < 0))).setFld WHORL.STEP_STATUS_ORIGIN o

def Chip.stepSet (c : Chip) (t : Int) (whole : Bool) (boundary : Int) : StepChange :=
  { remain := t, whole := whole, slewPpm := max 1 (min 500 (c.fld WHORL.STEP_CFG_SLEW_PPM)),
    periodNs := boundaryPeriod (c.fld WHORL.STEP_BOUNDARY_PERIOD_NS), boundary := boundary, due := c.aon + 1 }

def Chip.withStep (c : Chip) (st : StepChange) : Chip := { c with whorl := { c.whorl with step := st } }

theorem Chip.acceptChange_eq (c : Chip) {t : Int} (ht : t ≠ 0) (o : Nat) : c.acceptChange t o =
    if t.natAbs < usQ then
      ((c.changeNoted t o).withStep ((c.changeNoted t o).stepSet t false 0)).setFld WHORL.STEP_STATUS_STATE stSLEWING
    else if 0 < t then (c.changeNoted t o).withStep ((c.changeNoted t o).stepSet t true 0)
    else if (c.changeNoted t o).running then
      if (c.changeNoted t o).on WHORL.STEP_CFG_POLICY then
        ((c.changeNoted t o).withStep ((c.changeNoted t o).stepSet t false (nextBoundary (c.changeNoted t o).net
          (boundaryPeriod ((c.changeNoted t o).fld WHORL.STEP_BOUNDARY_PERIOD_NS))))).setFld WHORL.STEP_STATUS_STATE stWAIT
      else ((c.changeNoted t o).withStep ((c.changeNoted t o).stepSet t false 0)).setFld WHORL.STEP_STATUS_STATE stSLEWING
    else ((c.changeNoted t o).withStep ((c.changeNoted t o).stepSet t true 0)).setFld WHORL.STEP_STATUS_STATE stHOLDING := by
  rw [Chip.acceptChange, if_neg ht]
  rfl

/-- A change of network time that is accepted keeps the servo, and notes what is to be applied. -/
theorem Chip.acceptChange_whorl (c : Chip) {t : Int} (ht : t ≠ 0) (o : Nat) :
    ∃ st : StepChange, (c.acceptChange t o).whorl = { c.whorl with step := st } ∧ st.remain = t := by
  rw [c.acceptChange_eq ht]
  split_ifs <;> exact ⟨_, rfl, rfl⟩

theorem Chip.acceptChange_reads (c : Chip) {t : Int} (ht : t ≠ 0) :
    (c.acceptChange t 1).fld WHORL.STEP_STATUS_ORIGIN = 1 ∧ (c.acceptChange t 1).on WHORL.STEP_STATUS_BACKWARD = decide (t < 0) := by
  have hkeep : (c.acceptChange t 1).but [.whorl] [WHORL.STEP_STATUS_STATE.key 0 0] =
      (c.changeNoted t 1).but [.whorl] [WHORL.STEP_STATUS_STATE.key 0 0] := by
    rw [c.acceptChange_eq ht]
    unfold Chip.withStep
    simp (disch := decide) only [Chip.but_ite, Chip.but_setFld, Chip.but_withWhorl, ite_self]
  have h := Chip.but_eq_iff.mp hkeep
  exact ⟨(h.fld _ _ _ (by decide)).trans (Chip.fld_setFld_self _ _ _ _ _),
    (h.on _ _ _ (by decide)).trans ((Chip.on_setFld_ne (by decide)).trans (Chip.on_setBit_self _ rfl))⟩

/-! ### The measurement before it is judged -/

/-- GOOD_RUN after a measurement of `theta` (R106). -/
def Chip.goodRun (c : Chip) (theta : Int) : Nat :=
  if theta.natAbs < c.fld WHORL.LOCK_CFG_LOCK_THRESH_NS * nsQ then min 255 (c.fld WHORL.LOCK_STATE_GOOD_RUN + 1) else 0

def Chip.counted1 (c : Chip) (theta : Int) : Chip :=
  let d := (c.bumpWrap WHORL.MEAS_CNT_COUNT).setFld64 WHORL.LAST_OFFSET_LO_VAL WHORL.LAST_OFFSET_HI_VAL (unsigned 64 (theta / 2 ^ 26))
  { d with whorl := { d.whorl with lastMeas := d.now } }

def Chip.measured (c : Chip) (theta : Int) : Chip :=
  (c.counted1 theta).setFld WHORL.LOCK_STATE_GOOD_RUN ((c.counted1 theta).goodRun theta)

/-- The rows of Table 03.5 for a measurement. -/
def Chip.judged (c : Chip) (theta : Int) (good : Nat) : Chip :=
  if c.lock = lkLOCKED then
    if theta.natAbs ≤ c.fld WHORL.OUTLIER_NS_NS * nsQ then
      (c.setFld WHORL.LOCK_STATE_OUTLIER_RUN 0).servoUpdate theta c.logTau
    else if c.fld WHORL.LOCK_STATE_OUTLIER_RUN + 1 < max 1 (c.fld WHORL.LOCK_CFG_OUTLIER_MAX) then
      ((c.bump WHORL.LOCK_STATE_OUTLIER_RUN).bump WHORL.OUTLIER_CNT_COUNT).raise EV.WHORL_OUTLIER
    else ((c.sourceLost 2).setLock lkACQUIRING).stepOrServo theta
  else if c.lock = lkACQUIRING then
    if c.fld WHORL.LOCK_CFG_LOCK_COUNT ≤ good ∧ ¬ c.stepPending then ((c.stepOrServo theta).setLock lkLOCKED).raise EV.WHORL_LOCKED
    else c.stepOrServo theta
  else if c.lock = lkUNLOCKED ∨ c.lock = lkHOLDOVER then (c.stepOrServo theta).setLock lkACQUIRING
  else c

theorem Chip.measurement_eq (c : Chip) (theta0 : Int) : c.measurement theta0 =
    (c.measured (theta0 + c.whorl.step.remain)).judged (theta0 + c.whorl.step.remain)
      ((c.counted1 (theta0 + c.whorl.step.remain)).goodRun (theta0 + c.whorl.step.remain)) := rfl

def measKeys : List Nat := [WHORL.MEAS_CNT_COUNT.key 0 0, WHORL.LAST_OFFSET_LO_VAL.key 0 0, WHORL.LAST_OFFSET_HI_VAL.key 0 0,
  WHORL.LOCK_STATE_GOOD_RUN.key 0 0]

theorem Chip.counted1_frame (c : Chip) (theta : Int) :
    c.Frame [.whorl] (· ∈ [WHORL.MEAS_CNT_COUNT.key 0 0, WHORL.LAST_OFFSET_LO_VAL.key 0 0, WHORL.LAST_OFFSET_HI_VAL.key 0 0])
      (c.counted1 theta) := by
  refine Chip.but_eq_iff.mp ?_
  unfold Chip.counted1
  simp (disch := decide) only [Chip.but_withWhorl, Chip.but_setFld64, Chip.but_bumpWrap]

theorem Chip.goodRun_counted1 (c : Chip) (theta : Int) : (c.counted1 theta).goodRun theta = c.goodRun theta := by
  have h := c.counted1_frame theta
  rw [Chip.goodRun, h.fld _ _ _ (by decide), h.fld _ _ _ (by decide), Chip.goodRun]

theorem Chip.measured_frame (c : Chip) (theta : Int) : c.Frame [.whorl] (· ∈ measKeys) (c.measured theta) :=
  Chip.Frame.setFld ((c.counted1_frame theta).mono (by decide) (by decide)) _ _ _ _ (by decide)

theorem Chip.measured_whorl (c : Chip) (theta : Int) : (c.measured theta).whorl = { c.whorl with lastMeas := c.now } := rfl

theorem Chip.measured_integ (c : Chip) (theta : Int) : (c.measured theta).whorl.integ = c.whorl.integ := by rw [c.measured_whorl]

theorem Chip.measured_reads (c : Chip) (theta : Int) :
    (c.measured theta).fld WHORL.MEAS_CNT_COUNT = (c.fld WHORL.MEAS_CNT_COUNT + 1) % 2 ^ 32 ∧
      (c.measured theta).fld64 WHORL.LAST_OFFSET_LO_VAL WHORL.LAST_OFFSET_HI_VAL = unsigned 64 (theta / 2 ^ 26) ∧
      (c.measured theta).fld WHORL.LOCK_STATE_GOOD_RUN = c.goodRun theta := by
  have hgood : c.goodRun theta < 2 ^ WHORL.LOCK_STATE_GOOD_RUN.width := by
    unfold Chip.goodRun
    change _ < 256
    split <;> omega
  refine ⟨?_, ?_, ?_⟩
  · rw [Chip.measured, Chip.fld_setFld_ne _ _ _ _ _ _ _ _ (by decide)]
    exact (Chip.fld_setFld64_ne (by decide) (by decide)).trans (Chip.fld_bumpWrap_self _ _ _ _)
  · rw [Chip.measured, Chip.fld64_setFld_ne (by decide) (by decide)]
    exact Chip.fld64_setFld64 rfl (unsigned_lt 64 _) (by decide)
  · rw [Chip.measured, Chip.fld_setFld_self, c.goodRun_counted1, Nat.mod_eq_of_lt hgood]

/-! ### The rows of Table 03.5 -/

/-- A measurement asks for a step of network time (R105). -/
def Chip.asksStep (c : Chip) (theta : Int) : Prop :=
  max 1000 (c.fld WHORL.STEP_THRESH_NS) * nsQ ≤ theta.natAbs ∧ c.stepPending = false

def judgeKeys : List Nat := servoKeys ++ changeKeys ++ [WHORL.LOCK_STATE_STATE.key 0 0, WHORL.LOCK_STATE_LOSS_CAUSE.key 0 0,
  WHORL.LOCK_STATE_OUTLIER_RUN.key 0 0, WHORL.OUTLIER_CNT_COUNT.key 0 0]

theorem Chip.judged_frame (c : Chip) (theta : Int) (good : Nat) : c.Frame [.whorl] (· ∈ judgeKeys) (c.judged theta good) := by
  refine Chip.but_eq_iff.mp ?_
  unfold Chip.judged
  simp (disch := decide) only [Chip.but_ite, Chip.but_servoUpdate, Chip.but_stepOrServo, Chip.but_setLock, Chip.but_sourceLost,
    Chip.but_setFld, Chip.but_bump, Chip.but_raise, ite_self]

theorem step_ne_zero {a : Nat} {theta : Int} (h : max 1000 a * nsQ ≤ theta.natAbs) : -theta ≠ 0 := by
  intro h0
  rw [Int.neg_eq_zero.mp h0] at h
  exact absurd h (Nat.not_le.mpr (Nat.mul_pos (by omega) (Nat.two_pow_pos 32)))

theorem Chip.stepOrServo_frame (c : Chip) (theta : Int) : c.Frame [.whorl] (· ∈ servoKeys ++ changeKeys) (c.stepOrServo theta) :=
  Chip.but_eq_iff.mp (Chip.but_stepOrServo (by decide) (by decide) (by decide))

theorem Chip.raised_setFreq {c : Chip} {f : Int} {v : Evt} {n : Nat} (hb : v.bit < 32) (h : c.raised v n = true) : (c.setFreq f).raised v n = true := by
  have hset : (c.setFld WHORL.FREQ_ADJ (unsigned 32 (max (-(2 ^ 31)) (min (2 ^ 31 - 1) f)))).raised v n = true := by
    rw [Chip.raised_setFld _ _ _ _ (by decide) (by decide), h]
  unfold Chip.setFreq Chip.rateChanged
  split
  · exact Chip.raised_raise_of_raised _ _ _ _ hb hset
  · exact hset

theorem Chip.stepOrServo_told {b c : Chip} {theta : Int} {v : Evt} {n : Nat} (hb : v.bit < 32) (h : b.Tells c v n) :
    b.Tells (c.stepOrServo theta) v n := by
  intro hu
  have hr := h hu
  unfold Chip.stepOrServo
  split
  next hs =>
    have hn : (c.changeNoted (-theta) 1).raised v n = true := by
      unfold Chip.changeNoted Chip.setBit
      simp (disch := decide) only [Chip.raised_setFld, hr]
    rw [c.acceptChange_eq (step_ne_zero hs.1)]
    split_ifs
    · rw [Chip.raised_setFld _ _ _ _ (by decide) (by decide)]
      exact hn
    · exact hn
    · rw [Chip.raised_setFld _ _ _ _ (by decide) (by decide)]
      exact hn
    · rw [Chip.raised_setFld _ _ _ _ (by decide) (by decide)]
      exact hn
    · rw [Chip.raised_setFld _ _ _ _ (by decide) (by decide)]
      exact hn
  · exact Chip.raised_setFreq hb hr

theorem Chip.stepOrServo_keeps (c : Chip) (theta : Int) :
    (c.stepOrServo theta).whorl.lastMeas = c.whorl.lastMeas ∧ (c.stepOrServo theta).whorl.sync = c.whorl.sync := by
  unfold Chip.stepOrServo
  split
  next h =>
    obtain ⟨st, hw, _⟩ := c.acceptChange_whorl (step_ne_zero h.1) 1
    rw [hw]
    exact ⟨rfl, rfl⟩
  · exact ⟨c.servoUpdate_lastMeas _ _, c.servoUpdate_sync _ _⟩

theorem Chip.judged_keeps (c : Chip) (theta : Int) (good : Nat) :
    (c.judged theta good).whorl.lastMeas = c.whorl.lastMeas ∧ (c.judged theta good).whorl.sync = c.whorl.sync := by
  unfold Chip.judged
  split_ifs
  · exact ⟨Chip.servoUpdate_lastMeas _ _ _, Chip.servoUpdate_sync _ _ _⟩
  · rw [Chip.raise_whorl, Chip.bump_whorl, Chip.bump_whorl]
    exact ⟨rfl, rfl⟩
  · refine (Chip.stepOrServo_keeps _ _).imp (fun h => h.trans ?_) fun h => h.trans ?_ <;> rw [Chip.setLock_whorl, Chip.sourceLost_whorl]
  · rw [Chip.raise_whorl, Chip.setLock_whorl]
    exact c.stepOrServo_keeps theta
  · exact c.stepOrServo_keeps theta
  · rw [Chip.setLock_whorl]
    exact c.stepOrServo_keeps theta
  · exact ⟨rfl, rfl⟩

theorem Chip.asksStep_reads {c : Chip} {theta : Int} (h : c.asksStep theta) :
    (c.stepOrServo theta).whorl.step.remain = -theta ∧ (c.stepOrServo theta).fld WHORL.STEP_STATUS_ORIGIN = 1 ∧
      (c.stepOrServo theta).on WHORL.STEP_STATUS_BACKWARD = decide (0 < theta) ∧
      (c.stepOrServo theta).whorl.integ = c.whorl.integ ∧ (c.stepOrServo theta).fld WHORL.FREQ_ADJ = c.fld WHORL.FREQ_ADJ := by
  obtain ⟨hbig, hfree⟩ := h
  have hne := step_ne_zero hbig
  have hstep : c.stepOrServo theta = c.acceptChange (-theta) 1 := if_pos ⟨hbig, by rw [hfree]; decide⟩
  obtain ⟨st, hw, hr⟩ := c.acceptChange_whorl hne 1
  obtain ⟨ho, hb⟩ := c.acceptChange_reads hne
  have hframe : c.Frame [.whorl] (· ∈ changeKeys) (c.acceptChange (-theta) 1) := Chip.but_eq_iff.mp (Chip.but_acceptChange (by decide) (by decide))
  rw [hstep]
  refine ⟨by rw [hw]; exact hr, ho, hb.trans (by simp), by rw [hw], hframe.fld _ _ _ (by decide)⟩

/-- Where a measurement may ask for a step, only the lock state moves besides. -/
theorem Chip.judged_of_unlocked {c : Chip} {theta : Int} {good : Nat} (h : c.lock = lkUNLOCKED ∨ c.lock = lkACQUIRING ∨ c.lock = lkHOLDOVER) :
    (c.stepOrServo theta).Frame [] (· ∈ [WHORL.LOCK_STATE_STATE.key 0 0, EV.WHORL_LOCKED.key 0]) (c.judged theta good) := by
  have hne : c.lock ≠ lkLOCKED := by rcases h with h | h | h <;> rw [h] <;> decide
  refine Chip.but_eq_iff.mp ?_
  rw [Chip.judged, if_neg hne]
  by_cases hacq : c.lock = lkACQUIRING
  · rw [if_pos hacq]
    simp (disch := decide) only [Chip.but_ite, Chip.but_setLock, Chip.but_raise, ite_self]
  · rw [if_neg hacq, if_pos (by tauto)]
    exact Chip.but_setLock (by decide)

/-! ### What a measurement makes of the block -/

section
variable (b c : Chip) (theta0 : Int)

/-- θ + R of a measurement of θ (R103). -/
def Chip.thetaOf : Int := theta0 + c.whorl.step.remain

theorem Chip.measurement_judged : c.measurement theta0 = (c.measured (c.thetaOf theta0)).judged (c.thetaOf theta0) (c.goodRun (c.thetaOf theta0)) := by
  rw [c.measurement_eq, c.goodRun_counted1]
  rfl

theorem Chip.measurement_frame : c.Frame [.whorl] (· ∈ measKeys ++ judgeKeys) (c.measurement theta0) := by
  rw [c.measurement_judged]
  exact ((c.measured_frame _).mono (by decide) (by decide)).trans ((Chip.judged_frame _ _ _).mono (by decide) (by decide))

theorem Chip.measurement_reads :
    (c.measurement theta0).fld WHORL.MEAS_CNT_COUNT = (c.fld WHORL.MEAS_CNT_COUNT + 1) % 2 ^ 32 ∧
      (c.measurement theta0).fld64 WHORL.LAST_OFFSET_LO_VAL WHORL.LAST_OFFSET_HI_VAL = unsigned 64 (c.thetaOf theta0 / 2 ^ 26) ∧
      (c.measurement theta0).fld WHORL.LOCK_STATE_GOOD_RUN = c.goodRun (c.thetaOf theta0) ∧
      (c.measurement theta0).whorl.lastMeas = c.now ∧ (c.measurement theta0).whorl.sync = c.whorl.sync := by
  have hj := (c.measured (c.thetaOf theta0)).judged_frame (c.thetaOf theta0) (c.goodRun (c.thetaOf theta0))
  obtain ⟨h1, h2, h3⟩ := c.measured_reads (c.thetaOf theta0)
  obtain ⟨h4, h5⟩ := (c.measured (c.thetaOf theta0)).judged_keeps (c.thetaOf theta0) (c.goodRun (c.thetaOf theta0))
  rw [c.measurement_judged]
  exact ⟨(hj.fld _ _ _ (by decide)).trans h1, (hj.fld64 (by decide) (by decide)).trans h2, (hj.fld _ _ _ (by decide)).trans h3, h4, h5⟩

theorem Chip.measured_lock (theta : Int) : (c.measured theta).lock = c.lock := (c.measured_frame theta).fld _ _ _ (by decide)

theorem Chip.measured_stepPending (theta : Int) : (c.measured theta).stepPending = c.stepPending := by
  rw [Chip.stepPending, Chip.stepState, (c.measured_frame theta).fld _ _ _ (by decide), c.measured_whorl]
  rfl

theorem Chip.measured_logTau (theta : Int) : (c.measured theta).logTau = c.logTau := by
  rw [Chip.logTau, (c.measured_frame theta).fld _ _ _ (by decide), c.measured_whorl]
  rfl

theorem Chip.measured_fld (theta : Int) {r : FieldRow} (h : r.key 0 0 ∉ measKeys) : (c.measured theta).fld r = c.fld r :=
  (c.measured_frame theta).fld _ _ _ h

/-- In LOCKED, a measurement that is no outlier updates the servo. -/
theorem Chip.measurement_fits (hl : c.lock = lkLOCKED) (hf : (c.thetaOf theta0).natAbs ≤ c.fld WHORL.OUTLIER_NS_NS * nsQ) :
    (c.measurement theta0).whorl.integ = c.nextInteg (c.thetaOf theta0) c.logTau ∧ (c.measurement theta0).lock = lkLOCKED ∧
      (c.measurement theta0).fld WHORL.LOCK_STATE_OUTLIER_RUN = 0 ∧
      (c.measurement theta0).fld WHORL.FREQ_ADJ = freqOf (c.nextInteg (c.thetaOf theta0) c.logTau +
        servoError (c.thetaOf theta0) c.logTau / (2 ^ c.fld WHORL.SERVO_CFG_KP_SHIFT : Nat)) := by
  rw [c.measurement_judged]
  generalize c.thetaOf theta0 = theta at *
  have hm := c.measured_lock theta
  have ht := c.measured_logTau theta
  have hki : (c.measured theta).fld WHORL.SERVO_CFG_KI_SHIFT = c.fld WHORL.SERVO_CFG_KI_SHIFT := c.measured_fld theta (by decide)
  have hkp : (c.measured theta).fld WHORL.SERVO_CFG_KP_SHIFT = c.fld WHORL.SERVO_CFG_KP_SHIFT := c.measured_fld theta (by decide)
  have hi : (c.measured theta).whorl.integ = c.whorl.integ := c.measured_integ theta
  have hf' : theta.natAbs ≤ (c.measured theta).fld WHORL.OUTLIER_NS_NS * nsQ := by rw [c.measured_fld theta (by decide)]; exact hf
  rw [Chip.judged, if_pos (hm.trans hl), if_pos hf']
  generalize c.measured theta = m at *
  have hframe : (m.setFld WHORL.LOCK_STATE_OUTLIER_RUN 0).Frame [.whorl] (· ∈ servoKeys)
      ((m.setFld WHORL.LOCK_STATE_OUTLIER_RUN 0).servoUpdate theta m.logTau) := Chip.but_eq_iff.mp (Chip.but_servoUpdate (by decide) (by decide))
  have hnext : (m.setFld WHORL.LOCK_STATE_OUTLIER_RUN 0).nextInteg theta m.logTau = c.nextInteg theta c.logTau := by
    rw [Chip.nextInteg, Chip.fld_setFld_ne _ _ _ _ _ _ _ _ (by decide), Chip.setFld_whorl, hi, hki, ht]
    rfl
  refine ⟨(Chip.servoUpdate_integ _ _ _).trans hnext, ?_, ?_, ?_⟩
  · rw [Chip.lock, hframe.fld _ _ _ (by decide), Chip.fld_setFld_ne _ _ _ _ _ _ _ _ (by decide)]
    exact hm.trans hl
  · rw [hframe.fld _ _ _ (by decide), Chip.fld_setFld_self]
    rfl
  · rw [Chip.servoUpdate_freq, hnext, Chip.fld_setFld_ne _ _ _ _ _ _ _ _ (by decide), hkp, ht]

/-- In LOCKED, an outlier that is not the last counts. -/
theorem Chip.measurement_outlier (hl : c.lock = lkLOCKED) (hf : ¬ (c.thetaOf theta0).natAbs ≤ c.fld WHORL.OUTLIER_NS_NS * nsQ)
    (hlast : ¬ max 1 (c.fld WHORL.LOCK_CFG_OUTLIER_MAX) ≤ c.fld WHORL.LOCK_STATE_OUTLIER_RUN + 1) :
    (c.measurement theta0).lock = lkLOCKED ∧ c.Counts (c.measurement theta0) WHORL.LOCK_STATE_OUTLIER_RUN ∧
      c.Counts (c.measurement theta0) WHORL.OUTLIER_CNT_COUNT ∧ c.Tells (c.measurement theta0) EV.WHORL_OUTLIER ∧
      (c.measurement theta0).fld WHORL.FREQ_ADJ = c.fld WHORL.FREQ_ADJ ∧ (c.measurement theta0).whorl.integ = c.whorl.integ := by
  rw [c.measurement_judged]
  generalize c.thetaOf theta0 = theta at *
  have hm := c.measured_frame theta
  have hf' : ¬ theta.natAbs ≤ (c.measured theta).fld WHORL.OUTLIER_NS_NS * nsQ := by rwa [c.measured_fld theta (by decide)]
  have hlast' : (c.measured theta).fld WHORL.LOCK_STATE_OUTLIER_RUN + 1 < max 1 ((c.measured theta).fld WHORL.LOCK_CFG_OUTLIER_MAX) := by
    rw [c.measured_fld theta (by decide), c.measured_fld theta (by decide)]
    exact Nat.not_le.mp hlast
  rw [Chip.judged, if_pos ((c.measured_lock theta).trans hl), if_neg hf', if_pos hlast']
  have hi : (c.measured theta).whorl.integ = c.whorl.integ := c.measured_integ theta
  generalize c.measured theta = m at *
  have hup : c.Frame [.whorl] (· ∈ measKeys ++ judgeKeys) ((m.bump WHORL.LOCK_STATE_OUTLIER_RUN).bump WHORL.OUTLIER_CNT_COUNT) :=
    ((hm.mono (by decide) (by decide)).bump _ _ _ (by decide)).bump _ _ _ (by decide)
  refine ⟨?_, ?_, ?_, hup.tells_raise _ _ (by decide) (by decide), ?_, ?_⟩
  · rw [Chip.lock, Chip.fld_raise_ne _ _ _ _ _ _ (by decide), Chip.fld_bump_ne (by decide), Chip.fld_bump_ne (by decide), hm.fld _ _ _ (by decide)]
    exact hl
  · rw [Chip.Counts, Chip.fld_raise_ne _ _ _ _ _ _ (by decide), Chip.fld_bump_ne (by decide), Chip.fld_bump_self, hm.fld _ _ _ (by decide)]
  · rw [Chip.Counts, Chip.fld_raise_ne _ _ _ _ _ _ (by decide), Chip.fld_bump_self, Chip.fld_bump_ne (by decide), hm.fld _ _ _ (by decide)]
  · rw [Chip.fld_raise_ne _ _ _ _ _ _ (by decide), Chip.fld_bump_ne (by decide), Chip.fld_bump_ne (by decide), hm.fld _ _ _ (by decide)]
  · rw [Chip.raise_whorl, Chip.bump_whorl, Chip.bump_whorl, hi]

/-- In LOCKED, the last outlier in a row loses the source. -/
theorem Chip.measurement_lost (hl : c.lock = lkLOCKED) (hf : ¬ (c.thetaOf theta0).natAbs ≤ c.fld WHORL.OUTLIER_NS_NS * nsQ)
    (hlast : max 1 (c.fld WHORL.LOCK_CFG_OUTLIER_MAX) ≤ c.fld WHORL.LOCK_STATE_OUTLIER_RUN + 1) :
    (c.measurement theta0).lock = lkACQUIRING ∧ (c.measurement theta0).fld WHORL.LOCK_STATE_LOSS_CAUSE = 2 ∧
      c.Tells (c.measurement theta0) EV.WHORL_SOURCE_LOST := by
  rw [c.measurement_judged]
  generalize c.thetaOf theta0 = theta at *
  have hm := c.measured_frame theta
  rw [Chip.judged, if_pos ((c.measured_lock theta).trans hl), if_neg (by rw [c.measured_fld theta (by decide)]; exact hf),
    if_neg (by rw [c.measured_fld theta (by decide), c.measured_fld theta (by decide)]; omega)]
  generalize c.measured theta = m at *
  have hs := ((m.sourceLost 2).setLock lkACQUIRING).stepOrServo_frame theta
  have hup : c.Frame [.whorl] (· ∈ WHORL.LOCK_STATE_LOSS_CAUSE.key 0 0 :: measKeys) (m.setFld WHORL.LOCK_STATE_LOSS_CAUSE 2) :=
    (hm.mono (by decide) (by decide)).setFld _ _ _ _ (by decide)
  have htell : c.Tells (m.sourceLost 2) EV.WHORL_SOURCE_LOST := hup.tells_raise _ _ (by decide) (by decide)
  have hset : (m.sourceLost 2).Frame [] (· ∈ [WHORL.LOCK_STATE_STATE.key 0 0]) ((m.sourceLost 2).setLock lkACQUIRING) :=
    Chip.but_eq_iff.mp (Chip.but_setLock (by decide))
  refine ⟨?_, ?_, ?_⟩
  · rw [Chip.lock, hs.fld _ _ _ (by decide), Chip.setLock, Chip.fld_setFld_self]
    rfl
  · rw [hs.fld _ _ _ (by decide), hset.fld _ _ _ (by decide), Chip.sourceLost, Chip.fld_raise_ne _ _ _ _ _ _ (by decide), Chip.fld_setFld_self]
    rfl
  · exact Chip.stepOrServo_told (by decide) (hset.tells htell (by decide))

/-- In ACQUIRING, the measurement that completes GOOD_RUN locks. -/
theorem Chip.measurement_locks (hl : c.lock = lkACQUIRING) (hc : c.fld WHORL.LOCK_CFG_LOCK_COUNT ≤ c.goodRun (c.thetaOf theta0))
    (hp : c.stepPending = false) : (c.measurement theta0).lock = lkLOCKED ∧ c.Tells (c.measurement theta0) EV.WHORL_LOCKED := by
  rw [c.measurement_judged]
  generalize c.thetaOf theta0 = theta at *
  have hm := c.measured_frame theta
  have hacq : (c.measured theta).lock = lkACQUIRING := (c.measured_lock theta).trans hl
  have hc' : (c.measured theta).fld WHORL.LOCK_CFG_LOCK_COUNT ≤ c.goodRun theta := by rwa [c.measured_fld theta (by decide)]
  have hp' : ¬ (c.measured theta).stepPending = true := by rw [c.measured_stepPending, hp]; decide
  rw [Chip.judged, if_neg (by rw [hacq]; decide), if_pos hacq, if_pos ⟨hc', hp'⟩]
  generalize c.measured theta = m at *
  have hs : c.Frame [.whorl] (· ∈ measKeys ++ judgeKeys) (m.stepOrServo theta) :=
    (hm.mono (by decide) (by decide)).trans ((m.stepOrServo_frame theta).mono (by decide) (by decide))
  have hset : c.Frame [.whorl] (· ∈ measKeys ++ judgeKeys) ((m.stepOrServo theta).setLock lkLOCKED) := hs.setFld _ _ _ _ (by decide)
  refine ⟨?_, hset.tells_raise _ _ (by decide) (by decide)⟩
  rw [Chip.lock, Chip.fld_raise_ne _ _ _ _ _ _ (by decide), Chip.setLock, Chip.fld_setFld_self]
  rfl

/-- In ACQUIRING, other measurements leave the lock state. -/
theorem Chip.measurement_acquires (hl : c.lock = lkACQUIRING)
    (hc : ¬ (c.fld WHORL.LOCK_CFG_LOCK_COUNT ≤ c.goodRun (c.thetaOf theta0) ∧ c.stepPending = false)) :
    (c.measurement theta0).lock = lkACQUIRING := by
  rw [c.measurement_judged]
  generalize c.thetaOf theta0 = theta at *
  have hacq : (c.measured theta).lock = lkACQUIRING := (c.measured_lock theta).trans hl
  have hc' : ¬ ((c.measured theta).fld WHORL.LOCK_CFG_LOCK_COUNT ≤ c.goodRun theta ∧ ¬ (c.measured theta).stepPending = true) := by
    rw [c.measured_stepPending, c.measured_fld theta (by decide), Bool.not_eq_true]
    exact hc
  rw [Chip.judged, if_neg (by rw [hacq]; decide), if_pos hacq, if_neg hc']
  exact ((c.measured theta).stepOrServo_frame theta).fld _ _ _ (by decide) |>.trans hacq

/-- UNLOCKED and HOLDOVER become ACQUIRING. -/
theorem Chip.measurement_found (hl : c.lock = lkUNLOCKED ∨ c.lock = lkHOLDOVER) : (c.measurement theta0).lock = lkACQUIRING := by
  rw [c.measurement_judged]
  generalize c.thetaOf theta0 = theta at *
  have hm : (c.measured theta).lock = lkUNLOCKED ∨ (c.measured theta).lock = lkHOLDOVER := by rwa [c.measured_lock]
  rw [Chip.judged, if_neg (by rcases hm with h | h <;> rw [h] <;> decide), if_neg (by rcases hm with h | h <;> rw [h] <;> decide), if_pos hm,
    Chip.lock, Chip.setLock, Chip.fld_setFld_self]
  rfl

/-- Outside LOCKED, a large offset asks for a step, and the servo stays. -/
theorem Chip.measurement_steps (hl : c.lock = lkUNLOCKED ∨ c.lock = lkACQUIRING ∨ c.lock = lkHOLDOVER) (hs : c.asksStep (c.thetaOf theta0)) :
    (c.measurement theta0).whorl.step.remain = -c.thetaOf theta0 ∧ (c.measurement theta0).fld WHORL.STEP_STATUS_ORIGIN = 1 ∧
      (c.measurement theta0).on WHORL.STEP_STATUS_BACKWARD = decide (0 < c.thetaOf theta0) ∧
      (c.measurement theta0).whorl.integ = c.whorl.integ ∧ (c.measurement theta0).fld WHORL.FREQ_ADJ = c.fld WHORL.FREQ_ADJ := by
  rw [c.measurement_judged]
  generalize c.thetaOf theta0 = theta at *
  have hj := Chip.judged_of_unlocked (theta := theta) (good := c.goodRun theta) (c := c.measured theta) (by rwa [c.measured_lock])
  have hasks : (c.measured theta).asksStep theta := by
    rw [Chip.asksStep, c.measured_fld theta (by decide), c.measured_stepPending]
    exact hs
  obtain ⟨h1, h2, h3, h4, h5⟩ := Chip.asksStep_reads hasks
  rw [hj.whorl (by decide), hj.fld _ _ _ (by decide), hj.on _ _ _ (by decide), hj.fld _ _ _ (by decide)]
  exact ⟨h1, h2, h3, h4.trans (c.measured_integ theta), h5.trans (c.measured_fld theta (by decide))⟩

/-- What O23 says of a measurement that gives θ + R = `theta`. -/
def Chip.Moved (c d : Chip) (theta : Int) : Prop :=
  let run := if theta.natAbs < c.fld WHORL.LOCK_CFG_LOCK_THRESH_NS * nsQ then min 255 (c.fld WHORL.LOCK_STATE_GOOD_RUN + 1) else 0
  let fits := theta.natAbs ≤ c.fld WHORL.OUTLIER_NS_NS * nsQ
  let last := max 1 (c.fld WHORL.LOCK_CFG_OUTLIER_MAX) ≤ c.fld WHORL.LOCK_STATE_OUTLIER_RUN + 1
  let steps := max 1000 (c.fld WHORL.STEP_THRESH_NS) * nsQ ≤ theta.natAbs ∧ c.stepPending = false
  d.fld WHORL.MEAS_CNT_COUNT = (c.fld WHORL.MEAS_CNT_COUNT + 1) % 2 ^ 32 ∧
  d.fld64 WHORL.LAST_OFFSET_LO_VAL WHORL.LAST_OFFSET_HI_VAL = unsigned 64 (theta / 2 ^ 26) ∧ d.whorl.lastMeas = c.now ∧
  d.fld WHORL.LOCK_STATE_GOOD_RUN = run ∧
  (c.lock = lkLOCKED → fits →
    let ns := Int.tdiv theta nsQ
    let e := if 0 ≤ c.logTau then Int.tdiv ns (2 ^ c.logTau.toNat : Nat) else ns * (2 ^ (-c.logTau).toNat : Nat)
    let integ := c.whorl.integ + e / (2 ^ c.fld WHORL.SERVO_CFG_KI_SHIFT : Nat)
    let y := integ + e / (2 ^ c.fld WHORL.SERVO_CFG_KP_SHIFT : Nat)
    d.whorl.integ = integ ∧ d.lock = lkLOCKED ∧ d.fld WHORL.LOCK_STATE_OUTLIER_RUN = 0 ∧
      d.fld WHORL.FREQ_ADJ = unsigned 32 (max (-(2 ^ 31)) (min (2 ^ 31 - 1) (Int.tdiv (-(y * 40 * 4294967296)) 1000000000)))) ∧
  (c.lock = lkLOCKED → ¬ fits → ¬ last → d.lock = lkLOCKED ∧ c.Counts d WHORL.LOCK_STATE_OUTLIER_RUN ∧
    c.Counts d WHORL.OUTLIER_CNT_COUNT ∧ c.Tells d EV.WHORL_OUTLIER ∧ d.fld WHORL.FREQ_ADJ = c.fld WHORL.FREQ_ADJ ∧
    d.whorl.integ = c.whorl.integ) ∧
  (c.lock = lkLOCKED → ¬ fits → last → d.lock = lkACQUIRING ∧ d.fld WHORL.LOCK_STATE_LOSS_CAUSE = 2 ∧ c.Tells d EV.WHORL_SOURCE_LOST) ∧
  (c.lock = lkACQUIRING → c.fld WHORL.LOCK_CFG_LOCK_COUNT ≤ run → c.stepPending = false → d.lock = lkLOCKED ∧ c.Tells d EV.WHORL_LOCKED) ∧
  (c.lock = lkACQUIRING → (run < c.fld WHORL.LOCK_CFG_LOCK_COUNT ∨ c.stepPending = true) → d.lock = lkACQUIRING) ∧
  ((c.lock = lkUNLOCKED ∨ c.lock = lkHOLDOVER) → d.lock = lkACQUIRING) ∧
  (c.lock ∈ [lkUNLOCKED, lkACQUIRING, lkHOLDOVER] → steps → d.whorl.step.remain = -theta ∧ d.fld WHORL.STEP_STATUS_ORIGIN = 1 ∧
    d.on WHORL.STEP_STATUS_BACKWARD = decide (0 < theta) ∧ d.whorl.integ = c.whorl.integ ∧
    d.fld WHORL.FREQ_ADJ = c.fld WHORL.FREQ_ADJ)

theorem Chip.moved_measurement : c.Moved (b.ended (c.measurement theta0)) (c.thetaOf theta0) := by
  obtain ⟨h1, h2, h3, h4, _⟩ := c.measurement_reads theta0
  have hk (r : FieldRow) (hr : r.key 0 0 ∉ levelKeys) : (b.ended (c.measurement theta0)).fld r = (c.measurement theta0).fld r :=
    Chip.ended_fld _ _ _ _ _ hr
  have hw : (b.ended (c.measurement theta0)).whorl = (c.measurement theta0).whorl := Chip.ended_whorl _ _
  unfold Chip.Moved Chip.lock Chip.Counts
  rw [hw, hk _ (by decide), hk _ (by decide), hk _ (by decide), hk _ (by decide), hk _ (by decide), hk _ (by decide), hk _ (by decide),
    hk _ (by decide), Chip.ended_fld64 _ (by decide) (by decide), Chip.ended_on _ _ _ _ _ (by decide)]
  refine ⟨h1, h2, h4, h3, fun hl hf => c.measurement_fits theta0 hl hf, fun hl hf ho => ?_, fun hl hf ho => ?_, fun hl hc hp => ?_,
    fun hl hc => c.measurement_acquires theta0 hl ?_, c.measurement_found theta0, fun hl hs => c.measurement_steps theta0 ?_ hs⟩
  · obtain ⟨g1, g2, g3, g4, g5, g6⟩ := c.measurement_outlier theta0 hl hf ho
    exact ⟨g1, g2, g3, g4.ended (by decide), g5, g6⟩
  · obtain ⟨g1, g2, g3⟩ := c.measurement_lost theta0 hl hf ho
    exact ⟨g1, g2, g3.ended (by decide)⟩
  · obtain ⟨g1, g2⟩ := c.measurement_locks theta0 hl hc hp
    exact ⟨g1, g2.ended (by decide)⟩
  · rintro ⟨hle, hno⟩
    rcases hc with hc | hc
    · exact absurd hle (Nat.not_le.mpr hc)
    · rw [hno] at hc
      exact absurd hc (by decide)
  · have hl' : c.lock ∈ [lkUNLOCKED, lkACQUIRING, lkHOLDOVER] := hl
    simpa only [List.mem_cons, List.not_mem_nil, or_false] using hl'
end
end

/-- No Sync waits for its Follow_Up. -/
def Chip.unsynced (c : Chip) : Chip := { c with whorl := { c.whorl with sync := none } }

theorem Chip.moved_unsynced {c d : Chip} {theta : Int} (h : c.unsynced.Moved d theta) : c.Moved d theta := by
  obtain ⟨h1, h2, h3, h4, h5, h6, h7, h8, h9, h10, h11⟩ := h
  exact ⟨h1, h2, h3, h4, h5, h6, h7, h8, h9, h10, h11⟩

/-- Settles O23: each row of Table 03.5 for a measurement, which a one-step Sync or the Follow_Up of the waiting Sync gives. -/
theorem ptpMeasurements : Obligations.PtpMeasurements := by
  unfold Obligations.PtpMeasurements
  intro s n phi m
  have hmoved (theta0 : Int) : (s.chip.ended (s.chip.unsynced.measurement theta0)).whorl.sync = none ∧
      s.chip.Moved (s.chip.ended (s.chip.unsynced.measurement theta0)) (theta0 + s.chip.whorl.step.remain) := by
    have hm := Chip.moved_unsynced (Chip.moved_measurement s.chip s.chip.unsynced theta0)
    have ht : s.chip.unsynced.thetaOf theta0 = theta0 + s.chip.whorl.step.remain := rfl
    rw [ht] at hm
    refine ⟨?_, hm⟩
    obtain ⟨_, _, _, _, hsync⟩ := s.chip.unsynced.measurement_reads theta0
    rw [Chip.ended_whorl, hsync]
    rfl
  refine ⟨fun hdue => ⟨?_, ?_⟩, fun hdue => ⟨fun h => ?_, fun h => ?_, fun r hr hseq => ?_, fun h => ?_⟩⟩
  · exact idles_of_not_due (due := fun c => c.ptpForServo n.val m) (g := fun d => d.ptpSync (d.rxStamp n.val phi) m) rfl hdue
  · exact idles_of_not_due (due := fun c => c.ptpForServo n.val m) (g := fun d => d.ptpFollowUp m) rfl hdue
  · refine ends_of_due (due := fun c => c.ptpForServo n.val m) (g := fun d => d.ptpSync (d.rxStamp n.val phi) m) rfl hdue ?_
    have hsync (t2 : Int) : s.chip.ptpSync t2 m = s.chip.unsynced.measurement (s.chip.ptpTheta t2 m.originSec.toNat m.originNs.toNat (signed 64 m.corr.toNat)) := by
      rw [Chip.ptpSync, h]
      exact if_neg (by decide)
    rw [hsync]
    exact hmoved _
  · refine becomes_of_due (due := fun c => c.ptpForServo n.val m) (g := fun d => d.ptpSync (d.rxStamp n.val phi) m) rfl hdue ?_ trivial
    rw [Chip.ptpSync, h]
    exact .refl _
  · refine ends_of_due (due := fun c => c.ptpForServo n.val m) (g := fun d => d.ptpFollowUp m) rfl hdue ?_
    have hfollow : s.chip.ptpFollowUp m =
        s.chip.unsynced.measurement (s.chip.ptpTheta r.t2 m.originSec.toNat m.originNs.toNat (r.corr + signed 64 m.corr.toNat)) := by
      rw [Chip.ptpFollowUp, hr]
      exact if_pos hseq
    rw [hfollow]
    exact hmoved _
  · refine idles_of (f := fun c => c.whenDue (c.ptpForServo n.val m) fun d => d.ptpFollowUp m) rfl ((s.chip.whenDue_true _ hdue).trans ?_)
    rw [Chip.ptpFollowUp]
    rcases h with h | ⟨r, h, hne⟩
    · rw [h]
    · rw [h]
      exact if_neg hne

end Sys2Proof.Machine
end

section
/-!
PROOF. O25: PPS output and input (R115, R119, R120), and the cycle marks (R121, R122).
-/
namespace Sys2Proof.Machine

/-! ### PPS -/

section
variable {c : Chip} {phi : Fin 2560}

/-- A PPS_IN edge comes within 500 ms of the last. -/
def Chip.ppsNear (c : Chip) (phi : Fin 2560) : Prop :=
  ∃ t, c.whorl.ppsLast = some t ∧ c.now + (c.withinTick phi).toNat < t + 500 * msQ

/-- The block with an accepted PPS_IN edge captured, before the servo takes it. -/
def Chip.ppsCaptured (c : Chip) (phi : Fin 2560) : Chip :=
  let t := c.netStamp phi
  let d := c.setFld64 WHORL.PPS_IN_SEC_LO_SEC WHORL.PPS_IN_SEC_HI_SEC (stampSec t)
  let d := ((d.setFld WHORL.PPS_IN_NS_NS (stampNs t)).setFld WHORL.PPS_IN_SUB_SUBNS (stampSub t)).flag WHORL.PPS_IN_SUB_NEW
  d.bumpWrap WHORL.PPS_IN_CNT_ACCEPTED

def Chip.ppsTaken (c : Chip) (phi : Fin 2560) : Chip :=
  let m := c.whorl.mono + (c.withinTick phi).toNat
  let d := c.ppsCaptured phi
  { d with whorl := { d.whorl with ppsLast := some m, ppsMissFrom := m } }.raise EV.WHORL_PPS_IN_EDGE

def Chip.ppsEarly (c : Chip) (phi : Fin 2560) : Bool :=
  match c.whorl.ppsLast with
  | some t => decide (c.whorl.mono + (c.withinTick phi).toNat < t + 500 * msQ)
  | none => false

theorem Chip.ppsEarly_iff : c.ppsEarly phi = true ↔ c.ppsNear phi := by
  unfold Chip.ppsEarly Chip.ppsNear
  cases c.whorl.ppsLast with
  | none => simp
  | some t => simp [Chip.now]

theorem Chip.ppsInEdge_eq (c : Chip) (phi : Fin 2560) : c.ppsInEdge phi =
    if c.ppsEarly phi then c.bump WHORL.PPS_IN_CNT_IGNORED
    else if (c.ppsTaken phi).whorl.source = 2 then
      (c.ppsTaken phi).measurement ((c.netStamp phi - signed 32 ((c.ppsTaken phi).fld WHORL.PPS_IN_DELAY_DELAY) -
        nearestSec64 (c.netStamp phi - signed 32 ((c.ppsTaken phi).fld WHORL.PPS_IN_DELAY_DELAY))) * 2 ^ 26)
    else c.ppsTaken phi := rfl

theorem Chip.ppsInEdge_near (h : c.ppsNear phi) : c.ppsInEdge phi = c.bump WHORL.PPS_IN_CNT_IGNORED := by
  rw [Chip.ppsInEdge_eq, if_pos (Chip.ppsEarly_iff.mpr h)]

/-- An edge that is not too early is captured; the servo takes it with SOURCE = PPS. -/
theorem Chip.ppsInEdge_far (h : ¬ c.ppsNear phi) : ∃ theta, c.ppsInEdge phi =
    if (c.ppsTaken phi).whorl.source = 2 then (c.ppsTaken phi).measurement theta else c.ppsTaken phi := by
  rw [Chip.ppsInEdge_eq, if_neg (mt Chip.ppsEarly_iff.mp h)]
  exact ⟨_, rfl⟩

def ppsKeys : List Nat :=
  [WHORL.PPS_IN_SEC_LO_SEC.key 0 0, WHORL.PPS_IN_SEC_HI_SEC.key 0 0, WHORL.PPS_IN_NS_NS.key 0 0, WHORL.PPS_IN_SUB_SUBNS.key 0 0,
   WHORL.PPS_IN_SUB_NEW.key 0 0, WHORL.PPS_IN_CNT_ACCEPTED.key 0 0, EV.WHORL_PPS_IN_EDGE.key 0]

theorem Chip.ppsCaptured_frame (c : Chip) (phi : Fin 2560) : c.Frame [] (· ∈ ppsKeys) (c.ppsCaptured phi) := by
  refine Chip.but_eq_iff.mp ?_
  unfold Chip.ppsCaptured
  simp (disch := decide) only [Chip.but_setFld64, Chip.but_setFld, Chip.but_flag, Chip.but_bumpWrap]

theorem Chip.ppsTaken_frame (c : Chip) (phi : Fin 2560) : c.Frame [.whorl] (· ∈ ppsKeys) (c.ppsTaken phi) :=
  (((c.ppsCaptured_frame phi).mono (by decide) fun _ h => h).withWhorl _ (by decide)).raise _ _ (by decide)

theorem Chip.ppsTaken_whorl (c : Chip) (phi : Fin 2560) : (c.ppsTaken phi).whorl =
    { c.whorl with ppsLast := some (c.now + (c.withinTick phi).toNat), ppsMissFrom := c.now + (c.withinTick phi).toNat } := by
  rw [Chip.ppsTaken, Chip.raise_whorl, (c.ppsCaptured_frame phi).whorl (by decide)]
  rfl

theorem stampNs_lt (t : Int) : stampNs t < 2 ^ 32 := by
  unfold stampNs
  omega

theorem stampSub_lt (t : Int) : stampSub t < 2 ^ 6 := by
  unfold stampSub
  omega

theorem Chip.ppsTaken_reads (c : Chip) (phi : Fin 2560) :
    (c.ppsTaken phi).fld64 WHORL.PPS_IN_SEC_LO_SEC WHORL.PPS_IN_SEC_HI_SEC = stampSec (c.netStamp phi) ∧
      (c.ppsTaken phi).fld WHORL.PPS_IN_NS_NS = stampNs (c.netStamp phi) ∧
      (c.ppsTaken phi).fld WHORL.PPS_IN_SUB_SUBNS = stampSub (c.netStamp phi) ∧ (c.ppsTaken phi).fld WHORL.PPS_IN_SUB_NEW = 1 ∧
      c.Tells (c.ppsTaken phi) EV.WHORL_PPS_IN_EDGE ∧
      (c.ppsTaken phi).fld WHORL.PPS_IN_CNT_ACCEPTED = (c.fld WHORL.PPS_IN_CNT_ACCEPTED + 1) % 65536 := by
  have hr : ∀ r : FieldRow, r.key 0 0 ≠ EV.WHORL_PPS_IN_EDGE.key 0 → (c.ppsTaken phi).fld r = (c.ppsCaptured phi).fld r := fun r h =>
    Chip.fld_raise_ne _ _ _ _ _ _ h
  have h64 : (c.ppsTaken phi).fld64 WHORL.PPS_IN_SEC_LO_SEC WHORL.PPS_IN_SEC_HI_SEC =
      (c.ppsCaptured phi).fld64 WHORL.PPS_IN_SEC_LO_SEC WHORL.PPS_IN_SEC_HI_SEC := Chip.fld64_raise_ne (by decide) (by decide)
  rw [h64, hr _ (by decide), hr _ (by decide), hr _ (by decide), hr _ (by decide)]
  unfold Chip.ppsCaptured
  have htell : c.Tells (c.ppsTaken phi) EV.WHORL_PPS_IN_EDGE :=
    (((c.ppsCaptured_frame phi).mono (T := [.whorl]) (by decide) fun _ h => h).withWhorl _ (by decide)).tells_raise _ _ (by decide) (by decide)
  simp (disch := decide) only [Chip.fld64, Chip.fld_bumpWrap_ne, Chip.fld_bumpWrap_self, Chip.fld_flag_ne, Chip.fld_flag_self,
    Chip.fld_setFld_ne, Chip.fld_setFld_self, Chip.fld_setFld64_ne]
  exact ⟨Chip.fld64_setFld64 (lo := WHORL.PPS_IN_SEC_LO_SEC) (hi := WHORL.PPS_IN_SEC_HI_SEC) rfl (unsigned_lt 48 _) (by decide),
    Nat.mod_eq_of_lt (stampNs_lt _), Nat.mod_eq_of_lt (stampSub_lt _), trivial, htell, rfl⟩
end

/-! ### Cycle marks -/

/-- Of the time and the marks, only mark `k` moves, and becomes `r`. -/
structure Chip.MovesMark (k : Nat) (c d : Chip) (r : Mark) : Prop where
  now : d.now = c.now
  offset : d.whorl.offset = c.whorl.offset
  self : d.markRec k = r
  rest : ∀ j, j ≠ k → d.markRec j = c.markRec j

section
variable {c d e : Chip} {k : Nat} {r q : Mark}

theorem Chip.MovesMark.trans (h : c.MovesMark k d r) (h' : d.MovesMark k e q) : c.MovesMark k e q :=
  ⟨h'.now.trans h.now, h'.offset.trans h.offset, h'.self, fun j hj => (h'.rest j hj).trans (h.rest j hj)⟩

theorem Chip.movesMark_refl (c : Chip) (k : Nat) : c.MovesMark k c (c.markRec k) := ⟨rfl, rfl, rfl, fun _ _ => rfl⟩

theorem Chip.MovesMark.stays (h : c.MovesMark k d r) :
    d.now = c.now ∧ d.whorl.offset = c.whorl.offset ∧ ∀ j, j ≠ k → d.markRec j = c.markRec j := ⟨h.now, h.offset, h.rest⟩

theorem Chip.MovesMark.of_whorl (h : c.MovesMark k d r) (he : e.whorl = d.whorl) : c.MovesMark k e r := by
  obtain ⟨h1, h2, h3, h4⟩ := h
  constructor <;> simp only [Chip.now, Chip.markRec, he] <;> assumption

theorem Chip.movesMark_setMark (c : Chip) (k : Nat) (r : Mark) : c.MovesMark k (c.setMark k r) r :=
  ⟨rfl, rfl, Tab.get_put_self _ _ _ _, fun _ hj => Tab.get_put_ne _ _ _ _ hj⟩

theorem Chip.MovesMark.ended (b : Chip) (h : c.MovesMark k d r) : c.MovesMark k (b.ended d) r := h.of_whorl (b.ended_whorl d)

/-- The change of a mark's own cells at its edge, and of nothing that its timing is read from. -/
def markKeys (k : Nat) : List Nat := [WHORL.MARK_CTRL_MODE.key 0 k, WHORL.MARK_CTRL_ACTIVE.key 0 k, WHORL.MARK_MISSED_COUNT.key 0 k,
  EV.WHORL_MARK_MISSED.key 0]

theorem activeKey_not_level : ∀ k : Fin 8, WHORL.MARK_CTRL_ACTIVE.key 0 k.val ∉ levelKeys ∧ WHORL.MARK_MISSED_COUNT.key 0 k.val ∉ levelKeys := by
  decide

/-! #### A write of CTRL -/

/-- The fields of a CTRL register. -/
theorem markFields (c : Chip) : ∀ k : Fin 8, c.fieldsAt .whorl (WHORL.MARK_CTRL_MODE.off + 32 * k.val) =
    [(WHORL.MARK_CTRL_MODE, k.val), (WHORL.MARK_CTRL_POL, k.val), (WHORL.MARK_CTRL_ACTIVE, k.val), (WHORL.MARK_CTRL_SEG, k.val)] := by
  intro k
  fin_cases k <;> rfl

def ctrlKeys (k : Nat) : List Nat := [WHORL.MARK_CTRL_MODE.key 0 k, WHORL.MARK_CTRL_POL.key 0 k, WHORL.MARK_CTRL_SEG.key 0 k]

theorem markWrite (c : Chip) (p : Port) (k : Fin 8) (v : Nat) :
    c.Frame [] (· ∈ ctrlKeys k.val) (c.plainWrite .whorl 0 (WHORL.MARK_CTRL_MODE.off + 32 * k.val) v p) ∧
      (c.plainWrite .whorl 0 (WHORL.MARK_CTRL_MODE.off + 32 * k.val) v p).fld WHORL.MARK_CTRL_MODE 0 k.val = bitsOf v 1 0 ∧
      (c.plainWrite .whorl 0 (WHORL.MARK_CTRL_MODE.off + 32 * k.val) v p).fld WHORL.MARK_CTRL_SEG 0 k.val = bitsOf v 14 8 := by
  rw [Chip.plainWrite_open (Chip.sealedAt_open (by decide) _ _)]
  have hread (g : FieldRow × Nat) (hg : g ∈ c.fieldsAt .whorl (WHORL.MARK_CTRL_MODE.off + 32 * k.val)) :=
    Chip.fld_plainFields (n := 0) hg v
  have htaken : c.takenKeys .whorl 0 (WHORL.MARK_CTRL_MODE.off + 32 * k.val) = ctrlKeys k.val := by
    rw [Chip.takenKeys, markFields]
    rfl
  refine ⟨(c.plainFields_frame _ _ _ _ []).mono (by simp) fun x hx => htaken ▸ hx, ?_, ?_⟩
  · exact hread (WHORL.MARK_CTRL_MODE, k.val) (by rw [markFields]; simp)
  · exact hread (WHORL.MARK_CTRL_SEG, k.val) (by rw [markFields]; simp)

/-- Mark `k` as the written mode finds it. -/
def Chip.armed (c : Chip) (k : Nat) : Mark :=
  { c.markRec k with mode := c.fld WHORL.MARK_CTRL_MODE 0 k, seg := c.fld WHORL.MARK_CTRL_SEG 0 k, period := c.markPeriod k * nsQ,
                     width := c.markWidth k * nsQ, segOffset := signed 32 (c.fld WHORL.MARK_SEG_OFFSET_NS 0 k) * (nsQ : Int),
                     armedAt := c.now, waiting := false }

/-- A ONE_SHOT mark whose START is past. -/
def Chip.markMissed (c : Chip) (k : Nat) : Chip :=
  ((((c.setMark k { c.armed k with mode := 0 }).bump WHORL.MARK_MISSED_COUNT 0 k).setFld WHORL.MARK_CTRL_MODE 0 0 k).setFld
    WHORL.MARK_CTRL_ACTIVE 0 0 k).raise EV.WHORL_MARK_MISSED

theorem Chip.markArm_eq (c : Chip) (k : Nat) : c.markArm k =
    if c.fld WHORL.MARK_CTRL_MODE 0 k = 1 then
      (c.setMark k { c.armed k with next := firstEdge (c.markRec k).start c.net (c.markPeriod k * nsQ) }).setFld WHORL.MARK_CTRL_ACTIVE 1 0 k
    else if c.fld WHORL.MARK_CTRL_MODE 0 k = 2 then
      if (c.markRec k).start < c.net then c.markMissed k
      else (c.setMark k { c.armed k with next := (c.markRec k).start }).setFld WHORL.MARK_CTRL_ACTIVE 1 0 k
    else if c.fld WHORL.MARK_CTRL_MODE 0 k = 3 ∧ c.fld WHORL.MARK_CTRL_SEG 0 k ≤ 95 then
      (c.setMark k (c.armed k)).setFld WHORL.MARK_CTRL_ACTIVE 1 0 k
    else (c.setMark k { c.armed k with mode := 0 }).setFld WHORL.MARK_CTRL_ACTIVE 0 0 k := rfl

theorem Chip.markArm_moves (c : Chip) (k : Nat) : ∃ r, c.MovesMark k (c.markArm k) r := by
  have hset (r : Mark) (v : Nat) : c.MovesMark k ((c.setMark k r).setFld WHORL.MARK_CTRL_ACTIVE v 0 k) r :=
    (c.movesMark_setMark k r).of_whorl rfl
  rw [c.markArm_eq]
  split_ifs
  · exact ⟨_, hset _ _⟩
  · refine ⟨_, (c.movesMark_setMark k { c.armed k with mode := 0 }).of_whorl ?_⟩
    rw [Chip.markMissed, Chip.raise_whorl]
    rfl
  · exact ⟨_, hset _ _⟩
  · exact ⟨_, hset _ _⟩
  · exact ⟨_, hset _ _⟩

theorem Chip.movesMark_active (c : Chip) (k : Nat) (r : Mark) (v : Nat) :
    c.MovesMark k ((c.setMark k r).setFld WHORL.MARK_CTRL_ACTIVE v 0 k) r :=
  (c.movesMark_setMark k r).of_whorl (e := (c.setMark k r).setFld WHORL.MARK_CTRL_ACTIVE v 0 k) rfl

theorem Chip.fld_active (c : Chip) (k v : Nat) (h : v < 2) : (c.setFld WHORL.MARK_CTRL_ACTIVE v 0 k).fld WHORL.MARK_CTRL_ACTIVE 0 k = v :=
  (Chip.fld_setFld_self _ _ _ _ _).trans (Nat.mod_eq_of_lt h)

theorem Chip.markArm_periodic (h : c.fld WHORL.MARK_CTRL_MODE 0 k = 1) : ((c.markArm k).markRec k).mode = 1 ∧
    (c.markArm k).fld WHORL.MARK_CTRL_ACTIVE 0 k = 1 ∧ ((c.markArm k).markRec k).period = c.markPeriod k * nsQ ∧
    ((c.markArm k).markRec k).width = c.markWidth k * nsQ ∧
    ((c.markArm k).markRec k).next = firstEdge (c.markRec k).start c.net (c.markPeriod k * nsQ) := by
  rw [c.markArm_eq, if_pos h, (c.movesMark_active k _ 1).self, Chip.fld_active _ _ _ (by decide)]
  exact ⟨h, rfl, rfl, rfl, rfl⟩

theorem markKeys_apart : ∀ k : Fin 8, WHORL.MARK_MISSED_COUNT.key 0 k.val ≠ EV.WHORL_MARK_MISSED.key 0 ∧
    WHORL.MARK_MISSED_COUNT.key 0 k.val ≠ WHORL.MARK_CTRL_ACTIVE.key 0 k.val ∧
    WHORL.MARK_MISSED_COUNT.key 0 k.val ≠ WHORL.MARK_CTRL_MODE.key 0 k.val ∧
    WHORL.MARK_CTRL_ACTIVE.key 0 k.val ≠ EV.WHORL_MARK_MISSED.key 0 := by
  decide

theorem aon_not_markKeys : ∀ k : Fin 8, ¬ (Domain.row EV.WHORL_MARK_MISSED.cls.domain).key 0 0 ∈ markKeys k.val := by
  decide

theorem Chip.markArm_late (k : Fin 8) (h : c.fld WHORL.MARK_CTRL_MODE 0 k.val = 2) (hs : (c.markRec k.val).start < c.net) :
    ((c.markArm k.val).markRec k.val).mode = 0 ∧ (c.markArm k.val).fld WHORL.MARK_CTRL_ACTIVE 0 k.val = 0 ∧
    (c.markArm k.val).fld WHORL.MARK_MISSED_COUNT 0 k.val = min (c.fld WHORL.MARK_MISSED_COUNT 0 k.val + 1) (2 ^ 32 - 1) ∧
    c.Tells (c.markArm k.val) EV.WHORL_MARK_MISSED := by
  obtain ⟨h1, h2, h3, h4⟩ := markKeys_apart k
  have hmoved : c.MovesMark k.val (c.markMissed k.val) { c.armed k.val with mode := 0 } :=
    (c.movesMark_setMark k.val { c.armed k.val with mode := 0 }).of_whorl (Chip.raise_whorl _ _ _)
  rw [c.markArm_eq, h, if_neg (by decide), if_pos rfl, if_pos hs, hmoved.self, Chip.markMissed, Chip.fld_raise_ne _ _ _ _ _ _ h4,
    Chip.fld_raise_ne _ _ _ _ _ _ h1, Chip.fld_setFld_ne _ _ _ _ _ _ _ _ h2, Chip.fld_setFld_ne _ _ _ _ _ _ _ _ h3, Chip.fld_bump_self,
    Chip.fld_active _ _ _ (by decide)]
  have hbefore : c.Frame [.whorl] (· ∈ markKeys k.val) ((((c.setMark k.val { c.armed k.val with mode := 0 }).bump
      WHORL.MARK_MISSED_COUNT 0 k.val).setFld WHORL.MARK_CTRL_MODE 0 0 k.val).setFld WHORL.MARK_CTRL_ACTIVE 0 0 k.val) :=
    ((((Chip.Frame.refl c).withWhorl _ (by decide)).bump _ _ _ (by simp [markKeys])).setFld _ _ _ _ (by simp [markKeys])).setFld _ _ _ _
      (by simp [markKeys])
  exact ⟨rfl, rfl, rfl, hbefore.tells_raise _ _ (by decide) (aon_not_markKeys k)⟩

theorem Chip.markArm_once (h : c.fld WHORL.MARK_CTRL_MODE 0 k = 2) (hs : c.net ≤ (c.markRec k).start) :
    ((c.markArm k).markRec k).next = (c.markRec k).start ∧ (c.markArm k).fld WHORL.MARK_CTRL_ACTIVE 0 k = 1 := by
  rw [c.markArm_eq, h, if_neg (by decide), if_pos rfl, if_neg (Int.not_lt.mpr hs), (c.movesMark_active k _ 1).self,
    Chip.fld_active _ _ _ (by decide)]
  exact ⟨rfl, rfl⟩

theorem Chip.markArm_segment (h : c.fld WHORL.MARK_CTRL_MODE 0 k = 3) :
    (c.markArm k).fld WHORL.MARK_CTRL_ACTIVE 0 k = if c.fld WHORL.MARK_CTRL_SEG 0 k ≤ 95 then 1 else 0 := by
  rw [c.markArm_eq, h, if_neg (by decide), if_neg (by decide)]
  by_cases hs : c.fld WHORL.MARK_CTRL_SEG 0 k ≤ 95
  · rw [if_pos ⟨rfl, hs⟩, if_pos hs, Chip.fld_active _ _ _ (by decide)]
  · rw [if_neg (fun g => hs g.2), if_neg hs, Chip.fld_active _ _ _ (by decide)]

theorem Chip.markArm_off (h : c.fld WHORL.MARK_CTRL_MODE 0 k = 0) :
    ((c.markArm k).markRec k).mode = 0 ∧ (c.markArm k).fld WHORL.MARK_CTRL_ACTIVE 0 k = 0 := by
  rw [c.markArm_eq, h, if_neg (by decide), if_neg (by decide), if_neg (fun g => absurd g.1 (by decide)), (c.movesMark_active k _ 0).self,
    Chip.fld_active _ _ _ (by decide)]
  exact ⟨rfl, rfl⟩

/-- What a CTRL write leaves as it was: the time, the mark, and its START, PERIOD, WIDTH and MISSED. -/
theorem ctrlKeys_apart : ∀ k : Fin 8,
    (∀ r ∈ [WHORL.MARK_START_SEC_LO_SEC, WHORL.MARK_START_SEC_HI_SEC, WHORL.MARK_START_NS_NS, WHORL.MARK_PERIOD_NS_NS,
      WHORL.MARK_WIDTH_NS_NS, WHORL.MARK_MISSED_COUNT], r.key 0 k.val ∉ ctrlKeys k.val) ∧
    ¬ (Domain.row EV.WHORL_MARK_MISSED.cls.domain).key 0 0 ∈ ctrlKeys k.val := by
  decide

/-- The block after a CTRL write, before the mode takes effect. -/
def Chip.ctrlWritten (c : Chip) (p : Port) (k v : Nat) : Chip := c.plainWrite .whorl 0 (WHORL.MARK_CTRL_MODE.off + 32 * k) v p

theorem Chip.ctrlWritten_keeps (c : Chip) (p : Port) (k : Fin 8) (v : Nat) :
    (c.ctrlWritten p k.val v).whorl = c.whorl ∧ (c.ctrlWritten p k.val v).markStart k.val = c.markStart k.val ∧
      (c.ctrlWritten p k.val v).markPeriod k.val = c.markPeriod k.val ∧ (c.ctrlWritten p k.val v).markWidth k.val = c.markWidth k.val ∧
      (c.ctrlWritten p k.val v).fld WHORL.MARK_MISSED_COUNT 0 k.val = c.fld WHORL.MARK_MISSED_COUNT 0 k.val ∧
      (c.ctrlWritten p k.val v).domUp .aon = c.domUp .aon := by
  obtain ⟨hframe, _, _⟩ := markWrite c p k v
  obtain ⟨happ, hdom⟩ := ctrlKeys_apart k
  have hk (r : FieldRow) (hr : r ∈ [WHORL.MARK_START_SEC_LO_SEC, WHORL.MARK_START_SEC_HI_SEC, WHORL.MARK_START_NS_NS, WHORL.MARK_PERIOD_NS_NS,
      WHORL.MARK_WIDTH_NS_NS, WHORL.MARK_MISSED_COUNT]) : (c.ctrlWritten p k.val v).fld r 0 k.val = c.fld r 0 k.val :=
    hframe.fld _ _ _ (happ r hr)
  have hperiod : (c.ctrlWritten p k.val v).markPeriod k.val = c.markPeriod k.val := by
    rw [Chip.markPeriod, hk _ (by simp), Chip.markPeriod]
  refine ⟨hframe.whorl (by decide), ?_, hperiod, ?_, hk _ (by simp), hframe.domUp .aon hdom⟩
  · rw [Chip.markStart, Chip.fld64, hk _ (by simp), hk _ (by simp), hk _ (by simp), Chip.markStart, Chip.fld64]
  · rw [Chip.markWidth, hk _ (by simp), hperiod, Chip.markWidth]

theorem Chip.markCtrlWrite_eq (c : Chip) (p : Port) (k v : Nat) : c.markCtrlWrite p k v =
    if (c.ctrlWritten p k v).now < ((c.ctrlWritten p k v).markRec k).pulseEnd then
      (c.ctrlWritten p k v).setMark k { (c.ctrlWritten p k v).markRec k with start := (c.ctrlWritten p k v).markStart k, waiting := true }
    else ((c.ctrlWritten p k v).setMark k { (c.ctrlWritten p k v).markRec k with start := (c.ctrlWritten p k v).markStart k }).markArm k := rfl

/-- The block after a CTRL write that takes effect at once, before it does. -/
def Chip.markStaged (c : Chip) (p : Port) (k v : Nat) : Chip :=
  (c.ctrlWritten p k v).setMark k { c.markRec k with start := c.markStart k }

theorem Chip.markStaged_moves (c : Chip) (p : Port) (k : Fin 8) (v : Nat) :
    c.MovesMark k.val (c.markStaged p k.val v) { c.markRec k.val with start := c.markStart k.val } := by
  obtain ⟨hw, _⟩ := c.ctrlWritten_keeps p k v
  exact ((c.movesMark_refl k.val).of_whorl hw).trans (Chip.movesMark_setMark _ _ _)

theorem Chip.markStaged_reads (c : Chip) (p : Port) (k : Fin 8) (v : Nat) :
    (c.markStaged p k.val v).fld WHORL.MARK_CTRL_MODE 0 k.val = bitsOf v 1 0 ∧
      (c.markStaged p k.val v).fld WHORL.MARK_CTRL_SEG 0 k.val = bitsOf v 14 8 ∧
      (c.markStaged p k.val v).markPeriod k.val = c.markPeriod k.val ∧ (c.markStaged p k.val v).markWidth k.val = c.markWidth k.val ∧
      (c.markStaged p k.val v).fld WHORL.MARK_MISSED_COUNT 0 k.val = c.fld WHORL.MARK_MISSED_COUNT 0 k.val ∧
      (c.markStaged p k.val v).domUp .aon = c.domUp .aon := by
  obtain ⟨_, hmode, hseg⟩ := markWrite c p k v
  obtain ⟨_, _, hperiod, hwidth, hmissed, hup⟩ := c.ctrlWritten_keeps p k v
  exact ⟨hmode, hseg, hperiod, hwidth, hmissed, hup⟩

theorem Chip.markStaged_net (c : Chip) (p : Port) (k : Fin 8) (v : Nat) : (c.markStaged p k.val v).net = c.net := by
  have h := c.markStaged_moves p k v
  rw [Chip.net, h.offset, show (c.markStaged p k.val v).whorl.mono = c.whorl.mono from h.now, Chip.net]

theorem Chip.markCtrlWrite_now (c : Chip) (p : Port) (k : Fin 8) (v : Nat) (h : (c.markRec k.val).pulseEnd ≤ c.now) :
    c.markCtrlWrite p k.val v = (c.markStaged p k.val v).markArm k.val := by
  obtain ⟨hw, hs, _⟩ := c.ctrlWritten_keeps p k v
  have hmark := (c.movesMark_refl k.val).of_whorl hw
  rw [Chip.markCtrlWrite_eq, hmark.self, hs, hmark.now, if_neg (Nat.not_lt.mpr h), Chip.markStaged]

/-! #### The edges of a mark -/

/-- Mark `k` after the edge that comes at its next instant. -/
def Chip.pulsed (c : Chip) (k : Nat) : Mark :=
  { c.markRec k with pulseAt := c.placed ((c.markRec k).next - c.whorl.offset),
                     pulseEnd := c.placed ((c.markRec k).next - c.whorl.offset) + (c.markRec k).width }

theorem Chip.markEdge_eq (c : Chip) (k : Nat) : c.markEdge k =
    if (c.markRec k).mode = 1 then c.setMark k { c.pulsed k with next := (c.markRec k).next + (c.markRec k).period }
    else (c.setMark k { c.pulsed k with mode := 0 }).setFld WHORL.MARK_CTRL_ACTIVE 0 0 k := rfl

/-- Mark `k` after its edge of the cycle that starts at `start`. -/
def Chip.segPulsed (c : Chip) (k start : Nat) : Mark :=
  { c.markRec k with pulseAt := c.placed (start + (c.markRec k).segOffset),
                     pulseEnd := c.placed (start + (c.markRec k).segOffset) + (c.markRec k).width, lastCycle := start }

theorem Chip.anyMarkEdge_segment {start : Nat} (hd : c.markDue k = false) (h : c.segEdge k = some start) :
    c.anyMarkEdge k = c.setMark k (c.segPulsed k start) := by
  rw [Chip.anyMarkEdge, hd, h]
  rfl

theorem Chip.anyMarkEdge_none (hd : c.markDue k = false) (h : c.segEdge k = none) : c.anyMarkEdge k = c := by
  rw [Chip.anyMarkEdge, hd, h]
  rfl

theorem Chip.not_fires (h : c.backwardNow = true) : c.fires = false := by
  rw [Chip.fires, h]
  exact Bool.and_false _

/-- Nothing fires in a tick that applies a backward part. -/
theorem Chip.anyMarkEdge_backward (h : c.backwardNow = true) (k : Nat) : c.anyMarkEdge k = c := by
  refine Chip.anyMarkEdge_none ?_ ?_
  · rw [Chip.markDue, Chip.not_fires h]
    simp
  · rw [Chip.segEdge, Chip.not_fires h]
    rfl
end

section
variable {s : State} {p : Port} {k : Fin 8} {v : Word}

theorem markEdge_of_not_reset {ok : Chip → Prop} (hm : s.chip.mode ≠ mRESET) (hok : ok (s.chip.ended (s.chip.anyMarkEdge k.val))) :
    Ends (.cycleMarkEdge k) s ok :=
  ends_of_due (due := fun c => c.mode != mRESET) (g := fun d => d.anyMarkEdge k.val) rfl (bne_iff_ne.mpr hm) hok

theorem markEdge_idles (h : s.chip.anyMarkEdge k.val = s.chip) : Idles (.cycleMarkEdge k) s := by
  refine idles_of (f := fun c => c.whenDue (c.mode != mRESET) fun d => d.anyMarkEdge k.val) rfl ?_
  rw [Chip.whenDue, h, ite_self]

theorem markArm_ends (hopen : s.chip.Open p .whorl 0) {ok : Chip → Prop} (hok : ok (s.chip.ended (s.chip.markCtrlWrite p k.val v.toNat))) :
    Ends (.cycleMarkArm p k v) s ok :=
  ends_of_access (r := WHORL.MARK_CTRL_MODE) (g := fun d => d.markCtrlWrite p k.val v.toNat) rfl hopen hok
end

/-- Settles O25: each happening of PPS and of a cycle mark by what its operation makes of the mark and its cells. -/
theorem ppsAndCycleMarks : Obligations.PpsAndCycleMarks := by
  unfold Obligations.PpsAndCycleMarks
  refine ⟨fun s phi rising => ⟨fun h => ?_, fun h => ?_, fun h => ⟨?_, fun k => ?_⟩, fun h hn => ?_, fun h hn hs => ?_, fun h hn hs => ?_,
    fun h => ?_, fun h => ?_, fun h => ?_⟩, fun s p k v => ⟨fun ho hp => ?_, fun ho hp => ?_, fun hm hd => ?_, fun cyc hm hd he => ?_,
    fun hd he => ?_⟩⟩
  · exact becomes_of_due (due := Chip.ppsOutDue) (g := Chip.ppsOutEdge) rfl h (.refl _) trivial
  · exact idles_of_not_due (due := Chip.ppsOutDue) (g := Chip.ppsOutEdge) rfl h
  · refine idles_of_not_due (due := Chip.ppsOutDue) (g := Chip.ppsOutEdge) rfl ?_
    rw [Chip.ppsOutDue, Chip.not_fires h]
    simp
  · exact markEdge_idles (Chip.anyMarkEdge_backward h _)
  · refine becomes_of_due (due := fun c => c.ppsInTaken rising) (g := fun d => d.ppsInEdge phi) rfl h ?_ ?_ <;> rw [Chip.ppsInEdge_near hn]
    · exact (Chip.Frame.refl _).bump _ _ _ (by decide)
    · exact (Chip.ended_fld _ _ _ _ _ (by decide)).trans (Chip.fld_bump_self _ _ _ _)
  · obtain ⟨theta, hfar⟩ := Chip.ppsInEdge_far (c := s.chip) hn
    have hw := s.chip.ppsTaken_whorl phi
    rw [if_neg (by rw [hw]; exact hs)] at hfar
    obtain ⟨h1, h2, h3, h4, h5, h6⟩ := s.chip.ppsTaken_reads phi
    refine becomes_of_due (due := fun c => c.ppsInTaken rising) (g := fun d => d.ppsInEdge phi) rfl h ?_ ?_ <;> rw [hfar]
    · have hf := (s.chip.ppsTaken_frame phi).since .whorl (T := [.ecc]) (by decide)
      rw [Part.put, hw] at hf
      exact hf
    · rw [Chip.ended_fld64 _ (by decide) (by decide), Chip.ended_fld _ _ _ _ _ (by decide), Chip.ended_fld _ _ _ _ _ (by decide),
        Chip.ended_fld _ _ _ _ _ (by decide), Chip.ended_fld _ _ _ _ _ (by decide)]
      exact ⟨h1, h2, h3, h4, h5.ended (by decide), h6⟩
  · obtain ⟨theta, hfar⟩ := Chip.ppsInEdge_far (c := s.chip) hn
    rw [if_pos (by rw [s.chip.ppsTaken_whorl phi]; exact hs)] at hfar
    obtain ⟨_, hns, _⟩ := s.chip.ppsTaken_reads phi
    obtain ⟨hmeas, _⟩ := (s.chip.ppsTaken phi).measurement_reads theta
    refine ends_of_due (due := fun c => c.ppsInTaken rising) (g := fun d => d.ppsInEdge phi) rfl h ?_
    rw [hfar, Chip.ended_fld _ _ _ _ _ (by decide), Chip.ended_fld _ _ _ _ _ (by decide), hmeas,
      ((s.chip.ppsTaken phi).measurement_frame theta).fld _ _ _ (by decide), (s.chip.ppsTaken_frame phi).fld _ _ _ (by decide)]
    exact ⟨rfl, hns⟩
  · exact idles_of_not_due (due := fun c => c.ppsInTaken rising) (g := fun d => d.ppsInEdge phi) rfl h
  · refine becomes_of_due (due := Chip.ppsInMissingDue) (g := Chip.ppsInMissing) rfl h ((Chip.Frame.refl _).raise _ _ (by decide)) ?_
    exact Chip.Tells.ended (Chip.tells_raise _ _ (by decide) rfl) (by decide)
  · exact idles_of_not_due (due := Chip.ppsInMissingDue) (g := Chip.ppsInMissing) rfl h
  · refine markArm_ends ho ?_
    obtain ⟨hw, hs, _⟩ := s.chip.ctrlWritten_keeps p k v.toNat
    have hmark := (s.chip.movesMark_refl k.val).of_whorl hw
    rw [Chip.markCtrlWrite_eq, hmark.self, hs, hmark.now, if_pos hp]
    have hall := (hmark.trans (Chip.movesMark_setMark _ _ { s.chip.markRec k.val with start := s.chip.markStart k.val, waiting := true })).ended s.chip
    exact ⟨hall.self, hall.stays⟩
  · refine markArm_ends ho ?_
    obtain ⟨hmode, hseg, hperiod, hwidth, hmissed, hup⟩ := s.chip.markStaged_reads p k v.toNat
    have hnet := s.chip.markStaged_net p k v.toNat
    have hmoves := s.chip.markStaged_moves p k v.toNat
    rw [s.chip.markCtrlWrite_now p k _ hp]
    generalize s.chip.markStaged p k.val v.toNat = e at *
    have hstart : (e.markRec k.val).start = s.chip.markStart k.val := by rw [hmoves.self]
    obtain ⟨r, harm⟩ := e.markArm_moves k.val
    obtain ⟨hka, hkm⟩ := activeKey_not_level k
    have hself := (harm.ended s.chip).self.trans harm.self.symm
    refine ⟨((hmoves.trans harm).ended s.chip).stays, fun hm => ?_, fun hm hlt => ?_, fun hm hle => ?_, fun hm => ?_, fun hm => ?_⟩
    · rw [hself, Chip.ended_fld _ _ _ _ _ hka, ← hperiod, ← hwidth, ← hstart, ← hnet]
      exact Chip.markArm_periodic (hmode.trans hm)
    · rw [hself, Chip.ended_fld _ _ _ _ _ hka, Chip.ended_fld _ _ _ _ _ hkm, ← hmissed]
      obtain ⟨h1, h2, h3, h4⟩ := Chip.markArm_late k (hmode.trans hm) (by rw [hstart, hnet]; exact hlt)
      exact ⟨h1, h2, h3, Chip.Tells.ended (fun hu => h4 (hup.trans hu)) (by decide)⟩
    · rw [hself, Chip.ended_fld _ _ _ _ _ hka, ← hstart]
      exact Chip.markArm_once (hmode.trans hm) (by rw [hstart, hnet]; exact hle)
    · rw [Chip.ended_fld _ _ _ _ _ hka, ← hseg]
      exact Chip.markArm_segment (hmode.trans hm)
    · rw [hself, Chip.ended_fld _ _ _ _ _ hka]
      exact Chip.markArm_off (hmode.trans hm)
  · refine markEdge_of_not_reset hm ?_
    rw [Chip.anyMarkEdge, hd, if_pos rfl, Chip.markEdge_eq]
    by_cases hmode : (s.chip.markRec k.val).mode = 1
    · rw [if_pos hmode]
      have hall := (s.chip.movesMark_setMark k.val { s.chip.pulsed k.val with next := (s.chip.markRec k.val).next + (s.chip.markRec k.val).period }).ended s.chip
      rw [hall.self]
      exact ⟨hall.stays, rfl, rfl, fun _ => rfl, fun h2 => absurd (hmode.symm.trans h2) (by decide)⟩
    · rw [if_neg hmode]
      obtain ⟨hka, _⟩ := activeKey_not_level k
      have hall := (s.chip.movesMark_active k.val { s.chip.pulsed k.val with mode := 0 } 0).ended s.chip
      rw [hall.self]
      refine ⟨hall.stays, rfl, rfl, fun h1 => absurd h1 hmode, fun _ => ⟨rfl, ?_⟩⟩
      rw [Chip.ended_fld _ _ _ _ _ hka, Chip.fld_active _ _ _ (by decide)]
  · refine markEdge_of_not_reset hm ?_
    rw [Chip.anyMarkEdge_segment hd he]
    have hall := (s.chip.movesMark_setMark k.val (s.chip.segPulsed k.val cyc)).ended s.chip
    exact ⟨hall.stays, hall.self⟩
  · exact markEdge_idles (Chip.anyMarkEdge_none hd he)

end Sys2Proof.Machine
end

section
/-!
PROOF. What the loss of the clock at the Flyers, and a change of network time at the Skein engines, leave alone.
-/
namespace Sys2Proof.Machine

section
variable {c : Chip} {S : List Part} {R : List Spot}

theorem Chip.away_flyLost {n : Nat} (hS : [.flyers] ⊆ S) (hR : [.evt .flyer, .one FLYER.FAULT_STATUS_SYNC_LOST,
    .one FLYER.FAULT_STATUS_TX_LATCHED, .one FLYER.FAULT_STATUS_TX_VIOLATION, .one FLYER.LATCHES_COUNT, .one FLYER.SYNC_LOSS_COUNT,
    .one FLYER.SYNC_STATUS_CYCLE_OK, .one FLYER.SYNC_STATUS_EXT_ALLOW, .one FLYER.SYNC_STATUS_STATE, .one FLYER.TRUNCATED_COUNT,
    .one FLYER.TX_STATUS_DRIVER_ON, .one FLYER.TX_STATUS_LATCHED, .one FLYER.TX_STATUS_VIOL_RUN] ⊆ R) (hn : n < 96) :
    (c.flyLost n).away S R = c.away S R := by
  unfold Chip.flyLost
  simp (disch := first
      | (apply mem_of_sub hS; decide) | (refine List.Subset.trans ?_ hS; decide) | (apply mem_of_sub hR; decide)
      | (refine List.Subset.trans ?_ hR; decide) | with_unfolding_all exact id hn | decide) only [Chip.away_bump, Chip.away_fault,
      Chip.away_setFld, Chip.away_windowsShut, Chip.away_updFly]

theorem Chip.away_flyRefFault {n : Nat} (hS : [.flyers] ⊆ S) (hR : [.evt .flyer, .one FLYER.FAULT_STATUS_SYNC_LOST,
    .one FLYER.FAULT_STATUS_TX_LATCHED, .one FLYER.FAULT_STATUS_TX_VIOLATION, .one FLYER.LATCHES_COUNT, .one FLYER.SYNC_LOSS_COUNT,
    .one FLYER.SYNC_STATUS_CYCLE_OK, .one FLYER.SYNC_STATUS_EXT_ALLOW, .one FLYER.SYNC_STATUS_STATE, .one FLYER.TRUNCATED_COUNT,
    .one FLYER.TX_STATUS_DRIVER_ON, .one FLYER.TX_STATUS_LATCHED, .one FLYER.TX_STATUS_VIOL_RUN] ⊆ R) (hn : n < 96) :
    (c.flyRefFault n).away S R = c.away S R := by
  unfold Chip.flyRefFault
  simp (disch := first
      | (apply mem_of_sub hS; decide) | (refine List.Subset.trans ?_ hS; decide) | (apply mem_of_sub hR; decide)
      | (refine List.Subset.trans ?_ hR; decide) | with_unfolding_all exact id hn | decide) only [Chip.away_ite, ite_self, Chip.away_bump,
      Chip.away_fault, Chip.away_driverOff, Chip.away_flyLost]

theorem Chip.away_skeinStep {n : Nat} (hS : [.segs] ⊆ S) :
    (c.skeinStep n).away S R = c.away S R := by
  unfold Chip.skeinStep
  simp (disch := first
      | (apply mem_of_sub hS; decide) | (refine List.Subset.trans ?_ hS; decide) | decide) only [Chip.away_ite, ite_self, Chip.away_setEng]

theorem Chip.away_skeinStepAll  (hS : [.segs] ⊆ S) :
    (c.skeinStepAll).away S R = c.away S R := by
  unfold Chip.skeinStepAll
  simp (disch := first
      | (apply mem_of_sub hS; decide) | (refine List.Subset.trans ?_ hS; decide) | (intro _ _ _; simp (disch := first
        | (apply mem_of_sub hS; decide) | (refine List.Subset.trans ?_ hS; decide) | decide) only [Chip.away_ite, ite_self, Chip.away_foldl,
        Chip.away_skeinStep]) | decide) only [Chip.away_foldl]

end

end Sys2Proof.Machine
end

section
/-!
PROOF. O22: snapshots, the calibration of the TDCs, REFCLK, the lock state and the error of holdover (R93 to R109).
-/
namespace Sys2Proof.Machine

section
variable {c d : Chip}

/-! ### Holdover -/

/-- The block as holdover begins: the lock state, and FREQ from the servo's last updates (R108). -/
def Chip.holdFreq (c : Chip) : Chip :=
  if ((c.setLock lkHOLDOVER).whorl.source = 1 ∨ (c.setLock lkHOLDOVER).whorl.source = 2) ∧ (c.setLock lkHOLDOVER).whorl.freqLog ≠ [] then
    (c.setLock lkHOLDOVER).setFreq (meanFreq (c.setLock lkHOLDOVER).whorl.freqLog)
  else c.setLock lkHOLDOVER

def Chip.holdStart (c : Chip) : Chip :=
  let e0 := ((signed 64 (c.fld64 WHORL.LAST_OFFSET_LO_VAL WHORL.LAST_OFFSET_HI_VAL)).natAbs + 63) / 64
  let fault := c.on WHORL.REFCLK_STATUS_FAULT
  let d : Chip := { c with whorl := { c.whorl with hoStart := c.now, hoE0 := e0, hoMs := 0, hoFaulted := fault, hoLimitRaised := false } }
  let d := d.setFld WHORL.HO_ELAPSED_S 0
  d.setFld WHORL.HO_ERROR_NS (if fault then 0xFFFFFFFF else d.hoErrorAt e0 0)

theorem Chip.enterHoldover_eq (c : Chip) : c.enterHoldover = c.holdFreq.holdStart.hoLimitCheck := rfl

theorem Chip.holdFreq_frame (c : Chip) : c.Frame [] (· ∈ holdKeys) c.holdFreq := by
  refine Chip.but_eq_iff.mp ?_
  unfold Chip.holdFreq
  simp (disch := decide) only [Chip.but_ite, Chip.but_setFreq, Chip.but_setLock, ite_self]

theorem Chip.holdFreq_whorl (c : Chip) : c.holdFreq.whorl = c.whorl := c.holdFreq_frame.whorl (by decide)

theorem Chip.holdFreq_lock (c : Chip) : c.holdFreq.lock = lkHOLDOVER := by
  have hset : (c.setLock lkHOLDOVER).lock = lkHOLDOVER := Chip.fld_setFld_self _ _ _ _ _
  have hframe : (c.setLock lkHOLDOVER).Frame [] (· ∈ servoKeys) c.holdFreq := by
    refine Chip.but_eq_iff.mp ?_
    unfold Chip.holdFreq
    simp (disch := decide) only [Chip.but_ite, Chip.but_setFreq, ite_self]
  exact (hframe.fld _ _ _ (by decide)).trans hset

theorem Chip.hoLimitCheck_frame (c : Chip) : c.Frame [.whorl] (· ∈ [EV.WHORL_HOLDOVER_LIMIT.key 0]) c.hoLimitCheck :=
  Chip.but_eq_iff.mp (Chip.but_hoLimitCheck (by decide) (by decide))

theorem Chip.hoLimitCheck_keeps (c : Chip) : c.hoLimitCheck.whorl = { c.whorl with hoLimitRaised := c.hoLimitCheck.whorl.hoLimitRaised } := by
  unfold Chip.hoLimitCheck
  split
  · rw [Chip.raise_whorl]
  · rfl

theorem Chip.enterHoldover_frame (c : Chip) : c.Frame [.whorl] (· ∈ holdKeys) c.enterHoldover :=
  Chip.but_eq_iff.mp (Chip.but_enterHoldover (by decide) (by decide))

theorem Chip.enterHoldover_reads (c : Chip) : c.enterHoldover.lock = lkHOLDOVER ∧ c.enterHoldover.fld WHORL.HO_ELAPSED_S = 0 ∧
    c.enterHoldover.whorl.hoStart = c.now ∧ c.enterHoldover.now = c.now ∧ c.enterHoldover.whorl.offset = c.whorl.offset ∧
    c.enterHoldover.whorl.source = c.whorl.source := by
  have hcheck := c.holdFreq.holdStart.hoLimitCheck_frame
  have hkeeps := c.holdFreq.holdStart.hoLimitCheck_keeps
  have hw := c.holdFreq_whorl
  rw [c.enterHoldover_eq, Chip.lock, Chip.now, hkeeps, hcheck.fld _ _ _ (by decide), hcheck.fld _ _ _ (by decide)]
  refine ⟨?_, ?_, ?_, ?_, ?_, ?_⟩
  · rw [Chip.holdStart, Chip.fld_setFld_ne _ _ _ _ _ _ _ _ (by decide), Chip.fld_setFld_ne _ _ _ _ _ _ _ _ (by decide)]
    exact c.holdFreq_lock
  · rw [Chip.holdStart, Chip.fld_setFld_ne _ _ _ _ _ _ _ _ (by decide), Chip.fld_setFld_self]
    rfl
  · change c.holdFreq.whorl.mono = _
    rw [hw]
  · rw [Chip.now, hkeeps]
    change c.holdFreq.whorl.mono = _
    rw [hw]
  · change c.holdFreq.whorl.offset = _
    rw [hw]
  · change c.holdFreq.whorl.source = _
    rw [hw]

/-- Events raised before stay raised as holdover begins. -/
theorem Chip.raised_enterHoldover {v : Evt} {n : Nat} (hb : v.bit < 32) (h : c.raised v n = true) : c.enterHoldover.raised v n = true := by
  have hlock : (c.setLock lkHOLDOVER).raised v n = true := by rw [Chip.setLock, Chip.raised_setFld _ _ _ _ (by decide) (by decide), h]
  have hfreq : c.holdFreq.raised v n = true := by
    unfold Chip.holdFreq
    split
    · exact Chip.raised_setFreq hb hlock
    · exact hlock
  have hstart : c.holdFreq.holdStart.raised v n = true := by
    rw [Chip.holdStart, Chip.raised_setFld _ _ _ _ (by decide) (by decide), Chip.raised_setFld _ _ _ _ (by decide) (by decide)]
    exact hfreq
  rw [c.enterHoldover_eq, Chip.hoLimitCheck]
  split
  · exact Chip.raised_raise_of_raised _ _ _ _ hb hstart
  · exact hstart

/-- The time source is lost, and holdover begins. -/
theorem Chip.lost_enterHoldover (c : Chip) (k : Nat) (hk : k < 8) : (c.sourceLost k).enterHoldover.lock = lkHOLDOVER ∧
    (c.sourceLost k).enterHoldover.fld WHORL.LOCK_STATE_LOSS_CAUSE = k ∧ c.Tells (c.sourceLost k).enterHoldover EV.WHORL_SOURCE_LOST := by
  have hset : c.Frame [] (· ∈ [WHORL.LOCK_STATE_LOSS_CAUSE.key 0 0]) (c.setFld WHORL.LOCK_STATE_LOSS_CAUSE k) :=
    (Chip.Frame.refl c).setFld _ _ _ _ (by decide)
  have htell : c.Tells (c.sourceLost k) EV.WHORL_SOURCE_LOST := hset.tells_raise _ _ (by decide) (by decide)
  refine ⟨(c.sourceLost k).enterHoldover_reads.1, ?_, fun hu => Chip.raised_enterHoldover (by decide) (htell hu)⟩
  rw [(c.sourceLost k).enterHoldover_frame.fld _ _ _ (by decide), Chip.sourceLost, Chip.fld_raise_ne _ _ _ _ _ _ (by decide), Chip.fld_setFld_self]
  exact Nat.mod_eq_of_lt hk

/-! ### Snapshots -/

def snapKeys : List Nat := [WHORL.SNAP_MONO_SEC_LO_SEC, WHORL.SNAP_MONO_SEC_HI_SEC, WHORL.SNAP_MONO_NS_NS, WHORL.SNAP_NET_SEC_LO_SEC,
  WHORL.SNAP_NET_SEC_HI_SEC, WHORL.SNAP_NET_NS_NS, WHORL.SNAP_SUB_MONO_SUB, WHORL.SNAP_SUB_NET_SUB, WHORL.SNAP_SUB_DONE].map fun r => r.key 0 0

theorem Chip.snapCmd_frame (c : Chip) (v : Nat) (phi : Fin 2560) : c.Frame [] (· ∈ snapKeys) (c.snapCmd v phi) := by
  refine Chip.but_eq_iff.mp ?_
  unfold Chip.snapCmd
  simp (disch := decide) only [Chip.but_ite, Chip.but_setFld64, Chip.but_setFld, ite_self]

theorem Chip.snapCmd_reads (c : Chip) {v : Nat} (phi : Fin 2560) (hv : bitsOf v 0 0 = 1) :
    (c.snapCmd v phi).fld64 WHORL.SNAP_MONO_SEC_LO_SEC WHORL.SNAP_MONO_SEC_HI_SEC = stampSec (c.monoStamp phi) ∧
    (c.snapCmd v phi).fld WHORL.SNAP_MONO_NS_NS = stampNs (c.monoStamp phi) ∧
    (c.snapCmd v phi).fld WHORL.SNAP_SUB_MONO_SUB = stampSub (c.monoStamp phi) ∧
    (c.snapCmd v phi).fld64 WHORL.SNAP_NET_SEC_LO_SEC WHORL.SNAP_NET_SEC_HI_SEC = stampSec (c.netStamp phi) ∧
    (c.snapCmd v phi).fld WHORL.SNAP_NET_NS_NS = stampNs (c.netStamp phi) ∧
    (c.snapCmd v phi).fld WHORL.SNAP_SUB_NET_SUB = stampSub (c.netStamp phi) ∧ (c.snapCmd v phi).fld WHORL.SNAP_SUB_DONE = 1 := by
  rw [Chip.snapCmd, if_pos hv]
  simp (disch := decide) only [Chip.fld64_setFld_ne, Chip.fld64_setFld64_ne, Chip.fld_setFld_ne, Chip.fld_setFld_self, Chip.fld_setFld64_ne]
  exact ⟨Chip.fld64_setFld64 rfl (unsigned_lt 48 _) (by decide), Nat.mod_eq_of_lt (stampNs_lt _), Nat.mod_eq_of_lt (stampSub_lt _),
    Chip.fld64_setFld64 rfl (unsigned_lt 48 _) (by decide), Nat.mod_eq_of_lt (stampNs_lt _), Nat.mod_eq_of_lt (stampSub_lt _), rfl⟩

/-! ### A change of SOURCE -/

/-- The block as a change of SOURCE begins. -/
def Chip.sourced (c : Chip) : Chip :=
  { c with whorl := { c.whorl with source := c.fld WHORL.SERVO_CFG_SOURCE, sync := none, lastMeas := c.now } }

theorem Chip.sourceChange_eq (c : Chip) : c.sourceChange =
    if c.fld WHORL.SERVO_CFG_SOURCE = 0 then c.sourced.setLock lkFREE
    else if c.fld WHORL.SERVO_CFG_SOURCE = 1 ∨ c.fld WHORL.SERVO_CFG_SOURCE = 2 then
      if c.lock = lkLOCKED then (c.sourced.sourceLost 4).setLock lkUNLOCKED
      else if c.lock = lkHOLDOVER then c.sourced
      else ({ c.sourced with whorl := { c.sourced.whorl with integ := 0 } } : Chip).setLock lkUNLOCKED
    else if c.sourced.on WHORL.SERVO_CFG_HOST_LOCK then c.sourced.setLock lkLOCKED
    else if c.lock = lkLOCKED then (c.sourced.sourceLost 4).enterHoldover
    else if c.lock = lkHOLDOVER then c.sourced
    else c.sourced.setLock lkUNLOCKED := rfl

theorem Chip.lock_setLock (c : Chip) {v : Nat} (h : v < 8) : (c.setLock v).lock = v := (Chip.fld_setFld_self _ _ _ _ _).trans (Nat.mod_eq_of_lt h)

/-- The source and the times after a change of SOURCE. -/
theorem Chip.sourceChange_times (c : Chip) : c.sourceChange.whorl.source = c.fld WHORL.SERVO_CFG_SOURCE ∧ c.sourceChange.now = c.now ∧
    c.sourceChange.whorl.offset = c.whorl.offset := by
  have hset (d : Chip) (v : Nat) (h : d.whorl.source = c.fld WHORL.SERVO_CFG_SOURCE ∧ d.now = c.now ∧ d.whorl.offset = c.whorl.offset) :
      (d.setLock v).whorl.source = c.fld WHORL.SERVO_CFG_SOURCE ∧ (d.setLock v).now = c.now ∧ (d.setLock v).whorl.offset = c.whorl.offset := h
  have h0 : c.sourced.whorl.source = c.fld WHORL.SERVO_CFG_SOURCE ∧ c.sourced.now = c.now ∧ c.sourced.whorl.offset = c.whorl.offset := ⟨rfl, rfl, rfl⟩
  have hlost : (c.sourced.sourceLost 4).whorl = c.sourced.whorl := Chip.sourceLost_whorl _ _
  rw [c.sourceChange_eq]
  split_ifs
  · exact hset _ _ h0
  · refine hset _ _ ?_
    rw [Chip.now, hlost]
    exact h0
  · exact h0
  · exact hset _ _ ⟨rfl, rfl, rfl⟩
  · exact hset _ _ h0
  · obtain ⟨_, _, _, hn, ho, hs⟩ := (c.sourced.sourceLost 4).enterHoldover_reads
    rw [hn, ho, hs, Chip.now, hlost]
    exact h0
  · exact h0
  · exact hset _ _ h0

theorem Chip.Tells.setLock {b : Chip} {v : Evt} {n : Nat} (h : b.Tells c v n) (k : Nat) : b.Tells (c.setLock k) v n := fun hu => by
  rw [Chip.setLock, Chip.raised_setFld _ _ _ _ (by decide) (by decide)]
  exact h hu

theorem Chip.tells_sourceLost (c : Chip) (k : Nat) : c.Tells (c.sourceLost k) EV.WHORL_SOURCE_LOST :=
  ((Chip.Frame.refl c).setFld (S := []) (K := (· ∈ [WHORL.LOCK_STATE_LOSS_CAUSE.key 0 0])) _ _ _ _ (by decide)).tells_raise _ _
    (by decide) (by decide)

theorem Chip.fld_sourceLost (c : Chip) {k : Nat} (h : k < 8) : (c.sourceLost k).fld WHORL.LOCK_STATE_LOSS_CAUSE = k := by
  rw [Chip.sourceLost, Chip.fld_raise_ne _ _ _ _ _ _ (by decide), Chip.fld_setFld_self]
  exact Nat.mod_eq_of_lt h

theorem lock_other {n : Nat} (h : n ∈ [lkFREE, lkUNLOCKED, lkACQUIRING]) : n ≠ lkLOCKED ∧ n ≠ lkHOLDOVER := by
  fin_cases h <;> decide

/-! ### REFCLK -/

def Chip.refFaulted (c : Chip) : Chip :=
  ((c.setFld WHORL.REFCLK_STATUS_FAULT 1).setFld WHORL.REFCLK_STATUS_ON_INTERNAL 1).raise EV.WHORL_REFCLK_FAULT

/-- What a fault makes of the lock state (R106, R107). -/
def Chip.refHeld (c : Chip) : Chip :=
  if c.lock = lkHOLDOVER then { c with whorl := { c.whorl with hoFaulted := true } }
  else if c.whorl.source = 1 ∨ c.whorl.source = 2 then (if c.lock = lkLOCKED then c.sourceLost 5 else c).enterHoldover
  else c

def Chip.refLimited (c : Chip) : Chip :=
  if c.lock = lkHOLDOVER ∧ c.whorl.hoLimitRaised then c
  else ({ c with whorl := { c.whorl with hoLimitRaised := decide (c.lock = lkHOLDOVER) } } : Chip).raise EV.WHORL_HOLDOVER_LIMIT

theorem Chip.refclkFault_eq (c : Chip) : c.refclkFault = (c.refFaulted.refHeld.setFld WHORL.HO_ERROR_NS 0xFFFFFFFF).refLimited := rfl

theorem Chip.refHeld_frame (c : Chip) : c.Frame [.whorl] (· ∈ WHORL.LOCK_STATE_LOSS_CAUSE.key 0 0 :: holdKeys) c.refHeld := by
  refine Chip.but_eq_iff.mp ?_
  unfold Chip.refHeld
  simp (disch := decide) only [Chip.but_ite, Chip.but_withWhorl, Chip.but_enterHoldover, Chip.but_sourceLost, ite_self]

theorem Chip.refLimited_frame (c : Chip) : c.Frame [.whorl] (· ∈ [EV.WHORL_HOLDOVER_LIMIT.key 0]) c.refLimited := by
  refine Chip.but_eq_iff.mp ?_
  unfold Chip.refLimited
  simp (disch := decide) only [Chip.but_ite, Chip.but_raise, Chip.but_withWhorl, ite_self]

theorem Chip.raised_refLimited {v : Evt} {n : Nat} (hb : v.bit < 32) (h : c.raised v n = true) : c.refLimited.raised v n = true := by
  unfold Chip.refLimited
  split
  · exact h
  · exact Chip.raised_raise_of_raised _ _ _ _ hb h

theorem Chip.raised_refHeld {v : Evt} {n : Nat} (hb : v.bit < 32) (h : c.raised v n = true) : c.refHeld.raised v n = true := by
  unfold Chip.refHeld
  split_ifs
  · exact h
  · refine Chip.raised_enterHoldover hb ?_
    rw [Chip.sourceLost]
    refine Chip.raised_raise_of_raised _ _ _ _ hb ?_
    rw [Chip.raised_setFld _ _ _ _ (by decide) (by decide), h]
  · exact Chip.raised_enterHoldover hb h
  · exact h

theorem Chip.refFaulted_frame (c : Chip) : c.Frame [] (· ∈ [WHORL.REFCLK_STATUS_FAULT.key 0 0, WHORL.REFCLK_STATUS_ON_INTERNAL.key 0 0,
    EV.WHORL_REFCLK_FAULT.key 0]) c.refFaulted := by
  refine Chip.but_eq_iff.mp ?_
  unfold Chip.refFaulted
  simp (disch := decide) only [Chip.but_raise, Chip.but_setFld]

theorem Chip.refFaulted_reads (c : Chip) : c.refFaulted.fld WHORL.REFCLK_STATUS_FAULT = 1 ∧
    c.refFaulted.fld WHORL.REFCLK_STATUS_ON_INTERNAL = 1 ∧ c.Tells c.refFaulted EV.WHORL_REFCLK_FAULT := by
  refine ⟨?_, ?_, ?_⟩
  · rw [Chip.refFaulted, Chip.fld_raise_ne _ _ _ _ _ _ (by decide), Chip.fld_setFld_ne _ _ _ _ _ _ _ _ (by decide), Chip.fld_setFld_self]
    rfl
  · rw [Chip.refFaulted, Chip.fld_raise_ne _ _ _ _ _ _ (by decide), Chip.fld_setFld_self]
    rfl
  · have hset : c.Frame [] (· ∈ [WHORL.REFCLK_STATUS_FAULT.key 0 0, WHORL.REFCLK_STATUS_ON_INTERNAL.key 0 0])
        ((c.setFld WHORL.REFCLK_STATUS_FAULT 1).setFld WHORL.REFCLK_STATUS_ON_INTERNAL 1) :=
      ((Chip.Frame.refl c).setFld _ _ _ _ (by decide)).setFld _ _ _ _ (by decide)
    exact hset.tells_raise _ _ (by decide) (by decide)

/-- What O22 says of a fault of REFCLK, at the Whorl. -/
theorem Chip.refclkFault_reads (c : Chip) : c.refclkFault.fld WHORL.REFCLK_STATUS_FAULT = 1 ∧
    c.refclkFault.fld WHORL.REFCLK_STATUS_ON_INTERNAL = 1 ∧ c.refclkFault.fld WHORL.HO_ERROR_NS = 0xFFFFFFFF ∧
    c.Tells c.refclkFault EV.WHORL_REFCLK_FAULT ∧ (c.lock = lkFREE → c.whorl.source = 0 → c.refclkFault.lock = lkFREE) ∧
    (c.lock = lkLOCKED → c.whorl.source = 1 → c.refclkFault.lock = lkHOLDOVER ∧ c.refclkFault.fld WHORL.LOCK_STATE_LOSS_CAUSE = 5) := by
  obtain ⟨h1, h2, h3⟩ := c.refFaulted_reads
  have hheld := c.refFaulted.refHeld_frame
  have hlim := (c.refFaulted.refHeld.setFld WHORL.HO_ERROR_NS 0xFFFFFFFF).refLimited_frame
  have hlock : c.refFaulted.lock = c.lock := c.refFaulted_frame.fld _ _ _ (by decide)
  have hw : c.refFaulted.whorl = c.whorl := c.refFaulted_frame.whorl (by decide)
  have hset {r : FieldRow} (hr : r.key 0 0 ≠ EV.WHORL_HOLDOVER_LIMIT.key 0) (hr' : r.key 0 0 ≠ WHORL.HO_ERROR_NS.key 0 0) :
      c.refclkFault.fld r = c.refFaulted.refHeld.fld r := by
    rw [c.refclkFault_eq, hlim.fld _ _ _ (by simpa using hr), Chip.fld_setFld_ne _ _ _ _ _ _ _ _ hr']
  refine ⟨?_, ?_, ?_, fun hu => ?_, fun hl hs => ?_, fun hl hs => ?_⟩
  · rw [hset (by decide) (by decide), hheld.fld _ _ _ (by decide), h1]
  · rw [hset (by decide) (by decide), hheld.fld _ _ _ (by decide), h2]
  · rw [c.refclkFault_eq, hlim.fld _ _ _ (by decide), Chip.fld_setFld_self]
    rfl
  · refine Chip.raised_refLimited (by decide) ?_
    rw [Chip.raised_setFld _ _ _ _ (by decide) (by decide)]
    exact Chip.raised_refHeld (by decide) (h3 hu)
  · rw [Chip.lock, hset (by decide) (by decide), Chip.refHeld, if_neg (by rw [hlock, hl]; decide), if_neg (by rw [hw, hs]; decide)]
    exact hlock.trans hl
  · obtain ⟨g1, g2, _⟩ := c.refFaulted.lost_enterHoldover 5 (by decide)
    rw [Chip.lock, hset (by decide) (by decide), hset (by decide) (by decide), Chip.refHeld, if_neg (by rw [hlock, hl]; decide),
      if_pos (by rw [hw, hs]; decide), if_pos (hlock.trans hl)]
    exact ⟨g1, g2⟩

/-- The Flyers that a fault of REFCLK stops touch nothing of the Whorl. -/
def Chip.flyersFaulted (c : Chip) : Chip := (List.range 96).foldl Chip.flyRefFault c

def flyerFaultSpots : List Spot := [.evt .flyer, .one FLYER.FAULT_STATUS_SYNC_LOST, .one FLYER.FAULT_STATUS_TX_LATCHED,
  .one FLYER.FAULT_STATUS_TX_VIOLATION, .one FLYER.LATCHES_COUNT, .one FLYER.SYNC_LOSS_COUNT, .one FLYER.SYNC_STATUS_CYCLE_OK,
  .one FLYER.SYNC_STATUS_EXT_ALLOW, .one FLYER.SYNC_STATUS_STATE, .one FLYER.TRUNCATED_COUNT, .one FLYER.TX_STATUS_DRIVER_ON,
  .one FLYER.TX_STATUS_LATCHED, .one FLYER.TX_STATUS_VIOL_RUN]

theorem Chip.flyersFaulted_frame (c : Chip) : c.Frame [.flyers] (Touched flyerFaultSpots) c.flyersFaulted :=
  Chip.away_eq_iff.mp (Chip.away_foldl fun _ _ hn =>
    Chip.away_flyRefFault (List.Subset.refl _) (List.Subset.refl _) (List.mem_range.mp hn))

/-- A write of SERVO_CFG moves its own fields only. -/
theorem servoCfg_frame (c : Chip) (p : Port) (v : Nat) : c.Frame [] (· ∈ [WHORL.SERVO_CFG_SOURCE, WHORL.SERVO_CFG_PTP_PORT,
    WHORL.SERVO_CFG_KP_SHIFT, WHORL.SERVO_CFG_KI_SHIFT, WHORL.SERVO_CFG_LOG_SYNC, WHORL.SERVO_CFG_LOSS_COUNT,
    WHORL.SERVO_CFG_HOST_LOCK].map fun r => r.key 0 0) (c.plainWrite .whorl 0 WHORL.SERVO_CFG_SOURCE.off v p) := by
  rw [Chip.plainWrite_open (Chip.sealedAt_open (by decide) _ _)]
  have htaken : c.takenKeys .whorl 0 WHORL.SERVO_CFG_SOURCE.off = [WHORL.SERVO_CFG_SOURCE, WHORL.SERVO_CFG_PTP_PORT,
    WHORL.SERVO_CFG_KP_SHIFT, WHORL.SERVO_CFG_KI_SHIFT, WHORL.SERVO_CFG_LOG_SYNC, WHORL.SERVO_CFG_LOSS_COUNT,
    WHORL.SERVO_CFG_HOST_LOCK].map fun r => r.key 0 0 := rfl
  rw [← htaken]
  exact c.plainFields_frame _ _ _ _ _

theorem Chip.Frame.keepsCells {b : Chip} {S : List Part} {own : List Nat} (h : c.Frame S (· ∈ own) d) : c.KeepsCells (b.ended d) own :=
  fun k v hk hl => (b.ended_cell d k v hl).trans (h.cell k hk v)

/-! ### The update of the declared error -/

/-- The millisecond that the update of HO_ERROR counts. -/
def Chip.hoCounted (c : Chip) : Chip :=
  ({ c with whorl := { c.whorl with hoMs := c.whorl.hoMs + 1 } } : Chip).setFld WHORL.HO_ELAPSED_S (min ((c.whorl.hoMs + 1) / 1000) 0xFFFFFFFF)

def Chip.hoStepped (c : Chip) : Chip :=
  if c.hoCounted.whorl.hoFaulted then c.hoCounted
  else c.hoCounted.setFld WHORL.HO_ERROR_NS (c.hoCounted.hoErrorAt c.hoCounted.whorl.hoE0 (c.whorl.hoMs + 1))

theorem Chip.hoCounted_whorl (c : Chip) : c.hoCounted.whorl = { c.whorl with hoMs := c.whorl.hoMs + 1 } := rfl

theorem Chip.hoCounted_fld_ne (c : Chip) {r : FieldRow} (h : r.key 0 0 ≠ WHORL.HO_ELAPSED_S.key 0 0) : c.hoCounted.fld r = c.fld r :=
  Chip.fld_setFld_ne _ _ _ _ _ _ _ _ h

theorem Chip.hoUpdate_eq (c : Chip) : c.hoUpdate = c.hoStepped.hoLimitCheck := rfl

theorem Chip.hoStepped_frame (c : Chip) : c.Frame [.whorl] (· ∈ [WHORL.HO_ELAPSED_S.key 0 0, WHORL.HO_ERROR_NS.key 0 0]) c.hoStepped := by
  refine Chip.but_eq_iff.mp ?_
  unfold Chip.hoStepped Chip.hoCounted
  simp (disch := decide) only [Chip.but_ite, Chip.but_setFld, Chip.but_withWhorl, ite_self]

theorem Chip.hoStepped_whorl (c : Chip) : c.hoStepped.whorl = { c.whorl with hoMs := c.whorl.hoMs + 1 } := by
  unfold Chip.hoStepped
  split
  · exact c.hoCounted_whorl
  · rw [Chip.setFld_whorl, c.hoCounted_whorl]

/-- HO_ERROR after `ms` milliseconds of holdover (R108). -/
def Chip.hoErrorNow (c : Chip) : Nat :=
  min (c.whorl.hoE0 + (c.fld WHORL.HO_FREQ_PS_PER_S * (c.whorl.hoMs + 1) * 2000000 +
    c.fld WHORL.HO_AGING_FS_PER_S2 * (c.whorl.hoMs + 1) * (c.whorl.hoMs + 1)) / 2000000000000) 0xFFFFFFFF

theorem Chip.hoStepped_elapsed (c : Chip) : c.hoStepped.fld WHORL.HO_ELAPSED_S = min ((c.whorl.hoMs + 1) / 1000) 0xFFFFFFFF := by
  have hlt : min ((c.whorl.hoMs + 1) / 1000) 0xFFFFFFFF < 2 ^ WHORL.HO_ELAPSED_S.width := by
    change _ < 2 ^ 32
    omega
  have hself : c.hoCounted.fld WHORL.HO_ELAPSED_S = min ((c.whorl.hoMs + 1) / 1000) 0xFFFFFFFF := by
    rw [Chip.hoCounted, Chip.fld_setFld_self, Nat.mod_eq_of_lt hlt]
  unfold Chip.hoStepped
  split
  · exact hself
  · rw [Chip.fld_setFld_ne _ _ _ _ _ _ _ _ (by decide), hself]

theorem Chip.hoStepped_error (c : Chip) (h : c.whorl.hoFaulted = false) : c.hoStepped.fld WHORL.HO_ERROR_NS = c.hoErrorNow := by
  have hlt : c.hoErrorNow < 2 ^ WHORL.HO_ERROR_NS.width := by
    unfold Chip.hoErrorNow
    change _ < 2 ^ 32
    omega
  have hcond : ¬ c.hoCounted.whorl.hoFaulted = true := by
    rw [c.hoCounted_whorl, h]
    decide
  rw [Chip.hoStepped, if_neg hcond, Chip.fld_setFld_self, Chip.hoErrorAt, c.hoCounted_fld_ne (by decide), c.hoCounted_fld_ne (by decide)]
  exact Nat.mod_eq_of_lt hlt

theorem Chip.hoStepped_faulted (c : Chip) (h : c.whorl.hoFaulted = true) : c.hoStepped.fld WHORL.HO_ERROR_NS = c.fld WHORL.HO_ERROR_NS := by
  rw [Chip.hoStepped, if_pos (by rw [c.hoCounted_whorl, h]), c.hoCounted_fld_ne (by decide)]
end

section
variable {s : State}

theorem hoUpdate_ends (h : s.chip.hoUpdateDue = true) (hf : s.chip.whorl.hoFaulted = false) :
    let c := s.chip
    Ends .hoErrorUpdate s fun d => d.fld WHORL.HO_ELAPSED_S = min ((c.whorl.hoMs + 1) / 1000) 0xFFFFFFFF ∧
      d.fld WHORL.HO_ERROR_NS = c.hoErrorNow ∧ d.whorl.hoMs = c.whorl.hoMs + 1 ∧ d.lock = lkHOLDOVER ∧
      (c.whorl.hoLimitRaised = false → c.fld WHORL.HO_LIMIT_NS < c.hoErrorNow →
        d.whorl.hoLimitRaised = true ∧ c.Tells d EV.WHORL_HOLDOVER_LIMIT) ∧
      c.KeepsCells d [WHORL.HO_ELAPSED_S.key 0 0, WHORL.HO_ERROR_NS.key 0 0, EV.WHORL_HOLDOVER_LIMIT.key 0] ∧ c.SameStores d := by
  intro c
  have hstep := c.hoStepped_frame
  have hcheck := c.hoStepped.hoLimitCheck_frame
  have hw := c.hoStepped_whorl
  have hkeeps := c.hoStepped.hoLimitCheck_keeps
  have hlock : c.lock = lkHOLDOVER := by
    have := (Bool.and_eq_true_iff.mp h).1
    exact beq_iff_eq.mp this
  have hlock' : c.hoStepped.lock = lkHOLDOVER := (hstep.fld _ _ _ (by decide)).trans hlock
  have hall : c.Frame [.whorl] (· ∈ [WHORL.HO_ELAPSED_S.key 0 0, WHORL.HO_ERROR_NS.key 0 0, EV.WHORL_HOLDOVER_LIMIT.key 0])
      c.hoStepped.hoLimitCheck := (hstep.mono (by decide) (by decide)).trans (hcheck.mono (by decide) (by decide))
  have hmono : c.hoStepped.hoLimitCheck.now = c.now := by
    rw [Chip.now, hkeeps, hw]
    rfl
  refine ends_of_due (due := Chip.hoUpdateDue) (g := Chip.hoUpdate) rfl h ?_
  rw [c.hoUpdate_eq, Chip.ended_fld _ _ _ _ _ (by decide), Chip.ended_fld _ _ _ _ _ (by decide), Chip.lock, Chip.ended_fld _ _ _ _ _ (by decide),
    Chip.ended_whorl, hcheck.fld _ _ _ (by decide), hcheck.fld _ _ _ (by decide), hcheck.fld _ _ _ (by decide)]
  refine ⟨c.hoStepped_elapsed, c.hoStepped_error hf, ?_, hlock', fun hr hl => ?_, hall.keepsCells, (hall.sameStores (by decide) hmono).ended⟩
  · rw [hkeeps, hw]
  · have hcond : c.hoStepped.lock = lkHOLDOVER ∧ ¬ c.hoStepped.whorl.hoLimitRaised = true ∧
        c.hoStepped.fld WHORL.HO_LIMIT_NS < c.hoStepped.fld WHORL.HO_ERROR_NS := by
      refine ⟨hlock', ?_, ?_⟩
      · rw [hw]
        change ¬ c.whorl.hoLimitRaised = true
        rw [hr]
        decide
      · rw [hstep.fld _ _ _ (by decide), c.hoStepped_error hf]
        exact hl
    have hupd : c.Frame [.whorl] (· ∈ [WHORL.HO_ELAPSED_S.key 0 0, WHORL.HO_ERROR_NS.key 0 0])
        { c.hoStepped with whorl := { c.hoStepped.whorl with hoLimitRaised := true } } := hstep.withWhorl _ (by decide)
    rw [Chip.hoLimitCheck, if_pos hcond, Chip.raise_whorl]
    exact ⟨rfl, (hupd.tells_raise _ _ (by decide) (by decide)).ended (by decide)⟩
end

theorem snapCmd_sets (s : State) (p : Port) (v : Word) (phi : Fin 2560) (ho : s.chip.Open p .whorl 0) :
    let c := s.chip
    (bitsOf v.toNat 0 0 = 1 → SetsRegs (.snapCmd p v phi) s snapKeys fun d =>
      d.fld64 WHORL.SNAP_MONO_SEC_LO_SEC WHORL.SNAP_MONO_SEC_HI_SEC = stampSec (c.monoStamp phi) ∧
      d.fld WHORL.SNAP_MONO_NS_NS = stampNs (c.monoStamp phi) ∧ d.fld WHORL.SNAP_SUB_MONO_SUB = stampSub (c.monoStamp phi) ∧
      d.fld64 WHORL.SNAP_NET_SEC_LO_SEC WHORL.SNAP_NET_SEC_HI_SEC = stampSec (c.netStamp phi) ∧
      d.fld WHORL.SNAP_NET_NS_NS = stampNs (c.netStamp phi) ∧ d.fld WHORL.SNAP_SUB_NET_SUB = stampSub (c.netStamp phi) ∧
      d.fld WHORL.SNAP_SUB_DONE = 1) ∧
    (bitsOf v.toNat 0 0 = 0 → Idles (.snapCmd p v phi) s) := by
  refine ⟨fun hv => ?_, fun hv => ?_⟩
  · refine becomes_of_access (r := WHORL.SNAP_CMD_GO) (g := fun d => d.snapCmd v.toNat phi) rfl ho
      ((s.chip.snapCmd_frame _ _).mono (by decide) fun _ h => h) ?_
    rw [Chip.ended_fld64 _ (by decide) (by decide), Chip.ended_fld _ _ _ _ _ (by decide), Chip.ended_fld _ _ _ _ _ (by decide),
      Chip.ended_fld64 _ (by decide) (by decide), Chip.ended_fld _ _ _ _ _ (by decide), Chip.ended_fld _ _ _ _ _ (by decide),
      Chip.ended_fld _ _ _ _ _ (by decide)]
    exact s.chip.snapCmd_reads phi hv
  · exact idles_of_access (r := WHORL.SNAP_CMD_GO) (g := fun d => d.snapCmd v.toNat phi) rfl ho (if_neg (by rw [hv]; decide))

theorem tdcCalibration_becomes (s : State) (h : s.chip.tdcDue = true) :
    let c := s.chip
    Becomes (.tdcCalibration true) s { c with whorl := { c.whorl with tdcAt := c.now } } [WHORL.TDC_STATUS_CAL_OK.key 0 0]
      (fun d => d.fld WHORL.TDC_STATUS_CAL_OK = 1) ∧
    Becomes (.tdcCalibration false) s { c with whorl := { c.whorl with tdcAt := c.now } }
      [WHORL.TDC_STATUS_CAL_OK.key 0 0, WHORL.TDC_STATUS_FAILS.key 0 0, EV.WHORL_TDC_CAL_FAIL.key 0]
      fun d => d.fld WHORL.TDC_STATUS_CAL_OK = 0 ∧ c.Tells d EV.WHORL_TDC_CAL_FAIL ∧
        d.fld WHORL.TDC_STATUS_FAILS = min (c.fld WHORL.TDC_STATUS_FAILS + 1) 65535 := by
  intro c
  refine ⟨?_, ?_⟩
  · refine becomes_of_due (due := Chip.tdcDue) (g := fun d => d.tdcResult true) rfl h ?_ ?_
    · exact (Chip.Frame.refl _).setFld _ _ _ _ (by decide)
    · rw [Chip.ended_fld _ _ _ _ _ (by decide)]
      exact Chip.fld_setFld_self _ _ _ _ _
  · refine becomes_of_due (due := Chip.tdcDue) (g := fun d => d.tdcResult false) rfl h ((s.chip.tdcResult_frame false [.ecc]).mono (by decide) (by decide)) ?_
    rw [Chip.ended_fld _ _ _ _ _ (by decide), Chip.ended_fld _ _ _ _ _ (by decide)]
    refine ⟨?_, s.chip.tells_tdcResult.ended (by decide), s.chip.counts_tdcResult⟩
    have hon := s.chip.on_tdcResult false
    rw [Chip.on] at hon
    simpa using hon

/-- The rows of Table 03.5 for a change of SOURCE to PTP or PPS. -/
theorem Chip.sourceChange_servo {c : Chip} (h : c.fld WHORL.SERVO_CFG_SOURCE = 1 ∨ c.fld WHORL.SERVO_CFG_SOURCE = 2) :
    (c.lock = lkLOCKED → c.sourceChange.lock = lkUNLOCKED ∧ c.sourceChange.fld WHORL.LOCK_STATE_LOSS_CAUSE = 4 ∧
      c.Tells c.sourceChange EV.WHORL_SOURCE_LOST) ∧
    (c.lock ∈ [lkFREE, lkUNLOCKED, lkACQUIRING] → c.sourceChange.lock = lkUNLOCKED ∧ c.sourceChange.whorl.integ = 0) ∧
    (c.lock = lkHOLDOVER → c.sourceChange.lock = lkHOLDOVER) := by
  rw [c.sourceChange_eq, if_neg (by rcases h with h | h <;> rw [h] <;> decide), if_pos h]
  refine ⟨fun hl => ?_, fun hl => ?_, fun hl => ?_⟩
  · rw [if_pos hl, Chip.lock_setLock _ (by decide), Chip.setLock, Chip.fld_setFld_ne _ _ _ _ _ _ _ _ (by decide), Chip.fld_sourceLost _ (by decide)]
    exact ⟨rfl, rfl, (c.sourced.tells_sourceLost 4).setLock _⟩
  · obtain ⟨h1, h2⟩ := lock_other hl
    rw [if_neg h1, if_neg h2, Chip.lock_setLock _ (by decide)]
    exact ⟨rfl, rfl⟩
  · rw [if_neg (by rw [hl]; decide), if_pos hl]
    exact hl

/-- The rows of Table 03.5 for a change of SOURCE to HOST. -/
theorem Chip.sourceChange_host {c : Chip} (h : c.fld WHORL.SERVO_CFG_SOURCE = 3) :
    (c.on WHORL.SERVO_CFG_HOST_LOCK = true → c.sourceChange.lock = lkLOCKED) ∧
    (c.on WHORL.SERVO_CFG_HOST_LOCK = false → c.lock = lkLOCKED →
      c.sourceChange.lock = lkHOLDOVER ∧ c.sourceChange.fld WHORL.LOCK_STATE_LOSS_CAUSE = 4) ∧
    (c.on WHORL.SERVO_CFG_HOST_LOCK = false → c.lock ∈ [lkFREE, lkUNLOCKED, lkACQUIRING] → c.sourceChange.lock = lkUNLOCKED) := by
  have hon : c.sourced.on WHORL.SERVO_CFG_HOST_LOCK = c.on WHORL.SERVO_CFG_HOST_LOCK := rfl
  rw [c.sourceChange_eq, h, if_neg (by decide), if_neg (by decide), hon]
  refine ⟨fun hh => ?_, fun hh hl => ?_, fun hh hl => ?_⟩
  · rw [if_pos hh, Chip.lock_setLock _ (by decide)]
  · obtain ⟨h1, h2, _⟩ := c.sourced.lost_enterHoldover 4 (by decide)
    rw [hh, if_neg (by decide), if_pos hl]
    exact ⟨h1, h2⟩
  · obtain ⟨h1, h2⟩ := lock_other hl
    rw [hh, if_neg (by decide), if_neg h1, if_neg h2, Chip.lock_setLock _ (by decide)]

theorem sourceChange_ends (s : State) (h : s.chip.fld WHORL.SERVO_CFG_SOURCE ≠ s.chip.whorl.source) :
    let c := s.chip
    let new := c.fld WHORL.SERVO_CFG_SOURCE
    Ends .sourceChange s fun d => d.whorl.source = new ∧ d.now = c.now ∧ d.whorl.offset = c.whorl.offset ∧
      (new = 0 → d.lock = lkFREE) ∧
      ((new = 1 ∨ new = 2) → c.lock = lkLOCKED → d.lock = lkUNLOCKED ∧ d.fld WHORL.LOCK_STATE_LOSS_CAUSE = 4 ∧ c.Tells d EV.WHORL_SOURCE_LOST) ∧
      ((new = 1 ∨ new = 2) → c.lock ∈ [lkFREE, lkUNLOCKED, lkACQUIRING] → d.lock = lkUNLOCKED ∧ d.whorl.integ = 0) ∧
      ((new = 1 ∨ new = 2) → c.lock = lkHOLDOVER → d.lock = lkHOLDOVER) ∧
      (new = 3 → c.on WHORL.SERVO_CFG_HOST_LOCK = true → d.lock = lkLOCKED) ∧
      (new = 3 → c.on WHORL.SERVO_CFG_HOST_LOCK = false → c.lock = lkLOCKED → d.lock = lkHOLDOVER ∧ d.fld WHORL.LOCK_STATE_LOSS_CAUSE = 4) ∧
      (new = 3 → c.on WHORL.SERVO_CFG_HOST_LOCK = false → c.lock ∈ [lkFREE, lkUNLOCKED, lkACQUIRING] → d.lock = lkUNLOCKED) := by
  intro c new
  have hlock (d : Chip) : (c.ended d).lock = d.lock := Chip.ended_fld _ _ _ _ _ (by decide)
  have hcause (d : Chip) : (c.ended d).fld WHORL.LOCK_STATE_LOSS_CAUSE = d.fld WHORL.LOCK_STATE_LOSS_CAUSE := Chip.ended_fld _ _ _ _ _ (by decide)
  obtain ⟨h1, h2, h3⟩ := c.sourceChange_times
  refine ends_of_due (due := fun c => c.fld WHORL.SERVO_CFG_SOURCE != c.whorl.source) (g := Chip.sourceChange) rfl (bne_iff_ne.mpr h) ?_
  rw [hlock, hcause, Chip.ended_whorl, Chip.now, Chip.ended_whorl]
  refine ⟨h1, h2, h3, fun h0 => ?_, fun hs hl => ?_, fun hs => (Chip.sourceChange_servo hs).2.1, fun hs => (Chip.sourceChange_servo hs).2.2,
    fun hs => (Chip.sourceChange_host hs).1, fun hs => (Chip.sourceChange_host hs).2.1, fun hs => (Chip.sourceChange_host hs).2.2⟩
  · rw [c.sourceChange_eq, if_pos h0, Chip.lock_setLock _ (by decide)]
  · obtain ⟨g1, g2, g3⟩ := (Chip.sourceChange_servo hs).1 hl
    exact ⟨g1, g2, g3.ended (by decide)⟩

theorem hostLock_ends (s : State) (p : Port) (v : Word) (ho : s.chip.Open p .whorl 0) (hs : s.chip.whorl.source = 3) :
    let c := s.chip
    (bitsOf v.toNat 28 28 = 1 → c.lock ≠ lkLOCKED → c.on WHORL.REFCLK_STATUS_FAULT = false → Ends (.hostLockWrite p v) s fun d =>
      d.lock = lkLOCKED ∧ c.Tells d EV.WHORL_LOCKED ∧ d.whorl = c.whorl) ∧
    (bitsOf v.toNat 28 28 = 0 → c.lock = lkLOCKED → Ends (.hostLockWrite p v) s fun d =>
      d.lock = lkHOLDOVER ∧ d.fld WHORL.LOCK_STATE_LOSS_CAUSE = 3 ∧ d.fld WHORL.HO_ELAPSED_S = 0) := by
  intro c
  have hf := servoCfg_frame c p v.toNat
  have heq : c.servoCfgWrite p v.toNat = if (c.plainWrite .whorl 0 WHORL.SERVO_CFG_SOURCE.off v.toNat p).whorl.source = 3 then _ else _ := rfl
  have hw := hf.whorl (by decide)
  have hlock : (c.plainWrite .whorl 0 WHORL.SERVO_CFG_SOURCE.off v.toNat p).lock = c.lock := hf.fld _ _ _ (by decide)
  have hfault := hf.on WHORL.REFCLK_STATUS_FAULT 0 0 (by decide)
  have hup := hf.domUp .aon (by decide)
  rw [hw, if_pos hs] at heq
  generalize c.plainWrite .whorl 0 WHORL.SERVO_CFG_SOURCE.off v.toNat p = e at *
  refine ⟨fun hv hl hr => ?_, fun hv hl => ?_⟩
  · refine ends_of_access (r := WHORL.SERVO_CFG_SOURCE) (g := fun d => d.servoCfgWrite p v.toNat) rfl ho ?_
    rw [heq, if_pos hv, if_pos ⟨by rw [hlock]; exact hl, by rw [hfault, hr]; decide⟩, Chip.lock, Chip.ended_fld _ _ _ _ _ (by decide),
      Chip.ended_whorl, Chip.raise_whorl, Chip.setLock_whorl, Chip.fld_raise_ne _ _ _ _ _ _ (by decide)]
    have htell : c.Tells ((e.setLock lkLOCKED).raise EV.WHORL_LOCKED) EV.WHORL_LOCKED :=
      Chip.Frame.tells_raise (S := [.whorl]) (Chip.Frame.setFld (hf.mono (by decide) fun _ h => List.mem_cons_of_mem _ h) _ _ _ _
        List.mem_cons_self) _ _ (by decide) (by decide)
    exact ⟨Chip.lock_setLock _ (by decide), htell.ended (by decide), hw⟩
  · refine ends_of_access (r := WHORL.SERVO_CFG_SOURCE) (g := fun d => d.servoCfgWrite p v.toNat) rfl ho ?_
    obtain ⟨g1, g2, _⟩ := e.lost_enterHoldover 3 (by decide)
    rw [heq, hv, if_neg (by decide), if_pos (hlock.trans hl), Chip.lock, Chip.ended_fld _ _ _ _ _ (by decide),
      Chip.ended_fld _ _ _ _ _ (by decide), Chip.ended_fld _ _ _ _ _ (by decide)]
    exact ⟨g1, g2, (e.sourceLost 3).enterHoldover_reads.2.1⟩

theorem measurementLoss_ends (s : State) (h : s.chip.measLost = true) :
    let c := s.chip
    Ends .measurementLoss s fun d => d.lock = lkHOLDOVER ∧ d.fld WHORL.HO_ELAPSED_S = 0 ∧
      d.whorl.hoStart = c.now ∧ (c.lock = lkLOCKED → d.fld WHORL.LOCK_STATE_LOSS_CAUSE = 1 ∧ c.Tells d EV.WHORL_SOURCE_LOST) := by
  intro c
  refine ends_of_due (due := Chip.measLost) (g := Chip.measLoss) rfl h ?_
  rw [Chip.lock, Chip.ended_fld _ _ _ _ _ (by decide), Chip.ended_fld _ _ _ _ _ (by decide), Chip.ended_fld _ _ _ _ _ (by decide),
    Chip.ended_whorl, Chip.measLoss]
  by_cases hl : c.lock = lkLOCKED
  · rw [if_pos hl]
    obtain ⟨g1, g2, g3, _⟩ := (c.sourceLost 1).enterHoldover_reads
    obtain ⟨_, g4, g5⟩ := c.lost_enterHoldover 1 (by decide)
    exact ⟨g1, g2, g3.trans (congrArg Whorl.mono (c.sourceLost_whorl 1)), fun _ => ⟨g4, g5.ended (by decide)⟩⟩
  · rw [if_neg hl]
    obtain ⟨g1, g2, g3, _⟩ := c.enterHoldover_reads
    exact ⟨g1, g2, g3, fun h => absurd h hl⟩

theorem refclkFault_ends (s : State) (a b : Nat) (hf : s.chip.on WHORL.REFCLK_STATUS_FAULT = false) (hab : 200 ≤ a ∨ 10000 ≤ b) :
    let c := s.chip
    Ends (.refclkFault a b) s fun d =>
      d.fld WHORL.REFCLK_STATUS_FAULT = 1 ∧ d.fld WHORL.REFCLK_STATUS_ON_INTERNAL = 1 ∧ d.fld WHORL.HO_ERROR_NS = 0xFFFFFFFF ∧
      c.Tells d EV.WHORL_REFCLK_FAULT ∧ (c.lock = lkFREE → c.whorl.source = 0 → d.lock = lkFREE) ∧
      (c.lock = lkLOCKED → c.whorl.source = 1 → d.lock = lkHOLDOVER ∧ d.fld WHORL.LOCK_STATE_LOSS_CAUSE = 5) := by
  intro c
  have hdue : c.refclkBad a b = true := by
    rw [Chip.refclkBad, hf]
    simpa using hab
  refine ends_of_due (due := fun c => c.refclkBad a b) (g := fun d => d.refclkFault.flyersFaulted) rfl hdue ?_
  have hfly := c.refclkFault.flyersFaulted_frame
  have hk {r : FieldRow} (hl : r.key 0 0 ∉ levelKeys) (ht : (r.placed && flyerFaultSpots.all r.apart) = true) (hc : 0 < r.cls.count) :
      (c.ended c.refclkFault.flyersFaulted).fld r = c.refclkFault.fld r :=
    (Chip.ended_fld _ _ _ _ _ hl).trans (hfly.fld_apart r 0 0 ht hc (by decide))
  obtain ⟨h1, h2, h3, h4, h5, h6⟩ := c.refclkFault_reads
  have hlock : (c.ended c.refclkFault.flyersFaulted).lock = c.refclkFault.lock := hk (by decide) (by decide) (by decide)
  rw [hlock, hk (by decide) (by decide) (by decide), hk (by decide) (by decide) (by decide), hk (by decide) (by decide) (by decide),
    hk (by decide) (by decide) (by decide)]
  refine ⟨h1, h2, h3, Chip.Tells.ended (fun hu => ?_) (by decide), h5, h6⟩
  exact (Chip.Frame.raised_apart hfly EV.WHORL_REFCLK_FAULT (by decide) (by decide)).trans (h4 hu)

/-- Settles O22: the operations of the snapshot, the calibration, REFCLK, SOURCE, HOST_LOCK and holdover, each by what it makes of its
registers. -/
theorem clockAndLockState : Obligations.ClockAndLockState := by
  unfold Obligations.ClockAndLockState
  refine ⟨fun s p v phi ho => snapCmd_sets s p v phi ho, fun s a b us => ⟨tdcCalibration_becomes s, fun hf hus => ?_, fun hus => ?_,
    refclkFault_ends s a b, fun ha hb => ?_⟩, fun s p v => ⟨fun h => ?_, sourceChange_ends s, hostLock_ends s p v, measurementLoss_ends s,
    fun h => ?_⟩, fun s => ⟨hoUpdate_ends, fun h hf => ?_, fun h => ?_⟩⟩
  · refine becomes_of_due (due := fun c => c.on WHORL.REFCLK_STATUS_FAULT && decide (1000 ≤ us)) (g := Chip.refclkRecovered) rfl
      (by rw [hf]; simpa using hus) ?_ ?_
    · exact ((Chip.Frame.refl _).setFld _ _ _ _ (by decide)).setFld _ _ _ _ (by decide)
    · rw [Chip.ended_fld _ _ _ _ _ (by decide), Chip.ended_fld _ _ _ _ _ (by decide), Chip.refclkRecovered, Chip.fld_setFld_self,
        Chip.fld_setFld_ne _ _ _ _ _ _ _ _ (by decide), Chip.fld_setFld_self]
      exact ⟨rfl, rfl⟩
  · refine idles_of_not_due (due := fun c => c.on WHORL.REFCLK_STATUS_FAULT && decide (1000 ≤ us)) (g := Chip.refclkRecovered) rfl ?_
    rw [decide_eq_false (by omega), Bool.and_false]
  · refine idles_of_not_due (due := fun c => c.refclkBad a b) (g := fun d => d.refclkFault.flyersFaulted) rfl ?_
    rw [Chip.refclkBad, decide_eq_false (by omega), decide_eq_false (by omega)]
    exact Bool.and_false _
  · exact idles_of_not_due (due := fun c => c.fld WHORL.SERVO_CFG_SOURCE != c.whorl.source) (g := Chip.sourceChange) rfl
      (bne_eq_false_iff_eq.mpr h)
  · exact idles_of_not_due (due := Chip.measLost) (g := Chip.measLoss) rfl h
  · refine ends_of_due (due := Chip.hoUpdateDue) (g := Chip.hoUpdate) rfl h ?_
    rw [Chip.ended_fld _ _ _ _ _ (by decide), Chip.hoUpdate_eq, s.chip.hoStepped.hoLimitCheck_frame.fld _ _ _ (by decide),
      s.chip.hoStepped_faulted hf]
  · exact idles_of_not_due (due := Chip.hoUpdateDue) (g := Chip.hoUpdate) rfl h

end Sys2Proof.Machine
end

section
/-!
PROOF. A fold over the block and a result that it carries along.
-/
namespace Sys2Proof.Machine

section
variable {c : Chip} {S : List Part} {R : List Spot}

theorem Chip.away_foldl_fst {α β : Type} {f : Chip × β → α → Chip × β} {l : List α} {x : Chip × β}
    (h : ∀ y, ∀ a ∈ l, (f y a).1.away S R = y.1.away S R) : (l.foldl f x).1.away S R = x.1.away S R := by
  induction l generalizing x with
  | nil => rfl
  | cons a l ih =>
    rw [List.foldl_cons, ih fun y b hb => h y b (List.mem_cons_of_mem _ hb), h x a List.mem_cons_self]

end

end Sys2Proof.Machine
end

section
/-!
PROOF. What the entry of SAFE and the withdrawal of a share leave alone.
-/
namespace Sys2Proof.Machine

section
variable {c : Chip} {S : List Part} {R : List Spot}

theorem Chip.away_fateLost {share : Nat} {k : Nat} (hS : [.fates] ⊆ S) :
    (c.fateLost share k).away S R = c.away S R := by
  unfold Chip.fateLost
  simp (disch := first | (apply mem_of_sub hS; decide) | (refine List.Subset.trans ?_ hS; decide) | decide) only [Chip.away_withFates]

theorem Chip.away_setCmdq {n : Nat} {q : List CmdPayload} (hS : [.segs] ⊆ S) (hR : [.one SEGMENT.CMDQ_STATUS_DEPTH,
    .one SEGMENT.CMDQ_STATUS_FULL] ⊆ R) (hn : n < 96) :
    (c.setCmdq n q).away S R = c.away S R := by
  unfold Chip.setCmdq
  simp (disch := first
      | (apply mem_of_sub hS; decide) | (refine List.Subset.trans ?_ hS; decide) | (apply mem_of_sub hR; decide)
      | (refine List.Subset.trans ?_ hR; decide) | with_unfolding_all exact id hn | decide) only [Chip.away_setBit, Chip.away_setFld,
      Chip.away_updEng]

theorem Chip.away_cmdqDiscard  (hS : [.fates, .segs] ⊆ S) (hR : [.one GLOBAL.SAFE_DROPPED_CMDS_COUNT, .one SEGMENT.CMDQ_STATUS_DEPTH,
    .one SEGMENT.CMDQ_STATUS_FULL] ⊆ R) :
    (c.cmdqDiscard).away S R = c.away S R := by
  unfold Chip.cmdqDiscard
  refine Chip.away_foldl fun d n hn => ?_
  have hn := List.mem_range.mp hn
  dsimp only
  split
  · rfl
  · simp (disch := first
      | (apply mem_of_sub hS; decide) | (refine List.Subset.trans ?_ hS; decide) | (apply mem_of_sub hR; decide)
      | (refine List.Subset.trans ?_ hR; decide) | decide) only [Chip.away_setCmdq (hn := hn), Chip.away_bumpBy]
    exact Chip.away_foldl fun e p _ => by simp (disch := first
        | (apply mem_of_sub hS; decide) | (refine List.Subset.trans ?_ hS; decide) | (apply mem_of_sub hR; decide)
        | (refine List.Subset.trans ?_ hR; decide) | decide) only [Chip.away_fateLost]

theorem Chip.away_updDistaff {f : Distaff → Distaff} (hS : [.distaff] ⊆ S) :
    (c.updDistaff f).away S R = c.away S R := by
  unfold Chip.updDistaff
  simp (disch := first | (apply mem_of_sub hS; decide) | (refine List.Subset.trans ?_ hS; decide) | decide) only [Chip.away_withDistaff]

theorem Chip.away_setStage {k : Nat} {n : Nat} {v : Option Stage} (hS : [.distaff] ⊆ S) :
    (c.setStage k n v).away S R = c.away S R := by
  unfold Chip.setStage
  simp (disch := first | (apply mem_of_sub hS; decide) | (refine List.Subset.trans ?_ hS; decide) | decide) only [Chip.away_updDistaff]

theorem Chip.away_takeItems {key : Nat} (hS : [.distaff, .fates, .segs] ⊆ S) (hR : [.one SEGMENT.CMDQ_STATUS_DEPTH,
    .one SEGMENT.CMDQ_STATUS_FULL] ⊆ R) :
    (c.takeItems key).1.away S R = c.away S R := by
  unfold Chip.takeItems
  dsimp only
  rw [Chip.away_updShare (List.Subset.trans (by decide) hS), Chip.away_withFates (mem_of_sub hS (by decide))]
  refine Chip.away_foldl_fst fun y n hn => ?_
  have hn := List.mem_range.mp hn
  simp (disch := first
      | (apply mem_of_sub hS; decide) | (refine List.Subset.trans ?_ hS; decide) | (apply mem_of_sub hR; decide)
      | (refine List.Subset.trans ?_ hR; decide) | decide) only [Chip.away_setCmdq (hn := hn), Chip.away_ite, ite_self, Chip.away_setStage]

theorem Chip.away_orphanMsgs {key : Nat} (hS : [.hank] ⊆ S) :
    (c.orphanMsgs key).away S R = c.away S R := by
  unfold Chip.orphanMsgs
  simp (disch := first | (apply mem_of_sub hS; decide) | (refine List.Subset.trans ?_ hS; decide) | decide) only [Chip.away_updHank]

theorem Chip.away_dropShare {key : Nat} (hS : [.power, .distaff, .fates] ⊆ S) :
    (c.dropShare key).away S R = c.away S R := by
  unfold Chip.dropShare
  simp (disch := first
      | (apply mem_of_sub hS; decide) | (refine List.Subset.trans ?_ hS; decide) | decide) only [Chip.away_withFates, Chip.away_releaseLeave,
      Chip.away_setShare]

theorem Chip.away_commandsEnd  (hS : [.power, .hank, .distaff, .fates, .segs] ⊆ S) (hR : [.one SEGMENT.CMDQ_STATUS_DEPTH,
    .one SEGMENT.CMDQ_STATUS_FULL] ⊆ R) :
    (c.commandsEnd).away S R = c.away S R := by
  unfold Chip.commandsEnd
  refine Chip.away_foldl fun d e _ => ?_
  split
  · simp (disch := first
      | (apply mem_of_sub hS; decide) | (refine List.Subset.trans ?_ hS; decide) | (apply mem_of_sub hR; decide)
      | (refine List.Subset.trans ?_ hR; decide) | decide) only [Chip.away_ite, ite_self, Chip.away_takeItems, Chip.away_orphanMsgs,
      Chip.away_dropShare]
  · rfl

theorem Chip.away_safeEnter  (hS : [.freeCtr, .modes, .power, .whorl, .image, .buffer, .txOps, .reel, .hostq, .hank, .distaff, .fates, .segs]
    ⊆ S) (hR : [.evt .global, .evt .hostq, .evt .reel, .one CARDER.BULK_STATUS_STATE, .one DISTAFF.BULK_STATUS_STATE,
    .one DISTAFF.ITEMS_OUT_COUNT, .one DRAM.SCRUB_STATUS_DONE_MIB, .one DRAM.SCRUB_STATUS_STATE, .one GLOBAL.IMAGE_STATUS_CAUSE,
    .one GLOBAL.IMAGE_STATUS_HOLD, .one GLOBAL.IMAGE_STATUS_STATE, .one GLOBAL.MODE_MODE, .one GLOBAL.MODE_PREV_MODE, .one GLOBAL.MODE_RUN_ARMED,
    .one GLOBAL.SAFE_DROPPED_CMDS_COUNT, .one GLOBAL.WDOG_REMAIN_COUNT, .one HANK.TX_MSGS_COUNT, .one HOSTQ.CR_BP_HI_BP, .one HOSTQ.CR_BP_LO_BP,
    .many HOSTQ.CR_STATUS_BACKPRESSURE, .many HOSTQ.CR_STATUS_ENABLED, .many HOSTQ.LEDGER_ENTRY0_FROZEN, .many HOSTQ.LEDGER_ENTRY0_STATE,
    .many HOSTQ.LEDGER_ENTRY0_STATUS, .many HOSTQ.LEDGER_ENTRY1_PROGRESS, .one HOSTQ.PARTIALS_COUNT, .one HOSTQ.RX_HOLD_DROP_COUNT,
    .many HOSTQ.SQ_ATTN_ATTN, .one HOSTQ.SQ_GRP_EVT_ATTN, .many HOSTQ.SQ_STATUS_CAUSE, .many HOSTQ.SQ_STATUS_STATE,
    .one REELGATE.C7_BURST_SUM_CNS, .one REELGATE.C7_COND_FAIL, .one REELGATE.C7_COND_OK, .one REELGATE.C7_GATE_WAIT_NS,
    .one REELGATE.C7_OPEN_FRACTION, .one REELGATE.C7_RATE_SUM_KBPS, .one REELGATE.XOFF_COUNT_COUNT, .one SEGMENT.CMDQ_STATUS_DEPTH,
    .one SEGMENT.CMDQ_STATUS_FULL] ⊆ R) :
    (c.safeEnter).away S R = c.away S R := by
  unfold Chip.safeEnter
  simp (disch := first
      | (apply mem_of_sub hS; decide) | (refine List.Subset.trans ?_ hS; decide) | (apply mem_of_sub hR; decide)
      | (refine List.Subset.trans ?_ hR; decide) | decide) only [Chip.away_raise, Chip.away_setMode, Chip.away_updModes, Chip.away_wdogReload,
      Chip.away_safeFreeze, Chip.away_cmdqDiscard, Chip.away_commandsEnd, Chip.away_gatesStop, Chip.away_bulksEnd, Chip.away_offersEnd,
      Chip.away_segWake]

end

end Sys2Proof.Machine
end

section
/-!
PROOF. O16 fails. The statement speaks of every state, so also of one whose ledger entry of a tag is live while no operation of that tag
holds its words. Such a tag is not among `tagsInUse`, so the entry of SAFE does not freeze it; when the ring of the frame that waits
under it is turned off, the frame is dropped, the operation ends, and its completion becomes due after the due ones were cleared.
-/
namespace Sys2Proof.Machine

/-- A frame that waits for the buffers of CR 0, under tag 5. -/
def staleFrame : Packet := { rxWait := some (0, 0), tag := some 5 }

/-- STANDBY with a SAFE cause set: CR 0 enabled, the ledger entry of tag 5 live, and no words of its operation. -/
def staleTag : Chip :=
  let ops : Chip := { ({} : Chip) with txOps := [(5, { handed := true, open_ := 1 })] }
  (((ops.setFld GLOBAL.SAFE_CAUSE_HOST_CMD 1).setFld HOSTQ.CR_STATUS_ENABLED 1).setTagState 5 1).setQueue portHost 0 [staleFrame]

theorem staleTag_facts : staleTag.safeEnter.hostq.due = [5] ∧ staleTag.mode = mSTANDBY ∧ staleTag.safeDue = true := by decide +kernel

/-- What a happening that ends in a block of some kind has made of the block. -/
theorem ok_of_ends {i : Instr} {s : State} {f : Chip → Chip} {ok : Chip → Prop} (h : exec i s = run f s) (he : Ends i s ok) :
    ok (s.chip.ended (f s.chip)) := by
  obtain ⟨t, hexec, _, hok⟩ := he
  rw [h, run_ended] at hexec
  have ht := Host.Outcome.next.inj hexec
  rw [← ht] at hok
  exact hok

theorem ok_of_ends_due {i : Instr} {s : State} {due : Chip → Bool} {f : Chip → Chip} {ok : Chip → Prop}
    (h : exec i s = run (fun c => c.whenDue (due c) f) s) (hdue : due s.chip = true) (he : Ends i s ok) : ok (s.chip.ended (f s.chip)) := by
  have hok := ok_of_ends h he
  rw [s.chip.whenDue_true _ hdue] at hok
  exact hok

theorem Chip.ended_due (b d : Chip) : (b.ended d).hostq.due = d.hostq.due := by
  obtain ⟨q, hq⟩ := b.ended_hostq d
  rw [hq]

/-- As the statement has it, nothing is due after the entry of SAFE. -/
theorem due_of_safeMode (h : Obligations.SafeMode) (s : State) (hmode : s.chip.mode = mSTANDBY) (hdue : s.chip.safeDue = true) :
    s.chip.safeEnter.hostq.due = [] := by
  have hcause : s.chip.safeCause ≠ 0 := by
    rw [Chip.safeDue, Bool.and_eq_true, Bool.and_eq_true] at hdue
    exact bne_iff_ne.mp hdue.1.1
  have hm : s.chip.mode ∈ [mSTANDBY, mACQUIRE, mRUN, mHOLDOVER] := by
    rw [hmode]
    exact List.mem_cons_self
  unfold Obligations.SafeMode at h
  obtain ⟨h, _⟩ := h
  obtain ⟨hentry, _⟩ := h s
  obtain ⟨_, _, _, _, _, _, _, _, _, hnone, _⟩ := ok_of_ends_due (due := Chip.safeDue) (f := Chip.safeEnter) rfl hdue (hentry hcause hm)
  rw [Chip.ended_due] at hnone
  exact hnone

/-- Refutes O16: the entry of SAFE can end with a completion due. -/
theorem not_safeMode : ¬ Obligations.SafeMode := fun h => by
  obtain ⟨hdue, hstandby, hsafe⟩ := staleTag_facts
  have hnone := due_of_safeMode h { chip := staleTag } hstandby hsafe
  have hchip : ({ chip := staleTag } : State).chip = staleTag := rfl
  rw [hchip, hdue] at hnone
  exact List.cons_ne_nil _ _ hnone

end Sys2Proof.Machine
end

section
/-!
PROOF. O24: changes of network time (R110 to R118). What a forward step passes over is counted after it is applied; none of that moves the
time, and no event is lost.
-/
namespace Sys2Proof.Machine

/-! ### A host request -/

section
variable {c d e : Chip} {t : Int}

theorem Chip.changeNoted_frame (c : Chip) (t : Int) (o : Nat) : c.Frame [] (· ∈ changeKeys) (c.changeNoted t o) := by
  refine Chip.but_eq_iff.mp ?_
  unfold Chip.changeNoted
  simp (disch := decide) only [Chip.but_setFld, Chip.but_setBit]

theorem Chip.stepSet_changeNoted (c : Chip) (t : Int) (whole : Bool) (b : Int) : (c.changeNoted t 0).stepSet t whole b = c.stepSet t whole b := by
  have h := c.changeNoted_frame t 0
  rw [Chip.stepSet, h.fld _ _ _ (by decide), h.fld _ _ _ (by decide), h.part .aon (by decide), Chip.stepSet]

/-- The rows of Table 03.6, with what each sets up. -/
theorem Chip.acceptChange_rows (c : Chip) (ht : t ≠ 0) :
    (t.natAbs < usQ → c.acceptChange t 0 =
      ((c.changeNoted t 0).withStep (c.stepSet t false 0)).setFld WHORL.STEP_STATUS_STATE stSLEWING) ∧
    ((usQ : Int) ≤ t → c.acceptChange t 0 = (c.changeNoted t 0).withStep (c.stepSet t true 0)) ∧
    (t ≤ -(usQ : Int) → c.running = true → c.on WHORL.STEP_CFG_POLICY = false → c.acceptChange t 0 =
      ((c.changeNoted t 0).withStep (c.stepSet t false 0)).setFld WHORL.STEP_STATUS_STATE stSLEWING) ∧
    (t ≤ -(usQ : Int) → c.running = true → c.on WHORL.STEP_CFG_POLICY = true → c.acceptChange t 0 =
      ((c.changeNoted t 0).withStep (c.stepSet t false
        (nextBoundary c.net (boundaryPeriod (c.fld WHORL.STEP_BOUNDARY_PERIOD_NS))))).setFld WHORL.STEP_STATUS_STATE stWAIT) ∧
    (t ≤ -(usQ : Int) → c.running = false → c.acceptChange t 0 =
      ((c.changeNoted t 0).withStep (c.stepSet t true 0)).setFld WHORL.STEP_STATUS_STATE stHOLDING) := by
  have hus : (0 : Int) < usQ := by decide
  have hn := c.changeNoted_frame t 0
  have hmode : (c.changeNoted t 0).mode = c.mode := hn.fld _ _ _ (by decide)
  have hrun : (c.changeNoted t 0).running = c.running := by
    rw [Chip.running, hmode, Chip.running]
  have hpol := hn.on WHORL.STEP_CFG_POLICY 0 0 (by decide)
  have hnet : (c.changeNoted t 0).net = c.net := by rw [Chip.net, hn.whorl (by decide), Chip.net]
  have hper := hn.fld WHORL.STEP_BOUNDARY_PERIOD_NS 0 0 (by decide)
  rw [c.acceptChange_eq ht, hrun, hpol, hnet, hper, c.stepSet_changeNoted, c.stepSet_changeNoted, c.stepSet_changeNoted]
  refine ⟨fun h => if_pos h, fun h => ?_, fun h hr hp => ?_, fun h hr hp => ?_, fun h hr => ?_⟩
  · rw [if_neg (by omega), if_pos (by omega)]
  · rw [if_neg (by omega), if_neg (by omega), hr, hp, if_pos rfl, if_neg (by decide)]
  · rw [if_neg (by omega), if_neg (by omega), hr, hp, if_pos rfl, if_pos rfl]
  · rw [if_neg (by omega), if_neg (by omega), hr, if_neg (by decide)]

theorem Chip.changeNoted_reads (c : Chip) (t : Int) : (c.changeNoted t 0).on WHORL.STEP_STATUS_BACKWARD = decide (t < 0) ∧
    (c.changeNoted t 0).fld WHORL.STEP_STATUS_ORIGIN = 0 ∧ (c.changeNoted t 0).stepState = c.stepState :=
  ⟨(Chip.on_setFld_ne (by decide)).trans (Chip.on_setBit_self _ rfl), Chip.fld_setFld_self _ _ _ _ _,
    (Chip.fld_setFld_ne _ _ _ _ _ _ _ _ (by decide)).trans (Chip.fld_setBit_ne _ (by decide))⟩
end

section
variable {s : State} {p : Port} {v : Word}

/-- A request that is accepted, with what it sets up. -/
theorem adjRequest_becomes {st : StepChange} {state : Nat} (ho : s.chip.Open p .whorl 0)
    (hs : state < 4) (f : Chip) (hf : s.chip.adjCmd p v.toNat = f)
    (hstate : f = ((s.chip.changeNoted (s.chip.adjChange (bitsOf v.toNat 1 1 == 1)) 0).withStep st).setFld WHORL.STEP_STATUS_STATE state ∨
      f = (s.chip.changeNoted (s.chip.adjChange (bitsOf v.toNat 1 1 == 1)) 0).withStep st ∧ s.chip.stepState = state) :
    Becomes (.adjRequest p v) s { s.chip with whorl := { s.chip.whorl with step := st } }
      [WHORL.STEP_STATUS_BACKWARD.key 0 0, WHORL.STEP_STATUS_ORIGIN.key 0 0, WHORL.STEP_STATUS_STATE.key 0 0] fun d =>
        d.on WHORL.STEP_STATUS_BACKWARD = decide (s.chip.adjChange (bitsOf v.toNat 1 1 == 1) < 0) ∧
          d.fld WHORL.STEP_STATUS_ORIGIN = 0 ∧ d.stepState = state := by
  generalize s.chip.adjChange (bitsOf v.toNat 1 1 == 1) = t at hstate ⊢
  obtain ⟨h1, h2, h3⟩ := s.chip.changeNoted_reads t
  have hnoted := s.chip.changeNoted_frame t 0
  have hbase : ({ s.chip with whorl := { s.chip.whorl with step := st } } : Chip).Frame [.ecc] (· ∈ changeKeys)
      ((s.chip.changeNoted t 0).withStep st) := by
    have h := ((hnoted.mono (T := [.whorl]) (by decide) fun _ h => h).withWhorl
      { (s.chip.changeNoted t 0).whorl with step := st } (by decide)).since .whorl (T := [.ecc]) (by decide)
    rw [Part.put, show (s.chip.changeNoted t 0).whorl = s.chip.whorl from hnoted.whorl (by decide)] at h
    rw [Chip.withStep, show (s.chip.changeNoted t 0).whorl = s.chip.whorl from hnoted.whorl (by decide)]
    exact h
  refine becomes_of_access (r := WHORL.ADJ_CMD_GO) (g := fun d => d.adjCmd p v.toNat) rfl ho ?_ ?_ <;> rw [hf]
  · rcases hstate with hst | ⟨hst, _⟩
    · rw [hst]
      exact hbase.setFld _ _ _ _ (by decide)
    · rw [hst]
      exact hbase
  · rw [Chip.ended_on _ _ _ _ _ (by decide), Chip.ended_fld _ _ _ _ _ (by decide), Chip.stepState, Chip.ended_fld _ _ _ _ _ (by decide)]
    rcases hstate with hst | ⟨hst, heq⟩
    · rw [hst, Chip.on_setFld_ne (by decide), Chip.fld_setFld_ne _ _ _ _ _ _ _ _ (by decide), Chip.fld_setFld_self]
      exact ⟨h1, h2, Nat.mod_eq_of_lt hs⟩
    · rw [hst]
      exact ⟨h1, h2, h3.trans heq⟩
end

section
variable {s : State} {p : Port} {v : Word}

theorem adjRequests (s : State) (p : Port) (v : Word) (ho : s.chip.Open p .whorl 0) (hv : bitsOf v.toNat 0 0 = 1) :
    let c := s.chip;
    let t := c.adjChange (bitsOf v.toNat 1 1 == 1);
    let st (whole : Bool) (boundary : Int) : StepChange :=
      { remain := t, whole := whole, slewPpm := max 1 (min 500 (c.fld WHORL.STEP_CFG_SLEW_PPM)),
        periodNs := boundaryPeriod (c.fld WHORL.STEP_BOUNDARY_PERIOD_NS), boundary := boundary, due := c.aon + 1 };
    let takes (whole : Bool) (boundary : Int) (state : Nat) : Prop :=
      Becomes (.adjRequest p v) s { c with whorl := { c.whorl with step := st whole boundary } }
        [WHORL.STEP_STATUS_BACKWARD.key 0 0, WHORL.STEP_STATUS_ORIGIN.key 0 0, WHORL.STEP_STATUS_STATE.key 0 0] fun d =>
        d.on WHORL.STEP_STATUS_BACKWARD = decide (t < 0) ∧ d.fld WHORL.STEP_STATUS_ORIGIN = 0 ∧ d.stepState = state;
    ((c.whorl.source = 1 ∨ c.stepPending = true) →
      SetsRegs (.adjRequest p v) s (EV.WHORL_STEP_REFUSED.key 0 :: errKeys 2) fun d =>
        c.Counted d 2 WHORL.ADJ_CMD_GO.off p ∧ c.Tells d EV.WHORL_STEP_REFUSED) ∧
    (c.whorl.source ≠ 1 → c.stepPending = false →
      (t = 0 → Idles (.adjRequest p v) s) ∧
      (t ≠ 0 → t.natAbs < usQ → takes false 0 stSLEWING) ∧
      ((usQ : Int) ≤ t → takes true 0 stIDLE) ∧
      (t ≤ -(usQ : Int) → c.running = true → c.on WHORL.STEP_CFG_POLICY = false → takes false 0 stSLEWING) ∧
      (t ≤ -(usQ : Int) → c.running = true → c.on WHORL.STEP_CFG_POLICY = true →
        takes false (nextBoundary c.net (boundaryPeriod (c.fld WHORL.STEP_BOUNDARY_PERIOD_NS))) stWAIT) ∧
      (t ≤ -(usQ : Int) → c.running = false → takes true 0 stHOLDING)) := by
  intro c t st takes
  have hcmd : c.adjCmd p v.toNat = if c.whorl.source = 1 ∨ c.stepPending then (c.refuse WHORL.ADJ_CMD_GO p).raise EV.WHORL_STEP_REFUSED
      else c.acceptChange t 0 := if_pos hv
  have hus : (0 : Int) < usQ := by decide
  refine ⟨fun h => ?_, fun hs hp => ?_⟩
  · exact setsRegs_of_access_refused (r := WHORL.ADJ_CMD_GO) (g := fun d => d.adjCmd p v.toNat) rfl ho (hcmd.trans (if_pos h)) (by decide)
      (by decide) (by decide)
  · have hno : ¬ (c.whorl.source = 1 ∨ c.stepPending = true) := by
      rw [hp]
      rintro (h | h)
      · exact hs h
      · exact absurd h (by decide)
    rw [if_neg hno] at hcmd
    have hidle : c.stepState = stIDLE := by
      have h1 := (Bool.or_eq_false_iff.mp hp).1
      exact bne_eq_false_iff_eq.mp h1
    refine ⟨fun h => ?_, fun h0 h => ?_, fun h => ?_, fun h hr hpol => ?_, fun h hr hpol => ?_, fun h hr => ?_⟩
    · refine idles_of_access (r := WHORL.ADJ_CMD_GO) (g := fun d => d.adjCmd p v.toNat) rfl ho (hcmd.trans ?_)
      rw [h]
      exact if_pos rfl
    · exact adjRequest_becomes ho (by decide) _ (hcmd.trans ((c.acceptChange_rows h0).1 h)) (.inl rfl)
    · exact adjRequest_becomes ho (by decide) _ (hcmd.trans ((c.acceptChange_rows (by omega)).2.1 h)) (.inr ⟨rfl, hidle⟩)
    · exact adjRequest_becomes ho (by decide) _ (hcmd.trans ((c.acceptChange_rows (by omega)).2.2.1 h hr hpol)) (.inl rfl)
    · exact adjRequest_becomes ho (by decide) _ (hcmd.trans ((c.acceptChange_rows (by omega)).2.2.2.1 h hr hpol)) (.inl rfl)
    · exact adjRequest_becomes ho (by decide) _ (hcmd.trans ((c.acceptChange_rows (by omega)).2.2.2.2 h hr)) (.inl rfl)
end

/-! ### What a forward step passes over -/

/-- Neither the time nor the change that is under way moves, and no event is lost. -/
structure Chip.KeepsTime (c d : Chip) : Prop where
  now : d.now = c.now
  offset : d.whorl.offset = c.whorl.offset
  step : d.whorl.step = c.whorl.step
  told : ∀ v m, v.bit < 32 → c.raised v m = true → d.raised v m = true
  up : d.domUp .aon = c.domUp .aon

section
variable {c d e : Chip}

theorem Chip.KeepsTime.refl (c : Chip) : c.KeepsTime c := ⟨rfl, rfl, rfl, fun _ _ _ h => h, rfl⟩

theorem Chip.KeepsTime.trans (h : c.KeepsTime d) (h' : d.KeepsTime e) : c.KeepsTime e :=
  ⟨h'.now.trans h.now, h'.offset.trans h.offset, h'.step.trans h.step, fun v m hb hr => h'.told v m hb (h.told v m hb hr),
    h'.up.trans h.up⟩

theorem Chip.KeepsTime.ite {p : Prop} [Decidable p] (h : p → c.KeepsTime d) (h' : ¬ p → c.KeepsTime e) : c.KeepsTime (if p then d else e) := by
  split
  · exact h ‹_›
  · exact h' ‹_›

theorem Chip.KeepsTime.foldl {α : Type} {f : Chip → α → Chip} (l : List α) (h : ∀ d : Chip, ∀ a ∈ l, d.KeepsTime (f d a)) (c : Chip) :
    c.KeepsTime (l.foldl f c) := by
  induction l generalizing c with
  | nil => exact .refl c
  | cons a l ih => exact (h c a List.mem_cons_self).trans (ih (fun d b hb => h d b (List.mem_cons_of_mem _ hb)) _)

theorem Chip.KeepsTime.foldl_fst {α β : Type} {f : Chip × β → α → Chip × β} (l : List α)
    (h : ∀ x : Chip × β, ∀ a ∈ l, x.1.KeepsTime (f x a).1) (x : Chip × β) : x.1.KeepsTime (l.foldl f x).1 := by
  induction l generalizing x with
  | nil => exact .refl _
  | cons a l ih => exact (h x a List.mem_cons_self).trans (ih (fun y b hb => h y b (List.mem_cons_of_mem _ hb)) _)

theorem Chip.keepsTime_setMark (c : Chip) (k : Nat) (m : Mark) : c.KeepsTime (c.setMark k m) := ⟨rfl, rfl, rfl, fun _ _ _ h => h, rfl⟩

/-- The state of AON lies below the cells of every page from the third on. -/
theorem aonState_ne {page off lo i : Nat} (h : 2 ≤ page) : (Domain.row .aon).key 0 0 ≠ cellKey page off lo i := by
  have haon : (Domain.row .aon).key 0 0 < 2 * 2 ^ 33 := by decide
  simp only [cellKey]
  omega

theorem Chip.keepsTime_setFld (c : Chip) (r : FieldRow) (x n i : Nat)
    (hr : (0x040 ≤ r.off ∧ r.off < 4096 ∧ r.lo < 32) ∧ 2 ≤ r.cls.base) (hi : i < 65536) : c.KeepsTime (c.setFld r x n i) := by
  refine ⟨rfl, rfl, rfl, fun v m _ h => (Chip.raised_setFld r x n i hr.1 hi v m).trans h, ?_⟩
  rw [Chip.domUp, Chip.dom, Chip.fld_setFld_ne _ _ _ _ _ _ _ _ (aonState_ne (by omega)), Chip.domUp, Chip.dom]

theorem Chip.keepsTime_bumpBy (c : Chip) (r : FieldRow) (x n i : Nat) (hr : (0x040 ≤ r.off ∧ r.off < 4096 ∧ r.lo < 32) ∧ 2 ≤ r.cls.base)
    (hi : i < 65536) : c.KeepsTime (c.bumpBy r x n i) := c.keepsTime_setFld r _ n i hr hi

theorem Chip.keepsTime_raise (c : Chip) (x : Evt) (n : Nat) (h : 2 ≤ x.cls.base) : c.KeepsTime (c.raise x n) := by
  have hw := c.raise_whorl x n
  refine ⟨by rw [Chip.now, hw, Chip.now], by rw [hw], by rw [hw], fun v m hb h => c.raised_raise_of_raised x v n m hb h, ?_⟩
  rw [Chip.domUp, Chip.dom, Chip.fld_raise_ne _ _ _ _ _ _ (aonState_ne (by omega)), Chip.domUp, Chip.dom]

theorem Chip.keepsTime_markEdge (c : Chip) {k : Nat} (hk : k < 8) : c.KeepsTime (c.markEdge k) := by
  rw [c.markEdge_eq]
  exact .ite (fun _ => c.keepsTime_setMark _ _) fun _ => (c.keepsTime_setMark _ _).trans (Chip.keepsTime_setFld _ _ _ _ _ (by decide) (by omega))

theorem Chip.keepsTime_anyMarkEdge (c : Chip) {k : Nat} (hk : k < 8) : c.KeepsTime (c.anyMarkEdge k) := by
  unfold Chip.anyMarkEdge
  split
  · exact c.keepsTime_markEdge hk
  · split
    · exact c.keepsTime_setMark _ _
    · exact .refl c

theorem Chip.keepsTime_ppsOutEdge (c : Chip) : c.KeepsTime c.ppsOutEdge := ⟨rfl, rfl, rfl, fun _ _ _ h => h, rfl⟩

theorem Chip.keepsTime_edgesDue (c : Chip) : c.KeepsTime c.edgesDue := by
  have hmarks : c.KeepsTime ((List.range 8).foldl Chip.anyMarkEdge c) :=
    .foldl _ (fun d k hk => d.keepsTime_anyMarkEdge (List.mem_range.mp hk)) c
  unfold Chip.edgesDue
  exact .ite (fun _ => hmarks.trans (Chip.keepsTime_ppsOutEdge _)) fun _ => hmarks

theorem Chip.keepsTime_segMarkSkip (c : Chip) (d : Nat) {k : Nat} (hk : k < 8) : c.KeepsTime (c.segMarkSkip d k).1 := by
  unfold Chip.segMarkSkip
  dsimp only
  split
  · exact (c.keepsTime_setMark _ _).trans (Chip.keepsTime_bumpBy _ _ _ _ _ (by decide) (by omega))
  · exact .refl c

theorem Chip.keepsTime_marksSkip (c : Chip) (t0 t1 : Int) : c.KeepsTime (c.marksSkip t0 t1).1 := by
  refine Chip.KeepsTime.foldl_fst _ (fun x k hk => ?_) (c, 0)
  have hi : k < 65536 := by
    have := List.mem_range.mp hk
    omega
  dsimp only
  split
  · split
    · exact (Chip.keepsTime_setMark _ _ _).trans (Chip.keepsTime_bumpBy _ _ _ _ _ (by decide) hi)
    · split
      · exact ((Chip.keepsTime_setMark _ _ _).trans (Chip.keepsTime_setFld _ _ _ _ _ (by decide) hi)).trans
          (Chip.keepsTime_bumpBy _ _ _ _ _ (by decide) hi)
      · exact .refl _
  · exact .refl _

theorem Chip.keepsTime_ppsSkip (c : Chip) (t0 t1 : Int) : c.KeepsTime (c.ppsSkip t0 t1).1 := by
  unfold Chip.ppsSkip
  split
  · exact ⟨rfl, rfl, rfl, fun _ _ _ h => h, rfl⟩
  · exact .refl c

theorem Chip.keepsTime_gateResume (c : Chip) (n : Nat) : c.KeepsTime (c.gateResume n) := by
  have hgate (d : Chip) (g : Gate) : d.KeepsTime (d.setGate n g) := ⟨rfl, rfl, rfl, fun _ _ _ h => h, rfl⟩
  have hset (d : Chip) (r : FieldRow) (x : Nat) (hr : (0x040 ≤ r.off ∧ r.off < 4096 ∧ r.lo < 32) ∧ 2 ≤ r.cls.base) :
      d.KeepsTime (d.setFld r x n) :=
    d.keepsTime_setFld r x n 0 hr (by decide)
  have hentry (d : Chip) (e : GEntry) : d.KeepsTime (d.applyEntry n e) := by
    unfold Chip.applyEntry
    have h2 := (hset d REELGATE.GATE_STATUS_GATES e.gates (by decide)).trans (hset _ REELGATE.GATE_STATUS_ENTRY e.idx (by decide))
    exact .ite (fun _ => h2.trans (hset _ _ _ (by decide))) fun _ => .ite (fun _ => h2.trans (hset _ _ _ (by decide))) fun _ => h2
  unfold Chip.gateResume
  dsimp only
  split
  · split
    · exact .ite (fun _ => (hgate _ _).trans (hentry _ _)) fun _ => ((hgate _ _).trans (hentry _ _)).trans (hset _ _ _ (by decide))
    · exact (hgate _ _).trans (hset _ _ _ (by decide))
  · exact (((hgate _ _).trans (hset _ _ _ (by decide))).trans (hset _ _ _ (by decide))).trans (hset _ _ _ (by decide))

theorem Chip.keepsTime_gatesSkip (c : Chip) (t0 t1 : Int) : c.KeepsTime (c.gatesSkip t0 t1).1 := by
  refine Chip.KeepsTime.foldl_fst _ (fun x n _ => ?_) (c, 0)
  dsimp only
  split
  · exact Chip.keepsTime_gateResume _ _
  · exact .refl _

theorem Chip.keepsTime_lateEvents (c : Chip) (k : Nat) : c.KeepsTime (c.lateEvents k) := by
  unfold Chip.lateEvents
  exact .ite (fun _ => .refl c) fun _ => (Chip.keepsTime_bumpBy _ _ _ _ _ (by decide) (by decide)).trans (Chip.keepsTime_raise _ _ _ (by decide))

theorem Chip.keepsTime_skeinStepAll (c : Chip) : c.KeepsTime c.skeinStepAll := by
  have h : c.Frame [.segs] (Touched []) c.skeinStepAll := Chip.away_eq_iff.mp (Chip.away_skeinStepAll (List.Subset.refl _))
  have hw := h.whorl (by decide)
  exact ⟨by rw [Chip.now, hw, Chip.now], by rw [hw], by rw [hw], fun v m _ hr => (h.raised v m (by simp [Touched])).trans hr,
    h.domUp _ (by simp [Touched])⟩

/-! ### A change is applied -/

/-- A whole forward change as it is applied: edges that are due come first, and the edges of SEGMENT mode that it passes over count. -/
def Chip.segMarksSkip (c : Chip) (d : Nat) : Chip × Nat :=
  (List.range 8).foldl (fun (x : Chip × Nat) k => ((x.1.segMarkSkip d k).1, x.2 + (x.1.segMarkSkip d k).2)) (c, 0)

def Chip.forwardFrom (c : Chip) : Chip := (c.edgesDue.segMarksSkip c.edgesDue.whorl.step.remain.toNat).1

theorem Chip.keepsTime_segMarksSkip (c : Chip) (d : Nat) : c.KeepsTime (c.segMarksSkip d).1 := by
  refine Chip.KeepsTime.foldl_fst _ (fun x k hk => ?_) (c, 0)
  have h := x.1.keepsTime_segMarkSkip d (List.mem_range.mp hk)
  exact h

theorem Chip.keepsTime_forwardFrom (c : Chip) : c.KeepsTime c.forwardFrom := c.keepsTime_edgesDue.trans (Chip.keepsTime_segMarksSkip _ _)

/-- What follows a forward change moves no time and loses no event. -/
theorem Chip.stepForward_after (c : Chip) : c.forwardFrom.applyForward.KeepsTime c.stepForward := by
  unfold Chip.stepForward
  dsimp only
  refine Chip.KeepsTime.trans ?_ (Chip.keepsTime_skeinStepAll _)
  refine Chip.KeepsTime.trans ?_ (Chip.keepsTime_lateEvents _ _)
  refine Chip.KeepsTime.trans ?_ (Chip.keepsTime_gatesSkip _ _ _)
  refine Chip.KeepsTime.trans ?_ (Chip.keepsTime_ppsSkip _ _ _)
  have hmarks := Chip.keepsTime_marksSkip c.forwardFrom.applyForward c.edgesDue.net c.forwardFrom.applyForward.net
  exact .ite (fun _ => hmarks) fun _ => hmarks.trans (Chip.keepsTime_raise _ _ _ (by decide))

theorem note_keeps (w : Whorl) (a l : Nat) : (w.note a l).mono = w.mono ∧ (w.note a l).offset = w.offset ∧ (w.note a l).step = w.step ∧
    (w.note a l).mark = w.mark := by
  unfold Whorl.note
  split <;> exact ⟨rfl, rfl, rfl, rfl⟩

theorem Chip.applyForward_reads (c : Chip) : c.applyForward.now = c.now ∧ c.applyForward.whorl.offset = c.whorl.offset + c.whorl.step.remain ∧
    c.applyForward.whorl.step = {} ∧ c.Tells c.applyForward EV.WHORL_STEP_APPLIED := by
  obtain ⟨h1, h2, h3, _⟩ := note_keeps c.whorl c.whorl.mono (c.whorl.mono - c.whorl.inc)
  unfold Chip.applyForward
  refine ⟨?_, ?_, ?_, Chip.tells_raise _ _ (by decide) rfl⟩
  · rw [Chip.now, Chip.raise_whorl]
    exact h1
  · rw [Chip.raise_whorl]
    exact congrArg₂ (· + ·) h2 (congrArg StepChange.remain h3)
  · rw [Chip.raise_whorl]

theorem Chip.applyBackward_reads (c : Chip) (b : Nat) : (c.applyBackward b).whorl.offset = c.whorl.offset - b ∧
    (c.applyBackward b).whorl.mark = max c.whorl.mark c.now + b ∧ (c.applyBackward b).now = c.now ∧
    (c.applyBackward b).stepState = stHOLDING ∧ (c.applyBackward b).whorl.step.remain = c.whorl.step.remain + b ∧
    c.Tells (c.applyBackward b) EV.WHORL_STEP_APPLIED := by
  obtain ⟨h1, h2, h3, h4⟩ := note_keeps c.whorl c.whorl.mono (c.whorl.mono - c.whorl.inc)
  have hstate : (c.applyBackward b).stepState = stHOLDING := by
    rw [Chip.stepState, Chip.applyBackward, Chip.fld_raise_ne _ _ _ _ _ _ (by decide), Chip.fld_setFld_self]
    rfl
  have htell : c.Tells (c.applyBackward b) EV.WHORL_STEP_APPLIED :=
    (((Chip.Frame.refl c).withWhorl (S := [.whorl]) (K := (· ∈ changeKeys)) _ (by decide)).setFld _ _ _ _ (by decide)).tells_raise _ _
      (by decide) (by decide)
  have hw : (c.applyBackward b).whorl.offset = (c.whorl.note c.whorl.mono (c.whorl.mono - c.whorl.inc)).offset - b ∧
      (c.applyBackward b).whorl.mark = max (c.whorl.note c.whorl.mono (c.whorl.mono - c.whorl.inc)).mark
        (c.whorl.note c.whorl.mono (c.whorl.mono - c.whorl.inc)).mono + b ∧
      (c.applyBackward b).whorl.mono = (c.whorl.note c.whorl.mono (c.whorl.mono - c.whorl.inc)).mono ∧
      (c.applyBackward b).whorl.step.remain = (c.whorl.note c.whorl.mono (c.whorl.mono - c.whorl.inc)).step.remain + b := by
    unfold Chip.applyBackward
    rw [Chip.raise_whorl]
    exact ⟨rfl, rfl, rfl, rfl⟩
  rw [h1, h2, h3, h4] at hw
  exact ⟨hw.1, hw.2.1, hw.2.2.1, hstate, hw.2.2.2, htell⟩

theorem Chip.stepForward_reads (c : Chip) : c.stepForward.whorl.offset = c.whorl.offset + c.whorl.step.remain ∧ c.stepForward.now = c.now ∧
    c.stepForward.whorl.step = {} ∧ c.Tells c.stepForward EV.WHORL_STEP_APPLIED := by
  obtain ⟨h1, h2, h3, h4⟩ := c.forwardFrom.applyForward_reads
  have hfrom := c.keepsTime_forwardFrom
  have hafter := c.stepForward_after
  refine ⟨?_, hafter.now.trans (h1.trans hfrom.now), hafter.step.trans h3, fun hup => ?_⟩
  · rw [hafter.offset, h2, hfrom.offset, hfrom.step]
  · exact hafter.told _ _ (by decide) (h4 (hfrom.up.trans hup))

/-! ### The entry of SAFE while a change waits -/

/-- What the entry of SAFE changes after the mode. -/
def safeTailSpots : List Spot :=
  [.evt .hostq, .evt .reel, .one CARDER.BULK_STATUS_STATE, .one DISTAFF.BULK_STATUS_STATE,
    .one DISTAFF.ITEMS_OUT_COUNT, .one DRAM.SCRUB_STATUS_DONE_MIB, .one DRAM.SCRUB_STATUS_STATE,
    .one GLOBAL.SAFE_DROPPED_CMDS_COUNT, .one GLOBAL.WDOG_REMAIN_COUNT, .one HANK.TX_MSGS_COUNT, .one HOSTQ.CR_BP_HI_BP, .one HOSTQ.CR_BP_LO_BP,
    .many HOSTQ.CR_STATUS_BACKPRESSURE, .many HOSTQ.CR_STATUS_ENABLED, .many HOSTQ.LEDGER_ENTRY0_FROZEN, .many HOSTQ.LEDGER_ENTRY0_STATE,
    .many HOSTQ.LEDGER_ENTRY0_STATUS, .many HOSTQ.LEDGER_ENTRY1_PROGRESS, .one HOSTQ.PARTIALS_COUNT, .one HOSTQ.RX_HOLD_DROP_COUNT,
    .many HOSTQ.SQ_ATTN_ATTN, .one HOSTQ.SQ_GRP_EVT_ATTN, .many HOSTQ.SQ_STATUS_CAUSE, .many HOSTQ.SQ_STATUS_STATE,
    .one REELGATE.XOFF_COUNT_COUNT, .one SEGMENT.CMDQ_STATUS_DEPTH, .one SEGMENT.CMDQ_STATUS_FULL]

/-- The entry of SAFE after the change of mode. -/
def Chip.safeTail (c : Chip) : Chip := c.wdogReload.safeFreeze.cmdqDiscard.commandsEnd.gatesStop.bulksEnd.offersEnd.segWake

theorem Chip.safeTail_frame (c : Chip) :
    c.Frame [.freeCtr, .modes, .power, .buffer, .txOps, .reel, .hostq, .hank, .distaff, .fates, .segs] (Touched safeTailSpots) c.safeTail := by
  refine Chip.away_eq_iff.mp ?_
  unfold Chip.safeTail
  simp (disch := decide) only [Chip.away_wdogReload, Chip.away_safeFreeze, Chip.away_cmdqDiscard, Chip.away_commandsEnd, Chip.away_gatesStop,
    Chip.away_bulksEnd, Chip.away_offersEnd, Chip.away_segWake]

theorem Chip.safeTail_keeps (c : Chip) (f : Modes → Modes) :
    (((c.raise EV.GLOBAL_SAFE_ENTRY).updModes f).safeTail).whorl = c.whorl ∧
      (((c.raise EV.GLOBAL_SAFE_ENTRY).updModes f).safeTail).stepState = c.stepState := by
  have h := ((c.raise EV.GLOBAL_SAFE_ENTRY).updModes f).safeTail_frame
  refine ⟨(h.whorl (by decide)).trans (c.raise_whorl _ _), ?_⟩
  rw [Chip.stepState, h.fld_apart _ 0 0 (by decide) (by decide) (by decide), show ((c.raise EV.GLOBAL_SAFE_ENTRY).updModes f).fld WHORL.STEP_STATUS_STATE = (c.raise EV.GLOBAL_SAFE_ENTRY).fld WHORL.STEP_STATUS_STATE from rfl,
    Chip.fld_raise_ne _ _ _ _ _ _ (by decide), Chip.stepState]

/-- A change that waits when RUN or HOLDOVER is left for SAFE is to be applied whole. -/
theorem Chip.setMode_stepWhole (c : Chip) (hw : c.stepState = stWAIT) (hrun : c.running = true) :
    (c.setMode mSAFE).whorl = { c.whorl with step := { c.whorl.step with whole := true, due := c.aon + 1 } } ∧
      (c.setMode mSAFE).stepState = stWAIT := by
  have hmode : c.mode = mRUN ∨ c.mode = mHOLDOVER := by
    rw [Chip.running, Bool.or_eq_true] at hrun
    exact hrun.imp beq_iff_eq.mp beq_iff_eq.mp
  have hne : c.mode ≠ mSAFE := by
    rcases hmode with h | h <;> rw [h] <;> decide
  have hacq : c.mode ≠ mACQUIRE := by
    rcases hmode with h | h <;> rw [h] <;> decide
  have hold : c.mode < 8 := by
    rcases hmode with h | h <;> rw [h] <;> decide
  have hset : c.Frame [] (Touched [.evt .global, .one GLOBAL.MODE_MODE, .one GLOBAL.MODE_PREV_MODE]) (c.modeSet mSAFE) := by
    refine Chip.away_eq_iff.mp ?_
    unfold Chip.modeSet
    simp (disch := decide) only [Chip.away_raise, Chip.away_setFld]
  have hst : (c.modeSet mSAFE).stepState = stWAIT := (hset.fld_apart _ 0 0 (by decide) (by decide) (by decide)).trans hw
  have hnow : (c.modeSet mSAFE).mode = mSAFE := by
    rw [Chip.mode, Chip.modeSet, Chip.fld_raise_ne _ _ _ _ _ _ (by decide), Chip.fld_setFld_self]
    rfl
  have hoff : ¬ (c.modeSet mSAFE).running = true := by
    rw [Chip.running, hnow]
    decide
  have hstep : ((c.modeSet mSAFE).stepWhole).whorl = { c.whorl with step := { c.whorl.step with whole := true, due := c.aon + 1 } } := by
    rw [Chip.stepWhole, if_pos ⟨hst, hoff⟩]
    dsimp only
    rw [hset.whorl (by decide), hset.part .aon (by decide)]
  have hstate : ((c.modeSet mSAFE).stepWhole).stepState = stWAIT :=
    (((c.modeSet mSAFE).stepWhole_frame (fun _ => False)).fld _ 0 0 (by simp)).trans hst
  have hc7 := ((c.modeSet mSAFE).stepWhole).c7EvalAll_frame
  rw [Chip.setMode_eq hne, Chip.acquireLeft, if_neg hacq]
  exact ⟨(hc7.whorl (by decide)).trans hstep, (hc7.fld_apart _ 0 0 (by decide) (by decide) (by decide)).trans hstate⟩

theorem Chip.safeEnter_step (c : Chip) (hw : c.stepState = stWAIT) (hrun : c.running = true) :
    c.safeEnter.whorl = { c.whorl with step := { c.whorl.step with whole := true, due := c.aon + 1 } } ∧ c.safeEnter.stepState = stWAIT := by
  obtain ⟨h1, h2⟩ := c.setMode_stepWhole hw hrun
  unfold Chip.safeEnter
  extract_lets still d1 d2
  obtain ⟨h3, h4⟩ := (c.setMode mSAFE).safeTail_keeps
    (fun m => { m with safeAt := d1.now, safeScene := still, safePowered := false, sceneEnd := none, freshStandby := false, autoStartDue := false })
  exact ⟨h3.trans h1, h4.trans h2⟩

theorem safeEntry_step (s : State) (hw : s.chip.stepState = stWAIT) (hrun : s.chip.running = true) (hsafe : s.chip.safeCause ≠ 0) :
    Ends .safeEntry s fun d =>
      d.whorl = { s.chip.whorl with step := { s.chip.whorl.step with whole := true, due := s.chip.aon + 1 } } ∧ d.stepState = stWAIT := by
  have hdue : s.chip.safeDue = true := by
    rw [Chip.running, Bool.or_eq_true] at hrun
    rw [Chip.safeDue, Bool.and_eq_true, Bool.and_eq_true]
    rcases hrun.imp beq_iff_eq.mp beq_iff_eq.mp with h | h <;> rw [h] <;> exact ⟨⟨bne_iff_ne.mpr hsafe, by decide⟩, by decide⟩
  obtain ⟨h1, h2⟩ := s.chip.safeEnter_step hw hrun
  refine ends_of_due (due := Chip.safeDue) (g := Chip.safeEnter) rfl hdue ?_
  rw [Chip.ended_whorl, Chip.stepState, Chip.ended_fld _ _ _ _ _ (by decide)]
  exact ⟨h1, h2⟩

/-! ### The steps, slews and holds -/

/-- What a backward part leaves, also after the engines have followed the step. -/
theorem Chip.applyBackward_ended (c : Chip) (b : Nat) (d : Chip) (hd : d = (c.applyBackward b).skeinStepAll) :
    (c.ended d).whorl.offset = c.whorl.offset - b ∧ (c.ended d).whorl.mark = max c.whorl.mark c.now + b ∧ (c.ended d).now = c.now ∧
      (c.ended d).stepState = stHOLDING ∧ (c.ended d).whorl.step.remain = c.whorl.step.remain + b ∧ c.Tells (c.ended d) EV.WHORL_STEP_APPLIED := by
  obtain ⟨h1, h2, h3, h4, h5, h6⟩ := c.applyBackward_reads b
  have h : (c.applyBackward b).Frame [.segs] (Touched []) d := by
    rw [hd]
    exact Chip.away_eq_iff.mp (Chip.away_skeinStepAll (List.Subset.refl _))
  have hw := h.whorl (by decide)
  have hn : d.now = c.now := (h.now (by decide)).trans h3
  have hstate : (c.ended d).stepState = stHOLDING := by
    rw [Chip.stepState, Chip.ended_fld _ _ _ _ _ (by decide), h.fld _ _ _ (by simp [Touched])]
    exact h4
  have hnow : (c.ended d).now = c.now := by rw [Chip.now, Chip.ended_whorl, ← Chip.now, hn]
  rw [Chip.ended_whorl, hw, hnow]
  refine ⟨h1, h2, rfl, hstate, h5, Chip.Tells.ended (fun hup => ?_) (by decide)⟩
  rw [h.raised _ _ (by simp [Touched])]
  exact h6 hup

/-- The slew is done, or the hold is: the state of the change moves, and one event is raised. -/
theorem change_becomes {i : Instr} {s : State} {w : Whorl} {st : Nat} {v : Evt} {due : Chip → Bool} {g : Chip → Chip}
    (h : exec i s = run (fun c => c.whenDue (due c) g) s) (hdue : due s.chip = true)
    (hg : g s.chip = (({ s.chip with whorl := w } : Chip).setFld WHORL.STEP_STATUS_STATE st).raise v) (hst : st < 4)
    (hv : v.cls = .whorl ∧ v.bit < 32 ∧ v.key 0 ∉ levelKeys) :
    Becomes i s { s.chip with whorl := w } [WHORL.STEP_STATUS_STATE.key 0 0, v.key 0] fun d => d.stepState = st ∧ s.chip.Tells d v := by
  obtain ⟨hcls, hbit, hlevel⟩ := hv
  have hk : WHORL.STEP_STATUS_STATE.key 0 0 ≠ v.key 0 := by
    rw [Evt.key, hcls]
    decide
  have hset := (Chip.Frame.refl ({ s.chip with whorl := w } : Chip) (S := [.ecc]) (K := (· ∈ [WHORL.STEP_STATUS_STATE.key 0 0, v.key 0]))).setFld
    WHORL.STEP_STATUS_STATE st 0 0 (by simp)
  refine becomes_of_due h hdue ?_ ?_ <;> rw [hg]
  · exact hset.raise _ _ (by simp)
  · rw [Chip.stepState, Chip.ended_fld _ _ _ _ _ (by decide), Chip.fld_raise_ne _ _ _ _ _ _ hk, Chip.fld_setFld_self]
    refine ⟨Nat.mod_eq_of_lt hst, Chip.Tells.ended ?_ hlevel⟩
    have hto := (((Chip.Frame.refl s.chip (S := []) (K := (· ∈ [WHORL.STEP_STATUS_STATE.key 0 0]))).mono (T := [.whorl]) (by decide)
      fun _ h => h).withWhorl w (by decide)).setFld WHORL.STEP_STATUS_STATE st 0 0 (by simp)
    exact hto.tells_raise v 0 hbit (by rw [hcls]; decide)

/-- Settles O24. -/
theorem networkTimeChanges : Obligations.NetworkTimeChanges := by
  unfold Obligations.NetworkTimeChanges
  refine ⟨fun s p v => ?_, fun s => ?_⟩
  · extract_lets c t st takes
    exact fun ho hv => adjRequests s p v ho hv
  · extract_lets c back
    refine ⟨fun hd h => ?_, fun hd h => ?_, fun h => ?_, fun h => ?_, fun h => ?_, fun hs h => ?_, fun h => ?_, fun hd h => ?_, fun hd h => ?_,
      fun h => ?_, fun hw hr h => ?_⟩
    · have hg : c.stepApply = c.stepForward := if_pos h
      obtain ⟨h1, h2, h3, h4⟩ := c.stepForward_reads
      refine ends_of_due (due := Chip.wholeDue) (g := Chip.stepApply) rfl hd ?_
      rw [hg, Chip.ended_whorl, Chip.now, Chip.ended_whorl]
      exact ⟨h1, h2, h3, h4.ended (by decide)⟩
    · have hg : c.stepApply = (c.applyBackward c.whorl.step.remain.natAbs).skeinStepAll := if_neg (by omega)
      have hend := c.applyBackward_ended _ _ hg
      exact ends_of_due (due := Chip.wholeDue) (g := Chip.stepApply) rfl hd hend
    · exact idles_of_not_due (due := Chip.wholeDue) (g := Chip.stepApply) rfl h
    · generalize hb : min c.whorl.step.remain.natAbs (c.whorl.step.periodNs * nsQ) = b
      have hend := s.chip.applyBackward_ended b s.chip.stepAtBoundary.skeinStepAll (by rw [Chip.stepAtBoundary, hb])
      refine ends_of_due (due := Chip.boundaryDue) (g := fun d => d.stepAtBoundary.skeinStepAll) rfl h ?_
      exact hend
    · exact idles_of_not_due (due := Chip.boundaryDue) (g := fun d => d.stepAtBoundary.skeinStepAll) rfl h
    · refine change_becomes (due := Chip.slewOver) (g := Chip.slewDone) rfl ?_ rfl (by decide) (by decide)
      rw [Chip.slewOver, hs, h]
      rfl
    · refine idles_of_not_due (due := Chip.slewOver) (g := Chip.slewDone) rfl ?_
      rw [Chip.slewOver, Bool.and_eq_false_iff]
      exact h.imp beq_eq_false_iff_ne.mpr beq_eq_false_iff_ne.mpr
    · exact change_becomes (due := Chip.holdOver) (g := Chip.holdEnd) rfl hd (if_pos h) (by decide) (by decide)
    · exact change_becomes (due := Chip.holdOver) (g := Chip.holdEnd) rfl hd (if_neg h) (by decide) (by decide)
    · exact idles_of_not_due (due := Chip.holdOver) (g := Chip.holdEnd) rfl h
    · exact safeEntry_step s hw hr h
end

end Sys2Proof.Machine
end

section
/-!
PROOF. O20 fails. The statement speaks of every state, so also of one that owes the completion of a tag beyond the ledger's 4,096 entries.
Freezing that tag's entry writes a cell outside the HOSTQ page: here one of a SEGMENT page, which a reset of HOST is to leave as it is.
-/
namespace Sys2Proof.Machine

/-- A cell of segment 0's page. -/
def farCell : Nat := SEGMENT.CS_STATUS_TRIAL_LEFT.key 0 0

/-- The tag whose FROZEN bit would stand in that cell. -/
def farTag : Nat := farCell - HOSTQ.LEDGER_ENTRY0_FROZEN.key 0 0

/-- A part in STANDBY that owes a completion of that tag. -/
def owesFarTag : Chip := { ({} : Chip) with hostq := { due := [farTag] } }

theorem owesFarTag_mode : owesFarTag.mode ≠ mRESET := by decide

theorem owesFarTag_cell : Tab.get 0 owesFarTag.perstAssert.regs farCell = 1 ∧ Tab.get 0 owesFarTag.regs farCell = 0 := by decide +kernel

/-- As the statement has it, PERST_N leaves the registers of the segments alone. -/
theorem keepsAon_of_perstAndLight (h : Obligations.PerstAndLight) (s : State) (hp : s.chip.modes.perst = false) (hm : s.chip.mode ≠ mRESET) :
    s.chip.KeepsAon (s.chip.ended s.chip.perstAssert) := by
  unfold Obligations.PerstAndLight at h
  obtain ⟨h, _⟩ := h
  obtain ⟨hassert, _⟩ := h s
  obtain ⟨⟨_, hkeeps, _⟩, _⟩ := ok_of_ends_due (due := fun c => !c.modes.perst) (f := Chip.perstAssert) rfl (by rw [hp]; rfl) (hassert hp hm)
  exact hkeeps

/-- Refutes O20: PERST_N can change a register of a SEGMENT page. -/
theorem not_perstAndLight : ¬ Obligations.PerstAndLight := fun h => by
  have hkeeps := keepsAon_of_perstAndLight h { chip := owesFarTag } rfl owesFarTag_mode
  have hcell := hkeeps 0x100 .segment 0 farCell 0 (by decide) (.inr rfl) (by decide) (by decide)
  rw [Chip.ended_cell _ _ _ _ (by decide), owesFarTag_cell.1, owesFarTag_cell.2] at hcell
  exact absurd hcell (by decide)

end Sys2Proof.Machine
end

section
/-!
PROOF. O29 fails. The statement speaks of every state, so also of one whose offered frame belongs to a tag beyond the ledger's 4,096
entries. The fate of that tag's copy is written to a cell outside the HOSTQ page: here to the segment's own TX_DROP, before it counts.
-/
namespace Sys2Proof.Machine

/-- The tag whose STATUS in the ledger would stand in TX_DROP of segment 0. -/
def dropTag : Nat := SEGMENT.TX_DROP_COUNT.key 0 0 - HOSTQ.LEDGER_ENTRY0_STATUS.key 0 0

/-- A frame of that tag, for segment 0. -/
def dropFrame : Packet := { tag := some dropTag }

/-- Segment 0 in LISTEN, with CONT_TX_EN = 0; it is offered the last copy of that live operation. -/
def offersDrop : Chip :=
  ((({ ({} : Chip) with segs := [(0, { offer := some (dropFrame, 0) })], txOps := [(dropTag, { handed := true, open_ := 1 })] } : Chip).setFld
    SEGMENT.SYNC_STATUS_STATE sgLISTEN).setFld SEGMENT.CFG_CONT_TX_EN 0).setTagState dropTag lgSTARTED

theorem offersDrop_facts :
    ((offersDrop.eng 0).offer = some (dropFrame, 0) ∧ offersDrop.seg 0 ≠ sgDISABLED ∧ offersDrop.seg 0 ≠ sgPLAIN ∧
      (parseSeg dropFrame.bytes).skein = false ∧ offersDrop.on SEGMENT.CFG_CONT_TX_EN 0 = false) ∧
    ((offersDrop.reelFrameOffer 0).fld SEGMENT.TX_DROP_COUNT = 8 ∧ offersDrop.fld SEGMENT.TX_DROP_COUNT = 0) := by
  decide +kernel

/-- As the statement has it, TX_DROP counts one for a frame that the engine drops. -/
theorem counts_of_staticTurns (h : Obligations.StaticTurns) (s : State) (pk : Packet) (k : Nat) (hoffer : (s.chip.eng 0).offer = some (pk, k))
    (hd : s.chip.seg 0 ≠ sgDISABLED) (hp : s.chip.seg 0 ≠ sgPLAIN) (hs : (parseSeg pk.bytes).skein = false)
    (hcont : s.chip.on SEGMENT.CFG_CONT_TX_EN 0 = false) :
    s.chip.Counts (s.chip.ended (s.chip.reelFrameOffer 0)) SEGMENT.TX_DROP_COUNT 0 := by
  unfold Obligations.StaticTurns at h
  obtain ⟨_, h⟩ := h
  obtain ⟨_, _, _, _, _, _, _, _, h, _⟩ := h s 0 0
  obtain ⟨_, _, h⟩ := h pk k hoffer hd hp
  obtain ⟨_, hcounts, _⟩ := ok_of_ends (f := fun c => c.reelFrameOffer 0) rfl (h hs (.inl hcont))
  exact hcounts

/-- Refutes O29: the drop of an offered frame can leave TX_DROP at another count. -/
theorem not_staticTurns : ¬ Obligations.StaticTurns := fun h => by
  obtain ⟨⟨hoffer, hd, hp, hs, hcont⟩, hnow, hbefore⟩ := offersDrop_facts
  have hcount := counts_of_staticTurns h { chip := offersDrop } _ _ hoffer hd hp hs hcont
  rw [Chip.Counts, Chip.ended_fld _ _ _ _ _ (by decide), hnow, hbefore] at hcount
  exact absurd hcount (by decide)

end Sys2Proof.Machine
end

section
/-!
PROOF. O30 fails. The statement speaks of every state, so also of one whose offered frame belongs to a tag beyond the ledger's 4,096
entries. The fate of that tag's copy is written to a cell outside the HOSTQ page: here to the segment's MAC_TX_FRAMES, before it counts.
-/
namespace Sys2Proof.Machine

/-- The tag whose STATUS in the ledger would stand in MAC_TX_FRAMES of segment 0. -/
def contTag : Nat := SEGMENT.MAC_TX_FRAMES_COUNT.key 0 0 - HOSTQ.LEDGER_ENTRY0_STATUS.key 0 0

/-- A frame of that tag, for segment 0. -/
def contFrame : Packet := { tag := some contTag }

/-- Segment 0 is an active follower in its contention turn, has sent five frames, and is offered the last copy of that live operation. -/
def offersCont : Chip :=
  let c : Chip := { ({} : Chip) with
    segs := [(0, { offer := some (contFrame, 0), turnsOpen := true })], txOps := [(contTag, { handed := true, open_ := 1 })],
    whorl := { mono := 200000 * nsQ } }
  (((c.setFld SEGMENT.SYNC_STATUS_STATE sgFOLLOWER).setFld SEGMENT.SYNC_STATUS_ACTIVE 1).setFld SEGMENT.MAC_TX_FRAMES_COUNT 5).setTagState
    contTag lgSTARTED

theorem offersCont_facts :
    ((offersCont.eng 0).backoffEnd = none ∧ (offersCont.eng 0).txEnd ≤ offersCont.now ∧ (offersCont.eng 0).csma = none ∧
      (offersCont.eng 0).offer = some (contFrame, 0)) ∧
    (offersCont.contOpen 0 = true ∧ (parseSeg contFrame.bytes).skein = false ∧ contFrame.bytes.length ≤ 1518 ∧
      offersCont.contFits 0 offersCont.now contFrame.bytes.length = true ∧ offersCont.lineFree 0 none ≤ offersCont.now) ∧
    ((offersCont.contFrameTx 0 none).fld SEGMENT.MAC_TX_FRAMES_COUNT = 1 ∧
      offersCont.fld SEGMENT.MAC_TX_FRAMES_COUNT = 5) := by
  decide +kernel

/-- As the statement has it, MAC_TX_FRAMES counts one for a frame that is taken in the contention turn. -/
theorem counts_of_contentionAndReception (h : Obligations.ContentionAndReception) (s : State) (p : Packet) (k : Nat)
    (heng : (s.chip.eng 0).backoffEnd = none ∧ (s.chip.eng 0).txEnd ≤ s.chip.now ∧ (s.chip.eng 0).csma = none ∧
      (s.chip.eng 0).offer = some (p, k))
    (hopen : s.chip.contOpen 0 = true ∧ (parseSeg p.bytes).skein = false ∧ p.bytes.length ≤ 1518 ∧
      s.chip.contFits 0 s.chip.now p.bytes.length = true ∧ s.chip.lineFree 0 none ≤ s.chip.now) :
    s.chip.Counts (s.chip.ended (s.chip.contFrameTx 0 none)) SEGMENT.MAC_TX_FRAMES_COUNT 0 := by
  obtain ⟨hback, htx, hcsma, hoffer⟩ := heng
  obtain ⟨hcont, hskein, hlen, hfits, hline⟩ := hopen
  unfold Obligations.ContentionAndReception at h
  obtain ⟨h, _⟩ := h
  obtain ⟨_, h, _⟩ := h s 0 false none
  obtain ⟨_, _, hcounts⟩ := ok_of_ends (f := fun c => c.contFrameTx 0 none) rfl (h p k hcont hback htx hcsma hoffer hskein hlen hfits hline)
  exact hcounts

/-- Refutes O30: a frame taken in the contention turn can leave MAC_TX_FRAMES at another count. -/
theorem not_contentionAndReception : ¬ Obligations.ContentionAndReception := fun h => by
  obtain ⟨heng, hopen, hnow, hbefore⟩ := offersCont_facts
  have hcount := counts_of_contentionAndReception h { chip := offersCont } _ _ heng hopen
  rw [Chip.Counts, Chip.ended_fld _ _ _ _ _ (by decide), hnow, hbefore] at hcount
  exact absurd hcount (by decide)

end Sys2Proof.Machine
end

section
/-!
PROOF. O47 fails. The statement speaks of every state, so also of one with a bad word that is marked with a store number beyond every
store. The count of that store's errors is then written to a cell outside the ECC counters: here to the record that a DUMP is reading.
-/
namespace Sys2Proof.Machine

/-- The store number whose count of corrected errors would stand in the cell with key `k`. -/
def corrStore (k : Nat) : Nat := k - GLOBAL.ECC_CORR_COUNT.key 0 0

/-- The store number whose count of uncorrectable errors would stand in the cell with key `k`. -/
def uncorrStore (k : Nat) : Nat := k - GLOBAL.ECC_UNCORR_COUNT.key 0 0

/-- A DUMP is busy, HOST is up, and the word of tag 4095 holds a corrected error whose count stands in that tag's PROGRESS. -/
def dumpsBad : Chip :=
  let bad : BadWord := { store := corrStore (HOSTQ.LEDGER_ENTRY1_PROGRESS.key 0 4095), word := .cell .ledger 4095, two := false }
  let c : Chip := { ({} : Chip) with ecc := { ({} : Chip).ecc with bad := [bad] } }
  (c.setFld HOSTQ.LEDGER_STATUS_DUMP_BUSY 1).setFld (Domain.row .host) domON

theorem dumpsBad_facts :
    (dumpsBad.fld HOSTQ.LEDGER_STATUS_DUMP_BUSY ≠ 0 ∧ dumpsBad.hostUp = true) ∧
    (dumpsBad.ledgerDumpEnd.hostWrites ≠
      dumpsBad.hostWrites ++ [{ addr := (dumpsBad.hostq.dumpAddr + 8 * 4095) % 2 ^ 64, bytes := dumpsBad.ledgerRecord 4095 }]) := by
  decide +kernel

/-- As the statement has it, the last write of a DUMP is the record of tag 4095 as it was. -/
theorem writes_of_queueControl (h : Obligations.QueueControl) (s : State)
    (hdue : s.chip.fld HOSTQ.LEDGER_STATUS_DUMP_BUSY ≠ 0 ∧ s.chip.hostUp = true) :
    s.chip.ledgerDumpEnd.hostWrites = s.chip.hostWrites ++
      [{ addr := (s.chip.hostq.dumpAddr + 8 * 4095) % 2 ^ 64, bytes := s.chip.ledgerRecord 4095 }] := by
  obtain ⟨hbusy, hup⟩ := hdue
  unfold Obligations.QueueControl at h
  obtain ⟨_, h⟩ := h
  obtain ⟨_, h, _⟩ := h s .spi 0 0
  obtain ⟨_, _, hwrites⟩ := ok_of_ends_due (due := fun c => c.on HOSTQ.LEDGER_STATUS_DUMP_BUSY && c.hostUp) (f := Chip.ledgerDumpEnd) rfl
    (by rw [hup, Bool.and_true]; exact bne_iff_ne.mpr hbusy) (h hbusy hup)
  rw [← hwrites, Chip.ended_hostWrites]

/-- Refutes O47: the last record of a DUMP can be written with another PROGRESS than it held. -/
theorem not_queueControl : ¬ Obligations.QueueControl := fun h => by
  obtain ⟨hdue, hrecord⟩ := dumpsBad_facts
  exact hrecord (writes_of_queueControl h { chip := dumpsBad } hdue)

end Sys2Proof.Machine
end

section
/-!
PROOF. O48 fails. The statement speaks of every state, so also of one with a bad word that is marked with a store number beyond every
store. The count of that store's errors is then written to a cell outside the ECC counters: here to the tail of the CR whose silent
completion reads the word.
-/
namespace Sys2Proof.Machine

/-- The silent completion of tag 0 is due for CR 0, and its ledger word holds a corrected error whose count stands in CR 0's tail. -/
def completesBad : Chip :=
  let bad : BadWord := { store := corrStore (HOSTQ.CR_TAIL_INDEX.key 0 0), word := .cell .ledger 0, two := false }
  let c : Chip := { ({} : Chip) with
    ecc := { ({} : Chip).ecc with bad := [bad] }, txOps := [(0, { quiet := true })], hostq := { ({} : Chip).hostq with due := [0] } }
  ((c.setFld HOSTQ.CR_STATUS_ENABLED 1).setFld (Domain.row .host) domON).setFld GLOBAL.MODE_MODE mRUN

theorem completesBad_facts :
    (completesBad.dueTag = some 0 ∧ completesBad.crFree (completesBad.tagCr 0) = true ∧
      completesBad.owed (completesBad.tagCr 0) = 0 ∧ completesBad.silent 0 = true ∧ completesBad.tagCr 0 = 0) ∧
    (completesBad.complete.crTail 0 ≠ completesBad.crTail 0) := by
  decide +kernel

/-- As the statement has it, a silent completion leaves the tail of its CR. -/
theorem tail_of_hostEntries (h : Obligations.HostEntries) (s : State) (u : Nat)
    (hdue : s.chip.dueTag = some u ∧ s.chip.crFree (s.chip.tagCr u) = true ∧ s.chip.owed (s.chip.tagCr u) = 0 ∧ s.chip.silent u = true ∧
      s.chip.tagCr u = 0) :
    s.chip.complete.crTail 0 = s.chip.crTail 0 := by
  obtain ⟨hu, hfree, howed, hsilent, hr⟩ := hdue
  unfold Obligations.HostEntries at h
  obtain ⟨_, _, _, _, _, _, h⟩ := h s 0 [] [] 0 0
  obtain ⟨h, _⟩ := h u hu
  obtain ⟨_, _, htail⟩ := ok_of_ends (f := Chip.complete) rfl (h ⟨hfree, howed⟩ hsilent)
  rw [hr] at htail
  rw [← htail, Chip.crTail, Chip.crTail, Chip.ended_fld _ _ _ _ _ (by decide)]

/-- Refutes O48: a silent completion can move the tail of its CR. -/
theorem not_hostEntries : ¬ Obligations.HostEntries := fun h => by
  obtain ⟨hdue, htail⟩ := completesBad_facts
  exact htail (tail_of_hostEntries h { chip := completesBad } 0 hdue)

end Sys2Proof.Machine
end

section
/-!
PROOF. O49 fails. The statement speaks of every state, so also of one whose RX_MAP names a CR beyond the 64 there are. The tail of that
CR is then a cell outside the CR's registers: here RX_FRAMES, before the placed frame counts.
-/
namespace Sys2Proof.Machine

/-- The CR whose tail would stand in RX_FRAMES. -/
def farCr : Nat := HOSTQ.RX_FRAMES_COUNT.key 0 0 - HOSTQ.CR_TAIL_INDEX.key 0 0

/-- RX_MAP gives reason 0 that CR, which is on and takes frames; one frame waits to be placed, and five have been. -/
def placesFar : Chip :=
  let c : Chip := { ({} : Chip) with regs := Tab.put (HOSTQ.RX_MAP_CR0.reset 0 0) ({} : Chip).regs (HOSTQ.RX_MAP_CR0.key 0 0) farCr }
  let c := ((c.setFld HOSTQ.RX_MAP_EN0 1).setFld HOSTQ.CR_STATUS_ENABLED 1 0 farCr).setFld HOSTQ.CR_RX_CFG_RX_EN 1 0 farCr
  let c := ((c.setFld (Domain.row .host) domON).setFld (Domain.row .core) domON).setFld GLOBAL.MODE_MODE mRUN
  (c.setQueue portHost 0 [{}]).setFld HOSTQ.RX_FRAMES_COUNT 5

theorem placesFar_facts :
    ((placesFar.hostUp = true ∧ placesFar.dom .core = domON ∧ placesFar.mode ≠ mSAFE) ∧ placesFar.rxNext = some {} ∧
      ({} : Packet).tag = none ∧ ({} : Packet).hank = none) ∧
    (placesFar.rxMap ({} : Packet).reason = some farCr ∧ placesFar.crOn farCr = true ∧
      placesFar.fld HOSTQ.CR_RX_CFG_RX_EN 0 farCr ≠ 0) ∧
    (placesFar.bufsNeeded farCr {} ≤ placesFar.postLimit farCr ∧ placesFar.rxWaiter farCr = none ∧
      placesFar.bufsNeeded farCr {} ≤ (placesFar.crBufs farCr).length ∧ placesFar.crFree farCr = true ∧ placesFar.owed farCr = 0) ∧
    (placesFar.rxStep.fld HOSTQ.RX_FRAMES_COUNT = 7 ∧ placesFar.fld HOSTQ.RX_FRAMES_COUNT = 5) := by
  decide +kernel

/-- As the statement has it, RX_FRAMES counts one for a frame that is placed. -/
theorem counts_of_receivePlacement (h : Obligations.ReceivePlacement) (s : State) (p : Packet) (r : Nat)
    (hready : (s.chip.hostUp = true ∧ s.chip.dom .core = domON ∧ s.chip.mode ≠ mSAFE) ∧ s.chip.rxNext = some p ∧ p.tag = none ∧
      p.hank = none)
    (htakes : s.chip.rxMap p.reason = some r ∧ s.chip.crOn r = true ∧ s.chip.fld HOSTQ.CR_RX_CFG_RX_EN 0 r ≠ 0)
    (hfits : s.chip.bufsNeeded r p ≤ s.chip.postLimit r ∧ s.chip.rxWaiter r = none ∧
      s.chip.bufsNeeded r p ≤ (s.chip.crBufs r).length ∧ s.chip.crFree r = true ∧ s.chip.owed r = 0) :
    s.chip.Counts (s.chip.ended s.chip.rxStep) HOSTQ.RX_FRAMES_COUNT := by
  obtain ⟨hready, hnext, hplain⟩ := hready
  obtain ⟨hlimit, hfits⟩ := hfits
  unfold Obligations.ReceivePlacement at h
  obtain ⟨h, _⟩ := h s p 0
  obtain ⟨_, h⟩ := h hready hnext hplain
  obtain ⟨_, h, _⟩ := h r htakes
  obtain ⟨_, hcounts, _⟩ := ok_of_ends (f := Chip.rxStep) rfl (h hlimit hfits)
  exact hcounts

/-- Refutes O49: a frame that is placed can leave RX_FRAMES at another count. -/
theorem not_receivePlacement : ¬ Obligations.ReceivePlacement := fun h => by
  obtain ⟨hready, htakes, hfits, hnow, hbefore⟩ := placesFar_facts
  have hcount := counts_of_receivePlacement h { chip := placesFar } _ _ hready htakes hfits
  rw [Chip.Counts, Chip.ended_fld _ _ _ _ _ (by decide), hnow, hbefore] at hcount
  exact absurd hcount (by decide)

end Sys2Proof.Machine
end

section
/-!
PROOF. O51 fails. The statement speaks of every state, so also of one whose REG_REQ belongs to a tag beyond the ledger's 4,096 entries.
The STATUS of that tag is then a cell outside the HOSTQ page: here GIVE_UPS, after the message that is given up has counted.
-/
namespace Sys2Proof.Machine

/-- The tag whose STATUS in the ledger would stand in GIVE_UPS. -/
def giveUpTag : Nat := HANK.GIVE_UPS_COUNT.key 0 0 - HOSTQ.LEDGER_ENTRY0_STATUS.key 0 0

/-- A REG_REQ of that tag to worker 0, with sequence number 0, that has been sent. -/
def regReqMsg : HankMsg := { typ := hkREGREQ, worker := 0, seq := 0, octets := [], tag := some giveUpTag, acks := true, left := some 0 }

/-- No retransmission is left for that message, its operation is live, and five messages have been given up. -/
def givesUp : Chip :=
  let c : Chip := { ({} : Chip) with
    hank := { ({} : Chip).hank with msgs := [(0, some regReqMsg)], nextId := 1 }, whorl := { mono := secQ } }
  (((c.setFld (Domain.row .core) domON).setFld HANK.TIMERS_RETRIES 0).setFld HANK.GIVE_UPS_COUNT 5).setTagState giveUpTag lgSTARTED

theorem givesUp_facts :
    (givesUp.dom .core = domON ∧ givesUp.awaiting 0 0 = some (0, regReqMsg) ∧ 0 ≠ givesUp.hank.nextId ∧
      givesUp.ackDue regReqMsg = true ∧ givesUp.fld HANK.TIMERS_RETRIES ≤ regReqMsg.tries) ∧
    ((givesUp.ackJudge 0 0).fld HANK.GIVE_UPS_COUNT = csRRTIMEOUT ∧ givesUp.fld HANK.GIVE_UPS_COUNT = 5) := by
  decide +kernel

/-- As the statement has it, GIVE_UPS counts one for a message that is given up. -/
theorem counts_of_hankTimers (h : Obligations.HankTimers) (s : State) (id : Nat) (m : HankMsg)
    (hdue : s.chip.dom .core = domON ∧ s.chip.awaiting 0 0 = some (id, m) ∧ id ≠ s.chip.hank.nextId ∧ s.chip.ackDue m = true ∧
      s.chip.fld HANK.TIMERS_RETRIES ≤ m.tries) :
    s.chip.Counts (s.chip.ended (s.chip.ackJudge 0 0)) HANK.GIVE_UPS_COUNT := by
  obtain ⟨hcore, hawaits, hid, hack, htries⟩ := hdue
  unfold Obligations.HankTimers at h
  obtain ⟨h, _⟩ := h s .spi 0 0 0
  obtain ⟨_, h⟩ := h id m hcore hawaits hid hack
  obtain ⟨hcounts, _⟩ := ok_of_ends_due (due := fun c => c.dom .core == domON) (f := fun c => c.ackJudge 0 0) rfl
    (beq_iff_eq.mpr hcore) (h htries)
  exact hcounts

/-- Refutes O51: a message that is given up can leave GIVE_UPS at another count. -/
theorem not_hankTimers : ¬ Obligations.HankTimers := fun h => by
  obtain ⟨hdue, hnow, hbefore⟩ := givesUp_facts
  have hcount := counts_of_hankTimers h { chip := givesUp } _ _ hdue
  rw [Chip.Counts, Chip.ended_fld _ _ _ _ _ (by decide), hnow, hbefore] at hcount
  exact absurd hcount (by decide)

end Sys2Proof.Machine
end

section
/-!
PROOF. O52 fails. The statement speaks of every state, so also of one whose command belongs to a tag beyond the ledger's 4,096 entries.
The STATUS of that tag is then a cell outside the HOSTQ page: here REPLY_MISSING, which is to stay.
-/
namespace Sys2Proof.Machine

/-- The tag whose STATUS in the ledger would stand in REPLY_MISSING. -/
def replyTag : Nat := DISTAFF.REPLY_MISSING_COUNT.key 0 0 - HOSTQ.LEDGER_ENTRY0_STATUS.key 0 0

/-- A command of that tag that has been walked, with no reply to wait for. -/
def walkedCmd : FanCmd := { tag := replyTag, group := 0, typ := 0, noDesc := false, value := 0, leadMs := 0, phase := .walked }

/-- Its share, which has expired. -/
def walkedShare : Share := { cmdId := 0, apply := -(2 ^ 40), ramp := 0, expired := true, cmd := some walkedCmd }

/-- That command's operation is live, and 500 replies have been missing. -/
def missesNone : Chip :=
  let c : Chip := { ({} : Chip) with distaff := { ({} : Chip).distaff with shares := [(0, some walkedShare)] } }
  (c.setFld DISTAFF.REPLY_MISSING_COUNT 500).setTagState replyTag lgSTARTED

theorem missesNone_facts :
    (missesNone.share? 0 = some walkedShare ∧ walkedShare.cmd = some walkedCmd ∧ walkedCmd.phase ≠ .waiting ∧
      walkedShare.apply * 2 ^ 26 + (missesNone.fld DISTAFF.APPLY_LATE_TOL_NS * nsQ + missesNone.fld DISTAFF.REPLY_WAIT_MS * msQ : Nat) ≤
      missesNone.net ∧ walkedShare.expired = true ∧ walkedCmd.missing = 0) ∧
    ((missesNone.replyMissing 0).fld DISTAFF.REPLY_MISSING_COUNT ≠ missesNone.fld DISTAFF.REPLY_MISSING_COUNT) := by
  decide +kernel

/-- As the statement has it, REPLY_MISSING stays where no reply is missing. -/
theorem replyMissing_of_fanoutCommands (h : Obligations.FanoutCommands) (s : State) (h' : Share) (m : FanCmd)
    (hlate : s.chip.share? 0 = some h' ∧ h'.cmd = some m ∧ m.phase ≠ .waiting ∧
      h'.apply * 2 ^ 26 + (s.chip.fld DISTAFF.APPLY_LATE_TOL_NS * nsQ + s.chip.fld DISTAFF.REPLY_WAIT_MS * msQ : Nat) ≤ s.chip.net ∧
      h'.expired = true ∧ m.missing = 0) :
    (s.chip.replyMissing 0).fld DISTAFF.REPLY_MISSING_COUNT = s.chip.fld DISTAFF.REPLY_MISSING_COUNT := by
  obtain ⟨hshare, hcmd, hphase, hby, hexpired, hnone⟩ := hlate
  unfold Obligations.FanoutCommands at h
  obtain ⟨_, _, _, _, _, _, _, _, _, h, _⟩ := h s 0 0 h' m hshare hcmd
  obtain ⟨_, hcount, _⟩ := ok_of_ends (f := fun c => c.replyMissing 0) rfl (h hphase hby hexpired)
  rw [if_pos hnone, Chip.ended_fld _ _ _ _ _ (by decide)] at hcount
  exact hcount

/-- Refutes O52: REPLY_MISSING can change where no reply is missing. -/
theorem not_fanoutCommands : ¬ Obligations.FanoutCommands := fun h => by
  obtain ⟨hlate, hcount⟩ := missesNone_facts
  exact hcount (replyMissing_of_fanoutCommands h { chip := missesNone } _ _ hlate)

end Sys2Proof.Machine
end

section
/-!
PROOF. O54 fails. The statement speaks of every state, so also of one with a bad word that is marked with a store number beyond every
store. The count of that store's errors is then written to a cell outside the ECC counters: here to the DRAM page's ECC_CORR, which
counts the corrected error of the same read besides.
-/
namespace Sys2Proof.Machine

theorem ok_of_ends_access {i : Instr} {s : State} {p : Port} {r : FieldRow} {n : Nat} {f : Chip → Chip} {ok : Chip → Prop}
    (h : exec i s = run (fun c => c.accessField p r n f) s) (hopen : s.chip.Open p r.cls n) (he : Ends i s ok) :
    ok (s.chip.ended (f s.chip)) := by
  have hok := ok_of_ends h he
  rw [s.chip.accessField_open hopen] at hok
  exact hok

/-- Directory entry 0 holds a corrected error whose count stands in the DRAM page's ECC_CORR. -/
def dirBad : Chip :=
  let bad : BadWord := { store := corrStore (DRAM.ECC_CORR_COUNT.key 0 0), word := .cell .dir 0, two := false, addr := some 0 }
  let c : Chip := { ({} : Chip) with ecc := { ({} : Chip).ecc with bad := [bad] } }
  let c := ((c.setFld GLOBAL.MODE_MODE mRUN).setFld (Domain.row .core) domON).setFld (Domain.row .mem) domON
  (c.setFld GLOBAL.ROLE_DRAM_READY 1).setFld DRAM.STATUS_USABLE_MIB 1

theorem dirBad_open : dirBad.Open .spi .distaff 0 :=
  ⟨rfl, rfl, rfl, rfl, rfl⟩

theorem dirBad_facts :
    (dirBad.fld DISTAFF.DIR_STATUS_BUSY = 0 ∧ dirBad.fld GLOBAL.ROLE_DRAM_READY ≠ 0 ∧
      (if dirBad.fld DISTAFF.DIR_SEL_KIND ≠ 0 then dirBad.fld DISTAFF.GROUP_BASE_PAGE * 4096 + 16 * (dirBad.fld DISTAFF.DIR_SEL_INDEX % 65536)
      else dirBad.fld DISTAFF.DIR_BASE_PAGE * 4096 + 16 * dirBad.fld DISTAFF.DIR_SEL_INDEX) + 16 ≤
      dirBad.fld DRAM.STATUS_USABLE_MIB * 2 ^ 20) ∧
    ((dirBad.dirCmd .spi 1 (some false)).fld DRAM.ECC_CORR_COUNT = 2 ∧ dirBad.fld DRAM.ECC_CORR_COUNT = 0) := by
  decide +kernel

/-- As the statement has it, ECC_CORR of the DRAM page counts one for a corrected error that a READ meets. -/
theorem counts_of_directoryAndScrub (h : Obligations.DirectoryAndScrub) (s : State) (hopen : s.chip.Open .spi .distaff 0)
    (hreached : s.chip.fld DISTAFF.DIR_STATUS_BUSY = 0 ∧ s.chip.fld GLOBAL.ROLE_DRAM_READY ≠ 0 ∧
      (if s.chip.fld DISTAFF.DIR_SEL_KIND ≠ 0 then
          s.chip.fld DISTAFF.GROUP_BASE_PAGE * 4096 + 16 * (s.chip.fld DISTAFF.DIR_SEL_INDEX % 65536)
        else s.chip.fld DISTAFF.DIR_BASE_PAGE * 4096 + 16 * s.chip.fld DISTAFF.DIR_SEL_INDEX) + 16 ≤
        s.chip.fld DRAM.STATUS_USABLE_MIB * 2 ^ 20) :
    s.chip.Counts (s.chip.ended (s.chip.dirCmd .spi 1 (some false))) DRAM.ECC_CORR_COUNT := by
  obtain ⟨hidle, hreached⟩ := hreached
  unfold Obligations.DirectoryAndScrub at h
  obtain ⟨h, _⟩ := h
  obtain ⟨h, _⟩ := h s .spi 1 []
  obtain ⟨_, _, _, h, _⟩ := h hopen
  obtain ⟨_, _, _, _, h⟩ := ok_of_ends_access (f := fun c => c.dirCmd .spi 1 (some false)) rfl hopen
    (h (by decide) hidle hreached (some false) (by decide))
  obtain ⟨hcounts, _⟩ := h rfl
  exact hcounts

/-- Refutes O54: a READ that meets a corrected error can count it twice in ECC_CORR of the DRAM page. -/
theorem not_directoryAndScrub : ¬ Obligations.DirectoryAndScrub := fun h => by
  obtain ⟨hreached, hnow, hbefore⟩ := dirBad_facts
  have hcount := counts_of_directoryAndScrub h { chip := dirBad } dirBad_open hreached
  rw [Chip.Counts, Chip.ended_fld _ _ _ _ _ (by decide), hnow, hbefore] at hcount
  exact absurd hcount (by decide)

end Sys2Proof.Machine
end

section
/-!
PROOF. O38 fails. The statement speaks of every state, so also of one with a bad word that is marked with a store number beyond every
store. The count of that store's errors is then written to a cell outside the ECC counters: here to the Carder's ECC_DROP, which counts
the packet that is dropped for the word besides.
-/
namespace Sys2Proof.Machine

/-- A word of the working store of packet 0's lane that holds an uncorrectable error. -/
def passBad : BadWord := { store := 2, word := .work 0, two := true, addr := some 0 }

/-- Another word of it, with a corrected error whose count stands in the Carder's ECC_DROP. -/
def passCorr : BadWord := { store := corrStore (CARDER.ECC_DROP_COUNT.key 0 0), word := .work 0, two := false, addr := some 0 }

/-- The pass of packet 0. -/
def badPass : Pass := { pkt := {}, lane := 0, stop := 0, clk := 0 }

/-- That pass is due. -/
def passesBad : Chip :=
  let c : Chip := { ({} : Chip) with
    ecc := { ({} : Chip).ecc with bad := [passBad, passCorr] }, carder := { ({} : Chip).carder with passes := [badPass] } }
  c.setFld (Domain.row .core) domON

theorem passesBad_reads : (passesBad.ecc.bad.filter fun b => passesBad.passReads { badPass.pkt with keyFlags :=
    (if (passesBad.parse badPass.pkt).depth then 1 else 0) + (if (passesBad.parse badPass.pkt).lenMis then 2 else 0) +
      (if (passesBad.parse badPass.pkt).frag then 4 else 0) } (passesBad.parse badPass.pkt) b.word && b.two) = [passBad] := rfl

theorem passesBad_facts : passesBad.dom .core = domON ∧ passesBad.passEnd.fld CARDER.ECC_DROP_COUNT = 2 ∧
    passesBad.fld CARDER.ECC_DROP_COUNT = 0 := by
  decide +kernel

/-- As the statement has it, ECC_DROP counts one for a packet that an uncorrectable word of its pass drops. -/
theorem counts_of_passesEndWithAVerdict (h : Obligations.PassesEndWithAVerdict) (s : State) (a : Pass) (b : BadWord)
    (hdue : s.chip.dom .core = domON ∧ firstPass s.chip.carder.passes = some a ∧ a.stop ≤ s.chip.aon)
    (hreads : (s.chip.ecc.bad.filter fun b => s.chip.passReads { a.pkt with keyFlags :=
      (if (s.chip.parse a.pkt).depth then 1 else 0) + (if (s.chip.parse a.pkt).lenMis then 2 else 0) +
        (if (s.chip.parse a.pkt).frag then 4 else 0) } (s.chip.parse a.pkt) b.word && b.two) = [b])
    (hword : b.word ≠ .frame a.pkt.id) : s.chip.Counts (s.chip.ended s.chip.passEnd) CARDER.ECC_DROP_COUNT := by
  unfold Obligations.PassesEndWithAVerdict at h
  obtain ⟨h, _⟩ := h
  obtain ⟨_, _, h, _⟩ := h s a 0
  obtain ⟨_, hcounts, _⟩ := ok_of_ends_due (due := fun c => c.dom .core == domON) (f := Chip.passEnd) rfl (beq_iff_eq.mpr hdue.1)
    (h b [] hdue hreads)
  exact hcounts hword

/-- Refutes O38: a packet that an uncorrectable word drops can leave ECC_DROP at another count. -/
theorem not_passesEndWithAVerdict : ¬ Obligations.PassesEndWithAVerdict := fun h => by
  obtain ⟨hcore, hnow, hbefore⟩ := passesBad_facts
  have hcount := counts_of_passesEndWithAVerdict h { chip := passesBad } badPass passBad ⟨hcore, rfl, Nat.zero_le _⟩ passesBad_reads
    (by decide)
  rw [Chip.Counts, Chip.ended_fld _ _ _ _ _ (by decide), hnow, hbefore] at hcount
  exact absurd hcount (by decide)

end Sys2Proof.Machine
end

section
/-!
PROOF. O45 fails. The statement speaks of every state, so also of one with a bad word that is marked with a store number beyond every
store. The count of that store's errors is then written to a cell outside the ECC counters: here to the Ply's ECC_DROP, which counts the
packet that is dropped for the word besides.
-/
namespace Sys2Proof.Machine

/-- A word of context 1 that holds an uncorrectable error. -/
def ctxBad : BadWord := { store := 0, word := .cell .ctx 16, two := true, addr := some 0 }

/-- Another one of it, with a corrected error whose count stands in the Ply's ECC_DROP. -/
def ctxCorr : BadWord := { store := corrStore (PLY.ECC_DROP_COUNT.key 0 0), word := .cell .ctx 17, two := false, addr := some 0 }

/-- A packet of context 1 is on its way into its queue. -/
def enqueuesBad : Chip :=
  let c : Chip := { ({} : Chip) with
    ecc := { ({} : Chip).ecc with bad := [ctxBad, ctxCorr] }, reel := { ({} : Chip).reel with incoming := [{ ctx := 1 }] } }
  c.setFld (Domain.row .core) domON

theorem enqueuesBad_facts :
    (enqueuesBad.dom .core = domON ∧ enqueuesBad.reel.incoming = [{ ctx := 1 }]) ∧
    (enqueuesBad.reelEnqueue.fld PLY.ECC_DROP_COUNT = 2 ∧ enqueuesBad.fld PLY.ECC_DROP_COUNT = 0) := by
  decide +kernel

/-- As the statement has it, ECC_DROP counts one for a packet that an uncorrectable word of its context drops. -/
theorem counts_of_packetsJoinQueues (h : Obligations.PacketsJoinQueues) (s : State) (p : Packet) (b : BadWord) (hb : b ∈ s.chip.ecc.bad)
    (hdue : s.chip.dom .core = domON ∧ s.chip.reel.incoming = [p]) (hplain : p.tag = none ∧ p.hank = none ∧ p.ctx ≠ 0)
    (hbad : b.two = true ∧ b.word = .cell .ctx (16 * p.ctx + 0)) :
    s.chip.Counts (s.chip.ended s.chip.reelEnqueue) PLY.ECC_DROP_COUNT := by
  obtain ⟨hcore, hcoming⟩ := hdue
  obtain ⟨htag, hhank, hctx⟩ := hplain
  obtain ⟨htwo, hword⟩ := hbad
  unfold Obligations.PacketsJoinQueues at h
  obtain ⟨h, _⟩ := h s p [] 0 []
  obtain ⟨_, hcounts, _⟩ := ok_of_ends_due (due := fun c => c.dom .core == domON) (f := Chip.reelEnqueue) rfl (beq_iff_eq.mpr hcore)
    (h b hb 0 hcore hcoming htag hhank hctx htwo (by decide) hword)
  exact hcounts

/-- Refutes O45: a packet that an uncorrectable word of its context drops can leave ECC_DROP at another count. -/
theorem not_packetsJoinQueues : ¬ Obligations.PacketsJoinQueues := fun h => by
  obtain ⟨hdue, hnow, hbefore⟩ := enqueuesBad_facts
  have hcount := counts_of_packetsJoinQueues h { chip := enqueuesBad } _ ctxBad (.head _) hdue ⟨rfl, rfl, by decide⟩ ⟨rfl, rfl⟩
  rw [Chip.Counts, Chip.ended_fld _ _ _ _ _ (by decide), hnow, hbefore] at hcount
  exact absurd hcount (by decide)

end Sys2Proof.Machine
end

section
/-!
PROOF. O42 fails. The statement speaks of every state, so also of one with a bad word that is marked with a store number beyond every
store. The count of that store's errors is then written to a cell outside the ECC counters: here to TICK_COUNT, before the READ that
meets the word brings the context up to date.
-/
namespace Sys2Proof.Machine

/-- Context 0 holds a corrected error whose count stands in TICK_COUNT. -/
def readsBadCtx : Chip :=
  let bad : BadWord := { store := corrStore (REEL.TICK_COUNT_COUNT.key 0 0), word := .cell .ctx 0, two := false, addr := some 0 }
  let c : Chip := { ({} : Chip) with ecc := { ({} : Chip).ecc with bad := [bad] } }
  (c.setFld GLOBAL.MODE_MODE mRUN).setFld (Domain.row .core) domON

theorem readsBadCtx_open : readsBadCtx.Open .spi .reel 0 :=
  ⟨rfl, rfl, rfl, rfl, rfl⟩

theorem readsBadCtx_facts :
    (readsBadCtx.fld REEL.CTX_STATUS_BUSY = 0 ∧ ∀ w, w < 16 →
      readsBadCtx.fld REEL.CTX_DATA_DATA 0 w < 2 ^ 32 ∧ readsBadCtx.ctxW (readsBadCtx.fld REEL.CTX_SEL_INDEX) w < 2 ^ 32) ∧
    (readsBadCtx.fld REEL.CTX_SEL_INDEX = 0 ∧ (readsBadCtx.ctxCmd .spi 1).ctxF 0 7 23 0 = 1 ∧
      readsBadCtx.fld REEL.TICK_COUNT_COUNT = 0) := by
  decide +kernel

/-- As the statement has it, a READ brings the context up to date at the tick of TICK_COUNT. -/
theorem tick_of_contextCommands (h : Obligations.ContextCommands) (s : State) (hopen : s.chip.Open .spi .reel 0)
    (hidle : s.chip.fld REEL.CTX_STATUS_BUSY = 0 ∧ ∀ w, w < 16 →
      s.chip.fld REEL.CTX_DATA_DATA 0 w < 2 ^ 32 ∧ s.chip.ctxW (s.chip.fld REEL.CTX_SEL_INDEX) w < 2 ^ 32) :
    (s.chip.ended (s.chip.ctxCmd .spi 1)).ctxF (s.chip.fld REEL.CTX_SEL_INDEX) 7 23 0 = s.chip.fld REEL.TICK_COUNT_COUNT % 2 ^ 24 := by
  unfold Obligations.ContextCommands at h
  obtain ⟨_, _, _, h⟩ := h s .spi 1 hopen hidle.2
  obtain ⟨_, _, htick, _⟩ := ok_of_ends_access (f := fun c => c.ctxCmd .spi 1) rfl hopen (h hidle.1 (by decide))
  exact htick

theorem Chip.ended_ctxF (b d : Chip) (i w hi lo : Nat) : (b.ended d).ctxF i w hi lo = d.ctxF i w hi lo := by
  rw [Chip.ctxF, Chip.ctxF, Chip.ctxW, Chip.ctxW, Chip.ended_reel]

/-- Refutes O42: a READ can bring a context up to date at another tick than TICK_COUNT held. -/
theorem not_contextCommands : ¬ Obligations.ContextCommands := fun h => by
  obtain ⟨hidle, hsel, hnow, hbefore⟩ := readsBadCtx_facts
  have htick := tick_of_contextCommands h { chip := readsBadCtx } readsBadCtx_open hidle
  rw [Chip.ended_ctxF, hsel, hnow, hbefore] at htick
  exact absurd htick (by decide)

end Sys2Proof.Machine
end

section
/-!
PROOF. O44 fails. The statement speaks of every state, so also of one with a bad word that is marked with a store number beyond every
store. The count of that store's errors is then written to a cell outside the ECC counters: here to GATE_STATUS.HOLD, which an entry
start without a hold operation is to leave.
-/
namespace Sys2Proof.Machine

/-- The oper list of uplink 0 has one entry, whose start is due, and whose word holds a corrected error that counts in HOLD. -/
def startsBad : Chip :=
  let bad : BadWord := { store := corrStore (REELGATE.GATE_STATUS_HOLD.key 0 0), word := .cell .gateList (gclKey 0 1 0 0), two := false, addr := some 0 }
  let c : Chip := { ({} : Chip) with
    ecc := { ({} : Chip).ecc with bad := [bad] },
    reel := { ({} : Chip).reel with gates := [(0, { run := true, next := -1000000 })], gcl := [(gclKey 0 1 0 1, 500)] } }
  (c.setFld REELGATE.OPER_LEN_LEN 1).setFld REELGATE.OPER_CYCLE_NS_NS 1000

/-- Its entry 0, with no gate open and no hold operation. -/
def firstEntry : GEntry := { off := 0, idx := 0, gates := 0, op := 0 }

theorem startsBad_facts :
    (startsBad.gateDue 0 = true ∧
      ((startsBad.operList 0).place (startsBad.gate 0).next).1 = some firstEntry) ∧
    ((startsBad.gateEvent 0).fld REELGATE.GATE_STATUS_HOLD ≠ startsBad.fld REELGATE.GATE_STATUS_HOLD) := by
  decide +kernel

/-- As the statement has it, an entry start without a hold operation leaves HOLD. -/
theorem hold_of_gateLists (h : Obligations.GateLists) (s : State) (e : GEntry)
    (hdue : s.chip.gateDue 0 = true ∧ ((s.chip.operList 0).place (s.chip.gate 0).next).1 = some e) (hop : e.op = 0) :
    (s.chip.gateEvent 0).fld REELGATE.GATE_STATUS_HOLD = s.chip.fld REELGATE.GATE_STATUS_HOLD := by
  obtain ⟨hdue, hentry⟩ := hdue
  unfold Obligations.GateLists at h
  obtain ⟨_, h⟩ := h
  obtain ⟨_, _, _, _, _, _, h⟩ := h s 0
  obtain ⟨_, _, _, _, _, hhold⟩ := ok_of_ends_due (due := fun c => c.gateDue 0) (f := fun c => c.gateEvent 0) rfl hdue
    (h e _ hdue (Prod.ext hentry rfl))
  have hkeeps := hhold hop
  rw [Chip.ended_fld _ _ _ _ _ (by decide)] at hkeeps
  exact hkeeps

/-- Refutes O44: an entry start without a hold operation can change HOLD. -/
theorem not_gateLists : ¬ Obligations.GateLists := fun h => by
  obtain ⟨hdue, hhold⟩ := startsBad_facts
  exact hhold (hold_of_gateLists h { chip := startsBad } _ hdue rfl)

end Sys2Proof.Machine
end

section
/-!
PROOF. O50 fails. The statement speaks of every state, so also of one whose REG_REQ belongs to a tag beyond the ledger's 4,096 entries.
The STATUS of that tag is then a cell outside the HOSTQ page: here RX_MSGS, after the answer has counted.
-/
namespace Sys2Proof.Machine

/-- The tag whose STATUS in the ledger would stand in RX_MSGS. -/
def answeredTag : Nat := HANK.RX_MSGS_COUNT.key 0 0 - HOSTQ.LEDGER_ENTRY0_STATUS.key 0 0

/-- A REG_REQ of that tag to worker 1, with sequence number 0. -/
def askedMsg : HankMsg := { typ := hkREGREQ, worker := 1, seq := 0, octets := [], tag := some answeredTag, acks := true }

/-- Worker 1's REG_RESP to it, which reports success and no words. -/
def answer : Packet :=
  { bytes := List.replicate 12 0 ++ [0x88, 0xB6, 0x18, 0, BitVec.ofNat 8 (roleWORKER * 64 + roleMANAGER * 16), 1] ++
    List.replicate 12 0 ++ [0, 4] ++ List.replicate 6 0 }

/-- What the checks see of it. -/
def answerRx : HankRx :=
  { typ := 8, last := false, senderRole := roleWORKER, targetRole := roleMANAGER, sender := 1, target := 0, senderEpoch := 0,
    targetEpoch := 0, seq := 0, cmdId := 0, body := List.replicate 4 0, src := 0, ingress := 0 }

/-- The manager awaits that answer, its operation is live, and five messages have been received. -/
def awaitsAnswer : Chip :=
  let c : Chip := { ({} : Chip) with
    hank := { ({} : Chip).hank with msgs := [(0, some askedMsg)], nextId := 1 }, hankIn := [answer] }
  let c := ((c.setFld (Domain.row .core) domON).setFld GLOBAL.ROLE_ROLE roleMANAGER).setFld GLOBAL.ROLE_SETTLED 1
  ((c.setFld HANK.WT_CFG_VALID 1 0 1).setFld HANK.RX_MSGS_COUNT 5).setTagState answeredTag lgSTARTED

/-- The chip after the answer. -/
def afterAnswer (c : Chip) : Chip :=
  c.hankTake hkREGRESP (fun d m => if d.isManager then d.regRespRx m else d.hankAccept m) Chip.noAnswer

theorem awaitsAnswer_facts :
    (awaitsAnswer.dom .core = domON ∧ awaitsAnswer.hankFront 8 = some answer ∧
      parseHank answer = some answerRx ∧ awaitsAnswer.role = roleMANAGER) ∧
    (awaitsAnswer.fld GLOBAL.ROLE_SETTLED ≠ 0 ∧ answerRx.targetRole = awaitsAnswer.role ∧
      answerRx.targetEpoch = awaitsAnswer.roleEpoch ∧ answerRx.target = 0 ∧ awaitsAnswer.senderOk answerRx = true) ∧
    (awaitsAnswer.awaiting answerRx.sender answerRx.seq = some (0, askedMsg) ∧ 0 ≠ awaitsAnswer.hank.nextId ∧
      awaitsAnswer.opLive answeredTag = true ∧ (awaitsAnswer.op answeredTag).aborted = false ∧
      (awaitsAnswer.op answeredTag).perst = false) ∧
    ((afterAnswer awaitsAnswer).fld HANK.RX_MSGS_COUNT ≠ (awaitsAnswer.fld HANK.RX_MSGS_COUNT + 1) % 2 ^ 32) := by
  decide +kernel

/-- As the statement has it, RX_MSGS counts one for a REG_RESP that is accepted. -/
theorem counts_of_hankReceives (h : Obligations.HankReceives) (s : State) (p : Packet) (m : HankRx) (id t : Nat) (q : HankMsg)
    (hfront : s.chip.dom .core = domON ∧ s.chip.hankFront 8 = some p ∧ parseHank p = some m ∧ s.chip.role = roleMANAGER)
    (hchecks : s.chip.fld GLOBAL.ROLE_SETTLED ≠ 0 ∧ m.targetRole = s.chip.role ∧ m.targetEpoch = s.chip.roleEpoch ∧ m.target = 0 ∧
      s.chip.senderOk m = true)
    (hasked : s.chip.awaiting m.sender m.seq = some (id, q) ∧ id ≠ s.chip.hank.nextId ∧ s.chip.opLive t = true ∧
      (s.chip.op t).aborted = false ∧ (s.chip.op t).perst = false)
    (hq : q.typ = hkREGREQ ∧ q.tag = some t) :
    (afterAnswer s.chip).fld HANK.RX_MSGS_COUNT = (s.chip.fld HANK.RX_MSGS_COUNT + 1) % 2 ^ 32 := by
  obtain ⟨hcore, hfront, hparse, hrole⟩ := hfront
  obtain ⟨hsettled, htarget, hepoch, hme, hsender⟩ := hchecks
  obtain ⟨hawaits, hid, hlive, haborted, hperst⟩ := hasked
  unfold Obligations.HankReceives at h
  obtain ⟨_, h⟩ := h s (.regRespRx, 8) p m (by decide)
  obtain ⟨_, h⟩ := h hcore hfront
  obtain ⟨_, _, _, _, _, _, h⟩ := h hparse
  obtain ⟨_, _, _, h⟩ := h hrole
  have hforMe : (s.chip.role = roleWORKER → m.typ ≠ 1 → m.target = s.chip.fld HANK.BIND_STATUS_MY_ID) ∧
      (s.chip.role = roleMANAGER → m.target = 0) :=
    ⟨fun hworker => absurd (hrole.symm.trans hworker) (by decide), fun _ => hme⟩
  obtain ⟨_, hcount, _⟩ := ok_of_ends (f := afterAnswer) rfl
    (h id q t hawaits hid hq.1 hq.2 hlive haborted hperst rfl hsettled htarget (.inr hepoch) hforMe hsender)
  rw [Chip.ended_fld _ _ _ _ _ (by decide)] at hcount
  exact hcount

/-- Refutes O50: an accepted REG_RESP can leave RX_MSGS at another count. -/
theorem not_hankReceives : ¬ Obligations.HankReceives := fun h => by
  obtain ⟨hfront, hchecks, hasked, hcount⟩ := awaitsAnswer_facts
  exact hcount (counts_of_hankReceives h { chip := awaitsAnswer } _ _ _ _ _ hfront hchecks hasked ⟨rfl, rfl⟩)

end Sys2Proof.Machine
end

section
/-!
PROOF. Folds of a change that each index makes for itself: what such a fold leaves at one index.
-/
namespace Sys2Proof.Machine

section
variable {α β V : Type} {f : α → β → α} {obs : α → β → V} {same : α → α → Prop}

/-- A fold keeps what every step keeps. -/
theorem foldl_same (hrefl : ∀ a, same a a) (htrans : ∀ a b c, same a b → same b c → same a c) (hstep : ∀ a j, same a (f a j)) (l : List β)
    (a : α) : same a (l.foldl f a) := by
  induction l generalizing a with
  | nil => exact hrefl a
  | cons x xs ih => exact htrans _ _ _ (hstep a x) (ih (f a x))

/-- What a fold leaves at an index that it does not visit. -/
theorem obs_foldl_of_not_mem (hne : ∀ a j k, j ≠ k → obs (f a j) k = obs a k) {l : List β} {k : β} (hk : k ∉ l) (a : α) :
    obs (l.foldl f a) k = obs a k := by
  induction l generalizing a with
  | nil => rfl
  | cons x xs ih =>
    rw [List.mem_cons, not_or] at hk
    rw [List.foldl_cons, ih hk.2, hne a x k (Ne.symm hk.1)]

/-- What a fold leaves at an index that it visits once: what its step leaves there, where the step depends on the index and on what
every step keeps. -/
theorem obs_foldl_of_mem (hstep : ∀ a j, same a (f a j)) (hne : ∀ a j k, j ≠ k → obs (f a j) k = obs a k) (hlocal : ∀ a b k,
    same a b → obs b k = obs a k → obs (f b k) k = obs (f a k) k)
    {l : List β} (hl : l.Nodup) {k : β} (hk : k ∈ l) (a : α) : obs (l.foldl f a) k = obs (f a k) k := by
  induction l generalizing a with
  | nil => cases hk
  | cons x xs ih =>
    rw [List.nodup_cons] at hl
    rw [List.foldl_cons]
    rcases List.mem_cons.mp hk with rfl | hxs
    · exact obs_foldl_of_not_mem hne hl.1 _
    · have hx : x ≠ k := fun h => hl.1 (h ▸ hxs)
      rw [ih hl.2 hxs, hlocal a (f a x) k (hstep a x) (hne a x k hx)]
end

end Sys2Proof.Machine
end

section
/-!
PROOF. O41: a refill tick gives every class shaper its credit, and the background sweep brings the contexts up to date. Both are folds
whose steps each change what is theirs.
-/
namespace Sys2Proof.Machine

section
variable (c d : Chip) (i j n k v w x : Nat)

/-! ### The class shapers -/

/-- What a refill tick reads besides the shaper itself. -/
def SameShaped (c d : Chip) : Prop := d.regs = c.regs ∧ d.reel.queues = c.reel.queues ∧ d.uplinks = c.uplinks

/-- Credit and mode of a class shaper. -/
def Chip.classState : Int × Nat := (c.creditOf n k, c.shaperMode n k)

theorem Chip.shaperTick_same : SameShaped c (c.shaperTick n k) := by
  unfold Chip.shaperTick
  dsimp only
  split_ifs <;> exact ⟨rfl, rfl, rfl⟩

theorem Chip.classState_setCredit_ne (v : Int) (h : 8 * n + k ≠ 8 * i + j) : (c.setCredit n k v).classState i j = c.classState i j := by
  simp only [Chip.classState, Chip.creditOf, Chip.setCredit, Chip.shaperMode, Tab.get_put_ne _ _ _ _ h.symm]

theorem Chip.classState_shaperTick_ne (h : 8 * n + k ≠ 8 * i + j) : (c.shaperTick n k).classState i j = c.classState i j := by
  unfold Chip.shaperTick
  dsimp only
  split_ifs
  · simp only [Chip.classState, Chip.creditOf, Chip.setCredit, Chip.shaperMode, Tab.get_put_ne _ _ _ _ h.symm]
  · exact c.classState_setCredit_ne _ _ _ _ _ h
  · exact c.classState_setCredit_ne _ _ _ _ _ h
  · rfl
  · exact c.classState_setCredit_ne _ _ _ _ _ h
  · rfl

theorem Chip.classState_setCredit_self (v : Int) : (c.setCredit n k v).classState n k = (v, c.shaperMode n k) := by
  simp only [Chip.classState, Chip.creditOf, Chip.setCredit, Chip.shaperMode, Tab.get_put_self]

/-- The credit that a shaper of the present mode reaches. -/
def Chip.creditUp : Int :=
  min (c.creditOf n k + (c.fld REELGATE.SHAPER_CFG_RATE n k : Nat)) (c.fld REELGATE.SHAPER_BURST_OCTETS n k * 8000 : Nat)

/-- What one refill tick makes of a class shaper (R281). -/
def Chip.shaperNext : Int × Nat :=
  let m := c.fld REELGATE.SHAPER_CFG_MODE n k % 3
  if m ≠ c.shaperMode n k then (0, m)
  else if m = 1 then
    if c.classWaiting n k || decide (c.creditOf n k < 0) then (c.creditUp n k, m)
    else if 0 < c.creditOf n k then (0, m) else (c.creditOf n k, m)
  else if m = 2 then (c.creditUp n k, m)
  else (c.creditOf n k, m)

theorem Chip.classState_shaperTick_self : (c.shaperTick n k).classState n k = c.shaperNext n k := by
  unfold Chip.shaperTick Chip.shaperNext
  dsimp only
  split_ifs with hmode
  · simp only [Chip.classState, Chip.creditOf, Chip.setCredit, Chip.shaperMode, Tab.get_put_self]
  all_goals rw [not_not] at hmode
  · rw [Chip.classState_setCredit_self, ← hmode]
    rfl
  · rw [Chip.classState_setCredit_self, ← hmode]
  · rw [Chip.classState, ← hmode]
  · rw [Chip.classState_setCredit_self, ← hmode]
    rfl
  · rw [Chip.classState, ← hmode]

theorem Chip.shaperNext_congr (h : SameShaped c d) (hs : d.classState n k = c.classState n k) : d.shaperNext n k = c.shaperNext n k := by
  obtain ⟨hregs, hqueues, huplinks⟩ := h
  obtain ⟨hcredit, hmode⟩ := Prod.mk.inj hs
  have hfld : ∀ r : FieldRow, d.fld r n k = c.fld r n k := fun r => by rw [Chip.fld, Chip.fld, hregs]
  have hwaits : d.classWaiting n k = c.classWaiting n k := by
    rw [Chip.classWaiting, Chip.classWaiting, Chip.queue, Chip.queue, Chip.upl, Chip.upl, hqueues, huplinks]
  simp only [Chip.shaperNext, Chip.creditUp, hcredit, hmode, hfld, hwaits]

/-- The ticks of the eight shapers of an uplink. -/
def Chip.shaperTicks : Chip := (List.range 8).foldl (fun e k => e.shaperTick n k) c

theorem sameShaped_trans (a b e : Chip) (h : SameShaped a b) (h' : SameShaped b e) : SameShaped a e :=
  ⟨h'.1.trans h.1, h'.2.1.trans h.2.1, h'.2.2.trans h.2.2⟩

theorem Chip.shaperTicks_same : SameShaped c (c.shaperTicks n) :=
  foldl_same (fun _ => ⟨rfl, rfl, rfl⟩) sameShaped_trans (fun a k => a.shaperTick_same n k) _ c

theorem Chip.classState_shaperTicks_ne (h : n ≠ i) (hj : j < 8) : (c.shaperTicks n).classState i j = c.classState i j := by
  have hkeep : ∀ (l : List Nat) (a : Chip), (∀ k ∈ l, k < 8) → (l.foldl (fun e k => e.shaperTick n k) a).classState i j = a.classState i j := by
    intro l
    induction l with
    | nil => exact fun _ _ => rfl
    | cons x xs ih =>
      intro a hl
      rw [List.foldl_cons, ih _ fun k hk => hl k (.tail _ hk)]
      exact a.classState_shaperTick_ne _ _ _ _ (by have := hl x (.head _); omega)
  exact hkeep _ c fun k hk => List.mem_range.mp hk

theorem Chip.classState_shaperTicks_self (hk : k < 8) : (c.shaperTicks n).classState n k = c.shaperNext n k := by
  rw [← Chip.classState_shaperTick_self]
  exact obs_foldl_of_mem (obs := fun e k => e.classState n k) (same := SameShaped)
    (fun a k => a.shaperTick_same n k) (fun a j k h => a.classState_shaperTick_ne _ _ _ _ (by omega))
    (fun a b k hab hs => by
      rw [Chip.classState_shaperTick_self, Chip.classState_shaperTick_self, Chip.shaperNext_congr a b n k hab hs])
    List.nodup_range (List.mem_range.mpr hk) c

/-- What the ticks of every uplink make of a class shaper. -/
theorem Chip.classState_foldl_shaperTicks (hn : n < 4) (hk : k < 8) :
    ((List.range 4).foldl Chip.shaperTicks c).classState n k = c.shaperNext n k := by
  rw [← c.classState_shaperTicks_self n k hk]
  exact obs_foldl_of_mem (obs := fun e n => e.classState n k) (same := SameShaped)
    (fun a n => a.shaperTicks_same n) (fun a j i h => a.classState_shaperTicks_ne _ _ _ h hk)
    (fun a b n hab hs => by
      rw [Chip.classState_shaperTicks_self _ _ _ hk, Chip.classState_shaperTicks_self _ _ _ hk, Chip.shaperNext_congr a b n k hab hs])
    List.nodup_range (List.mem_range.mpr hn) c

/-- The tick is counted before the shapers take it. -/
def Chip.tickCounted : Chip := { c with whorl := { c.whorl with refillUs := c.whorl.refillUs + 1 } }.bumpWrap REEL.TICK_COUNT_COUNT

theorem Chip.refill_eq : c.refill = (List.range 4).foldl Chip.shaperTicks c.tickCounted := rfl

theorem Chip.shaperNext_tickCounted : c.tickCounted.shaperNext n k = c.shaperNext n k := by
  have hfld : ∀ r ∈ [REELGATE.SHAPER_CFG_MODE, REELGATE.SHAPER_CFG_RATE, REELGATE.SHAPER_BURST_OCTETS],
      c.tickCounted.fld r n k = c.fld r n k := fun r hr => by
    rw [Chip.tickCounted, Chip.fld_bumpWrap_ne]
    · rfl
    · simp only [List.mem_cons, List.not_mem_nil, or_false] at hr
      rcases hr with rfl | rfl | rfl <;>
        simp only [FieldRow.key, cellKey, REELGATE.SHAPER_CFG_MODE, REELGATE.SHAPER_CFG_RATE, REELGATE.SHAPER_BURST_OCTETS,
          REEL.TICK_COUNT_COUNT, PageCls.base] <;> omega
  rw [Chip.shaperNext, Chip.shaperNext, Chip.creditUp, Chip.creditUp, hfld _ (by simp), hfld _ (by simp), hfld _ (by simp)]
  rfl

/-! ### The contexts -/

theorem neg_le_signed : -(2 ^ 31) ≤ signed 32 n := by
  unfold signed
  dsimp only
  split_ifs <;> omega

theorem Chip.ctxW_setCtxW_self : (c.setCtxW i w v).ctxW i w = v % 2 ^ 32 := by
  simp only [Chip.ctxW, Chip.setCtxW, Tab.get_put_self, ctxKept]
  split_ifs
  · omega
  · rfl

theorem Chip.ctxW_setCtxW_ne (h : 16 * j + k ≠ 16 * i + w) : (c.setCtxW i w v).ctxW j k = c.ctxW j k := by
  simp only [Chip.ctxW, Chip.setCtxW, Tab.get_put_ne _ _ _ _ h]

/-- The ticks since LAST_TICK of a context. -/
def Chip.ticksBehind : Nat := (c.tick24 + 2 ^ 24 - c.ctxF i 7 23 0) % 2 ^ 24

/-- What bringing a context up to date makes of its word `w` (R276). -/
def Chip.refreshed : Nat :=
  let n := c.ticksBehind i
  if n = 0 then c.ctxW i w
  else if w = 3 then min (c.ctxW i 3 + n * incOf (c.ctxCir i)) (c.ctxCbs i * onePkt)
  else if w = 4 then min (c.ctxW i 4 + n * incOf (c.ctxPir i)) (c.ctxPbs i * onePkt)
  else if w = 6 then unsigned 32 (min (c.ctxBucket i + (n * incOf (c.ctxF i 5 23 0) : Nat)) (c.ctxBurst i * onePkt : Nat))
  else if w = 7 then c.tick24
  else c.ctxW i w

theorem Chip.setCtxW_regs : (c.setCtxW i w v).regs = c.regs := rfl

/-- The context with its buckets at `tc`, `tp` and `b`, at the present tick. -/
def Chip.setBuckets (tc tp : Nat) (b : Int) : Chip :=
  (((c.setCtxW i 3 tc).setCtxW i 4 tp).setCtxW i 6 (unsigned 32 b)).setCtxW i 7 c.tick24

theorem Chip.ctxRefresh_eq : c.ctxRefresh i = if c.ticksBehind i = 0 then c else c.setBuckets i
    (min (c.ctxW i 3 + c.ticksBehind i * incOf (c.ctxCir i)) (c.ctxCbs i * onePkt))
    (min (c.ctxW i 4 + c.ticksBehind i * incOf (c.ctxPir i)) (c.ctxPbs i * onePkt))
    (min (c.ctxBucket i + (c.ticksBehind i * incOf (c.ctxF i 5 23 0) : Nat)) (c.ctxBurst i * onePkt : Nat)) := rfl

theorem Chip.setBuckets_regs (tc tp : Nat) (b : Int) : (c.setBuckets i tc tp b).regs = c.regs := by
  rw [Chip.setBuckets, Chip.setCtxW_regs, Chip.setCtxW_regs, Chip.setCtxW_regs, Chip.setCtxW_regs]

theorem Chip.ctxRefresh_regs : (c.ctxRefresh i).regs = c.regs := by
  rw [Chip.ctxRefresh_eq]
  split_ifs
  · rfl
  · exact c.setBuckets_regs i _ _ _

theorem Chip.ctxW_ctxRefresh_ne (hj : j ≠ i) (hw : w < 16) : (c.ctxRefresh i).ctxW j w = c.ctxW j w := by
  rw [Chip.ctxRefresh_eq]
  split_ifs
  · rfl
  · rw [Chip.setBuckets, Chip.ctxW_setCtxW_ne _ _ _ _ _ _ (by omega), Chip.ctxW_setCtxW_ne _ _ _ _ _ _ (by omega),
      Chip.ctxW_setCtxW_ne _ _ _ _ _ _ (by omega), Chip.ctxW_setCtxW_ne _ _ _ _ _ _ (by omega)]

theorem bitsOf_lt (hi lo : Nat) : bitsOf w hi lo < 2 ^ (hi - lo + 1) := Nat.mod_lt _ (Nat.two_pow_pos _)

theorem Chip.ctxPbs_lt : c.ctxPbs i < 256 := max_lt (bitsOf_lt _ _ _) (bitsOf_lt _ _ _)

theorem Chip.ctxW_ctxRefresh_self (hw : w < 16) : (c.ctxRefresh i).ctxW i w = c.refreshed i w := by
  have hcbs : c.ctxCbs i < 256 := bitsOf_lt _ _ _
  have hpbs := c.ctxPbs_lt i
  have htick : c.tick24 < 2 ^ 24 := Nat.mod_lt _ (by decide)
  rw [Chip.ctxRefresh_eq]
  unfold Chip.refreshed Chip.setBuckets
  dsimp only
  split_ifs with hn h3 h4 h6 h7
  · rfl
  · subst h3
    rw [Chip.ctxW_setCtxW_ne _ _ _ _ _ _ (by omega), Chip.ctxW_setCtxW_ne _ _ _ _ _ _ (by omega),
      Chip.ctxW_setCtxW_ne _ _ _ _ _ _ (by omega), Chip.ctxW_setCtxW_self, Nat.mod_eq_of_lt]
    exact lt_of_le_of_lt (min_le_right _ _) (by simp only [onePkt]; omega)
  · subst h4
    rw [Chip.ctxW_setCtxW_ne _ _ _ _ _ _ (by omega), Chip.ctxW_setCtxW_ne _ _ _ _ _ _ (by omega), Chip.ctxW_setCtxW_self,
      Nat.mod_eq_of_lt]
    exact lt_of_le_of_lt (min_le_right _ _) (by simp only [onePkt]; omega)
  · subst h6
    rw [Chip.ctxW_setCtxW_ne _ _ _ _ _ _ (by omega), Chip.ctxW_setCtxW_self, Nat.mod_eq_of_lt (unsigned_lt 32 _)]
  · subst h7
    rw [Chip.ctxW_setCtxW_self, Nat.mod_eq_of_lt (by omega)]
  · rw [Chip.ctxW_setCtxW_ne _ _ _ _ _ _ (by omega), Chip.ctxW_setCtxW_ne _ _ _ _ _ _ (by omega),
      Chip.ctxW_setCtxW_ne _ _ _ _ _ _ (by omega), Chip.ctxW_setCtxW_ne _ _ _ _ _ _ (by omega)]

/-- The words of a context. -/
def Chip.wordsOf : Fin 16 → Nat := fun w => c.ctxW i w

theorem Chip.refreshed_congr (hregs : d.regs = c.regs) (h : ∀ w, w < 16 → d.ctxW i w = c.ctxW i w) (hw : w < 16) :
    d.refreshed i w = c.refreshed i w := by
  have htick : d.tick24 = c.tick24 := by rw [Chip.tick24, Chip.tick24, Chip.fld, Chip.fld, hregs]
  have hF : ∀ w hi lo, w < 16 → d.ctxF i w hi lo = c.ctxF i w hi lo := fun w hi lo hw => by rw [Chip.ctxF, Chip.ctxF, h w hw]
  have hticks : d.ticksBehind i = c.ticksBehind i := by rw [Chip.ticksBehind, Chip.ticksBehind, htick, hF 7 _ _ (by decide)]
  have hcir : d.ctxCir i = c.ctxCir i := hF 1 _ _ (by decide)
  have hcbs : d.ctxCbs i = c.ctxCbs i := hF 1 _ _ (by decide)
  have hpir : d.ctxPir i = c.ctxPir i := by rw [Chip.ctxPir, Chip.ctxPir, hcir, hF 2 _ _ (by decide)]
  have hpbs : d.ctxPbs i = c.ctxPbs i := by rw [Chip.ctxPbs, Chip.ctxPbs, hcbs, hF 2 _ _ (by decide)]
  have hburst : d.ctxBurst i = c.ctxBurst i := by rw [Chip.ctxBurst, Chip.ctxBurst, hF 5 _ _ (by decide)]
  have hbucket : d.ctxBucket i = c.ctxBucket i := by rw [Chip.ctxBucket, Chip.ctxBucket, h 6 (by decide)]
  rw [Chip.refreshed, Chip.refreshed, hticks, h w hw, h 3 (by decide), h 4 (by decide), hcir, hcbs, hpir, hpbs, hbucket,
    hF 5 _ _ (by decide), hburst, htick]

/-- The background sweep of one context. -/
def Chip.sweepOne : Chip := if c.ctxF i 0 1 0 = 0 then c else c.ctxRefresh i

/-- What the sweep makes of a context's word. -/
def Chip.swept : Nat := if c.ctxF i 0 1 0 = 0 then c.ctxW i w else c.refreshed i w

theorem Chip.sweepOne_regs : (c.sweepOne i).regs = c.regs := by
  unfold Chip.sweepOne
  split_ifs
  · rfl
  · exact c.ctxRefresh_regs i

theorem Chip.ctxW_sweepOne_ne (hj : j ≠ i) (hw : w < 16) : (c.sweepOne i).ctxW j w = c.ctxW j w := by
  unfold Chip.sweepOne
  split_ifs
  · rfl
  · exact c.ctxW_ctxRefresh_ne i j w hj hw

theorem Chip.ctxW_sweepOne_self (hw : w < 16) : (c.sweepOne i).ctxW i w = c.swept i w := by
  unfold Chip.sweepOne Chip.swept
  split_ifs
  · rfl
  · exact c.ctxW_ctxRefresh_self i w hw

theorem Chip.ctxSweep_eq : c.ctxSweep = c.ctxListed.foldl Chip.sweepOne c := rfl

/-- A key at which a table has a word other than 0 is one of its keys. -/
theorem Tab.mem_keys {t : Tab Nat} {k : Nat} (h : Tab.get 0 t k ≠ 0) : k ∈ t.map (·.1) := by
  induction t with
  | nil => exact absurd rfl h
  | cons e r ih =>
    rw [Tab.get] at h
    split_ifs at h with hk
    · exact hk ▸ .head _
    · exact .tail _ (ih h)

/-- A context of which the store has a word other than 0 is listed. -/
theorem Chip.mem_ctxListed_of_word (hw : w < 16) (h : Tab.get 0 c.reel.ctx (16 * i + w) ≠ 0) : i ∈ c.ctxListed := by
  obtain ⟨e, he, hkey⟩ := List.mem_map.mp (Tab.mem_keys h)
  exact List.mem_dedup.mpr (List.mem_map.mpr ⟨e, he, by rw [hkey]; omega⟩)

/-- A context with METER_EN or SHAPE_EN is listed. -/
theorem Chip.mem_ctxListed (h : c.ctxF i 0 1 0 ≠ 0) : i ∈ c.ctxListed := by
  refine c.mem_ctxListed_of_word i 0 (by decide) fun h0 => h ?_
  simp only [Chip.ctxF, Chip.ctxW, h0]
  rfl

/-- What the sweep leaves of every context. -/
theorem Chip.ctxW_ctxSweep (hw : w < 16) : c.ctxSweep.ctxW i w = c.swept i w := by
  rw [Chip.ctxSweep_eq]
  by_cases hi : i ∈ c.ctxListed
  · have hfold := obs_foldl_of_mem (f := Chip.sweepOne) (obs := Chip.wordsOf) (same := fun a b => b.regs = a.regs)
      (fun a j => a.sweepOne_regs j) (fun a j k h => funext fun w => a.ctxW_sweepOne_ne j k w h.symm w.isLt)
      (fun a b k hab hs => funext fun w => by
        have hs' : ∀ u, u < 16 → b.ctxW k u = a.ctxW k u := fun u hu => congrFun hs ⟨u, hu⟩
        rw [Chip.wordsOf, Chip.wordsOf, Chip.ctxW_sweepOne_self _ _ _ w.isLt, Chip.ctxW_sweepOne_self _ _ _ w.isLt, Chip.swept,
          Chip.swept, Chip.refreshed_congr a b k w hab hs' w.isLt, Chip.ctxF, Chip.ctxF, hs' 0 (by decide), hs' w w.isLt])
      (List.nodup_dedup _) hi c
    exact (congrFun hfold ⟨w, hw⟩).trans (c.ctxW_sweepOne_self i w hw)
  · have hoff : c.ctxF i 0 1 0 = 0 := by
      by_contra h
      exact hi (c.mem_ctxListed i h)
    have hfold := obs_foldl_of_not_mem (f := Chip.sweepOne) (obs := Chip.wordsOf)
      (fun a j k h => funext fun w => a.ctxW_sweepOne_ne j k w h.symm w.isLt) hi c
    rw [Chip.swept, if_pos hoff]
    exact congrFun hfold ⟨w, hw⟩

end

/-! ### The statement -/

theorem Chip.ended_classState (b d : Chip) (n k : Nat) : (b.ended d).classState n k = d.classState n k := by
  rw [Chip.classState, Chip.classState, Chip.creditOf, Chip.creditOf, Chip.shaperMode, Chip.shaperMode, Chip.ended_reel]

theorem Chip.ended_ctxW (b d : Chip) (i w : Nat) : (b.ended d).ctxW i w = d.ctxW i w := by
  rw [Chip.ctxW, Chip.ctxW, Chip.ended_reel]

/-- What a refill tick leaves of TICK_COUNT and of the time of the ticks. -/
theorem Chip.refill_same (c : Chip) : c.refill.regs = c.tickCounted.regs ∧ c.refill.whorl = c.tickCounted.whorl := by
  have hwhorl : ∀ (a : Chip) (n : Nat), (a.shaperTicks n).whorl = a.whorl := fun a n =>
    foldl_same (same := fun a b : Chip => b.whorl = a.whorl) (fun _ => rfl) (fun _ _ _ h h' => h'.trans h) (fun a k => by
      unfold Chip.shaperTick
      dsimp only
      split_ifs <;> rfl) _ a
  rw [Chip.refill_eq]
  exact ⟨(foldl_same (fun _ => ⟨rfl, rfl, rfl⟩) sameShaped_trans (fun a n => a.shaperTicks_same n) _ _).1,
    foldl_same (same := fun a b : Chip => b.whorl = a.whorl) (fun _ => rfl) (fun _ _ _ h h' => h'.trans h) hwhorl _ _⟩

/-- The five cases of a refill tick of one shaper. -/
theorem Chip.shaperNext_cases (c d : Chip) (n k : Nat) (h : d.classState n k = c.shaperNext n k) :
    let m := c.fld REELGATE.SHAPER_CFG_MODE n k
    let cr := c.creditOf n k
    let up := min (cr + (c.fld REELGATE.SHAPER_CFG_RATE n k : Nat)) (c.fld REELGATE.SHAPER_BURST_OCTETS n k * 8000 : Nat)
    (m % 3 ≠ c.shaperMode n k → d.creditOf n k = 0 ∧ d.shaperMode n k = m % 3) ∧
    (m % 3 = c.shaperMode n k → d.shaperMode n k = m % 3 ∧
      (m % 3 = 0 → d.creditOf n k = cr) ∧ (m % 3 = 2 → d.creditOf n k = up) ∧
      (m % 3 = 1 → (c.classWaiting n k = true ∨ cr < 0) → d.creditOf n k = up) ∧
      (m % 3 = 1 → c.classWaiting n k = false → 0 ≤ cr → d.creditOf n k = 0)) := by
  intro m cr up
  unfold Chip.shaperNext at h
  dsimp only at h
  refine ⟨fun hne => ?_, fun heq => ?_⟩
  · rw [if_pos hne] at h
    exact ⟨congrArg Prod.fst h, congrArg Prod.snd h⟩
  · rw [if_neg (not_not.mpr heq)] at h
    refine ⟨?_, fun h0 => ?_, fun h2 => ?_, fun h1 hw => ?_, fun h1 hw hcr => ?_⟩
    · split_ifs at h <;> exact congrArg Prod.snd h
    · rw [if_neg (by omega), if_neg (by omega)] at h
      exact congrArg Prod.fst h
    · rw [if_neg (by omega), if_pos h2] at h
      exact congrArg Prod.fst h
    · rw [if_pos h1, if_pos (by simpa using hw)] at h
      exact congrArg Prod.fst h
    · rw [if_pos h1, if_neg (by simp only [hw, Bool.false_or, decide_eq_true_eq]; omega)] at h
      split_ifs at h with hpos
      · exact congrArg Prod.fst h
      · have hzero : cr = 0 := le_antisymm (not_lt.mp hpos) hcr
        exact (congrArg Prod.fst h).trans hzero

/-- Bringing a context up to date, word by word. -/
theorem Chip.swept_cases (c d : Chip) (i : Nat) (h : ∀ w, w < 16 → d.ctxW i w = c.swept i w) :
    let n := (c.fld REEL.TICK_COUNT_COUNT % 2 ^ 24 + 2 ^ 24 - c.ctxF i 7 23 0) % 2 ^ 24
    (c.ctxF i 0 1 0 ≠ 0 → d.ctxF i 7 23 0 = c.fld REEL.TICK_COUNT_COUNT % 2 ^ 24 ∧ d.ctxW i 0 = c.ctxW i 0 ∧
      (n ≠ 0 → d.ctxW i 3 = min (c.ctxW i 3 + n * incOf (c.ctxCir i)) (c.ctxCbs i * 2 ^ 24) ∧
        d.ctxW i 4 = min (c.ctxW i 4 + n * incOf (c.ctxPir i)) (c.ctxPbs i * 2 ^ 24) ∧
        d.ctxBucket i = min (c.ctxBucket i + (n * incOf (c.ctxF i 5 23 0) : Nat)) (max 1 (c.ctxF i 5 30 24) * 2 ^ 24 : Nat)) ∧
      (n = 0 → ∀ w, w < 16 → d.ctxW i w = c.ctxW i w)) ∧
    (c.ctxF i 0 1 0 = 0 → ∀ w, w < 16 → d.ctxW i w = c.ctxW i w) := by
  intro n
  have hn : n = c.ticksBehind i := rfl
  clear_value n
  refine ⟨fun hon => ?_, fun hoff w hw => (h w hw).trans (if_pos hoff)⟩
  have hword : ∀ w, w < 16 → d.ctxW i w = c.refreshed i w := fun w hw => (h w hw).trans (if_neg hon)
  unfold Chip.refreshed at hword
  dsimp only at hword
  rw [← hn] at hword
  refine ⟨?_, ?_, fun hn0 => ⟨?_, ?_, ?_⟩, fun hn0 w hw => (hword w hw).trans (if_pos hn0)⟩
  · have htick : c.tick24 < 2 ^ 24 := Nat.mod_lt _ (by decide)
    have hlast : c.ctxF i 7 23 0 < 2 ^ 24 := bitsOf_lt _ _ _
    rw [Chip.ctxF, hword 7 (by decide)]
    by_cases hn0 : n = 0
    · rw [if_pos hn0]
      have hdiff : (c.tick24 + 2 ^ 24 - c.ctxF i 7 23 0) % 2 ^ 24 = 0 := hn.symm.trans hn0
      change c.ctxF i 7 23 0 = c.tick24
      omega
    · rw [if_neg hn0, if_neg (by decide), if_neg (by decide), if_neg (by decide), if_pos rfl]
      exact Nat.mod_eq_of_lt htick
  · refine (hword 0 (by decide)).trans ?_
    rw [if_neg (by decide : ¬ 0 = 3), if_neg (by decide : ¬ 0 = 4), if_neg (by decide : ¬ 0 = 6),
      if_neg (by decide : ¬ 0 = 7), ite_self]
  · exact (hword 3 (by decide)).trans ((if_neg hn0).trans (if_pos rfl))
  · exact (hword 4 (by decide)).trans ((if_neg hn0).trans ((if_neg (by decide)).trans (if_pos rfl)))
  · have hcap : c.ctxBurst i < 2 ^ 7 := max_lt (by decide) (bitsOf_lt _ _ _)
    have hlow : -(2 ^ 31) ≤ c.ctxBucket i := neg_le_signed _
    rw [Chip.ctxBucket, hword 6 (by decide), if_neg hn0, if_neg (by decide), if_neg (by decide), if_pos rfl]
    exact signed_unsigned 32 _ (by simp only [onePkt]; omega) (by simp only [onePkt]; omega)

/-- Settles O41: the two folds, shaper by shaper and context by context. -/
theorem refillTicks : Obligations.RefillTicks := by
  unfold Obligations.RefillTicks
  intro s c
  refine ⟨fun hcore hdue => ?_, fun hidle => ?_, fun hcore => ?_, fun hcore => ?_⟩
  · refine ends_of_due (due := Chip.refillDue) (g := Chip.refill) rfl ?_ ?_
    · rw [Chip.refillDue, Bool.and_eq_true]
      exact ⟨beq_iff_eq.mpr hcore, decide_eq_true hdue⟩
    · obtain ⟨hregs, hwhorl⟩ := s.chip.refill_same
      refine ⟨?_, ?_, fun n k hn hk => ?_⟩
      · rw [Chip.ended_fld _ _ _ _ _ (by decide), Chip.fld, hregs]
        exact Chip.fld_bumpWrap_self _ _ _ _
      · rw [Chip.ended_whorl, hwhorl]
        rfl
      · refine s.chip.shaperNext_cases _ n k ?_
        rw [Chip.ended_classState, Chip.refill_eq, Chip.classState_foldl_shaperTicks _ _ _ hn hk, Chip.shaperNext_tickCounted]
  · refine idles_of_not_due (due := Chip.refillDue) (g := Chip.refill) rfl ?_
    rw [Chip.refillDue, Bool.and_eq_false_iff]
    exact hidle.imp (fun h => beq_eq_false_iff_ne.mpr h) fun h => decide_eq_false (not_lt.mpr h)
  · refine ends_of_due (due := fun c => c.dom .core == domON) (g := Chip.ctxSweep) rfl (beq_iff_eq.mpr hcore) fun i => ?_
    exact s.chip.swept_cases _ i fun w hw => by rw [Chip.ended_ctxW, Chip.ctxW_ctxSweep _ _ _ hw]
  · exact idles_of_not_due (due := fun c => c.dom .core == domON) (g := Chip.ctxSweep) rfl (beq_eq_false_iff_ne.mpr hcore)

end Sys2Proof.Machine
end

section
/-!
PROOF. Leave: a request that is refused or queued, and a release, each by what it leaves in the power manager (R71 to R80); and a count of
PAGE_ERRCNT that later changes leave.
-/
namespace Sys2Proof.Machine

section
variable (c : Chip) (op : LeaveOp)

theorem Chip.ceilingJudge_held : c.ceilingJudge.power.held = c.power.held := by
  unfold Chip.ceilingJudge
  split <;> rfl

theorem Chip.ceilingJudge_waiting : c.ceilingJudge.power.waiting = c.power.waiting := by
  unfold Chip.ceilingJudge
  split <;> rfl

theorem Chip.releaseLeave_frame {K : Nat → Prop} : c.Frame [.power] K (c.releaseLeave op) := by
  unfold Chip.releaseLeave Chip.ceilingJudge
  refine Chip.Frame.ite (fun _ => ?_) fun _ => ?_
  · exact (Chip.Frame.refl c).withPower _ (by decide)
  · exact ((Chip.Frame.refl c).withPower _ (by decide)).withPower _ (by decide)

theorem Chip.leaveHeld_releaseLeave : (c.releaseLeave op).leaveHeld op = false := by
  rw [Chip.leaveHeld, Chip.releaseLeave, Chip.ceilingJudge_held, List.any_eq_false]
  intro h hh
  have hne := (List.mem_filter.mp hh).2
  rw [bne_iff_ne] at hne
  exact fun he => hne (beq_iff_eq.mp he)

theorem Chip.leaveWaiting_releaseLeave : (c.releaseLeave op).leaveWaiting op = false := by
  rw [Chip.leaveWaiting, Chip.releaseLeave, Chip.ceilingJudge_waiting, List.any_eq_false]
  intro h hh
  have hne := (List.mem_filter.mp hh).2
  rw [bne_iff_ne] at hne
  exact fun he => hne (beq_iff_eq.mp he)
end

section
variable {c d : Chip} {op : LeaveOp}

theorem Chip.leaveHeld_congr (h : d.power = c.power) : d.leaveHeld op = c.leaveHeld op := by rw [Chip.leaveHeld, h, Chip.leaveHeld]

theorem Chip.leaveWaiting_congr (h : d.power = c.power) : d.leaveWaiting op = c.leaveWaiting op := by
  rw [Chip.leaveWaiting, h, Chip.leaveWaiting]

theorem Chip.requestLeave_refused (h : c.leaveAnswer op = .refused) : c.requestLeave op = c.raise EV.POWER_LEAVE_IMPOSSIBLE := by
  rw [Chip.requestLeave, h]

/-- A request of an operation other than a fan-out burst, as it is queued. -/
def Chip.newRequest (c : Chip) (op : LeaveOp) : LeaveReq :=
  { op := op, prio := c.leavePrio op, cost := c.leaveCost op, since := c.now, warnUs := c.fld POWER.LEAVE_WARN_LIMIT }

theorem Chip.requestLeave_queued (h : c.leaveAnswer op = .queued) (hop : LeaveOp.isFanout op = false) :
    c.requestLeave op = { c with power := { c.power with waiting := c.power.waiting ++ [c.newRequest op] } } := by
  rw [Chip.requestLeave, h]
  exact if_neg (by rw [hop]; decide)

theorem Chip.leaveWaiting_requestLeave (h : c.leaveAnswer op = .queued) (hop : LeaveOp.isFanout op = false) :
    (c.requestLeave op).leaveWaiting op = true := by
  rw [Chip.requestLeave_queued h hop, Chip.leaveWaiting, List.any_append, Bool.or_eq_true]
  exact .inr (by rw [List.any_cons, Bool.or_eq_true]; exact .inl (beq_self_eq_true op))

/-- The answer to all but a fan-out burst. -/
theorem Chip.leaveAnswer_eq (hop : LeaveOp.isFanout op = false) :
    c.leaveAnswer op = if c.generalBudget < c.leaveCost op then .refused else .queued := by
  unfold Chip.leaveAnswer
  dsimp only
  rw [hop]
  exact if_neg (by decide)

/-- Only a fan-out burst is granted at its request. -/
theorem Chip.leaveAnswer_ne_granted (hop : LeaveOp.isFanout op = false) : c.leaveAnswer op ≠ .granted := by
  rw [Chip.leaveAnswer_eq hop]
  split <;> decide

/-- The answer to all but a fan-out burst depends on the cost and the three registers of the budget. -/
theorem Chip.leaveAnswer_congr (hop : LeaveOp.isFanout op = false)
    (hcost : d.fld POWER.COST_TOKENS 0 (LeaveOp.index op) = c.fld POWER.COST_TOKENS 0 (LeaveOp.index op))
    (hceil : d.fld POWER.CEILING_TOKENS = c.fld POWER.CEILING_TOKENS) (hbase : d.fld POWER.BASE_TOKENS = c.fld POWER.BASE_TOKENS)
    (hres : d.fld POWER.RESERVE_FANOUT_RESERVE = c.fld POWER.RESERVE_FANOUT_RESERVE) : d.leaveAnswer op = c.leaveAnswer op := by
  have hleave : d.leaveCost op = c.leaveCost op := by
    unfold Chip.leaveCost
    dsimp only
    rw [hcost]
  rw [Chip.leaveAnswer_eq hop, Chip.leaveAnswer_eq hop, hleave, Chip.generalBudget, hceil, hbase, hres, Chip.generalBudget]
end

/-- An access that is counted stays counted in a change that leaves PAGE_ERRCNT. -/
theorem Chip.Frame.keepsCounted {c d e : Chip} {S : List Part} {K : Nat → Prop} {page off : Nat} {p : Port} (h : d.Frame S K e)
    (hk : ∀ k ∈ errKeys page, ¬ K k) (hc : c.Counted d page off p) : c.Counted e page off p := by
  obtain ⟨h1, h2, h3⟩ := hc
  refine ⟨(h.hdr _ _ (hk _ ?_)).trans h1, (h.hdr _ _ (hk _ ?_)).trans h2, (h.hdr _ _ (hk _ ?_)).trans h3⟩ <;> simp [errKeys]

end Sys2Proof.Machine
end

section
/-!
PROOF. The rule bulk load (R261 to R263): what a record leaves alone, its words one by one, and how a load starts and ends.
-/
namespace Sys2Proof.Machine

/-- The cells that the words of a record can change. -/
def bulkKeys : List Nat :=
  [CARDER.BULK_REFUSED_COUNT.key 0 0, EV.CARDER_WRITE_REFUSED.key 0] ++ errKeys PageCls.rulewin.base ++ errKeys PageCls.bankwin.base

/-- One word of a record, carried out or refused. -/
def Chip.bulkWord (c : Chip) (t : Tbl) (b i w v : Nat) : Chip :=
  if c.writeCause t b i w v = 0 then c.acceptWord t b i w v
  else ((c.bump CARDER.BULK_REFUSED_COUNT).errcnt (t.place i w).1 (t.place i w).2 .bar0).raise EV.CARDER_WRITE_REFUSED

/-- The words of a record whose head is good. -/
def Chip.bulkWords (c : Chip) (t : Tbl) (r : List Nat) : Chip :=
  (List.range (bitsOf (r.getD 1 0) 11 8)).foldl (fun d j =>
    d.bulkWord t (bitsOf (r.getD 0 0) 3 3) (bitsOf (r.getD 0 0) 24 8) (bitsOf (r.getD 1 0) 5 0 + j) (r.getD (2 + j) 0)) c

section
variable {c d : Chip} {t : Tbl} {b i w v : Nat} {r : List Nat}

theorem Chip.bulkApply_eq (ht : recordTable (bitsOf (r.getD 0 0) 2 0) = some t) : c.bulkApply r =
    if bitsOf (r.getD 1 0) 11 8 = 0 ∨ 8 < bitsOf (r.getD 1 0) 11 8 ∨ t.words < bitsOf (r.getD 1 0) 5 0 + bitsOf (r.getD 1 0) 11 8
    then c.bump CARDER.BULK_REFUSED_COUNT else c.bulkWords t r := by
  unfold Chip.bulkApply
  dsimp only
  rw [ht]
  rfl

theorem Chip.bulkApply_none (ht : recordTable (bitsOf (r.getD 0 0) 2 0) = none) : c.bulkApply r = c.bump CARDER.BULK_REFUSED_COUNT := by
  unfold Chip.bulkApply
  dsimp only
  rw [ht]

theorem Chip.putTbl_frame {K : Nat → Prop} : c.Frame [.carder] K (c.putTbl t b i w v) :=
  (Chip.Frame.refl c).withCarder _ (by decide)

theorem Chip.putTbl_left : (c.putTbl t b i w v).carder.bulkLeft = c.carder.bulkLeft := by
  cases t <;> rfl

theorem Chip.acceptWord_frame {K : Nat → Prop} : c.Frame [.carder, .ecc] K (c.acceptWord t b i w v) := by
  unfold Chip.acceptWord
  refine Chip.Frame.withEcc (Chip.Frame.andThen (S := [.carder, .ecc]) (K := K) ?_ Chip.putTbl_frame (by decide) fun _ h => h) _ (by decide)
  exact Chip.Frame.ite (fun _ => (Chip.Frame.refl c).withCarder _ (by decide)) fun _ => .refl c

theorem Chip.acceptWord_left : (c.acceptWord t b i w v).carder.bulkLeft = c.carder.bulkLeft := by
  unfold Chip.acceptWord
  refine Chip.putTbl_left.trans ?_
  split <;> rfl

/-- The page at which a table's word shows is one of the two windows. -/
theorem Tbl.place_page (t : Tbl) (i w : Nat) : (t.place i w).1 = PageCls.rulewin.base ∨ (t.place i w).1 = PageCls.bankwin.base := by
  cases t with
  | exact | tern | action => exact .inl rfl
  | node | profile | portDef => exact .inr rfl

theorem errKeys_place_mem : ∀ k ∈ errKeys (t.place i w).1, k ∈ bulkKeys := by
  rcases t.place_page i w with h | h <;> rw [h] <;> decide

/-- A refused word leaves the tables. -/
theorem Chip.bulkWord_refused_frame : c.Frame [] (· ∈ bulkKeys)
    (((c.bump CARDER.BULK_REFUSED_COUNT).errcnt (t.place i w).1 (t.place i w).2 .bar0).raise EV.CARDER_WRITE_REFUSED) :=
  (((Chip.Frame.refl c).bump _ 0 0 (by decide)).errcnt _ _ _ errKeys_place_mem).raise _ 0 (by decide)

theorem Chip.bulkWord_frame : c.Frame [.carder, .ecc] (· ∈ bulkKeys) (c.bulkWord t b i w v) := by
  unfold Chip.bulkWord
  refine Chip.Frame.ite (fun _ => Chip.acceptWord_frame) fun _ => ?_
  exact Chip.bulkWord_refused_frame.mono (by decide) fun _ h => h

theorem Chip.bulkWord_left : (c.bulkWord t b i w v).carder.bulkLeft = c.carder.bulkLeft := by
  unfold Chip.bulkWord
  split
  · exact Chip.acceptWord_left
  · rw [Chip.bulkWord_refused_frame.carder (by decide)]

theorem Chip.bulkApply_frame (c : Chip) (r : List Nat) : c.Frame [.carder, .ecc] (· ∈ bulkKeys) (c.bulkApply r) := by
  cases ht : recordTable (bitsOf (r.getD 0 0) 2 0) with
  | none =>
    rw [Chip.bulkApply_none ht]
    exact (Chip.Frame.refl c).bump _ 0 0 (by decide)
  | some t =>
    rw [Chip.bulkApply_eq ht]
    refine Chip.Frame.ite (fun _ => (Chip.Frame.refl c).bump _ 0 0 (by decide)) fun _ => ?_
    exact (Chip.Frame.refl c).foldl _ fun d j _ => Chip.bulkWord_frame

theorem Chip.bulkApply_left (c : Chip) (r : List Nat) : (c.bulkApply r).carder.bulkLeft = c.carder.bulkLeft := by
  cases ht : recordTable (bitsOf (r.getD 0 0) 2 0) with
  | none => rw [Chip.bulkApply_none ht]; rfl
  | some t =>
    rw [Chip.bulkApply_eq ht]
    split
    · rfl
    · exact foldl_same (same := fun a b : Chip => b.carder.bulkLeft = a.carder.bulkLeft) (fun _ => rfl) (fun _ _ _ h h' => h'.trans h)
        (fun _ _ => Chip.bulkWord_left) _ c
end

/-! ### The end of a record -/

/-- The block after a record's words, with the record counted. -/
def Chip.bulkCounted (c : Chip) (r : List Nat) : Chip :=
  ((c.bulkApply r).bumpWrap CARDER.BULK_STATUS_DONE).updCarder fun d => { d with bulkLeft := d.bulkLeft - 1 }

section
variable (c : Chip) (r : List Nat)

theorem Chip.bulkRecord_eq : c.bulkRecord (some r) = if (c.bulkCounted r).carder.bulkLeft = 0
    then ((c.bulkCounted r).bulkEnd bkDONE).raise EV.CARDER_BULK_DONE else c.bulkCounted r := rfl

theorem Chip.bulkCounted_left : (c.bulkCounted r).carder.bulkLeft = c.carder.bulkLeft - 1 :=
  congrArg (· - 1) (c.bulkApply_left r)

theorem Chip.bulkCounted_since : (c.bulkApply r).Frame [.carder] (· ∈ [CARDER.BULK_STATUS_DONE.key 0 0]) (c.bulkCounted r) :=
  (((Chip.Frame.refl (c.bulkApply r)).setFld _ _ 0 0 (by decide)).withCarder _ (by decide))

theorem Chip.bulkCounted_frame : c.Frame [.carder, .ecc] (· ∈ CARDER.BULK_STATUS_DONE.key 0 0 :: bulkKeys) (c.bulkCounted r) :=
  ((c.bulkApply_frame r).mono (by decide) fun _ => List.mem_cons_of_mem _).trans ((c.bulkCounted_since r).mono (by decide) (by simp))

theorem Chip.bulkEnd_frame (st : Nat) : c.Frame [.power] (· ∈ [CARDER.BULK_STATUS_STATE.key 0 0]) (c.bulkEnd st) :=
  ((Chip.Frame.refl c).setFld _ _ 0 0 (by decide)).andThen (Chip.releaseLeave_frame _ _) (by decide) fun _ h => h

theorem Chip.fld_bulkEnd (st : Nat) : (c.bulkEnd st).fld CARDER.BULK_STATUS_STATE = st % 2 ^ CARDER.BULK_STATUS_STATE.width := by
  rw [Chip.bulkEnd, ((c.setFld CARDER.BULK_STATUS_STATE st).releaseLeave_frame .ruleLoad (K := fun _ => False)).fld _ 0 0 id,
    Chip.fld_setFld_self]

/-- What ends a load, an event with it, ends its leave and leaves the tables. -/
theorem Chip.bulkEnd_raise_frame (st : Nat) (e : Evt) :
    c.Frame [.power] (· ∈ [CARDER.BULK_STATUS_STATE.key 0 0, e.key 0]) ((c.bulkEnd st).raise e) :=
  ((c.bulkEnd_frame st).mono (List.Subset.refl _) (by simp)).raise e 0 (by simp)

/-- After a record, the record's own cells apart from those of the load's end. -/
theorem Chip.bulkRecord_since : (c.bulkApply r).Frame [.carder, .power]
    (· ∈ [CARDER.BULK_STATUS_DONE.key 0 0, CARDER.BULK_STATUS_STATE.key 0 0, EV.CARDER_BULK_DONE.key 0]) (c.bulkRecord (some r)) := by
  rw [Chip.bulkRecord_eq]
  refine Chip.Frame.ite (fun _ => ?_) fun _ => (c.bulkCounted_since r).mono (by decide) (by simp)
  exact ((c.bulkCounted_since r).mono (by decide) (by simp)).andThen (Chip.bulkEnd_raise_frame _ _ _) (by decide) (by simp)

/-- The tables after a record, and the records still to come. -/
theorem Chip.bulkRecord_carder :
    (c.bulkRecord (some r)).carder = { (c.bulkApply r).carder with bulkLeft := c.carder.bulkLeft - 1 } := by
  have hcounted : (c.bulkCounted r).carder = { (c.bulkApply r).carder with bulkLeft := c.carder.bulkLeft - 1 } := by
    rw [← c.bulkApply_left r]
    rfl
  rw [Chip.bulkRecord_eq]
  split
  · exact ((c.bulkCounted r).bulkEnd_raise_frame _ _).carder (by decide) |>.trans hcounted
  · exact hcounted

theorem Chip.bulkRecord_done : (c.bulkRecord (some r)).fld CARDER.BULK_STATUS_DONE = (c.fld CARDER.BULK_STATUS_DONE + 1) % 2 ^ 24 := by
  have hcounted : (c.bulkCounted r).fld CARDER.BULK_STATUS_DONE = (c.fld CARDER.BULK_STATUS_DONE + 1) % 2 ^ 24 := by
    rw [← (c.bulkApply_frame r).fld CARDER.BULK_STATUS_DONE 0 0 (by decide)]
    exact (c.bulkApply r).fld_bumpWrap_self _ 0 0
  rw [Chip.bulkRecord_eq]
  split
  · exact (((c.bulkCounted r).bulkEnd_raise_frame _ _).fld _ 0 0 (by decide)).trans hcounted
  · exact hcounted

/-- The refusal of a word stays told when the record ends. -/
theorem Chip.bulkRecord_tells {a : Chip} (h : a.Tells (c.bulkApply r) EV.CARDER_WRITE_REFUSED) :
    a.Tells (c.bulkRecord (some r)) EV.CARDER_WRITE_REFUSED := by
  have hcounted := (c.bulkCounted_since r).tells h (by decide)
  rw [Chip.bulkRecord_eq]
  split
  · exact ((Chip.bulkEnd_frame _ _).tells hcounted (by decide)).raise (by decide) _ 0
  · exact hcounted

/-- The end of the last record. -/
theorem Chip.bulkRecord_last (h : c.carder.bulkLeft ≤ 1) :
    c.bulkRecord (some r) = ((c.bulkCounted r).bulkEnd bkDONE).raise EV.CARDER_BULK_DONE := by
  rw [Chip.bulkRecord_eq, if_pos (by rw [Chip.bulkCounted_left]; omega)]

theorem Chip.bulkRecord_more (h : 1 < c.carder.bulkLeft) : c.bulkRecord (some r) = c.bulkCounted r := by
  rw [Chip.bulkRecord_eq, if_neg (by rw [Chip.bulkCounted_left]; omega)]
end

/-! ### What a load's end gives -/

/-- A load that ends: its state, and no leave, whatever event follows. -/
theorem Chip.bulkEnd_ended (b : Chip) {c d : Chip} {st : Nat} {K : Nat → Prop} (hst : st < 8) (h : (c.bulkEnd st).Frame [] K d)
    (hk : ¬ K (CARDER.BULK_STATUS_STATE.key 0 0)) : (b.ended d).fld CARDER.BULK_STATUS_STATE = st ∧
      (b.ended d).leaveHeld .ruleLoad = false ∧ (b.ended d).leaveWaiting .ruleLoad = false := by
  have hpower : (b.ended d).power = (c.bulkEnd st).power := (b.ended_power d).trans (h.power (by decide))
  refine ⟨?_, ?_, ?_⟩
  · rw [Chip.ended_fld _ _ _ _ _ (by decide), h.fld _ 0 0 hk, Chip.fld_bulkEnd]
    exact Nat.mod_eq_of_lt hst
  · exact (Chip.leaveHeld_congr hpower).trans (Chip.leaveHeld_releaseLeave _ _)
  · exact (Chip.leaveWaiting_congr hpower).trans (Chip.leaveWaiting_releaseLeave _ _)

/-- An event after the end of a load. -/
theorem Chip.bulkEnd_raise (c : Chip) (st : Nat) (e : Evt) : (c.bulkEnd st).Frame [] (· ∈ [e.key 0]) ((c.bulkEnd st).raise e) :=
  (Chip.Frame.refl _).raise e 0 (by simp)

section
variable {s : State} {p : Port} {v : Word} {rec : List Word}

/-- A record is carried out while the load runs and the power manager does not hold it back (R78). -/
def Chip.bulkRuns (c : Chip) : Bool := c.bulkSt == bkRUNNING && !c.throttled

theorem exec_bulkRecord (r : Option (List Word)) (s : State) : exec (.carderBulkRecord r) s =
    run (fun c => c.whenDue (c.bulkRuns) fun d => d.bulkRecord (r.map fun l => l.map (·.toNat))) s := rfl

theorem Chip.bulkRuns_iff (c : Chip) : c.bulkRuns = true ↔ c.fld CARDER.BULK_STATUS_STATE = 2 ∧ c.throttled = false := by
  rw [Chip.bulkRuns, Bool.and_eq_true, beq_iff_eq, Bool.not_eq_true', Chip.bulkSt]

/-- A record that the power manager does not hold back. -/
theorem ends_bulkRecord {r : Option (List Word)} {ok : Chip → Prop} (h : s.chip.fld CARDER.BULK_STATUS_STATE = 2 ∧ s.chip.throttled = false)
    (hok : ok (s.chip.ended (s.chip.bulkRecord (r.map fun l => l.map (·.toNat))))) : Ends (.carderBulkRecord r) s ok :=
  ends_of_due (exec_bulkRecord r s) (s.chip.bulkRuns_iff.mpr h) hok

theorem idles_bulkRecord {r : Option (List Word)} (h : ¬ (s.chip.fld CARDER.BULK_STATUS_STATE = 2 ∧ s.chip.throttled = false)) :
    Idles (.carderBulkRecord r) s := by
  refine idles_of_not_due (exec_bulkRecord r s) ?_
  rw [← Bool.not_eq_true, Chip.bulkRuns_iff]
  exact h
end

/-! ### GO and ABORT -/

/-- The block as GO leaves it before the request for leave. -/
def Chip.bulkArmed (c : Chip) : Chip :=
  (c.updCarder fun d => { d with bulkLeft := c.fld CARDER.BULK_COUNT_RECORDS }).setFld CARDER.BULK_STATUS_DONE 0

section
variable (c : Chip)

theorem Chip.bulkArmed_frame : c.Frame [.carder] (· ∈ [CARDER.BULK_STATUS_DONE.key 0 0]) c.bulkArmed :=
  ((Chip.Frame.refl c).withCarder _ (by decide)).setFld _ _ 0 0 (by decide)

theorem Chip.fld_bulkArmed : c.bulkArmed.fld CARDER.BULK_STATUS_DONE = 0 := Chip.fld_setFld_self _ _ _ _ _

theorem Chip.leaveAnswer_bulkArmed : c.bulkArmed.leaveAnswer .ruleLoad = c.leaveAnswer .ruleLoad :=
  Chip.leaveAnswer_congr rfl (c.bulkArmed_frame.fld _ _ _ (by decide)) (c.bulkArmed_frame.fld _ _ _ (by decide))
    (c.bulkArmed_frame.fld _ _ _ (by decide)) (c.bulkArmed_frame.fld _ _ _ (by decide))

/-- What holds back GO. -/
def Chip.bulkBusy (c : Chip) : Prop := c.fld CARDER.BULK_STATUS_STATE = 1 ∨ c.fld CARDER.BULK_STATUS_STATE = 2

variable {c} {p : Port}

theorem Chip.bulkGo_refused (h : c.fld CARDER.BANK_STATUS_INIT_DONE = 0 ∨ c.bulkBusy) : c.bulkGo p = c.refuse CARDER.BULK_CMD_GO p := by
  refine if_pos ?_
  rcases h with h | h
  · exact .inl (by rw [Chip.on, h]; rfl)
  · exact .inr h

theorem Chip.bulkGo_impossible (h : c.fld CARDER.BANK_STATUS_INIT_DONE ≠ 0) (hb : ¬ c.bulkBusy) (ha : c.leaveAnswer .ruleLoad = .refused) :
    c.bulkGo p = ((c.bulkArmed.raise EV.POWER_LEAVE_IMPOSSIBLE).setFld CARDER.BULK_STATUS_STATE bkNOLEAVE).raise EV.CARDER_BULK_ERROR := by
  have hon : c.on CARDER.BANK_STATUS_INIT_DONE = true := bne_iff_ne.mpr h
  rw [← c.leaveAnswer_bulkArmed] at ha
  rw [← Chip.requestLeave_refused ha]
  refine (if_neg ?_).trans ?_
  · rw [hon]
    exact not_or.mpr ⟨by decide, hb⟩
  · rw [Chip.bulkArmed] at ha
    dsimp only
    rw [ha, Chip.bulkArmed]

theorem Chip.bulkGo_queued (h : c.fld CARDER.BANK_STATUS_INIT_DONE ≠ 0) (hb : ¬ c.bulkBusy) (ha : c.leaveAnswer .ruleLoad = .queued) :
    c.bulkGo p = (c.bulkArmed.requestLeave .ruleLoad).setFld CARDER.BULK_STATUS_STATE bkLEAVE := by
  have hon : c.on CARDER.BANK_STATUS_INIT_DONE = true := bne_iff_ne.mpr h
  rw [← c.leaveAnswer_bulkArmed] at ha
  refine (if_neg ?_).trans ?_
  · rw [hon]
    exact not_or.mpr ⟨by decide, hb⟩
  · rw [Chip.bulkArmed] at ha
    dsimp only
    rw [ha, Chip.bulkArmed]

theorem Chip.bulkAbort_busy (hb : c.bulkBusy) : c.bulkAbort = c.bulkEnd bkABORTED := if_pos hb
theorem Chip.bulkAbort_idle (hb : ¬ c.bulkBusy) : c.bulkAbort = c := if_neg hb
end

/-- The words GO and ABORT, by the bits of the word. -/
theorem Chip.bulkCmd_go (c : Chip) (p : Port) {v : Nat} (h : v % 4 = 1) : c.bulkCmd p v = c.bulkGo p := by
  have h0 : bitsOf v 0 0 = 1 := by simp only [bitsOf]; omega
  have h1 : bitsOf v 1 1 = 0 := by simp only [bitsOf]; omega
  rw [Chip.bulkCmd, h0, h1]
  rfl

theorem Chip.bulkCmd_abort (c : Chip) (p : Port) {v : Nat} (h : v % 4 = 2) : c.bulkCmd p v = c.bulkAbort := by
  have h0 : bitsOf v 0 0 = 0 := by simp only [bitsOf]; omega
  have h1 : bitsOf v 1 1 = 1 := by simp only [bitsOf]; omega
  rw [Chip.bulkCmd, h0, h1]
  rfl

section
variable {s : State} {p : Port} {v : Word} {rec : List Word}

theorem Chip.bulkImpossible_frame (c : Chip) : c.bulkArmed.Frame []
    (· ∈ [EV.POWER_LEAVE_IMPOSSIBLE.key 0, CARDER.BULK_STATUS_STATE.key 0 0, EV.CARDER_BULK_ERROR.key 0])
    (((c.bulkArmed.raise EV.POWER_LEAVE_IMPOSSIBLE).setFld CARDER.BULK_STATUS_STATE bkNOLEAVE).raise EV.CARDER_BULK_ERROR) :=
  (((Chip.Frame.refl _).raise _ 0 (by decide)).setFld _ _ 0 0 (by decide)).raise _ 0 (by decide)

/-- A load for which there can be no leave. -/
theorem bulkGo_impossible_ended (b c : Chip) :
    let d := b.ended (((c.bulkArmed.raise EV.POWER_LEAVE_IMPOSSIBLE).setFld CARDER.BULK_STATUS_STATE bkNOLEAVE).raise EV.CARDER_BULK_ERROR)
    d.carder.bulkLeft = c.fld CARDER.BULK_COUNT_RECORDS ∧ d.fld CARDER.BULK_STATUS_DONE = 0 ∧ d.fld CARDER.BULK_STATUS_STATE = 6 ∧
      d.power.waiting = c.power.waiting ∧ c.Tells d EV.CARDER_BULK_ERROR ∧ c.Tells d EV.POWER_LEAVE_IMPOSSIBLE := by
  have harmed := c.bulkArmed_frame
  have hframe := c.bulkImpossible_frame
  refine ⟨?_, ?_, ?_, ?_, ?_, ?_⟩
  · rw [Chip.ended_carder, hframe.carder (by decide)]
    rfl
  · rw [Chip.ended_fld _ _ _ _ _ (by decide), hframe.fld _ 0 0 (by decide), Chip.fld_bulkArmed]
  · rw [Chip.ended_fld _ _ _ _ _ (by decide), Chip.fld_raise_ne _ _ _ _ _ _ (by decide), Chip.fld_setFld_self]
    rfl
  · rw [Chip.ended_power, hframe.power (by decide), harmed.power (by decide)]
  · have hmid : c.Frame [.carder] (· ∈ [CARDER.BULK_STATUS_DONE.key 0 0, EV.POWER_LEAVE_IMPOSSIBLE.key 0, CARDER.BULK_STATUS_STATE.key 0 0])
        ((c.bulkArmed.raise EV.POWER_LEAVE_IMPOSSIBLE).setFld CARDER.BULK_STATUS_STATE bkNOLEAVE) :=
      ((harmed.mono (by decide) (by simp)).raise _ 0 (by decide)).setFld _ _ 0 0 (by decide)
    exact (hmid.tells_raise _ 0 (by decide) (by decide)).ended (by decide)
  · exact ((((Chip.Frame.refl (S := []) (K := (· ∈ [CARDER.BULK_STATUS_STATE.key 0 0, EV.CARDER_BULK_ERROR.key 0])) _).setFld _ _ 0 0
      (by decide)).raise _ 0 (by decide)).tells (harmed.tells_raise _ 0 (by decide) (by decide)) (by decide)).ended (by decide)

/-- A load that waits for leave. -/
theorem bulkGo_queued_ended (b c : Chip) (ha : c.leaveAnswer .ruleLoad = .queued) :
    let d := b.ended ((c.bulkArmed.requestLeave .ruleLoad).setFld CARDER.BULK_STATUS_STATE bkLEAVE)
    d.carder.bulkLeft = c.fld CARDER.BULK_COUNT_RECORDS ∧ d.fld CARDER.BULK_STATUS_DONE = 0 ∧ d.fld CARDER.BULK_STATUS_STATE = 1 ∧
      d.leaveWaiting .ruleLoad = true := by
  rw [← c.leaveAnswer_bulkArmed] at ha
  have hwait := Chip.leaveWaiting_requestLeave ha rfl
  rw [Chip.requestLeave_queued ha rfl] at hwait ⊢
  refine ⟨?_, ?_, ?_, ?_⟩
  · rw [Chip.ended_carder]
    rfl
  · rw [Chip.ended_fld _ _ _ _ _ (by decide), Chip.fld_setFld_ne _ _ _ _ _ _ _ _ (by decide)]
    exact c.fld_bulkArmed
  · rw [Chip.ended_fld _ _ _ _ _ (by decide), Chip.fld_setFld_self]
    rfl
  · rw [Chip.leaveWaiting_congr (Chip.ended_power _ _)]
    exact hwait

/-- The registers of a record with a head of one word of the exact table. -/
theorem Chip.bulkApply_one {c : Chip} {r : List Nat} (ht : bitsOf (r.getD 0 0) 2 0 = 0) (hc : bitsOf (r.getD 1 0) 11 8 = 1)
    (hf : bitsOf (r.getD 1 0) 5 0 < 8) :
    c.bulkApply r = c.bulkWord .exact (bitsOf (r.getD 0 0) 3 3) (bitsOf (r.getD 0 0) 24 8) (bitsOf (r.getD 1 0) 5 0) (r.getD 2 0) := by
  have hhead : ¬ (bitsOf (r.getD 1 0) 11 8 = 0 ∨ 8 < bitsOf (r.getD 1 0) 11 8 ∨
      Tbl.exact.words < bitsOf (r.getD 1 0) 5 0 + bitsOf (r.getD 1 0) 11 8) := by
    have hwords : Tbl.exact.words = 8 := rfl
    omega
  rw [Chip.bulkApply_eq (by rw [ht]; rfl), if_neg hhead, Chip.bulkWords, hc]
  rfl

/-- A head that is not good: the record is skipped and counted. -/
theorem Chip.bulkApply_bad {c : Chip} {r : List Nat}
    (h : 5 < bitsOf (r.getD 0 0) 2 0 ∨ bitsOf (r.getD 1 0) 11 8 = 0 ∨ 8 < bitsOf (r.getD 1 0) 11 8) :
    c.bulkApply r = c.bump CARDER.BULK_REFUSED_COUNT := by
  cases ht : recordTable (bitsOf (r.getD 0 0) 2 0) with
  | none => exact Chip.bulkApply_none ht
  | some t =>
    rw [Chip.bulkApply_eq ht]
    refine if_pos ?_
    rcases h with h | h | h
    · have hnone : recordTable (bitsOf (r.getD 0 0) 2 0) = none := by
        obtain ⟨m, hm⟩ := Nat.exists_eq_add_of_le h
        rw [hm, Nat.add_comm]
        rfl
      rw [hnone] at ht
      cases ht
    · exact .inl h
    · exact .inr (.inl h)

/-- Word `w` below 7 of a live entry is refused. -/
theorem Chip.writeCause_live {c : Chip} {b i w v : Nat} (h7 : (c.exactW i 7).testBit 0 = true)
    (hb : (c.exactW i 7).testBit (1 + c.activeBank) = true) (hlt : w < 7) (hi : i < 131072) (hinit : c.on CARDER.BANK_STATUS_INIT_DONE = true) :
    c.writeCause .exact b i w v = 3 := by
  have hmem : ([0, 1].any fun b => memberIn false (c.exactW i 7) b && c.bankLive b) = true := by
    have hbank : c.activeBank = 0 ∨ c.activeBank = 1 := Nat.mod_two_eq_zero_or_one c.epoch
    have hlive : c.bankLive c.activeBank = true := by rw [Chip.bankLive, beq_self_eq_true, Bool.true_or]
    have hin : memberIn false (c.exactW i 7) c.activeBank = true := by rw [memberIn, h7, hb]; rfl
    refine List.any_eq_true.mpr ⟨c.activeBank, ?_, by rw [hin, hlive]; rfl⟩
    rcases hbank with h | h <;> rw [h] <;> decide
  have hplace : ¬ (Tbl.exact.entries ≤ i ∨ Tbl.exact.words ≤ w) := by
    have he : Tbl.exact.entries = 131072 := rfl
    have hw : Tbl.exact.words = 8 := rfl
    omega
  have hlast : (w == 7) = false := beq_eq_false_iff_ne.mpr (by omega)
  unfold Chip.writeCause
  rw [hinit, if_neg (by decide), if_neg hplace]
  dsimp only
  rw [hlast, if_pos (by decide), if_pos rfl]
  exact if_pos hmem
end

/-- An accepted word reads back by its assigned bits. -/
theorem Chip.exactW_acceptWord (c : Chip) (b i w v : Nat) :
    (c.acceptWord .exact b i w v).exactW i w = v &&& Tbl.exact.mask i w := by
  rw [Chip.exactW]
  exact Tab.get_put_self _ _ _ _

/-- What the refusal of a word of the rule window says. -/
theorem Chip.refusedWord_says (c : Chip) {off : Nat} (ho : off < 4096) :
    let d := ((c.bump CARDER.BULK_REFUSED_COUNT).errcnt PageCls.rulewin.base off .bar0).raise EV.CARDER_WRITE_REFUSED
    c.Counts d CARDER.BULK_REFUSED_COUNT ∧ c.Tells d EV.CARDER_WRITE_REFUSED ∧ d.carder = c.carder ∧
      c.Counted d PageCls.rulewin.base off .bar0 := by
  have hbump : c.Frame [] (· ∈ [CARDER.BULK_REFUSED_COUNT.key 0 0]) (c.bump CARDER.BULK_REFUSED_COUNT) :=
    (Chip.Frame.refl c).bump _ 0 0 (by decide)
  have herr : (c.bump CARDER.BULK_REFUSED_COUNT).Frame [] (· ∈ errKeys PageCls.rulewin.base)
      ((c.bump CARDER.BULK_REFUSED_COUNT).errcnt PageCls.rulewin.base off .bar0) := (Chip.Frame.refl _).errcnt _ _ _ fun _ h => h
  have hraise (d : Chip) : d.Frame [] (· ∈ [EV.CARDER_WRITE_REFUSED.key 0]) (d.raise EV.CARDER_WRITE_REFUSED) :=
    (Chip.Frame.refl d).raise _ 0 (by decide)
  have hboth := (hbump.mono (List.Subset.refl _) (L := (· ∈ CARDER.BULK_REFUSED_COUNT.key 0 0 :: errKeys PageCls.rulewin.base))
    (by decide)).andThen herr (List.Subset.refl _) (by decide)
  refine ⟨?_, hboth.tells_raise _ 0 (by decide) (by decide), ?_, ?_⟩
  · rw [Chip.Counts, (hraise _).fld _ 0 0 (by decide), herr.fld _ 0 0 (by decide)]
    exact c.counts_bump _ 0
  · exact ((hraise _).carder (by decide)).trans (hboth.carder (by decide))
  · exact (hraise _).keepsCounted (by decide) (hbump.counted (by decide) (Chip.counted_errcnt _ _ _ _ ho))

/-- Settles O40: GO, ABORT and a record, each by what it leaves of the load. -/
theorem ruleBulkLoad : Obligations.RuleBulkLoad := by
  unfold Obligations.RuleBulkLoad
  intro s p v rec c st busy given lift run going
  refine ⟨fun hopen hv => ⟨fun hno => ?_, fun hinit hfree => ?_⟩, fun hopen hv => ⟨fun hbusy => ?_, fun hfree => ?_⟩, fun hgo => ?_,
      fun hgo => ?_, ?_,
    fun hno => ⟨idles_bulkRecord hno, idles_bulkRecord hno⟩⟩
  · have hgo : c.accessField p CARDER.BULK_CMD_GO 0 (fun d => d.bulkCmd p v.toNat) =
        c.errcnt PageCls.carder.base CARDER.BULK_CMD_GO.off p :=
      (c.accessField_open hopen _).trans ((c.bulkCmd_go p hv).trans (Chip.bulkGo_refused hno))
    exact setsRegs_of_counted rfl hgo (by decide)
  · refine ends_of_access (g := fun d => d.bulkCmd p v.toNat) (r := CARDER.BULK_CMD_GO) rfl hopen ?_
    rw [Chip.bulkCmd_go _ _ hv]
    cases ha : c.leaveAnswer .ruleLoad with
    | granted => exact absurd ha (Chip.leaveAnswer_ne_granted rfl)
    | refused =>
      rw [Chip.bulkGo_impossible hinit hfree ha]
      obtain ⟨hleft, hdone, hst, hwait, herr, himp⟩ := bulkGo_impossible_ended c c
      exact ⟨hleft, hdone, fun _ => ⟨hst, hwait, herr, himp⟩, nofun⟩
    | queued =>
      rw [Chip.bulkGo_queued hinit hfree ha]
      obtain ⟨hleft, hdone, hst, hwait⟩ := bulkGo_queued_ended c c ha
      exact ⟨hleft, hdone, nofun, fun _ => ⟨hst, hwait⟩⟩
  · refine ends_of_access (g := fun d => d.bulkCmd p v.toNat) (r := CARDER.BULK_CMD_GO) rfl hopen ?_
    rw [Chip.bulkCmd_abort _ _ hv, Chip.bulkAbort_busy hbusy]
    obtain ⟨hst, hheld, hwait⟩ := c.bulkEnd_ended (K := fun _ => False) (by decide) (.refl (c.bulkEnd bkABORTED)) id
    exact ⟨hst, ⟨hheld, hwait⟩, (c.ended_carder _).trans ((c.bulkEnd_frame _).carder (by decide))⟩
  · refine idles_of_access (g := fun d => d.bulkCmd p v.toNat) (r := CARDER.BULK_CMD_GO) rfl hopen ?_
    rw [Chip.bulkCmd_abort _ _ hv, Chip.bulkAbort_idle hfree]
  · refine ends_bulkRecord hgo ?_
    obtain ⟨hst, hheld, hwait⟩ := c.bulkEnd_ended (by decide) (c.bulkEnd_raise bkERROR EV.CARDER_BULK_ERROR) (by decide)
    exact ⟨hst, ⟨hheld, hwait⟩, ((c.bulkEnd_frame _).tells_raise _ 0 (by decide) (by decide)).ended (by decide),
      (c.ended_carder _).trans ((c.bulkEnd_raise_frame _ _).carder (by decide))⟩
  · refine ends_bulkRecord hgo ⟨?_, ?_, fun hlast => ?_, fun hmore => ?_⟩
    · exact (congrArg Carder.bulkLeft (c.ended_carder _)).trans (congrArg Carder.bulkLeft (c.bulkRecord_carder lift))
    · exact (c.ended_fld _ _ _ _ (by decide)).trans (c.bulkRecord_done lift)
    · have heq := c.bulkRecord_last lift hlast
      obtain ⟨hst, hheld, hwait⟩ := c.bulkEnd_ended (by decide) ((c.bulkCounted lift).bulkEnd_raise bkDONE EV.CARDER_BULK_DONE) (by decide)
      have htell : c.Tells (((c.bulkCounted lift).bulkEnd bkDONE).raise EV.CARDER_BULK_DONE) EV.CARDER_BULK_DONE :=
        (((c.bulkCounted_frame lift).mono (T := [.carder, .ecc, .power]) (L := (· ∈ CARDER.BULK_STATUS_STATE.key 0 0 ::
          CARDER.BULK_STATUS_DONE.key 0 0 :: bulkKeys)) (by decide) fun _ => List.mem_cons_of_mem _).andThen (Chip.bulkEnd_frame _ _)
          (by decide) (by simp)).tells_raise _ 0 (by decide) (by decide)
      rw [← heq] at hst hheld hwait htell
      exact ⟨hst, ⟨hheld, hwait⟩, htell.ended (by decide)⟩
    · have heq := c.bulkRecord_more lift hmore
      have hframe := c.bulkCounted_frame lift
      rw [← heq] at hframe
      exact ⟨(c.ended_fld _ _ _ _ (by decide)).trans ((hframe.fld _ 0 0 (by decide)).trans hgo.1),
        (c.ended_power _).trans (hframe.power (by decide))⟩
  · intro table count first i
    have hsince := c.bulkRecord_since lift
    have hexact (j w : Nat) : (c.ended (c.bulkRecord (some lift))).exactW j w = (c.bulkApply lift).exactW j w := by
      rw [Chip.exactW, Chip.ended_carder, Chip.bulkRecord_carder, Chip.exactW]
    have hcount : (c.ended (c.bulkRecord (some lift))).fld CARDER.BULK_REFUSED_COUNT = (c.bulkApply lift).fld CARDER.BULK_REFUSED_COUNT :=
      (c.ended_fld _ _ _ _ (by decide)).trans (hsince.fld _ 0 0 (by decide))
    refine ⟨fun hgo hbad => ?_, fun hgo ht hc hi hf hok => ?_, fun hgo ht hc hi hf h7 hb hlt hinit => ?_⟩
    · refine ends_bulkRecord hgo ⟨?_, ?_⟩
      · refine hcount.trans ?_
        rw [Chip.bulkApply_bad hbad]
        exact c.counts_bump _ 0
      · refine (c.ended_carder _).trans ((c.bulkRecord_carder lift).trans ?_)
        rw [Chip.bulkApply_bad hbad]
        rfl
    · have hword := Chip.bulkApply_one (c := c) ht hc hf
      rw [Chip.bulkWord, if_pos (by exact hok)] at hword
      refine ends_bulkRecord hgo ⟨(hexact i first).trans ?_, hcount.trans ?_⟩ <;> rw [hword]
      · exact c.exactW_acceptWord _ _ _ _
      · exact (c.acceptWord_frame (K := fun _ => False)).fld _ 0 0 id
    · have hword := Chip.bulkApply_one (c := c) ht hc hf
      rw [Chip.bulkWord, if_neg (by rw [Chip.writeCause_live h7 hb hlt hi hinit]; decide)] at hword
      obtain ⟨hn, htell, hcarder, herr⟩ := c.refusedWord_says (off := 0x080 + 4 * first) (by omega)
      refine ends_bulkRecord hgo ⟨hcount.trans ?_, ?_, (hexact i first).trans ?_, ?_⟩
      · rw [hword]
        exact hn
      · exact (c.bulkRecord_tells lift (hword ▸ htell)).ended (by decide)
      · rw [hword]
        exact congrArg (fun k : Carder => Tab.get 0 k.exact (8 * i + first)) hcarder
      · exact Chip.Counted.ended (hsince.keepsCounted (by decide) (hword ▸ herr))

end Sys2Proof.Machine
end

section
/-!
PROOF. The rule tables: a switch of the banks (R255, R256), and a write of a table's word, judged (R257, R258), taken or refused.
-/
namespace Sys2Proof.Machine

/-! ### A word of the tables -/

/-- The table itself, and the place of a word in it. -/
def Chip.tbl (c : Chip) : Tbl → Tab Nat
  | .exact => c.carder.exact
  | .tern => c.carder.tern
  | .action => c.carder.action
  | .node => c.carder.nodes
  | .profile => c.carder.profiles
  | .portDef => c.carder.portDef

def Tbl.at (t : Tbl) (b i w : Nat) : Nat :=
  match t with
  | .exact | .action => 8 * i + w
  | .tern => 32 * i + w
  | .node => (256 * b + i) * 64 + w
  | .profile => 8 * b + i
  | .portDef => 256 * b + i

section
variable (c : Chip) (t : Tbl) (b i w v : Nat)

theorem Chip.tblW_eq : c.tblW t b i w = Tab.get 0 (c.tbl t) (t.at b i w) := by
  cases t <;> rfl

theorem Chip.tbl_putTbl_self : (c.putTbl t b i w v).tbl t = Tab.put 0 (c.tbl t) (t.at b i w) (v &&& t.mask i w) := by
  cases t <;> rfl

theorem Chip.tbl_putTbl_ne {u : Tbl} (h : u ≠ t) : (c.putTbl t b i w v).tbl u = c.tbl u := by
  cases t with
  | exact => cases u with
    | exact => exact absurd rfl h
    | _ => rfl
  | tern => cases u with
    | tern => exact absurd rfl h
    | _ => rfl
  | action => cases u with
    | action => exact absurd rfl h
    | _ => rfl
  | node => cases u with
    | node => exact absurd rfl h
    | _ => rfl
  | profile => cases u with
    | profile => exact absurd rfl h
    | _ => rfl
  | portDef => cases u with
    | portDef => exact absurd rfl h
    | _ => rfl

/-- The hit counters, which an accepted word may start again, are none of the six tables. -/
theorem Chip.tbl_hits (u : Tbl) (x : Tab Nat) : (c.updCarder fun d => { d with hits := x }).tbl u = c.tbl u := by
  cases u <;> rfl

theorem Chip.tbl_acceptWord (u : Tbl) : (c.acceptWord t b i w v).tbl u = (c.putTbl t b i w v).tbl u := by
  have hput (d : Chip) (hd : d.tbl u = c.tbl u) : (d.putTbl t b i w v).tbl u = (c.putTbl t b i w v).tbl u := by
    by_cases hu : u = t
    · subst hu
      rw [Chip.tbl_putTbl_self, Chip.tbl_putTbl_self, hd]
    · rw [Chip.tbl_putTbl_ne _ _ _ _ _ _ hu, Chip.tbl_putTbl_ne _ _ _ _ _ _ hu, hd]
  have hsram (d : Chip) (store : Nat) (x : SramWord) : (d.sramWrite store x).tbl u = d.tbl u := by
    cases u <;> rfl
  unfold Chip.acceptWord
  rw [hsram]
  split
  · exact hput _ (c.tbl_hits u _)
  · rfl

/-- An accepted word reads back by its assigned bits (R257). -/
theorem Chip.tblW_acceptWord_self : (c.acceptWord t b i w v).tblW t b i w = v &&& t.mask i w := by
  rw [Chip.tblW_eq, Chip.tbl_acceptWord, Chip.tbl_putTbl_self, Tab.get_put_self]

/-- Two words of one table have two places. -/
theorem Tbl.at_ne {t : Tbl} {b i w b' i' w' : Nat} (h : b' ≠ b ∨ i' ≠ i ∨ w' ≠ w) (hw : w < t.words) (hw' : w' < t.words)
    (hi : i < t.entries) (hi' : i' < t.entries) (hb : t ∈ [.exact, .tern, .action] → b' = b) : t.at b' i' w' ≠ t.at b i w := by
  cases t with
  | exact | tern | action =>
    have hbank := hb (by decide)
    simp only [Tbl.words, Tbl.entries, Tbl.at] at *
    omega
  | node | profile | portDef =>
    simp only [Tbl.words, Tbl.entries, Tbl.at] at *
    omega

theorem Chip.tblW_acceptWord_ne {t u : Tbl} {b' i' w' : Nat} (h : u ≠ t ∨ b' ≠ b ∨ i' ≠ i ∨ w' ≠ w) (hw' : w' < u.words) (hw : w < t.words)
    (hi : i < t.entries) (hb : t ∈ [.exact, .tern, .action] → u = t → b' = b) (hi' : i' < u.entries) :
    (c.acceptWord t b i w v).tblW u b' i' w' = c.tblW u b' i' w' := by
  rw [Chip.tblW_eq, Chip.tblW_eq, Chip.tbl_acceptWord]
  by_cases hu : u = t
  · subst hu
    rw [Chip.tbl_putTbl_self]
    exact Tab.get_put_ne _ _ _ _ (Tbl.at_ne (h.resolve_left fun h => h rfl) hw hw' hi hi' fun hm => hb hm rfl)
  · rw [Chip.tbl_putTbl_ne _ _ _ _ _ _ hu]
end

/-! ### A judged write -/

/-- The cells of a refusal in a window. -/
def judgedKeys (page : Nat) : List Nat :=
  RULEWIN.ENTRY_STATUS_LAST_REFUSED.key 0 0 :: RULEWIN.ENTRY_STATUS_LAST_CAUSE.key 0 0 :: EV.CARDER_WRITE_REFUSED.key 0 :: errKeys page

section
variable {c : Chip} {page off : Nat} {p : Port} {cause : Nat} {f : Chip → Chip}

theorem Chip.judgedWrite_refused (h : cause ≠ 0) : c.judgedWrite page off p cause f =
    (((c.setFld RULEWIN.ENTRY_STATUS_LAST_REFUSED 1).setFld RULEWIN.ENTRY_STATUS_LAST_CAUSE cause).errcnt page off p).raise
      EV.CARDER_WRITE_REFUSED := if_neg h

theorem Chip.judgedWrite_taken (h : cause = 0) : c.judgedWrite page off p cause f = (f c).setFld RULEWIN.ENTRY_STATUS_LAST_REFUSED 0 := if_pos h

/-- What a refused write tells. -/
def Chip.Judged (c d : Chip) (page off : Nat) (p : Port) (cause : Nat) : Prop :=
  d.fld RULEWIN.ENTRY_STATUS_LAST_REFUSED = 1 ∧ d.fld RULEWIN.ENTRY_STATUS_LAST_CAUSE = cause ∧ c.Counted d page off p ∧
    c.Tells d EV.CARDER_WRITE_REFUSED

/-- The two windows' pages keep the registers that a refusal writes apart from their PAGE_ERRCNT. -/
theorem window_keys (h : page = PageCls.rulewin.base ∨ page = PageCls.bankwin.base) :
    RULEWIN.ENTRY_STATUS_LAST_REFUSED.key 0 0 ∉ errKeys page ∧ RULEWIN.ENTRY_STATUS_LAST_CAUSE.key 0 0 ∉ errKeys page ∧
      EV.CARDER_WRITE_REFUSED.key 0 ∉ errKeys page ∧ (Domain.row .core).key 0 0 ∉ errKeys page := by
  rcases h with h | h <;> rw [h] <;> decide

theorem Chip.judged_refused (b : Chip) (hpage : page = PageCls.rulewin.base ∨ page = PageCls.bankwin.base) (ho : off < 4096)
    (hcause : cause < 8) (h : cause ≠ 0) :
    c.Frame [.ecc] (· ∈ judgedKeys page) (c.judgedWrite page off p cause f) ∧
      c.Judged (b.ended (c.judgedWrite page off p cause f)) page off p cause := by
  obtain ⟨hrefused, hlast, hevt, hdom⟩ := window_keys hpage
  rw [Chip.judgedWrite_refused h]
  have hset : c.Frame [] (· ∈ [RULEWIN.ENTRY_STATUS_LAST_REFUSED.key 0 0, RULEWIN.ENTRY_STATUS_LAST_CAUSE.key 0 0])
      ((c.setFld RULEWIN.ENTRY_STATUS_LAST_REFUSED 1).setFld RULEWIN.ENTRY_STATUS_LAST_CAUSE cause) :=
    ((Chip.Frame.refl c).setFld _ _ 0 0 (by decide)).setFld _ _ 0 0 (by decide)
  have herr (d : Chip) : d.Frame [] (· ∈ errKeys page) (d.errcnt page off p) := (Chip.Frame.refl d).errcnt _ _ _ fun _ h => h
  have hraise (d : Chip) : d.Frame [] (· ∈ [EV.CARDER_WRITE_REFUSED.key 0]) (d.raise EV.CARDER_WRITE_REFUSED) :=
    (Chip.Frame.refl d).raise _ 0 (by decide)
  have hboth := (hset.mono (T := [.ecc]) (L := (· ∈ judgedKeys page)) (by decide) (by simp [judgedKeys])).andThen (herr _) (by decide)
    (by simp +contextual [judgedKeys])
  refine ⟨hboth.andThen (hraise _) (by decide) (by simp [judgedKeys]), ?_, ?_, ?_, ?_⟩
  · rw [Chip.ended_fld _ _ _ _ _ (by decide), (hraise _).fld _ 0 0 (by decide), (herr _).fld _ 0 0 hrefused,
      Chip.fld_setFld_ne _ _ _ _ _ _ _ _ (by decide), Chip.fld_setFld_self]
    rfl
  · rw [Chip.ended_fld _ _ _ _ _ (by decide), (hraise _).fld _ 0 0 (by decide), (herr _).fld _ 0 0 hlast, Chip.fld_setFld_self]
    exact Nat.mod_eq_of_lt (hcause.trans_le (by decide))
  · refine Chip.Counted.ended ((hraise _).keepsCounted ?_ (hset.counted ?_ (Chip.counted_errcnt _ _ _ _ ho)))
    · exact fun k hk hm => hevt (List.mem_singleton.mp hm ▸ hk)
    · intro k hk hm
      rcases List.mem_cons.mp hm with rfl | hm
      · exact hrefused hk
      · exact hlast (List.mem_singleton.mp hm ▸ hk)
  · refine (hboth.tells_raise _ 0 (by decide) ?_).ended (by decide)
    simp only [judgedKeys, List.mem_cons, not_or]
    exact ⟨by decide, by decide, by decide, hdom⟩
end

section
variable {i : Instr} {s : State} {r : FieldRow} {g f : Chip → Chip} {p : Port} {page off cause : Nat}

theorem setsRegs_judged (h : exec i s = run (fun c => c.accessField p r 0 g) s) (hopen : s.chip.Open p r.cls 0)
    (hg : g s.chip = s.chip.judgedWrite page off p cause f) (hpage : page = PageCls.rulewin.base ∨ page = PageCls.bankwin.base)
    (ho : off < 4096) (hcause : cause < 8) (hne : cause ≠ 0) :
    SetsRegs i s (judgedKeys page) fun d => s.chip.Judged d page off p cause := by
  obtain ⟨hframe, hsays⟩ := s.chip.judged_refused (c := s.chip) (f := f) (p := p) hpage ho hcause hne
  exact becomes_of_access h hopen (hg ▸ hframe) (hg ▸ hsays)

/-- What a write that is taken leaves: the word, and every other word as it was. -/
def Chip.Takes (c d : Chip) (t : Tbl) (b k x v : Nat) : Prop :=
  d.tblW t b k x = v &&& t.mask k x ∧ d.fld RULEWIN.ENTRY_STATUS_LAST_REFUSED = 0 ∧
    c.KeepsCells d [RULEWIN.ENTRY_STATUS_LAST_REFUSED.key 0 0] ∧
    ∀ t' b' k' x', (t' ≠ t ∨ b' ≠ b ∨ k' ≠ k ∨ x' ≠ x) → x' < t'.words → x < t.words → b' < 2 → k < t.entries →
      (t ∈ [.exact, .tern, .action] → t' = t → b' = b) → k' < t'.entries → d.tblW t' b' k' x' = c.tblW t' b' k' x'

theorem ends_taken {t : Tbl} {b k x v : Nat} (h : exec i s = run (fun c => c.accessField p r 0 g) s) (hopen : s.chip.Open p r.cls 0)
    (hg : g s.chip = s.chip.judgedWrite page off p cause fun d => d.acceptWord t b k x v) (hcause : cause = 0) :
    Ends i s fun d => s.chip.Takes d t b k x v := by
  rw [Chip.judgedWrite_taken hcause] at hg
  refine ends_of_access h hopen ?_
  rw [hg]
  have hframe : (s.chip.acceptWord t b k x v).Frame [] (· ∈ [RULEWIN.ENTRY_STATUS_LAST_REFUSED.key 0 0])
      ((s.chip.acceptWord t b k x v).setFld RULEWIN.ENTRY_STATUS_LAST_REFUSED 0) := (Chip.Frame.refl _).setFld _ _ 0 0 (by decide)
  have htbl (t' : Tbl) (b' k' x' : Nat) : (s.chip.ended ((s.chip.acceptWord t b k x v).setFld RULEWIN.ENTRY_STATUS_LAST_REFUSED 0)).tblW
      t' b' k' x' = (s.chip.acceptWord t b k x v).tblW t' b' k' x' := by
    have hcarder := (s.chip.ended_carder ((s.chip.acceptWord t b k x v).setFld RULEWIN.ENTRY_STATUS_LAST_REFUSED 0)).trans
      (hframe.carder (by decide))
    rw [Chip.tblW_eq, Chip.tblW_eq]
    unfold Chip.tbl
    rw [hcarder]
  refine ⟨(htbl _ _ _ _).trans (Chip.tblW_acceptWord_self _ _ _ _ _ _), ?_, ?_, fun t' b' k' x' hne hx' hx _ hk hb hk' =>
    (htbl _ _ _ _).trans (Chip.tblW_acceptWord_ne _ _ _ _ _ hne hx' hx hk hb hk')⟩
  · rw [Chip.ended_fld _ _ _ _ _ (by decide), Chip.fld_setFld_self]
    rfl
  · exact (Chip.acceptWord_frame.andThen hframe (by decide) fun _ h => h).keepsCells (S := [.carder, .ecc])
end

/-! ### The cause of a refusal (Table 07.9) -/

section
variable {c : Chip} {t : Tbl} {b i w v : Nat}

theorem Chip.on_iff (r : FieldRow) : c.on r = true ↔ c.fld r ≠ 0 := bne_iff_ne

theorem Chip.writeCause_init (h : ¬ c.fld CARDER.BANK_STATUS_INIT_DONE ≠ 0) : c.writeCause t b i w v = 1 := by
  have hoff : c.on CARDER.BANK_STATUS_INIT_DONE = false := Bool.eq_false_iff.mpr fun h' => h (c.on_iff _ |>.mp h')
  unfold Chip.writeCause
  rw [hoff]
  rfl

theorem Chip.writeCause_range (h : c.fld CARDER.BANK_STATUS_INIT_DONE ≠ 0) (hr : t.entries ≤ i ∨ t.words ≤ w) : c.writeCause t b i w v = 2 := by
  unfold Chip.writeCause
  rw [(c.on_iff _).mpr h, if_neg (by decide), if_pos hr]

/-- Past the first two checks, the tables of the banks are judged by the bank alone. -/
theorem Chip.writeCause_bank (h : c.fld CARDER.BANK_STATUS_INIT_DONE ≠ 0) (hr : ¬ (t.entries ≤ i ∨ t.words ≤ w))
    (ht : t ∈ [Tbl.node, .profile, .portDef]) : c.writeCause t b i w v = if c.bankLive b then 5 else 0 := by
  unfold Chip.writeCause
  rw [(c.on_iff _).mpr h, if_neg (by decide), if_neg hr]
  cases t with
  | node | profile | portDef => rfl
  | exact | tern | action => exact absurd ht (by decide)

/-- Past the first two checks, a word of an exact entry below the last. -/
theorem Chip.writeCause_exact (h : c.fld CARDER.BANK_STATUS_INIT_DONE ≠ 0) (hi : i < 131072) (hw : w < 7) : c.writeCause .exact b i w v =
    if [0, 1].any (fun b => memberIn false (c.exactW i 7) b && c.bankLive b) then 3 else 0 := by
  have hr : ¬ (Tbl.exact.entries ≤ i ∨ Tbl.exact.words ≤ w) := by
    simp only [Tbl.entries, Tbl.words]
    omega
  have hlast : (w == 7) = false := beq_eq_false_iff_ne.mpr (by omega)
  unfold Chip.writeCause
  rw [(c.on_iff _).mpr h, if_neg (by decide), if_neg hr]
  dsimp only
  rw [hlast, if_pos rfl]
  rfl

/-- The last word of an exact entry. -/
theorem Chip.writeCause_exact_last (h : c.fld CARDER.BANK_STATUS_INIT_DONE ≠ 0) (hi : i < 131072) (hw : w = 7) :
    c.writeCause .exact b i w v =
    if c.on CARDER.BANK_STATUS_BANK_FREE then 0
    else if memberIn false (c.exactW i 7) (1 - c.activeBank) != memberIn false v (1 - c.activeBank) then 4 else 0 := by
  have hr : ¬ (Tbl.exact.entries ≤ i ∨ Tbl.exact.words ≤ w) := by
    simp only [Tbl.entries, Tbl.words]
    omega
  unfold Chip.writeCause
  rw [(c.on_iff _).mpr h, if_neg (by decide), if_neg hr]
  dsimp only
  rw [beq_iff_eq.mpr hw]
  rfl

/-- Table 07.9 has five causes. -/
theorem Chip.writeCause_lt : c.writeCause t b i w v < 8 := by
  unfold Chip.writeCause
  refine iteInduction (motive := (· < 8)) (fun _ => by decide) fun _ => iteInduction (motive := (· < 8)) (fun _ => by decide) fun _ => ?_
  cases t with
  | exact | tern | action =>
    dsimp only
    split_ifs <;> decide
  | node | profile | portDef =>
    dsimp only
    split_ifs <;> decide

/-- Membership of an exact entry in a bank, as its last word has it. -/
def MemberOf (last b : Nat) : Prop := last.testBit 0 = true ∧ last.testBit (1 + b) = true

theorem memberIn_iff {last : Nat} : memberIn false last b = true ↔ MemberOf last b := by
  rw [memberIn, Bool.false_or, Bool.and_eq_true, MemberOf]

theorem Chip.bankLive_iff : c.bankLive b = true ↔ b = c.fld CARDER.BANK_STATUS_EPOCH % 2 ∨ ¬ c.fld CARDER.BANK_STATUS_BANK_FREE ≠ 0 := by
  rw [Chip.bankLive, Bool.or_eq_true, beq_iff_eq, Bool.not_eq_true', ← Bool.not_eq_true, Chip.on_iff]
  rfl

/-- An entry of a live bank. -/
theorem Chip.any_live_iff {last : Nat} : ([0, 1].any fun b => memberIn false last b && c.bankLive b) = true ↔
    MemberOf last (c.fld CARDER.BANK_STATUS_EPOCH % 2) ∨
      (¬ c.fld CARDER.BANK_STATUS_BANK_FREE ≠ 0 ∧ MemberOf last (1 - c.fld CARDER.BANK_STATUS_EPOCH % 2)) := by
  simp only [List.any_cons, List.any_nil, Bool.or_false, Bool.or_eq_true, Bool.and_eq_true, memberIn_iff, Chip.bankLive_iff]
  rcases Nat.mod_two_eq_zero_or_one (c.fld CARDER.BANK_STATUS_EPOCH) with h | h <;> rw [h]
  · simp only [Nat.sub_zero, true_or, and_true, Nat.one_ne_zero, false_or]
    tauto
  · simp only [Nat.sub_self, true_or, and_true, Nat.zero_ne_one, false_or]
    tauto

/-- What the bank window shows is a word of a table of the banks. -/
theorem Chip.bankAt_some {off k x : Nat} (h : c.bankAt off = some (t, k, x)) : t ∈ [Tbl.node, .profile, .portDef] ∧ x < t.words := by
  unfold Chip.bankAt at h
  split_ifs at h with h1 h2 h3 <;> obtain ⟨rfl, -, rfl⟩ := h
  · exact ⟨by decide, by simp only [Tbl.words]; omega⟩
  · exact ⟨by decide, by decide⟩
  · exact ⟨by decide, by decide⟩

/-- ENTRY_SEL names a table by its code. -/
theorem Chip.selTable_exact (h : c.fld RULEWIN.ENTRY_SEL_TABLE = 0) : c.selTable = some .exact := by
  rw [Chip.selTable, h]
  rfl

theorem Chip.selTable_none (h : c.fld RULEWIN.ENTRY_SEL_TABLE = 3) : c.selTable = none := by
  rw [Chip.selTable, h]
  rfl

theorem Chip.ruleWrite_some {p : Port} (h : c.selTable = some t) : c.ruleWrite p w v = c.judgedWrite PageCls.rulewin.base (0x080 + 4 * w) p
    (c.writeCause t 0 (c.fld RULEWIN.ENTRY_SEL_INDEX) w v) fun d => d.acceptWord t 0 (c.fld RULEWIN.ENTRY_SEL_INDEX) w v := by
  rw [Chip.ruleWrite, h]

theorem Chip.ruleWrite_none {p : Port} (h : c.selTable = none) : c.ruleWrite p w v = c.judgedWrite PageCls.rulewin.base (0x080 + 4 * w) p
    (if c.on CARDER.BANK_STATUS_INIT_DONE then 2 else 1) id := by
  rw [Chip.ruleWrite, h]

theorem Chip.bankWrite_some {p : Port} {off k x : Nat} (h : c.bankAt off = some (t, k, x)) : c.bankWrite p off v =
    c.judgedWrite PageCls.bankwin.base off p (c.writeCause t (c.fld BANKWIN.BANK_SEL_BANK) k x v)
      fun d => d.acceptWord t (c.fld BANKWIN.BANK_SEL_BANK) k x v := by
  rw [Chip.bankWrite, h]
end

/-! ### The writes of the two windows -/

section
variable {s : State} {p : Port} {w : Fin 32} {reg : Fin 1024} {v : Word} {t : Tbl}

/-- A write of ENTRY_WORD whose table exists: taken, or refused for its cause. -/
theorem ruleEntryWrite_taken (hopen : s.chip.Open p .rulewin 0) (ht : s.chip.selTable = some t)
    (h : s.chip.writeCause t 0 (s.chip.fld RULEWIN.ENTRY_SEL_INDEX) w.val v.toNat = 0) :
    Ends (.ruleEntryWrite p w v) s fun d => s.chip.Takes d t 0 (s.chip.fld RULEWIN.ENTRY_SEL_INDEX) w.val v.toNat :=
  ends_taken (r := RULEWIN.ENTRY_WORD_DATA) rfl hopen (Chip.ruleWrite_some ht) h

theorem ruleEntryWrite_refused (hopen : s.chip.Open p .rulewin 0) (ht : s.chip.selTable = some t)
    (h : s.chip.writeCause t 0 (s.chip.fld RULEWIN.ENTRY_SEL_INDEX) w.val v.toNat ≠ 0) :
    SetsRegs (.ruleEntryWrite p w v) s (judgedKeys PageCls.rulewin.base) fun d => s.chip.Judged d PageCls.rulewin.base (0x080 + 4 * w.val) p
      (s.chip.writeCause t 0 (s.chip.fld RULEWIN.ENTRY_SEL_INDEX) w.val v.toNat) :=
  setsRegs_judged (r := RULEWIN.ENTRY_WORD_DATA) rfl hopen (Chip.ruleWrite_some ht) (.inl rfl) (by omega) Chip.writeCause_lt h

theorem ruleEntryWrite_none (hopen : s.chip.Open p .rulewin 0) (ht : s.chip.selTable = none) :
    SetsRegs (.ruleEntryWrite p w v) s (judgedKeys PageCls.rulewin.base) fun d => s.chip.Judged d PageCls.rulewin.base (0x080 + 4 * w.val) p
      (if s.chip.on CARDER.BANK_STATUS_INIT_DONE then 2 else 1) :=
  setsRegs_judged (r := RULEWIN.ENTRY_WORD_DATA) rfl hopen (Chip.ruleWrite_none ht) (.inl rfl) (by omega) (by split <;> decide)
    (by split <;> decide)

theorem exec_bankWindowWrite : exec (.bankWindowWrite p reg v) s = run (fun c => c.accessField p BANKWIN.NODE_WORD_DATA 0 fun d =>
    d.whenDue (d.bankAt (4 * reg.val)).isSome fun e => e.bankWrite p (4 * reg.val) v.toNat) s := rfl

theorem bankWindow_due {k x : Nat} (h : s.chip.bankAt (4 * reg.val) = some (t, k, x)) :
    (s.chip.whenDue (s.chip.bankAt (4 * reg.val)).isSome fun e => e.bankWrite p (4 * reg.val) v.toNat) = s.chip.judgedWrite PageCls.bankwin.base
      (4 * reg.val) p (s.chip.writeCause t (s.chip.fld BANKWIN.BANK_SEL_BANK) k x v.toNat)
      fun d => d.acceptWord t (s.chip.fld BANKWIN.BANK_SEL_BANK) k x v.toNat := by
  rw [Chip.whenDue_true _ _ (by rw [h]; rfl), Chip.bankWrite_some h]

theorem bankWindowWrite_taken {k x : Nat} (hopen : s.chip.Open p .bankwin 0) (ht : s.chip.bankAt (4 * reg.val) = some (t, k, x))
    (h : s.chip.writeCause t (s.chip.fld BANKWIN.BANK_SEL_BANK) k x v.toNat = 0) :
    Ends (.bankWindowWrite p reg v) s fun d => s.chip.Takes d t (s.chip.fld BANKWIN.BANK_SEL_BANK) k x v.toNat :=
  ends_taken exec_bankWindowWrite hopen (bankWindow_due ht) h

theorem bankWindowWrite_refused {k x : Nat} (hopen : s.chip.Open p .bankwin 0) (ht : s.chip.bankAt (4 * reg.val) = some (t, k, x))
    (h : s.chip.writeCause t (s.chip.fld BANKWIN.BANK_SEL_BANK) k x v.toNat ≠ 0) :
    SetsRegs (.bankWindowWrite p reg v) s (judgedKeys PageCls.bankwin.base) fun d => s.chip.Judged d PageCls.bankwin.base (4 * reg.val) p
      (s.chip.writeCause t (s.chip.fld BANKWIN.BANK_SEL_BANK) k x v.toNat) :=
  setsRegs_judged exec_bankWindowWrite hopen (bankWindow_due ht) (.inr rfl) (by omega) Chip.writeCause_lt h
end

/-! ### The switch of the banks (R256) -/

/-- The cells of a switch that is refused, and of one that is accepted. -/
def switchRefusedKeys : List Nat :=
  CARDER.BANK_STATUS_LAST_REFUSE.key 0 0 :: EV.CARDER_WRITE_REFUSED.key 0 :: errKeys PageCls.carder.base
def switchKeys : List Nat :=
  [CARDER.BANK_STATUS_EPOCH.key 0 0, CARDER.BANK_STATUS_ACTIVE.key 0 0, CARDER.BANK_STATUS_BANK_FREE.key 0 0,
    CARDER.BANK_SWITCHES_COUNT.key 0 0, EV.CARDER_BANK_SWITCHED.key 0]

/-- The block after an accepted switch, before the bank left is looked at. -/
def Chip.switched (c : Chip) : Chip :=
  let e := (c.epoch + 1) % 65536
  let c := (c.setFld CARDER.BANK_STATUS_EPOCH e).setFld CARDER.BANK_STATUS_ACTIVE (e % 2)
  ((c.setFld CARDER.BANK_STATUS_BANK_FREE 0).bump CARDER.BANK_SWITCHES_COUNT).raise EV.CARDER_BANK_SWITCHED

section
variable {c : Chip} {p : Port} {v : Nat}

theorem Chip.bankSwitch_eq (c : Chip) : c.bankSwitch = if c.switched.otherEmpty then c.switched.bankFree else c.switched := rfl

theorem Chip.switched_frame (c : Chip) : c.Frame [.ecc] (· ∈ switchKeys) c.switched :=
  (((((Chip.Frame.refl c).setFld _ _ 0 0 (by decide)).setFld _ _ 0 0 (by decide)).setFld _ _ 0 0 (by decide)).bump _ 0 0 (by decide)).raise
    _ 0 (by decide)

theorem Chip.bankFree_frame (c : Chip) :
    c.Frame [.ecc] (· ∈ [CARDER.BANK_STATUS_BANK_FREE.key 0 0, EV.CARDER_BANK_FREE.key 0]) c.bankFree :=
  ((Chip.Frame.refl c).setFld _ _ 0 0 (by decide)).raise _ 0 (by decide)

theorem Chip.bankSwitch_frame (c : Chip) : c.Frame [.ecc] (· ∈ switchKeys) c.bankSwitch := by
  rw [Chip.bankSwitch_eq]
  exact Chip.Frame.ite (fun _ => c.switched_frame.andThen c.switched.bankFree_frame (by decide) (by decide)) fun _ => c.switched_frame

theorem Chip.fld_switched_epoch : c.switched.fld CARDER.BANK_STATUS_EPOCH = (c.epoch + 1) % 65536 := by
  unfold Chip.switched
  rw [Chip.fld_raise_ne _ _ _ _ _ _ (by decide), Chip.fld_bump_ne (by decide), Chip.fld_setFld_ne _ _ _ _ _ _ _ _ (by decide),
    Chip.fld_setFld_ne _ _ _ _ _ _ _ _ (by decide), Chip.fld_setFld_self]
  exact Nat.mod_mod _ _

theorem Chip.fld_switched_active : c.switched.fld CARDER.BANK_STATUS_ACTIVE = (c.epoch + 1) % 2 := by
  unfold Chip.switched
  rw [Chip.fld_raise_ne _ _ _ _ _ _ (by decide), Chip.fld_bump_ne (by decide), Chip.fld_setFld_ne _ _ _ _ _ _ _ _ (by decide),
    Chip.fld_setFld_self]
  have hw : 2 ^ CARDER.BANK_STATUS_ACTIVE.width = 2 := rfl
  rw [hw]
  omega

theorem Chip.fld_switched_free : c.switched.fld CARDER.BANK_STATUS_BANK_FREE = 0 := by
  unfold Chip.switched
  rw [Chip.fld_raise_ne _ _ _ _ _ _ (by decide), Chip.fld_bump_ne (by decide), Chip.fld_setFld_self]
  rfl

/-- The bank that the switch leaves is the one that was active. -/
theorem Chip.otherEmpty_switched : c.switched.otherEmpty = true ↔ c.fld (inflightRow (c.fld CARDER.BANK_STATUS_EPOCH % 2)) = 0 := by
  have hbank : 1 - c.switched.activeBank = c.fld CARDER.BANK_STATUS_EPOCH % 2 := by
    have hepoch : c.switched.epoch = (c.fld CARDER.BANK_STATUS_EPOCH + 1) % 65536 := Chip.fld_switched_epoch
    rw [Chip.activeBank, hepoch]
    omega
  have hkey : ∀ b : Nat, (inflightRow b).key 0 0 ∉ switchKeys := by
    intro b
    unfold inflightRow
    split <;> decide
  rw [Chip.otherEmpty, hbank, beq_iff_eq, c.switched_frame.fld _ 0 0 (hkey _)]

theorem Chip.fld_bankFree (c : Chip) : c.bankFree.fld CARDER.BANK_STATUS_BANK_FREE = 1 := by
  rw [Chip.bankFree, Chip.fld_raise_ne _ _ _ _ _ _ (by decide), Chip.fld_setFld_self]
  rfl

theorem Chip.fld_bankSwitch_free : c.bankSwitch.fld CARDER.BANK_STATUS_BANK_FREE =
    if c.fld (inflightRow (c.fld CARDER.BANK_STATUS_EPOCH % 2)) = 0 then 1 else 0 := by
  rw [Chip.bankSwitch_eq]
  by_cases h : c.switched.otherEmpty = true
  · rw [if_pos h, if_pos (Chip.otherEmpty_switched.mp h), Chip.fld_bankFree]
  · rw [if_neg h, if_neg fun h' => h (Chip.otherEmpty_switched.mpr h'), Chip.fld_switched_free]

/-- Another field of an accepted switch. -/
theorem Chip.fld_bankSwitch_ne {r : FieldRow} (h : r.key 0 0 ∉ [CARDER.BANK_STATUS_BANK_FREE.key 0 0, EV.CARDER_BANK_FREE.key 0]) :
    c.bankSwitch.fld r = c.switched.fld r := by
  rw [Chip.bankSwitch_eq]
  split
  · exact c.switched.bankFree_frame.fld r 0 0 h
  · rfl

theorem Chip.tells_bankSwitch : c.Tells c.bankSwitch EV.CARDER_BANK_SWITCHED := by
  have hswitched : c.Tells c.switched EV.CARDER_BANK_SWITCHED := by
    have hset : c.Frame [] (· ∈ switchKeys) ((((c.setFld CARDER.BANK_STATUS_EPOCH ((c.epoch + 1) % 65536)).setFld CARDER.BANK_STATUS_ACTIVE
        ((c.epoch + 1) % 65536 % 2)).setFld CARDER.BANK_STATUS_BANK_FREE 0).bump CARDER.BANK_SWITCHES_COUNT) :=
      ((((Chip.Frame.refl c).setFld _ _ 0 0 (by decide)).setFld _ _ 0 0 (by decide)).setFld _ _ 0 0 (by decide)).bump _ 0 0 (by decide)
    exact hset.tells_raise _ 0 (by decide) (by decide)
  have hfree : c.switched.Frame [] (· ∈ [CARDER.BANK_STATUS_BANK_FREE.key 0 0]) (c.switched.setFld CARDER.BANK_STATUS_BANK_FREE 1) :=
    (Chip.Frame.refl _).setFld _ _ 0 0 (by decide)
  rw [Chip.bankSwitch_eq]
  split
  · exact (hfree.tells hswitched (by decide)).raise (by decide) _ 0
  · exact hswitched

theorem Chip.counts_bankSwitch : c.Counts c.bankSwitch CARDER.BANK_SWITCHES_COUNT := by
  rw [Chip.Counts, Chip.fld_bankSwitch_ne (by decide)]
  unfold Chip.switched
  rw [Chip.fld_raise_ne _ _ _ _ _ _ (by decide), Chip.fld_bump_self, Chip.fld_setFld_ne _ _ _ _ _ _ _ _ (by decide),
    Chip.fld_setFld_ne _ _ _ _ _ _ _ _ (by decide), Chip.fld_setFld_ne _ _ _ _ _ _ _ _ (by decide)]

/-! The cause of a refusal. -/

theorem Chip.switchCause_key (h : ¬ bitsOf v 31 24 = 0xCB) : c.switchCause v = 1 := if_pos h

theorem Chip.switchCause_init (h : bitsOf v 31 24 = 0xCB) (hi : ¬ c.fld CARDER.BANK_STATUS_INIT_DONE ≠ 0) : c.switchCause v = 4 := by
  have hoff : c.on CARDER.BANK_STATUS_INIT_DONE = false := Bool.eq_false_iff.mpr fun h' => hi (c.on_iff _ |>.mp h')
  rw [Chip.switchCause, if_neg (not_not.mpr h), hoff]
  rfl

theorem Chip.switchCause_eq (h : bitsOf v 31 24 = 0xCB) (hi : c.fld CARDER.BANK_STATUS_INIT_DONE ≠ 0) : c.switchCause v =
    if bitsOf v 15 0 ≠ c.fld CARDER.BANK_STATUS_EPOCH then 2 else if c.fld CARDER.BANK_STATUS_BANK_FREE ≠ 0 then 0 else 3 := by
  rw [Chip.switchCause, if_neg (not_not.mpr h), (c.on_iff _).mpr hi, if_neg (by decide), Chip.epoch]
  split
  · rfl
  · by_cases hf : c.fld CARDER.BANK_STATUS_BANK_FREE ≠ 0
    · rw [(c.on_iff _).mpr hf, if_pos hf, if_neg (by decide)]
    · rw [Bool.eq_false_iff.mpr fun h' => hf (c.on_iff _ |>.mp h'), if_neg hf]
      rfl

theorem bitsOf_bit (v k : Nat) : bitsOf v k k = (v.testBit k).toNat := by
  rw [Nat.toNat_testBit, bitsOf, Nat.sub_self, Nat.shiftRight_eq_div_pow, Nat.zero_add, Nat.pow_one]

theorem bitsOf_of_testBit {k : Nat} (h : v.testBit k = true) : bitsOf v k k ≠ 0 := by
  rw [bitsOf_bit, h]
  decide

theorem Chip.bankCmd_idle (h : v.testBit 16 = false) : c.bankCmd p v = c :=
  if_pos (by rw [bitsOf_bit, h]; rfl)

theorem Chip.bankCmd_switch (h : v.testBit 16 = true) (hc : c.switchCause v = 0) : c.bankCmd p v = c.bankSwitch := by
  refine (if_neg (bitsOf_of_testBit h)).trans ?_
  exact if_pos hc

theorem Chip.bankCmd_refused {cause : Nat} (h : v.testBit 16 = true) (hc : c.switchCause v = cause) (hne : cause ≠ 0) :
    c.bankCmd p v = ((c.setFld CARDER.BANK_STATUS_LAST_REFUSE cause).refuse CARDER.BANK_CMD_SWITCH p).raise EV.CARDER_WRITE_REFUSED := by
  refine (if_neg (bitsOf_of_testBit h)).trans ?_
  dsimp only
  rw [hc]
  exact if_neg hne
end

section
variable {s : State} {p : Port} {v : Word}

/-- A switch that is refused tells its cause. -/
theorem bankSwitch_refused {cause : Nat} (hopen : s.chip.Open p .carder 0) (h : v.toNat.testBit 16 = true)
    (hc : s.chip.switchCause v.toNat = cause) (hne : cause ≠ 0) (hlt : cause < 8) :
    SetsRegs (.bankSwitch p v) s switchRefusedKeys fun d => d.fld CARDER.BANK_STATUS_LAST_REFUSE = cause ∧
      s.chip.Counted d PageCls.carder.base CARDER.BANK_CMD_SWITCH.off p ∧ s.chip.Tells d EV.CARDER_WRITE_REFUSED := by
  have hset : s.chip.Frame [] (· ∈ [CARDER.BANK_STATUS_LAST_REFUSE.key 0 0]) (s.chip.setFld CARDER.BANK_STATUS_LAST_REFUSE cause) :=
    (Chip.Frame.refl _).setFld _ _ 0 0 (by decide)
  have herr (d : Chip) : d.Frame [] (· ∈ errKeys PageCls.carder.base) (d.refuse CARDER.BANK_CMD_SWITCH p) :=
    (Chip.Frame.refl d).errcnt _ _ _ fun _ h => h
  have hraise (d : Chip) : d.Frame [] (· ∈ [EV.CARDER_WRITE_REFUSED.key 0]) (d.raise EV.CARDER_WRITE_REFUSED) :=
    (Chip.Frame.refl d).raise _ 0 (by decide)
  have hboth := (hset.mono (T := [.ecc]) (L := (· ∈ switchRefusedKeys)) (by decide) (by decide)).andThen (herr _) (by decide) (by decide)
  refine becomes_of_access (r := CARDER.BANK_CMD_SWITCH) (g := fun d => d.bankCmd p v.toNat) rfl hopen ?_ ?_ <;> rw [Chip.bankCmd_refused h hc hne]
  · exact hboth.andThen (hraise _) (by decide) (by decide)
  · refine ⟨?_, ?_, (hboth.tells_raise _ 0 (by decide) (by decide)).ended (by decide)⟩
    · rw [Chip.ended_fld _ _ _ _ _ (by decide), (hraise _).fld _ 0 0 (by decide), (herr _).fld _ 0 0 (by decide), Chip.fld_setFld_self]
      exact Nat.mod_eq_of_lt (hlt.trans_le (by decide))
    · exact Chip.Counted.ended ((hraise _).keepsCounted (by decide) (hset.counted (by decide) (Chip.counted_errcnt _ _ _ _ (by decide))))

/-- A switch that is accepted. -/
theorem bankSwitch_accepted (hopen : s.chip.Open p .carder 0) (h : v.toNat.testBit 16 = true) (hc : s.chip.switchCause v.toNat = 0) :
    SetsRegs (.bankSwitch p v) s switchKeys fun d =>
      d.fld CARDER.BANK_STATUS_EPOCH = (s.chip.fld CARDER.BANK_STATUS_EPOCH + 1) % 65536 ∧
      d.fld CARDER.BANK_STATUS_ACTIVE = (s.chip.fld CARDER.BANK_STATUS_EPOCH + 1) % 2 ∧
      d.fld CARDER.BANK_STATUS_BANK_FREE = (if s.chip.fld (inflightRow (s.chip.fld CARDER.BANK_STATUS_EPOCH % 2)) = 0 then 1 else 0) ∧
      s.chip.Counts d CARDER.BANK_SWITCHES_COUNT ∧ s.chip.Tells d EV.CARDER_BANK_SWITCHED := by
  refine becomes_of_access (r := CARDER.BANK_CMD_SWITCH) (g := fun d => d.bankCmd p v.toNat) rfl hopen ?_ ?_ <;> rw [Chip.bankCmd_switch h hc]
  · exact s.chip.bankSwitch_frame
  · refine ⟨?_, ?_, ?_, ?_, Chip.tells_bankSwitch.ended (by decide)⟩
    · exact (Chip.ended_fld _ _ _ _ _ (by decide)).trans ((Chip.fld_bankSwitch_ne (by decide)).trans Chip.fld_switched_epoch)
    · exact (Chip.ended_fld _ _ _ _ _ (by decide)).trans ((Chip.fld_bankSwitch_ne (by decide)).trans Chip.fld_switched_active)
    · exact (Chip.ended_fld _ _ _ _ _ (by decide)).trans Chip.fld_bankSwitch_free
    · exact (Chip.ended_fld _ _ _ _ _ (by decide)).trans Chip.counts_bankSwitch
end

/-- Settles O39: the switch by its four causes, and each write of a table's word by Table 07.9. -/
theorem ruleTables : Obligations.RuleTables := by
  unfold Obligations.RuleTables
  refine ⟨?_, ?_⟩
  · intro s p v c page epoch key init fits free refused
    refine ⟨fun hopen hbit => ⟨fun hk => ?_, fun hk hi => ?_, fun hk hi hf => ?_, fun hk hi hf hn => ?_, fun hk hi hf hn => ?_⟩,
      fun hopen hbit => ?_, fun hn he => ?_, fun hidle => ?_⟩
    · exact bankSwitch_refused hopen hbit (Chip.switchCause_key hk) (by decide) (by decide)
    · exact bankSwitch_refused hopen hbit (Chip.switchCause_init hk hi) (by decide) (by decide)
    · exact bankSwitch_refused hopen hbit ((Chip.switchCause_eq hk hi).trans (if_pos hf)) (by decide) (by decide)
    · exact bankSwitch_refused hopen hbit ((Chip.switchCause_eq hk hi).trans ((if_neg (not_not.mpr hf)).trans (if_neg hn))) (by decide) (by decide)
    · exact bankSwitch_accepted hopen hbit ((Chip.switchCause_eq hk hi).trans ((if_neg (not_not.mpr hf)).trans (if_pos hn)))
    · exact idles_of_access (r := CARDER.BANK_CMD_SWITCH) (g := fun d => d.bankCmd p v.toNat) rfl hopen (Chip.bankCmd_idle hbit)
    · have hdue : (!s.chip.on CARDER.BANK_STATUS_BANK_FREE && s.chip.otherEmpty) = true := by
        rw [Bool.and_eq_true, Bool.not_eq_true', ← Bool.not_eq_true, Chip.on_iff, Chip.otherEmpty, beq_iff_eq]
        exact ⟨hn, he⟩
      refine becomes_of_due (due := fun c => !c.on CARDER.BANK_STATUS_BANK_FREE && c.otherEmpty) (g := Chip.bankFree) rfl hdue
        c.bankFree_frame ⟨?_, ?_⟩
      · exact (Chip.ended_fld _ _ _ _ _ (by decide)).trans c.fld_bankFree
      · have hset : c.Frame [] (· ∈ [CARDER.BANK_STATUS_BANK_FREE.key 0 0]) (c.setFld CARDER.BANK_STATUS_BANK_FREE 1) :=
          (Chip.Frame.refl _).setFld _ _ 0 0 (by decide)
        exact (hset.tells_raise _ 0 (by decide) (by decide)).ended (by decide)
    · refine idles_of_not_due (due := fun c => !c.on CARDER.BANK_STATUS_BANK_FREE && c.otherEmpty) (g := Chip.bankFree) rfl ?_
      rw [← Bool.not_eq_true, Bool.and_eq_true, Bool.not_eq_true', ← Bool.not_eq_true, Chip.on_iff, Chip.otherEmpty, beq_iff_eq]
      exact fun h => hidle.elim h.1 fun hne => hne h.2
  · intro s p w reg v c init active free i refused taken rule old memberOf
    refine ⟨fun hopen => ?_, fun hopen hnone => ?_, fun t k x hopen hat hk => ?_⟩
    · have hrule (t : Tbl) (ht : c.selTable = some t) {cause : Nat} (hc : c.writeCause t 0 i w.val v.toNat = cause) (hne : cause ≠ 0) :
          rule cause := by
        subst hc
        exact ruleEntryWrite_refused hopen ht hne
      have htaken (t : Tbl) (ht : c.selTable = some t) (hc : c.writeCause t 0 i w.val v.toNat = 0) : taken (.ruleEntryWrite p w v) t 0 i w.val :=
        ruleEntryWrite_taken hopen ht hc
      have hnone (ht : c.fld RULEWIN.ENTRY_SEL_TABLE = 3) {cause : Nat}
          (hc : (if c.on CARDER.BANK_STATUS_INIT_DONE then 2 else 1) = cause) : rule cause := by
        subst hc
        exact ruleEntryWrite_none hopen (Chip.selTable_none ht)
      refine ⟨fun hi => ?_, fun hi ht => hnone ht (if_pos ((c.on_iff _).mpr hi)),
          fun t hi ht hr => hrule t ht (Chip.writeCause_range hi hr) (by decide),
        fun hi ht hlt hw => ?_, fun hi ht hlt hw => ?_, fun t _ ht hne => hrule t ht rfl hne, fun t _ ht hc => htaken t ht hc⟩
      · cases ht : c.selTable with
        | some t => exact hrule t ht (Chip.writeCause_init hi) (by decide)
        | none =>
          have hoff : c.on CARDER.BANK_STATUS_INIT_DONE = false := Bool.eq_false_iff.mpr fun h' => hi (c.on_iff _ |>.mp h')
          have hsays := ruleEntryWrite_none (w := w) (v := v) hopen ht
          rw [if_neg (by rw [hoff]; decide)] at hsays
          exact hsays
      · have hcause := Chip.writeCause_exact (c := c) (b := 0) (v := v.toNat) hi hlt hw
        have hsel := Chip.selTable_exact ht
        refine ⟨fun hlive => hrule _ hsel (hcause.trans (if_pos (Chip.any_live_iff.mpr hlive))) (by decide), fun hact hoth =>
          htaken _ hsel (hcause.trans (if_neg fun h => (Chip.any_live_iff.mp h).elim hact fun h => hoth.elim h.1 fun h' => h' h.2))⟩
      · have hcause := Chip.writeCause_exact_last (c := c) (b := 0) (v := v.toNat) hi hlt hw
        have hsel := Chip.selTable_exact ht
        have hkept : (memberIn false old (1 - active) != memberIn false v.toNat (1 - active)) = false ↔
            (MemberOf old (1 - active) ↔ MemberOf v.toNat (1 - active)) := by
          rw [bne_eq_false_iff_eq, Bool.eq_iff_iff, memberIn_iff, memberIn_iff]
        rw [← hw]
        refine ⟨fun hf => htaken _ hsel (hcause.trans (if_pos ((c.on_iff _).mpr hf))), fun hf hm => ?_, fun hf hm => ?_⟩
        · exact htaken _ hsel (hcause.trans ((if_neg fun h => hf ((c.on_iff _).mp h)).trans (if_neg (Bool.not_eq_true _ |>.mpr (hkept.mpr hm)))))
        · refine hrule _ hsel (hcause.trans ((if_neg fun h => hf ((c.on_iff _).mp h)).trans (if_pos ?_))) (by decide)
          exact Bool.not_eq_false _ |>.mp fun h => hm (hkept.mp h)
    · refine idles_of_access exec_bankWindowWrite hopen (Chip.whenDue_false _ _ ?_)
      rw [hnone]
      rfl
    · obtain ⟨ht, hx⟩ := Chip.bankAt_some hat
      intro b bank
      have hbank {cause : Nat} (hc : c.writeCause t b k x v.toNat = cause) (hne : cause ≠ 0) : bank cause := by
        subst hc
        exact bankWindowWrite_refused hopen hat hne
      have hcause (hi : init) := Chip.writeCause_bank (c := c) (b := b) (v := v.toNat) hi (by omega : ¬ (t.entries ≤ k ∨ t.words ≤ x)) ht
      refine ⟨fun hi => hbank (Chip.writeCause_init hi) (by decide), fun hi hlive => hbank ((hcause hi).trans (if_pos ?_)) (by decide),
        fun hi hne hf => bankWindowWrite_taken hopen hat ((hcause hi).trans (if_neg ?_))⟩
      · exact Chip.bankLive_iff.mpr hlive
      · exact fun h => (Chip.bankLive_iff.mp h).elim hne fun h' => h' hf

end Sys2Proof.Machine
end

section
/-!
PROOF. The lanes take passes (R225 to R230): what the start of a pass leaves, and the two dispatchers, lane 11's and the general one.
-/
namespace Sys2Proof.Machine

/-! ### The start of a pass -/

/-- Lane `lane` has begun a pass of packet `q`. -/
def Chip.Begun (c d : Chip) (lane : Nat) (q : Packet) : Prop :=
  d.carder.passes = c.carder.passes ++ [{ pkt := q, lane := lane, stop := c.aon + 6, clk := if lane = 11 then 0 else c.clkNow }] ∧
  (hankFixed q = true → c.Counts d CARDER.HANK_FIXED_COUNT) ∧
  Tab.get 0 d.carder.laneFree lane = c.aon + 1 ∧ d.fld CARDER.PASSES_COUNT = (c.fld CARDER.PASSES_COUNT + 1) % 2 ^ 32

/-- The cells that the start of a pass counts in. -/
def passKeys : List Nat := [CARDER.HANK_FIXED_COUNT.key 0 0, CARDER.PASSES_COUNT.key 0 0]

section
variable {c d e : Chip} {l : Nat} {q : Packet}

/-- The fixed Hank entry, tested as a lane accepts the pass (R229). -/
def Chip.hankTested (c : Chip) (q : Packet) : Chip := if hankFixed q then c.bump CARDER.HANK_FIXED_COUNT else c

/-- The lane and the list of passes after a start. -/
def Chip.passBegun (c : Chip) (l : Nat) (q : Packet) : Chip :=
  c.updCarder fun d => { d with passes := d.passes ++ [{ pkt := q, lane := l, stop := c.aon + 6, clk := if l = 11 then 0 else c.clkNow }],
                                laneFree := Tab.put 0 d.laneFree l (c.aon + 1) }

theorem Chip.startPass_eq (c : Chip) (l : Nat) (q : Packet) :
    c.startPass l q = ((c.hankTested q).passBegun l q).bumpWrap CARDER.PASSES_COUNT := rfl

theorem Chip.hankTested_frame (c : Chip) (q : Packet) : c.Frame [] (· ∈ [CARDER.HANK_FIXED_COUNT.key 0 0]) (c.hankTested q) :=
  Chip.Frame.ite (fun _ => (Chip.Frame.refl c).bump _ 0 0 (by decide)) fun _ => .refl c

theorem Chip.Frame.updCarder (c : Chip) (f : Carder → Carder) {K : Nat → Prop} : c.Frame [.carder] K (c.updCarder f) :=
  (Chip.Frame.refl c).withCarder _ (by decide)

theorem Chip.passBegun_frame (c : Chip) (l : Nat) (q : Packet) {K : Nat → Prop} : c.Frame [.carder] K (c.passBegun l q) :=
  (Chip.Frame.refl c).withCarder _ (by decide)

theorem Chip.startPass_frame (c : Chip) (l : Nat) (q : Packet) : c.Frame [.carder] (· ∈ passKeys) (c.startPass l q) := by
  rw [Chip.startPass_eq]
  exact (((c.hankTested_frame q).mono (by decide) (by decide)).andThen (Chip.passBegun_frame _ _ _) (by decide) fun _ h => h).setFld _ _ 0 0
    (by decide)

/-- What a start leaves of the Carder. -/
theorem Chip.startPass_carder (c : Chip) (l : Nat) (q : Packet) : (c.startPass l q).carder = { c.carder with
    passes := c.carder.passes ++ [{ pkt := q, lane := l, stop := c.aon + 6, clk := if l = 11 then 0 else c.clkNow }],
    laneFree := Tab.put 0 c.carder.laneFree l (c.aon + 1) } := by
  have haon : (c.hankTested q).aon = c.aon := (c.hankTested_frame q).aon (by decide)
  have hcarder : (c.hankTested q).carder = c.carder := (c.hankTested_frame q).carder (by decide)
  have hclk : (c.hankTested q).clkNow = c.clkNow := by rw [Chip.clkNow, haon, hcarder, Chip.clkNow]
  have hbegun : (c.startPass l q).carder = { (c.hankTested q).carder with
      passes := (c.hankTested q).carder.passes ++
        [{ pkt := q, lane := l, stop := (c.hankTested q).aon + 6, clk := if l = 11 then 0 else (c.hankTested q).clkNow }],
      laneFree := Tab.put 0 (c.hankTested q).carder.laneFree l ((c.hankTested q).aon + 1) } := rfl
  rw [hbegun, haon, hclk, hcarder]

theorem Chip.startPass_begun (c : Chip) (l : Nat) (q : Packet) : c.Begun (c.startPass l q) l q := by
  refine ⟨by rw [Chip.startPass_carder], fun hq => ?_, by rw [Chip.startPass_carder, Tab.get_put_self], ?_⟩
  · rw [Chip.Counts, Chip.startPass_eq, Chip.fld_bumpWrap_ne (by decide), (Chip.passBegun_frame _ _ _ (K := fun _ => False)).fld _ 0 0 id,
      Chip.hankTested, if_pos hq]
    exact c.counts_bump _ 0
  · rw [Chip.startPass_eq, Chip.fld_bumpWrap_self, (Chip.passBegun_frame _ _ _ (K := fun _ => False)).fld _ 0 0 id,
      (c.hankTested_frame q).fld _ 0 0 (by decide)]
    rfl

/-- What happened before the start leaves what the start says. -/
theorem Chip.Begun.since (h : e.Begun d l q) (hp : e.carder.passes = c.carder.passes) (ha : e.aon = c.aon)
    (hf : e.fld CARDER.HANK_FIXED_COUNT = c.fld CARDER.HANK_FIXED_COUNT) (hn : e.fld CARDER.PASSES_COUNT = c.fld CARDER.PASSES_COUNT) :
    c.Begun d l q := by
  have hclk : e.clkNow = c.clkNow := by rw [Chip.clkNow, hp, ha, Chip.clkNow]
  obtain ⟨hpass, hfix, hfree, hcount⟩ := h
  refine ⟨?_, fun hq => ?_, ha ▸ hfree, hn ▸ hcount⟩
  · rw [hpass, hp, ha, hclk]
  · rw [Chip.Counts, ← hf]
    exact hfix hq

/-- What follows the start leaves it. -/
theorem Chip.Begun.andThen (h : c.Begun d l q) (hp : e.carder.passes = d.carder.passes) (hl : e.carder.laneFree = d.carder.laneFree)
    (hf : e.fld CARDER.HANK_FIXED_COUNT = d.fld CARDER.HANK_FIXED_COUNT) (hn : e.fld CARDER.PASSES_COUNT = d.fld CARDER.PASSES_COUNT) :
    c.Begun e l q := by
  obtain ⟨hpass, hfix, hfree, hcount⟩ := h
  refine ⟨hp.trans hpass, fun hq => ?_, ?_, hn.trans hcount⟩
  · rw [Chip.Counts, hf]
    exact hfix hq
  · rw [hl]
    exact hfree

theorem Chip.Begun.ended (h : c.Begun d l q) (b : Chip) : c.Begun (b.ended d) l q :=
  h.andThen (by rw [b.ended_carder]) (by rw [b.ended_carder]) (b.ended_fld _ _ _ _ (by decide)) (b.ended_fld _ _ _ _ (by decide))
end

/-! ### A packet's first pass -/

/-- The packet as its first pass finds it (R254). -/
def Chip.stamped (c : Chip) (q : Packet) : Packet :=
  { q with bank := c.activeBank, pass := 0, recircTag := 0, cls := q.preclass, out := 0xFF, ctx := 0 }

section
variable (c : Chip) (port l : Nat) (q : Packet)

theorem Chip.stampPacket_eq : c.stampPacket q = (c.bump (inflightRow c.activeBank), c.stamped q) := rfl

theorem inflightRow_key_mem (b : Nat) :
    (inflightRow b).key 0 0 ∈ [CARDER.INFLIGHT_BANK_A.key 0 0, CARDER.INFLIGHT_BANK_B.key 0 0] := by
  unfold inflightRow
  split <;> decide

/-- The count of a bank apart from a set of cells that holds neither bank's. -/
theorem inflightRow_not_mem {K : List Nat} (ha : CARDER.INFLIGHT_BANK_A.key 0 0 ∉ K) (hb : CARDER.INFLIGHT_BANK_B.key 0 0 ∉ K) (b : Nat) :
    (inflightRow b).key 0 0 ∉ K := by
  unfold inflightRow
  split
  · exact ha
  · exact hb

theorem Chip.hostServed_frame {K : Nat → Prop} : c.Frame [.carder] K (c.hostServed port) :=
  Chip.Frame.ite (fun _ => (Chip.Frame.refl c).withCarder _ (by decide)) fun _ => .refl c

theorem Chip.hostServed_carder : (c.hostServed port).carder =
    { c.carder with hostNext := if port = portHost then max c.carder.hostNext (12 * c.aon) + 125 else c.carder.hostNext } := by
  unfold Chip.hostServed
  split <;> rfl

/-- The first pass of a packet, with the bank's count. -/
def Chip.startFirst : Chip := (c.bump (inflightRow c.activeBank)).startPass l (c.stamped q)

def firstKeys : List Nat := [CARDER.INFLIGHT_BANK_A.key 0 0, CARDER.INFLIGHT_BANK_B.key 0 0] ++ passKeys

theorem Chip.startFirst_frame : c.Frame [.carder] (· ∈ firstKeys) (c.startFirst l q) :=
  ((Chip.Frame.refl c).bump _ 0 0 (List.mem_append_left _ (inflightRow_key_mem _))).andThen (Chip.startPass_frame _ _ _) (by decide)
    fun _ => List.mem_append_right _

theorem Chip.startFirst_begun : c.Begun (c.startFirst l q) l (c.stamped q) :=
  (Chip.startPass_begun _ _ _).since rfl rfl (Chip.fld_bump_ne (by unfold inflightRow; split <;> decide))
    (Chip.fld_bump_ne (by unfold inflightRow; split <;> decide))

theorem Chip.startFirst_counts : c.Counts (c.startFirst l q) (inflightRow c.activeBank) := by
  rw [Chip.Counts, Chip.startFirst, (Chip.startPass_frame _ _ _).fld _ 0 0 (inflightRow_not_mem (by decide) (by decide) _)]
  exact c.counts_bump _ 0

theorem Chip.startFirst_carder : (c.startFirst l q).carder = { c.carder with
    passes := c.carder.passes ++ [{ pkt := c.stamped q, lane := l, stop := c.aon + 6, clk := if l = 11 then 0 else c.clkNow }],
    laneFree := Tab.put 0 c.carder.laneFree l (c.aon + 1) } := Chip.startPass_carder _ _ _
end

/-! ### Lane 11 (R225, R306) -/

/-- The express FIFO served, and the rate of the host port. -/
def Chip.expressTaken (c : Chip) (port : Nat) (r : List Packet) : Chip :=
  (({ c with buffer := { c.buffer with express := Tab.put [] c.buffer.express port r } } : Chip).updCarder fun d =>
    { d with lastX := port }).hostServed port

/-- A wait of more than 160 ns counts (R306). -/
def Chip.lateCounted (c : Chip) (q : Packet) : Chip :=
  if 160 * nsQ < c.since q.since then (c.bump REEL.C7_DISPATCH_LATE_COUNT).raise EV.REEL_C7_DISPATCH_LATE else c

def lateKeys : List Nat := [REEL.C7_DISPATCH_LATE_COUNT.key 0 0, EV.REEL_C7_DISPATCH_LATE.key 0]

section
variable {c : Chip} {p : Packet} {r : List Packet} {port : Nat} {ps : List Nat}

theorem Chip.dispatch11_recirc (h : c.carder.recirc11 = p :: r) :
    c.dispatch11 = (c.updCarder fun d => { d with recirc11 := r }).startPass 11 p := by
  unfold Chip.dispatch11
  rw [h]

theorem Chip.dispatch11_express (h : c.carder.recirc11 = []) (hport : rrPorts c.buffer.express c.carder.lastX = port :: ps)
    (hq : Tab.get [] c.buffer.express port = p :: r) :
    c.dispatch11 = ((c.expressTaken port r).lateCounted p).startFirst 11 p := by
  unfold Chip.dispatch11
  rw [h]
  dsimp only
  rw [hport]
  dsimp only
  rw [hq]
  rfl

theorem Chip.dispatch11_idle (h : c.carder.recirc11 = []) (hx : c.buffer.express = []) : c.dispatch11 = c := by
  unfold Chip.dispatch11
  rw [h, hx]
  rfl

theorem Chip.expressTaken_frame {K : Nat → Prop} : c.Frame [.buffer, .carder] K (c.expressTaken port r) :=
  (((Chip.Frame.refl c).withBuffer _ (by decide)).withCarder _ (by decide)).andThen (Chip.hostServed_frame _ _) (by decide) fun _ h => h

theorem Chip.expressTaken_carder : (c.expressTaken port r).carder = { c.carder with
    lastX := port, hostNext := if port = portHost then max c.carder.hostNext (12 * c.aon) + 125 else c.carder.hostNext } :=
  Chip.hostServed_carder _ _

theorem Chip.express_expressTaken : Tab.get [] (c.expressTaken port r).buffer.express port = r := by
  rw [Chip.expressTaken, (Chip.hostServed_frame _ _ (K := fun _ => False)).buffer (by decide)]
  exact Tab.get_put_self _ _ _ _

theorem Chip.lateCounted_frame : c.Frame [] (· ∈ lateKeys) (c.lateCounted p) :=
  Chip.Frame.ite (fun _ => ((Chip.Frame.refl c).bump _ 0 0 (by decide)).raise _ 0 (by decide)) fun _ => .refl c

theorem Chip.lateCounted_late (h : 160 * nsQ < c.now - p.since) :
    c.Counts (c.lateCounted p) REEL.C7_DISPATCH_LATE_COUNT ∧ c.Tells (c.lateCounted p) EV.REEL_C7_DISPATCH_LATE := by
  rw [Chip.lateCounted, if_pos (by exact h)]
  refine ⟨?_, ?_⟩
  · rw [Chip.Counts, Chip.fld_raise_ne _ _ _ _ _ _ (by decide)]
    exact c.counts_bump _ 0
  · have hbump : c.Frame [] (· ∈ lateKeys) (c.bump REEL.C7_DISPATCH_LATE_COUNT) := (Chip.Frame.refl c).bump _ 0 0 (by decide)
    exact hbump.tells_raise _ 0 (by decide) (by decide)
end

/-! ### The general dispatcher (R226) -/

def stallKeys : List Nat := [CARDER.WINDOW_STALL_COUNT.key 0 0, EV.CARDER_WINDOW_STALL.key 0]

/-- The general FIFO served, with a sequence tag of the port, and the rate of the host port. -/
def Chip.generalTaken (c : Chip) (port : Nat) (p : Packet) (r : List Packet) : Chip :=
  (({ c with buffer := { c.buffer with general := Tab.put [] c.buffer.general port r } } : Chip).updCarder fun d =>
    { d with lastG := port, order := Tab.put [] d.order port (Tab.get [] d.order port ++ [{ id := p.id }]) }).hostServed port

/-- The turn passes to the next lane. -/
def Chip.turned (c : Chip) (l : Nat) : Chip := c.updCarder fun k => { k with lane := (l + 1) % 11 }

section
variable {c : Chip} {p : Packet} {r : List Packet} {port l : Nat}

theorem Chip.countStalls_frame : c.Frame [.buffer] (· ∈ stallKeys) c.countStalls := by
  unfold Chip.countStalls
  refine (Chip.Frame.refl c).foldl _ fun d e _ => ?_
  dsimp only
  split
  · refine Chip.Frame.ite (fun _ => ?_) fun _ => .refl d
    exact (((Chip.Frame.refl d).withBuffer _ (by decide)).bump _ 0 0 (by decide)).raise _ 0 (by decide)
  · exact .refl d

theorem Chip.turned_frame (c : Chip) (l : Nat) {K : Nat → Prop} : c.Frame [.carder] K (c.turned l) :=
  (Chip.Frame.refl c).withCarder _ (by decide)

theorem Chip.turned_carder (c : Chip) (l : Nat) : (c.turned l).carder = { c.carder with lane := (l + 1) % 11 } := rfl

theorem Chip.Begun.turned {d : Chip} {lane : Nat} {q : Packet} (h : c.Begun d lane q) (l : Nat) : c.Begun (d.turned l) lane q :=
  h.andThen rfl rfl ((d.turned_frame l (K := fun _ => False)).fld _ 0 0 id) ((d.turned_frame l (K := fun _ => False)).fld _ 0 0 id)

theorem Chip.wakeLane_carder (c : Chip) (l : Nat) :
    (c.wakeLane l).carder = { c.carder with laneFree := Tab.put 0 c.carder.laneFree l (c.aon + 5) } := rfl
theorem Chip.wakeLane_modes (c : Chip) (l : Nat) : (c.wakeLane l).modes =
    { c.modes with laneLight := Tab.put false c.modes.laneLight l false, laneWake := Tab.put 0 c.modes.laneWake l (c.aon + 5) } := rfl
theorem Chip.wakeLane_frame (c : Chip) (l : Nat) {K : Nat → Prop} : c.Frame [.modes, .carder] K (c.wakeLane l) :=
  ((Chip.Frame.refl c).withModes _ (by decide)).withCarder _ (by decide)

theorem Chip.startGeneral_eq : c.startGeneral l port p r = (c.generalTaken port p r).startFirst l p := rfl

theorem Chip.dispatchGeneral_recirc (h : c.carder.recirc = p :: r) :
    c.dispatchGeneral = if Tab.get false c.modes.laneLight c.carder.lane then c.countStalls.wakeLane c.carder.lane
      else ((c.countStalls.updCarder fun d => { d with recirc := r }).startPass c.carder.lane p).turned c.carder.lane := by
  have hcarder : c.countStalls.carder = c.carder := Chip.countStalls_frame.carder (by decide)
  have hmodes : c.countStalls.modes = c.modes := Chip.countStalls_frame.modes (by decide)
  unfold Chip.dispatchGeneral
  dsimp only
  rw [hcarder, hmodes, h]
  rfl

theorem Chip.dispatchGeneral_fifo (h : c.carder.recirc = [])
    (hport : (rrPorts c.countStalls.buffer.general c.carder.lastG).find? c.countStalls.servable = some port)
    (hq : Tab.get [] c.countStalls.buffer.general port = p :: r) (hlight : Tab.get false c.modes.laneLight c.carder.lane = false) :
    c.dispatchGeneral = ((c.countStalls.generalTaken port p r).startFirst c.carder.lane p).turned c.carder.lane := by
  have hcarder : c.countStalls.carder = c.carder := Chip.countStalls_frame.carder (by decide)
  have hmodes : c.countStalls.modes = c.modes := Chip.countStalls_frame.modes (by decide)
  unfold Chip.dispatchGeneral
  dsimp only
  rw [hcarder, hmodes, h]
  dsimp only
  rw [hport]
  dsimp only
  rw [hq, hlight]
  rfl

theorem Chip.dispatchGeneral_idle (h : c.carder.recirc = []) (hg : c.buffer.general = []) : c.dispatchGeneral = c := by
  have hstalls : c.countStalls = c := by
    rw [Chip.countStalls, hg]
    rfl
  unfold Chip.dispatchGeneral
  dsimp only
  rw [hstalls, h, hg]
  rfl

theorem Chip.generalTaken_frame {K : Nat → Prop} : c.Frame [.buffer, .carder] K (c.generalTaken port p r) :=
  (((Chip.Frame.refl c).withBuffer _ (by decide)).withCarder _ (by decide)).andThen (Chip.hostServed_frame _ _) (by decide) fun _ h => h

theorem Chip.generalTaken_carder : (c.generalTaken port p r).carder = { c.carder with
    lastG := port, order := Tab.put [] c.carder.order port (Tab.get [] c.carder.order port ++ [{ id := p.id }]),
    hostNext := if port = portHost then max c.carder.hostNext (12 * c.aon) + 125 else c.carder.hostNext } :=
  Chip.hostServed_carder _ _

theorem Chip.general_generalTaken : Tab.get [] (c.generalTaken port p r).buffer.general port = r := by
  rw [Chip.generalTaken, (Chip.hostServed_frame _ _ (K := fun _ => False)).buffer (by decide)]
  exact Tab.get_put_self _ _ _ _
end

/-! ### When the dispatchers run -/

section
variable {c : Chip}

theorem Chip.dispatching_iff (h : c.fld CARDER.BANK_STATUS_INIT_DONE ≤ 1) :
    c.dispatching = true ↔ c.dom .core = domON ∧ c.fld CARDER.BANK_STATUS_INIT_DONE = 1 ∧ c.mode ≠ mSAFE := by
  rw [Chip.dispatching, Bool.and_eq_true, Bool.and_eq_true, beq_iff_eq, Chip.on_iff, bne_iff_ne, and_assoc]
  have hone : c.fld CARDER.BANK_STATUS_INIT_DONE ≠ 0 ↔ c.fld CARDER.BANK_STATUS_INIT_DONE = 1 := by omega
  rw [hone]

/-- Lane 11 can be served, and the general dispatcher's next lane. -/
def Chip.due11 (c : Chip) : Bool := c.dispatching && c.laneReady 11
def Chip.dueGeneral (c : Chip) : Bool := c.dispatching && !c.throttled && c.laneReady c.carder.lane

theorem Chip.due11_iff (h : c.fld CARDER.BANK_STATUS_INIT_DONE ≤ 1) : c.due11 = true ↔
    (c.dom .core = domON ∧ c.fld CARDER.BANK_STATUS_INIT_DONE = 1 ∧ c.mode ≠ mSAFE) ∧ Tab.get 0 c.carder.laneFree 11 ≤ c.aon := by
  rw [Chip.due11, Bool.and_eq_true, Chip.dispatching_iff h, Chip.laneReady, decide_eq_true_iff]

theorem Chip.dueGeneral_iff (h : c.fld CARDER.BANK_STATUS_INIT_DONE ≤ 1) : c.dueGeneral = true ↔
    (c.dom .core = domON ∧ c.fld CARDER.BANK_STATUS_INIT_DONE = 1 ∧ c.mode ≠ mSAFE) ∧ c.throttled = false ∧
      Tab.get 0 c.carder.laneFree c.carder.lane ≤ c.aon := by
  rw [Chip.dueGeneral, Bool.and_eq_true, Bool.and_eq_true, Chip.dispatching_iff h, Chip.laneReady, decide_eq_true_iff, Bool.not_eq_true',
    and_assoc]
end

theorem exec_lane11 (s : State) : exec .lane11Dispatch s = run (fun c => c.whenDue c.due11 Chip.dispatch11) s := rfl
theorem exec_general (s : State) : exec .generalDispatch s = run (fun c => c.whenDue c.dueGeneral Chip.dispatchGeneral) s := rfl

/-- The tables as they are cleared when CORE first becomes ON (R230). -/
def Chip.tablesCleared (c : Chip) : Chip :=
  { c with carder := { c.carder with exact := [], tern := [], action := [], hits := [], nodes := [], profiles := [], portDef := [] } }

section
variable {s : State} {p : Packet} {r : List Packet}

theorem carderInitDone_becomes (hdom : s.chip.dom .core = domON) (hinit : s.chip.fld CARDER.BANK_STATUS_INIT_DONE = 0) :
    Becomes .carderInitDone s s.chip.tablesCleared [CARDER.BANK_STATUS_INIT_DONE.key 0 0] fun d => d.fld CARDER.BANK_STATUS_INIT_DONE = 1 := by
  have hdue : (s.chip.dom .core == domON && !s.chip.on CARDER.BANK_STATUS_INIT_DONE) = true := by
    rw [hdom, Chip.on, hinit]
    rfl
  refine becomes_of_due (due := fun c => c.dom .core == domON && !c.on CARDER.BANK_STATUS_INIT_DONE) (g := Chip.carderInit) rfl hdue ?_ ?_
  · exact ((Chip.Frame.refl s.chip.tablesCleared).withEcc _ (by decide)).setFld _ _ 0 0 (by decide)
  · exact (Chip.ended_fld _ _ _ _ _ (by decide)).trans (Chip.fld_setFld_self _ _ _ _ _)

theorem carderInitDone_idles (h : s.chip.dom .core ≠ domON ∨ s.chip.fld CARDER.BANK_STATUS_INIT_DONE ≠ 0) : Idles .carderInitDone s := by
  refine idles_of_not_due (due := fun c => c.dom .core == domON && !c.on CARDER.BANK_STATUS_INIT_DONE) (g := Chip.carderInit) rfl ?_
  rw [← Bool.not_eq_true, Bool.and_eq_true, beq_iff_eq, Bool.not_eq_true', ← Bool.not_eq_true, Chip.on_iff]
  exact fun hd => h.elim (fun hn => hn hd.1) hd.2

/-- Lane 11 takes the packet that waits to go through again. -/
theorem lane11_recirc (hdue : s.chip.due11 = true) (h : s.chip.carder.recirc11 = p :: r) :
    Ends .lane11Dispatch s fun d => s.chip.Begun d 11 p ∧ d.carder.recirc11 = r := by
  refine ends_of_due (exec_lane11 s) hdue ?_
  rw [Chip.dispatch11_recirc h]
  have htaken := Chip.Frame.updCarder s.chip (fun d => { d with recirc11 := r }) (K := fun _ => False)
  have hbegun := (s.chip.updCarder fun d => { d with recirc11 := r }).startPass_begun 11 p
  refine ⟨(hbegun.since rfl (htaken.aon (by decide)) (htaken.fld _ 0 0 id) (htaken.fld _ 0 0 id)).ended s.chip, ?_⟩
  rw [Chip.ended_carder, Chip.startPass_carder]
  rfl

/-- What lane 11's dispatch of an express head leaves. -/
theorem lane11_express {port : Nat} {ps : List Nat} (hdue : s.chip.due11 = true) (h : s.chip.carder.recirc11 = [])
    (hport : rrPorts s.chip.buffer.express s.chip.carder.lastX = port :: ps) (hq : Tab.get [] s.chip.buffer.express port = p :: r) :
    Ends .lane11Dispatch s fun d => s.chip.Begun d 11 (s.chip.stamped p) ∧ Tab.get [] d.buffer.express port = r ∧ d.carder.lastX = port ∧
      s.chip.Counts d (inflightRow s.chip.activeBank) ∧
      (port = portHost → d.carder.hostNext = max s.chip.carder.hostNext (12 * s.chip.aon) + 125) ∧
      (160 * nsQ < s.chip.now - p.since → s.chip.Counts d REEL.C7_DISPATCH_LATE_COUNT ∧ s.chip.Tells d EV.REEL_C7_DISPATCH_LATE) := by
  refine ends_of_due (exec_lane11 s) hdue ?_
  rw [Chip.dispatch11_express h hport hq]
  have htaken := s.chip.expressTaken_frame (port := port) (r := r) (K := fun _ => False)
  have hlate := (s.chip.expressTaken port r).lateCounted_frame (p := p)
  have hfirst := ((s.chip.expressTaken port r).lateCounted p).startFirst_frame 11 p
  have hcarder : ((s.chip.expressTaken port r).lateCounted p).carder = (s.chip.expressTaken port r).carder := hlate.carder (by decide)
  have hbank : ((s.chip.expressTaken port r).lateCounted p).activeBank = s.chip.activeBank := by
    rw [Chip.activeBank, Chip.epoch, hlate.fld _ 0 0 (by decide), htaken.fld _ 0 0 id]
    rfl
  have hstamp : ((s.chip.expressTaken port r).lateCounted p).stamped p = s.chip.stamped p := by
    rw [Chip.stamped, hbank, Chip.stamped]
  refine ⟨?_, ?_, ?_, ?_, fun hhost => ?_, fun hwait => ?_⟩
  · have hbegun := ((s.chip.expressTaken port r).lateCounted p).startFirst_begun 11 p
    rw [hstamp] at hbegun
    refine (hbegun.since ?_ ?_ ?_ ?_).ended s.chip
    · rw [hcarder, Chip.expressTaken_carder]
    · exact (hlate.aon (by decide)).trans (htaken.aon (by decide))
    · exact (hlate.fld _ 0 0 (by decide)).trans (htaken.fld _ 0 0 id)
    · exact (hlate.fld _ 0 0 (by decide)).trans (htaken.fld _ 0 0 id)
  · rw [Chip.ended_buffer, hfirst.buffer (by decide), hlate.buffer (by decide)]
    exact Chip.express_expressTaken
  · rw [Chip.ended_carder, Chip.startFirst_carder, hcarder, Chip.expressTaken_carder]
  · have hcount := ((s.chip.expressTaken port r).lateCounted p).startFirst_counts 11 p
    rw [hbank, Chip.Counts, hlate.fld _ 0 0 (inflightRow_not_mem (by decide) (by decide) _), htaken.fld _ 0 0 id] at hcount
    rw [Chip.Counts, Chip.ended_fld _ _ _ _ _ (inflightRow_not_mem (by decide) (by decide) _)]
    exact hcount
  · rw [Chip.ended_carder, Chip.startFirst_carder, hcarder, Chip.expressTaken_carder]
    exact if_pos hhost
  · have hnow : (s.chip.expressTaken port r).now = s.chip.now := htaken.now (by decide)
    obtain ⟨hcount, htell⟩ := (s.chip.expressTaken port r).lateCounted_late (p := p) (by rw [hnow]; exact hwait)
    refine ⟨?_, ?_⟩
    · rw [Chip.Counts, htaken.fld _ 0 0 id] at hcount
      exact (Chip.ended_fld _ _ _ _ _ (by decide)).trans ((hfirst.fld _ 0 0 (by decide)).trans hcount)
    · refine Chip.Tells.ended (hfirst.tells (fun hu => htell ?_) (by decide)) (by decide)
      rw [htaken.domUp _ id]
      exact hu

/-- The general dispatcher takes the packet that waits to go through again. -/
theorem general_recirc (hdue : s.chip.dueGeneral = true) (h : s.chip.carder.recirc = p :: r)
    (hlight : Tab.get false s.chip.modes.laneLight s.chip.carder.lane = false) : Ends .generalDispatch s fun d =>
      s.chip.Begun d s.chip.carder.lane p ∧ d.carder.recirc = r ∧ d.carder.lane = (s.chip.carder.lane + 1) % 11 := by
  refine ends_of_due (exec_general s) hdue ?_
  rw [Chip.dispatchGeneral_recirc h, hlight, if_neg (by decide)]
  have hstall := s.chip.countStalls_frame
  have htaken := Chip.Frame.updCarder s.chip.countStalls (fun d => { d with recirc := r }) (K := fun _ => False)
  have hbegun := (s.chip.countStalls.updCarder fun d => { d with recirc := r }).startPass_begun s.chip.carder.lane p
  refine ⟨((hbegun.since ?_ ?_ ?_ ?_).turned s.chip.carder.lane).ended s.chip, ?_, ?_⟩
  · have hpasses : s.chip.countStalls.carder.passes = s.chip.carder.passes := congrArg Carder.passes (hstall.carder (by decide))
    exact hpasses
  · exact (htaken.aon (by decide)).trans (hstall.aon (by decide))
  · exact (htaken.fld _ 0 0 id).trans (hstall.fld _ 0 0 (by decide))
  · exact (htaken.fld _ 0 0 id).trans (hstall.fld _ 0 0 (by decide))
  · rw [Chip.ended_carder, Chip.turned_carder, Chip.startPass_carder]
    rfl
  · rw [Chip.ended_carder, Chip.turned_carder]

/-- A lane in LIGHT is woken first (R70). -/
theorem general_wakes (hdue : s.chip.dueGeneral = true) (h : s.chip.carder.recirc = p :: r)
    (hlight : Tab.get false s.chip.modes.laneLight s.chip.carder.lane = true) : Ends .generalDispatch s fun d =>
      d.carder.passes = s.chip.carder.passes ∧ d.carder.recirc = s.chip.carder.recirc ∧
        Tab.get false d.modes.laneLight s.chip.carder.lane = false ∧ Tab.get 0 d.carder.laneFree s.chip.carder.lane = s.chip.aon + 5 ∧
        Tab.get 0 d.modes.laneWake s.chip.carder.lane = s.chip.aon + 5 ∧ d.raised EV.POWER_WAKE_DONE = s.chip.raised EV.POWER_WAKE_DONE := by
  refine ends_of_due (exec_general s) hdue ?_
  rw [Chip.dispatchGeneral_recirc h, hlight, if_pos rfl]
  have hstall := s.chip.countStalls_frame
  have haon : s.chip.countStalls.aon = s.chip.aon := hstall.aon (by decide)
  have hcarder : s.chip.countStalls.carder = s.chip.carder := hstall.carder (by decide)
  have hwoken := s.chip.countStalls.wakeLane_frame s.chip.carder.lane (K := fun _ => False)
  refine ⟨?_, ?_, ?_, ?_, ?_, ?_⟩
  · rw [Chip.ended_carder, Chip.wakeLane_carder, hcarder]
  · rw [Chip.ended_carder, Chip.wakeLane_carder, hcarder]
  · rw [Chip.ended_modes, Chip.wakeLane_modes, Tab.get_put_self]
  · rw [Chip.ended_carder, Chip.wakeLane_carder, Tab.get_put_self, haon]
  · rw [Chip.ended_modes, Chip.wakeLane_modes, Tab.get_put_self, haon]
  · exact (Chip.ended_raised _ _ _ _ (by decide)).trans ((hwoken.raised _ 0 id).trans (hstall.raised _ 0 (by decide)))

/-- What the dispatch of a general FIFO's head leaves. -/
theorem general_fifo {port : Nat} (hdue : s.chip.dueGeneral = true) (h : s.chip.carder.recirc = [])
    (hlight : Tab.get false s.chip.modes.laneLight s.chip.carder.lane = false)
    (hport : (rrPorts s.chip.countStalls.buffer.general s.chip.carder.lastG).find? s.chip.countStalls.servable = some port)
    (hq : Tab.get [] s.chip.countStalls.buffer.general port = p :: r) :
    Ends .generalDispatch s fun d => s.chip.Begun d s.chip.carder.lane (s.chip.stamped p) ∧ Tab.get [] d.buffer.general port = r ∧
      d.carder.lane = (s.chip.carder.lane + 1) % 11 ∧ d.carder.lastG = port ∧ d.window port = s.chip.window port ++ [{ id := p.id }] ∧
      (port = portHost → d.carder.hostNext = max s.chip.carder.hostNext (12 * s.chip.aon) + 125) ∧
      s.chip.Counts d (inflightRow s.chip.activeBank) := by
  refine ends_of_due (exec_general s) hdue ?_
  rw [Chip.dispatchGeneral_fifo h hport hq hlight]
  have hstall := s.chip.countStalls_frame
  have htaken := s.chip.countStalls.generalTaken_frame (port := port) (p := p) (r := r) (K := fun _ => False)
  have hcarder : s.chip.countStalls.carder = s.chip.carder := hstall.carder (by decide)
  have haon : s.chip.countStalls.aon = s.chip.aon := hstall.aon (by decide)
  have hbank : (s.chip.countStalls.generalTaken port p r).activeBank = s.chip.activeBank := by
    rw [Chip.activeBank, Chip.epoch, htaken.fld _ 0 0 id, hstall.fld _ 0 0 (by decide)]
    rfl
  have hstamp : (s.chip.countStalls.generalTaken port p r).stamped p = s.chip.stamped p := by
    rw [Chip.stamped, hbank, Chip.stamped]
  have hlast : (s.chip.ended (((s.chip.countStalls.generalTaken port p r).startFirst s.chip.carder.lane p).turned s.chip.carder.lane)).carder =
      { ((s.chip.countStalls.generalTaken port p r).startFirst s.chip.carder.lane p).carder with lane := (s.chip.carder.lane + 1) % 11 } :=
    (Chip.ended_carder _ _).trans (Chip.turned_carder _ _)
  refine ⟨?_, ?_, ?_, ?_, ?_, fun hhost => ?_, ?_⟩
  · have hbegun := (s.chip.countStalls.generalTaken port p r).startFirst_begun s.chip.carder.lane p
    rw [hstamp] at hbegun
    refine ((hbegun.since ?_ ?_ ?_ ?_).turned s.chip.carder.lane).ended s.chip
    · rw [Chip.generalTaken_carder, hcarder]
    · exact (htaken.aon (by decide)).trans haon
    · exact (htaken.fld _ 0 0 id).trans (hstall.fld _ 0 0 (by decide))
    · exact (htaken.fld _ 0 0 id).trans (hstall.fld _ 0 0 (by decide))
  · rw [Chip.ended_buffer]
    rw [(Chip.turned_frame _ _ (K := fun _ => False)).buffer (by decide), (Chip.startFirst_frame _ _ _).buffer (by decide)]
    exact Chip.general_generalTaken
  · rw [hlast]
  · rw [hlast, Chip.startFirst_carder, Chip.generalTaken_carder]
  · rw [Chip.window, hlast, Chip.startFirst_carder, Chip.generalTaken_carder, hcarder]
    exact Tab.get_put_self _ _ _ _
  · rw [hlast, Chip.startFirst_carder, Chip.generalTaken_carder, hcarder, haon]
    exact if_pos hhost
  · have hcount := (s.chip.countStalls.generalTaken port p r).startFirst_counts s.chip.carder.lane p
    rw [hbank, Chip.Counts, htaken.fld _ 0 0 id, hstall.fld _ 0 0 (inflightRow_not_mem (by decide) (by decide) _)] at hcount
    rw [Chip.Counts, Chip.ended_fld _ _ _ _ _ (inflightRow_not_mem (by decide) (by decide) _),
      (Chip.turned_frame _ _ (K := fun _ => False)).fld _ 0 0 id]
    exact hcount
end

/-- Settles O37: the clearing of the tables, lane 11, and the general dispatcher. -/
theorem lanesTakePasses : Obligations.LanesTakePasses := by
  unfold Obligations.LanesTakePasses
  intro s p r c runs bank l first begun ready
  have hdue11 (hr : runs) (hl : ready 11) : s.chip.due11 = true := (Chip.due11_iff (Nat.le_of_eq hr.2.1)).mpr ⟨hr, hl⟩
  have hdueG (hr : runs) (ht : c.throttled = false) (hl : ready l) : s.chip.dueGeneral = true :=
    (Chip.dueGeneral_iff (Nat.le_of_eq hr.2.1)).mpr ⟨hr, ht, hl⟩
  refine ⟨carderInitDone_becomes, carderInitDone_idles, fun hr hl h => lane11_recirc (hdue11 hr hl) h,
    fun port ps hr hl h hport hq => lane11_express (hdue11 hr hl) h hport hq, fun hidle hinit => ?_,
    fun hr ht hl h hlight => general_recirc (hdueG hr ht hl) h hlight, fun hr ht hl h hlight => general_wakes (hdueG hr ht hl) h hlight,
    fun port hr ht hl h hlight hport hq => general_fifo (hdueG hr ht hl) h hlight hport hq, fun hidle hinit => ?_⟩
  · by_cases hdue : s.chip.due11 = true
    · obtain ⟨hr, hl⟩ := (Chip.due11_iff hinit).mp hdue
      obtain ⟨h, hx⟩ := (hidle.resolve_left (not_not.mpr hr)).resolve_left (not_not.mpr hl)
      exact idles_of (exec_lane11 s) ((s.chip.whenDue_true _ hdue).trans (Chip.dispatch11_idle h hx))
    · exact idles_of_not_due (exec_lane11 s) (Bool.not_eq_true _ |>.mp hdue)
  · by_cases hdue : s.chip.dueGeneral = true
    · obtain ⟨hr, ht, hl⟩ := (Chip.dueGeneral_iff hinit).mp hdue
      obtain ⟨h, hg⟩ := ((hidle.resolve_left (not_not.mpr hr)).resolve_left (by rw [ht]; decide)).resolve_left (not_not.mpr hl)
      exact idles_of (exec_general s) ((s.chip.whenDue_true _ hdue).trans (Chip.dispatchGeneral_idle h hg))
    · exact idles_of_not_due (exec_general s) (Bool.not_eq_true _ |>.mp hdue)

end Sys2Proof.Machine
end

section
/-!
PROOF. What one AON clock leaves alone, once the results of the last clock's commands show.
-/
namespace Sys2Proof.Machine

section
variable {c : Chip} {S : List Part} {R : List Spot}

theorem Chip.away_setMark {k : Nat} {m : Mark} (hS : [.whorl] ⊆ S) :
    (c.setMark k m).away S R = c.away S R := by
  unfold Chip.setMark
  simp (disch := first | (apply mem_of_sub hS; decide) | (refine List.Subset.trans ?_ hS; decide) | decide) only [Chip.away_withWhorl]

theorem Chip.away_markArm {k : Nat} (hk : k < 65536) (hS : [.whorl] ⊆ S) (hR : [.evt .whorl, .upto WHORL.MARK_CTRL_ACTIVE,
    .upto WHORL.MARK_CTRL_MODE, .upto WHORL.MARK_MISSED_COUNT] ⊆ R) :
    (c.markArm k).away S R = c.away S R := by
  unfold Chip.markArm
  simp (disch := first
      | (apply mem_of_sub hS; decide) | (refine List.Subset.trans ?_ hS; decide) | (apply mem_of_sub hR; decide)
      | (refine List.Subset.trans ?_ hR; decide) | with_unfolding_all exact id hk | decide) only [Chip.away_ite, ite_self, Chip.away_bump_upto,
      Chip.away_raise, Chip.away_setFld_upto, Chip.away_setMark]

theorem Chip.away_distaffTick  (hS : [.modes] ⊆ S) :
    (c.distaffTick).away S R = c.away S R := by
  unfold Chip.distaffTick
  simp (disch := first
      | (apply mem_of_sub hS; decide) | (refine List.Subset.trans ?_ hS; decide) | decide) only [Chip.away_ite, ite_self, Chip.away_withModes]

theorem Chip.away_wdogTick {eff : Nat} (hS : [.modes] ⊆ S) (hR : [.one GLOBAL.WDOG_REMAIN_COUNT] ⊆ R) :
    (c.wdogTick eff).away S R = c.away S R := by
  unfold Chip.wdogTick
  simp (disch := first
      | (apply mem_of_sub hS; decide) | (refine List.Subset.trans ?_ hS; decide) | (apply mem_of_sub hR; decide)
      | (refine List.Subset.trans ?_ hR; decide) | decide) only [Chip.away_ite, ite_self, Chip.away_setFld, Chip.away_updModes]

theorem Chip.away_throttleTick {eff : Nat} (hS : [.power] ⊆ S) (hR : [.one POWER.THROTTLE_CNT_COUNT] ⊆ R) :
    (c.throttleTick eff).away S R = c.away S R := by
  unfold Chip.throttleTick
  simp (disch := first
      | (apply mem_of_sub hS; decide) | (refine List.Subset.trans ?_ hS; decide) | (apply mem_of_sub hR; decide)
      | (refine List.Subset.trans ?_ hR; decide) | decide) only [Chip.away_ite, ite_self, Chip.away_bump, Chip.away_withPower]

theorem Chip.away_bistTick  (hS : [.freeCtr, .power] ⊆ S) :
    (c.bistTick).away S R = c.away S R := by
  unfold Chip.bistTick
  repeat' (first | simp (disch := first
      | (apply mem_of_sub hS; decide) | (refine List.Subset.trans ?_ hS; decide) | decide) only [Chip.away_ite, ite_self, Chip.away_drawn,
      Chip.away_releaseLeave] | split)

theorem Chip.away_plyTick {eff : Nat} (hS : [.ply] ⊆ S) (hR : [.one PLY.MS_COUNT_MS] ⊆ R) :
    (c.plyTick eff).away S R = c.away S R := by
  unfold Chip.plyTick
  simp (disch := first
      | (apply mem_of_sub hS; decide) | (refine List.Subset.trans ?_ hS; decide) | (apply mem_of_sub hR; decide)
      | (refine List.Subset.trans ?_ hR; decide) | decide) only [Chip.away_ite, ite_self, Chip.away_bumpWrap, Chip.away_withPly]

theorem Chip.away_pauseTick {n : Nat} {eff : Nat} (hS : [.uplinks] ⊆ S) (hR : [.one UPLINK.PAUSED_TIME_US] ⊆ R) (hn : n < 4) :
    (c.pauseTick n eff).away S R = c.away S R := by
  unfold Chip.pauseTick
  simp (disch := first
      | (apply mem_of_sub hS; decide) | (refine List.Subset.trans ?_ hS; decide) | (apply mem_of_sub hR; decide)
      | (refine List.Subset.trans ?_ hR; decide) | with_unfolding_all exact id hn | decide) only [Chip.away_ite, ite_self, Chip.away_bump,
      Chip.away_updUpl]

theorem Chip.away_timeTick {eff : Nat} (hS : [.whorl, .aon] ⊆ S) : (c.timeTick eff).away S R = c.away S R := by
  refine Chip.away_eq_iff.mpr ⟨fun p hp => ?_, fun _ _ _ => rfl⟩
  cases p with
  | whorl => exact absurd (mem_of_sub hS (by decide)) hp
  | aon => exact absurd (mem_of_sub hS (by decide)) hp
  | _ => rfl

theorem Chip.away_slewTick {eff : Nat} (hS : [.whorl] ⊆ S) :
    (c.slewTick eff).away S R = c.away S R := by
  unfold Chip.slewTick
  simp (disch := first
      | (apply mem_of_sub hS; decide) | (refine List.Subset.trans ?_ hS; decide) | decide) only [Chip.away_ite, ite_self, Chip.away_withWhorl]

theorem Chip.away_laneWakeTick {l : Nat} (hS : [.modes] ⊆ S) (hR : [.evt .power] ⊆ R) :
    (c.laneWakeTick l).away S R = c.away S R := by
  unfold Chip.laneWakeTick
  simp (disch := first
      | (apply mem_of_sub hS; decide) | (refine List.Subset.trans ?_ hS; decide) | (apply mem_of_sub hR; decide)
      | (refine List.Subset.trans ?_ hR; decide) | decide) only [Chip.away_ite, ite_self, Chip.away_raise, Chip.away_withModes]

/-- The parts and the rows that the clock's counters change. -/
def tickParts : List Part := [.whorl, .aon, .modes, .power, .freeCtr, .ply, .uplinks, .flyers]
def tickSpots : List Spot := [.evt .whorl, .upto WHORL.MARK_CTRL_ACTIVE, .upto WHORL.MARK_CTRL_MODE, .upto WHORL.MARK_MISSED_COUNT,
  .evt .power, .one GLOBAL.WDOG_REMAIN_COUNT, .one POWER.THROTTLE_CNT_COUNT, .one PLY.MS_COUNT_MS, .one UPLINK.PAUSED_TIME_US,
  .one FLYER.TX_STATUS_DRIVER_ON, .one FLYER.TX_STATUS_VIOL_RUN]

theorem Chip.away_marksTick : c.marksTick.away tickParts tickSpots = c.away tickParts tickSpots := by
  refine Chip.away_foldl fun d k hk => ?_
  split
  · exact Chip.away_markArm ((List.mem_range.mp hk).trans (by decide)) (by decide) (by decide)
  · rfl

/-- The counters of one AON clock. -/
def Chip.clockCounted (c : Chip) (eff : Nat) : Chip :=
  let c := ((c.timeTick eff).slewTick eff).marksTick
  let c := ((List.range 11).foldl Chip.laneWakeTick c).distaffTick
  let c := (((c.wdogTick eff).throttleTick eff).bistTick).plyTick eff
  let c := (List.range 4).foldl (fun d n => d.pauseTick n eff) c
  (List.range 96).foldl Chip.cleanEnd c

theorem Chip.tick_eq (h : c.mode ≠ mRESET) : c.tick = c.clockTick.clockCounted c.incEff := if_neg h

theorem Chip.clockCounted_frame (c : Chip) (eff : Nat) : c.Frame tickParts (Touched tickSpots) (c.clockCounted eff) := by
  refine Chip.away_eq_iff.mp ?_
  unfold Chip.clockCounted
  dsimp only
  have hclean (d : Chip) : ((List.range 96).foldl Chip.cleanEnd d).away tickParts tickSpots = d.away tickParts tickSpots :=
    Chip.away_foldl fun e n hn => Chip.away_cleanEnd (by decide) (by decide) (List.mem_range.mp hn)
  have hpause (d : Chip) : ((List.range 4).foldl (fun e n => e.pauseTick n eff) d).away tickParts tickSpots = d.away tickParts tickSpots :=
    Chip.away_foldl fun e n hn => Chip.away_pauseTick (by decide) (by decide) (List.mem_range.mp hn)
  have hlanes (d : Chip) : ((List.range 11).foldl Chip.laneWakeTick d).away tickParts tickSpots = d.away tickParts tickSpots :=
    Chip.away_foldl fun e n _ => Chip.away_laneWakeTick (by decide) (by decide)
  rw [hclean, hpause, Chip.away_plyTick (by decide) (by decide), Chip.away_bistTick (by decide), Chip.away_throttleTick (by decide) (by decide),
    Chip.away_wdogTick (by decide) (by decide), Chip.away_distaffTick (by decide), hlanes, Chip.away_marksTick,
    Chip.away_slewTick (by decide), Chip.away_timeTick (by decide)]
end

end Sys2Proof.Machine
end

section
/-!
PROOF. Admission to class 7 (R301): what an accepted request leaves of the contexts and of the ledger, the causes of a refusal by the checks
of Table 08.10, and the clock that shows a result.
-/
namespace Sys2Proof.Machine

/-! ### Word 0 of a context -/

theorem bitsOf_eq (w hi lo : Nat) : bitsOf w hi lo = w / 2 ^ lo % 2 ^ (hi - lo + 1) := by
  rw [bitsOf, Nat.shiftRight_eq_div_pow]

/-- Word 0 as an accepted request leaves it: C7_ADM and EGRESS. -/
def admittedWord (w b e : Nat) : Nat := withBits (withBits w 9 9 b % 2 ^ 32) 17 10 e % 2 ^ 32

theorem withBits_adm (w : Nat) {b : Nat} (hb : b < 2) : withBits w 9 9 b % 2 ^ 32 = w / 1024 % 4194304 * 1024 + (b * 512 + w % 512) := by
  simp only [withBits, bitsOf_eq, Nat.reduceSub, Nat.reduceAdd, Nat.reducePow]
  omega

theorem withBits_egress {h l e : Nat} (hh : h < 4194304) (hl : l < 1024) (he : e < 256) :
    withBits (h * 1024 + l) 17 10 e % 2 ^ 32 = h / 256 * 262144 + e * 1024 + l := by
  have hdiv : (h * 1024 + l) / 1024 = h := by omega
  simp only [withBits, bitsOf_eq, Nat.reduceSub, Nat.reduceAdd, Nat.reducePow, hdiv]
  omega

/-- Word 0 by its fields. -/
theorem admittedWord_eq (w e : Nat) {b : Nat} (hb : b < 2) (he : e < 256) :
    admittedWord w b e = w / 262144 % 16384 * 262144 + e * 1024 + (b * 512 + w % 512) := by
  rw [admittedWord, withBits_adm w hb, withBits_egress (Nat.mod_lt _ (by decide)) (by omega) he]
  have hhigh : w / 1024 % 4194304 / 256 = w / 262144 % 16384 := by omega
  rw [hhigh]

/-- The fields of word 0: C7_ADM and EGRESS as written, LEN and the bits below as they were. -/
theorem admittedWord_fields (w e : Nat) {b : Nat} (hb : b < 2) (he : e < 256) :
    bitsOf (admittedWord w b e) 9 9 = b ∧ bitsOf (admittedWord w b e) 17 10 = e ∧
      bitsOf (admittedWord w b e) 31 18 = bitsOf w 31 18 ∧ bitsOf (admittedWord w b e) 8 0 = bitsOf w 8 0 := by
  rw [admittedWord_eq w e hb he]
  simp only [bitsOf_eq, Nat.reduceSub, Nat.reduceAdd, Nat.reducePow, Nat.div_one]
  refine ⟨?_, ?_, ?_, ?_⟩ <;> omega

section
variable {c : Chip} {i b e : Nat}

/-- The context with C7_ADM and EGRESS set. -/
def Chip.setAdmission (c : Chip) (i b e : Nat) : Chip := (c.setCtxF i 0 9 9 b).setCtxF i 0 17 10 e

theorem Chip.ctxW_setAdmission_self : (c.setAdmission i b e).ctxW i 0 = admittedWord (c.ctxW i 0) b e := by
  rw [Chip.setAdmission, Chip.setCtxF, Chip.ctxW_setCtxW_self, Chip.setCtxF, Chip.ctxW_setCtxW_self]
  rfl

theorem Chip.ctxW_setAdmission_ne {j w : Nat} (hw : w < 16) (h : j ≠ i ∨ w ≠ 0) : (c.setAdmission i b e).ctxW j w = c.ctxW j w := by
  have hne : 16 * j + w ≠ 16 * i + 0 := by omega
  rw [Chip.setAdmission, Chip.setCtxF, Chip.ctxW_setCtxW_ne (h := hne), Chip.setCtxF, Chip.ctxW_setCtxW_ne (h := hne)]

theorem Chip.setAdmission_frame {K : Nat → Prop} : c.Frame [.reel] K (c.setAdmission i b e) :=
  ((Chip.Frame.refl c).withReel _ (by decide)).withReel _ (by decide)
end

/-! ### An accepted request -/

/-- The ledger with `l` as its list of admitted contexts. -/
def Chip.withAdmitted (c : Chip) (l : List Nat) : Chip := { c with reel := { c.reel with admitted := l } }

/-- The result of a request waits for the next clock. -/
def Chip.withResult (c : Chip) (x : Option Nat) : Chip := { c with reel := { c.reel with admitResult := x } }

/-- The registers that follow the ledger. -/
def Chip.admitCounted (c : Chip) : Chip := (c.setFld REEL.C7_ADMITTED_COUNT c.reel.admitted.length).c7EvalAll

section
variable (c : Chip) (i e : Nat)

theorem Chip.admitAdd_eq : c.admitAdd i e = ((c.setAdmission i 1 e).withAdmitted
    ((c.setAdmission i 1 e).reel.admitted.filter (· < i) ++ [i] ++ (c.setAdmission i 1 e).reel.admitted.filter (i < ·))).admitCounted.admitJudged 0 :=
  rfl

theorem Chip.admitRemove_eq : c.admitRemove i = ((c.setAdmission i 0 0).withAdmitted
    ((c.setAdmission i 0 0).reel.admitted.filter (· ≠ i))).admitCounted.admitJudged 0 := rfl

theorem Chip.admitJudged_eq (cause : Nat) : c.admitJudged cause = (c.withResult (some cause)).setFld REEL.C7_ADMIT_STATUS_STATE 1 := rfl

theorem Chip.withResult_frame (x : Option Nat) {K : Nat → Prop} : c.Frame [.reel] K (c.withResult x) :=
  (Chip.Frame.refl c).withReel _ (by decide)

theorem Chip.withResult_reel (x : Option Nat) : (c.withResult x).reel = { c.reel with admitResult := x } := rfl

theorem Chip.admitCounted_reel : c.admitCounted.reel = c.reel :=
  (Chip.c7EvalAll_frame _).reel (by decide)

theorem Chip.fld_admitCounted : c.admitCounted.fld REEL.C7_ADMITTED_COUNT = c.reel.admitted.length % 2 ^ 18 := by
  rw [Chip.admitCounted, (Chip.c7EvalAll_frame _).fld_apart _ 0 0 (by decide) (by decide) (by decide), Chip.fld_setFld_self]
  rfl

/-- What every accepted request leaves, from the context and the ledger as it set them. -/
theorem Chip.admitDone_says {a b d : Chip} (ha : a = b.ended (d.admitCounted.admitJudged 0)) :
    a.fld REEL.C7_ADMIT_STATUS_STATE = 1 ∧ a.fld REEL.C7_ADMITTED_COUNT = d.reel.admitted.length % 2 ^ 18 ∧
      a.reel = { d.reel with admitResult := some 0 } := by
  refine ⟨?_, ?_, ?_⟩ <;> rw [ha]
  · rw [Chip.ended_fld _ _ _ _ _ (by decide), Chip.admitJudged_eq, Chip.fld_setFld_self]
    rfl
  · rw [Chip.ended_fld _ _ _ _ _ (by decide), Chip.admitJudged_eq, Chip.fld_setFld_ne _ _ _ _ _ _ _ _ (by decide),
      (Chip.withResult_frame _ _ (K := fun _ => False)).fld _ 0 0 id]
    exact d.fld_admitCounted
  · rw [Chip.ended_reel, ← d.admitCounted_reel, Chip.admitJudged_eq]
    rfl
end

/-! ### The checks of Table 08.10 -/

section
variable {c : Chip} {i e : Nat}

theorem bit_ne_zero_iff (w k : Nat) : bitsOf w k k ≠ 0 ↔ bitsOf w k k = 1 := by
  have := bitsOf_lt (w := w) k k
  rw [Nat.sub_self] at this
  omega

/-- A context with its meter on and a committed rate and burst. -/
def Chip.Metered (c : Chip) (i : Nat) : Prop := c.ctxF i 0 0 0 = 1 ∧ c.ctxCir i ≠ 0 ∧ c.ctxCbs i ≠ 0

theorem Chip.not_metered_iff : ¬ c.Metered i ↔ c.ctxF i 0 0 0 = 0 ∨ c.ctxCir i = 0 ∨ c.ctxCbs i = 0 := by
  have hbit := bit_ne_zero_iff (c.ctxW i 0) 0
  unfold Chip.Metered Chip.ctxF
  rw [← hbit]
  tauto

/-- The first check: the context exists and is not admitted. -/
def Chip.AddTaken (c : Chip) (i : Nat) : Prop := i = 0 ∨ c.ctxF i 0 9 9 = 1

theorem Chip.addCause_taken (h : c.AddTaken i) : c.addCause i e = 1 := if_pos h

theorem Chip.addCause_unmetered (h : ¬ c.AddTaken i) (hm : ¬ c.Metered i) : c.addCause i e = 2 :=
  (if_neg h).trans (if_pos (Chip.not_metered_iff.mp hm))

theorem Chip.addCause_egress (h : ¬ c.AddTaken i) (hm : c.Metered i) (he : 4 ≤ e) (hs : e < 0x10 ∨ 0x70 ≤ e) : c.addCause i e = 3 := by
  refine (if_neg h).trans ((if_neg fun h' => Chip.not_metered_iff.mpr h' hm).trans (if_pos ?_))
  rw [isUplinkPort, isSegPort, decide_eq_true_iff, decide_eq_true_iff]
  omega

theorem egress_iff : (isUplinkPort e = true ∨ isSegPort e = true) ↔ e < 4 ∨ (0x10 ≤ e ∧ e < 0x70) := by
  rw [isUplinkPort, isSegPort, decide_eq_true_iff, decide_eq_true_iff]

theorem Chip.addCause_length (h : ¬ c.AddTaken i) (hm : c.Metered i) (he : e < 4 ∨ (0x10 ≤ e ∧ e < 0x70))
    (hlen : c.ctxF i 0 31 18 < 64 ∨ 1522 < c.ctxF i 0 31 18) : c.addCause i e = 4 :=
  (if_neg h).trans ((if_neg fun h' => Chip.not_metered_iff.mpr h' hm).trans ((if_neg (not_not.mpr (egress_iff.mpr he))).trans (if_pos hlen)))

/-- The checks of an uplink's ledger. -/
def Chip.uplinkCause (c : Chip) (i e : Nat) : Nat :=
  let (g7, opened, cycle) := gateWait (c.fit1522 e) (c.governing e)
  let l := c.ledger e ++ [c.flowOf i]
  if rateFails l opened cycle then 5 else if burstFails l g7 (c.fld REEL.C7_BUDGET_NS) then 6 else 0

theorem Chip.addCause_uplink (h : ¬ c.AddTaken i) (hm : c.Metered i) (he : e < 4) (hl : 64 ≤ c.ctxF i 0 31 18) (hh : c.ctxF i 0 31 18 ≤ 1522) :
    c.addCause i e = c.uplinkCause i e := by
  refine (if_neg h).trans ((if_neg fun h' => Chip.not_metered_iff.mpr h' hm).trans ((if_neg (not_not.mpr (egress_iff.mpr (.inl he)))).trans
    ((if_neg (by omega)).trans (if_pos ?_))))
  rw [isUplinkPort, decide_eq_true_iff]
  exact he

theorem Chip.uplinkCause_eq : c.uplinkCause i e =
    if rateFails (c.ledger e ++ [c.flowOf i]) (gateWait (c.fit1522 e) (c.governing e)).2.1 (gateWait (c.fit1522 e) (c.governing e)).2.2 then 5
    else if burstFails (c.ledger e ++ [c.flowOf i]) (gateWait (c.fit1522 e) (c.governing e)).1 (c.fld REEL.C7_BUDGET_NS) then 6 else 0 := rfl
end

/-! ### The clock that shows a result -/

section
variable {c : Chip} {cause : Nat}

theorem Chip.admitShow_some (h : c.reel.admitResult = some cause) : c.admitShow =
    (((c.withResult none).setFld REEL.C7_ADMIT_STATUS_STATE (if cause = 0 then 2 else 3)).setFld REEL.C7_ADMIT_STATUS_CAUSE cause).raise
      (if cause = 0 then EV.REEL_C7_ADMIT_DONE else EV.REEL_C7_ADMIT_REFUSED) := by
  rw [Chip.admitShow, h]
  rfl

/-- The block at the start of a clock. -/
def Chip.clockStarted (c : Chip) : Chip :=
  ({ c with hwSet := [], resetting := [] }.setFld DISTAFF.DIR_STATUS_BUSY 0).setFld REEL.CTX_STATUS_BUSY 0

theorem Chip.clockTick_eq : c.clockTick = c.clockStarted.admitShow := rfl

theorem Chip.clockStarted_frame : c.Frame [.resetting] (· ∈ [DISTAFF.DIR_STATUS_BUSY.key 0 0, REEL.CTX_STATUS_BUSY.key 0 0]) c.clockStarted :=
  ((((Chip.Frame.refl c).withResetting [] (by decide)).regs _ [] fun _ _ _ => rfl).setFld _ _ 0 0 (by decide)).setFld _ _ 0 0 (by decide)

/-- The two events of a result. -/
def admitEvt (cause : Nat) : Evt := if cause = 0 then EV.REEL_C7_ADMIT_DONE else EV.REEL_C7_ADMIT_REFUSED

theorem admitEvt_cls : (admitEvt cause).cls = .reel ∧ (admitEvt cause).bit < 32 := by
  unfold admitEvt
  split <;> decide

/-- What the start of a clock leaves of a result that waits. -/
theorem Chip.clockTick_shows (h : c.reel.admitResult = some cause) :
    c.clockTick.reel.admitResult = none ∧ c.clockTick.fld REEL.C7_ADMIT_STATUS_STATE = (if cause = 0 then 2 else 3) ∧
      c.clockTick.fld REEL.C7_ADMIT_STATUS_CAUSE = cause % 16 ∧ c.Tells c.clockTick (admitEvt cause) := by
  have hstart := c.clockStarted_frame
  have hreel : c.clockStarted.reel.admitResult = some cause := (congrArg Reel.admitResult (hstart.reel (by decide))).trans h
  obtain ⟨hcls, hbit⟩ := admitEvt_cls (cause := cause)
  have hkey : (admitEvt cause).key 0 = evtKey PageCls.reel.base := by rw [Evt.key, hcls]; rfl
  have hset : c.clockStarted.Frame [.reel] (· ∈ [REEL.C7_ADMIT_STATUS_STATE.key 0 0, REEL.C7_ADMIT_STATUS_CAUSE.key 0 0])
      (((c.clockStarted.withResult none).setFld REEL.C7_ADMIT_STATUS_STATE (if cause = 0 then 2 else 3)).setFld
        REEL.C7_ADMIT_STATUS_CAUSE cause) :=
    ((Chip.withResult_frame _ _).setFld _ _ 0 0 (by decide)).setFld _ _ 0 0 (by decide)
  have hraise (d : Chip) : d.Frame [] (· ∈ [evtKey PageCls.reel.base]) (d.raise (admitEvt cause)) :=
    (Chip.Frame.refl d).raise _ 0 (by rw [hkey]; exact List.mem_singleton.mpr rfl)
  rw [Chip.clockTick_eq, Chip.admitShow_some hreel]
  refine ⟨?_, ?_, ?_, ?_⟩
  · exact congrArg Reel.admitResult ((hraise _).reel (by decide))
  · refine ((hraise _).fld _ 0 0 (by decide)).trans ?_
    rw [Chip.fld_setFld_ne _ _ _ _ _ _ _ _ (by decide), Chip.fld_setFld_self]
    split <;> rfl
  · refine ((hraise _).fld _ 0 0 (by decide)).trans ?_
    rw [Chip.fld_setFld_self]
    rfl
  · have hboth := (hstart.mono (T := [.resetting, .reel]) (L := (· ∈ [DISTAFF.DIR_STATUS_BUSY.key 0 0, REEL.CTX_STATUS_BUSY.key 0 0,
      REEL.C7_ADMIT_STATUS_STATE.key 0 0, REEL.C7_ADMIT_STATUS_CAUSE.key 0 0])) (by decide) (by simp)).andThen hset (by decide) (by simp)
    exact hboth.tells_raise (admitEvt cause) 0 hbit (by rw [hcls]; decide)
end

/-- The first clock after a request shows its result. -/
theorem step_shows {s : State} {cause : Nat} (hp : s.pending = []) (hm : s.chip.mode ≠ mRESET) (h : s.chip.reel.admitResult = some cause) :
    ∃ t, step s = .next t ∧ t.chip.reel.admitResult = none ∧ t.chip.fld REEL.C7_ADMIT_STATUS_STATE = (if cause = 0 then 2 else 3) ∧
      t.chip.fld REEL.C7_ADMIT_STATUS_CAUSE = cause % 16 ∧ s.chip.Tells t.chip (admitEvt cause) := by
  obtain ⟨hresult, hstate, hcause, htell⟩ := Chip.clockTick_shows h
  have hframe := s.chip.clockTick.clockCounted_frame s.chip.incEff
  obtain ⟨hcls, -⟩ := admitEvt_cls (cause := cause)
  refine ⟨_, (step_nil hp).trans (run_ended Chip.tick s), ?_, ?_, ?_, ?_⟩ <;> dsimp only <;> rw [Chip.tick_eq hm]
  · rw [Chip.ended_reel, hframe.reel (by decide), hresult]
  · rw [Chip.ended_fld _ _ _ _ _ (by decide), hframe.fld_apart _ 0 0 (by decide) (by decide) (by decide), hstate]
  · rw [Chip.ended_fld _ _ _ _ _ (by decide), hframe.fld_apart _ 0 0 (by decide) (by decide) (by decide), hcause]
  · refine Chip.Tells.ended (fun hu => (hframe.raised_apart (admitEvt cause) ?_ ?_).trans (htell hu)) ?_
    · rw [hcls]
      decide
    · rw [hcls]
      decide
    · rw [Evt.key, hcls]
      decide

/-! ### The requests -/

section
variable {s : State} {p : Port} {v : Word} {r : FieldRow} {i : Instr} {cause : Nat}

/-- What a refused request leaves: the result waits, and STATE reads BUSY. -/
theorem becomes_judged (h : exec i s = run (fun c => c.accessField p r 0 fun d => d.admitCmd p v.toNat) s) (hopen : s.chip.Open p r.cls 0)
    (hj : s.chip.admitCmd p v.toNat = s.chip.admitJudged cause) :
    Becomes i s (s.chip.withResult (some cause)) [REEL.C7_ADMIT_STATUS_STATE.key 0 0] fun d => d.fld REEL.C7_ADMIT_STATUS_STATE = 1 := by
  refine becomes_of_access h hopen ?_ ?_ <;> rw [hj, Chip.admitJudged_eq]
  · exact (Chip.Frame.refl _).setFld _ _ 0 0 (by decide)
  · exact (Chip.ended_fld _ _ _ _ _ (by decide)).trans (Chip.fld_setFld_self _ _ _ _ _)

theorem exec_c7AdmitAdd (p : Port) (v : Word) (s : State) : exec (.c7AdmitAdd p v) s =
    run (fun c => c.accessField p REEL.C7_ADMIT_CMD_CONTEXT 0 fun d => d.admitCmd p v.toNat) s := rfl
theorem exec_c7AdmitRemove (p : Port) (v : Word) (s : State) : exec (.c7AdmitRemove p v) s =
    run (fun c => c.accessField p REEL.C7_ADMIT_CMD_CONTEXT 0 fun d => d.admitCmd p v.toNat) s := rfl
end

section
variable {c : Chip} {p : Port} {v : Nat}

theorem Chip.admitCmd_busy (h : c.fld REEL.C7_ADMIT_STATUS_STATE = 1) : c.admitCmd p v = c.refuse REEL.C7_ADMIT_CMD_CONTEXT p := if_pos h

theorem Chip.admitCmd_add (h : c.fld REEL.C7_ADMIT_STATUS_STATE ≠ 1) (hop : bitsOf v 19 18 = 1) : c.admitCmd p v =
    if c.addCause (bitsOf v 17 0) (bitsOf v 27 20) = 0 then c.admitAdd (bitsOf v 17 0) (bitsOf v 27 20)
    else c.admitJudged (c.addCause (bitsOf v 17 0) (bitsOf v 27 20)) := by
  rw [Chip.admitCmd, if_neg h, hop]
  rfl

theorem Chip.admitCmd_remove (h : c.fld REEL.C7_ADMIT_STATUS_STATE ≠ 1) (hop : bitsOf v 19 18 = 2) : c.admitCmd p v =
    if bitsOf v 17 0 = 0 ∨ c.ctxF (bitsOf v 17 0) 0 9 9 = 0 then c.admitJudged 1 else c.admitRemove (bitsOf v 17 0) := by
  rw [Chip.admitCmd, if_neg h, hop]
  rfl

theorem Chip.admitCmd_other (h : c.fld REEL.C7_ADMIT_STATUS_STATE ≠ 1) (hop : bitsOf v 19 18 = 0 ∨ bitsOf v 19 18 = 3) :
    c.admitCmd p v = c.admitJudged 1 := by
  rw [Chip.admitCmd, if_neg h]
  rcases hop with hop | hop <;> rw [hop] <;> rfl
end

/-- What an accepted request leaves besides its context's own bits: the result, the count, and every other context. -/
def Chip.Admitted (c d : Chip) (i : Nat) : Prop :=
  d.fld REEL.C7_ADMIT_STATUS_STATE = 1 ∧ d.reel.admitResult = some 0 ∧ d.fld REEL.C7_ADMITTED_COUNT = d.reel.admitted.length % 2 ^ 18 ∧
    (∀ j, j ≠ i → (j ∈ d.reel.admitted ↔ j ∈ c.reel.admitted)) ∧ (∀ j w, j ≠ i → w < 16 → d.ctxW j w = c.ctxW j w) ∧
    (∀ w, 1 ≤ w → w < 16 → d.ctxW i w = c.ctxW i w) ∧ d.ctxF i 0 31 18 = c.ctxF i 0 31 18 ∧ d.ctxF i 0 8 0 = c.ctxF i 0 8 0

section
variable {c : Chip} {i e x : Nat} {l : List Nat}

theorem Chip.withAdmitted_admitted : (c.withAdmitted l).reel.admitted = l := rfl
theorem Chip.ctxW_withAdmitted (j w : Nat) : (c.withAdmitted l).ctxW j w = c.ctxW j w := rfl

/-- What an accepted request leaves, whatever list of contexts it sets. -/
theorem Chip.admitted_of_list {b c d : Chip} (hd : d = b.ended (((c.setAdmission i x e).withAdmitted l).admitCounted.admitJudged 0))
    (hx : x < 2) (he : e < 256) (hl : ∀ j, j ≠ i → (j ∈ l ↔ j ∈ c.reel.admitted)) :
    c.Admitted d i ∧ d.reel.admitted = l ∧ d.ctxF i 0 9 9 = x ∧ d.ctxF i 0 17 10 = e := by
  obtain ⟨hstate, hcount, hreel⟩ := Chip.admitDone_says hd
  have hlist : d.reel.admitted = l := by rw [hreel]; rfl
  have hctx (j w : Nat) : d.ctxW j w = (c.setAdmission i x e).ctxW j w := by
    rw [Chip.ctxW, hreel, Chip.ctxW]
    rfl
  have hword : d.ctxW i 0 = admittedWord (c.ctxW i 0) x e := (hctx i 0).trans Chip.ctxW_setAdmission_self
  obtain ⟨hadm, hegress, hlen, hlow⟩ := admittedWord_fields (c.ctxW i 0) e hx he
  refine ⟨⟨hstate, by rw [hreel], by rw [hlist]; exact hcount, fun j hj => ?_, fun j w hj hw => ?_, fun w h1 hw => ?_, ?_, ?_⟩, hlist, ?_, ?_⟩
  · rw [hlist]
    exact hl j hj
  · exact (hctx j w).trans (Chip.ctxW_setAdmission_ne hw (.inl hj))
  · exact (hctx i w).trans (Chip.ctxW_setAdmission_ne hw (.inr (by omega)))
  · rw [Chip.ctxF, hword, hlen, Chip.ctxF]
  · rw [Chip.ctxF, hword, hlow, Chip.ctxF]
  · rw [Chip.ctxF, hword, hadm]
  · rw [Chip.ctxF, hword, hegress]

theorem Chip.setAdmission_reel_admitted : (c.setAdmission i x e).reel.admitted = c.reel.admitted := rfl

/-- The list with a context put in at its place. -/
theorem mem_insertAt {a : List Nat} {j : Nat} (hj : j ≠ i) : j ∈ a.filter (· < i) ++ [i] ++ a.filter (i < ·) ↔ j ∈ a := by
  simp only [List.mem_append, List.mem_filter, List.mem_singleton, decide_eq_true_eq]
  constructor
  · rintro ((h | h) | h)
    · exact h.1
    · exact absurd h hj
    · exact h.1
  · intro h
    rcases Nat.lt_or_gt_of_ne hj with hlt | hgt
    · exact .inl (.inl ⟨h, hlt⟩)
    · exact .inr ⟨h, hgt⟩
end

section
variable {s : State} {p : Port} {v : Word}

/-- An ADD that is accepted. -/
theorem c7AdmitAdd_accepted (hopen : s.chip.Open p .reel 0) (hst : s.chip.fld REEL.C7_ADMIT_STATUS_STATE ≠ 1)
    (hop : bitsOf v.toNat 19 18 = 1) (h : s.chip.addCause (bitsOf v.toNat 17 0) (bitsOf v.toNat 27 20) = 0) :
    Ends (.c7AdmitAdd p v) s fun d => s.chip.Admitted d (bitsOf v.toNat 17 0) ∧ bitsOf v.toNat 17 0 ∈ d.reel.admitted ∧
      d.ctxF (bitsOf v.toNat 17 0) 0 9 9 = 1 ∧ d.ctxF (bitsOf v.toNat 17 0) 0 17 10 = bitsOf v.toNat 27 20 := by
  refine ends_of_access (exec_c7AdmitAdd p v s) hopen ?_
  rw [Chip.admitCmd_add hst hop, if_pos h, Chip.admitAdd_eq]
  obtain ⟨hall, hlist, hadm, hegress⟩ := Chip.admitted_of_list (c := s.chip) (i := bitsOf v.toNat 17 0) rfl (by decide : 1 < 2)
    (bitsOf_lt (w := v.toNat) 27 20) fun j hj => mem_insertAt hj
  rw [Chip.setAdmission_reel_admitted]
  refine ⟨hall, ?_, hadm, hegress⟩
  rw [hlist]
  exact List.mem_append_left _ (List.mem_append_right _ (List.mem_singleton.mpr rfl))

/-- A REMOVE that is accepted. -/
theorem c7AdmitRemove_accepted (hopen : s.chip.Open p .reel 0) (hst : s.chip.fld REEL.C7_ADMIT_STATUS_STATE ≠ 1)
    (hop : bitsOf v.toNat 19 18 = 2) (h0 : bitsOf v.toNat 17 0 ≠ 0) (hadm : s.chip.ctxF (bitsOf v.toNat 17 0) 0 9 9 = 1) :
    Ends (.c7AdmitRemove p v) s fun d => s.chip.Admitted d (bitsOf v.toNat 17 0) ∧ bitsOf v.toNat 17 0 ∉ d.reel.admitted ∧
      d.ctxF (bitsOf v.toNat 17 0) 0 9 9 = 0 ∧ d.ctxF (bitsOf v.toNat 17 0) 0 17 10 = 0 := by
  refine ends_of_access (exec_c7AdmitRemove p v s) hopen ?_
  rw [Chip.admitCmd_remove hst hop, if_neg (by rw [hadm]; exact not_or.mpr ⟨h0, by decide⟩), Chip.admitRemove_eq]
  obtain ⟨hall, hlist, hword, hegress⟩ := Chip.admitted_of_list (c := s.chip) (i := bitsOf v.toNat 17 0)
    (l := s.chip.reel.admitted.filter (· ≠ bitsOf v.toNat 17 0)) rfl (by decide : 0 < 2) (by decide : 0 < 256)
    fun j hj => List.mem_filter.trans (and_iff_left (decide_eq_true hj))
  rw [Chip.setAdmission_reel_admitted]
  refine ⟨hall, ?_, hword, hegress⟩
  rw [hlist]
  exact fun h => of_decide_eq_true (List.mem_filter.mp h).2 rfl
end

/-- Settles O43: each request by the checks of Table 08.10, and the clock that shows its result. -/
theorem class7Admission : Obligations.Class7Admission := by
  unfold Obligations.Class7Admission
  refine ⟨fun s cause hp hm h => step_shows hp hm h, ?_⟩
  intro s p v c i e op len refused done metered hopen
  refine ⟨fun hbusy => ?_, fun hst => ⟨fun hop => ?_, fun hop => ?_, fun hop => ?_⟩⟩
  · have hcmd : c.accessField p REEL.C7_ADMIT_CMD_CONTEXT 0 (fun d => d.admitCmd p v.toNat) =
        c.errcnt PageCls.reel.base REEL.C7_ADMIT_CMD_CONTEXT.off p := (c.accessField_open hopen _).trans (Chip.admitCmd_busy hbusy)
    exact setsRegs_of_counted (exec_c7AdmitAdd p v s) hcmd (by decide)
  · intro add
    have hrefuse {cause : Nat} (hc : c.addCause i e = cause) (hne : cause ≠ 0) : refused add cause := by
      subst hc
      exact becomes_judged (exec_c7AdmitAdd p v s) hopen ((Chip.admitCmd_add hst hop).trans (if_neg hne))
    refine ⟨fun htaken => hrefuse (Chip.addCause_taken htaken) (by decide), fun h0 hadm => ?_, fun hne => hrefuse rfl hne,
      fun h => c7AdmitAdd_accepted hopen hst hop h⟩
    have hnew : ¬ c.AddTaken i := not_or.mpr ⟨h0, by rw [hadm]; decide⟩
    refine ⟨fun hm => hrefuse (Chip.addCause_unmetered hnew hm) (by decide), fun hm he hs => hrefuse (Chip.addCause_egress hnew hm he hs) (by decide),
      fun hm he hl => hrefuse (Chip.addCause_length hnew hm he hl) (by decide), fun hm he hlow hhigh => ?_⟩
    intro g flows
    have hcause := (Chip.addCause_uplink hnew hm he hlow hhigh).trans Chip.uplinkCause_eq
    refine ⟨fun hrate => hrefuse (hcause.trans (if_pos (decide_eq_true hrate))) (by decide), fun hrate g7 hg hburst => ?_⟩
    refine hrefuse (hcause.trans ((if_neg ?_).trans (if_pos ?_))) (by decide)
    · exact fun h => absurd (decide_eq_true_iff.mp h) (Nat.not_lt.mpr hrate)
    · have hg' : (gateWait (c.fit1522 e) (c.governing e)).1 = some g7 := hg
      rw [hg']
      exact decide_eq_true hburst
  · intro rem
    refine ⟨fun hnone => ?_, fun h0 hadm => c7AdmitRemove_accepted hopen hst hop h0 hadm⟩
    exact becomes_judged (exec_c7AdmitRemove p v s) hopen ((Chip.admitCmd_remove hst hop).trans (if_pos hnone))
  · exact becomes_judged (exec_c7AdmitAdd p v s) hopen (Chip.admitCmd_other hst hop)

end Sys2Proof.Machine
end

section
/-!
PROOF. Recovery (R320 to R325), the layer of its operations: words of a counter set and of a context, and what a change within one
context's words and its set leaves alone.
-/
namespace Sys2Proof.Machine

/-! ### Words of a set and of a context -/

section
variable {c d : Chip} {i j k u w v h : Nat}

theorem Chip.setW_congr (h : d.ply = c.ply) : d.setW k w = c.setW k w := by rw [Chip.setW, h, Chip.setW]

theorem Chip.ctxW_congr (h : d.reel = c.reel) : d.ctxW i w = c.ctxW i w := by rw [Chip.ctxW, h, Chip.ctxW]

theorem Chip.setW_setSetW_self : (c.setSetW k w v).setW k w = v := Tab.get_put_self _ _ _ _

theorem Chip.setW_setSetW_ne (h : 16 * j + u ≠ 16 * k + w) : (c.setSetW k w v).setW j u = c.setW j u := Tab.get_put_ne _ _ _ _ h

theorem Chip.setSetW_frame {K : Nat → Prop} : c.Frame [.ply] K (c.setSetW k w v) := (Chip.Frame.refl c).withPly _ (by decide)

theorem Chip.setAdd_frame {K : Nat → Prop} : c.Frame [.ply] K (c.setAdd k w v) := Chip.setSetW_frame

theorem Chip.setW_setAdd_self : (c.setAdd k w v).setW k w = min (c.setW k w + v) 0xFFFFFFFF := Chip.setW_setSetW_self

theorem Chip.setW_setAdd_ne (h : 16 * j + u ≠ 16 * k + w) : (c.setAdd k w v).setW j u = c.setW j u := Chip.setW_setSetW_ne h

theorem Chip.setCtxF_frame {hi lo : Nat} {K : Nat → Prop} : c.Frame [.reel] K (c.setCtxF i w hi lo v) :=
  (Chip.Frame.refl c).withReel _ (by decide)

theorem Chip.setHist_frame {K : Nat → Prop} : c.Frame [.reel] K (c.setHist i h) :=
  ((((Chip.Frame.refl c).withReel _ (by decide)).withReel _ (by decide)).withReel _ (by decide)).withReel _ (by decide)

theorem Chip.ctxW_setCtxF_ne {hi lo : Nat} (h : 16 * j + u ≠ 16 * i + w) : (c.setCtxF i w hi lo v).ctxW j u = c.ctxW j u :=
  Chip.ctxW_setCtxW_ne _ _ _ _ _ _ h

theorem Chip.ctxW_setCtxF_self {hi lo : Nat} : (c.setCtxF i w hi lo v).ctxW i w = withBits (c.ctxW i w) hi lo v % 2 ^ 32 :=
  Chip.ctxW_setCtxW_self _ _ _ _

theorem Chip.ctxW_setHist_ne (hu : u < 16) (h' : j ≠ i ∨ u < 12) : (c.setHist i h).ctxW j u = c.ctxW j u := by
  rw [Chip.setHist, Chip.ctxW_setCtxW_ne _ _ _ _ _ _ (by omega), Chip.ctxW_setCtxW_ne _ _ _ _ _ _ (by omega),
    Chip.ctxW_setCtxW_ne _ _ _ _ _ _ (by omega), Chip.ctxW_setCtxW_ne _ _ _ _ _ _ (by omega)]

theorem Chip.hist_congr (h12 : d.ctxW i 12 = c.ctxW i 12) (h13 : d.ctxW i 13 = c.ctxW i 13) (h14 : d.ctxW i 14 = c.ctxW i 14)
    (h15 : d.ctxW i 15 = c.ctxW i 15) : d.hist i = c.hist i := by
  rw [Chip.hist, h12, h13, h14, h15, Chip.hist]

theorem Chip.histLen_le : c.histLen i ≤ 128 := max_le (by decide) (min_le_left _ _)

/-- The four words of HIST hold the bits that HISTLEN keeps. -/
theorem Chip.hist_setHist : (c.setHist i h).hist i = h % 2 ^ c.histLen i := by
  have hlt : h % 2 ^ c.histLen i < 2 ^ 128 :=
    lt_of_lt_of_le (Nat.mod_lt _ (Nat.two_pow_pos _)) (Nat.pow_le_pow_right (by decide) Chip.histLen_le)
  have h15 : (c.setHist i h).ctxW i 15 = h % 2 ^ c.histLen i / 2 ^ 96 % 2 ^ 32 := Chip.ctxW_setCtxW_self _ _ _ _
  have h14 : (c.setHist i h).ctxW i 14 = h % 2 ^ c.histLen i / 2 ^ 64 % 2 ^ 32 := by
    rw [Chip.setHist, Chip.ctxW_setCtxW_ne _ _ _ _ _ _ (by omega), Chip.ctxW_setCtxW_self]
  have h13 : (c.setHist i h).ctxW i 13 = h % 2 ^ c.histLen i / 2 ^ 32 % 2 ^ 32 := by
    rw [Chip.setHist, Chip.ctxW_setCtxW_ne _ _ _ _ _ _ (by omega), Chip.ctxW_setCtxW_ne _ _ _ _ _ _ (by omega), Chip.ctxW_setCtxW_self]
  have h12 : (c.setHist i h).ctxW i 12 = h % 2 ^ c.histLen i % 2 ^ 32 := by
    rw [Chip.setHist, Chip.ctxW_setCtxW_ne _ _ _ _ _ _ (by omega), Chip.ctxW_setCtxW_ne _ _ _ _ _ _ (by omega),
      Chip.ctxW_setCtxW_ne _ _ _ _ _ _ (by omega), Chip.ctxW_setCtxW_self]
  rw [Chip.hist, h12, h13, h14, h15]
  generalize h % 2 ^ c.histLen i = x at hlt
  omega
end

/-! ### A change within one context and its set -/

/-- `d` differs from `c` in the words `W` of the counter set of context `i`, in the words `X` of the context, and in the cells `K`. -/
structure Chip.Within (c d : Chip) (i : Nat) (W X K : List Nat) : Prop where
  frame : c.Frame [.ply, .reel] (· ∈ K) d
  set : ∀ u, u < 16 → u ∉ W → d.setW (c.cntSet i) u = c.setW (c.cntSet i) u
  ctx : ∀ u, u < 16 → u ∉ X → d.ctxW i u = c.ctxW i u
  other : ∀ j u, j ≠ i → u < 16 → d.ctxW j u = c.ctxW j u
  tells : ∀ (a : Chip) (v : Evt), v.bit < 32 → v.cls = .ply → a.Tells c v → a.Tells d v

section
variable {a c d e : Chip} {i w k : Nat} {W X K W' X' K' : List Nat} {r : FieldRow}

theorem Chip.Within.refl (c : Chip) (i : Nat) (W X K : List Nat) : c.Within c i W X K :=
  ⟨.refl c, fun _ _ _ => rfl, fun _ _ _ => rfl, fun _ _ _ _ => rfl, fun _ _ _ _ h => h⟩

theorem Chip.Within.cntSet (h : c.Within d i W X K) (h9 : 9 ∉ X) : d.cntSet i = c.cntSet i := by
  rw [Chip.cntSet, Chip.ctxF, h.ctx 9 (by decide) h9, Chip.cntSet, Chip.ctxF]

theorem Chip.Within.trans (h : c.Within d i W X K) (h' : d.Within e i W X K) (h9 : 9 ∉ X) : c.Within e i W X K :=
  ⟨h.frame.trans h'.frame, fun u hu hw => by rw [← h.cntSet h9, h'.set u hu hw, h.cntSet h9, h.set u hu hw],
    fun u hu hx => (h'.ctx u hu hx).trans (h.ctx u hu hx), fun j u hj hu => (h'.other j u hj hu).trans (h.other j u hj hu),
    fun a v hb hc ht => h'.tells a v hb hc (h.tells a v hb hc ht)⟩

theorem Chip.Within.mono (h : c.Within d i W X K) (hW : W ⊆ W') (hX : X ⊆ X') (hK : K ⊆ K') : c.Within d i W' X' K' :=
  ⟨h.frame.mono (List.Subset.refl _) hK, fun u hu hw => h.set u hu fun hm => hw (hW hm), fun u hu hx => h.ctx u hu fun hm => hx (hX hm),
    h.other, h.tells⟩

/-- One more change, within the same words and cells. -/
theorem Chip.Within.andThen (h : c.Within d i W X K) (h' : d.Within e i W' X' K') (h9 : 9 ∉ X) (hW : W' ⊆ W) (hX : X' ⊆ X) (hK : K' ⊆ K) :
    c.Within e i W X K := h.trans (h'.mono hW hX hK) h9

theorem Chip.within_setCtxF {hi lo v : Nat} (hw : w < 16) : c.Within (c.setCtxF i w hi lo v) i [] [w] [] :=
  ⟨Chip.setCtxF_frame.mono (by simp) fun _ h => h, fun _ _ _ => Chip.setW_congr rfl,
    fun u hu hx => Chip.ctxW_setCtxF_ne (by simp only [List.mem_singleton] at hx; omega), fun j u hj hu => Chip.ctxW_setCtxF_ne (by omega),
    fun a v _ _ ht => (Chip.setCtxF_frame (K := fun _ => False)).tells ht id⟩

theorem Chip.within_setHist {h : Nat} : c.Within (c.setHist i h) i [] [12, 13, 14, 15] [] :=
  ⟨Chip.setHist_frame.mono (by simp) fun _ h => h, fun _ _ _ => Chip.setW_congr (Chip.setHist_frame (K := fun _ => False).ply (by decide)),
    fun u hu hx => Chip.ctxW_setHist_ne hu (.inr (by simp only [List.mem_cons, List.not_mem_nil, or_false, not_or] at hx; omega)),
    fun j u hj hu => Chip.ctxW_setHist_ne hu (.inl hj), fun a v _ _ ht => (Chip.setHist_frame (K := fun _ => False)).tells ht id⟩

theorem Chip.within_setAdd {v : Nat} : c.Within (c.setAdd (c.cntSet i) w v) i [w] [] [] :=
  ⟨Chip.setAdd_frame.mono (by simp) fun _ h => h,
    fun u hu hx => Chip.setW_setAdd_ne (by simp only [List.mem_singleton] at hx; omega), fun _ _ _ => Chip.ctxW_congr rfl,
    fun _ _ _ _ => Chip.ctxW_congr rfl, fun a v _ _ ht => (Chip.setAdd_frame (K := fun _ => False)).tells ht id⟩

theorem Chip.within_bumpBy (hr : r.key 0 0 ≠ evtKey PageCls.ply.base) : c.Within (c.bumpBy r k) i [] [] [r.key 0 0] := by
  have hframe : c.Frame [] (· ∈ [r.key 0 0]) (c.bumpBy r k) := (Chip.Frame.refl c).bumpBy r k 0 0 (by simp)
  refine ⟨hframe.mono (by simp) fun _ h => h, fun _ _ _ => Chip.setW_congr rfl, fun _ _ _ => Chip.ctxW_congr rfl,
    fun _ _ _ _ => Chip.ctxW_congr rfl, fun a v _ hc ht => hframe.tells ht fun hk => hr ?_⟩
  have hkey : v.key 0 = evtKey PageCls.ply.base := by rw [Evt.key, hc]; rfl
  exact (List.mem_singleton.mp hk).symm.trans hkey

theorem Chip.within_raise {v : Evt} (hv : v.cls = .ply) : c.Within (c.raise v) i [] [] [evtKey PageCls.ply.base] := by
  have hkey : v.key 0 = evtKey PageCls.ply.base := by rw [Evt.key, hv]; rfl
  have hframe : c.Frame [] (· ∈ [evtKey PageCls.ply.base]) (c.raise v) := (Chip.Frame.refl c).raise v 0 (by rw [hkey]; simp)
  exact ⟨hframe.mono (by simp) fun _ h => h, fun _ _ _ => Chip.setW_congr (hframe.ply (by decide)),
    fun _ _ _ => Chip.ctxW_congr (hframe.reel (by decide)), fun _ _ _ _ => Chip.ctxW_congr (hframe.reel (by decide)),
    fun a x hb _ ht => ht.raise hb v 0⟩

theorem Chip.within_plyCount (hr : r.key 0 0 ≠ evtKey PageCls.ply.base) :
    c.Within (c.plyCount i w r k) i [w] [] [r.key 0 0] :=
  (Chip.within_setAdd.mono (List.Subset.refl _) (List.Subset.refl _) (by simp)).andThen (Chip.within_bumpBy hr) (by simp) (by simp)
    (by simp) (List.Subset.refl _)

/-! ### Counts -/

/-- A count of context `i` by `k`: in word `w` of its set, and in the total `r` (R323). -/
def Chip.SetCounts (c d : Chip) (i w : Nat) (r : FieldRow) (k : Nat) : Prop :=
  d.setW (c.cntSet i) w = min (c.setW (c.cntSet i) w + k) 0xFFFFFFFF ∧ c.Counts d r 0 k

theorem Chip.counts_bumpBy (c : Chip) (r : FieldRow) (k : Nat) : c.Counts (c.bumpBy r k) r 0 k := by
  rw [Chip.Counts, Chip.bumpBy, Chip.fld_setFld_self]
  refine Nat.mod_eq_of_lt ?_
  have := Nat.two_pow_pos r.width
  omega

theorem Chip.plyCount_counts (c : Chip) (i w : Nat) (r : FieldRow) (k : Nat) : c.SetCounts (c.plyCount i w r k) i w r k :=
  ⟨Chip.setW_setAdd_self, (c.setAdd (c.cntSet i) w k).counts_bumpBy r k⟩

/-- A count stands, whatever happens around it that leaves its word and its total alone. -/
theorem Chip.SetCounts.mid (h : c.Within e i W X K) (h' : (e.plyCount i w r k).Within d i W' X' K') (h9 : 9 ∉ X) (hw : w < 16)
    (hW : w ∉ W) (hW' : w ∉ W') (hK : r.key 0 0 ∉ K) (hK' : r.key 0 0 ∉ K') : c.SetCounts d i w r k := by
  obtain ⟨hset, hcount⟩ := e.plyCount_counts i w r k
  have hcnt : (e.plyCount i w r k).cntSet i = e.cntSet i := rfl
  refine ⟨?_, ?_⟩
  · rw [← h.cntSet h9, ← hcnt, h'.set w hw hW', hcnt, hset, h.cntSet h9, h.set w hw hW]
  · rw [Chip.Counts, h'.frame.fld r 0 0 hK', hcount, h.frame.fld r 0 0 hK]

/-- An event stands, whatever happens around it. -/
theorem Chip.tells_mid {v : Evt} (h : c.Within e i W X K) (h' : (e.raise v).Within d i W' X' K') (hv : v.cls = .ply) (hb : v.bit < 32)
    (hK : (Domain.row .core).key 0 0 ∉ K) : c.Tells d v :=
  h'.tells c v hb hv (h.frame.tells_raise v 0 hb (by rw [hv]; exact hK))

/-! ### A packet passed, a duplicate, one out of order -/

/-- What a packet that is passed leaves. -/
def Chip.PassedBy (c d : Chip) (i : Nat) : Prop :=
  c.SetCounts d i 0 PLY.PASSED_COUNT 1 ∧ d.setW (c.cntSet i) 9 = min (c.setW (c.cntSet i) 9 + 1) 0xFFFFFFFF ∧
    d.ctxF i 11 15 0 = c.fld PLY.MS_COUNT_MS % 65536

theorem bitsOf_withBits_low (w v : Nat) : bitsOf (withBits w 15 0 v % 2 ^ 32) 15 0 = v % 65536 := by
  simp only [withBits, bitsOf_eq, Nat.reduceSub, Nat.reduceAdd, Nat.reducePow, Nat.div_one, Nat.pow_zero]
  omega

/-- The count and the note of the time that a passed packet leaves. -/
def Chip.passNoted (c : Chip) (i ms : Nat) : Chip := (c.setAdd (c.cntSet i) 9 1).setCtxF i 11 15 0 ms

theorem Chip.plyPass_eq (c : Chip) (i : Nat) :
    c.plyPass i = (c.plyCount i 0 PLY.PASSED_COUNT 1).passNoted i (c.fld PLY.MS_COUNT_MS) := rfl

theorem Chip.within_passNoted {ms : Nat} : c.Within (c.passNoted i ms) i [9] [11] [] :=
  (Chip.within_setAdd.mono (List.Subset.refl _) (by simp) (List.Subset.refl _)).andThen (Chip.within_setCtxF (by decide))
    (by decide) (by simp) (List.Subset.refl _) (List.Subset.refl _)

theorem Chip.within_plyPass : c.Within (c.plyPass i) i [0, 9] [11] [PLY.PASSED_COUNT.key 0 0] := by
  rw [Chip.plyPass_eq]
  exact ((Chip.within_plyCount (by decide)).mono (by simp) (by simp) (List.Subset.refl _)).andThen Chip.within_passNoted (by decide)
    (by simp) (by simp) (by simp)

theorem Chip.passedBy_mid (h : c.Within e i W X K) (h9 : 9 ∉ X) (hW : 0 ∉ W ∧ 9 ∉ W) (hK : PLY.PASSED_COUNT.key 0 0 ∉ K)
    (hms : PLY.MS_COUNT_MS.key 0 0 ∉ K) : c.PassedBy (e.plyPass i) i := by
  obtain ⟨h0, hnine⟩ := hW
  rw [Chip.plyPass_eq]
  have hcount : e.Within (e.plyCount i 0 PLY.PASSED_COUNT 1) i [0] [] [PLY.PASSED_COUNT.key 0 0] :=
    Chip.within_plyCount (by decide)
  have hcnt : (e.plyCount i 0 PLY.PASSED_COUNT 1).cntSet i = c.cntSet i := (hcount.cntSet (by decide)).trans (h.cntSet h9)
  refine ⟨Chip.SetCounts.mid h Chip.within_passNoted h9 (by decide) h0 (by decide) hK (by decide), ?_, ?_⟩
  · have hadd : ((e.plyCount i 0 PLY.PASSED_COUNT 1).passNoted i (e.fld PLY.MS_COUNT_MS)).setW (c.cntSet i) 9 =
        min ((e.plyCount i 0 PLY.PASSED_COUNT 1).setW (c.cntSet i) 9 + 1) 0xFFFFFFFF := by
      rw [← hcnt]
      exact Chip.setW_setAdd_self
    rw [hadd, ← h.cntSet h9, hcount.set 9 (by decide) (by decide), h.cntSet h9, h.set 9 (by decide) hnine]
  · rw [Chip.ctxF, Chip.passNoted, Chip.ctxW_setCtxF_self, bitsOf_withBits_low, h.frame.fld _ 0 0 hms]

/-- What a duplicate leaves. -/
def Chip.DupBy (c d : Chip) (i : Nat) : Prop :=
  c.SetCounts d i 1 PLY.DISCARDED_COUNT 1 ∧ d.setW (c.cntSet i) 10 = min (c.setW (c.cntSet i) 10 + 1) 0xFFFFFFFF ∧ d.reel = c.reel

theorem Chip.plyDup_dupBy : c.DupBy (c.plyDup i) i := by
  have hcount : c.Within (c.plyCount i 1 PLY.DISCARDED_COUNT 1) i [1] [] [PLY.DISCARDED_COUNT.key 0 0] :=
    Chip.within_plyCount (by decide)
  refine ⟨Chip.SetCounts.mid (.refl c i [] [] []) (Chip.within_setAdd (w := 10)) (by decide) (by decide) (by decide) (by decide)
    (by decide) (by decide), ?_, rfl⟩
  have hadd : (c.plyDup i).setW (c.cntSet i) 10 = min ((c.plyCount i 1 PLY.DISCARDED_COUNT 1).setW (c.cntSet i) 10 + 1) 0xFFFFFFFF :=
    Chip.setW_setAdd_self
  rw [hadd, hcount.set 10 (by decide) (by decide)]

theorem Chip.within_plyDup : c.Within (c.plyDup i) i [1, 10] [] [PLY.DISCARDED_COUNT.key 0 0] :=
  ((Chip.within_plyCount (by decide)).mono (by simp) (List.Subset.refl _) (List.Subset.refl _)).andThen
    (Chip.within_setAdd (w := 10)) (by decide) (by simp) (List.Subset.refl _) (by simp)

/-- What a count with its event leaves. -/
def Chip.countTold (c : Chip) (i w : Nat) (r : FieldRow) (k : Nat) (v : Evt) : Chip := (c.plyCount i w r k).raise v

theorem Chip.within_countTold {v : Evt} (hr : r.key 0 0 ≠ evtKey PageCls.ply.base) (hv : v.cls = .ply) :
    c.Within (c.countTold i w r k v) i [w] [] [r.key 0 0, evtKey PageCls.ply.base] :=
  ((Chip.within_plyCount hr).mono (List.Subset.refl _) (List.Subset.refl _) (by simp)).andThen (Chip.within_raise hv) (by simp) (by simp)
    (by simp) (by simp)

/-- A count with its event stands, whatever happens around it. -/
theorem Chip.countTold_mid {v : Evt} (h : c.Within e i W X K) (h' : (e.countTold i w r k v).Within d i W' X' K') (h9 : 9 ∉ X)
    (h9' : 9 ∉ X') (hw : w < 16) (hr : r.key 0 0 ≠ evtKey PageCls.ply.base) (hv : v.cls = .ply) (hb : v.bit < 32) (hdom : r.key 0 0 ≠ (Domain.row .core).key 0 0)
    (hW : w ∉ W) (hW' : w ∉ W') (hK : r.key 0 0 ∉ K ∧ (Domain.row .core).key 0 0 ∉ K) (hK' : r.key 0 0 ∉ K') :
    c.SetCounts d i w r k ∧ c.Tells d v := by
  obtain ⟨hcell, hcore⟩ := hK
  refine ⟨?_, ?_⟩
  · have hafter : (e.plyCount i w r k).Within d i W' X' (evtKey PageCls.ply.base :: K') :=
      ((Chip.within_raise hv).mono (by simp) (by simp) (by simp)).andThen h' h9' (List.Subset.refl _) (List.Subset.refl _) (by simp)
    exact Chip.SetCounts.mid h hafter h9 hw hW hW' hcell (by simp [hr, hK'])
  · have hbefore : c.Within (e.plyCount i w r k) i (w :: W) X (r.key 0 0 :: K) :=
      (h.mono (by simp) (List.Subset.refl _) (by simp)).andThen (Chip.within_plyCount hr) h9 (by simp) (by simp) (by simp)
    exact Chip.tells_mid hbefore h' hv hb (by simp [hdom.symm, hcore])
end

end Sys2Proof.Machine
end

section
/-!
PROOF. Recovery by the vector and by the match algorithm, its second stage, and the Ply's timers, tests and resets (R318 to R335).
-/
namespace Sys2Proof.Machine

/-! ### The vector algorithm (R320) -/

section
variable {c : Chip} {i x : Nat}

/-- The context as a packet that is taken leaves it, at the vector algorithm. -/
def Chip.vectorTaken (c : Chip) (i x : Nat) : Chip :=
  ((c.setCtxF i 10 15 0 x).setHist i (2 ^ c.histLen i - 1)).setCtxF i 8 7 7 0

/-- The bits of HIST that leave, counted as lost. -/
def Chip.lostCounted (c : Chip) (i lost : Nat) : Chip := if lost = 0 then c else c.countTold i 4 PLY.LOST_COUNT lost EV.PLY_LOST

/-- HIST moved on to the packet's number. -/
def Chip.histMoved (c : Chip) (i h x : Nat) : Chip := (c.setHist i h).setCtxF i 10 15 0 x

theorem Chip.within_vectorTaken : c.Within (c.vectorTaken i x) i [] [8, 10, 12, 13, 14, 15] [] :=
  ((((Chip.within_setCtxF (by decide)).mono (List.Subset.refl _) (by simp) (List.Subset.refl _)).andThen Chip.within_setHist (by decide)
    (by simp) (by simp) (by simp))).andThen (Chip.within_setCtxF (by decide)) (by decide) (by simp) (by simp) (by simp)

theorem Chip.within_lostCounted {lost : Nat} : c.Within (c.lostCounted i lost) i [4] [] [PLY.LOST_COUNT.key 0 0, evtKey PageCls.ply.base] := by
  unfold Chip.lostCounted
  split
  · exact .refl _ _ _ _ _
  · exact Chip.within_countTold (by decide) rfl

theorem Chip.within_histMoved {h : Nat} : c.Within (c.histMoved i h x) i [] [10, 12, 13, 14, 15] [] :=
  ((Chip.within_setHist.mono (List.Subset.refl _) (by simp) (List.Subset.refl _))).andThen (Chip.within_setCtxF (by decide)) (by decide)
    (by simp) (by simp) (by simp)

theorem Chip.within_outOfOrder : c.Within (c.plyOutOfOrder i) i [2] [] [PLY.OUT_OF_ORDER_COUNT.key 0 0, evtKey PageCls.ply.base] :=
  Chip.within_countTold (v := EV.PLY_OUT_OF_ORDER) (by decide) rfl

theorem Chip.histLen_congr {d : Chip} (h : d.ctxW i 8 = c.ctxW i 8) : d.histLen i = c.histLen i := by
  rw [Chip.histLen, Chip.ctxF, h, Chip.histLen, Chip.ctxF]

/-- HIST after a change of a word below it. -/
theorem Chip.hist_setCtxF {w hi lo v : Nat} (hw : w < 12) : (c.setCtxF i w hi lo v).hist i = c.hist i :=
  Chip.hist_congr (Chip.ctxW_setCtxF_ne (by omega)) (Chip.ctxW_setCtxF_ne (by omega)) (Chip.ctxW_setCtxF_ne (by omega))
    (Chip.ctxW_setCtxF_ne (by omega))

/-- HIST after a change that leaves its words. -/
theorem Chip.Within.hist {d : Chip} {W X K : List Nat} (h : c.Within d i W X K) (hX : 12 ∉ X ∧ 13 ∉ X ∧ 14 ∉ X ∧ 15 ∉ X) :
    d.hist i = c.hist i := by
  obtain ⟨h12, h13, h14, h15⟩ := hX
  exact Chip.hist_congr (h.ctx 12 (by decide) h12) (h.ctx 13 (by decide) h13) (h.ctx 14 (by decide) h14) (h.ctx 15 (by decide) h15)

theorem Chip.Within.ctxF {d : Chip} {W X K : List Nat} {w hi lo : Nat} (h : c.Within d i W X K) (hw : w < 16) (hX : w ∉ X) :
    d.ctxF i w hi lo = c.ctxF i w hi lo := by
  rw [Chip.ctxF, h.ctx w hw hX, Chip.ctxF]

theorem Chip.Within.ctxF_other {d : Chip} {W X K : List Nat} {j w hi lo : Nat} (h : c.Within d i W X K) (hj : j ≠ i) (hw : w < 16) :
    d.ctxF j w hi lo = c.ctxF j w hi lo := by
  rw [Chip.ctxF, h.other j w hj hw, Chip.ctxF]

theorem Chip.hist_vectorTaken : (c.vectorTaken i x).hist i = 2 ^ c.histLen i - 1 := by
  have hlen : (c.setCtxF i 10 15 0 x).histLen i = c.histLen i := Chip.histLen_congr (Chip.ctxW_setCtxF_ne (by omega))
  have hpos := Nat.two_pow_pos (c.histLen i)
  rw [Chip.vectorTaken, Chip.hist_setCtxF (by decide), Chip.hist_setHist, hlen]
  exact Nat.mod_eq_of_lt (by omega)

/-- RECOV_SEQ after it is set. -/
theorem Chip.ctxF_setCtxF_low {w : Nat} : (c.setCtxF i w 15 0 x).ctxF i w 15 0 = x % 65536 := by
  rw [Chip.ctxF, Chip.ctxW_setCtxF_self, bitsOf_withBits_low]

theorem Chip.seq_vectorTaken : (c.vectorTaken i x).ctxF i 10 15 0 = x % 65536 := by
  have hlast : ((c.setCtxF i 10 15 0 x).setHist i (2 ^ c.histLen i - 1)).Within (c.vectorTaken i x) i [] [8] [] :=
    Chip.within_setCtxF (by decide)
  have hmid : (c.setCtxF i 10 15 0 x).Within ((c.setCtxF i 10 15 0 x).setHist i (2 ^ c.histLen i - 1)) i [] [12, 13, 14, 15] [] :=
    Chip.within_setHist
  rw [hlast.ctxF (by decide) (by decide), hmid.ctxF (by decide) (by decide), Chip.ctxF_setCtxF_low]

/-- TAKE_ANY cleared, and the fields of word 8 that it leaves. -/
theorem takeAny_cleared (w : Nat) : bitsOf (withBits w 7 7 0 % 2 ^ 32) 7 7 = 0 ∧ bitsOf (withBits w 7 7 0 % 2 ^ 32) 2 2 = bitsOf w 2 2 := by
  simp only [withBits, bitsOf_eq, Nat.reduceSub, Nat.reduceAdd, Nat.reducePow, Nat.zero_mod, Nat.zero_mul, Nat.add_zero]
  omega

theorem Chip.take_setCtxF : (c.setCtxF i 8 7 7 0).ctxF i 8 7 7 = 0 ∧ (c.setCtxF i 8 7 7 0).ctxF i 8 2 2 = c.ctxF i 8 2 2 := by
  rw [Chip.ctxF, Chip.ctxF, Chip.ctxW_setCtxF_self]
  exact takeAny_cleared _

/-- The five ends of the vector algorithm. -/
theorem Chip.vector_taking (h : c.ctxF i 8 7 7 = 1) : c.vectorRecovery i x = ((c.vectorTaken i x).plyPass i, true) := if_pos h

/-- The distance of a packet's number from RECOV_SEQ. -/
def Chip.seqDelta (c : Chip) (i x : Nat) : Int := signed 16 (x + 65536 - c.ctxF i 10 15 0)

theorem Chip.vector_rogue (h : ¬ c.ctxF i 8 7 7 = 1) (hd : (c.histLen i : Int) ≤ c.seqDelta i x ∨ c.seqDelta i x ≤ -(c.histLen i : Int)) :
    c.vectorRecovery i x = (c.countTold i 3 PLY.ROGUE_COUNT 1 EV.PLY_ROGUE, false) :=
  (if_neg h).trans (if_pos hd)

theorem Chip.vector_dup (h : ¬ c.ctxF i 8 7 7 = 1) (hlo : -(c.histLen i : Int) < c.seqDelta i x) (hd : c.seqDelta i x ≤ 0)
    (hb : (c.hist i).testBit (c.seqDelta i x).natAbs = true) : c.vectorRecovery i x = (c.plyDup i, false) := by
  have hn : 0 < c.histLen i := lt_of_lt_of_le Nat.zero_lt_one (le_max_left _ _)
  exact (if_neg h).trans ((if_neg (by change ¬ ((c.histLen i : Int) ≤ c.seqDelta i x ∨ c.seqDelta i x ≤ -(c.histLen i : Int)); omega)).trans
    ((if_pos hd).trans (if_pos hb)))

theorem Chip.vector_behind (h : ¬ c.ctxF i 8 7 7 = 1) (hlo : -(c.histLen i : Int) < c.seqDelta i x) (hd : c.seqDelta i x ≤ 0)
    (hb : (c.hist i).testBit (c.seqDelta i x).natAbs = false) : c.vectorRecovery i x =
      (((c.setHist i (c.hist i ||| 2 ^ (c.seqDelta i x).natAbs)).plyOutOfOrder i).plyPass i, true) := by
  have hn : 0 < c.histLen i := lt_of_lt_of_le Nat.zero_lt_one (le_max_left _ _)
  exact (if_neg h).trans ((if_neg (by change ¬ ((c.histLen i : Int) ≤ c.seqDelta i x ∨ c.seqDelta i x ≤ -(c.histLen i : Int)); omega)).trans
    ((if_pos hd).trans (if_neg (Bool.not_eq_true _ |>.mpr hb))))

/-- The block of a packet ahead of RECOV_SEQ, before it is passed. -/
def Chip.vectorMoved (c : Chip) (i x k lost : Nat) : Chip := (c.lostCounted i lost).histMoved i (c.hist i * 2 ^ k + 1) x

def Chip.orderCounted (c : Chip) (i k : Nat) : Chip := if k = 1 then c else c.plyOutOfOrder i

theorem Chip.vector_ahead (h : ¬ c.ctxF i 8 7 7 = 1) (hd : 0 < c.seqDelta i x) (hhi : c.seqDelta i x < (c.histLen i : Int)) :
    c.vectorRecovery i x = (((c.vectorMoved i x (c.seqDelta i x).toNat
      (zerosLeaving (c.hist i) (c.histLen i) (c.seqDelta i x).toNat)).orderCounted i (c.seqDelta i x).toNat).plyPass i, true) := by
  exact (if_neg h).trans ((if_neg (by change ¬ ((c.histLen i : Int) ≤ c.seqDelta i x ∨ c.seqDelta i x ≤ -(c.histLen i : Int)); omega)).trans
    (if_neg (by change ¬ c.seqDelta i x ≤ 0; omega)))

/-! What each end leaves. -/

theorem Chip.plyPass_kept {e : Chip} {w hi lo : Nat} (hw : w < 11) : (e.plyPass i).ctxF i w hi lo = e.ctxF i w hi lo :=
  Chip.within_plyPass.ctxF (by omega) (by simp only [List.mem_singleton]; omega)

theorem Chip.hist_plyPass {e : Chip} : (e.plyPass i).hist i = e.hist i := Chip.within_plyPass.hist (by decide)

/-- A packet taken while TAKE_ANY is set. -/
theorem Chip.vector_taking_says : c.PassedBy ((c.vectorTaken i x).plyPass i) i ∧
    ((c.vectorTaken i x).plyPass i).ctxF i 10 15 0 = x % 65536 ∧ ((c.vectorTaken i x).plyPass i).hist i = 2 ^ c.histLen i - 1 ∧
    ((c.vectorTaken i x).plyPass i).ctxF i 8 7 7 = 0 ∧ ((c.vectorTaken i x).plyPass i).ctxF i 8 2 2 = c.ctxF i 8 2 2 := by
  have hkept : ((c.setCtxF i 10 15 0 x).setHist i (2 ^ c.histLen i - 1)).ctxF i 8 2 2 = c.ctxF i 8 2 2 := by
    rw [Chip.within_setHist.ctxF (by decide) (by decide), (Chip.within_setCtxF (by decide)).ctxF (by decide) (by decide)]
  refine ⟨Chip.passedBy_mid Chip.within_vectorTaken (by decide) (by decide) (by decide) (by decide), ?_, ?_, ?_, ?_⟩
  · rw [Chip.plyPass_kept (by decide), Chip.seq_vectorTaken]
  · rw [Chip.hist_plyPass, Chip.hist_vectorTaken]
  · rw [Chip.plyPass_kept (by decide), Chip.vectorTaken, Chip.take_setCtxF.1]
  · rw [Chip.plyPass_kept (by decide), Chip.vectorTaken, Chip.take_setCtxF.2, hkept]

/-- A packet behind RECOV_SEQ whose bit is 0. -/
theorem Chip.vector_behind_says {b : Nat} : let d := ((c.setHist i (c.hist i ||| 2 ^ b)).plyOutOfOrder i).plyPass i
    c.PassedBy d i ∧ (c.SetCounts d i 2 PLY.OUT_OF_ORDER_COUNT 1 ∧ c.Tells d EV.PLY_OUT_OF_ORDER) ∧
      d.hist i = (c.hist i ||| 2 ^ b) % 2 ^ c.histLen i ∧ d.ctxF i 10 15 0 = c.ctxF i 10 15 0 ∧ d.ctxF i 8 2 2 = c.ctxF i 8 2 2 := by
  have hset : c.Within (c.setHist i (c.hist i ||| 2 ^ b)) i [] [12, 13, 14, 15] [] := Chip.within_setHist
  have hboth : c.Within ((c.setHist i (c.hist i ||| 2 ^ b)).plyOutOfOrder i) i [2] [12, 13, 14, 15]
      [PLY.OUT_OF_ORDER_COUNT.key 0 0, evtKey PageCls.ply.base] :=
    (hset.mono (by simp) (List.Subset.refl _) (by simp)).andThen Chip.within_outOfOrder (by decide) (List.Subset.refl _) (by simp)
      (List.Subset.refl _)
  refine ⟨Chip.passedBy_mid hboth (by decide) (by decide) (by decide) (by decide), ?_, ?_, ?_, ?_⟩
  · exact Chip.countTold_mid hset Chip.within_plyPass (by decide) (by decide) (by decide) (by decide) rfl (by decide) (by decide)
      (by decide) (by decide) (by decide) (by decide)
  · rw [Chip.hist_plyPass, Chip.within_outOfOrder.hist (by decide), Chip.hist_setHist]
  · rw [Chip.plyPass_kept (by decide), hboth.ctxF (by decide) (by decide)]
  · rw [Chip.plyPass_kept (by decide), hboth.ctxF (by decide) (by decide)]

/-- A packet ahead of RECOV_SEQ by `k`. -/
theorem Chip.vector_ahead_says {k lost : Nat} : let d := ((c.vectorMoved i x k lost).orderCounted i k).plyPass i
    c.PassedBy d i ∧ d.hist i = (c.hist i * 2 ^ k + 1) % 2 ^ c.histLen i ∧ d.ctxF i 10 15 0 = x % 65536 ∧
      (1 < k → c.SetCounts d i 2 PLY.OUT_OF_ORDER_COUNT 1 ∧ c.Tells d EV.PLY_OUT_OF_ORDER) ∧
      (lost ≠ 0 → c.SetCounts d i 4 PLY.LOST_COUNT lost ∧ c.Tells d EV.PLY_LOST) ∧
      (lost = 0 → d.setW (c.cntSet i) 4 = c.setW (c.cntSet i) 4) ∧ d.ctxF i 8 2 2 = c.ctxF i 8 2 2 := by
  have hlost : c.Within (c.lostCounted i lost) i [4] [] [PLY.LOST_COUNT.key 0 0, evtKey PageCls.ply.base] := Chip.within_lostCounted
  have hmove (e : Chip) : e.Within (e.histMoved i (c.hist i * 2 ^ k + 1) x) i [] [10, 12, 13, 14, 15] [] := Chip.within_histMoved
  have hmoved : c.Within (c.vectorMoved i x k lost) i [4] [10, 12, 13, 14, 15] [PLY.LOST_COUNT.key 0 0, evtKey PageCls.ply.base] :=
    (hlost.mono (List.Subset.refl _) (by simp) (List.Subset.refl _)).andThen (hmove _) (by decide) (by simp) (List.Subset.refl _) (by simp)
  have horder (e : Chip) : e.Within (e.orderCounted i k) i [2] [] [PLY.OUT_OF_ORDER_COUNT.key 0 0, evtKey PageCls.ply.base] := by
    unfold Chip.orderCounted
    split
    · exact .refl _ _ _ _ _
    · exact Chip.within_outOfOrder
  have hall : c.Within ((c.vectorMoved i x k lost).orderCounted i k) i [2, 4] [10, 12, 13, 14, 15]
      [PLY.LOST_COUNT.key 0 0, PLY.OUT_OF_ORDER_COUNT.key 0 0, evtKey PageCls.ply.base] :=
    (hmoved.mono (by simp) (List.Subset.refl _) (by simp)).andThen (horder _) (by decide) (by simp) (by simp) (by simp)
  have hafter (e : Chip) : e.Within (((e.histMoved i (c.hist i * 2 ^ k + 1) x).orderCounted i k).plyPass i) i [0, 2, 9]
      [10, 11, 12, 13, 14, 15] [PLY.OUT_OF_ORDER_COUNT.key 0 0, evtKey PageCls.ply.base, PLY.PASSED_COUNT.key 0 0] :=
    (((hmove e).mono (by simp) (by simp) (by simp)).andThen (horder _) (by decide) (by simp) (by simp) (by simp)).andThen
      Chip.within_plyPass (by decide) (by simp) (by simp) (by simp)
  refine ⟨Chip.passedBy_mid hall (by decide) (by decide) (by decide) (by decide), ?_, ?_, fun hk => ?_, fun hne => ?_, fun he => ?_, ?_⟩
  · have hlen : (c.lostCounted i lost).histLen i = c.histLen i := Chip.histLen_congr (hlost.ctx 8 (by decide) (by decide))
    rw [Chip.hist_plyPass, (horder _).hist (by decide), Chip.vectorMoved, Chip.histMoved, Chip.hist_setCtxF (by decide), Chip.hist_setHist, hlen]
  · rw [Chip.plyPass_kept (by decide), (horder _).ctxF (by decide) (by decide), Chip.vectorMoved, Chip.histMoved, Chip.ctxF_setCtxF_low]
  · have heq : (c.vectorMoved i x k lost).orderCounted i k = (c.vectorMoved i x k lost).plyOutOfOrder i := if_neg (by omega)
    rw [heq]
    exact Chip.countTold_mid hmoved Chip.within_plyPass (by decide) (by decide) (by decide) (by decide) rfl (by decide) (by decide)
      (by decide) (by decide) (by decide) (by decide)
  · have heq : c.lostCounted i lost = c.countTold i 4 PLY.LOST_COUNT lost EV.PLY_LOST := if_neg hne
    rw [Chip.vectorMoved, heq]
    exact Chip.countTold_mid (.refl c i [] [] []) (hafter _) (by decide) (by decide) (by decide) (by decide) rfl (by decide) (by decide)
      (by decide) (by decide) (by decide) (by decide)
  · have heq : c.lostCounted i lost = c := if_pos he
    rw [Chip.vectorMoved, heq]
    exact (hafter c).set 4 (by decide) (by decide)
  · rw [Chip.plyPass_kept (by decide), hall.ctxF (by decide) (by decide)]
end

/-! ### The match algorithm (R321) -/

section
variable {c : Chip} {i x : Nat}

/-- The distance of a packet's number from RECOV_SEQ, at the match algorithm. -/
def Chip.matchStep (c : Chip) (i x : Nat) : Nat := (x + 65536 - c.ctxF i 10 15 0) % 65536

def Chip.matchTaken (c : Chip) (i x : Nat) : Chip := (c.setCtxF i 10 15 0 x).setCtxF i 8 7 7 0

theorem Chip.match_taking (h : c.ctxF i 8 7 7 = 1) : c.matchRecovery i x = ((c.matchTaken i x).plyPass i, true) := if_pos h

theorem Chip.match_dup (h : ¬ c.ctxF i 8 7 7 = 1) (hs : c.matchStep i x = 0) : c.matchRecovery i x = (c.plyDup i, false) :=
  (if_neg h).trans (if_pos hs)

theorem Chip.match_ahead (h : ¬ c.ctxF i 8 7 7 = 1) (hs : c.matchStep i x ≠ 0) :
    c.matchRecovery i x = (((c.setCtxF i 10 15 0 x).orderCounted i (c.matchStep i x)).plyPass i, true) :=
  (if_neg h).trans (if_neg hs)

theorem Chip.match_taking_says : c.PassedBy ((c.matchTaken i x).plyPass i) i ∧ ((c.matchTaken i x).plyPass i).ctxF i 10 15 0 = x % 65536 ∧
    ((c.matchTaken i x).plyPass i).ctxF i 8 7 7 = 0 ∧ ((c.matchTaken i x).plyPass i).ctxF i 8 2 2 = c.ctxF i 8 2 2 := by
  have hseq : c.Within (c.setCtxF i 10 15 0 x) i [] [10] [] := Chip.within_setCtxF (by decide)
  have htake : (c.setCtxF i 10 15 0 x).Within (c.matchTaken i x) i [] [8] [] := Chip.within_setCtxF (by decide)
  have hboth : c.Within (c.matchTaken i x) i [] [8, 10] [] :=
    (hseq.mono (List.Subset.refl _) (by simp) (List.Subset.refl _)).andThen htake (by decide) (by simp) (by simp) (by simp)
  refine ⟨Chip.passedBy_mid hboth (by decide) (by decide) (by decide) (by decide), ?_, ?_, ?_⟩
  · rw [Chip.plyPass_kept (by decide), htake.ctxF (by decide) (by decide), Chip.ctxF_setCtxF_low]
  · rw [Chip.plyPass_kept (by decide), Chip.matchTaken, Chip.take_setCtxF.1]
  · rw [Chip.plyPass_kept (by decide), Chip.matchTaken, Chip.take_setCtxF.2, hseq.ctxF (by decide) (by decide)]

theorem Chip.match_ahead_says {k : Nat} : let d := ((c.setCtxF i 10 15 0 x).orderCounted i k).plyPass i
    c.PassedBy d i ∧ d.ctxF i 10 15 0 = x % 65536 ∧
      (k ≠ 1 → c.SetCounts d i 2 PLY.OUT_OF_ORDER_COUNT 1 ∧ c.Tells d EV.PLY_OUT_OF_ORDER) ∧ d.ctxF i 8 2 2 = c.ctxF i 8 2 2 := by
  have hseq : c.Within (c.setCtxF i 10 15 0 x) i [] [10] [] := Chip.within_setCtxF (by decide)
  have horder (e : Chip) : e.Within (e.orderCounted i k) i [2] [] [PLY.OUT_OF_ORDER_COUNT.key 0 0, evtKey PageCls.ply.base] := by
    unfold Chip.orderCounted
    split
    · exact .refl _ _ _ _ _
    · exact Chip.within_outOfOrder
  have hboth : c.Within ((c.setCtxF i 10 15 0 x).orderCounted i k) i [2] [10] [PLY.OUT_OF_ORDER_COUNT.key 0 0, evtKey PageCls.ply.base] :=
    (hseq.mono (by simp) (List.Subset.refl _) (by simp)).andThen (horder _) (by decide) (List.Subset.refl _) (by simp) (List.Subset.refl _)
  refine ⟨Chip.passedBy_mid hboth (by decide) (by decide) (by decide) (by decide), ?_, fun hk => ?_, ?_⟩
  · rw [Chip.plyPass_kept (by decide), (horder _).ctxF (by decide) (by decide), Chip.ctxF_setCtxF_low]
  · have heq : (c.setCtxF i 10 15 0 x).orderCounted i k = (c.setCtxF i 10 15 0 x).plyOutOfOrder i := if_neg hk
    rw [heq]
    exact Chip.countTold_mid hseq Chip.within_plyPass (by decide) (by decide) (by decide) (by decide) rfl (by decide) (by decide)
      (by decide) (by decide) (by decide) (by decide)
  · rw [Chip.plyPass_kept (by decide), hboth.ctxF (by decide) (by decide)]
end

/-! ### A stage, and recovery as a whole (R322 to R325) -/

/-- A context whose recovery runs and is not to be reset. -/
def Chip.Recovers (c : Chip) (i : Nat) : Prop := i ≠ 0 ∧ c.ctxF i 8 0 0 = 1 ∧ c.recovDue i = false

section
variable {c e : Chip} {i x : Nat} {q : Nat → Option Nat} {b : Bool}

theorem Chip.recovRefresh_of_recovers (h : c.Recovers i) : c.recovRefresh i = c := by
  obtain ⟨-, -, hdue⟩ := h
  exact if_neg (by rw [hdue]; decide)

theorem Chip.recovStage_none (h : c.Recovers i) :
    c.recovStage i none = (c.countTold i 5 PLY.TAGLESS_COUNT 1 EV.PLY_TAGLESS, c.ctxF i 8 3 3 == 1) := by
  unfold Chip.recovStage
  rw [Chip.recovRefresh_of_recovers h]
  rfl

theorem Chip.recovStage_vector (h : c.Recovers i) (ha : c.ctxF i 8 1 1 = 0) : c.recovStage i (some x) = c.vectorRecovery i x := by
  unfold Chip.recovStage
  rw [Chip.recovRefresh_of_recovers h]
  exact if_neg (by rw [ha]; decide)

theorem Chip.recovStage_match (h : c.Recovers i) (ha : c.ctxF i 8 1 1 = 1) : c.recovStage i (some x) = c.matchRecovery i x := by
  unfold Chip.recovStage
  rw [Chip.recovRefresh_of_recovers h]
  exact if_pos ha

theorem Chip.recover_idle (h : i = 0 ∨ c.ctxF i 8 0 0 = 0) : c.recover i q = (c, some i) := if_pos h

theorem Chip.Recovers.runs (h : c.Recovers i) : ¬ (i = 0 ∨ c.ctxF i 8 0 0 = 0) := by
  obtain ⟨h0, hon, -⟩ := h
  rw [hon]
  exact not_or.mpr ⟨h0, by decide⟩

/-- A packet that its context's own stage discards. -/
theorem Chip.recover_discards (h : c.Recovers i) (hs : c.recovStage i (q i) = (e, false)) : c.recover i q = (e, none) := by
  unfold Chip.recover
  rw [if_neg h.runs, hs]
  rfl

/-- A packet that its own stage passes, where no compound context follows. -/
theorem Chip.recover_passes (h : c.Recovers i) (hs : c.recovStage i (q i) = (e, true)) (hc : e.ctxF i 8 2 2 = 0) :
    c.recover i q = (e, some i) := by
  unfold Chip.recover
  rw [if_neg h.runs, hs]
  exact if_pos hc

/-- A packet that its own stage passes, and whose link is wrong (R325). -/
theorem Chip.recover_unlinked (h : c.Recovers i) (hs : c.recovStage i (q i) = (e, true)) (hc : e.ctxF i 8 2 2 ≠ 0)
    (hj : e.ctxF (e.ctxF i 9 17 0) 8 0 0 = 0 ∨ e.ctxF (e.ctxF i 9 17 0) 8 2 2 = 1) :
    c.recover i q = ((e.bump PLY.LINK_ERROR_COUNT).raise EV.PLY_LINK_ERROR, some (e.ctxF i 9 17 0)) := by
  unfold Chip.recover
  rw [if_neg h.runs, hs]
  exact (if_neg hc).trans (if_pos hj)

/-- A packet that its own stage passes and the compound context's discards (R324). -/
theorem Chip.recover_second {d : Chip} (h : c.Recovers i) (hs : c.recovStage i (q i) = (e, true)) (hc : e.ctxF i 8 2 2 ≠ 0)
    (hj : ¬ (e.ctxF (e.ctxF i 9 17 0) 8 0 0 = 0 ∨ e.ctxF (e.ctxF i 9 17 0) 8 2 2 = 1))
    (hs' : e.recovStage (e.ctxF i 9 17 0) (q (e.ctxF i 9 17 0)) = (d, false)) : c.recover i q = (d, none) := by
  unfold Chip.recover
  rw [if_neg h.runs, hs]
  refine (if_neg hc).trans ((if_neg hj).trans ?_)
  rw [hs']
  rfl
end

section
variable {c : Chip} {i x : Nat} {q : Nat → Option Nat}

/-- A packet that leaves its context's stage with block `e`, passed or not, where no compound context follows. -/
theorem Chip.recover_ends {e : Chip} {b : Bool} (h : c.Recovers i) (hs : c.recovStage i (q i) = (e, b)) (hc : e.ctxF i 8 2 2 = 0) :
    c.recover i q = (e, if b then some i else none) := by
  cases b with
  | true => exact Chip.recover_passes h hs hc
  | false => exact Chip.recover_discards h hs

theorem Chip.countTold_says {w : Nat} {r : FieldRow} {k : Nat} {v : Evt} (hr : r.key 0 0 ≠ evtKey PageCls.ply.base) (hw : w < 16)
    (hv : v.cls = .ply) (hb : v.bit < 32) (hdom : r.key 0 0 ≠ (Domain.row .core).key 0 0) :
    c.SetCounts (c.countTold i w r k v) i w r k ∧ c.Tells (c.countTold i w r k v) v :=
  Chip.countTold_mid (.refl c i [] [] []) (.refl _ i [] [] []) (by decide) (by decide) hw hr hv hb hdom (by simp) (by simp)
    ⟨by simp, by simp⟩ (by simp)

theorem Chip.countTold_reel {w : Nat} {r : FieldRow} {k : Nat} {v : Evt} : (c.countTold i w r k v).reel = c.reel :=
  ((Chip.Frame.refl (S := []) (K := fun _ => True) (c.plyCount i w r k)).raise v 0 trivial).reel (by decide)

theorem Chip.countTold_kept {w : Nat} {r : FieldRow} {k : Nat} {v : Evt} {j u hi lo : Nat} :
    (c.countTold i w r k v).ctxF j u hi lo = c.ctxF j u hi lo := by
  rw [Chip.ctxF, Chip.ctxW_congr Chip.countTold_reel, Chip.ctxF]

/-- A packet without an R-TAG (R322). -/
theorem Chip.recover_tagless (h : c.Recovers i) (hq : q i = none) (hc : c.ctxF i 8 2 2 = 0) :
    c.recover i q = (c.countTold i 5 PLY.TAGLESS_COUNT 1 EV.PLY_TAGLESS, if c.ctxF i 8 3 3 = 1 then some i else none) := by
  rw [Chip.recover_ends h (by rw [hq]; exact Chip.recovStage_none h) (Chip.countTold_kept.trans hc)]
  by_cases h3 : c.ctxF i 8 3 3 = 1
  · rw [if_pos h3, h3]
    rfl
  · rw [if_neg h3, beq_eq_false_iff_ne.mpr h3]
    rfl

theorem zerosLeaving_eq (h n k : Nat) : zerosLeaving h n k = ((List.range k).filter fun b => h.testBit (n - 1 - b) = false).length := by
  unfold zerosLeaving
  congr 1
  refine List.filter_congr fun b _ => ?_
  cases h.testBit (n - 1 - b) <;> rfl
end

/-! ### What recovery answers, end by end -/

section
variable {c : Chip} {i x : Nat} {q : Nat → Option Nat}

/-- A packet that recovery passes with its own context. -/
def Chip.PassesBy (c : Chip) (i : Nat) (r : Chip × Option Nat) : Prop := r.2 = some i ∧ c.PassedBy r.1 i

theorem Chip.recover_vector {e : Chip} {b : Bool} (h : c.Recovers i) (hq : q i = some x) (ha : c.ctxF i 8 1 1 = 0)
    (hs : c.vectorRecovery i x = (e, b)) (hc : e.ctxF i 8 2 2 = 0) : c.recover i q = (e, if b then some i else none) :=
  Chip.recover_ends h (by rw [hq, Chip.recovStage_vector h ha, hs]) hc

theorem Chip.recover_match {e : Chip} {b : Bool} (h : c.Recovers i) (hq : q i = some x) (ha : c.ctxF i 8 1 1 = 1)
    (hs : c.matchRecovery i x = (e, b)) (hc : e.ctxF i 8 2 2 = 0) : c.recover i q = (e, if b then some i else none) :=
  Chip.recover_ends h (by rw [hq, Chip.recovStage_match h ha, hs]) hc

section
variable (h : c.Recovers i) (hq : q i = some x) (hc : c.ctxF i 8 2 2 = 0)
include h hq hc

theorem Chip.recover_vector_taking (ha : c.ctxF i 8 1 1 = 0) (ht : c.ctxF i 8 7 7 = 1) : c.PassesBy i (c.recover i q) ∧
    (c.recover i q).1.ctxF i 10 15 0 = x % 65536 ∧ (c.recover i q).1.hist i = 2 ^ c.histLen i - 1 ∧ (c.recover i q).1.ctxF i 8 7 7 = 0 := by
  obtain ⟨hpass, hseq, hhist, htake, hlink⟩ := Chip.vector_taking_says (c := c) (i := i) (x := x)
  rw [Chip.recover_vector h hq ha (Chip.vector_taking ht) (hlink.trans hc)]
  exact ⟨⟨rfl, hpass⟩, hseq, hhist, htake⟩

theorem Chip.recover_vector_rogue (ha : c.ctxF i 8 1 1 = 0) (ht : ¬ c.ctxF i 8 7 7 = 1)
    (hd : (c.histLen i : Int) ≤ c.seqDelta i x ∨ c.seqDelta i x ≤ -(c.histLen i : Int)) : (c.recover i q).2 = none ∧
      c.SetCounts (c.recover i q).1 i 3 PLY.ROGUE_COUNT 1 ∧ c.Tells (c.recover i q).1 EV.PLY_ROGUE ∧ (c.recover i q).1.reel = c.reel := by
  rw [Chip.recover_vector h hq ha (Chip.vector_rogue ht hd) (Chip.countTold_kept.trans hc)]
  obtain ⟨hcount, htell⟩ := Chip.countTold_says (c := c) (i := i) (w := 3) (r := PLY.ROGUE_COUNT) (k := 1) (v := EV.PLY_ROGUE) (by decide)
    (by decide) rfl (by decide) (by decide)
  exact ⟨rfl, hcount, htell, Chip.countTold_reel⟩

theorem Chip.recover_vector_dup (ha : c.ctxF i 8 1 1 = 0) (ht : ¬ c.ctxF i 8 7 7 = 1) (hlo : -(c.histLen i : Int) < c.seqDelta i x)
    (hd : c.seqDelta i x ≤ 0) (hb : (c.hist i).testBit (c.seqDelta i x).natAbs = true) :
    (c.recover i q).2 = none ∧ c.DupBy (c.recover i q).1 i := by
  rw [Chip.recover_vector h hq ha (Chip.vector_dup ht hlo hd hb) ((Chip.within_plyDup.ctxF (by decide) (by decide)).trans hc)]
  exact ⟨rfl, Chip.plyDup_dupBy⟩

theorem Chip.recover_vector_behind (ha : c.ctxF i 8 1 1 = 0) (ht : ¬ c.ctxF i 8 7 7 = 1) (hlo : -(c.histLen i : Int) < c.seqDelta i x)
    (hd : c.seqDelta i x ≤ 0) (hb : (c.hist i).testBit (c.seqDelta i x).natAbs = false) : c.PassesBy i (c.recover i q) ∧
      (c.SetCounts (c.recover i q).1 i 2 PLY.OUT_OF_ORDER_COUNT 1 ∧ c.Tells (c.recover i q).1 EV.PLY_OUT_OF_ORDER) ∧
      (c.recover i q).1.hist i = (c.hist i ||| 2 ^ (c.seqDelta i x).natAbs) % 2 ^ c.histLen i ∧
      (c.recover i q).1.ctxF i 10 15 0 = c.ctxF i 10 15 0 := by
  obtain ⟨hpass, hlate, hhist, hseq, hlink⟩ := Chip.vector_behind_says (c := c) (i := i) (b := (c.seqDelta i x).natAbs)
  rw [Chip.recover_vector h hq ha (Chip.vector_behind ht hlo hd hb) (hlink.trans hc)]
  exact ⟨⟨rfl, hpass⟩, hlate, hhist, hseq⟩

theorem Chip.recover_vector_ahead (ha : c.ctxF i 8 1 1 = 0) (ht : ¬ c.ctxF i 8 7 7 = 1) (hd : 0 < c.seqDelta i x)
    (hhi : c.seqDelta i x < (c.histLen i : Int)) {k lost : Nat} (hk : k = (c.seqDelta i x).toNat)
    (hl : lost = zerosLeaving (c.hist i) (c.histLen i) k) : c.PassesBy i (c.recover i q) ∧
      (c.recover i q).1.hist i = (c.hist i * 2 ^ k + 1) % 2 ^ c.histLen i ∧ (c.recover i q).1.ctxF i 10 15 0 = x % 65536 ∧
      (1 < k → c.SetCounts (c.recover i q).1 i 2 PLY.OUT_OF_ORDER_COUNT 1 ∧ c.Tells (c.recover i q).1 EV.PLY_OUT_OF_ORDER) ∧
      (lost ≠ 0 → c.SetCounts (c.recover i q).1 i 4 PLY.LOST_COUNT lost ∧ c.Tells (c.recover i q).1 EV.PLY_LOST) ∧
      (lost = 0 → (c.recover i q).1.setW (c.cntSet i) 4 = c.setW (c.cntSet i) 4) := by
  subst hl
  subst hk
  obtain ⟨hpass, hhist, hseq, hlate, hlost, hnone, hlink⟩ := Chip.vector_ahead_says (c := c) (i := i) (x := x)
    (k := (c.seqDelta i x).toNat) (lost := zerosLeaving (c.hist i) (c.histLen i) (c.seqDelta i x).toNat)
  rw [Chip.recover_vector h hq ha (Chip.vector_ahead ht hd hhi) (hlink.trans hc)]
  exact ⟨⟨rfl, hpass⟩, hhist, hseq, hlate, hlost, hnone⟩

theorem Chip.recover_match_taking (ha : c.ctxF i 8 1 1 = 1) (ht : c.ctxF i 8 7 7 = 1) : c.PassesBy i (c.recover i q) ∧
    (c.recover i q).1.ctxF i 10 15 0 = x % 65536 ∧ (c.recover i q).1.ctxF i 8 7 7 = 0 := by
  obtain ⟨hpass, hseq, htake, hlink⟩ := Chip.match_taking_says (c := c) (i := i) (x := x)
  rw [Chip.recover_match h hq ha (Chip.match_taking ht) (hlink.trans hc)]
  exact ⟨⟨rfl, hpass⟩, hseq, htake⟩

theorem Chip.recover_match_dup (ha : c.ctxF i 8 1 1 = 1) (ht : ¬ c.ctxF i 8 7 7 = 1) (hs : c.matchStep i x = 0) :
    (c.recover i q).2 = none ∧ c.DupBy (c.recover i q).1 i := by
  rw [Chip.recover_match h hq ha (Chip.match_dup ht hs) ((Chip.within_plyDup.ctxF (by decide) (by decide)).trans hc)]
  exact ⟨rfl, Chip.plyDup_dupBy⟩

theorem Chip.recover_match_ahead (ha : c.ctxF i 8 1 1 = 1) (ht : ¬ c.ctxF i 8 7 7 = 1) (hs : c.matchStep i x ≠ 0) :
    c.PassesBy i (c.recover i q) ∧ (c.recover i q).1.ctxF i 10 15 0 = x % 65536 ∧ (c.matchStep i x ≠ 1 →
      c.SetCounts (c.recover i q).1 i 2 PLY.OUT_OF_ORDER_COUNT 1 ∧ c.Tells (c.recover i q).1 EV.PLY_OUT_OF_ORDER) := by
  obtain ⟨hpass, hseq, hlate, hlink⟩ := Chip.match_ahead_says (c := c) (i := i) (x := x) (k := c.matchStep i x)
  rw [Chip.recover_match h hq ha (Chip.match_ahead ht hs) (hlink.trans hc)]
  exact ⟨⟨rfl, hpass⟩, hseq, hlate⟩
end

/-! ### A compound context (R324, R325) -/

/-- What a stage leaves that takes its packet: its own words but RECOV_SEQ, TAKE_ANY, LAST_MS and HIST, and every other context. -/
theorem Chip.taking_stage (h : c.Recovers i) (ht : c.ctxF i 8 7 7 = 1) : ∃ e, c.recovStage i (some x) = (e, true) ∧
    e.ctxF i 8 2 2 = c.ctxF i 8 2 2 ∧ c.Within e i [0, 9] [8, 10, 11, 12, 13, 14, 15] [PLY.PASSED_COUNT.key 0 0] := by
  have hpass (e : Chip) : e.Within (e.plyPass i) i [0, 9] [11] [PLY.PASSED_COUNT.key 0 0] := Chip.within_plyPass
  by_cases ha : c.ctxF i 8 1 1 = 1
  · refine ⟨_, (Chip.recovStage_match h ha).trans (Chip.match_taking ht), Chip.match_taking_says.2.2.2, ?_⟩
    have htaken : c.Within (c.matchTaken i x) i [] [8, 10] [] :=
      ((Chip.within_setCtxF (by decide)).mono (List.Subset.refl _) (by simp) (List.Subset.refl _)).andThen (Chip.within_setCtxF (by decide))
        (by decide) (by simp) (by simp) (by simp)
    exact (htaken.mono (by simp) (by simp) (by simp)).andThen (hpass _) (by decide) (by simp) (by simp) (by simp)
  · have ha0 : c.ctxF i 8 1 1 = 0 := by
      by_contra hne
      exact ha ((bit_ne_zero_iff _ _).mp hne)
    refine ⟨_, (Chip.recovStage_vector h ha0).trans (Chip.vector_taking ht), Chip.vector_taking_says.2.2.2.2, ?_⟩
    exact (Chip.within_vectorTaken.mono (by simp) (by simp) (by simp)).andThen (hpass _) (by decide) (by simp) (by simp) (by simp)

theorem Chip.recover_linked_wrong (h : c.Recovers i) (hq : q i = some x) (ht : c.ctxF i 8 7 7 = 1) (hl : c.ctxF i 8 2 2 = 1)
    (hj : c.ctxF i 9 17 0 ≠ i) (hbad : c.ctxF (c.ctxF i 9 17 0) 8 0 0 = 0 ∨ c.ctxF (c.ctxF i 9 17 0) 8 2 2 = 1) :
    (c.recover i q).2 = some (c.ctxF i 9 17 0) ∧ c.Counts (c.recover i q).1 PLY.LINK_ERROR_COUNT ∧
      c.Tells (c.recover i q).1 EV.PLY_LINK_ERROR := by
  obtain ⟨e, hs, hlink, hin⟩ := Chip.taking_stage (x := x) h ht
  have hlinked : e.ctxF i 9 17 0 = c.ctxF i 9 17 0 := hin.ctxF (by decide) (by decide)
  have hother (hi lo : Nat) : e.ctxF (c.ctxF i 9 17 0) 8 hi lo = c.ctxF (c.ctxF i 9 17 0) 8 hi lo :=
    hin.ctxF_other hj (by decide)
  rw [Chip.recover_unlinked h (hq ▸ hs) (by rw [hlink, hl]; decide) (by rw [hlinked, hother, hother]; exact hbad)]
  refine ⟨by rw [hlinked], ?_, ?_⟩
  · rw [Chip.Counts, Chip.fld_raise_ne _ _ _ _ _ _ (by decide), e.counts_bump PLY.LINK_ERROR_COUNT 0, hin.frame.fld _ 0 0 (by decide)]
  · have hbump : c.Frame [.ply, .reel] (· ∈ [PLY.PASSED_COUNT.key 0 0, PLY.LINK_ERROR_COUNT.key 0 0]) (e.bump PLY.LINK_ERROR_COUNT) :=
      (hin.frame.mono (List.Subset.refl _) (by simp)).bump _ 0 0 (by simp)
    exact hbump.tells_raise _ 0 (by decide) (by decide)

theorem Chip.recover_linked_dup {y : Nat} (h : c.Recovers i) (hq : q i = some x) (ht : c.ctxF i 8 7 7 = 1) (hl : c.ctxF i 8 2 2 = 1)
    (hj : c.ctxF i 9 17 0 ≠ i) (hr : c.Recovers (c.ctxF i 9 17 0)) (hl' : c.ctxF (c.ctxF i 9 17 0) 8 2 2 = 0)
    (ha : c.ctxF (c.ctxF i 9 17 0) 8 1 1 = 1) (ht' : c.ctxF (c.ctxF i 9 17 0) 8 7 7 = 0) (hy : q (c.ctxF i 9 17 0) = some y)
    (hs' : c.matchStep (c.ctxF i 9 17 0) y = 0) : (c.recover i q).2 = none := by
  obtain ⟨e, hs, hlink, hin⟩ := Chip.taking_stage (x := x) h ht
  have hlinked : e.ctxF i 9 17 0 = c.ctxF i 9 17 0 := hin.ctxF (by decide) (by decide)
  have hother (w hi lo : Nat) (hw : w < 16) : e.ctxF (c.ctxF i 9 17 0) w hi lo = c.ctxF (c.ctxF i 9 17 0) w hi lo :=
    hin.ctxF_other hj hw
  obtain ⟨h0, hon, hdue⟩ := hr
  have hrec : e.Recovers (c.ctxF i 9 17 0) := by
    refine ⟨h0, (hother 8 0 0 (by decide)).trans hon, ?_⟩
    rw [← hdue, Chip.recovDue, Chip.recovDue]
    simp only [hother 8 _ _ (by decide), hother 11 _ _ (by decide), hin.frame.fld PLY.MS_COUNT_MS 0 0 (by decide)]
  have hstage : e.recovStage (c.ctxF i 9 17 0) (some y) = (e.plyDup (c.ctxF i 9 17 0), false) := by
    rw [Chip.recovStage_match hrec ((hother 8 1 1 (by decide)).trans ha)]
    refine Chip.match_dup (by rw [hother 8 7 7 (by decide), ht']; decide) ?_
    rw [Chip.matchStep, hother 10 15 0 (by decide), ← Chip.matchStep, hs']
  rw [Chip.recover_second h (hq ▸ hs) (by rw [hlink, hl]; decide) (by
    rw [hlinked, hother 8 0 0 (by decide), hother 8 2 2 (by decide), hon, hl']
    decide) (by rw [hlinked, hy]; exact hstage)]
end

/-! ### The timer of recovery (R318) -/

section
variable {c : Chip} {i : Nat}

theorem Chip.recovReset_eq (c : Chip) (i : Nat) :
    c.recovReset i = ((c.setCtxF i 8 7 7 1).setHist i 0).countTold i 6 PLY.RESETS_COUNT 1 EV.PLY_SEQ_RESET := rfl

theorem takeAny_set (w : Nat) : bitsOf (withBits w 7 7 1 % 2 ^ 32) 7 7 = 1 := by
  simp only [withBits, bitsOf_eq, Nat.reduceSub, Nat.reduceAdd, Nat.reducePow, Nat.reduceMod]
  omega

/-- TAKE_ANY set and HIST cleared. -/
def Chip.recovCleared (c : Chip) (i : Nat) : Chip := (c.setCtxF i 8 7 7 1).setHist i 0

theorem Chip.within_recovCleared : c.Within (c.recovCleared i) i [] [8, 12, 13, 14, 15] [] :=
  ((Chip.within_setCtxF (by decide)).mono (List.Subset.refl _) (by simp) (List.Subset.refl _)).andThen Chip.within_setHist (by decide)
    (by simp) (by simp) (by simp)

theorem Chip.recovCleared_says : (c.recovCleared i).ctxF i 8 7 7 = 1 ∧ (c.recovCleared i).hist i = 0 := by
  refine ⟨?_, ?_⟩
  · rw [Chip.recovCleared, Chip.within_setHist.ctxF (by decide) (by decide), Chip.ctxF, Chip.ctxW_setCtxF_self, takeAny_set]
  · rw [Chip.recovCleared, Chip.hist_setHist]
    exact Nat.zero_mod _

theorem Chip.ended_setW (b d : Chip) (k w : Nat) : (b.ended d).setW k w = d.setW k w := Chip.setW_congr (b.ended_ply d)

theorem Chip.ended_hist (b d : Chip) (i : Nat) : (b.ended d).hist i = d.hist i :=
  Chip.hist_congr (b.ended_ctxW d i 12) (b.ended_ctxW d i 13) (b.ended_ctxW d i 14) (b.ended_ctxW d i 15)

theorem Chip.recovDue_iff : c.recovDue i = true ↔ c.ctxF i 8 0 0 = 1 ∧ c.ctxF i 8 31 20 ≠ 0 ∧ c.ctxF i 8 7 7 = 0 ∧
    c.ctxF i 8 31 20 ≤ (c.fld PLY.MS_COUNT_MS + 65536 - c.ctxF i 11 15 0) % 65536 := by
  unfold Chip.recovDue
  simp only [Bool.and_eq_true, beq_iff_eq, bne_iff_ne, decide_eq_true_eq, and_assoc]
end

theorem exec_seqReset (ctx : BitVec 18) (s : State) : exec (.seqReset ctx) s =
    run (fun c => c.whenDue (c.dom .core == domON && c.recovDue ctx.toNat) fun d => d.recovReset ctx.toNat) s := rfl

theorem seqReset_ends {s : State} {ctx : BitVec 18} (hdom : s.chip.dom .core = domON) (hdue : s.chip.recovDue ctx.toNat = true) :
    Ends (.seqReset ctx) s fun d => d.ctxF ctx.toNat 8 7 7 = 1 ∧ d.hist ctx.toNat = 0 ∧
      d.setW (s.chip.cntSet ctx.toNat) 6 = min (s.chip.setW (s.chip.cntSet ctx.toNat) 6 + 1) 0xFFFFFFFF ∧
      s.chip.Counts d PLY.RESETS_COUNT ∧ s.chip.Tells d EV.PLY_SEQ_RESET ∧
      (∀ j w, j ≠ ctx.toNat → w < 16 → d.ctxW j w = s.chip.ctxW j w) ∧ ∀ w, w < 8 → d.ctxW ctx.toNat w = s.chip.ctxW ctx.toNat w := by
  refine ends_of_due (due := fun c => c.dom .core == domON && c.recovDue ctx.toNat) (g := fun d => d.recovReset ctx.toNat)
    (exec_seqReset ctx s) (by rw [hdom, hdue]; rfl) ?_
  have hclear : s.chip.Within (s.chip.recovCleared ctx.toNat) ctx.toNat [] [8, 12, 13, 14, 15] [] := Chip.within_recovCleared
  obtain ⟨htake, hhist⟩ := Chip.recovCleared_says (c := s.chip) (i := ctx.toNat)
  obtain ⟨⟨hset, hcount⟩, htell⟩ := Chip.countTold_mid hclear (.refl ((s.chip.recovCleared ctx.toNat).countTold ctx.toNat 6 PLY.RESETS_COUNT 1
    EV.PLY_SEQ_RESET) ctx.toNat [] [] []) (by decide) (by decide) (by decide) (by decide) rfl (by decide) (by decide) (by decide) (by decide)
    (by decide) (by decide)
  have hreel : ((s.chip.recovCleared ctx.toNat).countTold ctx.toNat 6 PLY.RESETS_COUNT 1 EV.PLY_SEQ_RESET).reel =
    (s.chip.recovCleared ctx.toNat).reel := Chip.countTold_reel
  rw [Chip.recovReset_eq, ← Chip.recovCleared]
  refine ⟨?_, ?_, ?_, ?_, htell.ended (by decide), fun j w hj hw => ?_, fun w hw => ?_⟩
  · rw [Chip.ended_ctxF, Chip.countTold_kept, htake]
  · rw [Chip.ended_hist, Chip.hist_congr (Chip.ctxW_congr hreel) (Chip.ctxW_congr hreel) (Chip.ctxW_congr hreel) (Chip.ctxW_congr hreel), hhist]
  · rw [Chip.ended_setW, hset]
  · exact (Chip.ended_fld _ _ _ _ _ (by decide)).trans hcount
  · rw [Chip.ended_ctxW, Chip.ctxW_congr hreel, hclear.other j w hj hw]
  · rw [Chip.ended_ctxW, Chip.ctxW_congr hreel, hclear.ctx w (by omega) (by simp only [List.mem_cons, List.not_mem_nil, or_false]; omega)]

/-! ### Latent tests and resets (R332) -/

section
variable (c : Chip) (k : Nat)

/-- The words of a counter set. -/
def Chip.setWords : Fin 16 → Nat := fun w => c.setW k w

/-- The test of one set that is tested. -/
def Chip.testOne : Chip :=
  if bitsOf (c.setW k 11) 31 8 < ((((max 2 (min 8 (bitsOf (c.setW k 11) 3 0)) - 1) * c.setW k 9 : Nat) : Int) - (c.setW k 10 : Int)).natAbs then
    ((c.setAdd k 7 1).bump PLY.LATENT_ERRORS_COUNT).raise EV.PLY_LATENT_ERROR
  else c

/-- A set's counters differ by more than its limit. -/
def Chip.TestFails : Prop :=
  bitsOf (c.setW k 11) 31 8 < ((((max 2 (min 8 (bitsOf (c.setW k 11) 3 0)) - 1) * c.setW k 9 : Nat) : Int) - (c.setW k 10 : Int)).natAbs

/-- The reset of one set's counters. -/
def Chip.resetOne : Chip := ((c.setSetW k 9 0).setSetW k 10 0).setAdd k 8 1

/-- The clocks of the two periods. -/
def Chip.testTimed : Chip :=
  { c with ply := { c.ply with testMs := c.ply.testMs - c.ply.testPer, testPer := max 1 (c.fld PLY.CFG_LATENT_TEST_MS) } }
def Chip.resetTimed : Chip :=
  { c with ply := { c.ply with resetMs := c.ply.resetMs - c.ply.resetPer, resetPer := max 1 (c.fld PLY.CFG_LATENT_RESET_MS) } }

theorem Chip.latentTest_eq : c.latentTest = c.testTimed.latentSets.foldl Chip.testOne c.testTimed := rfl
theorem Chip.latentReset_eq : c.latentReset = c.resetTimed.latentSets.foldl Chip.resetOne c.resetTimed := rfl

theorem Chip.latentSets_testTimed : c.testTimed.latentSets = c.latentSets := rfl
theorem Chip.latentSets_resetTimed : c.resetTimed.latentSets = c.latentSets := rfl

theorem Chip.mem_latentSets : k ∈ c.latentSets ↔ k < 1024 ∧ bitsOf (c.setW k 11) 7 7 = 1 := by
  rw [Chip.latentSets, List.mem_filter, List.mem_range, decide_eq_true_iff]

theorem Chip.latentSets_nodup : c.latentSets.Nodup := List.nodup_range.filter _

/-- A test that fails, as a change of the block. -/
def Chip.testFailed : Chip := ((c.setAdd k 7 1).bump PLY.LATENT_ERRORS_COUNT).raise EV.PLY_LATENT_ERROR

theorem Chip.testOne_fails (h : c.TestFails k) : c.testOne k = c.testFailed k := if_pos h
theorem Chip.testOne_holds (h : ¬ c.TestFails k) : c.testOne k = c := if_neg h

theorem Chip.testFailed_ply : (c.testFailed k).ply = (c.setAdd k 7 1).ply :=
  ((Chip.Frame.refl (S := []) (K := fun _ => True) ((c.setAdd k 7 1).bump PLY.LATENT_ERRORS_COUNT)).raise EV.PLY_LATENT_ERROR 0 trivial).ply
    (by decide)

theorem Chip.setW_testFailed (j w : Nat) : (c.testFailed k).setW j w = (c.setAdd k 7 1).setW j w := Chip.setW_congr (c.testFailed_ply k)

theorem Chip.testOne_ne {j : Nat} (h : k ≠ j) : (c.testOne k).setWords j = c.setWords j := by
  funext w
  by_cases hf : c.TestFails k
  · rw [Chip.testOne_fails _ _ hf, Chip.setWords, Chip.setW_testFailed, Chip.setW_setAdd_ne (by have := w.isLt; omega), Chip.setWords]
  · rw [Chip.testOne_holds _ _ hf]

theorem Chip.testFails_congr {d : Chip} (h : d.setWords k = c.setWords k) : d.TestFails k ↔ c.TestFails k := by
  have h' : ∀ w : Fin 16, d.setW k w = c.setW k w := fun w => congrFun h w
  rw [Chip.TestFails, Chip.TestFails]
  simp only [show d.setW k 11 = c.setW k 11 from h' 11, show d.setW k 9 = c.setW k 9 from h' 9, show d.setW k 10 = c.setW k 10 from h' 10]

/-- A set after its test. -/
theorem Chip.setW_testOne_fails (hf : c.TestFails k) : (c.testOne k).setW k 7 = min (c.setW k 7 + 1) 0xFFFFFFFF := by
  rw [Chip.testOne_fails _ _ hf, Chip.setW_testFailed, Chip.setW_setAdd_self]

theorem Chip.setW_testOne_kept {w : Nat} (h : w ≠ 7 ∨ ¬ c.TestFails k) : (c.testOne k).setW k w = c.setW k w := by
  by_cases hf : c.TestFails k
  · rw [Chip.testOne_fails _ _ hf, Chip.setW_testFailed, Chip.setW_setAdd_ne (by have := h.resolve_right (not_not.mpr hf); omega)]
  · rw [Chip.testOne_holds _ _ hf]

theorem Chip.setW_resetOne_zero {w : Nat} (hw : w = 9 ∨ w = 10) : (c.resetOne k).setW k w = 0 := by
  rw [Chip.resetOne, Chip.setW_setAdd_ne (by omega)]
  rcases hw with rfl | rfl
  · rw [Chip.setW_setSetW_ne (by omega), Chip.setW_setSetW_self]
  · rw [Chip.setW_setSetW_self]

theorem Chip.setW_resetOne_count : (c.resetOne k).setW k 8 = min (c.setW k 8 + 1) 0xFFFFFFFF := by
  rw [Chip.resetOne, Chip.setW_setAdd_self, Chip.setW_setSetW_ne (by omega), Chip.setW_setSetW_ne (by omega)]

theorem Chip.setW_resetOne_kept {j w : Nat} (hw : w < 16) (h : j ≠ k ∨ w ∉ [8, 9, 10]) : (c.resetOne k).setW j w = c.setW j w := by
  simp only [List.mem_cons, List.not_mem_nil, or_false] at h
  rw [Chip.resetOne, Chip.setW_setAdd_ne (by omega), Chip.setW_setSetW_ne (by omega), Chip.setW_setSetW_ne (by omega)]

theorem Chip.resetOne_ne {j : Nat} (h : k ≠ j) : (c.resetOne k).setWords j = c.setWords j :=
  funext fun w => Chip.setW_resetOne_kept _ _ w.isLt (.inl h.symm)

/-- A set's test, or its reset, depends on the set alone. -/
theorem Chip.testOne_local {d : Chip} (h : d.setWords k = c.setWords k) : (d.testOne k).setWords k = (c.testOne k).setWords k := by
  have hfails := c.testFails_congr k h
  funext w
  rw [Chip.setWords, Chip.setWords]
  have hw : d.setW k w = c.setW k w := congrFun h w
  by_cases hf : w.val = 7 ∧ c.TestFails k
  · obtain ⟨h7, hf⟩ := hf
    have h7' : d.setW k 7 = c.setW k 7 := congrFun h (7 : Fin 16)
    rw [h7, Chip.setW_testOne_fails _ _ hf, Chip.setW_testOne_fails _ _ (hfails.mpr hf), h7']
  · have hor : w.val ≠ 7 ∨ ¬ c.TestFails k := not_and_or.mp hf
    rw [Chip.setW_testOne_kept _ _ hor, Chip.setW_testOne_kept _ _ (hor.imp_right fun hn h' => hn (hfails.mp h')), hw]

theorem Chip.resetOne_local {d : Chip} (h : d.setWords k = c.setWords k) : (d.resetOne k).setWords k = (c.resetOne k).setWords k := by
  funext w
  rw [Chip.setWords, Chip.setWords]
  have hw : d.setW k w = c.setW k w := congrFun h w
  by_cases hzero : w.val = 9 ∨ w.val = 10
  · rw [Chip.setW_resetOne_zero _ _ hzero, Chip.setW_resetOne_zero _ _ hzero]
  · by_cases h8 : w.val = 8
    · have h8' : d.setW k 8 = c.setW k 8 := congrFun h (8 : Fin 16)
      rw [h8, Chip.setW_resetOne_count, Chip.setW_resetOne_count, h8']
    · have hmem : w.val ∉ [8, 9, 10] := by
        simp only [List.mem_cons, List.not_mem_nil, or_false]
        omega
      rw [Chip.setW_resetOne_kept _ _ w.isLt (.inr hmem), Chip.setW_resetOne_kept _ _ w.isLt (.inr hmem), hw]
end

section
variable (c : Chip) {k : Nat} {l : List Nat}

/-- What the tests, or the resets, of a list of sets leave of one set. -/
theorem Chip.setWords_tests_mem (hl : l.Nodup) (hk : k ∈ l) : (l.foldl Chip.testOne c).setWords k = (c.testOne k).setWords k :=
  obs_foldl_of_mem (obs := Chip.setWords) (same := fun _ _ => True) (fun _ _ => trivial) (fun a _ _ h => a.testOne_ne _ h)
    (fun _ _ k _ h => Chip.testOne_local _ k h) hl hk c

theorem Chip.setWords_tests_not_mem (hk : k ∉ l) : (l.foldl Chip.testOne c).setWords k = c.setWords k :=
  obs_foldl_of_not_mem (obs := Chip.setWords) (fun a _ _ h => a.testOne_ne _ h) hk c

theorem Chip.setWords_resets_mem (hl : l.Nodup) (hk : k ∈ l) : (l.foldl Chip.resetOne c).setWords k = (c.resetOne k).setWords k :=
  obs_foldl_of_mem (obs := Chip.setWords) (same := fun _ _ => True) (fun _ _ => trivial) (fun a _ _ h => a.resetOne_ne _ h)
    (fun _ _ k _ h => Chip.resetOne_local _ k h) hl hk c

theorem Chip.setWords_resets_not_mem (hk : k ∉ l) : (l.foldl Chip.resetOne c).setWords k = c.setWords k :=
  obs_foldl_of_not_mem (obs := Chip.setWords) (fun a _ _ h => a.resetOne_ne _ h) hk c

/-- The tests leave the time of the periods. -/
theorem Chip.tests_time : (l.foldl Chip.testOne c).ply.testMs = c.ply.testMs ∧ (l.foldl Chip.testOne c).ply.testPer = c.ply.testPer := by
  refine foldl_same (same := fun a b : Chip => b.ply.testMs = a.ply.testMs ∧ b.ply.testPer = a.ply.testPer) (fun _ => ⟨rfl, rfl⟩)
    (fun _ _ _ h h' => ⟨h'.1.trans h.1, h'.2.trans h.2⟩) (fun a j => ?_) l c
  by_cases hf : a.TestFails j
  · rw [Chip.testOne_fails _ _ hf, Chip.testFailed_ply]
    exact ⟨rfl, rfl⟩
  · rw [Chip.testOne_holds _ _ hf]
    exact ⟨rfl, rfl⟩

theorem Chip.resets_time : (l.foldl Chip.resetOne c).ply.resetMs = c.ply.resetMs :=
  foldl_same (f := Chip.resetOne) (same := fun a b : Chip => b.ply.resetMs = a.ply.resetMs) (fun _ => rfl) (fun _ _ _ h h' => h'.trans h) (fun _ _ => rfl) l c

/-- The cells of a test. -/
def testKeys : List Nat := [PLY.LATENT_ERRORS_COUNT.key 0 0, EV.PLY_LATENT_ERROR.key 0]

theorem Chip.testOne_frame (k : Nat) : c.Frame [.ply] (· ∈ testKeys) (c.testOne k) := by
  by_cases hf : c.TestFails k
  · rw [Chip.testOne_fails _ _ hf]
    exact ((Chip.setAdd_frame.bump _ 0 0 (by decide)).raise _ 0 (by decide))
  · rw [Chip.testOne_holds _ _ hf]
    exact .refl c

/-- A test that fails is told, and stays told. -/
theorem Chip.tells_testOne {a : Chip} (k : Nat) (h : a.Tells c EV.PLY_LATENT_ERROR) : a.Tells (c.testOne k) EV.PLY_LATENT_ERROR := by
  by_cases hf : c.TestFails k
  · rw [Chip.testOne_fails _ _ hf]
    have hcount : c.Frame [.ply] (· ∈ [PLY.LATENT_ERRORS_COUNT.key 0 0]) ((c.setAdd k 7 1).bump PLY.LATENT_ERRORS_COUNT) :=
      Chip.setAdd_frame.bump _ 0 0 (by decide)
    exact (hcount.tells h (by decide)).raise (by decide) _ 0
  · rw [Chip.testOne_holds _ _ hf]
    exact h

theorem Chip.tells_tests {a d : Chip} (hframe : a.Frame [.ply] (· ∈ testKeys) d) (hk : k ∈ l) (hf : d.TestFails k) :
    a.Tells (l.foldl Chip.testOne d) EV.PLY_LATENT_ERROR := by
  induction l generalizing d with
  | nil => cases hk
  | cons x xs ih =>
    rw [List.foldl_cons]
    by_cases hx : x = k
    · subst hx
      have hcount : a.Frame [.ply] (· ∈ testKeys) ((d.setAdd x 7 1).bump PLY.LATENT_ERRORS_COUNT) :=
        (hframe.trans Chip.setAdd_frame).bump _ 0 0 (by decide)
      have hnow : a.Tells (d.testOne x) EV.PLY_LATENT_ERROR := by
        rw [Chip.testOne_fails _ _ hf]
        exact hcount.tells_raise _ 0 (by decide) (by decide)
      exact foldl_same (same := fun b e : Chip => a.Tells b EV.PLY_LATENT_ERROR → a.Tells e EV.PLY_LATENT_ERROR) (fun _ h => h)
        (fun _ _ _ h h' ht => h' (h ht)) (fun b j ht => b.tells_testOne j ht) xs _ hnow
    · refine ih (hframe.trans (d.testOne_frame x)) ((List.mem_cons.mp hk).resolve_left (Ne.symm hx)) ?_
      exact (Chip.testFails_congr _ k (d.testOne_ne x hx)).mpr hf
end

/-- What the tests leave of the sets (R332). -/
theorem latentTest_ends {s : State} (hdue : s.chip.latentTestDue = true) : Ends .latentTest s fun d =>
    d.ply.testMs = s.chip.ply.testMs - s.chip.ply.testPer ∧ d.ply.testPer = max 1 (s.chip.fld PLY.CFG_LATENT_TEST_MS) ∧
    (∀ k, k ∈ s.chip.latentSets ∧ s.chip.TestFails k →
      d.setW k 7 = min (s.chip.setW k 7 + 1) 0xFFFFFFFF ∧ s.chip.Tells d EV.PLY_LATENT_ERROR) ∧
    (∀ k, ¬ (k ∈ s.chip.latentSets ∧ s.chip.TestFails k) → d.setW k 7 = s.chip.setW k 7) ∧
    (∀ k w, w < 16 → w ≠ 7 → d.setW k w = s.chip.setW k w) := by
  refine ends_of_due (due := Chip.latentTestDue) (g := Chip.latentTest) rfl hdue ?_
  have hset (k w : Nat) : (s.chip.ended s.chip.latentTest).setW k w = s.chip.latentTest.setW k w := s.chip.ended_setW _ k w
  have hwords (d : Chip) (k w : Nat) (hw : w < 16) : d.setW k w = d.setWords k ⟨w, hw⟩ := rfl
  have hin (k : Nat) (hk : k ∈ s.chip.latentSets) : s.chip.latentTest.setWords k = (s.chip.testTimed.testOne k).setWords k :=
    Chip.setWords_tests_mem _ s.chip.latentSets_nodup hk
  have hout (k : Nat) (hk : k ∉ s.chip.latentSets) : s.chip.latentTest.setWords k = s.chip.setWords k :=
    Chip.setWords_tests_not_mem s.chip.testTimed hk
  obtain ⟨hms, hper⟩ := s.chip.testTimed.tests_time (l := s.chip.latentSets)
  refine ⟨?_, ?_, fun k hk => ⟨?_, ?_⟩, fun k hk => ?_, fun k w hw h7 => ?_⟩
  · rw [Chip.ended_ply, Chip.latentTest_eq, Chip.latentSets_testTimed, hms, Chip.testTimed]
  · rw [Chip.ended_ply, Chip.latentTest_eq, Chip.latentSets_testTimed, hper, Chip.testTimed]
  · rw [hset, hwords _ _ _ (by decide), hin k hk.1]
    exact s.chip.testTimed.setW_testOne_fails k hk.2
  · exact (Chip.tells_tests (a := s.chip) (d := s.chip.testTimed) ((Chip.Frame.refl _).withPly _ (by decide)) hk.1 hk.2).ended (by decide)
  · rw [hset, hwords _ _ _ (by decide)]
    by_cases hm : k ∈ s.chip.latentSets
    · rw [hin k hm]
      exact s.chip.testTimed.setW_testOne_kept k (.inr fun h => hk ⟨hm, h⟩)
    · rw [hout k hm]
      rfl
  · rw [hset, hwords _ _ _ hw]
    by_cases hm : k ∈ s.chip.latentSets
    · rw [hin k hm]
      exact s.chip.testTimed.setW_testOne_kept k (.inl h7)
    · rw [hout k hm]
      rfl

theorem latentReset_ends {s : State} (hdue : s.chip.latentResetDue = true) : Ends .latentReset s fun d =>
    d.ply.resetMs = s.chip.ply.resetMs - s.chip.ply.resetPer ∧
    (∀ k, k ∈ s.chip.latentSets → d.setW k 9 = 0 ∧ d.setW k 10 = 0 ∧ d.setW k 8 = min (s.chip.setW k 8 + 1) 0xFFFFFFFF) ∧
    (∀ k w, w < 16 → (k ∉ s.chip.latentSets ∨ w ∉ [8, 9, 10]) → d.setW k w = s.chip.setW k w) := by
  refine ends_of_due (due := Chip.latentResetDue) (g := Chip.latentReset) rfl hdue ?_
  have hset (k w : Nat) : (s.chip.ended s.chip.latentReset).setW k w = s.chip.latentReset.setW k w := s.chip.ended_setW _ k w
  have hwords (d : Chip) (k w : Nat) (hw : w < 16) : d.setW k w = d.setWords k ⟨w, hw⟩ := rfl
  have hin (k : Nat) (hk : k ∈ s.chip.latentSets) : s.chip.latentReset.setWords k = (s.chip.resetTimed.resetOne k).setWords k :=
    Chip.setWords_resets_mem _ s.chip.latentSets_nodup hk
  have hout (k : Nat) (hk : k ∉ s.chip.latentSets) : s.chip.latentReset.setWords k = s.chip.setWords k :=
    Chip.setWords_resets_not_mem s.chip.resetTimed hk
  refine ⟨?_, fun k hk => ⟨?_, ?_, ?_⟩, fun k w hw h => ?_⟩
  · rw [Chip.ended_ply, Chip.latentReset_eq, Chip.latentSets_resetTimed, s.chip.resetTimed.resets_time, Chip.resetTimed]
  · rw [hset, hwords _ _ _ (by decide), hin k hk]
    exact s.chip.resetTimed.setW_resetOne_zero k (.inl rfl)
  · rw [hset, hwords _ _ _ (by decide), hin k hk]
    exact s.chip.resetTimed.setW_resetOne_zero k (.inr rfl)
  · rw [hset, hwords _ _ _ (by decide), hin k hk]
    exact s.chip.resetTimed.setW_resetOne_count k
  · rw [hset, hwords _ _ _ hw]
    by_cases hm : k ∈ s.chip.latentSets
    · rw [hin k hm]
      exact s.chip.resetTimed.setW_resetOne_kept k hw (.inr (h.resolve_left (not_not.mpr hm)))
    · rw [hout k hm]
      rfl

/-! ### A counter set is cleared (R333) -/

section
variable {c : Chip} {j k u : Nat} {l : List Nat}

/-- Each word of the list cleared in set k. -/
def Chip.setZeroed (c : Chip) (k : Nat) (l : List Nat) : Chip := l.foldl (fun d w => d.setSetW k w 0) c

theorem Chip.cntSelWrite_eq (c : Chip) (v : Nat) : c.cntSelWrite v =
    if bitsOf v 31 31 = 1 then (c.setFld PLY.CNT_SEL_INDEX (bitsOf v 9 0)).setZeroed (bitsOf v 9 0) (List.range 11)
    else c.setFld PLY.CNT_SEL_INDEX (bitsOf v 9 0) := rfl

theorem Chip.setZeroed_frame : c.Frame [.ply] (fun _ => False) (c.setZeroed k l) :=
  (Chip.Frame.refl c).foldl l fun _ _ _ => Chip.setSetW_frame

theorem Chip.setW_setZeroed_kept (h : ∀ w ∈ l, 16 * j + u ≠ 16 * k + w) : (c.setZeroed k l).setW j u = c.setW j u := by
  induction l generalizing c with
  | nil => rfl
  | cons w l ih =>
    exact (ih fun w' hw' => h w' (.tail _ hw')).trans (Chip.setW_setSetW_ne (h w (.head _)))

theorem Chip.setW_setZeroed_zero (hu : u ∈ l) : (c.setZeroed k l).setW k u = 0 := by
  induction l generalizing c with
  | nil => cases hu
  | cons w l ih =>
    rw [Chip.setZeroed, List.foldl_cons]
    by_cases h : u ∈ l
    · exact ih h
    · obtain rfl : u = w := (List.mem_cons.mp hu).resolve_right h
      refine (Chip.setW_setZeroed_kept fun w' hw' => ?_).trans Chip.setW_setSetW_self
      rintro heq
      exact h ((Nat.add_left_cancel heq) ▸ hw')
end

/-- CNT_SEL selects a set, and with bit 31 clears it. -/
theorem counterSetClear_ends {s : State} {p : Port} {v : Word} (hopen : s.chip.Open p .ply 0) : Ends (.counterSetClear p v) s fun d =>
    d.fld PLY.CNT_SEL_INDEX = bitsOf v.toNat 9 0 ∧
    (∀ w, w < 11 → d.setW (bitsOf v.toNat 9 0) w = if v.toNat.testBit 31 then 0 else s.chip.setW (bitsOf v.toNat 9 0) w) ∧
    (∀ j w, w < 16 → (j ≠ bitsOf v.toNat 9 0 ∨ 11 ≤ w) → d.setW j w = s.chip.setW j w) := by
  refine ends_of_access (r := PLY.CNT_SEL_INDEX) (g := fun d => d.cntSelWrite v.toNat) rfl hopen ?_
  have hsel : (s.chip.setFld PLY.CNT_SEL_INDEX (bitsOf v.toNat 9 0)).fld PLY.CNT_SEL_INDEX = bitsOf v.toNat 9 0 :=
    (Chip.fld_setFld_self _ _ _ _ _).trans (Nat.mod_eq_of_lt (bitsOf_lt (w := v.toNat) 9 0))
  have hnum (d : Chip) : (s.chip.ended d).fld PLY.CNT_SEL_INDEX = d.fld PLY.CNT_SEL_INDEX := Chip.ended_fld _ _ _ _ _ (by decide)
  have hset (d : Chip) (k w : Nat) : (s.chip.ended d).setW k w = d.setW k w := s.chip.ended_setW _ k w
  have hkept (k w : Nat) : (s.chip.setFld PLY.CNT_SEL_INDEX (bitsOf v.toNat 9 0)).setW k w = s.chip.setW k w := Chip.setW_congr rfl
  rw [Chip.cntSelWrite_eq]
  by_cases hbit : v.toNat.testBit 31 = true
  · rw [if_pos (by rw [bitsOf_bit, hbit]; rfl)]
    refine ⟨?_, fun w hw => ?_, fun j w hw h => ?_⟩
    · rw [hnum, Chip.setZeroed_frame.fld _ 0 0 id, hsel]
    · rw [hset, Chip.setW_setZeroed_zero (List.mem_range.mpr hw), if_pos hbit]
    · rw [hset, Chip.setW_setZeroed_kept fun w' hw' => ?_, hkept]
      have := List.mem_range.mp hw'
      omega
  · have hzero : ¬ bitsOf v.toNat 31 31 = 1 := fun h => hbit (by rw [bitsOf_bit] at h; simpa using h)
    rw [if_neg hzero]
    exact ⟨(hnum _).trans hsel, fun w _ => by rw [hset, hkept, if_neg hbit], fun j w _ _ => (hset _ _ _).trans (hkept _ _)⟩

/-! ### CORE leaves DEEP (R335) -/

section
variable {c : Chip} {i j k w : Nat} {l : List Nat}

/-- TAKE_ANY and HIST of a context that recovers, as CORE wakes. -/
def Chip.recovWoken (c : Chip) (i : Nat) : Chip := if c.ctxF i 8 0 0 = 1 then c.recovCleared i else c

/-- The contexts' buckets and stamps that are not kept over DEEP. -/
def Chip.bucketsWoken (c : Chip) (i : Nat) : Chip :=
  (((c.setCtxW i 3 (c.ctxCbs i * onePkt)).setCtxW i 4 (c.ctxPbs i * onePkt)).setCtxW i 6 (c.ctxBurst i * onePkt)).setCtxW i 7 c.tick24

/-- The periods start at the first wake. -/
def Chip.plyStarted (c : Chip) : Chip :=
  if c.ply.started then c
  else { c with ply := { c.ply with started := true, testPer := max 1 (c.fld PLY.CFG_LATENT_TEST_MS),
                                    resetPer := max 1 (c.fld PLY.CFG_LATENT_RESET_MS) } }

/-- The wake of CORE, but for the count, the events and what no counter set or context shows. -/
def Chip.coreWoken (c : Chip) : Chip :=
  let d := (c.ctxListed.foldl Chip.bucketsWoken c).plyStarted
  d.ctxListed.foldl Chip.recovWoken d

/-- What follows: the count, the buffer's reserve, the refill time and the lanes. -/
def Chip.coreCounted (c : Chip) : Chip :=
  let c := (c.bump PLY.WAKE_RESETS_COUNT).raise EV.PLY_WAKE_RESET
  let c := { c with buffer := { c.buffer with c7Size := min (c.fld REEL.BUF_CFG_C7_RESERVE) 8192 } }
  let c := { c with whorl := { c.whorl with refillUs := c.net / (usQ : Int) } }
  c.updModes fun m => { m with corePllLock := true, lightFrom := c.now, laneLight := [], laneWake := [] }

/-- The wake that is due taken from the list, and the domain ON. -/
def Chip.wakeTaken (c : Chip) (d : Domain) : Chip :=
  ({ c with power := { c.power with wakes := c.power.wakes.filter fun w => w.1 != d } } : Chip).setDom d domON

theorem Chip.ctxWake_eq (c : Chip) : c.ctxWake = c.ctxListed.foldl Chip.bucketsWoken c := rfl

theorem Chip.plyWake_eq (c : Chip) : c.plyWake =
    ((c.plyStarted.ctxListed.foldl Chip.recovWoken c.plyStarted).bump PLY.WAKE_RESETS_COUNT).raise EV.PLY_WAKE_RESET := rfl

theorem Chip.wakeDone_core (c : Chip) :
    c.wakeDone .core = ((c.wakeTaken .core).coreWoken.coreCounted).raise EV.POWER_WAKE_DONE := by
  rw [Chip.wakeDone, ← Chip.wakeTaken]
  generalize c.wakeTaken .core = d
  rw [Chip.wakeEffect, Chip.ctxWake_eq, Chip.plyWake_eq, Chip.coreWoken]
  generalize (d.ctxListed.foldl Chip.bucketsWoken d).plyStarted.ctxListed.foldl Chip.recovWoken _ = e
  rw [Chip.coreCounted]

theorem Chip.within_bucketsWoken (hw : 8 ≤ w) (hw16 : w < 16) : (c.bucketsWoken i).ctxW j w = c.ctxW j w := by
  rw [Chip.bucketsWoken, Chip.ctxW_setCtxW_ne _ _ _ _ _ _ (by omega), Chip.ctxW_setCtxW_ne _ _ _ _ _ _ (by omega),
    Chip.ctxW_setCtxW_ne _ _ _ _ _ _ (by omega), Chip.ctxW_setCtxW_ne _ _ _ _ _ _ (by omega)]

theorem Chip.ctxW_bucketsWoken_all (hw : 8 ≤ w) (hw16 : w < 16) : (l.foldl Chip.bucketsWoken c).ctxW j w = c.ctxW j w :=
  foldl_same (f := Chip.bucketsWoken) (same := fun a b : Chip => b.ctxW j w = a.ctxW j w) (fun _ => rfl) (fun _ _ _ h h' => h'.trans h)
    (fun _ _ => Chip.within_bucketsWoken hw hw16) l c

theorem Chip.plyStarted_says : c.plyStarted.reel = c.reel ∧ c.plyStarted.ply.sets = c.ply.sets := by
  unfold Chip.plyStarted
  split_ifs
  · exact ⟨rfl, rfl⟩
  · exact ⟨rfl, rfl⟩

theorem Chip.ctxW_recovWoken_ne (h : j ≠ i) (hw : w < 16) : (c.recovWoken i).ctxW j w = c.ctxW j w := by
  unfold Chip.recovWoken
  split_ifs
  · exact Chip.within_recovCleared.other j w h hw
  · rfl

theorem Chip.recov_recovWoken : (c.recovWoken i).ctxF j 8 0 0 = c.ctxF j 8 0 0 := by
  by_cases h : j = i
  · subst h
    unfold Chip.recovWoken
    split_ifs
    · rw [Chip.recovCleared, Chip.within_setHist.ctxF (by decide) (by decide), Chip.ctxF, Chip.ctxW_setCtxF_self, Chip.ctxF]
      simp only [withBits, bitsOf_eq, Nat.reduceSub, Nat.reduceAdd, Nat.reducePow, Nat.reduceMod]
      omega
    · rfl
  · rw [Chip.ctxF, Chip.ctxW_recovWoken_ne h (by decide), Chip.ctxF]

/-- TAKE_ANY stays set, and HIST empty. -/
theorem Chip.recovWoken_keeps (h : c.ctxF j 8 7 7 = 1 ∧ c.hist j = 0) : (c.recovWoken i).ctxF j 8 7 7 = 1 ∧ (c.recovWoken i).hist j = 0 := by
  by_cases hj : j = i
  · subst hj
    unfold Chip.recovWoken
    split_ifs
    · exact Chip.recovCleared_says
    · exact h
  · have hword (w : Nat) (hw : w < 16) : (c.recovWoken i).ctxW j w = c.ctxW j w := Chip.ctxW_recovWoken_ne hj hw
    rw [Chip.ctxF, hword 8 (by decide), Chip.hist_congr (hword 12 (by decide)) (hword 13 (by decide)) (hword 14 (by decide)) (hword 15 (by decide))]
    exact h

theorem Chip.recovWoken_all (hj : j ∈ l) (h : c.ctxF j 8 0 0 = 1) :
    (l.foldl Chip.recovWoken c).ctxF j 8 7 7 = 1 ∧ (l.foldl Chip.recovWoken c).hist j = 0 := by
  induction l generalizing c with
  | nil => cases hj
  | cons x xs ih =>
    rw [List.foldl_cons]
    by_cases hx : j = x
    · subst hx
      refine foldl_same (f := Chip.recovWoken) (same := fun a b : Chip => a.ctxF j 8 7 7 = 1 ∧ a.hist j = 0 → b.ctxF j 8 7 7 = 1 ∧ b.hist j = 0)
        (fun _ h => h) (fun _ _ _ h h' ht => h' (h ht)) (fun _ _ => Chip.recovWoken_keeps) xs _ ?_
      rw [Chip.recovWoken, if_pos h]
      exact Chip.recovCleared_says
    · exact ih ((List.mem_cons.mp hj).resolve_left hx) (Chip.recov_recovWoken.trans h)

theorem Chip.recovWoken_idle (h : c.ctxF j 8 0 0 = 0) (hw : w < 16) : (l.foldl Chip.recovWoken c).ctxW j w = c.ctxW j w := by
  induction l generalizing c with
  | nil => rfl
  | cons x xs ih =>
    refine (ih (Chip.recov_recovWoken.trans h)).trans ?_
    by_cases hx : j = x
    · subst hx
      rw [Chip.recovWoken, if_neg (by rw [h]; decide)]
    · exact Chip.ctxW_recovWoken_ne hx hw

theorem Chip.recovWoken_frame : c.Frame [.reel] (fun _ => False) (c.recovWoken i) := by
  unfold Chip.recovWoken
  split_ifs
  · exact Chip.setCtxF_frame.trans Chip.setHist_frame
  · exact .refl c

theorem Chip.bucketsWoken_frame : c.Frame [.reel] (fun _ => False) (c.bucketsWoken i) :=
  ((((Chip.Frame.refl c).withReel _ (by decide)).withReel _ (by decide)).withReel _ (by decide)).withReel _ (by decide)

/-- The wake leaves every counter set, and every word of a context without recovery from word 8 on. -/
theorem Chip.coreWoken_says : (∀ k w, c.coreWoken.setW k w = c.setW k w) ∧
    (∀ j w, c.ctxF j 8 0 0 = 0 → 8 ≤ w → w < 16 → c.coreWoken.ctxW j w = c.ctxW j w) ∧
    ∀ j, c.ctxF j 8 0 0 = 1 → c.coreWoken.ctxF j 8 7 7 = 1 ∧ c.coreWoken.hist j = 0 := by
  have hb : c.Frame [.reel] (fun _ => False) (c.ctxListed.foldl Chip.bucketsWoken c) :=
    (Chip.Frame.refl c).foldl _ fun _ _ _ => Chip.bucketsWoken_frame
  have hword (j w : Nat) (hw : 8 ≤ w) (hw16 : w < 16) : (c.ctxListed.foldl Chip.bucketsWoken c).plyStarted.ctxW j w = c.ctxW j w :=
    (Chip.ctxW_congr Chip.plyStarted_says.1).trans (Chip.ctxW_bucketsWoken_all hw hw16)
  have hsets : (c.ctxListed.foldl Chip.bucketsWoken c).plyStarted.ply.sets = c.ply.sets :=
    Chip.plyStarted_says.2.trans (congrArg Ply.sets (hb.ply (by decide)))
  rw [Chip.coreWoken]
  generalize (c.ctxListed.foldl Chip.bucketsWoken c).plyStarted = d at hword hsets
  have hf : d.Frame [.reel] (fun _ => False) (d.ctxListed.foldl Chip.recovWoken d) :=
    (Chip.Frame.refl d).foldl _ fun _ _ _ => Chip.recovWoken_frame
  have hbit (j : Nat) : d.ctxF j 8 0 0 = c.ctxF j 8 0 0 := congrArg (bitsOf · 0 0) (hword j 8 (by decide) (by decide))
  refine ⟨fun k w => ?_, fun j w h hw hw16 => ?_, fun j h => ?_⟩
  · rw [Chip.setW_congr (hf.ply (by decide)), Chip.setW, hsets, Chip.setW]
  · exact (Chip.recovWoken_idle ((hbit j).trans h) hw16).trans (hword j w hw hw16)
  · refine Chip.recovWoken_all (d.mem_ctxListed_of_word j 8 (by decide) fun h0 => ?_) ((hbit j).trans h)
    have hzero : d.ctxF j 8 0 0 = 0 := by
      simp only [Chip.ctxF, Chip.ctxW, h0]
      rfl
    rw [← hbit j, hzero] at h
    exact absurd h (by decide)

theorem Chip.plyStarted_frame : c.Frame [.ply] (fun _ => False) c.plyStarted := by
  unfold Chip.plyStarted
  split_ifs
  · exact .refl c
  · exact (Chip.Frame.refl c).withPly _ (by decide)

theorem Chip.coreWoken_frame : c.Frame [.reel, .ply] (fun _ => False) c.coreWoken := by
  have hb : c.Frame [.reel, .ply] (fun _ => False) (c.ctxListed.foldl Chip.bucketsWoken c) :=
    (Chip.Frame.refl c).foldl _ fun _ _ _ => Chip.bucketsWoken_frame.mono (by decide) fun _ h => h
  exact (hb.trans (Chip.plyStarted_frame.mono (by decide) fun _ h => h)).foldl _ fun _ _ _ => Chip.recovWoken_frame.mono (by decide) fun _ h => h

theorem Chip.coreCounted_says : c.coreCounted.reel = c.reel ∧ c.coreCounted.ply = c.ply ∧ c.Counts c.coreCounted PLY.WAKE_RESETS_COUNT ∧
    c.coreCounted.dom .core = c.dom .core := by
  have hcount := c.counts_bump PLY.WAKE_RESETS_COUNT 0
  have hbump : c.Frame [] (· ∈ [PLY.WAKE_RESETS_COUNT.key 0 0]) (c.bump PLY.WAKE_RESETS_COUNT) := (Chip.Frame.refl c).bump _ 0 0 (by decide)
  have hrest : (c.bump PLY.WAKE_RESETS_COUNT).Frame [.buffer, .whorl, .modes] (· ∈ [EV.PLY_WAKE_RESET.key 0]) c.coreCounted :=
    ((((Chip.Frame.refl _).raise _ 0 (by decide)).withBuffer _ (by decide)).withWhorl _ (by decide)).withModes _ (by decide)
  exact ⟨(hrest.reel (by decide)).trans (hbump.reel (by decide)), (hrest.ply (by decide)).trans (hbump.ply (by decide)),
    (hrest.fld _ 0 0 (by decide)).trans hcount, (hrest.dom _ (by decide)).trans (hbump.dom _ (by decide))⟩
end

/-- The resets as CORE leaves DEEP. -/
theorem coreWake_ends {s : State} (hdue : s.chip.wakeDue .core = true) : Ends (.domainWakeDone .core) s fun d => d.dom .core = domON ∧
    (∀ j, s.chip.ctxF j 8 0 0 = 1 → d.ctxF j 8 7 7 = 1 ∧ d.hist j = 0) ∧
    (∀ j w, s.chip.ctxF j 8 0 0 = 0 → 8 ≤ w → w < 16 → d.ctxW j w = s.chip.ctxW j w) ∧ (∀ k w, d.setW k w = s.chip.setW k w) ∧
    s.chip.Counts d PLY.WAKE_RESETS_COUNT := by
  refine ends_of_due (due := fun c => c.wakeDue .core) (g := fun c => c.wakeDone .core) rfl hdue ?_
  rw [Chip.wakeDone_core]
  have htaken : s.chip.Frame [.power] (· ∈ [POWER.DOMAIN_STATE_CORE.key 0 0]) (s.chip.wakeTaken .core) :=
    ((Chip.Frame.refl s.chip).withPower _ (by decide)).setFld _ _ 0 0 (by decide)
  have hon : (s.chip.wakeTaken .core).dom .core = domON := Chip.fld_setFld_self _ _ _ _ _
  have hreel : (s.chip.wakeTaken .core).reel = s.chip.reel := htaken.reel (by decide)
  have hply : (s.chip.wakeTaken .core).ply = s.chip.ply := htaken.ply (by decide)
  have hcell : (s.chip.wakeTaken .core).fld PLY.WAKE_RESETS_COUNT = s.chip.fld PLY.WAKE_RESETS_COUNT := htaken.fld _ 0 0 (by decide)
  generalize s.chip.wakeTaken .core = b at *
  obtain ⟨hsets, hidle, hrecov⟩ := b.coreWoken_says
  have hwoken := b.coreWoken_frame
  have hcell' : b.coreWoken.fld PLY.WAKE_RESETS_COUNT = s.chip.fld PLY.WAKE_RESETS_COUNT := (hwoken.fld _ 0 0 id).trans hcell
  have hon' : b.coreWoken.dom .core = domON := (hwoken.dom _ id).trans hon
  generalize b.coreWoken = e at *
  obtain ⟨hreel', hply', hcount, hdom⟩ := e.coreCounted_says
  generalize e.coreCounted = f at *
  have hraise : f.Frame [] (· ∈ [EV.POWER_WAKE_DONE.key 0]) (f.raise EV.POWER_WAKE_DONE) := (Chip.Frame.refl f).raise _ 0 (by decide)
  have hword (j w : Nat) : (s.chip.ended (f.raise EV.POWER_WAKE_DONE)).ctxW j w = e.ctxW j w := by
    rw [Chip.ended_ctxW, Chip.ctxW_congr (hraise.reel (by decide)), Chip.ctxW_congr hreel']
  have hctx (j w : Nat) : b.ctxW j w = s.chip.ctxW j w := Chip.ctxW_congr hreel
  have hbit (j : Nat) : b.ctxF j 8 0 0 = s.chip.ctxF j 8 0 0 := congrArg (bitsOf · 0 0) (hctx j 8)
  refine ⟨?_, fun j h => ?_, fun j w h hw hw16 => ?_, fun k w => ?_, ?_⟩
  · rw [Chip.ended_dom _ _ _ (by decide), hraise.dom _ (by decide), hdom, hon']
  · rw [Chip.ctxF, hword, Chip.hist_congr (hword j 12) (hword j 13) (hword j 14) (hword j 15)]
    exact hrecov j ((hbit j).trans h)
  · rw [hword, hidle j w ((hbit j).trans h) hw hw16, hctx]
  · rw [Chip.ended_setW, Chip.setW_congr (hraise.ply (by decide)), Chip.setW_congr hply', hsets, Chip.setW_congr hply]
  · rw [Chip.Counts, Chip.ended_fld _ _ _ _ _ (by decide), hraise.fld _ 0 0 (by decide), hcount, hcell']

/-! ### The obligation -/

theorem Ends.imp {i : Instr} {s : State} {P Q : Chip → Prop} (h : Ends i s P) (hpq : ∀ d, P d → Q d) : Ends i s Q :=
  Exists.imp (fun _ ⟨hexec, hpend, hp⟩ => ⟨hexec, hpend, hpq _ hp⟩) h

theorem Chip.latentTestDue_iff (c : Chip) : c.latentTestDue = true ↔ c.dom .core = domON ∧ c.ply.testPer ≤ c.ply.testMs := by
  rw [Chip.latentTestDue, Bool.and_eq_true, beq_iff_eq, decide_eq_true_iff]

theorem Chip.latentResetDue_iff (c : Chip) :
    c.latentResetDue = true ↔ c.dom .core = domON ∧ c.ply.resetPer ≤ c.ply.resetMs ∧ c.ply.testMs < c.ply.testPer := by
  rw [Chip.latentResetDue, Bool.and_eq_true, Bool.and_eq_true, beq_iff_eq, decide_eq_true_iff, Bool.not_eq_true', Bool.eq_false_iff, ne_eq,
    c.latentTestDue_iff, and_assoc]
  exact and_congr_right fun hcore => and_congr_right fun _ => by rw [and_iff_right hcore, Nat.not_le]

/-- Settles O46: the timers, the tests, the clearing and the wake by their commands, and recovery by the algorithm of the context. -/
theorem plyTimersAndSets : Obligations.PlyTimersAndSets := by
  unfold Obligations.PlyTimersAndSets
  refine ⟨?_, ?_⟩
  · intro s ctx p v c i set ms due latent paths diff fails
    have hdue : c.recovDue i = true ↔ due := Chip.recovDue_iff
    have hlatent (k : Nat) : latent k ↔ k ∈ c.latentSets := (c.mem_latentSets k).symm
    have hfails (k : Nat) : fails k ↔ k ∈ c.latentSets ∧ c.TestFails k := and_congr_left' (hlatent k)
    refine ⟨fun hcore h => seqReset_ends hcore (hdue.mpr h), fun h => ?_, fun hcore h => ?_, fun h => ?_, fun hcore h ht => ?_, fun h => ?_,
      counterSetClear_ends, coreWake_ends⟩
    · refine idles_of_not_due (exec_seqReset ctx s) ?_
      rw [Bool.and_eq_false_iff, beq_eq_false_iff_ne]
      exact h.imp id fun hn => Bool.eq_false_iff.mpr fun hd => hn (hdue.mp hd)
    · refine (latentTest_ends (s := s) (c.latentTestDue_iff.mpr ⟨hcore, h⟩)).imp fun d ⟨hms, hper, hfail, hhold, hkept⟩ => ?_
      exact ⟨hms, hper, fun k hk => hfail k ((hfails k).mp hk), fun k hk => hhold k fun hk' => hk ((hfails k).mpr hk'), hkept⟩
    · refine idles_of_not_due (due := Chip.latentTestDue) (g := Chip.latentTest) rfl (Bool.eq_false_iff.mpr fun hd => ?_)
      obtain ⟨hcore, hper⟩ := c.latentTestDue_iff.mp hd
      exact h.elim (fun hne => hne hcore) (Nat.not_lt.mpr hper)
    · refine (latentReset_ends (s := s) (c.latentResetDue_iff.mpr ⟨hcore, h, ht⟩)).imp fun d ⟨hms, hzero, hkept⟩ => ?_
      exact ⟨hms, fun k hk => hzero k ((hlatent k).mp hk), fun k w hw hk => hkept k w hw (hk.imp_left fun hn hm => hn ((hlatent k).mpr hm))⟩
    · refine idles_of_not_due (due := Chip.latentResetDue) (g := Chip.latentReset) rfl (Bool.eq_false_iff.mpr fun hd => ?_)
      obtain ⟨hcore, hper, htest⟩ := c.latentResetDue_iff.mp hd
      exact h.elim (fun hne => hne hcore) fun h => h.elim (Nat.not_lt.mpr hper) (Nat.not_le.mpr htest)
  · intro c i q n h set taking d answer counts passed late dup recov
    refine ⟨Chip.recover_idle, fun hr hq hc => ?_, fun x hr hq hc => ?_, fun x hr hq ht hl => ?_⟩
    · obtain ⟨⟨hcount, htell⟩, hanswer, hreel⟩ : (c.SetCounts d i 5 PLY.TAGLESS_COUNT 1 ∧ c.Tells d EV.PLY_TAGLESS) ∧
          answer = (if c.ctxF i 8 3 3 = 1 then some i else none) ∧ d.reel = c.reel := by
        have heq : c.recover i q = _ := Chip.recover_tagless hr hq hc
        refine ⟨?_, congrArg Prod.snd heq, (congrArg (fun r => r.1.reel) heq).trans Chip.countTold_reel⟩
        change c.SetCounts (c.recover i q).1 i 5 PLY.TAGLESS_COUNT 1 ∧ c.Tells (c.recover i q).1 EV.PLY_TAGLESS
        rw [heq]
        exact Chip.countTold_says (by decide) (by decide) rfl (by decide) (by decide)
      exact ⟨hanswer, hcount, htell, hreel⟩
    · intro delta
      refine ⟨fun ha => ⟨Chip.recover_vector_taking hr hq hc ha, Chip.recover_vector_rogue hr hq hc ha, Chip.recover_vector_dup hr hq hc ha,
          fun ht hlo hd hb => ?_, fun ht hd hhi => ?_⟩,
        fun ha => ⟨Chip.recover_match_taking hr hq hc ha, Chip.recover_match_dup hr hq hc ha, Chip.recover_match_ahead hr hq hc ha⟩⟩
      · exact Chip.recover_vector_behind hr hq hc ha ht hlo hd hb
      · exact Chip.recover_vector_ahead hr hq hc ha ht hd hhi rfl (zerosLeaving_eq _ _ _).symm
    · exact fun hj => ⟨Chip.recover_linked_wrong hr hq ht hl hj,
        fun hr' hl' ha ht' y hy hs => Chip.recover_linked_dup hr hq ht hl hj hr' hl' ha ht' hy hs⟩

end Sys2Proof.Machine
end

section
/-!
PROOF. The pages that stand for an instance: cells of one row against those of others, and the records of the engines, the Flyers and the
uplinks.
-/
namespace Sys2Proof.Machine

/-- The pages of a class hold no level. -/
def PageCls.unlevelled (cls : PageCls) : Bool := [0, 1, 0x050].all fun x => decide (x < cls.base) || decide (cls.base + cls.count ≤ x)

theorem rowKey_not_level {r : FieldRow} {n i : Nat} (hr : (r.placed && r.cls.unlevelled) = true) (hn : n < r.cls.count) (hi : i < 65536) :
    r.key n i ∉ levelKeys := by
  simp only [Bool.and_eq_true, PageCls.unlevelled, List.all_eq_true, Bool.or_eq_true, decide_eq_true_eq] at hr
  obtain ⟨hplaced, hall⟩ := hr
  refine page_not_level fun hmem => ?_
  rw [(cellPage_row r hplaced n i hi).1] at hmem
  have := hall _ hmem
  omega

theorem evtKey_not_level {e : Evt} {n : Nat} (he : e.cls.unlevelled = true) (hn : n < e.cls.count) : e.key n ∉ levelKeys := by
  simp only [PageCls.unlevelled, List.all_eq_true, Bool.or_eq_true, decide_eq_true_eq] at he
  refine page_not_level fun hmem => ?_
  rw [Evt.key, (cellPage_hdr HDR.EVT (by decide) _).1] at hmem
  have := he _ hmem
  omega

section
variable {c d b : Chip} {q r : FieldRow} {n m i j v : Nat} {e : Evt}

theorem Chip.ended_inst (hq : (q.placed && q.cls.unlevelled) = true) (hm : m < q.cls.count) (hj : j < 65536) :
    (b.ended d).fld q m j = d.fld q m j := b.ended_fld d q m j (rowKey_not_level hq hm hj)

theorem Chip.ended_inst_on (hq : (q.placed && q.cls.unlevelled) = true) (hm : m < q.cls.count) (hj : j < 65536) :
    (b.ended d).on q m j = d.on q m j := b.ended_on d q m j (rowKey_not_level hq hm hj)

theorem Chip.Counts.inst (h : c.Counts d q n i) (hq : (q.placed && q.cls.unlevelled) = true) (hn : n < q.cls.count) :
    c.Counts (b.ended d) q n i := (Chip.ended_inst hq hn (by decide)).trans h

theorem Chip.Tells.inst (h : c.Tells d e n) (he : e.cls.unlevelled = true) (hn : n < e.cls.count) : c.Tells (b.ended d) e n :=
  h.ended (evtKey_not_level he hn)

/-- A field of another place or page class than the one that is set. -/
theorem Chip.fld_setFld_apart (hq : (q.placed && q.apart (.upto r)) = true) (hn : n < r.cls.count) (hi : i < 65536) (hm : m < q.cls.count)
    (hj : j < 65536) : (d.setFld r v n i).fld q m j = d.fld q m j := by
  refine ((Chip.Frame.refl (S := []) d).setFld r v n i (cells_upto (R := [.upto r]) (.head _) hn hi)).fld_apart q m j ?_ hm hj
  rw [List.all_cons, List.all_nil, Bool.and_true]
  exact hq

theorem Chip.fld_raise_apart (hq : (q.placed && q.apart (.evt e.cls)) = true) (hn : n < e.cls.count) (hm : m < q.cls.count) (hj : j < 65536) :
    (d.raise e n).fld q m j = d.fld q m j := by
  refine ((Chip.Frame.refl (S := []) d).raise e n (cells_evt (R := [.evt e.cls]) (.head _) hn)).fld_apart q m j ?_ hm hj
  rw [List.all_cons, List.all_nil, Bool.and_true]
  exact hq
end

/-! ### The records of an engine -/

section
variable {c : Chip} {n m t : Nat}

theorem Chip.eng_congr {d : Chip} (h : d.segs = c.segs) : d.eng n = c.eng n := by rw [Chip.eng, h, Chip.eng]

theorem Chip.eng_setEng_self (e : SegEng) : (c.setEng n e).eng n = e := Tab.get_put_self _ _ _ _

theorem Chip.eng_setEng_ne (e : SegEng) (h : m ≠ n) : (c.setEng n e).eng m = c.eng m := Tab.get_put_ne _ _ _ _ h

theorem Chip.eng_updEng_self (f : SegEng → SegEng) : (c.updEng n f).eng n = f (c.eng n) := Chip.eng_setEng_self _

theorem Chip.eng_updEng_ne (f : SegEng → SegEng) (h : m ≠ n) : (c.updEng n f).eng m = c.eng m := Chip.eng_setEng_ne _ h

theorem Chip.fly_setFly_self (f : Flyer) : (c.setFly n f).fly n = f := Tab.get_put_self _ _ _ _

theorem Chip.fly_setFly_ne (f : Flyer) (h : m ≠ n) : (c.setFly n f).fly m = c.fly m := Tab.get_put_ne _ _ _ _ h

theorem Chip.turnRec_updTurn_self (f : TurnRec → TurnRec) : (c.updTurn n t f).turnRec n t = f (c.turnRec n t) := by
  rw [Chip.turnRec, Chip.updTurn, Chip.eng_updEng_self, Chip.turnRec]
  exact Tab.get_put_self _ _ _ _
end

end Sys2Proof.Machine
end

section
/-!
PROOF. The commands of the SEGMENT pages (R143, R146, R150, R164, R165).
-/
namespace Sys2Proof.Machine

section
variable {c : Chip} {n t w v : Nat} {p : Port}

/-! ### PUB_CMD (R146) -/

theorem Chip.pubCmd_idle (h : bitsOf v 8 8 = 0) : c.pubCmd n p v = c := if_neg (by rw [h]; decide)

theorem Chip.pubCmd_refused (h : bitsOf v 8 8 = 1) (hno : 64 ≤ bitsOf v 6 0 ∨ (c.oper n (bitsOf v 6 0)).kind ≠ 2 ∨
    (c.oper n (bitsOf v 6 0)).maxPay < c.bankLen n (c.oper n (bitsOf v 6 0)) (1 - c.fld SEGMENT.TURN_STAT_BANK n (bitsOf v 6 0))) :
    c.pubCmd n p v = c.errcnt (PageCls.segment.base + n) 0x090 p := by
  refine (if_pos h).trans (if_neg ?_)
  rintro ⟨ht, hkind, hlen⟩
  exact hno.elim (Nat.not_le.mpr ht) fun h => h.elim (fun hne => hne hkind) (Nat.not_lt.mpr hlen)

theorem Chip.pubCmd_publishes (h : bitsOf v 8 8 = 1) (ht : bitsOf v 6 0 < 64) (hkind : (c.oper n (bitsOf v 6 0)).kind = 2)
    (hlen : c.bankLen n (c.oper n (bitsOf v 6 0)) (1 - c.fld SEGMENT.TURN_STAT_BANK n (bitsOf v 6 0)) ≤ (c.oper n (bitsOf v 6 0)).maxPay) :
    c.pubCmd n p v = c.publish n (bitsOf v 6 0) macBroadcast false := (if_pos h).trans (if_pos ⟨ht, hkind, hlen⟩)

/-- A publish that waits is replaced, and counts. -/
def Chip.overwritten (c : Chip) (n t : Nat) : Chip := if c.on SEGMENT.TURN_STAT_PUB_PENDING n t then c.bump SEGMENT.OVERWRITE_COUNT n else c

def publishKeys (n t : Nat) : List Nat := [SEGMENT.TURN_STAT_PUB_PENDING.key n t, SEGMENT.OVERWRITE_COUNT.key n 0]

theorem Chip.overwritten_frame : c.Frame [] (· ∈ publishKeys n t) (c.overwritten n t) := by
  unfold Chip.overwritten
  split_ifs
  · exact (Chip.Frame.refl c).bump _ n 0 (.tail _ (.head _))
  · exact .refl c

/-- The record of the turn that a publish leaves. -/
def TurnRec.published (r : TurnRec) (staging dst : Nat) (reel : Bool) : TurnRec :=
  if staging = 0 then { r with dstA := dst, fromReel := reel } else { r with dstB := dst, fromReel := reel }

theorem Chip.publish_eq (dst : Nat) (reel : Bool) : c.publish n t dst reel = ((c.overwritten n t).setFld SEGMENT.TURN_STAT_PUB_PENDING 1 n t).updTurn
    n t fun r => r.published (1 - c.fld SEGMENT.TURN_STAT_BANK n t) dst reel := rfl

theorem Chip.publish_frame (dst : Nat) (reel : Bool) : c.Frame [.segs] (· ∈ publishKeys n t) (c.publish n t dst reel) :=
  Chip.publish_eq dst reel ▸ (((Chip.overwritten_frame.mono (by decide) fun _ h => h).setFld _ _ _ _ (.head _)).withSegs _ (by decide))

theorem Chip.publish_pending (dst : Nat) (reel : Bool) : (c.publish n t dst reel).fld SEGMENT.TURN_STAT_PUB_PENDING n t = 1 :=
  (Chip.fld_setFld_self (c.overwritten n t) SEGMENT.TURN_STAT_PUB_PENDING 1 n t)

theorem Chip.publish_counts (dst : Nat) (reel : Bool) (hn : n < 96) (ht : t < 64) (h : c.on SEGMENT.TURN_STAT_PUB_PENDING n t = true) :
    c.Counts (c.publish n t dst reel) SEGMENT.OVERWRITE_COUNT n := by
  have hpend : ((c.bump SEGMENT.OVERWRITE_COUNT n).setFld SEGMENT.TURN_STAT_PUB_PENDING 1 n t).fld SEGMENT.OVERWRITE_COUNT n =
      (c.bump SEGMENT.OVERWRITE_COUNT n).fld SEGMENT.OVERWRITE_COUNT n := Chip.fld_setFld_apart (by decide) hn (by omega) hn (by decide)
  rw [Chip.publish_eq, Chip.overwritten, if_pos h]
  exact hpend.trans (c.counts_bump _ _)

/-! ### SAFE_VALID (R150) -/

theorem Chip.turnStatWrite_idle (h : (c.oper n t).isDev = false) : c.turnStatWrite n t p v = c :=
  if_neg fun ⟨_, hdev⟩ => Bool.noConfusion (h.symm.trans hdev)

theorem Chip.turnStatWrite_refused (ht : t < 64) (hdev : (c.oper n t).isDev = true) (hbit : bitsOf v 0 0 = 1)
    (hlen : (c.oper n t).maxPay < c.bankLen n (c.oper n t) 2) :
    c.turnStatWrite n t p v = c.errcnt (PageCls.segment.base + n) (0x200 + 4 * t) p := (if_pos ⟨ht, hdev⟩).trans (if_pos ⟨hbit, hlen⟩)

theorem Chip.turnStatWrite_sets (ht : t < 64) (hdev : (c.oper n t).isDev = true)
    (h : bitsOf v 0 0 = 0 ∨ c.bankLen n (c.oper n t) 2 ≤ (c.oper n t).maxPay) :
    c.turnStatWrite n t p v = c.setFld SEGMENT.TURN_STAT_SAFE_VALID (bitsOf v 0 0) n t := by
  refine (if_pos ⟨ht, hdev⟩).trans (if_neg ?_)
  rintro ⟨hbit, hlen⟩
  exact h.elim (fun h0 => absurd (h0.symm.trans hbit) (by decide)) (Nat.not_le.mpr hlen)

/-! ### The buffer window (R142, R143) -/

/-- The assigned bits of the words of a bank header, in the order of the words (Table 04.9). -/
def hdrMasks : List Nat := [0xFFFFFFFF, 0xFFFFFFFF, 0xFFFFFFFF, 0x0FFFFFFF, 0xFF0007FF, 0xFFFFFFFF, 0, 0]

theorem bankHdrMask_eq : ∀ k < 8, bankHdrMask k = hdrMasks.getD k 0 := by decide

theorem Chip.bankStarts_iff (block : Nat) : c.bankStarts n block = true ↔
    ∃ t < 64, ∃ b < (c.oper n t).bankCount, (c.oper n t).base + b * (c.oper n t).blocks = block := by
  simp only [Chip.bankStarts, List.any_eq_true, List.mem_range, beq_iff_eq]

theorem Chip.bufMask_header {a : Nat} (h : a % 128 < 32 ∧ ∃ t < 64, ∃ b < (c.oper n t).bankCount,
    (c.oper n t).base + b * (c.oper n t).blocks = a / 128) : c.bufMask n a = hdrMasks.getD (a % 128 / 4) 0 := by
  obtain ⟨hlow, hstart⟩ := h
  refine (if_pos ⟨hlow, (c.bankStarts_iff _).mpr hstart⟩).trans (bankHdrMask_eq _ ?_)
  omega

theorem Chip.bufMask_payload {a : Nat} (h : ¬ (a % 128 < 32 ∧ ∃ t < 64, ∃ b < (c.oper n t).bankCount,
    (c.oper n t).base + b * (c.oper n t).blocks = a / 128)) : c.bufMask n a = 0xFFFFFFFF :=
  if_neg fun ⟨hlow, hstart⟩ => h ⟨hlow, (c.bankStarts_iff _).mp hstart⟩

theorem Chip.bufWrite_held (h : c.bankHeld n (c.bufAddr n w / 128) = true) :
    c.bufWrite n w p v = c.errcnt (PageCls.segment.base + n) (0x800 + 4 * w) p := if_pos h

theorem Chip.bufWrite_put (h : c.bankHeld n (c.bufAddr n w / 128) = false) : c.bufWrite n w p v =
    (c.putBuf n (c.bufAddr n w) (leBytes 4 (v &&& c.bufMask n (c.bufAddr n w)))).sramWrite 3 (.cell .segBuf ((32768 * n + c.bufAddr n w) / 8)) :=
  if_neg (by rw [h]; decide)

theorem leBytes_length (k x : Nat) : (leBytes k x).length = k := by rw [leBytes, List.length_map, List.length_range]

theorem Chip.bufByte_putBuf {a j k x : Nat} (hj : j < k) : (c.putBuf n a (leBytes k x)).bufByte n (a + j) = BitVec.ofNat 8 (x >>> (8 * j)) := by
  have hlen : j < (leBytes k x).length := by rwa [leBytes_length]
  rw [Chip.bufByte, Chip.putBuf_segBuf, ← Nat.add_assoc, Tab.get_putList_in _ _ _ _ _ hlen]
  simp only [leBytes, List.getElem_map, List.getElem_range]

theorem Chip.putBuf_out {a k x y : Nat} (h : ¬ (32768 * n + a ≤ y ∧ y < 32768 * n + a + k)) :
    Tab.get 0 (c.putBuf n a (leBytes k x)).segBuf y = Tab.get 0 c.segBuf y := by
  rw [Chip.putBuf_segBuf, Tab.get_putList_out _ _ _ _ _ _ (by rw [leBytes_length]; omega)]

/-! ### JOIN_POP and ACK_CMD (R164, R165) -/

theorem Chip.joinPop_idle (h : bitsOf v 0 0 = 0) : c.joinPop n v = c := if_neg (by rw [h]; decide)

theorem Chip.joinPop_pops (h : bitsOf v 0 0 = 1) : c.joinPop n v = c.popJoin n := if_pos h

theorem Chip.setJoinLog_segs (l : List JoinEntry) :
    (c.setJoinLog n l).segs = (c.updEng n fun e => { e with joinLog := l }).segs := by
  cases l with
  | nil => rfl
  | cons j l => rfl

theorem Chip.popJoin_eng : (c.popJoin n).eng n =
    { c.eng n with joinLog := (c.eng n).joinLog.drop 1, hostAck := none, ackAttempts := 0, ackDeferred := false } := by
  rw [Chip.popJoin, Chip.eng_updEng_self, Chip.eng_congr (Chip.setJoinLog_segs _), Chip.eng_updEng_self]

theorem Chip.popJoin_eng_ne {m : Nat} (h : m ≠ n) : (c.popJoin n).eng m = c.eng m := by
  rw [Chip.popJoin, Chip.eng_updEng_ne _ h, Chip.eng_congr (Chip.setJoinLog_segs _), Chip.eng_updEng_ne _ h]

theorem Chip.ackCmd_idle (h : bitsOf v 31 31 = 0) : c.ackCmd n p v = c := if_neg (by rw [h]; decide)

theorem Chip.ackCmd_refused (h : bitsOf v 31 31 = 1) (hno : (c.eng n).joinLog = [] ∨ c.on SEGMENT.CFG_JOIN_HOST n = false) :
    c.ackCmd n p v = c.errcnt (PageCls.segment.base + n) 0x0B0 p :=
  (if_pos h).trans (if_pos (hno.imp_right fun h => by rw [h]; decide))

theorem Chip.ackCmd_taken (h : bitsOf v 31 31 = 1) (hlog : (c.eng n).joinLog ≠ []) (hhost : c.on SEGMENT.CFG_JOIN_HOST n = true) :
    c.ackCmd n p v = c.setEng n { c.eng n with hostAck := some (bitsOf v 5 0, bitsOf v 18 16, bitsOf v 14 8) } :=
  (if_pos h).trans (if_neg (not_or.mpr ⟨hlog, not_not.mpr hhost⟩))
end

/-- The word is written to the window. -/
theorem bufWinWrite_puts {s : State} {n : Fin 96} {p : Port} {v : Word} {w : Fin 512} {a word : Nat} (hopen : s.chip.Open p .segment n.val)
    (ha : a = s.chip.bufAddr n.val w.val) (hword : word = v.toNat &&& s.chip.bufMask n.val a) (hfree : s.chip.bankHeld n.val (a / 128) = false) :
    Becomes (.bufWinWrite p n w v) s (s.chip.putBuf n.val a (leBytes 4 word)) [] fun d =>
      (∀ j, j < 4 → d.bufByte n.val (a + j) = BitVec.ofNat 8 (word >>> (8 * j))) ∧
      ∀ x, ¬ (32768 * n.val + a ≤ x ∧ x < 32768 * n.val + a + 4) → Tab.get 0 d.segBuf x = Tab.get 0 s.chip.segBuf x := by
  subst ha hword
  refine becomes_of_access (r := SEGMENT.BUF_WIN_SECTION) (n := n.val) (g := fun d => d.bufWrite n.val w.val p v.toNat) rfl hopen ?_ ?_
  · rw [Chip.bufWrite_put hfree]
    exact (Chip.Frame.refl _).withEcc _ (by decide)
  · rw [Chip.bufWrite_put hfree]
    refine ⟨fun j hj => ?_, fun x hx => ?_⟩
    · rw [Chip.bufByte, Chip.ended_segBuf]
      exact Chip.bufByte_putBuf hj
    · rw [Chip.ended_segBuf]
      exact Chip.putBuf_out hx

/-- Settles O28: each command by the branch that its bits and the turn table choose. -/
theorem segmentRegistersCommand : Obligations.SegmentRegistersCommand := by
  unfold Obligations.SegmentRegistersCommand
  intro s n p v t w c page e staging a inHeader counted hopen
  have hcounted {i : Instr} {r : FieldRow} {g : Chip → Chip} {off : Nat} (hcls : r.cls = .segment)
      (h : exec i s = run (fun c => c.accessField p r n.val g) s) (hg : g c = c.errcnt page off p) (ho : off < 4096) : counted i off :=
    setsRegs_of_counted h ((c.accessField_open (hcls ▸ hopen) g).trans hg) ho
  have hturn : 0x200 + 4 * t.val < 4096 := by omega
  refine ⟨fun h => ?_, fun h hno => ?_, fun h ht hkind hlen => ?_, fun hdev => ⟨fun hbit hlen => ?_, fun hbit => ?_⟩, fun hdev => ?_, fun hheld => ?_,
    fun word hin hout hfree => ?_, fun h => ?_, fun h => ?_, fun h hno => ?_, fun h hlog hhost => ?_, fun h => ?_⟩
  · exact idles_of_access (r := SEGMENT.PUB_CMD_TURN) (g := fun d => d.pubCmd n.val p v.toNat) rfl hopen (Chip.pubCmd_idle h)
  · exact hcounted (r := SEGMENT.PUB_CMD_TURN) (g := fun d => d.pubCmd n.val p v.toNat) rfl rfl (Chip.pubCmd_refused h hno) (by decide)
  · refine ends_of_access (r := SEGMENT.PUB_CMD_TURN) (g := fun d => d.pubCmd n.val p v.toNat) rfl hopen ?_
    rw [Chip.pubCmd_publishes h ht hkind hlen]
    have hframe : c.Frame [.segs] (· ∈ publishKeys n.val (bitsOf v.toNat 6 0)) (c.publish n.val (bitsOf v.toNat 6 0) macBroadcast false) :=
      Chip.publish_frame _ _
    refine ⟨?_, ?_, fun hpend => ?_, hframe.keepsCells⟩
    · exact (Chip.ended_inst (by decide) n.isLt (by omega)).trans (Chip.publish_pending _ _)
    · rw [Chip.ended_segBuf]
      exact hframe.segBuf (by decide)
    · exact (Chip.publish_counts _ _ n.isLt ht hpend).inst (by decide) n.isLt
  · exact hcounted (r := SEGMENT.TURN_STAT_SAFE_VALID) (g := fun d => d.turnStatWrite n.val t.val p v.toNat) rfl rfl
      (Chip.turnStatWrite_refused t.isLt hdev hbit hlen) hturn
  · have hwrite : c.accessField p SEGMENT.TURN_STAT_SAFE_VALID n.val (fun d => d.turnStatWrite n.val t.val p v.toNat) =
        c.setFld SEGMENT.TURN_STAT_SAFE_VALID (bitsOf v.toNat 0 0) n.val t.val :=
      (c.accessField_open hopen _).trans (Chip.turnStatWrite_sets t.isLt hdev hbit)
    have hset := setsRegs_of_setFld (s := s) (i := .safeValidWrite p n ⟨t.val, by omega⟩ v)
      (f := fun c => c.accessField p SEGMENT.TURN_STAT_SAFE_VALID n.val fun d => d.turnStatWrite n.val t.val p v.toNat) rfl hwrite
      (rowKey_not_level (by decide) n.isLt (by omega))
    have hmod : bitsOf v.toNat 0 0 % 2 ^ SEGMENT.TURN_STAT_SAFE_VALID.width = bitsOf v.toNat 0 0 :=
      Nat.mod_eq_of_lt (bitsOf_lt (w := v.toNat) 0 0)
    rwa [hmod] at hset
  · exact idles_of_access (r := SEGMENT.TURN_STAT_SAFE_VALID) (g := fun d => d.turnStatWrite n.val t.val p v.toNat) rfl hopen
      (Chip.turnStatWrite_idle hdev)
  · exact hcounted (r := SEGMENT.BUF_WIN_SECTION) (g := fun d => d.bufWrite n.val w.val p v.toNat) rfl rfl (Chip.bufWrite_held hheld) (by omega)
  · refine bufWinWrite_puts hopen rfl ?_ hfree
    by_cases hhdr : inHeader
    · rw [hin hhdr, Chip.bufMask_header hhdr]
      rfl
    · rw [hout hhdr, Chip.bufMask_payload hhdr]
      exact (Nat.and_two_pow_sub_one_of_lt_two_pow v.isLt).symm
  · refine ends_of_access (r := SEGMENT.JOIN_POP_GO) (g := fun d => d.joinPop n.val v.toNat) rfl hopen ?_
    rw [Chip.joinPop_pops h]
    have heng (m : Nat) : (c.ended (c.popJoin n.val)).eng m = (c.popJoin n.val).eng m := Chip.eng_congr (Chip.ended_segs _ _)
    refine ⟨?_, ?_, ?_, fun m hm => (heng m).trans (Chip.popJoin_eng_ne hm)⟩ <;> rw [heng, Chip.popJoin_eng]
  · exact idles_of_access (r := SEGMENT.JOIN_POP_GO) (g := fun d => d.joinPop n.val v.toNat) rfl hopen (Chip.joinPop_idle h)
  · exact hcounted (r := SEGMENT.ACK_CMD_GO) (g := fun d => d.ackCmd n.val p v.toNat) rfl rfl (Chip.ackCmd_refused h hno) (by decide)
  · refine becomes_of_access (r := SEGMENT.ACK_CMD_GO) (g := fun d => d.ackCmd n.val p v.toNat) rfl hopen ?_ trivial
    rw [Chip.ackCmd_taken h hlog hhost]
    exact .refl _
  · exact idles_of_access (r := SEGMENT.ACK_CMD_GO) (g := fun d => d.ackCmd n.val p v.toNat) rfl hopen (Chip.ackCmd_idle h)

end Sys2Proof.Machine
end

section
/-!
PROOF. What the states of a Skein engine, its cycles and its beacons leave alone.
-/
namespace Sys2Proof.Machine

section
variable {c : Chip} {S : List Part} {R : List Spot}

theorem Chip.away_whenDue {b : Bool} {f : Chip → Chip} (h : (f c).away S R = c.away S R) : (c.whenDue b f).away S R = c.away S R := by
  unfold Chip.whenDue
  rw [Chip.away_ite, h, ite_self]

/-- The turns of a segment are among 64. -/
theorem Chip.partnerTurns_lt {n t : Nat} (h : t ∈ c.partnerTurns n) : t < 64 :=
  List.mem_range.mp (List.mem_of_mem_drop (List.mem_filter.mp h).1)

theorem Chip.away_updTurn {n : Nat} {t : Nat} {f : TurnRec → TurnRec} (hS : [.segs] ⊆ S) :
    (c.updTurn n t f).away S R = c.away S R := by
  unfold Chip.updTurn
  simp (disch := first
      | (apply mem_of_sub hS; decide) | (refine List.Subset.trans ?_ hS; decide) | decide) only [Chip.away_updEng]

theorem Chip.away_turnStale {n : Nat} {t : Nat} (hS : [.segs] ⊆ S) (hR : [.evt .segment, .upto SEGMENT.TURN_STAT_ABSENT,
    .upto SEGMENT.TURN_STAT_AGE, .upto SEGMENT.TURN_STAT_JOINED, .upto SEGMENT.TURN_STAT_STALE] ⊆ R) (hn : n < 96) (ht : t < 64) :
    (c.turnStale n t).away S R = c.away S R := by
  unfold Chip.turnStale
  simp (disch := first
      | (apply mem_of_sub hS; decide) | (refine List.Subset.trans ?_ hS; decide) | (apply mem_of_sub hR; decide)
      | (refine List.Subset.trans ?_ hR; decide) | with_unfolding_all exact id hn | exact ht | exact Nat.lt_trans ht (by decide)
      | decide) only [Chip.away_ite, ite_self, Chip.away_bump_upto, Chip.away_raise, Chip.away_setFld_upto,
      Chip.away_updTurn]

theorem Chip.away_turnEnd {n : Nat} {t : Nat} (hS : [.segs] ⊆ S) (hR : [.evt .segment, .upto SEGMENT.TURN_STAT_ABSENT,
    .upto SEGMENT.TURN_STAT_AGE, .upto SEGMENT.TURN_STAT_JOINED, .upto SEGMENT.TURN_STAT_STALE] ⊆ R) (hn : n < 96) (ht : t < 64) :
    (c.turnEnd n t).away S R = c.away S R := by
  unfold Chip.turnEnd
  simp (disch := first
      | (apply mem_of_sub hS; decide) | (refine List.Subset.trans ?_ hS; decide) | (apply mem_of_sub hR; decide)
      | (refine List.Subset.trans ?_ hR; decide) | with_unfolding_all exact id hn | exact ht | exact Nat.lt_trans ht (by decide)
      | decide) only [Chip.away_ite, ite_self, Chip.away_updEng, Chip.away_turnStale]

theorem Chip.away_closeTurns {n : Nat} (hS : [.segs] ⊆ S) (hR : [.evt .segment, .upto SEGMENT.TURN_STAT_ABSENT, .upto SEGMENT.TURN_STAT_AGE,
    .upto SEGMENT.TURN_STAT_JOINED, .upto SEGMENT.TURN_STAT_STALE] ⊆ R) (hn : n < 96) :
    (c.closeTurns n).away S R = c.away S R := by
  unfold Chip.closeTurns
  exact Chip.away_foldl fun d t ht => Chip.away_whenDue (Chip.away_turnEnd hS hR hn (Chip.partnerTurns_lt ht))

theorem Chip.away_openCycle {n : Nat} {start : Nat} {len : Nat} {valid : Bool} (hS : [.segs] ⊆ S) (hR : [.evt .segment,
    .one SEGMENT.CYCLES_COUNT, .one SEGMENT.SYNC_STATUS_CYCLE_VALID, .upto SEGMENT.TURN_STAT_ABSENT, .upto SEGMENT.TURN_STAT_AGE,
    .upto SEGMENT.TURN_STAT_JOINED, .upto SEGMENT.TURN_STAT_STALE] ⊆ R) (hn : n < 96) :
    (c.openCycle n start len valid).away S R = c.away S R := by
  unfold Chip.openCycle
  simp (disch := first
      | (apply mem_of_sub hS; decide) | (refine List.Subset.trans ?_ hS; decide) | (apply mem_of_sub hR; decide)
      | (refine List.Subset.trans ?_ hR; decide) | with_unfolding_all exact id hn | decide) only [Chip.away_bumpWrap,
      Chip.away_setBit, Chip.away_closeTurns, Chip.away_updEng]

theorem Chip.away_transmit {n : Nat} {start : Nat} {octets : List Byte} (hS : [.segs] ⊆ S) (hR : [.one SEGMENT.MAC_TX_FRAMES_COUNT] ⊆ R)
    (hn : n < 96) :
    (c.transmit n start octets).away S R = c.away S R := by
  unfold Chip.transmit
  simp (disch := first
      | (apply mem_of_sub hS; decide) | (refine List.Subset.trans ?_ hS; decide) | (apply mem_of_sub hR; decide)
      | (refine List.Subset.trans ?_ hR; decide) | with_unfolding_all exact id hn | decide) only [Chip.away_bump,
      Chip.away_updEng]

theorem Chip.away_emitBeacon {n : Nat} {cycle : Nat} (hS : [.segs] ⊆ S) (hR : [.evt .segment, .one SEGMENT.CYCLES_COUNT,
    .one SEGMENT.MAC_TX_FRAMES_COUNT, .one SEGMENT.SYNC_STATUS_ACTIVE, .one SEGMENT.SYNC_STATUS_CYCLE, .one SEGMENT.SYNC_STATUS_CYCLE_VALID,
    .one SEGMENT.SYNC_STATUS_STATE, .upto SEGMENT.TURN_STAT_ABSENT, .upto SEGMENT.TURN_STAT_AGE, .upto SEGMENT.TURN_STAT_JOINED,
    .upto SEGMENT.TURN_STAT_STALE] ⊆ R) (hn : n < 96) :
    (c.emitBeacon n cycle).away S R = c.away S R := by
  unfold Chip.emitBeacon
  simp (disch := first
      | (apply mem_of_sub hS; decide) | (refine List.Subset.trans ?_ hS; decide) | (apply mem_of_sub hR; decide)
      | (refine List.Subset.trans ?_ hR; decide) | with_unfolding_all exact id hn | decide) only [Chip.away_ite, ite_self, Chip.away_setFld,
      Chip.away_openCycle, Chip.away_transmit, Chip.away_updEng, Chip.away_setSync]

theorem Chip.away_becomeMaster {n : Nat} {active : Bool} (hR : [.evt .segment, .one SEGMENT.MASTER_MAC_HI_ADDR, .one SEGMENT.MASTER_MAC_LO_ADDR,
    .one SEGMENT.SYNC_STATUS_ACTIVE, .one SEGMENT.SYNC_STATUS_MASTER_NODE, .one SEGMENT.SYNC_STATUS_STATE] ⊆ R) (hn : n < 96) :
    (c.becomeMaster n active).away S R = c.away S R := by
  unfold Chip.becomeMaster
  simp (disch := first
      | (apply mem_of_sub hR; decide) | (refine List.Subset.trans ?_ hR; decide) | with_unfolding_all exact id hn
          | decide) only [Chip.away_raise, Chip.away_setFld,
      Chip.away_setFld64, Chip.away_setSync]

theorem Chip.away_startListenTimer {n : Nat} (hS : [.segs] ⊆ S) :
    (c.startListenTimer n).away S R = c.away S R := by
  unfold Chip.startListenTimer
  simp (disch := first
      | (apply mem_of_sub hS; decide) | (refine List.Subset.trans ?_ hS; decide) | decide) only [Chip.away_updEng]

theorem Chip.away_enterListen {n : Nat} (hS : [.segs] ⊆ S) (hR : [.evt .segment, .one SEGMENT.CS_STATUS_TRIAL_LEFT,
    .one SEGMENT.SYNC_STATUS_ACTIVE, .one SEGMENT.SYNC_STATUS_CYCLE_VALID, .one SEGMENT.SYNC_STATUS_STATE] ⊆ R) (hn : n < 96) :
    (c.enterListen n).away S R = c.away S R := by
  unfold Chip.enterListen
  simp (disch := first
      | (apply mem_of_sub hS; decide) | (refine List.Subset.trans ?_ hS; decide) | (apply mem_of_sub hR; decide)
      | (refine List.Subset.trans ?_ hR; decide) | with_unfolding_all exact id hn | decide) only [Chip.away_setFld,
      Chip.away_dropCycle, Chip.away_setSync, Chip.away_startListenTimer]

theorem Chip.away_trialPoint {n : Nat} {carrier : Bool} (hS : [.segs] ⊆ S) (hR : [.evt .segment, .one SEGMENT.CS_STATUS_TRIAL_LEFT,
    .one SEGMENT.CYCLES_COUNT, .one SEGMENT.MAC_TX_FRAMES_COUNT, .one SEGMENT.MASTER_MAC_HI_ADDR, .one SEGMENT.MASTER_MAC_LO_ADDR,
    .one SEGMENT.SYNC_STATUS_ACTIVE, .one SEGMENT.SYNC_STATUS_CYCLE, .one SEGMENT.SYNC_STATUS_CYCLE_VALID, .one SEGMENT.SYNC_STATUS_MASTER_NODE,
    .one SEGMENT.SYNC_STATUS_STATE, .upto SEGMENT.TURN_STAT_ABSENT, .upto SEGMENT.TURN_STAT_AGE, .upto SEGMENT.TURN_STAT_JOINED,
    .upto SEGMENT.TURN_STAT_STALE] ⊆ R) (hn : n < 96) :
    (c.trialPoint n carrier).away S R = c.away S R := by
  unfold Chip.trialPoint
  simp (disch := first
      | (apply mem_of_sub hS; decide) | (refine List.Subset.trans ?_ hS; decide) | (apply mem_of_sub hR; decide)
      | (refine List.Subset.trans ?_ hR; decide) | with_unfolding_all exact id hn | decide) only [Chip.away_ite, ite_self, Chip.away_setFld,
      Chip.away_updEng, Chip.away_becomeMaster, Chip.away_emitBeacon, Chip.away_enterListen, Chip.away_transmit]

theorem Chip.away_dropPayload {n : Nat} {p : CmdPayload} (hS : [.fates] ⊆ S) (hR : [.one SEGMENT.TX_DROP_COUNT] ⊆ R) (hn : n < 96) :
    (c.dropPayload n p).away S R = c.away S R := by
  unfold Chip.dropPayload
  simp (disch := first
      | (apply mem_of_sub hS; decide) | (refine List.Subset.trans ?_ hS; decide) | (apply mem_of_sub hR; decide)
      | (refine List.Subset.trans ?_ hR; decide) | with_unfolding_all exact id hn | decide) only [Chip.away_bump,
      Chip.away_fateLost]

theorem Chip.away_dropUnheld {n : Nat} (hS : [.fates, .segs] ⊆ S) (hR : [.one SEGMENT.CMDQ_STATUS_DEPTH, .one SEGMENT.CMDQ_STATUS_FULL,
    .one SEGMENT.TX_DROP_COUNT] ⊆ R) (hn : n < 96) :
    (c.dropUnheld n).away S R = c.away S R := by
  unfold Chip.dropUnheld
  have hdrop : (((c.eng n).cmdq.filter (c.unholdable n)).foldl (fun d p => d.dropPayload n p) c).away S R = c.away S R :=
    Chip.away_foldl fun d p _ => Chip.away_dropPayload (List.Subset.trans (by decide) hS) (List.Subset.trans (by decide) hR) hn
  rw [Chip.away_ite, Chip.away_setCmdq (List.Subset.trans (by decide) hS) (List.Subset.trans (by decide) hR) hn, hdrop, ite_self]

theorem Chip.away_phyReady {n : Nat} (hS : [.fates, .segs] ⊆ S) (hR : [.evt .segment, .one SEGMENT.CMDQ_STATUS_DEPTH,
    .one SEGMENT.CMDQ_STATUS_FULL, .one SEGMENT.CS_STATUS_TRIAL_LEFT, .one SEGMENT.SYNC_STATUS_ACTIVE, .one SEGMENT.SYNC_STATUS_CYCLE_VALID,
    .one SEGMENT.SYNC_STATUS_STATE, .one SEGMENT.TX_DROP_COUNT] ⊆ R) (hn : n < 96) :
    (c.phyReady n).away S R = c.away S R := by
  unfold Chip.phyReady
  simp (disch := first
      | (apply mem_of_sub hS; decide) | (refine List.Subset.trans ?_ hS; decide) | (apply mem_of_sub hR; decide)
      | (refine List.Subset.trans ?_ hR; decide) | with_unfolding_all exact id hn | decide) only [Chip.away_ite, ite_self, Chip.away_setSync,
      Chip.away_dropUnheld, Chip.away_enterListen]

theorem Chip.away_jam {n : Nat} (hS : [.segs, .flyers] ⊆ S) :
    (c.jam n).away S R = c.away S R := by
  unfold Chip.jam
  simp (disch := first
      | (apply mem_of_sub hS; decide) | (refine List.Subset.trans ?_ hS; decide) | decide) only [Chip.away_updFly,
      Chip.away_updEng]

theorem Chip.away_backOff {n : Nat} {k : Nat} (hS : [.freeCtr, .segs, .flyers] ⊆ S) :
    (c.backOff n k).away S R = c.away S R := by
  unfold Chip.backOff
  simp (disch := first
      | (apply mem_of_sub hS; decide) | (refine List.Subset.trans ?_ hS; decide) | decide) only [Chip.away_drawn,
      Chip.away_jam, Chip.away_updEng]

theorem Chip.away_contendCollision {n : Nat} (hS : [.freeCtr, .segs, .flyers] ⊆ S) (hR : [.evt .segment, .one SEGMENT.CS_FAIL_COUNT,
    .one SEGMENT.CS_STATUS_COLLISIONS, .one SEGMENT.CS_STATUS_TRIAL_LEFT, .one SEGMENT.SYNC_STATUS_ACTIVE, .one SEGMENT.SYNC_STATUS_CYCLE_VALID,
    .one SEGMENT.SYNC_STATUS_STATE] ⊆ R) (hn : n < 96) :
    (c.contendCollision n).away S R = c.away S R := by
  unfold Chip.contendCollision
  simp (disch := first
      | (apply mem_of_sub hS; decide) | (refine List.Subset.trans ?_ hS; decide) | (apply mem_of_sub hR; decide)
      | (refine List.Subset.trans ?_ hR; decide) | with_unfolding_all exact id hn | decide) only [Chip.away_ite, ite_self, Chip.away_bump,
      Chip.away_raise, Chip.away_setFld, Chip.away_jam, Chip.away_enterListen, Chip.away_updEng, Chip.away_setSync, Chip.away_backOff]

theorem Chip.away_countDeferred {n : Nat} {free : Option (BitVec 96)} (hS : [.segs] ⊆ S) (hR : [.one SEGMENT.MAC_DEFERRED_COUNT] ⊆ R) (hn : n < 96) :
    (c.countDeferred n free).away S R = c.away S R := by
  unfold Chip.countDeferred
  simp (disch := first
      | (apply mem_of_sub hS; decide) | (refine List.Subset.trans ?_ hS; decide) | (apply mem_of_sub hR; decide)
      | (refine List.Subset.trans ?_ hR; decide) | with_unfolding_all exact id hn | decide) only [Chip.away_ite, ite_self, Chip.away_bump,
      Chip.away_updEng]

theorem Chip.away_sendColdstart {n : Nat} (hS : [.segs] ⊆ S) (hR : [.one SEGMENT.MAC_TX_FRAMES_COUNT] ⊆ R) (hn : n < 96) :
    (c.sendColdstart n).away S R = c.away S R := by
  unfold Chip.sendColdstart
  simp (disch := first
      | (apply mem_of_sub hS; decide) | (refine List.Subset.trans ?_ hS; decide) | (apply mem_of_sub hR; decide)
      | (refine List.Subset.trans ?_ hR; decide) | with_unfolding_all exact id hn | decide) only [Chip.away_updEng,
      Chip.away_transmit]

theorem Chip.away_tryColdstart {n : Nat} {free : Option (BitVec 96)} (hS : [.segs] ⊆ S) (hR : [.one SEGMENT.MAC_DEFERRED_COUNT,
    .one SEGMENT.MAC_TX_FRAMES_COUNT] ⊆ R) (hn : n < 96) :
    (c.tryColdstart n free).away S R = c.away S R := by
  unfold Chip.tryColdstart
  simp (disch := first
      | (apply mem_of_sub hS; decide) | (refine List.Subset.trans ?_ hS; decide) | (apply mem_of_sub hR; decide)
      | (refine List.Subset.trans ?_ hR; decide) | with_unfolding_all exact id hn | decide) only [Chip.away_ite, ite_self,
      Chip.away_countDeferred, Chip.away_updEng, Chip.away_sendColdstart]

theorem Chip.away_listenTimeout {n : Nat} {free : Option (BitVec 96)} (hS : [.segs] ⊆ S) (hR : [.evt .segment, .one SEGMENT.CS_STATUS_COLLISIONS,
    .one SEGMENT.CS_STATUS_TRIAL_LEFT, .one SEGMENT.MAC_DEFERRED_COUNT, .one SEGMENT.MAC_TX_FRAMES_COUNT, .one SEGMENT.SYNC_STATUS_ACTIVE,
    .one SEGMENT.SYNC_STATUS_CYCLE_VALID, .one SEGMENT.SYNC_STATUS_STATE] ⊆ R) (hn : n < 96) :
    (c.listenTimeout n free).away S R = c.away S R := by
  unfold Chip.listenTimeout
  simp (disch := first
      | (apply mem_of_sub hS; decide) | (refine List.Subset.trans ?_ hS; decide) | (apply mem_of_sub hR; decide)
      | (refine List.Subset.trans ?_ hR; decide) | with_unfolding_all exact id hn | decide) only [Chip.away_ite, ite_self, Chip.away_setFld,
      Chip.away_updEng, Chip.away_setSync, Chip.away_tryColdstart, Chip.away_enterListen]

theorem Chip.away_backoffExpiry {n : Nat} {free : Option (BitVec 96)} (hS : [.segs] ⊆ S) (hR : [.one SEGMENT.MAC_DEFERRED_COUNT,
    .one SEGMENT.MAC_TX_FRAMES_COUNT] ⊆ R) (hn : n < 96) :
    (c.backoffExpiry n free).away S R = c.away S R := by
  unfold Chip.backoffExpiry
  simp (disch := first
      | (apply mem_of_sub hS; decide) | (refine List.Subset.trans ?_ hS; decide) | (apply mem_of_sub hR; decide)
      | (refine List.Subset.trans ?_ hR; decide) | with_unfolding_all exact id hn | decide) only [Chip.away_ite, ite_self,
      Chip.away_tryColdstart, Chip.away_updEng]

end

end Sys2Proof.Machine
end

section
/-!
PROOF. Events stay raised through what follows them in a step, and the frames that an engine sends.
-/
namespace Sys2Proof.Machine

/-- Every event that is raised in `c` is raised in `d`. -/
def Chip.KeepsEvents (c d : Chip) : Prop := ∀ (e : Evt) (n : Nat), e.bit < 32 → c.raised e n = true → d.raised e n = true

section
variable {a c d e : Chip} {r : FieldRow} {n m i v : Nat}

theorem Chip.KeepsEvents.refl (c : Chip) : c.KeepsEvents c := fun _ _ _ h => h

theorem Chip.KeepsEvents.trans (h : c.KeepsEvents d) (h' : d.KeepsEvents e) : c.KeepsEvents e := fun v n hb hv => h' v n hb (h v n hb hv)

theorem Chip.keepsEvents_of_regs (h : d.regs = c.regs) : c.KeepsEvents d := fun v n _ hv => by
  rw [Chip.raised, Chip.hdr, h]
  exact hv

/-- A field that is no event word. -/
def FieldRow.eventless (r : FieldRow) : Bool := r.placed && r.off != 0x010

theorem Chip.KeepsEvents.setFld (h : c.KeepsEvents d) (hr : r.eventless = true) (hi : i < 65536) (v n : Nat) : c.KeepsEvents (d.setFld r v n i) := by
  intro x m hb hx
  simp only [FieldRow.eventless, FieldRow.placed, Bool.and_eq_true, decide_eq_true_eq, bne_iff_ne] at hr
  have hne : HDR.EVT.key (x.cls.base + m) ≠ r.key n i := by
    simp only [HdrRow.key, FieldRow.key, cellKey, HDR.EVT]
    omega
  rw [Chip.raised, Chip.hdr_setFld_ne _ _ _ _ _ _ _ hne]
  exact h x m hb hx

theorem Chip.KeepsEvents.bump (h : c.KeepsEvents d) (hr : r.eventless = true) (hi : i < 65536) (n : Nat) : c.KeepsEvents (d.bump r n i) :=
  h.setFld hr hi _ _

theorem Chip.KeepsEvents.raise (h : c.KeepsEvents d) (v : Evt) (n : Nat) : c.KeepsEvents (d.raise v n) :=
  fun x m hb hx => d.raised_raise_of_raised v x n m hb (h x m hb hx)

theorem Chip.KeepsEvents.same (h : c.KeepsEvents d) (hr : e.regs = d.regs) : c.KeepsEvents e := h.trans (Chip.keepsEvents_of_regs hr)

theorem Chip.KeepsEvents.ite {p : Prop} [Decidable p] (h : p → c.KeepsEvents d) (h' : ¬ p → c.KeepsEvents e) :
    c.KeepsEvents (if p then d else e) := by
  split_ifs with hp
  · exact h hp
  · exact h' hp

theorem Chip.KeepsEvents.foldl {α : Type} {f : Chip → α → Chip} (l : List α) (hf : ∀ d, ∀ x ∈ l, Chip.KeepsEvents d (f d x)) (c : Chip) :
    c.KeepsEvents (l.foldl f c) := by
  induction l generalizing c with
  | nil => exact .refl c
  | cons x xs ih => exact (hf c x (.head _)).trans (ih (fun d y hy => hf d y (.tail _ hy)) _)

theorem Chip.Tells.keeps {v : Evt} (h : a.Tells c v n) (hk : c.KeepsEvents d) (hb : v.bit < 32) : a.Tells d v n := fun hu => hk v n hb (h hu)
end

/-! ### Frames of an engine (R131) -/

theorem beBytes_length (k x : Nat) : (beBytes k x).length = k := by rw [beBytes, List.length_map, List.length_range]

/-- Octet 14 of a Skein frame gives its type. -/
theorem Chip.skeinFrame_type (c : Chip) {n dst typ flags cycle turn age : Nat} {body : List Byte} (h : typ < 240) :
    ((c.skeinFrame n dst typ flags cycle turn age body).getD 14 0).toNat = 0x10 + typ := by
  simp only [Chip.skeinFrame, List.append_assoc]
  rw [List.getD_append_right _ _ _ _ (by rw [beBytes_length]; decide), beBytes_length,
    List.getD_append_right _ _ _ _ (by rw [beBytes_length]; decide), beBytes_length,
    List.getD_append_right _ _ _ _ (by rw [beBytes_length]), beBytes_length]
  have hone : beBytes 1 (0x10 + typ) = [BitVec.ofNat 8 (0x10 + typ)] := rfl
  rw [hone, List.singleton_append, List.getD_cons_zero, BitVec.toNat_ofNat]
  omega

section
variable {c d : Chip} {n start typ : Nat} {f : List Byte}

theorem Chip.sends_transmit (h : (f.getD 14 0).toNat = 0x10 + typ) : (c.transmit n start f).Sends n start typ := by
  have heng : (c.transmit n start f).eng n = { c.eng n with lastTx := some { start := start, octets := f },
                                                            txEnd := start + airtime f.length * nsQ } :=
    Chip.eng_updEng_self (c := c) (n := n) fun e => { e with lastTx := some { start := start, octets := f },
                                                             txEnd := start + airtime f.length * nsQ }
  refine ⟨f, ?_, h, ?_⟩ <;> rw [heng]

/-- What an engine sends shows in its record of its last frame. -/
theorem Chip.Sends.of_eng (h : c.Sends n start typ) (hlast : (d.eng n).lastTx = (c.eng n).lastTx) (hend : (d.eng n).txEnd = (c.eng n).txEnd) :
    d.Sends n start typ := by
  obtain ⟨f, hf, htyp, hstop⟩ := h
  exact ⟨f, hlast.trans hf, htyp, hend.trans hstop⟩
end

end Sys2Proof.Machine
end

section
/-!
PROOF. Cycles are kept: the grid points of TRIAL, beacons sent and beacons missed (R117, R153, R156, R158, R160).
-/
namespace Sys2Proof.Machine

/-! ### The state of an engine (R155, R156) -/

section
variable {c d : Chip} {n t : Nat}

/-- The rows of the state of an engine. -/
def syncSpots : List Spot := [.evt .segment, .one SEGMENT.SYNC_STATUS_ACTIVE, .one SEGMENT.SYNC_STATUS_STATE]

theorem Chip.setSync_frame {st : Nat} {active : Bool} (hn : n < 96) : c.Frame [] (Touched syncSpots) (c.setSync n st active) :=
  Chip.away_eq_iff.mp (Chip.away_setSync (by decide) hn)

theorem Chip.setSync_eq (st : Nat) (active : Bool) : c.setSync n st active =
    if c.seg n != st || c.on SEGMENT.SYNC_STATUS_ACTIVE n != active then
      ((c.setFld SEGMENT.SYNC_STATUS_STATE st n).setBit SEGMENT.SYNC_STATUS_ACTIVE active n).raise EV.SEGMENT_SYNC_CHANGE n
    else (c.setFld SEGMENT.SYNC_STATUS_STATE st n).setBit SEGMENT.SYNC_STATUS_ACTIVE active n := rfl

theorem Chip.setSync_segs (st : Nat) (active : Bool) : (c.setSync n st active).segs = c.segs := by
  rw [Chip.setSync_eq]
  split_ifs
  · exact Chip.raise_segs _ _ _
  · rfl

theorem Chip.setSync_says (hn : n < 96) {st : Nat} (hst : st < 8) (active : Bool) :
    (c.setSync n st active).seg n = st ∧ (c.setSync n st active).on SEGMENT.SYNC_STATUS_ACTIVE n = active := by
  have hset : ((c.setFld SEGMENT.SYNC_STATUS_STATE st n).setBit SEGMENT.SYNC_STATUS_ACTIVE active n).seg n = st :=
    (Chip.fld_setFld_apart (by decide) hn (by decide) hn (by decide)).trans ((Chip.fld_setFld_self _ _ _ _ _).trans (Nat.mod_eq_of_lt hst))
  have hact : ((c.setFld SEGMENT.SYNC_STATUS_STATE st n).setBit SEGMENT.SYNC_STATUS_ACTIVE active n).on SEGMENT.SYNC_STATUS_ACTIVE n = active :=
    Chip.on_setBit_self active rfl
  rw [Chip.setSync_eq]
  split_ifs
  · refine ⟨(Chip.fld_raise_apart (by decide) hn hn (by decide)).trans hset, ?_⟩
    rw [Chip.on, Chip.fld_raise_apart (by decide) hn hn (by decide)]
    exact hact
  · exact ⟨hset, hact⟩

theorem Chip.keepsEvents_setSync {st : Nat} {active : Bool} : c.KeepsEvents (c.setSync n st active) :=
  .ite (fun _ => (((Chip.KeepsEvents.refl c).setFld (by decide) (by decide) _ _).setFld (by decide) (by decide) _ _).raise _ _)
    fun _ => ((Chip.KeepsEvents.refl c).setFld (by decide) (by decide) _ _).setFld (by decide) (by decide) _ _

/-! ### Partner turns that end stale (R153) -/

def staleSpots : List Spot := [.evt .segment, .upto SEGMENT.TURN_STAT_ABSENT, .upto SEGMENT.TURN_STAT_AGE, .upto SEGMENT.TURN_STAT_JOINED,
  .upto SEGMENT.TURN_STAT_STALE]

theorem Chip.turnStale_frame (hn : n < 96) (ht : t < 64) : c.Frame [.segs] (Touched staleSpots) (c.turnStale n t) :=
  Chip.away_eq_iff.mp (Chip.away_turnStale (List.Subset.refl _) (List.Subset.refl _) hn ht)

theorem Chip.closeTurns_frame (hn : n < 96) : c.Frame [.segs] (Touched staleSpots) (c.closeTurns n) :=
  Chip.away_eq_iff.mp (Chip.away_closeTurns (List.Subset.refl _) (List.Subset.refl _) hn)

/-- STALE set, and the run of the turn one longer. -/
def Chip.staleMarked (c : Chip) (n t : Nat) : Chip :=
  (c.updTurn n t fun r => { r with run := (c.turnRec n t).run + 1 }).setFld SEGMENT.TURN_STAT_STALE 1 n t

/-- What follows: the age, and what is told where the run reaches a limit. -/
def Chip.staleTold (c : Chip) (n t run : Nat) : Chip :=
  let c := c.bump SEGMENT.TURN_STAT_AGE n t
  let c := if run = max 1 (c.fld SEGMENT.SYNC_CFG_STALE_LIMIT n) then c.raise EV.SEGMENT_PARTNER_CHANGE n else c
  if run = c.fld SEGMENT.SYNC_CFG_ABSENT_LIMIT n then
    ((c.setFld SEGMENT.TURN_STAT_ABSENT 1 n t).setFld SEGMENT.TURN_STAT_JOINED 0 n t).raise EV.SEGMENT_PARTNER_CHANGE n
  else c

theorem Chip.turnStale_eq : c.turnStale n t = (c.staleMarked n t).staleTold n t ((c.turnRec n t).run + 1) := rfl

theorem Chip.staleTold_frame {run : Nat} (hn : n < 96) (ht : t < 64) : c.Frame [] (Touched [.evt .segment, .upto SEGMENT.TURN_STAT_ABSENT,
    .upto SEGMENT.TURN_STAT_AGE, .upto SEGMENT.TURN_STAT_JOINED]) (c.staleTold n t run) := by
  have ht' : t < 65536 := Nat.lt_trans ht (by decide)
  refine Chip.away_eq_iff.mp ?_
  unfold Chip.staleTold
  simp (disch := first
      | with_unfolding_all exact id hn | exact ht' | decide) only [Chip.away_ite, Chip.away_raise, Chip.away_setFld_upto, Chip.away_bump_upto,
      ite_self]

theorem Chip.stale_turnStale (hn : n < 96) (ht : t < 64) {u : Nat} (hu : u < 64) :
    (c.turnStale n t).fld SEGMENT.TURN_STAT_STALE n u = if u = t then 1 else c.fld SEGMENT.TURN_STAT_STALE n u := by
  rw [Chip.turnStale_eq, (Chip.staleTold_frame hn ht).fld_apart SEGMENT.TURN_STAT_STALE n u (by decide) hn (by omega), Chip.staleMarked]
  split_ifs with h
  · rw [h]
    exact Chip.fld_setFld_self _ _ _ _ _
  · rw [Chip.fld_setFld_ne _ _ _ _ _ _ _ _ (by simp only [FieldRow.key, cellKey]; omega)]
    rfl

theorem Chip.keepsEvents_turnStale (ht : t < 64) : c.KeepsEvents (c.turnStale n t) := by
  have ht' : t < 65536 := Nat.lt_trans ht (by decide)
  have hage : c.KeepsEvents ((c.staleMarked n t).bump SEGMENT.TURN_STAT_AGE n t) :=
    (((Chip.KeepsEvents.refl c).same rfl).setFld (by decide) ht' _ _).bump (by decide) ht' _
  rw [Chip.turnStale_eq]
  unfold Chip.staleTold
  exact .ite (fun _ => (((Chip.KeepsEvents.ite (fun _ => hage.raise _ _) fun _ => hage).setFld (by decide) ht' _ _).setFld
    (by decide) ht' _ _).raise _ _) fun _ => .ite (fun _ => hage.raise _ _) fun _ => hage

theorem Chip.turnEnd_eq : c.turnEnd n t = if (c.eng n).accepted.contains t then c.updEng n fun e => { e with ended := t :: e.ended }
    else (c.updEng n fun e => { e with ended := t :: e.ended }).turnStale n t := rfl

theorem Chip.keepsEvents_turnEnd (ht : t < 64) : c.KeepsEvents (c.turnEnd n t) := by
  have hended : c.KeepsEvents (c.updEng n fun e => { e with ended := t :: e.ended }) := Chip.keepsEvents_of_regs rfl
  rw [Chip.turnEnd_eq]
  exact .ite (fun _ => hended) fun _ => hended.trans (Chip.keepsEvents_turnStale ht)

theorem Chip.keepsEvents_closeTurns : c.KeepsEvents (c.closeTurns n) :=
  .foldl _ (fun d _ ht => .ite (fun _ => Chip.keepsEvents_turnEnd (c.partnerTurns_lt ht)) fun _ => .refl d) c

/-- The engine of `d` is that of `c` but for the records of its turns and the turns that have ended. -/
def Chip.SameCycle (c d : Chip) (n : Nat) : Prop := ∃ ts en, d.eng n = { c.eng n with turns := ts, ended := en }

theorem Chip.SameCycle.refl (c : Chip) (n : Nat) : c.SameCycle c n := ⟨_, _, rfl⟩

theorem Chip.SameCycle.trans {e : Chip} (h : c.SameCycle d n) (h' : d.SameCycle e n) : c.SameCycle e n := by
  obtain ⟨ts, en, h⟩ := h
  obtain ⟨ts', en', h'⟩ := h'
  exact ⟨ts', en', by rw [h', h]⟩

theorem Chip.staleTold_segs {run : Nat} (hn : n < 96) (ht : t < 64) : (c.staleTold n t run).segs = c.segs :=
  (Chip.staleTold_frame hn ht).segs (by decide)

theorem Chip.SameCycle.same {e : Chip} (h : c.SameCycle d n) (hs : e.segs = d.segs) : c.SameCycle e n := by
  obtain ⟨ts, en, h⟩ := h
  exact ⟨ts, en, (Chip.eng_congr hs).trans h⟩

theorem Chip.sameCycle_updTurn (f : TurnRec → TurnRec) : c.SameCycle (c.updTurn n t f) n := ⟨_, _, Chip.eng_updEng_self _⟩

theorem Chip.sameCycle_turnStale (hn : n < 96) (ht : t < 64) : c.SameCycle (c.turnStale n t) n := by
  rw [Chip.turnStale_eq]
  exact (Chip.sameCycle_updTurn _).same (Chip.staleTold_segs hn ht)

theorem Chip.sameCycle_updEnded (f : SegEng → List Nat) : c.SameCycle (c.updEng n fun e => { e with ended := f e }) n :=
  ⟨_, _, Chip.eng_updEng_self _⟩

theorem Chip.sameCycle_turnEnd (hn : n < 96) (ht : t < 64) : c.SameCycle (c.turnEnd n t) n := by
  have hended : c.SameCycle (c.updEng n fun e => { e with ended := t :: e.ended }) n := Chip.sameCycle_updEnded _
  rw [Chip.turnEnd_eq]
  split_ifs
  · exact hended
  · exact hended.trans (Chip.sameCycle_turnStale hn ht)

theorem Chip.SameCycle.foldl {f : Chip → Nat → Chip} {l : List Nat} (hl : ∀ t ∈ l, t < 64) (hf : ∀ d t, t < 64 → Chip.SameCycle d (f d t) n)
    (c : Chip) : c.SameCycle (l.foldl f c) n := by
  induction l generalizing c with
  | nil => exact .refl c n
  | cons x xs ih => exact (hf c x (hl x (.head _))).trans (ih (fun t ht => hl t (.tail _ ht)) _)

theorem Chip.sameCycle_closeTurns (hn : n < 96) : c.SameCycle (c.closeTurns n) n := by
  refine .foldl (fun t => c.partnerTurns_lt) (fun d t ht => ?_) c
  unfold Chip.whenDue
  split_ifs
  · exact Chip.sameCycle_turnEnd hn ht
  · exact .refl d n

/-! ### A cycle opens (R117, R121) -/

def cycleSpots : List Spot := .one SEGMENT.CYCLES_COUNT :: .one SEGMENT.SYNC_STATUS_CYCLE_VALID :: staleSpots

theorem Chip.openCycle_frame {start len : Nat} {valid : Bool} (hn : n < 96) :
    c.Frame [.segs] (Touched cycleSpots) (c.openCycle n start len valid) :=
  Chip.away_eq_iff.mp (Chip.away_openCycle (List.Subset.refl _) (by decide) hn)

/-- The engine as a cycle opens. -/
def Chip.cycleOpened (c : Chip) (n start len : Nat) (valid : Bool) : SegEng :=
  let known := c.wasPredicted n start
  let since := if c.on SEGMENT.SYNC_STATUS_CYCLE_VALID n then (c.eng n).validFrom else c.now
  { c.eng n with starts := (if known && valid then [(start, (c.eng n).cycleStart)] else []) ++
                   (c.eng n).starts.filter (fun x => decide (c.now ≤ x.1 + segOffsetReach)),
                 validFrom := since, prevStart := (c.eng n).cycleStart, cycleStart := start, cycleLen := len, predicted := start + len * nsQ,
                 turnsOpen := valid, seen := [], accepted := [], ended := [], latched := [], ackDone := false,
                 contSkip := false, ext := false, extFrom := none, anchored := true }

theorem Chip.openCycle_eq (start len : Nat) (valid : Bool) : c.openCycle n start len valid =
    (((c.closeTurns n).setEng n ((c.closeTurns n).cycleOpened n start len valid)).setBit SEGMENT.SYNC_STATUS_CYCLE_VALID valid n).bumpWrap
      SEGMENT.CYCLES_COUNT n := rfl

theorem Chip.openCycle_eng (start len : Nat) (valid : Bool) :
    (c.openCycle n start len valid).eng n = (c.closeTurns n).cycleOpened n start len valid := Chip.eng_setEng_self _

theorem Chip.openCycle_valid (hn : n < 96) (start len : Nat) (valid : Bool) :
    (c.openCycle n start len valid).fld SEGMENT.SYNC_STATUS_CYCLE_VALID n = if valid then 1 else 0 := by
  rw [Chip.openCycle_eq, Chip.bumpWrap, Chip.fld_setFld_apart (by decide) hn (by decide) hn (by decide), Chip.fld_setBit_self _ rfl]

theorem Chip.keepsEvents_openCycle {start len : Nat} {valid : Bool} : c.KeepsEvents (c.openCycle n start len valid) := by
  rw [Chip.openCycle_eq]
  exact (((Chip.keepsEvents_closeTurns.same rfl).setFld (by decide) (by decide) _ _).setFld (by decide) (by decide) _ _)

/-! ### LISTEN (R156, R157) -/

def listenSpots : List Spot := [.evt .segment, .one SEGMENT.CS_STATUS_TRIAL_LEFT, .one SEGMENT.SYNC_STATUS_ACTIVE,
  .one SEGMENT.SYNC_STATUS_CYCLE_VALID, .one SEGMENT.SYNC_STATUS_STATE]

theorem Chip.enterListen_frame (hn : n < 96) : c.Frame [.segs] (Touched listenSpots) (c.enterListen n) :=
  Chip.away_eq_iff.mp (Chip.away_enterListen (List.Subset.refl _) (List.Subset.refl _) hn)

/-- What a listener's timer is set by. -/
def listenRows : List FieldRow := [SEGMENT.CS_CFG_MAX_CYCLE_US, SEGMENT.OPER_CYCLE_LEN_NS, SEGMENT.NODE_CFG_NODE_ID]

theorem Chip.listenSpan_congr (h : ∀ r ∈ listenRows, d.fld r n = c.fld r n) : d.listenSpan n = c.listenSpan n := by
  rw [Chip.listenSpan, h _ (.head _), h _ (.tail _ (.head _)), h _ (.tail _ (.tail _ (.head _))), Chip.listenSpan]

theorem listenRows_apart : ∀ r ∈ listenRows, (r.placed && (listenSpots ++ cycleSpots).all r.apart) = true ∧ r.cls = .segment := by decide

theorem Chip.Frame.listenSpan {S : List Part} {R : List Spot} (h : c.Frame S (Touched R) d) (hn : n < 96) (hR : R ⊆ listenSpots ++ cycleSpots) :
    d.listenSpan n = c.listenSpan n := by
  refine Chip.listenSpan_congr fun r hr => ?_
  obtain ⟨happart, hcls⟩ := listenRows_apart r hr
  simp only [Bool.and_eq_true, List.all_eq_true] at happart
  refine h.fld_apart r n 0 ?_ (by rw [hcls]; exact hn) (by decide)
  simp only [Bool.and_eq_true, List.all_eq_true]
  exact ⟨happart.1, fun x hx => happart.2 x (hR hx)⟩

theorem Chip.dropCycle_eng : (c.dropCycle n).eng n =
    { c.eng n with anchored := false, opened := false, turnsOpen := false, missRun := 0, lastMiss := none, starts := [], ext := false,
                   extFrom := none, takeover := false, listenEnd := none, backoffEnd := none } :=
  Chip.eng_setEng_self _

/-- The engine listens, for the span that its registers give, from now. -/
theorem Chip.enterListen_listens (hn : n < 96) : c.Listens (c.enterListen n) n := by
  have hsync := (((c.dropCycle n).setFld SEGMENT.CS_STATUS_TRIAL_LEFT 0 n).setSync_says hn (st := sgLISTEN) (by decide) false)
  have hdrop : c.Frame [.segs] (Touched listenSpots) (c.dropCycle n) :=
    Chip.away_eq_iff.mp (Chip.away_dropCycle (List.Subset.refl _) (by decide) hn)
  have hleft : c.Frame [.segs] (Touched listenSpots) ((c.dropCycle n).setFld SEGMENT.CS_STATUS_TRIAL_LEFT 0 n) :=
    hdrop.setFld _ _ _ _ (cells_one (by decide) hn)
  have hall : c.Frame [.segs] (Touched listenSpots) (((c.dropCycle n).setFld SEGMENT.CS_STATUS_TRIAL_LEFT 0 n).setSync n sgLISTEN false) :=
    Chip.away_eq_iff.mp ((Chip.away_setSync (by decide) hn).trans hleft.away)
  have htrial : (((c.dropCycle n).setFld SEGMENT.CS_STATUS_TRIAL_LEFT 0 n).setSync n sgLISTEN false).fld SEGMENT.CS_STATUS_TRIAL_LEFT n = 0 :=
    ((Chip.setSync_frame hn).fld_apart SEGMENT.CS_STATUS_TRIAL_LEFT n 0 (by decide) hn (by decide)).trans (Chip.fld_setFld_self _ _ _ _ _)
  have hanch : ((((c.dropCycle n).setFld SEGMENT.CS_STATUS_TRIAL_LEFT 0 n).setSync n sgLISTEN false).eng n).anchored = false := by
    rw [Chip.eng_congr (Chip.setSync_segs _ _), Chip.eng_congr (Chip.setFld_segs _ _ _ _ _), Chip.dropCycle_eng]
  have heq : c.enterListen n = (((c.dropCycle n).setFld SEGMENT.CS_STATUS_TRIAL_LEFT 0 n).setSync n sgLISTEN false).startListenTimer n := rfl
  rw [heq]
  generalize ((c.dropCycle n).setFld SEGMENT.CS_STATUS_TRIAL_LEFT 0 n).setSync n sgLISTEN false = d at hsync hall htrial hanch
  have heng : (d.startListenTimer n).eng n = { d.eng n with listenEnd := some (d.now + d.listenSpan n * nsQ) } := Chip.eng_updEng_self _
  refine ⟨hsync.1, hsync.2, ?_, htrial, ?_⟩
  · rw [heng]
    exact hanch
  · rw [heng, hall.now (by decide), hall.listenSpan hn (by decide)]
    rfl

/-- A listener after changes that leave its timer's registers. -/
theorem Chip.listens_after {S : List Part} {R : List Spot} (h : c.Frame S (Touched R) d) (hw : .whorl ∉ S) (hn : n < 96)
    (hR : R ⊆ listenSpots ++ cycleSpots) : c.Listens (d.enterListen n) n := by
  obtain ⟨hseg, hact, hanch, htrial, hend⟩ := d.enterListen_listens hn
  refine ⟨hseg, hact, hanch, htrial, hend.trans ?_⟩
  rw [h.now hw]
  exact congrArg (fun k => some (c.now + k * nsQ)) (h.listenSpan hn hR)

theorem Chip.Listens.ended {b : Chip} (h : c.Listens d n) (hn : n < 96) : c.Listens (b.ended d) n := by
  obtain ⟨hseg, hact, hanch, htrial, hend⟩ := h
  have heng : (b.ended d).eng n = d.eng n := Chip.eng_congr (b.ended_segs d)
  exact ⟨(Chip.ended_inst (by decide) hn (by decide)).trans hseg, (Chip.ended_inst_on (by decide) hn (by decide)).trans hact, by rw [heng, hanch],
    (Chip.ended_inst (by decide) hn (by decide)).trans htrial, by rw [heng, hend]⟩
end

/-! ### Beacons (R135, R160) -/

section
variable {c d : Chip} {n t : Nat}

/-- The beacon of a cycle. -/
def Chip.beaconFrame (c : Chip) (n cycle : Nat) (ext : Bool) (g : Int) : List Byte :=
  c.skeinFrame n macBroadcast ftBEACON (c.beaconFlags n ext true) (cycle % 65536) 0 0 (c.beaconBody n g 0)

/-- The cycle opens at the grid point, and the beacon goes on the line. -/
def Chip.beaconLine (c : Chip) (n cycle len : Nat) : Chip :=
  ((c.setFld SEGMENT.SYNC_STATUS_CYCLE cycle n).openCycle n (c.gridInstant n) len true).transmit n (c.edgeMono (c.gridInstant n))
    ((c.setFld SEGMENT.SYNC_STATUS_CYCLE cycle n).beaconFrame n cycle (c.eng n).ext (c.eng n).nextGrid)

/-- The next grid point, and the beacon counted; `e` is the engine before the beacon. -/
def Chip.beaconPlanned (c : Chip) (n len at_ : Nat) (e : SegEng) : Chip :=
  let after := e.nextGrid + (len * nsQ : Nat)
  let near := c.grid n (e.nextGrid - (c.segGuard n * nsQ : Nat))
  let next := if e.takeover then
      (if near ≤ e.nextGrid + (c.segGuard n * nsQ : Nat) then near + (len * nsQ : Nat) else c.grid n after)
    else after
  let late := e.takeover && decide (after + (c.segGuard n * nsQ : Nat) < next)
  c.updEng n fun e => { e with nextGrid := next, beacons := e.beacons + 1, takeover := false,
                               opened := true, ext := late, extFrom := (if late then some (at_ + len * nsQ) else none) }

/-- The beacon sent, before the second one makes the engine active. -/
def Chip.beaconOut (c : Chip) (n cycle : Nat) : Chip :=
  (c.beaconLine n cycle (c.fld SEGMENT.OPER_CYCLE_LEN_NS n)).beaconPlanned n (c.fld SEGMENT.OPER_CYCLE_LEN_NS n) (c.gridInstant n) (c.eng n)

theorem Chip.emitBeacon_eq (cycle : Nat) : c.emitBeacon n cycle =
    if 2 ≤ ((c.beaconOut n cycle).eng n).beacons then (c.beaconOut n cycle).setSync n sgMASTER true else c.beaconOut n cycle := rfl

def beaconSpots : List Spot := .one SEGMENT.MAC_TX_FRAMES_COUNT :: .one SEGMENT.SYNC_STATUS_CYCLE :: cycleSpots

theorem Chip.transmit_frame {start : Nat} {f : List Byte} (hn : n < 96) :
    c.Frame [.segs] (Touched [.one SEGMENT.MAC_TX_FRAMES_COUNT]) (c.transmit n start f) :=
  Chip.away_eq_iff.mp (Chip.away_transmit (List.Subset.refl _) (List.Subset.refl _) hn)

theorem Chip.beaconOut_frame {cycle : Nat} (hn : n < 96) : c.Frame [.segs] (Touched beaconSpots) (c.beaconOut n cycle) := by
  refine Chip.away_eq_iff.mp ?_
  unfold Chip.beaconOut Chip.beaconPlanned Chip.beaconLine
  rw [Chip.away_updEng (by decide), Chip.away_transmit (by decide) (by decide) hn, Chip.away_openCycle (by decide) (by decide) hn,
    Chip.away_setFld (by decide) hn]

theorem Chip.transmit_eng {start : Nat} {f : List Byte} : (c.transmit n start f).eng n =
    { c.eng n with lastTx := some { start := start, octets := f }, txEnd := start + airtime f.length * nsQ } := Chip.eng_setEng_self _

theorem Chip.keepsEvents_transmit {start : Nat} {f : List Byte} : c.KeepsEvents (c.transmit n start f) :=
  ((Chip.KeepsEvents.refl c).same rfl).bump (by decide) (by decide) _

/-- The engine as the beacon goes on the line. -/
theorem Chip.beaconLine_eng (cycle len : Nat) : ∃ last stop, (c.beaconLine n cycle len).eng n =
    { ((c.setFld SEGMENT.SYNC_STATUS_CYCLE cycle n).closeTurns n).cycleOpened n (c.gridInstant n) len true with lastTx := last, txEnd := stop } := by
  have h : (c.beaconLine n cycle len).eng n = _ := Chip.transmit_eng
  rw [Chip.openCycle_eng] at h
  exact ⟨_, _, h⟩

/-- What a beacon leaves of the engine and of its registers. -/
theorem Chip.beaconOut_says (hn : n < 96) (cycle : Nat) :
    (c.beaconOut n cycle).Sends n (c.edgeMono (c.gridInstant n)) ftBEACON ∧
    (c.beaconOut n cycle).fld SEGMENT.SYNC_STATUS_CYCLE n = cycle % 65536 ∧
    (c.beaconOut n cycle).fld SEGMENT.SYNC_STATUS_CYCLE_VALID n = 1 ∧
    ((c.beaconOut n cycle).eng n).cycleStart = c.gridInstant n ∧
    ((c.eng n).takeover = false →
      ((c.beaconOut n cycle).eng n).nextGrid = (c.eng n).nextGrid + (c.fld SEGMENT.OPER_CYCLE_LEN_NS n * nsQ : Nat)) ∧
    ((c.beaconOut n cycle).eng n).beacons = (c.eng n).beacons + 1 := by
  have hregs : (c.beaconOut n cycle).regs = (c.beaconLine n cycle (c.fld SEGMENT.OPER_CYCLE_LEN_NS n)).regs := rfl
  have hfld (r : FieldRow) : (c.beaconOut n cycle).fld r n = (c.beaconLine n cycle (c.fld SEGMENT.OPER_CYCLE_LEN_NS n)).fld r n :=
    congrArg (fun t => Tab.get (r.reset n 0) t (r.key n 0)) hregs
  have hsends : (c.beaconLine n cycle (c.fld SEGMENT.OPER_CYCLE_LEN_NS n)).Sends n (c.edgeMono (c.gridInstant n)) ftBEACON :=
    Chip.sends_transmit (Chip.skeinFrame_type _ (by decide))
  have hline : ((c.setFld SEGMENT.SYNC_STATUS_CYCLE cycle n).openCycle n (c.gridInstant n) (c.fld SEGMENT.OPER_CYCLE_LEN_NS n) true).Frame [.segs]
    (Touched [.one SEGMENT.MAC_TX_FRAMES_COUNT]) (c.beaconLine n cycle (c.fld SEGMENT.OPER_CYCLE_LEN_NS n)) := Chip.transmit_frame hn
  obtain ⟨last, stop, heng⟩ := c.beaconLine_eng (n := n) cycle (c.fld SEGMENT.OPER_CYCLE_LEN_NS n)
  obtain ⟨ts', en', hclose⟩ := (c.setFld SEGMENT.SYNC_STATUS_CYCLE cycle n).sameCycle_closeTurns hn
  rw [Chip.eng_congr (Chip.setFld_segs _ _ _ _ _)] at hclose
  have hplan (f : SegEng → SegEng) : ((c.beaconLine n cycle (c.fld SEGMENT.OPER_CYCLE_LEN_NS n)).updEng n f).eng n =
    f ((c.beaconLine n cycle (c.fld SEGMENT.OPER_CYCLE_LEN_NS n)).eng n) := Chip.eng_updEng_self f
  refine ⟨hsends.of_eng ?_ ?_, ?_, ?_, ?_, fun htake => ?_, ?_⟩
  · rw [Chip.beaconOut, Chip.beaconPlanned, hplan]
  · rw [Chip.beaconOut, Chip.beaconPlanned, hplan]
  · rw [hfld, hline.fld_apart SEGMENT.SYNC_STATUS_CYCLE n 0 (by decide) hn (by decide),
      (Chip.openCycle_frame hn).fld_apart SEGMENT.SYNC_STATUS_CYCLE n 0 (by decide) hn (by decide)]
    exact Chip.fld_setFld_self _ _ _ _ _
  · rw [hfld, hline.fld_apart SEGMENT.SYNC_STATUS_CYCLE_VALID n 0 (by decide) hn (by decide), Chip.openCycle_valid hn]
    rfl
  · rw [Chip.beaconOut, Chip.beaconPlanned, hplan, heng]
    rfl
  · rw [Chip.beaconOut, Chip.beaconPlanned, hplan, htake]
    rfl
  · rw [Chip.beaconOut, Chip.beaconPlanned, hplan, heng]
    change (((c.setFld SEGMENT.SYNC_STATUS_CYCLE cycle n).closeTurns n).eng n).beacons + 1 = _
    rw [hclose]

theorem Chip.keepsEvents_emitBeacon (cycle : Nat) : c.KeepsEvents (c.emitBeacon n cycle) := by
  have hout : c.KeepsEvents (c.beaconOut n cycle) :=
    ((((Chip.KeepsEvents.refl c).setFld (by decide) (by decide) _ _).trans Chip.keepsEvents_openCycle).trans Chip.keepsEvents_transmit).same rfl
  rw [Chip.emitBeacon_eq]
  exact .ite (fun _ => hout.trans Chip.keepsEvents_setSync) fun _ => hout

/-- The engine may become active with its second beacon. -/
def Chip.activated (c : Chip) (n beacons : Nat) : Chip := if 2 ≤ beacons then c.setSync n sgMASTER true else c

theorem Chip.activated_segs (b : Nat) : (c.activated n b).segs = c.segs := by
  unfold Chip.activated
  split_ifs
  · exact Chip.setSync_segs _ _
  · rfl

theorem Chip.activated_frame {b : Nat} (hn : n < 96) : c.Frame [] (Touched syncSpots) (c.activated n b) := by
  unfold Chip.activated
  split_ifs
  · exact Chip.setSync_frame hn
  · exact .refl c

theorem Chip.activated_seg {b : Nat} (hn : n < 96) (h : c.seg n = sgMASTER) : (c.activated n b).seg n = sgMASTER := by
  unfold Chip.activated
  split_ifs
  · exact (Chip.setSync_says hn (by decide) true).1
  · exact h

theorem Chip.emitBeacon_activates (hn : n < 96) (cycle : Nat) : c.emitBeacon n cycle = (c.beaconOut n cycle).activated n ((c.eng n).beacons + 1) := by
  obtain ⟨-, -, -, -, -, hcount⟩ := c.beaconOut_says hn cycle
  rw [Chip.emitBeacon_eq, hcount, Chip.activated]

/-- What a beacon leaves, with the state. -/
theorem Chip.emitBeacon_says (hn : n < 96) (cycle : Nat) : (c.emitBeacon n cycle).Sends n (c.edgeMono (c.gridInstant n)) ftBEACON ∧
    (c.emitBeacon n cycle).fld SEGMENT.SYNC_STATUS_CYCLE n = cycle % 65536 ∧
    (c.emitBeacon n cycle).fld SEGMENT.SYNC_STATUS_CYCLE_VALID n = 1 ∧
    ((c.emitBeacon n cycle).eng n).cycleStart = c.gridInstant n ∧
    ((c.eng n).takeover = false →
      ((c.emitBeacon n cycle).eng n).nextGrid = (c.eng n).nextGrid + (c.fld SEGMENT.OPER_CYCLE_LEN_NS n * nsQ : Nat)) := by
  obtain ⟨hsends, hcycle, hvalid, hstart, hnext, -⟩ := c.beaconOut_says hn cycle
  rw [Chip.emitBeacon_activates hn]
  have heng : ((c.beaconOut n cycle).activated n ((c.eng n).beacons + 1)).eng n = (c.beaconOut n cycle).eng n :=
    Chip.eng_congr (Chip.activated_segs _)
  refine ⟨hsends.of_eng (by rw [heng]) (by rw [heng]), ?_, ?_, by rw [heng, hstart], fun htake => by rw [heng, hnext htake]⟩
  · rw [(Chip.activated_frame hn).fld_apart SEGMENT.SYNC_STATUS_CYCLE n 0 (by decide) hn (by decide), hcycle]
  · rw [(Chip.activated_frame hn).fld_apart SEGMENT.SYNC_STATUS_CYCLE_VALID n 0 (by decide) hn (by decide), hvalid]

theorem Chip.emitBeacon_active (hn : n < 96) (cycle : Nat) (h : 1 ≤ (c.eng n).beacons) :
    (c.emitBeacon n cycle).on SEGMENT.SYNC_STATUS_ACTIVE n = true := by
  rw [Chip.emitBeacon_activates hn, Chip.activated, if_pos (by omega)]
  exact (Chip.setSync_says hn (by decide) true).2

theorem Chip.emitBeacon_first (hn : n < 96) (cycle : Nat) (h : (c.eng n).beacons = 0) : c.emitBeacon n cycle = c.beaconOut n cycle := by
  rw [Chip.emitBeacon_activates hn, Chip.activated, h]
  exact if_neg (by decide)

/-! ### A master (R156, R158) -/

def masterSpots : List Spot := [.evt .segment, .one SEGMENT.MASTER_MAC_HI_ADDR, .one SEGMENT.MASTER_MAC_LO_ADDR,
  .one SEGMENT.SYNC_STATUS_ACTIVE, .one SEGMENT.SYNC_STATUS_MASTER_NODE, .one SEGMENT.SYNC_STATUS_STATE]

theorem Chip.becomeMaster_frame {active : Bool} (hn : n < 96) : c.Frame [] (Touched masterSpots) (c.becomeMaster n active) :=
  Chip.away_eq_iff.mp (Chip.away_becomeMaster (List.Subset.refl _) hn)

/-- The node and the MAC of the master, as registers. -/
def Chip.masterNamed (c : Chip) (n : Nat) : Chip :=
  let c := c.setFld SEGMENT.SYNC_STATUS_MASTER_NODE (c.fld SEGMENT.NODE_CFG_NODE_ID n) n
  c.setFld64 SEGMENT.MASTER_MAC_LO_ADDR SEGMENT.MASTER_MAC_HI_ADDR (c.segMac n) n

theorem Chip.becomeMaster_eq (active : Bool) : c.becomeMaster n active = ((c.setSync n sgMASTER active).raise EV.SEGMENT_MASTER_CHANGE n).masterNamed n :=
  rfl

theorem Chip.masterNamed_frame (hn : n < 96) : c.Frame [] (Touched [.one SEGMENT.MASTER_MAC_HI_ADDR, .one SEGMENT.MASTER_MAC_LO_ADDR,
    .one SEGMENT.SYNC_STATUS_MASTER_NODE]) (c.masterNamed n) :=
  ((Chip.Frame.refl c).setFld _ _ _ _ (cells_one (by decide) hn)).setFld64 _ _ _ _ _ (cells_one (by decide) hn) (cells_one (by decide) hn)

theorem Chip.becomeMaster_says (hn : n < 96) (active : Bool) : (c.becomeMaster n active).seg n = sgMASTER ∧
    (c.becomeMaster n active).on SEGMENT.SYNC_STATUS_ACTIVE n = active ∧ c.Tells (c.becomeMaster n active) EV.SEGMENT_MASTER_CHANGE n := by
  obtain ⟨hseg, hact⟩ := c.setSync_says hn (st := sgMASTER) (by decide) active
  rw [Chip.becomeMaster_eq]
  have hnamed := (Chip.masterNamed_frame (c := (c.setSync n sgMASTER active).raise EV.SEGMENT_MASTER_CHANGE n) hn)
  refine ⟨?_, ?_, ?_⟩
  · exact (hnamed.fld_apart SEGMENT.SYNC_STATUS_STATE n 0 (by decide) hn (by decide)).trans
      ((Chip.fld_raise_apart (by decide) hn hn (by decide)).trans hseg)
  · rw [Chip.on, hnamed.fld_apart SEGMENT.SYNC_STATUS_ACTIVE n 0 (by decide) hn (by decide), Chip.fld_raise_apart (by decide) hn hn (by decide)]
    exact hact
  · refine Chip.Tells.keeps ((Chip.setSync_frame (st := sgMASTER) (active := active) hn).tells_raise _ _ (by decide) ?_) ?_ (by decide)
    · exact not_touched (by decide) 0 0 (by decide) (by decide)
    · exact (((Chip.KeepsEvents.refl _).setFld (by decide) (by decide) _ _).setFld (by decide) (by decide) _ _).setFld (by decide) (by decide) _ _
end

/-! ### A grid point of TRIAL (R158) -/

section
variable {c d : Chip} {n t : Nat}

theorem Chip.edgeMono_congr (h : d.whorl = c.whorl) (m : Nat) : d.edgeMono m = c.edgeMono m := by
  unfold Chip.edgeMono Chip.tickOf
  rw [h]

theorem Chip.gridInstant_congr (h : d.whorl = c.whorl) (hg : (d.eng n).nextGrid = (c.eng n).nextGrid) : d.gridInstant n = c.gridInstant n := by
  rw [Chip.gridInstant, h, hg, Chip.gridInstant]

/-- The engine as it becomes master at the last grid point of TRIAL. -/
def Chip.trialWon (c : Chip) (n : Nat) : Chip := c.updEng n fun e => { e with beacons := 0, ended := List.range 64 }

/-- The COLDSTART of a grid point of TRIAL. -/
def Chip.trialFrame (c : Chip) (n left : Nat) : List Byte :=
  c.skeinFrame n macBroadcast ftCOLDSTART (c.beaconFlags n false false) (3 - left) 0 0 (c.beaconBody n (c.eng n).nextGrid left)

/-- The cycle of a grid point of TRIAL. -/
def Chip.trialCycle (c : Chip) (n left : Nat) : Chip :=
  ((c.setFld SEGMENT.SYNC_STATUS_CYCLE (3 - left) n).setFld SEGMENT.CS_STATUS_TRIAL_LEFT (left - 1) n).updEng n fun e =>
    { e with cycleStart := c.gridInstant n, cycleLen := c.fld SEGMENT.OPER_CYCLE_LEN_NS n,
             nextGrid := (c.eng n).nextGrid + (c.fld SEGMENT.OPER_CYCLE_LEN_NS n * nsQ : Nat), ext := false, extFrom := none }

theorem Chip.trialPoint_last {carrier : Bool} (h : c.fld SEGMENT.CS_STATUS_TRIAL_LEFT n = 0) :
    c.trialPoint n carrier = ((c.trialWon n).becomeMaster n false).emitBeacon n 3 := if_pos h

theorem Chip.trialPoint_carrier (h : c.fld SEGMENT.CS_STATUS_TRIAL_LEFT n ≠ 0) : c.trialPoint n true = c.enterListen n :=
  (if_neg h).trans (if_pos rfl)

theorem Chip.trialPoint_sends (h : c.fld SEGMENT.CS_STATUS_TRIAL_LEFT n ≠ 0) : c.trialPoint n false =
    (c.trialCycle n (c.fld SEGMENT.CS_STATUS_TRIAL_LEFT n)).transmit n (c.edgeMono (c.gridInstant n))
      (c.trialFrame n (c.fld SEGMENT.CS_STATUS_TRIAL_LEFT n)) := (if_neg h).trans (if_neg (by decide))

/-- After the third COLDSTART the engine is master, and sends its first beacon. -/
theorem Chip.trialLast_says (hn : n < 96) : let d := ((c.trialWon n).becomeMaster n false).emitBeacon n 3
    d.seg n = sgMASTER ∧ d.on SEGMENT.SYNC_STATUS_ACTIVE n = false ∧ d.Sends n (c.edgeMono (c.gridInstant n)) ftBEACON ∧
      d.fld SEGMENT.SYNC_STATUS_CYCLE n = 3 ∧ c.Tells d EV.SEGMENT_MASTER_CHANGE n := by
  intro d
  obtain ⟨hseg, hact, htell⟩ := (c.trialWon n).becomeMaster_says hn false
  have hframe := (c.trialWon n).becomeMaster_frame (active := false) hn
  have hwon : (c.trialWon n).eng n = { c.eng n with beacons := 0, ended := List.range 64 } := Chip.eng_updEng_self _
  have heng : ((c.trialWon n).becomeMaster n false).eng n = { c.eng n with beacons := 0, ended := List.range 64 } :=
    (Chip.eng_congr (hframe.segs (by decide))).trans hwon
  have hwhorl : ((c.trialWon n).becomeMaster n false).whorl = c.whorl := hframe.whorl (by decide)
  have hkeep := ((c.trialWon n).becomeMaster n false).keepsEvents_emitBeacon (n := n) 3
  have hd : d = ((c.trialWon n).becomeMaster n false).emitBeacon n 3 := rfl
  generalize (c.trialWon n).becomeMaster n false = m at hseg hact htell heng hwhorl hkeep hd
  obtain ⟨hsends, hcycle, -⟩ := m.emitBeacon_says hn 3
  have hfirst : m.emitBeacon n 3 = m.beaconOut n 3 := Chip.emitBeacon_first hn 3 (by rw [heng])
  have hout := m.beaconOut_frame (cycle := 3) hn
  rw [Chip.edgeMono_congr hwhorl, Chip.gridInstant_congr hwhorl (by rw [heng])] at hsends
  rw [hd]
  refine ⟨?_, ?_, hsends, hcycle, fun hup => htell.keeps hkeep (by decide) hup⟩
  · rw [hfirst]
    exact (hout.fld_apart SEGMENT.SYNC_STATUS_STATE n 0 (by decide) hn (by decide)).trans hseg
  · rw [hfirst, Chip.on, hout.fld_apart SEGMENT.SYNC_STATUS_ACTIVE n 0 (by decide) hn (by decide)]
    exact hact

/-- A COLDSTART of TRIAL. -/
theorem Chip.trialSends_says (hn : n < 96) {left : Nat} (hleft : left < 4) {d : Chip}
    (hd : d = (c.trialCycle n left).transmit n (c.edgeMono (c.gridInstant n)) (c.trialFrame n left)) :
    d.Sends n (c.edgeMono (c.gridInstant n)) ftCOLDSTART ∧ d.seg n = c.seg n ∧ d.fld SEGMENT.SYNC_STATUS_CYCLE n = 3 - left ∧
      d.fld SEGMENT.CS_STATUS_TRIAL_LEFT n = left - 1 ∧
      (d.eng n).nextGrid = (c.eng n).nextGrid + (c.fld SEGMENT.OPER_CYCLE_LEN_NS n * nsQ : Nat) := by
  have hset : c.Frame [.segs] (Touched [.one SEGMENT.SYNC_STATUS_CYCLE, .one SEGMENT.CS_STATUS_TRIAL_LEFT]) (c.trialCycle n left) :=
    (((Chip.Frame.refl c).setFld _ _ _ _ (cells_one (by decide) hn)).setFld _ _ _ _ (cells_one (by decide) hn)).withSegs _ (by decide)
  have hcycle : (c.trialCycle n left).fld SEGMENT.SYNC_STATUS_CYCLE n = 3 - left :=
    (Chip.fld_setFld_apart (d := c.setFld SEGMENT.SYNC_STATUS_CYCLE (3 - left) n) (r := SEGMENT.CS_STATUS_TRIAL_LEFT) (v := left - 1) (i := 0)
      (by decide) hn (by decide) hn (by decide)).trans ((Chip.fld_setFld_self _ _ _ _ _).trans (Nat.mod_eq_of_lt (by change _ < 65536; omega)))
  have htrial : (c.trialCycle n left).fld SEGMENT.CS_STATUS_TRIAL_LEFT n = left - 1 :=
    (Chip.fld_setFld_self (c.setFld SEGMENT.SYNC_STATUS_CYCLE (3 - left) n) SEGMENT.CS_STATUS_TRIAL_LEFT (left - 1) n 0).trans
      (Nat.mod_eq_of_lt (by change _ < 4; omega))
  have hgrid : ((c.trialCycle n left).eng n).nextGrid = (c.eng n).nextGrid + (c.fld SEGMENT.OPER_CYCLE_LEN_NS n * nsQ : Nat) :=
    congrArg SegEng.nextGrid (Chip.eng_setEng_self _)
  generalize c.trialCycle n left = e at hset hcycle htrial hgrid hd
  have hsent : e.Frame [.segs] (Touched [.one SEGMENT.MAC_TX_FRAMES_COUNT]) d := hd ▸ Chip.transmit_frame hn
  refine ⟨hd ▸ Chip.sends_transmit (Chip.skeinFrame_type _ (by decide)), ?_, ?_, ?_, ?_⟩
  · exact (hsent.fld_apart SEGMENT.SYNC_STATUS_STATE n 0 (by decide) hn (by decide)).trans
      (hset.fld_apart SEGMENT.SYNC_STATUS_STATE n 0 (by decide) hn (by decide))
  · exact (hsent.fld_apart SEGMENT.SYNC_STATUS_CYCLE n 0 (by decide) hn (by decide)).trans hcycle
  · exact (hsent.fld_apart SEGMENT.CS_STATUS_TRIAL_LEFT n 0 (by decide) hn (by decide)).trans htrial
  · rw [hd, Chip.transmit_eng, hgrid]

/-! ### A missed beacon (R153, R156, R160) -/

/-- After the miss the follower takes over. -/
def Chip.missTakes (c : Chip) (n runs : Nat) : Bool :=
  c.seg n == sgFOLLOWER && c.on SEGMENT.CFG_DUAL n && c.mayStart n && decide (c.takeoverMiss n ≤ runs)

/-- The cycle without a beacon opens at its predicted start. -/
def Chip.missOpened (c : Chip) (n p runs : Nat) : Chip :=
  let c := c.openCycle n p (c.eng n).cycleLen false
  let c := c.updEng n fun e => { e with missRun := runs, lastMiss := some p, opened := false }
  c.setFld SEGMENT.SYNC_STATUS_CYCLE (c.fld SEGMENT.SYNC_STATUS_CYCLE n + 1) n

/-- Its partner turns end stale. -/
def Chip.turnsEndStale (c : Chip) (n : Nat) : Chip :=
  (c.partnerTurns n).foldl (fun d t => (d.turnStale n t).updEng n fun e => { e with ended := t :: e.ended }) c

/-- The partner turns of a cycle that is lost are stale. -/
def Chip.turnsStale (c : Chip) (n : Nat) (l : List Nat) : Chip := l.foldl (fun d t => d.turnStale n t) c

/-- The engine takes over. -/
def Chip.missTaken (c : Chip) (n : Nat) : Chip :=
  (c.updEng n fun e => { e with takeover := true, beacons := 1, nextGrid := e.predicted + c.whorl.offset,
                                missRun := 0, lastMiss := none }).becomeMaster n (c.on SEGMENT.SYNC_STATUS_ACTIVE n)

theorem Chip.beaconMiss_eq {b : Chip} {runs : Nat} (hb : b = c.bump SEGMENT.BEACON_MISS_COUNT n) (hr : runs = (b.eng n).missRun + 1) :
    c.beaconMiss n = if !b.missTakes n runs && decide (b.lossCycles n ≤ runs) then ((b.closeTurns n).turnsStale n (b.partnerTurns n)).enterListen n
      else if b.missTakes n runs then ((b.missOpened n (b.eng n).predicted runs).turnsEndStale n).missTaken n
      else (b.missOpened n (b.eng n).predicted runs).turnsEndStale n := by
  subst hr hb
  rfl

theorem Chip.partnerTurns_congr (h : d.segTables = c.segTables) : d.partnerTurns n = c.partnerTurns n := by
  unfold Chip.partnerTurns Chip.oper Chip.turn Chip.turnW
  rw [h]

/-- What a fold over partner turns that marks each stale leaves of STALE. -/
theorem Chip.stale_foldl {f : Chip → Nat → Chip} (hf : ∀ d t u, t < 64 → u < 64 →
      (f d t).fld SEGMENT.TURN_STAT_STALE n u = if u = t then 1 else d.fld SEGMENT.TURN_STAT_STALE n u) {l : List Nat} (hl : ∀ t ∈ l, t < 64)
    (ht : t ∈ l) (c : Chip) : (l.foldl f c).fld SEGMENT.TURN_STAT_STALE n t = 1 := by
  have hstays : ∀ (l : List Nat) (c : Chip), (∀ u ∈ l, u < 64) → c.fld SEGMENT.TURN_STAT_STALE n t = 1 →
      (l.foldl f c).fld SEGMENT.TURN_STAT_STALE n t = 1 := by
    intro l
    induction l with
    | nil => exact fun c _ h => h
    | cons x xs ih =>
      refine fun c hxs h => ih _ (fun u hu => hxs u (.tail _ hu)) ?_
      rw [hf c x t (hxs x (.head _)) (hl t ht), h, ite_self]
  induction l generalizing c with
  | nil => cases ht
  | cons x xs ih =>
    by_cases hx : t = x
    · refine hstays xs _ (fun u hu => hl u (.tail _ hu)) ?_
      rw [hf c x t (hl x (.head _)) (hl t ht), if_pos hx]
    · exact ih (fun u hu => hl u (.tail _ hu)) ((List.mem_cons.mp ht).resolve_left hx) (f c x)
end

section
variable {c d : Chip} {n t : Nat}

/-- The rows that the turns of a cycle that had no beacon change. -/
theorem Chip.turnsEndStale_frame (hn : n < 96) : c.Frame [.segs] (Touched staleSpots) (c.turnsEndStale n) :=
  (Chip.Frame.refl c).foldl _ fun _ _ ht => (Chip.turnStale_frame hn (c.partnerTurns_lt ht)).withSegs _ (by decide)

theorem Chip.turnsStale_frame (hn : n < 96) {l : List Nat} (hl : ∀ t ∈ l, t < 64) : c.Frame [.segs] (Touched staleSpots) (c.turnsStale n l) :=
  (Chip.Frame.refl c).foldl _ fun _ _ ht => Chip.turnStale_frame hn (hl _ ht)

theorem Chip.fld_updEng {f : SegEng → SegEng} {r : FieldRow} {m j : Nat} : (d.updEng n f).fld r m j = d.fld r m j :=
  ((Chip.Frame.refl (S := [.segs]) (K := fun _ => False) d).withSegs _ (by decide)).fld r m j id

theorem Chip.turnsEndStale_stale (hn : n < 96) (ht : t ∈ c.partnerTurns n) : (c.turnsEndStale n).fld SEGMENT.TURN_STAT_STALE n t = 1 :=
  Chip.stale_foldl (fun _ _ _ ht hu => Chip.fld_updEng.trans (Chip.stale_turnStale hn ht hu)) (fun _ => c.partnerTurns_lt) ht c

theorem Chip.turnsStale_stale (hn : n < 96) {l : List Nat} (hl : ∀ t ∈ l, t < 64) (ht : t ∈ l) :
    (c.turnsStale n l).fld SEGMENT.TURN_STAT_STALE n t = 1 :=
  Chip.stale_foldl (fun _ _ _ ht hu => Chip.stale_turnStale hn ht hu) hl ht c

theorem Chip.sameCycle_turnsEndStale (hn : n < 96) : c.SameCycle (c.turnsEndStale n) n :=
  .foldl (fun _ => c.partnerTurns_lt) (fun _ _ ht => (Chip.sameCycle_turnStale hn ht).trans (Chip.sameCycle_updEnded _)) c

/-- A cycle is lost: the engine listens, and every partner turn is stale (R156, R160). -/
theorem Chip.missLost_says (hn : n < 96) : let d := ((c.closeTurns n).turnsStale n (c.partnerTurns n)).enterListen n
    c.Listens d n ∧ (∀ t ∈ c.partnerTurns n,
        d.fld SEGMENT.TURN_STAT_STALE n t = 1) ∧ d.fld SEGMENT.BEACON_MISS_COUNT n = c.fld SEGMENT.BEACON_MISS_COUNT n := by
  intro d
  have hl : ∀ t ∈ c.partnerTurns n, t < 64 := fun t => c.partnerTurns_lt
  have hframe : c.Frame [.segs] (Touched staleSpots) ((c.closeTurns n).turnsStale n (c.partnerTurns n)) :=
    (Chip.closeTurns_frame hn).trans (Chip.turnsStale_frame hn hl)
  have hstale {t : Nat} (ht : t ∈ c.partnerTurns n) : ((c.closeTurns n).turnsStale n (c.partnerTurns n)).fld SEGMENT.TURN_STAT_STALE n t = 1 :=
    Chip.turnsStale_stale hn hl ht
  have hd : d = ((c.closeTurns n).turnsStale n (c.partnerTurns n)).enterListen n := rfl
  generalize (c.closeTurns n).turnsStale n (c.partnerTurns n) = e at hframe hstale hd
  rw [hd]
  refine ⟨Chip.listens_after hframe (by decide) hn (by decide), fun t ht => ?_, ?_⟩
  · rw [(Chip.enterListen_frame hn).fld_apart SEGMENT.TURN_STAT_STALE n t (by decide) hn (Nat.lt_trans (hl t ht) (by decide)), hstale ht]
  · rw [(Chip.enterListen_frame hn).fld_apart SEGMENT.BEACON_MISS_COUNT n 0 (by decide) hn (by decide),
      hframe.fld_apart SEGMENT.BEACON_MISS_COUNT n 0 (by decide) hn (by decide)]

/-- What the opening of a cycle without a beacon leaves. -/
theorem Chip.missOpened_says (hn : n < 96) (p runs : Nat) :
    c.Frame [.segs] (Touched (.one SEGMENT.SYNC_STATUS_CYCLE :: cycleSpots)) (c.missOpened n p runs) ∧
    (c.missOpened n p runs).fld SEGMENT.SYNC_STATUS_CYCLE n = (c.fld SEGMENT.SYNC_STATUS_CYCLE n + 1) % 65536 ∧
    (c.missOpened n p runs).fld SEGMENT.SYNC_STATUS_CYCLE_VALID n = 0 ∧
    ((c.missOpened n p runs).eng n).missRun = runs ∧ ((c.missOpened n p runs).eng n).cycleStart = p := by
  have hopen := c.openCycle_frame (start := p) (len := (c.eng n).cycleLen) (valid := false) hn
  have hvalid := c.openCycle_valid hn p (c.eng n).cycleLen false
  have heng := c.openCycle_eng (n := n) p (c.eng n).cycleLen false
  have hdef : c.missOpened n p runs = ((c.openCycle n p (c.eng n).cycleLen false).updEng n fun e =>
      { e with missRun := runs, lastMiss := some p, opened := false }).setFld SEGMENT.SYNC_STATUS_CYCLE
        ((c.openCycle n p (c.eng n).cycleLen false).fld SEGMENT.SYNC_STATUS_CYCLE n + 1) n := rfl
  rw [hdef]
  generalize c.openCycle n p (c.eng n).cycleLen false = e at hopen hvalid heng
  have hupd : (e.updEng n fun e => { e with missRun := runs, lastMiss := some p, opened := false }).eng n =
      { e.eng n with missRun := runs, lastMiss := some p, opened := false } := Chip.eng_updEng_self _
  have hcycle : e.fld SEGMENT.SYNC_STATUS_CYCLE n = c.fld SEGMENT.SYNC_STATUS_CYCLE n :=
    hopen.fld_apart SEGMENT.SYNC_STATUS_CYCLE n 0 (by decide) hn (by decide)
  refine ⟨?_, ?_, ?_, ?_, ?_⟩
  · exact ((hopen.mono (fun _ h => h) fun k ⟨x, hx, hk⟩ => ⟨x, .tail _ hx, hk⟩).withSegs _ (by decide)).setFld _ _ _ _ (cells_one (by decide) hn)
  · rw [hcycle]
    exact Chip.fld_setFld_self _ _ _ _ _
  · rw [Chip.fld_setFld_apart (by decide) hn (by decide) hn (by decide)]
    exact hvalid
  · rw [Chip.eng_congr (Chip.setFld_segs _ _ _ _ _), hupd]
  · rw [Chip.eng_congr (Chip.setFld_segs _ _ _ _ _), hupd, heng]
    rfl

theorem Chip.missTaken_says (hn : n < 96) : (c.missTaken n).seg n = sgMASTER ∧ ((c.missTaken n).eng n).takeover = true ∧
    c.Tells (c.missTaken n) EV.SEGMENT_MASTER_CHANGE n := by
  have hdef : c.missTaken n = (c.updEng n fun e => { e with takeover := true, beacons := 1, nextGrid := e.predicted + c.whorl.offset,
                                                            missRun := 0, lastMiss := none }).becomeMaster n
      (c.on SEGMENT.SYNC_STATUS_ACTIVE n) := rfl
  have heng : (c.updEng n fun e => { e with takeover := true, beacons := 1, nextGrid := e.predicted + c.whorl.offset,
                                            missRun := 0, lastMiss := none }).eng n =
      { c.eng n with takeover := true, beacons := 1, nextGrid := (c.eng n).predicted + c.whorl.offset, missRun := 0, lastMiss := none } :=
    Chip.eng_updEng_self _
  have hup : (c.updEng n fun e => { e with takeover := true, beacons := 1, nextGrid := e.predicted + c.whorl.offset,
                                           missRun := 0, lastMiss := none }).domUp .seg = c.domUp .seg := rfl
  rw [hdef]
  generalize (c.updEng n fun e => { e with takeover := true, beacons := 1, nextGrid := e.predicted + c.whorl.offset, missRun := 0,
                                           lastMiss := none }) = e at heng hup
  obtain ⟨hseg, -, htell⟩ := e.becomeMaster_says hn (c.on SEGMENT.SYNC_STATUS_ACTIVE n)
  refine ⟨hseg, ?_, fun h => htell (hup.trans h)⟩
  rw [Chip.eng_congr ((Chip.becomeMaster_frame hn).segs (by decide)), heng]
end

/-- A cycle without a beacon, its turns ended stale. -/
theorem Chip.missAged_says {c : Chip} {n : Nat} (hn : n < 96) (p runs : Nat) : let d := (c.missOpened n p runs).turnsEndStale n
    c.Frame [.segs] (Touched (.one SEGMENT.SYNC_STATUS_CYCLE :: cycleSpots)) d ∧
    d.fld SEGMENT.SYNC_STATUS_CYCLE n = (c.fld SEGMENT.SYNC_STATUS_CYCLE n + 1) % 65536 ∧ d.fld SEGMENT.SYNC_STATUS_CYCLE_VALID n = 0 ∧
    (d.eng n).missRun = runs ∧ (d.eng n).cycleStart = p ∧ ∀ t ∈ c.partnerTurns n, d.fld SEGMENT.TURN_STAT_STALE n t = 1 := by
  intro d
  obtain ⟨hframe, hcycle, hvalid, hruns, hstart⟩ := c.missOpened_says hn p runs
  have hd : d = (c.missOpened n p runs).turnsEndStale n := rfl
  generalize c.missOpened n p runs = e at hframe hcycle hvalid hruns hstart hd
  have hturns := e.turnsEndStale_frame hn
  obtain ⟨ts, en, heng⟩ := e.sameCycle_turnsEndStale hn
  have hpartner : e.partnerTurns n = c.partnerTurns n := Chip.partnerTurns_congr (hframe.segTables (by decide))
  rw [hd]
  refine ⟨hframe.trans (hturns.mono (fun _ h => h) fun k ⟨x, hx, hk⟩ => ⟨x, .tail _ (.tail _ (.tail _ hx)), hk⟩), ?_, ?_, ?_, ?_, fun t ht => ?_⟩
  · rw [hturns.fld_apart SEGMENT.SYNC_STATUS_CYCLE n 0 (by decide) hn (by decide), hcycle]
  · rw [hturns.fld_apart SEGMENT.SYNC_STATUS_CYCLE_VALID n 0 (by decide) hn (by decide), hvalid]
  · rw [heng, hruns]
  · rw [heng, hstart]
  · exact Chip.turnsEndStale_stale hn (hpartner ▸ ht)

/-! ### The obligation -/

section
variable {s : State} {n : Fin 96} {carrier : Bool}

/-- A grid point of TRIAL has come. -/
def trialDue (n : Fin 96) (c : Chip) : Bool := c.seg n.val == sgTRIAL && decide ((c.eng n.val).nextGrid ≤ c.net)

/-- A master's grid point has come. -/
def beaconDue (n : Fin 96) (c : Chip) : Bool := c.seg n.val == sgMASTER && decide ((c.eng n.val).nextGrid ≤ c.net)

theorem exec_trialGridPoint : exec (.trialGridPoint n carrier) s = run (fun c => c.whenDue (trialDue n c) fun d => d.trialPoint n.val carrier) s := rfl

theorem exec_beaconSend : exec (.beaconSend n) s = run (fun c => c.whenDue (beaconDue n c) fun d => d.beaconSend n.val) s := rfl

theorem exec_beaconMiss : exec (.beaconMiss n) s = run (fun c => c.whenDue (c.beaconMissDue n.val) fun d => d.beaconMiss n.val) s := rfl

theorem grid_due {st x : Nat} {g net : Int} (h : x = st) (hg : g ≤ net) : (x == st && decide (g ≤ net)) = true := by
  rw [h, beq_self_eq_true, Bool.true_and]
  exact decide_eq_true hg

theorem grid_not_due {st x : Nat} {g net : Int} (h : x ≠ st ∨ net < g) : (x == st && decide (g ≤ net)) = false := by
  rw [Bool.and_eq_false_iff, beq_eq_false_iff_ne, decide_eq_false_iff_not, not_le]
  exact h

/-- With no switch that waits, a master's grid point sends the beacon. -/
theorem Chip.beaconSend_eq {c : Chip} {n : Nat} (hgrid : (c.eng n).nextGrid ≤ c.net) (hpend : c.fld SEGMENT.TT_STATUS_STATE n ≠ 1) :
    c.beaconSend n = c.emitBeacon n (c.fld SEGMENT.SYNC_STATUS_CYCLE n + 1) := by
  have hswitch : c.ttSwitchDue n = false := by rw [Chip.ttSwitchDue, beq_eq_false_iff_ne.mpr hpend, Bool.false_and]
  unfold Chip.beaconSend
  rw [hswitch]
  exact if_pos (decide_eq_true hgrid)
end

/-- The follower takes over, by the conditions of R160. -/
theorem Chip.missTakes_iff (c : Chip) (n runs : Nat) : c.missTakes n runs = true ↔
    c.seg n = sgFOLLOWER ∧ c.on SEGMENT.CFG_DUAL n = true ∧ c.mayStart n = true ∧ c.takeoverMiss n ≤ runs := by
  rw [Chip.missTakes, Bool.and_eq_true, Bool.and_eq_true, Bool.and_eq_true, beq_iff_eq, decide_eq_true_iff, and_assoc, and_assoc]

/-- What the conditions of a miss read is not what its count changes. -/
theorem Chip.missTakes_bump (c : Chip) {n : Nat} (hn : n < 96) (runs : Nat) :
    (c.bump SEGMENT.BEACON_MISS_COUNT n).missTakes n runs = c.missTakes n runs ∧
      (c.bump SEGMENT.BEACON_MISS_COUNT n).lossCycles n = c.lossCycles n := by
  have hframe : c.Frame [] (Touched [.one SEGMENT.BEACON_MISS_COUNT]) (c.bump SEGMENT.BEACON_MISS_COUNT n) :=
    (Chip.Frame.refl c).bump _ _ _ (cells_one (by decide) hn)
  have hfld (r : FieldRow) (hr : (r.placed && [Spot.one SEGMENT.BEACON_MISS_COUNT].all r.apart) = true) (hc : r.cls.count = 96) :
      (c.bump SEGMENT.BEACON_MISS_COUNT n).fld r n = c.fld r n := hframe.fld_apart r n 0 hr (by rw [hc]; exact hn) (by decide)
  have hon (r : FieldRow) (hr : (r.placed && [Spot.one SEGMENT.BEACON_MISS_COUNT].all r.apart) = true) (hc : r.cls.count = 96) :
      (c.bump SEGMENT.BEACON_MISS_COUNT n).on r n = c.on r n := congrArg (· != 0) (hfld r hr hc)
  have hloss : (c.bump SEGMENT.BEACON_MISS_COUNT n).lossCycles n = c.lossCycles n := by
    rw [Chip.lossCycles, hfld _ (by decide) rfl, Chip.lossCycles]
  have hready : (c.bump SEGMENT.BEACON_MISS_COUNT n).timeReady = c.timeReady := by
    have hlock : (c.bump SEGMENT.BEACON_MISS_COUNT n).fld WHORL.LOCK_STATE_STATE = c.fld WHORL.LOCK_STATE_STATE :=
      hframe.fld_apart WHORL.LOCK_STATE_STATE 0 0 (by decide) (by decide) (by decide)
    unfold Chip.timeReady
    rw [hlock]
  refine ⟨?_, hloss⟩
  rw [Chip.missTakes, Chip.takeoverMiss, Chip.mayStart, Chip.seg, hfld _ (by decide) rfl, hon _ (by decide) rfl, hon _ (by decide) rfl,
    hon _ (by decide) rfl, hfld _ (by decide) rfl, hloss, hready, Chip.missTakes, Chip.takeoverMiss, Chip.mayStart, Chip.seg]

/-- A beacon that a follower misses. -/
theorem beaconMiss_ends {s : State} {n : Fin 96} (hdue : s.chip.beaconMissDue n.val = true) {runs : Nat}
    (hruns : runs = (s.chip.eng n.val).missRun + 1) :
    (¬ s.chip.missTakes n.val runs = true → s.chip.lossCycles n.val ≤ runs → Ends (.beaconMiss n) s fun d =>
      s.chip.Counts d SEGMENT.BEACON_MISS_COUNT n.val ∧ s.chip.Listens d n.val ∧
      ∀ t ∈ s.chip.partnerTurns n.val, d.fld SEGMENT.TURN_STAT_STALE n.val t = 1) ∧
    (¬ s.chip.missTakes n.val runs = true → runs < s.chip.lossCycles n.val → Ends (.beaconMiss n) s fun d =>
      s.chip.Counts d SEGMENT.BEACON_MISS_COUNT n.val ∧
      d.seg n.val = s.chip.seg n.val ∧ (d.eng n.val).missRun = runs ∧ (d.eng n.val).cycleStart = (s.chip.eng n.val).predicted ∧
      d.fld SEGMENT.SYNC_STATUS_CYCLE_VALID n.val = 0 ∧
      (∀ t ∈ s.chip.partnerTurns n.val, d.fld SEGMENT.TURN_STAT_STALE n.val t = 1) ∧
      d.fld SEGMENT.SYNC_STATUS_CYCLE n.val = (s.chip.fld SEGMENT.SYNC_STATUS_CYCLE n.val + 1) % 65536) ∧
    (s.chip.missTakes n.val runs = true → Ends (.beaconMiss n) s fun d => d.seg n.val = sgMASTER ∧ (d.eng n.val).takeover = true ∧
      s.chip.Tells d EV.SEGMENT_MASTER_CHANGE n.val) := by
  have hcount : s.chip.Frame [] (Touched [.one SEGMENT.BEACON_MISS_COUNT]) (s.chip.bump SEGMENT.BEACON_MISS_COUNT n.val) :=
    (Chip.Frame.refl _).bump _ _ _ (cells_one (by decide) n.isLt)
  have hcounts := s.chip.counts_bump SEGMENT.BEACON_MISS_COUNT n.val
  obtain ⟨htake, hloss⟩ := s.chip.missTakes_bump n.isLt runs
  have heng : (s.chip.bump SEGMENT.BEACON_MISS_COUNT n.val).eng n.val = s.chip.eng n.val := Chip.eng_congr (hcount.segs (by decide))
  have hpartner : (s.chip.bump SEGMENT.BEACON_MISS_COUNT n.val).partnerTurns n.val = s.chip.partnerTurns n.val :=
    Chip.partnerTurns_congr (hcount.segTables (by decide))
  have hmiss := Chip.beaconMiss_eq (c := s.chip) (n := n.val) rfl (heng.symm ▸ hruns)
  have hends {ok : Chip → Prop} (h : ok (s.chip.ended (s.chip.beaconMiss n.val))) : Ends (.beaconMiss n) s ok :=
    ends_of_due exec_beaconMiss hdue h
  generalize s.chip.bump SEGMENT.BEACON_MISS_COUNT n.val = b at hcount hcounts htake hloss heng hpartner hmiss
  rw [htake, hloss, heng] at hmiss
  have hinst (d : Chip) (r : FieldRow) (h : (r.placed && r.cls.unlevelled) = true) (hc : r.cls.count = 96) (j : Nat) (hj : j < 65536) :
      (s.chip.ended d).fld r n.val j = d.fld r n.val j := Chip.ended_inst h (by rw [hc]; exact n.isLt) hj
  have hengd (d : Chip) : (s.chip.ended d).eng n.val = d.eng n.val := Chip.eng_congr (s.chip.ended_segs d)
  have hstale (d : Chip) (h : ∀ t ∈ b.partnerTurns n.val, d.fld SEGMENT.TURN_STAT_STALE n.val t = 1) :
      ∀ t ∈ s.chip.partnerTurns n.val, (s.chip.ended d).fld SEGMENT.TURN_STAT_STALE n.val t = 1 := fun t ht =>
    (hinst d _ (by decide) rfl t (Nat.lt_trans (s.chip.partnerTurns_lt ht) (by decide))).trans (h t (hpartner ▸ ht))
  refine ⟨fun hno hlost => hends ?_, fun hno hkept => hends ?_, fun hyes => hends ?_⟩
  · rw [hmiss, Bool.eq_false_iff.mpr hno, decide_eq_true hlost]
    obtain ⟨hlisten, hall, hcnt⟩ := b.missLost_says n.isLt
    refine ⟨?_, ?_, hstale _ hall⟩
    · exact ((hinst _ _ (by decide) rfl 0 (by decide)).trans hcnt).trans hcounts
    · obtain ⟨hseg, hact, hanch, htrial, hend⟩ := hlisten.ended (b := s.chip) n.isLt
      refine ⟨hseg, hact, hanch, htrial, hend.trans ?_⟩
      rw [hcount.now (by decide)]
      exact congrArg (fun k => some (s.chip.now + k * nsQ)) (Chip.listenSpan_congr fun r hr => by
        have hcls : r.cls.count = 96 ∧ (r.placed && [Spot.one SEGMENT.BEACON_MISS_COUNT].all r.apart) = true := by
          revert r
          decide
        exact hcount.fld_apart r n.val 0 hcls.2 (by rw [hcls.1]; exact n.isLt) (by decide))
  · rw [hmiss, Bool.eq_false_iff.mpr hno, decide_eq_false (Nat.not_le.mpr hkept)]
    obtain ⟨hframe, hcycle, hvalid, hrun, hstart, hall⟩ := b.missAged_says n.isLt (s.chip.eng n.val).predicted runs
    refine ⟨?_, ?_, ?_, ?_, ?_, hstale _ hall, ?_⟩
    · exact ((hinst _ _ (by decide) rfl 0 (by decide)).trans (hframe.fld_apart SEGMENT.BEACON_MISS_COUNT n.val 0 (by decide) n.isLt
        (by decide))).trans hcounts
    · exact ((hinst _ _ (by decide) rfl 0 (by decide)).trans (hframe.fld_apart SEGMENT.SYNC_STATUS_STATE n.val 0 (by decide) n.isLt
        (by decide))).trans (hcount.fld_apart SEGMENT.SYNC_STATUS_STATE n.val 0 (by decide) n.isLt (by decide))
    · exact (congrArg SegEng.missRun (hengd _)).trans hrun
    · exact (congrArg SegEng.cycleStart (hengd _)).trans hstart
    · exact (hinst _ _ (by decide) rfl 0 (by decide)).trans hvalid
    · rw [← hcount.fld_apart SEGMENT.SYNC_STATUS_CYCLE n.val 0 (by decide) n.isLt (by decide)]
      exact (hinst _ _ (by decide) rfl 0 (by decide)).trans hcycle
  · rw [hmiss, hyes]
    obtain ⟨hframe, -⟩ := b.missAged_says n.isLt (s.chip.eng n.val).predicted runs
    obtain ⟨hseg, hover, htell⟩ := ((b.missOpened n.val (s.chip.eng n.val).predicted runs).turnsEndStale n.val).missTaken_says n.isLt
    refine ⟨(hinst _ _ (by decide) rfl 0 (by decide)).trans hseg, (congrArg SegEng.takeover (hengd _)).trans hover, ?_⟩
    refine Chip.Tells.inst (fun hup => htell ?_) (by decide) n.isLt
    have hdom : ((b.missOpened n.val (s.chip.eng n.val).predicted runs).turnsEndStale n.val).domUp .seg = s.chip.domUp .seg :=
      (hframe.domUp .seg (not_touched (by decide) 0 0 (by decide) (by decide))).trans
        (hcount.domUp .seg (not_touched (by decide) 0 0 (by decide) (by decide)))
    exact hdom.trans hup

/-- Settles O27: the grid points of TRIAL, the beacon of a master, and the three ends of a missed beacon. -/
theorem cyclesAreKept : Obligations.CyclesAreKept := by
  unfold Obligations.CyclesAreKept
  intro s n carrier c e left runs take point placed
  have hinst {d : Chip} {r : FieldRow} (h : (r.placed && r.cls.unlevelled) = true) (hc : r.cls.count = 96) :
      (c.ended d).fld r n.val = d.fld r n.val := Chip.ended_inst h (by rw [hc]; exact n.isLt) (by decide)
  have hon {d : Chip} {r : FieldRow} (h : (r.placed && r.cls.unlevelled) = true) (hc : r.cls.count = 96) :
      (c.ended d).on r n.val = d.on r n.val := Chip.ended_inst_on h (by rw [hc]; exact n.isLt) (by decide)
  have heng (d : Chip) : (c.ended d).eng n.val = d.eng n.val := Chip.eng_congr (c.ended_segs d)
  have hsends {d : Chip} {typ : Nat} (h : d.Sends n.val placed typ) : (c.ended d).Sends n.val placed typ :=
    h.of_eng (by rw [heng]) (by rw [heng])
  have htake : take ↔ c.missTakes n.val runs = true := (c.missTakes_iff n.val runs).symm
  refine ⟨fun hst hg => ?_, fun h => idles_of_not_due exec_trialGridPoint (grid_not_due h), fun hst hg hpend => ?_,
    fun h => idles_of_not_due exec_beaconSend (grid_not_due h), fun hdue => ?_, fun h => idles_of_not_due exec_beaconMiss h⟩
  · have hends {ok : Chip → Prop} (h : ok (c.ended (c.trialPoint n.val carrier))) : Ends (.trialGridPoint n carrier) s ok :=
      ends_of_due exec_trialGridPoint (grid_due hst hg) h
    refine ⟨fun h0 => hends ?_, fun hne hcar => hends ?_, fun hne hlt hcar => hends ?_⟩
    · rw [Chip.trialPoint_last h0]
      obtain ⟨hseg, hact, hsent, hcycle, htell⟩ := c.trialLast_says n.isLt
      exact ⟨(hinst (by decide) rfl).trans hseg, (hon (by decide) rfl).trans hact, hsends hsent, (hinst (by decide) rfl).trans hcycle,
        htell.inst (by decide) n.isLt⟩
    · rw [hcar, Chip.trialPoint_carrier hne]
      exact (Chip.enterListen_listens n.isLt).ended n.isLt
    · rw [hcar, Chip.trialPoint_sends hne]
      obtain ⟨hsent, hseg, hcycle, htrial, hgrid⟩ := Chip.trialSends_says (c := c) n.isLt hlt rfl
      exact ⟨hsends hsent, (hinst (by decide) rfl).trans (hseg.trans hst), (hinst (by decide) rfl).trans hcycle,
        (hinst (by decide) rfl).trans htrial, (congrArg SegEng.nextGrid (heng _)).trans hgrid⟩
  · refine ends_of_due exec_beaconSend (grid_due hst hg) ?_
    rw [Chip.beaconSend_eq hg hpend]
    obtain ⟨hsent, hcycle, hvalid, hstart, hnext⟩ := c.emitBeacon_says n.isLt (c.fld SEGMENT.SYNC_STATUS_CYCLE n.val + 1)
    exact ⟨hsends hsent, (hinst (by decide) rfl).trans hcycle, (hinst (by decide) rfl).trans hvalid,
      (congrArg SegEng.cycleStart (heng _)).trans hstart, fun h => (congrArg SegEng.nextGrid (heng _)).trans (hnext h),
      fun h => (hon (by decide) rfl).trans (Chip.emitBeacon_active n.isLt _ h)⟩
  · obtain ⟨hlost, hkept, htaken⟩ := beaconMiss_ends hdue rfl
    exact ⟨fun hno => hlost fun h => hno (htake.mpr h), fun hno => hkept fun h => hno (htake.mpr h), fun h => htaken (htake.mp h)⟩

end Sys2Proof.Machine
end

section
/-!
PROOF. What the Flyers' windows, their tracking of beacons and the containment of babbling leave alone.
-/
namespace Sys2Proof.Machine

section
variable {c : Chip} {S : List Part} {R : List Spot}

theorem Chip.away_blockTx {n : Nat} {counts : Bool} (hS : [.flyers] ⊆ S) (hR : [.evt .flyer, .one FLYER.BLOCKED_COUNT,
    .one FLYER.FAULT_STATUS_TX_LATCHED, .one FLYER.FAULT_STATUS_TX_VIOLATION, .one FLYER.LATCHES_COUNT, .one FLYER.TX_STATUS_DRIVER_ON,
    .one FLYER.TX_STATUS_LATCHED, .one FLYER.TX_STATUS_VIOL_RUN] ⊆ R) (hn : n < 96) :
    (c.blockTx n counts).away S R = c.away S R := by
  unfold Chip.blockTx
  simp (disch := first
      | (apply mem_of_sub hS; decide) | (refine List.Subset.trans ?_ hS; decide) | (apply mem_of_sub hR; decide)
      | (refine List.Subset.trans ?_ hR; decide) | with_unfolding_all exact id hn | decide) only [Chip.away_ite, ite_self, Chip.away_bump,
      Chip.away_fault, Chip.away_violation]

theorem Chip.away_allowTx {n : Nat} {x : FlyTx} (hS : [.flyers] ⊆ S) (hR : [.one FLYER.TX_STATUS_DRIVER_ON] ⊆ R) (hn : n < 96) :
    (c.allowTx n x).away S R = c.away S R := by
  unfold Chip.allowTx
  simp (disch := first
      | (apply mem_of_sub hS; decide) | (refine List.Subset.trans ?_ hS; decide) | (apply mem_of_sub hR; decide)
      | (refine List.Subset.trans ?_ hR; decide) | with_unfolding_all exact id hn | decide) only [Chip.away_setFld, Chip.away_updFly]

theorem Chip.away_extTx {n : Nat} {t : Nat} {close : Nat} {stop : Nat} (hS : [.flyers] ⊆ S) (hR : [.one FLYER.TX_STATUS_DRIVER_ON] ⊆ R)
    (hn : n < 96) :
    (c.extTx n t close stop).away S R = c.away S R := by
  unfold Chip.extTx
  simp (disch := first
      | (apply mem_of_sub hS; decide) | (refine List.Subset.trans ?_ hS; decide) | (apply mem_of_sub hR; decide)
      | (refine List.Subset.trans ?_ hR; decide) | with_unfolding_all exact id hn | decide) only [Chip.away_updFly, Chip.away_allowTx]

theorem Chip.away_judgeTx {n : Nat} {t : Nat} {stop : Nat} {quiet : Nat} (hS : [.flyers] ⊆ S) (hR : [.evt .flyer, .one FLYER.BLOCKED_COUNT,
    .one FLYER.FAULT_STATUS_BUDGET, .one FLYER.FAULT_STATUS_TX_LATCHED, .one FLYER.FAULT_STATUS_TX_VIOLATION, .one FLYER.LATCHES_COUNT,
    .one FLYER.TX_STATUS_DRIVER_ON, .one FLYER.TX_STATUS_LATCHED, .one FLYER.TX_STATUS_VIOL_RUN] ⊆ R) (hn : n < 96) :
    (c.judgeTx n t stop quiet).away S R = c.away S R := by
  unfold Chip.judgeTx
  repeat' (first | simp (disch := first
      | (apply mem_of_sub hS; decide) | (refine List.Subset.trans ?_ hS; decide) | (apply mem_of_sub hR; decide)
      | (refine List.Subset.trans ?_ hR; decide) | with_unfolding_all exact id hn | decide) only [Chip.away_ite, ite_self, Chip.away_fault,
      Chip.away_blockTx, Chip.away_allowTx, Chip.away_extTx] | split)

theorem Chip.away_txAttempt {n : Nat} {quiet : Nat} (hS : [.segs, .flyers] ⊆ S) (hR : [.evt .flyer, .one FLYER.BLOCKED_COUNT,
    .one FLYER.FAULT_STATUS_BUDGET, .one FLYER.FAULT_STATUS_TX_LATCHED, .one FLYER.FAULT_STATUS_TX_VIOLATION, .one FLYER.LATCHES_COUNT,
    .one FLYER.TX_STATUS_DRIVER_ON, .one FLYER.TX_STATUS_LATCHED, .one FLYER.TX_STATUS_VIOL_RUN] ⊆ R) (hn : n < 96) :
    (c.txAttempt n quiet).away S R = c.away S R := by
  unfold Chip.txAttempt
  repeat' (first | simp (disch := first
      | (apply mem_of_sub hS; decide) | (refine List.Subset.trans ?_ hS; decide) | (apply mem_of_sub hR; decide)
      | (refine List.Subset.trans ?_ hR; decide) | with_unfolding_all exact id hn | decide) only [Chip.away_ite, ite_self, Chip.away_updEng,
      Chip.away_judgeTx] | split)

theorem Chip.away_windowCut {n : Nat} (hS : [.flyers] ⊆ S) (hR : [.evt .flyer, .one FLYER.FAULT_STATUS_TX_LATCHED,
    .one FLYER.FAULT_STATUS_TX_VIOLATION, .one FLYER.LATCHES_COUNT, .one FLYER.TRUNCATED_COUNT, .one FLYER.TX_STATUS_DRIVER_ON,
    .one FLYER.TX_STATUS_LATCHED, .one FLYER.TX_STATUS_VIOL_RUN] ⊆ R) (hn : n < 96) :
    (c.windowCut n).away S R = c.away S R := by
  unfold Chip.windowCut
  repeat' (first | simp (disch := first
      | (apply mem_of_sub hS; decide) | (refine List.Subset.trans ?_ hS; decide) | (apply mem_of_sub hR; decide)
      | (refine List.Subset.trans ?_ hR; decide) | with_unfolding_all exact id hn | decide) only [Chip.away_ite, ite_self, Chip.away_bump,
      Chip.away_driverOff, Chip.away_violation] | split)

theorem Chip.away_setDrift {n : Nat} {k : Nat} {d : Drift} (hS : [.drift] ⊆ S) :
    (c.setDrift n k d).away S R = c.away S R := by
  unfold Chip.setDrift
  simp (disch := first | (apply mem_of_sub hS; decide) | (refine List.Subset.trans ?_ hS; decide) | decide) only [Chip.away_withDrift]

theorem Chip.away_power1 {n : Nat} {f : Chip → Chip} (hS : [.chain] ⊆ S) (hf : (f c).away S R = c.away S R) :
    (c.power1 n f).away S R = c.away S R := by
  unfold Chip.power1
  simp (disch := first | (apply mem_of_sub hS; decide) | decide) only [Chip.away_ite, Chip.away_withChain, hf, ite_self]

theorem Chip.away_contain {n : Nat} {node : Option Nat} (hS : [.flyers, .drift, .chain] ⊆ S) (hR : [.evt .flyer, .one FLYER.CUTS_COUNT,
    .one FLYER.FAULT_STATUS_POWER_CUT, .one FLYER.FAULT_STATUS_POWER_HELD, .one FLYER.PWR_CTRL_STATE] ⊆ R) (hn : n < 96) :
    (c.contain n node).away S R = c.away S R := by
  have hf : [.flyers] ⊆ S := List.Subset.trans (by decide) hS
  have hpower (d : Chip) (v : Nat) : (d.power1 n fun e => e.setFld FLYER.PWR_CTRL_STATE v n).away S R = d.away S R :=
    Chip.away_power1 (List.Subset.trans (by decide) hS) (Chip.away_setFld (mem_of_sub hR (by decide)) hn)
  have hfault (d : Chip) (r : FieldRow) (h : .one r ∈ R) (hc : n < r.cls.count) : (d.fault r n).away S R = d.away S R :=
    Chip.away_fault h (mem_of_sub hR (by decide)) hc hn
  have hcause (d : Chip) : ((List.range 64).foldl (fun e k => e.setDrift n k { e.driftRec n k with cutCause := some k == node }) d).away S R =
      d.away S R := Chip.away_foldl fun e k _ => Chip.away_setDrift (List.Subset.trans (by decide) hS)
  unfold Chip.contain
  rw [Chip.away_ite, Chip.away_ite, hfault _ FLYER.FAULT_STATUS_POWER_HELD (mem_of_sub hR (by decide)) hn,
    hfault _ FLYER.FAULT_STATUS_POWER_CUT (mem_of_sub hR (by decide)) hn, hcause, Chip.away_updFly hf,
    Chip.away_bump (mem_of_sub hR (by decide)) hn, hpower, Chip.away_updFly hf, ite_self, ite_self]

theorem Chip.away_babbleBy {n : Nat} {k : Nat} (hS : [.flyers, .drift, .chain] ⊆ S) (hR : [.evt .flyer, .one FLYER.BABBLES_COUNT,
    .one FLYER.CUTS_COUNT, .one FLYER.FAULT_STATUS_BABBLE, .one FLYER.FAULT_STATUS_POWER_CUT, .one FLYER.FAULT_STATUS_POWER_HELD,
    .one FLYER.PWR_CTRL_STATE] ⊆ R) (hn : n < 96) :
    (c.babbleBy n k).away S R = c.away S R := by
  unfold Chip.babbleBy
  simp (disch := first
      | (apply mem_of_sub hS; decide) | (refine List.Subset.trans ?_ hS; decide) | (apply mem_of_sub hR; decide)
      | (refine List.Subset.trans ?_ hR; decide) | with_unfolding_all exact id hn | decide) only [Chip.away_ite, ite_self, Chip.away_bump,
      Chip.away_fault, Chip.away_setDrift, Chip.away_updFly, Chip.away_contain]

theorem Chip.away_babbleUnknown {n : Nat} (hS : [.flyers, .drift, .chain] ⊆ S) (hR : [.evt .flyer, .one FLYER.CUTS_COUNT,
    .one FLYER.FAULT_STATUS_BABBLE, .one FLYER.FAULT_STATUS_POWER_CUT, .one FLYER.FAULT_STATUS_POWER_HELD, .one FLYER.PWR_CTRL_STATE,
    .one FLYER.STRAY_UNKNOWN_COUNT] ⊆ R) (hn : n < 96) :
    (c.babbleUnknown n).away S R = c.away S R := by
  unfold Chip.babbleUnknown
  simp (disch := first
      | (apply mem_of_sub hS; decide) | (refine List.Subset.trans ?_ hS; decide) | (apply mem_of_sub hR; decide)
      | (refine List.Subset.trans ?_ hR; decide) | with_unfolding_all exact id hn | decide) only [Chip.away_ite, ite_self, Chip.away_bump,
      Chip.away_fault, Chip.away_updFly, Chip.away_contain]

theorem Chip.away_babbleOverrun {n : Nat} {t : Nat} (hS : [.flyers, .drift, .chain] ⊆ S) (hR : [.evt .flyer, .one FLYER.BABBLES_COUNT,
    .one FLYER.CUTS_COUNT, .one FLYER.FAULT_STATUS_BABBLE, .one FLYER.FAULT_STATUS_POWER_CUT, .one FLYER.FAULT_STATUS_POWER_HELD,
    .one FLYER.PWR_CTRL_STATE, .one FLYER.STRAY_UNKNOWN_COUNT] ⊆ R) (hn : n < 96) :
    (c.babbleOverrun n t).away S R = c.away S R := by
  unfold Chip.babbleOverrun
  repeat' (first | simp (disch := first
      | (apply mem_of_sub hS; decide) | (refine List.Subset.trans ?_ hS; decide) | (apply mem_of_sub hR; decide)
      | (refine List.Subset.trans ?_ hR; decide) | with_unfolding_all exact id hn | decide) only [Chip.away_ite, ite_self, Chip.away_babbleBy,
      Chip.away_babbleUnknown] | split)

theorem Chip.away_strayEnergy {n : Nat} {start : Int} {src : Option Nat} {collision : Bool} (hS : [.flyers, .drift, .chain] ⊆ S)
    (hR : [.evt .flyer, .one FLYER.BABBLES_COUNT, .one FLYER.CUTS_COUNT, .one FLYER.FAULT_STATUS_BABBLE, .one FLYER.FAULT_STATUS_POWER_CUT,
    .one FLYER.FAULT_STATUS_POWER_HELD, .one FLYER.PWR_CTRL_STATE, .one FLYER.STRAY_UNKNOWN_COUNT] ⊆ R) (hn : n < 96) :
    (c.strayEnergy n start src collision).away S R = c.away S R := by
  unfold Chip.strayEnergy
  repeat' (first | simp (disch := first
      | (apply mem_of_sub hS; decide) | (refine List.Subset.trans ?_ hS; decide) | (apply mem_of_sub hR; decide)
      | (refine List.Subset.trans ?_ hR; decide) | with_unfolding_all exact id hn | decide) only [Chip.away_ite, ite_self, Chip.away_babbleBy,
      Chip.away_babbleUnknown] | split)

theorem Chip.away_zeroRuns {n : Nat} (hS : [.flyers, .drift] ⊆ S) :
    (c.zeroRuns n).away S R = c.away S R := by
  unfold Chip.zeroRuns
  simp (disch := first
      | (apply mem_of_sub hS; decide) | (refine List.Subset.trans ?_ hS; decide) | (intro _ _ _; simp (disch := first
        | (apply mem_of_sub hS; decide) | (refine List.Subset.trans ?_ hS; decide) | decide) only [Chip.away_ite, ite_self, Chip.away_foldl,
        Chip.away_setDrift, Chip.away_updFly]) | decide) only [Chip.away_foldl, Chip.away_updFly]

theorem Chip.away_cutRestore {n : Nat} (hS : [.flyers, .drift, .chain] ⊆ S) (hR : [.one FLYER.PWR_CTRL_STATE] ⊆ R) (hn : n < 96) :
    (c.cutRestore n).away S R = c.away S R := by
  have hpower : (c.power1 n fun d => d.setFld FLYER.PWR_CTRL_STATE pwON n).away S R = c.away S R :=
    Chip.away_power1 (List.Subset.trans (by decide) hS) (Chip.away_setFld (mem_of_sub hR (by decide)) hn)
  unfold Chip.cutRestore
  rw [Chip.away_updFly (List.Subset.trans (by decide) hS), Chip.away_zeroRuns (List.Subset.trans (by decide) hS), hpower]

theorem Chip.away_babbleCycle {n : Nat} (hS : [.flyers, .drift] ⊆ S) :
    (c.babbleCycle n).away S R = c.away S R := by
  unfold Chip.babbleCycle
  simp (disch := first
      | (apply mem_of_sub hS; decide) | (refine List.Subset.trans ?_ hS; decide) | (intro _ _ _; simp (disch := first
        | (apply mem_of_sub hS; decide) | (refine List.Subset.trans ?_ hS; decide) | decide) only [Chip.away_ite, ite_self, Chip.away_foldl,
        Chip.away_setDrift, Chip.away_setFly]) | decide) only [Chip.away_ite, ite_self, Chip.away_foldl, Chip.away_setFly]

theorem Chip.away_activateSlot {n : Nat} {k : Nat} (hS : [.flyers] ⊆ S) (hR : [.evt .flyer, .one FLYER.FAULT_STATUS_SLOT_SWITCH,
    .one FLYER.SYNC_STATUS_ACTIVE_SLOT, .one FLYER.SYNC_STATUS_TABLE_ID, .one FLYER.TT_SEAL_STATUS_STAGE_SLOT, .upto FLYER.TT_SLOT_ACTIVE] ⊆ R)
    (hn : n < 96) (hk : k < 2) :
    (c.activateSlot n k).away S R = c.away S R := by
  unfold Chip.activateSlot
  simp (disch := first
      | (apply mem_of_sub hS; decide) | (refine List.Subset.trans ?_ hS; decide) | (apply mem_of_sub hR; decide)
      | (refine List.Subset.trans ?_ hR; decide) | with_unfolding_all exact id hn | exact hk | exact Nat.lt_trans hk (by decide)
      | exact Nat.lt_of_le_of_lt (Nat.sub_le _ _) (by decide) | decide) only [Chip.away_ite, ite_self, Chip.away_fault, Chip.away_setFld,
      Chip.away_setFld_upto, Chip.away_updFly]

theorem Chip.away_flyAccept {n : Nat} {k : Nat} {start : Nat} {own : Bool} (hS : [.flyers, .drift] ⊆ S) (hR : [.evt .flyer,
    .one FLYER.FAULT_STATUS_SLOT_SWITCH, .one FLYER.FAULT_STATUS_SYNC_GAINED, .one FLYER.SYNC_STATUS_ACTIVE_SLOT,
    .one FLYER.SYNC_STATUS_CYCLE_OK, .one FLYER.SYNC_STATUS_EXT_ALLOW, .one FLYER.SYNC_STATUS_MASTER_SELF, .one FLYER.SYNC_STATUS_MISS_RUN,
    .one FLYER.SYNC_STATUS_STATE, .one FLYER.SYNC_STATUS_TABLE_ID, .one FLYER.TT_SEAL_STATUS_STAGE_SLOT, .upto FLYER.TT_SLOT_ACTIVE] ⊆ R)
    (hn : n < 96) (hk : k < 2) :
    (c.flyAccept n k start own).away S R = c.away S R := by
  unfold Chip.flyAccept
  simp (disch := first
      | (apply mem_of_sub hS; decide) | (refine List.Subset.trans ?_ hS; decide) | (apply mem_of_sub hR; decide)
      | (refine List.Subset.trans ?_ hR; decide) | with_unfolding_all exact id hn | exact hk | exact Nat.lt_trans hk (by decide)
      | exact Nat.lt_of_le_of_lt (Nat.sub_le _ _) (by decide) | decide) only [Chip.away_ite, ite_self, Chip.away_fault, Chip.away_setBit,
      Chip.away_setFld, Chip.away_babbleCycle, Chip.away_activateSlot, Chip.away_updFly]

theorem Chip.away_flyMiss {n : Nat} (hS : [.flyers, .drift] ⊆ S) (hR : [.evt .flyer, .one FLYER.FAULT_STATUS_SYNC_LOST,
    .one FLYER.FAULT_STATUS_TX_LATCHED, .one FLYER.FAULT_STATUS_TX_VIOLATION, .one FLYER.LATCHES_COUNT, .one FLYER.SYNC_LOSS_COUNT,
    .one FLYER.SYNC_STATUS_CYCLE_OK, .one FLYER.SYNC_STATUS_EXT_ALLOW, .one FLYER.SYNC_STATUS_MISS_RUN, .one FLYER.SYNC_STATUS_STATE,
    .one FLYER.TRUNCATED_COUNT, .one FLYER.TX_STATUS_DRIVER_ON, .one FLYER.TX_STATUS_LATCHED, .one FLYER.TX_STATUS_VIOL_RUN] ⊆ R) (hn : n < 96) :
    (c.flyMiss n).away S R = c.away S R := by
  unfold Chip.flyMiss
  simp (disch := first
      | (apply mem_of_sub hS; decide) | (refine List.Subset.trans ?_ hS; decide) | (apply mem_of_sub hR; decide)
      | (refine List.Subset.trans ?_ hR; decide) | with_unfolding_all exact id hn | decide) only [Chip.away_ite, ite_self, Chip.away_bump,
      Chip.away_setFld, Chip.away_babbleCycle, Chip.away_updFly, Chip.away_flyLost]

end

end Sys2Proof.Machine
end

section
/-!
PROOF. A Flyer's faults, violations and the latch: what each sets and what it leaves (R183, R184, R196).
-/
namespace Sys2Proof.Machine

section
variable {a c d : Chip} {n : Nat} {r q : FieldRow}

/-- A field of another place than the counter that counts. -/
theorem Chip.fld_bump_apart (r q : FieldRow) (hq : (q.placed && q.apart (.upto r)) = true) (hr : n < r.cls.count) (hm : n < q.cls.count) :
    (d.bump r n).fld q n = d.fld q n := Chip.fld_setFld_apart hq hr (by decide) hm (by decide)

theorem Chip.fly_congr (h : d.flyers = c.flyers) : d.fly n = c.fly n := by rw [Chip.fly, h, Chip.fly]

theorem Chip.fly_updFly_self (f : Flyer → Flyer) : (c.updFly n f).fly n = f (c.fly n) := Chip.fly_setFly_self _

theorem Chip.fly_updFly_ne {m : Nat} (f : Flyer → Flyer) (h : m ≠ n) : (c.updFly n f).fly m = c.fly m := Chip.fly_setFly_ne _ h

theorem Chip.fld_updFly {f : Flyer → Flyer} {m j : Nat} : (d.updFly n f).fld r m j = d.fld r m j :=
  ((Chip.Frame.refl (S := [.flyers]) (K := fun _ => False) d).withFlyers _ (by decide)).fld r m j id

/-! ### Faults -/

theorem Chip.fault_frame (hr : n < r.cls.count) (hn : n < 96) : c.Frame [] (Touched [.one r, .evt .flyer]) (c.fault r n) :=
  Chip.away_eq_iff.mp (Chip.away_fault (by simp) (by simp) hr hn)

theorem Chip.fault_flyers (c : Chip) (r : FieldRow) (n : Nat) : (c.fault r n).flyers = c.flyers := Chip.raise_flyers _ _ _

/-- A field that is apart from a fault bit. -/
theorem Chip.fld_fault_apart (r q : FieldRow) (hq : (q.placed && (q.apart (.one r) && q.apart (.evt .flyer))) = true) (hr : n < r.cls.count)
    (hn : n < 96)
    (hm : n < q.cls.count) : (c.fault r n).fld q n = c.fld q n := by
  refine (Chip.fault_frame hr hn).fld_apart q n 0 ?_ hm (by decide)
  simpa only [List.all_cons, List.all_nil, Bool.and_true] using hq

theorem Chip.fault_sets (hw : r.width = 1) (hr : (r.placed && r.apart (.evt .flyer)) = true) (hc : n < r.cls.count) (hn : n < 96) :
    (c.fault r n).fld r n = 1 :=
  (Chip.fld_raise_apart (e := EV.FLYER_GUARD_EVENT) hr hn hc (by decide)).trans (Chip.fld_flag_self _ _ _ _ hw)

theorem aonDomain_apart (hr : (Domain.row .aon).apart (.one r) = true) :
    ((Domain.row .aon).placed && [Spot.one r, .evt .flyer].all (Domain.row .aon).apart) = true := by
  rw [List.all_cons, hr]
  decide

theorem Chip.fault_domUp (hr : (Domain.row .aon).apart (.one r) = true) (hc : n < r.cls.count) (hn : n < 96) :
    (c.fault r n).domUp .aon = c.domUp .aon :=
  (Chip.fault_frame hc hn).domUp .aon (not_touched (aonDomain_apart hr) 0 0 (by decide) (by decide))

theorem Chip.keepsEvents_flag (hr : r.eventless = true) : c.KeepsEvents (c.flag r 1 n) :=
  ((Chip.KeepsEvents.refl c).setFld hr (by decide) _ _).same rfl

theorem Chip.keepsEvents_fault (hr : r.eventless = true) : c.KeepsEvents (c.fault r n) := (Chip.keepsEvents_flag hr).raise _ _

/-- A fault is told. -/
theorem Chip.fault_tells (hup : c.domUp .aon = a.domUp .aon) (hr : (Domain.row .aon).apart (.one r) = true) (hc : n < r.cls.count) :
    a.Tells (c.fault r n) EV.FLYER_GUARD_EVENT n := by
  have hflag : c.Frame [] (Touched [.one r, .evt .flyer]) (c.flag r 1 n) := (Chip.Frame.refl c).flag r 1 n 0 (cells_one (by simp) hc)
  have htell : c.Tells ((c.flag r 1 n).raise EV.FLYER_GUARD_EVENT n) EV.FLYER_GUARD_EVENT n :=
    hflag.tells_raise _ _ (by decide) (not_touched (x := Domain.row .aon) (aonDomain_apart hr) 0 0 (by decide) (by decide))
  exact fun h => htell (hup.trans h)

/-! ### The driver -/

theorem Chip.driverOff_frame (hn : n < 96) : c.Frame [.flyers] (Touched [.one FLYER.TX_STATUS_DRIVER_ON]) (c.driverOff n) :=
  Chip.away_eq_iff.mp (Chip.away_driverOff (List.Subset.refl _) (List.Subset.refl _) hn)

/-- The driver is off and no transmission is on. -/
def Chip.Silent (c : Chip) (n : Nat) : Prop := (c.fly n).tx = none ∧ c.fld FLYER.TX_STATUS_DRIVER_ON n = 0

theorem Chip.driverOff_silent : (c.driverOff n).Silent n :=
  ⟨(congrArg Flyer.tx (Chip.fly_updFly_self (c := c.budgetCount n) fun f => { f with tx := none })), Chip.fld_setFld_self _ _ _ _ _⟩

/-- The engine's own part of the latch: the driver goes off. -/
def Chip.latchOff (c : Chip) (n : Nat) : Chip := if (c.fly n).tx.isSome then c.driverOff n else c

theorem Chip.latchOff_frame (hn : n < 96) : c.Frame [.flyers] (Touched [.one FLYER.TX_STATUS_DRIVER_ON]) (c.latchOff n) := by
  unfold Chip.latchOff
  split_ifs
  · exact Chip.driverOff_frame hn
  · exact .refl c

theorem Chip.latchTx_latched (h : c.on FLYER.TX_STATUS_LATCHED n = true) : c.latchTx n = c := if_pos h

theorem Chip.latchTx_latches (h : c.on FLYER.TX_STATUS_LATCHED n = false) : c.latchTx n =
    ((((c.latchOff n).setFld FLYER.TX_STATUS_LATCHED 1 n).bump FLYER.LATCHES_COUNT n).fault FLYER.FAULT_STATUS_TX_LATCHED n) :=
  if_neg (by rw [h]; decide)

/-- The rows of the latch. -/
def latchSpots : List Spot := [.evt .flyer, .one FLYER.FAULT_STATUS_TX_LATCHED, .one FLYER.LATCHES_COUNT, .one FLYER.TX_STATUS_DRIVER_ON,
  .one FLYER.TX_STATUS_LATCHED]

theorem Chip.latchTx_frame (hn : n < 96) : c.Frame [.flyers] (Touched latchSpots) (c.latchTx n) :=
  Chip.away_eq_iff.mp (Chip.away_latchTx (List.Subset.refl _) (List.Subset.refl _) hn)

theorem Chip.latchTx_says (hn : n < 96) (h : c.on FLYER.TX_STATUS_LATCHED n = false) :
    (c.latchTx n).fld FLYER.TX_STATUS_LATCHED n = 1 ∧ c.Counts (c.latchTx n) FLYER.LATCHES_COUNT n := by
  have hoff := (c.latchOff_frame hn).fld_apart FLYER.LATCHES_COUNT n 0 (by decide) hn (by decide)
  rw [Chip.latchTx_latches h]
  generalize c.latchOff n = e at hoff
  refine ⟨?_, ?_⟩
  · rw [Chip.fld_fault_apart FLYER.FAULT_STATUS_TX_LATCHED FLYER.TX_STATUS_LATCHED (by decide) hn hn hn,
      Chip.fld_bump_apart FLYER.LATCHES_COUNT FLYER.TX_STATUS_LATCHED (by decide) hn hn]
    exact Chip.fld_setFld_self _ _ _ _ _
  · have hset : (e.setFld FLYER.TX_STATUS_LATCHED 1 n).fld FLYER.LATCHES_COUNT n = e.fld FLYER.LATCHES_COUNT n :=
      Chip.fld_setFld_apart (by decide) hn (by decide) hn (by decide)
    rw [Chip.Counts, Chip.fld_fault_apart FLYER.FAULT_STATUS_TX_LATCHED FLYER.LATCHES_COUNT (by decide) hn hn hn, ← hoff, ← hset]
    exact Chip.counts_bump _ _ _

theorem Chip.latchTx_silent (hn : n < 96) (h : c.Silent n) : (c.latchTx n).Silent n := by
  obtain ⟨htx, hon⟩ := h
  cases hl : c.on FLYER.TX_STATUS_LATCHED n with
  | true => rw [Chip.latchTx_latched hl]; exact ⟨htx, hon⟩
  | false =>
    have hkeep : c.latchOff n = c := if_neg (by rw [htx]; decide)
    rw [Chip.latchTx_latches hl, hkeep]
    refine ⟨?_, ?_⟩
    · rw [Chip.fly_congr (Chip.fault_flyers _ _ _)]
      exact htx
    · rw [Chip.fld_fault_apart FLYER.FAULT_STATUS_TX_LATCHED FLYER.TX_STATUS_DRIVER_ON (by decide) hn hn hn,
        Chip.fld_bump_apart FLYER.LATCHES_COUNT FLYER.TX_STATUS_DRIVER_ON (by decide) hn hn,
        Chip.fld_setFld_apart (by decide) hn (by decide) hn (by decide), hon]

theorem Chip.keepsEvents_latchTx : c.KeepsEvents (c.latchTx n) := by
  cases hl : c.on FLYER.TX_STATUS_LATCHED n with
  | true => rw [Chip.latchTx_latched hl]; exact .refl c
  | false =>
    have hoff : c.KeepsEvents (c.latchOff n) := by
      unfold Chip.latchOff
      split_ifs
      · exact ((Chip.KeepsEvents.refl c).same rfl).setFld (by decide) (by decide) _ _
      · exact .refl c
    rw [Chip.latchTx_latches hl]
    exact ((hoff.setFld (by decide) (by decide) _ _).bump (by decide) (by decide) _).trans (Chip.keepsEvents_fault (by decide))

/-! ### Violations (R183) -/

/-- One more violation, before the latch. -/
def Chip.violated (c : Chip) (n : Nat) : Chip := (c.bump FLYER.TX_STATUS_VIOL_RUN n).fault FLYER.FAULT_STATUS_TX_VIOLATION n

theorem Chip.violation_eq : c.violation n = if 3 ≤ (c.violated n).fld FLYER.TX_STATUS_VIOL_RUN n then (c.violated n).latchTx n else c.violated n := rfl

/-- A violation in `d`, seen from `a`: it counts, it is told, and the third one latches. -/
def Chip.Violates (a d : Chip) (n : Nat) : Prop :=
  d.fld FLYER.TX_STATUS_VIOL_RUN n = min (a.fld FLYER.TX_STATUS_VIOL_RUN n + 1) 3 ∧ d.fld FLYER.FAULT_STATUS_TX_VIOLATION n = 1 ∧
    a.Tells d EV.FLYER_GUARD_EVENT n ∧
    (min (a.fld FLYER.TX_STATUS_VIOL_RUN n + 1) 3 = 3 → a.on FLYER.TX_STATUS_LATCHED n = false →
      d.fld FLYER.TX_STATUS_LATCHED n = 1 ∧ a.Counts d FLYER.LATCHES_COUNT n)

/-- The fields that a violation goes by. -/
def violRows : List FieldRow := [FLYER.TX_STATUS_VIOL_RUN, FLYER.TX_STATUS_LATCHED, FLYER.LATCHES_COUNT]

theorem Chip.violates_violation (hn : n < 96) (hrows : ∀ r ∈ violRows, c.fld r n = a.fld r n) (hup : c.domUp .aon = a.domUp .aon) :
    a.Violates (c.violation n) n := by
  have hviol := hrows _ (.head _)
  have hlatched := hrows _ (.tail _ (.head _))
  have hlatches := hrows _ (.tail _ (.tail _ (.head _)))
  have hbump : c.Frame [] (Touched [.one FLYER.TX_STATUS_VIOL_RUN]) (c.bump FLYER.TX_STATUS_VIOL_RUN n) :=
    (Chip.Frame.refl c).bump _ _ _ (cells_one (by decide) hn)
  have hall : c.Frame [] (Touched [.evt .flyer, .one FLYER.TX_STATUS_VIOL_RUN, .one FLYER.FAULT_STATUS_TX_VIOLATION]) (c.violated n) :=
    Chip.away_eq_iff.mp ((Chip.away_fault (by decide) (by decide) hn hn).trans (Chip.away_bump (by decide) hn))
  have hrun : (c.violated n).fld FLYER.TX_STATUS_VIOL_RUN n = min (a.fld FLYER.TX_STATUS_VIOL_RUN n + 1) 3 := by
    rw [Chip.violated, Chip.fld_fault_apart FLYER.FAULT_STATUS_TX_VIOLATION FLYER.TX_STATUS_VIOL_RUN (by decide) hn hn hn, ← hviol]
    exact c.counts_bump _ _
  have hset : (c.violated n).fld FLYER.FAULT_STATUS_TX_VIOLATION n = 1 := Chip.fault_sets (by decide) (by decide) hn hn
  have htell : a.Tells (c.violated n) EV.FLYER_GUARD_EVENT n :=
    Chip.fault_tells ((hbump.domUp .aon (not_touched (by decide) 0 0 (by decide) (by decide))).trans hup) (by decide) hn
  have hon : (c.violated n).on FLYER.TX_STATUS_LATCHED n = a.on FLYER.TX_STATUS_LATCHED n :=
    congrArg (· != 0) ((hall.fld_apart FLYER.TX_STATUS_LATCHED n 0 (by decide) hn (by decide)).trans hlatched)
  have hcnt : (c.violated n).fld FLYER.LATCHES_COUNT n = a.fld FLYER.LATCHES_COUNT n :=
    (hall.fld_apart FLYER.LATCHES_COUNT n 0 (by decide) hn (by decide)).trans hlatches
  rw [Chip.violation_eq]
  generalize c.violated n = e at hrun hset htell hon hcnt
  by_cases h3 : 3 ≤ e.fld FLYER.TX_STATUS_VIOL_RUN n
  · rw [if_pos h3]
    have hlatch := e.latchTx_frame hn
    refine ⟨?_, ?_, htell.keeps Chip.keepsEvents_latchTx (by decide), fun _ hoff => ?_⟩
    · rw [hlatch.fld_apart FLYER.TX_STATUS_VIOL_RUN n 0 (by decide) hn (by decide), hrun]
    · rw [hlatch.fld_apart FLYER.FAULT_STATUS_TX_VIOLATION n 0 (by decide) hn (by decide), hset]
    · obtain ⟨hone, hcount⟩ := e.latchTx_says hn (hon.trans hoff)
      rw [Chip.Counts, hcnt] at hcount
      exact ⟨hone, hcount⟩
  · rw [if_neg h3]
    refine ⟨hrun, hset, htell, fun hlim => absurd ?_ h3⟩
    rw [hrun, hlim]

theorem Chip.violation_silent (hn : n < 96) (h : c.Silent n) : (c.violation n).Silent n := by
  obtain ⟨htx, hon⟩ := h
  have hv : (c.violated n).Silent n := by
    refine ⟨?_, ?_⟩
    · rw [Chip.violated, Chip.fly_congr (Chip.fault_flyers _ _ _)]
      exact htx
    · rw [Chip.violated, Chip.fld_fault_apart FLYER.FAULT_STATUS_TX_VIOLATION FLYER.TX_STATUS_DRIVER_ON (by decide) hn hn hn,
        Chip.fld_bump_apart FLYER.TX_STATUS_VIOL_RUN FLYER.TX_STATUS_DRIVER_ON (by decide) hn hn, hon]
  rw [Chip.violation_eq]
  split_ifs
  · exact Chip.latchTx_silent hn hv
  · exact hv

theorem Chip.keepsEvents_violation : c.KeepsEvents (c.violation n) := by
  have hv : c.KeepsEvents (c.violated n) :=
    ((Chip.KeepsEvents.refl c).bump (by decide) (by decide) _).trans (Chip.keepsEvents_fault (by decide))
  rw [Chip.violation_eq]
  exact .ite (fun _ => hv.trans Chip.keepsEvents_latchTx) fun _ => hv

/-- The rows of a violation. -/
def violSpots : List Spot := [.evt .flyer, .one FLYER.FAULT_STATUS_TX_LATCHED, .one FLYER.FAULT_STATUS_TX_VIOLATION, .one FLYER.LATCHES_COUNT,
  .one FLYER.TX_STATUS_DRIVER_ON, .one FLYER.TX_STATUS_LATCHED, .one FLYER.TX_STATUS_VIOL_RUN]

theorem Chip.violation_frame (hn : n < 96) : c.Frame [.flyers] (Touched violSpots) (c.violation n) :=
  Chip.away_eq_iff.mp (Chip.away_violation (List.Subset.refl _) (List.Subset.refl _) hn)

theorem Chip.Violates.ended {b : Chip} (h : a.Violates d n) (hn : n < 96) : a.Violates (b.ended d) n := by
  obtain ⟨hrun, hset, htell, hlatch⟩ := h
  refine ⟨(Chip.ended_inst (by decide) hn (by decide)).trans hrun, (Chip.ended_inst (by decide) hn (by decide)).trans hset,
    htell.inst (by decide) hn, fun h3 hoff => ?_⟩
  obtain ⟨hone, hcount⟩ := hlatch h3 hoff
  exact ⟨(Chip.ended_inst (by decide) hn (by decide)).trans hone, hcount.inst (by decide) hn⟩
end

end Sys2Proof.Machine
end

section
/-!
PROOF. The driver windows: how an attempt of the engine to send is judged, and the ends of a transmission (R180 to R184).
-/
namespace Sys2Proof.Machine

theorem exec_txAttempt {n : Fin 96} {quiet : Nat} {s : State} : exec (.txAttempt n quiet) s = run (fun c => c.txAttempt n.val quiet) s := rfl
theorem exec_windowCloseCut {n : Fin 96} {s : State} : exec (.windowCloseCut n) s = run (fun c => c.windowCut n.val) s := rfl

section
variable {a c d : Chip} {n t stop quiet : Nat}

/-! ### The branches of the judgement -/

/-- The engine's last frame handed to the judgement. -/
def Chip.taken (c : Chip) (n : Nat) : Chip := c.updEng n fun e => { e with lastTx := none }

theorem Chip.txAttempt_judges {x : SegTx} (hx : (c.eng n).lastTx = some x) (hs : x.start ≤ c.now) :
    c.txAttempt n quiet = (c.taken n).judgeTx n x.start (c.eng n).txEnd quiet := by
  unfold Chip.txAttempt
  rw [hx]
  exact if_pos hs

theorem Chip.txAttempt_none (hx : (c.eng n).lastTx = none) : c.txAttempt n quiet = c := by
  unfold Chip.txAttempt
  rw [hx]

theorem Chip.judgeTx_off {b : Bool} (h : c.flySt n = fyOFF) (hb : (c.hdr HDR.CTRL_EN (PageCls.flyer.base + n) == 1) = b) :
    c.judgeTx n t stop quiet = c.blockTx n b := by
  rw [← hb]
  exact if_pos h

theorem Chip.judgeTx_refclk (h : c.flySt n ∈ [fyUNSYNC, fySYNCWAIT, fySYNC]) (hr : c.on WHORL.REFCLK_STATUS_FAULT = true) :
    c.judgeTx n t stop quiet = c.blockTx n false := by
  have hall : ∀ st ∈ [fyUNSYNC, fySYNCWAIT, fySYNC], st ≠ fyOFF ∧ st ≠ fyOPEN := by decide
  obtain ⟨hoff, hopen⟩ := hall _ h
  unfold Chip.judgeTx
  rw [if_neg hoff]
  by_cases hs : c.modes.segSupplyBad = true
  · rw [if_pos hs]
  · rw [if_neg hs, if_pos ⟨hopen, hr⟩]

theorem Chip.judgeTx_latched (h : c.flySt n ≠ fyOFF) (hl : c.on FLYER.TX_STATUS_LATCHED n = true) :
    ∃ b, c.judgeTx n t stop quiet = c.blockTx n b := by
  unfold Chip.judgeTx
  rw [if_neg h]
  split_ifs
  · exact ⟨_, rfl⟩
  · exact ⟨_, rfl⟩
  · exact ⟨_, rfl⟩

theorem Chip.judgeTx_open (h : c.flySt n = fyOPEN) (hs : c.modes.segSupplyBad = false) (hl : c.on FLYER.TX_STATUS_LATCHED n = false) :
    c.judgeTx n t stop quiet = c.allowTx n { start := t, close := none, endAt := stop } := by
  unfold Chip.judgeTx
  rw [if_neg (by rw [h]; decide), if_neg (by rw [hs]; decide), if_neg (fun hc => hc.1 h), if_neg (by rw [hl]; decide), if_pos h]

/-- Nothing outside the Flyer's windows holds a transmission back. -/
def Chip.TxFree (c : Chip) (n : Nat) : Prop :=
  c.modes.segSupplyBad = false ∧ c.on FLYER.TX_STATUS_LATCHED n = false ∧ c.on WHORL.REFCLK_STATUS_FAULT = false

theorem Chip.judgeTx_unsync (h : c.flySt n = fyUNSYNC) (hf : c.TxFree n) : c.judgeTx n t stop quiet =
    if c.fld FLYER.UNSYNC_BUDGET_US n * usQ ≤ c.budgetUsed n then (c.fault FLYER.FAULT_STATUS_BUDGET n).blockTx n true
    else if quiet < 9600 then c.blockTx n true
    else c.allowTx n { start := t, close := some (t + 60000 * nsQ), endAt := stop, unsync := true } := by
  obtain ⟨hs, hl, hr⟩ := hf
  unfold Chip.judgeTx
  rw [if_neg (by rw [h]; decide), if_neg (by rw [hs]; decide), if_neg (fun hc => by rw [hr] at hc; exact absurd hc.2 (by decide)),
    if_neg (by rw [hl]; decide), if_neg (by rw [h]; decide), if_pos h]

theorem Chip.judgeTx_spent (h : c.flySt n = fyUNSYNC) (hf : c.TxFree n) (hb : c.fld FLYER.UNSYNC_BUDGET_US n * usQ ≤ c.budgetUsed n) :
    c.judgeTx n t stop quiet = (c.fault FLYER.FAULT_STATUS_BUDGET n).blockTx n true := (Chip.judgeTx_unsync h hf).trans (if_pos hb)

theorem Chip.judgeTx_early (h : c.flySt n = fyUNSYNC) (hf : c.TxFree n) (hb : c.budgetUsed n < c.fld FLYER.UNSYNC_BUDGET_US n * usQ)
    (hq : quiet < 9600) : c.judgeTx n t stop quiet = c.blockTx n true :=
  (Chip.judgeTx_unsync h hf).trans ((if_neg (Nat.not_le.mpr hb)).trans (if_pos hq))

theorem Chip.judgeTx_budgeted (h : c.flySt n = fyUNSYNC) (hf : c.TxFree n) (hb : c.budgetUsed n < c.fld FLYER.UNSYNC_BUDGET_US n * usQ)
    (hq : 9600 ≤ quiet) :
    c.judgeTx n t stop quiet = c.allowTx n { start := t, close := some (t + 60000 * nsQ), endAt := stop, unsync := true } :=
  (Chip.judgeTx_unsync h hf).trans ((if_neg (Nat.not_le.mpr hb)).trans (if_neg (Nat.not_lt.mpr hq)))

/-- An attempt of a Flyer that is in step, by the window and by the extension allowance. -/
def Chip.judgeBy (c : Chip) (n t stop : Nat) (w : Option Nat) (ext : Bool) : Chip :=
  match w, ext with
  | some e, false => c.allowTx n { start := t, close := some e, endAt := stop }
  | some e, true => c.extTx n t (max e (t + 60000 * nsQ)) stop
  | none, true => c.extTx n t (t + 60000 * nsQ) stop
  | none, false => c.blockTx n true

theorem Chip.judgeTx_window (h : c.flySt n ∈ [fySYNCWAIT, fySYNC]) (hf : c.TxFree n) :
    c.judgeTx n t stop quiet = c.judgeBy n t stop (c.windowClose n t) (c.extCovers n t) := by
  have hall : ∀ st ∈ [fySYNCWAIT, fySYNC], st ≠ fyOFF ∧ st ≠ fyOPEN ∧ st ≠ fyUNSYNC := by decide
  obtain ⟨hs, hl, hr⟩ := hf
  obtain ⟨hoff, hopen, hunsync⟩ := hall _ h
  unfold Chip.judgeTx
  rw [if_neg hoff, if_neg (by rw [hs]; decide), if_neg (fun hc => by rw [hr] at hc; exact absurd hc.2 (by decide)),
    if_neg (by rw [hl]; decide), if_neg hopen, if_neg hunsync]
  rfl

/-! ### A transmission that is blocked -/

theorem Chip.blockTx_latched {b : Bool} (hn : n < 96) (h : c.on FLYER.TX_STATUS_LATCHED n = true) :
    c.blockTx n b = c.bump FLYER.BLOCKED_COUNT n := by
  refine if_pos ?_
  rw [Chip.on, Chip.fld_bump_apart FLYER.BLOCKED_COUNT FLYER.TX_STATUS_LATCHED (by decide) hn hn]
  exact h

theorem Chip.blockTx_counts (hn : n < 96) (h : c.on FLYER.TX_STATUS_LATCHED n = false) :
    c.blockTx n true = (c.bump FLYER.BLOCKED_COUNT n).violation n := by
  refine if_neg (Bool.eq_false_iff.mp ?_)
  rw [Chip.on, Chip.fld_bump_apart FLYER.BLOCKED_COUNT FLYER.TX_STATUS_LATCHED (by decide) hn hn]
  exact h

theorem Chip.blockTx_refuses (hn : n < 96) (h : c.on FLYER.TX_STATUS_LATCHED n = false) :
    c.blockTx n false = (c.bump FLYER.BLOCKED_COUNT n).fault FLYER.FAULT_STATUS_TX_VIOLATION n := by
  refine if_neg (Bool.eq_false_iff.mp ?_)
  rw [Chip.on, Chip.fld_bump_apart FLYER.BLOCKED_COUNT FLYER.TX_STATUS_LATCHED (by decide) hn hn]
  exact h

/-- Every blocked transmission counts. -/
theorem Chip.blockTx_counted {b : Bool} (hn : n < 96) : c.Counts (c.blockTx n b) FLYER.BLOCKED_COUNT n := by
  cases hl : c.on FLYER.TX_STATUS_LATCHED n with
  | true => rw [Chip.blockTx_latched hn hl]; exact c.counts_bump _ _
  | false =>
    cases b with
    | true =>
      rw [Chip.blockTx_counts hn hl, Chip.Counts, ((c.bump FLYER.BLOCKED_COUNT n).violation_frame hn).fld_apart FLYER.BLOCKED_COUNT n 0
        (by decide) hn (by decide)]
      exact c.counts_bump _ _
    | false =>
      rw [Chip.blockTx_refuses hn hl, Chip.Counts, Chip.fld_fault_apart FLYER.FAULT_STATUS_TX_VIOLATION FLYER.BLOCKED_COUNT (by decide) hn hn hn]
      exact c.counts_bump _ _

theorem Chip.blockTx_violates (hn : n < 96) (hl : c.on FLYER.TX_STATUS_LATCHED n = false) (hrows : ∀ r ∈ violRows, c.fld r n = a.fld r n)
    (hup : c.domUp .aon = a.domUp .aon) : a.Violates (c.blockTx n true) n := by
  have hb : c.Frame [] (Touched [.one FLYER.BLOCKED_COUNT]) (c.bump FLYER.BLOCKED_COUNT n) :=
    (Chip.Frame.refl c).bump _ _ _ (cells_one (by decide) hn)
  rw [Chip.blockTx_counts hn hl]
  refine Chip.violates_violation hn (fun r hr => (?_ : _ = _).trans (hrows r hr))
    ((hb.domUp .aon (not_touched (by decide) 0 0 (by decide) (by decide))).trans hup)
  have hcls : r.cls.count = 96 ∧ (r.placed && [Spot.one FLYER.BLOCKED_COUNT].all r.apart) = true := by
    revert r
    decide
  exact hb.fld_apart r n 0 hcls.2 (by rw [hcls.1]; exact hn) (by decide)

/-- Where a violation does not count, only the fault is set. -/
theorem Chip.blockTx_refused (hn : n < 96) (hl : c.on FLYER.TX_STATUS_LATCHED n = false) :
    (c.blockTx n false).fld FLYER.FAULT_STATUS_TX_VIOLATION n = 1 ∧ (c.blockTx n false).flyers = c.flyers := by
  rw [Chip.blockTx_refuses hn hl]
  exact ⟨Chip.fault_sets (by decide) (by decide) hn hn, Chip.fault_flyers _ _ _⟩

theorem Chip.blockTx_viol_run (hn : n < 96) :
    (c.blockTx n false).fld FLYER.TX_STATUS_VIOL_RUN n = c.fld FLYER.TX_STATUS_VIOL_RUN n := by
  have hb : (c.bump FLYER.BLOCKED_COUNT n).fld FLYER.TX_STATUS_VIOL_RUN n = c.fld FLYER.TX_STATUS_VIOL_RUN n :=
    Chip.fld_bump_apart FLYER.BLOCKED_COUNT FLYER.TX_STATUS_VIOL_RUN (by decide) hn hn
  cases hl : c.on FLYER.TX_STATUS_LATCHED n with
  | true => rw [Chip.blockTx_latched hn hl, hb]
  | false => rw [Chip.blockTx_refuses hn hl, Chip.fld_fault_apart FLYER.FAULT_STATUS_TX_VIOLATION FLYER.TX_STATUS_VIOL_RUN (by decide) hn hn hn, hb]

theorem Chip.blockTx_segs {b : Bool} (hn : n < 96) : (c.blockTx n b).segs = c.segs := by
  have hf : c.Frame [.flyers] (Touched (.one FLYER.BLOCKED_COUNT :: violSpots)) (c.blockTx n b) :=
    Chip.away_eq_iff.mp (Chip.away_blockTx (by decide) (by decide) hn)
  exact hf.segs (by decide)

/-! ### A transmission that is allowed -/

theorem Chip.allowTx_says (x : FlyTx) : (c.allowTx n x).fld FLYER.TX_STATUS_DRIVER_ON n = 1 ∧ (c.allowTx n x).fly n = { c.fly n with tx := some x } :=
  ⟨Chip.fld_setFld_self _ _ _ _ _, Chip.fly_updFly_self (c := c) fun f => { f with tx := some x }⟩

theorem Chip.extTx_says (close : Nat) : (c.extTx n t close stop).fld FLYER.TX_STATUS_DRIVER_ON n = 1 ∧
    (c.extTx n t close stop).fly n = { c.fly n with extUsed := true, tx := some { start := t, close := some close, endAt := stop } } := by
  obtain ⟨hon, hfly⟩ := Chip.allowTx_says (c := c.updFly n fun f => { f with extUsed := true }) (n := n)
    { start := t, close := some close, endAt := stop }
  refine ⟨hon, hfly.trans ?_⟩
  rw [Chip.fly_updFly_self]

theorem Chip.taken_lastTx : ((c.taken n).eng n).lastTx = none := congrArg SegEng.lastTx (Chip.eng_updEng_self _)
end

/-! ### A window that closes -/

section
variable {a c d : Chip} {n m : Nat} {x : FlyTx}

theorem Chip.windowCut_idle (h : ∀ x e, (c.fly n).tx = some x → x.close = some e → (x.endAt : Int) ≤ c.tickFrom e ∨ c.now < e) :
    c.windowCut n = c := by
  unfold Chip.windowCut
  cases htx : (c.fly n).tx with
  | none => rfl
  | some x =>
    dsimp only
    cases he : x.close with
    | none => rfl
    | some e => exact if_neg fun hc => (h x e htx he).elim (fun hle => absurd hc.1 (not_lt.mpr hle)) fun hlt => absurd hc.2 (Nat.not_le.mpr hlt)

theorem Chip.windowCut_cuts {e : Nat} (hx : (c.fly n).tx = some x) (he : x.close = some e) (h1 : c.tickFrom e < x.endAt) (h2 : e ≤ c.now) :
    c.windowCut n = ((c.driverOff n).bump FLYER.TRUNCATED_COUNT n).violation n := by
  unfold Chip.windowCut
  rw [hx]
  dsimp only
  rw [he]
  exact if_pos ⟨h1, h2⟩

/-- A cut transmission is a violation, and the driver is off after it. -/
theorem Chip.cutTx_says (hn : n < 96) (hd : d = ((c.driverOff n).bump FLYER.TRUNCATED_COUNT n).violation n) :
    d.Silent n ∧ c.Counts d FLYER.TRUNCATED_COUNT n ∧ c.Violates d n := by
  have hoff := c.driverOff_frame hn
  have hcut : c.Frame [.flyers] (Touched [.one FLYER.TX_STATUS_DRIVER_ON, .one FLYER.TRUNCATED_COUNT])
      ((c.driverOff n).bump FLYER.TRUNCATED_COUNT n) :=
    Chip.away_eq_iff.mp ((Chip.away_bump (by decide) hn).trans (Chip.away_driverOff (by decide) (by decide) hn))
  have hsilent : ((c.driverOff n).bump FLYER.TRUNCATED_COUNT n).Silent n := by
    obtain ⟨htx, hon⟩ := Chip.driverOff_silent (c := c) (n := n)
    exact ⟨htx, (Chip.fld_bump_apart FLYER.TRUNCATED_COUNT FLYER.TX_STATUS_DRIVER_ON (by decide) hn hn).trans hon⟩
  have hcount : c.Counts ((c.driverOff n).bump FLYER.TRUNCATED_COUNT n) FLYER.TRUNCATED_COUNT n := by
    rw [Chip.Counts, ← hoff.fld_apart FLYER.TRUNCATED_COUNT n 0 (by decide) hn (by decide)]
    exact Chip.counts_bump _ _ _
  subst hd
  refine ⟨Chip.violation_silent hn hsilent, ?_, Chip.violates_violation hn (fun r hr => ?_)
    (hcut.domUp .aon (not_touched (by decide) 0 0 (by decide) (by decide)))⟩
  · rw [Chip.Counts, (Chip.violation_frame hn).fld_apart FLYER.TRUNCATED_COUNT n 0 (by decide) hn (by decide)]
    exact hcount
  · have hcls : r.cls.count = 96 ∧ (r.placed && [Spot.one FLYER.TX_STATUS_DRIVER_ON, .one FLYER.TRUNCATED_COUNT].all r.apart) = true := by
      revert r
      decide
    exact hcut.fld_apart r n 0 hcls.2 (by rw [hcls.1]; exact hn) (by decide)

/-! ### A transmission that ends inside its window -/

theorem Chip.cleanEnd_ends (hx : (c.fly n).tx = some x) (hend : x.endAt ≤ c.now)
    (hin : ∀ e, x.close = some e → (x.endAt : Int) ≤ c.tickFrom e) :
    c.cleanEnd n = (c.driverOff n).setFld FLYER.TX_STATUS_VIOL_RUN 0 n := by
  unfold Chip.cleanEnd
  rw [hx]
  refine if_pos ?_
  rw [decide_eq_true hend, Bool.and_true]
  cases he : x.close with
  | none => rfl
  | some e => exact decide_eq_true (hin e he)

/-- The parts of a Flyer's transmission: what a clean end sets. -/
def Chip.EndedClean (d : Chip) (n k : Nat) : Prop :=
  (d.fly n).tx = none ∧ d.fld FLYER.TX_STATUS_DRIVER_ON n = 0 ∧ d.fld FLYER.TX_STATUS_VIOL_RUN n = 0 ∧ d.fld FLYER.TRUNCATED_COUNT n = k

theorem Chip.driverOff_fly_ne (h : m ≠ n) : (c.driverOff m).fly n = c.fly n :=
  (Chip.fly_updFly_ne (c := c.budgetCount m) (fun f => { f with tx := none }) h.symm).trans (Chip.fly_updFly_ne _ h.symm)

/-- What the end of one transmission leaves of the Flyers, in a clock. -/
theorem Chip.cleanEnd_cases (c : Chip) (m : Nat) : c.cleanEnd m = c ∨ c.cleanEnd m = (c.driverOff m).setFld FLYER.TX_STATUS_VIOL_RUN 0 m := by
  unfold Chip.cleanEnd
  split
  · dsimp only
    split_ifs
    · exact .inr rfl
    · exact .inl rfl
  · exact .inl rfl

/-- A field of another instance of the page. -/
theorem FieldRow.key_ne_of_inst {r q : FieldRow} {i j : Nat} (hr : r.placed = true) (hq : q.placed = true) (hcls : q.cls = r.cls) (hi : i < 65536)
    (hj : j < 65536) (h : m ≠ n) : q.key n j ≠ r.key m i := by
  rw [FieldRow.placed, Bool.and_eq_true, decide_eq_true_iff, decide_eq_true_iff] at hr hq
  intro hk
  have hpage := ((cellKey_inj hq.1 hr.1 hq.2 hr.2 hj hi).mp hk).1
  rw [hcls] at hpage
  exact h (Nat.add_left_cancel hpage).symm

/-- The clean end of another Flyer's transmission. -/
theorem Chip.cleanEnd_other (h : m ≠ n) :
    (c.cleanEnd m).fly n = c.fly n ∧ ∀ r : FieldRow, (r.placed && decide (r.cls = .flyer)) = true → (c.cleanEnd m).fld r n = c.fld r n := by
  rcases c.cleanEnd_cases m with hc | hc <;> rw [hc]
  · exact ⟨rfl, fun _ _ => rfl⟩
  · have hset : ((c.driverOff m).setFld FLYER.TX_STATUS_VIOL_RUN 0 m).flyers = (c.driverOff m).flyers := rfl
    refine ⟨(Chip.fly_congr hset).trans (Chip.driverOff_fly_ne h), fun r hr => ?_⟩
    rw [Bool.and_eq_true, decide_eq_true_iff] at hr
    have hne (q : FieldRow) (hq : q.placed = true) (hcls : q.cls = .flyer) : r.key n 0 ≠ q.key m 0 :=
      FieldRow.key_ne_of_inst hq hr.1 (hr.2.trans hcls.symm) (by decide) (by decide) h
    have hoff : (c.driverOff m).fld r n = c.fld r n :=
      Chip.fld_setFld_ne _ FLYER.TX_STATUS_DRIVER_ON r 0 m 0 n 0 (hne FLYER.TX_STATUS_DRIVER_ON (by decide) rfl)
    rw [Chip.fld_setFld_ne _ FLYER.TX_STATUS_VIOL_RUN r 0 m 0 n 0 (hne FLYER.TX_STATUS_VIOL_RUN (by decide) rfl), hoff]

theorem Chip.endedClean_keeps {k : Nat} (h : m ≠ n) (hc : c.EndedClean n k) : (c.cleanEnd m).EndedClean n k := by
  obtain ⟨hfly, hfld⟩ := Chip.cleanEnd_other (c := c) h
  obtain ⟨htx, hon, hrun, hcut⟩ := hc
  exact ⟨by rw [hfly, htx], (hfld _ (by decide)).trans hon, (hfld _ (by decide)).trans hrun, (hfld _ (by decide)).trans hcut⟩

theorem Chip.cleanEnd_endedClean (hn : n < 96) (hx : (c.fly n).tx = some x) (hend : x.endAt ≤ c.now)
    (hin : ∀ e, x.close = some e → (x.endAt : Int) ≤ c.tickFrom e) : (c.cleanEnd n).EndedClean n (c.fld FLYER.TRUNCATED_COUNT n) := by
  obtain ⟨htx, hon⟩ := Chip.driverOff_silent (c := c) (n := n)
  rw [Chip.cleanEnd_ends hx hend hin]
  have hcut : (c.driverOff n).fld FLYER.TRUNCATED_COUNT n = c.fld FLYER.TRUNCATED_COUNT n :=
    (c.driverOff_frame hn).fld_apart FLYER.TRUNCATED_COUNT n 0 (by decide) hn (by decide)
  have hset : ((c.driverOff n).setFld FLYER.TX_STATUS_VIOL_RUN 0 n).flyers = (c.driverOff n).flyers := rfl
  refine ⟨(congrArg Flyer.tx (Chip.fly_congr hset)).trans htx, ?_, Chip.fld_setFld_self _ _ _ _ _, ?_⟩
  · rw [Chip.fld_setFld_apart (by decide) hn (by decide) hn (by decide), hon]
  · rw [Chip.fld_setFld_apart (by decide) hn (by decide) hn (by decide), hcut]

/-- A fold that comes to `k` once. -/
theorem foldl_visits {α : Type} {f : α → Nat → α} {before after : α → Prop} {k : Nat} (hbefore : ∀ a m, m ≠ k → before a → before (f a m))
    (hvisit : ∀ a, before a → after (f a k)) (hafter : ∀ a m, m ≠ k → after a → after (f a m)) {l : List Nat} (hl : l.Nodup) (hk : k ∈ l) (a : α)
    (ha : before a) : after (l.foldl f a) := by
  induction l generalizing a with
  | nil => cases hk
  | cons y ys ih =>
    rw [List.nodup_cons] at hl
    rcases List.mem_cons.mp hk with rfl | hin
    · have hkeep (zs : List Nat) (hzs : k ∉ zs) (b : α) (hb : after b) : after (zs.foldl f b) := by
        induction zs generalizing b with
        | nil => exact hb
        | cons z zs ihz =>
          rw [List.mem_cons, not_or] at hzs
          exact ihz hzs.2 _ (hafter _ _ (Ne.symm hzs.1) hb)
      exact hkeep ys hl.1 _ (hvisit _ ha)
    · exact ih hl.2 hin _ (hbefore _ _ (fun h => hl.1 (h ▸ hin)) ha)

theorem Chip.cleanEnd_whorl (c : Chip) (m : Nat) : (c.cleanEnd m).whorl = c.whorl := by
  rcases c.cleanEnd_cases m with hc | hc
  · rw [hc]
  · rw [hc]
    rfl

/-- The ends of all the Flyers' transmissions, seen at one of them. -/
theorem Chip.cleanEnds_endedClean (hn : n < 96) (hx : (c.fly n).tx = some x) (hend : x.endAt ≤ c.now)
    (hin : ∀ e, x.close = some e → (x.endAt : Int) ≤ c.tickFrom e) :
    ((List.range 96).foldl Chip.cleanEnd c).EndedClean n (c.fld FLYER.TRUNCATED_COUNT n) := by
  refine foldl_visits (before := fun d => d.whorl = c.whorl ∧ d.fly n = c.fly n ∧ d.fld FLYER.TRUNCATED_COUNT n = c.fld FLYER.TRUNCATED_COUNT n)
    (after := fun d => d.EndedClean n (c.fld FLYER.TRUNCATED_COUNT n)) (fun d m hm hd => ?_) (fun d hd => ?_)
    (fun d m hm => Chip.endedClean_keeps hm) List.nodup_range (List.mem_range.mpr hn) c ⟨rfl, rfl, rfl⟩
  · obtain ⟨hw, hf, hk⟩ := hd
    obtain ⟨hfly, hfld⟩ := Chip.cleanEnd_other (c := d) hm
    exact ⟨(d.cleanEnd_whorl m).trans hw, hfly.trans hf, (hfld _ (by decide)).trans hk⟩
  · obtain ⟨hw, hf, hk⟩ := hd
    have hnow : d.now = c.now := congrArg Whorl.mono hw
    have hfrom (t : Int) : d.tickFrom t = c.tickFrom t := by rw [Chip.tickFrom, Chip.tickFrom, hnow, hw]
    rw [← hk]
    exact Chip.cleanEnd_endedClean hn (hf ▸ hx) (hnow ▸ hend) fun e he => (hfrom e) ▸ hin e he

/-! ### The clock -/

/-- The parts and the rows that the clock's counters change before the transmissions end. -/
def countParts : List Part := [.whorl, .aon, .modes, .power, .freeCtr, .ply, .uplinks]
def countSpots : List Spot := [.evt .whorl, .upto WHORL.MARK_CTRL_ACTIVE, .upto WHORL.MARK_CTRL_MODE, .upto WHORL.MARK_MISSED_COUNT,
  .evt .power, .one GLOBAL.WDOG_REMAIN_COUNT, .one POWER.THROTTLE_CNT_COUNT, .one PLY.MS_COUNT_MS, .one UPLINK.PAUSED_TIME_US]

/-- The counters of one AON clock but the ends of transmissions. -/
def Chip.countersTaken (c : Chip) (eff : Nat) : Chip :=
  (List.range 4).foldl (fun d n => d.pauseTick n eff) ((((((List.range 11).foldl Chip.laneWakeTick
    ((c.timeTick eff).slewTick eff).marksTick).distaffTick.wdogTick eff).throttleTick eff).bistTick).plyTick eff)

theorem Chip.clockCounted_eq (eff : Nat) : c.clockCounted eff = (List.range 96).foldl Chip.cleanEnd (c.countersTaken eff) := rfl

theorem Chip.countersTaken_frame (eff : Nat) : c.Frame countParts (Touched countSpots) (c.countersTaken eff) := by
  refine Chip.away_eq_iff.mp ?_
  have hpause (d : Chip) : ((List.range 4).foldl (fun e n => e.pauseTick n eff) d).away countParts countSpots = d.away countParts countSpots :=
    Chip.away_foldl fun e n hn => Chip.away_pauseTick (by decide) (by decide) (List.mem_range.mp hn)
  have hlanes (d : Chip) : ((List.range 11).foldl Chip.laneWakeTick d).away countParts countSpots = d.away countParts countSpots :=
    Chip.away_foldl fun e n _ => Chip.away_laneWakeTick (by decide) (by decide)
  have hmarks (d : Chip) : d.marksTick.away countParts countSpots = d.away countParts countSpots :=
    Chip.away_foldl fun e k hk => by
      rw [Chip.away_ite, Chip.away_markArm ((List.mem_range.mp hk).trans (by decide)) (by decide) (by decide), ite_self]
  rw [Chip.countersTaken, hpause, Chip.away_plyTick (by decide) (by decide), Chip.away_bistTick (by decide),
    Chip.away_throttleTick (by decide) (by decide), Chip.away_wdogTick (by decide) (by decide), Chip.away_distaffTick (by decide), hlanes, hmarks,
    Chip.away_slewTick (by decide), Chip.away_timeTick (by decide)]

/-- The start of a clock and its counters, seen at a Flyer. -/
theorem Chip.clockTick_fly : c.clockTick.fly n = c.fly n := by
  have hstart : c.clockStarted.fly n = c.fly n := Chip.fly_congr (c.clockStarted_frame.flyers (by decide))
  rw [Chip.clockTick_eq]
  cases hr : c.clockStarted.reel.admitResult with
  | none =>
    unfold Chip.admitShow
    rw [hr]
    exact hstart
  | some cause =>
    rw [Chip.admitShow_some hr]
    exact (Chip.fly_congr (Chip.raise_flyers _ _ _)).trans hstart

/-- The rows of the start of a clock. -/
def startSpots : List Spot := [.one DISTAFF.DIR_STATUS_BUSY, .one REEL.CTX_STATUS_BUSY, .one REEL.C7_ADMIT_STATUS_STATE,
  .one REEL.C7_ADMIT_STATUS_CAUSE, .evt .reel]

theorem Chip.clockTick_frame : c.Frame [.resetting, .reel] (Touched startSpots) c.clockTick := by
  have hstart : c.Frame [.resetting, .reel] (Touched startSpots) c.clockStarted :=
    ((((Chip.Frame.refl c).withResetting [] (by decide)).regs _ [] fun _ _ _ => rfl).setFld _ _ 0 0 (cells_one (by decide) (by decide))).setFld
      _ _ 0 0 (cells_one (by decide) (by decide))
  rw [Chip.clockTick_eq]
  refine hstart.trans (Chip.away_eq_iff.mp ?_)
  cases hr : c.clockStarted.reel.admitResult with
  | none =>
    unfold Chip.admitShow
    rw [hr]
  | some cause =>
    obtain ⟨hcls, -⟩ := admitEvt_cls (cause := cause)
    have htell : Spot.evt (admitEvt cause).cls ∈ startSpots := by rw [hcls]; decide
    rw [Chip.admitShow_some hr]
    exact (Chip.away_raise (v := admitEvt cause) htell (by rw [hcls]; decide)).trans ((Chip.away_setFld (by decide) (by decide)).trans
      ((Chip.away_setFld (by decide) (by decide)).trans (Chip.away_withReel (by decide))))
end

/-! ### The obligation -/

section
variable {s : State} {n : Fin 96} {quiet : Nat} {x : SegTx}

theorem ends_judged {ok : Chip → Prop} (hx : (s.chip.eng n.val).lastTx = some x) (hs : x.start ≤ s.chip.now)
    (h : ok (s.chip.ended ((s.chip.taken n.val).judgeTx n.val x.start (s.chip.eng n.val).txEnd quiet))) : Ends (.txAttempt n quiet) s ok := by
  refine ends_of exec_txAttempt ?_
  rw [Chip.txAttempt_judges hx hs]
  exact h

/-- A field of the Flyer after the command. -/
theorem ended_flyer {b d : Chip} {r : FieldRow} (h : (r.placed && r.cls.unlevelled) = true) (hc : r.cls.count = 96) :
    (b.ended d).fld r n.val = d.fld r n.val := Chip.ended_inst h (by rw [hc]; exact n.isLt) (by decide)

theorem ended_fly {b d : Chip} : (b.ended d).fly n.val = d.fly n.val := Chip.fly_congr (b.ended_flyers d)

theorem ended_lastTx {b d c : Chip} (h : d.segs = (c.taken n.val).segs) : ((b.ended d).eng n.val).lastTx = none :=
  (congrArg SegEng.lastTx (Chip.eng_congr ((b.ended_segs d).trans h))).trans Chip.taken_lastTx

/-- An attempt that is blocked, and counts as a violation. -/
theorem blocked_violates {c d e b : Chip} (hd : d = e.blockTx n.val true) (hl : c.on FLYER.TX_STATUS_LATCHED n.val = false)
    (hrows : ∀ r ∈ FLYER.BLOCKED_COUNT :: violRows, e.fld r n.val = c.fld r n.val) (hup : e.domUp .aon = c.domUp .aon)
    (hsegs : e.segs = (c.taken n.val).segs) :
    c.Counts (b.ended d) FLYER.BLOCKED_COUNT n.val ∧ c.Violates (b.ended d) n.val ∧ ((b.ended d).eng n.val).lastTx = none := by
  have hrow := fun r hr => hrows r (.tail _ hr)
  have hon : e.on FLYER.TX_STATUS_LATCHED n.val = false := (congrArg (· != 0) (hrow _ (.tail _ (.head _)))).trans hl
  have hcount : c.Counts (e.blockTx n.val true) FLYER.BLOCKED_COUNT n.val := by
    rw [Chip.Counts, ← hrows _ (.head _)]
    exact Chip.blockTx_counted n.isLt
  subst hd
  exact ⟨hcount.inst (by decide) n.isLt, (Chip.blockTx_violates n.isLt hon hrow hup).ended n.isLt,
    ended_lastTx ((Chip.blockTx_segs n.isLt).trans hsegs)⟩

theorem taken_blocked_violates {c b : Chip} (hl : c.on FLYER.TX_STATUS_LATCHED n.val = false) :
    let d := b.ended ((c.taken n.val).blockTx n.val true)
    c.Counts d FLYER.BLOCKED_COUNT n.val ∧ c.Violates d n.val ∧ (d.eng n.val).lastTx = none :=
  blocked_violates rfl hl (fun _ _ => rfl) rfl rfl

/-- An attempt that is blocked as the budget is spent. -/
theorem spent_violates {c b : Chip} (hl : c.on FLYER.TX_STATUS_LATCHED n.val = false) :
    let d := b.ended (((c.taken n.val).fault FLYER.FAULT_STATUS_BUDGET n.val).blockTx n.val true)
    d.fld FLYER.FAULT_STATUS_BUDGET n.val = 1 ∧ c.Counts d FLYER.BLOCKED_COUNT n.val ∧ c.Violates d n.val := by
  have hfault : (c.taken n.val).Frame [] (Touched [.one FLYER.FAULT_STATUS_BUDGET, .evt .flyer])
      ((c.taken n.val).fault FLYER.FAULT_STATUS_BUDGET n.val) := Chip.fault_frame n.isLt n.isLt
  have hset : ((c.taken n.val).fault FLYER.FAULT_STATUS_BUDGET n.val).fld FLYER.FAULT_STATUS_BUDGET n.val = 1 :=
    Chip.fault_sets (by decide) (by decide) n.isLt n.isLt
  obtain ⟨hcount, hviol, -⟩ := blocked_violates (b := b) (c := c) (e := (c.taken n.val).fault FLYER.FAULT_STATUS_BUDGET n.val) rfl hl
    (fun r hr => by
      have hcls : r.cls.count = 96 ∧ (r.placed && [Spot.one FLYER.FAULT_STATUS_BUDGET, .evt .flyer].all r.apart) = true := by
        revert r
        decide
      exact hfault.fld_apart r n.val 0 hcls.2 (by rw [hcls.1]; exact n.isLt) (by decide))
    (hfault.domUp .aon (not_touched (by decide) 0 0 (by decide) (by decide))) (hfault.segs (by decide))
  refine ⟨(ended_flyer (by decide) rfl).trans (Eq.trans ?_ hset), hcount, hviol⟩
  have hblock : ((c.taken n.val).fault FLYER.FAULT_STATUS_BUDGET n.val).Frame [.flyers] (Touched (.one FLYER.BLOCKED_COUNT :: violSpots))
      (((c.taken n.val).fault FLYER.FAULT_STATUS_BUDGET n.val).blockTx n.val true) :=
    Chip.away_eq_iff.mp (Chip.away_blockTx (by decide) (by decide) n.isLt)
  exact hblock.fld_apart FLYER.FAULT_STATUS_BUDGET n.val 0 (by decide) n.isLt (by decide)

theorem allowed_ended {c b : Chip} (y : FlyTx) :
    (b.ended ((c.taken n.val).allowTx n.val y)).fld FLYER.TX_STATUS_DRIVER_ON n.val = 1 ∧
      ((b.ended ((c.taken n.val).allowTx n.val y)).fly n.val).tx = some y ∧
      ((b.ended ((c.taken n.val).allowTx n.val y)).eng n.val).lastTx = none := by
  obtain ⟨hon, hfly⟩ := (c.taken n.val).allowTx_says (n := n.val) y
  exact ⟨(ended_flyer (by decide) rfl).trans hon, congrArg Flyer.tx (ended_fly.trans hfly), ended_lastTx rfl⟩

theorem ext_ended {c b : Chip} (t close stop : Nat) :
    (b.ended ((c.taken n.val).extTx n.val t close stop)).fld FLYER.TX_STATUS_DRIVER_ON n.val = 1 ∧
      (b.ended ((c.taken n.val).extTx n.val t close stop)).fly n.val =
        { c.fly n.val with extUsed := true, tx := some { start := t, close := some close, endAt := stop } } := by
  obtain ⟨hon, hfly⟩ := (c.taken n.val).extTx_says (n := n.val) (t := t) (stop := stop) close
  exact ⟨(ended_flyer (by decide) rfl).trans hon, ended_fly.trans hfly⟩

theorem Chip.judgeTx_windowed {c : Chip} {t stop : Nat} (h : c.flySt n.val ∈ [fySYNCWAIT, fySYNC]) (hf : c.TxFree n.val) {w : Option Nat}
    {ext : Bool} (hw : c.windowClose n.val t = w) (hext : c.extCovers n.val t = ext) :
    (c.taken n.val).judgeTx n.val t stop quiet = (c.taken n.val).judgeBy n.val t stop w ext := by
  have hw' : (c.taken n.val).windowClose n.val t = w := hw
  have hext' : (c.taken n.val).extCovers n.val t = ext := hext
  rw [Chip.judgeTx_window (c := c.taken n.val) h hf, hw', hext']

/-- One AON clock, seen at a Flyer whose transmission is on. -/
theorem step_endedClean {y : FlyTx} (hy : (s.chip.fly n.val).tx = some y) (hp : s.pending = []) (hm : s.chip.mode ≠ mRESET) :
    ∃ t, step s = .next t ∧ (y.endAt ≤ t.chip.now → (∀ e : Nat, y.close = some e → (y.endAt : Int) ≤ t.chip.tickFrom e) →
      t.chip.EndedClean n.val (s.chip.fld FLYER.TRUNCATED_COUNT n.val)) := by
  refine ⟨_, (step_nil hp).trans (run_ended Chip.tick s), fun hend hin => ?_⟩
  have hcount := s.chip.clockTick.countersTaken_frame s.chip.incEff
  have hstart : s.chip.clockTick.fld FLYER.TRUNCATED_COUNT n.val = s.chip.fld FLYER.TRUNCATED_COUNT n.val :=
    s.chip.clockTick_frame.fld_apart FLYER.TRUNCATED_COUNT n.val 0 (by decide) n.isLt (by decide)
  have htick : s.chip.tick = (List.range 96).foldl Chip.cleanEnd (s.chip.clockTick.countersTaken s.chip.incEff) := Chip.tick_eq hm
  dsimp only at hend hin ⊢
  rw [htick] at hend hin ⊢
  have hfly : ((s.chip.clockTick.countersTaken s.chip.incEff).fly n.val).tx = some y := by
    rw [Chip.fly_congr (hcount.flyers (by decide)), Chip.clockTick_fly]
    exact hy
  have hcut := (hcount.fld_apart FLYER.TRUNCATED_COUNT n.val 0 (by decide) n.isLt (by decide)).trans hstart
  generalize s.chip.clockTick.countersTaken s.chip.incEff = d at hfly hcut hend hin
  have hwhorl : (s.chip.ended ((List.range 96).foldl Chip.cleanEnd d)).whorl = d.whorl :=
    (Chip.ended_whorl _ _).trans (List.foldlRecOn (motive := fun e : Chip => e.whorl = d.whorl) (List.range 96) Chip.cleanEnd rfl
      fun (e : Chip) he m _ => (e.cleanEnd_whorl m).trans he)
  have hnow : (s.chip.ended ((List.range 96).foldl Chip.cleanEnd d)).now = d.now := congrArg Whorl.mono hwhorl
  have hfrom (t : Int) : (s.chip.ended ((List.range 96).foldl Chip.cleanEnd d)).tickFrom t = d.tickFrom t := by
    rw [Chip.tickFrom, Chip.tickFrom, hnow, hwhorl]
  obtain ⟨htx, hon, hrun, hkeep⟩ := Chip.cleanEnds_endedClean n.isLt hfly (hnow ▸ hend) fun e he => (hfrom e) ▸ hin e he
  rw [hcut] at hkeep
  exact ⟨(congrArg Flyer.tx ended_fly).trans htx, (ended_flyer (by decide) rfl).trans hon, (ended_flyer (by decide) rfl).trans hrun,
    (ended_flyer (by decide) rfl).trans hkeep⟩
end

/-- Settles O32: each branch of the judgement of an attempt, a cut at the close of a window, and the clean end in a clock. -/
theorem driverWindowsGuard : Obligations.DriverWindowsGuard := by
  unfold Obligations.DriverWindowsGuard
  intro s n quiet c f st viol violates
  have hidle : (∀ x e, f.tx = some x → x.close = some e → (x.endAt : Int) ≤ c.tickFrom e ∨ c.now < e) → Idles (.windowCloseCut n) s :=
    fun h => idles_of exec_windowCloseCut (Chip.windowCut_idle h)
  refine ⟨fun x hx hs => ?_, fun h => idles_of exec_txAttempt (Chip.txAttempt_none h), fun x e hx he h => hidle fun y k hy hk => ?_,
    fun x e hx he h1 h2 => ?_, fun h => hidle fun y k hy => ?_, fun x hx hp hm => ?_⟩
  · intro stop allowed free
    have hfree (h : free) : c.TxFree n.val := h
    refine ⟨fun hst hsup hl => ends_judged hx hs ?_, fun hst hf hq hb => ends_judged hx hs ?_, fun hst hf hb => ends_judged hx hs ?_,
      fun hst hf hb hq => ends_judged hx hs ?_, fun hst hf hw hext => ends_judged hx hs ?_,
      fun e hst hf hw => ⟨fun hext => ends_judged hx hs ?_, fun hext => ends_judged hx hs ?_⟩,
      fun hst hl => ⟨fun hen => ends_judged hx hs ?_, fun hen => ends_judged hx hs ?_⟩, fun hst hf hw hext => ends_judged hx hs ?_,
      fun hst hl => ?_, fun hst hr => ends_judged hx hs ?_⟩
    · rw [Chip.judgeTx_open (c := c.taken n.val) hst hsup hl]
      exact allowed_ended _
    · rw [Chip.judgeTx_budgeted (c := c.taken n.val) hst (hfree hf) hb hq]
      obtain ⟨hon, htx, -⟩ := allowed_ended (n := n) (c := c) (b := c)
        { start := x.start, close := some (x.start + 60000 * nsQ), endAt := stop, unsync := true }
      exact ⟨hon, htx⟩
    · rw [Chip.judgeTx_spent (c := c.taken n.val) hst (hfree hf) hb]
      exact spent_violates hf.2.1
    · rw [Chip.judgeTx_early (c := c.taken n.val) hst (hfree hf) hb hq]
      obtain ⟨hcount, hviol, -⟩ := taken_blocked_violates (b := c) hf.2.1
      exact ⟨hcount, hviol⟩
    · rw [Chip.judgeTx_windowed hst (hfree hf) hw hext]
      obtain ⟨hon, hfly⟩ := ext_ended (n := n) (c := c) (b := c) x.start (x.start + 60000 * nsQ) stop
      have hend := congrArg Flyer.extEnd hfly
      exact ⟨hon, congrArg Flyer.extUsed hfly, hend, congrArg Flyer.tx hfly⟩
    · rw [Chip.judgeTx_windowed hst (hfree hf) hw hext]
      exact allowed_ended _
    · rw [Chip.judgeTx_windowed hst (hfree hf) hw hext]
      obtain ⟨-, hfly⟩ := ext_ended (n := n) (c := c) (b := c) x.start (max e (x.start + 60000 * nsQ)) stop
      exact ⟨congrArg Flyer.extUsed hfly, congrArg Flyer.tx hfly⟩
    · rw [Chip.judgeTx_off (c := c.taken n.val) hst (beq_eq_false_iff_ne.mpr hen)]
      obtain ⟨hviol, hfly⟩ := Chip.blockTx_refused (c := c.taken n.val) n.isLt hl
      exact ⟨(Chip.blockTx_counted (c := c.taken n.val) n.isLt).inst (by decide) n.isLt, (ended_flyer (by decide) rfl).trans hviol,
        ended_lastTx (Chip.blockTx_segs n.isLt), (ended_flyer (by decide) rfl).trans (Chip.blockTx_viol_run n.isLt),
        (Chip.ended_flyers _ _).trans hfly⟩
    · rw [Chip.judgeTx_off (c := c.taken n.val) hst (beq_iff_eq.mpr hen)]
      exact taken_blocked_violates hl
    · rw [Chip.judgeTx_windowed hst (hfree hf) hw hext]
      exact taken_blocked_violates hf.2.1
    · obtain ⟨b, hb⟩ := Chip.judgeTx_latched (c := c.taken n.val) (t := x.start) (stop := stop) (quiet := quiet) hst hl
      have hbump : c.txAttempt n.val quiet = (c.taken n.val).bump FLYER.BLOCKED_COUNT n.val := by
        rw [Chip.txAttempt_judges hx hs, hb, Chip.blockTx_latched (c := c.taken n.val) n.isLt hl]
      refine becomes_of exec_txAttempt ?_ ?_ <;> rw [hbump]
      · exact (Chip.Frame.refl (c.taken n.val)).bump _ _ 0 (List.mem_singleton.mpr rfl)
      · exact Chip.Counts.inst (c := c) (Chip.counts_bump (c.taken n.val) _ _) (by decide) n.isLt
    · rw [Chip.judgeTx_refclk (c := c.taken n.val) hst hr]
      exact ⟨(Chip.blockTx_counted (c := c.taken n.val) n.isLt).inst (by decide) n.isLt,
        (ended_flyer (by decide) rfl).trans (Chip.blockTx_viol_run n.isLt)⟩
  · rw [hx] at hy
    cases hy
    rw [he] at hk
    cases hk
    exact h
  · refine ends_of exec_windowCloseCut ?_
    rw [Chip.windowCut_cuts hx he h1 h2]
    obtain ⟨⟨htx, hon⟩, hcount, hviol⟩ := Chip.cutTx_says (c := c) n.isLt rfl
    exact ⟨(congrArg Flyer.tx ended_fly).trans htx, (ended_flyer (by decide) rfl).trans hon, hcount.inst (by decide) n.isLt,
      hviol.ended n.isLt⟩
  · exact absurd (h.symm.trans hy) (by simp)
  · obtain ⟨t, ht, hok⟩ := step_endedClean hx hp hm
    exact ⟨t, ht, hok⟩

end Sys2Proof.Machine
end

section
/-!
PROOF. Babbling, its containment by cutting segment power, and the chain of the segment power switches (R190 to R194).
-/
namespace Sys2Proof.Machine

theorem exec_babbleOverrun {n : Fin 96} {t : Fin 65} {s : State} :
    exec (.babbleOverrun n t) s = run (fun c => c.babbleOverrun n.val t.val) s := rfl
theorem exec_strayEnergy {n : Fin 96} {stamp : BitVec 96} {src : Option (BitVec 48)} {collision : Bool} {s : State} :
    exec (.strayEnergy n stamp src collision) s =
      run (fun c => c.strayEnergy n.val (stamp.toNat : Int) (src.map BitVec.toNat) collision) s := rfl
theorem exec_cutRestore {n : Fin 96} {s : State} :
    exec (.cutRestore n) s = run (fun c => c.whenDue (c.cutOver n.val) fun d => d.cutRestore n.val) s := rfl
theorem exec_cleanRenew {n : Fin 96} {s : State} : exec (.cleanRenew n) s =
    run (fun c => c.whenDue (c.cleanDue n.val) fun d => d.updFly n.val fun f => { f with cutCount := 0, cleanFrom := d.now }) s := rfl
theorem exec_segpwrFrame {s : State} : exec .segpwrFrame s = run (fun c => c.whenDue c.chainDue Chip.chainFrame) s := rfl
theorem exec_segpwrLatch {s : State} : exec .segpwrLatch s = run Chip.chainLatch s := rfl

section
variable {a c d : Chip} {n k j : Nat}

/-! ### Drift entries -/

theorem Chip.driftRec_congr (h : d.drift = c.drift) : d.driftRec n k = c.driftRec n k := by rw [Chip.driftRec, h, Chip.driftRec]

theorem Chip.driftRec_setDrift_self (x : Drift) : (c.setDrift n k x).driftRec n k = x := Tab.get_put_self _ _ _ _

theorem Chip.driftRec_setDrift_ne (x : Drift) (h : j ≠ k) : (c.setDrift n k x).driftRec n j = c.driftRec n j :=
  Tab.get_put_ne _ _ _ _ fun he => h (Nat.add_left_cancel he)

/-- A change of each drift entry of a Flyer, one after another. -/
theorem Chip.driftRec_foldl (f : Nat → Drift → Drift) (hj : j < 64) :
    ((List.range 64).foldl (fun d k => d.setDrift n k (f k (d.driftRec n k))) c).driftRec n j = f j (c.driftRec n j) :=
  (obs_foldl_of_mem (f := fun (d : Chip) k => d.setDrift n k (f k (d.driftRec n k))) (obs := fun (d : Chip) j => d.driftRec n j)
    (same := fun _ _ => True) (fun _ _ => trivial) (fun _ _ _ h => Chip.driftRec_setDrift_ne _ h.symm) (fun a b k _ h => by
      rw [Chip.driftRec_setDrift_self, Chip.driftRec_setDrift_self, h]) List.nodup_range (List.mem_range.mpr hj) c).trans
    (Chip.driftRec_setDrift_self _)

theorem Chip.fault_drift (c : Chip) (r : FieldRow) (n : Nat) : (c.fault r n).drift = c.drift := Chip.raise_drift _ _ _

/-! ### A cut (R192) -/

/-- Segment power may be cut. -/
def Chip.MayCut (c : Chip) (n : Nat) : Prop :=
  c.on FLYER.CONTAIN_CFG_POLICY n = true ∧ c.fld FLYER.PWR_CTRL_STATE n = pwON ∧
    ¬ (c.mode = mSAFE ∧ c.on FLYER.CONTAIN_CFG_NO_CUT_IN_SAFE n = true)

/-- A cut is held: its retries are used up. -/
def Chip.cutHeld (c : Chip) (n : Nat) : Bool := decide (c.fld FLYER.CONTAIN_CFG_RETRIES n ≤ (c.fly n).cutCount)

/-- Segment power off, and the clean time from now. -/
def Chip.cutPower (c : Chip) (n : Nat) : Chip :=
  (c.updFly n fun f => { f with cleanFrom := c.now }).power1 n fun d => d.setFld FLYER.PWR_CTRL_STATE (if c.cutHeld n then pwHELD else pwCUT) n

def Chip.cutCounted (c : Chip) (n : Nat) : Chip :=
  (c.bump FLYER.CUTS_COUNT n).updFly n fun f => { f with cutCount := f.cutCount + 1, cutAt := c.now }

def Chip.cutCauses (c : Chip) (n : Nat) (node : Option Nat) : Chip :=
  (List.range 64).foldl (fun d k => d.setDrift n k { d.driftRec n k with cutCause := some k == node }) c

def Chip.cutTold (c : Chip) (n : Nat) (held : Bool) : Chip :=
  if held then (c.fault FLYER.FAULT_STATUS_POWER_CUT n).fault FLYER.FAULT_STATUS_POWER_HELD n else c.fault FLYER.FAULT_STATUS_POWER_CUT n

theorem Chip.contain_cuts {node : Option Nat} (h : c.MayCut n) :
    c.contain n node = (((c.cutPower n).cutCounted n).cutCauses n node).cutTold n (c.cutHeld n) := by
  obtain ⟨hpol, hst, hsafe⟩ := h
  have hfly : ((c.updFly n fun f => { f with cleanFrom := c.now }).fly n).cutCount = (c.fly n).cutCount := by
    rw [Chip.fly_updFly_self]
  have hgate : (c.on FLYER.CONTAIN_CFG_POLICY n && c.fld FLYER.PWR_CTRL_STATE n == pwON &&
      !(c.mode == mSAFE && c.on FLYER.CONTAIN_CFG_NO_CUT_IN_SAFE n)) = true := by
    rw [hpol, hst, Bool.and_eq_true, Bool.not_eq_true', Bool.and_eq_false_iff]
    refine ⟨rfl, ?_⟩
    by_cases hm : c.mode = mSAFE
    · exact .inr (Bool.eq_false_iff.mpr fun hon => hsafe ⟨hm, hon⟩)
    · exact .inl (beq_eq_false_iff_ne.mpr hm)
  unfold Chip.contain
  refine (if_pos hgate).trans ?_
  rw [hfly]
  rfl

theorem Chip.contain_keeps {node : Option Nat} (h : ¬ c.MayCut n) : c.contain n node = c.updFly n fun f => { f with cleanFrom := c.now } := by
  unfold Chip.contain
  refine if_neg fun hgate => h ?_
  rw [Bool.and_eq_true, Bool.and_eq_true, Bool.not_eq_true', Bool.and_eq_false_iff] at hgate
  obtain ⟨⟨hpol, hst⟩, hsafe⟩ := hgate
  refine ⟨hpol, beq_iff_eq.mp hst, fun hm => ?_⟩
  rcases hsafe with hs | hs
  · exact absurd (beq_iff_eq.mpr hm.1) (Bool.eq_false_iff.mp hs)
  · exact absurd hm.2 (Bool.eq_false_iff.mp hs)

/-! ### What each part of a cut leaves -/

theorem Chip.cutPower_frame (hn : n < 96) : c.Frame [.flyers, .chain] (Touched [.one FLYER.PWR_CTRL_STATE]) (c.cutPower n) :=
  Chip.away_eq_iff.mp ((Chip.away_power1 (by decide) (Chip.away_setFld (by decide) hn)).trans (Chip.away_updFly (by decide)))

theorem Chip.power1_fld {f : Chip → Chip} {r : FieldRow} {m : Nat} : (c.power1 n f).fld r m = (f c).fld r m := by
  unfold Chip.power1
  dsimp only
  split_ifs
  · rfl
  · rfl

theorem Chip.power1_flyers {f : Chip → Chip} : (c.power1 n f).flyers = (f c).flyers := by
  unfold Chip.power1
  dsimp only
  split_ifs
  · rfl
  · rfl

theorem Chip.power1_drift {f : Chip → Chip} : (c.power1 n f).drift = (f c).drift := by
  unfold Chip.power1
  dsimp only
  split_ifs
  · rfl
  · rfl

theorem Chip.cutPower_state : (c.cutPower n).fld FLYER.PWR_CTRL_STATE n = if c.cutHeld n then pwHELD else pwCUT := by
  rw [Chip.cutPower, Chip.power1_fld, Chip.fld_setFld_self]
  split
  · rfl
  · rfl

theorem Chip.cutPower_drift : (c.cutPower n).drift = c.drift := by
  rw [Chip.cutPower, Chip.power1_drift]
  rfl

theorem Chip.cutPower_unattrRun : ((c.cutPower n).fly n).unattrRun = (c.fly n).unattrRun := by
  have hfly : ((c.updFly n fun f => { f with cleanFrom := c.now }).fly n).unattrRun = (c.fly n).unattrRun := by
    rw [Chip.fly_updFly_self]
  rw [Chip.cutPower, Chip.fly_congr Chip.power1_flyers]
  exact hfly

theorem Chip.cutCounted_frame (hn : n < 96) : c.Frame [.flyers] (Touched [.one FLYER.CUTS_COUNT]) (c.cutCounted n) :=
  Chip.away_eq_iff.mp ((Chip.away_updFly (by decide)).trans (Chip.away_bump (by decide) hn))

theorem Chip.cutCauses_frame {node : Option Nat} {K : Nat → Prop} : c.Frame [.drift] K (c.cutCauses n node) :=
  (Chip.Frame.refl c).foldl _ fun d k _ => (Chip.Frame.refl d).withDrift _ (by decide)

def cutToldSpots : List Spot := [.evt .flyer, .one FLYER.FAULT_STATUS_POWER_CUT, .one FLYER.FAULT_STATUS_POWER_HELD]

theorem Chip.cutTold_frame {held : Bool} (hn : n < 96) : c.Frame [] (Touched cutToldSpots) (c.cutTold n held) := by
  refine Chip.away_eq_iff.mp ?_
  cases held with
  | false => exact Chip.away_fault (by decide) (by decide) hn hn
  | true => exact (Chip.away_fault (by decide) (by decide) hn hn).trans (Chip.away_fault (by decide) (by decide) hn hn)

theorem Chip.cutTold_sets {held : Bool} (hn : n < 96) : (c.cutTold n held).fld FLYER.FAULT_STATUS_POWER_CUT n = 1 := by
  cases held with
  | false => exact Chip.fault_sets (by decide) (by decide) hn hn
  | true =>
    exact (Chip.fld_fault_apart FLYER.FAULT_STATUS_POWER_HELD FLYER.FAULT_STATUS_POWER_CUT (by decide) hn hn hn).trans
      (Chip.fault_sets (by decide) (by decide) hn hn)

/-- A cut in `d`, seen from `a`. -/
def Chip.CutIn (a d : Chip) (n : Nat) : Prop :=
  a.Counts d FLYER.CUTS_COUNT n ∧ d.fld FLYER.FAULT_STATUS_POWER_CUT n = 1 ∧
    d.fld FLYER.PWR_CTRL_STATE n = if a.fld FLYER.CONTAIN_CFG_RETRIES n ≤ (a.fly n).cutCount then pwHELD else pwCUT

theorem Chip.contain_cutIn {node : Option Nat} (hn : n < 96) (h : c.MayCut n) : c.CutIn (c.contain n node) n := by
  rw [Chip.contain_cuts h]
  have hpower := c.cutPower_frame hn
  have hst := c.cutPower_state (n := n)
  have hkeep : (c.cutPower n).fld FLYER.CUTS_COUNT n = c.fld FLYER.CUTS_COUNT n :=
    hpower.fld_apart FLYER.CUTS_COUNT n 0 (by decide) hn (by decide)
  have hcnt : (c.cutPower n).Counts ((c.cutPower n).cutCounted n) FLYER.CUTS_COUNT n := Chip.counts_bump (c.cutPower n) _ _
  have hst2 : ((c.cutPower n).cutCounted n).fld FLYER.PWR_CTRL_STATE n = (c.cutPower n).fld FLYER.PWR_CTRL_STATE n :=
    ((c.cutPower n).cutCounted_frame hn).fld_apart FLYER.PWR_CTRL_STATE n 0 (by decide) hn (by decide)
  have hcause := ((c.cutPower n).cutCounted n).cutCauses_frame (n := n) (node := node) (K := fun _ => False)
  generalize (c.cutPower n).cutCounted n = e at hcnt hst2 hcause
  have hfld (r : FieldRow) (hr : (r.placed && cutToldSpots.all r.apart) = true) (hc : r.cls.count = 96) :
      ((e.cutCauses n node).cutTold n (c.cutHeld n)).fld r n = e.fld r n :=
    ((Chip.cutTold_frame hn).fld_apart r n 0 hr (by rw [hc]; exact hn) (by decide)).trans (hcause.fld _ _ _ id)
  refine ⟨?_, Chip.cutTold_sets hn, ?_⟩
  · rw [Chip.Counts, hfld _ (by decide) rfl, ← hkeep]
    exact hcnt
  · rw [hfld _ (by decide) rfl, hst2, hst, Chip.cutHeld]
    simp only [decide_eq_true_eq]

theorem Chip.contain_driftRec {node : Option Nat} (hk : k < 64) (h : c.MayCut n) :
    (c.contain n node).driftRec n k = { c.driftRec n k with cutCause := some k == node } := by
  have htold (d : Chip) (held : Bool) : (d.cutTold n held).drift = d.drift := by
    cases held with
    | false => exact Chip.fault_drift _ _ _
    | true => exact (Chip.fault_drift _ _ _).trans (Chip.fault_drift _ _ _)
  have hcounted (d : Chip) : (d.cutCounted n).drift = d.drift := rfl
  rw [Chip.contain_cuts h, Chip.driftRec_congr (htold _ _), Chip.cutCauses,
    Chip.driftRec_foldl (f := fun k x => { x with cutCause := some k == node }) hk,
    Chip.driftRec_congr ((hcounted _).trans Chip.cutPower_drift)]

theorem Chip.contain_babbleRun {node : Option Nat} (hk : k < 64) : ((c.contain n node).driftRec n k).babbleRun = (c.driftRec n k).babbleRun := by
  by_cases h : c.MayCut n
  · rw [Chip.contain_driftRec hk h]
  · rw [Chip.contain_keeps h]
    rfl

theorem Chip.contain_unattrRun {node : Option Nat} : ((c.contain n node).fly n).unattrRun = (c.fly n).unattrRun := by
  by_cases h : c.MayCut n
  · have htold (d : Chip) (held : Bool) : (d.cutTold n held).flyers = d.flyers := by
      cases held with
      | false => exact Chip.fault_flyers _ _ _
      | true => exact (Chip.fault_flyers _ _ _).trans (Chip.fault_flyers _ _ _)
    have hcause (d : Chip) : (d.cutCauses n node).flyers = d.flyers :=
      (Chip.cutCauses_frame (K := fun _ => False)).flyers (by decide)
    have hcounted (d : Chip) : ((d.cutCounted n).fly n).unattrRun = (d.fly n).unattrRun := by
      rw [Chip.cutCounted, Chip.fly_updFly_self]
      rfl
    rw [Chip.contain_cuts h, Chip.fly_congr ((htold _ _).trans (hcause _)), hcounted, Chip.cutPower_unattrRun]
  · rw [Chip.contain_keeps h, Chip.fly_updFly_self]

theorem Chip.keepsEvents_cutPower : c.KeepsEvents (c.cutPower n) := by
  unfold Chip.cutPower Chip.power1
  exact .ite (fun _ => ((Chip.KeepsEvents.refl c).same rfl).setFld (by decide) (by decide) _ _)
    fun _ => (((Chip.KeepsEvents.refl c).same rfl).setFld (by decide) (by decide) _ _).same rfl

theorem Chip.keepsEvents_cutCauses {node : Option Nat} : c.KeepsEvents (c.cutCauses n node) := by
  unfold Chip.cutCauses
  refine Chip.KeepsEvents.foldl (List.range 64) (fun d k _ => ?_) c
  exact Chip.keepsEvents_of_regs (Eq.refl d.regs)

theorem Chip.keepsEvents_cutTold {held : Bool} : c.KeepsEvents (c.cutTold n held) := by
  cases held with
  | false => exact Chip.keepsEvents_fault (by decide)
  | true => exact (Chip.keepsEvents_fault (by decide)).trans (Chip.keepsEvents_fault (by decide))

theorem Chip.keepsEvents_contain {node : Option Nat} : c.KeepsEvents (c.contain n node) := by
  by_cases h : c.MayCut n
  · have hcounted (d : Chip) : d.KeepsEvents (d.cutCounted n) := ((Chip.KeepsEvents.refl d).bump (by decide) (by decide) _).same rfl
    rw [Chip.contain_cuts h]
    exact ((Chip.keepsEvents_cutPower.trans (hcounted _)).trans Chip.keepsEvents_cutCauses).trans Chip.keepsEvents_cutTold
  · rw [Chip.contain_keeps h]
    exact (Chip.KeepsEvents.refl c).same rfl

/-! ### Babbling that is told (R190, R191) -/

/-- A babble counted in `r` and told. -/
def Chip.babbled (c : Chip) (r : FieldRow) (n : Nat) : Chip := (c.bump r n).fault FLYER.FAULT_STATUS_BABBLE n

/-- A babble in `d`, seen from `a`. -/
def Chip.Babbles (a d : Chip) (r : FieldRow) (n : Nat) : Prop :=
  a.Counts d r n ∧ d.fld FLYER.FAULT_STATUS_BABBLE n = 1 ∧ a.Tells d EV.FLYER_GUARD_EVENT n

theorem Chip.babbled_frame (r : FieldRow) (hr : n < r.cls.count) (hn : n < 96) :
    c.Frame [] (Touched [.one r, .one FLYER.FAULT_STATUS_BABBLE, .evt .flyer]) (c.babbled r n) :=
  Chip.away_eq_iff.mp ((Chip.away_fault (by simp) (by simp) hn hn).trans (Chip.away_bump (by simp) hr))

theorem Chip.babbled_babbles (r : FieldRow) (h : (r.placed && ([Spot.one FLYER.FAULT_STATUS_BABBLE, .evt .flyer]).all r.apart) = true)
    (hup : ((Domain.row .aon).placed && [Spot.one r].all (Domain.row .aon).apart) = true) (hr : n < r.cls.count) (hn : n < 96) :
    c.Babbles (c.babbled r n) r n := by
  have hb : c.Frame [] (Touched [.one r]) (c.bump r n) := (Chip.Frame.refl c).bump _ _ _ (cells_one (.head _) hr)
  refine ⟨?_, Chip.fault_sets (by decide) (by decide) hn hn, Chip.fault_tells ?_ (by decide) hn⟩
  · rw [Chip.Counts, Chip.babbled, (Chip.fault_frame (n := n) (r := FLYER.FAULT_STATUS_BABBLE) hn hn).fld_apart r n 0 h hr (by decide)]
    exact c.counts_bump _ _
  · exact hb.domUp .aon (not_touched hup 0 0 (by decide) (by decide))

/-- The rows of a containment. -/
def containSpots : List Spot := [.evt .flyer, .one FLYER.CUTS_COUNT, .one FLYER.FAULT_STATUS_POWER_CUT, .one FLYER.FAULT_STATUS_POWER_HELD,
  .one FLYER.PWR_CTRL_STATE]

theorem Chip.contain_frame {node : Option Nat} (hn : n < 96) :
    c.Frame [.flyers, .drift, .chain] (Touched containSpots) (c.contain n node) :=
  Chip.away_eq_iff.mp (Chip.away_contain (by decide) (by decide) hn)

/-- What a containment leaves of a babble. -/
theorem Chip.Babbles.contain {r : FieldRow} {node : Option Nat} (h : c.Babbles d r n) (hr : (r.placed && containSpots.all r.apart) = true)
    (hc : n < r.cls.count) (hn : n < 96) : c.Babbles (d.contain n node) r n := by
  obtain ⟨hcount, hset, htell⟩ := h
  refine ⟨?_, ?_, htell.keeps Chip.keepsEvents_contain (by decide)⟩
  · rw [Chip.Counts, (Chip.contain_frame hn).fld_apart r n 0 hr hc (by decide)]
    exact hcount
  · rw [(Chip.contain_frame hn).fld_apart FLYER.FAULT_STATUS_BABBLE n 0 (by decide) hn (by decide), hset]

theorem Chip.Babbles.same {r : FieldRow} {e : Chip} (h : c.Babbles d r n) (he : e.regs = d.regs) : c.Babbles e r n := by
  have hfld (q : FieldRow) : e.fld q n = d.fld q n := by rw [Chip.fld, he, Chip.fld]
  obtain ⟨hcount, hset, htell⟩ := h
  exact ⟨by rw [Chip.Counts, hfld]; exact hcount, (hfld _).trans hset,
    htell.keeps ((Chip.KeepsEvents.refl d).same he) (by decide)⟩

/-- A babble of node `k`, noted in its drift entry. -/
def Chip.babbleNoted (c : Chip) (n k : Nat) : Chip :=
  ((c.babbled FLYER.BABBLES_COUNT n).setDrift n k { (c.babbled FLYER.BABBLES_COUNT n).driftRec n k with
    babble := min 65535 (((c.babbled FLYER.BABBLES_COUNT n).driftRec n k).babble + 1)
    babbleRun := min 255 (((c.babbled FLYER.BABBLES_COUNT n).driftRec n k).babbleRun + 1) }).updFly n fun f => { f with episodes := k :: f.episodes }

theorem Chip.babbled_flyers (r : FieldRow) : (c.babbled r n).flyers = c.flyers := (Chip.fault_flyers _ _ _).trans rfl

theorem Chip.babbled_driftRec (r : FieldRow) : (c.babbled r n).driftRec n k = c.driftRec n k :=
  Chip.driftRec_congr ((Chip.fault_drift _ _ _).trans rfl)

theorem Chip.babbleBy_again (h : k ∈ (c.fly n).episodes) : c.babbleBy n k = c.babbled FLYER.BABBLES_COUNT n := by
  unfold Chip.babbleBy
  refine if_pos ?_
  rw [List.contains_iff_mem]
  exact (congrArg Flyer.episodes (Chip.fly_congr (Chip.babbled_flyers (c := c) (n := n) FLYER.BABBLES_COUNT))) ▸ h

theorem Chip.babbleBy_first (h : k ∉ (c.fly n).episodes) : c.babbleBy n k =
    if min 255 ((c.driftRec n k).babbleRun + 1) = max 1 ((c.babbleNoted n k).fld FLYER.CONTAIN_CFG_LIMIT n) then
      (c.babbleNoted n k).contain n (some k)
    else c.babbleNoted n k := by
  unfold Chip.babbleBy
  refine (if_neg ?_).trans ?_
  · rw [List.contains_iff_mem]
    exact (congrArg Flyer.episodes (Chip.fly_congr (Chip.babbled_flyers (c := c) (n := n) FLYER.BABBLES_COUNT))) ▸ h
  · rw [← Chip.babbled_driftRec (n := n) (k := k) (c := c) FLYER.BABBLES_COUNT]
    rfl

/-- A field that a noted babble leaves. -/
theorem Chip.babbleNoted_fld (r : FieldRow)
    (hr : (r.placed && [Spot.one FLYER.BABBLES_COUNT, .one FLYER.FAULT_STATUS_BABBLE, .evt .flyer].all r.apart) = true)
    (hc : n < r.cls.count) (hn : n < 96) : (c.babbleNoted n k).fld r n = c.fld r n :=
  (Chip.fld_updFly (d := (c.babbled FLYER.BABBLES_COUNT n).setDrift n k _)).trans
    ((Chip.babbled_frame FLYER.BABBLES_COUNT hn hn).fld_apart r n 0 hr hc (by decide))

theorem Chip.babbleNoted_says (hn : n < 96) : c.Babbles (c.babbleNoted n k) FLYER.BABBLES_COUNT n ∧
    ((c.babbleNoted n k).driftRec n k).babbleRun = min 255 ((c.driftRec n k).babbleRun + 1) ∧
    ((c.babbleNoted n k).fly n).cutCount = (c.fly n).cutCount := by
  refine ⟨(Chip.babbled_babbles _ (by decide) (by decide) hn hn).same rfl, ?_, ?_⟩
  · rw [← Chip.babbled_driftRec (n := n) (k := k) (c := c) FLYER.BABBLES_COUNT]
    exact congrArg Drift.babbleRun (Chip.driftRec_setDrift_self (c := c.babbled FLYER.BABBLES_COUNT n) _)
  · have hset (x : Drift) : ((c.babbled FLYER.BABBLES_COUNT n).setDrift n k x).flyers = c.flyers := Chip.babbled_flyers _
    rw [Chip.babbleNoted, Chip.fly_updFly_self, Chip.fly_congr (hset _)]

theorem Chip.babbleNoted_frame (hn : n < 96) : c.Frame [.flyers, .drift]
    (Touched [.one FLYER.BABBLES_COUNT, .one FLYER.FAULT_STATUS_BABBLE, .evt .flyer]) (c.babbleNoted n k) :=
  Chip.away_eq_iff.mp ((Chip.away_updFly (by decide)).trans ((Chip.away_setDrift (by decide)).trans
    ((Chip.away_fault (by decide) (by decide) hn hn).trans (Chip.away_bump (by decide) hn))))

theorem Chip.MayCut.congr (h : c.MayCut n) (hrows : ∀ r ∈ [FLYER.CONTAIN_CFG_POLICY, FLYER.PWR_CTRL_STATE, FLYER.CONTAIN_CFG_NO_CUT_IN_SAFE],
    d.fld r n = c.fld r n) (hm : d.mode = c.mode) : d.MayCut n := by
  obtain ⟨hpol, hst, hsafe⟩ := h
  refine ⟨(congrArg (· != 0) (hrows _ (.head _))).trans hpol, (hrows _ (.tail _ (.head _))).trans hst, fun hs => hsafe ?_⟩
  rw [hm] at hs
  exact ⟨hs.1, (congrArg (· != 0) (hrows _ (.tail _ (.tail _ (.head _))))).symm.trans hs.2⟩

/-- A cut seen from an earlier block. -/
theorem Chip.CutIn.congr {e : Chip} (h : d.CutIn e n) (hrows : ∀ r ∈ [FLYER.CUTS_COUNT, FLYER.CONTAIN_CFG_RETRIES], d.fld r n = c.fld r n)
    (hcut : (d.fly n).cutCount = (c.fly n).cutCount) : c.CutIn e n := by
  obtain ⟨hcount, hset, hst⟩ := h
  rw [Chip.Counts, hrows _ (.head _)] at hcount
  rw [hrows _ (.tail _ (.head _)), hcut] at hst
  exact ⟨hcount, hset, hst⟩

/-- What a babble of a node does. -/
theorem Chip.babbleBy_says (hn : n < 96) (hk : k < 64) : c.Babbles (c.babbleBy n k) FLYER.BABBLES_COUNT n ∧
    (k ∉ (c.fly n).episodes → ((c.babbleBy n k).driftRec n k).babbleRun = min 255 ((c.driftRec n k).babbleRun + 1) ∧
      (min 255 ((c.driftRec n k).babbleRun + 1) = max 1 (c.fld FLYER.CONTAIN_CFG_LIMIT n) → c.MayCut n →
        c.CutIn (c.babbleBy n k) n ∧ ((c.babbleBy n k).driftRec n k).cutCause = true)) := by
  by_cases h : k ∈ (c.fly n).episodes
  · rw [Chip.babbleBy_again h]
    exact ⟨Chip.babbled_babbles _ (by decide) (by decide) hn hn, fun hno => absurd h hno⟩
  · obtain ⟨hbab, hrun, hcut⟩ := c.babbleNoted_says (k := k) hn
    have hframe := c.babbleNoted_frame (k := k) hn
    have hfld (r : FieldRow) (hr : (r.placed && [Spot.one FLYER.BABBLES_COUNT, .one FLYER.FAULT_STATUS_BABBLE, .evt .flyer].all r.apart) = true)
        (hc : r.cls.count = 96) : (c.babbleNoted n k).fld r n = c.fld r n := hframe.fld_apart r n 0 hr (by rw [hc]; exact hn) (by decide)
    have hmode : (c.babbleNoted n k).mode = c.mode := hframe.fld_apart GLOBAL.MODE_MODE 0 0 (by decide) (by decide) (by decide)
    rw [Chip.babbleBy_first h, hfld _ (by decide) rfl]
    generalize c.babbleNoted n k = d at hbab hrun hcut hfld hmode
    by_cases hlim : min 255 ((c.driftRec n k).babbleRun + 1) = max 1 (c.fld FLYER.CONTAIN_CFG_LIMIT n)
    · rw [if_pos hlim]
      refine ⟨hbab.contain (by decide) hn hn, fun _ => ⟨(Chip.contain_babbleRun hk).trans hrun, fun _ hmay => ?_⟩⟩
      have hmay' : d.MayCut n := hmay.congr (fun r hr => by
        have hcls : r.cls.count = 96 ∧
            (r.placed && [Spot.one FLYER.BABBLES_COUNT, .one FLYER.FAULT_STATUS_BABBLE, .evt .flyer].all r.apart) = true := by
          revert r
          decide
        exact hfld r hcls.2 hcls.1) hmode
      refine ⟨(Chip.contain_cutIn hn hmay').congr (fun r hr => ?_) hcut, ?_⟩
      · have hcls : r.cls.count = 96 ∧
            (r.placed && [Spot.one FLYER.BABBLES_COUNT, .one FLYER.FAULT_STATUS_BABBLE, .evt .flyer].all r.apart) = true := by
          revert r
          decide
        exact hfld r hcls.2 hcls.1
      · rw [Chip.contain_driftRec hk hmay']
        exact beq_self_eq_true _
    · rw [if_neg hlim]
      exact ⟨hbab, fun _ => ⟨hrun, fun heq => absurd heq hlim⟩⟩

/-! ### Energy of no known node -/

/-- A stray of no known node, noted. -/
def Chip.unknownNoted (c : Chip) (n : Nat) : Chip :=
  (c.babbled FLYER.STRAY_UNKNOWN_COUNT n).updFly n fun f =>
    { f with unknown := true, unattrRun := ((c.babbled FLYER.STRAY_UNKNOWN_COUNT n).fly n).unattrRun + 1 }

theorem Chip.babbleUnknown_again (h : (c.fly n).unknown = true) : c.babbleUnknown n = c.babbled FLYER.STRAY_UNKNOWN_COUNT n := by
  unfold Chip.babbleUnknown
  refine if_pos ?_
  exact (congrArg Flyer.unknown (Chip.fly_congr (Chip.babbled_flyers (c := c) (n := n) FLYER.STRAY_UNKNOWN_COUNT))).trans h

theorem Chip.babbleUnknown_first (h : (c.fly n).unknown = false) : c.babbleUnknown n =
    if (c.fly n).unattrRun + 1 = max 1 ((c.unknownNoted n).fld FLYER.CONTAIN_CFG_UNATTR_LIMIT n) then (c.unknownNoted n).contain n none
    else c.unknownNoted n := by
  have hfly := Chip.fly_congr (n := n) (Chip.babbled_flyers (c := c) (n := n) FLYER.STRAY_UNKNOWN_COUNT)
  unfold Chip.babbleUnknown
  refine (if_neg ?_).trans ?_
  · exact Bool.eq_false_iff.mp ((congrArg Flyer.unknown hfly).trans h)
  · rw [← hfly]
    rfl

theorem Chip.unknownNoted_says (hn : n < 96) : c.Babbles (c.unknownNoted n) FLYER.STRAY_UNKNOWN_COUNT n ∧
    ((c.unknownNoted n).fly n).unattrRun = (c.fly n).unattrRun + 1 ∧ ((c.unknownNoted n).fly n).cutCount = (c.fly n).cutCount := by
  have hfly := Chip.fly_congr (n := n) (Chip.babbled_flyers (c := c) (n := n) FLYER.STRAY_UNKNOWN_COUNT)
  refine ⟨(Chip.babbled_babbles _ (by decide) (by decide) hn hn).same rfl, ?_, ?_⟩ <;> rw [Chip.unknownNoted, Chip.fly_updFly_self, hfly]

theorem Chip.unknownNoted_frame (hn : n < 96) : c.Frame [.flyers]
    (Touched [.one FLYER.STRAY_UNKNOWN_COUNT, .one FLYER.FAULT_STATUS_BABBLE, .evt .flyer]) (c.unknownNoted n) :=
  Chip.away_eq_iff.mp ((Chip.away_updFly (by decide)).trans ((Chip.away_fault (by decide) (by decide) hn hn).trans
    (Chip.away_bump (by decide) hn)))

/-- What a stray of no known node does. -/
theorem Chip.babbleUnknown_says (hn : n < 96) : c.Babbles (c.babbleUnknown n) FLYER.STRAY_UNKNOWN_COUNT n ∧
    ((c.fly n).unknown = false → ((c.babbleUnknown n).fly n).unattrRun = (c.fly n).unattrRun + 1 ∧
      ((c.fly n).unattrRun + 1 = max 1 (c.fld FLYER.CONTAIN_CFG_UNATTR_LIMIT n) → c.MayCut n → c.CutIn (c.babbleUnknown n) n)) := by
  cases h : (c.fly n).unknown with
  | true =>
    rw [Chip.babbleUnknown_again h]
    exact ⟨Chip.babbled_babbles _ (by decide) (by decide) hn hn, fun hno => absurd hno (by decide)⟩
  | false =>
    obtain ⟨hbab, hrun, hcut⟩ := c.unknownNoted_says hn
    have hframe := c.unknownNoted_frame hn
    have hfld (r : FieldRow)
        (hr : r.cls.count = 96 ∧ (r.placed && [Spot.one FLYER.STRAY_UNKNOWN_COUNT, .one FLYER.FAULT_STATUS_BABBLE, .evt .flyer].all r.apart) = true) :
        (c.unknownNoted n).fld r n = c.fld r n := hframe.fld_apart r n 0 hr.2 (by rw [hr.1]; exact hn) (by decide)
    have hmode : (c.unknownNoted n).mode = c.mode := hframe.fld_apart GLOBAL.MODE_MODE 0 0 (by decide) (by decide) (by decide)
    rw [Chip.babbleUnknown_first h, hfld _ (by decide)]
    generalize c.unknownNoted n = d at hbab hrun hcut hfld hmode
    by_cases hlim : (c.fly n).unattrRun + 1 = max 1 (c.fld FLYER.CONTAIN_CFG_UNATTR_LIMIT n)
    · rw [if_pos hlim]
      refine ⟨hbab.contain (by decide) hn hn, fun _ => ⟨Chip.contain_unattrRun.trans hrun, fun _ hmay => ?_⟩⟩
      exact (Chip.contain_cutIn hn (hmay.congr (fun r hr => hfld r (by revert r; decide)) hmode)).congr
        (fun r hr => hfld r (by revert r; decide)) hcut
    · rw [if_neg hlim]
      exact ⟨hbab, fun _ => ⟨hrun, fun heq => absurd heq hlim⟩⟩

/-! ### Which energy is a babble -/

theorem Chip.babbleOverrun_off {t : Nat} (h : c.babbleOn n = false) : c.babbleOverrun n t = c := by
  unfold Chip.babbleOverrun
  split
  · exact if_neg fun hc => absurd hc.1 (Bool.eq_false_iff.mp h)
  · rfl

theorem Chip.babbleOverrun_due {t : Nat} (hk : (c.fly n).active = some k) (hon : c.babbleOn n = true)
    (hs : ((c.fly n).anchor : Int) + c.intervalEnd n k t * (nsQ : Int) ≤ (c.now : Int)) : c.babbleOverrun n t =
      if 0 < t ∧ t < 64 then if c.flyRole n k t = 1 then c.babbleBy n (bitsOf (c.flyW n k (3 + 2 * t)) 29 24) else c
      else if (t = 64 ∨ c.partnerTurn0 n) ∧ c.isStray n (((c.fly n).anchor : Int) + c.intervalEnd n k t * (nsQ : Int)) then c.babbleUnknown n
      else c := by
  unfold Chip.babbleOverrun
  rw [hk]
  exact if_pos ⟨hon, hs⟩

theorem Chip.strayEnergy_off {start : Int} {src : Option Nat} {coll : Bool}
    (h : (c.babbleOn n && (coll || c.isStray n start)) = false) : c.strayEnergy n start src coll = c := if_neg (Bool.eq_false_iff.mp h)

theorem Chip.strayEnergy_unknown {start : Int} {coll : Bool} (hon : c.babbleOn n = true)
    (h : (coll || c.isStray n start) = true) : c.strayEnergy n start none coll = c.babbleUnknown n := by
  unfold Chip.strayEnergy
  refine (if_pos ?_).trans rfl
  rw [hon, h]
  rfl

theorem Chip.strayEnergy_known {start : Int} {coll : Bool} {mac : Nat} (hon : c.babbleOn n = true) (h : c.isStray n start = true)
    (hk : c.nodeOfMac n mac = some k) : c.strayEnergy n start (some mac) coll = c.babbleBy n k := by
  unfold Chip.strayEnergy
  refine (if_pos ?_).trans ?_
  · rw [hon, h, Bool.or_true]
    rfl
  · rw [Option.bind_some, hk]
    exact if_pos h

theorem Chip.nodeOfMac_lt {mac : Nat} (h : c.nodeOfMac n mac = some k) : k < 64 := List.mem_range.mp (List.mem_of_find?_eq_some h)

/-! ### The end of a cut, and the chain -/

theorem Chip.cutRestore_says (hn : n < 96) : (c.cutRestore n).fld FLYER.PWR_CTRL_STATE n = pwON ∧ ((c.cutRestore n).fly n).unattrRun = 0 ∧
    ∀ j, j < 64 → ((c.cutRestore n).driftRec n j).babbleRun = 0 := by
  have hst : (c.power1 n fun d => d.setFld FLYER.PWR_CTRL_STATE pwON n).fld FLYER.PWR_CTRL_STATE n = pwON := by
    rw [Chip.power1_fld, Chip.fld_setFld_self]
    decide
  unfold Chip.cutRestore
  generalize (c.power1 n fun d => d.setFld FLYER.PWR_CTRL_STATE pwON n) = e at hst
  have hruns : (e.zeroRuns n).fld FLYER.PWR_CTRL_STATE n = e.fld FLYER.PWR_CTRL_STATE n :=
    (Chip.away_eq_iff.mp (Chip.away_zeroRuns (c := e) (n := n) (S := [.flyers, .drift]) (R := []) (by decide))).fld_apart
      FLYER.PWR_CTRL_STATE n 0 (by decide) hn (by decide)
  refine ⟨Chip.fld_updFly.trans (hruns.trans hst), ?_, fun j hj => ?_⟩
  · rw [Chip.fly_updFly_self, Chip.zeroRuns, Chip.fly_updFly_self]
  · have hupd (d : Chip) (f : Flyer → Flyer) : (d.updFly n f).drift = d.drift := rfl
    rw [Chip.driftRec_congr (hupd _ _), Chip.zeroRuns, Chip.driftRec_congr (hupd _ _),
      Chip.driftRec_foldl (f := fun k x => { x with babbleRun := 0 }) hj]

theorem Chip.chainLatch_due {t : Nat} (h : c.chain.latchAt = some t) (ht : t ≤ c.now) : c.chainLatch =
    { (List.range 96).foldl (fun d n => d.setBit FLYER.PWR_CTRL_CHAIN_BIT (c.chain.bits.contains n) n) c with
      chain := { c.chain with latchAt := none } } := by
  unfold Chip.chainLatch
  rw [h]
  exact if_pos ht

theorem Chip.chainLatch_idle (h : c.chain.latchAt = none) : c.chainLatch = c := by
  unfold Chip.chainLatch
  rw [h]
end

/-! ### The obligation -/

section
variable {c b d : Chip} {n : Fin 96}

theorem Chip.Babbles.ended {r : FieldRow} (h : c.Babbles d r n.val) (hr : (r.placed && r.cls.unlevelled) = true) (hc : r.cls.count = 96) :
    c.Counts (b.ended d) r n.val ∧ (b.ended d).fld FLYER.FAULT_STATUS_BABBLE n.val = 1 ∧ c.Tells (b.ended d) EV.FLYER_GUARD_EVENT n.val := by
  obtain ⟨hcount, hset, htell⟩ := h
  exact ⟨hcount.inst hr (by rw [hc]; exact n.isLt), (ended_flyer (by decide) rfl).trans hset, htell.inst (by decide) n.isLt⟩

theorem Chip.CutIn.ended (h : c.CutIn d n.val) : c.CutIn (b.ended d) n.val := by
  obtain ⟨hcount, hset, hst⟩ := h
  exact ⟨hcount.inst (by decide) n.isLt, (ended_flyer (by decide) rfl).trans hset, (ended_flyer (by decide) rfl).trans hst⟩

theorem ended_driftRec {k : Nat} : (b.ended d).driftRec n.val k = d.driftRec n.val k := Chip.driftRec_congr (b.ended_drift d)
end

/-- The bit of one segment, as the chain takes it. -/
def Chip.takeBit (bits : List Nat) (d : Chip) (n : Nat) : Chip := d.setBit FLYER.PWR_CTRL_CHAIN_BIT (bits.contains n) n

/-- The cells of the chain's bits. -/
def chainKeys : List Nat := (List.range 96).map fun n => FLYER.PWR_CTRL_CHAIN_BIT.key n 0

theorem Chip.takeBits_frame {c : Chip} {bits l : List Nat} (hl : ∀ n ∈ l, n < 96) : c.Frame [] (· ∈ chainKeys) (l.foldl (Chip.takeBit bits) c) :=
  (Chip.Frame.refl c).foldl l fun d n hn =>
    (Chip.Frame.refl d).setBit _ _ _ _ (List.mem_map.mpr ⟨n, List.mem_range.mpr (hl n hn), rfl⟩)

theorem Chip.takeBits_on {c : Chip} {m : Nat} {bits l : List Nat} (hl : l.Nodup) (hm : m ∈ l) :
    (l.foldl (Chip.takeBit bits) c).on FLYER.PWR_CTRL_CHAIN_BIT m = bits.contains m := by
  refine foldl_visits (f := Chip.takeBit bits) (before := fun _ => True)
    (after := fun d : Chip => d.on FLYER.PWR_CTRL_CHAIN_BIT m = bits.contains m)
    (fun _ _ _ _ => trivial) (fun d _ => Chip.on_setBit_self _ rfl) (fun d k hk hd => ?_) hl hm c trivial
  exact (Chip.on_setBit_ne _ (FieldRow.key_ne_of_inst (by decide) (by decide) rfl (by decide) (by decide) hk)).trans hd

/-- The block with another state of the chain. -/
def Chip.withChain (c : Chip) (x : Chain) : Chip := { c with chain := x }

theorem Chip.chainLatch_takes {c : Chip} {t : Nat} (h : c.chain.latchAt = some t) (ht : t ≤ c.now) : c.chainLatch =
    (List.range 96).foldl (Chip.takeBit c.chain.bits) (c.withChain { c.chain with latchAt := none }) := by
  rw [List.foldl_hom (fun d : Chip => d.withChain { c.chain with latchAt := none }) (g₁ := Chip.takeBit c.chain.bits) fun _ _ => rfl]
  exact Chip.chainLatch_due h ht

/-- Settles O33: the babbles that are counted and contained, the end of a cut, and the frames of the chain. -/
theorem babblingAndSegmentPower : Obligations.BabblingAndSegmentPower := by
  unfold Obligations.BabblingAndSegmentPower
  intro s n t stamp c f start babbled mayCut cut
  have hunknown : c.Counts (c.ended (c.babbleUnknown n.val)) FLYER.STRAY_UNKNOWN_COUNT n.val ∧ babbled (c.ended (c.babbleUnknown n.val)) :=
    (c.babbleUnknown_says n.isLt).1.ended (by decide) rfl
  have hoverrun {d : Chip} {ok : Chip → Prop} (hd : c.babbleOverrun n.val t.val = d) (hok : ok (c.ended d)) : Ends (.babbleOverrun n t) s ok :=
    ends_of exec_babbleOverrun (hd ▸ hok)
  have hstray' {src : Option (BitVec 48)} {coll : Bool} {d : Chip} {ok : Chip → Prop}
      (hd : c.strayEnergy n.val start (src.map BitVec.toNat) coll = d) (hok : ok (c.ended d)) : Ends (.strayEnergy n stamp src coll) s ok :=
    ends_of exec_strayEnergy (hd ▸ hok)
  refine ⟨fun k hk hon h0 h64 hrole hs => ?_, fun k hk hon ht => ?_, fun k hk hon ht h0 => ?_,
    fun hon => hstray' (Chip.strayEnergy_unknown hon rfl) hunknown, fun hoff => ⟨idles_of exec_babbleOverrun
      (Chip.babbleOverrun_off hoff), idles_of exec_strayEnergy (Chip.strayEnergy_off (c := s.chip) (by rw [hoff]; rfl))⟩, fun hon hstray => ?_,
    fun mac k hon hstray hk => ?_, fun h => ?_, fun h => idles_of_not_due exec_cutRestore h, fun h => ?_,
    fun h => idles_of_not_due exec_cleanRenew h, fun h => ?_, fun h => idles_of_not_due exec_segpwrFrame h, fun at_ h hle => ?_,
    fun h => idles_of exec_segpwrLatch (Chip.chainLatch_idle h)⟩
  · intro node run
    have hend : c.intervalEnd n.val k t.val = ((c.flyOffset n.val k t.val + c.flyTurnLen n.val k t.val : Nat) : Int) - 9600 :=
      if_neg (Nat.ne_of_lt h64)
    have hdue : ((c.fly n.val).anchor : Int) + c.intervalEnd n.val k t.val * (nsQ : Int) ≤ (c.now : Int) := by
      rw [hend, sub_mul]
      have hle : (f.anchor : Int) + ((c.flyOffset n.val k t.val + c.flyTurnLen n.val k t.val : Nat) : Int) * (nsQ : Int) ≤
          (c.now : Int) + 9600 * (nsQ : Int) := by exact_mod_cast hs
      linarith
    have hover : c.babbleOverrun n.val t.val = c.babbleBy n.val node := by
      rw [Chip.babbleOverrun_due hk hon hdue, if_pos ⟨h0, h64⟩, if_pos hrole]
    obtain ⟨hbab, hfirst⟩ := c.babbleBy_says n.isLt (show node < 64 from bitsOf_lt (w := _) 29 24)
    refine hoverrun hover ?_
    obtain ⟨hcount, htold⟩ := hbab.ended (n := n) (b := c) (by decide) rfl
    refine ⟨hcount, htold, fun hno => ?_⟩
    obtain ⟨hrun, hcut⟩ := hfirst hno
    refine ⟨(congrArg Drift.babbleRun ended_driftRec).trans hrun, fun hlim hmay => ?_⟩
    obtain ⟨hin, hcause⟩ := hcut hlim hmay
    exact ⟨hin.ended, (congrArg Drift.cutCause ended_driftRec).trans hcause⟩
  · intro stop hs hstray
    have hend : c.intervalEnd n.val k t.val = (c.slotLen n.val k : Int) - (bitsOf (c.flyW n.val k 0) 31 16 : Nat) := if_pos ht
    refine hoverrun ?_ hunknown
    rw [Chip.babbleOverrun_due hk hon (by rw [hend]; exact hs), if_neg (by omega), if_pos ⟨.inl ht, by rw [hend]; exact hstray⟩]
  · intro stop hs hstray
    have hend : c.intervalEnd n.val k t.val = ((c.flyOffset n.val k 0 + c.flyTurnLen n.val k 0 : Nat) : Int) - 9600 := by
      rw [ht]
      exact if_neg (by decide)
    refine hoverrun ?_ hunknown
    rw [Chip.babbleOverrun_due hk hon (by rw [hend]; exact hs), if_neg (by omega), if_pos ⟨.inr h0, by rw [hend]; exact hstray⟩]
  · refine hstray' (Chip.strayEnergy_unknown hon hstray) ?_
    obtain ⟨hbab, hfirst⟩ := c.babbleUnknown_says n.isLt
    obtain ⟨hcount, htold⟩ := hbab.ended (n := n) (b := c) (by decide) rfl
    refine ⟨hcount, htold, fun hno => ?_⟩
    obtain ⟨hrun, hcut⟩ := hfirst hno
    exact ⟨(congrArg Flyer.unattrRun ended_fly).trans hrun, fun hlim hmay => (hcut hlim hmay).ended⟩
  · refine hstray' (Chip.strayEnergy_known hon hstray hk) ?_
    exact (c.babbleBy_says n.isLt (Chip.nodeOfMac_lt hk)).1.ended (by decide) rfl
  · refine ends_of_due exec_cutRestore h ?_
    obtain ⟨hst, hrun, hruns⟩ := c.cutRestore_says n.isLt
    exact ⟨(ended_flyer (by decide) rfl).trans hst, (congrArg Flyer.unattrRun ended_fly).trans hrun,
      fun j hj => (congrArg Drift.babbleRun ended_driftRec).trans (hruns j hj)⟩
  · exact becomes_of_due exec_cleanRenew h (Chip.Frame.refl _) trivial
  · exact becomes_of_due exec_segpwrFrame h (Chip.Frame.refl _) trivial
  · have hlatch := Chip.chainLatch_takes h hle
    have hframe := Chip.takeBits_frame (c := c.withChain { c.chain with latchAt := none }) (bits := c.chain.bits) (l := List.range 96)
      fun n hn => List.mem_range.mp hn
    have hbit (m : Nat) (hm : m < 96) := Chip.takeBits_on (c := c.withChain { c.chain with latchAt := none }) (bits := c.chain.bits)
      List.nodup_range (List.mem_range.mpr hm)
    generalize (List.range 96).foldl (Chip.takeBit c.chain.bits) (c.withChain { c.chain with latchAt := none }) = d at hframe hbit hlatch
    refine becomes_of exec_segpwrLatch ?_ ?_ <;> rw [hlatch]
    · exact hframe.mono (by decide) fun _ hk => hk
    · intro m hm
      exact (Chip.ended_inst_on (by decide) hm (by decide)).trans (hbit m hm)

end Sys2Proof.Machine
end

section
/-!
PROOF. The Flyer's commands, its own state, its tracking of beacons and the seal checks (R173 to R181, R184, R189, R193).
-/
namespace Sys2Proof.Machine

section
variable {a c d : Chip} {n : Nat}

/-! ### The windows close for good -/

theorem Chip.cleanEnd_kept {x : FlyTx} (hx : (c.fly n).tx = some x) (h : c.now < x.endAt) : c.cleanEnd n = c := by
  unfold Chip.cleanEnd
  rw [hx]
  dsimp only
  rw [decide_eq_false (Nat.not_le.mpr h), Bool.and_false]
  exact if_neg (by decide)

theorem Chip.cleanEnd_none (hx : (c.fly n).tx = none) : c.cleanEnd n = c := by
  unfold Chip.cleanEnd
  rw [hx]

theorem Chip.windowsShut_eq : c.windowsShut n =
    if ((c.cleanEnd n).fly n).tx.isSome then (((c.cleanEnd n).driverOff n).bump FLYER.TRUNCATED_COUNT n).violation n else c.cleanEnd n := rfl

/-- What is left of the driver: off, and the tracking as it was. -/
def Chip.Shut (a d : Chip) (n : Nat) : Prop :=
  (d.fly n).tx = none ∧ ((a.fly n).tx ≠ none → d.fld FLYER.TX_STATUS_DRIVER_ON n = 0) ∧
    (∀ x, (a.fly n).tx = some x → a.now < x.endAt → a.Counts d FLYER.TRUNCATED_COUNT n) ∧ (d.fly n).predicted = (a.fly n).predicted

theorem Chip.driverOff_predicted : ((c.driverOff n).fly n).predicted = (c.fly n).predicted := by
  have hfly : (c.driverOff n).fly n = ((c.budgetCount n).updFly n fun f => { f with tx := none }).fly n := rfl
  rw [hfly, Chip.fly_updFly_self, Chip.budgetCount, Chip.fly_updFly_self]

theorem Chip.latchTx_flyers (h : (c.fly n).tx = none) : (c.latchTx n).flyers = c.flyers := by
  have hkeep : c.latchOff n = c := if_neg (by rw [h]; decide)
  cases hl : c.on FLYER.TX_STATUS_LATCHED n with
  | true => rw [Chip.latchTx_latched hl]
  | false =>
    rw [Chip.latchTx_latches hl, hkeep]
    exact Chip.fault_flyers _ _ _

theorem Chip.violation_flyers (h : (c.fly n).tx = none) : (c.violation n).flyers = c.flyers := by
  have hv : (c.violated n).flyers = c.flyers := Chip.fault_flyers _ _ _
  rw [Chip.violation_eq]
  split_ifs
  · exact (Chip.latchTx_flyers ((congrArg Flyer.tx (Chip.fly_congr hv)).trans h)).trans hv
  · exact hv

theorem Chip.cutTx_predicted : ((((c.driverOff n).bump FLYER.TRUNCATED_COUNT n).violation n).fly n).predicted = (c.fly n).predicted := by
  obtain ⟨htx, -⟩ := Chip.driverOff_silent (c := c) (n := n)
  have hb : ((c.driverOff n).bump FLYER.TRUNCATED_COUNT n).flyers = (c.driverOff n).flyers := rfl
  rw [Chip.fly_congr (Chip.violation_flyers ((congrArg Flyer.tx (Chip.fly_congr hb)).trans htx)), Chip.fly_congr hb, Chip.driverOff_predicted]

theorem Chip.windowsShut_shut (hn : n < 96) : c.Shut (c.windowsShut n) n := by
  rw [Chip.windowsShut_eq]
  cases htx : (c.fly n).tx with
  | none =>
    rw [Chip.cleanEnd_none htx, htx]
    exact ⟨htx, fun h => absurd htx h, fun x hx => absurd (htx.symm.trans hx) (by simp), rfl⟩
  | some y =>
    rcases c.cleanEnd_cases n with hc | hc <;> rw [hc]
    · rw [htx]
      obtain ⟨⟨htx', hon⟩, hcount, -⟩ := Chip.cutTx_says (c := c) hn rfl
      exact ⟨htx', fun _ => hon, fun _ _ _ => hcount, Chip.cutTx_predicted⟩
    · obtain ⟨htx', hon⟩ := Chip.driverOff_silent (c := c) (n := n)
      have hfly : ((c.driverOff n).setFld FLYER.TX_STATUS_VIOL_RUN 0 n).fly n = (c.driverOff n).fly n := Chip.fly_congr rfl
      rw [hfly, htx']
      refine ⟨(congrArg Flyer.tx hfly).trans htx', fun _ => ?_, fun x hx hlt => ?_, ?_⟩
      · rw [if_neg (by decide), Chip.fld_setFld_apart (by decide) hn (by decide) hn (by decide), hon]
      · have hsame : (c.driverOff n).setFld FLYER.TX_STATUS_VIOL_RUN 0 n = c := hc.symm.trans (Chip.cleanEnd_kept hx hlt)
        have hnone : (c.fly n).tx = none := by rw [← hsame, hfly, htx']
        exact absurd (hnone.symm.trans hx) (by simp)
      · rw [if_neg (by decide), hfly, Chip.driverOff_predicted]

/-- The rows that the end of a transmission changes. -/
def shutSpots : List Spot := [.evt .flyer, .one FLYER.FAULT_STATUS_TX_LATCHED, .one FLYER.FAULT_STATUS_TX_VIOLATION, .one FLYER.LATCHES_COUNT,
  .one FLYER.TRUNCATED_COUNT, .one FLYER.TX_STATUS_DRIVER_ON, .one FLYER.TX_STATUS_LATCHED, .one FLYER.TX_STATUS_VIOL_RUN]

theorem Chip.windowsShut_frame (hn : n < 96) : c.Frame [.flyers] (Touched shutSpots) (c.windowsShut n) :=
  Chip.away_eq_iff.mp (Chip.away_windowsShut (by decide) (by decide) hn)

/-! ### OFF -/

/-- The registers of a Flyer that goes off. -/
def Chip.offShown (c : Chip) (n : Nat) : Chip :=
  ((((c.setFld FLYER.SYNC_STATUS_STATE fyOFF n).setFld FLYER.SYNC_STATUS_CYCLE_OK 0 n).setFld FLYER.SYNC_STATUS_EXT_ALLOW 0 n).setFld
    FLYER.TT_SLOT_ACTIVE 0 n 0).setFld FLYER.TT_SLOT_ACTIVE 0 n 1

def offSpots : List Spot := [.one FLYER.SYNC_STATUS_STATE, .one FLYER.SYNC_STATUS_CYCLE_OK, .one FLYER.SYNC_STATUS_EXT_ALLOW,
  .upto FLYER.TT_SLOT_ACTIVE]

theorem Chip.offShown_frame (hn : n < 96) : c.Frame [] (Touched offSpots) (c.offShown n) :=
  Chip.away_eq_iff.mp ((Chip.away_setFld_upto (by decide) hn (by decide)).trans ((Chip.away_setFld_upto (by decide) hn (by decide)).trans
    ((Chip.away_setFld (by decide) hn).trans ((Chip.away_setFld (by decide) hn).trans (Chip.away_setFld (by decide) hn)))))

theorem Chip.offShown_state (hn : n < 96) : (c.offShown n).flySt n = fyOFF := by
  rw [Chip.flySt, Chip.offShown, Chip.fld_setFld_apart (by decide) hn (by decide) hn (by decide),
    Chip.fld_setFld_apart (by decide) hn (by decide) hn (by decide), Chip.fld_setFld_apart (by decide) hn (by decide) hn (by decide),
    Chip.fld_setFld_apart (by decide) hn (by decide) hn (by decide), Chip.fld_setFld_self]
  rfl

/-- The Flyer's own state as it goes off. -/
def Flyer.off (f : Flyer) : Flyer := { f with active := none, extEnd := none, lastMiss := none, episodes := [], unknown := false }

theorem Chip.flyOff_eq (h : c.flySt n ≠ fyOFF) : c.flyOff n = ((c.windowsShut n).updFly n Flyer.off).offShown n := if_neg h

/-- What a Flyer that went off shows in `d`, seen from `a`. -/
def Chip.GoneOff (a d : Chip) (n : Nat) : Prop :=
  d.flySt n = fyOFF ∧ (d.fly n).active = none ∧ (d.fly n).tx = none ∧
    ((a.fly n).tx ≠ none → d.fld FLYER.TX_STATUS_DRIVER_ON n = 0) ∧
    d.fld FLYER.SYNC_STATUS_MISS_RUN n = a.fld FLYER.SYNC_STATUS_MISS_RUN n ∧
    d.fld FLYER.SYNC_STATUS_TABLE_ID n = a.fld FLYER.SYNC_STATUS_TABLE_ID n ∧
    ∀ x, (a.fly n).tx = some x → a.now < x.endAt → a.Counts d FLYER.TRUNCATED_COUNT n

theorem Chip.flyOff_goneOff (hn : n < 96) (h : c.flySt n ≠ fyOFF) : c.GoneOff (c.flyOff n) n := by
  have hframe := c.windowsShut_frame hn
  obtain ⟨htx, hon, hcut, -⟩ := c.windowsShut_shut hn
  rw [Chip.flyOff_eq h]
  have hmiss := hframe.fld_apart FLYER.SYNC_STATUS_MISS_RUN n 0 (by decide) hn (by decide)
  have hid := hframe.fld_apart FLYER.SYNC_STATUS_TABLE_ID n 0 (by decide) hn (by decide)
  generalize c.windowsShut n = e at htx hon hcut hmiss hid
  have hshow := (e.updFly n Flyer.off).offShown_frame hn
  have hfly : ((e.updFly n Flyer.off).offShown n).fly n = Flyer.off (e.fly n) :=
    (Chip.fly_congr (hshow.flyers (by decide))).trans (Chip.fly_updFly_self _)
  have hfld (r : FieldRow) (hr : (r.placed && offSpots.all r.apart) = true) (hc : r.cls.count = 96) :
      ((e.updFly n Flyer.off).offShown n).fld r n = e.fld r n := (hshow.fld_apart r n 0 hr (by rw [hc]; exact hn) (by decide)).trans Chip.fld_updFly
  refine ⟨Chip.offShown_state hn, congrArg Flyer.active hfly, (congrArg Flyer.tx hfly).trans htx, fun h => (hfld _ (by decide) rfl).trans (hon h),
    (hfld _ (by decide) rfl).trans hmiss, (hfld _ (by decide) rfl).trans hid, fun x hx hlt => ?_⟩
  rw [Chip.Counts, hfld _ (by decide) rfl]
  exact hcut x hx hlt

/-! ### A loss of the cycle -/

/-- The registers of a loss, as its windows are shut. -/
def Chip.lossShown (c : Chip) (n : Nat) : Chip :=
  (((c.setFld FLYER.SYNC_STATUS_STATE fyUNSYNC n).setFld FLYER.SYNC_STATUS_CYCLE_OK 0 n).setFld FLYER.SYNC_STATUS_EXT_ALLOW 0 n).updFly n
    fun f => { f with extEnd := none, lastMiss := none }

theorem Chip.flyLost_eq : c.flyLost n = (((c.windowsShut n).lossShown n).bump FLYER.SYNC_LOSS_COUNT n).fault FLYER.FAULT_STATUS_SYNC_LOST n := rfl

def lossSpots : List Spot := [.one FLYER.SYNC_STATUS_STATE, .one FLYER.SYNC_STATUS_CYCLE_OK, .one FLYER.SYNC_STATUS_EXT_ALLOW]

theorem Chip.lossShown_frame (hn : n < 96) : c.Frame [.flyers] (Touched lossSpots) (c.lossShown n) :=
  Chip.away_eq_iff.mp ((Chip.away_updFly (by decide)).trans ((Chip.away_setFld (by decide) hn).trans ((Chip.away_setFld (by decide) hn).trans
    (Chip.away_setFld (by decide) hn))))

theorem Chip.lossShown_says (hn : n < 96) : (c.lossShown n).flySt n = fyUNSYNC ∧ (c.lossShown n).fld FLYER.SYNC_STATUS_CYCLE_OK n = 0 ∧
    ((c.lossShown n).fly n).tx = (c.fly n).tx ∧ ((c.lossShown n).fly n).predicted = (c.fly n).predicted := by
  have hfly : (c.lossShown n).fly n = { c.fly n with extEnd := none, lastMiss := none } := by
    rw [Chip.lossShown, Chip.fly_updFly_self]
    rfl
  refine ⟨?_, ?_, by rw [hfly], by rw [hfly]⟩
  · rw [Chip.flySt, Chip.lossShown, Chip.fld_updFly, Chip.fld_setFld_apart (by decide) hn (by decide) hn (by decide),
      Chip.fld_setFld_apart (by decide) hn (by decide) hn (by decide), Chip.fld_setFld_self]
    rfl
  · rw [Chip.lossShown, Chip.fld_updFly, Chip.fld_setFld_apart (by decide) hn (by decide) hn (by decide), Chip.fld_setFld_self]
    rfl

/-- A loss in `d`, seen from `a`. -/
def Chip.Loses (a d : Chip) (n : Nat) : Prop :=
  d.flySt n = fyUNSYNC ∧ a.Counts d FLYER.SYNC_LOSS_COUNT n ∧ d.fld FLYER.FAULT_STATUS_SYNC_LOST n = 1 ∧ a.Tells d EV.FLYER_GUARD_EVENT n ∧
    (d.fly n).tx = none ∧ ∀ x, (a.fly n).tx = some x → a.now < x.endAt → a.Counts d FLYER.TRUNCATED_COUNT n

theorem Chip.flyLost_loses (hn : n < 96) : c.Loses (c.flyLost n) n ∧ ((c.flyLost n).fly n).predicted = (c.fly n).predicted ∧
    (c.flyLost n).fld FLYER.SYNC_STATUS_CYCLE_OK n = 0 ∧
    (c.flyLost n).fld FLYER.SYNC_STATUS_MISS_RUN n = c.fld FLYER.SYNC_STATUS_MISS_RUN n := by
  have hshut := c.windowsShut_frame hn
  obtain ⟨htx, -, hcut, hpred⟩ := c.windowsShut_shut hn
  have hloss := hshut.fld_apart FLYER.SYNC_LOSS_COUNT n 0 (by decide) hn (by decide)
  have hmiss := hshut.fld_apart FLYER.SYNC_STATUS_MISS_RUN n 0 (by decide) hn (by decide)
  have hup := hshut.domUp .aon (not_touched (by decide) 0 0 (by decide) (by decide))
  rw [Chip.flyLost_eq]
  generalize c.windowsShut n = e at htx hcut hpred hloss hmiss hup
  obtain ⟨hst, hok, htx', hpred'⟩ := e.lossShown_says hn
  have hshow := e.lossShown_frame hn
  have hfld (r : FieldRow) (hr : (r.placed && [Spot.one FLYER.SYNC_LOSS_COUNT, .one FLYER.FAULT_STATUS_SYNC_LOST, .evt .flyer].all r.apart) = true)
      (hc : r.cls.count = 96) :
      (((e.lossShown n).bump FLYER.SYNC_LOSS_COUNT n).fault FLYER.FAULT_STATUS_SYNC_LOST n).fld r n = (e.lossShown n).fld r n :=
    (Chip.away_eq_iff.mp ((Chip.away_fault (S := []) (by decide) (by decide) hn hn).trans (Chip.away_bump (by decide) hn))).fld_apart r n 0 hr
      (by rw [hc]; exact hn) (by decide)
  have hfly : (((e.lossShown n).bump FLYER.SYNC_LOSS_COUNT n).fault FLYER.FAULT_STATUS_SYNC_LOST n).fly n = (e.lossShown n).fly n :=
    Chip.fly_congr ((Chip.fault_flyers _ _ _).trans rfl)
  refine ⟨⟨(hfld _ (by decide) rfl).trans hst, ?_, Chip.fault_sets (by decide) (by decide) hn hn, ?_, ?_, fun x hx hlt => ?_⟩, ?_,
    (hfld _ (by decide) rfl).trans hok, ?_⟩
  · rw [Chip.Counts, Chip.fld_fault_apart FLYER.FAULT_STATUS_SYNC_LOST FLYER.SYNC_LOSS_COUNT (by decide) hn hn hn, ← hloss,
      ← hshow.fld_apart FLYER.SYNC_LOSS_COUNT n 0 (by decide) hn (by decide)]
    exact Chip.counts_bump _ _ _
  · refine Chip.fault_tells ?_ (by decide) hn
    have hb : (e.lossShown n).Frame [] (Touched [.one FLYER.SYNC_LOSS_COUNT]) ((e.lossShown n).bump FLYER.SYNC_LOSS_COUNT n) :=
      (Chip.Frame.refl _).bump _ _ _ (cells_one (by decide) hn)
    exact (hb.domUp .aon (not_touched (by decide) 0 0 (by decide) (by decide))).trans
      ((hshow.domUp .aon (not_touched (by decide) 0 0 (by decide) (by decide))).trans hup)
  · rw [hfly, htx', htx]
  · rw [Chip.Counts, hfld _ (by decide) rfl, hshow.fld_apart FLYER.TRUNCATED_COUNT n 0 (by decide) hn (by decide)]
    exact hcut x hx hlt
  · rw [hfly, hpred', hpred]
  · rw [hfld _ (by decide) rfl, hshow.fld_apart FLYER.SYNC_STATUS_MISS_RUN n 0 (by decide) hn (by decide), hmiss]

/-! ### A missed beacon -/

theorem Chip.babbleCycle_fly : ∃ r, (c.babbleCycle n).fly n = { c.fly n with episodes := [], unknown := false, unattrRun := r } := by
  unfold Chip.babbleCycle
  exact ⟨_, Chip.fly_setFly_self _⟩

theorem Chip.babbleCycle_frame {K : Nat → Prop} : c.Frame [.flyers, .drift] K (c.babbleCycle n) :=
  (Chip.away_eq_iff.mp (Chip.away_babbleCycle (c := c) (n := n) (S := [.flyers, .drift]) (R := []) (by decide))).mono (List.Subset.refl _)
    fun _ h => by
      obtain ⟨_, hs, _⟩ := h
      cases hs

/-- The cycle of a Flyer's table, as its slot gives it. -/
theorem Chip.flyLen_congr (h : (d.fly n).active = (c.fly n).active) (ht : d.flyTables = c.flyTables) : d.flyLen n = c.flyLen n := by
  have hw (k w : Nat) : d.flyW n k w = c.flyW n k w := by rw [Chip.flyW, ht, Chip.flyW]
  unfold Chip.flyLen
  rw [h]
  cases (c.fly n).active with
  | none => rfl
  | some k => exact congrArg (fun w => bitsOf w 26 0 * nsQ) (hw k 1)

/-- A beacon noted as missed. -/
def Chip.flyMissed (c : Chip) (n : Nat) : Chip :=
  (((c.babbleCycle n).bump FLYER.SYNC_STATUS_MISS_RUN n).setFld FLYER.SYNC_STATUS_CYCLE_OK 0 n).updFly n fun f =>
    { f with lastMiss := some f.predicted
             predicted := f.predicted + (((c.babbleCycle n).bump FLYER.SYNC_STATUS_MISS_RUN n).setFld FLYER.SYNC_STATUS_CYCLE_OK 0 n).flyLen n }

theorem Chip.flyMiss_eq : c.flyMiss n =
    if (c.flyMissed n).flyLoss n ≤ (c.flyMissed n).fld FLYER.SYNC_STATUS_MISS_RUN n then (c.flyMissed n).flyLost n else c.flyMissed n := rfl

def missedSpots : List Spot := [.one FLYER.SYNC_STATUS_MISS_RUN, .one FLYER.SYNC_STATUS_CYCLE_OK]

theorem Chip.flyMissed_frame (hn : n < 96) : c.Frame [.flyers, .drift] (Touched missedSpots) (c.flyMissed n) :=
  Chip.away_eq_iff.mp ((Chip.away_updFly (by decide)).trans ((Chip.away_setFld (by decide) hn).trans ((Chip.away_bump (by decide) hn).trans
    (Chip.away_babbleCycle (by decide)))))

theorem Chip.flyMissed_says (hn : n < 96) : (c.flyMissed n).fld FLYER.SYNC_STATUS_MISS_RUN n = min (c.fld FLYER.SYNC_STATUS_MISS_RUN n + 1) 15 ∧
    (c.flyMissed n).fld FLYER.SYNC_STATUS_CYCLE_OK n = 0 ∧ ((c.flyMissed n).fly n).predicted = (c.fly n).predicted + c.flyLen n ∧
    ((c.flyMissed n).fly n).tx = (c.fly n).tx := by
  obtain ⟨r, hr⟩ := Chip.babbleCycle_fly (c := c) (n := n)
  have hcycle : c.Frame [.flyers, .drift] (fun _ => False) (c.babbleCycle n) := Chip.babbleCycle_frame
  have hlen : (((c.babbleCycle n).bump FLYER.SYNC_STATUS_MISS_RUN n).setFld FLYER.SYNC_STATUS_CYCLE_OK 0 n).flyLen n = c.flyLen n := by
    refine Chip.flyLen_congr ?_ (hcycle.flyTables (by decide))
    have hset : (((c.babbleCycle n).bump FLYER.SYNC_STATUS_MISS_RUN n).setFld FLYER.SYNC_STATUS_CYCLE_OK 0 n).fly n = (c.babbleCycle n).fly n :=
      Chip.fly_congr rfl
    rw [hset, hr]
  have hfly : (c.flyMissed n).fly n = { (c.babbleCycle n).fly n with
      lastMiss := some ((c.babbleCycle n).fly n).predicted, predicted := ((c.babbleCycle n).fly n).predicted + c.flyLen n } := by
    rw [Chip.flyMissed, Chip.fly_updFly_self, hlen]
    rfl
  refine ⟨?_, ?_, by rw [hfly, hr], by rw [hfly, hr]⟩
  · have hbump := (c.babbleCycle n).counts_bump FLYER.SYNC_STATUS_MISS_RUN n
    rw [Chip.Counts, hcycle.fld _ _ _ id] at hbump
    rw [Chip.flyMissed, Chip.fld_updFly, Chip.fld_setFld_apart (by decide) hn (by decide) hn (by decide), hbump]
    rfl
  · rw [Chip.flyMissed, Chip.fld_updFly, Chip.fld_setFld_self]
    rfl

/-- What a missed beacon leaves, kept or lost. -/
theorem Chip.flyMiss_says (hn : n < 96) : let run := min (c.fld FLYER.SYNC_STATUS_MISS_RUN n + 1) 15
    (c.flyMiss n).fld FLYER.SYNC_STATUS_MISS_RUN n = run ∧ (c.flyMiss n).fld FLYER.SYNC_STATUS_CYCLE_OK n = 0 ∧
      ((c.flyMiss n).fly n).predicted = (c.fly n).predicted + c.flyLen n ∧ (run < c.flyLoss n → (c.flyMiss n).flySt n = c.flySt n) ∧
      (c.flyLoss n ≤ run → c.Loses (c.flyMiss n) n) := by
  obtain ⟨hrun, hok, hpred, htx⟩ := c.flyMissed_says hn
  have hframe := c.flyMissed_frame hn
  have hloss : (c.flyMissed n).flyLoss n = c.flyLoss n :=
    congrArg (max 2) (hframe.fld_apart FLYER.CFG_LOSS_CYCLES n 0 (by decide) hn (by decide))
  have hst : (c.flyMissed n).flySt n = c.flySt n := hframe.fld_apart FLYER.SYNC_STATUS_STATE n 0 (by decide) hn (by decide)
  have hcnt := hframe.fld_apart FLYER.SYNC_LOSS_COUNT n 0 (by decide) hn (by decide)
  have hcut := hframe.fld_apart FLYER.TRUNCATED_COUNT n 0 (by decide) hn (by decide)
  have hup := hframe.domUp .aon (not_touched (by decide) 0 0 (by decide) (by decide))
  have hnow : (c.flyMissed n).now = c.now := hframe.now (by decide)
  rw [Chip.flyMiss_eq, hloss, hrun]
  generalize c.flyMissed n = e at hrun hok hpred htx hst hcnt hcut hup hnow
  intro run
  by_cases hlim : c.flyLoss n ≤ run
  · rw [if_pos hlim]
    obtain ⟨⟨hst', hlost, hset, htell, htx', htrunc⟩, hpred', hok', hrun'⟩ := e.flyLost_loses hn
    refine ⟨hrun'.trans hrun, hok', hpred'.trans hpred, fun hlt => absurd hlt (Nat.not_lt.mpr hlim), fun _ => ⟨hst', ?_, hset,
      fun h => htell (hup.trans h), htx', fun x hx hlt => ?_⟩⟩
    · rw [Chip.Counts, ← hcnt]
      exact hlost
    · rw [Chip.Counts, ← hcut]
      exact htrunc x (htx.trans hx) (hnow.trans_lt hlt)
  · rw [if_neg hlim]
    exact ⟨hrun, hok, hpred, fun _ => hst, fun hle => absurd hle hlim⟩
end

/-! ### Fields below an indexed row -/

theorem cellKey_lt_of_page {p p' o o' l l' i i' : Nat} (h : p < p') (ho : o < 4096) (hl : l < 32) (hi : i < 65536) :
    cellKey p o l i < cellKey p' o' l' i' := by
  unfold cellKey
  omega

theorem cellKey_lt_of_off {p o o' l l' i i' : Nat} (h : o < o') (hl : l < 32) (hi : i < 65536) : cellKey p o l i < cellKey p o' l' i' := by
  unfold cellKey
  omega

/-- A field at a lower offset of the page, whatever the index. -/
theorem FieldRow.key_ne_of_below {r q : FieldRow} {n k : Nat} (h : decide (q.off < r.off ∧ q.lo < 32 ∧ q.cls = r.cls) = true) :
    q.key n 0 ≠ r.key n k := by
  obtain ⟨ho, hl, hcls⟩ := of_decide_eq_true h
  rw [FieldRow.key, FieldRow.key, hcls]
  exact Nat.ne_of_lt (cellKey_lt_of_off ho hl (by decide))

section
variable {a c d : Chip} {n k : Nat}

theorem flyerKey_indexed_not_level {r : FieldRow} (h : r.cls = .flyer) : r.key n k ∉ levelKeys := by
  have hall : ∀ x ∈ levelKeys, x < cellKey 0x180 0 0 0 := by decide
  intro hmem
  have hge : cellKey 0x180 0 0 0 ≤ r.key n k := by
    have hbase : PageCls.flyer.base = 0x180 := rfl
    rw [FieldRow.key, h, hbase]
    unfold cellKey
    omega
  exact absurd (hall _ hmem) (Nat.not_lt.mpr hge)

/-! ### A beacon that is accepted -/

/-- The registers of the slot that becomes active. -/
def Chip.slotActive (c : Chip) (n k : Nat) : Chip :=
  ((c.updFly n fun f => { f with active := some k }).setFld FLYER.TT_SLOT_ACTIVE 1 n k).setFld FLYER.TT_SLOT_ACTIVE 0 n (1 - k)

def Chip.slotShown (c : Chip) (n k : Nat) : Chip :=
  (((c.slotActive n k).setFld FLYER.SYNC_STATUS_ACTIVE_SLOT k n).setFld FLYER.SYNC_STATUS_TABLE_ID
    (((c.slotActive n k).setFld FLYER.SYNC_STATUS_ACTIVE_SLOT k n).slotId n k) n).setFld FLYER.TT_SEAL_STATUS_STAGE_SLOT (1 - k) n

theorem Chip.activateSlot_eq : c.activateSlot n k =
    if (c.fly n).active = some k then c.slotShown n k else (c.slotShown n k).fault FLYER.FAULT_STATUS_SLOT_SWITCH n := rfl

theorem Chip.slotShown_state (hn : n < 96) : (c.slotShown n k).flySt n = c.flySt n := by
  have hact : (c.slotActive n k).fld FLYER.SYNC_STATUS_STATE n = c.fld FLYER.SYNC_STATUS_STATE n := by
    rw [Chip.slotActive, Chip.fld_setFld_ne _ _ _ _ _ _ _ _ (FieldRow.key_ne_of_below (by decide)),
      Chip.fld_setFld_ne _ _ _ _ _ _ _ _ (FieldRow.key_ne_of_below (by decide)), Chip.fld_updFly]
  rw [Chip.flySt, Chip.slotShown, Chip.fld_setFld_apart (by decide) hn (by decide) hn (by decide),
    Chip.fld_setFld_apart (by decide) hn (by decide) hn (by decide), Chip.fld_setFld_apart (by decide) hn (by decide) hn (by decide), hact]
  rfl

theorem Chip.slotShown_fly : (c.slotShown n k).fly n = { c.fly n with active := some k } := by
  have hset : (c.slotShown n k).flyers = (c.updFly n fun f => { f with active := some k }).flyers := rfl
  rw [Chip.fly_congr hset, Chip.fly_updFly_self]

theorem Chip.activateSlot_says (hn : n < 96) : (c.activateSlot n k).flySt n = c.flySt n ∧
    (c.activateSlot n k).fly n = { c.fly n with active := some k } ∧ (c.activateSlot n k).flyTables = c.flyTables := by
  rw [Chip.activateSlot_eq]
  split_ifs
  · exact ⟨Chip.slotShown_state hn, Chip.slotShown_fly, rfl⟩
  · exact ⟨(Chip.fld_fault_apart FLYER.FAULT_STATUS_SLOT_SWITCH FLYER.SYNC_STATUS_STATE (by decide) hn hn hn).trans (Chip.slotShown_state hn),
      (Chip.fly_congr (Chip.fault_flyers _ _ _)).trans Chip.slotShown_fly, (Chip.raise_flyTables _ _ _).trans rfl⟩

/-- The cycle that a beacon starts. -/
def Chip.beaconTaken (c : Chip) (n k start : Nat) : Chip :=
  ((c.babbleCycle n).activateSlot n k).updFly n fun f =>
    { f with anchor := start, predicted := start + ((c.babbleCycle n).activateSlot n k).slotLen n k * nsQ, lastMiss := none, extEnd := none }

/-- The registers of the cycle that a beacon starts. -/
def Chip.beaconShown (c : Chip) (n : Nat) (own : Bool) : Chip :=
  (((c.setFld FLYER.SYNC_STATUS_MISS_RUN 0 n).setBit FLYER.SYNC_STATUS_MASTER_SELF own n).setFld FLYER.SYNC_STATUS_CYCLE_OK 1 n).setFld
    FLYER.SYNC_STATUS_EXT_ALLOW 0 n

/-- The state that an accepted beacon gives. -/
def Chip.beaconStepped (c : Chip) (n : Nat) : Chip :=
  if c.flySt n = fyUNSYNC then c.setFld FLYER.SYNC_STATUS_STATE fySYNCWAIT n
  else if c.flySt n = fySYNCWAIT then (c.setFld FLYER.SYNC_STATUS_STATE fySYNC n).fault FLYER.FAULT_STATUS_SYNC_GAINED n
  else c

theorem Chip.flyAccept_eq (start : Nat) (own : Bool) :
    c.flyAccept n k start own = ((c.beaconTaken n k start).beaconShown n own).beaconStepped n := rfl

theorem Chip.beaconTaken_says (hn : n < 96) (start : Nat) : (c.beaconTaken n k start).flySt n = c.flySt n ∧
    ((c.beaconTaken n k start).fly n).active = some k ∧ ((c.beaconTaken n k start).fly n).anchor = start ∧
    ((c.beaconTaken n k start).fly n).predicted = start + c.slotLen n k * nsQ := by
  have hcycle : c.Frame [.flyers, .drift] (fun _ => False) (c.babbleCycle n) := Chip.babbleCycle_frame
  obtain ⟨hst, hfly, htab⟩ := (c.babbleCycle n).activateSlot_says (k := k) hn
  have hlen : ((c.babbleCycle n).activateSlot n k).slotLen n k = c.slotLen n k := by
    rw [Chip.slotLen, Chip.flyW, htab, hcycle.flyTables (by decide), Chip.slotLen, Chip.flyW]
  have hnew : (c.beaconTaken n k start).fly n = { ((c.babbleCycle n).activateSlot n k).fly n with
      anchor := start, predicted := start + c.slotLen n k * nsQ, lastMiss := none, extEnd := none } := by
    rw [Chip.beaconTaken, Chip.fly_updFly_self, hlen]
  refine ⟨?_, by rw [hnew, hfly], by rw [hnew], by rw [hnew]⟩
  rw [Chip.flySt, Chip.beaconTaken, Chip.fld_updFly]
  exact hst.trans (hcycle.fld _ _ _ id)

theorem Chip.beaconShown_says (hn : n < 96) (own : Bool) : (c.beaconShown n own).flySt n = c.flySt n ∧
    (c.beaconShown n own).fld FLYER.SYNC_STATUS_MISS_RUN n = 0 ∧ (c.beaconShown n own).fld FLYER.SYNC_STATUS_CYCLE_OK n = 1 ∧
    (c.beaconShown n own).fld FLYER.SYNC_STATUS_MASTER_SELF n = if own then 1 else 0 := by
  refine ⟨?_, ?_, ?_, ?_⟩
  · rw [Chip.flySt, Chip.beaconShown, Chip.fld_setFld_apart (by decide) hn (by decide) hn (by decide),
      Chip.fld_setFld_apart (by decide) hn (by decide) hn (by decide), Chip.setBit, Chip.fld_setFld_apart (by decide) hn (by decide) hn (by decide),
      Chip.fld_setFld_apart (by decide) hn (by decide) hn (by decide)]
    rfl
  · rw [Chip.beaconShown, Chip.fld_setFld_apart (by decide) hn (by decide) hn (by decide),
      Chip.fld_setFld_apart (by decide) hn (by decide) hn (by decide), Chip.setBit, Chip.fld_setFld_apart (by decide) hn (by decide) hn (by decide),
      Chip.fld_setFld_self]
    rfl
  · rw [Chip.beaconShown, Chip.fld_setFld_apart (by decide) hn (by decide) hn (by decide), Chip.fld_setFld_self]
    rfl
  · rw [Chip.beaconShown, Chip.fld_setFld_apart (by decide) hn (by decide) hn (by decide),
      Chip.fld_setFld_apart (by decide) hn (by decide) hn (by decide), Chip.fld_setBit_self own rfl]

def steppedSpots : List Spot := [.one FLYER.SYNC_STATUS_STATE, .one FLYER.FAULT_STATUS_SYNC_GAINED, .evt .flyer]

theorem Chip.beaconStepped_frame (hn : n < 96) : c.Frame [] (Touched steppedSpots) (c.beaconStepped n) := by
  refine Chip.Frame.ite (fun _ => ?_) fun _ => Chip.Frame.ite (fun _ => ?_) fun _ => .refl c
  · exact Chip.away_eq_iff.mp (Chip.away_setFld (by decide) hn)
  · exact Chip.away_eq_iff.mp ((Chip.away_fault (by decide) (by decide) hn hn).trans (Chip.away_setFld (by decide) hn))

theorem Chip.beaconStepped_state (hn : n < 96) (h : c.flySt n ∈ [fyUNSYNC, fySYNCWAIT, fySYNC]) :
    (c.beaconStepped n).flySt n = if c.flySt n = fyUNSYNC then fySYNCWAIT else fySYNC := by
  have hset (v : Nat) (hv : v < 8) : (c.setFld FLYER.SYNC_STATUS_STATE v n).flySt n = v :=
    (Chip.fld_setFld_self _ _ _ _ _).trans (Nat.mod_eq_of_lt hv)
  unfold Chip.beaconStepped
  by_cases h1 : c.flySt n = fyUNSYNC
  · rw [if_pos h1, if_pos h1, hset _ (by decide)]
  · rw [if_neg h1, if_neg h1]
    by_cases h2 : c.flySt n = fySYNCWAIT
    · rw [if_pos h2]
      exact (Chip.fld_fault_apart FLYER.FAULT_STATUS_SYNC_GAINED FLYER.SYNC_STATUS_STATE (by decide) hn hn hn).trans (hset _ (by decide))
    · rw [if_neg h2]
      simpa [h1, h2] using h

/-- What an accepted beacon leaves. -/
theorem Chip.flyAccept_says (hn : n < 96) (start : Nat) (own : Bool) (h : c.flySt n ∈ [fyUNSYNC, fySYNCWAIT, fySYNC]) :
    let d := c.flyAccept n k start own
    (d.fly n).active = some k ∧ (d.fly n).anchor = start ∧ (d.fly n).predicted = start + c.slotLen n k * nsQ ∧
      d.fld FLYER.SYNC_STATUS_MISS_RUN n = 0 ∧ d.fld FLYER.SYNC_STATUS_CYCLE_OK n = 1 ∧
      d.fld FLYER.SYNC_STATUS_MASTER_SELF n = (if own then 1 else 0) ∧ d.flySt n = if c.flySt n = fyUNSYNC then fySYNCWAIT else fySYNC := by
  obtain ⟨hst, hact, hanch, hpred⟩ := c.beaconTaken_says (k := k) hn start
  rw [Chip.flyAccept_eq]
  generalize c.beaconTaken n k start = e at hst hact hanch hpred
  obtain ⟨hst', hmiss, hok, hself⟩ := e.beaconShown_says hn own
  have hflyers : (e.beaconShown n own).flyers = e.flyers := rfl
  generalize e.beaconShown n own = g at hst' hmiss hok hself hflyers
  have hframe := g.beaconStepped_frame hn
  have hfly : (g.beaconStepped n).fly n = e.fly n := Chip.fly_congr ((hframe.flyers (by decide)).trans hflyers)
  have hfld (r : FieldRow) (hr : (r.placed && steppedSpots.all r.apart) = true) (hc : r.cls.count = 96) :
      (g.beaconStepped n).fld r n = g.fld r n := hframe.fld_apart r n 0 hr (by rw [hc]; exact hn) (by decide)
  refine ⟨by rw [hfly, hact], by rw [hfly, hanch], by rw [hfly, hpred], (hfld _ (by decide) rfl).trans hmiss, (hfld _ (by decide) rfl).trans hok,
    (hfld _ (by decide) rfl).trans hself, ?_⟩
  rw [Chip.beaconStepped_state hn (by rw [hst', hst]; exact h), hst', hst]

/-! ### Which beacon is accepted -/

/-- The frame is a beacon that keeps its FCS. -/
def BeaconOk (octets : List Byte) : Prop :=
  let f := parseSeg (octets.take (octets.length - 4))
  crc32 (octets.take (octets.length - 4)) = leNat (octets.drop (octets.length - 4)) ∧ f.skein = true ∧ f.ver = 1 ∧ f.typ = ftBEACON

/-- When the frame started, at the transceiver or at the line. -/
def Chip.beaconStart (c : Chip) (n stamp : Nat) : Int :=
  c.flyStart stamp - (if c.on FLYER.TX_STATUS_DRIVER_ON n then 0 else c.lineDelay n : Nat)

/-- A beacon rejected. -/
def Chip.beaconRejected (c : Chip) (n : Nat) : Chip := (c.bump FLYER.BEACON_REJECT_COUNT n).fault FLYER.FAULT_STATUS_BEACON_REJECT n

variable {stamp : Nat} {octets : List Byte} {b : BeaconBody}

theorem Chip.flyDetect_other (h : crc32 (octets.take (octets.length - 4)) ≠ leNat (octets.drop (octets.length - 4))) :
    c.flyDetect n stamp octets = c := if_neg fun hc => h hc.1

theorem Chip.flyDetect_beacon (h : BeaconOk octets) (hb : (parseSeg (octets.take (octets.length - 4))).body.bind parseBeacon = some b) :
    c.flyDetect n stamp octets =
      if c.flySt n = fyUNSYNC ∧ c.on WHORL.REFCLK_STATUS_FAULT then c
      else match c.matchSlot n b.tableId b.cycleLen with
        | some k =>
          if c.flyTakes n (c.beaconStart n stamp) ((parseSeg (octets.take (octets.length - 4))).flags.testBit 5) then
            c.flyAccept n k (c.beaconStart n stamp).toNat (c.on FLYER.TX_STATUS_DRIVER_ON n)
          else c.beaconRejected n
        | none => c.beaconRejected n := by
  unfold Chip.flyDetect
  refine (if_pos h).trans ?_
  rw [hb]
  rfl

theorem Chip.flyDetect_accepts (h : BeaconOk octets) (hb : (parseSeg (octets.take (octets.length - 4))).body.bind parseBeacon = some b)
    (hk : c.matchSlot n b.tableId b.cycleLen = some k) (href : ¬ (c.flySt n = fyUNSYNC ∧ c.on WHORL.REFCLK_STATUS_FAULT = true))
    (ht : c.flyTakes n (c.beaconStart n stamp) ((parseSeg (octets.take (octets.length - 4))).flags.testBit 5) = true) :
    c.flyDetect n stamp octets = c.flyAccept n k (c.beaconStart n stamp).toNat (c.on FLYER.TX_STATUS_DRIVER_ON n) := by
  rw [Chip.flyDetect_beacon h hb, if_neg href, hk]
  exact if_pos ht

theorem Chip.flyDetect_rejects (h : BeaconOk octets) (hb : (parseSeg (octets.take (octets.length - 4))).body.bind parseBeacon = some b)
    (hk : c.matchSlot n b.tableId b.cycleLen = none) (hst : c.flySt n ≠ fyUNSYNC) : c.flyDetect n stamp octets = c.beaconRejected n := by
  rw [Chip.flyDetect_beacon h hb, if_neg fun hc => hst hc.1, hk]

theorem Chip.flyTakes_unsync {start : Int} {ext : Bool} (h : c.flySt n = fyUNSYNC) : c.flyTakes n start ext = true := by
  unfold Chip.flyTakes
  rw [h]
  rfl

theorem Chip.beaconRejected_says (hn : n < 96) : c.Counts (c.beaconRejected n) FLYER.BEACON_REJECT_COUNT n ∧
    (c.beaconRejected n).fld FLYER.FAULT_STATUS_BEACON_REJECT n = 1 ∧ c.Tells (c.beaconRejected n) EV.FLYER_GUARD_EVENT n := by
  have hb : c.Frame [] (Touched [.one FLYER.BEACON_REJECT_COUNT]) (c.bump FLYER.BEACON_REJECT_COUNT n) :=
    (Chip.Frame.refl c).bump _ _ _ (cells_one (by decide) hn)
  refine ⟨?_, Chip.fault_sets (by decide) (by decide) hn hn, Chip.fault_tells ?_ (by decide) hn⟩
  · rw [Chip.Counts, Chip.beaconRejected, Chip.fld_fault_apart FLYER.FAULT_STATUS_BEACON_REJECT FLYER.BEACON_REJECT_COUNT (by decide) hn hn hn]
    exact c.counts_bump _ _
  · exact hb.domUp .aon (not_touched (by decide) 0 0 (by decide) (by decide))

theorem Chip.beaconRejected_frame : c.Frame [] (· ∈ [FLYER.BEACON_REJECT_COUNT.key n 0, FLYER.FAULT_STATUS_BEACON_REJECT.key n 0,
    EV.FLYER_GUARD_EVENT.key n]) (c.beaconRejected n) :=
  (((Chip.Frame.refl c).bump _ n 0 (by simp)).flag _ 1 n 0 (by simp)).raise EV.FLYER_GUARD_EVENT n (by simp)
end

/-! ### Seals (R173 to R175) -/

section
variable {c d : Chip} {n k : Nat} {p : Port} {v : Nat}

/-- A seal command with the key, and not both of its operations. -/
def SealOp (v : Nat) : Prop := ¬ (bitsOf v 31 16 ≠ 0x5345 ∨ ((bitsOf v 0 0 == 1) = true ∧ (bitsOf v 1 1 == 1) = true))

theorem Chip.sealCmd_refuses (h : ¬ SealOp v) : c.sealCmd n p v = c.refuse FLYER.TT_SEAL_CMD_SEAL p n := by
  unfold Chip.sealCmd
  exact if_pos (not_not.mp h)

theorem Chip.sealCmd_seals (h : SealOp v) (h0 : bitsOf v 0 0 = 1) : c.sealCmd n p v =
    if c.fld FLYER.TT_SEAL_STATUS_STATE n = 1 then c.refuse FLYER.TT_SEAL_CMD_SEAL p n
    else if c.slotSealed n (c.stageSlot n) then c
    else (c.setFld FLYER.TT_SEAL_STATUS_STATE 1 n).updFly n fun f =>
        { f with sealing := some (c.stageSlot n), sealImage := c.slotImage n (c.stageSlot n), sealCrc := c.fld FLYER.TT_STAGE_CRC_CRC n } := by
  unfold Chip.sealCmd
  exact (if_neg h).trans (if_pos (beq_iff_eq.mpr h0))

theorem Chip.sealCmd_unseals (h : SealOp v) (h0 : bitsOf v 0 0 = 0) (h1 : bitsOf v 1 1 = 1) : c.sealCmd n p v =
    if c.fld SEGMENT.TT_STATUS_STATE n = 1 ∨ (c.fly n).active = some (c.stageSlot n) then
      (c.refuse FLYER.TT_SEAL_CMD_SEAL p n).setFld FLYER.TT_SEAL_STATUS_CAUSE 6 n
    else c.setFld FLYER.TT_SLOT_SEALED 0 n (c.stageSlot n) := by
  unfold Chip.sealCmd
  exact (if_neg h).trans ((if_neg (by rw [h0]; decide)).trans (if_pos (beq_iff_eq.mpr h1)))

theorem sealOp_of {a b : Nat} (hk : bitsOf v 31 16 = 0x5345) (h0 : bitsOf v 0 0 = a) (h1 : bitsOf v 1 1 = b) (h : ¬ (a = 1 ∧ b = 1)) :
    SealOp v := by
  rintro (hne | ⟨hs, hu⟩)
  · exact hne hk
  · exact h ⟨h0.symm.trans (beq_iff_eq.mp hs), h1.symm.trans (beq_iff_eq.mp hu)⟩

/-- The seal checks have no other causes. -/
theorem Chip.sealCause_lt {img : List Nat} {crc : Nat} : c.sealCause n k img crc < 16 := by
  unfold Chip.sealCause
  dsimp only
  split_ifs <;> decide

/-- The Flyer as the checks end. -/
def Chip.sealEnded (c : Chip) (n : Nat) : Chip := c.setFly n { c.fly n with sealing := none, sealImage := [], sealCrc := 0 }

theorem Chip.sealDone_none (h : (c.fly n).sealing = none) : c.sealDone n = c := by
  unfold Chip.sealDone
  dsimp only
  rw [h]

theorem Chip.sealDone_some (h : (c.fly n).sealing = some k) : c.sealDone n =
    if c.sealCause n k (c.fly n).sealImage (c.fly n).sealCrc = 0 then
      (((c.sealEnded n).setFld FLYER.TT_SEAL_STATUS_STATE 2 n).setFld FLYER.TT_SLOT_SEALED 1 n k).fault FLYER.FAULT_STATUS_SEAL_DONE n
    else (((c.sealEnded n).setFld FLYER.TT_SEAL_STATUS_STATE 3 n).setFld FLYER.TT_SEAL_STATUS_CAUSE
      (c.sealCause n k (c.fly n).sealImage (c.fly n).sealCrc) n).fault FLYER.FAULT_STATUS_SEAL_FAIL n := by
  unfold Chip.sealDone
  dsimp only
  rw [h]
  rfl

/-- A slot whose seal bit is set, whatever its number. -/
theorem Chip.sealSet_says (hn : n < 96) (hd : d = (((c.sealEnded n).setFld FLYER.TT_SEAL_STATUS_STATE 2 n).setFld FLYER.TT_SLOT_SEALED 1 n k).fault
    FLYER.FAULT_STATUS_SEAL_DONE n) : d.fld FLYER.TT_SEAL_STATUS_STATE n = 2 ∧ d.fld FLYER.TT_SLOT_SEALED n k = 1 ∧
      d.fld FLYER.FAULT_STATUS_SEAL_DONE n = 1 ∧ c.Tells d EV.FLYER_GUARD_EVENT n := by
  subst hd
  refine ⟨?_, ?_, Chip.fault_sets (by decide) (by decide) hn hn, Chip.fault_tells ?_ (by decide) hn⟩
  · rw [Chip.fld_fault_apart FLYER.FAULT_STATUS_SEAL_DONE FLYER.TT_SEAL_STATUS_STATE (by decide) hn hn hn,
      Chip.fld_setFld_ne _ _ _ _ _ _ _ _ (FieldRow.key_ne_of_below (by decide)), Chip.fld_setFld_self]
    rfl
  · have hfault : FLYER.TT_SLOT_SEALED.key n k ≠ FLYER.FAULT_STATUS_SEAL_DONE.key n 0 := (FieldRow.key_ne_of_below (by decide)).symm
    have hevt : FLYER.TT_SLOT_SEALED.key n k ≠ EV.FLYER_GUARD_EVENT.key n := by
      rw [Evt.key, HdrRow.key]
      exact (Nat.ne_of_lt (cellKey_lt_of_off (by decide) (by decide) (by decide))).symm
    have hset : (((c.sealEnded n).setFld FLYER.TT_SEAL_STATUS_STATE 2 n).setFld FLYER.TT_SLOT_SEALED 1 n k).fld FLYER.TT_SLOT_SEALED n k = 1 :=
      Chip.fld_setFld_self _ _ _ _ _
    rw [Chip.fault, Chip.fld_raise_ne _ _ _ _ _ _ hevt, Chip.fld_flag_ne _ _ _ _ _ _ _ _ hfault]
    exact hset
  · have hkey (r : FieldRow) (i : Nat) (h : r.cls = .flyer) : (Domain.row .aon).key 0 0 ≠ r.key n i := by
      rw [FieldRow.key, FieldRow.key, h]
      exact Nat.ne_of_lt (cellKey_lt_of_page (Nat.lt_of_lt_of_le (by decide) (Nat.le_add_right _ _)) (by decide) (by decide) (by decide))
    have hdom : (((c.sealEnded n).setFld FLYER.TT_SEAL_STATUS_STATE 2 n).setFld FLYER.TT_SLOT_SEALED 1 n k).dom .aon = c.dom .aon :=
      (Chip.fld_setFld_ne _ _ _ _ _ _ _ _ (hkey _ _ rfl)).trans (Chip.fld_setFld_ne _ _ _ _ _ _ _ _ (hkey _ _ rfl))
    rw [Chip.domUp, hdom, Chip.domUp]

theorem Chip.sealFailed_says {cause : Nat} (hn : n < 96) (hc : cause < 16)
    (hd : d = (((c.sealEnded n).setFld FLYER.TT_SEAL_STATUS_STATE 3 n).setFld FLYER.TT_SEAL_STATUS_CAUSE cause n).fault
      FLYER.FAULT_STATUS_SEAL_FAIL n) : d.fld FLYER.TT_SEAL_STATUS_STATE n = 3 ∧ d.fld FLYER.TT_SEAL_STATUS_CAUSE n = cause ∧
      d.fld FLYER.FAULT_STATUS_SEAL_FAIL n = 1 ∧ c.Tells d EV.FLYER_GUARD_EVENT n := by
  subst hd
  have hset : c.Frame [.flyers] (Touched [.one FLYER.TT_SEAL_STATUS_STATE, .one FLYER.TT_SEAL_STATUS_CAUSE])
      (((c.sealEnded n).setFld FLYER.TT_SEAL_STATUS_STATE 3 n).setFld FLYER.TT_SEAL_STATUS_CAUSE cause n) :=
    Chip.away_eq_iff.mp ((Chip.away_setFld (by decide) hn).trans ((Chip.away_setFld (by decide) hn).trans (Chip.away_withFlyers (by decide))))
  refine ⟨?_, ?_, Chip.fault_sets (by decide) (by decide) hn hn, Chip.fault_tells ?_ (by decide) hn⟩
  · rw [Chip.fld_fault_apart FLYER.FAULT_STATUS_SEAL_FAIL FLYER.TT_SEAL_STATUS_STATE (by decide) hn hn hn,
      Chip.fld_setFld_apart (by decide) hn (by decide) hn (by decide), Chip.fld_setFld_self]
    rfl
  · rw [Chip.fld_fault_apart FLYER.FAULT_STATUS_SEAL_FAIL FLYER.TT_SEAL_STATUS_CAUSE (by decide) hn hn hn, Chip.fld_setFld_self]
    exact Nat.mod_eq_of_lt hc
  · exact hset.domUp .aon (not_touched (by decide) 0 0 (by decide) (by decide))
end

/-! ### Segment power by command (R193) -/

section
variable {c d : Chip} {n k v : Nat}

/-- What a restore clears. -/
def Chip.pwrCleared (c : Chip) (n : Nat) (restore : Bool) : Chip :=
  if restore then (c.zeroRuns n).updFly n fun f => { f with cutCount := 0 } else c

/-- The registers and the runs as a write of PWR_CTRL leaves them. -/
def Chip.pwrWritten (c : Chip) (n v : Nat) : Chip :=
  let d := (c.setFld FLYER.PWR_CTRL_ON (bitsOf v 0 0) n).pwrCleared n (bitsOf v 31 31 == 1)
  if bitsOf v 0 0 = 0 then d.setFld FLYER.PWR_CTRL_STATE pwOFF n
  else if c.fld FLYER.PWR_CTRL_STATE n = pwOFF ∨ (bitsOf v 31 31 == 1) = true then
    (d.setFld FLYER.PWR_CTRL_STATE pwON n).updFly n fun f => { f with cleanFrom := d.now }
  else d

theorem Chip.pwrWrite_eq : c.pwrWrite n v = c.power1 n fun d => d.pwrWritten n v := rfl

theorem Chip.pwrCleared_frame {K : Nat → Prop} {r : Bool} : c.Frame [.flyers, .drift] K (c.pwrCleared n r) := by
  have hz : c.Frame [.flyers, .drift] K (c.zeroRuns n) :=
    (Chip.away_eq_iff.mp (Chip.away_zeroRuns (c := c) (n := n) (S := [.flyers, .drift]) (R := []) (by decide))).mono (List.Subset.refl _)
      fun _ h => by
        obtain ⟨_, hs, _⟩ := h
        cases hs
  exact .ite (fun _ => hz.withFlyers _ (by decide)) fun _ => .refl c

/-- The runs are zero, and so is the count of cuts. -/
def Chip.RunsCleared (d : Chip) (n : Nat) : Prop :=
  (d.fly n).cutCount = 0 ∧ (d.fly n).unattrRun = 0 ∧ ∀ j, j < 64 → (d.driftRec n j).babbleRun = 0

theorem Chip.pwrCleared_clears : (c.pwrCleared n true).RunsCleared n := by
  have hcl : c.pwrCleared n true = (c.zeroRuns n).updFly n fun f => { f with cutCount := 0 } := rfl
  have hz : c.zeroRuns n = ((List.range 64).foldl (fun d k => d.setDrift n k { d.driftRec n k with babbleRun := 0 }) c).updFly n
      fun f => { f with unattrRun := 0 } := rfl
  have hupd (d : Chip) (f : Flyer → Flyer) : (d.updFly n f).drift = d.drift := rfl
  rw [hcl]
  refine ⟨by rw [Chip.fly_updFly_self], ?_, fun j hj => ?_⟩
  · rw [Chip.fly_updFly_self, hz, Chip.fly_updFly_self]
  · rw [Chip.driftRec_congr (hupd _ _), hz, Chip.driftRec_congr (hupd _ _), Chip.driftRec_foldl (f := fun k x => { x with babbleRun := 0 }) hj]

theorem Chip.RunsCleared.of_eq (h : c.RunsCleared n) (hf : (d.fly n).cutCount = (c.fly n).cutCount) (hu : (d.fly n).unattrRun = (c.fly n).unattrRun)
    (hd : d.drift = c.drift) : d.RunsCleared n := by
  obtain ⟨hcut, hun, hruns⟩ := h
  exact ⟨hf.trans hcut, hu.trans hun, fun j hj => by rw [Chip.driftRec_congr hd, hruns j hj]⟩

theorem Chip.power1_chain {f : Chip → Chip} : (c.power1 n f).chain =
    if (f c).chainBit n = c.chainBit n then (f c).chain else { (f c).chain with dirty := true } := by
  unfold Chip.power1
  dsimp only
  split_ifs
  · rfl
  · rfl

/-- The registers after a write of ON, before its state. -/
def Chip.pwrTaken (c : Chip) (n v : Nat) : Chip := (c.setFld FLYER.PWR_CTRL_ON (bitsOf v 0 0) n).pwrCleared n (bitsOf v 31 31 == 1)

theorem Chip.pwrTaken_says (hn : n < 96) : (c.pwrTaken n v).fld FLYER.PWR_CTRL_ON n = bitsOf v 0 0 ∧
    (c.pwrTaken n v).fld FLYER.PWR_CTRL_STATE n = c.fld FLYER.PWR_CTRL_STATE n ∧ (c.pwrTaken n v).chain = c.chain ∧
    (bitsOf v 31 31 = 1 → (c.pwrTaken n v).RunsCleared n) := by
  have hcl : (c.setFld FLYER.PWR_CTRL_ON (bitsOf v 0 0) n).Frame [.flyers, .drift] (fun _ => False) (c.pwrTaken n v) := Chip.pwrCleared_frame
  refine ⟨(hcl.fld _ _ _ id).trans ((Chip.fld_setFld_self _ _ _ _ _).trans (Nat.mod_eq_of_lt (bitsOf_lt (w := _) 0 0))),
    (hcl.fld _ _ _ id).trans (Chip.fld_setFld_apart (by decide) hn (by decide) hn (by decide)), (hcl.chain (by decide)).trans rfl, fun h => ?_⟩
  rw [Chip.pwrTaken, h]
  exact Chip.pwrCleared_clears

theorem Chip.pwrTaken_frame : c.Frame [.flyers, .drift] (· ∈ [FLYER.PWR_CTRL_ON.key n 0]) (c.pwrTaken n v) :=
  ((Chip.Frame.refl c).setFld _ _ n 0 (List.mem_singleton.mpr rfl)).trans Chip.pwrCleared_frame

theorem Chip.pwrWritten_off (h : bitsOf v 0 0 = 0) : c.pwrWritten n v = (c.pwrTaken n v).setFld FLYER.PWR_CTRL_STATE pwOFF n := if_pos h

theorem Chip.pwrWritten_on (h : bitsOf v 0 0 = 1) (hr : c.fld FLYER.PWR_CTRL_STATE n = pwOFF ∨ bitsOf v 31 31 = 1) : c.pwrWritten n v =
    ((c.pwrTaken n v).setFld FLYER.PWR_CTRL_STATE pwON n).updFly n fun f => { f with cleanFrom := (c.pwrTaken n v).now } :=
  (if_neg (by rw [h]; decide)).trans (if_pos (hr.imp_right beq_iff_eq.mpr))

theorem Chip.pwrWritten_keeps (h : bitsOf v 0 0 = 1) (hst : c.fld FLYER.PWR_CTRL_STATE n ≠ pwOFF) (hr : bitsOf v 31 31 = 0) :
    c.pwrWritten n v = c.pwrTaken n v :=
  (if_neg (by rw [h]; decide)).trans (if_neg (not_or.mpr ⟨hst, by rw [hr]; decide⟩))

/-- A restore clears the runs, whatever the state. -/
theorem Chip.pwrWrite_clears (hr : bitsOf v 31 31 = 1) (hn : n < 96) : (c.pwrWrite n v).RunsCleared n := by
  obtain ⟨-, -, -, hclear⟩ := c.pwrTaken_says (v := v) hn
  have hset (w : Nat) : ((c.pwrTaken n v).setFld FLYER.PWR_CTRL_STATE w n).RunsCleared n := (hclear hr).of_eq rfl rfl rfl
  have hwritten : (c.pwrWritten n v).RunsCleared n := by
    by_cases h : bitsOf v 0 0 = 0
    · rw [Chip.pwrWritten_off h]
      exact hset _
    · have h1 : bitsOf v 0 0 = 1 := by
        have := bitsOf_lt (w := v) 0 0
        omega
      rw [Chip.pwrWritten_on h1 (.inr hr)]
      exact (hset pwON).of_eq (by rw [Chip.fly_updFly_self]) (by rw [Chip.fly_updFly_self]) rfl
  rw [Chip.pwrWrite_eq]
  exact hwritten.of_eq (congrArg Flyer.cutCount (Chip.fly_congr Chip.power1_flyers)) (congrArg Flyer.unattrRun (Chip.fly_congr Chip.power1_flyers))
    Chip.power1_drift

theorem Chip.chainBit_of_state {st : Nat} (h : c.fld FLYER.PWR_CTRL_STATE n = st) (hne : st ≠ pwON) : c.chainBit n = false := by
  rw [Chip.chainBit, h, beq_eq_false_iff_ne.mpr hne, Bool.and_false]

/-- Power off. -/
theorem Chip.pwrWrite_off (hn : n < 96) (h : bitsOf v 0 0 = 0) : (c.pwrWrite n v).fld FLYER.PWR_CTRL_ON n = 0 ∧
    (c.pwrWrite n v).fld FLYER.PWR_CTRL_STATE n = pwOFF ∧
    (c.pwrWrite n v).chain = { c.chain with dirty := c.chain.dirty || c.chainBit n } ∧
    c.Frame [.flyers, .drift, .chain] (· ∈ [FLYER.PWR_CTRL_ON.key n 0, FLYER.PWR_CTRL_STATE.key n 0]) (c.pwrWrite n v) := by
  obtain ⟨hon, -, hchain, -⟩ := c.pwrTaken_says (v := v) hn
  have hst : (c.pwrWritten n v).fld FLYER.PWR_CTRL_STATE n = pwOFF := by
    rw [Chip.pwrWritten_off h]
    exact Chip.fld_setFld_self _ _ _ _ _
  have hon' : (c.pwrWritten n v).fld FLYER.PWR_CTRL_ON n = 0 := by
    rw [Chip.pwrWritten_off h, Chip.fld_setFld_apart (by decide) hn (by decide) hn (by decide), hon, h]
  have hchain' : (c.pwrWritten n v).chain = c.chain := by
    rw [Chip.pwrWritten_off h]
    exact hchain
  have hframe : c.Frame [.flyers, .drift, .chain] (· ∈ [FLYER.PWR_CTRL_ON.key n 0, FLYER.PWR_CTRL_STATE.key n 0]) (c.pwrWritten n v) := by
    rw [Chip.pwrWritten_off h]
    exact (Chip.pwrTaken_frame.mono (by decide) (by simp)).setFld _ _ n 0 (by simp)
  have hbit : (c.pwrWritten n v).chainBit n = false := Chip.chainBit_of_state hst (by decide)
  rw [Chip.pwrWrite_eq]
  refine ⟨Chip.power1_fld.trans hon', Chip.power1_fld.trans hst, ?_, ?_⟩
  · rw [Chip.power1_chain, hbit, hchain']
    cases c.chainBit n with
    | true => rw [if_neg (by decide), Bool.or_true]
    | false => rw [if_pos rfl, Bool.or_false]
  · unfold Chip.power1
    exact .ite (fun _ => hframe) fun _ => hframe.withChain _ (by decide)

/-- Power on, from off or by a restore. -/
theorem Chip.pwrWrite_on (hn : n < 96) (h : bitsOf v 0 0 = 1) (hr : c.fld FLYER.PWR_CTRL_STATE n = pwOFF ∨ bitsOf v 31 31 = 1) :
    (c.pwrWrite n v).fld FLYER.PWR_CTRL_ON n = 1 ∧ (c.pwrWrite n v).fld FLYER.PWR_CTRL_STATE n = pwON ∧
    (c.fld FLYER.PWR_CTRL_STATE n ≠ pwON → (c.pwrWrite n v).chain.dirty = true) := by
  obtain ⟨hon, -, -, -⟩ := c.pwrTaken_says (v := v) hn
  have hst : (c.pwrWritten n v).fld FLYER.PWR_CTRL_STATE n = pwON := by
    rw [Chip.pwrWritten_on h hr, Chip.fld_updFly]
    exact Chip.fld_setFld_self _ _ _ _ _
  have hon' : (c.pwrWritten n v).fld FLYER.PWR_CTRL_ON n = 1 := by
    rw [Chip.pwrWritten_on h hr, Chip.fld_updFly, Chip.fld_setFld_apart (by decide) hn (by decide) hn (by decide), hon, h]
  have hbit : (c.pwrWritten n v).chainBit n = true := by
    rw [Chip.chainBit, hst, Chip.on, hon']
    rfl
  rw [Chip.pwrWrite_eq]
  refine ⟨Chip.power1_fld.trans hon', Chip.power1_fld.trans hst, fun hne => ?_⟩
  rw [Chip.power1_chain, hbit, Chip.chainBit_of_state rfl hne, if_neg (by decide)]

/-- Power that stays as it is. -/
theorem Chip.pwrWrite_keeps (hn : n < 96) (h : bitsOf v 0 0 = 1) (hst : c.fld FLYER.PWR_CTRL_STATE n ≠ pwOFF)
    (hr : bitsOf v 31 31 = 0) : (c.pwrWrite n v).fld FLYER.PWR_CTRL_STATE n = c.fld FLYER.PWR_CTRL_STATE n ∧
      (c.pwrWrite n v).fld FLYER.PWR_CTRL_ON n = 1 := by
  obtain ⟨hon, hkeep, -, -⟩ := c.pwrTaken_says (v := v) hn
  rw [Chip.pwrWrite_eq, Chip.power1_fld, Chip.power1_fld, Chip.pwrWritten_keeps h hst hr, hkeep, hon]
  exact ⟨rfl, h⟩
end

/-! ### The obligation -/

theorem exec_ttSeal {p : Port} {n : Fin 96} {v : Word} {s : State} : exec (.ttSeal p n v) s =
    run (fun c => c.accessField p FLYER.TT_SEAL_CMD_SEAL n.val fun d => d.sealCmd n.val p v.toNat) s := rfl
theorem exec_ttUnseal {p : Port} {n : Fin 96} {v : Word} {s : State} : exec (.ttUnseal p n v) s =
    run (fun c => c.accessField p FLYER.TT_SEAL_CMD_SEAL n.val fun d => d.sealCmd n.val p v.toNat) s := rfl
theorem exec_rearm {p : Port} {n : Fin 96} {v : Word} {s : State} : exec (.rearm p n v) s =
    run (fun c => c.accessField p FLYER.REARM_GO n.val fun d => d.rearm n.val p v.toNat) s := rfl
theorem exec_driftCmd {p : Port} {n : Fin 96} {v : Word} {s : State} : exec (.driftCmd p n v) s =
    run (fun c => c.accessField p FLYER.DRIFT_CMD_GO n.val fun d => d.driftCmd n.val v.toNat) s := rfl
theorem exec_pwrOnWrite {p : Port} {n : Fin 96} {v : Word} {s : State} : exec (.pwrOnWrite p n v) s =
    run (fun c => c.accessField p FLYER.PWR_CTRL_ON n.val fun d => d.pwrWrite n.val v.toNat) s := rfl
theorem exec_pwrRestore {p : Port} {n : Fin 96} {v : Word} {s : State} : exec (.pwrRestore p n v) s =
    run (fun c => c.accessField p FLYER.PWR_CTRL_ON n.val fun d => d.pwrWrite n.val v.toNat) s := rfl
theorem exec_flyerEnable {n : Fin 96} {s : State} : exec (.flyerEnable n none) s = run (fun c => c.flyEnable n.val) s := rfl
theorem exec_flyerEnable_write {n : Fin 96} {p : Port} {v : Word} {s : State} : exec (.flyerEnable n (some (p, v))) s =
    run (fun c => c.ctrlAccess p (PageCls.flyer.base + n.val) v.toNat) s := rfl
theorem exec_flyerDisable {n : Fin 96} {s : State} : exec (.flyerDisable n none) s = run (fun c => c.whenDue
    (c.hdr HDR.CTRL_EN (PageCls.flyer.base + n.val) == 0 || c.dom .seg != domON) fun e => e.flyOff n.val) s := rfl
theorem exec_flyerDisable_write {n : Fin 96} {p : Port} {v : Word} {s : State} : exec (.flyerDisable n (some (p, v))) s =
    run (fun c => c.ctrlAccess p (PageCls.flyer.base + n.val) v.toNat) s := rfl
theorem exec_flyerBeaconDetect {n : Fin 96} {stamp : BitVec 96} {octets : List Byte} {s : State} : exec (.flyerBeaconDetect n stamp octets) s =
    run (fun c => c.whenDue (c.flySt n.val != fyOFF && c.flySt n.val != fyOPEN) fun d => d.flyDetect n.val stamp.toNat octets) s := rfl
theorem exec_flyerBeaconMiss {n : Fin 96} {s : State} : exec (.flyerBeaconMiss n) s =
    run (fun c => c.whenDue (c.flyMissDue n.val) fun d => d.flyMiss n.val) s := rfl
theorem exec_extAllowance {n : Fin 96} {s : State} : exec (.extAllowance n) s =
    run (fun c => c.whenDue (c.extDue n.val) fun d => d.extGrant n.val) s := rfl
theorem exec_ttSealDone {n : Fin 96} {s : State} : exec (.ttSealDone n) s = run (fun c => c.sealDone n.val) s := rfl

section
variable {s : State} {n : Fin 96} {p : Port} {v : Word}

theorem exec_sealCmd {i : Instr} (hi : i ∈ [Instr.ttSeal p n v, Instr.ttUnseal p n v]) : exec i s =
    run (fun c => c.accessField p FLYER.TT_SEAL_CMD_SEAL n.val fun d => d.sealCmd n.val p v.toNat) s := by
  simp only [List.mem_cons, List.not_mem_nil, or_false] at hi
  rcases hi with rfl | rfl
  · exact exec_ttSeal
  · exact exec_ttUnseal

theorem exec_pwrCmd {i : Instr} (hi : i ∈ [Instr.pwrOnWrite p n v, Instr.pwrRestore p n v]) : exec i s =
    run (fun c => c.accessField p FLYER.PWR_CTRL_ON n.val fun d => d.pwrWrite n.val v.toNat) s := by
  simp only [List.mem_cons, List.not_mem_nil, or_false] at hi
  rcases hi with rfl | rfl
  · exact exec_pwrOnWrite
  · exact exec_pwrRestore

/-- An access that is counted in PAGE_ERRCNT, and sets no more. -/
theorem setsRegs_of_access_counted {i : Instr} {r : FieldRow} {m page off : Nat} {g : Chip → Chip}
    (h : exec i s = run (fun c => c.accessField p r m g) s)
    (hopen : s.chip.Open p r.cls m) (hg : g s.chip = s.chip.errcnt page off p) (ho : off < 4096) :
    SetsRegs i s (errKeys page) fun d => s.chip.Counted d page off p :=
  setsRegs_of_counted h ((s.chip.accessField_open hopen g).trans hg) ho

theorem ends_of_ctrl {i : Instr} {ok : Chip → Prop} (h : exec i s = run (fun c => c.ctrlAccess p (PageCls.flyer.base + n.val) v.toNat) s)
    (hopen : s.chip.Open p .flyer n.val) (hok : ok (s.chip.ended (s.chip.ctrlWrite .flyer n.val p v.toNat))) : Ends i s ok := by
  refine ends_of h ?_
  rw [Chip.ctrlAccess_open hopen rfl]
  exact hok

/-- A write of EN alone. -/
theorem Chip.ctrlWrite_en {c : Chip} {w : Nat} (h1 : w.testBit 1 = false) (h2 : w.testBit 2 = false) : c.ctrlWrite .flyer n.val p w =
    (c.setHdr HDR.CTRL_EN (PageCls.flyer.base + n.val) (bitsOf w 0 0)).enWritten .flyer n.val (w.testBit 0) := by
  rw [Chip.ctrlWrite_eq, Chip.ctrlReset_none h1]
  have hlock : c.ctrlLock (PageCls.flyer.base + n.val) w = c := if_neg (by rw [h2]; decide)
  rw [hlock]
  rfl

theorem Chip.flyEnable_on {c : Chip} (hst : c.flySt n.val = fyOFF) (hen : c.hdr HDR.CTRL_EN (PageCls.flyer.base + n.val) = 1)
    (hdom : c.dom .seg = domON) :
    c.flyEnable n.val = c.setFld FLYER.SYNC_STATUS_STATE (if c.on FLYER.CFG_MODE n.val then fyOPEN else fyUNSYNC) n.val := if_pos ⟨hst, hen, hdom⟩

theorem enabled_state {c b d : Chip} (hd : d = c.setFld FLYER.SYNC_STATUS_STATE (if c.on FLYER.CFG_MODE n.val then fyOPEN else fyUNSYNC) n.val) :
    (b.ended d).flySt n.val = if c.on FLYER.CFG_MODE n.val then fyOPEN else fyUNSYNC := by
  subst hd
  refine (ended_flyer (by decide) rfl).trans ((Chip.fld_setFld_self _ _ _ _ _).trans (Nat.mod_eq_of_lt ?_))
  split
  · decide
  · decide

theorem Chip.GoneOff.ended {c b d : Chip} (h : c.GoneOff d n.val) : c.GoneOff (b.ended d) n.val := by
  obtain ⟨hst, hact, htx, hon, hmiss, hid, hcut⟩ := h
  exact ⟨(ended_flyer (by decide) rfl).trans hst, (congrArg Flyer.active ended_fly).trans hact, (congrArg Flyer.tx ended_fly).trans htx,
    fun h => (ended_flyer (by decide) rfl).trans (hon h), (ended_flyer (by decide) rfl).trans hmiss, (ended_flyer (by decide) rfl).trans hid,
    fun x hx hlt => (hcut x hx hlt).inst (by decide) n.isLt⟩

theorem Chip.RunsCleared.ended {b d : Chip} (h : d.RunsCleared n.val) : (b.ended d).RunsCleared n.val :=
  h.of_eq (congrArg Flyer.cutCount ended_fly) (congrArg Flyer.unattrRun ended_fly) (b.ended_drift d)

theorem ended_chain_of {b d : Chip} : (b.ended d).chain = d.chain := b.ended_chain d

/-- The commands of the FLYER page. -/
theorem flyerCommands (hopen : s.chip.Open p .flyer n.val) : let c := s.chip
    let page := PageCls.flyer.base + n.val
    let f := c.fly n.val
    let k := c.stageSlot n.val
    let counted (i : Instr) (off : Nat) : Prop := SetsRegs i s (errKeys page) fun d => c.Counted d page off p
    let key := bitsOf v.toNat 31 16 = 0x5345
    let doSeal := bitsOf v.toNat 0 0 = 1 ∧ bitsOf v.toNat 1 1 = 0
    let undo := bitsOf v.toNat 0 0 = 0 ∧ bitsOf v.toNat 1 1 = 1
    ∀ i ∈ [Instr.ttSeal p n v, Instr.ttUnseal p n v],
      ((¬ key ∨ (bitsOf v.toNat 0 0 = 1 ∧ bitsOf v.toNat 1 1 = 1)) → counted i 0x08C) ∧
      (key → doSeal → c.fld FLYER.TT_SEAL_STATUS_STATE n.val = 1 → counted i 0x08C) ∧
      (key → doSeal → c.fld FLYER.TT_SEAL_STATUS_STATE n.val ≠ 1 → c.slotSealed n.val k = true → Idles i s) ∧
      (key → doSeal → c.fld FLYER.TT_SEAL_STATUS_STATE n.val ≠ 1 → c.slotSealed n.val k = false → Becomes i s
        (c.setFly n.val { f with sealing := some k, sealImage := c.slotImage n.val k, sealCrc := c.fld FLYER.TT_STAGE_CRC_CRC n.val })
        [FLYER.TT_SEAL_STATUS_STATE.key n.val 0] fun d => d.fld FLYER.TT_SEAL_STATUS_STATE n.val = 1) ∧
      (key → undo → (c.fld SEGMENT.TT_STATUS_STATE n.val = 1 ∨ f.active = some k) →
        SetsRegs i s (FLYER.TT_SEAL_STATUS_CAUSE.key n.val 0 :: errKeys page) fun d =>
          c.Counted d page 0x08C p ∧ d.fld FLYER.TT_SEAL_STATUS_CAUSE n.val = 6) ∧
      (key → undo → c.fld SEGMENT.TT_STATUS_STATE n.val ≠ 1 → f.active ≠ some k → SetsRegs i s [FLYER.TT_SLOT_SEALED.key n.val k]
        fun d => c.slotSealed n.val k = true → d.slotSealed n.val k = false) := by
  intro c page f k counted key doSeal undo i hi
  have hexec := exec_sealCmd (s := s) hi
  have hcounted (h : c.sealCmd n.val p v.toNat = c.refuse FLYER.TT_SEAL_CMD_SEAL p n.val) : counted i 0x08C :=
    setsRegs_of_access_counted hexec hopen h (by decide)
  have hseal (hk : key) (h : doSeal) : SealOp v.toNat := sealOp_of hk h.1 h.2 (by decide)
  have hundo (hk : key) (h : undo) : SealOp v.toNat := sealOp_of hk h.1 h.2 (by decide)
  refine ⟨fun h => hcounted (Chip.sealCmd_refuses ?_), fun hk hs h1 => hcounted ?_, fun hk hs h1 hsl => ?_, fun hk hs h1 hsl => ?_,
    fun hk hu hw => ?_, fun hk hu h1 hact => ?_⟩
  · exact not_not.mpr (h.imp_right fun hb => ⟨beq_iff_eq.mpr hb.1, beq_iff_eq.mpr hb.2⟩)
  · rw [Chip.sealCmd_seals (hseal hk hs) hs.1, if_pos h1]
  · refine idles_of_access hexec hopen ?_
    exact (Chip.sealCmd_seals (hseal hk hs) hs.1).trans ((if_neg h1).trans (if_pos hsl))
  · have hcmd : c.sealCmd n.val p v.toNat = _ :=
      (Chip.sealCmd_seals (hseal hk hs) hs.1).trans ((if_neg h1).trans (if_neg (Bool.eq_false_iff.mp hsl)))
    refine becomes_of_access hexec hopen ?_ ?_ <;> rw [hcmd]
    · exact (Chip.Frame.refl (c.setFly n.val { f with sealing := some k, sealImage := c.slotImage n.val k,
                                                      sealCrc := c.fld FLYER.TT_STAGE_CRC_CRC n.val })).setFld
        FLYER.TT_SEAL_STATUS_STATE 1 n.val 0 (List.mem_singleton.mpr rfl)
    · exact (ended_flyer (by decide) rfl).trans (Chip.fld_updFly.trans (Chip.fld_setFld_self _ _ _ _ _))
  · have hcmd : c.sealCmd n.val p v.toNat = _ := (Chip.sealCmd_unseals (hundo hk hu) hu.1 hu.2).trans (if_pos hw)
    refine becomes_of_access hexec hopen ?_ ⟨?_, ?_⟩ <;> rw [hcmd]
    · exact ((Chip.Frame.refl c).errcnt page 0x08C p fun _ h => .tail _ h).setFld _ _ n.val 0 (.head _)
    · obtain ⟨h1, h2, h3⟩ := c.counted_errcnt page 0x08C p (by decide)
      have hset : (c.errcnt page 0x08C p).Frame [] (Touched [.one FLYER.TT_SEAL_STATUS_CAUSE])
          ((c.errcnt page 0x08C p).setFld FLYER.TT_SEAL_STATUS_CAUSE 6 n.val) := (Chip.Frame.refl _).setFld _ _ _ _ (cells_one (.head _) n.isLt)
      exact Chip.Counted.ended ⟨(hset.hdr_apart HDR.ERRCNT_COUNT .flyer n.val (by decide) n.isLt).trans h1,
        (hset.hdr_apart HDR.ERRCNT_LAST_OFFSET .flyer n.val (by decide) n.isLt).trans h2,
        (hset.hdr_apart HDR.ERRCNT_LAST_PORT .flyer n.val (by decide) n.isLt).trans h3⟩
    · exact (ended_flyer (by decide) rfl).trans (Chip.fld_setFld_self _ _ _ _ _)
  · have hcmd : c.sealCmd n.val p v.toNat = _ := (Chip.sealCmd_unseals (hundo hk hu) hu.1 hu.2).trans (if_neg (not_or.mpr ⟨h1, hact⟩))
    refine becomes_of_access hexec hopen ?_ ?_ <;> rw [hcmd]
    · exact (Chip.Frame.refl c).setFld _ _ n.val k (List.mem_singleton.mpr rfl)
    · intro _
      rw [Chip.slotSealed, Chip.on, Chip.ended_fld _ _ _ _ _ (flyerKey_indexed_not_level rfl), Chip.fld_setFld_self]
      rfl

/-- REARM. -/
theorem Chip.rearm_clears {c : Chip} {w : Nat} (h : bitsOf w 0 0 = 1 ∧ bitsOf w 31 16 = 0x4652) : c.rearm n.val p w =
    (c.setFld FLYER.TX_STATUS_LATCHED 0 n.val).setFld FLYER.TX_STATUS_VIOL_RUN 0 n.val := if_pos h

theorem Chip.driftCmd_one {c : Chip} {w : Nat} (h : bitsOf w 31 31 = 1) (h8 : bitsOf w 8 8 = 0) : c.driftCmd n.val w =
    c.setDrift n.val (bitsOf w 5 0) { mac := (c.driftRec n.val (bitsOf w 5 0)).mac } :=
  (if_pos h).trans (if_neg (by rw [h8]; decide))

/-- A drift entry as DRIFT_CMD clears it: its address stays. -/
def driftCleared (x : Drift) : Drift := { mac := x.mac }

theorem Chip.driftCmd_all {c : Chip} {w : Nat} (h : bitsOf w 31 31 = 1) (h8 : bitsOf w 8 8 = 1) : c.driftCmd n.val w =
    (List.range 64).foldl (fun d k => d.setDrift n.val k (driftCleared (d.driftRec n.val k))) c := (if_pos h).trans (if_pos h8)

theorem Chip.driftCmd_other {c : Chip} (m j : Nat) (hm : m ≠ n.val) (hj : j < 64) (l : List Nat) (hl : ∀ k ∈ l, k < 64) :
    (l.foldl (fun d k => d.setDrift n.val k (driftCleared (d.driftRec n.val k))) c).driftRec m j = c.driftRec m j := by
  induction l generalizing c with
  | nil => rfl
  | cons k ks ih =>
    have hk := hl k (.head _)
    refine (ih fun x hx => hl x (.tail _ hx)).trans (Tab.get_put_ne _ _ _ _ ?_)
    omega

/-- What DRIFT_CMD leaves of all the entries. -/
theorem driftAll {c b d : Chip} (hd : d = (List.range 64).foldl (fun d k => d.setDrift n.val k (driftCleared (d.driftRec n.val k))) c) :
    (∀ j, j < 64 → (b.ended d).driftRec n.val j = { mac := (c.driftRec n.val j).mac }) ∧
      ∀ m j, m ≠ n.val → j < 64 → (b.ended d).driftRec m j = c.driftRec m j := by
  subst hd
  refine ⟨fun j hj => ended_driftRec.trans (Chip.driftRec_foldl (f := fun _ => driftCleared) hj), fun m j hm hj => ?_⟩
  exact (Chip.driftRec_congr (b.ended_drift _)).trans (Chip.driftCmd_other m j hm hj _ fun k hk => List.mem_range.mp hk)

/-- The writes of PWR_CTRL. -/
theorem powerCommands (hopen : s.chip.Open p .flyer n.val) : let c := s.chip
    let st := c.fld FLYER.PWR_CTRL_STATE n.val
    let zeroed (d : Chip) : Prop := (d.fly n.val).unattrRun = 0 ∧ ∀ j, j < 64 → (d.driftRec n.val j).babbleRun = 0
    ∀ i ∈ [Instr.pwrOnWrite p n v, Instr.pwrRestore p n v],
      (bitsOf v.toNat 31 31 = 1 → Ends i s fun d => (d.fly n.val).cutCount = 0 ∧ zeroed d) ∧
      (bitsOf v.toNat 0 0 = 0 → Ends i s fun d => d.fld FLYER.PWR_CTRL_ON n.val = 0 ∧ d.fld FLYER.PWR_CTRL_STATE n.val = pwOFF ∧
        d.chain = { c.chain with dirty := c.chain.dirty || c.chainBit n.val } ∧
        c.KeepsCells d [FLYER.PWR_CTRL_ON.key n.val 0, FLYER.PWR_CTRL_STATE.key n.val 0]) ∧
      (bitsOf v.toNat 0 0 = 1 → st = pwOFF → Ends i s fun d => d.fld FLYER.PWR_CTRL_ON n.val = 1 ∧ d.fld FLYER.PWR_CTRL_STATE n.val = pwON ∧
        d.chain.dirty = true) ∧
      (bitsOf v.toNat 0 0 = 1 → bitsOf v.toNat 31 31 = 1 → st ≠ pwOFF → Ends i s fun d =>
        d.fld FLYER.PWR_CTRL_STATE n.val = pwON ∧ (d.fly n.val).cutCount = 0 ∧ zeroed d ∧ (st ≠ pwON → d.chain.dirty = true)) ∧
      (bitsOf v.toNat 0 0 = 1 → st ≠ pwOFF → (bitsOf v.toNat 31 31 = 0 ∨ st = pwON) → Ends i s fun d =>
        d.fld FLYER.PWR_CTRL_STATE n.val = st ∧ d.fld FLYER.PWR_CTRL_ON n.val = 1) := by
  intro c st zeroed i hi
  have hends {ok : Chip → Prop} (h : ok (c.ended (c.pwrWrite n.val v.toNat))) : Ends i s ok := ends_of_access (exec_pwrCmd hi) hopen h
  have hfld (r : FieldRow) (h : (r.placed && r.cls.unlevelled) = true) (hc : r.cls.count = 96) :
      (c.ended (c.pwrWrite n.val v.toNat)).fld r n.val = (c.pwrWrite n.val v.toNat).fld r n.val := ended_flyer h hc
  have hclear (hr : bitsOf v.toNat 31 31 = 1) : (c.ended (c.pwrWrite n.val v.toNat)).RunsCleared n.val := (Chip.pwrWrite_clears hr n.isLt).ended
  refine ⟨fun hr => hends (hclear hr), fun h0 => hends ?_, fun h1 hst => hends ?_, fun h1 hr hst => hends ?_, fun h1 hst hr => hends ?_⟩
  · obtain ⟨hon, hoff, hchain, hframe⟩ := c.pwrWrite_off (v := v.toNat) n.isLt h0
    exact ⟨(hfld _ (by decide) rfl).trans hon, (hfld _ (by decide) rfl).trans hoff, ended_chain_of.trans hchain, hframe.keepsCells⟩
  · obtain ⟨hon, hst', hdirty⟩ := c.pwrWrite_on (v := v.toNat) n.isLt h1 (.inl hst)
    exact ⟨(hfld _ (by decide) rfl).trans hon, (hfld _ (by decide) rfl).trans hst',
      (congrArg Chain.dirty ended_chain_of).trans (hdirty fun h => absurd (hst.symm.trans h) (by decide))⟩
  · obtain ⟨hon, hst', hdirty⟩ := c.pwrWrite_on (v := v.toNat) n.isLt h1 (.inr hr)
    obtain ⟨hcut, hrun, hruns⟩ := hclear hr
    exact ⟨(hfld _ (by decide) rfl).trans hst', hcut, ⟨hrun, hruns⟩, fun h => (congrArg Chain.dirty ended_chain_of).trans (hdirty h)⟩
  · by_cases h31 : bitsOf v.toNat 31 31 = 0
    · obtain ⟨hkeep, hon⟩ := c.pwrWrite_keeps (v := v.toNat) n.isLt h1 hst h31
      exact ⟨(hfld _ (by decide) rfl).trans hkeep, (hfld _ (by decide) rfl).trans hon⟩
    · have h31' : bitsOf v.toNat 31 31 = 1 := by
        have := bitsOf_lt (w := v.toNat) 31 31
        omega
      have hst1 : st = pwON := hr.resolve_left h31
      obtain ⟨hon, hst', -⟩ := c.pwrWrite_on (v := v.toNat) n.isLt h1 (.inr h31')
      exact ⟨(hfld _ (by decide) rfl).trans (hst'.trans hst1.symm), (hfld _ (by decide) rfl).trans hon⟩

/-! ### EN -/

/-- The page as its EN has been written. -/
def Chip.enSet (c : Chip) (n x : Nat) : Chip := c.setHdr HDR.CTRL_EN (PageCls.flyer.base + n) x

theorem Chip.enSet_says {c : Chip} {x : Nat} (hx : x < 2) : (c.enSet n.val x).hdr HDR.CTRL_EN (PageCls.flyer.base + n.val) = x ∧
    (c.enSet n.val x).dom .seg = c.dom .seg ∧
    ∀ r : FieldRow, decide (0x008 < r.off ∧ r.lo < 32 ∧ r.cls = .flyer) = true → (c.enSet n.val x).fld r n.val = c.fld r n.val := by
  refine ⟨(Chip.hdr_setHdr_self _ _ _ _).trans (Nat.mod_eq_of_lt hx), Chip.fld_setHdr_ne _ _ _ _ _ _ _ ?_,
      fun r hr => Chip.fld_setHdr_ne _ _ _ _ _ _ _ ?_⟩
  · rw [FieldRow.key, HdrRow.key]
    exact Nat.ne_of_lt (cellKey_lt_of_page (Nat.lt_of_lt_of_le (by decide) (Nat.le_add_right _ _)) (by decide) (by decide) (by decide))
  · obtain ⟨ho, hl, hcls⟩ := of_decide_eq_true hr
    rw [FieldRow.key, HdrRow.key, hcls]
    exact (Nat.ne_of_lt (cellKey_lt_of_off ho (by decide) (by decide))).symm

/-- The bits of a write of PAGE_CTRL that sets or clears EN alone. -/
theorem ctrl_bits {w b : Nat} (hb : b < 2) (h : w % 8 = b) :
    w.testBit 0 = (b == 1) ∧ w.testBit 1 = false ∧ w.testBit 2 = false ∧ bitsOf w 0 0 = b := by
  have h0 : w / 2 ^ 0 % 2 = b := by omega
  have h1 : w / 2 ^ 1 % 2 = 0 := by omega
  have h2 : w / 2 ^ 2 % 2 = 0 := by omega
  refine ⟨?_, ?_, ?_, ?_⟩
  · rw [Nat.testBit_eq_decide_div_mod_eq, h0]
    rfl
  · rw [Nat.testBit_eq_decide_div_mod_eq, h1]
    rfl
  · rw [Nat.testBit_eq_decide_div_mod_eq, h2]
    rfl
  · simp only [bitsOf_eq, Nat.reduceSub, Nat.reduceAdd, Nat.reducePow]
    omega

theorem Chip.ctrlWrite_enables {c : Chip} {w : Nat} (h : w % 8 = 1) : c.ctrlWrite .flyer n.val p w = (c.enSet n.val 1).flyEnable n.val := by
  obtain ⟨h0, h1, h2, hb⟩ := ctrl_bits (by decide) h
  rw [Chip.ctrlWrite_en h1 h2, hb, h0]
  rfl

theorem Chip.ctrlWrite_disables {c : Chip} {w : Nat} (h : w % 8 = 0) : c.ctrlWrite .flyer n.val p w = (c.enSet n.val 0).flyOff n.val := by
  obtain ⟨h0, h1, h2, hb⟩ := ctrl_bits (by decide) h
  rw [Chip.ctrlWrite_en h1 h2, hb, h0]
  rfl

theorem enableWritten {c b d : Chip} (hst : c.flySt n.val = fyOFF) (hdom : c.dom .seg = domON) (hd : d = (c.enSet n.val 1).flyEnable n.val) :
    (b.ended d).flySt n.val = if c.on FLYER.CFG_MODE n.val then fyOPEN else fyUNSYNC := by
  obtain ⟨hen, hseg, hfld⟩ := Chip.enSet_says (c := c) (n := n) (x := 1) (by decide)
  have hmode : (c.enSet n.val 1).on FLYER.CFG_MODE n.val = c.on FLYER.CFG_MODE n.val := congrArg (· != 0) (hfld FLYER.CFG_MODE (by decide))
  rw [hd, Chip.flyEnable_on ((hfld FLYER.SYNC_STATUS_STATE (by decide)).trans hst) hen (hseg.trans hdom), ← hmode]
  exact enabled_state rfl

theorem disableWritten {c b d : Chip} (hst : c.flySt n.val ≠ fyOFF) (hd : d = (c.enSet n.val 0).flyOff n.val) : c.GoneOff (b.ended d) n.val := by
  obtain ⟨-, -, hfld⟩ := Chip.enSet_says (c := c) (n := n) (x := 0) (by decide)
  have hstate : (c.enSet n.val 0).flySt n.val = c.flySt n.val := hfld FLYER.SYNC_STATUS_STATE (by decide)
  obtain ⟨hoff, hact, htx, hon, hmiss, hid, hcut⟩ := Chip.flyOff_goneOff n.isLt (fun h => hst (hstate.symm.trans h))
  rw [← hd] at hoff hact htx hon hmiss hid hcut
  refine Chip.GoneOff.ended ⟨hoff, hact, htx, hon, hmiss.trans (hfld FLYER.SYNC_STATUS_MISS_RUN (by decide)),
    hid.trans (hfld FLYER.SYNC_STATUS_TABLE_ID (by decide)), fun x hx hlt => ?_⟩
  have hcount := hcut x hx hlt
  rw [Chip.Counts, hfld FLYER.TRUNCATED_COUNT (by decide)] at hcount
  exact hcount

theorem Chip.Loses.ended {c b d : Chip} (h : c.Loses d n.val) : c.Loses (b.ended d) n.val := by
  obtain ⟨hst, hcount, hset, htell, htx, hcut⟩ := h
  exact ⟨(ended_flyer (by decide) rfl).trans hst, hcount.inst (by decide) n.isLt, (ended_flyer (by decide) rfl).trans hset,
    htell.inst (by decide) n.isLt, (congrArg Flyer.tx ended_fly).trans htx, fun x hx hlt => (hcut x hx hlt).inst (by decide) n.isLt⟩

theorem ended_slotSealed {b d : Chip} {k : Nat} (h : d.fld FLYER.TT_SLOT_SEALED n.val k = 1) : (b.ended d).slotSealed n.val k = true := by
  rw [Chip.slotSealed, Chip.on, Chip.ended_fld _ _ _ _ _ (flyerKey_indexed_not_level rfl), h]
  rfl
end

/-- Settles O31: the commands of the FLYER page, its states, the beacons it takes or misses, and the ends of the seal checks. -/
theorem flyerControlAndTracking : Obligations.FlyerControlAndTracking := by
  unfold Obligations.FlyerControlAndTracking
  refine ⟨fun s n p v => ?_, fun s n p v stamp octets => ?_⟩
  · intro c page f k st counted key doSeal undo zeroed hopen
    refine ⟨flyerCommands hopen, fun h0 hk => ?_, fun h => ?_, fun h31 h8 => ?_, fun h31 h8 => ?_, fun h31 => ?_, powerCommands hopen⟩
    · refine becomes_of_access exec_rearm hopen ?_ ⟨?_, ?_⟩ <;> rw [Chip.rearm_clears ⟨h0, hk⟩]
      · exact ((Chip.Frame.refl _).setFld _ _ n.val 0 (by simp)).setFld _ _ n.val 0 (by simp)
      · exact (ended_flyer (by decide) rfl).trans ((Chip.fld_setFld_apart (by decide) n.isLt (by decide) n.isLt (by decide)).trans
          (Chip.fld_setFld_self _ _ _ _ _))
      · exact (ended_flyer (by decide) rfl).trans (Chip.fld_setFld_self _ _ _ _ _)
    · refine setsRegs_of_access_counted exec_rearm hopen (if_neg fun hc => ?_) (by decide)
      exact h.elim (fun h0 => absurd (h0.symm.trans hc.1) (by decide)) fun hk => hk hc.2
    · refine becomes_of_access exec_driftCmd hopen ?_ trivial
      rw [Chip.driftCmd_one h31 h8]
      exact .refl _
    · refine ends_of_access exec_driftCmd hopen ?_
      rw [Chip.driftCmd_all h31 h8]
      exact driftAll rfl
    · exact idles_of_access exec_driftCmd hopen (if_neg (by rw [h31]; decide))
  · intro c f st en faults on off body m rx start fcsOk
    have hidle (h : st = fyOFF ∨ st = fyOPEN) : (c.flySt n.val != fyOFF && c.flySt n.val != fyOPEN) = false := by
      rcases h with h | h <;> (rw [show c.flySt n.val = _ from h]; rfl)
    have hgate (h : st ∈ [fyUNSYNC, fySYNCWAIT, fySYNC]) : (c.flySt n.val != fyOFF && c.flySt n.val != fyOPEN) = true := by
      have hall : ∀ x ∈ [fyUNSYNC, fySYNCWAIT, fySYNC], (x != fyOFF && x != fyOPEN) = true := by decide
      exact hall _ h
    refine ⟨fun hst hen hdom => ?_, fun h => ?_, fun hopen hdom => ⟨fun hst hv => ?_, fun hst hv => ?_⟩, fun hst h => ?_, fun hen hdom => ?_,
      fun h => ?_, fun b hfcs hsk hver htyp hb => ⟨fun k hk hacc => ?_, fun hk hst => ?_⟩, fun hdue => ?_,
      fun h => idles_of_not_due exec_flyerBeaconMiss h, fun h => ?_, fun h => idles_of_not_due exec_extAllowance h, fun k hk => ?_,
      fun h => idles_of exec_ttSealDone (Chip.sealDone_none h)⟩
    · have hon := Chip.flyEnable_on hst hen hdom
      refine setsRegs_of exec_flyerEnable ?_ ?_ <;> rw [hon]
      · exact (Chip.Frame.refl _).setFld _ _ n.val 0 (List.mem_singleton.mpr rfl)
      · exact enabled_state rfl
    · refine idles_of exec_flyerEnable (if_neg fun hc => ?_)
      exact h.elim (fun h => h hc.1) fun h => h.elim (fun h => h hc.2.1) fun h => h hc.2.2
    · exact ends_of_ctrl exec_flyerEnable_write hopen (enableWritten hst hdom (Chip.ctrlWrite_enables hv))
    · exact ends_of_ctrl exec_flyerDisable_write hopen (disableWritten hst (Chip.ctrlWrite_disables hv))
    · refine ends_of_due exec_flyerDisable ?_ (Chip.flyOff_goneOff n.isLt hst).ended
      rw [Bool.or_eq_true]
      exact h.imp (fun h => beq_iff_eq.mpr h) fun h => bne_iff_ne.mpr h
    · refine idles_of_not_due exec_flyerDisable ?_
      rw [Bool.or_eq_false_iff]
      exact ⟨beq_eq_false_iff_ne.mpr hen, bne_eq_false_iff_eq.mpr hdom⟩
    · by_cases hg : st = fyOFF ∨ st = fyOPEN
      · exact idles_of_not_due exec_flyerBeaconDetect (hidle hg)
      · refine idles_of exec_flyerBeaconDetect ?_
        have hfcs : ¬ fcsOk := (or_assoc.mpr h).resolve_left hg
        exact (congrArg (ite _ · s.chip) (Chip.flyDetect_other hfcs)).trans (ite_self _)
    · have hst : st ∈ [fyUNSYNC, fySYNCWAIT, fySYNC] := by
        rcases hacc with h | h
        · rw [h.1]
          decide
        · exact .tail _ h.1
      have hok : BeaconOk octets := ⟨hfcs, hsk, hver, htyp⟩
      have href : ¬ (c.flySt n.val = fyUNSYNC ∧ c.on WHORL.REFCLK_STATUS_FAULT = true) := fun hc => by
        rcases hacc with h | h
        · rw [h.2] at hc
          exact absurd hc.2 (by decide)
        · have hall : ∀ x ∈ [fySYNCWAIT, fySYNC], x ≠ fyUNSYNC := by decide
          exact hall _ h.1 hc.1
      have htakes : c.flyTakes n.val (c.beaconStart n.val stamp.toNat) (m.flags.testBit 5) = true :=
        hacc.elim (fun h => Chip.flyTakes_unsync h.1) fun h => h.2
      refine ends_of_due exec_flyerBeaconDetect (hgate hst) ?_
      rw [Chip.flyDetect_accepts hok hb hk href htakes]
      obtain ⟨hact, hanch, hpred, hmiss, hcok, hself, hstate⟩ :=
        c.flyAccept_says (k := k) n.isLt start.toNat (c.on FLYER.TX_STATUS_DRIVER_ON n.val) hst
      exact ⟨(congrArg Flyer.active ended_fly).trans hact, (congrArg Flyer.anchor ended_fly).trans hanch,
        (congrArg Flyer.predicted ended_fly).trans hpred, (ended_flyer (by decide) rfl).trans hmiss, (ended_flyer (by decide) rfl).trans hcok,
        (ended_flyer (by decide) rfl).trans hself, (ended_flyer (by decide) rfl).trans hstate⟩
    · have hok : BeaconOk octets := ⟨hfcs, hsk, hver, htyp⟩
      have hne : c.flySt n.val ≠ fyUNSYNC := by
        have hall : ∀ x ∈ [fySYNCWAIT, fySYNC], x ≠ fyUNSYNC := by decide
        exact hall _ hst
      refine becomes_of_due exec_flyerBeaconDetect (hgate (.tail _ hst)) ?_ ?_ <;> rw [Chip.flyDetect_rejects hok hb hk hne]
      · exact Chip.beaconRejected_frame.mono (by decide) fun _ h => h
      · obtain ⟨hcount, hset, htell⟩ := c.beaconRejected_says n.isLt
        exact ⟨hcount.inst (by decide) n.isLt, (ended_flyer (by decide) rfl).trans hset, htell.inst (by decide) n.isLt⟩
    · refine ends_of_due exec_flyerBeaconMiss hdue ?_
      obtain ⟨hrun, hok, hpred, hkeep, hlose⟩ := c.flyMiss_says n.isLt
      refine ⟨(ended_flyer (by decide) rfl).trans hrun, (ended_flyer (by decide) rfl).trans hok, (congrArg Flyer.predicted ended_fly).trans hpred,
        fun h => (ended_flyer (by decide) rfl).trans (hkeep h), fun h => ?_⟩
      obtain ⟨hst, hcount, hset, htell, htx, hcut⟩ := (hlose h).ended (b := c)
      exact ⟨hst, hcount, ⟨hset, htell⟩, htx, hcut⟩
    · refine becomes_of_due exec_extAllowance h ?_ ?_
      · exact (Chip.Frame.refl (c.setFly n.val { f with extJudged := some f.predicted, extEnd := some (f.predicted + c.flyLen n.val),
                                                        extUsed := false })).setFld
          FLYER.SYNC_STATUS_EXT_ALLOW 1 n.val 0 (List.mem_singleton.mpr rfl)
      · exact (ended_flyer (by decide) rfl).trans (Chip.fld_setFld_self _ _ _ _ _)
    · intro cause
      refine ⟨fun h0 => ends_of exec_ttSealDone ?_, fun h0 => ends_of exec_ttSealDone ?_⟩
      · rw [Chip.sealDone_some hk, if_pos h0]
        obtain ⟨hst, hseal, hset, htell⟩ := Chip.sealSet_says (c := c) (k := k) n.isLt rfl
        exact ⟨(ended_flyer (by decide) rfl).trans hst, ended_slotSealed hseal, (ended_flyer (by decide) rfl).trans hset,
          htell.inst (by decide) n.isLt⟩
      · rw [Chip.sealDone_some hk, if_neg h0]
        obtain ⟨hst, hcause, hset, htell⟩ := Chip.sealFailed_says (c := c) n.isLt (Chip.sealCause_lt (c := c) (n := n.val) (k := k)) rfl
        exact ⟨(ended_flyer (by decide) rfl).trans hst, (ended_flyer (by decide) rfl).trans hcause, (ended_flyer (by decide) rfl).trans hset,
          htell.inst (by decide) n.isLt⟩

end Sys2Proof.Machine
end

section
/-!
PROOF. How a Skein engine starts: LISTEN and PLAIN, the cold start and its back-off, TRIAL, and DISABLED again (R156 to R158, R166).
-/
namespace Sys2Proof.Machine

section
variable {a c d : Chip} {n k : Nat}

/-! ### A change of state that is told -/

theorem Chip.setSync_tells {st : Nat} {active : Bool} (hn : n < 96)
    (h : c.seg n ≠ st) : c.Tells (c.setSync n st active) EV.SEGMENT_SYNC_CHANGE n := by
  have hset : c.Frame [] (Touched [.one SEGMENT.SYNC_STATUS_STATE, .one SEGMENT.SYNC_STATUS_ACTIVE])
      ((c.setFld SEGMENT.SYNC_STATUS_STATE st n).setBit SEGMENT.SYNC_STATUS_ACTIVE active n) :=
    ((Chip.Frame.refl c).setFld _ _ _ _ (cells_one (by decide) hn)).setBit _ _ _ _ (cells_one (by decide) hn)
  rw [Chip.setSync_eq, if_pos (by rw [bne_iff_ne.mpr h, Bool.true_or])]
  exact hset.tells_raise _ _ (by decide) (not_touched (x := Domain.row .seg) (by decide) 0 0 (by decide) (by decide))

/-- The cells of a change of state. -/
def syncKeys (n : Nat) : List Nat :=
  [SEGMENT.SYNC_STATUS_STATE.key n 0, SEGMENT.SYNC_STATUS_ACTIVE.key n 0, EV.SEGMENT_SYNC_CHANGE.key n]

theorem Chip.setSync_keys {st : Nat} {active : Bool} : c.Frame [] (· ∈ syncKeys n) (c.setSync n st active) := by
  have hset : c.Frame [] (· ∈ syncKeys n) ((c.setFld SEGMENT.SYNC_STATUS_STATE st n).setBit SEGMENT.SYNC_STATUS_ACTIVE active n) :=
    ((Chip.Frame.refl c).setFld _ _ _ _ (.head _)).setBit _ _ _ _ (.tail _ (.head _))
  rw [Chip.setSync_eq]
  exact .ite (fun _ => hset.raise _ _ (.tail _ (.tail _ (.head _)))) fun _ => hset

theorem Chip.setSync_eng {st : Nat} {active : Bool} : (c.setSync n st active).eng n = c.eng n := Chip.eng_congr (Chip.setSync_segs _ _)

theorem Chip.setFld_eng {r : FieldRow} {v m i : Nat} : (c.setFld r v m i).eng n = c.eng n := Chip.eng_congr (Chip.setFld_segs _ _ _ _ _)

/-! ### Payloads that no turn holds (R148, R167) -/

/-- Payloads dropped, one after another. -/
def Chip.payloadsDropped (c : Chip) (n : Nat) (l : List CmdPayload) : Chip := l.foldl (fun d p => d.dropPayload n p) c

theorem Chip.dropUnheld_eq : c.dropUnheld n = if (c.eng n).cmdq.any (c.unholdable n) then
    (c.payloadsDropped n ((c.eng n).cmdq.filter (c.unholdable n))).setCmdq n ((c.eng n).cmdq.filter fun p => !c.unholdable n p) else c := rfl

theorem Chip.payloadsDropped_frame {l : List CmdPayload} (hn : n < 96) :
    c.Frame [.fates] (Touched [.one SEGMENT.TX_DROP_COUNT]) (c.payloadsDropped n l) :=
  Chip.away_eq_iff.mp (Chip.away_foldl fun _ _ _ => Chip.away_dropPayload (by decide) (by decide) hn)

theorem Chip.payloadsDropped_counts {l : List CmdPayload} (h : l ≠ []) : c.Counts (c.payloadsDropped n l) SEGMENT.TX_DROP_COUNT n l.length := by
  induction l generalizing c with
  | nil => exact absurd rfl h
  | cons p ps ih =>
    have hone : (c.dropPayload n p).fld SEGMENT.TX_DROP_COUNT n = min (c.fld SEGMENT.TX_DROP_COUNT n + 1) (2 ^ SEGMENT.TX_DROP_COUNT.width - 1) :=
      c.counts_bump _ _
    by_cases hps : ps = []
    · subst hps
      exact hone
    · have hrest : (c.payloadsDropped n (p :: ps)).fld SEGMENT.TX_DROP_COUNT n = _ := ih (c := c.dropPayload n p) hps
      rw [hone] at hrest
      rw [Chip.Counts, hrest, List.length_cons]
      generalize 2 ^ SEGMENT.TX_DROP_COUNT.width - 1 = top
      omega

theorem Chip.keepsEvents_payloadsDropped {l : List CmdPayload} : c.KeepsEvents (c.payloadsDropped n l) := by
  unfold Chip.payloadsDropped
  refine Chip.KeepsEvents.foldl l (fun d p _ => ?_) c
  have hbump : d.KeepsEvents (d.bump SEGMENT.TX_DROP_COUNT n) := (Chip.KeepsEvents.refl d).bump (by decide) (by decide) n
  exact hbump.trans (Chip.keepsEvents_of_regs rfl)

theorem Chip.keepsEvents_setCmdq (q : List CmdPayload) : c.KeepsEvents (c.setCmdq n q) := by
  have hq : c.KeepsEvents (c.updEng n fun e => { e with cmdq := q }) := Chip.keepsEvents_of_regs rfl
  exact (hq.setFld (by decide) (by decide) _ _).setFld (by decide) (by decide) _ _

theorem Chip.setCmdq_says (hn : n < 96) (q : List CmdPayload) : ((c.setCmdq n q).eng n) = { c.eng n with cmdq := q } ∧
    (c.setCmdq n q).fld SEGMENT.CMDQ_STATUS_DEPTH n = q.length % 2 ^ SEGMENT.CMDQ_STATUS_DEPTH.width ∧
    (c.setCmdq n q).fld SEGMENT.CMDQ_STATUS_FULL n = if decide (64 ≤ q.length) then 1 else 0 := by
  have hset : (c.setCmdq n q).eng n = (c.updEng n fun e => { e with cmdq := q }).eng n := Chip.setFld_eng.trans Chip.setFld_eng
  refine ⟨hset.trans (Chip.eng_updEng_self _), ?_, ?_⟩
  · exact (Chip.fld_setFld_apart (by decide) hn (by decide) hn (by decide)).trans (Chip.fld_setFld_self _ _ _ _ _)
  · exact Chip.fld_setBit_self _ rfl

theorem Chip.setCmdq_frame (hn : n < 96) (q : List CmdPayload) :
    c.Frame [.segs] (Touched [.one SEGMENT.CMDQ_STATUS_DEPTH, .one SEGMENT.CMDQ_STATUS_FULL]) (c.setCmdq n q) :=
  Chip.away_eq_iff.mp (Chip.away_setCmdq (by decide) (by decide) hn)

/-! ### PLAIN and LISTEN -/

theorem Chip.unholdable_plain (h : c.seg n = sgPLAIN) (p : CmdPayload) : c.unholdable n p = true := by
  rw [Chip.unholdable, h]
  rfl

/-- A plain segment drops all that waits. -/
theorem Chip.dropUnheld_plain (h : c.seg n = sgPLAIN) (hq : (c.eng n).cmdq ≠ []) :
    c.dropUnheld n = (c.payloadsDropped n (c.eng n).cmdq).setCmdq n [] := by
  have hall : (c.eng n).cmdq.filter (c.unholdable n) = (c.eng n).cmdq := List.filter_eq_self.mpr fun p _ => Chip.unholdable_plain h p
  have hnone : ((c.eng n).cmdq.filter fun p => !c.unholdable n p) = [] :=
    List.filter_eq_nil_iff.mpr fun p _ => by rw [Chip.unholdable_plain h p]; decide
  have hany : (c.eng n).cmdq.any (c.unholdable n) = true := by
    obtain ⟨p, hp⟩ := List.exists_mem_of_ne_nil _ hq
    exact List.any_eq_true.mpr ⟨p, hp, Chip.unholdable_plain h p⟩
  rw [Chip.dropUnheld_eq, if_pos hany, hall, hnone]

theorem Chip.dropUnheld_empty (hq : (c.eng n).cmdq = []) : c.dropUnheld n = c := by
  rw [Chip.dropUnheld_eq, hq]
  rfl

theorem Chip.phyReady_plain (h : c.on SEGMENT.CFG_PLAIN n = true) : c.phyReady n = (c.setSync n sgPLAIN false).dropUnheld n := if_pos h

theorem Chip.phyReady_listen (h : c.on SEGMENT.CFG_PLAIN n = false) : c.phyReady n = c.enterListen n := if_neg (by rw [h]; decide)

/-- A plain segment whose queue was empty. -/
theorem Chip.phyReady_plain_empty (hp : c.on SEGMENT.CFG_PLAIN n = true) (hq : (c.eng n).cmdq = []) : c.phyReady n = c.setSync n sgPLAIN false := by
  rw [Chip.phyReady_plain hp, Chip.dropUnheld_empty (by rw [Chip.setSync_eng, hq])]

/-- A plain segment whose queue is dropped. -/
theorem Chip.phyReady_drops (hn : n < 96) (hp : c.on SEGMENT.CFG_PLAIN n = true) (hq : (c.eng n).cmdq ≠ []) (hst : c.seg n = sgDISABLED) :
    let d := c.phyReady n
    d.seg n = sgPLAIN ∧ c.Tells d EV.SEGMENT_SYNC_CHANGE n ∧ (d.eng n).cmdq = [] ∧
      c.Counts d SEGMENT.TX_DROP_COUNT n (c.eng n).cmdq.length ∧ d.fld SEGMENT.CMDQ_STATUS_DEPTH n = 0 ∧ d.fld SEGMENT.CMDQ_STATUS_FULL n = 0 := by
  obtain ⟨hseg, -⟩ := c.setSync_says hn (st := sgPLAIN) (by decide) false
  have htell : c.Tells (c.setSync n sgPLAIN false) EV.SEGMENT_SYNC_CHANGE n := Chip.setSync_tells hn (by rw [hst]; decide)
  have heng : (c.setSync n sgPLAIN false).eng n = c.eng n := Chip.setSync_eng
  have hcnt := (Chip.setSync_frame (c := c) (st := sgPLAIN) (active := false) hn).fld_apart SEGMENT.TX_DROP_COUNT n 0 (by decide) hn (by decide)
  rw [Chip.phyReady_plain hp, Chip.dropUnheld_plain hseg (by rw [heng]; exact hq), heng]
  generalize c.setSync n sgPLAIN false = e at hseg htell hcnt
  have hdrop := e.payloadsDropped_frame (l := (c.eng n).cmdq) hn
  have hcounts := e.payloadsDropped_counts (n := n) hq
  have hkeep := e.keepsEvents_payloadsDropped (n := n) (l := (c.eng n).cmdq)
  generalize e.payloadsDropped n (c.eng n).cmdq = g at hdrop hcounts hkeep
  have hlast := g.setCmdq_frame hn []
  obtain ⟨hq', hdepth, hfull⟩ := g.setCmdq_says hn []
  refine ⟨?_, htell.keeps (hkeep.trans (g.keepsEvents_setCmdq [])) (by decide), by rw [hq'], ?_, hdepth, hfull⟩
  · exact (hlast.fld_apart SEGMENT.SYNC_STATUS_STATE n 0 (by decide) hn (by decide)).trans
      ((hdrop.fld_apart SEGMENT.SYNC_STATUS_STATE n 0 (by decide) hn (by decide)).trans hseg)
  · rw [Chip.Counts, hlast.fld_apart SEGMENT.TX_DROP_COUNT n 0 (by decide) hn (by decide), ← hcnt]
    exact hcounts

theorem Chip.enterListen_tells (hn : n < 96) (h : c.seg n ≠ sgLISTEN) : c.Tells (c.enterListen n) EV.SEGMENT_SYNC_CHANGE n := by
  have hleft : c.Frame [.segs] (Touched [.one SEGMENT.SYNC_STATUS_CYCLE_VALID, .one SEGMENT.CS_STATUS_TRIAL_LEFT])
      ((c.dropCycle n).setFld SEGMENT.CS_STATUS_TRIAL_LEFT 0 n) :=
    Chip.away_eq_iff.mp ((Chip.away_setFld (by decide) hn).trans (Chip.away_dropCycle (by decide) (by decide) hn))
  have hseg : ((c.dropCycle n).setFld SEGMENT.CS_STATUS_TRIAL_LEFT 0 n).seg n = c.seg n :=
    hleft.fld_apart SEGMENT.SYNC_STATUS_STATE n 0 (by decide) hn (by decide)
  have hup := hleft.domUp .seg (not_touched (by decide) 0 0 (by decide) (by decide))
  have htell := Chip.setSync_tells (active := false) hn (hseg.trans_ne h)
  have heq : c.enterListen n = (((c.dropCycle n).setFld SEGMENT.CS_STATUS_TRIAL_LEFT 0 n).setSync n sgLISTEN false).startListenTimer n := rfl
  rw [heq]
  generalize (c.dropCycle n).setFld SEGMENT.CS_STATUS_TRIAL_LEFT 0 n = e at hup htell
  exact Chip.Tells.keeps (fun h => htell (hup.trans h)) ((Chip.KeepsEvents.refl _).same rfl) (by decide)

/-! ### DISABLED -/

/-- The engine as its page or domain goes off. -/
def Chip.engineCut (c : Chip) (n : Nat) : Chip := ((c.endFrameAt n c.now).dropCycle n).updEng n fun e => { e with lastTx := none, csma := none }

def Chip.unjoined (c : Chip) (n : Nat) : Chip := (List.range 64).foldl (fun d t => d.setFld SEGMENT.TURN_STAT_JOINED 0 n t) c

theorem Chip.segDisable_eq (h : c.seg n ≠ sgDISABLED) :
    c.segDisable n = (((c.engineCut n).unjoined n).setFld SEGMENT.CS_STATUS_TRIAL_LEFT 0 n).setSync n sgDISABLED false := if_neg h

theorem Chip.unjoined_zero {t : Nat} (ht : t < 64) : (c.unjoined n).fld SEGMENT.TURN_STAT_JOINED n t = 0 := by
  refine foldl_visits (f := fun (d : Chip) t => d.setFld SEGMENT.TURN_STAT_JOINED 0 n t) (before := fun _ => True)
    (after := fun d : Chip => d.fld SEGMENT.TURN_STAT_JOINED n t = 0) (fun _ _ _ _ => trivial) (fun d _ => Chip.fld_setFld_self _ _ _ _ _)
    (fun d u _ hd => ?_) List.nodup_range (List.mem_range.mpr ht) c trivial
  by_cases hk : SEGMENT.TURN_STAT_JOINED.key n t = SEGMENT.TURN_STAT_JOINED.key n u
  · have hself := Chip.fld_setFld_self d SEGMENT.TURN_STAT_JOINED 0 n u
    unfold Chip.fld at hself ⊢
    rw [hk]
    exact hself
  · exact (Chip.fld_setFld_ne _ _ _ _ _ _ _ _ hk).trans hd

theorem Chip.unjoined_segs : (c.unjoined n).segs = c.segs := by
  have hf : c.Frame [] (fun _ => True) (c.unjoined n) := (Chip.Frame.refl c).foldl _ fun d t _ => (Chip.Frame.refl d).setFld _ _ _ _ trivial
  exact hf.segs (by decide)

/-- The engine is off in `d`. -/
def Chip.Disabled (d : Chip) (n : Nat) : Prop :=
  d.seg n = sgDISABLED ∧ (d.eng n).lastTx = none ∧ (d.eng n).csma = none ∧ (d.eng n).anchored = false ∧
    ∀ t, t < 64 → d.fld SEGMENT.TURN_STAT_JOINED n t = 0

theorem Chip.segDisable_disabled (hn : n < 96) (h : c.seg n ≠ sgDISABLED) : (c.segDisable n).Disabled n := by
  have hcut : (c.engineCut n).eng n = { ((c.endFrameAt n c.now).dropCycle n).eng n with lastTx := none, csma := none } := Chip.eng_updEng_self _
  have hanch : (((c.endFrameAt n c.now).dropCycle n).eng n).anchored = false := by rw [Chip.dropCycle_eng]
  rw [Chip.segDisable_eq h]
  have hjoin (t : Nat) (ht : t < 64) := (c.engineCut n).unjoined_zero (n := n) ht
  have hsegs := (c.engineCut n).unjoined_segs (n := n)
  generalize (c.engineCut n).unjoined n = e at hjoin hsegs
  have heng : ((e.setFld SEGMENT.CS_STATUS_TRIAL_LEFT 0 n).setSync n sgDISABLED false).eng n = (c.engineCut n).eng n :=
    (Chip.setSync_eng.trans Chip.setFld_eng).trans (Chip.eng_congr hsegs)
  refine ⟨(Chip.setSync_says hn (by decide) _).1, by rw [heng, hcut], by rw [heng, hcut], by rw [heng, hcut]; exact hanch, fun t ht => ?_⟩
  rw [(Chip.setSync_frame hn).fld_apart SEGMENT.TURN_STAT_JOINED n t (by decide) hn (by omega),
    Chip.fld_setFld_apart (by decide) hn (by decide) hn (by omega), hjoin t ht]
end

section
variable {a c d : Chip} {n k : Nat} {free : Option (BitVec 96)}

/-! ### A COLDSTART (R158, R221) -/

theorem Chip.lineFree_congr (h : (d.eng n).txEnd = (c.eng n).txEnd) : d.lineFree n free = c.lineFree n free := by
  unfold Chip.lineFree
  dsimp only
  rw [h]

theorem Chip.carrierNow_congr (h : d.now = c.now) : d.carrierNow free = c.carrierNow free := by
  unfold Chip.carrierNow
  cases free with
  | none => rfl
  | some t => exact congrArg (fun x => decide (x < t.toNat)) h

theorem Chip.tryColdstart_sends (h : c.lineFree n free ≤ c.now) : c.tryColdstart n free = c.sendColdstart n := if_neg (Nat.not_lt.mpr h)

theorem Chip.tryColdstart_waits (h : c.now < c.lineFree n free) : c.tryColdstart n free =
    (c.countDeferred n free).updEng n fun e => { e with backoffEnd := some (c.lineFree n free) } := if_pos h

theorem Chip.sendColdstart_says : (c.sendColdstart n).Sends n c.now ftCOLDSTART ∧ ((c.sendColdstart n).eng n).backoffEnd = none := by
  refine ⟨Chip.sends_transmit (Chip.skeinFrame_type _ (by decide)), ?_⟩
  rw [Chip.sendColdstart, Chip.transmit_eng, Chip.eng_updEng_self]

theorem Chip.countDeferred_eng : ((c.countDeferred n free).eng n).lastTx = (c.eng n).lastTx := by
  unfold Chip.countDeferred
  split_ifs
  · have hb : ((c.updEng n fun e => { e with coldDeferred := true }).bump SEGMENT.MAC_DEFERRED_COUNT n).eng n =
        (c.updEng n fun e => { e with coldDeferred := true }).eng n := Chip.setFld_eng
    rw [hb, Chip.eng_updEng_self]
  · rfl

theorem Chip.countDeferred_counts (hcar : c.carrierNow free = true) (hdef : (c.eng n).coldDeferred = false) :
    c.Counts (c.countDeferred n free) SEGMENT.MAC_DEFERRED_COUNT n := by
  have hcond : (c.carrierNow free && !(c.eng n).coldDeferred) = true := by rw [hcar, hdef]; rfl
  have heq : c.countDeferred n free = (c.updEng n fun e => { e with coldDeferred := true }).bump SEGMENT.MAC_DEFERRED_COUNT n := if_pos hcond
  rw [heq]
  exact Chip.counts_bump (c.updEng n fun e => { e with coldDeferred := true }) _ _

/-- What a COLDSTART that waits leaves. -/
theorem Chip.tryColdstart_waiting (h : c.now < c.lineFree n free) :
    ((c.tryColdstart n free).eng n).backoffEnd = some (c.lineFree n free) ∧ ((c.tryColdstart n free).eng n).lastTx = (c.eng n).lastTx ∧
      (c.carrierNow free = true → (c.eng n).coldDeferred = false → c.Counts (c.tryColdstart n free) SEGMENT.MAC_DEFERRED_COUNT n) := by
  have heng : (c.tryColdstart n free).eng n = { (c.countDeferred n free).eng n with backoffEnd := some (c.lineFree n free) } := by
    rw [Chip.tryColdstart_waits h, Chip.eng_updEng_self]
  refine ⟨by rw [heng], by rw [heng]; exact Chip.countDeferred_eng, fun hcar hdef => ?_⟩
  rw [Chip.Counts, Chip.tryColdstart_waits h, Chip.fld_updEng]
  exact Chip.countDeferred_counts hcar hdef

theorem Chip.tryColdstart_frame (hn : n < 96) :
    c.Frame [.segs] (Touched [.one SEGMENT.MAC_DEFERRED_COUNT, .one SEGMENT.MAC_TX_FRAMES_COUNT]) (c.tryColdstart n free) :=
  Chip.away_eq_iff.mp (Chip.away_tryColdstart (by decide) (by decide) hn)

/-! ### The end of the listen timer -/

/-- The engine that contends. -/
def Chip.contending (c : Chip) (n : Nat) : Chip :=
  ((c.updEng n fun e => { e with listenEnd := none, coldDeferred := false }).setFld SEGMENT.CS_STATUS_COLLISIONS 0 n).setSync n sgCONTEND false

theorem Chip.listenTimeout_starts (h : c.seg n = sgLISTEN) (hm : c.mayStart n = true) :
    c.listenTimeout n free = (c.contending n).tryColdstart n free := if_pos ⟨h, hm⟩

theorem Chip.listenTimeout_listens (h : c.seg n ≠ sgLISTEN ∨ c.mayStart n = false) : c.listenTimeout n free = c.enterListen n :=
  if_neg fun hc => h.elim (fun h => h hc.1) fun h => absurd hc.2 (by rw [h]; decide)

theorem Chip.contending_says (hn : n < 96) : (c.contending n).seg n = sgCONTEND ∧ (c.contending n).fld SEGMENT.CS_STATUS_COLLISIONS n = 0 ∧
    (c.contending n).eng n = { c.eng n with listenEnd := none, coldDeferred := false } ∧ (c.contending n).now = c.now ∧
    (c.contending n).fld SEGMENT.MAC_DEFERRED_COUNT n = c.fld SEGMENT.MAC_DEFERRED_COUNT n := by
  have heng : (c.contending n).eng n = (c.updEng n fun e => { e with listenEnd := none, coldDeferred := false }).eng n :=
    Chip.setSync_eng.trans Chip.setFld_eng
  have hf : c.Frame [.segs] (Touched (.one SEGMENT.CS_STATUS_COLLISIONS :: syncSpots)) (c.contending n) :=
    Chip.away_eq_iff.mp ((Chip.away_setSync (by decide) hn).trans ((Chip.away_setFld (by decide) hn).trans (Chip.away_updEng (by decide))))
  refine ⟨(Chip.setSync_says hn (by decide) _).1, ?_, heng.trans (Chip.eng_updEng_self _), hf.now (by decide),
    hf.fld_apart SEGMENT.MAC_DEFERRED_COUNT n 0 (by decide) hn (by decide)⟩
  exact ((Chip.setSync_frame hn).fld_apart SEGMENT.CS_STATUS_COLLISIONS n 0 (by decide) hn (by decide)).trans (Chip.fld_setFld_self _ _ _ _ _)

/-! ### Collisions (R158) -/

/-- One collision more. -/
def Chip.collided (c : Chip) (n : Nat) : Chip := c.bump SEGMENT.CS_STATUS_COLLISIONS n

/-- The engine that contends again after a collision, before its back-off. -/
def Chip.recontending (c : Chip) (n : Nat) : Chip :=
  (((c.collided n).updEng n fun e => { e with ext := false, extFrom := none }).setFld SEGMENT.CS_STATUS_TRIAL_LEFT 0 n).setSync n sgCONTEND false

/-- The last collision, told. -/
def Chip.collisionTold (c : Chip) (n : Nat) : Chip := (((c.collided n).jam n).bump SEGMENT.CS_FAIL_COUNT n).raise EV.SEGMENT_COLLISION n

theorem Chip.collided_seg (hn : n < 96) : (c.collided n).seg n = c.seg n :=
  Chip.fld_setFld_apart (by decide) hn (by decide) hn (by decide)

theorem Chip.contendCollision_fails (hn : n < 96) (h : c.seg n = sgCONTEND) (hk : 16 ≤ c.fld SEGMENT.CS_STATUS_COLLISIONS n + 1) :
    c.contendCollision n = (c.collisionTold n).enterListen n :=
  if_pos ⟨(c.collided_seg hn).trans h, hk⟩

theorem Chip.contendCollision_backsOff (hn : n < 96) (h : c.seg n ≠ sgCONTEND ∨ c.fld SEGMENT.CS_STATUS_COLLISIONS n + 1 < 16) :
    c.contendCollision n = (c.recontending n).backOff n (c.fld SEGMENT.CS_STATUS_COLLISIONS n + 1) :=
  if_neg fun hc => h.elim (fun h => h ((c.collided_seg hn).symm.trans hc.1)) fun h => absurd hc.2 (Nat.not_le.mpr h)

theorem Chip.jam_eng : (c.jam n).eng n = { c.eng n with txEnd := c.now + 3200 * nsQ } := by
  unfold Chip.jam
  dsimp only
  rw [Chip.eng_updEng_self]
  rfl

theorem Chip.jam_frame {K : Nat → Prop} : c.Frame [.segs, .flyers] K (c.jam n) :=
  ((Chip.Frame.refl c).withFlyers _ (by decide)).withSegs _ (by decide)

theorem Chip.backOff_says : (c.backOff n k).eng n = { c.eng n with
      txEnd := c.now + 3200 * nsQ, backoffEnd := some (c.now + 3200 * nsQ + Config.freeValue c.freeCtr % 2 ^ min k 10 * 51200 * nsQ) } ∧
    (c.backOff n k).freeCtr = c.freeCtr + 1 := by
  have hjam : (c.drawn.jam n).eng n = { c.eng n with txEnd := c.now + 3200 * nsQ } := Chip.jam_eng
  refine ⟨?_, rfl⟩
  unfold Chip.backOff
  dsimp only
  rw [Chip.eng_updEng_self, hjam]
  rfl

theorem Chip.backOff_frame {K : Nat → Prop} : c.Frame [.freeCtr, .segs, .flyers] K (c.backOff n k) :=
  (((Chip.Frame.refl c).withFreeCtr _ (by decide)).trans (Chip.jam_frame.mono (by decide) fun _ h => h)).withSegs _ (by decide)

theorem Chip.recontending_frame (hn : n < 96) : c.Frame [.segs]
    (Touched ([.one SEGMENT.CS_STATUS_COLLISIONS, .one SEGMENT.CS_STATUS_TRIAL_LEFT] ++ syncSpots)) (c.recontending n) :=
  Chip.away_eq_iff.mp ((Chip.away_setSync (by decide) hn).trans ((Chip.away_setFld (by decide) hn).trans
    ((Chip.away_updEng (by decide)).trans (Chip.away_bump (by decide) hn))))

theorem Chip.recontending_says (hn : n < 96) : (c.recontending n).seg n = sgCONTEND ∧
    (c.recontending n).fld SEGMENT.CS_STATUS_TRIAL_LEFT n = 0 ∧
    (c.recontending n).fld SEGMENT.CS_STATUS_COLLISIONS n = min (c.fld SEGMENT.CS_STATUS_COLLISIONS n + 1) 31 ∧
    (c.recontending n).now = c.now ∧ (c.recontending n).freeCtr = c.freeCtr := by
  have hf := c.recontending_frame hn
  refine ⟨(Chip.setSync_says hn (by decide) _).1, ?_, ?_, hf.now (by decide), hf.freeCtr (by decide)⟩
  · exact ((Chip.setSync_frame hn).fld_apart SEGMENT.CS_STATUS_TRIAL_LEFT n 0 (by decide) hn (by decide)).trans (Chip.fld_setFld_self _ _ _ _ _)
  · refine ((Chip.setSync_frame hn).fld_apart SEGMENT.CS_STATUS_COLLISIONS n 0 (by decide) hn (by decide)).trans ?_
    rw [Chip.fld_setFld_apart (by decide) hn (by decide) hn (by decide), Chip.fld_updEng]
    exact c.counts_bump _ _

/-- What a collision that is backed off from leaves. -/
theorem Chip.backedOff_says (hn : n < 96) : let d := (c.recontending n).backOff n k
    d.seg n = sgCONTEND ∧ d.fld SEGMENT.CS_STATUS_TRIAL_LEFT n = 0 ∧
      d.fld SEGMENT.CS_STATUS_COLLISIONS n = min (c.fld SEGMENT.CS_STATUS_COLLISIONS n + 1) 31 ∧
      (d.eng n).txEnd = c.now + 3200 * nsQ ∧ d.freeCtr = c.freeCtr + 1 ∧
      (d.eng n).backoffEnd = some (c.now + 3200 * nsQ + Config.freeValue c.freeCtr % 2 ^ min k 10 * 51200 * nsQ) := by
  obtain ⟨hseg, htrial, hcoll, hnow, hfree⟩ := c.recontending_says hn
  generalize c.recontending n = e at hseg htrial hcoll hnow hfree
  obtain ⟨heng, hctr⟩ := e.backOff_says (n := n) (k := k)
  have hframe := e.backOff_frame (n := n) (k := k) (K := fun _ => False)
  rw [hnow, hfree] at heng
  refine ⟨(hframe.fld _ _ _ id).trans hseg, (hframe.fld _ _ _ id).trans htrial, (hframe.fld _ _ _ id).trans hcoll, by rw [heng],
    hctr.trans (congrArg (· + 1) hfree), by rw [heng]⟩

/-- A listener after changes that are apart from its timer's registers. -/
theorem Chip.listens_apart {S : List Part} {R : List Spot} (h : c.Frame S (Touched R) d) (hw : .whorl ∉ S) (hn : n < 96)
    (hR : ∀ r ∈ listenRows, (r.placed && R.all r.apart) = true ∧ r.cls = .segment) : c.Listens (d.enterListen n) n := by
  obtain ⟨hseg, hact, hanch, htrial, hend⟩ := d.enterListen_listens hn
  refine ⟨hseg, hact, hanch, htrial, hend.trans ?_⟩
  rw [h.now hw]
  refine congrArg (fun k => some (c.now + k * nsQ)) (Chip.listenSpan_congr fun r hr => ?_)
  obtain ⟨happart, hcls⟩ := hR r hr
  exact h.fld_apart r n 0 happart (by rw [hcls]; exact hn) (by decide)

theorem Chip.keepsEvents_enterListen : c.KeepsEvents (c.enterListen n) := by
  have hdrop : c.KeepsEvents (c.dropCycle n) := ((Chip.KeepsEvents.refl c).same rfl).setFld (by decide) (by decide) _ _
  exact (hdrop.setFld (by decide) (by decide) _ _).trans (Chip.keepsEvents_setSync.trans (Chip.keepsEvents_of_regs rfl))

theorem Chip.collisionTold_frame (hn : n < 96) : c.Frame [.segs, .flyers]
    (Touched [.one SEGMENT.CS_STATUS_COLLISIONS, .one SEGMENT.CS_FAIL_COUNT, .evt .segment]) (c.collisionTold n) :=
  Chip.away_eq_iff.mp ((Chip.away_raise (by decide) hn).trans ((Chip.away_bump (by decide) hn).trans ((Chip.away_jam (by decide)).trans
    (Chip.away_bump (by decide) hn))))

theorem Chip.collisionTold_says (hn : n < 96) : c.Counts (c.collisionTold n) SEGMENT.CS_FAIL_COUNT n ∧
    c.Tells (c.collisionTold n) EV.SEGMENT_COLLISION n := by
  have hjam : c.Frame [.segs, .flyers] (Touched [.one SEGMENT.CS_STATUS_COLLISIONS]) ((c.collided n).jam n) :=
    Chip.away_eq_iff.mp ((Chip.away_jam (by decide)).trans (Chip.away_bump (by decide) hn))
  have hcnt : c.Frame [.segs, .flyers] (Touched [.one SEGMENT.CS_STATUS_COLLISIONS, .one SEGMENT.CS_FAIL_COUNT])
      (((c.collided n).jam n).bump SEGMENT.CS_FAIL_COUNT n) :=
    Chip.away_eq_iff.mp ((Chip.away_bump (by decide) hn).trans ((Chip.away_jam (by decide)).trans (Chip.away_bump (by decide) hn)))
  refine ⟨?_, hcnt.tells_raise _ _ (by decide) (not_touched (x := Domain.row .seg) (by decide) 0 0 (by decide) (by decide))⟩
  rw [Chip.Counts, Chip.collisionTold, Chip.fld_raise_apart (by decide) hn hn (by decide),
    ← hjam.fld_apart SEGMENT.CS_FAIL_COUNT n 0 (by decide) hn (by decide)]
  exact Chip.counts_bump _ _ _

/-- What the sixteenth collision leaves. -/
theorem Chip.failed_says (hn : n < 96) : let d := (c.collisionTold n).enterListen n
    c.Listens d n ∧ c.Counts d SEGMENT.CS_FAIL_COUNT n ∧ c.Tells d EV.SEGMENT_COLLISION n := by
  obtain ⟨hcount, htell⟩ := c.collisionTold_says hn
  refine ⟨Chip.listens_apart (c.collisionTold_frame hn) (by decide) hn (by decide), ?_, htell.keeps Chip.keepsEvents_enterListen (by decide)⟩
  rw [Chip.Counts, (Chip.enterListen_frame hn).fld_apart SEGMENT.CS_FAIL_COUNT n 0 (by decide) hn (by decide)]
  exact hcount
end

end Sys2Proof.Machine
end

section
/-!
PROOF. What the commands of an engine's start end with: the PHY's readiness, the page's EN, the listen timer, a COLDSTART sent, a collision
and its back-off (R156 to R158, R166).
-/
namespace Sys2Proof.Machine

section
variable {s : State} {n : Fin 96} {p : Port} {v : Word} {free : Option (BitVec 96)}

/-- The engine's PHY is ready, and it is DISABLED. -/
def phyDue (n : Fin 96) (c : Chip) : Bool := c.segEnabled n.val && c.seg n.val == sgDISABLED

/-- A collision meets a COLDSTART of this part. -/
def collisionDue (n : Fin 96) (c : Chip) : Bool :=
  (c.seg n.val == sgCONTEND && (c.eng n.val).backoffEnd.isNone || c.seg n.val == sgTRIAL) && decide (c.now ≤ (c.eng n.val).txEnd)

/-- The engine after its COLDSTART. -/
def Chip.trialStarts (c : Chip) (n : Nat) : Chip := (c.setFld SEGMENT.CS_STATUS_TRIAL_LEFT 3 n).setSync n sgTRIAL false

theorem exec_segmentPhyReady : exec (.segmentPhyReady n) s = run (fun c => c.whenDue (phyDue n c) fun d => d.phyReady n.val) s := rfl

theorem exec_segmentDisable : exec (.segmentDisable n none) s =
    run (fun c => c.whenDue (!c.segEnabled n.val) fun d => d.segDisable n.val) s := rfl

theorem exec_segmentDisable_write : exec (.segmentDisable n (some (p, v))) s =
    run (fun c => c.ctrlAccess p (PageCls.segment.base + n.val) v.toNat) s := rfl

theorem exec_listenTimeout : exec (.listenTimeout n free) s =
    run (fun c => c.whenDue (c.listenOver n.val) fun d => d.listenTimeout n.val free) s := rfl

theorem exec_coldstartSent : exec (.coldstartSent n) s =
    run (fun c => c.whenDue (c.coldstartSentDue n.val) fun d => d.trialStarts n.val) s := rfl

theorem exec_contendCollision : exec (.contendCollision n) s =
    run (fun c => c.whenDue (collisionDue n c) fun d => d.contendCollision n.val) s := rfl

theorem exec_backoffExpiry : exec (.backoffExpiry n free) s =
    run (fun c => c.whenDue (c.backoffOver n.val) fun d => d.backoffExpiry n.val free) s := rfl

theorem ended_seg {b d : Chip} : (b.ended d).seg n.val = d.seg n.val := Chip.ended_inst (by decide) n.isLt (by decide)

theorem ended_eng {b d : Chip} : (b.ended d).eng n.val = d.eng n.val := Chip.eng_congr (b.ended_segs d)

theorem Chip.Sends.ended {b d : Chip} {start typ : Nat} (h : d.Sends n.val start typ) : (b.ended d).Sends n.val start typ :=
  h.of_eng (by rw [ended_eng]) (by rw [ended_eng])

/-! ### LISTEN and PLAIN -/

theorem phyReady_ends (hen : s.chip.segEnabled n.val = true) (hst : s.chip.seg n.val = sgDISABLED) :
    (s.chip.on SEGMENT.CFG_PLAIN n.val = true → (s.chip.eng n.val).cmdq = [] → SetsRegs (.segmentPhyReady n) s (syncKeys n.val) fun d =>
      d.seg n.val = sgPLAIN ∧ s.chip.Tells d EV.SEGMENT_SYNC_CHANGE n.val) ∧
    (s.chip.on SEGMENT.CFG_PLAIN n.val = true → (s.chip.eng n.val).cmdq ≠ [] → Ends (.segmentPhyReady n) s fun d =>
      d.seg n.val = sgPLAIN ∧ s.chip.Tells d EV.SEGMENT_SYNC_CHANGE n.val ∧ (d.eng n.val).cmdq = [] ∧
      s.chip.Counts d SEGMENT.TX_DROP_COUNT n.val (s.chip.eng n.val).cmdq.length ∧ d.fld SEGMENT.CMDQ_STATUS_DEPTH n.val = 0 ∧
      d.fld SEGMENT.CMDQ_STATUS_FULL n.val = 0) ∧
    (s.chip.on SEGMENT.CFG_PLAIN n.val = false → Ends (.segmentPhyReady n) s fun d =>
      s.chip.Listens d n.val ∧ s.chip.Tells d EV.SEGMENT_SYNC_CHANGE n.val) := by
  have hdue : phyDue n s.chip = true := by
    rw [phyDue, hen, hst]
    rfl
  refine ⟨fun hp hq => ?_, fun hp hq => ?_, fun hp => ?_⟩
  · refine becomes_of_due exec_segmentPhyReady hdue ?_ ?_ <;> rw [Chip.phyReady_plain_empty hp hq]
    · exact Chip.setSync_keys.mono (by decide) fun _ h => h
    · exact ⟨ended_seg.trans (Chip.setSync_says n.isLt (by decide) _).1,
        (Chip.setSync_tells n.isLt (by rw [hst]; decide)).inst (by decide) n.isLt⟩
  · refine ends_of_due exec_segmentPhyReady hdue ?_
    obtain ⟨hseg, htell, hcmdq, hcount, hdepth, hfull⟩ := Chip.phyReady_drops n.isLt hp hq hst
    exact ⟨ended_seg.trans hseg, htell.inst (by decide) n.isLt, by rw [ended_eng, hcmdq], hcount.inst (by decide) n.isLt,
      (ended_flyer (by decide) rfl).trans hdepth, (ended_flyer (by decide) rfl).trans hfull⟩
  · refine ends_of_due exec_segmentPhyReady hdue ?_
    rw [Chip.phyReady_listen hp]
    exact ⟨(s.chip.enterListen_listens n.isLt).ended n.isLt, (Chip.enterListen_tells n.isLt (by rw [hst]; decide)).inst (by decide) n.isLt⟩

/-! ### DISABLED -/

theorem Chip.Disabled.ended {b d : Chip} (h : d.Disabled n.val) : (b.ended d).Disabled n.val := by
  obtain ⟨hseg, hlast, hcsma, hanch, hjoin⟩ := h
  exact ⟨ended_seg.trans hseg, by rw [ended_eng, hlast], by rw [ended_eng, hcsma], by rw [ended_eng, hanch],
    fun t ht => (Chip.ended_inst (by decide) n.isLt (by omega)).trans (hjoin t ht)⟩

/-- A write of PAGE_CTRL that clears EN. -/
theorem Chip.ctrlWrite_segDisables {c : Chip} {w : Nat} (h : w % 8 = 0) : c.ctrlWrite .segment n.val p w =
    (c.setHdr HDR.CTRL_EN (PageCls.segment.base + n.val) 0).segDisable n.val := by
  obtain ⟨h0, h1, h2, hb⟩ := ctrl_bits (by decide) h
  have hlock : c.ctrlLock (PageCls.segment.base + n.val) w = c := if_neg (by rw [h2]; decide)
  have hen : c.ctrlEn .segment n.val w =
      (c.setHdr HDR.CTRL_EN (PageCls.segment.base + n.val) (bitsOf w 0 0)).enWritten .segment n.val (w.testBit 0) := rfl
  rw [Chip.ctrlWrite_eq, Chip.ctrlReset_none h1, hlock, hen, h0, hb]
  rfl

theorem segDisabled_write {c b d : Chip} (hst : c.seg n.val ≠ sgDISABLED) (hd : d = c.ctrlWrite .segment n.val p v.toNat)
    (hv : v.toNat % 8 = 0) : (b.ended d).Disabled n.val ∧ (b.ended d).hdr HDR.CTRL_EN (PageCls.segment.base + n.val) = 0 := by
  have hkey : SEGMENT.SYNC_STATUS_STATE.key n.val 0 ≠ HDR.CTRL_EN.key (PageCls.segment.base + n.val) :=
    (Nat.ne_of_lt (cellKey_lt_of_off (by decide) (by decide) (by decide))).symm
  have hseg : (c.setHdr HDR.CTRL_EN (PageCls.segment.base + n.val) 0).seg n.val ≠ sgDISABLED := by
    rw [Chip.seg, Chip.fld_setHdr_ne _ _ _ _ _ _ _ hkey]
    exact hst
  have hdis := Chip.segDisable_disabled n.isLt hseg
  have hframe := Chip.away_eq_iff.mp (Chip.away_segDisable (c := c.setHdr HDR.CTRL_EN (PageCls.segment.base + n.val) 0)
    (List.Subset.refl _) (List.Subset.refl _) n.isLt)
  have hen := hframe.hdr_apart HDR.CTRL_EN .segment n.val (by decide) n.isLt
  rw [Chip.ctrlWrite_segDisables hv] at hd
  rw [← hd] at hdis hen
  refine ⟨hdis.ended, ?_⟩
  rw [Chip.ended_hdr _ _ _ _ (hdrKey_not_level _ _ (by decide) (by decide) (by decide))]
  exact hen.trans (Chip.hdr_setHdr_self _ _ _ _)

/-! ### The listen timer -/

theorem listenTimeout_ends (hdue : s.chip.listenOver n.val = true) :
    (s.chip.seg n.val = sgLISTEN → s.chip.mayStart n.val = true → Ends (.listenTimeout n free) s fun d =>
      d.seg n.val = sgCONTEND ∧ d.fld SEGMENT.CS_STATUS_COLLISIONS n.val = 0 ∧
      (s.chip.lineFree n.val free ≤ s.chip.now → d.Sends n.val s.chip.now ftCOLDSTART ∧ (d.eng n.val).backoffEnd = none) ∧
      (s.chip.now < s.chip.lineFree n.val free → (d.eng n.val).backoffEnd = some (s.chip.lineFree n.val free) ∧
        (d.eng n.val).lastTx = (s.chip.eng n.val).lastTx ∧
        (s.chip.carrierNow free = true → s.chip.Counts d SEGMENT.MAC_DEFERRED_COUNT n.val))) ∧
    ((s.chip.seg n.val ≠ sgLISTEN ∨ s.chip.mayStart n.val = false) → Ends (.listenTimeout n free) s fun d => s.chip.Listens d n.val) := by
  refine ⟨fun hst hmay => ends_of_due exec_listenTimeout hdue ?_, fun h => ends_of_due exec_listenTimeout hdue ?_⟩
  · rw [Chip.listenTimeout_starts hst hmay]
    obtain ⟨hseg, hcoll, heng, hnow, hdef⟩ := s.chip.contending_says n.isLt
    have hfree : (s.chip.contending n.val).lineFree n.val free = s.chip.lineFree n.val free := Chip.lineFree_congr (by rw [heng])
    have hcar := Chip.carrierNow_congr (free := free) hnow
    generalize s.chip.contending n.val = e at hseg hcoll heng hnow hdef hfree hcar
    have hframe := e.tryColdstart_frame (free := free) n.isLt
    refine ⟨ended_seg.trans ((hframe.fld_apart SEGMENT.SYNC_STATUS_STATE n.val 0 (by decide) n.isLt (by decide)).trans hseg),
      (ended_flyer (by decide) rfl).trans ((hframe.fld_apart SEGMENT.CS_STATUS_COLLISIONS n.val 0 (by decide) n.isLt (by decide)).trans hcoll),
      fun hle => ?_, fun hlt => ?_⟩
    · rw [Chip.tryColdstart_sends (by rw [hfree, hnow]; exact hle), ended_eng, ← hnow]
      exact ⟨e.sendColdstart_says.1.ended, e.sendColdstart_says.2⟩
    · obtain ⟨hback, hlast, hcnt⟩ := e.tryColdstart_waiting (n := n.val) (free := free) (by rw [hfree, hnow]; exact hlt)
      refine ⟨by rw [ended_eng, hback, hfree], by rw [ended_eng, hlast, heng], fun h => ?_⟩
      have hcount := hcnt (hcar.trans h) (by rw [heng])
      rw [Chip.Counts, hdef] at hcount
      exact (ended_flyer (by decide) rfl).trans hcount
  · rw [Chip.listenTimeout_listens h]
    exact (s.chip.enterListen_listens n.isLt).ended n.isLt

theorem coldstartSent_sets (hdue : s.chip.coldstartSentDue n.val = true) :
    SetsRegs (.coldstartSent n) s (SEGMENT.CS_STATUS_TRIAL_LEFT.key n.val 0 :: syncKeys n.val) fun d =>
      d.seg n.val = sgTRIAL ∧ d.fld SEGMENT.CS_STATUS_TRIAL_LEFT n.val = 3 := by
  refine becomes_of_due exec_coldstartSent hdue ?_ ⟨ended_seg.trans (Chip.setSync_says n.isLt (by decide) _).1, ?_⟩
  · exact ((Chip.Frame.refl _).setFld _ _ n.val 0 (.head _)).trans (Chip.setSync_keys.mono (by decide) fun _ h => .tail _ h)
  · exact (ended_flyer (by decide) rfl).trans (((Chip.setSync_frame n.isLt).fld_apart SEGMENT.CS_STATUS_TRIAL_LEFT n.val 0 (by decide) n.isLt
      (by decide)).trans (Chip.fld_setFld_self _ _ _ _ _))

/-! ### Collisions and their back-off -/

theorem contendCollision_trial (hst : s.chip.seg n.val = sgTRIAL) (hend : s.chip.now ≤ (s.chip.eng n.val).txEnd) :
    Ends (.contendCollision n) s fun d => d.seg n.val = sgCONTEND ∧ d.fld SEGMENT.CS_STATUS_TRIAL_LEFT n.val = 0 ∧
      (d.eng n.val).txEnd = s.chip.now + 3200 * nsQ ∧ d.freeCtr = s.chip.freeCtr + 1 ∧
      (d.eng n.val).backoffEnd = some (s.chip.now + 3200 * nsQ +
        Config.freeValue s.chip.freeCtr % 2 ^ min (s.chip.fld SEGMENT.CS_STATUS_COLLISIONS n.val + 1) 10 * 51200 * nsQ) := by
  have hdue : collisionDue n s.chip = true := by
    rw [collisionDue, hst, decide_eq_true hend]
    rfl
  refine ends_of_due exec_contendCollision hdue ?_
  rw [Chip.contendCollision_backsOff n.isLt (.inl (by rw [hst]; decide))]
  obtain ⟨hseg, htrial, -, htx, hctr, hback⟩ := s.chip.backedOff_says (k := s.chip.fld SEGMENT.CS_STATUS_COLLISIONS n.val + 1) n.isLt
  exact ⟨ended_seg.trans hseg, (ended_flyer (by decide) rfl).trans htrial, by rw [ended_eng, htx], by rw [Chip.ended_freeCtr, hctr],
    by rw [ended_eng, hback]⟩

theorem contendCollision_contend (hst : s.chip.seg n.val = sgCONTEND) (hwait : (s.chip.eng n.val).backoffEnd = none)
    (hend : s.chip.now ≤ (s.chip.eng n.val).txEnd) : let k := s.chip.fld SEGMENT.CS_STATUS_COLLISIONS n.val + 1
    (16 ≤ k → Ends (.contendCollision n) s fun d => s.chip.Listens d n.val ∧ s.chip.Counts d SEGMENT.CS_FAIL_COUNT n.val ∧
      s.chip.Tells d EV.SEGMENT_COLLISION n.val) ∧
    (k < 16 → Ends (.contendCollision n) s fun d => d.seg n.val = sgCONTEND ∧ d.fld SEGMENT.CS_STATUS_COLLISIONS n.val = k ∧
      d.freeCtr = s.chip.freeCtr + 1 ∧ (d.eng n.val).txEnd = s.chip.now + 3200 * nsQ ∧
      (d.eng n.val).backoffEnd = some (s.chip.now + 3200 * nsQ + Config.freeValue s.chip.freeCtr % 2 ^ min k 10 * 51200 * nsQ)) := by
  have hdue : collisionDue n s.chip = true := by
    rw [collisionDue, hst, hwait, decide_eq_true hend]
    rfl
  intro k
  refine ⟨fun hk => ends_of_due exec_contendCollision hdue ?_, fun hk => ends_of_due exec_contendCollision hdue ?_⟩
  · rw [Chip.contendCollision_fails n.isLt hst hk]
    obtain ⟨hlisten, hcount, htell⟩ := s.chip.failed_says n.isLt
    exact ⟨hlisten.ended n.isLt, hcount.inst (by decide) n.isLt, htell.inst (by decide) n.isLt⟩
  · rw [Chip.contendCollision_backsOff n.isLt (.inr hk)]
    obtain ⟨hseg, -, hcoll, htx, hctr, hback⟩ := s.chip.backedOff_says (k := k) n.isLt
    have hmin : min k 31 = k := Nat.min_eq_left (by omega)
    exact ⟨ended_seg.trans hseg, (ended_flyer (by decide) rfl).trans (hcoll.trans hmin), by rw [Chip.ended_freeCtr, hctr],
      by rw [ended_eng, htx], by rw [ended_eng, hback]⟩

theorem contendCollision_idles : (s.chip.seg n.val ≠ sgCONTEND → s.chip.seg n.val ≠ sgTRIAL → Idles (.contendCollision n) s) ∧
    ((s.chip.eng n.val).txEnd < s.chip.now → Idles (.contendCollision n) s) := by
  refine ⟨fun hc ht => idles_of_not_due exec_contendCollision ?_, fun h => idles_of_not_due exec_contendCollision ?_⟩
  · rw [collisionDue, beq_eq_false_iff_ne.mpr hc, beq_eq_false_iff_ne.mpr ht]
    rfl
  · rw [collisionDue, decide_eq_false (Nat.not_le.mpr h), Bool.and_false]

theorem backoffExpiry_ends (hdue : s.chip.backoffOver n.val = true) :
    (s.chip.seg n.val = sgCONTEND → s.chip.lineFree n.val free ≤ s.chip.now → Ends (.backoffExpiry n free) s fun d =>
      d.Sends n.val s.chip.now ftCOLDSTART ∧ (d.eng n.val).backoffEnd = none) ∧
    (s.chip.seg n.val = sgCONTEND → s.chip.now < s.chip.lineFree n.val free → Ends (.backoffExpiry n free) s fun d =>
      d.seg n.val = sgCONTEND ∧
      (d.eng n.val).backoffEnd = some (s.chip.lineFree n.val free) ∧ (d.eng n.val).lastTx = (s.chip.eng n.val).lastTx ∧
      (s.chip.carrierNow free = true → (s.chip.eng n.val).coldDeferred = false → s.chip.Counts d SEGMENT.MAC_DEFERRED_COUNT n.val)) ∧
    (s.chip.seg n.val ≠ sgCONTEND →
      Becomes (.backoffExpiry n free) s (s.chip.setEng n.val { s.chip.eng n.val with backoffEnd := none }) [] fun _ => True) := by
  have hcontend (hst : s.chip.seg n.val = sgCONTEND) : s.chip.backoffExpiry n.val free = s.chip.tryColdstart n.val free := if_pos hst
  refine ⟨fun hst hle => ends_of_due exec_backoffExpiry hdue ?_, fun hst hlt => ends_of_due exec_backoffExpiry hdue ?_, fun hst => ?_⟩
  · rw [hcontend hst, Chip.tryColdstart_sends hle, ended_eng]
    exact ⟨s.chip.sendColdstart_says.1.ended, s.chip.sendColdstart_says.2⟩
  · obtain ⟨hback, hlast, hcnt⟩ := s.chip.tryColdstart_waiting hlt
    have hseg := (s.chip.tryColdstart_frame (free := free) n.isLt).fld_apart SEGMENT.SYNC_STATUS_STATE n.val 0 (by decide) n.isLt (by decide)
    rw [hcontend hst]
    exact ⟨ended_seg.trans (hseg.trans hst), by rw [ended_eng, hback], by rw [ended_eng, hlast], fun hcar hdef =>
        (hcnt hcar hdef).inst (by decide) n.isLt⟩
  · refine becomes_of_due exec_backoffExpiry hdue ?_ trivial
    have heq : s.chip.backoffExpiry n.val free = s.chip.setEng n.val { s.chip.eng n.val with backoffEnd := none } := if_neg hst
    rw [heq]
    exact .refl _
end

end Sys2Proof.Machine
end

section
/-!
PROOF. The settings that a running engine holds (R167): the written word with the held fields' bits kept, and TT_CMD (R138).
-/
namespace Sys2Proof.Machine

/-! ### Fields of words that are masked -/

theorem testBit_bitsOf (w hi lo i : Nat) : (bitsOf w hi lo).testBit i = (decide (i < hi - lo + 1) && w.testBit (lo + i)) := by
  rw [bitsOf, Nat.testBit_mod_two_pow, Nat.testBit_shiftRight]

/-- Words that agree in the bits of a field agree in the field. -/
theorem bitsOf_congr {w v hi lo : Nat} (hlo : lo ≤ hi) (h : ∀ i ≤ hi, lo ≤ i → w.testBit i = v.testBit i) : bitsOf w hi lo = bitsOf v hi lo := by
  refine Nat.eq_of_testBit_eq fun i => ?_
  rw [testBit_bitsOf, testBit_bitsOf]
  by_cases hi' : i < hi - lo + 1
  · rw [h (lo + i) (by omega) (Nat.le_add_right _ _)]
  · rw [decide_eq_false hi', Bool.false_and, Bool.false_and]

theorem bitsOf_small {x hi : Nat} (h : x < 2 ^ (hi + 1)) : bitsOf x hi 0 = x := by
  rw [bitsOf, Nat.shiftRight_zero, Nat.sub_zero, Nat.mod_eq_of_lt h]

/-- The written word, with the bits of `held` as they were. -/
def keptBits (held old v : Nat) : Nat := (v &&& (0xFFFFFFFF ^^^ held)) ||| (old &&& held)

section
variable {held old v hi lo : Nat}

theorem bitsOf_keptBits_held (hlo : lo ≤ hi) (h : ∀ i ≤ hi, lo ≤ i → (held.testBit i && (0xFFFFFFFF : Nat).testBit i) = true) :
    bitsOf (keptBits held old v) hi lo = bitsOf old hi lo := by
  refine bitsOf_congr hlo fun i hi' hlo' => ?_
  have hb := (Bool.and_eq_true _ _).mp (h i hi' hlo')
  rw [keptBits, Nat.testBit_or, Nat.testBit_and, Nat.testBit_xor, Nat.testBit_and, hb.1, hb.2]
  simp

theorem bitsOf_keptBits_free (hlo : lo ≤ hi) (h : ∀ i ≤ hi, lo ≤ i → (!held.testBit i && (0xFFFFFFFF : Nat).testBit i) = true) :
    bitsOf (keptBits held old v) hi lo = bitsOf v hi lo := by
  refine bitsOf_congr hlo fun i hi' hlo' => ?_
  have hb := (Bool.and_eq_true _ _).mp (h i hi' hlo')
  have hheld : held.testBit i = false := by simpa using hb.1
  rw [keptBits, Nat.testBit_or, Nat.testBit_and, Nat.testBit_xor, Nat.testBit_and, hheld, hb.2]
  simp

/-- The mask of some fields. -/
def maskOf (l : List (Nat × Nat)) (held : Nat) : Prop :=
  held < 2 ^ 32 ∧ (∀ i < 32, held.testBit i = true → l.any (fun f => decide (f.2 ≤ i ∧ i ≤ f.1)) = true) ∧
    ∀ f ∈ l, f.2 ≤ f.1 ∧ ∀ i ≤ f.1, f.2 ≤ i → held.testBit i = true

theorem and_mask_eq_iff {l : List (Nat × Nat)} (h : maskOf l held) : old &&& held = v &&& held ↔ ∀ f ∈ l, bitsOf old f.1 f.2 = bitsOf v f.1 f.2 := by
  obtain ⟨hlt, hin, hfields⟩ := h
  refine ⟨fun heq f hf => ?_, fun heq => Nat.eq_of_testBit_eq fun i => ?_⟩
  · obtain ⟨hlo, hset⟩ := hfields f hf
    refine bitsOf_congr hlo fun i hi' hlo' => ?_
    have hbit := congrArg (fun x => x.testBit i) heq
    simpa [Nat.testBit_and, hset i hi' hlo'] using hbit
  · rw [Nat.testBit_and, Nat.testBit_and]
    cases hb : held.testBit i with
    | false => rw [Bool.and_false, Bool.and_false]
    | true =>
      have hi32 : i < 32 := by
        by_contra hge
        have := Nat.testBit_lt_two_pow (Nat.lt_of_lt_of_le hlt (Nat.pow_le_pow_right (by decide) (Nat.not_lt.mp hge)))
        exact absurd (this.symm.trans hb) (by decide)
      obtain ⟨f, hf, hle⟩ := List.any_eq_true.mp (hin i hi32 hb)
      have hle := of_decide_eq_true hle
      have hbit := congrArg (fun x => x.testBit (i - f.2)) (heq f hf)
      rw [testBit_bitsOf, testBit_bitsOf, Nat.add_sub_cancel' hle.1, decide_eq_true (by omega), Bool.true_and, Bool.true_and] at hbit
      rw [hbit]
end

/-! ### CFG and NODE_CFG while EN = 1 -/

section
variable {c d : Chip} {n : Nat} {p : Port} {v : Nat}

def nodeRows : List FieldRow := [SEGMENT.NODE_CFG_NODE_ID, SEGMENT.NODE_CFG_CS_PRIO]

def cfgRows : List FieldRow := [SEGMENT.CFG_PLAIN, SEGMENT.CFG_DUAL, SEGMENT.CFG_CS_EN, SEGMENT.CFG_CS_ANYTIME, SEGMENT.CFG_CONT_TX_EN,
  SEGMENT.CFG_JOIN_REQUIRED, SEGMENT.CFG_JOIN_HOST, SEGMENT.CFG_PRECLASS]

theorem nodeFields : c.fieldsAt .segment 0x044 = nodeRows.map fun r => (r, 0) := rfl

theorem cfgFields : c.fieldsAt .segment 0x040 = cfgRows.map fun r => (r, 0) := rfl

/-- A write of CFG or NODE_CFG changes its own fields to the bits written. -/
theorem Chip.settingWrite_says {rows : List FieldRow} {off : Nat} (hrows : c.fieldsAt .segment off = rows.map fun r => (r, 0))
    (hrw : ∀ r ∈ rows, r.acc = .rw) :
    c.Frame [] (· ∈ rows.map fun r => r.key n 0) (c.plainWrite .segment n off v p) ∧
      ∀ r ∈ rows, (c.plainWrite .segment n off v p).fld r n = bitsOf v r.hi r.lo := by
  rw [Chip.plainWrite_open (Chip.sealedAt_open (by decide) _ _)]
  refine ⟨(c.plainFields_frame _ _ _ _ []).mono (fun _ h => h) fun k hk => ?_, fun r hr => ?_⟩
  · rw [Chip.takenKeys, hrows] at hk
    obtain ⟨g, hg, rfl⟩ := List.mem_map.mp hk
    obtain ⟨r, hr, rfl⟩ := List.mem_map.mp (List.mem_filter.mp hg).1
    exact List.mem_map.mpr ⟨r, hr, rfl⟩
  · have hfld := Chip.fld_plainFields (c := c) (cls := .segment) (n := n) (off := off) (h := (r, 0))
      (by rw [hrows]; exact List.mem_map.mpr ⟨r, hr, rfl⟩) v
    rw [Chip.written, hrw r hr] at hfld
    exact hfld

theorem nodeRead : c.plainRead .segment n 0x044 = c.fld SEGMENT.NODE_CFG_NODE_ID n <<< 0 ||| c.fld SEGMENT.NODE_CFG_CS_PRIO n <<< 8 := by
  have h : c.plainRead .segment n 0x044 = 0 ||| c.fld SEGMENT.NODE_CFG_NODE_ID n <<< 0 ||| c.fld SEGMENT.NODE_CFG_CS_PRIO n <<< 8 := rfl
  rw [h, Nat.zero_or]

theorem nodeRead_fields (hid : c.fld SEGMENT.NODE_CFG_NODE_ID n < 64) (hprio : c.fld SEGMENT.NODE_CFG_CS_PRIO n < 256) :
    bitsOf (c.plainRead .segment n 0x044) 5 0 = c.fld SEGMENT.NODE_CFG_NODE_ID n ∧
      bitsOf (c.plainRead .segment n 0x044) 15 8 = c.fld SEGMENT.NODE_CFG_CS_PRIO n := by
  rw [nodeRead]
  generalize c.fld SEGMENT.NODE_CFG_NODE_ID n = x at hid
  generalize c.fld SEGMENT.NODE_CFG_CS_PRIO n = y at hprio
  refine ⟨(bitsOf_congr (by decide) fun i hi _ => ?_).trans (bitsOf_small hid), Nat.eq_of_testBit_eq fun i => ?_⟩
  · rw [Nat.testBit_or, Nat.testBit_shiftLeft, Nat.testBit_shiftLeft, decide_eq_false (by omega : ¬ 8 ≤ i)]
    simp
  · have hx : x.testBit (8 + i) = false :=
      Nat.testBit_lt_two_pow (Nat.lt_of_lt_of_le hid (Nat.pow_le_pow_right (n := 2) (i := 6) (by decide) (by omega)))
    rw [testBit_bitsOf, Nat.testBit_or, Nat.testBit_shiftLeft, Nat.testBit_shiftLeft, Nat.sub_zero, hx, Nat.add_sub_cancel_left]
    by_cases hi : i < 15 - 8 + 1
    · rw [decide_eq_true hi, decide_eq_true (Nat.le_add_right 8 i)]
      simp
    · rw [Nat.testBit_lt_two_pow (Nat.lt_of_lt_of_le hprio (Nat.pow_le_pow_right (n := 2) (i := 8) (by decide) (by omega)))]
      simp

/-- The bits of CFG, from those of its fields. -/
theorem cfgRead_testBit (i : Nat) : (c.plainRead .segment n 0x040).testBit i =
    cfgRows.any fun r => decide (r.lo ≤ i) && (c.fld r n).testBit (i - r.lo) := by
  have h : c.plainRead .segment n 0x040 = cfgRows.foldl (fun w r => w ||| c.fld r n <<< r.lo) 0 := rfl
  rw [h]
  simp only [cfgRows, List.foldl_cons, List.foldl_nil, List.any_cons, List.any_nil, Nat.testBit_or, Nat.testBit_shiftLeft, Nat.zero_testBit,
    Bool.false_or, Bool.or_false, Bool.or_assoc, ge_iff_le]

theorem cfgRead_fields (hp : c.fld SEGMENT.CFG_PLAIN n < 2) (hd : c.fld SEGMENT.CFG_DUAL n < 2) :
    bitsOf (c.plainRead .segment n 0x040) 0 0 = c.fld SEGMENT.CFG_PLAIN n ∧
      bitsOf (c.plainRead .segment n 0x040) 1 1 = c.fld SEGMENT.CFG_DUAL n := by
  have h0 : (c.plainRead .segment n 0x040).testBit 0 = (c.fld SEGMENT.CFG_PLAIN n).testBit 0 := by
    rw [cfgRead_testBit]
    simp [cfgRows, SEGMENT.CFG_PLAIN, SEGMENT.CFG_DUAL, SEGMENT.CFG_CS_EN, SEGMENT.CFG_CS_ANYTIME, SEGMENT.CFG_CONT_TX_EN,
      SEGMENT.CFG_JOIN_REQUIRED, SEGMENT.CFG_JOIN_HOST, SEGMENT.CFG_PRECLASS]
  have h1 : (c.plainRead .segment n 0x040).testBit 1 = (c.fld SEGMENT.CFG_DUAL n).testBit 0 := by
    have hplain : (c.fld SEGMENT.CFG_PLAIN n).testBit 1 = false := Nat.testBit_lt_two_pow hp
    rw [cfgRead_testBit]
    simp only [cfgRows, List.any_cons, List.any_nil, SEGMENT.CFG_DUAL, SEGMENT.CFG_CS_EN, SEGMENT.CFG_CS_ANYTIME, SEGMENT.CFG_CONT_TX_EN,
      SEGMENT.CFG_JOIN_REQUIRED, SEGMENT.CFG_JOIN_HOST, SEGMENT.CFG_PRECLASS]
    have hplain' : (c.fld SEGMENT.CFG_PLAIN n).testBit (1 - SEGMENT.CFG_PLAIN.lo) = false := hplain
    rw [hplain']
    simp
  have hbit (w : Nat) : (w.testBit 0).toNat = w % 2 := by
    rw [Nat.testBit_zero]
    rcases Nat.mod_two_eq_zero_or_one w with h | h <;> rw [h] <;> rfl
  exact ⟨by rw [bitsOf_bit, h0, hbit, Nat.mod_eq_of_lt hp], by rw [bitsOf_bit, h1, hbit, Nat.mod_eq_of_lt hd]⟩

/-- The fields of NODE_CFG, and those of CFG that a running engine holds. -/
theorem nodeMask : maskOf [(5, 0), (15, 8)] 0x0000FF3F := ⟨by decide, by decide, by decide⟩

theorem cfgMask : maskOf [(0, 0), (1, 1)] 3 := ⟨by decide, by decide, by decide⟩
end

/-! ### What the writes end with -/

section
variable {c d : Chip} {s : State} {n : Fin 96} {p : Port} {v : Word} {node : Bool}

/-- The offset of NODE_CFG or CFG, what a running engine holds of it, and the fields there. -/
def settingOff (node : Bool) : Nat := if node then 0x044 else 0x040

def settingHeld (node : Bool) : Nat := if node then 0x0000FF3F else 3

def settingRows (node : Bool) : List FieldRow := if node then nodeRows else cfgRows

theorem exec_segmentCfgWrite : exec (.segmentCfgWrite p n node v) s =
    run (fun c => c.accessField p SEGMENT.CFG_PLAIN n.val fun d => d.segCfgWrite n.val node p v.toNat) s := rfl

/-- A write while the engine runs. -/
def Chip.heldWrite (c : Chip) (n : Nat) (node : Bool) (p : Port) (v : Nat) : Chip :=
  c.plainWrite .segment n (settingOff node) (keptBits (settingHeld node) (c.plainRead .segment n (settingOff node)) v) p

theorem Chip.segCfgWrite_running (hen : c.hdr HDR.CTRL_EN (PageCls.segment.base + n.val) = 1) (w : Nat) : c.segCfgWrite n.val node p w =
    if c.plainRead .segment n.val (settingOff node) &&& settingHeld node ≠ w &&& settingHeld node then
      (c.heldWrite n.val node p w).errcnt (PageCls.segment.base + n.val) (settingOff node) p
    else c.heldWrite n.val node p w := by
  cases node <;> exact if_pos hen

theorem Chip.segCfgWrite_off (hen : c.hdr HDR.CTRL_EN (PageCls.segment.base + n.val) ≠ 1) (w : Nat) :
    c.segCfgWrite n.val node p w = c.plainWrite .segment n.val (settingOff node) w p := by
  cases node <;> exact if_neg hen

theorem Chip.heldWrite_says (w : Nat) : c.Frame [] (· ∈ (settingRows node).map fun r => r.key n.val 0) (c.heldWrite n.val node p w) ∧
    ∀ r ∈ settingRows node, (c.heldWrite n.val node p w).fld r n.val =
      bitsOf (keptBits (settingHeld node) (c.plainRead .segment n.val (settingOff node)) w) r.hi r.lo := by
  cases node with
  | true => exact Chip.settingWrite_says nodeFields (by decide)
  | false => exact Chip.settingWrite_says cfgFields (by decide)

theorem settingKey_not_err {r : FieldRow} (hr : r ∈ nodeRows ++ cfgRows) : r.key n.val 0 ∉ errKeys (PageCls.segment.base + n.val) := by
  have hall : ∀ q ∈ nodeRows ++ cfgRows, 0x01C < q.off ∧ q.cls = .segment := by decide
  obtain ⟨ho, hcls⟩ := hall r hr
  have hne {q : HdrRow} (hq : q.off ≤ 0x01C) (hl : q.lo < 32) : r.key n.val 0 ≠ q.key (PageCls.segment.base + n.val) := by
    rw [FieldRow.key, HdrRow.key, hcls]
    exact (Nat.ne_of_lt (cellKey_lt_of_off (Nat.lt_of_le_of_lt hq ho) hl (by decide))).symm
  simp only [errKeys, List.mem_cons, List.not_mem_nil, or_false, not_or]
  exact ⟨hne (by decide) (by decide), hne (by decide) (by decide), hne (by decide) (by decide)⟩

theorem settingRows_sub (node : Bool) : settingRows node ⊆ nodeRows ++ cfgRows := by
  cases node <;> decide

/-- A write while the engine runs changes its own cells, and is counted where it would change what is held. -/
theorem Chip.segCfgWrite_says (hen : c.hdr HDR.CTRL_EN (PageCls.segment.base + n.val) = 1) (w : Nat) :
    let e := c.segCfgWrite n.val node p w
    let same := c.plainRead .segment n.val (settingOff node) &&& settingHeld node = w &&& settingHeld node
    (same → c.Frame [] (· ∈ (settingRows node).map fun r => r.key n.val 0) e) ∧
    (¬ same → c.Frame [] (· ∈ (settingRows node).map (fun r => r.key n.val 0) ++ errKeys (PageCls.segment.base + n.val)) e ∧
      c.Counted e (PageCls.segment.base + n.val) (settingOff node) p) ∧
    ∀ r ∈ settingRows node, e.fld r n.val =
      bitsOf (keptBits (settingHeld node) (c.plainRead .segment n.val (settingOff node)) w) r.hi r.lo := by
  intro e same
  obtain ⟨hframe, hfld⟩ := c.heldWrite_says (n := n) (node := node) (p := p) w
  have hrun : e = _ := Chip.segCfgWrite_running hen w
  have hoff : settingOff node < 4096 := by cases node <;> decide
  have hcount := (c.heldWrite n.val node p w).counted_errcnt (PageCls.segment.base + n.val) (settingOff node) p hoff
  have herr := (c.heldWrite n.val node p w).errcnt_frame (PageCls.segment.base + n.val) (settingOff node) p
  generalize c.heldWrite n.val node p w = h at hframe hfld hrun hcount herr
  refine ⟨fun hs => ?_, fun hs => ?_, fun r hr => ?_⟩
  · rw [hrun, if_neg (not_not_intro hs)]
    exact hframe
  · rw [hrun, if_pos hs]
    refine ⟨(hframe.mono (by decide) fun k hk => List.mem_append_left _ hk).trans (herr.mono (by decide) fun k hk => List.mem_append_right _ hk), ?_⟩
    obtain ⟨h1, h2, h3⟩ := hcount
    refine ⟨?_, h2, h3⟩
    rw [h1, hframe.hdr _ _ fun hk => ?_]
    obtain ⟨r, hr, heq⟩ := List.mem_map.mp hk
    exact settingKey_not_err (n := n) (settingRows_sub node hr) (heq ▸ .head _)
  · have hkey := settingKey_not_err (n := n) (settingRows_sub node hr)
    rw [hrun]
    split_ifs
    · exact (herr.fld _ _ _ hkey).trans (hfld r hr)
    · exact hfld r hr

/-- What is held of CFG and of NODE_CFG, by its fields. -/
theorem Chip.cfgHeld_iff (hp : c.fld SEGMENT.CFG_PLAIN n.val < 2) (hd : c.fld SEGMENT.CFG_DUAL n.val < 2) (w : Nat) :
    c.plainRead .segment n.val (settingOff false) &&& settingHeld false = w &&& settingHeld false ↔
      bitsOf w 0 0 = c.fld SEGMENT.CFG_PLAIN n.val ∧ bitsOf w 1 1 = c.fld SEGMENT.CFG_DUAL n.val := by
  obtain ⟨h0, h1⟩ := cfgRead_fields hp hd
  have hiff := and_mask_eq_iff (old := c.plainRead .segment n.val 0x040) (v := w) cfgMask
  simp only [List.forall_mem_cons, List.not_mem_nil, false_imp_iff, implies_true, and_true, h0, h1] at hiff
  exact hiff.trans (and_congr eq_comm eq_comm)

theorem Chip.nodeHeld_iff (hid : c.fld SEGMENT.NODE_CFG_NODE_ID n.val < 64) (hprio : c.fld SEGMENT.NODE_CFG_CS_PRIO n.val < 256) (w : Nat) :
    c.plainRead .segment n.val (settingOff true) &&& settingHeld true = w &&& settingHeld true ↔
      bitsOf w 5 0 = c.fld SEGMENT.NODE_CFG_NODE_ID n.val ∧ bitsOf w 15 8 = c.fld SEGMENT.NODE_CFG_CS_PRIO n.val := by
  obtain ⟨h0, h1⟩ := nodeRead_fields hid hprio
  have hiff := and_mask_eq_iff (old := c.plainRead .segment n.val 0x044) (v := w) nodeMask
  simp only [List.forall_mem_cons, List.not_mem_nil, false_imp_iff, implies_true, and_true, h0, h1] at hiff
  exact hiff.trans (and_congr eq_comm eq_comm)

/-- A write of CFG or NODE_CFG while the engine runs leaves PLAIN and DUAL. -/
theorem segCfgWrite_cfg (hopen : s.chip.Open p .segment n.val) (hen : s.chip.hdr HDR.CTRL_EN (PageCls.segment.base + n.val) = 1)
    (hp : s.chip.fld SEGMENT.CFG_PLAIN n.val < 2) (hd : s.chip.fld SEGMENT.CFG_DUAL n.val < 2) :
    Ends (.segmentCfgWrite p n node v) s fun d =>
      d.fld SEGMENT.CFG_PLAIN n.val = s.chip.fld SEGMENT.CFG_PLAIN n.val ∧ d.fld SEGMENT.CFG_DUAL n.val = s.chip.fld SEGMENT.CFG_DUAL n.val ∧
      (node = false → d.fld SEGMENT.CFG_CONT_TX_EN n.val = bitsOf v.toNat 4 4 ∧
        ((bitsOf v.toNat 0 0 ≠ s.chip.fld SEGMENT.CFG_PLAIN n.val ∨ bitsOf v.toNat 1 1 ≠ s.chip.fld SEGMENT.CFG_DUAL n.val) →
          s.chip.Counted d (PageCls.segment.base + n.val) 0x040 p) ∧
        (bitsOf v.toNat 0 0 = s.chip.fld SEGMENT.CFG_PLAIN n.val → bitsOf v.toNat 1 1 = s.chip.fld SEGMENT.CFG_DUAL n.val →
          s.chip.KeepsCells d (cfgRows.map fun r => r.key n.val 0))) := by
  refine ends_of_access exec_segmentCfgWrite hopen ?_
  have hsays := Chip.segCfgWrite_says (c := s.chip) (n := n) (node := node) (p := p) hen v.toNat
  generalize s.chip.segCfgWrite n.val node p v.toNat = e at hsays
  obtain ⟨hsame, hdiff, hfld⟩ := hsays
  have hend (r : FieldRow) (h : (r.placed && r.cls.unlevelled) = true) (hc : r.cls.count = 96) : (s.chip.ended e).fld r n.val = e.fld r n.val :=
    ended_flyer h hc
  obtain ⟨h0, h1⟩ := cfgRead_fields hp hd
  cases node with
  | true =>
    have hkeep (r : FieldRow) (hr : r ∈ [SEGMENT.CFG_PLAIN, SEGMENT.CFG_DUAL]) : e.fld r n.val = s.chip.fld r n.val := by
      have hfacts : ∀ q ∈ [SEGMENT.CFG_PLAIN, SEGMENT.CFG_DUAL], q ∈ nodeRows ++ cfgRows ∧
          ∀ y ∈ nodeRows, decide (q.off < y.off ∧ q.lo < 32 ∧ q.cls = y.cls) = true := by decide
      obtain ⟨hq, hbelow⟩ := hfacts r hr
      have hne : r.key n.val 0 ∉ nodeRows.map fun y => y.key n.val 0 := fun hk => by
        obtain ⟨y, hy, heq⟩ := List.mem_map.mp hk
        exact FieldRow.key_ne_of_below (hbelow y hy) heq.symm
      by_cases hs : s.chip.plainRead .segment n.val (settingOff true) &&& settingHeld true = v.toNat &&& settingHeld true
      · exact (hsame hs).fld _ _ _ hne
      · refine (hdiff hs).1.fld _ _ _ fun hk => ?_
        exact (List.mem_append.mp hk).elim hne (settingKey_not_err hq)
    exact ⟨(hend _ (by decide) rfl).trans (hkeep _ (.head _)), (hend _ (by decide) rfl).trans (hkeep _ (.tail _ (.head _))),
      fun h => absurd h (by decide)⟩
  | false =>
    have hiff := Chip.cfgHeld_iff hp hd v.toNat
    refine ⟨(hend _ (by decide) rfl).trans ((hfld _ (.head _)).trans ((bitsOf_keptBits_held (by decide) (by decide)).trans h0)),
      (hend _ (by decide) rfl).trans ((hfld _ (.tail _ (.head _))).trans ((bitsOf_keptBits_held (by decide) (by decide)).trans h1)),
      fun _ => ⟨?_, fun hne => ?_, fun hp' hd' => (hsame (hiff.mpr ⟨hp', hd'⟩)).keepsCells⟩⟩
    · exact (hend _ (by decide) rfl).trans ((hfld SEGMENT.CFG_CONT_TX_EN (by decide)).trans (bitsOf_keptBits_free (by decide) (by decide)))
    · refine ((hdiff fun hs => ?_).2).ended
      obtain ⟨hp', hd'⟩ := hiff.mp hs
      exact hne.elim (fun h => h hp') fun h => h hd'

/-- A write of NODE_CFG while the engine runs leaves it, and counts where it would change it. -/
theorem segCfgWrite_node (hopen : s.chip.Open p .segment n.val) (hen : s.chip.hdr HDR.CTRL_EN (PageCls.segment.base + n.val) = 1)
    (hid : s.chip.fld SEGMENT.NODE_CFG_NODE_ID n.val < 64) (hprio : s.chip.fld SEGMENT.NODE_CFG_CS_PRIO n.val < 256) {stays : Chip → Prop}
    (hstays : ∀ d : Chip, d.fld SEGMENT.NODE_CFG_NODE_ID n.val = s.chip.fld SEGMENT.NODE_CFG_NODE_ID n.val →
      d.fld SEGMENT.NODE_CFG_CS_PRIO n.val = s.chip.fld SEGMENT.NODE_CFG_CS_PRIO n.val → stays d) :
    ((bitsOf v.toNat 5 0 ≠ s.chip.fld SEGMENT.NODE_CFG_NODE_ID n.val ∨ bitsOf v.toNat 15 8 ≠ s.chip.fld SEGMENT.NODE_CFG_CS_PRIO n.val) →
      SetsRegs (.segmentCfgWrite p n true v) s ((nodeRows.map fun r => r.key n.val 0) ++ errKeys (PageCls.segment.base + n.val)) fun d =>
        s.chip.Counted d (PageCls.segment.base + n.val) 0x044 p ∧ stays d) ∧
    (bitsOf v.toNat 5 0 = s.chip.fld SEGMENT.NODE_CFG_NODE_ID n.val → bitsOf v.toNat 15 8 = s.chip.fld SEGMENT.NODE_CFG_CS_PRIO n.val →
      SetsRegs (.segmentCfgWrite p n true v) s (nodeRows.map fun r => r.key n.val 0) stays) := by
  have hsays := Chip.segCfgWrite_says (c := s.chip) (n := n) (node := true) (p := p) hen v.toNat
  have hbec {own : List Nat} {ok : Chip → Prop} (hf : s.chip.Frame [.ecc] (· ∈ own) (s.chip.segCfgWrite n.val true p v.toNat))
      (hok : ok (s.chip.ended (s.chip.segCfgWrite n.val true p v.toNat))) : SetsRegs (.segmentCfgWrite p n true v) s own ok :=
    becomes_of_access exec_segmentCfgWrite hopen hf hok
  generalize s.chip.segCfgWrite n.val true p v.toNat = e at hsays hbec
  obtain ⟨hsame, hdiff, hfld⟩ := hsays
  obtain ⟨h0, h1⟩ := nodeRead_fields hid hprio
  have hiff := Chip.nodeHeld_iff hid hprio v.toNat
  have hstay : stays (s.chip.ended e) :=
    hstays _ ((ended_flyer (by decide) rfl).trans ((hfld _ (.head _)).trans ((bitsOf_keptBits_held (by decide) (by decide)).trans h0)))
      ((ended_flyer (by decide) rfl).trans ((hfld _ (.tail _ (.head _))).trans ((bitsOf_keptBits_held (by decide) (by decide)).trans h1)))
  refine ⟨fun hne => ?_, fun h h' => hbec ((hsame (hiff.mpr ⟨h, h'⟩)).mono (by decide) fun _ hk => hk) hstay⟩
  obtain ⟨hf, hcount⟩ := hdiff fun hs => hne.elim (fun h => h (hiff.mp hs).1) fun h => h (hiff.mp hs).2
  exact hbec (hf.mono (by decide) fun _ hk => hk) ⟨hcount.ended, hstay⟩

theorem segCfgWrite_stopped (hopen : s.chip.Open p .segment n.val) (hen : s.chip.hdr HDR.CTRL_EN (PageCls.segment.base + n.val) ≠ 1) :
    Ends (.segmentCfgWrite p n true v) s fun d =>
      d.fld SEGMENT.NODE_CFG_NODE_ID n.val = bitsOf v.toNat 5 0 ∧ d.fld SEGMENT.NODE_CFG_CS_PRIO n.val = bitsOf v.toNat 15 8 := by
  refine ends_of_access exec_segmentCfgWrite hopen ?_
  rw [Chip.segCfgWrite_off hen]
  obtain ⟨-, hfld⟩ := Chip.settingWrite_says (c := s.chip) (n := n.val) (p := p) (v := v.toNat) nodeFields (by decide)
  exact ⟨(ended_flyer (by decide) rfl).trans (hfld _ (.head _)), (ended_flyer (by decide) rfl).trans (hfld _ (.tail _ (.head _)))⟩
end

/-! ### TT_CMD -/

section
variable {c d : Chip} {s : State} {n : Fin 96} {p : Port} {v : Word}

theorem exec_ttCommit : exec (.ttCommit p n v) s =
    run (fun c => c.accessField p SEGMENT.TT_CMD_COMMIT n.val fun d => d.ttCommit n.val p v.toNat) s := rfl

/-- The admin table passes, or is refused. -/
def Chip.tableTaken (c : Chip) (n : Nat) : Chip :=
  ((c.setFld SEGMENT.TT_STATUS_CAUSE (c.adminCause n) n).setFld SEGMENT.TT_STATUS_STATE 1 n).updEng n fun e =>
    { e with switchEnd := !(c.setFld SEGMENT.TT_STATUS_CAUSE (c.adminCause n) n).commonPoint n }

def Chip.tableRefused (c : Chip) (n : Nat) : Chip :=
  ((c.setFld SEGMENT.TT_STATUS_CAUSE (c.adminCause n) n).setFld SEGMENT.TT_STATUS_STATE 3 n).raise EV.SEGMENT_TABLE_SWITCH n

theorem Chip.ttCommit_eq (c : Chip) (n : Nat) (p : Port) (v : Nat) : c.ttCommit n p v =
    if bitsOf v 31 16 ≠ 0x5454 ∨ (bitsOf v 0 0 = 1 ∧ c.fld SEGMENT.TT_STATUS_STATE n = 1) then c.refuse SEGMENT.TT_CMD_COMMIT p n
    else if bitsOf v 0 0 = 1 then if c.adminCause n = 0 then c.tableTaken n else c.tableRefused n else c := rfl

theorem Chip.adminCause_lt (c : Chip) (n : Nat) : c.adminCause n < 16 := by
  unfold Chip.adminCause
  dsimp only
  split_ifs <;> decide

theorem Chip.commonPoint_congr {n : Nat} (hf : ∀ r ∈ [SEGMENT.OPER_CYCLE_LEN_NS, SEGMENT.ADMIN_CYCLE_LEN_NS, SEGMENT.ADMIN_PHASE_NS],
    d.fld r n = c.fld r n)
    (heng : d.eng n = c.eng n) (hw : d.whorl = c.whorl) : d.commonPoint n = c.commonPoint n := by
  have hnet : d.net = c.net := by rw [Chip.net, hw, Chip.net]
  unfold Chip.commonPoint
  dsimp only
  rw [hf _ (.head _), hf _ (.tail _ (.head _)), hf _ (.tail _ (.tail _ (.head _))), heng, hnet]

theorem ttCommit_ends (hopen : s.chip.Open p .segment n.val) :
    ((bitsOf v.toNat 31 16 ≠ 0x5454 ∨ (bitsOf v.toNat 0 0 = 1 ∧ s.chip.fld SEGMENT.TT_STATUS_STATE n.val = 1)) →
      SetsRegs (.ttCommit p n v) s (errKeys (PageCls.segment.base + n.val)) fun d => s.chip.Counted d (PageCls.segment.base + n.val) 0x074 p) ∧
    (bitsOf v.toNat 31 16 = 0x5454 → bitsOf v.toNat 0 0 = 0 → Idles (.ttCommit p n v) s) ∧
    (bitsOf v.toNat 31 16 = 0x5454 → bitsOf v.toNat 0 0 = 1 → s.chip.fld SEGMENT.TT_STATUS_STATE n.val ≠ 1 →
      (s.chip.adminCause n.val = 0 → Ends (.ttCommit p n v) s fun d => d.fld SEGMENT.TT_STATUS_STATE n.val = 1 ∧
        d.fld SEGMENT.TT_STATUS_CAUSE n.val = 0 ∧ (d.eng n.val).switchEnd = !s.chip.commonPoint n.val ∧
        s.chip.KeepsCells d [SEGMENT.TT_STATUS_STATE.key n.val 0, SEGMENT.TT_STATUS_CAUSE.key n.val 0] ∧ d.segTables = s.chip.segTables) ∧
      (s.chip.adminCause n.val ≠ 0 → SetsRegs (.ttCommit p n v) s
        [SEGMENT.TT_STATUS_STATE.key n.val 0, SEGMENT.TT_STATUS_CAUSE.key n.val 0, EV.SEGMENT_TABLE_SWITCH.key n.val] fun d =>
        d.fld SEGMENT.TT_STATUS_STATE n.val = 3 ∧ d.fld SEGMENT.TT_STATUS_CAUSE n.val = s.chip.adminCause n.val ∧
        s.chip.Tells d EV.SEGMENT_TABLE_SWITCH n.val)) := by
  refine ⟨fun h => ?_, fun hk h0 => ?_, fun hk h1 hst => ⟨fun hc => ?_, fun hc => ?_⟩⟩
  · exact setsRegs_of_access_counted exec_ttCommit hopen ((s.chip.ttCommit_eq n.val p v.toNat).trans (if_pos h)) (by decide)
  · refine idles_of_access exec_ttCommit hopen ?_
    rw [Chip.ttCommit_eq, if_neg fun h => h.elim (fun h => h hk) fun h => absurd (h0.symm.trans h.1) (by decide), if_neg (by rw [h0]; decide)]
  · have heq : s.chip.ttCommit n.val p v.toNat = s.chip.tableTaken n.val := by
      rw [Chip.ttCommit_eq, if_neg fun h => h.elim (fun h => h hk) fun h => hst h.2, if_pos h1, if_pos hc]
    refine ends_of_access exec_ttCommit hopen ?_
    rw [heq]
    have hcause : s.chip.Frame [] (Touched [.one SEGMENT.TT_STATUS_CAUSE]) (s.chip.setFld SEGMENT.TT_STATUS_CAUSE (s.chip.adminCause n.val) n.val) :=
      (Chip.Frame.refl _).setFld _ _ _ _ (cells_one (by decide) n.isLt)
    have hpoint := Chip.commonPoint_congr (n := n.val) (fun r hr => hcause.fld_apart r n.val 0 (by revert r; decide)
      (by have hcls : ∀ q ∈ [SEGMENT.OPER_CYCLE_LEN_NS, SEGMENT.ADMIN_CYCLE_LEN_NS, SEGMENT.ADMIN_PHASE_NS], q.cls.count = 96 := by decide
          rw [hcls r hr]; exact n.isLt) (by decide)) Chip.setFld_eng (hcause.whorl (by decide))
    have hframe : s.chip.Frame [.segs] (· ∈ [SEGMENT.TT_STATUS_STATE.key n.val 0, SEGMENT.TT_STATUS_CAUSE.key n.val 0])
        (s.chip.tableTaken n.val) :=
      (((Chip.Frame.refl _).setFld _ _ n.val 0 (by simp)).setFld _ _ n.val 0 (by simp)).withSegs _ (by decide)
    refine ⟨(ended_flyer (by decide) rfl).trans ?_, (ended_flyer (by decide) rfl).trans ?_, ?_, hframe.keepsCells, ?_⟩
    · exact Chip.fld_updEng.trans (Chip.fld_setFld_self _ _ _ _ _)
    · refine Chip.fld_updEng.trans ((Chip.fld_setFld_apart (by decide) n.isLt (by decide) n.isLt (by decide)).trans
        ((Chip.fld_setFld_self _ _ _ _ _).trans ?_))
      rw [hc]
      rfl
    · rw [ended_eng, Chip.tableTaken, Chip.eng_updEng_self, hpoint]
    · exact (s.chip.ended_segTables _).trans (hframe.segTables (by decide))
  · have heq : s.chip.ttCommit n.val p v.toNat = s.chip.tableRefused n.val := by
      rw [Chip.ttCommit_eq, if_neg fun h => h.elim (fun h => h hk) fun h => hst h.2, if_pos h1, if_neg hc]
    have hset : s.chip.Frame [] (Touched [.one SEGMENT.TT_STATUS_CAUSE, .one SEGMENT.TT_STATUS_STATE])
        ((s.chip.setFld SEGMENT.TT_STATUS_CAUSE (s.chip.adminCause n.val) n.val).setFld SEGMENT.TT_STATUS_STATE 3 n.val) :=
      ((Chip.Frame.refl _).setFld _ _ _ _ (cells_one (by decide) n.isLt)).setFld _ _ _ _ (cells_one (by decide) n.isLt)
    refine becomes_of_access exec_ttCommit hopen ?_ ?_ <;> rw [heq]
    · exact (((Chip.Frame.refl _).setFld _ _ n.val 0 (by simp)).setFld _ _ n.val 0 (by simp)).raise _ _ (by simp)
    · refine ⟨(ended_flyer (by decide) rfl).trans ?_, (ended_flyer (by decide) rfl).trans ?_,
        Chip.Tells.inst (hset.tells_raise _ _ (by decide) (not_touched (x := Domain.row .seg) (by decide) 0 0 (by decide) (by decide)))
          (by decide) n.isLt⟩
      · exact (Chip.fld_raise_apart (by decide) n.isLt n.isLt (by decide)).trans (Chip.fld_setFld_self _ _ _ _ _)
      · exact (Chip.fld_raise_apart (by decide) n.isLt n.isLt (by decide)).trans ((Chip.fld_setFld_apart (by decide) n.isLt (by decide) n.isLt
          (by decide)).trans ((Chip.fld_setFld_self _ _ _ _ _).trans (Nat.mod_eq_of_lt (s.chip.adminCause_lt n.val))))
end

end Sys2Proof.Machine
end

section
/-!
PROOF. The switch to the admin table (R138, R139, R148, R162).
-/
namespace Sys2Proof.Machine

section
variable {c d : Chip} {S : List Part} {R : List Spot} {n t w : Nat}

theorem Chip.away_setTurnW {which v : Nat} (hS : [.segTables] ⊆ S) : (c.setTurnW n which t w v).away S R = c.away S R := by
  unfold Chip.setTurnW
  simp (disch := (apply mem_of_sub hS; decide)) only [Chip.away_withSegTables]

theorem Chip.away_turnChanged {old : Turn} (hS : [.segs] ⊆ S) (hR : [.one SEGMENT.OVERWRITE_COUNT, .upto SEGMENT.TURN_STAT_AGE,
    .upto SEGMENT.TURN_STAT_JOINED, .upto SEGMENT.TURN_STAT_PUB_PENDING, .upto SEGMENT.TURN_STAT_SAFE_VALID, .upto SEGMENT.TURN_STAT_STALE] ⊆ R)
    (hn : n < 96) (ht : t < 64) : (c.turnChanged n t old).away S R = c.away S R := by
  unfold Chip.turnChanged
  simp (disch := first
      | (apply mem_of_sub hS; decide) | (refine List.Subset.trans ?_ hS; decide) | (apply mem_of_sub hR; decide)
      | (refine List.Subset.trans ?_ hR; decide) | with_unfolding_all exact id hn | exact Nat.lt_trans ht (by decide)
      | decide) only [Chip.away_ite, ite_self, Chip.away_bump, Chip.away_setFld_upto, Chip.away_updTurn]

/-- The grid of the new table moves the engine's record alone. -/
theorem Chip.switchGrid_frame {K : Nat → Prop} : c.Frame [.segs] K (c.switchGrid n) :=
  .ite (fun _ => (Chip.Frame.refl c).withSegs _ (by decide)) fun _ =>
    .ite (fun _ => (Chip.Frame.refl c).withSegs _ (by decide)) fun _ => (Chip.Frame.refl c).withSegs _ (by decide)

/-! ### The parts of a switch -/

/-- The partners' turns of a master end first. -/
def Chip.turnsClosed (c : Chip) (n : Nat) : Chip := if c.seg n = sgMASTER then c.closeTurns n else c

def Chip.turnCopied (c : Chip) (n t : Nat) : Chip := (List.range 4).foldl (fun d w => d.setTurnW n 1 t w (d.turnW n 0 t w)) c

def Chip.tablesCopied (c : Chip) (n : Nat) : Chip := (List.range 65).foldl (fun d t => d.turnCopied n t) c

def Chip.turnsChanged (c : Chip) (n : Nat) (old : List (Nat × Turn)) : Chip := old.foldl (fun d x => d.turnChanged n x.1 x.2) c

def Chip.oldTurns (c : Chip) (n : Nat) : List (Nat × Turn) := (List.range 64).map fun t => (t, c.oper n t)

def Chip.lenTaken (c : Chip) (n : Nat) : Chip := c.setFld SEGMENT.OPER_CYCLE_LEN_NS (c.fld SEGMENT.ADMIN_CYCLE_LEN_NS n) n

def Chip.phaseTaken (c : Chip) (n : Nat) : Chip := c.setFld SEGMENT.OPER_PHASE_NS (c.fld SEGMENT.ADMIN_PHASE_NS n) n

def Chip.idTaken (c : Chip) (n : Nat) : Chip := c.setFld SEGMENT.TT_STATUS_OPER_TABLE_ID (c.fld SEGMENT.ADMIN_TABLE_ID_ID n) n

def Chip.switchTold (c : Chip) (n : Nat) : Chip :=
  ((((c.lenTaken n).phaseTaken n).idTaken n).setFld SEGMENT.TT_STATUS_STATE 2 n).raise EV.SEGMENT_TABLE_SWITCH n

/-- The oper table, its turns' records and its cells, as the switch leaves them. -/
def Chip.tableMoved (c : Chip) (n : Nat) : Chip := ((c.turnsClosed n).tablesCopied n).turnsChanged n ((c.turnsClosed n).oldTurns n)

theorem Chip.ttSwitch_eq (c : Chip) (n : Nat) : c.ttSwitch n = (((c.tableMoved n).switchTold n).dropUnheld n).switchGrid n := rfl

/-! ### The copy of the table -/

theorem turnKey_copy_ne {t w u x : Nat} (ht : t < 65) (hw : w < 4) : turnKey n 0 t w ≠ turnKey n 1 u x := by
  unfold turnKey
  omega

theorem turnKey_inj {t w u x : Nat} (hw : w < 4) (hx : x < 4) (hne : u ≠ t ∨ x ≠ w) : turnKey n 1 t w ≠ turnKey n 1 u x := by
  unfold turnKey
  omega

theorem Chip.turnW_setTurnW_self (v : Nat) : (c.setTurnW n 1 t w v).turnW n 1 t w = v := Tab.get_put_self _ _ _ _

theorem Chip.turnW_setTurnW_ne {a u x v : Nat} (h : turnKey n a t w ≠ turnKey n 1 u x) :
    (c.setTurnW n 1 u x v).turnW n a t w = c.turnW n a t w := Tab.get_put_ne _ _ _ _ h

theorem Chip.turnW_turnCopied_admin {u : Nat} (ht : t < 65) (hw : w < 4) : (c.turnCopied n u).turnW n 0 t w = c.turnW n 0 t w := by
  refine List.foldlRecOn (motive := fun d : Chip => d.turnW n 0 t w = c.turnW n 0 t w) _ _ rfl fun d hd x _ => ?_
  exact (Chip.turnW_setTurnW_ne (turnKey_copy_ne ht hw)).trans hd

theorem Chip.turnW_turnCopied_ne {u : Nat} (hw : w < 4) (h : u ≠ t) : (c.turnCopied n u).turnW n 1 t w = c.turnW n 1 t w := by
  refine List.foldlRecOn (motive := fun d : Chip => d.turnW n 1 t w = c.turnW n 1 t w) _ _ rfl fun d hd x hx => ?_
  exact (Chip.turnW_setTurnW_ne (turnKey_inj hw (List.mem_range.mp hx) (.inl h))).trans hd

theorem Chip.turnW_turnCopied_self (ht : t < 65) (hw : w < 4) : (c.turnCopied n t).turnW n 1 t w = c.turnW n 0 t w := by
  refine foldl_visits (f := fun (d : Chip) x => d.setTurnW n 1 t x (d.turnW n 0 t x)) (before := fun d : Chip => d.turnW n 0 t w = c.turnW n 0 t w)
    (after := fun d : Chip => d.turnW n 1 t w = c.turnW n 0 t w) (k := w) (fun d x hx hd => ?_) (fun d hd => ?_) (fun d x hx hd => ?_)
    (List.nodup_range (n := 4)) (List.mem_range.mpr hw) c rfl
  · exact (Chip.turnW_setTurnW_ne (turnKey_copy_ne ht hw)).trans hd
  · exact (Chip.turnW_setTurnW_self _).trans hd
  · exact (Chip.turnW_setTurnW_ne (by unfold turnKey; omega)).trans hd

/-- The oper table is the admin table. -/
theorem Chip.tablesCopied_says (ht : t < 65) (hw : w < 4) :
    (c.tablesCopied n).turnW n 1 t w = c.turnW n 0 t w := by
  refine foldl_visits (f := fun (d : Chip) u => d.turnCopied n u) (before := fun d : Chip => d.turnW n 0 t w = c.turnW n 0 t w)
    (after := fun d : Chip => d.turnW n 1 t w = c.turnW n 0 t w) (k := t) (fun d u _ hd => ?_) (fun d hd => ?_) (fun d u hu hd => ?_)
    (List.nodup_range (n := 65)) (List.mem_range.mpr ht) c rfl
  · exact (Chip.turnW_turnCopied_admin ht hw).trans hd
  · exact (Chip.turnW_turnCopied_self ht hw).trans hd
  · exact (Chip.turnW_turnCopied_ne hw hu).trans hd

theorem Chip.tablesCopied_frame {K : Nat → Prop} : c.Frame [.segTables] K (c.tablesCopied n) := by
  refine (Chip.Frame.refl c).foldl _ fun d t _ => ?_
  exact (Chip.Frame.refl d).foldl _ fun e w _ => (Chip.Frame.refl e).withSegTables _ (by decide)
end

/-! ### The queue of command payloads through a switch -/

section
variable {c d : Chip} {n t : Nat}

/-- A published payload that a changed turn loses. -/
def Chip.pubLost (c : Chip) (n t : Nat) : Chip :=
  if c.on SEGMENT.TURN_STAT_PUB_PENDING n t then (c.setFld SEGMENT.TURN_STAT_PUB_PENDING 0 n t).bump SEGMENT.OVERWRITE_COUNT n else c

/-- The record of a changed turn. -/
def Chip.turnRenewed (c : Chip) (n t : Nat) : Chip := c.updTurn n t fun r =>
  { r with mac := 0, ever := false, lastType := ftSTATE, lastDst := macBroadcast, lost := false, fromReel := false }

def Chip.devShown (c : Chip) (n t : Nat) (new : Turn) : Chip := if new.isDev then c.setFld SEGMENT.TURN_STAT_AGE 255 n t else c

def Chip.partnerShown (c : Chip) (n t : Nat) (new : Turn) : Chip :=
  if new.isPartner then (c.setFld SEGMENT.TURN_STAT_STALE 1 n t).setFld SEGMENT.TURN_STAT_JOINED 0 n t else c

theorem Chip.turnChanged_eq (old : Turn) : c.turnChanged n t old = if old.key = (c.oper n t).key then c else
    ((((c.pubLost n t).setFld SEGMENT.TURN_STAT_SAFE_VALID 0 n t).turnRenewed n t).devShown n t (c.oper n t)).partnerShown n t (c.oper n t) := rfl

theorem Chip.turnRenewed_cmdq : ((c.turnRenewed n t).eng n).cmdq = (c.eng n).cmdq := by rw [Chip.turnRenewed, Chip.updTurn, Chip.eng_updEng_self]

theorem Chip.pubLost_segs : (c.pubLost n t).segs = c.segs := by
  unfold Chip.pubLost
  split_ifs <;> rfl

theorem Chip.devShown_segs {new : Turn} : (c.devShown n t new).segs = c.segs := by
  unfold Chip.devShown
  split_ifs <;> rfl

theorem Chip.partnerShown_segs {new : Turn} : (c.partnerShown n t new).segs = c.segs := by
  unfold Chip.partnerShown
  split_ifs <;> rfl

theorem Chip.turnChanged_cmdq (old : Turn) : ((c.turnChanged n t old).eng n).cmdq = (c.eng n).cmdq := by
  rw [Chip.turnChanged_eq]
  split_ifs
  · rfl
  · rw [Chip.eng_congr Chip.partnerShown_segs, Chip.eng_congr Chip.devShown_segs, Chip.turnRenewed_cmdq, Chip.setFld_eng,
      Chip.eng_congr Chip.pubLost_segs]

theorem Chip.turnsChanged_cmdq {l : List (Nat × Turn)} : ((c.turnsChanged n l).eng n).cmdq = (c.eng n).cmdq :=
  List.foldlRecOn (motive := fun d : Chip => (d.eng n).cmdq = (c.eng n).cmdq) _ _ rfl fun _ hd _ _ => (Chip.turnChanged_cmdq _).trans hd

theorem Chip.turnsClosed_cmdq (hn : n < 96) : ((c.turnsClosed n).eng n).cmdq = (c.eng n).cmdq := by
  unfold Chip.turnsClosed
  split_ifs
  · obtain ⟨ts, en, heng⟩ := Chip.sameCycle_closeTurns (c := c) hn
    rw [heng]
  · rfl

/-- The cells that the switch of a table moves. -/
def movedSpots : List Spot := [.one SEGMENT.OVERWRITE_COUNT, .evt .segment, .upto SEGMENT.TURN_STAT_ABSENT, .upto SEGMENT.TURN_STAT_AGE,
  .upto SEGMENT.TURN_STAT_JOINED, .upto SEGMENT.TURN_STAT_PUB_PENDING, .upto SEGMENT.TURN_STAT_SAFE_VALID, .upto SEGMENT.TURN_STAT_STALE]

theorem Chip.turnsClosed_frame (hn : n < 96) : c.Frame [.segs] (Touched movedSpots) (c.turnsClosed n) :=
  .ite (fun _ => Chip.away_eq_iff.mp (Chip.away_closeTurns (by decide) (by decide) hn)) fun _ => .refl c

theorem Chip.turnsChanged_frame {l : List (Nat × Turn)} (hn : n < 96) (hl : ∀ x ∈ l, x.1 < 64) :
    c.Frame [.segs] (Touched movedSpots) (c.turnsChanged n l) :=
  Chip.away_eq_iff.mp (Chip.away_foldl fun _ x hx => Chip.away_turnChanged (by decide) (by decide) hn (hl x hx))

theorem Chip.oldTurns_lt {x : Nat × Turn} (hx : x ∈ c.oldTurns n) : x.1 < 64 := by
  obtain ⟨t, ht, rfl⟩ := List.mem_map.mp hx
  exact List.mem_range.mp ht

/-- What the move of the table leaves, and the table that it makes. -/
theorem Chip.tableMoved_says (hn : n < 96) : c.Frame [.segs, .segTables] (Touched movedSpots) (c.tableMoved n) ∧
    ((c.tableMoved n).eng n).cmdq = (c.eng n).cmdq ∧ ∀ t w, t < 65 → w < 4 → (c.tableMoved n).turnW n 1 t w = c.turnW n 0 t w := by
  have hclosed := c.turnsClosed_frame hn
  have hq := c.turnsClosed_cmdq hn
  have hold : ∀ x ∈ (c.turnsClosed n).oldTurns n, x.1 < 64 := fun x hx => Chip.oldTurns_lt hx
  have heq : c.tableMoved n = ((c.turnsClosed n).tablesCopied n).turnsChanged n ((c.turnsClosed n).oldTurns n) := rfl
  generalize (c.turnsClosed n).oldTurns n = l at hold heq
  generalize c.turnsClosed n = a at hclosed hq heq
  have hcopy := a.tablesCopied_frame (n := n) (K := Touched movedSpots)
  have htable (t w : Nat) (ht : t < 65) (hw : w < 4) := a.tablesCopied_says (n := n) ht hw
  generalize a.tablesCopied n = b at hcopy htable heq
  have hchange := b.turnsChanged_frame hn hold
  have hq' := b.turnsChanged_cmdq (n := n) (l := l)
  rw [heq]
  refine ⟨((hclosed.mono (by decide) fun _ h => h).trans (hcopy.mono (by decide) fun _ h => h)).trans (hchange.mono (by decide) fun _ h => h), ?_,
    fun t w ht hw => ?_⟩
  · rw [hq', Chip.eng_congr (hcopy.segs (by decide)), hq]
  · have h1 : (b.turnsChanged n l).turnW n 1 t w = b.turnW n 1 t w := by rw [Chip.turnW, hchange.segTables (by decide), Chip.turnW]
    have h0 : a.turnW n 0 t w = c.turnW n 0 t w := by rw [Chip.turnW, hclosed.segTables (by decide), Chip.turnW]
    rw [h1, htable t w ht hw, h0]

/-! ### The rest of a switch -/

def toldSpots : List Spot := [.one SEGMENT.OPER_CYCLE_LEN_NS, .one SEGMENT.OPER_PHASE_NS, .one SEGMENT.TT_STATUS_OPER_TABLE_ID,
  .one SEGMENT.TT_STATUS_STATE, .evt .segment]

theorem Chip.tableTold_frame (hn : n < 96) : c.Frame [] (Touched toldSpots)
    ((((c.lenTaken n).phaseTaken n).idTaken n).setFld SEGMENT.TT_STATUS_STATE 2 n) :=
  ((((Chip.Frame.refl c).setFld _ _ _ _ (cells_one (by decide) hn)).setFld _ _ _ _ (cells_one (by decide) hn)).setFld _ _ _ _
    (cells_one (by decide) hn)).setFld _ _ _ _ (cells_one (by decide) hn)

theorem Chip.switchTold_frame (hn : n < 96) : c.Frame [] (Touched toldSpots) (c.switchTold n) :=
  (c.tableTold_frame hn).raise _ _ (cells_evt (by decide) hn)

theorem Chip.switchTold_says (hn : n < 96) : (c.switchTold n).fld SEGMENT.TT_STATUS_STATE n = 2 ∧
    (c.switchTold n).fld SEGMENT.OPER_CYCLE_LEN_NS n = c.fld SEGMENT.ADMIN_CYCLE_LEN_NS n % 2 ^ 27 ∧
    (c.switchTold n).fld SEGMENT.OPER_PHASE_NS n = c.fld SEGMENT.ADMIN_PHASE_NS n % 2 ^ 27 ∧
    (c.switchTold n).fld SEGMENT.TT_STATUS_OPER_TABLE_ID n = c.fld SEGMENT.ADMIN_TABLE_ID_ID n % 2 ^ 16 := by
  refine ⟨?_, ?_, ?_, ?_⟩
  · exact (Chip.fld_raise_apart (by decide) hn hn (by decide)).trans (Chip.fld_setFld_self _ _ _ _ _)
  · exact (Chip.fld_raise_apart (by decide) hn hn (by decide)).trans ((Chip.fld_setFld_apart (by decide) hn (by decide) hn (by decide)).trans
      ((Chip.fld_setFld_apart (by decide) hn (by decide) hn (by decide)).trans ((Chip.fld_setFld_apart (by decide) hn (by decide) hn
        (by decide)).trans (Chip.fld_setFld_self _ _ _ _ _))))
  · refine (Chip.fld_raise_apart (by decide) hn hn (by decide)).trans ((Chip.fld_setFld_apart (by decide) hn (by decide) hn (by decide)).trans
      ((Chip.fld_setFld_apart (by decide) hn (by decide) hn (by decide)).trans ((Chip.fld_setFld_self _ _ _ _ _).trans ?_)))
    have hphase : (c.lenTaken n).fld SEGMENT.ADMIN_PHASE_NS n = c.fld SEGMENT.ADMIN_PHASE_NS n :=
      Chip.fld_setFld_apart (by decide) hn (by decide) hn (by decide)
    exact congrArg (· % 2 ^ 27) hphase
  · refine (Chip.fld_raise_apart (by decide) hn hn (by decide)).trans ((Chip.fld_setFld_apart (by decide) hn (by decide) hn (by decide)).trans
      ((Chip.fld_setFld_self _ _ _ _ _).trans (congrArg (· % 2 ^ 16) ?_)))
    exact (Chip.fld_setFld_apart (q := SEGMENT.ADMIN_TABLE_ID_ID) (by decide) hn (by decide) hn (by decide)).trans
      (Chip.fld_setFld_apart (by decide) hn (by decide) hn (by decide))

theorem Chip.unholdable_congr (hseg : d.seg n = c.seg n) (htab : d.segTables = c.segTables) : d.unholdable n = c.unholdable n := by
  have hoper (t : Nat) : d.oper n t = c.oper n t := by
    unfold Chip.oper Chip.turn Chip.turnW
    rw [htab]
  funext x
  unfold Chip.unholdable
  rw [hseg]
  simp only [hoper]

/-- The queue keeps what a turn can hold. -/
theorem Chip.dropUnheld_cmdq (hn : n < 96) : ((c.dropUnheld n).eng n).cmdq = (c.eng n).cmdq.filter fun x => !c.unholdable n x := by
  rw [Chip.dropUnheld_eq]
  split_ifs with h
  · obtain ⟨heng, -⟩ := Chip.setCmdq_says (c := c.payloadsDropped n ((c.eng n).cmdq.filter (c.unholdable n))) hn
      ((c.eng n).cmdq.filter fun p => !c.unholdable n p)
    rw [heng]
  · refine (List.filter_eq_self.mpr fun x hx => ?_).symm
    rw [Bool.not_eq_true']
    exact Bool.eq_false_iff.mpr fun hu => h (List.any_eq_true.mpr ⟨x, hx, hu⟩)

def droppedSpots : List Spot := [.one SEGMENT.CMDQ_STATUS_DEPTH, .one SEGMENT.CMDQ_STATUS_FULL, .one SEGMENT.TX_DROP_COUNT]

theorem Chip.dropUnheld_frame (hn : n < 96) : c.Frame [.fates, .segs] (Touched droppedSpots) (c.dropUnheld n) :=
  Chip.away_eq_iff.mp (Chip.away_dropUnheld (by decide) (by decide) hn)

theorem Chip.keepsEvents_dropUnheld : c.KeepsEvents (c.dropUnheld n) :=
  .ite (fun _ => Chip.keepsEvents_payloadsDropped.trans (Chip.keepsEvents_setCmdq _)) fun _ => .refl c

theorem Chip.switchGrid_cmdq : ((c.switchGrid n).eng n).cmdq = (c.eng n).cmdq := by
  unfold Chip.switchGrid
  dsimp only
  split_ifs <;> rw [Chip.eng_setEng_self]

theorem Chip.switchGrid_shut (h : c.seg n = sgMASTER) : ((c.switchGrid n).eng n).turnsOpen = false := by
  unfold Chip.switchGrid
  dsimp only
  rw [if_pos h, Chip.eng_setEng_self]

theorem Chip.keepsEvents_switchGrid : c.KeepsEvents (c.switchGrid n) :=
  .ite (fun _ => Chip.keepsEvents_of_regs rfl) fun _ => .ite (fun _ => Chip.keepsEvents_of_regs rfl) fun _ => Chip.keepsEvents_of_regs rfl

/-- What the switch to the admin table leaves. -/
theorem Chip.ttSwitch_says (hn : n < 96) : let d := c.ttSwitch n
    (∀ t w, t < 65 → w < 4 → d.turnW n 1 t w = c.turnW n 0 t w) ∧ d.fld SEGMENT.TT_STATUS_STATE n = 2 ∧
      c.Tells d EV.SEGMENT_TABLE_SWITCH n ∧ d.segBuf = c.segBuf ∧ (d.eng n).cmdq = (c.eng n).cmdq.filter (fun x => !d.unholdable n x) ∧
      (c.seg n = sgMASTER → (d.eng n).turnsOpen = false) ∧
      d.fld SEGMENT.OPER_CYCLE_LEN_NS n = c.fld SEGMENT.ADMIN_CYCLE_LEN_NS n % 2 ^ 27 ∧
      d.fld SEGMENT.OPER_PHASE_NS n = c.fld SEGMENT.ADMIN_PHASE_NS n % 2 ^ 27 ∧
      d.fld SEGMENT.TT_STATUS_OPER_TABLE_ID n = c.fld SEGMENT.ADMIN_TABLE_ID_ID n % 2 ^ 16 := by
  obtain ⟨hmoved, hcmdq, htable⟩ := c.tableMoved_says hn
  rw [Chip.ttSwitch_eq]
  generalize c.tableMoved n = g at hmoved hcmdq htable
  have htell : c.Tells (g.switchTold n) EV.SEGMENT_TABLE_SWITCH n := by
    refine Chip.tells_raise _ _ (by decide) (((g.tableTold_frame hn).domUp .seg ?_).trans (hmoved.domUp .seg ?_)) <;>
      exact not_touched (by decide) 0 0 (by decide) (by decide)
  have htold := g.switchTold_frame hn
  obtain ⟨hstate, hlen, hphase, hid⟩ := g.switchTold_says hn
  generalize g.switchTold n = e at htell htold hstate hlen hphase hid
  have hdrop := e.dropUnheld_frame hn
  have hq := e.dropUnheld_cmdq hn
  have hkeep := (e.keepsEvents_dropUnheld (n := n)).trans ((e.dropUnheld n).keepsEvents_switchGrid (n := n))
  generalize e.dropUnheld n = f at hdrop hq hkeep
  have hgrid := f.switchGrid_frame (n := n) (K := fun _ => False)
  have hgq := f.switchGrid_cmdq (n := n)
  have hshut := f.switchGrid_shut (n := n)
  generalize f.switchGrid n = d at hkeep hgrid hgq hshut
  have hseg : e.seg n = c.seg n := (htold.fld_apart SEGMENT.SYNC_STATUS_STATE n 0 (by decide) hn (by decide)).trans
    (hmoved.fld_apart SEGMENT.SYNC_STATUS_STATE n 0 (by decide) hn (by decide))
  have hfseg : f.seg n = e.seg n := hdrop.fld_apart SEGMENT.SYNC_STATUS_STATE n 0 (by decide) hn (by decide)
  have hlast (r : FieldRow) (hr : (r.placed && droppedSpots.all r.apart) = true ∧ r.cls.count = 96) : d.fld r n = e.fld r n :=
    (hgrid.fld _ _ _ id).trans (hdrop.fld_apart r n 0 hr.1 (by rw [hr.2]; exact hn) (by decide))
  have hadmin (r : FieldRow) (hr : (r.placed && movedSpots.all r.apart) = true ∧ r.cls.count = 96) : g.fld r n = c.fld r n :=
    hmoved.fld_apart r n 0 hr.1 (by rw [hr.2]; exact hn) (by decide)
  have htab : d.segTables = g.segTables := (hgrid.segTables (by decide)).trans ((hdrop.segTables (by decide)).trans (htold.segTables (by decide)))
  have hhold : d.unholdable n = e.unholdable n := by
    refine Chip.unholdable_congr ((hlast SEGMENT.SYNC_STATUS_STATE (by decide))) ?_
    rw [htab, htold.segTables (by decide)]
  refine ⟨fun t w ht hw => ?_, (hlast _ (by decide)).trans hstate, htell.keeps hkeep (by decide), ?_, ?_, fun h => hshut (hfseg.trans (hseg.trans h)),
    ?_, ?_, ?_⟩
  · rw [Chip.turnW, htab]
    exact htable t w ht hw
  · rw [hgrid.segBuf (by decide), hdrop.segBuf (by decide), htold.segBuf (by decide), hmoved.segBuf (by decide)]
  · rw [hgq, hq, hhold, Chip.eng_congr (htold.segs (by decide)), hcmdq]
  · rw [hlast _ (by decide), hlen, hadmin _ (by decide)]
  · rw [hlast _ (by decide), hphase, hadmin _ (by decide)]
  · rw [hlast _ (by decide), hid, hadmin _ (by decide)]
end

/-! ### The obligation -/

section
variable {s : State} {n : Fin 96} {p : Port} {v : Word}

theorem exec_ttSwitch : exec (.ttSwitch n) s = run (fun c => c.whenDue (c.ttSwitchDue n.val) fun d => d.ttSwitch n.val) s := rfl

theorem ttSwitch_ends (hdue : s.chip.ttSwitchDue n.val = true) : Ends (.ttSwitch n) s fun d =>
    (∀ t w, t < 65 → w < 4 → d.turnW n.val 1 t w = s.chip.turnW n.val 0 t w) ∧ d.fld SEGMENT.TT_STATUS_STATE n.val = 2 ∧
      s.chip.Tells d EV.SEGMENT_TABLE_SWITCH n.val ∧ d.segBuf = s.chip.segBuf ∧
      (d.eng n.val).cmdq = (s.chip.eng n.val).cmdq.filter (fun x => !d.unholdable n.val x) ∧
      (s.chip.seg n.val = sgMASTER → (d.eng n.val).turnsOpen = false) ∧
      d.fld SEGMENT.OPER_CYCLE_LEN_NS n.val = s.chip.fld SEGMENT.ADMIN_CYCLE_LEN_NS n.val % 2 ^ 27 ∧
      d.fld SEGMENT.OPER_PHASE_NS n.val = s.chip.fld SEGMENT.ADMIN_PHASE_NS n.val % 2 ^ 27 ∧
      d.fld SEGMENT.TT_STATUS_OPER_TABLE_ID n.val = s.chip.fld SEGMENT.ADMIN_TABLE_ID_ID n.val % 2 ^ 16 := by
  obtain ⟨htable, hstate, htell, hbuf, hcmdq, hshut, hlen, hphase, hid⟩ := s.chip.ttSwitch_says n.isLt
  have htab := s.chip.ended_segTables (s.chip.ttSwitch n.val)
  have hhold : (s.chip.ended (s.chip.ttSwitch n.val)).unholdable n.val = (s.chip.ttSwitch n.val).unholdable n.val :=
    Chip.unholdable_congr ended_seg htab
  refine ends_of_due exec_ttSwitch hdue ⟨fun t w ht hw => ?_, (ended_flyer (by decide) rfl).trans hstate, htell.inst (by decide) n.isLt, ?_, ?_,
    fun h => by rw [ended_eng, hshut h], (ended_flyer (by decide) rfl).trans hlen, (ended_flyer (by decide) rfl).trans hphase,
    (ended_flyer (by decide) rfl).trans hid⟩
  · rw [Chip.turnW, htab]
    exact htable t w ht hw
  · rw [Chip.ended_segBuf, hbuf]
  · rw [ended_eng, hhold, hcmdq]
end

/-- Settles O26: an engine's start by its state, the commands that change it, and the switch of its turn table by its parts. -/
theorem segmentStartAndTables : Obligations.SegmentStartAndTables := by
  unfold Obligations.SegmentStartAndTables
  refine ⟨fun s n free p v => ?_, fun s n p v node => ?_⟩
  · intro c e disabled
    refine ⟨phyReady_ends, fun h => ?_, fun hen hst => ?_, fun hen => ?_, fun hopen hv hst => ?_, listenTimeout_ends,
      fun h => idles_of_not_due exec_listenTimeout h, coldstartSent_sets, fun h => idles_of_not_due exec_coldstartSent h, contendCollision_trial,
      contendCollision_contend, contendCollision_idles, backoffExpiry_ends, fun h => idles_of_not_due exec_backoffExpiry h⟩
    · refine idles_of_not_due exec_segmentPhyReady (Bool.and_eq_false_iff.mpr (h.imp_right fun h => beq_eq_false_iff_ne.mpr h))
    · exact ends_of_due exec_segmentDisable (by rw [hen]; rfl) (Chip.segDisable_disabled n.isLt hst).ended
    · exact idles_of_not_due exec_segmentDisable (by rw [hen]; rfl)
    · refine ends_of exec_segmentDisable_write ?_
      rw [Chip.ctrlAccess_open hopen rfl]
      exact segDisabled_write hst rfl hv
  · intro c page e held stays
    refine ⟨fun hopen => ?_, ttSwitch_ends, fun h => idles_of_not_due exec_ttSwitch h⟩
    obtain ⟨hrefused, hidle, hjudged⟩ := ttCommit_ends hopen
    exact ⟨hrefused, hidle, hjudged, fun hen hp hd => segCfgWrite_cfg hopen hen hp hd,
      fun hen hid hprio => segCfgWrite_node hopen hen hid hprio fun d h h' => ⟨h, h'⟩, fun hen => segCfgWrite_stopped hopen hen⟩

end Sys2Proof.Machine
end

section
/-!
PROOF. What a change of the role leaves alone (R66, R67, R385).
-/
namespace Sys2Proof.Machine

section
variable {c : Chip} {S : List Part} {R : List Spot}

theorem Chip.away_onFan {key : Nat} {f : Chip → Share → FanCmd → Chip} (hf : ∀ (d : Chip) (h : Share) (m : FanCmd),
    (f d h m).away S R = d.away S R) : (c.onFan key f).away S R = c.away S R := by
  unfold Chip.onFan
  split
  · split
    · exact hf _ _ _
    · rfl
  · rfl

theorem Chip.away_fanResult {key : Nat} {m : FanCmd} (hS : [.txOps] ⊆ S) : (c.fanResult key m).away S R = c.away S R :=
  Chip.away_updOp hS

theorem Chip.away_staleDiscard {key : Nat} (hS : [.distaff, .fates, .segs] ⊆ S) (hR : [.evt .distaff, .one DISTAFF.STALE_DISCARDS_COUNT,
    .one SEGMENT.CMDQ_STATUS_DEPTH, .one SEGMENT.CMDQ_STATUS_FULL] ⊆ R) : (c.staleDiscard key).away S R = c.away S R := by
  have htake : (c.takeItems key).1.away S R = c.away S R := Chip.away_takeItems hS (List.Subset.trans (by decide) hR)
  unfold Chip.staleDiscard
  dsimp only
  rw [Chip.away_ite, Chip.away_raise (v := EV.DISTAFF_STALE_DISCARD) (mem_of_sub hR (by decide)) (by decide),
    Chip.away_bumpBy (mem_of_sub hR (by decide)) (by decide), ite_self, htake]

theorem Chip.away_closeMsgs {ids : List Nat} {tag : Option Nat} (hS : [.hank] ⊆ S) : (c.closeMsgs ids tag).away S R = c.away S R := by
  unfold Chip.closeMsgs
  exact Chip.away_updHank hS

/-- A command of this manager ends with its role. -/
def Chip.fanLost (c : Chip) (k : Nat) (m : FanCmd) : Chip :=
  (((if (c.fanResult k m).opLive m.tag then (c.fanResult k m).opDone m.tag csROLELOST else c.fanResult k m).staleDiscard k).dropShare k)

/-- A host's operation on other parts ends with the role. -/
def Chip.opLost (c : Chip) (e : Nat × TxOp) : Chip :=
  if c.opLive e.1 && e.2.handed && (c.fld HOSTQ.LEDGER_ENTRY0_OPCODE 0 e.1 == opREMOTE || c.fld HOSTQ.LEDGER_ENTRY0_OPCODE 0 e.1 == opFANOUT) then
    c.opDone e.1 csROLELOST else c

def Chip.fansLost (c : Chip) : Chip := (c.distaff.shares.map (·.1)).foldl (fun d k => d.onFan k fun d _ m => d.fanLost k m) c

def Chip.opsLost (c : Chip) : Chip := c.txOps.foldl Chip.opLost c

theorem Chip.managerLost_eq : c.managerLost = (c.fansLost.opsLost.closeMsgs (c.fansLost.opsLost.hank.msgs.map (·.1)) none).updHank fun h =>
    { h with regQ := [] } := rfl

theorem Chip.away_fanLost {k : Nat} {m : FanCmd} (hS : [.power, .txOps, .hostq, .distaff, .fates, .segs] ⊆ S) (hR : [.evt .distaff,
    .one DISTAFF.STALE_DISCARDS_COUNT, .one SEGMENT.CMDQ_STATUS_DEPTH, .one SEGMENT.CMDQ_STATUS_FULL, .many HOSTQ.LEDGER_ENTRY0_FROZEN,
    .many HOSTQ.LEDGER_ENTRY0_STATE, .many HOSTQ.LEDGER_ENTRY0_STATUS] ⊆ R) : (c.fanLost k m).away S R = c.away S R := by
  unfold Chip.fanLost
  rw [Chip.away_dropShare (List.Subset.trans (by decide) hS),
    Chip.away_staleDiscard (List.Subset.trans (by decide) hS) (List.Subset.trans (by decide) hR), Chip.away_ite,
    Chip.away_opDone (List.Subset.trans (by decide) hS) (List.Subset.trans (by decide) hR), ite_self,
    Chip.away_fanResult (List.Subset.trans (by decide) hS)]

theorem Chip.away_opLost {e : Nat × TxOp} (hS : [.hostq] ⊆ S) (hR : [.many HOSTQ.LEDGER_ENTRY0_FROZEN,
    .many HOSTQ.LEDGER_ENTRY0_STATE, .many HOSTQ.LEDGER_ENTRY0_STATUS] ⊆ R) : (c.opLost e).away S R = c.away S R := by
  unfold Chip.opLost
  rw [Chip.away_ite, Chip.away_opDone hS hR, ite_self]

theorem Chip.away_managerLost (hS : [.power, .txOps, .hostq, .hank, .distaff, .fates, .segs] ⊆ S) (hR : [.evt .distaff,
    .one DISTAFF.STALE_DISCARDS_COUNT, .one SEGMENT.CMDQ_STATUS_DEPTH, .one SEGMENT.CMDQ_STATUS_FULL, .many HOSTQ.LEDGER_ENTRY0_FROZEN,
    .many HOSTQ.LEDGER_ENTRY0_STATE, .many HOSTQ.LEDGER_ENTRY0_STATUS] ⊆ R) : c.managerLost.away S R = c.away S R := by
  rw [Chip.managerLost_eq, Chip.away_updHank (List.Subset.trans (by decide) hS), Chip.away_closeMsgs (List.Subset.trans (by decide) hS)]
  refine (Chip.away_foldl fun d e _ => Chip.away_opLost (List.Subset.trans (by decide) hS) (List.Subset.trans (by decide) hR)).trans
    (Chip.away_foldl fun d k _ => Chip.away_onFan fun d _ m => ?_)
  exact Chip.away_fanLost (List.Subset.trans (by decide) hS) hR

theorem Chip.away_sharesLost (hS : [.power, .hank, .distaff, .fates, .segs] ⊆ S) (hR : [.evt .distaff, .one DISTAFF.STALE_DISCARDS_COUNT,
    .one SEGMENT.CMDQ_STATUS_DEPTH, .one SEGMENT.CMDQ_STATUS_FULL] ⊆ R) : c.sharesLost.away S R = c.away S R := by
  unfold Chip.sharesLost
  rw [Chip.away_updHank (List.Subset.trans (by decide) hS)]
  refine Chip.away_foldl fun d k _ => ?_
  split
  · rw [Chip.away_ite, Chip.away_dropShare (List.Subset.trans (by decide) hS), Chip.away_staleDiscard (List.Subset.trans (by decide) hS) hR, ite_self]
  · rfl

theorem Chip.away_unbind (hR : [.evt .hank, .one HANK.BIND_STATUS_MGR_VALID] ⊆ R) :
    (c.unbind).away S R = c.away S R := by
  unfold Chip.unbind
  simp (disch := first
      | (apply mem_of_sub hR; decide) | (refine List.Subset.trans ?_ hR; decide) | decide) only [Chip.away_ite, ite_self, Chip.away_raise,
      Chip.away_setFld]

theorem Chip.away_setWtState {w v : Nat} (hR : [.upto HANK.WT_STATUS_STATE] ⊆ R) (hw : w < 256) :
    (c.setWtState w v).away S R = c.away S R := Chip.away_setFld_upto (mem_of_sub hR (by decide)) (by decide) (Nat.lt_trans hw (by decide))

theorem Chip.away_wtBind {w : Nat} (hS : [.hank] ⊆ S) (hR : [.upto HANK.WT_STATUS_STATE] ⊆ R) (hw : w < 256) :
    (c.wtBind w).away S R = c.away S R :=
  (Chip.away_setWtState hR hw).trans (Chip.away_updHank hS)

theorem Chip.away_wtRestart (hS : [.hank] ⊆ S) (hR : [.upto HANK.WT_STATUS_STATE] ⊆ R) : c.wtRestart.away S R = c.away S R := by
  refine Chip.away_foldl fun d w hw => ?_
  have hlt : w < 256 := List.mem_range.mp (List.mem_of_mem_drop hw)
  rw [Chip.away_ite, Chip.away_wtBind hS hR hlt, Chip.away_setWtState hR hlt, ite_self]

theorem Chip.away_roleChanged {old : Nat} (hS : [.power, .txOps, .hostq, .hank, .distaff, .fates, .segs] ⊆ S) (hR : [.evt .distaff, .evt .hank,
    .one DISTAFF.STALE_DISCARDS_COUNT, .one HANK.BIND_STATUS_MGR_VALID, .one SEGMENT.CMDQ_STATUS_DEPTH, .one SEGMENT.CMDQ_STATUS_FULL,
    .upto HANK.WT_STATUS_STATE, .many HOSTQ.LEDGER_ENTRY0_FROZEN, .many HOSTQ.LEDGER_ENTRY0_STATE, .many HOSTQ.LEDGER_ENTRY0_STATUS] ⊆ R) :
    (c.roleChanged old).away S R = c.away S R := by
  unfold Chip.roleChanged
  simp (disch := first
      | (refine List.Subset.trans ?_ hS; decide) | (refine List.Subset.trans ?_ hR; decide)) only [Chip.away_ite, ite_self,
      Chip.away_managerLost, Chip.away_sharesLost, Chip.away_unbind, Chip.away_wtRestart]

theorem Chip.away_roleSettle (hS : [.hank] ⊆ S) (hR : [.evt .global, .one GLOBAL.ROLE_ROLE, .one GLOBAL.ROLE_SETTLED,
    .upto HANK.WT_STATUS_STATE] ⊆ R) :
    (c.roleSettle).away S R = c.away S R := by
  unfold Chip.roleSettle
  simp (disch := first
      | (apply mem_of_sub hS; decide) | (refine List.Subset.trans ?_ hS; decide) | (apply mem_of_sub hR; decide)
      | (refine List.Subset.trans ?_ hR; decide) | decide) only [Chip.away_ite, ite_self, Chip.away_raise, Chip.away_setFld, Chip.away_wtRestart]

end

end Sys2Proof.Machine
end

section
/-!
PROOF. The role of the part: settled at the end of DRAM training, and requested (R41, R64, R66, R67, R403).
-/
namespace Sys2Proof.Machine

/-! ### DRAM training -/

section
variable {c d : Chip} {t0 t1 : Bool} {d0 d1 : Nat}

/-- What trained in the channels that CH_EN named. -/
def Chip.trained0 (c : Chip) (t0 : Bool) : Bool := t0 && c.modes.chEn.testBit 0

def Chip.trained1 (c : Chip) (t1 : Bool) : Bool := t1 && c.modes.chEn.testBit 1

def usableMib (a b : Bool) (d0 d1 : Nat) : Nat := ((if a then densMib d0 else 0) + (if b then densMib d1 else 0)) * 7 / 8

theorem usableMib_lt (a b : Bool) (d0 d1 : Fin 5) : usableMib a b d0.val d1.val < 2 ^ 13 := by
  revert a b d0 d1
  decide

def Chip.channelsShown (c : Chip) (t0 t1 : Bool) (d0 d1 : Nat) : Chip :=
  (((c.setBit DRAM.STATUS_TRAINED0 (c.trained0 t0)).setBit DRAM.STATUS_TRAINED1 (c.trained1 t1)).setFld DRAM.STATUS_DENS0
    (if c.modes.chEn.testBit 0 then d0 else 0)).setFld DRAM.STATUS_DENS1 (if c.modes.chEn.testBit 1 then d1 else 0)

/-- STATUS of the DRAM page as training leaves it. -/
def Chip.dramShown (c : Chip) (t0 t1 : Bool) (d0 d1 : Nat) : Chip :=
  ((c.channelsShown t0 t1 d0 d1).setFld DRAM.STATUS_USABLE_MIB (usableMib (c.trained0 t0) (c.trained1 t1) d0 d1)).updModes fun m =>
    { m with dramTrainingDone := true }

/-- The DRAM's domain wakes. -/
def Chip.memWoken (c : Chip) : Chip :=
  (({ c with power := { c.power with wakes := c.power.wakes.filter fun w => w.1 != Domain.mem } } : Chip).setDom .mem domON).setFld
    DRAM.STATUS_SELF_REFRESH 0

theorem Chip.wakeDone_mem (c : Chip) : c.wakeDone .mem = c.memWoken.raise EV.POWER_WAKE_DONE := rfl

theorem Chip.trainingDone_eq (c : Chip) (t0 t1 : Bool) (d0 d1 : Nat) : c.trainingDone t0 t1 d0 d1 =
    ((((c.dramShown t0 t1 d0 d1).raise EV.DRAM_TRAIN_DONE).memWoken).raise EV.POWER_WAKE_DONE).roleSettle := rfl

def dramSpots : List Spot := [.one DRAM.STATUS_TRAINED0, .one DRAM.STATUS_TRAINED1, .one DRAM.STATUS_DENS0, .one DRAM.STATUS_DENS1,
  .one DRAM.STATUS_USABLE_MIB]

theorem Chip.dramShown_frame : c.Frame [.modes] (Touched dramSpots) (c.dramShown t0 t1 d0 d1) :=
  ((((((Chip.Frame.refl c).setBit _ _ _ _ (cells_one (by decide) (by decide))).setBit _ _ _ _ (cells_one (by decide) (by decide))).setFld _ _ _ _
    (cells_one (by decide) (by decide))).setFld _ _ _ _ (cells_one (by decide) (by decide))).setFld _ _ _ _
      (cells_one (by decide) (by decide))).withModes _ (by decide)

theorem Chip.dramShown_says (hlt : usableMib (c.trained0 t0) (c.trained1 t1) d0 d1 < 2 ^ 13) :
    (c.dramShown t0 t1 d0 d1).on DRAM.STATUS_TRAINED0 = c.trained0 t0 ∧ (c.dramShown t0 t1 d0 d1).on DRAM.STATUS_TRAINED1 = c.trained1 t1 ∧
      (c.dramShown t0 t1 d0 d1).fld DRAM.STATUS_USABLE_MIB = usableMib (c.trained0 t0) (c.trained1 t1) d0 d1 ∧
      (c.dramShown t0 t1 d0 d1).modes.dramTrainingDone = true := by
  refine ⟨?_, ?_, ?_, rfl⟩
  · exact (Chip.on_setFld_ne (by decide)).trans ((Chip.on_setFld_ne (by decide)).trans ((Chip.on_setFld_ne (by decide)).trans
      ((Chip.on_setBit_ne _ (by decide)).trans (Chip.on_setBit_self _ rfl))))
  · exact (Chip.on_setFld_ne (by decide)).trans ((Chip.on_setFld_ne (by decide)).trans ((Chip.on_setFld_ne (by decide)).trans
      (Chip.on_setBit_self _ rfl)))
  · exact (Chip.fld_setFld_self _ _ _ _ _).trans (Nat.mod_eq_of_lt hlt)

def memSpots : List Spot := [.one POWER.DOMAIN_STATE_MEM, .one DRAM.STATUS_SELF_REFRESH]

theorem Chip.memWoken_frame : c.Frame [.power] (Touched memSpots) c.memWoken :=
  (((Chip.Frame.refl c).withPower _ (by decide)).setFld _ _ _ _ (cells_one (by decide) (by decide))).setFld _ _ _ _
    (cells_one (by decide) (by decide))

theorem Chip.memWoken_on : c.memWoken.dom .mem = domON :=
  (Chip.fld_setFld_ne _ _ _ _ _ _ _ _ (by decide)).trans (Chip.fld_setFld_self _ _ _ _ _)

theorem Chip.keepsEvents_memWoken : c.KeepsEvents c.memWoken :=
  (((Chip.KeepsEvents.refl c).same rfl).setFld (r := POWER.DOMAIN_STATE_MEM) (by decide) (by decide) _ _).setFld (by decide) (by decide) _ _

def awakeSpots : List Spot := dramSpots ++ memSpots ++ [.evt .dram, .evt .power]

theorem Touched.mono {R R' : List Spot} (h : R ⊆ R') : ∀ k, Touched R k → Touched R' k := fun _ ⟨x, hx, hk⟩ => ⟨x, h hx, hk⟩

/-- The trained DRAM, awake. -/
def Chip.dramAwake (c : Chip) (t0 t1 : Bool) (d0 d1 : Nat) : Chip :=
  (((c.dramShown t0 t1 d0 d1).raise EV.DRAM_TRAIN_DONE).memWoken).raise EV.POWER_WAKE_DONE

theorem Chip.dramAwake_frame : c.Frame [.modes, .power] (Touched awakeSpots) (c.dramAwake t0 t1 d0 d1) := by
  have hshown : c.Frame [.modes, .power] (Touched awakeSpots) (c.dramShown t0 t1 d0 d1) :=
    Chip.dramShown_frame.mono (by decide) (Touched.mono (by decide))
  have hwoken (d : Chip) : d.Frame [.modes, .power] (Touched awakeSpots) d.memWoken :=
    Chip.memWoken_frame.mono (by decide) (Touched.mono (by decide))
  exact ((hshown.raise _ _ (cells_evt (by decide) (by decide))).trans (hwoken _)).raise _ _ (cells_evt (by decide) (by decide))

theorem Chip.dramAwake_says (hlt : usableMib (c.trained0 t0) (c.trained1 t1) d0 d1 < 2 ^ 13) : let d := c.dramAwake t0 t1 d0 d1
    d.on DRAM.STATUS_TRAINED0 = c.trained0 t0 ∧ d.on DRAM.STATUS_TRAINED1 = c.trained1 t1 ∧
      d.fld DRAM.STATUS_USABLE_MIB = usableMib (c.trained0 t0) (c.trained1 t1) d0 d1 ∧ d.dom .mem = domON ∧
      d.modes.dramTrainingDone = true ∧ c.Tells d EV.DRAM_TRAIN_DONE := by
  obtain ⟨h0, h1, hmib, hdone⟩ := Chip.dramShown_says hlt
  have htell : c.Tells ((c.dramShown t0 t1 d0 d1).raise EV.DRAM_TRAIN_DONE) EV.DRAM_TRAIN_DONE :=
    (Chip.dramShown_frame (c := c)).tells_raise _ _ (by decide) (not_touched (x := Domain.row .aon) (R := dramSpots) (by decide) 0 0 (by decide) (by decide))
  have hlast : (c.dramShown t0 t1 d0 d1).Frame [.power] (Touched (.evt .dram :: .evt .power :: memSpots)) (c.dramAwake t0 t1 d0 d1) :=
    ((((Chip.Frame.refl _).raise _ _ (cells_evt (by decide) (by decide))).trans
      (Chip.memWoken_frame.mono (by decide) (Touched.mono (by decide))))).raise _ _ (cells_evt (by decide) (by decide))
  have hfld (r : FieldRow) (hr : (r.placed && (Spot.evt .dram :: .evt .power :: memSpots).all r.apart) = true) (hc : 0 < r.cls.count) :
      (c.dramAwake t0 t1 d0 d1).fld r = (c.dramShown t0 t1 d0 d1).fld r := hlast.fld_apart r 0 0 hr hc (by decide)
  refine ⟨(congrArg (· != 0) (hfld _ (by decide) (by decide))).trans h0, (congrArg (· != 0) (hfld _ (by decide) (by decide))).trans h1,
    (hfld _ (by decide) (by decide)).trans hmib, ?_, (congrArg Modes.dramTrainingDone (hlast.modes (by decide))).trans hdone,
    htell.keeps (Chip.keepsEvents_memWoken.raise _ _) (by decide)⟩
  exact (Chip.fld_raise_apart (by decide) (by decide) (by decide) (by decide)).trans Chip.memWoken_on
end

/-! ### The role -/

section
variable {c d : Chip}

theorem Chip.wtRestart_frame : c.Frame [.hank] (Touched [.upto HANK.WT_STATUS_STATE]) c.wtRestart :=
  Chip.away_eq_iff.mp (Chip.away_wtRestart (by decide) (by decide))

theorem Chip.roleSettle_frame : c.Frame [.hank] (Touched [.evt .global, .one GLOBAL.ROLE_ROLE, .one GLOBAL.ROLE_SETTLED,
    .upto HANK.WT_STATUS_STATE]) c.roleSettle := Chip.away_eq_iff.mp (Chip.away_roleSettle (by decide) (by decide))

theorem Chip.roleSettle_eq : c.roleSettle = if c.fld GLOBAL.ROLE_STRAP_ROLE = 2 ∧ ¬ c.on GLOBAL.ROLE_SETTLED then
    if c.dramTrained then ((c.setFld GLOBAL.ROLE_ROLE roleMANAGER).setFld GLOBAL.ROLE_SETTLED 1).wtRestart
    else (c.setFld GLOBAL.ROLE_SETTLED 1).raise EV.GLOBAL_MANAGER_REFUSED
  else c := rfl

/-- The role of a part strapped as MANAGER. -/
theorem Chip.roleSettle_says (hstrap : c.fld GLOBAL.ROLE_STRAP_ROLE = 2) (hset : c.on GLOBAL.ROLE_SETTLED = false) :
    c.roleSettle.fld GLOBAL.ROLE_SETTLED = 1 ∧ (c.dramTrained = true → c.roleSettle.fld GLOBAL.ROLE_ROLE = roleMANAGER) ∧
      (c.dramTrained = false → c.roleSettle.fld GLOBAL.ROLE_ROLE = c.fld GLOBAL.ROLE_ROLE ∧ c.Tells c.roleSettle EV.GLOBAL_MANAGER_REFUSED) := by
  have hdue : c.fld GLOBAL.ROLE_STRAP_ROLE = 2 ∧ ¬ c.on GLOBAL.ROLE_SETTLED := ⟨hstrap, by rw [hset]; decide⟩
  cases htr : c.dramTrained with
  | true =>
    have heq : c.roleSettle = ((c.setFld GLOBAL.ROLE_ROLE roleMANAGER).setFld GLOBAL.ROLE_SETTLED 1).wtRestart := by
      rw [Chip.roleSettle_eq, if_pos hdue, if_pos htr]
    rw [heq]
    refine ⟨(Chip.wtRestart_frame.fld_apart GLOBAL.ROLE_SETTLED 0 0 (by decide) (by decide) (by decide)).trans (Chip.fld_setFld_self _ _ _ _ _),
      fun _ => ?_, fun h => absurd h (by decide)⟩
    exact (Chip.wtRestart_frame.fld_apart GLOBAL.ROLE_ROLE 0 0 (by decide) (by decide) (by decide)).trans
      ((Chip.fld_setFld_ne _ _ _ _ _ _ _ _ (by decide)).trans (Chip.fld_setFld_self _ _ _ _ _))
  | false =>
    have heq : c.roleSettle = (c.setFld GLOBAL.ROLE_SETTLED 1).raise EV.GLOBAL_MANAGER_REFUSED := by
      rw [Chip.roleSettle_eq, if_pos hdue, if_neg (by rw [htr]; decide)]
    have hframe : c.Frame [] (Touched [.one GLOBAL.ROLE_SETTLED]) (c.setFld GLOBAL.ROLE_SETTLED 1) :=
      (Chip.Frame.refl c).setFld _ _ _ _ (cells_one (by decide) (by decide))
    rw [heq]
    refine ⟨(Chip.fld_raise_apart (by decide) (by decide) (by decide) (by decide)).trans (Chip.fld_setFld_self _ _ _ _ _),
        fun h => absurd h (by decide), fun _ => ⟨?_, ?_⟩⟩
    · exact (Chip.fld_raise_apart (by decide) (by decide) (by decide) (by decide)).trans (Chip.fld_setFld_ne _ _ _ _ _ _ _ _ (by decide))
    · exact hframe.tells_raise _ _ (by decide) (not_touched (x := Domain.row .aon) (by decide) 0 0 (by decide) (by decide))

theorem Chip.roleChanged_frame {old : Nat} : c.Frame [.power, .txOps, .hostq, .hank, .distaff, .fates, .segs] (Touched [.evt .distaff, .evt .hank,
    .one DISTAFF.STALE_DISCARDS_COUNT, .one HANK.BIND_STATUS_MGR_VALID, .one SEGMENT.CMDQ_STATUS_DEPTH, .one SEGMENT.CMDQ_STATUS_FULL,
    .upto HANK.WT_STATUS_STATE, .many HOSTQ.LEDGER_ENTRY0_FROZEN, .many HOSTQ.LEDGER_ENTRY0_STATE, .many HOSTQ.LEDGER_ENTRY0_STATUS])
    (c.roleChanged old) := Chip.away_eq_iff.mp (Chip.away_roleChanged (by decide) (by decide))

/-- A role that is taken. -/
def Chip.roleTaken (c : Chip) (new : Nat) : Chip :=
  ((c.setFld GLOBAL.ROLE_ROLE new).setFld GLOBAL.ROLE_EPOCH (c.roleEpoch + 1)).raise EV.GLOBAL_ROLE_CHANGE

theorem Chip.roleCmd_eq (c : Chip) (p : Port) (v : Nat) : c.roleCmd p v =
    if bitsOf v 31 16 ≠ c.roleEpoch then (c.errcnt 0 GLOBAL.ROLE_CMD_NEW_ROLE.off p).raise EV.GLOBAL_ROLE_CMD_STALE
    else if bitsOf v 1 0 = roleMANAGER ∧ ¬ c.dramTrained then (c.errcnt 0 GLOBAL.ROLE_CMD_NEW_ROLE.off p).raise EV.GLOBAL_MANAGER_REFUSED
    else if bitsOf v 1 0 = 3 ∨ ¬ c.on GLOBAL.ROLE_SETTLED ∨ ¬ (c.mode = mSTANDBY ∨ c.mode = mACQUIRE ∨ c.running) ∨
        (bitsOf v 1 0 = roleMANAGER ∧ ¬ c.on GLOBAL.ROLE_DRAM_READY) then
      (c.errcnt 0 GLOBAL.ROLE_CMD_NEW_ROLE.off p).raise EV.GLOBAL_ROLE_CMD_REFUSED
    else if bitsOf v 1 0 = c.role then c
    else (c.roleTaken (bitsOf v 1 0)).roleChanged c.role := rfl

theorem Chip.roleTaken_says {new : Nat} (hnew : new < 4) {old : Nat} : let d := (c.roleTaken new).roleChanged old
    d.fld GLOBAL.ROLE_ROLE = new ∧ d.fld GLOBAL.ROLE_EPOCH = (c.fld GLOBAL.ROLE_EPOCH + 1) % 65536 ∧ c.Tells d EV.GLOBAL_ROLE_CHANGE := by
  have hset : c.Frame [] (Touched [.one GLOBAL.ROLE_ROLE, .one GLOBAL.ROLE_EPOCH])
      ((c.setFld GLOBAL.ROLE_ROLE new).setFld GLOBAL.ROLE_EPOCH (c.roleEpoch + 1)) :=
    ((Chip.Frame.refl c).setFld _ _ _ _ (cells_one (by decide) (by decide))).setFld _ _ _ _ (cells_one (by decide) (by decide))
  have htell : c.Tells (c.roleTaken new) EV.GLOBAL_ROLE_CHANGE :=
    hset.tells_raise _ _ (by decide) (not_touched (x := Domain.row .aon) (by decide) 0 0 (by decide) (by decide))
  have hrole : (c.roleTaken new).fld GLOBAL.ROLE_ROLE = new := (Chip.fld_raise_apart (by decide) (by decide) (by decide) (by decide)).trans
    ((Chip.fld_setFld_ne _ _ _ _ _ _ _ _ (by decide)).trans ((Chip.fld_setFld_self _ _ _ _ _).trans (Nat.mod_eq_of_lt hnew)))
  have hepoch : (c.roleTaken new).fld GLOBAL.ROLE_EPOCH = (c.fld GLOBAL.ROLE_EPOCH + 1) % 65536 :=
    (Chip.fld_raise_apart (by decide) (by decide) (by decide) (by decide)).trans (Chip.fld_setFld_self _ _ _ _ _)
  generalize c.roleTaken new = e at htell hrole hepoch
  have hframe := e.roleChanged_frame (old := old)
  exact ⟨(hframe.fld_apart _ 0 0 (by decide) (by decide) (by decide)).trans hrole,
    (hframe.fld_apart _ 0 0 (by decide) (by decide) (by decide)).trans hepoch,
    fun hu => (hframe.raised_apart EV.GLOBAL_ROLE_CHANGE (by decide) (by decide)).trans (htell hu)⟩
end

section
variable {s : State} {p : Port} {v : Word}

/-- DRAM training is on in this ACQUIRE. -/
def trainDue (c : Chip) : Bool := c.mode == mACQUIRE && !c.modes.dramTrainingDone

theorem exec_dramTrainingDone {t0 t1 : Bool} {d0 d1 : Fin 5} : exec (.dramTrainingDone t0 t1 d0 d1) s =
    run (fun c => c.whenDue (trainDue c) fun d => d.trainingDone t0 t1 d0.val d1.val) s := rfl

theorem exec_roleCmd : exec (.roleCmd p v) s = run (fun c => c.accessField p GLOBAL.ROLE_CMD_NEW_ROLE 0 fun d => d.roleCmd p v.toNat) s := rfl

theorem roleRow_not_level : ∀ r ∈ [DRAM.STATUS_TRAINED0, DRAM.STATUS_TRAINED1, DRAM.STATUS_USABLE_MIB, POWER.DOMAIN_STATE_MEM, GLOBAL.ROLE_EPOCH,
    GLOBAL.ROLE_SETTLED, GLOBAL.ROLE_ROLE], r.key 0 0 ∉ levelKeys := by decide

theorem roleEvt_not_level : ∀ e ∈ [EV.DRAM_TRAIN_DONE, EV.GLOBAL_MANAGER_REFUSED, EV.GLOBAL_ROLE_CHANGE, EV.GLOBAL_ROLE_CMD_STALE,
    EV.GLOBAL_ROLE_CMD_REFUSED], e.key 0 ∉ levelKeys := by decide

theorem dramTrainingDone_ends {t0 t1 : Bool} {d0 d1 : Fin 5} (hmode : s.chip.mode = mACQUIRE) (hdone : s.chip.modes.dramTrainingDone = false) :
    let a := s.chip.trained0 t0
    let b := s.chip.trained1 t1
    Ends (.dramTrainingDone t0 t1 d0 d1) s fun d =>
      d.on DRAM.STATUS_TRAINED0 = a ∧ d.on DRAM.STATUS_TRAINED1 = b ∧ d.fld DRAM.STATUS_USABLE_MIB = usableMib a b d0.val d1.val ∧
      d.dom .mem = domON ∧ d.modes.dramTrainingDone = true ∧ s.chip.Tells d EV.DRAM_TRAIN_DONE ∧
      d.fld GLOBAL.ROLE_EPOCH = s.chip.fld GLOBAL.ROLE_EPOCH ∧
      (s.chip.fld GLOBAL.ROLE_STRAP_ROLE = 2 → s.chip.on GLOBAL.ROLE_SETTLED = false →
        d.fld GLOBAL.ROLE_SETTLED = 1 ∧
        ((a || b) = true → d.fld GLOBAL.ROLE_ROLE = roleMANAGER) ∧
        ((a || b) = false → d.fld GLOBAL.ROLE_ROLE = s.chip.fld GLOBAL.ROLE_ROLE ∧ s.chip.Tells d EV.GLOBAL_MANAGER_REFUSED)) := by
  intro a b
  refine ends_of_due exec_dramTrainingDone (by rw [trainDue, hmode, hdone]; rfl) ?_
  rw [Chip.trainingDone_eq, ← Chip.dramAwake]
  have hframe := Chip.dramAwake_frame (c := s.chip) (t0 := t0) (t1 := t1) (d0 := d0.val) (d1 := d1.val)
  have hsays := Chip.dramAwake_says (c := s.chip) (t0 := t0) (t1 := t1) (d0 := d0.val) (d1 := d1.val) (usableMib_lt _ _ d0 d1)
  generalize s.chip.dramAwake t0 t1 d0.val d1.val = e at hframe hsays
  obtain ⟨h0, h1, hmib, hmem, hmodes, htell⟩ := hsays
  have hsettle := e.roleSettle_frame
  have hrole := e.roleSettle_says
  have htrained : e.dramTrained = (a || b) := by rw [Chip.dramTrained, h0, h1]
  have hlevel (r : FieldRow) (hr : r ∈ [DRAM.STATUS_TRAINED0, DRAM.STATUS_TRAINED1, DRAM.STATUS_USABLE_MIB, POWER.DOMAIN_STATE_MEM,
      GLOBAL.ROLE_EPOCH, GLOBAL.ROLE_SETTLED, GLOBAL.ROLE_ROLE]) : (s.chip.ended e.roleSettle).fld r = e.roleSettle.fld r :=
    Chip.ended_fld _ _ _ _ _ (roleRow_not_level r hr)
  have hglobal (r : FieldRow) (hr : (r.placed && awakeSpots.all r.apart) = true) (hc : 0 < r.cls.count) :
      e.fld r = s.chip.fld r := hframe.fld_apart r 0 0 hr hc (by decide)
  refine ⟨?_, ?_, ?_, ?_, ?_, ?_, ?_, fun hstrap hset => ?_⟩
  · exact (congrArg (· != 0) ((hlevel _ (by decide)).trans (hsettle.fld_apart _ 0 0 (by decide) (by decide) (by decide)))).trans h0
  · exact (congrArg (· != 0) ((hlevel _ (by decide)).trans (hsettle.fld_apart _ 0 0 (by decide) (by decide) (by decide)))).trans h1
  · exact ((hlevel _ (by decide)).trans (hsettle.fld_apart _ 0 0 (by decide) (by decide) (by decide))).trans hmib
  · exact ((hlevel POWER.DOMAIN_STATE_MEM (by decide)).trans (hsettle.fld_apart _ 0 0 (by decide) (by decide) (by decide))).trans hmem
  · rw [Chip.ended_modes, hsettle.modes (by decide)]
    exact hmodes
  · exact Chip.Tells.ended (fun hu => (hsettle.raised_apart EV.DRAM_TRAIN_DONE (by decide) (by decide)).trans (htell hu))
      (roleEvt_not_level _ (by decide))
  · exact ((hlevel _ (by decide)).trans (hsettle.fld_apart _ 0 0 (by decide) (by decide) (by decide))).trans
      (hglobal _ (by decide) (by decide))
  · obtain ⟨hsettled, hmanager, hrefused⟩ := hrole ((hglobal _ (by decide) (by decide)).trans hstrap)
      ((congrArg (· != 0) (hglobal _ (by decide) (by decide))).trans hset)
    refine ⟨(hlevel _ (by decide)).trans hsettled, fun h => (hlevel _ (by decide)).trans (hmanager (htrained.trans h)), fun h => ?_⟩
    obtain ⟨hsame, htold⟩ := hrefused (htrained.trans h)
    refine ⟨(hlevel _ (by decide)).trans (hsame.trans (hglobal _ (by decide) (by decide))), Chip.Tells.ended (fun hu => htold ?_)
      (roleEvt_not_level _ (by decide))⟩
    exact (hframe.domUp .aon (not_touched (by decide) 0 0 (by decide) (by decide))).trans hu

/-- A role request that is refused. -/
theorem roleCmd_refused (hopen : s.chip.Open p .global 0) {e : Evt} (he : e ∈ [EV.GLOBAL_MANAGER_REFUSED, EV.GLOBAL_ROLE_CMD_STALE,
    EV.GLOBAL_ROLE_CMD_REFUSED]) (heq : s.chip.roleCmd p v.toNat = (s.chip.errcnt 0 GLOBAL.ROLE_CMD_NEW_ROLE.off p).raise e) :
    SetsRegs (.roleCmd p v) s (e.key 0 :: errKeys 0) fun d =>
      s.chip.Counted d 0 GLOBAL.ROLE_CMD_NEW_ROLE.off p ∧ s.chip.Tells d e := by
  have hall : ∀ x ∈ [EV.GLOBAL_MANAGER_REFUSED, EV.GLOBAL_ROLE_CMD_STALE, EV.GLOBAL_ROLE_CMD_REFUSED], x.bit < 32 ∧ x.key 0 ∉ levelKeys := by decide
  exact setsRegs_of_access_refused exec_roleCmd hopen heq (hall e he).1 (by decide) (hall e he).2
end

/-- Settles O19: DRAM training by the parts of what it changes, role requests by the branches of their judgement. -/
theorem rolesAreSettled : Obligations.RolesAreSettled := by
  unfold Obligations.RolesAreSettled
  refine ⟨fun s t0 t1 d0 d1 hmode hdone => dramTrainingDone_ends hmode hdone, fun s p v hopen => ?_⟩
  intro new fits refused
  have heq := s.chip.roleCmd_eq p v.toNat
  refine ⟨fun hf => ?_, fun hf hm htr => ?_, fun hf hm hbad => ?_, fun hf h3 hm hset hmode => ?_⟩
  · exact roleCmd_refused hopen (by decide) (heq.trans (if_pos hf))
  · refine roleCmd_refused hopen (by decide) (heq.trans ((if_neg (not_not_intro hf)).trans (if_pos ⟨hm, by rw [htr]; decide⟩)))
  · refine roleCmd_refused hopen (by decide) (heq.trans ((if_neg (not_not_intro hf)).trans ((if_neg fun h => h.2 (hm h.1)).trans (if_pos ?_))))
    rcases hbad with h | h | h | ⟨h, hready⟩
    · exact .inl h
    · exact .inr (.inl (by rw [h]; decide))
    · refine .inr (.inr (.inl ?_))
      rw [Chip.running, h]
      decide
    · exact .inr (.inr (.inr ⟨h, by rw [hready]; decide⟩))
  · have hok : ¬ (bitsOf v.toNat 1 0 = 3 ∨ ¬ s.chip.on GLOBAL.ROLE_SETTLED ∨
        ¬ (s.chip.mode = mSTANDBY ∨ s.chip.mode = mACQUIRE ∨ s.chip.running) ∨
        (bitsOf v.toNat 1 0 = roleMANAGER ∧ ¬ s.chip.on GLOBAL.ROLE_DRAM_READY)) := by
      rintro (h | h | h | ⟨h, hready⟩)
      · exact h3 h
      · exact h hset
      · have hall : ∀ m ∈ [mSTANDBY, mACQUIRE, mRUN, mHOLDOVER], m = mSTANDBY ∨ m = mACQUIRE ∨ (m == mRUN || m == mHOLDOVER) = true := by decide
        exact h (hall _ hmode)
      · exact hready (hm h).2
    have heq' := heq.trans ((if_neg (not_not_intro hf)).trans ((if_neg fun h => h.2 (hm h.1).1).trans (if_neg hok)))
    refine ⟨fun hsame => idles_of_access exec_roleCmd hopen (heq'.trans (if_pos hsame)), fun hne => ends_of_access exec_roleCmd hopen ?_⟩
    obtain ⟨hrole, hepoch, htell⟩ := Chip.roleTaken_says (c := s.chip) (new := new) (old := s.chip.role) (bitsOf_lt (w := v.toNat) 1 0)
    have hfin := heq'.trans (if_neg hne)
    rw [hfin]
    exact ⟨(Chip.ended_fld _ _ _ _ _ (roleRow_not_level _ (by decide))).trans hrole,
      (Chip.ended_fld _ _ _ _ _ (roleRow_not_level _ (by decide))).trans hepoch, htell.ended (roleEvt_not_level _ (by decide))⟩

end Sys2Proof.Machine
end

section
/-!
PROOF. O17 fails. The statement speaks of every state, so also of one with a bad word that is marked with a store number beyond every
store. The count of that store's errors is then written to a cell outside the ECC counters: here to the state of the domain HOST, as the
wake of HOST delivers a completion that waits and reads its bad word.
-/
namespace Sys2Proof.Machine

/-- HOST's wake is complete, CR 0 owes the silent completion of tag 0, and its ledger word holds a corrected error whose count stands in the
state of the domain HOST. -/
def hostWakesBad : Chip :=
  let bad : BadWord := { store := corrStore (POWER.DOMAIN_STATE_HOST.key 0 0), word := .cell .ledger 0, two := false }
  let c : Chip := { ({} : Chip) with
    ecc := { ({} : Chip).ecc with bad := [bad] }, txOps := [(0, { quiet := true })], hostq := { ({} : Chip).hostq with parked := [0] },
    power := { ({} : Chip).power with wakes := [(.host, 0)] } }
  ((c.setFld HOSTQ.CR_STATUS_ENABLED 1).setFld (Domain.row .host) domLINK).setFld GLOBAL.MODE_MODE mRUN

theorem hostWakesBad_facts : hostWakesBad.wakeDue .host = true ∧ (hostWakesBad.wakeDone .host).dom .host ≠ domON := by
  decide +kernel

/-- As the statement has it, a domain whose wake is complete is ON. -/
theorem on_of_domainsGoDownAndWake (h : Obligations.DomainsGoDownAndWake) (s : State) (hdue : s.chip.wakeDue .host = true) :
    (s.chip.wakeDone .host).dom .host = domON := by
  unfold Obligations.DomainsGoDownAndWake at h
  obtain ⟨-, h⟩ := h
  obtain ⟨hwake, -, -⟩ := h s .host
  obtain ⟨hon, -⟩ := ok_of_ends (f := fun c => c.whenDue (c.wakeDue .host) fun d => d.wakeDone .host) rfl (hwake hdue (by decide))
  rw [Chip.ended_dom _ _ _ (by decide), Chip.whenDue_true _ _ hdue] at hon
  exact hon

/-- Refutes O17: a completed wake of HOST can leave its domain in another state than ON. -/
theorem not_domainsGoDownAndWake : ¬ Obligations.DomainsGoDownAndWake := fun h => by
  obtain ⟨hdue, hoff⟩ := hostWakesBad_facts
  exact hoff (on_of_domainsGoDownAndWake h { chip := hostWakesBad } hdue)

end Sys2Proof.Machine
end

section
/-!
PROOF. The load of the configuration image: how it fails, how it ends, and what neither touches.
-/
namespace Sys2Proof.Machine

section
variable {b c d : Chip} {k : Nat}

/-- The load has failed in `d` with a cause, which is told. -/
def Chip.Failed (c d : Chip) (k : Nat) : Prop :=
  d.fld GLOBAL.IMAGE_STATUS_STATE = 5 ∧ d.fld GLOBAL.IMAGE_STATUS_CAUSE = k ∧ c.Tells d EV.GLOBAL_IMAGE_ERROR

/-- The load is done in `d`, which is told. -/
def Chip.Loaded (c d : Chip) : Prop :=
  d.fld GLOBAL.IMAGE_STATUS_STATE = 4 ∧ d.fld GLOBAL.IMAGE_STATUS_HOLD = 0 ∧ c.Tells d EV.GLOBAL_IMAGE_DONE

theorem Chip.Failed.ended (h : c.Failed d k) : c.Failed (b.ended d) k := by
  obtain ⟨hst, hcause, htell⟩ := h
  exact ⟨(b.ended_fld d _ _ _ (by decide)).trans hst, (b.ended_fld d _ _ _ (by decide)).trans hcause, htell.ended (by decide)⟩

theorem Chip.Loaded.ended (h : c.Loaded d) : c.Loaded (b.ended d) := by
  obtain ⟨hst, hhold, htell⟩ := h
  exact ⟨(b.ended_fld d _ _ _ (by decide)).trans hst, (b.ended_fld d _ _ _ (by decide)).trans hhold, htell.ended (by decide)⟩

/-- A chip with the same domains tells the same. -/
theorem Chip.Failed.since {a : Chip} (h : c.Failed d k) (hup : c.domUp .aon = a.domUp .aon) : a.Failed d k := by
  obtain ⟨hst, hcause, htell⟩ := h
  exact ⟨hst, hcause, fun hu => htell (hup.trans hu)⟩

theorem Chip.Loaded.since {a : Chip} (h : c.Loaded d) (hup : c.domUp .aon = a.domUp .aon) : a.Loaded d := by
  obtain ⟨hst, hhold, htell⟩ := h
  exact ⟨hst, hhold, fun hu => htell (hup.trans hu)⟩

theorem Chip.imageError_frame (c : Chip) (k : Nat) : c.Frame [.image]
    (· ∈ [GLOBAL.IMAGE_STATUS_STATE.key 0 0, GLOBAL.IMAGE_STATUS_CAUSE.key 0 0, EV.GLOBAL_IMAGE_ERROR.key 0]) (c.imageError k) := by
  unfold Chip.imageError Chip.setIm Chip.updImage
  exact ((((Chip.Frame.refl c).withImage _ (by simp)).setFld _ _ _ _ (by simp)).setFld _ _ _ _ (by simp)).raise _ _ (by simp)

theorem Chip.imageError_failed (c : Chip) (hk : k < 16) : c.Failed (c.imageError k) k := by
  have hset : c.Frame [.image] (· ∈ [GLOBAL.IMAGE_STATUS_STATE.key 0 0, GLOBAL.IMAGE_STATUS_CAUSE.key 0 0])
      (((c.updImage fun i => { i with waitUntil := none }).setIm imERROR).setFld GLOBAL.IMAGE_STATUS_CAUSE k) := by
    unfold Chip.setIm Chip.updImage
    exact (((Chip.Frame.refl c).withImage _ (by simp)).setFld _ _ _ _ (by simp)).setFld _ _ _ _ (by simp)
  refine ⟨?_, ?_, hset.tells_raise _ _ (by decide) (by decide)⟩
  · rw [Chip.imageError, Chip.setIm, Chip.fld_raise_ne _ _ _ _ _ _ (by decide), Chip.fld_setFld_ne _ _ _ _ _ _ _ _ (by decide),
      Chip.fld_setFld_self]
    rfl
  · rw [Chip.imageError, Chip.fld_raise_ne _ _ _ _ _ _ (by decide), Chip.fld_setFld_self]
    exact Nat.mod_eq_of_lt hk

/-- The last record is carried out, and the CRC is the one of the header. -/
def Chip.imageDone (c : Chip) : Chip := ((c.setIm imDONE).setFld GLOBAL.IMAGE_STATUS_HOLD 0).raise EV.GLOBAL_IMAGE_DONE

theorem Chip.imageDone_frame (c : Chip) : c.Frame []
    (· ∈ [GLOBAL.IMAGE_STATUS_STATE.key 0 0, GLOBAL.IMAGE_STATUS_HOLD.key 0 0, EV.GLOBAL_IMAGE_DONE.key 0]) c.imageDone := by
  unfold Chip.imageDone Chip.setIm
  exact (((Chip.Frame.refl c).setFld _ _ _ _ (by simp)).setFld _ _ _ _ (by simp)).raise _ _ (by simp)

theorem Chip.imageDone_loaded (c : Chip) : c.Loaded c.imageDone := by
  have hset : c.Frame [] (· ∈ [GLOBAL.IMAGE_STATUS_STATE.key 0 0, GLOBAL.IMAGE_STATUS_HOLD.key 0 0])
      ((c.setIm imDONE).setFld GLOBAL.IMAGE_STATUS_HOLD 0) :=
    ((Chip.Frame.refl c).setFld _ _ _ _ (by simp)).setFld _ _ _ _ (by simp)
  refine ⟨?_, ?_, hset.tells_raise _ _ (by decide) (by decide)⟩
  · rw [Chip.imageDone, Chip.setIm, Chip.fld_raise_ne _ _ _ _ _ _ (by decide), Chip.fld_setFld_ne _ _ _ _ _ _ _ _ (by decide),
      Chip.fld_setFld_self]
    rfl
  · rw [Chip.imageDone, Chip.fld_raise_ne _ _ _ _ _ _ (by decide), Chip.fld_setFld_self]
    rfl

theorem Chip.imageFinish_before (h : c.fld GLOBAL.IMAGE_STATUS_RECORDS < c.image.count) : c.imageFinish = c := if_pos h

theorem Chip.imageFinish_good (h : c.image.count ≤ c.fld GLOBAL.IMAGE_STATUS_RECORDS) (hcrc : c.image.crcRun ^^^ 0xFFFFFFFF = c.image.crc) :
    c.imageFinish = c.imageDone := (if_neg (Nat.not_lt.mpr h)).trans (if_pos hcrc)

theorem Chip.imageFinish_bad (h : c.image.count ≤ c.fld GLOBAL.IMAGE_STATUS_RECORDS) (hcrc : c.image.crcRun ^^^ 0xFFFFFFFF ≠ c.image.crc) :
    c.imageFinish = c.imageError 6 := (if_neg (Nat.not_lt.mpr h)).trans (if_neg hcrc)

theorem Chip.imageFinish_frame (c : Chip) : c.Frame [.image] (· ∈ [GLOBAL.IMAGE_STATUS_STATE.key 0 0, GLOBAL.IMAGE_STATUS_CAUSE.key 0 0,
    GLOBAL.IMAGE_STATUS_HOLD.key 0 0, EV.GLOBAL_IMAGE_DONE.key 0, EV.GLOBAL_IMAGE_ERROR.key 0]) c.imageFinish := by
  unfold Chip.imageFinish
  refine Chip.Frame.ite (fun _ => .refl c) fun _ => Chip.Frame.ite (fun _ => ?_) fun _ => ?_
  · exact c.imageDone_frame.mono (by simp) (by simp)
  · exact (c.imageError_frame 6).mono (by simp) (by simp)

theorem Chip.imageFinish_crcRun (c : Chip) : c.imageFinish.image.crcRun = c.image.crcRun ∧
    (c.image.waitUntil = none → c.imageFinish.image.waitUntil = none) := by
  unfold Chip.imageFinish
  split
  · exact ⟨rfl, id⟩
  · split
    · have h := c.imageDone_frame.image (by simp)
      exact ⟨congrArg Image.crcRun h, fun hw => (congrArg Image.waitUntil h).trans hw⟩
    · have h : (c.imageError 6).image = { c.image with waitUntil := none } := by
        refine ((((Chip.Frame.refl (S := []) (K := fun _ => True) (c.updImage fun i => { i with waitUntil := none })).setFld
          GLOBAL.IMAGE_STATUS_STATE imERROR 0 0 trivial).setFld GLOBAL.IMAGE_STATUS_CAUSE 6 0 0 trivial).raise EV.GLOBAL_IMAGE_ERROR 0 trivial).image ?_
        simp
      rw [h]
      exact ⟨rfl, fun _ => rfl⟩

/-- After the records and the CRC so far, the load goes on, is done, or has failed. -/
theorem Chip.imageFinish_says (c : Chip) (hst : c.fld GLOBAL.IMAGE_STATUS_STATE = 3) :
    (c.fld GLOBAL.IMAGE_STATUS_RECORDS < c.image.count → c.imageFinish.fld GLOBAL.IMAGE_STATUS_STATE = 3) ∧
    (c.image.count ≤ c.fld GLOBAL.IMAGE_STATUS_RECORDS → c.image.crcRun ^^^ 0xFFFFFFFF = c.image.crc → c.Loaded c.imageFinish) ∧
    (c.image.count ≤ c.fld GLOBAL.IMAGE_STATUS_RECORDS → ¬ c.image.crcRun ^^^ 0xFFFFFFFF = c.image.crc → c.Failed c.imageFinish 6) := by
  refine ⟨fun h => ?_, fun h hcrc => ?_, fun h hcrc => ?_⟩
  · rw [Chip.imageFinish_before h]
    exact hst
  · rw [Chip.imageFinish_good h hcrc]
    exact c.imageDone_loaded
  · rw [Chip.imageFinish_bad h hcrc]
    exact c.imageError_failed (by decide)

theorem Chip.recordCounted_frame (c : Chip) (S : List Part) : c.Frame S (· ∈ [GLOBAL.IMAGE_STATUS_RECORDS.key 0 0]) c.recordCounted :=
  (Chip.Frame.refl c).setFld _ _ _ _ (by simp)

theorem Chip.recordCounted_records (c : Chip) : c.recordCounted.fld GLOBAL.IMAGE_STATUS_RECORDS =
    (c.fld GLOBAL.IMAGE_STATUS_RECORDS + 1) % 65536 := c.fld_setFld_self _ _ _ _

theorem imageCause_lt (octets : List Byte) : imageCause octets < 16 := by
  unfold imageCause
  extract_lets
  repeat' split
  all_goals decide
end

end Sys2Proof.Machine
end

section
/-!
PROOF. The way into STANDBY: what the sleep of the part leaves alone.
-/
namespace Sys2Proof.Machine

section
variable {c d : Chip} {n : Nat} {R : List Spot} {S : List Part} {K : Nat → Prop}

/-- The cells of some rows, and those of the SEGMENT pages. -/
def SegTouched (R : List Spot) (k : Nat) : Prop := Touched R k ∨ ∃ n, n < 96 ∧ cellPage k = PageCls.segment.base + n

theorem not_segTouched {r : FieldRow} (hr : (r.placed && R.all r.apart) = true) (hc : 0 < r.cls.count) (hb : r.cls.base < PageCls.segment.base) :
    ¬ SegTouched R (r.key 0 0) := by
  rintro (h | ⟨n, -, h⟩)
  · exact not_touched hr 0 0 hc (by decide) h
  · rw [(cellPage_row r (Bool.and_eq_true_iff.mp hr).1 0 0 (by decide)).1] at h
    omega

theorem globalEvent_not_segTouched {v : Evt} (hv : v.cls = .global) (hR : R.all PageCls.global.evtApart = true) : ¬ SegTouched R (v.key 0) := by
  have hk : v.key 0 = evtKey (PageCls.global.base + 0) := by rw [Evt.key, hv]; rfl
  rw [hk]
  rintro (h | ⟨n, -, h⟩)
  · exact evt_not_touched hR (by decide) h
  · have h0 : cellPage (evtKey (PageCls.global.base + 0)) = 0 := by decide
    have hbase : PageCls.segment.base = 0x100 := rfl
    omega

theorem Chip.resetPage_frame (c : Chip) (page : Nat) (keep : Nat → Bool) : c.Frame [.arms] (fun k => cellPage k = page) (c.resetPage page keep) := by
  refine ⟨fun p hp => ?_, fun k hk v => ?_⟩
  · cases p <;> first | rfl | exact absurd List.mem_cons_self hp
  · rw [Chip.get_resetPage, if_pos (Or.inl hk)]

theorem Chip.fatesLost_frame (c : Chip) (l : List CmdPayload) (K : Nat → Prop) :
    c.Frame [.fates] K (l.foldl (fun d p => d.fateLost p.share p.count) c) :=
  Chip.Frame.foldl (.refl c) l fun d p _ => (Chip.away_eq_iff.mp (Chip.away_fateLost (R := []) (List.Subset.refl _))).mono
    (List.Subset.refl _) fun k hk => by obtain ⟨x, hx, -⟩ := hk; cases hx

def segResetParts : List Part := [.arms, .fates, .segs, .segTables, .segBuf]

theorem Chip.segReset_frame (c : Chip) (n : Nat) (keep : List Nat) :
    c.Frame segResetParts (fun k => cellPage k = PageCls.segment.base + n) (c.segReset n keep) := by
  unfold Chip.segReset
  extract_lets c1 c2
  have h1 : c.Frame segResetParts (fun k => cellPage k = PageCls.segment.base + n) c1 :=
    (c.fatesLost_frame _ _).mono (by decide) fun _ h => h
  have h2 : c.Frame segResetParts (fun k => cellPage k = PageCls.segment.base + n) c2 :=
    h1.parts rfl fun p hp => by cases p <;> first | rfl | exact absurd (by decide) hp
  exact h2.andThen (c2.resetPage_frame _ _) (by decide) fun _ h => h

/-- A SEGMENT page's engine, its Flyer and its registers, as the domain SEG is turned off. -/
def Chip.segPageOff (c : Chip) (n : Nat) : Chip :=
  (((c.segDisable n).flyOff n).segReset n [HDR.EVT.off, HDR.EVT_EN.off, HDR.CTRL_LOCK.off]).setHdr HDR.CTRL_EN (PageCls.segment.base + n) 0

/-- What the sleep of the part may change. -/
def sleepParts : List Part := [.arms, .fates, .segs, .segTables, .segBuf, .modes, .power, .buffer, .txOps, .reel, .uplinks, .carder, .hankIn,
  .hostq, .hank, .distaff, .flyers, .freeCtr]

def sleepSpots : List Spot := [.evt .carder, .evt .flyer, .evt .reel, .evt .segment, .evt .uplink, .many HOSTQ.LEDGER_ENTRY0_FROZEN,
    .many HOSTQ.LEDGER_ENTRY0_STATE, .many HOSTQ.LEDGER_ENTRY0_STATUS, .many HOSTQ.LEDGER_ENTRY1_PROGRESS, .one CARDER.BANK_STATUS_BANK_FREE,
    .one CARDER.BULK_STATUS_STATE, .one CARDER.INFLIGHT_BANK_A, .one CARDER.INFLIGHT_BANK_B, .one DISTAFF.BULK_STATUS_STATE,
    .one DISTAFF.ITEMS_OUT_COUNT, .one DRAM.SCRUB_STATUS_DONE_MIB, .one DRAM.SCRUB_STATUS_STATE, .one DRAM.STATUS_SELF_REFRESH,
    .one FLYER.FAULT_STATUS_TX_LATCHED, .one FLYER.FAULT_STATUS_TX_VIOLATION, .one FLYER.LATCHES_COUNT, .one FLYER.SYNC_STATUS_CYCLE_OK,
    .one FLYER.SYNC_STATUS_EXT_ALLOW, .one FLYER.SYNC_STATUS_STATE, .one FLYER.TRUNCATED_COUNT, .one FLYER.TX_STATUS_DRIVER_ON,
    .one FLYER.TX_STATUS_LATCHED, .one FLYER.TX_STATUS_VIOL_RUN, .one GLOBAL.BUFFER_DISCARDS_COUNT, .one GLOBAL.WDOG_REMAIN_COUNT,
    .one HANK.TX_MSGS_COUNT, .one HOSTQ.PARTIALS_COUNT, .one POWER.DOMAIN_STATE_CORE, .one POWER.DOMAIN_STATE_HOST, .one POWER.DOMAIN_STATE_MEM,
    .one POWER.DOMAIN_STATE_SEG, .one REELGATE.C7_BURST_SUM_CNS, .one REELGATE.C7_COND_FAIL, .one REELGATE.C7_COND_OK,
    .one REELGATE.C7_GATE_WAIT_NS, .one REELGATE.C7_OPEN_FRACTION, .one REELGATE.C7_RATE_SUM_KBPS, .one REELGATE.LINK_FLUSH_COUNT,
    .one REELGATE.XOFF_COUNT_COUNT, .one SEGMENT.CS_STATUS_TRIAL_LEFT, .one SEGMENT.SYNC_STATUS_ACTIVE, .one SEGMENT.SYNC_STATUS_CYCLE_VALID,
    .one SEGMENT.SYNC_STATUS_STATE, .one UPLINK.LINK_DOWNS_COUNT, .one UPLINK.LINK_STATUS_BLOCK_LOCK, .one UPLINK.LINK_STATUS_FEC_LOCK,
    .one UPLINK.LINK_STATUS_HI_BER, .one UPLINK.LINK_STATUS_LOCAL_FAULT, .one UPLINK.LINK_STATUS_REMOTE_FAULT, .one UPLINK.LINK_STATUS_STATE,
    .one UPLINK.MERGE_STATUS_ACTIVE, .one UPLINK.MERGE_STATUS_ATTEMPTS, .one UPLINK.MERGE_STATUS_VERIFY_STATE, .one UPLINK.RX_ASSY_ERR_COUNT,
    .one UPLINK.RX_CODE_ERR_COUNT, .one UPLINK.TX_LINK_ABORT_COUNT, .upto FLYER.TT_SLOT_ACTIVE, .upto SEGMENT.TURN_STAT_JOINED]

theorem Chip.segPageOff_frame (hn : n < 96) : c.Frame sleepParts (SegTouched sleepSpots) (c.segPageOff n) := by
  have hengine : c.Frame sleepParts (Touched sleepSpots) ((c.segDisable n).flyOff n) := by
    refine Chip.away_eq_iff.mp ?_
    rw [Chip.away_flyOff (by decide) (by decide) hn, Chip.away_segDisable (by decide) (by decide) hn]
  have hpage (k : Nat) (h : cellPage k = PageCls.segment.base + n) : SegTouched sleepSpots k := Or.inr ⟨n, hn, h⟩
  refine ((hengine.mono (List.Subset.refl _) fun k h => Or.inl h).andThen (Chip.segReset_frame _ _ _) (by decide) hpage).setHdr _ _ _ (hpage _ ?_)
  exact (cellPage_hdr HDR.CTRL_EN (by decide) _).1

/-- The domain SEG goes down, and nothing wakes it. -/
def Chip.segDown (c : Chip) : Chip :=
  ({ c with power := { c.power with wakes := c.power.wakes.filter fun w => w.1 != Domain.seg } }).setDom .seg domOFF

theorem Chip.segOff_eq (c : Chip) : c.segOff = ((List.range 96).foldl Chip.segPageOff c).segDown := by
  unfold Chip.segOff Chip.segDown Chip.segPageOff
  rfl

theorem Chip.segOff_frame (c : Chip) : c.Frame sleepParts (SegTouched sleepSpots) c.segOff := by
  rw [Chip.segOff_eq, Chip.segDown]
  refine ((Chip.Frame.foldl (.refl c) _ fun d n hn => Chip.segPageOff_frame (List.mem_range.mp hn)).withPower _ (by decide)).setFld _ _ _ _ (Or.inl ?_)
  exact cells_one (r := POWER.DOMAIN_STATE_SEG) (by decide) (by decide)

/-- What goes with STANDBY besides the mode: uplinks, loads and gates stop, and the domains go down. -/
def Chip.laidDown (c : Chip) : Chip := ((List.range 4).foldl Chip.uplinkOff c.wdogReload.gatesStop.bulksEnd.offersEnd).powerDown

def Chip.slept (c : Chip) : Chip := if c.laidDown.on GLOBAL.MODE_CFG_SEG_STANDBY then c.laidDown.segWake else c.laidDown.segOff

def Chip.sleepNoted (c : Chip) : Chip :=
  c.updModes fun m => { m with freshStandby := false, autoStartDue := false, safeScene := m.safeScene || c.mode == mSAFE }

theorem Chip.enterStandby_eq (c : Chip) : c.enterStandby = (c.sleepNoted.setMode mSTANDBY).slept := rfl

theorem Chip.laidDown_frame (c : Chip) : c.Frame sleepParts (Touched sleepSpots) c.laidDown := by
  refine Chip.away_eq_iff.mp ?_
  rw [Chip.laidDown, Chip.away_powerDown (by decide) (by decide),
    Chip.away_foldl fun d n hn => Chip.away_uplinkOff (by decide) (by decide) (List.mem_range.mp hn),
    Chip.away_offersEnd (by decide), Chip.away_bulksEnd (by decide) (by decide), Chip.away_gatesStop (by decide),
    Chip.away_wdogReload (by decide) (by decide)]

theorem Chip.slept_frame (c : Chip) : c.Frame sleepParts (SegTouched sleepSpots) c.slept := by
  have hlaid := c.laidDown_frame.mono (L := SegTouched sleepSpots) (List.Subset.refl _) fun k h => Or.inl h
  refine Chip.Frame.ite (fun _ => hlaid.trans ?_) fun _ => hlaid.trans c.laidDown.segOff_frame
  exact (Chip.away_eq_iff.mp (Chip.away_segWake (R := sleepSpots) (by decide))).mono (List.Subset.refl _) fun k h => Or.inl h

end
end Sys2Proof.Machine
end

section
/-!
PROOF. The configuration image loads, or ends in an error.
-/
namespace Sys2Proof.Machine

section
variable {b c d : Chip} {k : Nat} {s : State} {p : Port}

theorem exec_imagePass1Done (octets : List Byte) (s : State) : exec (.imagePass1Done octets) s =
    run (fun c => c.whenDue (c.imSt == imVERIFYING) fun d => d.pass1Done octets) s := rfl
theorem exec_imagePass2Start (octets : List Byte) (s : State) : exec (.imagePass2Start octets) s =
    run (fun c => c.whenDue c.pass2Due fun d => d.pass2Start octets) s := rfl
theorem exec_imageRecord (w0 w1 : Word) (s : State) : exec (.imageRecord w0 w1) s =
    run (fun c => c.whenDue c.recordDue fun d => d.imageRecord w0 w1) s := rfl
theorem exec_imageWaitExpiry (s : State) : exec .imageWaitExpiry s =
    run (fun c => c.whenDue c.waitOver fun d => (d.updImage fun i => { i with waitUntil := none }).imageFinish) s := rfl
theorem exec_imageRetry (p : Port) (v : Word) (s : State) : exec (.imageRetry p v) s =
    run (fun c => c.accessField p GLOBAL.IMAGE_CMD_KEY 0 fun d => d.imageCmd p v.toNat) s := rfl
theorem exec_imageRelease (p : Port) (v : Word) (s : State) : exec (.imageRelease p v) s =
    run (fun c => c.accessField p GLOBAL.IMAGE_CMD_KEY 0 fun d => d.imageCmd p v.toNat) s := rfl

/-! ### Pass 1 -/

/-- The header of the image is noted. -/
def Chip.imageHeader (c : Chip) (octets : List Byte) : Chip :=
  c.updImage fun i => { i with count := bitsOf (imageWord octets 2) 15 0, crc := imageWord octets 3 }

/-- The image waits to be applied; the automatic start is still to be judged. -/
def Chip.pass1Waits (c : Chip) (octets : List Byte) : Chip :=
  (if c.mode = mACQUIRE then (c.imageHeader octets).setFld GLOBAL.IMAGE_STATUS_HOLD 1 else c.imageHeader octets).setIm imWAIT

theorem Chip.pass1Done_bad {octets : List Byte} (h : imageCause octets ≠ 0) :
    c.pass1Done octets = (c.updModes fun m => { m with freshStandby := false }).imageError (imageCause octets) := if_pos h

theorem Chip.pass1Done_good {octets : List Byte} (h : imageCause octets = 0) : c.pass1Done octets = (c.pass1Waits octets).imageLoaded :=
  if_neg (not_not.mpr h)

def pass1Keys : List Nat := [GLOBAL.IMAGE_STATUS_HOLD.key 0 0, GLOBAL.IMAGE_STATUS_STATE.key 0 0]

theorem Chip.pass1Waits_frame (octets : List Byte) : (c.imageHeader octets).Frame [] (· ∈ pass1Keys) (c.pass1Waits octets) :=
  (Chip.Frame.ite (fun _ => (Chip.Frame.refl _).setFld _ _ _ _ (by decide)) fun _ => .refl _).setFld _ _ _ _ (by decide)

theorem Chip.pass1Waits_hold (octets : List Byte) (hm : c.mode = mACQUIRE) : (c.pass1Waits octets).fld GLOBAL.IMAGE_STATUS_HOLD = 1 := by
  rw [Chip.pass1Waits, if_pos hm, Chip.setIm, Chip.fld_setFld_ne _ _ _ _ _ _ _ _ (by decide), Chip.fld_setFld_self]
  rfl

theorem pass1Done_ends (octets : List Byte) (h : s.chip.imSt = 1) : Ends (.imagePass1Done octets) s fun d => d.SameStores s.chip ∧
    (imageCause octets ≠ 0 → s.chip.Failed d (imageCause octets) ∧ d.modes.freshStandby = false) ∧
    (imageCause octets = 0 → d.fld GLOBAL.IMAGE_STATUS_STATE = 2 ∧ d.image.count = bitsOf (imageWord octets 2) 15 0 ∧
      d.image.crc = imageWord octets 3 ∧ (s.chip.mode = mACQUIRE → d.fld GLOBAL.IMAGE_STATUS_HOLD = 1) ∧
      d.modes.autoStartDue = (s.chip.mode == mSTANDBY && s.chip.modes.freshStandby && s.chip.on GLOBAL.MODE_CFG_AUTO_RUN)) := by
  have hturn {d : Chip} (hs : s.chip.SameStores d) : d.SameStores s.chip := by
    obtain ⟨h1, h2, h3, h4, h5, h6, h7, h8, h9⟩ := hs
    exact ⟨h1.symm, h2.symm, h3.symm, h4.symm, h5.symm, h6.symm, h7.symm, h8.symm, h9.symm⟩
  refine ends_of_due (exec_imagePass1Done octets s) (beq_iff_eq.mpr h) ?_
  by_cases hk : imageCause octets = 0
  · rw [Chip.pass1Done_good hk]
    have hf := s.chip.pass1Waits_frame octets
    have hhold := s.chip.pass1Waits_hold octets
    have hst : (s.chip.pass1Waits octets).fld GLOBAL.IMAGE_STATUS_STATE = 2 := Chip.fld_setFld_self _ _ _ _ _
    generalize s.chip.pass1Waits octets = e at hf hhold hst
    have himage := hf.image (by simp)
    have hmodes := hf.modes (by simp)
    have hmode := hf.fld GLOBAL.MODE_MODE 0 0 (by decide)
    have hrun := hf.on GLOBAL.MODE_CFG_AUTO_RUN 0 0 (by decide)
    have hall : s.chip.Frame [.image, .modes] (fun _ => True) e.imageLoaded :=
      (((Chip.Frame.refl s.chip).withImage _ (by simp)).trans (hf.mono (by simp) fun _ _ => trivial)).withModes _ (by simp)
    refine ⟨hturn (hall.sameStores (by decide) (hall.now (by decide))).ended, fun h => absurd hk h, fun _ => ⟨?_, ?_, ?_, fun hm => ?_, ?_⟩⟩
    · rw [Chip.ended_fld _ _ _ _ _ (by decide)]
      exact hst
    · rw [Chip.ended_image]
      exact congrArg Image.count himage
    · rw [Chip.ended_image]
      exact congrArg Image.crc himage
    · rw [Chip.ended_fld _ _ _ _ _ (by decide)]
      exact hhold hm
    · rw [Chip.ended_modes, Chip.imageLoaded, Chip.mode, hmode, hmodes, hrun]
      rfl
  · rw [Chip.pass1Done_bad hk]
    have hf := (s.chip.updModes fun m => { m with freshStandby := false }).imageError_frame (imageCause octets)
    have hfail := (s.chip.updModes fun m => { m with freshStandby := false }).imageError_failed (imageCause_lt octets)
    have hmodes := hf.modes (by simp)
    have hall : s.chip.Frame [.image, .modes] (fun _ => True) ((s.chip.updModes fun m => { m with freshStandby := false }).imageError
        (imageCause octets)) := ((Chip.Frame.refl s.chip).withModes _ (by simp)).trans (hf.mono (by simp) fun _ _ => trivial)
    refine ⟨hturn (hall.sameStores (by decide) (hall.now (by decide))).ended, fun _ => ⟨?_, ?_⟩, fun h => absurd h hk⟩
    · exact (hfail.since rfl).ended
    · rw [Chip.ended_modes, hmodes]
      rfl

/-! ### Pass 2 -/

theorem pass2Due_iff : c.pass2Due = true ↔ c.mode = mACQUIRE ∧ c.imSt = 2 ∧ c.dom .core = domON ∧ c.dom .seg = domON ∧
    c.modes.dramTrainingDone = true := by
  simp only [Chip.pass2Due, Bool.and_eq_true, beq_iff_eq, and_assoc]

theorem pass2Start_becomes (octets : List Byte) (h : s.chip.pass2Due = true) : Becomes (.imagePass2Start octets) s
    { s.chip with image := { s.chip.image with crcRun := crcRun 0xFFFFFFFF (octets.take 12), waitUntil := none } }
    [GLOBAL.IMAGE_STATUS_STATE.key 0 0, GLOBAL.IMAGE_STATUS_RECORDS.key 0 0] fun d => d.fld GLOBAL.IMAGE_STATUS_STATE = 3 ∧
      d.fld GLOBAL.IMAGE_STATUS_RECORDS = 0 := by
  refine becomes_of_due (exec_imagePass2Start octets s) h ?_ ⟨?_, ?_⟩
  · exact ((Chip.Frame.refl _).setFld _ _ _ _ (by simp)).setFld _ _ _ _ (by simp)
  · rw [Chip.ended_fld _ _ _ _ _ (by decide), Chip.pass2Start, Chip.fld_setFld_ne _ _ _ _ _ _ _ _ (by decide), Chip.setIm,
      Chip.fld_setFld_self]
    rfl
  · rw [Chip.ended_fld _ _ _ _ _ (by decide), Chip.pass2Start, Chip.fld_setFld_self]
    rfl

/-! ### WAIT -/

theorem waitOver_iff : c.waitOver = true ↔ c.imSt = 3 ∧ ∃ t, c.image.waitUntil = some t ∧ t ≤ c.now := by
  unfold Chip.waitOver
  cases hw : c.image.waitUntil with
  | none => simp
  | some t => simp

theorem waitExpiry_ends (h : s.chip.waitOver = true) : Ends .imageWaitExpiry s fun d => d.image.waitUntil = none ∧
    (s.chip.fld GLOBAL.IMAGE_STATUS_RECORDS < s.chip.image.count → d.fld GLOBAL.IMAGE_STATUS_STATE = 3) ∧
    (s.chip.image.count ≤ s.chip.fld GLOBAL.IMAGE_STATUS_RECORDS → s.chip.image.crcRun ^^^ 0xFFFFFFFF = s.chip.image.crc → s.chip.Loaded d) ∧
    (s.chip.image.count ≤ s.chip.fld GLOBAL.IMAGE_STATUS_RECORDS → ¬ s.chip.image.crcRun ^^^ 0xFFFFFFFF = s.chip.image.crc → s.chip.Failed d 6) := by
  have hst := (waitOver_iff.mp h).1
  refine ends_of_due (exec_imageWaitExpiry s) h ?_
  obtain ⟨hgo, hgood, hbad⟩ := (s.chip.updImage fun i => { i with waitUntil := none }).imageFinish_says hst
  refine ⟨?_, fun hr => ?_, fun hr hc => ((hgood hr hc).since rfl).ended, fun hr hc => ((hbad hr hc).since rfl).ended⟩
  · rw [Chip.ended_image]
    exact (s.chip.updImage fun i => { i with waitUntil := none }).imageFinish_crcRun.2 rfl
  · rw [Chip.ended_fld _ _ _ _ _ (by decide)]
    exact hgo hr

/-! ### The records -/

theorem recordDue_iff : c.recordDue = true ↔ c.mode = mACQUIRE ∧ c.imSt = 3 ∧ c.image.waitUntil = none := by
  simp only [Chip.recordDue, Bool.and_eq_true, beq_iff_eq, Option.isNone_iff_eq_none, and_assoc]

/-- The octets of a record go into the CRC. -/
def Chip.recordRead (c : Chip) (w0 w1 : Word) : Chip :=
  c.updImage fun i => { i with crcRun := crcRun i.crcRun (leBytes 4 w0.toNat ++ leBytes 4 w1.toNat) }

theorem Chip.imageRecord_wait {w0 : Word} (w1 : Word) (h : bitsOf w0.toNat 27 24 = 1) : c.imageRecord w0 w1 =
    ((c.recordRead w0 w1).updImage fun i => { i with waitUntil := some (c.now + w1.toNat * usQ) }).recordCounted := if_pos h

theorem Chip.imageRecord_write {w0 : Word} (w1 : Word) (h : bitsOf w0.toNat 27 24 = 0) : c.imageRecord w0 w1 =
    (c.recordRead w0 w1).recordWrite (bitsOf w0.toNat 23 0 / 4 * 4) w1 := if_neg (by rw [h]; decide)

theorem waitRecord_becomes {w0 : Word} (w1 : Word) (h : s.chip.recordDue = true) (hw : bitsOf w0.toNat 27 24 = 1) :
    Becomes (.imageRecord w0 w1) s { s.chip with image := { s.chip.image with
      crcRun := crcRun s.chip.image.crcRun (leBytes 4 w0.toNat ++ leBytes 4 w1.toNat), waitUntil := some (s.chip.now + w1.toNat * usQ) } }
      [GLOBAL.IMAGE_STATUS_RECORDS.key 0 0] fun d =>
        d.fld GLOBAL.IMAGE_STATUS_RECORDS = (s.chip.fld GLOBAL.IMAGE_STATUS_RECORDS + 1) % 65536 := by
  refine becomes_of_due (exec_imageRecord w0 w1 s) h ?_ ?_
  · rw [Chip.imageRecord_wait w1 hw]
    exact Chip.recordCounted_frame _ _
  · rw [Chip.ended_fld _ _ _ _ _ (by decide), Chip.imageRecord_wait w1 hw, Chip.recordCounted_records]
    rfl

/-- A record that meets nothing is carried out and counted. -/
theorem Chip.recordWrite_good {addr : Nat} {v : Word} (hst : (c.regWrite .image addr v.toNat).imSt = 3)
    (hd : c.meetsDown addr = false) (hr : c.meetsRefusal .image addr (some v) = false) :
    c.recordWrite addr v = (c.regWrite .image addr v.toNat).recordCounted.imageFinish := by
  unfold Chip.recordWrite
  extract_lets bad d
  have hbad : bad = false := by rw [show bad = (c.meetsDown addr || c.meetsRefusal .image addr (some v)) from rfl, hd, hr]; rfl
  rw [if_neg (by rw [hst]; decide), if_neg (by rw [hst]; decide), if_neg (by rw [hbad]; decide)]

/-- A record that meets a page that is down ends the load. -/
theorem Chip.recordWrite_down {addr : Nat} {v : Word} (hst : (c.regWrite .image addr v.toNat).imSt = 3) (hd : c.meetsDown addr = true) :
    c.recordWrite addr v = (c.regWrite .image addr v.toNat).imageError 5 := by
  unfold Chip.recordWrite
  extract_lets bad d
  have hbad : bad = true := by rw [show bad = (c.meetsDown addr || c.meetsRefusal .image addr (some v)) from rfl, hd]; rfl
  rw [if_neg (by rw [hst]; decide), if_neg (by rw [hst]; decide), if_pos hbad]

/-- A record that leaves ACQUIRE is counted, and nothing more. -/
theorem Chip.recordWrite_left {addr : Nat} {v : Word} (hst : (c.regWrite .image addr v.toNat).imSt = 5) :
    c.recordWrite addr v = (c.regWrite .image addr v.toNat).recordCounted := if_pos hst

theorem reaches_image (hm : c.mode = mACQUIRE) (hst : c.imSt = 3) : c.reaches .image = true := by
  rw [Chip.reaches, hm, show c.fld GLOBAL.IMAGE_STATUS_STATE = 3 from hst]
  rfl

/-- An access that meets a page that is down takes nothing of the load away. -/
theorem Chip.regWrite_down_frame {addr : Nat} (v : Nat) (hr : c.reaches .image = true) (hd : c.meetsDown addr = true) :
    c.Frame [.arms] (fun k => k = HDR.SEAL_ARMED.key (addr / 4096) ∨ k = GLOBAL.OFF_DOMAIN_CNT_COUNT.key 0 0 ∨
      k = EV.GLOBAL_OFF_DOMAIN_ACCESS.key 0) (c.regWrite .image addr v) := by
  unfold Chip.regWrite Chip.access
  rw [if_pos hr]
  unfold Chip.meetsDown at hd
  revert hd
  cases pageOf (addr / 4096) with
  | none => exact fun _ => .refl c
  | some x =>
    obtain ⟨cls, n⟩ := x
    intro hd
    have hup : c.domUp cls.domain = false := by simpa using hd
    simp only [hup, Bool.and_false, Bool.false_eq_true, if_false]
    have harm : c.Frame [.arms] (fun k => k = HDR.SEAL_ARMED.key (addr / 4096) ∨ k = GLOBAL.OFF_DOMAIN_CNT_COUNT.key 0 0 ∨
        k = EV.GLOBAL_OFF_DOMAIN_ACCESS.key 0) (c.disarmBy .image (addr / 4096)) :=
      Chip.Frame.ite (fun _ => ((Chip.Frame.refl c).setHdr _ _ _ (Or.inl rfl)).withArms _ (by simp)) fun _ => .refl c
    exact (harm.bump _ _ _ (Or.inr (Or.inl rfl))).raise _ _ (Or.inr (Or.inr rfl))

theorem downRecord_ends {w0 : Word} (w1 : Word) (h : s.chip.recordDue = true) (hw : bitsOf w0.toNat 27 24 = 0)
    (hd : s.chip.meetsDown (bitsOf w0.toNat 23 0 / 4 * 4) = true) : Ends (.imageRecord w0 w1) s fun d =>
      s.chip.Failed d 5 ∧ d.fld GLOBAL.IMAGE_STATUS_RECORDS = s.chip.fld GLOBAL.IMAGE_STATUS_RECORDS := by
  obtain ⟨hm, hst, -⟩ := recordDue_iff.mp h
  refine ends_of_due (exec_imageRecord w0 w1 s) h ?_
  rw [Chip.imageRecord_write w1 hw]
  generalize bitsOf w0.toNat 23 0 / 4 * 4 = addr at hd
  have hf := (s.chip.recordRead w0 w1).regWrite_down_frame (addr := addr) w1.toNat (reaches_image hm hst) hd
  have hno (r : FieldRow) (hr : r ∈ [GLOBAL.IMAGE_STATUS_STATE, GLOBAL.IMAGE_STATUS_RECORDS, POWER.DOMAIN_STATE_AON]) :
      ¬ (r.key 0 0 = HDR.SEAL_ARMED.key (addr / 4096) ∨ r.key 0 0 = GLOBAL.OFF_DOMAIN_CNT_COUNT.key 0 0 ∨
        r.key 0 0 = EV.GLOBAL_OFF_DOMAIN_ACCESS.key 0) := by
    have hoff : ∀ r ∈ [GLOBAL.IMAGE_STATUS_STATE, GLOBAL.IMAGE_STATUS_RECORDS, POWER.DOMAIN_STATE_AON], r.off ≠ 0x01C ∧ r.off < 4096 ∧ r.lo < 32 ∧
        r.key 0 0 ≠ GLOBAL.OFF_DOMAIN_CNT_COUNT.key 0 0 ∧ r.key 0 0 ≠ EV.GLOBAL_OFF_DOMAIN_ACCESS.key 0 := by decide
    obtain ⟨h1, h2, h3, h4, h5⟩ := hoff r hr
    rintro (h | h | h)
    · simp only [FieldRow.key, HdrRow.key, cellKey, HDR.SEAL_ARMED] at h
      omega
    · exact h4 h
    · exact h5 h
  have hst1 := hf.fld GLOBAL.IMAGE_STATUS_STATE 0 0 (hno _ (by simp))
  have hrec := hf.fld GLOBAL.IMAGE_STATUS_RECORDS 0 0 (hno _ (by simp))
  have hup := hf.domUp .aon (hno _ (by simp [Domain.row]))
  rw [Chip.recordWrite_down (c := s.chip.recordRead w0 w1) (hst1.trans hst) hd]
  generalize (s.chip.recordRead w0 w1).regWrite .image addr w1.toNat = e at hup hrec
  refine ⟨((e.imageError_failed (by decide)).since hup).ended, ?_⟩
  rw [Chip.ended_fld _ _ _ _ _ (by decide), (e.imageError_frame 5).fld _ _ _ (by decide)]
  exact hrec

/-! ### A WRITE of the POWER page -/

theorem powerKey_page {off k : Nat} (h : k ∈ c.takenKeys .power 0 off) : cellPage k = 1 ∧ k ≠ POWER.DOMAIN_STATE_AON.key 0 0 := by
  rw [powerTaken, List.mem_map] at h
  obtain ⟨g, hg, rfl⟩ := h
  obtain ⟨hmem, hacc⟩ := List.mem_filter.mp hg
  have hsettable : ∀ r ∈ PageCls.power.rows, r.acc = .rw → r.off ≠ POWER.DOMAIN_STATE_AON.off := by decide
  have hrow := (mem_fieldsAt.mp hmem).1
  obtain ⟨hcls, hplaced, -⟩ := row_homed hrow
  obtain ⟨hpage, hoff⟩ := cellPage_row g.1 hplaced 0 g.2 (copy_small hmem)
  refine ⟨by rw [hpage, hcls]; rfl, fun he => hsettable _ hrow (by simpa using hacc) ?_⟩
  rw [← hoff, he, (cellPage_row POWER.DOMAIN_STATE_AON (by decide) 0 0 (by decide)).2]

/-- A write of a register of POWER, but for CEILING. -/
theorem Chip.regWrite_power {addr off : Nat} (h : c.Open p .power 0) (ha : addr = PageCls.power.base * 4096 + off) (ho : 0x040 ≤ off)
    (ho' : off < 4096) (hne : off ≠ POWER.CEILING_TOKENS.off) (v : Nat) :
    c.regWrite p addr v = (c.plainFields .power 0 off v).ceilingJudge := by
  have hopen : c.sealedAt .power 0 off = false :=
    Chip.sealedAt_open (fun r hr => by rcases powerRows_acc r hr with h | h <;> rw [h] <;> decide) 0 off
  rw [Chip.regWrite_open h ha ho', Chip.portWrite_single ho rfl (by simp [PageCls.isHi, PageCls.isLo, PageCls.loOffsets]), Chip.judgedRegWrite,
    show c.regHeld .power 0 off = false from rfl]
  exact (if_neg hne).trans (congrArg Chip.ceilingJudge (Chip.plainWrite_open hopen v p))

/-- A write of POWER counts nowhere. -/
theorem Chip.meetsRefusal_power {addr off : Nat} (h : c.Open .image .power 0) (ha : addr = PageCls.power.base * 4096 + off) (ho : 0x040 ≤ off)
    (ho' : off < 4096) (hne : off ≠ POWER.CEILING_TOKENS.off) (v : Word) : c.meetsRefusal .image addr (some v) = false := by
  have hpage : addr / 4096 = 1 := by
    have hbase : PageCls.power.base = 1 := rfl
    omega
  have hopen : (c.setHdr HDR.ERRCNT_COUNT 1 0).Open .image .power 0 := by
    obtain ⟨hr, hp, harm, hup, hlight⟩ := h
    have hf : c.Frame [] (· ∈ [HDR.ERRCNT_COUNT.key 1]) (c.setHdr HDR.ERRCNT_COUNT 1 0) := (Chip.Frame.refl c).setHdr _ _ _ (by simp)
    refine ⟨?_, hp, harm, (hf.domUp _ (by decide)).trans hup, ?_⟩
    · rw [Chip.reaches, Chip.mode, hf.fld _ _ _ (by decide), hf.fld GLOBAL.IMAGE_STATUS_STATE 0 0 (by decide)]
      exact hr
    · rw [Chip.pageLight, hf.dom _ (by decide)]
      exact hlight
  rw [Chip.meetsRefusal, hpage, Chip.regAccess, Chip.regWrite_power hopen ha ho ho' hne, Chip.ceilingJudge_eq]
  have hcount : ((c.setHdr HDR.ERRCNT_COUNT 1 0).plainFields .power 0 off v.toNat).hdr HDR.ERRCNT_COUNT 1 = 0 := by
    refine ((Chip.plainFields_frame _ .power 0 off v.toNat []).hdr HDR.ERRCNT_COUNT 1 (hdrKey_not_taken _ (by decide))).trans ?_
    rw [Chip.hdr_setHdr_self]
    rfl
  exact Bool.and_eq_false_iff.mpr (Or.inr (by rw [bne_eq_false_iff_eq]; exact hcount))

/-- A WRITE record of POWER is carried out and counted, and the load goes on or ends. -/
theorem powerRecord_ends {w0 : Word} (w1 : Word) {off : Nat} (h : s.chip.recordDue = true) (hw : bitsOf w0.toNat 27 24 = 0)
    (hopen : s.chip.Open .image .power 0) (ha : bitsOf w0.toNat 23 0 = PageCls.power.base * 4096 + off) (ho : 0x040 ≤ off) (ho' : off < 4096)
    (h4 : off % 4 = 0) (hne : off ≠ POWER.CEILING_TOKENS.off) (hcount : s.chip.fld GLOBAL.IMAGE_STATUS_RECORDS < 65535) :
    Ends (.imageRecord w0 w1) s fun d =>
      (∀ h ∈ s.chip.fieldsAt .power off, h.1.acc = .rw → d.fld h.1 0 h.2 = bitsOf w1.toNat h.1.hi h.1.lo) ∧
      d.fld GLOBAL.IMAGE_STATUS_RECORDS = s.chip.fld GLOBAL.IMAGE_STATUS_RECORDS + 1 ∧
      d.image.crcRun = (s.chip.recordRead w0 w1).image.crcRun ∧
      (s.chip.fld GLOBAL.IMAGE_STATUS_RECORDS + 1 < s.chip.image.count → d.fld GLOBAL.IMAGE_STATUS_STATE = 3) ∧
      (s.chip.image.count ≤ s.chip.fld GLOBAL.IMAGE_STATUS_RECORDS + 1 →
        (s.chip.recordRead w0 w1).image.crcRun ^^^ 0xFFFFFFFF = s.chip.image.crc → s.chip.Loaded d) ∧
      (s.chip.image.count ≤ s.chip.fld GLOBAL.IMAGE_STATUS_RECORDS + 1 →
        ¬ (s.chip.recordRead w0 w1).image.crcRun ^^^ 0xFFFFFFFF = s.chip.image.crc → s.chip.Failed d 6) := by
  obtain ⟨-, hst, -⟩ := recordDue_iff.mp h
  have haddr : bitsOf w0.toNat 23 0 / 4 * 4 = PageCls.power.base * 4096 + off := by omega
  have hopen' : (s.chip.recordRead w0 w1).Open .image .power 0 := ⟨hopen.reaches, hopen.page, hopen.unarmed, hopen.up, hopen.awake⟩
  have hup : (s.chip.recordRead w0 w1).meetsDown (PageCls.power.base * 4096 + off) = false := by
    have hpage : (PageCls.power.base * 4096 + off) / 4096 = PageCls.power.base + 0 := by omega
    rw [Chip.meetsDown, hpage, hopen.page]
    exact (Bool.not_eq_false' ..).mpr hopen.up
  have hgood := Chip.meetsRefusal_power hopen' rfl ho ho' hne w1
  have hwrite := Chip.regWrite_power hopen' rfl ho ho' hne w1.toNat
  have hframe := (s.chip.recordRead w0 w1).plainFields_frame .power 0 off w1.toNat []
  have hfld (g : FieldRow × Nat) (hg : g ∈ (s.chip.recordRead w0 w1).fieldsAt .power off) := Chip.fld_plainFields (n := 0) hg w1.toNat
  have himage : ((s.chip.recordRead w0 w1).plainFields .power 0 off w1.toNat).image = (s.chip.recordRead w0 w1).image := hframe.image (by simp)
  have hcell (r : FieldRow) (hr : r ∈ [GLOBAL.IMAGE_STATUS_STATE, GLOBAL.IMAGE_STATUS_RECORDS]) := hframe.fld r 0 0 fun hk => by
    have hpage : ∀ r ∈ [GLOBAL.IMAGE_STATUS_STATE, GLOBAL.IMAGE_STATUS_RECORDS], cellPage (r.key 0 0) ≠ 1 := by decide
    exact hpage r hr (powerKey_page hk).1
  have hdom := hframe.domUp .aon fun hk => (powerKey_page hk).2 rfl
  refine ends_of_due (exec_imageRecord w0 w1 s) h ?_
  rw [Chip.imageRecord_write w1 hw, haddr]
  generalize (s.chip.recordRead w0 w1).plainFields .power 0 off w1.toNat = e at hwrite hfld himage hcell hdom
  have hst' : e.fld GLOBAL.IMAGE_STATUS_STATE = 3 := (hcell _ (by simp)).trans hst
  have hrec : e.fld GLOBAL.IMAGE_STATUS_RECORDS = s.chip.fld GLOBAL.IMAGE_STATUS_RECORDS := hcell _ (by simp)
  rw [Chip.ceilingJudge_eq] at hwrite
  rw [Chip.recordWrite_good (by rw [hwrite]; exact hst') hup hgood, hwrite]
  generalize hq : ({ e with power := _ } : Chip) = f
  have hf : f.regs = e.regs ∧ f.image = e.image := by rw [← hq]; exact ⟨rfl, rfl⟩
  have hread (r : FieldRow) (i : Nat) : f.fld r 0 i = e.fld r 0 i := by rw [Chip.fld, hf.1, Chip.fld]
  have hcounted := f.recordCounted_frame []
  have hrecs : f.recordCounted.fld GLOBAL.IMAGE_STATUS_RECORDS = s.chip.fld GLOBAL.IMAGE_STATUS_RECORDS + 1 := by
    rw [Chip.recordCounted_records, hread, hrec]
    omega
  have himg : f.recordCounted.image = (s.chip.recordRead w0 w1).image := (hcounted.image (by simp)).trans (hf.2.trans himage)
  have hup : f.recordCounted.domUp .aon = s.chip.domUp .aon :=
    (hcounted.domUp _ (by decide)).trans ((by rw [Chip.domUp, Chip.dom, hread]; rfl : f.domUp .aon = e.domUp .aon).trans hdom)
  obtain ⟨hgo, hdone, hbad⟩ := f.recordCounted.imageFinish_says ((hcounted.fld _ _ _ (by decide)).trans ((hread _ _).trans hst'))
  have hfin := f.recordCounted.imageFinish_frame
  rw [hrecs, himg] at hgo hdone hbad
  refine ⟨fun g hg hacc => ?_, ?_, ?_, fun hr => ?_, fun hr hc => ((hdone hr hc).since hup).ended, fun hr hc => ((hbad hr hc).since hup).ended⟩
  · have hpage : cellPage (g.1.key 0 g.2) = 1 := by
      obtain ⟨hcls, hplaced, -⟩ := row_homed (mem_fieldsAt.mp hg).1
      rw [(cellPage_row g.1 hplaced 0 g.2 (copy_small hg)).1, hcls]
      rfl
    have hno : ∀ k ∈ [GLOBAL.IMAGE_STATUS_STATE.key 0 0, GLOBAL.IMAGE_STATUS_CAUSE.key 0 0, GLOBAL.IMAGE_STATUS_HOLD.key 0 0,
        EV.GLOBAL_IMAGE_DONE.key 0, EV.GLOBAL_IMAGE_ERROR.key 0, GLOBAL.IMAGE_STATUS_RECORDS.key 0 0], cellPage k = 0 := by decide
    have hnot (k : Nat) (hk : cellPage k = 0) : g.1.key 0 g.2 ≠ k := fun he => by rw [he, hk] at hpage; exact absurd hpage (by decide)
    rw [Chip.ended_fld _ _ _ _ _ (powerKey_not_level (mem_fieldsAt.mp hg).1 hacc (copy_small hg)),
      hfin.fld _ _ _ fun hk => hnot _ (hno _ (List.mem_append_left [GLOBAL.IMAGE_STATUS_RECORDS.key 0 0] hk)) rfl,
      hcounted.fld _ _ _ fun hk => hnot _ (hno _ (List.mem_append_right [GLOBAL.IMAGE_STATUS_STATE.key 0 0, GLOBAL.IMAGE_STATUS_CAUSE.key 0 0,
        GLOBAL.IMAGE_STATUS_HOLD.key 0 0, EV.GLOBAL_IMAGE_DONE.key 0, EV.GLOBAL_IMAGE_ERROR.key 0] hk)) rfl, hread]
    refine (hfld g hg).trans ?_
    rw [Chip.written, hacc]
  · rw [Chip.ended_fld _ _ _ _ _ (by decide), hfin.fld _ _ _ (by decide), hrecs]
  · rw [Chip.ended_image, f.recordCounted.imageFinish_crcRun.1, himg]
  · rw [Chip.ended_fld _ _ _ _ _ (by decide)]
    exact hgo hr

/-! ### A WRITE of SLEEP -/

/-- Leaving ACQUIRE while the image is applied ends its load. -/
theorem Chip.setMode_loadLeft {m : Nat} (hm : c.mode = mACQUIRE) (hst : c.imSt = 3) (hne : m ≠ mACQUIRE) :
    c.Failed (c.setMode m) 7 ∧ (c.setMode m).fld GLOBAL.IMAGE_STATUS_HOLD = 0 ∧
      (c.setMode m).fld GLOBAL.IMAGE_STATUS_RECORDS = c.fld GLOBAL.IMAGE_STATUS_RECORDS := by
  have hset : c.Frame [] (· ∈ [GLOBAL.MODE_PREV_MODE.key 0 0, GLOBAL.MODE_MODE.key 0 0, EV.GLOBAL_MODE_CHANGE.key 0, GLOBAL.MODE_RUN_ARMED.key 0 0])
      ((c.modeSet m).setFld GLOBAL.MODE_RUN_ARMED 0) :=
    ((((Chip.Frame.refl c).setFld _ _ _ _ (by simp)).setFld _ _ _ _ (by simp)).raise _ _ (by simp)).setFld _ _ _ _ (by simp)
  have hleft : (c.modeSet m).acquireLeft c.mode =
      (((c.modeSet m).setFld GLOBAL.MODE_RUN_ARMED 0).imageError 7).setFld GLOBAL.IMAGE_STATUS_HOLD 0 := by
    rw [Chip.acquireLeft, if_pos hm]
    exact if_pos ((hset.fld GLOBAL.IMAGE_STATUS_STATE 0 0 (by decide)).trans hst)
  rw [Chip.setMode_eq (by rw [hm]; exact Ne.symm hne), hleft]
  generalize (c.modeSet m).setFld GLOBAL.MODE_RUN_ARMED 0 = e at hset
  obtain ⟨hstate, hcause, htell⟩ := e.imageError_failed (k := 7) (by decide)
  have herr := e.imageError_frame 7
  generalize e.imageError 7 = f at herr hstate hcause htell
  have hhold : f.Frame [] (· ∈ [GLOBAL.IMAGE_STATUS_HOLD.key 0 0]) (f.setFld GLOBAL.IMAGE_STATUS_HOLD 0) :=
    (Chip.Frame.refl f).setFld _ _ _ _ (by simp)
  have hself : (f.setFld GLOBAL.IMAGE_STATUS_HOLD 0).fld GLOBAL.IMAGE_STATUS_HOLD = 0 := f.fld_setFld_self _ _ _ _
  generalize f.setFld GLOBAL.IMAGE_STATUS_HOLD 0 = g at hhold hself
  have hwhole := g.stepWhole_frame (fun _ => False)
  have hseven := g.stepWhole.c7EvalAll_frame
  have hread (r : FieldRow) (hr : r ∈ [GLOBAL.IMAGE_STATUS_STATE, GLOBAL.IMAGE_STATUS_CAUSE, GLOBAL.IMAGE_STATUS_HOLD, GLOBAL.IMAGE_STATUS_RECORDS]) :
      g.stepWhole.c7EvalAll.fld r = g.fld r := by
    refine (hseven.fld r 0 0 ?_).trans (hwhole.fld _ _ _ id)
    simp only [List.mem_cons, List.not_mem_nil, or_false] at hr
    rcases hr with rfl | rfl | rfl | rfl <;> exact not_touched (by decide) 0 0 (by decide) (by decide)
  refine ⟨⟨?_, ?_, fun hup => ?_⟩, ?_, ?_⟩
  · rw [hread _ (by simp), hhold.fld _ _ _ (by decide), hstate]
  · rw [hread _ (by simp), hhold.fld _ _ _ (by decide), hcause]
  · rw [hseven.raised_apart _ (by decide) (by decide), hwhole.raised _ _ id, hhold.raised _ _ (by decide)]
    exact htell ((hset.domUp _ (by decide)).trans hup)
  · rw [hread _ (by simp), hself]
  · rw [hread _ (by simp), hhold.fld _ _ _ (by decide), herr.fld _ _ _ (by decide), hset.fld _ _ _ (by decide)]

/-- The sleep of the part leaves what is told of the load. -/
theorem Chip.slept_load (h : c.Failed d k) : c.Failed d.slept k ∧ d.slept.fld GLOBAL.IMAGE_STATUS_HOLD = d.fld GLOBAL.IMAGE_STATUS_HOLD ∧
    d.slept.fld GLOBAL.IMAGE_STATUS_RECORDS = d.fld GLOBAL.IMAGE_STATUS_RECORDS ∧ d.slept.mode = d.mode := by
  obtain ⟨hst, hcause, htell⟩ := h
  have hf := d.slept_frame
  refine ⟨⟨?_, ?_, fun hup => ?_⟩, ?_, ?_, ?_⟩
  · rw [hf.fld _ _ _ (not_segTouched (by decide) (by decide) (by decide)), hst]
  · rw [hf.fld _ _ _ (not_segTouched (by decide) (by decide) (by decide)), hcause]
  · rw [hf.raised _ _ (globalEvent_not_segTouched rfl (by decide))]
    exact htell hup
  · exact hf.fld _ _ _ (not_segTouched (by decide) (by decide) (by decide))
  · exact hf.fld _ _ _ (not_segTouched (by decide) (by decide) (by decide))
  · exact hf.fld _ _ _ (not_segTouched (by decide) (by decide) (by decide))

/-- A WRITE of SLEEP leaves ACQUIRE, which ends the load, and counts. -/
theorem sleepRecord_ends {w0 : Word} {w1 : Word} (h : s.chip.recordDue = true) (hw0 : w0.toNat = GLOBAL.MODE_CMD_KEY.off)
    (hw1 : w1.toNat = 0x4D440001) (hopen : s.chip.Open .image .global 0) (hsafe : s.chip.safeDue = false) (hmay : s.chip.maySleep = true) :
    Ends (.imageRecord w0 w1) s fun d => d.mode = mSTANDBY ∧ s.chip.Failed d 7 ∧ d.fld GLOBAL.IMAGE_STATUS_HOLD = 0 ∧
      d.fld GLOBAL.IMAGE_STATUS_RECORDS = (s.chip.fld GLOBAL.IMAGE_STATUS_RECORDS + 1) % 65536 := by
  obtain ⟨hm, hst, -⟩ := recordDue_iff.mp h
  have hcode : bitsOf w0.toNat 27 24 = 0 ∧ bitsOf w0.toNat 23 0 / 4 * 4 = 0x48 := by rw [hw0]; decide
  have hopen' : (s.chip.recordRead w0 w1).Open .image .global 0 := ⟨hopen.reaches, hopen.page, hopen.unarmed, hopen.up, hopen.awake⟩
  have hrow : (s.chip.recordRead w0 w1).modeRow 0x1 Chip.deviceResetFree = some (s.chip.recordRead w0 w1).enterStandby := by
    have hmay' : (((s.chip.recordRead w0 w1).mode = mACQUIRE ∨ (s.chip.recordRead w0 w1).running) ∧ (s.chip.recordRead w0 w1).maySleep) ∨
        ((s.chip.recordRead w0 w1).mode = mSAFE ∧ (s.chip.recordRead w0 w1).safeCause = 0) := Or.inl ⟨Or.inl hm, hmay⟩
    rw [Chip.modeRow, if_neg (by decide), if_neg (by decide), if_neg (by rw [show (s.chip.recordRead w0 w1).safeDue = false from hsafe]; decide),
      if_pos rfl, if_pos hmay']
  have hwrite : (s.chip.recordRead w0 w1).regWrite .image 0x48 w1.toNat = ((s.chip.recordRead w0 w1).sleepNoted.setMode mSTANDBY).slept := by
    rw [Chip.regWrite_modeCmd hopen', hw1, Chip.modeCmd_row _ _ (by decide) (by exact hrow), Chip.enterStandby_eq]
  have hmode : (s.chip.recordRead w0 w1).sleepNoted.mode = mACQUIRE := hm
  obtain ⟨hfail, hhold, hrec⟩ := Chip.setMode_loadLeft (m := mSTANDBY) hmode hst (by decide)
  obtain ⟨hstandby, -, -⟩ := Chip.setMode_reads (c := (s.chip.recordRead w0 w1).sleepNoted) (m := mSTANDBY) (by rw [hmode]; decide) (by decide)
    (by rw [hmode]; decide)
  obtain ⟨hfail, hhold', hrec', hstandby'⟩ := Chip.slept_load hfail
  refine ends_of_due (exec_imageRecord w0 w1 s) h ?_
  rw [Chip.imageRecord_write w1 hcode.1, hcode.2, Chip.recordWrite_left (by rw [hwrite]; exact hfail.1), hwrite]
  generalize ((s.chip.recordRead w0 w1).sleepNoted.setMode mSTANDBY).slept = e at hfail hhold' hrec' hstandby'
  have hcounted := e.recordCounted_frame []
  obtain ⟨hstate, hcause, htell⟩ := hfail
  refine ⟨?_, ⟨?_, ?_, fun hup => ?_⟩, ?_, ?_⟩
  · rw [Chip.mode, Chip.ended_fld _ _ _ _ _ (by decide), hcounted.fld _ _ _ (by decide)]
    exact hstandby'.trans hstandby
  · rw [Chip.ended_fld _ _ _ _ _ (by decide), hcounted.fld _ _ _ (by decide), hstate]
  · rw [Chip.ended_fld _ _ _ _ _ (by decide), hcounted.fld _ _ _ (by decide), hcause]
  · rw [Chip.ended_raised _ _ _ _ (by decide), hcounted.raised _ _ (by decide)]
    exact htell hup
  · rw [Chip.ended_fld _ _ _ _ _ (by decide), hcounted.fld _ _ _ (by decide), hhold', hhold]
  · rw [Chip.ended_fld _ _ _ _ _ (by decide), Chip.recordCounted_records, hrec', hrec]
    rfl

/-! ### IMAGE_CMD -/

theorem Chip.imageCmd_retry {v : Nat} (hkey : bitsOf v 31 16 = 0x494D) (hv : v % 4 = 1) (hst : c.imSt = 5)
    (hm : c.mode = mSTANDBY ∨ c.mode = mACQUIRE) : c.imageCmd p v = c.pass1Start := by
  have h0 : bitsOf v 0 0 = 1 := by simp only [bitsOf_eq, Nat.reduceSub, Nat.reduceAdd, Nat.reducePow]; omega
  have h1 : bitsOf v 1 1 = 0 := by simp only [bitsOf_eq, Nat.reduceSub, Nat.reduceAdd, Nat.reducePow]; omega
  have hmode : (c.mode == mSTANDBY || c.mode == mACQUIRE) = true := by simpa using hm
  simp [Chip.imageCmd, hkey, h0, h1, hst, hmode]

theorem Chip.imageCmd_release {v : Nat} (hkey : bitsOf v 31 16 = 0x494D) (hv : v % 4 = 2) (hst : c.imSt = 5)
    (hhold : c.on GLOBAL.IMAGE_STATUS_HOLD = true) : c.imageCmd p v = c.setFld GLOBAL.IMAGE_STATUS_HOLD 0 := by
  have h0 : bitsOf v 0 0 = 0 := by simp only [bitsOf_eq, Nat.reduceSub, Nat.reduceAdd, Nat.reducePow]; omega
  have h1 : bitsOf v 1 1 = 1 := by simp only [bitsOf_eq, Nat.reduceSub, Nat.reduceAdd, Nat.reducePow]; omega
  simp [Chip.imageCmd, hkey, h0, h1, hst, hhold]

theorem Chip.imageCmd_refused {v : Nat} (h : bitsOf v 31 16 ≠ 0x494D ∨ c.imSt ≠ 5) : c.imageCmd p v = c.refuse GLOBAL.IMAGE_CMD_KEY p := by
  rcases h with h | h <;> simp [Chip.imageCmd, h]

theorem Chip.pass1Start_reads (c : Chip) : c.pass1Start.fld GLOBAL.IMAGE_STATUS_STATE = 1 ∧ c.pass1Start.fld GLOBAL.IMAGE_STATUS_CAUSE = 0 ∧
    c.pass1Start.fld GLOBAL.IMAGE_STATUS_RECORDS = 0 := by
  refine ⟨?_, ?_, ?_⟩
  · rw [Chip.pass1Start, Chip.fld_setFld_ne _ _ _ _ _ _ _ _ (by decide), Chip.fld_setFld_ne _ _ _ _ _ _ _ _ (by decide), Chip.setIm,
      Chip.fld_setFld_self]
    rfl
  · rw [Chip.pass1Start, Chip.fld_setFld_ne _ _ _ _ _ _ _ _ (by decide), Chip.fld_setFld_self]
    rfl
  · rw [Chip.pass1Start, Chip.fld_setFld_self]
    rfl

/-- A write of IMAGE_CMD that is refused is counted. -/
theorem imageCmd_counted {i : Instr} {v : Word} (h : exec i s = run (fun c => c.accessField p GLOBAL.IMAGE_CMD_KEY 0 fun d => d.imageCmd p v.toNat) s)
    (hopen : s.chip.Open p .global 0) (hno : bitsOf v.toNat 31 16 ≠ 0x494D ∨ s.chip.imSt ≠ 5) :
    SetsRegs i s (errKeys 0) fun d => s.chip.Counted d 0 GLOBAL.IMAGE_CMD_KEY.off p :=
  setsRegs_of_access_counted h hopen (Chip.imageCmd_refused hno) (by decide)

/-- Settles O59: pass by pass, a record by what it is and where it goes, and IMAGE_CMD by its bits. -/
theorem imageLoads : Obligations.ImageLoads := by
  unfold Obligations.ImageLoads
  intro s p octets w0 w1 v
  extract_lets c st k failed due2 takes crc count done good ended key refused
  have htakes : takes → c.recordDue = true := fun h => recordDue_iff.mpr h
  refine ⟨fun h => pass1Done_ends octets h, fun h => ?_, fun h => pass2Start_becomes octets (pass2Due_iff.mpr h), fun h => ?_, fun h hw => ?_,
    fun off h hw hopen ha ho ho' h4 hne hc => powerRecord_ends w1 (htakes h) hw hopen ha ho ho' h4 hne hc,
    fun h hw hd => downRecord_ends w1 (htakes h) hw hd,
    fun h hw0 hw1 hopen hsafe hmay => sleepRecord_ends (htakes h) hw0 hw1 hopen hsafe hmay, fun h => ?_,
    fun h => waitExpiry_ends (waitOver_iff.mpr h), fun h => ?_, fun hopen => ⟨fun hk hv hst hm => ?_, fun hk hv hst hhold => ?_, fun h => ?_⟩⟩
  · exact idles_of_not_due (exec_imagePass1Done octets s) (beq_false_of_ne h)
  · exact idles_of_not_due (exec_imagePass2Start octets s) (Bool.eq_false_iff.mpr fun hd => h (pass2Due_iff.mp hd))
  · exact waitRecord_becomes w1 (htakes h) hw
  · exact idles_of_not_due (exec_imageRecord w0 w1 s) (Bool.eq_false_iff.mpr fun hd => h (recordDue_iff.mp hd))
  · exact idles_of_not_due (exec_imageWaitExpiry s) (Bool.eq_false_iff.mpr fun hd => h (waitOver_iff.mp hd))
  · have hcmd := Chip.imageCmd_retry (p := p) hk hv hst hm
    obtain ⟨h1, h2, h3⟩ := s.chip.pass1Start_reads
    refine becomes_of_access (exec_imageRetry p v s) hopen ?_ ⟨?_, ?_, ?_⟩
    · rw [hcmd]
      exact (((Chip.Frame.refl _).setFld _ _ _ _ (by simp)).setFld _ _ _ _ (by simp)).setFld _ _ _ _ (by simp)
    · rw [Chip.ended_fld _ _ _ _ _ (by decide), hcmd, h1]
    · rw [Chip.ended_fld _ _ _ _ _ (by decide), hcmd, h2]
    · rw [Chip.ended_fld _ _ _ _ _ (by decide), hcmd, h3]
  · have hcmd := Chip.imageCmd_release (p := p) hk hv hst ((Chip.on_iff _).mpr hhold)
    refine becomes_of_access (exec_imageRelease p v s) hopen ?_ ?_
    · rw [hcmd]
      exact (Chip.Frame.refl _).setFld _ _ _ _ (by simp)
    · rw [Chip.ended_fld _ _ _ _ _ (by decide), hcmd, Chip.fld_setFld_self]
      rfl
  · exact ⟨imageCmd_counted (exec_imageRetry p v s) hopen h, imageCmd_counted (exec_imageRelease p v s) hopen h⟩

end

end Sys2Proof.Machine
end

section
/-!
PROOF. O58 fails. The statement speaks of every state, so also of one whose host queues hold a tag beyond the tags of the ledger. The state
of that tag then stands in a cell of another page: here in the event word of the DISTAFF page. A write of the Tally window that clears the
word makes the host queues quiescent, which raises an event of another source.
-/
namespace Sys2Proof.Machine

/-- The tag whose state stands in the event word of the DISTAFF page. -/
def tagAtDistaffEvents : Nat := evtKey PageCls.distaff.base - HOSTQ.LEDGER_ENTRY0_STATE.key 0 0

/-- One queue holds the tag; the event of bit 0 of DISTAFF is raised, so the tag does not read quiescent. -/
def quietsByEvent : Chip :=
  let c : Chip := { ({} : Chip) with hostq := { ({} : Chip).hostq with live := [(0, [tagAtDistaffEvents])], allQ := false } }
  (c.setFld (Domain.row .host) domON).setHdr HDR.EVT PageCls.distaff.base 1

/-- The source of the event that all queues are quiescent; it stands in word 26. -/
def quiescentSource : TallySrc := .evt PageCls.hostq.base EV.HOSTQ_ALL_QUIESCENT.bit

theorem quietsByEvent_facts : quietsByEvent.hostq.allQ = quietsByEvent.allQuiescent ∧ quietsByEvent.srcEvt quiescentSource = false ∧
    (quietsByEvent.ended (quietsByEvent.tallyClear 30 1)).srcEvt quiescentSource = true := by decide +kernel

theorem quietsByEvent_open : quietsByEvent.Open .spi .tally 0 := ⟨by decide, by decide, by decide, by decide, by decide⟩

theorem quiescentSource_word : (EV.HOSTQ_ALL_QUIESCENT.bit, quiescentSource) ∈ wordSrcs 26 ∧ quiescentSource ∉ (wordSrcs 30).map (·.2) := by decide

/-- As the statement has it, a write of a word leaves the sources of the other words alone. -/
theorem srcEvt_of_tallyAndMirror (h : Obligations.TallyAndMirror) (s : State) (hopen : s.chip.Open .spi .tally 0)
    (hq : s.chip.hostq.allQ = s.chip.allQuiescent) :
    (s.chip.ended (s.chip.tallyClear 30 1)).srcEvt quiescentSource = s.chip.srcEvt quiescentSource := by
  unfold Obligations.TallyAndMirror at h
  obtain ⟨hwindow, -⟩ := h s .spi 30 1 0
  obtain ⟨hclear, -⟩ := hwindow hopen
  obtain ⟨t, hexec, hpending, -, -, hothers⟩ := hclear hq
  obtain ⟨hin, hout⟩ := quiescentSource_word
  have hends : Ends (.tallyWordClear .spi 30 1) s fun d => d.srcEvt quiescentSource = s.chip.srcEvt quiescentSource :=
    ⟨t, hexec, hpending, hothers 26 _ (by decide) hin hout⟩
  have hkept := ok_of_ends (f := fun c => c.accessField .spi TALLY.WORD_SOURCES 0 fun d => d.tallyClear 30 1) rfl hends
  rw [s.chip.accessField_open (r := TALLY.WORD_SOURCES) hopen] at hkept
  exact hkept

/-- Refutes O58: a write of a Tally word can raise an event of another word's source. -/
theorem not_tallyAndMirror : ¬ Obligations.TallyAndMirror := fun h => by
  obtain ⟨hq, hbefore, hafter⟩ := quietsByEvent_facts
  have hkept := srcEvt_of_tallyAndMirror h { chip := quietsByEvent } quietsByEvent_open hq
  rw [hbefore, hafter] at hkept
  exact absurd hkept (by decide)

end Sys2Proof.Machine
end

section
/-!
PROOF. An uplink's record, and what it has in flight as it leaves UP.
-/
namespace Sys2Proof.Machine

section
variable {a c d : Chip} {n : Nat} {q r : FieldRow} {u : Uplink}

theorem Chip.upl_congr (h : d.uplinks = c.uplinks) : d.upl n = c.upl n := by rw [Chip.upl, h, Chip.upl]

theorem Chip.upl_setUpl_self : (c.setUpl n u).upl n = u := Tab.get_put_self _ _ _ _

theorem Chip.upl_updUpl_self (f : Uplink → Uplink) : (c.updUpl n f).upl n = f (c.upl n) := Chip.upl_setUpl_self

theorem Chip.upl_bump (r : FieldRow) (m : Nat) : (c.bump r m).upl n = c.upl n := rfl

/-! ### Frames cut on the wire (R200) -/

/-- What the fate of a copy may change. -/
def copyParts : List Part := [.buffer, .txOps, .hostq, .hank, .distaff]

def copySpots : List Spot := [.evt .reel, .one DISTAFF.ITEMS_OUT_COUNT, .one HANK.TX_MSGS_COUNT, .many HOSTQ.LEDGER_ENTRY0_FROZEN,
  .many HOSTQ.LEDGER_ENTRY0_STATE, .many HOSTQ.LEDGER_ENTRY0_STATUS, .many HOSTQ.LEDGER_ENTRY1_PROGRESS, .one HOSTQ.PARTIALS_COUNT,
  .one REELGATE.XOFF_COUNT_COUNT]

theorem Chip.copyFate_frame (c : Chip) (p : Packet) (whole : Bool) (status detail : Nat) :
    c.Frame copyParts (Touched copySpots) (c.copyFate p whole status detail) :=
  Chip.away_eq_iff.mp (Chip.away_copyFate (List.Subset.refl _) (List.Subset.refl _))

/-- A frame on the wire, if any, is cut. -/
def Chip.txCut (c : Chip) (n : Nat) (t : Option UplTx) : Chip :=
  match t with
  | some t => (c.bump UPLINK.TX_LINK_ABORT_COUNT n).copyFate t.pkt false csLINKABORT 0
  | none => c

/-- The MAC's own pause frame, if any, is cut. -/
def Chip.ctrlCut (c : Chip) (n : Nat) (some : Bool) : Chip := if some then c.bump UPLINK.TX_LINK_ABORT_COUNT n else c

theorem Chip.cutTx_eq : c.cutTx n = (((c.setUpl n { c.upl n with cur := none, cont := none, ctrl := none, responds := 0 }).ctrlCut n
    (c.upl n).ctrl.isSome).txCut n (c.upl n).cur).txCut n (c.upl n).cont := rfl

def cutSpots : List Spot := .one UPLINK.TX_LINK_ABORT_COUNT :: copySpots

theorem Chip.txCut_frame (hn : n < 4) (t : Option UplTx) : c.Frame copyParts (Touched cutSpots) (c.txCut n t) := by
  cases t with
  | none => exact .refl c
  | some t =>
    exact ((Chip.Frame.refl c).bump UPLINK.TX_LINK_ABORT_COUNT n 0 (cells_one (by decide) hn)).andThen (Chip.copyFate_frame _ _ _ _ _)
      (List.Subset.refl _) fun k hk => Touched.mono (List.subset_cons_self _ _) k hk

theorem Chip.ctrlCut_frame (hn : n < 4) (b : Bool) : c.Frame copyParts (Touched cutSpots) (c.ctrlCut n b) :=
  Chip.Frame.ite (fun _ => (Chip.Frame.refl c).bump _ n 0 (cells_one (by decide) hn)) fun _ => .refl c

theorem Chip.txCut_aborts (hn : n < 4) (t : Option UplTx) : (c.txCut n t).fld UPLINK.TX_LINK_ABORT_COUNT n =
    if t.isSome then min (c.fld UPLINK.TX_LINK_ABORT_COUNT n + 1) (2 ^ 32 - 1) else c.fld UPLINK.TX_LINK_ABORT_COUNT n := by
  cases t with
  | none => rfl
  | some t =>
    exact ((Chip.copyFate_frame _ _ _ _ _).fld_apart UPLINK.TX_LINK_ABORT_COUNT n 0 (by decide) hn (by decide)).trans
      (Chip.fld_bump_self _ _ _ _)

theorem Chip.ctrlCut_aborts (b : Bool) : (c.ctrlCut n b).fld UPLINK.TX_LINK_ABORT_COUNT n =
    if b then min (c.fld UPLINK.TX_LINK_ABORT_COUNT n + 1) (2 ^ 32 - 1) else c.fld UPLINK.TX_LINK_ABORT_COUNT n := by
  cases b with
  | false => rfl
  | true => exact Chip.fld_bump_self _ _ _ _

/-- How many frames of uplink `n` are in flight. -/
def Chip.inFlight (c : Chip) (n : Nat) : Nat :=
  (if (c.upl n).cur.isSome then 1 else 0) + (if (c.upl n).cont.isSome then 1 else 0) + (if (c.upl n).ctrl.isSome then 1 else 0)

theorem Chip.uplinkCut_says (hn : n < 4) : c.Frame (.uplinks :: copyParts) (Touched cutSpots) (c.cutTx n) ∧
    (c.cutTx n).upl n = { c.upl n with cur := none, cont := none, ctrl := none, responds := 0 } ∧
    (0 < c.inFlight n → c.Counts (c.cutTx n) UPLINK.TX_LINK_ABORT_COUNT n (c.inFlight n)) := by
  have hu : (c.setUpl n { c.upl n with cur := none, cont := none, ctrl := none, responds := 0 }).upl n =
      { c.upl n with cur := none, cont := none, ctrl := none, responds := 0 } := Chip.upl_setUpl_self
  have hset : c.Frame (.uplinks :: copyParts) (Touched cutSpots)
      (c.setUpl n { c.upl n with cur := none, cont := none, ctrl := none, responds := 0 }) :=
    (Chip.Frame.refl c).withUplinks _ List.mem_cons_self
  have habort : (c.setUpl n { c.upl n with cur := none, cont := none, ctrl := none, responds := 0 }).fld UPLINK.TX_LINK_ABORT_COUNT n =
      c.fld UPLINK.TX_LINK_ABORT_COUNT n := rfl
  rw [Chip.cutTx_eq]
  generalize c.setUpl n { c.upl n with cur := none, cont := none, ctrl := none, responds := 0 } = e at hu hset habort
  have h1 := e.ctrlCut_frame hn (c.upl n).ctrl.isSome
  have h2 := (e.ctrlCut n (c.upl n).ctrl.isSome).txCut_frame hn (c.upl n).cur
  have h3 := ((e.ctrlCut n (c.upl n).ctrl.isSome).txCut n (c.upl n).cur).txCut_frame hn (c.upl n).cont
  refine ⟨((hset.andThen h1 (List.subset_cons_self _ _) fun _ h => h).andThen h2 (List.subset_cons_self _ _) fun _ h => h).andThen h3
    (List.subset_cons_self _ _) fun _ h => h, ?_, fun hpos => ?_⟩
  · rw [Chip.upl_congr ((h1.trans (h2.trans h3)).uplinks (by decide)), hu]
  · rw [Chip.Counts, Chip.txCut_aborts hn, Chip.txCut_aborts hn, Chip.ctrlCut_aborts, habort, show UPLINK.TX_LINK_ABORT_COUNT.width = 32 from rfl]
    unfold Chip.inFlight at hpos ⊢
    split_ifs at hpos ⊢ <;> omega

/-! ### What else leaving UP does (R203, R210, R273) -/

theorem Chip.reasmDrop_says (hn : n < 4) : c.Frame [.uplinks] (Touched [.evt .uplink, .one UPLINK.RX_ASSY_ERR_COUNT]) (c.reasmDrop n) ∧
    (c.reasmDrop n).upl n = { c.upl n with reasm := none } := by
  refine ⟨Chip.away_eq_iff.mp (Chip.away_reasmDrop (List.Subset.refl _) (List.Subset.refl _) hn), ?_⟩
  unfold Chip.reasmDrop
  split
  · rw [Chip.upl_congr (Chip.raise_uplinks _ _ _), Chip.upl_bump, Chip.upl_updUpl_self]
  · next h => rw [← h]

theorem Chip.rxCutOff_says (hn : n < 4) : c.Frame [.uplinks] (Touched [.evt .uplink, .one UPLINK.RX_CODE_ERR_COUNT]) (c.rxCutOff n) ∧
    (c.rxCutOff n).upl n = { c.upl n with rxCut := none } ∧ c.Counts (c.rxCutOff n) UPLINK.RX_CODE_ERR_COUNT n ∧
    c.Tells (c.rxCutOff n) EV.UPLINK_RX_ERROR n := by
  have hset : c.Frame [.uplinks] (Touched [.one UPLINK.RX_CODE_ERR_COUNT])
      ((c.updUpl n fun u => { u with rxCut := none }).bump UPLINK.RX_CODE_ERR_COUNT n) :=
    ((Chip.Frame.refl c).withUplinks _ List.mem_cons_self).bump _ n 0 (cells_one (by decide) hn)
  refine ⟨Chip.away_eq_iff.mp (Chip.away_rxCutOff (List.Subset.refl _) (List.Subset.refl _) hn), ?_, ?_, ?_⟩
  · rw [Chip.rxCutOff, Chip.upl_congr (Chip.raise_uplinks _ _ _), Chip.upl_bump, Chip.upl_updUpl_self]
  · exact (Chip.fld_raise_apart (e := EV.UPLINK_RX_ERROR) (by decide) hn hn (by decide)).trans (Chip.fld_bump_self _ _ _ _)
  · exact hset.tells_raise _ _ (by decide) (not_touched (by decide) 0 0 (by decide) (by decide))

/-- The two records differ in the note of the flush only. -/
def Uplink.SameLine (u w : Uplink) : Prop := ∃ x, w = { u with flushed := x }

theorem Uplink.SameLine.trans {u w z : Uplink} (h : u.SameLine w) (h' : w.SameLine z) : u.SameLine z := by
  obtain ⟨x, rfl⟩ := h
  obtain ⟨y, rfl⟩ := h'
  exact ⟨y, rfl⟩

theorem Chip.flushDrop_upl (p : Packet) : (c.upl n).SameLine ((c.flushDrop n p).upl n) := by
  unfold Chip.flushDrop
  extract_lets c1 c2
  have h1 : c1.upl n = c.upl n := rfl
  have h2 : (c1.upl n).SameLine (c2.upl n) := by
    show (c1.upl n).SameLine (Chip.upl (if _ then _ else _) n)
    split
    · exact ⟨_, rfl⟩
    · refine ⟨true, ?_⟩
      rw [Chip.upl_congr (Chip.raise_uplinks _ _ _)]
      exact Chip.upl_updUpl_self _
  rw [Chip.upl_congr ((c2.copyFate_frame p false csLINKABORT 0).uplinks (by decide))]
  exact h1 ▸ h2

theorem foldl_sameLine {α : Type} {f : Chip → α → Chip} {l : List α} (hf : ∀ d, ∀ x ∈ l, (Chip.upl d n).SameLine ((f d x).upl n)) (c : Chip) :
    (c.upl n).SameLine ((l.foldl f c).upl n) := by
  induction l generalizing c with
  | nil => exact ⟨_, rfl⟩
  | cons x l ih => exact (hf c x (by simp)).trans (ih (fun d y hy => hf d y (by simp [hy])) _)

theorem Chip.flushQueues_upl : (c.upl n).SameLine ((c.flushQueues n).upl n) := by
  unfold Chip.flushQueues
  split
  · exact ⟨_, rfl⟩
  · refine foldl_sameLine (fun d k _ => ?_) c
    exact foldl_sameLine (c := d.setQueue n k []) fun e p _ => Chip.flushDrop_upl p

def flushSpots : List Spot := .one REELGATE.LINK_FLUSH_COUNT :: copySpots

theorem Chip.flushQueues_frame (hn : n < 4) : c.Frame (.reel :: .uplinks :: copyParts) (Touched flushSpots) (c.flushQueues n) :=
  Chip.away_eq_iff.mp (Chip.away_flushQueues (by decide) (by decide) hn)

/-- What leaving UP may change. -/
def leaveParts : List Part := .reel :: .uplinks :: copyParts

def leaveSpots : List Spot := [.evt .uplink, .one UPLINK.LINK_DOWNS_COUNT, .one UPLINK.RX_ASSY_ERR_COUNT, .one UPLINK.RX_CODE_ERR_COUNT,
  .one UPLINK.TX_LINK_ABORT_COUNT, .one REELGATE.LINK_FLUSH_COUNT] ++ copySpots

theorem Chip.leaveUp_frame (hn : n < 4) (b : Option Bool) : c.Frame leaveParts (Touched leaveSpots) (c.leaveUp n b) :=
  Chip.away_eq_iff.mp (Chip.away_leaveUp (by decide) (by decide) hn)

/-- What was in flight is gone, and both counts. -/
structure Chip.LeftUp (c d : Chip) (n : Nat) : Prop where
  cur : (d.upl n).cur = none
  cont : (d.upl n).cont = none
  ctrl : (d.upl n).ctrl = none
  reasm : (d.upl n).reasm = none
  downs : c.Counts d UPLINK.LINK_DOWNS_COUNT n
  aborts : 0 < c.inFlight n → c.Counts d UPLINK.TX_LINK_ABORT_COUNT n (c.inFlight n)

/-- The reception in progress as UP is left: it fails now, or at its own end, or there is none. -/
def Chip.rxLeft (c : Chip) (n : Nat) : Option Bool → Chip
  | some true => c.rxCutOff n
  | some false => c
  | none => c.updUpl n fun u => { u with rxCut := some c.now }

theorem Chip.leaveUp_eq (b : Option Bool) :
    c.leaveUp n b = ((((c.cutTx n).reasmDrop n).bump UPLINK.LINK_DOWNS_COUNT n).rxLeft n b).flushQueues n := by
  unfold Chip.leaveUp Chip.rxLeft
  rcases b with - | (- | -) <;> rfl

theorem Chip.rxLeft_frame (hn : n < 4) (b : Option Bool) :
    c.Frame [.uplinks] (Touched [.evt .uplink, .one UPLINK.RX_CODE_ERR_COUNT]) (c.rxLeft n b) := by
  rcases b with - | (- | -)
  · exact (Chip.Frame.refl c).withUplinks _ List.mem_cons_self
  · exact .refl c
  · exact (Chip.rxCutOff_says hn).1

theorem Chip.rxLeft_upl (hn : n < 4) (b : Option Bool) : ∃ x, (c.rxLeft n b).upl n = { c.upl n with rxCut := x } ∧ (b = none → x = some c.now) := by
  rcases b with - | (- | -)
  · exact ⟨_, Chip.upl_updUpl_self _, fun _ => rfl⟩
  · exact ⟨_, rfl, fun h => absurd h (by decide)⟩
  · exact ⟨_, (Chip.rxCutOff_says hn).2.1, fun h => absurd h (by decide)⟩

/-- How UP is left, whatever the cause. -/
theorem Chip.leaveUp_says (hn : n < 4) (b : Option Bool) : c.LeftUp (c.leaveUp n b) n ∧
    (b = none → ((c.leaveUp n b).upl n).rxCut = some c.now) ∧
    (b = some true → c.Counts (c.leaveUp n b) UPLINK.RX_CODE_ERR_COUNT n ∧ c.Tells (c.leaveUp n b) EV.UPLINK_RX_ERROR n) := by
  rw [Chip.leaveUp_eq]
  obtain ⟨hcut, hcutu, haborts⟩ := Chip.uplinkCut_says (c := c) hn
  generalize c.cutTx n = c1 at hcut hcutu haborts
  obtain ⟨hreasm, hreasmu⟩ := Chip.reasmDrop_says (c := c1) hn
  generalize c1.reasmDrop n = c2 at hreasm hreasmu
  have hbump : c2.Frame [] (Touched [.one UPLINK.LINK_DOWNS_COUNT]) (c2.bump UPLINK.LINK_DOWNS_COUNT n) :=
    (Chip.Frame.refl c2).bump _ n 0 (cells_one (by decide) hn)
  have hdowns : (c2.bump UPLINK.LINK_DOWNS_COUNT n).fld UPLINK.LINK_DOWNS_COUNT n = min (c2.fld UPLINK.LINK_DOWNS_COUNT n + 1) (2 ^ 32 - 1) :=
    Chip.fld_bump_self _ _ _ _
  have hbumpu : (c2.bump UPLINK.LINK_DOWNS_COUNT n).upl n = c2.upl n := rfl
  generalize c2.bump UPLINK.LINK_DOWNS_COUNT n = c3 at hbump hdowns hbumpu
  have hrx := c3.rxLeft_frame hn b
  obtain ⟨x, hrxu, hx⟩ := c3.rxLeft_upl hn b
  have hcode : b = some true → c3.Counts (c3.rxLeft n b) UPLINK.RX_CODE_ERR_COUNT n ∧ c3.Tells (c3.rxLeft n b) EV.UPLINK_RX_ERROR n := by
    rintro rfl
    exact (Chip.rxCutOff_says hn).2.2
  generalize c3.rxLeft n b = c4 at hrx hrxu hcode
  have hflush := c4.flushQueues_frame hn
  obtain ⟨y, hflushu⟩ := c4.flushQueues_upl (n := n)
  have hnow : c3.now = c.now := (hbump.now (by decide)).trans ((hreasm.now (by decide)).trans (hcut.now (by decide)))
  refine ⟨⟨?_, ?_, ?_, ?_, ?_, fun hpos => ?_⟩, fun hb => ?_, fun hb => ?_⟩
  · rw [hflushu, hrxu, hbumpu, hreasmu, hcutu]
  · rw [hflushu, hrxu, hbumpu, hreasmu, hcutu]
  · rw [hflushu, hrxu, hbumpu, hreasmu, hcutu]
  · rw [hflushu, hrxu, hbumpu, hreasmu]
  · rw [Chip.Counts, hflush.fld_apart UPLINK.LINK_DOWNS_COUNT n 0 (by decide) hn (by decide),
      hrx.fld_apart UPLINK.LINK_DOWNS_COUNT n 0 (by decide) hn (by decide), hdowns,
      hreasm.fld_apart UPLINK.LINK_DOWNS_COUNT n 0 (by decide) hn (by decide), hcut.fld_apart UPLINK.LINK_DOWNS_COUNT n 0 (by decide) hn (by decide)]
    rfl
  · rw [Chip.Counts, hflush.fld_apart UPLINK.TX_LINK_ABORT_COUNT n 0 (by decide) hn (by decide),
      hrx.fld_apart UPLINK.TX_LINK_ABORT_COUNT n 0 (by decide) hn (by decide),
      hbump.fld_apart UPLINK.TX_LINK_ABORT_COUNT n 0 (by decide) hn (by decide),
      hreasm.fld_apart UPLINK.TX_LINK_ABORT_COUNT n 0 (by decide) hn (by decide)]
    exact haborts hpos
  · rw [hflushu, hrxu, hx hb, hnow]
  · obtain ⟨hcount, htell⟩ := hcode hb
    refine ⟨?_, fun hup => ?_⟩
    · rw [Chip.Counts, hflush.fld_apart UPLINK.RX_CODE_ERR_COUNT n 0 (by decide) hn (by decide), hcount,
        hbump.fld_apart UPLINK.RX_CODE_ERR_COUNT n 0 (by decide) hn (by decide),
        hreasm.fld_apart UPLINK.RX_CODE_ERR_COUNT n 0 (by decide) hn (by decide),
        hcut.fld_apart UPLINK.RX_CODE_ERR_COUNT n 0 (by decide) hn (by decide)]
    · rw [hflush.raised_apart _ (by decide) hn]
      refine htell ?_
      rw [hbump.domUp _ (not_touched (by decide) 0 0 (by decide) (by decide)), hreasm.domUp _ (not_touched (by decide) 0 0 (by decide) (by decide)),
        hcut.domUp _ (not_touched (by decide) 0 0 (by decide) (by decide))]
      exact hup
end

end Sys2Proof.Machine
end

section
/-!
PROOF. The link states of an uplink: its registers at each transition.
-/
namespace Sys2Proof.Machine

section
variable {a b c d e : Chip} {n : Nat} {q r : FieldRow} {u : Uplink}

theorem Chip.on_of_fld (h : d.fld q n = c.fld q n) : d.on q n = c.on q n := by rw [Chip.on, h, Chip.on]

theorem Chip.counts_bumpBy_inst (c : Chip) (r : FieldRow) (k n : Nat) : c.Counts (c.bumpBy r k n) r n k := by
  rw [Chip.Counts, Chip.bumpBy, Chip.fld_setFld_self]
  refine Nat.mod_eq_of_lt ?_
  have := Nat.two_pow_pos r.width
  omega

/-! ### Registers that describe the link -/

def c7Spots : List Spot := [.evt .reel, .one REELGATE.C7_BURST_SUM_CNS, .one REELGATE.C7_COND_FAIL, .one REELGATE.C7_COND_OK,
  .one REELGATE.C7_GATE_WAIT_NS, .one REELGATE.C7_OPEN_FRACTION, .one REELGATE.C7_RATE_SUM_KBPS]

theorem Chip.c7Eval_touched (hn : n < 4) : c.Frame [] (Touched c7Spots) (c.c7Eval n) :=
  Chip.away_eq_iff.mp (Chip.away_c7Eval (List.Subset.refl _) hn)

def verifySpots : List Spot := [.one UPLINK.MERGE_STATUS_ACTIVE, .one UPLINK.MERGE_STATUS_ATTEMPTS, .one UPLINK.MERGE_STATUS_VERIFY_STATE]

theorem Chip.verifyReset_frame (hn : n < 4) : c.Frame [] (Touched verifySpots) (c.verifyReset n) :=
  Chip.away_eq_iff.mp (Chip.away_verifyReset (List.Subset.refl _) hn)

theorem Chip.verifyReset_says (hn : n < 4) : (c.verifyReset n).fld UPLINK.MERGE_STATUS_ACTIVE n = 0 ∧
    (c.verifyReset n).fld UPLINK.MERGE_STATUS_ATTEMPTS n = 0 ∧
    (c.verifyReset n).fld UPLINK.MERGE_STATUS_VERIFY_STATE n = if c.on UPLINK.MERGE_CFG_EN n then 1 else 0 := by
  have hset : c.Frame [] (Touched verifySpots) ((c.setFld UPLINK.MERGE_STATUS_ACTIVE 0 n).setFld UPLINK.MERGE_STATUS_ATTEMPTS 0 n) :=
    ((Chip.Frame.refl c).setFld UPLINK.MERGE_STATUS_ACTIVE 0 n 0 (cells_one (by decide) hn)).setFld UPLINK.MERGE_STATUS_ATTEMPTS 0 n 0
      (cells_one (by decide) hn)
  have hen := Chip.on_of_fld (hset.fld_apart UPLINK.MERGE_CFG_EN n 0 (by decide) hn (by decide))
  refine ⟨?_, ?_, ?_⟩
  · rw [Chip.verifyReset, Chip.fld_setFld_apart (by decide) hn (by decide) hn (by decide),
      Chip.fld_setFld_apart (by decide) hn (by decide) hn (by decide), Chip.fld_setFld_self]
    rfl
  · rw [Chip.verifyReset, Chip.fld_setFld_apart (by decide) hn (by decide) hn (by decide), Chip.fld_setFld_self]
    rfl
  · rw [Chip.verifyReset, Chip.fld_setFld_self, hen]
    split <;> rfl

def lineSpots : List Spot := [.one UPLINK.LINK_STATUS_BLOCK_LOCK, .one UPLINK.LINK_STATUS_FEC_LOCK, .one UPLINK.LINK_STATUS_HI_BER,
  .one UPLINK.LINK_STATUS_LOCAL_FAULT, .one UPLINK.LINK_STATUS_REMOTE_FAULT]

theorem Chip.lineClear_frame (hn : n < 4) : c.Frame [] (Touched lineSpots) (c.lineClear n) :=
  Chip.away_eq_iff.mp (Chip.away_lineClear (List.Subset.refl _) hn)

theorem Chip.lineClear_blockLock (hn : n < 4) : (c.lineClear n).fld UPLINK.LINK_STATUS_BLOCK_LOCK n = 0 := by
  have hset : (c.setFld UPLINK.LINK_STATUS_BLOCK_LOCK 0 n).fld UPLINK.LINK_STATUS_BLOCK_LOCK n = 0 := Chip.fld_setFld_self _ _ _ _ _
  have hrest : (c.setFld UPLINK.LINK_STATUS_BLOCK_LOCK 0 n).Frame [] (Touched lineSpots.tail) (c.lineClear n) :=
    ((((Chip.Frame.refl _).setFld UPLINK.LINK_STATUS_FEC_LOCK 0 n 0 (cells_one (by decide) hn)).setFld UPLINK.LINK_STATUS_HI_BER 0 n 0
      (cells_one (by decide) hn)).setFld UPLINK.LINK_STATUS_LOCAL_FAULT 0 n 0 (cells_one (by decide) hn)).setFld UPLINK.LINK_STATUS_REMOTE_FAULT
      0 n 0 (cells_one (by decide) hn)
  exact (hrest.fld_apart UPLINK.LINK_STATUS_BLOCK_LOCK n 0 (by decide) hn (by decide)).trans hset

/-! ### OFF (Table 06.2) -/

/-- The uplink is off in `d`; what it had in flight as it left UP is cut. -/
def Chip.WentOff (c d : Chip) (n : Nat) : Prop :=
  d.ulSt n = ulOFF ∧ d.fld UPLINK.MERGE_STATUS_ACTIVE n = 0 ∧ d.fld UPLINK.LINK_STATUS_BLOCK_LOCK n = 0 ∧
    (c.ulSt n = ulUP → (d.upl n).cur = none ∧ (d.upl n).cont = none ∧ (d.upl n).ctrl = none ∧ (d.upl n).reasm = none ∧
      (d.upl n).rxCut = some c.now ∧ c.Counts d UPLINK.LINK_DOWNS_COUNT n)

/-- The registers of an uplink as it is off. -/
def Chip.ulOffShown (c : Chip) (n : Nat) : Chip := (((c.setUlSt n ulOFF).verifyReset n).lineClear n).c7Eval n

/-- UP is left, and the leave is given back. -/
def Chip.ulOffLeft (c : Chip) (n : Nat) (hn : n < 4) : Chip := (if c.ulUp n then c.leaveUp n none else c).releaseLeave (.uplink ⟨n, hn⟩)

theorem Chip.uplinkOff_eq (hn : n < 4) : c.uplinkOff n = (c.ulOffLeft n hn).ulOffShown n := by
  unfold Chip.uplinkOff Chip.ulOffLeft Chip.ulOffShown
  dsimp only
  rw [dif_pos hn]

def ulOffSpots : List Spot := .one UPLINK.LINK_STATUS_STATE :: (verifySpots ++ lineSpots ++ c7Spots)

theorem Chip.ulOffShown_says (hn : n < 4) : c.Frame [] (Touched ulOffSpots) (c.ulOffShown n) ∧ (c.ulOffShown n).ulSt n = ulOFF ∧
    (c.ulOffShown n).fld UPLINK.MERGE_STATUS_ACTIVE n = 0 ∧ (c.ulOffShown n).fld UPLINK.LINK_STATUS_BLOCK_LOCK n = 0 := by
  have h0 : c.Frame [] (Touched [.one UPLINK.LINK_STATUS_STATE]) (c.setUlSt n ulOFF) :=
    (Chip.Frame.refl c).setFld UPLINK.LINK_STATUS_STATE ulOFF n 0 (cells_one (by decide) hn)
  have hst : (c.setUlSt n ulOFF).fld UPLINK.LINK_STATUS_STATE n = ulOFF := Chip.fld_setFld_self _ _ _ _ _
  unfold Chip.ulOffShown
  generalize c.setUlSt n ulOFF = e at h0 hst
  have h1 := e.verifyReset_frame hn
  obtain ⟨hactive, -, -⟩ := e.verifyReset_says hn
  generalize e.verifyReset n = f at h1 hactive
  have h2 := f.lineClear_frame hn
  have hlock := f.lineClear_blockLock hn
  generalize f.lineClear n = g at h2 hlock
  have h3 := g.c7Eval_touched hn
  refine ⟨?_, ?_, ?_, ?_⟩
  · exact (((h0.mono (List.Subset.refl _) (Touched.mono (by decide))).trans (h1.mono (List.Subset.refl _) (Touched.mono (by decide)))).trans
      (h2.mono (List.Subset.refl _) (Touched.mono (by decide)))).trans (h3.mono (List.Subset.refl _) (Touched.mono (by decide)))
  · rw [Chip.ulSt, h3.fld_apart UPLINK.LINK_STATUS_STATE n 0 (by decide) hn (by decide),
      h2.fld_apart UPLINK.LINK_STATUS_STATE n 0 (by decide) hn (by decide), h1.fld_apart UPLINK.LINK_STATUS_STATE n 0 (by decide) hn (by decide), hst]
  · rw [h3.fld_apart UPLINK.MERGE_STATUS_ACTIVE n 0 (by decide) hn (by decide),
      h2.fld_apart UPLINK.MERGE_STATUS_ACTIVE n 0 (by decide) hn (by decide), hactive]
  · rw [h3.fld_apart UPLINK.LINK_STATUS_BLOCK_LOCK n 0 (by decide) hn (by decide), hlock]

theorem Chip.ulOffLeft_frame (hn : n < 4) : c.Frame (.power :: leaveParts) (Touched leaveSpots) (c.ulOffLeft n hn) := by
  refine Chip.Frame.andThen (Chip.Frame.ite (fun _ => (Chip.leaveUp_frame hn none).mono (List.subset_cons_self _ _) fun _ h => h) fun _ => .refl c)
    (Chip.releaseLeave_frame _ _) (by decide) fun _ h => h

theorem Chip.uplinkOff_frame (hn : n < 4) : c.Frame (.power :: leaveParts) (Touched (leaveSpots ++ ulOffSpots)) (c.uplinkOff n) := by
  rw [Chip.uplinkOff_eq hn]
  exact ((Chip.ulOffLeft_frame hn).mono (List.Subset.refl _) (Touched.mono (by decide))).trans
    ((Chip.ulOffShown_says hn).1.mono (List.nil_subset _) (Touched.mono (by decide)))

theorem Chip.uplinkOff_wentOff (hn : n < 4) : c.WentOff (c.uplinkOff n) n := by
  obtain ⟨hframe, hst, hactive, hlock⟩ := (c.ulOffLeft n hn).ulOffShown_says hn
  rw [Chip.uplinkOff_eq hn]
  refine ⟨hst, hactive, hlock, fun hup => ?_⟩
  have hleft : c.ulOffLeft n hn = (c.leaveUp n none).releaseLeave (.uplink ⟨n, hn⟩) := by
    rw [Chip.ulOffLeft, if_pos (show c.ulUp n = true from beq_iff_eq.mpr hup)]
  obtain ⟨⟨hcur, hcont, hctrl, hreasm, hdowns, -⟩, hcut, -⟩ := Chip.leaveUp_says (c := c) hn none
  have hrel := (c.leaveUp n none).releaseLeave_frame (.uplink ⟨n, hn⟩) (K := fun _ => False)
  rw [← hleft] at hrel
  have hupl : ((c.ulOffLeft n hn).ulOffShown n).upl n = (c.leaveUp n none).upl n :=
    Chip.upl_congr ((hframe.uplinks (by simp)).trans (hrel.uplinks (by decide)))
  rw [hupl]
  refine ⟨hcur, hcont, hctrl, hreasm, hcut rfl, ?_⟩
  rw [Chip.Counts, hframe.fld_apart UPLINK.LINK_DOWNS_COUNT n 0 (by decide) hn (by decide), hrel.fld _ _ _ id]
  exact hdowns

/-- The link state is not touched by the end of a step, nor are the counts. -/
theorem Chip.WentOff.ended (h : c.WentOff d n) (hn : n < 4) : c.WentOff (b.ended d) n := by
  obtain ⟨hst, hactive, hlock, hup⟩ := h
  refine ⟨(Chip.ended_inst (by decide) hn (by decide)).trans hst, (Chip.ended_inst (by decide) hn (by decide)).trans hactive,
    (Chip.ended_inst (by decide) hn (by decide)).trans hlock, fun h => ?_⟩
  obtain ⟨hcur, hcont, hctrl, hreasm, hcut, hdowns⟩ := hup h
  rw [Chip.upl_congr (b.ended_uplinks d)]
  exact ⟨hcur, hcont, hctrl, hreasm, hcut, hdowns.inst (by decide) hn⟩

/-! ### Codewords and the line (R222, R223) -/

def fecKeys (n : Nat) : List Nat :=
  [UPLINK.FEC_CORRECTED_COUNT.key n 0, UPLINK.FEC_UNCORRECTED_COUNT.key n 0, EV.UPLINK_FEC_UNCORRECTABLE.key n]

/-- The codewords of a frame or an idle line are counted. -/
def Chip.FecCounted (c d : Chip) (n fixed bad : Nat) : Prop :=
  c.Counts d UPLINK.FEC_CORRECTED_COUNT n fixed ∧ (0 < bad → c.Counts d UPLINK.FEC_UNCORRECTED_COUNT n bad ∧
    c.Tells d EV.UPLINK_FEC_UNCORRECTABLE n)

theorem Chip.fecCount_off {fixed bad : Nat} (h : c.on UPLINK.LINK_STATUS_FEC_IN_FORCE n = false) : c.fecCount n fixed bad = c := by
  rw [Chip.fecCount, h]
  rfl

theorem Chip.fecCount_frame {fixed bad : Nat} (S : List Part) : c.Frame S (· ∈ fecKeys n) (c.fecCount n fixed bad) := by
  refine Chip.Frame.ite (fun _ => .refl c) fun _ => Chip.Frame.ite (fun _ => ?_) fun _ => ?_
  · exact (Chip.Frame.refl c).bumpBy _ _ _ _ (by simp [fecKeys])
  · exact (((Chip.Frame.refl c).bumpBy _ _ _ _ (by simp [fecKeys])).bumpBy _ _ _ _ (by simp [fecKeys])).raise _ _ (by simp [fecKeys])

def fecSpots : List Spot := [.one UPLINK.FEC_CORRECTED_COUNT, .one UPLINK.FEC_UNCORRECTED_COUNT, .evt .uplink]

theorem Chip.fecCount_touched (hn : n < 4) {fixed bad : Nat} (S : List Part) : c.Frame S (Touched fecSpots) (c.fecCount n fixed bad) := by
  refine (c.fecCount_frame S).mono (List.Subset.refl _) fun k hk => ?_
  simp only [fecKeys, List.mem_cons, List.not_mem_nil, or_false] at hk
  rcases hk with rfl | rfl | rfl
  · exact cells_one (by decide) hn
  · exact cells_one (by decide) hn
  · exact cells_evt (cls := .uplink) (by decide) hn

theorem Chip.fecCount_counted {fixed bad : Nat} (hn : n < 4) (h : c.on UPLINK.LINK_STATUS_FEC_IN_FORCE n = true) :
    c.FecCounted (c.fecCount n fixed bad) n fixed bad := by
  have hfixed : c.Counts (c.bumpBy UPLINK.FEC_CORRECTED_COUNT fixed n) UPLINK.FEC_CORRECTED_COUNT n fixed :=
    Chip.counts_bumpBy_inst _ _ _ _
  have hcount : c.fecCount n fixed bad = if bad = 0 then c.bumpBy UPLINK.FEC_CORRECTED_COUNT fixed n else
      ((c.bumpBy UPLINK.FEC_CORRECTED_COUNT fixed n).bumpBy UPLINK.FEC_UNCORRECTED_COUNT bad n).raise EV.UPLINK_FEC_UNCORRECTABLE n := by
    rw [Chip.fecCount, h]
    rfl
  rw [hcount]
  by_cases hb : bad = 0
  · rw [if_pos hb]
    exact ⟨hfixed, fun hpos => absurd hb (Nat.ne_of_gt hpos)⟩
  · rw [if_neg hb]
    have hset : c.Frame [] (Touched fecSpots) ((c.bumpBy UPLINK.FEC_CORRECTED_COUNT fixed n).bumpBy UPLINK.FEC_UNCORRECTED_COUNT bad n) :=
      ((Chip.Frame.refl c).bumpBy UPLINK.FEC_CORRECTED_COUNT fixed n 0 (cells_one (by decide) hn)).bumpBy UPLINK.FEC_UNCORRECTED_COUNT bad n 0
        (cells_one (by decide) hn)
    refine ⟨?_, fun _ => ⟨?_, hset.tells_raise _ _ (by decide) (not_touched (by decide) 0 0 (by decide) (by decide))⟩⟩
    · rw [Chip.Counts, Chip.fld_raise_apart (by decide) hn hn (by decide), Chip.bumpBy,
        Chip.fld_setFld_apart (by decide) hn (by decide) hn (by decide)]
      exact hfixed
    · rw [Chip.Counts, Chip.fld_raise_apart (by decide) hn hn (by decide)]
      refine (Chip.counts_bumpBy_inst _ _ _ _).trans ?_
      rw [Chip.bumpBy, Chip.fld_setFld_apart (by decide) hn (by decide) hn (by decide)]

theorem Chip.FecCounted.inst {fixed bad : Nat} (h : c.FecCounted d n fixed bad) (hn : n < 4) : c.FecCounted (b.ended d) n fixed bad :=
  ⟨h.1.inst (by decide) hn, fun hb => ⟨(h.2 hb).1.inst (by decide) hn, (h.2 hb).2.inst (by decide) hn⟩⟩
end

end Sys2Proof.Machine
end

section
/-!
PROOF. The link states of an uplink: how it starts, and how it is enabled and disabled.
-/
namespace Sys2Proof.Machine

section
variable {a b c d e : Chip} {n : Nat} {p : Port} {s : State}

theorem exec_uplinkEnable (n : Fin 4) (w : Option (Port × Word)) (s : State) : exec (.uplinkEnable n w) s =
    run (fun c => c.enableCmd (PageCls.uplink.base + n.val) w fun d => d.uplinkTry n.val) s := rfl
theorem exec_uplinkDisable (n : Fin 4) (w : Option (Port × Word)) (s : State) : exec (.uplinkDisable n w) s =
    run (fun c => c.enableCmd (PageCls.uplink.base + n.val) w fun d =>
      d.whenDue ((!d.uplinkEn n.val || d.mode == mSTANDBY) && d.ulSt n.val != ulOFF) fun e => e.uplinkOff n.val) s := rfl

theorem Chip.enableCmd_none (page : Nat) (own : Chip → Chip) : c.enableCmd page none own = own c := rfl

theorem Chip.enableCmd_some (page : Nat) (w : Word) (own : Chip → Chip) : c.enableCmd page (some (p, w)) own = c.ctrlAccess p page w.toNat := rfl

/-! ### An enabled uplink in OFF -/

/-- The uplink may start its bring-up. -/
def Chip.MayTry (c : Chip) (n : Nat) : Prop :=
  c.ulSt n = ulOFF ∧ c.uplinkEn n = true ∧ c.mode ∈ [mACQUIRE, mRUN, mHOLDOVER] ∧ c.fld UPLINK.LINK_STATUS_NO_LEAVE n = 0

theorem mode_running : c.mode ∈ [mACQUIRE, mRUN, mHOLDOVER] ↔ c.mode = mACQUIRE ∨ c.running = true := by
  simp [Chip.running]

/-- What a start fixes of the configuration. -/
def Chip.linkFixed (c : Chip) (n : Nat) : Chip :=
  ((c.setFld UPLINK.LINK_STATUS_CFG_ERR 0 n).setFld UPLINK.LINK_STATUS_SPEED_IN_FORCE (c.fld UPLINK.CFG_SPEED n) n).setFld
    UPLINK.LINK_STATUS_FEC_IN_FORCE (c.fld UPLINK.CFG_FEC_EN n) n

/-- The request for leave, by its answer. -/
def Chip.linkAsks (c : Chip) (n : Nat) (hn : n < 4) : Chip :=
  match c.leaveAnswer (.uplink ⟨n, hn⟩) with
  | .refused => (c.requestLeave (.uplink ⟨n, hn⟩)).setFld UPLINK.LINK_STATUS_NO_LEAVE 1 n
  | _ => (c.requestLeave (.uplink ⟨n, hn⟩)).setUlSt n ulLEAVE

theorem mayTry_cond (h : c.MayTry n) :
    c.ulSt n = ulOFF ∧ c.uplinkEn n ∧ (c.mode = mACQUIRE ∨ c.running) ∧ ¬ c.on UPLINK.LINK_STATUS_NO_LEAVE n := by
  obtain ⟨hst, hen, hm, hno⟩ := h
  refine ⟨hst, hen, mode_running.mp hm, ?_⟩
  rw [Chip.on, hno]
  decide

theorem Chip.uplinkTry_cfgErr (h : c.MayTry n) (hbad : c.fld UPLINK.CFG_SPEED n = 0 ∧ c.fld UPLINK.CFG_FEC_EN n = 1) :
    c.uplinkTry n = c.setFld UPLINK.LINK_STATUS_CFG_ERR 1 n := (if_pos (mayTry_cond h)).trans (if_pos hbad)

theorem Chip.uplinkTry_asks (hn : n < 4) (h : c.MayTry n) (hok : ¬ (c.fld UPLINK.CFG_SPEED n = 0 ∧ c.fld UPLINK.CFG_FEC_EN n = 1)) :
    c.uplinkTry n = (c.linkFixed n).linkAsks n hn :=
  ((if_pos (mayTry_cond h)).trans (if_neg hok)).trans (dif_pos hn)

theorem Chip.uplinkTry_not (h : c.ulSt n ≠ ulOFF ∨ c.uplinkEn n = false ∨ c.mode ∉ [mACQUIRE, mRUN, mHOLDOVER]) : c.uplinkTry n = c := by
  refine if_neg ?_
  rintro ⟨hst, hen, hm, -⟩
  rcases h with h | h | h
  · exact h hst
  · rw [h] at hen
    exact absurd hen (by decide)
  · exact h (mode_running.mpr hm)

def fixedSpots : List Spot := [.one UPLINK.LINK_STATUS_CFG_ERR, .one UPLINK.LINK_STATUS_SPEED_IN_FORCE, .one UPLINK.LINK_STATUS_FEC_IN_FORCE]

theorem Chip.linkFixed_says (hn : n < 4) : c.Frame [] (Touched fixedSpots) (c.linkFixed n) ∧
    (c.linkFixed n).fld UPLINK.LINK_STATUS_SPEED_IN_FORCE n = c.fld UPLINK.CFG_SPEED n % 2 ∧
    (c.linkFixed n).fld UPLINK.LINK_STATUS_FEC_IN_FORCE n = c.fld UPLINK.CFG_FEC_EN n % 2 ∧
    (c.linkFixed n).fld UPLINK.LINK_STATUS_CFG_ERR n = 0 := by
  refine ⟨?_, ?_, ?_, ?_⟩
  · exact (((Chip.Frame.refl c).setFld UPLINK.LINK_STATUS_CFG_ERR _ n 0 (cells_one (by decide) hn)).setFld UPLINK.LINK_STATUS_SPEED_IN_FORCE
      _ n 0 (cells_one (by decide) hn)).setFld UPLINK.LINK_STATUS_FEC_IN_FORCE _ n 0 (cells_one (by decide) hn)
  · rw [Chip.linkFixed, Chip.fld_setFld_apart (by decide) hn (by decide) hn (by decide), Chip.fld_setFld_self]
    rfl
  · rw [Chip.linkFixed, Chip.fld_setFld_self]
    rfl
  · rw [Chip.linkFixed, Chip.fld_setFld_apart (by decide) hn (by decide) hn (by decide),
      Chip.fld_setFld_apart (by decide) hn (by decide) hn (by decide), Chip.fld_setFld_self]
    rfl

def askSpots : List Spot := [.evt .power, .one POWER.LEAVE_GRANTS_COUNT, .one UPLINK.LINK_STATUS_NO_LEAVE, .one UPLINK.LINK_STATUS_STATE]

theorem Chip.requestLeave_frame (op : LeaveOp) : c.Frame [.power] (Touched [.evt .power, .one POWER.LEAVE_GRANTS_COUNT]) (c.requestLeave op) :=
  Chip.away_eq_iff.mp (Chip.away_requestLeave (List.Subset.refl _) (List.Subset.refl _))

theorem Chip.linkAsks_frame (hn : n < 4) : c.Frame [.power] (Touched askSpots) (c.linkAsks n hn) := by
  have hreq := (c.requestLeave_frame (.uplink ⟨n, hn⟩)).mono (List.Subset.refl _) (Touched.mono (R' := askSpots) (by decide))
  unfold Chip.linkAsks
  split
  · exact hreq.setFld UPLINK.LINK_STATUS_NO_LEAVE 1 n 0 (cells_one (by decide) hn)
  · exact hreq.setFld UPLINK.LINK_STATUS_STATE ulLEAVE n 0 (cells_one (by decide) hn)

theorem Chip.linkAsks_refused (hn : n < 4) (h : c.leaveAnswer (.uplink ⟨n, hn⟩) = .refused) :
    (c.linkAsks n hn).ulSt n = c.ulSt n ∧ (c.linkAsks n hn).fld UPLINK.LINK_STATUS_NO_LEAVE n = 1 := by
  have hreq := c.requestLeave_frame (.uplink ⟨n, hn⟩)
  rw [Chip.linkAsks, h]
  refine ⟨?_, Chip.fld_setFld_self _ _ _ _ _⟩
  rw [Chip.ulSt, Chip.fld_setFld_apart (by decide) hn (by decide) hn (by decide)]
  exact hreq.fld_apart UPLINK.LINK_STATUS_STATE n 0 (by decide) hn (by decide)

theorem Chip.linkAsks_queued (hn : n < 4) (h : c.leaveAnswer (.uplink ⟨n, hn⟩) = .queued) :
    (c.linkAsks n hn).ulSt n = ulLEAVE ∧ (c.linkAsks n hn).leaveWaiting (.uplink ⟨n, hn⟩) = true := by
  rw [Chip.linkAsks, h]
  exact ⟨Chip.fld_setFld_self _ _ _ _ _, Chip.leaveWaiting_requestLeave h rfl⟩

/-- A part that may start its uplink asks for leave with the configuration it read. -/
theorem uplinkTry_ends (n : Fin 4) (h : s.chip.MayTry n.val)
    (hok : ¬ (s.chip.fld UPLINK.CFG_SPEED n.val = 0 ∧ s.chip.fld UPLINK.CFG_FEC_EN n.val = 1)) :
    Ends (.uplinkEnable n none) s fun d => d.fld UPLINK.LINK_STATUS_SPEED_IN_FORCE n.val = s.chip.fld UPLINK.CFG_SPEED n.val % 2 ∧
      d.fld UPLINK.LINK_STATUS_FEC_IN_FORCE n.val = s.chip.fld UPLINK.CFG_FEC_EN n.val % 2 ∧ d.fld UPLINK.LINK_STATUS_CFG_ERR n.val = 0 ∧
      (s.chip.leaveAnswer (.uplink n) = .refused → d.ulSt n.val = ulOFF ∧ d.fld UPLINK.LINK_STATUS_NO_LEAVE n.val = 1) ∧
      (s.chip.leaveAnswer (.uplink n) = .queued → d.ulSt n.val = ulLEAVE ∧ d.leaveWaiting (.uplink n) = true) := by
  have hn := n.isLt
  have hst := h.1
  obtain ⟨hfix, hspeed, hfec, herr⟩ := s.chip.linkFixed_says hn
  have hask := (s.chip.linkFixed n.val).linkAsks_frame hn
  have hans : (s.chip.linkFixed n.val).leaveAnswer (.uplink n) = s.chip.leaveAnswer (.uplink n) :=
    Chip.leaveAnswer_congr rfl
      (hfix.fld_apart POWER.COST_TOKENS 0 _ (by decide) (by decide) (Nat.lt_trans (LeaveOp.index_lt _) (by decide)))
      (hfix.fld_apart POWER.CEILING_TOKENS 0 0 (by decide) (by decide) (by decide))
      (hfix.fld_apart POWER.BASE_TOKENS 0 0 (by decide) (by decide) (by decide))
      (hfix.fld_apart POWER.RESERVE_FANOUT_RESERVE 0 0 (by decide) (by decide) (by decide))
  have hrefused := (s.chip.linkFixed n.val).linkAsks_refused hn
  have hqueued := (s.chip.linkFixed n.val).linkAsks_queued hn
  have hst' := hfix.fld_apart UPLINK.LINK_STATUS_STATE n.val 0 (by decide) hn (by decide)
  refine ends_of (exec_uplinkEnable n none s) ?_
  rw [Chip.enableCmd_none, Chip.uplinkTry_asks hn h hok]
  refine ⟨?_, ?_, ?_, fun hr => ?_, fun hq => ?_⟩
  · rw [Chip.ended_inst (by decide) hn (by decide), hask.fld_apart UPLINK.LINK_STATUS_SPEED_IN_FORCE n.val 0 (by decide) hn (by decide), hspeed]
  · rw [Chip.ended_inst (by decide) hn (by decide), hask.fld_apart UPLINK.LINK_STATUS_FEC_IN_FORCE n.val 0 (by decide) hn (by decide), hfec]
  · rw [Chip.ended_inst (by decide) hn (by decide), hask.fld_apart UPLINK.LINK_STATUS_CFG_ERR n.val 0 (by decide) hn (by decide), herr]
  · obtain ⟨h1, h2⟩ := hrefused (hans.trans hr)
    exact ⟨(Chip.ended_inst (by decide) hn (by decide)).trans (h1.trans (hst'.trans hst)), (Chip.ended_inst (by decide) hn (by decide)).trans h2⟩
  · obtain ⟨h1, h2⟩ := hqueued (hans.trans hq)
    exact ⟨(Chip.ended_inst (by decide) hn (by decide)).trans h1, (Chip.leaveWaiting_congr (Chip.ended_power _ _)).trans h2⟩

/-! ### EN -/

/-- A write of EN alone. -/
theorem Chip.ctrlWrite_uplinkEn {w : Nat} (h1 : w.testBit 1 = false) (h2 : w.testBit 2 = false) : c.ctrlWrite .uplink n p w =
    (c.setHdr HDR.CTRL_EN (PageCls.uplink.base + n) (bitsOf w 0 0)).uplinkEnChanged n (w.testBit 0) := by
  rw [Chip.ctrlWrite_eq, Chip.ctrlReset_none h1]
  have hlock : c.ctrlLock (PageCls.uplink.base + n) w = c := if_neg (by rw [h2]; decide)
  rw [hlock]
  rfl

theorem Chip.uplinkEn_congr (h : d.hdr HDR.CTRL_EN (PageCls.uplink.base + n) = c.hdr HDR.CTRL_EN (PageCls.uplink.base + n)) :
    d.uplinkEn n = c.uplinkEn n := by rw [Chip.uplinkEn, h, Chip.uplinkEn]

/-- EN as it is written, and what it leaves of the uplink. -/
theorem Chip.uplinkEnSet_says (v : Nat) : c.Frame [] (· ∈ [HDR.CTRL_EN.key (PageCls.uplink.base + n)]) (c.setHdr HDR.CTRL_EN (PageCls.uplink.base + n) v) ∧
    ∀ (r : FieldRow), 0x040 ≤ r.off → (r.placed = true) → (c.setHdr HDR.CTRL_EN (PageCls.uplink.base + n) v).fld r n = c.fld r n := by
  refine ⟨(Chip.Frame.refl c).setHdr _ _ _ (by simp), fun r ho hr => ?_⟩
  rw [Chip.fld, Chip.get_setHdr_ne, Chip.fld]
  simp only [FieldRow.placed, Bool.and_eq_true, decide_eq_true_eq] at hr
  simp only [FieldRow.key, HdrRow.key, cellKey, HDR.CTRL_EN]
  omega

/-- EN is written 1 while the uplink is not off. -/
theorem enableWrite_sets (n : Fin 4) {w : Word} (hopen : s.chip.Open p .uplink n.val) (hst : s.chip.ulSt n.val ≠ ulOFF) (hw : w.toNat % 8 = 1) :
    SetsRegs (.uplinkEnable n (some (p, w))) s [HDR.CTRL_EN.key (PageCls.uplink.base + n.val)] fun d => d.uplinkEn n.val = true := by
  obtain ⟨h0, h1, h2, hbits⟩ := ctrl_bits (by decide) hw
  obtain ⟨hframe, hfld⟩ := s.chip.uplinkEnSet_says (n := n.val) 1
  have hd : s.chip.enableCmd (PageCls.uplink.base + n.val) (some (p, w)) (fun d => d.uplinkTry n.val) =
      s.chip.setHdr HDR.CTRL_EN (PageCls.uplink.base + n.val) 1 := by
    refine (Chip.ctrlAccess_open hopen rfl _).trans ((Chip.ctrlWrite_uplinkEn h1 h2).trans ?_)
    rw [hbits, h0]
    exact Chip.uplinkTry_not (Or.inl (by rw [Chip.ulSt, hfld _ (by decide) (by decide)]; exact hst))
  refine setsRegs_of (exec_uplinkEnable n _ s) ?_ ?_
  · rw [hd]
    exact (Chip.Frame.refl _).setHdr _ _ _ (by simp)
  · rw [hd, Chip.uplinkEn, Chip.ended_hdr _ _ _ _ (hdrKey_not_level _ _ (by decide) (by decide) (by decide)), Chip.hdr_setHdr_self]
    rfl

/-- What is off for a chip is off for one with the same uplink. -/
theorem Chip.WentOff.since (h : e.WentOff d n) (hst : e.ulSt n = c.ulSt n) (hnow : e.now = c.now)
    (hdowns : e.fld UPLINK.LINK_DOWNS_COUNT n = c.fld UPLINK.LINK_DOWNS_COUNT n) : c.WentOff d n := by
  obtain ⟨h1, h2, h3, h4⟩ := h
  refine ⟨h1, h2, h3, fun hup => ?_⟩
  obtain ⟨hcur, hcont, hctrl, hreasm, hcut, hcount⟩ := h4 (hst.trans hup)
  exact ⟨hcur, hcont, hctrl, hreasm, hcut.trans (congrArg _ hnow), hcount.trans (by rw [hdowns])⟩

/-- What is off stays off when NO_LEAVE is set. -/
theorem Chip.WentOff.setNoLeave (h : c.WentOff d n) (hn : n < 4) (v : Nat) : c.WentOff (d.setFld UPLINK.LINK_STATUS_NO_LEAVE v n) n := by
  obtain ⟨h1, h2, h3, h4⟩ := h
  refine ⟨(Chip.fld_setFld_apart (by decide) hn (by decide) hn (by decide)).trans h1,
    (Chip.fld_setFld_apart (by decide) hn (by decide) hn (by decide)).trans h2,
    (Chip.fld_setFld_apart (by decide) hn (by decide) hn (by decide)).trans h3, fun hup => ?_⟩
  obtain ⟨hcur, hcont, hctrl, hreasm, hcut, hcount⟩ := h4 hup
  exact ⟨hcur, hcont, hctrl, hreasm, hcut, (Chip.fld_setFld_apart (by decide) hn (by decide) hn (by decide)).trans hcount⟩

/-- The uplink once EN is 0. -/
def Chip.enCleared (c : Chip) (n : Nat) : Chip :=
  (if c.ulSt n = ulOFF then c else c.uplinkOff n).setFld UPLINK.LINK_STATUS_NO_LEAVE 0 n

theorem Chip.enCleared_hdr
    (hn : n < 4) : (c.enCleared n).hdr HDR.CTRL_EN (PageCls.uplink.base + n) = c.hdr HDR.CTRL_EN (PageCls.uplink.base + n) := by
  rw [Chip.enCleared, Chip.hdr_setFld_ne _ _ _ _ _ _ _ (hdrKey_ne_fldKey _ _ _ _ _ (by decide) (by decide))]
  split
  · rfl
  · exact (Chip.uplinkOff_frame hn).hdr_apart HDR.CTRL_EN .uplink n (by decide) hn

/-- EN is written 0. -/
theorem disableWrite_ends (n : Fin 4) {w : Word} (hopen : s.chip.Open p .uplink n.val) (hw : w.toNat % 8 = 0) {ok : Chip → Prop}
    (hok : ∀ d, d.uplinkEn n.val = false → d.fld UPLINK.LINK_STATUS_NO_LEAVE n.val = 0 → (s.chip.ulSt n.val ≠ ulOFF → s.chip.WentOff d n.val) →
      (s.chip.ulSt n.val = ulOFF → d.ulSt n.val = ulOFF) → ok d) : Ends (.uplinkDisable n (some (p, w))) s ok := by
  have hn := n.isLt
  obtain ⟨h0, h1, h2, hbits⟩ := ctrl_bits (by decide) hw
  obtain ⟨hframe, hfld⟩ := s.chip.uplinkEnSet_says (n := n.val) 0
  have hst : (s.chip.setHdr HDR.CTRL_EN (PageCls.uplink.base + n.val) 0).ulSt n.val = s.chip.ulSt n.val := hfld _ (by decide) (by decide)
  have hdowns := hfld UPLINK.LINK_DOWNS_COUNT (by decide) (by decide)
  have hen : (s.chip.setHdr HDR.CTRL_EN (PageCls.uplink.base + n.val) 0).hdr HDR.CTRL_EN (PageCls.uplink.base + n.val) = 0 :=
    Chip.hdr_setHdr_self _ _ _ _
  have hd : s.chip.ctrlAccess p (PageCls.uplink.base + n.val) w.toNat =
      (s.chip.setHdr HDR.CTRL_EN (PageCls.uplink.base + n.val) 0).enCleared n.val := by
    refine (Chip.ctrlAccess_open hopen rfl _).trans ((Chip.ctrlWrite_uplinkEn h1 h2).trans ?_)
    rw [hbits, h0]
    rfl
  have hnow := hframe.now (by simp)
  refine ends_of (exec_uplinkDisable n _ s) ?_
  rw [Chip.enableCmd_some, hd]
  generalize s.chip.setHdr HDR.CTRL_EN (PageCls.uplink.base + n.val) 0 = e at hst hdowns hen hnow
  refine hok _ ?_ ((Chip.ended_inst (by decide) hn (by decide)).trans (Chip.fld_setFld_self _ _ _ _ _)) (fun hup => ?_) fun hoff => ?_
  · rw [Chip.uplinkEn, Chip.ended_hdr _ _ _ _ (hdrKey_not_level _ _ (by decide) (by decide) (by decide)), Chip.enCleared_hdr hn, hen]
    rfl
  · refine Chip.WentOff.ended ?_ hn
    rw [Chip.enCleared, if_neg (by rw [hst]; exact hup)]
    exact ((e.uplinkOff_wentOff hn).since hst hnow hdowns).setNoLeave hn 0
  · rw [Chip.ulSt, Chip.ended_inst (by decide) hn (by decide), Chip.enCleared, if_pos (hst.trans hoff),
      Chip.fld_setFld_apart (by decide) hn (by decide) hn (by decide)]
    exact hst.trans hoff

/-- An uplink that is disabled, or whose part is in STANDBY, goes off. -/
theorem disable_ends (n : Fin 4) (hst : s.chip.ulSt n.val ≠ ulOFF) (h : s.chip.uplinkEn n.val = false ∨ s.chip.mode = mSTANDBY) :
    Ends (.uplinkDisable n none) s fun d => s.chip.WentOff d n.val := by
  have hdue : ((!s.chip.uplinkEn n.val || s.chip.mode == mSTANDBY) && s.chip.ulSt n.val != ulOFF) = true := by
    rw [Bool.and_eq_true, Bool.or_eq_true, Bool.not_eq_true', beq_iff_eq, bne_iff_ne]
    exact ⟨h, hst⟩
  refine ends_of (exec_uplinkDisable n none s) (Chip.WentOff.ended ?_ n.isLt)
  rw [Chip.enableCmd_none, Chip.whenDue_true _ _ hdue]
  exact s.chip.uplinkOff_wentOff n.isLt

theorem disable_idles (n : Fin 4) (h : s.chip.ulSt n.val = ulOFF ∨ (s.chip.uplinkEn n.val = true ∧ s.chip.mode ≠ mSTANDBY)) :
    Idles (.uplinkDisable n none) s := by
  refine idles_of (exec_uplinkDisable n none s) ?_
  rw [Chip.enableCmd_none]
  refine Chip.whenDue_false _ _ ?_
  rcases h with h | ⟨hen, hm⟩
  · rw [h]
    exact Bool.and_false _
  · rw [hen, beq_false_of_ne hm]
    rfl
end

end Sys2Proof.Machine
end

section
/-!
PROOF. The link states of an uplink: bring-up, the line that is seen, and UP.
-/
namespace Sys2Proof.Machine

section
variable {a b c d e : Chip} {n : Nat} {p : Port} {s : State}

/-! ### The end of the bring-up (R98) -/

theorem exec_uplinkBringupDone (n : Fin 4) (cal : Option (Word × Word)) (s : State) : exec (.uplinkBringupDone n cal) s =
    run (fun c => c.whenDue (c.ulSt n.val == ulBRINGUP) fun d => d.bringupDone n.val cal) s := rfl

def calSpots : List Spot := [.upto WHORL.CAL_TX_DELAY, .upto WHORL.CAL_RX_DELAY, .one WHORL.CAL_STATUS_DONE, .one WHORL.CAL_STATUS_DEFAULT,
  .evt .whorl]

theorem Chip.calSet_frame {tx rx done dflt : Nat} (hn : n < 4) {r q : FieldRow} (hr : Spot.one r ∈ calSpots) (hq : Spot.one q ∈ calSpots)
    (hr0 : 0 < r.cls.count) (hq0 : 0 < q.cls.count) : c.Frame [] (Touched calSpots)
    ((((c.setFld WHORL.CAL_TX_DELAY tx 0 n).setFld WHORL.CAL_RX_DELAY rx 0 n).setFld r done).setFld q dflt) :=
  ((((Chip.Frame.refl c).setFld WHORL.CAL_TX_DELAY tx 0 n (cells_upto (by decide) (by decide) (by omega))).setFld WHORL.CAL_RX_DELAY rx 0 n
    (cells_upto (by decide) (by decide) (by omega))).setFld r done 0 0 (cells_one hr hr0)).setFld q dflt 0 0 (cells_one hq hq0)

theorem Chip.calResult_frame (hn : n < 4) (cal : Option (Word × Word)) : c.Frame [] (Touched calSpots) (c.calResult n cal) := by
  unfold Chip.calResult
  extract_lets done dflt
  cases cal with
  | some x => exact Chip.calSet_frame hn (by decide) (by decide) (by decide) (by decide)
  | none =>
    exact (Chip.calSet_frame hn (by decide) (by decide) (by decide) (by decide)).raise _ _ (cells_evt (cls := .whorl) (by decide) (by decide))

theorem Chip.calResult_delays (hn : n < 4) (tx rx : Word) : (c.calResult n (some (tx, rx))).fld WHORL.CAL_TX_DELAY 0 n = tx.toNat ∧
    (c.calResult n (some (tx, rx))).fld WHORL.CAL_RX_DELAY 0 n = rx.toNat := by
  have hword (r : FieldRow) (hr : r.width = 32) (d : Chip) (w : Word) : (d.setFld r w.toNat 0 n).fld r 0 n = w.toNat := by
    rw [Chip.fld_setFld_self, hr]
    exact Nat.mod_eq_of_lt w.isLt
  have hn' : n < 65536 := by omega
  refine ⟨?_, ?_⟩
  · rw [Chip.calResult, Chip.fld_setFld_apart (by decide) (by decide) (by decide) (by decide) hn',
      Chip.fld_setFld_apart (by decide) (by decide) (by decide) (by decide) hn',
      Chip.fld_setFld_apart (by decide) (by decide) hn' (by decide) hn', hword _ rfl]
  · rw [Chip.calResult, Chip.fld_setFld_apart (by decide) (by decide) (by decide) (by decide) hn',
      Chip.fld_setFld_apart (by decide) (by decide) (by decide) (by decide) hn', hword _ rfl]

theorem Chip.calResult_fails (hn : n < 4) : c.Tells (c.calResult n none) EV.WHORL_CAL_FAIL := by
  rw [Chip.calResult]
  exact (Chip.calSet_frame hn (by decide) (by decide) (by decide) (by decide)).tells_raise _ _ (by decide)
    (not_touched (by decide) 0 0 (by decide) (by decide))

theorem bringupDone_ends (n : Fin 4) (cal : Option (Word × Word)) (h : s.chip.ulSt n.val = ulBRINGUP) :
    Ends (.uplinkBringupDone n cal) s fun d => d.ulSt n.val = ulSEARCH ∧ s.chip.Tells d EV.POWER_WAKE_DONE ∧
      (∀ tx rx, cal = some (tx, rx) → d.fld WHORL.CAL_TX_DELAY 0 n.val = tx.toNat ∧ d.fld WHORL.CAL_RX_DELAY 0 n.val = rx.toNat) ∧
      (cal = none → s.chip.Tells d EV.WHORL_CAL_FAIL) := by
  have hn := n.isLt
  have hn' : n.val < 65536 := by omega
  have hcal := s.chip.calResult_frame hn cal
  have hst : s.chip.Frame [] (Touched (.one UPLINK.LINK_STATUS_STATE :: calSpots)) ((s.chip.calResult n.val cal).setUlSt n.val ulSEARCH) :=
    (hcal.mono (List.Subset.refl _) (Touched.mono (by decide))).setFld UPLINK.LINK_STATUS_STATE _ _ 0 (cells_one (by decide) hn)
  refine ends_of_due (exec_uplinkBringupDone n cal s) (beq_iff_eq.mpr h) ⟨?_, ?_, fun tx rx hc => ?_, fun hc => ?_⟩
  · rw [Chip.ulSt, Chip.ended_inst (by decide) hn (by decide), Chip.bringupDone, Chip.fld_raise_apart (by decide) (by decide) hn (by decide)]
    exact Chip.fld_setFld_self _ _ _ _ _
  · exact (hst.tells_raise _ _ (by decide) (not_touched (by decide) 0 0 (by decide) (by decide))).ended (by decide)
  · subst hc
    have hd := Chip.calResult_delays (c := s.chip) hn tx rx
    refine ⟨?_, ?_⟩
    · rw [Chip.ended_inst (by decide) (by decide) hn', Chip.bringupDone, Chip.fld_raise_apart (by decide) (by decide) (by decide) hn', Chip.setUlSt,
        Chip.fld_setFld_apart (by decide) hn (by decide) (by decide) hn', hd.1]
    · rw [Chip.ended_inst (by decide) (by decide) hn', Chip.bringupDone, Chip.fld_raise_apart (by decide) (by decide) (by decide) hn', Chip.setUlSt,
        Chip.fld_setFld_apart (by decide) hn (by decide) (by decide) hn', hd.2]
  · subst hc
    have htell := Chip.calResult_fails (c := s.chip) hn
    refine Chip.Tells.ended (Chip.Tells.raise ?_ (by decide) _ _) (by decide)
    exact ((Chip.Frame.refl (S := []) (K := Touched [.one UPLINK.LINK_STATUS_STATE]) _).setFld UPLINK.LINK_STATUS_STATE _ _ 0
      (cells_one (by decide) hn)).tells htell (evt_not_touched (by decide) (by decide))

/-! ### The line (R222, R223) -/

/-- What an uplink does with the line as it is seen. -/
def Chip.seesLine (c : Chip) (x : LineSeen) : Chip := c.whenDue (c.ulSt x.n.val == ulSEARCH || c.ulUp x.n.val) fun d =>
  if (d.fecCount x.n.val x.fixed x.bad).ulSt x.n.val = ulSEARCH then (d.fecCount x.n.val x.fixed x.bad).lineSeen x.n.val x.line x.heldUs
  else d.fecCount x.n.val x.fixed x.bad

theorem exec_linkUp (x : LineSeen) (s : State) : exec (.linkUp x) s = run (fun c => c.seesLine x) s := rfl

/-- The bits that describe the line, as the receiver finds it. -/
def lineBitsOf (c : Chip) (n : Nat) (line : LineState) : List (FieldRow × Bool) :=
  [(UPLINK.LINK_STATUS_BLOCK_LOCK, line.blockLock), (UPLINK.LINK_STATUS_FEC_LOCK, line.fecLock && c.on UPLINK.LINK_STATUS_FEC_IN_FORCE n),
   (UPLINK.LINK_STATUS_HI_BER, line.hiBer), (UPLINK.LINK_STATUS_LOCAL_FAULT, line.localFault),
   (UPLINK.LINK_STATUS_REMOTE_FAULT, line.remoteFault)]

/-- The bits are set. -/
def Chip.lineSet (c : Chip) (n : Nat) (l : LineState) : Chip :=
  ((((c.setBit UPLINK.LINK_STATUS_BLOCK_LOCK l.blockLock n).setBit UPLINK.LINK_STATUS_FEC_LOCK
    (l.fecLock && (c.setBit UPLINK.LINK_STATUS_BLOCK_LOCK l.blockLock n).on UPLINK.LINK_STATUS_FEC_IN_FORCE n) n).setBit
    UPLINK.LINK_STATUS_HI_BER l.hiBer n).setBit UPLINK.LINK_STATUS_LOCAL_FAULT l.localFault n).setBit UPLINK.LINK_STATUS_REMOTE_FAULT
    l.remoteFault n

theorem Chip.lineShow_eq (l : LineState) : c.lineShow n l =
    if l.hiBer && !c.on UPLINK.LINK_STATUS_HI_BER n then (c.lineSet n l).raise EV.UPLINK_HI_BER n else c.lineSet n l := rfl

def lineKeys (n : Nat) : List Nat := [UPLINK.LINK_STATUS_BLOCK_LOCK.key n 0, UPLINK.LINK_STATUS_FEC_LOCK.key n 0, UPLINK.LINK_STATUS_HI_BER.key n 0,
  UPLINK.LINK_STATUS_LOCAL_FAULT.key n 0, UPLINK.LINK_STATUS_REMOTE_FAULT.key n 0]

theorem Chip.lineSet_frame (l : LineState) : c.Frame [] (· ∈ lineKeys n) (c.lineSet n l) := by
  unfold Chip.lineSet lineKeys
  exact (((((Chip.Frame.refl c).setBit _ _ _ _ (by simp)).setBit _ _ _ _ (by simp)).setBit _ _ _ _ (by simp)).setBit _ _ _ _
    (by simp)).setBit _ _ _ _ (by simp)

theorem lineKeys_touched (hn : n < 4) {k : Nat} (hk : k ∈ lineKeys n) : Touched lineSpots k := by
  simp only [lineKeys, List.mem_cons, List.not_mem_nil, or_false] at hk
  rcases hk with rfl | rfl | rfl | rfl | rfl <;> exact cells_one (by decide) hn

theorem Chip.on_setBit_apart {q r : FieldRow} {x : Bool} (hq : (q.placed && q.apart (.upto r)) = true) (hr : n < r.cls.count) (hm : n < q.cls.count) :
    (d.setBit r x n).on q n = d.on q n := Chip.on_of_fld (Chip.fld_setFld_apart hq hr (by decide) hm (by decide))

theorem Chip.lineSet_says (hn : n < 4) (l : LineState) : ∀ e ∈ lineBitsOf c n l, (c.lineSet n l).on e.1 n = e.2 := by
  have hfec : (c.setBit UPLINK.LINK_STATUS_BLOCK_LOCK l.blockLock n).on UPLINK.LINK_STATUS_FEC_IN_FORCE n = c.on UPLINK.LINK_STATUS_FEC_IN_FORCE n :=
    Chip.on_of_fld (Chip.fld_setFld_apart (by decide) hn (by decide) hn (by decide))
  intro e he
  simp only [lineBitsOf, List.mem_cons, List.not_mem_nil, or_false] at he
  rw [Chip.lineSet, hfec]
  rcases he with rfl | rfl | rfl | rfl | rfl
  · dsimp only
    rw [Chip.on_setBit_apart (by decide) hn hn, Chip.on_setBit_apart (by decide) hn hn, Chip.on_setBit_apart (by decide) hn hn,
      Chip.on_setBit_apart (by decide) hn hn, Chip.on_setBit_self _ rfl]
  · dsimp only
    rw [Chip.on_setBit_apart (by decide) hn hn, Chip.on_setBit_apart (by decide) hn hn, Chip.on_setBit_apart (by decide) hn hn,
      Chip.on_setBit_self _ rfl]
  · dsimp only
    rw [Chip.on_setBit_apart (by decide) hn hn, Chip.on_setBit_apart (by decide) hn hn, Chip.on_setBit_self _ rfl]
  · dsimp only
    rw [Chip.on_setBit_apart (by decide) hn hn, Chip.on_setBit_self _ rfl]
  · dsimp only
    rw [Chip.on_setBit_self _ rfl]

/-- The line is shown in `d`, and HI_BER is told as its bit becomes 1. -/
def Chip.LineShown (c d : Chip) (n : Nat) (l : LineState) : Prop :=
  (∀ e ∈ lineBitsOf c n l, d.on e.1 n = e.2) ∧
    (l.hiBer = true → c.on UPLINK.LINK_STATUS_HI_BER n = false → c.Tells d EV.UPLINK_HI_BER n)

theorem Chip.lineShow_frame (l : LineState) (S : List Part) : c.Frame S (· ∈ EV.UPLINK_HI_BER.key n :: lineKeys n) (c.lineShow n l) := by
  have h : c.Frame S (· ∈ EV.UPLINK_HI_BER.key n :: lineKeys n) (c.lineSet n l) :=
    (c.lineSet_frame l).mono (List.nil_subset _) fun _ hk => List.mem_cons_of_mem _ hk
  rw [Chip.lineShow_eq]
  exact Chip.Frame.ite (fun _ => h.raise _ _ List.mem_cons_self) fun _ => h

theorem Chip.lineShow_touched (hn : n < 4) (l : LineState) (S : List Part) : c.Frame S (Touched (.evt .uplink :: lineSpots)) (c.lineShow n l) := by
  refine (c.lineShow_frame l S).mono (List.Subset.refl _) fun k hk => ?_
  rcases List.mem_cons.mp hk with rfl | hk
  · exact cells_evt (cls := .uplink) (by decide) hn
  · exact Touched.mono (List.subset_cons_self _ _) k (lineKeys_touched hn hk)

theorem Chip.lineShow_says (hn : n < 4) (l : LineState) : c.LineShown (c.lineShow n l) n l := by
  have hset := c.lineSet_says hn l
  rw [Chip.lineShow_eq]
  refine ⟨fun e he => ?_, fun hber hwas => ?_⟩
  · have hrow : ∀ q ∈ (lineBitsOf c n l).map (·.1), (q.placed && q.apart (.evt .uplink)) = true ∧ q.cls.count = 4 := by
      show ∀ q ∈ [UPLINK.LINK_STATUS_BLOCK_LOCK, UPLINK.LINK_STATUS_FEC_LOCK, UPLINK.LINK_STATUS_HI_BER, UPLINK.LINK_STATUS_LOCAL_FAULT,
        UPLINK.LINK_STATUS_REMOTE_FAULT], _
      decide
    obtain ⟨hapart, hcount⟩ := hrow e.1 (List.mem_map_of_mem he)
    split
    · exact (Chip.on_of_fld (Chip.fld_raise_apart (e := EV.UPLINK_HI_BER) hapart hn (hcount ▸ hn) (by decide))).trans (hset e he)
    · exact hset e he
  · rw [hber, hwas]
    exact (c.lineSet_frame l).tells_raise _ _ (by decide) fun hk => not_touched (x := POWER.DOMAIN_STATE_AON) (R := lineSpots) (by decide) 0 0
      (by decide) (by decide) (lineKeys_touched hn hk)

theorem Chip.LineShown.inst {l : LineState} (h : c.LineShown d n l) (hn : n < 4) : c.LineShown (b.ended d) n l := by
  obtain ⟨hbits, htell⟩ := h
  refine ⟨fun e he => ?_, fun hber hwas => (htell hber hwas).inst (by decide) hn⟩
  have hrow : ∀ q ∈ (lineBitsOf c n l).map (·.1), (q.placed && q.cls.unlevelled) = true ∧ q.cls.count = 4 := by
    show ∀ q ∈ [UPLINK.LINK_STATUS_BLOCK_LOCK, UPLINK.LINK_STATUS_FEC_LOCK, UPLINK.LINK_STATUS_HI_BER, UPLINK.LINK_STATUS_LOCAL_FAULT,
      UPLINK.LINK_STATUS_REMOTE_FAULT], _
    decide
  obtain ⟨hlevel, hcount⟩ := hrow e.1 (List.mem_map_of_mem he)
  exact (Chip.ended_inst_on hlevel (hcount ▸ hn) (by decide)).trans (hbits e he)

/-! ### UP (Table 06.2) -/

/-- Where the verify process starts. -/
def Chip.verifyFrom (c : Chip) (n : Nat) : Nat :=
  if c.on UPLINK.MERGE_CFG_EN n then (if c.on UPLINK.MERGE_CFG_VERIFY_DIS n then 5 else 2) else 0

theorem Chip.verifyStart_says (hn : n < 4) : c.Frame [.uplinks] (Touched verifySpots) (c.verifyStart n) ∧
    (∃ x, (c.verifyStart n).upl n = { c.upl n with verifyAt := x }) ∧ (c.verifyStart n).fld UPLINK.MERGE_STATUS_ATTEMPTS n = 0 ∧
    (c.verifyStart n).fld UPLINK.MERGE_STATUS_VERIFY_STATE n = c.verifyFrom n := by
  have h := c.verifyReset_frame hn
  obtain ⟨hactive, hattempts, hstate⟩ := c.verifyReset_says hn
  have hen := Chip.on_of_fld (h.fld_apart UPLINK.MERGE_CFG_EN n 0 (by decide) hn (by decide))
  have hdis := Chip.on_of_fld (h.fld_apart UPLINK.MERGE_CFG_VERIFY_DIS n 0 (by decide) hn (by decide))
  unfold Chip.verifyStart
  extract_lets e
  have hu : e.upl n = c.upl n := Chip.upl_congr (h.uplinks (by simp))
  have h' : c.Frame [.uplinks] (Touched verifySpots) e := h.mono (List.nil_subset _) fun _ hk => hk
  have hen' : e.on UPLINK.MERGE_CFG_EN n = c.on UPLINK.MERGE_CFG_EN n := hen
  have hdis' : e.on UPLINK.MERGE_CFG_VERIFY_DIS n = c.on UPLINK.MERGE_CFG_VERIFY_DIS n := hdis
  have hattempts' : e.fld UPLINK.MERGE_STATUS_ATTEMPTS n = 0 := hattempts
  have hstate' : e.fld UPLINK.MERGE_STATUS_VERIFY_STATE n = if c.on UPLINK.MERGE_CFG_EN n then 1 else 0 := hstate
  rw [hen', hdis', Chip.verifyFrom]
  clear_value e
  cases hm : c.on UPLINK.MERGE_CFG_EN n with
  | false =>
    rw [hm] at hstate'
    exact ⟨h', ⟨_, hu⟩, hattempts', hstate'⟩
  | true =>
    cases hv : c.on UPLINK.MERGE_CFG_VERIFY_DIS n with
    | true =>
      refine ⟨(h'.setFld UPLINK.MERGE_STATUS_VERIFY_STATE _ _ 0 (cells_one (by decide) hn)).setFld UPLINK.MERGE_STATUS_ACTIVE _ _ 0
        (cells_one (by decide) hn), ⟨_, hu⟩, ?_, ?_⟩
      · refine (Chip.fld_setFld_apart (by decide) hn (by decide) hn (by decide)).trans ?_
        exact (Chip.fld_setFld_apart (by decide) hn (by decide) hn (by decide)).trans hattempts'
      · exact (Chip.fld_setFld_apart (by decide) hn (by decide) hn (by decide)).trans (Chip.fld_setFld_self _ _ _ _ _)
    | false =>
      refine ⟨(h'.withUplinks _ List.mem_cons_self).setFld UPLINK.MERGE_STATUS_VERIFY_STATE _ _ 0 (cells_one (by decide) hn),
        ⟨e.now + e.verifyTime n, ?_⟩, ?_, Chip.fld_setFld_self _ _ _ _ _⟩
      · refine Eq.trans (Chip.upl_congr rfl) ((Chip.upl_updUpl_self (c := e) (n := n) fun u => { u with verifyAt := e.now + e.verifyTime n }).trans ?_)
        rw [hu]
      · exact (Chip.fld_setFld_apart (by decide) hn (by decide) hn (by decide)).trans hattempts'

/-- The registers that becoming UP sets before its event. -/
def Chip.upSet (c : Chip) (n : Nat) : Chip :=
  (c.updUpl n fun u => { u with flushed := false, freeAt := c.net, rxCut := none }).setUlSt n ulUP

/-- What becoming UP does after its event. -/
def Chip.upRest (c : Chip) (n : Nat) : Chip := (c.verifyStart n).c7Eval n

theorem Chip.linkUp_eq : c.linkUp n = ((c.upSet n).raise EV.UPLINK_LINK_UP n).upRest n := rfl

def upSpots : List Spot := verifySpots ++ c7Spots

theorem Chip.upSet_frame (hn : n < 4) : c.Frame [.uplinks] (Touched [.one UPLINK.LINK_STATUS_STATE]) (c.upSet n) :=
  ((Chip.Frame.refl c).withUplinks _ List.mem_cons_self).setFld UPLINK.LINK_STATUS_STATE _ n 0 (cells_one (by decide) hn)

theorem Chip.upRest_frame (hn : n < 4) : c.Frame [.uplinks] (Touched upSpots) (c.upRest n) :=
  ((Chip.verifyStart_says hn).1.mono (List.Subset.refl _) (Touched.mono (by decide))).trans
    ((Chip.c7Eval_touched hn).mono (List.nil_subset _) (Touched.mono (by decide)))

/-- An event of the uplink stays raised. -/
theorem Chip.Tells.linkUp {v : Evt} (hn : n < 4) (hv : v.cls = .uplink) (hb : v.bit < 32) (h : a.Tells c v n) : a.Tells (c.linkUp n) v n := by
  have hset : a.Tells (c.upSet n) v n := by
    refine (Chip.upSet_frame hn).tells h ?_
    rw [Evt.key, hv]
    exact evt_not_touched (a := .uplink) (by decide) hn
  rw [Chip.linkUp_eq]
  refine (Chip.upRest_frame hn).tells (hset.raise hb _ _) ?_
  rw [Evt.key, hv]
  exact evt_not_touched (a := .uplink) (by decide) hn

def linkUpSpots : List Spot := .one UPLINK.LINK_STATUS_STATE :: .evt .uplink :: upSpots

theorem Chip.linkUp_frame (hn : n < 4) : c.Frame [.uplinks] (Touched linkUpSpots) (c.linkUp n) := by
  rw [Chip.linkUp_eq]
  exact (((Chip.upSet_frame hn).mono (List.Subset.refl _) (Touched.mono (by decide))).raise EV.UPLINK_LINK_UP n
    (cells_evt (cls := .uplink) (by decide) hn)).trans ((Chip.upRest_frame hn).mono (List.Subset.refl _) (Touched.mono (by decide)))

theorem Chip.linkUp_says (hn : n < 4) : (c.linkUp n).ulSt n = ulUP ∧
    c.Tells (c.linkUp n) EV.UPLINK_LINK_UP n ∧ ((c.linkUp n).upl n).rxCut = none ∧ (c.linkUp n).fld UPLINK.MERGE_STATUS_ATTEMPTS n = 0 ∧
    (c.linkUp n).fld UPLINK.MERGE_STATUS_VERIFY_STATE n = c.verifyFrom n := by
  have hset := c.upSet_frame hn
  have hcut : ((c.upSet n).upl n).rxCut = none := congrArg Uplink.rxCut
    (Chip.upl_updUpl_self (c := c) (n := n) fun u => { u with flushed := false, freeAt := c.net, rxCut := none })
  have hst : (c.upSet n).fld UPLINK.LINK_STATUS_STATE n = ulUP := Chip.fld_setFld_self _ _ _ _ _
  have hraise : (c.upSet n).Frame [] (Touched [.evt .uplink]) ((c.upSet n).raise EV.UPLINK_LINK_UP n) :=
    (Chip.Frame.refl _).raise _ _ (cells_evt (cls := .uplink) (by decide) hn)
  have htell : c.Tells ((c.upSet n).raise EV.UPLINK_LINK_UP n) EV.UPLINK_LINK_UP n :=
    hset.tells_raise _ _ (by decide) (not_touched (by decide) 0 0 (by decide) (by decide))
  have hupl : ((c.upSet n).raise EV.UPLINK_LINK_UP n).upl n = (c.upSet n).upl n := Chip.upl_congr (Chip.raise_uplinks _ _ _)
  rw [Chip.linkUp_eq]
  generalize (c.upSet n).raise EV.UPLINK_LINK_UP n = e at hraise htell hupl
  have hrest := e.upRest_frame hn
  obtain ⟨-, ⟨x, hx⟩, hattempts, hstate⟩ := e.verifyStart_says hn
  have h7 : (e.verifyStart n).Frame [] (Touched c7Spots) (e.upRest n) := Chip.c7Eval_touched hn
  have hfrom : e.verifyFrom n = c.verifyFrom n := by
    rw [Chip.verifyFrom, Chip.verifyFrom, Chip.on, Chip.on, hraise.fld_apart UPLINK.MERGE_CFG_EN n 0 (by decide) hn (by decide),
      hset.fld_apart UPLINK.MERGE_CFG_EN n 0 (by decide) hn (by decide), hraise.fld_apart UPLINK.MERGE_CFG_VERIFY_DIS n 0 (by decide) hn (by decide),
      hset.fld_apart UPLINK.MERGE_CFG_VERIFY_DIS n 0 (by decide) hn (by decide)]
    rfl
  refine ⟨?_, ?_, ?_, ?_, ?_⟩
  · rw [Chip.ulSt, hrest.fld_apart UPLINK.LINK_STATUS_STATE n 0 (by decide) hn (by decide),
      hraise.fld_apart UPLINK.LINK_STATUS_STATE n 0 (by decide) hn (by decide), hst]
  · exact hrest.tells htell (evt_not_touched (a := .uplink) (by decide) hn)
  · rw [Chip.upl_congr (h7.uplinks (by decide)), hx, hupl, hcut]
  · rw [h7.fld_apart UPLINK.MERGE_STATUS_ATTEMPTS n 0 (by decide) hn (by decide), hattempts]
  · rw [h7.fld_apart UPLINK.MERGE_STATUS_VERIFY_STATE n 0 (by decide) hn (by decide), hstate, hfrom]

/-! ### The line is seen (R222, R223) -/

/-- The line is good: it has held its lock, and no fault shows. -/
def Chip.Good (c : Chip) (n : Nat) (l : LineState) : Prop :=
  l.blockLock = true ∧ (l.fecLock = true ∨ c.on UPLINK.LINK_STATUS_FEC_IN_FORCE n = false) ∧ l.hiBer = false ∧ l.localFault = false ∧
    l.remoteFault = false

theorem Chip.lineGood_iff {l : LineState} : c.lineGood n l = true ↔ c.Good n l := by
  simp only [Chip.lineGood, Chip.Good, Bool.and_eq_true, Bool.or_eq_true, Bool.not_eq_true', and_assoc]

/-- An event of the uplink stays raised. -/
theorem Chip.Tells.lineShow {l : LineState} {v : Evt} (hn : n < 4) (hv : v.cls = .uplink) (hb : v.bit < 32) (h : a.Tells c v n) :
    a.Tells (c.lineShow n l) v n := by
  have hset : a.Tells (c.lineSet n l) v n := by
    refine ((c.lineSet_frame l).mono (List.Subset.refl _) fun _ hk => lineKeys_touched hn hk).tells h ?_
    rw [Evt.key, hv]
    exact evt_not_touched (a := .uplink) (by decide) hn
  rw [Chip.lineShow_eq]
  split
  · exact hset.raise hb _ _
  · exact hset

/-- What is shown and counted of the line in SEARCH. -/
def Chip.LineTold (c d : Chip) (n fixed bad : Nat) (l : LineState) : Prop :=
  c.LineShown d n l ∧ (c.on UPLINK.LINK_STATUS_FEC_IN_FORCE n = true → c.FecCounted d n fixed bad)

/-- The line is shown after its codewords are counted. -/
theorem Chip.lineShow_told (hn : n < 4) (fixed bad : Nat) (l : LineState) : c.LineTold ((c.fecCount n fixed bad).lineShow n l) n fixed bad l := by
  have hcount : c.Frame [] (Touched fecSpots) (c.fecCount n fixed bad) := Chip.fecCount_touched hn []
  have hfec := Chip.fecCount_counted (c := c) (fixed := fixed) (bad := bad) hn
  generalize c.fecCount n fixed bad = e at hcount hfec
  have hshow := e.lineShow_touched hn l []
  obtain ⟨hbits, htell⟩ := e.lineShow_says hn l
  have hforce := Chip.on_of_fld (hcount.fld_apart UPLINK.LINK_STATUS_FEC_IN_FORCE n 0 (by decide) hn (by decide))
  have hhi := Chip.on_of_fld (hcount.fld_apart UPLINK.LINK_STATUS_HI_BER n 0 (by decide) hn (by decide))
  refine ⟨⟨fun x hx => hbits x ?_, fun hber hwas hup => ?_⟩, fun hon => ?_⟩
  · rw [lineBitsOf, hforce]
    exact hx
  · refine htell hber (hhi.trans hwas) ?_
    rw [hcount.domUp _ (not_touched (by decide) 0 0 (by decide) (by decide))]
    exact hup
  · obtain ⟨hfixed, hbad⟩ := hfec hon
    refine ⟨?_, fun hb => ⟨?_, (hbad hb).2.lineShow hn rfl (by decide)⟩⟩
    · rw [Chip.Counts, hshow.fld_apart UPLINK.FEC_CORRECTED_COUNT n 0 (by decide) hn (by decide), hfixed]
    · rw [Chip.Counts, hshow.fld_apart UPLINK.FEC_UNCORRECTED_COUNT n 0 (by decide) hn (by decide), (hbad hb).1]

theorem Chip.LineTold.linkUp {fixed bad : Nat} {l : LineState} (hn : n < 4)
    (h : a.LineTold c n fixed bad l) : a.LineTold (c.linkUp n) n fixed bad l := by
  obtain ⟨⟨hbits, htell⟩, hfec⟩ := h
  have hup := c.linkUp_frame hn
  refine ⟨⟨fun e he => ?_, fun hber hwas => (htell hber hwas).linkUp hn rfl (by decide)⟩, fun hon => ?_⟩
  · have hrow : ∀ q ∈ (lineBitsOf a n l).map (·.1), (q.placed && linkUpSpots.all q.apart) = true ∧ q.cls.count = 4 := by
      show ∀ q ∈ [UPLINK.LINK_STATUS_BLOCK_LOCK, UPLINK.LINK_STATUS_FEC_LOCK, UPLINK.LINK_STATUS_HI_BER, UPLINK.LINK_STATUS_LOCAL_FAULT,
        UPLINK.LINK_STATUS_REMOTE_FAULT], _
      decide
    obtain ⟨hapart, hcount⟩ := hrow e.1 (List.mem_map_of_mem he)
    exact (Chip.on_of_fld (hup.fld_apart e.1 n 0 hapart (hcount ▸ hn) (by decide))).trans (hbits e he)
  · obtain ⟨hfixed, hbad⟩ := hfec hon
    refine ⟨?_, fun hb => ⟨?_, (hbad hb).2.linkUp hn rfl (by decide)⟩⟩
    · rw [Chip.Counts, hup.fld_apart UPLINK.FEC_CORRECTED_COUNT n 0 (by decide) hn (by decide), hfixed]
    · rw [Chip.Counts, hup.fld_apart UPLINK.FEC_UNCORRECTED_COUNT n 0 (by decide) hn (by decide), (hbad hb).1]

theorem Chip.LineTold.inst {fixed bad : Nat} {l : LineState} (hn : n < 4) (h : c.LineTold d n fixed bad l) : c.LineTold (b.ended d) n fixed bad l :=
  ⟨h.1.inst hn, fun hon => (h.2 hon).inst hn⟩

theorem Chip.fecCount_on (hn : n < 4) {fixed bad : Nat} (r : FieldRow) (hr : (r.placed && fecSpots.all r.apart) = true) (hm : n < r.cls.count) :
    (c.fecCount n fixed bad).fld r n = c.fld r n := (Chip.fecCount_touched hn []).fld_apart r n 0 hr hm (by decide)

/-- The line as SEARCH sees it. -/
theorem Chip.seesLine_search (x : LineSeen) (h : c.ulSt x.n.val = ulSEARCH) : c.seesLine x =
    if c.lineGood x.n.val x.line ∧ 1000 ≤ x.heldUs then ((c.fecCount x.n.val x.fixed x.bad).lineShow x.n.val x.line).linkUp x.n.val
      else (c.fecCount x.n.val x.fixed x.bad).lineShow x.n.val x.line := by
  have hn := x.n.isLt
  have hst : (c.fecCount x.n.val x.fixed x.bad).ulSt x.n.val = ulSEARCH :=
    (Chip.fecCount_on hn UPLINK.LINK_STATUS_STATE (by decide) hn).trans h
  have hforce : ((c.fecCount x.n.val x.fixed x.bad).lineShow x.n.val x.line).on UPLINK.LINK_STATUS_FEC_IN_FORCE x.n.val =
      c.on UPLINK.LINK_STATUS_FEC_IN_FORCE x.n.val :=
    Chip.on_of_fld (((Chip.lineShow_touched hn x.line []).fld_apart UPLINK.LINK_STATUS_FEC_IN_FORCE x.n.val 0 (by decide) hn (by decide)).trans
      (Chip.fecCount_on hn UPLINK.LINK_STATUS_FEC_IN_FORCE (by decide) hn))
  have hgood : ((c.fecCount x.n.val x.fixed x.bad).lineShow x.n.val x.line).lineGood x.n.val x.line = c.lineGood x.n.val x.line := by
    rw [Chip.lineGood, hforce, Chip.lineGood]
  rw [Chip.seesLine, Chip.whenDue_true _ _ (by rw [h]; rfl), if_pos hst, Chip.lineSeen, hgood]

/-- The line as UP sees it. -/
theorem Chip.seesLine_up (x : LineSeen) (h : c.ulSt x.n.val = ulUP) : c.seesLine x = c.fecCount x.n.val x.fixed x.bad := by
  have hn := x.n.isLt
  have hst : (c.fecCount x.n.val x.fixed x.bad).ulSt x.n.val = ulUP := (Chip.fecCount_on hn UPLINK.LINK_STATUS_STATE (by decide) hn).trans h
  rw [Chip.seesLine, Chip.whenDue_true _ _ (by rw [Chip.ulUp, h]; rfl), if_neg (by rw [hst]; decide)]

/-- The registers that the line's own state and its codewords may change. -/
def seenKeys (c : Chip) (n : Nat) (l : LineState) : List Nat :=
  EV.UPLINK_HI_BER.key n :: (lineBitsOf c n l).map (fun e => e.1.key n 0) ++ if c.on UPLINK.LINK_STATUS_FEC_IN_FORCE n then fecKeys n else []

theorem seen_sets (x : LineSeen) (h : s.chip.ulSt x.n.val = ulSEARCH) (hg : ¬ (s.chip.Good x.n.val x.line ∧ 1000 ≤ x.heldUs)) :
    SetsRegs (.linkUp x) s (seenKeys s.chip x.n.val x.line) fun d => s.chip.LineTold d x.n.val x.fixed x.bad x.line := by
  refine setsRegs_of (exec_linkUp x s) ?_ ?_ <;> rw [Chip.seesLine_search x h, if_neg (by rw [Chip.lineGood_iff]; exact hg)]
  · have hcount : s.chip.Frame [.ecc] (· ∈ seenKeys s.chip x.n.val x.line) (s.chip.fecCount x.n.val x.fixed x.bad) := by
      unfold seenKeys
      cases hon : s.chip.on UPLINK.LINK_STATUS_FEC_IN_FORCE x.n.val with
      | false =>
        rw [Chip.fecCount_off hon]
        exact .refl _
      | true => exact (Chip.fecCount_frame [.ecc]).mono (List.Subset.refl _) fun k hk => List.mem_append_right _ hk
    refine hcount.trans ((Chip.lineShow_frame _ _).mono (List.Subset.refl _) fun k hk => List.mem_append_left _ ?_)
    exact hk
  · exact (Chip.lineShow_told x.n.isLt _ _ _).inst x.n.isLt

theorem seen_up (x : LineSeen) (h : s.chip.ulSt x.n.val = ulSEARCH) (hg : s.chip.Good x.n.val x.line) (hus : 1000 ≤ x.heldUs) :
    Ends (.linkUp x) s fun d => s.chip.LineTold d x.n.val x.fixed x.bad x.line ∧ d.ulSt x.n.val = ulUP ∧
      s.chip.Tells d EV.UPLINK_LINK_UP x.n.val ∧ (d.upl x.n.val).rxCut = none ∧ d.fld UPLINK.MERGE_STATUS_ATTEMPTS x.n.val = 0 ∧
      d.fld UPLINK.MERGE_STATUS_VERIFY_STATE x.n.val = s.chip.verifyFrom x.n.val := by
  have hn := x.n.isLt
  have htold := s.chip.lineShow_told hn x.fixed x.bad x.line
  have hframe : s.chip.Frame [] (Touched (fecSpots ++ .evt .uplink :: lineSpots))
      ((s.chip.fecCount x.n.val x.fixed x.bad).lineShow x.n.val x.line) :=
    ((Chip.fecCount_touched hn []).mono (List.Subset.refl _) (Touched.mono (by decide))).trans
      ((Chip.lineShow_touched hn x.line []).mono (List.Subset.refl _) (Touched.mono (by decide)))
  refine ends_of (exec_linkUp x s) ?_
  rw [Chip.seesLine_search x h, if_pos ⟨Chip.lineGood_iff.mpr hg, hus⟩]
  generalize (s.chip.fecCount x.n.val x.fixed x.bad).lineShow x.n.val x.line = e at htold hframe
  obtain ⟨hst, htell, hcut, hattempts, hstate⟩ := e.linkUp_says hn
  have hfrom : e.verifyFrom x.n.val = s.chip.verifyFrom x.n.val := by
    rw [Chip.verifyFrom, Chip.verifyFrom, Chip.on, Chip.on, hframe.fld_apart UPLINK.MERGE_CFG_EN x.n.val 0 (by decide) hn (by decide),
      hframe.fld_apart UPLINK.MERGE_CFG_VERIFY_DIS x.n.val 0 (by decide) hn (by decide)]
    rfl
  refine ⟨(htold.linkUp hn).inst hn, (Chip.ended_inst (by decide) hn (by decide)).trans hst, ?_, ?_,
    (Chip.ended_inst (by decide) hn (by decide)).trans hattempts, ((Chip.ended_inst (by decide) hn (by decide)).trans hstate).trans hfrom⟩
  · refine Chip.Tells.inst ?_ (by decide) hn
    intro hup
    refine htell ?_
    rw [hframe.domUp _ (not_touched (by decide) 0 0 (by decide) (by decide))]
    exact hup
  · rw [Chip.upl_congr (Chip.ended_uplinks _ _), hcut]

theorem seen_counts (x : LineSeen) (h : s.chip.ulSt x.n.val = ulUP) (hon : s.chip.on UPLINK.LINK_STATUS_FEC_IN_FORCE x.n.val = true) :
    SetsRegs (.linkUp x) s (fecKeys x.n.val) fun d => s.chip.FecCounted d x.n.val x.fixed x.bad := by
  refine setsRegs_of (exec_linkUp x s) ?_ ?_ <;> rw [Chip.seesLine_up x h]
  · exact Chip.fecCount_frame _
  · exact (Chip.fecCount_counted x.n.isLt hon).inst x.n.isLt

theorem seen_idles (x : LineSeen) (h : s.chip.ulSt x.n.val ≠ ulSEARCH)
    (h' : s.chip.ulSt x.n.val ≠ ulUP ∨ ¬ s.chip.on UPLINK.LINK_STATUS_FEC_IN_FORCE x.n.val = true) : Idles (.linkUp x) s := by
  refine idles_of (exec_linkUp x s) ?_
  by_cases hup : s.chip.ulSt x.n.val = ulUP
  · rw [Chip.seesLine_up x hup]
    exact Chip.fecCount_off (Bool.eq_false_iff.mpr (h'.resolve_left fun hne => hne hup))
  · refine Chip.whenDue_false _ _ ?_
    rw [Chip.ulUp, beq_false_of_ne h, beq_false_of_ne hup]
    rfl
end

end Sys2Proof.Machine
end

section
/-!
PROOF. The link states of an uplink: the loss of its line, MERGE_CFG.EN, verify mPackets, and the obligation.
-/
namespace Sys2Proof.Machine

section
variable {a b c d e : Chip} {n : Nat} {p : Port} {s : State}

/-! ### UP becomes SEARCH -/

theorem exec_linkDown (n : Fin 4) (cause : LinkCause) (busy : Bool) (s : State) : exec (.linkDown n cause busy) s =
    run (fun c => c.whenDue (c.ulUp n.val) fun d => d.linkDown n.val cause busy) s := rfl

/-- The cause of the loss is shown. -/
def Chip.causeShow (c : Chip) (n : Nat) : LinkCause → Chip
  | .blockLock => (c.setFld UPLINK.LINK_STATUS_BLOCK_LOCK 0 n).setFld UPLINK.LINK_STATUS_FEC_LOCK 0 n
  | .hiBer => (c.setFld UPLINK.LINK_STATUS_HI_BER 1 n).raise EV.UPLINK_HI_BER n
  | .localFault => c.setFld UPLINK.LINK_STATUS_LOCAL_FAULT 1 n
  | .remoteFault => (c.setFld UPLINK.LINK_STATUS_REMOTE_FAULT 1 n).raise EV.UPLINK_REMOTE_FAULT n

/-- UP is left for SEARCH. -/
def Chip.upLost (c : Chip) (n : Nat) (busy : Bool) : Chip := (c.setUlSt n ulSEARCH).leaveUp n (some busy)

theorem Chip.linkDown_eq (cause : LinkCause) (busy : Bool) :
    c.linkDown n cause busy = (((c.upLost n busy).raise EV.UPLINK_LINK_DOWN n).causeShow n cause).c7Eval n := by
  cases cause <;> rfl

theorem Chip.causeShow_frame (hn : n < 4) (cause : LinkCause) : c.Frame [] (Touched (.evt .uplink :: lineSpots)) (c.causeShow n cause) := by
  have hset (r : FieldRow) (v : Nat) (hr : Spot.one r ∈ lineSpots) (hm : n < r.cls.count) :
      c.Frame [] (Touched (.evt .uplink :: lineSpots)) (c.setFld r v n) :=
    (Chip.Frame.refl c).setFld r v n 0 (cells_one (List.mem_cons_of_mem _ hr) hm)
  have hevt : Touched (.evt .uplink :: lineSpots) (evtKey (PageCls.uplink.base + n)) := cells_evt List.mem_cons_self hn
  cases cause with
  | blockLock =>
    exact (hset UPLINK.LINK_STATUS_BLOCK_LOCK 0 (by decide) hn).trans ((Chip.Frame.refl _).setFld UPLINK.LINK_STATUS_FEC_LOCK 0 n 0
      (cells_one (by decide) hn))
  | hiBer => exact (hset UPLINK.LINK_STATUS_HI_BER 1 (by decide) hn).raise EV.UPLINK_HI_BER n hevt
  | localFault => exact hset UPLINK.LINK_STATUS_LOCAL_FAULT 1 (by decide) hn
  | remoteFault => exact (hset UPLINK.LINK_STATUS_REMOTE_FAULT 1 (by decide) hn).raise EV.UPLINK_REMOTE_FAULT n hevt

theorem Chip.causeShow_keeps (cause : LinkCause) : c.KeepsEvents (c.causeShow n cause) := by
  cases cause with
  | blockLock => exact ((Chip.KeepsEvents.refl c).setFld (by decide) (by decide) _ _).setFld (by decide) (by decide) _ _
  | hiBer => exact ((Chip.KeepsEvents.refl c).setFld (by decide) (by decide) _ _).raise _ _
  | localFault => exact (Chip.KeepsEvents.refl c).setFld (by decide) (by decide) _ _
  | remoteFault => exact ((Chip.KeepsEvents.refl c).setFld (by decide) (by decide) _ _).raise _ _

theorem Chip.remoteFault_shown (hn : n < 4) : (c.causeShow n .remoteFault).fld UPLINK.LINK_STATUS_REMOTE_FAULT n = 1 ∧
    c.Tells (c.causeShow n .remoteFault) EV.UPLINK_REMOTE_FAULT n := by
  have hset : c.Frame [] (Touched [.one UPLINK.LINK_STATUS_REMOTE_FAULT]) (c.setFld UPLINK.LINK_STATUS_REMOTE_FAULT 1 n) :=
    (Chip.Frame.refl c).setFld UPLINK.LINK_STATUS_REMOTE_FAULT 1 n 0 (cells_one (by decide) hn)
  exact ⟨(Chip.fld_raise_apart (e := EV.UPLINK_REMOTE_FAULT) (by decide) hn hn (by decide)).trans (Chip.fld_setFld_self _ _ _ _ _),
    hset.tells_raise _ _ (by decide) (not_touched (by decide) 0 0 (by decide) (by decide))⟩

theorem Chip.hiBer_shown (hn : n < 4) : (c.causeShow n .hiBer).fld UPLINK.LINK_STATUS_HI_BER n = 1 ∧
    c.Tells (c.causeShow n .hiBer) EV.UPLINK_HI_BER n := by
  have hset : c.Frame [] (Touched [.one UPLINK.LINK_STATUS_HI_BER]) (c.setFld UPLINK.LINK_STATUS_HI_BER 1 n) :=
    (Chip.Frame.refl c).setFld UPLINK.LINK_STATUS_HI_BER 1 n 0 (cells_one (by decide) hn)
  exact ⟨(Chip.fld_raise_apart (e := EV.UPLINK_HI_BER) (by decide) hn hn (by decide)).trans (Chip.fld_setFld_self _ _ _ _ _),
    hset.tells_raise _ _ (by decide) (not_touched (by decide) 0 0 (by decide) (by decide))⟩

theorem Chip.upLost_frame (hn : n < 4) (busy : Bool) :
    c.Frame leaveParts (Touched (.one UPLINK.LINK_STATUS_STATE :: leaveSpots)) (c.upLost n busy) :=
  ((Chip.Frame.refl c).setFld UPLINK.LINK_STATUS_STATE _ n 0 (cells_one (by decide) hn)).trans
    ((Chip.leaveUp_frame hn _).mono (List.Subset.refl _) (Touched.mono (List.subset_cons_self _ _)))

/-- What leaving UP for SEARCH does before its cause is shown. -/
theorem Chip.upLost_says (hn : n < 4) (busy : Bool) : c.LeftUp (c.upLost n busy) n ∧ (c.upLost n busy).ulSt n = ulSEARCH ∧
    (busy = true → c.Counts (c.upLost n busy) UPLINK.RX_CODE_ERR_COUNT n ∧ c.Tells (c.upLost n busy) EV.UPLINK_RX_ERROR n) := by
  have hset : c.Frame [] (Touched [.one UPLINK.LINK_STATUS_STATE]) (c.setUlSt n ulSEARCH) :=
    (Chip.Frame.refl c).setFld UPLINK.LINK_STATUS_STATE ulSEARCH n 0 (cells_one (by decide) hn)
  have hst : (c.setUlSt n ulSEARCH).fld UPLINK.LINK_STATUS_STATE n = ulSEARCH := Chip.fld_setFld_self _ _ _ _ _
  have hflight : (c.setUlSt n ulSEARCH).inFlight n = c.inFlight n := rfl
  unfold Chip.upLost
  generalize c.setUlSt n ulSEARCH = e at hset hst hflight
  obtain ⟨⟨hcur, hcont, hctrl, hreasm, hdowns, haborts⟩, -, hbusy⟩ := e.leaveUp_says hn (some busy)
  have hcount (r : FieldRow) (k : Nat) (hr : (r.placed && [Spot.one UPLINK.LINK_STATUS_STATE].all r.apart) = true) (hm : n < r.cls.count)
      (h : e.Counts (e.leaveUp n (some busy)) r n k) : c.Counts (e.leaveUp n (some busy)) r n k := by
    rw [Chip.Counts, ← hset.fld_apart r n 0 hr hm (by decide)]
    exact h
  refine ⟨⟨hcur, hcont, hctrl, hreasm, hcount _ _ (by decide) hn hdowns, fun h => ?_⟩, ?_, fun h => ?_⟩
  · rw [← hflight] at h ⊢
    exact hcount _ _ (by decide) hn (haborts h)
  · exact ((Chip.leaveUp_frame hn _).fld_apart UPLINK.LINK_STATUS_STATE n 0 (by decide) hn (by decide)).trans hst
  · obtain ⟨hcode, htell⟩ := hbusy (congrArg _ h)
    refine ⟨hcount _ _ (by decide) hn hcode, fun hup => htell ?_⟩
    rw [hset.domUp _ (not_touched (by decide) 0 0 (by decide) (by decide))]
    exact hup

theorem linkDown_ends (n : Fin 4) (cause : LinkCause) (busy : Bool) (h : s.chip.ulSt n.val = ulUP) : Ends (.linkDown n cause busy) s fun d =>
    d.ulSt n.val = ulSEARCH ∧ s.chip.Counts d UPLINK.LINK_DOWNS_COUNT n.val ∧
      s.chip.Tells d EV.UPLINK_LINK_DOWN n.val ∧ (d.upl n.val).cur = none ∧ (d.upl n.val).cont = none ∧ (d.upl n.val).ctrl = none ∧
      (d.upl n.val).reasm = none ∧ (0 < s.chip.inFlight n.val → s.chip.Counts d UPLINK.TX_LINK_ABORT_COUNT n.val (s.chip.inFlight n.val)) ∧
      (busy = true → s.chip.Counts d UPLINK.RX_CODE_ERR_COUNT n.val ∧ s.chip.Tells d EV.UPLINK_RX_ERROR n.val) ∧
      (cause = .remoteFault → d.fld UPLINK.LINK_STATUS_REMOTE_FAULT n.val = 1 ∧ s.chip.Tells d EV.UPLINK_REMOTE_FAULT n.val) ∧
      (cause = .hiBer → d.fld UPLINK.LINK_STATUS_HI_BER n.val = 1 ∧ s.chip.Tells d EV.UPLINK_HI_BER n.val) := by
  have hn := n.isLt
  obtain ⟨hleft, hst, hbusy⟩ := s.chip.upLost_says hn busy
  have hlost := s.chip.upLost_frame hn busy
  refine ends_of_due (exec_linkDown n cause busy s) (beq_iff_eq.mpr h) ?_
  rw [Chip.linkDown_eq]
  generalize s.chip.upLost n.val busy = e at hleft hst hbusy hlost
  have hraise : e.Frame [] (Touched [.evt .uplink]) (e.raise EV.UPLINK_LINK_DOWN n.val) :=
    (Chip.Frame.refl e).raise _ _ (cells_evt (cls := .uplink) (by decide) hn)
  have htell : s.chip.Tells (e.raise EV.UPLINK_LINK_DOWN n.val) EV.UPLINK_LINK_DOWN n.val :=
    hlost.tells_raise _ _ (by decide) (not_touched (by decide) 0 0 (by decide) (by decide))
  have herror : busy = true → s.chip.Tells (e.raise EV.UPLINK_LINK_DOWN n.val) EV.UPLINK_RX_ERROR n.val :=
    fun h => (hbusy h).2.raise (by decide) _ _
  generalize e.raise EV.UPLINK_LINK_DOWN n.val = f at hraise htell herror
  have hcause := f.causeShow_frame hn cause
  have hkeeps := f.causeShow_keeps (n := n.val) cause
  have hremote : cause = .remoteFault → (f.causeShow n.val cause).fld UPLINK.LINK_STATUS_REMOTE_FAULT n.val = 1 ∧
      f.Tells (f.causeShow n.val cause) EV.UPLINK_REMOTE_FAULT n.val := by
    rintro rfl
    exact Chip.remoteFault_shown hn
  have hhi : cause = .hiBer → (f.causeShow n.val cause).fld UPLINK.LINK_STATUS_HI_BER n.val = 1 ∧
      f.Tells (f.causeShow n.val cause) EV.UPLINK_HI_BER n.val := by
    rintro rfl
    exact Chip.hiBer_shown hn
  have hdom : f.domUp (PageCls.uplink).domain = s.chip.domUp (PageCls.uplink).domain :=
    (hraise.domUp _ (not_touched (by decide) 0 0 (by decide) (by decide))).trans
      (hlost.domUp _ (not_touched (by decide) 0 0 (by decide) (by decide)))
  generalize f.causeShow n.val cause = g at hcause hkeeps hremote hhi
  have h7 : g.Frame [] (Touched c7Spots) (g.c7Eval n.val) := Chip.c7Eval_touched hn
  have hrest : e.Frame [] (Touched (.evt .uplink :: lineSpots ++ c7Spots)) (g.c7Eval n.val) :=
    ((hraise.mono (List.Subset.refl _) (Touched.mono (by decide))).trans (hcause.mono (List.Subset.refl _) (Touched.mono (by decide)))).trans
      (h7.mono (List.Subset.refl _) (Touched.mono (by decide)))
  have hlast {v : Evt} (ht : s.chip.Tells g v n.val) (hv : v.cls = .uplink) : s.chip.Tells (g.c7Eval n.val) v n.val := by
    refine h7.tells ht ?_
    rw [Evt.key, hv]
    exact evt_not_touched (a := .uplink) (by decide) hn
  generalize g.c7Eval n.val = d at h7 hrest hlast
  obtain ⟨hcur, hcont, hctrl, hreasm, hdowns, haborts⟩ := hleft
  have hupl : ((s.chip.ended d).upl n.val) = e.upl n.val := Chip.upl_congr ((Chip.ended_uplinks _ _).trans (hrest.uplinks (by decide)))
  have hcount (r : FieldRow) (k : Nat) (hr : (r.placed && (Spot.evt .uplink :: lineSpots ++ c7Spots).all r.apart) = true)
      (hu : (r.placed && r.cls.unlevelled) = true) (hm : n.val < r.cls.count) (h : s.chip.Counts e r n.val k) :
      s.chip.Counts (s.chip.ended d) r n.val k :=
    (Chip.ended_inst hu hm (by decide)).trans ((hrest.fld_apart r n.val 0 hr hm (by decide)).trans h)
  have hshown {r : FieldRow} {v : Evt} (hr : (r.placed && c7Spots.all r.apart) = true) (hu : (r.placed && r.cls.unlevelled) = true)
      (hm : n.val < r.cls.count) (hv : v.cls = .uplink) (h : g.fld r n.val = 1 ∧ f.Tells g v n.val) :
      (s.chip.ended d).fld r n.val = 1 ∧ s.chip.Tells (s.chip.ended d) v n.val := by
    refine ⟨(Chip.ended_inst hu hm (by decide)).trans ((h7.fld_apart r n.val 0 hr hm (by decide)).trans h.1), ?_⟩
    refine Chip.Tells.inst (hlast (fun hup => h.2 ?_) hv) (by rw [hv]; decide) (by rw [hv]; exact hn)
    rw [hv] at hup ⊢
    rw [hdom]
    exact hup
  rw [hupl]
  refine ⟨?_, hcount _ _ (by decide) (by decide) hn hdowns, (hlast (htell.keeps hkeeps (by decide)) rfl).inst (by decide) hn, hcur, hcont, hctrl,
      hreasm,
    fun hpos => hcount _ _ (by decide) (by decide) hn (haborts hpos), fun hb => ⟨hcount _ _ (by decide) (by decide) hn (hbusy hb).1, ?_⟩,
    fun hc => hshown (by decide) (by decide) hn rfl (hremote hc), fun hc => hshown (by decide) (by decide) hn rfl (hhi hc)⟩
  · rw [Chip.ulSt, Chip.ended_inst (by decide) hn (by decide), hrest.fld_apart UPLINK.LINK_STATUS_STATE n.val 0 (by decide) hn (by decide)]
    exact hst
  · exact (hlast ((herror hb).keeps hkeeps (by decide)) rfl).inst (by decide) hn

/-! ### MERGE_CFG (R206) -/

theorem exec_mergeEnWrite (p : Port) (n : Fin 4) (v : Word) (s : State) : exec (.mergeEnWrite p n v) s =
    run (fun c => c.accessField p UPLINK.MERGE_CFG_EN n.val fun d => d.mergeCfgWrite p n.val v.toNat) s := rfl

def mergeRows : List FieldRow := [UPLINK.MERGE_CFG_EN, UPLINK.MERGE_CFG_VERIFY_DIS, UPLINK.MERGE_CFG_ADD_FRAG_SIZE, UPLINK.MERGE_CFG_VERIFY_TIME_MS,
  UPLINK.MERGE_CFG_PREEMPT_CLASS, UPLINK.MERGE_CFG_PREEMPT_CLASS7]

theorem mergeFields : c.fieldsAt .uplink 0x058 = mergeRows.map fun r => (r, 0) := rfl

theorem Chip.mergeSet_says (hn : n < 4) (v : Nat) : c.Frame [] (Touched (mergeRows.map .one)) (c.plainWrite .uplink n 0x058 v p) ∧
    (c.plainWrite .uplink n 0x058 v p).fld UPLINK.MERGE_CFG_EN n = bitsOf v 0 0 ∧
    (c.plainWrite .uplink n 0x058 v p).fld UPLINK.MERGE_CFG_VERIFY_DIS n = bitsOf v 1 1 := by
  rw [Chip.plainWrite_open (Chip.sealedAt_open (by decide) _ _)]
  refine ⟨(c.plainFields_frame _ _ _ _ []).mono (List.Subset.refl _) fun k hk => ?_,
    Chip.fld_plainFields (h := (UPLINK.MERGE_CFG_EN, 0)) (by rw [mergeFields]; decide) v,
    Chip.fld_plainFields (h := (UPLINK.MERGE_CFG_VERIFY_DIS, 0)) (by rw [mergeFields]; decide) v⟩
  rw [Chip.takenKeys, mergeFields] at hk
  obtain ⟨g, hg, rfl⟩ := List.mem_map.mp hk
  obtain ⟨r, hr, rfl⟩ := List.mem_map.mp (List.mem_filter.mp hg).1
  have hcount : ∀ r ∈ mergeRows, r.cls.count = 4 := by decide
  exact cells_one (List.mem_map_of_mem hr) ((hcount r hr).symm ▸ hn)

/-- What the merge sublayer holds is dropped, and its process goes back to its start. -/
def Chip.mergeOff (c : Chip) (n : Nat) : Chip := ((c.reasmDrop n).updUpl n fun u => { u with responds := 0 }).verifyReset n

theorem Chip.mergeCfgWrite_off {v : Nat} (hwas : c.on UPLINK.MERGE_CFG_EN n = true)
    (hen : (c.plainWrite .uplink n 0x058 v p).on UPLINK.MERGE_CFG_EN n = false) :
    c.mergeCfgWrite p n v = ((c.plainWrite .uplink n 0x058 v p).mergeOff n).c7Eval n := by
  have h : c.mergeCfgWrite p n v = (if c.on UPLINK.MERGE_CFG_EN n && !(c.plainWrite .uplink n 0x058 v p).on UPLINK.MERGE_CFG_EN n then
      (c.plainWrite .uplink n 0x058 v p).mergeOff n else if !c.on UPLINK.MERGE_CFG_EN n && (c.plainWrite .uplink n 0x058 v p).on UPLINK.MERGE_CFG_EN n then
        (if (c.plainWrite .uplink n 0x058 v p).ulUp n then (c.plainWrite .uplink n 0x058 v p).verifyStart n else
          (c.plainWrite .uplink n 0x058 v p).verifyReset n) else c.plainWrite .uplink n 0x058 v p).c7Eval n := rfl
  rw [h, hwas, hen]
  rfl

theorem Chip.mergeCfgWrite_on {v : Nat} (hwas : c.on UPLINK.MERGE_CFG_EN n = false)
    (hen : (c.plainWrite .uplink n 0x058 v p).on UPLINK.MERGE_CFG_EN n = true) :
    c.mergeCfgWrite p n v = (if (c.plainWrite .uplink n 0x058 v p).ulUp n then (c.plainWrite .uplink n 0x058 v p).verifyStart n else
      (c.plainWrite .uplink n 0x058 v p).verifyReset n).c7Eval n := by
  have h : c.mergeCfgWrite p n v = (if c.on UPLINK.MERGE_CFG_EN n && !(c.plainWrite .uplink n 0x058 v p).on UPLINK.MERGE_CFG_EN n then
      (c.plainWrite .uplink n 0x058 v p).mergeOff n else if !c.on UPLINK.MERGE_CFG_EN n && (c.plainWrite .uplink n 0x058 v p).on UPLINK.MERGE_CFG_EN n then
        (if (c.plainWrite .uplink n 0x058 v p).ulUp n then (c.plainWrite .uplink n 0x058 v p).verifyStart n else
          (c.plainWrite .uplink n 0x058 v p).verifyReset n) else c.plainWrite .uplink n 0x058 v p).c7Eval n := rfl
  rw [h, hwas, hen]
  rfl

def mergeOffSpots : List Spot := .evt .uplink :: .one UPLINK.RX_ASSY_ERR_COUNT :: verifySpots

theorem Chip.mergeOff_says (hn : n < 4) : c.Frame [.uplinks] (Touched mergeOffSpots) (c.mergeOff n) ∧
    ((c.mergeOff n).upl n).reasm = none ∧ ((c.mergeOff n).upl n).responds = 0 ∧ (c.mergeOff n).fld UPLINK.MERGE_STATUS_ACTIVE n = 0 ∧
    (c.mergeOff n).fld UPLINK.MERGE_STATUS_VERIFY_STATE n = if c.on UPLINK.MERGE_CFG_EN n then 1 else 0 := by
  obtain ⟨hdrop, hreasm⟩ := Chip.reasmDrop_says (c := c) hn
  have hset : c.Frame [.uplinks] (Touched mergeOffSpots) ((c.reasmDrop n).updUpl n fun u => { u with responds := 0 }) :=
    (hdrop.mono (List.Subset.refl _) (Touched.mono (by decide))).withUplinks _ List.mem_cons_self
  have hu : ((c.reasmDrop n).updUpl n fun u => { u with responds := 0 }).upl n = { c.upl n with reasm := none, responds := 0 } := by
    rw [Chip.upl_updUpl_self, hreasm]
  unfold Chip.mergeOff
  generalize (c.reasmDrop n).updUpl n (fun u => { u with responds := 0 }) = e at hset hu
  have hreset := e.verifyReset_frame hn
  obtain ⟨hactive, -, hstate⟩ := e.verifyReset_says hn
  have hupl := Chip.upl_congr (n := n) (hreset.uplinks (by decide))
  have hen := Chip.on_of_fld (hset.fld_apart UPLINK.MERGE_CFG_EN n 0 (by decide) hn (by decide))
  refine ⟨hset.trans (hreset.mono (List.nil_subset _) (Touched.mono (by decide))), ?_, ?_, hactive, hstate.trans ?_⟩
  · rw [hupl, hu]
  · rw [hupl, hu]
  · rw [hen]

theorem mergeOff_ends (n : Fin 4) {v : Word} (hopen : s.chip.Open p .uplink n.val) (hon : s.chip.on UPLINK.MERGE_CFG_EN n.val = true)
    (hv : bitsOf v.toNat 0 0 = 0) : Ends (.mergeEnWrite p n v) s fun d => d.fld UPLINK.MERGE_CFG_EN n.val = 0 ∧
      d.fld UPLINK.MERGE_STATUS_VERIFY_STATE n.val = 0 ∧ d.fld UPLINK.MERGE_STATUS_ACTIVE n.val = 0 ∧ (d.upl n.val).reasm = none ∧
      (d.upl n.val).responds = 0 := by
  have hn := n.isLt
  obtain ⟨-, hen, -⟩ := s.chip.mergeSet_says (p := p) hn v.toNat
  have hon' : (s.chip.plainWrite .uplink n.val 0x058 v.toNat p).on UPLINK.MERGE_CFG_EN n.val = false := by
    rw [Chip.on, hen, hv]
    rfl
  refine ends_of_access (exec_mergeEnWrite p n v s) hopen ?_
  rw [Chip.mergeCfgWrite_off hon hon']
  generalize s.chip.plainWrite .uplink n.val 0x058 v.toNat p = e at hen hon'
  obtain ⟨hoff, hreasm, hresponds, hactive, hstate⟩ := e.mergeOff_says hn
  have h7 : (e.mergeOff n.val).Frame [] (Touched c7Spots) ((e.mergeOff n.val).c7Eval n.val) := Chip.c7Eval_touched hn
  rw [hon'] at hstate
  generalize e.mergeOff n.val = f at hoff hreasm hresponds hactive hstate h7
  have hupl := Chip.upl_congr (n := n.val) ((s.chip.ended_uplinks (f.c7Eval n.val)).trans (h7.uplinks (by decide)))
  refine ⟨?_, ?_, ?_, ?_, ?_⟩
  · rw [Chip.ended_inst (by decide) hn (by decide), h7.fld_apart UPLINK.MERGE_CFG_EN n.val 0 (by decide) hn (by decide),
      hoff.fld_apart UPLINK.MERGE_CFG_EN n.val 0 (by decide) hn (by decide), hen, hv]
  · rw [Chip.ended_inst (by decide) hn (by decide), h7.fld_apart UPLINK.MERGE_STATUS_VERIFY_STATE n.val 0 (by decide) hn (by decide)]
    exact hstate
  · rw [Chip.ended_inst (by decide) hn (by decide), h7.fld_apart UPLINK.MERGE_STATUS_ACTIVE n.val 0 (by decide) hn (by decide)]
    exact hactive
  · rw [hupl, hreasm]
  · rw [hupl, hresponds]

theorem mergeOn_ends (n : Fin 4) {v : Word} (hopen : s.chip.Open p .uplink n.val) (hoff : s.chip.on UPLINK.MERGE_CFG_EN n.val = false)
    (hv : bitsOf v.toNat 0 0 = 1) : Ends (.mergeEnWrite p n v) s fun d => d.fld UPLINK.MERGE_CFG_EN n.val = 1 ∧
      d.fld UPLINK.MERGE_STATUS_VERIFY_STATE n.val =
        (if s.chip.ulSt n.val = ulUP then (if bitsOf v.toNat 1 1 = 1 then 5 else 2) else 1) := by
  have hn := n.isLt
  obtain ⟨hset, hen, hdis⟩ := s.chip.mergeSet_says (p := p) hn v.toNat
  have hon : (s.chip.plainWrite .uplink n.val 0x058 v.toNat p).on UPLINK.MERGE_CFG_EN n.val = true := by
    rw [Chip.on, hen, hv]
    rfl
  have hst := hset.fld_apart UPLINK.LINK_STATUS_STATE n.val 0 (by decide) hn (by decide)
  refine ends_of_access (exec_mergeEnWrite p n v s) hopen ?_
  rw [Chip.mergeCfgWrite_on hoff hon]
  generalize s.chip.plainWrite .uplink n.val 0x058 v.toNat p = e at hset hen hdis hon hst
  have hlast {f : Chip} {x : Nat} (hf : e.Frame [.uplinks] (Touched verifySpots) f) (hstate : f.fld UPLINK.MERGE_STATUS_VERIFY_STATE n.val = x) :
      (s.chip.ended (f.c7Eval n.val)).fld UPLINK.MERGE_CFG_EN n.val = 1 ∧
        (s.chip.ended (f.c7Eval n.val)).fld UPLINK.MERGE_STATUS_VERIFY_STATE n.val = x := by
    have h7 : f.Frame [] (Touched c7Spots) (f.c7Eval n.val) := Chip.c7Eval_touched hn
    refine ⟨?_, ?_⟩
    · rw [Chip.ended_inst (by decide) hn (by decide), h7.fld_apart UPLINK.MERGE_CFG_EN n.val 0 (by decide) hn (by decide),
        hf.fld_apart UPLINK.MERGE_CFG_EN n.val 0 (by decide) hn (by decide), hen, hv]
    · rw [Chip.ended_inst (by decide) hn (by decide), h7.fld_apart UPLINK.MERGE_STATUS_VERIFY_STATE n.val 0 (by decide) hn (by decide), hstate]
  by_cases hup : s.chip.ulSt n.val = ulUP
  · rw [if_pos (show e.ulUp n.val = true from beq_iff_eq.mpr (hst.trans hup)), if_pos hup]
    obtain ⟨hstart, -, -, hstate⟩ := e.verifyStart_says hn
    refine hlast hstart (hstate.trans ?_)
    rw [Chip.verifyFrom, if_pos hon, Chip.on, hdis]
    have hbit : bitsOf v.toNat 1 1 < 2 := Nat.mod_lt _ (by decide)
    generalize bitsOf v.toNat 1 1 = x at hbit
    interval_cases x <;> rfl
  · rw [if_neg (show ¬ e.ulUp n.val = true from fun h => hup (hst.symm.trans (beq_iff_eq.mp h))), if_neg hup]
    refine hlast ((e.verifyReset_frame hn).mono (List.nil_subset _) fun _ h => h) ?_
    rw [(e.verifyReset_says hn).2.2, if_pos hon]

/-! ### Verify mPackets (R206) -/

theorem exec_verifySend (n : Fin 4) (phi : Fin 2560) (s : State) : exec (.verifySend n phi) s =
    run (fun c => c.whenDue (c.verifyDue n.val) fun d => d.verifySend n.val (d.instAt phi)) s := rfl

/-- A verify mPacket is on the line. -/
def Chip.verifyOut (c : Chip) (n : Nat) (inst : Int) : Chip :=
  ((((c.updUpl n fun u => { u with verifyAt := u.verifyAt + c.verifyTime n }).wireBusy n inst).bump UPLINK.VERIFY_TX_COUNT n).bump
    UPLINK.MERGE_STATUS_ATTEMPTS n)

theorem Chip.verifySend_eq {inst : Int} (h3 : c.fld UPLINK.MERGE_STATUS_ATTEMPTS n < 3) (hb : c.boundary n inst = true) :
    c.verifySend n inst = if (c.verifyOut n inst).on UPLINK.CFG_LOOPBACK n then (c.verifyOut n inst).mpacketRx n 0 .verify {} else c.verifyOut n inst :=
  (if_pos h3).trans (if_pos hb)

theorem Chip.verifyOut_says (hn : n < 4) (inst : Int) (h3 : c.fld UPLINK.MERGE_STATUS_ATTEMPTS n < 3) :
    c.Counts (c.verifyOut n inst) UPLINK.VERIFY_TX_COUNT n ∧
      (c.verifyOut n inst).fld UPLINK.MERGE_STATUS_ATTEMPTS n = c.fld UPLINK.MERGE_STATUS_ATTEMPTS n + 1 ∧
      ((c.verifyOut n inst).upl n).freeAt = inst + (c.octs n 84 : Nat) := by
  have hbusy : (c.verifyOut n inst).upl n = { (c.updUpl n fun u => { u with verifyAt := u.verifyAt + c.verifyTime n }).upl n with
      freeAt := inst + (c.octs n 84 : Nat) } :=
    Chip.upl_updUpl_self (c := c.updUpl n fun u => { u with verifyAt := u.verifyAt + c.verifyTime n }) (n := n)
      fun u => { u with freeAt := inst + (c.octs n 84 : Nat) }
  refine ⟨?_, ?_, congrArg Uplink.freeAt hbusy⟩
  · exact (Chip.fld_setFld_apart (by decide) hn (by decide) hn (by decide)).trans (Chip.fld_bump_self _ _ _ _)
  · have hother : (((c.updUpl n fun u => { u with verifyAt := u.verifyAt + c.verifyTime n }).wireBusy n inst).bump UPLINK.VERIFY_TX_COUNT n).fld
        UPLINK.MERGE_STATUS_ATTEMPTS n = c.fld UPLINK.MERGE_STATUS_ATTEMPTS n := Chip.fld_setFld_apart (by decide) hn (by decide) hn (by decide)
    refine (Chip.fld_bump_self _ _ _ _).trans ?_
    rw [hother]
    show min (c.fld UPLINK.MERGE_STATUS_ATTEMPTS n + 1) (2 ^ 2 - 1) = _
    omega

/-- A verify mPacket that comes back. -/
theorem Chip.verifyBack_says (hn : n < 4) : c.Frame [.uplinks] (Touched (.one UPLINK.RX_SMD_ERR_COUNT :: fecSpots)) (c.mpacketRx n 0 .verify {}) ∧
    ((c.mpacketRx n 0 .verify {}).upl n).freeAt = (c.upl n).freeAt := by
  have hcount : c.Frame [.uplinks] (Touched fecSpots) (c.fecCount n 0 0) := Chip.fecCount_touched hn _
  have hcount' := hcount.mono (List.Subset.refl _) (Touched.mono (List.subset_cons_self (Spot.one UPLINK.RX_SMD_ERR_COUNT) _))
  have hu : (c.fecCount n 0 0).upl n = c.upl n := Chip.upl_congr ((Chip.fecCount_frame (S := [])).uplinks (by simp))
  have h : c.mpacketRx n 0 .verify {} = if !(c.fecCount n 0 0).on UPLINK.MERGE_CFG_EN n then (c.fecCount n 0 0).bump UPLINK.RX_SMD_ERR_COUNT n
      else (c.fecCount n 0 0).updUpl n fun u => { u with responds := u.responds + 1 } := rfl
  rw [h]
  split
  · exact ⟨hcount'.bump UPLINK.RX_SMD_ERR_COUNT n 0 (cells_one (by decide) hn), congrArg Uplink.freeAt hu⟩
  · refine ⟨hcount'.withUplinks _ List.mem_cons_self, ?_⟩
    rw [Chip.upl_updUpl_self, hu]

theorem verifySend_ends (n : Fin 4) (phi : Fin 2560) (hdue : s.chip.verifyDue n.val = true)
    (hb : s.chip.boundary n.val (s.chip.instAt phi) = true) (h3 : s.chip.fld UPLINK.MERGE_STATUS_ATTEMPTS n.val < 3) :
    Ends (.verifySend n phi) s fun d => s.chip.Counts d UPLINK.VERIFY_TX_COUNT n.val ∧
      d.fld UPLINK.MERGE_STATUS_ATTEMPTS n.val = s.chip.fld UPLINK.MERGE_STATUS_ATTEMPTS n.val + 1 ∧
      (d.upl n.val).freeAt = s.chip.instAt phi + (s.chip.octs n.val 84 : Nat) := by
  have hn := n.isLt
  obtain ⟨hcount, hattempts, hfree⟩ := s.chip.verifyOut_says hn (s.chip.instAt phi) h3
  refine ends_of_due (exec_verifySend n phi s) hdue ?_
  rw [Chip.verifySend_eq h3 hb]
  generalize s.chip.verifyOut n.val (s.chip.instAt phi) = e at hcount hattempts hfree
  have hlast {d : Chip} (hd : e.Frame [.uplinks] (Touched (.one UPLINK.RX_SMD_ERR_COUNT :: fecSpots)) d)
      (hf : (d.upl n.val).freeAt = (e.upl n.val).freeAt) :
      s.chip.Counts (s.chip.ended d) UPLINK.VERIFY_TX_COUNT n.val ∧
        (s.chip.ended d).fld UPLINK.MERGE_STATUS_ATTEMPTS n.val = s.chip.fld UPLINK.MERGE_STATUS_ATTEMPTS n.val + 1 ∧
        ((s.chip.ended d).upl n.val).freeAt = s.chip.instAt phi + (s.chip.octs n.val 84 : Nat) := by
    refine ⟨?_, ?_, ?_⟩
    · exact (Chip.ended_inst (by decide) hn (by decide)).trans
        ((hd.fld_apart UPLINK.VERIFY_TX_COUNT n.val 0 (by decide) hn (by decide)).trans hcount)
    · rw [Chip.ended_inst (by decide) hn (by decide), hd.fld_apart UPLINK.MERGE_STATUS_ATTEMPTS n.val 0 (by decide) hn (by decide), hattempts]
    · rw [Chip.upl_congr (Chip.ended_uplinks _ _), hf, hfree]
  split
  · exact hlast (e.verifyBack_says hn).1 (e.verifyBack_says hn).2
  · exact hlast (.refl e) rfl

theorem verifySend_fails (n : Fin 4) (phi : Fin 2560) (hdue : s.chip.verifyDue n.val = true)
    (h3 : 3 ≤ s.chip.fld UPLINK.MERGE_STATUS_ATTEMPTS n.val) : SetsRegs (.verifySend n phi) s
      [UPLINK.MERGE_STATUS_VERIFY_STATE.key n.val 0, EV.UPLINK_VERIFY_FAILED.key n.val] fun d =>
        d.fld UPLINK.MERGE_STATUS_VERIFY_STATE n.val = 4 ∧ s.chip.Tells d EV.UPLINK_VERIFY_FAILED n.val := by
  have hn := n.isLt
  have hd : s.chip.whenDue (s.chip.verifyDue n.val) (fun d => d.verifySend n.val (d.instAt phi)) =
      (s.chip.setFld UPLINK.MERGE_STATUS_VERIFY_STATE 4 n.val).raise EV.UPLINK_VERIFY_FAILED n.val :=
    (Chip.whenDue_true _ _ hdue).trans (if_neg (Nat.not_lt.mpr h3))
  refine setsRegs_of (exec_verifySend n phi s) ?_ ?_ <;> rw [hd]
  · exact ((Chip.Frame.refl _).setFld _ _ _ _ (by simp)).raise _ _ (by simp)
  · have hset : s.chip.Frame [] (Touched [.one UPLINK.MERGE_STATUS_VERIFY_STATE]) (s.chip.setFld UPLINK.MERGE_STATUS_VERIFY_STATE 4 n.val) :=
      (Chip.Frame.refl _).setFld UPLINK.MERGE_STATUS_VERIFY_STATE 4 n.val 0 (cells_one (by decide) hn)
    refine ⟨(Chip.ended_inst (by decide) hn (by decide)).trans ?_,
      (hset.tells_raise _ _ (by decide) (not_touched (by decide) 0 0 (by decide) (by decide))).inst (by decide) hn⟩
    exact (Chip.fld_raise_apart (e := EV.UPLINK_VERIFY_FAILED) (by decide) hn hn (by decide)).trans (Chip.fld_setFld_self _ _ _ _ _)
end

/-- Settles O34, transition by transition of Table 06.2: what leaving UP cuts is stated once, for OFF and for SEARCH. -/
theorem uplinkLinkStates : Obligations.UplinkLinkStates := by
  unfold Obligations.UplinkLinkStates
  intro s n p v phi cal cause busy line us a b
  extract_lets c st seen fecOn fecKeys' fecs u sp fec may off inFlight lineBits shown good
  have hn := n.isLt
  refine ⟨fun h hsp hfec => ?_, fun h hok => uplinkTry_ends n h hok, fun h => ?_, fun hopen hst => ⟨fun hv => enableWrite_sets n hopen hst hv,
      fun hv => ?_⟩,
    fun hst h => disable_ends n hst h, fun h => disable_idles n h, fun h => bringupDone_ends n cal h, fun h => ?_,
    fun h hg => seen_sets _ h hg, fun h hg hus => ?_, fun h hon => seen_counts _ h hon, fun h h' => seen_idles _ h h',
    fun h => linkDown_ends n cause busy h, fun h => ?_, fun hopen hon hv => mergeOff_ends n hopen hon hv, fun hopen hst hv => ?_,
    fun hopen hoff hv => mergeOn_ends n hopen hoff hv, fun hdue hb h3 => verifySend_ends n phi hdue hb h3,
        fun hdue h3 => verifySend_fails n phi hdue h3,
    fun hdue => idles_of_not_due (exec_verifySend n phi s) hdue⟩
  · have hd : s.chip.enableCmd (PageCls.uplink.base + n.val) none (fun d => d.uplinkTry n.val) = s.chip.setFld UPLINK.LINK_STATUS_CFG_ERR 1 n.val :=
      Chip.uplinkTry_cfgErr h ⟨hsp, hfec⟩
    refine setsRegs_of (exec_uplinkEnable n none s) ?_ ?_ <;> rw [hd]
    · exact (Chip.Frame.refl _).setFld _ _ _ _ (by simp)
    · exact (Chip.ended_inst (by decide) hn (by decide)).trans (Chip.fld_setFld_self _ _ _ _ _)
  · exact idles_of (exec_uplinkEnable n none s) (Chip.uplinkTry_not h)
  · exact disableWrite_ends n hopen hv fun d hen hno hoff _ => ⟨hoff hst, hen, hno⟩
  · exact idles_of_not_due (exec_uplinkBringupDone n cal s) (beq_false_of_ne h)
  · have hup := seen_up { n := n, line := line, heldUs := us, fixed := a, bad := b } h hg hus
    refine Ends.imp hup ?_
    rintro d ⟨⟨hshown, hfec⟩, hrest⟩
    exact ⟨hshown, hfec, hrest⟩
  · exact idles_of_not_due (exec_linkDown n cause busy s) (beq_false_of_ne h)
  · exact disableWrite_ends n hopen hv fun d hen hno _ hoff => ⟨hoff hst, hen, hno⟩

end Sys2Proof.Machine
end

section
/-!
PROOF. What a received frame may change: the servo's copy, the packet buffer, MAC control and the counters of the receive checks.
-/
namespace Sys2Proof.Machine

section
variable {a b c d e : Chip} {n m : Nat} {q r : FieldRow}

/-! ### Events of an uplink -/

/-- Every event of uplink `n` that is raised in `c` is raised in `d`. -/
def Chip.KeepsOwn (c d : Chip) (n : Nat) : Prop := ∀ v : Evt, v.cls = .uplink → v.bit < 32 → c.raised v n = true → d.raised v n = true

theorem Chip.KeepsOwn.refl (c : Chip) (n : Nat) : c.KeepsOwn c n := fun _ _ _ h => h

theorem Chip.KeepsOwn.trans (h : c.KeepsOwn d n) (h' : d.KeepsOwn e n) : c.KeepsOwn e n := fun v hv hb hx => h' v hv hb (h v hv hb hx)

theorem Chip.KeepsOwn.raise (h : c.KeepsOwn d n) (v : Evt) (m : Nat) : c.KeepsOwn (d.raise v m) n :=
  fun x hx hb hr => d.raised_raise_of_raised v x m n hb (h x hx hb hr)

theorem Chip.KeepsEvents.own (h : c.KeepsEvents d) : c.KeepsOwn d n := fun v _ hb hx => h v n hb hx

theorem Chip.Frame.keepsOwn {S : List Part} {R : List Spot} (h : c.Frame S (Touched R) d) (hR : R.all PageCls.uplink.evtApart = true) (hn : n < 4) :
    c.KeepsOwn d n := by
  intro v hv _ hx
  rw [h.raised_apart v (by rw [hv]; exact hR) (by rw [hv]; exact hn)]
  exact hx

theorem Chip.Tells.keepsOwn {v : Evt} (h : a.Tells c v n) (hk : c.KeepsOwn d n) (hv : v.cls = .uplink) (hb : v.bit < 32) : a.Tells d v n :=
  fun hu => hk v hv hb (h hu)

/-! ### The servo's copy (R101) -/

def ptpSpots : List Spot := [.evt .whorl, .one WHORL.MEAS_CNT_COUNT, .one WHORL.LAST_OFFSET_LO_VAL, .one WHORL.LAST_OFFSET_HI_VAL,
  .one WHORL.LOCK_STATE_GOOD_RUN, .one WHORL.FREQ_ADJ, .one WHORL.STEP_STATUS_BACKWARD, .one WHORL.STEP_STATUS_ORIGIN,
  .one WHORL.STEP_STATUS_STATE, .one WHORL.LOCK_STATE_STATE, .one WHORL.LOCK_STATE_LOSS_CAUSE, .one WHORL.LOCK_STATE_OUTLIER_RUN,
  .one WHORL.OUTLIER_CNT_COUNT]

theorem measurement_keys {k : Nat} (hk : k ∈ measKeys ++ judgeKeys) : Touched ptpSpots k := by
  have hrow (r : FieldRow) (hr : Spot.one r ∈ ptpSpots) (h0 : 0 < r.cls.count) : Touched ptpSpots (r.key 0 0) := cells_one hr h0
  simp only [measKeys, judgeKeys, servoKeys, changeKeys, List.cons_append, List.nil_append, List.mem_cons, List.not_mem_nil, or_false] at hk
  rcases hk with rfl | rfl | rfl | rfl | rfl | rfl | rfl | rfl | rfl | rfl | rfl | rfl | rfl
  · exact hrow _ (by decide) (by decide)
  · exact hrow _ (by decide) (by decide)
  · exact hrow _ (by decide) (by decide)
  · exact hrow _ (by decide) (by decide)
  · exact hrow _ (by decide) (by decide)
  · exact cells_evt (cls := .whorl) (by decide) (by decide)
  · exact hrow _ (by decide) (by decide)
  · exact hrow _ (by decide) (by decide)
  · exact hrow _ (by decide) (by decide)
  · exact hrow _ (by decide) (by decide)
  · exact hrow _ (by decide) (by decide)
  · exact hrow _ (by decide) (by decide)
  · exact hrow _ (by decide) (by decide)

theorem Chip.measurement_touched (c : Chip) (theta : Int) : c.Frame [.whorl] (Touched ptpSpots) (c.measurement theta) :=
  (c.measurement_frame theta).mono (List.Subset.refl _) fun _ hk => measurement_keys hk

theorem Chip.synced_frame (c : Chip) (x : Option SyncRec) : c.Frame [.whorl] (Touched ptpSpots) { c with whorl := { c.whorl with sync := x } } :=
  (Chip.Frame.refl c).withWhorl { c.whorl with sync := x } (by simp)

theorem Chip.ptpCopy_frame (c : Chip) (n : Nat) (f : List Byte) (stamp : Int) : c.Frame [.whorl] (Touched ptpSpots) (c.ptpCopy n f stamp) := by
  unfold Chip.ptpCopy
  split
  · next follow m _ =>
    refine Chip.Frame.ite (fun _ => .refl c) fun _ => Chip.Frame.ite (fun _ => ?_) fun _ => ?_
    · unfold Chip.ptpFollowUp
      split
      · exact Chip.Frame.ite (fun _ => (c.synced_frame _).trans (Chip.measurement_touched _ _)) fun _ => .refl c
      · exact .refl c
    · exact Chip.Frame.ite (fun _ => c.synced_frame _) fun _ => (c.synced_frame _).trans (Chip.measurement_touched _ _)
  · exact .refl c

theorem Chip.ptpCopy_none {f : List Byte} (h : parsePtp f = none) (stamp : Int) : c.ptpCopy n f stamp = c := by
  rw [Chip.ptpCopy, h]

theorem Chip.ptpCopy_twoStep {f : List Byte} {m : PtpMsg} {stamp : Int} (h : parsePtp f = some (false, m)) (hs : c.ptpForServo n m = true)
    (h2 : m.twoStep = true) : (c.ptpCopy n f stamp).whorl.sync = some { seq := m.seq.toNat, t2 := stamp, corr := signed 64 m.corr.toNat } := by
  have hsync : c.ptpCopy n f stamp = c.ptpSync stamp m := by
    simp only [Chip.ptpCopy, h, hs, Bool.not_true, Bool.false_eq_true, if_false]
  have hkept : c.ptpSync stamp m =
      { c with whorl := { c.whorl with sync := some { seq := m.seq.toNat, t2 := stamp, corr := signed 64 m.corr.toNat } } } := if_pos h2
  rw [hsync, hkept]

/-! ### The packet buffer (R270) -/

def admitSpots : List Spot := [.evt .reel, .one REELGATE.XOFF_COUNT_COUNT]

theorem Chip.xoffJudgeAll_frame (c : Chip) : c.Frame [.buffer] (Touched admitSpots) c.xoffJudgeAll :=
  Chip.away_eq_iff.mp (Chip.away_xoffJudgeAll (List.Subset.refl _) (List.Subset.refl _))

theorem Chip.xoffJudge_nextId (c : Chip) (k : Nat) : (c.xoffJudge k).buffer.nextId = c.buffer.nextId := by
  unfold Chip.xoffJudge
  extract_lets on
  split
  · have h := (Chip.Frame.refl (S := []) (K := fun _ => True)
      (({ c with buffer := { c.buffer with xoff := Tab.put false c.buffer.xoff k true } } : Chip).bump REELGATE.XOFF_COUNT_COUNT k)).raise
      (evXoff k) 0 trivial
    rw [h.buffer (by simp)]
    rfl
  · split <;> rfl

theorem Chip.xoffJudgeAll_nextId (c : Chip) : c.xoffJudgeAll.buffer.nextId = c.buffer.nextId := by
  unfold Chip.xoffJudgeAll
  generalize List.range 4 = l
  induction l generalizing c with
  | nil => rfl
  | cons k l ih => exact (ih (c.xoffJudge k)).trans (c.xoffJudge_nextId k)

theorem Chip.chargeCells_says (c : Chip) (p : Nat) (k : Cells) : c.Frame [.buffer] (Touched admitSpots) (c.chargeCells p k) ∧
    (c.chargeCells p k).buffer.nextId = c.buffer.nextId := by
  unfold Chip.chargeCells
  extract_lets free0 b e lim
  have he : c.Frame [.buffer] (Touched admitSpots) e := (Chip.Frame.refl c).withBuffer _ (by simp)
  have hid : e.buffer.nextId = c.buffer.nextId := rfl
  clear_value e
  have hlow : e.Frame [] (Touched admitSpots) (if lim ≤ free0 ∧ e.sharedFree < lim then e.raise EV.REEL_POOL_LOW else e) :=
    Chip.Frame.ite (fun _ => (Chip.Frame.refl e).raise _ _ (cells_evt (cls := .reel) (by decide) (by decide))) fun _ => .refl e
  refine ⟨(he.trans (hlow.mono (by decide) fun _ h => h)).trans (Chip.xoffJudgeAll_frame _), ?_⟩
  rw [Chip.xoffJudgeAll_nextId, hlow.buffer (by decide), hid]

theorem Chip.enqueueIngress_says (c : Chip) (p : Packet) : c.Frame [.buffer] (Touched admitSpots) (c.enqueueIngress p) ∧
    (c.enqueueIngress p).buffer.nextId = c.buffer.nextId := by
  unfold Chip.enqueueIngress
  extract_lets b
  split
  · exact ⟨(Chip.Frame.refl c).withBuffer _ (by simp), rfl⟩
  · exact ⟨(Chip.Frame.refl c).withBuffer _ (by simp), rfl⟩

theorem Chip.admitFrame_says (c : Chip) (p pre : Nat) (bytes : List Byte) (stamp : Int) (k : Cells) (tag : Option Nat) :
    c.Frame [.buffer] (Touched admitSpots) (c.admitFrame p pre bytes stamp k tag) ∧
      (c.admitFrame p pre bytes stamp k tag).buffer.nextId = c.buffer.nextId + 1 := by
  unfold Chip.admitFrame
  extract_lets pk
  obtain ⟨hcharge, hid⟩ := Chip.chargeCells_says { c with buffer := { c.buffer with nextId := c.buffer.nextId + 1 } } p k
  obtain ⟨henq, hid'⟩ := Chip.enqueueIngress_says (({ c with buffer := { c.buffer with nextId := c.buffer.nextId + 1 } } : Chip).chargeCells p k) pk
  exact ⟨(((Chip.Frame.refl c).withBuffer { c.buffer with nextId := c.buffer.nextId + 1 } (by simp)).trans hcharge).trans henq, hid'.trans hid⟩

/-! ### Check 6 -/

def rxOkSpots : List Spot := [.one UPLINK.RX_FRAMES_COUNT, .one UPLINK.RX_OCTETS_LO_COUNT, .one UPLINK.RX_OCTETS_HI_COUNT]

/-- A frame that the buffer takes is counted. -/
def Chip.rxCounted (c : Chip) (n k : Nat) : Chip :=
  (c.bump UPLINK.RX_FRAMES_COUNT n).bumpOctets UPLINK.RX_OCTETS_LO_COUNT UPLINK.RX_OCTETS_HI_COUNT k n

theorem Chip.rxCounted_frame (hn : n < 4) (k : Nat) : c.Frame [] (Touched rxOkSpots) (c.rxCounted n k) :=
  ((Chip.Frame.refl c).bump UPLINK.RX_FRAMES_COUNT n 0 (cells_one (by decide) hn)).setFld64 UPLINK.RX_OCTETS_LO_COUNT UPLINK.RX_OCTETS_HI_COUNT _ n 0
    (cells_one (by decide) hn) (cells_one (by decide) hn)

def admit6Spots : List Spot := [.evt .uplink, .one UPLINK.RX_NOBUF_COUNT] ++ rxOkSpots ++ admitSpots

theorem Chip.uplAdmit_frame (hn : n < 4) (f : List Byte) (stamp : Int) :
    c.Frame [.buffer] (Touched admit6Spots) (c.uplAdmit n f stamp) := by
  have hbump : c.Frame [.buffer] (Touched admit6Spots) (c.bump UPLINK.RX_NOBUF_COUNT n) :=
    (Chip.Frame.refl c).bump UPLINK.RX_NOBUF_COUNT n 0 (cells_one (by decide) hn)
  unfold Chip.uplAdmit
  extract_lets g pre
  split
  · exact hbump.raise EV.UPLINK_RX_ERROR n (cells_evt (cls := .uplink) (by decide) hn)
  · split
    · exact ((Chip.rxCounted_frame hn _).mono (List.nil_subset _) (Touched.mono (by decide))).trans
        ((Chip.admitFrame_says _ _ _ _ _ _ _).1.mono (List.Subset.refl _) (Touched.mono (by decide)))
    · exact Chip.Frame.ite (fun _ => hbump.raise EV.REEL_HEADROOM_EXHAUSTED 0 (cells_evt (cls := .reel) (by decide) (by decide))) fun _ => hbump

end

end Sys2Proof.Machine
end

section
/-!
PROOF. The receive checks of Table 06.3.
-/
namespace Sys2Proof.Machine

section
variable {a b c d e : Chip} {n m : Nat} {q r : FieldRow}

/-! ### Check 6 by its outcome (R270, R470) -/

/-- The frame without its FCS. -/
def bodyOf (f : List Byte) : List Byte := f.take (f.length - 4)

theorem Chip.uplAdmit_closed {f : List Byte} {stamp : Int} (h : c.coreOpen = false) :
    c.uplAdmit n f stamp = (c.bump UPLINK.RX_NOBUF_COUNT n).raise EV.UPLINK_RX_ERROR n := if_pos (by rw [h]; rfl)

theorem Chip.uplAdmit_none {f : List Byte} {stamp : Int} (h : c.coreOpen = true)
    (hk : c.cellsFor n (cellsOf (bodyOf f).length) (c.uplPreclass n (bodyOf f)) = none) :
    c.uplAdmit n f stamp = if (c.bump UPLINK.RX_NOBUF_COUNT n).headroomOpen n then (c.bump UPLINK.RX_NOBUF_COUNT n).raise EV.REEL_HEADROOM_EXHAUSTED
      else c.bump UPLINK.RX_NOBUF_COUNT n := by
  unfold Chip.uplAdmit
  extract_lets g pre
  rw [if_neg (by rw [h]; decide), show c.cellsFor n (cellsOf g.length) pre = none from hk]

theorem Chip.uplAdmit_some {f : List Byte} {stamp : Int} {k : Cells} (h : c.coreOpen = true)
    (hk : c.cellsFor n (cellsOf (bodyOf f).length) (c.uplPreclass n (bodyOf f)) = some k) :
    c.uplAdmit n f stamp = (c.rxCounted n f.length).admitFrame n (c.uplPreclass n (bodyOf f)) (bodyOf f) stamp k none := by
  unfold Chip.uplAdmit
  extract_lets g pre
  rw [if_neg (by rw [h]; decide), show c.cellsFor n (cellsOf g.length) pre = some k from hk]
  rfl

/-- The servo's copy changes nothing that check 6 reads. -/
theorem Chip.ptpCopy_check6 (hn : n < 4) (f : List Byte) (stamp : Int) (g : List Byte) : (c.ptpCopy n f stamp).coreOpen = c.coreOpen ∧
    (c.ptpCopy n f stamp).uplPreclass n g = c.uplPreclass n g ∧
    ∀ k pre, (c.ptpCopy n f stamp).cellsFor n k pre = c.cellsFor n k pre := by
  have h := c.ptpCopy_frame n f stamp
  have hbuf := h.buffer (by decide)
  have h0 (r : FieldRow) (hr : (r.placed && ptpSpots.all r.apart) = true) (h0 : 0 < r.cls.count) : (c.ptpCopy n f stamp).fld r = c.fld r :=
    h.fld_apart r 0 0 hr h0 (by decide)
  have hown (r : FieldRow) (hr : (r.placed && ptpSpots.all r.apart) = true) (h0 : n < r.cls.count) : (c.ptpCopy n f stamp).fld r n = c.fld r n :=
    h.fld_apart r n 0 hr h0 (by decide)
  have hcore := h.dom .core (not_touched (by decide) 0 0 (by decide) (by decide))
  have hmode := h0 GLOBAL.MODE_MODE (by decide) (by decide)
  have hmap := hown UPLINK.PRECLASS_MAP_PCP (by decide) hn
  have hdef := hown UPLINK.PRECLASS_MAP_DEFAULT (by decide) hn
  have htx := hown UPLINK.PAUSE_CFG_TX_EN (by decide) hn
  have hxoff := hown UPLINK.PAUSE_STATUS_XOFF_SENT (by decide) hn
  have hl1 := h0 REEL.PORT_LIMITS_UPL_LIMIT (by decide) (by decide)
  have hl2 := h0 REEL.SEG_LIMITS_SEG_ING_LIMIT (by decide) (by decide)
  have hl3 := h0 REEL.PORT_LIMITS_HOST_LIMIT (by decide) (by decide)
  generalize c.ptpCopy n f stamp = e at hbuf hcore hmode hmap hdef htx hxoff hl1 hl2 hl3
  refine ⟨?_, ?_, fun k pre => ?_⟩
  · rw [Chip.coreOpen, hcore, Chip.mode, hmode, Chip.coreOpen, Chip.mode]
  · rw [Chip.uplPreclass, hmap, hdef, Chip.uplPreclass]
  · rw [Chip.cellsFor, Chip.sharedFree, Chip.sharedSize, Chip.sharedUsed, Chip.chargeOf, Chip.ingressLimit, Chip.headroomOpen, hbuf, hl1, hl2, hl3,
      Chip.on, htx, Chip.on, hxoff]
    rfl

/-! ### MAC control (R211, R212) -/

def controlSpots : List Spot := [.evt .uplink, .one UPLINK.RX_PAUSE_IGNORED_COUNT, .one UPLINK.RX_PAUSE_COUNT, .one UPLINK.RX_MAC_CTRL_OTHER_COUNT]

theorem Chip.pauseRx_frame (hn : n < 4) (k te : Nat) : c.Frame [.uplinks] (Touched controlSpots) (c.pauseRx n k te) := by
  have hbump : c.Frame [.uplinks] (Touched controlSpots) (c.bump UPLINK.RX_PAUSE_COUNT n) :=
    (Chip.Frame.refl c).bump UPLINK.RX_PAUSE_COUNT n 0 (cells_one (by decide) hn)
  refine Chip.Frame.ite (fun _ => (Chip.Frame.refl c).bump UPLINK.RX_PAUSE_IGNORED_COUNT n 0 (cells_one (by decide) hn)) fun _ => ?_
  extract_lets e stop u paused old x start
  refine Chip.Frame.ite (fun _ => ?_) fun _ => Chip.Frame.ite (fun _ => hbump.withUplinks _ List.mem_cons_self) fun _ => hbump
  have hx : c.Frame [.uplinks] (Touched controlSpots) x :=
    Chip.Frame.ite (fun _ => hbump.raise EV.UPLINK_PAUSE_RX n (cells_evt (cls := .uplink) (by decide) hn)) fun _ => hbump
  exact Chip.Frame.ite (fun _ => hx.withUplinks _ List.mem_cons_self) fun _ => hx.withUplinks _ List.mem_cons_self

theorem Chip.macControl_frame
    (hn : n < 4) (f : List Byte) (te : Nat) (x : Bool) : c.Frame [.uplinks] (Touched controlSpots) (c.macControl n f te x) := by
  refine Chip.Frame.ite (fun _ => ?_) fun _ => Chip.Frame.ite (fun _ => Chip.pauseRx_frame hn _ _) fun _ => ?_
  · exact ((Chip.Frame.refl c).bump UPLINK.RX_MAC_CTRL_OTHER_COUNT n 0 (cells_one (by decide) hn)).raise EV.UPLINK_MAC_CTRL_UNSUPPORTED n
      (cells_evt (cls := .uplink) (by decide) hn)
  · exact (Chip.Frame.refl c).bump UPLINK.RX_MAC_CTRL_OTHER_COUNT n 0 (cells_one (by decide) hn)

theorem Chip.pauseRx_keeps (k te : Nat) : c.KeepsEvents (c.pauseRx n k te) := by
  have hbump : c.KeepsEvents (c.bump UPLINK.RX_PAUSE_COUNT n) := (Chip.KeepsEvents.refl c).bump (by decide) (by decide) _
  refine Chip.KeepsEvents.ite (fun _ => (Chip.KeepsEvents.refl c).bump (by decide) (by decide) _) fun _ => ?_
  extract_lets e stop u paused old x start
  refine Chip.KeepsEvents.ite (fun _ => ?_) fun _ => Chip.KeepsEvents.ite (fun _ => hbump.same rfl) fun _ => hbump
  have hx : c.KeepsEvents x := Chip.KeepsEvents.ite (fun _ => hbump.raise _ _) fun _ => hbump
  exact Chip.KeepsEvents.ite (fun _ => hx.same rfl) fun _ => hx.same rfl

theorem Chip.macControl_keeps (f : List Byte) (te : Nat) (x : Bool) : c.KeepsEvents (c.macControl n f te x) := by
  refine Chip.KeepsEvents.ite (fun _ => ?_) fun _ => Chip.KeepsEvents.ite (fun _ => Chip.pauseRx_keeps _ _) fun _ => ?_
  · exact ((Chip.KeepsEvents.refl c).bump (by decide) (by decide) _).raise _ _
  · exact (Chip.KeepsEvents.refl c).bump (by decide) (by decide) _

/-! ### The checks -/

/-- A frame that fails a check is counted there. -/
def Chip.rxBad (c : Chip) (n : Nat) (r : FieldRow) : Chip := (c.bump r n).raise EV.UPLINK_RX_ERROR n

def rxParts : List Part := [.uplinks, .whorl, .buffer]

def badSpots : List Spot := [.one UPLINK.RX_CODE_ERR_COUNT, .one UPLINK.RX_FCS_ERR_COUNT, .one UPLINK.RX_RUNT_COUNT, .one UPLINK.RX_OVERSIZE_COUNT]

def rxSpots : List Spot := badSpots ++ controlSpots ++ ptpSpots ++ admit6Spots

theorem Chip.uplAdmit_keeps (hn : n < 4) (f : List Byte) (stamp : Int) : c.KeepsOwn (c.uplAdmit n f stamp) n := by
  have hbump : c.KeepsEvents (c.bump UPLINK.RX_NOBUF_COUNT n) := (Chip.KeepsEvents.refl c).bump (by decide) (by decide) _
  unfold Chip.uplAdmit
  extract_lets g pre
  split
  · exact (hbump.raise _ _).own
  · split
    · exact ((Chip.rxCounted_frame hn _).keepsOwn (by decide) hn).trans ((Chip.admitFrame_says _ _ _ _ _ _ _).1.keepsOwn (by decide) hn)
    · exact (Chip.KeepsEvents.ite (fun _ => hbump.raise _ _) fun _ => hbump).own

/-- Whatever check a frame fails or passes, it leaves the rest alone. -/
theorem Chip.uplChecks_says (hn : n < 4) (f : List Byte) (stamp : Int) (te : Nat) (err x : Bool) :
    c.Frame rxParts (Touched rxSpots) (c.uplChecks n f stamp te err x) ∧ c.KeepsOwn (c.uplChecks n f stamp te err x) n := by
  have hbad (r : FieldRow) (hr : Spot.one r ∈ rxSpots) (hm : n < r.cls.count) (he : r.eventless = true) :
      c.Frame rxParts (Touched rxSpots) (c.rxBad n r) ∧ c.KeepsOwn (c.rxBad n r) n :=
    ⟨((Chip.Frame.refl c).bump r n 0 (cells_one hr hm)).raise EV.UPLINK_RX_ERROR n (cells_evt (cls := .uplink) (by decide) hn),
      (((Chip.KeepsEvents.refl c).bump he (by decide) _).raise _ _).own⟩
  unfold Chip.uplChecks
  extract_lets k bad
  split
  · exact hbad UPLINK.RX_CODE_ERR_COUNT (by decide) hn (by decide)
  split
  · exact hbad UPLINK.RX_FCS_ERR_COUNT (by decide) hn (by decide)
  split
  · exact hbad UPLINK.RX_RUNT_COUNT (by decide) hn (by decide)
  split
  · exact hbad UPLINK.RX_OVERSIZE_COUNT (by decide) hn (by decide)
  split
  · exact ⟨(Chip.macControl_frame hn _ _ _).mono (by decide) (Touched.mono (by decide)), (Chip.macControl_keeps _ _ _).own⟩
  · have hcopy := c.ptpCopy_frame n (f.take (k - 4)) stamp
    refine ⟨(hcopy.mono (by decide) (Touched.mono (by decide))).trans ((Chip.uplAdmit_frame hn _ _).mono (by decide) (Touched.mono (by decide))), ?_⟩
    exact (hcopy.keepsOwn (by decide) hn).trans (Chip.uplAdmit_keeps hn _ _)
end

end Sys2Proof.Machine
end

section
/-!
PROOF. What an uplink does with a frame: the first check of Table 06.3 that it fails, MAC control, the servo's copy and the packet buffer.
-/
namespace Sys2Proof.Machine

section
variable {a b c d e : Chip} {n m : Nat} {q r : FieldRow} {s : State} {f : List Byte} {stamp : Int} {te : Nat} {err x : Bool}

/-! ### The checks by their outcome -/

/-- The FCS of a frame is right. -/
def FcsOk (f : List Byte) : Prop := 4 ≤ f.length ∧ crc32 (bodyOf f) = leNat (f.drop (f.length - 4))

/-- A frame passes the checks 1 to 4. -/
structure Chip.Passes (c : Chip) (n : Nat) (f : List Byte) : Prop where
  fcs : FcsOk f
  long : 64 ≤ f.length
  fits : f.length ≤ c.maxFrame n

theorem not_fcsOk : ¬ FcsOk f ↔ f.length < 4 ∨ crc32 (f.take (f.length - 4)) ≠ leNat (f.drop (f.length - 4)) := by
  rw [FcsOk, not_and_or, not_le]
  rfl

theorem Chip.uplChecks_eq : c.uplChecks n f stamp te err x =
    if err then c.rxBad n UPLINK.RX_CODE_ERR_COUNT
    else if f.length < 4 ∨ crc32 (f.take (f.length - 4)) ≠ leNat (f.drop (f.length - 4)) then c.rxBad n UPLINK.RX_FCS_ERR_COUNT
    else if f.length < 64 then c.rxBad n UPLINK.RX_RUNT_COUNT
    else if c.maxFrame n < f.length then c.rxBad n UPLINK.RX_OVERSIZE_COUNT
    else if beNat ((f.drop 12).take 2) = 0x8808 then c.macControl n f te x
    else (c.ptpCopy n (bodyOf f) stamp).uplAdmit n f stamp := rfl

theorem Chip.uplChecks_code : c.uplChecks n f stamp te true x = c.rxBad n UPLINK.RX_CODE_ERR_COUNT := by
  rw [Chip.uplChecks_eq, if_pos rfl]

theorem Chip.uplChecks_fcs (h : ¬ FcsOk f) : c.uplChecks n f stamp te false x = c.rxBad n UPLINK.RX_FCS_ERR_COUNT := by
  rw [Chip.uplChecks_eq, if_neg Bool.false_ne_true, if_pos (not_fcsOk.mp h)]

theorem Chip.uplChecks_runt (h : FcsOk f) (hk : f.length < 64) : c.uplChecks n f stamp te false x = c.rxBad n UPLINK.RX_RUNT_COUNT := by
  rw [Chip.uplChecks_eq, if_neg Bool.false_ne_true, if_neg fun hbad => not_fcsOk.mpr hbad h, if_pos hk]

theorem Chip.uplChecks_oversize (h : FcsOk f) (hk : 64 ≤ f.length) (hmax : c.maxFrame n < f.length) :
    c.uplChecks n f stamp te false x = c.rxBad n UPLINK.RX_OVERSIZE_COUNT := by
  rw [Chip.uplChecks_eq, if_neg Bool.false_ne_true, if_neg fun hbad => not_fcsOk.mpr hbad h, if_neg (Nat.not_lt.mpr hk), if_pos hmax]

theorem Chip.Passes.checks (h : c.Passes n f) : c.uplChecks n f stamp te false x = if beNat ((f.drop 12).take 2) = 0x8808 then
    c.macControl n f te x else (c.ptpCopy n (bodyOf f) stamp).uplAdmit n f stamp := by
  rw [Chip.uplChecks_eq, if_neg Bool.false_ne_true, if_neg fun hbad => not_fcsOk.mpr hbad h.fcs, if_neg (Nat.not_lt.mpr h.long),
    if_neg (Nat.not_lt.mpr h.fits)]

theorem Chip.Passes.control (h : c.Passes n f) (ht : beNat ((f.drop 12).take 2) = 0x8808) :
    c.uplChecks n f stamp te false x = c.macControl n f te x := h.checks.trans (if_pos ht)

theorem Chip.Passes.data (h : c.Passes n f) (ht : beNat ((f.drop 12).take 2) ≠ 0x8808) :
    c.uplChecks n f stamp te false x = (c.ptpCopy n (bodyOf f) stamp).uplAdmit n f stamp := h.checks.trans (if_neg ht)

/-! ### A frame with an ordinary SFD -/

/-- What an uplink does as a frame ends. -/
def Chip.takesFrame (c : Chip) (n : Nat) (stamp : BitVec 96) (phi : Fin 2560) (f : List Byte) (pcs : Bool) (a b : Nat) : Chip :=
  if c.cutFrameEnds n stamp then c.rxCutOff n else c.whenDue (c.lineOpen n) fun d => d.uplFrameRx n stamp phi f pcs a b

theorem exec_uplinkFrameRx (n : Fin 4) (stamp : BitVec 96) (phi : Fin 2560) (f : List Byte) (pcs : Bool) (a b : Nat) (s : State) :
    exec (.uplinkFrameRx n stamp phi f pcs a b) s = run (fun c => c.takesFrame n.val stamp phi f pcs a b) s := rfl

theorem Chip.lineOpen_up (h : c.lineOpen n = true) : c.ulUp n = true := by
  rw [Chip.lineOpen, Bool.and_eq_true] at h
  exact h.1

theorem Chip.takesFrame_open {phi : Fin 2560} {pcs : Bool} {a b : Nat} (h : c.lineOpen n = true) (stamp : BitVec 96) :
    c.takesFrame n stamp phi f pcs a b = c.uplFrameRx n stamp phi f pcs a b := by
  have hcut : c.cutFrameEnds n stamp = false := by
    rw [Chip.cutFrameEnds, Chip.lineOpen_up h]
    split <;> rfl
  rw [Chip.takesFrame, if_neg (by rw [hcut]; decide), Chip.whenDue_true _ _ h]

theorem Chip.takesFrame_checks {phi : Fin 2560} {pcs : Bool} (h : c.lineOpen n = true) (hfec : c.on UPLINK.LINK_STATUS_FEC_IN_FORCE n = false)
    (stamp : BitVec 96) : c.takesFrame n stamp phi f pcs 0 0 = c.uplChecks n f (c.uplStamp n stamp) (c.monoAt phi) pcs true := by
  rw [Chip.takesFrame_open h, Chip.uplFrameRx, Chip.fecCount_off hfec, hfec]
  congr 1
  exact Bool.or_false _

theorem Chip.takesFrame_closed {phi : Fin 2560} {pcs : Bool} {a b : Nat} {stamp : BitVec 96} (h : c.lineOpen n = false)
    (hcut : c.cutFrameEnds n stamp = false) : c.takesFrame n stamp phi f pcs a b = c := by
  rw [Chip.takesFrame, if_neg (by rw [hcut]; decide), Chip.whenDue_false _ _ h]

/-- A frame whose reception had begun as UP was left. -/
theorem cutFrame_ends (n : Fin 4) {stamp : BitVec 96} {phi : Fin 2560} {pcs : Bool} {t0 : Nat} (hup : s.chip.ulUp n.val = false)
    (hcut : (s.chip.upl n.val).rxCut = some t0) (ht : stamp.toNat ≤ t0) : Becomes (.uplinkFrameRx n stamp phi f pcs 0 0) s
      (s.chip.setUpl n.val { s.chip.upl n.val with rxCut := none }) [UPLINK.RX_CODE_ERR_COUNT.key n.val 0, EV.UPLINK_RX_ERROR.key n.val] fun d =>
        s.chip.Counts d UPLINK.RX_CODE_ERR_COUNT n.val ∧ s.chip.Tells d EV.UPLINK_RX_ERROR n.val := by
  have hn := n.isLt
  have hends : s.chip.cutFrameEnds n.val stamp = true := by
    rw [Chip.cutFrameEnds, hcut, hup]
    exact decide_eq_true ht
  have hd : s.chip.takesFrame n.val stamp phi f pcs 0 0 = s.chip.rxCutOff n.val := if_pos hends
  obtain ⟨-, -, hcount, htell⟩ := Chip.rxCutOff_says (c := s.chip) hn
  refine becomes_of (exec_uplinkFrameRx n stamp phi f pcs 0 0 s) ?_ ?_ <;> rw [hd]
  · exact ((Chip.Frame.refl _).bump _ _ _ (by simp)).raise _ _ (by simp)
  · exact ⟨hcount.inst (by decide) hn, htell.inst (by decide) hn⟩

/-- What a failed check leaves. -/
theorem Chip.rxBad_frame (r : FieldRow) (S : List Part) : c.Frame S (· ∈ [r.key n 0, EV.UPLINK_RX_ERROR.key n]) (c.rxBad n r) :=
  ((Chip.Frame.refl c).bump _ _ _ (by simp)).raise _ _ (by simp)

theorem Chip.rxBad_says (hn : n < 4) (hr : r ∈ UPLINK.RX_NOBUF_COUNT :: [UPLINK.RX_CODE_ERR_COUNT, UPLINK.RX_FCS_ERR_COUNT, UPLINK.RX_RUNT_COUNT,
    UPLINK.RX_OVERSIZE_COUNT]) : c.Counts (c.rxBad n r) r n ∧ c.Tells (c.rxBad n r) EV.UPLINK_RX_ERROR n := by
  have hrow : ∀ r ∈ UPLINK.RX_NOBUF_COUNT :: [UPLINK.RX_CODE_ERR_COUNT, UPLINK.RX_FCS_ERR_COUNT, UPLINK.RX_RUNT_COUNT, UPLINK.RX_OVERSIZE_COUNT],
      (r.placed && r.apart (.evt .uplink)) = true ∧ (POWER.DOMAIN_STATE_AON.placed && [Spot.one r].all POWER.DOMAIN_STATE_AON.apart) = true ∧
        r.cls.count = 4 := by decide
  obtain ⟨hapart, hdom, hcount⟩ := hrow r hr
  have hm : n < r.cls.count := by
    rw [hcount]
    exact hn
  have hset : c.Frame [] (Touched [.one r]) (c.bump r n) := (Chip.Frame.refl c).bump r n 0 (cells_one (by simp) hm)
  exact ⟨(Chip.fld_raise_apart (e := EV.UPLINK_RX_ERROR) hapart hn hm (by decide)).trans (Chip.fld_bump_self _ _ _ _),
    hset.tells_raise _ _ (by decide) (not_touched hdom 0 0 (by decide) (by decide))⟩

theorem rxBad_unlevelled (hr : r ∈ UPLINK.RX_NOBUF_COUNT :: [UPLINK.RX_CODE_ERR_COUNT, UPLINK.RX_FCS_ERR_COUNT, UPLINK.RX_RUNT_COUNT,
    UPLINK.RX_OVERSIZE_COUNT]) : (r.placed && r.cls.unlevelled) = true ∧ r.cls.count = 4 := by
  have hrow : ∀ r ∈ UPLINK.RX_NOBUF_COUNT :: [UPLINK.RX_CODE_ERR_COUNT, UPLINK.RX_FCS_ERR_COUNT, UPLINK.RX_RUNT_COUNT, UPLINK.RX_OVERSIZE_COUNT],
      (r.placed && r.cls.unlevelled) = true ∧ r.cls.count = 4 := by decide
  exact hrow r hr

/-- A frame that fails a check is counted, and no more. -/
theorem frameBad_sets (n : Fin 4) {stamp : BitVec 96} {phi : Fin 2560} {pcs : Bool} (hr : r ∈ UPLINK.RX_NOBUF_COUNT :: [UPLINK.RX_CODE_ERR_COUNT,
    UPLINK.RX_FCS_ERR_COUNT, UPLINK.RX_RUNT_COUNT, UPLINK.RX_OVERSIZE_COUNT])
        (hd : s.chip.takesFrame n.val stamp phi f pcs 0 0 = s.chip.rxBad n.val r) :
    SetsRegs (.uplinkFrameRx n stamp phi f pcs 0 0) s [r.key n.val 0, EV.UPLINK_RX_ERROR.key n.val] fun d =>
      s.chip.Counts d r n.val ∧ s.chip.Tells d EV.UPLINK_RX_ERROR n.val := by
  have hn := n.isLt
  obtain ⟨hcount, htell⟩ := Chip.rxBad_says (c := s.chip) hn hr
  obtain ⟨hu, hm⟩ := rxBad_unlevelled hr
  refine setsRegs_of (exec_uplinkFrameRx n stamp phi f pcs 0 0 s) ?_ ?_ <;> rw [hd]
  · exact Chip.rxBad_frame r _
  · exact ⟨hcount.inst hu (by rw [hm]; exact hn), htell.inst (by decide) hn⟩
end

end Sys2Proof.Machine
end

section
/-!
PROOF. What an uplink does with MAC control frames: pauses, and what else it consumes.
-/
namespace Sys2Proof.Machine

section
variable {a b c d e : Chip} {n m : Nat} {q r : FieldRow} {s : State} {f : List Byte} {te : Nat} {x : Bool}

/-- A change of register cells, beside a new record of the uplink. -/
theorem Chip.Frame.setUpl {S : List Part} {K : Nat → Prop} (h : c.Frame S K d) (hS : .uplinks ∉ S) (u : Uplink) :
    (c.setUpl n u).Frame S K (d.setUpl n u) := by
  refine ⟨fun p hp => ?_, fun k hk v => h.cell k hk v⟩
  rcases eq_or_ne p .uplinks with rfl | hne
  · show Tab.put _ d.uplinks n u = Tab.put _ c.uplinks n u
    rw [h.uplinks hS]
  · have hset (e : Chip) : p.Same e (e.setUpl n u) :=
      ((Chip.Frame.refl (S := [.uplinks]) (K := fun _ => False) e).withUplinks _ List.mem_cons_self).part p (by simpa using hne)
    exact ((((Chip.Frame.refl (S := [.uplinks]) (K := fun _ => False) c).withUplinks _ List.mem_cons_self).symm.part p (by simpa using hne)).trans
      (h.part p hp)).trans (hset d)

/-- The operation of a MAC control frame, and its quanta. -/
def opOf (f : List Byte) : Nat := beNat ((f.drop 14).take 2)

def quantaOf (f : List Byte) : Nat := beNat ((f.drop 16).take 2)

/-- The frame's destination is the pause address, or the uplink's own. -/
def Chip.ForUs (c : Chip) (n : Nat) (f : List Byte) : Prop :=
  beNat (f.take 6) = 0x0180C2000001 ∨ beNat (f.take 6) = c.fld UPLINK.MAC_HI_ADDR n * 2 ^ 32 + c.fld UPLINK.MAC_LO_ADDR n

theorem Chip.macControl_unsupported (h : opOf f ≠ 1) : c.macControl n f te x =
    (c.bump UPLINK.RX_MAC_CTRL_OTHER_COUNT n).raise EV.UPLINK_MAC_CTRL_UNSUPPORTED n := if_pos h

theorem Chip.macControl_pause (h : opOf f = 1) (hus : c.ForUs n f) : c.macControl n f te true = c.pauseRx n (quantaOf f) te := by
  have heq : c.macControl n f te true = if opOf f ≠ 1 then (c.bump UPLINK.RX_MAC_CTRL_OTHER_COUNT n).raise EV.UPLINK_MAC_CTRL_UNSUPPORTED n
    else if true ∧ (beNat (f.take 6) = 0x0180C2000001 ∨ beNat (f.take 6) = c.fld UPLINK.MAC_HI_ADDR n * 2 ^ 32 + c.fld UPLINK.MAC_LO_ADDR n) then
      c.pauseRx n (quantaOf f) te else c.bump UPLINK.RX_MAC_CTRL_OTHER_COUNT n := rfl
  rw [heq, if_neg (not_not.mpr h), if_pos ⟨rfl, hus⟩]

theorem Chip.macControl_other (h : opOf f = 1)
    (hno : x = true → ¬ c.ForUs n f) : c.macControl n f te x = c.bump UPLINK.RX_MAC_CTRL_OTHER_COUNT n := by
  have heq : c.macControl n f te x = if opOf f ≠ 1 then (c.bump UPLINK.RX_MAC_CTRL_OTHER_COUNT n).raise EV.UPLINK_MAC_CTRL_UNSUPPORTED n
    else if x ∧ (beNat (f.take 6) = 0x0180C2000001 ∨ beNat (f.take 6) = c.fld UPLINK.MAC_HI_ADDR n * 2 ^ 32 + c.fld UPLINK.MAC_LO_ADDR n) then
      c.pauseRx n (quantaOf f) te else c.bump UPLINK.RX_MAC_CTRL_OTHER_COUNT n := rfl
  rw [heq, if_neg (not_not.mpr h), if_neg fun hx => hno hx.1 hx.2]

/-! ### A pause by its effect (Table 06.5) -/

/-- When a pause of `q` quanta ends. -/
def Chip.pauseStop (c : Chip) (n q te : Nat) : Nat := te + q * c.octs n 64

/-- A pause frame is counted, and told where it sets or extends a pause. -/
def Chip.pauseTold (c : Chip) (n : Nat) (told : Bool) : Chip :=
  if told then (c.bump UPLINK.RX_PAUSE_COUNT n).raise EV.UPLINK_PAUSE_RX n else c.bump UPLINK.RX_PAUSE_COUNT n

theorem Chip.pauseRx_off {k : Nat} (h : c.on UPLINK.PAUSE_CFG_RX_EN n = false) : c.pauseRx n k te = c.bump UPLINK.RX_PAUSE_IGNORED_COUNT n :=
  if_pos (by rw [h]; rfl)

/-- A pause frame tells of a pause that it sets or extends: one from `old` on, if any. -/
def pauseTells (old : Option Nat) (stop : Nat) : Bool := match old with | some t => decide (t < stop) | none => true

/-- The instant at which a new pause takes effect. -/
def pauseStart (pend : Option (Nat × Nat)) (w : Nat) : Nat := match pend with | some (a, b) => if a < b then a else w | none => w

/-- What pauseRx does once it is counted, with the values it reads. -/
theorem Chip.pauseRx_on {k : Nat} (hn : n < 4) (h : c.on UPLINK.PAUSE_CFG_RX_EN n = true) : c.pauseRx n k te =
    if 0 < k then
      if c.on UPLINK.PAUSE_STATUS_PAUSED n then (c.pauseTold n (pauseTells (some (c.upl n).pauseEnd) (c.pauseStop n k te))).setUpl n
        { c.upl n with pauseEnd := c.pauseStop n k te, pausePend := none }
      else (c.pauseTold n (pauseTells ((c.upl n).pausePend.map (·.2)) (c.pauseStop n k te))).setUpl n
        { c.upl n with pausePend := some (pauseStart (c.upl n).pausePend (te + 64 * nsQ), c.pauseStop n k te) }
    else if c.on UPLINK.PAUSE_STATUS_PAUSED n then
      (c.bump UPLINK.RX_PAUSE_COUNT n).setUpl n { c.upl n with pausePend := some (te + 64 * nsQ, te + 64 * nsQ) }
    else c.bump UPLINK.RX_PAUSE_COUNT n := by
  have hocts : (c.bump UPLINK.RX_PAUSE_COUNT n).octs n 64 = c.octs n 64 := by
    have hspeed : (c.bump UPLINK.RX_PAUSE_COUNT n).on UPLINK.LINK_STATUS_SPEED_IN_FORCE n = c.on UPLINK.LINK_STATUS_SPEED_IN_FORCE n :=
      Chip.on_of_fld (Chip.fld_setFld_apart (by decide) hn (by decide) hn (by decide))
    rw [Chip.octs, hspeed, Chip.octs]
  unfold Chip.pauseRx
  generalize 64 * nsQ = w
  rw [if_neg (by rw [h]; decide)]
  extract_lets e stop u paused old x start
  have hpaused : e.on UPLINK.PAUSE_STATUS_PAUSED n = c.on UPLINK.PAUSE_STATUS_PAUSED n :=
    Chip.on_of_fld (Chip.fld_setFld_apart (by decide) hn (by decide) hn (by decide))
  have hp : paused = c.on UPLINK.PAUSE_STATUS_PAUSED n := hpaused
  have hstop : stop = c.pauseStop n k te := congrArg (fun o => te + k * o) hocts
  have hx : x = c.pauseTold n (pauseTells old stop) := rfl
  have hold : old = if paused then some u.pauseEnd else u.pausePend.map (·.2) := rfl
  have hstart : start = pauseStart u.pausePend (te + w) := rfl
  have hu : u = c.upl n := rfl
  have he : e = c.bump UPLINK.RX_PAUSE_COUNT n := rfl
  clear_value start x old paused stop u e
  subst hx hold hstart hstop hp hu he
  rw [hpaused]
  cases c.on UPLINK.PAUSE_STATUS_PAUSED n with
  | true =>
    simp only [if_true]
    rfl
  | false =>
    simp only [Bool.false_eq_true, if_false]
    rfl
/-! ### A control frame as it is received -/

/-- Where the checks 1 to 4 are passed by a MAC control frame. -/
structure Chip.TakesControl (c : Chip) (n : Nat) (f : List Byte) : Prop where
  line : c.lineOpen n = true
  noFec : c.on UPLINK.LINK_STATUS_FEC_IN_FORCE n = false
  passes : c.Passes n f
  typ : beNat ((f.drop 12).take 2) = 0x8808

theorem Chip.TakesControl.takes (h : c.TakesControl n f) (stamp : BitVec 96) (phi : Fin 2560) :
    c.takesFrame n stamp phi f false 0 0 = c.macControl n f (c.monoAt phi) true := by
  rw [Chip.takesFrame_checks h.line h.noFec, h.passes.control h.typ]

variable {n : Fin 4} {stamp : BitVec 96} {phi : Fin 2560}

/-- A counter of the uplink counts, and that is all. -/
theorem counts_sets (hr : (r.placed && r.cls.unlevelled) = true) (hm : n.val < r.cls.count)
    (hd : s.chip.takesFrame n.val stamp phi f false 0 0 = s.chip.bump r n.val) :
    SetsRegs (.uplinkFrameRx n stamp phi f false 0 0) s [r.key n.val 0] fun d => s.chip.Counts d r n.val := by
  refine setsRegs_of (exec_uplinkFrameRx n stamp phi f false 0 0 s) ?_ ?_ <;> rw [hd]
  · exact (Chip.Frame.refl _).bump _ _ _ (by simp)
  · exact (Chip.counts_bump _ _ _).inst hr hm

theorem unsupported_sets (h : s.chip.TakesControl n.val f) (hop : opOf f ≠ 1) : SetsRegs (.uplinkFrameRx n stamp phi f false 0 0) s
    [UPLINK.RX_MAC_CTRL_OTHER_COUNT.key n.val 0, EV.UPLINK_MAC_CTRL_UNSUPPORTED.key n.val] fun d =>
      s.chip.Counts d UPLINK.RX_MAC_CTRL_OTHER_COUNT n.val ∧ s.chip.Tells d EV.UPLINK_MAC_CTRL_UNSUPPORTED n.val := by
  have hn := n.isLt
  have hset : s.chip.Frame [] (Touched [.one UPLINK.RX_MAC_CTRL_OTHER_COUNT]) (s.chip.bump UPLINK.RX_MAC_CTRL_OTHER_COUNT n.val) :=
    (Chip.Frame.refl _).bump UPLINK.RX_MAC_CTRL_OTHER_COUNT n.val 0 (cells_one (by decide) hn)
  refine setsRegs_of (exec_uplinkFrameRx n stamp phi f false 0 0 s) ?_ ?_ <;> rw [h.takes, Chip.macControl_unsupported hop]
  · exact ((Chip.Frame.refl _).bump _ _ _ (by simp)).raise _ _ (by simp)
  · refine ⟨(Chip.ended_inst (by decide) hn (by decide)).trans ?_,
      (hset.tells_raise _ _ (by decide) (not_touched (by decide) 0 0 (by decide) (by decide))).inst (by decide) hn⟩
    exact (Chip.fld_raise_apart (e := EV.UPLINK_MAC_CTRL_UNSUPPORTED) (by decide) hn hn (by decide)).trans (Chip.fld_bump_self _ _ _ _)

theorem Chip.pauseTold_frame (S : List Part) (told : Bool) : c.Frame S
    (· ∈ UPLINK.RX_PAUSE_COUNT.key m 0 :: if told then [EV.UPLINK_PAUSE_RX.key m] else []) (c.pauseTold m told) := by
  cases told with
  | false => exact (Chip.Frame.refl c).bump _ _ _ (by simp)
  | true => exact ((Chip.Frame.refl c).bump _ _ _ (by simp)).raise _ _ (by simp)

theorem Chip.pauseTold_says (hm : m < 4) (told : Bool) : c.Counts (c.pauseTold m told) UPLINK.RX_PAUSE_COUNT m ∧
    (told = true → c.Tells (c.pauseTold m told) EV.UPLINK_PAUSE_RX m) := by
  have hset : c.Frame [] (Touched [.one UPLINK.RX_PAUSE_COUNT]) (c.bump UPLINK.RX_PAUSE_COUNT m) :=
    (Chip.Frame.refl _).bump UPLINK.RX_PAUSE_COUNT m 0 (cells_one (by decide) hm)
  cases told with
  | false => exact ⟨Chip.fld_bump_self _ _ _ _, fun h => absurd h (by decide)⟩
  | true =>
    exact ⟨(Chip.fld_raise_apart (e := EV.UPLINK_PAUSE_RX) (by decide) hm hm (by decide)).trans (Chip.fld_bump_self _ _ _ _),
      fun _ => hset.tells_raise _ _ (by decide) (not_touched (by decide) 0 0 (by decide) (by decide))⟩

/-- A pause frame sets the uplink's record to `u`. -/
theorem pause_becomes {u : Uplink} {told : Bool} {P : Prop} [Decidable P] (htold : told = true ↔ P)
    (hd : s.chip.takesFrame n.val stamp phi f false 0 0 = (s.chip.pauseTold n.val told).setUpl n.val u) :
    Becomes (.uplinkFrameRx n stamp phi f false 0 0) s (s.chip.setUpl n.val u)
      (UPLINK.RX_PAUSE_COUNT.key n.val 0 :: if P then [EV.UPLINK_PAUSE_RX.key n.val] else []) fun d =>
        s.chip.Counts d UPLINK.RX_PAUSE_COUNT n.val ∧ (P → s.chip.Tells d EV.UPLINK_PAUSE_RX n.val) := by
  have hn := n.isLt
  obtain ⟨hcount, htell⟩ := s.chip.pauseTold_says hn told
  have hlist : (if P then [EV.UPLINK_PAUSE_RX.key n.val] else []) = if told then [EV.UPLINK_PAUSE_RX.key n.val] else [] :=
    ite_congr (propext htold.symm) (fun _ => rfl) fun _ => rfl
  refine becomes_of (exec_uplinkFrameRx n stamp phi f false 0 0 s) ?_ ?_ <;> rw [hd]
  · rw [hlist]
    exact (Chip.pauseTold_frame _ told).setUpl (by decide) u
  · refine ⟨Chip.Counts.inst (d := (s.chip.pauseTold n.val told).setUpl n.val u) hcount (by decide) hn, fun hp => ?_⟩
    exact Chip.Tells.inst (d := (s.chip.pauseTold n.val told).setUpl n.val u) (htell (htold.mpr hp)) (by decide) hn

variable (h : s.chip.TakesControl n.val f) (hop : opOf f = 1) (hus : s.chip.ForUs n.val f)
include h hop hus

theorem takes_pause : s.chip.takesFrame n.val stamp phi f false 0 0 = s.chip.pauseRx n.val (quantaOf f) (s.chip.monoAt phi) := by
  rw [h.takes, Chip.macControl_pause hop hus]

theorem pauseIgnored_sets (hoff : s.chip.on UPLINK.PAUSE_CFG_RX_EN n.val = false) : SetsRegs (.uplinkFrameRx n stamp phi f false 0 0) s
    [UPLINK.RX_PAUSE_IGNORED_COUNT.key n.val 0] fun d => s.chip.Counts d UPLINK.RX_PAUSE_IGNORED_COUNT n.val :=
  counts_sets (by decide) n.isLt ((takes_pause h hop hus).trans (Chip.pauseRx_off hoff))

variable (hon : s.chip.on UPLINK.PAUSE_CFG_RX_EN n.val = true)
include hon

/-- A pause in force is set anew. -/
theorem pauseAgain_becomes (hp : s.chip.on UPLINK.PAUSE_STATUS_PAUSED n.val = true) (hq : 0 < quantaOf f) :
    Becomes (.uplinkFrameRx n stamp phi f false 0 0) s (s.chip.setUpl n.val { s.chip.upl n.val with
        pauseEnd := s.chip.pauseStop n.val (quantaOf f) (s.chip.monoAt phi), pausePend := none })
      (UPLINK.RX_PAUSE_COUNT.key n.val 0 :: if (s.chip.upl n.val).pauseEnd < s.chip.pauseStop n.val (quantaOf f) (s.chip.monoAt phi) then
        [EV.UPLINK_PAUSE_RX.key n.val] else []) fun d => s.chip.Counts d UPLINK.RX_PAUSE_COUNT n.val ∧
          ((s.chip.upl n.val).pauseEnd < s.chip.pauseStop n.val (quantaOf f) (s.chip.monoAt phi) → s.chip.Tells d EV.UPLINK_PAUSE_RX n.val) := by
  refine pause_becomes decide_eq_true_iff ?_
  rw [takes_pause h hop hus, Chip.pauseRx_on n.isLt hon, if_pos hq, if_pos hp]
  rfl

/-- A pause of no quanta ends the pause in force. -/
theorem pauseStops_becomes (hp : s.chip.on UPLINK.PAUSE_STATUS_PAUSED n.val = true) (hq : quantaOf f = 0) :
    Becomes (.uplinkFrameRx n stamp phi f false 0 0) s (s.chip.setUpl n.val { s.chip.upl n.val with
        pausePend := some (s.chip.monoAt phi + 64 * nsQ, s.chip.monoAt phi + 64 * nsQ) })
      [UPLINK.RX_PAUSE_COUNT.key n.val 0] fun d => s.chip.Counts d UPLINK.RX_PAUSE_COUNT n.val := by
  have hd := takes_pause (stamp := stamp) (phi := phi) h hop hus
  rw [Chip.pauseRx_on n.isLt hon, if_neg (by rw [hq]; decide), if_pos hp] at hd
  exact (pause_becomes (told := false) (P := False) (by decide) hd).imp fun d hd => hd.1

theorem pauseNothing_sets (hp : s.chip.on UPLINK.PAUSE_STATUS_PAUSED n.val = false) (hq : quantaOf f = 0) :
    SetsRegs (.uplinkFrameRx n stamp phi f false 0 0) s [UPLINK.RX_PAUSE_COUNT.key n.val 0] fun d =>
      s.chip.Counts d UPLINK.RX_PAUSE_COUNT n.val := by
  refine counts_sets (by decide) n.isLt ?_
  rw [takes_pause h hop hus, Chip.pauseRx_on n.isLt hon, if_neg (by rw [hq]; decide), if_neg (by rw [hp]; decide)]

theorem pauseNew_becomes (hp : s.chip.on UPLINK.PAUSE_STATUS_PAUSED n.val = false) (hq : 0 < quantaOf f)
    (hnone : (s.chip.upl n.val).pausePend = none) :
    Becomes (.uplinkFrameRx n stamp phi f false 0 0) s (s.chip.setUpl n.val { s.chip.upl n.val with
        pausePend := some (s.chip.monoAt phi + 64 * nsQ, s.chip.pauseStop n.val (quantaOf f) (s.chip.monoAt phi)) })
      [UPLINK.RX_PAUSE_COUNT.key n.val 0, EV.UPLINK_PAUSE_RX.key n.val] fun d => s.chip.Counts d UPLINK.RX_PAUSE_COUNT n.val ∧
        s.chip.Tells d EV.UPLINK_PAUSE_RX n.val := by
  have hd := takes_pause (stamp := stamp) (phi := phi) h hop hus
  rw [Chip.pauseRx_on n.isLt hon, if_pos hq, if_neg (by rw [hp]; decide), hnone] at hd
  exact (pause_becomes (told := true) (P := True) (by decide) hd).imp fun d hd => ⟨hd.1, hd.2 trivial⟩

theorem pauseMoved_becomes {from_ to_ : Nat} (hp : s.chip.on UPLINK.PAUSE_STATUS_PAUSED n.val = false) (hq : 0 < quantaOf f)
    (hsome : (s.chip.upl n.val).pausePend = some (from_, to_)) :
    Becomes (.uplinkFrameRx n stamp phi f false 0 0) s (s.chip.setUpl n.val { s.chip.upl n.val with
        pausePend := some (if from_ < to_ then from_ else s.chip.monoAt phi + 64 * nsQ, s.chip.pauseStop n.val (quantaOf f) (s.chip.monoAt phi)) })
      (UPLINK.RX_PAUSE_COUNT.key n.val 0 :: if to_ < s.chip.pauseStop n.val (quantaOf f) (s.chip.monoAt phi) then [EV.UPLINK_PAUSE_RX.key n.val] else [])
      fun d => s.chip.Counts d UPLINK.RX_PAUSE_COUNT n.val ∧
        (to_ < s.chip.pauseStop n.val (quantaOf f) (s.chip.monoAt phi) → s.chip.Tells d EV.UPLINK_PAUSE_RX n.val) := by
  refine pause_becomes decide_eq_true_iff ?_
  rw [takes_pause h hop hus, Chip.pauseRx_on n.isLt hon, if_pos hq, if_neg (by rw [hp]; decide), hsome]
  rfl
end

end Sys2Proof.Machine
end

section
/-!
PROOF. What an uplink does with the frames that pass the checks 1 to 5: the servo's copy and the packet buffer.
-/
namespace Sys2Proof.Machine

section
variable {a b c d e : Chip} {r : FieldRow} {s : State} {f : List Byte} {n : Fin 4} {stamp : BitVec 96} {phi : Fin 2560}

/-- Where the checks 1 to 5 are passed. -/
structure Chip.TakesData (c : Chip) (n : Nat) (f : List Byte) : Prop where
  line : c.lineOpen n = true
  noFec : c.on UPLINK.LINK_STATUS_FEC_IN_FORCE n = false
  passes : c.Passes n f
  typ : beNat ((f.drop 12).take 2) ≠ 0x8808

theorem Chip.TakesData.takes {n : Nat} (h : c.TakesData n f) (stamp : BitVec 96) (phi : Fin 2560) :
    c.takesFrame n stamp phi f false 0 0 = (c.ptpCopy n (bodyOf f) (c.uplStamp n stamp)).uplAdmit n f (c.uplStamp n stamp) := by
  rw [Chip.takesFrame_checks h.line h.noFec, h.passes.data h.typ]

/-- A 64-bit octet counter wraps. -/
theorem Chip.rxCounted_says {n : Nat} (hn : n < 4) (k : Nat) : c.Counts (c.rxCounted n k) UPLINK.RX_FRAMES_COUNT n ∧
    (c.rxCounted n k).fld64 UPLINK.RX_OCTETS_LO_COUNT UPLINK.RX_OCTETS_HI_COUNT n =
      (c.fld64 UPLINK.RX_OCTETS_LO_COUNT UPLINK.RX_OCTETS_HI_COUNT n + k) % 2 ^ 64 := by
  have hframes : (c.bump UPLINK.RX_FRAMES_COUNT n).fld UPLINK.RX_FRAMES_COUNT n = min (c.fld UPLINK.RX_FRAMES_COUNT n + 1) (2 ^ 32 - 1) :=
    Chip.fld_bump_self _ _ _ _
  have hlo : (c.bump UPLINK.RX_FRAMES_COUNT n).fld UPLINK.RX_OCTETS_LO_COUNT n = c.fld UPLINK.RX_OCTETS_LO_COUNT n :=
    Chip.fld_setFld_apart (by decide) hn (by decide) hn (by decide)
  have hhi : (c.bump UPLINK.RX_FRAMES_COUNT n).fld UPLINK.RX_OCTETS_HI_COUNT n = c.fld UPLINK.RX_OCTETS_HI_COUNT n :=
    Chip.fld_setFld_apart (by decide) hn (by decide) hn (by decide)
  unfold Chip.rxCounted Chip.bumpOctets
  generalize c.bump UPLINK.RX_FRAMES_COUNT n = e at hframes hlo hhi
  refine ⟨?_, ?_⟩
  · rw [Chip.Counts, Chip.setFld64, Chip.fld_setFld_apart (by decide) hn (by decide) hn (by decide),
      Chip.fld_setFld_apart (by decide) hn (by decide) hn (by decide), hframes]
    rfl
  · rw [Chip.fld64, Chip.setFld64, Chip.fld_setFld_apart (by decide) hn (by decide) hn (by decide), Chip.fld_setFld_self, Chip.fld_setFld_self,
      Chip.fld64, hlo, hhi, Chip.fld64, show UPLINK.RX_OCTETS_LO_COUNT.width = 32 from rfl, show UPLINK.RX_OCTETS_HI_COUNT.width = 32 from rfl]
    omega

variable (h : s.chip.TakesData n.val f)
include h

theorem noPtp_sets (hcore : s.chip.coreOpen = false) (hp : parsePtp (bodyOf f) = none) : SetsRegs (.uplinkFrameRx n stamp phi f false 0 0) s
    [UPLINK.RX_NOBUF_COUNT.key n.val 0, EV.UPLINK_RX_ERROR.key n.val] fun d =>
      s.chip.Counts d UPLINK.RX_NOBUF_COUNT n.val ∧ s.chip.Tells d EV.UPLINK_RX_ERROR n.val := by
  refine frameBad_sets n List.mem_cons_self ?_
  rw [h.takes, Chip.ptpCopy_none hp, Chip.uplAdmit_closed hcore]
  rfl

theorem coreClosed_ends (hcore : s.chip.coreOpen = false) : Ends (.uplinkFrameRx n stamp phi f false 0 0) s fun d =>
    s.chip.Counts d UPLINK.RX_NOBUF_COUNT n.val ∧ s.chip.Tells d EV.UPLINK_RX_ERROR n.val ∧ d.buffer.nextId = s.chip.buffer.nextId := by
  have hn := n.isLt
  refine ends_of (exec_uplinkFrameRx n stamp phi f false 0 0 s) ?_
  rw [h.takes]
  have hcopy := s.chip.ptpCopy_frame n.val (bodyOf f) (s.chip.uplStamp n.val stamp)
  obtain ⟨hopen, -, -⟩ := Chip.ptpCopy_check6 (c := s.chip) hn (bodyOf f) (s.chip.uplStamp n.val stamp) (bodyOf f)
  generalize s.chip.ptpCopy n.val (bodyOf f) (s.chip.uplStamp n.val stamp) = e at hcopy hopen
  rw [Chip.uplAdmit_closed (hopen.trans hcore)]
  obtain ⟨hcount, htell⟩ := Chip.rxBad_says (c := e) (r := UPLINK.RX_NOBUF_COUNT) hn List.mem_cons_self
  refine ⟨?_, Chip.Tells.inst (d := e.rxBad n.val UPLINK.RX_NOBUF_COUNT) (fun hup => htell ?_) (by decide) hn, ?_⟩
  · refine (Chip.ended_inst (by decide) hn (by decide)).trans (hcount.trans ?_)
    rw [hcopy.fld_apart UPLINK.RX_NOBUF_COUNT n.val 0 (by decide) hn (by decide)]
  · rw [hcopy.domUp _ (not_touched (by decide) 0 0 (by decide) (by decide))]
    exact hup
  · rw [Chip.ended_buffer, Chip.raise_buffer, ← hcopy.buffer (by decide)]
    rfl

theorem noCells_ends (hcore : s.chip.coreOpen = true)
    (hk : s.chip.cellsFor n.val (cellsOf (f.length - 4)) (s.chip.uplPreclass n.val (bodyOf f)) = none) :
    Ends (.uplinkFrameRx n stamp phi f false 0 0) s fun d => s.chip.Counts d UPLINK.RX_NOBUF_COUNT n.val ∧
      d.buffer.nextId = s.chip.buffer.nextId := by
  have hn := n.isLt
  have hlen : (bodyOf f).length = f.length - 4 := by rw [bodyOf, List.length_take, min_eq_left (Nat.sub_le _ _)]
  refine ends_of (exec_uplinkFrameRx n stamp phi f false 0 0 s) ?_
  rw [h.takes]
  have hcopy := s.chip.ptpCopy_frame n.val (bodyOf f) (s.chip.uplStamp n.val stamp)
  obtain ⟨hopen, hpre, hcells⟩ := Chip.ptpCopy_check6 (c := s.chip) hn (bodyOf f) (s.chip.uplStamp n.val stamp) (bodyOf f)
  generalize s.chip.ptpCopy n.val (bodyOf f) (s.chip.uplStamp n.val stamp) = e at hcopy hopen hpre hcells
  rw [Chip.uplAdmit_none (hopen.trans hcore) (by rw [hcells, hpre, hlen]; exact hk)]
  have hcount : e.fld UPLINK.RX_NOBUF_COUNT n.val = s.chip.fld UPLINK.RX_NOBUF_COUNT n.val :=
    hcopy.fld_apart UPLINK.RX_NOBUF_COUNT n.val 0 (by decide) hn (by decide)
  have hbump : (e.bump UPLINK.RX_NOBUF_COUNT n.val).fld UPLINK.RX_NOBUF_COUNT n.val = min (e.fld UPLINK.RX_NOBUF_COUNT n.val + 1) (2 ^ 32 - 1) :=
    Chip.fld_bump_self _ _ _ _
  have hrest : (e.bump UPLINK.RX_NOBUF_COUNT n.val).Frame [] (Touched [.evt .reel])
      (if (e.bump UPLINK.RX_NOBUF_COUNT n.val).headroomOpen n.val then (e.bump UPLINK.RX_NOBUF_COUNT n.val).raise EV.REEL_HEADROOM_EXHAUSTED
        else e.bump UPLINK.RX_NOBUF_COUNT n.val) :=
    Chip.Frame.ite (fun _ => (Chip.Frame.refl _).raise _ _ (cells_evt (cls := .reel) (by decide) (by decide))) fun _ => .refl _
  refine ⟨?_, ?_⟩
  · refine (Chip.ended_inst (by decide) hn (by decide)).trans ?_
    rw [hrest.fld_apart UPLINK.RX_NOBUF_COUNT n.val 0 (by decide) hn (by decide), hbump, hcount]
    rfl
  · rw [Chip.ended_buffer, hrest.buffer (by decide), ← hcopy.buffer (by decide)]
    rfl

theorem twoStep_ends {m : PtpMsg} (hp : parsePtp (bodyOf f) = some (false, m)) (hs : s.chip.ptpForServo n.val m = true) (h2 : m.twoStep = true) :
    Ends (.uplinkFrameRx n stamp phi f false 0 0) s fun d =>
      d.whorl.sync = some { seq := m.seq.toNat, t2 := s.chip.uplStamp n.val stamp, corr := signed 64 m.corr.toNat } := by
  refine ends_of (exec_uplinkFrameRx n stamp phi f false 0 0 s) ?_
  rw [h.takes, Chip.ended_whorl, (Chip.uplAdmit_frame n.isLt _ _).whorl (by decide)]
  exact Chip.ptpCopy_twoStep hp hs h2

theorem admitted_ends {k : Cells} (hcore : s.chip.coreOpen = true)
    (hk : s.chip.cellsFor n.val (cellsOf (f.length - 4)) (s.chip.uplPreclass n.val (bodyOf f)) = some k) :
    Ends (.uplinkFrameRx n stamp phi f false 0 0) s fun d => s.chip.Counts d UPLINK.RX_FRAMES_COUNT n.val ∧
      d.fld64 UPLINK.RX_OCTETS_LO_COUNT UPLINK.RX_OCTETS_HI_COUNT n.val =
        (s.chip.fld64 UPLINK.RX_OCTETS_LO_COUNT UPLINK.RX_OCTETS_HI_COUNT n.val + f.length) % 2 ^ 64 ∧
      d.buffer.nextId = s.chip.buffer.nextId + 1 := by
  have hn := n.isLt
  have hlen : (bodyOf f).length = f.length - 4 := by rw [bodyOf, List.length_take, min_eq_left (Nat.sub_le _ _)]
  refine ends_of (exec_uplinkFrameRx n stamp phi f false 0 0 s) ?_
  rw [h.takes]
  have hcopy := s.chip.ptpCopy_frame n.val (bodyOf f) (s.chip.uplStamp n.val stamp)
  obtain ⟨hopen, hpre, hcells⟩ := Chip.ptpCopy_check6 (c := s.chip) hn (bodyOf f) (s.chip.uplStamp n.val stamp) (bodyOf f)
  generalize s.chip.ptpCopy n.val (bodyOf f) (s.chip.uplStamp n.val stamp) = e at hcopy hopen hpre hcells
  rw [Chip.uplAdmit_some (hopen.trans hcore) (by rw [hcells, hpre, hlen]; exact hk)]
  obtain ⟨hcount, hoctets⟩ := e.rxCounted_says hn f.length
  have hrx := e.rxCounted_frame hn f.length
  obtain ⟨hadmit, hid⟩ := (e.rxCounted n.val f.length).admitFrame_says n.val (e.uplPreclass n.val (bodyOf f)) (bodyOf f)
    (s.chip.uplStamp n.val stamp) k none
  generalize (e.rxCounted n.val f.length).admitFrame n.val (e.uplPreclass n.val (bodyOf f)) (bodyOf f) (s.chip.uplStamp n.val stamp) k none = d
    at hadmit hid
  have hkept (r : FieldRow) (hr : (r.placed && ptpSpots.all r.apart) = true) (hm : n.val < r.cls.count) : e.fld r n.val = s.chip.fld r n.val :=
    hcopy.fld_apart r n.val 0 hr hm (by decide)
  have hlast (r : FieldRow) (hr : (r.placed && admitSpots.all r.apart) = true) (hu : (r.placed && r.cls.unlevelled) = true)
      (hm : n.val < r.cls.count) :
      (s.chip.ended d).fld r n.val = (e.rxCounted n.val f.length).fld r n.val :=
    (Chip.ended_inst hu hm (by decide)).trans (hadmit.fld_apart r n.val 0 hr hm (by decide))
  refine ⟨?_, ?_, ?_⟩
  · rw [Chip.Counts, hlast UPLINK.RX_FRAMES_COUNT (by decide) (by decide) hn, hcount, hkept UPLINK.RX_FRAMES_COUNT (by decide) hn]
  · rw [Chip.fld64, hlast UPLINK.RX_OCTETS_LO_COUNT (by decide) (by decide) hn, hlast UPLINK.RX_OCTETS_HI_COUNT (by decide) (by decide) hn]
    refine hoctets.trans ?_
    rw [Chip.fld64, hkept UPLINK.RX_OCTETS_LO_COUNT (by decide) hn, hkept UPLINK.RX_OCTETS_HI_COUNT (by decide) hn, Chip.fld64]
  · rw [Chip.ended_buffer, hid, hrx.buffer (by decide), hcopy.buffer (by decide)]
end

end Sys2Proof.Machine
end

section
/-!
PROOF. What an uplink does with the mPackets of the MAC merge sublayer.
-/
namespace Sys2Proof.Machine

section
variable {a b c d e : Chip} {n m : Nat} {r : FieldRow} {s : State} {f : List Byte} {te : Nat} {err : Bool}

/-- What is done with an mPacket once its codewords are counted. -/
def Chip.takesPacket (c : Chip) (n : Nat) (phi : Fin 2560) (m : MPacket) (err : Bool) : Chip :=
  if !c.on UPLINK.MERGE_CFG_EN n then c.bump UPLINK.RX_SMD_ERR_COUNT n
  else match m with
  | .undefined => c.bump UPLINK.RX_SMD_ERR_COUNT n
  | .verify => c.updUpl n fun u => { u with responds := u.responds + 1 }
  | .respond => c.respondRx n
  | .start stamp octets tail =>
    (c.reasmDrop n).fragEnd n { bytes := octets, nextCount := 0, stamp := c.uplStamp n stamp, err := err } tail (c.monoAt phi)
  | .cont count octets tail =>
    match (c.upl n).reasm with
    | none => (c.bump UPLINK.RX_ASSY_ERR_COUNT n).raise EV.UPLINK_REASM_ERROR n
    | some r =>
      if r.nextCount ≠ count.val then (c.reasmDrop n).bump UPLINK.RX_FRAG_COUNT_ERR_COUNT n
      else c.fragEnd n { r with bytes := r.bytes ++ octets, nextCount := (r.nextCount + 1) % 4, err := r.err || err } tail (c.monoAt phi)

theorem Chip.mpacketRx_eq (c : Chip) (n : Nat) (phi : Fin 2560) (m : MPacket) (x : RxErr) : c.mpacketRx n phi m x =
    (c.fecCount n x.fixed x.bad).takesPacket n phi m (x.pcsErr || (c.on UPLINK.LINK_STATUS_FEC_IN_FORCE n && x.bad != 0)) := rfl

theorem exec_mpacketRx (n : Fin 4) (phi : Fin 2560) (m : MPacket) (x : RxErr) (s : State) : exec (.mpacketRx n phi m x) s =
    run (fun c => c.whenDue (c.lineOpen n.val) fun d => d.mpacketRx n.val phi m x) s := rfl

theorem Chip.mpacketRx_noFec {phi : Fin 2560} {m : MPacket} {pcs : Bool} (h : c.on UPLINK.LINK_STATUS_FEC_IN_FORCE n = false) :
    c.mpacketRx n phi m { pcsErr := pcs } = c.takesPacket n phi m pcs := by
  rw [Chip.mpacketRx_eq, Chip.fecCount_off h, h]
  congr 1
  exact Bool.or_false _

/-! ### What an mPacket may change -/

def packetSpots : List Spot := [.one UPLINK.RX_SMD_ERR_COUNT, .one UPLINK.RX_ASSY_OK_COUNT, .one UPLINK.RX_ASSY_ERR_COUNT,
  .one UPLINK.RX_FRAG_COUNT_ERR_COUNT] ++ verifySpots ++ c7Spots ++ rxSpots

/-- A change that an mPacket may bring. -/
def Chip.PacketStep (c d : Chip) (n : Nat) : Prop := c.Frame rxParts (Touched packetSpots) d ∧ c.KeepsOwn d n

theorem Chip.PacketStep.refl (c : Chip) (n : Nat) : c.PacketStep c n := ⟨.refl c, .refl c n⟩

theorem Chip.PacketStep.trans (h : c.PacketStep d n) (h' : d.PacketStep e n) : c.PacketStep e n := ⟨h.1.trans h'.1, h.2.trans h'.2⟩

theorem Chip.packetStep_bump (hr : Spot.one r ∈ packetSpots) (hm : n < r.cls.count) (he : r.eventless = true) : c.PacketStep (c.bump r n) n :=
  ⟨(Chip.Frame.refl c).bump r n 0 (cells_one hr hm), ((Chip.KeepsEvents.refl c).bump he (by decide) _).own⟩

theorem Chip.packetStep_raise (hn : n < 4) (v : Evt) (hv : v.cls = .uplink) : c.PacketStep (c.raise v n) n := by
  refine ⟨(Chip.Frame.refl c).raise v n ?_, ((Chip.KeepsEvents.refl c).raise v n).own⟩
  rw [Evt.key, hv]
  exact cells_evt (cls := .uplink) (by decide) hn

theorem Chip.packetStep_upl (g : Uplink → Uplink) : c.PacketStep (c.updUpl n g) n :=
  ⟨(Chip.Frame.refl c).withUplinks _ (by decide), ((Chip.KeepsEvents.refl c).same rfl).own⟩

theorem Chip.packetStep_drop (hn : n < 4) : c.PacketStep (c.reasmDrop n) n := by
  unfold Chip.reasmDrop
  split
  · exact ((Chip.packetStep_upl _).trans (Chip.packetStep_bump (r := UPLINK.RX_ASSY_ERR_COUNT) (by decide) hn (by decide))).trans
      (Chip.packetStep_raise hn EV.UPLINK_REASM_ERROR rfl)
  · exact .refl c n

theorem Chip.packetStep_respond (hn : n < 4) : c.PacketStep (c.respondRx n) n := by
  unfold Chip.respondRx
  split
  · have hset : c.PacketStep ((c.setFld UPLINK.MERGE_STATUS_VERIFY_STATE 3 n).setFld UPLINK.MERGE_STATUS_ACTIVE 1 n) n :=
      ⟨((Chip.Frame.refl c).setFld UPLINK.MERGE_STATUS_VERIFY_STATE 3 n 0 (cells_one (by decide) hn)).setFld UPLINK.MERGE_STATUS_ACTIVE 1 n 0
        (cells_one (by decide) hn), (((Chip.KeepsEvents.refl c).setFld (by decide) (by decide) _ _).setFld (by decide) (by decide) _ _).own⟩
    refine (hset.trans (Chip.packetStep_raise hn EV.UPLINK_VERIFY_DONE rfl)).trans ?_
    generalize (((c.setFld UPLINK.MERGE_STATUS_VERIFY_STATE 3 n).setFld UPLINK.MERGE_STATUS_ACTIVE 1 n).raise EV.UPLINK_VERIFY_DONE n) = e
    have h7 : e.Frame [] (Touched c7Spots) (e.c7Eval n) := Chip.c7Eval_touched hn
    exact ⟨h7.mono (List.nil_subset _) (Touched.mono (by decide)), h7.keepsOwn (by decide) hn⟩
  · exact .refl c n

theorem Chip.packetStep_frag (hn : n < 4) (r : Reasm) (tail : FragTail) (te : Nat) : c.PacketStep (c.fragEnd n r tail te) n := by
  cases tail with
  | mcrcOk => exact Chip.packetStep_upl (c := c) (n := n) fun u => { u with reasm := some r }
  | mcrcBad => exact (Chip.packetStep_upl _).trans (Chip.packetStep_drop hn)
  | final =>
    unfold Chip.fragEnd
    extract_lets e k g
    have he : c.PacketStep e n := Chip.packetStep_upl _
    have hg : e.PacketStep g n := by
      show e.PacketStep (if _ then _ else _) n
      split
      · exact Chip.packetStep_bump (r := UPLINK.RX_ASSY_OK_COUNT) (by decide) hn (by decide)
      · exact .refl e n
    obtain ⟨hchecks, hkeeps⟩ := g.uplChecks_says hn r.bytes r.stamp te r.err false
    exact (he.trans hg).trans ⟨hchecks.mono (List.Subset.refl _) (Touched.mono (by decide)), hkeeps⟩

theorem Chip.takesPacket_step (hn : n < 4) (phi : Fin 2560) (m : MPacket) (err : Bool) : c.PacketStep (c.takesPacket n phi m err) n := by
  have hsmd : c.PacketStep (c.bump UPLINK.RX_SMD_ERR_COUNT n) n := Chip.packetStep_bump (by decide) hn (by decide)
  unfold Chip.takesPacket
  split
  · exact hsmd
  cases m with
  | undefined => exact hsmd
  | verify => exact Chip.packetStep_upl _
  | respond => exact Chip.packetStep_respond hn
  | start stamp octets tail => exact (Chip.packetStep_drop hn).trans (Chip.packetStep_frag hn _ _ _)
  | cont count octets tail =>
    dsimp only
    split
    · exact (Chip.packetStep_bump (r := UPLINK.RX_ASSY_ERR_COUNT) (by decide) hn (by decide)).trans
        (Chip.packetStep_raise hn EV.UPLINK_REASM_ERROR rfl)
    · split
      · exact (Chip.packetStep_drop hn).trans (Chip.packetStep_bump (by decide) hn (by decide))
      · exact Chip.packetStep_frag hn _ _ _

/-- Codewords that were counted stay counted. -/
theorem Chip.FecCounted.step {x y : Nat} (hn : n < 4) (h : c.FecCounted d n x y) (hstep : d.PacketStep e n) : c.FecCounted e n x y := by
  obtain ⟨hfixed, hbad⟩ := h
  obtain ⟨hframe, hkeeps⟩ := hstep
  refine ⟨?_, fun hy => ⟨?_, (hbad hy).2.keepsOwn hkeeps rfl (by decide)⟩⟩
  · rw [Chip.Counts, hframe.fld_apart UPLINK.FEC_CORRECTED_COUNT n 0 (by decide) hn (by decide), hfixed]
  · rw [Chip.Counts, hframe.fld_apart UPLINK.FEC_UNCORRECTED_COUNT n 0 (by decide) hn (by decide), (hbad hy).1]

theorem packet_counts (n : Fin 4) {phi : Fin 2560} {pcs : Bool} {x y : Nat} (h : s.chip.lineOpen n.val = true)
    (hon : s.chip.on UPLINK.LINK_STATUS_FEC_IN_FORCE n.val = true) (m : MPacket) :
    Ends (.mpacketRx n phi m { pcsErr := pcs, fixed := x, bad := y }) s fun d => s.chip.FecCounted d n.val x y := by
  refine ends_of_due (exec_mpacketRx n phi m _ s) h ?_
  rw [Chip.mpacketRx_eq]
  exact ((Chip.fecCount_counted n.isLt hon).step n.isLt (Chip.takesPacket_step n.isLt _ _ _)).inst n.isLt

theorem Chip.uplFrameRx_eq (c : Chip) (n : Nat) (stamp : BitVec 96) (phi : Fin 2560) (f : List Byte) (pcs : Bool) (x y : Nat) :
    c.uplFrameRx n stamp phi f pcs x y = (c.fecCount n x y).uplChecks n f (c.uplStamp n stamp) (c.monoAt phi)
      (pcs || (c.on UPLINK.LINK_STATUS_FEC_IN_FORCE n && y != 0)) true := rfl

theorem frame_counts (n : Fin 4) {stamp : BitVec 96} {phi : Fin 2560} {pcs : Bool} {x y : Nat} (h : s.chip.lineOpen n.val = true)
    (hon : s.chip.on UPLINK.LINK_STATUS_FEC_IN_FORCE n.val = true) :
    Ends (.uplinkFrameRx n stamp phi f pcs x y) s fun d => s.chip.FecCounted d n.val x y ∧
      (0 < y → s.chip.Counts d UPLINK.RX_CODE_ERR_COUNT n.val ∧ s.chip.Tells d EV.UPLINK_RX_ERROR n.val) := by
  have hn := n.isLt
  have hcount := Chip.fecCount_counted (fixed := x) (bad := y) hn hon
  have hframe : s.chip.Frame [] (Touched fecSpots) (s.chip.fecCount n.val x y) := Chip.fecCount_touched hn _
  refine ends_of (exec_uplinkFrameRx n stamp phi f pcs x y s) ?_
  rw [Chip.takesFrame_open h, Chip.uplFrameRx_eq, hon]
  generalize s.chip.fecCount n.val x y = e at hcount hframe
  obtain ⟨hchecks, hkeeps⟩ := e.uplChecks_says hn f (s.chip.uplStamp n.val stamp) (s.chip.monoAt phi) (pcs || (true && y != 0)) true
  refine ⟨(hcount.step hn ⟨hchecks.mono (List.Subset.refl _) (Touched.mono (by decide)), hkeeps⟩).inst hn, fun hy => ?_⟩
  have hbad : (pcs || (true && y != 0)) = true := by
    rw [Bool.true_and, bne_iff_ne.mpr (Nat.ne_of_gt hy), Bool.or_true]
  rw [hbad, Chip.uplChecks_code]
  obtain ⟨hcode, htell⟩ := Chip.rxBad_says (c := e) (r := UPLINK.RX_CODE_ERR_COUNT) hn (by decide)
  refine ⟨(Chip.ended_inst (by decide) hn (by decide)).trans (hcode.trans ?_),
    Chip.Tells.inst (d := e.rxBad n.val UPLINK.RX_CODE_ERR_COUNT) (fun hup => htell ?_) (by decide) hn⟩
  · rw [hframe.fld_apart UPLINK.RX_CODE_ERR_COUNT n.val 0 (by decide) hn (by decide)]
  · rw [hframe.domUp _ (not_touched (by decide) 0 0 (by decide) (by decide))]
    exact hup
end

end Sys2Proof.Machine
end

section
/-!
PROOF. What an uplink does with what it receives: mPackets one by one, pauses in time, and the obligation.
-/
namespace Sys2Proof.Machine

section
variable {c d e : Chip} {r : FieldRow} {s : State} {f : List Byte} {n : Fin 4} {stamp : BitVec 96} {phi : Fin 2560} {pcs : Bool}

/-- Where an mPacket is taken, with no codewords to count. -/
structure Chip.TakesPackets (c : Chip) (n : Nat) : Prop where
  line : c.lineOpen n = true
  noFec : c.on UPLINK.LINK_STATUS_FEC_IN_FORCE n = false

theorem packet_becomes {m : MPacket} {b : Chip} {own : List Nat} {ok : Chip → Prop} (h : s.chip.TakesPackets n.val)
    (hd : b.Frame [.ecc] (· ∈ own) (s.chip.takesPacket n.val phi m pcs)) (hok : ok (s.chip.ended (s.chip.takesPacket n.val phi m pcs))) :
    Becomes (.mpacketRx n phi m { pcsErr := pcs }) s b own ok := by
  refine becomes_of_due (exec_mpacketRx n phi m _ s) h.line ?_ ?_ <;> rw [Chip.mpacketRx_noFec h.noFec]
  · exact hd
  · exact hok

theorem packetCount_sets {m : MPacket} (h : s.chip.TakesPackets n.val) (hr : (r.placed && r.cls.unlevelled) = true) (hm : n.val < r.cls.count)
    (hd : s.chip.takesPacket n.val phi m pcs = s.chip.bump r n.val) :
    SetsRegs (.mpacketRx n phi m { pcsErr := pcs }) s [r.key n.val 0] fun d => s.chip.Counts d r n.val := by
  refine packet_becomes h ?_ ?_ <;> rw [hd]
  · exact (Chip.Frame.refl _).bump _ _ _ (by simp)
  · exact (Chip.counts_bump _ _ _).inst hr hm

theorem Chip.takesPacket_off {m : MPacket} (h : c.on UPLINK.MERGE_CFG_EN n.val = false) :
    c.takesPacket n.val phi m pcs = c.bump UPLINK.RX_SMD_ERR_COUNT n.val := if_pos (by rw [h]; rfl)

theorem Chip.reasmDrop_none {k : Nat} (h : (c.upl k).reasm = none) : c.reasmDrop k = c := by
  rw [Chip.reasmDrop, h]

variable (h : s.chip.TakesPackets n.val) (hen : s.chip.on UPLINK.MERGE_CFG_EN n.val = true)
include h hen

theorem undefined_sets : SetsRegs (.mpacketRx n phi .undefined { pcsErr := pcs }) s [UPLINK.RX_SMD_ERR_COUNT.key n.val 0] fun d =>
    s.chip.Counts d UPLINK.RX_SMD_ERR_COUNT n.val :=
  packetCount_sets h (by decide) n.isLt (if_neg (by rw [hen]; decide))

theorem verify_becomes : Becomes (.mpacketRx n phi .verify { pcsErr := pcs }) s
    (s.chip.setUpl n.val { s.chip.upl n.val with responds := (s.chip.upl n.val).responds + 1 }) [] fun _ => True := by
  have hd : s.chip.takesPacket n.val phi .verify pcs =
      s.chip.setUpl n.val { s.chip.upl n.val with responds := (s.chip.upl n.val).responds + 1 } := if_neg (by rw [hen]; decide)
  refine packet_becomes h ?_ trivial
  rw [hd]
  exact .refl _

theorem respond_ends (hst : s.chip.fld UPLINK.MERGE_STATUS_VERIFY_STATE n.val = 2) (hat : 1 ≤ s.chip.fld UPLINK.MERGE_STATUS_ATTEMPTS n.val) :
    Ends (.mpacketRx n phi .respond { pcsErr := pcs }) s fun d => d.fld UPLINK.MERGE_STATUS_VERIFY_STATE n.val = 3 ∧
      d.fld UPLINK.MERGE_STATUS_ACTIVE n.val = 1 ∧ s.chip.Tells d EV.UPLINK_VERIFY_DONE n.val := by
  have hn := n.isLt
  have hd : s.chip.takesPacket n.val phi .respond pcs = (((s.chip.setFld UPLINK.MERGE_STATUS_VERIFY_STATE 3 n.val).setFld
      UPLINK.MERGE_STATUS_ACTIVE 1 n.val).raise EV.UPLINK_VERIFY_DONE n.val).c7Eval n.val :=
    (if_neg (by rw [hen]; decide)).trans (if_pos ⟨hst, hat⟩)
  have hset : s.chip.Frame [] (Touched [.one UPLINK.MERGE_STATUS_VERIFY_STATE, .one UPLINK.MERGE_STATUS_ACTIVE])
      ((s.chip.setFld UPLINK.MERGE_STATUS_VERIFY_STATE 3 n.val).setFld UPLINK.MERGE_STATUS_ACTIVE 1 n.val) :=
    ((Chip.Frame.refl _).setFld UPLINK.MERGE_STATUS_VERIFY_STATE 3 n.val 0 (cells_one (by decide) hn)).setFld UPLINK.MERGE_STATUS_ACTIVE 1 n.val 0
      (cells_one (by decide) hn)
  have hstate : ((s.chip.setFld UPLINK.MERGE_STATUS_VERIFY_STATE 3 n.val).setFld UPLINK.MERGE_STATUS_ACTIVE 1 n.val).fld
      UPLINK.MERGE_STATUS_VERIFY_STATE n.val = 3 :=
    (Chip.fld_setFld_apart (by decide) hn (by decide) hn (by decide)).trans (Chip.fld_setFld_self _ _ _ _ _)
  have hactive : ((s.chip.setFld UPLINK.MERGE_STATUS_VERIFY_STATE 3 n.val).setFld UPLINK.MERGE_STATUS_ACTIVE 1 n.val).fld
      UPLINK.MERGE_STATUS_ACTIVE n.val = 1 := Chip.fld_setFld_self _ _ _ _ _
  refine ends_of_due (exec_mpacketRx n phi .respond _ s) h.line ?_
  rw [Chip.mpacketRx_noFec h.noFec, hd]
  generalize (s.chip.setFld UPLINK.MERGE_STATUS_VERIFY_STATE 3 n.val).setFld UPLINK.MERGE_STATUS_ACTIVE 1 n.val = e at hset hstate hactive
  have htell : s.chip.Tells (e.raise EV.UPLINK_VERIFY_DONE n.val) EV.UPLINK_VERIFY_DONE n.val :=
    hset.tells_raise _ _ (by decide) (not_touched (by decide) 0 0 (by decide) (by decide))
  have h7 : (e.raise EV.UPLINK_VERIFY_DONE n.val).Frame [] (Touched c7Spots) ((e.raise EV.UPLINK_VERIFY_DONE n.val).c7Eval n.val) :=
    Chip.c7Eval_touched hn
  refine ⟨?_, ?_, (h7.tells htell (evt_not_touched (a := .uplink) (by decide) hn)).inst (by decide) hn⟩
  · rw [Chip.ended_inst (by decide) hn (by decide), h7.fld_apart UPLINK.MERGE_STATUS_VERIFY_STATE n.val 0 (by decide) hn (by decide),
      Chip.fld_raise_apart (by decide) hn hn (by decide), hstate]
  · rw [Chip.ended_inst (by decide) hn (by decide), h7.fld_apart UPLINK.MERGE_STATUS_ACTIVE n.val 0 (by decide) hn (by decide),
      Chip.fld_raise_apart (by decide) hn hn (by decide), hactive]

theorem start_becomes (hr : (s.chip.upl n.val).reasm = none) : Becomes (.mpacketRx n phi (.start stamp f .mcrcOk) { pcsErr := pcs }) s
    (s.chip.setUpl n.val { s.chip.upl n.val with reasm := some { bytes := f, nextCount := 0, stamp := s.chip.uplStamp n.val stamp, err := pcs } }) []
    fun _ => True := by
  have hd : s.chip.takesPacket n.val phi (.start stamp f .mcrcOk) pcs = s.chip.setUpl n.val
      { s.chip.upl n.val with reasm := some { bytes := f, nextCount := 0, stamp := s.chip.uplStamp n.val stamp, err := pcs } } := by
    refine (if_neg (by rw [hen]; decide)).trans ?_
    dsimp only
    rw [Chip.reasmDrop_none hr]
    rfl
  refine packet_becomes h ?_ trivial
  rw [hd]
  exact .refl _

theorem orphan_sets {count : Fin 4} {tail : FragTail} (hr : (s.chip.upl n.val).reasm = none) :
    SetsRegs (.mpacketRx n phi (.cont count f tail) { pcsErr := pcs }) s [UPLINK.RX_ASSY_ERR_COUNT.key n.val 0, EV.UPLINK_REASM_ERROR.key n.val]
      fun d => s.chip.Counts d UPLINK.RX_ASSY_ERR_COUNT n.val ∧ s.chip.Tells d EV.UPLINK_REASM_ERROR n.val := by
  have hn := n.isLt
  have hd : s.chip.takesPacket n.val phi (.cont count f tail) pcs =
      (s.chip.bump UPLINK.RX_ASSY_ERR_COUNT n.val).raise EV.UPLINK_REASM_ERROR n.val := by
    refine (if_neg (by rw [hen]; decide)).trans ?_
    dsimp only
    rw [hr]
  have hset : s.chip.Frame [] (Touched [.one UPLINK.RX_ASSY_ERR_COUNT]) (s.chip.bump UPLINK.RX_ASSY_ERR_COUNT n.val) :=
    (Chip.Frame.refl _).bump UPLINK.RX_ASSY_ERR_COUNT n.val 0 (cells_one (by decide) hn)
  refine packet_becomes h ?_ ?_ <;> rw [hd]
  · exact ((Chip.Frame.refl _).bump _ _ _ (by simp)).raise _ _ (by simp)
  · refine ⟨(Chip.ended_inst (by decide) hn (by decide)).trans ?_,
      (hset.tells_raise _ _ (by decide) (not_touched (by decide) 0 0 (by decide) (by decide))).inst (by decide) hn⟩
    exact (Chip.fld_raise_apart (e := EV.UPLINK_REASM_ERROR) (by decide) hn hn (by decide)).trans (Chip.fld_bump_self _ _ _ _)

theorem outOfOrder_becomes {count : Fin 4} {tail : FragTail} {r : Reasm} (hr : (s.chip.upl n.val).reasm = some r) (hc : r.nextCount ≠ count.val) :
    Becomes (.mpacketRx n phi (.cont count f tail) { pcsErr := pcs }) s (s.chip.setUpl n.val { s.chip.upl n.val with reasm := none })
      [UPLINK.RX_ASSY_ERR_COUNT.key n.val 0, UPLINK.RX_FRAG_COUNT_ERR_COUNT.key n.val 0, EV.UPLINK_REASM_ERROR.key n.val]
      fun d => s.chip.Counts d UPLINK.RX_FRAG_COUNT_ERR_COUNT n.val ∧ s.chip.Counts d UPLINK.RX_ASSY_ERR_COUNT n.val := by
  have hn := n.isLt
  have hd : s.chip.takesPacket n.val phi (.cont count f tail) pcs = (((s.chip.setUpl n.val { s.chip.upl n.val with reasm := none }).bump
      UPLINK.RX_ASSY_ERR_COUNT n.val).raise EV.UPLINK_REASM_ERROR n.val).bump UPLINK.RX_FRAG_COUNT_ERR_COUNT n.val := by
    refine (if_neg (by rw [hen]; decide)).trans ?_
    dsimp only
    rw [hr]
    dsimp only
    rw [if_pos hc, Chip.reasmDrop, hr]
    rfl
  have hassy : (s.chip.setUpl n.val { s.chip.upl n.val with reasm := none }).fld UPLINK.RX_ASSY_ERR_COUNT n.val =
      s.chip.fld UPLINK.RX_ASSY_ERR_COUNT n.val := rfl
  have hfrag : (s.chip.setUpl n.val { s.chip.upl n.val with reasm := none }).fld UPLINK.RX_FRAG_COUNT_ERR_COUNT n.val =
      s.chip.fld UPLINK.RX_FRAG_COUNT_ERR_COUNT n.val := rfl
  refine packet_becomes h ?_ ?_ <;> rw [hd]
  · exact ((((Chip.Frame.refl _).bump _ _ _ (by simp)).raise _ _ (by simp)).bump _ _ _ (by simp))
  · generalize s.chip.setUpl n.val { s.chip.upl n.val with reasm := none } = e at hassy hfrag
    refine ⟨(Chip.ended_inst (by decide) hn (by decide)).trans ?_, (Chip.ended_inst (by decide) hn (by decide)).trans ?_⟩
    · refine (Chip.fld_bump_self _ _ _ _).trans ?_
      rw [Chip.fld_raise_apart (by decide) hn hn (by decide), Chip.bump, Chip.bumpBy,
        Chip.fld_setFld_apart (by decide) hn (by decide) hn (by decide), hfrag]
    · refine (Chip.fld_setFld_apart (by decide) hn (by decide) hn (by decide)).trans ?_
      rw [Chip.fld_raise_apart (by decide) hn hn (by decide), ← hassy]
      exact Chip.fld_bump_self _ _ _ _

/-- A MAC control frame that comes preemptable, whole in one mPacket, is not taken as a pause. -/
theorem controlPacket_becomes (hp : s.chip.Passes n.val f) (ht : beNat ((f.drop 12).take 2) = 0x8808) (hop : opOf f = 1)
    (hr : (s.chip.upl n.val).reasm = none) : Becomes (.mpacketRx n phi (.start stamp f .final) { pcsErr := false }) s
      (s.chip.setUpl n.val { s.chip.upl n.val with reasm := none })
      [UPLINK.RX_ASSY_OK_COUNT.key n.val 0, UPLINK.RX_MAC_CTRL_OTHER_COUNT.key n.val 0] fun d =>
        s.chip.Counts d UPLINK.RX_ASSY_OK_COUNT n.val ∧ s.chip.Counts d UPLINK.RX_MAC_CTRL_OTHER_COUNT n.val := by
  have hn := n.isLt
  have hassy : (s.chip.setUpl n.val { s.chip.upl n.val with reasm := none }).fld UPLINK.RX_ASSY_OK_COUNT n.val =
      s.chip.fld UPLINK.RX_ASSY_OK_COUNT n.val := rfl
  have hother : (s.chip.setUpl n.val { s.chip.upl n.val with reasm := none }).fld UPLINK.RX_MAC_CTRL_OTHER_COUNT n.val =
      s.chip.fld UPLINK.RX_MAC_CTRL_OTHER_COUNT n.val := rfl
  have hmax : (s.chip.setUpl n.val { s.chip.upl n.val with reasm := none }).fld UPLINK.CFG_MAX_FRAME n.val = s.chip.fld UPLINK.CFG_MAX_FRAME n.val := rfl
  have hd : s.chip.takesPacket n.val phi (.start stamp f .final) false = (if 4 ≤ f.length ∧ crc32 (f.take (f.length - 4)) = leNat (f.drop (f.length - 4))
      then (s.chip.setUpl n.val { s.chip.upl n.val with reasm := none }).bump UPLINK.RX_ASSY_OK_COUNT n.val
      else s.chip.setUpl n.val { s.chip.upl n.val with reasm := none }).uplChecks n.val f (s.chip.uplStamp n.val stamp) (s.chip.monoAt phi) false false := by
    refine (if_neg (by rw [hen]; decide)).trans ?_
    dsimp only
    rw [Chip.reasmDrop_none hr]
    rfl
  have hfcs : 4 ≤ f.length ∧ crc32 (f.take (f.length - 4)) = leNat (f.drop (f.length - 4)) := hp.fcs
  rw [if_pos hfcs] at hd
  generalize s.chip.setUpl n.val { s.chip.upl n.val with reasm := none } = e at hassy hother hmax hd
  have hpass : (e.bump UPLINK.RX_ASSY_OK_COUNT n.val).Passes n.val f := by
    refine ⟨hp.fcs, hp.long, ?_⟩
    rw [Chip.maxFrame, Chip.bump, Chip.bumpBy, Chip.fld_setFld_apart (by decide) hn (by decide) hn (by decide), hmax]
    exact hp.fits
  rw [hpass.control ht, Chip.macControl_other hop fun hx => absurd hx (by decide)] at hd
  refine packet_becomes h ?_ ?_ <;> rw [hd]
  · exact ((Chip.Frame.refl _).bump _ _ _ (by simp)).bump _ _ _ (by simp)
  · refine ⟨(Chip.ended_inst (by decide) hn (by decide)).trans ?_, (Chip.ended_inst (by decide) hn (by decide)).trans ?_⟩
    · refine (Chip.fld_setFld_apart (by decide) hn (by decide) hn (by decide)).trans ?_
      rw [← hassy]
      exact Chip.fld_bump_self _ _ _ _
    · refine (Chip.fld_bump_self _ _ _ _).trans ?_
      rw [Chip.bump, Chip.bumpBy, Chip.fld_setFld_apart (by decide) hn (by decide) hn (by decide), hother]
end

/-! ### Pauses in time (R212) -/

section
variable {s : State} {n : Fin 4}

theorem exec_pauseTakeEffect (n : Fin 4) (s : State) :
    exec (.pauseTakeEffect n) s = run (fun c => c.whenDue (c.pauseTakeDue n.val) fun d => d.pauseTake n.val) s := rfl

theorem exec_pauseExpiry (n : Fin 4) (s : State) :
    exec (.pauseExpiry n) s = run (fun c => c.whenDue (c.pauseOver n.val) fun d => d.pauseEnds n.val) s := rfl

theorem pauseTakes_becomes {a b : Nat} (hp : (s.chip.upl n.val).pausePend = some (a, b)) (ha : a ≤ s.chip.now) : Becomes (.pauseTakeEffect n) s
    (s.chip.setUpl n.val { s.chip.upl n.val with pausePend := none, pauseEnd := b, pausedAcc := 0 }) [UPLINK.PAUSE_STATUS_PAUSED.key n.val 0]
    fun d => d.on UPLINK.PAUSE_STATUS_PAUSED n.val = decide (a < b) := by
  have hdue : s.chip.pauseTakeDue n.val = true := by
    rw [Chip.pauseTakeDue, hp]
    exact decide_eq_true ha
  have hd : s.chip.pauseTake n.val = (s.chip.setUpl n.val { s.chip.upl n.val with pausePend := none, pauseEnd := b, pausedAcc := 0 }).setBit
      UPLINK.PAUSE_STATUS_PAUSED (decide (a < b)) n.val := by
    rw [Chip.pauseTake, hp]
    rfl
  refine becomes_of_due (exec_pauseTakeEffect n s) hdue ?_ ?_ <;> rw [hd]
  · exact (Chip.Frame.refl _).setBit _ _ _ _ (by simp)
  · exact (Chip.ended_inst_on (by decide) n.isLt (by decide)).trans (Chip.on_setBit_self _ rfl)

theorem pauseTakes_idles (hp : (s.chip.upl n.val).pausePend = none) : Idles (.pauseTakeEffect n) s := by
  refine idles_of_not_due (exec_pauseTakeEffect n s) ?_
  rw [Chip.pauseTakeDue, hp]

theorem pauseEnds_becomes (h : s.chip.pauseOver n.val = true) : Becomes (.pauseExpiry n) s
    (s.chip.setUpl n.val { s.chip.upl n.val with pausePend := none }) [UPLINK.PAUSE_STATUS_PAUSED.key n.val 0] fun d =>
      d.fld UPLINK.PAUSE_STATUS_PAUSED n.val = 0 := by
  have hd : s.chip.pauseEnds n.val = (s.chip.setUpl n.val { s.chip.upl n.val with pausePend := none }).setFld UPLINK.PAUSE_STATUS_PAUSED 0 n.val := rfl
  refine becomes_of_due (exec_pauseExpiry n s) h ?_ ?_ <;> rw [hd]
  · exact (Chip.Frame.refl _).setFld _ _ _ _ (by simp)
  · exact (Chip.ended_inst (by decide) n.isLt (by decide)).trans (Chip.fld_setFld_self _ _ _ _ _)
end

/-- Settles O35, check by check of Table 06.3: a frame's counter and events are stated for the check it fails, and what passes is followed
into MAC control, the servo's copy and the packet buffer. -/
theorem uplinkReceives : Obligations.UplinkReceives := by
  unfold Obligations.UplinkReceives
  intro s n stamp phi f pcs a b
  extract_lets c u k te rx mp da forUs noFec fec fcsOk bad op q
  have hpass (hf : fcsOk) (hk : 64 ≤ k) (hm : k ≤ c.maxFrame n.val) : c.Passes n.val f := ⟨hf, hk, hm⟩
  have hrx (hl : c.lineOpen n.val = true) (hno : noFec) (err : Bool) : c.takesFrame n.val stamp phi f err 0 0 =
      c.uplChecks n.val f (c.uplStamp n.val stamp) (c.monoAt phi) err true := Chip.takesFrame_checks hl hno stamp
  refine ⟨fun hl => ⟨fun hcut => ?_, fun m => ?_⟩, fun t0 hup hcut ht => cutFrame_ends n hup hcut ht, fun hl hno ha => ⟨fun m => ?_, ?_⟩,
    fun hl hno => ⟨?_, fun hf => ?_, fun hf hk => ?_, fun hf hk hm => ?_, fun hf hk hm ht => ?_, fun hf hk hm ht => ?_⟩, fun hl hno hen m => ?_,
    fun hl hno hen => ?_, fun a b hp ha => pauseTakes_becomes hp ha, fun hp => pauseTakes_idles hp, fun h => pauseEnds_becomes h,
    fun h => idles_of_not_due (exec_pauseExpiry n s) h⟩
  · exact idles_of (exec_uplinkFrameRx n stamp phi f pcs 0 0 s) (Chip.takesFrame_closed hl hcut)
  · exact idles_of_not_due (exec_mpacketRx n phi m _ s) hl
  · exact packet_counts n hl (Bool.eq_true_of_not_eq_false hno) m
  · exact frame_counts n hl (Bool.eq_true_of_not_eq_false hno)
  · exact frameBad_sets n (by decide) ((hrx hl hno true).trans Chip.uplChecks_code)
  · exact frameBad_sets n (by decide) ((hrx hl hno false).trans (Chip.uplChecks_fcs hf))
  · exact frameBad_sets n (by decide) ((hrx hl hno false).trans (Chip.uplChecks_runt hf hk))
  · exact frameBad_sets n (by decide) ((hrx hl hno false).trans (Chip.uplChecks_oversize hf hk hm))
  · have h : c.TakesControl n.val f := ⟨hl, hno, hpass hf hk hm, ht⟩
    refine ⟨fun hop => unsupported_sets h hop, fun hop hus hoff => pauseIgnored_sets h hop hus hoff,
      fun hop hus hon hp hq => pauseAgain_becomes h hop hus hon hp hq,
      fun hop hus hon hp => ⟨fun hq => pauseNothing_sets h hop hus hon hp hq, fun hq hnone => pauseNew_becomes h hop hus hon hp hq hnone,
        fun from_ to_ hq hsome => pauseMoved_becomes h hop hus hon hp hq hsome⟩,
      fun hop hus hon hp hq => pauseStops_becomes h hop hus hon hp hq,
      fun hop hno' => counts_sets (by decide) n.isLt ((h.takes stamp phi).trans (Chip.macControl_other hop fun _ => hno')),
      fun hop hen hr => controlPacket_becomes ⟨hl, hno⟩ hen h.passes ht hop hr⟩
  · have h : c.TakesData n.val f := ⟨hl, hno, hpass hf hk hm, ht⟩
    exact ⟨fun hcore => ⟨fun hp => noPtp_sets h hcore hp, coreClosed_ends h hcore⟩, fun hcore hk' => noCells_ends h hcore hk',
      fun m hp hs h2 => twoStep_ends h hp hs h2, fun cl hcore hk' => admitted_ends h hcore hk'⟩
  · exact packetCount_sets ⟨hl, hno⟩ (by decide) n.isLt (Chip.takesPacket_off hen)
  · have h : c.TakesPackets n.val := ⟨hl, hno⟩
    exact ⟨undefined_sets h hen, verify_becomes h hen, fun hst hat => respond_ends h hen hst hat, fun hr => start_becomes h hen hr,
      fun count tail hr => orphan_sets h hen hr, fun count tail r hr hc => outOfOrder_becomes h hen hr hc⟩

end Sys2Proof.Machine
end

section
/-!
PROOF. What an uplink sends: the MAC's own frames, the queues as their heads expire, and the start of a frame.
-/
namespace Sys2Proof.Machine

/-- The later of two entries at a key stands. -/
theorem Tab.ins_ins {V : Type} (t : Tab V) (k : Nat) (v w : V) : Tab.ins (Tab.ins t k v) k w = Tab.ins t k w := by
  induction t with
  | nil => simp [Tab.ins]
  | cons e r ih =>
    obtain ⟨j, x⟩ := e
    rcases Nat.lt_trichotomy j k with h | rfl | h
    · simp [Tab.ins, h, ih]
    · simp [Tab.ins]
    · simp [Tab.ins, Nat.lt_asymm h, Nat.ne_of_gt h]

theorem Tab.put_put {V : Type} [DecidableEq V] {d v w : V} (hv : v ≠ d) (hw : w ≠ d) (t : Tab V) (k : Nat) :
    Tab.put d (Tab.put d t k v) k w = Tab.put d t k w := by
  rw [Tab.put, if_neg hw, Tab.put, if_neg hv, Tab.put, if_neg hw, Tab.ins_ins]

section
variable {a b c d e : Chip} {n m : Nat} {q r : FieldRow} {inst : Int} {arrived : List Nat}

theorem Chip.setUpl_setUpl {u w : Uplink} (hu : u ≠ {}) (hw : w ≠ {}) : (c.setUpl n u).setUpl n w = c.setUpl n w := by
  have h : Tab.put {} (Tab.put {} c.uplinks n u) n w = Tab.put {} c.uplinks n w := Tab.put_put hu hw _ _
  rw [Chip.setUpl, Chip.setUpl, Chip.setUpl]
  exact congrArg (fun t => { c with uplinks := t }) h

/-! ### Pause frames (R214) -/

/-- The quanta of the pause frame that is due. -/
def Chip.pauseQuanta (c : Chip) (n : Nat) : Nat := if Tab.get false c.buffer.xoff n then c.fld UPLINK.PAUSE_CFG_TX_QUANTA n else 0

/-- The uplink's record as a pause frame starts. -/
def Chip.pauseRec (c : Chip) (n : Nat) (inst : Int) : Uplink :=
  { c.upl n with lastPauseTx := c.now, freeAt := inst + (c.octs n 84 : Nat), ctrl := some (inst, c.pauseQuanta n) }

theorem Chip.sendPause_eq : c.sendPause n inst =
    (c.setUpl n (c.pauseRec n inst)).setBit UPLINK.PAUSE_STATUS_XOFF_SENT (Tab.get false c.buffer.xoff n) n := by
  have hfirst : { c.upl n with lastPauseTx := c.now, ctrl := some (inst, c.pauseQuanta n) } ≠ ({} : Uplink) :=
    fun h => Option.some_ne_none _ (congrArg Uplink.ctrl h)
  have hlast : c.pauseRec n inst ≠ {} := fun h => Option.some_ne_none _ (congrArg Uplink.ctrl h)
  rw [← Chip.setUpl_setUpl hfirst hlast]
  have hupl : (c.setUpl n { c.upl n with lastPauseTx := c.now, ctrl := some (inst, c.pauseQuanta n) }).upl n =
      { c.upl n with lastPauseTx := c.now, ctrl := some (inst, c.pauseQuanta n) } := Chip.upl_setUpl_self
  have hrec : c.pauseRec n inst = { (c.setUpl n { c.upl n with lastPauseTx := c.now, ctrl := some (inst, c.pauseQuanta n) }).upl n with
      freeAt := inst + (c.octs n 84 : Nat) } := by
    rw [hupl]
    rfl
  rw [hrec]
  rfl

theorem pause_sends {i : Instr} {s : State} {n : Fin 4} {f : Chip → Chip} (hi : exec i s = run f s) (inst : Int)
    (hf : f s.chip = s.chip.sendPause n.val inst) :
    Becomes i s (s.chip.setUpl n.val (s.chip.pauseRec n.val inst)) [UPLINK.PAUSE_STATUS_XOFF_SENT.key n.val 0] fun d =>
      d.on UPLINK.PAUSE_STATUS_XOFF_SENT n.val = Tab.get false s.chip.buffer.xoff n.val := by
  refine becomes_of hi ?_ ?_ <;> rw [hf, Chip.sendPause_eq]
  · exact (Chip.Frame.refl _).setBit _ _ _ _ (by simp)
  · exact (Chip.ended_inst_on (by decide) n.isLt (by decide)).trans (Chip.on_setBit_self _ rfl)

/-! ### Heads that expire (R291) -/

/-- A change that leaves every part but those of `S` alone, whatever it does to registers. -/
abbrev Chip.PartsOnly (c : Chip) (S : List Part) (d : Chip) : Prop := c.Frame S (fun _ => True) d

def expireParts : List Part := .reel :: copyParts

theorem Chip.ltDrop_partsOnly (p : Packet) : c.PartsOnly copyParts (c.ltDrop n p) :=
  (((Chip.Frame.refl c).bump _ _ _ trivial).raise _ _ trivial).trans ((Chip.copyFate_frame _ _ _ _ _).mono (List.Subset.refl _) fun _ _ => trivial)

theorem Chip.setQueue_partsOnly (k : Nat) (l : List Packet) : c.PartsOnly [.reel] (c.setQueue n k l) := (Chip.Frame.refl c).withReel _ (by simp)

theorem Chip.ltExpire_partsOnly (k : Nat) (late : Int → Bool) : c.PartsOnly expireParts (c.ltExpire n k late) := by
  unfold Chip.ltExpire
  split
  · exact ((Chip.setQueue_partsOnly _ _).mono (by decide) fun _ h => h).foldl _ fun d p _ =>
      (Chip.ltDrop_partsOnly p).mono (List.subset_cons_self _ _) fun _ h => h
  · exact .refl c

theorem Chip.countNofit_partsOnly : c.PartsOnly [.reel] (c.countNofit n inst arrived) := by
  unfold Chip.countNofit
  refine (Chip.Frame.refl c).foldl _ fun d k _ => ?_
  split
  · exact Chip.Frame.ite (fun _ => .refl d) fun _ => (Chip.setQueue_partsOnly _ _).bump _ _ _ trivial
  · exact .refl d

/-- The queues as a boundary finds them: expired heads are gone, and those that do not fit are counted. -/
def Chip.headsSwept (c : Chip) (n : Nat) (inst : Int) (arrived : List Nat) : Chip :=
  ((List.range 8).foldl (fun d j => d.ltExpire n j (d.tooLate n inst)) c).countNofit n inst arrived

theorem Chip.headsSwept_partsOnly : c.PartsOnly expireParts (c.headsSwept n inst arrived) :=
  ((Chip.Frame.refl c).foldl _ fun _ _ _ => Chip.ltExpire_partsOnly _ _).trans (Chip.countNofit_partsOnly.mono (by decide) fun _ h => h)

/-! ### The start of a frame -/

theorem Chip.hankBegins_partsOnly (id : Nat) : c.PartsOnly [.txOps] (c.hankBegins id) := by
  have hstart (t : Nat) : c.PartsOnly [.txOps] (c.opStarted t) :=
    (Chip.away_eq_iff.mp (Chip.away_opStarted (S := [.txOps]) (List.Subset.refl _))).mono (List.Subset.refl _) fun _ _ => trivial
  unfold Chip.hankBegins
  split
  · next m _ =>
    refine Chip.Frame.ite (fun _ => ?_) fun _ => .refl c
    cases m.tag with
    | none => exact .refl c
    | some t => exact hstart t
  · exact .refl c

theorem Chip.copyStarts_partsOnly (p : Packet) (stamp : Int) : c.PartsOnly [.txOps] (c.copyStarts p stamp) := by
  unfold Chip.copyStarts
  cases p.tag with
  | some t =>
    have hstart : c.PartsOnly [.txOps] (c.opStarted t) :=
      (Chip.away_eq_iff.mp (Chip.away_opStarted (S := [.txOps]) (List.Subset.refl _))).mono (List.Subset.refl _) fun _ _ => trivial
    exact Chip.Frame.ite (fun _ => hstart.withTxOps _ (by simp)) fun _ => hstart
  | none =>
    cases p.hank with
    | some id => exact Chip.hankBegins_partsOnly _
    | none => exact .refl c

/-- The head's shaper pays for it. -/
def Chip.startPaid (c : Chip) (n k total : Nat) : Chip :=
  if c.shaperMode n k = 0 then c else c.setCredit n k (c.creditOf n k - ((total + 24) * 8000 : Nat))

/-- A launch-time head is on time or late. -/
def Chip.startTimed (c : Chip) (n : Nat) (p : Packet) (inst : Int) : Chip × Nat :=
  match p.launch with
  | some l => if c.launchLag n inst l ≤ 0 then (c.bump REELGATE.LT_ONTIME_COUNT n, csONTIME) else (c.bump REELGATE.LT_LATE_COUNT n, csLATE)
  | none => (c, csOK)

/-- The transmission as it starts. -/
def Chip.startTx (c : Chip) (n k : Nat) (p : Packet) (inst : Int) (arrived : List Nat) (status : Nat) : UplTx :=
  { pkt := if p.oneStep then { p with bytes := oneStepFrame p.bytes (round64 (inst + (c.octs n 8 : Nat)) + c.txDelay n) } else p, cls := k,
    start := inst, total := max p.bytes.length 60, preempt := c.preemptable n k p,
    early := decide (arrivedOf arrived k p < p.bytes.length), stamp := round64 (inst + (c.octs n 8 : Nat)) + c.txDelay n, status := status }

/-- The queue and the counters as a frame starts. -/
def Chip.startTaken (c : Chip) (n k : Nat) (p : Packet) (inst : Int) : Chip × Nat :=
  ((c.setQueue n k (c.queue n k).tail).startPaid n k (max p.bytes.length 60)).startTimed n p inst

theorem Chip.startFrame_eq (k : Nat) (p : Packet) : c.startFrame n k p inst arrived =
    ((c.startTaken n k p inst).1.updUpl n fun u => { u with cur := some (c.startTx n k p inst arrived (c.startTaken n k p inst).2) }).copyStarts p
      (round64 (inst + (c.octs n 8 : Nat)) + c.txDelay n) := rfl

theorem Chip.startPaid_says (k total j : Nat) : c.PartsOnly [.reel] (c.startPaid n k total) ∧ (c.startPaid n k total).queue m j = c.queue m j := by
  unfold Chip.startPaid
  split
  · exact ⟨.refl c, rfl⟩
  · exact ⟨(Chip.Frame.refl c).withReel _ (by simp), rfl⟩

theorem Chip.startTimed_partsOnly (p : Packet) : c.PartsOnly [] (c.startTimed n p inst).1 := by
  unfold Chip.startTimed
  split
  · split
    · exact (Chip.Frame.refl c).bump _ _ _ trivial
    · exact (Chip.Frame.refl c).bump _ _ _ trivial
  · exact .refl c

theorem Chip.queue_congr {k : Nat} (h : d.reel = c.reel) : d.queue n k = c.queue n k := by rw [Chip.queue, h, Chip.queue]

/-- The head leaves its queue as it starts, and is on the wire. -/
theorem Chip.startFrame_says (k : Nat) (p : Packet) : (c.startFrame n k p inst arrived).queue n k = (c.queue n k).tail ∧
    ∃ st, ((c.startFrame n k p inst arrived).upl n).cur = some (c.startTx n k p inst arrived st) := by
  have hset : (c.setQueue n k (c.queue n k).tail).queue n k = (c.queue n k).tail := Tab.get_put_self _ _ _ _
  obtain ⟨-, hpaid⟩ := (c.setQueue n k (c.queue n k).tail).startPaid_says (n := n) (m := n) k (max p.bytes.length 60) k
  have htimed := ((c.setQueue n k (c.queue n k).tail).startPaid n k (max p.bytes.length 60)).startTimed_partsOnly (n := n) (inst := inst) p
  have htaken : (c.startTaken n k p inst).1.queue n k = (c.queue n k).tail := (Chip.queue_congr (htimed.reel (by decide))).trans (hpaid.trans hset)
  rw [Chip.startFrame_eq]
  generalize c.startTaken n k p inst = x at htaken
  have hstarts := (x.1.updUpl n fun u => { u with cur := some (c.startTx n k p inst arrived x.2) }).copyStarts_partsOnly p
    (round64 (inst + (c.octs n 8 : Nat)) + c.txDelay n)
  refine ⟨?_, x.2, ?_⟩
  · rw [Chip.queue_congr (hstarts.reel (by decide))]
    exact htaken
  · rw [Chip.upl_congr (hstarts.uplinks (by decide)), Chip.upl_updUpl_self]

theorem Chip.startTx_id (k : Nat) (p : Packet) (st : Nat) : (c.startTx n k p inst arrived st).pkt.id = p.id := by
  unfold Chip.startTx
  dsimp only
  split <;> rfl

/-! ### Selection (R294) -/

/-- An uplink that has nothing of its own to send before the queues. -/
structure Chip.SendsNothing (c : Chip) (n : Nat) : Prop where
  pause : c.pauseDue n = false
  refresh : c.refreshDue n = false
  responds : (c.upl n).responds = 0
  cont : (c.upl n).cont = none

theorem Chip.freshHead_head {x : Bool} {fuel k : Nat} {p : Packet} (h : c.selectHead n inst arrived x = some (p, k)) (hs : c.hankStale p = false) :
    c.freshHead n inst arrived x (fuel + 1) = (c, some (p, k)) := by
  rw [Chip.freshHead, h]
  dsimp only
  rw [hs]
  rfl

/-- What a boundary does for the queues, once they are swept. -/
def Chip.queuesServed (c : Chip) (n : Nat) (inst : Int) (arrived : List Nat) : Chip :=
  match (c.upl n).cont with
  | some t =>
    match c.freshHead n inst arrived true (c.queuedFrames n + 1) with
    | (c, some (p, k)) => c.startFrame n k p inst arrived
    | (c, none) =>
      if c.contReady n t inst then c.updUpl n fun u => { u with cur := some { t with start := inst }, cont := none }
      else c
  | none =>
    match c.freshHead n inst arrived false (c.queuedFrames n + 1) with
    | (c, some (p, k)) => c.startFrame n k p inst arrived
    | (c, none) => c

/-- A respond mPacket goes out. -/
def Chip.respondOut (c : Chip) (n : Nat) (inst : Int) : Chip :=
  (c.updUpl n fun u => { u with responds := u.responds - 1 }).wireBusy n inst

theorem Chip.selectAt_eq : c.selectAt n inst arrived = if !c.boundary n inst then c.safeCont n inst
    else if c.pauseDue n || c.refreshDue n then c.sendPause n inst
    else if (c.upl n).responds ≠ 0 then
      (if (c.respondOut n inst).on UPLINK.CFG_LOOPBACK n then (c.respondOut n inst).mpacketRx n 0 .respond {} else c.respondOut n inst)
    else (c.headsSwept n inst arrived).queuesServed n inst arrived := by
  unfold Chip.selectAt
  refine ite_congr rfl (fun _ => rfl) fun _ => ite_congr rfl (fun _ => rfl) fun _ => ite_congr rfl (fun _ => ?_) fun _ => ?_
  · rfl
  · unfold Chip.queuesServed
    extract_lets e f fuel
    have he : c.headsSwept n inst arrived = f := rfl
    rewrite [he]
    clear_value f
    cases (f.upl n).cont with
    | none => rfl
    | some t => rfl

theorem Chip.queuesServed_head {k : Nat} {p : Packet} (hcont : (c.upl n).cont = none) (hsel : c.selectHead n inst arrived false = some (p, k))
    (hs : c.hankStale p = false) : c.queuesServed n inst arrived = c.startFrame n k p inst arrived := by
  rw [Chip.queuesServed, hcont]
  dsimp only
  rw [Chip.freshHead_head hsel hs]

/-- The head that is selected starts. -/
theorem Chip.selectAt_starts {k : Nat} {p : Packet} (hb : c.boundary n inst = true) (hidle : c.SendsNothing n)
    (hsel : (c.headsSwept n inst arrived).selectHead n inst arrived false = some (p, k)) (hs : (c.headsSwept n inst arrived).hankStale p = false) :
    c.selectAt n inst arrived = (c.headsSwept n inst arrived).startFrame n k p inst arrived := by
  have hcont : ((c.headsSwept n inst arrived).upl n).cont = none := by
    rw [Chip.upl_congr (Chip.headsSwept_partsOnly.uplinks (by decide)), hidle.cont]
  have h0 : ¬ (!c.boundary n inst) = true := by
    rw [hb]
    decide
  have h1 : ¬ (c.pauseDue n || c.refreshDue n) = true := by
    rw [hidle.pause, hidle.refresh]
    decide
  have h2 : ¬ (c.upl n).responds ≠ 0 := not_not.mpr hidle.responds
  rw [Chip.selectAt_eq, if_neg h0, if_neg h1, if_neg h2, Chip.queuesServed_head hcont hsel hs]
end

end Sys2Proof.Machine
end

section
/-!
PROOF. How the transmissions of an uplink end, and its own frames as they go out.
-/
namespace Sys2Proof.Machine

section
variable {a b c d e : Chip} {n m : Nat} {q r : FieldRow} {inst : Int} {arrived : List Nat}

/-! ### The near-end loopback -/

/-- Two records differ in the pauses received only. -/
def Uplink.SameTx (u w : Uplink) : Prop := ∃ x y, w = { u with pausePend := x, pauseEnd := y }

theorem Chip.pauseRx_upl (k te : Nat) : (c.upl n).SameTx ((c.pauseRx n k te).upl n) := by
  have hbump : (c.bump UPLINK.RX_PAUSE_COUNT n).upl n = c.upl n := rfl
  unfold Chip.pauseRx
  split
  · exact ⟨_, _, rfl⟩
  extract_lets e stop u paused old x start
  have hu : u = c.upl n := hbump
  split
  · split
    · refine ⟨none, stop, ?_⟩
      rw [Chip.upl_setUpl_self, hu]
    · refine ⟨some (start, stop), (c.upl n).pauseEnd, ?_⟩
      rw [Chip.upl_setUpl_self, hu]
  · split
    · refine ⟨some (te + 64 * nsQ, te + 64 * nsQ), (c.upl n).pauseEnd, ?_⟩
      rw [Chip.upl_setUpl_self, hu]
    · exact ⟨_, _, rfl⟩

theorem Uplink.SameTx.of_eq {u w : Uplink} (h : w = u) : u.SameTx w := ⟨u.pausePend, u.pauseEnd, h⟩

theorem Chip.macControl_upl (f : List Byte) (te : Nat) (x : Bool) : (c.upl n).SameTx ((c.macControl n f te x).upl n) := by
  unfold Chip.macControl
  extract_lets op dst mac
  split
  · refine .of_eq ?_
    rw [Chip.upl_congr (Chip.raise_uplinks _ _ _)]
    rfl
  · split
    · exact Chip.pauseRx_upl _ _
    · exact .of_eq rfl

theorem Chip.uplChecks_upl (hn : n < 4) (f : List Byte) (stamp : Int) (te : Nat) (err x : Bool) :
    (c.upl n).SameTx ((c.uplChecks n f stamp te err x).upl n) := by
  have hbad (r : FieldRow) : (c.upl n).SameTx ((c.rxBad n r).upl n) := by
    refine .of_eq ?_
    rw [Chip.rxBad, Chip.upl_congr (Chip.raise_uplinks _ _ _)]
    rfl
  rw [Chip.uplChecks_eq]
  split
  · exact hbad _
  split
  · exact hbad _
  split
  · exact hbad _
  split
  · exact hbad _
  split
  · exact Chip.macControl_upl _ _ _
  · refine .of_eq ?_
    rw [Chip.upl_congr ((Chip.uplAdmit_frame hn _ _).uplinks (by decide)), Chip.upl_congr ((c.ptpCopy_frame _ _ _).uplinks (by decide))]

/-- A frame that comes back changes nothing of what the uplink sends. -/
theorem Chip.loopback_says (hn : n < 4) (f : List Byte) (stamp : Int) (x : Bool) :
    c.Frame rxParts (Touched rxSpots) (c.loopback n f stamp x) ∧ (c.upl n).SameTx ((c.loopback n f stamp x).upl n) := by
  unfold Chip.loopback
  split
  · exact ⟨(Chip.uplChecks_says hn _ _ _ _ _).1, Chip.uplChecks_upl hn _ _ _ _ _⟩
  · exact ⟨.refl c, .of_eq rfl⟩

/-! ### Frames that are sent whole (R222) -/

def sentSpots : List Spot := [.one UPLINK.TX_FRAMES_COUNT, .one UPLINK.TX_OCTETS_LO_COUNT, .one UPLINK.TX_OCTETS_HI_COUNT]

theorem Chip.countSent_says
    (hn : n < 4) (k : Nat) : c.Frame [] (Touched sentSpots) (c.countSent n k) ∧ c.Counts (c.countSent n k) UPLINK.TX_FRAMES_COUNT n ∧
    (c.countSent n k).upl n = c.upl n := by
  refine ⟨?_, ?_, rfl⟩
  · exact ((Chip.Frame.refl c).bump UPLINK.TX_FRAMES_COUNT n 0 (cells_one (by decide) hn)).setFld64 UPLINK.TX_OCTETS_LO_COUNT
        UPLINK.TX_OCTETS_HI_COUNT _ n 0
      (cells_one (by decide) hn) (cells_one (by decide) hn)
  · rw [Chip.Counts, Chip.countSent, Chip.bumpOctets, Chip.setFld64, Chip.fld_setFld_apart (by decide) hn (by decide) hn (by decide),
      Chip.fld_setFld_apart (by decide) hn (by decide) hn (by decide)]
    exact Chip.fld_bump_self _ _ _ _

/-- What the end of a frame on the wire leaves of the uplink. -/
theorem Chip.frameDone_says (hn : n < 4) (t : UplTx) (k : Nat) (whole : Bool) (status : Nat) (f : List Byte) (stamp : Int) (x : Bool) :
    (c.upl n).SameTx (((((c.countSent n k).copyFate t.pkt whole status 0).loopback n f stamp x)).upl n) ∧
      c.Counts (((c.countSent n k).copyFate t.pkt whole status 0).loopback n f stamp x) UPLINK.TX_FRAMES_COUNT n := by
  obtain ⟨-, hcount, hupl⟩ := c.countSent_says hn k
  have hfate := (c.countSent n k).copyFate_frame t.pkt whole status 0
  generalize (c.countSent n k) = e at hcount hupl hfate
  have hfate' : (e.copyFate t.pkt whole status 0).upl n = e.upl n := Chip.upl_congr (hfate.uplinks (by decide))
  generalize e.copyFate t.pkt whole status 0 = g at hfate hfate'
  obtain ⟨hloop, hloopu⟩ := g.loopback_says hn f stamp x
  refine ⟨?_, ?_⟩
  · rw [← hupl, ← hfate']
    exact hloopu
  · rw [Chip.Counts, hloop.fld_apart UPLINK.TX_FRAMES_COUNT n 0 (by decide) hn (by decide),
      hfate.fld_apart UPLINK.TX_FRAMES_COUNT n 0 (by decide) hn (by decide), hcount]

end

end Sys2Proof.Machine
end

section
/-!
PROOF. What an uplink sends: the end, the cut and the start of its transmissions as commands, and the obligation.
-/
namespace Sys2Proof.Machine

section
variable {c d e : Chip} {r : FieldRow} {s : State} {n : Fin 4} {phi : Fin 2560} {arrived : List Nat} {t : UplTx}

theorem exec_uplinkFrameTxEnd (n : Fin 4) (s : State) : exec (.uplinkFrameTxEnd n) s = run (fun c => c.frameSent n.val) s := rfl

theorem exec_txSelect (n : Fin 4) (phi : Fin 2560) (arrived : List Nat) (s : State) :
    exec (.txSelect n phi arrived) s = run (fun c => c.selectAt n.val (c.instAt phi) arrived) s := rfl

theorem exec_launchTimeReached (n : Fin 4) (k : Fin 8) (arrived : List Nat) (s : State) :
    exec (.launchTimeReached n k arrived) s = run (fun c => c.launchReached n.val k.val arrived) s := rfl

theorem exec_preemption (n : Fin 4) (phi : Fin 2560) (arrived : List Nat) (s : State) :
    exec (.preemption n phi arrived) s = run (fun c => c.preemptAt n.val (c.instAt phi) arrived) s := rfl

theorem exec_txUnderrun (n : Fin 4) (phi : Fin 2560) (s : State) :
    exec (.txUnderrun n phi) s = run (fun c => c.underrun n.val (c.instAt phi)) s := rfl

theorem exec_launchExpire (n : Fin 4) (k : Fin 8) (s : State) : exec (.launchExpire n k) s = run (fun c => c.launchExpire n.val k.val) s := rfl

theorem exec_pauseFrameTx (n : Fin 4) (phi : Fin 2560) (s : State) : exec (.pauseFrameTx n phi) s =
    run (fun c => c.whenDue (c.boundary n.val (c.instAt phi) && c.pauseDue n.val) fun d => d.sendPause n.val (d.instAt phi)) s := rfl

theorem exec_pauseRefresh (n : Fin 4) (phi : Fin 2560) (s : State) : exec (.pauseRefresh n phi) s =
    run (fun c => c.whenDue (c.boundary n.val (c.instAt phi) && c.refreshDue n.val) fun d => d.sendPause n.val (d.instAt phi)) s := rfl

/-! ### The end of a transmission -/

/-- The frame on the wire is done with, and the wire is busy until `t`. -/
def Chip.wireUntil (c : Chip) (n : Nat) (t : Int) : Chip := c.updUpl n fun u => { u with cur := none, freeAt := t }

theorem Chip.frameSent_cur (h : (c.upl n.val).cur = some t) : c.frameSent n.val = if c.txEndAt n.val t < c.tickEnd then
    (((c.wireUntil n.val (c.txEndAt n.val t + (c.octs n.val 12 : Nat))).countSent n.val (t.total + 4)).copyFate t.pkt true t.status 0).loopback n.val
      (t.pkt.bytes ++ List.replicate (60 - t.pkt.bytes.length) 0) t.stamp (!t.preempt) else c := by
  rw [Chip.frameSent, h]
  rfl

theorem Chip.frameSent_none (h : (c.upl n.val).cur = none) (h' : (c.upl n.val).ctrl = none) : c.frameSent n.val = c := by
  rw [Chip.frameSent, h, h']

theorem frameEnd_ends (h : (s.chip.upl n.val).cur = some t) (hend : s.chip.txEndAt n.val t < s.chip.tickEnd) : Ends (.uplinkFrameTxEnd n) s fun d =>
    (d.upl n.val).cur = none ∧ (d.upl n.val).freeAt = s.chip.txEndAt n.val t + (s.chip.octs n.val 12 : Nat) ∧
      s.chip.Counts d UPLINK.TX_FRAMES_COUNT n.val := by
  have hn := n.isLt
  have hu : (s.chip.wireUntil n.val (s.chip.txEndAt n.val t + (s.chip.octs n.val 12 : Nat))).upl n.val =
      { s.chip.upl n.val with cur := none, freeAt := s.chip.txEndAt n.val t + (s.chip.octs n.val 12 : Nat) } := Chip.upl_updUpl_self _
  have hf : (s.chip.wireUntil n.val (s.chip.txEndAt n.val t + (s.chip.octs n.val 12 : Nat))).fld UPLINK.TX_FRAMES_COUNT n.val =
      s.chip.fld UPLINK.TX_FRAMES_COUNT n.val := rfl
  refine ends_of (exec_uplinkFrameTxEnd n s) ?_
  rw [Chip.frameSent_cur h, if_pos hend]
  generalize s.chip.wireUntil n.val (s.chip.txEndAt n.val t + (s.chip.octs n.val 12 : Nat)) = e at hu hf
  obtain ⟨⟨x, y, hdone⟩, hcount⟩ := e.frameDone_says hn t (t.total + 4) true t.status (t.pkt.bytes ++ List.replicate (60 - t.pkt.bytes.length) 0)
    t.stamp (!t.preempt)
  rw [Chip.upl_congr (Chip.ended_uplinks _ _), hdone, hu]
  exact ⟨rfl, rfl, (Chip.ended_inst (by decide) hn (by decide)).trans (hcount.trans (by rw [hf]))⟩

/-- The pause frame on the wire is done with, and counts. -/
def Chip.ctrlDone (c : Chip) (n : Nat) : Chip := (c.updUpl n fun u => { u with ctrl := none }).bump UPLINK.TX_PAUSE_COUNT n

/-- A pause frame ends. -/
theorem pauseEnd_ends {st : Int} {q : Nat} (hcur : (s.chip.upl n.val).cur = none) (h : (s.chip.upl n.val).ctrl = some (st, q))
    (hend : st + (s.chip.octs n.val 72 : Nat) < s.chip.tickEnd) : Ends (.uplinkFrameTxEnd n) s fun d => (d.upl n.val).ctrl = none ∧
      s.chip.Counts d UPLINK.TX_PAUSE_COUNT n.val ∧ s.chip.Counts d UPLINK.TX_FRAMES_COUNT n.val := by
  have hn := n.isLt
  have hd : s.chip.frameSent n.val = ((s.chip.ctrlDone n.val).countSent n.val 64).loopback n.val
      (((s.chip.ctrlDone n.val).countSent n.val 64).pauseBytes n.val q)
      (round64 (st + (((s.chip.ctrlDone n.val).countSent n.val 64).octs n.val 8 : Nat)) + ((s.chip.ctrlDone n.val).countSent n.val 64).txDelay n.val)
      true := by
    rw [Chip.frameSent, hcur, h]
    dsimp only
    rw [if_pos hend, Chip.ctrlSent, h]
    rfl
  have hu : (s.chip.ctrlDone n.val).upl n.val = { s.chip.upl n.val with ctrl := none } :=
    Chip.upl_updUpl_self (c := s.chip) (n := n.val) fun u => { u with ctrl := none }
  have hpause : (s.chip.ctrlDone n.val).fld UPLINK.TX_PAUSE_COUNT n.val =
      min (s.chip.fld UPLINK.TX_PAUSE_COUNT n.val + 1) (2 ^ 32 - 1) := Chip.fld_bump_self _ _ _ _
  have hframes : (s.chip.ctrlDone n.val).fld UPLINK.TX_FRAMES_COUNT n.val =
      s.chip.fld UPLINK.TX_FRAMES_COUNT n.val := Chip.fld_setFld_apart (by decide) hn (by decide) hn (by decide)
  refine ends_of (exec_uplinkFrameTxEnd n s) ?_
  rw [hd]
  generalize s.chip.ctrlDone n.val = e at hu hpause hframes
  obtain ⟨hsent, hcount, hsentu⟩ := e.countSent_says hn 64
  generalize e.countSent n.val 64 = g at hsent hcount hsentu
  obtain ⟨hloop, x, y, hloopu⟩ := g.loopback_says hn (g.pauseBytes n.val q) (round64 (st + (g.octs n.val 8 : Nat)) + g.txDelay n.val) true
  refine ⟨?_, ?_, ?_⟩
  · rw [Chip.upl_congr (Chip.ended_uplinks _ _), hloopu, hsentu, hu]
  · refine (Chip.ended_inst (by decide) hn (by decide)).trans ?_
    rw [hloop.fld_apart UPLINK.TX_PAUSE_COUNT n.val 0 (by decide) hn (by decide),
        hsent.fld_apart UPLINK.TX_PAUSE_COUNT n.val 0 (by decide) hn (by decide),
      hpause]
    rfl
  · refine (Chip.ended_inst (by decide) hn (by decide)).trans ?_
    rw [hloop.fld_apart UPLINK.TX_FRAMES_COUNT n.val 0 (by decide) hn (by decide), hcount, hframes]

/-! ### Transmissions cut short -/

/-- The frame on the wire is given up at `inst`. -/
def Chip.runDry (c : Chip) (n : Nat) (inst : Int) : Chip := c.updUpl n fun u => { u with cur := none, freeAt := inst + (c.octs n 16 : Nat) }

/-- The threshold of class `k` is raised, if it can be. -/
def Chip.threshUp (c : Chip) (n k : Nat) : Chip :=
  if c.fld UPLINK.TX_START_THRESH_BLOCKS n k < 38 then
    c.setFld UPLINK.TX_START_THRESH_BLOCKS (c.fld UPLINK.TX_START_THRESH_BLOCKS n k + 1) n k else c

theorem Chip.threshUp_says {m k : Nat} (hm : m < 4) (hk : k < 8) : c.Frame [] (Touched [.upto UPLINK.TX_START_THRESH_BLOCKS]) (c.threshUp m k) ∧
    (c.fld UPLINK.TX_START_THRESH_BLOCKS m k < 38 →
      (c.threshUp m k).fld UPLINK.TX_START_THRESH_BLOCKS m k = c.fld UPLINK.TX_START_THRESH_BLOCKS m k + 1) := by
  refine ⟨Chip.Frame.ite (fun _ => (Chip.Frame.refl c).setFld UPLINK.TX_START_THRESH_BLOCKS _ m k (cells_upto (by decide) hm (by omega)))
    fun _ => .refl c, fun h => ?_⟩
  rw [Chip.threshUp, if_pos h, Chip.fld_setFld_self, show UPLINK.TX_START_THRESH_BLOCKS.width = 6 from rfl]
  exact Nat.mod_eq_of_lt (by omega)

/-- The frame on the wire runs out of data. -/
theorem underrun_ends (h : (s.chip.upl n.val).cur = some t) (he : t.early = true) (hst : t.start ≤ s.chip.instAt phi)
    (hend : s.chip.instAt phi < s.chip.txEndAt n.val t) (hk : t.cls < 8) : Ends (.txUnderrun n phi) s fun d => (d.upl n.val).cur = none ∧
      s.chip.Counts d UPLINK.TX_UNDERRUN_COUNT n.val ∧ s.chip.Tells d EV.UPLINK_TX_UNDERRUN n.val ∧
      (s.chip.fld UPLINK.TX_START_THRESH_BLOCKS n.val t.cls < 38 →
        d.fld UPLINK.TX_START_THRESH_BLOCKS n.val t.cls = s.chip.fld UPLINK.TX_START_THRESH_BLOCKS n.val t.cls + 1) := by
  have hn := n.isLt
  have hk' : t.cls < 65536 := by omega
  have hcond : (t.early && decide (t.start ≤ s.chip.instAt phi) && decide (s.chip.instAt phi < s.chip.txEndAt n.val t)) = true := by
    rw [he, decide_eq_true hst, decide_eq_true hend]
    rfl
  have hd : s.chip.underrun n.val (s.chip.instAt phi) = (((s.chip.runDry n.val (s.chip.instAt phi)).threshUp n.val t.cls).bump
      UPLINK.TX_UNDERRUN_COUNT
      n.val |>.raise EV.UPLINK_TX_UNDERRUN n.val).copyFate t.pkt false csUNDERRUN 0 := by
    rw [Chip.underrun, h]
    dsimp only
    rw [if_pos hcond]
    rfl
  refine ends_of (exec_txUnderrun n phi s) ?_
  rw [hd]
  have hcur : ((s.chip.runDry n.val (s.chip.instAt phi)).upl n.val).cur = none := congrArg Uplink.cur (Chip.upl_updUpl_self (c := s.chip) (n := n.val)
    fun u => { u with cur := none, freeAt := s.chip.instAt phi + (s.chip.octs n.val 16 : Nat) })
  have hdry : s.chip.Frame [.uplinks] (Touched []) (s.chip.runDry n.val (s.chip.instAt phi)) := (Chip.Frame.refl _).withUplinks _ List.mem_cons_self
  generalize s.chip.runDry n.val (s.chip.instAt phi) = e at hcur hdry
  obtain ⟨hup, hthresh⟩ := e.threshUp_says hn hk
  have hbumpu : ((e.threshUp n.val t.cls).bump UPLINK.TX_UNDERRUN_COUNT n.val).upl n.val = (e.threshUp n.val t.cls).upl n.val := rfl
  have hupl : (e.threshUp n.val t.cls).upl n.val = e.upl n.val := Chip.upl_congr (hup.uplinks (by decide))
  have hbump : (e.threshUp n.val t.cls).Frame [] (Touched [.one UPLINK.TX_UNDERRUN_COUNT]) ((e.threshUp n.val t.cls).bump UPLINK.TX_UNDERRUN_COUNT
      n.val) :=
    (Chip.Frame.refl _).bump UPLINK.TX_UNDERRUN_COUNT n.val 0 (cells_one (by decide) hn)
  have hcount : ((e.threshUp n.val t.cls).bump UPLINK.TX_UNDERRUN_COUNT n.val).fld UPLINK.TX_UNDERRUN_COUNT n.val =
      min ((e.threshUp n.val t.cls).fld UPLINK.TX_UNDERRUN_COUNT n.val + 1) (2 ^ 32 - 1) := Chip.fld_bump_self _ _ _ _
  generalize e.threshUp n.val t.cls = f at hup hthresh hbumpu hupl hbump hcount
  generalize f.bump UPLINK.TX_UNDERRUN_COUNT n.val = g at hbumpu hbump hcount
  have hraise : g.Frame [] (Touched [.evt .uplink]) (g.raise EV.UPLINK_TX_UNDERRUN n.val) :=
    (Chip.Frame.refl _).raise _ _ (cells_evt (cls := .uplink) (by decide) hn)
  have hmark : s.chip.Frame [.uplinks] (Touched [.one UPLINK.TX_UNDERRUN_COUNT, .upto UPLINK.TX_START_THRESH_BLOCKS]) g :=
    ((hdry.mono (List.Subset.refl _) (Touched.mono (by decide))).trans (hup.mono (by decide) (Touched.mono (by decide)))).trans
      (hbump.mono (by decide) (Touched.mono (by decide)))
  have htell : s.chip.Tells (g.raise EV.UPLINK_TX_UNDERRUN n.val) EV.UPLINK_TX_UNDERRUN n.val :=
    hmark.tells_raise _ _ (by decide) (not_touched (by decide) 0 0 (by decide) (by decide))
  have hfate := (g.raise EV.UPLINK_TX_UNDERRUN n.val).copyFate_frame t.pkt false csUNDERRUN 0
  refine ⟨?_, ?_, (hfate.tells htell (evt_not_touched (a := .uplink) (by decide) hn)).inst (by decide) hn, fun h38 => ?_⟩
  · rw [Chip.upl_congr (Chip.ended_uplinks _ _), Chip.upl_congr (hfate.uplinks (by decide)), Chip.upl_congr (hraise.uplinks (by decide)), hbumpu,
      hupl, hcur]
  · rw [Chip.Counts, Chip.ended_inst (by decide) hn (by decide), hfate.fld_apart UPLINK.TX_UNDERRUN_COUNT n.val 0 (by decide) hn (by decide),
      hraise.fld_apart UPLINK.TX_UNDERRUN_COUNT n.val 0 (by decide) hn (by decide), hcount,
      hup.fld_apart UPLINK.TX_UNDERRUN_COUNT n.val 0 (by decide) hn (by decide),
          hdry.fld_apart UPLINK.TX_UNDERRUN_COUNT n.val 0 (by decide) hn (by decide)]
    rfl
  · have hwas := hdry.fld_apart UPLINK.TX_START_THRESH_BLOCKS n.val t.cls (by decide) hn hk'
    rw [Chip.ended_inst (by decide) hn hk', hfate.fld_apart UPLINK.TX_START_THRESH_BLOCKS n.val t.cls (by decide) hn hk',
      hraise.fld_apart UPLINK.TX_START_THRESH_BLOCKS n.val t.cls (by decide) hn hk',
      hbump.fld_apart UPLINK.TX_START_THRESH_BLOCKS n.val t.cls (by decide) hn hk', hthresh (by rw [hwas]; exact h38), hwas]

theorem underrun_idles (h : ∀ t, (s.chip.upl n.val).cur = some t → t.early = false) : Idles (.txUnderrun n phi) s := by
  refine idles_of (exec_txUnderrun n phi s) ?_
  unfold Chip.underrun
  split
  · next t ht =>
    rw [h t ht]
    rfl
  · rfl

/-- The uplink's record as the frame on the wire is pre-empted at `inst`. -/
def Chip.preemptRec (c : Chip) (n : Nat) (t : UplTx) (inst : Int) : Uplink :=
  { c.upl n with cur := none, cont := some { t with done := t.done + c.fragData n t inst },
                 freeAt := t.start + (c.octs n (8 + c.fragData n t inst + 4 + 12) : Nat) }

theorem preempted_becomes (h : (s.chip.upl n.val).cur = some t) (hup : s.chip.ulUp n.val = true) (hm : s.chip.mode ∈ [mACQUIRE, mRUN, mHOLDOVER])
    (hact : s.chip.on UPLINK.MERGE_STATUS_ACTIVE n.val = true) (hpre : t.preempt = true) (hst : t.start ≤ s.chip.instAt phi)
    (hmin : s.chip.minFrag n.val - 4 ≤ s.chip.fragData n.val t (s.chip.instAt phi))
    (hrest : t.done + s.chip.fragData n.val t (s.chip.instAt phi) + 60 ≤ t.total)
    (hw : s.chip.preemptWanted n.val t (s.chip.instAt phi) arrived = true) : Becomes (.preemption n phi arrived) s
      (s.chip.setUpl n.val (s.chip.preemptRec n.val t (s.chip.instAt phi)))
      [UPLINK.TX_PREEMPTS_COUNT.key n.val 0] fun d => s.chip.Counts d UPLINK.TX_PREEMPTS_COUNT n.val := by
  have hmode : (s.chip.mode == mACQUIRE || s.chip.running) = true := by
    rw [Bool.or_eq_true, beq_iff_eq]
    exact mode_running.mp hm
  have hcond : (s.chip.ulUp n.val && (s.chip.mode == mACQUIRE || s.chip.running) && t.preempt && s.chip.on UPLINK.MERGE_STATUS_ACTIVE n.val &&
      decide (t.start ≤ s.chip.instAt phi) && decide (s.chip.minFrag n.val - 4 ≤ s.chip.fragData n.val t (s.chip.instAt phi)) &&
      decide (t.done + s.chip.fragData n.val t (s.chip.instAt phi) + 60 ≤ t.total) && s.chip.preemptWanted n.val t (s.chip.instAt phi) arrived) =
          true := by
    rw [hup, hmode, hpre, hact, decide_eq_true hst, decide_eq_true hmin, decide_eq_true hrest, hw]
    rfl
  have hd : s.chip.preemptAt n.val (s.chip.instAt phi) arrived =
      (s.chip.setUpl n.val (s.chip.preemptRec n.val t (s.chip.instAt phi))).bump UPLINK.TX_PREEMPTS_COUNT n.val := by
    rw [Chip.preemptAt, h]
    dsimp only
    rw [if_pos hcond]
    rfl
  refine becomes_of (exec_preemption n phi arrived s) ?_ ?_ <;> rw [hd]
  · exact (Chip.Frame.refl _).bump _ _ _ (by simp)
  · exact Chip.Counts.inst (c := s.chip) (Chip.fld_bump_self _ _ _ _) (by decide) n.isLt

theorem preemption_idles (h : (s.chip.upl n.val).cur = some t)
    (hno : t.preempt = false ∨ s.chip.on UPLINK.MERGE_STATUS_ACTIVE n.val = false ∨ s.chip.mode = mSAFE) : Idles (.preemption n phi arrived) s := by
  refine idles_of (exec_preemption n phi arrived s) ?_
  rw [Chip.preemptAt, h]
  dsimp only
  rw [if_neg]
  simp only [Bool.and_eq_true]
  rintro ⟨⟨⟨⟨⟨⟨⟨-, hmode⟩, hpre⟩, hact⟩, -⟩, -⟩, -⟩, -⟩
  rcases hno with h | h | h
  · rw [h] at hpre
    exact absurd hpre (by decide)
  · rw [h] at hact
    exact absurd hact (by decide)
  · rw [Chip.running, h] at hmode
    exact absurd hmode (by decide)

/-! ### Launch frames that expire (R291) -/

/-- What the fate of a copy does once its cells are returned. -/
def Chip.fateKept (c : Chip) (p : Packet) (whole : Bool) (status detail : Nat) : Chip :=
  match p.tag, p.hank with
  | some t, _ => c.opCopy t whole p.primary status detail p.out
  | none, some id => c.hankLeft id whole
  | none, none => c

theorem Chip.copyFate_eq (p : Packet) (whole : Bool) (status detail : Nat) :
    c.copyFate p whole status detail = (c.returnCells p.ingress p.cells).fateKept p whole status detail := rfl

def keptParts : List Part := [.txOps, .hostq, .hank, .distaff]

def keptSpots : List Spot := [.one DISTAFF.ITEMS_OUT_COUNT, .one HANK.TX_MSGS_COUNT, .many HOSTQ.LEDGER_ENTRY0_FROZEN,
  .many HOSTQ.LEDGER_ENTRY0_STATE, .many HOSTQ.LEDGER_ENTRY0_STATUS, .many HOSTQ.LEDGER_ENTRY1_PROGRESS, .one HOSTQ.PARTIALS_COUNT]

theorem Chip.fateKept_frame (p : Packet) (whole : Bool) (status detail : Nat) :
    c.Frame keptParts (Touched keptSpots) (c.fateKept p whole status detail) := by
  unfold Chip.fateKept
  cases p.tag with
  | some t => exact Chip.away_eq_iff.mp (Chip.away_opCopy (by decide) (by decide))
  | none =>
    cases p.hank with
    | some id => exact Chip.away_eq_iff.mp (Chip.away_hankLeft (by decide) (by decide))
    | none => exact .refl c

theorem Chip.xoffJudge_keeps (m : Nat) : c.KeepsEvents (c.xoffJudge m) := by
  unfold Chip.xoffJudge
  extract_lets on
  have hset : c.KeepsEvents { c with buffer := { c.buffer with xoff := Tab.put false c.buffer.xoff m true } } := Chip.keepsEvents_of_regs rfl
  exact Chip.KeepsEvents.ite (fun _ => (hset.bump (by decide) (by decide) _).raise _ _) fun _ =>
    Chip.KeepsEvents.ite (fun _ => Chip.keepsEvents_of_regs rfl) fun _ => .refl c

theorem Chip.xoffJudgeAll_keeps : c.KeepsEvents c.xoffJudgeAll := Chip.KeepsEvents.foldl _ (fun d m _ => d.xoffJudge_keeps m) _

/-- The cells of a packet are free again. -/
def Chip.cellsFreed (c : Chip) (m : Nat) (k : Cells) : Chip :=
  { c with buffer := { c.buffer with charge := Tab.put 0 c.buffer.charge m (Tab.get 0 c.buffer.charge m - k.shared),
                                     c7Used := c.buffer.c7Used - k.c7,
                                     headUsed := Tab.put 0 c.buffer.headUsed m (Tab.get 0 c.buffer.headUsed m - k.head) } }

theorem Chip.returnCells_keeps (m : Nat) (k : Cells) : c.KeepsEvents (c.returnCells m k) :=
  Chip.KeepsEvents.trans (d := c.cellsFreed m k) (Chip.keepsEvents_of_regs rfl) Chip.xoffJudgeAll_keeps

/-- An event of the Reel stays raised. -/
theorem Chip.Tells.copyFate {v : Evt} {b : Chip} (hv : v.cls = .reel) (hb : v.bit < 32)
    (h : b.Tells c v) (p : Packet) (whole : Bool) (status detail : Nat) :
    b.Tells (c.copyFate p whole status detail) v := by
  have hcells : c.KeepsEvents (c.returnCells p.ingress p.cells) := Chip.returnCells_keeps _ _
  rw [Chip.copyFate_eq]
  refine (Chip.fateKept_frame _ _ _ _).tells (h.keeps hcells hb) ?_
  rw [Evt.key, hv]
  exact evt_not_touched (a := .reel) (by decide) (by decide)

/-- A head that `late` finds expired. -/
def lateHead (late : Int → Bool) (p : Packet) : Bool := match p.launch with | some l => late l | none => false

theorem Chip.ltExpire_queue {k : Nat} {late : Int → Bool} (h : (c.running && c.ltQueue n.val k) = true) : c.ltExpire n.val k late =
    ((c.queue n.val k).takeWhile (lateHead late)).foldl (fun d p => d.ltDrop n.val p)
      (c.setQueue n.val k ((c.queue n.val k).drop ((c.queue n.val k).takeWhile (lateHead late)).length)) := if_pos h

theorem Chip.launchExpire_one {k : Nat} {p : Packet} {l : Int} (hrun : c.running = true) (hq : c.ltQueue n.val k = true)
    (hone : c.queue n.val k = [p])
    (hl : p.launch = some l) (hpast : c.pastTol n.val l = true) : c.launchExpire n.val k = (c.setQueue n.val k []).ltDrop n.val p := by
  have hgone : (c.queue n.val k).takeWhile (lateHead (c.pastTol n.val)) = [p] := by
    have hlate : lateHead (c.pastTol n.val) p = true := by
      rw [lateHead, hl]
      exact hpast
    rw [hone, List.takeWhile_cons, if_pos hlate]
    rfl
  rw [Chip.launchExpire, Chip.ltExpire_queue (by rw [hrun, hq]; rfl), hgone, hone]
  rfl

theorem launchExpire_ends {k : Fin 8} {p : Packet} {l : Int} (hrun : s.chip.running = true) (hq : s.chip.ltQueue n.val k.val = true)
    (hone : s.chip.queue n.val k.val = [p]) (hl : p.launch = some l) (hpast : l + (s.chip.fld REELGATE.LATE_TOL_NS n.val * nsQ : Nat) < s.chip.net) :
    Ends (.launchExpire n k) s fun d => d.queue n.val k.val = [] ∧ s.chip.Counts d REELGATE.LT_EXPIRED_COUNT n.val ∧
      s.chip.Tells d (evLtExpired n.val) := by
  have hn := n.isLt
  refine ends_of (exec_launchExpire n k s) ?_
  rw [Chip.launchExpire_one hrun hq hone hl (decide_eq_true hpast), Chip.ltDrop]
  have hset : (s.chip.setQueue n.val k.val []).queue n.val k.val = [] := Tab.get_put_self [] s.chip.reel.queues (8 * n.val + k.val) []
  have hsetf : s.chip.Frame [.reel] (Touched []) (s.chip.setQueue n.val k.val []) := (Chip.Frame.refl _).withReel _ (by simp)
  generalize s.chip.setQueue n.val k.val [] = e at hset hsetf
  have hbump : e.Frame [] (Touched [.one REELGATE.LT_EXPIRED_COUNT]) (e.bump REELGATE.LT_EXPIRED_COUNT n.val) :=
    (Chip.Frame.refl _).bump REELGATE.LT_EXPIRED_COUNT n.val 0 (cells_one (by decide) hn)
  have hcount : (e.bump REELGATE.LT_EXPIRED_COUNT n.val).fld REELGATE.LT_EXPIRED_COUNT n.val = min (e.fld REELGATE.LT_EXPIRED_COUNT n.val + 1) (2
      ^ 32 - 1) :=
    Chip.fld_bump_self _ _ _ _
  generalize e.bump REELGATE.LT_EXPIRED_COUNT n.val = g at hbump hcount
  have hbit : (evLtExpired n.val).bit < 32 := by
    show 8 + n.val < 32
    omega
  have hunlevelled : (evLtExpired n.val).cls.unlevelled = true := by
    show PageCls.reel.unlevelled = true
    decide
  have hpage : 0 < (evLtExpired n.val).cls.count := by
    show 0 < PageCls.reel.count
    decide
  have hraise : g.Frame [] (Touched [.evt .reel]) (g.raise (evLtExpired n.val)) := (Chip.Frame.refl _).raise _ _ (cells_evt (cls := .reel) (by
      decide) (by decide))
  have hmark : s.chip.Frame [.reel] (Touched [.one REELGATE.LT_EXPIRED_COUNT]) g :=
    (hsetf.mono (List.Subset.refl _) (Touched.mono (by decide))).trans (hbump.mono (by decide) (Touched.mono (by decide)))
  have htell : s.chip.Tells (g.raise (evLtExpired n.val)) (evLtExpired n.val) :=
    hmark.tells_raise _ _ hbit (not_touched (x := Domain.row .core) (R := [.one REELGATE.LT_EXPIRED_COUNT]) (by decide) 0 0 (by decide) (by decide))
  have hfate := (g.raise (evLtExpired n.val)).copyFate_frame p false csEXPIRED 0
  refine ⟨?_, ?_, (Chip.Tells.copyFate rfl hbit htell p false csEXPIRED 0).inst hunlevelled hpage⟩
  · rw [Chip.queue_congr (Chip.ended_reel _ _), Chip.queue_congr (hfate.reel (by decide)), Chip.queue_congr (hraise.reel (by decide)),
      Chip.queue_congr (hbump.reel (by decide)), hset]
  · rw [Chip.Counts, Chip.ended_inst (by decide) hn (by decide), hfate.fld_apart REELGATE.LT_EXPIRED_COUNT n.val 0 (by decide) hn (by decide),
      hraise.fld_apart REELGATE.LT_EXPIRED_COUNT n.val 0 (by decide) hn (by decide), hcount,
      hsetf.fld_apart REELGATE.LT_EXPIRED_COUNT n.val 0 (by decide) hn (by decide)]
    rfl

/-! ### Selection -/

/-- A frame starts at `t`, by a command that selects there. -/
theorem select_ends {i : Instr} {f : Chip → Chip} {t : Int} {j : Nat} {p : Packet} (hi : exec i s = run f s)
    (hf : f s.chip = s.chip.selectAt n.val t arrived) (hb : s.chip.boundary n.val t = true) (hidle : s.chip.SendsNothing n.val)
    (hsel : (s.chip.headsSwept n.val t arrived).selectHead n.val t arrived false = some (p, j))
    (hs : (s.chip.headsSwept n.val t arrived).hankStale p = false) : Ends i s fun d =>
      d.queue n.val j = ((s.chip.headsSwept n.val t arrived).queue n.val j).tail ∧
      ∃ x, (d.upl n.val).cur = some x ∧ x.pkt.id = p.id ∧ x.cls = j ∧ x.start = t ∧ x.total = max p.bytes.length 60 := by
  refine ends_of hi ?_
  rw [hf, Chip.selectAt_starts hb hidle hsel hs]
  obtain ⟨hq, st, hcur⟩ := (s.chip.headsSwept n.val t arrived).startFrame_says (n := n.val) (inst := t) (arrived := arrived) j p
  rw [Chip.queue_congr (Chip.ended_reel _ _), Chip.upl_congr (Chip.ended_uplinks _ _)]
  exact ⟨hq, _, hcur, Chip.startTx_id _ _ _, rfl, rfl, rfl⟩

theorem Chip.selectAt_closed {inst : Int} (hb : c.boundary n.val inst = false) : c.selectAt n.val inst arrived = c.safeCont n.val inst := by
  rw [Chip.selectAt_eq, if_pos (by rw [hb]; rfl)]

theorem Chip.selectAt_pause {inst : Int} (hb : c.boundary n.val inst = true) (hp : c.pauseDue n.val = true) :
    c.selectAt n.val inst arrived = c.sendPause n.val inst := by
  rw [Chip.selectAt_eq, if_neg (by rw [hb]; decide), if_pos (by rw [hp]; rfl)]

theorem Chip.boundary_safe {inst : Int} (hm : c.mode = mSAFE) : c.boundary n.val inst = false := by
  have hmode : (c.mode == mACQUIRE || c.running) = false := by
    rw [Chip.running, hm]
    decide
  rw [Chip.boundary, hmode, Bool.and_false]
  rfl

/-- The uplink's record as the rest of a frame goes on at `inst`. -/
def Chip.resumedRec (c : Chip) (n : Nat) (t : UplTx) (inst : Int) : Uplink := { c.upl n with cur := some { t with start := inst }, cont := none }

/-- The rest of a frame goes on in SAFE. -/
theorem safeCont_becomes (hm : s.chip.mode = mSAFE) (hup : s.chip.ulUp n.val = true) (hcur : (s.chip.upl n.val).cur = none)
    (hctrl : (s.chip.upl n.val).ctrl = none) (hfree : (s.chip.upl n.val).freeAt ≤ s.chip.instAt phi) (hcont : (s.chip.upl n.val).cont = some t) :
    Becomes (.txSelect n phi arrived) s (s.chip.setUpl n.val (s.chip.resumedRec n.val t (s.chip.instAt phi))) [] fun _ => True := by
  have hcond : (s.chip.mode == mSAFE && s.chip.ulUp n.val && (s.chip.upl n.val).cur.isNone && (s.chip.upl n.val).ctrl.isNone &&
      decide ((s.chip.upl n.val).freeAt ≤ s.chip.instAt phi)) = true := by
    rw [hm, hup, hcur, hctrl, decide_eq_true hfree]
    rfl
  refine becomes_of (exec_txSelect n phi arrived s) ?_ trivial
  rw [Chip.selectAt_closed (Chip.boundary_safe hm), Chip.safeCont, hcont]
  dsimp only
  rw [if_pos hcond]
  exact .refl _

theorem respond_becomes (hb : s.chip.boundary n.val (s.chip.instAt phi) = true) (hp : s.chip.pauseDue n.val = false)
    (hr : s.chip.refreshDue n.val = false) (hn : (s.chip.upl n.val).responds ≠ 0) (hl : s.chip.on UPLINK.CFG_LOOPBACK n.val = false) :
    Becomes (.txSelect n phi arrived) s ((s.chip.setUpl n.val { s.chip.upl n.val with responds := (s.chip.upl n.val).responds - 1 }).setUpl n.val
      { s.chip.upl n.val with responds := (s.chip.upl n.val).responds - 1, freeAt := s.chip.instAt phi + (s.chip.octs n.val 84 : Nat) }) []
      fun _ => True := by
  have h0 : ¬ (!s.chip.boundary n.val (s.chip.instAt phi)) = true := by
    rw [hb]
    decide
  have h1 : ¬ (s.chip.pauseDue n.val || s.chip.refreshDue n.val) = true := by
    rw [hp, hr]
    decide
  have hloop : ¬ (s.chip.respondOut n.val (s.chip.instAt phi)).on UPLINK.CFG_LOOPBACK n.val = true := by
    rw [show (s.chip.respondOut n.val (s.chip.instAt phi)).on UPLINK.CFG_LOOPBACK n.val = s.chip.on UPLINK.CFG_LOOPBACK n.val from rfl, hl]
    decide
  have hupl : (s.chip.setUpl n.val { s.chip.upl n.val with responds := (s.chip.upl n.val).responds - 1 }).upl n.val =
      { s.chip.upl n.val with responds := (s.chip.upl n.val).responds - 1 } := Chip.upl_setUpl_self
  have hd : s.chip.respondOut n.val (s.chip.instAt phi) =
      (s.chip.setUpl n.val { s.chip.upl n.val with responds := (s.chip.upl n.val).responds - 1 }).setUpl n.val
        { (s.chip.setUpl n.val { s.chip.upl n.val with responds := (s.chip.upl n.val).responds - 1 }).upl n.val with
          freeAt := s.chip.instAt phi + (s.chip.octs n.val 84 : Nat) } := rfl
  refine becomes_of (exec_txSelect n phi arrived s) ?_ trivial
  rw [Chip.selectAt_eq, if_neg h0, if_neg h1, if_pos hn, if_neg hloop, hd, hupl]
  exact .refl _

theorem Chip.launchReached_some {k : Fin 8} {t : Int} (h : c.launchNow n.val k.val = some t) :
    c.launchReached n.val k.val arrived = c.selectAt n.val t arrived := by
  rw [Chip.launchReached, h]

theorem Chip.launchReached_none {k : Fin 8} (h : c.launchNow n.val k.val = none) : c.launchReached n.val k.val arrived = c := by
  rw [Chip.launchReached, h]

theorem select_idles (hb : s.chip.boundary n.val (s.chip.instAt phi) = false) (hm : s.chip.mode ≠ mSAFE) : Idles (.txSelect n phi arrived) s := by
  refine idles_of (exec_txSelect n phi arrived s) ?_
  rw [Chip.selectAt_closed hb, Chip.safeCont]
  split
  · refine if_neg ?_
    rw [beq_false_of_ne hm]
    simp
  · rfl
end

/-- Settles O36, by what each command finds to send: the MAC's own frames, the rest of a frame, or the head that is selected; and by how each
transmission ends. -/
theorem uplinkSends : Obligations.UplinkSends := by
  unfold Obligations.UplinkSends
  intro s n phi arrived k
  extract_lets c u inst idle paused starts
  have hidle (h : idle) : c.SendsNothing n.val := ⟨h.1, h.2.1, h.2.2.1, h.2.2.2⟩
  refine ⟨fun hb hp => ⟨?_, ?_⟩, fun hb hr => ?_, fun h => ?_, fun h => ?_, fun hb hm => select_idles hb hm,
      fun hb hp hr hn hl => respond_becomes hb hp hr hn hl,
    fun t hm hup hcur hctrl hfree hcont => safeCont_becomes hm hup hcur hctrl hfree hcont, fun st q hcur hctrl hend => pauseEnd_ends hcur hctrl hend,
    fun hb hi pk j hsel hs => select_ends (exec_txSelect n phi arrived s) rfl hb (hidle hi) hsel hs,
    fun t ht hb hi pk j hsel hs => select_ends (exec_launchTimeReached n k arrived s) (Chip.launchReached_some ht) hb (hidle hi) hsel hs,
    fun h => idles_of (exec_launchTimeReached n k arrived s) (Chip.launchReached_none h),
    fun t ht => ⟨fun hup hm hact hpre hst hmin hrest hw => preempted_becomes ht hup hm hact hpre hst hmin hrest hw, fun h => preemption_idles ht h,
      fun hend => frameEnd_ends ht hend, fun he hst hend hk => underrun_ends ht he hst hend hk, fun he => underrun_idles fun t' ht' => ?_⟩,
    fun hcur => ⟨fun hctrl => idles_of (exec_uplinkFrameTxEnd n s) (Chip.frameSent_none hcur hctrl), underrun_idles fun t' ht' => ?_⟩,
    fun pk l hrun hq hone hl hpast => launchExpire_ends hrun hq hone hl hpast, fun hrun => ?_⟩
  · exact pause_sends (exec_pauseFrameTx n phi s) inst (Chip.whenDue_true _ _ (by rw [hb, hp]; rfl))
  · exact pause_sends (exec_txSelect n phi arrived s) inst (Chip.selectAt_pause hb hp)
  · exact pause_sends (exec_pauseRefresh n phi s) inst (Chip.whenDue_true _ _ (by rw [hb, hr]; rfl))
  · exact idles_of_not_due (exec_pauseFrameTx n phi s) (Bool.and_eq_false_iff.mpr h)
  · exact idles_of_not_due (exec_pauseRefresh n phi s) (Bool.and_eq_false_iff.mpr h)
  · have hsame : some t' = some t := ht'.symm.trans ht
    rw [Option.some.inj hsame]
    exact he
  · exact absurd (ht'.symm.trans hcur) (Option.some_ne_none _)
  · refine idles_of (exec_launchExpire n k s) (if_neg ?_)
    rw [hrun, Bool.false_and]
    decide

end Sys2Proof.Machine
end

section
/-!
PROOF. What goes on when a stop ends, in the walks and in the shares: no payload leaves a command queue, and the power manager throttles or
not as before.
-/
namespace Sys2Proof.Machine

/-- Throttling is as it was, and every payload that waits for a segment still waits. -/
structure Chip.Resumes (c d : Chip) : Prop where
  throttling : d.power.throttling = c.power.throttling
  waits : ∀ n x, x ∈ (c.eng n).cmdq → x ∈ (d.eng n).cmdq

section
variable {c d e : Chip} {key n : Nat} {S : List Part} {K : Nat → Prop} {ecc : List (Nat × Bool)}

theorem Chip.Resumes.refl (c : Chip) : c.Resumes c := ⟨rfl, fun _ _ h => h⟩

theorem Chip.Resumes.trans (h : c.Resumes d) (h' : d.Resumes e) : c.Resumes e :=
  ⟨h'.throttling.trans h.throttling, fun n x hx => h'.waits n x (h.waits n x hx)⟩

theorem Chip.Resumes.ite {p : Prop} [Decidable p] (h : p → c.Resumes d) (h' : ¬ p → c.Resumes e) : c.Resumes (if p then d else e) := by
  split
  · exact h ‹_›
  · exact h' ‹_›

theorem Chip.Resumes.foldl {α : Type} (h : c.Resumes d) {f : Chip → α → Chip} (l : List α) (hf : ∀ (d : Chip) x, d.Resumes (f d x)) :
    c.Resumes (l.foldl f d) := by
  induction l generalizing d with
  | nil => exact h
  | cons x r ih => exact ih (h.trans (hf d x))

/-- A change beside the power manager and the segments. -/
theorem Chip.Frame.resumes (h : c.Frame S K d) (hp : .power ∉ S) (hs : .segs ∉ S) : c.Resumes d :=
  ⟨congrArg PowerMgr.throttling (h.part .power hp), fun n _ hx => by rw [Chip.eng_congr (h.part .segs hs)]; exact hx⟩

/-! ### Registers, shares and leave -/

theorem Chip.partsOnly_updShare (f : Share → Share) : c.PartsOnly [.distaff] (c.updShare key f) := by
  unfold Chip.updShare
  split
  · exact (Chip.Frame.refl c).withDistaff _ (by simp)
  · exact .refl c

theorem Chip.resumes_updShare (f : Share → Share) : c.Resumes (c.updShare key f) :=
  (Chip.partsOnly_updShare f).resumes (by decide) (by decide)

theorem Chip.resumes_updFan (f : FanCmd → FanCmd) : c.Resumes (c.updFan key f) := Chip.resumes_updShare _

theorem Chip.resumes_setStage (v : Option Stage) : c.Resumes (c.setStage key n v) :=
  ((Chip.Frame.refl c (S := [.distaff]) (K := fun _ => True)).withDistaff _ (by simp)).resumes (by decide) (by decide)

theorem Chip.resumes_fateTaken (f : Fates → Fates) : c.Resumes { c with fates := Tab.upd {} c.fates key f } :=
  ((Chip.Frame.refl c (S := [.fates]) (K := fun _ => True)).withFates _ (by simp)).resumes (by decide) (by decide)

/-- Counting, and telling it. -/
theorem Chip.resumes_counted (r : FieldRow) (k m i : Nat) (v : Evt) : c.Resumes ((c.bumpBy r k m i).raise v) :=
  (((Chip.Frame.refl c (S := []) (K := fun _ => True)).bumpBy _ _ _ _ trivial).raise _ _ trivial).resumes (by decide) (by decide)

theorem Chip.resumes_bump (r : FieldRow) : c.Resumes (c.bump r n) :=
  ((Chip.Frame.refl c (S := []) (K := fun _ => True)).bump _ _ _ trivial).resumes (by decide) (by decide)

theorem Chip.resumes_raise (v : Evt) : c.Resumes (c.raise v) :=
  ((Chip.Frame.refl c (S := []) (K := fun _ => True)).raise _ _ trivial).resumes (by decide) (by decide)

theorem Chip.resumes_onFan {f : Chip → Share → FanCmd → Chip} (hf : ∀ h m, c.Resumes (f c h m)) : c.Resumes (c.onFan key f) := by
  unfold Chip.onFan
  split
  · split
    · exact hf _ _
    · exact .refl c
  · exact .refl c

theorem Chip.resumes_releaseLeave (op : LeaveOp) : c.Resumes (c.releaseLeave op) := by
  refine ⟨?_, fun n x hx => ?_⟩
  · unfold Chip.releaseLeave Chip.ceilingJudge
    split <;> rfl
  · rw [Chip.eng_congr ((Chip.releaseLeave_frame c op (K := fun _ => True)).part .segs (by decide))]
    exact hx

theorem Chip.holdLeave_throttling (op : LeaveOp) (cost : Nat) (reserve : Bool) :
    (c.holdLeave op cost reserve).power.throttling = c.power.throttling := rfl

theorem Chip.raise_throttling (v : Evt) : (c.raise v).power.throttling = c.power.throttling :=
  congrArg PowerMgr.throttling (Chip.raise_power _ _ _)

theorem Chip.requestLeave_throttling (op : LeaveOp) : (c.requestLeave op).power.throttling = c.power.throttling := by
  unfold Chip.requestLeave
  split
  · exact Chip.holdLeave_throttling _ _ _
  · exact Chip.raise_throttling _
  · dsimp only
    split
    · exact Chip.raise_throttling _
    · rfl

theorem Chip.resumes_requestLeave (op : LeaveOp) : c.Resumes (c.requestLeave op) :=
  ⟨Chip.requestLeave_throttling op, fun n x hx => by rw [Chip.eng_congr ((c.requestLeave_frame op).part .segs (by decide))]; exact hx⟩

/-! ### Staging -/

theorem Chip.mem_setCmdq {p x : CmdPayload} {m : Nat} (hx : x ∈ (c.eng m).cmdq) :
    x ∈ ((c.setCmdq n ((c.eng n).cmdq ++ [p])).eng m).cmdq := by
  have hset : (c.setCmdq n ((c.eng n).cmdq ++ [p])).eng m = (c.updEng n fun e => { e with cmdq := (c.eng n).cmdq ++ [p] }).eng m :=
    Chip.eng_congr rfl
  rw [hset]
  by_cases h : m = n
  · rw [h, Chip.eng_updEng_self]
    exact List.mem_append_left _ (h ▸ hx)
  · have hother : (c.updEng n fun e => { e with cmdq := (c.eng n).cmdq ++ [p] }).eng m = c.eng m := Chip.eng_setEng_ne _ h
    rw [hother]
    exact hx

theorem Chip.resumes_setCmdq (p : CmdPayload) : c.Resumes (c.setCmdq n ((c.eng n).cmdq ++ [p])) := ⟨rfl, fun _ _ => Chip.mem_setCmdq⟩

theorem Chip.resumes_dropPayload (p : CmdPayload) : c.Resumes (c.dropPayload n p) := (Chip.resumes_bump _).trans (Chip.resumes_fateTaken _)

theorem Chip.resumes_closeStage : c.Resumes (c.closeStage key n) := by
  unfold Chip.closeStage
  split
  · refine .ite (fun _ => (Chip.resumes_setStage _).trans (Chip.resumes_dropPayload _)) fun _ => .ite (fun _ => ?_) fun _ => ?_
    · exact (Chip.resumes_setStage none).trans (Chip.resumes_setCmdq _)
    · refine Chip.Resumes.trans ?_ (Chip.resumes_updShare _)
      exact (Chip.Resumes.ite (fun _ => .refl c) fun _ => (Chip.resumes_bump _).trans (Chip.resumes_raise _)).trans (Chip.resumes_setStage _)
  · exact .refl c

theorem Chip.resumes_closeAll : c.Resumes (c.closeAll key) := by
  unfold Chip.closeAll
  refine (Chip.Resumes.refl c).foldl _ fun d n => ?_
  split
  · exact .ite (fun _ => .refl d) fun _ => Chip.resumes_closeStage
  · exact .refl d

theorem Chip.resumes_itemsExpire (k : Nat) : c.Resumes (c.itemsExpire key k) :=
  .ite (fun _ => .refl c) fun _ => (Chip.resumes_counted _ _ _ _ _).trans (Chip.resumes_fateTaken _)

theorem Chip.resumes_stageItem (h : Share) (it : Item) : c.Resumes (c.stageItem key h it) := by
  unfold Chip.stageItem
  refine ((Chip.resumes_fateTaken _).trans (Chip.resumes_updShare _)).trans (.ite (fun _ => Chip.resumes_itemsExpire 1) fun _ => .ite (fun _ =>
      ?_) fun _ => ?_)
  · exact ((((Chip.resumes_bump _).trans (Chip.resumes_raise _)).trans (Chip.resumes_fateTaken _)).trans (Chip.resumes_updShare _))
  · exact .ite (fun _ => (Chip.resumes_setStage _).trans Chip.resumes_closeStage) fun _ => Chip.resumes_setStage _

theorem Chip.resumes_pump (l : List Item) : c.Resumes (c.pump key l) := by
  induction l generalizing c with
  | nil => exact Chip.resumes_updShare _
  | cons it r ih =>
    have hhold : c.Resumes (c.updShare key fun h => { h with pending := it :: r }) := Chip.resumes_updShare _
    have hgo (d : Chip) (h : Share) : d.Resumes ((d.stageItem key h it).pump key r) := (Chip.resumes_stageItem h it).trans ih
    unfold Chip.pump
    split
    · exact .refl c
    · refine .ite (fun _ => hhold) fun _ => .ite (fun _ => .ite (fun _ => hhold) fun _ => ?_) fun _ => .ite (fun _ => hhold) fun _ => hgo _ _
      exact ((Chip.resumes_updShare _).trans (Chip.resumes_requestLeave _)).trans (.ite (fun _ => hgo _ _) fun _ => Chip.resumes_updShare _)

theorem Chip.resumes_expirePending : c.Resumes (c.expirePending key) := by
  unfold Chip.expirePending
  split
  · exact .ite (fun _ => ((Chip.resumes_fateTaken _).trans (Chip.resumes_updShare _)).trans (Chip.resumes_itemsExpire _)) fun _ => .refl c
  · exact .refl c

/-- The items of a share that is not paused, staged, and its payloads closed where none will follow. -/
def Chip.shareRun (c : Chip) (key : Nat) (h : Share) : Chip :=
  if !c.running || c.burstPaused key then c
  else
    let c := c.pump key h.pending
    match c.share? key with
    | some h =>
      if h.pending == [] && h.closing then
        let c := c.closeAll key
        if h.cmd.isNone then c.releaseLeave (.fanout key) else c
      else c
    | none => c

theorem Chip.resumes_shareRun (h : Share) : c.Resumes (c.shareRun key h) := by
  unfold Chip.shareRun
  have hpumped : c.Resumes (c.pump key h.pending) := Chip.resumes_pump _
  refine .ite (fun _ => .refl c) fun _ => hpumped.trans ?_
  dsimp only
  split
  · exact .ite (fun _ => Chip.resumes_closeAll.trans (.ite (fun _ => Chip.resumes_releaseLeave _) fun _ => .refl _)) fun _ => .refl _
  · exact .refl _

/-- The share as the run finds it: what is late has expired. -/
def Chip.shareTimed (c : Chip) (key : Nat) : Chip := if c.running then c.expirePending key else c

theorem Chip.runShare_eq : c.runShare key = match (c.shareTimed key).share? key with
    | none => c.shareTimed key
    | some h => (c.shareTimed key).shareRun key h := rfl

theorem Chip.resumes_runShare : c.Resumes (c.runShare key) := by
  have htimed : c.Resumes (c.shareTimed key) := .ite (fun _ => Chip.resumes_expirePending) fun _ => .refl c
  rw [Chip.runShare_eq]
  split
  · exact htimed
  · exact htimed.trans (Chip.resumes_shareRun _)

theorem Chip.resumes_runShares : c.Resumes c.runShares := (Chip.Resumes.refl c).foldl _ fun _ _ => Chip.resumes_runShare

/-! ### Messages to a worker -/

/-- The parts that a frame of the Hank moves. -/
def postParts : List Part := .reel :: .uplinks :: copyParts

/-- A flush of the link is counted, and told the first time. -/
def Chip.flushTold (c : Chip) (n : Nat) : Chip :=
  if ((c.bump REELGATE.LINK_FLUSH_COUNT n).upl n).flushed then c.bump REELGATE.LINK_FLUSH_COUNT n
  else ((c.bump REELGATE.LINK_FLUSH_COUNT n).updUpl n fun u => { u with flushed := true }).raise EV.REEL_LINK_FLUSH

theorem Chip.flushDrop_eq (p : Packet) : c.flushDrop n p = (c.flushTold n).copyFate p false csLINKABORT 0 := rfl

theorem Chip.flushTold_partsOnly : c.PartsOnly [.uplinks] (c.flushTold n) := by
  have hcounted : c.PartsOnly [.uplinks] (c.bump REELGATE.LINK_FLUSH_COUNT n) := (Chip.Frame.refl c).bump _ _ _ trivial
  exact .ite (fun _ => hcounted) fun _ => (hcounted.withUplinks _ (by decide)).raise _ _ trivial

theorem Chip.reelPost_partsOnly (p : Packet) : c.PartsOnly postParts (c.reelPost n p) := by
  refine .ite (fun _ => (Chip.setQueue_partsOnly _ _).mono (by decide) fun _ h => h) fun _ => ?_
  rw [Chip.flushDrop_eq]
  exact (Chip.flushTold_partsOnly.mono (by decide) fun _ h => h).andThen (Chip.copyFate_frame _ _ _ _ _) (by decide) fun _ _ => trivial

theorem Chip.hankPost_partsOnly (id dst : Nat) (octets : List Byte) : c.PartsOnly postParts (c.hankPost id n dst octets) := by
  unfold Chip.hankPost
  dsimp only
  have hnumbered : c.PartsOnly postParts { c with buffer := { c.buffer with nextId := c.buffer.nextId + 1 } } :=
    (Chip.Frame.refl c).withBuffer _ (by decide)
  refine .ite (fun _ => hnumbered.trans (Chip.reelPost_partsOnly _)) fun _ => .ite (fun _ => ?_) fun _ => ?_
  · exact (hnumbered.withHank _ (by decide)).trans (Chip.reelPost_partsOnly _)
  · exact ((hnumbered.withHank _ (by decide)).bump _ _ _ trivial).raise _ _ trivial

theorem Chip.hankSend_partsOnly (m : HankMsg) : c.PartsOnly postParts (c.hankSend m) :=
  (((Chip.Frame.refl c).withHank _ (by decide)).withHank _ (by decide)).trans (Chip.hankPost_partsOnly _ _ _)

theorem Chip.resumes_toWorker (typ w cmdId : Nat) (last : Bool) (body : List Byte) (share : Nat) (tag : Option Nat) (count : Nat) :
    c.Resumes (c.toWorker typ w cmdId last body share tag count) := by
  have hsent : c.PartsOnly postParts (c.toWorker typ w cmdId last body share tag count) :=
    ((Chip.Frame.refl c).withHank _ (by decide)).trans (Chip.hankSend_partsOnly _)
  exact hsent.resumes (by decide) (by decide)

theorem Chip.resumes_sendOpen (w : Nat) (last : Bool) : c.Resumes (c.sendOpen key w last) :=
  Chip.resumes_onFan fun _ _ => (Chip.resumes_updFan _).trans (Chip.resumes_toWorker _ _ _ _ _ _ _ _)

theorem Chip.resumes_workerItem (w : Nat) (it : Item) : c.Resumes (c.workerItem key w it) := by
  have hfull (d : Chip) : d.Resumes (d.onFan key fun c _ m =>
      if c.frameItems ≤ (Tab.get {} m.opens w).items.length then c.sendOpen key w false else c) :=
    Chip.resumes_onFan fun _ _ => .ite (fun _ => Chip.resumes_sendOpen _ _) fun _ => .refl d
  exact .ite (fun _ => ((Chip.resumes_bump _).trans (Chip.resumes_raise _)).trans (Chip.resumes_updFan _)) fun _ =>
    ((hfull c).trans (Chip.resumes_updFan _)).trans (hfull _)

/-! ### The walk -/

theorem Chip.resumes_dramWrite (a : Nat) (w : List Nat) : c.Resumes (c.dramWrite a w) := by
  have hwritten : c.PartsOnly [.dram, .ecc] (c.dramWrite a w) :=
    .ite (fun _ => ((Chip.Frame.refl c).withDram _ (by decide)).withEcc _ (by decide)) fun _ => .refl c
  exact hwritten.resumes (by decide) (by decide)

theorem Chip.resumes_sramRead (id : Option Nat) (reads : SramWord → Bool) : c.Resumes (c.sramRead id reads).1 :=
  (Chip.away_eq_iff.mp (Chip.away_sramRead (List.Subset.refl _) (List.Subset.refl _))).resumes (by decide) (by decide)

theorem Chip.resumes_dramError (a : Nat) (uncorr : Bool) : c.Resumes (c.dramError a uncorr) := by
  have hsaid : c.PartsOnly [] (c.dramError a uncorr) := .ite
    (fun _ => (((Chip.Frame.refl c).bump _ _ _ trivial).setFld _ _ _ _ trivial).raise _ _ trivial)
    fun _ => ((Chip.Frame.refl c).bump _ _ _ trivial).raise _ _ trivial
  exact hsaid.resumes (by decide) (by decide)

theorem Chip.resumes_dramRead (a : Nat) : c.Resumes (c.dramRead ecc a).1 := by
  have hread : c.Resumes (c.sramRead none (· == .cell .dir (a / 16))).1 := Chip.resumes_sramRead _ _
  unfold Chip.dramRead
  split
  · exact .refl c
  · dsimp only
    split
    · exact hread.trans (Chip.resumes_dramError _ _)
    · exact hread

theorem Chip.resumes_visit (h : Share) (m : FanCmd) (i : Nat) (w : List Nat) : c.Resumes (c.visit key h m i w) := by
  unfold Chip.visit
  refine .ite (fun _ => Chip.resumes_bump _) fun _ => .ite (fun _ => .refl c) fun _ => ?_
  exact ((Chip.resumes_dramWrite _ _).trans (Chip.resumes_updFan _)).trans
    (.ite (fun _ => Chip.resumes_stageItem _ _) fun _ => Chip.resumes_workerItem _ _)

theorem Chip.resumes_setWalk (l : List WalkItem) : c.Resumes (c.setWalk key l) := Chip.resumes_updFan _

theorem Chip.resumes_walkLoop (l : List WalkItem) : c.Resumes (c.walkLoop key l) :=
  ((Chip.resumes_updFan _).trans (Chip.resumes_raise _)).trans (Chip.resumes_setWalk _)

theorem Chip.resumes_walkBad (depth : Nat) (l : List WalkItem) : c.Resumes (c.walkBad key depth l) :=
  (Chip.resumes_updFan _).trans (Chip.resumes_setWalk _)

theorem Chip.resumes_walkDirError (l : List WalkItem) : c.Resumes (c.walkDirError key l) :=
  (((Chip.resumes_bump _).trans (Chip.resumes_raise _)).trans (Chip.resumes_updFan _)).trans (Chip.resumes_setWalk _)

/-- A case for each item of a walk. -/
theorem Chip.Resumes.ofItem {f : Nat → Nat → Chip} {g : Nat → Nat → Nat → Nat → Nat → Chip} {j : Nat → Nat → Chip}
    (hf : ∀ k depth, c.Resumes (f k depth)) (hg : ∀ i left k child depth, c.Resumes (g i left k child depth))
    (hj : ∀ k depth, c.Resumes (j k depth)) (it : WalkItem) :
    c.Resumes (match it with
      | .group k depth => f k depth
      | .member i left k child depth => g i left k child depth
      | .sibling k depth => j k depth) := by
  cases it with
  | group k depth => exact hf k depth
  | member i left k child depth => exact hg i left k child depth
  | sibling k depth => exact hj k depth

theorem Chip.resumes_walkStep (h : Share) (m : FanCmd) (it : WalkItem) (r : List WalkItem) : c.Resumes (c.walkStep key ecc h m it r) := by
  rw [Chip.walkStep.eq_def]
  refine .ofItem (fun g depth => ?_) (fun i left g child depth => ?_) (fun k depth => ?_) it
  · refine .ite (fun _ => Chip.resumes_walkLoop _) fun _ => .ite (fun _ => Chip.resumes_walkLoop _) fun _ => ?_
    extract_lets d
    have hseen : c.Resumes d := Chip.resumes_updFan _
    refine hseen.trans ?_
    have hread := d.resumes_dramRead (ecc := ecc) (d.groupAddr g)
    revert hread
    rcases d.dramRead ecc (d.groupAddr g) with ⟨e, _ | w⟩
    · exact fun hread => hread.trans (Chip.resumes_walkBad _ _)
    · exact fun hread => hread.trans (.ite (fun _ => Chip.resumes_setWalk _) fun _ => Chip.resumes_walkBad _ _)
  · refine .ite (fun _ => Chip.resumes_setWalk _) fun _ => ?_
    have hread := c.resumes_dramRead (ecc := ecc) (c.dirAddr i)
    revert hread
    rcases c.dramRead ecc (c.dirAddr i) with ⟨d, _ | w⟩
    · exact fun hread => hread.trans (Chip.resumes_walkDirError _)
    · refine fun hread => hread.trans (.ite (fun _ => Chip.resumes_walkDirError _) fun _ => ?_)
      exact (Chip.resumes_visit _ _ _ _).trans (Chip.resumes_setWalk _)
  · have hread := c.resumes_dramRead (ecc := ecc) (c.groupAddr k)
    revert hread
    rcases c.dramRead ecc (c.groupAddr k) with ⟨d, _ | w⟩
    · exact fun hread => hread.trans (Chip.resumes_setWalk _)
    · exact fun hread => hread.trans (Chip.resumes_setWalk _)

theorem Chip.resumes_walkGo (fuel : Nat) : c.Resumes (Chip.walkGo key ecc fuel c) := by
  induction fuel generalizing c with
  | zero => exact .refl c
  | succ k ih =>
    unfold Chip.walkGo
    split
    · split
      · refine .ite (fun _ => .refl c) fun _ => ?_
        split
        · exact .refl c
        · exact (Chip.resumes_walkStep _ _ _ _).trans ih
      · exact .refl c
    · exact .refl c

theorem Chip.resumes_walkEnd : c.Resumes (c.walkEnd key) := by
  refine Chip.resumes_onFan fun _ m => .ite (fun _ => ?_) fun _ => .refl c
  refine Chip.Resumes.trans (.foldl ((Chip.resumes_updFan _).trans (Chip.resumes_releaseLeave _)) _ fun d e => ?_) Chip.resumes_closeAll
  exact .ite (fun _ => .refl d) fun _ => Chip.resumes_sendOpen _ _

theorem Chip.resumes_walkOn : c.Resumes (c.walkOn key ecc) :=
  Chip.resumes_onFan fun _ _ => .ite (fun _ => (Chip.resumes_walkGo _).trans Chip.resumes_walkEnd) fun _ => .refl c

theorem Chip.resumes_resumeAll : c.Resumes (c.resumeAll ecc) :=
  ((Chip.Resumes.refl c).foldl _ fun _ _ => Chip.resumes_walkOn).trans Chip.resumes_runShares

end

end Sys2Proof.Machine
end

section
/-!
PROOF. A share of a command and its staging: what each write of it leaves, and what is left of one whose items are taken.
-/
namespace Sys2Proof.Machine

section
variable {c d : Chip} {key k n m : Nat} {h : Share}

theorem Chip.share?_congr (hd : d.distaff = c.distaff) : d.share? key = c.share? key := by rw [Chip.share?, hd, Chip.share?]

theorem Chip.stage?_congr (hd : d.distaff = c.distaff) : d.stage? key n = c.stage? key n := by rw [Chip.stage?, hd, Chip.stage?]

theorem Chip.share?_setShare_self (v : Option Share) : (c.setShare key v).share? key = v := Tab.get_put_self _ _ _ _

theorem Chip.updShare_eq (hk : c.share? key = some h) (f : Share → Share) : c.updShare key f = c.setShare key (some (f h)) := by
  rw [Chip.updShare, hk]

theorem Chip.share?_updShare_self (hk : c.share? key = some h) (f : Share → Share) : (c.updShare key f).share? key = some (f h) := by
  rw [Chip.updShare_eq hk, Chip.share?_setShare_self]

theorem Chip.stage?_updShare (f : Share → Share) : (c.updShare key f).stage? k n = c.stage? k n := by
  unfold Chip.updShare
  split <;> rfl

theorem Chip.stage?_setStage_self (v : Option Stage) : (c.setStage key n v).stage? key n = v := Tab.get_put_self _ _ _ _

theorem Chip.stage?_setStage_ne (v : Option Stage) (h : m ≠ n) : (c.setStage key n v).stage? key m = c.stage? key m :=
  Tab.get_put_ne _ _ _ _ (by omega)

theorem Chip.setCmdq_distaff (q : List CmdPayload) : (c.setCmdq n q).distaff = c.distaff := rfl

theorem Chip.setCmdq_eng (q : List CmdPayload) : (c.setCmdq n q).eng m = (c.updEng n fun e => { e with cmdq := q }).eng m := Chip.eng_congr rfl

/-! ### Items taken (R392, R396) -/

/-- How many items are staged for a segment. -/
def Chip.stagedCount (c : Chip) (key n : Nat) : Nat := match c.stage? key n with | some g => g.items.length | none => 0

theorem Chip.stagedCount_some {g : Stage} (hg : c.stage? key n = some g) : c.stagedCount key n = g.items.length := by
  rw [Chip.stagedCount, hg]

/-- Nothing of the share is staged or queued for the segment. -/
def Chip.Taken (c : Chip) (key n : Nat) : Prop := (∀ g, c.stage? key n = some g → g.items = []) ∧ ∀ x ∈ (c.eng n).cmdq, x.share ≠ key

theorem Chip.Taken.congr (h : c.Taken key n) (hstage : d.stage? key n = c.stage? key n) (heng : d.eng n = c.eng n) : d.Taken key n := by
  obtain ⟨hitems, hqueue⟩ := h
  exact ⟨fun g hg => hitems g (hstage ▸ hg), heng ▸ hqueue⟩

/-- What is staged for a segment leaves. -/
def Chip.stageTaken (c : Chip) (key n : Nat) : Chip :=
  if c.stagedCount key n = 0 then c else c.setStage key n none

/-- The items of a share for segment `n`, staged or queued, leave. -/
def Chip.segTaken (c : Chip) (key n : Nat) : Chip :=
  if (c.eng n).cmdq.filter (·.share == key) == [] then c.stageTaken key n
  else (c.stageTaken key n).setCmdq n (((c.stageTaken key n).eng n).cmdq.filter (·.share != key))

theorem Chip.stageTaken_items (g : Stage) (hg : (c.stageTaken key n).stage? key n = some g) : g.items = [] := by
  unfold Chip.stageTaken at hg
  split at hg
  · next hst =>
    rw [Chip.stagedCount_some hg] at hst
    exact List.eq_nil_of_length_eq_zero hst
  · rw [Chip.stage?_setStage_self] at hg
    cases hg

theorem Chip.stageTaken_ne (hm : m ≠ n) : (c.stageTaken key n).stage? key m = c.stage? key m := by
  unfold Chip.stageTaken
  exact (apply_ite (fun d : Chip => d.stage? key m) _ _ _).trans (by rw [Chip.stage?_setStage_ne _ hm]; exact ite_self _)

theorem Chip.stageTaken_eng : (c.stageTaken key n).eng m = c.eng m := by
  unfold Chip.stageTaken
  split <;> rfl

theorem Chip.stageTaken_share : (c.stageTaken key n).share? k = c.share? k := by
  unfold Chip.stageTaken
  split <;> rfl

theorem Chip.segTaken_stage : (c.segTaken key n).stage? key m = (c.stageTaken key n).stage? key m := by
  unfold Chip.segTaken
  split <;> rfl

theorem Chip.segTaken_share : (c.segTaken key n).share? k = c.share? k := by
  unfold Chip.segTaken
  split <;> exact Chip.stageTaken_share

theorem Chip.segTaken_queue (x : CmdPayload) (hx : x ∈ ((c.segTaken key n).eng n).cmdq) : x.share ≠ key := by
  unfold Chip.segTaken at hx
  split at hx
  · next hnone =>
    rw [Chip.stageTaken_eng] at hx
    intro he
    have hin : x ∈ (c.eng n).cmdq.filter (·.share == key) := List.mem_filter.mpr ⟨hx, beq_iff_eq.mpr he⟩
    rw [beq_iff_eq.mp hnone] at hin
    cases hin
  · rw [Chip.setCmdq_eng, Chip.eng_updEng_self] at hx
    exact bne_iff_ne.mp (List.mem_filter.mp hx).2

theorem Chip.segTaken_ne (hm : m ≠ n) : (c.segTaken key n).eng m = c.eng m := by
  unfold Chip.segTaken
  split
  · exact Chip.stageTaken_eng
  · rw [Chip.setCmdq_eng, Chip.eng_updEng_ne _ hm, Chip.stageTaken_eng]

theorem Chip.taken_segTaken : (c.segTaken key n).Taken key n :=
  ⟨fun g hg => Chip.stageTaken_items g (Chip.segTaken_stage.symm.trans hg), Chip.segTaken_queue⟩

theorem Chip.Taken.segTaken (h : c.Taken key m) (hm : m ≠ n) : (c.segTaken key n).Taken key m :=
  h.congr (Chip.segTaken_stage.trans (Chip.stageTaken_ne hm)) (Chip.segTaken_ne hm)

/-- All segments in turn. -/
def Chip.segsTaken (c : Chip) (key : Nat) : Chip := (List.range 96).foldl (fun d n => d.segTaken key n) c

theorem Chip.taken_segsTaken (hn : n < 96) : (c.segsTaken key).Taken key n :=
  foldl_visits (f := fun (d : Chip) n => d.segTaken key n) (before := fun _ => True) (after := fun d => d.Taken key n) (k := n)
    (fun _ _ _ _ => trivial) (fun _ _ => Chip.taken_segTaken) (fun _ _ hm h => h.segTaken (Ne.symm hm)) List.nodup_range
    (List.mem_range.mpr hn) c trivial

theorem Chip.segsTaken_share : (c.segsTaken key).share? k = c.share? k := by
  unfold Chip.segsTaken
  generalize List.range 96 = l
  induction l generalizing c with
  | nil => rfl
  | cons n l ih => exact ih.trans Chip.segTaken_share

/-- The fold of a block and a count, as the block alone sees it. -/
theorem foldl_fst {α β : Type} {f : Chip × α → β → Chip × α} {g : Chip → β → Chip} (hf : ∀ d a x, (f (d, a) x).1 = g d x) (l : List β) (d : Chip)
    (a : α) : (l.foldl f (d, a)).1 = l.foldl g d := by
  induction l generalizing d a with
  | nil => rfl
  | cons x r ih =>
    have hx : f (d, a) x = (g d x, (f (d, a) x).2) := Prod.ext (hf d a x) rfl
    rw [List.foldl_cons, List.foldl_cons, hx]
    exact ih _ _

/-- One segment's items taken, and their number. -/
def Chip.takeStep (key : Nat) (x : Chip × Nat) (n : Nat) : Chip × Nat :=
  (x.1.segTaken key n, x.2 + x.1.stagedCount key n + ((((x.1.eng n).cmdq.filter (·.share == key)).map (·.count)).sum))

/-- The number of a share's items that are still to be staged. -/
def Chip.pendingCount (c : Chip) (key : Nat) : Nat := match c.share? key with | some h => h.pending.length | none => 0

/-- The taken items have their fate, and the share is not stalled any more. -/
def Chip.takenFrom (c : Chip) (key k pend : Nat) : Chip :=
  Chip.updShare { c with fates := Tab.upd {} c.fates key fun f => { f with taken := f.taken + pend, lost := f.lost + k + pend } } key
    fun h => { h with pending := [], stalled := false }

theorem Chip.takeItems_fst (c : Chip) (key : Nat) : ∃ k pend, (c.takeItems key).1 = (c.segsTaken key).takenFrom key k pend := by
  refine ⟨((List.range 96).foldl (Chip.takeStep key) (c, 0)).2, c.pendingCount key, ?_⟩
  have hchip : ((List.range 96).foldl (Chip.takeStep key) (c, 0)).1 = c.segsTaken key := foldl_fst (fun _ _ _ => rfl) _ c 0
  rw [← hchip]
  unfold Chip.takeItems Chip.pendingCount
  generalize List.range 96 = l
  rfl

theorem Chip.share?_takenFrom (hk : c.share? key = some h) (i pend : Nat) :
    (c.takenFrom key i pend).share? key = some { h with pending := [], stalled := false } := by
  have hfates : Chip.share? { c with fates := Tab.upd {} c.fates key fun f => { f with taken := f.taken + pend, lost := f.lost + i + pend } } key =
      some h := hk
  exact Chip.share?_updShare_self hfates _

theorem Chip.Taken.updShare (ht : c.Taken key n) (f : Share → Share) : (c.updShare k f).Taken key n :=
  ht.congr (Chip.stage?_updShare f) (Chip.eng_congr ((Chip.partsOnly_updShare f).part .segs (by decide)))

theorem Chip.Taken.takenFrom (ht : c.Taken key n) (i pend : Nat) : (c.takenFrom key i pend).Taken key n := by
  have hfates : Chip.Taken { c with fates := Tab.upd {} c.fates key fun f => { f with taken := f.taken + pend, lost := f.lost + i + pend } } key n :=
    ht.congr rfl rfl
  exact hfates.updShare _

theorem Chip.share?_takeItems (hk : c.share? key = some h) :
    (c.takeItems key).1.share? key = some { h with pending := [], stalled := false } := by
  obtain ⟨i, pend, htaken⟩ := c.takeItems_fst key
  rw [htaken]
  exact Chip.share?_takenFrom (Chip.segsTaken_share.trans hk) i pend

theorem Chip.taken_takeItems (hn : n < 96) : (c.takeItems key).1.Taken key n := by
  obtain ⟨i, pend, htaken⟩ := c.takeItems_fst key
  rw [htaken]
  exact (Chip.taken_segsTaken hn).takenFrom i pend

/-- The items that expired are counted. -/
def Chip.expiredCounted (c : Chip) (k : Nat) : Chip :=
  if k = 0 then c else (c.bumpBy DISTAFF.ITEMS_EXPIRED_COUNT k).raise EV.DISTAFF_EXPIRED

theorem Chip.expiredCounted_frame : c.Frame [] (Touched [.one DISTAFF.ITEMS_EXPIRED_COUNT, .evt .distaff]) (c.expiredCounted k) := by
  refine .ite (fun _ => .refl c) fun _ => ?_
  exact ((Chip.Frame.refl c).bumpBy _ _ _ _ (cells_one (by simp) (by decide))).raise _ _
    (cells_evt (cls := .distaff) (n := 0) (by simp) (by decide))

theorem Chip.expireShare_eq : c.expireShare key =
    ((c.takeItems key).1.expiredCounted (c.takeItems key).2).updShare key fun h => { h with expired := true } := by
  unfold Chip.expireShare
  generalize c.takeItems key = x
  rfl

theorem Chip.share?_expireShare (hk : c.share? key = some h) :
    (c.expireShare key).share? key = some { h with pending := [], stalled := false, expired := true } := by
  have hcounted := (c.takeItems key).1.expiredCounted_frame (k := (c.takeItems key).2)
  have hshare : ((c.takeItems key).1.expiredCounted (c.takeItems key).2).share? key = some { h with pending := [], stalled := false } :=
    (Chip.share?_congr (hcounted.part .distaff (by decide))).trans (Chip.share?_takeItems hk)
  rw [Chip.expireShare_eq, Chip.share?_updShare_self hshare]

theorem Chip.taken_expireShare (hn : n < 96) : (c.expireShare key).Taken key n := by
  rw [Chip.expireShare_eq]
  have htaken : (c.takeItems key).1.Taken key n := Chip.taken_takeItems hn
  have hcounted := (c.takeItems key).1.expiredCounted_frame (k := (c.takeItems key).2)
  exact (htaken.congr (Chip.stage?_congr (hcounted.part .distaff (by decide))) (Chip.eng_congr (hcounted.part .segs (by decide)))).updShare _

end

end Sys2Proof.Machine
end

section
/-!
PROOF. SHARE_DONE: a copy of it, which draws no answer, leaves the time after which the next one follows.
-/
namespace Sys2Proof.Machine

section
variable {c d : Chip} {key n id : Nat} {h : Share} {p : Packet} {m : HankMsg}

/-- Every cell but that of ACK_TIMEOUT. -/
def NotAckTimeout (k : Nat) : Prop := k ≠ HANK.TIMERS_ACK_TIMEOUT_US.key 0 0

theorem notAckTimeout_flush (n : Nat) : NotAckTimeout (REELGATE.LINK_FLUSH_COUNT.key n 0) := by
  unfold NotAckTimeout FieldRow.key cellKey
  simp only [PageCls.base, REELGATE.LINK_FLUSH_COUNT, HANK.TIMERS_ACK_TIMEOUT_US]
  omega

theorem Chip.flushTold_spares : c.Frame [.uplinks] NotAckTimeout (c.flushTold n) := by
  have hcounted : c.Frame [.uplinks] NotAckTimeout (c.bump REELGATE.LINK_FLUSH_COUNT n) :=
    (Chip.Frame.refl c).bump _ _ _ (notAckTimeout_flush n)
  exact .ite (fun _ => hcounted) fun _ => (hcounted.withUplinks _ (by decide)).raise _ _ (by unfold NotAckTimeout; decide)

theorem Chip.returnCells_spares (i : Nat) (k : Cells) : c.Frame [.buffer] NotAckTimeout (c.returnCells i k) := by
  have hreturned := Chip.away_eq_iff.mp (Chip.away_returnCells (c := c) (p := i) (k := k) (List.Subset.refl _) (List.Subset.refl _))
  refine hreturned.mono (List.Subset.refl _) fun x hx he => ?_
  rw [he] at hx
  exact not_touched (x := HANK.TIMERS_ACK_TIMEOUT_US) (by decide) 0 0 (by decide) (by decide) hx

/-- A message that draws no answer goes with the frame that is dropped. -/
theorem Chip.hankLeft_dropped (hmsg : c.msg id = some m) (hacks : m.acks = false) : c.hankLeft id false = c.setMsg id none := by
  unfold Chip.hankLeft
  dsimp only
  rw [if_neg (by decide), hmsg]
  dsimp only
  rw [hacks]
  rfl

theorem Chip.copyFate_hank (htag : p.tag = none) (hhank : p.hank = some id) (whole : Bool) (status detail : Nat) :
    c.copyFate p whole status detail = (c.returnCells p.ingress p.cells).hankLeft id whole := by
  unfold Chip.copyFate
  dsimp only
  rw [htag, hhank]

theorem Chip.msg_congr (hd : d.hank = c.hank) : d.msg id = c.msg id := by rw [Chip.msg, hd, Chip.msg]

theorem Chip.reelPost_spares (htag : p.tag = none) (hhank : p.hank = some id) (hmsg : c.msg id = some m) (hacks : m.acks = false) :
    c.Frame postParts NotAckTimeout (c.reelPost n p) := by
  refine .ite (fun _ => (Chip.Frame.refl c).withReel _ (by decide)) fun _ => ?_
  have htold := c.flushTold_spares (n := n)
  have hreturned := (c.flushTold n).returnCells_spares p.ingress p.cells
  have hstill : ((c.flushTold n).returnCells p.ingress p.cells).msg id = some m :=
    (Chip.msg_congr (hreturned.part .hank (by decide))).trans ((Chip.msg_congr (htold.part .hank (by decide))).trans hmsg)
  rw [Chip.flushDrop_eq, Chip.copyFate_hank htag hhank, Chip.hankLeft_dropped hstill hacks]
  exact ((htold.mono (by decide) fun _ hk => hk).andThen hreturned (by decide) fun _ hk => hk).withHank _ (by decide)

theorem Chip.hankPost_spares (hmsg : c.msg id = some m) (hacks : m.acks = false) (dst : Nat) (octets : List Byte) :
    c.Frame postParts NotAckTimeout (c.hankPost id n dst octets) := by
  unfold Chip.hankPost
  extract_lets cls p b d
  have hnumbered : c.Frame postParts NotAckTimeout d := (Chip.Frame.refl c).withBuffer _ (by decide)
  have hd : d.msg id = some m := hmsg
  refine .ite (fun _ => hnumbered.trans (Chip.reelPost_spares rfl rfl hd hacks)) fun _ => .ite (fun _ => ?_) fun _ => ?_
  · have htaken : d.Frame postParts NotAckTimeout d.bucketTake := (Chip.Frame.refl d).withHank _ (by decide)
    have hstill : d.bucketTake.msg id = some m := hd
    exact (hnumbered.trans htaken).trans (Chip.reelPost_spares rfl rfl hstill hacks)
  · exact ((hnumbered.withHank _ (by decide)).bump _ _ _ (by unfold NotAckTimeout; decide)).raise _ _ (by unfold NotAckTimeout; decide)

theorem Chip.msg_setMsg_self (v : Option HankMsg) : (c.setMsg id v).msg id = v := Tab.get_put_self _ _ _ _

theorem Chip.hankSend_spares (hacks : m.acks = false) : c.Frame postParts NotAckTimeout (c.hankSend m) := by
  have hnew : c.Frame postParts NotAckTimeout (c.updHank fun h => { h with nextId := c.hank.nextId + 1 }) :=
    (Chip.Frame.refl c).withHank _ (by decide)
  have hkept : ((c.updHank fun h => { h with nextId := c.hank.nextId + 1 }).setMsg c.hank.nextId
      (some { m with vlan := c.hankVlan })).msg c.hank.nextId = some { m with vlan := c.hankVlan } := Chip.msg_setMsg_self _
  exact (hnew.withHank _ (by decide)).trans (Chip.hankPost_spares hkept hacks _ _)

/-- The copy of SHARE_DONE that goes to the manager. -/
def Chip.doneSent (c : Chip) (h : Share) : Chip :=
  if c.on HANK.BIND_STATUS_MGR_VALID then c.hankSend { typ := hkSHAREDONE, worker := 0, seq := 0, octets := h.doneMsg } else c

theorem Chip.doneSent_frame : c.Frame postParts NotAckTimeout (c.doneSent h) := .ite (fun _ => Chip.hankSend_spares rfl) fun _ => .refl c

/-- The share with `left` more copies to send. -/
def Chip.doneShare (c : Chip) (h : Share) (left : Nat) : Share :=
  { h with repeats := some left, nextAt := c.now + max 1 (c.fld HANK.TIMERS_ACK_TIMEOUT_US) * usQ }

theorem Chip.shareDoneCopy_last : (c.shareDoneCopy key h 0).share? key = none := Chip.share?_setShare_self none

theorem Chip.shareDoneCopy_more {left : Nat} (hl : left ≠ 0) : (c.shareDoneCopy key h left).share? key = some (c.doneShare h left) := by
  have heq : c.shareDoneCopy key h left = (c.doneSent h).setShare key (some ((c.doneSent h).doneShare h left)) := if_neg hl
  have hsent := c.doneSent_frame (h := h)
  rw [heq, Chip.share?_setShare_self, Chip.doneShare, hsent.now (by decide), hsent.fld _ _ _ fun hk => hk rfl, Chip.doneShare]

end

end Sys2Proof.Machine
end

section
/-!
PROOF. O53: the shares of commands at a part.
-/
namespace Sys2Proof.Machine

section
variable {c d : Chip} {key n : Nat} {h : Share} {g : Stage}

/-! ### The apply event and A + TOL -/

theorem exec_applyEvent {s : State} {k : Nat} : exec (.applyEvent k) s = run (fun c => c.applyEvent k) s := rfl

theorem Chip.applyEvent_fires (hk : c.share? key = some h) (hf : (!h.fired && c.fires && decide (h.applyQ ≤ c.net)) = true) :
    c.applyEvent key = c.setShare key (some { h with fired := true }) := by
  unfold Chip.applyEvent
  rw [hk]
  dsimp only
  rw [if_pos hf, Chip.updShare_eq hk]

theorem Chip.applyEvent_waits (hk : c.share? key = some h) (hf : ¬ (!h.fired && c.fires && decide (h.applyQ ≤ c.net)) = true) :
    c.applyEvent key = c := by
  unfold Chip.applyEvent
  rw [hk]
  exact if_neg hf

theorem Share.fires_iff : (!h.fired && c.fires && decide (h.applyQ ≤ c.net)) = true ↔ h.fired = false ∧ c.fires = true ∧ h.applyQ ≤ c.net := by
  rw [Bool.and_eq_true, Bool.and_eq_true, Bool.not_eq_true', decide_eq_true_iff, and_assoc]

theorem Chip.onFan_worker {f : Chip → Share → FanCmd → Chip} (hk : c.share? key = some h) (hcmd : h.cmd = none) : c.onFan key f = c := by
  rw [Chip.onFan, hk]
  dsimp only
  rw [hcmd]

theorem exec_commandExpire {s : State} {k : Nat} : exec (.commandExpire k []) s = run (fun c => c.commandExpire k []) s := rfl

theorem Chip.commandExpire_worker (hk : c.share? key = some h) (hdue : (!h.expired && c.expireDue h) = true) (hcmd : h.cmd = none) :
    c.commandExpire key [] = c.expireShare key := by
  unfold Chip.commandExpire
  rw [hk]
  dsimp only
  rw [if_pos hdue]
  exact Chip.onFan_worker (Chip.share?_expireShare hk) hcmd

theorem Chip.commandExpire_waits (hk : c.share? key = some h) (hdue : ¬ (!h.expired && c.expireDue h) = true) : c.commandExpire key [] = c := by
  unfold Chip.commandExpire
  rw [hk]
  exact if_neg hdue

/-! ### A payload closes -/

theorem Chip.closeStage_eq (hk : c.share? key = some h) (hg : c.stage? key n = some g) : c.closeStage key n =
    if c.unholdable n (h.payload key g.items) then (c.setStage key n none).dropPayload n (h.payload key g.items)
    else if (c.eng n).cmdq.length < 64 then (c.setStage key n none).setCmdq n ((c.eng n).cmdq ++ [h.payload key g.items])
    else ((if g.closed then c else (c.bump DISTAFF.QUEUE_STALLS_COUNT).raise EV.DISTAFF_QUEUE_STALL).setStage key n
      (some { g with closed := true })).updShare key fun h => { h with stalled := true } := by
  unfold Chip.closeStage
  rw [hk, hg]

theorem Chip.queue_closeStage (hk : c.share? key = some h) (hg : c.stage? key n = some g)
    (hu : c.unholdable n (h.payload key g.items) = false) (hroom : (c.eng n).cmdq.length < 64) :
    ((c.closeStage key n).eng n).cmdq = (c.eng n).cmdq ++ [h.payload key g.items] := by
  rw [Chip.closeStage_eq hk hg, if_neg (by rw [hu]; decide), if_pos hroom, Chip.setCmdq_eng, Chip.eng_updEng_self]

theorem exec_stagingIdleClose {s : State} {k : Nat} {n : Fin 96} : exec (.stagingIdleClose k n) s =
    run (fun c => c.whenDue (c.dom .core == domON && c.stageIdle k n.val) fun d => d.closeStage k n.val) s := rfl

theorem Chip.stageIdle_some (hg : c.stage? key n = some g) : c.stageIdle key n = (!g.closed && decide (g.last + 100 * usQ ≤ c.now)) := by
  rw [Chip.stageIdle, hg]

theorem Chip.stageIdle_none (hg : c.stage? key n = none) : c.stageIdle key n = false := by rw [Chip.stageIdle, hg]

/-- What the end of a step leaves of the shares, their staging and their fates. -/
theorem ended_share {b : Chip} : (b.ended d).share? key = d.share? key := Chip.share?_congr (Chip.ended_distaff _ _)

theorem ended_stage {b : Chip} : (b.ended d).stage? key n = d.stage? key n := Chip.stage?_congr (Chip.ended_distaff _ _)

theorem ended_fates {b : Chip} : (b.ended d).fatesOf key = d.fatesOf key := by rw [Chip.fatesOf, Chip.ended_fates, Chip.fatesOf]

theorem stagingIdle_drops {s : State} {n : Fin 96} (hk : s.chip.share? key = some h) (hg : s.chip.stage? key n.val = some g)
    (hdue : (s.chip.dom .core == domON && s.chip.stageIdle key n.val) = true)
    (hu : s.chip.unholdable n.val (h.payload key g.items) = true) : Ends (.stagingIdleClose key n) s fun d => d.stage? key n.val = none ∧
      s.chip.Counts d SEGMENT.TX_DROP_COUNT n.val ∧ (d.eng n.val).cmdq = (s.chip.eng n.val).cmdq ∧
      (d.fatesOf key).lost = (s.chip.fatesOf key).lost + g.items.length := by
  refine ends_of_due exec_stagingIdleClose hdue ?_
  rw [Chip.closeStage_eq hk hg, if_pos hu]
  have hcounts : s.chip.Counts ((s.chip.setStage key n.val none).dropPayload n.val (h.payload key g.items)) SEGMENT.TX_DROP_COUNT n.val :=
    Chip.fld_bump_self _ _ _ _
  have hlost : (((s.chip.setStage key n.val none).dropPayload n.val (h.payload key g.items)).fatesOf key).lost =
      (s.chip.fatesOf key).lost + g.items.length := congrArg Fates.lost (Tab.get_put_self _ _ _ _)
  refine ⟨ended_stage.trans (Chip.stage?_setStage_self none), hcounts.inst (by decide) n.isLt, ?_, (congrArg Fates.lost ended_fates).trans hlost⟩
  rw [ended_eng]
  rfl

theorem stagingIdle_queues {s : State} {n : Fin 96} (hk : s.chip.share? key = some h) (hg : s.chip.stage? key n.val = some g)
    (hdue : (s.chip.dom .core == domON && s.chip.stageIdle key n.val) = true)
    (hu : s.chip.unholdable n.val (h.payload key g.items) = false) (hroom : (s.chip.eng n.val).cmdq.length < 64) :
    Ends (.stagingIdleClose key n) s fun d => d.stage? key n.val = none ∧
      (d.eng n.val).cmdq = (s.chip.eng n.val).cmdq ++ [h.payload key g.items] := by
  refine ends_of_due exec_stagingIdleClose hdue ⟨?_, (congrArg SegEng.cmdq ended_eng).trans (Chip.queue_closeStage hk hg hu hroom)⟩
  rw [ended_stage, Chip.closeStage_eq hk hg, if_neg (by rw [hu]; decide), if_pos hroom]
  exact Chip.stage?_setStage_self none

theorem Chip.setStage_frame {K : Nat → Prop} (v : Option Stage) : c.Frame [.distaff] K (c.setStage key n v) :=
  (Chip.Frame.refl c).withDistaff _ (by decide)

theorem Chip.setShare_frame {K : Nat → Prop} (v : Option Share) : c.Frame [.distaff] K (c.setShare key v) :=
  (Chip.Frame.refl c).withDistaff _ (by decide)

theorem Chip.stage?_setShare (v : Option Share) : (c.setShare key v).stage? key n = c.stage? key n := rfl

/-- A stall is counted and told. -/
def Chip.stallTold (c : Chip) : Chip := (c.bump DISTAFF.QUEUE_STALLS_COUNT).raise EV.DISTAFF_QUEUE_STALL

theorem Chip.stallTold_frame : c.Frame [] (Touched [.one DISTAFF.QUEUE_STALLS_COUNT, .evt .distaff]) c.stallTold :=
  ((Chip.Frame.refl c).bump _ _ _ (cells_one (by simp) (by decide))).raise _ _ (cells_evt (cls := .distaff) (n := 0) (by simp) (by decide))

theorem Chip.stallTold_counts : c.Counts c.stallTold DISTAFF.QUEUE_STALLS_COUNT :=
  (Chip.fld_raise_apart (by decide) (by decide) (by decide) (by decide)).trans (Chip.fld_bump_self _ _ _ _)

theorem Chip.stallTold_tells : c.Tells c.stallTold EV.DISTAFF_QUEUE_STALL :=
  ((Chip.Frame.refl c (S := []) (K := (· = DISTAFF.QUEUE_STALLS_COUNT.key 0 0))).bump _ _ _ rfl).tells_raise _ 0 (by decide) (by decide)

/-- The share stalls with the payload closed. -/
def Chip.stalledAt (c : Chip) (key n : Nat) (h : Share) (g : Stage) : Chip :=
  (c.stallTold.setStage key n (some { g with closed := true })).setShare key (some { h with stalled := true })

theorem Chip.stalledAt_frame : c.stallTold.Frame [.distaff] (fun _ => False) (c.stalledAt key n h g) :=
  (Chip.setStage_frame _).trans (Chip.setShare_frame _)

theorem Chip.closeStage_stalls (hk : c.share? key = some h) (hg : c.stage? key n = some g) (hopen : g.closed = false)
    (hu : c.unholdable n (h.payload key g.items) = false) (hfull : 64 ≤ (c.eng n).cmdq.length) :
    c.closeStage key n = c.stalledAt key n h g := by
  have hstill : (c.stallTold.setStage key n (some { g with closed := true })).share? key = some h :=
    (Chip.share?_congr (Chip.stallTold_frame.part .distaff (by decide))).trans hk
  rw [Chip.closeStage_eq hk hg, if_neg (by rw [hu]; decide), if_neg (Nat.not_lt.mpr hfull), if_neg (by rw [hopen]; decide)]
  exact Chip.updShare_eq hstill _

theorem Chip.stage?_stalledAt : (c.stalledAt key n h g).stage? key n = some { g with closed := true } := by
  rw [Chip.stalledAt, Chip.stage?_setShare, Chip.stage?_setStage_self]

theorem Chip.share?_stalledAt : (c.stalledAt key n h g).share? key = some { h with stalled := true } := Chip.share?_setShare_self _

theorem stagingIdle_stalls {s : State} {n : Fin 96} (hk : s.chip.share? key = some h) (hg : s.chip.stage? key n.val = some g)
    (hdue : (s.chip.dom .core == domON && s.chip.stageIdle key n.val) = true) (hopen : g.closed = false)
    (hu : s.chip.unholdable n.val (h.payload key g.items) = false) (hfull : 64 ≤ (s.chip.eng n.val).cmdq.length) :
    Ends (.stagingIdleClose key n) s fun d => d.stage? key n.val = some { g with closed := true } ∧
      d.share? key = some { h with stalled := true } ∧ s.chip.Counts d DISTAFF.QUEUE_STALLS_COUNT ∧
      s.chip.Tells d EV.DISTAFF_QUEUE_STALL ∧ (d.eng n.val).cmdq = (s.chip.eng n.val).cmdq := by
  have hafter : s.chip.stallTold.Frame [.distaff] (fun _ => False) (s.chip.stalledAt key n.val h g) := Chip.stalledAt_frame
  have hcounts : s.chip.Counts (s.chip.stalledAt key n.val h g) DISTAFF.QUEUE_STALLS_COUNT :=
    (hafter.fld _ _ _ id).trans s.chip.stallTold_counts
  have htells := hafter.tells s.chip.stallTold_tells id
  have hsegs : (s.chip.stalledAt key n.val h g).segs = s.chip.segs :=
    (s.chip.stallTold_frame.part .segs (by decide)).trans (hafter.part .segs (by decide))
  refine ends_of_due exec_stagingIdleClose hdue ?_
  rw [Chip.closeStage_stalls hk hg hopen hu hfull]
  exact ⟨ended_stage.trans Chip.stage?_stalledAt, ended_share.trans Chip.share?_stalledAt, hcounts.inst (by decide) (by decide),
    htells.inst (by decide) (by decide), congrArg SegEng.cmdq (ended_eng.trans (Chip.eng_congr hsegs))⟩

theorem stagingIdle_idles {s : State} {n : Fin 96} (hdue : (s.chip.dom .core == domON && s.chip.stageIdle key n.val) = false) :
    Idles (.stagingIdleClose key n) s := idles_of_not_due exec_stagingIdleClose hdue

/-! ### Room in the command queue -/

theorem exec_stagingResume {s : State} {n : Fin 96} : exec (.stagingResume n []) s =
    run (fun c => c.whenDue (c.dom .core == domON) fun d => (d.unstall n.val).resumeAll []) s := rfl

/-- A closed payload of the share tries its queue again. -/
def Chip.closedRetried (c : Chip) (n key : Nat) : Chip :=
  match c.stage? key n with
  | some g => if g.closed then c.closeStage key n else c
  | none => c

/-- A share none of whose payloads waits may stage again. -/
def Chip.shareFreed (c : Chip) (key : Nat) : Chip :=
  if (List.range 96).any fun m => (match c.stage? key m with | some g => g.closed | none => false) then c
  else c.updShare key fun h => { h with stalled := false }

theorem Chip.resumes_shareFreed : c.Resumes (c.shareFreed key) := .ite (fun _ => .refl c) fun _ => Chip.resumes_updShare _

theorem Chip.unstall_eq (n : Nat) : c.unstall n =
    (c.distaff.shares.map (·.1)).foldl Chip.shareFreed ((c.distaff.shares.map (·.1)).foldl (fun d k => d.closedRetried n k) c) := rfl

theorem Chip.unstall_queues (hone : c.distaff.shares = [(key, some h)]) (hg : c.stage? key n = some g) (hclosed : g.closed = true)
    (hroom : (c.eng n).cmdq.length < 64) (hu : c.unholdable n (h.payload key g.items) = false) :
    h.payload key g.items ∈ ((c.unstall n).eng n).cmdq := by
  have hk : c.share? key = some h := by
    rw [Chip.share?, hone]
    exact if_pos rfl
  have hretried : c.closedRetried n key = c.closeStage key n := by
    rw [Chip.closedRetried, hg]
    exact if_pos hclosed
  have hqueued : h.payload key g.items ∈ ((c.closeStage key n).eng n).cmdq := by
    rw [Chip.queue_closeStage hk hg hu hroom]
    exact List.mem_append_right _ (List.mem_singleton.mpr rfl)
  rw [Chip.unstall_eq, hone]
  refine (Chip.Resumes.foldl (.refl _) _ fun _ _ => Chip.resumes_shareFreed).waits n _ ?_
  rw [List.map_cons, List.map_nil, List.foldl_cons, List.foldl_nil, hretried]
  exact hqueued

theorem stagingResume_queues {s : State} {n : Fin 96} (hon : s.chip.dom .core = domON) (hone : s.chip.distaff.shares = [(key, some h)])
    (hg : s.chip.stage? key n.val = some g) (hclosed : g.closed = true) (hroom : (s.chip.eng n.val).cmdq.length < 64)
    (hu : s.chip.unholdable n.val (h.payload key g.items) = false) :
    Ends (.stagingResume n []) s fun d => h.payload key g.items ∈ (d.eng n.val).cmdq := by
  refine ends_of_due exec_stagingResume (beq_iff_eq.mpr hon) ?_
  rw [ended_eng]
  exact Chip.resumes_resumeAll.waits n.val _ (Chip.unstall_queues hone hg hclosed hroom hu)

/-! ### SHARE_DONE -/

theorem Chip.segTaken_frame (hn : n < 96) : c.Frame [.distaff, .segs] (Touched [.one SEGMENT.CMDQ_STATUS_DEPTH, .one SEGMENT.CMDQ_STATUS_FULL])
    (c.segTaken key n) := by
  have hstage : c.Frame [.distaff, .segs] (Touched [.one SEGMENT.CMDQ_STATUS_DEPTH, .one SEGMENT.CMDQ_STATUS_FULL]) (c.stageTaken key n) :=
    .ite (fun _ => .refl c) fun _ => (Chip.Frame.refl c).withDistaff _ (by decide)
  exact .ite (fun _ => hstage) fun _ => hstage.andThen (Chip.setCmdq_frame hn _) (by decide) fun _ hk => hk

def expireSpots : List Spot :=
  [.one SEGMENT.CMDQ_STATUS_DEPTH, .one SEGMENT.CMDQ_STATUS_FULL, .one DISTAFF.ITEMS_EXPIRED_COUNT, .evt .distaff]

theorem Chip.expireShare_frame : c.Frame [.distaff, .segs, .fates] (Touched expireSpots) (c.expireShare key) := by
  have htaken : c.Frame [.distaff, .segs, .fates] (Touched expireSpots) (c.segsTaken key) :=
    (Chip.Frame.refl c).foldl _ fun d n hn =>
      (Chip.segTaken_frame (List.mem_range.mp hn)).mono (by decide) (Touched.mono (R' := expireSpots) (by decide))
  have hupd (d : Chip) (f : Share → Share) : d.Frame [.distaff, .segs, .fates] (Touched expireSpots) (d.updShare key f) := by
    unfold Chip.updShare
    split
    · exact (Chip.Frame.refl d).withDistaff _ (by decide)
    · exact .refl d
  obtain ⟨i, pend, heq⟩ := c.takeItems_fst key
  rw [Chip.expireShare_eq, heq]
  refine Chip.Frame.trans ?_ (hupd _ _)
  refine Chip.Frame.andThen ?_ Chip.expiredCounted_frame (by decide) (Touched.mono (R' := expireSpots) (by decide))
  exact (htaken.withFates _ (by decide)).trans (hupd _ _)

theorem exec_shareDoneSend {s : State} {k : Nat} : exec (.shareDoneSend k) s = run (fun c => c.whenDue (c.dom .core == domON) fun d =>
    d.shareDoneSend k) s := rfl

theorem exec_shareDoneRepeat {s : State} {k : Nat} : exec (.shareDoneRepeat k) s = run (fun c => c.whenDue (c.dom .core == domON) fun d =>
    d.shareDoneRepeat k) s := rfl

/-- The block as SHARE_DONE is built: at A + TOL the share has expired. -/
def Chip.doneTimed (c : Chip) (key : Nat) (h : Share) : Chip := if c.expireDue h then c.expireShare key else c

theorem Chip.doneTimed_frame : c.Frame [.distaff, .segs, .fates] (Touched expireSpots) (c.doneTimed key h) :=
  .ite (fun _ => Chip.expireShare_frame) fun _ => .refl c

/-- The share with its SHARE_DONE built. -/
def Chip.doneBuilt (c : Chip) (key : Nat) (h : Share) : Share :=
  { h with
    expired := true
    pending := []
    doneMsg := c.hankOctets hkSHAREDONE 0 (c.freeVal % 65536) h.cmdId false
      (beBytes 4 (c.fatesOf key).onTime ++ beBytes 4 (c.fatesOf key).late ++ beBytes 4 (c.fatesOf key).lost) }

theorem Chip.shareDoneSend_due (hk : c.share? key = some h) (hdue : c.shareDoneDue key h = true) : c.shareDoneSend key =
    (c.doneTimed key h).drawn.shareDoneCopy key ((c.doneTimed key h).doneBuilt key h) ((c.doneTimed key h).fld HANK.TIMERS_RETRIES) := by
  unfold Chip.shareDoneSend
  rw [hk]
  exact if_pos hdue

theorem Chip.shareDoneSend_waits (hk : c.share? key = some h) (hdue : ¬ c.shareDoneDue key h = true) : c.shareDoneSend key = c := by
  unfold Chip.shareDoneSend
  rw [hk]
  exact if_neg hdue

theorem shareDoneSend_sends {s : State} (hk : s.chip.share? key = some h) (hon : s.chip.dom .core = domON)
    (hdue : s.chip.shareDoneDue key h = true) : Ends (.shareDoneSend key) s fun d =>
      (s.chip.fld HANK.TIMERS_RETRIES = 0 → d.share? key = none) ∧
      (s.chip.fld HANK.TIMERS_RETRIES ≠ 0 → ∃ h', d.share? key = some h' ∧ h'.repeats = some (s.chip.fld HANK.TIMERS_RETRIES) ∧ h'.pending = [] ∧
        h'.nextAt = s.chip.now + max 1 (s.chip.fld HANK.TIMERS_ACK_TIMEOUT_US) * usQ) := by
  have htimed := s.chip.doneTimed_frame (key := key) (h := h)
  have hretries : (s.chip.doneTimed key h).fld HANK.TIMERS_RETRIES = s.chip.fld HANK.TIMERS_RETRIES :=
    htimed.fld_apart HANK.TIMERS_RETRIES 0 0 (by decide) (by decide) (by decide)
  have htimeout : (s.chip.doneTimed key h).drawn.fld HANK.TIMERS_ACK_TIMEOUT_US = s.chip.fld HANK.TIMERS_ACK_TIMEOUT_US :=
    htimed.fld_apart HANK.TIMERS_ACK_TIMEOUT_US 0 0 (by decide) (by decide) (by decide)
  have hnow : (s.chip.doneTimed key h).drawn.now = s.chip.now := htimed.now (by decide)
  refine ends_of_due exec_shareDoneSend (beq_iff_eq.mpr hon) ?_
  rw [Chip.shareDoneSend_due hk hdue, hretries]
  refine ⟨fun hlast => ?_, fun hmore => ⟨_, ended_share.trans (Chip.shareDoneCopy_more hmore), rfl, rfl, ?_⟩⟩
  · rw [hlast, ended_share, Chip.shareDoneCopy_last]
  · rw [Chip.doneShare, hnow, htimeout]

theorem Chip.shareDoneRepeat_due {j : Nat} (hk : c.share? key = some h) (hj : h.repeats = some j) (hat : h.nextAt ≤ c.now) :
    c.shareDoneRepeat key = c.shareDoneCopy key h (j - 1) := by
  unfold Chip.shareDoneRepeat
  rw [hk]
  dsimp only
  rw [hj]
  exact if_pos hat

theorem Chip.shareDoneRepeat_waits (hk : c.share? key = some h) (hnot : ¬ ∃ j, h.repeats = some j ∧ h.nextAt ≤ c.now) :
    c.shareDoneRepeat key = c := by
  unfold Chip.shareDoneRepeat
  rw [hk]
  dsimp only
  split
  · next j hj => exact if_neg fun hat => hnot ⟨j, hj, hat⟩
  · rfl

theorem shareDoneRepeat_sends {s : State} {j : Nat} (hk : s.chip.share? key = some h) (hon : s.chip.dom .core = domON)
    (hj : h.repeats = some j) (hat : h.nextAt ≤ s.chip.now) : Ends (.shareDoneRepeat key) s fun d =>
      (j ≤ 1 → d.share? key = none) ∧ (1 < j → ∃ h', d.share? key = some h' ∧ h'.repeats = some (j - 1) ∧ h'.doneMsg = h.doneMsg) := by
  refine ends_of_due exec_shareDoneRepeat (beq_iff_eq.mpr hon) ?_
  rw [Chip.shareDoneRepeat_due hk hj hat]
  refine ⟨fun hlast => ?_, fun hmore => ⟨_, ended_share.trans (Chip.shareDoneCopy_more (by omega)), rfl, rfl⟩⟩
  rw [Nat.sub_eq_zero_of_le hlast, ended_share, Chip.shareDoneCopy_last]

theorem shareDone_idles {i : Instr} {s : State} {f : Chip → Chip} (hi : exec i s = run (fun c => c.whenDue (c.dom .core == domON) f) s)
    (hf : s.chip.dom .core = domON → f s.chip = s.chip) : Idles i s := by
  refine idles_of hi ?_
  by_cases hon : s.chip.dom .core = domON
  · exact (s.chip.whenDue_true f (beq_iff_eq.mpr hon)).trans (hf hon)
  · exact s.chip.whenDue_false f (beq_eq_false_iff_ne.mpr hon)

/-! ### The obligation -/

theorem applyEvent_says {s : State} (hk : s.chip.share? key = some h) :
    (h.fired = false ∧ s.chip.fires = true ∧ h.applyQ ≤ s.chip.net →
      Becomes (.applyEvent key) s (s.chip.setShare key (some { h with fired := true })) [] fun _ => True) ∧
    (¬ (h.fired = false ∧ s.chip.fires = true ∧ h.applyQ ≤ s.chip.net) → Idles (.applyEvent key) s) := by
  refine ⟨fun hf => ?_, fun hf => idles_of exec_applyEvent (Chip.applyEvent_waits hk (mt Share.fires_iff.mp hf))⟩
  refine becomes_of exec_applyEvent ?_ trivial
  rw [Chip.applyEvent_fires hk (Share.fires_iff.mpr hf)]
  exact .refl _

theorem commandExpire_says {s : State} (hk : s.chip.share? key = some h) (hnot : h.expired = false) (hdue : s.chip.expireDue h = true)
    (hcmd : h.cmd = none) : Ends (.commandExpire key []) s fun d =>
      (∃ h', d.share? key = some h' ∧ h'.expired = true ∧ h'.pending = []) ∧ (∀ n' g, n' < 96 → d.stage? key n' = some g → g.items = []) ∧
      (∀ n', n' < 96 → ∀ x ∈ (d.eng n').cmdq, x.share ≠ key) := by
  refine ends_of exec_commandExpire ?_
  rw [Chip.commandExpire_worker hk (by rw [hnot, hdue]; rfl) hcmd]
  refine ⟨⟨_, ended_share.trans (Chip.share?_expireShare hk), rfl, rfl⟩, fun n' g hn hg => ?_, fun n' hn x hx => ?_⟩
  · obtain ⟨hitems, -⟩ := Chip.taken_expireShare (c := s.chip) (key := key) hn
    exact hitems g (ended_stage.symm.trans hg)
  · obtain ⟨-, hqueue⟩ := Chip.taken_expireShare (c := s.chip) (key := key) hn
    rw [ended_eng (n := ⟨n', hn⟩)] at hx
    exact hqueue x hx

theorem Chip.idle_of_due (hon : c.dom .core = domON) (hg : c.stage? key n = some g) (hopen : g.closed = false)
    (hlast : g.last + 100 * usQ ≤ c.now) : (c.dom .core == domON && c.stageIdle key n) = true := by
  rw [hon, Chip.stageIdle_some hg, hopen, decide_eq_true hlast]
  rfl

theorem Chip.idle_not_due (hnot : c.dom .core ≠ domON ∨ c.stage? key n = none ∨
    ∃ g, c.stage? key n = some g ∧ (g.closed = true ∨ c.now < g.last + 100 * usQ)) : (c.dom .core == domON && c.stageIdle key n) = false := by
  rcases hnot with hoff | hnone | ⟨g, hg, hclosed | hearly⟩
  · rw [beq_eq_false_iff_ne.mpr hoff, Bool.false_and]
  · rw [Chip.stageIdle_none hnone, Bool.and_false]
  · rw [Chip.stageIdle_some hg, hclosed, Bool.not_true, Bool.false_and, Bool.and_false]
  · rw [Chip.stageIdle_some hg, decide_eq_false (Nat.not_le.mpr hearly), Bool.and_false, Bool.and_false]

end

/-- Settles O53: a share is read back as it is written, no payload leaves a command queue as the walks and the shares go on, and a copy of
SHARE_DONE leaves its timer. -/
theorem sharesRun : Obligations.SharesRun := by
  unfold Obligations.SharesRun
  intro s k n h c hk
  obtain ⟨hfires, hwaits⟩ := applyEvent_says hk
  refine ⟨hfires, hwaits, fun hnot hdue hcmd => commandExpire_says hk hnot (decide_eq_true hdue) hcmd, fun hnot => ?_, fun g hon hg hopen hlast => ?_,
    fun hnot => stagingIdle_idles (Chip.idle_not_due hnot), fun g hon hone hg hclosed hroom hu => stagingResume_queues hon hone hg hclosed hroom hu,
    fun hoff => idles_of_not_due exec_stagingResume (beq_eq_false_iff_ne.mpr hoff), fun hdone => ?_, fun hnot => ?_,
    fun j hon hj hat => shareDoneRepeat_sends hk hon hj hat, fun hnot => ?_⟩
  · refine idles_of exec_commandExpire (Chip.commandExpire_waits hk ?_)
    rw [Bool.and_eq_true, Bool.not_eq_true', Chip.expireDue, decide_eq_true_iff]
    rcases hnot with hexp | hearly
    · exact fun hd => absurd (hexp.symm.trans hd.1) (by decide)
    · exact fun hd => hearly hd.2
  · have hdue := Chip.idle_of_due hon hg hopen hlast
    exact ⟨stagingIdle_drops hk hg hdue, stagingIdle_queues hk hg hdue, stagingIdle_stalls hk hg hdue hopen⟩
  · obtain ⟨hon, hdue⟩ := hdone
    exact shareDoneSend_sends hk hon hdue
  · exact shareDone_idles exec_shareDoneSend fun hon => Chip.shareDoneSend_waits hk fun hdue => hnot ⟨hon, hdue⟩
  · refine shareDone_idles exec_shareDoneRepeat fun hon => Chip.shareDoneRepeat_waits hk fun hagain => hnot ⟨hon, hagain⟩

end Sys2Proof.Machine
end

section
/-!
PROOF. Leave asked for: a change that leaves what the power manager judges a request by, and each answer to a request by what it leaves.
-/
namespace Sys2Proof.Machine

/-- A request in `d` is judged, and queued, as one in `c` (R71, R75, R80). -/
structure Chip.AsksAs (c d : Chip) : Prop where
  power : d.power = c.power
  now : d.now = c.now
  ceiling : d.fld POWER.CEILING_TOKENS = c.fld POWER.CEILING_TOKENS
  base : d.fld POWER.BASE_TOKENS = c.fld POWER.BASE_TOKENS
  reserve : d.fld POWER.RESERVE_FANOUT_RESERVE = c.fld POWER.RESERVE_FANOUT_RESERVE
  warn : d.fld POWER.LEAVE_WARN_LIMIT = c.fld POWER.LEAVE_WARN_LIMIT
  grants : d.fld POWER.LEAVE_GRANTS_COUNT = c.fld POWER.LEAVE_GRANTS_COUNT
  cost : ∀ i, i < 8 → d.fld POWER.COST_TOKENS 0 i = c.fld POWER.COST_TOKENS 0 i
  prio : ∀ i, i < 8 → d.fld POWER.COST_PRIO 0 i = c.fld POWER.COST_PRIO 0 i

def askRows : List FieldRow := [POWER.CEILING_TOKENS, POWER.BASE_TOKENS, POWER.RESERVE_FANOUT_RESERVE, POWER.LEAVE_WARN_LIMIT,
  POWER.LEAVE_GRANTS_COUNT, POWER.COST_TOKENS, POWER.COST_PRIO]

section
variable {c d e : Chip} {op : LeaveOp} {S : List Part} {R : List Spot}

theorem Chip.Frame.asksAs (h : c.Frame S (Touched R) d) (hp : .power ∉ S) (hw : .whorl ∉ S)
    (hR : (askRows.all fun x => x.placed && decide (0 < x.cls.count) && R.all x.apart) = true) : c.AsksAs d := by
  have hrow (x : FieldRow) (hx : x ∈ askRows) (i : Nat) (hi : i < 8) : d.fld x 0 i = c.fld x 0 i := by
    have hall := List.all_eq_true.mp hR x hx
    rw [Bool.and_eq_true, Bool.and_eq_true, decide_eq_true_iff] at hall
    obtain ⟨⟨hplaced, hcount⟩, hapart⟩ := hall
    exact h.fld_apart x 0 i (by rw [hplaced, hapart]; rfl) hcount (by omega)
  exact
    { power := h.part .power hp
      now := h.now hw
      ceiling := hrow _ (by decide) 0 (by decide)
      base := hrow _ (by decide) 0 (by decide)
      reserve := hrow _ (by decide) 0 (by decide)
      warn := hrow _ (by decide) 0 (by decide)
      grants := hrow _ (by decide) 0 (by decide)
      cost := fun i hi => hrow _ (by decide) i hi
      prio := fun i hi => hrow _ (by decide) i hi }

theorem Chip.AsksAs.budget (h : c.AsksAs d) : d.generalBudget = c.generalBudget := by
  rw [Chip.generalBudget, h.ceiling, h.base, h.reserve, Chip.generalBudget]

theorem Chip.AsksAs.committed (h : c.AsksAs d) : d.committed = c.committed := by
  rw [Chip.committed, h.base, h.reserve, h.power, Chip.committed]

theorem Chip.AsksAs.stopped (h : c.AsksAs d) : d.grantsStopped = c.grantsStopped := by
  rw [Chip.grantsStopped, h.power, h.ceiling, h.committed, Chip.grantsStopped]

theorem Chip.AsksAs.leaveCost (h : c.AsksAs d) (op : LeaveOp) : d.leaveCost op = c.leaveCost op := by
  unfold Chip.leaveCost
  dsimp only
  rw [h.cost _ (LeaveOp.index_lt op)]

theorem Chip.AsksAs.answer (h : c.AsksAs d) (op : LeaveOp) : d.leaveAnswer op = c.leaveAnswer op := by
  unfold Chip.leaveAnswer Chip.reserveFits Chip.reserveUsed
  dsimp only
  rw [h.leaveCost, h.stopped, h.budget, h.reserve, h.power]

theorem Chip.AsksAs.newRequest (h : c.AsksAs d) (op : LeaveOp) : d.newRequest op = c.newRequest op := by
  rw [Chip.newRequest, Chip.leavePrio, h.prio _ (LeaveOp.index_lt op), h.leaveCost, h.now, h.warn, Chip.newRequest, Chip.leavePrio]

/-! ### What becomes of a request -/

/-- The power manager with one more request. -/
def Chip.queuedWith (c : Chip) (op : LeaveOp) : PowerMgr := { c.power with waiting := c.power.waiting ++ [c.newRequest op] }

theorem Chip.AsksAs.queuedWith (h : c.AsksAs d) (op : LeaveOp) : d.queuedWith op = c.queuedWith op := by
  rw [Chip.queuedWith, h.power, h.newRequest, Chip.queuedWith]

theorem Chip.requestLeave_power (h : c.leaveAnswer op = .queued) : (c.requestLeave op).power = c.queuedWith op := by
  rw [Chip.requestLeave, h]
  dsimp only
  split
  · exact Chip.raise_power _ _ _
  · rfl

/-- A fan-out burst that is queued is told. -/
theorem Chip.requestLeave_short (h : c.leaveAnswer op = .queued) (hop : LeaveOp.isFanout op = true) :
    c.requestLeave op = Chip.raise { c with power := c.queuedWith op } EV.POWER_RESERVE_SHORT := by
  rw [Chip.requestLeave, h]
  exact if_pos hop

theorem Chip.requestLeave_granted (h : c.leaveAnswer op = .granted) : c.requestLeave op = c.holdLeave op (c.leaveCost op) true := by
  rw [Chip.requestLeave, h]

/-- A request of another kind than a burst finds the budget large enough, or not. -/
theorem Chip.leaveAnswer_refused_iff (hop : LeaveOp.isFanout op = false) : c.leaveAnswer op = .refused ↔ ¬ (c.leaveCost op : Int) ≤
    c.generalBudget := by
  rw [Chip.leaveAnswer_eq hop]
  split
  · next h => exact ⟨fun _ => Int.not_le.mpr h, fun _ => rfl⟩
  · next h => exact ⟨fun ha => absurd ha (by decide), fun ha => absurd (Int.not_le.mp ha) h⟩

theorem Chip.leaveAnswer_queued_iff (hop : LeaveOp.isFanout op = false) : c.leaveAnswer op = .queued ↔ (c.leaveCost op : Int) ≤ c.generalBudget := by
  rw [Chip.leaveAnswer_eq hop]
  split
  · next h => exact ⟨fun ha => absurd ha (by decide), fun ha => absurd h (Int.not_lt.mpr ha)⟩
  · next h => exact ⟨fun _ => Int.not_lt.mp h, fun _ => rfl⟩

/-! ### What follows the answer -/

/-- An operation that is refused leave, with its own note of it. -/
theorem ended_refused {b : Chip} (h : c.AsksAs d) (htell : c.domUp .aon = d.domUp .aon)
    (hnote : (d.raise EV.POWER_LEAVE_IMPOSSIBLE).Frame [] (Touched R) e) (hR : R.all PageCls.power.evtApart = true) :
    (b.ended e).power = c.power ∧ c.Tells (b.ended e) EV.POWER_LEAVE_IMPOSSIBLE := by
  refine ⟨?_, ?_⟩
  · rw [Chip.ended_power, hnote.part .power (by decide), Chip.raise_power, h.power]
  · have htold : c.Tells (d.raise EV.POWER_LEAVE_IMPOSSIBLE) EV.POWER_LEAVE_IMPOSSIBLE := Chip.tells_raise _ 0 (by decide) htell.symm
    exact (hnote.tells htold (evt_not_touched hR (m := 0) (by decide))).ended (by decide)

/-- An operation whose request is queued, with its own note of it. -/
theorem ended_queued {b : Chip} (h : c.AsksAs d) (hqueued : d.leaveAnswer op = .queued) {K : Nat → Prop}
    (hnote : (d.requestLeave op).Frame [] K e) : (b.ended e).power = c.queuedWith op := by
  rw [Chip.ended_power, hnote.part .power (by decide), Chip.requestLeave_power hqueued, h.queuedWith]
end

end Sys2Proof.Machine
end

section
/-!
PROOF. O21, the requests for leave: a self-test, an uplink, a bulk load and a fan-out burst.
-/
namespace Sys2Proof.Machine

section
variable {s : State} {p : Port} {v : Word}

/-! ### A self-test -/

theorem exec_leaveRequest (op : LeaveOp) (s : State) : exec (.leaveRequest op) s = run (fun c => c.leaveAsk op) s := rfl

theorem Chip.leaveAsk_bist {c : Chip} {b : Nat} (hw : c.leaveWaiting (.bist b) = false) (hh : c.leaveHeld (.bist b) = false) :
    c.leaveAsk (.bist b) = c.requestLeave (.bist b) := if_neg (by rw [hw, hh]; decide)

theorem bist_asks {b : Nat} (hw : s.chip.leaveWaiting (.bist b) = false) (hh : s.chip.leaveHeld (.bist b) = false) :
    (¬ (s.chip.leaveCost (.bist b) : Int) ≤ s.chip.generalBudget →
      SetsRegs (.leaveRequest (.bist b)) s [EV.POWER_LEAVE_IMPOSSIBLE.key 0] fun d => s.chip.Tells d EV.POWER_LEAVE_IMPOSSIBLE) ∧
    ((s.chip.leaveCost (.bist b) : Int) ≤ s.chip.generalBudget →
      Becomes (.leaveRequest (.bist b)) s { s.chip with power := s.chip.queuedWith (.bist b) } [] fun d =>
        d.fld POWER.COMMITTED_WAITING = (s.chip.power.waiting.length + 1) % 256) := by
  refine ⟨fun hno => ?_, fun hfits => ?_⟩
  · have hasked : s.chip.leaveAsk (.bist b) = s.chip.raise EV.POWER_LEAVE_IMPOSSIBLE :=
      (Chip.leaveAsk_bist hw hh).trans (Chip.requestLeave_refused ((Chip.leaveAnswer_refused_iff rfl).mpr hno))
    refine setsRegs_of (exec_leaveRequest _ s) ?_ ?_ <;> rw [hasked]
    · exact (Chip.Frame.refl _).raise _ 0 (by simp)
    · exact ((Chip.Frame.refl (S := []) (K := fun _ => False) _).tells_raise _ 0 (by decide) id).ended (by decide)
  · have hqueued := (Chip.leaveAnswer_queued_iff rfl).mpr hfits
    have hasked : s.chip.leaveAsk (.bist b) = { s.chip with power := s.chip.queuedWith (.bist b) } :=
      (Chip.leaveAsk_bist hw hh).trans (Chip.requestLeave_queued hqueued rfl)
    refine becomes_of (exec_leaveRequest _ s) ?_ ?_ <;> rw [hasked]
    · exact .refl _
    · rw [Chip.LevelsAgree.waiting (Chip.ended_levelsAgree _ _), Chip.ended_power, Chip.queuedWith, List.length_append]
      rfl

/-! ### An uplink -/

theorem Chip.leaveAsk_uplink {c : Chip} {n : Fin 4} (hw : c.leaveWaiting (.uplink n) = false) (hh : c.leaveHeld (.uplink n) = false) :
    c.leaveAsk (.uplink n) = c.uplinkTry n.val := if_neg (by rw [hw, hh]; decide)

theorem uplink_asks {n : Fin 4} (hw : s.chip.leaveWaiting (.uplink n) = false) (hh : s.chip.leaveHeld (.uplink n) = false)
    (hmay : s.chip.MayTry n.val) (hok : ¬ (s.chip.fld UPLINK.CFG_SPEED n.val = 0 ∧ s.chip.fld UPLINK.CFG_FEC_EN n.val = 1)) :
    (¬ (s.chip.leaveCost (.uplink n) : Int) ≤ s.chip.generalBudget → Ends (.leaveRequest (.uplink n)) s fun d => d.power = s.chip.power ∧
      d.fld UPLINK.LINK_STATUS_NO_LEAVE n.val = 1 ∧ d.fld UPLINK.LINK_STATUS_STATE n.val = ulOFF ∧ s.chip.Tells d EV.POWER_LEAVE_IMPOSSIBLE) ∧
    ((s.chip.leaveCost (.uplink n) : Int) ≤ s.chip.generalBudget → Ends (.leaveRequest (.uplink n)) s fun d =>
      d.power = s.chip.queuedWith (.uplink n) ∧ d.fld UPLINK.LINK_STATUS_STATE n.val = ulLEAVE) := by
  obtain ⟨hfix, -⟩ := s.chip.linkFixed_says n.isLt
  have hsame : s.chip.AsksAs (s.chip.linkFixed n.val) := hfix.asksAs (by decide) (by decide) (by decide)
  have hst : (s.chip.linkFixed n.val).ulSt n.val = ulOFF :=
    (hfix.fld_apart UPLINK.LINK_STATUS_STATE n.val 0 (by decide) n.isLt (by decide)).trans hmay.1
  have hasked : s.chip.leaveAsk (.uplink n) = (s.chip.linkFixed n.val).linkAsks n.val n.isLt :=
    (Chip.leaveAsk_uplink hw hh).trans (Chip.uplinkTry_asks n.isLt hmay hok)
  refine ⟨fun hno => ends_of (exec_leaveRequest _ s) ?_, fun hfits => ends_of (exec_leaveRequest _ s) ?_⟩ <;> rw [hasked]
  · have hrefused : (s.chip.linkFixed n.val).leaveAnswer (.uplink n) = .refused :=
      (hsame.answer _).trans ((Chip.leaveAnswer_refused_iff rfl).mpr hno)
    obtain ⟨hstays, hnoted⟩ := Chip.linkAsks_refused n.isLt hrefused
    have heq : (s.chip.linkFixed n.val).linkAsks n.val n.isLt =
        ((s.chip.linkFixed n.val).raise EV.POWER_LEAVE_IMPOSSIBLE).setFld UPLINK.LINK_STATUS_NO_LEAVE 1 n.val := by
      rw [Chip.linkAsks, hrefused, ← Chip.requestLeave_refused hrefused]
    have hnote : ((s.chip.linkFixed n.val).raise EV.POWER_LEAVE_IMPOSSIBLE).Frame [] (Touched [.one UPLINK.LINK_STATUS_NO_LEAVE])
        ((s.chip.linkFixed n.val).linkAsks n.val n.isLt) := by
      rw [heq]
      exact (Chip.Frame.refl _).setFld _ _ _ _ (cells_one (by simp) n.isLt)
    obtain ⟨hpower, htells⟩ := ended_refused (b := s.chip) hsame (hfix.domUp .aon (not_touched (by decide) 0 0 (by decide) (by decide))).symm
      hnote (by decide)
    exact ⟨hpower, (Chip.ended_inst (by decide) n.isLt (by decide)).trans hnoted,
      (Chip.ended_inst (by decide) n.isLt (by decide)).trans (hstays.trans hst), htells⟩
  · have hqueued : (s.chip.linkFixed n.val).leaveAnswer (.uplink n) = .queued :=
      (hsame.answer _).trans ((Chip.leaveAnswer_queued_iff rfl).mpr hfits)
    obtain ⟨hleave, -⟩ := Chip.linkAsks_queued n.isLt hqueued
    have heq : (s.chip.linkFixed n.val).linkAsks n.val n.isLt =
        ((s.chip.linkFixed n.val).requestLeave (.uplink n)).setUlSt n.val ulLEAVE := by
      rw [Chip.linkAsks, hqueued]
    have hnote : ((s.chip.linkFixed n.val).requestLeave (.uplink n)).Frame [] (fun _ => True)
        ((s.chip.linkFixed n.val).linkAsks n.val n.isLt) := by
      rw [heq]
      exact (Chip.Frame.refl _).setFld _ _ _ _ trivial
    exact ⟨ended_queued hsame hqueued hnote, (Chip.ended_inst (by decide) n.isLt (by decide)).trans hleave⟩

/-! ### Bulk loads -/

theorem exec_carderBulkGo (s : State) : exec (.carderBulkGo p v) s =
    run (fun c => c.accessField p CARDER.BULK_CMD_GO 0 fun d => d.bulkCmd p v.toNat) s := rfl

theorem exec_distaffBulkGo (s : State) : exec (.distaffBulkGo p v) s =
    run (fun c => c.accessField p DISTAFF.BULK_CMD_GO 0 fun d => d.dirBulkCmd p v.toNat) s := rfl

/-- A bulk load that asks: its state follows the answer, and a refusal is told. -/
theorem bulk_asks {b c d : Chip} {op : LeaveOp} {r : FieldRow} {err : Evt} (hsame : c.AsksAs d) (haon : c.domUp .aon = d.domUp .aon)
    (hop : LeaveOp.isFanout op = false) (hr : (r.placed && r.cls.unlevelled) = true) (hcls : r.cls.count = 1) (herr : err.cls = r.cls)
    (hwide : bkNOLEAVE < 2 ^ r.width) (hev : [Spot.one r, Spot.evt r.cls].all PageCls.power.evtApart = true)
    (hoff : r.apart (.evt r.cls) = true) :
    (¬ (c.leaveCost op : Int) ≤ c.generalBudget → ∀ e, e = ((d.requestLeave op).setFld r bkNOLEAVE).raise err →
      (b.ended e).power = c.power ∧ (b.ended e).fld r = bkNOLEAVE ∧ c.Tells (b.ended e) EV.POWER_LEAVE_IMPOSSIBLE) ∧
    ((c.leaveCost op : Int) ≤ c.generalBudget → ∀ e, e = (d.requestLeave op).setFld r bkLEAVE →
      (b.ended e).power = c.queuedWith op ∧ (b.ended e).fld r = bkLEAVE) := by
  have hcount : 0 < r.cls.count := by rw [hcls]; decide
  refine ⟨fun hno e he => ?_, fun hfits e he => ?_⟩ <;> subst he
  · have hrefused : d.leaveAnswer op = .refused := (hsame.answer op).trans ((Chip.leaveAnswer_refused_iff hop).mpr hno)
    rw [Chip.requestLeave_refused hrefused]
    have hnote : (d.raise EV.POWER_LEAVE_IMPOSSIBLE).Frame [] (Touched [.one r, .evt r.cls])
        (((d.raise EV.POWER_LEAVE_IMPOSSIBLE).setFld r bkNOLEAVE).raise err) :=
      ((Chip.Frame.refl _).setFld _ _ _ _ (cells_one (by simp) hcount)).raise _ _ (herr ▸ cells_evt (cls := err.cls) (n := 0) (by simp [herr]) (by
          rw [herr]; exact hcount))
    obtain ⟨hpower, htells⟩ := ended_refused (b := b) hsame haon hnote hev
    refine ⟨hpower, ?_, htells⟩
    have hplaced : r.placed = true := (Bool.and_eq_true _ _ ▸ hr).1
    rw [Chip.ended_inst hr hcount (by decide), Chip.fld_raise_apart (by rw [herr, hplaced, hoff]; rfl) (by rw [herr]; exact hcount) hcount (by
        decide),
      Chip.fld_setFld_self]
    exact Nat.mod_eq_of_lt hwide
  · have hqueued : d.leaveAnswer op = .queued := (hsame.answer op).trans ((Chip.leaveAnswer_queued_iff hop).mpr hfits)
    have hnote : (d.requestLeave op).Frame [] (fun _ => True) ((d.requestLeave op).setFld r bkLEAVE) := (Chip.Frame.refl _).setFld _ _ _ _ trivial
    refine ⟨ended_queued hsame hqueued hnote, ?_⟩
    rw [Chip.ended_inst hr hcount (by decide), Chip.fld_setFld_self]
    exact Nat.mod_eq_of_lt (Nat.lt_trans (by decide) hwide)

theorem Chip.bulkGo_asks {c : Chip} (hinit : c.fld CARDER.BANK_STATUS_INIT_DONE ≠ 0) (hb : ¬ c.bulkBusy) :
    (c.leaveAnswer .ruleLoad = .refused →
      c.bulkGo p = ((c.bulkArmed.requestLeave .ruleLoad).setFld CARDER.BULK_STATUS_STATE bkNOLEAVE).raise EV.CARDER_BULK_ERROR) ∧
    (c.leaveAnswer .ruleLoad = .queued → c.bulkGo p = (c.bulkArmed.requestLeave .ruleLoad).setFld CARDER.BULK_STATUS_STATE bkLEAVE) := by
  refine ⟨fun ha => ?_, Chip.bulkGo_queued hinit hb⟩
  rw [Chip.bulkGo_impossible hinit hb ha, Chip.requestLeave_refused (c.leaveAnswer_bulkArmed.trans ha)]

theorem carderBulk_asks (hv : v.toNat % 4 = 1) (hopen : s.chip.Open p .carder 0) (hinit : s.chip.fld CARDER.BANK_STATUS_INIT_DONE ≠ 0)
    (hb : s.chip.fld CARDER.BULK_STATUS_STATE ∉ [bkLEAVE, bkRUNNING]) :
    (¬ (s.chip.leaveCost .ruleLoad : Int) ≤ s.chip.generalBudget → Ends (.carderBulkGo p v) s fun d => d.power = s.chip.power ∧
      d.fld CARDER.BULK_STATUS_STATE = bkNOLEAVE ∧ s.chip.Tells d EV.POWER_LEAVE_IMPOSSIBLE) ∧
    ((s.chip.leaveCost .ruleLoad : Int) ≤ s.chip.generalBudget → Ends (.carderBulkGo p v) s fun d =>
      d.power = s.chip.queuedWith .ruleLoad ∧ d.fld CARDER.BULK_STATUS_STATE = bkLEAVE) := by
  have hbusy : ¬ s.chip.bulkBusy := by
    rw [List.mem_cons, List.mem_singleton, not_or] at hb
    exact not_or.mpr hb
  obtain ⟨hrefused, hqueued⟩ := Chip.bulkGo_asks (p := p) hinit hbusy
  have harmed : s.chip.Frame [.carder] (Touched [.one CARDER.BULK_STATUS_DONE]) s.chip.bulkArmed :=
    ((Chip.Frame.refl _).withCarder _ (by decide)).setFld _ _ 0 0 (cells_one (by simp) (by decide))
  obtain ⟨hno, hyes⟩ := bulk_asks (b := s.chip) (op := .ruleLoad) (r := CARDER.BULK_STATUS_STATE) (err := EV.CARDER_BULK_ERROR)
    (harmed.asksAs (by decide) (by decide) (by decide)) (harmed.domUp .aon (not_touched (by decide) 0 0 (by decide) (by decide))).symm
    rfl (by decide) rfl rfl (by decide) (by decide) (by decide)
  refine ⟨fun h => ends_of_access (exec_carderBulkGo s) hopen ?_, fun h => ends_of_access (exec_carderBulkGo s) hopen ?_⟩ <;>
    rw [Chip.bulkCmd_go _ _ hv]
  · exact hno h _ (hrefused ((Chip.leaveAnswer_refused_iff rfl).mpr h))
  · exact hyes h _ (hqueued ((Chip.leaveAnswer_queued_iff rfl).mpr h))

theorem Chip.dirBulkCmd_go (c : Chip) (p : Port) {v : Nat} (h : v % 4 = 1) : c.dirBulkCmd p v = c.dirBulkGo p := by
  have h0 : bitsOf v 0 0 = 1 := by simp only [bitsOf]; omega
  have h1 : bitsOf v 1 1 = 0 := by simp only [bitsOf]; omega
  rw [Chip.dirBulkCmd, h0, h1]
  rfl

/-- A directory load as it is begun: the count is latched (R377). -/
def Chip.dirArmed (c : Chip) : Chip :=
  (c.updDistaff fun d => { d with bulkLeft := c.fld DISTAFF.BULK_COUNT_RECORDS }).setFld DISTAFF.BULK_STATUS_DONE 0

theorem Chip.dirArmed_frame (c : Chip) : c.Frame [.distaff] (Touched [.one DISTAFF.BULK_STATUS_DONE]) c.dirArmed :=
  ((Chip.Frame.refl _).withDistaff _ (by decide)).setFld _ _ 0 0 (cells_one (by simp) (by decide))

theorem Chip.dirBulkGo_idle {c : Chip} (hb : ¬ (c.dirBulkSt = bkLEAVE ∨ c.dirBulkSt = bkRUNNING)) : c.dirBulkGo p =
    match c.dirArmed.leaveAnswer .dirLoad with
    | .refused => ((c.dirArmed.requestLeave .dirLoad).setFld DISTAFF.BULK_STATUS_STATE bkNOLEAVE).raise EV.DISTAFF_BULK_ERROR
    | _ => (c.dirArmed.requestLeave .dirLoad).setFld DISTAFF.BULK_STATUS_STATE bkLEAVE := by
  unfold Chip.dirBulkGo
  rw [if_neg hb]
  rfl

theorem Chip.dirBulkGo_asks {c : Chip} (hb : ¬ (c.dirBulkSt = bkLEAVE ∨ c.dirBulkSt = bkRUNNING)) :
    (c.dirArmed.leaveAnswer .dirLoad = .refused →
      c.dirBulkGo p = ((c.dirArmed.requestLeave .dirLoad).setFld DISTAFF.BULK_STATUS_STATE bkNOLEAVE).raise EV.DISTAFF_BULK_ERROR) ∧
    (c.dirArmed.leaveAnswer .dirLoad = .queued →
      c.dirBulkGo p = (c.dirArmed.requestLeave .dirLoad).setFld DISTAFF.BULK_STATUS_STATE bkLEAVE) := by
  refine ⟨fun ha => ?_, fun ha => ?_⟩ <;> rw [Chip.dirBulkGo_idle hb, ha]

theorem distaffBulk_asks (hv : v.toNat % 4 = 1) (hopen : s.chip.Open p .distaff 0)
    (hb : s.chip.fld DISTAFF.BULK_STATUS_STATE ∉ [bkLEAVE, bkRUNNING]) :
    (¬ (s.chip.leaveCost .dirLoad : Int) ≤ s.chip.generalBudget → Ends (.distaffBulkGo p v) s fun d => d.power = s.chip.power ∧
      d.fld DISTAFF.BULK_STATUS_STATE = bkNOLEAVE ∧ s.chip.Tells d EV.POWER_LEAVE_IMPOSSIBLE) ∧
    ((s.chip.leaveCost .dirLoad : Int) ≤ s.chip.generalBudget → Ends (.distaffBulkGo p v) s fun d =>
      d.power = s.chip.queuedWith .dirLoad ∧ d.fld DISTAFF.BULK_STATUS_STATE = bkLEAVE) := by
  have hbusy : ¬ (s.chip.dirBulkSt = bkLEAVE ∨ s.chip.dirBulkSt = bkRUNNING) := by
    rw [List.mem_cons, List.mem_singleton, not_or] at hb
    exact not_or.mpr hb
  obtain ⟨hrefused, hqueued⟩ := Chip.dirBulkGo_asks (p := p) hbusy
  have harmed := s.chip.dirArmed_frame
  have hsame : s.chip.AsksAs s.chip.dirArmed := harmed.asksAs (by decide) (by decide) (by decide)
  obtain ⟨hno, hyes⟩ := bulk_asks (b := s.chip) (op := .dirLoad) (r := DISTAFF.BULK_STATUS_STATE) (err := EV.DISTAFF_BULK_ERROR) hsame
    (harmed.domUp .aon (not_touched (by decide) 0 0 (by decide) (by decide))).symm rfl (by decide) rfl rfl (by decide) (by decide) (by decide)
  refine ⟨fun h => ends_of_access (exec_distaffBulkGo s) hopen ?_, fun h => ends_of_access (exec_distaffBulkGo s) hopen ?_⟩ <;>
    rw [Chip.dirBulkCmd_go _ _ hv]
  · exact hno h _ (hrefused ((hsame.answer _).trans ((Chip.leaveAnswer_refused_iff rfl).mpr h)))
  · exact hyes h _ (hqueued ((hsame.answer _).trans ((Chip.leaveAnswer_queued_iff rfl).mpr h)))

/-! ### A fan-out burst (R80) -/

theorem exec_fanoutLeaveRequest (k : Nat) (s : State) : exec (.fanoutLeaveRequest k) s =
    run (fun c => c.whenDue (c.dom .core == domON) fun d => d.fanLeave k) s := rfl

/-- The share notes that it has asked. -/
def Chip.fanAsked (c : Chip) (k : Nat) : Chip := c.updShare k fun h => { h with asked := true }

theorem Chip.fanAsked_frame (c : Chip) (k : Nat) : c.Frame [.distaff] (Touched []) (c.fanAsked k) := by
  unfold Chip.fanAsked Chip.updShare
  split
  · exact Chip.setShare_frame _
  · exact .refl c

theorem Chip.fanLeave_asks {c : Chip} {k : Nat} {h : Share} {m : FanCmd} (hk : c.share? k = some h) (hcmd : h.cmd = some m)
    (hdue : (m.phase == .waiting && !h.asked && c.fanHeavy m && decide (h.startQ m - (msQ : Nat) ≤ c.net)) = true) : c.fanLeave k =
    if c.leaveAnswer (.fanout k) == .refused then ((c.fanAsked k).requestLeave (.fanout k)).fanEnd k m csNOLEAVE
    else (c.fanAsked k).requestLeave (.fanout k) := by
  unfold Chip.fanLeave Chip.onFan
  rw [hk]
  dsimp only
  rw [hcmd]
  exact if_pos hdue

theorem Chip.share?_dropShare {c : Chip} {k : Nat} : (c.dropShare k).share? k = none := by
  unfold Chip.dropShare
  exact Chip.share?_setShare_self (c := c.releaseLeave (.fanout k)) none

theorem Chip.share?_fanEnd {c : Chip} {k : Nat} {m : FanCmd} {st : Nat} : (c.fanEnd k m st).share? k = none := by
  unfold Chip.fanEnd
  extract_lets d e
  exact Chip.share?_dropShare

def fanEndSpots : List Spot := [.many HOSTQ.LEDGER_ENTRY0_FROZEN, .many HOSTQ.LEDGER_ENTRY0_STATE, .many HOSTQ.LEDGER_ENTRY0_STATUS]

theorem Chip.fanEnd_frame (c : Chip) (k : Nat) (m : FanCmd) (st : Nat) :
    c.Frame [.power, .distaff, .fates, .txOps, .hostq, .hank] (Touched fanEndSpots) (c.fanEnd k m st) := by
  have hresult : c.Frame [.power, .distaff, .fates, .txOps, .hostq, .hank] (Touched fanEndSpots) (c.fanResult k m) :=
    (Chip.Frame.refl c).withTxOps _ (by decide)
  have hdone : (c.fanResult k m).Frame [.power, .distaff, .fates, .txOps, .hostq, .hank] (Touched fanEndSpots)
      (if (c.fanResult k m).opLive m.tag then (c.fanResult k m).opDone m.tag st else c.fanResult k m) :=
    .ite (fun _ => (Chip.away_eq_iff.mp (Chip.away_opDone (List.Subset.refl _) (List.Subset.refl _))).mono (by decide) fun _ hk => hk)
      fun _ => .refl _
  unfold Chip.fanEnd
  extract_lets d e
  have hended : c.Frame [.power, .distaff, .fates, .txOps, .hostq, .hank] (Touched fanEndSpots) e := hresult.trans hdone
  have hlost : c.Frame [.power, .distaff, .fates, .txOps, .hostq, .hank] (Touched fanEndSpots) (e.orphanMsgs k) := hended.withHank _ (by decide)
  exact ((hlost.andThen (Chip.releaseLeave_frame _ _) (by decide) fun _ hk => hk).withDistaff _ (by decide)).withFates _ (by decide)

end

end Sys2Proof.Machine
end

section
/-!
PROOF. O21: the request of a fan-out burst, and what the power manager grants.
-/
namespace Sys2Proof.Machine

section
variable {c d : Chip} {s : State} {k : Nat} {h : Share} {m : FanCmd} {r : LeaveReq}

theorem Chip.stopped_iff : c.grantsStopped = true ↔ c.power.ceilingCut = true ∧ c.fld POWER.CEILING_TOKENS < c.committed := by
  rw [Chip.grantsStopped, Bool.and_eq_true, decide_eq_true_iff]

/-- The reserve holds the burst, and grants are not stopped. -/
def Chip.burstFree (c : Chip) (k : Nat) : Prop :=
  c.leaveCost (.fanout k) + c.reserveUsed ≤ c.fld POWER.RESERVE_FANOUT_RESERVE ∧
    ¬ (c.power.ceilingCut = true ∧ c.fld POWER.CEILING_TOKENS < c.committed)

/-- No budget could ever hold the burst. -/
def Chip.burstNever (c : Chip) (k : Nat) : Prop :=
  ¬ (c.leaveCost (.fanout k) : Int) ≤ c.generalBudget ∧ c.fld POWER.RESERVE_FANOUT_RESERVE < c.leaveCost (.fanout k)

theorem Chip.burstFree_iff : (c.reserveFits (c.leaveCost (.fanout k)) && !c.grantsStopped) = true ↔ c.burstFree k := by
  rw [Bool.and_eq_true, Bool.not_eq_true', Chip.reserveFits, decide_eq_true_iff, Chip.burstFree, ← Chip.stopped_iff, Bool.not_eq_true]

theorem Chip.leaveAnswer_burst (c : Chip) (k : Nat) : c.leaveAnswer (.fanout k) =
    if c.reserveFits (c.leaveCost (.fanout k)) && !c.grantsStopped then .granted
    else if c.generalBudget < c.leaveCost (.fanout k) ∧ c.fld POWER.RESERVE_FANOUT_RESERVE < c.leaveCost (.fanout k) then .refused
    else .queued := rfl

theorem Chip.burst_granted (hfree : c.burstFree k) : c.leaveAnswer (.fanout k) = .granted := by
  rw [Chip.leaveAnswer_burst, if_pos (Chip.burstFree_iff.mpr hfree)]

theorem Chip.burst_refused (hfree : ¬ c.burstFree k) (hnever : c.burstNever k) : c.leaveAnswer (.fanout k) = .refused := by
  obtain ⟨hbudget, hreserve⟩ := hnever
  rw [Chip.leaveAnswer_burst, if_neg (mt Chip.burstFree_iff.mp hfree), if_pos ⟨Int.not_le.mp hbudget, hreserve⟩]

theorem Chip.burst_queued (hfree : ¬ c.burstFree k) (hnever : ¬ c.burstNever k) : c.leaveAnswer (.fanout k) = .queued := by
  rw [Chip.leaveAnswer_burst, if_neg (mt Chip.burstFree_iff.mp hfree)]
  exact if_neg fun hn => hnever ⟨Int.not_le.mpr hn.1, hn.2⟩

/-- A burst asks: as the request of the block whose share has noted it. -/
structure Chip.BurstAsks (c : Chip) (k : Nat) (h : Share) (m : FanCmd) : Prop where
  share : c.share? k = some h
  cmd : h.cmd = some m
  core : c.dom .core = domON
  waits : m.phase = .waiting
  asked : h.asked = false
  heavy : 4096 < c.groupTotal m.group
  start : h.startQ m - (msQ : Nat) ≤ c.net

theorem Chip.BurstAsks.due (h' : c.BurstAsks k h m) : (c.dom .core == domON) = true := beq_iff_eq.mpr h'.core

theorem Chip.BurstAsks.leave (h' : c.BurstAsks k h m) : c.fanLeave k =
    if c.leaveAnswer (.fanout k) == .refused then ((c.fanAsked k).requestLeave (.fanout k)).fanEnd k m csNOLEAVE
    else (c.fanAsked k).requestLeave (.fanout k) :=
  Chip.fanLeave_asks h'.share h'.cmd
    (by rw [h'.waits, h'.asked, Chip.fanHeavy, decide_eq_true h'.heavy, decide_eq_true h'.start]; rfl)

theorem Chip.BurstAsks.asks (h' : c.BurstAsks k h m) (ha : c.leaveAnswer (.fanout k) ≠ .refused) :
    c.fanLeave k = (c.fanAsked k).requestLeave (.fanout k) := h'.leave.trans (if_neg (by rw [beq_iff_eq]; exact ha))

theorem Chip.fanAsked_asksAs (c : Chip) (k : Nat) : c.AsksAs (c.fanAsked k) :=
  (c.fanAsked_frame k).asksAs (by decide) (by decide) (by decide)

theorem Chip.fanAsked_aon (c : Chip) (k : Nat) : (c.fanAsked k).domUp .aon = c.domUp .aon :=
  (c.fanAsked_frame k).domUp .aon (not_touched (by decide) 0 0 (by decide) (by decide))

/-- The power manager with one more leave held. -/
def Chip.heldWith (c : Chip) (op : LeaveOp) (cost : Nat) (reserve : Bool) : PowerMgr :=
  { c.power with held := c.power.held ++ [{ op := op, cost := cost, reserve := reserve }] }

theorem Chip.holdLeave_power (c : Chip) (op : LeaveOp) (cost : Nat) (reserve : Bool) :
    (c.holdLeave op cost reserve).power = c.heldWith op cost reserve := rfl

theorem Chip.heldWith_congr (hp : d.power = c.power) (op : LeaveOp) (cost : Nat) (reserve : Bool) :
    d.heldWith op cost reserve = c.heldWith op cost reserve := by rw [Chip.heldWith, hp, Chip.heldWith]

theorem Chip.holdLeave_count (c : Chip) (op : LeaveOp) (cost : Nat) (reserve : Bool) :
    (c.holdLeave op cost reserve).fld POWER.LEAVE_GRANTS_COUNT = (c.fld POWER.LEAVE_GRANTS_COUNT + 1) % 2 ^ 32 := Chip.fld_bumpWrap_self _ _ _ _

theorem burst_takes (h' : s.chip.BurstAsks k h m) (hfree : s.chip.burstFree k) : Ends (.fanoutLeaveRequest k) s fun d =>
    d.fld POWER.LEAVE_GRANTS_COUNT = (s.chip.fld POWER.LEAVE_GRANTS_COUNT + 1) % 2 ^ 32 ∧
      d.power = s.chip.heldWith (.fanout k) (s.chip.leaveCost (.fanout k)) true := by
  have hsame := s.chip.fanAsked_asksAs k
  have ha := Chip.burst_granted hfree
  refine ends_of_due (exec_fanoutLeaveRequest k s) h'.due ?_
  rw [h'.asks (by rw [ha]; decide), Chip.requestLeave_granted ((hsame.answer _).trans ha), hsame.leaveCost]
  refine ⟨?_, ?_⟩
  · rw [Chip.ended_fld _ _ _ _ _ (by decide), Chip.holdLeave_count, hsame.grants]
  · rw [Chip.ended_power, Chip.holdLeave_power, Chip.heldWith_congr hsame.power]

theorem burst_waits (h' : s.chip.BurstAsks k h m) (hfree : ¬ s.chip.burstFree k) (hnever : ¬ s.chip.burstNever k) :
    Ends (.fanoutLeaveRequest k) s fun d => d.power = s.chip.queuedWith (.fanout k) ∧ s.chip.Tells d EV.POWER_RESERVE_SHORT := by
  have hsame := s.chip.fanAsked_asksAs k
  have ha := Chip.burst_queued hfree hnever
  have hqueued := (hsame.answer _).trans ha
  have hpower : (s.chip.ended ((s.chip.fanAsked k).requestLeave (.fanout k))).power = s.chip.queuedWith (.fanout k) :=
    ended_queued hsame hqueued (.refl (S := []) (K := fun _ => True) _)
  have hwaits : s.chip.Frame [.distaff, .power] (Touched []) { s.chip.fanAsked k with power := (s.chip.fanAsked k).queuedWith (.fanout k) } :=
    ((s.chip.fanAsked_frame k).mono (by decide) fun _ hk => hk).withPower _ (by decide)
  have htold := hwaits.tells_raise EV.POWER_RESERVE_SHORT 0 (by decide) (not_touched (by decide) 0 0 (by decide) (by decide))
  refine ends_of_due (exec_fanoutLeaveRequest k s) h'.due ?_
  rw [h'.asks (by rw [ha]; decide)]
  refine ⟨hpower, ?_⟩
  rw [Chip.requestLeave_short hqueued rfl]
  exact htold.ended (by decide)

theorem burst_ends (h' : s.chip.BurstAsks k h m) (hfree : ¬ s.chip.burstFree k) (hnever : s.chip.burstNever k) :
    Ends (.fanoutLeaveRequest k) s fun d => d.share? k = none ∧ s.chip.Tells d EV.POWER_LEAVE_IMPOSSIBLE := by
  have hsame := s.chip.fanAsked_asksAs k
  have ha := Chip.burst_refused hfree hnever
  have htold : s.chip.Tells ((s.chip.fanAsked k).raise EV.POWER_LEAVE_IMPOSSIBLE) EV.POWER_LEAVE_IMPOSSIBLE :=
    Chip.tells_raise _ 0 (by decide) (s.chip.fanAsked_aon k)
  have hended := Chip.fanEnd_frame ((s.chip.fanAsked k).raise EV.POWER_LEAVE_IMPOSSIBLE) k m csNOLEAVE
  refine ends_of_due (exec_fanoutLeaveRequest k s) h'.due ?_
  rw [h'.leave, if_pos (beq_iff_eq.mpr ha), Chip.requestLeave_refused ((hsame.answer _).trans ha)]
  exact ⟨ended_share.trans Chip.share?_fanEnd, (hended.tells htold (evt_not_touched (a := .power) (by decide) (m := 0) (by decide))).ended (by
      decide)⟩

/-! ### Grants -/

theorem exec_leaveGrant (s : State) : exec .leaveGrant s = run Chip.leaveGrant s := rfl

theorem Chip.leaveGrant_some {reserve : Bool} (hr : c.headReq = some r) (hg : c.grantable r = some reserve) :
    c.leaveGrant = (c.grantHead r reserve).leaveUsed r.op := by
  rw [Chip.leaveGrant, hr]
  dsimp only
  rw [hg]

theorem Chip.leaveGrant_none (hr : c.headReq = some r) (hg : c.grantable r = none) : c.leaveGrant = c := by
  rw [Chip.leaveGrant, hr]
  dsimp only
  rw [hg]

/-- Under a cut ceiling nothing is granted (R77). -/
theorem Chip.leaveGrant_stopped (hs : c.grantsStopped = true) : c.leaveGrant = c := by
  rcases hr : c.headReq with _ | r
  · rw [Chip.leaveGrant, hr]
  · exact Chip.leaveGrant_none hr (if_pos hs)

theorem Chip.grantable_eq (r : LeaveReq) : c.grantable r = if c.grantsStopped then none
    else if LeaveOp.isFanout r.op then
      if c.reserveFits r.cost then some true
      else if c.generalBudget < r.cost then none
      else if decide (c.committed + r.cost ≤ c.fld POWER.CEILING_TOKENS) then some false else none
    else if decide (c.committed + r.cost ≤ c.fld POWER.CEILING_TOKENS) then some false else none := rfl

theorem Chip.not_stopped_of_fits (h : c.committed + r.cost ≤ c.fld POWER.CEILING_TOKENS) : ¬ c.grantsStopped = true := by
  rw [Chip.stopped_iff]
  omega

theorem Chip.grantable_fits (hop : LeaveOp.isFanout r.op = false) (h : c.committed + r.cost ≤ c.fld POWER.CEILING_TOKENS) :
    c.grantable r = some false := by
  rw [Chip.grantable_eq, if_neg (Chip.not_stopped_of_fits h), if_neg (by rw [hop]; decide), if_pos (decide_eq_true h)]

theorem Chip.grantable_tight (hop : LeaveOp.isFanout r.op = false) (h : ¬ c.committed + r.cost ≤ c.fld POWER.CEILING_TOKENS) :
    c.grantable r = none := by
  have hnot : ¬ decide (c.committed + r.cost ≤ c.fld POWER.CEILING_TOKENS) = true := by rwa [decide_eq_true_iff]
  rw [Chip.grantable_eq, hop, if_neg hnot]
  exact ite_self _

theorem Chip.grantable_spare (hop : LeaveOp.isFanout r.op = true) (hs : ¬ c.grantsStopped = true)
    (h : r.cost + c.reserveUsed ≤ c.fld POWER.RESERVE_FANOUT_RESERVE) : c.grantable r = some true := by
  have hfits : c.reserveFits r.cost = true := decide_eq_true h
  rw [Chip.grantable_eq, if_neg hs, if_pos hop, if_pos hfits]

theorem Chip.grantable_general (hop : LeaveOp.isFanout r.op = true) (hs : ¬ c.grantsStopped = true)
    (h : ¬ r.cost + c.reserveUsed ≤ c.fld POWER.RESERVE_FANOUT_RESERVE) : c.grantable r =
      if c.generalBudget < r.cost then none
      else if decide (c.committed + r.cost ≤ c.fld POWER.CEILING_TOKENS) then some false else none := by
  rw [Chip.grantable_eq, if_neg hs, if_pos hop, if_neg (by rw [Chip.reserveFits, decide_eq_true_iff]; exact h)]

/-- The head is granted, in the power manager's record: it is counted, it waits no more, and its leave is held. -/
structure Chip.Grants (c d : Chip) (r : LeaveReq) (reserve : Bool) : Prop where
  count : d.fld POWER.LEAVE_GRANTS_COUNT = (c.fld POWER.LEAVE_GRANTS_COUNT + 1) % 2 ^ 32
  waiting : d.power.waiting = c.power.waiting.erase r
  held : d.power.held = c.power.held ++ [{ op := r.op, cost := r.cost, reserve := reserve }]

theorem Chip.grants_grantHead (c : Chip) (r : LeaveReq) (reserve : Bool) : c.Grants (c.grantHead r reserve) r reserve :=
  { count := Chip.fld_bumpWrap_self _ _ _ _
    waiting := rfl
    held := rfl }

theorem Chip.grantHead_frame (c : Chip) (r : LeaveReq) (reserve : Bool) :
    c.Frame [.power] (Touched [.one POWER.LEAVE_GRANTS_COUNT]) (c.grantHead r reserve) :=
  (((Chip.Frame.refl c).withPower _ (by decide)).withPower _ (by decide)).setFld _ _ 0 0 (cells_one (by simp) (by decide))

theorem Chip.Grants.since {reserve : Bool} {S : List Part} {K : Nat → Prop} {e : Chip} (h : c.Grants d r reserve) (hf : d.Frame S K e)
    (hp : .power ∉ S) (hk : ¬ K (POWER.LEAVE_GRANTS_COUNT.key 0 0)) : c.Grants e r reserve :=
  { count := (hf.fld _ _ _ hk).trans h.count
    waiting := (congrArg PowerMgr.waiting (hf.part .power hp)).trans h.waiting
    held := (congrArg PowerMgr.held (hf.part .power hp)).trans h.held }

theorem Chip.Grants.ended {reserve : Bool} {b : Chip} (h : c.Grants d r reserve) : c.Grants (b.ended d) r reserve :=
  { count := (Chip.ended_fld _ _ _ _ _ (by decide)).trans h.count
    waiting := (congrArg PowerMgr.waiting (Chip.ended_power _ _)).trans h.waiting
    held := (congrArg PowerMgr.held (Chip.ended_power _ _)).trans h.held }

end

end Sys2Proof.Machine
end

section
/-!
PROOF. O21: what an operation does with its grant, the ceiling, throttling, and the obligation.
-/
namespace Sys2Proof.Machine

section
variable {c d : Chip} {s : State} {k : Nat} {h : Share} {r : LeaveReq} {p : Port} {v : Word}

/-- A change of the power manager and of registers. -/
theorem becomes_power {i : Instr} {f : Chip → Chip} {own : List Nat} {ok : Chip → Prop} {x : PowerMgr} (hi : exec i s = run f s)
    (hf : s.chip.Frame [.power] (· ∈ own) (f s.chip)) (hx : (f s.chip).power = x) (hok : ok (s.chip.ended (f s.chip))) :
    Becomes i s { s.chip with power := x } own ok := by
  refine becomes_of hi ?_ hok
  have hsince := hf.since (T := [.ecc]) .power (by simp)
  rw [Part.put, hx] at hsince
  exact hsince

/-! ### The grant of another operation than a burst -/

theorem grant_ends {reserve : Bool} {ok : Chip → Prop} (hr : s.chip.headReq = some r) (hg : s.chip.grantable r = some reserve)
    (hok : ok (s.chip.ended ((s.chip.grantHead r reserve).leaveUsed r.op))) : Ends .leaveGrant s ok := by
  refine ends_of (exec_leaveGrant s) ?_
  rw [Chip.leaveGrant_some hr hg]
  exact hok

theorem grant_idles (hr : s.chip.headReq = some r) (hg : s.chip.grantable r = none) : Idles .leaveGrant s :=
  idles_of (exec_leaveGrant s) (Chip.leaveGrant_none hr hg)

theorem Chip.grants_startWake {reserve : Bool} (hd : c.Grants d r reserve) (m : Domain) (lat : Nat) : c.Grants (d.startWake m lat) r reserve := by
  unfold Chip.startWake
  split
  · exact hd
  · exact { count := hd.count, waiting := hd.waiting, held := hd.held }

/-- What the uplink, the scrub and the self-test do with a grant leaves the power manager alone. -/
theorem Chip.grants_used {reserve : Bool} (hd : c.Grants d r reserve) {op : LeaveOp} (hop : LeaveOp.isFanout op = false)
    (hrule : op ≠ .ruleLoad) (hdir : op ≠ .dirLoad) : c.Grants (d.leaveUsed op) r reserve := by
  cases op with
  | core => exact Chip.grants_startWake hd _ _
  | uplink n =>
    have hset : d.Frame [] (Touched [.one UPLINK.LINK_STATUS_STATE]) (d.leaveUsed (.uplink n)) :=
      .ite (fun _ => (Chip.Frame.refl d).setFld _ _ _ _ (cells_one (by simp) n.isLt)) fun _ => .refl d
    exact hd.since hset (by decide) (not_touched (x := POWER.LEAVE_GRANTS_COUNT) (by decide) 0 0 (by decide) (by decide))
  | scrub m => exact hd.since ((Chip.Frame.refl d (S := []) (K := (· = DRAM.SCRUB_STATUS_STATE.key 0 0))).setFld _ _ _ _ rfl) (by decide) (by decide)
  | ruleLoad => exact absurd rfl hrule
  | dirLoad => exact absurd rfl hdir
  | bist b => exact hd
  | fanout k => cases hop

theorem grant_other (hr : s.chip.headReq = some r) (hop : LeaveOp.isFanout r.op = false) (hrule : r.op ≠ .ruleLoad) (hdir : r.op ≠ .dirLoad)
    (hfits : s.chip.committed + r.cost ≤ s.chip.fld POWER.CEILING_TOKENS) : Ends .leaveGrant s fun d => s.chip.Grants d r false ∧
      ∀ n : Fin 4, r.op = .uplink n → s.chip.fld UPLINK.LINK_STATUS_STATE n.val = ulLEAVE → d.fld UPLINK.LINK_STATUS_STATE n.val = ulBRINGUP := by
  have hgrants := s.chip.grants_grantHead r false
  refine grant_ends hr (Chip.grantable_fits hop hfits) ⟨(Chip.grants_used hgrants hop hrule hdir).ended, fun n hn hst => ?_⟩
  have hstill : (s.chip.grantHead r false).ulSt n.val = ulLEAVE :=
    ((s.chip.grantHead_frame r false).fld_apart UPLINK.LINK_STATUS_STATE n.val 0 (by decide) n.isLt (by decide)).trans hst
  have hused : (s.chip.grantHead r false).leaveUsed (.uplink n) = (s.chip.grantHead r false).setUlSt n.val ulBRINGUP := if_pos hstill
  rw [hn, Chip.ended_inst (by decide) n.isLt (by decide), hused]
  exact Chip.fld_setFld_self _ _ _ _ _

/-! ### The grant of a bulk load -/

theorem Chip.bulkGranted_more (hl : c.carder.bulkLeft ≠ 0) : c.bulkGranted = c.setFld CARDER.BULK_STATUS_STATE bkRUNNING := if_neg hl

theorem Chip.bulkGranted_none (hl : c.carder.bulkLeft = 0) :
    c.bulkGranted = ((c.setFld CARDER.BULK_STATUS_STATE bkRUNNING).bulkEnd bkDONE).raise EV.CARDER_BULK_DONE := if_pos hl

/-- A load with no record to carry out ends as it starts: its leave is given back, and the end is told. -/
def Chip.loadEnded (c : Chip) (r : FieldRow) (op : LeaveOp) (e : Evt) : Chip :=
  (((c.setFld r bkRUNNING).setFld r bkDONE).releaseLeave op).raise e

theorem Chip.loadEnded_says {b : Chip} {r : FieldRow} {op : LeaveOp} {e : Evt} (hup : d.domUp e.cls.domain = c.domUp e.cls.domain)
    (hr : (r.placed && r.cls.unlevelled) = true) (hcls : 0 < r.cls.count) (hwide : bkDONE < 2 ^ r.width)
    (he : e.bit < 32 ∧ e.cls = r.cls) (hlevel : e.key 0 ∉ levelKeys) (hoff : r.apart (.evt r.cls) = true)
    (hcount : ¬ Touched [.one r, .evt e.cls] (POWER.LEAVE_GRANTS_COUNT.key 0 0))
    (hdom : ¬ Touched [.one r] ((Domain.row e.cls.domain).key 0 0)) :
    (b.ended (d.loadEnded r op e)).fld POWER.LEAVE_GRANTS_COUNT = d.fld POWER.LEAVE_GRANTS_COUNT ∧
    (b.ended (d.loadEnded r op e)).leaveHeld op = false ∧ (b.ended (d.loadEnded r op e)).fld r = bkDONE ∧
    c.Tells (b.ended (d.loadEnded r op e)) e := by
  obtain ⟨hbit, hsame⟩ := he
  have hset : d.Frame [.power] (Touched [.one r]) (((d.setFld r bkRUNNING).setFld r bkDONE).releaseLeave op) :=
    (((Chip.Frame.refl d).setFld _ _ _ _ (cells_one (by simp) hcls)).setFld _ _ _ _ (cells_one (by simp) hcls)).andThen
      (Chip.releaseLeave_frame _ _) (by decide) fun _ hk => hk
  have hall : d.Frame [.power] (Touched [.one r, .evt e.cls]) (d.loadEnded r op e) :=
    (hset.mono (List.Subset.refl _) (Touched.mono (by simp))).raise _ _ (cells_evt (cls := e.cls) (n := 0) (by simp) (by rw [hsame]; exact hcls))
  refine ⟨?_, ?_, ?_, ?_⟩
  · rw [Chip.ended_fld _ _ _ _ _ (by decide), hall.fld _ _ _ hcount]
  · rw [Chip.leaveHeld_congr (Chip.ended_power _ _), Chip.loadEnded, Chip.leaveHeld_congr (Chip.raise_power _ _ _), Chip.leaveHeld_releaseLeave]
  · have hplaced : r.placed = true := (Bool.and_eq_true _ _ ▸ hr).1
    have hraise := Chip.fld_raise_apart (d := ((d.setFld r bkRUNNING).setFld r bkDONE).releaseLeave op) (e := e) (q := r) (n := 0) (m := 0) (j := 0)
      (by rw [hsame, hplaced, hoff]; rfl) (by rw [hsame]; exact hcls) hcls (by decide)
    have hkept := (Chip.releaseLeave_frame ((d.setFld r bkRUNNING).setFld r bkDONE) op (K := fun _ => False)).fld r 0 0 id
    rw [Chip.ended_inst hr hcls (by decide), Chip.loadEnded, hraise, hkept, Chip.fld_setFld_self]
    exact Nat.mod_eq_of_lt hwide
  · exact (Chip.tells_raise e 0 hbit ((hset.domUp _ hdom).trans hup)).ended hlevel

theorem grant_rules (hr : s.chip.headReq = some r) (hop : r.op = .ruleLoad)
    (hfits : s.chip.committed + r.cost ≤ s.chip.fld POWER.CEILING_TOKENS) :
    (s.chip.carder.bulkLeft ≠ 0 → Ends .leaveGrant s fun d => s.chip.Grants d r false ∧ d.fld CARDER.BULK_STATUS_STATE = bkRUNNING) ∧
    (s.chip.carder.bulkLeft = 0 → Ends .leaveGrant s fun d =>
      d.fld POWER.LEAVE_GRANTS_COUNT = (s.chip.fld POWER.LEAVE_GRANTS_COUNT + 1) % 2 ^ 32 ∧ d.leaveHeld .ruleLoad = false ∧
      d.fld CARDER.BULK_STATUS_STATE = bkDONE ∧ s.chip.Tells d EV.CARDER_BULK_DONE) := by
  have hgrants := s.chip.grants_grantHead r false
  have hhead := s.chip.grantHead_frame r false
  have hgo := Chip.grantable_fits (c := s.chip) (r := r) (by rw [hop]; rfl) hfits
  have hleft : (s.chip.grantHead r false).carder.bulkLeft = s.chip.carder.bulkLeft := congrArg _ (hhead.part .carder (by decide))
  refine ⟨fun hl => grant_ends hr hgo ?_, fun hl => grant_ends hr hgo ?_⟩ <;> rw [hop]
  · have hmore : (s.chip.grantHead r false).leaveUsed .ruleLoad = (s.chip.grantHead r false).setFld CARDER.BULK_STATUS_STATE bkRUNNING :=
      Chip.bulkGranted_more (by rw [hleft]; exact hl)
    have hset : (s.chip.grantHead r false).Frame [] (· = CARDER.BULK_STATUS_STATE.key 0 0)
        ((s.chip.grantHead r false).setFld CARDER.BULK_STATUS_STATE bkRUNNING) := (Chip.Frame.refl _).setFld _ _ _ _ rfl
    rw [hmore]
    refine ⟨(hgrants.since hset (by decide) (by decide)).ended, ?_⟩
    rw [Chip.ended_fld _ _ _ _ _ (by decide), Chip.fld_setFld_self]
    rfl
  · have hnone : (s.chip.grantHead r false).leaveUsed .ruleLoad =
        (s.chip.grantHead r false).loadEnded CARDER.BULK_STATUS_STATE .ruleLoad EV.CARDER_BULK_DONE :=
      Chip.bulkGranted_none (hleft.trans hl)
    obtain ⟨hcount, hrest⟩ := Chip.loadEnded_says (c := s.chip) (b := s.chip) (d := s.chip.grantHead r false) (r := CARDER.BULK_STATUS_STATE)
      (op := .ruleLoad) (e := EV.CARDER_BULK_DONE) (hhead.domUp _ (not_touched (by decide) 0 0 (by decide) (by decide))) (by decide) (by decide)
      (by decide) (by decide) (by decide) (by decide) (not_touched (by decide) 0 0 (by decide) (by decide))
      (not_touched (by decide) 0 0 (by decide) (by decide))
    rw [hnone]
    exact ⟨hcount.trans hgrants.count, hrest⟩

theorem Chip.wakeDistaff_frame (c : Chip) : c.Frame [.modes] (Touched [.evt .power]) c.wakeDistaff := by
  have hawake (x : Modes) : c.Frame [.modes] (Touched [.evt .power]) { c with modes := x } := (Chip.Frame.refl c).withModes _ (by decide)
  exact .ite (fun _ => (hawake _).raise _ _ (cells_evt (cls := .power) (n := 0) (by simp) (by decide))) fun _ => hawake _

theorem Chip.dirBulkGranted_more (hl : c.wakeDistaff.distaff.bulkLeft ≠ 0) :
    c.dirBulkGranted = c.wakeDistaff.setFld DISTAFF.BULK_STATUS_STATE bkRUNNING := if_neg hl

theorem Chip.dirBulkGranted_none (hl : c.wakeDistaff.distaff.bulkLeft = 0) :
    c.dirBulkGranted = c.wakeDistaff.loadEnded DISTAFF.BULK_STATUS_STATE .dirLoad EV.DISTAFF_BULK_DONE := if_pos hl

theorem grant_directory (hr : s.chip.headReq = some r) (hop : r.op = .dirLoad)
    (hfits : s.chip.committed + r.cost ≤ s.chip.fld POWER.CEILING_TOKENS) :
    (s.chip.distaff.bulkLeft ≠ 0 → Ends .leaveGrant s fun d => s.chip.Grants d r false ∧ d.fld DISTAFF.BULK_STATUS_STATE = bkRUNNING) ∧
    (s.chip.distaff.bulkLeft = 0 → Ends .leaveGrant s fun d =>
      d.fld POWER.LEAVE_GRANTS_COUNT = (s.chip.fld POWER.LEAVE_GRANTS_COUNT + 1) % 2 ^ 32 ∧ d.leaveHeld .dirLoad = false ∧
      d.fld DISTAFF.BULK_STATUS_STATE = bkDONE ∧ s.chip.Tells d EV.DISTAFF_BULK_DONE) := by
  have hhead := s.chip.grantHead_frame r false
  have hwake := (s.chip.grantHead r false).wakeDistaff_frame
  have hgrants : s.chip.Grants (s.chip.grantHead r false).wakeDistaff r false :=
    (s.chip.grants_grantHead r false).since hwake (by decide) (not_touched (by decide) 0 0 (by decide) (by decide))
  have hgo := Chip.grantable_fits (c := s.chip) (r := r) (by rw [hop]; rfl) hfits
  have hleft : (s.chip.grantHead r false).wakeDistaff.distaff.bulkLeft = s.chip.distaff.bulkLeft :=
    congrArg Distaff.bulkLeft ((hhead.part .distaff (by decide)).trans (hwake.part .distaff (by decide)))
  refine ⟨fun hl => grant_ends hr hgo ?_, fun hl => grant_ends hr hgo ?_⟩ <;> rw [hop]
  · have hmore : (s.chip.grantHead r false).leaveUsed .dirLoad =
        (s.chip.grantHead r false).wakeDistaff.setFld DISTAFF.BULK_STATUS_STATE bkRUNNING :=
      Chip.dirBulkGranted_more (by rw [hleft]; exact hl)
    have hset : (s.chip.grantHead r false).wakeDistaff.Frame [] (· = DISTAFF.BULK_STATUS_STATE.key 0 0)
        ((s.chip.grantHead r false).wakeDistaff.setFld DISTAFF.BULK_STATUS_STATE bkRUNNING) := (Chip.Frame.refl _).setFld _ _ _ _ rfl
    rw [hmore]
    refine ⟨(hgrants.since hset (by decide) (by decide)).ended, ?_⟩
    rw [Chip.ended_fld _ _ _ _ _ (by decide), Chip.fld_setFld_self]
    rfl
  · have hnone : (s.chip.grantHead r false).leaveUsed .dirLoad =
        (s.chip.grantHead r false).wakeDistaff.loadEnded DISTAFF.BULK_STATUS_STATE .dirLoad EV.DISTAFF_BULK_DONE :=
      Chip.dirBulkGranted_none (hleft.trans hl)
    have hup : (s.chip.grantHead r false).wakeDistaff.domUp .core = s.chip.domUp .core :=
      (hwake.domUp _ (not_touched (by decide) 0 0 (by decide) (by decide))).trans
        (hhead.domUp _ (not_touched (by decide) 0 0 (by decide) (by decide)))
    obtain ⟨hcount, hrest⟩ := Chip.loadEnded_says (c := s.chip) (b := s.chip) (d := (s.chip.grantHead r false).wakeDistaff)
      (r := DISTAFF.BULK_STATUS_STATE) (op := .dirLoad) (e := EV.DISTAFF_BULK_DONE) hup (by decide) (by decide)
      (by decide) (by decide) (by decide) (by decide) (not_touched (by decide) 0 0 (by decide) (by decide))
      (not_touched (by decide) 0 0 (by decide) (by decide))
    rw [hnone]
    exact ⟨hcount.trans hgrants.count, hrest⟩

/-! ### The grant of a burst -/

/-- A share with nothing to stage, and more to come. -/
def Chip.ShareIdles (c : Chip) (k : Nat) : Prop := ∀ h, c.share? k = some h → h.pending = [] ∧ h.closing = false

theorem Chip.updShare_frame {K : Nat → Prop} (f : Share → Share) : c.Frame [.distaff] K (c.updShare k f) := by
  unfold Chip.updShare
  split
  · exact Chip.setShare_frame _
  · exact .refl c

theorem Chip.ShareIdles.updShare (hc : c.ShareIdles k) {f : Share → Share} (hf : ∀ h, h.pending = [] ∧ h.closing = false →
    (f h).pending = [] ∧ (f h).closing = false) : (c.updShare k f).ShareIdles k := by
  intro h' hk'
  rcases hk : c.share? k with _ | h
  · rw [Chip.updShare, hk] at hk'
    rw [hk] at hk'
    cases hk'
  · rw [Chip.share?_updShare_self hk] at hk'
    cases hk'
    exact hf h (hc h hk)

theorem Chip.expirePending_idle (hc : c.ShareIdles k) : c.Frame [.distaff, .fates] (fun _ => False) (c.expirePending k) ∧
    (c.expirePending k).ShareIdles k := by
  unfold Chip.expirePending
  rcases hk : c.share? k with _ | h
  · exact ⟨.refl c, hc⟩
  · obtain ⟨hpending, -⟩ := hc h hk
    dsimp only
    rw [hpending]
    split
    · refine ⟨((Chip.Frame.refl c).withFates _ (by decide)).andThen (Chip.updShare_frame _) (by decide) fun _ hk => hk, ?_⟩
      refine Chip.ShareIdles.updShare ?_ ?_
      · exact hc
      · exact fun h hh => ⟨rfl, hh.2⟩
    · exact ⟨.refl c, hc⟩

theorem Chip.runShare_idle (hc : c.ShareIdles k) : c.Frame [.distaff, .fates] (fun _ => False) (c.runShare k) := by
  have htimed : c.Frame [.distaff, .fates] (fun _ => False) (c.shareTimed k) ∧ (c.shareTimed k).ShareIdles k := by
    unfold Chip.shareTimed
    split
    · exact Chip.expirePending_idle hc
    · exact ⟨.refl c, hc⟩
  obtain ⟨hframe, hidle⟩ := htimed
  rw [Chip.runShare_eq]
  split
  · exact hframe
  · next h hk =>
    obtain ⟨hpending, hclosing⟩ := hidle h hk
    refine hframe.trans ?_
    unfold Chip.shareRun
    rw [hpending]
    split
    · exact .refl _
    · have hpumped : (c.shareTimed k).pump k [] = (c.shareTimed k).updShare k fun h => { h with pending := [] } := by unfold Chip.pump; rfl
      have hstill : ((c.shareTimed k).updShare k fun h => { h with pending := [] }).share? k = some { h with pending := [] } :=
        Chip.share?_updShare_self hk _
      have hmore : ({ h with pending := [] } : Share).closing = false := hclosing
      dsimp only
      rw [hpumped, hstill]
      dsimp only
      rw [hmore, Bool.and_false]
      exact (Chip.updShare_frame _).mono (by decide) fun _ hk => hk

theorem grant_burst {reserve : Bool} (hr : s.chip.headReq = some r) (hop : r.op = .fanout k) (hg : s.chip.grantable r = some reserve)
    (hidle : s.chip.ShareIdles k) : Ends .leaveGrant s fun d => s.chip.Grants d r reserve := by
  have hstill : (s.chip.grantHead r reserve).ShareIdles k := hidle
  refine grant_ends hr hg ?_
  rw [hop]
  exact ((s.chip.grants_grantHead r reserve).since (Chip.runShare_idle hstill) (by decide) id).ended

theorem burst_grants (hr : s.chip.headReq = some r) (hop : r.op = .fanout k)
    (hs : ¬ (s.chip.power.ceilingCut = true ∧ s.chip.fld POWER.CEILING_TOKENS < s.chip.committed)) :
    (r.cost + s.chip.reserveUsed ≤ s.chip.fld POWER.RESERVE_FANOUT_RESERVE → s.chip.ShareIdles k →
      Ends .leaveGrant s fun d => s.chip.Grants d r true) ∧
    (¬ r.cost + s.chip.reserveUsed ≤ s.chip.fld POWER.RESERVE_FANOUT_RESERVE → s.chip.generalBudget < r.cost → Idles .leaveGrant s) ∧
    (¬ r.cost + s.chip.reserveUsed ≤ s.chip.fld POWER.RESERVE_FANOUT_RESERVE → (r.cost : Int) ≤ s.chip.generalBudget →
      (s.chip.committed + r.cost ≤ s.chip.fld POWER.CEILING_TOKENS → s.chip.ShareIdles k →
        Ends .leaveGrant s fun d => s.chip.Grants d r false) ∧
      (¬ s.chip.committed + r.cost ≤ s.chip.fld POWER.CEILING_TOKENS → Idles .leaveGrant s)) := by
  have hfan : LeaveOp.isFanout r.op = true := by rw [hop]; rfl
  have hgo : ¬ s.chip.grantsStopped = true := mt Chip.stopped_iff.mp hs
  refine ⟨fun hspare hidle => grant_burst hr hop (Chip.grantable_spare hfan hgo hspare) hidle, fun hspare hlow => ?_, fun hspare hlarge => ⟨?_, ?_⟩⟩
  · refine grant_idles hr ?_
    rw [Chip.grantable_general hfan hgo hspare, if_pos hlow]
  · intro hfits hidle
    refine grant_burst hr hop ?_ hidle
    rw [Chip.grantable_general hfan hgo hspare, if_neg (Int.not_lt.mpr hlarge), if_pos (decide_eq_true hfits)]
  · intro htight
    refine grant_idles hr ?_
    rw [Chip.grantable_general hfan hgo hspare, if_neg (Int.not_lt.mpr hlarge), if_neg (by rw [decide_eq_true_iff]; exact htight)]

/-! ### Late requests (R76, R81) -/

theorem exec_leaveSlow (s : State) : exec .leaveSlow s = run (fun c => c.whenDue c.slowDue Chip.leaveSlow) s := rfl

/-- The power manager with every request that has waited its LEAVE_WARN marked. -/
def Chip.slowMarked (c : Chip) : PowerMgr :=
  { c.power with waiting := c.power.waiting.map fun (r : LeaveReq) => if r.warnUs * usQ ≤ c.now - r.since then { r with slow := true } else r }

theorem Chip.leaveSlow_eq : c.leaveSlow = Chip.raise { c with power := c.slowMarked } EV.POWER_LEAVE_SLOW := rfl

theorem leaveSlow_marks (hdue : s.chip.slowDue = true) :
    Becomes .leaveSlow s { s.chip with power := s.chip.slowMarked } [EV.POWER_LEAVE_SLOW.key 0] fun d => s.chip.Tells d EV.POWER_LEAVE_SLOW := by
  have hmarked : s.chip.Frame [.power] (fun _ => False) { s.chip with power := s.chip.slowMarked } := (Chip.Frame.refl _).withPower _ (by decide)
  refine becomes_of_due (exec_leaveSlow s) hdue ?_ ?_ <;> rw [Chip.leaveSlow_eq]
  · exact (Chip.Frame.refl _).raise _ 0 (by simp)
  · exact (hmarked.tells_raise _ 0 (by decide) id).ended (by decide)

theorem exec_leaveDeadlineMiss (k : Nat) (s : State) : exec (.leaveDeadlineMiss k) s = run (fun c => c.whenDue (c.deadlineMissed k) fun d =>
    (d.updShare k fun h => { h with missed := true }).raise EV.POWER_LEAVE_DEADLINE_MISS) s := rfl

theorem deadlineMiss_tells (hdue : s.chip.deadlineMissed k = true) (hk : s.chip.share? k = some h) : Ends (.leaveDeadlineMiss k) s fun d =>
    d.share? k = some { h with missed := true } ∧ s.chip.Tells d EV.POWER_LEAVE_DEADLINE_MISS ∧ s.chip.SameStores d ∧ d.power = s.chip.power ∧
      s.chip.KeepsCells d [EV.POWER_LEAVE_DEADLINE_MISS.key 0] := by
  have hupd : s.chip.Frame [.distaff] (· ∈ [EV.POWER_LEAVE_DEADLINE_MISS.key 0]) (s.chip.updShare k fun h => { h with missed := true }) :=
    Chip.updShare_frame _
  have hall := hupd.raise EV.POWER_LEAVE_DEADLINE_MISS 0 (by simp)
  refine ends_of_due (exec_leaveDeadlineMiss k s) hdue ⟨?_, (hupd.tells_raise _ 0 (by decide) (by decide)).ended (by decide), ?_, ?_, hall.keepsCells⟩
  · rw [ended_share, Chip.share?_congr (Chip.raise_distaff _ _ _), Chip.share?_updShare_self hk]
  · exact (hall.sameStores (by decide) (hall.now (by decide))).ended
  · rw [Chip.ended_power, hall.part .power (by decide)]

/-! ### The ceiling (R77) -/

theorem exec_ceilingWrite (s : State) : exec (.ceilingWrite p v) s =
    run (fun c => c.accessField p POWER.CEILING_TOKENS 0 fun d => d.ceilingWrite p v.toNat) s := rfl

/-- CEILING as it is written. -/
def Chip.ceilingSet (c : Chip) (p : Port) (v : Nat) : Chip := c.plainWrite .power 0 POWER.CEILING_TOKENS.off v p

theorem Chip.ceilingSet_says (v : Nat) : c.Frame [] (· ∈ [POWER.CEILING_TOKENS.key 0 0]) (c.ceilingSet p v) ∧
    (c.ceilingSet p v).fld POWER.CEILING_TOKENS = bitsOf v POWER.CEILING_TOKENS.hi POWER.CEILING_TOKENS.lo := by
  have htaken : c.takenKeys .power 0 POWER.CEILING_TOKENS.off = [POWER.CEILING_TOKENS.key 0 0] := rfl
  rw [Chip.ceilingSet, Chip.plainWrite_open (Chip.sealedAt_open (by decide) _ _), ← htaken]
  exact ⟨c.plainFields_frame _ _ _ _ _, Chip.fld_plainFields (h := (POWER.CEILING_TOKENS, 0)) (List.mem_singleton.mpr rfl) v⟩

theorem Chip.ceilingWrite_eq (v : Nat) : c.ceilingWrite p v =
    if (c.ceilingSet p v).fld POWER.CEILING_TOKENS < (c.ceilingSet p v).committed then
      Chip.raise { c.ceilingSet p v with power := { (c.ceilingSet p v).power with ceilingCut := true } } EV.POWER_CEILING_BELOW_COMMITTED
    else (c.ceilingSet p v).ceilingJudge := rfl

/-- The power manager with its cut of the ceiling noted. -/
def Chip.cutTo (c : Chip) (cut : Bool) : PowerMgr := { c.power with ceilingCut := cut }

theorem Chip.ceilingSet_committed (v : Nat) : (c.ceilingSet p v).committed = c.committed := by
  obtain ⟨hset, -⟩ := c.ceilingSet_says (p := p) v
  have hpower : (c.ceilingSet p v).power = c.power := hset.part .power (by decide)
  rw [Chip.committed, hset.fld POWER.BASE_TOKENS 0 0 (by decide), hset.fld POWER.RESERVE_FANOUT_RESERVE 0 0 (by decide), hpower, Chip.committed]

theorem Chip.ceilingWrite_cut {v : Nat} (h : (c.ceilingSet p v).fld POWER.CEILING_TOKENS < c.committed) :
    c.ceilingWrite p v = Chip.raise { c.ceilingSet p v with power := (c.ceilingSet p v).cutTo true } EV.POWER_CEILING_BELOW_COMMITTED := by
  rw [← c.ceilingSet_committed (p := p) v] at h
  rw [Chip.ceilingWrite_eq, if_pos h]
  rfl

theorem Chip.ceilingWrite_whole {v : Nat} (h : ¬ (c.ceilingSet p v).fld POWER.CEILING_TOKENS < c.committed) :
    c.ceilingWrite p v = { c.ceilingSet p v with power := (c.ceilingSet p v).cutTo false } := by
  rw [← c.ceilingSet_committed (p := p) v] at h
  rw [Chip.ceilingWrite_eq, if_neg h, Chip.ceilingJudge_eq, decide_eq_false h, Bool.and_false]
  rfl

def ceilingKeys : List Nat := [POWER.CEILING_TOKENS.key 0 0, EV.POWER_CEILING_BELOW_COMMITTED.key 0]

/-- What a write of CEILING leaves, by whether the leave committed is within it. -/
theorem Chip.ceilingWrite_says (v : Nat) : c.Frame [.power] (· ∈ ceilingKeys) (c.ceilingWrite p v) ∧
    (c.ceilingWrite p v).power = c.cutTo (decide ((c.ceilingSet p v).fld POWER.CEILING_TOKENS < c.committed)) ∧
    (c.ceilingWrite p v).fld POWER.CEILING_TOKENS = (c.ceilingSet p v).fld POWER.CEILING_TOKENS ∧
    ((c.ceilingSet p v).fld POWER.CEILING_TOKENS < c.committed → c.Tells (c.ceilingWrite p v) EV.POWER_CEILING_BELOW_COMMITTED) := by
  obtain ⟨hset, -⟩ := c.ceilingSet_says (p := p) v
  have hpower : (c.ceilingSet p v).power = c.power := hset.part .power (by decide)
  have hcut (cut : Bool) : c.Frame [.power] (· ∈ [POWER.CEILING_TOKENS.key 0 0]) { c.ceilingSet p v with power := (c.ceilingSet p v).cutTo cut } :=
    (hset.mono (by decide) fun _ hk => hk).withPower _ (by decide)
  have hto (cut : Bool) : (c.ceilingSet p v).cutTo cut = c.cutTo cut := by rw [Chip.cutTo, hpower, Chip.cutTo]
  by_cases h : (c.ceilingSet p v).fld POWER.CEILING_TOKENS < c.committed
  · rw [Chip.ceilingWrite_cut h, decide_eq_true h]
    refine ⟨((hcut true).mono (List.Subset.refl _) fun k hk => List.mem_cons.mpr (.inl (List.mem_singleton.mp hk))).raise _ 0 (by decide), ?_, ?_, ?_⟩
    · rw [Chip.raise_power, hto]
    · exact Chip.fld_raise_apart (by decide) (by decide) (by decide) (by decide)
    · exact fun _ => (hcut true).tells_raise _ 0 (by decide) (by decide)
  · rw [Chip.ceilingWrite_whole h, decide_eq_false h]
    exact ⟨(hcut false).mono (List.Subset.refl _) fun k hk => List.mem_cons.mpr (.inl (List.mem_singleton.mp hk)), hto false, rfl,
      fun hlt => absurd hlt h⟩

theorem ceiling_moves (hopen : s.chip.Open p .power 0) : ∃ cut, Becomes (.ceilingWrite p v) s
    { s.chip with power := { s.chip.power with ceilingCut := cut } }
    [POWER.CEILING_TOKENS.key 0 0, EV.POWER_CEILING_BELOW_COMMITTED.key 0] fun d =>
      cut = decide (d.fld POWER.CEILING_TOKENS < s.chip.committed) ∧
      d.fld POWER.CEILING_TOKENS = bitsOf v.toNat POWER.CEILING_TOKENS.hi POWER.CEILING_TOKENS.lo ∧
      (d.fld POWER.CEILING_TOKENS < s.chip.committed → s.chip.Tells d EV.POWER_CEILING_BELOW_COMMITTED) := by
  obtain ⟨-, hvalue⟩ := s.chip.ceilingSet_says (p := p) v.toNat
  obtain ⟨hframe, hpower, hfld, htells⟩ := s.chip.ceilingWrite_says (p := p) v.toNat
  have hread : (s.chip.ended (s.chip.ceilingWrite p v.toNat)).fld POWER.CEILING_TOKENS = (s.chip.ceilingSet p v.toNat).fld POWER.CEILING_TOKENS :=
    (Chip.ended_fld _ _ _ _ _ (by decide)).trans hfld
  have hsince := hframe.since (T := [.ecc]) .power (by simp)
  rw [Part.put, hpower] at hsince
  refine ⟨_, becomes_of_access (exec_ceilingWrite s) hopen hsince ⟨?_, hread.trans hvalue, fun hlt => ?_⟩⟩
  · rw [hread]
  · rw [hread] at hlt
    exact (htells hlt).ended (by decide)

/-! ### Throttling (R78, R86) -/

theorem exec_throttleOn (est : BitVec 16) (s : State) : exec (.throttleOn est) s = run (fun c => c.throttleOn est.toNat) s := rfl

theorem exec_throttleOff (est : BitVec 16) (s : State) : exec (.throttleOff est) s = run (fun c => c.throttleEnd est.toNat) s := rfl

def estimateKeys : List Nat := [POWER.ESTIMATE_AVG_MW.key 0 0, EV.POWER_OVER_LIMIT.key 0]

theorem Chip.estimateSet_frame (est : Nat) : c.Frame [] (· ∈ [POWER.ESTIMATE_AVG_MW.key 0 0]) (c.setFld POWER.ESTIMATE_AVG_MW est) :=
  (Chip.Frame.refl c).setFld _ _ _ _ (by decide)

/-- A change that moves neither the power manager nor its limits. -/
theorem Chip.Frame.stopped {K : Nat → Prop} (hf : c.Frame [] K d) (hc : ¬ K (POWER.CEILING_TOKENS.key 0 0)) (hb : ¬ K (POWER.BASE_TOKENS.key 0 0))
    (hr : ¬ K (POWER.RESERVE_FANOUT_RESERVE.key 0 0)) : d.grantsStopped = c.grantsStopped := by
  have hpower : d.power = c.power := hf.part .power (by decide)
  rw [Chip.grantsStopped, Chip.committed, hf.fld _ _ _ hc, hf.fld _ _ _ hb, hf.fld _ _ _ hr, hpower, Chip.grantsStopped, Chip.committed]

theorem Chip.newEstimate_eq (est : Nat) : c.newEstimate est =
    if !c.grantsStopped && decide (168 * c.fld POWER.CEILING_TOKENS < est) then (c.setFld POWER.ESTIMATE_AVG_MW est).raise EV.POWER_OVER_LIMIT
    else c.setFld POWER.ESTIMATE_AVG_MW est := by
  have hset := c.estimateSet_frame est
  unfold Chip.newEstimate
  dsimp only
  rw [hset.stopped (by decide) (by decide) (by decide), hset.fld POWER.CEILING_TOKENS 0 0 (by decide)]

theorem Chip.newEstimate_stopped (est : Nat) (hs : c.grantsStopped = true) : c.newEstimate est = c.setFld POWER.ESTIMATE_AVG_MW est := by
  rw [Chip.newEstimate_eq, hs]
  rfl

theorem Chip.newEstimate_frame (est : Nat) : c.Frame [] (· ∈ estimateKeys) (c.newEstimate est) := by
  have hset : c.Frame [] (· ∈ estimateKeys) (c.setFld POWER.ESTIMATE_AVG_MW est) := (Chip.Frame.refl c).setFld _ _ _ _ (by decide)
  rw [Chip.newEstimate_eq]
  exact .ite (fun _ => hset.raise _ 0 (by decide)) fun _ => hset

theorem Chip.newEstimate_value (est : BitVec 16) : (c.newEstimate est.toNat).fld POWER.ESTIMATE_AVG_MW = est.toNat := by
  have hset : (c.setFld POWER.ESTIMATE_AVG_MW est.toNat).fld POWER.ESTIMATE_AVG_MW = est.toNat :=
    (Chip.fld_setFld_self _ _ _ _ _).trans (Nat.mod_eq_of_lt est.isLt)
  rw [Chip.newEstimate_eq]
  split
  · exact (Chip.fld_raise_apart (by decide) (by decide) (by decide) (by decide)).trans hset
  · exact hset

theorem Chip.newEstimate_tells {est : Nat} (hs : ¬ c.grantsStopped = true) (hover : 168 * c.fld POWER.CEILING_TOKENS < est) :
    c.Tells (c.newEstimate est) EV.POWER_OVER_LIMIT := by
  rw [Chip.newEstimate_eq, if_pos (by rw [Bool.not_eq_true] at hs; rw [hs, decide_eq_true hover]; rfl)]
  exact (c.estimateSet_frame est).tells_raise _ 0 (by decide) (by decide)

theorem Chip.newEstimate_high (est x : Nat) : (c.newEstimate est).estimateHigh x = c.estimateHigh x := by
  rw [Chip.estimateHigh, (c.newEstimate_frame est).fld POWER.CEILING_TOKENS 0 0 (by decide), Chip.estimateHigh]

theorem Chip.newEstimate_still (est : Nat) : (c.newEstimate est).grantsStopped = c.grantsStopped :=
  (c.newEstimate_frame est).stopped (by decide) (by decide) (by decide)

theorem Chip.newEstimate_power (est : Nat) : (c.newEstimate est).power = c.power := (c.newEstimate_frame est).part .power (by decide)

/-- Throttling begins. -/
def Chip.starts (c : Chip) (est : Nat) : Bool := c.estimateHigh est && !c.power.throttling && !c.grantsStopped

theorem Chip.starts_iff {est : Nat} : c.starts est = true ↔
    160 * c.fld POWER.CEILING_TOKENS ≤ est ∧ c.power.throttling = false ∧ ¬ (c.power.ceilingCut = true ∧ c.fld POWER.CEILING_TOKENS <
        c.committed) := by
  rw [Chip.starts, Bool.and_eq_true, Bool.and_eq_true, Chip.estimateHigh, decide_eq_true_iff, Bool.not_eq_true', Bool.not_eq_true',
    ← Chip.stopped_iff, Bool.not_eq_true, and_assoc]

/-- The power manager as throttling begins. -/
def Chip.throttlingFrom (c : Chip) : PowerMgr := { c.power with throttling := true, throttleAcc := 0 }

/-- The block as throttling begins. -/
def Chip.throttleStarted (c : Chip) (est : Nat) : Chip := Chip.raise { c.newEstimate est with power := c.throttlingFrom } EV.POWER_THROTTLE_ON

theorem Chip.throttleOn_eq (est : Nat) : c.throttleOn est = if c.starts est then c.throttleStarted est else c.newEstimate est := by
  have heq : c.throttleOn est = if (c.newEstimate est).starts est then
      Chip.raise { c.newEstimate est with power := (c.newEstimate est).throttlingFrom } EV.POWER_THROTTLE_ON else c.newEstimate est := rfl
  rw [heq, Chip.starts, Chip.throttlingFrom, Chip.newEstimate_high, Chip.newEstimate_still, Chip.newEstimate_power, Chip.starts,
    Chip.throttleStarted, Chip.throttlingFrom]

theorem Chip.throttleStarted_says (est : BitVec 16) : c.Frame [.power] (· ∈ estimateKeys) (c.throttleStarted est.toNat) ∧
    (c.throttleStarted est.toNat).power = c.throttlingFrom ∧ (c.throttleStarted est.toNat).fld POWER.ESTIMATE_AVG_MW = est.toNat ∧
    c.Tells (c.throttleStarted est.toNat) EV.POWER_THROTTLE_ON ∧ (c.newEstimate est.toNat).KeepsEvents (c.throttleStarted est.toNat) := by
  have hvalue := Chip.newEstimate_value (c := c) est
  have hnew := c.newEstimate_frame est.toNat
  unfold Chip.throttleStarted
  generalize c.newEstimate est.toNat = e at hvalue hnew ⊢
  have hpower : c.Frame [.power] (· ∈ estimateKeys) { e with power := c.throttlingFrom } :=
    (hnew.mono (by decide) fun _ hk => hk).withPower _ (by decide)
  refine ⟨hpower.raise _ 0 (by decide), Chip.raise_power _ _ _, ?_, hpower.tells_raise _ 0 (by decide) (by decide), ?_⟩
  · exact (Chip.fld_raise_apart (by decide) (by decide) (by decide) (by decide)).trans hvalue
  · have hsame : e.KeepsEvents { e with power := c.throttlingFrom } := Chip.keepsEvents_of_regs rfl
    exact hsame.raise _ _

theorem throttle_begins (est : BitVec 16) (hstart : s.chip.starts est.toNat = true) :
    Becomes (.throttleOn est) s { s.chip with power := s.chip.throttlingFrom }
      [POWER.ESTIMATE_AVG_MW.key 0 0, EV.POWER_THROTTLE_ON.key 0] fun d => d.fld POWER.ESTIMATE_AVG_MW = est.toNat ∧
        s.chip.Tells d EV.POWER_THROTTLE_ON ∧
        (¬ (s.chip.power.ceilingCut = true ∧ s.chip.fld POWER.CEILING_TOKENS < s.chip.committed) →
          168 * s.chip.fld POWER.CEILING_TOKENS < est.toNat → s.chip.Tells d EV.POWER_OVER_LIMIT) := by
  obtain ⟨hframe, hpower, hvalue, htells, hkeeps⟩ := s.chip.throttleStarted_says est
  have hon : s.chip.throttleOn est.toNat = s.chip.throttleStarted est.toNat := (Chip.throttleOn_eq _).trans (if_pos hstart)
  have hover := Chip.newEstimate_tells (c := s.chip) (est := est.toNat)
  refine becomes_power (exec_throttleOn est s) (hon ▸ hframe) (hon ▸ hpower) ?_
  rw [hon]
  exact ⟨(Chip.ended_fld _ _ _ _ _ (by decide)).trans hvalue, htells.ended (by decide),
    fun hs hlt => ((hover (mt Chip.stopped_iff.mp hs) hlt).keeps hkeeps (by decide)).ended (by decide)⟩

/-- A new estimate alone. -/
theorem estimate_moves {i : Instr} {f : Chip → Chip} (est : BitVec 16) (hi : exec i s = run f s) (hf : f s.chip = s.chip.newEstimate est.toNat) :
    SetsRegs i s [POWER.ESTIMATE_AVG_MW.key 0 0, EV.POWER_OVER_LIMIT.key 0] fun d => d.fld POWER.ESTIMATE_AVG_MW = est.toNat ∧
      (¬ (s.chip.power.ceilingCut = true ∧ s.chip.fld POWER.CEILING_TOKENS < s.chip.committed) →
        168 * s.chip.fld POWER.CEILING_TOKENS < est.toNat → s.chip.Tells d EV.POWER_OVER_LIMIT) := by
  refine setsRegs_of hi ?_ ⟨?_, fun hs hover => ?_⟩ <;> rw [hf]
  · exact (s.chip.newEstimate_frame est.toNat).mono (by decide) fun _ hk => hk
  · exact (Chip.ended_fld _ _ _ _ _ (by decide)).trans (Chip.newEstimate_value est)
  · exact (Chip.newEstimate_tells (mt Chip.stopped_iff.mp hs) hover).ended (by decide)

theorem suspended_holds (est : BitVec 16) (hs : s.chip.grantsStopped = true) :
    Idles .leaveGrant s ∧ SetsRegs (.throttleOn est) s [POWER.ESTIMATE_AVG_MW.key 0 0] fun d => d.fld POWER.ESTIMATE_AVG_MW = est.toNat := by
  have hon : s.chip.throttleOn est.toNat = s.chip.setFld POWER.ESTIMATE_AVG_MW est.toNat := by
    rw [Chip.throttleOn_eq, Chip.starts, hs, Chip.newEstimate_stopped _ hs, Bool.not_true, Bool.and_false]
    rfl
  refine ⟨idles_of (exec_leaveGrant s) (Chip.leaveGrant_stopped hs), setsRegs_of (exec_throttleOn est s) ?_ ?_⟩ <;> rw [hon]
  · exact (s.chip.estimateSet_frame est.toNat).mono (by decide) fun _ hk => hk
  · exact (Chip.ended_fld _ _ _ _ _ (by decide)).trans ((Chip.fld_setFld_self _ _ _ _ _).trans (Nat.mod_eq_of_lt est.isLt))

/-- Throttling ends: what it paused goes on, and it is not on again. -/
theorem throttle_ends (est : BitVec 16) (hlow : est.toNat < 160 * s.chip.fld POWER.CEILING_TOKENS) :
    Ends (.throttleOff est) s fun d => d.power.throttling = false := by
  have hoff : (s.chip.throttleOff est.toNat).power.throttling = false := by
    have hhigh : (s.chip.newEstimate est.toNat).estimateHigh est.toNat = false := by
      rw [Chip.newEstimate_high, Chip.estimateHigh, decide_eq_false (Nat.not_le.mpr hlow)]
    unfold Chip.throttleOff
    dsimp only
    rw [hhigh]
    rfl
  refine ends_of (exec_throttleOff est s) ?_
  rw [Chip.ended_power]
  unfold Chip.throttleEnd
  dsimp only
  split
  · exact Chip.resumes_resumeAll.throttling.trans hoff
  · exact hoff

theorem Chip.throttleEnd_high {est : Nat} (hhigh : 160 * c.fld POWER.CEILING_TOKENS ≤ est) : c.throttleEnd est = c.newEstimate est := by
  have hoff : c.throttleOff est = c.newEstimate est := by
    unfold Chip.throttleOff
    dsimp only
    rw [Chip.newEstimate_high, Chip.estimateHigh, decide_eq_true hhigh]
    rfl
  unfold Chip.throttleEnd
  dsimp only
  rw [hoff, Chip.newEstimate_power, Bool.and_not_self]
  rfl

end

/-- Settles O21: each request follows its answer, each grant its operation; and what goes on as throttling ends does not begin it again. -/
theorem leaveAndCeiling : Obligations.LeaveAndCeiling := by
  unfold Obligations.LeaveAndCeiling
  refine ⟨fun s => ⟨fun b hw hh => bist_asks hw hh, fun n hw hh hst hen hmode hno hok => ?_, fun p v hv => ⟨?_, ?_⟩,
      fun k h m hk hcmd hon hwait hasked hheavy hstart => ?_⟩,
    fun s r hr => ⟨fun hop hrule hdir hfits => ?_, fun hop htight => grant_idles hr (Chip.grantable_tight hop htight), fun hop hfits => ⟨?_, ?_⟩,
      fun hop hfits => ⟨?_, ?_⟩, fun k hop hs => ?_⟩,
    fun s est hcut hlt => suspended_holds est (Chip.stopped_iff.mpr ⟨hcut, hlt⟩),
    fun s k h => ⟨leaveSlow_marks, idles_of_not_due (exec_leaveSlow s), deadlineMiss_tells, idles_of_not_due (exec_leaveDeadlineMiss k s)⟩,
    fun s p v est => ⟨ceiling_moves, fun hstart => throttle_begins est (Chip.starts_iff.mpr hstart), fun hstart => ?_, throttle_ends est,
      fun hhigh => estimate_moves est (exec_throttleOff est s) (Chip.throttleEnd_high hhigh)⟩⟩
  · have hmay : s.chip.MayTry n.val := by
      refine ⟨hst, hen, mode_running.mpr hmode, ?_⟩
      rw [Chip.on, bne_eq_false_iff_eq] at hno
      exact hno
    exact uplink_asks hw hh hmay hok
  · exact fun hopen hinit hidle => carderBulk_asks hv hopen hinit hidle
  · exact fun hopen hidle => distaffBulk_asks hv hopen hidle
  · have hasks : s.chip.BurstAsks k h m :=
      { share := hk, cmd := hcmd, core := hon, waits := hwait, asked := hasked, heavy := hheavy, start := hstart }
    exact ⟨burst_takes hasks, burst_waits hasks, burst_ends hasks⟩
  · refine (grant_other hr hop hrule hdir hfits).imp fun d ⟨hgrants, huplink⟩ => ⟨⟨hgrants.count, hgrants.waiting, hgrants.held⟩, huplink⟩
  · intro hleft
    obtain ⟨hmore, -⟩ := grant_rules hr hop hfits
    exact (hmore hleft).imp fun d ⟨hgrants, hst⟩ => ⟨⟨hgrants.count, hgrants.waiting, hgrants.held⟩, hst⟩
  · obtain ⟨-, hnone⟩ := grant_rules hr hop hfits
    exact hnone
  · intro hleft
    obtain ⟨hmore, -⟩ := grant_directory hr hop hfits
    exact (hmore hleft).imp fun d ⟨hgrants, hst⟩ => ⟨⟨hgrants.count, hgrants.waiting, hgrants.held⟩, hst⟩
  · obtain ⟨-, hnone⟩ := grant_directory hr hop hfits
    exact hnone
  · obtain ⟨hspare, hlow, hlarge⟩ := burst_grants hr hop hs
    refine ⟨fun hfit hidle => (hspare hfit hidle).imp fun d hd => ⟨hd.count, hd.waiting, hd.held⟩, hlow, fun hfit hbudget => ?_⟩
    obtain ⟨hgo, htight⟩ := hlarge hfit hbudget
    exact ⟨fun hfits hidle => (hgo hfits hidle).imp fun d hd => ⟨hd.count, hd.waiting, hd.held⟩, htight⟩
  · exact estimate_moves est (exec_throttleOn est s) ((Chip.throttleOn_eq _).trans (if_neg (mt Chip.starts_iff.mp hstart)))

end Sys2Proof.Machine
end
